-- ==== Sys2Proof/Word.lean ====
section
/-! DEFINITION. The word types of the LM8400: a register word of 32 bits, a byte, and the 64-bit
words of two-word registers, stamps and seeds (R8, R560). -/

namespace Sys2Proof

/-- A register word: every BAR0 register is 32 bits wide (R556). -/
abbrev Word := BitVec 32

/-- A byte of memory, of a frame or of a record. -/
abbrev Byte := BitVec 8

/-- A 64-bit value: device time, a tick number, a seed, a packed key. -/
abbrev DWord := BitVec 64

end Sys2Proof
end

