-- ==== Sys2Proof/Machine/Trig.lean ====
section
/-! DEFINITION. The sine and cosine tables of R137 (03_proposals.md): COS[i] and SIN[i] equal
round(cos(2 pi i / 4096) * 2^30) and round(sin(2 pi i / 4096) * 2^30). The quarter wave is listed from that
formula; the other three quarters follow by symmetry. -/

namespace Sys2Proof.Machine

/-- COS entries 0 to 63 of R137. -/
def cosPart0 : List Int :=
  [ 1073741824, 1073740561, 1073736771, 1073730454, 1073721611, 1073710241, 1073696345, 1073679922,
   1073660973, 1073639498, 1073615496, 1073588967, 1073559913, 1073528332, 1073494225, 1073457592,
   1073418433, 1073376748, 1073332538, 1073285802, 1073236540, 1073184753, 1073130440, 1073073603,
   1073014240, 1072952352, 1072887940, 1072821003, 1072751542, 1072679556, 1072605046, 1072528012,
   1072448455, 1072366374, 1072281769, 1072194642, 1072104991, 1072012818, 1071918122, 1071820903,
   1071721163, 1071618901, 1071514117, 1071406812, 1071296985, 1071184638, 1071069770, 1070952382,
   1070832474, 1070710046, 1070585099, 1070457632, 1070327646, 1070195142, 1070060120, 1069922579,
   1069782521, 1069639946, 1069494854, 1069347245, 1069197120, 1069044479, 1068889322, 1068731650 ]

/-- COS entries 64 to 127 of R137. -/
def cosPart1 : List Int :=
  [ 1068571464, 1068408763, 1068243547, 1068075818, 1067905576, 1067732821, 1067557554, 1067379774,
   1067199483, 1067016680, 1066831367, 1066643544, 1066453210, 1066260367, 1066065015, 1065867154,
   1065666786, 1065463909, 1065258526, 1065050636, 1064840240, 1064627338, 1064411931, 1064194019,
   1063973603, 1063750684, 1063525261, 1063297336, 1063066909, 1062833980, 1062598550, 1062360620,
   1062120190, 1061877261, 1061631833, 1061383907, 1061133483, 1060880563, 1060625146, 1060367233,
   1060106826, 1059843923, 1059578527, 1059310638, 1059040255, 1058767381, 1058492016, 1058214159,
   1057933813, 1057650977, 1057365653, 1057077840, 1056787540, 1056494753, 1056199480, 1055901722,
   1055601479, 1055298753, 1054993543, 1054685850, 1054375676, 1054063021, 1053747885, 1053430270 ]

/-- COS entries 128 to 191 of R137. -/
def cosPart2 : List Int :=
  [ 1053110176, 1052787604, 1052462555, 1052135029, 1051805027, 1051472550, 1051137599, 1050800175,
   1050460278, 1050117909, 1049773069, 1049425759, 1049075980, 1048723732, 1048369016, 1048011834,
   1047652185, 1047290071, 1046925492, 1046558451, 1046188946, 1045816980, 1045442553, 1045065665,
   1044686319, 1044304514, 1043920252, 1043533534, 1043144360, 1042752731, 1042358649, 1041962114,
   1041563127, 1041161689, 1040757802, 1040351465, 1039942680, 1039531448, 1039117770, 1038701647,
   1038283080, 1037862069, 1037438617, 1037012723, 1036584389, 1036153615, 1035720404, 1035284755,
   1034846671, 1034406151, 1033963197, 1033517810, 1033069992, 1032619742, 1032167062, 1031711954,
   1031254418, 1030794455, 1030332067, 1029867254, 1029400018, 1028930359, 1028458280, 1027983780 ]

/-- COS entries 192 to 255 of R137. -/
def cosPart3 : List Int :=
  [ 1027506862, 1027027525, 1026545772, 1026061603, 1025575020, 1025086024, 1024594615, 1024100796,
   1023604567, 1023105929, 1022604883, 1022101432, 1021595575, 1021087314, 1020576651, 1020063586,
   1019548121, 1019030256, 1018509994, 1017987335, 1017462281, 1016934832, 1016404991, 1015872758,
   1015338134, 1014801122, 1014261721, 1013719934, 1013175761, 1012629204, 1012080264, 1011528943,
   1010975242, 1010419162, 1009860704, 1009299870, 1008736660, 1008171077, 1007603122, 1007032796,
   1006460100, 1005885036, 1005307605, 1004727809, 1004145648, 1003561124, 1002974239, 1002384994,
   1001793390, 1001199428, 1000603111, 1000004439, 999403415, 998800038, 998194311, 997586236,
   996975812, 996363043, 995747930, 995130473, 994510675, 993888536, 993264059, 992637245 ]

/-- COS entries 256 to 319 of R137. -/
def cosPart4 : List Int :=
  [ 992008094, 991376610, 990742793, 990106644, 989468165, 988827359, 988184225, 987538766,
   986890984, 986240879, 985588453, 984933708, 984276646, 983617267, 982955574, 982291568,
   981625251, 980956623, 980285688, 979612445, 978936898, 978259047, 977578894, 976896441,
   976211688, 975524639, 974835295, 974143656, 973449725, 972753504, 972054994, 971354196,
   970651112, 969945745, 969238095, 968528165, 967815955, 967101468, 966384706, 965665669,
   964944360, 964220780, 963494932, 962766816, 962036435, 961303790, 960568883, 959831716,
   959092290, 958350608, 957606670, 956860479, 956112036, 955361344, 954608403, 953853216,
   953095785, 952336111, 951574196, 950810042, 950043650, 949275023, 948504163, 947731070 ]

/-- COS entries 320 to 383 of R137. -/
def cosPart5 : List Int :=
  [ 946955747, 946178196, 945398418, 944616416, 943832191, 943045745, 942257081, 941466198,
   940673101, 939877790, 939080267, 938280535, 937478595, 936674448, 935868098, 935059546,
   934248793, 933435842, 932620694, 931803352, 930983817, 930162092, 929338177, 928512076,
   927683790, 926853322, 926020672, 925185843, 924348837, 923509656, 922668302, 921824777,
   920979082, 920131221, 919281194, 918429004, 917574653, 916718143, 915859476, 914998653,
   914135678, 913270551, 912403276, 911533853, 910662286, 909788576, 908912725, 908034735,
   907154608, 906272347, 905387953, 904501429, 903612776, 902721998, 901829095, 900934069,
   900036924, 899137661, 898236282, 897332790, 896427186, 895519473, 894609652, 893697727 ]

/-- COS entries 384 to 447 of R137. -/
def cosPart6 : List Int :=
  [ 892783698, 891867569, 890949341, 890029016, 889106597, 888182086, 887255485, 886326796,
   885396022, 884463164, 883528225, 882591207, 881652112, 880710943, 879767701, 878822389,
   877875009, 876925563, 875974054, 875020483, 874064853, 873107167, 872147426, 871185633,
   870221790, 869255900, 868287963, 867317984, 866345964, 865371905, 864395810, 863417681,
   862437520, 861455330, 860471112, 859484870, 858496606, 857506321, 856514019, 855519701,
   854523370, 853525028, 852524677, 851522321, 850517961, 849511600, 848503239, 847492882,
   846480531, 845466188, 844449856, 843431536, 842411232, 841388945, 840364679, 839338435,
   838310216, 837280024, 836247863, 835213733, 834177638, 833139580, 832099562, 831057586 ]

/-- COS entries 448 to 511 of R137. -/
def cosPart7 : List Int :=
  [ 830013654, 828967769, 827919934, 826870150, 825818421, 824764748, 823709135, 822651583,
   821592095, 820530675, 819467323, 818402043, 817334838, 816265709, 815194659, 814121692,
   813046808, 811970011, 810891304, 809810688, 808728167, 807643743, 806557419, 805469196,
   804379079, 803287068, 802193167, 801097379, 799999706, 798900150, 797798714, 796695401,
   795590213, 794483153, 793374223, 792263427, 791150767, 790036244, 788919863, 787801625,
   786681534, 785559591, 784435800, 783310163, 782182683, 781053363, 779922204, 778789210,
   777654384, 776517728, 775379244, 774238936, 773096806, 771952857, 770807092, 769659512,
   768510122, 767358923, 766205919, 765051111, 763894504, 762736098, 761575898, 760413906 ]

/-- COS entries 512 to 575 of R137. -/
def cosPart8 : List Int :=
  [ 759250125, 758084557, 756917205, 755748072, 754577161, 753404474, 752230015, 751053785,
   749875788, 748696026, 747514503, 746331221, 745146182, 743959390, 742770848, 741580558,
   740388522, 739194745, 737999228, 736801974, 735602987, 734402269, 733199822, 731995651,
   730789757, 729582143, 728372813, 727161768, 725949013, 724734549, 723518380, 722300508,
   721080937, 719859669, 718636707, 717412054, 716185713, 714957687, 713727978, 712496590,
   711263525, 710028787, 708792378, 707554301, 706314559, 705073155, 703830092, 702585372,
   701339000, 700090977, 698841307, 697589992, 696337036, 695082441, 693826211, 692568348,
   691308855, 690047736, 688784993, 687520629, 686254647, 684987051, 683717842, 682447025 ]

/-- COS entries 576 to 639 of R137. -/
def cosPart9 : List Int :=
  [ 681174602, 679900576, 678624950, 677347728, 676068911, 674788504, 673506508, 672222928,
   670937767, 669651026, 668362709, 667072820, 665781362, 664488336, 663193747, 661897597,
   660599890, 659300629, 657999816, 656697454, 655393548, 654088099, 652781111, 651472587,
   650162530, 648850943, 647537830, 646223192, 644907034, 643589359, 642270169, 640949467,
   639627258, 638303543, 636978327, 635651611, 634323400, 632993696, 631662503, 630329823,
   628995660, 627660017, 626322897, 624984303, 623644239, 622302707, 620959711, 619615253,
   618269338, 616921967, 615573145, 614222875, 612871159, 611518001, 610163404, 608807372,
   607449906, 606091012, 604730691, 603368947, 602005783, 600641203, 599275210, 597907806 ]

/-- COS entries 640 to 703 of R137. -/
def cosPart10 : List Int :=
  [ 596538995, 595168781, 593797166, 592424154, 591049748, 589673951, 588296766, 586918198,
   585538248, 584156920, 582774218, 581390144, 580004702, 578617896, 577229728, 575840202,
   574449320, 573057087, 571663506, 570268579, 568872310, 567474703, 566075761, 564675486,
   563273883, 561870954, 560466703, 559061133, 557654248, 556246051, 554836544, 553425732,
   552013618, 550600205, 549185496, 547769495, 546352205, 544933630, 543513772, 542092635,
   540670223, 539246538, 537821584, 536395365, 534967884, 533539144, 532109148, 530677900,
   529245404, 527811662, 526376678, 524940456, 523502998, 522064309, 520624391, 519183248,
   517740883, 516297300, 514852502, 513406493, 511959275, 510510853, 509061229, 507610408 ]

/-- COS entries 704 to 767 of R137. -/
def cosPart11 : List Int :=
  [ 506158392, 504705185, 503250791, 501795212, 500338453, 498880516, 497421405, 495961124,
   494499676, 493037064, 491573292, 490108363, 488642281, 487175049, 485706671, 484237150,
   482766489, 481294693, 479821764, 478347705, 476872522, 475396216, 473918791, 472440251,
   470960600, 469479840, 467997976, 466515010, 465030947, 463545789, 462059541, 460572205,
   459083786, 457594286, 456103710, 454612060, 453119340, 451625555, 450130706, 448634799,
   447137835, 445639820, 444140756, 442640647, 441139496, 439637307, 438134084, 436629829,
   435124548, 433618242, 432110916, 430602573, 429093217, 427582852, 426071480, 424559105,
   423045732, 421531363, 420016002, 418499653, 416982319, 415464004, 413944711, 412424444 ]

/-- COS entries 768 to 831 of R137. -/
def cosPart12 : List Int :=
  [ 410903207, 409381002, 407857835, 406333708, 404808624, 403282588, 401755603, 400227673,
   398698801, 397168991, 395638246, 394106570, 392573967, 391040440, 389505993, 387970630,
   386434353, 384897167, 383359076, 381820082, 380280190, 378739403, 377197725, 375655159,
   374111709, 372567379, 371022173, 369476093, 367929144, 366381329, 364832652, 363283116,
   361732726, 360181484, 358629395, 357076462, 355522689, 353968079, 352412636, 350856364,
   349299266, 347741347, 346182609, 344623057, 343062693, 341501523, 339939549, 338376774,
   336813204, 335248841, 333683689, 332117752, 330551034, 328983538, 327415267, 325846226,
   324276419, 322705848, 321134518, 319562433, 317989595, 316416009, 314841679, 313266607 ]

/-- COS entries 832 to 895 of R137. -/
def cosPart13 : List Int :=
  [ 311690799, 310114257, 308536985, 306958988, 305380268, 303800829, 302220676, 300639811,
   299058239, 297475964, 295892988, 294309316, 292724951, 291139898, 289554160, 287967740,
   286380643, 284792871, 283204430, 281615322, 280025552, 278435122, 276844038, 275252302,
   273659918, 272066891, 270473223, 268878918, 267283981, 265688415, 264092224, 262495412,
   260897982, 259299937, 257701283, 256102022, 254502159, 252901697, 251300640, 249698991,
   248096755, 246493935, 244890535, 243286558, 241682010, 240076892, 238471210, 236864966,
   235258165, 233650811, 232042906, 230434456, 228825464, 227215933, 225605867, 223995270,
   222384147, 220772500, 219160334, 217547651, 215934457, 214320755, 212706549, 211091842 ]

/-- COS entries 896 to 959 of R137. -/
def cosPart14 : List Int :=
  [ 209476638, 207860942, 206244756, 204628085, 203010932, 201393302, 199775198, 198156624,
   196537583, 194918080, 193298119, 191677702, 190056834, 188435520, 186813762, 185191564,
   183568930, 181945865, 180322371, 178698453, 177074115, 175449360, 173824192, 172198615,
   170572633, 168946249, 167319468, 165692293, 164064728, 162436778, 160808445, 159179733,
   157550647, 155921191, 154291367, 152661180, 151030634, 149399733, 147768480, 146136880,
   144504935, 142872651, 141240030, 139607077, 137973796, 136340190, 134706263, 133072019,
   131437462, 129802595, 128167423, 126531950, 124896179, 123260114, 121623759, 119987118,
   118350194, 116712992, 115075515, 113437768, 111799753, 110161476, 108522939, 106884147 ]

/-- COS entries 960 to 1023 of R137. -/
def cosPart15 : List Int :=
  [ 105245103, 103605812, 101966277, 100326502, 98686491, 97046247, 95405776, 93765079,
   92124163, 90483029, 88841683, 87200127, 85558366, 83916404, 82274245, 80631892,
   78989349, 77346620, 75703709, 74060620, 72417357, 70773924, 69130324, 67486561,
   65842639, 64198563, 62554335, 60909960, 59265442, 57620785, 55975992, 54331067,
   52686014, 51040837, 49395541, 47750128, 46104602, 44458968, 42813230, 41167391,
   39521455, 37875426, 36229307, 34583104, 32936819, 31290457, 29644021, 27997515,
   26350943, 24704310, 23057618, 21410872, 19764076, 18117233, 16470347, 14823423,
   13176464, 11529474, 9882456, 8235416, 6588356, 4941281, 3294193, 1647099 ]

/-- COS entries 1024 to 1024 of R137. -/
def cosPart16 : List Int :=
  [ 0 ]

/-- The quarter wave: entries 0 to 1,024 of COS. -/
def cosQuarter : Array Int :=
  (cosPart0 ++ cosPart1 ++ cosPart2 ++ cosPart3 ++ cosPart4 ++ cosPart5 ++ cosPart6 ++ cosPart7 ++ cosPart8 ++ cosPart9 ++ cosPart10 ++ cosPart11 ++ cosPart12 ++ cosPart13 ++ cosPart14 ++ cosPart15 ++ cosPart16).toArray

/-- COS[i] of R137, the index taken modulo 4,096. -/
def cosTab (i : Nat) : Int :=
  let j := i % 4096
  if j ≤ 1024 then cosQuarter.getD j 0
  else if j ≤ 2048 then - cosQuarter.getD (2048 - j) 0
  else if j ≤ 3072 then - cosQuarter.getD (j - 2048) 0
  else cosQuarter.getD (4096 - j) 0

/-- SIN[i] of R137: the sine is the cosine a quarter wave later. -/
def sinTab (i : Nat) : Int := cosTab (i + 3072)

end Sys2Proof.Machine
end

