-- ==== Sys2Proof/Machine/Fixed.lean ====
section
/-! DEFINITION. The integer helpers shared by every engine: narrowing to the widths of R61, saturation, the
integer square root of R143, the cell index of R64, and the byte strings of the memory-resident formats
(R9: little-endian). Arithmetic is exact on Int and Nat and narrowed explicitly at the end. -/

namespace Sys2Proof.Machine

/-- `v` as an unsigned field of `n` bits: the low `n` bits of the two's complement form. -/
def unsignedOf (n : Nat) (v : Int) : Nat := (v % (2 ^ n : Int)).toNat

/-- The low `n` bits of `v` read as a signed field. -/
def signedOf (n : Nat) (v : Int) : Int :=
  let u := v % (2 ^ n : Int)
  if u < (2 ^ (n - 1) : Int) then u else u - (2 ^ n : Int)

/-- `v` limited to the closed range from `lo` to `hi`. -/
def clampInt (v lo hi : Int) : Int := max lo (min hi v)

/-- Saturation of an unsigned sum at `2^n - 1`. -/
def satNat (n v : Nat) : Nat := min v (2 ^ n - 1)

/-- An unsigned 32-bit sum that saturates at 0xFFFF_FFFF (R142, R214). -/
def satAdd32 (a b : Nat) : Nat := satNat 32 (a + b)

/-- A counter field of a register counted up by one, saturating. -/
def satInc (w : Word) : Word := if w = BitVec.allOnes 32 then w else w + 1

/-- A counter field of a register counted up by `n`, saturating. -/
def satAddWord (w : Word) (n : Nat) : Word := BitVec.ofNat 32 (satNat 32 (w.toNat + n))

/-- Whether `v` lies in the range of a signed 32-bit value. -/
def inInt32 (v : Int) : Bool := decide (-2147483648 ≤ v ∧ v ≤ 2147483647)

/-- One step of the bitwise square root: bit `b` joins the root `r` when the square still fits. -/
def isqrtLoop (n : Nat) : Nat → Nat → Nat
  | 0, r => r
  | b + 1, r =>
    let r' := r + 2 ^ b
    if r' * r' ≤ n then isqrtLoop n b r' else isqrtLoop n b r

/-- The integer square root, rounded down, of a value below 2^128 (R143). -/
def isqrt (n : Nat) : Nat := isqrtLoop n 64 0

/-- The base-2 logarithm of the cell multiplier m of R64, which is 1, 2, 4 or 8. -/
def log2m (m : Nat) : Nat := if m ≥ 8 then 3 else if m ≥ 4 then 2 else if m ≥ 2 then 1 else 0

/-- The cell index of a Q-metric coordinate (R64): x times 10, shifted right arithmetically. -/
def cellOf (x : Int) (m : Nat) : Int := (x * 10) >>> (12 + log2m m)

/-- The table index of a 16-bit heading (R203): the heading rounded to 12 bits. -/
def headingIndex (h : Nat) : Nat := (((h * 65536) + 0x80000) % 4294967296) / 1048576 % 4096

/-- The little-endian bytes of `v` in `n` bytes (R9). -/
def leBytes : Nat → Nat → List Byte
  | 0, _ => []
  | n + 1, v => BitVec.ofNat 8 v :: leBytes n (v / 256)

/-- The little-endian bytes of a signed value in `n` bytes. -/
def leBytesInt (n : Nat) (v : Int) : List Byte := leBytes n (unsignedOf (8 * n) v)

/-- The big-endian bytes of `v` in `n` bytes, as RFC 8017 writes octet strings (R298). -/
def beBytes (n v : Nat) : List Byte := (leBytes n v).reverse

/-- The value of a little-endian byte string (R9). -/
def ofLe : List Byte → Nat
  | [] => 0
  | b :: bs => b.toNat + 256 * ofLe bs

/-- The value of a big-endian octet string. -/
def ofBe (bs : List Byte) : Nat := ofLe bs.reverse

/-- `len` bytes of `bs` from offset `off`, read as an unsigned little-endian field. -/
def fieldU (bs : List Byte) (off len : Nat) : Nat := ofLe ((bs.drop off).take len)

/-- `len` bytes of `bs` from offset `off`, read as a signed little-endian field. -/
def fieldS (bs : List Byte) (off len : Nat) : Int := signedOf (8 * len) (fieldU bs off len)

/-- `bs` cut or padded with zero bytes to `n` bytes. -/
def padTo (n : Nat) (bs : List Byte) : List Byte := (bs ++ List.replicate (n - bs.length) 0).take n

/-- `bs` cut into pieces of `k` bytes, `n` pieces at most. -/
def chunksOf (k : Nat) : Nat → List Byte → List (List Byte)
  | 0, _ => []
  | n + 1, bs => if bs.isEmpty then [] else bs.take k :: chunksOf k n (bs.drop k)

/-- Whether every byte is zero, the test for reserved bytes. -/
def allZero (bs : List Byte) : Bool := bs.all (· == 0)

/-- Bits `hi` to `lo` of a register word, as a number (R8: both ends included). -/
def bits (w : Word) (hi lo : Nat) : Nat := (w.toNat / 2 ^ lo) % 2 ^ (hi + 1 - lo)

/-- Bit `n` of a register word. -/
def bit (w : Word) (n : Nat) : Bool := w.getLsbD n

/-- A word with the field `hi` to `lo` replaced by `v`. -/
def setBits (w : Word) (hi lo v : Nat) : Word :=
  let mask : Word := BitVec.ofNat 32 ((2 ^ (hi + 1 - lo) - 1) * 2 ^ lo)
  (w &&& ~~~mask) ||| (BitVec.ofNat 32 (v * 2 ^ lo) &&& mask)

/-- A word with bit `n` set to `b`. -/
def setBit (w : Word) (n : Nat) (b : Bool) : Word := setBits w n n (if b then 1 else 0)

/-- A Boolean as a field value. -/
def bnat (b : Bool) : Nat := if b then 1 else 0

/-- A register word from its fields, each given with its lowest bit. -/
def packFields (fs : List (Nat × Nat)) : Word :=
  BitVec.ofNat 32 (fs.foldl (fun a f => a + f.2 * 2 ^ f.1) 0)

/-- Division rounded up. -/
def ceilDiv (a b : Nat) : Nat := (a + b - 1) / b

/-- One step of mix64 (R127). -/
def mixStep (x : DWord) : DWord :=
  let x := x + 0x13198A2E03707344#64
  let x := x ^^^ x.rotateRight 12 ^^^ x.rotateRight 40
  x + x.rotateLeft 28

/-- The generator mix64 of R127. -/
def mix64 (k a b : DWord) : DWord :=
  let h := k ^^^ 0x243F6A8885A308D3#64
  let h := mixStep (h + a)
  let h := mixStep (h + b)
  mixStep (mixStep h)

/-- The signed 16-bit value that a perturbation takes from a mix64 result (R125, R267). -/
def mixSigned (x : DWord) : Int := signedOf 16 (x.toNat / 2 ^ 48)

end Sys2Proof.Machine
end

