-- ==== Sys2Proof/Machine/Regs.lean ====
section
/-! DEFINITION. The register map: where every register of BAR0 stands (R579 to R581, and the register tables of
each chapter), the access type of each of its fields as masks (R12), its reset value, and the kinds of offset
that hold no register (R559). An offset is a primary offset in BAR0; the alias views are resolved before. -/

namespace Sys2Proof.Machine

/-- The two Stope compute dies (00_scope, The package and its dies). -/
inductive Die where
  | s0
  | s1
  deriving DecidableEq, Repr

/-- The region of BAR0 that holds a die's blocks (R579). -/
def Die.base : Die → Nat
  | .s0 => 0x400000
  | .s1 => 0x800000

/-- The die's number, 0 or 1. -/
def Die.idx : Die → Nat
  | .s0 => 0
  | .s1 => 1

/-- The die with the number `n`. -/
def Die.ofIdx (n : Nat) : Die := if n = 0 then .s0 else .s1

/-- The other Stope die. -/
def Die.other : Die → Die
  | .s0 => .s1
  | .s1 => .s0

/-- One register, or one array of registers: its offset (in BAR0 for a hub block, in the die's region for a die
block), the distance and number of its elements, the masks of its fields by access type (R12), and its reset value.
Bits in no mask are RO or reserved. -/
structure RegDef where
  off : Nat
  stride : Nat
  count : Nat
  rw : Nat
  sh : Nat
  rc : Nat
  wo : Nat
  w1p : Nat
  rwl : Nat
  rst : Nat
  deriving DecidableEq, Repr

/-- Whether the offset `o` is an element of the register or array `r`. -/
def RegDef.holds (r : RegDef) (o : Nat) : Bool :=
  decide (r.off ≤ o) && decide ((o - r.off) % r.stride = 0) && decide ((o - r.off) / r.stride < r.count)


/-- `TICK.CTRL` (01_tick). -/
def rTickCtrl : Nat := 0x20000

/-- `TICK.PERIOD` (01_tick). -/
def rTickPeriod : Nat := 0x20004

/-- `TICK.TIME_SET_LO` (01_tick). -/
def rTickTimeSetLo : Nat := 0x20008

/-- `TICK.TIME_SET_HI` (01_tick). -/
def rTickTimeSetHi : Nat := 0x2000C

/-- `TICK.TIME_LO` (01_tick). -/
def rTickTimeLo : Nat := 0x20010

/-- `TICK.TIME_HI` (01_tick). -/
def rTickTimeHi : Nat := 0x20014

/-- `TICK.T0_LO` (01_tick). -/
def rTickT0Lo : Nat := 0x20018

/-- `TICK.T0_HI` (01_tick). -/
def rTickT0Hi : Nat := 0x2001C

/-- `TICK.NUM_SET_LO` (01_tick). -/
def rTickNumSetLo : Nat := 0x20020

/-- `TICK.NUM_SET_HI` (01_tick). -/
def rTickNumSetHi : Nat := 0x20024

/-- `TICK.NUM_LO` (01_tick). -/
def rTickNumLo : Nat := 0x20028

/-- `TICK.NUM_HI` (01_tick). -/
def rTickNumHi : Nat := 0x2002C

/-- `TICK.STATUS` (01_tick). -/
def rTickStatus : Nat := 0x20030

/-- `TICK.EVENTS` (01_tick). -/
def rTickEvents : Nat := 0x20034

/-- `TICK.OVR_COUNT` (01_tick). -/
def rTickOvrCount : Nat := 0x20038

/-- `TICK.INVALID_RUN` (01_tick). -/
def rTickInvalidRun : Nat := 0x2003C

/-- `TICK.PHASE` (01_tick). -/
def rTickPhase (i : Nat) : Nat := 0x20040 + 0x4 * i

/-- `TICK.CUTS` (01_tick). -/
def rTickCuts : Nat := 0x20058

/-- `TICK.IN_TOL` (01_tick). -/
def rTickInTol : Nat := 0x2005C

/-- `WORLD.CTRL` (02_world). -/
def rWorldCtrl : Nat := 0x60000

/-- `WORLD.STATUS` (02_world). -/
def rWorldStatus : Nat := 0x60004

/-- `WORLD.EVENTS` (02_world). -/
def rWorldEvents : Nat := 0x60008

/-- `WORLD.EPOCH` (02_world). -/
def rWorldEpoch : Nat := 0x6000C

/-- `WORLD.EPOCH_SET` (02_world). -/
def rWorldEpochSet : Nat := 0x60010

/-- `WORLD.DIR_BASE_LO` (02_world). -/
def rWorldDirBaseLo : Nat := 0x60014

/-- `WORLD.DIR_BASE_HI` (02_world). -/
def rWorldDirBaseHi : Nat := 0x60018

/-- `WORLD.DIR_EXT` (02_world). -/
def rWorldDirExt : Nat := 0x6001C

/-- `WORLD.DIR_TX0` (02_world). -/
def rWorldDirTx0 : Nat := 0x60020

/-- `WORLD.DIR_TY0` (02_world). -/
def rWorldDirTy0 : Nat := 0x60024

/-- `WORLD.STORE_BASE_LO` (02_world). -/
def rWorldStoreBaseLo : Nat := 0x60028

/-- `WORLD.STORE_BASE_HI` (02_world). -/
def rWorldStoreBaseHi : Nat := 0x6002C

/-- `WORLD.STORE_SLOTS` (02_world). -/
def rWorldStoreSlots : Nat := 0x60030

/-- `WORLD.REJ_LAST` (02_world). -/
def rWorldRejLast : Nat := 0x60034

/-- `WORLD.STREAM_SEL` (02_world). -/
def rWorldStreamSel : Nat := 0x60038

/-- `WORLD.STREAM_ACC` (02_world). -/
def rWorldStreamAcc : Nat := 0x6003C

/-- `WORLD.STREAM_REJ` (02_world). -/
def rWorldStreamRej : Nat := 0x60040

/-- `WORLD.STREAM_LATE` (02_world). -/
def rWorldStreamLate : Nat := 0x60044

/-- `WORLD.CONTENT` (02_world). -/
def rWorldContent : Nat := 0x60048

/-- `WORLD.URGENT` (02_world). -/
def rWorldUrgent : Nat := 0x6004C

/-- `WORLD.COMMIT_NS` (02_world). -/
def rWorldCommitNs : Nat := 0x60050

/-- `PAGER.CFG` (02_world). -/
def rPagerCfg (d : Die) : Nat := d.base + 0x10000

/-- `PAGER.ORIGIN_TX` (02_world). -/
def rPagerOriginTx (d : Die) : Nat := d.base + 0x10004

/-- `PAGER.ORIGIN_TY` (02_world). -/
def rPagerOriginTy (d : Die) : Nat := d.base + 0x10008

/-- `PAGER.MISSING_LO` (02_world). -/
def rPagerMissingLo (d : Die) : Nat := d.base + 0x1000C

/-- `PAGER.MISSING_HI` (02_world). -/
def rPagerMissingHi (d : Die) : Nat := d.base + 0x10010

/-- `PAGER.LOADS` (02_world). -/
def rPagerLoads (d : Die) : Nat := d.base + 0x10014

/-- `PAGER.LOAD_TOTAL` (02_world). -/
def rPagerLoadTotal (d : Die) : Nat := d.base + 0x10018

/-- `PAGER.EVENTS` (02_world). -/
def rPagerEvents (d : Die) : Nat := d.base + 0x1001C

/-- `RE.CFG` (03_proposals). -/
def rReCfg (d : Die) : Nat := d.base + 0x30000

/-- `RE.DT` (03_proposals). -/
def rReDt (d : Die) : Nat := d.base + 0x30004

/-- `RE.PLAN_OFS` (03_proposals). -/
def rRePlanOfs (d : Die) : Nat := d.base + 0x30008

/-- `RE.LATTICE` (03_proposals). -/
def rReLattice (d : Die) : Nat := d.base + 0x3000C

/-- `RE.ANCHORS` (03_proposals). -/
def rReAnchors (d : Die) : Nat := d.base + 0x30010

/-- `RE.CAP` (03_proposals). -/
def rReCap (d : Die) : Nat := d.base + 0x30014

/-- `RE.COUNT` (03_proposals). -/
def rReCount (d : Die) : Nat := d.base + 0x30018

/-- `RE.REFUSED` (03_proposals). -/
def rReRefused (d : Die) : Nat := d.base + 0x3001C

/-- `RE.ACTIVE` (03_proposals). -/
def rReActive (d : Die) : Nat := d.base + 0x30020

/-- `RE.SEED_SET_LO` (03_proposals). -/
def rReSeedSetLo (d : Die) : Nat := d.base + 0x30024

/-- `RE.SEED_SET_HI` (03_proposals). -/
def rReSeedSetHi (d : Die) : Nat := d.base + 0x30028

/-- `RE.SEED_LO` (03_proposals). -/
def rReSeedLo (d : Die) : Nat := d.base + 0x3002C

/-- `RE.SEED_HI` (03_proposals). -/
def rReSeedHi (d : Die) : Nat := d.base + 0x30030

/-- `RE.TSEED_LO` (03_proposals). -/
def rReTseedLo (d : Die) : Nat := d.base + 0x30034

/-- `RE.TSEED_HI` (03_proposals). -/
def rReTseedHi (d : Die) : Nat := d.base + 0x30038

/-- `RE.LIM_A` (03_proposals). -/
def rReLimA (d : Die) : Nat := d.base + 0x3003C

/-- `RE.LIM_K` (03_proposals). -/
def rReLimK (d : Die) : Nat := d.base + 0x30040

/-- `RE.LIM_V` (03_proposals). -/
def rReLimV (d : Die) : Nat := d.base + 0x30044

/-- `RE.TRAILER` (03_proposals). -/
def rReTrailer (d : Die) : Nat := d.base + 0x30048

/-- `RE.PSI_MAX` (03_proposals). -/
def rRePsiMax (d : Die) : Nat := d.base + 0x3004C

/-- `RE.OFFSETS` (03_proposals). -/
def rReOffsets (d : Die) : Nat := d.base + 0x30050

/-- `RE.JITTER` (03_proposals). -/
def rReJitter (d : Die) : Nat := d.base + 0x30054

/-- `RE.EVENTS` (03_proposals). -/
def rReEvents (d : Die) : Nat := d.base + 0x30058

/-- `RE.STALL` (03_proposals). -/
def rReStall (d : Die) : Nat := d.base + 0x3005C

/-- `PA.CFG` (04_policy_array). -/
def rPaCfg (d : Die) : Nat := d.base + 0x20000

/-- `PA.STATUS` (04_policy_array). -/
def rPaStatus (d : Die) : Nat := d.base + 0x20004

/-- `PA.ROWMAP` (04_policy_array). -/
def rPaRowmap (d : Die) : Nat := d.base + 0x20008

/-- `PA.ORDER` (04_policy_array). -/
def rPaOrder (d : Die) : Nat := d.base + 0x2000C

/-- `PA.TEST` (04_policy_array). -/
def rPaTest (d : Die) : Nat := d.base + 0x20010

/-- `PA.TEST_COUNT` (04_policy_array). -/
def rPaTestCount (d : Die) : Nat := d.base + 0x20014

/-- `PA.EVENTS` (04_policy_array). -/
def rPaEvents (d : Die) : Nat := d.base + 0x20018

/-- `PA.PROPOSE_NS` (04_policy_array). -/
def rPaProposeNs (d : Die) : Nat := d.base + 0x2001C

/-- `PA.OPS` (04_policy_array). -/
def rPaOps (d : Die) : Nat := d.base + 0x20020

/-- `PA.PAGER_BYTES` (04_policy_array). -/
def rPaPagerBytes (d : Die) : Nat := d.base + 0x20024

/-- `PA.PAGER_STALL` (04_policy_array). -/
def rPaPagerStall (d : Die) : Nat := d.base + 0x20028

/-- `PA.MISMATCH` (04_policy_array). -/
def rPaMismatch (d : Die) : Nat := d.base + 0x2002C

/-- `PA.RSTATE` (04_policy_array). -/
def rPaRstate (d : Die) : Nat := d.base + 0x20030

/-- `PA.BUF_CE` (04_policy_array). -/
def rPaBufCe (d : Die) : Nat := d.base + 0x20034

/-- `CE.ENG_STATUS` (05_sweep). -/
def rCeEngStatus (d : Die) (i : Nat) : Nat := d.base + 0x40000 + 0x100 * i

/-- `CE.ENG_EVENTS` (05_sweep). -/
def rCeEngEvents (d : Die) (i : Nat) : Nat := d.base + 0x40004 + 0x100 * i

/-- `CE.ENG_ECC` (05_sweep). -/
def rCeEngEcc (d : Die) (i : Nat) : Nat := d.base + 0x40008 + 0x100 * i

/-- `CE.ENG_SAMPLES_LO` (05_sweep). -/
def rCeEngSamplesLo (d : Die) (i : Nat) : Nat := d.base + 0x4000C + 0x100 * i

/-- `CE.ENG_SAMPLES_HI` (05_sweep). -/
def rCeEngSamplesHi (d : Die) (i : Nat) : Nat := d.base + 0x40010 + 0x100 * i

/-- `CE.ENG_CANARY_FAILS` (05_sweep). -/
def rCeEngCanaryFails (d : Die) (i : Nat) : Nat := d.base + 0x40014 + 0x100 * i

/-- `CE.CFG` (05_sweep). -/
def rCeCfg (d : Die) : Nat := d.base + 0x48000

/-- `CE.P_LIMIT` (05_sweep). -/
def rCePLimit (d : Die) : Nat := d.base + 0x48004

/-- `CE.BUFS` (05_sweep). -/
def rCeBufs (d : Die) : Nat := d.base + 0x48008

/-- `CE.REACH` (05_sweep). -/
def rCeReach (d : Die) : Nat := d.base + 0x4800C

/-- `CE.DISC_OFS` (05_sweep). -/
def rCeDiscOfs (d : Die) (i : Nat) : Nat := d.base + 0x48010 + 0x8 * i

/-- `CE.DISC_RAD` (05_sweep). -/
def rCeDiscRad (d : Die) (i : Nat) : Nat := d.base + 0x48014 + 0x8 * i

/-- `CE.BOX_OFS` (05_sweep). -/
def rCeBoxOfs (d : Die) (i : Nat) : Nat := d.base + 0x48050 + 0x8 * i

/-- `CE.BOX_EXT` (05_sweep). -/
def rCeBoxExt (d : Die) (i : Nat) : Nat := d.base + 0x48054 + 0x8 * i

/-- `CE.MAP` (05_sweep). -/
def rCeMap (d : Die) (i : Nat) : Nat := d.base + 0x48070 + 0x4 * i

/-- `CE.SERVING` (05_sweep). -/
def rCeServing (d : Die) (i : Nat) : Nat := d.base + 0x480B0 + 0x4 * i

/-- `CE.RETIRED` (05_sweep). -/
def rCeRetired (d : Die) (i : Nat) : Nat := d.base + 0x480BC + 0x4 * i

/-- `CE.TEST` (05_sweep). -/
def rCeTest (d : Die) : Nat := d.base + 0x480C8

/-- `CE.SWEEP_NS` (05_sweep). -/
def rCeSweepNs (d : Die) : Nat := d.base + 0x480CC

/-- `CE.STEP_MAX` (05_sweep). -/
def rCeStepMax (d : Die) : Nat := d.base + 0x480D0

/-- `CE.DENSE_SAMPLES` (05_sweep). -/
def rCeDenseSamples (d : Die) : Nat := d.base + 0x480D4

/-- `CE.UNKNOWN_SAMPLES` (05_sweep). -/
def rCeUnknownSamples (d : Die) : Nat := d.base + 0x480D8

/-- `CE.CANARY` (05_sweep). -/
def rCeCanary (d : Die) : Nat := d.base + 0x480DC

/-- `CE.EVENTS` (05_sweep). -/
def rCeEvents (d : Die) : Nat := d.base + 0x480E0

/-- `CE.POOL` (05_sweep). -/
def rCePool (d : Die) : Nat := d.base + 0x480E4

/-- `SEL.CFG` (06_merit_select). -/
def rSelCfg (d : Die) : Nat := d.base + 0x50000

/-- `SEL.BASE` (06_merit_select). -/
def rSelBase (d : Die) : Nat := d.base + 0x50004

/-- `SEL.W` (06_merit_select). -/
def rSelW (d : Die) (i : Nat) : Nat := d.base + 0x50008 + 0x4 * i

/-- `SEL.E_STATUS` (06_merit_select). -/
def rSelEStatus (d : Die) (i : Nat) : Nat := d.base + 0x50040 + 0x20 * i

/-- `SEL.E_VALID` (06_merit_select). -/
def rSelEValid (d : Die) (i : Nat) : Nat := d.base + 0x50044 + 0x20 * i

/-- `SEL.E_KTH` (06_merit_select). -/
def rSelEKth (d : Die) (i : Nat) : Nat := d.base + 0x50048 + 0x20 * i

/-- `SEL.E_TIE_TOTAL` (06_merit_select). -/
def rSelETieTotal (d : Die) (i : Nat) : Nat := d.base + 0x5004C + 0x20 * i

/-- `SEL.E_TIE_KEPT` (06_merit_select). -/
def rSelETieKept (d : Die) (i : Nat) : Nat := d.base + 0x50050 + 0x20 * i

/-- `SEL.E_DUPS` (06_merit_select). -/
def rSelEDups (d : Die) (i : Nat) : Nat := d.base + 0x50054 + 0x20 * i

/-- `SEL.E_MISMATCHES` (06_merit_select). -/
def rSelEMismatches (d : Die) (i : Nat) : Nat := d.base + 0x50058 + 0x20 * i

/-- `SEL.E_CYCLES` (06_merit_select). -/
def rSelECycles (d : Die) (i : Nat) : Nat := d.base + 0x5005C + 0x20 * i

/-- `SEL.EVENTS` (06_merit_select). -/
def rSelEvents (d : Die) : Nat := d.base + 0x50080

/-- `SEL.OPS` (06_merit_select). -/
def rSelOps (d : Die) : Nat := d.base + 0x50084

/-- `SEL.SW_DESC_LO` (06_merit_select). -/
def rSelSwDescLo (d : Die) : Nat := d.base + 0x50088

/-- `SEL.SW_DESC_HI` (06_merit_select). -/
def rSelSwDescHi (d : Die) : Nat := d.base + 0x5008C

/-- `SEL.SW_GO` (06_merit_select). -/
def rSelSwGo (d : Die) : Nat := d.base + 0x50090

/-- `SEL.STALL` (06_merit_select). -/
def rSelStall (d : Die) : Nat := d.base + 0x50094

/-- `HEAP.CFG` (07_refine_output). -/
def rHeapCfg (d : Die) : Nat := d.base + 0x60000

/-- `HEAP.AMP` (07_refine_output). -/
def rHeapAmp (d : Die) : Nat := d.base + 0x60004

/-- `HEAP.TIMEUP` (07_refine_output). -/
def rHeapTimeup (d : Die) : Nat := d.base + 0x60008

/-- `HEAP.FALLBACK` (07_refine_output). -/
def rHeapFallback (d : Die) : Nat := d.base + 0x6000C

/-- `HEAP.REDUN` (07_refine_output). -/
def rHeapRedun (d : Die) : Nat := d.base + 0x60010

/-- `HEAP.STATUS` (07_refine_output). -/
def rHeapStatus (d : Die) : Nat := d.base + 0x60014

/-- `HEAP.EXPANDED` (07_refine_output). -/
def rHeapExpanded (d : Die) : Nat := d.base + 0x60018

/-- `HEAP.DROPPED` (07_refine_output). -/
def rHeapDropped (d : Die) : Nat := d.base + 0x6001C

/-- `HEAP.REF_NS` (07_refine_output). -/
def rHeapRefNs (d : Die) : Nat := d.base + 0x60020

/-- `HEAP.FC_STATUS` (07_refine_output). -/
def rHeapFcStatus (d : Die) : Nat := d.base + 0x60024

/-- `HEAP.FC_NS` (07_refine_output). -/
def rHeapFcNs (d : Die) : Nat := d.base + 0x60028

/-- `HEAP.VOTES_TOTAL` (07_refine_output). -/
def rHeapVotesTotal (d : Die) : Nat := d.base + 0x6002C

/-- `HEAP.EVENTS` (07_refine_output). -/
def rHeapEvents (d : Die) : Nat := d.base + 0x60030

/-- `HEAP.TRACE_CTRL` (07_refine_output). -/
def rHeapTraceCtrl (d : Die) : Nat := d.base + 0x60034

/-- `HEAP.TRACE_DROP` (07_refine_output). -/
def rHeapTraceDrop (d : Die) : Nat := d.base + 0x60038

/-- `STRUCT.CTRL` (08_structure_image). -/
def rStructCtrl : Nat := 0xD0000

/-- `STRUCT.STATUS` (08_structure_image). -/
def rStructStatus : Nat := 0xD0004

/-- `STRUCT.SRC_LO` (08_structure_image). -/
def rStructSrcLo : Nat := 0xD0008

/-- `STRUCT.SRC_HI` (08_structure_image). -/
def rStructSrcHi : Nat := 0xD000C

/-- `STRUCT.LEN` (08_structure_image). -/
def rStructLen : Nat := 0xD0010

/-- `STRUCT.ERR_ITEM` (08_structure_image). -/
def rStructErrItem : Nat := 0xD0014

/-- `STRUCT.FORMAT` (08_structure_image). -/
def rStructFormat : Nat := 0xD0018

/-- `STRUCT.IMAGE_ID` (08_structure_image). -/
def rStructImageId : Nat := 0xD001C

/-- `STRUCT.COMPILER` (08_structure_image). -/
def rStructCompiler : Nat := 0xD0020

/-- `STRUCT.KEY` (08_structure_image). -/
def rStructKey : Nat := 0xD0024

/-- `STRUCT.FIT` (08_structure_image). -/
def rStructFit : Nat := 0xD0028

/-- `STRUCT.MARGIN` (08_structure_image). -/
def rStructMargin : Nat := 0xD002C

/-- `STRUCT.MIN_PERIOD` (08_structure_image). -/
def rStructMinPeriod : Nat := 0xD0030

/-- `STRUCT.LOAD_US` (08_structure_image). -/
def rStructLoadUs : Nat := 0xD0034

/-- `STRUCT.LOADS` (08_structure_image). -/
def rStructLoads : Nat := 0xD0038

/-- `STRUCT.DIGEST` (08_structure_image). -/
def rStructDigest (i : Nat) : Nat := 0xD0040 + 0x4 * i

/-- `OVM.STATUS` (09_overman_memory). -/
def rOvmStatus (d : Die) : Nat := d.base + 0x0

/-- `OVM.LIST_SEL` (09_overman_memory). -/
def rOvmListSel (d : Die) : Nat := d.base + 0x4

/-- `OVM.LIST_OCC` (09_overman_memory). -/
def rOvmListOcc (d : Die) : Nat := d.base + 0x8

/-- `OVM.POOL` (09_overman_memory). -/
def rOvmPool (d : Die) : Nat := d.base + 0xC

/-- `OVM.POOL_SIZE` (09_overman_memory). -/
def rOvmPoolSize (d : Die) : Nat := d.base + 0x10

/-- `OVM.TASKS` (09_overman_memory). -/
def rOvmTasks (d : Die) : Nat := d.base + 0x14

/-- `OVM.BP_CYCLES` (09_overman_memory). -/
def rOvmBpCycles (d : Die) : Nat := d.base + 0x18

/-- `OVM.ALLOC_CYCLES` (09_overman_memory). -/
def rOvmAllocCycles (d : Die) : Nat := d.base + 0x1C

/-- `OVM.ERR_TASK` (09_overman_memory). -/
def rOvmErrTask (d : Die) : Nat := d.base + 0x20

/-- `OVM.EVENTS` (09_overman_memory). -/
def rOvmEvents (d : Die) : Nat := d.base + 0x24

/-- `GAL.WIN_STATUS` (09_overman_memory). -/
def rGalWinStatus (d : Die) : Nat := d.base + 0x70000

/-- `GAL.CONF_SEL` (09_overman_memory). -/
def rGalConfSel (d : Die) : Nat := d.base + 0x70004

/-- `GAL.CONF_COUNT` (09_overman_memory). -/
def rGalConfCount (d : Die) : Nat := d.base + 0x70008

/-- `GAL.CONF_TOTAL_A` (09_overman_memory). -/
def rGalConfTotalA (d : Die) : Nat := d.base + 0x7000C

/-- `GAL.CONF_TOTAL_B` (09_overman_memory). -/
def rGalConfTotalB (d : Die) : Nat := d.base + 0x70010

/-- `GAL.HAZARDS` (09_overman_memory). -/
def rGalHazards (d : Die) : Nat := d.base + 0x70014

/-- `GAL.ECC_CE` (09_overman_memory). -/
def rGalEccCe (d : Die) : Nat := d.base + 0x70018

/-- `GAL.UE_ADDR` (09_overman_memory). -/
def rGalUeAddr (d : Die) : Nat := d.base + 0x7001C

/-- `GAL.SCRUB` (09_overman_memory). -/
def rGalScrub (d : Die) : Nat := d.base + 0x70020

/-- `GAL.REPAIR` (09_overman_memory). -/
def rGalRepair (d : Die) : Nat := d.base + 0x70024

/-- `GAL.EVENTS` (09_overman_memory). -/
def rGalEvents (d : Die) : Nat := d.base + 0x70028

/-- `DMC.SIZE` (09_overman_memory). -/
def rDmcSize (d : Die) : Nat := d.base + 0x80000

/-- `DMC.STATUS` (09_overman_memory). -/
def rDmcStatus (d : Die) : Nat := d.base + 0x80004

/-- `DMC.INIT_FRONT` (09_overman_memory). -/
def rDmcInitFront (d : Die) : Nat := d.base + 0x80008

/-- `DMC.ECC_CE` (09_overman_memory). -/
def rDmcEccCe (d : Die) : Nat := d.base + 0x8000C

/-- `DMC.ECC_UE` (09_overman_memory). -/
def rDmcEccUe (d : Die) : Nat := d.base + 0x80010

/-- `DMC.BUSY_NS` (09_overman_memory). -/
def rDmcBusyNs (d : Die) : Nat := d.base + 0x8001C

/-- `DMC.UE_ADDR_LO` (09_overman_memory). -/
def rDmcUeAddrLo (d : Die) : Nat := d.base + 0x80014

/-- `DMC.UE_ADDR_HI` (09_overman_memory). -/
def rDmcUeAddrHi (d : Die) : Nat := d.base + 0x80018

/-- `DMC.SCRUB` (09_overman_memory). -/
def rDmcScrub (d : Die) : Nat := d.base + 0x80020

/-- `DMC.EVENTS` (09_overman_memory). -/
def rDmcEvents (d : Die) : Nat := d.base + 0x80024

/-- `IHAUL.CH_DESC_LO` (09_overman_memory). -/
def rIhaulChDescLo (d : Die) (i : Nat) : Nat := d.base + 0x90000 + 0x40 * i

/-- `IHAUL.CH_DESC_HI` (09_overman_memory). -/
def rIhaulChDescHi (d : Die) (i : Nat) : Nat := d.base + 0x90004 + 0x40 * i

/-- `IHAUL.CH_CTRL` (09_overman_memory). -/
def rIhaulChCtrl (d : Die) (i : Nat) : Nat := d.base + 0x90008 + 0x40 * i

/-- `IHAUL.CH_STATUS` (09_overman_memory). -/
def rIhaulChStatus (d : Die) (i : Nat) : Nat := d.base + 0x9000C + 0x40 * i

/-- `IHAUL.CH_BYTES` (09_overman_memory). -/
def rIhaulChBytes (d : Die) (i : Nat) : Nat := d.base + 0x90010 + 0x40 * i

/-- `IHAUL.EVENTS` (09_overman_memory). -/
def rIhaulEvents (d : Die) : Nat := d.base + 0x90800

/-- `IHAUL.ERR_CHAN` (09_overman_memory). -/
def rIhaulErrChan (d : Die) : Nat := d.base + 0x90804

/-- `XCUT.STATUS` (09_overman_memory). -/
def rXcutStatus (d : Die) : Nat := d.base + 0xA0000

/-- `XCUT.TX_LINES` (09_overman_memory). -/
def rXcutTxLines (d : Die) : Nat := d.base + 0xA0004

/-- `XCUT.RX_LINES` (09_overman_memory). -/
def rXcutRxLines (d : Die) : Nat := d.base + 0xA0008

/-- `XCUT.RETRIES` (09_overman_memory). -/
def rXcutRetries (d : Die) : Nat := d.base + 0xA000C

/-- `XCUT.DRAIN_NS` (09_overman_memory). -/
def rXcutDrainNs (d : Die) : Nat := d.base + 0xA0010

/-- `XCUT.EVENTS` (09_overman_memory). -/
def rXcutEvents (d : Die) : Nat := d.base + 0xA0014

/-- `HOST.CTRL` (10_host_haulage). -/
def rHostCtrl : Nat := 0x30000

/-- `HOST.LINK` (10_host_haulage). -/
def rHostLink : Nat := 0x30004

/-- `HOST.WIN_BASE_LO` (10_host_haulage). -/
def rHostWinBaseLo : Nat := 0x30008

/-- `HOST.WIN_BASE_HI` (10_host_haulage). -/
def rHostWinBaseHi : Nat := 0x3000C

/-- `HOST.WIN_ERR` (10_host_haulage). -/
def rHostWinErr : Nat := 0x30010

/-- `HOST.WIN_ERR_OFS` (10_host_haulage). -/
def rHostWinErrOfs : Nat := 0x30014

/-- `HOST.PACE` (10_host_haulage). -/
def rHostPace : Nat := 0x30018

/-- `HOST.PACE_USED` (10_host_haulage). -/
def rHostPaceUsed : Nat := 0x3001C

/-- `HOST.EVENTS` (10_host_haulage). -/
def rHostEvents : Nat := 0x30020

/-- `HAUL.EVENTS` (10_host_haulage). -/
def rHaulEvents : Nat := 0x40000

/-- `HAUL.ERR_CHAN` (10_host_haulage). -/
def rHaulErrChan : Nat := 0x40004

/-- `HAUL.BUSY` (10_host_haulage). -/
def rHaulBusy (i : Nat) : Nat := 0x40010 + 0x4 * i

/-- `HAUL.EG_BASE_LO` (10_host_haulage). -/
def rHaulEgBaseLo (i : Nat) : Nat := 0x40100 + 0x10 * i

/-- `HAUL.EG_BASE_HI` (10_host_haulage). -/
def rHaulEgBaseHi (i : Nat) : Nat := 0x40104 + 0x10 * i

/-- `HAUL.EG_GEOM` (10_host_haulage). -/
def rHaulEgGeom (i : Nat) : Nat := 0x40108 + 0x10 * i

/-- `HAUL.CH_DESC_HI` (10_host_haulage). -/
def rHaulChDescHi (i : Nat) : Nat := 0x41000 + 0x40 * i

/-- `HAUL.CH_DOORBELL` (10_host_haulage). -/
def rHaulChDoorbell (i : Nat) : Nat := 0x41004 + 0x40 * i

/-- `HAUL.CH_CTRL` (10_host_haulage). -/
def rHaulChCtrl (i : Nat) : Nat := 0x41008 + 0x40 * i

/-- `HAUL.CH_STATUS` (10_host_haulage). -/
def rHaulChStatus (i : Nat) : Nat := 0x4100C + 0x40 * i

/-- `HAUL.CH_CUR_LO` (10_host_haulage). -/
def rHaulChCurLo (i : Nat) : Nat := 0x41010 + 0x40 * i

/-- `HAUL.CH_CUR_HI` (10_host_haulage). -/
def rHaulChCurHi (i : Nat) : Nat := 0x41014 + 0x40 * i

/-- `HAUL.CH_CRING_LO` (10_host_haulage). -/
def rHaulChCringLo (i : Nat) : Nat := 0x41018 + 0x40 * i

/-- `HAUL.CH_CRING_HI` (10_host_haulage). -/
def rHaulChCringHi (i : Nat) : Nat := 0x4101C + 0x40 * i

/-- `HAUL.CH_CRING_SIZE` (10_host_haulage). -/
def rHaulChCringSize (i : Nat) : Nat := 0x41020 + 0x40 * i

/-- `HAUL.CH_CRING_TAIL` (10_host_haulage). -/
def rHaulChCringTail (i : Nat) : Nat := 0x41024 + 0x40 * i

/-- `HAUL.CH_CRING_HEAD` (10_host_haulage). -/
def rHaulChCringHead (i : Nat) : Nat := 0x41028 + 0x40 * i

/-- `HAUL.CH_RING_TAIL` (10_host_haulage). -/
def rHaulChRingTail (i : Nat) : Nat := 0x4102C + 0x40 * i

/-- `HAUL.CH_RING_HEAD` (10_host_haulage). -/
def rHaulChRingHead (i : Nat) : Nat := 0x41030 + 0x40 * i

/-- `HAUL.CH_DROP` (10_host_haulage). -/
def rHaulChDrop (i : Nat) : Nat := 0x41034 + 0x40 * i

/-- `HAUL.CH_BYTES` (10_host_haulage). -/
def rHaulChBytes (i : Nat) : Nat := 0x41038 + 0x40 * i

/-- `HAUL.CH_EVENTS` (10_host_haulage). -/
def rHaulChEvents (i : Nat) : Nat := 0x4103C + 0x40 * i

/-- `KLINK.CFG` (11_kornov_links). -/
def rKlinkCfg : Nat := 0xB0000

/-- `KLINK.GROUP` (11_kornov_links). -/
def rKlinkGroup : Nat := 0xB0004

/-- `KLINK.COORD` (11_kornov_links). -/
def rKlinkCoord : Nat := 0xB0008

/-- `KLINK.MASTER` (11_kornov_links). -/
def rKlinkMaster : Nat := 0xB000C

/-- `KLINK.RANK` (11_kornov_links). -/
def rKlinkRank : Nat := 0xB0010

/-- `KLINK.PORT_STATUS` (11_kornov_links). -/
def rKlinkPortStatus (i : Nat) : Nat := 0xB0020 + 0x4 * i

/-- `KLINK.PORT_WIRE` (11_kornov_links). -/
def rKlinkPortWire (i : Nat) : Nat := 0xB0040 + 0x4 * i

/-- `KLINK.PORT_RETRY` (11_kornov_links). -/
def rKlinkPortRetry (i : Nat) : Nat := 0xB0060 + 0x4 * i

/-- `KLINK.PORT_CRC` (11_kornov_links). -/
def rKlinkPortCrc (i : Nat) : Nat := 0xB0080 + 0x4 * i

/-- `KLINK.GOP_CTRL` (11_kornov_links). -/
def rKlinkGopCtrl : Nat := 0xB0100

/-- `KLINK.GOP_STATUS` (11_kornov_links). -/
def rKlinkGopStatus : Nat := 0xB0104

/-- `KLINK.BC_SRC_LO` (11_kornov_links). -/
def rKlinkBcSrcLo : Nat := 0xB0108

/-- `KLINK.BC_SRC_HI` (11_kornov_links). -/
def rKlinkBcSrcHi : Nat := 0xB010C

/-- `KLINK.BC_DST_LO` (11_kornov_links). -/
def rKlinkBcDstLo : Nat := 0xB0110

/-- `KLINK.BC_DST_HI` (11_kornov_links). -/
def rKlinkBcDstHi : Nat := 0xB0114

/-- `KLINK.BC_LEN` (11_kornov_links). -/
def rKlinkBcLen : Nat := 0xB0118

/-- `KLINK.SNAP_TICK_LO` (11_kornov_links). -/
def rKlinkSnapTickLo : Nat := 0xB011C

/-- `KLINK.SNAP_TICK_HI` (11_kornov_links). -/
def rKlinkSnapTickHi : Nat := 0xB0120

/-- `KLINK.SNAP_BASE_LO` (11_kornov_links). -/
def rKlinkSnapBaseLo : Nat := 0xB0124

/-- `KLINK.SNAP_BASE_HI` (11_kornov_links). -/
def rKlinkSnapBaseHi : Nat := 0xB0128

/-- `KLINK.MARK` (11_kornov_links). -/
def rKlinkMark : Nat := 0xB012C

/-- `KLINK.EVENTS` (11_kornov_links). -/
def rKlinkEvents : Nat := 0xB0130

/-- `DEPUTY.CTRL` (12_deputy_safety). -/
def rDeputyCtrl : Nat := 0x70000

/-- `DEPUTY.STATUS` (12_deputy_safety). -/
def rDeputyStatus : Nat := 0x70004

/-- `DEPUTY.EVENTS` (12_deputy_safety). -/
def rDeputyEvents : Nat := 0x70008

/-- `DEPUTY.SAFE_TIME_LO` (12_deputy_safety). -/
def rDeputySafeTimeLo : Nat := 0x7000C

/-- `DEPUTY.SAFE_TIME_HI` (12_deputy_safety). -/
def rDeputySafeTimeHi : Nat := 0x70010

/-- `DEPUTY.CHECK_NS` (12_deputy_safety). -/
def rDeputyCheckNs : Nat := 0x70014

/-- `DEPUTY.PASS_COUNT` (12_deputy_safety). -/
def rDeputyPassCount : Nat := 0x70018

/-- `DEPUTY.FAIL_COUNT` (12_deputy_safety). -/
def rDeputyFailCount : Nat := 0x7001C

/-- `DEPUTY.SRAM_CE` (12_deputy_safety). -/
def rDeputySramCe : Nat := 0x70044

/-- `DEPUTY.V` (12_deputy_safety). -/
def rDeputyV (i : Nat) : Nat := 0x70020 + 0x4 * i

/-- `DEPUTY.INJ` (12_deputy_safety). -/
def rDeputyInj : Nat := 0x70040

/-- `DEPUTY.TOL` (12_deputy_safety). -/
def rDeputyTol : Nat := 0x70048

/-- `DEPUTY.TEMP` (12_deputy_safety). -/
def rDeputyTemp : Nat := 0x7004C

/-- `DEPUTY.TEST_AGE` (12_deputy_safety). -/
def rDeputyTestAge : Nat := 0x70050

/-- `DEPUTY.SPI_COUNT` (12_deputy_safety). -/
def rDeputySpiCount : Nat := 0x70054

/-- `TALLY.STATUS` (13_recovery_tally). -/
def rTallyStatus : Nat := 0x80000

/-- `TALLY.HEAD_SEQ_LO` (13_recovery_tally). -/
def rTallyHeadSeqLo : Nat := 0x80004

/-- `TALLY.HEAD_SEQ_HI` (13_recovery_tally). -/
def rTallyHeadSeqHi : Nat := 0x80008

/-- `TALLY.TAIL_SEQ_LO` (13_recovery_tally). -/
def rTallyTailSeqLo : Nat := 0x8000C

/-- `TALLY.TAIL_SEQ_HI` (13_recovery_tally). -/
def rTallyTailSeqHi : Nat := 0x80010

/-- `TALLY.HEAD_LINK_LO` (13_recovery_tally). -/
def rTallyHeadLinkLo : Nat := 0x80014

/-- `TALLY.HEAD_LINK_HI` (13_recovery_tally). -/
def rTallyHeadLinkHi : Nat := 0x80018

/-- `TALLY.RD_SEQ_LO` (13_recovery_tally). -/
def rTallyRdSeqLo : Nat := 0x8001C

/-- `TALLY.RD_SEQ_HI` (13_recovery_tally). -/
def rTallyRdSeqHi : Nat := 0x80020

/-- `TALLY.RD_STATUS` (13_recovery_tally). -/
def rTallyRdStatus : Nat := 0x80024

/-- `TALLY.TOKENS` (13_recovery_tally). -/
def rTallyTokens : Nat := 0x80028

/-- `TALLY.SUPPRESSED` (13_recovery_tally). -/
def rTallySuppressed : Nat := 0x8002C

/-- `TALLY.LOST` (13_recovery_tally). -/
def rTallyLost : Nat := 0x80030

/-- `TALLY.WEAR` (13_recovery_tally). -/
def rTallyWear : Nat := 0x80034

/-- `TALLY.EVENTS` (13_recovery_tally). -/
def rTallyEvents : Nat := 0x80038

/-- `TALLY.RD` (13_recovery_tally). -/
def rTallyRd (i : Nat) : Nat := 0x80040 + 0x4 * i

/-- `TALLY.DUMP_DST_LO` (13_recovery_tally). -/
def rTallyDumpDstLo : Nat := 0x80080

/-- `TALLY.DUMP_DST_HI` (13_recovery_tally). -/
def rTallyDumpDstHi : Nat := 0x80084

/-- `TALLY.DUMP_CTRL` (13_recovery_tally). -/
def rTallyDumpCtrl : Nat := 0x80088

/-- `TALLY.DUMP_COUNT` (13_recovery_tally). -/
def rTallyDumpCount : Nat := 0x8008C

/-- `TALLY.SAVE_BASE_LO` (13_recovery_tally). -/
def rTallySaveBaseLo : Nat := 0x80090

/-- `TALLY.SAVE_BASE_HI` (13_recovery_tally). -/
def rTallySaveBaseHi : Nat := 0x80094

/-- `TALLY.SAVE_STATUS` (13_recovery_tally). -/
def rTallySaveStatus : Nat := 0x80098

/-- `TALLY.SAVE_LEN` (13_recovery_tally). -/
def rTallySaveLen : Nat := 0x8009C

/-- `TALLY.RECOVERY` (13_recovery_tally). -/
def rTallyRecovery : Nat := 0x800A0

/-- `SEC.BOOT` (14_boot_trust_bist). -/
def rSecBoot : Nat := 0x90000

/-- `SEC.FW_VERSION` (14_boot_trust_bist). -/
def rSecFwVersion : Nat := 0x90004

/-- `SEC.FW_SVN` (14_boot_trust_bist). -/
def rSecFwSvn : Nat := 0x90008

/-- `SEC.FW_DIGEST` (14_boot_trust_bist). -/
def rSecFwDigest (i : Nat) : Nat := 0x90010 + 0x4 * i

/-- `SEC.SERIAL_LO` (14_boot_trust_bist). -/
def rSecSerialLo : Nat := 0x90030

/-- `SEC.SERIAL_HI` (14_boot_trust_bist). -/
def rSecSerialHi : Nat := 0x90034

/-- `SEC.CTRL` (14_boot_trust_bist). -/
def rSecCtrl : Nat := 0x90038

/-- `SEC.PUSH_LEN` (14_boot_trust_bist). -/
def rSecPushLen : Nat := 0x9003C

/-- `SEC.LOCK` (14_boot_trust_bist). -/
def rSecLock : Nat := 0x90040

/-- `SEC.SLOT` (14_boot_trust_bist). -/
def rSecSlot (i : Nat) : Nat := 0x90050 + 0x4 * i

/-- `SEC.OTP_CMD` (14_boot_trust_bist). -/
def rSecOtpCmd : Nat := 0x90060

/-- `SEC.OTP_DATA` (14_boot_trust_bist). -/
def rSecOtpData (i : Nat) : Nat := 0x90064 + 0x4 * i

/-- `SEC.OTP_STATUS` (14_boot_trust_bist). -/
def rSecOtpStatus : Nat := 0x90084

/-- `SEC.ATT_DST` (14_boot_trust_bist). -/
def rSecAttDst : Nat := 0x90088

/-- `SEC.ATT_NONCE` (14_boot_trust_bist). -/
def rSecAttNonce (i : Nat) : Nat := 0x9008C + 0x4 * i

/-- `SEC.ATT_STATUS` (14_boot_trust_bist). -/
def rSecAttStatus : Nat := 0x900AC

/-- `BIST.CMD` (14_boot_trust_bist). -/
def rBistCmd : Nat := 0xA0000

/-- `BIST.STATUS` (14_boot_trust_bist). -/
def rBistStatus : Nat := 0xA0004

/-- `BIST.FAILS` (14_boot_trust_bist). -/
def rBistFails : Nat := 0xA0008

/-- `BIST.SIG_SEL` (14_boot_trust_bist). -/
def rBistSigSel : Nat := 0xA000C

/-- `BIST.SIG` (14_boot_trust_bist). -/
def rBistSig : Nat := 0xA0010

/-- `REGIF.ERR_STATUS` (15_register_behaviour). -/
def rRegifErrStatus : Nat := 0x10000

/-- `REGIF.ERR_ADDR` (15_register_behaviour). -/
def rRegifErrAddr : Nat := 0x10004

/-- `REGIF.ERR_COUNT` (15_register_behaviour). -/
def rRegifErrCount : Nat := 0x10008

/-- `REGIF.PARITY_ADDR` (15_register_behaviour). -/
def rRegifParityAddr : Nat := 0x1000C

/-- `REGIF.EVENTS` (15_register_behaviour). -/
def rRegifEvents : Nat := 0x10010

/-- `REGIF.SCAN` (15_register_behaviour). -/
def rRegifScan : Nat := 0x10014

/-- `GLB.ID` (16_register_map). -/
def rGlbId : Nat := 0x0

/-- `GLB.STATE` (16_register_map). -/
def rGlbState : Nat := 0x4

/-- `GLB.CMD` (16_register_map). -/
def rGlbCmd : Nat := 0x8

/-- `GLB.CMD_STATUS` (16_register_map). -/
def rGlbCmdStatus : Nat := 0xC

/-- `GLB.PROFILE` (16_register_map). -/
def rGlbProfile : Nat := 0x10

/-- `GLB.COMMIT` (16_register_map). -/
def rGlbCommit : Nat := 0x14

/-- `GLB.LOCK` (16_register_map). -/
def rGlbLock : Nat := 0x18

/-- `GLB.ALIAS_MODE` (16_register_map). -/
def rGlbAliasMode : Nat := 0x1C

/-- `GLB.BITWIN_BASE` (16_register_map). -/
def rGlbBitwinBase : Nat := 0x20

/-- `GLB.NODE_ID` (16_register_map). -/
def rGlbNodeId : Nat := 0x24

/-- `GLB.IRQ_SUMMARY` (16_register_map). -/
def rGlbIrqSummary : Nat := 0x28

/-- `GLB.GPIO_DIR` (16_register_map). -/
def rGlbGpioDir : Nat := 0x2C

/-- `GLB.GPIO_OUT` (16_register_map). -/
def rGlbGpioOut : Nat := 0x30

/-- `GLB.GPIO_IN` (16_register_map). -/
def rGlbGpioIn : Nat := 0x34

/-- `GLB.SCRATCH` (16_register_map). -/
def rGlbScratch : Nat := 0x38

/-- `CLKPWR.CLK_STATUS` (16_register_map). -/
def rClkpwrClkStatus : Nat := 0xC0000

/-- `CLKPWR.ARITH` (16_register_map). -/
def rClkpwrArith : Nat := 0xC0004

/-- `CLKPWR.DOMAIN` (16_register_map). -/
def rClkpwrDomain : Nat := 0xC0008

/-- `CLKPWR.VOLT` (16_register_map). -/
def rClkpwrVolt : Nat := 0xC000C

/-- `CLKPWR.RAILS` (16_register_map). -/
def rClkpwrRails : Nat := 0xC0010

/-- `CLKPWR.KL_PWR` (16_register_map). -/
def rClkpwrKlPwr : Nat := 0xC0014

/-- `CLKPWR.SYSCLK_DEV` (16_register_map). -/
def rClkpwrSysclkDev : Nat := 0xC0018

/-- `CLKPWR.EVENTS` (16_register_map). -/
def rClkpwrEvents : Nat := 0xC001C

/-- `CLKPWR.SWITCH_US` (16_register_map). -/
def rClkpwrSwitchUs : Nat := 0xC0020

/-- Part 0 of the registers of the hub blocks (R580), by offset in BAR0. -/
def hubRegs0 : List RegDef := [
  ⟨0x0, 0x4, 1, 0x0, 0x0, 0x0, 0x0, 0x0, 0x0, 0x8400B001⟩,
  ⟨0x4, 0x4, 1, 0x0, 0x0, 0x0, 0x0, 0x0, 0x0, 0x41⟩,
  ⟨0x8, 0x4, 1, 0x0, 0x0, 0x0, 0xFF, 0x0, 0x0, 0x0⟩,
  ⟨0xC, 0x4, 1, 0x0, 0x0, 0x0, 0x0, 0x0, 0x0, 0x0⟩,
  ⟨0x10, 0x4, 1, 0x0, 0xF, 0x0, 0x0, 0x0, 0x0, 0x2⟩,
  ⟨0x14, 0x4, 1, 0x0, 0x0, 0x0, 0x0, 0x3, 0x0, 0x0⟩,
  ⟨0x18, 0x4, 1, 0x0, 0x0, 0x0, 0x0, 0x0, 0x1, 0x0⟩,
  ⟨0x1C, 0x4, 1, 0x0, 0x0, 0x0, 0x0, 0x0, 0x1, 0x0⟩,
  ⟨0x20, 0x4, 1, 0x0, 0x0, 0x0, 0x0, 0x0, 0xFF0000, 0x0⟩,
  ⟨0x24, 0x4, 1, 0x0, 0x0, 0x0, 0x0, 0x0, 0x0, 0x0⟩,
  ⟨0x28, 0x4, 1, 0x0, 0x0, 0x0, 0x0, 0x0, 0x0, 0x0⟩,
  ⟨0x2C, 0x4, 1, 0x0, 0x0, 0x0, 0x0, 0x0, 0xFF, 0x0⟩,
  ⟨0x30, 0x4, 1, 0xFF, 0x0, 0x0, 0x0, 0x0, 0x0, 0x0⟩,
  ⟨0x34, 0x4, 1, 0x0, 0x0, 0x0, 0x0, 0x0, 0x0, 0x0⟩,
  ⟨0x38, 0x4, 1, 0xFFFFFFFF, 0x0, 0x0, 0x0, 0x0, 0x0, 0x0⟩,
  ⟨0x10000, 0x4, 1, 0x0, 0x0, 0x0, 0x0, 0x0, 0x0, 0x0⟩,
  ⟨0x10004, 0x4, 1, 0x0, 0x0, 0x0, 0x0, 0x0, 0x0, 0x0⟩,
  ⟨0x10008, 0x4, 1, 0x0, 0x0, 0x0, 0x0, 0x0, 0x0, 0x0⟩,
  ⟨0x1000C, 0x4, 1, 0x0, 0x0, 0x0, 0x0, 0x0, 0x0, 0x0⟩,
  ⟨0x10010, 0x4, 1, 0x0, 0x0, 0x1F, 0x0, 0x0, 0x0, 0x0⟩,
  ⟨0x10014, 0x4, 1, 0x0, 0x0, 0x0, 0x0, 0x0, 0x0, 0x0⟩,
  ⟨0x20000, 0x4, 1, 0x0, 0x33, 0x0, 0x0, 0x0, 0x0, 0x0⟩,
  ⟨0x20004, 0x4, 1, 0x0, 0xFFFF, 0x0, 0x0, 0x0, 0x0, 0x3E8⟩,
  ⟨0x20008, 0x4, 1, 0xFFFFFFFF, 0x0, 0x0, 0x0, 0x0, 0x0, 0x0⟩,
  ⟨0x2000C, 0x4, 1, 0xFFFFFFFF, 0x0, 0x0, 0x0, 0x0, 0x0, 0x0⟩,
  ⟨0x20010, 0x4, 1, 0x0, 0x0, 0x0, 0x0, 0x0, 0x0, 0x0⟩,
  ⟨0x20014, 0x4, 1, 0x0, 0x0, 0x0, 0x0, 0x0, 0x0, 0x0⟩,
  ⟨0x20018, 0x4, 1, 0xFFFFFFFF, 0x0, 0x0, 0x0, 0x0, 0x0, 0x0⟩,
  ⟨0x2001C, 0x4, 1, 0xFFFFFFFF, 0x0, 0x0, 0x0, 0x0, 0x0, 0x0⟩,
  ⟨0x20020, 0x4, 1, 0xFFFFFFFF, 0x0, 0x0, 0x0, 0x0, 0x0, 0x0⟩]

/-- Part 1 of the registers of the hub blocks (R580), by offset in BAR0. -/
def hubRegs1 : List RegDef := [
  ⟨0x20024, 0x4, 1, 0xFFFFFFFF, 0x0, 0x0, 0x0, 0x0, 0x0, 0x0⟩,
  ⟨0x20028, 0x4, 1, 0x0, 0x0, 0x0, 0x0, 0x0, 0x0, 0x0⟩,
  ⟨0x2002C, 0x4, 1, 0x0, 0x0, 0x0, 0x0, 0x0, 0x0, 0x0⟩,
  ⟨0x20030, 0x4, 1, 0x0, 0x0, 0x0, 0x0, 0x0, 0x0, 0x7⟩,
  ⟨0x20034, 0x4, 1, 0x0, 0x0, 0x1F3F, 0x0, 0x0, 0x0, 0x0⟩,
  ⟨0x20038, 0x4, 1, 0x0, 0x0, 0x0, 0x0, 0x0, 0x0, 0x0⟩,
  ⟨0x2003C, 0x4, 1, 0x0, 0x0, 0x0, 0x0, 0x0, 0x0, 0x0⟩,
  ⟨0x20040, 0x4, 6, 0x0, 0x0, 0x0, 0x0, 0x0, 0x0, 0x0⟩,
  ⟨0x20058, 0x4, 1, 0x0, 0x0, 0x0, 0x0, 0x0, 0x0, 0x0⟩,
  ⟨0x2005C, 0x4, 1, 0x0, 0xFFFF, 0x0, 0x0, 0x0, 0x0, 0x7D0⟩,
  ⟨0x30000, 0x4, 1, 0x1, 0x0, 0x0, 0x0, 0x0, 0x0, 0x0⟩,
  ⟨0x30004, 0x4, 1, 0x0, 0x0, 0x0, 0x0, 0x0, 0x0, 0x0⟩,
  ⟨0x30008, 0x4, 1, 0xC0000000, 0x0, 0x0, 0x0, 0x0, 0x0, 0x0⟩,
  ⟨0x3000C, 0x4, 1, 0xFFFFFFFF, 0x0, 0x0, 0x0, 0x0, 0x0, 0x0⟩,
  ⟨0x30010, 0x4, 1, 0x0, 0x0, 0x0, 0x0, 0x0, 0x0, 0x0⟩,
  ⟨0x30014, 0x4, 1, 0x0, 0x0, 0x0, 0x0, 0x0, 0x0, 0x0⟩,
  ⟨0x30018, 0x4, 1, 0xFFFF, 0x0, 0x0, 0x0, 0x0, 0x0, 0x0⟩,
  ⟨0x3001C, 0x4, 1, 0x0, 0x0, 0x0, 0x0, 0x0, 0x0, 0x0⟩,
  ⟨0x30020, 0x4, 1, 0x0, 0x0, 0x3F, 0x0, 0x0, 0x0, 0x0⟩,
  ⟨0x40000, 0x4, 1, 0x0, 0x0, 0xF, 0x0, 0x0, 0x0, 0x0⟩,
  ⟨0x40004, 0x4, 1, 0x0, 0x0, 0x0, 0x0, 0x0, 0x0, 0x0⟩,
  ⟨0x40010, 0x4, 5, 0x0, 0x0, 0x0, 0x0, 0x0, 0x0, 0x0⟩,
  ⟨0x40100, 0x10, 8, 0xFFFFFFC0, 0x0, 0x0, 0x0, 0x0, 0x0, 0x0⟩,
  ⟨0x40104, 0x10, 8, 0xFFFFFFFF, 0x0, 0x0, 0x0, 0x0, 0x0, 0x0⟩,
  ⟨0x40108, 0x10, 8, 0xFFFFFF, 0x0, 0x0, 0x0, 0x0, 0x0, 0x0⟩,
  ⟨0x41000, 0x40, 140, 0xFFFFFFFF, 0x0, 0x0, 0x0, 0x0, 0x0, 0x0⟩,
  ⟨0x41004, 0x40, 140, 0x0, 0x0, 0x0, 0xFFFFFFFF, 0x0, 0x0, 0x0⟩,
  ⟨0x41008, 0x40, 140, 0x0, 0x0, 0x0, 0x0, 0x7, 0x0, 0x0⟩,
  ⟨0x4100C, 0x40, 140, 0x0, 0x0, 0x0, 0x0, 0x0, 0x0, 0x0⟩,
  ⟨0x41010, 0x40, 140, 0x0, 0x0, 0x0, 0x0, 0x0, 0x0, 0x0⟩]

/-- Part 2 of the registers of the hub blocks (R580), by offset in BAR0. -/
def hubRegs2 : List RegDef := [
  ⟨0x41014, 0x40, 140, 0x0, 0x0, 0x0, 0x0, 0x0, 0x0, 0x0⟩,
  ⟨0x41018, 0x40, 140, 0xFFFFFFC0, 0x0, 0x0, 0x0, 0x0, 0x0, 0x0⟩,
  ⟨0x4101C, 0x40, 140, 0xFFFFFFFF, 0x0, 0x0, 0x0, 0x0, 0x0, 0x0⟩,
  ⟨0x41020, 0x40, 140, 0x1F, 0x0, 0x0, 0x0, 0x0, 0x0, 0x4⟩,
  ⟨0x41024, 0x40, 140, 0xFFFFFFFF, 0x0, 0x0, 0x0, 0x0, 0x0, 0x0⟩,
  ⟨0x41028, 0x40, 140, 0x0, 0x0, 0x0, 0x0, 0x0, 0x0, 0x0⟩,
  ⟨0x4102C, 0x40, 140, 0xFFFFFFFF, 0x0, 0x0, 0x0, 0x0, 0x0, 0x0⟩,
  ⟨0x41030, 0x40, 140, 0x0, 0x0, 0x0, 0x0, 0x0, 0x0, 0x0⟩,
  ⟨0x41034, 0x40, 140, 0x0, 0x0, 0x0, 0x0, 0x0, 0x0, 0x0⟩,
  ⟨0x41038, 0x40, 140, 0x0, 0x0, 0x0, 0x0, 0x0, 0x0, 0x0⟩,
  ⟨0x4103C, 0x40, 140, 0x0, 0x0, 0x7F, 0x0, 0x0, 0x0, 0x0⟩,
  ⟨0x60000, 0x4, 1, 0x1, 0x0, 0x0, 0x0, 0x2, 0x0, 0x0⟩,
  ⟨0x60004, 0x4, 1, 0x0, 0x0, 0x0, 0x0, 0x0, 0x0, 0xFF00⟩,
  ⟨0x60008, 0x4, 1, 0x0, 0x0, 0x7F, 0x0, 0x0, 0x0, 0x0⟩,
  ⟨0x6000C, 0x4, 1, 0x0, 0x0, 0x0, 0x0, 0x0, 0x0, 0x0⟩,
  ⟨0x60010, 0x4, 1, 0xFFFFFFFF, 0x0, 0x0, 0x0, 0x0, 0x0, 0x0⟩,
  ⟨0x60014, 0x4, 1, 0x0, 0xFFFFFFC0, 0x0, 0x0, 0x0, 0x0, 0x0⟩,
  ⟨0x60018, 0x4, 1, 0x0, 0xFFFFFFFF, 0x0, 0x0, 0x0, 0x0, 0x0⟩,
  ⟨0x6001C, 0x4, 1, 0x0, 0xFFFFFFFF, 0x0, 0x0, 0x0, 0x0, 0x0⟩,
  ⟨0x60020, 0x4, 1, 0x0, 0xFFFFFFFF, 0x0, 0x0, 0x0, 0x0, 0x0⟩,
  ⟨0x60024, 0x4, 1, 0x0, 0xFFFFFFFF, 0x0, 0x0, 0x0, 0x0, 0x0⟩,
  ⟨0x60028, 0x4, 1, 0x0, 0xFFFFF000, 0x0, 0x0, 0x0, 0x0, 0x0⟩,
  ⟨0x6002C, 0x4, 1, 0x0, 0xFFFFFFFF, 0x0, 0x0, 0x0, 0x0, 0x0⟩,
  ⟨0x60030, 0x4, 1, 0x0, 0x1FFFFF, 0x0, 0x0, 0x0, 0x0, 0x0⟩,
  ⟨0x60034, 0x4, 1, 0x0, 0x0, 0x0, 0x0, 0x0, 0x0, 0x0⟩,
  ⟨0x60038, 0x4, 1, 0x7F, 0x0, 0x0, 0x0, 0x0, 0x0, 0x0⟩,
  ⟨0x6003C, 0x4, 1, 0x0, 0x0, 0x0, 0x0, 0x0, 0x0, 0x0⟩,
  ⟨0x60040, 0x4, 1, 0x0, 0x0, 0x0, 0x0, 0x0, 0x0, 0x0⟩,
  ⟨0x60044, 0x4, 1, 0x0, 0x0, 0x0, 0x0, 0x0, 0x0, 0x0⟩,
  ⟨0x60048, 0x4, 1, 0x0, 0x0, 0x0, 0x0, 0x0, 0x0, 0x0⟩]

/-- Part 3 of the registers of the hub blocks (R580), by offset in BAR0. -/
def hubRegs3 : List RegDef := [
  ⟨0x6004C, 0x4, 1, 0x0, 0x0, 0x0, 0x0, 0x0, 0x0, 0x0⟩,
  ⟨0x60050, 0x4, 1, 0x0, 0x0, 0x0, 0x0, 0x0, 0x0, 0x0⟩,
  ⟨0x70000, 0x4, 1, 0x0, 0x0, 0x0, 0x0, 0x1, 0x0, 0x0⟩,
  ⟨0x70004, 0x4, 1, 0x0, 0x0, 0x0, 0x0, 0x0, 0x0, 0x1⟩,
  ⟨0x70008, 0x4, 1, 0x0, 0x0, 0x3FF, 0x0, 0x0, 0x0, 0x0⟩,
  ⟨0x7000C, 0x4, 1, 0x0, 0x0, 0x0, 0x0, 0x0, 0x0, 0x0⟩,
  ⟨0x70010, 0x4, 1, 0x0, 0x0, 0x0, 0x0, 0x0, 0x0, 0x0⟩,
  ⟨0x70014, 0x4, 1, 0x0, 0x0, 0x0, 0x0, 0x0, 0x0, 0x0⟩,
  ⟨0x70018, 0x4, 1, 0x0, 0x0, 0x0, 0x0, 0x0, 0x0, 0x0⟩,
  ⟨0x7001C, 0x4, 1, 0x0, 0x0, 0x0, 0x0, 0x0, 0x0, 0x0⟩,
  ⟨0x70020, 0x4, 8, 0x0, 0x0, 0x0, 0x0, 0x0, 0x0, 0x0⟩,
  ⟨0x70040, 0x4, 1, 0x0, 0x0, 0x0, 0x0, 0x0, 0x0, 0x0⟩,
  ⟨0x70044, 0x4, 1, 0x0, 0x0, 0x0, 0x0, 0x0, 0x0, 0x0⟩,
  ⟨0x70048, 0x4, 1, 0x0, 0x0, 0x0, 0x0, 0x0, 0x0, 0x0⟩,
  ⟨0x7004C, 0x4, 1, 0x0, 0x0, 0x0, 0x0, 0x0, 0x0, 0x0⟩,
  ⟨0x70050, 0x4, 1, 0x0, 0x0, 0x0, 0x0, 0x0, 0x0, 0x0⟩,
  ⟨0x70054, 0x4, 1, 0x0, 0x0, 0x0, 0x0, 0x0, 0x0, 0x0⟩,
  ⟨0x80000, 0x4, 1, 0x0, 0x0, 0x0, 0x0, 0x0, 0x0, 0x0⟩,
  ⟨0x80004, 0x4, 1, 0x0, 0x0, 0x0, 0x0, 0x0, 0x0, 0x0⟩,
  ⟨0x80008, 0x4, 1, 0x0, 0x0, 0x0, 0x0, 0x0, 0x0, 0x0⟩,
  ⟨0x8000C, 0x4, 1, 0x0, 0x0, 0x0, 0x0, 0x0, 0x0, 0x0⟩,
  ⟨0x80010, 0x4, 1, 0x0, 0x0, 0x0, 0x0, 0x0, 0x0, 0x0⟩,
  ⟨0x80014, 0x4, 1, 0x0, 0x0, 0x0, 0x0, 0x0, 0x0, 0x0⟩,
  ⟨0x80018, 0x4, 1, 0x0, 0x0, 0x0, 0x0, 0x0, 0x0, 0x0⟩,
  ⟨0x8001C, 0x4, 1, 0xFFFFFFFF, 0x0, 0x0, 0x0, 0x0, 0x0, 0x0⟩,
  ⟨0x80020, 0x4, 1, 0xFFFFFFFF, 0x0, 0x0, 0x0, 0x0, 0x0, 0x0⟩,
  ⟨0x80024, 0x4, 1, 0x0, 0x0, 0x0, 0x0, 0x0, 0x0, 0x0⟩,
  ⟨0x80028, 0x4, 1, 0x0, 0x0, 0x0, 0x0, 0x0, 0x0, 0x0⟩,
  ⟨0x8002C, 0x4, 1, 0x0, 0x0, 0x0, 0x0, 0x0, 0x0, 0x0⟩,
  ⟨0x80030, 0x4, 1, 0x0, 0x0, 0x0, 0x0, 0x0, 0x0, 0x0⟩]

/-- Part 4 of the registers of the hub blocks (R580), by offset in BAR0. -/
def hubRegs4 : List RegDef := [
  ⟨0x80034, 0x4, 1, 0x0, 0x0, 0x0, 0x0, 0x0, 0x0, 0x0⟩,
  ⟨0x80038, 0x4, 1, 0x0, 0x0, 0xFF, 0x0, 0x0, 0x0, 0x0⟩,
  ⟨0x80040, 0x4, 16, 0x0, 0x0, 0x0, 0x0, 0x0, 0x0, 0x0⟩,
  ⟨0x80080, 0x4, 1, 0xFFFFFFC0, 0x0, 0x0, 0x0, 0x0, 0x0, 0x0⟩,
  ⟨0x80084, 0x4, 1, 0xFFFFFFFF, 0x0, 0x0, 0x0, 0x0, 0x0, 0x0⟩,
  ⟨0x80088, 0x4, 1, 0x0, 0x0, 0x0, 0x0, 0x1, 0x0, 0x0⟩,
  ⟨0x8008C, 0x4, 1, 0x0, 0x0, 0x0, 0x0, 0x0, 0x0, 0x0⟩,
  ⟨0x80090, 0x4, 1, 0xFFFFFFC0, 0x0, 0x0, 0x0, 0x0, 0x0, 0x0⟩,
  ⟨0x80094, 0x4, 1, 0xFFFFFFFF, 0x0, 0x0, 0x0, 0x0, 0x0, 0x0⟩,
  ⟨0x80098, 0x4, 1, 0x0, 0x0, 0x0, 0x0, 0x0, 0x0, 0x0⟩,
  ⟨0x8009C, 0x4, 1, 0x0, 0x0, 0x0, 0x0, 0x0, 0x0, 0x0⟩,
  ⟨0x800A0, 0x4, 1, 0x0, 0x0, 0x0, 0x0, 0x0, 0x0, 0x0⟩,
  ⟨0x90000, 0x4, 1, 0x0, 0x0, 0x0, 0x0, 0x0, 0x0, 0x0⟩,
  ⟨0x90004, 0x4, 1, 0x0, 0x0, 0x0, 0x0, 0x0, 0x0, 0x0⟩,
  ⟨0x90008, 0x4, 1, 0x0, 0x0, 0x0, 0x0, 0x0, 0x0, 0x0⟩,
  ⟨0x90010, 0x4, 8, 0x0, 0x0, 0x0, 0x0, 0x0, 0x0, 0x0⟩,
  ⟨0x90030, 0x4, 1, 0x0, 0x0, 0x0, 0x0, 0x0, 0x0, 0x0⟩,
  ⟨0x90034, 0x4, 1, 0x0, 0x0, 0x0, 0x0, 0x0, 0x0, 0x0⟩,
  ⟨0x90038, 0x4, 1, 0x0, 0x0, 0x0, 0x0, 0x7, 0x0, 0x0⟩,
  ⟨0x9003C, 0x4, 1, 0x7FFFFF, 0x0, 0x0, 0x0, 0x0, 0x0, 0x0⟩,
  ⟨0x90040, 0x4, 1, 0x0, 0x0, 0x0, 0x0, 0x0, 0x3, 0x0⟩,
  ⟨0x90050, 0x4, 4, 0x0, 0x0, 0x0, 0x0, 0x0, 0x0, 0x0⟩,
  ⟨0x90060, 0x4, 1, 0x0, 0x0, 0x0, 0xFFFF3F3F, 0x0, 0x0, 0x0⟩,
  ⟨0x90064, 0x4, 8, 0xFFFFFFFF, 0x0, 0x0, 0x0, 0x0, 0x0, 0x0⟩,
  ⟨0x90084, 0x4, 1, 0x0, 0x0, 0x0, 0x0, 0x0, 0x0, 0x0⟩,
  ⟨0x90088, 0x4, 1, 0x3FFFC0, 0x0, 0x0, 0x0, 0x0, 0x0, 0x0⟩,
  ⟨0x9008C, 0x4, 8, 0xFFFFFFFF, 0x0, 0x0, 0x0, 0x0, 0x0, 0x0⟩,
  ⟨0x900AC, 0x4, 1, 0x0, 0x0, 0x0, 0x0, 0x0, 0x0, 0x0⟩,
  ⟨0xA0000, 0x4, 1, 0x37, 0x0, 0x0, 0x0, 0x100, 0x0, 0x0⟩,
  ⟨0xA0004, 0x4, 1, 0x0, 0x0, 0x0, 0x0, 0x0, 0x0, 0x0⟩]

/-- Part 5 of the registers of the hub blocks (R580), by offset in BAR0. -/
def hubRegs5 : List RegDef := [
  ⟨0xA0008, 0x4, 1, 0x0, 0x0, 0x0, 0x0, 0x0, 0x0, 0x0⟩,
  ⟨0xA000C, 0x4, 1, 0xFFFF, 0x0, 0x0, 0x0, 0x0, 0x0, 0x0⟩,
  ⟨0xA0010, 0x4, 1, 0x0, 0x0, 0x0, 0x0, 0x0, 0x0, 0x0⟩,
  ⟨0xB0000, 0x4, 1, 0x0, 0x0, 0x0, 0x0, 0x0, 0x0, 0x0⟩,
  ⟨0xB0004, 0x4, 1, 0x0, 0x0, 0x0, 0x0, 0x0, 0x0, 0x0⟩,
  ⟨0xB0008, 0x4, 1, 0x0, 0x3F3F3F, 0x0, 0x0, 0x0, 0x0, 0x0⟩,
  ⟨0xB000C, 0x4, 1, 0x0, 0x0, 0x0, 0x0, 0x0, 0x0, 0x0⟩,
  ⟨0xB0010, 0x4, 1, 0x0, 0x0, 0x0, 0x0, 0x0, 0x0, 0x0⟩,
  ⟨0xB0020, 0x4, 6, 0x0, 0x0, 0x0, 0x0, 0x0, 0x0, 0x0⟩,
  ⟨0xB0040, 0x4, 6, 0x0, 0x0, 0x0, 0x0, 0x0, 0x0, 0x0⟩,
  ⟨0xB0060, 0x4, 6, 0x0, 0x0, 0x0, 0x0, 0x0, 0x0, 0x0⟩,
  ⟨0xB0080, 0x4, 6, 0x0, 0x0, 0x0, 0x0, 0x0, 0x0, 0x0⟩,
  ⟨0xB0100, 0x4, 1, 0x0, 0x0, 0x0, 0x0, 0x1F, 0x0, 0x0⟩,
  ⟨0xB0104, 0x4, 1, 0x0, 0x0, 0x0, 0x0, 0x0, 0x0, 0x0⟩,
  ⟨0xB0108, 0x4, 1, 0xFFFFFFC0, 0x0, 0x0, 0x0, 0x0, 0x0, 0x0⟩,
  ⟨0xB010C, 0x4, 1, 0xFFFFFFFF, 0x0, 0x0, 0x0, 0x0, 0x0, 0x0⟩,
  ⟨0xB0110, 0x4, 1, 0xFFFFFFC0, 0x0, 0x0, 0x0, 0x0, 0x0, 0x0⟩,
  ⟨0xB0114, 0x4, 1, 0xFFFFFFFF, 0x0, 0x0, 0x0, 0x0, 0x0, 0x0⟩,
  ⟨0xB0118, 0x4, 1, 0x1FFFFFF, 0x0, 0x0, 0x0, 0x0, 0x0, 0x0⟩,
  ⟨0xB011C, 0x4, 1, 0xFFFFFFFF, 0x0, 0x0, 0x0, 0x0, 0x0, 0x0⟩,
  ⟨0xB0120, 0x4, 1, 0xFFFFFFFF, 0x0, 0x0, 0x0, 0x0, 0x0, 0x0⟩,
  ⟨0xB0124, 0x4, 1, 0xFFFFFFC0, 0x0, 0x0, 0x0, 0x0, 0x0, 0x0⟩,
  ⟨0xB0128, 0x4, 1, 0xFFFFFFFF, 0x0, 0x0, 0x0, 0x0, 0x0, 0x0⟩,
  ⟨0xB012C, 0x4, 1, 0x0, 0x0, 0x0, 0x0, 0x0, 0x0, 0x0⟩,
  ⟨0xB0130, 0x4, 1, 0x0, 0x0, 0x1FFF, 0x0, 0x0, 0x0, 0x0⟩,
  ⟨0xC0000, 0x4, 1, 0x0, 0x0, 0x0, 0x0, 0x0, 0x0, 0x0⟩,
  ⟨0xC0004, 0x4, 1, 0x0, 0x0, 0x0, 0x0, 0x0, 0x0, 0x0⟩,
  ⟨0xC0008, 0x4, 1, 0x0, 0x0, 0x0, 0x0, 0x0, 0x0, 0x0⟩,
  ⟨0xC000C, 0x4, 1, 0x0, 0x0, 0x0, 0x0, 0x0, 0x0, 0x0⟩,
  ⟨0xC0010, 0x4, 1, 0x0, 0x0, 0x0, 0x0, 0x0, 0x0, 0x0⟩]

/-- Part 6 of the registers of the hub blocks (R580), by offset in BAR0. -/
def hubRegs6 : List RegDef := [
  ⟨0xC0014, 0x4, 1, 0x0, 0x0, 0x0, 0x0, 0x0, 0x0, 0x0⟩,
  ⟨0xC0018, 0x4, 1, 0x0, 0x0, 0x0, 0x0, 0x0, 0x0, 0x0⟩,
  ⟨0xC001C, 0x4, 1, 0x0, 0x0, 0x7F, 0x0, 0x0, 0x0, 0x0⟩,
  ⟨0xC0020, 0x4, 1, 0x0, 0x0, 0x0, 0x0, 0x0, 0x0, 0x0⟩,
  ⟨0xD0000, 0x4, 1, 0x0, 0x0, 0x0, 0x0, 0x1, 0x0, 0x0⟩,
  ⟨0xD0004, 0x4, 1, 0x0, 0x0, 0x0, 0x0, 0x0, 0x0, 0x0⟩,
  ⟨0xD0008, 0x4, 1, 0xFFFFFFC0, 0x0, 0x0, 0x0, 0x0, 0x0, 0x0⟩,
  ⟨0xD000C, 0x4, 1, 0xFFFFFFFF, 0x0, 0x0, 0x0, 0x0, 0x0, 0x0⟩,
  ⟨0xD0010, 0x4, 1, 0xFFFFFFFF, 0x0, 0x0, 0x0, 0x0, 0x0, 0x0⟩,
  ⟨0xD0014, 0x4, 1, 0x0, 0x0, 0x0, 0x0, 0x0, 0x0, 0x0⟩,
  ⟨0xD0018, 0x4, 1, 0x0, 0x0, 0x0, 0x0, 0x0, 0x0, 0x0⟩,
  ⟨0xD001C, 0x4, 1, 0x0, 0x0, 0x0, 0x0, 0x0, 0x0, 0x0⟩,
  ⟨0xD0020, 0x4, 1, 0x0, 0x0, 0x0, 0x0, 0x0, 0x0, 0x0⟩,
  ⟨0xD0024, 0x4, 1, 0x0, 0x0, 0x0, 0x0, 0x0, 0x0, 0x0⟩,
  ⟨0xD0028, 0x4, 1, 0x0, 0x0, 0x0, 0x0, 0x0, 0x0, 0x0⟩,
  ⟨0xD002C, 0x4, 1, 0x0, 0x0, 0x0, 0x0, 0x0, 0x0, 0x0⟩,
  ⟨0xD0030, 0x4, 1, 0x0, 0x0, 0x0, 0x0, 0x0, 0x0, 0x0⟩,
  ⟨0xD0034, 0x4, 1, 0x0, 0x0, 0x0, 0x0, 0x0, 0x0, 0x0⟩,
  ⟨0xD0038, 0x4, 1, 0x0, 0x0, 0x0, 0x0, 0x0, 0x0, 0x0⟩,
  ⟨0xD0040, 0x4, 8, 0x0, 0x0, 0x0, 0x0, 0x0, 0x0, 0x0⟩]

/-- The registers of the hub blocks (R580), by offset in BAR0. -/
def hubRegs : List RegDef :=
  hubRegs0 ++ hubRegs1 ++ hubRegs2 ++ hubRegs3 ++ hubRegs4 ++ hubRegs5 ++ hubRegs6

/-- Part 0 of the registers of a Stope die (R581), by offset in the region of the die. -/
def dieRegs0 : List RegDef := [
  ⟨0x0, 0x4, 1, 0x0, 0x0, 0x0, 0x0, 0x0, 0x0, 0x0⟩,
  ⟨0x4, 0x4, 1, 0x7, 0x0, 0x0, 0x0, 0x0, 0x0, 0x0⟩,
  ⟨0x8, 0x4, 1, 0x0, 0x0, 0x0, 0x0, 0x0, 0x0, 0x0⟩,
  ⟨0xC, 0x4, 1, 0x0, 0x0, 0x0, 0x0, 0x0, 0x0, 0x0⟩,
  ⟨0x10, 0x4, 1, 0x0, 0x0, 0x0, 0x0, 0x0, 0x0, 0x0⟩,
  ⟨0x14, 0x4, 1, 0x0, 0x0, 0x0, 0x0, 0x0, 0x0, 0x0⟩,
  ⟨0x18, 0x4, 1, 0x0, 0x0, 0x0, 0x0, 0x0, 0x0, 0x0⟩,
  ⟨0x1C, 0x4, 1, 0x0, 0x0, 0x0, 0x0, 0x0, 0x0, 0x0⟩,
  ⟨0x20, 0x4, 1, 0x0, 0x0, 0x0, 0x0, 0x0, 0x0, 0x0⟩,
  ⟨0x24, 0x4, 1, 0x0, 0x0, 0xF, 0x0, 0x0, 0x0, 0x0⟩,
  ⟨0x10000, 0x4, 1, 0x0, 0x0, 0x0, 0x0, 0x0, 0x0, 0x0⟩,
  ⟨0x10004, 0x4, 1, 0x0, 0x0, 0x0, 0x0, 0x0, 0x0, 0x0⟩,
  ⟨0x10008, 0x4, 1, 0x0, 0x0, 0x0, 0x0, 0x0, 0x0, 0x0⟩,
  ⟨0x1000C, 0x4, 1, 0x0, 0x0, 0x0, 0x0, 0x0, 0x0, 0xFFFFFFFF⟩,
  ⟨0x10010, 0x4, 1, 0x0, 0x0, 0x0, 0x0, 0x0, 0x0, 0xFFFFFFFF⟩,
  ⟨0x10014, 0x4, 1, 0x0, 0x0, 0x0, 0x0, 0x0, 0x0, 0x0⟩,
  ⟨0x10018, 0x4, 1, 0x0, 0x0, 0x0, 0x0, 0x0, 0x0, 0x0⟩,
  ⟨0x1001C, 0x4, 1, 0x0, 0x0, 0x7, 0x0, 0x0, 0x0, 0x0⟩,
  ⟨0x20000, 0x4, 1, 0x0, 0x0, 0x0, 0x0, 0x0, 0x0, 0x0⟩,
  ⟨0x20004, 0x4, 1, 0x0, 0x0, 0x0, 0x0, 0x0, 0x0, 0x10⟩,
  ⟨0x20008, 0x4, 1, 0x0, 0x0, 0x0, 0x0, 0x0, 0x0, 0xF⟩,
  ⟨0x2000C, 0x4, 1, 0x0, 0x0, 0x0, 0x0, 0x0, 0x0, 0xFAC688⟩,
  ⟨0x20010, 0x4, 1, 0x0, 0x0, 0x0, 0x0, 0x0, 0x0, 0x0⟩,
  ⟨0x20014, 0x4, 1, 0x0, 0x0, 0x0, 0x0, 0x0, 0x0, 0x0⟩,
  ⟨0x20018, 0x4, 1, 0x0, 0x0, 0xFF, 0x0, 0x0, 0x0, 0x0⟩,
  ⟨0x2001C, 0x4, 1, 0x0, 0x0, 0x0, 0x0, 0x0, 0x0, 0x0⟩,
  ⟨0x20020, 0x4, 1, 0x0, 0x0, 0x0, 0x0, 0x0, 0x0, 0x0⟩,
  ⟨0x20024, 0x4, 1, 0x0, 0x0, 0x0, 0x0, 0x0, 0x0, 0x0⟩,
  ⟨0x20028, 0x4, 1, 0x0, 0x0, 0x0, 0x0, 0x0, 0x0, 0x0⟩,
  ⟨0x2002C, 0x4, 1, 0x0, 0x0, 0x0, 0x0, 0x0, 0x0, 0x0⟩]

/-- Part 1 of the registers of a Stope die (R581), by offset in the region of the die. -/
def dieRegs1 : List RegDef := [
  ⟨0x20030, 0x4, 1, 0x0, 0x0, 0x0, 0x0, 0x0, 0x0, 0x0⟩,
  ⟨0x20034, 0x4, 1, 0x0, 0x0, 0x0, 0x0, 0x0, 0x0, 0x0⟩,
  ⟨0x30000, 0x4, 1, 0x0, 0x0, 0x0, 0x0, 0x0, 0x0, 0x0⟩,
  ⟨0x30004, 0x4, 1, 0x0, 0x0, 0x0, 0x0, 0x0, 0x0, 0x0⟩,
  ⟨0x30008, 0x4, 1, 0x0, 0x0, 0x0, 0x0, 0x0, 0x0, 0x0⟩,
  ⟨0x3000C, 0x4, 1, 0x0, 0x0, 0x0, 0x0, 0x0, 0x0, 0x0⟩,
  ⟨0x30010, 0x4, 1, 0x0, 0x0, 0x0, 0x0, 0x0, 0x0, 0x0⟩,
  ⟨0x30014, 0x4, 1, 0x0, 0x0, 0x0, 0x0, 0x0, 0x0, 0x0⟩,
  ⟨0x30018, 0x4, 1, 0x0, 0x0, 0x0, 0x0, 0x0, 0x0, 0x0⟩,
  ⟨0x3001C, 0x4, 1, 0x0, 0x0, 0x0, 0x0, 0x0, 0x0, 0x0⟩,
  ⟨0x30020, 0x4, 1, 0x0, 0x0, 0x0, 0x0, 0x0, 0x0, 0xFFFF⟩,
  ⟨0x30024, 0x4, 1, 0xFFFFFFFF, 0x0, 0x0, 0x0, 0x0, 0x0, 0x0⟩,
  ⟨0x30028, 0x4, 1, 0xFFFFFFFF, 0x0, 0x0, 0x0, 0x0, 0x0, 0x0⟩,
  ⟨0x3002C, 0x4, 1, 0x0, 0x0, 0x0, 0x0, 0x0, 0x0, 0x0⟩,
  ⟨0x30030, 0x4, 1, 0x0, 0x0, 0x0, 0x0, 0x0, 0x0, 0x0⟩,
  ⟨0x30034, 0x4, 1, 0x0, 0x0, 0x0, 0x0, 0x0, 0x0, 0x0⟩,
  ⟨0x30038, 0x4, 1, 0x0, 0x0, 0x0, 0x0, 0x0, 0x0, 0x0⟩,
  ⟨0x3003C, 0x4, 1, 0x0, 0x0, 0x0, 0x0, 0x0, 0x0, 0x0⟩,
  ⟨0x30040, 0x4, 1, 0x0, 0x0, 0x0, 0x0, 0x0, 0x0, 0x0⟩,
  ⟨0x30044, 0x4, 1, 0x0, 0x0, 0x0, 0x0, 0x0, 0x0, 0x0⟩,
  ⟨0x30048, 0x4, 1, 0x0, 0x0, 0x0, 0x0, 0x0, 0x0, 0x0⟩,
  ⟨0x3004C, 0x4, 1, 0x0, 0x0, 0x0, 0x0, 0x0, 0x0, 0x0⟩,
  ⟨0x30050, 0x4, 1, 0x0, 0x0, 0x0, 0x0, 0x0, 0x0, 0x0⟩,
  ⟨0x30054, 0x4, 1, 0x0, 0x0, 0x0, 0x0, 0x0, 0x0, 0x0⟩,
  ⟨0x30058, 0x4, 1, 0x0, 0x0, 0x1F, 0x0, 0x0, 0x0, 0x0⟩,
  ⟨0x3005C, 0x4, 1, 0x0, 0x0, 0x0, 0x0, 0x0, 0x0, 0x0⟩,
  ⟨0x40000, 0x100, 68, 0x0, 0x0, 0x0, 0x0, 0x0, 0x0, 0x37F01⟩,
  ⟨0x40004, 0x100, 68, 0x0, 0x0, 0x1F, 0x0, 0x0, 0x0, 0x0⟩,
  ⟨0x40008, 0x100, 68, 0x0, 0x0, 0x0, 0x0, 0x0, 0x0, 0x0⟩,
  ⟨0x4000C, 0x100, 68, 0x0, 0x0, 0x0, 0x0, 0x0, 0x0, 0x0⟩]

/-- Part 2 of the registers of a Stope die (R581), by offset in the region of the die. -/
def dieRegs2 : List RegDef := [
  ⟨0x40010, 0x100, 68, 0x0, 0x0, 0x0, 0x0, 0x0, 0x0, 0x0⟩,
  ⟨0x40014, 0x100, 68, 0x0, 0x0, 0x0, 0x0, 0x0, 0x0, 0x0⟩,
  ⟨0x48000, 0x4, 1, 0x0, 0x0, 0x0, 0x0, 0x0, 0x0, 0x0⟩,
  ⟨0x48004, 0x4, 1, 0x0, 0x0, 0x0, 0x0, 0x0, 0x0, 0x0⟩,
  ⟨0x48008, 0x4, 1, 0x0, 0x0, 0x0, 0x0, 0x0, 0x0, 0x0⟩,
  ⟨0x4800C, 0x4, 1, 0x0, 0x0, 0x0, 0x0, 0x0, 0x0, 0x0⟩,
  ⟨0x48010, 0x8, 8, 0x0, 0x0, 0x0, 0x0, 0x0, 0x0, 0x0⟩,
  ⟨0x48014, 0x8, 8, 0x0, 0x0, 0x0, 0x0, 0x0, 0x0, 0x0⟩,
  ⟨0x48050, 0x8, 2, 0x0, 0x0, 0x0, 0x0, 0x0, 0x0, 0x0⟩,
  ⟨0x48054, 0x8, 2, 0x0, 0x0, 0x0, 0x0, 0x0, 0x0, 0x0⟩,
  ⟨0x48070, 0x4, 16, 0x0, 0x0, 0x0, 0x0, 0x0, 0x0, 0x7F7F7F7F⟩,
  ⟨0x480B0, 0x4, 3, 0x0, 0x0, 0x0, 0x0, 0x0, 0x0, 0x0⟩,
  ⟨0x480BC, 0x4, 3, 0x0, 0x0, 0x0, 0x0, 0x0, 0x0, 0x0⟩,
  ⟨0x480C8, 0x4, 1, 0x0, 0x0, 0x0, 0x0, 0x0, 0x0, 0x0⟩,
  ⟨0x480CC, 0x4, 1, 0x0, 0x0, 0x0, 0x0, 0x0, 0x0, 0x0⟩,
  ⟨0x480D0, 0x4, 1, 0x0, 0x0, 0x0, 0x0, 0x0, 0x0, 0x0⟩,
  ⟨0x480D4, 0x4, 1, 0x0, 0x0, 0x0, 0x0, 0x0, 0x0, 0x0⟩,
  ⟨0x480D8, 0x4, 1, 0x0, 0x0, 0x0, 0x0, 0x0, 0x0, 0x0⟩,
  ⟨0x480DC, 0x4, 1, 0x0, 0x0, 0x0, 0x0, 0x0, 0x0, 0x0⟩,
  ⟨0x480E0, 0x4, 1, 0x0, 0x0, 0x7F, 0x0, 0x0, 0x0, 0x0⟩,
  ⟨0x480E4, 0x4, 1, 0x0, 0x0, 0x0, 0x0, 0x0, 0x0, 0x0⟩,
  ⟨0x50000, 0x4, 1, 0x0, 0x0, 0x0, 0x0, 0x0, 0x0, 0x0⟩,
  ⟨0x50004, 0x4, 1, 0x0, 0x0, 0x0, 0x0, 0x0, 0x0, 0x0⟩,
  ⟨0x50008, 0x4, 10, 0x0, 0x0, 0x0, 0x0, 0x0, 0x0, 0x0⟩,
  ⟨0x50040, 0x20, 2, 0x0, 0x0, 0x0, 0x0, 0x0, 0x0, 0x0⟩,
  ⟨0x50044, 0x20, 2, 0x0, 0x0, 0x0, 0x0, 0x0, 0x0, 0x0⟩,
  ⟨0x50048, 0x20, 2, 0x0, 0x0, 0x0, 0x0, 0x0, 0x0, 0x0⟩,
  ⟨0x5004C, 0x20, 2, 0x0, 0x0, 0x0, 0x0, 0x0, 0x0, 0x0⟩,
  ⟨0x50050, 0x20, 2, 0x0, 0x0, 0x0, 0x0, 0x0, 0x0, 0x0⟩,
  ⟨0x50054, 0x20, 2, 0x0, 0x0, 0x0, 0x0, 0x0, 0x0, 0x0⟩]

/-- Part 3 of the registers of a Stope die (R581), by offset in the region of the die. -/
def dieRegs3 : List RegDef := [
  ⟨0x50058, 0x20, 2, 0x0, 0x0, 0x0, 0x0, 0x0, 0x0, 0x0⟩,
  ⟨0x5005C, 0x20, 2, 0x0, 0x0, 0x0, 0x0, 0x0, 0x0, 0x0⟩,
  ⟨0x50080, 0x4, 1, 0x0, 0x0, 0x3F, 0x0, 0x0, 0x0, 0x0⟩,
  ⟨0x50084, 0x4, 1, 0x0, 0x0, 0x0, 0x0, 0x0, 0x0, 0x0⟩,
  ⟨0x50088, 0x4, 1, 0xFFFFFFC0, 0x0, 0x0, 0x0, 0x0, 0x0, 0x0⟩,
  ⟨0x5008C, 0x4, 1, 0xFFFFFFFF, 0x0, 0x0, 0x0, 0x0, 0x0, 0x0⟩,
  ⟨0x50090, 0x4, 1, 0x0, 0x0, 0x0, 0x0, 0x3, 0x0, 0x0⟩,
  ⟨0x50094, 0x4, 1, 0x0, 0x0, 0x0, 0x0, 0x0, 0x0, 0x0⟩,
  ⟨0x60000, 0x4, 1, 0x0, 0x0, 0x0, 0x0, 0x0, 0x0, 0x0⟩,
  ⟨0x60004, 0x4, 1, 0x0, 0x0, 0x0, 0x0, 0x0, 0x0, 0x0⟩,
  ⟨0x60008, 0x4, 1, 0x0, 0x0, 0x0, 0x0, 0x0, 0x0, 0x0⟩,
  ⟨0x6000C, 0x4, 1, 0x0, 0x0, 0x0, 0x0, 0x0, 0x0, 0x0⟩,
  ⟨0x60010, 0x4, 1, 0x0, 0x0, 0x0, 0x0, 0x0, 0x0, 0x0⟩,
  ⟨0x60014, 0x4, 1, 0x0, 0x0, 0x0, 0x0, 0x0, 0x0, 0x0⟩,
  ⟨0x60018, 0x4, 1, 0x0, 0x0, 0x0, 0x0, 0x0, 0x0, 0x0⟩,
  ⟨0x6001C, 0x4, 1, 0x0, 0x0, 0x0, 0x0, 0x0, 0x0, 0x0⟩,
  ⟨0x60020, 0x4, 1, 0x0, 0x0, 0x0, 0x0, 0x0, 0x0, 0x0⟩,
  ⟨0x60024, 0x4, 1, 0x0, 0x0, 0x0, 0x0, 0x0, 0x0, 0x1FFF⟩,
  ⟨0x60028, 0x4, 1, 0x0, 0x0, 0x0, 0x0, 0x0, 0x0, 0x0⟩,
  ⟨0x6002C, 0x4, 1, 0x0, 0x0, 0x0, 0x0, 0x0, 0x0, 0x0⟩,
  ⟨0x60030, 0x4, 1, 0x0, 0x0, 0x3FF, 0x0, 0x0, 0x0, 0x0⟩,
  ⟨0x60034, 0x4, 1, 0x0, 0x1F, 0x0, 0x0, 0x0, 0x0, 0x0⟩,
  ⟨0x60038, 0x4, 1, 0x0, 0x0, 0x0, 0x0, 0x0, 0x0, 0x0⟩,
  ⟨0x70000, 0x4, 1, 0x0, 0x0, 0x3, 0x0, 0x0, 0x0, 0x0⟩,
  ⟨0x70004, 0x4, 1, 0x17F, 0x0, 0x0, 0x0, 0x0, 0x0, 0x0⟩,
  ⟨0x70008, 0x4, 1, 0x0, 0x0, 0x0, 0x0, 0x0, 0x0, 0x0⟩,
  ⟨0x7000C, 0x4, 1, 0x0, 0x0, 0x0, 0x0, 0x0, 0x0, 0x0⟩,
  ⟨0x70010, 0x4, 1, 0x0, 0x0, 0x0, 0x0, 0x0, 0x0, 0x0⟩,
  ⟨0x70014, 0x4, 1, 0x0, 0x0, 0x0, 0x0, 0x0, 0x0, 0x0⟩,
  ⟨0x70018, 0x4, 1, 0x0, 0x0, 0x0, 0x0, 0x0, 0x0, 0x0⟩]

/-- Part 4 of the registers of a Stope die (R581), by offset in the region of the die. -/
def dieRegs4 : List RegDef := [
  ⟨0x7001C, 0x4, 1, 0x0, 0x0, 0x0, 0x0, 0x0, 0x0, 0x0⟩,
  ⟨0x70020, 0x4, 1, 0x0, 0x0, 0x0, 0x0, 0x0, 0x0, 0x0⟩,
  ⟨0x70024, 0x4, 1, 0x0, 0x0, 0x0, 0x0, 0x0, 0x0, 0x0⟩,
  ⟨0x70028, 0x4, 1, 0x0, 0x0, 0xF, 0x0, 0x0, 0x0, 0x0⟩,
  ⟨0x80000, 0x4, 1, 0x0, 0x0, 0x0, 0x0, 0x0, 0x0, 0x0⟩,
  ⟨0x80004, 0x4, 1, 0x0, 0x0, 0x0, 0x0, 0x0, 0x0, 0x0⟩,
  ⟨0x80008, 0x4, 1, 0x0, 0x0, 0x0, 0x0, 0x0, 0x0, 0x0⟩,
  ⟨0x8000C, 0x4, 1, 0x0, 0x0, 0x0, 0x0, 0x0, 0x0, 0x0⟩,
  ⟨0x80010, 0x4, 1, 0x0, 0x0, 0x0, 0x0, 0x0, 0x0, 0x0⟩,
  ⟨0x80014, 0x4, 1, 0x0, 0x0, 0x0, 0x0, 0x0, 0x0, 0x0⟩,
  ⟨0x80018, 0x4, 1, 0x0, 0x0, 0x0, 0x0, 0x0, 0x0, 0x0⟩,
  ⟨0x8001C, 0x4, 1, 0x0, 0x0, 0x0, 0x0, 0x0, 0x0, 0x0⟩,
  ⟨0x80020, 0x4, 1, 0x0, 0x0, 0x0, 0x0, 0x0, 0x0, 0x0⟩,
  ⟨0x80024, 0x4, 1, 0x0, 0x0, 0x3F, 0x0, 0x0, 0x0, 0x0⟩,
  ⟨0x90000, 0x40, 32, 0xFFFFFFE0, 0x0, 0x0, 0x0, 0x0, 0x0, 0x0⟩,
  ⟨0x90004, 0x40, 32, 0xFFFFFFFF, 0x0, 0x0, 0x0, 0x0, 0x0, 0x0⟩,
  ⟨0x90008, 0x40, 32, 0x0, 0x0, 0x0, 0x0, 0x1, 0x0, 0x0⟩,
  ⟨0x9000C, 0x40, 32, 0x0, 0x0, 0x0, 0x0, 0x0, 0x0, 0x0⟩,
  ⟨0x90010, 0x40, 32, 0x0, 0x0, 0x0, 0x0, 0x0, 0x0, 0x0⟩,
  ⟨0x90800, 0x4, 1, 0x0, 0x0, 0x3, 0x0, 0x0, 0x0, 0x0⟩,
  ⟨0x90804, 0x4, 1, 0x0, 0x0, 0x0, 0x0, 0x0, 0x0, 0x0⟩,
  ⟨0xA0000, 0x4, 1, 0x0, 0x0, 0x0, 0x0, 0x0, 0x0, 0x0⟩,
  ⟨0xA0004, 0x4, 1, 0x0, 0x0, 0x0, 0x0, 0x0, 0x0, 0x0⟩,
  ⟨0xA0008, 0x4, 1, 0x0, 0x0, 0x0, 0x0, 0x0, 0x0, 0x0⟩,
  ⟨0xA000C, 0x4, 1, 0x0, 0x0, 0x0, 0x0, 0x0, 0x0, 0x0⟩,
  ⟨0xA0010, 0x4, 1, 0x0, 0x0, 0x0, 0x0, 0x0, 0x0, 0x0⟩,
  ⟨0xA0014, 0x4, 1, 0x0, 0x0, 0xF, 0x0, 0x0, 0x0, 0x0⟩]

/-- The registers of a Stope die (R581), by offset in the region of the die. -/
def dieRegs : List RegDef :=
  dieRegs0 ++ dieRegs1 ++ dieRegs2 ++ dieRegs3 ++ dieRegs4


/-- What an offset of the primary space belongs to (R579, R580, R581). -/
inductive Region where
  | hub
  | die (d : Die)
  | beyond
  deriving DecidableEq, Repr

/-- The region of a primary offset. -/
def regionOf (o : Nat) : Region :=
  if o < 0x400000 then .hub
  else if o < 0x800000 then .die .s0
  else if o < 0xC00000 then .die .s1
  else .beyond

/-- The register at a primary offset, none where the map assigns none (R580, R581). -/
def findReg (o : Nat) : Option RegDef :=
  match regionOf o with
  | .hub => hubRegs.find? (fun r => r.holds o)
  | .die d => dieRegs.find? (fun r => r.holds (o - d.base))
  | .beyond => none

/-- The reset value of the register at a primary offset, as its table gives it. Values that depend on fuses, OTP or
typed state are views (RegView). -/
def regReset (o : Nat) : Word :=
  match findReg o with
  | some r => BitVec.ofNat 32 r.rst
  | none => 0

/-- The RC mask of the register at an offset (R562). -/
def rcMask (o : Nat) : Word :=
  match findReg o with
  | some r => BitVec.ofNat 32 r.rc
  | none => 0

end Sys2Proof.Machine
end

