-- ==== Sys2Proof/Syntax.lean ====
section
/-! DEFINITION. The commands: one constructor per row of spec/opcode_table.json, in the table's order. The table gives
no operands; each constructor carries what the step it stands for takes from outside the device: the device time `t`
(ns) of an event, what a host, link, flash or monitor presents, and the hardware faults it meets, which the spec leaves
to the environment (notes/assumptions/4.md). -/

namespace Sys2Proof
open Sys2Proof.Machine (Die)

/-- What ends when TASK_COMPLETE is commanded (R327 and the events 95 lists within it). -/
inductive Ending where
  /-- an engine of a class ends its task with a status, 0 for DONE (R327, R329); its work met `ce` corrected errors (R353)
  and lost or won the contested Gallery cycles `ports`: port (0 A, 1 B) and its requesters (R344); `bad`: what of its
  results came out wrong by a hardware fault: rows of a class 0 output, indices of class 1 records -/
  | task (cls engine status ce : Nat) (ports : List (Nat × List Nat)) (bad : List Nat)
  /-- an operation of the second or third run of a flagged network ends on a die (R186, R188); `status`, `ce` and `bad` as of a
  class 0 `task` (R182), `dram` corrected errors in its paged weights (R358) -/
  | rerun (net die status ce dram : Nat) (bad : List Nat)
  /-- the comparison after the second run of a flagged network on a die (R187) -/
  | compare (net die : Nat)
  /-- the comparison after the third run (R188, R189) -/
  | third (net die : Nat)
  /-- the final-clearance pass ends: its records are compared with those of the recheck copies (R278, R280) -/
  | pass
  /-- the comparison of the blocks that both dies have swept in CROSSWIND ends (R281) -/
  | sweepCompare
  /-- a third run of the vote pass ends; `bad`: its record came out wrong by a hardware fault (R282 to R284) -/
  | vote (id : Nat) (bad : Bool)
  /-- the walk-down of the final list (R286, R287) -/
  | walkDown
  /-- EMIT hands the record to the Deputy and to its egress channel (R295, R458) -/
  | emit
  deriving DecidableEq, Repr

/-- What failed a BIST: die (0 hub, 1 S0, 2 S1), class in the order of R544 and after it the shared memories of R545 (7
Gallery, 8 policy buffer, 9 Heap memory, 10 a Select buffer), instance. `ram`: an SRAM of that unit failed MBIST, not its LBIST
partition. -/
structure BistFail where
  die  : Nat
  cls  : Nat
  inst : Nat
  ram  : Bool
  deriving DecidableEq, Repr

/-- A pass of the parity scan: the bytes (offset, byte, in a pending value) whose parity it finds wrong, and those whose parity goes
wrong after it has checked them (R577). -/
structure ScanPass where
  found : List (Nat × Nat × Bool)
  after : List (Nat × Nat × Bool)
  deriving DecidableEq, Repr

/-- What ends a Deputy check: device time, and what its reads of the Deputy's memory met (R453): corrected errors, and whether
an uncorrectable one. -/
structure CheckMet where
  t  : Nat
  ce : Nat
  ue : Bool
  deriving DecidableEq, Repr

/-- The engine that takes an entry (R326); `fault`: what the first read of a mover met, as of `ReadMet`; `ce`: corrected errors in
the DRAM words that the fetch of an operation's paged weights reads (R181, R358). -/
structure Starter where
  engine : Nat
  fault  : Nat
  ce     : Nat
  deriving DecidableEq, Repr

/-- What a step of a sweep met (R228). `ue`: 0, or 1 + 2 * offset + memory of the uncorrectable error (memory 0 slice, 1
local); `ce`: corrected errors; `bad`: slots of the engine whose accumulators came out wrong by a hardware fault. -/
structure StepMet where
  ue  : Nat
  ce  : Nat
  bad : List Nat
  deriving DecidableEq, Repr

/-- What the canary slot met (R226 to R228). `missing`: engines that did not complete; `ue`: engines that met an
uncorrectable error, each with a code as of `StepMet`; `ce`: corrected errors by engine. -/
structure CanaryMet where
  missing : List Nat
  ue      : List (Nat × Nat)
  ce      : List (Nat × Nat)
  deriving DecidableEq, Repr

/-- What a read at its target met. `fault`: 0 none, 1 a single-bit error, 2 an uncorrectable one (R353, R354), 3 + k: k of its tries
met a BUSY (R345, R346); `ports`: the contested Gallery cycles that it won or lost: die, port (0 A, 1 B), requesters (R344). -/
structure ReadMet where
  fault : Nat
  ports : List (Die × Nat × List Nat)
  deriving DecidableEq, Repr

/-- A host write through the window. `raced`: its partial 32-bit words (window offset / 4) that port A wrote meanwhile (R380);
`ports` as of `ReadMet`. -/
structure WinWrite where
  data  : List Byte
  raced : List Nat
  ports : List (Die × Nat × List Nat)
  deriving DecidableEq, Repr

/-- A host write of a vector's control in BAR4 (R370, R384): the vector, the message address and data of its table entry, whether
its entry masks it, and whether Function Mask or a clear MSI-X Enable masks every vector. -/
structure VectorWrite where
  v      : Nat
  addr   : Nat
  data   : Nat
  masked : Bool
  allOff : Bool
  deriving DecidableEq, Repr

/-- A descriptor's move. `t`: device time; `data`: what host memory presented; `fault`: what the first read of device
memory met, as of `ReadMet`; `ports`: the Gallery cycles it contested. -/
structure Moved where
  t     : Nat
  data  : List Byte
  fault : Nat
  ports : List (Die × Nat × List Nat)
  deriving DecidableEq, Repr

/-- A flit that arrives. `replay`: the flit that a NAK named, sent again (R415). -/
structure FlitIn where
  replay : Bool
  bytes  : List Byte
  deriving DecidableEq, Repr

/-- The data of a BROADCAST packet, and the packets of the same broadcast that follow it: its TAG
(notes/assumptions/123.md). -/
structure BcastData where
  left : Nat
  data : List Byte
  deriving DecidableEq, Repr

/-- The operand of an atomic operation; `fault`: 0 none, 1 and 2 as of `ReadMet`, 3 a port A write to the word meanwhile
(R351); `ports` as of `ReadMet`. -/
structure AtomicArg where
  v     : DWord
  fault : Nat
  ports : List (Die × Nat × List Nat)
  deriving DecidableEq, Repr

/-- The data of a PUT or SIGNAL; `ports` as of `ReadMet`. -/
structure PutArg where
  data  : List Byte
  ports : List (Die × Nat × List Nat)
  deriving DecidableEq, Repr

/-- What a Select operation met: an error in its inputs (`fault`: 0 none, 1 a single-bit error, 2 an uncorrectable one; R241,
R353), and the contested Gallery cycles of its die: port (0 A, 1 B) and requesters (R344). -/
structure SelMet where
  fault : Nat
  ports : List (Nat × List Nat)
  deriving DecidableEq, Repr

/-- What an epoch commit met on a die: uncorrectable errors by tile, in its directory entry (true) or its data (R78), and
corrected errors (R358). -/
structure TilesMet where
  ue : List (Int × Int × Bool)
  ce : Nat
  deriving DecidableEq, Repr, Inhabited

/-- What an epoch commit met on S0 and S1, and the tiles whose data reached the Deputy with another CRC (R456). -/
structure CommitMet where
  d0     : TilesMet
  d1     : TilesMet
  crcBad : List (Int × Int)
  deriving DecidableEq, Repr, Inhabited

/-- The end of the budget of phase `ph`; `ports`: the contested Gallery cycles of the tasks that an overrun abandons there, as of
`ReadMet`. -/
structure BudgetEnd where
  ph    : Nat
  ports : List (Die × Nat × List Nat)
  deriving DecidableEq, Repr

/-- A record deadline at device time `t`; `ports` as of `BudgetEnd`. -/
structure DeadlineMet where
  t     : Nat
  ports : List (Die × Nat × List Nat)
  deriving DecidableEq, Repr

/-- HALT_N seen low at device time `t`; `low`: for how long by then, in ns. -/
structure HaltPulse where
  t   : Nat
  low : Nat
  deriving DecidableEq, Repr

/-- What step 3 of a RECOVER finds: the failed units, and the failed SRAMs beside those named (R545, R546). -/
structure RecoverMet where
  macros : Nat
  fails  : List BistFail
  deriving DecidableEq, Repr

/-- The end of a RELEASE frame: its CRC; `low`: PERST_N is low as the frame ends. -/
structure ReleaseEnd where
  crc : BitVec 16
  low : Bool
  deriving DecidableEq, Repr

/-- The front of a DRAM's initialisation (R359). `mib`: what the controller has initialised; at the usable size
initialisation is done. -/
structure InitFront where
  die : Die
  mib : Nat
  deriving DecidableEq, Repr

/-- How far a load is. `ue`: 0, or the check of R316 (5, 6 or 13) at which an uncorrectable error was met; `ce`: corrected
errors that it has met in reading the image since it was told last (R358); `reach`: the step of R315 that the load now begins, 2
to 6, or its end from 7 on. -/
structure LoadStep where
  ue    : Nat
  ce    : Nat
  reach : Nat
  deriving DecidableEq, Repr

/-- A command of the block: a row of the table. -/
inductive Instr where
  | tickBoundary (t : Nat)
  | tickInPulse (e width : Nat)
  | mark (port tickLo remain arrival : Nat)
  | srcLost (t : Nat)
  | tickTiming (t spacing : Nat)
  | phaseRelease (t ph : Nat)
  | phaseWatchdog (t : Nat) (b : BudgetEnd)
  | recordDeadline (b : DeadlineMet)
  | epochCommit (t : Nat) (m0 m1 : TilesMet) (crcBad : List (Int × Int))
  | commitEnd (t : Nat)
  | timeup (t : Nat)
  | start (t missed : Nat)
  | stop (t : Nat)
  | hold (t : Nat)
  | resume (t missed : Nat)
  | save (t : Nat)
  | restore (t : Nat)
  | recover (t : Nat)
  | recoverDone (t : Nat) (met : RecoverMet)
  | commit (t : Nat)
  | discard
  | halt (p : HaltPulse)
  | deviceReset
  | resetRelease (bootsel : Nat) (testMode haltLow : Bool) (flashError : Nat) (container : List Byte)
  | powerOnReset
  | bootComplete
  | flr (t step : Nat)
  | linkDown (t : Nat)
  | linkUp (speed width : Nat)
  | d3hot
  | d0Return
  | msixUnmask (w : VectorWrite)
  | s1Isolate (t drainNs : Nat)
  | s1PowerUp (t : Nat)
  | clockSwitch (d : Die) (t : Nat)
  | tile (stream arrival : Nat) (item : List Byte)
  | dir (stream arrival : Nat) (item : List Byte)
  | agent (stream arrival : Nat) (item : List Byte)
  | ego (stream arrival : Nat) (item : List Byte)
  | route (stream arrival : Nat) (item : List Byte)
  | urgent (stream arrival : Nat) (item : List Byte)
  | s1Sync
  | syncDone
  | taskDispatch (d : Die) (cls : Nat) (by_ : Starter)
  | taskComplete (d : Die) (t : Nat) (what : Ending)
  | readyListEntry (d : Die) (cls : Nat)
  | merit (d : Die) (e stall : Nat) (met : SelMet)
  | compact (d : Die) (e stall : Nat) (met : SelMet)
  | topk (d : Die) (e stall : Nat) (met : SelMet)
  | keyins (d : Die) (e stall : Nat) (met : SelMet)
  | swGo (d : Die) (e : Nat)
  | ihaulGo (d : Die) (c : Nat)
  | sweepStep (d : Die) (p t : Nat) (met : StepMet)
  /-- `corrupt`: 4 * engine + first canary whose result came out wrong -/
  | canarySlotEnd (d : Die) (corrupt : List Nat) (met : CanaryMet)
  | testSliceStart (d : Die) (cls unit t : Nat)
  | testSliceEnd (d : Die) (cls unit t : Nat) (passed : Bool)
  | latent (d : Die) (cls unit ageMs : Nat)
  | testOverdue (t : Nat) (d : Die) (cls unit : Nat)
  | issueVerdict (met : CheckMet)
  | verdictLate (t : Nat)
  | safeReq (t : Nat)
  | lockstep (t : Nat)
  | depClock (t : Nat) (ppm : Int)
  | depVolt (t mV : Nat)
  | overtemp (t s0 s1 h : Nat)
  | depclkLost (t : Nat)
  | thermN (s0 s1 h : Nat)
  | status (seq : Byte) (arg crc : BitVec 16)
  | verdict (seq : Byte) (arg crc : BitVec 16)
  | verdictAt (seq : Byte) (arg crc : BitVec 16)
  | release (seq : Byte) (arg : BitVec 16) (f : ReleaseEnd)
  | safe (t : Nat) (seq : Byte) (arg crc : BitVec 16)
  | echo (seq : Byte) (arg crc : BitVec 16)
  | spiAbandon
  | doorbell (ch : Nat) (lo : Word)
  | chainStart (ch : Nat)
  | descriptorStart (ch : Nat) (desc sg : List Byte)
  | descriptorComplete (ch : Nat) (x : Moved)
  | flushReadReturn (ch t : Nat)
  | cplTimeout (ch : Nat)
  /-- `kind`: 0 good, 1 EP = 1, 2 UR, 3 CA -/
  | hostReadCompletion (ch kind : Nat)
  | poisonRx
  | ringRecord (ch : Nat)
  | chPause (ch : Nat)
  | chResume (ch : Nat)
  | chStop (ch : Nat)
  | chCringSize (ch : Nat) (v : Word)
  | winBase (hi : Bool) (v : Word)
  | bar2Read (ofs len : Nat) (met : ReadMet)
  | bar2Write (ofs : Nat) (w : WinWrite)
  | registerWrite (ofs size be : Nat) (lo hi : Word)
  | clearOnRead (ofs : Nat)
  | captureRead (ofs size be : Nat)
  | shWrite (ofs : Nat) (v : Word)
  | setAlias (ofs : Nat) (v : Word)
  | clearAlias (ofs : Nat) (v : Word)
  | toggleAlias (ofs : Nat) (v : Word)
  | bitWindowWrite (addr : Nat) (v : Word)
  | bitWindowRead (addr : Nat)
  | aliasMode (v : Word)
  | bitwinBase (v : Word)
  | lock (ofs : Nat) (v : Word)
  | parityScan (pass : ScanPass)
  | laneFail (port lane : Nat)
  | train (port node digest wire : Nat)
  | flit (port : Nat) (f : FlitIn)
  | ack (port n : Nat)
  | nak (port n : Nat)
  | credit (port vc n : Nat)
  | snapReq (t tick : Nat)
  | barrierBlock (port : Nat) (gather epoch : Bool)
  | stopSymbol (t port seq : Nat)
  | resetSymbol (t port seq : Nat)
  | barrier
  | bcast
  | snap
  | stopFlood (t : Nat)
  | resetFlood (t : Nat)
  | put (src tag addr : Nat) (w : PutArg)
  | get (src tag addr len : Nat) (met : ReadMet)
  | atomicAdd (src tag addr : Nat) (v : AtomicArg)
  | atomicMax (src tag addr : Nat) (v : AtomicArg)
  | atomicSwap (src tag addr : Nat) (v : AtomicArg)
  | atomicCas (src tag addr : Nat) (c : DWord) (v : AtomicArg)
  | signal (src tag addr counter : Nat) (w : PutArg)
  | fence (issuer : Nat)
  | response (tag status : Nat) (data : List Byte)
  | broadcast (src addr : Nat) (data : BcastData)
  | xcutFlitFail (hub : Bool) (d : Die) (retries : Nat)
  | refclkLost
  | klrefLost
  | arithPllUnlock (d : Die)
  | fabricPllUnlock
  | pllRelock (n : Nat)
  | rail (n : Nat)
  | sramScrub (d : Die) (ofs err ms : Nat)
  | dramScrub (d : Die) (addr err : Nat) (passEnd : Bool)
  | refresh (d : Die) (derate : Bool) (ns : Nat)
  | initDone (to_ : InitFront)
  | push
  | pushFlash
  | flashProgrammed (ok : Bool)
  | attest
  | attestDone
  | provision (cmd : Word)
  | revoke (cmd : Word)
  | raiseSvn (cmd : Word)
  | raiseFwSvn (cmd : Word)
  | otpDone (ok : Bool)
  | bistGo (cmd : Word)
  | bistDone (t ms macros : Nat) (fails : List BistFail)
  | load
  | imageCommit (us : Nat) (met : LoadStep)
  | tallyProgram
  | sectorErase
  | token
  | powerLoss (t : Nat)
  /-- `ue`: the slot read meets an uncorrectable error -/
  | rdSeq (lo : Word) (ue : Bool)
  | dump
  | dumpDone
  | smbId
  | smbState
  | smbTemp
  | smbRails
  | smbTallyHead
  | smbAra
  | idcode
  | bypass (b : Bool)
  | haltNRise
  | perstNFall
  | saveDone
  | restoreDone (ue : Bool)
  | unlistedCode (t : Nat)
  | badCmd (cmd seq : Byte) (arg crc : BitVec 16)
  | malformed (stream arrival : Nat) (item : List Byte)
  | markerSend (t : Nat)
  | railWithinTolerance (n : Nat)
  deriving DecidableEq, Repr

end Sys2Proof
end

