-- ==== Sys2Proof/Decode.lean ====
section
/-! DEFINITION. The commands a table word spells. The rows of spec/opcode_table.json give no bits, so no word spells
one: the commands come from the block's interfaces, not from an encoding. -/

namespace Sys2Proof

/-- The command that the low `nbits` bits of a table word spell: none, as no row of the table has bits. -/
def decodeTableWord (_nbits _w : Nat) : Option Instr := none

end Sys2Proof
end

