-- ==== Sys2Proof/Config.lean ====
section
/-! DEFINITION. Free values: constants without a body for what the spec leaves open. Nothing in Lean can evaluate one,
so a statement about it holds for every value it could take. Each names its entry of the assumption log. -/

namespace Sys2Proof.Config

/-- The 32-bit value an open result takes at the count `n` of State.free (notes/assumptions/3.md): the undefined data
of R345, the words left undefined by R351 and R380, a BIST signature that a failing partition shows. -/
opaque freeWord (n : Nat) : Word

/-- Sign and payload of the NaN an arithmetic operation produces (notes/assumptions/31.md). -/
opaque nanBits : Word

/-- Fraction bits of the E5M2 NaN a conversion produces (notes/assumptions/31.md). -/
opaque nanBits8 : Byte

/-- The integer that a NaN converts to (R116, R163, R170 state none; notes/assumptions/31.md). -/
opaque nanInteger : Word

/-- The value of an INPUT feature whose record is absent and for which R177 states none: the ego state (source 0), a
route point (1), a sample of the plan history (2); by the feature's index in its record (notes/assumptions/43.md). -/
opaque absentFeature (src i : Nat) : Word

/-- The private exponent of the identity key, which never leaves the device (R554; notes/assumptions/33.md). -/
opaque identityExponent : Nat

/-- The salt of the signature of a report's bytes (R310, R554; notes/assumptions/33.md). -/
opaque attestSalt (message : List Byte) : List Byte

/-- The device's identity modulus and production certificate, 384 octets each (R552; notes/assumptions/33.md). -/
opaque identityModulus : List Byte

/-- The production certificate (R552; notes/assumptions/33.md). -/
opaque certificate : List Byte

/-- The instance's MISR when a logic partition of the class fails LBIST, by class and instance
(R544; notes/assumptions/34.md). -/
opaque failSignature (cls inst : Nat) : Word

/-- Installed DRAM of the die with the number `d` in MiB, as the board fits it (00_scope, R358;
notes/assumptions/8.md). -/
opaque installedMib (d : Nat) : Nat

/-- What offset 0xD400 of a collision engine's local memory holds for the image with a digest: R200 names its contents and
gives no layout (notes/assumptions/114.md). -/
opaque engineConstants (digest : List Byte) : List Byte

end Sys2Proof.Config
end

