-- ==== Sys2Proof/Machine/FloatTypes.lean ====
section
/-! DEFINITION. The floating-point arithmetic of the policy array and its vector unit (R161, R163, R169, R172):
IEEE 754 binary32, BF16, E4M3 and E5M2 as bit patterns, with every rounding to nearest, ties to even. Values
are held as bit patterns; arithmetic is done on exact dyadic numbers and rounded once. The payload of a NaN
that an operation produces is the quiet NaN 0x7FC0_0000 (notes/assumptions/31.md). -/

namespace Sys2Proof.Machine

/-- A decoded value: a NaN, an infinity of a sign, or a finite value (-1)^sign * mant * 2^exp. -/
inductive FVal where
  | nan
  | inf (neg : Bool)
  | fin (neg : Bool) (mant : Nat) (exp : Int)
  deriving DecidableEq, Repr, Inhabited

/-- A binary32 bit pattern. -/
abbrev F32 := Word

/-- The NaN an operation produces: quiet, its sign and its remaining payload bits free (notes/assumptions/31.md). -/
def f32NaN : F32 := 0x7FC00000#32 ||| (Config.nanBits &&& 0x803FFFFF#32)

/-- The value of a binary32 pattern. -/
def f32Val (w : F32) : FVal :=
  let neg := w.getLsbD 31
  let e := bits w 30 23
  let f := bits w 22 0
  if e = 255 then (if f = 0 then .inf neg else .nan)
  else if e = 0 then .fin neg f (-149)
  else .fin neg (f + 2 ^ 23) ((e : Int) - 150)

/-- Round `mant` shifted right by `k` to nearest, ties to even; `sticky` says that lower bits were lost. -/
def roundShift (mant k : Nat) (sticky : Bool) : Nat :=
  let q := mant / 2 ^ k
  let r := mant % 2 ^ k
  if k = 0 then q
  else
    let half := 2 ^ (k - 1)
    if half < r ∨ (r = half ∧ (sticky ∨ q % 2 = 1)) then q + 1 else q

/-- The number of significant bits of `n`. -/
def nbits (n : Nat) : Nat := if n = 0 then 0 else Nat.log2 n + 1

/-- A float format: significand bits with the hidden one, the exponent of the least subnormal bit, the exponent
of the greatest finite value's least bit. -/
structure FFormat where
  prec : Nat
  emin : Int
  emax : Int
  deriving DecidableEq, Repr, Inhabited

/-- A finite value rounded into a format: the significand and the exponent of its least bit, or none when
the result lies beyond the greatest finite value. -/
def roundTo (f : FFormat) (mant : Nat) (exp : Int) (sticky : Bool) : Option (Nat × Int) :=
  if mant = 0 then some (0, f.emin)
  else
    let e := max f.emin (exp + nbits mant - f.prec)
    let m := if e ≤ exp then mant * 2 ^ (exp - e).toNat else roundShift mant (e - exp).toNat sticky
    let (m, e) := if m = 2 ^ f.prec then (2 ^ (f.prec - 1), e + 1) else (m, e)
    if f.emax < e then none else some (m, e)

/-- The format of binary32. -/
def fmt32 : FFormat := ⟨24, -149, 104⟩

/-- A signed dyadic value rounded to binary32 (rne32 of R165). -/
def f32Of (neg : Bool) (mant : Nat) (exp : Int) (sticky : Bool := false) : F32 :=
  let sg := bnat neg * 2 ^ 31
  match roundTo fmt32 mant exp sticky with
  | none => BitVec.ofNat 32 (sg + 255 * 2 ^ 23)
  | some (m, e) =>
    if m < 2 ^ 23 then BitVec.ofNat 32 (sg + m)
    else BitVec.ofNat 32 (sg + (e + 150).toNat * 2 ^ 23 + (m - 2 ^ 23))

/-- The pattern of an infinity. -/
def f32Inf (neg : Bool) : F32 := BitVec.ofNat 32 (bnat neg * 2 ^ 31 + 255 * 2 ^ 23)

/-- A decoded value as a binary32 pattern, rounded. -/
def f32OfVal : FVal → F32
  | .nan => f32NaN
  | .inf n => f32Inf n
  | .fin n m e => f32Of n m e

/-- The signed dyadic sum of two finite values: a signed mantissa and an exponent. -/
def dyadicAdd (n1 : Bool) (m1 : Nat) (e1 : Int) (n2 : Bool) (m2 : Nat) (e2 : Int) : Int × Int :=
  let e := min e1 e2
  let a : Int := m1 * 2 ^ (e1 - e).toNat
  let b : Int := m2 * 2 ^ (e2 - e).toNat
  ((if n1 then -a else a) + (if n2 then -b else b), e)

/-- Addition in binary32, rounded once. -/
def f32Add (x y : F32) : F32 :=
  match f32Val x, f32Val y with
  | .nan, _ => f32NaN
  | _, .nan => f32NaN
  | .inf a, .inf b => if a = b then f32Inf a else f32NaN
  | .inf a, _ => f32Inf a
  | _, .inf b => f32Inf b
  | .fin n1 m1 e1, .fin n2 m2 e2 =>
    let s := dyadicAdd n1 m1 e1 n2 m2 e2
    if s.1 = 0 then (if n1 && n2 then 0x80000000#32 else 0#32)
    else f32Of (decide (s.1 < 0)) s.1.natAbs s.2

/-- The negation of a pattern. -/
def f32Neg (x : F32) : F32 := x ^^^ 0x80000000#32

/-- Subtraction in binary32. -/
def f32Sub (x y : F32) : F32 := if f32Val y = .nan then f32NaN else f32Add x (f32Neg y)

/-- The exact product of two values. -/
def valMul (x y : FVal) : FVal :=
  match x, y with
  | .nan, _ => .nan
  | _, .nan => .nan
  | .inf a, .inf b => .inf (a != b)
  | .inf a, .fin n m _ => if m = 0 then .nan else .inf (a != n)
  | .fin n m _, .inf a => if m = 0 then .nan else .inf (a != n)
  | .fin n1 m1 e1, .fin n2 m2 e2 => .fin (n1 != n2) (m1 * m2) (e1 + e2)

/-- Multiplication in binary32, rounded once. -/
def f32Mul (x y : F32) : F32 := f32OfVal (valMul (f32Val x) (f32Val y))

/-- Division in binary32, correctly rounded (R172). -/
def f32Div (x y : F32) : F32 :=
  match f32Val x, f32Val y with
  | .nan, _ => f32NaN
  | _, .nan => f32NaN
  | .inf _, .inf _ => f32NaN
  | .inf a, .fin n _ _ => f32Inf (a != n)
  | .fin n _ _, .inf a => f32Of (n != a) 0 0
  | .fin n1 m1 e1, .fin n2 m2 e2 =>
    if m2 = 0 then (if m1 = 0 then f32NaN else f32Inf (n1 != n2))
    else
      let num := m1 * 2 ^ 64
      let q := num / m2
      f32Of (n1 != n2) (2 * q + bnat (decide (num % m2 ≠ 0))) (e1 - e2 - 65) (decide (num % m2 ≠ 0))

/-- The reciprocal square root in binary32, correctly rounded (R172). -/
def f32Rsqrt (x : F32) : F32 :=
  match f32Val x with
  | .nan => f32NaN
  | .inf true => f32NaN
  | .inf false => 0#32
  | .fin neg m e =>
    if m = 0 then f32Inf neg
    else if neg then f32NaN
    else
      -- 1 / sqrt(m * 2^e) = sqrt(2^120 / m) * 2^(-60 - e/2), with e made even
      let e2 := e % 2
      let m2 := m * 2 ^ e2.toNat
      let num := 2 ^ 120
      let q := num / m2
      let r := isqrt q
      let sticky := decide (r * r * m2 ≠ num)
      f32Of false (2 * r + bnat sticky) (-61 - (e - e2) / 2) sticky

/-- The value -1, 0 or 1 by which x compares with y, both finite or infinite. -/
def f32Lt (x y : F32) : Bool :=
  match f32Val x, f32Val y with
  | .nan, _ => false
  | _, .nan => false
  | .inf a, .inf b => a && !b
  | .inf a, .fin _ _ _ => a
  | .fin _ _ _, .inf b => !b
  | .fin n1 m1 e1, .fin n2 m2 e2 => decide ((dyadicAdd n1 m1 e1 (!n2) m2 e2).1 < 0)

/-- Whether a pattern is a NaN. -/
def f32IsNaN (x : F32) : Bool := decide (f32Val x = .nan)

/-- The greater of two values, with NaN winning and +0.0 above -0.0 (R169). -/
def f32Max (x y : F32) : F32 :=
  if f32IsNaN x then x else if f32IsNaN y then y
  else if f32Lt x y then y
  else if f32Lt y x then x
  else if x.getLsbD 31 then y else x

/-- An integer converted to binary32, ties to even (R170). -/
def f32OfInt (v : Int) : F32 := f32Of (decide (v < 0)) v.natAbs 0

/-- A binary32 value rounded to the nearest integer, ties to even; infinities give none. -/
def f32ToInt (x : F32) : Option Int :=
  match f32Val x with
  | .fin n m e =>
    let a := if 0 ≤ e then m * 2 ^ e.toNat else roundShift m (-e).toNat false
    some (if n then -(a : Int) else a)
  | _ => none

/-- The floor of a finite binary32 value. -/
def f32Floor (x : F32) : Int :=
  match f32Val x with
  | .fin n m e =>
    let s : Int := if n then -(m : Int) else m
    if 0 ≤ e then s * 2 ^ e.toNat else s / 2 ^ (-e).toNat
  | _ => 0

/-- A binary32 value scaled by a power of two, exactly or rounded once. -/
def f32Scale (x : F32) (k : Int) : F32 :=
  match f32Val x with
  | .fin n m e => f32Of n m (e + k)
  | v => f32OfVal v

/-- Rounding to an 8-bit integer with saturation (R170); a NaN has no stated value and gives none. -/
def f32ToInt8 (x : F32) : Option Int :=
  match f32Val x with
  | .nan => none
  | .inf n => some (if n then -128 else 127)
  | .fin _ _ _ => (f32ToInt x).map fun v => clampInt v (-128) 127

/-! ### The narrow formats (R161, R163) -/

/-- The value of a BF16 pattern: the upper half of a binary32. -/
def bf16Val (b : BitVec 16) : FVal := f32Val (BitVec.ofNat 32 (b.toNat * 65536))

/-- Conversion to BF16 (R163): the significand rounded to 8 bits with the exponent range of binary32. -/
def bf16Of (x : F32) : BitVec 16 :=
  let sg := bnat (x.getLsbD 31) * 32768
  match f32Val x with
  | .nan => BitVec.ofNat 16 (sg + 0x7FC0) ||| ((Config.nanBits >>> 16).setWidth 16 &&& 0x003F#16)
  | .inf _ => BitVec.ofNat 16 (sg + 0x7F80)
  | .fin _ m e =>
    match roundTo ⟨8, -133, 120⟩ m e false with
    | none => BitVec.ofNat 16 (sg + 0x7F80)
    | some (m, e) => if m < 128 then BitVec.ofNat 16 (sg + m)
                     else BitVec.ofNat 16 (sg + (e + 134).toNat * 128 + (m - 128))

/-- The value of an E4M3 pattern (OFP8): bias 7, no infinity, NaN at 0x7F and 0xFF. -/
def e4m3Val (b : Byte) : FVal :=
  let n := b.getLsbD 7
  let e := b.toNat / 8 % 16
  let f := b.toNat % 8
  if e = 15 ∧ f = 7 then .nan
  else if e = 0 then .fin n f (-9)
  else .fin n (f + 8) ((e : Int) - 10)

/-- The value of an E5M2 pattern (OFP8): bias 15, IEEE infinities and NaNs. -/
def e5m2Val (b : Byte) : FVal :=
  let n := b.getLsbD 7
  let e := b.toNat / 4 % 32
  let f := b.toNat % 4
  if e = 31 then (if f = 0 then .inf n else .nan)
  else if e = 0 then .fin n f (-16)
  else .fin n (f + 4) ((e : Int) - 17)

/-- Conversion to E4M3 (R163): saturation at 448, a NaN to the NaN of its sign. -/
def e4m3Of (x : F32) : Byte :=
  let sg := bnat (x.getLsbD 31) * 128
  match f32Val x with
  | .nan => BitVec.ofNat 8 (sg + 0x7F)
  | .inf _ => BitVec.ofNat 8 (sg + 0x7E)
  | .fin _ m e =>
    match roundTo ⟨4, -9, 5⟩ m e false with
    | none => BitVec.ofNat 8 (sg + 0x7E)
    | some (m, e) =>
      if m < 8 then BitVec.ofNat 8 (sg + m)
      else if e = 5 ∧ m = 15 then BitVec.ofNat 8 (sg + 0x7E)
      else BitVec.ofNat 8 (sg + (e + 10).toNat * 8 + (m - 8))

/-- Conversion to E5M2 (R163): saturation at 57,344, a NaN to the NaN of its sign. -/
def e5m2Of (x : F32) : Byte :=
  let sg := bnat (x.getLsbD 31) * 128
  match f32Val x with
  | .nan => BitVec.ofNat 8 (sg + 0x7D + Config.nanBits8.toNat % 3)
  | .inf _ => BitVec.ofNat 8 (sg + 0x7B)
  | .fin _ m e =>
    match roundTo ⟨3, -16, 13⟩ m e false with
    | none => BitVec.ofNat 8 (sg + 0x7B)
    | some (m, e) => if m < 4 then BitVec.ofNat 8 (sg + m)
                     else BitVec.ofNat 8 (sg + (e + 17).toNat * 4 + (m - 4))

/-! ### Sums (R165, R169) -/

/-- The exact sum of finite values as a signed mantissa and an exponent. -/
def exactSum : List FVal → Int × Int
  | [] => (0, 0)
  | .fin n m e :: vs =>
    let s := exactSum vs
    let x := min e s.2
    ((if n then -(m : Int) else m) * 2 ^ (e - x).toNat + s.1 * 2 ^ (s.2 - x).toNat, x)
  | _ :: vs => exactSum vs

/-- rne32 of the exact sum of a list of products (R165): NaN and infinities as IEEE 754 adds them. -/
def f32Sum (vs : List FVal) : F32 :=
  let hasNaN := vs.any fun v => v == .nan
  let pInf := vs.any fun v => v == .inf false
  let nInf := vs.any fun v => v == .inf true
  if hasNaN || (pInf && nInf) then f32NaN
  else if pInf then f32Inf false
  else if nInf then f32Inf true
  else
    let s := exactSum vs
    f32Of (decide (s.1 < 0)) s.1.natAbs s.2

/-- One level of the reduction tree: the second half of `w` added to the first. -/
def foldHalf (op : F32 → F32 → F32) (w : List F32) (width : Nat) : List F32 :=
  (w.take width).zipWith op ((w.drop width).take width)

/-- One chunk of 256 lanes reduced by the tree of R169. -/
def reduceChunk (op : F32 → F32 → F32) (pad : F32) (w : List F32) : F32 :=
  let w := (w ++ List.replicate (256 - w.length) pad).take 256
  ([128, 64, 32, 16, 8, 4, 2, 1].foldl (foldHalf op) w).headD pad

/-- Lists of 256 lanes. -/
def laneChunks : Nat → List F32 → List (List F32)
  | 0, _ => []
  | n + 1, v => if v.isEmpty then [] else v.take 256 :: laneChunks n (v.drop 256)

/-- The sum vsum of R169. -/
def vsum (v : List F32) : F32 :=
  (laneChunks (v.length / 256 + 1) v).foldl (fun t c => f32Add t (reduceChunk f32Add 0#32 c)) 0#32

/-- The row maximum of R169, in the same chunks and tree. -/
def vmax (v : List F32) : F32 :=
  (laneChunks (v.length / 256 + 1) v).foldl (fun t c => f32Max t (reduceChunk f32Max (f32Inf true) c)) (f32Inf true)

end Sys2Proof.Machine
end

