-- ==== Sys2Proof/Machine/Lut.lean ====
section
/-! DEFINITION. The tables of the vector unit (R171, R172): each point is the FP32 value nearest to the exact function. The
function is computed in fixed point with 320 bits after the point; where its value is no dyadic number the error stays far
below the distance to the nearest rounding boundary (DEDUCED, notes/assumptions/32.md). -/

namespace Sys2Proof.Machine
open Sys2Proof

/-- 1 in fixed point. -/
def fxOne : Int := 2 ^ 320

/-- A product in fixed point. -/
def fxMul (a b : Int) : Int := a * b / fxOne

/-- A quotient in fixed point. -/
def fxDiv (a b : Int) : Int := a * fxOne / b

/-- The square root of a number that is not negative. -/
def fxSqrt (a : Int) : Int := (Nat.sqrt (a.toNat * 2 ^ 320) : Nat)

/-- The sum of the terms from `term`, each `step n` of the one before it. -/
def fxSeries (step : Nat → Int → Int) (part : Nat → Int → Int) : Nat → Nat → Int → Int → Int
  | 0, _, _, acc => acc
  | k + 1, n, term, acc => fxSeries step part k (n + 1) (step (n + 1) term) (acc + part n term)

/-- A number squared `k` times. -/
def fxSquares : Nat → Int → Int
  | 0, x => x
  | k + 1, x => fxSquares k (fxMul x x)

/-- The exponential of a number of at most 16 in size: that of its 256th part, squared 8 times. -/
def fxExp (x : Int) : Int :=
  fxSquares 8 (fxSeries (fun n t => fxMul t (x / 256) / n) (fun _ t => t) 64 0 fxOne 0)

/-- The arc tangent of 1/k. -/
def fxAtanInv (k : Int) : Int :=
  fxSeries (fun _ t => -(t / (k * k))) (fun n t => t / (2 * (n : Int) + 1)) 160 0 (fxOne / k) 0

/-- Pi, by Machin's formula. -/
def fxPi : Int := 16 * fxAtanInv 5 - 4 * fxAtanInv 239

/-- The normal distribution function, whose product with x is the erf form of GELU. -/
def fxPhi (x : Int) : Int :=
  let s := fxSeries (fun n t => -(fxMul t (fxMul x x) / (2 * (n : Int)))) (fun n t => t / (2 * (n : Int) + 1)) 400 0 x 0
  fxOne / 2 + fxDiv s (fxSqrt (2 * fxPi))

/-- A square root taken `k` times. -/
def fxRoots : Nat → Int → Int
  | 0, x => x
  | k + 1, x => fxRoots k (fxSqrt x)

/-- The exact function of table `f` (0 GELU, 1 SiLU, 2 tanh, 3 sigmoid; 4 the power of 2) at its point `i`. -/
def fxPoint (f i : Nat) : Int :=
  let u := ((i : Int) - 512) * (fxOne / 64)
  let sig := fun (x : Int) => let e := fxExp x; fxDiv e (fxOne + e)
  match f with
  | 0 => fxMul u (fxPhi u)
  | 1 => fxMul u (sig u)
  | 2 => let e := fxExp (2 * u); fxDiv (e - fxOne) (e + fxOne)
  | 3 => sig u
  | _ => fxRoots 10 (2 ^ i * fxOne)

/-- Point `i` of the table of function `f`, rounded to nearest with ties to even (R171, R172). -/
def lutPoint (f i : Nat) : F32 :=
  let v := fxPoint f i
  f32OfVal (.fin (decide (v < 0)) v.natAbs (-320))

end Sys2Proof.Machine
end

