-- ==== Sys2Proof/Machine/Crypto.lean ====
section
/-! DEFINITION. The codes and hashes the spec names by their standards: CRC-32 of IEEE 802.3 (R293), CRC-16 with
polynomial 0x1021 (R494), SHA-256, and RSASSA-PSS verification with MGF1 of RFC 8017 (R310). PRESUMED: the
spec names the standards and does not restate them (notes/assumptions/12.md). -/

namespace Sys2Proof.Machine

/-- One bit of the reflected CRC-32 (R293). -/
def crc32Bit (c : Word) : Word := if c.getLsbD 0 then (c >>> 1) ^^^ 0xEDB88320#32 else c >>> 1

/-- One byte of the CRC-32. -/
def crc32Byte (c : Word) (b : Byte) : Word :=
  let c := c ^^^ b.setWidth 32
  crc32Bit (crc32Bit (crc32Bit (crc32Bit (crc32Bit (crc32Bit (crc32Bit (crc32Bit c)))))))

/-- The CRC-32 of R293. -/
def crc32 (bs : List Byte) : Word := (bs.foldl crc32Byte 0xFFFFFFFF#32) ^^^ 0xFFFFFFFF#32

/-- One bit of the CRC-16 with polynomial 0x1021, most significant bit first. -/
def crc16Bit (c : BitVec 16) : BitVec 16 := if c.getLsbD 15 then (c <<< 1) ^^^ 0x1021#16 else c <<< 1

/-- One byte of the CRC-16. -/
def crc16Byte (c : BitVec 16) (b : Byte) : BitVec 16 :=
  let c := c ^^^ ((b.setWidth 16) <<< 8)
  crc16Bit (crc16Bit (crc16Bit (crc16Bit (crc16Bit (crc16Bit (crc16Bit (crc16Bit c)))))))

/-- The CRC-16 of a byte string from an initial value. -/
def crc16 (init : BitVec 16) (bs : List Byte) : BitVec 16 := bs.foldl crc16Byte init

/-! ### SHA-256 -/

/-- The first 32 constants of SHA-256. -/
def shaK0 : List Word :=
  [0x428a2f98#32, 0x71374491#32, 0xb5c0fbcf#32, 0xe9b5dba5#32, 0x3956c25b#32, 0x59f111f1#32, 0x923f82a4#32,
   0xab1c5ed5#32, 0xd807aa98#32, 0x12835b01#32, 0x243185be#32, 0x550c7dc3#32, 0x72be5d74#32, 0x80deb1fe#32,
   0x9bdc06a7#32, 0xc19bf174#32, 0xe49b69c1#32, 0xefbe4786#32, 0x0fc19dc6#32, 0x240ca1cc#32, 0x2de92c6f#32,
   0x4a7484aa#32, 0x5cb0a9dc#32, 0x76f988da#32, 0x983e5152#32, 0xa831c66d#32, 0xb00327c8#32, 0xbf597fc7#32,
   0xc6e00bf3#32, 0xd5a79147#32, 0x06ca6351#32, 0x14292967#32]

/-- The last 32 constants of SHA-256. -/
def shaK1 : List Word :=
  [0x27b70a85#32, 0x2e1b2138#32, 0x4d2c6dfc#32, 0x53380d13#32, 0x650a7354#32, 0x766a0abb#32, 0x81c2c92e#32,
   0x92722c85#32, 0xa2bfe8a1#32, 0xa81a664b#32, 0xc24b8b70#32, 0xc76c51a3#32, 0xd192e819#32, 0xd6990624#32,
   0xf40e3585#32, 0x106aa070#32, 0x19a4c116#32, 0x1e376c08#32, 0x2748774c#32, 0x34b0bcb5#32, 0x391c0cb3#32,
   0x4ed8aa4a#32, 0x5b9cca4f#32, 0x682e6ff3#32, 0x748f82ee#32, 0x78a5636f#32, 0x84c87814#32, 0x8cc70208#32,
   0x90befffa#32, 0xa4506ceb#32, 0xbef9a3f7#32, 0xc67178f2#32]

/-- The working variables a to h of SHA-256. -/
structure ShaState where
  a : Word
  b : Word
  c : Word
  d : Word
  e : Word
  f : Word
  g : Word
  h : Word
  deriving DecidableEq, Repr, Inhabited

/-- The initial hash value of SHA-256. -/
def shaInit : ShaState :=
  ⟨0x6a09e667#32, 0xbb67ae85#32, 0x3c6ef372#32, 0xa54ff53a#32, 0x510e527f#32, 0x9b05688c#32, 0x1f83d9ab#32,
   0x5be0cd19#32⟩

/-- One round of SHA-256 with constant `k` and schedule word `w`. -/
def shaRound (s : ShaState) (k w : Word) : ShaState :=
  let s1 := s.e.rotateRight 6 ^^^ s.e.rotateRight 11 ^^^ s.e.rotateRight 25
  let ch := (s.e &&& s.f) ^^^ (~~~s.e &&& s.g)
  let t1 := s.h + s1 + ch + k + w
  let s0 := s.a.rotateRight 2 ^^^ s.a.rotateRight 13 ^^^ s.a.rotateRight 22
  let mj := (s.a &&& s.b) ^^^ (s.a &&& s.c) ^^^ (s.b &&& s.c)
  ⟨t1 + s0 + mj, s.a, s.b, s.c, s.d + t1, s.e, s.f, s.g⟩

/-- The next schedule word from the last 16, newest last. -/
def shaNextWord (ws : List Word) : Word :=
  let w15 := ws.getD 1 0
  let w2 := ws.getD 14 0
  let s0 := w15.rotateRight 7 ^^^ w15.rotateRight 18 ^^^ (w15 >>> 3)
  let s1 := w2.rotateRight 17 ^^^ w2.rotateRight 19 ^^^ (w2 >>> 10)
  ws.getD 0 0 + s0 + ws.getD 9 0 + s1

/-- The rounds of a block: `ws` holds the 16 schedule words in use. -/
def shaRounds : List Word → List Word → ShaState → ShaState
  | [], _, s => s
  | k :: ks, ws, s => shaRounds ks (ws.drop 1 ++ [shaNextWord ws]) (shaRound s k (ws.getD 0 0))

/-- One 64-byte block of SHA-256. -/
def shaBlock (s : ShaState) (block : List Byte) : ShaState :=
  let ws := (chunksOf 4 16 block).map fun c => BitVec.ofNat 32 (ofBe c)
  let r := shaRounds (shaK0 ++ shaK1) ws s
  ⟨s.a + r.a, s.b + r.b, s.c + r.c, s.d + r.d, s.e + r.e, s.f + r.f, s.g + r.g, s.h + r.h⟩

/-- The padded message of SHA-256. -/
def shaPad (bs : List Byte) : List Byte :=
  let n := bs.length
  bs ++ [0x80] ++ List.replicate ((119 - n % 64) % 64) 0 ++ beBytes 8 (8 * n)

/-- SHA-256 of a byte string: 32 bytes. -/
def sha256 (bs : List Byte) : List Byte :=
  let p := shaPad bs
  let s := (chunksOf 64 (p.length / 64) p).foldl shaBlock shaInit
  [s.a, s.b, s.c, s.d, s.e, s.f, s.g, s.h].flatMap fun w => beBytes 4 w.toNat

/-! ### RSASSA-PSS verification (R310) -/

/-- Modular exponentiation by 65537: sixteen squarings and one product. -/
def powF4 (m n : Nat) : Nat :=
  let sq := fun x => x * x % n
  let x16 := (List.range 16).foldl (fun x _ => sq x) (m % n)
  x16 * m % n

/-- MGF1 with SHA-256: `blocks` blocks of mask. -/
def mgf1 (seed : List Byte) (blocks : Nat) : List Byte :=
  (List.range blocks).flatMap fun i => sha256 (seed ++ beBytes 4 i)

/-- Bytewise exclusive or. -/
def xorBytes (a b : List Byte) : List Byte := (a.zip b).map fun p => p.1 ^^^ p.2

/-- The number of significant bits of a value below 2^3072, counted by halving. -/
def bitLen : Nat → Nat → Nat
  | 0, _ => 0
  | f + 1, n => if n = 0 then 0 else bitLen f (n / 2) + 1

/-- EMSA-PSS verification of RFC 8017 for an encoded message of `emBits` bits: SHA-256, MGF1, salt of 32. -/
def pssVerify (mHash em : List Byte) (emBits : Nat) : Bool :=
  let emLen := em.length
  let dbLen := emLen - 33
  let maskedDb := em.take dbLen
  let h := (em.drop dbLen).take 32
  let top := 8 * emLen - emBits
  let db0 := xorBytes maskedDb (mgf1 h (ceilDiv dbLen 32))
  let clear := fun (b : Byte) => BitVec.ofNat 8 (b.toNat % 2 ^ (8 - top))
  let db := match db0 with
    | [] => []
    | b :: bs => clear b :: bs
  let topZero := match maskedDb with
    | [] => false
    | b :: _ => clear b == b
  let salt := db.drop (dbLen - 32)
  decide (66 ≤ emLen) && em.getLast? == some 0xBC && topZero &&
    allZero (db.take (dbLen - 33)) && (db.drop (dbLen - 33)).take 1 == [0x01] &&
    sha256 (List.replicate 8 0 ++ mHash ++ salt) == h

/-- EMSA-PSS encoding of RFC 8017 to `emBits` bits: SHA-256, MGF1, a salt of 32 bytes. -/
def pssEncode (mHash salt : List Byte) (emBits : Nat) : List Byte :=
  let emLen := ceilDiv emBits 8
  let h := sha256 (List.replicate 8 0 ++ mHash ++ salt)
  let db := List.replicate (emLen - 66) 0 ++ [0x01] ++ salt
  let masked := match xorBytes db (mgf1 h (ceilDiv (emLen - 33) 32)) with
    | [] => []
    | b :: bs => BitVec.ofNat 8 (b.toNat % 2 ^ (8 - (8 * emLen - emBits))) :: bs
  masked ++ h ++ [0xBC]

/-- Modular exponentiation by an exponent of at most `bits` bits. -/
def powMod (m n : Nat) : Nat → Nat → Nat
  | 0, _ => 1 % n
  | bits + 1, e =>
    let r := powMod m n bits (e / 2)
    if e % 2 = 1 then r * r % n * m % n else r * r % n

/-- RSASSA-PSS signature with the parameters of R310: 384 big-endian bytes. -/
def rsaSign (modulus : List Byte) (exponent : Nat) (salt message : List Byte) : List Byte :=
  let n := ofBe modulus
  beBytes 384 (powMod (ofBe (pssEncode (sha256 message) salt (bitLen 3072 n - 1))) n 3072 exponent)

/-- RSASSA-PSS verification of R310: exponent 65537, a modulus and a signature of 384 big-endian bytes. -/
def rsaVerify (modulus signature message : List Byte) : Bool :=
  let n := ofBe modulus
  let sg := ofBe signature
  let modBits := bitLen 3072 n
  let emBits := modBits - 1
  let emLen := ceilDiv emBits 8
  let m := powF4 sg n
  decide (1 < n) && decide (sg < n) && decide (m < 2 ^ (8 * emLen)) &&
    pssVerify (sha256 message) (beBytes emLen m) emBits

end Sys2Proof.Machine
end

