-- ==== Sys2Proof/Machine/WorldTypes.lean ====
section
/-! DEFINITION. The world a tick plans against as typed data (02_world.md): the ego state, route points, agent
records, the agent slice with its bins, and the world section of the image; each with the byte layout the
spec gives it. -/

namespace Sys2Proof.Machine

/-- The ego state of R100, with the stamp of its item. -/
structure EgoState where
  x       : Int
  y       : Int
  heading : Nat
  speed   : Nat
  acc     : Int
  curv    : Int
  artic   : Int
  /-- the time at which the state holds, device ns -/
  stamp   : Nat
  deriving DecidableEq, Repr, Inhabited

/-- A route point of R102. -/
structure RoutePoint where
  x         : Int
  y         : Int
  speed     : Nat
  halfWidth : Nat
  deriving DecidableEq, Repr, Inhabited

/-- An agent-mode record of R92. -/
structure AgentRec where
  x       : Int
  y       : Int
  heading : Nat
  hl      : Nat
  hw      : Nat
  prob    : Nat
  deriving DecidableEq, Repr, Inhabited

/-- The all-zero record: an absent mode carries probability 0 (R95). -/
def AgentRec.absent : AgentRec := ⟨0, 0, 0, 0, 0, 0⟩

/-- A present agent-mode of the live table: its index a * 4 + m and its records, one per sample (R90, R91). -/
structure AgentMode where
  idx  : Nat
  recs : List AgentRec
  deriving DecidableEq, Repr, Inhabited

/-- The ego payload of 64 bytes (R100), with the stamp of its item. -/
def decodeEgo (bs : List Byte) (stamp : Nat) : EgoState :=
  { x := fieldS bs 0 4, y := fieldS bs 4 4, heading := fieldU bs 8 2, speed := fieldU bs 10 2
    acc := fieldS bs 12 2, curv := fieldS bs 14 2, artic := fieldS bs 16 2, stamp := stamp }

/-- The bytes of an ego state as R100 lays them out. -/
def encodeEgo (e : EgoState) : List Byte :=
  padTo 64 (leBytesInt 4 e.x ++ leBytesInt 4 e.y ++ leBytes 2 e.heading ++ leBytes 2 e.speed ++
    leBytesInt 2 e.acc ++ leBytesInt 2 e.curv ++ leBytesInt 2 e.artic)

/-- A route point from its 16 bytes (R102). -/
def decodeRoutePoint (bs : List Byte) : RoutePoint :=
  { x := fieldS bs 0 4, y := fieldS bs 4 4, speed := fieldU bs 8 2, halfWidth := fieldU bs 10 2 }

/-- The 16 bytes of a route point (R102). -/
def encodeRoutePoint (p : RoutePoint) : List Byte :=
  padTo 16 (leBytesInt 4 p.x ++ leBytesInt 4 p.y ++ leBytes 2 p.speed ++ leBytes 2 p.halfWidth)

/-- An agent-mode record from its 16 bytes (R92). -/
def decodeAgentRec (bs : List Byte) : AgentRec :=
  { x := fieldS bs 0 4, y := fieldS bs 4 4, heading := fieldU bs 8 2, hl := fieldU bs 10 2
    hw := fieldU bs 12 2, prob := fieldU bs 14 2 }

/-- The 16 bytes of an agent-mode record (R92). -/
def encodeAgentRec (r : AgentRec) : List Byte :=
  leBytesInt 4 r.x ++ leBytesInt 4 r.y ++ leBytes 2 r.heading ++ leBytes 2 r.hl ++ leBytes 2 r.hw ++
    leBytes 2 r.prob

/-- A disc of the ego footprint (R202). -/
structure Disc where
  ox   : Int
  oy   : Int
  rad  : Nat
  /-- true: the disc lies on the trailer -/
  trailer : Bool
  deriving DecidableEq, Repr, Inhabited

/-- A box of the ego footprint (R202); box 0 lies on the tractor, box 1 on the trailer. -/
structure EgoBox where
  ox : Int
  oy : Int
  hl : Nat
  hw : Nat
  deriving DecidableEq, Repr, Inhabited

/-- The WORLD section of the image (R303). -/
structure WorldCfg where
  /-- the cell multiplier m: 1, 2, 4 or 8 (R64) -/
  m        : Nat
  ox       : Nat
  oy       : Nat
  reach    : Nat
  discs    : List Disc
  boxes    : List EgoBox
  /-- UNK_MODE = 1: an unknown sample adds to C_UNK and is not infeasible (R213) -/
  unkMode  : Bool
  /-- the size of the staging area in bytes (R89) -/
  stageBytes : Nat
  tileCap  : Nat
  agentCapBytes : Nat
  egoAgeLimit : Nat
  urgentCap : Nat
  deriving DecidableEq, Repr, Inhabited

/-- Tile coordinates and in-tile arithmetic of R66: the tile of a cell index. -/
def tileOf (c : Int) : Int := c / 64

/-- The tile slot of tile (tx, ty) in the slice (R73). -/
def tileSlot (tx ty : Int) : Nat := (tx % 8).toNat + 8 * (ty % 8).toNat

/-- The slice address of cell (ix, iy) (R73). -/
def sliceAddr (ix iy : Int) : Nat := (iy % 512).toNat * 512 + (ix % 512).toNat

/-- The slice origin that R72 computes from the ego position. -/
def sliceOrigin (w : WorldCfg) (e : EgoState) : Int × Int :=
  ((cellOf e.x w.m - w.ox) / 64, (cellOf e.y w.m - w.oy) / 64)

/-- A directory entry of R68 as its 64-bit value. -/
def encodeDirEntry (slot : Nat) (valid : Bool) : Nat := slot % 1048576 + bnat valid * 2147483648

/-- The slot of a directory entry (R68). -/
def dirSlot (v : Nat) : Nat := v % 1048576

/-- VALID of a directory entry (R68). -/
def dirValid (v : Nat) : Bool := (v / 2147483648) % 2 == 1

/-! ### Agent slices (R95 to R98) -/

/-- An agent slice: the records of one sample for all 1,024 agent-modes, the bin table and the list. -/
structure AgentSlice where
  recs     : List AgentRec
  ends     : List Nat
  overflow : List Bool
  list     : List Nat
  deriving DecidableEq, Repr, Inhabited

/-- The bins a record enters (R97), as bin indices by * 16 + bx in ascending order, each once. -/
def recordBins (w : WorldCfg) (sx0 sy0 : Int) (r : AgentRec) : List Nat :=
  let reach := (r.hl + r.hw) * 4 + w.reach
  let bq := 131072 * w.m
  let q : Int := min 15 (((reach * 10 + bq - 1) / bq : Nat) - 1 : Int)
  let cx := (cellOf r.x w.m - sx0) >>> 5
  let cy := (cellOf r.y w.m - sy0) >>> 5
  if cx < -(q + 1) ∨ cx > 16 + q ∨ cy < -(q + 1) ∨ cy > 16 + q then []
  else (List.range 256).filter fun (b : Nat) =>
    let bx : Int := ((b % 16 : Nat) : Int)
    let bY : Int := ((b / 16 : Nat) : Int)
    decide (clampInt (cx - q) 0 15 ≤ bx ∧ bx ≤ clampInt (cx + q) 0 15 ∧
            clampInt (cy - q) 0 15 ≤ bY ∧ bY ≤ clampInt (cy + q) 0 15)

/-- The bin table and the list built bin by bin in ascending order; `room` is the space left of 1,024 entries.
With more than 1,024 entries in all (`overfull`), the bin in which the list fills and every later bin with an entry
that was not placed carry OVERFLOW (R98). -/
def fillBins (entries : Nat → List Nat) (overfull : Bool) : List Nat → Nat → Nat → List Nat × List Bool × List Nat
  | [], _, _ => ([], [], [])
  | b :: bs, used, room =>
    let es := entries b
    let put := es.take room
    let flag := overfull && (if room = 0 then !es.isEmpty else decide (room ≤ es.length))
    let used' := used + put.length
    let (ends, ovf, lst) := fillBins entries overfull bs used' (room - put.length)
    (used' :: ends, flag :: ovf, put ++ lst)

/-- The agent slice of sample `t` (R95 to R98): `modes` is the live table in ascending agent-mode index. -/
def buildSlice (w : WorldCfg) (sx0 sy0 : Int) (modes : List AgentMode) (t : Nat) : AgentSlice :=
  let present := modes.filterMap fun m =>
    match m.recs[t]? with
    | some r => some (m.idx, r)
    | none => none
  let binned := (present.filter fun p => p.2.prob != 0).map fun p => (p.1, recordBins w sx0 sy0 p.2)
  let entries := fun b => (binned.filter fun p => p.2.contains b).map (·.1)
  let total := (binned.map fun p => p.2.length).foldl (· + ·) 0
  let (ends, ovf, lst) := fillBins entries (decide (1024 < total)) (List.range 256) 0 1024
  { recs := (List.range 1024).map fun i => ((present.find? fun p => p.1 == i).map (·.2)).getD AgentRec.absent
    ends := ends, overflow := ovf, list := lst }

/-- The bytes of an agent slice: 18,944 bytes in the layout of R95 and R96. -/
def encodeSlice (s : AgentSlice) : List Byte :=
  padTo 16384 (s.recs.flatMap encodeAgentRec) ++
  padTo 512 ((s.ends.zip s.overflow).flatMap fun p => leBytes 2 (p.1 + bnat p.2 * 32768)) ++
  padTo 2048 (s.list.flatMap (leBytes 2))

/-- An agent slice read back from its bytes (R95, R96). -/
def decodeSlice (bs : List Byte) : AgentSlice :=
  let bins := (chunksOf 2 256 ((bs.drop 0x4000).take 512)).map ofLe
  { recs := (chunksOf 16 1024 (bs.take 16384)).map decodeAgentRec
    ends := bins.map (· % 2048)
    overflow := bins.map fun v => v / 32768 % 2 == 1
    list := ((chunksOf 2 1024 ((bs.drop 0x4200).take 2048)).map fun p => ofLe p % 1024) }

/-- The list entries of bin `b` of a slice (R96): indices END(b - 1) to END(b) - 1. -/
def sliceBin (s : AgentSlice) (b : Nat) : List Nat :=
  let hi := s.ends.getD b 0
  let lo := if b = 0 then 0 else s.ends.getD (b - 1) 0
  (s.list.drop lo).take (hi - lo)

/-- The in-grid bins of the 3 x 3 neighbourhood of bin (bx, by), in ascending index (R99). -/
def neighbourBins (bx bY : Int) : List Nat :=
  (List.range 9).filterMap fun (k : Nat) =>
    let i : Int := bx + (((k % 3 : Nat) : Int) - 1)
    let j : Int := bY + (((k / 3 : Nat) : Int) - 1)
    if 0 ≤ i ∧ i ≤ 15 ∧ 0 ≤ j ∧ j ≤ 15 then some ((j * 16 + i).toNat) else none

/-- DENSE of R99: the neighbourhood holds more than 32 entries or one of its bins overflowed. -/
def sliceDense (s : AgentSlice) (bx bY : Int) : Bool :=
  let ns := neighbourBins bx bY
  decide (32 < (ns.map fun b => (sliceBin s b).length).foldl (· + ·) 0) ||
    ns.any fun b => s.overflow.getD b false

/-- Ascending insertion without repeats. -/
def insertDistinct (x : Nat) : List Nat → List Nat
  | [] => [x]
  | y :: ys => if x < y then x :: y :: ys else if x = y then y :: ys else y :: insertDistinct x ys

/-- The distinct agent-modes of the neighbourhood in ascending order (R209). -/
def neighbourModes (s : AgentSlice) (bx bY : Int) : List Nat :=
  ((neighbourBins bx bY).flatMap (sliceBin s)).foldl (fun acc x => insertDistinct x acc) []

end Sys2Proof.Machine
end

