-- ==== Sys2Proof/Machine/RolloutTypes.lean ====
section
/-! DEFINITION. Anchors, the candidate lattice and the rollout (03_proposals.md): candidate identities, the knots
of lattice candidates, refinement children, the fallback and the emergency stop, the integration of a candidate
through its samples, and the cost terms. -/

namespace Sys2Proof.Machine

/-- An anchor record (R113): 8 knots of acceleration and curvature rate, a duration in us, the flags and
the network that produced it. -/
structure Anchor where
  acc      : List Int
  kd       : List Int
  duration : Nat
  valid    : Bool
  sat      : Bool
  source   : Nat
  deriving DecidableEq, Repr, Inhabited

/-- Where the anchors come from (R115). -/
inductive AnchorSource where
  /-- the output tensor of a network, with the conversion exponent of each of the 17 columns (R116) -/
  | network (net : Nat) (exps : List Int)
  /-- a static table carried in the section -/
  | table (anchors : List Anchor)
  deriving DecidableEq, Repr, Inhabited

/-- The ROLLOUT section of the image (R303). -/
structure RolloutCfg where
  /-- true: vehicle model M1, with a trailer (R135) -/
  trailer : Bool
  lt      : Nat
  lh      : Nat
  nSamp   : Nat
  dtUs    : Nat
  planOfsUs : Nat
  anchorCount : Nat
  source  : AnchorSource
  latL    : Nat
  latS    : Nat
  latJ    : Nat
  wLat    : List Int
  wSpd    : List Int
  latHalf : Int
  spdHalf : Int
  jitA    : Nat
  jitK    : Nat
  aMin    : Int
  aMax    : Int
  kdMax   : Int
  vMax    : Nat
  kMax    : Int
  latMax  : Int
  psiMax  : Int
  deriving DecidableEq, Repr, Inhabited

/-- The 48 bytes of an anchor record (R113). -/
def encodeAnchor (a : Anchor) : List Byte :=
  padTo 48 (padTo 32 ((a.acc.zip a.kd).flatMap fun p => leBytesInt 2 p.1 ++ leBytesInt 2 p.2) ++
    leBytes 4 a.duration ++ leBytes 2 (bnat a.valid + 2 * bnat a.sat) ++ leBytes 2 (a.source % 8))

/-- An anchor record from its 48 bytes (R113). -/
def decodeAnchor (bs : List Byte) : Anchor :=
  { acc := (List.range 8).map fun q => fieldS bs (4 * q) 2
    kd := (List.range 8).map fun q => fieldS bs (4 * q + 2) 2
    duration := fieldU bs 32 4
    valid := fieldU bs 36 2 % 2 == 1
    sat := fieldU bs 36 2 / 2 % 2 == 1
    source := fieldU bs 38 2 % 8 }

/-- The invalid entry 0xFFFF_FFFF (R120). -/
def invalidId : Nat := 4294967295

/-- ORIGIN of a candidate identity (R119). -/
def idOrigin (id : Nat) : Nat := id / 2 ^ 30 % 4

/-- ANCHOR of a candidate identity (R119). -/
def idAnchor (id : Nat) : Nat := id / 2 ^ 18 % 4096

/-- VARIANT of a candidate identity (R119). -/
def idVariant (id : Nat) : Nat := id % 2 ^ 18

/-- The lattice variants V of every anchor (R123). -/
def variants (c : RolloutCfg) : Nat := c.latL * c.latS * c.latJ

/-- The image's total count K = A * V (R124). -/
def candidateCount (c : RolloutCfg) : Nat := c.anchorCount * variants c

/-- The ID of lattice candidate n (R124), or the invalid entry beyond the lattice. -/
def latticeId (c : RolloutCfg) (n : Nat) : Nat :=
  if n < candidateCount c then (n / variants c) * 2 ^ 18 + n % variants c else invalidId

/-- A control: 8 knots and the duration they cover (R114). -/
structure Control where
  acc      : List Int
  kd       : List Int
  duration : Nat
  deriving DecidableEq, Repr, Inhabited

/-- The control of a void slot: none (R147). -/
def Control.zero : Control := ⟨[], [], 0⟩

/-- The knot values limited by A_MIN, A_MAX and KD_MAX (R125, R140). -/
def clampKnot (c : RolloutCfg) (acc kd : Int) : Int × Int :=
  (clampInt acc c.aMin c.aMax, clampInt kd (-c.kdMax) c.kdMax)

/-- The knots of a lattice candidate (R125). -/
def latticeControl (c : RolloutCfg) (seed : DWord) (anc : Anchor) (id : Nat) : Control :=
  let v := idVariant id
  let l : Int := (v / (c.latS * c.latJ) : Nat)
  let s : Int := (v / c.latJ % c.latS : Nat)
  let j := v % c.latJ
  let ks := (List.range 8).map fun q =>
    let acc := anc.acc.getD q 0 + (((2 * s - (c.latS - 1)) * c.spdHalf * c.wSpd.getD q 0) >>> 7)
    let kd := anc.kd.getD q 0 + (((2 * l - (c.latL - 1)) * c.latHalf * c.wLat.getD q 0) >>> 7)
    if j = 0 then clampKnot c acc kd
    else
      let ra := mix64 seed (BitVec.ofNat 64 id) (BitVec.ofNat 64 (2 * q))
      let rk := mix64 seed (BitVec.ofNat 64 id) (BitVec.ofNat 64 (2 * q + 1))
      clampKnot c (acc + ((mixSigned ra * c.jitA) >>> 15)) (kd + ((mixSigned rk * c.jitK) >>> 15))
  { acc := ks.map (·.1), kd := ks.map (·.2), duration := anc.duration }

/-- The REFINE section of the image (R262, R271). -/
structure RefineCfg where
  rounds   : Nat
  parents  : Nat
  decay    : Nat
  visitMax : Nat
  ra       : Nat
  rk       : Nat
  shrink   : Nat
  timeupUs : Nat
  deriving DecidableEq, Repr, Inhabited

/-- The ID of child `ch` of parent slot `j` in round `r` (R266). -/
def childId (parentId r j ch : Nat) : Nat :=
  2 ^ 30 + idAnchor parentId * 2 ^ 18 + r * 2 ^ 15 + j * 8 + ch

/-- The knots of a refinement child (R267); its duration is the parent's. -/
def childControl (c : RolloutCfg) (rf : RefineCfg) (seed : DWord) (par : Control) (cid r : Nat) : Control :=
  let ampA := rf.ra / 2 ^ (rf.shrink * r)
  let ampK := rf.rk / 2 ^ (rf.shrink * r)
  let ks := (List.range 8).map fun q =>
    let ra := mix64 seed (BitVec.ofNat 64 cid) (BitVec.ofNat 64 (2 * q))
    let rk := mix64 seed (BitVec.ofNat 64 cid) (BitVec.ofNat 64 (2 * q + 1))
    clampKnot c (par.acc.getD q 0 + ((mixSigned ra * ampA) >>> 15))
      (par.kd.getD q 0 + ((mixSigned rk * ampK) >>> 15))
  { acc := ks.map (·.1), kd := ks.map (·.2), duration := par.duration }

/-! ### Integration (R132 to R141) -/

/-- The rollout state of R136. -/
structure VState where
  X   : Int
  Y   : Int
  th  : Nat
  v   : Int
  k   : Int
  psi : Nat
  deriving DecidableEq, Repr, Inhabited

/-- The initial state from the ego state (R136). DESIGN CHOICE (notes/assumptions/131.md): psi is the ego's articulation for
model M0 too, which R136 gives for M1. -/
def VState.ofEgo (e : EgoState) : VState :=
  { X := e.x * 256, Y := e.y * 256, th := (e.heading * 65536) % 4294967296, v := e.speed * 256
    k := e.curv * 256, psi := unsignedOf 32 (e.artic * 65536) }

/-- The all-zero state of an absent ego (R134). -/
def VState.zero : VState := ⟨0, 0, 0, 0, 0, 0⟩

/-- K_ANG of R137. -/
def kAng : Int := 683565276

/-- The substep duration H of h microseconds (R133). -/
def substepH (h : Nat) : Nat := h * 4294967296 / 1000000

/-- One substep of the vehicle model (R137). -/
def substep (c : RolloutCfg) (st : VState) (acc kd : Int) (h : Nat) : VState :=
  let i := (st.th + 0x80000) / 1048576 % 4096
  let ds := (st.v * h) >>> 28
  let dx := (ds * cosTab i) >>> 30
  let dy := (ds * sinTab i) >>> 30
  let dth := (st.k * ds * kAng) >>> 44
  let dv := (acc * h) >>> 26
  let dk := (kd * h) >>> 24
  let p := (st.psi + 0x80000) / 1048576 % 4096
  let e := ds * sinTab p + ((ds * st.k * c.lh * cosTab p) >>> 34)
  let dtt := -((e * kAng) / ((c.lt : Int) * 1099511627776))
  { X := st.X + dx, Y := st.Y + dy
    th := unsignedOf 32 (st.th + dth)
    v := clampInt (st.v + dv) 0 (c.vMax * 256)
    k := clampInt (st.k + dk) (-(c.kMax * 256)) (c.kMax * 256)
    psi := if c.trailer then unsignedOf 32 (st.psi + dtt - dth) else st.psi }

/-- The control in force at `tau` us after the plan start (R114): the knot of the interval, and 0 from D on. -/
def Control.at (ct : Control) (tau : Nat) : Int × Int :=
  if ct.duration ≤ tau then (0, 0)
  else
    let q := tau * 8 / ct.duration
    (ct.acc.getD q 0, ct.kd.getD q 0)

/-- The four substeps of the step from sample t - 1 to sample t (R133, R138), with the control of the last. -/
def stepSample (c : RolloutCfg) (ct : Control) (t : Nat) (st : VState) : VState × Int :=
  let h := c.dtUs / 4
  let tau := (t - 1) * c.dtUs
  let one := fun (s : VState) i => let u := ct.at (tau + i * h); substep c s u.1 u.2 (substepH h)
  (one (one (one (one st 0) 1) 2) 3, (ct.at (tau + 3 * h)).1)

/-- The start state at tau_0 (R134): the ego state advanced by four substeps of the lead-in, or the ego state
itself when its stamp is not before tau_0, or the all-zero state without an ego. -/
def startState (c : RolloutCfg) (ego : Option EgoState) (tau0 : Nat) : VState :=
  match ego with
  | none => VState.zero
  | some e =>
    let st := VState.ofEgo e
    if tau0 ≤ e.stamp then st
    else
      let h := substepH ((tau0 - e.stamp) / 4000)
      let one := fun s => substep c s e.acc 0 h
      one (one (one (one st)))

/-- The samples 0 to N - 1 of a candidate, each with the acceleration a_t of R139. -/
def rolloutFrom (c : RolloutCfg) (ct : Control) : Nat → Nat → VState → List (VState × Int)
  | 0, _, _ => []
  | n + 1, t, st =>
    let r := stepSample c ct t st
    r :: rolloutFrom c ct n (t + 1) r.1

/-- The whole rollout: sample 0 is the start state with the ego acceleration (R139). -/
def rollout (c : RolloutCfg) (start : VState) (egoAcc : Int) (ct : Control) : List (VState × Int) :=
  (start, egoAcc) :: rolloutFrom c ct (c.nSamp - 1) 1 start

/-- The outputs of one sample (R139), with KIN of R140. -/
structure Sample where
  x       : Int
  y       : Int
  heading : Nat
  speed   : Nat
  curv    : Int
  artic   : Int
  acc     : Int
  kin     : Bool
  deriving DecidableEq, Repr, Inhabited

/-- The sample outputs of a rollout state (R139, R140). -/
def sampleOf (c : RolloutCfg) (r : VState × Int) : Sample :=
  let st := r.1
  let x := st.X >>> 8
  let y := st.Y >>> 8
  let speed := (st.v >>> 8).toNat
  let curv := st.k >>> 8
  let artic := signedOf 16 ((st.psi + 0x8000) / 65536 : Nat)
  let lat : Int := (speed * speed * curv.natAbs : Nat)
  { x := x, y := y, heading := (st.th + 0x8000) / 65536 % 65536, speed := speed, curv := curv
    artic := artic, acc := r.2
    kin := decide (c.latMax * 4194304 < lat) || (c.trailer && decide (c.psiMax < artic.natAbs)) ||
      !inInt32 x || !inInt32 y }

/-- A pose record as it reaches a collision engine (R150). -/
structure Pose where
  x       : Int
  y       : Int
  heading : Nat
  artic   : Int
  slot    : Nat
  kin     : Bool
  anchorInvalid : Bool
  deriving DecidableEq, Repr, Inhabited

/-- The pose record of a sample (R150); the articulation is 0 for model M0. DESIGN CHOICE (notes/assumptions/131.md): an x or y
outside int32, whose sample is KIN, keeps its low 32 bits. -/
def poseOf (c : RolloutCfg) (s : Sample) (slot : Nat) (anchorInvalid : Bool) : Pose :=
  { x := signedOf 32 s.x, y := signedOf 32 s.y, heading := s.heading
    artic := if c.trailer then s.artic else 0, slot := slot, kin := s.kin, anchorInvalid := anchorInvalid }

/-- The 16 bytes of a pose record (R150). -/
def encodePose (p : Pose) : List Byte :=
  leBytesInt 4 p.x ++ leBytesInt 4 p.y ++ leBytes 2 p.heading ++ leBytesInt 2 p.artic ++
    leBytes 2 (p.slot % 1024) ++ leBytes 2 (bnat p.kin + 2 * bnat p.anchorInvalid)

/-- A pose record from its 16 bytes (R150). -/
def decodePose (bs : List Byte) : Pose :=
  { x := fieldS bs 0 4, y := fieldS bs 4 4, heading := fieldU bs 8 2, artic := fieldS bs 10 2
    slot := fieldU bs 12 2 % 1024, kin := fieldU bs 14 2 % 2 == 1
    anchorInvalid := fieldU bs 14 2 / 2 % 2 == 1 }

/-! ### Route terms and the term record (R142 to R145, R152) -/

/-- A route segment with its length and the length of the segments before it (R143). -/
structure Segment where
  ax   : Int
  ay   : Int
  bx   : Int
  bY   : Int
  speed : Nat
  halfWidth : Nat
  len  : Nat
  cum  : Nat
  deriving DecidableEq, Repr, Inhabited

/-- The segments of a route (R143), `cum` being the length so far. -/
def segmentsFrom : List RoutePoint → Nat → List Segment
  | a :: b :: rest, cum =>
    let dx := b.x - a.x
    let dy := b.y - a.y
    let len := isqrt (dx * dx + dy * dy).toNat
    ⟨a.x, a.y, b.x, b.y, a.speed, a.halfWidth, len, cum⟩ :: segmentsFrom (b :: rest) (cum + len)
  | _, _ => []

/-- The squared distance D2 and the projection g of a point on a segment (R143). -/
def segDistance (sg : Segment) (x y : Int) : Nat × Int :=
  let dx := sg.bx - sg.ax
  let dy := sg.bY - sg.ay
  let px := x - sg.ax
  let py := y - sg.ay
  let g := px * dx + py * dy
  let gg := dx * dx + dy * dy
  let a2 := px * px + py * py
  if g ≤ 0 then (a2.toNat, g)
  else if gg ≤ g then (((x - sg.bx) * (x - sg.bx) + (y - sg.bY) * (y - sg.bY)).toNat, g)
  else ((a2 - g * g / gg).toNat, g)

/-- The station of a projection (R143), in the LSB of PROG. -/
def segStation (sg : Segment) (g : Int) : Nat :=
  let along := if sg.len = 0 then 0 else (clampInt (g / sg.len) 0 sg.len).toNat
  (sg.cum + along) / 4

/-- The nearest of the segments given with their indices; the lowest index wins a tie (R144). -/
def nearestSeg (x y : Int) : List (Nat × Segment) → Option (Nat × Segment × Nat × Int)
  | [] => none
  | (i, sg) :: rest =>
    let d := segDistance sg x y
    match nearestSeg x y rest with
    | none => some (i, sg, d.1, d.2)
    | some r => if d.1 ≤ r.2.2.1 then some (i, sg, d.1, d.2) else some r

/-- The cost terms of R142, in table order, with the flags of the term record (R152). -/
structure Terms where
  acc  : Nat
  jerk : Nat
  lat  : Nat
  ctr  : Nat
  lane : Nat
  spd  : Nat
  prog : Nat
  kin  : Bool
  anchorInvalid : Bool
  void : Bool
  deriving DecidableEq, Repr, Inhabited

/-- No cost, no gain and no flag. -/
def Terms.zero : Terms := ⟨0, 0, 0, 0, 0, 0, 0, false, false, false⟩

/-- The terms of the remaining samples: `prevAcc` is a_{t-1}, `seg` the segment of sample t - 1, `last` the
station of the last sample taken (R142 to R144). -/
def termsFrom (segs : List (Nat × Segment)) : List Sample → Int → Nat → Nat → Terms → Terms × Nat
  | [], _, _, last, tm => (tm, last)
  | s :: rest, prevAcc, seg, last, tm =>
    let near := nearestSeg s.x s.y ((segs.drop seg).take 4)
    let tm1 : Terms := { tm with
      acc := satAdd32 tm.acc s.acc.natAbs
      jerk := satAdd32 tm.jerk (s.acc - prevAcc).natAbs
      lat := satAdd32 tm.lat (s.speed * s.speed * s.curv.natAbs / 4194304)
      kin := tm.kin || s.kin }
    match near with
    | none => termsFrom segs rest s.acc seg last tm1
    | some (i, sg, d2, g) =>
      let d := isqrt d2 / 4
      termsFrom segs rest s.acc i (segStation sg g)
        { tm1 with
          ctr := satAdd32 tm1.ctr d
          lane := satAdd32 tm1.lane (d - sg.halfWidth)
          spd := satAdd32 tm1.spd ((s.speed : Int) - sg.speed).natAbs }

/-- The terms of a candidate's samples over a route (R142 to R145). -/
def candidateTerms (route : List RoutePoint) (ss : List Sample) : Terms :=
  match ss with
  | [] => Terms.zero
  | s0 :: rest =>
    let segs := (segmentsFrom route 0).zipIdx.map fun p => (p.2, p.1)
    let base := { Terms.zero with kin := s0.kin }
    match nearestSeg s0.x s0.y segs with
    | none => (termsFrom [] rest s0.acc 0 0 base).1
    | some (i, sg, _, g) =>
      let s := segStation sg g
      let r := termsFrom segs rest s0.acc i s base
      { r.1 with prog := satNat 32 (r.2 - s) }

/-- The 32-byte term record (R152). -/
def encodeTerms (t : Terms) : List Byte :=
  leBytes 4 t.acc ++ leBytes 4 t.jerk ++ leBytes 4 t.lat ++ leBytes 4 t.ctr ++ leBytes 4 t.lane ++
    leBytes 4 t.spd ++ leBytes 4 t.prog ++
    leBytes 4 (bnat t.kin + 2 * bnat t.anchorInvalid + 4 * bnat t.void)

/-- A term record from its 32 bytes (R152). -/
def decodeTerms (bs : List Byte) : Terms :=
  let f := fieldU bs 28 4
  { acc := fieldU bs 0 4, jerk := fieldU bs 4 4, lat := fieldU bs 8 4, ctr := fieldU bs 12 4
    lane := fieldU bs 16 4, spd := fieldU bs 20 4, prog := fieldU bs 24 4
    kin := f % 2 == 1, anchorInvalid := f / 2 % 2 == 1, void := f / 4 % 2 == 1 }

/-! ### Placement (R148, R149, R268, R276) -/

/-- The block, the slot and the local engine of candidate index n (R147, R149): collision engine 4r + c div 256. -/
def engineOfSlot (rank slot : Nat) : Nat := 4 * rank + slot / 256

/-- The collision engine of list position i with copy shift s, for R_act rollout engines (R276). -/
def listEngine (i s rAct : Nat) : Nat :=
  if rAct = 0 then 0 else 4 * ((i + s) % rAct) + (i / rAct + s) % 4

end Sys2Proof.Machine
end

