-- ==== Sys2Proof/Machine/SweepTypes.lean ====
section
/-! DEFINITION. The geometry of the collision sweep (05_sweep.md): placement and inflation of the ego footprint,
the distance-field margin, the separating-axis margin, the check of one sample, the slot record and the
canary material. Every rounding lowers the clearance it claims. -/

namespace Sys2Proof.Machine

/-- The COST section of the image (R303). -/
structure CostCfg where
  base    : Nat
  weights : List Nat
  shifts  : List Nat
  pLimit  : Nat
  riskBuf : Nat
  clrTarget : Nat
  deriving DecidableEq, Repr, Inhabited

/-- A canary descriptor (R225). -/
structure CanaryDesc where
  x0 : Int
  y0 : Int
  dx : Int
  dy : Int
  heading : Nat
  artic : Int
  deriving DecidableEq, Repr, Inhabited

/-- A slot record (R215). -/
structure SlotRec where
  cClr  : Nat
  cRisk : Nat
  cUnk  : Nat
  flags : Nat
  minClr : Int
  firstBad : Nat
  deriving DecidableEq, Repr, Inhabited

/-- The flag bits of a slot record (R215). -/
def flagCollide : Nat := 0
/-- AGENT of R215. -/
def flagAgent : Nat := 1
/-- DENSE of R215. -/
def flagDense : Nat := 2
/-- UNKNOWN of R215. -/
def flagUnknown : Nat := 3
/-- UNK_INFEASIBLE of R215. -/
def flagUnkInfeasible : Nat := 4
/-- KIN of R215. -/
def flagKin : Nat := 5
/-- ANCHOR_INVALID of R215. -/
def flagAnchorInvalid : Nat := 6
/-- VOID of R215. -/
def flagVoid : Nat := 7
/-- INFEASIBLE of R215. -/
def flagInfeasible : Nat := 8

/-- The accumulator of a slot at the start of a block (R214). -/
def SlotRec.init (void : Bool) : SlotRec :=
  { cClr := 0, cRisk := 0, cUnk := 0, flags := if void then 2 ^ 7 + 2 ^ 8 else 0, minClr := 32767
    firstBad := 65535 }

/-- The 16 bytes of a slot record (R215). -/
def encodeSlot (r : SlotRec) : List Byte :=
  leBytes 4 r.cClr ++ leBytes 4 r.cRisk ++ leBytes 2 r.cUnk ++ leBytes 2 r.flags ++ leBytesInt 2 r.minClr ++
    leBytes 2 r.firstBad

/-- A slot record from its 16 bytes (R215). -/
def decodeSlot (bs : List Byte) : SlotRec :=
  { cClr := fieldU bs 0 4, cRisk := fieldU bs 4 4, cUnk := fieldU bs 8 2, flags := fieldU bs 10 2
    minClr := fieldS bs 12 2, firstBad := fieldU bs 14 2 }

/-- Flag `n` of a slot record. -/
def SlotRec.has (r : SlotRec) (n : Nat) : Bool := r.flags / 2 ^ n % 2 == 1

/-- A slot record with flag `n` set. -/
def SlotRec.withFlag (r : SlotRec) (n : Nat) : SlotRec := { r with flags := r.flags ||| 2 ^ n }

/-! ### Placement and inflation (R203, R204) -/

/-- The placement of a footprint element from its body origin (R203): position and placement error. -/
def place (x y : Int) (h : Nat) (ox oy : Int) : Int × Int × Nat :=
  let i := headingIndex h
  (x + ((ox * 4 * cosTab i - oy * 4 * sinTab i) >>> 30),
   y + ((ox * 4 * sinTab i + oy * 4 * cosTab i) >>> 30),
   ((ox.natAbs + oy.natAbs) * 4 + 1023) / 1024 + 2)

/-- The trailer heading of a sample (R203). -/
def trailerHeading (h : Nat) (artic : Int) : Nat := unsignedOf 16 (h + artic)

/-- A tractor element, or a trailer element placed through the hitch (R203). -/
def placeElement (rc : RolloutCfg) (p : Pose) (trailer : Bool) (ox oy : Int) : Int × Int × Nat :=
  if trailer then
    let ht := trailerHeading p.heading p.artic
    let a := place p.x p.y p.heading (-rc.lh) 0
    let b := place a.1 a.2.1 ht (-rc.lt) 0
    let d := place b.1 b.2.1 ht ox oy
    (d.1, d.2.1, a.2.2 + b.2.2 + d.2.2)
  else place p.x p.y p.heading ox oy

/-- A box as the separating-axis test takes it (R210). -/
structure Box where
  cx : Int
  cy : Int
  h  : Nat
  hl : Nat
  hw : Nat
  deriving DecidableEq, Repr, Inhabited

/-- The angular inflation e_ang of R204. -/
def boxAngle (hl hw : Nat) : Nat := ((hl + hw) * 4 + 1023) / 1024 + 1

/-- An ego box of a sample, inflated (R204): box `k` of the footprint. -/
def egoBox (rc : RolloutCfg) (p : Pose) (k : Nat) (b : EgoBox) : Box :=
  let trailer := k == 1
  let d := placeElement rc p trailer b.ox b.oy
  let infl := d.2.2 + boxAngle b.hl b.hw
  { cx := d.1, cy := d.2.1, h := if trailer then trailerHeading p.heading p.artic else p.heading
    hl := 4 * b.hl + infl, hw := 4 * b.hw + infl }

/-- The box of an agent record, inflated (R204). -/
def agentBox (r : AgentRec) : Box :=
  { cx := r.x, cy := r.y, h := r.heading, hl := 4 * r.hl + boxAngle r.hl r.hw
    hw := 4 * r.hw + boxAngle r.hl r.hw }

/-- The margin of one axis of the separating-axis test (R210): axis `k` of box `a` against the extents of `o`. -/
def axisMargin (dx dy : Int) (a o : Box) (k : Nat) : Int :=
  let io := headingIndex o.h
  let i := (headingIndex a.h + 1024 * k) % 4096
  let c := cosTab i
  let s := sinTab i
  let own : Nat := if k = 0 then a.hl else a.hw
  let proj : Nat := (dx * c + dy * s).natAbs / 2 ^ 30
  let ca := (cosTab io * c + sinTab io * s).natAbs
  let cb := (cosTab io * s - sinTab io * c).natAbs
  let ext : Nat := own + ((o.hl * ca + o.hw * cb + 2 ^ 60 - 1) / 2 ^ 60) + 3
  (proj : Int) - ext

/-- The separation margin of two boxes (R210). -/
def satMargin (p q : Box) : Int :=
  let dx := q.cx - p.cx
  let dy := q.cy - p.cy
  max (max (axisMargin dx dy p q 0) (axisMargin dx dy p q 1))
    (max (axisMargin dx dy q p 0) (axisMargin dx dy q p 1))

/-! ### The distance field (R206) -/

/-- HD[m], the cell half-diagonal (R206). -/
def halfDiagonal (m : Nat) : Nat := if m ≥ 8 then 2318 else if m ≥ 4 then 1159 else if m ≥ 2 then 580 else 290

/-- What a sample check reads of the world: the slice of a die (R206) and the agent slice of its sample. -/
structure FieldView where
  sx0     : Int
  sy0     : Int
  missing : Nat
  cells   : Array Byte
  deriving DecidableEq, Repr, Inhabited

/-- The margin of a disc against the world slice, or none when the place is unknown (R206). -/
def dfMargin (m : Nat) (f : FieldView) (px py : Int) (rEff : Nat) : Option Int :=
  if !(inInt32 px && inInt32 py) then none
  else
    let cx := cellOf px m - f.sx0
    let cy := cellOf py m - f.sy0
    if cx < 0 ∨ cx > 511 ∨ cy < 0 ∨ cy > 511 then none
    else
      let ix := ((cx + f.sx0) % 512).toNat
      let iy := ((cy + f.sy0) % 512).toNat
      if f.missing / 2 ^ (ix / 64 + 8 * (iy / 64)) % 2 = 1 then none
      else
        let v := (f.cells.getD (iy * 512 + ix) 0).toNat
        some ((v * 1024 / 5 : Nat) - (halfDiagonal m + rEff : Nat))

/-- The margin of a disc against the canary tile (R225): outside 0 to 63 the disc is unknown. -/
def canaryMargin (m : Nat) (tile : Array Byte) (px py : Int) (rEff : Nat) : Option Int :=
  if !(inInt32 px && inInt32 py) then none
  else
    let cx := cellOf px m
    let cy := cellOf py m
    if cx < 0 ∨ cx > 63 ∨ cy < 0 ∨ cy > 63 then none
    else
      let v := (tile.getD (cy.toNat * 64 + cx.toNat) 0).toNat
      some ((v * 1024 / 5 : Nat) - (halfDiagonal m + rEff : Nat))

/-! ### The sample check (R207 to R214) -/

/-- The agents a sample is tested against: it lies outside the grid, it is DENSE, or it tests these records. -/
inductive Binned where
  | outside
  | dense
  | modes (recs : List AgentRec)
  deriving DecidableEq, Repr, Inhabited

/-- The binned agents of a reference point (R208, R209). -/
def binnedOf (m : Nat) (sx0 sy0 : Int) (s : AgentSlice) (x y : Int) : Binned :=
  let bx := (cellOf x m - sx0) >>> 5
  let bY := (cellOf y m - sy0) >>> 5
  if bx < 0 ∨ bx > 15 ∨ bY < 0 ∨ bY > 15 then .outside
  else if sliceDense s bx bY then .dense
  else .modes ((neighbourModes s bx bY).map fun i => s.recs.getD i AgentRec.absent)

/-- The configuration a sample check uses: footprint, model geometry, limits. -/
structure CheckCfg where
  world   : WorldCfg
  rollout : RolloutCfg
  cost    : CostCfg
  deriving DecidableEq, Repr, Inhabited

/-- The least margin of an agent record over the ego boxes (R212). -/
def agentMargin (c : CheckCfg) (p : Pose) (r : AgentRec) : Int :=
  ((c.world.boxes.zipIdx.map fun b => satMargin (egoBox c.rollout p b.2 b.1) (agentBox r)).foldl
    (fun acc g => match acc with
      | none => some g
      | some a => some (min a g)) none).getD (2 ^ 62)

/-- The sums p_hit and p_near of R212 over the records tested. -/
def overlapSums (c : CheckCfg) (p : Pose) (rs : List AgentRec) : Nat × Nat :=
  rs.foldl (fun acc r =>
    let g := agentMargin c p r
    (if g ≤ 0 then satAdd32 acc.1 r.prob else acc.1,
     if g ≤ 4 * (c.cost.riskBuf : Int) then satAdd32 acc.2 r.prob else acc.2)) (0, 0)

/-- The disc pass of a sample: whether any disc was unknown, and the least known margin (R206, R213). -/
def discPass (c : CheckCfg) (margin : Int → Int → Nat → Option Int) (p : Pose) : Bool × Option Int :=
  c.world.discs.foldl (fun acc d =>
    let e := placeElement c.rollout p d.trailer d.ox d.oy
    match margin e.1 e.2.1 (4 * d.rad + e.2.2) with
    | none => (true, acc.2)
    | some g => (acc.1, some (match acc.2 with | none => g | some a => min a g))) (false, none)

/-- The check of one sample (R214): `margin` is the distance-field test, `binned` the agents of its bins and
`urgent` the urgent records of direct mode (R223). -/
def checkSample (c : CheckCfg) (margin : Int → Int → Nat → Option Int) (binned : Binned)
    (urgent : List AgentRec) (p : Pose) (t : Nat) (acc : SlotRec) : SlotRec :=
  let bad0 := p.kin || p.anchorInvalid
  let acc : SlotRec := if p.kin then acc.withFlag flagKin else acc
  let acc : SlotRec := if p.anchorInvalid then acc.withFlag flagAnchorInvalid else acc
  let dp := discPass c margin p
  let outside := binned == .outside
  let dense := binned == .dense
  let unk := dp.1 || outside
  let acc : SlotRec := if dense then acc.withFlag flagDense else acc
  let recs := (match binned with | .modes rs => rs | _ => []) ++ urgent
  let ps := overlapSums c p recs
  let collide := match dp.2 with | some g => decide (g ≤ 0) | none => false
  let acc : SlotRec := if collide then acc.withFlag flagCollide else acc
  let acc : SlotRec := match dp.2 with
    | none => acc
    | some g => { acc with
        cClr := satAdd32 acc.cClr ((max 0 (4 * (c.cost.clrTarget : Int) - g)).toNat / 4)
        minClr := min acc.minClr (clampInt (g >>> 4) (-32768) 32767) }
  let hit := decide (c.cost.pLimit ≤ ps.1)
  let acc : SlotRec := if hit then acc.withFlag flagAgent else acc
  let acc : SlotRec := { acc with cRisk := satAdd32 acc.cRisk ps.2 }
  let acc : SlotRec := if unk then { acc.withFlag flagUnknown with cUnk := satNat 16 (acc.cUnk + 1) } else acc
  let unkBad := unk && !c.world.unkMode
  let acc : SlotRec := if unkBad then acc.withFlag flagUnkInfeasible else acc
  if bad0 || dense || collide || hit || unkBad then
    let acc : SlotRec := acc.withFlag flagInfeasible
    if acc.firstBad = 65535 then { acc with firstBad := t } else acc
  else acc

/-- The box tests T of a sample (R209, R223). -/
def boxTests (c : CheckCfg) (binned : Binned) (urgent : List AgentRec) : Nat :=
  ((match binned with | .modes rs => rs.length | _ => 0) + urgent.length) * c.world.boxes.length

/-- The cycles of a sample (R220). -/
def sampleCycles (c : CheckCfg) (tests : Nat) : Nat := max 4 (max c.world.discs.length (ceilDiv tests 2))

/-- The whole check of a candidate (R214, R217): every sample to N - 1 against `world t`. -/
def checkPoses (c : CheckCfg) (margin : Int → Int → Nat → Option Int) (binned : Pose → Nat → Binned)
    (urgent : Nat → List AgentRec) : List Pose → Nat → SlotRec → SlotRec
  | [], _, acc => acc
  | p :: ps, t, acc =>
    checkPoses c margin binned urgent ps (t + 1) (checkSample c margin (binned p t) (urgent t) p t acc)

/-- The pose of canary sample t (R225). -/
def canaryPose (d : CanaryDesc) (i t : Nat) : Pose :=
  { x := d.x0 + t * d.dx, y := d.y0 + t * d.dy, heading := d.heading, artic := d.artic, slot := i
    kin := false, anchorInvalid := false }

/-- The result record of a canary (R225): tile and agents of the canary area, no bin grid. -/
def canaryResult (c : CheckCfg) (n : Nat) (tile : Array Byte) (agents : List AgentRec) (d : CanaryDesc)
    (i : Nat) : SlotRec :=
  checkPoses c (canaryMargin c.world.m tile) (fun _ _ => .modes (agents.filter fun r => r.prob != 0))
    (fun _ => []) ((List.range n).map (canaryPose d i)) 0 (SlotRec.init false)

/-- The 16 bytes of a canary descriptor (R225). -/
def encodeCanaryDesc (d : CanaryDesc) : List Byte :=
  leBytesInt 4 d.x0 ++ leBytesInt 4 d.y0 ++ leBytesInt 2 d.dx ++ leBytesInt 2 d.dy ++ leBytes 2 d.heading ++
    leBytesInt 2 d.artic

/-- A canary descriptor from its 16 bytes (R225). -/
def decodeCanaryDesc (bs : List Byte) : CanaryDesc :=
  { x0 := fieldS bs 0 4, y0 := fieldS bs 4 4, dx := fieldS bs 8 2, dy := fieldS bs 10 2
    heading := fieldU bs 12 2, artic := fieldS bs 14 2 }

/-- The ID of canary i of a set (R225). -/
def canaryId (set i : Nat) : Nat := 2 * 2 ^ 30 + set * 4 + i

end Sys2Proof.Machine
end

