-- ==== Sys2Proof/Machine/SelectTypes.lean ====
section
/-! DEFINITION. Merit and selection (06_merit_select.md) as computations on elements: merit, packed keys, the
descriptor and its checks, top-k with ties and duplicates, and the result record. -/

namespace Sys2Proof.Machine

/-- Merit of a candidate from its two records (R232). -/
def meritOf (c : CostCfg) (t : Terms) (r : SlotRec) (id : Nat) : Nat :=
  if id = invalidId then 0
  else if t.kin || t.anchorInvalid || t.void then 0
  else if r.has flagInfeasible then 0
  else
    let w := fun n v => v * c.weights.getD n 0 / 2 ^ (c.shifts.getD n 0)
    let g := c.base + w 9 t.prog
    let s := w 0 t.acc + w 1 t.jerk + w 2 t.lat + w 3 t.ctr + w 4 t.lane + w 5 t.spd + w 6 r.cClr +
      w 7 r.cRisk + w 8 r.cUnk
    (clampInt ((g : Int) - s) 1 4294967295).toNat

/-- An element: a candidate identity with its merit, and the list it came from (R235, R249). -/
structure Element where
  id    : Nat
  merit : Nat
  list  : Nat
  deriving DecidableEq, Repr, Inhabited

/-- The invalid entry as an element (R120). -/
def Element.invalid : Element := ⟨invalidId, 0, 0⟩

/-- The packed key of an element (R235). -/
def Element.key (e : Element) : Nat := e.merit * 4294967296 + (4294967295 - e.id)

/-- The element of a packed key (R235). -/
def Element.ofKey (k : Nat) : Element := ⟨4294967295 - k % 4294967296, k / 4294967296 % 4294967296, 0⟩

/-- A valid element (R236). -/
def Element.valid (e : Element) : Bool := e.id != invalidId && e.merit != 0

/-- An invalid ID that carries a merit (R236). -/
def Element.badInvalid (e : Element) : Bool := e.id == invalidId && e.merit != 0

/-- The 8 bytes of an element or of its packed key (R235, R237). -/
def encodeElement (asKey : Bool) (e : Element) : List Byte :=
  if asKey then leBytes 8 (if e.id = invalidId then 0 else e.key) else leBytes 4 e.id ++ leBytes 4 e.merit

/-- An element from its 8 bytes (R235, R237). -/
def decodeElement (asKey : Bool) (bs : List Byte) : Element :=
  if asKey then Element.ofKey (ofLe bs) else ⟨fieldU bs 0 4, fieldU bs 4 4, 0⟩

/-! ### Ranking (R234) -/

/-- The merge of two lists, each in order under `le`; equal entries keep their order. -/
def mergeBy {α : Type} (le : α → α → Bool) : Nat → List α → List α → List α
  | 0, xs, ys => xs ++ ys
  | _ + 1, [], ys => ys
  | _ + 1, xs, [] => xs
  | n + 1, x :: xs, y :: ys =>
    if le x y then x :: mergeBy le n xs (y :: ys) else y :: mergeBy le n (x :: xs) ys

/-- One pass of merging neighbours. -/
def mergePairs {α : Type} (le : α → α → Bool) : List (List α) → List (List α)
  | a :: b :: rest => mergeBy le (a.length + b.length) a b :: mergePairs le rest
  | ls => ls

/-- Passes of merging until one list is left. -/
def mergeAll {α : Type} (le : α → α → Bool) : Nat → List (List α) → List α
  | 0, ls => ls.flatten
  | n + 1, ls => match ls with
    | [] => []
    | [l] => l
    | ls => mergeAll le n (mergePairs le ls)

/-- A stable sort. -/
def sortBy {α : Type} (le : α → α → Bool) (l : List α) : List α := mergeAll le 64 (l.map fun x => [x])

/-- The rank order of R234: greater packed keys first. -/
def rankLe (a b : Element) : Bool := decide (b.key ≤ a.key)

/-- An entry of the mismatch list (R249). -/
structure Mismatch where
  id      : Nat
  meritHi : Nat
  meritLo : Nat
  listHi  : Nat
  listLo  : Nat
  deriving DecidableEq, Repr, Inhabited

/-- The 16 bytes of a mismatch entry (R249). -/
def encodeMismatch (m : Mismatch) : List Byte :=
  padTo 16 (leBytes 4 m.id ++ leBytes 4 m.meritHi ++ leBytes 4 m.meritLo ++ leBytes 1 m.listHi ++
    leBytes 1 m.listLo)

/-- A mismatch entry from its 16 bytes (R249). -/
def decodeMismatch (bs : List Byte) : Mismatch :=
  ⟨fieldU bs 0 4, fieldU bs 4 4, fieldU bs 8 4, fieldU bs 12 1, fieldU bs 13 1⟩

/-- The copies of one ID, folded: greatest and least merit with the lowest list that holds each (R248, R249). -/
structure Group where
  id      : Nat
  copies  : Nat
  meritHi : Nat
  meritLo : Nat
  listHi  : Nat
  listLo  : Nat
  deriving DecidableEq, Repr, Inhabited

/-- A copy joins its group. -/
def Group.add (g : Group) (e : Element) : Group :=
  { id := g.id, copies := g.copies + 1
    meritHi := max g.meritHi e.merit
    listHi := if e.merit > g.meritHi then e.list else if e.merit = g.meritHi then min g.listHi e.list else g.listHi
    meritLo := min g.meritLo e.merit
    listLo := if e.merit < g.meritLo then e.list else if e.merit = g.meritLo then min g.listLo e.list
              else g.listLo }

/-- The groups of a list sorted by ID. -/
def groupsOf : List Element → List Group
  | [] => []
  | e :: es => match groupsOf es with
    | g :: gs => if g.id = e.id then g.add e :: gs else ⟨e.id, 1, e.merit, e.merit, e.list, e.list⟩ :: g :: gs
    | [] => [⟨e.id, 1, e.merit, e.merit, e.list, e.list⟩]

/-- What a TOPK leaves (R243 to R250). -/
structure TopK where
  entries  : List Element
  valid    : Nat
  kth      : Nat
  tieTotal : Nat
  tieKept  : Nat
  tieAtK   : Bool
  dups     : Nat
  mismatches : List Mismatch
  deriving DecidableEq, Repr, Inhabited

/-- TOPK over the inputs (R243 to R248): `dedup` compares the valid inputs by ID first. -/
def topK (k : Nat) (dedup : Bool) (inputs : List Element) : TopK :=
  let vs := inputs.filter Element.valid
  let groups := if dedup then groupsOf (sortBy (fun a b => decide (a.id ≤ b.id)) vs) else []
  let ranked := sortBy rankLe (if dedup then groups.map fun g => ⟨g.id, g.meritLo, g.listLo⟩ else vs)
  let kept := ranked.take k
  let full := decide (k ≤ ranked.length)
  let kth := if full then ((kept.getLast?).map (·.merit)).getD 0 else 0
  let tied := fun (l : List Element) => if full then (l.filter fun e => e.merit == kth).length else 0
  { entries := kept ++ List.replicate (k - kept.length) Element.invalid
    valid := kept.length, kth := kth, tieTotal := tied ranked, tieKept := tied kept
    tieAtK := decide (tied kept < tied ranked)
    dups := (groups.map fun g => g.copies - 1).foldl (· + ·) 0
    mismatches := (groups.filter fun g => g.meritLo != g.meritHi).map fun g =>
      ⟨g.id, g.meritHi, g.meritLo, g.listHi, g.listLo⟩ }

/-! ### Descriptors (R237 to R240) -/

/-- The descriptor fields of R237. -/
structure SelDesc where
  op     : Nat
  flags  : Nat
  k      : Nat
  count  : Nat
  thresh : Nat
  n0     : Nat
  src    : Nat
  src2   : Nat
  src3   : Nat
  dst    : Nat
  result : Nat
  stride : Nat
  reserved : Bool
  deriving DecidableEq, Repr, Inhabited

/-- A descriptor from its 64 bytes (R237); `reserved` says that a reserved bit is set. -/
def decodeSelDesc (bs : List Byte) : SelDesc :=
  { op := fieldU bs 0 1, flags := fieldU bs 1 1, k := fieldU bs 2 2, count := fieldU bs 4 4
    thresh := fieldU bs 8 4, n0 := fieldU bs 12 4, src := fieldU bs 0x10 8, src2 := fieldU bs 0x18 8
    src3 := fieldU bs 0x20 8, dst := fieldU bs 0x28 8, result := fieldU bs 0x30 8
    stride := fieldU bs 0x38 2
    reserved := !(allZero ((bs.drop 0x3A).take 6)) || decide (64 ≤ fieldU bs 1 1) }

/-- IN_KEY of the flags (R237). -/
def SelDesc.inKey (d : SelDesc) : Bool := d.flags % 2 == 1
/-- OUT_KEY of the flags (R237). -/
def SelDesc.outKey (d : SelDesc) : Bool := d.flags / 2 % 2 == 1
/-- DEDUP of the flags (R237). -/
def SelDesc.dedup (d : SelDesc) : Bool := d.flags / 4 % 2 == 1
/-- NLISTS of the flags (R237). -/
def SelDesc.nLists (d : SelDesc) : Nat := d.flags / 8 % 8 + 1

/-- The candidate index of the i-th element of a MERIT (R238). -/
def SelDesc.meritIndex (d : SelDesc) (i : Nat) : Nat :=
  if d.stride ≤ 1 then d.n0 + i else d.n0 + (i / 1024) * 1024 * d.stride + i % 1024

/-- A span of memory that an operation reads: address and length. -/
abbrev Span := Nat × Nat

/-- The input lists of a TOPK as (address, count) pairs, given the bytes of its list table (R238). -/
def listTable (bs : List Byte) (n : Nat) : List Span :=
  (chunksOf 16 n bs).map fun e => (fieldU e 0 8, fieldU e 8 4)

/-- Whether two spans overlap. -/
def spansMeet (a b : Span) : Bool := decide (a.1 < b.1 + b.2 ∧ b.1 < a.1 + a.2)

/-- The bytes DST must hold (R238, R249). -/
def SelDesc.dstBytes (d : SelDesc) : Nat :=
  if d.op = 3 then 8 * d.k + (if d.dedup then 256 else 0) else 8 * d.count

/-- The runs of consecutive indices that a MERIT reads, as (first index, length) (R238). -/
def SelDesc.meritRuns (d : SelDesc) : List Span :=
  if d.stride ≤ 1 then [(d.n0, d.count)]
  else (List.range ((d.count + 1023) / 1024)).map fun b => (d.n0 + b * 1024 * d.stride, min 1024 (d.count - 1024 * b))

/-- The inputs a descriptor names (R238): arrays of a MERIT, elements, the list table and its lists. -/
def SelDesc.inputs (d : SelDesc) (lists : List Span) : List Span :=
  if d.op = 1 then
    (d.meritRuns.flatMap fun r => [(d.src + 32 * r.1, 32 * r.2), (d.src2 + 16 * r.1, 16 * r.2)]) ++
      (if d.src3 = 0 then [] else [(d.src3, 4 * d.count)])
  else if d.op = 3 ∧ 1 < d.nLists then
    (d.src, 16 * d.nLists) :: lists.map fun l => (l.1, 8 * l.2)
  else [(d.src, 8 * d.count)]

/-- The addresses whose alignment is checked (R239). -/
def SelDesc.addresses (d : SelDesc) (lists : List Span) : List Nat :=
  [d.src, d.dst, d.result] ++ (if d.op = 1 then [d.src2, d.src3] else []) ++
    (if d.op = 3 ∧ 1 < d.nLists then lists.map (·.1) else [])

/-- The span of DST in the local map of node `node` (R237): of KEYINS, the table of K keys where it lies on this node. -/
def SelDesc.dstSpan (d : SelDesc) (node : Nat) : Span :=
  if d.op = 4 then (d.dst % 2 ^ 48, if d.dst / 2 ^ 48 % 65536 = node then 8 * d.k else 0) else (d.dst, d.dstBytes)

/-- The first failing check of R239, in its order, or 0 when the descriptor is performed. `inGallery` tells
whether a span lies in the issuing die's Gallery; `node` is this device's. -/
def selCheck (inGallery : Span → Bool) (node : Nat) (d : SelDesc) (lists : List Span) : Nat :=
  let multi := decide (d.op = 3 ∧ 1 < d.nLists)
  if d.op = 0 ∨ 4 < d.op ∨ d.reserved then 4
  else if d.count = 0 ∨ 1048576 < d.count ∨ (d.dedup ∧ 8192 < d.count) ∨ (d.op = 4 ∧ d.k < d.count) ∨
      (multi ∧ (lists.map (·.2)).foldl (· + ·) 0 ≠ d.count) then 1
  else if (d.op = 3 ∨ d.op = 4) ∧ (d.k = 0 ∨ 1024 < d.k) then 2
  else if (d.addresses lists).any fun a => a % 64 != 0 then 7
  else
    let ins := d.inputs lists
    let dst := d.dstSpan node
    if (ins.any fun s => !inGallery s) || !inGallery (d.result, 32) || (d.op != 4 && !inGallery dst) ||
        (dst.2 != 0 && ins.any (spansMeet dst)) then 3
    else 0

/-- The result record of R240. -/
structure SelResult where
  status   : Nat
  flags    : Nat
  valid    : Nat
  kth      : Nat
  tieTotal : Nat
  tieKept  : Nat
  dups     : Nat
  mismatches : Nat
  cycles   : Nat
  deriving DecidableEq, Repr, Inhabited

/-- A result record with a status and nothing else (R239, R241). -/
def SelResult.stopped (status cycles : Nat) : SelResult := ⟨status, 0, 0, 0, 0, 0, 0, 0, cycles⟩

/-- The 32 bytes of a result record (R240). -/
def encodeSelResult (r : SelResult) : List Byte :=
  leBytes 2 r.status ++ leBytes 2 r.flags ++ leBytes 4 r.valid ++ leBytes 4 r.kth ++ leBytes 4 r.tieTotal ++
    leBytes 4 r.tieKept ++ leBytes 4 r.dups ++ leBytes 4 r.mismatches ++ leBytes 4 r.cycles

/-- The result record of a TOPK (R243 to R250). -/
def TopK.result (t : TopK) (cycles : Nat) : SelResult :=
  { status := 0
    flags := bnat t.tieAtK + 2 * bnat (!t.mismatches.isEmpty) + 4 * bnat (decide (16 < t.mismatches.length))
    valid := t.valid, kth := t.kth, tieTotal := t.tieTotal, tieKept := t.tieKept, dups := t.dups
    mismatches := t.mismatches.length, cycles := cycles }

/-- The cycles of an operation with port A free (R242); KEYINS is governed by the remote round trip. -/
def selCycles (d : SelDesc) : Nat :=
  if d.op = 1 then ceilDiv d.count 2 + 64
  else if d.op = 2 then ceilDiv d.count 8 + 64
  else if d.dedup then d.count + ceilDiv d.k 8 + 128
  else ceilDiv d.count 8 + ceilDiv d.k 8 + 64

/-! ### The Heap engine (R257 to R264) -/

/-- An entry of the Heap engine (R257). -/
structure HeapEntry where
  key   : Nat
  merit : Nat
  visit : Nat
  deriving DecidableEq, Repr, Inhabited

/-- The key of a priority and an ID (R257). -/
def heapKey (prio id : Nat) : Nat := prio * 4294967296 + (4294967295 - id)

/-- The ID of a heap key. -/
def heapId (key : Nat) : Nat := 4294967295 - key % 4294967296

/-- The priority of a heap key. -/
def heapPrio (key : Nat) : Nat := key / 4294967296

/-- Insertion into the queue, held by descending key; an equal key goes after the entry held. -/
def heapPut (e : HeapEntry) : List HeapEntry → List HeapEntry
  | [] => [e]
  | x :: xs => if x.key < e.key then e :: x :: xs else x :: heapPut e xs

/-- Insertion into a queue of `cap` entries (R259): a full queue keeps the greater of the new key and its least
key; the Boolean says that an entry was dropped. -/
def heapInsert (cap : Nat) (e : HeapEntry) (q : List HeapEntry) : List HeapEntry × Bool :=
  if q.length < cap then (heapPut e q, false) else ((heapPut e q).take cap, true)

/-- The capacity of the Heap engine (R257). -/
def heapCap : Nat := 65536

/-- A parent slot filled by an extraction (R264, R265): the ID, the merit at insertion and the visit count
after the increment; a void slot has none. -/
abbrev ParentSlot := Option (Nat × Nat × Nat)

/-- The extractions of a round (R264): up to `n` entries, one at a time, each re-inserted with a decayed
priority while its visit count is below VISIT_MAX. The counts are extractions of an empty heap and drops. -/
def heapRound (rf : RefineCfg) : Nat → List HeapEntry → List ParentSlot × List HeapEntry × Nat × Nat
  | 0, q => ([], q, 0, 0)
  | n + 1, [] =>
    let r := heapRound rf n []
    (none :: r.1, r.2.1, r.2.2.1 + 1, r.2.2.2)
  | n + 1, e :: q =>
    let v := e.visit + 1
    let p := heapPrio e.key
    let ins := if v < rf.visitMax then
        heapInsert heapCap ⟨heapKey (p - p / 2 ^ rf.decay) (heapId e.key), e.merit, v⟩ q else (q, false)
    let r := heapRound rf n ins.1
    (some (heapId e.key, e.merit, v) :: r.1, r.2.1, r.2.2.1, r.2.2.2 + bnat ins.2)

end Sys2Proof.Machine
end

