-- ==== Sys2Proof/Machine/ImageTypes.lean ====
section
/-! DEFINITION. The Structure Image as typed data (08_structure_image.md): profile entries, and the matter of each
section as the chapters that use it name it. The byte layout of PHASES is the spec's (R304); the other sections'
layouts are not in the spec and are parsed by constants of Config (notes/assumptions/2.md). -/

namespace Sys2Proof.Machine

/-- A profile entry of PHASES (R304). -/
structure PhaseEntry where
  profile   : Nat
  fitted    : Bool
  voteFits  : Bool
  minPeriod : Nat
  phases    : List (Nat × Nat)
  ingestCut : Nat
  cap       : Nat
  sweeps    : Nat
  ceLoss    : Nat
  reLoss    : Nat
  sweepNs   : Nat
  proposeNs : Nat
  commitNs  : Nat
  selectNs  : Nat
  deriving DecidableEq, Repr, Inhabited

/-- A profile entry from its 64 bytes (R304). -/
def decodePhaseEntry (bs : List Byte) : PhaseEntry :=
  { profile := fieldU bs 0 1, fitted := fieldU bs 1 1 % 2 == 1, voteFits := fieldU bs 1 1 / 2 % 2 == 1
    minPeriod := fieldU bs 2 2
    phases := (List.range 6).map fun i => (fieldU bs (4 + 4 * i) 2, fieldU bs (6 + 4 * i) 2)
    ingestCut := fieldU bs 0x1C 2, cap := fieldU bs 0x20 4, sweeps := fieldU bs 0x24 1
    ceLoss := fieldU bs 0x25 1, reLoss := fieldU bs 0x26 1, sweepNs := fieldU bs 0x28 4
    proposeNs := fieldU bs 0x2C 4, commitNs := fieldU bs 0x30 4, selectNs := fieldU bs 0x34 4 }

/-- Whether the reserved bytes of a profile entry are 0, and every field of an unfitted entry (R304, R617). -/
def phaseEntryClean (bs : List Byte) : Bool :=
  decide (fieldU bs 1 1 < 4) && allZero ((bs.drop 0x1E).take 2) && allZero ((bs.drop 0x27).take 1) &&
    allZero ((bs.drop 0x38).take 8) && decide (bs.length = 64)

/-- Start offset of phase `n` in µs. -/
def PhaseEntry.offset (e : PhaseEntry) (n : Nat) : Nat := (e.phases.getD n (0, 0)).1

/-- Budget of phase `n` in µs. -/
def PhaseEntry.budget (e : PhaseEntry) (n : Nat) : Nat := (e.phases.getD n (0, 0)).2

/-- The SELECT section (R252). -/
structure SelectCfg where
  kSurv  : Nat
  kFinal : Nat
  deriving DecidableEq, Repr, Inhabited

/-- A canary set of R224: 4 descriptors and 4 expected records. -/
structure CanarySet where
  descs  : List CanaryDesc
  expect : List SlotRec
  deriving DecidableEq, Repr, Inhabited

/-- The SAFETY section (R224, R288, R462, R474). -/
structure SafetyCfg where
  tile   : List Byte
  agents : List AgentRec
  sets   : List CanarySet
  aFb    : Int
  aEm    : Int
  nInv   : Nat
  tolPos : Nat
  tolHdg : Nat
  deriving DecidableEq, Repr, Inhabited

/-- The LINKS section of a multi-device system (R423). -/
structure LinksCfg where
  dims   : List Nat
  mesh   : List Bool
  box    : List Nat
  master : Nat
  leadUs : Nat
  kTable : Nat
  deriving DecidableEq, Repr, Inhabited

/-- The STREAMS entry of one ingest stream (R39, R83). -/
structure StreamCfg where
  types     : List Nat
  freshOnly : Bool
  staleUs   : Nat
  deriving DecidableEq, Repr, Inhabited

/-- The STREAMS section: the ingest streams in order, and the plan-record channel with its ring (R295, R402). -/
structure StreamsCfg where
  streams  : List StreamCfg
  planChan : Nat
  slots    : Nat
  slot64   : Nat
  deriving DecidableEq, Repr, Inhabited

/-- A task record of R323. -/
structure TaskRec where
  cls    : Nat
  phase  : Nat
  engine : Nat
  wait   : Nat
  buf    : Nat
  desc   : Nat
  succ   : Nat
  nsucc  : Nat
  free   : Nat
  nfree  : Nat
  deriving DecidableEq, Repr, Inhabited

/-- A task record from its 32 bytes (R323). -/
def decodeTask (bs : List Byte) : TaskRec :=
  { cls := fieldU bs 0 1, phase := fieldU bs 1 1, engine := fieldU bs 2 2, wait := fieldU bs 4 2
    buf := fieldU bs 6 2, desc := fieldU bs 8 8, succ := fieldU bs 0x10 2, nsucc := fieldU bs 0x12 2
    free := fieldU bs 0x14 2, nfree := fieldU bs 0x16 2 }

/-- The ENGINES section of one die (R303, R323, R331, R332): the task table, the successor and release lists, the
buffer table, and the fixed partitions of the Gallery by the page they start at. -/
structure EnginesCfg where
  tasks    : List TaskRec
  succs    : List Nat
  releases : List Nat
  /-- (PAGES, REF) of each buffer (R332) -/
  bufs     : List (Nat × Nat)
  /-- pages of the fixed partitions, in the order of R331 -/
  partPages : List Nat
  /-- window offset of agent slice 0 (R95) -/
  sliceBase  : Nat
  /-- window offset of anchor 0 (R118) -/
  anchorBase : Nat
  /-- window offset of the ranked survivor list (R252) -/
  survBase   : Nat
  /-- window offsets of the parent tables of the rounds (R265): one round's table holds every die's slots -/
  parentBase : List Nat
  /-- window offset of the final list (R253, R274) -/
  finalBase  : Nat
  /-- window offset of the node's own 64-byte entries in a planning group (R436, R437) -/
  entryBase  : Nat
  /-- window offset of the sample outputs of the final list's entries that no block of the image's graph runs (R278) -/
  outputBase : Nat
  /-- what the load writes into the Gallery: Overman's tables and the descriptors, by window offset (R315, R323) -/
  parts      : List (Nat × List Byte)
  /-- the same for what depends on the rank: rank, window offset, bytes (R434) -/
  rankParts  : List (Nat × Nat × List Byte)
  deriving DecidableEq, Repr, Inhabited

/-- Pages of the fixed partitions in all; the pool starts above them (R331). -/
def EnginesCfg.fixedPages (c : EnginesCfg) : Nat := c.partPages.foldl (· + ·) 0

/-- The ENGINES section of one die as it stands in the image: the tables that the load writes, each with its window
offset (R323, R332), and what the fields of `EnginesCfg` of the same names hold. -/
structure EnginesRaw where
  tasks    : Nat × List Byte
  succs    : Nat × List Byte
  releases : Nat × List Byte
  bufs     : Nat × List Byte
  partPages : List Nat
  sliceBase  : Nat
  anchorBase : Nat
  survBase   : Nat
  parentBase : List Nat
  finalBase  : Nat
  entryBase   : Nat
  outputBase : Nat
  /-- the descriptors, by window offset -/
  parts      : List (Nat × List Byte)
  rankParts  : List (Nat × Nat × List Byte)
  deriving DecidableEq, Repr, Inhabited

/-- A table of 16-bit words. -/
def wordsOf (bs : List Byte) : List Nat := (chunksOf 2 (bs.length / 2) bs).map fun b => fieldU b 0 2

/-- The tables decoded: 32 B a task, 2 B an index or a buffer number (R323), 4 B a buffer: PAGES, REF (R332). -/
def EnginesRaw.cfg (r : EnginesRaw) : EnginesCfg :=
  { tasks := (chunksOf 32 (r.tasks.2.length / 32) r.tasks.2).map decodeTask
    succs := wordsOf r.succs.2, releases := wordsOf r.releases.2
    bufs := (chunksOf 4 (r.bufs.2.length / 4) r.bufs.2).map fun b => (fieldU b 0 2, fieldU b 2 2)
    partPages := r.partPages, sliceBase := r.sliceBase, anchorBase := r.anchorBase, survBase := r.survBase
    parentBase := r.parentBase, finalBase := r.finalBase, entryBase := r.entryBase, outputBase := r.outputBase
    parts := [r.tasks, r.succs, r.releases, r.bufs] ++ r.parts, rankParts := r.rankParts }

/-- Whether the tables hold whole entries and their reserved bytes are 0 (R323, R332, R617). -/
def EnginesRaw.ok (r : EnginesRaw) : Bool :=
  decide (r.tasks.2.length % 32 = 0) && (chunksOf 32 (r.tasks.2.length / 32) r.tasks.2).all (fun b => allZero (b.drop 0x18)) &&
    decide (r.succs.2.length % 2 = 0 ∧ r.releases.2.length % 2 = 0 ∧ r.bufs.2.length % 4 = 0)

/-- The element formats of a tensor (R161, R170). -/
inductive Elem where
  | i4
  | i8
  | i32
  | e4m3
  | e5m2
  | bf16
  | f32
  deriving DecidableEq, Repr, Inhabited

/-- Bytes of one element; two int4 share a byte (R162). -/
def Elem.bytes : Elem → Nat
  | .i4 => 1
  | .i8 => 1
  | .e4m3 => 1
  | .e5m2 => 1
  | .bf16 => 2
  | .i32 => 4
  | .f32 => 4

/-- A tensor in the activation area of the policy buffer: rows padded to 64 B (R180). -/
structure TensorRef where
  base : Nat
  rows : Nat
  cols : Nat
  elem : Elem
  deriving DecidableEq, Repr, Inhabited

/-- The activations of R171 and ReLU. -/
inductive ActFn where
  | gelu
  | silu
  | tanh
  | sigmoid
  | relu
  deriving DecidableEq, Repr, Inhabited

/-- The fusable post-operations of R173. Constants are FP32 words per output channel, or one for all. -/
inductive PostOp where
  | biasI (b : List Int)
  | biasF (b : List Word)
  | scale (s : List Word)
  | act (f : ActFn)
  | residual (t : TensorRef)
  | requantI (m : List Int) (sh : List Nat)
  | requantF (inv : List Word)
  | convert (e : Elem)
  deriving DecidableEq, Repr, Inhabited

/-- The sources of an INPUT feature (R177, R178); `present` is the presence of an agent-mode at a sample (R92). -/
inductive FeatSrc where
  | ego (field : Nat)
  | route (pt field : Nat)
  | agent (mode t field : Nat)
  | present (mode t : Nat)
  | slice (b row col : Nat)
  | history (sample field : Nat)
  | state (off : Nat) (e : Elem)
  deriving DecidableEq, Repr, Inhabited

/-- One INPUT feature: its source, whether it is taken in the ego frame (R178), offset and scale (R177). -/
structure Feature where
  src      : FeatSrc
  egoFrame : Bool
  offset   : Word
  scale    : Word
  deriving DecidableEq, Repr, Inhabited

/-- The weights of one operation: the local addresses of its tiles on each die, K pass by K pass and within a pass in
ascending column tile (R180, R181), with the element format. -/
structure Weights where
  s0   : List Nat
  s1   : List Nat
  elem : Elem
  /-- bytes of them that are paged from the weight store (R181) -/
  paged : Nat
  deriving DecidableEq, Repr, Inhabited

/-- The operators of R173. -/
inductive PaOp where
  | input (y : TensorRef) (feats : List (List Feature))
  /-- `split`: the split point that the image sets, none for the default (R155); `kSplit`: the K-split mark (R156) -/
  | linear (x y : TensorRef) (w : Weights) (split : Option Nat) (kSplit : Bool) (post : List PostOp)
  | conv1d (x y : TensorRef) (w : Weights) (taps : Nat) (split : Option Nat) (kSplit : Bool) (post : List PostOp)
  /-- `split`: heads below it lie on S0; `mask`: keys with 0 are masked; `pInv`: inverse scale that requantises the
  probabilities for an integer product with V -/
  | attention (q k v y : TensorRef) (heads hd : Nat) (split : Option Nat) (mask : Option TensorRef) (scale pInv : Word)
      (post : List PostOp)
  | layernorm (x y : TensorRef) (gamma beta : List Word) (eps : Word) (post : List PostOp)
  | rmsnorm (x y : TensorRef) (gamma : List Word) (eps : Word) (post : List PostOp)
  | act (x y : TensorRef) (f : ActFn) (post : List PostOp)
  | add (x z y : TensorRef) (post : List PostOp)
  | mul (x z y : TensorRef) (post : List PostOp)
  | stateRead (y : TensorRef) (off : Nat)
  | stateWrite (x : TensorRef) (off : Nat)
  | toAnchors (x : TensorRef)
  | toTensor (x y : TensorRef)
  deriving DecidableEq, Repr, Inhabited

/-- One network of the POLICY section. -/
structure NetCfg where
  ops     : List PaOp
  flagged : Bool
  deriving DecidableEq, Repr, Inhabited

/-- Whether a GEMM or attention operation uses an FP8 or BF16 format (R168). -/
def PaOp.floating : PaOp → Bool
  | .linear _ _ w .. => w.elem != .i8 && w.elem != .i4
  | .conv1d _ _ w .. => w.elem != .i8 && w.elem != .i4
  | .attention q _ v .. => q.elem != .i8 || v.elem != .i8
  | _ => false

/-- Whether a network produces Class P results (R168). -/
def NetCfg.classP (n : NetCfg) : Bool := n.ops.any PaOp.floating

/-- The POLICY section (R180, R191, R303). -/
structure PolicyCfg where
  nets      : List NetCfg
  /-- recurrent state bytes, a multiple of 64 up to 256 KiB -/
  rstateLen : Nat
  /-- policy-buffer offsets of the two recurrent-state banks -/
  bank0     : Nat
  bank1     : Nat
  /-- policy-buffer offset of the paging area and bytes of each of its halves; offset and bytes of the activations (R180) -/
  pageBase  : Nat
  halfLen   : Nat
  actBase   : Nat
  actLen    : Nat
  /-- resident weights: (policy-buffer offset, bytes) for S0 and for S1 -/
  weights0  : List (Nat × List Byte)
  weights1  : List (Nat × List Byte)
  /-- bytes of the policy buffer that the partitions take on a die -/
  bufBytes  : Nat
  /-- highest DRAM offset, plus one, that the weight store takes on a die -/
  storeEnd  : Nat
  deriving DecidableEq, Repr, Inhabited

/-- An image with its checks passed: the header fields the registers show, and every section (R299, R303). -/
structure Image where
  digest   : List Byte
  minor    : Nat
  imageId  : Nat
  compiler : Nat
  slot     : Nat
  svn      : Nat
  entries  : List PhaseEntry
  engines0 : EnginesCfg
  engines1 : EnginesCfg
  world    : WorldCfg
  rollout  : RolloutCfg
  cost     : CostCfg
  policy   : PolicyCfg
  select   : SelectCfg
  refine   : RefineCfg
  safety   : SafetyCfg
  links    : Option LinksCfg
  streams  : StreamsCfg
  deriving DecidableEq, Repr, Inhabited

/-- The ENGINES part of a die. -/
def Image.engines (i : Image) : Die → EnginesCfg
  | .s0 => i.engines0
  | .s1 => i.engines1

/-- The check configuration of the sweep. -/
def Image.check (i : Image) : CheckCfg := ⟨i.world, i.rollout, i.cost⟩

/-- The fitted entry for a profile code, none when the profile is not fitted (R305). -/
def Image.entry (i : Image) (profile : Nat) : Option PhaseEntry :=
  i.entries.find? fun e => e.profile == profile && e.fitted

/-- Magic of an image: "LMSI" (R299). -/
def imageMagic : List Byte := [0x4C, 0x4D, 0x53, 0x49]

/-- A directory entry of R301. -/
structure DirEntry where
  id     : Nat
  flags  : Nat
  offset : Nat
  length : Nat
  crc    : Nat
  deriving DecidableEq, Repr, Inhabited

/-- The directory entries in use (R301). -/
def imageDir (bs : List Byte) : List DirEntry :=
  (List.range (fieldU bs 0x10 2)).map fun i =>
    let o := 0x40 + 16 * i
    { id := fieldU bs o 2, flags := fieldU bs (o + 2) 2, offset := fieldU bs (o + 4) 4
      length := fieldU bs (o + 8) 4, crc := fieldU bs (o + 12) 4 }

/-- The rules of R300 to R302 over header, directory and signature block. -/
def imageFormatOk (bs : List Byte) : Bool :=
  let total := fieldU bs 8 4
  let sig := fieldU bs 12 4
  let n := fieldU bs 0x10 2
  let dir := imageDir bs
  decide (fieldU bs 4 2 = 1) && decide (total % 64 = 0) && decide (sig % 64 = 0) && decide (total = sig + 896) &&
  decide (total ≤ 67108864) && decide (11 ≤ n ∧ n ≤ 16) &&
  allZero ((bs.drop 0x12).take 2) && allZero ((bs.drop 0x24).take 28) && decide (fieldU bs 0x19 1 < 8) &&
  allZero ((bs.drop (0x40 + 16 * n)).take (16 * (16 - n))) &&
  dir.all (fun e => decide (e.flags < 2) && decide (e.offset % 64 = 0) && decide (0x140 ≤ e.offset) &&
    decide (e.offset + e.length ≤ sig) && (decide (1 ≤ e.id ∧ e.id ≤ 11) || decide (e.flags = 1)) &&
    (decide (e.length ≠ 0) || decide (e.id = 0x0A))) &&
  (List.range 11).all (fun i => decide ((dir.filter fun e => e.id == i + 1).length = 1)) &&
  (List.range n).all (fun i => (List.range i).all fun j =>
    let a := dir.getD i default
    let b := dir.getD j default
    decide (a.offset + a.length ≤ b.offset ∨ b.offset + b.length ≤ a.offset)) &&
  allZero ((bs.drop (sig + 1)).take 63) && allZero ((bs.drop (sig + 0x340)).take 64)

/-- The bytes of the section with the identifier `id`. -/
def imageSection (bs : List Byte) (id : Nat) : List Byte :=
  match (imageDir bs).find? fun e => e.id == id with
  | some e => (bs.drop e.offset).take e.length
  | none => []

/-- The first section, in directory order, whose CRC differs (R316 check 10). -/
def imageBadCrc (bs : List Byte) : Option Nat :=
  (imageDir bs).findSome? fun e =>
    if (crc32 ((bs.drop e.offset).take e.length)).toNat == e.crc then none else some e.id

/-- The message the signature covers: bytes 0 to SIG_OFS + 63 (R310). -/
def signedMessage (bs : List Byte) (sig : Nat) : List Byte := bs.take (sig + 64)

/-- The modulus and the signature of the signature block at `sig` (R309). -/
def sigModulus (bs : List Byte) (sig : Nat) : List Byte := (bs.drop (sig + 0x40)).take 384

/-- The signature octets of the block at `sig` (R309). -/
def sigOctets (bs : List Byte) (sig : Nat) : List Byte := (bs.drop (sig + 0x1C0)).take 384

end Sys2Proof.Machine
end

