-- ==== Sys2Proof/Machine/Parsers.lean ====
section
/-! DEFINITION. The byte layouts the spec leaves to Brynnakin: the sections of an image other than PHASES (R303) and
the descriptors of the engine classes 0, 1 and 3 (R324). Each is a constant without a body, so every statement holds
whatever the layout is (notes/assumptions/2.md). -/

namespace Sys2Proof.Machine

/-- The work a rollout-engine descriptor names (R324 class 1): the block or regeneration, and where its records go.
`n0` is the first candidate, child or list index; the bases are local addresses of index 0. -/
structure ReDesc where
  /-- 0 lattice block, 1 refinement block, 2 direct-mode block of the final list, 3 recheck copy -/
  kind     : Nat
  n0       : Nat
  round    : Nat
  termBase : Nat
  collBase : Nat
  /-- base of the ID array that a refinement or list block writes, 0 for none -/
  idBase   : Nat
  /-- base of the sample outputs that a direct-mode block writes, 32 bytes each (R278) -/
  sampBase : Nat
  deriving DecidableEq, Repr, Inhabited

/-- The work a Heap descriptor names (R324 class 3). -/
structure HeapDesc where
  /-- 0 load from the survivor lists (R263), 1 expand a round (R264), 2 insert the children of a round (R269) -/
  kind  : Nat
  round : Nat
  /-- local addresses of the element lists to insert, with their lengths -/
  lists : List (Nat × Nat)
  deriving DecidableEq, Repr, Inhabited

end Sys2Proof.Machine

namespace Sys2Proof.Config
open Sys2Proof.Machine

/-- ENGINES (R303) of the die with the number `d`. -/
opaque parseEngines (d : Nat) (bs : List Byte) : Option EnginesRaw
/-- WORLD (R303). -/
opaque parseWorld (bs : List Byte) : Option WorldCfg
/-- ROLLOUT (R303). -/
opaque parseRollout (bs : List Byte) : Option RolloutCfg
/-- COST (R303). -/
opaque parseCost (bs : List Byte) : Option CostCfg
/-- POLICY (R303). -/
opaque parsePolicy (bs : List Byte) : Option PolicyCfg
/-- SELECT (R303). -/
opaque parseSelect (bs : List Byte) : Option SelectCfg
/-- REFINE (R303). -/
opaque parseRefine (bs : List Byte) : Option RefineCfg
/-- SAFETY (R303). -/
opaque parseSafety (bs : List Byte) : Option SafetyCfg
/-- LINKS (R303), a section of length 0 apart (R423). -/
opaque parseLinks (bs : List Byte) : Option LinksCfg
/-- STREAMS (R303). -/
opaque parseStreams (bs : List Byte) : Option StreamsCfg
/-- The index of the offending item that STRUCT.ERR_ITEM shows for a section that check 11 refuses (R316). -/
opaque badItem (section_ : Nat) (bs : List Byte) : Nat
/-- A policy-array descriptor (R324 class 0): network and operation index. -/
opaque parsePaDesc (bs : List Byte) : Option (Nat × Nat)
/-- A rollout-engine descriptor (R324 class 1). -/
opaque parseReDesc (bs : List Byte) : Option ReDesc
/-- A Heap descriptor (R324 class 3). -/
opaque parseHeapDesc (bs : List Byte) : Option HeapDesc

end Sys2Proof.Config
end

