-- ==== Sys2Proof/Machine/State.lean ====
section
/-! DEFINITION. The state of the block as plain data, and the state after reset. Each structure names the chapter whose
state it holds. BAR0 registers that hold their own value stand in `regs`; a register that shows typed state is computed
from it (Machine/Flags.lean), so no value has two homes. -/

namespace Sys2Proof.Machine

/-- Who raises a fault. -/
inductive Fault where
  /-- Raised by a command whose operands name nothing the device has (Sys2Proof.WellFormed): no such step exists in the
  spec. Safe. -/
  | illFormed
  deriving DecidableEq, Repr

/-- Who refuses a command. -/
inductive Refusal where
  /-- Raised by an arm of Dispatch that has no meaning yet. Safe. -/
  | notModelled (mnemonic : String)
  deriving DecidableEq, Repr

/-- The ordering codes of R1, as GLB.ID [7:4] tells them. -/
inductive Variant where
  | aq
  | av
  | as
  deriving DecidableEq, Repr, Inhabited

/-- The device states of R44 that software can read; OFF is no state of a powered device. -/
inductive Dev where
  | boot
  | ready
  | stopped
  | running
  | hold
  | faulted
  deriving DecidableEq, Repr, Inhabited

/-- The encoding of R44. -/
def Dev.code : Dev → Nat
  | .boot => 1
  | .ready => 2
  | .stopped => 3
  | .running => 4
  | .hold => 5
  | .faulted => 6

/-- An entry of the command queue of R46 and R564. -/
inductive CmdEntry where
  | cmd (code : Nat)
  | commit
  deriving DecidableEq, Repr, Inhabited

/-- What the device has driven to the outside, oldest first. -/
inductive Output where
  /-- a 32-bit read through BAR0 -/
  | read (w : Word)
  /-- a BAR2 read: status of R352, poisoned, data -/
  | window (status : Nat) (poison : Bool) (data : List Byte)
  /-- an MSI-X message: its vector, and the address and data of the vector's table entry (R370) -/
  | msix (v addr data : Nat)
  /-- a write to host memory; `ro`: it carries Relaxed Ordering = 1 (R372) -/
  | hostWrite (addr : Nat) (data : List Byte) (ro : Bool)
  /-- a read of host memory -/
  | hostRead (addr len : Nat)
  /-- a Deputy SPI response (R494) -/
  | spi (bs : List Byte)
  /-- an SMBus answer (R604) -/
  | smbus (bs : List Byte)
  /-- what a JTAG instruction shifts out (R551) -/
  | jtag (bits : Nat) (w : Word)
  /-- a flit on a Kornov port (R413): its virtual channel and 64 bytes -/
  | flit (port vc : Nat) (bs : List Byte)
  /-- a control block on a Kornov port: kind by its row of R417 (0 IDLE, 1 ACK, 2 NAK, 3 CREDIT, 4 TRAIN,
  5 MARK, 6 SNAPREQ, 7 BARRIER, 8 STOP, 9 RESET), and what it carries -/
  | control (port kind : Nat) (carries : List Nat)
  /-- the response of an operation performed for a node (R421): node, tag, status, data -/
  | response (node tag status : Nat) (data : List Byte)
  /-- a rise of TICK_OUT, within 10 ns after device time `t`, for 1 µs unless a `tickOutLow` follows (R25) -/
  | tickOut (t : Nat)
  /-- TICK_OUT goes low at device time `t` because the state leaves RUNNING within its pulse (R25) -/
  | tickOutLow (t : Nat)
  /-- VOUT_COMMAND written through the PMBus master to the regulator at an address: 0x60 for `VDD_S0`, 0x61 for `VDD_S1`; the
  setpoint in mV (R594) -/
  | pmbus (addr mv : Nat)
  /-- a toggle of DHB (R472) -/
  | dhb (level : Bool)
  deriving DecidableEq, Repr, Inhabited

/-- The command interface, the profile change and the pins that act on the state (01_tick, 16_register_map). -/
structure Sys where
  queue     : List CmdEntry
  /-- the head is a STOP or HOLD that waits for the boundary -/
  waitEdge  : Bool
  /-- device time at which that entry reached the head (R48) -/
  waitAt    : Nat
  /-- the head is a SAVE or RESTORE in progress, from the address it sampled, with the result of a SAVE -/
  waitSave  : Bool
  saveBase  : Nat
  saveResult : Nat
  /-- the head is a RECOVER in progress -/
  waitRec   : Bool
  lastCode  : Nat
  reason    : Nat
  seq       : Nat
  /-- HALT_N has been low for at least 1 µs and has not risen -/
  haltLow   : Bool
  perstLow  : Bool
  /-- the power-on reset is held: R597 has not been met since it began -/
  porHeld   : Bool
  /-- reset is asserted: RESET_RELEASE has not come (R597) -/
  inReset   : Bool
  /-- domain changes and clock switches of a profile change still in progress (R589) -/
  s1Change  : Bool
  /-- the profile change in progress powered S1 up (R60, R365) -/
  s1Rising  : Bool
  switch0   : Bool
  switch1   : Bool
  /-- device time of the commit that began the profile change -/
  changeAt  : Nat
  deriving DecidableEq, Repr, Inhabited

/-- The Tick block (01_tick). -/
structure Tick where
  /-- tick in progress, or last tick run -/
  num      : Nat
  /-- number of the next tick to release -/
  next     : Nat
  /-- a tick is in progress -/
  live     : Bool
  /-- T_k of the tick in progress, or of the last -/
  tk       : Nat
  /-- T of the tick before it (R42 for the first) -/
  prev     : Int
  /-- the tick to be released is the first after START or RESUME (R42) -/
  first    : Bool
  /-- NEXT_T that RESUME takes up: the plan history moves by T_0 less it (R515) -/
  nextT    : Option Nat
  /-- T_0 is awaited; T0 as sampled -/
  awaitT0  : Bool
  t0       : Nat
  /-- the expected next boundary -/
  expect   : Nat
  /-- correction of the boundary after the expected one (R21) -/
  corr     : Int
  /-- an in-window event has governed the window of the expected boundary -/
  seen     : Bool
  /-- the same for the window of the boundary last taken, which stays open for TOL after it (R21) -/
  seenLast : Bool
  good     : Nat
  missed   : Nat
  locked   : Bool
  lost     : Bool
  /-- device-time slew still to apply (R430) -/
  slew     : Int
  /-- PHASE of TICK.STATUS: 0 to 5, 6 slack, 7 none -/
  phase    : Nat
  /-- phases released in the tick: 0 to 6 -/
  rel      : Nat
  /-- remaining work of the tick is stopped (R32, R189) -/
  stopped  : Bool
  /-- T_k is T_0 (R19): the boundary has no window of R21, and no tick of the session came before (R42) -/
  atT0     : Bool
  /-- device time from which the TICK_OUT pulse of the tick runs for 1 µs (R25) -/
  rise     : Option Nat
  /-- TICK.INVALID_RUN as the tick before left it (R36) -/
  runIn    : Nat
  deriving DecidableEq, Repr, Inhabited

/-- An entry of the final list (R275 to R278). -/
structure FinalEntry where
  id      : Nat
  /-- the merit that ranks the entry in the list -/
  listed  : Nat
  /-- its final merit (R278) -/
  merit   : Nat
  terms   : Terms
  slot    : SlotRec
  samples : List Sample
  checked : Bool
  deriving DecidableEq, Repr, Inhabited

/-- A mismatch held for the vote pass (R282): kind 0 final clearance, 1 sweep or round record, 2 merge. -/
structure VoteItem where
  kind    : Nat
  id      : Nat
  /-- list position of an entry, index of a slot in its sweep or round -/
  n       : Nat
  /-- the two copies' record pairs of 48 bytes, S0's and the other (R280, R281) -/
  mine    : List Byte
  other   : List Byte
  /-- merge: MERIT_HI, MERIT_LO and the dies of their lists (R249) -/
  hi      : Nat
  lo      : Nat
  dieHi   : Nat
  dieLo   : Nat
  /-- the merge returned the ID -/
  inList  : Bool
  deriving DecidableEq, Repr, Inhabited

/-- A block of a CROSSWIND sweep or round that a die has ended, not yet compared: the record pairs of its 1,024 slots as its end
left them, of S1 the copy that goes to S0 (R281). -/
structure EndedBlock where
  die   : Die
  kind  : Nat
  round : Nat
  n0    : Nat
  pairs : List (List Byte)
  deriving DecidableEq, Repr

/-- An urgent delta held for final clearance (R110, R112). -/
structure UrgentDelta where
  agent   : Nat
  remove  : Bool
  modes   : List AgentMode
  stamp   : Nat
  arrival : Nat
  stream  : Nat
  late    : Bool
  deriving DecidableEq, Repr, Inhabited

/-- The plan of the tick in progress and the plan history (07_refine_output). -/
structure Plan where
  /-- reason of INVALID detected first (R37, R292) -/
  cause     : Option Nat
  /-- device time of that detection: causes of one cycle rank by their codes (R37, R292) -/
  causeAt   : Nat
  /-- a fault contained in the tick, after which the carry-over state is as after an overrun (R35, R500) -/
  lost      : Bool
  degraded  : Bool
  timeoutDeg : Bool
  late      : Bool
  dense     : Bool
  final     : List FinalEntry
  /-- record pairs of the pass's blocks: kind (2 the entry, 3 its recheck copy), list position, 48 bytes (R278, R280) -/
  passRecs  : List (Nat × Nat × List Byte)
  ended     : List EndedBlock
  votesDue  : List VoteItem
  votes     : Nat
  taken     : List UrgentDelta
  /-- final-clearance pass ended; walk-down done -/
  passed    : Bool
  walked    : Bool
  /-- the record formed for the tick -/
  record    : Option (List Byte)
  /-- the record has been handed to its egress channel, or dropped -/
  handed    : Bool
  /-- verdict issued on the tick's record: 1 PASS, 2 FAIL, 3 RETRACT -/
  judged    : Option Nat
  history   : Option (List Byte)
  /-- networks completed this tick, runs included; pending recurrent bank valid -/
  proposeOk : Bool
  votedNets : Nat
  deriving DecidableEq, Repr, Inhabited

/-- The matter of an ingest item (R82). -/
inductive Matter where
  | tile (slot : Nat) (tx ty : Int) (cells : List Byte)
  | dir (slot : Nat) (tx ty : Int) (valid : Bool)
  | agent (a : Nat) (modes : List AgentMode)
  | ego (e : EgoState)
  | route (pts : List RoutePoint)
  deriving DecidableEq, Repr, Inhabited

/-- A staged item (R89). -/
structure Staged where
  stream  : Nat
  stamp   : Nat
  arrival : Nat
  late    : Bool
  /-- an agent copy of an URGENT item (R110) -/
  copy    : Bool
  size    : Nat
  matter  : Matter
  deriving DecidableEq, Repr, Inhabited

/-- Per-stream state and counters of the World block. -/
structure Stream where
  lastSeq : Option Nat
  acc     : Nat
  rej     : Nat
  late    : Nat
  /-- chains begun on the stream: the number of the chain in progress or last run -/
  chain   : Nat
  /-- the chain whose rest is discarded (R84) -/
  skip    : Option Nat
  /-- bytes of the chain in progress of which no whole item has come (R80) -/
  part    : List Byte
  /-- items that have arrived and have not been taken up: arrival, chain and bytes (R80) -/
  inbox   : List (Nat × Nat × List Byte)
  /-- items held for staging space, or until the boundary that judges them is known: the same (R89) -/
  held    : List (Nat × Nat × List Byte)
  /-- the channel is held for staging space until a commit frees some (R89) -/
  full    : Bool
  deriving DecidableEq, Repr, Inhabited

/-- A stream at reset. -/
def Stream.idle : Stream := ⟨none, 0, 0, 0, 0, none, [], [], [], false⟩

/-- The targets of R87. -/
inductive Target where
  | tile (tx ty : Int)
  | agent (a : Nat)
  | ego
  | route
  | urgent (a : Nat)
  deriving DecidableEq, Repr, Inhabited

/-- The part of a commit in progress that works on DRAM and the slices (R104 steps 1, 3 and 4): the TILE and DIR items taken,
and what its reads meet. -/
structure HeldCommit where
  items : List Staged
  met   : CommitMet
  deriving DecidableEq, Repr, Inhabited

/-- The World block (02_world). -/
structure World where
  streams  : List Stream
  staged   : List Staged
  stamps   : List (Target × Nat)
  urgents  : List UrgentDelta
  ego      : Option EgoState
  egoAge   : Nat
  route    : List RoutePoint
  modes    : List AgentMode
  epoch    : Nat
  busy     : Bool
  /-- the tick in progress has begun its commit -/
  begun    : Bool
  /-- no commit since START: every tile of the slice is loaded by the next (R77) -/
  fresh    : Bool
  /-- staging bytes of the items taken, free when the commit ends (R89) -/
  leaving  : Nat
  /-- the commit in progress applied an EGO item -/
  egoNew   : Bool
  /-- device time the commit in progress began -/
  began    : Nat
  /-- the commit in progress waits for the front of a DRAM's initialisation (R359) -/
  held     : Option HeldCommit
  stale    : Bool
  syncing  : Bool
  urgTaken : Nat
  deriving DecidableEq, Repr, Inhabited

/-- Roles of a collision engine (R195). -/
inductive CeRole where
  | serving
  | spare
  | test
  | retired
  deriving DecidableEq, Repr, Inhabited

/-- A collision engine's service state (R195 to R198). -/
structure CeUnit where
  role     : CeRole
  logical  : Nat
  canaryOk : Bool
  testOk   : Bool
  /-- slices completed since it entered test, and whether one failed -/
  slices   : Nat
  failed   : Bool
  /-- retires at the next boundary or rotation point -/
  condemned : Bool
  deriving DecidableEq, Repr, Inhabited

/-- A spare engine at reset (CE.ENG_STATUS). -/
def CeUnit.idle : CeUnit := ⟨.spare, 127, true, true, 0, false, false⟩

/-- A block on a rollout engine: the descriptor, its task, and the accumulator set in use (R222). -/
structure ReWork where
  engine : Nat
  task   : Nat
  desc   : ReDesc
  accSet : Nat
  deriving DecidableEq, Repr, Inhabited

/-- A Select operation held by an engine (R237): the descriptor handed over, and whether software issued it. -/
structure SelWork where
  engine : Nat
  desc   : SelDesc
  sw     : Bool
  /-- KEYINS: its chains have been issued: the cycles waited, the chains, and the first status other than DONE -/
  started : Bool
  stall  : Nat
  chains : Nat
  err    : Nat
  /-- KEYINS: steps of chains that wait to be issued, slot and key: behind 16 in flight, or behind a FENCE (R242, R349) -/
  todo   : List (Nat × Nat)
  deriving DecidableEq, Repr, Inhabited

/-- A task on an engine (R326). -/
structure Running where
  cls    : Nat
  engine : Nat
  task   : Nat
  /-- the task's work is done and its completion waits on a full list (R328) -/
  ended  : Bool
  /-- mover: first status other than DONE, and how far it is: 0 PUTs outstanding, 1 SIGNAL outstanding, 2 done (R336) -/
  status : Nat
  stage  : Nat
  /-- what the engine has of its descriptor, handed over at dispatch with its references resolved (R334): class 0 the
  network and operation, class 3 the Heap descriptor, class 4 destination and SIG -/
  op     : Option (Nat × Nat)
  heap   : Option HeapDesc
  target : Nat × Nat
  /-- class 2 -/
  sel    : Option SelDesc
  /-- class 5: the 32 bytes of the chain's first descriptor -/
  body   : List Byte
  deriving DecidableEq, Repr, Inhabited

/-- Overman of a die (R323 to R335). -/
structure Ovm where
  lists    : List (List Nat)
  /-- entries that wait for room, by class -/
  waiting  : List (List Nat)
  arrivals : List (Nat × Nat)
  running  : List Running
  /-- allocated buffers: number, first page, pages, releases still to come -/
  bufs     : List (Nat × Nat × Nat × Nat)
  /-- tasks completed this tick -/
  done     : List Nat
  /-- tasks that have entered a list this tick -/
  entered  : List Nat
  peaks    : List Nat
  minFree  : Nat
  /-- device time up to which the back-pressure in progress has been counted (R328) -/
  bpAt     : Nat
  /-- tasks that wait for pages, each with the device time up to which its wait has been counted (R333) -/
  starved  : List (Nat × Nat)
  deriving DecidableEq, Repr, Inhabited

/-- Overman with nothing in its lists. -/
def Ovm.idle : Ovm := ⟨List.replicate 6 [], List.replicate 6 [], [], [], [], [], [], List.replicate 6 0, 0, 0, []⟩

/-- Where a chain stands (R393 to R399). -/
inductive ChainStep where
  /-- the next descriptor is to be read and checked -/
  | fetch
  /-- the descriptor is held: trigger, allowance or START (R395 to R397) -/
  | held
  /-- the descriptor moves data -/
  | moving
  /-- reads from other nodes are outstanding -/
  | reading
  /-- writes to other nodes are outstanding -/
  | writing
  /-- the flush read is outstanding -/
  | flush
  /-- completion records wait on the full ring (R401) -/
  | record
  deriving DecidableEq, Repr, Inhabited

/-- A chain in progress. -/
structure Chain where
  desc   : Nat
  index  : Nat
  step   : ChainStep
  body   : List Byte
  sg     : List Byte
  status : Nat
  bytes  : Nat
  total  : Nat
  /-- address of the last word written to host memory -/
  last   : Nat
  /-- the trigger event has come since the descriptor was reached -/
  fired  : Bool
  /-- pieces read from another node: offset and bytes -/
  got    : List (Nat × List Byte)
  /-- completion records still to write: STATUS and FLAGS -/
  recs   : List (Nat × Nat)
  deriving DecidableEq, Repr, Inhabited

/-- A Stope die (03 to 09): power, units, engines' work, the map pager's and Overman's state. -/
structure DieState where
  /-- CLKPWR.DOMAIN: 0 off, 1 powering up, 2 on, 3 draining -/
  power    : Nat
  forced   : Bool
  isolated : Bool
  ces      : List CeUnit
  /-- test slices running: class, unit, start time (R484) -/
  slices   : List (Nat × Nat × Nat)
  reOut    : List Nat
  rePend   : List Nat
  seOut    : List Nat
  sePend   : List Nat
  heapOut  : Bool
  heapPend : Bool
  rowOut   : List Nat
  rowPend  : List Nat
  /-- a common partition or a shared memory failed (R545) -/
  common   : Bool
  rowTest  : Nat
  rowFail  : Bool
  ceFail   : Bool
  /-- next time step of each engine in its block (R219) -/
  steps    : List Nat
  /-- the time step in progress and the largest sum of sample times met in it (R220) -/
  stepTop  : Nat × Nat
  /-- blocks on the rollout engines -/
  reWork   : List ReWork
  /-- accumulator set that the next block of each rollout engine uses (R222) -/
  accFlip  : BitVec 16
  sel      : List SelWork
  /-- descriptors of software whose read waits for the front of a DRAM's initialisation: engine and address (R237, R359) -/
  selFetch : List (Nat × Nat)
  heap     : List HeapEntry
  /-- rounds completed and expanded in the tick (HEAP.STATUS) -/
  rounds   : Nat
  round    : Nat
  roundOn  : Bool
  /-- the survivor list before each round completed in the tick wrote its own (R269, R271) -/
  survs    : List (List Byte)
  /-- the arithmetic PLL lost lock in the tick in progress: the die's engines take nothing more of it (R590) -/
  clockCut : Bool
  paNet    : Nat
  paOp     : Nat
  paBusy   : Bool
  paRun    : Nat
  /-- output tensors and state writes of the flagged network in its second or third run, the half that this die computes
  again: the first run's bytes, and the second run's (R187, R188) -/
  paFirst  : List Byte
  paSecond : List Byte
  /-- what the halves of the paging area hold: network, operation and the die whose columns they are (R181) -/
  paHalves : List (Option (Nat × Nat × Nat))
  /-- an uncorrectable error has stopped the network, and with it PROPOSE (R182) -/
  paStopped : Bool
  missing  : BitVec 64
  tx0      : Int
  ty0      : Int
  ovm      : Ovm
  peerUp   : Bool
  hubUp    : Bool
  /-- internal Haulage chains in progress: channel, whether a task runs it, and the chain -/
  ihaul    : List (Nat × Bool × Chain)
  /-- bytes of world slices that differ from the die's broadcast content (R74, R201) -/
  sliceOv  : List Host.Cell
  /-- Gallery requesters that lost and have not been served since (R344): port A by index, port B from 128 on -/
  losers   : List Nat
  /-- conflicts that each has lost since START, saturating at 32 bits -/
  losses   : List (Nat × Nat)
  /-- the next rollout and the next Select engine of the in-field test's rotation (R484) -/
  reTest   : Nat
  seTest   : Nat
  /-- the age base of the in-field test (R486): device time from which an untested unit's age counts, and of each unit's last
  completed slice: class, unit, time. They move with a device time that is set, since the Deputy's own clock is not -/
  since    : Int
  tested   : List (Nat × Nat × Int)
  deriving DecidableEq, Repr, Inhabited

/-- A load in progress (R315): the image as step 1 or pass 1 read it, the step reached, and the profile in force at the LOAD, from
whose entry the values of R305 stay computed until the load ends (R320). -/
structure Loading where
  src   : Nat
  len   : Nat
  step  : Nat
  bytes : List Byte
  profile : Nat
  /-- the image once checks 1 to 12 have passed (R316): in step 6 pass 2 has written its contents (R320) -/
  kept  : Option Image
  deriving DecidableEq, Repr, Inhabited

/-- A ring-mode record (R403): kind 0 plan, 1 trace; its bytes. -/
structure Feed where
  kind  : Nat
  bytes : List Byte
  deriving DecidableEq, Repr, Inhabited

/-- A host-side Haulage channel (10_host_haulage). -/
structure Chan where
  queue   : List Nat
  chain   : Option Chain
  paused  : Bool
  pausing : Bool
  stopping : Bool
  status  : Nat
  cur     : Nat
  /-- device-fed records not yet handed to the channel, oldest first -/
  feeds   : List Feed
  /-- the record being delivered, with the first slot index -/
  sending : Option (Feed × Nat)
  deriving DecidableEq, Repr, Inhabited

/-- A channel at reset. -/
def Chan.idle : Chan := ⟨[], none, false, false, false, 0, 0, [], none⟩

/-- What the configuration space of the function holds beside the read-only values of R367 (R371 to R374). No row of the
table writes configuration space; its values at reset are those of PCI Express (notes/assumptions/112.md). -/
structure PciCfg where
  /-- Device Control: Max_Payload_Size in bytes, of at most 512 -/
  maxPayload : Nat
  /-- Device Control: Max_Read_Request_Size in bytes, of at most 4,096 -/
  maxRead    : Nat
  /-- Device Control: Enable Relaxed Ordering (R372) -/
  relaxed    : Bool
  /-- AER capability: ECRC generation and checking enabled (R371) -/
  ecrcGen    : Bool
  ecrcCheck  : Bool
  /-- AER capability: the errors of R374 reported, as bits of the Uncorrectable Error Status register -/
  aerStatus  : Word
  deriving DecidableEq, Repr, Inhabited

/-- A BAR2 access as it arrived (R377 to R381): window offset, the global address that it had then, bytes; for a read what it
met, for a write its data and the words that port A wrote meanwhile. A FENCE of the window stands between them as an entry
(R347, R349). -/
structure WinAcc where
  fence : Bool
  write : Bool
  ofs   : Nat
  addr  : Option Nat
  len   : Nat
  fault : Nat
  data  : List Byte
  raced : List Nat
  deriving DecidableEq, Repr, Inhabited

/-- The PCIe function (10_host_haulage). -/
structure HostPort where
  up     : Bool
  d3     : Bool
  mask   : BitVec 64
  pba    : BitVec 64
  /-- PV allowance in force this tick, KiB, and whether a PV descriptor has started in it (R397) -/
  pace   : Nat
  pvDone : Bool
  /-- bytes of the allowance spent in the tick -/
  spent  : Nat
  /-- BAR2 accesses and FENCEs of the window that wait, in arrival order (R347, R349, R359, R381) -/
  reads  : List WinAcc
  /-- the MSI-X table of BAR4: message address and data of each vector (R370) -/
  vectors : List (Nat × Nat)
  /-- Function Mask, or MSI-X Enable clear: every vector is masked (R384) -/
  allOff : Bool
  /-- host-side channels that lost the link to another since they were last served (R398) -/
  losers : List Nat
  /-- what the function's configuration space holds -/
  cfg    : PciCfg
  deriving DecidableEq, Repr, Inhabited

/-- A flit that waits at a port: its virtual channel, whether it begins its packet, whether that is a response. -/
structure WaitFlit where
  vc       : Nat
  first    : Bool
  response : Bool
  flit     : List Byte
  /-- it ends its packet -/
  last     : Bool
  /-- its number on the port that it came on: the copies of a broadcast's flit that leave on several ports share it -/
  num      : Nat
  /-- the port in whose receive buffer it lies (R419); 6 for a packet of this node, 7 for one of this node's broadcast -/
  src      : Nat
  /-- its virtual channel on that port -/
  vcIn     : Nat
  deriving DecidableEq, Repr, Inhabited

/-- A packet that passes through a port's receive buffer while it arrives (R422): the ports and the virtual channels on which
it leaves (none once its ways went down), whether it is taken here too (a broadcast), its own virtual channel, whether it is a
response, and its flits yet to come. -/
structure Cut where
  outs     : List (Nat × Nat)
  here     : Bool
  vcIn     : Nat
  response : Bool
  left     : Nat
  deriving DecidableEq, Repr, Inhabited

/-- A Kornov port (11_kornov_links). -/
structure Port where
  up       : Bool
  spare    : Bool
  miswired : Bool
  lanes    : Nat
  node     : Nat
  wire     : Nat
  /-- number of the next flit expected -/
  rxNext   : Nat
  /-- failures in a row of that flit -/
  fails    : Nat
  txNext   : Nat
  /-- flits sent and not acknowledged, oldest first, each with its number (R415) -/
  replay   : List (Nat × WaitFlit)
  /-- NAKs in a row that name the oldest of them -/
  naks     : Nat
  credit0  : Nat
  credit1  : Nat
  /-- flits that wait for a credit or for replay space -/
  waiting  : List WaitFlit
  /-- packet bytes received and not yet a whole packet -/
  part     : List Byte
  /-- the packet that passes through while it arrives -/
  cut      : Option Cut
  /-- the source of the packet whose first flits have left and whose last has not: no other packet's flit may leave -/
  tail     : Option Nat
  /-- the first flit of the packet of which it has been acknowledged and the last has not (R412, R415) -/
  begun    : Option WaitFlit
  deriving DecidableEq, Repr, Inhabited

/-- A port at reset. -/
def Port.idle : Port := ⟨false, false, false, 0, 0, 0, 0, 0, 0, [], 0, 64, 64, [], [], none, none, none⟩

/-- Who issued a remote operation that is outstanding (R347). -/
inductive Issuer where
  /-- a KEYINS chain of a Select engine: the key carried, its slot, the table and its length (R254) -/
  | chain (d : Die) (e x r tab k : Nat)
  | mover (d : Die)
  /-- the host window: direction, window offset and bytes -/
  | window (write : Bool) (ofs len : Nat)
  /-- a partial word that the host window writes at another node (R380): window offset, global address of its bytes, the bytes, and
  the word as read before -/
  | merge (ofs addr : Nat) (data : List Byte) (old : Option (List Byte))
  /-- Select engine e of S0, whose merge sends its group's final list (R436) -/
  | list (e : Nat)
  /-- a host-side channel (its set index) or an internal one (140 + 32 d + c): offset in the descriptor's data -/
  | channel (ch ofs : Nat)
  deriving DecidableEq, Repr, Inhabited

/-- An outstanding remote operation. -/
structure RemoteOp where
  tag    : Nat
  issuer : Issuer
  port   : Nat
  deriving DecidableEq, Repr, Inhabited

/-- A remote operation performed for a node that waits for the front of a DRAM's initialisation (R359). -/
structure StalledOp where
  op    : Nat
  src   : Nat
  tag   : Nat
  addr  : Nat
  len   : Nat
  fault : Nat
  data  : List Byte
  deriving DecidableEq, Repr, Inhabited

/-- The Kornov block (11_kornov_links). -/
structure Klink where
  ports    : List Port
  ops      : List RemoteOp
  nextTag  : Nat
  entered  : Bool
  epoch    : Bool
  gathered : List Nat
  bcasting : Bool
  /-- pieces of this node's broadcast that wait for the front of a DRAM's initialisation: source, destination, bytes, packets that
  follow (R359, R442) -/
  bcastDue : List (Nat × Nat × Nat × Nat)
  snapAt   : Option Nat
  /-- a snapshot that waits for the front of a DRAM's initialisation: base and bytes (R359, R443) -/
  snapDue  : Option (Nat × List Byte)
  /-- the tick of the last snapshot request passed on -/
  snapSeen : Option Nat
  /-- floods seen, newest first: a reset flood, sequence -/
  floods   : List (Bool × Nat)
  floodSeq : Nat
  coordBad : Bool
  /-- issuers but the window whose FENCE waits for their earlier operations (R347, R349), numbered as Instr.fence numbers them -/
  fences   : List Nat
  /-- operations for other nodes that wait for the front of a DRAM's initialisation -/
  stalled  : List StalledOp
  deriving DecidableEq, Repr, Inhabited

/-- A stored record of the Deputy's mirror (R455). -/
structure DepRec where
  dx  : Int
  dy  : Int
  hdg : Nat
  hl8 : Nat
  hw8 : Nat
  p8  : Nat
  deriving DecidableEq, Repr, Inhabited

/-- The Deputy (12_deputy_safety). -/
structure Deputy where
  safe     : Bool
  cause    : Nat
  /-- causes of R476 whose condition persists -/
  present  : List Nat
  invRun   : Nat
  /-- the run that the last PASS ended -/
  passRun  : Nat
  tick     : Nat
  epoch    : Nat
  /-- T_k as the Deputy observed it -/
  tk       : Nat
  ego      : Option EgoState
  /-- (agent-mode index, sample, record) of the committed and of the urgent set -/
  modes    : List (Nat × Nat × DepRec)
  urgent   : List (Nat × Nat × DepRec)
  urgCount : Nat
  slice    : List Host.Cell
  missing  : BitVec 64
  mirrorBad : Bool
  /-- (die, completed, mismatched) of the tick's canary slots (R483) -/
  canary   : List (Nat × Nat × Nat)
  /-- the record under check, and the time of its hand-over -/
  check    : Option (List Byte × Nat)
  /-- the last 16 verdicts, newest first -/
  verdicts : List (List Byte)
  shown    : List Byte
  injRun   : Bool
  injOk    : Bool
  dhb      : Bool
  irq      : Bool
  thermLow : Bool
  deriving DecidableEq, Repr, Inhabited

/-- A Tally entry before its LINK is known: SEQ, severity, code and the 56 bytes 0x00 to 0x37 (R520). -/
structure TallyEntry where
  seq   : Nat
  sev   : Nat
  code  : Nat
  bytes : List Byte
  deriving DecidableEq, Repr, Inhabited

/-- The Tally log (13_recovery_tally). -/
structure Tally where
  staged  : List TallyEntry
  /-- entries written and retained, newest first: SEQ and 64 bytes -/
  written : List (Nat × List Byte)
  nextSeq : Nat
  link    : List Byte
  tokens  : Nat
  /-- suppressed and not yet reported: count, first and last code (R523) -/
  supp    : Nat × Nat × Nat
  /-- not staged and not yet reported (R522) -/
  lost    : Nat
  erases  : List Nat
  erasing : Option Nat
  ready   : Bool
  dumping : Option (Nat × List (Nat × List Byte))
  deriving DecidableEq, Repr, Inhabited

/-- A customer key slot of the OTP (R547, R549). -/
structure KeySlot where
  hash        : List Byte
  provisioned : Bool
  revoked     : Bool
  partlySet   : Bool
  minSvn      : Nat
  deriving DecidableEq, Repr, Inhabited

/-- A blank slot. -/
def KeySlot.blank : KeySlot := ⟨[], false, false, false, 0⟩

/-- An OTP command in progress (R548). -/
inductive OtpWork where
  | provision (slot : Nat) (hash : List Byte)
  | revoke (slot : Nat)
  | raise (slot svn : Nat)
  | raiseFw (svn : Nat)
  deriving DecidableEq, Repr, Inhabited

/-- Fuses, OTP and the trust state (14_boot_trust_bist). -/
structure Sec where
  variant    : Variant
  vendorHash : List Byte
  vendorMin  : Nat
  slots      : List KeySlot
  serial     : Nat
  jtagLocked : Bool
  columns    : List Nat
  /-- container last programmed into the flash slot, none before the first programming -/
  flash      : Option (List Byte)
  otp        : Option OtpWork
  flashing   : Option (List Byte)
  report     : Option (List Byte × Nat)
  deriving DecidableEq, Repr, Inhabited

/-- A BIST run in progress: die mask, kind mask; by command 0, power-on 1, RECOVER 2. -/
structure BistRun where
  dies : Nat
  kind : Nat
  by_  : Nat
  deriving DecidableEq, Repr, Inhabited

/-- BIST control. -/
structure Bist where
  run  : Option BistRun
  /-- the last LBIST run: dies covered, and the partitions that failed -/
  lbistDies : Nat
  fails : List BistFail
  deriving DecidableEq, Repr, Inhabited

/-- Clock and power control (16_register_map, 17_package). -/
structure Power where
  rails   : Nat
  /-- CLKPWR.CLK_STATUS [6:0] -/
  clocks  : Nat
  mhz0    : Nat
  mhz1    : Nat
  mv0     : Nat
  mv1     : Nat
  deriving DecidableEq, Repr, Inhabited

/-- A pending value of a shadowed register (R563): the mask of its fields that hold one, and the value there. -/
structure ShPend where
  off  : Nat
  mask : Word
  val  : Word
  deriving DecidableEq, Repr, Inhabited

/-- A byte of a configuration register whose parity is wrong (R577, R578): offset, byte, in a pending value; `found`: a check has
found it. -/
structure BadReg where
  off     : Nat
  byte    : Nat
  pending : Bool
  found   : Bool
  deriving DecidableEq, Repr, Inhabited

/-- The state of the LM8400. -/
structure State where
  /-- the commands that wait, first in, first out -/
  pending : List Instr
  /-- the model's own count of free values used (notes/assumptions/3.md) -/
  free    : Nat
  dev     : Dev
  /-- device time in ns, and whether it runs (R17) -/
  now     : Nat
  timeOn  : Bool
  /-- the tick in progress or last run since power-up (the TICK field of R520) -/
  ticked  : Option Nat
  seed    : DWord
  regs    : List (Nat × Word)
  latches : List (Nat × Word)
  sh      : List ShPend
  badRegs : List BadReg
  mem     : List Host.Cell
  sys     : Sys
  tick    : Tick
  plan    : Plan
  world   : World
  d0      : DieState
  d1      : DieState
  image   : Option Image
  damaged : Bool
  loading : Option Loading
  chans   : List Chan
  host    : HostPort
  kl      : Klink
  dep     : Deputy
  tally   : Tally
  sec     : Sec
  bist    : Bist
  power   : Power
  out     : List Output
  deriving DecidableEq, Repr, Inhabited

/-- The state of a die. -/
def State.die (s : State) : Die → DieState
  | .s0 => s.d0
  | .s1 => s.d1

/-- The state with a die replaced. -/
def State.setDie (s : State) (d : Die) (x : DieState) : State :=
  match d with
  | .s0 => { s with d0 := x }
  | .s1 => { s with d1 := x }

/-- A Stope die at reset: off, its engines in the reset roles of CE.ENG_STATUS. -/
def DieState.reset : DieState :=
  { power := 0, forced := false, isolated := false, ces := List.replicate 68 CeUnit.idle, slices := []
    reOut := [], rePend := [], seOut := [], sePend := [], heapOut := false, heapPend := false, rowOut := []
    rowPend := [], common := false, rowTest := 0, rowFail := false, ceFail := false, steps := List.replicate 68 0
    stepTop := (0, 0)
    reWork := [], accFlip := 0, sel := [], heap := [], rounds := 0, round := 0, roundOn := false, survs := [],
    selFetch := [], clockCut := false, paNet := 0, paOp := 0
    paBusy := false, paRun := 0, paFirst := [], paSecond := [], paHalves := [none, none], paStopped := false, missing := BitVec.allOnes 64,
    tx0 := 0, ty0 := 0, ovm := Ovm.idle
    peerUp := false, hubUp := false, ihaul := [], sliceOv := [], losers := [], losses := [], reTest := 0, seTest := 0, since := 0, tested := [] }

/-- The command interface at reset. -/
def Sys.reset : Sys :=
  { queue := [], waitEdge := false, waitAt := 0, waitSave := false, saveBase := 0, saveResult := 0, waitRec := false
    lastCode := 0, reason := 0, seq := 0, haltLow := false, perstLow := false, porHeld := true, inReset := true, s1Change := false, s1Rising := false
    switch0 := false, switch1 := false, changeAt := 0 }

/-- The Tick block at reset: no tick running (TICK.STATUS). -/
def Tick.reset : Tick :=
  { num := 0, next := 0, live := false, tk := 0, prev := 0, first := false, nextT := none, awaitT0 := false, t0 := 0, expect := 0, corr := 0
    seen := false, seenLast := false, good := 0, missed := 0, locked := false, lost := false, slew := 0, phase := 7, rel := 0, stopped := false
    atT0 := false, rise := none, runIn := 0 }

/-- The plan of a tick that has not begun; the history stands apart. -/
def Plan.fresh (history : Option (List Byte)) : Plan :=
  { cause := none, causeAt := 0, lost := false, degraded := false, timeoutDeg := false, late := false, dense := false, final := []
    passRecs := [], ended := [], votesDue := [], votes := 0, taken := [], passed := false, walked := false, record := none, handed := false
    judged := none, history := history, proposeOk := false, votedNets := 0 }

/-- The World block at reset: EGO_AGE 0xFF, nothing staged. -/
def World.reset : World :=
  { streams := List.replicate 128 Stream.idle, staged := [], stamps := [], urgents := [], ego := none, egoAge := 255
    route := [], modes := [], epoch := 0, busy := false, begun := false, fresh := true, leaving := 0, egoNew := false
    began := 0, held := none, stale := false, syncing := false, urgTaken := 0 }

/-- The Deputy at power-up: the safe state asserted (R452), DHB low (R472), DS_IRQ_N released. -/
def Deputy.reset : Deputy :=
  { safe := true, cause := 0, present := [], invRun := 0, passRun := 0, tick := 0, epoch := 0, tk := 0, ego := none, modes := []
    urgent := [], urgCount := 0, slice := [], missing := BitVec.allOnes 64, mirrorBad := false, canary := []
    check := none, verdicts := [], shown := List.replicate 32 0, injRun := false, injOk := false, dhb := false
    irq := false, thermLow := false }

/-- A device that has never written its log (notes/assumptions/10.md). -/
def Tally.reset : Tally :=
  { staged := [], written := [], nextSeq := 1, link := List.replicate 8 0, tokens := 0, supp := (0, 0, 0), lost := 0
    erases := List.replicate 32 0, erasing := none, ready := false, dumping := none }

/-- Fuses and OTP of the device modelled (notes/assumptions/5.md). -/
def Sec.reset : Sec :=
  { variant := .aq, vendorHash := List.replicate 32 0, vendorMin := 0, slots := List.replicate 4 KeySlot.blank
    serial := 0, jtagLocked := true, columns := [0, 0], flash := none, otp := none, flashing := none, report := none }

/-- Every interrupt vector masked, no bit pending (PCI MSI-X; notes/assumptions/11.md). -/
def HostPort.reset : HostPort :=
  ⟨false, false, BitVec.allOnes 64, 0, 0, false, 0, [], List.replicate 64 (0, 0), false, [], ⟨128, 512, true, false, false, 0⟩⟩

/-- The Kornov block at reset: every port down, 64 credits on each channel (R419). -/
def Klink.reset : Klink := ⟨List.replicate 6 Port.idle, [], 0, false, false, [], false, [], none, none, none, [], 0, false, [], []⟩

/-- The state right after a power-on reset: BOOT (R530), every register at its reset value, memory with nothing listed,
no command waiting. -/
def State.reset : State :=
  { pending := [], free := 0, dev := .boot, now := 0, timeOn := false, ticked := none, seed := 0, regs := []
    latches := [], sh := [], badRegs := [], mem := [], sys := Sys.reset, tick := Tick.reset, plan := Plan.fresh none
    world := World.reset, d0 := DieState.reset, d1 := DieState.reset, image := none, damaged := false
    loading := none, chans := List.replicate 140 Chan.idle, host := HostPort.reset, kl := Klink.reset
    dep := Deputy.reset, tally := Tally.reset, sec := Sec.reset, bist := ⟨none, 0, []⟩
    power := ⟨0, 0, 0, 0, 0, 0⟩, out := [] }

end Sys2Proof.Machine
end

