-- ==== Sys2Proof/Machine/Ops.lean ====
section
/-! DEFINITION. The named operations over the state that the meanings share: memory, registers, events and interrupts,
the Tally log, the command queue's results, the plan record, the verdicts and the safe state. -/

namespace Sys2Proof.Machine
open Sys2Proof

/-- Entry `n` of a list changed by `f`; entries that the list lacks count as `d`. -/
def modifyD {α : Type} (d : α) (f : α → α) : Nat → List α → List α
  | 0, [] => [f d]
  | 0, x :: l => f x :: l
  | n + 1, [] => d :: modifyD d f n []
  | n + 1, x :: l => x :: modifyD d f n l

/-- Entry `n` of a list replaced by `v`; entries that the list lacks count as `d`. -/
def setD {α : Type} (d : α) (n : Nat) (v : α) (l : List α) : List α := modifyD d (fun _ => v) n l

/-- The outcome of a command. -/
abbrev Out := Host.Outcome State Fault Refusal

/-- The command's effect when its operands name something the device has, a fault otherwise. -/
def whenNamed (ok : Bool) (s : State) : Out := if ok then .next s else .fault .illFormed

/-- `f s` when the condition holds, `s` otherwise: an event without its condition has no effect
(notes/assumptions/6.md). -/
def State.when (s : State) (c : Bool) (f : State → State) : State := if c then f s else s

/-! ### Sparse memories: strictly rising addresses, no zero byte listed -/

/-- The cells of `data` laid from `base`; zero bytes are not listed. -/
def cellsAt (base : Nat) : List Byte → List Host.Cell
  | [] => []
  | b :: bs => if b = 0 then cellsAt (base + 1) bs else (base, b) :: cellsAt (base + 1) bs

/-- The byte at an address; an unlisted address reads 0 (notes/assumptions/7.md). -/
def memByte (m : List Host.Cell) (a : Nat) : Byte :=
  match m.find? fun c => c.1 == a with
  | some c => c.2
  | none => 0

/-- `n` bytes from address `a` of a memory in canonical form. -/
def memRead : Nat → Nat → List Host.Cell → List Byte
  | 0, _, _ => []
  | n + 1, a, m =>
    match m.dropWhile fun c => decide (c.1 < a) with
    | [] => List.replicate (n + 1) 0
    | c :: m' => if c.1 = a then c.2 :: memRead n (a + 1) m' else 0 :: memRead n (a + 1) (c :: m')

/-- The memory with `data` stored from `base`. -/
def memWrite (m : List Host.Cell) (base : Nat) (data : List Byte) : List Host.Cell :=
  (m.filter fun c => decide (c.1 < base)) ++ cellsAt base data ++
    (m.filter fun c => decide (base + data.length ≤ c.1))

/-- The canonical form: addresses strictly rising, no entry equal to what an unlisted address reads as. -/
abbrev memWf (m : List Host.Cell) : Prop :=
  m.Pairwise (fun a b => a.1 < b.1) ∧ ∀ c ∈ m, c.2 ≠ 0

/-! ### Registers -/

/-- The stored value of the register at a primary offset. -/
def State.reg (s : State) (o : Nat) : Word :=
  match s.regs.find? fun r => r.1 == o with
  | some r => r.2
  | none => regReset o

/-- The stored value of a register set. -/
def State.setReg (s : State) (o : Nat) (v : Word) : State :=
  { s with regs := (s.regs.filter fun r => decide (r.1 < o)) ++ (if v = regReset o then [] else [(o, v)]) ++
                   (s.regs.filter fun r => decide (o < r.1)) }

/-- Event bit `n` of the RC register at `o` set. -/
def State.event (s : State) (o n : Nat) : State := s.setReg o (s.reg o ||| BitVec.ofNat 32 (2 ^ n))

/-- A 32-bit counter register counted up by `n`, saturating. -/
def State.count (s : State) (o n : Nat) : State := s.setReg o (satAddWord (s.reg o) n)

/-- A field of a register set. -/
def State.setField (s : State) (o hi lo v : Nat) : State := s.setReg o (setBits (s.reg o) hi lo v)

/-- A two-word value written over its _LO and _HI registers. -/
def State.setPair (s : State) (lo hi v : Nat) : State :=
  (s.setReg lo (BitVec.ofNat 32 v)).setReg hi (BitVec.ofNat 32 (v / 4294967296))

/-- The value of a register pair. -/
def State.pair (s : State) (lo hi : Nat) : Nat := (s.reg lo).toNat + 4294967296 * (s.reg hi).toNat

/-- The value forced to a register of every die. -/
def State.setBoth (s : State) (o : Die → Nat) (v : Word) : State := (s.setReg (o .s0) v).setReg (o .s1) v

/-! ### Time, free values, outputs, interrupts -/

/-- Device time advanced to the time of an event, where it runs; it never runs backwards (R17). -/
def State.advance (s : State) (t : Nat) : State := if s.timeOn then { s with now := max s.now t } else s

/-- A free word and the state that has used it (notes/assumptions/3.md). -/
def State.freeWord (s : State) : Word × State := (Config.freeWord s.free, { s with free := s.free + 1 })

/-- `n` free bytes (notes/assumptions/3.md). -/
def State.freeBytes (s : State) : Nat → List Byte × State
  | 0 => ([], s)
  | n + 1 =>
    let (w, s) := s.freeWord
    let (bs, s) := s.freeBytes n
    (BitVec.ofNat 8 w.toNat :: bs, s)

/-- An output driven. -/
def State.emit (s : State) (o : Output) : State := { s with out := s.out ++ [o] }

/-- The message of vector `v`: its address and its data, as its entry of the MSI-X table has them (R370). -/
def State.message (s : State) (v : Nat) : Output :=
  let e := s.host.vectors.getD v (0, 0)
  .msix v e.1 e.2

/-- An event on MSI-X vector `v` (R384): a pending bit swallows it; masked, or with the link not up, it sets the bit;
otherwise one message is sent. -/
def State.irq (s : State) (v : Nat) : State :=
  if s.host.pba.getLsbD v then s
  else if s.host.mask.getLsbD v || s.host.allOff || !s.host.up then
    { s with host := { s.host with pba := s.host.pba ||| BitVec.ofNat 64 (2 ^ v) } }
  else s.emit (s.message v)

/-! ### What the configuration says -/

/-- The profile in force (R55). -/
def State.profile (s : State) : Nat := bits (s.reg rGlbProfile) 3 0

/-- Whether S1 exists: it is fused off on LM8400-AS (R3). -/
def State.hasS1 (s : State) : Bool := s.sec.variant != .as

/-- Whether a profile uses S1 (R55). -/
def usesS1 (profile : Nat) : Bool := profile != 0

/-- The dies the profile in force plans on. -/
def State.dies (s : State) : List Die := if usesS1 s.profile && s.hasS1 then [.s0, .s1] else [.s0]

/-- The profile from whose entry the values of R305 are computed: during a load, the one in force at its LOAD (R320). -/
def State.entryProfile (s : State) : Nat := match s.loading with | some l => l.profile | none => s.profile

/-- The profile entry in force, none where no image is committed or the profile is not fitted (R305). -/
def State.entry (s : State) : Option PhaseEntry := s.image.bind fun i => i.entry s.entryProfile

/-- The tick period P in ns (R16). -/
def State.period (s : State) : Nat := bits (s.reg rTickPeriod) 15 0 * 1000

/-- The half-width TOL of the input window, limited to its range (TICK.IN_TOL). -/
def State.tol (s : State) : Nat := max 100 (min 50000 (bits (s.reg rTickInTol) 15 0))

/-- The tick source SRC (R18). -/
def State.src (s : State) : Nat := bits (s.reg rTickCtrl) 1 0

/-- Offset of a phase from T_k in ns. -/
def State.phaseAt (s : State) (n : Nat) : Nat := match s.entry with | some e => e.offset n * 1000 | none => 0

/-- End of a phase's budget from T_k in ns. -/
def State.phaseEnd (s : State) (n : Nat) : Nat :=
  match s.entry with | some e => (e.offset n + e.budget n) * 1000 | none => 0

/-- Ingest cutoff C in ns (R38). -/
def State.cutC (s : State) : Nat := match s.entry with | some e => e.ingestCut * 1000 | none => 0

/-- Whether a die's arithmetic clock runs, and has run through the tick in progress: its arithmetic PLL is locked (R590). -/
def State.clocked (s : State) (d : Die) : Bool := s.power.clocks / 2 ^ (5 + d.idx) % 2 == 1 && !(s.die d).clockCut

/-- The ns of `n` arithmetic-clock cycles of a die. -/
def State.cyclesNs (s : State) (n : Nat) : Nat := if s.profile < 2 then n * 5 / 4 else n

/-- The arithmetic-clock cycles that begin in a span of device time, in ns. -/
def State.nsCycles (s : State) (ns : Nat) : Nat := if s.profile < 2 then ns * 4 / 5 else ns

/-- The node ID of this device (R424, R586): 0 with an empty LINKS section. -/
def State.node (s : State) : Nat :=
  match s.image.bind (·.links) with
  | none => 0
  | some l =>
    let c := s.reg rKlinkCoord
    bits c 5 0 + l.dims.getD 0 1 * (bits c 13 8 + l.dims.getD 1 1 * bits c 21 16)

/-- Usable DRAM of a die in bytes (R340, R358). -/
def State.usable (s : State) (d : Die) : Nat := bits (s.reg (rDmcSize d)) 31 16 * 1048576

/-- Usable DRAM of a die with its 4 KiB initialisation front in bytes (R359). -/
def State.front (s : State) (d : Die) : Nat := bits (s.reg (rDmcInitFront d)) 15 0 * 1048576

/-- Base of a die's DRAM in the local map (R340). -/
def dramBase : Die → Nat
  | .s0 => 0
  | .s1 => 0x800000000

/-- Base of a die's on-chip window in the local map (R340). -/
def winBaseOf : Die → Nat
  | .s0 => 0x400000000000
  | .s1 => 0x400100000000

/-- Base of hub host staging in the local map (R340). -/
def stagingBase : Nat := 0x400200000000

/-! ### World slices: one broadcast content per die and the bytes an engine's slice has apart (R73, R74, R201) -/

/-- Key of byte `o` of the broadcast slice content of a die: above the 48-bit local map. -/
def sliceKey (d : Die) (o : Nat) : Nat := 0x1000000000000 + d.idx * 0x40000 + o

/-- The byte `o` of engine `p`'s world slice. -/
def State.sliceByte (s : State) (d : Die) (p o : Nat) : Byte :=
  match (s.die d).sliceOv.find? fun c => c.1 == p * 0x40000 + o with
  | some c => c.2
  | none => memByte s.mem (sliceKey d o)

/-- The whole world slice of an engine, 512 x 512 cells. -/
def State.slice (s : State) (d : Die) (p : Nat) : List Byte :=
  let common := memRead 0x40000 (sliceKey d 0) s.mem
  ((s.die d).sliceOv.filter fun c => decide (p * 0x40000 ≤ c.1 ∧ c.1 < (p + 1) * 0x40000)).foldl
    (fun bs c => bs.set (c.1 - p * 0x40000) c.2) common

/-- Cells broadcast into all 68 slices of a die from slice offset `o` (R74): every slice then holds them. -/
def State.broadcastSlice (s : State) (d : Die) (o : Nat) (cells : List Byte) : State :=
  let x := s.die d
  let s := { s with mem := memWrite s.mem (sliceKey d o) cells }
  let apart := x.sliceOv.filter fun c => !decide (o ≤ c.1 % 0x40000 ∧ c.1 % 0x40000 < o + cells.length)
  s.setDie d { x with sliceOv := apart }

/-- Bytes written into one engine's slice from window offset `w` of the slice area; a byte that is the broadcast content's
is not listed. -/
def State.writeSlice (s : State) (d : Die) (w : Nat) (data : List Byte) : State :=
  let x := s.die d
  let cells := ((List.range data.length).map fun i => (w + i, data.getD i 0)).filter fun c =>
    c.2 != memByte s.mem (sliceKey d (c.1 % 0x40000))
  s.setDie d { x with sliceOv := (x.sliceOv.filter fun c => decide (c.1 < w)) ++ cells ++
    (x.sliceOv.filter fun c => decide (w + data.length ≤ c.1)) }

/-- The slice area of a local address: the die and the offset from slice 0 (R341). -/
def sliceWindow (a : Nat) : Option (Die × Nat) :=
  if winBaseOf .s0 + 0x2000000 ≤ a ∧ a < winBaseOf .s0 + 0x2000000 + 68 * 0x40000 then
    some (.s0, a - (winBaseOf .s0 + 0x2000000))
  else if winBaseOf .s1 + 0x2000000 ≤ a ∧ a < winBaseOf .s1 + 0x2000000 + 68 * 0x40000 then
    some (.s1, a - (winBaseOf .s1 + 0x2000000))
  else none

/-- `n` bytes of the local memory from address `a`. -/
def State.load (s : State) (a n : Nat) : List Byte :=
  match sliceWindow a with
  | some (d, w) => (List.range n).map fun i => s.sliceByte d ((w + i) / 0x40000) ((w + i) % 0x40000)
  | none => memRead n a s.mem

/-- The local memory with bytes stored from address `a`. -/
def State.store (s : State) (a : Nat) (data : List Byte) : State :=
  match sliceWindow a with
  | some (d, w) => s.writeSlice d w data
  | none => { s with mem := memWrite s.mem a data }

/-- A die's on-chip window: `n` bytes from window offset `o`. -/
def State.loadWin (s : State) (d : Die) (o n : Nat) : List Byte := s.load (winBaseOf d + o) n

/-- Bytes stored at a window offset of a die. -/
def State.storeWin (s : State) (d : Die) (o : Nat) (data : List Byte) : State := s.store (winBaseOf d + o) data

/-! ### The Tally log (R519 to R528) -/

/-- Severities of R520. -/
def note : Nat := 0
/-- WARN of R520. -/
def warn : Nat := 1
/-- FAULT of R520. -/
def faultSev : Nat := 2

/-- SOURCE of R520: die (0 hub, 1 S0, 2 S1), unit class, unit index. -/
def tallySource (die cls idx : Nat) : Nat := die * 4096 + cls * 256 + idx % 256

/-- The 56 bytes 0x00 to 0x37 of an entry (R520). -/
def tallyBytes (s : State) (seq sev code source : Nat) (data : List Byte) : List Byte :=
  leBytes 8 seq ++ leBytes 8 (if s.timeOn then s.now else 0) ++
    leBytes 8 (s.ticked.getD 0xFFFFFFFFFFFFFFFF) ++ leBytes 2 code ++ leBytes 2 source ++
    leBytes 2 sev ++ leBytes 1 s.dev.code ++ [0] ++ padTo 24 data

/-- An entry put into staging, with its SEQ, its event bits and vector 4 (R522, R528). -/
def State.tallyPush (s : State) (sev code source : Nat) (data : List Byte) : State :=
  let t := s.tally
  let e : TallyEntry := ⟨t.nextSeq, sev, code, tallyBytes s t.nextSeq sev code source data⟩
  let s := { s with tally := { t with staged := t.staged ++ [e], nextSeq := t.nextSeq + 1 } }
  let s := if sev = 1 then s.event rTallyEvents 0 else if sev = 2 then s.event rTallyEvents 1 else s
  let high := decide (3072 < s.tally.staged.length)
  let s := if high then s.event rTallyEvents 4 else s
  if decide (1 ≤ sev) || code == 3 || code == 4 || high then s.irq 4 else s

/-- A SUPPRESSED entry for what has been suppressed so far (R523). -/
def State.tallyReport (s : State) : State :=
  let (n, a, b) := s.tally.supp
  if n = 0 then s
  else
    let s := { s with tally := { s.tally with supp := (0, 0, 0) } }
    s.tallyPush note 3 0 (leBytes 4 n ++ leBytes 2 a ++ leBytes 2 b)

/-- TIME of an entry (R520). -/
def TallyEntry.time (e : TallyEntry) : Nat := ofLe ((e.bytes.drop 8).take 8)

/-- SOURCE and then CODE, the order of events of one cycle (R522). -/
def TallyEntry.rank (e : TallyEntry) : Nat := ofLe ((e.bytes.drop 0x1A).take 2) * 65536 + e.code

/-- An entry under another SEQ. -/
def TallyEntry.renumber (e : TallyEntry) (q : Nat) : TallyEntry := { e with seq := q, bytes := leBytes 8 q ++ e.bytes.drop 8 }

/-- Whether two entries are of one cycle: an equal TIME while device time runs, which at time 0 an entry of BOOT does not tell
(R522, notes/assumptions/111.md). -/
def TallyEntry.sameCycle (x e : TallyEntry) : Bool :=
  x.time == e.time && (decide (0 < e.time) || (fieldU x.bytes 0x1E 1 != 1 && fieldU e.bytes 0x1E 1 != 1))

/-- The newest of the staged entries, newest first, put in its place among those of its own cycle (R522). -/
def sinkEntry (e : TallyEntry) : List TallyEntry → List TallyEntry
  | [] => [e]
  | x :: rest =>
    if x.sameCycle e ∧ e.rank < x.rank then x.renumber e.seq :: sinkEntry (e.renumber x.seq) rest
    else e :: x :: rest

/-- The SEQ of the entry staged last set right among the events of its cycle (R522). -/
def State.sortTally (s : State) : State :=
  if s.timeOn then
    { s with tally := { s.tally with staged := match s.tally.staged.reverse with
      | [] => []
      | e :: rest => (sinkEntry e rest).reverse } }
  else s

/-- An event that finds staging full (R522). -/
def State.tallyLost (s : State) : State :=
  ({ s with tally := { s.tally with lost := s.tally.lost + 1 } }.event rTallyEvents 3).count rTallyLost 1

/-- A token spent by a NOTE or WARN entry (R523). -/
def State.spendToken (s : State) (sev : Nat) : State :=
  if sev < 2 then { s with tally := { s.tally with tokens := s.tally.tokens - 1 } } else s

/-- An entry staged behind the report of what was suppressed before it (R523); lost where staging is full (R522). -/
def State.stage (s : State) (sev code source : Nat) (data : List Byte) : State :=
  if 4096 ≤ s.tally.staged.length then s.tallyLost
  else
    let s := s.tallyReport
    if 4096 ≤ s.tally.staged.length then s.tallyLost
    else ((s.spendToken sev).tallyPush sev code source data).sortTally

/-- An event offered to the log (R522, R523): lost where staging is full, suppressed where a NOTE or WARN finds no
token, staged otherwise. -/
def State.log (s : State) (sev code source : Nat) (data : List Byte) : State :=
  let t := s.tally
  if t.staged.length < 4096 ∧ sev < 2 ∧ t.tokens = 0 then
    let (n, a, _) := t.supp
    ({ s with tally := { t with supp := (n + 1, if n = 0 then code else a, code) } }.event rTallyEvents 2).count
      rTallySuppressed 1
  else s.stage sev code source data

/-! ### Results of the command queue (R51, R583, R585) -/

/-- Result codes of R51. -/
def reasonDone : Nat := 0
/-- WRONG_STATE. -/
def reasonState : Nat := 1
/-- NO_IMAGE. -/
def reasonNoImage : Nat := 2
/-- PERIOD. -/
def reasonPeriod : Nat := 3
/-- PROFILE. -/
def reasonProfile : Nat := 4
/-- T0_EARLY. -/
def reasonT0 : Nat := 5
/-- HALTED. -/
def reasonHalted : Nat := 6
/-- SOURCE. -/
def reasonSource : Nat := 7
/-- QUEUE_FULL. -/
def reasonFull : Nat := 8

/-- A result recorded in GLB.CMD_STATUS (R583). -/
def State.result (s : State) (code reason : Nat) : State :=
  { s with sys := { s.sys with lastCode := code, reason := reason, seq := (s.sys.seq + 1) % 256 } }

/-- The head of the queue ends with a result. -/
def State.popCmd (s : State) (code reason : Nat) : State :=
  ({ s with sys := { s.sys with queue := s.sys.queue.tail, waitEdge := false, waitSave := false, waitRec := false } }).result
    code reason

/-- An entry placed in the queue, or discarded with QUEUE_FULL (R46, R566). -/
def State.pushCmd (s : State) (e : CmdEntry) : State :=
  if 8 ≤ s.sys.queue.length then
    s.result (match e with | .cmd c => c | .commit => 0x80) reasonFull
  else { s with sys := { s.sys with queue := s.sys.queue ++ [e] } }

/-- A waiting STOP or HOLD once the state has left RUNNING: it records the one result of R585. -/
def State.settleHead (s : State) : State :=
  if s.sys.waitEdge then
    match s.sys.queue with
    | .cmd 2 :: _ =>
      if s.dev = .hold then ({ s with dev := .stopped }).popCmd 2 reasonDone
      else if s.dev = .stopped then s.popCmd 2 reasonDone
      else s.popCmd 2 reasonState
    | .cmd 3 :: _ => s.popCmd 3 (if s.dev = .hold then reasonDone else reasonState)
    | _ => { s with sys := { s.sys with waitEdge := false } }
  else s

/-- Whether TICK_OUT is high at device time `x` (R25). -/
def State.tickOutHigh (s : State) (x : Nat) : Bool :=
  s.dev == .running && (match s.tick.rise with | some r => decide (r ≤ x ∧ x < r + 1000) | none => false)

/-- TICK_OUT low outside RUNNING (R25): a pulse that has not run its 1 µs ends now. -/
def State.dropTickOut (s : State) : State :=
  let cut := s.tickOutHigh s.now
  let s := { s with tick := { s.tick with rise := none } }
  if cut then s.emit (.tickOutLow s.now) else s

/-! ### Training (R412, R425) -/

/-- Whether the topology uses a port (R408, R425): its dimension is longer than 1, and in a mesh dimension the node has a
neighbour on that side. -/
def State.portRequired (s : State) (p : Nat) : Bool :=
  match s.image.bind (·.links) with
  | none => false
  | some l =>
    let k := p / 2
    let dim := l.dims.getD k 1
    let c := s.reg rKlinkCoord
    let x := if k = 0 then bits c 5 0 else if k = 1 then bits c 13 8 else bits c 21 16
    decide (1 < dim) && (!l.mesh.getD k false || (if p % 2 = 0 then decide (x + 1 < dim) else decide (0 < x)))

/-- TRAIN sent on a port the topology uses (R425): node ID, port, low 32 bits of the image digest. -/
def State.sendTrain (s : State) (p : Nat) : State :=
  match s.image with
  | none => s
  | some i => s.when (s.portRequired p && !s.kl.coordBad) fun s => s.emit (.control p 4 [s.node, p, fieldU i.digest 0 4])

/-- Every port of the topology trains (R425). -/
def State.sendTrains (s : State) : State := (List.range 6).foldl (fun s p => s.sendTrain p) s

/-- The ports that are down attempt training: at every boundary of a run, and from the moment a run ends (R412). The
attempts outside RUNNING go on without end; the model sends the first of them (notes/assumptions/123.md). -/
def State.retrainDown (s : State) : State :=
  (List.range 6).foldl (fun s p => s.when (!(s.kl.ports.getD p Port.idle).up) fun s => s.sendTrain p) s

/-- The state leaves RUNNING or HOLD for `d`: no tick runs, the source is no longer locked (R23), a waiting entry is
settled (R585), and the ports that are down train (R412). -/
def State.leaveRunning (s : State) (d : Dev) : State :=
  let s := s.dropTickOut
  (({ s with dev := d
             tick := { s.tick with live := false, awaitT0 := false, phase := 7, locked := false, good := 0 } }).settleHead).retrainDown

/-! ### The plan record (R289 to R293) -/

/-- Reason codes of R292. -/
def reasonDeputyFault : Nat := 1
/-- HALTED. -/
def reasonHaltedRec : Nat := 2
/-- OVERRUN. -/
def reasonOverrun : Nat := 3
/-- CE_FAULT. -/
def reasonCeFault : Nat := 4
/-- CANARY_FAIL. -/
def reasonCanary : Nat := 5
/-- EGO_STALE. -/
def reasonEgoStale : Nat := 6
/-- PROPOSE_MISMATCH. -/
def reasonPropose : Nat := 7
/-- SELECT_FAULT. -/
def reasonSelFault : Nat := 8
/-- SELECT_MISMATCH. -/
def reasonSelMismatch : Nat := 9
/-- URGENT_OVERFLOW. -/
def reasonUrgent : Nat := 10
/-- HEAP_FAULT. -/
def reasonHeapFault : Nat := 11
/-- CHECK_MISMATCH. -/
def reasonCheck : Nat := 12
/-- VOTE_FAIL. -/
def reasonVoteFail : Nat := 13

/-- Reasons whose tick's carry-over state is as after an overrun: the faults contained in the tick (R35, R500). -/
def containedReasons : List Nat := [3, 4, 5, 7, 8, 9, 11, 12, 13]

/-- A cause of INVALID met by the tick: the first detected stands; of causes detected in one cycle, the lowest code
(R37, R292). -/
def State.invalid (s : State) (code : Nat) : State :=
  let lost := s.plan.lost || containedReasons.contains code
  match s.plan.cause with
  | none => { s with plan := { s.plan with cause := some code, causeAt := s.now, lost := lost } }
  | some c =>
    let c := if s.plan.causeAt = s.now then min c code else c
    { s with plan := { s.plan with cause := some c, lost := lost } }

/-- Tau 0 of the tick: T_k + O (R132). -/
def State.tau0 (s : State) : Nat :=
  s.tick.tk + (match s.image with | some i => i.rollout.planOfsUs * 1000 | none => 0)

/-- What a record carries beside the fields that the tick fixes. -/
structure RecordBody where
  id       : Nat
  merit    : Nat
  flags    : Nat
  reason   : Nat
  position : Nat
  minClr   : Int
  samples  : List Sample
  deriving DecidableEq, Repr, Inhabited

/-- The 16 bytes of a record sample (R289). -/
def encodeSample (x : Sample) : List Byte :=
  leBytesInt 4 x.x ++ leBytesInt 4 x.y ++ leBytes 2 x.heading ++ leBytes 2 x.speed ++ leBytesInt 2 x.curv ++
    leBytesInt 2 x.acc

/-- A record with its CRC field set over header bytes 0x00 to 0x3B and the samples (R293). -/
def sealRecord (head samples : List Byte) : List Byte :=
  head ++ leBytes 4 (crc32 (head ++ samples)).toNat ++ samples

/-- The epoch of the tick in progress (R103): a commit still busy completes, whatever ends the tick (R106). DESIGN CHOICE
(notes/assumptions/117.md): the record of a tick abandoned before its commit has begun carries the epoch before it; R103
gives a tick without a commit none. -/
def State.tickEpoch (s : State) : Nat :=
  if s.world.busy && s.world.begun then (s.world.epoch + 1) % 4294967296 else s.world.epoch

/-- The record's bytes (R289): header, CRC, samples. -/
def State.encodeRecord (s : State) (b : RecordBody) : List Byte :=
  let n := match s.image with | some i => i.rollout.nSamp | none => 0
  let dt := match s.image with | some i => i.rollout.dtUs | none => 0
  let head := leBytes 8 s.tick.num ++ leBytes 8 s.tau0 ++ leBytes 4 b.id ++ leBytes 4 b.merit ++
    leBytes 4 s.tickEpoch ++ leBytes 2 b.flags ++ leBytes 1 b.reason ++ [0] ++ leBytes 4 dt ++ leBytes 2 n ++
    leBytes 2 s.node ++ leBytes 2 b.position ++ leBytesInt 2 b.minClr ++ leBytes 1 s.world.urgTaken ++
    List.replicate 15 0
  sealRecord head (padTo (16 * n) (b.samples.flatMap encodeSample))

/-- Bits 4 to 7 of FLAGS: what occurred in the tick (R290). -/
def State.causeFlags (s : State) : Nat :=
  16 * bnat s.plan.degraded + 32 * bnat s.plan.timeoutDeg + 64 * bnat s.plan.late + 128 * bnat s.plan.dense

/-- The INVALID record of the tick (R291): zero samples, no candidate. -/
def invalidBody (s : State) (reason : Nat) : RecordBody :=
  { id := invalidId, merit := 0, flags := 2 + s.causeFlags, reason := reason, position := 0xFFFF, minClr := 0x7FFF
    samples := [] }

/-- The index of the plan-record channel: EG0 to EG7 are sets 128 to 135 (R295, R385). -/
def State.planChan (s : State) : Nat := match s.image with | some i => 128 + i.streams.planChan | none => 128

/-- A channel changed. -/
def State.mapChan (s : State) (i : Nat) (f : Chan → Chan) : State := { s with chans := modifyD Chan.idle f i s.chans }

/-- The channel `i`. -/
def State.chan (s : State) (i : Nat) : Chan := s.chans.getD i Chan.idle

/-- The record of the tick formed: counted in TICK.INVALID_RUN (R36), offered to its egress channel behind those of earlier
ticks (R295) and handed to the Deputy, whose check begins (R458). -/
def State.formRecord (s : State) (b : RecordBody) : State :=
  let bytes := s.encodeRecord b
  let s := s.setField rTickInvalidRun 3 0 (if b.flags % 2 = 1 then 0 else min 15 (s.tick.runIn + 1))
  let s := { s with plan := { s.plan with record := some bytes } }
  let s := s.mapChan s.planChan fun c =>
    { c with feeds := c.feeds.filter (fun f => f.kind != 0 || fieldU f.bytes 0 8 != s.tick.num) ++ [⟨0, bytes⟩] }
  { s with dep := { s.dep with check := some (bytes, s.now) } }

/-- The tick's record written INVALID (R33, R52, R189, R478): the cause detected first gives the reason. -/
def State.writeInvalid (s : State) (reason : Nat) : State :=
  let s := s.invalid reason
  let s := s.formRecord (invalidBody s (s.plan.cause.getD reason))
  (s.setField (rHeapFcStatus .s0) 10 0 0x7FF).setField (rHeapFcStatus .s0) 12 11 3

/-- Whether a cause detected now still ranks with the one that made the tick's record INVALID: both belong to one cycle, and
the record has been neither handed over nor judged (R37, notes/assumptions/116.md). -/
def State.rewritable (s : State) : Bool :=
  s.plan.cause.isSome && s.plan.causeAt == s.now && !s.plan.handed && s.plan.judged.isNone &&
    (match s.plan.record with | some r => fieldU r 0x1C 2 % 2 == 0 | none => false)

/-- Overman at a boundary or an overrun (R330). -/
def Ovm.clear (o : Ovm) : Ovm := { Ovm.idle with peaks := o.peaks, minFree := o.minFree }

/-- Whether an outstanding operation belongs to work of the tick: a mover's, a final list's, a KEYINS chain's but for
software's, or that of an internal channel that a task runs (R32, R330). -/
def State.opOfTick (s : State) (o : RemoteOp) : Bool :=
  match o.issuer with
  | .mover _ => true
  | .list _ => true
  | .chain d e .. => !(s.die d).sel.any fun w => w.engine == e && w.sw
  | .channel ch _ => decide (140 ≤ ch) && (s.die (Die.ofIdx ((ch - 140) / 32))).ihaul.any fun h =>
      h.1 == (ch - 140) % 32 && h.2.1
  | .window .. => false
  | .merge .. => false

/-- Number of an issuer: a channel by its index, 204 + d the mover of die d, 206 + 2 d + e a Select engine, 210 the host
window. -/
def Issuer.number : Issuer → Nat
  | .channel ch _ => ch
  | .mover d => 204 + d.idx
  | .list e => 206 + e
  | .chain d e .. => 206 + 2 * d.idx + e
  | .window .. => 210
  | .merge .. => 210

/-- The die whose traffic an issuer's operations are, none of the hub's issuers. -/
def Issuer.die : Issuer → Option Die
  | .channel ch _ => if 140 ≤ ch then some (Die.ofIdx ((ch - 140) / 32)) else none
  | .mover d => some d
  | .list _ => some .s0
  | .chain d .. => some d
  | .window .. => none
  | .merge .. => none

/-- Whether an operation of an issuer is outstanding. -/
def State.outstanding (s : State) (issuer : Nat) : Bool := s.kl.ops.any fun o => o.issuer.number == issuer

/-- Whether a FENCE of an issuer waits: its later operations are not issued (R349). -/
def State.fenced (s : State) (issuer : Nat) : Bool := s.kl.fences.contains issuer

/-- Each waiting FENCE whose issuer has no operation outstanding completes (R347). -/
def State.settleFences (s : State) : State :=
  let done := s.kl.fences.filter fun f => !s.outstanding f
  let s := { s with kl := { s.kl with fences := s.kl.fences.filter fun f => s.outstanding f } }
  done.foldl (fun s f => s.emit (.response s.node f 0 [])) s

/-- The outstanding operations that meet a condition forgotten: what they return finds no one. -/
def State.dropOps (s : State) (gone : RemoteOp → Bool) : State :=
  ({ s with kl := { s.kl with ops := s.kl.ops.filter fun o => !gone o } }).settleFences

/-- The outstanding operations of the tick's work forgotten. -/
def State.dropTickOps (s : State) : State := s.dropOps s.opOfTick

/-- The waits of a die's tasks counted up to now: each cycle in which an entry waits for a full list (R328), and each cycle
in which a task waits for pages (R333). -/
def State.chargeWaits (s : State) (d : Die) : State :=
  let x := s.die d
  let pages := (x.ovm.starved.map fun w => s.nsCycles (s.now - w.2)).foldl (· + ·) 0
  let s' := s.setDie d { x with ovm := { x.ovm with bpAt := s.now, starved := x.ovm.starved.map fun w => (w.1, s.now) } }
  let s' := s'.when (!x.ovm.waiting.all (·.isEmpty)) fun s' =>
    (s'.event (rOvmEvents d) 0).count (rOvmBpCycles d) (s.nsCycles (s.now - x.ovm.bpAt))
  s'.when (!x.ovm.starved.isEmpty) fun s' => (s'.event (rOvmEvents d) 1).count (rOvmAllocCycles d) pages

/-- The pending recurrent banks given up (R192): PA.RSTATE.PENDING reads 0 on both dies. -/
def State.dropPendingBanks (s : State) : State :=
  (s.setReg (rPaRstate .s0) (setBit (s.reg (rPaRstate .s0)) 17 false)).setReg (rPaRstate .s1)
    (setBit (s.reg (rPaRstate .s1)) 17 false)

/-- The tick's remaining work stops on every engine and die (R32), internal Haulage chains of its tasks among it; the
pending recurrent banks will not become current (R192). -/
def State.stopWork (s : State) : State :=
  let s := ((s.chargeWaits .s0).chargeWaits .s1).dropTickOps.dropPendingBanks
  let stopDie : DieState → DieState := fun x =>
    { x with ovm := { Ovm.clear x.ovm with done := x.ovm.done, entered := x.ovm.entered }, reWork := []
             sel := x.sel.filter (·.sw), paBusy := false, roundOn := false, ihaul := x.ihaul.filter fun h => !h.2.1 }
  { s with d0 := stopDie s.d0, d1 := stopDie s.d1, tick := { s.tick with stopped := true } }

/-! ### Verdicts and the safe state (R470 to R480) -/

/-- The 32 bytes of a verdict record (R470). -/
def verdictBytes (tick id verdict reason sample recCrc time : Nat) : List Byte :=
  let b := leBytes 8 tick ++ leBytes 4 id ++ leBytes 1 verdict ++ leBytes 1 reason ++ leBytes 2 sample ++
    leBytes 4 recCrc ++ leBytes 8 time
  b ++ leBytes 4 (crc32 b).toNat

/-- Whether a record carries VALID (R290). -/
def recValid (r : List Byte) : Bool := fieldU r 0x1C 2 % 2 == 1

/-- DEPUTY.STATUS.INVALID_RUN after a verdict (R471, R474): a PASS returns it to 0; a FAIL counts; a RETRACT supersedes what its
tick had: a PASS, whose tick then joins the run before it, a FAIL, counted already, or no verdict. -/
def runAfter (run passRun verdict : Nat) (judged : Option Nat) : Nat :=
  if verdict = 1 then 0
  else if verdict = 2 then min 15 (run + 1)
  else match judged with
    | some 1 => min 15 (passRun + 1)
    | some _ => run
    | none => min 15 (run + 1)

/-- A verdict published (R471 to R474): the registers and the SPI queue, DHB on a PASS, DS_IRQ_N, vector 3, the counts. No
safe-state entry follows here. -/
def State.publish (s : State) (verdict reason sample : Nat) (record : Option (List Byte)) : State :=
  let id := match record with | some r => fieldU r 0x10 4 | none => invalidId
  let crc := match record with | some r => fieldU r 0x3C 4 | none => 0
  let k := match record with | some r => fieldU r 0 8 | none => s.tick.num
  let v := verdictBytes k id verdict reason sample crc s.now
  let d := s.dep
  let run := runAfter d.invRun d.passRun verdict s.plan.judged
  let s := { s with dep := { d with verdicts := (v :: d.verdicts).take 16, shown := v, irq := true, invRun := run
                                    passRun := if verdict = 1 then d.invRun else d.passRun
                                    dhb := d.dhb ^^ decide (verdict = 1), check := none }
                    plan := { s.plan with judged := if k = s.tick.num then some verdict else s.plan.judged } }
  let s := if verdict = 1 then (s.count rDeputyPassCount 1).emit (.dhb s.dep.dhb)
           else if verdict = 2 then (s.count rDeputyFailCount 1).event rDeputyEvents 0
           else s.event rDeputyEvents 1
  let validFail := verdict == 2 && (match record with | some r => recValid r | none => false)
  let s := if validFail then
      s.log warn 0x0500 (tallySource 0 9 0) (leBytes 4 id ++ leBytes 1 reason ++ leBytes 2 sample)
    else s
  s.irq 3

/-- Codes of R476. -/
def causeLockstep : Nat := 1
/-- DEP_CLOCK. -/
def causeDepClock : Nat := 2
/-- DEP_VOLT. -/
def causeDepVolt : Nat := 3
/-- OVERTEMP. -/
def causeOvertemp : Nat := 4
/-- DEP_SRAM_UE. -/
def causeDepSram : Nat := 5
/-- INVALID_RUN. -/
def causeInvalidRun : Nat := 6
/-- TICK_TIMING. -/
def causeTickTiming : Nat := 7
/-- VERDICT_LATE. -/
def causeVerdictLate : Nat := 8
/-- FLR. -/
def causeFlr : Nat := 9
/-- REG_PARITY. -/
def causeRegParity : Nat := 10
/-- TEST_OVERDUE. -/
def causeTestOverdue : Nat := 11
/-- INJECTION. -/
def causeInjection : Nat := 12
/-- HOST_REQ. -/
def causeHostReq : Nat := 13
/-- SPI_REQ. -/
def causeSpiReq : Nat := 14

/-- The tick in progress abandoned for the safe state (R478): a record not yet written, or written INVALID in this very
cycle (R37), is written INVALID with DEPUTY_FAULT and judged FAIL, NO_PLAN; a written one is retracted. -/
def State.abandonTick (s : State) : State :=
  if (s.tick.live && s.plan.record.isNone) || s.rewritable then
    let s := (s.stopWork).writeInvalid reasonDeputyFault
    s.publish 2 0x01 0xFFFF s.plan.record
  else if s.tick.live then (s.stopWork).publish 3 0x10 0xFFFF s.plan.record
  else s

/-- The staged entry of the safe state entered at device time `t` given the cause that its cycle records. -/
def amendCause (t cause : Nat) (e : TallyEntry) : TallyEntry :=
  if e.code = 0x0501 ∧ fieldU e.bytes 8 8 = t then { e with bytes := setD 0 0x20 (BitVec.ofNat 8 cause) e.bytes } else e

/-- A further cause met in FAULTED (R476, R477): one of the very cycle in which the safe state was entered, with a lower code, is
the one recorded; any other is not recorded again. -/
def State.lowerCause (s : State) (cause : Nat) : State :=
  if s.timeOn ∧ s.pair rDeputySafeTimeLo rDeputySafeTimeHi = s.now ∧ cause < s.dep.cause then
    { s with dep := { s.dep with cause := cause }
             tally := { s.tally with staged := s.tally.staged.map (amendCause s.now cause) } }
  else s

/-- The safe state entered on a cause (R476 to R478); in FAULTED it is being handled already, and while a reset is asserted the
Deputy takes no cause (R524, R597). -/
def State.enterSafe (s : State) (cause : Nat) : State :=
  if s.sys.inReset then s
  else if s.dev = .faulted then s.lowerCause cause
  else
    let s := { s with dep := { s.dep with safe := true, cause := cause, irq := true } }
    let s := (s.setPair rDeputySafeTimeLo rDeputySafeTimeHi s.now).event rDeputyEvents 2
    let s := s.log faultSev 0x0501 (tallySource 0 9 0) (leBytes 1 cause)
    let s := s.abandonTick
    ((s.leaveRunning .faulted).irq 0).irq 3

/-- A condition of the cause table that persists (DEPUTY.STATUS.CAUSE_PRESENT). -/
def State.causeOn (s : State) (cause : Nat) : State :=
  { s with dep := { s.dep with present := (s.dep.present.filter fun c => c != cause) ++ [cause] } }

/-- A cause whose condition a monitor finds, and that condition present; none while a reset is asserted. -/
def State.monitor (s : State) (cause : Nat) : State := s.when (!s.sys.inReset) fun s => (s.causeOn cause).enterSafe cause

/-- A condition of the cause table that has gone. -/
def State.causeOff (s : State) (cause : Nat) : State :=
  { s with dep := { s.dep with present := s.dep.present.filter fun c => c != cause } }

/-- The parity faults that no longer stand: REG_PARITY is present while a reported one is left (R578). -/
def State.mend (s : State) (gone : BadReg → Bool) : State :=
  let left := s.badRegs.filter fun b => !gone b
  let s := { s with badRegs := left }
  if left.any (·.found) then s else s.causeOff causeRegParity

/-- A configuration register written: its parity is right again (R576, R578). -/
def State.rewrite (s : State) (o : Nat) (v : Word) : State := (s.setReg o v).mend fun b => b.off == o && !b.pending

/-- Bytes of a register whose parity is wrong, held without or with a report. -/
def State.spoilParity (s : State) (found : Bool) (fs : List (Nat × Nat × Bool)) : State :=
  let new := fs.map fun f => (⟨f.1, f.2.1, f.2.2, found⟩ : BadReg)
  let known := fun (b : BadReg) => s.badRegs.any fun c => c.off == b.off && c.byte == b.byte && c.pending == b.pending
  { s with badRegs := s.badRegs ++ new.filter fun b => !known b }

/-- A check of one register (R577, R578), which finds what is wrong there, `fs` among it; the first check that finds a fault reports
it, later ones do not. -/
def State.checkParity (s : State) (o : Nat) (fs : List (Nat × Nat × Bool)) : State :=
  let s := s.spoilParity false fs
  let here := s.badRegs.filter fun b => b.off == o
  if here.isEmpty then s
  else
    let known := here.any (·.found)
    let s := { s with badRegs := s.badRegs.map fun b => if b.off = o then { b with found := true } else b }
    if known then s
    else
      let mask := (List.range 4).foldl (fun m b => m + 2 ^ b * bnat (here.any fun f => f.byte == b)) 0
      let s := s.setReg rRegifParityAddr
        (packFields [(0, o % 16777216), (24, mask), (28, bnat (here.any fun f => f.pending))])
      (((s.event rRegifEvents 4).irq 6).causeOn causeRegParity).enterSafe causeRegParity

/-- The configuration registers that a block uses are checked as it uses them (R577). Which uses the model names is
notes/assumptions/78.md. -/
def State.checkUses (s : State) (os : List Nat) : State := os.foldl (fun s o => s.checkParity o []) s

/-- Whether none of some registers holds a byte whose parity is wrong: their check finds nothing. -/
def State.soundAt (s : State) (os : List Nat) : Bool := os.all fun o => !s.badRegs.any fun b => b.off == o

/-- N_INV of the image (R474). -/
def State.nInv (s : State) : Nat := match s.image with | some i => i.safety.nInv | none => 0

/-- A verdict issued: published, and the safe state entered when the run of non-PASS verdicts reaches N_INV while RUNNING
(R474). -/
def State.judge (s : State) (verdict reason sample : Nat) (record : Option (List Byte)) : State :=
  let s := s.publish verdict reason sample record
  if s.dev = .running ∧ verdict = 2 ∧ s.nInv ≤ s.dep.invRun then s.enterSafe causeInvalidRun else s

/-! ### Units in service (R194 to R198, R487, R618) -/

/-- Retired collision engines of a die. -/
def DieState.retired (x : DieState) : Nat := (x.ces.filter fun c => c.role == .retired).length

/-- Engines a die may serve with: S = min(64, 67 - retired) (R198). -/
def DieState.pool (x : DieState) : Nat := min 64 (67 - x.retired)

/-- Rollout engines otherwise in service, ascending. -/
def DieState.reIn (x : DieState) : List Nat := (List.range 16).filter fun r => !x.reOut.contains r

/-- R_act of R198. -/
def DieState.rAct (x : DieState) : Nat :=
  if x.pool < 64 then min x.reIn.length (x.pool / 4) else x.reIn.length

/-- The rollout engines in service, ascending: the lowest R_act of those not retired (R198). -/
def DieState.reActive (x : DieState) : List Nat := x.reIn.take x.rAct

/-- Serving engines of the die. -/
def DieState.serving (x : DieState) : Nat := (x.ces.filter fun c => c.role == .serving).length

/-- The physical engine that serves a logical index. -/
def DieState.engineOf (x : DieState) (l : Nat) : Option Nat :=
  (List.range 68).find? fun p => match x.ces[p]? with
    | some c => c.role == .serving && c.logical == l
    | none => false

/-- Whether the policy array can serve (R159): at most one row group retired, the spare counted. -/
def DieState.paOk (x : DieState) : Bool := decide (x.rowOut.length ≤ 1)

/-- Whether the die is serviceable (R545). -/
def DieState.serviceable (x : DieState) : Bool := !x.common && x.paOk && decide (1 ≤ x.rAct)

/-- The roles assigned from scratch to the engines not retired (R618): the S lowest serve in ascending order, the next is
under test, the rest are spares. -/
def assignRoles (serve : Nat) : List CeUnit → Nat → List CeUnit
  | [], _ => []
  | c :: cs, k =>
    if c.role = .retired then c :: assignRoles serve cs k
    else
      let c' := if k < serve then { c with role := .serving, logical := k, slices := 0, failed := false }
                else if k = serve then { c with role := .test, logical := 127, slices := 0, failed := false }
                else { c with role := .spare, logical := 127, slices := 0, failed := false }
      c' :: assignRoles serve cs (k + 1)

/-- The engine with physical index `p` changed. -/
def DieState.mapCe (x : DieState) (p : Nat) (f : CeUnit → CeUnit) : DieState := { x with ces := modifyD CeUnit.idle f p x.ces }

/-- The serving engines cut to the logical indices below 4 R_act, the gaps filled from the spares in ascending order
(R198): the index that finds no engine takes the lowest-numbered spare. -/
def fillIndex (x : DieState) (l : Nat) : DieState × Bool :=
  match x.engineOf l with
  | some _ => (x, false)
  | none =>
    match (List.range 68).find? fun p => match x.ces[p]? with
        | some c => c.role == .spare
        | none => false with
    | some p => (x.mapCe p fun c => { c with role := .serving, logical := l }, true)
    | none => (x, false)

/-- R198 applied to a die: engines beyond 4 R_act - 1 become spares and every index below is served. -/
def DieState.applyPool (x : DieState) : DieState :=
  let lim := 4 * x.rAct
  let x := { x with ces := x.ces.map fun c =>
    if c.role = .serving ∧ lim ≤ c.logical then { c with role := .spare, logical := 127 } else c }
  (List.range lim).foldl (fun x l => (fillIndex x l).1) x

/-- Roles of a die's engines assigned from scratch as they take up service (R618, then R198). -/
def DieState.takeService (x : DieState) : DieState :=
  ({ x with ces := assignRoles x.pool x.ces 0, steps := List.replicate 68 0, reWork := [], sel := [], selFetch := [] }).applyPool

/-- A die's engines take up service: R618, and R198 with RE_IDLED where a rollout engine is idled. -/
def State.takeService (s : State) (d : Die) : State :=
  let s := s.setDie d { (s.die d).takeService with since := s.now, tested := [] }
  s.when (decide ((s.die d).rAct < (s.die d).reIn.length)) fun s => s.event (rCeEvents d) 3

/-- A unit retired: its class in the order of R544 (0 CE, 1 RE, 2 row group, 3 Select, 4 Heap, 5 common). -/
def DieState.retireUnit (x : DieState) (cls inst : Nat) : DieState :=
  match cls with
  | 0 => x.mapCe inst fun c => { c with role := .retired, logical := 127 }
  | 1 => { x with reOut := (x.reOut.filter fun r => r != inst) ++ [inst] }
  | 2 => { x with rowOut := (x.rowOut.filter fun r => r != inst) ++ [inst] }
  | 3 => { x with seOut := (x.seOut.filter fun r => r != inst) ++ [inst] }
  | 4 => { x with heapOut := true }
  | _ => { x with common := true }

end Sys2Proof.Machine
end

