-- ==== Sys2Proof/Machine/Overman.lean ====
section
/-! DEFINITION. Overman's operations (R323 to R335): engines of a class, Gallery pages and buffers, arrivals, ready lists
and the completion of a task. -/

namespace Sys2Proof.Machine
open Sys2Proof

/-- The ENGINES part in force on a die. -/
def State.engCfg (s : State) (d : Die) : EnginesCfg :=
  match s.image with
  | some i => i.engines d
  | none => default

/-- Logical engines of a class that are in service, ascending (R324). -/
def DieState.engines (x : DieState) (cls : Nat) : List Nat :=
  match cls with
  | 0 => if x.paOk then [0] else []
  | 1 => List.range x.rAct
  | 2 => [0, 1].filter fun e => !x.seOut.contains e
  | 3 => if x.heapOut then [] else [0]
  | 4 => [0]
  | 5 => List.range 32
  | _ => []

/-- The task an engine holds. -/
def Ovm.on (o : Ovm) (cls e : Nat) : Option Running := o.running.find? fun r => r.cls == cls && r.engine == e

/-- The tasks table entry of a task. -/
def EnginesCfg.task (c : EnginesCfg) (t : Nat) : TaskRec := c.tasks.getD t default

/-- Pages of the dynamic pool (R331). -/
def EnginesCfg.poolSize (c : EnginesCfg) : Nat := 3136 - c.fixedPages

/-- Whether a page of the Gallery is allocated. -/
def Ovm.pageUsed (o : Ovm) (p : Nat) : Bool := o.bufs.any fun b => decide (b.2.1 ≤ p ∧ p < b.2.1 + b.2.2.1)

/-- Free pages of the pool. -/
def Ovm.free (o : Ovm) (c : EnginesCfg) : Nat := c.poolSize - (o.bufs.map fun b => b.2.2.1).foldl (· + ·) 0

/-- The first page of the lowest run of `n` free pages in the pool (R332): candidates start at the pool's base or after
an allocated buffer. -/
def Ovm.findRun (o : Ovm) (c : EnginesCfg) (n : Nat) : Option Nat :=
  let starts := c.fixedPages :: (o.bufs.map fun b => b.2.1 + b.2.2.1)
  let fits := starts.filter fun p => decide (p + n ≤ 3136) &&
    !o.bufs.any fun b => decide (p < b.2.1 + b.2.2.1 ∧ b.2.1 < p + n)
  fits.foldl (fun m p => match m with | none => some p | some q => some (min p q)) none

/-- Base window offset of an allocated buffer. -/
def Ovm.bufBase (o : Ovm) (b : Nat) : Option Nat := (o.bufs.find? fun x => x.1 == b).map fun x => x.2.1 * 4096

/-- Whether the task's buffer is allocated, absent, or can be allocated now. -/
def Ovm.bufReady (o : Ovm) (c : EnginesCfg) (t : TaskRec) : Bool :=
  t.buf == 0xFFFF || (o.bufBase t.buf).isSome || (o.findRun c (c.bufs.getD t.buf (0, 0)).1).isSome

/-- The task's buffer allocated at dispatch where it is not yet (R332). -/
def Ovm.alloc (o : Ovm) (c : EnginesCfg) (t : TaskRec) : Ovm :=
  if t.buf = 0xFFFF ∨ (o.bufBase t.buf).isSome then o
  else
    let (pages, ref) := c.bufs.getD t.buf (0, 0)
    match o.findRun c pages with
    | none => o
    | some p =>
      let o' := { o with bufs := o.bufs ++ [(t.buf, p, pages, ref)] }
      { o' with minFree := min o.minFree (o'.free c) }

/-- One release of a buffer (R332). -/
def Ovm.release (o : Ovm) (b : Nat) : Ovm :=
  { o with bufs := o.bufs.filterMap fun x =>
      if x.1 = b then (if x.2.2.2 ≤ 1 then none else some (x.1, x.2.1, x.2.2.1, x.2.2.2 - 1)) else some x }

/-- Whether the dispatch of a task allocates its buffer (R332). -/
def Ovm.allocates (o : Ovm) (c : EnginesCfg) (t : Nat) : Bool :=
  (c.task t).buf != 0xFFFF && (o.bufBase (c.task t).buf).isNone

/-- Whether the ENGINE field of a task admits an engine (R326). -/
def EnginesCfg.admits (c : EnginesCfg) (e t : Nat) : Bool := (c.task t).engine == 0xFFFF || (c.task t).engine == e

/-- Whether a block of a sweep or round goes to rollout engine rank `e` of a die (R148, R268). -/
def State.placesBlock (s : State) (d : Die) (kind b e : Nat) : Bool :=
  let r := (s.die d).rAct
  if kind = 0 ∧ (s.profile = 1 ∨ s.profile = 2) then b % 2 == d.idx && b / 2 % r == e else b % r == e

/-- The block of a sweep or round that a task runs: kind, round and number; none for another task. -/
def State.blockOf (s : State) (d : Die) (t : Nat) : Option (Nat × Nat × Nat) :=
  let r := (s.engCfg d).task t
  if r.cls = 1 then
    match Config.parseReDesc (s.load r.desc 64) with
    | some x => if x.kind < 2 then some (x.kind, if x.kind = 0 then 0 else x.round, x.n0 / 1024) else none
    | none => none
  else none

/-- Whether an engine may take a task: one that its ENGINE admits (R326). DEDUCED (notes/assumptions/126.md): of a lattice or
refinement block whose ENGINE leaves the engine open, the engine of the block's placement (R148, R268). -/
def State.admits (s : State) (d : Die) (e t : Nat) : Bool :=
  (s.engCfg d).admits e t &&
    (((s.engCfg d).task t).engine != 0xFFFF ||
      match s.blockOf d t with
      | some k => s.placesBlock d k.1 k.2.2 e
      | none => true)

/-- The first entry of a class list that an engine may take (R326): it is admitted and its buffer can be allocated; with
it, the entries passed over for want of pages (R333). -/
def Ovm.select (o : Ovm) (c : EnginesCfg) (admits : Nat → Bool) (cls : Nat) : Option Nat × List Nat :=
  let mine := (o.lists.getD cls []).filter admits
  match mine.find? fun t => o.bufReady c (c.task t) with
  | some t => (some t, mine.takeWhile fun u => u != t)
  | none => (none, mine)

/-- Arrivals of a task in the tick (R325). -/
def Ovm.arrived (o : Ovm) (t : Nat) : Nat :=
  match o.arrivals.find? fun a => a.1 == t with
  | some a => a.2
  | none => 0

/-- Whether a list has room: 4,096 entries (R328). -/
def Ovm.room (o : Ovm) (cls : Nat) : Bool := decide ((o.lists.getD cls []).length < 4096)

/-- A ready task entered into its class list, or left waiting for room (R325, R328). -/
def Ovm.enter (o : Ovm) (c : EnginesCfg) (t : Nat) : Ovm :=
  let cls := (c.task t).cls
  let o := { o with entered := o.entered ++ [t] }
  if o.room cls && (o.waiting.getD cls []).isEmpty then
    let l := o.lists.getD cls [] ++ [t]
    { o with lists := setD [] cls l o.lists, peaks := setD 0 cls (max (o.peaks.getD cls 0) l.length) o.peaks }
  else { o with waiting := setD [] cls (o.waiting.getD cls [] ++ [t]) o.waiting }

/-- Whether the task is ready to enter: its phase released, its arrivals at WAIT, not yet entered (R325). -/
def State.ready (s : State) (d : Die) (t : Nat) : Bool :=
  let c := s.engCfg d
  let r := c.task t
  s.tick.live && !s.tick.stopped && decide (t < c.tasks.length) && decide (r.phase < s.tick.rel) &&
    decide (r.wait ≤ (s.die d).ovm.arrived t) && !(s.die d).ovm.entered.contains t && decide (r.cls < 6)

/-- A task entered when it is ready; an entry that finds its list full sets LIST_FULL. -/
def State.enterTask (s : State) (d : Die) (t : Nat) : State :=
  if s.ready d t then
    let x := s.die d
    let o := x.ovm.enter (s.engCfg d) t
    let full := decide (x.ovm.waiting ≠ o.waiting)
    let o := { o with bpAt := if x.ovm.waiting.all (·.isEmpty) then s.now else o.bpAt }
    (s.setDie d { x with ovm := o }).when full fun s => s.event (rOvmEvents d) 0
  else s

/-- One arrival added to a task (R325). -/
def State.addArrival (s : State) (d : Die) (t : Nat) : State :=
  let x := s.die d
  let n := x.ovm.arrived t + 1
  s.setDie d { x with ovm := { x.ovm with arrivals := (x.ovm.arrivals.filter fun a => a.1 != t) ++ [(t, n)] } }

/-- One arrival by a SIGNAL, and the task entered where that makes it ready (R325, R338). -/
def State.arrive (s : State) (d : Die) (t : Nat) : State := (s.addArrival d t).enterTask d t

/-- The ready tasks that are in no list entered in ascending index (R325). -/
def State.enterPhase (s : State) (d : Die) : State :=
  (List.range (s.engCfg d).tasks.length).foldl (fun s t => s.enterTask d t) s

/-- The task's record at dispatch: its class, engine and index. -/
def Running.on (cls engine t : Nat) : Running := ⟨cls, engine, t, false, 0, 0, none, none, (0, 0), none, []⟩

/-- The successors of a task. -/
def EnginesCfg.successors (c : EnginesCfg) (t : Nat) : List Nat :=
  let r := c.task t
  (c.succs.drop r.succ).take r.nsucc

/-- The buffers a task releases. -/
def EnginesCfg.releaseList (c : EnginesCfg) (t : Nat) : List Nat :=
  let r := c.task t
  (c.releases.drop r.free).take r.nfree

/-- The tasks of a list that this completion left waiting for room hold the engine (R328). -/
def State.blocksOn (s : State) (d : Die) (t : Nat) : Bool :=
  (s.engCfg d).successors t |>.any fun u => ((s.die d).ovm.waiting.any fun l => l.contains u)

/-- The engine freed of its task, or kept busy while an entry of the completion waits (R328). -/
def State.freeEngine (s : State) (d : Die) (r : Running) : State :=
  let x := s.die d
  let rest := x.ovm.running.filter fun q => !(q.cls == r.cls && q.engine == r.engine)
  let kept := if s.blocksOn d r.task then rest ++ [{ r with ended := true }] else rest
  s.setDie d { x with ovm := { x.ovm with running := kept } }

/-- A task completed with DONE (R327): buffers released, successors arrive, newly ready tasks enter, and then the engine
is free. -/
def State.completeTask (s : State) (d : Die) (r : Running) : State :=
  let c := s.engCfg d
  let x := s.die d
  let o := (c.releaseList r.task).foldl (fun o b => o.release b) x.ovm
  let o := { o with done := o.done ++ [r.task] }
  let s := (s.setDie d { x with ovm := o }).count (rOvmTasks d) 1
  let s := (c.successors r.task).foldl (fun s u => s.addArrival d u) s
  (s.enterPhase d).freeEngine d r

/-- A task failed with a status other than DONE (R329): no arrivals, the error recorded and logged. -/
def State.failTask (s : State) (d : Die) (r : Running) (status : Nat) : State :=
  let x := s.die d
  let s := s.setDie d { x with ovm := { x.ovm with running := x.ovm.running.filter fun q =>
                                          !(q.cls == r.cls && q.engine == r.engine) } }
  let s := s.setReg (rOvmErrTask d) (packFields [(0, r.task % 16384), (16, status % 16), (20, r.cls % 8)])
  let s := s.event (rOvmEvents d) 2
  let unit := match r.cls with
    | 1 => 2
    | 2 => 4
    | 3 => 5
    | _ => 0
  s.log warn 0x0340 (tallySource (d.idx + 1) unit (if unit = 0 then 0 else r.engine))
    (leBytes 2 r.task ++ leBytes 1 r.cls ++ leBytes 1 status)

end Sys2Proof.Machine
end

