-- ==== Sys2Proof/Machine/Flags.lean ====
section
/-! DEFINITION. The registers that show typed state: what each reads. Status words, masks and counts are computed from the
state that holds them; fields that the image sets read 0 with no image committed. `State.peek` is the value of any register
without the side effects of a read. -/

namespace Sys2Proof.Machine
open Sys2Proof

/-- A field of the committed image, 0 without one. -/
def State.img (s : State) (f : Image → Nat) : Nat := match s.image with | some i => f i | none => 0

/-- A field of the entry in force, 0 where the profile in force is not fitted (R305). -/
def State.ent (s : State) (f : PhaseEntry → Nat) : Nat := match s.entry with | some e => f e | none => 0

/-- Whether a profile change is in progress (R59, R60, R589). -/
def Sys.profileBusy (y : Sys) : Bool := y.s1Change || y.switch0 || y.switch1

/-- Whether the head of the command queue waits (R585). -/
def State.headWait (s : State) : Bool :=
  s.sys.waitEdge || s.sys.waitSave ||
    (s.sys.queue.head? == some (.cmd 1) && (s.loading.isSome || s.bist.run.isSome || s.sys.profileBusy))

/-- Whether any RC bit is set in the registers from `lo` to below `hi` (R587). -/
def State.anyEvent (s : State) (lo hi : Nat) : Bool :=
  s.regs.any fun r => decide (lo ≤ r.1 ∧ r.1 < hi) && r.2 &&& rcMask r.1 != 0

/-- GLB.IRQ_SUMMARY (R587). -/
def State.irqSummary (s : State) : Word :=
  let hub := [0x20000, 0x30000, 0x40000, 0x60000, 0x70000, 0x80000, 0xB0000, 0x10000, 0xC0000]
  let hubBits := hub.zipIdx.map fun b => (b.2, bnat (s.anyEvent b.1 (b.1 + (if b.1 = 0x40000 then 0x20000 else 0x10000))))
  let dieBits := fun (d : Die) (at0 : Nat) => (List.range 11).map fun n =>
    (at0 + n, bnat (s.anyEvent (d.base + n * 0x10000) (d.base + (n + 1) * 0x10000)))
  let s1 := if s.hasS1 && decide (s.d1.power ≠ 0) then dieBits .s1 20 else []
  packFields (hubBits ++ dieBits .s0 9 ++ s1)

/-- GLB registers. -/
def State.viewGlb (s : State) (o : Nat) : Word :=
  if o = rGlbId then
    packFields [(0, 1), (4, match s.sec.variant with | .aq => 1 | .av => 2 | .as => 3), (8, 0xB0), (16, 0x8400)]
  else if o = rGlbState then
    packFields [(0, s.dev.code), (4, bnat s.sys.profileBusy), (5, bnat s.sys.haltLow), (6, bnat s.dep.safe)]
  else if o = rGlbCmdStatus then
    packFields [(0, s.sys.lastCode % 256), (8, s.sys.reason % 16), (16, min 15 s.sys.queue.length), (20, bnat s.headWait),
                (24, s.sys.seq % 256)]
  else if o = rGlbCommit then packFields [(8, bnat (!s.sh.isEmpty))]
  else if o = rGlbNodeId then BitVec.ofNat 32 (s.node % 65536)
  else if o = rGlbIrqSummary then s.irqSummary
  else if o = rGlbGpioIn then
    let dir := s.reg rGlbGpioDir
    (s.reg rGlbGpioOut &&& dir) ||| (Config.freeWord s.free &&& ~~~dir &&& 0xFF#32)
  else s.reg o

/-- Low word of a 64-bit value. -/
def loWord (v : Nat) : Word := BitVec.ofNat 32 v

/-- High word of a 64-bit value. -/
def hiWord (v : Nat) : Word := BitVec.ofNat 32 (v / 4294967296)

/-- TICK registers. -/
def State.viewTick (s : State) (o : Nat) : Word :=
  if o = rTickTimeLo then loWord s.now
  else if o = rTickTimeHi then hiWord s.now
  else if o = rTickNumLo then loWord s.tick.num
  else if o = rTickNumHi then hiWord s.tick.num
  else if o = rTickStatus then
    packFields [(0, s.tick.phase % 8), (8, bnat (s.tick.locked || (s.dev == .running && s.src == 0))),
                (9, bnat s.tick.lost)]
  else if rTickPhase 0 ≤ o ∧ o ≤ rTickPhase 5 then
    let n := (o - rTickPhase 0) / 4
    packFields [(0, s.ent (·.offset n) % 65536), (16, s.ent (·.budget n) % 65536)]
  else if o = rTickCuts then packFields [(0, s.ent (·.ingestCut) % 65536), (16, s.ent (·.offset 4) % 65536)]
  else s.reg o

/-- Bytes an area of staging still takes (R89). -/
def State.stageFree (s : State) : Nat :=
  s.img (·.world.stageBytes) - s.world.leaving - (s.world.staged.map (·.size)).foldl (· + ·) 0

/-- The stream that WORLD.STREAM_SEL names. -/
def State.selStream (s : State) : Stream := s.world.streams.getD (bits (s.reg rWorldStreamSel) 6 0) Stream.idle

/-- Whether the tick's commit has reached its start T_j + C (R104, R619). -/
def State.commitDue (s : State) : Bool :=
  s.dev == .running && s.tick.live && !s.world.begun && decide (s.tick.tk + s.cutC ≤ s.now)

/-- WORLD registers. -/
def State.viewWorld (s : State) (o : Nat) : Word :=
  let w := s.world
  if o = rWorldStatus then
    packFields [(0, bnat (w.busy || s.commitDue)), (1, bnat w.stale), (2, bnat w.syncing), (8, w.egoAge % 256),
                (16, s.stageFree / 1024 % 65536)]
  else if o = rWorldEpoch then BitVec.ofNat 32 w.epoch
  else if o = rWorldStreamAcc then BitVec.ofNat 32 (satNat 32 s.selStream.acc)
  else if o = rWorldStreamRej then BitVec.ofNat 32 (satNat 32 s.selStream.rej)
  else if o = rWorldStreamLate then BitVec.ofNat 32 (satNat 32 s.selStream.late)
  else if o = rWorldContent then
    let agents := (List.range 256).countP fun a => w.modes.any fun m => m.idx / 4 == a
    packFields [(0, agents), (10, w.modes.length % 2048), (22, w.route.length % 1024)]
  else if o = rWorldUrgent then BitVec.ofNat 32 (w.urgTaken % 256)
  else s.reg o

/-- Group size G (R432): 1 without a LINKS section. -/
def State.groupSize (s : State) : Nat :=
  match s.image.bind (·.links) with
  | none => 1
  | some l => l.box.getD 0 1 * l.box.getD 1 1 * l.box.getD 2 1

/-- Rank in the planning group (R432). -/
def State.rank (s : State) : Nat :=
  match s.image.bind (·.links) with
  | none => 0
  | some l =>
    let c := s.reg rKlinkCoord
    let g := fun k => l.box.getD k 1
    bits c 5 0 % g 0 + g 0 * (bits c 13 8 % g 1 + g 1 * (bits c 21 16 % g 2))

/-- KLINK registers. -/
def State.viewKlink (s : State) (o : Nat) : Word :=
  let l? := s.image.bind (·.links)
  let num := fun (f : LinksCfg → List Nat) (k : Nat) => match l? with | some l => (f l).getD k 0 % 128 | none => 0
  let mesh := fun (k : Nat) => match l? with | some l => bnat (l.mesh.getD k false) | none => 0
  if o = rKlinkCfg then
    packFields [(0, num (·.dims) 0), (7, mesh 0), (8, num (·.dims) 1), (15, mesh 1), (16, num (·.dims) 2), (23, mesh 2)]
  else if o = rKlinkGroup then packFields [(0, num (·.box) 0), (8, num (·.box) 1), (16, num (·.box) 2)]
  else if o = rKlinkMaster then
    match l? with
    | some l => packFields [(0, l.master % 65536), (16, l.leadUs % 128)]
    | none => 0
  else if o = rKlinkRank then
    if s.image.isSome then packFields [(0, s.rank % 4096), (16, s.groupSize % 8192)] else 0
  else if rKlinkPortStatus 0 ≤ o ∧ o ≤ rKlinkPortStatus 5 then
    let p := (o - rKlinkPortStatus 0) / 4
    let q := s.kl.ports.getD p Port.idle
    packFields [(0, bnat q.up), (1, bnat (s.portRequired p)), (2, bnat q.spare), (3, bnat q.miswired),
                (4, q.lanes % 32), (16, q.node % 65536)]
  else if rKlinkPortWire 0 ≤ o ∧ o ≤ rKlinkPortWire 5 then
    BitVec.ofNat 32 ((s.kl.ports.getD ((o - rKlinkPortWire 0) / 4) Port.idle).wire % 65536)
  else if o = rKlinkGopStatus then
    packFields [(0, bnat s.kl.entered), (1, bnat s.kl.bcasting), (2, bnat (s.kl.snapAt.isSome || s.kl.snapDue.isSome))]
  else s.reg o

/-- Whether EG channel `e` is in ring mode: SLOTS of its geometry is not 0 (HAUL.EG_GEOM). -/
def State.egGeom (s : State) (e : Nat) : Word :=
  match s.image with
  | some i =>
    if i.streams.planChan = e then packFields [(0, i.streams.slots % 65536), (16, i.streams.slot64 % 256)]
    else s.reg (rHaulEgGeom e)
  | none => s.reg (rHaulEgGeom e)

/-- Whether the channel is an EG channel in ring mode (R385). -/
def State.ringMode (s : State) (ch : Nat) : Bool :=
  decide (128 ≤ ch ∧ ch < 136) && decide (bits (s.egGeom (ch - 128)) 15 0 ≠ 0)

/-- HAUL registers. -/
def State.viewHaul (s : State) (o : Nat) : Word :=
  if rHaulBusy 0 ≤ o ∧ o ≤ rHaulBusy 4 then
    let w := (o - rHaulBusy 0) / 4
    packFields ((List.range 32).map fun j => (j, bnat (s.chan (32 * w + j)).chain.isSome))
  else if rHaulEgGeom 0 ≤ o ∧ o ≤ rHaulEgGeom 7 ∧ (o - rHaulEgGeom 0) % 16 = 0 then s.egGeom ((o - rHaulEgGeom 0) / 16)
  else if 0x41000 ≤ o then
    let i := (o - 0x41000) / 64
    let c := s.chan i
    let full := decide (i < 128) && (s.world.streams.getD i Stream.idle).full
    let waiting := match c.chain with
      | some h => (h.step == .held && !s.host.losers.contains i) || (h.step == .moving && full)
      | none => false
    if o = rHaulChStatus i then
      packFields [(0, bnat c.chain.isSome), (1, bnat c.paused), (2, bnat waiting), (3, bnat (s.ringMode i)),
                  (4, c.status % 16), (8, min 31 c.queue.length)]
    else if o = rHaulChCurLo i then loWord c.cur
    else if o = rHaulChCurHi i then hiWord c.cur
    else s.reg o
  else s.reg o

/-- Whether a unit of a slice class (0 collision, 1 rollout, 2 Select, 3 Heap, 4 row group) is in service on a powered die
(R486). -/
def DieState.inService (x : DieState) (cls unit : Nat) : Bool :=
  x.power == 2 && match cls with
  | 0 => (x.ces.getD unit CeUnit.idle).role != .retired
  | 1 => x.reIn.contains unit
  | 2 => !x.seOut.contains unit
  | 3 => !x.heapOut
  | _ => !x.rowOut.contains unit

/-- Device time from which a unit's age counts (R486). DESIGN CHOICE (notes/assumptions/44.md): of a unit that has completed no
slice, the time its die took up service. -/
def DieState.testedAt (x : DieState) (cls unit : Nat) : Int :=
  match x.tested.find? fun q => q.1 == cls && q.2.1 == unit with
  | some q => q.2.2
  | none => x.since

/-- Time in ns since a unit's last completed slice (R486). -/
def State.testAge (s : State) (d : Die) (cls unit : Nat) : Nat := ((s.now : Int) - (s.die d).testedAt cls unit).toNat

/-- Every unit of the in-field test: die, class, physical index (R484). -/
def testUnits : List (Die × Nat × Nat) :=
  [Die.s0, Die.s1].flatMap fun d => [(0, 68), (1, 16), (2, 2), (3, 1), (4, 9)].flatMap fun c =>
    (List.range c.2).map fun u => (d, c.1, u)

/-- DEPUTY.TEST_AGE (R486): the oldest age of a unit in service, of equal ones the first by die, class and index. -/
def State.oldestTest (s : State) : Word :=
  let served := testUnits.filter fun u => (s.die u.1).inService u.2.1 u.2.2
  match served.foldl (fun (m : Option ((Die × Nat × Nat) × Nat)) u =>
      let age := s.testAge u.1 u.2.1 u.2.2
      match m with
      | some (v, old) => if old < age then some (u, age) else some (v, old)
      | none => some (u, age)) none with
  | none => 0
  | some (u, age) => packFields [(0, min 65535 (age / 1000000)), (16, u.2.1), (19, u.1.idx), (20, u.2.2)]

/-- DEPUTY registers. -/
def State.viewDeputy (s : State) (o : Nat) : Word :=
  let d := s.dep
  if o = rDeputyTestAge then s.oldestTest
  else if o = rDeputyStatus then
    packFields [(0, bnat d.safe), (1, bnat d.check.isSome), (2, bnat d.injOk), (3, bnat (!d.present.isEmpty)),
                (8, d.cause % 256), (16, d.invRun % 16), (20, s.nInv % 16)]
  else if rDeputyV 0 ≤ o ∧ o ≤ rDeputyV 7 then BitVec.ofNat 32 (fieldU d.shown (o - rDeputyV 0) 4)
  else if o = rDeputyTol then packFields [(0, s.img (·.safety.tolPos) % 65536), (16, s.img (·.safety.tolHdg) % 65536)]
  else s.reg o

/-- TALLY registers. -/
def State.viewTally (s : State) (o : Nat) : Word :=
  let t := s.tally
  let head := match t.written with | e :: _ => e.1 | [] => 0
  let tail := match t.written.getLast? with | some e => e.1 | none => 0
  if o = rTallyStatus then
    packFields [(0, t.staged.length % 8192), (13, bnat t.ready), (14, bnat t.erasing.isSome), (15, bnat t.dumping.isSome)]
  else if o = rTallyHeadSeqLo then loWord head
  else if o = rTallyHeadSeqHi then hiWord head
  else if o = rTallyTailSeqLo then loWord tail
  else if o = rTallyTailSeqHi then hiWord tail
  else if o = rTallyHeadLinkLo then BitVec.ofNat 32 (fieldU t.link 0 4)
  else if o = rTallyHeadLinkHi then BitVec.ofNat 32 (fieldU t.link 4 4)
  else if o = rTallyTokens then BitVec.ofNat 32 (t.tokens % 8192)
  else if o = rTallyWear then BitVec.ofNat 32 ((t.erases.foldl max 0) % 262144)
  else s.reg o

/-- SEC registers. -/
def State.viewSec (s : State) (o : Nat) : Word :=
  let c := s.sec
  if o = rSecFwSvn then setBits (s.reg o) 13 8 c.vendorMin
  else if o = rSecSerialLo then loWord c.serial
  else if o = rSecSerialHi then hiWord c.serial
  else if o = rSecLock then setBit (s.reg o) 8 c.jtagLocked
  else if rSecSlot 0 ≤ o ∧ o ≤ rSecSlot 3 then
    let k := c.slots.getD ((o - rSecSlot 0) / 4) KeySlot.blank
    packFields [(0, bnat k.provisioned), (1, bnat k.revoked), (2, bnat k.partlySet), (8, k.minSvn % 64)]
  else if o = rSecOtpStatus then setBit (s.reg o) 0 c.otp.isSome
  else if o = rSecAttStatus then setBit (s.reg o) 0 c.report.isSome
  else s.reg o

/-- The MISR of a passing partition (R544). -/
def goldenMisr (cls : Nat) : Word :=
  match cls with
  | 0 => 0x3A6CE215
  | 1 => 0x9B0471DA
  | 2 => 0x6F2E0B83
  | 3 => 0xD1594C2E
  | 4 => 0x27E8B06D
  | 5 => 0x84C31F97
  | _ => 0xE60A5D38

/-- Instances of a partition class on a die, 0 where the die has none (R544). -/
def instances (die cls : Nat) : Nat :=
  if die = 0 then (if cls = 6 then 1 else 0)
  else if die ≤ 2 then [68, 16, 9, 2, 1, 1].getD cls 0
  else 0

/-- Places of a class on a die where a BIST of MBIST (`ram`) or LBIST can find a failure (R544, R545). -/
def bistPlaces (die cls : Nat) (ram : Bool) : Nat :=
  if ram ∧ 7 ≤ cls ∧ cls ≤ 10 then bnat (die == 1 || die == 2) else instances die cls

/-- Whether a failure is one that a run of this scope finds (R543 to R546). -/
def bistFinds (run : BistRun) (f : BistFail) : Bool :=
  decide (run.dies / 2 ^ f.die % 2 = 1) && decide (f.inst < bistPlaces f.die f.cls f.ram) &&
    (if f.ram then decide (run.kind % 2 = 1) else decide (2 ≤ run.kind))

/-- The MISR of a failed partition: a free word other than the expected value (R544). -/
def failMisr (cls inst : Nat) : Word :=
  let w := Config.failSignature cls inst
  if w = goldenMisr cls then ~~~w else w

/-- BIST.SIG: the MISR of the partition that SIG_SEL names, in the last LBIST run (R544). -/
def State.bistSig (s : State) : Word :=
  let sel := s.reg rBistSigSel
  let die := bits sel 1 0
  let cls := bits sel 4 2
  let inst := bits sel 14 8
  if s.bist.lbistDies / 2 ^ die % 2 = 1 ∧ inst < instances die cls then
    if s.bist.fails.contains ⟨die, cls, inst, false⟩ then failMisr cls inst else goldenMisr cls
  else 0

/-- CLKPWR registers. -/
def State.viewClkpwr (s : State) (o : Nat) : Word :=
  let p := s.power
  if o = rClkpwrClkStatus then BitVec.ofNat 32 (p.clocks % 128)
  else if o = rClkpwrArith then packFields [(0, p.mhz0 % 2048), (16, p.mhz1 % 2048)]
  else if o = rClkpwrDomain then
    packFields [(0, s.d0.power % 4), (2, s.d1.power % 4), (4, bnat (!s.hasS1)), (5, bnat s.d0.forced),
                (6, bnat s.d1.forced)]
  else if o = rClkpwrVolt then packFields [(0, p.mv0 % 1024), (16, if s.d1.power = 0 then 0 else p.mv1 % 1024)]
  else if o = rClkpwrRails then BitVec.ofNat 32 (p.rails % 8192)
  else if o = rClkpwrKlPwr then packFields ((List.range 6).map fun k => (k, bnat (s.portRequired k)))
  else s.reg o

/-- STRUCT registers (08_structure_image.md). -/
def State.viewStruct (s : State) (o : Nat) : Word :=
  if o = rStructStatus then
    let r := s.reg o
    let step := match s.loading with | some l => l.step | none => 0
    packFields [(0, bnat s.loading.isSome), (1, step % 8), (4, bnat s.image.isSome), (5, bnat s.damaged),
                (8, bits r 15 8), (16, bits r 23 16)]
  else if o = rStructFormat then if s.image.isSome then packFields [(0, s.img (·.minor) % 65536), (16, 1)] else 0
  else if o = rStructImageId then BitVec.ofNat 32 (s.img (·.imageId))
  else if o = rStructCompiler then BitVec.ofNat 32 (s.img (·.compiler))
  else if o = rStructKey then packFields [(0, s.img (·.slot) % 4), (8, s.img (·.svn) % 64)]
  else if o = rStructFit then
    packFields [(0, s.img (fun i => (List.range 4).foldl (fun a p => a + 2 ^ p * bnat (i.entry p).isSome) 0)),
                (8, s.ent (·.ceLoss) % 16), (12, s.ent (·.reLoss) % 16), (16, s.ent (fun e => bnat e.voteFits))]
  else if o = rStructMargin then
    packFields [(0, s.ent (fun e => (e.budget 2 * 1000 - e.sweepNs) / 1000) % 65536),
                (16, s.ent (fun e => (e.budget 1 * 1000 - e.proposeNs) / 1000) % 65536)]
  else if o = rStructMinPeriod then BitVec.ofNat 32 (s.ent (·.minPeriod) % 65536)
  else if rStructDigest 0 ≤ o ∧ o ≤ rStructDigest 7 then
    BitVec.ofNat 32 (s.img fun i => fieldU i.digest (o - rStructDigest 0) 4)
  else s.reg o

/-- OVM registers of a die. -/
def State.viewOvm (s : State) (d : Die) (o : Nat) : Word :=
  let x := s.die d
  let c := s.engCfg d
  if o = rOvmStatus d then
    let ready := (List.range 6).map fun k => (k, bnat (!(x.ovm.lists.getD k []).isEmpty))
    let blocked := (List.range 6).map fun k => (8 + k, bnat (s.tick.live && !s.tick.stopped &&
      (x.engines k).any fun e => (x.ovm.on k e).isNone && (x.ovm.select c (s.admits d e) k).1.isNone))
    packFields (ready ++ blocked)
  else if o = rOvmListOcc d then
    let k := bits (s.reg (rOvmListSel d)) 2 0
    packFields [(0, (x.ovm.lists.getD k []).length % 8192), (16, x.ovm.peaks.getD k 0 % 8192)]
  else if o = rOvmPool d then
    if s.image.isSome then packFields [(0, x.ovm.free c % 4096), (16, x.ovm.minFree % 4096)] else 0
  else if o = rOvmPoolSize d then if s.image.isSome then BitVec.ofNat 32 (c.poolSize % 4096) else 0
  else s.reg o

/-- PAGER registers of a die. -/
def State.viewPager (s : State) (d : Die) (o : Nat) : Word :=
  let x := s.die d
  if o = rPagerCfg d then
    packFields [(0, s.img fun i => log2m i.world.m), (4, s.img (·.world.ox) % 512), (16, s.img (·.world.oy) % 512)]
  else if o = rPagerOriginTx d then BitVec.ofInt 32 x.tx0
  else if o = rPagerOriginTy d then BitVec.ofInt 32 x.ty0
  else if o = rPagerMissingLo d then loWord x.missing.toNat
  else if o = rPagerMissingHi d then hiWord x.missing.toNat
  else s.reg o

/-- PA registers of a die. -/
def State.viewPa (s : State) (d : Die) (o : Nat) : Word :=
  let x := s.die d
  let mask := fun (f : NetCfg → Bool) => s.img fun i =>
    (i.policy.nets.zipIdx.map fun n => 2 ^ n.2 * bnat (f n.1)).foldl (· + ·) 0
  if o = rPaCfg d then
    packFields [(0, s.img (·.policy.nets.length) % 16), (8, mask (·.flagged) % 256),
                (16, bnat (s.image.isSome && usesS1 s.profile)), (24, mask (·.classP) % 256)]
  else if o = rPaStatus d then
    packFields [(0, bnat x.paBusy), (1, x.paNet % 8), (4, bnat x.paOk), (5, x.paRun % 4), (16, x.paOp % 1024)]
  else if o = rPaRowmap d then
    let lost := x.rowOut.filter fun p => decide (p < 8)
    let subst := if x.rowOut.contains 8 then 15 else lost.headD 15
    packFields ((0, subst % 16) :: (List.range 9).map fun p => (8 + p, bnat (x.rowOut.contains p)))
  else if o = rPaTest d then
    packFields [(0, x.rowTest % 16), (4, bnat (x.slices.any fun t => t.1 == 4)), (5, bnat x.rowFail)]
  else if o = rPaRstate d then setBits (s.reg o) 12 0 (s.img (·.policy.rstateLen) / 64)
  else s.reg o

/-- RE registers of a die. -/
def State.viewRe (s : State) (d : Die) (o : Nat) : Word :=
  let x := s.die d
  let h := fun (f : RolloutCfg → Int) => s.img fun i => unsignedOf 16 (f i.rollout)
  if o = rReCfg d then
    packFields [(0, s.img fun i => bnat i.rollout.trailer),
                (1, s.img fun i => match i.rollout.nSamp with | 32 => 1 | 64 => 2 | 128 => 3 | _ => 0),
                (3, s.img fun i => match i.rollout.source with | .table _ => 1 | .network .. => 0),
                (8, s.img fun i => match i.rollout.source with | .table _ => 0 | .network n _ => n % 8)]
  else if o = rReDt d then BitVec.ofNat 32 (s.img (·.rollout.dtUs) % 1048576)
  else if o = rRePlanOfs d then BitVec.ofNat 32 (s.img (·.rollout.planOfsUs) % 131072)
  else if o = rReLattice d then
    packFields [(0, s.img (·.rollout.latL) % 128), (8, s.img (·.rollout.latS) % 128), (16, s.img (·.rollout.latJ) % 128)]
  else if o = rReAnchors d then BitVec.ofNat 32 (s.img (·.rollout.anchorCount) % 8192)
  else if o = rReCap d then BitVec.ofNat 32 (s.ent (·.cap) % 2097152)
  else if o = rReActive d then packFields (x.reActive.map fun r => (r, 1))
  else if o = rReSeedLo d then loWord s.seed.toNat
  else if o = rReSeedHi d then hiWord s.seed.toNat
  else if o = rReLimA d then packFields [(0, h (·.aMin)), (16, h (·.aMax))]
  else if o = rReLimK d then packFields [(0, h (fun r => r.kMax)), (16, h (·.kdMax))]
  else if o = rReLimV d then packFields [(0, h (fun r => r.vMax)), (16, h (·.latMax))]
  else if o = rReTrailer d then packFields [(0, h (fun r => r.lt)), (16, h (fun r => r.lh))]
  else if o = rRePsiMax d then BitVec.ofNat 32 (h (·.psiMax) % 32768)
  else if o = rReOffsets d then packFields [(0, h (·.latHalf)), (16, h (·.spdHalf))]
  else if o = rReJitter d then packFields [(0, h (fun r => r.jitA)), (16, h (fun r => r.jitK))]
  else s.reg o

/-- Roles as CE.ENG_STATUS codes them (R195). -/
def CeRole.code : CeRole → Nat
  | .serving => 0
  | .spare => 1
  | .test => 2
  | .retired => 3

/-- The physical engine under test, 0 when there is none. -/
def DieState.underTest (x : DieState) : Nat :=
  ((List.range 68).find? fun p => match x.ces[p]? with | some c => c.role == .test | none => false).getD 0

/-- CE registers of a die. -/
def State.viewCe (s : State) (d : Die) (o : Nat) : Word :=
  let x := s.die d
  let i32 := fun (l : List (Nat × Nat)) => packFields l
  let role := fun (k : CeRole) (w : Nat) => packFields ((List.range 32).map fun j =>
    (j, match x.ces[32 * w + j]? with | some c => bnat (c.role == k) | none => 0))
  let disc := fun (n : Nat) => match s.image with | some i => i.world.discs[n]? | none => none
  let box := fun (n : Nat) => match s.image with | some i => i.world.boxes[n]? | none => none
  if o < rCeCfg d then
    let p := (o - rCeEngStatus d 0) / 256
    let c := x.ces.getD p CeUnit.idle
    if o = rCeEngStatus d p then
      packFields [(0, c.role.code), (8, if c.role = .serving then c.logical % 128 else 127), (16, bnat c.canaryOk),
                  (17, bnat c.testOk)]
    else s.reg o
  else if o = rCeCfg d then
    i32 [(0, s.img (·.world.discs.length) % 16), (4, s.img (·.world.boxes.length) % 4),
         (6, s.img fun i => bnat i.world.unkMode), (8, s.img (·.safety.sets.length) % 32)]
  else if o = rCePLimit d then BitVec.ofNat 32 (s.img (·.cost.pLimit) % 131072)
  else if o = rCeBufs d then i32 [(0, s.img (·.cost.riskBuf) % 65536), (16, s.img (·.cost.clrTarget) % 65536)]
  else if o = rCeReach d then BitVec.ofNat 32 (s.img (·.world.reach))
  else if rCeDiscOfs d 0 ≤ o ∧ o ≤ rCeDiscRad d 7 then
    let n := (o - rCeDiscOfs d 0) / 8
    match disc n with
    | none => 0
    | some k =>
      if o = rCeDiscOfs d n then i32 [(0, unsignedOf 16 k.ox), (16, unsignedOf 16 k.oy)]
      else i32 [(0, k.rad % 65536), (16, bnat k.trailer)]
  else if rCeBoxOfs d 0 ≤ o ∧ o ≤ rCeBoxExt d 1 then
    let n := (o - rCeBoxOfs d 0) / 8
    match box n with
    | none => 0
    | some b =>
      if o = rCeBoxOfs d n then i32 [(0, unsignedOf 16 b.ox), (16, unsignedOf 16 b.oy)]
      else i32 [(0, b.hl % 65536), (16, b.hw % 65536)]
  else if rCeMap d 0 ≤ o ∧ o ≤ rCeMap d 15 then
    let n := (o - rCeMap d 0) / 4
    i32 ((List.range 4).map fun k => (8 * k, (x.engineOf (4 * n + k)).getD 127))
  else if rCeServing d 0 ≤ o ∧ o ≤ rCeServing d 2 then role .serving ((o - rCeServing d 0) / 4)
  else if rCeRetired d 0 ≤ o ∧ o ≤ rCeRetired d 2 then role .retired ((o - rCeRetired d 0) / 4)
  else if o = rCeTest d then
    i32 [(0, x.underTest), (7, bnat (x.slices.any fun t => t.1 == 0)), (8, bnat x.ceFail)]
  else if o = rCePool d then
    let spare := (x.ces.filter fun c => c.role == .spare).length
    if spare = 68 then 0 else i32 [(0, x.serving), (8, spare), (16, x.retired)]
  else s.reg o

/-- SEL registers of a die. -/
def State.viewSel (s : State) (d : Die) (o : Nat) : Word :=
  if o = rSelCfg d then packFields [(0, s.img (·.select.kSurv) % 2048), (16, s.img (·.select.kFinal) % 2048)]
  else if o = rSelBase d then BitVec.ofNat 32 (s.img (·.cost.base))
  else if rSelW d 0 ≤ o ∧ o ≤ rSelW d 9 then
    let n := (o - rSelW d 0) / 4
    packFields [(0, s.img (fun i => i.cost.weights.getD n 0) % 65536), (16, s.img (fun i => i.cost.shifts.getD n 0) % 32)]
  else if o = rSelEStatus d 0 ∨ o = rSelEStatus d 1 then
    let e := (o - rSelEStatus d 0) / (rSelEStatus d 1 - rSelEStatus d 0)
    setBit (s.reg o) 0 (((s.die d).sel.any fun w => w.engine == e) || (s.die d).selFetch.any fun f => f.1 == e)
  else s.reg o

/-- R_RC of the profile in force, as HEAP.REDUN shows it (R279): 0x7FF for every valid entry. -/
def recheckCount (profile : Nat) : Nat :=
  match profile with
  | 1 => 64
  | 3 => 0x7FF
  | _ => 16

/-- HEAP registers of a die. -/
def State.viewHeap (s : State) (d : Die) (o : Nat) : Word :=
  let x := s.die d
  if o = rHeapCfg d then
    packFields [(0, s.img (·.refine.rounds) % 16), (4, s.img (·.refine.decay) % 16), (8, s.img (·.refine.visitMax) % 128),
                (16, s.img (·.refine.parents) % 4096), (28, s.img (·.refine.shrink) % 4)]
  else if o = rHeapAmp d then packFields [(0, s.img (·.refine.ra) % 65536), (16, s.img (·.refine.rk) % 65536)]
  else if o = rHeapTimeup d then BitVec.ofNat 32 (s.img (·.refine.timeupUs) % 65536)
  else if o = rHeapFallback d then
    packFields [(0, s.img fun i => unsignedOf 16 i.safety.aFb), (16, s.img fun i => unsignedOf 16 i.safety.aEm)]
  else if o = rHeapRedun d then BitVec.ofNat 32 (s.ent fun _ => recheckCount s.entryProfile)
  else if o = rHeapStatus d then
    packFields [(0, x.heap.length % 131072), (17, bnat x.roundOn), (18, x.round % 8), (21, x.rounds % 16)]
  else if d = .s1 ∧ (o = rHeapFcStatus d ∨ o = rHeapFcNs d ∨ o = rHeapVotesTotal d) then 0
  else s.reg o

/-- GAL.CONF_COUNT: the conflicts lost by the requester that CONF_SEL names (R344). -/
def State.viewLosses (s : State) (d : Die) : Word :=
  let sel := s.reg (rGalConfSel d)
  let r := bits sel 6 0 + 128 * bits sel 8 8
  match (s.die d).losses.find? fun p => p.1 == r with
  | some p => BitVec.ofNat 32 p.2
  | none => 0

/-- Registers of a die's blocks, by block. -/
def State.viewDie (s : State) (d : Die) (o : Nat) : Word :=
  match (o - d.base) / 0x10000 with
  | 0 => s.viewOvm d o
  | 1 => s.viewPager d o
  | 2 => s.viewPa d o
  | 3 => s.viewRe d o
  | 4 => s.viewCe d o
  | 5 => s.viewSel d o
  | 6 => s.viewHeap d o
  | 7 => if o = rGalRepair d then BitVec.ofNat 32 (s.sec.columns.getD d.idx 0 % 65536)
    else if o = rGalConfCount d then s.viewLosses d
    else s.reg o
  | 9 =>
    let c := (o - rIhaulChStatus d 0) / 64
    if o = rIhaulChStatus d c then setBit (s.reg o) 0 ((s.die d).ihaul.any fun h => h.1 == c) else s.reg o
  | 10 =>
    let x := s.die d
    if o = rXcutStatus d then packFields [(0, bnat x.peerUp), (1, bnat x.hubUp), (2, bnat x.isolated)] else s.reg o
  | _ => s.reg o

/-- The primary offset that holds a register's value: the base seed is kept on S0 (R581). -/
def canonical (o : Nat) : Nat :=
  if o = rReSeedSetLo .s1 then rReSeedSetLo .s0 else if o = rReSeedSetHi .s1 then rReSeedSetHi .s0 else o

/-- The value a register shows, without the side effects of a read. WO and W1P fields read 0 (R12): they hold nothing. -/
def State.peek (s : State) (o : Nat) : Word :=
  let o := canonical o
  match regionOf o with
  | .die d => s.viewDie d o
  | .beyond => 0
  | .hub =>
    match o / 0x10000 with
    | 0 => s.viewGlb o
    | 2 => s.viewTick o
    | 3 => if o = rHostLink then setBit (s.reg o) 9 s.host.up else s.reg o
    | 4 => s.viewHaul o
    | 5 => s.viewHaul o
    | 6 => s.viewWorld o
    | 7 => s.viewDeputy o
    | 8 => s.viewTally o
    | 9 => s.viewSec o
    | 10 =>
      if o = rBistStatus then setBit (s.reg o) 0 s.bist.run.isSome else if o = rBistSig then s.bistSig else s.reg o
    | 11 => s.viewKlink o
    | 12 => s.viewClkpwr o
    | 13 => s.viewStruct o
    | _ => s.reg o

end Sys2Proof.Machine
end

