-- ==== Sys2Proof/Machine/Operands.lean ====
section
/-! DEFINITION. The operand forms of the commands: local and global addresses (R339 to R342), the guarded regions (R70,
R183, R201), buffer references (R334), and the remote operations performed at this device (R347 to R352). -/

namespace Sys2Proof.Machine
open Sys2Proof

/-- What a local address reaches (R340, R341), with the offset in it. -/
inductive Area where
  | dram (d : Die) (off : Nat)
  | gallery (d : Die) (off : Nat)
  | policy (d : Die) (off : Nat)
  | slices (d : Die) (off : Nat)
  | ceLocal (d : Die) (off : Nat)
  | reLocal (d : Die) (off : Nat)
  | heapMem (d : Die) (off : Nat)
  | selBuf (d : Die) (off : Nat)
  | counters (d : Die) (off : Nat)
  | staging (off : Nat)
  deriving DecidableEq, Repr

/-- The die whose power domain holds an area, none for the hub. -/
def Area.die : Area → Option Die
  | .dram d _ | .gallery d _ | .policy d _ | .slices d _ | .ceLocal d _ | .reLocal d _ | .heapMem d _ | .selBuf d _
  | .counters d _ => some d
  | .staging _ => none

/-- The area of a span of an on-chip window (R341). -/
def windowArea (d : Die) (o n : Nat) : Option Area :=
  if o + n ≤ 0xC40000 then some (.gallery d o)
  else if 0x1000000 ≤ o ∧ o + n ≤ 0x2000000 then some (.policy d (o - 0x1000000))
  else if 0x2000000 ≤ o ∧ o + n ≤ 0x2000000 + 68 * 0x40000 then some (.slices d (o - 0x2000000))
  else if 0x3200000 ≤ o ∧ o + n ≤ 0x3200000 + 68 * 0x10000 then some (.ceLocal d (o - 0x3200000))
  else if 0x3800000 ≤ o ∧ o + n ≤ 0x3800000 + 16 * 0x10000 then some (.reLocal d (o - 0x3800000))
  else if 0x3900000 ≤ o ∧ o + n ≤ 0x3A00000 then some (.heapMem d (o - 0x3900000))
  else if 0x3A00000 ≤ o ∧ o + n ≤ 0x3A00000 + 2 * 0x40000 then some (.selBuf d (o - 0x3A00000))
  else if 0x3B00000 ≤ o ∧ o + n ≤ 0x3B00000 + 0x20000 then some (.counters d (o - 0x3B00000))
  else none

/-- The area that holds `n` bytes from a local address, none where the map lists none (R340). -/
def areaOf (a n : Nat) : Option Area :=
  if a + n ≤ 0x800000000 then some (.dram .s0 a)
  else if 0x800000000 ≤ a ∧ a + n ≤ 0x1000000000 then some (.dram .s1 (a - 0x800000000))
  else if 0x400000000000 ≤ a ∧ a + n ≤ 0x400004000000 then windowArea .s0 (a - 0x400000000000) n
  else if 0x400100000000 ≤ a ∧ a + n ≤ 0x400104000000 then windowArea .s1 (a - 0x400100000000) n
  else if 0x400200000000 ≤ a ∧ a + n ≤ 0x400200400000 then some (.staging (a - 0x400200000000))
  else none

/-- The pieces of `n` bytes from `a` that cross no multiple of `q`, ascending. -/
def spansOf (q a n : Nat) : List (Nat × Nat) :=
  if n = 0 then []
  else (List.range ((a + n - 1) / q + 1 - a / q)).map fun k =>
    let lo := max a ((a / q + k) * q)
    (lo, min (a + n) ((a / q + k + 1) * q) - lo)

/-- The pieces of `n` bytes from `a` that cross no 4 KiB boundary, ascending (R348). -/
def pageSpans (a n : Nat) : List (Nat × Nat) := spansOf 4096 a n

/-- Whether one of a list of local spans reaches what a die's power domain holds. -/
def spansReach (d : Die) (spans : List (Nat × Nat)) : Bool :=
  spans.any fun p => ((areaOf p.1 p.2).bind (·.die)) == some d

/-- Whether a die's power domain is gated for an operation (R365): off, powering up, isolated, or S1 until the profile
change that powered it up has ended. -/
def State.gated (s : State) (d : Die) : Bool :=
  let x := s.die d
  x.power == 0 || x.power == 1 || x.isolated || (d == .s1 && s.sys.s1Rising && s.sys.profileBusy)

/-- The status an access of `n` bytes at a local address meets before it is performed: ADDR where nothing is mapped, then
DOMAIN_OFF (R342, R365). -/
def State.spanStatus (s : State) (a n : Nat) : Nat :=
  match areaOf a n with
  | none => 1
  | some ar =>
    match ar.die with
    | none => 0
    | some d =>
      if d = .s1 ∧ !s.hasS1 then 1
      else
        let beyond := match ar with
          | .dram d off => decide (s.usable d < off + n)
          | _ => false
        if beyond then 1 else if s.gated d then 4 else 0

/-- The status of an operation on `n` bytes at a local address: R347 and R348, then the map. -/
def State.opStatus (s : State) (a n : Nat) : Nat :=
  if a % 8 ≠ 0 ∨ n % 8 ≠ 0 ∨ n = 0 ∨ a / 4096 ≠ (a + n - 1) / 4096 then 1 else s.spanStatus a n

/-- Bytes of the tile directory and of the tile store in a die's DRAM, as (base, length) (R67). -/
def State.storeSpans (s : State) : List (Nat × Nat) :=
  let dir := s.pair rWorldDirBaseLo rWorldDirBaseHi
  let ext := s.reg rWorldDirExt
  let store := s.pair rWorldStoreBaseLo rWorldStoreBaseHi
  [(dir, 8 * (bits ext 15 0 * bits ext 31 16)), (store, 4096 * bits (s.reg rWorldStoreSlots) 20 0)]

/-- The guard a write meets while RUNNING or HOLD: the event register and bit it sets (R70, R183, R201). -/
def State.guardHit (s : State) (a n : Nat) : Option (Nat × Nat) :=
  if s.dev = .running ∨ s.dev = .hold then
    match areaOf a n with
    | some (.dram _ off) =>
      if s.storeSpans.any fun p => decide (off < p.1 + p.2 ∧ p.1 < off + n) then some (rWorldEvents, 0) else none
    | some (.policy d _) => some (rPaEvents d, 5)
    | some (.slices d _) | some (.ceLocal d _) => some (rCeEvents d, 6)
    | _ => none
  else none

/-- Whether the Crosscut of an access is down (R362): from the hub, or from a die, to the die or staging it reaches. -/
def State.crossDown (s : State) (from_ : Option Die) (a n : Nat) : Bool :=
  match areaOf a n, from_ with
  | none, _ => false
  | some ar, f =>
    match ar.die, f with
    | some d, none => !s.gated d && !(s.die d).hubUp
    | some d, some g => d != g && !s.gated d && !(s.die d).peerUp
    | none, some g => !(s.die g).hubUp
    | none, none => false

/-- The events an access leaves at the die it reaches: a refusal above the usable DRAM, an access that waited for
initialisation, a transfer that met a gated domain (R342, R359, R365). -/
def State.accessEvents (s : State) (a n : Nat) (status : Nat) : State :=
  match areaOf a n with
  | some (.dram d off) =>
    if status = 4 then s.event (rXcutEvents d) 2
    else if status = 1 then s.when ((d = .s0 || s.hasS1) && decide (s.usable d < off + n)) fun s => s.event (rDmcEvents d) 4
    else s.when (decide (s.front d < off + n)) fun s => s.event (rDmcEvents d) 3
  | some ar =>
    match ar.die with
    | some d => s.when (status = 4) fun s => s.event (rXcutEvents d) 2
    | none => s
  | none => s

/-- Bytes read at a mapped span: the arrival counters read the arrival counts (R338). -/
def State.readSpan (s : State) (a n : Nat) : List Byte :=
  match areaOf a n with
  | some (.counters d off) =>
    (List.range (n / 8)).flatMap fun i => leBytes 8 ((s.die d).ovm.arrived (off / 8 + i))
  | _ => s.load a n

/-- GET at this device: status and data, zero data with any status but DONE (R347, R352). -/
def State.getHere (s : State) (a n : Nat) : State × Nat × List Byte :=
  let st := s.opStatus a n
  let s := s.accessEvents a n st
  (s, st, if st = 0 then s.readSpan a n else List.replicate n 0)

/-! ### Memory errors -/

/-- A corrected error counted by the block that owns the memory (R182, R228, R353, R358). -/
def State.countCe (s : State) (ar : Area) : State :=
  match ar with
  | .dram d _ => (s.count (rDmcEccCe d) 1).event (rDmcEvents d) 0
  | .policy d _ => s.count (rPaBufCe d) 1
  | .slices d off => s.count (rCeEngEcc d (off / 0x40000)) 1
  | .ceLocal d off => s.count (rCeEngEcc d (off / 0x10000)) 1
  | .gallery d _ | .reLocal d _ | .heapMem d _ | .selBuf d _ | .counters d _ => (s.count (rGalEccCe d) 1).event (rGalEvents d) 0
  | .staging _ => s

/-- Corrected errors in a die's DRAM (R358). -/
def State.countDramCe (s : State) (d : Die) (n : Nat) : State :=
  s.when (n != 0) fun s => (s.count (rDmcEccCe d) n).event (rDmcEvents d) 0

/-- Address of an uncorrectable error (DMC.UE_ADDR, GAL.UE_ADDR). -/
def State.setUeAddr (s : State) (ar : Area) (a : Nat) : State :=
  match ar with
  | .dram d _ => s.setPair (rDmcUeAddrLo d) (rDmcUeAddrHi d) a
  | .staging _ => s
  | _ =>
    match ar.die with
    | some d => s.setReg (rGalUeAddr d) (BitVec.ofNat 32 ((a - winBaseOf d) % 67108864))
    | none => s

/-- An engine's uncorrectable error (R228): memory 0 world slice, 1 local memory. -/
def State.engineFault (s : State) (d : Die) (p mem ofs : Nat) : State :=
  let s := (s.event (rCeEngEvents d p) (1 + mem)).event (rCeEvents d) 1
  let s := s.setDie d ((s.die d).mapCe p fun c => { c with condemned := true })
  (s.log warn 0x0312 (tallySource (d.idx + 1) 1 p) (leBytes 1 mem ++ leBytes 4 ofs)).when s.tick.live fun s =>
    s.invalid reasonCeFault

/-- The network stopped on both dies (R182): its operations end, but for the task of die `keep`, whose completion is under way. -/
def State.stopNets (s : State) (keep : Option Die) : State :=
  s.dies.foldl (fun s g =>
    let x := s.die g
    s.setDie g { x with paBusy := false, paStopped := true
                        ovm := { x.ovm with running := x.ovm.running.filter fun r => r.cls != 0 || keep == some g } }) s

/-- An uncorrectable error in a read of the policy buffer that is no operation's (R182, R354): the event and the entry; while
PROPOSE runs its network stops. -/
def State.bufFault (s : State) (d : Die) : State :=
  let s := (s.event (rPaEvents d) 4).log warn 0x0301 (tallySource (d.idx + 1) 3 0)
    (leBytes 1 (s.die d).paNet ++ leBytes 2 (s.die d).paOp)
  s.when (s.tick.live && !s.tick.stopped && s.tick.rel == 2 && !s.plan.proposeOk) fun s => s.stopNets none

/-- An uncorrectable error in the Heap memory (R261). -/
def State.heapFault (s : State) (d : Die) (ofs : Nat) : State :=
  ((s.event (rHeapEvents d) 2).log warn 0x0330 (tallySource (d.idx + 1) 5 0) (leBytes 4 ofs)).when s.tick.live fun s =>
    s.invalid reasonHeapFault

/-- A read that met an uncorrectable error (R354, R358). DESIGN CHOICE (notes/assumptions/120.md): the entry of an engine's
memory (R228) carries the offset of the first byte of the read, also where it read several words. -/
def State.countUe (s : State) (ar : Area) (a : Nat) : State :=
  let s := s.setUeAddr ar a
  match ar with
  | .dram d _ => (s.count (rDmcEccUe d) 1).event (rDmcEvents d) 1
  | .staging _ => s
  | .slices d o => (s.event (rGalEvents d) 1).engineFault d (o / 0x40000) 0 (o % 0x40000)
  | .ceLocal d o => (s.event (rGalEvents d) 1).engineFault d (o / 0x10000) 1 (o % 0x10000)
  | .policy d _ => (s.event (rGalEvents d) 1).bufFault d
  | .gallery d _ | .reLocal d _ | .selBuf d _ | .counters d _ => s.event (rGalEvents d) 1
  | .heapMem d o => (s.event (rGalEvents d) 1).heapFault d o

/-- An uncorrectable error met in reading `len` bytes of S0's DRAM from `a` (R358): where in them is open
(notes/assumptions/3.md). -/
def State.sourceUe (s : State) (a len : Nat) : State :=
  let (f, s) := s.freeWord
  s.countUe (.dram .s0 a) (a + f.toNat % max 4 len / 4 * 4)

/-- BUSY hazards of a read of the Gallery counted (R346). -/
def State.countBusy (s : State) (d : Die) (n : Nat) : State := (s.count (rGalHazards d) n).event (rGalEvents d) 3

/-- A GET at this device that meets a fault (Instr.get): status and data. -/
def State.getFaulty (s : State) (a n fault : Nat) : State × Nat × List Byte :=
  let (s, st, bs) := s.getHere a n
  if st ≠ 0 then (s, st, bs)
  else match areaOf a n with
    | none => (s, st, bs)
    | some ar =>
      match fault with
      | 0 => (s, st, bs)
      | 1 => (s.countCe ar, st, bs)
      | 2 => (s.countUe ar a, 3, List.replicate n 0)
      | k =>
        match ar with
        | .gallery d _ =>
          let s := s.countBusy d (min 4 (k - 3))
          if 4 ≤ k - 3 then (s, 5, List.replicate n 0) else (s, st, bs)
        | _ => (s, st, bs)

/-! ### Writes and atomic operations -/

/-- The status of a write at this device: the map, the arrival counters (R338), the guards. DESIGN CHOICE
(notes/assumptions/24.md): a write that meets both a gated domain (R365) and a guard (R70), as one into S1's store while S1 is
gated, completes with DOMAIN_OFF and sets no GUARD_HIT. -/
def State.writeStatus (s : State) (a n : Nat) : Nat :=
  let st := s.opStatus a n
  if st ≠ 0 then st
  else match areaOf a n with
    | some (.counters ..) => 1
    | _ => if (s.guardHit a n).isSome then 7 else 0

/-- The events of a write: those of the access, and the guard it met. -/
def State.writeEvents (s : State) (a n st : Nat) : State :=
  let g := s.guardHit a n
  let s := s.accessEvents a n st
  match g with
  | some (o, b) => s.when (st = 7) fun s => s.event o b
  | none => s

/-- PUT at this device. -/
def State.putHere (s : State) (a : Nat) (data : List Byte) : State × Nat :=
  let st := s.writeStatus a data.length
  let s := s.writeEvents a data.length st
  (s.when (st = 0) fun s => s.store a data, st)

/-- An atomic operation at this device on the 8 bytes at an address: the old value, and `f` of it stored where it answers
one (R347). -/
def State.atomicHere (s : State) (a : Nat) (f : Nat → Option Nat) : State × Nat × List Byte :=
  let st := s.writeStatus a 8
  let s := s.writeEvents a 8 st
  if st = 0 then
    let old := ofLe (s.load a 8)
    (match f old with | some v => s.store a (leBytes 8 v) | none => s, 0, leBytes 8 old)
  else (s, st, List.replicate 8 0)

/-- An atomic operation at this device that meets a fault (AtomicArg): an uncorrectable error changes nothing; a port
A write to the word meanwhile leaves it undefined (R351), free bytes (notes/assumptions/3.md). -/
def State.atomicFaulty (s : State) (a fault : Nat) (f : Nat → Option Nat) : State × Nat × List Byte :=
  if s.writeStatus a 8 ≠ 0 then s.atomicHere a f
  else match areaOf a 8, fault with
    | some ar, 1 => (s.countCe ar).atomicHere a f
    | some ar, 2 => (s.countUe ar a, 3, List.replicate 8 0)
    | some _, 3 =>
      let (s, st, old) := s.atomicHere a f
      let (bs, s) := s.freeBytes 8
      (s.store a bs, st, old)
    | _, _ => s.atomicHere a f

/-- The status of a SIGNAL: its data, then its counter, which may be an arrival counter of a task (R338, R347). -/
def State.signalStatus (s : State) (a : Nat) (data : List Byte) (ctr : Nat) : Nat :=
  let st := if data.isEmpty then (if a % 8 = 0 then 0 else 1) else s.writeStatus a data.length
  if st ≠ 0 then st
  else
    let c := s.opStatus ctr 8
    if c ≠ 0 then c else if (s.guardHit ctr 8).isSome then 7 else 0

/-- A counter incremented by a SIGNAL: one arrival, or the 64-bit word by 1 modulo 2^64. -/
def State.bumpCounter (s : State) (ctr : Nat) : State :=
  match areaOf ctr 8 with
  | some (.counters d off) => s.arrive d (off / 8)
  | _ => s.store ctr (leBytes 8 ((ofLe (s.load ctr 8) + 1) % 18446744073709551616))

/-- SIGNAL at this device. -/
def State.signalHere (s : State) (a : Nat) (data : List Byte) (ctr : Nat) : State × Nat :=
  let st := s.signalStatus a data ctr
  let s := if data.isEmpty then s else s.writeEvents a data.length st
  let s := s.writeEvents ctr 8 st
  (s.when (st = 0) fun s => (s.when (!data.isEmpty) fun s => s.store a data).bumpCounter ctr, st)

/-- A store of an engine of a die (R3, R342, R365): performed where the whole span is mapped and not gated. -/
def State.engineStore (s : State) (a : Nat) (data : List Byte) : State :=
  s.when (s.spanStatus a data.length == 0) fun s => s.store a data

/-! ### Gallery ports (R344) -/

/-- The requester an arbiter serves: the Draught bus on port A (0), then one that lost and has not been served since, then
the lower index. -/
def arbiter (losers reqs : List Nat) : Option Nat :=
  if reqs.contains 0 then some 0
  else
    let low := fun (l : List Nat) => l.foldl (fun m r => match m with | none => some r | some q => some (min q r)) none
    match low (reqs.filter losers.contains) with
    | some r => some r
    | none => low reqs

/-- A loss of a requester counted. -/
def addLoss (l : List (Nat × Nat)) (r : Nat) : List (Nat × Nat) :=
  let n := match l.find? fun p => p.1 == r with | some p => p.2 | none => 0
  l.filter (fun p => p.1 != r) ++ [(r, min 4294967295 (n + 1))]

/-- One contested cycle of a Gallery port: each loser's counter and the port's total (R344). -/
def State.contend (s : State) (d : Die) (port : Nat) (reqs : List Nat) : State :=
  let x := s.die d
  let rs := ((reqs.filter fun r => decide (r < if port = 0 then 122 else 4)).dedup).map (· + if port = 0 then 0 else 128)
  match arbiter x.losers rs with
  | none => s
  | some w =>
    let lost := rs.filter fun r => r != w
    let s := s.setDie d { x with losers := x.losers.filter (fun r => r != w && !lost.contains r) ++ lost
                                 losses := lost.foldl addLoss x.losses }
    s.count (if port = 0 then rGalConfTotalA d else rGalConfTotalB d) lost.length

/-- Contested cycles of both dies' ports. -/
def State.contendAll (s : State) (ports : List (Die × Nat × List Nat)) : State :=
  ports.foldl (fun s p => s.contend p.1 p.2.1 p.2.2) s

/-- Contested cycles of a die's own ports: port (0 A, 1 B) and requesters. -/
def State.contendOn (s : State) (d : Die) (ports : List (Nat × List Nat)) : State :=
  ports.foldl (fun s p => s.contend d p.1 p.2) s

/-- Whether an access would wait for the front of its DRAM's initialisation (R359): it is mapped and not gated, and the front
has not passed the last 4 KiB block of it. -/
def State.stalls (s : State) (a n : Nat) : Bool :=
  match areaOf a n with
  | some (.dram d off) => s.spanStatus a n == 0 && decide (s.front d < ((off + n - 1) / 4096 + 1) * 4096)
  | _ => false

/-- INIT_STALL for an access that waits (R359). -/
def State.noteStall (s : State) (a n : Nat) : State :=
  match areaOf a n with
  | some (.dram d _) => s.event (rDmcEvents d) 3
  | _ => s

/-- INIT_STALL for each of the spans that wait (R359). -/
def State.noteStalls (s : State) (spans : List (Nat × Nat)) : State := spans.foldl (fun s p => s.noteStall p.1 p.2) s

/-- Those of a list of spans that wait for the front of their DRAM's initialisation (R359). -/
def State.stalled (s : State) (spans : List (Nat × Nat)) : List (Nat × Nat) := spans.filter fun p => s.stalls p.1 p.2

/-- What reads or writes spans of DRAM, once none of them waits for the front of an initialisation: until then it only sets
INIT_STALL (R359). -/
def State.afterFront (s : State) (spans : List (Nat × Nat)) (next : State → State) : State :=
  if s.stalled spans = [] then next s else s.noteStalls (s.stalled spans)

/-- A local address of a dispatched descriptor, its buffer reference resolved (R334): none where the buffer is not
allocated. -/
def State.resolve (s : State) (d : Die) (a : Nat) : Option Nat :=
  if a / 2 ^ 47 % 2 = 1 then
    match (s.die d).ovm.bufBase (a / 2 ^ 32 % 4096) with
    | some b => some ((winBaseOf d + b : Int) + signedOf 32 (a % 2 ^ 32)).toNat
    | none => none
  else some a

/-- Whether a span lies in the Gallery of a die. -/
def inGallery (d : Die) (sp : Nat × Nat) : Bool :=
  match areaOf sp.1 sp.2 with
  | some (.gallery g _) => g == d
  | _ => false

/-- Node ID of a global address (R339). -/
def nodeOf (g : Nat) : Nat := g / 2 ^ 48 % 65536

/-- Local address of a global address (R339). -/
def localOf (g : Nat) : Nat := g % 2 ^ 48

end Sys2Proof.Machine
end

