-- ==== Sys2Proof/Machine/Links.lean ====
section
/-! DEFINITION. Kornov packets and routing (R408 to R422): the route of a packet, its flits, the sending of flits against
credits and replay space, and the operations outstanding on other nodes. -/

namespace Sys2Proof.Machine
open Sys2Proof

/-- Coordinates of a node (R424). -/
def LinksCfg.coords (l : LinksCfg) (node : Nat) : List Nat :=
  let x := l.dims.getD 0 1
  let y := l.dims.getD 1 1
  [node % x, node / x % y, node / x / y]

/-- This device's coordinates in force. -/
def State.coords (s : State) : List Nat :=
  let c := s.reg rKlinkCoord
  [bits c 5 0, bits c 13 8, bits c 21 16]

/-! ### The planning group (R432, R436) -/

/-- Coordinates of a place of this node's planning group, counted from its corner in ascending rank. -/
def State.groupAt (s : State) (l : LinksCfg) (i : Nat) : Nat :=
  let g := fun k => max 1 (l.box.getD k 1)
  let c := fun k => s.coords.getD k 0 / g k * g k
  c 0 + i % g 0 + l.dims.getD 0 1 * (c 1 + i / g 0 % g 1 + l.dims.getD 1 1 * (c 2 + i / g 0 / g 1))

/-- The other nodes of this node's planning group. -/
def State.groupNodes (s : State) : List Nat :=
  match s.image.bind (·.links) with
  | none => []
  | some l => ((List.range s.groupSize).map (s.groupAt l)).filter (· != s.node)

/-- Whether a local address lies in the collector's key table or in the area of a node behind it (R437). -/
def State.inKeyArea (s : State) (l : LinksCfg) (a : Nat) : Bool :=
  let k := s.img (·.select.kFinal)
  let base := l.kTable % 2 ^ 48
  decide (base ≤ a ∧ a < base + 8 * k + 64 * k * s.groupSize)

/-- Where a task's KEYINS or re-shard goes: in SELECT of a group, what goes to the key table or the areas behind it goes to those of
this node's own group, at the node of rank 0 (R436, R446), whichever node the image names. DEDUCED (notes/assumptions/127.md). -/
def State.groupDst (s : State) (d : Die) (t a : Nat) : Nat :=
  match s.image.bind (·.links) with
  | none => a
  | some l =>
    if 1 < s.groupSize ∧ d = .s0 ∧ ((s.engCfg d).task t).phase = 4 ∧ s.inKeyArea l (a % 2 ^ 48) then
      s.groupAt l 0 * 2 ^ 48 + a % 2 ^ 48
    else a

/-- Whether a task is the merge of the group's keys (R436 step 3), which the node of rank 0 runs for all: in SELECT, on S0, a
TOPK with IN_KEY. -/
def State.groupsMerge (s : State) (d : Die) (t : Nat) : Bool :=
  let r := (s.engCfg d).task t
  let x := decodeSelDesc (s.load r.desc 64)
  decide (1 < s.groupSize) && d == .s0 && r.cls == 2 && r.phase == 4 && x.op == 3 && x.inKey

/-- Whether every task of a phase has completed on a die; the merge of a group's keys is none of the tasks of its other members
(R436, R440). -/
def State.phaseTasksDone (s : State) (d : Die) (ph : Nat) : Bool :=
  let c := s.engCfg d
  (List.range c.tasks.length).all fun t =>
    (c.task t).phase != ph || (s.die d).ovm.done.contains t || (decide (0 < s.rank) && s.groupsMerge d t)

/-- Nodes of the system. -/
def LinksCfg.nodes (l : LinksCfg) : Nat := l.dims.getD 0 1 * l.dims.getD 1 1 * l.dims.getD 2 1

/-- The port towards coordinate `b` from `a` in dimension `k` (R420): the shorter way in a torus, the positive one at
exactly half, the sign in a mesh. -/
def LinksCfg.step (l : LinksCfg) (k a b : Nat) : Nat :=
  if l.mesh.getD k false then (if a < b then 2 * k else 2 * k + 1)
  else
    let dim := l.dims.getD k 1
    let fwd := (b + dim - a) % dim
    if 2 * fwd ≤ dim then 2 * k else 2 * k + 1

/-- The port on which a packet to `node` leaves, by dimension order (R420). -/
def State.routePort (s : State) (node : Nat) : Option Nat :=
  match s.image.bind (·.links) with
  | none => none
  | some l =>
    if l.nodes ≤ node then none
    else
      let here := s.coords
      let there := l.coords node
      ([0, 1, 2].find? fun k => here.getD k 0 != there.getD k 0).map fun k => l.step k (here.getD k 0) (there.getD k 0)

/-- Whether the link of a port is the wrap link of its dimension (R418). -/
def State.wrapLink (s : State) (p : Nat) : Bool :=
  match s.image.bind (·.links) with
  | none => false
  | some l =>
    let k := p / 2
    let x := s.coords.getD k 0
    !l.mesh.getD k false && (if p % 2 = 0 then decide (x + 1 = l.dims.getD k 1) else decide (x = 0))

/-- The port of a packet's first hop where it can leave: none for an unknown node or a port that carries no traffic
(R412, R425, R426). -/
def State.usablePort (s : State) (node : Nat) : Option Nat :=
  match s.routePort node with
  | none => none
  | some p =>
    let q := s.kl.ports.getD p Port.idle
    if q.up && !q.miswired then some p else none

/-- The bytes of a packet (R414) whose LEN field holds `len`. -/
def packetOf (op flags len src tag addr : Nat) (data : List Byte) : List Byte :=
  leBytes 1 op ++ leBytes 1 flags ++ leBytes 2 len ++ leBytes 2 src ++ leBytes 2 tag ++ leBytes 8 addr ++ data

/-- The bytes of a packet (R414). -/
def packetBytes (op flags src tag addr : Nat) (data : List Byte) : List Byte :=
  packetOf op flags data.length src tag addr data

/-- A flit of packet bytes: 60 bytes, zero padded, and their CRC-32 (R413). -/
def flitOf (bs : List Byte) : List Byte :=
  let b := padTo 60 bs
  b ++ leBytes 4 (crc32 b).toNat

/-- The flits of a packet (R414). -/
def flitsOf (packet : List Byte) : List (List Byte) := (chunksOf 60 (packet.length / 60 + 1) packet).map flitOf

/-- Whether a flit must wait for the rest of the packet that is leaving: the flits of a packet follow one another (R414). -/
def Port.blocks (q : Port) (f : WaitFlit) : Bool :=
  match q.tail with
  | some i => f.first || f.src != i
  | none => false

/-- The flits that can leave now: against a credit of their channel and while fewer than 64 are unacknowledged (R415,
R419). -/
def Port.pump (q : Port) : List WaitFlit → Port × List WaitFlit
  | [] => ({ q with waiting := [] }, [])
  | f :: fs =>
    let credit := if f.vc = 0 then q.credit0 else q.credit1
    if 64 ≤ q.replay.length ∨ credit = 0 ∨ q.blocks f then ({ q with waiting := f :: fs }, [])
    else
      let q := { q with replay := q.replay ++ [(q.txNext, f)], txNext := (q.txNext + 1) % 256
                        tail := if f.last then none else some f.src
                        credit0 := if f.vc = 0 then q.credit0 - 1 else q.credit0
                        credit1 := if f.vc = 0 then q.credit1 else q.credit1 - 1 }
      let (q, out) := q.pump fs
      (q, f :: out)

/-- The flits that a port's neighbour has acknowledged taken note of: where the last of a packet is not among them, its first is
held, so that the packet can be answered should the port go down (R412). -/
def Port.noteAcked (q : Port) (fs : List (Nat × WaitFlit)) : Port :=
  { q with begun := fs.foldl (fun b f => if f.2.last then none else if f.2.first then some f.2 else b) q.begun }

/-- A port changed. -/
def State.mapPort (s : State) (p : Nat) (f : Port → Port) : State :=
  { s with kl := { s.kl with ports := modifyD Port.idle f p s.kl.ports } }

/-- Whether a copy of a flit still waits at a port. -/
def State.holdsFlit (s : State) (f : WaitFlit) : Bool :=
  s.kl.ports.any fun q => q.waiting.any fun g => g.src == f.src && g.num == f.num

/-- The place that a flit held in a receive buffer granted again once no copy of it waits (R419): a CREDIT to the neighbour it came
from. -/
def State.freeFlit (s : State) (f : WaitFlit) : State :=
  s.when (decide (f.src < 6) && (s.kl.ports.getD f.src Port.idle).up && !s.holdsFlit f) fun s =>
    s.emit (.control f.src 3 [f.vcIn, 1])

/-- The flits of a port that can leave, sent; those of other nodes leave the receive buffers. -/
def State.pumpPort (s : State) (p : Nat) : State :=
  let q := s.kl.ports.getD p Port.idle
  let (q, out) := q.pump q.waiting
  out.foldl (fun s f => (s.emit (.flit p f.vc f.flit)).freeFlit f) (s.mapPort p fun _ => q)

/-- The flits of a packet from `src` on a virtual channel as they wait at a port. -/
def waitingFlits (src vc : Nat) (packet : List Byte) : List WaitFlit :=
  let resp := fieldU packet 1 1 / 2 % 2 == 1
  let fs := flitsOf packet
  fs.zipIdx.map fun f => ⟨vc, f.2 == 0, resp, f.1, f.2 + 1 == fs.length, 0, src, vc⟩

/-- A packet put behind those that wait; a response passes the requests (R421), but for one whose flits have begun to
leave. -/
def queueFlits (w fs : List WaitFlit) : List WaitFlit :=
  if fs.all (·.response) then
    let begun := w.takeWhile fun f => !f.first
    let rest := w.dropWhile fun f => !f.first
    begun ++ rest.takeWhile (·.response) ++ fs ++ rest.dropWhile (·.response)
  else w ++ fs

/-- A further flit of a packet of which flits wait: behind the last of them, where there is one. -/
def joinFlit (f : WaitFlit) : List WaitFlit → Option (List WaitFlit)
  | [] => none
  | g :: gs =>
    if g.src = f.src && !g.last && (match gs with | [] => true | h :: _ => h.first) then some (g :: f :: gs)
    else (joinFlit f gs).map (g :: ·)

/-- A further flit of a packet put where it leaves next within its packet: first of all once those before it have left. -/
def queueMore (w : List WaitFlit) (f : WaitFlit) : List WaitFlit := (joinFlit f w).getD (f :: w)

/-- A flit that passes through this node put behind what waits at each of the ports that it leaves on, `f` of its virtual
channel there, and sent as they may; one that leaves on none gives up its place at once. -/
def State.passOn (s : State) (outs : List (Nat × Nat)) (f : Nat → WaitFlit) : State :=
  let join := fun (w : List WaitFlit) (g : WaitFlit) => if g.first then queueFlits w [g] else queueMore w g
  let s := outs.foldl (fun s o => s.mapPort o.1 fun (q : Port) => { q with waiting := join q.waiting (f o.2) }) s
  if outs.isEmpty then s.freeFlit (f 0) else outs.foldl (fun s o => s.pumpPort o.1) s

/-- A packet from `src` sent through a port on a virtual channel, behind the flits that wait. -/
def State.sendFrom (s : State) (src p vc : Nat) (packet : List Byte) : State :=
  (s.mapPort p fun q => { q with waiting := queueFlits q.waiting (waitingFlits src vc packet) }).pumpPort p

/-- A packet of this node sent through a port. -/
def State.sendOn (s : State) (p vc : Nat) (packet : List Byte) : State := s.sendFrom 6 p vc packet

/-- The virtual channel of a packet's first hop through a port (R418). -/
def State.firstVc (s : State) (p : Nat) : Nat := bnat (s.wrapLink p)

/-- An operation issued to another node (R347): its packet leaves and it stays outstanding under a tag, or the status that
completes it at once: NODE without a way, LINK with the Crosscut to the hub down (R362). LEN holds `len`: a GET carries the
bytes it asks for there and no data. -/
def State.issueSized (s : State) (op node addr len : Nat) (data : List Byte) (who : Issuer) : State × Option Nat :=
  match s.usablePort node with
  | none => (s, some 2)
  | some p =>
    if who.die.any fun d => !(s.die d).hubUp then (s, some 6)
    else
    let tag := s.kl.nextTag
    let s := { s with kl := { s.kl with ops := s.kl.ops ++ [RemoteOp.mk tag who p], nextTag := (tag + 1) % 65536 } }
    let vc := s.firstVc p
    (s.sendOn p vc (packetOf op vc len s.node tag addr data), none)

/-- The same for an operation whose LEN is its data's length. -/
def State.issueRemote (s : State) (op node addr : Nat) (data : List Byte) (who : Issuer) : State × Option Nat :=
  s.issueSized op node addr data.length data who

/-- A response sent to the node that issued an operation (R350, R421). SRC_NODE of a RESPONSE is the issuing node of its
request, to which it travels (notes/assumptions/50.md). -/
def State.respond (s : State) (node tag status : Nat) (data : List Byte) : State :=
  let s := s.emit (.response node tag status data)
  match s.usablePort node with
  | none => s
  | some p => let vc := s.firstVc p; s.sendOn p vc (packetBytes 8 (vc + 2) node tag status data)

end Sys2Proof.Machine
end

