-- ==== Sys2Proof/Machine/Units.lean ====
section
/-! DEFINITION. What happens to the engines at a tick boundary or rotation point: retirements take effect, spares take
indices, the engine under test changes (R158, R159, R195 to R198, R487). -/

namespace Sys2Proof.Machine
open Sys2Proof

/-- Offset of the canary area of a collision engine in its die's window (R200, R224). -/
def canaryBase (p : Nat) : Nat := 0x3200000 + p * 0x10000 + 0xE000

/-- The canary tile and agents written into the canary area of an engine (R224). -/
def State.writeCanary (s : State) (d : Die) (p : Nat) : State :=
  match s.image with
  | none => s
  | some i =>
    let s := s.storeWin d (canaryBase p) (padTo 4096 i.safety.tile)
    s.storeWin d (canaryBase p + 0x1000) (padTo 128 (i.safety.agents.flatMap encodeAgentRec))

/-- The spare of lowest number on a die. -/
def DieState.lowSpare (x : DieState) : Option Nat :=
  (List.range 68).find? fun p => match x.ces[p]? with
    | some c => c.role == .spare
    | none => false

/-- The logical index `l` given to the lowest-numbered spare (R196, R197): the engine that took it. -/
def DieState.giveIndex (x : DieState) (l : Nat) : DieState × Option Nat :=
  match x.lowSpare with
  | some p => (x.mapCe p fun c => { c with role := .serving, logical := l }, some p)
  | none => (x, none)

/-- The engines of a die that retire at this boundary or rotation point, in ascending logical index (R505). -/
def DieState.condemned (x : DieState) : List Nat :=
  (List.range 128).flatMap fun l => (List.range 68).filter fun p => match x.ces[p]? with
    | some c => c.condemned && c.role != .retired && c.logical == l
    | none => false

/-- The next engine of the rotation after `p`: ascending, wrapping, retired engines skipped (R196); `p` itself where no other is
left. -/
def DieState.nextTest (x : DieState) (p : Nat) : Option Nat :=
  ((List.range 68).map fun k => (p + 1 + k) % 68).find? fun q => match x.ces[q]? with
    | some c => c.role != .retired
    | none => false

/-- The engine under test (R196). -/
def DieState.testEngine (x : DieState) : Option Nat :=
  (List.range 68).find? fun p => (x.ces.getD p CeUnit.idle).role == .test

/-- Whether the rotation moves at a boundary or rotation point: the engine under test has completed a slice and runs none
(R196). -/
def DieState.testDue (x : DieState) : Bool :=
  match x.testEngine with
  | some p => decide (1 ≤ (x.ces.getD p CeUnit.idle).slices) && !x.slices.any fun t => t.1 == 0 && t.2.1 == p
  | none => false

/-- The logical index of an engine that serves. -/
def DieState.serves (x : DieState) (p : Nat) : Option Nat :=
  let c := x.ces.getD p CeUnit.idle
  if c.role = .serving then some c.logical else none

/-- Engines retired (R197): their indices are free. -/
def DieState.retireCes (x : DieState) (gone : List Nat) : DieState :=
  gone.foldl (fun x p => x.mapCe p fun c => { c with role := .retired, logical := 127, condemned := false }) x

/-- Free indices given to spares: in ascending logical index, each to the lowest-numbered spare (R196, R197, R505). -/
def DieState.giveAll (x : DieState) (free : List Nat) : DieState :=
  ((List.range 64).filter free.contains).foldl (fun x l => (x.giveIndex l).1) x

/-- The changes of one boundary or rotation point together (R196, R197, R505): the engines in `gone` retire; where the one under
test is among them, or with `due` becomes a spare, the next of the rotation enters test; and all the indices given up pass to
spares. Exactly one engine stays under test. -/
def DieState.changeCes (x : DieState) (gone : List Nat) (due : Bool) : DieState :=
  let y := x.retireCes gone
  let free := gone.filterMap x.serves
  match x.testEngine with
  | none => y.giveAll free
  | some p =>
    if !due && !gone.contains p then y.giveAll free
    else
      let y := if gone.contains p then y else y.mapCe p fun c => { c with role := .spare, logical := 127 }
      match y.nextTest p with
      | none => y.giveAll free
      | some q =>
        let mine := (y.serves q).toList
        (y.mapCe q fun c => { c with role := .test, logical := 127, slices := 0, failed := false }).giveAll (free ++ mine)

/-- The events and the Tally entry of a retired engine (R197), `c` what it was: SPARE_USED where a spare has taken its index, one
that R198 made among them. DESIGN CHOICE (notes/assumptions/120.md): the entry's two bytes read 127 for an engine without an
index and for an index that no spare took, for which the spec gives no value. -/
def State.reportRetired (s : State) (d : Die) (p : Nat) (c : CeUnit) : State :=
  let taker := if c.role = .serving then (s.die d).engineOf c.logical else none
  let s := s.event (rCeEngEvents d p) 4
  let s := s.when taker.isSome fun s => s.event (rCeEvents d) 2
  s.log warn 0x0310 (tallySource (d.idx + 1) 1 p)
    (leBytes 1 (if c.role = .serving then c.logical else 127) ++ leBytes 1 (taker.getD 127))

/-- The roles of a die's collision engines changed (R196 to R198, R505): `before` is R_act as it was; with `pool` R198 is
applied, with RE_IDLED where a rollout engine is idled by it. An engine that leaves test a spare has its canary area written
again. -/
def State.changeCes (s : State) (d : Die) (before : Nat) (gone : List Nat) (due pool : Bool) : State :=
  let x := s.die d
  let y := x.changeCes gone due
  let s := s.setDie d (if pool then y.applyPool else y)
  let s := gone.foldl (fun s p => s.reportRetired d p (x.ces.getD p CeUnit.idle)) s
  let s := match x.testEngine with
    | some p => s.when (due && !gone.contains p) fun s => s.writeCanary d p
    | none => s
  s.when (pool && decide ((s.die d).rAct < min before (s.die d).reIn.length)) fun s => s.event (rCeEvents d) 3

/-- The engines that retire at a boundary or rotation point: the condemned ones, and the one that leaves test with a failed
slice (R196, R197). -/
def DieState.leaving (x : DieState) : List Nat :=
  x.condemned ++ (match x.testEngine with
    | some p => if x.testDue && (x.ces.getD p CeUnit.idle).failed && !x.condemned.contains p then [p] else []
    | none => [])

/-- A boundary or rotation point on a die's collision engines (R196 to R198). -/
def State.rotationPoint (s : State) (d : Die) (before : Nat) : State :=
  s.changeCes d before (s.die d).leaving (s.die d).testDue true

/-- The row groups decided for retirement retired (R158, R159). -/
def State.retireRows (s : State) (d : Die) : State :=
  let x := s.die d
  if x.rowPend.isEmpty then s
  else
    let was := x.paOk
    let x := { x with rowOut := x.rowOut ++ (x.rowPend.filter fun r => !x.rowOut.contains r).eraseDups, rowPend := [] }
    let s := (s.setDie d x).event (rPaEvents d) 6
    if was && !x.paOk then
      (s.event (rPaEvents d) 7).log faultSev 0x0300 (tallySource (d.idx + 1) 3 0)
        (leBytes 2 ((List.range 9).foldl (fun a p => a + 2 ^ p * bnat (x.rowOut.contains p)) 0))
    else s

/-- The other units decided for retirement retired (R487). -/
def DieState.retireOthers (x : DieState) : DieState :=
  { x with reOut := x.reOut ++ x.rePend.filter (fun r => !x.reOut.contains r), rePend := []
           seOut := x.seOut ++ x.sePend.filter (fun r => !x.seOut.contains r), sePend := []
           heapOut := x.heapOut || x.heapPend, heapPend := false }

/-- The boundary's changes to the units of a powered die. -/
def State.boundaryUnits (s : State) (d : Die) : State :=
  if (s.die d).power = 2 then
    let before := (s.die d).rAct
    ((s.setDie d (s.die d).retireOthers).retireRows d).rotationPoint d before
  else s

/-- PA.ORDER as firmware builds it at a boundary (R166): groups served by their own physical group on every active die,
ascending, then the others, ascending; field n holds the group added n-th. -/
def State.paOrder (s : State) : Nat :=
  let own := fun g => s.dies.all fun d => !(s.die d).rowOut.contains g
  let order := (List.range 8).filter own ++ (List.range 8).filter fun g => !own g
  (order.zipIdx.map fun p => p.1 * 2 ^ (3 * p.2)).foldl (· + ·) 0

end Sys2Proof.Machine
end

