-- ==== Sys2Proof/Machine/Carry.lean ====
section
/-! DEFINITION. The carry-over state (R498): the recurrent-state banks, the plan history in its stored form, the saved
form of R512 and the checks of R513. -/

namespace Sys2Proof.Machine
open Sys2Proof

/-- Bytes of recurrent policy state of the committed image (R191). -/
def State.rstateLen (s : State) : Nat := s.img (·.policy.rstateLen)

/-- The bank of a die that holds the current state (PA.RSTATE.BANK). -/
def State.bank (s : State) (d : Die) : Nat := bits (s.reg (rPaRstate d)) 16 16

/-- Window offset of a recurrent-state bank (R180, R191). -/
def State.bankBase (s : State) (b : Nat) : Nat :=
  0x1000000 + (if b = 0 then s.img (·.policy.bank0) else s.img (·.policy.bank1))

/-- The current recurrent state of a die. -/
def State.rstate (s : State) (d : Die) : List Byte := s.loadWin d (s.bankBase (s.bank d)) s.rstateLen

/-- Samples per candidate N. -/
def State.nSamp (s : State) : Nat := s.img (·.rollout.nSamp)

/-- A record in the stored form of the plan history (R499): DEGRADED cleared, CRC recomputed. -/
def storedForm (r : List Byte) : List Byte :=
  let flags := fieldU r 0x1C 2
  let flags := if flags / 16 % 2 = 1 then flags - 16 else flags
  sealRecord (r.take 0x1C ++ leBytes 2 flags ++ (r.drop 0x1E).take 30) (r.drop 64)

/-- The plan history with its TAU0 moved by a signed interval (R515). -/
def shiftHistory (delta : Int) (r : List Byte) : List Byte :=
  let tau := unsignedOf 64 ((fieldU r 8 8 : Int) + delta)
  sealRecord (r.take 8 ++ leBytes 8 tau ++ (r.drop 16).take 44) (r.drop 64)

/-- Bytes of a saved state: 0xC0 + 16N + RSTATE_LEN (R512). -/
def State.saveLen (s : State) : Nat := 0xC0 + 16 * s.nSamp + s.rstateLen

/-- NEXT_T (R498, R515): the boundary that would follow the last tick run; a HOLD reached before the T_0 of a RESUME leaves
the one that RESUME took up. -/
def State.nextBoundary (s : State) : Nat := s.tick.nextT.getD s.tick.expect

/-- The saved form of the carry-over state (R512). -/
def State.saveBytes (s : State) (snapshot : Bool) : List Byte :=
  let body : List Byte := leBytes 8 s.tick.next ++ leBytes 8 s.nextBoundary ++ leBytes 8 s.seed.toNat ++ leBytes 4 s.world.epoch ++
    leBytes 4 s.rstateLen ++ leBytes 2 s.node ++ leBytes 2 s.rank ++ leBytes 4 (s.reg rSecFwVersion).toNat ++
    leBytes 1 s.profile ++ List.replicate 7 (0 : Byte) ++
    padTo 32 (match s.image with | some i => i.digest | none => []) ++ List.replicate 32 (0 : Byte) ++
    padTo (64 + 16 * s.nSamp) (s.plan.history.getD []) ++ s.rstate .s0
  ([0x4C, 0x4D, 0x43, 0x53] : List Byte) ++ leBytes 2 1 ++ leBytes 2 (bnat s.plan.history.isSome + 2 * bnat snapshot) ++
    leBytes 4 s.saveLen ++ leBytes 4 (crc32 body).toNat ++ body

/-- Whether a region lies wholly in usable S0 DRAM at a multiple of 64 (R512, R513). -/
def State.saveRegionOk (s : State) (base len : Nat) : Bool :=
  decide (base % 64 = 0) && decide (base + len ≤ s.usable .s0)

/-- The carry-over state written to a base (R512): the state and the RESULT code, 0x0 DONE or 0x6 ADDR. -/
def State.saveTo (s : State) (base : Nat) (snapshot : Bool) : State × Nat :=
  if s.saveRegionOk base s.saveLen then (s.store base (s.saveBytes snapshot), 0) else (s, 6)

/-- The checks of RESTORE in order (R513): the RESULT code, 0 when they pass. -/
def State.restoreCheck (s : State) (base : Nat) : Nat :=
  if !s.saveRegionOk base 0x80 then 6
  else
    let h := s.load base 0x80
    let len := fieldU h 8 4
    let bs := s.load base len
    if !s.saveRegionOk base len then 6
    else if h.take 4 ≠ [0x4C, 0x4D, 0x43, 0x53] ∨ fieldU h 4 2 ≠ 1 ∨ 4 ≤ fieldU h 6 2 ∨ !allZero ((h.drop 0x39).take 7) ∨
      !allZero ((h.drop 0x60).take 32) ∨ len % 64 ≠ 0 then 1
    else if (crc32 (bs.drop 0x10)).toNat ≠ fieldU h 0xC 4 then 2
    else if (h.drop 0x40).take 32 ≠ padTo 32 (match s.image with | some i => i.digest | none => []) ∨
      fieldU h 0x2C 4 ≠ s.rstateLen then 3
    else if len ≠ s.saveLen then 1
    else if fieldU h 0x32 2 ≠ s.rank then 4
    else 0

/-- Recurrent state written into a bank of each active die (R191, R193, R514). -/
def State.writeBank (s : State) (b : Nat) (data : List Byte) : State :=
  s.dies.foldl (fun s d => s.storeWin d (s.bankBase b) data) s

/-- Recurrent state written into the current bank of each active die (R183, R514). -/
def State.writeCurrent (s : State) (data : List Byte) : State :=
  s.dies.foldl (fun s d => s.storeWin d (s.bankBase (s.bank d)) data) s

/-- A state that has passed its checks loaded: in HOLD every item of R498 with the Deputy's counts, in STOPPED only the
START values (R514). -/
def State.restoreLoad (s : State) (base : Nat) : State :=
  let h := s.load base 0x80
  let next := fieldU h 0x10 8
  let epoch := fieldU h 0x28 4
  let seed := fieldU h 0x20 8
  if s.dev = .hold then
    let hist := (s.load (base + 0x80) (64 + 16 * s.nSamp))
    let rs := s.load (base + 0x80 + 64 + 16 * s.nSamp) s.rstateLen
    let s := { s with seed := BitVec.ofNat 64 seed
                      tick := { s.tick with next := next, expect := fieldU h 0x18 8, nextT := none }
                      world := { s.world with epoch := epoch }
                      plan := { s.plan with history := if fieldU h 6 2 % 2 = 1 then some hist else none }
                      dep := { s.dep with tick := next, epoch := epoch } }
    s.writeCurrent rs
  else
    let s := ((s.rewrite rTickNumSetLo (loWord next)).rewrite rTickNumSetHi (hiWord next)).rewrite rWorldEpochSet
      (BitVec.ofNat 32 epoch)
    (s.rewrite (rReSeedSetLo .s0) (loWord seed)).rewrite (rReSeedSetHi .s0) (hiWord seed)

/-- Whether a saved state came from other firmware (SAVE_STATUS.FW_DIFF). -/
def State.fwDiffers (s : State) (base : Nat) : Bool :=
  decide (fieldU (s.load base 0x80) 0x34 4 ≠ (s.reg rSecFwVersion).toNat)

end Sys2Proof.Machine
end

