-- ==== Sys2Proof/Machine/Ingest.lean ====
section
/-! DEFINITION. Ingest: the checks of an item, staging, the epoch commit, the map pager, the urgent deltas of a final
clearance, and the copy of the world to S1 (R38 to R43, R66 to R112, R454 to R456). -/

namespace Sys2Proof.Machine
open Sys2Proof

/-! ### Items (R81, R82) -/

/-- The header of an item (R81). -/
structure ItemHead where
  type   : Nat
  flags  : Nat
  length : Nat
  stamp  : Nat
  seq    : Nat
  target : Nat
  aux0   : Nat
  aux1   : Nat
  clean  : Bool
  deriving DecidableEq, Repr, Inhabited

/-- The 64-byte header of an item (R81). -/
def decodeHead (bs : List Byte) : ItemHead :=
  { type := fieldU bs 0 1, flags := fieldU bs 1 1, length := fieldU bs 4 4, stamp := fieldU bs 8 8
    seq := fieldU bs 0x10 4, target := fieldU bs 0x14 4, aux0 := fieldU bs 0x18 4, aux1 := fieldU bs 0x1C 4
    clean := allZero ((bs.drop 2).take 2) && allZero ((bs.drop 0x20).take 32) }

/-- The modes a 4-bit mask names, ascending. -/
def maskModes (mask : Nat) : List Nat := (List.range 4).filter fun m => mask / 2 ^ m % 2 == 1

/-- A tile inside the directory rectangle (R67): its entry's index. -/
def State.dirIndex (s : State) (tx ty : Int) : Option Nat :=
  let ext := s.reg rWorldDirExt
  let x := tx - signedOf 32 (s.reg rWorldDirTx0).toNat
  let y := ty - signedOf 32 (s.reg rWorldDirTy0).toNat
  if 0 ≤ x ∧ x < bits ext 15 0 ∧ 0 ≤ y ∧ y < bits ext 31 16 then some (y.toNat * bits ext 15 0 + x.toNat) else none

/-- The format of an item: header, LENGTH, reserved fields and target range of its type (R82). -/
def State.itemFormat (s : State) (h : ItemHead) : Bool :=
  let slots := bits (s.reg rWorldStoreSlots) 20 0
  let inside := (s.dirIndex (signedOf 32 h.aux0) (signedOf 32 h.aux1)).isSome
  let agent := decide (h.target < 256 ∧ h.aux0 < 16 ∧ h.aux1 = 0 ∧ h.flags < 2) &&
    (if h.flags = 1 then decide (h.aux0 = 0 ∧ h.length = 64)
     else decide (h.length = 64 + (maskModes h.aux0).length * s.nSamp * 16))
  h.clean && match h.type with
  | 1 => decide (h.flags = 0 ∧ h.length = 4160 ∧ h.target < 1048576 ∧ h.target < slots) && inside
  | 2 => decide (h.flags < 2 ∧ h.length = 64 ∧ h.target < 1048576) && inside
  | 3 => agent
  | 5 => decide (h.flags = 0 ∧ h.target = 0 ∧ h.aux0 = 0 ∧ h.aux1 = 0 ∧ h.length = 128)
  | 6 => decide (h.flags = 0 ∧ h.target = 0 ∧ h.aux1 = 0 ∧ h.aux0 ≤ 512 ∧ h.length = 64 + ceilDiv h.aux0 4 * 64)
  | 7 => agent
  | _ => false

/-- The target of an item (R87). -/
def ItemHead.targetOf (h : ItemHead) : Target :=
  match h.type with
  | 1 | 2 => .tile (signedOf 32 h.aux0) (signedOf 32 h.aux1)
  | 3 => .agent h.target
  | 5 => .ego
  | 6 => .route
  | _ => .urgent h.target

/-- The modes of an AGENT or URGENT item (R91). -/
def itemModes (h : ItemHead) (n : Nat) (payload : List Byte) : List AgentMode :=
  (maskModes h.aux0).zipIdx.map fun p =>
    { idx := h.target * 4 + p.1
      recs := (chunksOf 16 n ((payload.drop (p.2 * n * 16)).take (n * 16))).map decodeAgentRec }

/-- What an item carries. -/
def itemMatter (h : ItemHead) (n : Nat) (payload : List Byte) : Matter :=
  match h.type with
  | 1 => .tile h.target (signedOf 32 h.aux0) (signedOf 32 h.aux1) (padTo 4096 payload)
  | 2 => .dir h.target (signedOf 32 h.aux0) (signedOf 32 h.aux1) (h.flags == 1)
  | 5 => .ego (decodeEgo payload h.stamp)
  | 6 => .route ((chunksOf 16 h.aux0 payload).map decodeRoutePoint)
  | _ => .agent h.target (itemModes h n payload)

/-! ### The checks (R83) -/

/-- Tick j of an arrival: T_j and T_{j-1} (R38, R41, R42), none while T_j is not known. -/
def State.window (s : State) (arrival cut : Nat) : Option (Nat × Int) :=
  if s.dev ≠ .running then none
  else if s.tick.live then
    if arrival < s.tick.tk + cut then some (s.tick.tk, s.tick.prev) else some (s.tick.expect, s.tick.tk)
  else if s.tick.awaitT0 then none
  else some (s.tick.expect, (s.tick.expect : Int) - s.period)

/-- The stamp a target holds. -/
def World.stampOf (w : World) (g : Target) : Option Nat := (w.stamps.find? fun p => p.1 == g).map (·.2)

/-- What the checks of an item give. -/
inductive ItemVerdict where
  | reject (code : Nat)
  | wait
  | take (late : Bool)
  deriving DecidableEq, Repr

/-- The stream's entry in the STREAMS section. -/
def State.streamCfg (s : State) (stream : Nat) : Option StreamCfg :=
  match s.image with
  | some i => i.streams.streams[stream]?
  | none => none

/-- The checks of R83 in order: permission, format, sequence, window (R39, R41), supersession (R87). A TYPE that R82 does
not list is MALFORMED. -/
def State.checkItem (s : State) (stream arrival : Nat) (h : ItemHead) : ItemVerdict :=
  match s.streamCfg stream with
  | none => .reject 7
  | some c =>
    let known := [1, 2, 3, 5, 6, 7].contains h.type
    if known && !c.types.contains h.type then .reject 7
    else if !s.itemFormat h then .reject 6
    else
      let old := match (s.world.streams.getD stream Stream.idle).lastSeq with
        | some q => decide (signedOf 32 ((h.seq : Int) - q) ≤ 0)
        | none => false
      if old then .reject 5
      else
        let cut := if h.type = 7 then s.phaseAt 4 else s.cutC
        match s.window arrival cut with
        | none => .wait
        | some (tj, tp) =>
          if tj + s.period ≤ h.stamp then .reject 1
          else if (h.stamp : Int) < tj - c.staleUs * 1000 then .reject 2
          else
            let late := decide ((h.stamp : Int) < tp + cut)
            if late && c.freshOnly then .reject 3
            else match s.world.stampOf h.targetOf with
              | some q => if h.stamp < q then .reject 4 else .take late
              | none => .take late

/-- A stream changed. -/
def State.mapStream (s : State) (n : Nat) (f : Stream → Stream) : State :=
  { s with world := { s.world with streams := modifyD Stream.idle f n s.world.streams } }

/-- The stamp of a target set (R87). -/
def State.setStamp (s : State) (g : Target) (v : Nat) : State :=
  { s with world := { s.world with stamps := (s.world.stamps.filter fun p => p.1 != g) ++ [(g, v)] } }

/-- A rejection (R43, R84, R88). -/
def State.rejectItem (s : State) (stream code type : Nat) : State :=
  let s := s.mapStream stream fun c =>
    { c with rej := c.rej + 1, late := if code = 3 then c.late + 1 else c.late }
  let s := s.setReg rWorldRejLast (packFields [(0, stream % 128), (8, code), (16, type % 256)])
  let s := s.event rWorldEvents 2
  s.when (bit (s.reg rWorldCtrl) 0) fun s => s.irq (16 + stream / 8)

/-- Whether the AGENT copy of an URGENT item would be staged (R110). -/
def State.copyStaged (s : State) (h : ItemHead) : Bool :=
  match s.world.stampOf (.agent h.target) with
  | some q => decide (q ≤ h.stamp)
  | none => true

/-- Staging bytes an item needs (R89). -/
def State.itemNeeds (s : State) (h : ItemHead) : Nat := if h.type = 7 ∧ !s.copyStaged h then 0 else h.length

/-- An item that has passed its checks and fits: sequence, stamps, counts, staging (R85, R87, R89, R110). -/
def State.acceptItem (s : State) (stream arrival : Nat) (h : ItemHead) (payload : List Byte) (late : Bool) : State :=
  let gap := match (s.world.streams.getD stream Stream.idle).lastSeq with
    | some q => decide (1 < signedOf 32 ((h.seq : Int) - q))
    | none => false
  let s := s.when gap fun s => s.event rWorldEvents 3
  let s := s.mapStream stream fun c =>
    { c with lastSeq := some h.seq, acc := c.acc + 1, late := if late then c.late + 1 else c.late }
  let copy := s.copyStaged h
  let s := s.setStamp h.targetOf h.stamp
  let stage := fun (s : State) (late copied : Bool) (m : Matter) =>
    { s with world := { s.world with staged := s.world.staged ++ [⟨stream, h.stamp, arrival, late, copied, h.length, m⟩] } }
  if h.type = 7 then
    let modes := itemModes h s.nSamp payload
    let u : UrgentDelta := ⟨h.target, h.flags == 1, modes, h.stamp, arrival, stream, late⟩
    let s := { s with world := { s.world with urgents := s.world.urgents ++ [u] } }
    s.when copy fun s => stage (s.setStamp (.agent h.target) h.stamp) false true (.agent h.target modes)
  else stage s late false (itemMatter h s.nSamp payload)

/-- Why an item is held (R89): for staging space, or until the boundary that judges it is known. -/
inductive HeldFor where
  | nothing
  | room
  | boundary
  deriving DecidableEq, Repr

/-- The rest of a chain discarded after a header that fails the format check (R84): its bytes, and its items not yet taken
up. -/
def Stream.skipChain (c : Stream) (chain : Nat) : Stream :=
  { c with skip := some chain, part := if c.chain = chain then [] else c.part
           inbox := c.inbox.filter fun i => i.2.1 != chain, held := c.held.filter fun i => i.2.1 != chain }

/-- One item of a chain judged (R83), with why it is held. -/
def State.judgeItem (s : State) (stream arrival chain : Nat) (bs : List Byte) : State × HeldFor :=
  let h := decodeHead bs
  match s.checkItem stream arrival h with
  | .reject code =>
    ((s.rejectItem stream code h.type).when (code = 6) fun s => s.mapStream stream fun c => c.skipChain chain, .nothing)
  | .wait => (s, .boundary)
  | .take late =>
    if s.stageFree < s.itemNeeds h then
      ((s.event rWorldEvents 5).mapStream stream fun c => { c with full := true }, .room)
    else (s.acceptItem stream arrival h (bs.drop 64) late, .nothing)

/-- An item taken up by the World block (R83): behind a held one of its stream it is held too. -/
def State.takeUp (s : State) (stream : Nat) (it : Nat × Nat × List Byte) : State × HeldFor :=
  if (s.world.streams.getD stream Stream.idle).held.isEmpty then
    let r := s.judgeItem stream it.1 it.2.1 it.2.2
    (r.1.when (r.2 != .nothing) fun s => s.mapStream stream fun c => { c with held := [it] }, r.2)
  else (s.mapStream stream fun c => { c with held := c.held ++ [it] }, .boundary)

/-- The stream whose oldest held item comes first (R86): in order of arrival, then by stream number; streams in `blocked` are
passed over. -/
def State.firstHeld (s : State) (arrivalOf : Nat → Nat) (blocked : List Nat) : Option (Nat × Nat) :=
  (List.range 128).foldl (fun best n =>
    match (s.world.streams.getD n Stream.idle).held with
    | [] => best
    | it :: _ =>
      let a := arrivalOf it.1
      let first := match best with | some b => decide (a < b.2) | none => true
      if first && !blocked.contains n then some (n, a) else best) none

/-- The held items judged again with their arrival times, in the order of R86; a stream is passed over from the first of its
items that is held still. `fuel` bounds their number. -/
def State.drainItems (s : State) (arrivalOf : Nat → Nat) : Nat → List Nat → State
  | 0, _ => s
  | fuel + 1, blocked =>
    match s.firstHeld arrivalOf blocked with
    | none => s
    | some (n, a) =>
      match (s.world.streams.getD n Stream.idle).held with
      | [] => s
      | it :: rest =>
        let r := (s.mapStream n fun c => { c with held := rest }).judgeItem n a it.2.1 it.2.2
        if r.2 = .nothing then r.1.drainItems arrivalOf fuel blocked
        else (r.1.mapStream n fun c => { c with held := it :: c.held }).drainItems arrivalOf fuel (n :: blocked)

/-- Every held item judged with its arrival time (R86). -/
def State.drainAll (s : State) (arrivalOf : Nat → Nat) : State :=
  s.drainItems arrivalOf ((s.world.streams.map fun c => c.held.length).foldl (· + ·) 0) []

/-- Held items judged as their boundary becomes known. -/
def State.drainHeld (s : State) : State := s.drainAll id

/-- The channels held for staging space released, and held items judged as it returns: they complete now (R89). -/
def State.drainFreed (s : State) : State :=
  ({ s with world := { s.world with streams := s.world.streams.map fun (c : Stream) => { c with full := false } } }).drainAll
    fun a => max a s.now

/-! ### Items cut from a chain (R80) -/

/-- Bytes from one item's header to the next in its chain (R80, R82): LENGTH where the header passes the format check or
the stream may not carry its type, the header alone where it fails (R84). -/
def State.itemSpan (s : State) (stream : Nat) (h : ItemHead) : Nat :=
  let barred := [1, 2, 3, 5, 6, 7].contains h.type && (match s.streamCfg stream with
    | some c => !c.types.contains h.type
    | none => true)
  if s.itemFormat h ∨ barred then max 64 (h.length / 64 * 64) else 64

/-- The whole items at the front of a chain's bytes, and what is left; `fuel` bounds their number. -/
def State.cutItems (s : State) (stream : Nat) : Nat → List Byte → List (List Byte) × List Byte
  | 0, bs => ([], bs)
  | fuel + 1, bs =>
    if bs.length < 64 then ([], bs)
    else
      let n := s.itemSpan stream (decodeHead bs)
      if bs.length < n then ([], bs)
      else
        let r := s.cutItems stream fuel (bs.drop n)
        (bs.take n :: r.1, r.2)

/-- The items that `data` completes on a stream at device time `t`, and the bytes of the next one so far; none of a chain
whose rest is discarded (R84). -/
def State.newItems (s : State) (stream t : Nat) (data : List Byte) : List (Nat × Nat × List Byte) × List Byte :=
  let c := s.world.streams.getD stream Stream.idle
  if c.skip = some c.chain then ([], [])
  else
    let bs := c.part ++ data
    let r := s.cutItems stream (bs.length / 64) bs
    (r.1.map fun it => (t, c.chain, it), r.2)

/-- Every item that has arrived and has not been taken up, with its stream, in the order of R86. -/
def World.arrived (w : World) : List (Nat × Nat × Nat × List Byte) :=
  sortBy (fun a b => decide (a.2.1 ≤ b.2.1)) (w.streams.zipIdx.flatMap fun p => p.1.inbox.map fun it => (p.2, it))

/-- Whether the staging area holds the items `its` of a stream behind everything that has arrived (R89): what the World block
takes up before them, of every stream, takes its room first; an item of a chain that R84 discards takes none. -/
def State.roomFor (s : State) (stream : Nat) (its : List (Nat × Nat × List Byte)) : Bool :=
  let all := s.world.arrived ++ its.map fun it => (stream, it)
  (all.foldl (fun (a : State × Bool) p =>
    if (a.1.world.streams.getD p.1 Stream.idle).skip = some p.2.2.1 then a
    else
      let r := a.1.takeUp p.1 p.2
      (r.1, a.2 && (p.1 != stream || r.2 != .room))) (s, true)).2

/-- Whether an item is the one that the World block takes up next (R86): of the items that have arrived, the oldest, at equal
arrival of the stream of lowest index. -/
def World.isNext (w : World) (stream arrival : Nat) (bs : List Byte) : Bool :=
  match w.arrived with
  | p :: _ => p.1 == stream && p.2.1 == arrival && p.2.2.2 == bs
  | [] => false

/-- An ingest item (R80, R82, R86): the World block takes up the next of the items that have arrived, which the operands
name; items arrive while RUNNING or HOLD (R395). -/
def State.ingest (s : State) (stream arrival : Nat) (bs : List Byte) (types : List Nat) : State :=
  match (s.world.streams.getD stream Stream.idle).inbox with
  | it :: rest =>
    s.when ((s.dev == .running || s.dev == .hold) && types.contains (fieldU bs 0 1) && s.world.isNext stream arrival bs)
      fun s => ((s.mapStream stream fun c => { c with inbox := rest }).takeUp stream it).1
  | [] => s

/-- TILE (R82). -/
def execTile (stream arrival : Nat) (item : List Byte) (s : State) : Out :=
  whenNamed (stream < 128) (s.ingest stream arrival item [1])

/-- DIR (R82). -/
def execDir (stream arrival : Nat) (item : List Byte) (s : State) : Out :=
  whenNamed (stream < 128) (s.ingest stream arrival item [2])

/-- AGENT (R82, R91). -/
def execAgent (stream arrival : Nat) (item : List Byte) (s : State) : Out :=
  whenNamed (stream < 128) (s.ingest stream arrival item [3])

/-- EGO (R82, R100). -/
def execEgo (stream arrival : Nat) (item : List Byte) (s : State) : Out :=
  whenNamed (stream < 128) (s.ingest stream arrival item [5])

/-- ROUTE (R82, R102). -/
def execRoute (stream arrival : Nat) (item : List Byte) (s : State) : Out :=
  whenNamed (stream < 128) (s.ingest stream arrival item [6])

/-- URGENT (R82, R110). -/
def execUrgent (stream arrival : Nat) (item : List Byte) (s : State) : Out :=
  whenNamed (stream < 128) (s.ingest stream arrival item [7])

/-- MALFORMED (R82, R84, R88): an item whose TYPE is none of the listed ones. -/
def execMalformed (stream arrival : Nat) (item : List Byte) (s : State) : Out :=
  whenNamed (stream < 128) (s.ingest stream arrival item
    ((List.range 256).filter fun t => !(([1, 2, 3, 5, 6, 7] : List Nat).contains t)))

/-! ### The epoch commit (R104 to R107) -/

/-- Base of the directory within a die's DRAM. -/
def State.dirBase (s : State) : Nat := s.pair rWorldDirBaseLo rWorldDirBaseHi

/-- Base of the tile store within a die's DRAM. -/
def State.storeBase (s : State) : Nat := s.pair rWorldStoreBaseLo rWorldStoreBaseHi

/-- Bytes stored in the DRAM of every active die whose usable range holds them (R67). -/
def State.storeDies (s : State) (off : Nat) (data : List Byte) : State :=
  s.dies.foldl (fun s d => s.when (decide (off + data.length ≤ s.usable d)) fun s => s.store (dramBase d + off) data) s

/-- A directory entry written on every active die (R68). -/
def State.writeDir (s : State) (tx ty : Int) (slot : Nat) (valid : Bool) : State :=
  match s.dirIndex tx ty with
  | some k => s.storeDies (s.dirBase + 8 * k) (leBytes 8 (encodeDirEntry slot valid))
  | none => s

/-- The live agent table with an agent's modes replaced (R91), in ascending agent-mode index. -/
def replaceAgent (table : List AgentMode) (a : Nat) (modes : List AgentMode) : List AgentMode :=
  (table.filter fun m => decide (m.idx < 4 * a)) ++ modes ++ (table.filter fun m => decide (4 * a + 4 ≤ m.idx))

/-- A taken item applied (R104 steps 1 and 2). -/
def State.applyItem (s : State) (it : Staged) : State :=
  match it.matter with
  | .tile slot tx ty cells => (s.storeDies (s.storeBase + 4096 * slot) cells).writeDir tx ty slot true
  | .dir slot tx ty valid => s.writeDir tx ty slot valid
  | .agent a modes => { s with world := { s.world with modes := replaceAgent s.world.modes a modes } }
  | .ego e => { s with world := { s.world with ego := some e, egoNew := true } }
  | .route pts => { s with world := { s.world with route := pts } }

/-- Whether a staged item is a TILE or DIR item. -/
def Staged.isTile (it : Staged) : Bool :=
  match it.matter with
  | .tile .. => true
  | .dir .. => true
  | _ => false

/-- Whether a staged item is an AGENT item or the copy of an URGENT one. -/
def Staged.isAgent (it : Staged) : Bool :=
  match it.matter with
  | .agent .. => true
  | _ => false

/-- The commit's selection under the caps of R107: items taken, items that stay; once a cap holds an item, later ones of
its kind stay behind it. -/
def selectStaged (tileCap agentCap : Nat) : List Staged → Nat → Nat → Bool → Bool → List Staged × List Staged
  | [], _, _, _, _ => ([], [])
  | it :: rest, tiles, agents, tStop, aStop =>
    let held := if it.isTile then tStop || decide (tileCap < tiles + 1)
      else it.isAgent && (aStop || decide (agentCap < agents + (it.size - 64)))
    let r := selectStaged tileCap agentCap rest (if it.isTile && !held then tiles + 1 else tiles)
      (if it.isAgent && !held then agents + (it.size - 64) else agents) (tStop || (it.isTile && held))
      (aStop || (it.isAgent && held))
    if held then (r.1, it :: r.2) else (it :: r.1, r.2)

/-- Tiles of the slice with origin tile (tx0, ty0). -/
def sliceTiles (tx0 ty0 : Int) : List (Int × Int) :=
  (List.range 64).map fun k => (tx0 + (k % 8 : Nat), ty0 + (k / 8 : Nat))

/-- A tile fetched on a die: its 4,096 bytes, none where it is missing (R69), and whether it lay outside the directory or
beyond DRAM; what lies in the installed DRAM past its usable part counts as beyond it (notes/assumptions/113.md). -/
def State.fetchTile (s : State) (d : Die) (tx ty : Int) : Option (List Byte) × Bool :=
  match s.dirIndex tx ty with
  | none => (none, true)
  | some k =>
    let e := s.dirBase + 8 * k
    if s.usable d < e + 8 then (none, true)
    else
      let v := ofLe (s.load (dramBase d + e) 8)
      let slot := dirSlot v
      if !dirValid v || decide (bits (s.reg rWorldStoreSlots) 20 0 ≤ slot) then (none, false)
      else if s.usable d < s.storeBase + 4096 * (slot + 1) then (none, true)
      else (some (s.load (dramBase d + s.storeBase + 4096 * slot) 4096), false)

/-- Bit of a tile slot. -/
def slotBit (tx ty : Int) : BitVec 64 := BitVec.ofNat 64 (2 ^ tileSlot tx ty)

/-- Slice offset of row `r` of a tile (R73). -/
def tileRow (tx ty : Int) (r : Nat) : Nat := ((ty % 8).toNat * 64 + r) * 512 + (tx % 8).toNat * 64

/-- A tile loaded on a die (R74, R75, R78): `ue` names an uncorrectable error met, in the directory entry (true) or in the
tile. -/
def State.loadTile (s : State) (d : Die) (ue : List (Int × Int × Bool)) (tx ty : Int) : State :=
  let (cells, range) := s.fetchTile d tx ty
  let s := s.when range fun s => s.event (rPagerEvents d) 2
  let source := tallySource (d.idx + 1) 12 0
  let data := leBytesInt 4 tx ++ leBytesInt 4 ty
  let dirUe := ue.contains (tx, ty, true)
  let tileUe := !dirUe && cells.isSome && ue.contains (tx, ty, false)
  let s := if dirUe then (s.event (rPagerEvents d) 1).log warn 0x0201 source data
    else if tileUe then (s.event (rPagerEvents d) 0).log warn 0x0200 source data else s
  let s := (s.count (rPagerLoads d) 1).count (rPagerLoadTotal d) 1
  let mark := fun (s : State) (m : BitVec 64 → BitVec 64) =>
    let x := s.die d
    s.setDie d { x with missing := m x.missing }
  match cells with
  | some bs =>
    if dirUe || tileUe then mark s fun m => m ||| slotBit tx ty
    else
      let s := (List.range 64).foldl (fun s r => s.broadcastSlice d (tileRow tx ty r) ((bs.drop (64 * r)).take 64)) s
      mark s fun m => m &&& ~~~slotBit tx ty
  | none => mark s fun m => m ||| slotBit tx ty

/-- A tile that S0's pager loaded, taken into the Deputy's mirror (R456). -/
def State.mirrorTile (s : State) (bad : Bool) (tx ty : Int) : State :=
  let gone := s.d0.missing &&& slotBit tx ty != 0
  let (c0, _) := s.fetchTile .s0 tx ty
  let (c1, _) := s.fetchTile .s1 tx ty
  let second := s.dies.contains .s1 && s.d1.missing &&& slotBit tx ty == 0
  let differ := match c0, c1 with
    | some a, some b => second && crc32 a != crc32 b
    | _, _ => false
  if gone then { s with dep := { s.dep with missing := s.dep.missing ||| slotBit tx ty } }
  else if bad || differ then
    ({ s with dep := { s.dep with missing := s.dep.missing ||| slotBit tx ty, mirrorBad := true } }).event rDeputyEvents 5
  else
    let bs := c0.getD []
    let slice := (List.range 64).foldl (fun m r => memWrite m (tileRow tx ty r) ((bs.drop (64 * r)).take 64)) s.dep.slice
    { s with dep := { s.dep with slice := slice, missing := s.dep.missing &&& ~~~slotBit tx ty } }

/-- The store slot that a tile's valid directory entry names on a die. -/
def State.entrySlot (s : State) (d : Die) (tx ty : Int) : Option Nat :=
  match s.dirIndex tx ty with
  | none => none
  | some k =>
    let e := s.dirBase + 8 * k
    let v := ofLe (s.load (dramBase d + e) 8)
    if decide (e + 8 ≤ s.usable d) && dirValid v && decide (dirSlot v < bits (s.reg rWorldStoreSlots) 20 0) then some (dirSlot v)
    else none

/-- The tile a taken item changes. -/
def Staged.tile (it : Staged) : List (Int × Int) :=
  match it.matter with
  | .tile _ tx ty _ => [(tx, ty)]
  | .dir _ tx ty _ => [(tx, ty)]
  | _ => []

/-- The store slot whose contents a taken item changes. -/
def Staged.slot (it : Staged) : List Nat :=
  match it.matter with
  | .tile n _ _ _ => [n]
  | _ => []

/-- Whether the commit of `items` changed a tile's directory entry or, on a die, the contents of the slot that it names (R74). -/
def State.tileChanged (s : State) (d : Die) (items : List Staged) (t : Int × Int) : Bool :=
  (items.flatMap Staged.tile).contains t ||
    match s.entrySlot d t.1 t.2 with
    | some n => (items.flatMap Staged.slot).contains n
    | none => false

/-- The pager of a die (R72, R74): the origin from the committed ego state, then its loads; the tiles loaded. A tile that is
new in the slice and changed by the commit of `items` is loaded once (notes/assumptions/113.md). -/
def State.page (s : State) (d : Die) (items : List Staged) (ue : List (Int × Int × Bool)) :
    State × List (Int × Int) :=
  match s.image with
  | none => (s, [])
  | some i =>
    let x := s.die d
    let (tx0, ty0) := match s.world.ego with | some e => sliceOrigin i.world e | none => (x.tx0, x.ty0)
    let before := if s.world.fresh then [] else sliceTiles x.tx0 x.ty0
    let loads := (sliceTiles tx0 ty0).filter fun t => !before.contains t || s.tileChanged d items t
    let s := (s.setDie d { x with tx0 := tx0, ty0 := ty0 }).setReg (rPagerLoads d) 0
    (loads.foldl (fun s t => s.loadTile d ue t.1 t.2) s, loads)

/-- The N agent slices written into a die's Gallery (R95). -/
def State.writeSlices (s : State) (d : Die) : State :=
  match s.image with
  | none => s
  | some i =>
    let x := s.die d
    let base := (i.engines d).sliceBase
    (List.range i.rollout.nSamp).foldl (fun s t =>
      s.storeWin d (base + 18944 * t) (encodeSlice (buildSlice i.world (x.tx0 * 64) (x.ty0 * 64) s.world.modes t))) s

/-- The commit of the tick in progress begins (R104): the staged items that arrived before T_j + C are taken in the order of R86,
but for those beyond a cap, which stay staged and are late, a copy of an URGENT item excepted, which sets no LATE_INPUT (R107, R110;
notes/assumptions/113.md); the EGO, ROUTE and AGENT items take effect, and the rest of the work is held until its accesses
may be made. COMMIT_NS counts from T_j + C (R619). -/
def State.beginCommit (s : State) (met : CommitMet) : State :=
  let cut := s.tick.tk + s.cutC
  let le := fun (a b : Staged) => decide (a.arrival < b.arrival) || (a.arrival == b.arrival && decide (a.stream ≤ b.stream))
  let due := sortBy le (s.world.staged.filter fun it => decide (it.arrival < cut))
  let later := s.world.staged.filter fun it => !decide (it.arrival < cut)
  let (taken, kept) := selectStaged (s.img (·.world.tileCap)) (s.img (·.world.agentCapBytes)) due 0 0 false false
  let s := s.when (!kept.isEmpty) fun s => s.event rWorldEvents 1
  let size := (taken.map (·.size)).foldl (· + ·) 0
  let s := { s with
    world := { s.world with staged := kept.map (fun (it : Staged) => { it with late := !it.copy }) ++ later, leaving := size
                            egoNew := false, stale := s.world.stale || (s.hasS1 && s.d1.power != 2)
                            busy := true, begun := true, began := cut
                            held := some ⟨taken.filter Staged.isTile, met⟩ }
    plan := { s.plan with late := s.plan.late || taken.any (·.late) } }
  (taken.filter fun it => !it.isTile).foldl (fun s it => s.applyItem it) s

/-- The work of a commit on DRAM and the slices (R104 steps 1, 3 and 4), with the corrected errors that it met there (R358). -/
def State.commitWork (s : State) (c : HeldCommit) : State :=
  let s := c.items.foldl (fun s it => s.applyItem it) s
  let (s, loads) := (s.countDramCe .s0 c.met.d0.ce).page .s0 c.items c.met.d0.ue
  let s := if s.dies.contains .s1 then ((s.countDramCe .s1 c.met.d1.ce).page .s1 c.items c.met.d1.ue).1 else s
  let s := loads.foldl (fun s t => s.mirrorTile (c.met.crcBad.contains t) t.1 t.2) s
  let s := s.dies.foldl (fun s d => s.writeSlices d) s
  { s with world := { s.world with fresh := false, held := none } }

/-- The spans of DRAM that a commit reads or writes on a die: the slots and entries of its TILE and DIR items, and the entry and
the slot of every tile of the slice. -/
def State.commitSpans (s : State) (d : Die) (items : List Staged) : List (Nat × Nat) :=
  let entry := fun (tx ty : Int) => match s.dirIndex tx ty with
    | some k => [(dramBase d + s.dirBase + 8 * k, 8)]
    | none => []
  let slot := fun (n : Nat) => (dramBase d + s.storeBase + 4096 * n, 4096)
  let o := match s.image, s.world.ego with
    | some i, some e => sliceOrigin i.world e
    | _, _ => ((s.die d).tx0, (s.die d).ty0)
  items.flatMap (fun it => it.slot.map slot ++ it.tile.flatMap fun t => entry t.1 t.2) ++
    (sliceTiles o.1 o.2).flatMap fun t => entry t.1 t.2 ++ ((s.entrySlot d t.1 t.2).map slot).toList

/-- The work of the commit in progress done once none of its accesses waits for the front of a DRAM's initialisation; until then it
sets INIT_STALL (R359). A die that lost its power meanwhile takes no more of it. -/
def State.pumpCommit (s : State) : State :=
  match s.world.held with
  | none => s
  | some c =>
    if s.dies.all fun d => (s.die d).power == 2 then
      s.afterFront (s.dies.flatMap fun d => s.commitSpans d c.items) fun s => s.commitWork c
    else s

/-- EPOCH_COMMIT (R104, R358, R359, R619): at T_j + C of the tick in progress; only its DRAM accesses wait for a front. -/
def execEpochCommit (t : Nat) (m0 m1 : TilesMet) (crcBad : List (Int × Int)) (s : State) : Out :=
  .next (s.when (s.dev == .running && s.tick.live && !s.world.begun && !s.world.busy &&
      decide (s.tick.tk + s.cutC ≤ t)) fun s => ((s.advance t).beginCommit ⟨m0, m1, crcBad⟩).pumpCommit)

/-- A stored record of the Deputy's mirror (R455), none where it is not stored. -/
def depRecord (ex ey : Int) (r : AgentRec) : Option DepRec :=
  let dx := (r.x - ex + 128) >>> 8
  let dy := (r.y - ey + 128) >>> 8
  let ok := fun (v w : Int) => decide (-8388608 ≤ v ∧ v ≤ 8388608 ∧ -32768 ≤ w ∧ w ≤ 32767)
  if r.prob = 0 ∨ !ok (r.x - ex) dx ∨ !ok (r.y - ey) dy then none
  else
    let sh : Int := (182 + ((r.hl + r.hw) * 52 + 1023) / 1024 : Nat)
    let half : Nat → Nat := fun h => (clampInt ((4 * (h : Int) - sh) >>> 9) 0 255).toNat
    some { dx := dx, dy := dy, hdg := (r.heading + 128) / 256 % 256, hl8 := half r.hl, hw8 := half r.hw
           p8 := r.prob / 256 }

/-- The records the Deputy stores of a set of modes (R455), relative to the committed ego position. -/
def State.depRecords (s : State) (modes : List AgentMode) : List (Nat × Nat × DepRec) :=
  let (ex, ey) := match s.world.ego with | some e => (e.x, e.y) | none => (0, 0)
  let r := max 1 (s.nSamp / 64)
  modes.flatMap fun m => m.recs.zipIdx.filterMap fun p =>
    if p.2 % r = 0 then (depRecord ex ey p.1).map fun q => (m.idx, p.2, q) else none

/-! ### The end of a commit, and the triggers of Haulage (R103, R396) -/

/-- The TRIGGER field of the descriptor a chain holds (R388). -/
def Chain.trigger (h : Chain) : Nat := fieldU h.body 0x1C 4 / 2048 % 8

/-- The event of a trigger code reached: every held descriptor that waits for it may start (R396). -/
def State.trigger (s : State) (code : Nat) : State :=
  let fire := fun (h : Chain) => if h.step = .held ∧ h.trigger = code then { h with fired := true } else h
  let die := fun (x : DieState) => { x with ihaul := x.ihaul.map fun q => (q.1, q.2.1, fire q.2.2) }
  { s with chans := s.chans.map fun c => { c with chain := c.chain.map fire }, d0 := die s.d0, d1 := die s.d1 }

/-- COMMIT_END (R89, R101, R103, R396, R454, R619): epoch, EGO_AGE, the Deputy's world, staging space. -/
def execCommitEnd (t : Nat) (s : State) : Out :=
  .next (s.when (s.world.busy && s.world.held.isNone) fun s =>
    let s := s.advance t
    let w := s.world
    let age := if w.egoNew then 0 else if w.egoAge = 255 then 255 else min 254 (w.egoAge + 1)
    let s := s.setReg rWorldCommitNs (BitVec.ofNat 32 (s.now - w.began))
    let s := { s with
      world := { w with busy := false, epoch := (w.epoch + 1) % 4294967296, egoAge := age, leaving := 0, egoNew := false }
      dep := { s.dep with epoch := (s.dep.epoch + 1) % 4294967296, ego := w.ego, modes := s.depRecords w.modes } }
    let s := s.when (s.tick.live && decide (s.img (·.world.egoAgeLimit) ≤ age)) fun s => s.invalid reasonEgoStale
    (s.trigger 2).drainFreed)

/-! ### Urgent deltas (R41, R111, R112) -/

/-- The urgent deltas of the tick's final clearance, taken at the final cut: every one that came before it and that no
earlier tick was the first for (R41; State.dropUrgents). Only the last delta of each agent counts (R112). DESIGN CHOICE
(notes/assumptions/113.md): of more agents than the cap admits all are tested and mirrored, in the tick that is INVALID
then; a late delta that a later one of its agent supersedes, or whose agent ends in REMOVE, does not set LATE_INPUT; and
WORLD.URGENT.TAKEN and the record's field have 8 bits, in which 256 agents read as 255. -/
def State.takeUrgent (s : State) : State :=
  let f := s.phaseAt 4
  let cut := s.tick.tk + f
  let le := fun (a b : UrgentDelta) => decide (a.arrival < b.arrival) || (a.arrival == b.arrival && decide (a.stream ≤ b.stream))
  let due := sortBy le (s.world.urgents.filter fun u => decide (u.arrival < cut))
  let last := due.foldl (fun (acc : List UrgentDelta) u => (acc.filter fun v => v.agent != u.agent) ++ [u]) []
  let kept := last.filter fun u => !u.remove
  let n := kept.length
  let over_ := decide (s.img (·.world.urgentCap) < n)
  let s := { s with
    world := { s.world with urgents := s.world.urgents.filter (fun u => !decide (u.arrival < cut)), urgTaken := min 255 n }
    plan := { s.plan with taken := kept, late := s.plan.late || kept.any (·.late) }
    dep := { s.dep with urgent := s.depRecords (kept.flatMap fun (u : UrgentDelta) => u.modes), urgCount := n } }
  s.when over_ fun s => (s.event rWorldEvents 4).invalid reasonUrgent

/-! ### The copy to S1 (R71) -/

/-- A span of a memory copied to another place. -/
def memCopy (m : List Host.Cell) (src dst n : Nat) : List Host.Cell :=
  (m.filter fun c => decide (c.1 < dst)) ++
    ((m.filter fun c => decide (src ≤ c.1 ∧ c.1 < src + n)).map fun c => (c.1 - src + dst, c.2)) ++
    (m.filter fun c => decide (dst + n ≤ c.1))

/-- Whether a write of 1 to S1_SYNC is performed (R71). DESIGN CHOICE (notes/assumptions/117.md): one written while a copy is
in progress is ignored; R71 does not name that case. -/
def State.syncAllowed (s : State) : Bool :=
  s.dev == .stopped && s.hasS1 && s.d1.power == 2 && !s.sys.profileBusy && !s.world.syncing

/-- S1_SYNC (R71). -/
def State.startSync (s : State) : State :=
  s.when s.syncAllowed fun s => { s with world := { s.world with syncing := true } }

/-- S1_SYNC (R71). -/
def execS1Sync (s : State) : Out := .next (if s.host.d3 then s else s.startSync)

/-- The directory and store spans that a copy to S1 moves below a DRAM offset: DRAM offset and bytes. -/
def State.syncSpans (s : State) (below : Nat) : List (Nat × Nat) :=
  let lim := min below (min (s.usable .s0) (s.usable .s1))
  (s.storeSpans.filter fun p => decide (p.1 < lim)).map fun p => (p.1, min p.2 (lim - p.1))

/-- The directory and store copied from S0 to S1 below a DRAM offset (R71). -/
def State.copyStore (s : State) (below : Nat) : State :=
  { s with mem := (s.syncSpans below).foldl (fun m p => memCopy m p.1 (dramBase .s1 + p.1) p.2) s.mem }

/-- A copy to S1 cut off with the traffic of a die or of its Crosscut (R362 to R365): it ends, S1_STALE stays and no SYNC_DONE
comes. DESIGN CHOICE (notes/assumptions/124.md): how much of it has been copied is a free value. -/
def State.cutSync (s : State) : State :=
  s.when s.world.syncing fun s =>
    let (w, s) := s.freeWord
    let s := s.copyStore (64 * w.toNat)
    { s with world := { s.world with syncing := false } }

/-- SYNC_DONE (R71, R359): directory and store stand on S1 as on S0. -/
def execSyncDone (s : State) : Out :=
  .next (s.when s.world.syncing fun s =>
    let lim := s.usable .s0
    s.afterFront ((s.syncSpans lim).flatMap fun p => [p, (dramBase .s1 + p.1, p.2)]) fun s =>
      let s := s.copyStore lim
      let s := { s with world := { s.world with syncing := false, stale := false } }
      s.event rWorldEvents 6)

end Sys2Proof.Machine
end

