-- ==== Sys2Proof/Machine/Boundary.lean ====
section
/-! DEFINITION. The tick: what a boundary ends and releases, the phases, overruns, the tick source (R15 to R37, R192,
R294, R325, R330, R396, R397, R443). -/

namespace Sys2Proof.Machine
open Sys2Proof

/-! ### Save, shared by SAVE and the snapshot (R443, R512) -/

/-- The result of a SAVE recorded: TALLY.SAVE_STATUS, SAVE_LEN and the Tally entry. -/
def State.savedTo (s : State) (base len result : Nat) : State :=
  let s := s.setReg rTallySaveStatus (packFields [(4, result)])
  let s := if result = 0 then s.setReg rTallySaveLen (BitVec.ofNat 32 len) else s
  s.log note 0x0010 0 (leBytes 8 base ++ leBytes 4 len ++ leBytes 1 result)

/-- A snapshot taken (R443): its result, SNAP_DONE and vector 5. -/
def State.endSnapshot (s : State) (base len result : Nat) : State :=
  ((s.savedTo base len result).event rKlinkEvents 9).irq 5

/-- The bytes of a snapshot stored. -/
def State.storeSnapshot (s : State) (base : Nat) (bs : List Byte) : State := (s.store base bs).endSnapshot base (fieldU bs 8 4) 0

/-- The snapshot of a node whose request names the tick about to be released (R443): the state of this boundary, stored once the
front of initialisation has passed its region (R359). -/
def State.snapshot (s : State) (t : Nat) : State :=
  if s.kl.snapAt = some s.tick.next then
    let base := s.pair rKlinkSnapBaseLo rKlinkSnapBaseHi
    let s := { s with tick := { s.tick with expect := t }, kl := { s.kl with snapAt := none } }
    let bs := s.saveBytes true
    if !s.saveRegionOk base s.saveLen then s.endSnapshot base s.saveLen 6
    else if s.stalls base s.saveLen then ({ s with kl := { s.kl with snapDue := some (base, bs) } }).noteStall base s.saveLen
    else s.storeSnapshot base bs
  else s

/-- A snapshot that waited stored once the front has passed its region. -/
def State.pumpSnapshot (s : State) : State :=
  match s.kl.snapDue with
  | some (base, bs) => s.when (!s.stalls base (fieldU bs 8 4)) fun s =>
      ({ s with kl := { s.kl with snapDue := none } }).storeSnapshot base bs
  | none => s

/-! ### The end of a tick -/

/-- The pending recurrent bank at the boundary (R192): current where PROPOSE ran to completion and no fault leaves the
carry-over state as after an overrun. -/
def State.switchBank (s : State) : State :=
  let valid := match s.plan.record with | some r => recValid r | none => false
  let keep := s.plan.proposeOk && !s.plan.lost && !s.tick.stopped && (!valid || s.plan.judged == some 1)
  let one := fun (s : State) (d : Die) =>
    let r := s.reg (rPaRstate d)
    let b := bits r 16 16
    let r' := setBit r 17 false
    s.setReg (rPaRstate d) (if keep ∧ bit r 17 then setBits r' 16 16 (1 - b) else r')
  one (one s .s0) .s1

/-- The plan history at the boundary (R294, R499): an overrun leaves it as it was (R35). -/
def State.takeHistory (s : State) : State :=
  match s.plan.record with
  | some r =>
    if recValid r ∧ s.plan.judged = some 1 ∧ !s.tick.stopped ∧ !s.plan.lost then
      { s with plan := { s.plan with history := some (storedForm r) } } else s
  | none => s

/-- The count of boundaries without an in-window event and of consecutive events (R22, R23). -/
def Tick.countEvents (k : Tick) : Tick :=
  { k with missed := if k.seen then 0 else k.missed + 1
           good := if k.seen then k.good else if k.seenLast then k.good else 0
           seenLast := k.seen, seen := false }

/-- The urgent deltas whose first tick is the tick that ends go with it, also where it overran before its final clearance
(R41). -/
def State.dropUrgents (s : State) : State :=
  let cut := s.tick.tk + s.phaseAt 4
  { s with world := { s.world with urgents := s.world.urgents.filter fun u => !decide (u.arrival < cut) } }

/-- The tick in progress ends at its boundary. -/
def State.endTick (s : State) : State :=
  if s.tick.live then
    let s := s.switchBank.takeHistory.dropUrgents
    { s with tick := { (if s.src = 0 then s.tick else s.tick.countEvents) with live := false } }
  else s

/-- Overman, the engines' work and the Select operations at a boundary (R330); every tick fetches its weights anew (R181). -/
def DieState.newTick (x : DieState) (pool : Nat) : DieState :=
  { x with ovm := { Ovm.idle with minFree := pool }, reWork := [], sel := x.sel.filter (·.sw)
           roundOn := false, survs := [], paBusy := false, paRun := 0, paStopped := false, paHalves := [none, none],
           stepTop := (0, 0), steps := List.replicate 68 0, ihaul := x.ihaul.filter fun h => !h.2.1 }

/-! ### The release of a tick -/

/-- Counts of the last tick, which start again at a release. -/
def tickCounters (d : Die) : List Nat :=
  [rReCount d, rReRefused d, rReStall d, rPaOps d, rPaPagerBytes d, rPaPagerStall d, rCeStepMax d, rCeDenseSamples d,
   rCeUnknownSamples d, rSelOps d, rSelStall d, rHeapExpanded d, rHeapDropped d, rOvmTasks d, rOvmBpCycles d,
   rOvmAllocCycles d, rDmcBusyNs d, rXcutTxLines d, rXcutRxLines d]

/-- The collector's key table zeroed at the release of phase 0 (R438). -/
def State.clearKeyTable (s : State) : State :=
  match s.image with
  | none => s
  | some i =>
    match i.links with
    | none => s
    | some l => s.when (decide (1 < s.groupSize) && s.rank == 0) fun s =>
        s.store (l.kTable % 2 ^ 48) (List.replicate (8 * i.select.kFinal) 0)

/-- The canary set of a serving engine in a tick (R224). -/
def State.canarySet (s : State) (logical : Nat) : Nat := (s.tick.num + logical) % (s.img (·.safety.sets.length))

/-- Descriptors and expected records of the tick's sets written into every serving engine of a die (R224). -/
def State.setCanaries (s : State) (d : Die) : State :=
  match s.image with
  | none => s
  | some i =>
    (List.range 68).foldl (fun s p =>
      match (s.die d).ces[p]? with
      | some c =>
        if c.role = .serving then
          let set := i.safety.sets.getD (s.canarySet c.logical) default
          let s := s.storeWin d (canaryBase p + 0x1080) (padTo 64 (set.descs.flatMap encodeCanaryDesc))
          s.storeWin d (canaryBase p + 0x10C0) (padTo 64 (set.expect.flatMap encodeSlot))
        else s
      | none => s) s

/-- PROPOSE has run to completion: the pending recurrent bank becomes current at the boundary (R192). -/
def State.finishPropose (s : State) : State :=
  let s := { s with plan := { s.plan with proposeOk := true } }
  s.when (s.rstateLen != 0) fun s =>
    s.dies.foldl (fun s d => s.setReg (rPaRstate d) (setBit (s.reg (rPaRstate d)) 17 true)) s

/-- Pending banks set to the current state, which the tick's STATE_WRITEs then change (R191). -/
def State.copyBanks (s : State) : State :=
  s.dies.foldl (fun s d => s.storeWin d (s.bankBase (1 - s.bank d)) (s.rstate d)) s

/-! ### The rounds of REFINE (R270, R271) -/

/-- Tasks that follow in REFINE from some of its tasks, those among them. -/
def EnginesCfg.roundTasks (c : EnginesCfg) : Nat → List Nat → List Nat
  | 0, l => l
  | n + 1, l =>
    let more := (l.flatMap c.successors).filter fun t => (c.task t).phase == 3 && !l.contains t
    if more.isEmpty then l else c.roundTasks n (l ++ more.dedup)

/-- The work of a refinement round that a task does, none for another task: the round, and whether it is of the round itself
or inserts its children for the next. -/
def State.roundOf (s : State) (d : Die) (t : Nat) : Option (Nat × Bool) :=
  let r := (s.engCfg d).task t
  if r.phase ≠ 3 then none
  else if r.cls = 3 then
    match Config.parseHeapDesc (s.load r.desc 64) with
    | some x => some (x.round, x.kind == 2)
    | none => none
  else if r.cls = 1 then
    match Config.parseReDesc (s.load r.desc 64) with
    | some x => if x.kind = 1 then some (x.round, false) else none
    | none => none
  else none

/-- The tasks of a die that follow from those of REFINE with a property of the round they work for. -/
def State.tasksOfRounds (s : State) (d : Die) (p : Nat × Bool → Bool) : List Nat :=
  let c := s.engCfg d
  let seeds := (List.range c.tasks.length).filter fun t => match s.roundOf d t with | some r => p r | none => false
  c.roundTasks c.tasks.length seeds

/-- Tasks given up: they end without effect, and what follows them in later phases goes on. -/
def State.dropTasks (s : State) (d : Die) (gone : List Nat) : State :=
  let c := s.engCfg d
  let x := s.die d
  let out := fun (l : List Nat) => l.filter fun t => !gone.contains t
  let o := { x.ovm with lists := x.ovm.lists.map out, waiting := x.ovm.waiting.map out
                        running := x.ovm.running.filter fun r => !gone.contains r.task
                        done := x.ovm.done ++ gone, entered := x.ovm.entered ++ gone }
  let x := { x with ovm := o, reWork := x.reWork.filter fun w => !gone.contains w.task
                    sel := x.sel.filter fun w => w.sw || !(x.ovm.running.any fun r =>
                      r.cls == 2 && r.engine == w.engine && gone.contains r.task) }
  let after := gone.flatMap fun t => (c.successors t).filter fun u => !gone.contains u
  after.foldl (fun s u => s.arrive d u) (s.setDie d x)

/-- Refinement stops after ROUNDS rounds (R270): tasks of the image's graph for further ones are given up as REFINE is
released. -/
def State.limitRounds (s : State) (d : Die) : State :=
  let n := s.img (·.refine.rounds)
  s.dropTasks d (s.tasksOfRounds d fun r => decide (n ≤ if r.2 then r.1 + 1 else r.1))

/-- A die's survivor list: K_SURV entries (R252). -/
def State.survivors (s : State) (d : Die) : List Byte := s.loadWin d (s.engCfg d).survBase (8 * s.img (·.select.kSurv))

/-- Where K_FINAL exceeds K_SURV, the entries that follow a die's survivors are the invalid entry (R253). -/
def State.padSurvivors (s : State) (d : Die) : State :=
  let k := s.img (·.select.kSurv)
  let n := s.img (·.select.kFinal) - k
  s.when (n != 0) fun s => s.storeWin d ((s.engCfg d).survBase + 8 * k)
    ((List.replicate n (⟨invalidId, 0, 0⟩ : Element)).flatMap (encodeElement false))

/-- A phase released (R27): its tasks enter their lists; phase 0 sets up the canaries and the collector's table, a PROPOSE
without a network ends at once (R115), REFINE empties the heap (R260) and keeps to its rounds (R270), SELECT forms each die's
top K_FINAL (R253), EMIT is a Haulage event. -/
def State.releasePhase (s : State) (n : Nat) : State :=
  let s := { s with tick := { s.tick with rel := n + 1, phase := n } }
  let s := if n = 0 then s.dies.foldl (fun s d => s.setCanaries d) s.clearKeyTable
    else if n = 1 then
      let s := s.copyBanks
      if s.img (·.policy.nets.length) = 0 then (s.dies.foldl (fun s d => s.setReg (rPaProposeNs d) 0) s).finishPropose
      else s
    else if n = 3 then s.dies.foldl (fun s d =>
      (s.setDie d { s.die d with heap := [], rounds := 0, round := 0, roundOn := false, survs := [] }).limitRounds d) s
    else if n = 4 then (s.dies.foldl (fun s d => s.padSurvivors d) s).takeUrgent
    else if n = 5 then s.trigger 3
    else s
  s.dies.foldl (fun s d => s.enterPhase d) s

/-- The tick seed of R129 shown on both dies. -/
def State.setTickSeed (s : State) (k : Nat) : State :=
  let v := (mix64 s.seed (BitVec.ofNat 64 k) 0).toNat
  (s.setBoth (fun d => rReTseedLo d) (loWord v)).setBoth (fun d => rReTseedHi d) (hiWord v)

/-- The tick seed in force. -/
def State.tseed (s : State) : DWord := BitVec.ofNat 64 (s.pair (rReTseedLo .s0) (rReTseedHi .s0))

/-- The Deputy at a boundary: its own tick count, T_k, the tick's canary reports and urgent set (R459). -/
def Deputy.newTick (x : Deputy) (first : Bool) (t : Nat) : Deputy :=
  { x with tick := if first then x.tick else (x.tick + 1) % 2 ^ 64, tk := t, canary := [], urgent := [], urgCount := 0
           mirrorBad := false }

/-- A Crosscut that is down retrains (R362). -/
def State.retrainXcut (s : State) : State :=
  let up := fun (x : DieState) => x.power == 2 && !x.isolated
  let both := up s.d0 && up s.d1
  { s with d0 := { s.d0 with hubUp := up s.d0, peerUp := both }, d1 := { s.d1 with hubUp := up s.d1, peerUp := both } }

/-- TICK_OUT driven at a boundary that the device learns at `t` (R25). -/
def State.driveTickOut (s : State) (t : Nat) : State :=
  s.when (bit (s.reg rTickCtrl) 4) fun s => ({ s with tick := { s.tick with rise := some t } }).emit (.tickOut t)

/-- The next tick released at boundary `t`. DEDUCED (notes/assumptions/129.md): the times of commands are readings of device
time as it is slewed (R430), so that what the slew adds in this tick stands in the boundary expected next. -/
def State.releaseTick (s : State) (t : Nat) : State :=
  let first := s.tick.first
  let k := s.tick.next
  let p := s.period
  let s := match s.tick.nextT with
    | some e => { s with plan := { s.plan with history := s.plan.history.map (shiftHistory ((t : Int) - e)) }
                         tick := { s.tick with nextT := none } }
    | none => s
  let s := s.snapshot t
  let prev : Int := if first then (t : Int) - p else s.tick.tk
  let slew := clampInt s.tick.slew (-1000) 1000
  let expect := ((t + p : Nat) + s.tick.corr + slew : Int).toNat
  let s := { s with ticked := some k
                    tick := { s.tick with num := k, next := (k + 1) % 2 ^ 64, live := true, awaitT0 := false, tk := t
                                          prev := prev, first := false, nextT := none, expect := expect, corr := 0, phase := 6, rel := 0
                                          stopped := false, atT0 := first, rise := none
                                          runIn := bits (s.reg rTickInvalidRun) 3 0
                                          slew := s.tick.slew - slew }
                    plan := Plan.fresh s.plan.history
                    world := { s.world with begun := false, urgTaken := 0 }
                    dep := s.dep.newTick first t
                    host := { s.host with pace := bits (s.reg rHostPace) 15 0, pvDone := false, spent := 0 } }
  let s := { s with d0 := { s.d0 with clockCut := false }, d1 := { s.d1 with clockCut := false } }
  let s := s.setReg rHostPaceUsed 0
  let s := ((tickCounters .s0 ++ tickCounters .s1).foldl (fun s o => s.setReg o 0) s)
  let s := s.setField (rHeapFcStatus .s0) 23 16 0
  let s := ((s.setTickSeed k).retrainXcut.retrainDown.trigger 1).drainHeld
  let s := s.driveTickOut (if first && s.src == 1 then s.now else t)
  s.when (s.phaseAt 0 = 0) fun s => s.releasePhase 0

/-- A stream none of whose items waits. -/
def Stream.drained (c : Stream) : Stream := { c with inbox := [], held := [], full := false }

/-- STOP discards the staged items (R109), and those that wait to be staged. -/
def State.dropStaged (s : State) : State :=
  { s with world := { s.world with staged := [], urgents := [], streams := s.world.streams.map Stream.drained } }

/-- STOP and HOLD entries that follow at the same boundary, executed in queue order (R53, R585). -/
def State.edgeCommands (s : State) : Nat → State
  | 0 => s
  | n + 1 =>
    match s.sys.queue with
    | .cmd 2 :: _ => ((({ s with dev := .stopped }).dropStaged).popCmd 2 reasonDone).edgeCommands n
    | .cmd 3 :: _ => (s.popCmd 3 (if s.dev = .hold then reasonDone else reasonState)).edgeCommands n
    | _ => s

/-- Tick work left over ends with the tick. -/
def State.newTickDies (s : State) : State :=
  let s := ((s.chargeWaits .s0).chargeWaits .s1).dropTickOps
  { s with d0 := s.d0.newTick (s.engCfg .s0).poolSize, d1 := s.d1.newTick (s.engCfg .s1).poolSize }

/-- A boundary at `t`: the tick in progress ends, the changes timed to boundaries take effect, and the next tick is
released, or a waiting STOP or HOLD takes effect and none is (R48, R49). A STOP or HOLD that executed while T_0 was awaited
takes effect at T_0, and no tick is released (notes/assumptions/111.md). -/
def State.boundary (s : State) (t : Nat) : State :=
  let s := ((s.advance t).endTick).newTickDies
  let s := (s.boundaryUnits .s0).boundaryUnits .s1
  let s := s.setBoth (fun d => rPaOrder d) (BitVec.ofNat 32 s.paOrder)
  if s.sys.waitEdge ∧ s.sys.waitAt < t then
    match s.sys.queue with
    | .cmd 2 :: _ => (((s.leaveRunning .stopped).dropStaged).edgeCommands 8).retrainXcut
    | _ => ((s.leaveRunning .hold).edgeCommands 8).retrainXcut
  else s.releaseTick t

/-- TICK_BOUNDARY (R15, R18): the boundary falls at the expected time. -/
def execTickBoundary (t : Nat) (s : State) : Out :=
  .next (s.when (s.dev == .running && !s.tick.awaitT0 && t == s.tick.expect) fun s => s.boundary t)

/-! ### The tick source (R19 to R23, R429, R430) -/

/-- An in-window event counted towards the lock (R23). -/
def State.countGood (s : State) : State :=
  let g := s.tick.good + 1
  let locked := decide (2 ≤ g)
  { s with tick := { s.tick with good := g, locked := s.tick.locked || locked, lost := s.tick.lost && !locked } }

/-- The correction of R21. -/
def edgeCorrection (e E : Nat) : Int := clampInt ((e : Int) - E) (-1000) 1000

/-- A counted edge judged against the windows of the expected boundary and of the boundary last taken (R21, R22): the edge
may lie in the last 100 ns before a boundary that has been taken when the pulse acts (R20), and T_0 has no window (R19). -/
def State.judgeEdge (s : State) (e : Nat) : State :=
  let k := s.tick
  let tol := s.tol
  if k.live ∧ !k.atT0 ∧ k.tk ≤ e + tol ∧ e < k.tk + tol then
    if k.seenLast then s.event rTickEvents 11
    else
      ({ s with tick := { k with seenLast := true, missed := 0
                                 expect := ((k.tk + s.period : Nat) + edgeCorrection e k.tk : Int).toNat } }).countGood
  else if k.expect ≤ e + tol ∧ e < k.expect + tol then
    if k.seen then s.event rTickEvents 11
    else
      ({ s with tick := { k with seen := true, corr := edgeCorrection e k.expect
                                 good := if k.seenLast ∨ !k.live then k.good else 0 } }).countGood
  else s.event rTickEvents 9

/-- TICK_IN_PULSE (R19 to R22): the pulse acts when it qualifies, 100 ns after its rising edge. A counted edge outside
RUNNING or with another source, and one at or after T0 + 4P while T_0 is awaited, sets no event bit
(notes/assumptions/111.md). -/
def execTickInPulse (e width : Nat) (s : State) : Out :=
  .next (if width < 100 then s.event rTickEvents 10
    else s.when (s.dev == .running && s.src == 1) fun s =>
      let s := s.advance (e + 100)
      if s.tick.awaitT0 then
        if s.tick.t0 ≤ e ∧ e < s.tick.t0 + 4 * s.period then
          let s := { s with tick := { s.tick with awaitT0 := false, expect := e, seenLast := true, seen := false
                                                  missed := 0, good := 0, corr := 0 } }
          let s := s.boundary e
          let s := { s with now := max s.now (e + 100) }
          s.when s.tick.live fun s => s.countGood
        else s
      else s.judgeEdge e)

/-- SRC_LOST (R19, R23): four ticks without an event, or no event for T_0, which is then T0 + 4P on the internal timer. -/
def State.loseSource (s : State) : State :=
  let s := { s with tick := { s.tick with lost := true, locked := false, good := 0 } }
  let s := s.event rTickEvents 8
  (s.log warn 0x0100 (tallySource 0 10 0) (leBytes 1 s.src)).irq 0

/-- SRC_LOST (R19, R23). -/
def execSrcLost (t : Nat) (s : State) : Out :=
  .next (s.when (s.dev == .running && s.src != 0) fun s =>
    if s.tick.awaitT0 then
      s.when (decide (s.tick.t0 + 4 * s.period ≤ t)) fun s =>
        let s := { s with tick := { s.tick with awaitT0 := false, expect := s.tick.t0 + 4 * s.period } }
        (s.advance t).loseSource.boundary (s.tick.t0 + 4 * s.period)
    else s.when (!s.tick.lost && decide (4 ≤ s.tick.missed)) fun s => (s.advance t).loseSource)

/-! ### Phases, watchdogs, overrun (R27, R31 to R33) -/

/-- Whether the work of a phase is complete: the tick's commit made and ended in phase 0, the walk-down done in phase 4, the
record handed over and judged in phase 5, and every task of the phase on every active die. -/
def State.phaseDone (s : State) (ph : Nat) : Bool :=
  (match ph with
   | 0 => s.world.begun && !s.world.busy
   | 1 => s.plan.proposeOk
   | 4 => s.plan.walked
   | 5 => s.plan.handed && s.plan.judged.isSome
   | _ => true) && s.dies.all fun d => s.phaseTasksDone d ph

/-- Whether a watchdog of a phase before `ph` has expired at `t` on incomplete work: the tick overruns, and no later phase is
released (R31, R32). -/
def State.overrunBy (s : State) (ph t : Nat) : Bool :=
  (List.range ph).any fun q => !s.phaseDone q && decide (s.tick.tk + s.phaseEnd q ≤ t)

/-- PHASE_RELEASE (R27, R32): phases are released in order, each at its offset or later. -/
def execPhaseRelease (t ph : Nat) (s : State) : Out :=
  .next (s.when (s.dev == .running && s.tick.live && !s.tick.stopped && decide (ph < 6) && s.tick.rel == ph &&
      decide (s.tick.tk + s.phaseAt ph ≤ t) && !s.overrunBy ph (max t s.now)) fun s => (s.advance t).releasePhase ph)

/-- The record deadline of the tick (R31). -/
def State.deadline (s : State) : Nat := s.tick.tk + s.phaseAt 5 + 10000

/-- An overrun in a phase (R32, R33): work stops, partial results go, the record is written INVALID where none has been
handed over. -/
def State.overrun (s : State) (ph : Nat) (write : Bool) : State :=
  let s := s.stopWork.event rTickEvents ph
  let s := (s.count rTickOvrCount 1).log note 0x0101 (tallySource 0 10 0) (leBytes 1 ph)
  let s := { s with tick := { s.tick with phase := 6 } }
  if write then s.writeInvalid reasonOverrun else { s with plan := { s.plan with lost := true } }

/-- The end of the phase 5 budget: vector 1, the SLACK event (R396), and FAIL, NO_RECORD for a tick whose record never
reached the Deputy (R458). -/
def State.emitEnds (s : State) : State :=
  let s := if s.plan.record.isNone && s.plan.judged.isNone then s.judge 2 0x02 0xFFFF none else s
  let s := { s with tick := { s.tick with phase := if s.tick.live then 6 else 7 } }
  (s.trigger 4).irq 1

/-- PHASE_WATCHDOG (R31, R32, R344, R458). -/
def execPhaseWatchdog (t : Nat) (b : BudgetEnd) (s : State) : Out :=
  .next (s.when (s.dev == .running && s.tick.live && decide (b.ph < 6) && decide (s.tick.tk + s.phaseEnd b.ph ≤ t)) fun s =>
    let s := s.advance t
    let late := !s.tick.stopped && decide (b.ph < s.tick.rel) && !s.phaseDone b.ph
    let s := s.when late fun s => (s.contendAll b.ports).overrun b.ph (decide (b.ph < 5))
    s.when (b.ph = 5) fun s => s.emitEnds)

/-- RECORD_DEADLINE (R31, R33): a record not handed over by the deadline is an overrun of phase 5. -/
def execRecordDeadline (b : DeadlineMet) (s : State) : Out :=
  .next (s.when (s.dev == .running && s.tick.live && !s.tick.stopped && !s.plan.handed && decide (s.deadline ≤ b.t)) fun s =>
    ((s.advance b.t).contendAll b.ports).overrun 5 true)

/-! ### Time-up (R271) -/

/-- The dies that complete rounds: those whose rounds hold a TOPK (R269); every die where none does. -/
def State.roundDies (s : State) : List Die :=
  let own := s.dies.filter fun d => (s.tasksOfRounds d fun _ => true).any fun t =>
    let r := (s.engCfg d).task t
    r.cls == 2 && (decodeSelDesc (s.load r.desc 64)).op == 3
  if own.isEmpty then s.dies else own

/-- The rounds that are complete on every die (R271). -/
def State.commonRounds (s : State) : Nat :=
  s.roundDies.foldl (fun n d => min n (s.die d).rounds) (s.img (·.refine.rounds))

/-- The tasks of the rounds from `n` on that have not ended on a die. -/
def State.roundsLeft (s : State) (n : Nat) (d : Die) : List Nat :=
  (s.tasksOfRounds d fun r => decide (n ≤ if r.2 then r.1 + 1 else r.1)).filter fun t => !(s.die d).ovm.done.contains t

/-- The survivor list of round `n` stands again on a die that had completed a later one (R271). -/
def State.restoreList (s : State) (n : Nat) (d : Die) : State :=
  s.when (decide (n < (s.die d).rounds)) fun s => s.storeWin d (s.engCfg d).survBase ((s.die d).survs.getD n [])

/-- The rounds from `n` on abandoned on a die (R271): their tasks `gone` end without effect, and where the die had completed one
of them before the other die, the survivor list of the round before stands again. -/
def State.abandonRounds (s : State) (n : Nat) (gone : List Nat) (d : Die) : State :=
  let x := s.die d
  let s := s.restoreList n d
  (s.setDie d { s.die d with roundOn := false, rounds := min n x.rounds, survs := x.survs.take n }).dropTasks d gone

/-- TIMEUP (R271): a round that is not complete on both dies is abandoned on both. -/
def execTimeup (t : Nat) (s : State) : Out :=
  .next (s.when (s.dev == .running && s.tick.live && !s.tick.stopped && s.tick.rel == 4 &&
      decide (s.commonRounds < s.img (·.refine.rounds)) &&
      decide (s.tick.tk + s.img (·.refine.timeupUs) * 1000 ≤ t)) fun s =>
    let n := s.commonRounds
    let left := s.roundsLeft n
    let s := s.dies.foldl (fun s d => (s.abandonRounds n (left d) d).event (rHeapEvents d) 0) (s.advance t)
    { s with plan := { s.plan with timeoutDeg := true } })

end Sys2Proof.Machine
end

