-- ==== Sys2Proof/Machine/Commands.lean ====
section
/-! DEFINITION. The commands of R49 as they execute at the head of the queue, the software commit, and HALT_N
(R44 to R60, R512 to R518, R563 to R568, R583 to R589). -/

namespace Sys2Proof.Machine
open Sys2Proof

/-! ### Canary material and sessions -/

/-- The same for all 68 engines of the powered dies (R224). -/
def State.writeCanaries (s : State) : State :=
  [Die.s0, Die.s1].foldl (fun s d =>
    if (s.die d).power = 2 then (List.range 68).foldl (fun s p => s.writeCanary d p) s else s) s

/-- Counters of a die that count from START. -/
def startCounters (d : Die) : List Nat :=
  [rPagerLoadTotal d, rPaTestCount d, rPaMismatch d, rPaBufCe d, rHeapVotesTotal d, rHeapTraceDrop d,
   rGalConfTotalA d, rGalConfTotalB d, rGalHazards d, rGalEccCe d, rDmcEccCe d, rDmcEccUe d, rXcutRetries d,
   rCeDenseSamples d, rCeUnknownSamples d] ++
  (List.range 68).flatMap fun p =>
    [rCeEngEcc d p, rCeEngSamplesLo d p, rCeEngSamplesHi d p]

/-- Hub counters that count from START. -/
def hubStartCounters : List Nat :=
  [rTickOvrCount, rTickInvalidRun, rWorldRejLast, rDeputyPassCount, rDeputyFailCount] ++
  (List.range 6).flatMap (fun p => [rKlinkPortRetry p, rKlinkPortCrc p]) ++ (List.range 140).map rHaulChDrop

/-! ### START and RESUME -/

/-- The period admitted (R16, R30). -/
def State.periodOk (s : State) : Bool :=
  let p := bits (s.reg rTickPeriod) 15 0
  decide (500 ≤ p ∧ p ≤ 50000) && decide (s.ent (·.minPeriod) ≤ p)

/-- The profile checks of START and RESUME (R58, R71, R159, R545). -/
def State.profileOk (s : State) : Bool :=
  s.entry.isSome && s.dies.all (fun d => (s.die d).serviceable) && !(s.dies.contains .s1 && s.world.stale)

/-- The conditions of R50 after the state, in its order, with `ref` the time T0 is measured from: the REASON, 0 when all
hold. -/
def State.runCheck (s : State) (ref : Nat) : Nat :=
  if s.image.isNone || s.damaged then reasonNoImage
  else if !s.periodOk then reasonPeriod
  else if s.src = 3 then reasonSource
  else if s.sys.haltLow then reasonHalted
  else if !s.profileOk then reasonProfile
  else if s.pair rTickT0Lo rTickT0Hi < ref + 50000 then reasonT0
  else reasonDone

/-- The Tick block set to wait for T_0 (R19, R26): the internal timer takes T0 exactly. DESIGN CHOICE
(notes/assumptions/130.md): its status starts anew, SRC_LOST of an earlier run with it, whose clearing R23 states only for the
lock. -/
def State.awaitFirst (s : State) (next : Nat) (nextT : Option Nat) : State :=
  let t0 := s.pair rTickT0Lo rTickT0Hi
  { s with dev := .running
           tick := { Tick.reset with num := s.tick.num, next := next, tk := s.tick.tk, first := true, nextT := nextT
                                     awaitT0 := decide (s.src ≠ 0), t0 := t0, expect := t0 } }

/-- The Deputy's start-up error injection (R488 to R490): `missed` holds the rows not caught, bit 15 a latch that fired
without an injection. -/
def State.inject (s : State) (missed : Nat) : State :=
  let inj := BitVec.ofNat 32 (missed % 32768 + 2 ^ 31)
  let s := s.setReg rDeputyInj inj
  let s := { s with dep := { s.dep with injRun := true, injOk := decide (missed = 0) } }
  if missed = 0 then s
  else
    let s := (s.event rDeputyEvents 8).log faultSev 0x0503 (tallySource 0 9 0) (leBytes 4 inj.toNat)
    s.enterSafe causeInjection

/-- The counters that START zeroes. -/
def State.clearCounters (s : State) : State :=
  let s := { s with d0 := { s.d0 with losses := [] }, d1 := { s.d1 with losses := [] } }
  (startCounters .s0 ++ startCounters .s1 ++ hubStartCounters).foldl (fun s o => s.setReg o 0) s

/-- The ages of the in-field test, which the Deputy's own clock keeps, carried over a device time set from `old` to `new`
(R486). -/
def DieState.shiftAges (x : DieState) (old new : Nat) : DieState :=
  let by_ : Int := (new : Int) - old
  { x with since := x.since + by_, tested := x.tested.map fun q => (q.1, q.2.1, q.2.2 + by_) }

/-- Device time and the base seed loaded (R17, R130). -/
def State.loadTime (s : State) : State :=
  let new := s.pair rTickTimeSetLo rTickTimeSetHi
  { s with now := new
           d0 := s.d0.shiftAges s.now new
           d1 := s.d1.shiftAges s.now new
           seed := BitVec.ofNat 64 (s.pair (rReSeedSetLo .s0) (rReSeedSetHi .s0)) }

/-- A die whose map pager has loaded nothing. -/
def DieState.unmapped (x : DieState) : DieState := { x with missing := BitVec.allOnes 64 }

/-- The plan history, the world and the Deputy's copies emptied (R77, R85, R87, R103, R109, R193, R498). -/
def State.emptySession (s : State) (next epoch : Nat) : State :=
  { s with
    d0 := s.d0.unmapped, d1 := s.d1.unmapped, plan := Plan.fresh none
    world := { World.reset with
      streams := s.world.streams.map fun (c : Stream) => { c.drained with lastSeq := none, acc := 0, rej := 0, late := 0 }
      epoch := epoch, stale := s.world.stale, syncing := s.world.syncing }
    dep := { s.dep with invRun := 0, passRun := 0, tick := next, epoch := epoch, ego := none, modes := [], urgent := [], urgCount := 0
                        missing := BitVec.allOnes 64 } }

/-- What START empties and loads (R17, R77, R85, R87, R103, R109, R130, R193, R224, R498). -/
def State.startSession (s : State) : State :=
  let epoch := (s.reg rWorldEpochSet).toNat
  let next := s.pair rTickNumSetLo rTickNumSetHi
  let zero := List.replicate s.rstateLen (0 : Byte)
  let s := s.loadTime.clearCounters.emptySession next epoch
  (((s.writeBank 0 zero).writeBank 1 zero).writeCanaries).awaitFirst next none

/-- The registers that RESUME uses, and START with those it loads (R577). -/
def runRegs : List Nat := [rTickPeriod, rTickCtrl, rTickT0Lo, rTickT0Hi, rGlbProfile]

/-- The registers that START loads. -/
def sessionRegs : List Nat :=
  [rTickTimeSetLo, rTickTimeSetHi, rTickNumSetLo, rTickNumSetHi, rWorldEpochSet, rReSeedSetLo .s0, rReSeedSetHi .s0]

/-- START (R49, R50, R59, R320): it waits at the head for a load, a BIST run or a profile change. -/
def execStart (t missed : Nat) (s : State) : Out :=
  .next (s.when (s.sys.queue.head? == some (.cmd 1) && !s.headWait) fun s =>
    let s := (s.advance t).when (s.dev == .stopped) fun s => s.checkUses (runRegs ++ sessionRegs)
    if s.dev ≠ .stopped then s.popCmd 1 reasonState
    else
      let r := s.runCheck (s.pair rTickTimeSetLo rTickTimeSetHi)
      if r ≠ reasonDone then s.popCmd 1 r
      else ((s.startSession.popCmd 1 reasonDone).sendTrains).inject missed)

/-- RESUME (R49, R50, R474, R488, R515). -/
def execResume (t missed : Nat) (s : State) : Out :=
  .next (s.when (s.sys.queue.head? == some (.cmd 4)) fun s =>
    let s := (s.advance t).when (s.dev == .hold) fun s => s.checkUses runRegs
    if s.dev ≠ .hold then s.popCmd 4 reasonState
    else
      let r := s.runCheck s.now
      if r ≠ reasonDone then s.popCmd 4 r
      else
        let s := s.awaitFirst s.tick.next (some s.nextBoundary)
        let s := { s with dep := { s.dep with invRun := 0, passRun := 0, tick := s.tick.next } }
        (s.popCmd 4 reasonDone).inject missed)

/-! ### STOP and HOLD -/

/-- The head waits for the next boundary (R47, R48, R585). -/
def State.waitBoundary (s : State) : State := { s with sys := { s.sys with waitEdge := true, waitAt := s.now } }

/-- STOP (R49, R109, R585). -/
def execStop (t : Nat) (s : State) : Out :=
  .next (s.when (s.sys.queue.head? == some (.cmd 2) && !s.sys.waitEdge) fun s =>
    let s := s.advance t
    match s.dev with
    | .running => s.waitBoundary
    | .hold => (({ s with dev := .stopped }).dropStaged).popCmd 2 reasonDone
    | .stopped => s.popCmd 2 reasonDone
    | _ => s.popCmd 2 reasonState)

/-- HOLD (R49, R585). -/
def execHold (t : Nat) (s : State) : Out :=
  .next (s.when (s.sys.queue.head? == some (.cmd 3) && !s.sys.waitEdge) fun s =>
    let s := s.advance t
    match s.dev with
    | .running => s.waitBoundary
    | .hold => s.popCmd 3 reasonDone
    | _ => s.popCmd 3 reasonState)

/-! ### SAVE and RESTORE (R512 to R516) -/

/-- The registers that SAVE and RESTORE use (R577). -/
def saveRegs : List Nat := [rTallySaveBaseLo, rTallySaveBaseHi]

/-- SAVE_BASE as sampled when SAVE or RESTORE executes. -/
def State.sampleBase (s : State) (restore : Bool) (result : Nat) : State :=
  let base := s.pair rTallySaveBaseLo rTallySaveBaseHi
  let s := { s with sys := { s.sys with waitSave := true, saveBase := base, saveResult := result } }
  s.setReg rTallySaveStatus (setBit (setBit (s.reg rTallySaveStatus) 0 true) 9 restore)

/-- SAVE (R359, R512): the state is written from the sampled base; SAVE_DONE reports it. -/
def execSave (t : Nat) (s : State) : Out :=
  .next (s.when (s.sys.queue.head? == some (.cmd 5) && !s.sys.waitSave) fun s =>
    let s := (s.advance t).when (s.dev == .hold) fun s => s.checkUses saveRegs
    if s.dev ≠ .hold then s.popCmd 5 reasonState
    else s.afterFront [(s.pair rTallySaveBaseLo rTallySaveBaseHi, s.saveLen)] fun s =>
      let (s, r) := s.saveTo (s.pair rTallySaveBaseLo rTallySaveBaseHi) false
      s.sampleBase false r)

/-- SAVE_DONE (R512). -/
def execSaveDone (s : State) : Out :=
  .next (s.when (s.sys.queue.head? == some (.cmd 5) && s.sys.waitSave) fun s =>
    (s.savedTo s.sys.saveBase s.saveLen s.sys.saveResult).popCmd 5 reasonDone)

/-- RESTORE (R513): its reads begin. -/
def execRestore (t : Nat) (s : State) : Out :=
  .next (s.when (s.sys.queue.head? == some (.cmd 6) && !s.sys.waitSave) fun s =>
    let s := (s.advance t).when (s.dev == .hold || s.dev == .stopped) fun s => s.checkUses saveRegs
    if s.dev = .hold ∨ s.dev = .stopped then s.sampleBase true 0 else s.popCmd 6 reasonState)

/-- RESTORE_DONE (R359, R513, R514): the checks in order, and the load where all pass. -/
def execRestoreDone (ue : Bool) (s : State) : Out :=
  .next (s.when (s.sys.queue.head? == some (.cmd 6) && s.sys.waitSave) fun s =>
    s.afterFront [(s.sys.saveBase, 0x80), (s.sys.saveBase, fieldU (s.load s.sys.saveBase 0x80) 8 4)] fun s =>
    let base := s.sys.saveBase
    let r0 := s.restoreCheck base
    let r := if r0 ≠ 6 ∧ ue then 5 else r0
    let s := s.when (r == 5) fun s => s.sourceUe base 0x80
    let next := if r = 6 then 0 else fieldU (s.load base 0x80) 0x10 8
    let diff := decide (r = 0) && s.fwDiffers base
    let len := if r = 6 then 0 else fieldU (s.load base 0x80) 8 4
    let s := if r = 0 then (s.restoreLoad base).setReg rTallySaveLen (BitVec.ofNat 32 len) else s
    let s := s.setReg rTallySaveStatus (packFields [(4, r), (8, bnat diff), (9, 1)])
    (s.log note 0x0011 0 (leBytes 8 base ++ leBytes 8 next ++ leBytes 1 r)).popCmd 6 reasonDone)

/-- UNLISTED_CODE (R584). -/
def execUnlistedCode (t : Nat) (s : State) : Out :=
  .next (match s.sys.queue with
    | .cmd c :: _ => if 1 ≤ c ∧ c ≤ 7 then s else (s.advance t).popCmd c reasonState
    | _ => s)

/-! ### COMMIT and DISCARD (R56, R57, R59, R60, R563 to R567, R586, R589) -/

/-- Whether a pending value differs from the value in force. -/
def State.shChanges (s : State) (p : ShPend) : Bool := (s.reg p.off &&& p.mask) != (p.val &&& p.mask)

/-- A taken value in force. -/
def State.takeSh (s : State) (p : ShPend) : State :=
  s.setReg p.off ((s.reg p.off &&& ~~~p.mask) ||| (p.val &&& p.mask))

/-- The profile a commit would put in force. -/
def State.pendingProfile (s : State) : Nat :=
  match s.sh.find? fun p => p.off == rGlbProfile with
  | some p => bits p.val 3 0
  | none => s.profile

/-- Whether the variant offers a profile (R1, R55): LM8400-AS has LULL alone. -/
def State.offered (s : State) (p : Nat) : Bool := decide (p < 4) && (s.hasS1 || p == 0)

/-- The arithmetic clock of a profile in MHz (R55). -/
def profileMhz (p : Nat) : Nat := if p < 2 then 800 else 1000

/-- The coordinates checked against the dimensions (R424); outside RUNNING the ports that the new place uses attempt training
(R412). -/
def State.checkCoord (s : State) : State :=
  match s.image.bind (·.links) with
  | none => { s with kl := { s.kl with coordBad := false } }
  | some l =>
    let bad := [0, 1, 2].any fun k => decide (l.dims.getD k 1 ≤ s.coords.getD k 0)
    let s := { s with kl := { s.kl with coordBad := bad } }
    (s.when bad fun s => (s.event rKlinkEvents 2).irq 5).when (s.dev != .running) fun s => s.retrainDown

/-- The profile change that a commit begins (R59, R60, R589): S1 drains or powers up, the clocks switch. A commit of a
dual-die profile while S1 still drains, and one of LULL while it still powers up, begins the other change at once: the
drain ends without an isolation and the power-up without its end (notes/assumptions/111.md). -/
def State.changeProfile (s : State) (old : Nat) : State :=
  let new := s.profile
  let clock := decide (profileMhz old ≠ profileMhz new)
  let down := usesS1 old && !usesS1 new && decide (s.d1.power ≠ 0)
  let up := !usesS1 old && usesS1 new && decide (s.d1.power ≠ 2)
  let s := if down then { s with d1 := { s.d1 with power := 3 } } else if up then { s with d1 := { s.d1 with power := 1 } }
           else s
  let y := s.sys
  let y := { y with s1Change := y.s1Change || down || up, s1Rising := (y.s1Rising && !down) || up, changeAt := s.now
                    switch0 := y.switch0 || (clock && decide (s.d0.power = 2))
                    switch1 := !down && (y.switch1 || (clock && decide (s.d1.power = 2))) }
  { s with sys := y }

/-- COMMIT (R564 to R566): all or nothing; the pending words that it uses are checked (R577). -/
def execCommit (t : Nat) (s : State) : Out :=
  .next (s.when (s.sys.queue.head? == some .commit) fun s =>
    let s := (s.advance t).checkUses (s.sh.map (·.off))
    let changes := s.sh.any fun p => s.shChanges p
    if s.dev ≠ .stopped ∧ changes then s.popCmd 0x80 reasonState
    else if !s.offered s.pendingProfile then s.popCmd 0x80 reasonProfile
    else
      let old := s.profile
      let moved := s.sh.any fun p => p.off == rKlinkCoord && s.shChanges p
      let offs := s.sh.map (·.off)
      let s := { (s.sh.foldl (fun s p => s.takeSh p) s) with sh := [] }
      let s := s.mend fun b => b.pending || offs.contains b.off
      let s := s.when (decide (old ≠ s.profile)) fun s => s.changeProfile old
      (s.when moved fun s => s.checkCoord).popCmd 0x80 reasonDone)

/-- Every pending value dropped (R567). -/
def State.dropPending (s : State) : State := ({ s with sh := [] }).mend (·.pending)

/-- DISCARD (R567): GLB.COMMIT.DISCARD written with 1. -/
def execDiscard (s : State) : Out := .next (if s.host.d3 then s else s.dropPending)

/-! ### HALT_N (R52, R407, R475) -/

/-- The tick in progress abandoned, and STOPPED entered from RUNNING or HOLD (R52). -/
def State.haltNow (s : State) : State :=
  if s.dev = .running ∨ s.dev = .hold then
    let s := if s.tick.live then
        let s := s.stopWork
        if s.plan.record.isNone || s.rewritable then s.writeInvalid reasonHaltedRec else s
      else s
    s.leaveRunning .stopped
  else s

/-- HALT (R52): HALT_N is low, and once it has been for 1 µs the device halts. -/
def execHalt (p : HaltPulse) (s : State) : Out :=
  let s := (s.advance p.t).when (decide (1000 ≤ p.low)) fun s => s.haltNow
  .next { s with sys := { s.sys with haltLow := true } }

/-- HALT_N_RISE (R52). -/
def execHaltNRise (s : State) : Out := .next { s with sys := { s.sys with haltLow := false } }

/-! ### Clocks of a Stope die (CLKPWR.CLK_STATUS, ARITH, VOLT) -/

/-- Whether the device may change a core-rail setpoint (R594): in BOOT, READY and STOPPED, and during a profile change. -/
def State.mayMoveRail (s : State) : Bool :=
  s.dev == .boot || s.dev == .ready || s.dev == .stopped || s.sys.profileBusy

/-- A new setpoint of a die's core rail, which the spec gives only by its range (notes/assumptions/3.md), written to its
regulator; where none may be changed, the one that stands is kept (R594). -/
def State.moveRail (s : State) (d : Die) : State :=
  if s.mayMoveRail then
    let (f, s) := s.freeWord
    let mv := 650 + f.toNat % 201
    ({ s with power := match d with
        | .s0 => { s.power with mv0 := mv }
        | .s1 => { s.power with mv1 := mv } }).emit (.pmbus (0x60 + d.idx) mv)
  else s

/-- The arithmetic PLL of a die locked on the clock of the profile in force, and the setpoint of its core rail. -/
def State.lockDie (s : State) (d : Die) : State :=
  let p := s.power
  let bit_ := 2 ^ (5 + d.idx)
  let on := { p with clocks := if p.clocks / bit_ % 2 = 1 then p.clocks else p.clocks + bit_ }
  let mhz := profileMhz s.profile
  ({ s with power := match d with
      | .s0 => { on with mhz0 := mhz }
      | .s1 => { on with mhz1 := mhz } }).moveRail d

/-- A die without power: no lock and no clock; the setpoint of its rail stands. -/
def State.unlockDie (s : State) (d : Die) : State :=
  let p := s.power
  let bit_ := 2 ^ (5 + d.idx)
  let off := { p with clocks := if p.clocks / bit_ % 2 = 1 then p.clocks - bit_ else p.clocks }
  { s with power := match d with
      | .s0 => { off with mhz0 := 0 }
      | .s1 => { off with mhz1 := 0 } }

/-- SELF_REFRESH of a die's controller. -/
def State.selfRefresh (s : State) (d : Die) (on : Bool) : State := s.setField (rDmcStatus d) 1 1 (bnat on)

/-- A part of a profile change has ended; the last one fixes its duration (CLKPWR.SWITCH_US). -/
def State.changeEnds (s : State) : State :=
  s.when (!s.sys.profileBusy) fun s =>
    let us := (s.now - s.sys.changeAt) / 1000
    ({ s with sys := { s.sys with s1Rising := false } }).setField rClkpwrSwitchUs 15 0 (min 65535 us)

/-- A die without power has no part in a profile change: its isolation is complete and no clock of it switches (R59, R364);
the DRAM of S1 is held in self-refresh (R60). -/
def State.gatedDie (s : State) (d : Die) : State :=
  let y := s.sys
  let busy := y.profileBusy
  match d with
  | .s0 => ({ s with sys := { y with switch0 := false } }).when busy fun s => s.changeEnds
  | .s1 =>
    (({ s with sys := { y with s1Change := false, s1Rising := false, switch1 := false } }).when busy fun s =>
      s.changeEnds).selfRefresh .s1 true

end Sys2Proof.Machine
end

