-- ==== Sys2Proof/Machine/Markers.lean ====
section
/-! DEFINITION. Tick markers (R428 to R431) and the Deputy's watch on the boundaries (R476 cause TICK_TIMING). -/

namespace Sys2Proof.Machine
open Sys2Proof

/-- Hops of a tree from its root in the positive and negative direction of dimension `k` (R428). -/
def LinksCfg.reach (l : LinksCfg) (root k : Nat) : Nat × Nat :=
  let dim := l.dims.getD k 1
  if l.mesh.getD k false then
    let m := (l.coords root).getD k 0
    (dim - 1 - m, m)
  else (dim / 2, ceilDiv dim 2 - 1)

/-- This node's signed distance from the root of a tree in dimension `k` along it (R428). -/
def State.offRoot (s : State) (l : LinksCfg) (root k : Nat) : Int :=
  let dim := l.dims.getD k 1
  let m := (l.coords root).getD k 0
  let x := s.coords.getD k 0
  if l.mesh.getD k false then (x : Int) - m
  else
    let d := (x + dim - m % dim) % dim
    if d ≤ dim / 2 then d else (d : Int) - dim

/-- The ports on which this node passes on what comes along the tree from `root`, X before Y before Z (R428). -/
def State.portsFrom (s : State) (root : Nat) : List Nat :=
  match s.image.bind (·.links) with
  | none => []
  | some l =>
    let off := s.offRoot l root
    (List.range 3).flatMap fun k =>
      if (List.range 3).all fun j => decide (j ≤ k ∨ off j = 0) then
        let r := l.reach root k
        (if 0 ≤ off k ∧ off k < r.1 then [2 * k] else []) ++ (if off k ≤ 0 ∧ -(off k) < r.2 then [2 * k + 1] else [])
      else []

/-- The ports on which this node passes a marker on (R428). -/
def State.treePorts (s : State) : List Nat :=
  match s.image.bind (·.links) with
  | none => []
  | some l => s.portsFrom l.master

/-- The hops of this node from the master on the marker tree (KLINK.MARK.HOPS). -/
def State.treeHops (s : State) : Nat :=
  match s.image.bind (·.links) with
  | none => 0
  | some l => ((List.range 3).map fun k => (s.offRoot l l.master k).natAbs).foldl (· + ·) 0

/-- Whether this node is the tick master (R428). -/
def State.isMaster (s : State) : Bool :=
  match s.image.bind (·.links) with
  | none => false
  | some l => l.master == s.node

/-- Whether a port carries traffic. -/
def State.portOpen (s : State) (p : Nat) : Bool :=
  let q := s.kl.ports.getD p Port.idle
  q.up && !q.miswired

/-- The marker for boundary `b` of tick `k` sent at `t` on the links of the tree (R428, R429). -/
def State.sendMarks (s : State) (k b t : Nat) : State :=
  (s.treePorts.filter fun p => s.portOpen p).foldl (fun s p =>
    let wire := (s.kl.ports.getD p Port.idle).wire
    s.emit (.control p 5 [k % 65536, unsignedOf 24 ((b : Int) - t - wire)])) s

/-- A counted marker (R430, R431): the boundary at `b`, the slew, the record in KLINK.MARK, and the markers passed on. -/
def State.takeMark (s : State) (b arrival : Nat) : State :=
  let k := s.tick
  let e := k.expect
  let s := s.setReg rKlinkMark (packFields [(0, unsignedOf 16 ((b : Int) - e)), (16, s.treeHops % 256)])
  let s := { s with tick := { k with expect := b, seen := true, slew := k.slew + (e : Int) - b
                                     good := if k.seenLast ∨ !k.live then k.good else 0 } }
  (if k.seen then s else s.countGood).sendMarks k.next b arrival

/-- MARK (R18, R19, R429, R430): a marker that arrived at `arrival` with its tick number's low 16 bits and REMAIN. -/
def execMark (port tickLo remain arrival : Nat) (s : State) : Out :=
  let b := arrival + remain
  if 6 ≤ port then .fault .illFormed
  else .next (s.when (s.dev == .running && s.src == 2 && s.portOpen port) fun s =>
    let s := s.advance arrival
    if s.tick.awaitT0 ∧ b < s.tick.t0 then s
    else if tickLo % 65536 ≠ s.tick.next % 65536 then s.event rKlinkEvents 5 |>.irq 5
    else if s.tick.awaitT0 then
      s.when (decide (b < s.tick.t0 + 4 * s.period)) fun s =>
        let k := s.tick.next
        let s := { s with tick := { s.tick with awaitT0 := false, expect := b, seenLast := true, seen := false
                                                missed := 0, good := 0 } }
        (s.countGood).sendMarks k b arrival
    else if s.tick.expect ≤ b + s.tol ∧ b < s.tick.expect + s.tol then s.takeMark b arrival
    else (s.event rKlinkEvents 4).irq 5)

/-- MARKER_SEND (R428, R429): the master sends the marker for the next boundary LEAD_US before it. -/
def execMarkerSend (t : Nat) (s : State) : Out :=
  let lead := match s.image.bind (·.links) with | some l => l.leadUs * 1000 | none => 0
  .next (s.when (s.dev == .running && s.isMaster && bit (s.reg rTickCtrl) 5 && decide (s.src < 2) &&
      !s.tick.awaitT0 && decide (t + lead = s.tick.expect)) fun s =>
    (s.advance t).sendMarks s.tick.next s.tick.expect t)

/-- TICK_TIMING (R476): a boundary spacing off by more than 0.2 % + 2 µs on DEPCLK, or no boundary within 2P. -/
def execTickTiming (t spacing : Nat) (s : State) : Out :=
  let p := s.period
  let off := decide (p + 1000000 < 500 * ((spacing : Int) - p).natAbs)
  let none2P := s.tick.live && decide (s.tick.tk + 2 * p ≤ t)
  .next (s.when (s.dev == .running && (off || none2P)) fun s => (s.advance t).enterSafe causeTickTiming)

end Sys2Proof.Machine
end

