-- ==== Sys2Proof/Machine/Access.lean ====
section
/-! DEFINITION. Which BAR0 accesses the register interface performs, and how it records the others (R3, R538, R556 to
R559, R575). -/

namespace Sys2Proof.Machine
open Sys2Proof

/-- Codes of REGIF.ERR_STATUS. -/
def errSize : Nat := 1
/-- ALIGN. -/
def errAlign : Nat := 2
/-- UNMAPPED. -/
def errUnmapped : Nat := 3
/-- ABSENT. -/
def errAbsent : Nat := 4
/-- NOT_READY. -/
def errNotReady : Nat := 5
/-- LOCKED. -/
def errLocked : Nat := 6
/-- ALIAS. -/
def errAlias : Nat := 7

/-- The event bit of a code (REGIF.EVENTS). -/
def errEvent (code : Nat) : Nat := if code ≤ 2 then 0 else if code ≤ 5 then 1 else if code = 6 then 2 else 3

/-- An access recorded (R557): status, offset, count, event, vector 6. -/
def State.recordAccess (s : State) (code : Nat) (write : Bool) (size be ofs : Nat) : State :=
  let s := s.setReg rRegifErrStatus (packFields [(0, code), (4, bnat write), (5, size % 8), (8, be % 16)])
  let s := s.setReg rRegifErrAddr (BitVec.ofNat 32 (ofs % 0x4000000))
  ((s.count rRegifErrCount 1).event rRegifEvents (errEvent code)).irq 6

/-- Whether the block of a hub offset answers before READY: GLB, SEC, BIST and TALLY (R538). -/
def answersInBoot (o : Nat) : Bool := ([0, 8, 9, 10] : List Nat).contains (o / 0x10000)

/-- The code that refuses an access to a primary offset, 0 where it is performed (R3, R538, R559). -/
def State.accessCode (s : State) (o : Nat) : Nat :=
  if regionOf o = .die .s1 ∧ !s.hasS1 then errAbsent
  else if (findReg o).isNone then errUnmapped
  else if s.dev = .boot ∧ !answersInBoot o then errNotReady
  else 0

/-- A whole aligned 32-bit write to a register, performed as `f` where the register interface performs it. In D3hot the
function answers no memory request (R373). -/
def State.write32 (s : State) (o : Nat) (f : State → State) : State :=
  if s.host.d3 then s
  else
    let c := s.accessCode o
    if c = 0 then f s else s.recordAccess c true 3 15 o

end Sys2Proof.Machine
end

