-- ==== Sys2Proof/Machine/Haulage.lean ====
section
/-! DEFINITION. Haulage (R385 to R405, R295, R374): chains, descriptors, their checks and data movement, completion
rings, pause and stop, and the egress rings. A channel is named by its set index, 0 to 139; the internal channel c of
die d is named 140 + 32 d + c and moves its descriptors by the same commands (notes/assumptions/40.md). -/

namespace Sys2Proof.Machine
open Sys2Proof

/-! ### Channels and descriptors -/

/-- Whether an index names a host-side or an internal channel. -/
def isChannel (ch : Nat) : Bool := decide (ch < 204)

/-- The die of an internal channel. -/
def ixDie (ch : Nat) : Die := Die.ofIdx ((ch - 140) / 32)

/-- The number of an internal channel on its die. -/
def ixNum (ch : Nat) : Nat := (ch - 140) % 32

/-- The die an internal channel issues its operations from, none for a host-side channel on the hub. -/
def ixFrom (ch : Nat) : Option Die := if ch < 140 then none else some (ixDie ch)

/-- The chain in progress on a channel. -/
def State.chainOf (s : State) (ch : Nat) : Option Chain :=
  if ch < 140 then (s.chan ch).chain
  else ((s.die (ixDie ch)).ihaul.find? fun h => h.1 == ixNum ch).map fun h => h.2.2

/-- Whether a task runs the chain of an internal channel. -/
def State.ixByTask (s : State) (ch : Nat) : Bool :=
  decide (140 ≤ ch) && ((s.die (ixDie ch)).ihaul.any fun h => h.1 == ixNum ch && h.2.1)

/-- The chain of a channel replaced. -/
def State.setChain (s : State) (ch : Nat) (h : Chain) : State :=
  if ch < 140 then s.mapChan ch fun c => { c with chain := some h, cur := h.desc }
  else
    let d := ixDie ch
    let x := s.die d
    s.setDie d { x with ihaul := x.ihaul.map fun q => if q.1 = ixNum ch then (q.1, q.2.1, h) else q }

/-- A chain about to read its first descriptor. -/
def Chain.begin_ (addr : Nat) : Chain := ⟨addr, 0, .fetch, [], [], 0, 0, 0, 0, false, [], []⟩

/-- Address of the next descriptor (R387). -/
def Chain.next (h : Chain) : Nat := fieldU h.body 0 8 / 32 * 32
/-- END of NEXT. -/
def Chain.isEnd (h : Chain) : Bool := fieldU h.body 0 8 % 2 == 1
/-- SRC. -/
def Chain.src (h : Chain) : Nat := fieldU h.body 8 8
/-- DST. -/
def Chain.dst (h : Chain) : Nat := fieldU h.body 0x10 8
/-- LEN. -/
def Chain.len (h : Chain) : Nat := fieldU h.body 0x18 4
/-- A field of CTRL (R388). -/
def Chain.ctrl (h : Chain) (hi lo : Nat) : Nat := fieldU h.body 0x1C 4 / 2 ^ lo % 2 ^ (hi + 1 - lo)
/-- TAG. -/
def Chain.tag (h : Chain) : Nat := h.ctrl 31 16

/-- Planes of a de-interleave (R388). -/
def Chain.planes (h : Chain) : Nat := 2 ^ (h.ctrl 5 4 + 1)

/-- Entries of a scatter/gather list up to LAST (R389): none where LAST does not come within the entries, or a reserved
flag bit is set. -/
def sgList : List (List Byte) → Option (List (Nat × Nat))
  | [] => none
  | e :: es =>
    let flags := fieldU e 12 4
    if 2 ≤ flags then none
    else if flags = 1 then some [(fieldU e 0 8, fieldU e 8 4)]
    else (sgList es).map fun l => (fieldU e 0 8, fieldU e 8 4) :: l

/-- Whether the channel moves the descriptor's data to host memory (R385). -/
def toHost (ch : Nat) (h : Chain) : Bool :=
  (decide (128 ≤ ch ∧ ch < 136)) || (decide (136 ≤ ch ∧ ch < 140) && h.ctrl 1 1 == 1)

/-- The list of the descriptor's scatter/gather side. -/
def Chain.list (h : Chain) : Option (List (Nat × Nat)) := sgList (chunksOf 16 4096 h.sg)

/-- The regions of the side that may be a list: SRC, or the host side (R388). -/
def Chain.regions (h : Chain) (addr : Nat) : List (Nat × Nat) :=
  if h.ctrl 0 0 = 1 then h.list.getD [] else [(addr, h.len)]

/-- Regions of the source (R392). -/
def Chain.sources (ch : Nat) (h : Chain) : List (Nat × Nat) :=
  if toHost ch h then [(h.src, h.len)] else h.regions h.src

/-- Bytes the descriptor writes (R392). -/
def Chain.outLen (h : Chain) : Nat := if h.ctrl 3 2 = 2 then h.len / 8 else h.len

/-- A span of the device side with an address that fails the map (R342, R390): of another node, whose part and DRAM sizes this one
does not know, that of R340 and R341. Every area begins and ends at a multiple of 4 KiB. -/
def State.spanBad (s : State) (p : Nat × Nat) : Bool :=
  (pageSpans p.1 p.2).any fun q =>
    if nodeOf q.1 = s.node then s.spanStatus (localOf q.1) q.2 == 1 else (areaOf (localOf q.1) q.2).isNone

/-- The spans of the device side of a descriptor: what it reads, and what it writes. -/
def Chain.deviceSpans (ch : Nat) (h : Chain) : List (Nat × Nat) :=
  (if toHost ch h ∨ 140 ≤ ch then h.sources ch else []) ++
    (if 128 ≤ ch ∧ !toHost ch h then [(h.dst, h.outLen)] else [])

/-- The pages of a descriptor's device side that lie here, as local spans. -/
def State.deviceHere (s : State) (ch : Nat) (h : Chain) : List (Nat × Nat) :=
  (((h.deviceSpans ch).flatMap fun p => pageSpans p.1 p.2).filter fun p => nodeOf p.1 == s.node).map fun p => (localOf p.1, p.2)

/-- The checks of R390 in order: the status, 0 where all pass. `list` is the status with which the list of an internal channel was
read. -/
def State.checkDesc (s : State) (ch : Nat) (h : Chain) (list : Nat) : Nat :=
  let isIn := decide (ch < 128)
  let pv := decide (136 ≤ ch ∧ ch < 140)
  let sg := h.ctrl 0 0 == 1
  let rmode := h.ctrl 3 2
  let l := h.list
  let read := sg && list == 0
  let total := ((l.getD []).map fun e => e.2).foldl (· + ·) 0
  if h.ctrl 15 15 ≠ 0 ∨ rmode = 3 ∨ h.ctrl 5 4 = 3 ∨ h.ctrl 7 6 = 3 ∨ 5 ≤ h.ctrl 13 11 ∨ (h.ctrl 1 1 = 1 ∧ !pv) ∨
    (isIn ∧ h.dst ≠ 0) ∨ ((isIn ∨ toHost ch h) ∧ rmode ≠ 0) ∨ (read ∧ (l.isNone ∨ total ≠ h.len)) then 0xA
  else if h.src % 64 ≠ 0 ∨ h.dst % 64 ≠ 0 ∨ (read ∧ (l.getD []).any fun e => decide (e.1 % 64 ≠ 0 ∨ e.2 % 64 ≠ 0)) ∨
    h.len % 64 ≠ 0 ∨ (rmode = 1 ∧ h.len % (64 * h.planes) ≠ 0) ∨ (rmode = 2 ∧ h.len % 512 ≠ 0) ∨ h.len < 64 ∨
    16777216 < h.len then 9
  else if list ≠ 0 then list
  else if (h.deviceSpans ch).any fun p => s.spanBad p then 1
  else 0

/-! ### Completion (R399 to R401) -/

/-- The vector of a host-side channel (R383). -/
def chanVector (ch : Nat) : Nat := if ch < 128 then 16 + ch / 8 else if ch < 136 then 8 + (ch - 128) else 32 + (ch - 136)

/-- Records of a channel's completion ring. -/
def State.cringSize (s : State) (ch : Nat) : Nat := 2 ^ max 4 (min 16 (bits (s.reg (rHaulChCringSize ch)) 4 0))

/-- Whether the completion ring has room (R401). -/
def State.cringRoom (s : State) (ch : Nat) : Bool :=
  decide ((s.reg (rHaulChCringHead ch) - s.reg (rHaulChCringTail ch)).toNat ≠ s.cringSize ch)

/-- The 16 bytes of a completion record (R400). -/
def completionBytes (seq status tag bytes index flags : Nat) : List Byte :=
  leBytes 4 seq ++ leBytes 2 status ++ leBytes 2 tag ++ leBytes 4 bytes ++ leBytes 2 index ++ leBytes 2 flags

/-- A completion record written and the channel's vector raised. -/
def State.putRecord (s : State) (ch status tag bytes index flags : Nat) : State :=
  let seq := (s.reg (rHaulChCringHead ch) + 1).toNat
  let base := s.pair (rHaulChCringLo ch) (rHaulChCringHi ch)
  let s := s.setReg (rHaulChCringHead ch) (BitVec.ofNat 32 seq)
  let s := s.emit (.hostWrite (base + 16 * ((seq + 2 ^ 32 - 1) % 2 ^ 32 % s.cringSize ch))
    (completionBytes seq status tag bytes index flags) false)
  s.irq (chanVector ch)

/-- A pause reached (R400, R401, R404): its record, and CH_STATUS.PAUSED; on a full ring it waits. -/
def State.reachPause (s : State) (ch tag index : Nat) : State :=
  if s.cringRoom ch then
    (s.putRecord ch 0 tag 0 index 2).mapChan ch fun (c : Chan) => { c with paused := true, pausing := false }
  else ((s.event (rHaulChEvents ch) 2).event rHaulEvents 2).mapChan ch fun (c : Chan) => { c with pausing := true }

/-- A chain taken off its channel with its final status (HAUL.CH_STATUS, CH_BYTES, IHAUL.CH_STATUS, CH_BYTES). A pause asked for
while its last descriptor ran is reached then (R404); STOP wins over it (R405). -/
def State.dropChain (s : State) (ch : Nat) (h : Chain) (status : Nat) : State :=
  let pend := (s.chan ch).pausing && status != 0xC && s.host.up
  let bad := decide (status ≠ 0 ∧ status ≠ 0xC)
  let s := s.dropOps fun o => match o.issuer with | .channel c _ => c == ch | _ => false
  if ch < 140 then
    let s := s.mapChan ch fun (c : Chan) => { c with chain := none, stopping := false, pausing := false, paused := false
                                                     status := status, cur := h.desc }
    let s := s.setReg (rHaulChBytes ch) (BitVec.ofNat 32 (satNat 32 h.total))
    let s := s.when (decide (ch < 128)) fun s => s.mapStream ch fun (w : Stream) => { w with part := [], full := w.full && !w.held.isEmpty }
    let s := s.when bad fun s =>
      ((s.event rHaulEvents 0).setReg rHaulErrChan (BitVec.ofNat 32 ch)).event (rHaulChEvents ch) 5
    s.when pend fun s => s.reachPause ch 0 0
  else
    let d := ixDie ch
    let c := ixNum ch
    let x := s.die d
    let s := s.setDie d { x with ihaul := x.ihaul.filter fun q => q.1 != c }
    let s := s.setReg (rIhaulChStatus d c) (packFields [(4, status), (16, min 65535 (h.index + bnat (status == 0)))])
    let s := s.setReg (rIhaulChBytes d c) (BitVec.ofNat 32 (satNat 32 h.total))
    s.when bad fun s => (s.event (rIhaulEvents d) 0).setReg (rIhaulErrChan d) (BitVec.ofNat 32 c)

/-- What follows the last record of a chain's list: the chain's end, the pause, or the read of the next descriptor. -/
def State.afterRecords (s : State) (ch : Nat) (h : Chain) (last : Nat × Nat) : State :=
  if last.2 % 2 = 1 then s.dropChain ch h last.1
  else
    let on := { h with desc := h.next, index := h.index + 1, step := .fetch, body := [], sg := [], bytes := 0, fired := false
                       got := [], recs := [], status := 0 }
    let s := s.setChain ch on
    if last.2 / 2 % 2 = 1 then s.mapChan ch fun (c : Chan) => { c with paused := true, pausing := false }
    else s.when (decide (ch < 140)) fun s => s.emit (.hostRead on.desc 32)

/-- The completion records of a chain written while its ring has room; the channel waits on a full ring (R401). -/
def State.writeRecords (s : State) (ch : Nat) (h : Chain) (last : Nat × Nat) : List (Nat × Nat) → State
  | [] => s.afterRecords ch h last
  | r :: rs =>
    if s.cringRoom ch then
      (s.putRecord ch r.1 h.tag h.bytes (h.index % 65536) r.2).writeRecords ch h r rs
    else
      ((s.setChain ch { h with step := .record, recs := r :: rs }).event (rHaulChEvents ch) 2).event rHaulEvents 2

/-- A chain ended with a status (R390, R391, R405). -/
def State.endChain (s : State) (ch : Nat) (h : Chain) (status : Nat) : State :=
  if ch < 140 then s.writeRecords ch h (status, 1) [(status, 1)] else s.dropChain ch h status

/-- A descriptor that has moved its data and is complete (R399, R404, R405): a stop asked for ends the chain here, the last
descriptor's end ends it, a pause asked for is reached. -/
def State.finishDesc (s : State) (ch : Nat) (h : Chain) : State :=
  let h := { h with total := h.total + h.bytes }
  if 140 ≤ ch then (if h.isEnd then s.dropChain ch h 0 else s.afterRecords ch h (0, 0))
  else
    let c := s.chan ch
    let irq := h.ctrl 14 14 == 1
    let own := if irq then [(0, 0)] else []
    if c.stopping then s.writeRecords ch h (0xC, 1) (own ++ [(0xC, 1)])
    else if h.isEnd then s.writeRecords ch h (0, 1) [(0, 1)]
    else if c.pausing then s.writeRecords ch h (0, 2) (own ++ [(0, 2)])
    else s.writeRecords ch h (0, 0) own

/-! ### Data movement (R390, R392, R399) -/

/-- The rearrangement of R392. -/
def reshuffle (h : Chain) (bs : List Byte) : List Byte :=
  match h.ctrl 3 2 with
  | 1 =>
    let e := 2 ^ h.ctrl 7 6
    let els := chunksOf e (h.len / e) bs
    (List.range h.planes).flatMap fun p => ((els.zipIdx.filter fun q => q.2 % h.planes == p).flatMap fun q => q.1)
  | 2 =>
    let b := h.ctrl 10 8
    (chunksOf 8 (h.len / 8) bs).map fun g =>
      BitVec.ofNat 8 ((g.zipIdx.map fun q => bnat (q.1.getLsbD b) * 2 ^ q.2).foldl (· + ·) 0)
  | _ => bs

/-- The pieces of a list of regions with their offsets in the data. -/
def regionSpans : List (Nat × Nat) → Nat → List (Nat × Nat × Nat)
  | [], _ => []
  | (a, n) :: rs, o => ((pageSpans a n).map fun p => (p.1, p.2, o + (p.1 - a))) ++ regionSpans rs (o + n)

/-- Whether data writes carry Relaxed Ordering = 1 (R372). -/
def State.relaxed (s : State) : Bool := bit (s.reg rHostCtrl) 0 && s.host.cfg.relaxed

/-- The largest payload that the endpoint sends, in bytes (R371). -/
def State.payloadLimit (s : State) : Nat := min 512 s.host.cfg.maxPayload

/-- The largest read request that it sends, in bytes (R371). -/
def State.readLimit (s : State) : Nat := min 4096 s.host.cfg.maxRead

/-- Data written to host memory in requests of at most the payload size in force, of at most 512 bytes (R371, R372). -/
def State.sendHost (s : State) (a : Nat) (bs : List Byte) : State :=
  (spansOf s.payloadLimit a bs.length).foldl
    (fun s p => s.emit (.hostWrite p.1 ((bs.drop (p.1 - a)).take p.2) s.relaxed)) s

/-- Host memory read in requests of at most the read request size in force, of at most 4,096 bytes (R371). -/
def State.askHost (s : State) (a n : Nat) : State :=
  (spansOf s.readLimit a n).foldl (fun s p => s.emit (.hostRead p.1 p.2)) s

/-- Writes to host memory along a list of regions. -/
def State.writeHost (s : State) (bs : List Byte) : List (Nat × Nat) → State
  | [] => s
  | (a, n) :: rs => (s.sendHost a (bs.take n)).writeHost (bs.drop n) rs

/-- Writes to the device side in ascending pieces: the state, the first status other than DONE, and the number of
operations sent to other nodes, or with such a status the bytes moved before it. -/
def State.writeDevice (s : State) (ch : Nat) (bs : List Byte) : List (Nat × Nat × Nat) → Nat → State × Nat × Nat
  | [], k => (s, 0, k)
  | (a, n, o) :: ps, k =>
    let data := (bs.drop o).take n
    if nodeOf a = s.node then
      let (s, st) := if s.crossDown (ixFrom ch) (localOf a) n then (s, 6) else s.putHere (localOf a) data
      if st = 0 then s.writeDevice ch bs ps k else (s, st, o)
    else
      match s.issueRemote 1 (nodeOf a) a data (.channel ch o) with
      | (s, none) => s.writeDevice ch bs ps (k + 1)
      | (s, some st) => (s, st, o)

/-- Reads from the device side: the state, the first status other than DONE, the pieces read here with their offsets, and
the number of operations sent to other nodes. `fault` is what the reads of the first piece here met (R346, R353, R354). -/
def State.readDevice (s : State) (ch fault : Nat) :
    List (Nat × Nat × Nat) → List (Nat × List Byte) → Nat → State × Nat × List (Nat × List Byte) × Nat
  | [], got, k => (s, 0, got, k)
  | (a, n, o) :: ps, got, k =>
    if nodeOf a = s.node then
      let (s, st, bs) := if s.crossDown (ixFrom ch) (localOf a) n then (s, 6, []) else s.getFaulty (localOf a) n fault
      let s := s.when (decide (140 ≤ ch ∧ 4 ≤ fault)) fun s => s.event (rIhaulEvents (ixDie ch)) 1
      if st = 0 then s.readDevice ch 0 ps (got ++ [(o, bs)]) k else (s, st, got, k)
    else
      match s.issueSized 2 (nodeOf a) a n [] (.channel ch o) with
      | (s, none) => s.readDevice ch fault ps got (k + 1)
      | (s, some st) => (s, st, got, k)

/-- The pieces in which a descriptor writes the device side, each with its offset in the data. -/
def Chain.outPieces (h : Chain) : List (Nat × Nat × Nat) := regionSpans [(h.dst, h.outLen)] 0

/-- Bytes of a descriptor written at this device. -/
def State.writtenHere (s : State) (h : Chain) : Nat :=
  ((h.outPieces.filter fun p => nodeOf p.1 == s.node).map fun p => p.2.1).foldl (· + ·) 0

/-- Bytes of the piece at an offset of a descriptor's data. -/
def Chain.pieceLen (h : Chain) (ofs : Nat) : Nat := ((h.outPieces.find? fun p => p.2.2 == ofs).map fun p => p.2.1).getD 0

/-- The data of a descriptor written to its destination (R392, R399); while writes to other nodes are outstanding, BYTES counts
those that have moved (R400). -/
def State.moveOut (s : State) (ch : Nat) (h : Chain) (stream : List Byte) : State :=
  let out := reshuffle h stream
  if toHost ch h then
    let regions := h.regions h.dst
    let s := s.writeHost out regions
    let last := match (regions.filter fun r => r.2 != 0).getLast? with | some r => r.1 + r.2 - 4 | none => h.dst
    (s.emit (.hostRead last 4)).setChain ch { h with bytes := h.len, step := .flush, last := last }
  else
    let (s, st, k) := s.writeDevice ch out h.outPieces 0
    if st ≠ 0 then s.endChain ch { h with bytes := k, total := h.total + k } st
    else
    if k = 0 then s.finishDesc ch { h with bytes := h.len }
    else s.setChain ch { h with step := .writing, bytes := s.writtenHere h }

/-- The pieces of a descriptor's data in order. -/
def joinPieces (got : List (Nat × List Byte)) : List Byte :=
  (sortBy (fun (a b : Nat × List Byte) => decide (a.1 ≤ b.1)) got).flatMap fun p => p.2

/-- An operation of a channel on another node completed (R350, R352): the descriptor goes on once none is outstanding. -/
def State.chanResponse (s : State) (ch ofs status : Nat) (data : List Byte) : State :=
  match s.chainOf ch with
  | none => s
  | some h =>
    let h := { h with status := if h.status = 0 then status else h.status
                      got := if h.step = .reading then h.got ++ [(ofs, data)] else h.got
                      bytes := if h.step = .writing ∧ status = 0 then h.bytes + h.pieceLen ofs else h.bytes }
    let open_ := s.kl.ops.any fun o => match o.issuer with | .channel c _ => c == ch | _ => false
    if open_ then s.setChain ch h
    else if h.status ≠ 0 then s.endChain ch { h with total := h.total + h.bytes } h.status
    else match h.step with
      | .reading => s.moveOut ch h (joinPieces h.got)
      | .writing => s.finishDesc ch { h with bytes := h.len }
      | _ => s.setChain ch h

/-! ### The commands -/

/-- A doorbell (R393). -/
def State.ringDoorbell (s : State) (ch : Nat) (lo : Word) : State :=
  if lo.toNat % 32 ≠ 0 then s.event (rHaulChEvents ch) 0
  else if 16 ≤ (s.chan ch).queue.length then (s.event (rHaulChEvents ch) 1).event rHaulEvents 3
  else
    let a := lo.toNat + 4294967296 * (s.reg (rHaulChDescHi ch)).toNat
    s.mapChan ch fun (c : Chan) => { c with queue := c.queue ++ [a] }

/-- DOORBELL (R393). -/
def execDoorbell (ch : Nat) (lo : Word) (s : State) : Out :=
  whenNamed (ch < 140) (s.write32 (rHaulChDoorbell ch) fun s => s.ringDoorbell ch lo)

/-- CHAIN_START (R393): the next queued chain, once none is in progress; a channel in ring mode runs none. -/
def execChainStart (ch : Nat) (s : State) : Out :=
  whenNamed (ch < 140)
    (let c := s.chan ch
     match c.chain, c.queue with
     | none, a :: rest =>
       s.when (!c.paused && !c.pausing && !s.ringMode ch && s.host.up) fun s =>
         let s := s.mapChan ch fun (c : Chan) => { c with queue := rest, chain := some (Chain.begin_ a), cur := a }
         let s := s.setReg (rHaulChBytes ch) 0
         let s := s.when (decide (ch < 128)) fun s => s.mapStream ch fun (w : Stream) =>
           { w with chain := w.chain + 1, skip := none, part := [] }
         s.emit (.hostRead a 32)
     | _, _ => s)

/-- Whether a checked descriptor of a host-side channel may start now (R89, R395 to R397). -/
def State.mayStart (s : State) (ch : Nat) (h : Chain) : Bool :=
  let run := s.dev == .running
  let ingestOk := !decide (ch < 128) ||
    ((decide (h.index ≠ 0) || run || s.dev == .hold) && !(s.world.streams.getD ch Stream.idle).full)
  let triggerOk := !run || h.ctrl 13 11 == 0 || h.fired
  let paceOk := !(run && decide (136 ≤ ch ∧ ch < 140) && decide (s.host.pace ≠ 0)) || !s.host.pvDone ||
    decide (s.host.spent + h.len ≤ s.host.pace * 1024)
  ingestOk && triggerOk && paceOk

/-! ### The share of the link (R398) -/

/-- The class of a host-side channel on the link. -/
def State.linkClass (s : State) (ch : Nat) : Nat :=
  if ch < 128 then 1 else if 136 ≤ ch then 3 else if s.ringMode ch then 0 else 2

/-- The rank of a channel on the link: its class, then one that lost and has not been served, then the set index. -/
def State.linkRank (s : State) (ch : Nat) : Nat :=
  (s.linkClass ch * 2 + bnat (!s.host.losers.contains ch)) * 256 + ch

/-- Whether a channel asks for the link: a record to hand over, or a descriptor that is held and may start. -/
def State.asksLink (s : State) (ch : Nat) : Bool :=
  let c := s.chan ch
  (decide (128 ≤ ch ∧ ch < 136) && !c.feeds.isEmpty && c.sending.isNone) ||
    (match c.chain with | some h => h.step == .held && s.mayStart ch h | none => false)

/-- Whether another channel that asks for the link ranks before a channel. -/
def State.linkTaken (s : State) (ch : Nat) : Bool :=
  (List.range 140).any fun g => g != ch && s.asksLink g && decide (s.linkRank g < s.linkRank ch)

/-- A channel that loses the link. -/
def State.loseLink (s : State) (ch : Nat) : State :=
  { s with host := { s.host with losers := s.host.losers.filter (· != ch) ++ [ch] } }

/-- A channel served by the link; every other one that asks has lost (R398). -/
def State.winLink (s : State) (ch : Nat) : State :=
  let lost := (List.range 140).filter fun g => g != ch && s.asksLink g && !s.host.losers.contains g
  { s with host := { s.host with losers := s.host.losers.filter (· != ch) ++ lost } }

/-- A descriptor started: the PV allowance is drawn on (R397), and host data is asked for. -/
def State.startDesc (s : State) (ch : Nat) (h : Chain) : State :=
  let s := s.setChain ch { h with step := .moving }
  if 140 ≤ ch then s
  else
    let s := s.when (s.dev == .running && decide (136 ≤ ch) && s.host.pace != 0) fun s =>
      let n := s.host.spent + h.len
      ({ s with host := { s.host with pvDone := true, spent := n } }).setField rHostPaceUsed 15 0 (min 65535 (ceilDiv n 1024))
    if toHost ch h then s else (h.regions h.src).foldl (fun s r => s.askHost r.1 r.2) s

/-- The buffer references of a descriptor that Overman dispatched resolved (R334), in NEXT, SRC and DST: none where a buffer
is not allocated. -/
def State.resolveDesc (s : State) (d : Die) (body : List Byte) : Option (List Byte) :=
  let fix := fun a => (s.resolve d (a % 2 ^ 48)).map fun l => a / 2 ^ 48 * 2 ^ 48 + l
  let next := fieldU body 0 8
  match (if next % 2 = 1 then some next else fix next), fix (fieldU body 8 8), fix (fieldU body 0x10 8) with
  | some n, some a, some b => some (leBytes 8 n ++ leBytes 8 a ++ leBytes 8 b ++ body.drop 0x18)
  | _, _, _ => none

/-- A scatter/gather list read from the local map entry by entry, up to LAST or a reserved flag bit and at most `k` entries (R386,
R389): the first status other than DONE, and the bytes. -/
def State.readList (s : State) (a : Nat) : Nat → List Byte → Nat × List Byte
  | 0, bs => (0, bs)
  | k + 1, bs =>
    let st := s.spanStatus a 16
    if st ≠ 0 then (st, [])
    else
      let e := s.readSpan a 16
      if fieldU e 12 4 ≠ 0 then (0, bs ++ e) else s.readList (a + 16) k (bs ++ e)

/-- The entry of a list in the local map at which its read waits for the front of a DRAM's initialisation (R359), none where it
reaches the end. -/
def State.listWait (s : State) (a : Nat) : Nat → List (Nat × Nat)
  | 0 => []
  | k + 1 =>
    if s.stalls a 16 then [(a, 16)]
    else if s.spanStatus a 16 ≠ 0 ∨ fieldU (s.readSpan a 16) 12 4 ≠ 0 then []
    else s.listWait (a + 16) k

/-- What the list of an internal channel's descriptor waits for. -/
def State.fetchWait (s : State) (h : Chain) : List (Nat × Nat) :=
  if h.ctrl 0 0 = 1 then s.listWait (localOf h.src) 4096 else []

/-- The list of an internal channel's descriptor: status and bytes. -/
def State.fetchList (s : State) (h : Chain) : Nat × List Byte :=
  if h.ctrl 0 0 = 1 then s.readList (localOf h.src) 4096 [] else (0, [])

/-- The scatter/gather list of a host-side descriptor asked for in host memory (R386): the entries up to LAST. -/
def State.askList (s : State) (ch : Nat) (h : Chain) : State :=
  s.when (h.ctrl 0 0 == 1) fun s =>
    s.askHost (if toHost ch h then h.dst else h.src) (match h.list with | some l => 16 * l.length | none => 65536)

/-- A descriptor that has been read, with its list: it ends the chain, starts, or is held (R390, R395 to R397). Host-side channels
share the link (R398). -/
def State.judgeDesc (s : State) (ch : Nat) (h : Chain) (list : Nat) : State :=
  let st := s.checkDesc ch h list
  if st ≠ 0 then s.endChain ch h st
  else if !s.mayStart ch h then s.setChain ch { h with step := .held }
  else if 140 ≤ ch then s.startDesc ch h
  else if s.linkTaken ch then (s.setChain ch { h with step := .held }).loseLink ch
  else (s.winLink ch).startDesc ch h

/-- The first descriptor of a task's chain is the copy that Overman handed to the channel (R334). -/
def State.handedDesc (s : State) (ch : Nat) (h : Chain) : Bool := h.index == 0 && s.ixByTask ch && !h.body.isEmpty

/-- A descriptor of an internal channel with its list, read once the front of initialisation has passed it (R359, R386). -/
def State.judgeInternal (s : State) (ch : Nat) (h : Chain) : State :=
  s.afterFront (s.fetchWait h) fun s =>
    let (st, list) := s.fetchList h
    s.judgeDesc ch { h with sg := list } st

/-- The descriptor of an internal channel, read from its die's local map unless Overman handed it over, and its list (R334, R359,
R386). -/
def State.fetchInternal (s : State) (ch : Nat) (h : Chain) : State :=
  if s.handedDesc ch h then s.judgeInternal ch h
  else s.afterFront [(h.desc, 32)] fun s =>
    let (s, st, body) := s.getHere h.desc 32
    if st ≠ 0 then s.endChain ch h st else s.judgeInternal ch { h with body := body }

/-- DESCRIPTOR_START (R386 to R390, R395 to R398): a descriptor read from host memory, with its list, is checked, and starts or is
held; a held one starts once its conditions hold. Internal channels read theirs from the local map. -/
def execDescriptorStart (ch : Nat) (desc sg : List Byte) (s : State) : Out :=
  whenNamed (isChannel ch)
    (match s.chainOf ch with
     | none => s
     | some h =>
       match h.step with
       | .held => s.when (s.mayStart ch h) fun s =>
           if ch < 140 ∧ s.linkTaken ch then s.loseLink ch
           else (s.when (decide (ch < 140)) fun s => s.winLink ch).startDesc ch h
       | .fetch =>
         if ch < 140 then
           s.when (!(s.chan ch).paused && !(s.chan ch).pausing) fun s =>
             let h := { h with body := padTo 32 desc, sg := sg }
             (s.askList ch h).judgeDesc ch h 0
         else s.fetchInternal ch h
       | _ => s)

/-- The data of an ingest descriptor given to the World block (R80, R89): the items that it completes arrive now, unless
one finds no room in the staging area; the descriptor does not complete then, and its channel is held until a commit frees
some. -/
def State.takeData (s : State) (ch : Nat) (h : Chain) (data : List Byte) : State :=
  let (its, part) := s.newItems ch s.now (padTo h.len data)
  if s.roomFor ch its then
    (s.mapStream ch fun (w : Stream) => { w with inbox := w.inbox ++ its, part := part }).finishDesc ch
      { h with bytes := h.len }
  else (s.event rWorldEvents 5).mapStream ch fun (w : Stream) => { w with full := true }

/-- DESCRIPTOR_COMPLETE (R80, R89, R359, R392, R395, R399): the descriptor's data moves, as `Moved` tells. -/
def execDescriptorComplete (ch : Nat) (x : Moved) (s : State) : Out :=
  whenNamed (isChannel ch)
    (match s.chainOf ch with
     | none => s
     | some h =>
       s.when (h.step == .moving && !s.fenced ch && !(decide (ch < 128) && (s.world.streams.getD ch Stream.idle).full))
         fun s =>
         let s := (s.advance x.t).contendAll x.ports
         s.afterFront (s.deviceHere ch h) fun s =>
         if ch < 128 then s.takeData ch h x.data
         else if toHost ch h ∨ 140 ≤ ch then
           let (s, st, got, k) := s.readDevice ch x.fault (regionSpans (h.sources ch) 0) [] 0
           if st ≠ 0 then s.endChain ch h st
           else if k = 0 then s.moveOut ch h (joinPieces got)
           else s.setChain ch { h with step := .reading, got := got }
         else s.moveOut ch h (padTo h.len x.data))

/-! ### Egress rings (R295, R402, R403) -/

/-- A ring-mode record dropped (R403). -/
def State.dropRecord (s : State) (ch : Nat) (f : Feed) : State :=
  let s := ((s.count (rHaulChDrop ch) 1).event rHaulEvents 1).event (rHaulChEvents ch) 3
  s.when (f.kind = 1) fun s => s.count (rHeapTraceDrop (Die.ofIdx (fieldU f.bytes 8 1))) 1

/-- RING_RECORD (R295, R403): the oldest device-fed record handed to its egress channel, and delivered or dropped; the record
of the tick in progress meets its deadline then (R31). -/
def State.handRecord (s : State) (ch : Nat) (f : Feed) : State :=
  let geom := s.egGeom (ch - 128)
  let slots := bits geom 15 0
  let size := 64 * bits geom 23 16
  let head := s.reg (rHaulChRingHead ch)
  let used := (head - s.reg (rHaulChRingTail ch)).toNat
  let need := if size = 0 then slots + 1 else ceilDiv f.bytes.length size
  let s := s.when (f.kind = 0 && s.plan.record == some f.bytes) fun s => { s with plan := { s.plan with handed := true } }
  if s.host.up ∧ slots ≠ 0 ∧ need + used ≤ slots ∧ s.cringRoom ch then
    let slot := head.toNat % slots
    let base := s.pair (rHaulEgBaseLo (ch - 128)) (rHaulEgBaseHi (ch - 128))
    let first := min f.bytes.length (size * (slots - slot))
    let s := s.sendHost (base + size * slot) (f.bytes.take first)
    let rest := f.bytes.drop first
    let s := s.sendHost base rest
    let last := (if rest.isEmpty then base + size * slot + f.bytes.length else base + rest.length) - 4
    let s := (s.emit (.hostRead last 4)).setReg (rHaulChRingHead ch) (head + BitVec.ofNat 32 need)
    s.mapChan ch fun (c : Chan) => { c with sending := some (f, head.toNat % 65536) }
  else s.dropRecord ch f

/-- RING_RECORD (R295, R403). DESIGN CHOICE (notes/assumptions/116.md): while the flush read of a record is outstanding the
channel takes no further one; R295, R402 and R403 do not say whether it may. -/
def execRingRecord (ch : Nat) (s : State) : Out :=
  whenNamed (decide (128 ≤ ch ∧ ch < 136))
    (let c := s.chan ch
     match c.feeds, c.sending with
     | f :: rest, none =>
       if s.linkTaken ch then s.loseLink ch
       else ((s.winLink ch).mapChan ch fun (c : Chan) => { c with feeds := rest }).handRecord ch f
     | _, _ => s)

/-- The record deadline of the tick of a plan record (R31): its TAU0 is T_k + O (R132). -/
def State.deadlineOf (s : State) (rec_ : List Byte) : Nat :=
  let o := s.img (·.rollout.planOfsUs) * 1000
  fieldU rec_ 8 8 - o + s.phaseAt 5 + 10000

/-- A delivered ring-mode record completes (R295, R399, R400). -/
def State.delivered (s : State) (ch : Nat) (f : Feed) (slot status : Nat) : State :=
  let s := s.mapChan ch fun (c : Chan) => { c with sending := none, status := status }
  let s := s.when (f.kind = 0 && decide (s.deadlineOf f.bytes < s.now)) fun s => s.event rTickEvents 12
  let s := s.putRecord ch status f.kind f.bytes.length slot 0
  s.when (f.kind = 0) fun s => s.irq 2

/-- FLUSH_READ_RETURN (R295, R399, R401). -/
def execFlushReadReturn (ch t : Nat) (s : State) : Out :=
  whenNamed (ch < 140)
    (let s := s.advance t
     match (s.chan ch).sending with
     | some (f, slot) => s.delivered ch f slot 0
     | none =>
       match (s.chan ch).chain with
       | some h => s.when (h.step = .flush) fun s => s.finishDesc ch h
       | none => s)

/-- Completion records, and a pause, that waited on a full ring, written as TAIL moves (R401). -/
def State.retryRecords (s : State) (ch : Nat) : State :=
  let c := s.chan ch
  match c.chain with
  | some h =>
    if h.step = .record then s.writeRecords ch h (0, 0) h.recs
    else s.when (c.pausing && h.step == .fetch && s.cringRoom ch) fun s => s.reachPause ch h.tag (h.index % 65536)
  | none => s.when (c.pausing && s.cringRoom ch) fun s => s.reachPause ch 0 0

/-! ### Host memory failures (R374) -/

/-- An error reported in the AER capability: a bit of its Uncorrectable Error Status register (R374). -/
def State.reportAer (s : State) (n : Nat) : State :=
  { s with host := { s.host with cfg := { s.host.cfg with aerStatus := s.host.cfg.aerStatus ||| BitVec.ofNat 32 (2 ^ n) } } }

/-- A device read that failed ends what waits for it with HOST_ERR. -/
def State.hostFailed (s : State) (ch : Nat) : State :=
  match (s.chan ch).sending with
  | some (f, slot) => s.delivered ch f slot 0xB
  | none =>
    match (s.chan ch).chain with
    | some h => s.endChain ch h 0xB
    | none => s

/-- Whether a device read of the channel is outstanding: a descriptor fetch, host data, a flush read. -/
def State.hostReading (s : State) (ch : Nat) : Bool :=
  (s.chan ch).sending.isSome || (match (s.chan ch).chain with
    | some h => (h.step == .fetch && !(s.chan ch).paused) || h.step == .flush || (h.step == .moving && !toHost ch h)
    | none => false)

/-- CPL_TIMEOUT (R374). -/
def execCplTimeout (ch : Nat) (s : State) : Out :=
  whenNamed (ch < 140) (s.when (s.hostReading ch) fun s => ((s.event rHostEvents 4).reportAer 14).hostFailed ch)

/-- Bit of the Uncorrectable Error Status register for a completion: EP = 1 (1), UR (2) or CA (3) (R374;
notes/assumptions/112.md). -/
def completionAer (kind : Nat) : Nat := if kind = 1 then 12 else if kind = 2 then 20 else 15

/-- HOST_READ_COMPLETION (R374): a completion with EP = 1, UR or CA (`kind` 1 to 3) ends the chain; a good one (0) carries
data that DESCRIPTOR_START, DESCRIPTOR_COMPLETE or FLUSH_READ_RETURN takes. -/
def execHostReadCompletion (ch kind : Nat) (s : State) : Out :=
  whenNamed (decide (ch < 140) && decide (kind < 4))
    (s.when (kind != 0 && s.hostReading ch) fun s => (s.reportAer (completionAer kind)).hostFailed ch)

/-- POISON_RX (R374). -/
def execPoisonRx (s : State) : Out := .next ((s.event rHostEvents 3).reportAer 12)

/-! ### Pause, resume, stop, ring size (R400, R404, R405) -/

/-- PAUSE (R404): at the descriptor boundary where the channel stands, or at the next; a channel that waits on a full ring
pauses once its records are written. -/
def State.pauseChan (s : State) (ch : Nat) : State :=
  let c := s.chan ch
  if c.paused ∨ c.stopping ∨ c.pausing then s
  else match c.chain with
    | some h =>
      if h.step = .fetch then s.reachPause ch h.tag (h.index % 65536)
      else if h.step = .record ∧ !h.recs.any fun r => decide (r.2 ≠ 0) then
        s.mapChan ch fun (c : Chan) => { c with chain := some { h with recs := h.recs ++ [(0, 2)] } }
      else s.mapChan ch fun (c : Chan) => { c with pausing := true }
    | none => s.reachPause ch 0 0

/-- RESUME (R404): the chain continues from the next descriptor. -/
def State.resumeChan (s : State) (ch : Nat) : State :=
  let c := s.chan ch
  let s := s.mapChan ch fun (c : Chan) => { c with paused := false, pausing := false }
  match c.chain with
  | some h => s.when (c.paused && h.step == .fetch) fun s => s.emit (.hostRead h.desc 32)
  | none => s

/-- STOP (R405): at once where no data moves, else at the end of the descriptor; the record of a stop joins those that wait
on a full ring, over a pause. -/
def State.stopChan (s : State) (ch : Nat) : State :=
  match (s.chan ch).chain with
  | none => s
  | some h =>
    let waits := decide (ch < 128) && (s.world.streams.getD ch Stream.idle).full
    if h.step = .fetch ∨ h.step = .held ∨ (h.step = .moving ∧ waits) then s.endChain ch h 0xC
    else if h.step = .record then
      s.when (!h.recs.any fun r => r.2 % 2 == 1) fun s =>
        s.mapChan ch fun (c : Chan) =>
          { c with chain := some { h with recs := h.recs.filter (fun r => r.2 == 0) ++ [(0xC, 1)] } }
    else s.mapChan ch fun (c : Chan) => { c with stopping := true, pausing := false }

/-- The pulses of HAUL.CH_CTRL: STOP wins over PAUSE (R405). -/
def State.chanCtrl (s : State) (ch : Nat) (v : Word) : State :=
  let s := s.when (bit v 1) fun s => s.resumeChan ch
  if bit v 2 then s.stopChan ch else s.when (bit v 0) fun s => s.pauseChan ch

/-- CH_PAUSE (R404). -/
def execChPause (ch : Nat) (s : State) : Out :=
  whenNamed (ch < 140) (s.write32 (rHaulChCtrl ch) fun s => s.chanCtrl ch 1)

/-- CH_RESUME (R404). -/
def execChResume (ch : Nat) (s : State) : Out :=
  whenNamed (ch < 140) (s.write32 (rHaulChCtrl ch) fun s => s.chanCtrl ch 2)

/-- CH_STOP (R405). -/
def execChStop (ch : Nat) (s : State) : Out :=
  whenNamed (ch < 140) (s.write32 (rHaulChCtrl ch) fun s => s.chanCtrl ch 4)

/-- A write of CH_CRING_SIZE (R400): refused while a chain is in progress. It empties the ring: a record that waited on a full
one is written (R401). -/
def State.setCring (s : State) (ch : Nat) (v : Word) : State :=
  if (s.chan ch).chain.isSome then s.event (rHaulChEvents ch) 4
  else
    let s := s.rewrite (rHaulChCringSize ch) (BitVec.ofNat 32 (max 4 (min 16 (bits v 4 0))))
    ((s.setReg (rHaulChCringHead ch) 0).rewrite (rHaulChCringTail ch) 0).retryRecords ch

/-- CH_CRING_SIZE (R400). -/
def execChCringSize (ch : Nat) (v : Word) (s : State) : Out :=
  whenNamed (ch < 140) (s.write32 (rHaulChCringSize ch) fun s => s.setCring ch v)

end Sys2Proof.Machine
end

