-- ==== Sys2Proof/Machine/Select.lean ====
section
/-! DEFINITION. The Select engines (06_merit_select): descriptors handed to an engine, the operations MERIT, COMPACT, TOPK
and KEYINS, their result records, and software issue. -/

namespace Sys2Proof.Machine
open Sys2Proof

/-! ### Descriptors -/

/-- Length of a span readable in the local map. -/
def State.mapped (s : State) (a n : Nat) : Bool := s.spanStatus a n == 0

/-- The input lists of a descriptor: one, or those of its list table (R238). A table outside the die's Gallery is not read,
and the descriptor is refused with ADDR for it (R239). -/
def State.selLists (s : State) (d : Die) (x : SelDesc) : List Span :=
  if x.op = 3 ∧ 1 < x.nLists then
    if inGallery d (x.src, 16 * x.nLists) then listTable (s.load x.src (16 * x.nLists)) x.nLists
    else [(x.src, x.count)]
  else [(x.src, x.count)]

/-- A field of a dispatched descriptor with its buffer reference resolved (R334). -/
def State.resolveField (s : State) (d : Die) (a : Nat) : Option Nat :=
  (s.resolve d (localOf a)).map fun l => a / 2 ^ 48 * 2 ^ 48 + l

/-- The copy of a descriptor that Overman hands to the engine (R334). -/
def State.resolveSel (s : State) (d : Die) (x : SelDesc) : Option SelDesc :=
  match s.resolveField d x.src, s.resolveField d x.src2, s.resolveField d x.src3, s.resolveField d x.dst,
    s.resolveField d x.result with
  | some a, some b, some c, some e, some r => some { x with src := a, src2 := b, src3 := c, dst := e, result := r }
  | _, _, _, _, _ => none

/-! ### Results (R240, R241) -/

/-- An operation ended: the result record where RESULT lies in the die's Gallery, the engine's register set, its SEQ. -/
def State.endSel (s : State) (d : Die) (w : SelWork) (r : SelResult) : State :=
  let e := w.engine
  let s := s.when (inGallery d (w.desc.result, 32)) fun s => s.store w.desc.result (encodeSelResult r)
  let seq := (bits (s.reg (rSelEStatus d e)) 31 24 + 1) % 256
  let s := s.setReg (rSelEStatus d e)
    (packFields [(1, w.desc.op % 8), (8, r.status % 16), (16, r.flags % 8), (24, seq)])
  let s := s.setReg (rSelEValid d e) (BitVec.ofNat 32 r.valid)
  let s := s.setReg (rSelEKth d e) (BitVec.ofNat 32 r.kth)
  let s := s.setReg (rSelETieTotal d e) (BitVec.ofNat 32 r.tieTotal)
  let s := s.setReg (rSelETieKept d e) (BitVec.ofNat 32 r.tieKept)
  let s := s.setReg (rSelEDups d e) (BitVec.ofNat 32 r.dups)
  let s := s.setReg (rSelEMismatches d e) (BitVec.ofNat 32 r.mismatches)
  let s := s.setReg (rSelECycles d e) (BitVec.ofNat 32 r.cycles)
  let s := s.setReg (rSelOps d) (BitVec.ofNat 32 (min 65535 (bits (s.reg (rSelOps d)) 15 0 + 1)))
  let s := s.count (rSelStall d) w.stall
  let x := s.die d
  s.setDie d { x with sel := x.sel.filter fun q => q.engine != e }

/-- An operation refused or stopped with a status: nothing else of it is performed (R239, R241). VALID counts the chains that a
KEYINS has issued (R240); its CYCLES, and the address in GAL.UE_ADDR, are free values (notes/assumptions/41.md, 3.md). -/
def State.stopSel (s : State) (d : Die) (w : SelWork) (status : Nat) : State :=
  let (c, s) := s.freeWord
  let s := s.endSel d w { SelResult.stopped status c.toNat with valid := w.chains }
  if status = 5 then
    let (a, s) := s.freeWord
    let s := (s.event (rSelEvents d) 4).event (rGalEvents d) 1
    let s := s.setReg (rGalUeAddr d) (a &&& 0x3FFFFFF#32)
    let s := s.log warn 0x0320 (tallySource (d.idx + 1) 4 w.engine) (leBytes 1 w.engine)
    s.when (s.dev == .running && s.tick.live && !w.sw) fun s => s.invalid reasonSelFault
  else s.event (rSelEvents d) 3

/-- A descriptor handed to a Select engine: one whose OP is not in the table is refused at once (R239), the others are
performed by their operation's command. -/
def State.startSel (s : State) (d : Die) (e : Nat) (x : SelDesc) (sw : Bool) : State :=
  let w : SelWork := ⟨e, x, sw, false, 0, 0, 0, []⟩
  let s := s.setField (rSelEStatus d e) 3 1 x.op
  if x.op = 0 ∨ 4 < x.op then s.stopSel d w 4
  else
    let y := s.die d
    s.setDie d { y with sel := y.sel ++ [w] }

/-! ### Trace records (R296) -/

/-- A trace record: header and elements, padded to 64 B. -/
def traceBytes (tick die kind : Nat) (es : List Element) : List Byte :=
  let body := es.flatMap (encodeElement false)
  padTo 64 (leBytes 8 tick ++ leBytes 1 die ++ leBytes 1 kind ++ [0, 0] ++ leBytes 4 es.length) ++
    padTo (64 * ceilDiv body.length 64) body

/-- A trace record given to the egress channel that HEAP.TRACE_CTRL names. DESIGN CHOICE (notes/assumptions/128.md): one of an
operation of software, which no tick holds, names the last tick. -/
def State.trace (s : State) (d : Die) (kind : Nat) (es : List Element) : State :=
  let c := s.reg (rHeapTraceCtrl d)
  s.when (bit c 0 && (kind == 2 || bit c 4)) fun s =>
    s.mapChan (128 + bits c 3 1) fun (q : Chan) =>
      { q with feeds := q.feeds ++ [⟨1, traceBytes s.tick.num d.idx kind es⟩] }

/-! ### The operations (R238 to R250) -/

/-- Elements read from a list. -/
def State.readElements (s : State) (asKey : Bool) (sp : Span) (list : Nat) : List Element :=
  (chunksOf 8 sp.2 (s.load sp.1 (8 * sp.2))).map fun bs => { decodeElement asKey bs with list := list }

/-- All input elements, each with the index of its list. -/
def State.selInputs (s : State) (x : SelDesc) (lists : List Span) : List Element :=
  lists.zipIdx.flatMap fun p => s.readElements x.inKey p.1 p.2

/-- The element of the i-th index of a MERIT (R232, R238). -/
def State.meritElement (s : State) (x : SelDesc) (i : Nat) : Element :=
  let n := x.meritIndex i
  let id := if x.src3 = 0 then
      (match s.image with | some m => latticeId m.rollout n | none => invalidId)
    else fieldU (s.load (x.src3 + 4 * i) 4) 0 4
  let cost := match s.image with | some m => m.cost | none => default
  ⟨id, meritOf cost (decodeTerms (s.load (x.src + 32 * n) 32)) (decodeSlot (s.load (x.src2 + 16 * n) 16)) id, 0⟩

/-- BAD_INVALID for an input with ID 0xFFFF_FFFF and a merit (R236). -/
def State.flagInvalid (s : State) (d : Die) (es : List Element) : State :=
  s.when (es.any Element.badInvalid) fun s => s.event (rSelEvents d) 5

/-- A result with nothing but VALID and CYCLES. -/
def SelResult.plain (valid cycles : Nat) : SelResult := ⟨0, 0, valid, 0, 0, 0, 0, 0, cycles⟩

/-- Whether a Select engine works for a task of REFINE. -/
def State.refines (s : State) (d : Die) (e : Nat) : Bool :=
  match (s.die d).ovm.on 2 e with
  | some r => ((s.engCfg d).task r.task).phase == 3
  | none => false

/-- The kind of a MERIT's trace record (R296): 1 where its engine works for a refinement round, else 0, also for the MERIT of
the last sweep, which runs in REFINE (R252). DESIGN CHOICE (notes/assumptions/128.md): 0 for one of software. -/
def State.meritKind (s : State) (d : Die) (e : Nat) : Nat :=
  match (s.die d).ovm.on 2 e with
  | some r => bnat ((s.tasksOfRounds d fun _ => true).contains r.task)
  | none => 0

/-- MERIT performed; its trace record is of a sweep or of a refinement round (R296). -/
def State.doMerit (s : State) (d : Die) (w : SelWork) : State :=
  let x := w.desc
  let es := (List.range x.count).map (s.meritElement x)
  let s := s.store x.dst (es.flatMap (encodeElement x.outKey))
  let s := s.endSel d w (SelResult.plain (es.countP Element.valid) (selCycles x + w.stall))
  s.trace d (s.meritKind d w.engine) es

/-- COMPACT performed. -/
def State.doCompact (s : State) (d : Die) (w : SelWork) (lists : List Span) : State :=
  let x := w.desc
  let es := s.selInputs x lists
  let kept := es.filter fun e => e.id != invalidId && decide (x.thresh < e.merit)
  let s := (s.flagInvalid d es).store x.dst (kept.flatMap (encodeElement x.outKey))
  s.endSel d w (SelResult.plain kept.length (selCycles x + w.stall))

/-- The vote items of merge mismatches (R282), in ascending ID order: one that the merge returned is placed by its list
position, the m-th other one at position K_FINAL + 1 + m. -/
def heldMismatches (entries : List Element) (kFinal : Nat) : Nat → List Mismatch → List VoteItem
  | _, [] => []
  | m, x :: xs =>
    match entries.findIdx? fun e => e.id == x.id with
    | some i => ⟨2, x.id, i, [], [], x.meritHi, x.meritLo, x.listHi, x.listLo, true⟩ :: heldMismatches entries kFinal m xs
    | none =>
      ⟨2, x.id, kFinal + 1 + m, [], [], x.meritHi, x.meritLo, x.listHi, x.listLo, false⟩ ::
        heldMismatches entries kFinal (m + 1) xs

/-- Merge mismatches held for the vote pass (R251, R282). -/
def State.holdMismatches (s : State) (t : TopK) : State :=
  let held := heldMismatches t.entries (s.img (·.select.kFinal)) 0 (t.mismatches.take 16)
  { s with plan := { s.plan with votesDue := s.plan.votesDue ++ held } }

/-- A round is complete when its TOPK writes its result record (R269): the first TOPK of a REFINE task after the round was
expanded on the die. `before` is the survivor list of the round before it, which stands again if this round is abandoned (R271). -/
def State.endRound (s : State) (d : Die) (e : Nat) (before : List Byte) : State :=
  let x := s.die d
  s.when (x.roundOn && s.refines d e) fun s =>
    s.setDie d { x with rounds := x.rounds + 1, roundOn := false, survs := x.survs ++ [before] }

/-- TOPK performed. DESIGN CHOICE (notes/assumptions/120.md): of the 256 bytes of a DEDUP operation's mismatch list, those behind
its entries are written with zero; R249 does not say that they are written. -/
def State.doTopk (s : State) (d : Die) (w : SelWork) (lists : List Span) : State :=
  let x := w.desc
  let es := s.selInputs x lists
  let t := topK x.k x.dedup es
  let before := s.survivors d
  let list := if x.dedup then padTo 256 ((t.mismatches.take 16).flatMap encodeMismatch) else []
  let s := (s.flagInvalid d es).store x.dst (t.entries.flatMap (encodeElement x.outKey) ++ list)
  let over_ := decide (16 < t.mismatches.length)
  let s := s.when t.tieAtK fun s => s.event (rSelEvents d) 0
  let s := s.when (!t.mismatches.isEmpty) fun s => s.event (rSelEvents d) 1
  let s := s.when over_ fun s => s.event (rSelEvents d) 2
  let s := s.when (s.dev == .running && s.tick.live && !w.sw) fun s =>
    if over_ then s.invalid reasonSelMismatch else s.holdMismatches t
  (s.endSel d w (t.result (selCycles x + w.stall))).when (!w.sw) fun s => s.endRound d w.engine before

/-! ### KEYINS (R254) -/

/-- The status of a Select operation for a status of R352 that one of its remote operations returned: ADDR and UE keep
their names, another is a free value. DESIGN CHOICE (notes/assumptions/42.md): UE, named or free, brings all that an uncorrectable
error in an input brings (R241). -/
def State.chainStatus (s : State) (st : Nat) : Nat × State :=
  if st = 1 then (3, s)
  else if st = 3 then (5, s)
  else
    let (f, s) := s.freeWord
    (1 + f.toNat % 15, s)

/-- A chain of ATOMIC MAX operations performed at this device: the state, the first status other than DONE, and the step that waits
for the front of a DRAM's initialisation (R359). -/
def State.chainHere (s : State) (tab k : Nat) : Nat → Nat → Nat → State × Nat × Option (Nat × Nat)
  | 0, _, _ => (s, 0, none)
  | n + 1, r, x =>
    if k ≤ r ∨ x = 0 then (s, 0, none)
    else if s.stalls (tab + 8 * r) 8 then (s.noteStall (tab + 8 * r) 8, 0, some (r, x))
    else
      let (s, st, old) := s.atomicHere (tab + 8 * r) fun o => some (max o x)
      if st ≠ 0 then (s, st, none) else s.chainHere tab k n (r + 1) (min (ofLe old) x)

/-- The KEYINS work of an engine changed. -/
def State.mapSel (s : State) (d : Die) (e : Nat) (f : SelWork → SelWork) : State :=
  let x := s.die d
  s.setDie d { x with sel := x.sel.map fun w => if w.engine = e then f w else w }

/-- A status other than DONE recorded with the operation: the first stands. -/
def State.failSel (s : State) (d : Die) (e st : Nat) : State :=
  s.mapSel d e fun (w : SelWork) => { w with err := if w.err = 0 then st else w.err }

/-- Chains of an engine in flight: each has one operation outstanding. -/
def State.inFlight (s : State) (d : Die) (e : Nat) : Nat :=
  s.kl.ops.countP fun o => match o.issuer with
    | .chain g q _ _ _ _ => g == d && q == e
    | _ => false

/-- A KEYINS whose chains have all ended writes its result. DESIGN CHOICE (notes/assumptions/42.md): one a chain of which failed
sets SEL.EVENTS.REFUSED, though no descriptor was refused; with the status UE, what an input's uncorrectable error brings. -/
def State.finishKeyins (s : State) (d : Die) (e : Nat) : State :=
  match (s.die d).sel.find? fun w => w.engine == e && w.started with
  | none => s
  | some w =>
    if s.inFlight d e ≠ 0 ∨ !w.todo.isEmpty then s
    else if w.err = 0 then
      let (c, s) := s.freeWord
      s.endSel d w (SelResult.plain w.chains (c.toNat + w.stall))
    else
      let (st, s) := s.chainStatus w.err
      s.stopSel d w st

/-- One step of a chain issued to the node that holds the table; where it cannot leave, the chain ends. -/
def State.issueChain (s : State) (d : Die) (e x r tab k : Nat) : State :=
  match s.issueRemote 4 (nodeOf tab) (tab + 8 * r) (leBytes 8 x) (.chain d e x r tab k) with
  | (s, none) => s
  | (s, some st) => s.failSel d e st

/-- Steps of chains issued in order while fewer than 16 chains are in flight and no FENCE of the engine waits (R242, R254, R349);
the others wait. A table at this device is reached at once. -/
def State.issueChains (s : State) (d : Die) (e tab k : Nat) : List (Nat × Nat) → State
  | [] => s.mapSel d e fun (w : SelWork) => { w with todo := [] }
  | (r, x) :: ks =>
    if nodeOf tab = s.node then
      let (s, st, rest) := if s.crossDown (some d) (localOf tab) 8 then (s, 6, none) else s.chainHere (localOf tab) k (k - r) r x
      match rest with
      | some step => s.mapSel d e fun (w : SelWork) => { w with todo := step :: ks }
      | none => (s.when (st ≠ 0) fun s => s.failSel d e st).issueChains d e tab k ks
    else if 16 ≤ s.inFlight d e ∨ s.fenced (206 + 2 * d.idx + e) then
      s.mapSel d e fun (w : SelWork) => { w with todo := (r, x) :: ks }
    else (s.issueChain d e x r tab k).issueChains d e tab k ks

/-- KEYINS performed: keys of merit 0 are not inserted. DESIGN CHOICE (notes/assumptions/42.md): an element that is ignored as
invalid (R236) keeps its place, so that those behind it have their index in the list as local rank. -/
def State.doKeyins (s : State) (d : Die) (w : SelWork) (lists : List Span) : State :=
  let x := w.desc
  let es := s.selInputs x lists
  let keys := (es.zipIdx.filter fun p => p.1.valid).map fun p => (p.2, p.1.key)
  let s := s.flagInvalid d es
  let s := s.mapSel d w.engine fun (q : SelWork) => { q with started := true, stall := w.stall, chains := keys.length }
  (s.issueChains d w.engine x.dst x.k keys).finishKeyins d w.engine

/-- Whether the first step that waits at a KEYINS waits for the front of a DRAM's initialisation here (R359). -/
def State.stepStalls (s : State) (w : SelWork) : Bool :=
  match w.todo with
  | (r, _) :: _ => nodeOf w.desc.dst == s.node && s.stalls (localOf w.desc.dst + 8 * r) 8
  | [] => false

/-- The steps of chains that wait at an engine issued as far as they may be. -/
def State.pumpKeyins (s : State) (d : Die) (e : Nat) : State :=
  match (s.die d).sel.find? fun w => w.engine == e && w.started with
  | none => s
  | some w => if s.stepStalls w then s else (s.issueChains d e w.desc.dst w.desc.k w.todo).finishKeyins d e

/-- The return of a chain's step (R254): the displaced key moves one slot down, before the chains that have not begun. -/
def State.chainReturn (s : State) (d : Die) (e x r k status : Nat) (data : List Byte) : State :=
  let s :=
    if status ≠ 0 then s.failSel d e status
    else
      let y := min (ofLe data) x
      s.when (decide (r + 1 < k ∧ y ≠ 0)) fun s => s.mapSel d e fun (w : SelWork) => { w with todo := (r + 1, y) :: w.todo }
  s.pumpKeyins d e

/-! ### The commands -/

/-- The operation `op` that engine `e` holds, checked (R239) and performed by `f`; an uncorrectable error in an input stops
it (R241), a single-bit error is corrected and counted (R353), and the Gallery cycles that it contested count (R344). -/
def State.runSel (s : State) (d : Die) (e op stall : Nat) (met : SelMet) (f : State → SelWork → List Span → State) :
    State :=
  match (s.die d).sel.find? fun w => w.engine == e && !w.started && w.desc.op == op with
  | none => s
  | some w =>
    let s := s.contendOn d met.ports
    let w := { w with stall := stall }
    let lists := s.selLists d w.desc
    let c := selCheck (inGallery d) s.node w.desc lists
    if c ≠ 0 then s.stopSel d w c
    else if met.fault = 2 then s.stopSel d w 5
    else f (s.when (met.fault == 1) fun s => s.countCe (.selBuf d 0)) w lists

/-- MERIT (R232, R238). -/
def execMerit (d : Die) (e stall : Nat) (met : SelMet) (s : State) : Out :=
  .next (s.runSel d e 1 stall met fun s w _ => s.doMerit d w)

/-- COMPACT (R238). -/
def execCompact (d : Die) (e stall : Nat) (met : SelMet) (s : State) : Out :=
  .next (s.runSel d e 2 stall met fun s w l => s.doCompact d w l)

/-- TOPK (R243 to R250). -/
def execTopk (d : Die) (e stall : Nat) (met : SelMet) (s : State) : Out :=
  .next (s.runSel d e 3 stall met fun s w l => s.doTopk d w l)

/-- KEYINS (R254). -/
def execKeyins (d : Die) (e stall : Nat) (met : SelMet) (s : State) : Out :=
  .next (s.runSel d e 4 stall met fun s w l => s.doKeyins d w l)

/-- Whether a Select engine can take a descriptor from software: in service, not under a test slice (R484), idle. -/
def State.selIdle (s : State) (d : Die) (e : Nat) : Bool :=
  (s.die d).power == 2 && !(s.die d).seOut.contains e && !((s.die d).slices.any fun t => t.1 == 2 && t.2.1 == e) &&
    !((s.die d).sel.any fun w => w.engine == e) && !(s.die d).selFetch.any fun f => f.1 == e

/-- The descriptor of software read and handed to its engine; one that lies nowhere in the local map is refused with ADDR. -/
def State.fetchSel (s : State) (d : Die) (e a : Nat) : State :=
  if s.mapped a 64 then s.startSel d e (decodeSelDesc (s.readSpan a 64)) true
  else s.stopSel d ⟨e, default, true, false, 0, 0, 0, []⟩ 3

/-- The descriptor of software whose read waited for the front of a DRAM's initialisation read once that has passed it (R359). -/
def State.pumpFetch (s : State) (d : Die) (e : Nat) : State :=
  match (s.die d).selFetch.find? fun f => f.1 == e with
  | none => s
  | some f => s.when (!s.stalls f.2 64) fun s =>
      (s.setDie d { s.die d with selFetch := (s.die d).selFetch.filter fun g => g.1 != e }).fetchSel d e f.2

/-- GOe of SEL.SW_GO (R237): in STOPPED on an idle engine; otherwise only STATUS 0x6 WRONG_STATE. DESIGN CHOICE
(notes/assumptions/128.md): the same on a die whose arithmetic PLL is unlocked (R590). -/
def State.softSelect (s : State) (d : Die) (e : Nat) : State :=
  let s := s.checkUses [rSelSwDescLo d, rSelSwDescHi d]
  if s.dev = .stopped ∧ s.selIdle d e ∧ s.clocked d then
    let a := s.pair (rSelSwDescLo d) (rSelSwDescHi d)
    if s.stalls a 64 then (s.setDie d { s.die d with selFetch := (s.die d).selFetch ++ [(e, a)] }).noteStall a 64
    else s.fetchSel d e a
  else s.setField (rSelEStatus d e) 11 8 6

/-- SW_GO (R237). -/
def execSwGo (d : Die) (e : Nat) (s : State) : Out :=
  whenNamed (e < 2) (s.write32 (rSelSwGo d) fun s => s.softSelect d e)

/-! ### Internal Haulage by software -/

/-- IHAUL.CH_CTRL.GO: in STOPPED with the channel idle; otherwise only STATUS 0x8. -/
def State.softIhaul (s : State) (d : Die) (c : Nat) : State :=
  let s := s.checkUses [rIhaulChDescLo d c, rIhaulChDescHi d c]
  let x := s.die d
  if s.dev = .stopped ∧ x.power = 2 ∧ !x.ihaul.any (fun h => h.1 == c) then
    let a := s.pair (rIhaulChDescLo d c) (rIhaulChDescHi d c)
    (s.setDie d { x with ihaul := x.ihaul ++ [(c, false, Chain.begin_ a)] }).setReg (rIhaulChBytes d c) 0
  else s.setField (rIhaulChStatus d c) 7 4 8

/-- IHAUL_GO (R391). -/
def execIhaulGo (d : Die) (c : Nat) (s : State) : Out :=
  whenNamed (c < 32) (s.write32 (rIhaulChCtrl d c) fun s => s.softIhaul d c)

end Sys2Proof.Machine
end

