-- ==== Sys2Proof/Machine/Candidates.lean ====
section
/-! DEFINITION. Candidates by their identities (03_proposals, R264 to R267, R275, R288, R434): anchors, controls, samples,
terms, and the slots of the blocks on the engines. -/

namespace Sys2Proof.Machine
open Sys2Proof

/-- The committed image, or one with every field empty. -/
def State.theImage (s : State) : Image := s.image.getD default

/-- The ROLLOUT section in force. -/
def State.rolloutCfg (s : State) : RolloutCfg := s.theImage.rollout

/-! ### Anchors and parents -/

/-- Anchor `a` in a die's Gallery (R113, R118). -/
def State.anchor (s : State) (d : Die) (a : Nat) : Anchor :=
  decodeAnchor (s.loadWin d ((s.engCfg d).anchorBase + 48 * a) 48)

/-- Window offset of entry `j` of the parent table of a round (R265). -/
def State.parentOfs (s : State) (d : Die) (round j : Nat) : Nat := (s.engCfg d).parentBase.getD round 0 + 64 * j

/-- The ID of a parent slot (R265). -/
def State.parentId (s : State) (d : Die) (round j : Nat) : Nat := fieldU (s.loadWin d (s.parentOfs d round j) 4) 0 4

/-- KNOTS and DURATION of an entry, in the layouts of R113 (R265, R437). -/
def knotsOf (bs : List Byte) : Control :=
  let a := decodeAnchor (padTo 48 bs)
  ⟨a.acc, a.kd, a.duration⟩

/-- The bytes of KNOTS and DURATION (R265, R437). -/
def encodeKnots (c : Control) : List Byte :=
  padTo 32 ((c.acc.zip c.kd).flatMap fun p => leBytesInt 2 p.1 ++ leBytesInt 2 p.2) ++ leBytes 4 c.duration

/-- The control of a parent slot (R265). -/
def State.parentControl (s : State) (d : Die) (round j : Nat) : Control :=
  knotsOf ((s.loadWin d (s.parentOfs d round j) 64).drop 0x0C)

/-! ### Fallback and emergency stop (R288) -/

/-- ID of the fallback. -/
def fallbackId : Nat := 0xC0000000

/-- ID of the emergency stop. -/
def emergencyId : Nat := 0xC0020000

/-- Curvature of the fallback at its q-th knot boundary. -/
def fallbackCurv (c : RolloutCfg) (ego : Option EgoState) (prev : Option (List Byte)) (tau0 q : Nat) : Int :=
  match prev with
  | none => (match ego with | some e => e.curv | none => 0)
  | some r =>
    let u : Int := ((tau0 : Int) - fieldU r 8 8) / 1000 + q * (c.nSamp * c.dtUs / 8 : Nat)
    let i := (clampInt (u / c.dtUs) 0 (c.nSamp - 1 : Nat)).toNat
    fieldS r (64 + 16 * i + 12) 2

/-- The control of the fallback. -/
def fallbackControl (c : RolloutCfg) (ego : Option EgoState) (prev : Option (List Byte)) (tau0 : Nat) (aFb : Int) :
    Control :=
  let dur := c.nSamp * c.dtUs
  let kap := fallbackCurv c ego prev tau0
  { acc := List.replicate 8 aFb
    kd := (List.range 8).map fun q => clampInt (((kap (q + 1) - kap q) * 8000000) / (dur : Int)) (-c.kdMax) c.kdMax
    duration := dur }

/-- The control of the emergency stop. -/
def emergencyControl (c : RolloutCfg) (aEm : Int) : Control :=
  ⟨List.replicate 8 aEm, List.replicate 8 0, c.nSamp * c.dtUs⟩

/-! ### Controls by ID (R125, R153, R267) -/

/-- The control of a candidate as a die regenerates it. -/
def State.controlOf (s : State) (d : Die) (id : Nat) : Control :=
  let c := s.rolloutCfg
  if id = invalidId then Control.zero
  else match idOrigin id with
    | 0 => latticeControl c s.tseed (s.anchor d (idAnchor id)) id
    | 1 =>
      let v := idVariant id
      let r := v / 2 ^ 15
      childControl c s.theImage.refine s.tseed (s.parentControl d r (v / 8 % 4096)) id r
    | 3 =>
      if id = emergencyId then emergencyControl c s.theImage.safety.aEm
      else fallbackControl c s.world.ego s.plan.history s.tau0 s.theImage.safety.aFb
    | _ => Control.zero

/-- Whether the candidate's anchor has VALID = 0 (R126). -/
def State.anchorBad (s : State) (d : Die) (id : Nat) : Bool :=
  id != invalidId && decide (idOrigin id ≤ 1) && !(s.anchor d (idAnchor id)).valid

/-- The start state of the tick (R134). -/
def State.startOf (s : State) : VState := startState s.rolloutCfg s.world.ego s.tau0

/-- Acceleration of sample 0 (R139). -/
def State.egoAcc (s : State) : Int := match s.world.ego with | some e => e.acc | none => 0

/-- The samples of a control (R137 to R140). -/
def State.samplesOf (s : State) (ct : Control) : List Sample :=
  (rollout s.rolloutCfg s.startOf s.egoAcc ct).map (sampleOf s.rolloutCfg)

/-- The term record of a candidate (R142 to R145, R152): `id` is the invalid entry in a void slot. -/
def State.termsOf (s : State) (d : Die) (id : Nat) (ss : List Sample) : Terms :=
  { candidateTerms s.world.route ss with anchorInvalid := s.anchorBad d id, void := id == invalidId }

/-! ### The lattice of this node (R124, R146, R434) -/

/-- Lattice candidates of this node: all of them in a group of 1. -/
def State.ownCount (s : State) : Nat :=
  let a := s.rolloutCfg.anchorCount
  ((List.range a).countP fun k => k % s.groupSize == s.rank) * variants s.rolloutCfg

/-- The ID of the candidate with a local index, the invalid entry beyond the node's own. -/
def State.localId (s : State) (m : Nat) : Nat :=
  let v := variants s.rolloutCfg
  if m < s.ownCount then (s.rank + s.groupSize * (m / v)) * 2 ^ 18 + m % v else invalidId

/-- The candidate cap of the profile in force (RE.CAP). -/
def State.cap (s : State) : Nat := s.ent (·.cap)

/-! ### The final list (R253, R275, R436, R437) -/

/-- Entries of the final list: 64-byte entries in a group, elements otherwise; with one die and no group, the first
K_FINAL of the ranked survivor list, which the release of SELECT has padded. -/
def State.finalList (s : State) : List (Nat × Nat) :=
  let i := s.theImage
  let c := s.engCfg .s0
  let kf := i.select.kFinal
  if 1 < s.groupSize then
    (List.range kf).map fun n =>
      let e := Element.ofKey (fieldU (s.loadWin .s0 (c.finalBase + 64 * n) 8) 0 8)
      (e.id, e.merit)
  else if s.dies.length = 1 then
    (List.range kf).map fun n =>
      let e := decodeElement false (s.loadWin .s0 (c.survBase + 8 * n) 8)
      (e.id, e.merit)
  else (List.range kf).map fun n =>
    let e := decodeElement false (s.loadWin .s0 (c.finalBase + 8 * n) 8)
    (e.id, e.merit)

/-- Whether a list entry is valid (R236). -/
def entryValid (e : Nat × Nat) : Bool := e.1 != invalidId && e.2 != 0

/-- The ID at a list position, the fallback at position K_FINAL, none where nothing is placed (R275). -/
def placedId (l : List (Nat × Nat)) (i : Nat) : Option Nat :=
  if i = l.length then some fallbackId
  else match l[i]? with
    | some e => if entryValid e then some e.1 else none
    | none => none

/-- The control of a list entry: in a group, regenerated from its knots (R437). -/
def State.entryControl (s : State) (d : Die) (i id : Nat) : Control :=
  if 1 < s.groupSize ∧ idOrigin id < 2 then
    knotsOf ((s.loadWin d ((s.engCfg d).finalBase + 64 * i) 64).drop 8)
  else s.controlOf d id

/-- The positions of the recheck set (R279): the fallback, and the first R_RC valid entries. -/
def State.recheckSet (s : State) (l : List (Nat × Nat)) : List Nat :=
  (((List.range l.length).filter fun i => (placedId l i).isSome).take (recheckCount s.profile)) ++ [l.length]

/-! ### Slots of a block (R147, R149, R268, R276) -/

/-- A slot of a block on a collision engine: the index its records take, its candidate, the slot number in the block. -/
structure SlotJob where
  n    : Nat
  id   : Nat
  slot : Nat
  deriving DecidableEq, Repr, Inhabited

/-- Parent slot 0 of the children that a die sweeps (R264): 2,048 on S1 in BREEZE and GALE. -/
def State.parentStart (s : State) (d : Die) : Nat := if d = .s1 ∧ (s.profile = 1 ∨ s.profile = 2) then 2048 else 0

/-- The slots that collision engine `l` checks for the block on its rollout engine. -/
def State.slotJobs (s : State) (d : Die) (w : ReWork) (l : Nat) : List SlotJob :=
  let g := l % 4
  let x := w.desc
  if x.kind = 0 then
    (List.range 256).map fun k =>
      let c := 256 * g + k
      let m := x.n0 + c
      ⟨m, if m < s.cap then s.localId m else invalidId, c⟩
  else if x.kind = 1 then
    (List.range 256).map fun k =>
      let c := 256 * g + k
      let i := x.n0 + c
      let j := s.parentStart d + i / 8
      let par := s.parentId d x.round j
      ⟨i, if par = invalidId ∨ 8 * s.theImage.refine.parents ≤ i then invalidId else childId par x.round j (i % 8), c⟩
  else
    let list := s.finalList
    let shift := if x.kind = 2 then 0 else 1
    let among := if x.kind = 2 then List.range (list.length + 1) else s.recheckSet list
    (among.filter fun i => (placedId list i).isSome && listEngine i shift (s.die d).rAct == l).map fun i =>
      ⟨i, (placedId list i).getD invalidId, i % 1024⟩

/-- The control of a slot. -/
def State.jobControl (s : State) (d : Die) (w : ReWork) (j : SlotJob) : Control :=
  if w.desc.kind < 2 then s.controlOf d j.id else s.entryControl d j.n j.id

/-- Every slot of the block on a rollout engine. -/
def State.blockJobs (s : State) (d : Die) (w : ReWork) : List SlotJob :=
  (List.range 4).flatMap fun g => s.slotJobs d w (4 * w.engine + g)

end Sys2Proof.Machine
end

