-- ==== Sys2Proof/Machine/Sweep.lean ====
section
/-! DEFINITION. The collision sweep (R194 to R230): the time steps of the serving engines in lock step, and the canary
slot. -/

namespace Sys2Proof.Machine
open Sys2Proof

/-! ### What a sample check reads -/

/-- The world slice of an engine with its origin and missing tiles (R206). -/
def State.fieldView (s : State) (d : Die) (p : Nat) : FieldView :=
  let x := s.die d
  { sx0 := x.tx0 * 64, sy0 := x.ty0 * 64, missing := x.missing.toNat, cells := (s.slice d p).toArray }

/-- The bytes of agent slice `t` in a die's Gallery (R95). -/
def State.agentBytes (s : State) (d : Die) (t : Nat) : List Byte :=
  s.loadWin d ((s.engCfg d).sliceBase + 18944 * t) 18944

/-- The urgent agent-mode records of sample `t` (R111, R223). -/
def State.urgentRecs (s : State) (t : Nat) : List AgentRec :=
  s.plan.taken.flatMap fun u => (u.modes.filterMap fun m => m.recs[t]?).filter fun r => r.prob != 0

/-- A sample check of an engine with what it leaves beside the record: whether the sample was DENSE, whether it was unknown,
and its cycles. -/
structure Checked where
  rec_    : SlotRec
  dense   : Bool
  unknown : Bool
  cycles  : Nat
  deriving DecidableEq, Repr, Inhabited

/-- The check of one sample against an agent slice and a world slice (R206 to R214, R220, R223). -/
def checkOne (c : CheckCfg) (f : FieldView) (a : AgentSlice) (urgent : List AgentRec) (p : Pose) (t : Nat)
    (acc : SlotRec) : Checked :=
  let margin := dfMargin c.world.m f
  let binned := binnedOf c.world.m f.sx0 f.sy0 a p.x p.y
  { rec_ := checkSample c margin binned urgent p t acc
    dense := binned == .dense
    unknown := (discPass c margin p).1 || binned == .outside
    cycles := sampleCycles c (boxTests c binned urgent) }

/-- Counters and events of a die for `n` DENSE and `k` unknown samples (R290, CE.EVENTS). -/
def State.countSamples (s : State) (d : Die) (n k : Nat) : State :=
  let s := s.when (n ≠ 0) fun s =>
    let s := (s.count (rCeDenseSamples d) n).event (rCeEvents d) 4
    { s with plan := { s.plan with dense := true } }
  s.when (k ≠ 0) fun s => (s.count (rCeUnknownSamples d) k).event (rCeEvents d) 5

/-- Samples counted at an engine (CE.ENG_SAMPLES). -/
def State.countEngine (s : State) (d : Die) (p n : Nat) : State :=
  s.setPair (rCeEngSamplesLo d p) (rCeEngSamplesHi d p) (s.pair (rCeEngSamplesLo d p) (rCeEngSamplesHi d p) + n)

/-! ### Lock step (R218, R219) -/

/-- Base of an engine's local memory in its die's window (R200). -/
def ceBase (p : Nat) : Nat := 0x3200000 + p * 0x10000

/-- The block that feeds a logical engine. -/
def DieState.workOf (x : DieState) (l : Nat) : Option ReWork := x.reWork.find? fun w => w.engine == l / 4

/-- Whether an engine lets another start step `t` (R219): it has finished step t - 1 of the sweep in progress, or has
finished its block. -/
def stepAllows (n t q : Nat) : Bool :=
  (decide (t ≤ q) && !(t == 0 && decide (1 < q) && decide (q < n))) || (q == 0 && decide (t + 1 = n))

/-- Whether step `t` of a serving engine may start. -/
def State.stepReady (s : State) (d : Die) (p t : Nat) : Bool :=
  let x := s.die d
  let n := s.nSamp
  s.tick.live && !s.tick.stopped && x.power == 2 && decide (t < n) && x.steps.getD p 0 == t &&
    (List.range 68).all fun q => match x.ces[q]? with
      | some c => c.role != .serving || (x.workOf c.logical).isNone || q == p || stepAllows n t (x.steps.getD q 0)
      | none => true

/-- The pose of a slot at sample `t` (R150). -/
def State.jobPose (s : State) (d : Die) (w : ReWork) (j : SlotJob) (t : Nat) : Pose :=
  let c := s.rolloutCfg
  let ss := s.samplesOf (s.jobControl d w j)
  poseOf c (ss.getD t default) j.slot (s.anchorBad d j.id)

/-- Slice `t` copied by the Draught bus into the idle agent buffer of every serving engine of a die at once (R218): buffer
t mod 2 (notes/assumptions/114.md). -/
def State.broadcastAgents (s : State) (d : Die) (t : Nat) : State :=
  let abytes := s.agentBytes d t
  (List.range 68).foldl (fun s p => match (s.die d).ces[p]? with
    | some c => s.when (c.role == .serving) fun s => s.storeWin d (ceBase p + 0x4A00 * (t % 2)) abytes
    | none => s) s

/-- The time of a step so far: the greatest of 1,024 cycles and the sums of sample times met in it (R220). -/
def stepCycles (top : Nat) : Nat := max 1024 top

/-- The sum of an engine's sample times in a step taken into the time of the die's step (R220): CE.STEP_MAX, and RE.STALL by
the cycles that the step now lasts beyond 4 a sample (R151). -/
def State.countStep (s : State) (d : Die) (t cycles : Nat) : State :=
  let x := s.die d
  let was := if x.stepTop.1 = t then x.stepTop.2 else 0
  let top := max was cycles
  let s := s.setDie d { x with stepTop := (t, top) }
  let s := s.setReg (rCeStepMax d) (BitVec.ofNat 32 (max (s.reg (rCeStepMax d)).toNat (stepCycles top)))
  s.count (rReStall d) (stepCycles top - stepCycles was)

/-- The accumulator bytes of a slot; free where a hardware fault corrupts them (notes/assumptions/114.md). -/
def State.accBytes (s : State) (bad : Bool) (r : SlotRec) : List Byte × State :=
  if bad then s.freeBytes 16 else (encodeSlot r, s)

/-- The accumulators of an engine stored; those of a slot in `bad` came out wrong: free bytes (notes/assumptions/3.md). -/
def State.storeAccs (s : State) (d : Die) (set : Nat) (bad : List Nat) : List (Nat × SlotRec) → State
  | [] => s
  | (k, r) :: rs =>
    let q := s.accBytes (bad.contains k) r
    (q.2.storeWin d (set + 16 * k) q.1).storeAccs d set bad rs

/-- The step performed: the poses in the engine's buffer, the accumulators, and after the last step the records in the
collision array (R214, R215, R217 to R223). -/
def State.performStep (s : State) (d : Die) (p l t : Nat) (w : ReWork) (bad : List Nat) : State :=
  let n := s.nSamp
  let base := ceBase p
  let jobs := s.slotJobs d w l
  let poses := jobs.map fun j => s.jobPose d w j t
  let abytes := s.agentBytes d t
  let s := s.storeWin d (base + 0x9400 + 0x1000 * (t % 2)) (poses.flatMap encodePose)
  let urgent := if 2 ≤ w.desc.kind then s.urgentRecs t else []
  let s := s.when (decide (2 ≤ w.desc.kind)) fun s => s.storeWin d (base + 0xD600) (padTo 2048 (urgent.flatMap encodeAgentRec))
  let set := base + 0xB400 + 0x1000 * w.accSet
  let cfg := s.theImage.check
  let view := s.fieldView d p
  let slice := decodeSlice abytes
  let accs := jobs.zipIdx.map fun j =>
    if t = 0 then SlotRec.init (j.1.id == invalidId) else decodeSlot (s.loadWin d (set + 16 * j.2) 16)
  let out := (poses.zip accs).map fun q => checkOne cfg view slice urgent q.1 t q.2
  let s := s.storeAccs d set bad (out.zipIdx.map fun c => (c.2, c.1.rec_))
  let s := s.when (decide (t + 1 = n)) fun s =>
    jobs.zipIdx.foldl (fun s q => s.engineStore (w.desc.collBase + 16 * q.1.n) (s.loadWin d (set + 16 * q.2) 16)) s
  let cycles := (out.map (·.cycles)).foldl (· + ·) 0
  let s := s.countEngine d p jobs.length
  (s.countSamples d (out.countP (·.dense)) (out.countP (·.unknown))).countStep d t cycles

/-- Corrected errors in an engine's memories (R228). -/
def State.countEngineCe (s : State) (d : Die) (p n : Nat) : State := s.count (rCeEngEcc d p) n

/-- SWEEP_STEP (R218, R219, R228): serving engine `p` runs time step `t`. -/
def execSweepStep (d : Die) (p t : Nat) (met : StepMet) (s : State) : Out :=
  whenNamed (p < 68)
    (let x := s.die d
     let c := x.ces.getD p CeUnit.idle
     match x.workOf c.logical with
     | none => s
     | some w =>
       let canaried := s.tick.rel != 3 || (s.dep.canary.any fun q => q.1 == d.idx)
       s.when (c.role == .serving && canaried && s.stepReady d p t) fun s =>
         let s := (s.broadcastAgents d t).countEngineCe d p met.ce
         let s := if met.ue = 0 then s.performStep d p c.logical t w met.bad
                  else s.engineFault d p ((met.ue - 1) % 2) ((met.ue - 1) / 2)
         let x := s.die d
         s.setDie d { x with steps := setD 0 p (t + 1) x.steps })

/-! ### The canary slot (R224 to R227, R483) -/

/-- The four results of an engine's canaries from its canary area (R225). -/
def State.canaryResults (s : State) (d : Die) (p : Nat) : List SlotRec :=
  let base := canaryBase p
  let i := s.theImage
  let tile := (s.loadWin d base 4096).toArray
  let agents := (chunksOf 16 8 (s.loadWin d (base + 0x1000) 128)).map decodeAgentRec
  let descs := (chunksOf 16 4 (s.loadWin d (base + 0x1080) 64)).map decodeCanaryDesc
  descs.zipIdx.map fun q => canaryResult i.check i.rollout.nSamp tile agents q.1 q.2

/-- An engine whose canaries differ (R227). -/
def State.canaryFails (s : State) (d : Die) (p logical first : Nat) : State :=
  let s := (s.event (rCeEngEvents d p) 0).event (rCeEvents d) 0
  let s := s.setReg (rCeEngCanaryFails d p) (BitVec.ofNat 32 (min 65535 (bits (s.reg (rCeEngCanaryFails d p)) 15 0 + 1)))
  let s := s.setDie d ((s.die d).mapCe p fun c => { c with canaryOk := false, condemned := true })
  (s.log warn 0x0311 (tallySource (d.idx + 1) 1 p) (leBytes 1 (s.canarySet logical) ++ leBytes 1 first)).invalid
    reasonCanary

/-- What an engine writes for its canaries with the results `rs`: a result that came out wrong is free bytes
(notes/assumptions/3.md). -/
def State.canaryOut (s : State) (corrupt : List Nat) (p : Nat) (rs : List Byte) : List Byte × State :=
  match corrupt.find? fun k => k / 4 == p with
  | none => (rs, s)
  | some k =>
    let (f, s) := s.freeBytes 16
    (rs.take (16 * (k % 4)) ++ f ++ rs.drop (16 * (k % 4 + 1)), s)

/-- The first canary of an engine whose result differs from the expected record. -/
def canaryWrong (corrupt : List Nat) (p : Nat) (rs want : List Byte) : Option Nat :=
  match corrupt.find? fun k => k / 4 == p with
  | some k => some (k % 4)
  | none => (List.range 4).find? fun i => (rs.drop (16 * i)).take 16 != (want.drop (16 * i)).take 16

/-- The end of the slot on one engine: its results written and compared with the expected records, bit for bit. -/
def State.endCanary (s : State) (d : Die) (corrupt : List Nat) (p : Nat) : State :=
  let c := (s.die d).ces.getD p CeUnit.idle
  let base := canaryBase p
  let rs := (s.canaryResults d p).flatMap encodeSlot
  let want := s.loadWin d (base + 0x10C0) 64
  let (bytes, s) := s.canaryOut corrupt p rs
  let s := (s.storeWin d (base + 0x1100) bytes).countEngine d p (4 * s.nSamp)
  match canaryWrong corrupt p rs want with
  | some i => s.canaryFails d p c.logical i
  | none => s.setDie d ((s.die d).mapCe p fun c => { c with canaryOk := true })

/-- The memory errors that the serving engines of a die meet in the canary slot (R228). -/
def State.slotErrors (s : State) (d : Die) (ue ce : List (Nat × Nat)) : State :=
  let serves := fun (p : Nat) => match (s.die d).ces[p]? with
    | some c => c.role == .serving
    | none => false
  let s := (ce.filter fun q => serves q.1).foldl (fun s q => s.countEngineCe d q.1 q.2) s
  (ue.filter fun q => serves q.1).foldl (fun s q => s.engineFault d q.1 ((q.2 - 1) % 2) ((q.2 - 1) / 2)) s

/-- CANARY_SLOT_END (R226 to R228, R483): an engine that met an uncorrectable error completes no canary. -/
def execCanarySlotEnd (d : Die) (corrupt : List Nat) (met : CanaryMet) (s : State) : Out :=
  let sets := s.img (·.safety.sets.length)
  .next (s.when (s.tick.live && !s.tick.stopped && decide (3 ≤ s.tick.rel) && (s.die d).power == 2 &&
      s.dies.contains d && !(s.dep.canary.any fun q => q.1 == d.idx) && decide (sets ≠ 0)) fun s =>
    let s := s.slotErrors d met.ue met.ce
    let ran := (List.range 68).filter fun p => match (s.die d).ces[p]? with
      | some c => c.role == .serving && !met.missing.contains p && !met.ue.any fun q => q.1 == p
      | none => false
    let s := ran.foldl (fun s p => s.endCanary d corrupt p) s
    let fails := ran.countP fun p => !((s.die d).ces.getD p CeUnit.idle).canaryOk
    let s := s.setReg (rCeCanary d) (packFields [(0, s.tick.num % sets), (8, fails % 128)])
    { s with dep := { s.dep with canary := s.dep.canary ++ [(d.idx, ran.length, fails)] } })

end Sys2Proof.Machine
end

