-- ==== Sys2Proof/Machine/PolicyArray.lean ====
section
/-! DEFINITION. The arithmetic of the policy array (04_policy_array): tensors and weight tiles in the policy buffer,
accumulation, the vector unit, post-operations, and each operator of R173 as one die performs it. -/

namespace Sys2Proof.Machine
open Sys2Proof

/-- A value in the array: an integer or a binary32 pattern. -/
inductive PVal where
  | int (v : Int)
  | flt (w : F32)
  deriving DecidableEq, Repr, Inhabited

/-- The value in binary32 (R170). -/
def PVal.toF32 : PVal → F32
  | .int v => f32OfInt v
  | .flt w => w

/-- The value as an exact number. -/
def PVal.val : PVal → FVal
  | .int v => .fin (decide (v < 0)) v.natAbs 0
  | .flt w => f32Val w

/-- The nearest integer, ties to even, saturated to a signed width; a NaN gives a free value (notes/assumptions/31.md). -/
def roundInt (n : Nat) (v : FVal) : Int :=
  let hi : Int := 2 ^ (n - 1) - 1
  match v with
  | .nan => signedOf n Config.nanInteger.toNat
  | .inf neg => if neg then -hi - 1 else hi
  | .fin neg m e =>
    let a : Nat := if 0 ≤ e then m * 2 ^ e.toNat else roundShift m (-e).toNat false
    clampInt (if neg then -(a : Int) else a) (-hi - 1) hi

/-- The value as an integer of a signed width. -/
def PVal.toInt (v : PVal) (n : Nat) : Int := roundInt n v.val

/-! ### Elements, tensors and weight tiles (R161 to R163, R180) -/

/-- A NaN of a given sign. -/
def nanOf (neg : Bool) : F32 := (f32NaN &&& 0x7FFFFFFF#32) ||| (if neg then 0x80000000#32 else 0#32)

/-- An element's value from its bytes. -/
def readElem (e : Elem) (bs : List Byte) : PVal :=
  let b : Byte := bs.headD 0
  let narrow := fun (v : FVal) => if v = .nan then nanOf (b.getLsbD 7) else f32OfVal v
  match e with
  | .i4 => .int (signedOf 4 b.toNat)
  | .i8 => .int (signedOf 8 b.toNat)
  | .i32 => .int (fieldS bs 0 4)
  | .e4m3 => .flt (narrow (e4m3Val b))
  | .e5m2 => .flt (narrow (e5m2Val b))
  | .bf16 => .flt (BitVec.ofNat 32 (fieldU bs 0 2 * 65536))
  | .f32 => .flt (BitVec.ofNat 32 (fieldU bs 0 4))

/-- The bytes of a value in an element format (R163, R170). -/
def writeElem (e : Elem) (v : PVal) : List Byte :=
  match e with
  | .i4 => leBytes 1 (unsignedOf 4 (v.toInt 4))
  | .i8 => leBytesInt 1 (v.toInt 8)
  | .i32 => leBytesInt 4 (v.toInt 32)
  | .e4m3 => [e4m3Of v.toF32]
  | .e5m2 => [e5m2Of v.toF32]
  | .bf16 => leBytes 2 (bf16Of v.toF32).toNat
  | .f32 => leBytes 4 v.toF32.toNat

/-- Whether a format accumulates in INT32. -/
def Elem.integer : Elem → Bool
  | .i4 => true
  | .i8 => true
  | .i32 => true
  | _ => false

/-- Window offset of the policy buffer (R341). -/
def policyBase : Nat := 0x1000000

/-- Bytes of a tensor row: padded to a multiple of 64 (R180). -/
def TensorRef.pitch (t : TensorRef) : Nat := 64 * ceilDiv (t.cols * t.elem.bytes) 64

/-- Window offset of an element. -/
def TensorRef.ofs (t : TensorRef) (m n : Nat) : Nat := policyBase + t.base + m * t.pitch + n * t.elem.bytes

/-- An element of a tensor in a die's policy buffer. -/
def State.elem (s : State) (d : Die) (t : TensorRef) (m n : Nat) : PVal :=
  readElem t.elem (s.loadWin d (t.ofs m n) t.elem.bytes)

/-- A row of a tensor. -/
def State.row (s : State) (d : Die) (t : TensorRef) (m : Nat) : List PVal :=
  (chunksOf t.elem.bytes t.cols (s.loadWin d (t.ofs m 0) (t.cols * t.elem.bytes))).map (readElem t.elem)

/-- Values stored in row `m` of a tensor from column `n`. -/
def State.putRow (s : State) (d : Die) (t : TensorRef) (m n : Nat) (vs : List PVal) : State :=
  s.storeWin d (t.ofs m n) (vs.flatMap (writeElem t.elem))

/-- The tile addresses of a die. -/
def Weights.tiles (w : Weights) : Die → List Nat
  | .s0 => w.s0
  | .s1 => w.s1

/-- Columns of a weight tile (R161). -/
def Weights.tileCols (w : Weights) : Nat := if w.elem = .i4 then 512 else 256

/-- The weight of row `r` of K pass `p` and of the column `n` among the `cols` that a die computes (R162, R180). -/
def State.weight (s : State) (d : Die) (w : Weights) (cols p r n : Nat) : PVal :=
  let tile := (w.tiles d).getD (p * ceilDiv cols w.tileCols + n / w.tileCols) 0
  let c := n % w.tileCols
  if w.elem = .i4 then
    let b := fieldU (s.load (tile + r * 256 + c / 2) 1) 0 1
    .int (signedOf 4 (b / 16 ^ (c % 2)))
  else
    let e := w.elem.bytes
    readElem w.elem (s.load (tile + (r * 256 + c) * e) e)

/-! ### Accumulation (R164 to R167) -/

/-- The logical row groups in the order of PA.ORDER (R166). -/
def State.order (s : State) (d : Die) : List Nat :=
  (List.range 8).map fun n => bits (s.reg (rPaOrder d)) (3 * n + 2) (3 * n)

/-- The INT32 sum of products (R164). -/
def intDot (ps : List (PVal × PVal)) : Int :=
  signedOf 32 ((ps.map fun p => p.1.toInt 32 * p.2.toInt 32).foldl (· + ·) 0)

/-- One K pass accumulated group by group (R165). -/
def floatPass (order : List Nat) (acc : F32) (ps : List (PVal × PVal)) : F32 :=
  order.foldl (fun a g => f32Add a (f32Sum (((ps.drop (32 * g)).take 32).map fun p => valMul p.1.val p.2.val))) acc

/-- The accumulator over K passes of at most 256 rows each. -/
def dotPasses (integer : Bool) (order : List Nat) (passes : List (List (PVal × PVal))) : PVal :=
  if integer then .int (intDot passes.flatten) else .flt (passes.foldl (floatPass order) 0#32)

/-- The sum of the two dies' partial results (R167). -/
def addPartial (a b : PVal) : PVal :=
  match a, b with
  | .int x, .int y => .int (signedOf 32 (x + y))
  | _, _ => .flt (f32Add a.toF32 b.toF32)

/-! ### The vector unit (R169 to R172) -/

/-- Requantisation to int8 (R170). -/
def requant8 (acc m : Int) (sh : Nat) : Int :=
  let p := acc * m
  let q := p >>> sh
  let r := p - q * 2 ^ sh
  let half : Int := 2 ^ (sh - 1)
  let up := decide (sh ≠ 0) && (decide (half < r) || (decide (r = half) && decide (q % 2 = 1)))
  clampInt (if up then q + 1 else q) (-128) 127

/-- Number of an activation's table. -/
def ActFn.num : ActFn → Nat
  | .gelu => 0
  | .silu => 1
  | .tanh => 2
  | .sigmoid => 3
  | .relu => 5

/-- Interpolation in table `f` at the table position `u`. -/
def lutAt (f : Nat) (u : F32) : F32 :=
  let i := (min (f32Floor u) 1023).toNat
  let fr := f32Sub u (f32OfInt i)
  f32Add (lutPoint f i) (f32Mul fr (f32Sub (lutPoint f (i + 1)) (lutPoint f i)))

/-- An activation (R171). -/
def actFn (f : ActFn) (x : F32) : F32 :=
  if f32IsNaN x then x
  else if f = .relu then f32Max x 0#32
  else if f32Lt x 0xC1000000#32 then (if f = .tanh then 0xBF800000#32 else 0#32)
  else if !f32Lt x 0x41000000#32 then (if f = .tanh ∨ f = .sigmoid then 0x3F800000#32 else x)
  else lutAt f.num (f32Mul (f32Add x 0x41000000#32) 0x42800000#32)

/-- The exponential of softmax (R172). DESIGN CHOICE (notes/assumptions/131.md): log2 e enters the product as its FP32 value. -/
def softExp (x : F32) : F32 :=
  let y := f32Mul x 0x3FB8AA3B#32
  if f32IsNaN y then f32NaN
  else if f32Val y = .inf false then y
  else if f32Lt y 0xC3150000#32 then 0#32
  else
    let n := f32Floor y
    f32Scale (lutAt 4 (f32Mul (f32Sub y (f32OfInt n)) 0x44800000#32)) n

/-- Softmax over a row whose masked entries are none (R172). -/
def softmax (x : List (Option F32)) : List F32 :=
  let mx := vmax (x.map fun v => v.getD (f32Inf true))
  let e := x.map fun v => match v with | some w => softExp (f32Sub w mx) | none => 0#32
  if x.all (·.isNone) then x.map fun _ => 0#32
  else
    let r := f32Div 0x3F800000#32 (vsum e)
    e.map fun v => f32Mul v r

/-- The constant of a channel: a list of one holds for every channel. -/
def pick {α : Type} (l : List α) (n : Nat) (z : α) : α := if l.length = 1 then l.headD z else l.getD n z

/-- LayerNorm of a row (R172). -/
def layerNorm (gamma beta : List Word) (eps : Word) (x : List F32) : List F32 :=
  let n := f32OfInt x.length
  let mu := f32Div (vsum x) n
  let d := x.map fun v => f32Sub v mu
  let var := f32Div (vsum (d.map fun v => f32Mul v v)) n
  let sc := f32Rsqrt (f32Add var eps)
  d.zipIdx.map fun p => f32Add (f32Mul (f32Mul p.1 sc) (pick gamma p.2 0)) (pick beta p.2 0)

/-- RMSNorm of a row (R172). -/
def rmsNorm (gamma : List Word) (eps : Word) (x : List F32) : List F32 :=
  let q := f32Div (vsum (x.map fun v => f32Mul v v)) (f32OfInt x.length)
  let sc := f32Rsqrt (f32Add q eps)
  x.zipIdx.map fun p => f32Mul (f32Mul p.1 sc) (pick gamma p.2 0)

/-- One post-operation on the value of token `m` and channel `n`; `res` reads a residual tensor (R170, R173). -/
def postStep (res : TensorRef → PVal) (n : Nat) (v : PVal) : PostOp → PVal
  | .biasI b => .int (signedOf 32 (v.toInt 32 + pick b n 0))
  | .biasF b => .flt (f32Add v.toF32 (pick b n 0))
  | .scale k => .flt (f32Mul v.toF32 (pick k n 0))
  | .act f => .flt (actFn f v.toF32)
  | .residual t => .flt (f32Add v.toF32 (res t).toF32)
  | .requantI m sh => .int (requant8 (v.toInt 32) (pick m n 0) (pick sh n 0))
  | .requantF inv => .int ((PVal.flt (f32Mul v.toF32 (pick inv n 0))).toInt 8)
  | .convert e => readElem e (writeElem e v)

/-- The post-operations of an operation on one value. -/
def State.post (s : State) (d : Die) (ps : List PostOp) (m n : Nat) (v : PVal) : PVal :=
  ps.foldl (postStep (fun t => s.elem d t m n) n) v

/-! ### INPUT (R177, R178) -/

/-- A point in the ego frame (R178). -/
def egoFrame (e : EgoState) (x y : Int) : Int × Int :=
  let dx := x - e.x
  let dy := y - e.y
  let i := headingIndex e.heading
  ((dx * cosTab i + dy * sinTab i) >>> 30, (dy * cosTab i - dx * sinTab i) >>> 30)

/-- Field `f` of a record whose first fields are x, y and, where `h` says so, the heading, in the ego frame or not. While no
ego state is committed the value stays in the map frame (notes/assumptions/114.md). -/
def framed (ego : Option EgoState) (on : Bool) (h : Bool) (fields : List Int) (f : Nat) : Int :=
  let v := fields.getD f 0
  match on, ego with
  | true, some e =>
    let p := egoFrame e (fields.getD 0 0) (fields.getD 1 0)
    if f = 0 then p.1 else if f = 1 then p.2 else if f = 2 ∧ h then unsignedOf 16 (v - e.heading) else v
  | _, _ => v

/-- The number of a word read as signed. -/
def wordInt (w : Word) : Int := signedOf 32 w.toNat

/-- Minimum clearance over a block of the world slice, counted from the slice origin; unknown cells count as 0 (R177). A
committed image names only the blocks of the slice (R617); DESIGN CHOICE (notes/assumptions/119.md): a cell outside it counts
as 0. -/
def State.blockClearance (s : State) (d : Die) (b row col : Nat) : Nat :=
  let x := s.die d
  let cells := (List.range b).flatMap fun i => (List.range b).map fun j => (row * b + i, col * b + j)
  (cells.map fun (c : Nat × Nat) =>
    if 512 ≤ c.1 ∨ 512 ≤ c.2 then 0
    else
      let ix := x.tx0 * 64 + c.2
      let iy := x.ty0 * 64 + c.1
      if x.missing.getLsbD (tileSlot (ix / 64) (iy / 64)) then 0
      else (memByte s.mem (sliceKey d (sliceAddr ix iy))).toNat).foldl min 255

/-- The raw value of a feature. -/
def State.feature (s : State) (d : Die) (f : Feature) : PVal :=
  let ego := s.world.ego
  match f.src with
  | .ego k =>
    match ego with
    | none => .int (wordInt (Config.absentFeature 0 k))
    | some e =>
      .int (framed ego f.egoFrame true [e.x, e.y, (e.heading : Int), (e.speed : Int), e.acc, e.curv, e.artic] k)
  | .route p k =>
    match s.world.route[p]? with
    | none => .int (wordInt (Config.absentFeature 1 k))
    | some q => .int (framed ego f.egoFrame false [q.x, q.y, (q.speed : Int), (q.halfWidth : Int)] k)
  | .agent m t k =>
    match (s.world.modes.find? fun a => a.idx == m).bind fun a => a.recs[t]? with
    | none => .int 0
    | some r => if r.prob = 0 then .int 0 else
      .int (framed ego f.egoFrame true [r.x, r.y, (r.heading : Int), (r.hl : Int), (r.hw : Int), (r.prob : Int)] k)
  | .present m t => .int (bnat (match (s.world.modes.find? fun a => a.idx == m).bind fun a => a.recs[t]? with
    | none => false
    | some r => r.prob != 0))
  | .slice b row col => .int (s.blockClearance d b row col)
  | .history i k =>
    match s.plan.history with
    | none => .int (wordInt (Config.absentFeature 2 k))
    | some r =>
      let o := 64 + 16 * i
      .int (framed ego f.egoFrame true [fieldS r o 4, fieldS r (o + 4) 4, (fieldU r (o + 8) 2 : Int),
        (fieldU r (o + 10) 2 : Int), fieldS r (o + 12) 2, fieldS r (o + 14) 2] k)
  | .state off e => readElem e (((s.rstate d).drop off).take e.bytes)

/-- The exact difference of two values. -/
def valSub (x y : FVal) : FVal :=
  match x, y with
  | .fin n1 m1 e1, .fin n2 m2 e2 =>
    let r := dyadicAdd n1 m1 e1 (!n2) m2 e2
    .fin (decide (r.1 < 0)) r.1.natAbs r.2
  | _, _ => f32Val (f32Sub (f32OfVal x) (f32OfVal y))

/-- A feature converted: one rounding (R177). -/
def State.inputValue (s : State) (d : Die) (f : Feature) : PVal :=
  .flt (f32OfVal (valMul (valSub (s.feature d f).val (f32Val f.offset)) (f32Val f.scale)))

/-! ### Splits (R155 to R157) -/

/-- Whether the two arrays act as one (R155, R157). -/
def State.dual (s : State) : Bool := s.dies.length == 2

/-- First column (or head) and number of those that a die computes of `n`: below the split point on S0, by default the
lower half rounded up (R155). -/
def State.columns (s : State) (d : Die) (split : Option Nat) (n : Nat) : Nat × Nat :=
  let low := min n (split.getD (ceilDiv n 2))
  if !s.dual then (0, n)
  else match d with
    | .s0 => (0, low)
    | .s1 => (low, n - low)

/-- The rows of K that a die takes in a K-split operation (R156). -/
def kRows (d : Die) (k : Nat) : Nat × Nat :=
  let low := min k (ceilDiv k 512 * 256)
  match d with
  | .s0 => (0, low)
  | .s1 => (low, k - low)

/-- Values stored into a tensor on every die of the profile (R185): the exchange of columns. -/
def State.putAll (s : State) (t : TensorRef) (m n : Nat) (vs : List PVal) : State :=
  s.dies.foldl (fun s d => s.putRow d t m n vs) s

/-! ### GEMM and attention -/

/-- The K passes of output (m, n): `x` holds the inputs of each pass. -/
def State.passesOf (s : State) (d : Die) (w : Weights) (cols n : Nat) (x : List (List PVal)) :
    List (List (PVal × PVal)) :=
  x.zipIdx.map fun p => p.1.zipIdx.map fun v => (v.1, s.weight d w cols p.2 v.2 n)

/-- A row of inputs cut into K passes. -/
def kPasses (n : Nat) (x : List PVal) : List (List PVal) :=
  (List.range n).map fun p => (x.drop (256 * p)).take 256

/-- The accumulators of LINEAR on a die for token `m`: its columns over the rows of K that it takes. -/
def State.linearAcc (s : State) (d : Die) (x : TensorRef) (w : Weights) (cols lo k m n : Nat) : PVal :=
  let ins := ((s.row d x m).drop lo).take k
  dotPasses w.elem.integer (s.order d) (s.passesOf d w cols n (kPasses (ceilDiv k 256) ins))

/-- LINEAR as die `d` performs it. A K-split result is formed on S0 (R156). -/
def State.doLinear (s : State) (d : Die) (x y : TensorRef) (w : Weights) (split : Option Nat) (kSplit : Bool)
    (post : List PostOp) : State :=
  if kSplit ∧ s.dual then
    if d = .s1 then s
    else
      (List.range y.rows).foldl (fun s m => s.putAll y m 0 ((List.range y.cols).map fun n =>
        let part := fun (g : Die) =>
          let r := kRows g x.cols
          s.linearAcc g x w y.cols r.1 r.2 m n
        s.post d post m n (addPartial (part .s0) (part .s1)))) s
  else
    let c := s.columns d split y.cols
    (List.range y.rows).foldl (fun s m => s.putAll y m c.1 ((List.range c.2).map fun n =>
      s.post d post m (c.1 + n) (s.linearAcc d x w c.2 0 x.cols m n))) s

/-- The inputs of token `m` of CONV1D, tap by tap, each tap in its K passes, with zero padding to keep the length (R173,
R184). -/
def State.convIns (s : State) (d : Die) (x : TensorRef) (taps lo k m : Nat) : List (List PVal) :=
  let zero : PVal := if x.elem.integer then .int 0 else .flt 0#32
  (List.range taps).flatMap fun (j : Nat) =>
    let i : Int := (m : Int) + j - ((taps - 1) / 2 : Nat)
    let r := if 0 ≤ i ∧ i < x.rows then s.row d x i.toNat else List.replicate x.cols zero
    kPasses (ceilDiv k 256) ((r.drop lo).take k)

/-- The accumulators of CONV1D on a die for token `m`: its columns over the rows of K that it takes of each tap. -/
def State.convAcc (s : State) (d : Die) (x : TensorRef) (w : Weights) (taps cols lo k m n : Nat) : PVal :=
  dotPasses w.elem.integer (s.order d) (s.passesOf d w cols n (s.convIns d x taps lo k m))

/-- CONV1D as die `d` performs it. In a K-split one the dies share the inputs of each tap as R156 shares K
(notes/assumptions/114.md). -/
def State.doConv (s : State) (d : Die) (x y : TensorRef) (w : Weights) (taps : Nat) (split : Option Nat) (kSplit : Bool)
    (post : List PostOp) : State :=
  if kSplit ∧ s.dual then
    if d = .s1 then s
    else
      (List.range y.rows).foldl (fun s m => s.putAll y m 0 ((List.range y.cols).map fun n =>
        let part := fun (g : Die) =>
          let r := kRows g x.cols
          s.convAcc g x w taps y.cols r.1 r.2 m n
        s.post d post m n (addPartial (part .s0) (part .s1)))) s
  else
    let c := s.columns d split y.cols
    (List.range y.rows).foldl (fun s m => s.putAll y m c.1 ((List.range c.2).map fun n =>
      s.post d post m (c.1 + n) (s.convAcc d x w taps c.2 0 x.cols m n))) s

/-- The probabilities of head `h` for token `m` (R172, R173). The spec names scaled dot-product attention and no factor: the
product with K is multiplied by a constant of the operation (notes/assumptions/114.md). -/
def State.attnProbs (s : State) (d : Die) (q k : TensorRef) (hd : Nat) (mask : Option TensorRef) (scale : Word)
    (h m : Nat) : List F32 :=
  let part := fun (t : TensorRef) (i : Nat) => ((s.row d t i).drop (h * hd)).take hd
  softmax ((List.range k.rows).map fun j =>
    let dot := dotPasses q.elem.integer (s.order d) [(part q m).zip (part k j)]
    let masked := match mask with
      | some t => (s.elem d t 0 j).toInt 32 == 0
      | none => false
    if masked then none else some (f32Mul dot.toF32 scale))

/-- ATTENTION as die `d` performs it: its heads, the product with V over the keys as K (R155, R173, R184). -/
def State.doAttention (s : State) (d : Die) (q k v y : TensorRef) (heads hd : Nat) (split : Option Nat) (mask : Option TensorRef)
    (scale pInv : Word) (post : List PostOp) : State :=
  let c := s.columns d split heads
  (List.range y.rows).foldl (fun s m => (List.range c.2).foldl (fun s i =>
    let h := c.1 + i
    let p := (s.attnProbs d q k hd mask scale h m).map fun w =>
      if v.elem.integer then PVal.int ((PVal.flt (f32Mul w pInv)).toInt 8)
      else readElem v.elem (writeElem v.elem (.flt w))
    s.putAll y m (h * hd) ((List.range hd).map fun n =>
      let col := (List.range k.rows).map fun j => s.elem d v j (h * hd + n)
      let passes := (kPasses (ceilDiv k.rows 256) p).zip (kPasses (ceilDiv k.rows 256) col)
      s.post d post m (h * hd + n) (dotPasses v.elem.integer (s.order d) (passes.map fun a => a.1.zip a.2)))) s) s

/-- An operation of the vector unit over the rows of a tensor, on the die that runs it. -/
def State.mapRows (s : State) (d : Die) (y : TensorRef) (post : List PostOp) (f : Nat → List F32) : State :=
  (List.range y.rows).foldl (fun s m => s.putRow d y m 0 ((f m).zipIdx.map fun p => s.post d post m p.2 (.flt p.1))) s

/-- A row in binary32. -/
def State.rowF (s : State) (d : Die) (t : TensorRef) (m : Nat) : List F32 := (s.row d t m).map PVal.toF32

/-! ### OUTPUT to anchors (R116, R117) -/

/-- A column value times 2 to its exponent, as an exact number. -/
def scaleVal (v : FVal) (e : Int) : FVal :=
  match v with
  | .fin n m x => .fin n m (x + e)
  | w => w

/-- A knot: rounded and saturated to int16, with whether it saturated. -/
def knotOf (v : FVal) : Int × Bool := (roundInt 16 v, v != .nan && roundInt 16 v != roundInt 64 v)

/-- A duration: rounded, clamped, and cut to a multiple of 8. -/
def durationOf (v : FVal) : Nat × Bool :=
  let r := roundInt 64 v
  let c := clampInt r 80000 64000000
  (c.toNat / 8 * 8, v != .nan && c != r)

/-- An anchor from its row of 17 values (R116, R117). -/
def anchorOf (net : Nat) (exps : List Int) (row : List PVal) : Anchor :=
  let vs := row.zipIdx.map fun p => scaleVal p.1.val (exps.getD p.2 0)
  let knots := (vs.take 16).map knotOf
  let dur := durationOf (vs.getD 16 default)
  { acc := (List.range 8).map fun q => (knots.getD (2 * q) default).1
    kd := (List.range 8).map fun q => (knots.getD (2 * q + 1) default).1
    duration := dur.1
    valid := !(vs.any fun v => v == .nan)
    sat := dur.2 || knots.any (·.2)
    source := net }

/-- The anchors written into a die's Gallery (R118). -/
def State.putAnchors (s : State) (d : Die) (as_ : List Anchor) : State :=
  let s := s.storeWin d (s.engCfg d).anchorBase (as_.flatMap encodeAnchor)
  s.when (as_.any (·.sat)) fun s => s.event (rReEvents d) 2

/-! ### One operation on a die -/

/-- Bytes of a tensor with its padding. -/
def TensorRef.bytes (t : TensorRef) : Nat := t.rows * t.pitch

/-- The operation of a network performed by die `d` (R173). -/
def State.performOp (s : State) (d : Die) (net : Nat) : PaOp → State
  | .input y feats =>
    (feats.take y.rows).zipIdx.foldl (fun s p => s.putRow d y p.2 0 (p.1.map (s.inputValue d))) s
  | .linear x y w split kSplit post => s.doLinear d x y w split kSplit post
  | .conv1d x y w taps split kSplit post => s.doConv d x y w taps split kSplit post
  | .attention q k v y heads hd split mask scale pInv post => s.doAttention d q k v y heads hd split mask scale pInv post
  | .layernorm x y gamma beta eps post => s.mapRows d y post fun m => layerNorm gamma beta eps (s.rowF d x m)
  | .rmsnorm x y gamma eps post => s.mapRows d y post fun m => rmsNorm gamma eps (s.rowF d x m)
  | .act x y f post => s.mapRows d y post fun m => (s.rowF d x m).map (actFn f)
  | .add x z y post => s.mapRows d y post fun m => (s.rowF d x m).zipWith f32Add (s.rowF d z m)
  | .mul x z y post => s.mapRows d y post fun m => (s.rowF d x m).zipWith f32Mul (s.rowF d z m)
  | .stateRead y off => s.storeWin d (policyBase + y.base) (((s.rstate d).drop off).take y.bytes)
  | .stateWrite x off =>
    let bs := s.loadWin d (policyBase + x.base) x.bytes
    s.dies.foldl (fun s g => s.storeWin g (s.bankBase (1 - s.bank g) + off) bs) s
  | .toAnchors x =>
    match s.theImage.rollout.source with
    | .network n exps => s.when (n == net) fun s =>
        s.putAnchors d ((List.range x.rows).map fun m => anchorOf net exps (s.row d x m))
    | .table _ => s
  | .toTensor x y => (List.range y.rows).foldl (fun s m => s.putRow d y m 0 (s.row d x m)) s

/-- The weights of an operation. -/
def PaOp.weights : PaOp → Option Weights
  | .linear _ _ w .. => some w
  | .conv1d _ _ w .. => some w
  | _ => none

/-- An operation with its weights replaced. -/
def PaOp.withWeights (f : Weights → Weights) : PaOp → PaOp
  | .linear x y w split kSplit post => .linear x y (f w) split kSplit post
  | .conv1d x y w taps split kSplit post => .conv1d x y (f w) taps split kSplit post
  | o => o

/-- Weight bytes of an operation that are paged (R181). -/
def PaOp.paged (o : PaOp) : Nat := match o.weights with | some w => w.paged | none => 0

/-- The tensor that an operation writes. -/
def PaOp.out : PaOp → Option TensorRef
  | .input y _ | .linear _ y .. | .conv1d _ y .. | .attention _ _ _ y .. | .layernorm _ y .. | .rmsnorm _ y .. | .act _ y ..
  | .add _ _ y _ | .mul _ _ y _ | .stateRead y _ | .toTensor _ y => some y
  | .stateWrite .. | .toAnchors _ => none

/-- The columns of an operation's output that the half of a die holds. -/
def State.halfCols (s : State) (h : Die) (o : PaOp) (cols : Nat) : Nat × Nat :=
  match o with
  | .linear _ _ _ split k _ => if k then (0, cols) else s.columns h split cols
  | .conv1d _ _ _ _ split k _ => if k then (0, cols) else s.columns h split cols
  | .attention _ _ _ _ heads hd split .. =>
    let c := s.columns h split heads
    (c.1 * hd, c.2 * hd)
  | _ => s.columns h none cols

/-- Rows of an operation's output that came out wrong in the half that the operation computed for die `h`: free bytes on
every die that holds them (notes/assumptions/3.md). -/
def State.spoil (s : State) (h : Die) (o : PaOp) (rows : List Nat) : State :=
  match o.out with
  | none => s
  | some t =>
    let c := s.halfCols h o t.cols
    (rows.filter fun m => decide (m < t.rows)).foldl (fun s m =>
      let (bs, s) := s.freeBytes (c.2 * t.elem.bytes)
      s.dies.foldl (fun s d => s.storeWin d (t.ofs m c.1) bs) s) s

/-! ### The pager of weights (R180, R181) -/

/-- Bytes of a weight tile (R180). -/
def Weights.tileBytes (w : Weights) : Nat := if w.elem = .bf16 then 131072 else 65536

/-- Window offset of a half of the paging area. -/
def State.pageHalf (s : State) (k : Nat) : Nat :=
  policyBase + s.theImage.policy.pageBase + k * s.theImage.policy.halfLen

/-- The spans of DRAM from which the paged weights of an operation are still to be fetched. -/
def State.weightSpans (s : State) (d h : Die) (net op : Nat) (o : PaOp) : List (Nat × Nat) :=
  match o.weights with
  | none => []
  | some w =>
    if w.paged = 0 ∨ (s.die d).paHalves.contains (some (net, op, h.idx)) then []
    else (w.tiles h).map fun a => (a, w.tileBytes)

/-- The paged weights of the columns of die `h` for an operation fetched into the free half of die `d`'s paging area, unless
a half holds them (R181), or they wait for the front of their DRAM's initialisation (R359). DESIGN CHOICE
(notes/assumptions/119.md): weights that an earlier run of the same tick left there are used without a new fetch; no tick uses what
an earlier one fetched. -/
def State.fetchWeights (s : State) (d h : Die) (net op : Nat) (o : PaOp) : State :=
  let x := s.die d
  match o.weights with
  | none => s
  | some w => s.afterFront (s.weightSpans d h net op o) fun s =>
    if w.paged = 0 ∨ x.paHalves.contains (some (net, op, h.idx)) then s
    else
      let inUse := match x.paHalves.getD 0 none with
        | some q => x.paBusy && q.1 == x.paNet && q.2.1 == x.paOp
        | none => false
      let k := bnat inUse
      let s := (w.tiles h).zipIdx.foldl (fun s t =>
        s.storeWin d (s.pageHalf k + t.2 * w.tileBytes) (s.load t.1 w.tileBytes)) s
      let x := s.die d
      (s.setDie d { x with paHalves := setD none k (some (net, op, h.idx)) x.paHalves }).count (rPaPagerBytes d) w.paged

/-- The tile addresses of the columns of die `h` as die `d` reads them: in its paging area where that holds them. -/
def State.tilesAt (s : State) (d h : Die) (net op : Nat) (w : Weights) : List Nat :=
  match (s.die d).paHalves.findIdx? (· == some (net, op, h.idx)) with
  | some k => (List.range (w.tiles h).length).map fun i => winBaseOf d + s.pageHalf k + i * w.tileBytes
  | none => w.tiles h

/-- An operation performed by die `d` for the half of die `h`, its paged weights in the paging areas (R155, R181, R186). -/
def State.runOp (s : State) (d h : Die) (net op : Nat) (o : PaOp) : State :=
  let holder := fun (g : Die) => if d = h then g else g.other
  s.performOp h net (o.withWeights fun w =>
    { w with s0 := s.tilesAt (holder .s0) .s0 net op w, s1 := s.tilesAt (holder .s1) .s1 net op w })

end Sys2Proof.Machine
end

