-- ==== Sys2Proof/Machine/Propose.lean ====
section
/-! DEFINITION. The networks of PROPOSE (R173, R176, R181, R182, R186 to R191): when an operation may start, its end, the
flagged comparison and the third run. -/

namespace Sys2Proof.Machine
open Sys2Proof

/-- Network and operation of a policy-array task, from its descriptor. -/
def State.paDesc (s : State) (d : Die) (t : Nat) : Option (Nat × Nat) :=
  Config.parsePaDesc (s.load ((s.engCfg d).task t).desc 64)

/-- A network of the image. -/
def State.net (s : State) (n : Nat) : NetCfg := s.theImage.policy.nets.getD n default

/-- The operation of a network. -/
def State.netOp (s : State) (n o : Nat) : Option PaOp := (s.net n).ops[o]?

/-- Policy-array tasks of phase 1 on a die, by network. -/
def State.netTasks (s : State) (d : Die) (n : Nat) : List Nat :=
  (List.range (s.engCfg d).tasks.length).filter fun t =>
    let r := (s.engCfg d).task t
    r.cls == 0 && r.phase == 1 && (match s.paDesc d t with | some p => p.1 == n | none => false)

/-- Whether the first run of a network has ended on every die. -/
def State.netDone (s : State) (n : Nat) : Bool :=
  s.dies.all fun d => (s.netTasks d n).all fun t => (s.die d).ovm.done.contains t

/-- Bit of plan.votedNets that says that a flagged network's results on a die are settled. -/
def settledBit (n : Nat) (d : Die) : Nat := 2 * n + d.idx

/-- Whether the results of a network may be used: it is not flagged, or its comparison is settled on every die (R186). -/
def State.netSettled (s : State) (n : Nat) : Bool :=
  !(s.net n).flagged || s.dies.all fun d => s.plan.votedNets / 2 ^ settledBit n d % 2 == 1

/-- Whether the array tasks of a network's operations before `o` have ended on every die (R173). -/
def State.opsDone (s : State) (n o : Nat) : Bool :=
  s.dies.all fun d => (s.netTasks d n).all fun t => match s.paDesc d t with
    | some p => decide (o ≤ p.2) || (s.die d).ovm.done.contains t
    | none => true

/-- Whether a policy-array task may start: every array of the profile is serviceable (R159) and not stopped (R182), every
earlier network has ended, its flagged re-execution included (R176), and every earlier operation has written its outputs on
both dies (R173). -/
def State.paMayStart (s : State) (d : Die) (t : Nat) : Bool :=
  s.dies.all (fun g => (s.die g).paOk && !(s.die g).paStopped) &&
    match s.paDesc d t with
    | none => true
    | some p => (List.range p.1).all (fun n => s.netDone n && s.netSettled n) && s.opsDone p.1 p.2

/-- The weights of an operation fetched where no half holds them; the cycles that the operation waits for them are a free
value (R181, notes/assumptions/3.md). -/
def State.pageOp (s : State) (d h : Die) (n o : Nat) : State :=
  match s.netOp n o with
  | none => s
  | some op =>
    let s := s.fetchWeights d h n o op
    let s := if op.paged = 0 then s else
      let (f, s) := s.freeWord
      s.count (rPaPagerStall d) f.toNat
    match s.netOp n (o + 1) with
    | some next => s.fetchWeights d h n (o + 1) next
    | none => s

/-- An operation starts: its paged weights are fetched, and those of the next during it (R181). -/
def State.startOp (s : State) (d : Die) (t : Nat) : State :=
  match s.paDesc d t with
  | none => s
  | some p => (s.setDie d { s.die d with paNet := p.1, paOp := p.2, paBusy := true, paRun := 0 }).pageOp d d p.1 p.2

/-- PROPOSE ends when every task of phase 1 has ended and every flagged network is settled. -/
def State.tryPropose (s : State) : State :=
  let done := s.dies.all (fun d => s.phaseTasksDone d 1) &&
    (List.range s.theImage.policy.nets.length).all fun n => s.netSettled n
  s.when (decide (2 ≤ s.tick.rel) && !s.tick.stopped && !s.plan.proposeOk && done) fun s =>
    let ns := s.now - (s.tick.tk + s.phaseAt 1)
    (s.dies.foldl (fun s d => s.setReg (rPaProposeNs d) (BitVec.ofNat 32 (satNat 32 ns))) s).finishPropose

/-- The operation in progress on a die has written its outputs; rows of them came out wrong. -/
def State.endOp (s : State) (d : Die) (op : Option (Nat × Nat)) (bad : List Nat) : State :=
  match op with
  | none => s
  | some p =>
    let s := match s.netOp p.1 p.2 with
      | some o => (s.runOp d d p.1 p.2 o).spoil d o bad
      | none => s
    (s.setDie d { s.die d with paBusy := false }).count (rPaOps d) 1

/-- An uncorrectable error in the policy buffer (status 3) or in a paged weight (19) stops the network on both dies
(R182). -/
def State.failOp (s : State) (d : Die) (op : Option (Nat × Nat)) (status : Nat) : State :=
  let p := op.getD (0, 0)
  let s := if status = 3 then s.event (rPaEvents d) 4 else if status = 19 then s.event (rPaEvents d) 3 else s
  let s := s.when (status == 3 || status == 19) fun s =>
    s.log warn 0x0301 (tallySource (d.idx + 1) 3 0) (leBytes 1 p.1 ++ leBytes 2 p.2)
  s.stopNets (some d)

/-- A network settled on a die. -/
def State.settleNet (s : State) (n : Nat) (d : Die) : State :=
  let s := { s with plan := { s.plan with votedNets := s.plan.votedNets ||| 2 ^ settledBit n d } }
  (s.setDie d { s.die d with paRun := 0 }).tryPropose

/-! ### The second and the third run of a flagged network (R186 to R189) -/

/-- The half that a die computes in the second and third run: the other die's columns, in LULL its own (R186). -/
def State.runHalf (s : State) (d : Die) : Die := if s.dual then d.other else d

/-- Where the columns of each tensor divide between the dies, by its base, none for the default: at the split point of the
operation that computed it, or of the tensor that a vector operation works on (R155). -/
def splitStep (m : List (Nat × Option Nat)) (o : PaOp) : List (Nat × Option Nat) :=
  let set := fun (y : TensorRef) (c : Option Nat) => (y.base, c) :: m.filter fun p => p.1 != y.base
  let of := fun (x : TensorRef) => (m.find? fun p => p.1 == x.base).bind (·.2)
  match o with
  | .linear _ y _ split k _ | .conv1d _ y _ _ split k _ => set y (if k then none else split)
  | .attention _ _ _ y heads hd split .. => set y (some (hd * min heads (split.getD (ceilDiv heads 2))))
  | .layernorm x y .. | .rmsnorm x y .. | .act x y .. | .toTensor x y | .add x _ y _ | .mul x _ y _ => set y (of x)
  | .input y _ | .stateRead y _ => set y none
  | .stateWrite .. | .toAnchors _ => m

/-- The output tensors and the state writes of a network on a die, each with its split point (R187). -/
def State.netOutputs (s : State) (d : Die) : List (Nat × Option Nat) → List PaOp → List (TensorRef × Option Nat)
  | _, [] => []
  | m, o :: os =>
    let m' := splitStep m o
    let of := fun (x : TensorRef) => (m'.find? fun p => p.1 == x.base).bind (·.2)
    let own := match o with
      | .toAnchors x => [(x, of x)]
      | .toTensor _ y => [(y, of y)]
      | .stateWrite x off => [({ x with base := s.bankBase (1 - s.bank d) - policyBase + off }, of x)]
      | _ => []
    own ++ s.netOutputs d m' os

/-- Their bytes in the half that the die computes again. -/
def State.netBytes (s : State) (n : Nat) (d : Die) : List Byte :=
  (s.netOutputs d [] (s.net n).ops).flatMap fun p =>
    let t := p.1
    let c := s.columns (s.runHalf d) p.2 t.cols
    (List.range t.rows).flatMap fun m => s.loadWin d (t.ofs m c.1) (c.2 * t.elem.bytes)

/-- A run of a flagged network begins on a die: 1 the second, 2 the third. The rows that R186 shifts change no value. -/
def State.beginRun (s : State) (n run : Nat) (d : Die) : State :=
  s.setDie d { s.die d with paRun := run, paNet := n, paOp := 0, paBusy := true }

/-- Whether the policy arrays run on every die of the profile: clocked (R590), serviceable (R159), not stopped (R182). -/
def State.arraysRun (s : State) : Bool :=
  s.dies.all fun g => s.clocked g && (s.die g).paOk && !(s.die g).paStopped

/-- The flagged network whose first run has ended on every die begins its second run (R176, R186). -/
def State.beginReruns (s : State) : State :=
  let due := (List.range s.theImage.policy.nets.length).find? fun n =>
    (s.net n).flagged && !s.netSettled n && s.netDone n && s.dies.all fun d => !(s.netTasks d n).isEmpty
  match due with
  | none => s
  | some n => s.when (decide (s.tick.rel = 2) && !s.tick.stopped && s.arraysRun && s.dies.all fun d => (s.die d).paRun == 0 && !(s.die d).paBusy)
      fun s => s.dies.foldl (fun s d =>
        (s.setDie d { s.die d with paFirst := s.netBytes n d }).beginRun n 1 d) s

/-- Whether a die has an operation of a second or third run of a network in progress that may end: the dies that run it are
in step (R173, R186). -/
def State.rerunning (s : State) (n : Nat) (d : Die) : Bool :=
  let x := s.die d
  let inStep := s.dies.all fun g => !(s.die g).paBusy || (s.die g).paRun == 0 || decide (x.paOp ≤ (s.die g).paOp)
  decide (s.tick.rel = 2) && !s.tick.stopped && s.dies.contains d && x.paBusy && x.paNet == n && decide (1 ≤ x.paRun) &&
    inStep && s.arraysRun

/-- An operation performed by die `d` for a half in a second or third run, its rows in `bad` wrong. A half that runs a third time
alone uses in the other half's columns what the second run left there (DESIGN CHOICE, notes/assumptions/119.md); what a vector
operation of it writes stands on both dies, as after the second run (R185, R188). -/
def State.rerunHalf (s : State) (n : Nat) (d : Die) (o : PaOp) (bad : List Nat) : State :=
  let op := (s.die d).paOp
  let h := s.runHalf d
  let alone := decide ((s.die d).paRun = 2) && s.dual && (s.die d.other).paRun != 2
  let s := s.runOp d h n op o
  (s.when (alone && o.weights.isNone) fun s => s.runOp h d n op o).spoil h o bad

/-- An operation of a second or third run ends on a die (R173, R181, R186): it is performed for the half, rows of it came out
wrong, and the next one begins. -/
def State.rerunOp (s : State) (n : Nat) (d : Die) (bad : List Nat) : State :=
  let op := (s.die d).paOp
  let s := s.pageOp d (s.runHalf d) n op
  let s := match s.netOp n op with
    | some o => s.rerunHalf n d o bad
    | none => s
  let last := decide ((s.net n).ops.length ≤ op + 1)
  (s.setDie d { s.die d with paOp := op + 1, paBusy := !last }).count (rPaOps d) 1

/-- Whether a run of a flagged network has ended on a die and waits for its comparison. -/
def State.runEnded (s : State) (n run : Nat) (d : Die) : Bool :=
  let x := s.die d
  decide (s.tick.rel = 2) && !s.tick.stopped && s.arraysRun && s.dies.contains d && x.paRun == run && x.paNet == n && !x.paBusy &&
    s.dies.all fun g => (s.die g).paRun != run || !(s.die g).paBusy

/-- The comparison after the second run of a flagged network, bit for bit (R187, R188). -/
def State.compareNet (s : State) (n : Nat) (d : Die) : State :=
  s.when (s.runEnded n 1 d) fun s =>
    let second := s.netBytes n d
    if second = (s.die d).paFirst then s.settleNet n d
    else
      let s := (s.count (rPaMismatch d) 1).event (rPaEvents d) 0
      (s.setDie d { s.die d with paSecond := second }).beginRun n 2 d

/-- The die on which a run of a flagged network computed the half that `d` computed second (R186), as the entry of R188 codes
it: the spec gives that byte no values. DESIGN CHOICE (notes/assumptions/128.md): 0 for S0, 1 for S1. -/
def State.runDie (s : State) (d : Die) (run : Nat) : Nat := if s.dual ∧ run = 0 then 1 - d.idx else d.idx

/-- The comparison after the third run (R188, R189): the buffer holds its values, which are the majority's where they agree
with either earlier run. -/
def State.thirdRun (s : State) (n : Nat) (d : Die) : State :=
  s.when (s.runEnded n 2 d) fun s =>
    let third := s.netBytes n d
    let x := s.die d
    if third = x.paFirst ∨ third = x.paSecond then
      let wrong := if third = x.paSecond then 0 else 1
      let s := (s.event (rPaEvents d) 1).log warn 0x0302 (tallySource (d.idx + 1) 3 0)
        (leBytes 1 n ++ leBytes 1 (s.runDie d wrong) ++ leBytes 1 wrong)
      { s with plan := { s.plan with degraded := true } }.settleNet n d
    else
      let s := (s.event (rPaEvents d) 2).stopWork
      if s.plan.record.isNone then s.writeInvalid reasonPropose else s

end Sys2Proof.Machine
end

