-- ==== Sys2Proof/Machine/Tasks.lean ====
section
/-! DEFINITION. Tasks on the engines (R323 to R336): dispatch, and what each class of engine does when its task starts and
ends. -/

namespace Sys2Proof.Machine
open Sys2Proof

/-- Engines of a class by number. -/
def engineCount (cls : Nat) : Nat := [1, 16, 2, 1, 1, 32].getD cls 0

/-! ### Rollout engines (R146 to R153, R265) -/

/-- A descriptor with its references resolved (R334); a block starts at a multiple of 1,024 (R147, R268). -/
def State.resolveRe (s : State) (d : Die) (x : ReDesc) : Option ReDesc :=
  match s.resolve d x.termBase, s.resolve d x.collBase, s.resolve d x.idBase, s.resolve d x.sampBase with
  | some a, some b, some c, some e =>
    some { x with termBase := a, collBase := b, idBase := c, sampBase := e, n0 := if x.kind < 2 then x.n0 / 1024 * 1024 else x.n0 }
  | _, _, _, _ => none

/-- Whether a die sweeps the block of a lattice index (R148). -/
def State.sweepsBlock (s : State) (d : Die) (m : Nat) : Bool :=
  !(s.profile == 1 || s.profile == 2) || m / 1024 % 2 == d.idx

/-- Lattice candidates of a die refused at the cap (R146). -/
def State.refusedOn (s : State) (d : Die) : Nat :=
  (List.range (s.ownCount - s.cap)).countP fun k => s.sweepsBlock d (s.cap + k)

/-- Counts of a lattice block (RE.COUNT, RE.REFUSED). -/
def State.countBlock (s : State) (d : Die) (n0 : Nat) : State :=
  let s := s.when (s.reg (rReCount d) == 0) fun s =>
    let r := s.refusedOn d
    (s.setReg (rReRefused d) (BitVec.ofNat 32 (r % 2097152))).when (r != 0) fun s => s.event (rReEvents d) 0
  s.count (rReCount d) (min (n0 + 1024) (min s.ownCount s.cap) - n0)

/-- KNOTS and DURATION of the parents of a refinement block written into the parent table (R265). -/
def State.writeParents (s : State) (d : Die) (w : ReWork) : State :=
  let x := w.desc
  let slots := ((List.range 128).filter fun k => decide (x.n0 / 8 + k < s.theImage.refine.parents)).map fun k =>
    s.parentStart d + x.n0 / 8 + k
  slots.foldl (fun s j =>
    let id := s.parentId d x.round j
    if id = invalidId then s
    else s.storeWin d (s.parentOfs d x.round j + 0x0C) (encodeKnots (s.controlOf d id))) s

/-- The physical engines that check a block. -/
def DieState.blockEngines (x : DieState) (r : Nat) : List Nat :=
  (List.range 4).filterMap fun g => x.engineOf (4 * r + g)

/-- A block starts on a rollout engine. -/
def State.startBlock (s : State) (d : Die) (t r : Nat) (desc : ReDesc) : State :=
  let x := s.die d
  let w : ReWork := ⟨r, t, desc, bnat (x.accFlip.getLsbD r)⟩
  let steps := (x.blockEngines r).foldl (fun (l : List Nat) p => setD 0 p 0 l) x.steps
  let s := s.setDie d { x with reWork := x.reWork.filter (fun q => q.engine != r) ++ [w]
                               accFlip := x.accFlip ^^^ BitVec.ofNat 16 (2 ^ r), steps := steps }
  let s := s.when (desc.kind = 0) fun s => s.countBlock d desc.n0
  let s := s.when (desc.kind = 1) fun s =>
    (s.setDie d { s.die d with round := desc.round, roundOn := true }).writeParents d w
  let late := match s.world.ego with | some e => decide (s.tau0 ≤ e.stamp) | none => false
  let s := s.when ((s.blockJobs d w).any fun j => s.anchorBad d j.id) fun s => s.event (rReEvents d) 1
  s.when late fun s => s.event (rReEvents d) 4

/-- The first status other than DONE among spans of the local map. -/
def State.firstStatus (s : State) (spans : List (Nat × Nat)) : Nat :=
  ((spans.map fun p => s.spanStatus p.1 p.2).find? (· != 0)).getD 0

/-- Whether every collision engine of a block has run its last step. -/
def State.blockSwept (s : State) (d : Die) (r : Nat) : Bool :=
  ((s.die d).blockEngines r).all fun p => (s.die d).steps.getD p 0 == s.nSamp

/-- The record pair of index `n` as a block has stored it: the term record, then the collision record (R280). -/
def State.pairAt (s : State) (termBase collBase n : Nat) : List Byte :=
  s.load (termBase + 32 * n) 32 ++ s.load (collBase + 16 * n) 16

/-- The outputs of a sample in the Gallery (R139, R278): the six of R139 and the acceleration, 32 bytes. DESIGN CHOICE
(notes/assumptions/120.md): the spec gives no layout; those of a record sample (R289), then the articulation, then zero
bytes. -/
def encodeOutput (x : Sample) : List Byte := padTo 32 (encodeSample x ++ leBytesInt 2 x.artic)

/-- Bytes of the sample outputs of a candidate. -/
def State.outputBytes (s : State) : Nat := 32 * s.nSamp

/-- What a direct-mode block leaves beside its records (R278): the sample outputs, and the pairs to compare (R280). -/
def State.endDirect (s : State) (d : Die) (w : ReWork) (jobs : List SlotJob) : State :=
  let x := w.desc
  let s := jobs.foldl (fun s j =>
    s.engineStore (x.sampBase + s.outputBytes * j.n) ((s.samplesOf (s.jobControl d w j)).flatMap encodeOutput)) s
  let recs := jobs.map fun j => (x.kind, j.n, s.pairAt x.termBase x.collBase j.n)
  { s with plan := { s.plan with passRecs := s.plan.passRecs ++ recs } }

/-- The term records and the IDs of a block written, and the engine free (R152). A record whose index in the block is in
`bad` came out wrong: free bytes (notes/assumptions/3.md). A block of a CROSSWIND sweep or round is kept for its comparison
(R281). -/
def State.endBlock (s : State) (d : Die) (r : Nat) (bad : List Nat) : State :=
  match (s.die d).reWork.find? fun w => w.engine == r with
  | none => s
  | some w =>
    let jobs := s.blockJobs d w
    let recs := jobs.map fun j => (j, s.termsOf d j.id (s.samplesOf (s.jobControl d w j)))
    let s := recs.foldl (fun s p =>
      let (bs, s) := if bad.contains (p.1.n - w.desc.n0) then s.freeBytes 32 else (encodeTerms p.2, s)
      s.engineStore (w.desc.termBase + 32 * p.1.n) bs) s
    let s := s.when (w.desc.idBase ≠ 0) fun s =>
      jobs.foldl (fun s j => s.engineStore (w.desc.idBase + 4 * j.n) (leBytes 4 j.id)) s
    let s := s.when (recs.any fun p => p.2.kin && !p.2.void) fun s => s.event (rReEvents d) 3
    let s := if 2 ≤ w.desc.kind then s.endDirect d w jobs
      else if s.profile = 3 then { s with plan := { s.plan with ended := s.plan.ended ++
        [⟨d, w.desc.kind, w.desc.round, w.desc.n0,
          (List.range 1024).map fun c => s.pairAt w.desc.termBase w.desc.collBase (w.desc.n0 + c)⟩] } }
      else s
    let x := s.die d
    s.setDie d { x with reWork := x.reWork.filter fun q => q.engine != r }

/-- The first status other than DONE that a block's stores meet (R3, R329, R342, R365). -/
def State.blockStatus (s : State) (d : Die) (r : Nat) : Nat :=
  match (s.die d).reWork.find? fun w => w.engine == r with
  | none => 0
  | some w =>
    let spans := fun (j : SlotJob) => [(w.desc.termBase + 32 * j.n, 32), (w.desc.collBase + 16 * j.n, 16)] ++
      (if w.desc.idBase ≠ 0 then [(w.desc.idBase + 4 * j.n, 4)] else []) ++
      (if 2 ≤ w.desc.kind then [(w.desc.sampBase + s.outputBytes * j.n, s.outputBytes)] else [])
    s.firstStatus ((s.blockJobs d w).flatMap spans)

/-! ### Heap engine (R257 to R269) -/

/-- Elements of the lists of a Heap descriptor. -/
def State.heapElements (s : State) (lists : List (Nat × Nat)) : List Element :=
  lists.flatMap fun p => (s.readElements false p 0).filter Element.valid

/-- The Heap memory where the queue lies (R257), 16 bytes an entry: the layout of its entries is open, so they read as free
bytes (notes/assumptions/45.md). -/
def State.touchHeap (s : State) (d : Die) (n : Nat) : State :=
  let (bs, s) := s.freeBytes (16 * n)
  s.storeWin d 0x3900000 bs

/-- Elements inserted, with a visit count of 0 (R259, R263, R269). -/
def State.heapInsertAll (s : State) (d : Die) (es : List Element) : State :=
  let x := s.die d
  let (q, n) := es.foldl (fun (a : List HeapEntry × Nat) e =>
    let r := heapInsert heapCap ⟨heapKey e.merit e.id, e.merit, 0⟩ a.1
    (r.1, a.2 + bnat r.2)) (x.heap, 0)
  let s := (s.setDie d { x with heap := q }).touchHeap d q.length
  s.when (n != 0) fun s => (s.count (rHeapDropped d) n).event (rHeapEvents d) 1

/-- The elements that a die's heap takes from the survivor lists (R263, R435). -/
def State.heapShare (s : State) (d : Die) (es : List Element) : List Element :=
  if s.profile = 1 ∨ s.profile = 2 then es.filter fun e => idAnchor e.id / s.groupSize % 2 == d.idx
  else if d = .s0 then es else []

/-- A round expanded: the parent table's ID, MERIT, VISIT and reserved bytes (R264, R265). -/
def State.expandRound (s : State) (d : Die) (round : Nat) : State :=
  let x := s.die d
  let rf := s.theImage.refine
  let (slots, q, empty, drops) := heapRound rf rf.parents x.heap
  let s := (s.setDie d { x with heap := q }).touchHeap d x.heap.length
  let base := s.parentStart d
  let s := slots.zipIdx.foldl (fun s p =>
    let e := match p.1 with
      | some v => leBytes 4 v.1 ++ leBytes 4 v.2.1 ++ leBytes 1 v.2.2 ++ [0, 0, 0]
      | none => leBytes 4 invalidId ++ List.replicate 8 0
    let o := s.parentOfs d round (base + p.2)
    (s.storeWin d o e).storeWin d (o + 0x30) (List.replicate 16 0)) s
  let s := s.count (rHeapExpanded d) (rf.parents - empty)
  let s := s.when (empty != 0) fun s => s.event (rHeapEvents d) 3
  s.when (drops != 0) fun s => (s.count (rHeapDropped d) drops).event (rHeapEvents d) 1

/-- A Heap task done. -/
def State.doHeap (s : State) (d : Die) (x : HeapDesc) : State :=
  match x.kind with
  | 0 => s.heapInsertAll d (s.heapShare d (s.heapElements x.lists))
  | 1 => s.expandRound d x.round
  | _ => s.heapInsertAll d (s.heapElements x.lists)

/-- An uncorrectable error that a Heap task meets in the Heap memory (R261). -/
def State.heapError (s : State) (d : Die) : State :=
  let (f, s) := s.freeWord
  s.heapFault d (f.toNat % 1048576)

/-- The Heap descriptor of a task. -/
def State.heapDesc (s : State) (d : Die) (t : Nat) : Option HeapDesc :=
  (Config.parseHeapDesc (s.load ((s.engCfg d).task t).desc 64)).bind fun x =>
    let ls := x.lists.filterMap fun p => (s.resolve d p.1).map fun a => (a, p.2)
    if ls.length = x.lists.length then some { x with lists := ls } else none

/-! ### The mover (R336) -/

/-- The task that runs on an engine changed. -/
def State.mapRunning (s : State) (d : Die) (cls e : Nat) (f : Running → Running) : State :=
  let x := s.die d
  s.setDie d { x with ovm := { x.ovm with running := x.ovm.running.map fun r => if r.cls = cls ∧ r.engine = e then f r else r } }

/-- The task of a mover changed. -/
def State.mapMover (s : State) (d : Die) (f : Running → Running) : State := s.mapRunning d 4 0 f

/-- A status other than DONE recorded: the first stands. -/
def State.failMover (s : State) (d : Die) (st : Nat) : State :=
  s.mapMover d fun (r : Running) => { r with status := if r.status = 0 then st else r.status }

/-- PUTs of a re-shard of the mover in ascending order: here at once, or to another node. -/
def State.movePieces (s : State) (d : Die) (dst : Nat) (bs : List Byte) : List (Nat × Nat) → State
  | [] => s
  | (a, n) :: ps =>
    let data := (bs.drop (a - dst)).take n
    if nodeOf a = s.node then
      let (s, st) := if s.crossDown (some d) (localOf a) n then (s, 6) else s.putHere (localOf a) data
      (s.when (st != 0) fun s => s.failMover d st).movePieces d dst bs ps
    else
      match s.issueRemote 1 (nodeOf a) a data (.mover d) with
      | (s, none) => s.movePieces d dst bs ps
      | (s, some st) => (s.failMover d st).movePieces d dst bs ps

/-- Whether an operation of the mover is outstanding. -/
def State.moverWaits (s : State) (d : Die) : Bool :=
  s.kl.ops.any fun o => match o.issuer with | .mover g => g == d | _ => false

/-- The arrival counter that a re-shard's SIGNAL increments, none where the destination is no Stope die (R336, R338). -/
def moverCounter (dst sig : Nat) : Option Nat :=
  match areaOf (localOf dst) 8 with
  | some ar => ar.die.map fun g => nodeOf dst * 2 ^ 48 + winBaseOf g + 0x3B00000 + 8 * sig
  | none => none

/-- The next stage of a re-shard once no operation of it is outstanding: the SIGNAL after the PUTs, then its end. -/
def State.advanceMover (s : State) (d : Die) (dst sig : Nat) : State :=
  match (s.die d).ovm.on 4 0 with
  | none => s
  | some r =>
    if s.moverWaits d ∨ r.stage = 2 then s
    else if r.status ≠ 0 ∨ r.stage = 1 then s.mapMover d fun (q : Running) => { q with stage := 2 }
    else match moverCounter dst sig with
      | none => s.mapMover d fun (q : Running) => { q with stage := 2 }
      | some c =>
        if nodeOf c = s.node then
          let (s, st) := s.signalHere 0 [] (localOf c)
          let s := s.when (st != 0) fun s => s.failMover d st
          s.mapMover d fun (q : Running) => { q with stage := 2 }
        else
          let s := s.mapMover d fun (q : Running) => { q with stage := 1 }
          match s.issueRemote 7 (nodeOf c) c (leBytes 8 c) (.mover d) with
          | (s, none) => s
          | (s, some st) => (s.failMover d st).mapMover d fun (q : Running) => { q with stage := 2 }

/-- Destination and SIG of the re-shard that the mover carries (R334, R336). -/
def State.moverTarget (s : State) (d : Die) : Nat × Nat :=
  match (s.die d).ovm.on 4 0 with
  | none => (0, 0)
  | some r => r.target

/-- The return of an operation of the mover. -/
def State.moverReturn (s : State) (d : Die) (status : Nat) : State :=
  let s := s.when (status != 0) fun s => s.failMover d status
  let g := s.moverTarget d
  s.advanceMover d g.1 g.2

/-- The source of a re-shard read piece by piece (R336, R338): the state, the first status other than DONE, the bytes.
`fault` is what the read of the first piece met (R346, R353, R354). -/
def State.readMove (s : State) : Nat → List (Nat × Nat) → List Byte → State × Nat × List Byte
  | _, [], bs => (s, 0, bs)
  | fault, (a, n) :: ps, bs =>
    let (s, st, got) := s.getFaulty a n fault
    if st = 0 then s.readMove 0 ps (bs ++ got) else (s, st, bs)

/-- A re-shard starts: its reads, and its PUTs issued. False where a reference names no allocated buffer. -/
def State.startMove (s : State) (d : Die) (r : Running) (fault : Nat) : State × Bool :=
  let b := s.load ((s.engCfg d).task r.task).desc 32
  match s.resolve d (fieldU b 0 8), (s.resolveField d (fieldU b 8 8)).map (s.groupDst d r.task) with
  | some src, some dst =>
    let len := fieldU b 0x10 4
    let (s, st, bs) := s.readMove fault (pageSpans src len) []
    let s := if st ≠ 0 then s.failMover d st else s.movePieces d dst bs (pageSpans dst len)
    (s.advanceMover d dst (fieldU b 0x14 2), true)
  | _, _ => (s, false)

/-! ### Dispatch (R326, R332 to R334) -/

/-- Whether a test slice runs on the unit behind an engine of a class (R484): slices of rollout, Select and Heap engines
have the classes of their tasks. -/
def DieState.underSlice (x : DieState) (cls e : Nat) : Bool :=
  x.slices.any fun t => decide (1 ≤ cls ∧ cls ≤ 3) && t.1 == cls && t.2.1 == (if cls = 1 then x.reActive.getD e 16 else e)

/-- Whether an engine can take a task: idle, in service, clocked, not under a test slice, and not held by software. -/
def State.engineIdle (s : State) (d : Die) (cls e : Nat) : Bool :=
  let x := s.die d
  s.clocked d && (x.engines cls).contains e && (x.ovm.on cls e).isNone && !x.underSlice cls e &&
    (match cls with
     | 2 => (!x.sel.any fun w => w.engine == e) && (!x.selFetch.any fun f => f.1 == e) && !s.fenced (206 + 2 * d.idx + e)
     | 4 => !s.fenced (204 + d.idx)
     | 5 => !x.ihaul.any fun h => h.1 == e
     | _ => true)

/-- A reference to a buffer that is not allocated fails the task (R334). -/
def State.badRef (s : State) (d : Die) (r : Running) : State := (s.event (rOvmEvents d) 3).failTask d r 1

/-- The copy of a task's descriptor that its engine is handed (R334). -/
def State.hand (s : State) (d : Die) (cls engine t : Nat) : Running :=
  let r := Running.on cls engine t
  match cls with
  | 0 => { r with op := s.paDesc d t }
  | 3 => { r with heap := s.heapDesc d t }
  | 4 =>
    let b := s.load ((s.engCfg d).task t).desc 32
    { r with target := (((s.resolveField d (fieldU b 8 8)).map (s.groupDst d t)).getD 0, fieldU b 0x14 2) }
  | 2 => { r with sel := (s.resolveSel d (decodeSelDesc (s.load ((s.engCfg d).task t).desc 64))).map fun x =>
             if x.op = 4 then { x with dst := s.groupDst d t x.dst } else x }
  | 5 => { r with body := (s.resolveDesc d (s.load ((s.engCfg d).task t).desc 32)).getD [] }
  | _ => r

/-- The engine starts its task; a descriptor that lies nowhere in the local map fails it (R329, R342). -/
def State.startTask (s : State) (d : Die) (r : Running) (fault : Nat) : State :=
  let desc := ((s.engCfg d).task r.task).desc
  let st := s.spanStatus desc (if 4 ≤ r.cls then 32 else 64)
  if st ≠ 0 then s.failTask d r st else
  match r.cls with
  | 0 => s.startOp d r.task
  | 1 =>
    match Config.parseReDesc (s.load desc 64) with
    | none => s
    | some x =>
      match s.resolveRe d x with
      | none => s.badRef d r
      | some y => s.startBlock d r.task r.engine y
  | 2 =>
    match r.sel with
    | none => s.badRef d r
    | some y => s.startSel d r.engine y false
  | 3 =>
    match Config.parseHeapDesc (s.load desc 64), r.heap with
    | some _, none => s.badRef d r
    | _, some x => if x.kind = 1 then s.setDie d { s.die d with round := x.round, roundOn := true } else s
    | _, _ => s
  | 4 =>
    match s.startMove d r fault with
    | (s, true) => s
    | (s, false) => s.badRef d r
  | _ =>
    if r.body.isEmpty then s.badRef d r
    else
      let x := s.die d
      let h := { Chain.begin_ desc with body := r.body }
      (s.setDie d { x with ihaul := x.ihaul ++ [(r.engine, true, h)] }).setReg (rIhaulChBytes d r.engine) 0

/-- Entries that an engine passes over for want of pages begin to wait (R333). -/
def State.allocWait (s : State) (d : Die) (ts : List Nat) : State :=
  let x := s.die d
  let new := ts.filter fun t => !x.ovm.starved.any fun w => w.1 == t
  (s.setDie d { x with ovm := { x.ovm with starved := x.ovm.starved ++ new.map fun t => (t, s.now) } }).event
    (rOvmEvents d) 1

/-- The entry that an engine would take, and the entries it passes over. -/
def State.pickTask (s : State) (d : Die) (cls e : Nat) : Option Nat × List Nat := 
  (s.die d).ovm.select (s.engCfg d) (s.admits d e) cls

/-- Whether a lower idle engine takes the same entry (R326). -/
def State.outranked (s : State) (d : Die) (cls e t : Nat) : Bool :=
  (List.range e).any fun q => s.engineIdle d cls q && (s.pickTask d cls q).1 == some t

/-- Whether a policy-array task may not start yet. -/
def State.heldBack (s : State) (d : Die) (cls t : Nat) : Bool := cls == 0 && !s.paMayStart d t

/-- Whether another idle engine would allocate pages now for a task of lower index, which is served first (R333). -/
def State.allocYields (s : State) (d : Die) (t : Nat) : Bool :=
  let o := (s.die d).ovm
  let c := s.engCfg d
  o.allocates c t && (List.range 6).any fun k => (List.range (engineCount k)).any fun q =>
    s.engineIdle d k q && (match (s.pickTask d k q).1 with
      | some u => decide (u < t) && o.allocates c u && !s.heldBack d k u
      | none => false)

/-- A task given to an engine (R326, R332, R334): taken off its list, its buffer allocated, its descriptor handed over. -/
def State.giveTask (s : State) (d : Die) (cls engine t fault : Nat) : State :=
  let s := s.chargeWaits d
  let x := s.die d
  let o := x.ovm.alloc (s.engCfg d) ((s.engCfg d).task t)
  let o := { o with lists := setD [] cls ((o.lists.getD cls []).erase t) o.lists
                    starved := o.starved.filter fun w => w.1 != t }
  let s := s.setDie d { x with ovm := o }
  let r := s.hand d cls engine t
  (s.setDie d { x with ovm := { o with running := o.running ++ [r] } }).startTask d r fault

/-- The spans that the start of a task reads, or writes at once: its descriptor, an operation's paged weights, what a re-shard
moves. -/
def State.startSpans (s : State) (d : Die) (cls t : Nat) : List (Nat × Nat) :=
  let desc := ((s.engCfg d).task t).desc
  (desc, if 4 ≤ cls then 32 else 64) :: match cls with
    | 0 => match s.paDesc d t with
      | some p => ((s.netOp p.1 p.2).map fun o => s.weightSpans d d p.1 p.2 o).getD []
      | none => []
    | 4 =>
      let b := s.load desc 32
      let span := fun (a : Option Nat) => match a with
        | some a => if nodeOf a = s.node then [(localOf a, fieldU b 0x10 4)] else []
        | none => []
      span (s.resolve d (fieldU b 0 8)) ++ span ((s.resolveField d (fieldU b 8 8)).map (s.groupDst d t))
    | _ => []

/-- TASK_DISPATCH (R326, R358, R359): an idle engine takes the first entry of its class list that it may run. -/
def execTaskDispatch (d : Die) (cls : Nat) (by_ : Starter) (s : State) : Out :=
  whenNamed (decide (cls < 6) && decide (by_.engine < engineCount cls))
    (s.when (s.tick.live && !s.tick.stopped && (s.die d).power == 2 && s.dies.contains d && s.engineIdle d cls by_.engine)
      fun s =>
        let (pick, passed) := s.pickTask d cls by_.engine
        let s := s.when (!passed.isEmpty) fun s => s.allocWait d passed
        match pick with
        | none => s
        | some t =>
          if s.outranked d cls by_.engine t || s.heldBack d cls t || s.allocYields d t then s
          else s.afterFront (s.startSpans d cls t) fun s =>
            (s.when (cls == 0) fun s => s.countDramCe d by_.ce).giveTask d cls by_.engine t by_.fault)

/-- READY_LIST_ENTRY (R328): the first waiting entry of a class enters its list, and an engine whose completion waited for
it is free. -/
def execReadyListEntry (d : Die) (cls : Nat) (s : State) : Out :=
  whenNamed (decide (cls < 6))
    (let s := s.chargeWaits d
     let x := s.die d
     match x.ovm.waiting.getD cls [] with
     | [] => s
     | t :: rest => s.when (x.ovm.room cls) fun s =>
       let l := x.ovm.lists.getD cls [] ++ [t]
       let o := { x.ovm with waiting := setD [] cls rest x.ovm.waiting, lists := setD [] cls l x.ovm.lists
                             peaks := setD 0 cls (max (x.ovm.peaks.getD cls 0) l.length) x.ovm.peaks }
       let s := s.setDie d { x with ovm := o }
       s.setDie d { x with ovm := { o with running := o.running.filter fun r => !(r.ended && !s.blocksOn d r.task) } })

/-! ### Completion (R327, R329) -/

/-- Whether operations of a final list that a Select engine sends to its group are outstanding (R436). -/
def State.listOut (s : State) (d : Die) (e : Nat) : Bool := d == .s0 && s.kl.ops.any fun o => o.issuer == .list e

/-- Whether the work of a task has come to an end with the status that the command names. -/
def State.workEnded (s : State) (d : Die) (r : Running) (status : Nat) : Bool :=
  let x := s.die d
  match r.cls with
  | 1 => status != 0 || s.blockSwept d r.engine
  | 2 => !(x.sel.any fun w => w.engine == r.engine) && !s.listOut d r.engine
  | 4 => r.stage == 2
  | 5 => !x.ihaul.any fun h => h.1 == r.engine
  | _ => true

/-- The status with which a task ends: of a Select engine, the mover and a channel it is what they hold. -/
def State.endStatus (s : State) (d : Die) (r : Running) (status : Nat) : Nat :=
  match r.cls with
  | 1 => if status = 0 then s.blockStatus d r.engine else status
  | 2 => if r.status = 0 then bits (s.reg (rSelEStatus d r.engine)) 11 8 else r.status
  | 3 => if status = 0 then s.firstStatus ((r.heap.map fun x => x.lists.map fun p => (p.1, 8 * p.2)).getD []) else status
  | 4 => r.status
  | 5 => bits (s.reg (rIhaulChStatus d r.engine)) 7 4
  | _ => status

/-! ### The lists of a planning group (R436, R437) -/

/-- The 64-byte entry of a list element (R437): packed key, KNOTS, DURATION, reserved bytes 0. -/
def State.groupEntry (s : State) (e : Element) : List Byte :=
  if e.valid then leBytes 8 e.key ++ encodeKnots (s.controlOf .s0 e.id) ++ List.replicate 20 0 else List.replicate 64 0

/-- The entries of a node's top K_FINAL formed where its PUT reads them (R436 step 2). -/
def State.formEntries (s : State) (es : List Element) : State :=
  s.storeWin .s0 (s.engCfg .s0).entryBase (es.flatMap s.groupEntry)

/-- The entry that a key of the collector's table names, among those of its group's areas (R436 step 3, R437). -/
def State.entryNamed (s : State) (table k key : Nat) : List Byte :=
  let at_ := fun (i : Nat) => s.load (table + 8 * k + 64 * i) 64
  match (List.range (s.groupSize * k)).find? fun i => key != 0 && fieldU (at_ i) 0 8 == key with
  | some i => at_ i
  | none => List.replicate 64 0

/-- The final list built by the collector from the entries that the keys name (R436 step 3). -/
def State.buildFinal (s : State) (keys : List Nat) : State :=
  match s.image.bind (·.links) with
  | none => s
  | some l => s.storeWin .s0 (s.engCfg .s0).finalBase (keys.flatMap (s.entryNamed (l.kTable % 2 ^ 48) keys.length))

/-- An operation of the final list issued; a status that completes it at once is the task's. -/
def State.issueList (s : State) (e op addr : Nat) (data : List Byte) : State :=
  match s.issueRemote op (nodeOf addr) addr data (.list e) with
  | (s, none) => s
  | (s, some st) => s.mapRunning .s0 2 e fun (q : Running) => { q with status := if q.status = 0 then st else q.status }

/-- The final list of `k` entries sent to every other node of the group, with a SIGNAL to each task that follows the merge
(R436 step 4). DESIGN CHOICE (notes/assumptions/122.md): by PUTs to the place the list has here, and to the arrival counters that
the successors of the collector's merge have here. -/
def State.sendFinal (s : State) (r : Running) (k : Nat) : State :=
  let base := winBaseOf .s0 + (s.engCfg .s0).finalBase
  let bs := s.load base (64 * k)
  let s := s.mapRunning .s0 2 r.engine fun (q : Running) => { q with stage := 1 }
  s.groupNodes.foldl (fun s n =>
    let at_ := fun (a : Nat) => n * 2 ^ 48 + a
    let s := (pageSpans base (64 * k)).foldl (fun s p => s.issueList r.engine 1 (at_ p.1) ((bs.drop (p.1 - base)).take p.2)) s
    ((s.engCfg .s0).successors r.task).foldl (fun s u =>
      let c := at_ (winBaseOf .s0 + 0x3B00000 + 8 * u)
      s.issueList r.engine 7 c (leBytes 8 c)) s) s

/-- The descriptor of the collector's merge of its table's keys (R436 step 3), none of another task. -/
def State.mergeDesc (s : State) (d : Die) (r : Running) : Option SelDesc :=
  if r.cls = 2 ∧ s.groupsMerge d r.task then r.sel else none

/-- The collector's merge has ended: the final list is built from the entries that its keys name, and sent (R436 steps 3 and
4). -/
def State.mergeFinal (s : State) (r : Running) (x : SelDesc) : State :=
  let es := (chunksOf 8 x.k (s.load x.dst (8 * x.k))).map (decodeElement x.outKey)
  (s.buildFinal (es.map fun e => if e.valid then e.key else 0)).sendFinal r x.k

/-- What the end of a node's KEYINS of SELECT brings in a group: the node's own entries (R436 step 2). -/
def State.groupMerge (s : State) (d : Die) (r : Running) : State :=
  match r.sel with
  | none => s
  | some x =>
    s.when (decide (1 < s.groupSize) && d == .s0 && ((s.engCfg d).task r.task).phase == 4 && x.op == 4) fun s =>
      s.formEntries ((chunksOf 8 x.count (s.load x.src (8 * x.count))).map (decodeElement x.inKey))

/-- The effect of a task's work that its end brings. -/
def State.endWork (s : State) (d : Die) (r : Running) (bad : List Nat) : State :=
  match r.cls with
  | 0 => s.endOp d r.op bad
  | 1 => s.endBlock d r.engine bad
  | 2 => s.groupMerge d r
  | 3 => match r.heap with | some x => s.doHeap d x | none => s
  | _ => s

/-- What an error of a task's engine brings beside the failed task. -/
def State.failWork (s : State) (d : Die) (r : Running) (status : Nat) : State :=
  match r.cls with
  | 0 => s.failOp d r.op status
  | 1 => s.setDie d { s.die d with reWork := (s.die d).reWork.filter fun w => w.engine != r.engine }
  | 3 => s.when (status = 3) fun s => s.heapError d
  | _ => s

/-- Durations of the work of a phase on a die, once its last task has ended (CE.SWEEP_NS, HEAP.REF_NS). -/
def State.phaseNs (s : State) (d : Die) (t : Nat) : State :=
  let ph := ((s.engCfg d).task t).phase
  let ns : Word := BitVec.ofNat 32 (satNat 32 (s.now - (s.tick.tk + s.phaseAt ph)))
  if s.phaseTasksDone d ph then
    (if ph = 2 then s.setReg (rCeSweepNs d) ns else if ph = 3 then s.setReg (rHeapRefNs d) ns else s)
  else s

/-- What a task's work met at the memories: corrected errors in those of its class (R182, R353), contested Gallery cycles
(R344). -/
def State.taskMet (s : State) (d : Die) (cls ce : Nat) (ports : List (Nat × List Nat)) : State :=
  let ar : Area := match cls with
    | 0 => .policy d 0
    | 1 => .reLocal d 0
    | 2 => .selBuf d 0
    | 3 => .heapMem d 0
    | _ => .gallery d 0
  ((List.range ce).foldl (fun s _ => s.countCe ar) s).contendOn d ports

/-- An operation of a second or third run ended by the array of a die with a status (R182, R186, R188): DONE, or an
uncorrectable error, which stops the network on both dies. -/
def State.endRerun (s : State) (n : Nat) (d : Die) (status ce dram : Nat) (bad : List Nat) : State :=
  let op := (s.die d).paOp
  s.when (s.rerunning n d) fun s =>
    s.afterFront (((s.netOp n op).map fun o => s.weightSpans d (s.runHalf d) n op o).getD []) fun s =>
      let s := (s.taskMet d 0 ce []).countDramCe d dram
      if status = 0 then s.rerunOp n d bad else s.failOp d (some (n, op)) status

/-- A task ended with the status of its work. -/
def State.closeTask (s : State) (d : Die) (r : Running) (status : Nat) (bad : List Nat) : State :=
  let st := s.endStatus d r status
  if st = 0 then ((((s.endWork d r bad).completeTask d r).phaseNs d r.task).beginReruns).tryPropose
  else (s.failWork d r st).failTask d r (st % 16)

/-- The collector's merge ends (R436): it sends the final list first, and ends once no operation of that is outstanding. -/
def State.endMerge (s : State) (d : Die) (r : Running) (x : SelDesc) (status : Nat) (bad : List Nat) : State :=
  let s := s.mergeFinal r x
  if s.listOut d r.engine then s
  else match (s.die d).ovm.on r.cls r.engine with
    | some q => s.closeTask d q status bad
    | none => s

/-- A task ended by its engine (R327, R329). -/
def State.endTask (s : State) (d : Die) (cls engine status ce : Nat) (ports : List (Nat × List Nat))
    (bad : List Nat) : State :=
  match (s.die d).ovm.on cls engine with
  | none => s
  | some r =>
    if r.ended || !s.workEnded d r status then s
    else
      let s := s.taskMet d cls ce ports
      match if r.stage = 0 ∧ s.endStatus d r status = 0 then s.mergeDesc d r else none with
      | some x => s.endMerge d r x status bad
      | none => s.closeTask d r status bad

end Sys2Proof.Machine
end

