-- ==== Sys2Proof/Machine/Final.lean ====
section
/-! DEFINITION. SELECT and EMIT (R274 to R295): the end of the final-clearance pass, the votes, the walk-down, the plan
record, and the command TASK_COMPLETE. -/

namespace Sys2Proof.Machine
open Sys2Proof

/-! ### The final-clearance pass (R275 to R280) -/

/-- What the run of a candidate outside a sweep leaves: its record pair, and how many of its samples were DENSE and unknown. -/
structure PairRun where
  pair    : List Byte
  dense   : Nat
  unknown : Nat
  deriving DecidableEq, Repr, Inhabited

/-- The accumulator of a slot over samples from `t` on (R214), and how many of them were DENSE and unknown: in direct mode with the
tick's urgent records (R223). -/
def State.checkFrom (s : State) (d : Die) (view : FieldView) (direct : Bool) :
    List (Nat × Pose) → SlotRec → Nat → Nat → SlotRec × Nat × Nat
  | [], acc, n, k => (acc, n, k)
  | (t, p) :: ps, acc, n, k =>
    let urgent := if direct then s.urgentRecs t else []
    let c := checkOne s.theImage.check view (decodeSlice (s.agentBytes d t)) urgent p t acc
    s.checkFrom d view direct ps c.rec_ (n + bnat c.dense) (k + bnat c.unknown)

/-- The run of a candidate on logical engine `l` of a die: its pair is the term record, then the collision record (R280). -/
def State.runPair (s : State) (d : Die) (l slot id : Nat) (direct : Bool) (ss : List Sample) : PairRun :=
  let p := ((s.die d).engineOf l).getD 0
  let bad := s.anchorBad d id
  let poses := ss.zipIdx.map fun q => (q.2, poseOf s.rolloutCfg q.1 slot bad)
  let (r, n, k) := s.checkFrom d (s.fieldView d p) direct poses (SlotRec.init (id == invalidId)) 0 0
  ⟨encodeTerms (s.termsOf d id ss) ++ encodeSlot r, n, k⟩

/-- The die of the recheck copies (R279). -/
def State.copyDie (s : State) : Die := if s.dual then .s1 else .s0

/-- The die of a run of the pass: S0, or that of the recheck copies. -/
def State.passDie (s : State) (copy : Bool) : Die := if copy then s.copyDie else .s0

/-- The run of list position `i` in the pass. `copy` asks for the recheck copy (R276, R279). -/
def State.passRun (s : State) (copy : Bool) (i id : Nat) : PairRun :=
  let d := s.passDie copy
  s.runPair d (listEngine i (bnat copy) (s.die d).rAct) (i % 1024) id true (s.samplesOf (s.entryControl d i id))

/-- The record pair that the block of list position `i` left, none where the image's graph has run no block for it. -/
def State.blockPair (s : State) (copy : Bool) (i : Nat) : Option (List Byte) :=
  (s.plan.passRecs.find? fun r => r.1 == 2 + bnat copy && r.2.1 == i).map (·.2.2)

/-- The record pair of list position `i` after the pass: as its block left it; where the image's graph runs no block for it,
as a run of it gives it (R276, R278). -/
def State.passPair (s : State) (copy : Bool) (i id : Nat) : List Byte :=
  (s.blockPair copy i).getD (s.passRun copy i id).pair

/-- The samples of a run outside a sweep counted at its die (R290). -/
def State.countRun (s : State) (d : Die) (r : PairRun) : State := s.countSamples d r.dense r.unknown

/-- The runs of the pass that no block has made, at list positions `is`, counted. -/
def State.countRuns (s : State) (copy : Bool) (is : List Nat) : State :=
  let l := s.finalList
  is.foldl (fun s i => match placedId l i with
    | some id => s.when (s.blockPair copy i).isNone fun s => s.countRun (s.passDie copy) (s.passRun copy i id)
    | none => s) s

/-- The samples that the pass has checked outside its blocks counted (R290). -/
def State.countPass (s : State) : State :=
  let l := s.finalList
  (s.countRuns false (List.range (l.length + 1))).countRuns true (s.recheckSet l)

/-- A list entry with the record pair of its run: its final merit is R232 over it (R278). -/
def State.withPair (s : State) (e : FinalEntry) (pair : List Byte) : FinalEntry :=
  let terms := decodeTerms (pair.take 32)
  let slot := decodeSlot (pair.drop 32)
  { e with terms := terms, slot := slot, merit := meritOf s.theImage.cost terms slot e.id }

/-- The entry at a list position after the pass (R278). -/
def State.finalEntry (s : State) (i id listed : Nat) (checked : Bool) : FinalEntry :=
  let e : FinalEntry := { id := id, listed := listed, merit := 0, terms := default, slot := default
                          samples := s.samplesOf (s.entryControl .s0 i id), checked := checked }
  s.withPair e (s.passPair false i id)

/-- The list as the pass placed it: entries in rank order, then the fallback. -/
def State.passList (s : State) : List FinalEntry :=
  let l := s.finalList
  let set := s.recheckSet l
  (List.range (l.length + 1)).filterMap fun i =>
    (placedId l i).map fun id => s.finalEntry i id (l.getD i (0, 0)).2 (set.contains i)

/-- Merge mismatches whose ID a record comparison also holds are not voted again (R282). -/
def dropVoted (l : List VoteItem) : List VoteItem :=
  l.filter fun v => v.kind != 2 || !(l.any fun w => w.kind != 2 && w.id == v.id)

/-- The entries of the recheck set whose pair differs from that of the copy, bit for bit (R280). -/
def State.passMismatches (s : State) : List VoteItem :=
  let l := s.finalList
  (s.recheckSet l).filterMap fun i => (placedId l i).bind fun id =>
    let a := s.passPair false i id
    let b := s.passPair true i id
    if a = b then none else some ⟨0, id, i, a, b, 0, 0, 0, 0, true⟩

/-- The candidate of slot `n` of a sweep (kind 0) or of a round (R268). -/
def State.sweptId (s : State) (kind round n : Nat) : Nat :=
  if kind = 0 then (if n < s.cap then s.localId n else invalidId)
  else
    let par := s.parentId .s0 round (n / 8)
    if par = invalidId ∨ 8 * s.theImage.refine.parents ≤ n then invalidId else childId par round (n / 8) (n % 8)

/-- The slots of a block whose record pair on S0 differs from the copy of S1's, bit for bit (R281). -/
def State.blockMismatches (s : State) (a b : EndedBlock) : List VoteItem :=
  (List.range 1024).filterMap fun c =>
    let n := a.n0 + c
    let x := a.pairs.getD c []
    let y := b.pairs.getD c []
    if x = y then none else some ⟨1, s.sweptId a.kind a.round n, n, x, y, 0, 0, 0, 0, true⟩

/-- The block of S1 that an ended block of S0 is compared with. -/
def State.twinOf (s : State) (a : EndedBlock) : Option EndedBlock :=
  if a.die = .s0 then
    s.plan.ended.find? fun b => b.die == .s1 && b.kind == a.kind && b.round == a.round && b.n0 == a.n0
  else none

/-- The blocks of both dies that can be compared. -/
def State.twins (s : State) : List (EndedBlock × EndedBlock) :=
  s.plan.ended.filterMap fun a => (s.twinOf a).map fun b => (a, b)

/-- What both dies have swept compared: the mismatches are held for the vote pass (R281). DESIGN CHOICE
(notes/assumptions/128.md): the blocks of a round that the time-up abandoned (R271) among them, where both dies had ended them. -/
def State.compareSwept (s : State) : State :=
  let pairs := s.twins
  let found := pairs.flatMap fun p => s.blockMismatches p.1 p.2
  let left := s.plan.ended.filter fun e => !pairs.any fun p => p.1 == e || p.2 == e
  let s := s.when (!found.isEmpty) fun s => s.event (rHeapEvents .s0) 6
  { s with plan := { s.plan with votesDue := s.plan.votesDue ++ found, ended := left } }

/-- The comparison of what both dies have swept in CROSSWIND (R281). -/
def State.endSweepCompare (s : State) : State :=
  s.when (s.profile == 3 && decide (3 ≤ s.tick.rel ∧ s.tick.rel ≤ 5) && !s.tick.stopped && !s.plan.passed && s.dies.all s.clocked)
    fun s =>
    s.compareSwept

/-- The sample outputs of the list's entries that no block has run (R278). -/
def State.writeOutputs (s : State) : State :=
  let l := s.finalList
  (List.range (l.length + 1)).foldl (fun s i =>
    match placedId l i with
    | none => s
    | some id => s.when (s.blockPair false i).isNone fun s =>
        s.storeWin .s0 ((s.engCfg .s0).outputBase + s.outputBytes * i)
          ((s.samplesOf (s.entryControl .s0 i id)).flatMap encodeOutput)) s

/-- The end of the pass (R278, R280, R282, R283), on dies whose clocks run (R590); what both dies have swept and is not yet
compared is compared first (R274, R281). -/
def State.endPass (s : State) : State :=
  s.when (decide (5 ≤ s.tick.rel) && !s.tick.stopped && !s.plan.passed &&
      s.dies.all fun d => s.clocked d && s.phaseTasksDone d 4) fun s =>
    let s := s.compareSwept
    let held := s.passMismatches
    let due := dropVoted (s.plan.votesDue ++ held)
    let over_ := decide (16 < due.length)
    let s := s.when (!held.isEmpty) fun s => s.event (rHeapEvents .s0) 6
    let s := { s with plan := { s.plan with final := s.passList, passed := true, votesDue := if over_ then [] else due } }
    (s.when over_ fun s => s.invalid reasonCheck).writeOutputs.countPass

/-! ### Votes (R282 to R284) -/

/-- The logical engine of a held record's copy on a die: the other copy of a final-clearance entry has shift 1 (R276,
R282). -/
def State.copyEngine (s : State) (d : Die) (v : VoteItem) (other : Bool) : Nat :=
  let r := (s.die d).rAct
  if v.kind = 0 then listEngine v.n (bnat other) r
  else engineOfSlot (v.n / 1024 % max 1 r) (v.n % 1024)

/-- Die and engine of the dissenting copy (R284): `side` 0, the other copy dissents, else S0's. -/
def State.dissent (s : State) (v : VoteItem) (side : Nat) : Nat × Nat :=
  let other := decide (side = 0)
  if v.kind = 2 then
    let s0 := v.dieHi = 0
    (if decide s0 == other then v.dieLo else v.dieHi, 0x7F)
  else
    let die := if other then s.copyDie else Die.s0
    (die.idx, ((s.die die).engineOf (s.copyEngine die v other)).getD 0x7F)

/-- The merit that a merge vote settles: S0's copy for side 0, the other's for side 1 (R282). -/
def votedMerit (v : VoteItem) (side : Nat) : Nat := if decide (v.dieHi = 0) == decide (side = 0) then v.hi else v.lo

/-- The logical engine of S0 that a third run takes (R282): shift 2. -/
def State.thirdEngine (s : State) (v : VoteItem) : Nat :=
  let r := (s.die .s0).rAct
  if v.kind = 1 then 4 * ((v.n / 1024 % max 1 r + 2) % max 1 r) + (v.n % 1024 / 256 + 2) % 4
  else listEngine v.n 2 r

/-- The control of a third run: of a list entry as the pass took it, else regenerated from the ID (R282). -/
def State.thirdControl (s : State) (v : VoteItem) : Control :=
  if v.kind ≠ 1 ∧ v.inList then s.entryControl .s0 v.n v.id else s.controlOf .s0 v.id

/-- A third run on S0: with the urgent list for a final-clearance entry only (R282). -/
def State.thirdPair (s : State) (v : VoteItem) : PairRun :=
  s.runPair .s0 (s.thirdEngine v) (v.n % 1024) v.id (v.kind == 0) (s.samplesOf (s.thirdControl v))

/-- What a third run's pair sides with (R282): S0's copy (0), the other copy (1), neither (2); of a merge mismatch by its
merit. -/
def State.sideOf (s : State) (v : VoteItem) (pair : List Byte) : Nat :=
  if v.kind = 2 then
    let m := meritOf s.theImage.cost (decodeTerms (pair.take 32)) (decodeSlot (pair.drop 32)) v.id
    if m = votedMerit v 0 then 0 else if m = votedMerit v 1 then 1 else 2
  else if pair = v.mine then 0 else if pair = v.other then 1 else 2

/-- What the third run of a held mismatch sides with; a pair that came out wrong is free bytes
(notes/assumptions/3.md). -/
def State.thirdSide (s : State) (v : VoteItem) (bad : Bool) : Nat × State :=
  if bad then
    let (bs, s) := s.freeBytes 48
    (s.sideOf v bs, s)
  else (s.sideOf v (s.thirdPair v).pair, s)

/-- Rank order by the merit of the list, the fallback last (R284). -/
def rerank (fallback : Nat) (l : List FinalEntry) : List FinalEntry :=
  sortBy (fun a b => decide (b.id = fallback) || (decide (a.id ≠ fallback) &&
    decide (heapKey b.listed b.id ≤ heapKey a.listed a.id))) l

/-- What a majority does to the tick (R284). -/
def State.applyVote (s : State) (v : VoteItem) (side : Nat) : State :=
  if v.kind = 1 then s.when (side = 1) fun s => s.invalid reasonCheck
  else if v.kind = 2 then
    let m := votedMerit v side
    if v.inList then
      let put := fun (e : FinalEntry) => if e.id = v.id then { e with listed := m } else e
      { s with plan := { s.plan with final := rerank fallbackId (s.plan.final.map put) } }
    else s.when (decide (v.lo < m)) fun s => s.invalid reasonCheck
  else s.when (side = 1) fun s =>
    let put := fun (e : FinalEntry) => if e.id = v.id then s.withPair e v.other else e
    { s with plan := { s.plan with final := s.plan.final.map put } }

/-- A vote counted: the item is no longer due. -/
def State.countVote (s : State) (v : VoteItem) : State :=
  let s := { s with plan := { s.plan with votesDue := s.plan.votesDue.filter (fun w => w != v)
                                          votes := s.plan.votes + 1 } }
  s.count (rHeapVotesTotal .s0) 1

/-- A vote that a third run settles, or fails to (R283, R284). -/
def State.settleVote (s : State) (v : VoteItem) (side : Nat) : State :=
  if side < 2 then
    let g := s.dissent v side
    let s := (s.event (rHeapEvents .s0) 7).log warn 0x0331 (tallySource 1 5 0)
      (leBytes 4 v.id ++ leBytes 1 g.1 ++ leBytes 1 g.2)
    ({ s with plan := { s.plan with degraded := true } }).applyVote v side
  else (s.event (rHeapEvents .s0) 8).invalid reasonVoteFail

/-- A third run of the vote pass (R282 to R284), on S0 while its clock runs (R590). -/
def State.vote (s : State) (id : Nat) (bad : Bool) : State :=
  match s.plan.votesDue.find? fun v => v.id == id with
  | none => s
  | some v =>
    s.when (s.plan.passed && !s.plan.walked && !s.tick.stopped && s.clocked .s0) fun s =>
      let (side, s) := (s.countRun .s0 (s.thirdPair v)).thirdSide v bad
      (s.countVote v).settleVote v side

/-! ### Walk-down and record (R286 to R291, R295) -/

/-- The entry of the fallback. -/
def State.fallbackEntry (s : State) : Option FinalEntry := s.plan.final.find? fun e => e.id == fallbackId

/-- List entries of the pass without the fallback. -/
def State.listEntries (s : State) : List FinalEntry := s.plan.final.filter fun e => e.id != fallbackId

/-- The first entry whose final merit is greater than 0, with its position (R286). -/
def State.chosen (s : State) : Option (FinalEntry × Nat) :=
  s.listEntries.zipIdx.find? fun p => decide (0 < p.1.merit)

/-- OUTCOME of HEAP.FC_STATUS: 0 list entry, 1 fallback, 2 emergency stop, 3 INVALID. -/
def State.outcome (s : State) : Nat :=
  if s.plan.cause.isSome then 3
  else if s.chosen.isSome then 0
  else match s.fallbackEntry with
    | some e => if 0 < e.merit then 1 else 2
    | none => 2

/-- The elements of the final list (R275, R296): its K_FINAL entries, padding among them, and the fallback. -/
def State.listElements (s : State) : List Element :=
  let own := s.listEntries.map fun (e : FinalEntry) => (⟨e.id, e.merit, 0⟩ : Element)
  own ++ List.replicate (s.img (·.select.kFinal) - own.length) ⟨invalidId, 0, 0⟩ ++
    (s.fallbackEntry.toList.map fun (e : FinalEntry) => ⟨e.id, e.merit, 0⟩)

/-- The walk-down (R286, R287), on S0 while its clock runs (R590): HEAP.FC_STATUS, FC_NS and the events of what was chosen. -/
def State.walkDown (s : State) : State :=
  s.when (s.plan.passed && !s.plan.walked && s.plan.votesDue.isEmpty && !s.tick.stopped && s.clocked .s0) fun s =>
    let out := s.outcome
    let pos := if out = 0 then (match s.chosen with | some p => p.2 | none => 0x7FF) else 0x7FF
    let cleared := s.listEntries.countP fun e => decide (0 < e.merit)
    let s := s.setReg (rHeapFcStatus .s0)
      (packFields [(0, pos % 2048), (11, out), (16, min 255 s.plan.votes), (24, min 255 cleared)])
    let s := s.setReg (rHeapFcNs .s0) (BitVec.ofNat 32 (satNat 32 (s.now - (s.tick.tk + s.phaseAt 4))))
    let unchecked := decide (out = 0) && (match s.chosen with | some p => !p.1.checked | none => false)
    let s := s.when (out = 1) fun s => s.event (rHeapEvents .s0) 4
    let s := s.when (out = 2) fun s => s.event (rHeapEvents .s0) 5
    let s := s.when unchecked fun s => s.event (rHeapEvents .s0) 9
    let s := { s with plan := { s.plan with walked := true, degraded := s.plan.degraded || unchecked } }
    s.trace .s0 2 s.listElements

/-- The emergency stop's record (R287, R288). -/
def State.stopBody (s : State) (flags : Nat) : RecordBody :=
  { id := emergencyId, merit := 0, flags := flags, reason := 0x21, position := 0xFFFF, minClr := 0x7FFF
    samples := s.samplesOf (s.controlOf .s0 emergencyId) }

/-- The VALID record of the tick (R286 to R290). -/
def State.validBody (s : State) : RecordBody :=
  let flags := fun (kind : Nat) (e : Option FinalEntry) =>
    1 + kind + s.causeFlags + 256 * bnat (match e with | some x => x.slot.has flagUnknown | none => false)
  match s.chosen with
  | some p =>
    { id := p.1.id, merit := p.1.merit, flags := flags 0 (some p.1), reason := 0, position := p.2
      minClr := p.1.slot.minClr, samples := p.1.samples }
  | none =>
    match s.fallbackEntry with
    | some e =>
      if 0 < e.merit then
        { id := fallbackId, merit := e.merit, flags := flags 4 (some e), reason := 0x20, position := 0xFFFF
          minClr := 0x7FFF, samples := e.samples }
      else s.stopBody (flags 8 none)
    | none => s.stopBody (flags 8 none)

/-- EMIT (R295, R458): the record is formed, offered to its channel and handed to the Deputy. -/
def State.emitRecord (s : State) : State :=
  s.when (decide (6 ≤ s.tick.rel) && !s.tick.stopped && s.plan.record.isNone &&
      (s.plan.walked || s.plan.cause.isSome)) fun s =>
    match s.plan.cause with
    | some c => s.writeInvalid c
    | none => s.formRecord s.validBody

/-! ### TASK_COMPLETE -/

/-- TASK_COMPLETE (R327): what ends, as its operand says. -/
def execTaskComplete (d : Die) (t : Nat) (what : Ending) (s : State) : Out :=
  let on := s.tick.live && s.dev == .running
  match what with
  | .task cls engine status ce ports bad =>
    whenNamed (decide (cls < 6) && decide (engine < engineCount cls))
      (s.when (on && !s.tick.stopped) fun s => (s.advance t).endTask d cls engine status ce ports bad)
  | .rerun net die status ce dram bad =>
    .next (s.when on fun s => (s.advance t).endRerun net (Die.ofIdx die) status ce dram bad)
  | .compare net die => .next (s.when on fun s => (s.advance t).compareNet net (Die.ofIdx die))
  | .third net die => .next (s.when on fun s => (s.advance t).thirdRun net (Die.ofIdx die))
  | .pass => .next (s.when on fun s => (s.advance t).endPass)
  | .sweepCompare => .next (s.when on fun s => (s.advance t).endSweepCompare)
  | .vote id bad => .next (s.when on fun s => (s.advance t).vote id bad)
  | .walkDown => .next (s.when on fun s => (s.advance t).walkDown)
  | .emit => .next (s.when on fun s => (s.advance t).emitRecord)

end Sys2Proof.Machine
end

