-- ==== Sys2Proof/Machine/Slices.lean ====
section
/-! DEFINITION. The rolling in-field test (R160, R196, R484 to R487): slices, retirements decided by them, and the age of
the oldest untested unit. Classes: 0 collision, 1 rollout, 2 Select, 3 Heap, 4 row group (DEPUTY.TEST_AGE). -/

namespace Sys2Proof.Machine
open Sys2Proof

/-- Length of a class's slice in ns (R484). -/
def sliceNs (cls : Nat) : Nat := if cls = 0 then 180000 else 40000

/-- Units of a class per die (R484). -/
def sliceUnits (cls : Nat) : Nat := [68, 16, 2, 1, 9].getD cls 0

/-- Phases whose releases bound the start of a class's slice (R484). -/
def boundPhases (cls : Nat) : List Nat := [[], [2, 3, 4, 5], [2, 3, 4], [3], [1]].getD cls []

/-- Whether a slice of a class runs on a die. -/
def DieState.slicing (x : DieState) (cls : Nat) : Bool := x.slices.any fun t => t.1 == cls

/-- Whether a slice that starts at `t` ends 5 µs before every next release of a bounding task (R485). -/
def State.gapFits (s : State) (cls t : Nat) : Bool :=
  let by_ := t + sliceNs cls + 5000
  (boundPhases cls).all fun p =>
    (!(s.tick.live && !s.tick.stopped && decide (s.tick.rel ≤ p)) || decide (by_ ≤ s.tick.tk + s.phaseAt p)) &&
      decide (by_ ≤ s.tick.expect + s.phaseAt p)

/-- The unit whose turn it is in the rotation of a class of `n` units: the first in service from `p` on (R484). -/
def turnOf (ins : Nat → Bool) (n p : Nat) : Option Nat := ((List.range n).map fun k => (p + k) % n).find? ins

/-- Whether the unit is the next of its class's rotation, in service and without work: of the collision engines the one under
test (R160, R196, R484). -/
def State.unitFree (s : State) (d : Die) (cls unit : Nat) : Bool :=
  let x := s.die d
  match cls with
  | 0 => (match x.ces[unit]? with | some c => c.role == .test | none => false)
  | 1 => turnOf x.reIn.contains 16 x.reTest == some unit && !(x.ovm.running.any fun r => r.cls == 1 && x.reActive[r.engine]? == some unit)
  | 2 => turnOf (fun e => !x.seOut.contains e) 2 x.seTest == some unit && !(x.sel.any fun w => w.engine == unit)
  | 3 => !x.heapOut && unit == 0 && (x.ovm.on 3 0).isNone
  | 4 => x.rowTest == unit && !x.paBusy && !(s.tick.live && s.tick.rel == 2 && !s.tick.stopped && !s.plan.proposeOk)
  | _ => false

/-- TEST_SLICE_START (R160, R196, R484, R485): a collision engine's slice while its die is powered, the others in the gaps
of the phases while RUNNING and at any time in HOLD and STOPPED. -/
def execTestSliceStart (d : Die) (cls unit t : Nat) (s : State) : Out :=
  whenNamed (decide (cls < 5) && decide (unit < sliceUnits cls))
    (let x := s.die d
     let idle := s.dev == .hold || s.dev == .stopped
     s.when (x.power == 2 && !x.slicing cls && s.unitFree d cls unit &&
        (cls == 0 || idle || (s.dev == .running && s.gapFits cls t))) fun s =>
      let s := s.advance t
      let x := s.die d
      s.setDie d { x with slices := x.slices ++ [(cls, unit, t)] })

/-- The result of a slice on its unit (R160, R196, R487). -/
def DieState.sliceResult (x : DieState) (cls unit : Nat) (passed : Bool) : DieState :=
  let add := fun (l : List Nat) => if passed || l.contains unit then l else l ++ [unit]
  match cls with
  | 0 => { (x.mapCe unit fun c => { c with slices := c.slices + 1, failed := c.failed || !passed, testOk := passed }) with
           ceFail := !passed }
  | 1 => { x with rePend := add x.rePend, reTest := (unit + 1) % 16 }
  | 2 => { x with sePend := add x.sePend, seTest := (unit + 1) % 2 }
  | 3 => { x with heapPend := x.heapPend || !passed }
  | _ => { x with rowTest := (unit + 1) % 9, rowFail := !passed, rowPend := add x.rowPend }

/-- Unit class of a slice class in the SOURCE field of a Tally entry. -/
def sliceSource (cls : Nat) : Nat := [1, 2, 4, 5, 3].getD cls 0

/-- Whether the end of a collision engine's slice is a rotation point (R196); in RUNNING with no tick in progress, before
T_0, there is no phase 5 budget to end, and it is none (notes/assumptions/114.md). -/
def State.atRotation (s : State) (t : Nat) : Bool :=
  s.dev != .running ||
    (s.tick.live && decide (s.tick.tk + s.phaseEnd 5 < t) && decide (t + 5000 ≤ s.tick.expect))

/-- TEST_SLICE_END (R160, R196, R487). -/
def execTestSliceEnd (d : Die) (cls unit t : Nat) (passed : Bool) (s : State) : Out :=
  whenNamed (decide (cls < 5) && decide (unit < sliceUnits cls))
    (s.when ((s.die d).slices.any fun q => q.1 == cls && q.2.1 == unit && decide (q.2.2 + sliceNs cls ≤ t)) fun s =>
      let s := s.advance t
      let x := s.die d
      let x := ({ x with slices := x.slices.filter fun q => q.1 != cls
                         tested := (x.tested.filter fun (q : Nat × Nat × Int) => !(q.1 == cls && q.2.1 == unit)) ++
                            [(cls, unit, (s.now : Int))] }).sliceResult
        cls unit passed
      let s := s.setDie d x
      let s := s.when (cls = 4) fun s => s.count (rPaTestCount d) 1
      let s := s.when (cls = 0 && !passed) fun s => s.event (rCeEngEvents d unit) 3
      let s := s.when (!passed) fun s => s.log warn 0x0350 (tallySource (d.idx + 1) (sliceSource cls) unit) (leBytes 1 cls)
      s.when (cls = 0 && s.atRotation t) fun s => s.rotationPoint d (s.die d).rAct)

/-- LATENT (R486): a unit in service has not completed a slice for `ageMs`, 100 ms or more. -/
def execLatent (d : Die) (cls unit ageMs : Nat) (s : State) : Out :=
  whenNamed (decide (cls < 5) && decide (unit < sliceUnits cls))
    (s.when ((s.die d).inService cls unit && decide (100 ≤ ageMs)) fun s =>
      let s := s.advance ((s.die d).testedAt cls unit + 1000000 * (ageMs : Int)).toNat
      let age := s.testAge d cls unit / 1000000
      (s.event rDeputyEvents 4).log warn 0x0502
        (tallySource (d.idx + 1) (sliceSource cls) unit) (leBytes 1 cls ++ leBytes 4 age))

/-- TEST_OVERDUE (R486): a unit in service has not completed a slice for 1 s; the Deputy enters the safe state. -/
def execTestOverdue (t : Nat) (d : Die) (cls unit : Nat) (s : State) : Out :=
  whenNamed (decide (cls < 5) && decide (unit < sliceUnits cls))
    (s.when ((s.die d).inService cls unit && decide (1000000000 ≤ (s.advance t).testAge d cls unit)) fun s =>
      (s.advance t).enterSafe causeTestOverdue)

end Sys2Proof.Machine
end

