-- ==== Sys2Proof/Machine/Window.lean ====
section
/-! DEFINITION. The scrubbers (R353 to R355, R360), the BAR2 window (R377 to
R381, R538), and the remote operations performed for any issuer (R347 to R352). -/

namespace Sys2Proof.Machine
open Sys2Proof

/-! ### Remote operations at this device -/

/-- BCAST_RX and vector 5 with the last packet of a broadcast (R442): `left` others follow (notes/assumptions/52.md, 123.md). -/
def State.endRx (s : State) (left : Nat) : State := s.when (left == 0) fun s => (s.event rKlinkEvents 8).irq 5

/-- A remote operation performed here for a node (R347, R414): its response carries the status and, of a GET or an atomic
operation, data. The packet of a broadcast (9) is written where no guard or map refuses it, and not answered (R442). -/
def State.performNow (s : State) (op src tag addr len fault : Nat) (data : List Byte) : State :=
  let a := localOf addr
  let v := fieldU data 0 8
  let atomic := fun (f : Nat → Option Nat) =>
    if s.crossDown none a 8 then s.respond src tag 6 (List.replicate 8 0)
    else
      let (s, st, old) := s.atomicFaulty a fault f
      s.respond src tag st old
  match op with
  | 1 =>
    if s.crossDown none a data.length then s.respond src tag 6 []
    else
      let (s, st) := s.putHere a data
      s.respond src tag st []
  | 2 =>
    if s.crossDown none a len then s.respond src tag 6 (List.replicate len 0)
    else
      let (s, st, bs) := s.getFaulty a len fault
      s.respond src tag st bs
  | 3 => atomic fun o => some ((o + v) % 2 ^ 64)
  | 4 => atomic fun o => some (max o v)
  | 5 => atomic fun _ => some v
  | 6 => atomic fun o => if o = v then some (fieldU data 8 8) else none
  | 9 => (s.when (!s.crossDown none a data.length) fun s => (s.putHere a data).1).endRx tag
  | 7 =>
    if (decide (8 < data.length) && s.crossDown none a (data.length - 8)) || s.crossDown none (localOf v) 8 then
      s.respond src tag 6 []
    else
      let (s, st) := s.signalHere a (data.drop 8) (localOf v)
      s.respond src tag st []
  | _ => s

/-- The spans that a remote operation reaches here. -/
def StalledOp.spans (o : StalledOp) : List (Nat × Nat) :=
  let a := localOf o.addr
  match o.op with
  | 1 | 9 => [(a, o.data.length)]
  | 2 => [(a, o.len)]
  | 7 => (if o.data.length ≤ 8 then [] else [(a, o.data.length - 8)]) ++ [(localOf (fieldU o.data 0 8), 8)]
  | _ => [(a, 8)]

/-- Whether a remote operation waits: for the front of a DRAM's initialisation (R359), or behind an earlier one of its node that
does (R349). -/
def State.opWaits (s : State) (o : StalledOp) : Bool :=
  (o.spans.any fun p => s.stalls p.1 p.2) || s.kl.stalled.any fun q => q.src == o.src

/-- A remote operation performed, or held back while it waits. -/
def State.takeRemote (s : State) (o : StalledOp) : State :=
  if s.opWaits o then { s with kl := { s.kl with stalled := s.kl.stalled ++ [o] } }
  else s.performNow o.op o.src o.tag o.addr o.len o.fault o.data

/-- A remote operation that arrives for this device; one that waits for initialisation sets INIT_STALL (R359). -/
def State.performRemote (s : State) (op src tag addr len fault : Nat) (data : List Byte) : State :=
  let o : StalledOp := ⟨op, src, tag, addr, len, fault, data⟩
  let s := s.noteStalls (s.stalled o.spans)
  s.takeRemote o

/-- The remote operations that waited, once the front has moved. -/
def State.pumpStalled (s : State) : State :=
  s.kl.stalled.foldl (fun s o => s.takeRemote o) { s with kl := { s.kl with stalled := [] } }

/-- The data of a response that is not DONE (R352): zeros for a GET or an atomic operation. -/
def noData (op len : Nat) : List Byte :=
  if op = 2 then List.replicate len 0 else if 3 ≤ op ∧ op ≤ 6 then List.replicate 8 0 else []

/-- The operations for other nodes that wait here and meet a condition completed with a status, and what waited behind them taken
up (R362 to R364). -/
def State.failStalled (s : State) (meets : StalledOp → Bool) (status : Nat) : State :=
  let gone := s.kl.stalled.filter meets
  let s := { s with kl := { s.kl with stalled := s.kl.stalled.filter fun o => !meets o } }
  (gone.foldl (fun s o =>
    if o.op = 9 then s.endRx o.tag else s.respond o.src o.tag status (noData o.op o.len)) s).pumpStalled

/-! ### The BAR2 window -/

/-- A window access that completed with a status other than DONE recorded (R379). -/
def State.windowError (s : State) (status : Nat) (write : Bool) (ofs : Nat) : State :=
  ((s.setReg rHostWinErr (packFields [(0, status), (4, bnat write)])).setReg rHostWinErrOfs
    (BitVec.ofNat 32 (ofs % 2 ^ 30))).event rHostEvents 5

/-- The global address of a window offset (R377), whose base is a multiple of 1 GiB; before READY the window is fixed to hub
host staging, and an offset from 4 MiB on reaches nothing (R538). -/
def State.windowAddr (s : State) (ofs : Nat) : Option Nat :=
  if s.dev = .boot then (if ofs < 0x400000 then some (s.node * 2 ^ 48 + stagingBase + ofs) else none)
  else some ((s.pair rHostWinBaseLo rHostWinBaseHi / 2 ^ 30 * 2 ^ 30 + ofs) % 2 ^ 64)

/-- The read of a window completed (R379): DONE carries data, UE a poisoned completion, any other status zero data. -/
def State.windowReturn (s : State) (ofs len status : Nat) (data : List Byte) : State :=
  let s := s.when (status != 0) fun s => s.windowError status false ofs
  let bytes := if status = 0 then padTo len (data.drop (ofs % 8)) else List.replicate len 0
  s.emit (.window status (status == 3) bytes)

/-- The bits of GAL.WIN_STATUS that a host window read of a die's on-chip window leaves. -/
def State.winStatus (s : State) (a n bit_ : Nat) : State :=
  match areaOf a n with
  | some (.dram ..) | some (.staging _) | none => s
  | some ar => match ar.die with
    | some d => s.event (rGalWinStatus d) bit_
    | none => s

/-- A window read performed at this device: the aligned 8-byte words that hold it are read. -/
def State.windowReadHere (s : State) (a ofs len fault : Nat) : State :=
  let base := a / 8 * 8
  let n := ceilDiv (a % 8 + len) 8 * 8
  if s.crossDown none base n then s.windowReturn ofs len 6 []
  else
    let (s, st, bs) := s.getFaulty base n (if fault ≤ 2 then fault else 0)
    if st = 3 then (s.winStatus base n 1).windowReturn ofs len st []
    else if 4 ≤ fault ∧ st = 0 then
      match areaOf base n with
      | some (.gallery d _) =>
        let (free, s) := ((s.countBusy d 1).event (rGalWinStatus d) 0).freeBytes n
        s.windowReturn ofs len 0 free
      | _ => s.windowReturn ofs len st bs
    else s.windowReturn ofs len st bs

/-- A window read whose turn has come. -/
def State.windowRead (s : State) (x : WinAcc) : State :=
  match x.addr with
  | none => s.windowReturn x.ofs x.len 1 []
  | some g =>
    if nodeOf g = s.node then s.windowReadHere (localOf g) x.ofs x.len x.fault
    else
      match s.issueSized 2 (nodeOf g) (g / 8 * 8) (ceilDiv (g % 8 + x.len) 8 * 8) [] (.window false x.ofs x.len) with
      | (s, none) => s
      | (s, some st) => s.windowReturn x.ofs x.len st []

/-- The 32-bit words that a write of `n` bytes at `a` covers only in part. -/
def partWords (a n : Nat) : List Nat :=
  ((if a % 4 ≠ 0 ∨ n < 4 then [a / 4] else []) ++ (if (a + n) % 4 ≠ 0 then [(a + n) / 4] else [])).eraseDups

/-- The partial words of a write that port A wrote meanwhile left undefined (R351, R380): free bytes. -/
def State.raceWords (s : State) : List Nat → State
  | [] => s
  | w :: ws =>
    match areaOf (4 * w) 4 with
    | some (.gallery ..) =>
      let (free, s) := s.freeBytes 4
      (s.store (4 * w) free).raceWords ws
    | _ => s.raceWords ws

/-- Bytes written at this device through the window, partial words by read-modify-write (R380); `base` is the local address of the
access's first byte. -/
def State.windowWriteHere (s : State) (x : WinAcc) (base : Nat) : List (Nat × Nat) → State
  | [] => s
  | (a, n) :: ps =>
    let lo := a / 8 * 8
    let m := ceilDiv (a % 8 + n) 8 * 8
    let st := if s.crossDown none lo m then 6 else s.writeStatus lo m
    let s := s.writeEvents lo m st
    let s :=
      if st = 0 then
        (s.store a ((x.data.drop (a - base)).take n)).raceWords
          ((partWords a n).filter fun w => x.raced.contains ((x.ofs + (4 * w + 3 - base)) / 4))
      else s.windowError st true x.ofs
    s.windowWriteHere x base ps

/-- A write's piece of a page cut into whole 8-byte words and the bytes before and after them. -/
def wordSpans (a n : Nat) : List (Nat × Nat) :=
  let head := if a % 8 = 0 then 0 else min n (8 - a % 8)
  let mid := (n - head) / 8 * 8
  [(a, head), (a + head, mid), (a + head + mid, n - head - mid)].filter fun p => p.2 != 0

/-- An 8-byte word with the bytes of a partial write in it. -/
def mergeWord (addr : Nat) (data old : List Byte) : List Byte :=
  (old.take (addr % 8) ++ data ++ old.drop (addr % 8 + data.length)).take 8

/-- A partial word written at another node (R380): the word is read, then set by an ATOMIC CAS against what was read, until one
finds it unchanged, so that no other operation comes between. DESIGN CHOICE (notes/assumptions/122.md): which operations carry
it. -/
def State.mergeAsk (s : State) (ofs addr : Nat) (data : List Byte) (old : Option (List Byte)) : State × Option Nat :=
  let base := addr / 8 * 8
  match old with
  | none => s.issueSized 2 (nodeOf addr) base 8 [] (.merge ofs addr data none)
  | some w => s.issueRemote 6 (nodeOf addr) base (w ++ mergeWord addr data w) (.merge ofs addr data (some w))

/-- The next operation of a merge issued, or the status that ends it. -/
def State.mergeStep (s : State) (ofs addr : Nat) (data : List Byte) (old : Option (List Byte)) : State :=
  match s.mergeAsk ofs addr data old with
  | (s, none) => s
  | (s, some st) => s.windowError st true ofs

/-- A window write's bytes sent to another node: whole 8-byte words as PUTs, others merged (R348, R380). -/
def State.windowPut (s : State) (ofs a : Nat) (data : List Byte) : State :=
  if a % 8 = 0 ∧ data.length % 8 = 0 then
    match s.issueRemote 1 (nodeOf a) a data (.window true ofs data.length) with
    | (s, none) => s
    | (s, some st) => s.windowError st true ofs
  else s.mergeStep ofs a data none

/-- A window write whose turn has come. -/
def State.windowWrite (s : State) (x : WinAcc) : State :=
  match x.addr with
  | none => s.windowError 1 true x.ofs
  | some g =>
    let pieces := pageSpans g x.data.length
    if nodeOf g = s.node then s.windowWriteHere x (localOf g) (pieces.map fun p => (localOf p.1, p.2))
    else
      (pieces.flatMap fun p => wordSpans p.1 p.2).foldl (fun s p =>
        s.windowPut x.ofs p.1 ((x.data.drop (p.1 - g)).take p.2)) s

/-- Whether a BAR2 write is outstanding. -/
def State.windowWrites (s : State) : Bool :=
  s.kl.ops.any fun o => match o.issuer with
    | .window w _ _ => w
    | .merge .. => true
    | _ => false

/-- The aligned span that an access reaches here. -/
def State.accSpan (s : State) (x : WinAcc) : List (Nat × Nat) :=
  match x.addr with
  | some g => if nodeOf g = s.node then [(localOf g / 8 * 8, ceilDiv (g % 8 + x.len) 8 * 8)] else []
  | none => []

/-- Whether an access waits for the front of a DRAM's initialisation here (R359). -/
def State.accStalls (s : State) (x : WinAcc) : Bool := (s.accSpan x).any fun p => s.stalls p.1 p.2

/-- BAR2 accesses performed in arrival order, each once no earlier write is outstanding and the front of initialisation has
passed it (R349, R359, R381); a FENCE among them completes once every operation before it has (R347). -/
def State.pumpWindow (s : State) : List WinAcc → State
  | [] => { s with host := { s.host with reads := [] } }
  | x :: rest =>
    if x.fence then
      if s.outstanding 210 then { s with host := { s.host with reads := x :: rest } }
      else (s.emit (.response s.node 210 0 [])).pumpWindow rest
    else if s.windowWrites || s.accStalls x then { s with host := { s.host with reads := x :: rest } }
    else (if x.write then s.windowWrite x else s.windowRead x).pumpWindow rest

/-- The accesses that wait and meet a die's memory completed with a status, and what waited behind them taken up (R362 to R364). -/
def State.failReads (s : State) (d : Die) (status : Nat) : State :=
  let meets := fun x => spansReach d (s.accSpan x)
  let gone := s.host.reads.filter meets
  let s := { s with host := { s.host with reads := s.host.reads.filter fun x => !meets x } }
  let s := gone.foldl (fun s x =>
    if x.write then s.windowError status true x.ofs else s.windowReturn x.ofs x.len status []) s
  s.pumpWindow s.host.reads

/-- The accesses that wait taken up as far as they may be. -/
def State.drainReads (s : State) : State := s.pumpWindow s.host.reads

/-- A BAR2 access that arrives: its address is that of the base in force (R378). -/
def State.takeAccess (s : State) (x : WinAcc) : State :=
  let s := s.noteStalls (s.stalled (s.accSpan x))
  s.pumpWindow (s.host.reads ++ [x])

/-- BAR2_READ (R344, R345, R377 to R379, R381). -/
def execBar2Read (ofs len : Nat) (met : ReadMet) (s : State) : Out :=
  .next (s.when (!s.host.d3) fun s =>
    (s.contendAll met.ports).takeAccess ⟨false, false, ofs, s.windowAddr ofs, len, met.fault, [], []⟩)

/-- BAR2_WRITE (R344, R377 to R381, R538). -/
def execBar2Write (ofs : Nat) (w : WinWrite) (s : State) : Out :=
  .next (s.when (!s.host.d3) fun s =>
    (s.contendAll w.ports).takeAccess ⟨false, true, ofs, s.windowAddr ofs, w.data.length, 0, w.data, w.raced⟩)

/-- A write of HOST.WIN_BASE (R378): its low 30 bits are written as 0. -/
def State.setWinBase (s : State) (hi : Bool) (v : Word) : State :=
  if hi then s.rewrite rHostWinBaseHi v else s.rewrite rHostWinBaseLo (v &&& 0xC0000000#32)

/-- WIN_BASE (R378): accesses that arrived before it have their addresses. -/
def execWinBase (hi : Bool) (v : Word) (s : State) : Out :=
  .next (s.write32 (if hi then rHostWinBaseHi else rHostWinBaseLo) fun s => s.setWinBase hi v)

/-! ### Scrubbers (R355, R358, R360) -/

/-- A scrub read of an SRAM word: 0 no error, 1 corrected, 2 uncorrectable; `ms` the length of a full pass that ends
with it, 0 where none does. -/
def State.scrubSram (s : State) (d : Die) (ofs err ms : Nat) : State :=
  let a := winBaseOf d + ofs
  let s := s.when (ms != 0) fun s =>
    let r := s.reg (rGalScrub d)
    s.setReg (rGalScrub d) (packFields [(0, min 65535 (bits r 15 0 + 1)), (16, min 65535 ms)])
  match windowArea d ofs 4, err with
  | some ar, 1 => s.countCe ar
  | some _, 2 =>
    let s := (s.setReg (rGalUeAddr d) (BitVec.ofNat 32 ((a - winBaseOf d) % 67108864))).event (rGalEvents d) 2
    s.log warn 0x0210 (tallySource (d.idx + 1) 6 0) (leBytes 4 ofs)
  | _, _ => s

/-- SRAM_SCRUB (R353, R355). -/
def execSramScrub (d : Die) (ofs err ms : Nat) (s : State) : Out :=
  .next (s.when ((s.die d).power == 2) fun s => s.scrubSram d ofs err ms)

/-- DRAM_SCRUB (R358, R360): a read at a DRAM offset of the die; `passEnd` ends a full pass. -/
def execDramScrub (d : Die) (addr err : Nat) (passEnd : Bool) (s : State) : Out :=
  .next (s.when (decide (addr < s.usable d)) fun s =>
    let s := s.when passEnd fun s => s.setField (rDmcScrub d) 15 0 (min 65535 (bits (s.reg (rDmcScrub d)) 15 0 + 1))
    match err with
    | 1 => s.countCe (.dram d addr)
    | 2 =>
      let s := (s.setPair (rDmcUeAddrLo d) (rDmcUeAddrHi d) (dramBase d + addr)).count (rDmcEccUe d) 1
      (s.event (rDmcEvents d) 2).log warn 0x0211 (tallySource (d.idx + 1) 6 0) (leBytes 8 (dramBase d + addr))
    | _ => s)

/-- REFRESH (R360): refresh and scrub time of the tick, and the rate the temperature report asks for. -/
def execRefresh (d : Die) (derate : Bool) (ns : Nat) (s : State) : Out :=
  let was := bit (s.reg (rDmcStatus d)) 2
  let s := (s.count (rDmcBusyNs d) ns).setField (rDmcStatus d) 2 2 (bnat derate)
  .next (s.when (derate && !was) fun s => s.event (rDmcEvents d) 5)

end Sys2Proof.Machine
end

