-- ==== Sys2Proof/Machine/Deputy.lean ====
section
/-! DEFINITION. The Deputy: the check of a plan record and its verdict (R458 to R475, R483), the safe-state causes of its
monitors (R451, R476, R479, R590), and the Deputy SPI port (R494 to R497). -/

namespace Sys2Proof.Machine
open Sys2Proof

/-! ### The record under check -/

/-- Sample `t` of a record (R289). -/
def recSample (r : List Byte) (t : Nat) : Sample :=
  let b := (r.drop (64 + 16 * t)).take 16
  { x := fieldS b 0 4, y := fieldS b 4 4, heading := fieldU b 8 2, speed := fieldU b 10 2, curv := fieldS b 12 2, artic := 0
    acc := fieldS b 14 2, kin := false }

/-- FLAGS of a record. -/
def recFlags (r : List Byte) : Nat := fieldU r 0x1C 2

/-- ID of a record. -/
def recId (r : List Byte) : Nat := fieldU r 0x10 4

/-- Check 1: the CRC over header and samples (R293). -/
def recCrcOk (r : List Byte) : Bool := (crc32 (r.take 0x3C ++ r.drop 64)).toNat == fieldU r 0x3C 4

/-- Check 3: the header (R459). -/
def State.headerOk (s : State) (r : List Byte) : Bool :=
  let c := s.rolloutCfg
  let d := s.dep
  let f := recFlags r
  let flag := fun (n : Nat) => f / 2 ^ n % 2 == 1
  let id := recId r
  let merit := fieldU r 0x14 4
  let fb := id == fallbackId
  let em := id == emergencyId
  fieldU r 0 8 == d.tick && fieldU r 0x18 4 == d.epoch && fieldU r 8 8 == d.tk + c.planOfsUs * 1000 &&
    fieldU r 0x20 4 == c.dtUs && fieldU r 0x24 2 == c.nSamp && fieldU r 0x26 2 == s.node % 65536 &&
    (flag 0 != flag 1) && (flag 2 == fb) && (flag 3 == em) && (!em || merit == 0) &&
    (fb || em || (decide (idOrigin id < 2) && decide (idAnchor id < c.anchorCount) && decide (0 < merit) &&
      decide (fieldU r 0x28 2 < s.img (·.select.kFinal)))) &&
    fieldU r 0x2C 1 == min 255 d.urgCount

/-- Check 4: every active die reports as many completed canaries as it has serving engines (R483). -/
def State.canariesIn (s : State) : Bool :=
  s.dies.all fun d => s.dep.canary.any fun q => q.1 == d.idx && q.2.1 == (s.die d).serving

/-- The Deputy's own sample 0 (R460). -/
def State.depStart (s : State) : Sample :=
  let c := s.rolloutCfg
  let acc := match s.dep.ego with | some e => e.acc | none => 0
  sampleOf c (startState c s.dep.ego (s.dep.tk + c.planOfsUs * 1000), acc)

/-- Check 6 at a sample: the kinematic limits (R461). -/
def kinematicsOk (c : RolloutCfg) (x : Sample) : Bool :=
  decide (x.speed ≤ c.vMax) && decide (x.curv.natAbs ≤ c.kMax) && decide (c.aMin ≤ x.acc ∧ x.acc ≤ c.aMax) &&
    decide (((x.speed * x.speed * x.curv.natAbs) / 4194304 : Nat) ≤ c.latMax) && inInt32 x.x && inInt32 x.y

/-- Check 7 between two samples: step consistency (R462). -/
def stepOk (dtUs tolPos tolHdg : Nat) (a b : Sample) : Bool :=
  let dx := b.x - a.x
  let dy := b.y - a.y
  let len : Int := (isqrt (dx * dx + dy * dy).toNat / 4 : Nat)
  let dist : Int := ((a.speed + b.speed : Nat) * dtUs) / 500000
  let dh : Int := ((b.heading : Int) - a.heading + 32768) % 65536 - 32768
  let trn : Int := ((a.curv + b.curv) * dist * kAng) >>> 43
  decide ((len - dist).natAbs ≤ tolPos) && decide ((dh - trn).natAbs ≤ tolHdg)

/-! ### Clearance (R463 to R466) -/

/-- The mirror slice as a view (R456, R463): the origin is that of S0's pager. -/
def State.mirrorView (s : State) : FieldView :=
  { sx0 := s.d0.tx0 * 64, sy0 := s.d0.ty0 * 64, missing := s.dep.missing.toNat
    cells := (memRead 0x40000 0 s.dep.slice).toArray }

/-- The Deputy's footprint: with model M1 the tractor's elements alone (R463). -/
def State.depCheck (s : State) : CheckCfg :=
  let c := s.theImage.check
  if c.rollout.trailer then
    { c with world := { c.world with discs := c.world.discs.filter fun (d : Disc) => !d.trailer
                                     boxes := c.world.boxes.take 1 } }
  else c

/-- The pose of a record sample: a plan record carries no articulation. -/
def recPose (x : Sample) : Pose :=
  { x := x.x, y := x.y, heading := x.heading, artic := 0, slot := 0, kin := false, anchorInvalid := false }

/-- The least margin of each sample's discs, none where every disc is unknown. -/
def State.staticMargins (s : State) (ss : List Sample) : List (Option Int) :=
  let c := s.depCheck
  let view := s.mirrorView
  ss.map fun x => (discPass c (dfMargin c.world.m view) (recPose x)).2

/-- The least of the known margins. -/
def leastMargin (l : List (Option Int)) : Option Int :=
  l.foldl (fun a m => match a, m with
    | some x, some y => some (min x y)
    | none, y => y
    | x, none => x) none

/-- Check 9: MIN_CLR agreement (R464). -/
def State.minClrOk (s : State) (r : List Byte) (margins : List (Option Int)) : Bool :=
  let have_ := fieldS r 0x2A 2
  if fieldU r 0x28 2 = 0xFFFF then true
  else match leastMargin margins with
    | none => s.rolloutCfg.trailer || have_ == 0x7FFF
    | some g =>
      let v := clampInt (g >>> 4) (-32768) 32767
      if s.rolloutCfg.trailer then decide (have_ ≤ v) || v == 0x7FFF else have_ == v

/-- The inner ego box `k` of a pose (R465): the true box shrunk by its placement errors. -/
def innerBox (p : Pose) (b : EgoBox) : Box :=
  let q := place p.x p.y p.heading b.ox b.oy
  let e := q.2.2 + boxAngle b.hl b.hw
  { cx := q.1, cy := q.2.1, h := p.heading, hl := 4 * b.hl - e, hw := 4 * b.hw - e }

/-- A stored record as a box (R465). -/
def depBox (ex ey : Int) (q : DepRec) : Box :=
  { cx := ex + 256 * q.dx, cy := ey + 256 * q.dy, h := q.hdg * 256, hl := 512 * q.hl8, hw := 512 * q.hw8 }

/-- One axis of overlap_proved (R465): whether the projections certainly overlap on axis `k` of box `a`. -/
def axisProved (dx dy : Int) (a o : Box) (k : Nat) : Bool :=
  let io := headingIndex o.h
  let i := (headingIndex a.h + 1024 * k) % 4096
  let c := cosTab i
  let s := sinTab i
  let own : Nat := if k = 0 then a.hl else a.hw
  let proj : Nat := ((dx * c + dy * s).natAbs + 2 ^ 30 - 1) / 2 ^ 30
  let ca := (cosTab io * c + sinTab io * s).natAbs
  let cb := (cosTab io * s - sinTab io * c).natAbs
  let ext : Int := own + ((o.hl * ca + o.hw * cb) / 2 ^ 60 : Nat) - 3
  decide ((proj : Int) < ext)

/-- overlap_proved of R465: the boxes certainly intersect. -/
def overlapProved (p q : Box) : Bool :=
  let dx := q.cx - p.cx
  let dy := q.cy - p.cy
  axisProved dx dy p q 0 && axisProved dx dy p q 1 && axisProved dx dy q p 0 && axisProved dx dy q p 1

/-- The sieve of R466. -/
def sieve (p q : Box) : Bool :=
  let dx := q.cx - p.cx
  let dy := q.cy - p.cy
  let r : Int := (p.hl + p.hw + q.hl + q.hw : Nat)
  decide (dx * dx + dy * dy ≤ r * r)

/-- The stored records of a sample in the order of the pair cap (R466): ascending mode index, at equal index the
committed record first. The flag tells the urgent record. -/
def State.depAt (s : State) (t : Nat) : List (Nat × Bool × DepRec) :=
  let pick := fun (l : List (Nat × Nat × DepRec)) (u : Bool) =>
    (l.filter fun q => q.2.1 == t).map fun q => (q.1, u, q.2.2)
  sortBy (fun (a b : Nat × Bool × DepRec) => decide (a.1 < b.1) || (a.1 == b.1 && (!a.2.1 || b.2.1)))
    (pick s.dep.modes false ++ pick s.dep.urgent true)

/-- What the agent check finds at a sample: stored records M, pairs tested Q, whether pairs were left out, and the sum of
the probabilities proved (R465, R466). -/
structure AgentFind where
  stored : Nat
  tested : Nat
  capped : Bool
  sum    : Nat
  deriving DecidableEq, Repr

/-- The agent check of a sample (R465, R466). -/
def State.agentFind (s : State) (view : FieldView) (t : Nat) (x : Sample) : AgentFind :=
  let c := s.depCheck
  let recs := s.depAt t
  let bx := (cellOf x.x c.world.m - view.sx0) >>> 5
  let bY := (cellOf x.y c.world.m - view.sy0) >>> 5
  if bx < 0 ∨ bx > 15 ∨ bY < 0 ∨ bY > 15 then ⟨recs.length, 0, false, 0⟩
  else
    let (ex, ey) := match s.dep.ego with | some e => (e.x, e.y) | none => (0, 0)
    let boxes := c.world.boxes.map fun b => innerBox (recPose x) b
    let pairs := recs.zipIdx.flatMap fun q => boxes.filterMap fun p =>
      let b := depBox ex ey q.1.2.2
      if sieve p b then some (q.2, p, b, q.1.2.2.p8) else none
    let first := pairs.take 8
    let hits := (first.filter fun q => overlapProved q.2.1 q.2.2.1).map fun q => (q.1, q.2.2.2)
    let sum := ((hits.map fun h => h.1).dedup.map fun n =>
      match hits.find? fun h => h.1 == n with | some h => 256 * h.2 | none => 0).foldl (· + ·) 0
    ⟨recs.length, first.length, decide (8 < pairs.length), sum⟩

/-! ### The check (R458, R468, R469) -/

/-- What a check finds: the reason and sample of the first failing check, the events of CANARY_MISSING and PROOF_CAP,
and the Deputy cycles taken. -/
structure CheckFind where
  reason  : Nat
  sample  : Nat
  missing : Bool
  capped  : Bool
  cycles  : Nat
  deriving DecidableEq, Repr

/-- Index of the first sample in the list, from `k`, at which a test fails. -/
def firstBadFrom {α : Type} (bad : α → Bool) (k : Nat) (l : List α) : Option Nat :=
  (l.findIdx? bad).map fun i => k + i

/-- The checks of a VALID record (R458, R468). -/
def State.checkValid (s : State) (r : List Byte) : CheckFind :=
  let c := s.rolloutCfg
  let ss := (List.range c.nSamp).map (recSample r)
  let emergency := recFlags r / 8 % 2 == 1
  let canaries := s.canariesIn
  let early : List (Nat × Option Nat) :=
    [(0x03, if recCrcOk r then none else some 0xFFFF),
     (0x04, if s.headerOk r then none else some 0xFFFF),
     (0x0B, if canaries then none else some 0xFFFF),
     (0x05, if encodeSample s.depStart == (r.drop 64).take 16 then none else some 0)]
  let pick := fun (l : List (Nat × Option Nat)) => match l.find? fun p => p.2.isSome with
    | some p => (p.1, p.2.getD 0xFFFF)
    | none => (0, 0xFFFF)
  if emergency then
    let (a, b) := pick early
    ⟨a, b, !canaries, false, 5776⟩
  else
    let margins := s.staticMargins ss
    let view := s.mirrorView
    let every := max 1 (c.nSamp / 64)
    let finds := (ss.zipIdx.filter fun q => q.2 % every == 0).map fun q => (q.2, s.agentFind view q.2 q.1)
    let steps := (ss.zip (ss.drop 1)).map fun q => stepOk c.dtUs (s.img (·.safety.tolPos)) (s.img (·.safety.tolHdg)) q.1 q.2
    let late : List (Nat × Option Nat) :=
      [(0x06, firstBadFrom (fun x => !kinematicsOk c x) 1 (ss.drop 1)),
       (0x07, firstBadFrom (fun ok => !ok) 1 steps),
       (0x08, firstBadFrom (fun (m : Option Int) => match m with | some g => decide (g ≤ 0) | none => false) 0 margins),
       (0x09, if s.minClrOk r margins then none else some 0xFFFF),
       (0x0A, (finds.find? fun q => decide (s.img (·.cost.pLimit) ≤ q.2.sum)).map fun q => q.1),
       (0x0C, if s.dep.mirrorBad then some 0xFFFF else none)]
    let (a, b) := pick (early ++ late)
    let agents := (finds.map fun q => ceilDiv q.2.stored 16 + 8 * q.2.tested).foldl (· + ·) 0
    ⟨a, b, !canaries, finds.any fun q => q.2.capped, 5776 + c.nSamp * (4 * s.img (·.world.discs.length) + 8) + agents⟩

/-- The check of a record (R458): an INVALID one receives checks 1 and 2. -/
def State.checkRecord (s : State) (r : List Byte) : CheckFind :=
  if recFlags r / 2 % 2 = 1 then ⟨if recCrcOk r then 0x01 else 0x03, 0xFFFF, false, false, 5776⟩ else s.checkValid r

/-- ISSUE_VERDICT (R453, R458, R469, R474, R476, R483): the check in progress ends; an uncorrectable error in the Deputy's memory
ends it in the safe state without a verdict. A Deputy cycle lasts 2.5 ns. -/
def execIssueVerdict (met : CheckMet) (s : State) : Out :=
  .next (match s.dep.check with
    | none => s
    | some (r, _) =>
      let s := (s.advance met.t).count rDeputySramCe met.ce
      if met.ue then ({ s with dep := { s.dep with check := none } }).enterSafe causeDepSram else
      let f := s.checkRecord r
      let s := s.setReg rDeputyCheckNs (BitVec.ofNat 32 (f.cycles * 5 / 2))
      let s := s.when f.missing fun s => s.event rDeputyEvents 7
      let s := s.when f.capped fun s => s.event rDeputyEvents 6
      if f.reason = 0 then s.judge 1 0 0xFFFF (some r) else s.judge 2 f.reason f.sample (some r))

/-- VERDICT_LATE (R476): the Deputy's own check has not ended within 60 µs of the hand-over. -/
def execVerdictLate (t : Nat) (s : State) : Out :=
  .next (match s.dep.check with
    | none => s
    | some (_, at0) => s.when (decide (at0 + 60000 ≤ t)) fun s => (s.advance t).enterSafe causeVerdictLate)

/-! ### Monitors (R451, R476, R479) -/

/-- DEPUTY.CTRL.SAFE_REQ (R476). -/
def State.hostSafe (s : State) : State := s.enterSafe causeHostReq

/-- SAFE_REQ: DEPUTY.CTRL.SAFE_REQ written with 1. -/
def execSafeReq (t : Nat) (s : State) : Out :=
  .next (s.write32 rDeputyCtrl fun s => (s.advance t).hostSafe)

/-- LOCKSTEP (R451, R476). -/
def execLockstep (t : Nat) (s : State) : Out := .next ((s.advance t).enterSafe causeLockstep)

/-- A bit of CLKPWR.CLK_STATUS. -/
def State.setClock (s : State) (n : Nat) (on : Bool) : State :=
  let c := s.power.clocks
  let b := 2 ^ n
  { s with power := { s.power with clocks := if c / b % 2 = 1 then (if on then c else c - b) else if on then c + b else c } }

/-- The rails that the supply monitors watch: LM8400-AS does not those of S1 (R595). -/
def State.monitored (s : State) (n : Nat) : Bool := decide (n < 13) && (s.hasS1 || !([1, 4, 6, 8].contains n))

/-- Whether every monitored rail is within its operating range and SYSCLK and DEPCLK run (R597). -/
def State.inputsValid (s : State) : Bool :=
  (List.range 13).all (fun n => !s.monitored n || decide (s.power.rails / 2 ^ n % 2 = 1)) &&
    decide (s.power.clocks % 2 = 1) && decide (s.power.clocks / 8 % 2 = 1)

/-- The power-on reset is released once R597 is met. -/
def State.releasePor (s : State) : State :=
  s.when (s.sys.porHeld && s.inputsValid) fun s => { s with sys := { s.sys with porHeld := false } }

/-- A clock input lost (R590): CLK_LOST and vector 0. -/
def State.clockLost (s : State) (n : Nat) : State := ((s.setClock n false).event rClkpwrEvents 0).irq 0

/-- DEP_CLOCK (R476, R590, R597): the deviation of SYSCLK from DEPCLK in ppm; a measurement in range shows both to run. While a
reset is asserted the Deputy takes no cause. -/
def execDepClock (t : Nat) (ppm : Int) (s : State) : Out :=
  if s.sys.inReset then
    .next (if 10000 < ppm.natAbs then s.setClock 0 false else ((s.setClock 0 true).setClock 3 true).releasePor) else
  let s := s.advance t
  let s := s.setField rClkpwrSysclkDev 15 0 (unsignedOf 16 (clampInt ppm (-32767) 32767))
  .next (if 10000 < ppm.natAbs then (s.clockLost 0).monitor causeDepClock
         else ((s.setClock 0 true).setClock 3 true).causeOff causeDepClock)

/-- DEPCLK_LOST (R451, R590, R597): the Deputy enters the safe state on its own monitor; while a reset is asserted only the clock
stops. -/
def execDepclkLost (t : Nat) (s : State) : Out :=
  .next (if s.sys.inReset then s.setClock 3 false else ((s.advance t).clockLost 3).monitor causeDepClock)

/-- DEP_VOLT (R476): VDD_DEP in mV. -/
def execDepVolt (t mV : Nat) (s : State) : Out :=
  let s := s.advance t
  .next (if mV < 760 ∨ 840 < mV then s.monitor causeDepVolt else s.causeOff causeDepVolt)

/-- Junction temperatures measured (DEPUTY.TEMP): S1 reads 0 while gated. -/
def State.setTemps (s : State) (s0 s1 h : Nat) : State :=
  s.setReg rDeputyTemp (packFields [(0, min 1023 s0), (10, if s.d1.power = 0 then 0 else min 1023 s1), (20, min 1023 h)])

/-- Die temperature registers hold Tj as 4 (T + 64) (DEPUTY.TEMP). -/
def tempCode (c : Nat) : Nat := 4 * (c + 64)

/-- Whether a powered die or the hub reads at or above a temperature. -/
def State.anyHot (s : State) (c s0 s1 h : Nat) : Bool :=
  (decide (s.d0.power ≠ 0) && decide (tempCode c ≤ s0)) || (decide (s.d1.power ≠ 0) && decide (tempCode c ≤ s1)) ||
    decide (tempCode c ≤ h)

/-- THERM_N with its hysteresis (R479). -/
def State.thermPin (s : State) (s0 s1 h : Nat) : State :=
  let low := s.anyHot 118 s0 s1 h || (s.dep.thermLow && s.anyHot 116 s0 s1 h)
  { s with dep := { s.dep with thermLow := low } }

/-- An operation of a die's engine, mover or channel, or of a host-side channel, returned with a status and data. -/
def State.dieReturned (s : State) (who : Issuer) (status : Nat) (data : List Byte) : State :=
  match who with
  | .chain d e x r _ k => s.chainReturn d e x r k status data
  | .mover d => s.moverReturn d status
  | .list e => s.when (status != 0) fun s =>
      s.mapRunning .s0 2 e fun (q : Running) => { q with status := if q.status = 0 then status else q.status }
  | .channel ch ofs => s.chanResponse ch ofs status data
  | _ => s

/-- Every outstanding operation of a die's issuers completed with a status (R362, R364). -/
def State.failDieOps (s : State) (d : Die) (status : Nat) : State :=
  ((s.kl.ops.filter fun o => o.issuer.die == some d).map (·.tag)).foldl (fun s t =>
    match s.kl.ops.find? fun o => o.tag == t with
    | none => s
    | some o => (s.dropOps fun q => q.tag == t).dieReturned o.issuer status []) s

/-- Whether a chain moves data to or from a die, or is one of the die's own. -/
def State.chainMeets (s : State) (d : Die) (ch : Nat) : Bool :=
  match s.chainOf ch with
  | none => false
  | some h => ixFrom ch == some d ||
      ((h.step == .moving || h.step == .reading || h.step == .writing) && spansReach d (s.deviceHere ch h))

/-- The chains that meet a die (R363, R364). -/
def State.dieChains (s : State) (d : Die) : List Nat := (List.range 204).filter fun ch => s.chainMeets d ch

/-- Whether transfers to or from a die are in flight: chains, what its engines and mover have outstanding at other nodes, a copy of
the store to S1 (R71), and accesses to its memories that wait here. -/
def State.dieBusy (s : State) (d : Die) : Bool :=
  !(s.dieChains d).isEmpty || (s.kl.ops.any fun o => o.issuer.die == some d) || s.world.syncing ||
    (s.kl.stalled.any fun o => spansReach d o.spans) || s.host.reads.any fun x => spansReach d (s.accSpan x)

/-- A chain in progress ended with a status. -/
def State.endChainOf (s : State) (ch status : Nat) : State :=
  match s.chainOf ch with
  | some h => s.endChain ch h status
  | none => s

/-- A die without power: its work and its links are gone. -/
def DieState.unpower (x : DieState) (forced : Bool) : DieState :=
  { x with power := 0, isolated := true, forced := x.forced || forced, slices := [], reWork := [], sel := [], selFetch := []
           paBusy := false, paRun := 0, roundOn := false, ovm := Ovm.clear x.ovm, peerUp := false, hubUp := false }

/-- A die whose arithmetic PLL has lost lock, in a tick or not (R590): what its engines hold is gone. -/
def DieState.loseClock (x : DieState) (live : Bool) : DieState :=
  { x with ovm := { Ovm.clear x.ovm with done := x.ovm.done, entered := x.ovm.entered }, reWork := [], sel := [], selFetch := []
           paBusy := false, paRun := 0, roundOn := false, clockCut := live }

/-- The accesses of other nodes and of the host window that wait for a die's memory completed with a status (R362 to R364). -/
def State.failWaits (s : State) (d : Die) (status : Nat) : State :=
  (s.failStalled (fun o => spansReach d o.spans) status).failReads d status

/-- The traffic of a die that is cut off ends with DOMAIN_OFF (R59, R363, R364): what its engines and mover have outstanding, the
chains that move its data, the accesses to it that wait, and a copy of the store to S1. -/
def State.endTraffic (s : State) (d : Die) : State :=
  let busy := s.dieBusy d
  let s := s.setDie d { s.die d with hubUp := false, peerUp := false }
  let s := (s.dieChains d).foldl (fun s ch => s.endChainOf ch 4) (s.failDieOps d 4)
  let s := (s.failWaits d 4).cutSync
  s.when busy fun s => s.event (rXcutEvents d) 2

/-- Whether an internal or host-side chain is in the middle of a descriptor whose data cross a Crosscut (R362): that of the hub and
die `d`, or the one between the dies. -/
def State.chainCrosses (s : State) (hub : Bool) (d : Die) (ch : Nat) : Bool :=
  match s.chainOf ch with
  | none => false
  | some h =>
    (h.step == .moving || h.step == .reading || h.step == .writing) && (s.deviceHere ch h).any fun p =>
      match (areaOf p.1 p.2).map (·.die), ixFrom ch with
      | some (some g), none => hub && g == d
      | some (some g), some f => !hub && g != f
      | some none, some f => hub && f == d
      | _, _ => false

/-- A Crosscut down (R362): the operations in flight on it complete with LINK; with the one between the dies a copy of the store
to S1 ends. -/
def State.failXcut (s : State) (hub : Bool) (d : Die) : State :=
  let s := if hub then (s.setDie d { s.die d with hubUp := false }).failDieOps d 6
    else { s with d0 := { s.d0 with peerUp := false }, d1 := { s.d1 with peerUp := false } }
  let s := ((List.range 204).filter fun ch => s.chainCrosses hub d ch).foldl (fun s ch => s.endChainOf ch 6) s
  if hub then s.failWaits d 6 else s.cutSync

/-- A die isolated and powered down (R363, R364): its work ends, transfers in flight complete with DOMAIN_OFF, its
Crosscut goes down. -/
def State.cutPower (s : State) (d : Die) (forced : Bool) : State :=
  let s := s.endTraffic d
  let s := (s.setDie d ((s.die d).unpower forced)).unlockDie d
  s.setDie d.other { s.die d.other with peerUp := false }

/-- OVERTEMP (R364, R476, R479): at 125 °C the safe state is entered and every Stope die at or above it is powered down, isolated at
once: its transfers in flight complete before the tick is abandoned. -/
def execOvertemp (t s0 s1 h : Nat) (s : State) : Out :=
  let hot := s.anyHot 125 s0 s1 h
  .next (s.when hot fun s =>
    let s := ((s.advance t).setTemps s0 s1 h).thermPin s0 s1 h
    let off := ([(Die.s0, s0), (.s1, s1)].filter fun p => decide ((s.die p.1).power ≠ 0) && decide (tempCode 125 ≤ p.2)).map (·.1)
    let s := off.foldl (fun s d => s.endTraffic d) s
    let s := s.monitor causeOvertemp
    let s := off.foldl (fun s d => ((s.cutPower d true).gatedDie d).event rClkpwrEvents 5) s
    s.when (!s.anyHot 125 s0 s1 h) fun s => s.causeOff causeOvertemp)

/-- THERM_N (R479): the temperatures change; no die is at 125 °C. -/
def execThermN (s0 s1 h : Nat) (s : State) : Out :=
  .next (s.when (!s.anyHot 125 s0 s1 h) fun s =>
    ((s.setTemps s0 s1 h).thermPin s0 s1 h).causeOff causeOvertemp)

/-! ### The Deputy SPI port (R494 to R497) -/

/-- The 4 bytes of a request that its CRC covers. -/
def spiRequest (cmd seq : Byte) (arg : BitVec 16) : List Byte := [cmd, seq] ++ leBytes 2 arg.toNat

/-- Whether the request's CRC is correct (R494). -/
def spiCrcOk (cmd seq : Byte) (arg crc : BitVec 16) : Bool := crc16 0xFFFF#16 (spiRequest cmd seq arg) == crc

/-- A response clocked out: SEQ, RESULT, payload, and the CRC over the bytes of the frame before it (R494). -/
def State.spiAnswer (s : State) (cmd seq : Byte) (arg crc : BitVec 16) (result : Nat) (payload : List Byte) : State :=
  let c := s.reg rDeputySpiCount
  let s := s.setReg rDeputySpiCount (setBits c 15 0 (min 65535 (bits c 15 0 + 1)))
  let body := [seq] ++ leBytes 1 result ++ payload
  let frame := spiRequest cmd seq arg ++ leBytes 2 crc.toNat ++ body
  s.emit (.spi (body ++ leBytes 2 (crc16 0xFFFF#16 frame).toNat))

/-- A frame refused (R496): zero bytes of the payload's length, ERRORS and SPI_ERR. -/
def State.spiRefuse (s : State) (cmd seq : Byte) (arg crc : BitVec 16) (result len : Nat) : State :=
  let c := s.reg rDeputySpiCount
  let s := (s.setReg rDeputySpiCount (setBits c 31 16 (min 65535 (bits c 31 16 + 1)))).event rDeputyEvents 9
  s.spiAnswer cmd seq arg crc result (List.replicate len 0)

/-- The release of DS_IRQ_N at the end of a STATUS or VERDICT response (R497). -/
def State.irqHigh (s : State) : State := { s with dep := { s.dep with irq := false } }

/-- STATUS (R495). -/
def execStatus (seq : Byte) (arg crc : BitVec 16) (s : State) : Out :=
  .next (if spiCrcOk 0x01 seq arg crc then
    let safeTime := leBytes 4 (s.reg rDeputySafeTimeLo).toNat ++ leBytes 4 (s.reg rDeputySafeTimeHi).toNat
    let body := leBytes 4 (s.viewDeputy rDeputyStatus).toNat ++ leBytes 1 s.dev.code ++ [0, 0, 0] ++ safeTime
    (s.spiAnswer 0x01 seq arg crc 0 body).irqHigh
  else s.spiRefuse 0x01 seq arg crc 0xFE 16)

/-- VERDICT (R495): the last verdict record. -/
def execVerdict (seq : Byte) (arg crc : BitVec 16) (s : State) : Out :=
  .next (if spiCrcOk 0x02 seq arg crc then (s.spiAnswer 0x02 seq arg crc 0 s.dep.shown).irqHigh
         else s.spiRefuse 0x02 seq arg crc 0xFE 32)

/-- VERDICT_AT (R495): among the last 16, the newest whose TICK has ARG as its low 16 bits. -/
def execVerdictAt (seq : Byte) (arg crc : BitVec 16) (s : State) : Out :=
  .next (if spiCrcOk 0x03 seq arg crc then
    match s.dep.verdicts.find? fun v => fieldU v 0 2 == arg.toNat with
    | some v => s.spiAnswer 0x03 seq arg crc 0 v
    | none => s.spiAnswer 0x03 seq arg crc 2 (List.replicate 32 0)
  else s.spiRefuse 0x03 seq arg crc 0xFE 32)

/-- Whether RELEASE is admitted (R480). -/
def State.releaseOk (s : State) : Bool :=
  (s.dev == .stopped || s.dev == .running || s.dev == .hold) && s.dep.present.isEmpty &&
    (!s.dep.injRun || s.dep.injOk)

/-- RELEASE (R480, R495, R497). DESIGN CHOICE (notes/assumptions/62.md): while PERST_N is low, as the frame's end finds it after a
fall, the hardware holds the outputs (R531), and the release is not admitted. -/
def execRelease (seq : Byte) (arg : BitVec 16) (f : ReleaseEnd) (s : State) : Out :=
  .next (if !spiCrcOk 0x10 seq arg f.crc then s.spiRefuse 0x10 seq arg f.crc 0xFE 0
    else if arg ≠ 0x6C3D then s.spiRefuse 0x10 seq arg f.crc 4 0
    else if s.releaseOk && !(s.sys.perstLow && f.low) then
      let s := { s with dep := { s.dep with safe := false, irq := true }, sys := { s.sys with perstLow := false } }
      ((s.event rDeputyEvents 3).log note 0x0504 (tallySource 0 9 0) []).spiAnswer 0x10 seq arg f.crc 0 []
    else s.spiAnswer 0x10 seq arg f.crc 3 [])

/-- SAFE (R476, R495). -/
def execSafe (t : Nat) (seq : Byte) (arg crc : BitVec 16) (s : State) : Out :=
  .next (if !spiCrcOk 0x11 seq arg crc then s.spiRefuse 0x11 seq arg crc 0xFE 0
    else if arg ≠ 0x6C3D then s.spiRefuse 0x11 seq arg crc 4 0
    else (((s.advance t).enterSafe causeSpiReq).spiAnswer 0x11 seq arg crc 0 []))

/-- ECHO (R495). -/
def execEcho (seq : Byte) (arg crc : BitVec 16) (s : State) : Out :=
  .next (if spiCrcOk 0x20 seq arg crc then s.spiAnswer 0x20 seq arg crc 0 (leBytes 2 arg.toNat)
         else s.spiRefuse 0x20 seq arg crc 0xFE 2)

/-- The commands of R495. -/
def spiCommands : List Byte := [0x01, 0x02, 0x03, 0x10, 0x11, 0x20]

/-- BAD_CMD (R496): a CMD that R495 does not list; with a bad CRC the result is BAD_CRC. -/
def execBadCmd (cmd seq : Byte) (arg crc : BitVec 16) (s : State) : Out :=
  whenNamed (!spiCommands.contains cmd)
    (s.spiRefuse cmd seq arg crc (if spiCrcOk cmd seq arg crc then 1 else 0xFE) 0)

/-- SPI_ABANDON (R494): a rise of DS_CS_N before the frame's last byte leaves no effect. -/
def execSpiAbandon (s : State) : Out := .next s

end Sys2Proof.Machine
end

