-- ==== Sys2Proof/Machine/Kornov.lean ====
section
/-! DEFINITION. Kornov ports and packets (R408 to R426), responses to this device's operations, and the global operations
(R441 to R445). -/

namespace Sys2Proof.Machine
open Sys2Proof

/-- A port. -/
def State.port (s : State) (p : Nat) : Port := s.kl.ports.getD p Port.idle

/-- An event of KLINK.EVENTS: each raises vector 5. -/
def State.klEvent (s : State) (n : Nat) : State := (s.event rKlinkEvents n).irq 5

/-! ### Operations of this device that return (R350, R352) -/

/-- An operation of this device returned with a status and data. -/
def State.opReturned (s : State) (who : Issuer) (status : Nat) (data : List Byte) : State :=
  match who with
  | .window write ofs len =>
    (if write then s.when (status != 0) fun s => s.windowError status true ofs
     else s.windowReturn ofs len status data).drainReads
  | .merge ofs addr bytes old =>
    (if status ≠ 0 then s.windowError status true ofs
     else if old = some data then s
     else s.mergeStep ofs addr bytes (some data)).drainReads
  | _ => s.dieReturned who status data

/-- The outstanding operation with a tag completed. -/
def State.completeOp (s : State) (tag status : Nat) (data : List Byte) : State :=
  match s.kl.ops.find? fun o => o.tag == tag with
  | none => s
  | some o =>
    (s.dropOps fun q => q.tag == tag).opReturned o.issuer status data

/-- Every outstanding operation that a port carries completed with a status (R412, R444). -/
def State.failOps (s : State) (p status : Nat) : State :=
  ((s.kl.ops.filter fun o => o.port == p).map (·.tag)).foldl (fun s t => s.completeOp t status []) s

/-- RESPONSE (R347, R350, R421): the operation of this device with the tag completes. -/
def execResponse (tag status : Nat) (data : List Byte) (s : State) : Out := .next (s.completeOp tag status data)

/-! ### Ports (R411, R412, R425) -/

/-- BCAST_DONE once the last flit of this node's broadcast has left (R442). -/
def State.endBcast (s : State) : State :=
  s.when (s.kl.bcasting && s.kl.bcastDue.isEmpty && s.kl.ports.all fun q => q.waiting.all fun f => f.src != 7) fun s =>
    ({ s with kl := { s.kl with bcasting := false } }).klEvent 7

/-- A further flit of a packet that passes through this node from port `p`, with its number there, sent on (R422). -/
def State.passFlit (s : State) (p num : Nat) (c : Cut) (flit : List Byte) : State :=
  s.passOn c.outs fun vc => ⟨vc, false, c.response, flit, c.left == 1, num, p, c.vcIn⟩

/-- The rest of a packet whose way in went down: flits of free bytes end it on its ways out (notes/assumptions/123.md). -/
def State.endCut (s : State) (p : Nat) (c : Cut) : Nat → State
  | 0 => s
  | n + 1 =>
    let (bs, s) := s.freeBytes 60
    (s.passFlit p (256 + n) { c with left := n + 1 } (flitOf bs)).endCut p c n

/-- A request of another node whose first flit a port held, answered (R412, R350); a broadcast is not. -/
def State.answerLost (s : State) (status : Nat) (f : WaitFlit) : State :=
  let h := f.flit
  s.when (f.first && !f.response && decide (f.src < 6) && fieldU h 0 1 != 9) fun s =>
    s.respond (fieldU h 4 2) (fieldU h 6 2) status (noData (fieldU h 0 1) (fieldU h 2 2))

/-- A packet that passes through no longer leaves on port `p`. -/
def Port.divert (q : Port) (p : Nat) : Port :=
  { q with cut := q.cut.map fun (c : Cut) => { c with outs := c.outs.filter fun o => o.1 != p } }

/-- What a port that stops carrying traffic loses (R412): the operations of this node through it and the requests of other nodes
that it holds, whole or in part, complete with LINK, and the flits that wait in it leave the receive buffers. Its lanes and its
neighbour stay as trained. -/
def State.losePort (s : State) (p : Nat) : State :=
  let q := s.port p
  let s := s.mapPort p fun q => { Port.idle with lanes := q.lanes, spare := q.spare, node := q.node, wire := q.wire }
  let s : State := match q.cut with
    | some c => if c.outs.isEmpty then s else s.endCut p c c.left
    | none => s
  let s := { s with kl := { s.kl with ports := s.kl.ports.map fun (r : Port) => r.divert p } }
  let s := q.waiting.foldl (fun s f => s.freeFlit f) s
  let s := (q.begun.toList ++ q.replay.map (·.2) ++ q.waiting).foldl (fun s f => s.answerLost 6 f) s
  (s.failOps p 6).endBcast

/-- A port down (R412): 0 for a lane, 1 for a flit. Outside RUNNING it attempts training at once. -/
def State.portDown (s : State) (p cause : Nat) : State :=
  if (s.port p).up then
    let s := s.losePort p
    let s := ((s.event rKlinkEvents 0).log warn 0x0421 (tallySource 0 8 p) (leBytes 1 cause)).irq 5
    s.when (s.dev != .running) fun s => s.sendTrain p
  else s

/-- LANE_FAIL (R411, R412): lane 4 is the spare. -/
def execLaneFail (port lane : Nat) (s : State) : Out :=
  whenNamed (decide (port < 6) && decide (lane < 5))
    (let q := s.port port
     let had := q.lanes / 2 ^ lane % 2 == 1
     s.when (q.up && !had) fun s =>
       let s := s.mapPort port fun q => { q with lanes := q.lanes + 2 ^ lane }
       if q.spare ∨ (lane < 4 ∧ q.lanes / 16 % 2 = 1) then s.portDown port 0
       else if lane = 4 then s
       else
         let s := (s.mapPort port fun q => { q with spare := true }).event rKlinkEvents 1
         ((s.log warn 0x0420 (tallySource 0 8 port) (leBytes 1 lane)).irq 5).sendTrain port)

/-- Flits that wait for acknowledgement sent again (R411, R415). -/
def State.resend (s : State) (p : Nat) : State :=
  (s.port p).replay.foldl (fun s f => s.emit (.flit p f.2.vc f.2.flit)) s

/-- The node a port must face (R408). -/
def State.neighbour (s : State) (p : Nat) : Nat :=
  match s.image.bind (·.links) with
  | none => 0
  | some l =>
    let c := (List.range 3).map fun k =>
      let dim := max 1 (l.dims.getD k 1)
      let x := s.coords.getD k 0
      if p / 2 = k then (if p % 2 = 0 then (x + 1) % dim else (x + dim - 1) % dim) else x
    c.getD 0 0 + l.dims.getD 0 1 * (c.getD 1 0 + l.dims.getD 1 1 * c.getD 2 0)

/-- TRAIN (R411, R412, R425): what the neighbour sent, and the wire delay measured. A port that was down is up again with
its lanes as trained; one that replaced a lane sends its replay buffer; one that is miswired loses what it held. -/
def execTrain (port node digest wire : Nat) (s : State) : Out :=
  whenNamed (port < 6)
    (let s := s.setClock 2 true
     s.when (s.portRequired port && !s.kl.coordBad) fun s =>
       let was := (s.port port).up
       let s := s.when (!was) fun s => s.sendTrain port
       let bad := node != s.neighbour port || digest != s.img (fun i => fieldU i.digest 0 4)
       let s := s.when (was && bad) fun s => s.losePort port
       let s := s.mapPort port fun q =>
         { q with up := true, miswired := bad, node := node, wire := wire % 65536
                  lanes := if was then q.lanes else 0, spare := was && q.spare }
       let s := s.when bad fun s => s.klEvent 2
       s.when (was && !bad) fun s => s.resend port)

/-! ### Packets (R414 to R421) -/

/-- Data bytes of a packet: LEN, and none for a GET, whose LEN is what it asks for. -/
def packetData (packet : List Byte) : Nat := if fieldU packet 0 1 = 2 then 0 else fieldU packet 2 2

/-- The virtual channel of a packet that came on a port and leaves on another (R418). -/
def State.nextVc (s : State) (from_ to_ vc : Nat) : Nat :=
  if from_ / 2 = to_ / 2 then max vc (s.firstVc to_) else s.firstVc to_

/-- A packet passed on (R420, R422): a request that finds no way is answered with NODE. -/
def State.forward (s : State) (from_ dest : Nat) (packet : List Byte) : State :=
  let flags := fieldU packet 1 1
  match s.usablePort dest with
  | some p =>
    let vc := s.nextVc from_ p (flags % 2)
    s.sendOn p vc (packet.take 1 ++ leBytes 1 (flags / 2 * 2 + vc) ++ packet.drop 2)
  | none => s.when (flags / 2 % 2 == 0) fun s =>
      s.respond (fieldU packet 4 2) (fieldU packet 6 2) 2 (noData (fieldU packet 0 1) (fieldU packet 2 2))

/-- Whether a packet that came along the tree from `src` has crossed the wrap link of dimension `k` (R418, R428). -/
def State.wrapped (s : State) (src k : Nat) : Bool :=
  match s.image.bind (·.links) with
  | none => false
  | some l =>
    let m := (l.coords src).getD k 0
    let x := s.coords.getD k 0
    (decide (0 < s.offRoot l src k) && decide (x < m)) || (decide (s.offRoot l src k < 0) && decide (m < x))

/-- The virtual channel on which a broadcast from `src` leaves through a port (R418). -/
def State.treeVc (s : State) (src p : Nat) : Nat := max (bnat (s.wrapped src (p / 2))) (s.firstVc p)

/-- A BROADCAST packet sent along the tree from `src`, on the ports that are open; `from_` as of `WaitFlit.src`. -/
def State.sendTree (s : State) (from_ src tag addr : Nat) (data : List Byte) : State :=
  (s.portsFrom src).foldl (fun s p =>
    s.when (s.portOpen p) fun s =>
      s.sendFrom from_ p (s.treeVc src p) (packetBytes 9 (s.treeVc src p) src tag addr data)) s

/-- A BROADCAST packet as a whole (R442): written here, and passed on along the tree of its source; TAG counts the packets of the
broadcast that follow (notes/assumptions/123.md). -/
def State.takeBroadcast (s : State) (src left addr : Nat) (data : List Byte) : State :=
  (s.performRemote 9 src left addr data.length 0 data).sendTree 6 src left addr data

/-- BROADCAST (R442). -/
def execBroadcast (src addr : Nat) (b : BcastData) (s : State) : Out := .next (s.takeBroadcast src b.left addr b.data)

/-- A whole packet that came on a port; that of a broadcast has been passed on while it arrived. -/
def State.takePacket (s : State) (p : Nat) (packet : List Byte) : State :=
  let op := fieldU packet 0 1
  let src := fieldU packet 4 2
  let tag := fieldU packet 6 2
  let addr := fieldU packet 8 8
  let data := (packet.drop 16).take (packetData packet)
  if op = 9 then s.performRemote 9 src tag addr data.length 0 data
  else
    let dest := if fieldU packet 1 1 / 2 % 2 = 1 then src else nodeOf addr
    if dest ≠ s.node then s.forward p dest packet
    else if op = 8 then s.completeOp tag (addr % 16) data
    else s.performRemote op src tag addr (fieldU packet 2 2) 0 data

/-- Packet bytes received, and the packet they complete: its bytes fill consecutive flits, the last one padded (R414). -/
def State.takeBytes (s : State) (p : Nat) (payload : List Byte) : State :=
  let part := (s.port p).part ++ payload
  if part.length < 16 + packetData part then s.mapPort p fun q => { q with part := part }
  else (s.mapPort p fun q => { q with part := [] }).takePacket p (part.take (16 + packetData part))

/-- How a packet whose first flit comes on port `p` leaves while it arrives (R422): the ports and virtual channels, and whether
it is taken here too. A broadcast leaves on the open ports of its source's tree (R442); none for a packet for this node and one
without a way. -/
def State.wayThrough (s : State) (p : Nat) (payload : List Byte) : Option (List (Nat × Nat) × Bool) :=
  let src := fieldU payload 4 2
  let dest := if fieldU payload 1 1 / 2 % 2 = 1 then src else nodeOf (fieldU payload 8 8)
  if fieldU payload 0 1 = 9 then some (((s.portsFrom src).filter fun o => s.portOpen o).map fun o => (o, s.treeVc src o), true)
  else if dest = s.node then none
  else (s.usablePort dest).map fun o => ([(o, s.nextVc p o (fieldU payload 1 1 % 2))], false)

/-- A good flit of packet bytes taken from port `p` with its number there (R414, R419, R422): what passes through waits in the
receive buffer until its last copy leaves; of a packet for this node alone its place is granted again at once. -/
def State.takeFlit (s : State) (p num : Nat) (payload : List Byte) : State :=
  let q := s.port p
  match q.cut with
  | some c =>
    let s := s.mapPort p fun q => { q with cut := if c.left ≤ 1 then none else some { c with left := c.left - 1 } }
    (s.passFlit p num c (flitOf payload)).when c.here fun s => s.takeBytes p payload
  | none =>
    let vcIn := fieldU (q.part ++ payload) 1 1 % 2
    match if q.part.isEmpty then s.wayThrough p payload else none with
    | some (outs, here) =>
      let flags := fieldU payload 1 1
      let resp := flags / 2 % 2 == 1
      let n := (16 + packetData payload + 59) / 60
      let s := s.mapPort p fun q => { q with cut := if n ≤ 1 then none else some ⟨outs, here, vcIn, resp, n - 1⟩ }
      (s.passOn outs fun vc =>
        ⟨vc, true, resp, flitOf (payload.take 1 ++ leBytes 1 (flags / 2 * 2 + vc) ++ payload.drop 2), n == 1, num, p, vcIn⟩).when
        here fun s => s.takeBytes p payload
    | none => (s.emit (.control p 3 [vcIn, 1])).takeBytes p payload

/-- FLIT (R412 to R415, R419): a good flit is acknowledged and taken; one that fails its CRC is counted
and named in a NAK, and a fourth failure in a row takes the port down. Flits that follow a failed one are discarded until
its replay arrives. -/
def execFlit (port : Nat) (f : FlitIn) (s : State) : Out :=
  whenNamed (decide (port < 6) && decide (f.bytes.length = 64))
    (s.when (s.portOpen port) fun s =>
      let q := s.port port
      if q.fails ≠ 0 ∧ !f.replay then
        s.when ((crc32 (f.bytes.take 60)).toNat != fieldU f.bytes 60 4) fun s => s.count (rKlinkPortCrc port) 1
      else if (crc32 (f.bytes.take 60)).toNat = fieldU f.bytes 60 4 then
        let s := s.mapPort port fun q => { q with rxNext := (q.rxNext + 1) % 256, fails := 0 }
        ((s.emit (.control port 1 [q.rxNext])).takeFlit port q.rxNext (f.bytes.take 60)).endBcast
      else
        let s := s.count (rKlinkPortCrc port) 1
        if 3 ≤ q.fails then s.portDown port 1
        else (s.mapPort port fun q => { q with fails := q.fails + 1 }).emit (.control port 2 [q.rxNext]))

/-- The flits that precede number `n` in a replay buffer acknowledged. -/
def Port.ackBefore (q : Port) (n : Nat) : Port :=
  if q.replay.any fun f => f.1 == n then
    { q.noteAcked (q.replay.takeWhile fun f => f.1 != n) with replay := q.replay.dropWhile fun f => f.1 != n }
  else q

/-- The flits up to number `n` of a replay buffer acknowledged. -/
def Port.ackTo (q : Port) (n : Nat) : Port :=
  let q := q.ackBefore n
  { q.noteAcked (q.replay.take 1) with replay := q.replay.drop 1, naks := 0 }

/-- ACK (R415): flits up to the number named. -/
def execAck (port n : Nat) (s : State) : Out :=
  whenNamed (port < 6)
    (s.when (s.portOpen port) fun s =>
      let known := (s.port port).replay.any fun f => f.1 == n
      let s := s.when known fun s => s.mapPort port fun q => q.ackTo n
      (s.pumpPort port).endBcast)

/-- NAK (R412, R415, R416): the named flit and those after it are sent again; named for the fourth time in a row, it takes
the port down. -/
def execNak (port n : Nat) (s : State) : Out :=
  whenNamed (port < 6)
    (let q := s.port port
     s.when (s.portOpen port && q.replay.any fun f => f.1 == n) fun s =>
       let again := match q.replay with | f :: _ => f.1 == n | [] => false
       let naks := if again then q.naks + 1 else 1
       let s := s.mapPort port fun q => { q.ackBefore n with naks := naks }
       if 4 ≤ naks then s.portDown port 1
       else ((s.count (rKlinkPortRetry port) 1).klEvent 3).resend port)

/-- CREDIT (R419): at most the 64 flits of the neighbour's buffer. -/
def execCredit (port vc n : Nat) (s : State) : Out :=
  whenNamed (decide (port < 6) && decide (vc < 2))
    (s.when (s.portOpen port) fun s =>
      let s := s.mapPort port fun q =>
        if vc = 0 then { q with credit0 := min 64 (q.credit0 + n) } else { q with credit1 := min 64 (q.credit1 + n) }
      (s.pumpPort port).endBcast)

/-! ### Operations of another node or of this one performed here -/

/-- A remote operation that reaches this device: performed where it names this node, passed on otherwise. -/
def State.remoteArrives (s : State) (op src tag addr len fault : Nat) (data : List Byte) : State :=
  if nodeOf addr = s.node then s.performRemote op src tag addr len fault data
  else s.forward 6 (nodeOf addr) (packetOf op 0 len src tag addr data)

/-- PUT (R344, R347). -/
def execPut (src tag addr : Nat) (w : PutArg) (s : State) : Out :=
  .next ((s.contendAll w.ports).remoteArrives 1 src tag addr w.data.length 0 w.data)

/-- GET (R344, R346, R347, R353, R354). -/
def execGet (src tag addr len : Nat) (met : ReadMet) (s : State) : Out :=
  .next ((s.contendAll met.ports).remoteArrives 2 src tag addr len met.fault [])

/-- ATOMIC ADD (R344, R347). -/
def execAtomicAdd (src tag addr : Nat) (v : AtomicArg) (s : State) : Out :=
  .next ((s.contendAll v.ports).remoteArrives 3 src tag addr 8 v.fault (leBytes 8 v.v.toNat))

/-- ATOMIC MAX (R344, R347). -/
def execAtomicMax (src tag addr : Nat) (v : AtomicArg) (s : State) : Out :=
  .next ((s.contendAll v.ports).remoteArrives 4 src tag addr 8 v.fault (leBytes 8 v.v.toNat))

/-- ATOMIC SWAP (R344, R347). -/
def execAtomicSwap (src tag addr : Nat) (v : AtomicArg) (s : State) : Out :=
  .next ((s.contendAll v.ports).remoteArrives 5 src tag addr 8 v.fault (leBytes 8 v.v.toNat))

/-- ATOMIC CAS (R344, R347). -/
def execAtomicCas (src tag addr : Nat) (c : DWord) (v : AtomicArg) (s : State) : Out :=
  .next ((s.contendAll v.ports).remoteArrives 6 src tag addr 16 v.fault (leBytes 8 c.toNat ++ leBytes 8 v.v.toNat))

/-- SIGNAL (R338, R344, R347): the counter's address travels as the first 8 data bytes (R414). -/
def execSignal (src tag addr counter : Nat) (w : PutArg) (s : State) : Out :=
  .next ((s.contendAll w.ports).remoteArrives 7 src tag addr (8 + w.data.length) 0 (leBytes 8 counter ++ w.data))

/-- FENCE (R347, R349): it completes once no earlier operation of its issuer is outstanding, and never leaves it. -/
def execFence (issuer : Nat) (s : State) : Out :=
  .next (if issuer = 210 then s.pumpWindow (s.host.reads ++ [⟨true, false, 0, none, 0, 0, [], []⟩])
    else ({ s with kl := { s.kl with fences := s.kl.fences ++ [issuer] } }).settleFences)

/-! ### Barrier (R441) -/

/-- Whether this node is the root of the marker tree: the master, or a device alone. -/
def State.isRoot (s : State) : Bool := (s.image.bind (·.links)).isNone || s.isMaster

/-- The port towards the master along the marker tree. -/
def State.parentPort (s : State) : Option Nat :=
  match s.image.bind (·.links) with
  | none => none
  | some l =>
    ([2, 1, 0].find? fun k => s.offRoot l l.master k != 0).map fun k =>
      if 0 < s.offRoot l l.master k then 2 * k + 1 else 2 * k

/-- A BARRIER block sent: phase (0 gather, 1 release), epoch bit. -/
def State.sendBarrier (s : State) (p phase : Nat) : State := s.emit (.control p 7 [phase, bnat s.kl.epoch])

/-- The release reaches this node: flagged, and passed on along the tree. -/
def State.releaseBarrier (s : State) : State :=
  let s := (s.treePorts.filter fun p => s.portOpen p).foldl (fun s p => s.sendBarrier p 1) s
  ({ s with kl := { s.kl with entered := false, gathered := [], epoch := !s.kl.epoch } }).klEvent 6

/-- The gather moves towards the master once this node has entered and every node behind it has gathered. -/
def State.gatherBarrier (s : State) : State :=
  s.when (s.kl.entered && s.treePorts.all fun p => s.kl.gathered.contains p) fun s =>
    if s.isRoot then s.releaseBarrier
    else match s.parentPort with
      | some p => s.sendBarrier p 0
      | none => s

/-- GOP_CTRL.BARRIER (R441, R445). -/
def State.enterBarrier (s : State) : State :=
  if s.kl.entered then s.klEvent 11
  else ({ s with kl := { s.kl with entered := true } }).gatherBarrier

/-- BARRIER (R441, R445). -/
def execBarrier (s : State) : Out := .next (s.write32 rKlinkGopCtrl fun s => s.enterBarrier)

/-- BARRIER_BLOCK (R441): a gather from a node behind, or the release from the node before; another epoch's is stale. -/
def execBarrierBlock (port : Nat) (gather epoch : Bool) (s : State) : Out :=
  whenNamed (port < 6)
    (s.when (s.portOpen port && epoch == s.kl.epoch) fun s =>
      if gather then
        s.when (s.treePorts.contains port && !s.kl.gathered.contains port) fun s =>
          ({ s with kl := { s.kl with gathered := s.kl.gathered ++ [port] } }).gatherBarrier
      else s.when (s.kl.entered && s.parentPort == some port) fun s => s.releaseBarrier)

/-! ### Broadcast (R442) -/

/-- Bytes of the local map read in pieces. -/
def State.readPieces (s : State) : List (Nat × Nat) → List Byte → State × List Byte
  | [], got => (s, got)
  | (a, n) :: ps, got => (s.getHere a n).1.readPieces ps (got ++ (s.getHere a n).2.2)

/-- A BROADCAST of `n` bytes from `src` to the address `dst` sent on the open ports of the tree, before `left` others. -/
def State.bcastPiece (s : State) (src dst n left : Nat) : State :=
  let (s, bs) := s.readPieces (pageSpans src n) []
  s.sendTree 7 s.node left dst bs

/-- The pieces of a broadcast (source, destination, bytes, packets that follow) sent in order, as far as the front of initialisation
has passed their sources (R359). -/
def State.pumpBcast (s : State) : List (Nat × Nat × Nat × Nat) → State
  | [] => ({ s with kl := { s.kl with bcastDue := [] } }).endBcast
  | p :: ps =>
    if s.stalled (pageSpans p.1 p.2.2.1) = [] then (s.bcastPiece p.1 p.2.1 p.2.2.1 p.2.2.2).pumpBcast ps
    else { s with kl := { s.kl with bcastDue := p :: ps } }

/-- The registers that a broadcast uses. -/
def bcastRegs : List Nat := [rKlinkBcSrcLo, rKlinkBcSrcHi, rKlinkBcDstLo, rKlinkBcDstHi, rKlinkBcLen]

/-- GOP_CTRL.BCAST (R442, R445): the data is read here and sent in packets of up to 4,096 bytes. -/
def State.startBcast (s : State) : State :=
  if s.kl.bcasting then s.klEvent 11
  else
    let s := s.checkUses bcastRegs
    let src := s.pair rKlinkBcSrcLo rKlinkBcSrcHi % 2 ^ 48
    let dst := s.pair rKlinkBcDstLo rKlinkBcDstHi % 2 ^ 48
    let len := bits (s.reg rKlinkBcLen) 24 0
    let spans := pageSpans dst len
    let s := ({ s with kl := { s.kl with bcasting := true } }).noteStalls (s.stalled (pageSpans src len))
    s.pumpBcast (spans.zipIdx.map fun p => (src + (p.1.1 - dst), p.1.1, p.1.2, spans.length - 1 - p.2))

/-- BCAST (R442, R445). -/
def execBcast (s : State) : Out := .next (s.write32 rKlinkGopCtrl fun s => s.startBcast)

/-! ### Snapshot (R443) -/

/-- A snapshot request for tick `j` at this node: passed on once, taken where it is in time. -/
def State.takeSnapReq (s : State) (j : Nat) : State :=
  if s.kl.snapSeen = some j ∧ s.kl.snapAt = some j then s
  else
    let again := s.kl.snapSeen == some j
    let s := { s with kl := { s.kl with snapSeen := some j } }
    let s := s.when (!again) fun s =>
      ((List.range 6).filter fun p => s.portOpen p).foldl (fun s p => s.emit (.control p 6 [j % 2 ^ 48])) s
    if again then s
    else if s.dev ≠ .running ∨ j < s.tick.next then s.klEvent 10
    else { s with kl := { s.kl with snapAt := some j } }

/-- GOP_CTRL.SNAP (R443, R445). -/
def State.startSnap (s : State) : State :=
  if s.kl.snapAt.isSome || s.kl.snapDue.isSome then s.klEvent 11
  else
    let s := s.checkUses [rKlinkSnapTickLo, rKlinkSnapTickHi]
    ({ s with kl := { s.kl with snapSeen := none } }).takeSnapReq (s.pair rKlinkSnapTickLo rKlinkSnapTickHi)

/-- SNAP (R443, R445). -/
def execSnap (s : State) : Out := .next (s.write32 rKlinkGopCtrl fun s => s.startSnap)

/-- SNAPREQ (R443, R445): the request carries 48 bits of the tick number, next to those of this node's. -/
def execSnapReq (t tick : Nat) (s : State) : Out :=
  let s := s.advance t
  let j := s.tick.next - s.tick.next % 2 ^ 48 + tick % 2 ^ 48
  .next (if (s.kl.snapAt.isSome ∧ s.kl.snapAt ≠ some j) ∨ s.kl.snapDue.isSome then s.klEvent 11 else s.takeSnapReq j)

/-! ### Floods (R444, R445) -/

/-- A flood recorded, newest first. Sequences are 8 bits and are used again: the last 128 are remembered. -/
def Klink.noteFlood (k : Klink) (reset : Bool) (seq : Nat) : Klink :=
  { k with floods := ((reset, seq) :: k.floods).take 128, floodSeq := (seq + 1) % 256 }

/-- The symbol of a flood sent on every port but the one it came on. -/
def State.passFlood (s : State) (except seq : Nat) (reset : Bool) : State :=
  ((List.range 6).filter fun p => p != except && s.portOpen p).foldl
    (fun s p => s.emit (.control p (if reset then 9 else 8) [seq])) s

/-- What a flood does on a node (R444): as HALT_N; a reset flood also fails every link operation in flight, cancels the
global operations and retrains every port. -/
def State.floodActs (s : State) (reset : Bool) : State :=
  let s := (s.haltNow)
  let s := { s with kl := { s.kl with entered := false, gathered := [] } }
  if reset then
    let s := { s with kl := { s.kl with bcasting := false, bcastDue := [], snapAt := none, snapDue := none } }
    ((List.range 6).foldl (fun s p => s.losePort p) s).sendTrains
  else s

/-- A flood that arrives (R444): the first copy is recorded, passed on and acted on. -/
def State.takeFlood (s : State) (port seq : Nat) (reset : Bool) : State :=
  if s.kl.floods.contains (reset, seq % 256) then s
  else
    let s := { s with kl := s.kl.noteFlood reset (seq % 256) }
    ((s.passFlood port (seq % 256) reset).klEvent 12).floodActs reset

/-- STOP_SYMBOL (R407, R444). -/
def execStopSymbol (t port seq : Nat) (s : State) : Out :=
  whenNamed (port < 6) (s.when (s.portOpen port) fun s => (s.advance t).takeFlood port seq false)

/-- RESET_SYMBOL (R407, R444). -/
def execResetSymbol (t port seq : Nat) (s : State) : Out :=
  whenNamed (port < 6) (s.when (s.portOpen port) fun s => (s.advance t).takeFlood port seq true)

/-- A flood that this node starts (R444). -/
def State.startFlood (s : State) (reset : Bool) : State :=
  let seq := s.kl.floodSeq
  (({ s with kl := s.kl.noteFlood reset seq }).passFlood 6 seq reset).floodActs reset

/-- STOP_FLOOD (R444). -/
def execStopFlood (t : Nat) (s : State) : Out :=
  .next (s.write32 rKlinkGopCtrl fun s => (s.advance t).startFlood false)

/-- RESET_FLOOD (R444). -/
def execResetFlood (t : Nat) (s : State) : Out :=
  .next (s.write32 rKlinkGopCtrl fun s => (s.advance t).startFlood true)

/-! ### Crosscut and clocks of the links (R362, R590) -/

/-- XCUT_FLIT_FAIL (R362): a flit of the hub Crosscut or of the Crosscut between the dies that needed `retries`
retries; one that fails after 3 takes the Crosscut down. -/
def execXcutFlitFail (hub : Bool) (d : Die) (retries : Nat) (s : State) : Out :=
  let x := s.die d
  let up := if hub then x.hubUp else x.peerUp
  .next (s.when (up && decide (0 < retries)) fun s =>
    let s := (s.count (rXcutRetries d) (min 3 retries)).event (rXcutEvents d) 0
    s.when (decide (3 < retries)) fun s =>
      let s := s.event (rXcutEvents d) 1
      let s := s.failXcut hub d
      s.log warn 0x0400 (tallySource (d.idx + 1) 7 0) (leBytes 1 (bnat hub)))

/-- KLREF_LOST (R590): every port of the topology goes down. -/
def execKlrefLost (s : State) : Out :=
  .next ((List.range 6).foldl (fun s p => s.portDown p 0) (s.clockLost 2))

/-- An internal PLL that loses lock (R590). -/
def State.pllLost (s : State) (n : Nat) : State := ((s.setClock n false).event rClkpwrEvents 1).irq 0

/-- FABRIC_PLL_UNLOCK (R362, R590): the Crosscut is down until the next boundary. -/
def execFabricPllUnlock (s : State) : Out :=
  let down := fun (x : DieState) => { x with hubUp := false, peerUp := false }
  let s := s.pllLost 4
  .next (((({ s with d0 := down s.d0, d1 := down s.d1 } : State).failXcut true .s0).failXcut true .s1).failXcut false .s0)

/-- ARITH_PLL_UNLOCK (R590): the die's engines stop; what they hold of the tick in progress is lost, and they take nothing
more of it, so that it is incomplete at its watchdog. -/
def execArithPllUnlock (d : Die) (s : State) : Out :=
  let s := s.pllLost (5 + d.idx)
  .next (s.setDie d ((s.die d).loseClock s.tick.live))

/-- PLL_RELOCK (R590): 4 the fabric PLL, 5 and 6 the arithmetic PLLs of S0 and S1. -/
def execPllRelock (n : Nat) (s : State) : Out :=
  whenNamed (decide (4 ≤ n) && decide (n ≤ 6))
    (s.when (n == 4 || (n == 5 && s.d0.power == 2) || (n == 6 && s.d1.power == 2)) fun s => s.setClock n true)

/-- RAIL (R590, R593, R595): a monitored rail leaves its tolerance. -/
def execRail (n : Nat) (s : State) : Out :=
  let r := s.power.rails
  whenNamed (n < 13)
    (s.when (s.monitored n) fun s =>
      ({ s with power := { s.power with rails := if r / 2 ^ n % 2 = 1 then r - 2 ^ n else r } }).event rClkpwrEvents 2)

/-- RAIL_WITHIN_TOLERANCE (R593, R595, R597). -/
def execRailWithinTolerance (n : Nat) (s : State) : Out :=
  let r := s.power.rails
  whenNamed (n < 13)
    (s.when (s.monitored n) fun s =>
      ({ s with power := { s.power with rails := if r / 2 ^ n % 2 = 1 then r else r + 2 ^ n } }).releasePor)

/-! ### The front of a DRAM's initialisation (R359) -/

/-- What waited for the front of an initialisation taken up as far as it may be: an epoch commit, operations of other nodes,
accesses of the window, chains of KEYINS, descriptors of software, a broadcast, a snapshot. -/
def State.pumpFront (s : State) : State :=
  let s := s.pumpCommit.pumpStalled.drainReads
  let s := [(Die.s0, 0), (.s0, 1), (.s1, 0), (.s1, 1)].foldl (fun s p => (s.pumpKeyins p.1 p.2).pumpFetch p.1 p.2) s
  (s.when s.kl.bcasting fun s => s.pumpBcast s.kl.bcastDue).pumpSnapshot

/-- INIT_DONE (R359): the front rises to `mib`, and what waited for it is performed; initialisation is done when it reaches the
usable size. -/
def execInitDone (to_ : InitFront) (s : State) : Out :=
  let all := s.usable to_.die / 1048576
  let reached := min all (max to_.mib (bits (s.reg (rDmcInitFront to_.die)) 15 0))
  .next (s.when (to_.die == .s0 || s.hasS1) fun s =>
    let s := (s.setReg (rDmcInitFront to_.die) (BitVec.ofNat 32 reached)).when (reached == all) fun s =>
      s.setField (rDmcStatus to_.die) 0 0 1
    s.pumpFront)

end Sys2Proof.Machine
end

