-- ==== Sys2Proof/Machine/Load.lean ====
section
/-! DEFINITION. Loading a Structure Image: LOAD, its checks and its commit (R297 to R322, R617). -/

namespace Sys2Proof.Machine
open Sys2Proof

/-! ### The ranges of check 11 (R316, R617) -/

/-- Whether a profile entry holds R29, R30, R124, R271, R457 and R469; a phase's window is half-open (R10). -/
def entryOk (k timeup : Nat) (e : PhaseEntry) : Bool :=
  !e.fitted || (decide (1 ≤ e.ingestCut) && decide (e.offset 0 ≤ e.ingestCut) &&
    decide (e.ingestCut < e.offset 0 + e.budget 0) && decide (e.minPeriod = e.offset 5 + e.budget 5 + 2) &&
    decide (k ≤ e.cap) && decide (timeup + 1 ≤ e.offset 3 + e.budget 3) && decide (e.ingestCut + 48 ≤ e.offset 5) &&
    decide (60 ≤ e.budget 5))

/-- PHASES: four entries in ascending profile code, one of them fitted, each within its rules (R304, R617): at most 1,048,576
lattice candidates in all, and a node's own within the CAP of each fitted entry. -/
def phasesOk (raw : List Byte) (es : List PhaseEntry) (k own timeup : Nat) : Bool :=
  decide (raw.length = 256) && (chunksOf 64 4 raw).all phaseEntryClean &&
    (List.range 4).all (fun p => (es.getD p default).profile == p) && es.any (·.fitted) && decide (k ≤ 1048576) &&
    es.all (entryOk own timeup)

/-- The most lattice candidates that a node of the image's planning groups expands (R434): those of every G-th anchor. DEDUCED
(notes/assumptions/125.md): R617 names K = A × V for the CAP; in a group R434 applies the CAP to the node's own count, and
the worked example of the planning groups fits such an image. -/
def ownLattice (anchors variants : Nat) (l : Option LinksCfg) : Nat :=
  ceilDiv anchors (match l with | some l => max 1 (l.box.foldl (· * ·) 1) | none => 1) * variants

/-- What a list of parts puts at a window offset: the last part that holds all `n` bytes. -/
def partBytes (parts : List (Nat × List Byte)) (o n : Nat) : Option (List Byte) :=
  (parts.reverse.find? fun p => decide (p.1 ≤ o ∧ o + n ≤ p.1 + p.2.length)).map fun p => (p.2.drop (o - p.1)).take n

/-- The parts of a die as each rank of a planning group takes them (R434), and without any rank's. -/
def EnginesCfg.views (c : EnginesCfg) : List (List (Nat × List Byte)) :=
  c.parts :: ((c.rankParts.map (·.1)).eraseDups.map fun r => c.parts ++ (c.rankParts.filter fun p => p.1 == r).map (·.2))

/-- A Select descriptor whose values lie in the ranges that its layout gives (R237). The engine itself judges the rest of R239. -/
def selDescOk (bs : List Byte) : Bool :=
  let x := decodeSelDesc bs
  !x.reserved && decide (1 ≤ x.op ∧ x.op ≤ 4) && (decide (x.op ≤ 2) || decide (1 ≤ x.k ∧ x.k ≤ 1024))

/-- A re-shard whose values lie in the ranges that its layout gives (R336). -/
def moveDescOk (bs : List Byte) : Bool :=
  let len := fieldU bs 0x10 4
  decide (len % 64 = 0 ∧ len ≤ 16777216) && allZero ((bs.drop 0x16).take 10)

/-- A descriptor of an internal channel whose values lie in the ranges that its layout gives (R387, R388). -/
def haulDescOk (bs : List Byte) : Bool :=
  let h : Chain := { (default : Chain) with body := bs }
  decide (fieldU bs 0 8 / 2 % 16 = 0) && decide (h.len % 64 = 0 ∧ 64 ≤ h.len ∧ h.len ≤ 16777216) &&
    decide (h.ctrl 1 1 = 0 ∧ h.ctrl 3 2 ≠ 3 ∧ h.ctrl 5 4 ≠ 3 ∧ h.ctrl 7 6 ≠ 3 ∧ h.ctrl 13 11 ≤ 4 ∧ h.ctrl 15 15 = 0)

/-- The descriptors of a chain from a window offset of the die with its window at `base`, as far as the parts hold it. -/
def chainBytes (parts : List (Nat × List Byte)) (base : Nat) : Nat → Nat → List (List Byte)
  | 0, _ => []
  | n + 1, o =>
    match partBytes parts o 32 with
    | none => []
    | some bs => bs :: if fieldU bs 0 1 % 2 = 1 then [] else chainBytes parts base n (fieldU bs 0 8 / 32 * 32 - base)

/-- What the layouts of its class say of a task's descriptor, where the parts hold it (R237, R324, R336, R387, R388). -/
def descOk (parts : List (Nat × List Byte)) (base : Nat) (t : TaskRec) : Bool :=
  let o := t.desc - base
  match t.cls, partBytes parts o 64 with
  | 0, some bs => (Config.parsePaDesc bs).isSome
  | 1, some bs => (Config.parseReDesc bs).isSome
  | 2, some bs => selDescOk bs
  | 3, some bs => (Config.parseHeapDesc bs).isSome
  | 4, _ => ((partBytes parts o 32).map moveDescOk).getD true
  | 5, _ => (chainBytes parts base ((parts.map fun p => p.2.length).foldl (· + ·) 0 / 32 + 1) o).all haulDescOk
  | _, _ => true

/-- A task record of die `d` with its descriptor (R323). -/
def taskOk (d : Die) (c : EnginesCfg) (t : TaskRec) : Bool :=
  decide (t.cls ≤ 5) && c.views.all (fun v => descOk v (winBaseOf d) t) &&
    decide (t.phase ≤ 5) && decide (t.nsucc ≤ 256) && decide (t.nfree ≤ 16) &&
    decide (t.succ + t.nsucc ≤ c.succs.length) && decide (t.free + t.nfree ≤ c.releases.length) &&
    (decide (t.buf = 0xFFFF) || decide (t.buf < c.bufs.length))

/-- A buffer: its pages and its releases (R332). -/
def bufferOk (b : Nat × Nat) : Bool := decide (1 ≤ b.1 ∧ b.1 ≤ 3136) && decide (1 ≤ b.2 ∧ b.2 ≤ 65535)

/-- ENGINES of a die (R323, R332). -/
def enginesOk (d : Die) (c : EnginesCfg) : Bool :=
  decide (c.tasks.length ≤ 16384) && decide (c.bufs.length ≤ 4096) && c.tasks.all (taskOk d c) &&
    c.succs.all (fun t => decide (t < c.tasks.length)) && c.releases.all (fun b => decide (b < c.bufs.length)) &&
    c.bufs.all bufferOk

/-- The reach an image needs (R205). -/
def reachNeeded (r : RolloutCfg) (w : WorldCfg) (riskBuf : Nat) : Nat :=
  let term := fun (b : EgoBox) (k : Nat) =>
    let e := (placeElement r default (k == 1) b.ox b.oy).2.2
    4 * (b.ox.natAbs + b.oy.natAbs) + (4 * b.hl + e + boxAngle b.hl b.hw) + (4 * b.hw + e + boxAngle b.hl b.hw) +
      (if k = 1 then 4 * (r.lh + r.lt) else 0)
  (w.boxes.zipIdx.map fun b => term b.1 b.2).foldl max 0 + 4 * riskBuf + 1026

/-- A signed 16-bit value. -/
def int16 (x : Int) : Bool := decide (-32768 ≤ x ∧ x ≤ 32767)

/-- WORLD (R64, R72, R89, R101, R107, R112, R202, R205). -/
def worldOk (r : RolloutCfg) (riskBuf : Nat) (w : WorldCfg) : Bool :=
  ([1, 2, 4, 8] : List Nat).contains w.m && decide (w.ox ≤ 448) && decide (w.oy ≤ 448) &&
    decide (1 ≤ w.discs.length ∧ w.discs.length ≤ 8) && decide (w.boxes.length = if r.trailer then 2 else 1) &&
    (r.trailer || w.discs.all fun (d : Disc) => !d.trailer) && decide (262144 ≤ w.stageBytes ∧ w.stageBytes ≤ 4194304) &&
    decide (1 ≤ w.tileCap ∧ w.tileCap ≤ 64) && decide (262144 ≤ w.agentCapBytes ∧ w.agentCapBytes ≤ 2097152) &&
    w.discs.all (fun (d : Disc) => int16 d.ox && int16 d.oy && decide (d.rad < 65536)) &&
    w.boxes.all (fun (b : EgoBox) => int16 b.ox && int16 b.oy && decide (b.hl < 65536 ∧ b.hw < 65536)) &&
    decide (1 ≤ w.egoAgeLimit ∧ w.egoAgeLimit ≤ 8) && decide (1 ≤ w.urgentCap ∧ w.urgentCap ≤ 32) &&
    decide (reachNeeded r w riskBuf ≤ w.reach)

/-- ROLLOUT (R115, R123, R124, R132, R133, R135, R140). -/
def rolloutOk (nets : Nat) (r : RolloutCfg) : Bool :=
  let n := fun (x : Nat) => decide (1 ≤ x ∧ x ≤ 64)
  n r.latL && n r.latS && n r.latJ && decide (r.latL * r.latS * r.latJ ≤ 262144) &&
    decide (1 ≤ r.anchorCount ∧ r.anchorCount ≤ 4096) && ([16, 32, 64, 128] : List Nat).contains r.nSamp &&
    decide (r.dtUs % 4 = 0 ∧ 10000 ≤ r.dtUs ∧ r.dtUs ≤ 500000) && decide (r.planOfsUs ≤ 100000) &&
    (!r.trailer || decide (1024 ≤ r.lt)) && decide (0 ≤ r.psiMax ∧ r.psiMax ≤ 0x7FFF) &&
    match r.source with
    | .table t => decide (t.length = r.anchorCount) && t.all fun (a : Anchor) =>
        decide (80000 ≤ a.duration ∧ a.duration ≤ 64000000 ∧ a.duration % 8 = 0)
    | .network n e => decide (n < nets) && decide (e.length = 17) && e.all fun (x : Int) => decide (-31 ≤ x ∧ x ≤ 31)

/-- COST (R212, R231). -/
def costOk (c : CostCfg) : Bool :=
  decide (c.weights.length = 10) && decide (c.shifts.length = 10) && c.shifts.all (fun x => decide (x ≤ 31)) &&
    c.weights.all (fun x => decide (x < 65536)) && decide (c.base < 4294967296) && decide (1 ≤ c.pLimit ∧ c.pLimit ≤ 65536)

/-- A tensor within the limits of R174. -/
def tensorOk (t : TensorRef) : Bool := decide (t.rows ≤ 4096) && decide (t.cols ≤ 8192)

/-- A tensor of at most the model width (R174). -/
def modelOk (t : TensorRef) : Bool := tensorOk t && decide (t.cols ≤ 2048)

/-- A split point of columns (R155). -/
def splitOk (n : Nat) (split : Option Nat) : Bool :=
  match split with
  | none => true
  | some k => decide (k % 8 = 0 ∧ k ≤ n)

/-- A signed 32-bit value. -/
def int32 (x : Int) : Bool := decide (-2147483648 ≤ x ∧ x ≤ 2147483647)

/-- A post-operation within R170 and R174. -/
def postOk : PostOp → Bool
  | .requantI m sh => m.all int32 && sh.all fun x => decide (x ≤ 62)
  | .biasI b => b.all int32
  | .residual t => tensorOk t
  | _ => true

/-- What the ranges of R177 and R191 depend on: anchors, samples per candidate, bytes of recurrent state. -/
structure NetLimits where
  anchors : Nat
  nSamp   : Nat
  rstate  : Nat
  deriving DecidableEq, Repr

/-- A source of an INPUT feature within the records and fields of R177: one of the blocks that the world slice has, an int8
or FP32 element of the recurrent state. -/
def featureOk (n : NetLimits) : FeatSrc → Bool
  | .ego k => decide (k < 7)
  | .route p k => decide (p < 512 ∧ k < 4)
  | .agent m t k => decide (m < 1024 ∧ t < n.nSamp ∧ k < 6)
  | .present m t => decide (m < 1024 ∧ t < n.nSamp)
  | .slice b row col => ([4, 8, 16, 32] : List Nat).contains b && decide (row < 512 / b ∧ col < 512 / b)
  | .history i k => decide (i < n.nSamp ∧ k < 6)
  | .state off e => (e == .i8 || e == .f32) && decide (off + e.bytes ≤ n.rstate)

/-- Whether weights and activations of two formats are one of the formats of a GEMM (R161). -/
def gemmOk (w a : Elem) : Bool :=
  match w with
  | .i8 | .i4 => a == .i8
  | .e4m3 | .e5m2 => a == .e4m3 || a == .e5m2
  | .bf16 => a == .bf16
  | .i32 | .f32 => false

/-- An operation within the limits of R116, R155, R161, R170, R174, R177 and R191, those of the FFN width apart. -/
def paOpOk (n : NetLimits) : PaOp → Bool
  | .input y f => modelOk y && f.all fun (t : List Feature) => decide (t.length ≤ 2048) && t.all fun a => featureOk n a.src
  | .linear x y w split _ post => gemmOk w.elem x.elem && tensorOk x && tensorOk y && splitOk y.cols split && post.all postOk
  | .conv1d x y w taps split _ post =>
    gemmOk w.elem x.elem && modelOk x && modelOk y && decide (1 ≤ taps ∧ taps ≤ 7) && splitOk y.cols split && post.all postOk
  | .attention q k v y heads hd split _ _ _ post =>
    gemmOk k.elem q.elem && k.elem != .i4 && gemmOk v.elem v.elem && [q, k, v, y].all modelOk &&
      decide (1 ≤ heads ∧ heads ≤ 32) && ([32, 64, 128] : List Nat).contains hd &&
      decide (heads * hd = q.cols) && decide (split.getD 0 ≤ heads) && post.all postOk
  | .layernorm x y _ _ _ post | .rmsnorm x y _ _ post => modelOk x && modelOk y && post.all postOk
  | .act x y _ post => tensorOk x && tensorOk y && post.all postOk
  | .toTensor x y => tensorOk x && tensorOk y
  | .add x z y post | .mul x z y post =>
    tensorOk x && tensorOk z && tensorOk y && decide (x.rows = z.rows ∧ x.cols = z.cols) && post.all postOk
  | .stateRead t o | .stateWrite t o => tensorOk t && decide (o + t.bytes ≤ n.rstate)
  | .toAnchors x => decide (x.rows = n.anchors ∧ x.cols = 17) && (x.elem == .i32 || x.elem == .f32)

/-- The tensors of FFN width after an operation, by their bases; none where one wider than the model is not the output of an
up-projection, or a LINEAR that reads one is no down-projection (R174). -/
def ffnStep (wide : List Nat) (o : PaOp) : Option (List Nat) :=
  let keep := fun (x y : TensorRef) =>
    if x.cols ≤ 2048 then (if y.cols ≤ 2048 then some (wide.filter fun b => b != y.base) else none)
    else if wide.contains x.base then some (y.base :: wide) else none
  match o with
  | .linear x y .. =>
    if x.cols ≤ 2048 then
      some (if y.cols ≤ 2048 then wide.filter fun b => b != y.base else y.base :: wide)
    else if wide.contains x.base ∧ y.cols ≤ 2048 then some (wide.filter fun b => b != y.base) else none
  | .act x y .. | .add x _ y _ | .mul x _ y _ | .toTensor x y => keep x y
  | _ => some wide

/-- Whether the FFN widths of a network hold R174. -/
def ffnOk : List Nat → List PaOp → Bool
  | _, [] => true
  | wide, o :: os =>
    match ffnStep wide o with
    | some w => ffnOk w os
    | none => false

/-- A network that is the anchor source converts its output to anchors (R115, R116). -/
def anchorsOk (source : AnchorSource) (p : PolicyCfg) : Bool :=
  let gives := fun (n : NetCfg) => n.ops.any fun (o : PaOp) => match o with | .toAnchors _ => true | _ => false
  match source with
  | .table _ => true
  | .network n _ => (p.nets[n]?.map gives).getD false

/-- A network within R174, R175 and the limits of its operations. -/
def netOk (l : NetLimits) (n : NetCfg) : Bool :=
  decide (n.ops.length ≤ 1024) && n.ops.all (paOpOk l) && ffnOk [] n.ops &&
    decide ((n.ops.filter fun (o : PaOp) => match o with | .attention .. => true | _ => false).length ≤ 64)

/-- The limits that an image's ROLLOUT and POLICY sections set to its networks. -/
def limitsOf (r : RolloutCfg) (p : PolicyCfg) : NetLimits := ⟨r.anchorCount, r.nSamp, p.rstateLen⟩

/-- POLICY (R115, R116, R155, R170, R174, R177, R180, R191). -/
def policyOk (r : RolloutCfg) (p : PolicyCfg) : Bool :=
  decide (p.nets.length ≤ 8) && decide (p.rstateLen ≤ 262144 ∧ p.rstateLen % 64 = 0) && anchorsOk r.source p &&
    p.nets.all (netOk (limitsOf r p))

/-- REFINE (R262). -/
def refineOk (r : RefineCfg) : Bool :=
  decide (1 ≤ r.rounds ∧ r.rounds ≤ 8) && decide (1 ≤ r.parents ∧ r.parents ≤ 2048) && decide (1 ≤ r.decay ∧ r.decay ≤ 8) &&
    decide (1 ≤ r.visitMax ∧ r.visitMax ≤ 64) && decide (r.ra < 65536) && decide (r.rk < 65536) && decide (r.shrink ≤ 3)

/-- SAFETY (R224, R288, R474). -/
def safetyOk (aMin : Int) (f : SafetyCfg) : Bool :=
  decide (f.tile.length = 4096) && decide (f.agents.length = 8) && decide (1 ≤ f.sets.length ∧ f.sets.length ≤ 16) &&
    f.sets.all (fun (k : CanarySet) => decide (k.descs.length = 4) && decide (k.expect.length = 4)) &&
    decide (aMin ≤ f.aFb ∧ f.aFb ≤ 0) && decide (aMin ≤ f.aEm ∧ f.aEm ≤ 0) && decide (1 ≤ f.nInv ∧ f.nInv ≤ 8)

/-- Bytes of the collector's key table and entry areas for lists of `k` entries (R437): those of a group of one are not
used (R432). -/
def LinksCfg.tableBytes (l : LinksCfg) (k : Nat) : Nat :=
  let g := l.box.foldl (· * ·) 1
  if g ≤ 1 then 8 else 8 * k + 64 * k * g

/-- LINKS (R423, R432, R437) with `k` the entries of the final list. -/
def linksOk (k : Nat) (l : LinksCfg) : Bool :=
  let n := l.dims.foldl (· * ·) 1
  decide (l.dims.length = 3) && l.dims.all (fun d => decide (1 ≤ d ∧ d ≤ 64)) && decide (n ≤ 65536) &&
    decide (l.box.length = 3) && (List.range 3).all (fun k => decide (1 ≤ l.box.getD k 0) &&
      decide (l.dims.getD k 1 % l.box.getD k 1 = 0)) && decide (l.box.foldl (· * ·) 1 ≤ 4096) && decide (l.master < n) &&
    decide (1 ≤ l.leadUs ∧ l.leadUs ≤ 100) && inGallery .s0 (l.kTable, l.tableBytes k)

/-- A stream's entry (R39, R82, R83). -/
def streamOk (x : StreamCfg) : Bool :=
  decide (1 ≤ x.staleUs ∧ x.staleUs ≤ 1000000) && x.types.all fun t => ([1, 2, 3, 5, 6, 7] : List Nat).contains t

/-- STREAMS (R39, R83, R402). -/
def streamsOk (c : StreamsCfg) : Bool :=
  decide (c.streams.length ≤ 128) && c.streams.all streamOk &&
    decide (c.planChan < 8) && decide (c.slots ≤ 65535) && decide (1 ≤ c.slot64 ∧ c.slot64 ≤ 255)

/-! ### The sections as an image -/

/-- K of the ROLLOUT section of an image (R124). -/
def latticeOf (bs : List Byte) : Nat :=
  match Config.parseRollout (imageSection bs 4) with
  | some r => r.anchorCount * (r.latL * r.latS * r.latJ)
  | none => 0

/-- The time-up of the REFINE section of an image (R262). -/
def timeupOf (bs : List Byte) : Nat := match Config.parseRefine (imageSection bs 8) with | some f => f.timeupUs | none => 0

/-- A LINKS section: none at length 0 (R301, R423). -/
def parseLinksSection (bs : List Byte) : Option (Option LinksCfg) :=
  if bs.isEmpty then some none else (Config.parseLinks bs).map some

/-- The index of the first entry of a list that breaks a condition. -/
def firstBad {α : Type} (ok : α → Bool) (l : List α) : Option Nat := (l.zipIdx.find? fun p => !ok p.1).map (·.2)

/-- The item of a POLICY section that breaks its conditions: the operation within the first bad network, or that network where
each of its operations is within its limits. -/
def policyItem (l : NetLimits) (p : PolicyCfg) : Option Nat :=
  (firstBad (netOk l) p.nets).bind fun n => some ((firstBad (paOpOk l) (p.nets.getD n default).ops).getD n)

/-- The entry of an ENGINES section that breaks its conditions: a task record, or a buffer. -/
def enginesItem (d : Die) (c : EnginesCfg) : Option Nat := (firstBad (taskOk d c) c.tasks).or (firstBad bufferOk c.bufs)

/-- ERR_ITEM of the section `id` of an image that check 11 refuses (R316): the profile entry, the task or buffer, the network
or operation, or the stream that breaks its conditions; the spec names no item of the other sections, and of one that does not
parse or whose CRC differs the item is open (notes/assumptions/2.md, notes/assumptions/118.md). -/
def errItem (img : List Byte) (id : Nat) : Nat :=
  let bs := imageSection img id
  let own := match id with
    | 1 => firstBad (fun (b : Bool) => b) (((List.range 4).zip (chunksOf 64 4 bs)).map fun (p : Nat × List Byte) =>
        phaseEntryClean p.2 && (decodePhaseEntry p.2).profile == p.1 &&
          entryOk (latticeOf img) (timeupOf img) (decodePhaseEntry p.2))
    | 2 => ((Config.parseEngines 0 bs).bind fun r => enginesItem .s0 r.cfg).or
        ((Config.parseEngines 1 bs).bind fun r => enginesItem .s1 r.cfg)
    | 6 => (Config.parseRollout (imageSection img 4)).bind fun r => (Config.parsePolicy bs).bind fun p =>
        policyItem (limitsOf r p) p
    | 11 => (Config.parseStreams bs).bind fun c => firstBad streamOk c.streams
    | _ => none
  own.getD (Config.badItem id bs)

/-- The image of the bytes, with the first section that does not parse or breaks a condition of check 11 (R316, R617); an SVN
above 63 (R299) lies in no section: 0. -/
def parseImage (bs : List Byte) : Except Nat Image :=
  let sig := fieldU bs 0xC 4
  let sec := imageSection bs
  let es := (chunksOf 64 4 (sec 1)).map decodePhaseEntry
  if 64 ≤ fieldU bs 0x1A 2 then .error 0
  else match Config.parseRollout (sec 4), Config.parseCost (sec 5), Config.parseRefine (sec 8) with
  | some r, some c, some f =>
    let k := r.anchorCount * (r.latL * r.latS * r.latJ)
    match Config.parseEngines 0 (sec 2), Config.parseEngines 1 (sec 2), Config.parseWorld (sec 3) with
    | some r0, some r1, some w =>
      let e0 := r0.cfg
      let e1 := r1.cfg
      match Config.parsePolicy (sec 6), Config.parseSelect (sec 7), Config.parseSafety (sec 9) with
      | some p, some q, some g =>
        match parseLinksSection (sec 10), Config.parseStreams (sec 11) with
        | some l, some t =>
          let checks : List (Nat × Bool) :=
            [(1, phasesOk (sec 1) es k (ownLattice r.anchorCount (r.latL * r.latS * r.latJ) l) f.timeupUs),
             (2, r0.ok && r1.ok && enginesOk .s0 e0 && enginesOk .s1 e1),
             (3, worldOk r c.riskBuf w), (4, rolloutOk p.nets.length r), (5, costOk c), (6, policyOk r p),
             (7, decide (1 ≤ q.kSurv ∧ q.kSurv ≤ 1024 ∧ 1 ≤ q.kFinal ∧ q.kFinal ≤ 1024)), (8, refineOk f),
             (9, safetyOk r.aMin g), (10, match l with | some l => linksOk q.kFinal l | none => true), (11, streamsOk t)]
          match checks.find? fun x => !x.2 with
          | some x => .error x.1
          | none => .ok
            { digest := sha256 (signedMessage bs sig), minor := fieldU bs 6 2, imageId := fieldU bs 0x1C 4
              compiler := fieldU bs 0x20 4, slot := fieldU bs sig 1, svn := fieldU bs 0x1A 2, entries := es, engines0 := e0
              engines1 := e1, world := w, rollout := r, cost := c, policy := p, select := q, refine := f, safety := g
              links := l, streams := t }
        | none, _ => .error 10
        | _, none => .error 11
      | none, _, _ => .error 6
      | _, none, _ => .error 7
      | _, _, none => .error 9
    | none, _, _ | _, none, _ => .error 2
    | _, _, none => .error 3
  | none, _, _ => .error 4
  | _, none, _ => .error 5
  | _, _, none => .error 8

/-! ### The checks (R310, R311, R316) -/

/-- Installed DRAM of a die in bytes (R358). -/
def State.installed (s : State) (d : Die) : Nat := bits (s.reg (rDmcSize d)) 15 0 * 1048576

/-- Whether SRC and LEN can name an image (check 1, apart from TOTAL_LEN). -/
def State.sourceOk (s : State) (src len : Nat) : Bool :=
  decide (src % 64 = 0) && decide (src + len ≤ s.installed .s0) && decide (len % 64 = 0) && decide (len ≤ 67108864)

/-- The variant's bit of a VARIANTS field (R299). -/
def Variant.bit_ : Variant → Nat
  | .aq => 0
  | .av => 1
  | .as => 2

/-- STEPPING and VARIANTS admit the part (R299, R535). -/
def State.partAdmitted (s : State) (stepping variants : Nat) : Bool :=
  decide (stepping = 0xB0) && decide (variants / 2 ^ s.sec.variant.bit_ % 2 = 1)

/-- The first of the fixed partitions, in the order of R331, with which their pages pass the Gallery's. -/
def EnginesCfg.partBad (c : EnginesCfg) : Option Nat :=
  (List.range c.partPages.length).find? fun n => decide (3136 < (c.partPages.take (n + 1)).foldl (· + ·) 0)

/-- The areas of a policy buffer in the order of R180: resident weights, paging area, activations, recurrent-state banks; each
by where it ends. -/
def PolicyCfg.areaEnds (p : PolicyCfg) : List Nat :=
  [((p.weights0 ++ p.weights1).map fun w => w.1 + w.2.length).foldl max 0, p.pageBase + 2 * p.halfLen, p.actBase + p.actLen,
   max p.bank0 p.bank1 + p.rstateLen]

/-- Check 12 (R316, R331, R180, R67): the section whose partitions do not fit, and the partition; which one a store in DRAM
counts as is open (notes/assumptions/2.md). -/
def State.memoryBad (s : State) (i : Image) : Option (Nat × Option Nat) :=
  let dies := if s.hasS1 then [Die.s0, Die.s1] else [Die.s0]
  match dies.findSome? fun d => (i.engines d).partBad with
  | some n => some (2, some n)
  | none =>
    let area := firstBad (fun e => decide (e ≤ 16777216)) i.policy.areaEnds
    if area.isSome ∨ 16777216 < i.policy.bufBytes then some (6, area)
    else if dies.any fun d => decide (s.installed d < i.policy.storeEnd) then some (6, none)
    else if dies.any fun d => s.storeSpans.any fun p => decide (s.installed d < p.1 + p.2) then some (3, none)
    else none

/-- A load's outcome: an image, or the code of R316 with the section and the item. -/
def State.checkLoad (s : State) (l : Loading) (ue : Nat) : Except (Nat × Nat × Nat) Image :=
  let bs := l.bytes
  let sig := fieldU bs 0xC 4
  let slot := s.sec.slots.getD (fieldU bs sig 1) KeySlot.blank
  if !s.sourceOk l.src l.len ∨ l.len ≠ fieldU bs 8 4 then .error (2, 0, 0)
  else if bs.take 4 ≠ imageMagic then .error (3, 0, 0)
  else if !imageFormatOk bs then .error (4, 0, 0)
  else if !s.partAdmitted (fieldU bs 0x18 1) (fieldU bs 0x19 1) ∨ (s.reg rSecFwVersion).toNat < fieldU bs 0x14 4 then
    .error (5, 0, 0)
  else if ue = 5 ∨ ue = 6 then .error (0xE, 0, 0)
  else if 4 ≤ fieldU bs sig 1 ∨ !slot.provisioned ∨ slot.revoked ∨ sha256 (sigModulus bs sig) ≠ slot.hash then
    .error (6, 0, 0)
  else if fieldU bs 0x1A 2 < slot.minSvn then .error (7, 0, 0)
  else if !rsaVerify (sigModulus bs sig) (sigOctets bs sig) (signedMessage bs sig) then .error (8, 0, 0)
  else
    match imageBadCrc bs with
    | some id => .error (9, id, Config.badItem id (imageSection bs id))
    | none =>
      match parseImage bs with
      | .error id => .error (0xA, id, errItem bs id)
      | .ok i =>
        match s.memoryBad i with
        | some (id, item) => .error (0xB, id, item.getD (Config.badItem id (imageSection bs id)))
        | none => .ok i

/-! ### Contents (R224, R315, R323) -/

/-- What the load writes into a die's on-chip window: Overman's tables and descriptors, a static anchor table (R115), the
resident weights (R183), and every collision engine's footprint, inflations and limits (R200), canary tile and agents
(R224). -/
def State.imageParts (s : State) (i : Image) (d : Die) : List (Nat × List Byte) :=
  let e := i.engines d
  let rank := ({ s with image := some i }).rank
  let own := e.rankParts.filter fun p => p.1 == rank
  let anchors : List (Nat × List Byte) := match i.rollout.source with
    | .table t => [(e.anchorBase, t.flatMap encodeAnchor)]
    | .network .. => []
  let weights := match d with | .s0 => i.policy.weights0 | .s1 => i.policy.weights1
  let canaries := (List.range 68).flatMap fun p =>
    [(ceBase p + 0xD400, padTo 512 (Config.engineConstants i.digest)), (canaryBase p, padTo 4096 i.safety.tile),
     (canaryBase p + 0x1000, padTo 128 (i.safety.agents.flatMap encodeAgentRec))]
  e.parts ++ own.map (·.2) ++ anchors ++ (weights.map fun w => (0x1000000 + w.1, w.2)) ++ canaries

/-- The contents of an image written to a die. -/
def State.placeImage (s : State) (i : Image) (d : Die) : State :=
  (s.imageParts i d).foldl (fun s p => s.storeWin d p.1 p.2) s

/-- The powered dies an image's contents go to (R315, R320). -/
def State.poweredDies (s : State) : List Die := [Die.s0, Die.s1].filter fun d => (s.die d).power == 2

/-- A load that ended in pass 2 (R318): what it had written of its contents is open. -/
def State.damage (s : State) (i : Image) : State :=
  let s := s.poweredDies.foldl (fun s d => (s.imageParts i d).foldl (fun s p =>
    let (bs, s) := s.freeBytes p.2.length
    s.storeWin d p.1 bs) s) s
  { s with damaged := true }

/-! ### LOAD and its end -/

/-- STRUCT.CTRL.LOAD (R313 to R315): step 1 reads what checks 1 to 5 look at; the registers that name it are checked (R577). -/
def State.startLoad (s : State) : State :=
  if s.loading.isSome then s
  else if s.dev = .ready ∨ s.dev = .stopped then
    let s := s.checkUses [rStructSrcLo, rStructSrcHi, rStructLen]
    let src := s.pair rStructSrcLo rStructSrcHi
    let len := (s.reg rStructLen).toNat
    let bs := if s.sourceOk src len then s.load src (max len 0x140) else []
    { s with loading := some ⟨src, len, 1, bs, s.profile, none⟩ }
  else s.setReg rStructStatus (packFields [(8, 1)])

/-- LOAD: STRUCT.CTRL.LOAD written with 1. -/
def execLoad (s : State) : Out := .next (s.write32 rStructCtrl fun s => s.startLoad)

/-- A load that ends with a code of R316. -/
def State.loadEnds (s : State) (code section_ item : Nat) : State :=
  let s := ({ s with loading := none }).setReg rStructStatus (packFields [(8, code), (16, section_ % 256)])
  s.setReg rStructErrItem (BitVec.ofNat 32 (item % 65536))

/-- The commit of a load (R319): the whole image takes effect, and the ports that are down attempt training (R412). -/
def State.commitImage (s : State) (i : Image) : State :=
  let s := (s.loadEnds 0 0 0).count rStructLoads 1
  let s := ({ s with image := some i, damaged := false, dev := if s.dev = Dev.ready then Dev.stopped else s.dev }).checkCoord
  (s.rewrite (rHaulEgGeom i.streams.planChan) (s.egGeom i.streams.planChan)).retrainDown

/-- The step of R315 in which a failure with a code of R316 ends the load; `ue` is the check that met an uncorrectable
error. -/
def failStep (code ue : Nat) : Nat :=
  if code = 0xE then (if ue = 5 then 1 else 2)
  else if code ≤ 5 then 1
  else if code ≤ 8 then 3
  else 4

/-- Pass 2 (R315 step 5): the image read again and hashed while its contents are written to the powered dies; the code of
check 13 or 14 that ends the load, 0 for none. -/
def State.passTwo (s : State) (l : Loading) (i : Image) (ue : Nat) : State × Nat :=
  if ue = 13 then ((s.damage i).when (!s.gated .s0) fun s => s.sourceUe l.src l.len, 0xE)
  else if sha256 (signedMessage (s.load l.src l.len) (fieldU l.bytes 0xC 4)) ≠ i.digest then (s.damage i, 0xF)
  else (s.poweredDies.foldl (fun s d => s.placeImage i d) s, 0)

/-- The step of R315 whose reading check 5, 6 or 13 is. -/
def ueStep (ue : Nat) : Nat := if ue = 5 then 1 else if ue = 6 then 2 else 5

/-- The check at which a load meets an uncorrectable error: the operand's, or that of the pass which finds S0 gated, whose
DRAM gives it nothing (R365, notes/assumptions/118.md). -/
def State.loadUe (s : State) (l : Loading) (met : LoadStep) : Nat :=
  if !s.gated .s0 then (if ueStep met.ue < l.step then 0 else met.ue)
  else if l.step = 1 ∧ 2 ≤ met.reach then 6
  else if l.step ≤ 5 ∧ 6 ≤ met.reach then 13
  else met.ue

/-- Pass 1 (R315 step 2): a load past its first step reads the whole image; checks 1 to 5 are those of the bytes that step 1
read. -/
def State.passOne (s : State) (l : Loading) (ue reach : Nat) : Loading :=
  let stays := match s.checkLoad l ue with
    | .error (code, _, _) => failStep code ue == 1
    | .ok _ => false
  if l.step = 1 ∧ 2 ≤ reach ∧ !stays then { l with step := 2, bytes := s.load l.src (max l.len 0x140) } else l

/-- A load whose checks have passed reaches pass 2 or its end (R315 steps 5 and 6). -/
def State.finishLoad (s : State) (l : Loading) (i : Image) (ue us reach : Nat) : State :=
  if reach ≤ 5 then { s with loading := some { l with step := max l.step reach, kept := some i } }
  else
    let (s, bad) := if l.step = 6 then (s, 0) else s.passTwo l i ue
    let timed := s.setReg rStructLoadUs (BitVec.ofNat 32 (satNat 32 us))
    if bad ≠ 0 then timed.loadEnds bad 0 0
    else if reach = 6 then { s with loading := some { l with step := 6, kept := some i } }
    else timed.commitImage i

/-- IMAGE_COMMIT (R315 to R319, R358, R359): the load in progress reaches a step, or its end `us` after its start. Checks 1 to
12 are made before pass 2 and not again. The contents that pass 2 has written stay with the load: an S1 that is powered up
before the commit takes them (R320). -/
def execImageCommit (us : Nat) (met : LoadStep) (s : State) : Out :=
  .next (match s.loading with
    | none => s
    | some l0 => s.afterFront (if s.sourceOk l0.src l0.len then [(l0.src, l0.len)] else []) fun s =>
      let s := s.when (!s.gated .s0) fun s => s.countDramCe .s0 met.ce
      let ue := s.loadUe l0 met
      match l0.kept with
      | some i => s.finishLoad l0 i ue us met.reach
      | none =>
        let l := s.passOne l0 ue met.reach
        match s.checkLoad l ue with
        | .error (code, section_, item) =>
          if failStep code ue < met.reach then
            ((s.setReg rStructLoadUs (BitVec.ofNat 32 (satNat 32 us))).when (code == 0xE && !s.gated .s0) fun s =>
              s.sourceUe l.src l.len).loadEnds code section_ item
          else { s with loading := some { l with step := max l.step (min 6 met.reach) } }
        | .ok i =>
          if met.reach ≤ 4 then { s with loading := some { l with step := max l.step met.reach } }
          else s.finishLoad l i ue us met.reach)

end Sys2Proof.Machine
end

