-- ==== Sys2Proof/Machine/Boot.lean ====
section
/-! DEFINITION. Resets, start-up, the PCIe link and its power states, and the power domain of S1 (R60, R363 to R366, R373 to
R376, R384, R530 to R542, R589, R590, R597, R618). -/

namespace Sys2Proof.Machine
open Sys2Proof

/-! ### What a reset leaves of OTP and flash work (R540, R549) -/

/-- A key slot changed. -/
def Sec.mapSlot (c : Sec) (n : Nat) (f : KeySlot → KeySlot) : Sec := { c with slots := modifyD KeySlot.blank f n c.slots }

/-- An OTP command done (R548). -/
def Sec.applyOtp (c : Sec) : OtpWork → Sec
  | .provision n h => c.mapSlot n fun k => { k with hash := h, provisioned := true, partlySet := false }
  | .revoke n => c.mapSlot n fun k => { k with revoked := true }
  | .raise n v => c.mapSlot n fun k => { k with minSvn := v }
  | .raiseFw v => { c with vendorMin := v }

/-- An OTP command that a reset or a failed write cut short: `far` says whether its rows had been written. A PROVISION
leaves PROVISIONED blank in any case (R549). -/
def Sec.cutOtp (c : Sec) (far : Bool) (w : OtpWork) : Sec :=
  if far then
    match w with
    | .provision n h => c.mapSlot n fun k => { k with hash := h, partlySet := true }
    | w => c.applyOtp w
  else c

/-- Work of the trust unit forgotten by a reset: a flash slot being programmed holds no whole container (R540). -/
def Sec.forget (c : Sec) : Sec :=
  { c with otp := none, report := none, flashing := none, flash := if c.flashing.isSome then some [] else c.flash }

/-- OTP and flash work cut short by a reset (R540, R549); how far an OTP command was is open (notes/assumptions/54.md). -/
def State.cutSec (s : State) : State :=
  match s.sec.otp with
  | none => { s with sec := s.sec.forget }
  | some w =>
    let (f, s) := s.freeWord
    { s with sec := (s.sec.cutOtp (f.getLsbD 0) w).forget }

/-! ### Resets (R530 to R532) -/

/-- Registers a device reset leaves: the TALLY block, reset only at power-up, and what counts or shows since power-up. -/
def keptByReset (o : Nat) : Bool :=
  decide (o / 0x10000 = 8) ||
    o == rDeputySramCe || o == rDeputySpiCount ||
      [Die.s0, Die.s1].any fun d => [rGalScrub d, rDmcScrub d, rDmcSize d, rDmcInitFront d, rDmcStatus d].contains o

/-- What a device reset leaves of a die: what its world slices hold, and that it had no power, so that its SRAM is initialised
when it is powered (R366, R537). -/
def DieState.resetDie (x : DieState) : DieState :=
  { DieState.reset with sliceOv := x.sliceOv, isolated := x.power == 0 || x.power == 1 }

/-- The profile at reset on LM8400-AS (GLB.PROFILE). -/
def State.resetProfile (s : State) : State := s.when (!s.hasS1) fun s => s.setReg rGlbProfile 0

/-- The state that a device reset leaves (R530 to R532): memory, the log and the OTP stay, every retired unit returns to
service. -/
def State.resetDevice (s : State) : State :=
  let bad := s.badRegs.filter fun b => keptByReset b.off && !b.pending
  { State.reset with
    badRegs := bad
    pending := s.pending, free := s.free, ticked := s.ticked, mem := s.mem, sec := s.sec, out := s.out
    regs := s.regs.filter fun r => keptByReset r.1
    d0 := s.d0.resetDie
    d1 := s.d1.resetDie
    dep := { Deputy.reset with injRun := s.dep.injRun, injOk := s.dep.injOk
                               present := if bad.any (·.found) then [causeRegParity] else [] }
    tally := { s.tally with dumping := none }
    power := { State.reset.power with rails := s.power.rails, clocks := s.power.clocks % 16 }
    sys := { Sys.reset with haltLow := s.sys.haltLow, perstLow := true, porHeld := s.sys.porHeld } }

/-- The device reset (R530 to R532). -/
def State.deviceReset (s : State) : State :=
  let s := s.cutSec.resetDevice
  let s := (s.setField rTallySaveStatus 0 0 0).setField rTallyRecovery 0 0 0
  ((s.setField (rDmcStatus .s0) 1 1 0).setField (rDmcStatus .s1) 1 1 0).resetProfile

/-- DEVICE_RESET (R530). -/
def execDeviceReset (s : State) : Out := .next s.deviceReset

/-- SEQ of the newest entry written, 0 for none. -/
def Tally.head (t : Tally) : Nat := match t.written with | e :: _ => e.1 | [] => 0

/-- The log after a power-on reset: the entries written, and what the log's memory holds. -/
def Tally.restart (t : Tally) : Tally :=
  { Tally.reset with written := t.written, nextSeq := t.head + 1, link := t.link, erases := t.erases, erasing := t.erasing }

/-- The state that a power-on reset leaves (R530): the log's written entries, the OTP and the flash stay. -/
def State.resetPower (s : State) : State :=
  { State.reset with pending := s.pending, free := s.free, sec := s.sec, out := s.out, tally := s.tally.restart }

/-- The power-on reset (R530). -/
def State.powerOn (s : State) : State := s.cutSec.resetPower.resetProfile

/-- POWER_ON_RESET (R530, R597). -/
def execPowerOnReset (s : State) : Out := .next s.powerOn

/-- PERST_N_FALL (R531). -/
def execPerstNFall (s : State) : Out :=
  .next { s with dep := { s.dep with safe := true }, sys := { s.sys with perstLow := true } }

/-! ### Firmware (R533 to R542) -/

/-- The magic of a firmware container: "LMFW". -/
def firmwareMagic : List Byte := [0x4C, 0x4D, 0x46, 0x57]

/-- FORMAT, LENGTH, SIG_OFS and the reserved bytes of a container (R535), `len` bytes of which were given. -/
def firmwareFormatOk (bs : List Byte) (len : Nat) : Bool :=
  let total := fieldU bs 8 4
  let sig := fieldU bs 0xC 4
  decide (fieldU bs 4 2 = 1) && decide (total % 64 = 0) && decide (total = sig + 896) && decide (total ≤ 4194304) &&
    decide (64 ≤ sig) && decide (total = len) && decide (fieldU bs 6 2 < 64) && decide (fieldU bs 0x15 1 < 8) &&
    allZero ((bs.drop 0x16).take 42) && decide (fieldU bs sig 1 = 0xFF) && allZero ((bs.drop (sig + 1)).take 63) &&
    allZero ((bs.drop (sig + 0x340)).take 64)

/-- The checks of R536 in the order of R541: the code, 0 when all pass. -/
def State.checkFirmware (s : State) (bs : List Byte) (len : Nat) : Nat :=
  let sig := fieldU bs 0xC 4
  if bs.take 4 ≠ firmwareMagic then 3
  else if !firmwareFormatOk bs len then 4
  else if !s.partAdmitted (fieldU bs 0x14 1) (fieldU bs 0x15 1) then 5
  else if sha256 (sigModulus bs sig) ≠ s.sec.vendorHash then 6
  else if fieldU bs 6 2 < s.sec.vendorMin then 7
  else if !rsaVerify (sigModulus bs sig) (sigOctets bs sig) (signedMessage bs sig) then 8
  else 0

/-- ERROR of SEC.BOOT. -/
def State.setBootError (s : State) (code : Nat) : State := s.setField rSecBoot 15 8 code

/-- WAIT_PUSH of SEC.BOOT. -/
def State.setWaitPush (s : State) (on : Bool) : State := s.setField rSecBoot 3 3 (bnat on)

/-- Whether the device waits for a push. -/
def State.waitPush (s : State) : Bool := bit (s.reg rSecBoot) 3

/-- Verified firmware taken (R536, R537): what SEC shows of it, and the power-on self-test begins. -/
def State.runFirmware (s : State) (bs : List Byte) (push : Bool) : State :=
  let digest := sha256 (signedMessage bs (fieldU bs 0xC 4))
  let s := (s.setReg rSecFwVersion (BitVec.ofNat 32 (fieldU bs 0x10 4))).setReg rSecFwSvn (BitVec.ofNat 32 (fieldU bs 6 2))
  let s := (List.range 8).foldl (fun s n => s.setReg (rSecFwDigest n) (BitVec.ofNat 32 (fieldU digest (4 * n) 4))) s
  let s := ((s.setBootError 0).setWaitPush false).setField rSecBoot 4 4 (bnat push)
  { s with bist := { s.bist with run := some ⟨if s.hasS1 then 7 else 3, 3, 1⟩ } }

/-- Installed and usable DRAM of a die found at training (R358). -/
def State.trainDram (s : State) (d : Die) : State :=
  let mib := max 8192 (min 32768 (Config.installedMib d.idx))
  s.setReg (rDmcSize d) (packFields [(0, mib), (16, mib * 7 / 8)])

/-- Reset released (R537 step 1, R597, R603): pins sampled, dies powering up, DRAM trained. -/
def State.release_ (s : State) (haltLow : Bool) : State :=
  let s := { s with sys := { s.sys with inReset := false, perstLow := false, haltLow := haltLow }
                    tally := { s.tally with ready := true } }
  let s := s.setDie .s0 { s.d0 with power := 1 }
  let s := s.setDie .s1 { s.d1 with power := bnat s.hasS1 }
  (s.trainDram .s0).when s.hasS1 fun s => s.trainDram .s1

/-- A boot from the flash slot (R533, R541). -/
def State.flashBoot (s : State) (flashError : Nat) (container : List Byte) : State :=
  if flashError = 1 ∨ flashError = 2 then (s.setBootError flashError).setWaitPush true
  else
    let slot := s.sec.flash.getD container
    let len := fieldU slot 8 4
    let code := s.checkFirmware slot len
    if code = 0 then s.runFirmware slot false else (s.setBootError code).setWaitPush true

/-- The firmware source that BOOTSEL selects (R533, R542). -/
def State.bootFrom (s : State) (bootsel : Nat) (testMode : Bool) (flashError : Nat) (container : List Byte) : State :=
  let s := s.setReg rSecBoot (packFields [(0, bootsel % 4), (2, bnat (decide (2 ≤ bootsel % 4)))])
  if testMode then s.setBootError 0xC
  else if bootsel % 4 ≠ 0 then s.setWaitPush true
  else s.flashBoot flashError container

/-- RESET_RELEASE (R533 to R542, R524, R532, R597, R603): PERST_N is high and the power-on reset released; a BOOT entry is staged in
any case (notes/assumptions/111.md). `flashError` is 0, or FL_NO_RESPONSE or FL_READ; `container` is what the
flash slot presents when the device has not programmed it. -/
def execResetRelease (bootsel : Nat) (testMode haltLow : Bool) (flashError : Nat) (container : List Byte) (s : State) :
    Out :=
  .next (s.when (s.sys.inReset && !s.sys.porHeld) fun s =>
    let s := s.release_ haltLow
    (s.stage note 1 0 (leBytes 8 s.tally.head)).bootFrom bootsel testMode flashError container)

/-- Whether firmware initialisation ends in READY (R537, R538, R545): verified firmware, the self-test over, and no failure
of the hub's common partition. -/
def State.bootReady (s : State) : Bool :=
  s.dev == .boot && !s.sys.inReset && !s.waitPush && s.bist.run.isNone && bit (s.reg rBistStatus) 1 &&
    !bit (s.reg rBistFails) 18

/-- The SRAM of a die initialised to zero words (R60, R366). -/
def State.initSram (s : State) (d : Die) : State :=
  let inside := fun (a : Nat) =>
    decide (winBaseOf d ≤ a ∧ a < winBaseOf d + 0x4000000) || decide (sliceKey d 0 ≤ a ∧ a < sliceKey d 0x40000)
  let x := s.die d
  ({ s with mem := s.mem.filter fun c => !inside c.1 }).setDie d { x with sliceOv := [], paHalves := [none, none] }

/-- BOOT_COMPLETE (R17, R45, R366, R537, R618): the SRAM of a die that had no power at the reset has been initialised. -/
def execBootComplete (s : State) : Out :=
  .next (s.when s.bootReady fun s =>
    let up := fun (s : State) (d : Die) =>
      s.when ((s.die d).power == 1) fun s =>
        let s := (s.when (s.die d).isolated fun s => s.initSram d).takeService d
        (s.setDie d { s.die d with power := 2, isolated := false }).lockDie d
    let s := ((up (up s .s0) .s1).setClock 4 true).retrainXcut
    { s with dev := .ready, now := 0, timeOn := true })

/-! ### The PCIe link and function (R373 to R376, R384) -/

/-- The host-side channels. -/
def hostChannels : List Nat := List.range 140

/-- The vectors that are unmasked and pending send one message each. -/
def State.flushIrqs (s : State) : State :=
  (List.range 64).foldl (fun s v =>
    s.when (s.host.pba.getLsbD v && !s.host.mask.getLsbD v && !s.host.allOff && s.host.up) fun s =>
      ({ s with host := { s.host with pba := s.host.pba &&& ~~~(BitVec.ofNat 64 (2 ^ v)) } }).emit (s.message v)) s

/-- Whether the endpoint trains at a speed code and width (R368). -/
def linkLegal (speed width : Nat) : Bool := decide (1 ≤ speed ∧ speed ≤ 4) && (width == 1 || width == 2 || width == 4)

/-- LINK_UP (R368, R384); while a reset is asserted the link does not train. -/
def execLinkUp (speed width : Nat) (s : State) : Out :=
  whenNamed (linkLegal speed width)
    (if s.sys.inReset then s else
     let s := (s.setClock 1 true).setReg rHostLink (packFields [(0, speed), (4, width)])
     ({ s with host := { s.host with up := true } }).flushIrqs)

/-- DL_Down (R376): chains in flight end with HOST_ERR, a delivery is abandoned and counts as dropped. -/
def State.linkLost (s : State) : State :=
  let s := { s with host := { s.host with up := false } }
  let s := hostChannels.foldl (fun s ch =>
    let s := match (s.chan ch).sending with
      | some (f, _) => (s.mapChan ch fun (c : Chan) => { c with sending := none }).dropRecord ch f
      | none => s
    match (s.chan ch).chain with
    | some h => s.dropChain ch h 0xB
    | none => s) s
  (s.event rHostEvents 0).log warn 0x0410 (tallySource 0 0xB 0) []

/-- LINK_DOWN (R376). -/
def execLinkDown (t : Nat) (s : State) : Out := .next (s.when s.host.up fun s => (s.advance t).linkLost)

/-- REFCLK_LOST (R376, R590). -/
def execRefclkLost (s : State) : Out := .next ((s.clockLost 1).when s.host.up fun s => s.linkLost)

/-- MSIX_UNMASK (R370, R373, R384): a vector's entry and the function's masks written, whereby the vector is unmasked or masked; in
D3hot the write is not answered. -/
def execMsixUnmask (w : VectorWrite) (s : State) : Out :=
  whenNamed (w.v < 64)
    (s.when (!s.host.d3) fun s =>
      let b := BitVec.ofNat 64 (2 ^ w.v)
      let h := { s.host with mask := if w.masked then s.host.mask ||| b else s.host.mask &&& ~~~b
                             vectors := setD (0, 0) w.v (w.addr, w.data) s.host.vectors
                             allOff := w.allOff }
      ({ s with host := h }).flushIrqs)

/-- D3HOT (R373). -/
def execD3hot (s : State) : Out :=
  .next (if s.dev = .stopped then
    s.poweredDies.foldl (fun s d => s.selfRefresh d true) { s with host := { s.host with d3 := true } }
  else s.event rHostEvents 2)

/-- D0_RETURN (R373). -/
def execD0Return (s : State) : Out :=
  .next (s.when s.host.d3 fun s =>
    s.poweredDies.foldl (fun s d => s.selfRefresh d false) { s with host := { s.host with d3 := false } })

/-- Whether a primary offset lies in the HOST or HAUL block, which a function-level reset resets (R375). -/
def inHostBlocks (o : Nat) : Bool := ([3, 4, 5] : List Nat).contains (o / 0x10000)

/-- A load that meets a function-level reset in the given step (R320). -/
def State.abortLoad (s : State) (step : Nat) : State :=
  match s.loading with
  | none => s
  | some l =>
    let passed := match l.kept with
      | some i => some i
      | none => (s.checkLoad l 0).toOption
    match passed with
    | some i => if 5 ≤ max step l.step then (s.damage i).loadEnds 0x10 0 0 else s.loadEnds 0x10 0 0
    | none => s.loadEnds 0x10 0 0

/-- The function, the HOST block, the host-side channels, the command queue and the pending values reset (R375, R384, R402,
R567, R585); the dies' DRAM leaves the self-refresh of D3hot. The link stays up. -/
def State.resetFunction (s : State) : State :=
  let issued := fun (o : RemoteOp) => match o.issuer with
    | .window .. | .merge .. => true
    | .channel c _ => decide (c < 140)
    | _ => false
  let s := s.mend fun b => inHostBlocks b.off || b.pending
  let s := s.when s.host.d3 fun s => s.poweredDies.foldl (fun s d => s.selfRefresh d false) s
  ({ s with
    regs := s.regs.filter fun r => !inHostBlocks r.1
    latches := s.latches.filter fun r => !inHostBlocks r.1
    host := { HostPort.reset with up := s.host.up }
    chans := s.chans.map fun (c : Chan) => { Chan.idle with feeds := c.feeds }
    world := { s.world with streams := s.world.streams.map fun (w : Stream) => { w with part := [], skip := none, full := false } }
    sys := { s.sys with queue := [], waitEdge := false, waitSave := false, waitRec := false }
    sh := [] } : State).dropOps issued

/-- FLR (R375, R320, R476): `step` is the step a load in progress has reached. -/
def execFlr (t step : Nat) (s : State) : Out :=
  let s := s.advance t
  let was := s.dev
  let s := ((s.abortLoad step).resetFunction.event rHostEvents 1).setField rTallySaveStatus 0 0 0
  let s := s.log note 0x0600 (tallySource 0 0xB 0) (leBytes 1 was.code)
  .next (match was with
    | .hold => s.leaveRunning .stopped
    | .running => s.enterSafe causeFlr
    | _ => s)

/-! ### The power domain of S1 and the clock switches (R59, R60, R363, R589) -/

/-- S1_ISOLATE (R59, R363): the drain ended after `drainNs`, with no transfer of S1 left, or reached 100 µs. -/
def execS1Isolate (t drainNs : Nat) (s : State) : Out :=
  .next (s.when (s.d1.power == 3 && (decide (100000 ≤ drainNs) || !s.dieBusy .s1)) fun s =>
    let s := s.advance t
    let s := s.setReg (rXcutDrainNs .s1) (BitVec.ofNat 32 (min 100000 drainNs))
    let s := s.when (decide (100000 ≤ drainNs) && s.dieBusy .s1) fun s => s.event (rXcutEvents .s1) 3
    let s := ((s.cutPower .s1 false).selfRefresh .s1 true).event rClkpwrEvents 3
    let s := s.setField rDeputyTemp 19 10 0
    ({ s with sys := { s.sys with s1Change := false } }).changeEnds)

/-- S1_POWER_UP (R60, R320, R618). DESIGN CHOICE (notes/assumptions/117.md): the S1 part of the image is written at every
power-up of S1, whose SRAM starts as zero words then; R320 speaks only of an S1 that was gated at step 5 of the load. -/
def execS1PowerUp (t : Nat) (s : State) : Out :=
  .next (s.when (s.d1.power == 1 && s.sys.s1Rising) fun s =>
    let s := (s.advance t).initSram .s1
    let s := s.takeService .s1
    let s := { s with d1 := { s.d1 with power := 2, isolated := false, forced := false } }
    let s := (s.lockDie .s1).selfRefresh .s1 false
    let s := match (s.loading.bind fun l => if l.step = 6 then l.kept else none).or s.image with | some i => s.placeImage i .s1 | none => s
    let s := s.retrainXcut.event rClkpwrEvents 4
    ({ s with sys := { s.sys with s1Change := false } }).changeEnds)

/-- CLOCK_SWITCH (R589). -/
def execClockSwitch (d : Die) (t : Nat) (s : State) : Out :=
  let waiting := match d with | .s0 => s.sys.switch0 | .s1 => s.sys.switch1
  .next (s.when waiting fun s =>
    let s := ((s.advance t).lockDie d).event rClkpwrEvents 6
    let y := match d with
      | .s0 => { s.sys with switch0 := false }
      | .s1 => { s.sys with switch1 := false }
    ({ s with sys := y }).changeEnds)

end Sys2Proof.Machine
end

