-- ==== Sys2Proof/Machine/Trust.lean ====
section
/-! DEFINITION. Firmware pushes, attestation, the OTP, the self-test, RECOVER, and the test access port
(R539 to R554). -/

namespace Sys2Proof.Machine
open Sys2Proof

/-! ### PUSH and PUSH_FLASH (R539 to R541) -/

/-- The staged container and its announced length. -/
def State.staged (s : State) : List Byte × Nat :=
  let len := bits (s.reg rSecPushLen) 22 0
  (s.load stagingBase (max 64 (min len 4194304)), len)

/-- SEC.CTRL.PUSH (R539). -/
def State.pushFirmware (s : State) : State :=
  if s.waitPush then
    let (bs, len) := s.staged
    let code := s.checkFirmware bs len
    if code = 0 then s.runFirmware bs true else s.setBootError code
  else s.setBootError 9

/-- PUSH: SEC.CTRL.PUSH written with 1. -/
def execPush (s : State) : Out := .next (s.write32 rSecCtrl fun s => s.pushFirmware)

/-- SEC.CTRL.PUSH_FLASH (R540). -/
def State.pushFlash (s : State) : State :=
  if (s.dev ≠ .ready ∧ s.dev ≠ .stopped) ∨ s.loading.isSome ∨ s.sec.flashing.isSome then s.setBootError 9
  else if bit (s.reg rSecLock) 1 then s.setBootError 0xA
  else
    let (bs, len) := s.staged
    let code := s.checkFirmware bs len
    if code = 0 then { s with sec := { s.sec with flashing := some bs } } else s.setBootError code

/-- PUSH_FLASH: SEC.CTRL.PUSH_FLASH written with 1. -/
def execPushFlash (s : State) : Out := .next (s.write32 rSecCtrl fun s => s.pushFlash)

/-- FLASH_PROGRAMMED (R540): the container is programmed and read back, or the programming failed; which code a failure
records is open (notes/assumptions/3.md). -/
def execFlashProgrammed (ok : Bool) (s : State) : Out :=
  .next (match s.sec.flashing with
    | none => s
    | some bs =>
      if ok then ({ s with sec := { s.sec with flashing := none, flash := some bs } }).setBootError 0
      else
        let (f, s) := ({ s with sec := { s.sec with flashing := none, flash := some [] } } : State).freeWord
        s.setBootError (1 + f.toNat % 12))

/-! ### Attestation (R552 to R554) -/

/-- Bytes 0x000 to 0x47F of a report (R554). -/
def State.reportBody (s : State) : List Byte :=
  let word := fun (o : Nat) => leBytes 4 (s.peek o).toNat
  let nonce := (List.range 8).flatMap fun n => word (rSecAttNonce n)
  let fwDigest := (List.range 8).flatMap fun n => word (rSecFwDigest n)
  let digest := match s.image with | some i => padTo 32 i.digest | none => List.replicate 32 0
  let slots := (List.range 4).flatMap fun n => word (rSecSlot n)
  let hashes := (List.range 4).flatMap fun n => padTo 32 ((s.sec.slots.getD n KeySlot.blank).hash)
  ([0x4C, 0x4D, 0x41, 0x54] : List Byte) ++ leBytes 2 1 ++ leBytes 2 0 ++ leBytes 4 1536 ++ word rGlbId ++
    leBytes 8 s.sec.serial ++ leBytes 8 s.now ++ nonce ++ word rSecFwVersion ++
    leBytes 1 (bits (s.reg rSecFwSvn) 5 0) ++ leBytes 1 s.sec.vendorMin ++ leBytes 1 s.dev.code ++ leBytes 1 s.profile ++
    fwDigest ++ digest ++ leBytes 1 (match s.image with | some i => i.slot | none => 0xFF) ++ leBytes 1 (s.img (·.svn)) ++
    leBytes 2 0 ++ word rSecLock ++ slots ++ hashes ++ word rBistFails ++ List.replicate 92 0 ++
    padTo 384 Config.identityModulus ++ padTo 384 Config.certificate

/-- The signature of a report: RSASSA-PSS under the identity key with the parameters of R310 (R554). That the private exponent
belongs to the identity modulus is a fact about the key (notes/assumptions/33.md). -/
def attestSignature (body : List Byte) : List Byte :=
  rsaSign (padTo 384 Config.identityModulus) Config.identityExponent (padTo 32 (Config.attestSalt body)) body

/-- SEC.CTRL.ATTEST (R553): the report is formed at the request. -/
def State.attest (s : State) : State :=
  if s.sec.report.isSome then s
  else
    let ofs := bits (s.reg rSecAttDst) 21 0
    if s.dev = .boot then s.setField rSecAttStatus 3 1 1
    else if 4194304 < ofs + 1536 then s.setField rSecAttStatus 3 1 2
    else
      let body := s.reportBody
      { s with sec := { s.sec with report := some (body ++ attestSignature body, ofs) } }

/-- ATTEST: SEC.CTRL.ATTEST written with 1. -/
def execAttest (s : State) : Out := .next (s.write32 rSecCtrl fun s => s.attest)

/-- ATTEST_DONE (R553): the report stands in hub staging. -/
def execAttestDone (s : State) : Out :=
  .next (match s.sec.report with
    | none => s
    | some (bs, ofs) =>
      let s := ({ s with sec := { s.sec with report := none } } : State).store (stagingBase + ofs) bs
      let n := bits (s.reg rSecAttStatus) 31 16
      s.setReg rSecAttStatus (packFields [(16, min 65535 (n + 1))]))

/-! ### The OTP (R547 to R550) -/

/-- RESULT of SEC.OTP_STATUS. -/
def State.otpResult (s : State) (code : Nat) : State := s.setField rSecOtpStatus 7 4 code

/-- The hash in SEC.OTP_DATA. -/
def State.otpData (s : State) : List Byte :=
  (List.range 8).flatMap fun n => leBytes 4 (s.reg (rSecOtpData n)).toNat

/-- The work of an OTP command, or the code that refuses its operands (R548, R549); none for an unlisted code. -/
def State.otpWork (s : State) (v : Word) : Option (Except Nat OtpWork) :=
  let n := bits v 5 4
  let svn := bits v 13 8
  let k := s.sec.slots.getD n KeySlot.blank
  let others := (s.sec.slots.eraseIdx n).any fun (x : KeySlot) => x.provisioned && !x.revoked
  match bits v 3 0 with
  | 1 =>
    some (if k.provisioned ∨ (k.partlySet ∧ k.hash ≠ s.otpData) then .error 3 else .ok (.provision n s.otpData))
  | 2 => some (if !k.provisioned then .error 3 else if !others then .error 4 else .ok (.revoke n))
  | 3 => some (if svn ≤ k.minSvn then .error 3 else .ok (.raise n svn))
  | 4 =>
    some (if svn ≤ s.sec.vendorMin ∨ bits (s.reg rSecFwSvn) 5 0 < svn then .error 3 else .ok (.raiseFw svn))
  | _ => none

/-- A write of SEC.OTP_CMD (R548); the result of an unlisted code is open (notes/assumptions/3.md). -/
def State.otpCommand (s : State) (v : Word) : State :=
  if s.dev ≠ .ready ∧ s.dev ≠ .stopped then s.otpResult 1
  else if bit (s.reg rSecLock) 0 then s.otpResult 2
  else if s.loading.isSome ∨ s.sec.flashing.isSome ∨ s.sec.otp.isSome then s.otpResult 5
  else if bits v 31 16 ≠ 0x9E27 then s.otpResult 6
  else
    match s.otpWork v with
    | none => let (f, s) := s.freeWord; s.otpResult (f.toNat % 16)
    | some (.error code) => s.otpResult code
    | some (.ok w) => { s with sec := { s.sec with otp := some w } }

/-- A row of R548: a write of SEC.OTP_CMD with its CMD code. -/
def otpRow (code : Nat) (cmd : Word) (s : State) : Out :=
  whenNamed (bits cmd 3 0 = code) (s.write32 rSecOtpCmd fun s => s.otpCommand cmd)

/-- PROVISION (R548, R549). -/
def execProvision (cmd : Word) (s : State) : Out := otpRow 1 cmd s

/-- REVOKE (R548). -/
def execRevoke (cmd : Word) (s : State) : Out := otpRow 2 cmd s

/-- RAISE_SVN (R548). -/
def execRaiseSvn (cmd : Word) (s : State) : Out := otpRow 3 cmd s

/-- RAISE_FW_SVN (R548). -/
def execRaiseFwSvn (cmd : Word) (s : State) : Out := otpRow 4 cmd s

/-- OTP_DONE (R548): the command in progress ends; how far a failed write came is open (notes/assumptions/54.md). -/
def execOtpDone (ok : Bool) (s : State) : Out :=
  .next (match s.sec.otp with
    | none => s
    | some w =>
      if ok then ({ s with sec := { s.sec.applyOtp w with otp := none } } : State).otpResult 0
      else
        let (f, s) := s.freeWord
        ({ s with sec := { s.sec.cutOtp (f.getLsbD 0) w with otp := none } } : State).otpResult 7)

/-! ### BIST by command (R543 to R546) -/

/-- Whether the dies of a BIST mask are present and not gated. -/
def State.bistScopeOk (s : State) (dies kind : Nat) : Bool :=
  decide (kind ≠ 0) && (dies / 2 % 2 == 0 || s.d0.power == 2) &&
    (dies / 4 % 2 == 0 || (s.hasS1 && s.d1.power == 2))

/-- GO of BIST.CMD (R546). -/
def State.bistGo (s : State) (dies kind : Nat) : State :=
  if s.loading.isSome ∨ s.bist.run.isSome then s.setField rBistStatus 7 4 3
  else if s.dev ≠ .ready ∧ s.dev ≠ .stopped then s.setField rBistStatus 7 4 2
  else if !s.bistScopeOk dies kind then s.setField rBistStatus 7 4 4
  else { s with bist := { s.bist with run := some ⟨dies, kind, 0⟩ } }

/-- A write of BIST.CMD: its scope is kept, GO starts the run. -/
def State.bistCommand (s : State) (v : Word) : State :=
  let s := s.rewrite rBistCmd (v &&& 0x37)
  s.when (bit v 8) fun s => s.bistGo (bits v 2 0) (bits v 5 4)

/-- BIST_GO: BIST.CMD written with GO. -/
def execBistGo (cmd : Word) (s : State) : Out :=
  whenNamed (bit cmd 8) (s.write32 rBistCmd fun s => s.bistCommand cmd)

/-! ### RECOVER (R518, R545, R618) -/

/-- The dies that take up their power again after a forced power-down (R518 step 2), their SRAM initialised (R366).
DESIGN CHOICE (notes/assumptions/117.md): the die's part of the committed image is written again, as at a power-up of S1. -/
def State.wakeDies (s : State) : State :=
  [Die.s0, Die.s1].foldl (fun s d =>
    if (s.die d).power = 1 then
      let s := s.initSram d
      let s := ((s.setDie d { s.die d with power := 2, forced := false, isolated := false }).lockDie d).selfRefresh d false
      match s.image with
      | some i => s.placeImage i d
      | none => s
    else s) s

/-- Whether a unit of a Stope die has left service. -/
def State.unitOut (s : State) (f : BistFail) : Bool :=
  let x := s.die (Die.ofIdx (f.die - 1))
  match f.cls with
  | 0 => (x.ces.getD f.inst CeUnit.idle).role == .retired
  | 1 => x.reOut.contains f.inst
  | 2 => x.rowOut.contains f.inst
  | 3 => x.seOut.contains f.inst
  | 4 => x.heapOut
  | _ => x.common

/-- Whether a failure retires a unit or makes its die unserviceable (R545): all but that of an SRAM in a common partition, which
belongs to no unit (notes/assumptions/121.md). -/
def failCounts (f : BistFail) : Bool := !(f.ram && (f.cls == 5 || f.cls == 6))

/-- A failed unit whose retirement waits for the next boundary (R545); a failed common partition or shared memory makes the die
unserviceable at once. -/
def DieState.condemnUnit (x : DieState) (cls inst : Nat) : DieState :=
  match cls with
  | 0 => x.mapCe inst fun c => { c with condemned := true }
  | 1 => { x with rePend := x.rePend ++ [inst] }
  | 2 => { x with rowPend := x.rowPend ++ [inst] }
  | 3 => { x with sePend := x.sePend ++ [inst] }
  | 4 => { x with heapPend := true }
  | _ => { x with common := true }

/-- The units other than collision engines that leave service at once; row groups with R159 (`State.retireRows`). -/
def DieState.dropUnits (x : DieState) (fails : List BistFail) : DieState :=
  (fails.filter fun f => f.cls != 0).foldl (fun y f =>
    if f.cls = 2 then { y with rowPend := y.rowPend ++ [f.inst] } else y.retireUnit f.cls f.inst) x

/-- Units condemned. -/
def DieState.condemnUnits (x : DieState) (fails : List BistFail) : DieState :=
  fails.foldl (fun y f => y.condemnUnit f.cls f.inst) x

/-- What a BIST run's failures do to a die (R545): with `now_` the units retire at once, with what R159 and R197 say of it, and
R198 follows where `pool`; else they are condemned. -/
def State.retireFound (s : State) (fails : List BistFail) (now_ pool : Bool) (d : Die) : State :=
  let mine := fails.filter fun f => f.die == d.idx + 1 && failCounts f && !s.unitOut f
  let x := s.die d
  if now_ then
    let gone := (List.range 68).filter fun p => mine.any fun f => f.cls == 0 && f.inst == p
    ((s.setDie d (x.dropUnits mine)).retireRows d).changeCes d x.rAct gone false pool
  else s.setDie d (x.condemnUnits mine)

/-- Whether a fitted profile of the committed image finds every die it uses serviceable (R518); without an image, the
profile in force is asked. -/
def State.recoverable (s : State) : Bool :=
  let ok := fun (p : Nat) => s.d0.serviceable && (!usesS1 p || s.d1.serviceable)
  match s.image with
  | none => ok (if s.hasS1 then s.profile else 0)
  | some i => (List.range 4).any fun p => (i.entry p).isSome && s.offered p && ok p

/-- Junction temperature field of a Stope die. -/
def State.temp (s : State) (d : Die) : Nat :=
  match d with
  | .s0 => bits (s.reg rDeputyTemp) 9 0
  | .s1 => bits (s.reg rDeputyTemp) 19 10

/-- A die's engines reset, and its power asked for again where it was forced off (R518 step 2). -/
def DieState.resetEngines (x : DieState) : DieState :=
  { x with power := if x.forced then 1 else x.power, reWork := [], sel := [], selFetch := [], roundOn := false, paBusy := false
           paRun := 0, heap := [], steps := List.replicate 68 0, ovm := Ovm.clear x.ovm }

/-- RECOVER (R518): step 1, and where no cause persists the engine resets, the power-up of the dies that were forced off
and the start of the BIST. -/
def execRecover (t : Nat) (s : State) : Out :=
  .next (s.when (s.sys.queue.head? == some (.cmd 7) && !s.sys.waitRec) fun s =>
    let s := s.advance t
    if s.dev ≠ .faulted then s.popCmd 7 reasonState
    else
      let s := { s with sys := { s.sys with waitRec := true } }
      let keep := setBits (setBits (s.reg rTallyRecovery) 5 4 0) 0 0 1
      if !s.dep.present.isEmpty then s.setReg rTallyRecovery (setBits keep 3 1 1)
      else
        let s := { s with d0 := s.d0.resetEngines, d1 := s.d1.resetEngines }
        let on := fun (x : DieState) => decide (x.power = 1 ∨ x.power = 2)
        let s := { s with bist := { s.bist with run := some ⟨2 * bnat (on s.d0) + 4 * bnat (on s.d1), 3, 2⟩ } }
        s.setReg rTallyRecovery (setBits keep 3 1 3))

/-- The sequence ends at a step with a result. -/
def State.endRecovery (s : State) (step result : Nat) : State :=
  let n := bits (s.reg rTallyRecovery) 31 16
  let s := s.setReg rTallyRecovery
    (packFields [(1, step), (4, result), (16, if result = 0 then min 65535 (n + 1) else n)])
  let s := { s with bist := { s.bist with run := none } }
  let s := s.log warn 0x0012 0 (leBytes 1 step ++ leBytes 1 result)
  if s.sys.waitRec then s.popCmd 7 reasonDone else s

/-- What a BIST run leaves in BIST.STATUS and BIST.FAILS, before its retirements (R544 to R546); `macros`: SRAMs that failed beside
those named. -/
def State.bistResult (s : State) (run : BistRun) (ms macros : Nat) (fails : List BistFail) : State :=
  let common := fun die => bnat (fails.any fun f => f.die == die && failCounts f && decide (5 ≤ f.cls))
  let units := ((fails.filter fun f => decide (f.cls < 5) && !s.unitOut f).map fun f => (f.die, f.cls, f.inst)).eraseDups.length
  let macros := macros + (fails.filter (·.ram)).eraseDups.length
  let s := s.setReg rBistStatus
    (packFields [(1, bnat (run.by_ == 1)), (4, bnat (!fails.isEmpty || decide (macros ≠ 0))), (16, min 65535 ms)])
  let s := s.setReg rBistFails
    (packFields [(0, min 255 units), (8, min 255 macros), (16, common 1), (17, common 2), (18, common 0)])
  let logic := decide (2 ≤ run.kind)
  { s with bist := { run := none, lbistDies := if logic then run.dies else s.bist.lbistDies
                     fails := if logic then fails.filter (!·.ram) else s.bist.fails } }

/-- A die that a RECOVER finds too hot stays off (R364, R618). -/
def State.forceOff (s : State) (d : Die) : State :=
  (s.setDie d { s.die d with power := 0, forced := true, isolated := true }).gatedDie d

/-- A powered die's engines take up service again (R618). -/
def State.serveDie (s : State) (d : Die) : State :=
  if (s.die d).power = 2 then s.takeService d else s

/-- RECOVER_DONE (R518): the steps after the first, with what step 3 finds (R545, R546). -/
def execRecoverDone (t : Nat) (met : RecoverMet) (s : State) : Out :=
  .next (s.when (s.dev == .faulted && bit (s.reg rTallyRecovery) 0) fun s =>
    let s := s.advance t
    match s.bist.run with
    | some run =>
      if run.by_ ≠ 2 then s
      else
        let hot := [Die.s0, Die.s1].filter fun d => (s.die d).power == 1 && decide (tempCode 116 ≤ s.temp d)
        if !hot.isEmpty then
          ((hot.foldl (fun s d => s.forceOff d) s).wakeDies).endRecovery 2 1
        else
          let s := s.wakeDies
          let fails := met.fails.filter (bistFinds run)
          let s := s.bistResult run 47 met.macros fails
          let s := (s.retireFound fails true false .s0).retireFound fails true false .s1
          let s := (s.serveDie .s0).serveDie .s1
          if !s.recoverable then s.endRecovery 3 2
          else { (s.retrainXcut.endRecovery 5 0) with dev := .stopped }
    | none => s.endRecovery 1 1)

/-- BIST_DONE (R544 to R546, R541): a run by command or of power-on ends, after `ms`, with the failures found and `macros` failed
SRAMs beside those named. -/
def execBistDone (t ms macros : Nat) (fails : List BistFail) (s : State) : Out :=
  .next (match s.bist.run with
    | none => s
    | some run =>
      if run.by_ = 2 then s
      else
        let s := s.advance t
        let fails := fails.filter (bistFinds run)
        let common := fails.any fun f => !f.ram && decide (5 ≤ f.cls)
        let hub := fails.any fun f => !f.ram && f.cls == 6
        let now_ := s.dev == .boot || s.dev == .ready || s.dev == .stopped
        let s := s.bistResult run ms macros fails
        let s := [Die.s0, Die.s1].foldl (fun s d => s.retireFound fails now_ (run.by_ == 0 && (s.die d).power == 2) d) s
        if run.by_ = 1 then s.when common fun s => s.setBootError 0xB
        else (s.irq 7).when hub fun s => s.enterSafe causeInjection)

/-! ### The test access port (R551) -/

/-- IDCODE: version 0xB, part 0x8400, manufacturer 0x2A5, 1. -/
def execIdcode (s : State) : Out := .next (s.emit (.jtag 32 0xB840054B))

/-- BYPASS: the bypass bit shifts through. -/
def execBypass (b : Bool) (s : State) : Out := .next (s.emit (.jtag 1 (BitVec.ofNat 32 (bnat b))))

end Sys2Proof.Machine
end

