-- ==== Sys2Proof/Machine/Log.lean ====
section
/-! DEFINITION. The Tally log's own steps (R519 to R527), its reads and dumps, and the SMBus target (R604). -/

namespace Sys2Proof.Machine
open Sys2Proof

/-! ### Programming (R519 to R522) -/

/-- The sector that holds an entry (R519). -/
def tallySector (seq : Nat) : Nat := (seq - 1) % 32768 / 1024

/-- The turn of the ring that an entry's sector belongs to: sectors entered since the first entry ever (R519). -/
def tallyTurn (seq : Nat) : Nat := (seq - 1) / 1024

/-- The turn of the newest entry written. -/
def Tally.headTurn (t : Tally) : Option Nat := t.written.head?.map fun e => tallyTurn e.1

/-- Whether an entry's sector is the one being written, or one that was entered before it. -/
def Tally.entered (t : Tally) (seq : Nat) : Bool := t.headTurn.any fun h => decide (tallyTurn seq ≤ h)

/-- An entry written to its slot with its LINK (R521); entering a sector loses what it held and begins the erase of the
next (R519). What is written out of SEQ order at a power loss (R525) enters no sector again. -/
def Tally.write (t : Tally) (e : TallyEntry) : Tally :=
  let link := (sha256 (t.link ++ e.bytes)).take 8
  let k := tallySector e.seq
  let next := (k + 1) % 32
  let t := if t.entered e.seq then
             { t with written := t.written.filter fun w => (w.1 - 1) % 32768 != (e.seq - 1) % 32768 }
           else { t with erasing := some next
                         written := t.written.filter fun w => tallySector w.1 != k && tallySector w.1 != next }
  { t with link := link
           written := (t.written.takeWhile fun w => decide (e.seq < w.1)) ++ [(e.seq, e.bytes ++ link)] ++
             t.written.dropWhile fun w => decide (e.seq < w.1) }

/-- A LOST entry once staging has room for it, behind the report of what was suppressed before it (R522, R523). -/
def State.reportLost (s : State) : State :=
  let n := s.tally.lost
  s.when (decide (n ≠ 0) && decide (s.tally.staged.length < 4096)) fun s =>
      let s := s.tallyReport
      s.when (decide (s.tally.staged.length < 4096)) fun s =>
        ({ s with tally := { s.tally with lost := 0 } }).tallyPush warn 4 0 (leBytes 4 n)

/-- TALLY_PROGRAM (R522): the oldest staged entry is programmed; it waits for a sector that is being erased. -/
def execTallyProgram (s : State) : Out :=
  .next (match s.tally.staged with
    | [] => s
    | e :: rest =>
      s.when (s.tally.ready && s.tally.erasing != some (tallySector e.seq)) fun s =>
        ({ s with tally := ({ s.tally with staged := rest }).write e }).reportLost)

/-- SECTOR_ERASE (R519): the erase in progress ends. -/
def execSectorErase (s : State) : Out :=
  .next (match s.tally.erasing with
    | none => s
    | some k => { s with tally := { s.tally with erasing := none, erases := modifyD 0 (· + 1) k s.tally.erases } })

/-- TOKEN (R523): the governor gains a token. -/
def execToken (s : State) : Out := .next { s with tally := { s.tally with tokens := min 4096 (s.tally.tokens + 1) } }

/-- POWER_LOSS (R525, R600): the entry in progress, up to 6 staged entries by severity, and a POWER_LOSS entry are written;
the rest of the staged entries are abandoned. -/
def execPowerLoss (t : Nat) (s : State) : Out :=
  .next (s.when s.tally.ready fun s =>
    let s := s.advance t
    let (first, rest) := (s.tally.staged.take 1, s.tally.staged.drop 1)
    let of := fun (sev : Nat) => rest.filter fun (e : TallyEntry) => e.sev == sev
    let chosen := (of 2 ++ of 1 ++ of 0).take 6
    let left := rest.filter fun (e : TallyEntry) => !chosen.contains e
    let log := { (first ++ chosen).foldl (fun (t : Tally) e => t.write e) s.tally with staged := [] }
    let at0 := match left with | e :: _ => e.seq | [] => 0
    let s := (({ s with tally := log } : State).spendToken warn).tallyPush warn 2 0 (leBytes 4 left.length ++ leBytes 8 at0)
    { s with tally := { s.tally.staged.foldl (fun (t : Tally) e => t.write e) s.tally with staged := [] } })

/-! ### Reads and dumps (TALLY registers) -/

/-- The bytes of a slot shown in RD0 to RD15, with the RESULT of TALLY.RD_STATUS. -/
def State.showEntry (s : State) (result : Nat) (bs : List Byte) : State :=
  let s := (List.range 16).foldl (fun s n => s.setReg (rTallyRd n) (BitVec.ofNat 32 (fieldU bs (4 * n) 4))) s
  s.setReg rTallyRdStatus (packFields [(1, result)])

/-- A write of TALLY.RD_SEQ_LO: the entry is loaded. -/
def State.readEntry (s : State) (lo : Word) (ue : Bool) : State :=
  let s := s.rewrite rTallyRdSeqLo lo
  let q := s.pair rTallyRdSeqLo rTallyRdSeqHi
  match s.tally.written.find? fun e => e.1 == q with
  | some e => if ue then (s.showEntry 3 []).event rTallyEvents 7 else s.showEntry 0 e.2
  | none => s.showEntry (if s.tally.head < q then 2 else 1) []

/-- RD_SEQ: TALLY.RD_SEQ_LO written. -/
def execRdSeq (lo : Word) (ue : Bool) (s : State) : Out := .next (s.write32 rTallyRdSeqLo fun s => s.readEntry lo ue)

/-- GO of TALLY.DUMP_CTRL: the entries as they stand, in SEQ order. -/
def State.startDump (s : State) : State :=
  if s.tally.dumping.isSome then s
  else
    let dst := s.pair rTallyDumpDstLo rTallyDumpDstHi
    let entries := s.tally.written.reverse
    if dst + 64 * entries.length ≤ s.usable .s0 then
      { s with tally := { s.tally with dumping := some (dst, entries) } }
    else s.event rTallyEvents 6

/-- DUMP: TALLY.DUMP_CTRL written with GO. -/
def execDump (s : State) : Out := .next (s.write32 rTallyDumpCtrl fun s => s.startDump)

/-- DUMP_DONE. -/
def execDumpDone (s : State) : Out :=
  .next (match s.tally.dumping with
    | none => s
    | some (dst, es) =>
      let s := ({ s with tally := { s.tally with dumping := none } }).store dst (es.flatMap fun (e : Nat × List Byte) => e.2)
      (s.setReg rTallyDumpCount (BitVec.ofNat 32 es.length)).event rTallyEvents 5)

/-! ### The SMBus target (R604) -/

/-- The packet error code of SMBus: CRC-8 of polynomial 0x07 from 0 (notes/assumptions/12.md). -/
def smbPec (bs : List Byte) : Byte :=
  bs.foldl (fun c b => (List.range 8).foldl (fun (c : Byte) _ =>
    if c.getLsbD 7 then (c <<< 1) ^^^ 0x07#8 else c <<< 1) (c ^^^ b)) 0#8

/-- A Block Read of a command, from the release of the power-on reset on: count, four bytes, PEC over the whole transfer at address
0x5A. -/
def smbRead (cmd : Byte) (w : Word) (s : State) : Out :=
  let data := leBytes 4 w.toNat
  .next (s.when (!s.sys.porHeld) fun s =>
    s.emit (.smbus ([4] ++ data ++ [smbPec ([0xB4, cmd, 0xB5, 4] ++ data)])))

/-- SMB_ID: GLB.ID. -/
def execSmbId (s : State) : Out := smbRead 0x10 (s.peek rGlbId) s

/-- SMB_STATE: GLB.STATE. -/
def execSmbState (s : State) : Out := smbRead 0x11 (s.peek rGlbState) s

/-- SMB_TEMP: DEPUTY.TEMP. -/
def execSmbTemp (s : State) : Out := smbRead 0x12 (s.peek rDeputyTemp) s

/-- SMB_RAILS: CLKPWR.RAILS. -/
def execSmbRails (s : State) : Out := smbRead 0x13 (s.peek rClkpwrRails) s

/-- SMB_TALLY_HEAD: TALLY.HEAD_SEQ_LO. -/
def execSmbTallyHead (s : State) : Out := smbRead 0x14 (s.peek rTallyHeadSeqLo) s

/-- SMB_ARA: the Alert Response Address is answered while SM_ALERT_N is low. -/
def execSmbAra (s : State) : Out :=
  .next (s.when (!s.sys.porHeld && (s.dep.thermLow || s.dev == .faulted)) fun s => s.emit (.smbus [0x5A]))

end Sys2Proof.Machine
end

