-- ==== Sys2Proof/Machine/Registers.lean ====
section
/-! DEFINITION. Accesses through BAR0: sizes, field types, two-word registers, clear-on-read, shadow registers, aliases,
the bit window, lock bits and the parity scan (R12, R556 to R578, R591, R592). -/

namespace Sys2Proof.Machine
open Sys2Proof

/-! ### What the map says beyond the field masks -/

/-- The _LO registers of the two-word values (R560), as offset, distance and number: hub blocks, then a die's blocks. Each
_HI register stands 4 bytes on. -/
def hubPairs : List (Nat × Nat × Nat) :=
  [(0x20008, 4, 1), (0x20010, 4, 1), (0x20018, 4, 1), (0x20020, 4, 1), (0x20028, 4, 1), (0x60014, 4, 1), (0x60028, 4, 1),
   (0xD0008, 4, 1), (0x30008, 4, 1), (0x40100, 16, 8), (0x41010, 64, 140), (0x41018, 64, 140), (0xB0108, 4, 1),
   (0xB0110, 4, 1), (0xB011C, 4, 1), (0xB0124, 4, 1), (0x7000C, 4, 1), (0x80004, 4, 1), (0x8000C, 4, 1), (0x80014, 4, 1),
   (0x8001C, 4, 1), (0x80080, 4, 1), (0x80090, 4, 1), (0x90030, 4, 1)]

/-- The _LO registers of a Stope die, by offset in its region. -/
def diePairs : List (Nat × Nat × Nat) :=
  [(0x1000C, 4, 1), (0x30024, 4, 1), (0x3002C, 4, 1), (0x30034, 4, 1), (0x4000C, 256, 68), (0x50088, 4, 1), (0x80014, 4, 1),
   (0x90000, 64, 32)]

/-- Whether a list of registers holds an offset. -/
def holdsOfs (ps : List (Nat × Nat × Nat)) (o : Nat) : Bool :=
  ps.any fun p => decide (p.1 ≤ o) && decide ((o - p.1) % p.2.1 = 0) && decide ((o - p.1) / p.2.1 < p.2.2)

/-- Whether the register at a primary offset is a _LO word. -/
def isLoWord (o : Nat) : Bool :=
  match regionOf o with
  | .hub => holdsOfs hubPairs o
  | .die d => holdsOfs diePairs (o - d.base)
  | .beyond => false

/-- Whether the register at a primary offset is a _HI word. -/
def isHiWord (o : Nat) : Bool := decide (4 ≤ o) && isLoWord (o - 4)

/-- The SH fields of a register as masks (R591): the registers with several fields, else one field. -/
def shFields (o : Nat) (mask : Word) : List Word :=
  if o = rTickCtrl then [0x3, 0x10, 0x20]
  else if o = rWorldDirExt then [0xFFFF, 0xFFFF0000]
  else if o = rKlinkCoord then [0x3F, 0x3F00, 0x3F0000]
  else if o = rHeapTraceCtrl .s0 ∨ o = rHeapTraceCtrl .s1 then [0x1, 0xE, 0x10]
  else if o = rWorldDirBaseLo ∨ o = rWorldStoreBaseLo then [BitVec.allOnes 32]
  else if mask = 0 then [] else [mask]

/-- The frozen RWL bits of a register (R574, R592): a lock bit of SEC.LOCK freezes itself, GLB.LOCK.LOCK all the others. -/
def State.frozen (s : State) (o : Nat) (rwl : Word) : Word :=
  if o = rSecLock then s.reg o &&& rwl else if bit (s.reg rGlbLock) 0 then rwl else 0

/-! ### Writes by field type (R12) -/

/-- A register with its RW and RWL bits as given. -/
def State.putWord (s : State) (o : Nat) (v : Word) : State := s.rewrite o v

/-- A write of a register of a host-side channel's set: ring and configuration registers only while the channel is not busy;
TAIL at any time (HAUL registers, R400, R401). -/
def State.putChannel (s : State) (o : Nat) (v : Word) : State :=
  let ch := (o - 0x41000) / 64
  let busy := (s.chan ch).chain.isSome
  if o = rHaulChCringSize ch then s.setCring ch v
  else if (o = rHaulChCringLo ch ∨ o = rHaulChCringHi ch) ∧ busy then s.event (rHaulChEvents ch) 4
  else if o = rHaulChCringTail ch then (s.putWord o v).retryRecords ch
  else s.putWord o v

/-- A write of an EG channel's ring base or geometry (R402). -/
def State.putEg (s : State) (o : Nat) (v : Word) : State :=
  let e := (o - 0x40100) / 16
  let owned := match s.image with
    | some i => decide (o = rHaulEgGeom e) && decide (i.streams.planChan = e)
    | none => false
  if owned then s.event (rHaulChEvents (128 + e)) 6
  else if s.dev = .stopped then s.putWord o v
  else s

/-- RW fields written: `v` is the whole register with them. -/
def State.putRw (s : State) (o : Nat) (v : Word) : State :=
  if o = rTallyRdSeqLo then s.readEntry v false
  else if 0x40100 ≤ o ∧ o < 0x40180 then s.putEg o v
  else if 0x41000 ≤ o ∧ o < 0x43300 then s.putChannel o v
  else s.putWord o v

/-- A value of SH fields made pending (R563). -/
def State.shadow (s : State) (o : Nat) (mask v : Word) : State :=
  let old := match s.sh.find? fun p => p.off == o with | some p => p | none => ⟨o, 0, 0⟩
  let new : ShPend := ⟨o, old.mask ||| mask, (old.val &&& ~~~mask) ||| (v &&& mask)⟩
  ({ s with sh := (s.sh.filter fun (p : ShPend) => p.off != o) ++ [new] }).mend fun b => b.off == o && b.pending

/-- The SH fields of a register as a write sees them: pending where a value is, in force otherwise (R571). -/
def State.shadowed (s : State) (o : Nat) : Word :=
  match s.sh.find? fun p => p.off == o with
  | some p => (s.reg o &&& ~~~p.mask) ||| (p.val &&& p.mask)
  | none => s.reg o

/-- The pulses of W1P bits. -/
def State.pulse (s : State) (o : Nat) (p : Word) : State :=
  if p = 0 then s
  else if o = rGlbCommit then
    (s.when (bit p 1) fun s => s.dropPending).when (bit p 0) fun s => s.pushCmd .commit
  else if o = rWorldCtrl then s.startSync
  else if o = rDeputyCtrl then s.hostSafe
  else if o = rTallyDumpCtrl then s.startDump
  else if o = rSecCtrl then
    ((s.when (bit p 0) fun s => s.pushFirmware).when (bit p 1) fun s => s.pushFlash).when (bit p 2) fun s => s.attest
  else if o = rBistCmd then s.bistGo (bits (s.reg rBistCmd) 2 0) (bits (s.reg rBistCmd) 5 4)
  else if o = rKlinkGopCtrl then
    let s := ((s.when (bit p 0) fun s => s.enterBarrier).when (bit p 1) fun s => s.startBcast).when (bit p 2) fun s =>
      s.startSnap
    (s.when (bit p 3) fun s => s.startFlood false).when (bit p 4) fun s => s.startFlood true
  else if o = rStructCtrl then s.startLoad
  else if 0x41000 ≤ o ∧ o < 0x43300 then s.chanCtrl ((o - 0x41000) / 64) p
  else
    match regionOf o with
    | .die d =>
      if o = rSelSwGo d then (s.when (bit p 0) fun s => s.softSelect d 0).when (bit p 1) fun s => s.softSelect d 1
      else s.softIhaul d ((o - d.base - 0x90000) / 64)
    | _ => s

/-- A write of WO fields: GLB.CMD, a doorbell, SEC.OTP_CMD. -/
def State.putWo (s : State) (o : Nat) (v : Word) : State :=
  if o = rGlbCmd then s.pushCmd (.cmd (bits v 7 0))
  else if o = rSecOtpCmd then s.otpCommand v
  else s.ringDoorbell ((o - 0x41000) / 64) v

/-- A write performed on a register: `act` are the bits acted on, `v` their new values, `fire` the bits a write touches,
`pulses` the W1P bits pulsed, `at_` the BAR0 offset of the access (R12, R563, R571, R573, R575). -/
def State.putReg (s : State) (r : RegDef) (o at_ : Nat) (v act fire pulses : Word) : State :=
  let rw := BitVec.ofNat 32 r.rw
  let sh := BitVec.ofNat 32 r.sh
  let rwl := BitVec.ofNat 32 r.rwl
  let cur := s.reg o
  let frozen := s.frozen o rwl
  let touched := (shFields o sh).foldl (fun m f => if f &&& act = 0 then m else m ||| f) 0#32
  let base := s.shadowed o
  let s := s.when (touched != 0) fun s => s.shadow o (touched &&& sh) ((base &&& ~~~act) ||| (v &&& act))
  let s := s.when (rw &&& fire != 0) fun s => s.putRw o ((cur &&& ~~~(act &&& rw)) ||| (v &&& act &&& rw))
  let s := s.when (rwl &&& fire &&& ~~~frozen != 0) fun s =>
    let m := act &&& rwl &&& ~~~frozen
    s.putWord o ((cur &&& ~~~m) ||| (v &&& m))
  let s := s.when ((cur ^^^ v) &&& act &&& frozen != 0) fun s => s.recordAccess errLocked true 3 15 at_
  let s := s.pulse o (pulses &&& BitVec.ofNat 32 r.w1p)
  s.when (BitVec.ofNat 32 r.wo &&& fire != 0) fun s => s.putWo o (v &&& act &&& BitVec.ofNat 32 r.wo)

/-! ### Parity (R576 to R578) -/

/-- Whether a byte of a register's configuration storage exists: of its value in force, or of a pending value. -/
def State.paritySite (s : State) (o byte : Nat) (pending : Bool) : Bool :=
  let m := BitVec.ofNat 32 (255 * 2 ^ (8 * byte))
  decide (byte < 4) && decide (canonical o = o) && match findReg o with
    | none => false
    | some r =>
      if pending then s.sh.any fun p => p.off == o && p.mask &&& m != 0
      else BitVec.ofNat 32 (r.rw ||| r.sh ||| r.rwl) &&& m != 0

/-! ### Accesses (R556 to R562, R569 to R573) -/

/-- An access to a primary offset performed as `f`, or recorded (R559). -/
def State.reach (s : State) (o at_ : Nat) (write : Bool) (f : RegDef → State) : State :=
  let c := s.accessCode o
  if c = 0 then
    match findReg o with
    | some r => f r
    | none => s
  else s.recordAccess c write 3 15 at_

/-- Whether the bit window is selected (GLB.ALIAS_MODE). -/
def State.windowMode (s : State) : Bool := bit (s.reg rGlbAliasMode) 0

/-- The primary offset and the bit that a window word addresses (R572). -/
def State.windowBit (s : State) (a : Nat) : Nat × Nat :=
  (bits (s.reg rGlbBitwinBase) 23 16 * 65536 + (a - 0x1000000) / 128 * 4, (a - 0x1000000) % 128 / 4)

/-- A write to a SET (1), CLEAR (2) or TOGGLE (3) alias (R570, R571). -/
def State.aliasWrite (s : State) (a : Nat) (w : Word) : State :=
  let o := canonical (a % 0x1000000)
  s.reach (a % 0x1000000) a true fun r =>
    if r.wo ≠ 0 then s.recordAccess errAlias true 3 15 a
    else
      let base := s.shadowed o
      match a / 0x1000000 with
      | 1 => s.putReg r o a w w (BitVec.allOnes 32) w
      | 2 => s.putReg r o a 0 w (BitVec.allOnes 32) 0
      | _ => s.putReg r o a (~~~base) w (BitVec.allOnes 32) 0

/-- A write of a bit through the bit window (R573). -/
def State.windowBitWrite (s : State) (a : Nat) (w : Word) : State :=
  let (o, n) := s.windowBit a
  if 0x1000000 ≤ o then s.recordAccess errAlias true 3 15 a
  else
    let m := BitVec.ofNat 32 (2 ^ n)
    let v := if bit w 0 then m else 0
    s.reach o a true fun r => s.putReg r (canonical o) a v m m v

/-- A naturally aligned 32-bit write (R556). -/
def State.write4 (s : State) (a : Nat) (w : Word) : State :=
  if a < 0x1000000 then
    s.reach a a true fun r => s.putReg r (canonical a) a w (BitVec.allOnes 32) (BitVec.allOnes 32) w
  else if s.windowMode then s.windowBitWrite a w
  else s.aliasWrite a w

/-- The word a direct read of a register returns, with its side effects: RC bits of the mask clear, a _LO word captures its
_HI word, a _HI word is the latch (R560, R562). -/
def State.readWord (s : State) (o : Nat) (clear : Word) : Word × State :=
  if isHiWord o then
    ((match s.latches.find? fun l => l.1 == o - 4 with | some l => l.2 | none => 0), s)
  else
    let v := s.peek o
    let s := s.checkParity o []
    let s := s.when (isLoWord o) fun s =>
      { (s.checkParity (o + 4) []) with latches := (s.latches.filter fun l => l.1 != o) ++ [(o, s.peek (o + 4))] }
    let s := s.when (rcMask o &&& clear != 0) fun s => s.setReg o (s.reg o &&& ~~~(rcMask o &&& clear))
    (v, if o = rGlbGpioIn then { s with free := s.free + 1 } else s)

/-- A 32-bit read of a primary offset, or 0 with the access recorded. -/
def State.readAt (s : State) (o at_ : Nat) (clear : Word) : Word × State :=
  if s.accessCode o = 0 then s.readWord (canonical o) clear
  else (0, s.recordAccess (s.accessCode o) false 3 15 at_)

/-- A naturally aligned 32-bit read (R556, R571, R573). -/
def State.read4 (s : State) (a : Nat) : Word × State :=
  if a < 0x1000000 then s.readAt a a (BitVec.allOnes 32)
  else if s.windowMode then
    let (o, n) := s.windowBit a
    if 0x1000000 ≤ o then (0, s.recordAccess errAlias false 3 15 a)
    else
      let (v, s) := s.readAt o a (BitVec.ofNat 32 (2 ^ n))
      (if bit v n then 1 else 0, s)
  else (0, s)

/-- SIZE of REGIF.ERR_STATUS. -/
def sizeCode (size be : Nat) : Nat :=
  if size ≤ 1 then 0 else if size = 2 then 1 else if size ≤ 4 then (if size = 4 ∧ be % 16 = 15 then 3 else 2)
  else if size ≤ 8 then 4 else 5

/-- Byte enables of the first 32-bit word of an access. -/
def firstEnables (a size be : Nat) : Nat := if size < 4 then (2 ^ size - 1) * 2 ^ (a % 4) % 16 else be % 16

/-- Why R557 refuses an access of at most one word, 0 where it does not. -/
def sizeRefused (a size be : Nat) : Nat :=
  if size = 4 ∧ a % 4 = 0 ∧ be % 16 = 15 then 0
  else if (size = 2 ∨ size = 4 ∨ size = 8) ∧ a % size ≠ 0 then errAlign else errSize

/-- A write of one word, or an access that R557 refuses. -/
def State.writeWord (s : State) (a size be : Nat) (w : Word) : State :=
  let c := sizeRefused a size be
  if c = 0 then s.write4 a w else s.recordAccess c true (sizeCode size be) (firstEnables a size be) a

/-- A write through BAR0 (R556 to R558); in D3hot none is performed (R373). -/
def State.busWrite (s : State) (a size be : Nat) (lo hi : Word) : State :=
  if s.host.d3 then s
  else if size = 8 ∧ a % 8 = 0 then (s.writeWord a 4 (be % 16) lo).writeWord (a + 4) 4 (be / 16) hi
  else s.writeWord a size be lo

/-- A read of one word, or an access that R557 refuses: the word is driven. -/
def State.readOut (s : State) (a size be : Nat) : State :=
  let c := sizeRefused a size be
  if c = 0 then
    let (v, s) := s.read4 a
    s.emit (.read v)
  else (s.recordAccess c false (sizeCode size be) (firstEnables a size be) a).emit (.read 0)

/-- A read through BAR0. -/
def State.busRead (s : State) (a size be : Nat) : State :=
  if s.host.d3 then s
  else if size = 8 ∧ a % 8 = 0 then (s.readOut a 4 (be % 16)).readOut (a + 4) 4 (be / 16)
  else s.readOut a size be

/-! ### The commands -/

/-- The extent of BAR0 (R579). -/
def inBar0 (a : Nat) : Bool := decide (a < 0x4000000)

/-- REGISTER_WRITE (R557): `size` bytes with byte enables `be`; `hi` is the second word of an 8-byte access. -/
def execRegisterWrite (ofs size be : Nat) (lo hi : Word) (s : State) : Out :=
  whenNamed (inBar0 ofs) (s.busWrite ofs size be lo hi)

/-- CLEAR_ON_READ (R562): a direct read of an RC register. -/
def execClearOnRead (ofs : Nat) (s : State) : Out := whenNamed (inBar0 ofs) (s.busRead ofs 4 15)

/-- CAPTURE_READ (R560): a read, which captures the high half where it is of a _LO word. -/
def execCaptureRead (ofs size be : Nat) (s : State) : Out := whenNamed (inBar0 ofs) (s.busRead ofs size be)

/-- SH_WRITE (R563): a direct write of a register with SH fields. -/
def execShWrite (ofs : Nat) (v : Word) (s : State) : Out :=
  whenNamed (match findReg ofs with | some r => decide (r.sh ≠ 0) | none => false) (s.busWrite ofs 4 15 v 0)

/-- SET_ALIAS (R570). -/
def execSetAlias (ofs : Nat) (v : Word) (s : State) : Out :=
  whenNamed (ofs < 0x1000000) (s.busWrite (0x1000000 + ofs) 4 15 v 0)

/-- CLEAR_ALIAS (R570). -/
def execClearAlias (ofs : Nat) (v : Word) (s : State) : Out :=
  whenNamed (ofs < 0x1000000) (s.busWrite (0x2000000 + ofs) 4 15 v 0)

/-- TOGGLE_ALIAS (R570). -/
def execToggleAlias (ofs : Nat) (v : Word) (s : State) : Out :=
  whenNamed (ofs < 0x1000000) (s.busWrite (0x3000000 + ofs) 4 15 v 0)

/-- BIT_WINDOW_WRITE (R573). -/
def execBitWindowWrite (addr : Nat) (v : Word) (s : State) : Out :=
  whenNamed (decide (0x1000000 ≤ addr) && inBar0 addr) (s.busWrite addr 4 15 v 0)

/-- BIT_WINDOW_READ (R573). -/
def execBitWindowRead (addr : Nat) (s : State) : Out :=
  whenNamed (decide (0x1000000 ≤ addr) && inBar0 addr) (s.busRead addr 4 15)

/-- ALIAS_MODE (R569). -/
def execAliasMode (v : Word) (s : State) : Out := .next (s.busWrite rGlbAliasMode 4 15 v 0)

/-- BITWIN_BASE (R569). -/
def execBitwinBase (v : Word) (s : State) : Out := .next (s.busWrite rGlbBitwinBase 4 15 v 0)

/-- LOCK (R574): GLB.LOCK or SEC.LOCK written. -/
def execLock (ofs : Nat) (v : Word) (s : State) : Out :=
  whenNamed (ofs = rGlbLock ∨ ofs = rSecLock) (s.busWrite ofs 4 15 v 0)

/-- PARITY_SCAN (R577, R578): a pass of the scan over every register. -/
def execParityScan (pass : ScanPass) (s : State) : Out :=
  let s := s.count rRegifScan 1
  let site := fun (f : Nat × Nat × Bool) => s.paritySite f.1 f.2.1 f.2.2
  let fs := pass.found.filter site
  let regs := (fs.map (·.1) ++ s.badRegs.map (·.off)).eraseDups
  .next ((regs.foldl (fun s o => s.checkParity o (fs.filter fun f => f.1 == o)) s).spoilParity false (pass.after.filter site))

end Sys2Proof.Machine
end

