-- ==== Sys2Proof/Machine/Dispatch.lean ====
section
/-! DEFINITION. One arm per command: the meaning of each row of spec/opcode_table.json, in the table's order. -/

namespace Sys2Proof.Machine
open Sys2Proof

/-- The effect of a command on everything but the queue. -/
def exec (i : Instr) (s : State) : Host.Outcome State Fault Refusal :=
  match i with
  | .tickBoundary t => Sys2Proof.Machine.execTickBoundary t s
  | .tickInPulse e width => Sys2Proof.Machine.execTickInPulse e width s
  | .mark port tickLo remain arrival => Sys2Proof.Machine.execMark port tickLo remain arrival s
  | .srcLost t => Sys2Proof.Machine.execSrcLost t s
  | .tickTiming t spacing => Sys2Proof.Machine.execTickTiming t spacing s
  | .phaseRelease t ph => Sys2Proof.Machine.execPhaseRelease t ph s
  | .phaseWatchdog t b => Sys2Proof.Machine.execPhaseWatchdog t b s
  | .recordDeadline b => Sys2Proof.Machine.execRecordDeadline b s
  | .epochCommit t m0 m1 crcBad => Sys2Proof.Machine.execEpochCommit t m0 m1 crcBad s
  | .commitEnd t => Sys2Proof.Machine.execCommitEnd t s
  | .timeup t => Sys2Proof.Machine.execTimeup t s
  | .start t missed => Sys2Proof.Machine.execStart t missed s
  | .stop t => Sys2Proof.Machine.execStop t s
  | .hold t => Sys2Proof.Machine.execHold t s
  | .resume t missed => Sys2Proof.Machine.execResume t missed s
  | .save t => Sys2Proof.Machine.execSave t s
  | .restore t => Sys2Proof.Machine.execRestore t s
  | .recover t => Sys2Proof.Machine.execRecover t s
  | .recoverDone t met => Sys2Proof.Machine.execRecoverDone t met s
  | .commit t => Sys2Proof.Machine.execCommit t s
  | .discard => Sys2Proof.Machine.execDiscard s
  | .halt p => Sys2Proof.Machine.execHalt p s
  | .deviceReset => Sys2Proof.Machine.execDeviceReset s
  | .resetRelease bootsel testMode haltLow flashError container => Sys2Proof.Machine.execResetRelease bootsel testMode haltLow flashError container s
  | .powerOnReset => Sys2Proof.Machine.execPowerOnReset s
  | .bootComplete => Sys2Proof.Machine.execBootComplete s
  | .flr t step => Sys2Proof.Machine.execFlr t step s
  | .linkDown t => Sys2Proof.Machine.execLinkDown t s
  | .linkUp speed width => Sys2Proof.Machine.execLinkUp speed width s
  | .d3hot => Sys2Proof.Machine.execD3hot s
  | .d0Return => Sys2Proof.Machine.execD0Return s
  | .msixUnmask w => Sys2Proof.Machine.execMsixUnmask w s
  | .s1Isolate t drainNs => Sys2Proof.Machine.execS1Isolate t drainNs s
  | .s1PowerUp t => Sys2Proof.Machine.execS1PowerUp t s
  | .clockSwitch d t => Sys2Proof.Machine.execClockSwitch d t s
  | .tile stream arrival item => Sys2Proof.Machine.execTile stream arrival item s
  | .dir stream arrival item => Sys2Proof.Machine.execDir stream arrival item s
  | .agent stream arrival item => Sys2Proof.Machine.execAgent stream arrival item s
  | .ego stream arrival item => Sys2Proof.Machine.execEgo stream arrival item s
  | .route stream arrival item => Sys2Proof.Machine.execRoute stream arrival item s
  | .urgent stream arrival item => Sys2Proof.Machine.execUrgent stream arrival item s
  | .s1Sync => Sys2Proof.Machine.execS1Sync s
  | .syncDone => Sys2Proof.Machine.execSyncDone s
  | .taskDispatch d cls by_ => Sys2Proof.Machine.execTaskDispatch d cls by_ s
  | .taskComplete d t what => Sys2Proof.Machine.execTaskComplete d t what s
  | .readyListEntry d cls => Sys2Proof.Machine.execReadyListEntry d cls s
  | .merit d e stall met => Sys2Proof.Machine.execMerit d e stall met s
  | .compact d e stall met => Sys2Proof.Machine.execCompact d e stall met s
  | .topk d e stall met => Sys2Proof.Machine.execTopk d e stall met s
  | .keyins d e stall met => Sys2Proof.Machine.execKeyins d e stall met s
  | .swGo d e => Sys2Proof.Machine.execSwGo d e s
  | .ihaulGo d c => Sys2Proof.Machine.execIhaulGo d c s
  | .sweepStep d p t met => Sys2Proof.Machine.execSweepStep d p t met s
  | .canarySlotEnd d corrupt met => Sys2Proof.Machine.execCanarySlotEnd d corrupt met s
  | .testSliceStart d cls unit t => Sys2Proof.Machine.execTestSliceStart d cls unit t s
  | .testSliceEnd d cls unit t passed => Sys2Proof.Machine.execTestSliceEnd d cls unit t passed s
  | .latent d cls unit ageMs => Sys2Proof.Machine.execLatent d cls unit ageMs s
  | .testOverdue t d cls unit => Sys2Proof.Machine.execTestOverdue t d cls unit s
  | .issueVerdict met => Sys2Proof.Machine.execIssueVerdict met s
  | .verdictLate t => Sys2Proof.Machine.execVerdictLate t s
  | .safeReq t => Sys2Proof.Machine.execSafeReq t s
  | .lockstep t => Sys2Proof.Machine.execLockstep t s
  | .depClock t ppm => Sys2Proof.Machine.execDepClock t ppm s
  | .depVolt t mV => Sys2Proof.Machine.execDepVolt t mV s
  | .overtemp t s0 s1 h => Sys2Proof.Machine.execOvertemp t s0 s1 h s
  | .depclkLost t => Sys2Proof.Machine.execDepclkLost t s
  | .thermN s0 s1 h => Sys2Proof.Machine.execThermN s0 s1 h s
  | .status seq arg crc => Sys2Proof.Machine.execStatus seq arg crc s
  | .verdict seq arg crc => Sys2Proof.Machine.execVerdict seq arg crc s
  | .verdictAt seq arg crc => Sys2Proof.Machine.execVerdictAt seq arg crc s
  | .release seq arg f => Sys2Proof.Machine.execRelease seq arg f s
  | .safe t seq arg crc => Sys2Proof.Machine.execSafe t seq arg crc s
  | .echo seq arg crc => Sys2Proof.Machine.execEcho seq arg crc s
  | .spiAbandon => Sys2Proof.Machine.execSpiAbandon s
  | .doorbell ch lo => Sys2Proof.Machine.execDoorbell ch lo s
  | .chainStart ch => Sys2Proof.Machine.execChainStart ch s
  | .descriptorStart ch desc sg => Sys2Proof.Machine.execDescriptorStart ch desc sg s
  | .descriptorComplete ch x => Sys2Proof.Machine.execDescriptorComplete ch x s
  | .flushReadReturn ch t => Sys2Proof.Machine.execFlushReadReturn ch t s
  | .cplTimeout ch => Sys2Proof.Machine.execCplTimeout ch s
  | .hostReadCompletion ch kind => Sys2Proof.Machine.execHostReadCompletion ch kind s
  | .poisonRx => Sys2Proof.Machine.execPoisonRx s
  | .ringRecord ch => Sys2Proof.Machine.execRingRecord ch s
  | .chPause ch => Sys2Proof.Machine.execChPause ch s
  | .chResume ch => Sys2Proof.Machine.execChResume ch s
  | .chStop ch => Sys2Proof.Machine.execChStop ch s
  | .chCringSize ch v => Sys2Proof.Machine.execChCringSize ch v s
  | .winBase hi v => Sys2Proof.Machine.execWinBase hi v s
  | .bar2Read ofs len met => Sys2Proof.Machine.execBar2Read ofs len met s
  | .bar2Write ofs w => Sys2Proof.Machine.execBar2Write ofs w s
  | .registerWrite ofs size be lo hi => Sys2Proof.Machine.execRegisterWrite ofs size be lo hi s
  | .clearOnRead ofs => Sys2Proof.Machine.execClearOnRead ofs s
  | .captureRead ofs size be => Sys2Proof.Machine.execCaptureRead ofs size be s
  | .shWrite ofs v => Sys2Proof.Machine.execShWrite ofs v s
  | .setAlias ofs v => Sys2Proof.Machine.execSetAlias ofs v s
  | .clearAlias ofs v => Sys2Proof.Machine.execClearAlias ofs v s
  | .toggleAlias ofs v => Sys2Proof.Machine.execToggleAlias ofs v s
  | .bitWindowWrite addr v => Sys2Proof.Machine.execBitWindowWrite addr v s
  | .bitWindowRead addr => Sys2Proof.Machine.execBitWindowRead addr s
  | .aliasMode v => Sys2Proof.Machine.execAliasMode v s
  | .bitwinBase v => Sys2Proof.Machine.execBitwinBase v s
  | .lock ofs v => Sys2Proof.Machine.execLock ofs v s
  | .parityScan pass => Sys2Proof.Machine.execParityScan pass s
  | .laneFail port lane => Sys2Proof.Machine.execLaneFail port lane s
  | .train port node digest wire => Sys2Proof.Machine.execTrain port node digest wire s
  | .flit port f => Sys2Proof.Machine.execFlit port f s
  | .ack port n => Sys2Proof.Machine.execAck port n s
  | .nak port n => Sys2Proof.Machine.execNak port n s
  | .credit port vc n => Sys2Proof.Machine.execCredit port vc n s
  | .snapReq t tick => Sys2Proof.Machine.execSnapReq t tick s
  | .barrierBlock port gather epoch => Sys2Proof.Machine.execBarrierBlock port gather epoch s
  | .stopSymbol t port seq => Sys2Proof.Machine.execStopSymbol t port seq s
  | .resetSymbol t port seq => Sys2Proof.Machine.execResetSymbol t port seq s
  | .barrier => Sys2Proof.Machine.execBarrier s
  | .bcast => Sys2Proof.Machine.execBcast s
  | .snap => Sys2Proof.Machine.execSnap s
  | .stopFlood t => Sys2Proof.Machine.execStopFlood t s
  | .resetFlood t => Sys2Proof.Machine.execResetFlood t s
  | .put src tag addr w => Sys2Proof.Machine.execPut src tag addr w s
  | .get src tag addr len met => Sys2Proof.Machine.execGet src tag addr len met s
  | .atomicAdd src tag addr v => Sys2Proof.Machine.execAtomicAdd src tag addr v s
  | .atomicMax src tag addr v => Sys2Proof.Machine.execAtomicMax src tag addr v s
  | .atomicSwap src tag addr v => Sys2Proof.Machine.execAtomicSwap src tag addr v s
  | .atomicCas src tag addr c v => Sys2Proof.Machine.execAtomicCas src tag addr c v s
  | .signal src tag addr counter w => Sys2Proof.Machine.execSignal src tag addr counter w s
  | .fence issuer => Sys2Proof.Machine.execFence issuer s
  | .response tag status data => Sys2Proof.Machine.execResponse tag status data s
  | .broadcast src addr data => Sys2Proof.Machine.execBroadcast src addr data s
  | .xcutFlitFail hub d retries => Sys2Proof.Machine.execXcutFlitFail hub d retries s
  | .refclkLost => Sys2Proof.Machine.execRefclkLost s
  | .klrefLost => Sys2Proof.Machine.execKlrefLost s
  | .arithPllUnlock d => Sys2Proof.Machine.execArithPllUnlock d s
  | .fabricPllUnlock => Sys2Proof.Machine.execFabricPllUnlock s
  | .pllRelock n => Sys2Proof.Machine.execPllRelock n s
  | .rail n => Sys2Proof.Machine.execRail n s
  | .sramScrub d ofs err ms => Sys2Proof.Machine.execSramScrub d ofs err ms s
  | .dramScrub d addr err passEnd => Sys2Proof.Machine.execDramScrub d addr err passEnd s
  | .refresh d derate ns => Sys2Proof.Machine.execRefresh d derate ns s
  | .initDone to_ => Sys2Proof.Machine.execInitDone to_ s
  | .push => Sys2Proof.Machine.execPush s
  | .pushFlash => Sys2Proof.Machine.execPushFlash s
  | .flashProgrammed ok => Sys2Proof.Machine.execFlashProgrammed ok s
  | .attest => Sys2Proof.Machine.execAttest s
  | .attestDone => Sys2Proof.Machine.execAttestDone s
  | .provision cmd => Sys2Proof.Machine.execProvision cmd s
  | .revoke cmd => Sys2Proof.Machine.execRevoke cmd s
  | .raiseSvn cmd => Sys2Proof.Machine.execRaiseSvn cmd s
  | .raiseFwSvn cmd => Sys2Proof.Machine.execRaiseFwSvn cmd s
  | .otpDone ok => Sys2Proof.Machine.execOtpDone ok s
  | .bistGo cmd => Sys2Proof.Machine.execBistGo cmd s
  | .bistDone t ms macros fails => Sys2Proof.Machine.execBistDone t ms macros fails s
  | .load => Sys2Proof.Machine.execLoad s
  | .imageCommit us met => Sys2Proof.Machine.execImageCommit us met s
  | .tallyProgram => Sys2Proof.Machine.execTallyProgram s
  | .sectorErase => Sys2Proof.Machine.execSectorErase s
  | .token => Sys2Proof.Machine.execToken s
  | .powerLoss t => Sys2Proof.Machine.execPowerLoss t s
  | .rdSeq lo ue => Sys2Proof.Machine.execRdSeq lo ue s
  | .dump => Sys2Proof.Machine.execDump s
  | .dumpDone => Sys2Proof.Machine.execDumpDone s
  | .smbId => Sys2Proof.Machine.execSmbId s
  | .smbState => Sys2Proof.Machine.execSmbState s
  | .smbTemp => Sys2Proof.Machine.execSmbTemp s
  | .smbRails => Sys2Proof.Machine.execSmbRails s
  | .smbTallyHead => Sys2Proof.Machine.execSmbTallyHead s
  | .smbAra => Sys2Proof.Machine.execSmbAra s
  | .idcode => Sys2Proof.Machine.execIdcode s
  | .bypass b => Sys2Proof.Machine.execBypass b s
  | .haltNRise => Sys2Proof.Machine.execHaltNRise s
  | .perstNFall => Sys2Proof.Machine.execPerstNFall s
  | .saveDone => Sys2Proof.Machine.execSaveDone s
  | .restoreDone ue => Sys2Proof.Machine.execRestoreDone ue s
  | .unlistedCode t => Sys2Proof.Machine.execUnlistedCode t s
  | .badCmd cmd seq arg crc => Sys2Proof.Machine.execBadCmd cmd seq arg crc s
  | .malformed stream arrival item => Sys2Proof.Machine.execMalformed stream arrival item s
  | .markerSend t => Sys2Proof.Machine.execMarkerSend t s
  | .railWithinTolerance n => Sys2Proof.Machine.execRailWithinTolerance n s

end Sys2Proof.Machine
end

