-- ==== Sys2Proof/WellFormed.lean ====
section
/-! DEFINITION. When the operands of a command name something the device has. A command that fails this check is no step of
the spec, and its meaning ends in the fault illFormed. -/

namespace Sys2Proof
open Sys2Proof.Machine

/-- Whether what ends names a task engine of the device (R324). -/
def Ending.wellFormed : Ending → Bool
  | .task cls engine _ _ _ _ => decide (cls < 6) && decide (engine < engineCount cls)
  | _ => true

/-- Whether a test-slice unit of a class exists (R484). -/
def isSliceUnit (cls unit : Nat) : Bool := decide (cls < 5) && decide (unit < sliceUnits cls)

/-- Whether a register with a pending value stands at an offset (R563, R591). -/
def isShadowed (ofs : Nat) : Bool := match findReg ofs with | some r => decide (r.sh ≠ 0) | none => false

/-- Whether a command's operands name something the device has. -/
def Instr.wellFormed : Instr → Bool
  | .mark port _ _ _ => decide (port < 6)
  | .msixUnmask v => decide (v.v < 64)
  | .tile stream _ _ | .dir stream _ _ | .agent stream _ _ | .ego stream _ _ | .route stream _ _ | .urgent stream _ _
  | .malformed stream _ _ => decide (stream < 128)
  | .taskDispatch _ cls by_ => decide (cls < 6) && decide (by_.engine < engineCount cls)
  | .taskComplete _ _ what => what.wellFormed
  | .readyListEntry _ cls => decide (cls < 6)
  | .swGo _ e => decide (e < 2)
  | .ihaulGo _ c => decide (c < 32)
  | .sweepStep _ p _ _ => decide (p < 68)
  | .testSliceStart _ cls unit _ => isSliceUnit cls unit
  | .testSliceEnd _ cls unit _ _ => isSliceUnit cls unit
  | .latent _ cls unit _ => isSliceUnit cls unit
  | .testOverdue _ _ cls unit => isSliceUnit cls unit
  | .linkUp speed width => linkLegal speed width
  | .hostReadCompletion ch kind => decide (ch < 140) && decide (kind < 4)
  | .doorbell ch _ | .chainStart ch | .flushReadReturn ch _ | .cplTimeout ch
  | .chPause ch | .chResume ch | .chStop ch | .chCringSize ch _ => decide (ch < 140)
  | .descriptorStart ch _ _ => isChannel ch
  | .descriptorComplete ch _ => isChannel ch
  | .ringRecord ch => decide (128 ≤ ch) && decide (ch < 136)
  | .registerWrite ofs _ _ _ _ => inBar0 ofs
  | .clearOnRead ofs => inBar0 ofs
  | .captureRead ofs _ _ => inBar0 ofs
  | .shWrite ofs _ => isShadowed ofs
  | .setAlias ofs _ | .clearAlias ofs _ | .toggleAlias ofs _ => decide (ofs < 0x1000000)
  | .bitWindowWrite addr _ => decide (0x1000000 ≤ addr) && inBar0 addr
  | .bitWindowRead addr => decide (0x1000000 ≤ addr) && inBar0 addr
  | .lock ofs _ => decide (ofs = rGlbLock) || decide (ofs = rSecLock)
  | .laneFail port lane => decide (port < 6) && decide (lane < 5)
  | .flit port f => decide (port < 6) && decide (f.bytes.length = 64)
  | .credit port vc _ => decide (port < 6) && decide (vc < 2)
  | .train port _ _ _ | .ack port _ | .nak port _ | .barrierBlock port _ _ => decide (port < 6)
  | .stopSymbol _ port _ | .resetSymbol _ port _ => decide (port < 6)
  | .pllRelock n => decide (4 ≤ n) && decide (n ≤ 6)
  | .rail n | .railWithinTolerance n => decide (n < 13)
  | .provision cmd => decide (bits cmd 3 0 = 1)
  | .revoke cmd => decide (bits cmd 3 0 = 2)
  | .raiseSvn cmd => decide (bits cmd 3 0 = 3)
  | .raiseFwSvn cmd => decide (bits cmd 3 0 = 4)
  | .bistGo cmd => bit cmd 8
  | .badCmd cmd _ _ _ => !spiCommands.contains cmd
  | .tickBoundary _ | .tickInPulse _ _ | .srcLost _ | .tickTiming _ _ | .phaseRelease _ _ | .phaseWatchdog _ _
  | .recordDeadline _ | .epochCommit _ _ _ _ | .commitEnd _ | .timeup _ | .start _ _ | .stop _ | .hold _
  | .resume _ _ | .save _ | .restore _ | .recover _ | .recoverDone _ _ | .commit _ | .discard | .halt _
  | .deviceReset | .resetRelease _ _ _ _ _ | .powerOnReset | .bootComplete | .flr _ _ | .linkDown _
  | .d3hot | .d0Return | .s1Isolate _ _ | .s1PowerUp _ | .clockSwitch _ _ | .s1Sync | .syncDone => true
  | .merit _ _ _ _ | .compact _ _ _ _ | .topk _ _ _ _ | .keyins _ _ _ _ | .canarySlotEnd _ _ _ => true
  | .issueVerdict _ | .verdictLate _ | .safeReq _ | .lockstep _ | .depClock _ _ | .depVolt _ _ | .overtemp _ _ _ _
  | .depclkLost _ | .thermN _ _ _ | .status _ _ _ | .verdict _ _ _ | .verdictAt _ _ _ | .release _ _ _
  | .safe _ _ _ _ | .echo _ _ _ | .spiAbandon => true
  | .poisonRx | .winBase _ _ | .bar2Read _ _ _ | .bar2Write _ _ | .aliasMode _ | .bitwinBase _ | .parityScan _ => true
  | .snapReq _ _ | .barrier | .bcast | .snap | .stopFlood _ | .resetFlood _ | .put _ _ _ _ | .get _ _ _ _ _
  | .atomicAdd _ _ _ _ | .atomicMax _ _ _ _ | .atomicSwap _ _ _ _ | .atomicCas _ _ _ _ _ | .signal _ _ _ _ _
  | .fence _ | .response _ _ _ | .broadcast _ _ _ | .xcutFlitFail _ _ _ => true
  | .refclkLost | .klrefLost | .arithPllUnlock _ | .fabricPllUnlock | .sramScrub _ _ _ _ | .dramScrub _ _ _ _
  | .refresh _ _ _ | .initDone _ => true
  | .push | .pushFlash | .flashProgrammed _ | .attest | .attestDone | .otpDone _ | .bistDone _ _ _ _ | .load
  | .imageCommit _ _ | .tallyProgram | .sectorErase | .token | .powerLoss _ | .rdSeq _ _ | .dump | .dumpDone => true
  | .smbId | .smbState | .smbTemp | .smbRails | .smbTallyHead | .smbAra | .idcode | .bypass _ | .haltNRise
  | .perstNFall | .saveDone | .restoreDone _ | .unlistedCode _ | .markerSend _ => true

end Sys2Proof
end

