-- ==== Sys2Proof/Safety.lean ====
section
/-! DEFINITION. What counts as a safe run: the parts of the state, what a command leaves alone, the invariant of every step,
and the one-way changes of the OTP. -/

namespace Sys2Proof
open Sys2Proof.Machine

/-! ### The parts of the state -/

/-- A part of the state. The fields of State are parts of their own, but for the two dies, which make one part less their
world-slice bytes, and for the fields named apart: the command queue, the safe-state latch and the Deputy's slice copy. -/
inductive Part where
  | pending
  | free
  | dev
  | now
  | timeOn
  | ticked
  | seed
  | regs
  | latches
  | sh
  | badRegs
  | mem
  | slices
  | queue
  | sys
  | tick
  | plan
  | world
  | dies
  | image
  | damaged
  | loading
  | chans
  | host
  | kl
  | safe
  | depSlice
  | dep
  | written
  | tally
  | sec
  | bist
  | power
  | out
  deriving DecidableEq, Repr

/-- A part is the same in two states. -/
def Part.same (s t : State) : Part → Prop
  | .pending => t.pending = s.pending
  | .free => t.free = s.free
  | .dev => t.dev = s.dev
  | .now => t.now = s.now
  | .timeOn => t.timeOn = s.timeOn
  | .ticked => t.ticked = s.ticked
  | .seed => t.seed = s.seed
  | .regs => t.regs = s.regs
  | .latches => t.latches = s.latches
  | .sh => t.sh = s.sh
  | .badRegs => t.badRegs = s.badRegs
  | .mem => t.mem = s.mem
  | .slices => t.d0.sliceOv = s.d0.sliceOv ∧ t.d1.sliceOv = s.d1.sliceOv
  | .queue => t.sys.queue = s.sys.queue
  | .sys => { t.sys with queue := [] } = { s.sys with queue := [] }
  | .tick => t.tick = s.tick
  | .plan => t.plan = s.plan
  | .world => t.world = s.world
  | .dies => { t.d0 with sliceOv := [] } = { s.d0 with sliceOv := [] } ∧
      { t.d1 with sliceOv := [] } = { s.d1 with sliceOv := [] }
  | .image => t.image = s.image
  | .damaged => t.damaged = s.damaged
  | .loading => t.loading = s.loading
  | .chans => t.chans = s.chans
  | .host => t.host = s.host
  | .kl => t.kl = s.kl
  | .safe => t.dep.safe = s.dep.safe
  | .depSlice => t.dep.slice = s.dep.slice
  | .dep => { t.dep with safe := true, slice := [] } = { s.dep with safe := true, slice := [] }
  | .written => t.tally.written = s.tally.written
  | .tally => { t.tally with written := [] } = { s.tally with written := [] }
  | .sec => t.sec = s.sec
  | .bist => t.bist = s.bist
  | .power => t.power = s.power
  | .out => t.out = s.out

/-- `t` differs from `s` in the listed parts at most. -/
def Framed (ps : List Part) (s t : State) : Prop := ∀ p, p ∉ ps → p.same s t

/-! ### What each command leaves alone -/

/-- The parts of the state that a command can change; every other part it leaves as it was. -/
def Instr.touches : Instr → List Part
  | .spiAbandon =>
    []
  | .refresh _ _ _ =>
    [.regs]
  | .haltNRise =>
    [.sys]
  | .s1Sync =>
    [.world]
  | .sectorErase | .token =>
    [.tally]
  | .pllRelock _ =>
    [.power]
  | .smbId | .smbState | .smbTemp | .smbRails | .smbTallyHead | .smbAra | .idcode | .bypass _ =>
    [.out]
  | .testSliceStart _ _ _ _ =>
    [.now, .dies]
  | .markerSend _ =>
    [.now, .out]
  | .readyListEntry _ _ =>
    [.regs, .dies]
  | .d3hot | .d0Return | .poisonRx =>
    [.regs, .host]
  | .thermN _ _ _ =>
    [.regs, .dep]
  | .rail _ =>
    [.regs, .power]
  | .verdictAt _ _ _ | .echo _ _ _ | .badCmd _ _ _ _ =>
    [.regs, .out]
  | .railWithinTolerance _ =>
    [.sys, .power]
  | .msixUnmask _ =>
    [.host, .out]
  | .flashProgrammed _ | .otpDone _ =>
    [.free, .regs, .sec]
  | .hold _ | .unlistedCode _ =>
    [.now, .queue, .sys]
  | .syncDone =>
    [.regs, .mem, .world]
  | .status _ _ _ | .verdict _ _ _ =>
    [.regs, .dep, .out]
  | .discard =>
    [.sh, .badRegs, .dep]
  | .perstNFall =>
    [.sys, .safe, .dep]
  | .dumpDone =>
    [.regs, .mem, .slices, .tally]
  | .attestDone =>
    [.regs, .mem, .slices, .sec]
  | .chainStart _ =>
    [.regs, .world, .chans, .out]
  | .doorbell _ _ =>
    [.regs, .chans, .host, .out]
  | .ack _ _ | .credit _ _ _ | .barrierBlock _ _ _ | .barrier =>
    [.regs, .host, .kl, .out]
  | .sramScrub _ _ _ _ | .dramScrub _ _ _ _ | .dump =>
    [.regs, .host, .tally, .out]
  | .pushFlash | .attest =>
    [.regs, .host, .sec, .out]
  | .push =>
    [.regs, .host, .bist, .out]
  | .linkUp _ _ =>
    [.regs, .host, .power, .out]
  | .provision _ | .revoke _ | .raiseSvn _ | .raiseFwSvn _ =>
    [.free, .regs, .host, .sec, .out]
  | .stop _ =>
    [.dev, .now, .queue, .sys, .world]
  | .mark _ _ _ _ =>
    [.now, .regs, .tick, .host, .out]
  | .tile _ _ _ | .dir _ _ _ | .agent _ _ _ | .ego _ _ _ | .route _ _ _ | .urgent _ _ _ | .malformed _ _ _ =>
    [.now, .regs, .world, .host, .out]
  | .snapReq _ _ =>
    [.now, .regs, .host, .kl, .out]
  | .latent _ _ _ _ =>
    [.now, .regs, .host, .tally, .out]
  | .winBase _ _ | .rdSeq _ _ =>
    [.regs, .badRegs, .host, .dep, .out]
  | .ringRecord _ =>
    [.regs, .plan, .chans, .host, .out]
  | .arithPllUnlock _ =>
    [.regs, .dies, .host, .power, .out]
  | .tallyProgram =>
    [.regs, .host, .written, .tally, .out]
  | .clockSwitch _ _ =>
    [.free, .now, .regs, .sys, .power, .out]
  | .timeup _ =>
    [.now, .regs, .mem, .slices, .plan, .dies]
  | .recover _ =>
    [.now, .regs, .queue, .sys, .dies, .bist]
  | .powerLoss _ =>
    [.now, .regs, .host, .written, .tally, .out]
  | .bistGo _ =>
    [.regs, .badRegs, .host, .dep, .bist, .out]
  | .saveDone =>
    [.regs, .queue, .sys, .host, .tally, .out]
  | .resetRelease _ _ _ _ _ =>
    [.regs, .sys, .dies, .host, .tally, .bist, .out]
  | .release _ _ _ =>
    [.regs, .sys, .host, .safe, .dep, .tally, .out]
  | .descriptorStart _ _ _ | .cplTimeout _ | .hostReadCompletion _ _ | .chPause _ | .chResume _ | .chStop _ =>
    [.regs, .world, .dies, .chans, .host, .kl, .out]
  | .testSliceEnd _ _ _ _ _ =>
    [.now, .regs, .mem, .slices, .dies, .host, .tally, .out]
  | .flushReadReturn _ _ =>
    [.now, .regs, .world, .dies, .chans, .host, .kl, .out]
  | .s1PowerUp _ =>
    [.free, .now, .regs, .mem, .slices, .sys, .dies, .power, .out]
  | .compact _ _ _ _ | .sweepStep _ _ _ _ =>
    [.free, .regs, .mem, .slices, .plan, .dies, .host, .tally, .out]
  | .commitEnd _ =>
    [.now, .regs, .plan, .world, .dies, .chans, .host, .dep, .out]
  | .linkDown _ =>
    [.now, .regs, .world, .dies, .chans, .host, .kl, .tally, .out]
  | .chCringSize _ _ =>
    [.regs, .badRegs, .world, .dies, .chans, .host, .kl, .dep, .out]
  | .refclkLost =>
    [.regs, .world, .dies, .chans, .host, .kl, .tally, .power, .out]
  | .bootComplete =>
    [.free, .dev, .now, .timeOn, .regs, .mem, .slices, .dies, .power, .out]
  | .topk _ _ _ _ =>
    [.free, .regs, .mem, .slices, .sys, .plan, .dies, .host, .tally, .out]
  | .merit _ _ _ _ =>
    [.free, .regs, .mem, .slices, .plan, .dies, .chans, .host, .tally, .out]
  | .taskDispatch _ _ _ | .keyins _ _ _ _ | .bar2Read _ _ _ | .bar2Write _ _ | .put _ _ _ _ | .get _ _ _ _ _ |
      .atomicAdd _ _ _ _ | .atomicMax _ _ _ _ | .atomicSwap _ _ _ _ | .atomicCas _ _ _ _ _ | .signal _ _ _ _ _ |
      .fence _ | .broadcast _ _ _ =>
    [.free, .regs, .mem, .slices, .plan, .dies, .host, .kl, .tally, .out]
  | .canarySlotEnd _ _ _ =>
    [.free, .regs, .mem, .slices, .plan, .dies, .host, .dep, .tally, .out]
  | .phaseRelease _ _ =>
    [.now, .regs, .mem, .slices, .tick, .plan, .world, .dies, .chans, .dep]
  | .recordDeadline _ =>
    [.now, .regs, .tick, .plan, .dies, .chans, .host, .kl, .dep, .tally, .out]
  | .laneFail _ _ | .flit _ _ | .nak _ _ | .response _ _ _ | .xcutFlitFail _ _ _ =>
    [.free, .regs, .mem, .slices, .plan, .world, .dies, .chans, .host, .kl, .tally, .out]
  | .halt _ =>
    [.dev, .now, .regs, .queue, .sys, .tick, .plan, .dies, .chans, .kl, .dep, .out]
  | .descriptorComplete _ _ =>
    [.now, .regs, .mem, .slices, .plan, .world, .dies, .chans, .host, .kl, .tally, .out]
  | .epochCommit _ _ _ _ =>
    [.now, .regs, .mem, .slices, .plan, .world, .dies, .host, .depSlice, .dep, .tally, .out]
  | .train _ _ _ _ | .klrefLost | .fabricPllUnlock =>
    [.free, .regs, .mem, .slices, .plan, .world, .dies, .chans, .host, .kl, .tally, .power, .out]
  | .initDone _ =>
    [.free, .regs, .mem, .slices, .plan, .world, .dies, .host, .kl, .depSlice, .dep, .tally, .out]
  | .recoverDone _ _ =>
    [.free, .dev, .now, .regs, .mem, .slices, .queue, .sys, .dies, .host, .tally, .bist, .power, .out]
  | .taskComplete _ _ _ =>
    [.free, .now, .regs, .mem, .slices, .tick, .plan, .dies, .chans, .host, .kl, .dep, .tally, .out]
  | .s1Isolate _ _ =>
    [.free, .now, .regs, .mem, .slices, .sys, .plan, .world, .dies, .chans, .host, .kl, .tally, .power, .out]
  | .tickTiming _ _ | .phaseWatchdog _ _ | .testOverdue _ _ _ _ | .issueVerdict _ | .verdictLate _ | .safeReq _ |
      .lockstep _ | .depVolt _ _ | .safe _ _ _ _ =>
    [.dev, .now, .regs, .queue, .sys, .tick, .plan, .dies, .chans, .host, .kl, .safe, .dep, .tally, .out]
  | .ihaulGo _ _ | .parityScan _ | .bcast | .snap =>
    [.dev, .regs, .badRegs, .queue, .sys, .tick, .plan, .dies, .chans, .host, .kl, .safe, .dep, .tally, .out]
  | .imageCommit _ _ =>
    [.free, .dev, .regs, .badRegs, .mem, .slices, .plan, .dies, .image, .damaged, .loading, .host, .kl, .dep, .tally,
      .out]
  | .restoreDone _ =>
    [.free, .seed, .regs, .badRegs, .mem, .slices, .queue, .sys, .tick, .plan, .world, .dies, .host, .dep, .tally,
      .out]
  | .resume _ _ | .restore _ =>
    [.dev, .now, .regs, .badRegs, .queue, .sys, .tick, .plan, .dies, .chans, .host, .kl, .safe, .dep, .tally, .out]
  | .depClock _ _ | .depclkLost _ =>
    [.dev, .now, .regs, .queue, .sys, .tick, .plan, .dies, .chans, .host, .kl, .safe, .dep, .tally, .power, .out]
  | .load =>
    [.dev, .regs, .badRegs, .queue, .sys, .tick, .plan, .dies, .loading, .chans, .host, .kl, .safe, .dep, .tally,
      .out]
  | .clearOnRead _ | .captureRead _ _ _ | .bitWindowRead _ =>
    [.free, .dev, .regs, .latches, .badRegs, .queue, .sys, .tick, .plan, .dies, .chans, .host, .kl, .safe, .dep,
      .tally, .out]
  | .stopSymbol _ _ _ | .resetSymbol _ _ _ | .stopFlood _ | .resetFlood _ =>
    [.free, .dev, .now, .regs, .mem, .slices, .queue, .sys, .tick, .plan, .world, .dies, .chans, .host, .kl, .dep,
      .tally, .out]
  | .swGo _ _ =>
    [.free, .dev, .regs, .badRegs, .mem, .slices, .queue, .sys, .tick, .plan, .dies, .chans, .host, .kl, .safe, .dep,
      .tally, .out]
  | .tickBoundary _ | .tickInPulse _ _ | .srcLost _ =>
    [.dev, .now, .ticked, .regs, .mem, .slices, .queue, .sys, .tick, .plan, .world, .dies, .chans, .host, .kl, .dep,
      .tally, .out]
  | .commit _ =>
    [.dev, .now, .regs, .sh, .badRegs, .queue, .sys, .tick, .plan, .dies, .chans, .host, .kl, .safe, .dep, .tally,
      .power, .out]
  | .save _ =>
    [.dev, .now, .regs, .badRegs, .mem, .slices, .queue, .sys, .tick, .plan, .dies, .chans, .host, .kl, .safe, .dep,
      .tally, .out]
  | .bistDone _ _ _ _ =>
    [.dev, .now, .regs, .mem, .slices, .queue, .sys, .tick, .plan, .dies, .chans, .host, .kl, .safe, .dep, .tally,
      .bist, .out]
  | .overtemp _ _ _ _ =>
    [.free, .dev, .now, .regs, .mem, .slices, .queue, .sys, .tick, .plan, .world, .dies, .chans, .host, .kl, .safe,
      .dep, .tally, .power, .out]
  | .start _ _ =>
    [.dev, .now, .seed, .regs, .badRegs, .mem, .slices, .queue, .sys, .tick, .plan, .world, .dies, .chans, .host, .kl,
      .safe, .dep, .tally, .out]
  | .registerWrite _ _ _ _ _ | .shWrite _ _ | .setAlias _ _ | .clearAlias _ _ | .toggleAlias _ _ | .bitWindowWrite _ _
      | .aliasMode _ | .bitwinBase _ | .lock _ _ =>
    [.free, .dev, .regs, .sh, .badRegs, .mem, .slices, .queue, .sys, .tick, .plan, .world, .dies, .loading, .chans,
      .host, .kl, .safe, .dep, .tally, .sec, .bist, .out]
  | .flr _ _ =>
    [.free, .dev, .now, .regs, .latches, .sh, .badRegs, .mem, .slices, .queue, .sys, .tick, .plan, .world, .dies,
      .damaged, .loading, .chans, .host, .kl, .safe, .dep, .tally, .out]
  | .deviceReset =>
    [.free, .dev, .now, .timeOn, .seed, .regs, .latches, .sh, .badRegs, .queue, .sys, .tick, .plan, .world, .dies,
      .image, .damaged, .loading, .chans, .host, .kl, .safe, .depSlice, .dep, .tally, .sec, .bist, .power]
  | .powerOnReset =>
    [.free, .dev, .now, .timeOn, .ticked, .seed, .regs, .latches, .sh, .badRegs, .mem, .slices, .queue, .sys, .tick,
      .plan, .world, .dies, .image, .damaged, .loading, .chans, .host, .kl, .safe, .depSlice, .dep, .tally, .sec,
      .bist, .power]

/-! ### The invariant of every step -/

/-- Strictly rising keys. -/
def rising (m : List Host.Cell) : Prop := m.Pairwise fun a b => a.1 < b.1

/-- States in which the safe-state outputs cannot have been released (R45, R452, R480). -/
def Dev.held : Dev → Bool
  | .boot | .ready | .faulted => true
  | .stopped | .running | .hold => false

/-- An OTP command in progress programs blank rows or raises a minimum (R548, R549). -/
def otpPending (c : Sec) : Prop :=
  match c.otp with
  | none => True
  | some (.provision n h) =>
      (c.slots.getD n KeySlot.blank).provisioned = false ∧
        ((c.slots.getD n KeySlot.blank).partlySet = true → (c.slots.getD n KeySlot.blank).hash = h)
  | some (.revoke _) => True
  | some (.raise n v) => (c.slots.getD n KeySlot.blank).minSvn < v
  | some (.raiseFw v) => c.vendorMin < v

/-- What every step keeps. -/
structure Inv (s : State) : Prop where
  /-- the memory and the Deputy's slice copy are in canonical form -/
  mem : memWf s.mem
  depSlice : memWf s.dep.slice
  /-- the bytes that a world slice has apart from the broadcast content stand in rising order -/
  slices : ∀ d, rising (s.die d).sliceOv
  /-- the command queue has at most eight entries (R46) -/
  queue : s.sys.queue.length ≤ 8
  /-- the safe-state outputs are asserted in BOOT, READY and FAULTED (R45, R452, R476, R480) -/
  safe : Dev.held s.dev = true → s.dep.safe = true
  otp : otpPending s.sec

/-! ### The safe state -/

/-- The safe state entered from another state than FAULTED for a cause (R477): FAULTED, the outputs asserted, the cause and
the time recorded, DS_IRQ_N low, the event set, no tick in progress; world, memory, image and OTP as they were. -/
structure EnteredSafe (cause : Nat) (s u : State) : Prop where
  dev : u.dev = .faulted
  outputs : u.dep.safe = true
  cause : u.dep.cause = cause
  irq : u.dep.irq = true
  time : u.pair rDeputySafeTimeLo rDeputySafeTimeHi = u.now % 2 ^ 64
  event : (u.reg rDeputyEvents).getLsbD 2 = true
  idle : u.tick.live = false
  world : u.world = s.world
  mem : u.mem = s.mem
  image : u.image = s.image
  sec : u.sec = s.sec

/-! ### Select operations -/

/-- The operation `op` that a Select engine holds and has not started (R237). -/
def selHeld (s : State) (d : Die) (e op : Nat) : Option SelWork :=
  (s.die d).sel.find? fun q => q.engine == e && !q.started && q.desc.op == op

/-- A descriptor that passes the checks of R239, with its RESULT apart from its output. -/
def selSound (s : State) (d : Die) (x : SelDesc) : Prop :=
  selCheck (inGallery d) s.node x (s.selLists d x) = 0 ∧ (x.result + 32 ≤ x.dst ∨ x.dst + x.dstBytes ≤ x.result)

/-- A Select operation ended DONE on engine `e`: STATUS 0 and VALID in its registers, the engine free, and every byte
outside DST and RESULT as it was (R238, R240). -/
structure SelectDone (s u : State) (d : Die) (e : Nat) (x : SelDesc) (valid : Nat) : Prop where
  status : bits (u.reg (rSelEStatus d e)) 11 8 = 0
  valid : u.reg (rSelEValid d e) = BitVec.ofNat 32 valid
  free : ∀ q ∈ (u.die d).sel, q.engine ≠ e
  frame : ∀ a, a < x.dst ∨ x.dst + x.dstBytes ≤ a → a < x.result ∨ x.result + 32 ≤ a → memByte u.mem a = memByte s.mem a

/-! ### One-way changes -/

/-- A key slot changes only from blank to programmed, and its minimum only upwards; hash rows once written stay, in a slot that is
provisioned and in one that a PROVISION cut short has left partly set, which stays so or becomes provisioned (R548, R549). -/
def slotGrows (a b : KeySlot) : Prop :=
  (a.provisioned = true → b.provisioned = true ∧ b.hash = a.hash) ∧ (a.revoked = true → b.revoked = true) ∧
    a.minSvn ≤ b.minSvn ∧
    (a.partlySet = true → b.hash = a.hash ∧ (b.partlySet = true ∨ b.provisioned = true))

/-- The OTP changes only from blank to programmed, and no minimum is lowered; fuses do not change (R548). -/
def otpGrows (a b : Sec) : Prop :=
  (∀ n, slotGrows (a.slots.getD n KeySlot.blank) (b.slots.getD n KeySlot.blank)) ∧ a.vendorMin ≤ b.vendorMin ∧
    b.variant = a.variant ∧ b.vendorHash = a.vendorHash ∧ b.serial = a.serial ∧ b.jtagLocked = a.jtagLocked

/-- The transitions of R45, an unchanged state among them. -/
def devAllowed : Dev → Dev → Bool
  | _, .boot | _, .faulted => true
  | .boot, .ready | .ready, .ready => true
  | .ready, .stopped | .stopped, .stopped | .running, .stopped | .hold, .stopped | .faulted, .stopped => true
  | .stopped, .running | .running, .running | .hold, .running => true
  | .running, .hold | .hold, .hold => true
  | _, _ => false

end Sys2Proof
end

