-- ==== Sys2Proof/Certificates/Slice0/Obligations.lean ====
section
/-! DEFINITION. The statements for the provers. Each is a rule of the spec, or follows from rules, said of every state and
of every operand that the hypotheses admit; each docstring cites its rules. The statements come in this order: the block and
its queue, what every step keeps, then the families of commands in the table's order. -/

namespace Sys2Proof.Machine
open Sys2Proof

/-- The head of the command queue ended with one result (R47, R51, R583): the entry is gone, LAST_CODE, REASON and SEQ tell of
it, and nothing of it waits. -/
structure EntryEnds (code reason : Nat) (s u : State) : Prop where
  queue : u.sys.queue = s.sys.queue.tail
  code : u.sys.lastCode = code
  reason : u.sys.reason = reason
  seq : u.sys.seq = (s.sys.seq + 1) % 256
  still : u.sys.waitEdge = false ∧ u.sys.waitSave = false ∧ u.sys.waitRec = false

/-- The entry's head is `e`. -/
abbrev State.headIs (s : State) (e : CmdEntry) : Prop := s.sys.queue.head? = some e

/-- The cause of INVALID that stands once the cause `code` is met (R37, R292): the first detected, and of causes detected at
one time the lowest code. -/
def State.causeWith (s : State) (code : Nat) : Nat :=
  match s.plan.cause with
  | none => code
  | some c => if s.plan.causeAt = s.now then min c code else c

end Sys2Proof.Machine

open Sys2Proof Sys2Proof.Machine

/-! ### The block and its queue -/

/-- The command in front of the queue runs on the state with the rest of the queue. -/
def Obligations.StepRunsTheFrontCommand : Prop :=
  ∀ (c : Instr) (rest : List Instr) (s : State), s.pending = c :: rest →
    Sys2Proof.Machine.step s = Sys2Proof.Machine.exec c { s with pending := rest }

/-- With no command waiting a step leaves the state as it is: the model's choice, log entry 1. -/
def Obligations.StepIdlesOnEmptyQueue : Prop :=
  ∀ s : State, s.pending = [] → Sys2Proof.Machine.step s = .next s

/-- Every command whose operands name something the device has completes, and every other one faults with illFormed; no
command is refused (log entry 4 says what such an operand is). -/
def Obligations.NamedCommandsComplete : Prop :=
  ∀ (c : Instr) (s : State),
    (c.wellFormed = true → ∃ u, exec c s = .next u) ∧ (c.wellFormed = false → exec c s = .fault .illFormed)

/-- Each command leaves every part of the state as it was that `Instr.touches` does not list for it; the queue of waiting
commands is never among the listed parts. -/
def Obligations.CommandsChangeOnlyTheirParts : Prop :=
  ∀ (c : Instr) (s u : State), exec c s = .next u → Framed c.touches s u ∧ u.pending = s.pending

/-! ### What every step keeps -/

/-- The state after reset meets the invariant. -/
def Obligations.ResetMeetsInvariant : Prop := Inv State.reset

/-- Every step keeps the invariant: memory and the mirror's slice copy in canonical form, the slices' overlays in order, at
most eight entries in the command queue (R46), the safe-state outputs asserted in BOOT, READY and FAULTED (R452, R477), an
OTP command in progress that can be carried out (R548). -/
def Obligations.EveryStepKeepsInvariant : Prop :=
  ∀ s u : State, Inv s → Sys2Proof.Machine.step s = .next u → Inv u

/-- No step clears a programmed OTP bit, changes a key hash that is provisioned or partly set, or lowers a minimum SVN; a slot
that a PROVISION cut short has left partly set stays so or becomes provisioned (R548, R549). -/
def Obligations.OtpOnlyGrows : Prop :=
  ∀ s u : State, Inv s → Sys2Proof.Machine.step s = .next u → otpGrows s.sec u.sec

/-- The device state moves only along the transitions of R45. -/
def Obligations.DeviceStateMovesAlongTransitions : Prop :=
  ∀ s u : State, Sys2Proof.Machine.step s = .next u → devAllowed s.dev u.dev = true

/-- Only RELEASE releases the safe-state outputs, and only with the key and a good CRC (R495), in STOPPED, RUNNING or HOLD,
with no cause present and with the last error injection passed (R480), and after a fall of PERST_N not while it is low (R531). -/
def Obligations.OnlyReleaseClearsSafeOutputs : Prop :=
  ∀ (c : Instr) (s u : State), exec c s = .next u → s.dep.safe = true → u.dep.safe = false →
    ∃ seq crc low, c = .release seq 0x6C3D ⟨crc, low⟩ ∧ (s.sys.perstLow = true → low = false) ∧
      spiCrcOk 0x10 seq 0x6C3D crc = true ∧
      (s.dev = .stopped ∨ s.dev = .running ∨ s.dev = .hold) ∧ s.dep.present = [] ∧
      (s.dep.injRun = true → s.dep.injOk = true)

/-- FAULTED is left only for STOPPED by RECOVER_DONE, or for BOOT by a device or power-on reset (R45). -/
def Obligations.FaultedIsLeftByRecoveryOrReset : Prop :=
  ∀ (c : Instr) (s u : State), exec c s = .next u → s.dev = .faulted → u.dev ≠ .faulted →
    (u.dev = .stopped ∧ ∃ t met, c = .recoverDone t met) ∨
    (u.dev = .boot ∧ (c = .deviceReset ∨ c = .powerOnReset))

/-! ### The tick (R15 to R37) -/

/-- TICK_BOUNDARY with no STOP or HOLD due: the next tick is released at the expected boundary (R15, R26, R48), with its own
number, and the device stays RUNNING. -/
def Obligations.BoundaryReleasesNextTick : Prop :=
  ∀ (s : State) (t : Nat), s.dev = .running → s.tick.awaitT0 = false → t = s.tick.expect →
    ¬ (s.sys.waitEdge = true ∧ s.sys.waitAt < t) →
    ∃ u, exec (.tickBoundary t) s = .next u ∧ u.dev = .running ∧ u.tick.live = true ∧ u.tick.tk = t ∧
      u.tick.num = s.tick.next ∧ u.tick.next = (s.tick.next + 1) % 2 ^ 64 ∧ u.tick.stopped = false ∧
      u.plan.record = none ∧ u.ticked = some s.tick.next ∧ u.sys.queue = s.sys.queue

/-- A HOLD or a STOP that waits takes effect at the boundary, and a STOP that follows a HOLD in the queue takes effect at the
same boundary, in queue order; no tick is released there (R48, R49, R53, R585). -/
def Obligations.WaitingHoldAndStopTakeEffectAtBoundary : Prop :=
  ∀ (s : State) (t : Nat), s.dev = .running → s.tick.awaitT0 = false → t = s.tick.expect →
    s.sys.waitEdge = true → s.sys.waitAt < t →
    (s.sys.queue = [.cmd 3] →
      ∃ u, exec (.tickBoundary t) s = .next u ∧ u.dev = .hold ∧ u.tick.live = false ∧ u.sys.queue = [] ∧
        u.sys.lastCode = 3 ∧ u.sys.reason = 0 ∧ u.sys.waitEdge = false) ∧
    (s.sys.queue = [.cmd 2] →
      ∃ u, exec (.tickBoundary t) s = .next u ∧ u.dev = .stopped ∧ u.tick.live = false ∧ u.world.staged = [] ∧
        u.sys.queue = [] ∧ u.sys.lastCode = 2 ∧ u.sys.reason = 0 ∧ u.sys.waitEdge = false) ∧
    (s.sys.queue = [.cmd 3, .cmd 2] →
      ∃ u, exec (.tickBoundary t) s = .next u ∧ u.dev = .stopped ∧ u.tick.live = false ∧ u.world.staged = [] ∧
        u.sys.queue = [] ∧ u.sys.lastCode = 2 ∧ u.sys.reason = 0)

namespace Sys2Proof.Machine

/-- The lock of the tick source after one more in-window event (R23): the second in a row locks it and ends source loss. -/
def Tick.inWindow (k : Tick) : Tick :=
  { k with good := k.good + 1, locked := k.locked || decide (1 ≤ k.good), lost := k.lost && decide (k.good = 0) }

/-- A counted edge at `e` lies in the window of the boundary last taken (R21); T_0 has none (R19). -/
abbrev State.inLastWindow (s : State) (e : Nat) : Prop :=
  s.tick.live = true ∧ s.tick.atT0 = false ∧ s.tick.tk ≤ e + s.tol ∧ e < s.tick.tk + s.tol

/-- It lies in the window of the expected boundary (R21). -/
abbrev State.inNextWindow (s : State) (e : Nat) : Prop := s.tick.expect ≤ e + s.tol ∧ e < s.tick.expect + s.tol

/-- A boundary at `t` with no STOP or HOLD due there releases the tick whose number is next (R15, R26); what device time is
slewed in the tick stands in the boundary expected next, which is read from R430 (log entry 129). -/
structure FirstTick (s u : State) (t : Nat) : Prop where
  settled : u.tick.awaitT0 = false
  released : u.dev = .running ∧ u.tick.live = true ∧ u.tick.tk = t ∧ u.tick.num = s.tick.next ∧
    u.tick.expect = ((t + s.period : Nat) + clampInt s.tick.slew (-1000) 1000 : Int).toNat

end Sys2Proof.Machine

/-- A TICK_IN pulse shorter than 100 ns sets its event bit in any state. A counted edge in RUNNING with TICK_IN as source
moves only the next expected boundary, by its error clamped to 1,000 ns, counts towards the lock and, the second in a row,
ends source loss; a second one in a window and one outside the windows set their event bits and change nothing else
(R19 to R23). -/
def Sys2Proof.Statements.TickInEdgeCorrectsNextBoundary : Prop :=
  ∀ (s : State) (e width : Nat),
    (width < 100 → exec (.tickInPulse e width) s = .next (s.event rTickEvents 10)) ∧
    (100 ≤ width → s.dev = .running → s.src = 1 → s.tick.awaitT0 = false →
      (s.inLastWindow e →
        (s.tick.seenLast = false → exec (.tickInPulse e width) s = .next { s.advance (e + 100) with
          tick := Tick.inWindow { s.tick with
            seenLast := true, missed := 0
            expect := ((s.tick.tk + s.period : Nat) + clampInt ((e : Int) - s.tick.tk) (-1000) 1000 : Int).toNat } }) ∧
        (s.tick.seenLast = true → exec (.tickInPulse e width) s = .next ((s.advance (e + 100)).event rTickEvents 11))) ∧
      (¬ s.inLastWindow e → s.inNextWindow e →
        (s.tick.seen = false → exec (.tickInPulse e width) s = .next { s.advance (e + 100) with
          tick := Tick.inWindow { s.tick with
            seen := true, corr := clampInt ((e : Int) - s.tick.expect) (-1000) 1000
            good := if s.tick.seenLast = true ∨ s.tick.live = false then s.tick.good else 0 } }) ∧
        (s.tick.seen = true → exec (.tickInPulse e width) s = .next ((s.advance (e + 100)).event rTickEvents 11))) ∧
      (¬ s.inLastWindow e → ¬ s.inNextWindow e →
        exec (.tickInPulse e width) s = .next ((s.advance (e + 100)).event rTickEvents 9)))

/-- While T_0 is awaited a counted edge at or after T0 and before T0 + 4 P gives it, whatever its distance from T0: the first
tick starts at the edge and the edge is the first in-window event; an earlier one and a later one change nothing, and a STOP or
HOLD that is due makes T_0 end the run (R19, R23; the later one and the STOP or HOLD by log entry 111). -/
def Sys2Proof.Statements.TickInEdgeGivesT0 : Prop :=
  ∀ (s : State) (e width : Nat), 100 ≤ width → s.dev = .running → s.src = 1 → s.tick.awaitT0 = true → s.tick.live = false →
    (s.tick.t0 ≤ e → e < s.tick.t0 + 4 * s.period →
      (¬ (s.sys.waitEdge = true ∧ s.sys.waitAt < e) →
        ∃ u, exec (.tickInPulse e width) s = .next u ∧ FirstTick s u e ∧ u.tick.good = 1 ∧
          e + 100 ≤ u.now) ∧
      (s.sys.waitEdge = true → s.sys.waitAt < e →
        ∃ u, exec (.tickInPulse e width) s = .next u ∧ u.tick.live = false ∧ u.dev ≠ .running)) ∧
    (e < s.tick.t0 ∨ s.tick.t0 + 4 * s.period ≤ e → exec (.tickInPulse e width) s = .next (s.advance (e + 100)))

/-- After four ticks without an in-window event the Tick block enters source loss: the status and its event are set, the lock
is lost, ticks go on (R23). With no event for T_0 by T0 + 4 P, T_0 is that time on the internal timer, in source loss (R19). -/
def Sys2Proof.Statements.SourceLossIsEntered : Prop :=
  ∀ (s : State) (t : Nat), s.dev = .running → s.src ≠ 0 →
    (s.tick.awaitT0 = false → s.tick.lost = false → 4 ≤ s.tick.missed →
      ∃ u, exec (.srcLost t) s = .next u ∧ u.tick = { s.tick with lost := true, locked := false, good := 0 } ∧
        (u.reg rTickEvents).getLsbD 8 = true ∧ u.dev = .running ∧ u.plan = s.plan ∧ u.mem = s.mem) ∧
    (s.tick.awaitT0 = true → s.tick.live = false → s.tick.corr = 0 → s.tick.t0 + 4 * s.period ≤ t →
      ¬ (s.sys.waitEdge = true ∧ s.sys.waitAt < s.tick.t0 + 4 * s.period) →
      ∃ u, exec (.srcLost t) s = .next u ∧ FirstTick s u (s.tick.t0 + 4 * s.period) ∧ u.tick.lost = true ∧
        u.tick.locked = false ∧ (u.reg rTickEvents).getLsbD 8 = true)

/-- Edges of TICK_IN and their absence (R19 to R23). -/
def Obligations.TickInputIsTracked : Prop :=
  Statements.TickInEdgeCorrectsNextBoundary ∧ Statements.TickInEdgeGivesT0 ∧ Statements.SourceLossIsEntered

/-- A phase is released at its offset or later and in order, unless the watchdog of an earlier one has expired on incomplete work:
the tick shows it, every task of the phase whose arrivals
suffice enters its class list, and the release of REFINE empties the heap of each die in service (R27, R32, R260, R325). -/
def Sys2Proof.Statements.PhaseIsReleased : Prop :=
  ∀ (s : State) (t ph : Nat), s.dev = .running → s.tick.live = true → s.tick.stopped = false → ph < 6 →
    s.tick.rel = ph → s.tick.tk + s.phaseAt ph ≤ t → s.overrunBy ph (max t s.now) = false →
    ∃ u, exec (.phaseRelease t ph) s = .next u ∧ u.tick = { s.tick with rel := ph + 1, phase := ph } ∧
      u.dev = .running ∧ u.sys = s.sys ∧
      (∀ d ∈ s.dies, ∀ k, k < (s.engCfg d).tasks.length → ((s.engCfg d).task k).phase = ph →
        ((s.engCfg d).task k).cls < 6 → ((s.engCfg d).task k).wait ≤ (s.die d).ovm.arrived k →
        k ∈ (u.die d).ovm.entered) ∧
      (ph = 3 → ∀ d ∈ s.dies, (u.die d).heap = [] ∧ (u.die d).rounds = 0)

/-- A phase whose work is incomplete at its watchdog overruns: the tick's work stops, the bit of the phase is set, the boundary
grid stays, and in the phases 0 to 4 the record is written INVALID, with OVERRUN unless another cause came first; a phase
whose work is complete goes on as it was. The end of the phase 5 budget of a tick whose record has been formed changes neither
the record nor its verdict and sends vector 1 (R31 to R34, R37). -/
def Sys2Proof.Statements.WatchdogOverrunsIncompletePhase : Prop :=
  ∀ (s : State) (t ph : Nat) (ports : List (Die × Nat × List Nat)), s.dev = .running → s.tick.live = true →
    s.tick.tk + s.phaseEnd ph ≤ t →
    (ph < 5 → s.tick.stopped = false → ph < s.tick.rel → (s.advance t).phaseDone ph = false →
      ∃ u, exec (.phaseWatchdog t ⟨ph, ports⟩) s = .next u ∧ u.tick = { s.tick with stopped := true, phase := 6 } ∧
        (u.reg rTickEvents).getLsbD ph = true ∧ u.plan.cause = some ((s.advance t).causeWith 3) ∧
        u.plan.record.isSome = true ∧ u.plan.lost = true ∧ u.dev = .running ∧ u.mem = s.mem ∧
        ∀ d, (u.die d).ovm.running = [] ∧ (u.die d).reWork = []) ∧
    (ph < 5 → s.tick.stopped = true ∨ s.tick.rel ≤ ph ∨ (s.advance t).phaseDone ph = true →
      exec (.phaseWatchdog t ⟨ph, ports⟩) s = .next (s.advance t)) ∧
    (ph = 5 → s.plan.record.isSome = true →
      ∃ u, exec (.phaseWatchdog t ⟨ph, ports⟩) s = .next u ∧ u.tick.phase = 6 ∧ u.tick.num = s.tick.num ∧
        u.tick.expect = s.tick.expect ∧ u.plan.record = s.plan.record ∧ u.plan.judged = s.plan.judged ∧
        u.dev = .running ∧ u.mem = s.mem ∧
        (s.host.up = true → s.host.allOff = false → s.host.mask.getLsbD 1 = false → s.host.pba.getLsbD 1 = false →
          s.message 1 ∈ u.out) ∧
        (s.tick.stopped = false → 5 < s.tick.rel → (s.advance t).phaseDone 5 = false →
          u.tick.stopped = true ∧ u.plan.lost = true ∧ (u.reg rTickEvents).getLsbD 5 = true))

/-- A record not handed over by the record deadline makes the tick overrun in phase 5: its work stops and its record is
written INVALID, with OVERRUN unless another cause came first (R31, R33, R37). -/
def Sys2Proof.Statements.RecordDeadlineOverruns : Prop :=
  ∀ (s : State) (t : Nat) (ports : List (Die × Nat × List Nat)), s.dev = .running → s.tick.live = true →
    s.tick.stopped = false → s.plan.handed = false → s.deadline ≤ t →
    ∃ u, exec (.recordDeadline ⟨t, ports⟩) s = .next u ∧ u.tick = { s.tick with stopped := true, phase := 6 } ∧
      (u.reg rTickEvents).getLsbD 5 = true ∧ u.plan.cause = some ((s.advance t).causeWith 3) ∧
      u.plan.record.isSome = true ∧ u.plan.lost = true ∧ u.dev = .running ∧ u.mem = s.mem ∧
      ∀ d, (u.die d).ovm.running = [] ∧ (u.die d).reWork = []

/-- At time-up with a round that is not complete on both dies, the rounds from it on are abandoned on every die in service: none of
their tasks is outstanding any more, and a die that had completed one of them has the survivor list of the last common round again.
The event is set on those dies and the record will carry the flag (R271). -/
def Sys2Proof.Statements.TimeupAbandonsTheRound : Prop :=
  ∀ (s : State) (t : Nat), s.dev = .running → s.tick.live = true → s.tick.stopped = false → s.tick.rel = 4 →
    s.commonRounds < s.img (·.refine.rounds) → s.tick.tk + s.img (·.refine.timeupUs) * 1000 ≤ t →
    ∃ u, exec (.timeup t) s = .next u ∧ u.plan = { s.plan with timeoutDeg := true } ∧ u.tick = s.tick ∧ u.dev = .running ∧
      u.mem = (s.dies.foldl (fun v d => v.when (decide (s.commonRounds < (s.die d).rounds)) fun v =>
        v.storeWin d (s.engCfg d).survBase ((s.die d).survs.getD s.commonRounds [])) s).mem ∧
      ((∀ d ∈ s.dies, (s.die d).rounds ≤ s.commonRounds) → u.mem = s.mem) ∧
      ∀ d ∈ s.dies, (u.reg (rHeapEvents d)).getLsbD 0 = true ∧ (u.die d).roundOn = false ∧
        (u.die d).rounds = min s.commonRounds (s.die d).rounds ∧
        ∀ k ∈ s.tasksOfRounds d fun r => decide (s.commonRounds ≤ if r.2 then r.1 + 1 else r.1),
          k ∈ (u.die d).ovm.done ∧ (k ∉ (s.die d).ovm.done → ∀ r ∈ (u.die d).ovm.running, r.task ≠ k)

/-- The release of a phase and what ends work that runs over: watchdog, record deadline, time-up (R27 to R37, R271). -/
def Obligations.PhaseAndDeadlineEvents : Prop :=
  Statements.PhaseIsReleased ∧ Statements.WatchdogOverrunsIncompletePhase ∧ Statements.RecordDeadlineOverruns ∧
    Statements.TimeupAbandonsTheRound

/-! ### The commands of the queue (R45 to R53, R512 to R518, R563 to R568) -/

/-- A write of GLB.CMD enters its code at the end of the command queue; with eight entries in it the write is discarded and
REASON records QUEUE_FULL (R46). -/
def Obligations.CommandWritesEnterTheQueue : Prop :=
  ∀ (s : State) (v hi : Word) (be : Nat), s.host.d3 = false → be % 16 = 15 →
    ∃ u, exec (.registerWrite rGlbCmd 4 be v hi) s = .next u ∧ u.dev = s.dev ∧ u.regs = s.regs ∧ u.mem = s.mem ∧
      u.tick = s.tick ∧ u.sh = s.sh ∧ u.out = s.out ∧
      (s.sys.queue.length < 8 → u.sys = { s.sys with queue := s.sys.queue ++ [.cmd (bits v 7 0)] }) ∧
      (8 ≤ s.sys.queue.length → u.sys.queue = s.sys.queue ∧ u.sys.reason = 8)

/-- A command of the queue in a state that R49 does not admit it in ends with WRONG_STATE and has no other effect, and so
does a code that R49 does not list (R49, R51, R584). -/
def Sys2Proof.Statements.WrongStateIsRefusedWithoutEffect : Prop :=
  ∀ (s : State) (t missed : Nat),
    (s.headIs (.cmd 1) → s.headWait = false → s.dev ≠ .stopped →
      exec (.start t missed) s = .next ((s.advance t).popCmd 1 1)) ∧
    (s.headIs (.cmd 2) → s.sys.waitEdge = false → s.dev ≠ .running → s.dev ≠ .hold → s.dev ≠ .stopped →
      exec (.stop t) s = .next ((s.advance t).popCmd 2 1)) ∧
    (s.headIs (.cmd 3) → s.sys.waitEdge = false → s.dev ≠ .running → s.dev ≠ .hold →
      exec (.hold t) s = .next ((s.advance t).popCmd 3 1)) ∧
    (s.headIs (.cmd 4) → s.dev ≠ .hold → exec (.resume t missed) s = .next ((s.advance t).popCmd 4 1)) ∧
    (s.headIs (.cmd 5) → s.sys.waitSave = false → s.dev ≠ .hold →
      exec (.save t) s = .next ((s.advance t).popCmd 5 1)) ∧
    (s.headIs (.cmd 6) → s.sys.waitSave = false → s.dev ≠ .hold → s.dev ≠ .stopped →
      exec (.restore t) s = .next ((s.advance t).popCmd 6 1)) ∧
    (s.headIs (.cmd 7) → s.sys.waitRec = false → s.dev ≠ .faulted →
      exec (.recover t) s = .next ((s.advance t).popCmd 7 1)) ∧
    (∀ code, s.headIs (.cmd code) → ¬ (1 ≤ code ∧ code ≤ 7) →
      ∃ u, exec (.unlistedCode t) s = .next u ∧ EntryEnds code 1 s u ∧ u.dev = s.dev ∧ u.regs = s.regs ∧
        u.mem = s.mem ∧ u.tick = s.tick ∧ u.world = s.world)

/-- STOP and HOLD: in RUNNING they wait at the head for the boundary; in HOLD, STOP enters STOPPED at once and discards the
staged items; elsewhere where they are admitted they end DONE without effect (R48, R49, R109, R585). -/
def Obligations.StopAndHoldExecute : Prop :=
  ∀ (s : State) (t : Nat), s.sys.waitEdge = false →
    (s.headIs (.cmd 2) → s.dev = .running →
      ∃ u, exec (.stop t) s = .next u ∧ u.sys = { s.sys with waitEdge := true, waitAt := (s.advance t).now } ∧
        u.dev = .running ∧ u.tick = s.tick) ∧
    (s.headIs (.cmd 2) → s.dev = .hold →
      ∃ u, exec (.stop t) s = .next u ∧ u.dev = .stopped ∧ EntryEnds 2 0 s u ∧ u.world.staged = [] ∧
        u.world.urgents = []) ∧
    (s.headIs (.cmd 2) → s.dev = .stopped →
      ∃ u, exec (.stop t) s = .next u ∧ u.dev = .stopped ∧ EntryEnds 2 0 s u ∧ u.world = s.world) ∧
    (s.headIs (.cmd 3) → s.dev = .running →
      ∃ u, exec (.hold t) s = .next u ∧ u.sys = { s.sys with waitEdge := true, waitAt := (s.advance t).now } ∧
        u.dev = .running ∧ u.tick = s.tick) ∧
    (s.headIs (.cmd 3) → s.dev = .hold →
      ∃ u, exec (.hold t) s = .next u ∧ u.dev = .hold ∧ EntryEnds 3 0 s u ∧ u.world = s.world)

/-- START from STOPPED with the conditions of R50 holding, the registers that it uses sound and the injection caught: device
time, the tick number, the epoch and the seed are loaded, the world is empty, and the device is RUNNING (R17, R26, R49, R50,
R130). -/
def Sys2Proof.Statements.StartBeginsRunning : Prop :=
  ∀ (s : State) (t : Nat), s.headIs (.cmd 1) → s.headWait = false → s.dev = .stopped →
    s.soundAt (runRegs ++ sessionRegs) = true → s.runCheck (s.pair rTickTimeSetLo rTickTimeSetHi) = 0 →
    ∃ u, exec (.start t 0) s = .next u ∧ u.dev = .running ∧ EntryEnds 1 0 s u ∧
      u.now = s.pair rTickTimeSetLo rTickTimeSetHi ∧ u.tick.next = s.pair rTickNumSetLo rTickNumSetHi ∧
      u.tick.first = true ∧ u.seed = BitVec.ofNat 64 (s.pair (rReSeedSetLo .s0) (rReSeedSetHi .s0)) ∧
      u.world.epoch = (s.reg rWorldEpochSet).toNat ∧ u.world.staged = [] ∧ u.world.modes = [] ∧ u.world.ego = none ∧
      u.plan.history = none ∧ u.dep.invRun = 0 ∧ u.dep.safe = s.dep.safe

/-- RESUME from HOLD with the conditions of R50 holding, the registers that it uses sound and the injection caught: the count of
ticks goes on (R26, R49, R50, R515). -/
def Sys2Proof.Statements.ResumeContinuesTheCount : Prop :=
  ∀ (s : State) (t : Nat), s.headIs (.cmd 4) → s.dev = .hold → s.soundAt runRegs = true →
    (s.advance t).runCheck (s.advance t).now = 0 →
    ∃ u, exec (.resume t 0) s = .next u ∧ u.dev = .running ∧ EntryEnds 4 0 s u ∧ u.tick.next = s.tick.next ∧
      u.tick.num = s.tick.num ∧ u.tick.first = true ∧ u.tick.nextT = some s.tick.expect ∧ u.world = s.world ∧
      u.plan = s.plan ∧ u.mem = s.mem ∧ u.dep.invRun = 0

/-- START and RESUME whose error injection is not caught whole, with no reset asserted: the command has run, and the safe state is
entered with cause INJECTION (R488 to R490). -/
def Sys2Proof.Statements.InjectionMissedIsCaught : Prop :=
  ∀ (s : State) (t missed : Nat), missed ≠ 0 → s.sys.inReset = false →
    (s.headIs (.cmd 1) → s.headWait = false → s.dev = .stopped → s.soundAt (runRegs ++ sessionRegs) = true →
      s.runCheck (s.pair rTickTimeSetLo rTickTimeSetHi) = 0 →
      ∃ u, exec (.start t missed) s = .next u ∧ u.dev = .faulted ∧ u.dep.cause = 12 ∧ u.dep.safe = true ∧
        EntryEnds 1 0 s u ∧ (u.reg rDeputyEvents).getLsbD 8 = true) ∧
    (s.headIs (.cmd 4) → s.dev = .hold → s.soundAt runRegs = true → (s.advance t).runCheck (s.advance t).now = 0 →
      ∃ u, exec (.resume t missed) s = .next u ∧ u.dev = .faulted ∧ u.dep.cause = 12 ∧ u.dep.safe = true ∧
        EntryEnds 4 0 s u ∧ (u.reg rDeputyEvents).getLsbD 8 = true)

/-- START and RESUME with their conditions holding (R26, R49, R50). -/
def Obligations.StartAndResumeRun : Prop :=
  Statements.StartBeginsRunning ∧ Statements.ResumeContinuesTheCount ∧ Statements.InjectionMissedIsCaught

/-- START and RESUME in the state they ask for, with the registers that they use sound and a condition of R50 that fails: the entry
ends with the reason and nothing else changes (R50, R51). -/
def Sys2Proof.Statements.StartAndResumeAreRefusedByReason : Prop :=
  ∀ (s : State) (t missed r : Nat), r ≠ 0 →
    (s.headIs (.cmd 1) → s.headWait = false → s.dev = .stopped → s.soundAt (runRegs ++ sessionRegs) = true →
      s.runCheck (s.pair rTickTimeSetLo rTickTimeSetHi) = r →
      exec (.start t missed) s = .next ((s.advance t).popCmd 1 r)) ∧
    (s.headIs (.cmd 4) → s.dev = .hold → s.soundAt runRegs = true → (s.advance t).runCheck (s.advance t).now = r →
      exec (.resume t missed) s = .next ((s.advance t).popCmd 4 r))

/-- Commands of the queue that end without effect, each with its reason (R49 to R51, R584). -/
def Obligations.CommandsAreRefusedByReason : Prop :=
  Statements.WrongStateIsRefusedWithoutEffect ∧ Statements.StartAndResumeAreRefusedByReason

/-- HALT_N low for 1 µs abandons the tick in progress and leads from RUNNING or HOLD to STOPPED; a tick without a record has
its record written INVALID, with HALTED unless another cause stands. In any other state, and before the 1 µs are over, only time and
the pin change, and the pin's rise changes nothing but the pin (R37, R45, R52). -/
def Obligations.HaltStopsTheDevice : Prop :=
  ∀ (s : State) (t low : Nat),
    (1000 ≤ low → s.dev = .running ∨ s.dev = .hold →
      ∃ u, exec (.halt ⟨t, low⟩) s = .next u ∧ u.dev = .stopped ∧ u.sys.haltLow = true ∧ u.tick.live = false ∧
        u.tick.phase = 7 ∧ u.mem = s.mem ∧ u.dep.safe = s.dep.safe ∧
        (s.tick.live = true → s.plan.record = none →
          u.plan.record.isSome = true ∧ u.plan.cause = some ((s.advance t).causeWith 2))) ∧
    (low < 1000 ∨ (s.dev ≠ .running ∧ s.dev ≠ .hold) →
      exec (.halt ⟨t, low⟩) s = .next { s.advance t with sys := { s.sys with haltLow := true } }) ∧
    exec .haltNRise s = .next { s with sys := { s.sys with haltLow := false } }

/-- A software COMMIT whose pending words are sound and that is performed puts every pending value in force, each under its own
mask, and leaves none pending; one that is refused changes no value in force and keeps every pending value (R564 to R566). -/
def Sys2Proof.Statements.CommitTakesAllOrNothing : Prop :=
  ∀ (s : State) (t : Nat), s.headIs .commit → s.soundAt (s.sh.map (·.off)) = true →
    (s.dev = .stopped ∨ (s.sh.any fun p => s.shChanges p) = false → s.offered s.pendingProfile = true →
      (s.sh.map (·.off)).Nodup → rKlinkEvents ∉ s.sh.map (·.off) →
      ∃ u, exec (.commit t) s = .next u ∧ EntryEnds 0x80 0 s u ∧ u.sh = [] ∧ u.dev = s.dev ∧
        (∀ p ∈ s.sh, u.reg p.off = (s.reg p.off &&& ~~~p.mask) ||| (p.val &&& p.mask)) ∧
        ∀ o, o ∉ s.sh.map (·.off) → o ≠ rKlinkEvents → u.reg o = s.reg o) ∧
    (s.dev ≠ .stopped → (s.sh.any fun p => s.shChanges p) = true →
      exec (.commit t) s = .next ((s.advance t).popCmd 0x80 1)) ∧
    (s.dev = .stopped → s.offered s.pendingProfile = false →
      exec (.commit t) s = .next ((s.advance t).popCmd 0x80 4))

/-- DISCARD drops every pending value and leaves every value in force (R567). -/
def Sys2Proof.Statements.DiscardDropsPendingValues : Prop :=
  ∀ s : State, s.host.d3 = false →
    ∃ u, exec .discard s = .next u ∧ u.sh = [] ∧ u.regs = s.regs ∧ u.sys = s.sys ∧ u.dev = s.dev ∧
      ∀ b ∈ u.badRegs, b ∈ s.badRegs ∧ b.pending = false

/-- COMMIT and DISCARD of the pending values (R564 to R567). -/
def Obligations.PendingValuesTakeForceTogether : Prop :=
  Statements.CommitTakesAllOrNothing ∧ Statements.DiscardDropsPendingValues

/-- SAVE in HOLD samples its base, writes the saved form there and nowhere else, and waits; where the region is not usable
it writes nothing and its result is ADDR, and where the initialisation of the DRAM has not come so far it waits at the head with
INIT_STALL. SAVE_DONE reports the result and ends the entry (R49, R359, R512, R585; that memory is written at SAVE itself and the
entry then waits for SAVE_DONE is the model's choice, log entry 15). The register of its base is taken as sound. -/
def Obligations.SaveWritesTheCarryOverState : Prop :=
  ∀ (s : State) (t : Nat), s.headIs (.cmd 5) → s.soundAt saveRegs = true →
    (s.sys.waitSave = false → s.dev = .hold →
      s.stalled [(s.pair rTallySaveBaseLo rTallySaveBaseHi, s.saveLen)] = [] →
      s.saveRegionOk (s.pair rTallySaveBaseLo rTallySaveBaseHi) s.saveLen = true →
      ∃ u, exec (.save t) s = .next u ∧
        u.sys = { s.sys with waitSave := true, saveBase := s.pair rTallySaveBaseLo rTallySaveBaseHi, saveResult := 0 } ∧
        u.mem = memWrite s.mem (s.pair rTallySaveBaseLo rTallySaveBaseHi) (s.saveBytes false) ∧
        (u.reg rTallySaveStatus).getLsbD 0 = true ∧ u.dev = .hold ∧ u.tick = s.tick ∧ u.plan = s.plan) ∧
    (s.sys.waitSave = false → s.dev = .hold →
      s.stalled [(s.pair rTallySaveBaseLo rTallySaveBaseHi, s.saveLen)] = [] →
      s.saveRegionOk (s.pair rTallySaveBaseLo rTallySaveBaseHi) s.saveLen = false →
      ∃ u, exec (.save t) s = .next u ∧ u.sys.waitSave = true ∧ u.sys.saveResult = 6 ∧ u.mem = s.mem ∧ u.dev = .hold ∧
        u.tick = s.tick ∧ u.plan = s.plan) ∧
    (s.sys.waitSave = false → s.dev = .hold →
      s.stalled [(s.pair rTallySaveBaseLo rTallySaveBaseHi, s.saveLen)] ≠ [] →
      ∃ u, exec (.save t) s = .next u ∧ u.sys = s.sys ∧ (u.reg (rDmcEvents .s0)).getLsbD 3 = true ∧ u.mem = s.mem ∧
        u.dev = .hold) ∧
    (s.sys.waitSave = true →
      ∃ u, exec .saveDone s = .next u ∧ EntryEnds 5 0 s u ∧
        u.reg rTallySaveStatus = packFields [(4, s.sys.saveResult)] ∧ u.mem = s.mem ∧ u.tick = s.tick ∧ u.dev = s.dev)

namespace Sys2Proof.Machine

/-- The spans of S0's DRAM that RESTORE reads: the header and what it announces (R513). -/
def State.restoreSpans (s : State) : List (Nat × Nat) :=
  [(s.sys.saveBase, 0x80), (s.sys.saveBase, fieldU (s.load s.sys.saveBase 0x80) 8 4)]

/-- The registers that hold the START values which a RESTORE in STOPPED loads (R514). -/
def startValues : List Nat := [rTickNumSetLo, rTickNumSetHi, rWorldEpochSet, rReSeedSetLo .s0, rReSeedSetHi .s0]

end Sys2Proof.Machine

/-- RESTORE samples its base and waits; RESTORE_DONE loads a state that passes the checks: in HOLD the plan history, the epoch,
the tick counter with its next boundary, the seed and the current recurrent bank of each die, with the Deputy's counts, and in
STOPPED only the START values. Where a check fails, all of these, memory and the Deputy are as they were, and while the
initialisation of the DRAM has not passed the state the command waits (R49, R359, R498, R513, R514; that it keeps its place at
the head meanwhile is the model's choice, log entry 15). The register of its base is taken as sound. -/
def Obligations.RestoreLoadsOnlyACheckedState : Prop :=
  ∀ (s : State) (t : Nat), s.headIs (.cmd 6) → s.soundAt saveRegs = true →
    (s.sys.waitSave = false → s.dev = .hold ∨ s.dev = .stopped →
      ∃ u, exec (.restore t) s = .next u ∧
        u.sys = { s.sys with waitSave := true, saveBase := s.pair rTallySaveBaseLo rTallySaveBaseHi, saveResult := 0 } ∧
        (u.reg rTallySaveStatus).getLsbD 0 = true ∧ (u.reg rTallySaveStatus).getLsbD 9 = true ∧ u.mem = s.mem ∧
        u.tick = s.tick ∧ u.dev = s.dev) ∧
    (∀ ue, s.sys.waitSave = true → s.stalled s.restoreSpans ≠ [] →
      exec (.restoreDone ue) s = .next (s.noteStalls (s.stalled s.restoreSpans))) ∧
    (s.sys.waitSave = true → s.stalled s.restoreSpans = [] →
      (s.dev = .hold → s.restoreCheck s.sys.saveBase = 0 →
        ∃ u, exec (.restoreDone false) s = .next u ∧ EntryEnds 6 0 s u ∧
          u.tick.next = fieldU (s.load s.sys.saveBase 0x80) 0x10 8 ∧
          u.tick.expect = fieldU (s.load s.sys.saveBase 0x80) 0x18 8 ∧ u.tick.nextT = none ∧
          u.world.epoch = fieldU (s.load s.sys.saveBase 0x80) 0x28 4 ∧
          u.seed = BitVec.ofNat 64 (fieldU (s.load s.sys.saveBase 0x80) 0x20 8) ∧
          u.plan.history = (if fieldU (s.load s.sys.saveBase 0x80) 6 2 % 2 = 1 then
            some (s.load (s.sys.saveBase + 0x80) (64 + 16 * s.nSamp)) else none) ∧
          u.dep.tick = u.tick.next ∧ u.dep.epoch = u.world.epoch ∧ bits (u.reg rTallySaveStatus) 7 4 = 0 ∧
          u.dev = .hold ∧ (∀ o ∈ startValues, u.reg o = s.reg o) ∧
          ((∀ b, b < 2 → s.bankBase b + s.rstateLen ≤ 0x2000000) →
            ∀ d ∈ s.dies, u.rstate d = s.load (s.sys.saveBase + 0x80 + 64 + 16 * s.nSamp) s.rstateLen)) ∧
      (s.dev = .stopped → s.restoreCheck s.sys.saveBase = 0 →
        ∃ u, exec (.restoreDone false) s = .next u ∧ EntryEnds 6 0 s u ∧ u.tick = s.tick ∧ u.world = s.world ∧
          u.seed = s.seed ∧ u.mem = s.mem ∧ u.plan = s.plan ∧ u.dev = .stopped ∧
          u.pair rTickNumSetLo rTickNumSetHi = fieldU (s.load s.sys.saveBase 0x80) 0x10 8 % 2 ^ 64 ∧
          u.reg rWorldEpochSet = BitVec.ofNat 32 (fieldU (s.load s.sys.saveBase 0x80) 0x28 4) ∧
          u.pair (rReSeedSetLo .s0) (rReSeedSetHi .s0) = fieldU (s.load s.sys.saveBase 0x80) 0x20 8 % 2 ^ 64 ∧
          bits (u.reg rTallySaveStatus) 7 4 = 0) ∧
      (∀ ue r, r = (if s.restoreCheck s.sys.saveBase ≠ 6 ∧ ue = true then 5 else s.restoreCheck s.sys.saveBase) → r ≠ 0 →
        ∃ u, exec (.restoreDone ue) s = .next u ∧ EntryEnds 6 0 s u ∧ u.tick = s.tick ∧ u.world = s.world ∧
          u.seed = s.seed ∧ u.mem = s.mem ∧ u.plan = s.plan ∧ u.dep = s.dep ∧ u.dev = s.dev ∧
          (∀ o ∈ startValues, u.reg o = s.reg o) ∧ bits (u.reg rTallySaveStatus) 7 4 = r))

namespace Sys2Proof.Machine

/-- The device after steps 2 and 3 of RECOVER, where no die reads too hot (R518): the dies forced off are powered up, the
failures that the self-test finds within its scope have retired their units, and the powered dies' engines take up service. -/
def State.afterSelfTest (s : State) (run : BistRun) (macros : Nat) (fails : List BistFail) : State :=
  (((((s.wakeDies.bistResult run 47 macros (fails.filter (bistFinds run))).retireFound (fails.filter (bistFinds run)) true false
    .s0).retireFound (fails.filter (bistFinds run)) true false .s1).serveDie .s0).serveDie .s1)

/-- A RECOVER ended at a step of R518 with a result: its entry is DONE, TALLY.RECOVERY shows both and is no longer busy, no
self-test runs, and the safe-state outputs stay as they were (R481). -/
structure RecoveryEnds (step result : Nat) (s u : State) : Prop where
  entry : EntryEnds 7 0 s u
  shown : bits (u.reg rTallyRecovery) 3 1 = step ∧ bits (u.reg rTallyRecovery) 5 4 = result ∧
    (u.reg rTallyRecovery).getLsbD 0 = false
  test : u.bist.run = none
  outputs : u.dep.safe = s.dep.safe

end Sys2Proof.Machine

/-- RECOVER in FAULTED: with no cause present the engines are reset and the self-test of the powered dies begins; with one
present the sequence stays at step 1 and ends there. A die that still reads 116 °C or more is gated again and ends it at step 2;
a device that no fitted profile finds serviceable after the self-test stays FAULTED at step 3; else it returns to STOPPED, with
the Crosscut up (R49, R481, R518; that the entry stays at the head till then is the model's choice, log entry 16). -/
def Obligations.RecoverRunsTheSequence : Prop :=
  ∀ (s : State) (t : Nat), s.dev = .faulted →
    (s.headIs (.cmd 7) → s.sys.waitRec = false → s.dep.present = [] →
      ∃ u, exec (.recover t) s = .next u ∧ u.sys = { s.sys with waitRec := true } ∧ u.dev = .faulted ∧
        (∃ run, u.bist.run = some run ∧ run.kind = 3 ∧ run.by_ = 2) ∧ (u.reg rTallyRecovery).getLsbD 0 = true ∧
        bits (u.reg rTallyRecovery) 3 1 = 3 ∧ (∀ d, (s.die d).forced = true → (u.die d).power = 1) ∧
        u.d0.sel = [] ∧ u.d1.sel = [] ∧ u.d0.reWork = [] ∧ u.d1.reWork = [] ∧ u.mem = s.mem) ∧
    (s.headIs (.cmd 7) → s.sys.waitRec = false → s.dep.present ≠ [] →
      ∃ u, exec (.recover t) s = .next u ∧ u.sys = { s.sys with waitRec := true } ∧ u.dev = .faulted ∧
        u.bist = s.bist ∧ u.d0 = s.d0 ∧ u.d1 = s.d1 ∧ bits (u.reg rTallyRecovery) 3 1 = 1 ∧
        (u.reg rTallyRecovery).getLsbD 0 = true) ∧
    (∀ macros fails, s.headIs (.cmd 7) → s.sys.waitRec = true → (s.reg rTallyRecovery).getLsbD 0 = true → s.bist.run = none →
      ∃ u, exec (.recoverDone t ⟨macros, fails⟩) s = .next u ∧ RecoveryEnds 1 1 s u ∧ u.dev = .faulted ∧ u.d0 = s.d0 ∧
        u.d1 = s.d1 ∧ u.mem = s.mem) ∧
    (∀ macros fails run, s.headIs (.cmd 7) → s.sys.waitRec = true → (s.reg rTallyRecovery).getLsbD 0 = true →
      s.bist.run = some run → run.by_ = 2 →
      ((∃ d, (s.die d).power = 1 ∧ 720 ≤ s.temp d) →
        ∃ u, exec (.recoverDone t ⟨macros, fails⟩) s = .next u ∧ RecoveryEnds 2 1 s u ∧ u.dev = .faulted ∧
          (∀ d, (s.die d).power = 1 → 720 ≤ s.temp d → (u.die d).power = 0 ∧ (u.die d).forced = true) ∧
          ∀ d, (s.die d).power = 1 → s.temp d < 720 → (u.die d).power = 2) ∧
      ((∀ d, (s.die d).power = 1 → s.temp d < 720) →
        (((s.advance t).afterSelfTest run macros fails).recoverable = false →
          ∃ u, exec (.recoverDone t ⟨macros, fails⟩) s = .next u ∧ RecoveryEnds 3 2 s u ∧ u.dev = .faulted) ∧
        (((s.advance t).afterSelfTest run macros fails).recoverable = true →
          ∃ u, exec (.recoverDone t ⟨macros, fails⟩) s = .next u ∧ RecoveryEnds 5 0 s u ∧ u.dev = .stopped ∧
            bits (u.reg rTallyRecovery) 31 16 = min 65535 (bits (s.reg rTallyRecovery) 31 16 + 1) ∧
            (∀ d, (s.die d).power = 1 → (u.die d).power = 2) ∧
            ∀ d, (u.die d).power = 2 → (u.die d).isolated = false → (u.die d).hubUp = true)))

/-! ### Resets, start-up, the link and the power domain of S1 (R363 to R384, R530 to R542, R589, R597) -/

/-- A device reset leads to BOOT with the safe-state outputs asserted, empties what runs, and keeps memory, the written and
staged log and the registers of the TALLY block and of the counts since power-up, the flags of what it cut short apart; every
other register has its reset value (R45, R452, R530 to R532). Which registers and which state of the dies stay, one by one, is read
from these rules (log entry 63, with 10 and 64). -/
def Sys2Proof.Statements.DeviceResetReturnsToBoot : Prop :=
  ∀ s : State, ∃ u, exec .deviceReset s = .next u ∧ u.dev = .boot ∧ u.dep.safe = true ∧ u.mem = s.mem ∧
    u.tally.written = s.tally.written ∧ u.tally.staged = s.tally.staged ∧ u.image = none ∧ u.loading = none ∧
    u.tick = Tick.reset ∧ u.world = World.reset ∧ u.sh = [] ∧ u.latches = [] ∧ u.sys.queue = [] ∧ u.sys.inReset = true ∧
    u.chans = State.reset.chans ∧ u.kl = Klink.reset ∧ u.bist.run = none ∧ u.ticked = s.ticked ∧ u.d0.power = 0 ∧ u.d1.power = 0 ∧
    u.d0.ces = List.replicate 68 CeUnit.idle ∧ u.d1.ces = List.replicate 68 CeUnit.idle ∧ u.d0.sliceOv = s.d0.sliceOv ∧
    (∀ o, keptByReset o = false → o ≠ rGlbProfile → u.reg o = regReset o) ∧
    ∀ o, keptByReset o = true → o ≠ rTallySaveStatus → o ≠ rTallyRecovery → o ≠ rDmcStatus .s0 → o ≠ rDmcStatus .s1 →
      u.reg o = s.reg o

/-- A power-on reset leads to BOOT with the safe-state outputs asserted and every register at its reset value; the written
log stays (R45, R452, R530). The fall of PERST_N asserts the outputs at once and changes nothing else (R531). -/
def Sys2Proof.Statements.PowerOnResetReturnsToBoot : Prop :=
  ∀ s : State,
    (∃ u, exec .powerOnReset s = .next u ∧ u.dev = .boot ∧ u.dep = Deputy.reset ∧ u.tick = Tick.reset ∧ u.image = none ∧
      u.tally.written = s.tally.written ∧ u.tally.staged = [] ∧ u.sys = Sys.reset ∧ u.sh = [] ∧ u.ticked = none ∧
      u.d0 = DieState.reset ∧ u.d1 = DieState.reset ∧ ∀ o, o ≠ rGlbProfile → u.reg o = regReset o) ∧
    exec .perstNFall s = .next { s with dep := { s.dep with safe := true }, sys := { s.sys with perstLow := true } }

/-- The resets (R45, R452, R530 to R532). -/
def Obligations.ResetsReturnToBoot : Prop :=
  Statements.DeviceResetReturnsToBoot ∧ Statements.PowerOnResetReturnsToBoot

/-- The release of reset, once the power-on reset is released, samples the pins, makes the log ready and begins to power the
dies up; BOOTSEL other than 0 waits for a push, test mode stops with ERROR 0xC, a flash that does not answer leaves its code and
waits for a push (R524, R533, R537, R541, R542, R603). That PERST_N is high at the release is log entry 65, and the stages of
start-up as commands log entry 66. -/
def Sys2Proof.Statements.ResetReleaseBeginsStartUp : Prop :=
  ∀ (s : State) (bootsel flashError : Nat) (testMode haltLow : Bool) (container : List Byte),
    (s.sys.inReset = false ∨ s.sys.porHeld = true →
      exec (.resetRelease bootsel testMode haltLow flashError container) s = .next s) ∧
    (s.sys.inReset = true → s.sys.porHeld = false →
      ∃ u, exec (.resetRelease bootsel testMode haltLow flashError container) s = .next u ∧
      u.sys = { s.sys with inReset := false, perstLow := false, haltLow := haltLow } ∧ u.tally.ready = true ∧
      u.d0.power = 1 ∧ u.d1.power = (if s.hasS1 then 1 else 0) ∧ u.dev = s.dev ∧ u.dep = s.dep ∧ u.mem = s.mem ∧
      bits (u.reg rSecBoot) 1 0 = bootsel % 4 ∧
      (testMode = true → bits (u.reg rSecBoot) 15 8 = 0xC ∧ (u.reg rSecBoot).getLsbD 3 = false) ∧
      (testMode = false → bootsel % 4 ≠ 0 → bits (u.reg rSecBoot) 15 8 = 0 ∧ (u.reg rSecBoot).getLsbD 3 = true) ∧
      (testMode = false → bootsel % 4 = 0 → flashError = 1 ∨ flashError = 2 →
        bits (u.reg rSecBoot) 15 8 = flashError ∧ (u.reg rSecBoot).getLsbD 3 = true))

/-- The power-on reset is held until every monitored rail is within its range and SYSCLK and DEPCLK run: the command that
completes the inputs releases it, one that leaves an input out does not (R595, R597). That a measurement of SYSCLK within 1 % tells
that SYSCLK and DEPCLK run, and one beyond it, or the loss of DEPCLK, that they do not, is read from the rules (log entry 65). -/
def Sys2Proof.Statements.PowerOnResetIsHeld : Prop :=
  ∀ (s : State) (n t : Nat) (ppm : Int), s.sys.porHeld = true →
    (n < 13 → s.monitored n = true →
      ∃ u, exec (.railWithinTolerance n) s = .next u ∧ u.power.rails.testBit n = true ∧
        ((∀ k, k < 13 → k ≠ n → s.monitored k = true → s.power.rails.testBit k = true) → s.power.clocks.testBit 0 = true →
          s.power.clocks.testBit 3 = true → u.sys = { s.sys with porHeld := false }) ∧
        ((∃ k, k < 13 ∧ k ≠ n ∧ s.monitored k = true ∧ s.power.rails.testBit k = false) ∨ s.power.clocks.testBit 0 = false ∨
          s.power.clocks.testBit 3 = false → u.sys = s.sys)) ∧
    (s.sys.inReset = true → ppm.natAbs ≤ 10000 →
      ∃ u, exec (.depClock t ppm) s = .next u ∧ u.power.clocks.testBit 0 = true ∧ u.power.clocks.testBit 3 = true ∧
        ((∀ k, k < 13 → s.monitored k = true → s.power.rails.testBit k = true) → u.sys = { s.sys with porHeld := false }) ∧
        ((∃ k, k < 13 ∧ s.monitored k = true ∧ s.power.rails.testBit k = false) → u.sys = s.sys)) ∧
    (s.sys.inReset = true → 10000 < ppm.natAbs →
      ∃ u, exec (.depClock t ppm) s = .next u ∧ u.power.clocks.testBit 0 = false ∧ u.sys = s.sys ∧ u.dev = s.dev) ∧
    (s.sys.inReset = true →
      ∃ u, exec (.depclkLost t) s = .next u ∧ u.power.clocks.testBit 3 = false ∧ u.sys = s.sys ∧ u.dev = s.dev)

/-- Firmware initialisation ends in READY: device time starts at 0, every die that was powering up is on and its engines have
the roles of R618; the SRAM of one that had no power at the reset is zero, and no other byte of memory and no register but the CE
events changes (R17, R45, R366, R537, R618). -/
def Sys2Proof.Statements.BootEndsInReady : Prop :=
  ∀ s : State, s.bootReady = true →
    ∃ u, exec .bootComplete s = .next u ∧ u.dev = .ready ∧ u.now = 0 ∧ u.timeOn = true ∧
      (∀ d, (s.die d).power = 1 → (u.die d).power = 2 ∧ (u.die d).ces = (s.die d).takeService.ces) ∧
      (∀ d, (s.die d).power ≠ 1 → (u.die d).power = (s.die d).power ∧ (u.die d).ces = (s.die d).ces) ∧
      u.dep = s.dep ∧ u.sec = s.sec ∧ (∀ o, (∀ d, o ≠ rCeEvents d) → u.reg o = s.reg o) ∧
      (∀ d a, (s.die d).power = 1 → (s.die d).isolated = true → winBaseOf d ≤ a → a < winBaseOf d + 0x4000000 →
        memByte u.mem a = 0) ∧
      ∀ a, (∀ d, (s.die d).power = 1 → (s.die d).isolated = true →
        ¬ (winBaseOf d ≤ a ∧ a < winBaseOf d + 0x4000000) ∧ ¬ (sliceKey d 0 ≤ a ∧ a < sliceKey d 0x40000)) →
        memByte u.mem a = memByte s.mem a

/-- Start-up, from the power-on reset to READY (R533 to R542, R597). -/
def Obligations.StartUpEndsInReady : Prop :=
  Statements.ResetReleaseBeginsStartUp ∧ Statements.PowerOnResetIsHeld ∧ Statements.BootEndsInReady

/-- A link that comes up with no reset asserted, at a speed and width that the endpoint trains at, sends one message for every
vector that is pending and not masked, to the address and with the data of its table entry; the pending bit clears. The write of
a vector's entry and of the function's masks holds what it writes and sends what it unmasks while the link is up; in D3hot it
does nothing (R368, R370, R373, R384; that MSIX_UNMASK carries the masks as well is the model's choice, log entry 4). -/
def Sys2Proof.Statements.PendingVectorsAreSent : Prop :=
  ∀ s : State,
    (∀ speed width, linkLegal speed width = true → s.sys.inReset = true → exec (.linkUp speed width) s = .next s) ∧
    (∀ speed width, linkLegal speed width = true → s.sys.inReset = false →
      ∃ u, exec (.linkUp speed width) s = .next u ∧ u.host.up = true ∧
        bits (u.reg rHostLink) 3 0 = speed ∧ bits (u.reg rHostLink) 8 4 = width ∧ u.power.clocks.testBit 1 = true ∧
        u.host.mask = s.host.mask ∧ u.dev = s.dev ∧ u.mem = s.mem ∧
        (s.host.allOff = false → ∀ v, v < 64 → u.host.pba.getLsbD v = (s.host.pba.getLsbD v && s.host.mask.getLsbD v) ∧
          (s.host.pba.getLsbD v = true → s.host.mask.getLsbD v = false → s.message v ∈ u.out)) ∧
        (s.host.allOff = true → u.host.pba = s.host.pba ∧ u.out = s.out)) ∧
    (∀ w : VectorWrite, w.v < 64 → s.host.d3 = true → exec (.msixUnmask w) s = .next s) ∧
    (∀ w : VectorWrite, w.v < 64 → s.host.d3 = false →
      ∃ u, exec (.msixUnmask w) s = .next u ∧ u.host.mask.getLsbD w.v = w.masked ∧ u.host.allOff = w.allOff ∧
        u.host.vectors.getD w.v (0, 0) = (w.addr, w.data) ∧
        (∀ k, k < 64 → k ≠ w.v → u.host.mask.getLsbD k = s.host.mask.getLsbD k ∧
          u.host.vectors.getD k (0, 0) = s.host.vectors.getD k (0, 0)) ∧
        (s.host.up = true → w.allOff = false → ∀ k, k < 64 →
          u.host.pba.getLsbD k = (s.host.pba.getLsbD k && u.host.mask.getLsbD k) ∧
            (s.host.pba.getLsbD k = true → u.host.mask.getLsbD k = false → u.message k ∈ u.out)) ∧
        (s.host.up = false ∨ w.allOff = true → u.host.pba = s.host.pba ∧ u.out = s.out) ∧ u.regs = s.regs ∧ u.mem = s.mem)

namespace Sys2Proof.Machine

/-- What the loss of the link leaves of a host-side channel: a chain in flight ends with HOST_ERR, a record being delivered is
given up (R376). -/
def State.chanUnlinked (s : State) (ch : Nat) : Chan :=
  match (s.chan ch).chain with
  | some h => { s.chan ch with chain := none, sending := none, stopping := false, pausing := false, paused := false
                               status := 0xB, cur := h.desc }
  | none => { s.chan ch with sending := none }

/-- What it leaves of a stream: of an item that the chain in flight had begun nothing; the items that have arrived stay. -/
def State.streamUnlinked (s : State) (ch : Nat) : Stream :=
  let w := s.world.streams.getD ch Stream.idle
  if (s.chan ch).chain.isSome then { w with part := [], full := w.full && !w.held.isEmpty } else w

/-- The link lost (R376). -/
structure LinkIsLost (s u : State) : Prop where
  down : u.host.up = false
  event : (u.reg rHostEvents).getLsbD 0 = true
  chans : ∀ ch, ch < 140 → u.chan ch = s.chanUnlinked ch
  dropped : ∀ ch, ch < 140 → u.reg (rHaulChDrop ch) =
    (if (s.chan ch).sending.isSome then satAddWord (s.reg (rHaulChDrop ch)) 1 else s.reg (rHaulChDrop ch))
  failed : ∀ ch, ch < 140 → (s.chan ch).chain.isSome = true → (u.reg (rHaulChEvents ch)).getLsbD 5 = true
  streams : ∀ ch, ch < 128 → u.world.streams.getD ch Stream.idle = s.streamUnlinked ch
  world : u.world = { s.world with streams := u.world.streams }
  rest : u.dev = s.dev ∧ u.mem = s.mem ∧ u.tick = s.tick ∧ u.plan = s.plan

end Sys2Proof.Machine

/-- The loss of the link, by itself or with REFCLK, ends every host-side chain with HOST_ERR, drops a record being delivered,
which is counted, and sets its event; the device stays in its state, memory keeps its bytes, and of the world only what a chain
in flight had of an unfinished item is gone (R376, R590; that bytes of an unfinished item go with their chain is log entry 72, and
what of a record's delivery is given up log entry 80; that the loss of REFCLK takes the link down with all that its loss brings
is log entry 59). A link that is down goes down without effect. -/
def Sys2Proof.Statements.LinkLossEndsHostChains : Prop :=
  ∀ (s : State) (t : Nat),
    (s.host.up = false → exec (.linkDown t) s = .next s ∧ exec .refclkLost s = .next (s.clockLost 1)) ∧
    (s.host.up = true →
      (∃ u, exec (.linkDown t) s = .next u ∧ LinkIsLost s u) ∧
      (∃ u, exec .refclkLost s = .next u ∧ LinkIsLost s u ∧ (u.reg rClkpwrEvents).getLsbD 0 = true ∧
        u.power.clocks.testBit 1 = false))

/-- The link and the interrupt vectors (R368, R376, R384, R590). -/
def Obligations.LinkStateIsFollowed : Prop :=
  Statements.PendingVectorsAreSent ∧ Statements.LinkLossEndsHostChains

/-- D3hot is entered in STOPPED alone, with the DRAM of the powered dies in self-refresh; elsewhere the transition only sets
its event. The return to D0 ends both, and outside D3hot it has no effect (R373). -/
def Sys2Proof.Statements.D3hotIsEnteredInStopped : Prop :=
  ∀ s : State,
    (s.dev = .stopped → ∃ u, exec .d3hot s = .next u ∧ u.host = { s.host with d3 := true } ∧ u.dev = .stopped ∧
      u.mem = s.mem ∧ u.world = s.world ∧ ∀ d, (s.die d).power = 2 → (u.reg (rDmcStatus d)).getLsbD 1 = true) ∧
    (s.dev ≠ .stopped → exec .d3hot s = .next (s.event rHostEvents 2)) ∧
    (s.host.d3 = true → ∃ u, exec .d0Return s = .next u ∧ u.host = { s.host with d3 := false } ∧ u.dev = s.dev ∧
      u.mem = s.mem ∧ ∀ d, (s.die d).power = 2 → (u.reg (rDmcStatus d)).getLsbD 1 = false) ∧
    (s.host.d3 = false → exec .d0Return s = .next s)

/-- A function-level reset, with no other reset asserted, empties the command queue and the pending values, masks every vector, ends
a load in progress, ends D3hot with the self-refresh that came with it, idles every host-side channel and gives the HOST and HAUL
registers their reset values, but for the geometry of the plan-record channel, which goes on to show the image's; RUNNING leads to
FAULTED with cause FLR, HOLD to STOPPED, any other state stays. The image, the OTP and, with no load in progress, memory are as they
were (R45, R320, R373, R375, R384, R476, R567; every vector masked is presumed, log entry 11, and what stays of the HOST
registers is log entry 71). -/
def Sys2Proof.Statements.FunctionLevelResetByState : Prop :=
  ∀ (s : State) (t step : Nat), s.sys.inReset = false →
    ∃ u, exec (.flr t step) s = .next u ∧ u.sys.queue = [] ∧ u.sh = [] ∧ u.host.d3 = false ∧ u.host.up = s.host.up ∧
      u.host.mask = BitVec.allOnes 64 ∧ u.loading = none ∧
      (∀ ch, ch < 140 → (u.chan ch).chain = none ∧ (u.chan ch).queue = []) ∧
      (∀ o, inHostBlocks o = true → o ≠ rHostEvents → u.reg o = regReset o) ∧ (u.reg rHostEvents).getLsbD 1 = true ∧
      (s.host.d3 = true → ∀ d, (s.die d).power = 2 → (u.reg (rDmcStatus d)).getLsbD 1 = false) ∧
      (s.dev = .running → u.dev = .faulted ∧ u.dep.cause = 9 ∧ u.dep.safe = true) ∧
      (s.dev = .hold → u.dev = .stopped) ∧
      (s.dev ≠ .running → s.dev ≠ .hold → u.dev = s.dev ∧ u.tick = s.tick ∧ u.dep.safe = s.dep.safe) ∧
      u.image = s.image ∧ u.sec = s.sec ∧ (s.loading = none → u.mem = s.mem ∧ u.damaged = s.damaged)

/-- D3hot and the function-level reset (R373, R375). -/
def Obligations.FunctionStatesAndReset : Prop :=
  Statements.D3hotIsEnteredInStopped ∧ Statements.FunctionLevelResetByState

namespace Sys2Proof.Machine

/-- No operation of another node and no access of the host window waits here. -/
abbrev State.nothingWaits (s : State) : Prop := s.kl.stalled = [] ∧ s.host.reads = []

end Sys2Proof.Machine

/-- The isolation of S1 ends its draining once no transfer of it is in flight, or at 100 µs: the die is off and cut off, the drain's
time is shown, what was still in flight ends with DOMAIN_OFF, which its event tells, at 100 µs with that of the timeout, and where
nothing was in flight and nothing waits for a memory of this device, memory stays as it is. A copy of the store to S1 counts as in
flight and ends with S1_STALE as it was (R59, R363, R365; how much of it has been copied is left free, log entry 124). -/
def Sys2Proof.Statements.S1IsIsolated : Prop :=
  ∀ (s : State) (t drainNs : Nat), s.d1.power = 3 →
    (drainNs < 100000 → s.dieBusy .s1 = true → exec (.s1Isolate t drainNs) s = .next s) ∧
    (100000 ≤ drainNs ∨ s.dieBusy .s1 = false → ∃ u, exec (.s1Isolate t drainNs) s = .next u ∧ u.d1.power = 0 ∧
      u.d1.isolated = true ∧ u.d1.peerUp = false ∧
      u.d1.hubUp = false ∧ u.d0.peerUp = false ∧ u.d1.sel = [] ∧ u.sys.s1Change = false ∧
      u.reg (rXcutDrainNs .s1) = BitVec.ofNat 32 (min 100000 drainNs) ∧
      (s.dieBusy .s1 = true → (u.reg (rXcutEvents .s1)).getLsbD 2 = true ∧ (u.reg (rXcutEvents .s1)).getLsbD 3 = true) ∧
      (s.dieBusy .s1 = false → s.nothingWaits →
        u.mem = s.mem ∧ (u.reg (rXcutEvents .s1)).getLsbD 3 = (s.reg (rXcutEvents .s1)).getLsbD 3) ∧
      u.world.syncing = false ∧ (s.world.syncing = true → u.world.stale = s.world.stale) ∧ (u.reg rClkpwrEvents).getLsbD 3 = true ∧
      (u.reg (rDmcStatus .s1)).getLsbD 1 = true ∧ u.dev = s.dev)

/-- S1 powers up with the contents of its DRAM kept and its engines in the roles of R618, its paging halves empty and, where no
image is to be placed, with its SRAM at zero (R60, R181, R320, R618); a clock switch locks the die's PLL on the clock of the
profile (R55, R589). -/
def Sys2Proof.Statements.S1PowersUpAndClocksSwitch : Prop :=
  ∀ (s : State) (d : Die) (t : Nat),
    (s.d1.power = 1 → s.sys.s1Rising = true →
      ∃ u, exec (.s1PowerUp t) s = .next u ∧ u.d1.power = 2 ∧ u.d1.isolated = false ∧ u.d1.forced = false ∧
        u.d1.ces = s.d1.takeService.ces ∧ u.sys.s1Change = false ∧ (u.reg rClkpwrEvents).getLsbD 4 = true ∧
        (u.reg (rDmcStatus .s1)).getLsbD 1 = false ∧
        u.d1.paHalves = [none, none] ∧
        (s.image = none → (∀ l ∈ s.loading, l.step = 6 → l.kept = none) → ∀ a, 0x400100000000 ≤ a → a < 0x400104000000 →
          memByte u.mem a = 0) ∧
        (∀ a, 0x800000000 ≤ a → a < 0x1000000000 → memByte u.mem a = memByte s.mem a) ∧ u.dev = s.dev) ∧
    ((match d with | .s0 => s.sys.switch0 | .s1 => s.sys.switch1) = true →
      ∃ u, exec (.clockSwitch d t) s = .next u ∧
        (match d with | .s0 => u.sys.switch0 | .s1 => u.sys.switch1) = false ∧
        (match d with | .s0 => u.power.mhz0 | .s1 => u.power.mhz1) = (if s.profile < 2 then 800 else 1000) ∧
        u.power.clocks.testBit (5 + d.idx) = true ∧ (u.reg rClkpwrEvents).getLsbD 6 = true ∧ u.mem = s.mem ∧
        u.dev = s.dev)

/-- The power domain of S1 and the clock switches (R55, R59, R60, R320, R363, R589, R618). -/
def Obligations.PowerDomainOfS1 : Prop :=
  Statements.S1IsIsolated ∧ Statements.S1PowersUpAndClocksSwitch

/-! ### The Deputy (R448 to R497) -/

/-- The check of a record ends with a verdict: a PASS toggles DHB, counts and clears the run of non-PASS verdicts; a FAIL counts
and advances the run, and in RUNNING with the run at N_INV leads to the safe state with cause INVALID_RUN. Errors that the
Deputy's memory corrects on the way are counted; an uncorrectable one ends the check without a verdict, in the safe state with
cause DEP_SRAM_UE. With no record under check nothing happens (R453, R458, R471 to R474, R476; that the errors of the Deputy's
memory come with this command, and that an uncorrectable one leaves no verdict, is the model's choice, log entries 6 and 105).
The safe state is entered with no reset asserted. -/
def Obligations.VerdictIsIssued : Prop :=
  ∀ (s v : State) (t ce at0 : Nat) (r : List Byte), v = (s.advance t).count rDeputySramCe ce →
    (s.dep.check = none → ∀ ue, exec (.issueVerdict ⟨t, ce, ue⟩) s = .next s) ∧ (s.dep.check = some (r, at0) →
    ((v.checkRecord r).reason = 0 →
      ∃ u, exec (.issueVerdict ⟨t, ce, false⟩) s = .next u ∧ u.dep.check = none ∧ u.dep.dhb = !s.dep.dhb ∧ u.dep.invRun = 0 ∧
        u.dep.irq = true ∧ fieldU u.dep.shown 0xC 1 = 1 ∧ Output.dhb (!s.dep.dhb) ∈ u.out ∧
        u.reg rDeputySramCe = satAddWord (s.reg rDeputySramCe) ce ∧
        u.reg rDeputyPassCount = satAddWord (s.reg rDeputyPassCount) 1 ∧ u.dev = s.dev ∧ u.dep.safe = s.dep.safe) ∧
    ((v.checkRecord r).reason ≠ 0 → ¬ (s.dev = .running ∧ s.nInv ≤ min 15 (s.dep.invRun + 1)) →
      ∃ u, exec (.issueVerdict ⟨t, ce, false⟩) s = .next u ∧ u.dep.check = none ∧ u.dep.dhb = s.dep.dhb ∧
        u.dep.invRun = min 15 (s.dep.invRun + 1) ∧ u.dep.irq = true ∧ fieldU u.dep.shown 0xC 1 = 2 ∧
        u.reg rDeputySramCe = satAddWord (s.reg rDeputySramCe) ce ∧
        u.reg rDeputyFailCount = satAddWord (s.reg rDeputyFailCount) 1 ∧ u.dev = s.dev ∧ u.dep.safe = s.dep.safe) ∧
    ((v.checkRecord r).reason ≠ 0 → s.sys.inReset = false → s.dev = .running → s.nInv ≤ min 15 (s.dep.invRun + 1) →
      ∃ u, exec (.issueVerdict ⟨t, ce, false⟩) s = .next u ∧ EnteredSafe 6 s u) ∧
    (s.dev ≠ .faulted → s.sys.inReset = false → ∃ u, exec (.issueVerdict ⟨t, ce, true⟩) s = .next u ∧ EnteredSafe 5 s u ∧
      u.reg rDeputySramCe = satAddWord (s.reg rDeputySramCe) ce) ∧
    (s.dev = .faulted → ∃ u, exec (.issueVerdict ⟨t, ce, true⟩) s = .next u ∧ u.dep.check = none ∧ u.dev = .faulted ∧
      u.reg rDeputySramCe = satAddWord (s.reg rDeputySramCe) ce ∧ u.mem = s.mem))

/-- With no reset asserted each monitor and each request enters the safe state from every other state, with its cause: FAULTED,
the outputs asserted, the time recorded, the interrupt line low, the tick abandoned, and the world, memory, image and OTP as
they were. At 125 °C the dies at it are also powered down, and transfers of theirs in flight end first, with DOMAIN_OFF. A wrong
parity byte is found by the scan and by a read of its register (R364, R476 to R478, R486, R577, R578, R590; that the loss of
DEPCLK is recorded with the cause DEP_CLOCK is log entry 60). -/
def Sys2Proof.Statements.CausesEnterTheSafeState : Prop :=
  ∀ (s : State) (t : Nat), s.dev ≠ .faulted → s.sys.inReset = false →
    (∃ u, exec (.lockstep t) s = .next u ∧ EnteredSafe 1 s u) ∧
    (∀ ppm : Int, 10000 < ppm.natAbs → ∃ u, exec (.depClock t ppm) s = .next u ∧ EnteredSafe 2 s u ∧ 2 ∈ u.dep.present) ∧
    (∃ u, exec (.depclkLost t) s = .next u ∧ EnteredSafe 2 s u ∧ u.power.clocks.testBit 3 = false) ∧
    (∀ mV, mV < 760 ∨ 840 < mV → ∃ u, exec (.depVolt t mV) s = .next u ∧ EnteredSafe 3 s u ∧ 3 ∈ u.dep.present) ∧
    (∀ s0 s1 h, s.anyHot 125 s0 s1 h = true →
      ∃ u, exec (.overtemp t s0 s1 h) s = .next u ∧ u.dev = .faulted ∧ u.dep.safe = true ∧ u.dep.cause = 4 ∧
        u.dep.irq = true ∧ (u.reg rDeputyEvents).getLsbD 2 = true ∧ u.tick.live = false ∧ u.image = s.image ∧ u.sec = s.sec ∧
        u.dep.thermLow = true ∧ ((∀ d, s.dieBusy d = false) → s.nothingWaits → EnteredSafe 4 s u) ∧
        (s.d0.power ≠ 0 → 756 ≤ s0 → u.d0.power = 0 ∧ u.d0.forced = true ∧
          (s.dieBusy .s0 = true → (u.reg (rXcutEvents .s0)).getLsbD 2 = true)) ∧
        (s.d1.power ≠ 0 → 756 ≤ s1 → u.d1.power = 0 ∧ u.d1.forced = true ∧
          (s.dieBusy .s1 = true → s.d0.power = 0 ∨ s0 < 756 → (u.reg (rXcutEvents .s1)).getLsbD 2 = true))) ∧
    (∀ spacing : Nat, s.dev = .running →
      s.period + 1000000 < 500 * ((spacing : Int) - s.period).natAbs ∨
        (s.tick.live = true ∧ s.tick.tk + 2 * s.period ≤ t) →
      ∃ u, exec (.tickTiming t spacing) s = .next u ∧ EnteredSafe 7 s u) ∧
    (∀ r at0, s.dep.check = some (r, at0) → at0 + 60000 ≤ t →
      ∃ u, exec (.verdictLate t) s = .next u ∧ EnteredSafe 8 s u) ∧
    (∀ f, s.paritySite f.1 f.2.1 f.2.2 = true → (∀ b ∈ s.badRegs, b.off ≠ f.1) →
      ∃ u, exec (.parityScan ⟨[f], []⟩) s = .next u ∧ EnteredSafe 10 s u ∧ 10 ∈ u.dep.present ∧
        (u.reg rRegifEvents).getLsbD 4 = true) ∧
    (∀ ofs, s.host.d3 = false → ofs < 0x1000000 → ofs % 4 = 0 → s.accessCode ofs = 0 → isHiWord (canonical ofs) = false →
      canonical ofs ≠ rDeputyEvents → canonical ofs ≠ rRegifEvents → (∃ b ∈ s.badRegs, b.off = canonical ofs) →
      (∀ b ∈ s.badRegs, b.off = canonical ofs → b.found = false) →
      ∃ u, exec (.captureRead ofs 4 15) s = .next u ∧ EnteredSafe 10 s u ∧ 10 ∈ u.dep.present ∧
        (u.reg rRegifEvents).getLsbD 4 = true) ∧
    (∀ d cls unit, cls < 5 → unit < sliceUnits cls → (s.die d).inService cls unit = true →
      1000000000 ≤ (s.advance t).testAge d cls unit →
      ∃ u, exec (.testOverdue t d cls unit) s = .next u ∧ EnteredSafe 11 s u) ∧
    (s.host.d3 = false → s.accessCode rDeputyCtrl = 0 →
      ∃ u, exec (.safeReq t) s = .next u ∧ EnteredSafe 13 s u) ∧
    (∀ seq crc, spiCrcOk 0x11 seq 0x6C3D crc = true →
      ∃ u, exec (.safe t seq 0x6C3D crc) s = .next u ∧ EnteredSafe 14 s u)

/-- While the safe state is being handled a further cause is not recorded, but for one of the very time at which it was entered,
while device time runs: of causes of one time the lowest code is the one recorded (R476, R477). -/
def Sys2Proof.Statements.FurtherCauseIsNotRecorded : Prop :=
  ∀ (s : State) (t code : Nat) (c : Instr), s.dev = .faulted →
    (c = .lockstep t ∧ code = 1) ∨ (c = .verdictLate t ∧ code = 8 ∧ ∃ r at0, s.dep.check = some (r, at0) ∧ at0 + 60000 ≤ t) →
    (s.timeOn = false ∨ s.pair rDeputySafeTimeLo rDeputySafeTimeHi ≠ (s.advance t).now ∨ s.dep.cause ≤ code →
      exec c s = .next (s.advance t)) ∧
    (s.sys.inReset = false → s.timeOn = true → s.pair rDeputySafeTimeLo rDeputySafeTimeHi = (s.advance t).now → code < s.dep.cause →
      ∃ u, exec c s = .next u ∧ u.dep = { s.dep with cause := code } ∧ u.dev = .faulted ∧ u.regs = s.regs ∧ u.mem = s.mem ∧
        u.sys = s.sys ∧ u.plan = s.plan ∧ u.out = s.out)

/-- While a reset is asserted the Deputy takes no cause: a monitor's finding leaves the state, the outputs and the log as they are
(R524, R597; read from these rules, log entry 65). -/
def Sys2Proof.Statements.NoCauseIsTakenInReset : Prop :=
  ∀ (s : State) (t mV : Nat), s.sys.inReset = true → (mV < 760 ∨ 840 < mV) →
    exec (.lockstep t) s = .next (s.advance t) ∧ exec (.depVolt t mV) s = .next (s.advance t) ∧
    ∀ s0 s1 h, ∃ u, exec (.overtemp t s0 s1 h) s = .next u ∧ u.dev = s.dev ∧ u.dep.safe = s.dep.safe ∧
      u.dep.cause = s.dep.cause ∧ u.tick = s.tick

/-- A wrong parity byte that no check has found yet is found as its register is used: START, RESUME, SAVE and RESTORE, in the state
they ask for, enter the safe state with cause REG_PARITY and end without effect, in the wrong state (R476, R577; which uses are
checked is log entry 78). -/
def Sys2Proof.Statements.UsedRegistersAreChecked : Prop :=
  ∀ (s : State) (t missed code o : Nat) (c : Instr), s.sys.inReset = false → s.sys.waitEdge = false → s.headIs (.cmd code) →
    (∃ b ∈ s.badRegs, b.off = o) → (∀ b ∈ s.badRegs, b.off = o → b.found = false) →
    (code = 1 ∧ c = .start t missed ∧ s.dev = .stopped ∧ s.headWait = false ∧ o ∈ runRegs ++ sessionRegs) ∨
      (code = 4 ∧ c = .resume t missed ∧ s.dev = .hold ∧ o ∈ runRegs) ∨
      (code = 5 ∧ c = .save t ∧ s.dev = .hold ∧ s.sys.waitSave = false ∧ o ∈ saveRegs) ∨
      (code = 6 ∧ c = .restore t ∧ (s.dev = .hold ∨ s.dev = .stopped) ∧ s.sys.waitSave = false ∧ o ∈ saveRegs) →
    ∃ u, exec c s = .next u ∧ EnteredSafe 10 s u ∧ 10 ∈ u.dep.present ∧ (u.reg rRegifEvents).getLsbD 4 = true ∧
      u.sys.queue = s.sys.queue.tail ∧ u.sys.lastCode = code ∧ u.sys.reason = 1

/-- The safe state (R476 to R478). -/
def Obligations.SafeStateIsEnteredByCause : Prop :=
  Statements.CausesEnterTheSafeState ∧ Statements.FurtherCauseIsNotRecorded ∧ Statements.NoCauseIsTakenInReset ∧
    Statements.UsedRegistersAreChecked

/-- THERM_N is low from 118 °C until every die is below 116 °C (R479): codes 728 and 720 of DEPUTY.TEMP. -/
def Obligations.ThermPinHasHysteresis : Prop :=
  ∀ (s : State) (s0 s1 h : Nat), s.anyHot 125 s0 s1 h = false →
    ∃ u, exec (.thermN s0 s1 h) s = .next u ∧
      u.dep.thermLow = (s.anyHot 118 s0 s1 h || (s.dep.thermLow && s.anyHot 116 s0 s1 h)) ∧
      bits (u.reg rDeputyTemp) 9 0 = min 1023 s0 ∧ bits (u.reg rDeputyTemp) 29 20 = min 1023 h ∧
      u.dev = s.dev ∧ u.dep.safe = s.dep.safe ∧ u.dep.cause = s.dep.cause ∧ u.mem = s.mem

/-- RELEASE with the key and a good CRC releases the outputs where R480 admits it and answers REFUSED (3) otherwise, as it does
while PERST_N is low after a fall, which is the model's choice (log entry 62); a wrong key answers BAD_ARG (4) and a wrong CRC
BAD_CRC (0xFE), both without releasing (R480, R495, R496). -/
def Obligations.ReleaseNeedsKeyAndConditions : Prop :=
  ∀ (s : State) (seq : Byte) (arg crc : BitVec 16) (low : Bool),
    (spiCrcOk 0x10 seq 0x6C3D crc = true → s.releaseOk = true → s.sys.perstLow = false ∨ low = false →
      ∃ u, exec (.release seq 0x6C3D ⟨crc, low⟩) s = .next u ∧ u.dep.safe = false ∧ (u.reg rDeputyEvents).getLsbD 3 = true ∧
        u.dep.irq = true ∧ u.sys = { s.sys with perstLow := false } ∧ u.dev = s.dev ∧ u.mem = s.mem ∧ u.tick = s.tick) ∧
    (spiCrcOk 0x10 seq 0x6C3D crc = true → s.releaseOk = false ∨ (s.sys.perstLow = true ∧ low = true) →
      ∃ u bs, exec (.release seq 0x6C3D ⟨crc, low⟩) s = .next u ∧ u.out = s.out ++ [.spi ([seq, 3] ++ bs)] ∧ u.dep = s.dep) ∧
    (spiCrcOk 0x10 seq arg crc = true → arg ≠ 0x6C3D →
      ∃ u bs, exec (.release seq arg ⟨crc, low⟩) s = .next u ∧ u.out = s.out ++ [.spi ([seq, 4] ++ bs)] ∧ u.dep = s.dep) ∧
    (spiCrcOk 0x10 seq arg crc = false →
      ∃ u bs, exec (.release seq arg ⟨crc, low⟩) s = .next u ∧ u.out = s.out ++ [.spi ([seq, 0xFE] ++ bs)] ∧ u.dep = s.dep)

/-- The other frames of the SPI port answer SEQ, RESULT and their payload: STATUS the status word, the state and the time of
the safe state; VERDICT the last verdict; VERDICT_AT the newest of the last 16 whose TICK matches, else NOT_FOUND with zeros;
ECHO its argument. STATUS and VERDICT release DS_IRQ_N; an abandoned frame has no effect (R494, R495, R497). -/
def Sys2Proof.Statements.SpiFramesAnswer : Prop :=
  ∀ (s : State) (seq : Byte) (arg crc : BitVec 16),
    (spiCrcOk 0x01 seq arg crc = true →
      ∃ u cs, exec (.status seq arg crc) s = .next u ∧ u.dep = { s.dep with irq := false } ∧
        u.out = s.out ++ [.spi ([seq, 0] ++ (leBytes 4 (s.viewDeputy rDeputyStatus).toNat ++ leBytes 1 s.dev.code ++
          [0, 0, 0] ++ (leBytes 4 (s.reg rDeputySafeTimeLo).toNat ++ leBytes 4 (s.reg rDeputySafeTimeHi).toNat)) ++ cs)] ∧
        cs.length = 2) ∧
    (spiCrcOk 0x02 seq arg crc = true →
      ∃ u cs, exec (.verdict seq arg crc) s = .next u ∧ u.dep = { s.dep with irq := false } ∧
        u.out = s.out ++ [.spi ([seq, 0] ++ s.dep.shown ++ cs)] ∧ cs.length = 2) ∧
    (∀ v, spiCrcOk 0x03 seq arg crc = true → (s.dep.verdicts.find? fun v => fieldU v 0 2 == arg.toNat) = some v →
      ∃ u cs, exec (.verdictAt seq arg crc) s = .next u ∧ u.dep = s.dep ∧
        u.out = s.out ++ [.spi ([seq, 0] ++ v ++ cs)] ∧ cs.length = 2) ∧
    (spiCrcOk 0x03 seq arg crc = true → (s.dep.verdicts.find? fun v => fieldU v 0 2 == arg.toNat) = none →
      ∃ u cs, exec (.verdictAt seq arg crc) s = .next u ∧ u.dep = s.dep ∧
        u.out = s.out ++ [.spi ([seq, 2] ++ List.replicate 32 0 ++ cs)] ∧ cs.length = 2) ∧
    (spiCrcOk 0x20 seq arg crc = true →
      ∃ u cs, exec (.echo seq arg crc) s = .next u ∧ u.dep = s.dep ∧
        u.out = s.out ++ [.spi ([seq, 0] ++ leBytes 2 arg.toNat ++ cs)] ∧ cs.length = 2) ∧
    exec .spiAbandon s = .next s

/-- A frame with a CMD that R495 does not list is answered BAD_CMD with its CRC good, sets SPI_ERR and leaves the Deputy as
it was (R494, R496). -/
def Sys2Proof.Statements.UnknownSpiFrameIsRefused : Prop :=
  ∀ (s : State) (cmd seq : Byte) (arg crc : BitVec 16), cmd ∉ spiCommands → spiCrcOk cmd seq arg crc = true →
    ∃ u cs, exec (.badCmd cmd seq arg crc) s = .next u ∧ u.out = s.out ++ [.spi ([seq, 1] ++ cs)] ∧ cs.length = 2 ∧
      (u.reg rDeputyEvents).getLsbD 9 = true ∧
      bits (u.reg rDeputySpiCount) 31 16 = min 65535 (bits (s.reg rDeputySpiCount) 31 16 + 1) ∧ u.dep = s.dep ∧
      u.dev = s.dev

/-- The frames of the SPI port (R494 to R497). -/
def Obligations.SpiPortAnswers : Prop :=
  Statements.SpiFramesAnswer ∧ Statements.UnknownSpiFrameIsRefused


/-! ### Markers (R18, R428 to R431) -/

/-- MARK on a port that carries traffic, in RUNNING with the master as source: while T_0 is awaited a marker whose boundary
lies before T0 is ignored, whatever its tick number, and so is one of the next tick's number at or after T0 + 4P; else a
marker with another tick number and one outside the window set their event and change no boundary; one that settles T_0 and
one in the window put the expected boundary where it names it, and the latter gives the slew (R18, R19, R429, R430). That a
late one is ignored without an event is the model's choice (log entry 111). -/
def Sys2Proof.Statements.MarkMovesTheBoundary : Prop :=
  ∀ (s : State) (port tickLo remain arrival : Nat), port < 6 → s.dev = .running → s.src = 2 → s.portOpen port = true →
    (s.tick.awaitT0 = true → arrival + remain < s.tick.t0 →
      exec (.mark port tickLo remain arrival) s = .next (s.advance arrival)) ∧
    (tickLo % 65536 = s.tick.next % 65536 → s.tick.awaitT0 = true → s.tick.t0 + 4 * s.period ≤ arrival + remain →
      exec (.mark port tickLo remain arrival) s = .next (s.advance arrival)) ∧
    (tickLo % 65536 ≠ s.tick.next % 65536 → (s.tick.awaitT0 = true → s.tick.t0 ≤ arrival + remain) →
      exec (.mark port tickLo remain arrival) s = .next (((s.advance arrival).event rKlinkEvents 5).irq 5)) ∧
    (tickLo % 65536 = s.tick.next % 65536 → s.tick.awaitT0 = true → s.tick.t0 ≤ arrival + remain →
      arrival + remain < s.tick.t0 + 4 * s.period →
      ∃ u, exec (.mark port tickLo remain arrival) s = .next u ∧ u.tick.awaitT0 = false ∧
        u.tick.expect = arrival + remain ∧ u.tick.seenLast = true ∧ u.tick.next = s.tick.next ∧ u.dev = s.dev ∧
        u.regs = s.regs) ∧
    (tickLo % 65536 = s.tick.next % 65536 → s.tick.awaitT0 = false → s.tick.expect ≤ arrival + remain + s.tol →
      arrival + remain < s.tick.expect + s.tol →
      ∃ u, exec (.mark port tickLo remain arrival) s = .next u ∧ u.tick.expect = arrival + remain ∧ u.tick.seen = true ∧
        u.tick.slew = s.tick.slew + (s.tick.expect : Int) - (arrival + remain : Nat) ∧ u.tick.num = s.tick.num ∧
        u.tick.next = s.tick.next ∧
        bits (u.reg rKlinkMark) 15 0 = unsignedOf 16 (((arrival + remain : Nat) : Int) - s.tick.expect) ∧
        u.dev = s.dev) ∧
    (tickLo % 65536 = s.tick.next % 65536 → s.tick.awaitT0 = false →
      (arrival + remain + s.tol < s.tick.expect ∨ s.tick.expect + s.tol ≤ arrival + remain) →
      exec (.mark port tickLo remain arrival) s = .next (((s.advance arrival).event rKlinkEvents 4).irq 5))

/-- MARKER_SEND on the master: LEAD_US before the expected boundary one marker leaves on every open port of the tree, with
the low bits of the next tick's number and what remains less the wire delay; nothing else changes (R428, R429). -/
def Sys2Proof.Statements.MasterSendsMarkers : Prop :=
  ∀ (s : State) (t : Nat) (l : LinksCfg), s.dev = .running → s.image.bind (·.links) = some l → s.isMaster = true →
    bit (s.reg rTickCtrl) 5 = true → s.src < 2 → s.tick.awaitT0 = false → t + l.leadUs * 1000 = s.tick.expect →
    exec (.markerSend t) s = .next { s.advance t with
      out := s.out ++ (s.treePorts.filter fun p => s.portOpen p).map fun p =>
        Output.control p 5 [s.tick.next % 65536, unsignedOf 24 ((s.tick.expect : Int) - t - (s.port p).wire)] }

/-- Markers (R428 to R430): what MARK and MARKER_SEND do. -/
def Obligations.MarkersSetTheBoundary : Prop :=
  Statements.MarkMovesTheBoundary ∧ Statements.MasterSendsMarkers

/-! ### Ingest and the epoch commit (R66 to R112) -/

namespace Sys2Proof.Machine

/-- The command of an item's TYPE (R82). -/
def itemCommand (stream arrival : Nat) (item : List Byte) : Instr :=
  match fieldU item 0 1 with
  | 1 => .tile stream arrival item
  | 2 => .dir stream arrival item
  | 3 => .agent stream arrival item
  | 5 => .ego stream arrival item
  | 6 => .route stream arrival item
  | 7 => .urgent stream arrival item
  | _ => .malformed stream arrival item

/-- The payload of an item (R81). -/
def itemPayload (item : List Byte) : List Byte := item.drop 64

/-- An item accepted on its stream (R85, R87, R110): it leaves the stream's arrived items, of which `rest` stay; the stream's
sequence and counts, the target's stamp, and the item staged; of an URGENT one the delta held, and its AGENT copy staged where
its stamp is not below the agent's own. -/
structure ItemTaken (s u : State) (stream arrival : Nat) (item : List Byte) (rest : List (Nat × Nat × List Byte))
    (late : Bool) : Prop where
  entry : u.world.streams.getD stream Stream.idle =
    { s.world.streams.getD stream Stream.idle with
      inbox := rest
      lastSeq := some (decodeHead item).seq
      acc := (s.world.streams.getD stream Stream.idle).acc + 1
      late := (s.world.streams.getD stream Stream.idle).late + bnat late }
  stamp : u.world.stampOf (decodeHead item).targetOf = some (decodeHead item).stamp
  staged : (decodeHead item).type ≠ 7 → u.world.urgents = s.world.urgents ∧
    u.world.staged = s.world.staged ++ [⟨stream, (decodeHead item).stamp, arrival, late, false, (decodeHead item).length,
      itemMatter (decodeHead item) s.nSamp (itemPayload item)⟩]
  urgent : (decodeHead item).type = 7 →
    u.world.urgents = s.world.urgents ++ [⟨(decodeHead item).target, (decodeHead item).flags == 1,
      itemModes (decodeHead item) s.nSamp (itemPayload item), (decodeHead item).stamp, arrival, stream, late⟩] ∧
    u.world.staged = s.world.staged ++ (if s.copyStaged (decodeHead item) then
      [⟨stream, (decodeHead item).stamp, arrival, false, true, (decodeHead item).length,
        .agent (decodeHead item).target (itemModes (decodeHead item) s.nSamp (itemPayload item))⟩] else [])

end Sys2Proof.Machine

/-- The next of the arrived items, the oldest and at equal arrival that of the stream of lowest index, on a stream with nothing
held, of any TYPE, taken up in RUNNING or HOLD: it is accepted where it
passes the checks of R83 and staging has room; a rejection counts, is recorded and leaves staging as it was; one that cannot
be judged yet or finds no room is held. A TYPE that R82 does not list is malformed, and the rest of its chain is discarded
(R82 to R89, R110; that an item which cannot be judged yet is held is the model's choice, log entry 35). -/
def Sys2Proof.Statements.ItemsAreJudged : Prop :=
  ∀ (s : State) (stream arrival chain : Nat) (item : List Byte) (rest : List (Nat × Nat × List Byte)), stream < 128 →
    s.dev = .running ∨ s.dev = .hold →
    (s.world.streams.getD stream Stream.idle).inbox = (arrival, chain, item) :: rest →
    s.world.isNext stream arrival item = true → (s.world.streams.getD stream Stream.idle).held = [] →
    ∃ u, exec (itemCommand stream arrival item) s = .next u ∧ u.mem = s.mem ∧ u.tick = s.tick ∧ u.dev = s.dev ∧
      u.world.epoch = s.world.epoch ∧
      (∀ late, s.checkItem stream arrival (decodeHead item) = .take late → s.itemNeeds (decodeHead item) ≤ s.stageFree →
        ItemTaken s u stream arrival item rest late) ∧
      (∀ late, s.checkItem stream arrival (decodeHead item) = .take late → s.stageFree < s.itemNeeds (decodeHead item) →
        u.world.streams.getD stream Stream.idle =
          { s.world.streams.getD stream Stream.idle with inbox := rest, held := [(arrival, chain, item)], full := true } ∧
          u.world.staged = s.world.staged ∧ u.world.urgents = s.world.urgents ∧ (u.reg rWorldEvents).getLsbD 5 = true) ∧
      (s.checkItem stream arrival (decodeHead item) = .wait →
        u.world.streams.getD stream Stream.idle =
          { s.world.streams.getD stream Stream.idle with inbox := rest, held := [(arrival, chain, item)] } ∧
          u.world.staged = s.world.staged ∧ u.world.urgents = s.world.urgents) ∧
      (∀ code, s.checkItem stream arrival (decodeHead item) = .reject code →
        u.world.staged = s.world.staged ∧ u.world.urgents = s.world.urgents ∧ u.world.stamps = s.world.stamps ∧
          u.world.streams.getD stream Stream.idle = (fun c => if code = 6 then Stream.skipChain c chain else c)
            { s.world.streams.getD stream Stream.idle with
              inbox := rest
              rej := (s.world.streams.getD stream Stream.idle).rej + 1
              late := (s.world.streams.getD stream Stream.idle).late + bnat (code == 3) } ∧
          u.reg rWorldRejLast = packFields [(0, stream), (8, code), (16, (decodeHead item).type)] ∧
          (u.reg rWorldEvents).getLsbD 2 = true) ∧
      (s.streamCfg stream ≠ none → fieldU item 0 1 ∉ [1, 2, 3, 5, 6, 7] →
        (u.world.streams.getD stream Stream.idle).skip = some chain ∧
          ∀ i ∈ (u.world.streams.getD stream Stream.idle).inbox, i.2.1 ≠ chain)

/-- An item behind a held one of its stream is held after it, unjudged; an item command that does not name the next of the arrived
items, or comes outside RUNNING and HOLD, changes nothing (R80, R86, R89, R395; that such a command changes nothing is the model's
choice, log entry 36). -/
def Sys2Proof.Statements.ItemsKeepTheirOrder : Prop :=
  ∀ (s : State) (stream arrival : Nat) (item : List Byte), stream < 128 →
    (∀ chain rest, s.dev = .running ∨ s.dev = .hold →
      (s.world.streams.getD stream Stream.idle).inbox = (arrival, chain, item) :: rest →
      s.world.isNext stream arrival item = true → (s.world.streams.getD stream Stream.idle).held ≠ [] →
      ∃ u, exec (itemCommand stream arrival item) s = .next u ∧
        u.world.streams.getD stream Stream.idle =
          { s.world.streams.getD stream Stream.idle with
            inbox := rest, held := (s.world.streams.getD stream Stream.idle).held ++ [(arrival, chain, item)] } ∧
        u.world.staged = s.world.staged ∧ u.world.urgents = s.world.urgents ∧ u.world.stamps = s.world.stamps ∧
        u.regs = s.regs ∧ u.mem = s.mem) ∧
    ((s.dev ≠ .running ∧ s.dev ≠ .hold) ∨ s.world.isNext stream arrival item = false →
      exec (itemCommand stream arrival item) s = .next s)

/-- Items of a stream (R80 to R89, R110): what each leaves, and their order. -/
def Obligations.ItemsAreCheckedAndStaged : Prop := Statements.ItemsAreJudged ∧ Statements.ItemsKeepTheirOrder

/-- The staged items that arrived before the cut of the tick's commit, in order of arrival, then of stream (R86, R104). -/
def Sys2Proof.Machine.State.dueItems (s : Sys2Proof.Machine.State) : List Sys2Proof.Machine.Staged :=
  sortBy (fun a b => decide (a.arrival < b.arrival) || (a.arrival == b.arrival && decide (a.stream ≤ b.stream)))
    (s.world.staged.filter fun q => decide (q.arrival < s.tick.tk + s.cutC))

namespace Sys2Proof.Machine

/-- What an epoch commit leaves of the world the moment it begins, whatever of its work has to wait: it is busy from T_j + C on, the
items taken are no longer staged, and the tick number and the epoch stand (R104, R619). -/
structure CommitBegins (s u : State) (staged : List Staged) (leaving : Nat) : Prop where
  busy : u.world.busy = true ∧ u.world.begun = true ∧ u.world.began = s.tick.tk + s.cutC
  epoch : u.world.epoch = s.world.epoch
  staged : u.world.staged = staged
  leaving : u.world.leaving = leaving
  rest : u.tick = s.tick ∧ u.dev = s.dev

/-- The spans of DRAM that the commit of `items` reads or writes, once it has begun. -/
def State.spansOfCommit (s : State) (t : Nat) (met : CommitMet) (items : List Staged) : List (Nat × Nat) :=
  s.dies.flatMap fun d => ((s.advance t).beginCommit met).commitSpans d items

end Sys2Proof.Machine

/-- EPOCH_COMMIT with one staged item, which arrived before the cut and is within the caps: the commit begins and the item is
applied, its directory entry written where it names a tile inside the directory, and no byte of DRAM outside what the item
stores changes; items that arrived later stay staged. A TILE's cells stand in its slot of the tile store of every die. Where an
access of the commit waits for the front of an initialisation it is in progress all the same, and only the work on DRAM and the
slices is held, with INIT_STALL (R68, R91, R100, R102, R104, R107, R359, R619). -/
def Sys2Proof.Statements.CommitAppliesTheItem : Prop :=
  ∀ (s : State) (t : Nat) (met : CommitMet) (it : Staged)
    (later : List Staged), s.dev = .running → s.tick.live = true → s.world.begun = false → s.world.busy = false →
    (∀ d ∈ s.dies, (s.die d).power = 2) →
    s.tick.tk + s.cutC ≤ t → s.world.staged = it :: later → it.arrival < s.tick.tk + s.cutC →
    (∀ q ∈ later, s.tick.tk + s.cutC ≤ q.arrival) → (it.isTile = true → 1 ≤ s.img (·.world.tileCap)) →
    (it.isAgent = true → it.size - 64 ≤ s.img (·.world.agentCapBytes)) →
    ∃ u, exec (.epochCommit t met.d0 met.d1 met.crcBad) s = .next u ∧ CommitBegins s u later it.size ∧ (it.late = true → u.plan.late = true) ∧
      (∀ e, it.matter = .ego e → u.world.ego = some e ∧ u.world.egoNew = true ∧ u.world.route = s.world.route ∧
        u.world.modes = s.world.modes ∧ ∀ a, a < 0x1000000000 → memByte u.mem a = memByte s.mem a) ∧
      (∀ p, it.matter = .route p → u.world.route = p ∧ u.world.ego = s.world.ego ∧ u.world.modes = s.world.modes ∧
        ∀ a, a < 0x1000000000 → memByte u.mem a = memByte s.mem a) ∧
      (∀ n m, it.matter = .agent n m → u.world.modes = replaceAgent s.world.modes n m ∧ u.world.ego = s.world.ego ∧
        u.world.route = s.world.route ∧ ∀ a, a < 0x1000000000 → memByte u.mem a = memByte s.mem a) ∧
      (s.stalled (s.spansOfCommit t met (if it.isTile then [it] else [])) ≠ [] →
        u.world.held = some ⟨if it.isTile then [it] else [], met⟩ ∧ u.mem = s.mem ∧
        ∃ d, (u.reg (rDmcEvents d)).getLsbD 3 = true) ∧
      (s.stalled (s.spansOfCommit t met (if it.isTile then [it] else [])) = [] →
      u.world.held = none ∧ u.world.fresh = false ∧
      (∀ slot tx ty valid k, it.matter = .dir slot tx ty valid → s.dirIndex tx ty = some k →
        (∀ d ∈ s.dies, s.dirBase + 8 * k + 8 ≤ s.usable d → ∀ i, i < 8 →
          memByte u.mem (dramBase d + s.dirBase + 8 * k + i) = (leBytes 8 (encodeDirEntry slot valid)).getD i 0) ∧
          ∀ a, a < 0x1000000000 → (∀ d : Die, a < dramBase d + (s.dirBase + 8 * k) ∨ dramBase d + (s.dirBase + 8 * k) + 8 ≤ a) →
            memByte u.mem a = memByte s.mem a) ∧
      (∀ slot tx ty cells k, it.matter = .tile slot tx ty cells → s.dirIndex tx ty = some k →
        (∀ d ∈ s.dies, s.dirBase + 8 * k + 8 ≤ s.usable d → ∀ i, i < 8 →
          memByte u.mem (dramBase d + s.dirBase + 8 * k + i) = (leBytes 8 (encodeDirEntry slot true)).getD i 0) ∧
        (cells.length ≤ 4096 → ∀ d ∈ s.dies, s.storeBase + 4096 * slot + cells.length ≤ s.usable d → ∀ i, i < cells.length →
          (∀ e : Die, dramBase d + (s.storeBase + 4096 * slot) + i < dramBase e + (s.dirBase + 8 * k) ∨
            dramBase e + (s.dirBase + 8 * k) + 8 ≤ dramBase d + (s.storeBase + 4096 * slot) + i) →
          memByte u.mem (dramBase d + (s.storeBase + 4096 * slot) + i) = cells.getD i 0) ∧
          ∀ a, a < 0x1000000000 → (∀ d : Die, a < dramBase d + (s.dirBase + 8 * k) ∨ dramBase d + (s.dirBase + 8 * k) + 8 ≤ a) →
            (∀ d : Die, a < dramBase d + (s.storeBase + 4096 * slot) ∨
              dramBase d + (s.storeBase + 4096 * slot) + cells.length ≤ a) →
            memByte u.mem a = memByte s.mem a))

/-- EPOCH_COMMIT with any number of staged items: of those that arrived before the cut, in order of arrival, it takes the ones
the caps admit and applies them one after the other; an item beyond a cap stays staged, late unless it is the copy of an
URGENT item, and sets WORLD.EVENTS bit 1; what arrived later stays as it is. The corrected errors that its reads met count at each
die in service (R86, R102, R104, R107, R110, R358, R619). -/
def Sys2Proof.Statements.CommitTakesTheDueItems : Prop :=
  ∀ (s : State) (t : Nat) (met : CommitMet) (taken kept : List Staged),
    s.dev = .running → s.tick.live = true → s.world.begun = false → s.world.busy = false → s.tick.tk + s.cutC ≤ t →
    (∀ d ∈ s.dies, (s.die d).power = 2) →
    selectStaged (s.img (·.world.tileCap)) (s.img (·.world.agentCapBytes)) s.dueItems 0 0 false false = (taken, kept) →
    s.stalled (s.spansOfCommit t met (taken.filter Staged.isTile)) = [] →
    ∃ u, exec (.epochCommit t met.d0 met.d1 met.crcBad) s = .next u ∧
      CommitBegins s u (kept.map (fun (q : Staged) => { q with late := !q.copy }) ++
        s.world.staged.filter (fun q => !decide (q.arrival < s.tick.tk + s.cutC))) ((taken.map (·.size)).foldl (· + ·) 0) ∧
      u.world.held = none ∧ u.world.fresh = false ∧ (kept ≠ [] → (u.reg rWorldEvents).getLsbD 1 = true) ∧
      u.plan.late = (s.plan.late || taken.any (·.late)) ∧
      u.world.stale = (s.world.stale || (s.hasS1 && s.d1.power != 2)) ∧
      u.reg (rDmcEccCe .s0) = satAddWord (s.reg (rDmcEccCe .s0)) met.d0.ce ∧
      (.s1 ∈ s.dies → u.reg (rDmcEccCe .s1) = satAddWord (s.reg (rDmcEccCe .s1)) met.d1.ce) ∧
      u.world.modes = (taken.foldl (fun q it => q.applyItem it) s).world.modes ∧
      u.world.ego = (taken.foldl (fun q it => q.applyItem it) s).world.ego ∧
      u.world.route = (taken.foldl (fun q it => q.applyItem it) s).world.route ∧
      (∀ a, a < 0x1000000000 → memByte u.mem a = memByte (taken.foldl (fun q it => q.applyItem it) s).mem a)

/-- COMMIT_END: the epoch advances here and in the Deputy, EGO_AGE restarts or advances, the Deputy takes the committed ego
state and agents, the staging space returns, and a stale ego makes the tick INVALID (R89, R101, R103, R454, R455, R619; that the
stale ego is found, and the staging space returns, at this end is the model's choice, log entry 37). A commit whose work is held
does not end. -/
def Sys2Proof.Statements.CommitEndAdvancesTheEpoch : Prop :=
  ∀ (s : State) (t age : Nat), s.world.busy = true →
    (s.world.held ≠ none → exec (.commitEnd t) s = .next s) ∧ (s.world.held = none →
    age = (if s.world.egoNew then 0 else if s.world.egoAge = 255 then 255 else min 254 (s.world.egoAge + 1)) →
    ∃ u, exec (.commitEnd t) s = .next u ∧ u.world.busy = false ∧ u.world.epoch = (s.world.epoch + 1) % 4294967296 ∧
      u.world.egoAge = age ∧ u.world.leaving = 0 ∧ u.world.ego = s.world.ego ∧ u.world.modes = s.world.modes ∧
      u.dep.epoch = (s.dep.epoch + 1) % 4294967296 ∧ u.dep.ego = s.world.ego ∧
      u.dep.modes = s.depRecords s.world.modes ∧ u.mem = s.mem ∧ u.tick = s.tick ∧ u.dev = s.dev ∧
      (s.tick.live = true → s.img (·.world.egoAgeLimit) ≤ age → u.plan.cause = some ((s.advance t).causeWith 6)) ∧
      (s.tick.live = false ∨ age < s.img (·.world.egoAgeLimit) → u.plan.cause = s.plan.cause))

/-- The commit of a tick's world (R104): what EPOCH_COMMIT applies and what COMMIT_END settles. -/
def Obligations.EpochCommitTakesStagedItems : Prop :=
  Statements.CommitAppliesTheItem ∧ Statements.CommitTakesTheDueItems ∧ Statements.CommitEndAdvancesTheEpoch

/-- S1_SYNC begins the copy where R71 admits it and does nothing elsewhere; SYNC_DONE ends it: every byte of the directory
and of the tile store that lies in the usable DRAM of both dies stands on S1 as on S0, no other byte changes, STALE is
clear. Until the front of an initialisation has passed what it copies the copy goes on, with INIT_STALL (R71, R359). That S1_SYNC
does nothing while a copy runs is log entry 117. -/
def Obligations.WorldIsCopiedToS1 : Prop :=
  ∀ s : State,
    (s.host.d3 = false → s.syncAllowed = true →
      exec .s1Sync s = .next { s with world := { s.world with syncing := true } }) ∧
    (s.syncAllowed = false → exec .s1Sync s = .next s) ∧
    (s.world.syncing = true →
      s.stalled ((s.syncSpans (s.usable .s0)).flatMap fun p => [p, (dramBase .s1 + p.1, p.2)]) ≠ [] →
      exec .syncDone s = .next (s.noteStalls
        (s.stalled ((s.syncSpans (s.usable .s0)).flatMap fun p => [p, (dramBase .s1 + p.1, p.2)])))) ∧
    (s.world.syncing = true →
      s.stalled ((s.syncSpans (s.usable .s0)).flatMap fun p => [p, (dramBase .s1 + p.1, p.2)]) = [] →
      ∃ u, exec .syncDone s = .next u ∧ u.world = { s.world with syncing := false, stale := false } ∧
        (u.reg rWorldEvents).getLsbD 6 = true ∧ u.dev = s.dev ∧
        (∀ p ∈ s.storeSpans, ∀ a, p.1 ≤ a → a < p.1 + p.2 → a < min (s.usable .s0) (s.usable .s1) → a < 0x800000000 →
          memByte u.mem (0x800000000 + a) = memByte s.mem a) ∧
        ∀ a, (∀ p ∈ s.storeSpans, a < 0x800000000 + p.1 ∨ 0x800000000 + p.1 + p.2 ≤ a) →
          memByte u.mem a = memByte s.mem a)

/-! ### Tasks and Overman (R323 to R336) -/

namespace Sys2Proof.Machine

/-- The state with a task's buffer allocated (R332). -/
def State.withBuffer (s : State) (d : Die) (t : Nat) : State :=
  s.setDie d { s.die d with ovm := (s.die d).ovm.alloc (s.engCfg d) ((s.engCfg d).task t) }

/-- Whether every reference of a task's descriptor names an allocated buffer (R334): a policy-array descriptor holds none. -/
def State.refsResolve (s : State) (d : Die) (cls t : Nat) : Bool :=
  let desc := ((s.engCfg d).task t).desc
  let b := s.load desc 32
  match cls with
  | 0 => true
  | 1 => match Config.parseReDesc (s.load desc 64) with
    | some x => (s.resolveRe d x).isSome
    | none => true
  | 2 => (s.resolveSel d (decodeSelDesc (s.load desc 64))).isSome
  | 3 => (Config.parseHeapDesc (s.load desc 64)).isNone || (s.heapDesc d t).isSome
  | 4 => (s.resolve d (fieldU b 0 8)).isSome && (s.resolveField d (fieldU b 8 8)).isSome
  | _ => (s.resolveDesc d b).isSome

/-- A task failed at its start with a status (R329): the engine is free, the error recorded. -/
structure TaskFails (u : State) (d : Die) (cls e t status : Nat) : Prop where
  free : (u.die d).ovm.on cls e = none
  event : (u.reg (rOvmEvents d)).getLsbD 2 = true
  err : u.reg (rOvmErrTask d) = packFields [(0, t % 16384), (16, status % 16), (20, cls % 8)]

end Sys2Proof.Machine

/-- TASK_DISPATCH: an idle engine in service takes the first entry of its class list that it may run, where no lower idle
engine takes it, the policy array may start it, no task of lower index is served pages first and nothing that its start reads
waits for the front of an initialisation; the entry leaves the list. With its buffer allocated, where its descriptor lies in
the map and every reference of it names an allocated buffer the engine holds the task; a descriptor that does not lie in the
map fails it with that status, a reference that names none with BAD_REF (R173, R326, R329, R332 to R334, R342, R359). -/
def Sys2Proof.Statements.IdleEngineTakesATask : Prop :=
  ∀ (s : State) (d : Die) (cls e t fault ce : Nat), cls < 6 → e < engineCount cls → s.tick.live = true →
    s.tick.stopped = false → (s.die d).power = 2 → s.dies.contains d = true → s.engineIdle d cls e = true →
      (s.pickTask d cls e).1 = some t →
    s.outranked d cls e t = false → s.heldBack d cls t = false → s.allocYields d t = false →
    s.stalled (s.startSpans d cls t) = [] →
    ∃ u, exec (.taskDispatch d cls ⟨e, fault, ce⟩) s = .next u ∧ u.tick = s.tick ∧ u.dev = s.dev ∧
      (cls ≠ 4 → (u.die d).ovm.lists.getD cls [] = ((s.die d).ovm.lists.getD cls []).erase t) ∧
      (s.spanStatus ((s.engCfg d).task t).desc (if 4 ≤ cls then 32 else 64) = 0 →
        ((s.withBuffer d t).refsResolve d cls t = true →
          ∃ r, (u.die d).ovm.on cls e = some r ∧ r.task = t ∧ r.ended = false) ∧
        ((s.withBuffer d t).refsResolve d cls t = false →
          TaskFails u d cls e t 1 ∧ (u.reg (rOvmEvents d)).getLsbD 3 = true)) ∧
      (s.spanStatus ((s.engCfg d).task t).desc (if 4 ≤ cls then 32 else 64) ≠ 0 →
        TaskFails u d cls e t (s.spanStatus ((s.engCfg d).task t).desc (if 4 ≤ cls then 32 else 64)))

/-- READY_LIST_ENTRY: the first entry that waits for room enters its class list as soon as it has room (R328). -/
def Sys2Proof.Statements.WaitingEntryEntersItsList : Prop :=
  ∀ (s : State) (d : Die) (cls t : Nat) (rest : List Nat), cls < 6 → (s.die d).ovm.waiting.getD cls [] = t :: rest →
    (s.die d).ovm.room cls = true →
    ∃ u, exec (.readyListEntry d cls) s = .next u ∧
      (u.die d).ovm.lists.getD cls [] = (s.die d).ovm.lists.getD cls [] ++ [t] ∧
      (u.die d).ovm.waiting.getD cls [] = rest ∧ (u.die d).ovm.done = (s.die d).ovm.done ∧ u.mem = s.mem ∧ u.dev = s.dev

/-- TASK_COMPLETE of an engine's task: DONE counts the task, and frees the engine or leaves it ended while an entry waits for
room; any other status frees the engine without a completion and is recorded (R327 to R329). The collector's merge of a
planning group, which first sends the final list (R436), has a statement of its own. -/
def Sys2Proof.Statements.TaskEnds : Prop :=
  ∀ (s : State) (d : Die) (t cls e status ce : Nat) (ports : List (Nat × List Nat)) (bad : List Nat) (r : Running), cls < 6 →
    e < engineCount cls → s.tick.live = true →
    s.dev = .running → s.tick.stopped = false → (s.die d).ovm.on cls e = some r → r.ended = false →
    s.workEnded d r status = true → (r.stage = 0 → s.mergeDesc d r = none) →
    (s.endStatus d r status = 0 →
      ∃ u, exec (.taskComplete d t (.task cls e status ce ports bad)) s = .next u ∧ r.task ∈ (u.die d).ovm.done ∧
        u.reg (rOvmTasks d) = satAddWord (s.reg (rOvmTasks d)) 1 ∧
        (∀ q, (u.die d).ovm.on cls e = some q → q.ended = true) ∧ u.tick = s.tick ∧ u.dev = s.dev) ∧
    (s.endStatus d r status ≠ 0 →
      ∃ u, exec (.taskComplete d t (.task cls e status ce ports bad)) s = .next u ∧ (u.die d).ovm.on cls e = none ∧
        (u.die d).ovm.done = (s.die d).ovm.done ∧ (u.reg (rOvmEvents d)).getLsbD 2 = true ∧
        u.reg (rOvmErrTask d) =
          packFields [(0, r.task % 16384), (16, s.endStatus d r status % 16), (20, r.cls % 8)] ∧
        u.reg (rOvmTasks d) = s.reg (rOvmTasks d) ∧ u.tick = s.tick ∧ u.dev = s.dev)

/-- TASK_COMPLETE of the collector's merge: the final list that its keys name goes to every other node of the group first, and
while an operation of that is outstanding the engine keeps the task, which has not ended (R436; that its Select engine sends the
list and keeps the task meanwhile is read from the rule, log entry 115). -/
def Sys2Proof.Statements.MergeSendsTheFinalList : Prop :=
  ∀ (s : State) (d : Die) (t cls e status ce : Nat) (ports : List (Nat × List Nat)) (bad : List Nat) (r : Running)
    (x : SelDesc), cls < 6 → e < engineCount cls → s.tick.live = true → s.dev = .running → s.tick.stopped = false →
    (s.die d).ovm.on cls e = some r → r.ended = false → r.stage = 0 → s.workEnded d r status = true →
    s.endStatus d r status = 0 → s.mergeDesc d r = some x →
    (((s.advance t).taskMet d cls ce ports).mergeFinal r x).listOut d e = true →
    ∃ u, exec (.taskComplete d t (.task cls e status ce ports bad)) s = .next u ∧
      (∃ q, (u.die d).ovm.on cls e = some q ∧ q.task = r.task ∧ q.ended = false ∧ q.stage = 1) ∧
      (u.die d).ovm.done = (s.die d).ovm.done ∧
      (∃ o ∈ u.kl.ops, o.issuer = .list e) ∧ u.plan = s.plan ∧ u.tick = s.tick ∧ u.dev = s.dev

/-- TASK_COMPLETE of an operation of the second or third run of a flagged network, where the dies are in step, their arrays run
and its paged weights are readable: the die counts it, with the corrected errors met in its paged weights, and stands at the
next, or its run has ended; an uncorrectable error stops the network on both dies (R173, R181, R182, R186, R358, R359, R590). -/
def Sys2Proof.Statements.RerunOperationEnds : Prop :=
  ∀ (s : State) (d : Die) (t n die status ce dram : Nat) (bad : List Nat), s.tick.live = true → s.dev = .running → s.tick.rel = 2 →
    s.tick.stopped = false → s.dies.contains (Die.ofIdx die) = true → (s.die (Die.ofIdx die)).paBusy = true →
    (s.die (Die.ofIdx die)).paNet = n → 1 ≤ (s.die (Die.ofIdx die)).paRun →
    (∀ g ∈ s.dies, s.clocked g = true ∧ (s.die g).paOk = true ∧ (s.die g).paStopped = false ∧
      ((s.die g).paBusy = true → (s.die g).paRun ≠ 0 → (s.die (Die.ofIdx die)).paOp ≤ (s.die g).paOp)) →
    (∀ o, s.netOp n (s.die (Die.ofIdx die)).paOp = some o →
      s.stalled (s.weightSpans (Die.ofIdx die) (s.runHalf (Die.ofIdx die)) n (s.die (Die.ofIdx die)).paOp o) = []) →
    (status = 0 → ∃ u, exec (.taskComplete d t (.rerun n die status ce dram bad)) s = .next u ∧
      (u.die (Die.ofIdx die)).paOp = (s.die (Die.ofIdx die)).paOp + 1 ∧
      ((u.die (Die.ofIdx die)).paBusy = true ↔ (s.die (Die.ofIdx die)).paOp + 1 < (s.net n).ops.length) ∧
      (u.die (Die.ofIdx die)).paRun = (s.die (Die.ofIdx die)).paRun ∧
      u.reg (rPaOps (Die.ofIdx die)) = satAddWord (s.reg (rPaOps (Die.ofIdx die))) 1 ∧
      u.reg (rDmcEccCe (Die.ofIdx die)) = satAddWord (s.reg (rDmcEccCe (Die.ofIdx die))) dram ∧ u.plan = s.plan ∧
      u.tick = s.tick ∧ u.dev = s.dev) ∧
    (status ≠ 0 → ∃ u, exec (.taskComplete d t (.rerun n die status ce dram bad)) s = .next u ∧
      (∀ g ∈ s.dies, (u.die g).paBusy = false ∧ (u.die g).paStopped = true) ∧
      (status = 3 → (u.reg (rPaEvents (Die.ofIdx die))).getLsbD 4 = true) ∧
      (status = 19 → (u.reg (rPaEvents (Die.ofIdx die))).getLsbD 3 = true) ∧
      u.plan = s.plan ∧ u.tick = s.tick ∧ u.dev = s.dev)

/-- TASK_COMPLETE of the comparison of a flagged network whose second run has ended on every die, and of its third run: the
bytes that the second run left are compared bit for bit with those of the first; agreement settles the network on the die, a
difference counts and begins a third run. That settles it DEGRADED where it agrees with either, or agrees with neither, stops
the tick's work and writes the record INVALID where none is formed (R187 to R189). -/
def Sys2Proof.Statements.FlaggedNetworkIsSettled : Prop :=
  ∀ (s : State) (d : Die) (t n die : Nat), s.tick.live = true → s.dev = .running →
    (s.runEnded n 1 (Die.ofIdx die) = true →
      (s.netBytes n (Die.ofIdx die) = (s.die (Die.ofIdx die)).paFirst →
        ∃ u, exec (.taskComplete d t (.compare n die)) s = .next u ∧
          u.plan.votedNets / 2 ^ settledBit n (Die.ofIdx die) % 2 = 1 ∧ (u.die (Die.ofIdx die)).paRun = 0 ∧
          u.plan.degraded = s.plan.degraded ∧ u.mem = s.mem) ∧
      (s.netBytes n (Die.ofIdx die) ≠ (s.die (Die.ofIdx die)).paFirst →
        ∃ u, exec (.taskComplete d t (.compare n die)) s = .next u ∧ (u.die (Die.ofIdx die)).paRun = 2 ∧
          (u.die (Die.ofIdx die)).paSecond = s.netBytes n (Die.ofIdx die) ∧ (u.die (Die.ofIdx die)).paOp = 0 ∧
          (u.die (Die.ofIdx die)).paBusy = true ∧ (u.reg (rPaEvents (Die.ofIdx die))).getLsbD 0 = true ∧
          u.reg (rPaMismatch (Die.ofIdx die)) = satAddWord (s.reg (rPaMismatch (Die.ofIdx die))) 1 ∧ u.plan = s.plan ∧
          u.mem = s.mem)) ∧
    (s.runEnded n 2 (Die.ofIdx die) = true →
      (s.netBytes n (Die.ofIdx die) = (s.die (Die.ofIdx die)).paFirst ∨
          s.netBytes n (Die.ofIdx die) = (s.die (Die.ofIdx die)).paSecond →
        ∃ u, exec (.taskComplete d t (.third n die)) s = .next u ∧ u.plan.degraded = true ∧
          u.plan.votedNets / 2 ^ settledBit n (Die.ofIdx die) % 2 = 1 ∧ (u.die (Die.ofIdx die)).paRun = 0 ∧
          (u.reg (rPaEvents (Die.ofIdx die))).getLsbD 1 = true ∧ u.mem = s.mem) ∧
      (s.netBytes n (Die.ofIdx die) ≠ (s.die (Die.ofIdx die)).paFirst →
        s.netBytes n (Die.ofIdx die) ≠ (s.die (Die.ofIdx die)).paSecond →
        ∃ u, exec (.taskComplete d t (.third n die)) s = .next u ∧ u.tick.stopped = true ∧
          (u.reg (rPaEvents (Die.ofIdx die))).getLsbD 2 = true ∧ u.plan.record.isSome = true ∧
          (s.plan.record = none → u.plan.cause = some ((s.advance t).causeWith 7)) ∧
          (s.plan.record ≠ none → u.plan = s.plan) ∧ u.mem = s.mem))

/-- The mismatches held for the votes once what both dies have swept is compared and `found` is added (R274, R280, R281). -/
def Sys2Proof.Machine.State.heldWith (s : Sys2Proof.Machine.State) (found : List Sys2Proof.Machine.VoteItem) :
    List Sys2Proof.Machine.VoteItem :=
  s.plan.votesDue ++ s.twins.flatMap (fun p => s.blockMismatches p.1 p.2) ++ found

/-- TASK_COMPLETE of the final-clearance pass, which first compares what both dies have swept, of a comparison of sweep records,
of a vote, of the walk-down and of EMIT (R275 to R295, R458): what each leaves of the plan. The pass places the list, adds the
pairs that differ to the held mismatches, of which more than 16 make the tick INVALID, and writes the sample outputs of the
entries that no block ran; the comparison holds the slots whose pairs differ; a vote is settled by its third run, or fails and
makes the tick INVALID. On dies whose clocks do not run none of these but the record ends (R590). That the outputs and pairs of
the entries which no block ran are computed as the pass ends is the model's choice, log entries 90 and 114. -/
def Sys2Proof.Statements.SelectAndEmitEnd : Prop :=
  ∀ (s : State) (d : Die) (t : Nat), s.tick.live = true → s.dev = .running → s.tick.stopped = false →
    (s.clocked .s0 = false → ∀ what ∈ [Ending.pass, .sweepCompare, .walkDown],
      exec (.taskComplete d t what) s = .next (s.advance t)) ∧
    (5 ≤ s.tick.rel → s.plan.passed = false → (s.dies.all fun g => s.clocked g && s.phaseTasksDone g 4) = true →
      ∃ u, exec (.taskComplete d t .pass) s = .next u ∧ u.plan.passed = true ∧ u.plan.final = (s.advance t).passList ∧
        ((dropVoted (s.heldWith ((s.advance t).passMismatches))).length ≤ 16 →
          u.plan.votesDue = dropVoted (s.heldWith ((s.advance t).passMismatches)) ∧ u.plan.cause = s.plan.cause) ∧
        (16 < (dropVoted (s.heldWith ((s.advance t).passMismatches))).length →
          u.plan.votesDue = [] ∧ u.plan.cause = some ((s.advance t).causeWith 12)) ∧
        ((s.advance t).passMismatches ≠ [] ∨ s.twins.flatMap (fun p => s.blockMismatches p.1 p.2) ≠ [] →
          (u.reg (rHeapEvents .s0)).getLsbD 6 = true) ∧
        (∀ e ∈ u.plan.ended, e ∈ s.plan.ended ∧ ∀ p ∈ s.twins, e ≠ p.1 ∧ e ≠ p.2) ∧ u.plan.walked = s.plan.walked ∧
        u.plan.record = s.plan.record ∧ u.tick = s.tick ∧ u.mem = (s.advance t).writeOutputs.mem ∧
        ((∀ i id, placedId (s.advance t).finalList i = some id → ∃ q ∈ s.plan.passRecs, q.1 = 2 ∧ q.2.1 = i) →
          u.mem = s.mem)) ∧
    (s.profile = 3 → 3 ≤ s.tick.rel → s.tick.rel ≤ 5 → s.plan.passed = false → s.dies.all s.clocked = true →
      ∃ u, exec (.taskComplete d t .sweepCompare) s = .next u ∧
        u.plan.votesDue = s.plan.votesDue ++ s.twins.flatMap (fun p => s.blockMismatches p.1 p.2) ∧
        (∀ e ∈ u.plan.ended, e ∈ s.plan.ended ∧ ∀ p ∈ s.twins, e ≠ p.1 ∧ e ≠ p.2) ∧
        (s.twins.flatMap (fun p => s.blockMismatches p.1 p.2) ≠ [] → (u.reg (rHeapEvents .s0)).getLsbD 6 = true) ∧
        u.plan.cause = s.plan.cause ∧ u.tick = s.tick ∧ u.mem = s.mem) ∧
    (∀ id bad v, (s.plan.votesDue.find? fun v => v.id == id) = some v → s.plan.passed = true → s.plan.walked = false →
      (s.clocked .s0 = false → exec (.taskComplete d t (.vote id bad)) s = .next (s.advance t)) ∧
      (s.clocked .s0 = true → (((s.advance t).countRun .s0 ((s.advance t).thirdPair v)).thirdSide v bad).1 < 2 →
        ∃ u, exec (.taskComplete d t (.vote id bad)) s = .next u ∧ u.plan.votes = s.plan.votes + 1 ∧
          u.plan.degraded = true ∧ v ∉ u.plan.votesDue ∧ (u.reg (rHeapEvents .s0)).getLsbD 7 = true ∧ u.mem = s.mem) ∧
      (s.clocked .s0 = true → 2 ≤ (((s.advance t).countRun .s0 ((s.advance t).thirdPair v)).thirdSide v bad).1 →
        ∃ u, exec (.taskComplete d t (.vote id bad)) s = .next u ∧ u.plan.votes = s.plan.votes + 1 ∧
          u.plan.cause = some ((s.advance t).causeWith 13) ∧ v ∉ u.plan.votesDue ∧
          (u.reg (rHeapEvents .s0)).getLsbD 8 = true ∧ u.mem = s.mem)) ∧
    (s.plan.passed = true → s.plan.walked = false → s.plan.votesDue = [] → s.clocked .s0 = true →
      ∃ u, exec (.taskComplete d t .walkDown) s = .next u ∧ u.plan.walked = true ∧
        bits (u.reg (rHeapFcStatus .s0)) 12 11 = s.outcome ∧ u.plan.record = s.plan.record ∧
        u.plan.final = s.plan.final ∧ u.tick = s.tick ∧ u.mem = s.mem) ∧
    (6 ≤ s.tick.rel → s.plan.record = none →
      (s.plan.walked = true → s.plan.cause = none →
        ∃ u, exec (.taskComplete d t .emit) s = .next u ∧
          u.plan.record = some ((s.advance t).encodeRecord (s.advance t).validBody) ∧
          u.dep.check = some ((s.advance t).encodeRecord (s.advance t).validBody, (s.advance t).now) ∧
          u.plan.cause = none ∧ u.tick = s.tick ∧ u.mem = s.mem) ∧
      (∀ c, s.plan.cause = some c →
        ∃ u, exec (.taskComplete d t .emit) s = .next u ∧ u.plan.cause = some c ∧ u.plan.record.isSome = true ∧
          u.dep.check.isSome = true ∧ u.tick = s.tick ∧ u.mem = s.mem))

/-- Tasks on the engines (R325 to R334). -/
def Obligations.TasksAreDispatchedAndEnd : Prop :=
  Statements.IdleEngineTakesATask ∧ Statements.WaitingEntryEntersItsList ∧ Statements.TaskEnds ∧
    Statements.MergeSendsTheFinalList

/-- What else TASK_COMPLETE ends: the runs of flagged networks, the pass, the votes, the walk-down and the record (R186 to
R189, R275 to R295). -/
def Obligations.PlanWorkEnds : Prop :=
  Statements.RerunOperationEnds ∧ Statements.FlaggedNetworkIsSettled ∧ Statements.SelectAndEmitEnd

/-! ### Select (R232 to R256) -/

namespace Sys2Proof.Machine

/-- The bytes at a descriptor's DST. -/
def dstHolds (u : State) (x : SelDesc) (bs : List Byte) : Prop := ∀ i, i < bs.length → memByte u.mem (x.dst + i) = bs.getD i 0

/-- A single-bit error corrected in an operation's input (`fault` 1) is counted by the die, and without one none is (R353). -/
def MetCorrected (s u : State) (d : Die) (fault : Nat) : Prop :=
  u.reg (rGalEccCe d) = (if fault = 1 then satAddWord (s.reg (rGalEccCe d)) 1 else s.reg (rGalEccCe d))

end Sys2Proof.Machine

/-- MERIT, COMPACT and TOPK on a sound descriptor: DST holds the elements that R232, R238 and R243 to R250 give, the operation
ends DONE, and no byte of memory outside DST and RESULT changes, whether or not a single-bit error was corrected on the way,
which is counted (fault 1, R353); an uncorrectable error (fault 2) ends each of the four operations with STATUS 5 and leaves
every byte outside RESULT (R239 to R241). -/
def Sys2Proof.Statements.SelectOperationsComplete : Prop :=
  ∀ (s : State) (d : Die) (e op stall : Nat) (met : SelMet) (q : SelWork), e < 2 → selHeld s d e op = some q → selSound s d q.desc →
    (met.fault ≠ 2 →
    (op = 1 → ∃ u, exec (.merit d e stall met) s = .next u ∧ MetCorrected s u d met.fault ∧
      SelectDone s u d e q.desc (((List.range q.desc.count).map (s.meritElement q.desc)).countP Element.valid) ∧
      dstHolds u q.desc (((List.range q.desc.count).map (s.meritElement q.desc)).flatMap (encodeElement q.desc.outKey))) ∧
    (op = 2 → ∃ u, exec (.compact d e stall met) s = .next u ∧ MetCorrected s u d met.fault ∧
      SelectDone s u d e q.desc
        ((s.selInputs q.desc (s.selLists d q.desc)).filter fun x => x.id != invalidId && decide (q.desc.thresh < x.merit)).length ∧
      dstHolds u q.desc
        (((s.selInputs q.desc (s.selLists d q.desc)).filter fun x => x.id != invalidId && decide (q.desc.thresh < x.merit)).flatMap
          (encodeElement q.desc.outKey))) ∧
    (op = 3 → ∃ u, exec (.topk d e stall met) s = .next u ∧ MetCorrected s u d met.fault ∧
      SelectDone s u d e q.desc (topK q.desc.k q.desc.dedup (s.selInputs q.desc (s.selLists d q.desc))).valid ∧
      dstHolds u q.desc ((topK q.desc.k q.desc.dedup (s.selInputs q.desc (s.selLists d q.desc))).entries.flatMap
        (encodeElement q.desc.outKey)))) ∧
    (met.fault = 2 → ∀ c, (op = 1 ∧ c = Instr.merit d e stall met) ∨ (op = 2 ∧ c = Instr.compact d e stall met) ∨
        (op = 3 ∧ c = Instr.topk d e stall met) ∨ (op = 4 ∧ c = Instr.keyins d e stall met) →
      ∃ u, exec c s = .next u ∧ bits (u.reg (rSelEStatus d e)) 11 8 = 5 ∧ (∀ w ∈ (u.die d).sel, w.engine ≠ e) ∧
        (u.reg (rSelEvents d)).getLsbD 4 = true ∧
        ∀ a, a < q.desc.result ∨ q.desc.result + 32 ≤ a → memByte u.mem a = memByte s.mem a)

/-- A descriptor that fails a check of R239 is refused with its status by whichever operation it names, and no byte outside
RESULT changes. -/
def Sys2Proof.Statements.UnsoundDescriptorIsRefused : Prop :=
  ∀ (s : State) (d : Die) (e op stall : Nat) (met : SelMet) (q : SelWork), e < 2 → selHeld s d e op = some q →
    selCheck (inGallery d) s.node q.desc (s.selLists d q.desc) ≠ 0 →
    ∀ c, (op = 1 ∧ c = Instr.merit d e stall met) ∨ (op = 2 ∧ c = Instr.compact d e stall met) ∨
        (op = 3 ∧ c = Instr.topk d e stall met) ∨ (op = 4 ∧ c = Instr.keyins d e stall met) →
      ∃ u, exec c s = .next u ∧
        bits (u.reg (rSelEStatus d e)) 11 8 = selCheck (inGallery d) s.node q.desc (s.selLists d q.desc) ∧
        (∀ w ∈ (u.die d).sel, w.engine ≠ e) ∧ (u.reg (rSelEvents d)).getLsbD 3 = true ∧
        ∀ a, a < q.desc.result ∨ q.desc.result + 32 ≤ a → memByte u.mem a = memByte s.mem a

/-- KEYINS into a table on this node that it may write and that waits for no initialisation, on the die's one descriptor: every
valid input starts a chain, all chains end here, the operation ends DONE with their number as VALID, and no byte outside the
table and RESULT changes (R254). -/
def Sys2Proof.Statements.KeyinsChainsComplete : Prop :=
  ∀ (s : State) (d : Die) (e stall : Nat) (met : SelMet) (q : SelWork), e < 2 → met.fault ≠ 2 → (s.die d).sel = [q] → q.engine = e →
    q.started = false →
    q.err = 0 → q.desc.op = 4 → selCheck (inGallery d) s.node q.desc (s.selLists d q.desc) = 0 → nodeOf q.desc.dst = s.node →
    s.crossDown (some d) (localOf q.desc.dst) 8 = false →
    (∀ r, r < q.desc.k →
      s.writeStatus (localOf q.desc.dst + 8 * r) 8 = 0 ∧ s.stalls (localOf q.desc.dst + 8 * r) 8 = false) →
    (∀ o ∈ s.kl.ops, ∀ x r tab k, o.issuer ≠ .chain d e x r tab k) →
    ∃ u, exec (.keyins d e stall met) s = .next u ∧ MetCorrected s u d met.fault ∧ bits (u.reg (rSelEStatus d e)) 11 8 = 0 ∧
      u.reg (rSelEValid d e) = BitVec.ofNat 32 ((s.selInputs q.desc (s.selLists d q.desc)).countP Element.valid) ∧
      (u.die d).sel = [] ∧ u.kl.ops = s.kl.ops ∧
      ∀ a, a < localOf q.desc.dst ∨ localOf q.desc.dst + 8 * q.desc.k ≤ a →
        a < q.desc.result ∨ q.desc.result + 32 ≤ a → memByte u.mem a = memByte s.mem a

/-- Select operations (R232 to R254). -/
def Obligations.SelectOperations : Prop :=
  Statements.SelectOperationsComplete ∧ Statements.UnsoundDescriptorIsRefused ∧ Statements.KeyinsChainsComplete

/-- SW_GO and IHAUL_GO, with the descriptor registers that they use sound: in STOPPED an idle engine takes the software's
descriptor, once the front of initialisation has passed it, and an idle internal channel its chain; elsewhere only the status
tells of it (R237, R359, R391; that an engine whose clock does not run takes none is the model's choice, log entry 128). -/
def Obligations.SoftwareIssueInStopped : Prop :=
  ∀ (s : State) (d : Die), s.host.d3 = false →
    (∀ e a, e < 2 → s.accessCode (rSelSwGo d) = 0 → s.soundAt [rSelSwDescLo d, rSelSwDescHi d] = true →
      a = s.pair (rSelSwDescLo d) (rSelSwDescHi d) →
      (∀ x, s.dev = .stopped → s.selIdle d e = true → s.clocked d = true → s.stalls a 64 = false → s.mapped a 64 = true →
        x = decodeSelDesc (s.readSpan a 64) → 1 ≤ x.op → x.op ≤ 4 →
        ∃ u, exec (.swGo d e) s = .next u ∧ (u.die d).sel = (s.die d).sel ++ [⟨e, x, true, false, 0, 0, 0, []⟩] ∧
          u.mem = s.mem ∧ u.dev = s.dev) ∧
      (s.dev = .stopped → s.selIdle d e = true → s.clocked d = true → s.stalls a 64 = true →
        ∃ u, exec (.swGo d e) s = .next u ∧ (u.die d).sel = (s.die d).sel ∧
          (u.die d).selFetch = (s.die d).selFetch ++ [(e, a)] ∧ (∃ g, (u.reg (rDmcEvents g)).getLsbD 3 = true) ∧
          u.mem = s.mem ∧ u.dev = s.dev) ∧
      (s.dev ≠ .stopped ∨ s.selIdle d e = false ∨ s.clocked d = false →
        exec (.swGo d e) s = .next (s.setField (rSelEStatus d e) 11 8 6))) ∧
    (∀ c, c < 32 → s.accessCode (rIhaulChCtrl d c) = 0 → s.soundAt [rIhaulChDescLo d c, rIhaulChDescHi d c] = true →
      (s.dev = .stopped → (s.die d).power = 2 → ((s.die d).ihaul.any fun h => h.1 == c) = false →
        ∃ u, exec (.ihaulGo d c) s = .next u ∧
          (u.die d).ihaul = (s.die d).ihaul ++
            [(c, false, Chain.begin_ (s.pair (rIhaulChDescLo d c) (rIhaulChDescHi d c)))] ∧
          u.reg (rIhaulChBytes d c) = 0 ∧ u.mem = s.mem ∧ u.dev = s.dev) ∧
      (s.dev ≠ .stopped ∨ (s.die d).power ≠ 2 ∨ ((s.die d).ihaul.any fun h => h.1 == c) = true →
        exec (.ihaulGo d c) s = .next (s.setField (rIhaulChStatus d c) 7 4 8)))

/-! ### The sweep, the canaries and the test slices (R194 to R230, R484 to R487) -/

/-- SWEEP_STEP: a serving engine whose step may start runs it and stands at the next; its samples and its corrected errors are
counted; an uncorrectable error condemns the engine and makes the tick INVALID with CE_FAULT instead, and no byte of DRAM
changes (R217 to R219, R228). -/
def Sys2Proof.Statements.EngineRunsItsStep : Prop :=
  ∀ (s : State) (d : Die) (p t ue ce : Nat) (bad : List Nat) (w : ReWork), p < 68 →
    (s.die d).workOf ((s.die d).ces.getD p CeUnit.idle).logical = some w →
    ((s.die d).ces.getD p CeUnit.idle).role = .serving →
    (s.tick.rel ≠ 3 ∨ (s.dep.canary.any fun q => q.1 == d.idx) = true) → s.stepReady d p t = true →
    ∃ u, exec (.sweepStep d p t ⟨ue, ce, bad⟩) s = .next u ∧ (u.die d).steps.getD p 0 = t + 1 ∧
      (∀ q, q ≠ p → (u.die d).steps.getD q 0 = (s.die d).steps.getD q 0) ∧ u.tick = s.tick ∧ u.dev = s.dev ∧
      (ue = 0 → u.plan.cause = s.plan.cause ∧ (u.die d).ces = (s.die d).ces ∧
        u.pair (rCeEngSamplesLo d p) (rCeEngSamplesHi d p) =
          (s.pair (rCeEngSamplesLo d p) (rCeEngSamplesHi d p) +
            (s.slotJobs d w ((s.die d).ces.getD p CeUnit.idle).logical).length) % 2 ^ 64 ∧
        u.reg (rCeEngEcc d p) = satAddWord (s.reg (rCeEngEcc d p)) ce) ∧
      (ue ≠ 0 → u.plan.cause = some (s.causeWith 4) ∧
        ((u.die d).ces.getD p CeUnit.idle).condemned = true ∧ (u.reg (rCeEvents d)).getLsbD 1 = true ∧
        ∀ a, a < 0x400000000000 → memByte u.mem a = memByte s.mem a)

/-- CANARY_SLOT_END: every serving engine that completed reports to the Deputy; one whose result differs is condemned and
makes the tick INVALID with CANARY_FAIL, one that met an uncorrectable error completes none, is condemned and makes it INVALID
with CE_FAULT, the lower code of the two; no byte of DRAM changes (R225 to R229, R483; that the slot comes as one report is log
entry 92, that an engine with an uncorrectable error completes no canary log entry 114). -/
def Sys2Proof.Statements.CanarySlotReports : Prop :=
  ∀ (s : State) (d : Die) (corrupt missing : List Nat) (ue ce : List (Nat × Nat)), s.tick.live = true →
    s.tick.stopped = false → 3 ≤ s.tick.rel → (s.die d).power = 2 → s.dies.contains d = true →
    (s.dep.canary.any fun q => q.1 == d.idx) = false → s.img (·.safety.sets.length) ≠ 0 →
    ∃ u fails, exec (.canarySlotEnd d corrupt ⟨missing, ue, ce⟩) s = .next u ∧
      u.dep.canary = s.dep.canary ++ [(d.idx, ((List.range 68).filter fun p =>
        (match (s.die d).ces[p]? with | some c => c.role == .serving | none => false) && !missing.contains p &&
          !ue.any fun q => q.1 == p).length, fails)] ∧
      (∀ k ∈ corrupt, k / 4 < 68 → k / 4 ∉ missing → (∀ q ∈ ue, q.1 ≠ k / 4) →
        ((s.die d).ces.getD (k / 4) CeUnit.idle).role = .serving →
        ((u.die d).ces.getD (k / 4) CeUnit.idle).canaryOk = false ∧
          ((u.die d).ces.getD (k / 4) CeUnit.idle).condemned = true ∧ (ue = [] → u.plan.cause = some (s.causeWith 5))) ∧
      (∀ q ∈ ue, q.1 < 68 → ((s.die d).ces.getD q.1 CeUnit.idle).role = .serving →
        ((u.die d).ces.getD q.1 CeUnit.idle).condemned = true ∧ (u.reg (rCeEvents d)).getLsbD 1 = true ∧
          u.plan.cause = some (s.causeWith 4)) ∧
      u.tick = s.tick ∧ u.dev = s.dev ∧ ∀ a, a < 0x400000000000 → memByte u.mem a = memByte s.mem a

/-- The sweep and the canary slot (R217 to R228, R483). -/
def Obligations.SweepAndCanaries : Prop := Statements.EngineRunsItsStep ∧ Statements.CanarySlotReports

/-- Test slices: one starts on a free unit, a collision engine's at any time and another in HOLD, STOPPED or a gap that holds
it; its end frees the class, passes the turn on in the rotation of its class, begins the unit's age anew and decides the
retirement of a unit that failed, once; a unit that none has completed on for 100 ms is reported (R160, R196, R484 to R487). -/
def Obligations.TestSlicesRun : Prop :=
  let add := fun (l : List Nat) (unit : Nat) (passed : Bool) => if passed || l.contains unit then l else l ++ [unit]
  ∀ (s : State) (d : Die) (cls unit t : Nat), cls < 5 → unit < sliceUnits cls →
    ((s.die d).power = 2 → (s.die d).slicing cls = false → s.unitFree d cls unit = true →
      (cls = 0 ∨ s.dev = .hold ∨ s.dev = .stopped ∨ (s.dev = .running ∧ s.gapFits cls t = true)) →
      ∃ u, exec (.testSliceStart d cls unit t) s = .next u ∧ (u.die d).slices = (s.die d).slices ++ [(cls, unit, t)] ∧
        u.dev = s.dev ∧ u.mem = s.mem ∧ u.regs = s.regs ∧ u.tick = s.tick) ∧
    (∀ passed, ((s.die d).slices.any fun q => q.1 == cls && q.2.1 == unit && decide (q.2.2 + sliceNs cls ≤ t)) = true →
      ∃ u, exec (.testSliceEnd d cls unit t passed) s = .next u ∧ (∀ q ∈ (u.die d).slices, q.1 ≠ cls) ∧
        (∀ q ∈ (s.die d).slices, q.1 ≠ cls → q ∈ (u.die d).slices) ∧ u.dev = s.dev ∧ u.tick = s.tick ∧
        (cls = 0 → (u.die d).ceFail = !passed ∧ (passed = false → (u.reg (rCeEngEvents d unit)).getLsbD 3 = true)) ∧
        (cls = 1 → (u.die d).rePend = add (s.die d).rePend unit passed ∧ (u.die d).reTest = (unit + 1) % 16) ∧
        (cls = 2 → (u.die d).sePend = add (s.die d).sePend unit passed ∧ (u.die d).seTest = (unit + 1) % 2) ∧
        (u.die d).testedAt cls unit = (u.now : Int) ∧ u.now = (s.advance t).now ∧
        (cls = 3 → (u.die d).heapPend = ((s.die d).heapPend || !passed)) ∧
        (cls = 4 → (u.die d).rowPend = add (s.die d).rowPend unit passed ∧
          (u.die d).rowTest = (unit + 1) % 9 ∧ u.reg (rPaTestCount d) = satAddWord (s.reg (rPaTestCount d)) 1)) ∧
    (∀ ageMs, (s.die d).inService cls unit = true → 100 ≤ ageMs →
      ∃ u, exec (.latent d cls unit ageMs) s = .next u ∧ (u.reg rDeputyEvents).getLsbD 4 = true ∧
        (s.timeOn = true → 1000000 * ageMs ≤ u.testAge d cls unit) ∧ u.dev = s.dev ∧ u.dep = s.dep ∧ u.mem = s.mem)

/-! ### Haulage (R385 to R405) -/

/-- A doorbell queues its chain, or is refused where the address is no multiple of 32 or 16 chains wait; CHAIN_START takes the
oldest once the channel is free, and the bytes of a new ingest chain are parsed from their first (R84, R393). -/
def Obligations.DoorbellsQueueChains : Prop :=
  ∀ (s : State) (ch : Nat), ch < 140 →
    (∀ lo : Word, s.host.d3 = false → s.accessCode (rHaulChDoorbell ch) = 0 →
      (lo.toNat % 32 ≠ 0 → exec (.doorbell ch lo) s = .next (s.event (rHaulChEvents ch) 0)) ∧
      (lo.toNat % 32 = 0 → 16 ≤ (s.chan ch).queue.length →
        exec (.doorbell ch lo) s = .next ((s.event (rHaulChEvents ch) 1).event rHaulEvents 3)) ∧
      (lo.toNat % 32 = 0 → (s.chan ch).queue.length < 16 →
        ∃ u, exec (.doorbell ch lo) s = .next u ∧ u.regs = s.regs ∧ u.out = s.out ∧
          u.chan ch = { s.chan ch with
            queue := (s.chan ch).queue ++ [lo.toNat + 4294967296 * (s.reg (rHaulChDescHi ch)).toNat] } ∧
          ∀ c, c ≠ ch → u.chan c = s.chan c)) ∧
    (∀ a rest, (s.chan ch).chain = none → (s.chan ch).queue = a :: rest → (s.chan ch).paused = false →
      (s.chan ch).pausing = false → s.ringMode ch = false → s.host.up = true →
      ∃ u, exec (.chainStart ch) s = .next u ∧
        u.chan ch = { s.chan ch with queue := rest, chain := some (Chain.begin_ a), cur := a } ∧
        u.reg (rHaulChBytes ch) = 0 ∧ u.out = s.out ++ [.hostRead a 32] ∧ (∀ c, c ≠ ch → u.chan c = s.chan c) ∧
        (ch < 128 → u.world.streams.getD ch Stream.idle =
          { s.world.streams.getD ch Stream.idle with
            chain := (s.world.streams.getD ch Stream.idle).chain + 1, skip := none, part := [] }) ∧
        u.mem = s.mem)

namespace Sys2Proof.Machine

/-- A host-side chain ended with a status and room in its completion ring (R399 to R401, R405): the channel is free and shows
the status, and one record was written. -/
structure ChainEnded (s u : State) (ch status : Nat) : Prop where
  idle : (u.chan ch).chain = none
  status : (u.chan ch).status = status
  record : u.reg (rHaulChCringHead ch) = s.reg (rHaulChCringHead ch) + 1
  free : (u.chan ch).stopping = false ∧ (u.chan ch).pausing = false ∧ (u.chan ch).paused = false

/-- The chain of an internal channel ended with a status (R391): the channel is free and shows it. -/
structure InternalEnded (u : State) (ch status : Nat) : Prop where
  idle : u.chainOf ch = none
  shows : bits (u.reg (rIhaulChStatus (ixDie ch) (ixNum ch))) 7 4 = status
  event : status ≠ 0 → (u.reg (rIhaulEvents (ixDie ch))).getLsbD 0 = true

/-- What a checked descriptor of an internal channel does (R390, R396): it moves data, is held, or ends its chain with the status
of the first failing check; no byte of memory changes. -/
structure InternalJudged (v u : State) (ch : Nat) (h : Chain) (list : Nat) : Prop where
  mem : u.mem = v.mem
  starts : v.checkDesc ch h list = 0 → v.mayStart ch h = true → u.chainOf ch = some { h with step := .moving }
  held : v.checkDesc ch h list = 0 → v.mayStart ch h = false → u.chainOf ch = some { h with step := .held }
  ends : v.checkDesc ch h list ≠ 0 → InternalEnded u ch (v.checkDesc ch h list)

end Sys2Proof.Machine

/-- DESCRIPTOR_START: a host-side descriptor's list is asked for in host memory; a descriptor that passes the checks of R390 moves
data where its conditions hold and no channel that ranks before it asks for the link, and is held where not; one that fails
ends the chain with the status of the first failing check; a held one goes on once its conditions hold and the link is its
own. An internal channel takes the copy that Overman handed it or reads its own from the local map, and its list from there:
it moves data, is held, or ends with the status of the read or of the first failing check; one whose read, or the read of whose
list, waits for the front of an initialisation only sets INIT_STALL (R334, R359, R386, R390, R395 to R398; that the link is granted
at this command is presumed, log entry 112). -/
def Sys2Proof.Statements.DescriptorIsCheckedAndStarts : Prop :=
  ∀ (s : State) (ch : Nat) (desc sg : List Byte) (h : Chain),
    (ch < 140 → (s.chan ch).chain = some h →
      (h.step = .fetch → (s.chan ch).paused = false → (s.chan ch).pausing = false →
        s.checkDesc ch { h with body := padTo 32 desc, sg := sg } 0 = 0 →
        (s.mayStart ch { h with body := padTo 32 desc, sg := sg } = true → s.linkTaken ch = false →
          ∃ u, exec (.descriptorStart ch desc sg) s = .next u ∧
            (u.chan ch).chain = some { h with body := padTo 32 desc, sg := sg, step := .moving } ∧ u.mem = s.mem ∧
            u.dev = s.dev) ∧
        (s.mayStart ch { h with body := padTo 32 desc, sg := sg } = true → s.linkTaken ch = true →
          ∃ u, exec (.descriptorStart ch desc sg) s = .next u ∧
            (u.chan ch).chain = some { h with body := padTo 32 desc, sg := sg, step := .held } ∧ ch ∈ u.host.losers ∧
            u.regs = s.regs ∧ u.out = (s.askList ch { h with body := padTo 32 desc, sg := sg }).out ∧ u.mem = s.mem) ∧
        (s.mayStart ch { h with body := padTo 32 desc, sg := sg } = false →
          ∃ u, exec (.descriptorStart ch desc sg) s = .next u ∧
            (u.chan ch).chain = some { h with body := padTo 32 desc, sg := sg, step := .held } ∧ u.regs = s.regs ∧
            u.out = (s.askList ch { h with body := padTo 32 desc, sg := sg }).out ∧ u.mem = s.mem)) ∧
      (h.step = .fetch → (s.chan ch).paused = false → (s.chan ch).pausing = false → s.cringRoom ch = true →
        s.checkDesc ch { h with body := padTo 32 desc, sg := sg } 0 ≠ 0 →
        ∃ u, exec (.descriptorStart ch desc sg) s = .next u ∧
          ChainEnded s u ch (s.checkDesc ch { h with body := padTo 32 desc, sg := sg } 0) ∧
          (u.reg rHaulEvents).getLsbD 0 = true ∧ u.mem = s.mem) ∧
      (h.step = .held → s.mayStart ch h = true → s.linkTaken ch = true →
        exec (.descriptorStart ch desc sg) s = .next (s.loseLink ch)) ∧
      (h.step = .held → s.mayStart ch h = false → exec (.descriptorStart ch desc sg) s = .next s) ∧
      (h.step = .held → s.mayStart ch h = true → s.linkTaken ch = false →
        ∃ u, exec (.descriptorStart ch desc sg) s = .next u ∧ (u.chan ch).chain = some { h with step := .moving } ∧
          u.mem = s.mem)) ∧
    (140 ≤ ch → ch < 204 → s.chainOf ch = some h →
      (h.step = .held → s.mayStart ch h = true →
        ∃ u, exec (.descriptorStart ch desc sg) s = .next u ∧ u.chainOf ch = some { h with step := .moving } ∧
          u.mem = s.mem) ∧
      (h.step = .held → s.mayStart ch h = false → exec (.descriptorStart ch desc sg) s = .next s) ∧
      (h.step = .fetch → s.handedDesc ch h = true → s.stalled (s.fetchWait h) ≠ [] →
        exec (.descriptorStart ch desc sg) s = .next (s.noteStalls (s.stalled (s.fetchWait h)))) ∧
      (h.step = .fetch → s.handedDesc ch h = true → s.stalled (s.fetchWait h) = [] →
        ∃ u, exec (.descriptorStart ch desc sg) s = .next u ∧
          InternalJudged s u ch { h with sg := (s.fetchList h).2 } (s.fetchList h).1) ∧
      (h.step = .fetch → s.handedDesc ch h = false → s.stalled [(h.desc, 32)] ≠ [] →
        exec (.descriptorStart ch desc sg) s = .next (s.noteStalls [(h.desc, 32)])) ∧
      (h.step = .fetch → s.handedDesc ch h = false → s.stalled [(h.desc, 32)] = [] →
        ∀ v st raw, s.getHere h.desc 32 = (v, st, raw) →
          (st ≠ 0 → ∃ u, exec (.descriptorStart ch desc sg) s = .next u ∧ InternalEnded u ch st ∧ u.mem = s.mem) ∧
          (st = 0 → v.stalled (v.fetchWait { h with body := raw }) ≠ [] → exec (.descriptorStart ch desc sg) s =
            .next (v.noteStalls (v.stalled (v.fetchWait { h with body := raw })))) ∧
          (st = 0 → v.stalled (v.fetchWait { h with body := raw }) = [] →
            ∃ u, exec (.descriptorStart ch desc sg) s = .next u ∧ InternalJudged v u ch
            { h with body := raw, sg := (v.fetchList { h with body := raw }).2 } (v.fetchList { h with body := raw }).1)))

/-- DESCRIPTOR_COMPLETE on a channel that no FENCE holds, once what it reads and writes here lies below the front of
initialisation: the items that an ingress descriptor completes arrive at its stream and its last descriptor ends the chain, or
one finds no staging space and the stream is full; data for host memory leaves as writes to the descriptor's address, in
requests of at most the payload size, and waits for its flush read; data for the device, of the host or of an internal
channel's source, is stored at DST as R392 arranges it, and no byte outside it changes. Behind a FENCE, and on a full
stream, nothing happens; before the front only INIT_STALL is set (R80, R89, R349, R359, R371, R392, R395, R399; the payload
size in force is presumed, log entry 112; that the descriptor does not complete without room is the model's choice, log entry
113). -/
def Sys2Proof.Statements.DescriptorMovesItsData : Prop :=
  ∀ (s w : State) (ch t fault : Nat) (data : List Byte) (ports : List (Die × Nat × List Nat)) (h : Chain),
    s.chainOf ch = some h → h.step = .moving → ch < 204 → w = (s.advance t).contendAll ports →
    (s.fenced ch = true ∨ (ch < 128 ∧ (s.world.streams.getD ch Stream.idle).full = true) →
      exec (.descriptorComplete ch ⟨t, data, fault, ports⟩) s = .next s) ∧
    (s.fenced ch = false → (ch < 128 → (s.world.streams.getD ch Stream.idle).full = false) →
      s.stalled (s.deviceHere ch h) ≠ [] →
      exec (.descriptorComplete ch ⟨t, data, fault, ports⟩) s = .next (w.noteStalls (s.stalled (s.deviceHere ch h)))) ∧
    (s.fenced ch = false → (ch < 128 → (s.world.streams.getD ch Stream.idle).full = false) →
      s.stalled (s.deviceHere ch h) = [] →
      ∃ u, exec (.descriptorComplete ch ⟨t, data, fault, ports⟩) s = .next u ∧ u.dev = s.dev ∧ u.tick = s.tick ∧
        (ch < 128 ∨ toHost ch h = true → u.mem = s.mem) ∧
        (128 ≤ ch → toHost ch h = false → ∀ x, (∀ i, i < h.outLen → localOf (h.dst + i) ≠ x) →
          memByte u.mem x = memByte s.mem x) ∧
        (∀ its part, ch < 128 → (s.advance t).newItems ch (s.advance t).now (padTo h.len data) = (its, part) →
          ((s.advance t).roomFor ch its = true →
            (u.world.streams.getD ch Stream.idle).inbox = (s.world.streams.getD ch Stream.idle).inbox ++ its ∧
              (h.isEnd = true → s.cringRoom ch = true → (s.chan ch).stopping = false → (s.chan ch).pausing = false →
                ChainEnded s u ch 0)) ∧
          ((s.advance t).roomFor ch its = false →
            (u.world.streams.getD ch Stream.idle).inbox = (s.world.streams.getD ch Stream.idle).inbox ∧
              (u.world.streams.getD ch Stream.idle).full = true ∧ u.chan ch = s.chan ch ∧
              (u.reg rWorldEvents).getLsbD 5 = true)) ∧
        (∀ v got, toHost ch h = true → w.readDevice ch fault (regionSpans (h.sources ch) 0) [] 0 = (v, 0, got, 0) →
          (∃ last, (u.chan ch).chain = some { h with bytes := h.len, step := .flush, last := last } ∧
            u.out = (v.writeHost (reshuffle h (joinPieces got)) (h.regions h.dst)).out ++ [.hostRead last 4]) ∧
          (h.ctrl 0 0 = 0 → 0 < h.len → u.out = v.out ++
            ((spansOf v.payloadLimit h.dst ((reshuffle h (joinPieces got)).take h.len).length).map fun p =>
              .hostWrite p.1 ((((reshuffle h (joinPieces got)).take h.len).drop (p.1 - h.dst)).take p.2) v.relaxed) ++
            [.hostRead (h.dst + h.len - 4) 4])) ∧
        (∀ v stream, 128 ≤ ch → toHost ch h = false →
          (ch < 140 → v = w ∧ stream = padTo h.len data) →
          (140 ≤ ch → ∃ got, w.readDevice ch fault (regionSpans (h.sources ch) 0) [] 0 = (v, 0, got, 0) ∧
            stream = joinPieces got) →
          (reshuffle h stream).length = h.outLen → localOf h.dst + h.outLen ≤ 0x1000000000 →
          (∀ p ∈ pageSpans h.dst h.outLen, nodeOf p.1 = s.node ∧ v.crossDown (ixFrom ch) (localOf p.1) p.2 = false ∧
            v.writeStatus (localOf p.1) p.2 = 0) →
          (∀ i, i < h.outLen → memByte u.mem (localOf h.dst + i) = (reshuffle h stream).getD i 0) ∧
          (h.isEnd = true → 140 ≤ ch → InternalEnded u ch 0) ∧
          (h.isEnd = true → ch < 140 → s.cringRoom ch = true → (s.chan ch).stopping = false →
            (s.chan ch).pausing = false → ChainEnded s u ch 0)) ∧
        (136 ≤ ch → ch < 140 → toHost ch h = false → h.isEnd = true → s.cringRoom ch = true →
          (s.chan ch).stopping = false → (s.chan ch).pausing = false → h.ctrl 3 2 = 0 →
          0 < h.len → h.len ≤ data.length → h.dst / 4096 = (h.dst + h.len - 1) / 4096 → nodeOf h.dst = s.node →
          s.crossDown none (localOf h.dst) h.len = false → s.writeStatus (localOf h.dst) h.len = 0 →
          ChainEnded s u ch 0 ∧ u.mem = (s.store (localOf h.dst) (data.take h.len)).mem ∧
            u.d0.sliceOv = (s.store (localOf h.dst) (data.take h.len)).d0.sliceOv ∧
            u.d1.sliceOv = (s.store (localOf h.dst) (data.take h.len)).d1.sliceOv))

/-- Descriptors start and move their data (R386 to R399). -/
def Obligations.DescriptorsRun : Prop :=
  Statements.DescriptorIsCheckedAndStarts ∧ Statements.DescriptorMovesItsData

/-- FLUSH_READ_RETURN delivers what waits for it: a ring-mode record, the end of a chain, or the next descriptor of one; a
device read that fails, by a timeout or by a completion with EP = 1, UR or CA, ends it with HOST_ERR and is reported in the
AER capability, on a timeout with its own event; a good completion and a poisoned write change no chain (R295, R374, R387,
R399; which bits of the AER status they are is presumed, log entry 112). -/
def Sys2Proof.Statements.HostReadsReturn : Prop :=
  ∀ (s : State) (ch t : Nat), ch < 140 →
    (∀ f slot, (s.chan ch).sending = some (f, slot) →
      ∃ u, exec (.flushReadReturn ch t) s = .next u ∧ (u.chan ch).sending = none ∧ (u.chan ch).status = 0 ∧
        u.reg (rHaulChCringHead ch) = s.reg (rHaulChCringHead ch) + 1 ∧ u.mem = s.mem) ∧
    (∀ h, (s.chan ch).sending = none → (s.chan ch).chain = some h → h.step = .flush → h.isEnd = true →
      s.cringRoom ch = true → (s.chan ch).stopping = false → (s.chan ch).pausing = false →
      ∃ u, exec (.flushReadReturn ch t) s = .next u ∧ ChainEnded s u ch 0 ∧ u.mem = s.mem) ∧
    (∀ h, (s.chan ch).sending = none → (s.chan ch).chain = some h → h.step = .flush → h.isEnd = false →
      (s.chan ch).stopping = false → (s.chan ch).pausing = false → h.ctrl 14 14 = 0 →
      ∃ u, exec (.flushReadReturn ch t) s = .next u ∧ u.out = s.out ++ [.hostRead h.next 32] ∧
        (∃ g, (u.chan ch).chain = some g ∧ g.desc = h.next ∧ g.index = h.index + 1 ∧ g.step = .fetch) ∧
        u.regs = s.regs ∧ u.mem = s.mem) ∧
    (∀ f slot c kind, (s.chan ch).sending = some (f, slot) →
      c = .cplTimeout ch ∨ (1 ≤ kind ∧ kind < 4 ∧ c = .hostReadCompletion ch kind) →
      ∃ u, exec c s = .next u ∧ (u.chan ch).sending = none ∧ (u.chan ch).status = 0xB ∧ u.mem = s.mem ∧
        (c = .cplTimeout ch → (u.reg rHostEvents).getLsbD 4 = true ∧ u.host.cfg.aerStatus.getLsbD 14 = true) ∧
        (c = .hostReadCompletion ch kind → u.host.cfg.aerStatus.getLsbD (completionAer kind) = true)) ∧
    (∀ h c kind, (s.chan ch).sending = none → (s.chan ch).chain = some h → s.hostReading ch = true →
      s.cringRoom ch = true → (s.chan ch).pausing = false → c = .cplTimeout ch ∨ (1 ≤ kind ∧ kind < 4 ∧
        c = .hostReadCompletion ch kind) →
      ∃ u, exec c s = .next u ∧ ChainEnded s u ch 0xB ∧ (u.reg rHaulEvents).getLsbD 0 = true ∧ u.mem = s.mem ∧
        (c = .cplTimeout ch → (u.reg rHostEvents).getLsbD 4 = true ∧ u.host.cfg.aerStatus.getLsbD 14 = true) ∧
        (c = .hostReadCompletion ch kind → u.host.cfg.aerStatus.getLsbD (completionAer kind) = true)) ∧
    exec (.hostReadCompletion ch 0) s = .next s ∧
    exec .poisonRx s = .next ((s.event rHostEvents 3).reportAer 12)

/-- RING_RECORD: the oldest device-fed record waits while a channel that ranks before this one asks for the link; it is
delivered where the link is up and both rings have room, else it is dropped and counted; the plan record of the tick in progress
is handed over either way (R31, R295, R398, R402, R403). That nothing happens while the flush read of a record is outstanding
is the model's choice (log entry 116), that the link is granted at this command presumed (log entry 112); what of a record's
delivery is given up is log entry 80. -/
def Sys2Proof.Statements.RingRecordIsDeliveredOrDropped : Prop :=
  ∀ (s : State) (ch slots size used : Nat) (f : Feed) (rest : List Feed), 128 ≤ ch → ch < 136 →
    (s.chan ch).feeds = f :: rest → (s.chan ch).sending = none → slots = bits (s.egGeom (ch - 128)) 15 0 →
    size = 64 * bits (s.egGeom (ch - 128)) 23 16 →
    used = (s.reg (rHaulChRingHead ch) - s.reg (rHaulChRingTail ch)).toNat →
    (∀ g : State, (g.chan ch).sending ≠ none → exec (.ringRecord ch) g = .next g) ∧
    (s.linkTaken ch = true → exec (.ringRecord ch) s = .next (s.loseLink ch)) ∧
    (s.linkTaken ch = false → s.host.up = true → slots ≠ 0 → size ≠ 0 → ceilDiv f.bytes.length size + used ≤ slots →
      s.cringRoom ch = true →
      ∃ u, exec (.ringRecord ch) s = .next u ∧ (u.chan ch).feeds = rest ∧
        (u.chan ch).sending = some (f, (s.reg (rHaulChRingHead ch)).toNat % 65536) ∧
        u.reg (rHaulChRingHead ch) = s.reg (rHaulChRingHead ch) + BitVec.ofNat 32 (ceilDiv f.bytes.length size) ∧
        u.plan.handed = (s.plan.handed || (f.kind == 0 && s.plan.record == some f.bytes)) ∧
          u.reg (rHaulChDrop ch) = s.reg (rHaulChDrop ch) ∧ u.mem = s.mem) ∧
    (s.linkTaken ch = false → s.host.up = false ∨ slots = 0 ∨ s.cringRoom ch = false ∨ size = 0 ∨
      slots < ceilDiv f.bytes.length size + used →
      ∃ u, exec (.ringRecord ch) s = .next u ∧ (u.chan ch).feeds = rest ∧ (u.chan ch).sending = none ∧
        u.reg (rHaulChDrop ch) = satAddWord (s.reg (rHaulChDrop ch)) 1 ∧ (u.reg rHaulEvents).getLsbD 1 = true ∧
        u.plan.handed = (s.plan.handed || (f.kind == 0 && s.plan.record == some f.bytes)) ∧ u.out = s.out ∧ u.mem = s.mem)

/-- What host memory returns to a channel, and the egress rings (R295, R374, R399 to R403). -/
def Obligations.HostReadsAndRings : Prop :=
  Statements.HostReadsReturn ∧ Statements.RingRecordIsDeliveredOrDropped

/-- The pulses of HAUL.CH_CTRL and CH_CRING_SIZE: PAUSE at once on an idle channel and at a descriptor boundary, and while data
moves it stands until that boundary, RESUME ends it, STOP at once where no data moves and else it stands until the end of the
descriptor; a descriptor whose flush read returns then pauses the channel or ends the chain with STOPPED, the last one too, and
STOP wins; a pause asked for during the last one is reached once the chain has ended. A pause on a full ring waits, and says so.
The ring size is limited to 4 to 16 and refused while a chain is in progress; its write empties the ring, so that the record of
a pause that waited on a full one is written (R400, R401, R404, R405). What PAUSE does on an idle channel, with a record or a
full ring outstanding, and PAUSE and STOP during the last descriptor, is the model's choice (log entries 80 and 81). -/
def Obligations.ChannelsPauseResumeAndStop : Prop :=
  ∀ (s : State) (ch : Nat), ch < 140 → s.host.d3 = false →
    (s.accessCode (rHaulChCtrl ch) = 0 →
      ((s.chan ch).paused = false → (s.chan ch).stopping = false → (s.chan ch).pausing = false →
        (s.chan ch).chain = none ∨ (∃ h, (s.chan ch).chain = some h ∧ h.step = .fetch) → s.cringRoom ch = false →
        ∃ u, exec (.chPause ch) s = .next u ∧ u.chan ch = { s.chan ch with pausing := true } ∧
          (u.reg (rHaulChEvents ch)).getLsbD 2 = true ∧ (u.reg rHaulEvents).getLsbD 2 = true ∧ u.out = s.out ∧
          u.mem = s.mem) ∧
      ((s.chan ch).paused = false → (s.chan ch).stopping = false → (s.chan ch).pausing = false → (s.chan ch).chain = none →
        s.cringRoom ch = true →
        ∃ u, exec (.chPause ch) s = .next u ∧ u.chan ch = { s.chan ch with paused := true } ∧
          u.reg (rHaulChCringHead ch) = s.reg (rHaulChCringHead ch) + 1 ∧ u.mem = s.mem) ∧
      (∀ h, (s.chan ch).paused = false → (s.chan ch).stopping = false → (s.chan ch).pausing = false →
        (s.chan ch).chain = some h → h.step = .fetch → s.cringRoom ch = true →
        ∃ u, exec (.chPause ch) s = .next u ∧ u.chan ch = { s.chan ch with paused := true } ∧
          u.reg (rHaulChCringHead ch) = s.reg (rHaulChCringHead ch) + 1 ∧ u.mem = s.mem) ∧
      (∀ h, (s.chan ch).paused = false → (s.chan ch).stopping = false → (s.chan ch).chain = some h → h.step = .moving →
        ∃ u, exec (.chPause ch) s = .next u ∧ u.chan ch = { s.chan ch with pausing := true } ∧ u.regs = s.regs ∧
          u.out = s.out) ∧
      (∃ u, exec (.chResume ch) s = .next u ∧ u.chan ch = { s.chan ch with paused := false, pausing := false } ∧
        u.regs = s.regs ∧
        (∀ h, (s.chan ch).chain = some h → (s.chan ch).paused = true → h.step = .fetch →
          u.out = s.out ++ [.hostRead h.desc 32])) ∧
      ((s.chan ch).chain = none → exec (.chStop ch) s = .next s) ∧
      (∀ h, (s.chan ch).chain = some h → h.step = .fetch ∨ h.step = .held ∨
          (h.step = .moving ∧ ch < 128 ∧ (s.world.streams.getD ch Stream.idle).full = true) → s.cringRoom ch = true →
        ∃ u, exec (.chStop ch) s = .next u ∧ ChainEnded s u ch 0xC ∧ u.mem = s.mem) ∧
      (∀ h, (s.chan ch).chain = some h → h.step = .moving →
        (ch < 128 → (s.world.streams.getD ch Stream.idle).full = false) →
        ∃ u, exec (.chStop ch) s = .next u ∧ u.chan ch = { s.chan ch with stopping := true, pausing := false } ∧
          u.regs = s.regs)) ∧
    (∀ h t, (s.chan ch).sending = none → (s.chan ch).chain = some h → h.step = .flush →
      h.ctrl 14 14 = 0 → s.cringRoom ch = true →
      ((s.chan ch).stopping = true →
        ∃ u, exec (.flushReadReturn ch t) s = .next u ∧ ChainEnded s u ch 0xC ∧ u.mem = s.mem) ∧
      ((s.chan ch).stopping = false → (s.chan ch).pausing = true → h.isEnd = true → s.host.up = true →
        (s.reg (rHaulChCringHead ch) + 1 - s.reg (rHaulChCringTail ch)).toNat ≠ s.cringSize ch →
        ∃ u, exec (.flushReadReturn ch t) s = .next u ∧ (u.chan ch).chain = none ∧ (u.chan ch).status = 0 ∧
          (u.chan ch).paused = true ∧ (u.chan ch).pausing = false ∧
          u.reg (rHaulChCringHead ch) = s.reg (rHaulChCringHead ch) + 2 ∧ u.mem = s.mem) ∧
      ((s.chan ch).stopping = false → (s.chan ch).pausing = true → h.isEnd = false →
        ∃ u, exec (.flushReadReturn ch t) s = .next u ∧ (u.chan ch).paused = true ∧ (u.chan ch).pausing = false ∧
          u.reg (rHaulChCringHead ch) = s.reg (rHaulChCringHead ch) + 1 ∧ u.mem = s.mem)) ∧
    (∀ v : Word, s.accessCode (rHaulChCringSize ch) = 0 →
      ((s.chan ch).chain = none →
        ∃ u, exec (.chCringSize ch v) s = .next u ∧
          u.reg (rHaulChCringSize ch) = BitVec.ofNat 32 (max 4 (min 16 (bits v 4 0))) ∧ u.reg (rHaulChCringTail ch) = 0 ∧
          ((s.chan ch).pausing = false → u.reg (rHaulChCringHead ch) = 0 ∧ u.chans = s.chans) ∧
          ((s.chan ch).pausing = true → s.host.up = true →
            u.reg (rHaulChCringHead ch) = 1 ∧ u.chan ch = { s.chan ch with paused := true, pausing := false })) ∧
      ((s.chan ch).chain ≠ none → exec (.chCringSize ch v) s = .next (s.event (rHaulChEvents ch) 4)))

/-! ### The BAR2 window (R377 to R381, R538) -/

/-- HOST.WIN_BASE takes its value with the low 30 bits 0. -/
def Sys2Proof.Statements.WindowBaseIsWritten : Prop :=
  ∀ (s : State) (v : Word), s.host.d3 = false →
    (s.accessCode rHostWinBaseHi = 0 → exec (.winBase true v) s = .next (s.rewrite rHostWinBaseHi v) ∧
      (s.rewrite rHostWinBaseHi v).reg rHostWinBaseHi = v) ∧
    (s.accessCode rHostWinBaseLo = 0 → exec (.winBase false v) s = .next (s.rewrite rHostWinBaseLo (v &&& 0xC0000000#32)) ∧
      (s.rewrite rHostWinBaseLo (v &&& 0xC0000000#32)).reg rHostWinBaseLo = v &&& 0xC0000000#32)

namespace Sys2Proof.Machine

/-- A window access that completed with a status other than DONE (R379): HOST.WIN_ERR, WIN_ERR_OFS and the event. -/
structure WindowFailed (u : State) (status ofs : Nat) (write : Bool) : Prop where
  err : u.reg rHostWinErr = packFields [(0, status), (4, bnat write)]
  ofs : u.reg rHostWinErrOfs = BitVec.ofNat 32 (ofs % 2 ^ 30)
  event : (u.reg rHostEvents).getLsbD 5 = true

/-- A BAR2 read that arrives: its address is that of the base in force (R378). -/
def State.readAcc (s : State) (ofs len : Nat) (met : ReadMet) : WinAcc := ⟨false, false, ofs, s.windowAddr ofs, len, met.fault, [], []⟩

/-- A BAR2 write that arrives. -/
def State.writeAcc (s : State) (ofs : Nat) (w : WinWrite) : WinAcc :=
  ⟨false, true, ofs, s.windowAddr ofs, w.data.length, 0, w.data, w.raced⟩

/-- A FENCE of the window, as it stands among the accesses (R347, R349). -/
def windowFence : WinAcc := ⟨true, false, 0, none, 0, 0, [], []⟩

/-- Whether the first of what waits at the window is a FENCE with an earlier operation outstanding. -/
def State.fenceWaits (s : State) : Bool := (s.host.reads.head?.any fun x => x.fence) && s.outstanding 210

/-- A BAR2 access that waits (R349, R359, R381): it stands behind the others that wait, and nothing else of it happens. -/
structure AccessWaits (s u : State) (x : WinAcc) : Prop where
  host : u.host = { s.host with reads := s.host.reads ++ [x] }
  out : u.out = s.out
  mem : u.mem = s.mem
  dev : u.dev = s.dev

end Sys2Proof.Machine

/-- A BAR2 read of mapped memory of this node drives its bytes; one that reaches nothing, meets a status other than DONE or a
Crosscut that is down drives zeros and is recorded, and one that meets an uncorrectable error is poisoned; one behind a write
that is outstanding, a FENCE of the window or the front of initialisation waits. No byte of memory changes (R349, R359, R377,
R379, R381, R538). -/
def Sys2Proof.Statements.WindowReads : Prop :=
  ∀ (s : State) (ofs len : Nat) (met : ReadMet), s.host.d3 = false →
    (s.windowWrites = true ∨ s.fenceWaits = true ∨ (s.host.reads = [] ∧ s.accStalls (s.readAcc ofs len met) = true) →
      ∃ u, exec (.bar2Read ofs len met) s = .next u ∧ AccessWaits s u (s.readAcc ofs len met)) ∧
    (s.windowWrites = false → s.host.reads = [] → s.accStalls (s.readAcc ofs len met) = false →
      (s.windowAddr ofs = none →
        ∃ u, exec (.bar2Read ofs len met) s = .next u ∧ u.out = s.out ++ [.window 1 false (List.replicate len 0)] ∧
          WindowFailed u 1 ofs false ∧ u.mem = s.mem ∧ u.host = s.host) ∧
      (∀ g, s.windowAddr ofs = some g → nodeOf g ≠ s.node →
        ∃ u, exec (.bar2Read ofs len met) s = .next u ∧ u.mem = s.mem ∧ u.dev = s.dev) ∧
      (∀ g base n, s.windowAddr ofs = some g → nodeOf g = s.node → base = localOf g / 8 * 8 →
        n = ceilDiv (localOf g % 8 + len) 8 * 8 →
        (s.crossDown none base n = false → s.opStatus base n = 0 → met.fault = 0 →
          ∃ u, exec (.bar2Read ofs len met) s = .next u ∧
            u.out = s.out ++ [.window 0 false (padTo len ((s.readSpan base n).drop (ofs % 8)))] ∧ u.mem = s.mem ∧
            u.host = s.host) ∧
        (s.crossDown none base n = false → s.opStatus base n = 0 → met.fault = 2 →
          ∃ u l, exec (.bar2Read ofs len met) s = .next u ∧ u.out = l ++ [.window 3 true (List.replicate len 0)] ∧
            WindowFailed u 3 ofs false ∧ u.mem = s.mem) ∧
        (s.crossDown none base n = false → s.opStatus base n ≠ 0 →
          ∃ u, exec (.bar2Read ofs len met) s = .next u ∧
            u.out = s.out ++ [.window (s.opStatus base n) false (List.replicate len 0)] ∧
            WindowFailed u (s.opStatus base n) ofs false ∧ u.mem = s.mem ∧ u.host = s.host) ∧
        (s.crossDown none base n = true →
          ∃ u, exec (.bar2Read ofs len met) s = .next u ∧
            u.out = s.out ++ [.window 6 false (List.replicate len 0)] ∧ WindowFailed u 6 ofs false ∧ u.mem = s.mem ∧
            u.host = s.host)))

/-- A BAR2 write to this node stores its bytes where the map and the guards admit them, and no byte outside them changes but of a
partial word that port A wrote meanwhile; a refused or guarded one, and one that reaches nothing, stores nothing and is
recorded; one behind a write that is outstanding, a FENCE of the window or the front of initialisation waits (R349, R351,
R359, R377, R379 to R381, R538). -/
def Sys2Proof.Statements.WindowWrites : Prop :=
  ∀ (s : State) (ofs : Nat) (w : WinWrite), s.host.d3 = false →
    (s.windowWrites = true ∨ s.fenceWaits = true ∨ (s.host.reads = [] ∧ s.accStalls (s.writeAcc ofs w) = true) →
      ∃ u, exec (.bar2Write ofs w) s = .next u ∧ AccessWaits s u (s.writeAcc ofs w)) ∧
    (s.windowWrites = false → s.host.reads = [] → s.accStalls (s.writeAcc ofs w) = false →
      (s.windowAddr ofs = none →
        ∃ u, exec (.bar2Write ofs w) s = .next u ∧ WindowFailed u 1 ofs true ∧ u.mem = s.mem ∧ u.out = s.out ∧
          u.host = s.host) ∧
      (∀ g, s.windowAddr ofs = some g → nodeOf g ≠ s.node →
        ∃ u, exec (.bar2Write ofs w) s = .next u ∧ u.mem = s.mem ∧ u.dev = s.dev) ∧
      (∀ g lo n, s.windowAddr ofs = some g → nodeOf g = s.node → localOf g + w.data.length ≤ 2 ^ 48 →
        lo = localOf g / 8 * 8 → n = ceilDiv (localOf g % 8 + w.data.length) 8 * 8 →
        ∃ u, exec (.bar2Write ofs w) s = .next u ∧
          (∀ x, x < localOf g / 4 * 4 ∨ localOf g + w.data.length + 3 ≤ x → memByte u.mem x = memByte s.mem x) ∧
          (w.raced = [] → ∀ x, x < localOf g ∨ localOf g + w.data.length ≤ x → memByte u.mem x = memByte s.mem x) ∧
          u.out = s.out ∧ u.dev = s.dev ∧
          (w.data ≠ [] → localOf g / 4096 = (localOf g + w.data.length - 1) / 4096 → s.crossDown none lo n = false →
            (s.writeStatus lo n = 0 → w.raced = [] →
              u.mem = (s.store (localOf g) w.data).mem ∧ u.d0.sliceOv = (s.store (localOf g) w.data).d0.sliceOv ∧
                u.d1.sliceOv = (s.store (localOf g) w.data).d1.sliceOv) ∧
            (s.writeStatus lo n ≠ 0 → WindowFailed u (s.writeStatus lo n) ofs true ∧ u.mem = s.mem ∧
              u.d0.sliceOv = s.d0.sliceOv ∧ u.d1.sliceOv = s.d1.sliceOv ∧
              (s.writeStatus lo n = 7 → ∀ o b, s.guardHit lo n = some (o, b) → (u.reg o).getLsbD b = true)))))

/-- The BAR2 window (R377 to R381). -/
def Obligations.HostWindow : Prop :=
  Statements.WindowBaseIsWritten ∧ Statements.WindowReads ∧ Statements.WindowWrites

/-! ### Registers through BAR0 (R12, R556 to R578) -/

namespace Sys2Proof.Machine

/-- A register whose write has no effect beyond its own value: no shadowed, write-only, pulse or lockable field, and none of
the registers that the HAUL and TALLY chapters give effects of their own. -/
def plainReg (o : Nat) (r : RegDef) : Prop :=
  r.sh = 0 ∧ r.wo = 0 ∧ r.w1p = 0 ∧ r.rwl = 0 ∧ canonical o ≠ rTallyRdSeqLo ∧
    ¬ (0x40100 ≤ canonical o ∧ canonical o < 0x40180) ∧ ¬ (0x41000 ≤ canonical o ∧ canonical o < 0x43300)

/-- One register has a new value; every other register and every part of the state but the parity records is as it was. -/
structure RegOnly (s u : State) (o : Nat) (v : Word) : Prop where
  value : u.reg o = v
  others : ∀ q, q ≠ o → u.reg q = s.reg q
  dev : u.dev = s.dev
  mem : u.mem = s.mem
  tick : u.tick = s.tick
  world : u.world = s.world
  plan : u.plan = s.plan
  sh : u.sh = s.sh
  out : u.out = s.out

/-- One refused access: recorded with its code, direction and offset in REGIF, and nothing else of the block changed. -/
structure AccessRefused (s u : State) (code ofs : Nat) (write : Bool) : Prop where
  code : bits (u.reg rRegifErrStatus) 3 0 = code
  write : (u.reg rRegifErrStatus).getLsbD 4 = write
  addr : u.reg rRegifErrAddr = BitVec.ofNat 32 ofs
  regs : ∀ o, o ≠ rRegifErrStatus → o ≠ rRegifErrAddr → o ≠ rRegifErrCount → o ≠ rRegifEvents → u.reg o = s.reg o
  rest : u.mem = s.mem ∧ u.dev = s.dev ∧ u.sys = s.sys ∧ u.sh = s.sh ∧ u.latches = s.latches ∧ u.tick = s.tick ∧
    u.world = s.world ∧ u.chans = s.chans ∧ u.kl = s.kl ∧ u.sec = s.sec ∧ u.dep = s.dep

end Sys2Proof.Machine

/-- Any access but a naturally aligned 32-bit word with all four byte enables is not performed: a read answers 0, a write is
discarded, REGIF records it with ALIGN or SIZE; an 8-byte access aligned to 8 bytes is two words in ascending order, each
with its own record; one aligned to 4 alone is refused whole with ALIGN (R556 to R558). Which of ALIGN and SIZE it is where
both fail, and that this check comes before that of the offset, is the model's choice (log entry 77), the two words of 8 bytes log
entry 100. -/
def Obligations.AccessesNeedWholeAlignedWords : Prop :=
  ∀ (s : State) (ofs size be : Nat) (lo hi : Word), ofs < 0x4000000 → s.host.d3 = false →
    (¬ (size = 8 ∧ ofs % 8 = 0) → ¬ (size = 4 ∧ ofs % 4 = 0 ∧ be % 16 = 15) →
      ∀ code, code = (if (size = 2 ∨ size = 4 ∨ size = 8) ∧ ofs % size ≠ 0 then 2 else 1) →
      (∃ u, exec (.captureRead ofs size be) s = .next u ∧ AccessRefused s u code ofs false ∧
        u.out.getLast? = some (.read 0)) ∧
      (∃ u, exec (.registerWrite ofs size be lo hi) s = .next u ∧ AccessRefused s u code ofs true)) ∧
    (size = 8 → ofs % 8 = 0 →
      (∀ m, exec (.registerWrite ofs 4 (be % 16) lo hi) s = .next m → m.host.d3 = false →
        exec (.registerWrite ofs 8 be lo hi) s = exec (.registerWrite (ofs + 4) 4 (be / 16) hi hi) m) ∧
      (∀ m, exec (.captureRead ofs 4 (be % 16)) s = .next m → m.host.d3 = false →
        exec (.captureRead ofs 8 be) s = exec (.captureRead (ofs + 4) 4 (be / 16)) m))

/-- A write of a naturally aligned 32-bit word with all byte enables writes the RW fields and no others; an offset that
answers no access is recorded and nothing is performed; in D3hot nothing happens (R12, R373, R556, R559). -/
def Sys2Proof.Statements.RegisterWrites : Prop :=
  ∀ (s : State) (ofs be : Nat) (lo hi : Word), ofs < 0x4000000 →
    (s.host.d3 = true → ∀ size, exec (.registerWrite ofs size be lo hi) s = .next s) ∧
    (s.host.d3 = false →
      (ofs < 0x1000000 → ofs % 4 = 0 → be % 16 = 15 → s.accessCode ofs ≠ 0 →
        exec (.registerWrite ofs 4 be lo hi) s = .next (s.recordAccess (s.accessCode ofs) true 3 15 ofs)) ∧
      (∀ r, ofs < 0x1000000 → ofs % 4 = 0 → be % 16 = 15 → s.accessCode ofs = 0 → findReg ofs = some r → plainReg ofs r →
        ∃ u, exec (.registerWrite ofs 4 be lo hi) s = .next u ∧
          RegOnly s u (canonical ofs)
            ((s.reg (canonical ofs) &&& ~~~(BitVec.ofNat 32 r.rw)) ||| (lo &&& BitVec.ofNat 32 r.rw))))

/-- A write of a shadowed register makes its fields pending and changes no value in force (R563). -/
def Sys2Proof.Statements.ShadowedWritesArePending : Prop :=
  ∀ (s : State) (ofs : Nat) (v m : Word) (r : RegDef), s.host.d3 = false → ofs < 0x1000000 → ofs % 4 = 0 →
    findReg ofs = some r → r.sh ≠ 0 → s.accessCode ofs = 0 →
    m = (shFields (canonical ofs) (BitVec.ofNat 32 r.sh)).foldl (· ||| ·) 0 &&& BitVec.ofNat 32 r.sh →
    ∃ u, exec (.shWrite ofs v) s = .next u ∧ u.regs = s.regs ∧ u.dev = s.dev ∧ u.mem = s.mem ∧ u.sys = s.sys ∧
      (∃ p ∈ u.sh, p.off = canonical ofs ∧ p.mask &&& m = m ∧ p.val &&& m = v &&& m) ∧
      ∀ p ∈ s.sh, p.off ≠ canonical ofs → p ∈ u.sh

/-- The aliases of a plain register set, clear and toggle the RW bits named by the write; a write-only register has none
(R570, R571). -/
def Sys2Proof.Statements.AliasesActOnNamedBits : Prop :=
  ∀ (s : State) (ofs : Nat) (v : Word) (r : RegDef), s.host.d3 = false → ofs < 0x1000000 → ofs % 4 = 0 →
    s.windowMode = false → findReg ofs = some r → s.accessCode ofs = 0 →
    (plainReg ofs r → (∀ p ∈ s.sh, p.off ≠ canonical ofs) →
      (∃ u, exec (.setAlias ofs v) s = .next u ∧
        RegOnly s u (canonical ofs) (s.reg (canonical ofs) ||| (v &&& BitVec.ofNat 32 r.rw))) ∧
      (∃ u, exec (.clearAlias ofs v) s = .next u ∧
        RegOnly s u (canonical ofs) (s.reg (canonical ofs) &&& ~~~(v &&& BitVec.ofNat 32 r.rw))) ∧
      (∃ u, exec (.toggleAlias ofs v) s = .next u ∧
        RegOnly s u (canonical ofs) (s.reg (canonical ofs) ^^^ (v &&& BitVec.ofNat 32 r.rw)))) ∧
    (r.wo ≠ 0 →
      exec (.setAlias ofs v) s = .next (s.recordAccess 7 true 3 15 (0x1000000 + ofs)) ∧
      exec (.clearAlias ofs v) s = .next (s.recordAccess 7 true 3 15 (0x2000000 + ofs)) ∧
      exec (.toggleAlias ofs v) s = .next (s.recordAccess 7 true 3 15 (0x3000000 + ofs)))

/-- No parity fault that no check has found yet stands in a register or its _HI word (R577, R578). -/
abbrev Sys2Proof.Machine.State.parityKnown (s : Sys2Proof.Machine.State) (o : Nat) : Prop :=
  ∀ b ∈ s.badRegs, b.found = false → b.off ≠ o ∧ b.off ≠ o + 4

/-- The bit window reads and writes one bit of a register (R572, R573). -/
def Sys2Proof.Statements.BitWindowReachesOneBit : Prop :=
  ∀ (s : State) (addr o n : Nat) (v : Word) (r : RegDef), s.host.d3 = false → 0x1000000 ≤ addr → addr < 0x4000000 →
    addr % 4 = 0 → s.windowMode = true → s.windowBit addr = (o, n) →
    (o < 0x1000000 → findReg o = some r → s.accessCode o = 0 → plainReg o r →
      ∃ u, exec (.bitWindowWrite addr v) s = .next u ∧
        RegOnly s u (canonical o)
          ((s.reg (canonical o) &&& ~~~(BitVec.ofNat 32 (2 ^ n) &&& BitVec.ofNat 32 r.rw)) |||
            (if bit v 0 then BitVec.ofNat 32 (2 ^ n) &&& BitVec.ofNat 32 r.rw else 0))) ∧
    (o < 0x1000000 → s.accessCode o = 0 → isHiWord (canonical o) = false → s.parityKnown (canonical o) →
      ∃ u, exec (.bitWindowRead addr) s = .next u ∧
        u.out = s.out ++ [.read (if bit (s.peek (canonical o)) n then 1 else 0)] ∧
        u.reg (canonical o) = s.reg (canonical o) &&& ~~~(rcMask (canonical o) &&& BitVec.ofNat 32 (2 ^ n)) ∧
        u.mem = s.mem ∧ u.dev = s.dev) ∧
    (0x1000000 ≤ o →
      exec (.bitWindowWrite addr v) s = .next (s.recordAccess 7 true 3 15 addr) ∧
      exec (.bitWindowRead addr) s = .next ((s.recordAccess 7 false 3 15 addr).emit (.read 0)))

/-- A direct read drives the register's value and clears its RC bits; the read of a _LO word captures the _HI word, which the
next read of that one drives (R560, R562). -/
def Obligations.ReadsClearAndCapture : Prop :=
  ∀ (s : State) (ofs : Nat), s.host.d3 = false → ofs < 0x1000000 → ofs % 4 = 0 → s.accessCode ofs = 0 →
    (isHiWord (canonical ofs) = false → s.parityKnown (canonical ofs) →
      ∃ u, exec (.clearOnRead ofs) s = .next u ∧ exec (.captureRead ofs 4 15) s = .next u ∧
        u.out = s.out ++ [.read (s.peek (canonical ofs))] ∧
        u.reg (canonical ofs) = s.reg (canonical ofs) &&& ~~~(rcMask (canonical ofs)) ∧
        (∀ q, q ≠ canonical ofs → u.reg q = s.reg q) ∧ u.mem = s.mem ∧ u.dev = s.dev ∧
        (isLoWord (canonical ofs) = true → (canonical ofs, s.peek (canonical ofs + 4)) ∈ u.latches)) ∧
    (∀ w, isHiWord (canonical ofs) = true → (s.latches.find? fun l => l.1 == canonical ofs - 4) = some (canonical ofs - 4, w) →
      exec (.captureRead ofs 4 15) s = .next (s.emit (.read w)))

/-- GLB.ALIAS_MODE and GLB.BITWIN_BASE are written while GLB.LOCK is clear and keep their value while it is set; a lock bit
that is set stays set (R569, R574, R592). -/
def Sys2Proof.Statements.LockFreezesRegisters : Prop :=
  ∀ (s : State) (v : Word), s.host.d3 = false →
    (s.accessCode rGlbAliasMode = 0 → ∃ u, exec (.aliasMode v) s = .next u ∧
      bit (u.reg rGlbAliasMode) 0 = (if bit (s.reg rGlbLock) 0 then bit (s.reg rGlbAliasMode) 0 else bit v 0) ∧
      u.reg rGlbLock = s.reg rGlbLock ∧ u.dev = s.dev ∧ u.mem = s.mem) ∧
    (s.accessCode rGlbBitwinBase = 0 → ∃ u, exec (.bitwinBase v) s = .next u ∧
      bits (u.reg rGlbBitwinBase) 23 16 =
        (if bit (s.reg rGlbLock) 0 then bits (s.reg rGlbBitwinBase) 23 16 else bits v 23 16) ∧
      u.reg rGlbLock = s.reg rGlbLock ∧ u.dev = s.dev ∧ u.mem = s.mem) ∧
    (s.accessCode rGlbLock = 0 → ∃ u, exec (.lock rGlbLock v) s = .next u ∧
      bit (u.reg rGlbLock) 0 = (bit (s.reg rGlbLock) 0 || bit v 0) ∧ u.dev = s.dev ∧ u.mem = s.mem) ∧
    (s.accessCode rSecLock = 0 → ∃ u, exec (.lock rSecLock v) s = .next u ∧
      (∀ n, n < 2 → bit (u.reg rSecLock) n = (bit (s.reg rSecLock) n || bit v n)) ∧ u.dev = s.dev ∧ u.mem = s.mem)

/-- Writes through BAR0 (R12, R556 to R563). -/
def Obligations.RegistersAreWritten : Prop :=
  Statements.RegisterWrites ∧ Statements.ShadowedWritesArePending ∧ Statements.LockFreezesRegisters

/-- The aliases and the bit window (R569 to R573). -/
def Obligations.AliasesAndBitWindow : Prop :=
  Statements.AliasesActOnNamedBits ∧ Statements.BitWindowReachesOneBit

/-! ### Kornov ports and flits (R408 to R425) -/

/-- TRAIN brings a port of the topology up with what the neighbour sent, MISWIRED where node or digest differ: a port that was up
carries nothing more then, and keeps nothing to send (R411, R412, R425); the first lane failure moves to the spare, a second takes
the port down (R411, R412; that TRAIN of a port that was down clears its lane failures is log entry 55). -/
def Sys2Proof.Statements.PortsTrainAndFail : Prop :=
  ∀ (s : State) (port : Nat), port < 6 →
    (∀ node digest wire, s.portRequired port = true → s.kl.coordBad = false →
      ∃ u, exec (.train port node digest wire) s = .next u ∧ (u.port port).up = true ∧ (u.port port).node = node ∧
        (u.port port).wire = wire % 65536 ∧
        (u.port port).miswired = (node != s.neighbour port || digest != s.img (fun i => fieldU i.digest 0 4)) ∧
        ((u.port port).miswired = true → (u.reg rKlinkEvents).getLsbD 2 = true) ∧ u.dev = s.dev ∧
        ((s.port port).up = false ∨ (u.port port).miswired = false →
          (∀ p, p ≠ port → u.port p = s.port p) ∧ u.mem = s.mem) ∧
        ((s.port port).up = true → (u.port port).miswired = true → (s.port port).cut = none →
          (u.port port).replay = [] ∧ (u.port port).waiting = [] ∧ (u.port port).part = [])) ∧
    (∀ lane, lane < 5 → (s.port port).up = true → (s.port port).lanes / 2 ^ lane % 2 = 0 →
      (lane < 4 → (s.port port).spare = false → (s.port port).lanes / 16 % 2 = 0 →
        ∃ u, exec (.laneFail port lane) s = .next u ∧ (u.port port).up = true ∧ (u.port port).spare = true ∧
          (u.port port).lanes = (s.port port).lanes + 2 ^ lane ∧ (u.reg rKlinkEvents).getLsbD 1 = true ∧
          u.kl.ops = s.kl.ops ∧ u.mem = s.mem) ∧
      (lane = 4 → (s.port port).spare = false →
        ∃ u, exec (.laneFail port lane) s = .next u ∧
          u.port port = { s.port port with lanes := (s.port port).lanes + 16 } ∧ u.regs = s.regs ∧ u.mem = s.mem) ∧
      ((s.port port).spare = true ∨ (lane < 4 ∧ (s.port port).lanes / 16 % 2 = 1) →
        ∃ u, exec (.laneFail port lane) s = .next u ∧ (u.port port).up = false ∧
          (u.reg rKlinkEvents).getLsbD 0 = true ∧ u.dev = s.dev))

namespace Sys2Proof.Machine

/-- A good flit taken (R415): numbered, acknowledged, no failure in a row left. -/
structure FlitTaken (s u : State) (port : Nat) : Prop where
  number : (u.port port).rxNext = ((s.port port).rxNext + 1) % 256
  fails : (u.port port).fails = 0
  ack : Output.control port 1 [(s.port port).rxNext] ∈ u.out

end Sys2Proof.Machine

/-- FLIT, where the last good one was in order or the replay has begun: a good flit is acknowledged. One for this node has its
buffer granted again at once; one that completes no packet leaves its bytes to the next, one that completes a packet leaves
none. One of a packet for another node goes on through the port that leads there, one of a broadcast through the ports of its tree
and stays here too. A flit that fails its CRC is counted and named in a NAK, and the fourth failure in a row takes the port down.
Before the replay of a failed flit every other is discarded, and on a port that carries no traffic nothing happens (R412 to R415,
R419, R422, R442; the ACK and the CREDIT of each flit, and one partial packet, are the model's choice, log entry 48). -/
def Sys2Proof.Statements.FlitsAreAcknowledgedOrRefused : Prop :=
  ∀ (s : State) (port : Nat) (replay : Bool) (bytes load : List Byte), port < 6 → bytes.length = 64 → load = bytes.take 60 →
    (s.portOpen port = false → exec (.flit port ⟨replay, bytes⟩) s = .next s) ∧
    (s.portOpen port = true → (s.port port).fails = 0 ∨ replay = true →
      ((crc32 load).toNat = fieldU bytes 60 4 → (s.port port).cut = none →
        (s.port port).part ≠ [] ∨ s.wayThrough port load = none →
        (((s.port port).part ++ load).length < 16 + packetData ((s.port port).part ++ load) →
          ∃ u, exec (.flit port ⟨replay, bytes⟩) s = .next u ∧ FlitTaken s u port ∧
            (u.port port).part = (s.port port).part ++ load ∧ u.mem = s.mem ∧
            (s.kl.bcasting = false → u.regs = s.regs ∧ u.out = s.out ++ [.control port 1 [(s.port port).rxNext],
              .control port 3 [fieldU ((s.port port).part ++ load) 1 1 % 2, 1]])) ∧
        (16 + packetData ((s.port port).part ++ load) ≤ ((s.port port).part ++ load).length →
          ∃ u, exec (.flit port ⟨replay, bytes⟩) s = .next u ∧ FlitTaken s u port ∧ (u.port port).part = [] ∧
            Output.control port 3 [fieldU ((s.port port).part ++ load) 1 1 % 2, 1] ∈ u.out)) ∧
      (∀ outs here n, (crc32 load).toNat = fieldU bytes 60 4 → (s.port port).cut = none → (s.port port).part = [] →
        s.wayThrough port load = some (outs, here) → n = (16 + packetData load + 59) / 60 →
        ∃ u, exec (.flit port ⟨replay, bytes⟩) s = .next u ∧ FlitTaken s u port ∧ u.dev = s.dev ∧
          (u.port port).cut = (if n ≤ 1 then none else some ⟨outs, here, fieldU load 1 1 % 2, fieldU load 1 1 / 2 % 2 == 1, n - 1⟩) ∧
          (here = false → (u.port port).part = [] ∧ u.mem = s.mem) ∧
          (here = true → 1 < n → (u.port port).part = load ∧ u.mem = s.mem) ∧
          (here = true → n ≤ 1 → (u.port port).part = [])) ∧
      (∀ c, (crc32 load).toNat = fieldU bytes 60 4 → (s.port port).cut = some c →
        ∃ u, exec (.flit port ⟨replay, bytes⟩) s = .next u ∧ FlitTaken s u port ∧
          (u.port port).cut = (if c.left ≤ 1 then none else some { c with left := c.left - 1 }) ∧ u.dev = s.dev ∧
          (c.here = false → u.mem = s.mem ∧ (u.port port).part = (s.port port).part)) ∧
      ((crc32 load).toNat ≠ fieldU bytes 60 4 → (s.port port).fails < 3 →
        ∃ u, exec (.flit port ⟨replay, bytes⟩) s = .next u ∧
          u.port port = { s.port port with fails := (s.port port).fails + 1 } ∧
          u.out = s.out ++ [.control port 2 [(s.port port).rxNext]] ∧
          u.reg (rKlinkPortCrc port) = satAddWord (s.reg (rKlinkPortCrc port)) 1 ∧ u.mem = s.mem) ∧
      ((crc32 load).toNat ≠ fieldU bytes 60 4 → 3 ≤ (s.port port).fails →
        ∃ u, exec (.flit port ⟨replay, bytes⟩) s = .next u ∧ (u.port port).up = false ∧
          (u.reg rKlinkEvents).getLsbD 0 = true ∧ u.dev = s.dev)) ∧
    (s.portOpen port = true → (s.port port).fails ≠ 0 → replay = false →
      exec (.flit port ⟨replay, bytes⟩) s =
        .next (s.when ((crc32 load).toNat != fieldU bytes 60 4) fun s => s.count (rKlinkPortCrc port) 1))

/-- ACK frees the flits up to the one it names, and holds the first of a packet of which it acknowledges only a part, NAK sends
that one and those after it again and takes the port down the fourth time in a row, CREDIT adds to its channel up to 64; what
waits then leaves behind the unacknowledged flits, and a flit of another node of which no other copy waits grants its place in
the receive buffer it came by again as it leaves. An ACK or NAK of a flit that is not unacknowledged frees and repeats nothing;
on a port that carries no traffic, a miswired one too, none of them does anything (R412, R415, R416, R419, R425). -/
def Sys2Proof.Statements.AcknowledgementsAndCredits : Prop :=
  ∀ (s : State) (port n : Nat), port < 6 →
    (s.portOpen port = false → exec (.ack port n) s = .next s ∧ exec (.nak port n) s = .next s ∧
      ∀ vc, vc < 2 → exec (.credit port vc n) s = .next s) ∧
    (s.portOpen port = true →
    (((s.port port).replay.any fun f => f.1 == n) = true →
      ∃ u, exec (.ack port n) s = .next u ∧ (u.port port).naks = 0 ∧ (u.port port).up = true ∧ u.mem = s.mem ∧
        (∀ f ∈ ((s.port port).replay.dropWhile fun f => f.1 != n).drop 1, f ∈ (u.port port).replay) ∧
        ((s.port port).waiting = [] →
          u.port port = { s.port port with
            replay := ((s.port port).replay.dropWhile fun f => f.1 != n).drop 1, naks := 0
            begun := (((s.port port).replay.takeWhile fun f => f.1 != n) ++
              ((s.port port).replay.dropWhile fun f => f.1 != n).take 1).foldl
                (fun b f => if f.2.last then none else if f.2.first then some f.2 else b) (s.port port).begun })) ∧
    (((s.port port).replay.any fun f => f.1 == n) = false →
      (∃ u, exec (.ack port n) s = .next u ∧ (u.port port).naks = (s.port port).naks ∧ (u.port port).up = true ∧
        u.mem = s.mem ∧ (∀ f ∈ (s.port port).replay, f ∈ (u.port port).replay) ∧
        ((s.port port).waiting = [] → u.port port = s.port port)) ∧
      exec (.nak port n) s = .next s) ∧
    (((s.port port).replay.any fun f => f.1 == n) = true →
      (((s.port port).replay.head?.map (·.1) ≠ some n ∨ (s.port port).naks < 3) →
        ∃ u, exec (.nak port n) s = .next u ∧ (u.port port).up = true ∧
          (u.port port).replay = ((s.port port).replay.dropWhile fun f => f.1 != n) ∧
          (u.port port).naks = (if (s.port port).replay.head?.map (·.1) = some n then (s.port port).naks + 1 else 1) ∧
          (∀ f ∈ (u.port port).replay, Output.flit port f.2.vc f.2.flit ∈ u.out) ∧
          u.reg (rKlinkPortRetry port) = satAddWord (s.reg (rKlinkPortRetry port)) 1 ∧
          (u.reg rKlinkEvents).getLsbD 3 = true ∧ u.mem = s.mem) ∧
      ((s.port port).replay.head?.map (·.1) = some n → 3 ≤ (s.port port).naks →
        ∃ u, exec (.nak port n) s = .next u ∧ (u.port port).up = false ∧ (u.reg rKlinkEvents).getLsbD 0 = true ∧
          u.dev = s.dev)) ∧
    (∀ vc, vc < 2 →
      ∃ u, exec (.credit port vc n) s = .next u ∧ (u.port port).up = true ∧ u.mem = s.mem ∧
        (∀ f ∈ (s.port port).replay, f ∈ (u.port port).replay) ∧
        (∀ f rest, (s.port port).waiting = f :: rest → f.vc = vc → 1 ≤ n → (s.port port).replay.length < 64 →
          (s.port port).blocks f = false →
          Output.flit port f.vc f.flit ∈ u.out ∧ ((s.port port).txNext, f) ∈ (u.port port).replay ∧
            (f.src < 6 → (s.port f.src).up = true → (∀ g ∈ rest, ¬ (g.src = f.src ∧ g.num = f.num)) →
              (∀ p, p ≠ port → ∀ g ∈ (s.port p).waiting, ¬ (g.src = f.src ∧ g.num = f.num)) →
              Output.control f.src 3 [f.vcIn, 1] ∈ u.out)) ∧
        ((s.port port).waiting = [] →
          u.port port = { s.port port with
            credit0 := if vc = 0 then min 64 ((s.port port).credit0 + n) else (s.port port).credit0
            credit1 := if vc = 1 then min 64 ((s.port port).credit1 + n) else (s.port port).credit1 })))

/-- The Kornov ports (R408 to R425). -/
def Obligations.KornovPorts : Prop :=
  Statements.PortsTrainAndFail ∧ Statements.FlitsAreAcknowledgedOrRefused ∧ Statements.AcknowledgementsAndCredits

/-! ### Global operations (R441 to R445) -/

/-- BARRIER enters once: a device without links is released at once; a gather is noted, the release ends the barrier; a second
entry is an error (R441, R445). -/
def Sys2Proof.Statements.BarrierGathersAndReleases : Prop :=
  ∀ (s : State) (port : Nat), port < 6 →
    (s.host.d3 = false → s.accessCode rKlinkGopCtrl = 0 →
      (s.kl.entered = true → exec .barrier s = .next ((s.event rKlinkEvents 11).irq 5)) ∧
      (s.kl.entered = false → s.image.bind (·.links) = none →
        ∃ u, exec .barrier s = .next u ∧ u.kl.entered = false ∧ u.kl.epoch = !s.kl.epoch ∧
          (u.reg rKlinkEvents).getLsbD 6 = true ∧ u.mem = s.mem) ∧
      (s.kl.entered = false → (s.treePorts.any fun p => !s.kl.gathered.contains p) = true →
        exec .barrier s = .next { s with kl := { s.kl with entered := true } })) ∧
    (∀ epoch, s.portOpen port = true → epoch = s.kl.epoch →
      (s.treePorts.contains port = true → s.kl.gathered.contains port = false → s.kl.entered = false →
        exec (.barrierBlock port true epoch) s =
          .next { s with kl := { s.kl with gathered := s.kl.gathered ++ [port] } }) ∧
      (s.kl.entered = true → s.parentPort = some port →
        ∃ u, exec (.barrierBlock port false epoch) s = .next u ∧ u.kl.entered = false ∧ u.kl.gathered = [] ∧
          u.kl.epoch = !s.kl.epoch ∧ (u.reg rKlinkEvents).getLsbD 6 = true ∧ u.mem = s.mem)) ∧
    (∀ gather epoch, epoch ≠ s.kl.epoch → exec (.barrierBlock port gather epoch) s = .next s)

namespace Sys2Proof.Machine

/-- Whether a remote operation of node `src` that reaches these spans is performed at once: it waits neither for the front of an
initialisation (R359) nor behind an earlier operation of its node that does (R349). -/
def State.servesNow (s : State) (src : Nat) (spans : List (Nat × Nat)) : Bool :=
  (spans.all fun p => !s.stalls p.1 p.2) && !s.kl.stalled.any fun q => q.src == src

end Sys2Proof.Machine

/-- BCAST, with the registers that it uses sound, begins a broadcast: it is in progress while a flit of it waits at a port or a
piece of it for the front of an initialisation, and its end is reported when none does, at once without links; a second one
meanwhile is an error. BROADCAST passes the packet on along the tree, writes here what the map and the guards admit over a
Crosscut that is up, once nothing before it waits for an initialisation, and no byte outside it changes, and reports the whole
broadcast with its last packet (R349, R359, R418, R442, R445; which packet is the last is log entry 123, when the two reports
come log entry 52). -/
def Sys2Proof.Statements.BroadcastsReachThisNode : Prop :=
  ∀ s : State,
    (s.host.d3 = false → s.accessCode rKlinkGopCtrl = 0 →
      (s.kl.bcasting = true → exec .bcast s = .next ((s.event rKlinkEvents 11).irq 5)) ∧
      (s.kl.bcasting = false → s.soundAt bcastRegs = true →
        ∃ u, exec .bcast s = .next u ∧
          ((u.kl.ports.any fun q => q.waiting.any fun f => f.src == 7) = true ∨ u.kl.bcastDue ≠ [] → u.kl.bcasting = true) ∧
          ((u.kl.ports.any fun q => q.waiting.any fun f => f.src == 7) = false → u.kl.bcastDue = [] →
            u.kl.bcasting = false ∧ (u.reg rKlinkEvents).getLsbD 7 = true) ∧
          ((∀ a n, s.stalls a n = false) → u.kl.bcastDue = []) ∧
          (s.image.bind (·.links) = none → u.kl.ports = s.kl.ports) ∧
          u.mem = s.mem ∧ u.dev = s.dev ∧ u.tick = s.tick)) ∧
    (∀ src addr left data, ∃ u, exec (.broadcast src addr ⟨left, data⟩) s = .next u ∧
      (left ≠ 0 → u.reg rKlinkEvents = s.reg rKlinkEvents) ∧
      (∀ x, x < localOf addr ∨ localOf addr + data.length ≤ x → memByte u.mem x = memByte s.mem x) ∧
      (s.servesNow src [(localOf addr, data.length)] = false →
        u.kl.stalled = s.kl.stalled ++ [⟨9, src, left, addr, data.length, 0, data⟩] ∧ u.mem = s.mem ∧ u.d0 = s.d0 ∧ u.d1 = s.d1) ∧
      (s.servesNow src [(localOf addr, data.length)] = true →
        (left = 0 → (u.reg rKlinkEvents).getLsbD 8 = true) ∧
        (s.crossDown none (localOf addr) data.length = false → s.writeStatus (localOf addr) data.length = 0 →
          u.mem = (s.store (localOf addr) data).mem ∧ u.d0.sliceOv = (s.store (localOf addr) data).d0.sliceOv ∧
          u.d1.sliceOv = (s.store (localOf addr) data).d1.sliceOv) ∧
        (s.crossDown none (localOf addr) data.length = true ∨ s.writeStatus (localOf addr) data.length ≠ 0 →
          u.mem = s.mem ∧ u.d0 = s.d0 ∧ u.d1 = s.d1)) ∧
      (∀ p ∈ s.portsFrom src, s.portOpen p = true → ∀ f ∈ waitingFlits 6 (s.treeVc src p)
          (packetBytes 9 (s.treeVc src p) src left addr data),
        f ∈ (u.port p).waiting ∨ Output.flit p f.vc f.flit ∈ u.out) ∧ u.dev = s.dev)

/-- SNAP, with the registers that it uses sound, and a first snapshot request: taken for a tick that is not yet released while
RUNNING, late otherwise; while a snapshot waits for the front of an initialisation another is an error (R359, R443, R445; what a
request that has been seen leaves behind is log entry 53). -/
def Sys2Proof.Statements.SnapshotIsTakenInTime : Prop :=
  ∀ (s : State) (t tick j : Nat), s.kl.snapAt = none →
    (s.kl.snapDue ≠ none → exec (.snapReq t tick) s = .next (((s.advance t).event rKlinkEvents 11).irq 5)) ∧
    (s.kl.snapDue = none → j = s.tick.next - s.tick.next % 2 ^ 48 + tick % 2 ^ 48 → s.kl.snapSeen ≠ some j →
      ∃ u, exec (.snapReq t tick) s = .next u ∧ u.kl.snapSeen = some j ∧
        (s.dev = .running → s.tick.next ≤ j → u.kl.snapAt = some j) ∧
        (s.dev ≠ .running ∨ j < s.tick.next → u.kl.snapAt = none ∧ (u.reg rKlinkEvents).getLsbD 10 = true) ∧
        u.mem = s.mem ∧ u.tick = s.tick) ∧
    (s.host.d3 = false → s.accessCode rKlinkGopCtrl = 0 → s.kl.snapDue ≠ none →
      exec .snap s = .next ((s.event rKlinkEvents 11).irq 5)) ∧
    (s.host.d3 = false → s.accessCode rKlinkGopCtrl = 0 → s.kl.snapDue = none →
      s.soundAt [rKlinkSnapTickLo, rKlinkSnapTickHi] = true → j = s.pair rKlinkSnapTickLo rKlinkSnapTickHi →
      ∃ u, exec .snap s = .next u ∧ u.kl.snapSeen = some j ∧
        (s.dev = .running → s.tick.next ≤ j → u.kl.snapAt = some j) ∧
        (s.dev ≠ .running ∨ j < s.tick.next → u.kl.snapAt = none ∧ (u.reg rKlinkEvents).getLsbD 10 = true) ∧
        u.mem = s.mem ∧ u.tick = s.tick)

/-- A stop or reset flood, begun here or new to this node: recorded, passed on to every other open port, the device stopped as
by HALT_N; a reset flood also takes every port down and cancels the global operations; a flood seen before does nothing
(R407, R444, R445; what a node remembers of the floods it has seen is log entry 53). -/
def Sys2Proof.Statements.FloodsStopTheNode : Prop :=
  ∀ (s : State) (t port seq : Nat), port < 6 →
    (∀ reset c, (reset = false ∧ c = Instr.stopSymbol t port seq) ∨ (reset = true ∧ c = Instr.resetSymbol t port seq) →
      s.portOpen port = true →
      (s.kl.floods.contains (reset, seq % 256) = true → exec c s = .next (s.advance t)) ∧
      (s.kl.floods.contains (reset, seq % 256) = false →
        ∃ u, exec c s = .next u ∧ u.kl.floods.head? = some (reset, seq % 256) ∧ (u.reg rKlinkEvents).getLsbD 12 = true ∧
          (s.dev = .running ∨ s.dev = .hold → u.dev = .stopped ∧ u.tick.live = false) ∧
          (s.dev ≠ .running → s.dev ≠ .hold → u.dev = s.dev) ∧ u.kl.entered = false ∧
          (∀ p, p < 6 → p ≠ port → s.portOpen p = true → Output.control p (if reset then 9 else 8) [seq % 256] ∈ u.out) ∧
          (reset = true → u.kl.bcasting = false ∧ u.kl.bcastDue = [] ∧ u.kl.snapAt = none ∧ u.kl.snapDue = none ∧ ∀ p, p < 6 →
            (u.port p).up = false))) ∧
    (∀ reset c, (reset = false ∧ c = Instr.stopFlood t) ∨ (reset = true ∧ c = Instr.resetFlood t) →
      s.host.d3 = false → s.accessCode rKlinkGopCtrl = 0 →
      ∃ u, exec c s = .next u ∧ u.kl.floods.head? = some (reset, s.kl.floodSeq) ∧
        u.kl.floodSeq = (s.kl.floodSeq + 1) % 256 ∧
        (s.dev = .running ∨ s.dev = .hold → u.dev = .stopped ∧ u.tick.live = false) ∧
        (s.dev ≠ .running → s.dev ≠ .hold → u.dev = s.dev) ∧ u.kl.entered = false ∧
        (∀ p, p < 6 → s.portOpen p = true → Output.control p (if reset then 9 else 8) [s.kl.floodSeq] ∈ u.out) ∧
        (reset = true → u.kl.bcasting = false ∧ u.kl.bcastDue = [] ∧ u.kl.snapAt = none ∧ u.kl.snapDue = none ∧ ∀ p, p < 6 →
          (u.port p).up = false))

/-- The global operations (R441 to R445). -/
def Obligations.GlobalOperations : Prop :=
  Statements.BarrierGathersAndReleases ∧ Statements.BroadcastsReachThisNode ∧ Statements.SnapshotIsTakenInTime ∧
    Statements.FloodsStopTheNode

/-! ### Remote operations (R338, R345 to R352) -/

namespace Sys2Proof.Machine

/-- `data` stored from the local address `a` and nowhere else: memory and the slices hold what the store of the model's
memory gives, every byte outside the span reads as before, and no register of a die but its slices changes. -/
structure Stored (s u : State) (a : Nat) (data : List Byte) : Prop where
  mem : u.mem = (s.store a data).mem
  slices : u.d0.sliceOv = (s.store a data).d0.sliceOv ∧ u.d1.sliceOv = (s.store a data).d1.sliceOv
  frame : ∀ x, x < a ∨ a + data.length ≤ x → memByte u.mem x = memByte s.mem x
  dies : u.d0.ovm = s.d0.ovm ∧ u.d1.ovm = s.d1.ovm ∧ u.dev = s.dev

/-- Nothing stored. -/
def Untouched (s u : State) : Prop := u.mem = s.mem ∧ u.d0 = s.d0 ∧ u.d1 = s.d1 ∧ u.dev = s.dev

/-- An atomic operation performed here: the response carries the old value, and `f` of it is stored where it answers one. -/
def AtomicDone (s u : State) (src tag a : Nat) (f : Nat → Option Nat) : Prop :=
  Output.response src tag 0 (leBytes 8 (ofLe (s.load a 8))) ∈ u.out ∧
    match f (ofLe (s.load a 8)) with
    | some v => Stored s u a (leBytes 8 v)
    | none => Untouched s u

end Sys2Proof.Machine

/-- PUT, GET and the atomic operations at this node, reached over a Crosscut that is up: with status DONE each does what R347
gives and answers its data, and stores to nothing else; with another status it answers that status and stores nothing. A PUT
that meets a guard answers GUARD; the Gallery cycles that an operation contested count; a single-bit error (fault 1) changes no
answer, an uncorrectable one (fault 2) answers UE, a GET of the Gallery that meets a busy port four times (fault 7) answers
BUSY, and a word that port A writes during an atomic operation (fault 3) is undefined after it and alone. An operation that
waits for initialisation is held back, unanswered (R344 to R354, R359). -/
def Sys2Proof.Statements.OperationsAreServedHere : Prop :=
  ∀ (s : State) (src tag addr : Nat), nodeOf addr = s.node →
    (∀ data ports, s.servesNow src [(localOf addr, data.length)] = false →
      ∃ u, exec (.put src tag addr ⟨data, ports⟩) s = .next u ∧ Untouched (s.contendAll ports) u ∧
        u.kl.stalled = s.kl.stalled ++ [⟨1, src, tag, addr, data.length, 0, data⟩] ∧ u.out = s.out) ∧
    (∀ data ports, s.servesNow src [(localOf addr, data.length)] = true → s.crossDown none (localOf addr) data.length = false →
      ∃ u, exec (.put src tag addr ⟨data, ports⟩) s = .next u ∧
        Output.response src tag (s.writeStatus (localOf addr) data.length) [] ∈ u.out ∧
        (s.opStatus (localOf addr) data.length = 0 → (s.guardHit (localOf addr) data.length).isSome = true →
          Output.response src tag 7 [] ∈ u.out) ∧
        (s.writeStatus (localOf addr) data.length = 0 → Stored s u (localOf addr) data) ∧
        (s.writeStatus (localOf addr) data.length ≠ 0 → Untouched (s.contendAll ports) u)) ∧
    (∀ (len fault : Nat) (ports : List (Die × Nat × List Nat)), s.servesNow src [(localOf addr, len)] = true →
      s.crossDown none (localOf addr) len = false →
      (fault ≤ 1 ∨ s.opStatus (localOf addr) len ≠ 0 →
        ∃ u, exec (.get src tag addr len ⟨fault, ports⟩) s = .next u ∧ Untouched (s.contendAll ports) u ∧ u.mem = s.mem ∧
          Output.response src tag (s.opStatus (localOf addr) len) (if s.opStatus (localOf addr) len = 0
            then (s.contendAll ports).readSpan (localOf addr) len else List.replicate len 0) ∈ u.out) ∧
      (s.opStatus (localOf addr) len = 0 →
        (fault = 2 → ∃ u, exec (.get src tag addr len ⟨fault, ports⟩) s = .next u ∧ u.mem = s.mem ∧
          Output.response src tag 3 (List.replicate len 0) ∈ u.out) ∧
        (∀ d o, fault = 7 → areaOf (localOf addr) len = some (.gallery d o) →
          ∃ u, exec (.get src tag addr len ⟨fault, ports⟩) s = .next u ∧ Untouched (s.contendAll ports) u ∧ u.mem = s.mem ∧
            u.reg (rGalHazards d) = satAddWord (s.reg (rGalHazards d)) 4 ∧
            Output.response src tag 5 (List.replicate len 0) ∈ u.out))) ∧
    (∀ (v w : DWord) (fault : Nat) (ports : List (Die × Nat × List Nat)), s.servesNow src [(localOf addr, 8)] = true →
      s.crossDown none (localOf addr) 8 = false →
      (s.writeStatus (localOf addr) 8 = 0 → fault ≤ 1 →
        (∃ u, exec (.atomicAdd src tag addr ⟨v, fault, ports⟩) s = .next u ∧
          AtomicDone (s.contendAll ports) u src tag (localOf addr) fun o => some ((o + v.toNat) % 2 ^ 64)) ∧
        (∃ u, exec (.atomicMax src tag addr ⟨v, fault, ports⟩) s = .next u ∧
          AtomicDone (s.contendAll ports) u src tag (localOf addr) fun o => some (max o v.toNat)) ∧
        (∃ u, exec (.atomicSwap src tag addr ⟨v, fault, ports⟩) s = .next u ∧
          AtomicDone (s.contendAll ports) u src tag (localOf addr) fun _ => some v.toNat) ∧
        (∃ u, exec (.atomicCas src tag addr v ⟨w, fault, ports⟩) s = .next u ∧
          AtomicDone (s.contendAll ports) u src tag (localOf addr) fun o => if o = v.toNat then some w.toNat else none)) ∧
      (∀ c ∈ [Instr.atomicAdd src tag addr ⟨v, fault, ports⟩, .atomicMax src tag addr ⟨v, fault, ports⟩,
          .atomicSwap src tag addr ⟨v, fault, ports⟩, .atomicCas src tag addr v ⟨w, fault, ports⟩],
        (s.writeStatus (localOf addr) 8 ≠ 0 →
          ∃ u, exec c s = .next u ∧ Untouched (s.contendAll ports) u ∧
            Output.response src tag (s.writeStatus (localOf addr) 8) (List.replicate 8 0) ∈ u.out) ∧
        (s.writeStatus (localOf addr) 8 = 0 → fault = 2 →
          ∃ u, exec c s = .next u ∧ u.mem = s.mem ∧ Output.response src tag 3 (List.replicate 8 0) ∈ u.out) ∧
        (s.writeStatus (localOf addr) 8 = 0 → fault = 3 →
          ∃ u, exec c s = .next u ∧ Output.response src tag 0 (leBytes 8 (ofLe (s.load (localOf addr) 8))) ∈ u.out ∧
            ∀ x, x < localOf addr ∨ localOf addr + 8 ≤ x → memByte u.mem x = memByte s.mem x)))

/-- SIGNAL at this node, reached over Crosscuts that are up: it stores its data and counts one arrival of a task or increments
the counter's word modulo 2^64, or answers its status and stores nothing (R338, R344, R347; that a SIGNAL whose data fail leaves its
counter is log entry 26). -/
def Sys2Proof.Statements.SignalCountsAnArrival : Prop :=
  ∀ (s v : State) (src tag addr ctr : Nat) (data : List Byte) (ports : List (Die × Nat × List Nat)), nodeOf addr = s.node →
    s.servesNow src ((if data = [] then [] else [(localOf addr, data.length)]) ++ [(localOf ctr, 8)]) = true →
    (data ≠ [] → s.crossDown none (localOf addr) data.length = false) → s.crossDown none (localOf ctr) 8 = false →
    v = (if data = [] then s else s.store (localOf addr) data) →
    ∃ u, exec (.signal src tag addr ctr ⟨data, ports⟩) s = .next u ∧
      Output.response src tag (s.signalStatus (localOf addr) data (localOf ctr)) [] ∈ u.out ∧ u.dev = s.dev ∧
      (s.signalStatus (localOf addr) data (localOf ctr) ≠ 0 → Untouched (s.contendAll ports) u) ∧
      (∀ x, x < localOf addr ∨ localOf addr + data.length ≤ x → x < localOf ctr ∨ localOf ctr + 8 ≤ x →
        memByte u.mem x = memByte s.mem x) ∧
      (∀ g off, s.signalStatus (localOf addr) data (localOf ctr) = 0 → areaOf (localOf ctr) 8 = some (.counters g off) →
        u.mem = v.mem ∧ (u.die g).ovm.arrived (off / 8) = (s.die g).ovm.arrived (off / 8) + 1 ∧
          ∀ k, k ≠ off / 8 → (u.die g).ovm.arrived k = (s.die g).ovm.arrived k) ∧
      (s.signalStatus (localOf addr) data (localOf ctr) = 0 →
        (∀ g off, areaOf (localOf ctr) 8 ≠ some (.counters g off)) →
        u.mem = (v.store (localOf ctr) (leBytes 8 ((ofLe (v.load (localOf ctr) 8) + 1) % 2 ^ 64))).mem)

/-- An operation for another node stores nothing here: it is passed on, or answered with NODE and, of a GET or an atomic
operation, zero data where no port leads there (R352, R412, R420, R422). -/
def Sys2Proof.Statements.OperationsForOthersPassOn : Prop :=
  ∀ (s : State) (src tag addr len fault ctr : Nat) (ports : List (Die × Nat × List Nat)) (data : List Byte) (v w : DWord),
    nodeOf addr ≠ s.node →
    src < 65536 → tag < 65536 → len < 65536 →
    ∀ c ∈ [(Instr.put src tag addr ⟨data, ports⟩, 0), (.get src tag addr len ⟨fault, ports⟩, len),
        (.atomicAdd src tag addr ⟨v, fault, ports⟩, 8), (.atomicMax src tag addr ⟨v, fault, ports⟩, 8),
        (.atomicSwap src tag addr ⟨v, fault, ports⟩, 8), (.atomicCas src tag addr v ⟨w, fault, ports⟩, 8),
        (.signal src tag addr ctr ⟨data, ports⟩, 0)],
      ∃ u, exec c.1 s = .next u ∧ u.mem = s.mem ∧ u.dev = s.dev ∧ (ports = [] → Untouched s u) ∧
        (s.usablePort (nodeOf addr) = none → Output.response src tag 2 (List.replicate c.2 0) ∈ u.out)

/-- FENCE completes once no earlier operation of its issuer is outstanding: at once, or with the RESPONSE of the last one, and
till then it holds its issuer's later ones back; that of the host window (issuer 210) stands among its accesses, behind those
that wait. A RESPONSE that names no operation is dropped (log entry 51); any other completes the operation of its tag: of a
window read with the data it carries, of a window write that failed with its record in HOST.WIN_ERR, of the read of a partial
word with the write that merges it (the operations that carry it, log entry 122), of a KEYINS step with the next step of its
chain (R242, R254, R347, R349, R350, R379, R380). -/
def Sys2Proof.Statements.FencesAndResponses : Prop :=
  ∀ s : State,
    (∀ n, n ≠ 210 → s.outstanding n = false →
      ∃ u, exec (.fence n) s = .next u ∧ Output.response s.node n 0 [] ∈ u.out ∧ u.fenced n = false ∧
        u.kl.ops = s.kl.ops ∧ u.mem = s.mem ∧ u.regs = s.regs) ∧
    (∀ n, n ≠ 210 → s.outstanding n = true →
      ∃ u, exec (.fence n) s = .next u ∧ u.fenced n = true ∧ u.kl.ops = s.kl.ops ∧ u.mem = s.mem ∧ u.regs = s.regs) ∧
    (s.host.reads = [] → s.outstanding 210 = false →
      exec (.fence 210) s = .next (s.emit (.response s.node 210 0 []))) ∧
    ((s.host.reads = [] ∧ s.outstanding 210 = true) ∨ s.fenceWaits = true ∨
        (∃ x rest, s.host.reads = x :: rest ∧ x.fence = false ∧ (s.windowWrites = true ∨ s.accStalls x = true)) →
      exec (.fence 210) s = .next { s with host := { s.host with reads := s.host.reads ++ [windowFence] } }) ∧
    (∀ tag status data port w ofs len, (s.kl.ops.find? fun o => o.tag == tag) = some ⟨tag, .window w ofs len, port⟩ →
      (∀ q ∈ s.kl.ops, q.tag ≠ tag → q.issuer.number ≠ 210) → s.host.reads = [windowFence] →
      ∃ u, exec (.response tag status data) s = .next u ∧ Output.response s.node 210 0 [] ∈ u.out ∧ u.host.reads = [] ∧
        u.mem = s.mem) ∧
    (∀ ch h x, s.fenced ch = true → s.chainOf ch = some h → h.step = .moving → ch < 204 →
      exec (.descriptorComplete ch x) s = .next s) ∧
    (∀ tag status data, (s.kl.ops.find? fun o => o.tag == tag) = none → exec (.response tag status data) s = .next s) ∧
    (∀ tag status data n o, (s.kl.ops.find? fun o => o.tag == tag) = some o → s.fenced n = true →
      (∀ q ∈ s.kl.ops, q.tag ≠ tag → q.issuer.number ≠ n) →
      ∃ u, exec (.response tag status data) s = .next u ∧ Output.response s.node n 0 [] ∈ u.out ∧ u.fenced n = false) ∧
    (∀ tag status data port ofs len, s.host.reads = [] →
      (s.kl.ops.find? fun o => o.tag == tag) = some ⟨tag, .window false ofs len, port⟩ →
      ∃ u, exec (.response tag status data) s = .next u ∧ (∀ o ∈ u.kl.ops, o.tag ≠ tag) ∧ u.mem = s.mem ∧
        Output.window status (status == 3)
          (if status = 0 then padTo len (data.drop (ofs % 8)) else List.replicate len 0) ∈ u.out) ∧
    (∀ tag status data port ofs len, s.host.reads = [] →
      (s.kl.ops.find? fun o => o.tag == tag) = some ⟨tag, .window true ofs len, port⟩ →
      ∃ u, exec (.response tag status data) s = .next u ∧ (∀ o ∈ u.kl.ops, o.tag ≠ tag) ∧ u.mem = s.mem ∧
        (status ≠ 0 → WindowFailed u status ofs true) ∧ (status = 0 → u.regs = s.regs)) ∧
    (∀ tag data port ofs addr bytes,
      (s.kl.ops.find? fun o => o.tag == tag) = some ⟨tag, .merge ofs addr bytes none, port⟩ →
      s.usablePort (nodeOf addr) ≠ none →
      ∃ u, exec (.response tag 0 data) s = .next u ∧ u.mem = s.mem ∧
        ∃ o ∈ u.kl.ops, o.issuer = .merge ofs addr bytes (some data)) ∧
    (∀ tag data port d e x r tab k w,
      (s.kl.ops.find? fun o => o.tag == tag) = some ⟨tag, .chain d e x r tab k, port⟩ → r + 1 < k →
      min (ofLe data) x ≠ 0 → ((s.die d).sel.find? fun q => q.engine == e && q.started) = some w →
      nodeOf w.desc.dst ≠ s.node → s.usablePort (nodeOf w.desc.dst) ≠ none → (s.die d).hubUp = true →
      s.inFlight d e ≤ 16 → s.fenced (206 + 2 * d.idx + e) = false →
      ∃ u, exec (.response tag 0 data) s = .next u ∧ u.mem = s.mem ∧
        ∃ o ∈ u.kl.ops, o.issuer = .chain d e (min (ofLe data) x) (r + 1) w.desc.dst w.desc.k)

/-- Remote operations (R338, R345 to R352). -/
def Obligations.RemoteOperations : Prop :=
  Statements.OperationsAreServedHere ∧ Statements.SignalCountsAnArrival ∧ Statements.OperationsForOthersPassOn ∧
    Statements.FencesAndResponses

/-! ### Crosscuts, clocks, rails and memory errors (R353 to R362, R590, R593) -/

/-- A Crosscut flit that needed retries is counted; one that fails after 3 takes the Crosscut down, and a copy of the store to
S1 over that between the dies ends; the loss of a clock or a PLL's lock takes down what runs on it, and a lock that returns is
shown; a rail that the part monitors leaves and returns to its tolerance, and the last input that becomes valid releases the
power-on reset (R71, R362, R590, R593, R595, R597). What each clock, PLL and rail takes down with it is read from the rules (log
entries 58 and 59). -/
def Sys2Proof.Statements.CrosscutsClocksAndRails : Prop :=
  ∀ (s : State) (d : Die) (retries n : Nat),
    (0 < retries → retries ≤ 3 → ∀ hub, (if hub then (s.die d).hubUp else (s.die d).peerUp) = true →
      ∃ u, exec (.xcutFlitFail hub d retries) s = .next u ∧ u.d0 = s.d0 ∧ u.d1 = s.d1 ∧
        u.reg (rXcutRetries d) = satAddWord (s.reg (rXcutRetries d)) retries ∧ (u.reg (rXcutEvents d)).getLsbD 0 = true) ∧
    (3 < retries →
      ((s.die d).hubUp = true → ∃ u, exec (.xcutFlitFail true d retries) s = .next u ∧ (u.die d).hubUp = false ∧
        u.reg (rXcutRetries d) = satAddWord (s.reg (rXcutRetries d)) 3 ∧ (u.reg (rXcutEvents d)).getLsbD 1 = true ∧
        (∀ q ∈ u.kl.ops, q.issuer.die ≠ some d) ∧
        ((∀ w ∈ (s.die d).sel, w.todo = []) → s.nothingWaits → ∀ a, a < 0x400000000000 → memByte u.mem a = memByte s.mem a)) ∧
      ((s.die d).peerUp = true → ∃ u, exec (.xcutFlitFail false d retries) s = .next u ∧ u.d0.peerUp = false ∧
        u.d1.peerUp = false ∧ (u.reg (rXcutEvents d)).getLsbD 1 = true ∧ u.world.syncing = false ∧
        (s.world.syncing = true → u.world.stale = s.world.stale) ∧ (s.world.syncing = false → u.mem = s.mem))) ∧
    (∃ u, exec .klrefLost s = .next u ∧ (u.reg rClkpwrEvents).getLsbD 0 = true ∧ u.power.clocks.testBit 2 = false ∧
      (∀ p, p < 6 → (u.port p).up = false) ∧ u.dev = s.dev) ∧
    (∃ u, exec (.arithPllUnlock d) s = .next u ∧ (u.reg rClkpwrEvents).getLsbD 1 = true ∧
      u.power.clocks.testBit (5 + d.idx) = false ∧ (u.die d).reWork = [] ∧ (u.die d).sel = [] ∧
      (u.die d).ovm.running = [] ∧ (∀ cls e, u.engineIdle d cls e = false) ∧ u.dev = s.dev ∧ u.mem = s.mem) ∧
    (∃ u, exec .fabricPllUnlock s = .next u ∧ (u.reg rClkpwrEvents).getLsbD 1 = true ∧
      u.power.clocks.testBit 4 = false ∧ u.d0.hubUp = false ∧ u.d1.hubUp = false ∧ u.d0.peerUp = false ∧
      u.d1.peerUp = false ∧ u.dev = s.dev ∧
      ((∀ w ∈ s.d0.sel ++ s.d1.sel, w.todo = []) → s.nothingWaits → s.world.syncing = false → ∀ a, a < 0x400000000000 →
        memByte u.mem a = memByte s.mem a)) ∧
    (n = 4 ∨ (n = 5 ∧ s.d0.power = 2) ∨ (n = 6 ∧ s.d1.power = 2) →
      ∃ u, exec (.pllRelock n) s = .next u ∧ u.power.clocks.testBit n = true ∧ u.regs = s.regs ∧ u.dev = s.dev) ∧
    (n < 13 →
      (s.monitored n = false → exec (.rail n) s = .next s ∧ exec (.railWithinTolerance n) s = .next s) ∧
      (s.monitored n = true →
        (∃ u, exec (.rail n) s = .next u ∧ u.power.rails.testBit n = false ∧
          (∀ k, k ≠ n → u.power.rails.testBit k = s.power.rails.testBit k) ∧ (u.reg rClkpwrEvents).getLsbD 2 = true ∧
          u.dev = s.dev) ∧
        (∃ u, exec (.railWithinTolerance n) s = .next u ∧ u.power.rails.testBit n = true ∧
          (∀ k, k ≠ n → u.power.rails.testBit k = s.power.rails.testBit k) ∧ u.regs = s.regs ∧ u.dev = s.dev ∧
          (u.inputsValid = true → u.sys.porHeld = false) ∧ (u.inputsValid = false → u.sys = s.sys))))

/-- The scrubbers count a corrected error and record the address of an uncorrectable one; refresh time and rate are shown;
initialisation moves its front up and ends with the whole usable DRAM in front; only what waited for the front changes memory then:
an operation of another node, an access of the window, the commit in progress, a KEYINS, a descriptor of software, a snapshot (R353,
R355, R358 to R360). -/
def Sys2Proof.Statements.ScrubRefreshAndInitialise : Prop :=
  ∀ (s : State) (d : Die),
    (∀ ofs ms g off, (s.die d).power = 2 → windowArea d ofs 4 = some (.gallery g off) →
      ∃ u, exec (.sramScrub d ofs 1 ms) s = .next u ∧ u.reg (rGalEccCe g) = satAddWord (s.reg (rGalEccCe g)) 1 ∧
        (u.reg (rGalEvents g)).getLsbD 0 = true ∧ u.mem = s.mem) ∧
    (∀ ofs ms, (s.die d).power = 2 → windowArea d ofs 4 ≠ none →
      ∃ u, exec (.sramScrub d ofs 2 ms) s = .next u ∧ u.reg (rGalUeAddr d) = BitVec.ofNat 32 (ofs % 67108864) ∧
        (u.reg (rGalEvents d)).getLsbD 2 = true ∧ u.mem = s.mem ∧ u.dev = s.dev) ∧
    (∀ addr passEnd, addr < s.usable d →
      (∃ u, exec (.dramScrub d addr 1 passEnd) s = .next u ∧
        u.reg (rDmcEccCe d) = satAddWord (s.reg (rDmcEccCe d)) 1 ∧ (u.reg (rDmcEvents d)).getLsbD 0 = true ∧
        (passEnd = true → bits (u.reg (rDmcScrub d)) 15 0 = min 65535 (bits (s.reg (rDmcScrub d)) 15 0 + 1)) ∧
        u.mem = s.mem) ∧
      (∃ u, exec (.dramScrub d addr 2 passEnd) s = .next u ∧
        u.pair (rDmcUeAddrLo d) (rDmcUeAddrHi d) = (dramBase d + addr) % 2 ^ 64 ∧
        u.reg (rDmcEccUe d) = satAddWord (s.reg (rDmcEccUe d)) 1 ∧ (u.reg (rDmcEvents d)).getLsbD 2 = true ∧
        u.mem = s.mem)) ∧
    (∀ derate ns, ∃ u, exec (.refresh d derate ns) s = .next u ∧
      u.reg (rDmcBusyNs d) = satAddWord (s.reg (rDmcBusyNs d)) ns ∧ (u.reg (rDmcStatus d)).getLsbD 2 = derate ∧
      (derate = true → bit (s.reg (rDmcStatus d)) 2 = false → (u.reg (rDmcEvents d)).getLsbD 5 = true) ∧
      u.mem = s.mem) ∧
    (∀ mib, d = .s0 ∨ s.hasS1 = true →
      ∃ u, exec (.initDone ⟨d, mib⟩) s = .next u ∧ u.usable d = s.usable d ∧
        u.front d = min (s.usable d) (max (1048576 * mib) (s.front d)) ∧
        (s.usable d ≤ 1048576 * mib → (u.reg (rDmcStatus d)).getLsbD 0 = true) ∧ u.dev = s.dev ∧
        (s.nothingWaits → s.world.held = none → s.kl.snapDue = none →
          (∀ g : Die, (s.die g).selFetch = [] ∧ ∀ w ∈ (s.die g).sel, w.started = false) → u.mem = s.mem))

/-- Crosscuts, clocks, rails, scrubbing, refresh and initialisation (R353 to R362, R590, R593). -/
def Obligations.ClocksRailsAndMemoryCare : Prop :=
  Statements.CrosscutsClocksAndRails ∧ Statements.ScrubRefreshAndInitialise

/-! ### Firmware, attestation and the OTP (R536 to R554) -/

/-- PUSH is refused where the device waits for none, by the first failing check otherwise; a container that passes is run.
PUSH_FLASH is admitted in READY and STOPPED with nothing else in progress and the lock clear, and programs a container that
passes; FLASH_PROGRAMMED ends it with the container in the slot, or with none and an error (R536, R539 to R541; which error
is open, log entry 3; the order of the checks is log entry 67, that of the refusals of PUSH_FLASH log entry 68). -/
def Sys2Proof.Statements.FirmwareIsPushed : Prop :=
  ∀ s : State,
    (s.host.d3 = false → s.accessCode rSecCtrl = 0 →
      (s.waitPush = false → exec .push s = .next (s.setField rSecBoot 15 8 9)) ∧
      (s.waitPush = true → s.checkFirmware s.staged.1 s.staged.2 ≠ 0 →
        exec .push s = .next (s.setField rSecBoot 15 8 (s.checkFirmware s.staged.1 s.staged.2))) ∧
      (s.waitPush = true → s.checkFirmware s.staged.1 s.staged.2 = 0 →
        ∃ u, exec .push s = .next u ∧ bits (u.reg rSecBoot) 15 8 = 0 ∧ (u.reg rSecBoot).getLsbD 3 = false ∧
          (u.reg rSecBoot).getLsbD 4 = true ∧ u.reg rSecFwVersion = BitVec.ofNat 32 (fieldU s.staged.1 0x10 4) ∧
          u.reg rSecFwSvn = BitVec.ofNat 32 (fieldU s.staged.1 6 2) ∧
          (∃ run, u.bist.run = some run ∧ run.kind = 3 ∧ run.by_ = 1) ∧ u.mem = s.mem ∧ u.dev = s.dev ∧ u.sec = s.sec) ∧
      ((s.dev ≠ .ready ∧ s.dev ≠ .stopped) ∨ s.loading.isSome = true ∨ s.sec.flashing.isSome = true →
        exec .pushFlash s = .next (s.setField rSecBoot 15 8 9)) ∧
      (s.dev = .ready ∨ s.dev = .stopped → s.loading = none → s.sec.flashing = none →
        (bit (s.reg rSecLock) 1 = true → exec .pushFlash s = .next (s.setField rSecBoot 15 8 0xA)) ∧
        (bit (s.reg rSecLock) 1 = false → s.checkFirmware s.staged.1 s.staged.2 ≠ 0 →
          exec .pushFlash s = .next (s.setField rSecBoot 15 8 (s.checkFirmware s.staged.1 s.staged.2))) ∧
        (bit (s.reg rSecLock) 1 = false → s.checkFirmware s.staged.1 s.staged.2 = 0 →
          exec .pushFlash s = .next { s with sec := { s.sec with flashing := some s.staged.1 } }))) ∧
    (∀ bs, s.sec.flashing = some bs →
      (∃ u, exec (.flashProgrammed true) s = .next u ∧ u.sec = { s.sec with flashing := none, flash := some bs } ∧
        bits (u.reg rSecBoot) 15 8 = 0 ∧ u.mem = s.mem ∧ u.dev = s.dev) ∧
      (∃ u, exec (.flashProgrammed false) s = .next u ∧ u.sec = { s.sec with flashing := none, flash := some [] } ∧
        1 ≤ bits (u.reg rSecBoot) 15 8 ∧ bits (u.reg rSecBoot) 15 8 ≤ 12 ∧ u.mem = s.mem ∧ u.dev = s.dev))

/-- ATTEST forms a report of 1,536 bytes outside BOOT where its destination fits in hub staging, and answers its error code
otherwise; ATTEST_DONE stores it there and counts it (R553, R554). -/
def Sys2Proof.Statements.AttestationReports : Prop :=
  ∀ s : State,
    (s.host.d3 = false → s.accessCode rSecCtrl = 0 → s.sec.report = none →
      (s.dev = .boot → exec .attest s = .next (s.setField rSecAttStatus 3 1 1)) ∧
      (s.dev ≠ .boot → 4194304 < bits (s.reg rSecAttDst) 21 0 + 1536 →
        exec .attest s = .next (s.setField rSecAttStatus 3 1 2)) ∧
      (s.dev ≠ .boot → bits (s.reg rSecAttDst) 21 0 + 1536 ≤ 4194304 →
        ∃ u bs, exec .attest s = .next u ∧ u.sec = { s.sec with report := some (bs, bits (s.reg rSecAttDst) 21 0) } ∧
          bs.length = 1536 ∧ bs.take 1152 = s.reportBody ∧ bs.drop 1152 = attestSignature s.reportBody ∧
          u.regs = s.regs ∧ u.mem = s.mem ∧ u.dev = s.dev)) ∧
    (∀ bs ofs, s.sec.report = some (bs, ofs) →
      ∃ u, exec .attestDone s = .next u ∧ u.mem = memWrite s.mem (stagingBase + ofs) bs ∧
        u.sec = { s.sec with report := none } ∧
        u.reg rSecAttStatus = packFields [(16, min 65535 (bits (s.reg rSecAttStatus) 31 16 + 1))] ∧ u.d0 = s.d0 ∧
        u.d1 = s.d1 ∧ u.dev = s.dev)

/-- The firmware source, pushes and attestation (R536 to R541, R552 to R554). -/
def Obligations.FirmwareAndAttestation : Prop := Statements.FirmwareIsPushed ∧ Statements.AttestationReports

namespace Sys2Proof.Machine

/-- A write of SEC.OTP_CMD that reaches the operands' own checks (R548): admitted state, lock clear, nothing else in
progress, the key right. -/
structure OtpAdmitted (s : State) (cmd : Word) : Prop where
  dev : s.dev = .ready ∨ s.dev = .stopped
  lock : bit (s.reg rSecLock) 0 = false
  idle : s.loading = none ∧ s.sec.flashing = none ∧ s.sec.otp = none
  key : bits cmd 31 16 = 0x9E27

end Sys2Proof.Machine

/-- The OTP commands: each is refused by its state, the lock, work in progress and the key, in that order; PROVISION needs a
blank slot or the rest of the same hash, REVOKE another slot in use, the raises a higher value, RAISE_FW_SVN no value above
the running firmware's (R548, R549; the order is the model's choice, log entry 68). -/
def Sys2Proof.Statements.OtpCommandsAreChecked : Prop :=
  ∀ (s : State) (cmd : Word), s.host.d3 = false → s.accessCode rSecOtpCmd = 0 →
    (∀ c, (bits cmd 3 0 = 1 ∧ c = Instr.provision cmd) ∨ (bits cmd 3 0 = 2 ∧ c = Instr.revoke cmd) ∨
        (bits cmd 3 0 = 3 ∧ c = Instr.raiseSvn cmd) ∨ (bits cmd 3 0 = 4 ∧ c = Instr.raiseFwSvn cmd) →
      (s.dev ≠ .ready → s.dev ≠ .stopped → exec c s = .next (s.setField rSecOtpStatus 7 4 1)) ∧
      (s.dev = .ready ∨ s.dev = .stopped →
        (bit (s.reg rSecLock) 0 = true → exec c s = .next (s.setField rSecOtpStatus 7 4 2)) ∧
        (bit (s.reg rSecLock) 0 = false →
          (s.loading.isSome = true ∨ s.sec.flashing.isSome = true ∨ s.sec.otp.isSome = true →
            exec c s = .next (s.setField rSecOtpStatus 7 4 5)) ∧
          (s.loading = none → s.sec.flashing = none → s.sec.otp = none → bits cmd 31 16 ≠ 0x9E27 →
            exec c s = .next (s.setField rSecOtpStatus 7 4 6))))) ∧
    (OtpAdmitted s cmd → ∀ n k, n = bits cmd 5 4 → k = s.sec.slots.getD n KeySlot.blank →
      (bits cmd 3 0 = 1 →
        (k.provisioned = false → k.partlySet = false ∨ k.hash = s.otpData →
          exec (.provision cmd) s = .next { s with sec := { s.sec with otp := some (.provision n s.otpData) } }) ∧
        (k.provisioned = true ∨ (k.partlySet = true ∧ k.hash ≠ s.otpData) →
          exec (.provision cmd) s = .next (s.setField rSecOtpStatus 7 4 3))) ∧
      (bits cmd 3 0 = 2 →
        (k.provisioned = false → exec (.revoke cmd) s = .next (s.setField rSecOtpStatus 7 4 3)) ∧
        (k.provisioned = true →
          ((∃ m, m ≠ n ∧ (s.sec.slots.getD m KeySlot.blank).provisioned = true ∧
              (s.sec.slots.getD m KeySlot.blank).revoked = false) →
            exec (.revoke cmd) s = .next { s with sec := { s.sec with otp := some (.revoke n) } }) ∧
          ((∀ m, m ≠ n → (s.sec.slots.getD m KeySlot.blank).provisioned = false ∨
              (s.sec.slots.getD m KeySlot.blank).revoked = true) →
            exec (.revoke cmd) s = .next (s.setField rSecOtpStatus 7 4 4)))) ∧
      (bits cmd 3 0 = 3 →
        (k.minSvn < bits cmd 13 8 →
          exec (.raiseSvn cmd) s = .next { s with sec := { s.sec with otp := some (.raise n (bits cmd 13 8)) } }) ∧
        (bits cmd 13 8 ≤ k.minSvn → exec (.raiseSvn cmd) s = .next (s.setField rSecOtpStatus 7 4 3))) ∧
      (bits cmd 3 0 = 4 →
        (s.sec.vendorMin < bits cmd 13 8 → bits cmd 13 8 ≤ bits (s.reg rSecFwSvn) 5 0 →
          exec (.raiseFwSvn cmd) s = .next { s with sec := { s.sec with otp := some (.raiseFw (bits cmd 13 8)) } }) ∧
        (bits cmd 13 8 ≤ s.sec.vendorMin ∨ bits (s.reg rSecFwSvn) 5 0 < bits cmd 13 8 →
          exec (.raiseFwSvn cmd) s = .next (s.setField rSecOtpStatus 7 4 3))))

/-- OTP_DONE: the command in progress takes effect with RESULT 0; one that fails answers 7 and provisions no slot
(R548, R549; how far a failed write came is open, log entry 54). -/
def Sys2Proof.Statements.OtpCommandsEnd : Prop :=
  ∀ (s : State) (w : OtpWork), s.sec.otp = some w →
    (∃ u, exec (.otpDone true) s = .next u ∧ u.sec.otp = none ∧ bits (u.reg rSecOtpStatus) 7 4 = 0 ∧ u.mem = s.mem ∧
      u.dev = s.dev ∧
      (∀ n h, w = .provision n h → u.sec.slots.getD n KeySlot.blank =
        { s.sec.slots.getD n KeySlot.blank with hash := h, provisioned := true, partlySet := false }) ∧
      (∀ n, w = .revoke n → u.sec.slots.getD n KeySlot.blank =
        { s.sec.slots.getD n KeySlot.blank with revoked := true }) ∧
      (∀ n v, w = .raise n v → u.sec.slots.getD n KeySlot.blank =
        { s.sec.slots.getD n KeySlot.blank with minSvn := v }) ∧
      (∀ v, w = .raiseFw v → u.sec.vendorMin = v ∧ u.sec.slots = s.sec.slots) ∧
      (∀ m, (∀ n h, w = .provision n h → m ≠ n) → (∀ n, w = .revoke n → m ≠ n) → (∀ n v, w = .raise n v → m ≠ n) →
        u.sec.slots.getD m KeySlot.blank = s.sec.slots.getD m KeySlot.blank)) ∧
    (∃ u, exec (.otpDone false) s = .next u ∧ u.sec.otp = none ∧ bits (u.reg rSecOtpStatus) 7 4 = 7 ∧
      (∀ m, (u.sec.slots.getD m KeySlot.blank).provisioned = (s.sec.slots.getD m KeySlot.blank).provisioned) ∧
      u.mem = s.mem ∧ u.dev = s.dev)

/-- IDCODE and BYPASS of the test access port (R551; that BYPASS shifts one bit is presumed, log entry 70). -/
def Sys2Proof.Statements.TestPortShifts : Prop :=
  ∀ (s : State) (b : Bool), exec .idcode s = .next { s with out := s.out ++ [.jtag 32 0xB840054B] } ∧
    exec (.bypass b) s = .next { s with out := s.out ++ [.jtag 1 (if b then 1 else 0)] }

/-- BIST_GO is refused while a load or a run is in progress, outside READY and STOPPED, and for dies that are absent or gated;
else the run of its scope begins. BIST_DONE shows the result; a collision engine that failed its MBIST or LBIST is retired, at the
next boundary where the device runs; a failed common partition leaves the boot's error, the hub's leads from a run by command to
the safe state with no reset asserted (R541, R544 to R546; the order of the refusals is log entry 68). -/
def Sys2Proof.Statements.SelfTestRuns : Prop :=
  ∀ s : State,
    (∀ cmd : Word, s.host.d3 = false → s.accessCode rBistCmd = 0 → bit cmd 8 = true →
      (s.loading.isSome = true ∨ s.bist.run.isSome = true →
        exec (.bistGo cmd) s = .next ((s.rewrite rBistCmd (cmd &&& 0x37#32)).setField rBistStatus 7 4 3)) ∧
      (s.loading = none → s.bist.run = none →
        (s.dev ≠ .ready → s.dev ≠ .stopped →
          exec (.bistGo cmd) s = .next ((s.rewrite rBistCmd (cmd &&& 0x37#32)).setField rBistStatus 7 4 2)) ∧
        (s.dev = .ready ∨ s.dev = .stopped →
          (s.bistScopeOk (bits cmd 2 0) (bits cmd 5 4) = false →
            exec (.bistGo cmd) s = .next ((s.rewrite rBistCmd (cmd &&& 0x37#32)).setField rBistStatus 7 4 4)) ∧
          (s.bistScopeOk (bits cmd 2 0) (bits cmd 5 4) = true →
            exec (.bistGo cmd) s = .next { s.rewrite rBistCmd (cmd &&& 0x37#32) with
              bist := { s.bist with run := some ⟨bits cmd 2 0, bits cmd 5 4, 0⟩ } })))) ∧
    (∀ t ms macros n run, s.bist.run = some run →
      (run.by_ = 0 →
        (∃ u, exec (.bistDone t ms macros []) s = .next u ∧ u.bist.run = none ∧ u.dev = s.dev ∧ u.mem = s.mem ∧
          u.reg rBistStatus = packFields [(4, if macros = 0 then 0 else 1), (16, min 65535 ms)] ∧
          u.reg rBistFails = packFields [(8, min 255 macros)]) ∧
        (∀ f ∈ [(⟨1, 0, n, true⟩ : BistFail), ⟨1, 0, n, false⟩], n < 68 → run.dies / 2 % 2 = 1 →
          (if f.ram then run.kind % 2 = 1 else 2 ≤ run.kind) →
          ∃ u, exec (.bistDone t ms macros [f]) s = .next u ∧ u.bist.run = none ∧ bits (u.reg rBistStatus) 4 4 = 1 ∧
            u.bist.fails = (if 2 ≤ run.kind then (if f.ram then [] else [f]) else s.bist.fails) ∧
            u.dev = s.dev ∧ u.mem = s.mem ∧
            (s.dev = .boot ∨ s.dev = .ready ∨ s.dev = .stopped → (u.d0.ces.getD n CeUnit.idle).role = .retired) ∧
            (s.dev = .running ∨ s.dev = .hold ∨ s.dev = .faulted → s.d0.ces.length = 68 →
              (s.d0.ces.getD n CeUnit.idle).role ≠ .retired →
              (u.d0.ces.getD n CeUnit.idle).condemned = true ∧
                (u.d0.ces.getD n CeUnit.idle).role = (s.d0.ces.getD n CeUnit.idle).role)) ∧
        (∀ fails, s.dev ≠ .faulted → s.sys.inReset = false → run.dies % 2 = 1 → 2 ≤ run.kind →
          (⟨0, 6, 0, false⟩ : BistFail) ∈ fails →
          ∃ u, exec (.bistDone t ms macros fails) s = .next u ∧ EnteredSafe 12 s u ∧ u.bist.run = none)) ∧
      (run.by_ = 1 → ∀ fails, (∃ f ∈ fails, bistFinds run f = true ∧ f.ram = false ∧ 5 ≤ f.cls) →
        ∃ u, exec (.bistDone t ms macros fails) s = .next u ∧ bits (u.reg rSecBoot) 15 8 = 0xB ∧ u.bist.run = none ∧
          u.dev = s.dev ∧ u.mem = s.mem))

/-- The OTP, the self-test by command and the test access port (R541 to R551). -/
def Obligations.OtpSelfTestAndTestPort : Prop :=
  Statements.OtpCommandsAreChecked ∧ Statements.OtpCommandsEnd ∧ Statements.TestPortShifts ∧ Statements.SelfTestRuns

/-! ### Loading a Structure Image (R313 to R319) -/

namespace Sys2Proof.Machine

/-- A load `l` whose checks 1 to 12 have passed with the image `i` (R315 steps 5 and 6, R317, R319): `c` is the state with what the
step has met counted, `v` the check at which it met an uncorrectable error, 0 for none. -/
structure LoadGoesOn (s c : State) (us : Nat) (met : LoadStep) (l : Loading) (i : Image) (v : Nat) : Prop where
  waits : met.reach ≤ 5 → exec (.imageCommit us met) s =
    .next { c with loading := some { l with step := max l.step met.reach, kept := some i } }
  places : l.step = 6 ∨ (v ≠ 13 ∧ sha256 (signedMessage (s.load l.src l.len) (fieldU l.bytes 0xC 4)) = i.digest) → met.reach = 6 →
    ∃ u, exec (.imageCommit us met) s = .next u ∧ u.loading = some { l with step := 6, kept := some i } ∧
      u.image = s.image ∧ u.damaged = s.damaged ∧ u.dev = s.dev ∧
      ∀ a, a < 0x400000000000 → memByte u.mem a = memByte s.mem a
  commits : l.step = 6 ∨ (v ≠ 13 ∧ sha256 (signedMessage (s.load l.src l.len) (fieldU l.bytes 0xC 4)) = i.digest) → 7 ≤ met.reach →
    ∃ u, exec (.imageCommit us met) s = .next u ∧ u.loading = none ∧ u.image = some i ∧ u.damaged = false ∧
      u.dev = (if s.dev = .ready then .stopped else s.dev) ∧ u.reg rStructStatus = 0 ∧
      u.reg rStructLoads = satAddWord (s.reg rStructLoads) 1 ∧
      u.reg (rHaulEgGeom i.streams.planChan) = u.egGeom i.streams.planChan ∧ u.world = s.world ∧ u.tick = s.tick ∧
      ∀ a, a < 0x400000000000 → memByte u.mem a = memByte s.mem a
  fails : l.step ≠ 6 → v = 13 ∨ sha256 (signedMessage (s.load l.src l.len) (fieldU l.bytes 0xC 4)) ≠ i.digest → 6 ≤ met.reach →
    ∃ u, exec (.imageCommit us met) s = .next u ∧ u.loading = none ∧ u.image = s.image ∧ u.damaged = true ∧
      u.reg rStructStatus = packFields [(8, if v = 13 then 0xE else 0xF)] ∧ u.dev = s.dev ∧
      ∀ a, a < 0x400000000000 → memByte u.mem a = memByte s.mem a

end Sys2Proof.Machine

/-- LOAD, with the registers that name its source sound, begins in READY and STOPPED, once. IMAGE_COMMIT brings the load to a
step or to its end, once its source lies below the front of the initialisation, and counts the corrected errors of its reads:
pass 1 reads the bytes that the checks after the fifth look at; a failing check leaves the image in force as it was and records
its code, section and item; checks 1 to 12 that have passed are not made again; an image that passes takes effect whole and
leads from READY to STOPPED; an error met while its contents are written, in pass 2, leaves the old image in force, marked
damaged; no byte of DRAM changes (R313 to R319, R358, R359). Which step reads what a check looks at, and the step at which a
failing one ends the load, are the model's choice (log entries 73, 74 and 118). -/
def Obligations.ImageIsLoadedWhole : Prop :=
  ∀ s : State,
    (s.host.d3 = false → s.accessCode rStructCtrl = 0 →
      (s.loading.isSome = true → exec .load s = .next s) ∧
      (s.loading = none → s.dev = .ready ∨ s.dev = .stopped → s.soundAt [rStructSrcLo, rStructSrcHi, rStructLen] = true →
        ∃ u l, exec .load s = .next u ∧ u.loading = some l ∧ l.src = s.pair rStructSrcLo rStructSrcHi ∧
          l.len = (s.reg rStructLen).toNat ∧ l.step = 1 ∧ l.kept = none ∧
          (s.sourceOk l.src l.len = true → l.bytes = s.load l.src (max l.len 0x140)) ∧
          u.image = s.image ∧ u.mem = s.mem ∧ u.dev = s.dev) ∧
      (s.loading = none → s.dev ≠ .ready → s.dev ≠ .stopped →
        exec .load s = .next (s.setReg rStructStatus (packFields [(8, 1)])))) ∧
    (∀ us met l, s.loading = some l → s.sourceOk l.src l.len = true → s.stalled [(l.src, l.len)] ≠ [] →
      exec (.imageCommit us met) s = .next (s.noteStalls (s.stalled [(l.src, l.len)]))) ∧
    (∀ us met l0 c v l, s.loading = some l0 → s.sourceOk l0.src l0.len = false ∨ s.stalled [(l0.src, l0.len)] = [] →
      c = s.when (!s.gated .s0) (fun s => s.countDramCe .s0 met.ce) → v = c.loadUe l0 met →
      (∀ i, l0.kept = some i → LoadGoesOn s c us met l0 i v) ∧
      (l0.kept = none → l = c.passOne l0 v met.reach →
        (l0.step = 1 → 2 ≤ met.reach → (∀ code sec item, c.checkLoad l0 v = .error (code, sec, item) → failStep code v ≠ 1) →
          l.bytes = s.load l0.src (max l0.len 0x140)) ∧
        (l0.step ≠ 1 ∨ met.reach ≤ 1 → l = l0) ∧
        (∀ code sec item, c.checkLoad l v = .error (code, sec, item) →
          (met.reach ≤ failStep code v → exec (.imageCommit us met) s =
            .next { c with loading := some { l with step := max l.step (min 6 met.reach) } }) ∧
          (failStep code v < met.reach →
            ∃ u, exec (.imageCommit us met) s = .next u ∧ u.loading = none ∧ u.image = s.image ∧
              u.damaged = s.damaged ∧ u.reg rStructStatus = packFields [(8, code), (16, sec % 256)] ∧
              u.reg rStructErrItem = BitVec.ofNat 32 (item % 65536) ∧ u.dev = s.dev ∧ u.mem = s.mem)) ∧
        (∀ i, c.checkLoad l v = .ok i →
          (met.reach ≤ 4 → exec (.imageCommit us met) s =
            .next { c with loading := some { l with step := max l.step met.reach } }) ∧
          (5 ≤ met.reach → LoadGoesOn s c us met l i v))))

/-! ### The Tally log and the service ports (R519 to R528, R604) -/

/-- TALLY_PROGRAM programs the oldest staged entry with its link in the slot of its SEQ and begins the erase of the next sector
where it enters a new one; what was lost is reported once there is room, behind what was suppressed before it; SECTOR_ERASE ends
an erase and counts it; a token comes back up to 4,096; a loss of power writes what it can and a POWER_LOSS entry last (R519 to
R525; that SUPPRESSED comes before LOST, and what POWER_LOSS writes in which order, is the model's choice, log entries 75 and
76). -/
def Sys2Proof.Statements.LogIsWritten : Prop :=
  ∀ s : State,
    (∀ e rest, s.tally.staged = e :: rest → s.tally.ready = true → s.tally.erasing ≠ some (tallySector e.seq) →
      ∃ u, exec .tallyProgram s = .next u ∧
        u.tally.link = (sha256 (s.tally.link ++ e.bytes)).take 8 ∧
        ((∀ x ∈ s.tally.written, x.1 < e.seq) → u.tally.written.head? = some (e.seq, e.bytes ++ u.tally.link)) ∧
        (s.tally.entered e.seq = false → u.tally.erasing = some ((tallySector e.seq + 1) % 32) ∧
          ∀ x, x ∈ u.tally.written ↔ x = (e.seq, e.bytes ++ u.tally.link) ∨ (x ∈ s.tally.written ∧
            tallySector x.1 ≠ tallySector e.seq ∧ tallySector x.1 ≠ (tallySector e.seq + 1) % 32)) ∧
        (s.tally.entered e.seq = true → u.tally.erasing = s.tally.erasing ∧
          ∀ x, x ∈ u.tally.written ↔ x = (e.seq, e.bytes ++ u.tally.link) ∨
            (x ∈ s.tally.written ∧ (x.1 - 1) % 32768 ≠ (e.seq - 1) % 32768)) ∧
        (s.tally.lost = 0 → u.tally.staged = rest ∧ u.regs = s.regs) ∧
        (s.tally.lost ≠ 0 → s.tally.supp.1 = 0 → rest.length < 4096 → u.tally.lost = 0 ∧
          ∃ x : TallyEntry, u.tally.staged = rest ++ [x] ∧ x.seq = s.tally.nextSeq ∧ fieldU x.bytes 0x18 2 = 4) ∧
        (s.tally.lost ≠ 0 → s.tally.supp.1 ≠ 0 → rest.length < 4095 → u.tally.lost = 0 ∧ u.tally.supp.1 = 0 ∧
          ∃ y x : TallyEntry, u.tally.staged = rest ++ [y, x] ∧ y.seq = s.tally.nextSeq ∧ fieldU y.bytes 0x18 2 = 3 ∧
            x.seq = s.tally.nextSeq + 1 ∧ fieldU x.bytes 0x18 2 = 4) ∧
        u.mem = s.mem ∧ u.dev = s.dev) ∧
    (∀ e rest, s.tally.staged = e :: rest → s.tally.erasing = some (tallySector e.seq) →
      exec .tallyProgram s = .next s) ∧
    (∀ k, s.tally.erasing = some k →
      ∃ u, exec .sectorErase s = .next u ∧ u.tally.erasing = none ∧ u.tally.erases.getD k 0 = s.tally.erases.getD k 0 + 1 ∧
        (∀ j, j ≠ k → u.tally.erases.getD j 0 = s.tally.erases.getD j 0) ∧ u.tally.written = s.tally.written) ∧
    exec .token s = .next { s with tally := { s.tally with tokens := min 4096 (s.tally.tokens + 1) } } ∧
    (∀ t, s.tally.ready = true →
      ∃ u bs, exec (.powerLoss t) s = .next u ∧ u.tally.staged = [] ∧
        (s.tally.nextSeq, bs) ∈ u.tally.written ∧ fieldU bs 0x18 2 = 2 ∧ u.mem = s.mem ∧ u.dev = s.dev ∧
        ((∀ x ∈ s.tally.written, x.1 < s.tally.nextSeq) → (∀ e ∈ s.tally.staged, e.seq < s.tally.nextSeq) →
          u.tally.written.head? = some (s.tally.nextSeq, bs)) ∧
        (s.tally.staged.length ≤ 7 → (∀ e ∈ s.tally.staged, e.sev ≤ 2) → fieldU bs 0x20 4 = 0) ∧
        ∀ e, s.tally.staged = [e] → 1 ≤ e.seq → e.seq + 1 = s.tally.nextSeq →
          (e.seq, e.bytes ++ (sha256 (s.tally.link ++ e.bytes)).take 8) ∈ u.tally.written)

/-- RD_SEQ shows the entry it names, or zeros with RESULT 1 for one no longer held, 2 for one not yet written and 3 for one
whose read met an uncorrectable error; DUMP begins where the entries fit in S0's usable DRAM, and DUMP_DONE stores them in
SEQ order (the TALLY registers, R526, R527; which RESULT of RD_SEQ tells of what is log entry 75). -/
def Sys2Proof.Statements.LogIsRead : Prop :=
  ∀ s : State,
    (∀ (lo : Word) q, s.host.d3 = false → s.accessCode rTallyRdSeqLo = 0 →
      q = lo.toNat + 4294967296 * (s.reg rTallyRdSeqHi).toNat →
      (∀ e, (s.tally.written.find? fun e => e.1 == q) = some e →
        (∃ u, exec (.rdSeq lo false) s = .next u ∧ u.reg rTallyRdStatus = 0 ∧ u.reg rTallyRdSeqLo = lo ∧
          (∀ n, n < 16 → u.reg (rTallyRd n) = BitVec.ofNat 32 (fieldU e.2 (4 * n) 4)) ∧ u.tally = s.tally) ∧
        (∃ u, exec (.rdSeq lo true) s = .next u ∧ bits (u.reg rTallyRdStatus) 2 1 = 3 ∧
          (∀ n, n < 16 → u.reg (rTallyRd n) = 0) ∧ (u.reg rTallyEvents).getLsbD 7 = true ∧ u.tally = s.tally)) ∧
      ((s.tally.written.find? fun e => e.1 == q) = none → ∀ ue,
        ∃ u, exec (.rdSeq lo ue) s = .next u ∧
          bits (u.reg rTallyRdStatus) 2 1 = (if s.tally.head < q then 2 else 1) ∧
          (∀ n, n < 16 → u.reg (rTallyRd n) = 0) ∧ u.tally = s.tally)) ∧
    (∀ dst, s.host.d3 = false → s.accessCode rTallyDumpCtrl = 0 → dst = s.pair rTallyDumpDstLo rTallyDumpDstHi →
      (s.tally.dumping.isSome = true → exec .dump s = .next s) ∧
      (s.tally.dumping = none →
        (dst + 64 * s.tally.written.length ≤ s.usable .s0 →
          exec .dump s = .next { s with tally := { s.tally with dumping := some (dst, s.tally.written.reverse) } }) ∧
        (s.usable .s0 < dst + 64 * s.tally.written.length → exec .dump s = .next (s.event rTallyEvents 6)))) ∧
    (∀ dst es, s.tally.dumping = some (dst, es) →
      ∃ u, exec .dumpDone s = .next u ∧ u.mem = (s.store dst (es.flatMap fun e => e.2)).mem ∧
        u.tally = { s.tally with dumping := none } ∧ u.reg rTallyDumpCount = BitVec.ofNat 32 es.length ∧
        (u.reg rTallyEvents).getLsbD 5 = true ∧ u.dev = s.dev)

/-- The SMBus target answers a Block Read with four bytes of the register and their PEC from the release of the power-on reset
on, and the Alert Response Address while SM_ALERT_N is low; otherwise nothing (R604; the PEC's form is presumed, log entry 12). -/
def Sys2Proof.Statements.SmbusAnswers : Prop :=
  ∀ s : State,
    (∀ (c : Instr) (cmd : Byte) (o : Nat), (c, cmd, o) ∈ [(Instr.smbId, 0x10#8, rGlbId), (.smbState, 0x11#8, rGlbState),
        (.smbTemp, 0x12#8, rDeputyTemp), (.smbRails, 0x13#8, rClkpwrRails), (.smbTallyHead, 0x14#8, rTallyHeadSeqLo)] →
      (s.sys.porHeld = false →
        exec c s = .next { s with out := s.out ++ [.smbus ([4] ++ leBytes 4 (s.peek o).toNat ++
          [smbPec ([0xB4, cmd, 0xB5, 4] ++ leBytes 4 (s.peek o).toNat)])] }) ∧
      (s.sys.porHeld = true → exec c s = .next s)) ∧
    (s.sys.porHeld = false → s.dep.thermLow = true ∨ s.dev = .faulted →
      exec .smbAra s = .next { s with out := s.out ++ [.smbus [0x5A]] }) ∧
    (s.sys.porHeld = true ∨ (s.dep.thermLow = false ∧ s.dev ≠ .faulted) → exec .smbAra s = .next s)

/-- The Tally log and the SMBus target (R519 to R528, R604). -/
def Obligations.TallyLogAndSmbus : Prop := Statements.LogIsWritten ∧ Statements.LogIsRead ∧ Statements.SmbusAnswers
end

