-- ==== Sys2Proof/Laws/Framed.lean ====
section
/-! SUPPORT. How frames compose: what a chain of operations leaves alone. Laws/Frame<File>.lean says of each operation of
Machine/<File>.lean, and of each command's meaning there, which parts of the state it can change. -/

set_option Elab.async false

namespace Sys2Proof
open Sys2Proof.Machine

theorem Framed.refl {ps : List Part} (s : State) : Framed ps s s := by
  intro p _; cases p <;> first | rfl | exact ⟨rfl, rfl⟩

theorem Part.same_trans {p : Part} {r s t : State} (h : p.same r s) (k : p.same s t) : p.same r t := by
  cases p <;> first | exact Eq.trans k h | exact ⟨k.1.trans h.1, k.2.trans h.2⟩

/-- An update of some fields changes the parts they make. -/
theorem Framed.upd {ps : List Part} {z y : State}
    {a1 : Nat} {a2 : Dev} {a3 : Nat} {a4 : Bool} {a5 : Option Nat} {a6 : DWord} {a7 : List (Nat × Word)} {a8 : List (Nat ×
    Word)} {a9 : List ShPend} {a10 : List BadReg} {a11 : List Host.Cell} {a12 : Sys} {a13 : Tick} {a14 : Plan} {a15
    : World} {a16 : DieState} {a17 : DieState} {a18 : Option Image} {a19 : Bool} {a20 : Option Loading} {a21 : List
    Chan} {a22 : HostPort} {a23 : Klink} {a24 : Deputy} {a25 : Tally} {a26 : Sec} {a27 : Bist} {a28 : Power} {a29 :
    List Output}
    (hy : Framed ps z y)
    (hp : ∀ p, p ∉ ps → p.same y (State.mk y.pending a1 a2 a3 a4 a5 a6 a7 a8 a9 a10 a11 a12 a13 a14 a15 a16 a17 a18
      a19 a20 a21 a22 a23 a24 a25 a26 a27 a28 a29)) :
    Framed ps z (State.mk y.pending a1 a2 a3 a4 a5 a6 a7 a8 a9 a10 a11 a12 a13 a14 a15 a16 a17 a18 a19 a20 a21 a22
      a23 a24 a25 a26 a27 a28 a29) := fun p h => Part.same_trans (hy p h) (hp p h)

theorem cutL {p q : Prop} (h : p) (k : p → q) : q := k h

/-- A list of parts that a longer one holds. -/
theorem Framed.sub {a b c : List Part} (h : b ⊆ c) (k : a ⊆ b := by decide) : a ⊆ c := List.Subset.trans k h

theorem Framed.ite {ps : List Part} {z s t : State} {c : Prop} [Decidable c] (hs : Framed ps z s) (ht : Framed ps z t) :
    Framed ps z (if c then s else t) := by
  split
  · exact hs
  · exact ht

theorem Framed.foldl {α : Type} {ps : List Part} {z s : State} {f : State → α → State} {l : List α}
    (hs : Framed ps z s) (hf : ∀ (t : State), Framed ps z t → ∀ a, Framed ps z (f t a)) : Framed ps z (l.foldl f s) := by
  induction l generalizing s with
  | nil => exact hs
  | cons a l ih => exact ih (hf s hs a)

namespace Machine

theorem State.when_framed {ps : List Part} {z s : State} {c : Bool} {f : State → State} (hs : Framed ps z s)
    (hf : ∀ t, Framed ps z t → Framed ps z (f t)) : Framed ps z (s.when c f) := by
  unfold State.when
  split
  · exact hf s hs
  · exact hs

theorem State.setDie_framed {ps : List Part} (h : [Part.dies] ⊆ ps) {z s : State} {d : Die} {x : DieState}
    (hs : Framed ps z s) (hx : .slices ∉ ps → x.sliceOv = (z.die d).sliceOv) : Framed ps z (s.setDie d x) := by
  intro p hp
  cases d <;> cases p <;> first
    | exact absurd (h (by decide)) hp
    | exact ⟨hx hp, (hs _ hp).2⟩
    | exact ⟨(hs _ hp).1, hx hp⟩
    | exact hs _ hp

/-- An outcome whose next state differs from `z` in the listed parts at most. -/
def OutFramed (ps : List Part) (z : State) (o : Out) : Prop := ∀ t, o = .next t → Framed ps z t

theorem OutFramed.next {ps : List Part} {z s : State} (hs : Framed ps z s) : OutFramed ps z (.next s) := by
  intro t h
  cases h
  exact hs

theorem OutFramed.named {ps : List Part} {z s : State} {b : Bool} (hs : Framed ps z s) :
    OutFramed ps z (whenNamed b s) := by
  unfold whenNamed
  split
  · exact OutFramed.next hs
  · intro t h
    cases h

theorem OutFramed.fault {ps : List Part} {z : State} {r : Fault} : OutFramed ps z (.fault r) := by
  intro t h
  cases h

theorem Framed.die {ps : List Part} {z s : State} (hs : Framed ps z s) (h : .slices ∉ ps) (d : Die) :
    (s.die d).sliceOv = (z.die d).sliceOv := by
  cases d
  · exact (hs _ h).1
  · exact (hs _ h).2

end Machine
end Sys2Proof
end

