-- ==== Sys2Proof/Laws/Die.lean ====
section
/-! SUPPORT. No operation on a die's units touches its world-slice bytes. -/

set_option Elab.async false

namespace Sys2Proof.Machine
open Sys2Proof

@[simp] theorem DieState.mapCe_sliceOv (x : DieState) (p : Nat) (f : CeUnit → CeUnit) :
    (x.mapCe p f).sliceOv = x.sliceOv := rfl

@[simp] theorem fillIndex_sliceOv (x : DieState) (l : Nat) : (fillIndex x l).1.sliceOv = x.sliceOv := by
  unfold fillIndex
  split
  · rfl
  · split <;> rfl

@[simp] theorem DieState.applyPool_sliceOv (x : DieState) : x.applyPool.sliceOv = x.sliceOv := by
  have fill : ∀ (ls : List Nat) (y : DieState), (ls.foldl (fun y l => (fillIndex y l).1) y).sliceOv = y.sliceOv := by
    intro ls
    induction ls with
    | nil => exact fun _ => rfl
    | cons l ls ih => exact fun y => (ih _).trans (fillIndex_sliceOv y l)
  exact fill _ _

@[simp] theorem DieState.takeService_sliceOv (x : DieState) : x.takeService.sliceOv = x.sliceOv :=
  DieState.applyPool_sliceOv _

@[simp] theorem DieState.retireUnit_sliceOv (x : DieState) (cls inst : Nat) :
    (x.retireUnit cls inst).sliceOv = x.sliceOv := by
  unfold DieState.retireUnit
  split <;> rfl

@[simp] theorem DieState.giveIndex_sliceOv (x : DieState) (l : Nat) : (x.giveIndex l).1.sliceOv = x.sliceOv := by
  unfold DieState.giveIndex
  split <;> rfl

@[simp] theorem DieState.retireOthers_sliceOv (x : DieState) : x.retireOthers.sliceOv = x.sliceOv := rfl

@[simp] theorem DieState.newTick_sliceOv (x : DieState) (pool : Nat) : (x.newTick pool).sliceOv = x.sliceOv := rfl

@[simp] theorem DieState.sliceResult_sliceOv (x : DieState) (cls unit : Nat) (passed : Bool) :
    (x.sliceResult cls unit passed).sliceOv = x.sliceOv := by
  unfold DieState.sliceResult
  dsimp only
  split <;> rfl

@[simp] theorem DieState.unpower_sliceOv (x : DieState) (forced : Bool) : (x.unpower forced).sliceOv = x.sliceOv := rfl

@[simp] theorem DieState.loseClock_sliceOv (x : DieState) (live : Bool) : (x.loseClock live).sliceOv = x.sliceOv := rfl

/-- A chain of changes of which none touches the world-slice bytes. -/
theorem foldl_sliceOv {α : Type} {f : DieState → α → DieState} (hf : ∀ x a, (f x a).sliceOv = x.sliceOv) (l : List α)
    (x : DieState) : (l.foldl f x).sliceOv = x.sliceOv := by
  induction l generalizing x with
  | nil => rfl
  | cons a l ih => exact (ih _).trans (hf x a)

@[simp] theorem DieState.retireCes_sliceOv (x : DieState) (gone : List Nat) : (x.retireCes gone).sliceOv = x.sliceOv :=
  foldl_sliceOv (fun y p => DieState.mapCe_sliceOv y p _) _ _

@[simp] theorem DieState.giveAll_sliceOv (x : DieState) (free : List Nat) : (x.giveAll free).sliceOv = x.sliceOv :=
  foldl_sliceOv (fun x l => DieState.giveIndex_sliceOv x l) _ _

@[simp] theorem DieState.changeCes_sliceOv (x : DieState) (gone : List Nat) (due : Bool) :
    (x.changeCes gone due).sliceOv = x.sliceOv := by
  unfold DieState.changeCes
  extract_lets y free
  split
  · simp [y]
  · split
    · simp [y]
    · dsimp only
      split <;> split <;> simp [y]

@[simp] theorem DieState.condemnUnit_sliceOv (x : DieState) (cls inst : Nat) :
    (x.condemnUnit cls inst).sliceOv = x.sliceOv := by
  unfold DieState.condemnUnit
  split <;> rfl

@[simp] theorem DieState.condemnUnits_sliceOv (x : DieState) (fails : List BistFail) :
    (x.condemnUnits fails).sliceOv = x.sliceOv := foldl_sliceOv (fun x _ => DieState.condemnUnit_sliceOv x _ _) _ _

@[simp] theorem DieState.dropUnits_sliceOv (x : DieState) (fails : List BistFail) :
    (x.dropUnits fails).sliceOv = x.sliceOv := by
  refine foldl_sliceOv (fun x f => ?_) _ _
  split
  · rfl
  · exact DieState.retireUnit_sliceOv _ _ _

end Sys2Proof.Machine
end

