-- ==== Sys2Proof/Laws/FrameOps.lean ====
section
/-! SUPPORT. The parts of the state that the operations of Machine/Ops.lean can change. -/

set_option Elab.async false
set_option linter.unusedTactic false
set_option linter.unreachableTactic false
set_option linter.unusedVariables false
set_option linter.tactic.unusedName false

namespace Sys2Proof.Machine
open Sys2Proof

theorem State.setReg_framed {ps : List Part} (h : [Part.regs] ⊆ ps) {z s : State} {o : Nat} {v : Word}
    (hs : Framed ps z s) : Framed ps z (State.setReg s o v) := by
  unfold State.setReg
  repeat' (first
    | with_reducible assumption
    | (fail_if_no_progress extract_lets +onlyGivenNames x
       refine cutL (p := Framed ps z x) ?_ ?_; subst x; rotate_left; intro hs; try clear_value x; rotate_right)
    | (fail_if_no_progress extract_lets +onlyGivenNames x
       first
       | (have hd : List _ := x; clear hd; clear_value x)
       | (have hd : Bool := x; clear hd; clear_value x)
       | (have hd : Nat := x; clear hd; clear_value x)
       | subst x)
    | fail_if_no_progress beta_reduce
    | with_reducible refine Framed.ite ?_ ?_
    | split
    | ((with_reducible refine Framed.upd ?_ ?_); rotate_left; intro p hp; cases p <;> first | exact absurd (h (by decide)) hp | rfl | exact ⟨rfl, rfl⟩))

theorem State.event_framed {ps : List Part} (h : [Part.regs] ⊆ ps) {z s : State} {o : Nat} {n : Nat}
    (hs : Framed ps z s) : Framed ps z (State.event s o n) := by
  unfold State.event
  repeat' (first
    | with_reducible assumption
    | with_reducible refine State.setReg_framed (Framed.sub h) ?_)

theorem State.count_framed {ps : List Part} (h : [Part.regs] ⊆ ps) {z s : State} {o : Nat} {n : Nat}
    (hs : Framed ps z s) : Framed ps z (State.count s o n) := by
  unfold State.count
  repeat' (first
    | with_reducible assumption
    | with_reducible refine State.setReg_framed (Framed.sub h) ?_)

theorem State.setField_framed {ps : List Part} (h : [Part.regs] ⊆ ps) {z s : State} {o : Nat} {hi : Nat} {lo : Nat} {v : Nat}
    (hs : Framed ps z s) : Framed ps z (State.setField s o hi lo v) := by
  unfold State.setField
  repeat' (first
    | with_reducible assumption
    | with_reducible refine State.setReg_framed (Framed.sub h) ?_)

theorem State.setPair_framed {ps : List Part} (h : [Part.regs] ⊆ ps) {z s : State} {lo : Nat} {hi : Nat} {v : Nat}
    (hs : Framed ps z s) : Framed ps z (State.setPair s lo hi v) := by
  unfold State.setPair
  repeat' (first
    | with_reducible assumption
    | with_reducible refine State.setReg_framed (Framed.sub h) ?_)

theorem State.setBoth_framed {ps : List Part} (h : [Part.regs] ⊆ ps) {z s : State} {o : Die → Nat} {v : Word}
    (hs : Framed ps z s) : Framed ps z (State.setBoth s o v) := by
  unfold State.setBoth
  repeat' (first
    | with_reducible assumption
    | with_reducible refine State.setReg_framed (Framed.sub h) ?_)

theorem State.advance_framed {ps : List Part} (h : [Part.now] ⊆ ps) {z s : State} {t : Nat}
    (hs : Framed ps z s) : Framed ps z (State.advance s t) := by
  unfold State.advance
  repeat' (first
    | with_reducible assumption
    | (fail_if_no_progress extract_lets +onlyGivenNames x
       refine cutL (p := Framed ps z x) ?_ ?_; subst x; rotate_left; intro hs; try clear_value x; rotate_right)
    | (fail_if_no_progress extract_lets +onlyGivenNames x
       first
       | (have hd : List _ := x; clear hd; clear_value x)
       | (have hd : Bool := x; clear hd; clear_value x)
       | (have hd : Nat := x; clear hd; clear_value x)
       | subst x)
    | fail_if_no_progress beta_reduce
    | with_reducible refine Framed.ite ?_ ?_
    | split
    | ((with_reducible refine Framed.upd ?_ ?_); rotate_left; intro p hp; cases p <;> first | exact absurd (h (by decide)) hp | rfl | exact ⟨rfl, rfl⟩))

theorem State.freeWord_framed {ps : List Part} (h : [Part.free] ⊆ ps) {z s : State}
    (hs : Framed ps z s) : Framed ps z (State.freeWord s).2 := by
  unfold State.freeWord
  repeat' (first
    | with_reducible assumption
    | (fail_if_no_progress extract_lets +onlyGivenNames x
       refine cutL (p := Framed ps z x) ?_ ?_; subst x; rotate_left; intro hs; try clear_value x; rotate_right)
    | (fail_if_no_progress extract_lets +onlyGivenNames x
       first
       | (have hd : List _ := x; clear hd; clear_value x)
       | (have hd : Bool := x; clear hd; clear_value x)
       | (have hd : Nat := x; clear hd; clear_value x)
       | subst x)
    | fail_if_no_progress beta_reduce
    | with_reducible refine Framed.ite ?_ ?_
    | split
    | ((with_reducible refine Framed.upd ?_ ?_); rotate_left; intro p hp; cases p <;> first | exact absurd (h (by decide)) hp | rfl | exact ⟨rfl, rfl⟩))

theorem State.freeWord_framed_eq {ps : List Part} (h : [Part.free] ⊆ ps) {z s tt : State} {pr : Word}
    (he : (State.freeWord s) = (pr, tt)) (hs : Framed ps z s) : Framed ps z tt := by
  have := State.freeWord_framed h hs
  rw [he] at this; exact this

theorem State.freeBytes_framed {ps : List Part} (h : [Part.free] ⊆ ps) {z s : State} {n : Nat} (hs : Framed ps z s) :
    Framed ps z (s.freeBytes n).2 := by
  induction n generalizing s with
  | zero => exact hs
  | succ n ih => exact ih (State.freeWord_framed h hs)

theorem State.freeBytes_framed_eq {ps : List Part} (h : [Part.free] ⊆ ps) {z s tt : State} {pr : List Byte} {n : Nat}
    (he : s.freeBytes n = (pr, tt)) (hs : Framed ps z s) : Framed ps z tt := by
  have := State.freeBytes_framed (n := n) h hs
  rw [he] at this; exact this

theorem State.emit_framed {ps : List Part} (h : [Part.out] ⊆ ps) {z s : State} {o : Output}
    (hs : Framed ps z s) : Framed ps z (State.emit s o) := by
  unfold State.emit
  repeat' (first
    | with_reducible assumption
    | (fail_if_no_progress extract_lets +onlyGivenNames x
       refine cutL (p := Framed ps z x) ?_ ?_; subst x; rotate_left; intro hs; try clear_value x; rotate_right)
    | (fail_if_no_progress extract_lets +onlyGivenNames x
       first
       | (have hd : List _ := x; clear hd; clear_value x)
       | (have hd : Bool := x; clear hd; clear_value x)
       | (have hd : Nat := x; clear hd; clear_value x)
       | subst x)
    | fail_if_no_progress beta_reduce
    | with_reducible refine Framed.ite ?_ ?_
    | split
    | ((with_reducible refine Framed.upd ?_ ?_); rotate_left; intro p hp; cases p <;> first | exact absurd (h (by decide)) hp | rfl | exact ⟨rfl, rfl⟩))

theorem State.irq_framed {ps : List Part} (h : [Part.host, .out] ⊆ ps) {z s : State} {v : Nat}
    (hs : Framed ps z s) : Framed ps z (State.irq s v) := by
  unfold State.irq
  repeat' (first
    | with_reducible assumption
    | with_reducible refine State.emit_framed (Framed.sub h) ?_
    | with_reducible refine Framed.ite ?_ ?_
    | split
    | ((with_reducible refine Framed.upd ?_ ?_); rotate_left; intro p hp; cases p <;> first | exact absurd (h (by decide)) hp | rfl | exact ⟨rfl, rfl⟩))

theorem State.broadcastSlice_framed {ps : List Part} (h : [Part.mem, .slices] ⊆ ps) {z s : State} {d : Die} {o : Nat}
    {cells : List Byte} (hs : Framed ps z s) : Framed ps z (s.broadcastSlice d o cells) := by
  intro p hp
  cases d <;> cases p <;> first | exact absurd (h (by decide)) hp | exact hs _ hp

theorem State.writeSlice_framed {ps : List Part} (h : [Part.slices] ⊆ ps) {z s : State} {d : Die} {w : Nat}
    {data : List Byte} (hs : Framed ps z s) : Framed ps z (s.writeSlice d w data) := by
  intro p hp
  cases d <;> cases p <;> first | exact absurd (h (by decide)) hp | exact hs _ hp

theorem State.store_framed {ps : List Part} (h : [Part.mem, .slices] ⊆ ps) {z s : State} {a : Nat} {data : List Byte}
    (hs : Framed ps z s) : Framed ps z (State.store s a data) := by
  unfold State.store
  repeat' (first
    | with_reducible assumption
    | with_reducible refine State.writeSlice_framed (Framed.sub h) ?_
    | (fail_if_no_progress extract_lets +onlyGivenNames x
       refine cutL (p := Framed ps z x) ?_ ?_; subst x; rotate_left; intro hs; try clear_value x; rotate_right)
    | (fail_if_no_progress extract_lets +onlyGivenNames x
       first
       | (have hd : List _ := x; clear hd; clear_value x)
       | (have hd : Bool := x; clear hd; clear_value x)
       | (have hd : Nat := x; clear hd; clear_value x)
       | subst x)
    | fail_if_no_progress beta_reduce
    | with_reducible refine Framed.ite ?_ ?_
    | split
    | ((with_reducible refine Framed.upd ?_ ?_); rotate_left; intro p hp; cases p <;> first | exact absurd (h (by decide)) hp | rfl | exact ⟨rfl, rfl⟩))

theorem State.storeWin_framed {ps : List Part} (h : [Part.mem, .slices] ⊆ ps) {z s : State} {d : Die} {o : Nat} {data : List Byte}
    (hs : Framed ps z s) : Framed ps z (State.storeWin s d o data) := by
  unfold State.storeWin
  repeat' (first
    | with_reducible assumption
    | with_reducible refine State.store_framed (Framed.sub h) ?_)

theorem State.tallyPush_framed {ps : List Part} (h : [Part.regs, .host, .tally, .out] ⊆ ps) {z s : State} {sev : Nat} {code : Nat} {source : Nat} {data : List Byte}
    (hs : Framed ps z s) : Framed ps z (State.tallyPush s sev code source data) := by
  unfold State.tallyPush
  repeat' (first
    | with_reducible assumption
    | with_reducible refine State.event_framed (Framed.sub h) ?_
    | with_reducible refine State.irq_framed (Framed.sub h) ?_
    | (fail_if_no_progress extract_lets +onlyGivenNames x
       refine cutL (p := Framed ps z x) ?_ ?_; subst x; rotate_left; intro hs; try clear_value x; rotate_right)
    | (fail_if_no_progress extract_lets +onlyGivenNames x
       first
       | (have hd : List _ := x; clear hd; clear_value x)
       | (have hd : Bool := x; clear hd; clear_value x)
       | (have hd : Nat := x; clear hd; clear_value x)
       | subst x)
    | fail_if_no_progress beta_reduce
    | with_reducible refine Framed.ite ?_ ?_
    | split
    | ((with_reducible refine Framed.upd ?_ ?_); rotate_left; intro p hp; cases p <;> first | exact absurd (h (by decide)) hp | rfl | exact ⟨rfl, rfl⟩))

theorem State.tallyReport_framed {ps : List Part} (h : [Part.regs, .host, .tally, .out] ⊆ ps) {z s : State}
    (hs : Framed ps z s) : Framed ps z (State.tallyReport s) := by
  unfold State.tallyReport
  repeat' (first
    | with_reducible assumption
    | with_reducible refine State.tallyPush_framed (Framed.sub h) ?_
    | (fail_if_no_progress extract_lets +onlyGivenNames x
       refine cutL (p := Framed ps z x) ?_ ?_; subst x; rotate_left; intro hs; try clear_value x; rotate_right)
    | (fail_if_no_progress extract_lets +onlyGivenNames x
       first
       | (have hd : List _ := x; clear hd; clear_value x)
       | (have hd : Bool := x; clear hd; clear_value x)
       | (have hd : Nat := x; clear hd; clear_value x)
       | subst x)
    | fail_if_no_progress beta_reduce
    | with_reducible refine Framed.ite ?_ ?_
    | split
    | ((with_reducible refine Framed.upd ?_ ?_); rotate_left; intro p hp; cases p <;> first | exact absurd (h (by decide)) hp | rfl | exact ⟨rfl, rfl⟩))

theorem State.sortTally_framed {ps : List Part} (h : [Part.tally] ⊆ ps) {z s : State}
    (hs : Framed ps z s) : Framed ps z (State.sortTally s) := by
  unfold State.sortTally
  repeat' (first
    | with_reducible assumption
    | with_reducible refine Framed.ite ?_ ?_
    | split
    | ((with_reducible refine Framed.upd ?_ ?_); rotate_left; intro p hp; cases p <;> first | exact absurd (h (by decide)) hp | rfl | exact ⟨rfl, rfl⟩)
    | dsimp only)

theorem State.tallyLost_framed {ps : List Part} (h : [Part.regs, .tally] ⊆ ps) {z s : State}
    (hs : Framed ps z s) : Framed ps z (State.tallyLost s) := by
  unfold State.tallyLost
  repeat' (first
    | with_reducible assumption
    | with_reducible refine State.event_framed (Framed.sub h) ?_
    | with_reducible refine State.count_framed (Framed.sub h) ?_
    | ((with_reducible refine Framed.upd ?_ ?_); rotate_left; intro p hp; cases p <;> first | exact absurd (h (by decide)) hp | rfl | exact ⟨rfl, rfl⟩))

theorem State.spendToken_framed {ps : List Part} (h : [Part.tally] ⊆ ps) {z s : State} {sev : Nat}
    (hs : Framed ps z s) : Framed ps z (State.spendToken s sev) := by
  unfold State.spendToken
  repeat' (first
    | with_reducible assumption
    | with_reducible refine Framed.ite ?_ ?_
    | split
    | ((with_reducible refine Framed.upd ?_ ?_); rotate_left; intro p hp; cases p <;> first | exact absurd (h (by decide)) hp | rfl | exact ⟨rfl, rfl⟩))

theorem State.stage_framed {ps : List Part} (h : [Part.regs, .host, .tally, .out] ⊆ ps) {z s : State} {sev : Nat} {code : Nat} {source : Nat} {data : List Byte}
    (hs : Framed ps z s) : Framed ps z (State.stage s sev code source data) := by
  unfold State.stage
  repeat' (first
    | with_reducible assumption
    | with_reducible refine State.tallyLost_framed (Framed.sub h) ?_
    | with_reducible refine State.tallyReport_framed (Framed.sub h) ?_
    | with_reducible refine State.spendToken_framed (Framed.sub h) ?_
    | with_reducible refine State.tallyPush_framed (Framed.sub h) ?_
    | with_reducible refine State.sortTally_framed (Framed.sub h) ?_
    | (fail_if_no_progress extract_lets +onlyGivenNames x
       refine cutL (p := Framed ps z x) ?_ ?_; subst x; rotate_left; intro hs; try clear_value x; rotate_right)
    | (fail_if_no_progress extract_lets +onlyGivenNames x
       first
       | (have hd : List _ := x; clear hd; clear_value x)
       | (have hd : Bool := x; clear hd; clear_value x)
       | (have hd : Nat := x; clear hd; clear_value x)
       | subst x)
    | fail_if_no_progress beta_reduce
    | with_reducible refine Framed.ite ?_ ?_
    | split)

theorem State.log_framed {ps : List Part} (h : [Part.regs, .host, .tally, .out] ⊆ ps) {z s : State} {sev : Nat} {code : Nat} {source : Nat} {data : List Byte}
    (hs : Framed ps z s) : Framed ps z (State.log s sev code source data) := by
  unfold State.log
  repeat' (first
    | with_reducible assumption
    | with_reducible refine State.event_framed (Framed.sub h) ?_
    | with_reducible refine State.count_framed (Framed.sub h) ?_
    | with_reducible refine State.stage_framed (Framed.sub h) ?_
    | (fail_if_no_progress extract_lets +onlyGivenNames x
       refine cutL (p := Framed ps z x) ?_ ?_; subst x; rotate_left; intro hs; try clear_value x; rotate_right)
    | (fail_if_no_progress extract_lets +onlyGivenNames x
       first
       | (have hd : List _ := x; clear hd; clear_value x)
       | (have hd : Bool := x; clear hd; clear_value x)
       | (have hd : Nat := x; clear hd; clear_value x)
       | subst x)
    | fail_if_no_progress beta_reduce
    | with_reducible refine Framed.ite ?_ ?_
    | split
    | ((with_reducible refine Framed.upd ?_ ?_); rotate_left; intro p hp; cases p <;> first | exact absurd (h (by decide)) hp | rfl | exact ⟨rfl, rfl⟩)
    | dsimp only)

theorem State.result_framed {ps : List Part} (h : [Part.sys] ⊆ ps) {z s : State} {code : Nat} {reason : Nat}
    (hs : Framed ps z s) : Framed ps z (State.result s code reason) := by
  unfold State.result
  repeat' (first
    | with_reducible assumption
    | (fail_if_no_progress extract_lets +onlyGivenNames x
       refine cutL (p := Framed ps z x) ?_ ?_; subst x; rotate_left; intro hs; try clear_value x; rotate_right)
    | (fail_if_no_progress extract_lets +onlyGivenNames x
       first
       | (have hd : List _ := x; clear hd; clear_value x)
       | (have hd : Bool := x; clear hd; clear_value x)
       | (have hd : Nat := x; clear hd; clear_value x)
       | subst x)
    | fail_if_no_progress beta_reduce
    | with_reducible refine Framed.ite ?_ ?_
    | split
    | ((with_reducible refine Framed.upd ?_ ?_); rotate_left; intro p hp; cases p <;> first | exact absurd (h (by decide)) hp | rfl | exact ⟨rfl, rfl⟩))

theorem State.popCmd_framed {ps : List Part} (h : [Part.queue, .sys] ⊆ ps) {z s : State} {code : Nat} {reason : Nat}
    (hs : Framed ps z s) : Framed ps z (State.popCmd s code reason) := by
  unfold State.popCmd
  repeat' (first
    | with_reducible assumption
    | with_reducible refine State.result_framed (Framed.sub h) ?_
    | (fail_if_no_progress extract_lets +onlyGivenNames x
       refine cutL (p := Framed ps z x) ?_ ?_; subst x; rotate_left; intro hs; try clear_value x; rotate_right)
    | (fail_if_no_progress extract_lets +onlyGivenNames x
       first
       | (have hd : List _ := x; clear hd; clear_value x)
       | (have hd : Bool := x; clear hd; clear_value x)
       | (have hd : Nat := x; clear hd; clear_value x)
       | subst x)
    | fail_if_no_progress beta_reduce
    | with_reducible refine Framed.ite ?_ ?_
    | split
    | ((with_reducible refine Framed.upd ?_ ?_); rotate_left; intro p hp; cases p <;> first | exact absurd (h (by decide)) hp | rfl | exact ⟨rfl, rfl⟩))

theorem State.pushCmd_framed {ps : List Part} (h : [Part.queue, .sys] ⊆ ps) {z s : State} {e : CmdEntry}
    (hs : Framed ps z s) : Framed ps z (State.pushCmd s e) := by
  unfold State.pushCmd
  repeat' (first
    | with_reducible assumption
    | with_reducible refine State.result_framed (Framed.sub h) ?_
    | (fail_if_no_progress extract_lets +onlyGivenNames x
       refine cutL (p := Framed ps z x) ?_ ?_; subst x; rotate_left; intro hs; try clear_value x; rotate_right)
    | (fail_if_no_progress extract_lets +onlyGivenNames x
       first
       | (have hd : List _ := x; clear hd; clear_value x)
       | (have hd : Bool := x; clear hd; clear_value x)
       | (have hd : Nat := x; clear hd; clear_value x)
       | subst x)
    | fail_if_no_progress beta_reduce
    | with_reducible refine Framed.ite ?_ ?_
    | split
    | ((with_reducible refine Framed.upd ?_ ?_); rotate_left; intro p hp; cases p <;> first | exact absurd (h (by decide)) hp | rfl | exact ⟨rfl, rfl⟩))

theorem State.settleHead_framed {ps : List Part} (h : [Part.dev, .queue, .sys] ⊆ ps) {z s : State}
    (hs : Framed ps z s) : Framed ps z (State.settleHead s) := by
  unfold State.settleHead
  repeat' (first
    | with_reducible assumption
    | with_reducible refine State.popCmd_framed (Framed.sub h) ?_
    | (fail_if_no_progress extract_lets +onlyGivenNames x
       refine cutL (p := Framed ps z x) ?_ ?_; subst x; rotate_left; intro hs; try clear_value x; rotate_right)
    | (fail_if_no_progress extract_lets +onlyGivenNames x
       first
       | (have hd : List _ := x; clear hd; clear_value x)
       | (have hd : Bool := x; clear hd; clear_value x)
       | (have hd : Nat := x; clear hd; clear_value x)
       | subst x)
    | fail_if_no_progress beta_reduce
    | with_reducible refine Framed.ite ?_ ?_
    | split
    | ((with_reducible refine Framed.upd ?_ ?_); rotate_left; intro p hp; cases p <;> first | exact absurd (h (by decide)) hp | rfl | exact ⟨rfl, rfl⟩))

theorem State.dropTickOut_framed {ps : List Part} (h : [Part.tick, .out] ⊆ ps) {z s : State}
    (hs : Framed ps z s) : Framed ps z (State.dropTickOut s) := by
  unfold State.dropTickOut
  repeat' (first
    | with_reducible assumption
    | with_reducible refine State.emit_framed (Framed.sub h) ?_
    | (fail_if_no_progress extract_lets +onlyGivenNames x
       refine cutL (p := Framed ps z x) ?_ ?_; subst x; rotate_left; intro hs; try clear_value x; rotate_right)
    | (fail_if_no_progress extract_lets +onlyGivenNames x
       first
       | (have hd : List _ := x; clear hd; clear_value x)
       | (have hd : Bool := x; clear hd; clear_value x)
       | (have hd : Nat := x; clear hd; clear_value x)
       | subst x)
    | fail_if_no_progress beta_reduce
    | with_reducible refine Framed.ite ?_ ?_
    | split
    | ((with_reducible refine Framed.upd ?_ ?_); rotate_left; intro p hp; cases p <;> first | exact absurd (h (by decide)) hp | rfl | exact ⟨rfl, rfl⟩))

theorem State.sendTrain_framed {ps : List Part} (h : [Part.out] ⊆ ps) {z s : State} {p_ : Nat}
    (hs : Framed ps z s) : Framed ps z (State.sendTrain s p_) := by
  unfold State.sendTrain
  repeat' (first
    | with_reducible assumption
    | with_reducible refine State.emit_framed (Framed.sub h) ?_
    | with_reducible refine State.when_framed ?_ (fun _ hs => ?_)
    | split)

theorem State.sendTrains_framed {ps : List Part} (h : [Part.out] ⊆ ps) {z s : State}
    (hs : Framed ps z s) : Framed ps z (State.sendTrains s) := by
  unfold State.sendTrains
  repeat' (first
    | with_reducible assumption
    | with_reducible refine State.sendTrain_framed (Framed.sub h) ?_
    | with_reducible refine Framed.foldl ?_ (fun _ hs _ => ?_))

theorem State.retrainDown_framed {ps : List Part} (h : [Part.out] ⊆ ps) {z s : State}
    (hs : Framed ps z s) : Framed ps z (State.retrainDown s) := by
  unfold State.retrainDown
  repeat' (first
    | with_reducible assumption
    | with_reducible refine State.sendTrain_framed (Framed.sub h) ?_
    | with_reducible refine State.when_framed ?_ (fun _ hs => ?_)
    | with_reducible refine Framed.foldl ?_ (fun _ hs _ => ?_))

theorem State.leaveRunning_framed {ps : List Part} (h : [Part.dev, .queue, .sys, .tick, .out] ⊆ ps) {z s : State} {d : Dev}
    (hs : Framed ps z s) : Framed ps z (State.leaveRunning s d) := by
  unfold State.leaveRunning
  repeat' (first
    | with_reducible assumption
    | with_reducible refine State.dropTickOut_framed (Framed.sub h) ?_
    | with_reducible refine State.settleHead_framed (Framed.sub h) ?_
    | with_reducible refine State.retrainDown_framed (Framed.sub h) ?_
    | (fail_if_no_progress extract_lets +onlyGivenNames x
       refine cutL (p := Framed ps z x) ?_ ?_; subst x; rotate_left; intro hs; try clear_value x; rotate_right)
    | (fail_if_no_progress extract_lets +onlyGivenNames x
       first
       | (have hd : List _ := x; clear hd; clear_value x)
       | (have hd : Bool := x; clear hd; clear_value x)
       | (have hd : Nat := x; clear hd; clear_value x)
       | subst x)
    | fail_if_no_progress beta_reduce
    | ((with_reducible refine Framed.upd ?_ ?_); rotate_left; intro p hp; cases p <;> first | exact absurd (h (by decide)) hp | rfl | exact ⟨rfl, rfl⟩))

theorem State.invalid_framed {ps : List Part} (h : [Part.plan] ⊆ ps) {z s : State} {code : Nat}
    (hs : Framed ps z s) : Framed ps z (State.invalid s code) := by
  unfold State.invalid
  repeat' (first
    | with_reducible assumption
    | (fail_if_no_progress extract_lets +onlyGivenNames x
       refine cutL (p := Framed ps z x) ?_ ?_; subst x; rotate_left; intro hs; try clear_value x; rotate_right)
    | (fail_if_no_progress extract_lets +onlyGivenNames x
       first
       | (have hd : List _ := x; clear hd; clear_value x)
       | (have hd : Bool := x; clear hd; clear_value x)
       | (have hd : Nat := x; clear hd; clear_value x)
       | subst x)
    | fail_if_no_progress beta_reduce
    | with_reducible refine Framed.ite ?_ ?_
    | split
    | ((with_reducible refine Framed.upd ?_ ?_); rotate_left; intro p hp; cases p <;> first | exact absurd (h (by decide)) hp | rfl | exact ⟨rfl, rfl⟩)
    | dsimp only)

theorem State.mapChan_framed {ps : List Part} (h : [Part.chans] ⊆ ps) {z s : State} {i : Nat} {f : Chan → Chan}
    (hs : Framed ps z s) : Framed ps z (State.mapChan s i f) := by
  unfold State.mapChan
  repeat' (first
    | with_reducible assumption
    | (fail_if_no_progress extract_lets +onlyGivenNames x
       refine cutL (p := Framed ps z x) ?_ ?_; subst x; rotate_left; intro hs; try clear_value x; rotate_right)
    | (fail_if_no_progress extract_lets +onlyGivenNames x
       first
       | (have hd : List _ := x; clear hd; clear_value x)
       | (have hd : Bool := x; clear hd; clear_value x)
       | (have hd : Nat := x; clear hd; clear_value x)
       | subst x)
    | fail_if_no_progress beta_reduce
    | with_reducible refine Framed.ite ?_ ?_
    | split
    | ((with_reducible refine Framed.upd ?_ ?_); rotate_left; intro p hp; cases p <;> first | exact absurd (h (by decide)) hp | rfl | exact ⟨rfl, rfl⟩))

theorem State.formRecord_framed {ps : List Part} (h : [Part.regs, .plan, .chans, .dep] ⊆ ps) {z s : State} {b : RecordBody}
    (hs : Framed ps z s) : Framed ps z (State.formRecord s b) := by
  unfold State.formRecord
  repeat' (first
    | with_reducible assumption
    | with_reducible refine State.setField_framed (Framed.sub h) ?_
    | with_reducible refine State.mapChan_framed (Framed.sub h) ?_
    | (fail_if_no_progress extract_lets +onlyGivenNames x
       refine cutL (p := Framed ps z x) ?_ ?_; subst x; rotate_left; intro hs; try clear_value x; rotate_right)
    | (fail_if_no_progress extract_lets +onlyGivenNames x
       first
       | (have hd : List _ := x; clear hd; clear_value x)
       | (have hd : Bool := x; clear hd; clear_value x)
       | (have hd : Nat := x; clear hd; clear_value x)
       | subst x)
    | fail_if_no_progress beta_reduce
    | with_reducible refine Framed.ite ?_ ?_
    | split
    | ((with_reducible refine Framed.upd ?_ ?_); rotate_left; intro p hp; cases p <;> first | exact absurd (h (by decide)) hp | rfl | exact ⟨rfl, rfl⟩))

theorem State.writeInvalid_framed {ps : List Part} (h : [Part.regs, .plan, .chans, .dep] ⊆ ps) {z s : State} {reason : Nat}
    (hs : Framed ps z s) : Framed ps z (State.writeInvalid s reason) := by
  unfold State.writeInvalid
  repeat' (first
    | with_reducible assumption
    | with_reducible refine State.setField_framed (Framed.sub h) ?_
    | with_reducible refine State.invalid_framed (Framed.sub h) ?_
    | with_reducible refine State.formRecord_framed (Framed.sub h) ?_)

theorem State.settleFences_framed {ps : List Part} (h : [Part.kl, .out] ⊆ ps) {z s : State}
    (hs : Framed ps z s) : Framed ps z (State.settleFences s) := by
  unfold State.settleFences
  repeat' (first
    | with_reducible assumption
    | with_reducible refine State.emit_framed (Framed.sub h) ?_
    | (fail_if_no_progress extract_lets +onlyGivenNames x
       refine cutL (p := Framed ps z x) ?_ ?_; subst x; rotate_left; intro hs; try clear_value x; rotate_right)
    | (fail_if_no_progress extract_lets +onlyGivenNames x
       first
       | (have hd : List _ := x; clear hd; clear_value x)
       | (have hd : Bool := x; clear hd; clear_value x)
       | (have hd : Nat := x; clear hd; clear_value x)
       | subst x)
    | fail_if_no_progress beta_reduce
    | with_reducible refine Framed.foldl ?_ (fun _ hs _ => ?_)
    | ((with_reducible refine Framed.upd ?_ ?_); rotate_left; intro p hp; cases p <;> first | exact absurd (h (by decide)) hp | rfl | exact ⟨rfl, rfl⟩))

theorem State.dropOps_framed {ps : List Part} (h : [Part.kl, .out] ⊆ ps) {z s : State} {gone : RemoteOp → Bool}
    (hs : Framed ps z s) : Framed ps z (State.dropOps s gone) := by
  unfold State.dropOps
  repeat' (first
    | with_reducible assumption
    | with_reducible refine State.settleFences_framed (Framed.sub h) ?_
    | ((with_reducible refine Framed.upd ?_ ?_); rotate_left; intro p hp; cases p <;> first | exact absurd (h (by decide)) hp | rfl | exact ⟨rfl, rfl⟩))

theorem State.dropTickOps_framed {ps : List Part} (h : [Part.kl, .out] ⊆ ps) {z s : State}
    (hs : Framed ps z s) : Framed ps z (State.dropTickOps s) := by
  unfold State.dropTickOps
  repeat' (first
    | with_reducible assumption
    | with_reducible refine State.dropOps_framed (Framed.sub h) ?_)

theorem State.chargeWaits_framed {ps : List Part} (h : [Part.regs, .dies] ⊆ ps) {z s : State} {d : Die}
    (hs : Framed ps z s) : Framed ps z (State.chargeWaits s d) := by
  unfold State.chargeWaits
  repeat' (first
    | with_reducible assumption
    | with_reducible refine State.when_framed ?_ (fun _ hs => ?_)
    | with_reducible refine State.setDie_framed (Framed.sub h) ?_ ?_
    | ((with_reducible refine fun (hn : Part.slices ∉ ps) => ?_); first | exact absurd (h (by decide)) hn | exact Framed.die hs hn _ | exact Framed.die (by assumption) hn _ | exact (hs _ hn).1 | exact (hs _ hn).2 | simpa using Framed.die hs hn _)
    | with_reducible refine State.when_framed ?_ (fun _ hs => ?_)
    | with_reducible refine State.event_framed (Framed.sub h) ?_
    | with_reducible refine State.count_framed (Framed.sub h) ?_
    | (fail_if_no_progress extract_lets +onlyGivenNames x
       refine cutL (p := Framed ps z x) ?_ ?_; subst x; rotate_left; intro hs; try clear_value x; rotate_right)
    | (fail_if_no_progress extract_lets +onlyGivenNames x
       first
       | (have hd : List _ := x; clear hd; clear_value x)
       | (have hd : Bool := x; clear hd; clear_value x)
       | (have hd : Nat := x; clear hd; clear_value x)
       | subst x)
    | fail_if_no_progress beta_reduce
    | with_reducible refine Framed.foldl ?_ (fun _ hs _ => ?_)
    | ((with_reducible refine Framed.upd ?_ ?_); rotate_left; intro p hp; cases p <;> first | exact absurd (h (by decide)) hp | rfl | exact ⟨rfl, rfl⟩))

theorem State.dropPendingBanks_framed {ps : List Part} (h : [Part.regs] ⊆ ps) {z s : State}
    (hs : Framed ps z s) : Framed ps z (State.dropPendingBanks s) := by
  unfold State.dropPendingBanks
  repeat' (first
    | with_reducible assumption
    | with_reducible refine State.setReg_framed (Framed.sub h) ?_)

theorem State.stopWork_framed {ps : List Part} (h : [Part.regs, .tick, .dies, .kl, .out] ⊆ ps) {z s : State}
    (hs : Framed ps z s) : Framed ps z (State.stopWork s) := by
  unfold State.stopWork
  repeat' (first
    | with_reducible assumption
    | with_reducible refine State.chargeWaits_framed (Framed.sub h) ?_
    | with_reducible refine State.dropTickOps_framed (Framed.sub h) ?_
    | with_reducible refine State.dropPendingBanks_framed (Framed.sub h) ?_
    | (fail_if_no_progress extract_lets +onlyGivenNames x
       refine cutL (p := Framed ps z x) ?_ ?_; subst x; rotate_left; intro hs; try clear_value x; rotate_right)
    | (fail_if_no_progress extract_lets +onlyGivenNames x
       first
       | (have hd : List _ := x; clear hd; clear_value x)
       | (have hd : Bool := x; clear hd; clear_value x)
       | (have hd : Nat := x; clear hd; clear_value x)
       | subst x)
    | fail_if_no_progress beta_reduce
    | ((with_reducible refine Framed.upd ?_ ?_); rotate_left; intro p hp; cases p <;> first | exact absurd (h (by decide)) hp | rfl | exact ⟨rfl, rfl⟩))

theorem State.publish_framed {ps : List Part} (h : [Part.regs, .plan, .host, .dep, .tally, .out] ⊆ ps) {z s : State} {verdict : Nat} {reason : Nat} {sample : Nat} {record : Option (List Byte)}
    (hs : Framed ps z s) : Framed ps z (State.publish s verdict reason sample record) := by
  unfold State.publish
  repeat' (first
    | with_reducible assumption
    | with_reducible refine State.count_framed (Framed.sub h) ?_
    | with_reducible refine State.emit_framed (Framed.sub h) ?_
    | with_reducible refine State.event_framed (Framed.sub h) ?_
    | with_reducible refine State.log_framed (Framed.sub h) ?_
    | with_reducible refine State.irq_framed (Framed.sub h) ?_
    | (fail_if_no_progress extract_lets +onlyGivenNames x
       refine cutL (p := Framed ps z x) ?_ ?_; subst x; rotate_left; intro hs; try clear_value x; rotate_right)
    | (fail_if_no_progress extract_lets +onlyGivenNames x
       first
       | (have hd : List _ := x; clear hd; clear_value x)
       | (have hd : Bool := x; clear hd; clear_value x)
       | (have hd : Nat := x; clear hd; clear_value x)
       | subst x)
    | fail_if_no_progress beta_reduce
    | with_reducible refine Framed.ite ?_ ?_
    | split
    | ((with_reducible refine Framed.upd ?_ ?_); rotate_left; intro p hp; cases p <;> first | exact absurd (h (by decide)) hp | rfl | exact ⟨rfl, rfl⟩)
    | dsimp only)

theorem State.abandonTick_framed {ps : List Part} (h : [Part.regs, .tick, .plan, .dies, .chans, .host, .kl, .dep, .tally, .out] ⊆ ps) {z s : State}
    (hs : Framed ps z s) : Framed ps z (State.abandonTick s) := by
  unfold State.abandonTick
  repeat' (first
    | with_reducible assumption
    | with_reducible refine State.stopWork_framed (Framed.sub h) ?_
    | with_reducible refine State.writeInvalid_framed (Framed.sub h) ?_
    | with_reducible refine State.publish_framed (Framed.sub h) ?_
    | (fail_if_no_progress extract_lets +onlyGivenNames x
       refine cutL (p := Framed ps z x) ?_ ?_; subst x; rotate_left; intro hs; try clear_value x; rotate_right)
    | (fail_if_no_progress extract_lets +onlyGivenNames x
       first
       | (have hd : List _ := x; clear hd; clear_value x)
       | (have hd : Bool := x; clear hd; clear_value x)
       | (have hd : Nat := x; clear hd; clear_value x)
       | subst x)
    | fail_if_no_progress beta_reduce
    | with_reducible refine Framed.ite ?_ ?_
    | split)

theorem State.lowerCause_framed {ps : List Part} (h : [Part.dep, .tally] ⊆ ps) {z s : State} {cause : Nat}
    (hs : Framed ps z s) : Framed ps z (State.lowerCause s cause) := by
  unfold State.lowerCause
  repeat' (first
    | with_reducible assumption
    | with_reducible refine Framed.ite ?_ ?_
    | split
    | ((with_reducible refine Framed.upd ?_ ?_); rotate_left; intro p hp; cases p <;> first | exact absurd (h (by decide)) hp | rfl | exact ⟨rfl, rfl⟩))

theorem State.enterSafe_framed {ps : List Part} (h : [Part.dev, .regs, .queue, .sys, .tick, .plan, .dies, .chans, .host, .kl, .safe, .dep, .tally, .out] ⊆ ps) {z s : State} {cause : Nat}
    (hs : Framed ps z s) : Framed ps z (State.enterSafe s cause) := by
  unfold State.enterSafe
  repeat' (first
    | with_reducible assumption
    | with_reducible refine State.lowerCause_framed (Framed.sub h) ?_
    | with_reducible refine State.setPair_framed (Framed.sub h) ?_
    | with_reducible refine State.event_framed (Framed.sub h) ?_
    | with_reducible refine State.log_framed (Framed.sub h) ?_
    | with_reducible refine State.abandonTick_framed (Framed.sub h) ?_
    | with_reducible refine State.leaveRunning_framed (Framed.sub h) ?_
    | with_reducible refine State.irq_framed (Framed.sub h) ?_
    | (fail_if_no_progress extract_lets +onlyGivenNames x
       refine cutL (p := Framed ps z x) ?_ ?_; subst x; rotate_left; intro hs; try clear_value x; rotate_right)
    | (fail_if_no_progress extract_lets +onlyGivenNames x
       first
       | (have hd : List _ := x; clear hd; clear_value x)
       | (have hd : Bool := x; clear hd; clear_value x)
       | (have hd : Nat := x; clear hd; clear_value x)
       | subst x)
    | fail_if_no_progress beta_reduce
    | with_reducible refine Framed.ite ?_ ?_
    | split
    | ((with_reducible refine Framed.upd ?_ ?_); rotate_left; intro p hp; cases p <;> first | exact absurd (h (by decide)) hp | rfl | exact ⟨rfl, rfl⟩))

theorem State.causeOn_framed {ps : List Part} (h : [Part.dep] ⊆ ps) {z s : State} {cause : Nat}
    (hs : Framed ps z s) : Framed ps z (State.causeOn s cause) := by
  unfold State.causeOn
  repeat' (first
    | with_reducible assumption
    | (fail_if_no_progress extract_lets +onlyGivenNames x
       refine cutL (p := Framed ps z x) ?_ ?_; subst x; rotate_left; intro hs; try clear_value x; rotate_right)
    | (fail_if_no_progress extract_lets +onlyGivenNames x
       first
       | (have hd : List _ := x; clear hd; clear_value x)
       | (have hd : Bool := x; clear hd; clear_value x)
       | (have hd : Nat := x; clear hd; clear_value x)
       | subst x)
    | fail_if_no_progress beta_reduce
    | with_reducible refine Framed.ite ?_ ?_
    | split
    | ((with_reducible refine Framed.upd ?_ ?_); rotate_left; intro p hp; cases p <;> first | exact absurd (h (by decide)) hp | rfl | exact ⟨rfl, rfl⟩)
    | dsimp only)

theorem State.monitor_framed {ps : List Part} (h : [Part.dev, .regs, .queue, .sys, .tick, .plan, .dies, .chans, .host, .kl, .safe, .dep, .tally, .out] ⊆ ps) {z s : State} {cause : Nat}
    (hs : Framed ps z s) : Framed ps z (State.monitor s cause) := by
  unfold State.monitor
  repeat' (first
    | with_reducible assumption
    | with_reducible refine State.when_framed ?_ (fun _ hs => ?_)
    | with_reducible refine State.when_framed ?_ (fun _ hs => ?_)
    | with_reducible refine State.causeOn_framed (Framed.sub h) ?_
    | with_reducible refine State.enterSafe_framed (Framed.sub h) ?_)

theorem State.causeOff_framed {ps : List Part} (h : [Part.dep] ⊆ ps) {z s : State} {cause : Nat}
    (hs : Framed ps z s) : Framed ps z (State.causeOff s cause) := by
  unfold State.causeOff
  repeat' (first
    | with_reducible assumption
    | (fail_if_no_progress extract_lets +onlyGivenNames x
       refine cutL (p := Framed ps z x) ?_ ?_; subst x; rotate_left; intro hs; try clear_value x; rotate_right)
    | (fail_if_no_progress extract_lets +onlyGivenNames x
       first
       | (have hd : List _ := x; clear hd; clear_value x)
       | (have hd : Bool := x; clear hd; clear_value x)
       | (have hd : Nat := x; clear hd; clear_value x)
       | subst x)
    | fail_if_no_progress beta_reduce
    | with_reducible refine Framed.ite ?_ ?_
    | split
    | ((with_reducible refine Framed.upd ?_ ?_); rotate_left; intro p hp; cases p <;> first | exact absurd (h (by decide)) hp | rfl | exact ⟨rfl, rfl⟩)
    | dsimp only)

theorem State.mend_framed {ps : List Part} (h : [Part.badRegs, .dep] ⊆ ps) {z s : State} {gone : BadReg → Bool}
    (hs : Framed ps z s) : Framed ps z (State.mend s gone) := by
  unfold State.mend
  repeat' (first
    | with_reducible assumption
    | with_reducible refine State.causeOff_framed (Framed.sub h) ?_
    | (fail_if_no_progress extract_lets +onlyGivenNames x
       refine cutL (p := Framed ps z x) ?_ ?_; subst x; rotate_left; intro hs; try clear_value x; rotate_right)
    | (fail_if_no_progress extract_lets +onlyGivenNames x
       first
       | (have hd : List _ := x; clear hd; clear_value x)
       | (have hd : Bool := x; clear hd; clear_value x)
       | (have hd : Nat := x; clear hd; clear_value x)
       | subst x)
    | fail_if_no_progress beta_reduce
    | with_reducible refine Framed.ite ?_ ?_
    | split
    | ((with_reducible refine Framed.upd ?_ ?_); rotate_left; intro p hp; cases p <;> first | exact absurd (h (by decide)) hp | rfl | exact ⟨rfl, rfl⟩))

theorem State.rewrite_framed {ps : List Part} (h : [Part.regs, .badRegs, .dep] ⊆ ps) {z s : State} {o : Nat} {v : Word}
    (hs : Framed ps z s) : Framed ps z (State.rewrite s o v) := by
  unfold State.rewrite
  repeat' (first
    | with_reducible assumption
    | with_reducible refine State.setReg_framed (Framed.sub h) ?_
    | with_reducible refine State.mend_framed (Framed.sub h) ?_)

theorem State.spoilParity_framed {ps : List Part} (h : [Part.badRegs] ⊆ ps) {z s : State} {found : Bool} {fs : List (Nat × Nat × Bool)}
    (hs : Framed ps z s) : Framed ps z (State.spoilParity s found fs) := by
  unfold State.spoilParity
  repeat' (first
    | with_reducible assumption
    | (fail_if_no_progress extract_lets +onlyGivenNames x
       refine cutL (p := Framed ps z x) ?_ ?_; subst x; rotate_left; intro hs; try clear_value x; rotate_right)
    | (fail_if_no_progress extract_lets +onlyGivenNames x
       first
       | (have hd : List _ := x; clear hd; clear_value x)
       | (have hd : Bool := x; clear hd; clear_value x)
       | (have hd : Nat := x; clear hd; clear_value x)
       | subst x)
    | fail_if_no_progress beta_reduce
    | ((with_reducible refine Framed.upd ?_ ?_); rotate_left; intro p hp; cases p <;> first | exact absurd (h (by decide)) hp | rfl | exact ⟨rfl, rfl⟩))

theorem State.checkParity_framed {ps : List Part} (h : [Part.dev, .regs, .badRegs, .queue, .sys, .tick, .plan, .dies, .chans, .host, .kl, .safe, .dep, .tally, .out] ⊆ ps) {z s : State} {o : Nat} {fs : List (Nat × Nat × Bool)}
    (hs : Framed ps z s) : Framed ps z (State.checkParity s o fs) := by
  unfold State.checkParity
  repeat' (first
    | with_reducible assumption
    | with_reducible refine State.spoilParity_framed (Framed.sub h) ?_
    | with_reducible refine State.setReg_framed (Framed.sub h) ?_
    | with_reducible refine State.event_framed (Framed.sub h) ?_
    | with_reducible refine State.irq_framed (Framed.sub h) ?_
    | with_reducible refine State.causeOn_framed (Framed.sub h) ?_
    | with_reducible refine State.enterSafe_framed (Framed.sub h) ?_
    | (fail_if_no_progress extract_lets +onlyGivenNames x
       refine cutL (p := Framed ps z x) ?_ ?_; subst x; rotate_left; intro hs; try clear_value x; rotate_right)
    | (fail_if_no_progress extract_lets +onlyGivenNames x
       first
       | (have hd : List _ := x; clear hd; clear_value x)
       | (have hd : Bool := x; clear hd; clear_value x)
       | (have hd : Nat := x; clear hd; clear_value x)
       | subst x)
    | fail_if_no_progress beta_reduce
    | with_reducible refine Framed.ite ?_ ?_
    | with_reducible refine Framed.foldl ?_ (fun _ hs _ => ?_)
    | split
    | ((with_reducible refine Framed.upd ?_ ?_); rotate_left; intro p hp; cases p <;> first | exact absurd (h (by decide)) hp | rfl | exact ⟨rfl, rfl⟩))

theorem State.checkUses_framed {ps : List Part} (h : [Part.dev, .regs, .badRegs, .queue, .sys, .tick, .plan, .dies, .chans, .host, .kl, .safe, .dep, .tally, .out] ⊆ ps) {z s : State} {os : List Nat}
    (hs : Framed ps z s) : Framed ps z (State.checkUses s os) := by
  unfold State.checkUses
  repeat' (first
    | with_reducible assumption
    | with_reducible refine State.checkParity_framed (Framed.sub h) ?_
    | with_reducible refine Framed.foldl ?_ (fun _ hs _ => ?_))

theorem State.judge_framed {ps : List Part} (h : [Part.dev, .regs, .queue, .sys, .tick, .plan, .dies, .chans, .host, .kl, .safe, .dep, .tally, .out] ⊆ ps) {z s : State} {verdict : Nat} {reason : Nat} {sample : Nat} {record : Option (List Byte)}
    (hs : Framed ps z s) : Framed ps z (State.judge s verdict reason sample record) := by
  unfold State.judge
  repeat' (first
    | with_reducible assumption
    | with_reducible refine State.publish_framed (Framed.sub h) ?_
    | with_reducible refine State.enterSafe_framed (Framed.sub h) ?_
    | (fail_if_no_progress extract_lets +onlyGivenNames x
       refine cutL (p := Framed ps z x) ?_ ?_; subst x; rotate_left; intro hs; try clear_value x; rotate_right)
    | (fail_if_no_progress extract_lets +onlyGivenNames x
       first
       | (have hd : List _ := x; clear hd; clear_value x)
       | (have hd : Bool := x; clear hd; clear_value x)
       | (have hd : Nat := x; clear hd; clear_value x)
       | subst x)
    | fail_if_no_progress beta_reduce
    | with_reducible refine Framed.ite ?_ ?_
    | split
    | ((with_reducible refine Framed.upd ?_ ?_); rotate_left; intro p hp; cases p <;> first | exact absurd (h (by decide)) hp | rfl | exact ⟨rfl, rfl⟩)
    | dsimp only)

theorem State.takeService_framed {ps : List Part} (h : [Part.regs, .dies] ⊆ ps) {z s : State} {d : Die}
    (hs : Framed ps z s) : Framed ps z (State.takeService s d) := by
  unfold State.takeService
  repeat' (first
    | with_reducible assumption
    | with_reducible refine State.when_framed ?_ (fun _ hs => ?_)
    | with_reducible refine State.setDie_framed (Framed.sub h) ?_ ?_
    | ((with_reducible refine fun (hn : Part.slices ∉ ps) => ?_); first | exact absurd (h (by decide)) hn | exact Framed.die hs hn _ | exact Framed.die (by assumption) hn _ | exact (hs _ hn).1 | exact (hs _ hn).2 | simpa using Framed.die hs hn _)
    | with_reducible refine State.when_framed ?_ (fun _ hs => ?_)
    | with_reducible refine State.event_framed (Framed.sub h) ?_
    | (fail_if_no_progress extract_lets +onlyGivenNames x
       refine cutL (p := Framed ps z x) ?_ ?_; subst x; rotate_left; intro hs; try clear_value x; rotate_right)
    | (fail_if_no_progress extract_lets +onlyGivenNames x
       first
       | (have hd : List _ := x; clear hd; clear_value x)
       | (have hd : Bool := x; clear hd; clear_value x)
       | (have hd : Nat := x; clear hd; clear_value x)
       | subst x)
    | fail_if_no_progress beta_reduce
    | ((with_reducible refine Framed.upd ?_ ?_); rotate_left; intro p hp; cases p <;> first | exact absurd (h (by decide)) hp | rfl | exact ⟨rfl, rfl⟩))

end Sys2Proof.Machine
end

