-- ==== Sys2Proof/Laws/FrameOverman.lean ====
section
/-! SUPPORT. The parts of the state that the operations of Machine/Overman.lean can change. -/

set_option Elab.async false
set_option linter.unusedTactic false
set_option linter.unreachableTactic false
set_option linter.unusedVariables false
set_option linter.tactic.unusedName false

namespace Sys2Proof.Machine
open Sys2Proof

theorem State.enterTask_framed {ps : List Part} (h : [Part.regs, .dies] ⊆ ps) {z s : State} {d : Die} {t_ : Nat}
    (hs : Framed ps z s) : Framed ps z (State.enterTask s d t_) := by
  unfold State.enterTask
  repeat' (first
    | with_reducible assumption
    | with_reducible refine State.when_framed ?_ (fun _ hs => ?_)
    | with_reducible refine State.setDie_framed (Framed.sub h) ?_ ?_
    | ((with_reducible refine fun (hn : Part.slices ∉ ps) => ?_); first | exact absurd (h (by decide)) hn | exact Framed.die hs hn _ | exact Framed.die (by assumption) hn _ | exact (hs _ hn).1 | exact (hs _ hn).2 | simpa using Framed.die hs hn _)
    | with_reducible refine State.when_framed ?_ (fun _ hs => ?_)
    | with_reducible refine State.event_framed (Framed.sub h) ?_
    | (fail_if_no_progress extract_lets +onlyGivenNames x
       refine cutL (p := Framed ps z x) ?_ ?_; subst x; rotate_left; intro hs; try clear_value x; rotate_right)
    | (fail_if_no_progress extract_lets +onlyGivenNames x
       first
       | (have hd : List _ := x; clear hd; clear_value x)
       | (have hd : Bool := x; clear hd; clear_value x)
       | (have hd : Nat := x; clear hd; clear_value x)
       | subst x)
    | fail_if_no_progress beta_reduce
    | with_reducible refine Framed.ite ?_ ?_
    | split
    | ((with_reducible refine Framed.upd ?_ ?_); rotate_left; intro p hp; cases p <;> first | exact absurd (h (by decide)) hp | rfl | exact ⟨rfl, rfl⟩))

theorem State.addArrival_framed {ps : List Part} (h : [Part.dies] ⊆ ps) {z s : State} {d : Die} {t_ : Nat}
    (hs : Framed ps z s) : Framed ps z (State.addArrival s d t_) := by
  unfold State.addArrival
  repeat' (first
    | with_reducible assumption
    | with_reducible refine State.setDie_framed (Framed.sub h) ?_ ?_
    | ((with_reducible refine fun (hn : Part.slices ∉ ps) => ?_); first | exact absurd (h (by decide)) hn | exact Framed.die hs hn _ | exact Framed.die (by assumption) hn _ | exact (hs _ hn).1 | exact (hs _ hn).2 | simpa using Framed.die hs hn _)
    | (fail_if_no_progress extract_lets +onlyGivenNames x
       refine cutL (p := Framed ps z x) ?_ ?_; subst x; rotate_left; intro hs; try clear_value x; rotate_right)
    | (fail_if_no_progress extract_lets +onlyGivenNames x
       first
       | (have hd : List _ := x; clear hd; clear_value x)
       | (have hd : Bool := x; clear hd; clear_value x)
       | (have hd : Nat := x; clear hd; clear_value x)
       | subst x)
    | fail_if_no_progress beta_reduce
    | ((with_reducible refine Framed.upd ?_ ?_); rotate_left; intro p hp; cases p <;> first | exact absurd (h (by decide)) hp | rfl | exact ⟨rfl, rfl⟩))

theorem State.arrive_framed {ps : List Part} (h : [Part.regs, .dies] ⊆ ps) {z s : State} {d : Die} {t_ : Nat}
    (hs : Framed ps z s) : Framed ps z (State.arrive s d t_) := by
  unfold State.arrive
  repeat' (first
    | with_reducible assumption
    | with_reducible refine State.addArrival_framed (Framed.sub h) ?_
    | with_reducible refine State.enterTask_framed (Framed.sub h) ?_)

theorem State.enterPhase_framed {ps : List Part} (h : [Part.regs, .dies] ⊆ ps) {z s : State} {d : Die}
    (hs : Framed ps z s) : Framed ps z (State.enterPhase s d) := by
  unfold State.enterPhase
  repeat' (first
    | with_reducible assumption
    | with_reducible refine State.enterTask_framed (Framed.sub h) ?_
    | with_reducible refine Framed.foldl ?_ (fun _ hs _ => ?_))

theorem State.freeEngine_framed {ps : List Part} (h : [Part.dies] ⊆ ps) {z s : State} {d : Die} {r : Running}
    (hs : Framed ps z s) : Framed ps z (State.freeEngine s d r) := by
  unfold State.freeEngine
  repeat' (first
    | with_reducible assumption
    | with_reducible refine State.setDie_framed (Framed.sub h) ?_ ?_
    | ((with_reducible refine fun (hn : Part.slices ∉ ps) => ?_); first | exact absurd (h (by decide)) hn | exact Framed.die hs hn _ | exact Framed.die (by assumption) hn _ | exact (hs _ hn).1 | exact (hs _ hn).2 | simpa using Framed.die hs hn _))

theorem State.completeTask_framed {ps : List Part} (h : [Part.regs, .dies] ⊆ ps) {z s : State} {d : Die} {r : Running}
    (hs : Framed ps z s) : Framed ps z (State.completeTask s d r) := by
  unfold State.completeTask
  repeat' (first
    | with_reducible assumption
    | with_reducible refine State.setDie_framed (Framed.sub h) ?_ ?_
    | ((with_reducible refine fun (hn : Part.slices ∉ ps) => ?_); first | exact absurd (h (by decide)) hn | exact Framed.die hs hn _ | exact Framed.die (by assumption) hn _ | exact (hs _ hn).1 | exact (hs _ hn).2 | simpa using Framed.die hs hn _)
    | with_reducible refine State.count_framed (Framed.sub h) ?_
    | with_reducible refine State.addArrival_framed (Framed.sub h) ?_
    | with_reducible refine State.enterPhase_framed (Framed.sub h) ?_
    | with_reducible refine State.freeEngine_framed (Framed.sub h) ?_
    | (fail_if_no_progress extract_lets +onlyGivenNames x
       refine cutL (p := Framed ps z x) ?_ ?_; subst x; rotate_left; intro hs; try clear_value x; rotate_right)
    | (fail_if_no_progress extract_lets +onlyGivenNames x
       first
       | (have hd : List _ := x; clear hd; clear_value x)
       | (have hd : Bool := x; clear hd; clear_value x)
       | (have hd : Nat := x; clear hd; clear_value x)
       | subst x)
    | fail_if_no_progress beta_reduce
    | with_reducible refine Framed.foldl ?_ (fun _ hs _ => ?_)
    | ((with_reducible refine Framed.upd ?_ ?_); rotate_left; intro p hp; cases p <;> first | exact absurd (h (by decide)) hp | rfl | exact ⟨rfl, rfl⟩))

theorem State.failTask_framed {ps : List Part} (h : [Part.regs, .dies, .host, .tally, .out] ⊆ ps) {z s : State} {d : Die} {r : Running} {status : Nat}
    (hs : Framed ps z s) : Framed ps z (State.failTask s d r status) := by
  unfold State.failTask
  repeat' (first
    | with_reducible assumption
    | with_reducible refine State.setReg_framed (Framed.sub h) ?_
    | with_reducible refine State.event_framed (Framed.sub h) ?_
    | with_reducible refine State.log_framed (Framed.sub h) ?_
    | with_reducible refine State.setDie_framed (Framed.sub h) ?_ ?_
    | ((with_reducible refine fun (hn : Part.slices ∉ ps) => ?_); first | exact absurd (h (by decide)) hn | exact Framed.die hs hn _ | exact Framed.die (by assumption) hn _ | exact (hs _ hn).1 | exact (hs _ hn).2 | simpa using Framed.die hs hn _))

end Sys2Proof.Machine
end

