-- ==== Sys2Proof/Laws/FrameFlags.lean ====
section
/-! SUPPORT. The parts of the state that the operations of Machine/Flags.lean can change. -/

set_option Elab.async false
set_option linter.unusedTactic false
set_option linter.unreachableTactic false
set_option linter.unusedVariables false
set_option linter.tactic.unusedName false

namespace Sys2Proof.Machine
open Sys2Proof



end Sys2Proof.Machine
end

