-- ==== Sys2Proof/Laws/FrameOperands.lean ====
section
/-! SUPPORT. The parts of the state that the operations of Machine/Operands.lean can change. -/

set_option Elab.async false
set_option linter.unusedTactic false
set_option linter.unreachableTactic false
set_option linter.unusedVariables false
set_option linter.tactic.unusedName false

namespace Sys2Proof.Machine
open Sys2Proof

theorem State.accessEvents_framed {ps : List Part} (h : [Part.regs] ⊆ ps) {z s : State} {a : Nat} {n : Nat} {status : Nat}
    (hs : Framed ps z s) : Framed ps z (State.accessEvents s a n status) := by
  unfold State.accessEvents
  repeat' (first
    | with_reducible assumption
    | with_reducible refine State.when_framed ?_ (fun _ hs => ?_)
    | with_reducible refine State.event_framed (Framed.sub h) ?_
    | with_reducible refine State.when_framed ?_ (fun _ hs => ?_)
    | with_reducible refine Framed.ite ?_ ?_
    | split
    | dsimp only)

theorem State.getHere_framed {ps : List Part} (h : [Part.regs] ⊆ ps) {z s : State} {a : Nat} {n : Nat}
    (hs : Framed ps z s) : Framed ps z (State.getHere s a n).1 := by
  unfold State.getHere
  repeat' (first
    | with_reducible assumption
    | with_reducible refine State.accessEvents_framed (Framed.sub h) ?_)

theorem State.getHere_framed_eq {ps : List Part} (h : [Part.regs] ⊆ ps) {z s tt : State} {pr : Nat × List Byte} {a : Nat} {n : Nat}
    (he : (State.getHere s a n) = (tt, pr)) (hs : Framed ps z s) : Framed ps z tt := by
  have := State.getHere_framed (a := a) (n := n) h hs
  rw [he] at this; exact this

theorem State.countCe_framed {ps : List Part} (h : [Part.regs] ⊆ ps) {z s : State} {ar : Area}
    (hs : Framed ps z s) : Framed ps z (State.countCe s ar) := by
  unfold State.countCe
  repeat' (first
    | with_reducible assumption
    | with_reducible refine State.event_framed (Framed.sub h) ?_
    | with_reducible refine State.count_framed (Framed.sub h) ?_
    | split)

theorem State.countDramCe_framed {ps : List Part} (h : [Part.regs] ⊆ ps) {z s : State} {d : Die} {n : Nat}
    (hs : Framed ps z s) : Framed ps z (State.countDramCe s d n) := by
  unfold State.countDramCe
  repeat' (first
    | with_reducible assumption
    | with_reducible refine State.when_framed ?_ (fun _ hs => ?_)
    | with_reducible refine State.when_framed ?_ (fun _ hs => ?_)
    | with_reducible refine State.count_framed (Framed.sub h) ?_
    | with_reducible refine State.event_framed (Framed.sub h) ?_)

theorem State.setUeAddr_framed {ps : List Part} (h : [Part.regs] ⊆ ps) {z s : State} {ar : Area} {a : Nat}
    (hs : Framed ps z s) : Framed ps z (State.setUeAddr s ar a) := by
  unfold State.setUeAddr
  repeat' (first
    | with_reducible assumption
    | with_reducible refine State.setReg_framed (Framed.sub h) ?_
    | with_reducible refine State.setPair_framed (Framed.sub h) ?_
    | split)

theorem State.engineFault_framed {ps : List Part} (h : [Part.regs, .plan, .dies, .host, .tally, .out] ⊆ ps) {z s : State} {d : Die} {p_ : Nat} {mem : Nat} {ofs : Nat}
    (hs : Framed ps z s) : Framed ps z (State.engineFault s d p_ mem ofs) := by
  unfold State.engineFault
  repeat' (first
    | with_reducible assumption
    | with_reducible refine State.when_framed ?_ (fun _ hs => ?_)
    | with_reducible refine State.setDie_framed (Framed.sub h) ?_ ?_
    | ((with_reducible refine fun (hn : Part.slices ∉ ps) => ?_); first | exact absurd (h (by decide)) hn | exact Framed.die hs hn _ | exact Framed.die (by assumption) hn _ | exact (hs _ hn).1 | exact (hs _ hn).2 | simpa using Framed.die hs hn _)
    | with_reducible refine State.event_framed (Framed.sub h) ?_
    | with_reducible refine State.log_framed (Framed.sub h) ?_
    | with_reducible refine State.when_framed ?_ (fun _ hs => ?_)
    | with_reducible refine State.invalid_framed (Framed.sub h) ?_
    | (fail_if_no_progress extract_lets +onlyGivenNames x
       refine cutL (p := Framed ps z x) ?_ ?_; subst x; rotate_left; intro hs; try clear_value x; rotate_right)
    | (fail_if_no_progress extract_lets +onlyGivenNames x
       first
       | (have hd : List _ := x; clear hd; clear_value x)
       | (have hd : Bool := x; clear hd; clear_value x)
       | (have hd : Nat := x; clear hd; clear_value x)
       | subst x)
    | fail_if_no_progress beta_reduce
    | ((with_reducible refine Framed.upd ?_ ?_); rotate_left; intro p hp; cases p <;> first | exact absurd (h (by decide)) hp | rfl | exact ⟨rfl, rfl⟩))

theorem State.stopNets_framed {ps : List Part} (h : [Part.dies] ⊆ ps) {z s : State} {keep : Option Die}
    (hs : Framed ps z s) : Framed ps z (State.stopNets s keep) := by
  unfold State.stopNets
  repeat' (first
    | with_reducible assumption
    | with_reducible refine State.setDie_framed (Framed.sub h) ?_ ?_
    | ((with_reducible refine fun (hn : Part.slices ∉ ps) => ?_); first | exact absurd (h (by decide)) hn | exact Framed.die hs hn _ | exact Framed.die (by assumption) hn _ | exact (hs _ hn).1 | exact (hs _ hn).2 | simpa using Framed.die hs hn _)
    | (fail_if_no_progress extract_lets +onlyGivenNames x
       refine cutL (p := Framed ps z x) ?_ ?_; subst x; rotate_left; intro hs; try clear_value x; rotate_right)
    | (fail_if_no_progress extract_lets +onlyGivenNames x
       first
       | (have hd : List _ := x; clear hd; clear_value x)
       | (have hd : Bool := x; clear hd; clear_value x)
       | (have hd : Nat := x; clear hd; clear_value x)
       | subst x)
    | fail_if_no_progress beta_reduce
    | with_reducible refine Framed.foldl ?_ (fun _ hs _ => ?_)
    | ((with_reducible refine Framed.upd ?_ ?_); rotate_left; intro p hp; cases p <;> first | exact absurd (h (by decide)) hp | rfl | exact ⟨rfl, rfl⟩))

theorem State.bufFault_framed {ps : List Part} (h : [Part.regs, .dies, .host, .tally, .out] ⊆ ps) {z s : State} {d : Die}
    (hs : Framed ps z s) : Framed ps z (State.bufFault s d) := by
  unfold State.bufFault
  repeat' (first
    | with_reducible assumption
    | with_reducible refine State.when_framed ?_ (fun _ hs => ?_)
    | with_reducible refine State.event_framed (Framed.sub h) ?_
    | with_reducible refine State.log_framed (Framed.sub h) ?_
    | with_reducible refine State.when_framed ?_ (fun _ hs => ?_)
    | with_reducible refine State.stopNets_framed (Framed.sub h) ?_
    | (fail_if_no_progress extract_lets +onlyGivenNames x
       refine cutL (p := Framed ps z x) ?_ ?_; subst x; rotate_left; intro hs; try clear_value x; rotate_right)
    | (fail_if_no_progress extract_lets +onlyGivenNames x
       first
       | (have hd : List _ := x; clear hd; clear_value x)
       | (have hd : Bool := x; clear hd; clear_value x)
       | (have hd : Nat := x; clear hd; clear_value x)
       | subst x)
    | fail_if_no_progress beta_reduce)

theorem State.heapFault_framed {ps : List Part} (h : [Part.regs, .plan, .host, .tally, .out] ⊆ ps) {z s : State} {d : Die} {ofs : Nat}
    (hs : Framed ps z s) : Framed ps z (State.heapFault s d ofs) := by
  unfold State.heapFault
  repeat' (first
    | with_reducible assumption
    | with_reducible refine State.when_framed ?_ (fun _ hs => ?_)
    | with_reducible refine State.event_framed (Framed.sub h) ?_
    | with_reducible refine State.log_framed (Framed.sub h) ?_
    | with_reducible refine State.when_framed ?_ (fun _ hs => ?_)
    | with_reducible refine State.invalid_framed (Framed.sub h) ?_)

theorem State.countUe_framed {ps : List Part} (h : [Part.regs, .plan, .dies, .host, .tally, .out] ⊆ ps) {z s : State} {ar : Area} {a : Nat}
    (hs : Framed ps z s) : Framed ps z (State.countUe s ar a) := by
  unfold State.countUe
  repeat' (first
    | with_reducible assumption
    | with_reducible refine State.setUeAddr_framed (Framed.sub h) ?_
    | with_reducible refine State.count_framed (Framed.sub h) ?_
    | with_reducible refine State.event_framed (Framed.sub h) ?_
    | with_reducible refine State.engineFault_framed (Framed.sub h) ?_
    | with_reducible refine State.bufFault_framed (Framed.sub h) ?_
    | with_reducible refine State.heapFault_framed (Framed.sub h) ?_
    | (fail_if_no_progress extract_lets +onlyGivenNames x
       refine cutL (p := Framed ps z x) ?_ ?_; subst x; rotate_left; intro hs; try clear_value x; rotate_right)
    | (fail_if_no_progress extract_lets +onlyGivenNames x
       first
       | (have hd : List _ := x; clear hd; clear_value x)
       | (have hd : Bool := x; clear hd; clear_value x)
       | (have hd : Nat := x; clear hd; clear_value x)
       | subst x)
    | fail_if_no_progress beta_reduce
    | split
    | dsimp only)

theorem State.sourceUe_framed {ps : List Part} (h : [Part.free, .regs, .plan, .dies, .host, .tally, .out] ⊆ ps) {z s : State} {a : Nat} {len : Nat}
    (hs : Framed ps z s) : Framed ps z (State.sourceUe s a len) := by
  unfold State.sourceUe
  repeat' (first
    | with_reducible assumption
    | with_reducible refine State.freeWord_framed (Framed.sub h) ?_
    | with_reducible exact State.freeWord_framed_eq (Framed.sub h) (by assumption) (by assumption)
    | with_reducible refine State.countUe_framed (Framed.sub h) ?_
    | (fail_if_no_progress extract_lets +onlyGivenNames x
       refine cutL (p := Framed ps z x) ?_ ?_; subst x; rotate_left; intro hs; try clear_value x; rotate_right)
    | (fail_if_no_progress extract_lets +onlyGivenNames x
       first
       | (have hd : List _ := x; clear hd; clear_value x)
       | (have hd : Bool := x; clear hd; clear_value x)
       | (have hd : Nat := x; clear hd; clear_value x)
       | subst x)
    | fail_if_no_progress beta_reduce
    | split
    | dsimp only)

theorem State.countBusy_framed {ps : List Part} (h : [Part.regs] ⊆ ps) {z s : State} {d : Die} {n : Nat}
    (hs : Framed ps z s) : Framed ps z (State.countBusy s d n) := by
  unfold State.countBusy
  repeat' (first
    | with_reducible assumption
    | with_reducible refine State.event_framed (Framed.sub h) ?_
    | with_reducible refine State.count_framed (Framed.sub h) ?_)

theorem State.getFaulty_framed {ps : List Part} (h : [Part.regs, .plan, .dies, .host, .tally, .out] ⊆ ps) {z s : State} {a : Nat} {n : Nat} {fault : Nat}
    (hs : Framed ps z s) : Framed ps z (State.getFaulty s a n fault).1 := by
  unfold State.getFaulty
  repeat' (first
    | with_reducible assumption
    | with_reducible exact State.getHere_framed_eq (Framed.sub h) (by assumption) (by assumption)
    | with_reducible refine State.countCe_framed (Framed.sub h) ?_
    | with_reducible refine State.countUe_framed (Framed.sub h) ?_
    | with_reducible refine State.countBusy_framed (Framed.sub h) ?_
    | (fail_if_no_progress extract_lets +onlyGivenNames x
       refine cutL (p := Framed ps z x) ?_ ?_; subst x; rotate_left; intro hs; try clear_value x; rotate_right)
    | split)

theorem State.getFaulty_framed_eq {ps : List Part} (h : [Part.regs, .plan, .dies, .host, .tally, .out] ⊆ ps) {z s tt : State} {pr : Nat × List Byte} {a : Nat} {n : Nat} {fault : Nat}
    (he : (State.getFaulty s a n fault) = (tt, pr)) (hs : Framed ps z s) : Framed ps z tt := by
  have := State.getFaulty_framed (a := a) (n := n) (fault := fault) h hs
  rw [he] at this; exact this

theorem State.writeEvents_framed {ps : List Part} (h : [Part.regs] ⊆ ps) {z s : State} {a : Nat} {n : Nat} {st : Nat}
    (hs : Framed ps z s) : Framed ps z (State.writeEvents s a n st) := by
  unfold State.writeEvents
  repeat' (first
    | with_reducible assumption
    | with_reducible refine State.event_framed (Framed.sub h) ?_
    | with_reducible refine State.accessEvents_framed (Framed.sub h) ?_
    | with_reducible refine State.when_framed ?_ (fun _ hs => ?_)
    | (fail_if_no_progress extract_lets +onlyGivenNames x
       refine cutL (p := Framed ps z x) ?_ ?_; subst x; rotate_left; intro hs; try clear_value x; rotate_right)
    | (fail_if_no_progress extract_lets +onlyGivenNames x
       first
       | (have hd : List _ := x; clear hd; clear_value x)
       | (have hd : Bool := x; clear hd; clear_value x)
       | (have hd : Nat := x; clear hd; clear_value x)
       | subst x)
    | split)

theorem State.putHere_framed {ps : List Part} (h : [Part.regs, .mem, .slices] ⊆ ps) {z s : State} {a : Nat} {data : List Byte}
    (hs : Framed ps z s) : Framed ps z (State.putHere s a data).1 := by
  unfold State.putHere
  repeat' (first
    | with_reducible assumption
    | with_reducible refine State.store_framed (Framed.sub h) ?_
    | with_reducible refine State.writeEvents_framed (Framed.sub h) ?_
    | with_reducible refine State.when_framed ?_ (fun _ hs => ?_))

theorem State.putHere_framed_eq {ps : List Part} (h : [Part.regs, .mem, .slices] ⊆ ps) {z s tt : State} {pr : Nat} {a : Nat} {data : List Byte}
    (he : (State.putHere s a data) = (tt, pr)) (hs : Framed ps z s) : Framed ps z tt := by
  have := State.putHere_framed (a := a) (data := data) h hs
  rw [he] at this; exact this

theorem State.atomicHere_framed {ps : List Part} (h : [Part.regs, .mem, .slices] ⊆ ps) {z s : State} {a : Nat} {f : Nat → Option Nat}
    (hs : Framed ps z s) : Framed ps z (State.atomicHere s a f).1 := by
  unfold State.atomicHere
  repeat' (first
    | with_reducible assumption
    | with_reducible refine State.store_framed (Framed.sub h) ?_
    | with_reducible refine State.writeEvents_framed (Framed.sub h) ?_
    | (fail_if_no_progress extract_lets +onlyGivenNames x
       refine cutL (p := Framed ps z x) ?_ ?_; subst x; rotate_left; intro hs; try clear_value x; rotate_right)
    | (fail_if_no_progress extract_lets +onlyGivenNames x
       first
       | (have hd : List _ := x; clear hd; clear_value x)
       | (have hd : Bool := x; clear hd; clear_value x)
       | (have hd : Nat := x; clear hd; clear_value x)
       | subst x)
    | split)

theorem State.atomicHere_framed_eq {ps : List Part} (h : [Part.regs, .mem, .slices] ⊆ ps) {z s tt : State} {pr : Nat × List Byte} {a : Nat} {f : Nat → Option Nat}
    (he : (State.atomicHere s a f) = (tt, pr)) (hs : Framed ps z s) : Framed ps z tt := by
  have := State.atomicHere_framed (a := a) (f := f) h hs
  rw [he] at this; exact this

theorem State.atomicFaulty_framed {ps : List Part} (h : [Part.free, .regs, .mem, .slices, .plan, .dies, .host, .tally, .out] ⊆ ps) {z s : State} {a : Nat} {fault : Nat} {f : Nat → Option Nat}
    (hs : Framed ps z s) : Framed ps z (State.atomicFaulty s a fault f).1 := by
  unfold State.atomicFaulty
  repeat' (first
    | with_reducible assumption
    | with_reducible refine State.atomicHere_framed (Framed.sub h) ?_
    | with_reducible exact State.atomicHere_framed_eq (Framed.sub h) (by assumption) (by assumption)
    | with_reducible refine State.countCe_framed (Framed.sub h) ?_
    | with_reducible refine State.countUe_framed (Framed.sub h) ?_
    | with_reducible refine State.freeBytes_framed (Framed.sub h) ?_
    | with_reducible exact State.freeBytes_framed_eq (Framed.sub h) (by assumption) (by assumption)
    | with_reducible refine State.store_framed (Framed.sub h) ?_
    | (fail_if_no_progress extract_lets +onlyGivenNames x
       refine cutL (p := Framed ps z x) ?_ ?_; subst x; rotate_left; intro hs; try clear_value x; rotate_right)
    | (fail_if_no_progress extract_lets +onlyGivenNames x
       first
       | (have hd : List _ := x; clear hd; clear_value x)
       | (have hd : Bool := x; clear hd; clear_value x)
       | (have hd : Nat := x; clear hd; clear_value x)
       | subst x)
    | fail_if_no_progress beta_reduce
    | with_reducible refine Framed.ite ?_ ?_
    | split
    | dsimp only)

theorem State.atomicFaulty_framed_eq {ps : List Part} (h : [Part.free, .regs, .mem, .slices, .plan, .dies, .host, .tally, .out] ⊆ ps) {z s tt : State} {pr : Nat × List Byte} {a : Nat} {fault : Nat} {f : Nat → Option Nat}
    (he : (State.atomicFaulty s a fault f) = (tt, pr)) (hs : Framed ps z s) : Framed ps z tt := by
  have := State.atomicFaulty_framed (a := a) (fault := fault) (f := f) h hs
  rw [he] at this; exact this

theorem State.bumpCounter_framed {ps : List Part} (h : [Part.regs, .mem, .slices, .dies] ⊆ ps) {z s : State} {ctr : Nat}
    (hs : Framed ps z s) : Framed ps z (State.bumpCounter s ctr) := by
  unfold State.bumpCounter
  repeat' (first
    | with_reducible assumption
    | with_reducible refine State.store_framed (Framed.sub h) ?_
    | with_reducible refine State.arrive_framed (Framed.sub h) ?_
    | split)

theorem State.signalHere_framed {ps : List Part} (h : [Part.regs, .mem, .slices, .dies] ⊆ ps) {z s : State} {a : Nat} {data : List Byte} {ctr : Nat}
    (hs : Framed ps z s) : Framed ps z (State.signalHere s a data ctr).1 := by
  unfold State.signalHere
  repeat' (first
    | with_reducible assumption
    | with_reducible refine State.store_framed (Framed.sub h) ?_
    | with_reducible refine State.writeEvents_framed (Framed.sub h) ?_
    | with_reducible refine State.bumpCounter_framed (Framed.sub h) ?_
    | with_reducible refine State.when_framed ?_ (fun _ hs => ?_)
    | with_reducible refine Framed.ite ?_ ?_)

theorem State.signalHere_framed_eq {ps : List Part} (h : [Part.regs, .mem, .slices, .dies] ⊆ ps) {z s tt : State} {pr : Nat} {a : Nat} {data : List Byte} {ctr : Nat}
    (he : (State.signalHere s a data ctr) = (tt, pr)) (hs : Framed ps z s) : Framed ps z tt := by
  have := State.signalHere_framed (a := a) (data := data) (ctr := ctr) h hs
  rw [he] at this; exact this

theorem State.engineStore_framed {ps : List Part} (h : [Part.mem, .slices] ⊆ ps) {z s : State} {a : Nat} {data : List Byte}
    (hs : Framed ps z s) : Framed ps z (State.engineStore s a data) := by
  unfold State.engineStore
  repeat' (first
    | with_reducible assumption
    | with_reducible refine State.when_framed ?_ (fun _ hs => ?_)
    | with_reducible refine State.when_framed ?_ (fun _ hs => ?_)
    | with_reducible refine State.store_framed (Framed.sub h) ?_)

theorem State.contend_framed {ps : List Part} (h : [Part.regs, .dies] ⊆ ps) {z s : State} {d : Die} {port : Nat} {reqs : List Nat}
    (hs : Framed ps z s) : Framed ps z (State.contend s d port reqs) := by
  unfold State.contend
  repeat' (first
    | with_reducible assumption
    | with_reducible refine State.setDie_framed (Framed.sub h) ?_ ?_
    | ((with_reducible refine fun (hn : Part.slices ∉ ps) => ?_); first | exact absurd (h (by decide)) hn | exact Framed.die hs hn _ | exact Framed.die (by assumption) hn _ | exact (hs _ hn).1 | exact (hs _ hn).2 | simpa using Framed.die hs hn _)
    | with_reducible refine State.count_framed (Framed.sub h) ?_
    | (fail_if_no_progress extract_lets +onlyGivenNames x
       refine cutL (p := Framed ps z x) ?_ ?_; subst x; rotate_left; intro hs; try clear_value x; rotate_right)
    | (fail_if_no_progress extract_lets +onlyGivenNames x
       first
       | (have hd : List _ := x; clear hd; clear_value x)
       | (have hd : Bool := x; clear hd; clear_value x)
       | (have hd : Nat := x; clear hd; clear_value x)
       | subst x)
    | fail_if_no_progress beta_reduce
    | with_reducible refine Framed.ite ?_ ?_
    | with_reducible refine Framed.foldl ?_ (fun _ hs _ => ?_)
    | split
    | ((with_reducible refine Framed.upd ?_ ?_); rotate_left; intro p hp; cases p <;> first | exact absurd (h (by decide)) hp | rfl | exact ⟨rfl, rfl⟩)
    | dsimp only)

theorem State.contendAll_framed {ps : List Part} (h : [Part.regs, .dies] ⊆ ps) {z s : State} {ports : List (Die × Nat × List Nat)}
    (hs : Framed ps z s) : Framed ps z (State.contendAll s ports) := by
  unfold State.contendAll
  repeat' (first
    | with_reducible assumption
    | with_reducible refine State.contend_framed (Framed.sub h) ?_
    | with_reducible refine Framed.foldl ?_ (fun _ hs _ => ?_))

theorem State.contendOn_framed {ps : List Part} (h : [Part.regs, .dies] ⊆ ps) {z s : State} {d : Die} {ports : List (Nat × List Nat)}
    (hs : Framed ps z s) : Framed ps z (State.contendOn s d ports) := by
  unfold State.contendOn
  repeat' (first
    | with_reducible assumption
    | with_reducible refine State.contend_framed (Framed.sub h) ?_
    | with_reducible refine Framed.foldl ?_ (fun _ hs _ => ?_))

theorem State.noteStall_framed {ps : List Part} (h : [Part.regs] ⊆ ps) {z s : State} {a : Nat} {n : Nat}
    (hs : Framed ps z s) : Framed ps z (State.noteStall s a n) := by
  unfold State.noteStall
  repeat' (first
    | with_reducible assumption
    | with_reducible refine State.event_framed (Framed.sub h) ?_
    | split
    | dsimp only)

theorem State.noteStalls_framed {ps : List Part} (h : [Part.regs] ⊆ ps) {z s : State} {spans : List (Nat × Nat)}
    (hs : Framed ps z s) : Framed ps z (State.noteStalls s spans) := by
  unfold State.noteStalls
  repeat' (first
    | with_reducible assumption
    | with_reducible refine State.noteStall_framed (Framed.sub h) ?_
    | with_reducible refine Framed.foldl ?_ (fun _ hs _ => ?_))

theorem State.afterFront_framed {ps : List Part} (h : [Part.regs] ⊆ ps) {z s : State} {spans : List (Nat × Nat)} {next : State → State}
    (hs : Framed ps z s) (hnext : ∀ t, Framed ps z t → Framed ps z (next t)) : Framed ps z (State.afterFront s spans next) := by
  unfold State.afterFront
  repeat' (first
    | with_reducible assumption
    | with_reducible refine State.noteStalls_framed (Framed.sub h) ?_
    | with_reducible refine Framed.ite ?_ ?_
    | with_reducible refine hnext _  ?_
    | split)

end Sys2Proof.Machine
end

