-- ==== Sys2Proof/Laws/FrameLinks.lean ====
section
/-! SUPPORT. The parts of the state that the operations of Machine/Links.lean can change. -/

set_option Elab.async false
set_option linter.unusedTactic false
set_option linter.unreachableTactic false
set_option linter.unusedVariables false
set_option linter.tactic.unusedName false

namespace Sys2Proof.Machine
open Sys2Proof

theorem State.mapPort_framed {ps : List Part} (h : [Part.kl] ⊆ ps) {z s : State} {p_ : Nat} {f : Port → Port}
    (hs : Framed ps z s) : Framed ps z (State.mapPort s p_ f) := by
  unfold State.mapPort
  repeat' (first
    | with_reducible assumption
    | (fail_if_no_progress extract_lets +onlyGivenNames x
       first
       | (have hd : List _ := x; clear hd; clear_value x)
       | (have hd : Bool := x; clear hd; clear_value x)
       | (have hd : Nat := x; clear hd; clear_value x)
       | subst x)
    | ((with_reducible refine Framed.upd ?_ ?_); rotate_left; intro p hp; cases p <;> first | exact absurd (h (by decide)) hp | rfl | exact ⟨rfl, rfl⟩))

theorem State.freeFlit_framed {ps : List Part} (h : [Part.out] ⊆ ps) {z s : State} {f : WaitFlit}
    (hs : Framed ps z s) : Framed ps z (State.freeFlit s f) := by
  unfold State.freeFlit
  repeat' (first
    | with_reducible assumption
    | with_reducible refine State.when_framed ?_ (fun _ hs => ?_)
    | with_reducible refine State.when_framed ?_ (fun _ hs => ?_)
    | with_reducible refine State.emit_framed (Framed.sub h) ?_)

theorem State.pumpPort_framed {ps : List Part} (h : [Part.kl, .out] ⊆ ps) {z s : State} {p_ : Nat}
    (hs : Framed ps z s) : Framed ps z (State.pumpPort s p_) := by
  unfold State.pumpPort
  repeat' (first
    | with_reducible assumption
    | with_reducible refine State.emit_framed (Framed.sub h) ?_
    | with_reducible refine State.freeFlit_framed (Framed.sub h) ?_
    | with_reducible refine State.mapPort_framed (Framed.sub h) ?_
    | (fail_if_no_progress extract_lets +onlyGivenNames x
       refine cutL (p := Framed ps z x) ?_ ?_; subst x; rotate_left; intro hs; try clear_value x; rotate_right)
    | (fail_if_no_progress extract_lets +onlyGivenNames x
       first
       | (have hd : List _ := x; clear hd; clear_value x)
       | (have hd : Bool := x; clear hd; clear_value x)
       | (have hd : Nat := x; clear hd; clear_value x)
       | subst x)
    | fail_if_no_progress beta_reduce
    | with_reducible refine Framed.foldl ?_ (fun _ hs _ => ?_)
    | split
    | dsimp only)

theorem State.passOn_framed {ps : List Part} (h : [Part.kl, .out] ⊆ ps) {z s : State} {outs : List (Nat × Nat)} {f : Nat → WaitFlit}
    (hs : Framed ps z s) : Framed ps z (State.passOn s outs f) := by
  unfold State.passOn
  repeat' (first
    | with_reducible assumption
    | with_reducible refine State.mapPort_framed (Framed.sub h) ?_
    | with_reducible refine State.freeFlit_framed (Framed.sub h) ?_
    | with_reducible refine State.pumpPort_framed (Framed.sub h) ?_
    | (fail_if_no_progress extract_lets +onlyGivenNames x
       refine cutL (p := Framed ps z x) ?_ ?_; subst x; rotate_left; intro hs; try clear_value x; rotate_right)
    | (fail_if_no_progress extract_lets +onlyGivenNames x
       first
       | (have hd : List _ := x; clear hd; clear_value x)
       | (have hd : Bool := x; clear hd; clear_value x)
       | (have hd : Nat := x; clear hd; clear_value x)
       | subst x)
    | fail_if_no_progress beta_reduce
    | with_reducible refine Framed.ite ?_ ?_
    | with_reducible refine Framed.foldl ?_ (fun _ hs _ => ?_)
    | split
    | ((with_reducible refine Framed.upd ?_ ?_); rotate_left; intro p hp; cases p <;> first | exact absurd (h (by decide)) hp | rfl | exact ⟨rfl, rfl⟩))

theorem State.sendFrom_framed {ps : List Part} (h : [Part.kl, .out] ⊆ ps) {z s : State} {src : Nat} {p_ : Nat} {vc : Nat} {packet : List Byte}
    (hs : Framed ps z s) : Framed ps z (State.sendFrom s src p_ vc packet) := by
  unfold State.sendFrom
  repeat' (first
    | with_reducible assumption
    | with_reducible refine State.mapPort_framed (Framed.sub h) ?_
    | with_reducible refine State.pumpPort_framed (Framed.sub h) ?_
    | ((with_reducible refine Framed.upd ?_ ?_); rotate_left; intro p hp; cases p <;> first | exact absurd (h (by decide)) hp | rfl | exact ⟨rfl, rfl⟩))

theorem State.sendOn_framed {ps : List Part} (h : [Part.kl, .out] ⊆ ps) {z s : State} {p_ : Nat} {vc : Nat} {packet : List Byte}
    (hs : Framed ps z s) : Framed ps z (State.sendOn s p_ vc packet) := by
  unfold State.sendOn
  repeat' (first
    | with_reducible assumption
    | with_reducible refine State.sendFrom_framed (Framed.sub h) ?_)

theorem State.issueSized_framed {ps : List Part} (h : [Part.kl, .out] ⊆ ps) {z s : State} {op : Nat} {node : Nat} {addr : Nat} {len : Nat} {data : List Byte} {who : Issuer}
    (hs : Framed ps z s) : Framed ps z (State.issueSized s op node addr len data who).1 := by
  unfold State.issueSized
  repeat' (first
    | with_reducible assumption
    | with_reducible refine State.sendOn_framed (Framed.sub h) ?_
    | (fail_if_no_progress extract_lets +onlyGivenNames x
       refine cutL (p := Framed ps z x) ?_ ?_; subst x; rotate_left; intro hs; try clear_value x; rotate_right)
    | (fail_if_no_progress extract_lets +onlyGivenNames x
       first
       | (have hd : List _ := x; clear hd; clear_value x)
       | (have hd : Bool := x; clear hd; clear_value x)
       | (have hd : Nat := x; clear hd; clear_value x)
       | subst x)
    | fail_if_no_progress beta_reduce
    | with_reducible refine Framed.ite ?_ ?_
    | split
    | ((with_reducible refine Framed.upd ?_ ?_); rotate_left; intro p hp; cases p <;> first | exact absurd (h (by decide)) hp | rfl | exact ⟨rfl, rfl⟩)
    | dsimp only)

theorem State.issueSized_framed_eq {ps : List Part} (h : [Part.kl, .out] ⊆ ps) {z s tt : State} {pr : Option Nat} {op : Nat} {node : Nat} {addr : Nat} {len : Nat} {data : List Byte} {who : Issuer}
    (he : (State.issueSized s op node addr len data who) = (tt, pr)) (hs : Framed ps z s) : Framed ps z tt := by
  have := State.issueSized_framed (op := op) (node := node) (addr := addr) (len := len) (data := data) (who := who) h hs
  rw [he] at this; exact this

theorem State.issueRemote_framed {ps : List Part} (h : [Part.kl, .out] ⊆ ps) {z s : State} {op : Nat} {node : Nat} {addr : Nat} {data : List Byte} {who : Issuer}
    (hs : Framed ps z s) : Framed ps z (State.issueRemote s op node addr data who).1 := by
  unfold State.issueRemote
  repeat' (first
    | with_reducible assumption
    | with_reducible refine State.issueSized_framed (Framed.sub h) ?_)

theorem State.issueRemote_framed_eq {ps : List Part} (h : [Part.kl, .out] ⊆ ps) {z s tt : State} {pr : Option Nat} {op : Nat} {node : Nat} {addr : Nat} {data : List Byte} {who : Issuer}
    (he : (State.issueRemote s op node addr data who) = (tt, pr)) (hs : Framed ps z s) : Framed ps z tt := by
  have := State.issueRemote_framed (op := op) (node := node) (addr := addr) (data := data) (who := who) h hs
  rw [he] at this; exact this

theorem State.respond_framed {ps : List Part} (h : [Part.kl, .out] ⊆ ps) {z s : State} {node : Nat} {tag : Nat} {status : Nat} {data : List Byte}
    (hs : Framed ps z s) : Framed ps z (State.respond s node tag status data) := by
  unfold State.respond
  repeat' (first
    | with_reducible assumption
    | with_reducible refine State.emit_framed (Framed.sub h) ?_
    | with_reducible refine State.sendOn_framed (Framed.sub h) ?_
    | (fail_if_no_progress extract_lets +onlyGivenNames x
       refine cutL (p := Framed ps z x) ?_ ?_; subst x; rotate_left; intro hs; try clear_value x; rotate_right)
    | split)

end Sys2Proof.Machine
end

