-- ==== Sys2Proof/Laws/FrameUnits.lean ====
section
/-! SUPPORT. The parts of the state that the operations of Machine/Units.lean can change. -/

set_option Elab.async false
set_option linter.unusedTactic false
set_option linter.unreachableTactic false
set_option linter.unusedVariables false
set_option linter.tactic.unusedName false

namespace Sys2Proof.Machine
open Sys2Proof

theorem State.writeCanary_framed {ps : List Part} (h : [Part.mem, .slices] ⊆ ps) {z s : State} {d : Die} {p_ : Nat}
    (hs : Framed ps z s) : Framed ps z (State.writeCanary s d p_) := by
  unfold State.writeCanary
  repeat' (first
    | with_reducible assumption
    | with_reducible refine State.storeWin_framed (Framed.sub h) ?_
    | split)

theorem State.reportRetired_framed {ps : List Part} (h : [Part.regs, .host, .tally, .out] ⊆ ps) {z s : State} {d : Die} {p_ : Nat} {c : CeUnit}
    (hs : Framed ps z s) : Framed ps z (State.reportRetired s d p_ c) := by
  unfold State.reportRetired
  repeat' (first
    | with_reducible assumption
    | with_reducible refine State.when_framed ?_ (fun _ hs => ?_)
    | with_reducible refine State.event_framed (Framed.sub h) ?_
    | with_reducible refine State.when_framed ?_ (fun _ hs => ?_)
    | with_reducible refine State.log_framed (Framed.sub h) ?_
    | (fail_if_no_progress extract_lets +onlyGivenNames x
       refine cutL (p := Framed ps z x) ?_ ?_; subst x; rotate_left; intro hs; try clear_value x; rotate_right)
    | (fail_if_no_progress extract_lets +onlyGivenNames x
       first
       | (have hd : List _ := x; clear hd; clear_value x)
       | (have hd : Bool := x; clear hd; clear_value x)
       | (have hd : Nat := x; clear hd; clear_value x)
       | subst x)
    | fail_if_no_progress beta_reduce
    | with_reducible refine Framed.ite ?_ ?_
    | split)

theorem State.changeCes_framed {ps : List Part} (h : [Part.regs, .mem, .slices, .dies, .host, .tally, .out] ⊆ ps) {z s : State} {d : Die} {before : Nat} {gone : List Nat} {due : Bool} {pool : Bool}
    (hs : Framed ps z s) : Framed ps z (State.changeCes s d before gone due pool) := by
  unfold State.changeCes
  repeat' (first
    | with_reducible assumption
    | with_reducible refine State.when_framed ?_ (fun _ hs => ?_)
    | with_reducible refine State.setDie_framed (Framed.sub h) ?_ ?_
    | ((with_reducible refine fun (hn : Part.slices ∉ ps) => ?_); first | exact absurd (h (by decide)) hn | exact Framed.die hs hn _ | exact Framed.die (by assumption) hn _ | exact (hs _ hn).1 | exact (hs _ hn).2 | simpa using Framed.die hs hn _)
    | with_reducible refine State.reportRetired_framed (Framed.sub h) ?_
    | with_reducible refine State.when_framed ?_ (fun _ hs => ?_)
    | with_reducible refine State.writeCanary_framed (Framed.sub h) ?_
    | with_reducible refine State.event_framed (Framed.sub h) ?_
    | (fail_if_no_progress extract_lets +onlyGivenNames x
       refine cutL (p := Framed ps z x) ?_ ?_; subst x; rotate_left; intro hs; try clear_value x; rotate_right)
    | (fail_if_no_progress extract_lets +onlyGivenNames x
       first
       | (have hd : List _ := x; clear hd; clear_value x)
       | (have hd : Bool := x; clear hd; clear_value x)
       | (have hd : Nat := x; clear hd; clear_value x)
       | subst x)
    | fail_if_no_progress beta_reduce
    | with_reducible refine Framed.ite ?_ ?_
    | with_reducible refine Framed.foldl ?_ (fun _ hs _ => ?_)
    | split
    | ((with_reducible refine Framed.upd ?_ ?_); rotate_left; intro p hp; cases p <;> first | exact absurd (h (by decide)) hp | rfl | exact ⟨rfl, rfl⟩)
    | dsimp only)

theorem State.rotationPoint_framed {ps : List Part} (h : [Part.regs, .mem, .slices, .dies, .host, .tally, .out] ⊆ ps) {z s : State} {d : Die} {before : Nat}
    (hs : Framed ps z s) : Framed ps z (State.rotationPoint s d before) := by
  unfold State.rotationPoint
  repeat' (first
    | with_reducible assumption
    | with_reducible refine State.changeCes_framed (Framed.sub h) ?_)

theorem State.retireRows_framed {ps : List Part} (h : [Part.regs, .dies, .host, .tally, .out] ⊆ ps) {z s : State} {d : Die}
    (hs : Framed ps z s) : Framed ps z (State.retireRows s d) := by
  unfold State.retireRows
  repeat' (first
    | with_reducible assumption
    | with_reducible refine State.setDie_framed (Framed.sub h) ?_ ?_
    | ((with_reducible refine fun (hn : Part.slices ∉ ps) => ?_); first | exact absurd (h (by decide)) hn | exact Framed.die hs hn _ | exact Framed.die (by assumption) hn _ | exact (hs _ hn).1 | exact (hs _ hn).2 | simpa using Framed.die hs hn _)
    | with_reducible refine State.event_framed (Framed.sub h) ?_
    | with_reducible refine State.log_framed (Framed.sub h) ?_
    | (fail_if_no_progress extract_lets +onlyGivenNames x
       refine cutL (p := Framed ps z x) ?_ ?_; subst x; rotate_left; intro hs; try clear_value x; rotate_right)
    | (fail_if_no_progress extract_lets +onlyGivenNames x
       first
       | (have hd : List _ := x; clear hd; clear_value x)
       | (have hd : Bool := x; clear hd; clear_value x)
       | (have hd : Nat := x; clear hd; clear_value x)
       | subst x)
    | fail_if_no_progress beta_reduce
    | with_reducible refine Framed.ite ?_ ?_
    | with_reducible refine Framed.foldl ?_ (fun _ hs _ => ?_)
    | split
    | ((with_reducible refine Framed.upd ?_ ?_); rotate_left; intro p hp; cases p <;> first | exact absurd (h (by decide)) hp | rfl | exact ⟨rfl, rfl⟩))

theorem State.boundaryUnits_framed {ps : List Part} (h : [Part.regs, .mem, .slices, .dies, .host, .tally, .out] ⊆ ps) {z s : State} {d : Die}
    (hs : Framed ps z s) : Framed ps z (State.boundaryUnits s d) := by
  unfold State.boundaryUnits
  repeat' (first
    | with_reducible assumption
    | with_reducible refine State.setDie_framed (Framed.sub h) ?_ ?_
    | ((with_reducible refine fun (hn : Part.slices ∉ ps) => ?_); first | exact absurd (h (by decide)) hn | exact Framed.die hs hn _ | exact Framed.die (by assumption) hn _ | exact (hs _ hn).1 | exact (hs _ hn).2 | simpa using Framed.die hs hn _)
    | with_reducible refine State.retireRows_framed (Framed.sub h) ?_
    | with_reducible refine State.rotationPoint_framed (Framed.sub h) ?_
    | (fail_if_no_progress extract_lets +onlyGivenNames x
       refine cutL (p := Framed ps z x) ?_ ?_; subst x; rotate_left; intro hs; try clear_value x; rotate_right)
    | (fail_if_no_progress extract_lets +onlyGivenNames x
       first
       | (have hd : List _ := x; clear hd; clear_value x)
       | (have hd : Bool := x; clear hd; clear_value x)
       | (have hd : Nat := x; clear hd; clear_value x)
       | subst x)
    | fail_if_no_progress beta_reduce
    | with_reducible refine Framed.ite ?_ ?_
    | split)

end Sys2Proof.Machine
end

