-- ==== Sys2Proof/Laws/FrameCarry.lean ====
section
/-! SUPPORT. The parts of the state that the operations of Machine/Carry.lean can change. -/

set_option Elab.async false
set_option linter.unusedTactic false
set_option linter.unreachableTactic false
set_option linter.unusedVariables false
set_option linter.tactic.unusedName false

namespace Sys2Proof.Machine
open Sys2Proof

theorem State.saveTo_framed {ps : List Part} (h : [Part.mem, .slices] ⊆ ps) {z s : State} {base : Nat} {snapshot : Bool}
    (hs : Framed ps z s) : Framed ps z (State.saveTo s base snapshot).1 := by
  unfold State.saveTo
  repeat' (first
    | with_reducible assumption
    | with_reducible refine State.store_framed (Framed.sub h) ?_
    | split)

theorem State.saveTo_framed_eq {ps : List Part} (h : [Part.mem, .slices] ⊆ ps) {z s tt : State} {pr : Nat} {base : Nat} {snapshot : Bool}
    (he : (State.saveTo s base snapshot) = (tt, pr)) (hs : Framed ps z s) : Framed ps z tt := by
  have := State.saveTo_framed (base := base) (snapshot := snapshot) h hs
  rw [he] at this; exact this

theorem State.writeBank_framed {ps : List Part} (h : [Part.mem, .slices] ⊆ ps) {z s : State} {b : Nat} {data : List Byte}
    (hs : Framed ps z s) : Framed ps z (State.writeBank s b data) := by
  unfold State.writeBank
  repeat' (first
    | with_reducible assumption
    | with_reducible refine State.storeWin_framed (Framed.sub h) ?_
    | with_reducible refine Framed.foldl ?_ (fun _ hs _ => ?_))

theorem State.writeCurrent_framed {ps : List Part} (h : [Part.mem, .slices] ⊆ ps) {z s : State} {data : List Byte}
    (hs : Framed ps z s) : Framed ps z (State.writeCurrent s data) := by
  unfold State.writeCurrent
  repeat' (first
    | with_reducible assumption
    | with_reducible refine State.storeWin_framed (Framed.sub h) ?_
    | with_reducible refine Framed.foldl ?_ (fun _ hs _ => ?_))

theorem State.restoreLoad_framed {ps : List Part} (h : [Part.seed, .regs, .badRegs, .mem, .slices, .tick, .plan, .world, .dep] ⊆ ps) {z s : State} {base : Nat}
    (hs : Framed ps z s) : Framed ps z (State.restoreLoad s base) := by
  unfold State.restoreLoad
  repeat' (first
    | with_reducible assumption
    | with_reducible refine State.writeCurrent_framed (Framed.sub h) ?_
    | with_reducible refine State.rewrite_framed (Framed.sub h) ?_
    | (fail_if_no_progress extract_lets +onlyGivenNames x
       refine cutL (p := Framed ps z x) ?_ ?_; subst x; rotate_left; intro hs; try clear_value x; rotate_right)
    | (fail_if_no_progress extract_lets +onlyGivenNames x
       first
       | (have hd : List _ := x; clear hd; clear_value x)
       | (have hd : Bool := x; clear hd; clear_value x)
       | (have hd : Nat := x; clear hd; clear_value x)
       | subst x)
    | fail_if_no_progress beta_reduce
    | with_reducible refine Framed.ite ?_ ?_
    | split
    | ((with_reducible refine Framed.upd ?_ ?_); rotate_left; intro p hp; cases p <;> first | exact absurd (h (by decide)) hp | rfl | exact ⟨rfl, rfl⟩))

end Sys2Proof.Machine
end

