-- ==== Sys2Proof/Laws/FrameIngest.lean ====
section
/-! SUPPORT. The parts of the state that the operations of Machine/Ingest.lean can change. -/

set_option Elab.async false
set_option linter.unusedTactic false
set_option linter.unreachableTactic false
set_option linter.unusedVariables false
set_option linter.tactic.unusedName false

namespace Sys2Proof.Machine
open Sys2Proof

theorem State.mapStream_framed {ps : List Part} (h : [Part.world] ⊆ ps) {z s : State} {n : Nat} {f : Stream → Stream}
    (hs : Framed ps z s) : Framed ps z (State.mapStream s n f) := by
  unfold State.mapStream
  repeat' (first
    | with_reducible assumption
    | (fail_if_no_progress extract_lets +onlyGivenNames x
       first
       | (have hd : List _ := x; clear hd; clear_value x)
       | (have hd : Bool := x; clear hd; clear_value x)
       | (have hd : Nat := x; clear hd; clear_value x)
       | subst x)
    | ((with_reducible refine Framed.upd ?_ ?_); rotate_left; intro p hp; cases p <;> first | exact absurd (h (by decide)) hp | rfl | exact ⟨rfl, rfl⟩))

theorem State.setStamp_framed {ps : List Part} (h : [Part.world] ⊆ ps) {z s : State} {g : Target} {v : Nat}
    (hs : Framed ps z s) : Framed ps z (State.setStamp s g v) := by
  unfold State.setStamp
  repeat' (first
    | with_reducible assumption
    | (fail_if_no_progress extract_lets +onlyGivenNames x
       first
       | (have hd : List _ := x; clear hd; clear_value x)
       | (have hd : Bool := x; clear hd; clear_value x)
       | (have hd : Nat := x; clear hd; clear_value x)
       | subst x)
    | ((with_reducible refine Framed.upd ?_ ?_); rotate_left; intro p hp; cases p <;> first | exact absurd (h (by decide)) hp | rfl | exact ⟨rfl, rfl⟩))

theorem State.rejectItem_framed {ps : List Part} (h : [Part.regs, .world, .host, .out] ⊆ ps) {z s : State} {stream : Nat} {code : Nat} {type : Nat}
    (hs : Framed ps z s) : Framed ps z (State.rejectItem s stream code type) := by
  unfold State.rejectItem
  repeat' (first
    | with_reducible assumption
    | with_reducible refine State.when_framed ?_ (fun _ hs => ?_)
    | with_reducible refine State.mapStream_framed (Framed.sub h) ?_
    | with_reducible refine State.setReg_framed (Framed.sub h) ?_
    | with_reducible refine State.event_framed (Framed.sub h) ?_
    | with_reducible refine State.when_framed ?_ (fun _ hs => ?_)
    | with_reducible refine State.irq_framed (Framed.sub h) ?_
    | (fail_if_no_progress extract_lets +onlyGivenNames x
       refine cutL (p := Framed ps z x) ?_ ?_; subst x; rotate_left; intro hs; try clear_value x; rotate_right)
    | (fail_if_no_progress extract_lets +onlyGivenNames x
       first
       | (have hd : List _ := x; clear hd; clear_value x)
       | (have hd : Bool := x; clear hd; clear_value x)
       | (have hd : Nat := x; clear hd; clear_value x)
       | subst x)
    | fail_if_no_progress beta_reduce
    | with_reducible refine Framed.ite ?_ ?_
    | split
    | ((with_reducible refine Framed.upd ?_ ?_); rotate_left; intro p hp; cases p <;> first | exact absurd (h (by decide)) hp | rfl | exact ⟨rfl, rfl⟩))

theorem State.acceptItem_framed {ps : List Part} (h : [Part.regs, .world] ⊆ ps) {z s : State} {stream : Nat} {arrival : Nat} {h_ : ItemHead} {payload : List Byte} {late : Bool}
    (hs : Framed ps z s) : Framed ps z (State.acceptItem s stream arrival h_ payload late) := by
  unfold State.acceptItem
  repeat' (first
    | with_reducible assumption
    | with_reducible refine State.event_framed (Framed.sub h) ?_
    | with_reducible refine State.mapStream_framed (Framed.sub h) ?_
    | with_reducible refine State.setStamp_framed (Framed.sub h) ?_
    | with_reducible refine State.when_framed ?_ (fun _ hs => ?_)
    | (fail_if_no_progress extract_lets +onlyGivenNames x
       refine cutL (p := Framed ps z x) ?_ ?_; subst x; rotate_left; intro hs; try clear_value x; rotate_right)
    | (fail_if_no_progress extract_lets +onlyGivenNames x
       first
       | (have hd : List _ := x; clear hd; clear_value x)
       | (have hd : Bool := x; clear hd; clear_value x)
       | (have hd : Nat := x; clear hd; clear_value x)
       | subst x)
    | with_reducible refine Framed.ite ?_ ?_
    | ((with_reducible refine Framed.upd ?_ ?_); rotate_left; intro p hp; cases p <;> first | exact absurd (h (by decide)) hp | rfl | exact ⟨rfl, rfl⟩))

theorem State.judgeItem_framed {ps : List Part} (h : [Part.regs, .world, .host, .out] ⊆ ps) {z s : State} {stream : Nat} {arrival : Nat} {chain : Nat} {bs : List Byte}
    (hs : Framed ps z s) : Framed ps z (State.judgeItem s stream arrival chain bs).1 := by
  unfold State.judgeItem
  repeat' (first
    | with_reducible assumption
    | with_reducible refine State.when_framed ?_ (fun _ hs => ?_)
    | with_reducible refine State.rejectItem_framed (Framed.sub h) ?_
    | with_reducible refine State.when_framed ?_ (fun _ hs => ?_)
    | with_reducible refine State.mapStream_framed (Framed.sub h) ?_
    | with_reducible refine State.event_framed (Framed.sub h) ?_
    | with_reducible refine State.acceptItem_framed (Framed.sub h) ?_
    | (fail_if_no_progress extract_lets +onlyGivenNames x
       refine cutL (p := Framed ps z x) ?_ ?_; subst x; rotate_left; intro hs; try clear_value x; rotate_right)
    | (fail_if_no_progress extract_lets +onlyGivenNames x
       first
       | (have hd : List _ := x; clear hd; clear_value x)
       | (have hd : Bool := x; clear hd; clear_value x)
       | (have hd : Nat := x; clear hd; clear_value x)
       | subst x)
    | fail_if_no_progress beta_reduce
    | with_reducible refine Framed.ite ?_ ?_
    | split
    | dsimp only)

theorem State.judgeItem_framed_eq {ps : List Part} (h : [Part.regs, .world, .host, .out] ⊆ ps) {z s tt : State} {pr : HeldFor} {stream : Nat} {arrival : Nat} {chain : Nat} {bs : List Byte}
    (he : (State.judgeItem s stream arrival chain bs) = (tt, pr)) (hs : Framed ps z s) : Framed ps z tt := by
  have := State.judgeItem_framed (stream := stream) (arrival := arrival) (chain := chain) (bs := bs) h hs
  rw [he] at this; exact this

theorem State.takeUp_framed {ps : List Part} (h : [Part.regs, .world, .host, .out] ⊆ ps) {z s : State} {stream : Nat} {it : Nat × Nat × List Byte}
    (hs : Framed ps z s) : Framed ps z (State.takeUp s stream it).1 := by
  unfold State.takeUp
  repeat' (first
    | with_reducible assumption
    | with_reducible refine State.when_framed ?_ (fun _ hs => ?_)
    | with_reducible refine State.judgeItem_framed (Framed.sub h) ?_
    | with_reducible exact State.judgeItem_framed_eq (Framed.sub h) (by assumption) (by assumption)
    | with_reducible refine State.when_framed ?_ (fun _ hs => ?_)
    | with_reducible refine State.mapStream_framed (Framed.sub h) ?_
    | (fail_if_no_progress extract_lets +onlyGivenNames x
       refine cutL (p := Framed ps z x) ?_ ?_; subst x; rotate_left; intro hs; try clear_value x; rotate_right)
    | (fail_if_no_progress extract_lets +onlyGivenNames x
       first
       | (have hd : List _ := x; clear hd; clear_value x)
       | (have hd : Bool := x; clear hd; clear_value x)
       | (have hd : Nat := x; clear hd; clear_value x)
       | subst x)
    | fail_if_no_progress beta_reduce
    | with_reducible refine Framed.ite ?_ ?_
    | split
    | ((with_reducible refine Framed.upd ?_ ?_); rotate_left; intro p hp; cases p <;> first | exact absurd (h (by decide)) hp | rfl | exact ⟨rfl, rfl⟩))

theorem State.takeUp_framed_eq {ps : List Part} (h : [Part.regs, .world, .host, .out] ⊆ ps) {z s tt : State} {pr : HeldFor} {stream : Nat} {it : Nat × Nat × List Byte}
    (he : (State.takeUp s stream it) = (tt, pr)) (hs : Framed ps z s) : Framed ps z tt := by
  have := State.takeUp_framed (stream := stream) (it := it) h hs
  rw [he] at this; exact this

theorem State.drainItems_framed {ps : List Part} (h : [Part.regs, .world, .host, .out] ⊆ ps) {z s : State} {arrivalOf : Nat → Nat} {q0 : Nat} {q1 : List Nat}
    (hs : Framed ps z s) : Framed ps z (State.drainItems s arrivalOf q0 q1) := by
  induction q0 generalizing s q1 with
  | zero =>
    unfold State.drainItems
    repeat' (first
      | with_reducible refine ih ?_
      | with_reducible assumption
      | with_reducible refine State.mapStream_framed (Framed.sub h) ?_
      | with_reducible refine State.judgeItem_framed (Framed.sub h) ?_
      | with_reducible exact State.judgeItem_framed_eq (Framed.sub h) (by assumption) (by assumption)
      | (fail_if_no_progress extract_lets +onlyGivenNames x
         refine cutL (p := Framed ps z x) ?_ ?_; subst x; rotate_left; intro hs; try clear_value x; rotate_right)
      | (fail_if_no_progress extract_lets +onlyGivenNames x
         first
         | (have hd : List _ := x; clear hd; clear_value x)
         | (have hd : Bool := x; clear hd; clear_value x)
         | (have hd : Nat := x; clear hd; clear_value x)
         | subst x)
      | fail_if_no_progress beta_reduce
      | with_reducible refine Framed.ite ?_ ?_
      | split
      | dsimp only)
  | succ _ ih =>
    unfold State.drainItems
    repeat' (first
      | with_reducible refine ih ?_
      | with_reducible assumption
      | with_reducible refine State.mapStream_framed (Framed.sub h) ?_
      | with_reducible refine State.judgeItem_framed (Framed.sub h) ?_
      | with_reducible exact State.judgeItem_framed_eq (Framed.sub h) (by assumption) (by assumption)
      | (fail_if_no_progress extract_lets +onlyGivenNames x
         refine cutL (p := Framed ps z x) ?_ ?_; subst x; rotate_left; intro hs; try clear_value x; rotate_right)
      | (fail_if_no_progress extract_lets +onlyGivenNames x
         first
         | (have hd : List _ := x; clear hd; clear_value x)
         | (have hd : Bool := x; clear hd; clear_value x)
         | (have hd : Nat := x; clear hd; clear_value x)
         | subst x)
      | fail_if_no_progress beta_reduce
      | with_reducible refine Framed.ite ?_ ?_
      | split
      | dsimp only)

theorem State.drainAll_framed {ps : List Part} (h : [Part.regs, .world, .host, .out] ⊆ ps) {z s : State} {arrivalOf : Nat → Nat}
    (hs : Framed ps z s) : Framed ps z (State.drainAll s arrivalOf) := by
  unfold State.drainAll
  repeat' (first
    | with_reducible assumption
    | with_reducible refine State.drainItems_framed (Framed.sub h) ?_
    | with_reducible refine Framed.foldl ?_ (fun _ hs _ => ?_))

theorem State.drainHeld_framed {ps : List Part} (h : [Part.regs, .world, .host, .out] ⊆ ps) {z s : State}
    (hs : Framed ps z s) : Framed ps z (State.drainHeld s) := by
  unfold State.drainHeld
  repeat' (first
    | with_reducible assumption
    | with_reducible refine State.drainAll_framed (Framed.sub h) ?_)

theorem State.drainFreed_framed {ps : List Part} (h : [Part.regs, .world, .host, .out] ⊆ ps) {z s : State}
    (hs : Framed ps z s) : Framed ps z (State.drainFreed s) := by
  unfold State.drainFreed
  repeat' (first
    | with_reducible assumption
    | with_reducible refine State.drainAll_framed (Framed.sub h) ?_
    | ((with_reducible refine Framed.upd ?_ ?_); rotate_left; intro p hp; cases p <;> first | exact absurd (h (by decide)) hp | rfl | exact ⟨rfl, rfl⟩))

theorem State.ingest_framed {ps : List Part} (h : [Part.regs, .world, .host, .out] ⊆ ps) {z s : State} {stream : Nat} {arrival : Nat} {bs : List Byte} {types : List Nat}
    (hs : Framed ps z s) : Framed ps z (State.ingest s stream arrival bs types) := by
  unfold State.ingest
  repeat' (first
    | with_reducible assumption
    | with_reducible refine State.when_framed ?_ (fun _ hs => ?_)
    | with_reducible refine State.when_framed ?_ (fun _ hs => ?_)
    | with_reducible refine State.mapStream_framed (Framed.sub h) ?_
    | with_reducible refine State.takeUp_framed (Framed.sub h) ?_
    | with_reducible exact State.takeUp_framed_eq (Framed.sub h) (by assumption) (by assumption)
    | split
    | dsimp only)

theorem execTile_framed {ps : List Part} (h : [Part.now, .regs, .world, .host, .out] ⊆ ps) {z s : State} {stream : Nat} {arrival : Nat} {item : List Byte}
    (hs : Framed ps z s) : OutFramed ps z (execTile stream arrival item s) := by
  unfold execTile
  repeat' (first
    | with_reducible assumption
    | with_reducible refine OutFramed.named ?_
    | with_reducible refine State.ingest_framed (Framed.sub h) ?_)

theorem execDir_framed {ps : List Part} (h : [Part.now, .regs, .world, .host, .out] ⊆ ps) {z s : State} {stream : Nat} {arrival : Nat} {item : List Byte}
    (hs : Framed ps z s) : OutFramed ps z (execDir stream arrival item s) := by
  unfold execDir
  repeat' (first
    | with_reducible assumption
    | with_reducible refine OutFramed.named ?_
    | with_reducible refine State.ingest_framed (Framed.sub h) ?_)

theorem execAgent_framed {ps : List Part} (h : [Part.now, .regs, .world, .host, .out] ⊆ ps) {z s : State} {stream : Nat} {arrival : Nat} {item : List Byte}
    (hs : Framed ps z s) : OutFramed ps z (execAgent stream arrival item s) := by
  unfold execAgent
  repeat' (first
    | with_reducible assumption
    | with_reducible refine OutFramed.named ?_
    | with_reducible refine State.ingest_framed (Framed.sub h) ?_)

theorem execEgo_framed {ps : List Part} (h : [Part.now, .regs, .world, .host, .out] ⊆ ps) {z s : State} {stream : Nat} {arrival : Nat} {item : List Byte}
    (hs : Framed ps z s) : OutFramed ps z (execEgo stream arrival item s) := by
  unfold execEgo
  repeat' (first
    | with_reducible assumption
    | with_reducible refine OutFramed.named ?_
    | with_reducible refine State.ingest_framed (Framed.sub h) ?_)

theorem execRoute_framed {ps : List Part} (h : [Part.now, .regs, .world, .host, .out] ⊆ ps) {z s : State} {stream : Nat} {arrival : Nat} {item : List Byte}
    (hs : Framed ps z s) : OutFramed ps z (execRoute stream arrival item s) := by
  unfold execRoute
  repeat' (first
    | with_reducible assumption
    | with_reducible refine OutFramed.named ?_
    | with_reducible refine State.ingest_framed (Framed.sub h) ?_)

theorem execUrgent_framed {ps : List Part} (h : [Part.now, .regs, .world, .host, .out] ⊆ ps) {z s : State} {stream : Nat} {arrival : Nat} {item : List Byte}
    (hs : Framed ps z s) : OutFramed ps z (execUrgent stream arrival item s) := by
  unfold execUrgent
  repeat' (first
    | with_reducible assumption
    | with_reducible refine OutFramed.named ?_
    | with_reducible refine State.ingest_framed (Framed.sub h) ?_)

theorem execMalformed_framed {ps : List Part} (h : [Part.now, .regs, .world, .host, .out] ⊆ ps) {z s : State} {stream : Nat} {arrival : Nat} {item : List Byte}
    (hs : Framed ps z s) : OutFramed ps z (execMalformed stream arrival item s) := by
  unfold execMalformed
  repeat' (first
    | with_reducible assumption
    | with_reducible refine OutFramed.named ?_
    | with_reducible refine State.ingest_framed (Framed.sub h) ?_)

theorem State.storeDies_framed {ps : List Part} (h : [Part.mem, .slices] ⊆ ps) {z s : State} {off : Nat} {data : List Byte}
    (hs : Framed ps z s) : Framed ps z (State.storeDies s off data) := by
  unfold State.storeDies
  repeat' (first
    | with_reducible assumption
    | with_reducible refine State.store_framed (Framed.sub h) ?_
    | with_reducible refine State.when_framed ?_ (fun _ hs => ?_)
    | with_reducible refine Framed.foldl ?_ (fun _ hs _ => ?_))

theorem State.writeDir_framed {ps : List Part} (h : [Part.mem, .slices] ⊆ ps) {z s : State} {tx : Int} {ty : Int} {slot : Nat} {valid : Bool}
    (hs : Framed ps z s) : Framed ps z (State.writeDir s tx ty slot valid) := by
  unfold State.writeDir
  repeat' (first
    | with_reducible assumption
    | with_reducible refine State.storeDies_framed (Framed.sub h) ?_
    | split)

theorem State.applyItem_framed {ps : List Part} (h : [Part.mem, .slices, .world] ⊆ ps) {z s : State} {it : Staged}
    (hs : Framed ps z s) : Framed ps z (State.applyItem s it) := by
  unfold State.applyItem
  repeat' (first
    | with_reducible assumption
    | with_reducible refine State.storeDies_framed (Framed.sub h) ?_
    | with_reducible refine State.writeDir_framed (Framed.sub h) ?_
    | (fail_if_no_progress extract_lets +onlyGivenNames x
       first
       | (have hd : List _ := x; clear hd; clear_value x)
       | (have hd : Bool := x; clear hd; clear_value x)
       | (have hd : Nat := x; clear hd; clear_value x)
       | subst x)
    | split
    | ((with_reducible refine Framed.upd ?_ ?_); rotate_left; intro p hp; cases p <;> first | exact absurd (h (by decide)) hp | rfl | exact ⟨rfl, rfl⟩))

theorem State.loadTile_framed {ps : List Part} (h : [Part.regs, .mem, .slices, .dies, .host, .tally, .out] ⊆ ps) {z s : State} {d : Die} {ue : List (Int × Int × Bool)} {tx : Int} {ty : Int}
    (hs : Framed ps z s) : Framed ps z (State.loadTile s d ue tx ty) := by
  unfold State.loadTile
  repeat' (first
    | with_reducible assumption
    | with_reducible refine State.event_framed (Framed.sub h) ?_
    | with_reducible refine State.count_framed (Framed.sub h) ?_
    | with_reducible refine State.broadcastSlice_framed (Framed.sub h) ?_
    | with_reducible refine State.log_framed (Framed.sub h) ?_
    | with_reducible refine State.when_framed ?_ (fun _ hs => ?_)
    | with_reducible refine Framed.foldl ?_ (fun _ hs _ => ?_)
    | with_reducible refine State.setDie_framed (Framed.sub h) ?_ ?_
    | ((with_reducible refine fun (hn : Part.slices ∉ ps) => ?_); first | exact absurd (h (by decide)) hn | exact Framed.die hs hn _ | exact Framed.die (by assumption) hn _ | exact (hs _ hn).1 | exact (hs _ hn).2 | simpa using Framed.die hs hn _)
    | (fail_if_no_progress extract_lets +onlyGivenNames x
       refine cutL (p := Framed ps z x) ?_ ?_; subst x; rotate_left; intro hs; try clear_value x; rotate_right)
    | (fail_if_no_progress extract_lets +onlyGivenNames x
       first
       | (have hd : List _ := x; clear hd; clear_value x)
       | (have hd : Bool := x; clear hd; clear_value x)
       | (have hd : Nat := x; clear hd; clear_value x)
       | subst x)
    | with_reducible refine Framed.ite ?_ ?_
    | split)

theorem State.mirrorTile_framed {ps : List Part} (h : [Part.regs, .depSlice, .dep] ⊆ ps) {z s : State} {bad : Bool} {tx : Int} {ty : Int}
    (hs : Framed ps z s) : Framed ps z (State.mirrorTile s bad tx ty) := by
  unfold State.mirrorTile
  repeat' (first
    | with_reducible assumption
    | with_reducible refine State.event_framed (Framed.sub h) ?_
    | (fail_if_no_progress extract_lets +onlyGivenNames x
       first
       | (have hd : List _ := x; clear hd; clear_value x)
       | (have hd : Bool := x; clear hd; clear_value x)
       | (have hd : Nat := x; clear hd; clear_value x)
       | subst x)
    | with_reducible refine Framed.ite ?_ ?_
    | ((with_reducible refine Framed.upd ?_ ?_); rotate_left; intro p hp; cases p <;> first | exact absurd (h (by decide)) hp | rfl | exact ⟨rfl, rfl⟩))

theorem State.page_framed {ps : List Part} (h : [Part.regs, .mem, .slices, .dies, .host, .tally, .out] ⊆ ps) {z s : State} {d : Die} {items : List Staged} {ue : List (Int × Int × Bool)}
    (hs : Framed ps z s) : Framed ps z (State.page s d items ue).1 := by
  unfold State.page
  repeat' (first
    | with_reducible assumption
    | with_reducible refine State.setDie_framed (Framed.sub h) ?_ ?_
    | ((with_reducible refine fun (hn : Part.slices ∉ ps) => ?_); first | exact absurd (h (by decide)) hn | exact Framed.die hs hn _ | exact Framed.die (by assumption) hn _ | exact (hs _ hn).1 | exact (hs _ hn).2 | simpa using Framed.die hs hn _)
    | with_reducible refine State.setReg_framed (Framed.sub h) ?_
    | with_reducible refine State.loadTile_framed (Framed.sub h) ?_
    | (fail_if_no_progress extract_lets +onlyGivenNames x
       refine cutL (p := Framed ps z x) ?_ ?_; subst x; rotate_left; intro hs; try clear_value x; rotate_right)
    | (fail_if_no_progress extract_lets +onlyGivenNames x
       first
       | (have hd : List _ := x; clear hd; clear_value x)
       | (have hd : Bool := x; clear hd; clear_value x)
       | (have hd : Nat := x; clear hd; clear_value x)
       | subst x)
    | fail_if_no_progress beta_reduce
    | with_reducible refine Framed.ite ?_ ?_
    | with_reducible refine Framed.foldl ?_ (fun _ hs _ => ?_)
    | split
    | ((with_reducible refine Framed.upd ?_ ?_); rotate_left; intro p hp; cases p <;> first | exact absurd (h (by decide)) hp | rfl | exact ⟨rfl, rfl⟩)
    | dsimp only)
theorem State.page_framed_eq {ps : List Part} (h : [Part.regs, .mem, .slices, .dies, .host, .tally, .out] ⊆ ps) {z s tt : State} {pr : List (Int × Int)} {d : Die} {items : List Staged} {ue : List (Int × Int × Bool)}
    (he : (State.page s d items ue) = (tt, pr)) (hs : Framed ps z s) : Framed ps z tt := by
  have := State.page_framed (d := d) (items := items) (ue := ue) h hs
  rw [he] at this; exact this

theorem State.writeSlices_framed {ps : List Part} (h : [Part.mem, .slices] ⊆ ps) {z s : State} {d : Die}
    (hs : Framed ps z s) : Framed ps z (State.writeSlices s d) := by
  unfold State.writeSlices
  repeat' (first
    | with_reducible assumption
    | with_reducible refine State.storeWin_framed (Framed.sub h) ?_
    | with_reducible refine Framed.foldl ?_ (fun _ hs _ => ?_)
    | (fail_if_no_progress extract_lets +onlyGivenNames x
       first
       | (have hd : List _ := x; clear hd; clear_value x)
       | (have hd : Bool := x; clear hd; clear_value x)
       | (have hd : Nat := x; clear hd; clear_value x)
       | subst x)
    | split)

theorem State.beginCommit_framed {ps : List Part} (h : [Part.regs, .mem, .slices, .plan, .world] ⊆ ps) {z s : State} {met : CommitMet}
    (hs : Framed ps z s) : Framed ps z (State.beginCommit s met) := by
  unfold State.beginCommit
  repeat' (first
    | with_reducible assumption
    | with_reducible refine State.when_framed ?_ (fun _ hs => ?_)
    | with_reducible refine State.when_framed ?_ (fun _ hs => ?_)
    | with_reducible refine State.event_framed (Framed.sub h) ?_
    | with_reducible refine State.applyItem_framed (Framed.sub h) ?_
    | (fail_if_no_progress extract_lets +onlyGivenNames x
       refine cutL (p := Framed ps z x) ?_ ?_; subst x; rotate_left; intro hs; try clear_value x; rotate_right)
    | (fail_if_no_progress extract_lets +onlyGivenNames x
       first
       | (have hd : List _ := x; clear hd; clear_value x)
       | (have hd : Bool := x; clear hd; clear_value x)
       | (have hd : Nat := x; clear hd; clear_value x)
       | subst x)
    | fail_if_no_progress beta_reduce
    | with_reducible refine Framed.foldl ?_ (fun _ hs _ => ?_)
    | split
    | ((with_reducible refine Framed.upd ?_ ?_); rotate_left; intro p hp; cases p <;> first | exact absurd (h (by decide)) hp | rfl | exact ⟨rfl, rfl⟩)
    | dsimp only)

theorem State.commitWork_framed {ps : List Part} (h : [Part.regs, .mem, .slices, .world, .dies, .host, .depSlice, .dep, .tally, .out] ⊆ ps) {z s : State} {c : HeldCommit}
    (hs : Framed ps z s) : Framed ps z (State.commitWork s c) := by
  unfold State.commitWork
  dsimp only
  have h1 : Framed ps z (c.items.foldl (fun s it => s.applyItem it) s) :=
    Framed.foldl hs (fun _ hs _ => State.applyItem_framed (Framed.sub h) hs)
  generalize c.items.foldl (fun s it => s.applyItem it) s = s1 at h1 ⊢
  have h2 := State.page_framed (Framed.sub h) (d := .s0) (items := c.items) (ue := c.met.d0.ue)
    (State.countDramCe_framed (Framed.sub h) (d := .s0) (n := c.met.d0.ce) h1)
  generalize (s1.countDramCe .s0 c.met.d0.ce).page .s0 c.items c.met.d0.ue = p at h2 ⊢
  obtain ⟨s2, loads⟩ := p
  dsimp only at h2 ⊢
  have h3 : Framed ps z (if s2.dies.contains .s1 then ((s2.countDramCe .s1 c.met.d1.ce).page .s1 c.items c.met.d1.ue).1 else s2) :=
    Framed.ite (State.page_framed (Framed.sub h) (State.countDramCe_framed (Framed.sub h) h2)) h2
  generalize (if s2.dies.contains .s1 then ((s2.countDramCe .s1 c.met.d1.ce).page .s1 c.items c.met.d1.ue).1 else s2) = s3 at h3 ⊢
  have h4 : Framed ps z (loads.foldl (fun s t => s.mirrorTile (c.met.crcBad.contains t) t.1 t.2) s3) :=
    Framed.foldl h3 (fun _ hs _ => State.mirrorTile_framed (Framed.sub h) hs)
  generalize loads.foldl (fun s t => s.mirrorTile (c.met.crcBad.contains t) t.1 t.2) s3 = s4 at h4 ⊢
  have h5 : Framed ps z (s4.dies.foldl (fun s d => s.writeSlices d) s4) :=
    Framed.foldl h4 (fun _ hs _ => State.writeSlices_framed (Framed.sub h) hs)
  generalize s4.dies.foldl (fun s d => s.writeSlices d) s4 = s5 at h5 ⊢
  refine Framed.upd h5 ?_
  intro p hp; cases p <;> first | exact absurd (h (by decide)) hp | rfl | exact ⟨rfl, rfl⟩

theorem State.pumpCommit_framed {ps : List Part} (h : [Part.regs, .mem, .slices, .world, .dies, .host, .depSlice, .dep, .tally, .out] ⊆ ps) {z s : State}
    (hs : Framed ps z s) : Framed ps z (State.pumpCommit s) := by
  unfold State.pumpCommit
  repeat' (first
    | with_reducible assumption
    | with_reducible refine State.afterFront_framed (Framed.sub h) ?_ (fun _ hs => ?_)
    | with_reducible refine State.commitWork_framed (Framed.sub h) ?_
    | with_reducible refine Framed.ite ?_ ?_
    | split
    | dsimp only)

theorem execEpochCommit_framed {ps : List Part} (h : [Part.now, .regs, .mem, .slices, .plan, .world, .dies, .host, .depSlice, .dep, .tally, .out] ⊆ ps) {z s : State} {t_ : Nat} {m0 m1 : TilesMet} {crcBad : List (Int × Int)}
    (hs : Framed ps z s) : OutFramed ps z (execEpochCommit t_ m0 m1 crcBad s) := by
  unfold execEpochCommit
  repeat' (first
    | with_reducible assumption
    | with_reducible refine OutFramed.next ?_
    | with_reducible refine State.when_framed ?_ (fun _ hs => ?_)
    | with_reducible refine State.when_framed ?_ (fun _ hs => ?_)
    | with_reducible refine State.advance_framed (Framed.sub h) ?_
    | with_reducible refine State.beginCommit_framed (Framed.sub h) ?_
    | with_reducible refine State.pumpCommit_framed (Framed.sub h) ?_)

theorem State.trigger_framed {ps : List Part} (h : [Part.dies, .chans] ⊆ ps) {z s : State} {code : Nat}
    (hs : Framed ps z s) : Framed ps z (State.trigger s code) := by
  unfold State.trigger
  repeat' (first
    | with_reducible assumption
    | (fail_if_no_progress extract_lets +onlyGivenNames x
       refine cutL (p := Framed ps z x) ?_ ?_; subst x; rotate_left; intro hs; try clear_value x; rotate_right)
    | (fail_if_no_progress extract_lets +onlyGivenNames x
       first
       | (have hd : List _ := x; clear hd; clear_value x)
       | (have hd : Bool := x; clear hd; clear_value x)
       | (have hd : Nat := x; clear hd; clear_value x)
       | subst x)
    | fail_if_no_progress beta_reduce
    | with_reducible refine Framed.ite ?_ ?_
    | split
    | ((with_reducible refine Framed.upd ?_ ?_); rotate_left; intro p hp; cases p <;> first | exact absurd (h (by decide)) hp | rfl | exact ⟨rfl, rfl⟩))

theorem execCommitEnd_framed {ps : List Part} (h : [Part.now, .regs, .plan, .world, .dies, .chans, .host, .dep, .out] ⊆ ps) {z s : State} {t_ : Nat}
    (hs : Framed ps z s) : OutFramed ps z (execCommitEnd t_ s) := by
  unfold execCommitEnd
  repeat' (first
    | with_reducible assumption
    | with_reducible refine OutFramed.next ?_
    | with_reducible refine State.when_framed ?_ (fun _ hs => ?_)
    | with_reducible refine State.when_framed ?_ (fun _ hs => ?_)
    | with_reducible refine State.advance_framed (Framed.sub h) ?_
    | with_reducible refine State.setReg_framed (Framed.sub h) ?_
    | with_reducible refine State.invalid_framed (Framed.sub h) ?_
    | with_reducible refine State.trigger_framed (Framed.sub h) ?_
    | with_reducible refine State.drainFreed_framed (Framed.sub h) ?_
    | (fail_if_no_progress extract_lets +onlyGivenNames x
       refine cutL (p := Framed ps z x) ?_ ?_; subst x; rotate_left; intro hs; try clear_value x; rotate_right)
    | (fail_if_no_progress extract_lets +onlyGivenNames x
       first
       | (have hd : List _ := x; clear hd; clear_value x)
       | (have hd : Bool := x; clear hd; clear_value x)
       | (have hd : Nat := x; clear hd; clear_value x)
       | subst x)
    | fail_if_no_progress beta_reduce
    | with_reducible refine Framed.ite ?_ ?_
    | split
    | ((with_reducible refine Framed.upd ?_ ?_); rotate_left; intro p hp; cases p <;> first | exact absurd (h (by decide)) hp | rfl | exact ⟨rfl, rfl⟩))

theorem State.takeUrgent_framed {ps : List Part} (h : [Part.regs, .plan, .world, .dep] ⊆ ps) {z s : State}
    (hs : Framed ps z s) : Framed ps z (State.takeUrgent s) := by
  unfold State.takeUrgent
  repeat' (first
    | with_reducible assumption
    | with_reducible refine State.when_framed ?_ (fun _ hs => ?_)
    | with_reducible refine State.when_framed ?_ (fun _ hs => ?_)
    | with_reducible refine State.event_framed (Framed.sub h) ?_
    | with_reducible refine State.invalid_framed (Framed.sub h) ?_
    | (fail_if_no_progress extract_lets +onlyGivenNames x
       refine cutL (p := Framed ps z x) ?_ ?_; subst x; rotate_left; intro hs; try clear_value x; rotate_right)
    | (fail_if_no_progress extract_lets +onlyGivenNames x
       first
       | (have hd : List _ := x; clear hd; clear_value x)
       | (have hd : Bool := x; clear hd; clear_value x)
       | (have hd : Nat := x; clear hd; clear_value x)
       | subst x)
    | fail_if_no_progress beta_reduce
    | with_reducible refine Framed.foldl ?_ (fun _ hs _ => ?_)
    | ((with_reducible refine Framed.upd ?_ ?_); rotate_left; intro p hp; cases p <;> first | exact absurd (h (by decide)) hp | rfl | exact ⟨rfl, rfl⟩))

theorem State.startSync_framed {ps : List Part} (h : [Part.world] ⊆ ps) {z s : State}
    (hs : Framed ps z s) : Framed ps z (State.startSync s) := by
  unfold State.startSync
  repeat' (first
    | with_reducible assumption
    | with_reducible refine State.when_framed ?_ (fun _ hs => ?_)
    | (fail_if_no_progress extract_lets +onlyGivenNames x
       first
       | (have hd : List _ := x; clear hd; clear_value x)
       | (have hd : Bool := x; clear hd; clear_value x)
       | (have hd : Nat := x; clear hd; clear_value x)
       | subst x)
    | ((with_reducible refine Framed.upd ?_ ?_); rotate_left; intro p hp; cases p <;> first | exact absurd (h (by decide)) hp | rfl | exact ⟨rfl, rfl⟩))

theorem execS1Sync_framed {ps : List Part} (h : [Part.world] ⊆ ps) {z s : State}
    (hs : Framed ps z s) : OutFramed ps z (execS1Sync s) := by
  unfold execS1Sync
  repeat' (first
    | with_reducible assumption
    | with_reducible refine OutFramed.next ?_
    | with_reducible refine State.startSync_framed (Framed.sub h) ?_
    | with_reducible refine Framed.ite ?_ ?_)

theorem State.copyStore_framed {ps : List Part} (h : [Part.mem] ⊆ ps) {z s : State} {below : Nat}
    (hs : Framed ps z s) : Framed ps z (State.copyStore s below) := by
  unfold State.copyStore
  repeat' (first
    | with_reducible assumption
    | with_reducible refine Framed.foldl ?_ (fun _ hs _ => ?_)
    | ((with_reducible refine Framed.upd ?_ ?_); rotate_left; intro p hp; cases p <;> first | exact absurd (h (by decide)) hp | rfl | exact ⟨rfl, rfl⟩))

theorem State.cutSync_framed {ps : List Part} (h : [Part.free, .mem, .world] ⊆ ps) {z s : State}
    (hs : Framed ps z s) : Framed ps z (State.cutSync s) := by
  unfold State.cutSync
  repeat' (first
    | with_reducible assumption
    | with_reducible refine State.when_framed ?_ (fun _ hs => ?_)
    | with_reducible refine State.when_framed ?_ (fun _ hs => ?_)
    | with_reducible refine State.freeWord_framed (Framed.sub h) ?_
    | with_reducible exact State.freeWord_framed_eq (Framed.sub h) (by assumption) (by assumption)
    | with_reducible refine State.copyStore_framed (Framed.sub h) ?_
    | (fail_if_no_progress extract_lets +onlyGivenNames x
       refine cutL (p := Framed ps z x) ?_ ?_; subst x; rotate_left; intro hs; try clear_value x; rotate_right)
    | (fail_if_no_progress extract_lets +onlyGivenNames x
       first
       | (have hd : List _ := x; clear hd; clear_value x)
       | (have hd : Bool := x; clear hd; clear_value x)
       | (have hd : Nat := x; clear hd; clear_value x)
       | subst x)
    | fail_if_no_progress beta_reduce
    | split
    | ((with_reducible refine Framed.upd ?_ ?_); rotate_left; intro p hp; cases p <;> first | exact absurd (h (by decide)) hp | rfl | exact ⟨rfl, rfl⟩)
    | dsimp only)

theorem execSyncDone_framed {ps : List Part} (h : [Part.regs, .mem, .world] ⊆ ps) {z s : State}
    (hs : Framed ps z s) : OutFramed ps z (execSyncDone s) := by
  unfold execSyncDone
  repeat' (first
    | with_reducible assumption
    | with_reducible refine OutFramed.next ?_
    | with_reducible refine State.when_framed ?_ (fun _ hs => ?_)
    | with_reducible refine State.when_framed ?_ (fun _ hs => ?_)
    | with_reducible refine State.afterFront_framed (Framed.sub h) ?_ (fun _ hs => ?_)
    | with_reducible refine State.copyStore_framed (Framed.sub h) ?_
    | with_reducible refine State.event_framed (Framed.sub h) ?_
    | (fail_if_no_progress extract_lets +onlyGivenNames x
       refine cutL (p := Framed ps z x) ?_ ?_; subst x; rotate_left; intro hs; try clear_value x; rotate_right)
    | (fail_if_no_progress extract_lets +onlyGivenNames x
       first
       | (have hd : List _ := x; clear hd; clear_value x)
       | (have hd : Bool := x; clear hd; clear_value x)
       | (have hd : Nat := x; clear hd; clear_value x)
       | subst x)
    | fail_if_no_progress beta_reduce
    | ((with_reducible refine Framed.upd ?_ ?_); rotate_left; intro p hp; cases p <;> first | exact absurd (h (by decide)) hp | rfl | exact ⟨rfl, rfl⟩))

end Sys2Proof.Machine
end

