-- ==== Sys2Proof/Laws/FrameBoundary.lean ====
section
/-! SUPPORT. The parts of the state that the operations of Machine/Boundary.lean can change. -/

set_option Elab.async false
set_option linter.unusedTactic false
set_option linter.unreachableTactic false
set_option linter.unusedVariables false
set_option linter.tactic.unusedName false

namespace Sys2Proof.Machine
open Sys2Proof

theorem State.savedTo_framed {ps : List Part} (h : [Part.regs, .host, .tally, .out] ⊆ ps) {z s : State} {base : Nat} {len : Nat} {result : Nat}
    (hs : Framed ps z s) : Framed ps z (State.savedTo s base len result) := by
  unfold State.savedTo
  repeat' (first
    | with_reducible assumption
    | with_reducible refine State.setReg_framed (Framed.sub h) ?_
    | with_reducible refine State.log_framed (Framed.sub h) ?_
    | (fail_if_no_progress extract_lets +onlyGivenNames x
       refine cutL (p := Framed ps z x) ?_ ?_; subst x; rotate_left; intro hs; try clear_value x; rotate_right)
    | (fail_if_no_progress extract_lets +onlyGivenNames x
       first
       | (have hd : List _ := x; clear hd; clear_value x)
       | (have hd : Bool := x; clear hd; clear_value x)
       | (have hd : Nat := x; clear hd; clear_value x)
       | subst x)
    | fail_if_no_progress beta_reduce
    | with_reducible refine Framed.ite ?_ ?_
    | split)

theorem State.endSnapshot_framed {ps : List Part} (h : [Part.regs, .host, .tally, .out] ⊆ ps) {z s : State} {base : Nat} {len : Nat} {result : Nat}
    (hs : Framed ps z s) : Framed ps z (State.endSnapshot s base len result) := by
  unfold State.endSnapshot
  repeat' (first
    | with_reducible assumption
    | with_reducible refine State.savedTo_framed (Framed.sub h) ?_
    | with_reducible refine State.event_framed (Framed.sub h) ?_
    | with_reducible refine State.irq_framed (Framed.sub h) ?_)

theorem State.storeSnapshot_framed {ps : List Part} (h : [Part.regs, .mem, .slices, .host, .tally, .out] ⊆ ps) {z s : State} {base : Nat} {bs : List Byte}
    (hs : Framed ps z s) : Framed ps z (State.storeSnapshot s base bs) := by
  unfold State.storeSnapshot
  repeat' (first
    | with_reducible assumption
    | with_reducible refine State.store_framed (Framed.sub h) ?_
    | with_reducible refine State.endSnapshot_framed (Framed.sub h) ?_)

theorem State.snapshot_framed {ps : List Part} (h : [Part.regs, .mem, .slices, .tick, .host, .kl, .tally, .out] ⊆ ps) {z s : State} {t_ : Nat}
    (hs : Framed ps z s) : Framed ps z (State.snapshot s t_) := by
  unfold State.snapshot
  repeat' (first
    | with_reducible assumption
    | with_reducible refine State.endSnapshot_framed (Framed.sub h) ?_
    | with_reducible refine State.noteStall_framed (Framed.sub h) ?_
    | with_reducible refine State.storeSnapshot_framed (Framed.sub h) ?_
    | (fail_if_no_progress extract_lets +onlyGivenNames x
       refine cutL (p := Framed ps z x) ?_ ?_; subst x; rotate_left; intro hs; try clear_value x; rotate_right)
    | (fail_if_no_progress extract_lets +onlyGivenNames x
       first
       | (have hd : List _ := x; clear hd; clear_value x)
       | (have hd : Bool := x; clear hd; clear_value x)
       | (have hd : Nat := x; clear hd; clear_value x)
       | subst x)
    | fail_if_no_progress beta_reduce
    | with_reducible refine Framed.ite ?_ ?_
    | split
    | ((with_reducible refine Framed.upd ?_ ?_); rotate_left; intro p hp; cases p <;> first | exact absurd (h (by decide)) hp | rfl | exact ⟨rfl, rfl⟩))

theorem State.pumpSnapshot_framed {ps : List Part} (h : [Part.regs, .mem, .slices, .host, .kl, .tally, .out] ⊆ ps) {z s : State}
    (hs : Framed ps z s) : Framed ps z (State.pumpSnapshot s) := by
  unfold State.pumpSnapshot
  repeat' (first
    | with_reducible assumption
    | with_reducible refine State.when_framed ?_ (fun _ hs => ?_)
    | with_reducible refine State.when_framed ?_ (fun _ hs => ?_)
    | with_reducible refine State.storeSnapshot_framed (Framed.sub h) ?_
    | split
    | ((with_reducible refine Framed.upd ?_ ?_); rotate_left; intro p hp; cases p <;> first | exact absurd (h (by decide)) hp | rfl | exact ⟨rfl, rfl⟩)
    | dsimp only)

theorem State.switchBank_framed {ps : List Part} (h : [Part.regs] ⊆ ps) {z s : State}
    (hs : Framed ps z s) : Framed ps z (State.switchBank s) := by
  unfold State.switchBank
  repeat' (first
    | with_reducible assumption
    | with_reducible refine State.setReg_framed (Framed.sub h) ?_)

theorem State.takeHistory_framed {ps : List Part} (h : [Part.plan] ⊆ ps) {z s : State}
    (hs : Framed ps z s) : Framed ps z (State.takeHistory s) := by
  unfold State.takeHistory
  repeat' (first
    | with_reducible assumption
    | with_reducible refine Framed.ite ?_ ?_
    | split
    | ((with_reducible refine Framed.upd ?_ ?_); rotate_left; intro p hp; cases p <;> first | exact absurd (h (by decide)) hp | rfl | exact ⟨rfl, rfl⟩)
    | dsimp only)

theorem State.dropUrgents_framed {ps : List Part} (h : [Part.world] ⊆ ps) {z s : State}
    (hs : Framed ps z s) : Framed ps z (State.dropUrgents s) := by
  unfold State.dropUrgents
  repeat' (first
    | with_reducible assumption
    | (fail_if_no_progress extract_lets +onlyGivenNames x
       refine cutL (p := Framed ps z x) ?_ ?_; subst x; rotate_left; intro hs; try clear_value x; rotate_right)
    | (fail_if_no_progress extract_lets +onlyGivenNames x
       first
       | (have hd : List _ := x; clear hd; clear_value x)
       | (have hd : Bool := x; clear hd; clear_value x)
       | (have hd : Nat := x; clear hd; clear_value x)
       | subst x)
    | fail_if_no_progress beta_reduce
    | ((with_reducible refine Framed.upd ?_ ?_); rotate_left; intro p hp; cases p <;> first | exact absurd (h (by decide)) hp | rfl | exact ⟨rfl, rfl⟩))

theorem State.endTick_framed {ps : List Part} (h : [Part.regs, .tick, .plan, .world] ⊆ ps) {z s : State}
    (hs : Framed ps z s) : Framed ps z (State.endTick s) := by
  unfold State.endTick
  repeat' (first
    | with_reducible assumption
    | with_reducible refine State.switchBank_framed (Framed.sub h) ?_
    | with_reducible refine State.takeHistory_framed (Framed.sub h) ?_
    | with_reducible refine State.dropUrgents_framed (Framed.sub h) ?_
    | (fail_if_no_progress extract_lets +onlyGivenNames x
       refine cutL (p := Framed ps z x) ?_ ?_; subst x; rotate_left; intro hs; try clear_value x; rotate_right)
    | (fail_if_no_progress extract_lets +onlyGivenNames x
       first
       | (have hd : List _ := x; clear hd; clear_value x)
       | (have hd : Bool := x; clear hd; clear_value x)
       | (have hd : Nat := x; clear hd; clear_value x)
       | subst x)
    | fail_if_no_progress beta_reduce
    | with_reducible refine Framed.ite ?_ ?_
    | split
    | ((with_reducible refine Framed.upd ?_ ?_); rotate_left; intro p hp; cases p <;> first | exact absurd (h (by decide)) hp | rfl | exact ⟨rfl, rfl⟩))

theorem State.clearKeyTable_framed {ps : List Part} (h : [Part.mem, .slices] ⊆ ps) {z s : State}
    (hs : Framed ps z s) : Framed ps z (State.clearKeyTable s) := by
  unfold State.clearKeyTable
  repeat' (first
    | with_reducible assumption
    | with_reducible refine State.store_framed (Framed.sub h) ?_
    | with_reducible refine State.when_framed ?_ (fun _ hs => ?_)
    | split)

theorem State.setCanaries_framed {ps : List Part} (h : [Part.mem, .slices] ⊆ ps) {z s : State} {d : Die}
    (hs : Framed ps z s) : Framed ps z (State.setCanaries s d) := by
  unfold State.setCanaries
  repeat' (first
    | with_reducible assumption
    | with_reducible refine State.storeWin_framed (Framed.sub h) ?_
    | with_reducible refine Framed.foldl ?_ (fun _ hs _ => ?_)
    | (fail_if_no_progress extract_lets +onlyGivenNames x
       refine cutL (p := Framed ps z x) ?_ ?_; subst x; rotate_left; intro hs; try clear_value x; rotate_right)
    | (fail_if_no_progress extract_lets +onlyGivenNames x
       first
       | (have hd : List _ := x; clear hd; clear_value x)
       | (have hd : Bool := x; clear hd; clear_value x)
       | (have hd : Nat := x; clear hd; clear_value x)
       | subst x)
    | with_reducible refine Framed.ite ?_ ?_
    | split)

theorem State.finishPropose_framed {ps : List Part} (h : [Part.regs, .plan] ⊆ ps) {z s : State}
    (hs : Framed ps z s) : Framed ps z (State.finishPropose s) := by
  unfold State.finishPropose
  repeat' (first
    | with_reducible assumption
    | with_reducible refine State.setReg_framed (Framed.sub h) ?_
    | with_reducible refine State.when_framed ?_ (fun _ hs => ?_)
    | with_reducible refine Framed.foldl ?_ (fun _ hs _ => ?_)
    | (fail_if_no_progress extract_lets +onlyGivenNames x
       first
       | (have hd : List _ := x; clear hd; clear_value x)
       | (have hd : Bool := x; clear hd; clear_value x)
       | (have hd : Nat := x; clear hd; clear_value x)
       | subst x)
    | ((with_reducible refine Framed.upd ?_ ?_); rotate_left; intro p hp; cases p <;> first | exact absurd (h (by decide)) hp | rfl | exact ⟨rfl, rfl⟩))

theorem State.copyBanks_framed {ps : List Part} (h : [Part.mem, .slices] ⊆ ps) {z s : State}
    (hs : Framed ps z s) : Framed ps z (State.copyBanks s) := by
  unfold State.copyBanks
  repeat' (first
    | with_reducible assumption
    | with_reducible refine State.storeWin_framed (Framed.sub h) ?_
    | with_reducible refine Framed.foldl ?_ (fun _ hs _ => ?_))

theorem State.dropTasks_framed {ps : List Part} (h : [Part.regs, .dies] ⊆ ps) {z s : State} {d : Die} {gone : List Nat}
    (hs : Framed ps z s) : Framed ps z (State.dropTasks s d gone) := by
  unfold State.dropTasks
  repeat' (first
    | with_reducible assumption
    | with_reducible refine State.setDie_framed (Framed.sub h) ?_ ?_
    | ((with_reducible refine fun (hn : Part.slices ∉ ps) => ?_); first | exact absurd (h (by decide)) hn | exact Framed.die hs hn _ | exact Framed.die (by assumption) hn _ | exact (hs _ hn).1 | exact (hs _ hn).2 | simpa using Framed.die hs hn _)
    | with_reducible refine State.arrive_framed (Framed.sub h) ?_
    | (fail_if_no_progress extract_lets +onlyGivenNames x
       refine cutL (p := Framed ps z x) ?_ ?_; subst x; rotate_left; intro hs; try clear_value x; rotate_right)
    | (fail_if_no_progress extract_lets +onlyGivenNames x
       first
       | (have hd : List _ := x; clear hd; clear_value x)
       | (have hd : Bool := x; clear hd; clear_value x)
       | (have hd : Nat := x; clear hd; clear_value x)
       | subst x)
    | fail_if_no_progress beta_reduce
    | with_reducible refine Framed.foldl ?_ (fun _ hs _ => ?_)
    | ((with_reducible refine Framed.upd ?_ ?_); rotate_left; intro p hp; cases p <;> first | exact absurd (h (by decide)) hp | rfl | exact ⟨rfl, rfl⟩))

theorem State.limitRounds_framed {ps : List Part} (h : [Part.regs, .dies] ⊆ ps) {z s : State} {d : Die}
    (hs : Framed ps z s) : Framed ps z (State.limitRounds s d) := by
  unfold State.limitRounds
  repeat' (first
    | with_reducible assumption
    | with_reducible refine State.dropTasks_framed (Framed.sub h) ?_
    | (fail_if_no_progress extract_lets +onlyGivenNames x
       refine cutL (p := Framed ps z x) ?_ ?_; subst x; rotate_left; intro hs; try clear_value x; rotate_right)
    | (fail_if_no_progress extract_lets +onlyGivenNames x
       first
       | (have hd : List _ := x; clear hd; clear_value x)
       | (have hd : Bool := x; clear hd; clear_value x)
       | (have hd : Nat := x; clear hd; clear_value x)
       | subst x)
    | fail_if_no_progress beta_reduce
    | with_reducible refine Framed.ite ?_ ?_
    | split)

theorem State.padSurvivors_framed {ps : List Part} (h : [Part.mem, .slices] ⊆ ps) {z s : State} {d : Die}
    (hs : Framed ps z s) : Framed ps z (State.padSurvivors s d) := by
  unfold State.padSurvivors
  repeat' (first
    | with_reducible assumption
    | with_reducible refine State.when_framed ?_ (fun _ hs => ?_)
    | with_reducible refine State.when_framed ?_ (fun _ hs => ?_)
    | with_reducible refine State.storeWin_framed (Framed.sub h) ?_
    | (fail_if_no_progress extract_lets +onlyGivenNames x
       refine cutL (p := Framed ps z x) ?_ ?_; subst x; rotate_left; intro hs; try clear_value x; rotate_right)
    | (fail_if_no_progress extract_lets +onlyGivenNames x
       first
       | (have hd : List _ := x; clear hd; clear_value x)
       | (have hd : Bool := x; clear hd; clear_value x)
       | (have hd : Nat := x; clear hd; clear_value x)
       | subst x)
    | fail_if_no_progress beta_reduce)

theorem State.releasePhase_framed {ps : List Part} (h : [Part.regs, .mem, .slices, .tick, .plan, .world, .dies, .chans, .dep] ⊆ ps) {z s : State} {n : Nat}
    (hs : Framed ps z s) : Framed ps z (State.releasePhase s n) := by
  unfold State.releasePhase
  repeat' (first
    | with_reducible assumption
    | with_reducible refine State.setDie_framed (Framed.sub h) ?_ ?_
    | ((with_reducible refine fun (hn : Part.slices ∉ ps) => ?_); first | exact absurd (h (by decide)) hn | exact Framed.die hs hn _ | exact Framed.die (by assumption) hn _ | exact (hs _ hn).1 | exact (hs _ hn).2 | simpa using Framed.die hs hn _)
    | with_reducible refine State.setCanaries_framed (Framed.sub h) ?_
    | with_reducible refine State.clearKeyTable_framed (Framed.sub h) ?_
    | with_reducible refine State.copyBanks_framed (Framed.sub h) ?_
    | with_reducible refine State.setReg_framed (Framed.sub h) ?_
    | with_reducible refine State.finishPropose_framed (Framed.sub h) ?_
    | with_reducible refine State.limitRounds_framed (Framed.sub h) ?_
    | with_reducible refine State.padSurvivors_framed (Framed.sub h) ?_
    | with_reducible refine State.takeUrgent_framed (Framed.sub h) ?_
    | with_reducible refine State.trigger_framed (Framed.sub h) ?_
    | with_reducible refine State.enterPhase_framed (Framed.sub h) ?_
    | (fail_if_no_progress extract_lets +onlyGivenNames x
       refine cutL (p := Framed ps z x) ?_ ?_; subst x; rotate_left; intro hs; try clear_value x; rotate_right)
    | (fail_if_no_progress extract_lets +onlyGivenNames x
       first
       | (have hd : List _ := x; clear hd; clear_value x)
       | (have hd : Bool := x; clear hd; clear_value x)
       | (have hd : Nat := x; clear hd; clear_value x)
       | subst x)
    | fail_if_no_progress beta_reduce
    | with_reducible refine Framed.ite ?_ ?_
    | with_reducible refine Framed.foldl ?_ (fun _ hs _ => ?_)
    | split
    | ((with_reducible refine Framed.upd ?_ ?_); rotate_left; intro p hp; cases p <;> first | exact absurd (h (by decide)) hp | rfl | exact ⟨rfl, rfl⟩))

theorem State.setTickSeed_framed {ps : List Part} (h : [Part.regs] ⊆ ps) {z s : State} {k : Nat}
    (hs : Framed ps z s) : Framed ps z (State.setTickSeed s k) := by
  unfold State.setTickSeed
  repeat' (first
    | with_reducible assumption
    | with_reducible refine State.setBoth_framed (Framed.sub h) ?_)

theorem State.retrainXcut_framed {ps : List Part} (h : [Part.dies] ⊆ ps) {z s : State}
    (hs : Framed ps z s) : Framed ps z (State.retrainXcut s) := by
  unfold State.retrainXcut
  repeat' (first
    | with_reducible assumption
    | (fail_if_no_progress extract_lets +onlyGivenNames x
       first
       | (have hd : List _ := x; clear hd; clear_value x)
       | (have hd : Bool := x; clear hd; clear_value x)
       | (have hd : Nat := x; clear hd; clear_value x)
       | subst x)
    | ((with_reducible refine Framed.upd ?_ ?_); rotate_left; intro p hp; cases p <;> first | exact absurd (h (by decide)) hp | rfl | exact ⟨rfl, rfl⟩))

theorem State.driveTickOut_framed {ps : List Part} (h : [Part.tick, .out] ⊆ ps) {z s : State} {t_ : Nat}
    (hs : Framed ps z s) : Framed ps z (State.driveTickOut s t_) := by
  unfold State.driveTickOut
  repeat' (first
    | with_reducible assumption
    | with_reducible refine State.when_framed ?_ (fun _ hs => ?_)
    | with_reducible refine State.when_framed ?_ (fun _ hs => ?_)
    | with_reducible refine State.emit_framed (Framed.sub h) ?_
    | ((with_reducible refine Framed.upd ?_ ?_); rotate_left; intro p hp; cases p <;> first | exact absurd (h (by decide)) hp | rfl | exact ⟨rfl, rfl⟩))

theorem State.releaseTick_framed {ps : List Part} (h : [Part.ticked, .regs, .mem, .slices, .tick, .plan, .world, .dies, .chans, .host, .kl, .dep, .tally, .out] ⊆ ps) {z s : State} {t_ : Nat}
    (hs : Framed ps z s) : Framed ps z (State.releaseTick s t_) := by
  unfold State.releaseTick
  repeat' (first
    | with_reducible assumption
    | with_reducible refine State.when_framed ?_ (fun _ hs => ?_)
    | with_reducible refine State.snapshot_framed (Framed.sub h) ?_
    | with_reducible refine State.setReg_framed (Framed.sub h) ?_
    | with_reducible refine State.setField_framed (Framed.sub h) ?_
    | with_reducible refine State.setTickSeed_framed (Framed.sub h) ?_
    | with_reducible refine State.retrainXcut_framed (Framed.sub h) ?_
    | with_reducible refine State.retrainDown_framed (Framed.sub h) ?_
    | with_reducible refine State.trigger_framed (Framed.sub h) ?_
    | with_reducible refine State.drainHeld_framed (Framed.sub h) ?_
    | with_reducible refine State.driveTickOut_framed (Framed.sub h) ?_
    | with_reducible refine State.when_framed ?_ (fun _ hs => ?_)
    | with_reducible refine State.releasePhase_framed (Framed.sub h) ?_
    | (fail_if_no_progress extract_lets +onlyGivenNames x
       refine cutL (p := Framed ps z x) ?_ ?_; subst x; rotate_left; intro hs; try clear_value x; rotate_right)
    | (fail_if_no_progress extract_lets +onlyGivenNames x
       first
       | (have hd : List _ := x; clear hd; clear_value x)
       | (have hd : Bool := x; clear hd; clear_value x)
       | (have hd : Nat := x; clear hd; clear_value x)
       | subst x)
    | fail_if_no_progress beta_reduce
    | with_reducible refine Framed.ite ?_ ?_
    | with_reducible refine Framed.foldl ?_ (fun _ hs _ => ?_)
    | split
    | ((with_reducible refine Framed.upd ?_ ?_); rotate_left; intro p hp; cases p <;> first | exact absurd (h (by decide)) hp | rfl | exact ⟨rfl, rfl⟩)
    | dsimp only)

theorem State.dropStaged_framed {ps : List Part} (h : [Part.world] ⊆ ps) {z s : State}
    (hs : Framed ps z s) : Framed ps z (State.dropStaged s) := by
  unfold State.dropStaged
  repeat' (first
    | with_reducible assumption
    | ((with_reducible refine Framed.upd ?_ ?_); rotate_left; intro p hp; cases p <;> first | exact absurd (h (by decide)) hp | rfl | exact ⟨rfl, rfl⟩))

theorem State.edgeCommands_framed {ps : List Part} (h : [Part.dev, .queue, .sys, .world] ⊆ ps) {z s : State} {q0 : Nat}
    (hs : Framed ps z s) : Framed ps z (State.edgeCommands s q0) := by
  induction q0 generalizing s with
  | zero =>
    unfold State.edgeCommands
    repeat' (first
      | with_reducible assumption
      | with_reducible refine State.popCmd_framed (Framed.sub h) ?_
      | with_reducible refine State.dropStaged_framed (Framed.sub h) ?_
      | (fail_if_no_progress extract_lets +onlyGivenNames x
         refine cutL (p := Framed ps z x) ?_ ?_; subst x; rotate_left; intro hs; try clear_value x; rotate_right)
      | (fail_if_no_progress extract_lets +onlyGivenNames x
         first
         | (have hd : List _ := x; clear hd; clear_value x)
         | (have hd : Bool := x; clear hd; clear_value x)
         | (have hd : Nat := x; clear hd; clear_value x)
         | subst x)
      | fail_if_no_progress beta_reduce
      | with_reducible refine Framed.ite ?_ ?_
      | split
      | ((with_reducible refine Framed.upd ?_ ?_); rotate_left; intro p hp; cases p <;> first | exact absurd (h (by decide)) hp | rfl | exact ⟨rfl, rfl⟩)
      | dsimp only)
  | succ e ih =>
    unfold State.edgeCommands
    repeat' (first
      | with_reducible assumption
      | with_reducible refine ih ?_
      | with_reducible refine State.popCmd_framed (Framed.sub h) ?_
      | with_reducible refine State.dropStaged_framed (Framed.sub h) ?_
      | (fail_if_no_progress extract_lets +onlyGivenNames x
         refine cutL (p := Framed ps z x) ?_ ?_; subst x; rotate_left; intro hs; try clear_value x; rotate_right)
      | (fail_if_no_progress extract_lets +onlyGivenNames x
         first
         | (have hd : List _ := x; clear hd; clear_value x)
         | (have hd : Bool := x; clear hd; clear_value x)
         | (have hd : Nat := x; clear hd; clear_value x)
         | subst x)
      | fail_if_no_progress beta_reduce
      | with_reducible refine Framed.ite ?_ ?_
      | split
      | ((with_reducible refine Framed.upd ?_ ?_); rotate_left; intro p hp; cases p <;> first | exact absurd (h (by decide)) hp | rfl | exact ⟨rfl, rfl⟩)
      | dsimp only)

theorem State.newTickDies_framed {ps : List Part} (h : [Part.regs, .dies, .kl, .out] ⊆ ps) {z s : State}
    (hs : Framed ps z s) : Framed ps z (State.newTickDies s) := by
  unfold State.newTickDies
  repeat' (first
    | with_reducible assumption
    | with_reducible refine State.chargeWaits_framed (Framed.sub h) ?_
    | with_reducible refine State.dropTickOps_framed (Framed.sub h) ?_
    | (fail_if_no_progress extract_lets +onlyGivenNames x
       refine cutL (p := Framed ps z x) ?_ ?_; subst x; rotate_left; intro hs; try clear_value x; rotate_right)
    | (fail_if_no_progress extract_lets +onlyGivenNames x
       first
       | (have hd : List _ := x; clear hd; clear_value x)
       | (have hd : Bool := x; clear hd; clear_value x)
       | (have hd : Nat := x; clear hd; clear_value x)
       | subst x)
    | fail_if_no_progress beta_reduce
    | ((with_reducible refine Framed.upd ?_ ?_); rotate_left; intro p hp; cases p <;> first | exact absurd (h (by decide)) hp | rfl | exact ⟨rfl, rfl⟩))

theorem State.boundary_framed {ps : List Part} (h : [Part.dev, .now, .ticked, .regs, .mem, .slices, .queue, .sys, .tick, .plan, .world, .dies, .chans, .host, .kl, .dep, .tally, .out] ⊆ ps) {z s : State} {t_ : Nat}
    (hs : Framed ps z s) : Framed ps z (State.boundary s t_) := by
  unfold State.boundary
  repeat' (first
    | with_reducible assumption
    | with_reducible refine State.advance_framed (Framed.sub h) ?_
    | with_reducible refine State.endTick_framed (Framed.sub h) ?_
    | with_reducible refine State.newTickDies_framed (Framed.sub h) ?_
    | with_reducible refine State.boundaryUnits_framed (Framed.sub h) ?_
    | with_reducible refine State.setBoth_framed (Framed.sub h) ?_
    | with_reducible refine State.leaveRunning_framed (Framed.sub h) ?_
    | with_reducible refine State.dropStaged_framed (Framed.sub h) ?_
    | with_reducible refine State.edgeCommands_framed (Framed.sub h) ?_
    | with_reducible refine State.retrainXcut_framed (Framed.sub h) ?_
    | with_reducible refine State.releaseTick_framed (Framed.sub h) ?_
    | (fail_if_no_progress extract_lets +onlyGivenNames x
       refine cutL (p := Framed ps z x) ?_ ?_; subst x; rotate_left; intro hs; try clear_value x; rotate_right)
    | (fail_if_no_progress extract_lets +onlyGivenNames x
       first
       | (have hd : List _ := x; clear hd; clear_value x)
       | (have hd : Bool := x; clear hd; clear_value x)
       | (have hd : Nat := x; clear hd; clear_value x)
       | subst x)
    | fail_if_no_progress beta_reduce
    | with_reducible refine Framed.ite ?_ ?_
    | split
    | dsimp only)

theorem execTickBoundary_framed {ps : List Part} (h : [Part.dev, .now, .ticked, .regs, .mem, .slices, .queue, .sys, .tick, .plan, .world, .dies, .chans, .host, .kl, .dep, .tally, .out] ⊆ ps) {z s : State} {t : Nat}
    (hs : Framed ps z s) : OutFramed ps z (execTickBoundary t s) := by
  unfold execTickBoundary
  repeat' (first
    | with_reducible assumption
    | with_reducible refine OutFramed.next ?_
    | with_reducible refine State.boundary_framed (Framed.sub h) ?_
    | with_reducible refine State.when_framed ?_ (fun _ hs => ?_))

theorem State.countGood_framed {ps : List Part} (h : [Part.tick] ⊆ ps) {z s : State}
    (hs : Framed ps z s) : Framed ps z (State.countGood s) := by
  unfold State.countGood
  repeat' (first
    | with_reducible assumption
    | (fail_if_no_progress extract_lets +onlyGivenNames x
       first
       | (have hd : List _ := x; clear hd; clear_value x)
       | (have hd : Bool := x; clear hd; clear_value x)
       | (have hd : Nat := x; clear hd; clear_value x)
       | subst x)
    | ((with_reducible refine Framed.upd ?_ ?_); rotate_left; intro p hp; cases p <;> first | exact absurd (h (by decide)) hp | rfl | exact ⟨rfl, rfl⟩))

theorem State.judgeEdge_framed {ps : List Part} (h : [Part.regs, .tick] ⊆ ps) {z s : State} {e : Nat}
    (hs : Framed ps z s) : Framed ps z (State.judgeEdge s e) := by
  unfold State.judgeEdge
  repeat' (first
    | with_reducible assumption
    | with_reducible refine State.event_framed (Framed.sub h) ?_
    | with_reducible refine State.countGood_framed (Framed.sub h) ?_
    | (fail_if_no_progress extract_lets +onlyGivenNames x
       refine cutL (p := Framed ps z x) ?_ ?_; subst x; rotate_left; intro hs; try clear_value x; rotate_right)
    | (fail_if_no_progress extract_lets +onlyGivenNames x
       first
       | (have hd : List _ := x; clear hd; clear_value x)
       | (have hd : Bool := x; clear hd; clear_value x)
       | (have hd : Nat := x; clear hd; clear_value x)
       | subst x)
    | fail_if_no_progress beta_reduce
    | with_reducible refine Framed.ite ?_ ?_
    | split
    | ((with_reducible refine Framed.upd ?_ ?_); rotate_left; intro p hp; cases p <;> first | exact absurd (h (by decide)) hp | rfl | exact ⟨rfl, rfl⟩))

theorem execTickInPulse_framed {ps : List Part} (h : [Part.dev, .now, .ticked, .regs, .mem, .slices, .queue, .sys, .tick, .plan, .world, .dies, .chans, .host, .kl, .dep, .tally, .out] ⊆ ps) {z s : State} {e : Nat} {width : Nat}
    (hs : Framed ps z s) : OutFramed ps z (execTickInPulse e width s) := by
  unfold execTickInPulse
  repeat' (first
    | with_reducible assumption
    | with_reducible refine OutFramed.next ?_
    | with_reducible refine State.when_framed ?_ (fun _ hs => ?_)
    | with_reducible refine State.event_framed (Framed.sub h) ?_
    | with_reducible refine State.when_framed ?_ (fun _ hs => ?_)
    | with_reducible refine State.advance_framed (Framed.sub h) ?_
    | with_reducible refine State.boundary_framed (Framed.sub h) ?_
    | with_reducible refine State.countGood_framed (Framed.sub h) ?_
    | with_reducible refine State.judgeEdge_framed (Framed.sub h) ?_
    | (fail_if_no_progress extract_lets +onlyGivenNames x
       refine cutL (p := Framed ps z x) ?_ ?_; subst x; rotate_left; intro hs; try clear_value x; rotate_right)
    | (fail_if_no_progress extract_lets +onlyGivenNames x
       first
       | (have hd : List _ := x; clear hd; clear_value x)
       | (have hd : Bool := x; clear hd; clear_value x)
       | (have hd : Nat := x; clear hd; clear_value x)
       | subst x)
    | fail_if_no_progress beta_reduce
    | with_reducible refine Framed.ite ?_ ?_
    | split
    | ((with_reducible refine Framed.upd ?_ ?_); rotate_left; intro p hp; cases p <;> first | exact absurd (h (by decide)) hp | rfl | exact ⟨rfl, rfl⟩))

theorem State.loseSource_framed {ps : List Part} (h : [Part.regs, .tick, .host, .tally, .out] ⊆ ps) {z s : State}
    (hs : Framed ps z s) : Framed ps z (State.loseSource s) := by
  unfold State.loseSource
  repeat' (first
    | with_reducible assumption
    | with_reducible refine State.event_framed (Framed.sub h) ?_
    | with_reducible refine State.irq_framed (Framed.sub h) ?_
    | with_reducible refine State.log_framed (Framed.sub h) ?_
    | (fail_if_no_progress extract_lets +onlyGivenNames x
       first
       | (have hd : List _ := x; clear hd; clear_value x)
       | (have hd : Bool := x; clear hd; clear_value x)
       | (have hd : Nat := x; clear hd; clear_value x)
       | subst x)
    | ((with_reducible refine Framed.upd ?_ ?_); rotate_left; intro p hp; cases p <;> first | exact absurd (h (by decide)) hp | rfl | exact ⟨rfl, rfl⟩))

theorem execSrcLost_framed {ps : List Part} (h : [Part.dev, .now, .ticked, .regs, .mem, .slices, .queue, .sys, .tick, .plan, .world, .dies, .chans, .host, .kl, .dep, .tally, .out] ⊆ ps) {z s : State} {t : Nat}
    (hs : Framed ps z s) : OutFramed ps z (execSrcLost t s) := by
  unfold execSrcLost
  repeat' (first
    | with_reducible assumption
    | with_reducible refine OutFramed.next ?_
    | with_reducible refine State.advance_framed (Framed.sub h) ?_
    | with_reducible refine State.boundary_framed (Framed.sub h) ?_
    | with_reducible refine State.loseSource_framed (Framed.sub h) ?_
    | with_reducible refine State.when_framed ?_ (fun _ hs => ?_)
    | (fail_if_no_progress extract_lets +onlyGivenNames x
       first
       | (have hd : List _ := x; clear hd; clear_value x)
       | (have hd : Bool := x; clear hd; clear_value x)
       | (have hd : Nat := x; clear hd; clear_value x)
       | subst x)
    | with_reducible refine Framed.ite ?_ ?_
    | ((with_reducible refine Framed.upd ?_ ?_); rotate_left; intro p hp; cases p <;> first | exact absurd (h (by decide)) hp | rfl | exact ⟨rfl, rfl⟩))

theorem execPhaseRelease_framed {ps : List Part} (h : [Part.now, .regs, .mem, .slices, .tick, .plan, .world, .dies, .chans, .dep] ⊆ ps) {z s : State} {t_ : Nat} {ph : Nat}
    (hs : Framed ps z s) : OutFramed ps z (execPhaseRelease t_ ph s) := by
  unfold execPhaseRelease
  repeat' (first
    | with_reducible assumption
    | with_reducible refine OutFramed.next ?_
    | with_reducible refine State.when_framed ?_ (fun _ hs => ?_)
    | with_reducible refine State.when_framed ?_ (fun _ hs => ?_)
    | with_reducible refine State.advance_framed (Framed.sub h) ?_
    | with_reducible refine State.releasePhase_framed (Framed.sub h) ?_)

theorem State.overrun_framed {ps : List Part} (h : [Part.regs, .tick, .plan, .dies, .chans, .host, .kl, .dep, .tally, .out] ⊆ ps) {z s : State} {ph : Nat} {write : Bool}
    (hs : Framed ps z s) : Framed ps z (State.overrun s ph write) := by
  unfold State.overrun
  repeat' (first
    | with_reducible assumption
    | with_reducible refine State.event_framed (Framed.sub h) ?_
    | with_reducible refine State.count_framed (Framed.sub h) ?_
    | with_reducible refine State.log_framed (Framed.sub h) ?_
    | with_reducible refine State.writeInvalid_framed (Framed.sub h) ?_
    | with_reducible refine State.stopWork_framed (Framed.sub h) ?_
    | (fail_if_no_progress extract_lets +onlyGivenNames x
       refine cutL (p := Framed ps z x) ?_ ?_; subst x; rotate_left; intro hs; try clear_value x; rotate_right)
    | (fail_if_no_progress extract_lets +onlyGivenNames x
       first
       | (have hd : List _ := x; clear hd; clear_value x)
       | (have hd : Bool := x; clear hd; clear_value x)
       | (have hd : Nat := x; clear hd; clear_value x)
       | subst x)
    | with_reducible refine Framed.ite ?_ ?_
    | ((with_reducible refine Framed.upd ?_ ?_); rotate_left; intro p hp; cases p <;> first | exact absurd (h (by decide)) hp | rfl | exact ⟨rfl, rfl⟩))

theorem State.emitEnds_framed {ps : List Part} (h : [Part.dev, .regs, .queue, .sys, .tick, .plan, .dies, .chans, .host, .kl, .safe, .dep, .tally, .out] ⊆ ps) {z s : State}
    (hs : Framed ps z s) : Framed ps z (State.emitEnds s) := by
  unfold State.emitEnds
  repeat' (first
    | with_reducible assumption
    | with_reducible refine State.irq_framed (Framed.sub h) ?_
    | with_reducible refine State.judge_framed (Framed.sub h) ?_
    | with_reducible refine State.trigger_framed (Framed.sub h) ?_
    | (fail_if_no_progress extract_lets +onlyGivenNames x
       first
       | (have hd : List _ := x; clear hd; clear_value x)
       | (have hd : Bool := x; clear hd; clear_value x)
       | (have hd : Nat := x; clear hd; clear_value x)
       | subst x)
    | split
    | ((with_reducible refine Framed.upd ?_ ?_); rotate_left; intro p hp; cases p <;> first | exact absurd (h (by decide)) hp | rfl | exact ⟨rfl, rfl⟩))

theorem execPhaseWatchdog_framed {ps : List Part} (h : [Part.dev, .now, .regs, .queue, .sys, .tick, .plan, .dies, .chans, .host, .kl, .safe, .dep, .tally, .out] ⊆ ps) {z s : State} {t_ : Nat} {b : BudgetEnd}
    (hs : Framed ps z s) : OutFramed ps z (execPhaseWatchdog t_ b s) := by
  unfold execPhaseWatchdog
  repeat' (first
    | with_reducible assumption
    | with_reducible refine OutFramed.next ?_
    | with_reducible refine State.when_framed ?_ (fun _ hs => ?_)
    | with_reducible refine State.when_framed ?_ (fun _ hs => ?_)
    | with_reducible refine State.advance_framed (Framed.sub h) ?_
    | with_reducible refine State.contendAll_framed (Framed.sub h) ?_
    | with_reducible refine State.overrun_framed (Framed.sub h) ?_
    | with_reducible refine State.emitEnds_framed (Framed.sub h) ?_
    | (fail_if_no_progress extract_lets +onlyGivenNames x
       refine cutL (p := Framed ps z x) ?_ ?_; subst x; rotate_left; intro hs; try clear_value x; rotate_right)
    | (fail_if_no_progress extract_lets +onlyGivenNames x
       first
       | (have hd : List _ := x; clear hd; clear_value x)
       | (have hd : Bool := x; clear hd; clear_value x)
       | (have hd : Nat := x; clear hd; clear_value x)
       | subst x)
    | fail_if_no_progress beta_reduce)

theorem execRecordDeadline_framed {ps : List Part} (h : [Part.now, .regs, .tick, .plan, .dies, .chans, .host, .kl, .dep, .tally, .out] ⊆ ps) {z s : State} {b : DeadlineMet}
    (hs : Framed ps z s) : OutFramed ps z (execRecordDeadline b s) := by
  unfold execRecordDeadline
  repeat' (first
    | with_reducible assumption
    | with_reducible refine OutFramed.next ?_
    | with_reducible refine State.when_framed ?_ (fun _ hs => ?_)
    | with_reducible refine State.when_framed ?_ (fun _ hs => ?_)
    | with_reducible refine State.advance_framed (Framed.sub h) ?_
    | with_reducible refine State.contendAll_framed (Framed.sub h) ?_
    | with_reducible refine State.overrun_framed (Framed.sub h) ?_)

theorem State.restoreList_framed {ps : List Part} (h : [Part.mem, .slices] ⊆ ps) {z s : State} {n : Nat} {d : Die}
    (hs : Framed ps z s) : Framed ps z (State.restoreList s n d) := by
  unfold State.restoreList
  repeat' (first
    | with_reducible assumption
    | with_reducible refine State.when_framed ?_ (fun _ hs => ?_)
    | with_reducible refine State.when_framed ?_ (fun _ hs => ?_)
    | with_reducible refine State.storeWin_framed (Framed.sub h) ?_)

theorem State.abandonRounds_framed {ps : List Part} (h : [Part.regs, .mem, .slices, .dies] ⊆ ps) {z s : State} {n : Nat} {gone : List Nat} {d : Die}
    (hs : Framed ps z s) : Framed ps z (State.abandonRounds s n gone d) := by
  unfold State.abandonRounds
  repeat' (first
    | with_reducible assumption
    | with_reducible refine State.setDie_framed (Framed.sub h) ?_ ?_
    | ((with_reducible refine fun (hn : Part.slices ∉ ps) => ?_); first | exact absurd (h (by decide)) hn | exact Framed.die hs hn _ | exact Framed.die (by assumption) hn _ | exact (hs _ hn).1 | exact (hs _ hn).2 | simpa using Framed.die hs hn _)
    | with_reducible refine State.restoreList_framed (Framed.sub h) ?_
    | with_reducible refine State.dropTasks_framed (Framed.sub h) ?_
    | (fail_if_no_progress extract_lets +onlyGivenNames x
       refine cutL (p := Framed ps z x) ?_ ?_; subst x; rotate_left; intro hs; try clear_value x; rotate_right)
    | (fail_if_no_progress extract_lets +onlyGivenNames x
       first
       | (have hd : List _ := x; clear hd; clear_value x)
       | (have hd : Bool := x; clear hd; clear_value x)
       | (have hd : Nat := x; clear hd; clear_value x)
       | subst x)
    | fail_if_no_progress beta_reduce
    | ((with_reducible refine Framed.upd ?_ ?_); rotate_left; intro p hp; cases p <;> first | exact absurd (h (by decide)) hp | rfl | exact ⟨rfl, rfl⟩))

theorem execTimeup_framed {ps : List Part} (h : [Part.now, .regs, .mem, .slices, .plan, .dies] ⊆ ps) {z s : State} {t_ : Nat}
    (hs : Framed ps z s) : OutFramed ps z (execTimeup t_ s) := by
  unfold execTimeup
  repeat' (first
    | with_reducible assumption
    | with_reducible refine OutFramed.next ?_
    | with_reducible refine State.when_framed ?_ (fun _ hs => ?_)
    | with_reducible refine State.when_framed ?_ (fun _ hs => ?_)
    | with_reducible refine State.abandonRounds_framed (Framed.sub h) ?_
    | with_reducible refine State.event_framed (Framed.sub h) ?_
    | with_reducible refine State.advance_framed (Framed.sub h) ?_
    | (fail_if_no_progress extract_lets +onlyGivenNames x
       refine cutL (p := Framed ps z x) ?_ ?_; subst x; rotate_left; intro hs; try clear_value x; rotate_right)
    | (fail_if_no_progress extract_lets +onlyGivenNames x
       first
       | (have hd : List _ := x; clear hd; clear_value x)
       | (have hd : Bool := x; clear hd; clear_value x)
       | (have hd : Nat := x; clear hd; clear_value x)
       | subst x)
    | fail_if_no_progress beta_reduce
    | with_reducible refine Framed.foldl ?_ (fun _ hs _ => ?_)
    | ((with_reducible refine Framed.upd ?_ ?_); rotate_left; intro p hp; cases p <;> first | exact absurd (h (by decide)) hp | rfl | exact ⟨rfl, rfl⟩))

end Sys2Proof.Machine
end

