-- ==== Sys2Proof/Laws/FrameCommands.lean ====
section
/-! SUPPORT. The parts of the state that the operations of Machine/Commands.lean can change. -/

set_option Elab.async false
set_option linter.unusedTactic false
set_option linter.unreachableTactic false
set_option linter.unusedVariables false
set_option linter.tactic.unusedName false

namespace Sys2Proof.Machine
open Sys2Proof

theorem State.writeCanaries_framed {ps : List Part} (h : [Part.mem, .slices] ⊆ ps) {z s : State}
    (hs : Framed ps z s) : Framed ps z (State.writeCanaries s) := by
  unfold State.writeCanaries
  repeat' (first
    | with_reducible assumption
    | with_reducible refine State.writeCanary_framed (Framed.sub h) ?_
    | with_reducible refine Framed.foldl ?_ (fun _ hs _ => ?_)
    | with_reducible refine Framed.ite ?_ ?_)

theorem State.awaitFirst_framed {ps : List Part} (h : [Part.dev, .tick] ⊆ ps) {z s : State} {next : Nat} {nextT : Option Nat}
    (hs : Framed ps z s) : Framed ps z (State.awaitFirst s next nextT) := by
  unfold State.awaitFirst
  repeat' (first
    | with_reducible assumption
    | (fail_if_no_progress extract_lets +onlyGivenNames x
       first
       | (have hd : List _ := x; clear hd; clear_value x)
       | (have hd : Bool := x; clear hd; clear_value x)
       | (have hd : Nat := x; clear hd; clear_value x)
       | subst x)
    | ((with_reducible refine Framed.upd ?_ ?_); rotate_left; intro p hp; cases p <;> first | exact absurd (h (by decide)) hp | rfl | exact ⟨rfl, rfl⟩))

theorem State.inject_framed {ps : List Part} (h : [Part.dev, .regs, .queue, .sys, .tick, .plan, .dies, .chans, .host, .kl, .safe, .dep, .tally, .out] ⊆ ps) {z s : State} {missed : Nat}
    (hs : Framed ps z s) : Framed ps z (State.inject s missed) := by
  unfold State.inject
  repeat' (first
    | with_reducible assumption
    | with_reducible refine State.setReg_framed (Framed.sub h) ?_
    | with_reducible refine State.event_framed (Framed.sub h) ?_
    | with_reducible refine State.log_framed (Framed.sub h) ?_
    | with_reducible refine State.enterSafe_framed (Framed.sub h) ?_
    | (fail_if_no_progress extract_lets +onlyGivenNames x
       refine cutL (p := Framed ps z x) ?_ ?_; subst x; rotate_left; intro hs; try clear_value x; rotate_right)
    | (fail_if_no_progress extract_lets +onlyGivenNames x
       first
       | (have hd : List _ := x; clear hd; clear_value x)
       | (have hd : Bool := x; clear hd; clear_value x)
       | (have hd : Nat := x; clear hd; clear_value x)
       | subst x)
    | with_reducible refine Framed.ite ?_ ?_
    | ((with_reducible refine Framed.upd ?_ ?_); rotate_left; intro p hp; cases p <;> first | exact absurd (h (by decide)) hp | rfl | exact ⟨rfl, rfl⟩))

theorem State.clearCounters_framed {ps : List Part} (h : [Part.regs, .dies] ⊆ ps) {z s : State}
    (hs : Framed ps z s) : Framed ps z (State.clearCounters s) := by
  unfold State.clearCounters
  repeat' (first
    | with_reducible assumption
    | with_reducible refine State.setReg_framed (Framed.sub h) ?_
    | (fail_if_no_progress extract_lets +onlyGivenNames x
       refine cutL (p := Framed ps z x) ?_ ?_; subst x; rotate_left; intro hs; try clear_value x; rotate_right)
    | (fail_if_no_progress extract_lets +onlyGivenNames x
       first
       | (have hd : List _ := x; clear hd; clear_value x)
       | (have hd : Bool := x; clear hd; clear_value x)
       | (have hd : Nat := x; clear hd; clear_value x)
       | subst x)
    | fail_if_no_progress beta_reduce
    | with_reducible refine Framed.foldl ?_ (fun _ hs _ => ?_)
    | ((with_reducible refine Framed.upd ?_ ?_); rotate_left; intro p hp; cases p <;> first | exact absurd (h (by decide)) hp | rfl | exact ⟨rfl, rfl⟩))

theorem State.loadTime_framed {ps : List Part} (h : [Part.now, .seed, .dies] ⊆ ps) {z s : State}
    (hs : Framed ps z s) : Framed ps z (State.loadTime s) := by
  unfold State.loadTime
  repeat' (first
    | with_reducible assumption
    | (fail_if_no_progress extract_lets +onlyGivenNames x
       refine cutL (p := Framed ps z x) ?_ ?_; subst x; rotate_left; intro hs; try clear_value x; rotate_right)
    | (fail_if_no_progress extract_lets +onlyGivenNames x
       first
       | (have hd : List _ := x; clear hd; clear_value x)
       | (have hd : Bool := x; clear hd; clear_value x)
       | (have hd : Nat := x; clear hd; clear_value x)
       | subst x)
    | fail_if_no_progress beta_reduce
    | ((with_reducible refine Framed.upd ?_ ?_); rotate_left; intro p hp; cases p <;> first | exact absurd (h (by decide)) hp | rfl | exact ⟨rfl, rfl⟩))

theorem State.emptySession_framed {ps : List Part} (h : [Part.plan, .world, .dies, .dep] ⊆ ps) {z s : State} {next : Nat} {epoch : Nat}
    (hs : Framed ps z s) : Framed ps z (State.emptySession s next epoch) := by
  unfold State.emptySession
  repeat' (first
    | with_reducible assumption
    | ((with_reducible refine Framed.upd ?_ ?_); rotate_left; intro p hp; cases p <;> first | exact absurd (h (by decide)) hp | rfl | exact ⟨rfl, rfl⟩))

theorem State.startSession_framed {ps : List Part} (h : [Part.dev, .now, .seed, .regs, .mem, .slices, .tick, .plan, .world, .dies, .dep] ⊆ ps) {z s : State}
    (hs : Framed ps z s) : Framed ps z (State.startSession s) := by
  unfold State.startSession
  repeat' (first
    | with_reducible assumption
    | with_reducible refine State.writeBank_framed (Framed.sub h) ?_
    | with_reducible refine State.writeCanaries_framed (Framed.sub h) ?_
    | with_reducible refine State.awaitFirst_framed (Framed.sub h) ?_
    | with_reducible refine State.clearCounters_framed (Framed.sub h) ?_
    | with_reducible refine State.loadTime_framed (Framed.sub h) ?_
    | with_reducible refine State.emptySession_framed (Framed.sub h) ?_)

theorem execStart_framed {ps : List Part} (h : [Part.dev, .now, .seed, .regs, .badRegs, .mem, .slices, .queue, .sys, .tick, .plan, .world, .dies, .chans, .host, .kl, .safe, .dep, .tally, .out] ⊆ ps) {z s : State} {t_ : Nat} {missed : Nat}
    (hs : Framed ps z s) : OutFramed ps z (execStart t_ missed s) := by
  unfold execStart
  repeat' (first
    | with_reducible assumption
    | with_reducible refine OutFramed.next ?_
    | with_reducible refine State.when_framed ?_ (fun _ hs => ?_)
    | with_reducible refine State.when_framed ?_ (fun _ hs => ?_)
    | with_reducible refine State.advance_framed (Framed.sub h) ?_
    | with_reducible refine State.checkUses_framed (Framed.sub h) ?_
    | with_reducible refine State.popCmd_framed (Framed.sub h) ?_
    | with_reducible refine State.startSession_framed (Framed.sub h) ?_
    | with_reducible refine State.sendTrains_framed (Framed.sub h) ?_
    | with_reducible refine State.inject_framed (Framed.sub h) ?_
    | (fail_if_no_progress extract_lets +onlyGivenNames x
       refine cutL (p := Framed ps z x) ?_ ?_; subst x; rotate_left; intro hs; try clear_value x; rotate_right)
    | (fail_if_no_progress extract_lets +onlyGivenNames x
       first
       | (have hd : List _ := x; clear hd; clear_value x)
       | (have hd : Bool := x; clear hd; clear_value x)
       | (have hd : Nat := x; clear hd; clear_value x)
       | subst x)
    | fail_if_no_progress beta_reduce
    | with_reducible refine Framed.ite ?_ ?_
    | split)

theorem execResume_framed {ps : List Part} (h : [Part.dev, .now, .regs, .badRegs, .queue, .sys, .tick, .plan, .dies, .chans, .host, .kl, .safe, .dep, .tally, .out] ⊆ ps) {z s : State} {t_ : Nat} {missed : Nat}
    (hs : Framed ps z s) : OutFramed ps z (execResume t_ missed s) := by
  unfold execResume
  repeat' (first
    | with_reducible assumption
    | with_reducible refine OutFramed.next ?_
    | with_reducible refine State.when_framed ?_ (fun _ hs => ?_)
    | with_reducible refine State.when_framed ?_ (fun _ hs => ?_)
    | with_reducible refine State.advance_framed (Framed.sub h) ?_
    | with_reducible refine State.checkUses_framed (Framed.sub h) ?_
    | with_reducible refine State.popCmd_framed (Framed.sub h) ?_
    | with_reducible refine State.awaitFirst_framed (Framed.sub h) ?_
    | with_reducible refine State.inject_framed (Framed.sub h) ?_
    | (fail_if_no_progress extract_lets +onlyGivenNames x
       refine cutL (p := Framed ps z x) ?_ ?_; subst x; rotate_left; intro hs; try clear_value x; rotate_right)
    | (fail_if_no_progress extract_lets +onlyGivenNames x
       first
       | (have hd : List _ := x; clear hd; clear_value x)
       | (have hd : Bool := x; clear hd; clear_value x)
       | (have hd : Nat := x; clear hd; clear_value x)
       | subst x)
    | fail_if_no_progress beta_reduce
    | with_reducible refine Framed.ite ?_ ?_
    | split
    | ((with_reducible refine Framed.upd ?_ ?_); rotate_left; intro p hp; cases p <;> first | exact absurd (h (by decide)) hp | rfl | exact ⟨rfl, rfl⟩))

theorem State.waitBoundary_framed {ps : List Part} (h : [Part.sys] ⊆ ps) {z s : State}
    (hs : Framed ps z s) : Framed ps z (State.waitBoundary s) := by
  unfold State.waitBoundary
  repeat' (first
    | with_reducible assumption
    | (fail_if_no_progress extract_lets +onlyGivenNames x
       first
       | (have hd : List _ := x; clear hd; clear_value x)
       | (have hd : Bool := x; clear hd; clear_value x)
       | (have hd : Nat := x; clear hd; clear_value x)
       | subst x)
    | ((with_reducible refine Framed.upd ?_ ?_); rotate_left; intro p hp; cases p <;> first | exact absurd (h (by decide)) hp | rfl | exact ⟨rfl, rfl⟩))

theorem execStop_framed {ps : List Part} (h : [Part.dev, .now, .queue, .sys, .world] ⊆ ps) {z s : State} {t : Nat}
    (hs : Framed ps z s) : OutFramed ps z (execStop t s) := by
  unfold execStop
  repeat' (first
    | with_reducible assumption
    | with_reducible refine OutFramed.next ?_
    | with_reducible refine State.advance_framed (Framed.sub h) ?_
    | with_reducible refine State.popCmd_framed (Framed.sub h) ?_
    | with_reducible refine State.dropStaged_framed (Framed.sub h) ?_
    | with_reducible refine State.waitBoundary_framed (Framed.sub h) ?_
    | with_reducible refine State.when_framed ?_ (fun _ hs => ?_)
    | (fail_if_no_progress extract_lets +onlyGivenNames x
       refine cutL (p := Framed ps z x) ?_ ?_; subst x; rotate_left; intro hs; try clear_value x; rotate_right)
    | split
    | ((with_reducible refine Framed.upd ?_ ?_); rotate_left; intro p hp; cases p <;> first | exact absurd (h (by decide)) hp | rfl | exact ⟨rfl, rfl⟩))

theorem execHold_framed {ps : List Part} (h : [Part.now, .queue, .sys] ⊆ ps) {z s : State} {t : Nat}
    (hs : Framed ps z s) : OutFramed ps z (execHold t s) := by
  unfold execHold
  repeat' (first
    | with_reducible assumption
    | with_reducible refine OutFramed.next ?_
    | with_reducible refine State.advance_framed (Framed.sub h) ?_
    | with_reducible refine State.popCmd_framed (Framed.sub h) ?_
    | with_reducible refine State.waitBoundary_framed (Framed.sub h) ?_
    | with_reducible refine State.when_framed ?_ (fun _ hs => ?_)
    | (fail_if_no_progress extract_lets +onlyGivenNames x
       refine cutL (p := Framed ps z x) ?_ ?_; subst x; rotate_left; intro hs; try clear_value x; rotate_right)
    | split)

theorem State.sampleBase_framed {ps : List Part} (h : [Part.regs, .sys] ⊆ ps) {z s : State} {restore : Bool} {result : Nat}
    (hs : Framed ps z s) : Framed ps z (State.sampleBase s restore result) := by
  unfold State.sampleBase
  repeat' (first
    | with_reducible assumption
    | with_reducible refine State.setReg_framed (Framed.sub h) ?_
    | (fail_if_no_progress extract_lets +onlyGivenNames x
       first
       | (have hd : List _ := x; clear hd; clear_value x)
       | (have hd : Bool := x; clear hd; clear_value x)
       | (have hd : Nat := x; clear hd; clear_value x)
       | subst x)
    | ((with_reducible refine Framed.upd ?_ ?_); rotate_left; intro p hp; cases p <;> first | exact absurd (h (by decide)) hp | rfl | exact ⟨rfl, rfl⟩))

theorem execSave_framed {ps : List Part} (h : [Part.dev, .now, .regs, .badRegs, .mem, .slices, .queue, .sys, .tick, .plan, .dies, .chans, .host, .kl, .safe, .dep, .tally, .out] ⊆ ps) {z s : State} {t_ : Nat}
    (hs : Framed ps z s) : OutFramed ps z (execSave t_ s) := by
  unfold execSave
  repeat' (first
    | with_reducible assumption
    | with_reducible refine OutFramed.next ?_
    | with_reducible refine State.when_framed ?_ (fun _ hs => ?_)
    | with_reducible refine State.when_framed ?_ (fun _ hs => ?_)
    | with_reducible refine State.advance_framed (Framed.sub h) ?_
    | with_reducible refine State.checkUses_framed (Framed.sub h) ?_
    | with_reducible refine State.popCmd_framed (Framed.sub h) ?_
    | with_reducible refine State.afterFront_framed (Framed.sub h) ?_ (fun _ hs => ?_)
    | with_reducible refine State.saveTo_framed (Framed.sub h) ?_
    | with_reducible exact State.saveTo_framed_eq (Framed.sub h) (by assumption) (by assumption)
    | with_reducible refine State.sampleBase_framed (Framed.sub h) ?_
    | (fail_if_no_progress extract_lets +onlyGivenNames x
       refine cutL (p := Framed ps z x) ?_ ?_; subst x; rotate_left; intro hs; try clear_value x; rotate_right)
    | (fail_if_no_progress extract_lets +onlyGivenNames x
       first
       | (have hd : List _ := x; clear hd; clear_value x)
       | (have hd : Bool := x; clear hd; clear_value x)
       | (have hd : Nat := x; clear hd; clear_value x)
       | subst x)
    | fail_if_no_progress beta_reduce
    | with_reducible refine Framed.ite ?_ ?_
    | split
    | dsimp only)

theorem execSaveDone_framed {ps : List Part} (h : [Part.regs, .queue, .sys, .host, .tally, .out] ⊆ ps) {z s : State}
    (hs : Framed ps z s) : OutFramed ps z (execSaveDone s) := by
  unfold execSaveDone
  repeat' (first
    | with_reducible assumption
    | with_reducible refine OutFramed.next ?_
    | with_reducible refine State.when_framed ?_ (fun _ hs => ?_)
    | with_reducible refine State.when_framed ?_ (fun _ hs => ?_)
    | with_reducible refine State.savedTo_framed (Framed.sub h) ?_
    | with_reducible refine State.popCmd_framed (Framed.sub h) ?_)

theorem execRestore_framed {ps : List Part} (h : [Part.dev, .now, .regs, .badRegs, .queue, .sys, .tick, .plan, .dies, .chans, .host, .kl, .safe, .dep, .tally, .out] ⊆ ps) {z s : State} {t_ : Nat}
    (hs : Framed ps z s) : OutFramed ps z (execRestore t_ s) := by
  unfold execRestore
  repeat' (first
    | with_reducible assumption
    | with_reducible refine OutFramed.next ?_
    | with_reducible refine State.when_framed ?_ (fun _ hs => ?_)
    | with_reducible refine State.when_framed ?_ (fun _ hs => ?_)
    | with_reducible refine State.advance_framed (Framed.sub h) ?_
    | with_reducible refine State.checkUses_framed (Framed.sub h) ?_
    | with_reducible refine State.sampleBase_framed (Framed.sub h) ?_
    | with_reducible refine State.popCmd_framed (Framed.sub h) ?_
    | (fail_if_no_progress extract_lets +onlyGivenNames x
       refine cutL (p := Framed ps z x) ?_ ?_; subst x; rotate_left; intro hs; try clear_value x; rotate_right)
    | (fail_if_no_progress extract_lets +onlyGivenNames x
       first
       | (have hd : List _ := x; clear hd; clear_value x)
       | (have hd : Bool := x; clear hd; clear_value x)
       | (have hd : Nat := x; clear hd; clear_value x)
       | subst x)
    | fail_if_no_progress beta_reduce
    | with_reducible refine Framed.ite ?_ ?_
    | split)

theorem execRestoreDone_framed {ps : List Part} (h : [Part.free, .seed, .regs, .badRegs, .mem, .slices, .queue, .sys, .tick, .plan, .world, .dies, .host, .dep, .tally, .out] ⊆ ps) {z s : State} {ue : Bool}
    (hs : Framed ps z s) : OutFramed ps z (execRestoreDone ue s) := by
  unfold execRestoreDone
  repeat' (first
    | with_reducible assumption
    | with_reducible refine OutFramed.next ?_
    | with_reducible refine State.when_framed ?_ (fun _ hs => ?_)
    | with_reducible refine State.when_framed ?_ (fun _ hs => ?_)
    | with_reducible refine State.afterFront_framed (Framed.sub h) ?_ (fun _ hs => ?_)
    | with_reducible refine State.sourceUe_framed (Framed.sub h) ?_
    | with_reducible refine State.restoreLoad_framed (Framed.sub h) ?_
    | with_reducible refine State.setReg_framed (Framed.sub h) ?_
    | with_reducible refine State.log_framed (Framed.sub h) ?_
    | with_reducible refine State.popCmd_framed (Framed.sub h) ?_
    | (fail_if_no_progress extract_lets +onlyGivenNames x
       refine cutL (p := Framed ps z x) ?_ ?_; subst x; rotate_left; intro hs; try clear_value x; rotate_right)
    | (fail_if_no_progress extract_lets +onlyGivenNames x
       first
       | (have hd : List _ := x; clear hd; clear_value x)
       | (have hd : Bool := x; clear hd; clear_value x)
       | (have hd : Nat := x; clear hd; clear_value x)
       | subst x)
    | fail_if_no_progress beta_reduce
    | with_reducible refine Framed.ite ?_ ?_
    | split)

theorem execUnlistedCode_framed {ps : List Part} (h : [Part.now, .queue, .sys] ⊆ ps) {z s : State} {t : Nat}
    (hs : Framed ps z s) : OutFramed ps z (execUnlistedCode t s) := by
  unfold execUnlistedCode
  repeat' (first
    | with_reducible assumption
    | with_reducible refine OutFramed.next ?_
    | with_reducible refine State.advance_framed (Framed.sub h) ?_
    | with_reducible refine State.popCmd_framed (Framed.sub h) ?_
    | with_reducible refine Framed.ite ?_ ?_
    | split)

theorem State.takeSh_framed {ps : List Part} (h : [Part.regs] ⊆ ps) {z s : State} {p_ : ShPend}
    (hs : Framed ps z s) : Framed ps z (State.takeSh s p_) := by
  unfold State.takeSh
  repeat' (first
    | with_reducible assumption
    | with_reducible refine State.setReg_framed (Framed.sub h) ?_)

theorem State.checkCoord_framed {ps : List Part} (h : [Part.regs, .host, .kl, .out] ⊆ ps) {z s : State}
    (hs : Framed ps z s) : Framed ps z (State.checkCoord s) := by
  unfold State.checkCoord
  repeat' (first
    | with_reducible assumption
    | with_reducible refine State.when_framed ?_ (fun _ hs => ?_)
    | with_reducible refine State.when_framed ?_ (fun _ hs => ?_)
    | with_reducible refine State.event_framed (Framed.sub h) ?_
    | with_reducible refine State.irq_framed (Framed.sub h) ?_
    | with_reducible refine State.retrainDown_framed (Framed.sub h) ?_
    | (fail_if_no_progress extract_lets +onlyGivenNames x
       refine cutL (p := Framed ps z x) ?_ ?_; subst x; rotate_left; intro hs; try clear_value x; rotate_right)
    | (fail_if_no_progress extract_lets +onlyGivenNames x
       first
       | (have hd : List _ := x; clear hd; clear_value x)
       | (have hd : Bool := x; clear hd; clear_value x)
       | (have hd : Nat := x; clear hd; clear_value x)
       | subst x)
    | fail_if_no_progress beta_reduce
    | split
    | ((with_reducible refine Framed.upd ?_ ?_); rotate_left; intro p hp; cases p <;> first | exact absurd (h (by decide)) hp | rfl | exact ⟨rfl, rfl⟩)
    | dsimp only)

theorem State.changeProfile_framed {ps : List Part} (h : [Part.sys, .dies, .power] ⊆ ps) {z s : State} {old : Nat}
    (hs : Framed ps z s) : Framed ps z (State.changeProfile s old) := by
  unfold State.changeProfile
  repeat' (first
    | with_reducible assumption
    | (fail_if_no_progress extract_lets +onlyGivenNames x
       refine cutL (p := Framed ps z x) ?_ ?_; subst x; rotate_left; intro hs; try clear_value x; rotate_right)
    | (fail_if_no_progress extract_lets +onlyGivenNames x
       first
       | (have hd : List _ := x; clear hd; clear_value x)
       | (have hd : Bool := x; clear hd; clear_value x)
       | (have hd : Nat := x; clear hd; clear_value x)
       | subst x)
    | with_reducible refine Framed.ite ?_ ?_
    | ((with_reducible refine Framed.upd ?_ ?_); rotate_left; intro p hp; cases p <;> first | exact absurd (h (by decide)) hp | rfl | exact ⟨rfl, rfl⟩))

theorem execCommit_framed {ps : List Part} (h : [Part.dev, .now, .regs, .sh, .badRegs, .queue, .sys, .tick, .plan, .dies, .chans, .host, .kl, .safe, .dep, .tally, .power, .out] ⊆ ps) {z s : State} {t_ : Nat}
    (hs : Framed ps z s) : OutFramed ps z (execCommit t_ s) := by
  unfold execCommit
  repeat' (first
    | with_reducible assumption
    | with_reducible refine OutFramed.next ?_
    | with_reducible refine State.when_framed ?_ (fun _ hs => ?_)
    | with_reducible refine State.when_framed ?_ (fun _ hs => ?_)
    | with_reducible refine State.advance_framed (Framed.sub h) ?_
    | with_reducible refine State.checkUses_framed (Framed.sub h) ?_
    | with_reducible refine State.popCmd_framed (Framed.sub h) ?_
    | with_reducible refine State.takeSh_framed (Framed.sub h) ?_
    | with_reducible refine State.mend_framed (Framed.sub h) ?_
    | with_reducible refine State.changeProfile_framed (Framed.sub h) ?_
    | with_reducible refine State.checkCoord_framed (Framed.sub h) ?_
    | (fail_if_no_progress extract_lets +onlyGivenNames x
       refine cutL (p := Framed ps z x) ?_ ?_; subst x; rotate_left; intro hs; try clear_value x; rotate_right)
    | (fail_if_no_progress extract_lets +onlyGivenNames x
       first
       | (have hd : List _ := x; clear hd; clear_value x)
       | (have hd : Bool := x; clear hd; clear_value x)
       | (have hd : Nat := x; clear hd; clear_value x)
       | subst x)
    | fail_if_no_progress beta_reduce
    | with_reducible refine Framed.ite ?_ ?_
    | with_reducible refine Framed.foldl ?_ (fun _ hs _ => ?_)
    | split
    | ((with_reducible refine Framed.upd ?_ ?_); rotate_left; intro p hp; cases p <;> first | exact absurd (h (by decide)) hp | rfl | exact ⟨rfl, rfl⟩))

theorem State.dropPending_framed {ps : List Part} (h : [Part.sh, .badRegs, .dep] ⊆ ps) {z s : State}
    (hs : Framed ps z s) : Framed ps z (State.dropPending s) := by
  unfold State.dropPending
  repeat' (first
    | with_reducible assumption
    | with_reducible refine State.mend_framed (Framed.sub h) ?_
    | ((with_reducible refine Framed.upd ?_ ?_); rotate_left; intro p hp; cases p <;> first | exact absurd (h (by decide)) hp | rfl | exact ⟨rfl, rfl⟩))

theorem execDiscard_framed {ps : List Part} (h : [Part.sh, .badRegs, .dep] ⊆ ps) {z s : State}
    (hs : Framed ps z s) : OutFramed ps z (execDiscard s) := by
  unfold execDiscard
  repeat' (first
    | with_reducible assumption
    | with_reducible refine OutFramed.next ?_
    | with_reducible refine State.dropPending_framed (Framed.sub h) ?_
    | with_reducible refine Framed.ite ?_ ?_)

theorem State.haltNow_framed {ps : List Part} (h : [Part.dev, .regs, .queue, .sys, .tick, .plan, .dies, .chans, .kl, .dep, .out] ⊆ ps) {z s : State}
    (hs : Framed ps z s) : Framed ps z (State.haltNow s) := by
  unfold State.haltNow
  repeat' (first
    | with_reducible assumption
    | with_reducible refine State.stopWork_framed (Framed.sub h) ?_
    | with_reducible refine State.writeInvalid_framed (Framed.sub h) ?_
    | with_reducible refine State.leaveRunning_framed (Framed.sub h) ?_
    | (fail_if_no_progress extract_lets +onlyGivenNames x
       refine cutL (p := Framed ps z x) ?_ ?_; subst x; rotate_left; intro hs; try clear_value x; rotate_right)
    | (fail_if_no_progress extract_lets +onlyGivenNames x
       first
       | (have hd : List _ := x; clear hd; clear_value x)
       | (have hd : Bool := x; clear hd; clear_value x)
       | (have hd : Nat := x; clear hd; clear_value x)
       | subst x)
    | fail_if_no_progress beta_reduce
    | with_reducible refine Framed.ite ?_ ?_
    | split)

theorem execHalt_framed {ps : List Part} (h : [Part.dev, .now, .regs, .queue, .sys, .tick, .plan, .dies, .chans, .kl, .dep, .out] ⊆ ps) {z s : State} {p : HaltPulse}
    (hs : Framed ps z s) : OutFramed ps z (execHalt p s) := by
  unfold execHalt
  repeat' (first
    | with_reducible assumption
    | with_reducible refine OutFramed.next ?_
    | with_reducible refine State.when_framed ?_ (fun _ hs => ?_)
    | with_reducible refine State.advance_framed (Framed.sub h) ?_
    | with_reducible refine State.when_framed ?_ (fun _ hs => ?_)
    | with_reducible refine State.haltNow_framed (Framed.sub h) ?_
    | (fail_if_no_progress extract_lets +onlyGivenNames x
       refine cutL (p := Framed ps z x) ?_ ?_; subst x; rotate_left; intro hs; try clear_value x; rotate_right)
    | (fail_if_no_progress extract_lets +onlyGivenNames x
       first
       | (have hd : List _ := x; clear hd; clear_value x)
       | (have hd : Bool := x; clear hd; clear_value x)
       | (have hd : Nat := x; clear hd; clear_value x)
       | subst x)
    | fail_if_no_progress beta_reduce
    | ((with_reducible refine Framed.upd ?_ ?_); rotate_left; intro p hp; cases p <;> first | exact absurd (h (by decide)) hp | rfl | exact ⟨rfl, rfl⟩))

theorem execHaltNRise_framed {ps : List Part} (h : [Part.sys] ⊆ ps) {z s : State}
    (hs : Framed ps z s) : OutFramed ps z (execHaltNRise s) := by
  unfold execHaltNRise
  repeat' (first
    | with_reducible assumption
    | with_reducible refine OutFramed.next ?_
    | (fail_if_no_progress extract_lets +onlyGivenNames x
       first
       | (have hd : List _ := x; clear hd; clear_value x)
       | (have hd : Bool := x; clear hd; clear_value x)
       | (have hd : Nat := x; clear hd; clear_value x)
       | subst x)
    | ((with_reducible refine Framed.upd ?_ ?_); rotate_left; intro p hp; cases p <;> first | exact absurd (h (by decide)) hp | rfl | exact ⟨rfl, rfl⟩))

theorem State.moveRail_framed {ps : List Part} (h : [Part.free, .power, .out] ⊆ ps) {z s : State} {d : Die}
    (hs : Framed ps z s) : Framed ps z (State.moveRail s d) := by
  unfold State.moveRail
  repeat' (first
    | with_reducible assumption
    | with_reducible refine State.freeWord_framed (Framed.sub h) ?_
    | with_reducible exact State.freeWord_framed_eq (Framed.sub h) (by assumption) (by assumption)
    | with_reducible refine State.emit_framed (Framed.sub h) ?_
    | (fail_if_no_progress extract_lets +onlyGivenNames x
       refine cutL (p := Framed ps z x) ?_ ?_; subst x; rotate_left; intro hs; try clear_value x; rotate_right)
    | (fail_if_no_progress extract_lets +onlyGivenNames x
       first
       | (have hd : List _ := x; clear hd; clear_value x)
       | (have hd : Bool := x; clear hd; clear_value x)
       | (have hd : Nat := x; clear hd; clear_value x)
       | subst x)
    | fail_if_no_progress beta_reduce
    | with_reducible refine Framed.ite ?_ ?_
    | split
    | ((with_reducible refine Framed.upd ?_ ?_); rotate_left; intro p hp; cases p <;> first | exact absurd (h (by decide)) hp | rfl | exact ⟨rfl, rfl⟩)
    | dsimp only)

theorem State.lockDie_framed {ps : List Part} (h : [Part.free, .power, .out] ⊆ ps) {z s : State} {d : Die}
    (hs : Framed ps z s) : Framed ps z (State.lockDie s d) := by
  unfold State.lockDie
  repeat' (first
    | with_reducible assumption
    | with_reducible refine State.moveRail_framed (Framed.sub h) ?_
    | (fail_if_no_progress extract_lets +onlyGivenNames x
       refine cutL (p := Framed ps z x) ?_ ?_; subst x; rotate_left; intro hs; try clear_value x; rotate_right)
    | (fail_if_no_progress extract_lets +onlyGivenNames x
       first
       | (have hd : List _ := x; clear hd; clear_value x)
       | (have hd : Bool := x; clear hd; clear_value x)
       | (have hd : Nat := x; clear hd; clear_value x)
       | subst x)
    | fail_if_no_progress beta_reduce
    | with_reducible refine Framed.ite ?_ ?_
    | split
    | ((with_reducible refine Framed.upd ?_ ?_); rotate_left; intro p hp; cases p <;> first | exact absurd (h (by decide)) hp | rfl | exact ⟨rfl, rfl⟩)
    | dsimp only)

theorem State.unlockDie_framed {ps : List Part} (h : [Part.power] ⊆ ps) {z s : State} {d : Die}
    (hs : Framed ps z s) : Framed ps z (State.unlockDie s d) := by
  unfold State.unlockDie
  repeat' (first
    | with_reducible assumption
    | (fail_if_no_progress extract_lets +onlyGivenNames x
       refine cutL (p := Framed ps z x) ?_ ?_; subst x; rotate_left; intro hs; try clear_value x; rotate_right)
    | (fail_if_no_progress extract_lets +onlyGivenNames x
       first
       | (have hd : List _ := x; clear hd; clear_value x)
       | (have hd : Bool := x; clear hd; clear_value x)
       | (have hd : Nat := x; clear hd; clear_value x)
       | subst x)
    | fail_if_no_progress beta_reduce
    | with_reducible refine Framed.ite ?_ ?_
    | split
    | ((with_reducible refine Framed.upd ?_ ?_); rotate_left; intro p hp; cases p <;> first | exact absurd (h (by decide)) hp | rfl | exact ⟨rfl, rfl⟩)
    | dsimp only)

theorem State.selfRefresh_framed {ps : List Part} (h : [Part.regs] ⊆ ps) {z s : State} {d : Die} {on : Bool}
    (hs : Framed ps z s) : Framed ps z (State.selfRefresh s d on) := by
  unfold State.selfRefresh
  repeat' (first
    | with_reducible assumption
    | with_reducible refine State.setField_framed (Framed.sub h) ?_)

theorem State.changeEnds_framed {ps : List Part} (h : [Part.regs, .sys] ⊆ ps) {z s : State}
    (hs : Framed ps z s) : Framed ps z (State.changeEnds s) := by
  unfold State.changeEnds
  repeat' (first
    | with_reducible assumption
    | with_reducible refine State.setField_framed (Framed.sub h) ?_
    | with_reducible refine State.when_framed ?_ (fun _ hs => ?_)
    | (fail_if_no_progress extract_lets +onlyGivenNames x
       first
       | (have hd : List _ := x; clear hd; clear_value x)
       | (have hd : Bool := x; clear hd; clear_value x)
       | (have hd : Nat := x; clear hd; clear_value x)
       | subst x)
    | ((with_reducible refine Framed.upd ?_ ?_); rotate_left; intro p hp; cases p <;> first | exact absurd (h (by decide)) hp | rfl | exact ⟨rfl, rfl⟩))

theorem State.gatedDie_framed {ps : List Part} (h : [Part.regs, .sys] ⊆ ps) {z s : State} {d : Die}
    (hs : Framed ps z s) : Framed ps z (State.gatedDie s d) := by
  unfold State.gatedDie
  repeat' (first
    | with_reducible assumption
    | with_reducible refine State.when_framed ?_ (fun _ hs => ?_)
    | with_reducible refine State.when_framed ?_ (fun _ hs => ?_)
    | with_reducible refine State.changeEnds_framed (Framed.sub h) ?_
    | with_reducible refine State.selfRefresh_framed (Framed.sub h) ?_
    | (fail_if_no_progress extract_lets +onlyGivenNames x
       refine cutL (p := Framed ps z x) ?_ ?_; subst x; rotate_left; intro hs; try clear_value x; rotate_right)
    | (fail_if_no_progress extract_lets +onlyGivenNames x
       first
       | (have hd : List _ := x; clear hd; clear_value x)
       | (have hd : Bool := x; clear hd; clear_value x)
       | (have hd : Nat := x; clear hd; clear_value x)
       | subst x)
    | fail_if_no_progress beta_reduce
    | split
    | ((with_reducible refine Framed.upd ?_ ?_); rotate_left; intro p hp; cases p <;> first | exact absurd (h (by decide)) hp | rfl | exact ⟨rfl, rfl⟩)
    | dsimp only)

end Sys2Proof.Machine
end

