-- ==== Sys2Proof/Laws/FrameMarkers.lean ====
section
/-! SUPPORT. The parts of the state that the operations of Machine/Markers.lean can change. -/

set_option Elab.async false
set_option linter.unusedTactic false
set_option linter.unreachableTactic false
set_option linter.unusedVariables false
set_option linter.tactic.unusedName false

namespace Sys2Proof.Machine
open Sys2Proof

theorem State.sendMarks_framed {ps : List Part} (h : [Part.out] ⊆ ps) {z s : State} {k : Nat} {b : Nat} {t : Nat}
    (hs : Framed ps z s) : Framed ps z (State.sendMarks s k b t) := by
  unfold State.sendMarks
  repeat' (first
    | with_reducible assumption
    | with_reducible refine State.emit_framed (Framed.sub h) ?_
    | with_reducible refine Framed.foldl ?_ (fun _ hs _ => ?_))

theorem State.takeMark_framed {ps : List Part} (h : [Part.regs, .tick, .out] ⊆ ps) {z s : State} {b : Nat} {arrival : Nat}
    (hs : Framed ps z s) : Framed ps z (State.takeMark s b arrival) := by
  unfold State.takeMark
  repeat' (first
    | with_reducible assumption
    | with_reducible refine State.setReg_framed (Framed.sub h) ?_
    | with_reducible refine State.countGood_framed (Framed.sub h) ?_
    | with_reducible refine State.sendMarks_framed (Framed.sub h) ?_
    | with_reducible refine Framed.ite ?_ ?_
    | split
    | ((with_reducible refine Framed.upd ?_ ?_); rotate_left; intro p hp; cases p <;> first | exact absurd (h (by decide)) hp | rfl | exact ⟨rfl, rfl⟩))

theorem execMark_framed {ps : List Part} (h : [Part.now, .regs, .tick, .host, .out] ⊆ ps) {z s : State} {port : Nat} {tickLo : Nat} {remain : Nat} {arrival : Nat}
    (hs : Framed ps z s) : OutFramed ps z (execMark port tickLo remain arrival s) := by
  unfold execMark
  repeat' (first
    | with_reducible assumption
    | with_reducible refine OutFramed.next ?_
    | with_reducible exact OutFramed.fault
    | with_reducible refine State.when_framed ?_ (fun _ hs => ?_)
    | with_reducible refine State.when_framed ?_ (fun _ hs => ?_)
    | with_reducible refine State.advance_framed (Framed.sub h) ?_
    | with_reducible refine State.event_framed (Framed.sub h) ?_
    | with_reducible refine State.irq_framed (Framed.sub h) ?_
    | with_reducible refine State.countGood_framed (Framed.sub h) ?_
    | with_reducible refine State.sendMarks_framed (Framed.sub h) ?_
    | with_reducible refine State.takeMark_framed (Framed.sub h) ?_
    | (fail_if_no_progress extract_lets +onlyGivenNames x
       refine cutL (p := Framed ps z x) ?_ ?_; subst x; rotate_left; intro hs; try clear_value x; rotate_right)
    | (fail_if_no_progress extract_lets +onlyGivenNames x
       first
       | (have hd : List _ := x; clear hd; clear_value x)
       | (have hd : Bool := x; clear hd; clear_value x)
       | (have hd : Nat := x; clear hd; clear_value x)
       | subst x)
    | fail_if_no_progress beta_reduce
    | with_reducible refine Framed.ite ?_ ?_
    | split
    | ((with_reducible refine Framed.upd ?_ ?_); rotate_left; intro p hp; cases p <;> first | exact absurd (h (by decide)) hp | rfl | exact ⟨rfl, rfl⟩))

theorem execMarkerSend_framed {ps : List Part} (h : [Part.now, .out] ⊆ ps) {z s : State} {t : Nat}
    (hs : Framed ps z s) : OutFramed ps z (execMarkerSend t s) := by
  unfold execMarkerSend
  repeat' (first
    | with_reducible assumption
    | with_reducible refine OutFramed.next ?_
    | with_reducible refine State.advance_framed (Framed.sub h) ?_
    | with_reducible refine State.sendMarks_framed (Framed.sub h) ?_
    | with_reducible refine State.when_framed ?_ (fun _ hs => ?_))

theorem execTickTiming_framed {ps : List Part} (h : [Part.dev, .now, .regs, .queue, .sys, .tick, .plan, .dies, .chans, .host, .kl, .safe, .dep, .tally, .out] ⊆ ps) {z s : State} {t : Nat} {spacing : Nat}
    (hs : Framed ps z s) : OutFramed ps z (execTickTiming t spacing s) := by
  unfold execTickTiming
  repeat' (first
    | with_reducible assumption
    | with_reducible refine OutFramed.next ?_
    | with_reducible refine State.advance_framed (Framed.sub h) ?_
    | with_reducible refine State.enterSafe_framed (Framed.sub h) ?_
    | with_reducible refine State.when_framed ?_ (fun _ hs => ?_))

end Sys2Proof.Machine
end

