-- ==== Sys2Proof/Laws/FrameAccess.lean ====
section
/-! SUPPORT. The parts of the state that the operations of Machine/Access.lean can change. -/

set_option Elab.async false
set_option linter.unusedTactic false
set_option linter.unreachableTactic false
set_option linter.unusedVariables false
set_option linter.tactic.unusedName false

namespace Sys2Proof.Machine
open Sys2Proof

theorem State.recordAccess_framed {ps : List Part} (h : [Part.regs, .host, .out] ⊆ ps) {z s : State} {code : Nat} {write : Bool} {size : Nat} {be : Nat} {ofs : Nat}
    (hs : Framed ps z s) : Framed ps z (State.recordAccess s code write size be ofs) := by
  unfold State.recordAccess
  repeat' (first
    | with_reducible assumption
    | with_reducible refine State.setReg_framed (Framed.sub h) ?_
    | with_reducible refine State.event_framed (Framed.sub h) ?_
    | with_reducible refine State.count_framed (Framed.sub h) ?_
    | with_reducible refine State.irq_framed (Framed.sub h) ?_)

theorem State.write32_framed {ps : List Part} (h : [Part.regs, .host, .out] ⊆ ps) {z s : State} {o : Nat}
    {f : State → State} (hs : Framed ps z s) (hf : ∀ t, Framed ps z t → Framed ps z (f t)) :
    Framed ps z (s.write32 o f) := by
  unfold State.write32
  split
  · exact hs
  · dsimp only
    split
    · exact hf s hs
    · exact State.recordAccess_framed h hs

end Sys2Proof.Machine
end

