-- ==== Sys2Proof/Laws/FrameHaulage.lean ====
section
/-! SUPPORT. The parts of the state that the operations of Machine/Haulage.lean can change. -/

set_option Elab.async false
set_option linter.unusedTactic false
set_option linter.unreachableTactic false
set_option linter.unusedVariables false
set_option linter.tactic.unusedName false

namespace Sys2Proof.Machine
open Sys2Proof

theorem State.setChain_framed {ps : List Part} (h : [Part.dies, .chans] ⊆ ps) {z s : State} {ch : Nat} {h_ : Chain}
    (hs : Framed ps z s) : Framed ps z (State.setChain s ch h_) := by
  unfold State.setChain
  repeat' (first
    | with_reducible assumption
    | with_reducible refine State.mapChan_framed (Framed.sub h) ?_
    | with_reducible refine State.setDie_framed (Framed.sub h) ?_ ?_
    | ((with_reducible refine fun (hn : Part.slices ∉ ps) => ?_); first | exact absurd (h (by decide)) hn | exact Framed.die hs hn _ | exact Framed.die (by assumption) hn _ | exact (hs _ hn).1 | exact (hs _ hn).2 | simpa using Framed.die hs hn _)
    | (fail_if_no_progress extract_lets +onlyGivenNames x
       first
       | (have hd : List _ := x; clear hd; clear_value x)
       | (have hd : Bool := x; clear hd; clear_value x)
       | (have hd : Nat := x; clear hd; clear_value x)
       | subst x)
    | with_reducible refine Framed.ite ?_ ?_)

theorem State.putRecord_framed {ps : List Part} (h : [Part.regs, .host, .out] ⊆ ps) {z s : State} {ch : Nat} {status : Nat} {tag : Nat} {bytes : Nat} {index : Nat} {flags : Nat}
    (hs : Framed ps z s) : Framed ps z (State.putRecord s ch status tag bytes index flags) := by
  unfold State.putRecord
  repeat' (first
    | with_reducible assumption
    | with_reducible refine State.setReg_framed (Framed.sub h) ?_
    | with_reducible refine State.emit_framed (Framed.sub h) ?_
    | with_reducible refine State.irq_framed (Framed.sub h) ?_
    | (fail_if_no_progress extract_lets +onlyGivenNames x
       refine cutL (p := Framed ps z x) ?_ ?_; subst x; rotate_left; intro hs; try clear_value x; rotate_right)
    | (fail_if_no_progress extract_lets +onlyGivenNames x
       first
       | (have hd : List _ := x; clear hd; clear_value x)
       | (have hd : Bool := x; clear hd; clear_value x)
       | (have hd : Nat := x; clear hd; clear_value x)
       | subst x)
    | fail_if_no_progress beta_reduce)

theorem State.reachPause_framed {ps : List Part} (h : [Part.regs, .chans, .host, .out] ⊆ ps) {z s : State} {ch : Nat} {tag : Nat} {index : Nat}
    (hs : Framed ps z s) : Framed ps z (State.reachPause s ch tag index) := by
  unfold State.reachPause
  repeat' (first
    | with_reducible assumption
    | with_reducible refine State.putRecord_framed (Framed.sub h) ?_
    | with_reducible refine State.mapChan_framed (Framed.sub h) ?_
    | with_reducible refine State.event_framed (Framed.sub h) ?_
    | with_reducible refine Framed.ite ?_ ?_
    | split
    | ((with_reducible refine Framed.upd ?_ ?_); rotate_left; intro p hp; cases p <;> first | exact absurd (h (by decide)) hp | rfl | exact ⟨rfl, rfl⟩))

theorem State.dropChain_framed {ps : List Part} (h : [Part.regs, .world, .dies, .chans, .host, .kl, .out] ⊆ ps) {z s : State} {ch : Nat} {h_ : Chain} {status : Nat}
    (hs : Framed ps z s) : Framed ps z (State.dropChain s ch h_ status) := by
  unfold State.dropChain
  repeat' (first
    | with_reducible assumption
    | with_reducible refine State.when_framed ?_ (fun _ hs => ?_)
    | with_reducible refine State.setDie_framed (Framed.sub h) ?_ ?_
    | ((with_reducible refine fun (hn : Part.slices ∉ ps) => ?_); first | exact absurd (h (by decide)) hn | exact Framed.die hs hn _ | exact Framed.die (by assumption) hn _ | exact (hs _ hn).1 | exact (hs _ hn).2 | simpa using Framed.die hs hn _)
    | with_reducible refine State.dropOps_framed (Framed.sub h) ?_
    | with_reducible refine State.mapChan_framed (Framed.sub h) ?_
    | with_reducible refine State.setReg_framed (Framed.sub h) ?_
    | with_reducible refine State.when_framed ?_ (fun _ hs => ?_)
    | with_reducible refine State.mapStream_framed (Framed.sub h) ?_
    | with_reducible refine State.event_framed (Framed.sub h) ?_
    | with_reducible refine State.reachPause_framed (Framed.sub h) ?_
    | (fail_if_no_progress extract_lets +onlyGivenNames x
       refine cutL (p := Framed ps z x) ?_ ?_; subst x; rotate_left; intro hs; try clear_value x; rotate_right)
    | (fail_if_no_progress extract_lets +onlyGivenNames x
       first
       | (have hd : List _ := x; clear hd; clear_value x)
       | (have hd : Bool := x; clear hd; clear_value x)
       | (have hd : Nat := x; clear hd; clear_value x)
       | subst x)
    | fail_if_no_progress beta_reduce
    | with_reducible refine Framed.ite ?_ ?_
    | split
    | ((with_reducible refine Framed.upd ?_ ?_); rotate_left; intro p hp; cases p <;> first | exact absurd (h (by decide)) hp | rfl | exact ⟨rfl, rfl⟩)
    | dsimp only)

theorem State.afterRecords_framed {ps : List Part} (h : [Part.regs, .world, .dies, .chans, .host, .kl, .out] ⊆ ps) {z s : State} {ch : Nat} {h_ : Chain} {last : Nat × Nat}
    (hs : Framed ps z s) : Framed ps z (State.afterRecords s ch h_ last) := by
  unfold State.afterRecords
  repeat' (first
    | with_reducible assumption
    | with_reducible refine State.emit_framed (Framed.sub h) ?_
    | with_reducible refine State.when_framed ?_ (fun _ hs => ?_)
    | with_reducible refine State.mapChan_framed (Framed.sub h) ?_
    | with_reducible refine State.setChain_framed (Framed.sub h) ?_
    | with_reducible refine State.dropChain_framed (Framed.sub h) ?_
    | (fail_if_no_progress extract_lets +onlyGivenNames x
       refine cutL (p := Framed ps z x) ?_ ?_; subst x; rotate_left; intro hs; try clear_value x; rotate_right)
    | (fail_if_no_progress extract_lets +onlyGivenNames x
       first
       | (have hd : List _ := x; clear hd; clear_value x)
       | (have hd : Bool := x; clear hd; clear_value x)
       | (have hd : Nat := x; clear hd; clear_value x)
       | subst x)
    | with_reducible refine Framed.ite ?_ ?_
    | with_reducible assumption)

theorem State.writeRecords_framed {ps : List Part} (h : [Part.regs, .world, .dies, .chans, .host, .kl, .out] ⊆ ps) {z s : State} {ch : Nat} {h_ : Chain} {last : Nat × Nat} {q0 : List (Nat × Nat)}
    (hs : Framed ps z s) : Framed ps z (State.writeRecords s ch h_ last q0) := by
  induction q0 generalizing s ch h_ last with
  | nil =>
    unfold State.writeRecords
    repeat' (first
      | with_reducible assumption
      | with_reducible refine State.event_framed (Framed.sub h) ?_
      | with_reducible refine State.setChain_framed (Framed.sub h) ?_
      | with_reducible refine State.putRecord_framed (Framed.sub h) ?_
      | with_reducible refine State.afterRecords_framed (Framed.sub h) ?_
      | (fail_if_no_progress extract_lets +onlyGivenNames x
         refine cutL (p := Framed ps z x) ?_ ?_; subst x; rotate_left; intro hs; try clear_value x; rotate_right)
      | (fail_if_no_progress extract_lets +onlyGivenNames x
         first
         | (have hd : List _ := x; clear hd; clear_value x)
         | (have hd : Bool := x; clear hd; clear_value x)
         | (have hd : Nat := x; clear hd; clear_value x)
         | subst x)
      | fail_if_no_progress beta_reduce
      | with_reducible refine Framed.ite ?_ ?_
      | split
      | ((with_reducible refine Framed.upd ?_ ?_); rotate_left; intro p hp; cases p <;> first | exact absurd (h (by decide)) hp | rfl | exact ⟨rfl, rfl⟩)
      | dsimp only)
  | cons e l ih =>
    unfold State.writeRecords
    repeat' (first
      | with_reducible assumption
      | with_reducible refine ih ?_
      | with_reducible refine State.event_framed (Framed.sub h) ?_
      | with_reducible refine State.setChain_framed (Framed.sub h) ?_
      | with_reducible refine State.putRecord_framed (Framed.sub h) ?_
      | with_reducible refine State.afterRecords_framed (Framed.sub h) ?_
      | (fail_if_no_progress extract_lets +onlyGivenNames x
         refine cutL (p := Framed ps z x) ?_ ?_; subst x; rotate_left; intro hs; try clear_value x; rotate_right)
      | (fail_if_no_progress extract_lets +onlyGivenNames x
         first
         | (have hd : List _ := x; clear hd; clear_value x)
         | (have hd : Bool := x; clear hd; clear_value x)
         | (have hd : Nat := x; clear hd; clear_value x)
         | subst x)
      | fail_if_no_progress beta_reduce
      | with_reducible refine Framed.ite ?_ ?_
      | split
      | ((with_reducible refine Framed.upd ?_ ?_); rotate_left; intro p hp; cases p <;> first | exact absurd (h (by decide)) hp | rfl | exact ⟨rfl, rfl⟩)
      | dsimp only)

theorem State.endChain_framed {ps : List Part} (h : [Part.regs, .world, .dies, .chans, .host, .kl, .out] ⊆ ps) {z s : State} {ch : Nat} {h_ : Chain} {status : Nat}
    (hs : Framed ps z s) : Framed ps z (State.endChain s ch h_ status) := by
  unfold State.endChain
  repeat' (first
    | with_reducible assumption
    | with_reducible refine State.dropChain_framed (Framed.sub h) ?_
    | with_reducible refine State.writeRecords_framed (Framed.sub h) ?_
    | with_reducible refine Framed.ite ?_ ?_)

theorem State.finishDesc_framed {ps : List Part} (h : [Part.regs, .world, .dies, .chans, .host, .kl, .out] ⊆ ps) {z s : State} {ch : Nat} {h_ : Chain}
    (hs : Framed ps z s) : Framed ps z (State.finishDesc s ch h_) := by
  unfold State.finishDesc
  repeat' (first
    | with_reducible assumption
    | with_reducible refine State.dropChain_framed (Framed.sub h) ?_
    | with_reducible refine State.afterRecords_framed (Framed.sub h) ?_
    | with_reducible refine State.writeRecords_framed (Framed.sub h) ?_
    | (fail_if_no_progress extract_lets +onlyGivenNames x
       refine cutL (p := Framed ps z x) ?_ ?_; subst x; rotate_left; intro hs; try clear_value x; rotate_right)
    | (fail_if_no_progress extract_lets +onlyGivenNames x
       first
       | (have hd : List _ := x; clear hd; clear_value x)
       | (have hd : Bool := x; clear hd; clear_value x)
       | (have hd : Nat := x; clear hd; clear_value x)
       | subst x)
    | fail_if_no_progress beta_reduce
    | with_reducible refine Framed.ite ?_ ?_
    | split
    | ((with_reducible refine Framed.upd ?_ ?_); rotate_left; intro p hp; cases p <;> first | exact absurd (h (by decide)) hp | rfl | exact ⟨rfl, rfl⟩))

theorem State.sendHost_framed {ps : List Part} (h : [Part.out] ⊆ ps) {z s : State} {a : Nat} {bs : List Byte}
    (hs : Framed ps z s) : Framed ps z (State.sendHost s a bs) := by
  unfold State.sendHost
  repeat' (first
    | with_reducible assumption
    | with_reducible refine State.emit_framed (Framed.sub h) ?_
    | with_reducible refine Framed.foldl ?_ (fun _ hs _ => ?_))

theorem State.askHost_framed {ps : List Part} (h : [Part.out] ⊆ ps) {z s : State} {a : Nat} {n : Nat}
    (hs : Framed ps z s) : Framed ps z (State.askHost s a n) := by
  unfold State.askHost
  repeat' (first
    | with_reducible assumption
    | with_reducible refine State.emit_framed (Framed.sub h) ?_
    | with_reducible refine Framed.foldl ?_ (fun _ hs _ => ?_))

theorem State.writeHost_framed {ps : List Part} (h : [Part.out] ⊆ ps) {z s : State} {bs : List Byte}
    {q0 : List (Nat × Nat)} (hs : Framed ps z s) : Framed ps z (s.writeHost bs q0) := by
  induction q0 generalizing s bs with
  | nil => exact hs
  | cons e l ih => exact ih (State.sendHost_framed (Framed.sub h) hs)

theorem State.writeDevice_framed {ps : List Part} (h : [Part.regs, .mem, .slices, .kl, .out] ⊆ ps) {z s : State} {ch : Nat}
    {bs : List Byte} {q0 : List (Nat × Nat × Nat)} {q1 : Nat} (hs : Framed ps z s) :
    Framed ps z (s.writeDevice ch bs q0 q1).1 := by
  induction q0 generalizing s q1 with
  | nil => exact hs
  | cons e l ih =>
    obtain ⟨a, n, o⟩ := e
    rw [State.writeDevice]
    dsimp only
    split
    · have hp : Framed ps z (if s.crossDown (ixFrom ch) (localOf a) n then (s, 6)
          else s.putHere (localOf a) ((bs.drop o).take n)).1 := by
        split
        · exact hs
        · exact State.putHere_framed (Framed.sub h) hs
      generalize (if s.crossDown (ixFrom ch) (localOf a) n then (s, 6)
          else s.putHere (localOf a) ((bs.drop o).take n)) = p at hp ⊢
      obtain ⟨t, st⟩ := p
      dsimp only at hp ⊢
      split
      · exact ih hp
      · exact hp
    · have hp := State.issueRemote_framed (Framed.sub h) (op := 1) (node := nodeOf a) (addr := a)
        (data := (bs.drop o).take n) (who := .channel ch o) hs
      generalize s.issueRemote 1 (nodeOf a) a ((bs.drop o).take n) (.channel ch o) = p at hp ⊢
      obtain ⟨t, st⟩ := p
      cases st
      · exact ih hp
      · exact hp

theorem State.writeDevice_framed_eq {ps : List Part} (h : [Part.regs, .mem, .slices, .kl, .out] ⊆ ps) {z s tt : State}
    {pr : Nat × Nat} {ch : Nat} {bs : List Byte} {q0 : List (Nat × Nat × Nat)} {q1 : Nat}
    (he : s.writeDevice ch bs q0 q1 = (tt, pr)) (hs : Framed ps z s) : Framed ps z tt := by
  have := State.writeDevice_framed (ch := ch) (bs := bs) (q0 := q0) (q1 := q1) h hs
  rw [he] at this; exact this

theorem State.readDevice_framed {ps : List Part} (h : [Part.regs, .plan, .dies, .host, .kl, .tally, .out] ⊆ ps) {z s : State} {ch fault : Nat}
    {q0 : List (Nat × Nat × Nat)} {q1 : List (Nat × List Byte)} {q2 : Nat} (hs : Framed ps z s) :
    Framed ps z (s.readDevice ch fault q0 q1 q2).1 := by
  induction q0 generalizing s fault q1 q2 with
  | nil => exact hs
  | cons e l ih =>
    obtain ⟨a, n, o⟩ := e
    rw [State.readDevice]
    split
    · have hp : Framed ps z (if s.crossDown (ixFrom ch) (localOf a) n then (s, 6, [])
          else s.getFaulty (localOf a) n fault).1 := by
        split
        · exact hs
        · exact State.getFaulty_framed (Framed.sub h) hs
      generalize (if s.crossDown (ixFrom ch) (localOf a) n then (s, 6, []) else s.getFaulty (localOf a) n fault) = p at hp ⊢
      obtain ⟨t, st, b⟩ := p
      dsimp only at hp ⊢
      have hw : Framed ps z (t.when (decide (140 ≤ ch ∧ 4 ≤ fault)) fun s => s.event (rIhaulEvents (ixDie ch)) 1) :=
        State.when_framed hp (fun _ hs => State.event_framed (Framed.sub h) hs)
      split
      · exact ih hw
      · exact hw
    · have hp := State.issueSized_framed (Framed.sub h) (op := 2) (node := nodeOf a) (addr := a)
        (len := n) (data := []) (who := .channel ch o) hs
      generalize s.issueSized 2 (nodeOf a) a n [] (.channel ch o) = p at hp ⊢
      obtain ⟨t, st⟩ := p
      cases st
      · exact ih hp
      · exact hp

theorem State.readDevice_framed_eq {ps : List Part} (h : [Part.regs, .plan, .dies, .host, .kl, .tally, .out] ⊆ ps) {z s tt : State}
    {pr : Nat × List (Nat × List Byte) × Nat} {ch fault : Nat} {q0 : List (Nat × Nat × Nat)} {q1 : List (Nat × List Byte)}
    {q2 : Nat} (he : s.readDevice ch fault q0 q1 q2 = (tt, pr)) (hs : Framed ps z s) : Framed ps z tt := by
  have := State.readDevice_framed (ch := ch) (fault := fault) (q0 := q0) (q1 := q1) (q2 := q2) h hs
  rw [he] at this; exact this

theorem State.moveOut_framed {ps : List Part} (h : [Part.regs, .mem, .slices, .world, .dies, .chans, .host, .kl, .out] ⊆ ps) {z s : State} {ch : Nat} {h_ : Chain} {stream : List Byte}
    (hs : Framed ps z s) : Framed ps z (State.moveOut s ch h_ stream) := by
  unfold State.moveOut
  repeat' (first
    | with_reducible assumption
    | with_reducible refine State.writeHost_framed (Framed.sub h) ?_
    | with_reducible refine State.emit_framed (Framed.sub h) ?_
    | with_reducible refine State.setChain_framed (Framed.sub h) ?_
    | with_reducible refine State.writeDevice_framed (Framed.sub h) ?_
    | with_reducible exact State.writeDevice_framed_eq (Framed.sub h) (by assumption) (by assumption)
    | with_reducible refine State.endChain_framed (Framed.sub h) ?_
    | with_reducible refine State.finishDesc_framed (Framed.sub h) ?_
    | (fail_if_no_progress extract_lets +onlyGivenNames x
       refine cutL (p := Framed ps z x) ?_ ?_; subst x; rotate_left; intro hs; try clear_value x; rotate_right)
    | (fail_if_no_progress extract_lets +onlyGivenNames x
       first
       | (have hd : List _ := x; clear hd; clear_value x)
       | (have hd : Bool := x; clear hd; clear_value x)
       | (have hd : Nat := x; clear hd; clear_value x)
       | subst x)
    | fail_if_no_progress beta_reduce
    | with_reducible refine Framed.ite ?_ ?_
    | split
    | dsimp only)

theorem State.chanResponse_framed {ps : List Part} (h : [Part.regs, .mem, .slices, .world, .dies, .chans, .host, .kl, .out] ⊆ ps) {z s : State} {ch : Nat} {ofs : Nat} {status : Nat} {data : List Byte}
    (hs : Framed ps z s) : Framed ps z (State.chanResponse s ch ofs status data) := by
  unfold State.chanResponse
  repeat' (first
    | with_reducible assumption
    | with_reducible refine State.setChain_framed (Framed.sub h) ?_
    | with_reducible refine State.endChain_framed (Framed.sub h) ?_
    | with_reducible refine State.moveOut_framed (Framed.sub h) ?_
    | with_reducible refine State.finishDesc_framed (Framed.sub h) ?_
    | (fail_if_no_progress extract_lets +onlyGivenNames x
       refine cutL (p := Framed ps z x) ?_ ?_; subst x; rotate_left; intro hs; try clear_value x; rotate_right)
    | (fail_if_no_progress extract_lets +onlyGivenNames x
       first
       | (have hd : List _ := x; clear hd; clear_value x)
       | (have hd : Bool := x; clear hd; clear_value x)
       | (have hd : Nat := x; clear hd; clear_value x)
       | subst x)
    | fail_if_no_progress beta_reduce
    | with_reducible refine Framed.ite ?_ ?_
    | split
    | dsimp only)

theorem State.ringDoorbell_framed {ps : List Part} (h : [Part.regs, .chans] ⊆ ps) {z s : State} {ch : Nat} {lo : Word}
    (hs : Framed ps z s) : Framed ps z (State.ringDoorbell s ch lo) := by
  unfold State.ringDoorbell
  repeat' (first
    | with_reducible assumption
    | with_reducible refine State.event_framed (Framed.sub h) ?_
    | with_reducible refine State.mapChan_framed (Framed.sub h) ?_
    | (fail_if_no_progress extract_lets +onlyGivenNames x
       first
       | (have hd : List _ := x; clear hd; clear_value x)
       | (have hd : Bool := x; clear hd; clear_value x)
       | (have hd : Nat := x; clear hd; clear_value x)
       | subst x)
    | with_reducible refine Framed.ite ?_ ?_)

theorem execDoorbell_framed {ps : List Part} (h : [Part.regs, .chans, .host, .out] ⊆ ps) {z s : State} {ch : Nat} {lo : Word}
    (hs : Framed ps z s) : OutFramed ps z (execDoorbell ch lo s) := by
  unfold execDoorbell
  repeat' (first
    | with_reducible assumption
    | with_reducible refine OutFramed.named ?_
    | with_reducible refine State.write32_framed (Framed.sub h) ?_ (fun _ hs => ?_)
    | with_reducible refine State.ringDoorbell_framed (Framed.sub h) ?_)

theorem execChainStart_framed {ps : List Part} (h : [Part.regs, .world, .chans, .out] ⊆ ps) {z s : State} {ch : Nat}
    (hs : Framed ps z s) : OutFramed ps z (execChainStart ch s) := by
  unfold execChainStart
  repeat' (first
    | with_reducible assumption
    | with_reducible refine OutFramed.named ?_
    | with_reducible refine State.when_framed ?_ (fun _ hs => ?_)
    | with_reducible refine State.when_framed ?_ (fun _ hs => ?_)
    | with_reducible refine State.mapChan_framed (Framed.sub h) ?_
    | with_reducible refine State.setReg_framed (Framed.sub h) ?_
    | with_reducible refine State.mapStream_framed (Framed.sub h) ?_
    | with_reducible refine State.emit_framed (Framed.sub h) ?_
    | (fail_if_no_progress extract_lets +onlyGivenNames x
       refine cutL (p := Framed ps z x) ?_ ?_; subst x; rotate_left; intro hs; try clear_value x; rotate_right)
    | (fail_if_no_progress extract_lets +onlyGivenNames x
       first
       | (have hd : List _ := x; clear hd; clear_value x)
       | (have hd : Bool := x; clear hd; clear_value x)
       | (have hd : Nat := x; clear hd; clear_value x)
       | subst x)
    | fail_if_no_progress beta_reduce
    | split
    | dsimp only)

theorem State.loseLink_framed {ps : List Part} (h : [Part.host] ⊆ ps) {z s : State} {ch : Nat}
    (hs : Framed ps z s) : Framed ps z (State.loseLink s ch) := by
  unfold State.loseLink
  repeat' (first
    | with_reducible assumption
    | ((with_reducible refine Framed.upd ?_ ?_); rotate_left; intro p hp; cases p <;> first | exact absurd (h (by decide)) hp | rfl | exact ⟨rfl, rfl⟩))

theorem State.winLink_framed {ps : List Part} (h : [Part.host] ⊆ ps) {z s : State} {ch : Nat}
    (hs : Framed ps z s) : Framed ps z (State.winLink s ch) := by
  unfold State.winLink
  repeat' (first
    | with_reducible assumption
    | (fail_if_no_progress extract_lets +onlyGivenNames x
       refine cutL (p := Framed ps z x) ?_ ?_; subst x; rotate_left; intro hs; try clear_value x; rotate_right)
    | (fail_if_no_progress extract_lets +onlyGivenNames x
       first
       | (have hd : List _ := x; clear hd; clear_value x)
       | (have hd : Bool := x; clear hd; clear_value x)
       | (have hd : Nat := x; clear hd; clear_value x)
       | subst x)
    | fail_if_no_progress beta_reduce
    | ((with_reducible refine Framed.upd ?_ ?_); rotate_left; intro p hp; cases p <;> first | exact absurd (h (by decide)) hp | rfl | exact ⟨rfl, rfl⟩))

theorem State.startDesc_framed {ps : List Part} (h : [Part.regs, .dies, .chans, .host, .out] ⊆ ps) {z s : State} {ch : Nat} {h_ : Chain}
    (hs : Framed ps z s) : Framed ps z (State.startDesc s ch h_) := by
  unfold State.startDesc
  repeat' (first
    | with_reducible assumption
    | with_reducible refine State.when_framed ?_ (fun _ hs => ?_)
    | with_reducible refine State.setChain_framed (Framed.sub h) ?_
    | with_reducible refine State.when_framed ?_ (fun _ hs => ?_)
    | with_reducible refine State.setField_framed (Framed.sub h) ?_
    | with_reducible refine State.askHost_framed (Framed.sub h) ?_
    | (fail_if_no_progress extract_lets +onlyGivenNames x
       refine cutL (p := Framed ps z x) ?_ ?_; subst x; rotate_left; intro hs; try clear_value x; rotate_right)
    | (fail_if_no_progress extract_lets +onlyGivenNames x
       first
       | (have hd : List _ := x; clear hd; clear_value x)
       | (have hd : Bool := x; clear hd; clear_value x)
       | (have hd : Nat := x; clear hd; clear_value x)
       | subst x)
    | fail_if_no_progress beta_reduce
    | with_reducible refine Framed.ite ?_ ?_
    | with_reducible refine Framed.foldl ?_ (fun _ hs _ => ?_)
    | split
    | ((with_reducible refine Framed.upd ?_ ?_); rotate_left; intro p hp; cases p <;> first | exact absurd (h (by decide)) hp | rfl | exact ⟨rfl, rfl⟩))

theorem State.askList_framed {ps : List Part} (h : [Part.out] ⊆ ps) {z s : State} {ch : Nat} {h_ : Chain}
    (hs : Framed ps z s) : Framed ps z (State.askList s ch h_) := by
  unfold State.askList
  repeat' (first
    | with_reducible assumption
    | with_reducible refine State.when_framed ?_ (fun _ hs => ?_)
    | with_reducible refine State.when_framed ?_ (fun _ hs => ?_)
    | with_reducible refine State.askHost_framed (Framed.sub h) ?_
    | with_reducible refine Framed.ite ?_ ?_
    | split
    | dsimp only)

theorem State.judgeDesc_framed {ps : List Part} (h : [Part.regs, .world, .dies, .chans, .host, .kl, .out] ⊆ ps) {z s : State} {ch : Nat} {h_ : Chain} {list : Nat}
    (hs : Framed ps z s) : Framed ps z (State.judgeDesc s ch h_ list) := by
  unfold State.judgeDesc
  repeat' (first
    | with_reducible assumption
    | with_reducible refine State.endChain_framed (Framed.sub h) ?_
    | with_reducible refine State.setChain_framed (Framed.sub h) ?_
    | with_reducible refine State.startDesc_framed (Framed.sub h) ?_
    | with_reducible refine State.loseLink_framed (Framed.sub h) ?_
    | with_reducible refine State.winLink_framed (Framed.sub h) ?_
    | (fail_if_no_progress extract_lets +onlyGivenNames x
       refine cutL (p := Framed ps z x) ?_ ?_; subst x; rotate_left; intro hs; try clear_value x; rotate_right)
    | (fail_if_no_progress extract_lets +onlyGivenNames x
       first
       | (have hd : List _ := x; clear hd; clear_value x)
       | (have hd : Bool := x; clear hd; clear_value x)
       | (have hd : Nat := x; clear hd; clear_value x)
       | subst x)
    | fail_if_no_progress beta_reduce
    | with_reducible refine Framed.ite ?_ ?_
    | split
    | ((with_reducible refine Framed.upd ?_ ?_); rotate_left; intro p hp; cases p <;> first | exact absurd (h (by decide)) hp | rfl | exact ⟨rfl, rfl⟩))

theorem State.judgeInternal_framed {ps : List Part} (h : [Part.regs, .world, .dies, .chans, .host, .kl, .out] ⊆ ps) {z s : State} {ch : Nat} {h_ : Chain}
    (hs : Framed ps z s) : Framed ps z (State.judgeInternal s ch h_) := by
  unfold State.judgeInternal
  repeat' (first
    | with_reducible assumption
    | with_reducible refine State.afterFront_framed (Framed.sub h) ?_ (fun _ hs => ?_)
    | with_reducible refine State.judgeDesc_framed (Framed.sub h) ?_
    | (fail_if_no_progress extract_lets +onlyGivenNames x
       refine cutL (p := Framed ps z x) ?_ ?_; subst x; rotate_left; intro hs; try clear_value x; rotate_right)
    | (fail_if_no_progress extract_lets +onlyGivenNames x
       first
       | (have hd : List _ := x; clear hd; clear_value x)
       | (have hd : Bool := x; clear hd; clear_value x)
       | (have hd : Nat := x; clear hd; clear_value x)
       | subst x)
    | fail_if_no_progress beta_reduce
    | split
    | ((with_reducible refine Framed.upd ?_ ?_); rotate_left; intro p hp; cases p <;> first | exact absurd (h (by decide)) hp | rfl | exact ⟨rfl, rfl⟩)
    | dsimp only)

theorem State.fetchInternal_framed {ps : List Part} (h : [Part.regs, .world, .dies, .chans, .host, .kl, .out] ⊆ ps) {z s : State} {ch : Nat} {h_ : Chain}
    (hs : Framed ps z s) : Framed ps z (State.fetchInternal s ch h_) := by
  unfold State.fetchInternal
  repeat' (first
    | with_reducible assumption
    | with_reducible refine State.judgeInternal_framed (Framed.sub h) ?_
    | with_reducible refine State.afterFront_framed (Framed.sub h) ?_ (fun _ hs => ?_)
    | with_reducible refine State.getHere_framed (Framed.sub h) ?_
    | with_reducible exact State.getHere_framed_eq (Framed.sub h) (by assumption) (by assumption)
    | with_reducible refine State.endChain_framed (Framed.sub h) ?_
    | (fail_if_no_progress extract_lets +onlyGivenNames x
       refine cutL (p := Framed ps z x) ?_ ?_; subst x; rotate_left; intro hs; try clear_value x; rotate_right)
    | (fail_if_no_progress extract_lets +onlyGivenNames x
       first
       | (have hd : List _ := x; clear hd; clear_value x)
       | (have hd : Bool := x; clear hd; clear_value x)
       | (have hd : Nat := x; clear hd; clear_value x)
       | subst x)
    | fail_if_no_progress beta_reduce
    | with_reducible refine Framed.ite ?_ ?_
    | split
    | ((with_reducible refine Framed.upd ?_ ?_); rotate_left; intro p hp; cases p <;> first | exact absurd (h (by decide)) hp | rfl | exact ⟨rfl, rfl⟩)
    | dsimp only)

theorem execDescriptorStart_framed {ps : List Part} (h : [Part.regs, .world, .dies, .chans, .host, .kl, .out] ⊆ ps) {z s : State} {ch : Nat} {desc : List Byte} {sg : List Byte}
    (hs : Framed ps z s) : OutFramed ps z (execDescriptorStart ch desc sg s) := by
  unfold execDescriptorStart
  repeat' (first
    | with_reducible assumption
    | with_reducible refine OutFramed.named ?_
    | with_reducible refine State.when_framed ?_ (fun _ hs => ?_)
    | with_reducible refine State.when_framed ?_ (fun _ hs => ?_)
    | with_reducible refine State.loseLink_framed (Framed.sub h) ?_
    | with_reducible refine State.winLink_framed (Framed.sub h) ?_
    | with_reducible refine State.startDesc_framed (Framed.sub h) ?_
    | with_reducible refine State.askList_framed (Framed.sub h) ?_
    | with_reducible refine State.judgeDesc_framed (Framed.sub h) ?_
    | with_reducible refine State.fetchInternal_framed (Framed.sub h) ?_
    | (fail_if_no_progress extract_lets +onlyGivenNames x
       refine cutL (p := Framed ps z x) ?_ ?_; subst x; rotate_left; intro hs; try clear_value x; rotate_right)
    | (fail_if_no_progress extract_lets +onlyGivenNames x
       first
       | (have hd : List _ := x; clear hd; clear_value x)
       | (have hd : Bool := x; clear hd; clear_value x)
       | (have hd : Nat := x; clear hd; clear_value x)
       | subst x)
    | fail_if_no_progress beta_reduce
    | with_reducible refine Framed.ite ?_ ?_
    | split
    | dsimp only)

theorem State.takeData_framed {ps : List Part} (h : [Part.regs, .world, .dies, .chans, .host, .kl, .out] ⊆ ps) {z s : State} {ch : Nat} {h_ : Chain} {data : List Byte}
    (hs : Framed ps z s) : Framed ps z (State.takeData s ch h_ data) := by
  unfold State.takeData
  repeat' (first
    | with_reducible assumption
    | with_reducible refine State.mapStream_framed (Framed.sub h) ?_
    | with_reducible refine State.finishDesc_framed (Framed.sub h) ?_
    | with_reducible refine State.event_framed (Framed.sub h) ?_
    | (fail_if_no_progress extract_lets +onlyGivenNames x
       refine cutL (p := Framed ps z x) ?_ ?_; subst x; rotate_left; intro hs; try clear_value x; rotate_right)
    | (fail_if_no_progress extract_lets +onlyGivenNames x
       first
       | (have hd : List _ := x; clear hd; clear_value x)
       | (have hd : Bool := x; clear hd; clear_value x)
       | (have hd : Nat := x; clear hd; clear_value x)
       | subst x)
    | fail_if_no_progress beta_reduce
    | with_reducible refine Framed.ite ?_ ?_
    | split
    | ((with_reducible refine Framed.upd ?_ ?_); rotate_left; intro p hp; cases p <;> first | exact absurd (h (by decide)) hp | rfl | exact ⟨rfl, rfl⟩)
    | dsimp only)

theorem execDescriptorComplete_framed {ps : List Part} (h : [Part.now, .regs, .mem, .slices, .plan, .world, .dies, .chans, .host, .kl, .tally, .out] ⊆ ps) {z s : State} {ch : Nat} {x_ : Moved}
    (hs : Framed ps z s) : OutFramed ps z (execDescriptorComplete ch x_ s) := by
  unfold execDescriptorComplete
  repeat' (first
    | with_reducible assumption
    | with_reducible refine OutFramed.named ?_
    | with_reducible exact OutFramed.fault
    | with_reducible refine State.when_framed ?_ (fun _ hs => ?_)
    | with_reducible refine State.when_framed ?_ (fun _ hs => ?_)
    | with_reducible refine State.advance_framed (Framed.sub h) ?_
    | with_reducible refine State.contendAll_framed (Framed.sub h) ?_
    | with_reducible refine State.afterFront_framed (Framed.sub h) ?_ (fun _ hs => ?_)
    | with_reducible refine State.takeData_framed (Framed.sub h) ?_
    | with_reducible refine State.readDevice_framed (Framed.sub h) ?_
    | with_reducible exact State.readDevice_framed_eq (Framed.sub h) (by assumption) (by assumption)
    | with_reducible refine State.endChain_framed (Framed.sub h) ?_
    | with_reducible refine State.moveOut_framed (Framed.sub h) ?_
    | with_reducible refine State.setChain_framed (Framed.sub h) ?_
    | (fail_if_no_progress extract_lets +onlyGivenNames x
       refine cutL (p := Framed ps z x) ?_ ?_; subst x; rotate_left; intro hs; try clear_value x; rotate_right)
    | (fail_if_no_progress extract_lets +onlyGivenNames x
       first
       | (have hd : List _ := x; clear hd; clear_value x)
       | (have hd : Bool := x; clear hd; clear_value x)
       | (have hd : Nat := x; clear hd; clear_value x)
       | subst x)
    | fail_if_no_progress beta_reduce
    | with_reducible refine Framed.ite ?_ ?_
    | split
    | dsimp only)

theorem State.dropRecord_framed {ps : List Part} (h : [Part.regs] ⊆ ps) {z s : State} {ch : Nat} {f : Feed}
    (hs : Framed ps z s) : Framed ps z (State.dropRecord s ch f) := by
  unfold State.dropRecord
  repeat' (first
    | with_reducible assumption
    | with_reducible refine State.event_framed (Framed.sub h) ?_
    | with_reducible refine State.count_framed (Framed.sub h) ?_
    | with_reducible refine State.when_framed ?_ (fun _ hs => ?_))

theorem State.handRecord_framed {ps : List Part} (h : [Part.regs, .plan, .chans, .out] ⊆ ps) {z s : State} {ch : Nat} {f : Feed}
    (hs : Framed ps z s) : Framed ps z (State.handRecord s ch f) := by
  unfold State.handRecord
  repeat' (first
    | with_reducible assumption
    | with_reducible refine State.when_framed ?_ (fun _ hs => ?_)
    | with_reducible refine State.when_framed ?_ (fun _ hs => ?_)
    | with_reducible refine State.sendHost_framed (Framed.sub h) ?_
    | with_reducible refine State.emit_framed (Framed.sub h) ?_
    | with_reducible refine State.setReg_framed (Framed.sub h) ?_
    | with_reducible refine State.mapChan_framed (Framed.sub h) ?_
    | with_reducible refine State.dropRecord_framed (Framed.sub h) ?_
    | (fail_if_no_progress extract_lets +onlyGivenNames x
       refine cutL (p := Framed ps z x) ?_ ?_; subst x; rotate_left; intro hs; try clear_value x; rotate_right)
    | (fail_if_no_progress extract_lets +onlyGivenNames x
       first
       | (have hd : List _ := x; clear hd; clear_value x)
       | (have hd : Bool := x; clear hd; clear_value x)
       | (have hd : Nat := x; clear hd; clear_value x)
       | subst x)
    | fail_if_no_progress beta_reduce
    | with_reducible refine Framed.ite ?_ ?_
    | split
    | ((with_reducible refine Framed.upd ?_ ?_); rotate_left; intro p hp; cases p <;> first | exact absurd (h (by decide)) hp | rfl | exact ⟨rfl, rfl⟩))

theorem execRingRecord_framed {ps : List Part} (h : [Part.regs, .plan, .chans, .host, .out] ⊆ ps) {z s : State} {ch : Nat}
    (hs : Framed ps z s) : OutFramed ps z (execRingRecord ch s) := by
  unfold execRingRecord
  repeat' (first
    | with_reducible assumption
    | with_reducible refine OutFramed.named ?_
    | with_reducible refine State.loseLink_framed (Framed.sub h) ?_
    | with_reducible refine State.winLink_framed (Framed.sub h) ?_
    | with_reducible refine State.mapChan_framed (Framed.sub h) ?_
    | with_reducible refine State.handRecord_framed (Framed.sub h) ?_
    | (fail_if_no_progress extract_lets +onlyGivenNames x
       refine cutL (p := Framed ps z x) ?_ ?_; subst x; rotate_left; intro hs; try clear_value x; rotate_right)
    | (fail_if_no_progress extract_lets +onlyGivenNames x
       first
       | (have hd : List _ := x; clear hd; clear_value x)
       | (have hd : Bool := x; clear hd; clear_value x)
       | (have hd : Nat := x; clear hd; clear_value x)
       | subst x)
    | fail_if_no_progress beta_reduce
    | with_reducible refine Framed.ite ?_ ?_
    | split
    | dsimp only)

theorem State.delivered_framed {ps : List Part} (h : [Part.regs, .chans, .host, .out] ⊆ ps) {z s : State} {ch : Nat} {f : Feed} {slot : Nat} {status : Nat}
    (hs : Framed ps z s) : Framed ps z (State.delivered s ch f slot status) := by
  unfold State.delivered
  repeat' (first
    | with_reducible assumption
    | with_reducible refine State.event_framed (Framed.sub h) ?_
    | with_reducible refine State.irq_framed (Framed.sub h) ?_
    | with_reducible refine State.mapChan_framed (Framed.sub h) ?_
    | with_reducible refine State.putRecord_framed (Framed.sub h) ?_
    | with_reducible refine State.when_framed ?_ (fun _ hs => ?_))

theorem execFlushReadReturn_framed {ps : List Part} (h : [Part.now, .regs, .world, .dies, .chans, .host, .kl, .out] ⊆ ps) {z s : State} {ch : Nat} {t : Nat}
    (hs : Framed ps z s) : OutFramed ps z (execFlushReadReturn ch t s) := by
  unfold execFlushReadReturn
  repeat' (first
    | with_reducible assumption
    | with_reducible refine OutFramed.named ?_
    | with_reducible refine State.advance_framed (Framed.sub h) ?_
    | with_reducible refine State.finishDesc_framed (Framed.sub h) ?_
    | with_reducible refine State.delivered_framed (Framed.sub h) ?_
    | with_reducible refine State.when_framed ?_ (fun _ hs => ?_)
    | (fail_if_no_progress extract_lets +onlyGivenNames x
       refine cutL (p := Framed ps z x) ?_ ?_; subst x; rotate_left; intro hs; try clear_value x; rotate_right)
    | split)

theorem State.retryRecords_framed {ps : List Part} (h : [Part.regs, .world, .dies, .chans, .host, .kl, .out] ⊆ ps) {z s : State} {ch : Nat}
    (hs : Framed ps z s) : Framed ps z (State.retryRecords s ch) := by
  unfold State.retryRecords
  repeat' (first
    | with_reducible assumption
    | with_reducible refine State.when_framed ?_ (fun _ hs => ?_)
    | with_reducible refine State.writeRecords_framed (Framed.sub h) ?_
    | with_reducible refine State.when_framed ?_ (fun _ hs => ?_)
    | with_reducible refine State.reachPause_framed (Framed.sub h) ?_
    | (fail_if_no_progress extract_lets +onlyGivenNames x
       refine cutL (p := Framed ps z x) ?_ ?_; subst x; rotate_left; intro hs; try clear_value x; rotate_right)
    | (fail_if_no_progress extract_lets +onlyGivenNames x
       first
       | (have hd : List _ := x; clear hd; clear_value x)
       | (have hd : Bool := x; clear hd; clear_value x)
       | (have hd : Nat := x; clear hd; clear_value x)
       | subst x)
    | fail_if_no_progress beta_reduce
    | with_reducible refine Framed.ite ?_ ?_
    | split
    | dsimp only)

theorem State.reportAer_framed {ps : List Part} (h : [Part.host] ⊆ ps) {z s : State} {n : Nat}
    (hs : Framed ps z s) : Framed ps z (State.reportAer s n) := by
  unfold State.reportAer
  repeat' (first
    | with_reducible assumption
    | ((with_reducible refine Framed.upd ?_ ?_); rotate_left; intro p hp; cases p <;> first | exact absurd (h (by decide)) hp | rfl | exact ⟨rfl, rfl⟩))

theorem State.hostFailed_framed {ps : List Part} (h : [Part.regs, .world, .dies, .chans, .host, .kl, .out] ⊆ ps) {z s : State} {ch : Nat}
    (hs : Framed ps z s) : Framed ps z (State.hostFailed s ch) := by
  unfold State.hostFailed
  repeat' (first
    | with_reducible assumption
    | with_reducible refine State.endChain_framed (Framed.sub h) ?_
    | with_reducible refine State.delivered_framed (Framed.sub h) ?_
    | split)

theorem execCplTimeout_framed {ps : List Part} (h : [Part.regs, .world, .dies, .chans, .host, .kl, .out] ⊆ ps) {z s : State} {ch : Nat}
    (hs : Framed ps z s) : OutFramed ps z (execCplTimeout ch s) := by
  unfold execCplTimeout
  repeat' (first
    | with_reducible assumption
    | with_reducible refine OutFramed.named ?_
    | with_reducible refine State.when_framed ?_ (fun _ hs => ?_)
    | with_reducible refine State.when_framed ?_ (fun _ hs => ?_)
    | with_reducible refine State.event_framed (Framed.sub h) ?_
    | with_reducible refine State.reportAer_framed (Framed.sub h) ?_
    | with_reducible refine State.hostFailed_framed (Framed.sub h) ?_)

theorem execHostReadCompletion_framed {ps : List Part} (h : [Part.regs, .world, .dies, .chans, .host, .kl, .out] ⊆ ps) {z s : State} {ch : Nat} {kind : Nat}
    (hs : Framed ps z s) : OutFramed ps z (execHostReadCompletion ch kind s) := by
  unfold execHostReadCompletion
  repeat' (first
    | with_reducible assumption
    | with_reducible refine OutFramed.named ?_
    | with_reducible refine State.when_framed ?_ (fun _ hs => ?_)
    | with_reducible refine State.when_framed ?_ (fun _ hs => ?_)
    | with_reducible refine State.reportAer_framed (Framed.sub h) ?_
    | with_reducible refine State.hostFailed_framed (Framed.sub h) ?_)

theorem execPoisonRx_framed {ps : List Part} (h : [Part.regs, .host] ⊆ ps) {z s : State}
    (hs : Framed ps z s) : OutFramed ps z (execPoisonRx s) := by
  unfold execPoisonRx
  repeat' (first
    | with_reducible assumption
    | with_reducible refine OutFramed.next ?_
    | with_reducible refine State.event_framed (Framed.sub h) ?_
    | with_reducible refine State.reportAer_framed (Framed.sub h) ?_)

theorem State.pauseChan_framed {ps : List Part} (h : [Part.regs, .chans, .host, .out] ⊆ ps) {z s : State} {ch : Nat}
    (hs : Framed ps z s) : Framed ps z (State.pauseChan s ch) := by
  unfold State.pauseChan
  repeat' (first
    | with_reducible assumption
    | with_reducible refine State.reachPause_framed (Framed.sub h) ?_
    | with_reducible refine State.mapChan_framed (Framed.sub h) ?_
    | (fail_if_no_progress extract_lets +onlyGivenNames x
       refine cutL (p := Framed ps z x) ?_ ?_; subst x; rotate_left; intro hs; try clear_value x; rotate_right)
    | (fail_if_no_progress extract_lets +onlyGivenNames x
       first
       | (have hd : List _ := x; clear hd; clear_value x)
       | (have hd : Bool := x; clear hd; clear_value x)
       | (have hd : Nat := x; clear hd; clear_value x)
       | subst x)
    | fail_if_no_progress beta_reduce
    | with_reducible refine Framed.ite ?_ ?_
    | split
    | dsimp only)

theorem State.resumeChan_framed {ps : List Part} (h : [Part.chans, .out] ⊆ ps) {z s : State} {ch : Nat}
    (hs : Framed ps z s) : Framed ps z (State.resumeChan s ch) := by
  unfold State.resumeChan
  repeat' (first
    | with_reducible assumption
    | with_reducible refine State.emit_framed (Framed.sub h) ?_
    | with_reducible refine State.mapChan_framed (Framed.sub h) ?_
    | with_reducible refine State.when_framed ?_ (fun _ hs => ?_)
    | (fail_if_no_progress extract_lets +onlyGivenNames x
       refine cutL (p := Framed ps z x) ?_ ?_; subst x; rotate_left; intro hs; try clear_value x; rotate_right)
    | (fail_if_no_progress extract_lets +onlyGivenNames x
       first
       | (have hd : List _ := x; clear hd; clear_value x)
       | (have hd : Bool := x; clear hd; clear_value x)
       | (have hd : Nat := x; clear hd; clear_value x)
       | subst x)
    | split)

theorem State.stopChan_framed {ps : List Part} (h : [Part.regs, .world, .dies, .chans, .host, .kl, .out] ⊆ ps) {z s : State} {ch : Nat}
    (hs : Framed ps z s) : Framed ps z (State.stopChan s ch) := by
  unfold State.stopChan
  repeat' (first
    | with_reducible assumption
    | with_reducible refine State.when_framed ?_ (fun _ hs => ?_)
    | with_reducible refine State.endChain_framed (Framed.sub h) ?_
    | with_reducible refine State.when_framed ?_ (fun _ hs => ?_)
    | with_reducible refine State.mapChan_framed (Framed.sub h) ?_
    | (fail_if_no_progress extract_lets +onlyGivenNames x
       refine cutL (p := Framed ps z x) ?_ ?_; subst x; rotate_left; intro hs; try clear_value x; rotate_right)
    | (fail_if_no_progress extract_lets +onlyGivenNames x
       first
       | (have hd : List _ := x; clear hd; clear_value x)
       | (have hd : Bool := x; clear hd; clear_value x)
       | (have hd : Nat := x; clear hd; clear_value x)
       | subst x)
    | fail_if_no_progress beta_reduce
    | with_reducible refine Framed.ite ?_ ?_
    | split
    | dsimp only)

theorem State.chanCtrl_framed {ps : List Part} (h : [Part.regs, .world, .dies, .chans, .host, .kl, .out] ⊆ ps) {z s : State} {ch : Nat} {v : Word}
    (hs : Framed ps z s) : Framed ps z (State.chanCtrl s ch v) := by
  unfold State.chanCtrl
  repeat' (first
    | with_reducible assumption
    | with_reducible refine State.pauseChan_framed (Framed.sub h) ?_
    | with_reducible refine State.resumeChan_framed (Framed.sub h) ?_
    | with_reducible refine State.stopChan_framed (Framed.sub h) ?_
    | with_reducible refine State.when_framed ?_ (fun _ hs => ?_)
    | (fail_if_no_progress extract_lets +onlyGivenNames x
       refine cutL (p := Framed ps z x) ?_ ?_; subst x; rotate_left; intro hs; try clear_value x; rotate_right)
    | with_reducible refine Framed.ite ?_ ?_)

theorem execChPause_framed {ps : List Part} (h : [Part.regs, .world, .dies, .chans, .host, .kl, .out] ⊆ ps) {z s : State} {ch : Nat}
    (hs : Framed ps z s) : OutFramed ps z (execChPause ch s) := by
  unfold execChPause
  repeat' (first
    | with_reducible assumption
    | with_reducible refine OutFramed.named ?_
    | with_reducible refine State.write32_framed (Framed.sub h) ?_ (fun _ hs => ?_)
    | with_reducible refine State.chanCtrl_framed (Framed.sub h) ?_)

theorem execChResume_framed {ps : List Part} (h : [Part.regs, .world, .dies, .chans, .host, .kl, .out] ⊆ ps) {z s : State} {ch : Nat}
    (hs : Framed ps z s) : OutFramed ps z (execChResume ch s) := by
  unfold execChResume
  repeat' (first
    | with_reducible assumption
    | with_reducible refine OutFramed.named ?_
    | with_reducible refine State.write32_framed (Framed.sub h) ?_ (fun _ hs => ?_)
    | with_reducible refine State.chanCtrl_framed (Framed.sub h) ?_)

theorem execChStop_framed {ps : List Part} (h : [Part.regs, .world, .dies, .chans, .host, .kl, .out] ⊆ ps) {z s : State} {ch : Nat}
    (hs : Framed ps z s) : OutFramed ps z (execChStop ch s) := by
  unfold execChStop
  repeat' (first
    | with_reducible assumption
    | with_reducible refine OutFramed.named ?_
    | with_reducible refine State.write32_framed (Framed.sub h) ?_ (fun _ hs => ?_)
    | with_reducible refine State.chanCtrl_framed (Framed.sub h) ?_)

theorem State.setCring_framed {ps : List Part} (h : [Part.regs, .badRegs, .world, .dies, .chans, .host, .kl, .dep, .out] ⊆ ps) {z s : State} {ch : Nat} {v : Word}
    (hs : Framed ps z s) : Framed ps z (State.setCring s ch v) := by
  unfold State.setCring
  repeat' (first
    | with_reducible assumption
    | with_reducible refine State.event_framed (Framed.sub h) ?_
    | with_reducible refine State.rewrite_framed (Framed.sub h) ?_
    | with_reducible refine State.setReg_framed (Framed.sub h) ?_
    | with_reducible refine State.retryRecords_framed (Framed.sub h) ?_
    | (fail_if_no_progress extract_lets +onlyGivenNames x
       refine cutL (p := Framed ps z x) ?_ ?_; subst x; rotate_left; intro hs; try clear_value x; rotate_right)
    | (fail_if_no_progress extract_lets +onlyGivenNames x
       first
       | (have hd : List _ := x; clear hd; clear_value x)
       | (have hd : Bool := x; clear hd; clear_value x)
       | (have hd : Nat := x; clear hd; clear_value x)
       | subst x)
    | fail_if_no_progress beta_reduce
    | with_reducible refine Framed.ite ?_ ?_
    | split)

theorem execChCringSize_framed {ps : List Part} (h : [Part.regs, .badRegs, .world, .dies, .chans, .host, .kl, .dep, .out] ⊆ ps) {z s : State} {ch : Nat} {v : Word}
    (hs : Framed ps z s) : OutFramed ps z (execChCringSize ch v s) := by
  unfold execChCringSize
  repeat' (first
    | with_reducible assumption
    | with_reducible refine OutFramed.named ?_
    | with_reducible refine State.write32_framed (Framed.sub h) ?_ (fun _ hs => ?_)
    | with_reducible refine State.setCring_framed (Framed.sub h) ?_)

end Sys2Proof.Machine
end

