-- ==== Sys2Proof/Laws/FrameSelect.lean ====
section
/-! SUPPORT. The parts of the state that the operations of Machine/Select.lean can change. -/

set_option Elab.async false
set_option linter.unusedTactic false
set_option linter.unreachableTactic false
set_option linter.unusedVariables false
set_option linter.tactic.unusedName false

namespace Sys2Proof.Machine
open Sys2Proof

theorem State.endSel_framed {ps : List Part} (h : [Part.regs, .mem, .slices, .dies] ⊆ ps) {z s : State} {d : Die} {w : SelWork} {r : SelResult}
    (hs : Framed ps z s) : Framed ps z (State.endSel s d w r) := by
  unfold State.endSel
  repeat' (first
    | with_reducible assumption
    | with_reducible refine State.setReg_framed (Framed.sub h) ?_
    | with_reducible refine State.count_framed (Framed.sub h) ?_
    | with_reducible refine State.store_framed (Framed.sub h) ?_
    | with_reducible refine State.when_framed ?_ (fun _ hs => ?_)
    | with_reducible refine State.setDie_framed (Framed.sub h) ?_ ?_
    | ((with_reducible refine fun (hn : Part.slices ∉ ps) => ?_); first | exact absurd (h (by decide)) hn | exact Framed.die hs hn _ | exact Framed.die (by assumption) hn _ | exact (hs _ hn).1 | exact (hs _ hn).2 | simpa using Framed.die hs hn _))

theorem State.stopSel_framed {ps : List Part} (h : [Part.free, .regs, .mem, .slices, .plan, .dies, .host, .tally, .out] ⊆ ps) {z s : State} {d : Die} {w : SelWork} {status : Nat}
    (hs : Framed ps z s) : Framed ps z (State.stopSel s d w status) := by
  unfold State.stopSel
  repeat' (first
    | with_reducible assumption
    | with_reducible refine State.when_framed ?_ (fun _ hs => ?_)
    | with_reducible refine State.freeWord_framed (Framed.sub h) ?_
    | with_reducible exact State.freeWord_framed_eq (Framed.sub h) (by assumption) (by assumption)
    | with_reducible refine State.endSel_framed (Framed.sub h) ?_
    | with_reducible refine State.event_framed (Framed.sub h) ?_
    | with_reducible refine State.setReg_framed (Framed.sub h) ?_
    | with_reducible refine State.log_framed (Framed.sub h) ?_
    | with_reducible refine State.when_framed ?_ (fun _ hs => ?_)
    | with_reducible refine State.invalid_framed (Framed.sub h) ?_
    | (fail_if_no_progress extract_lets +onlyGivenNames x
       refine cutL (p := Framed ps z x) ?_ ?_; subst x; rotate_left; intro hs; try clear_value x; rotate_right)
    | (fail_if_no_progress extract_lets +onlyGivenNames x
       first
       | (have hd : List _ := x; clear hd; clear_value x)
       | (have hd : Bool := x; clear hd; clear_value x)
       | (have hd : Nat := x; clear hd; clear_value x)
       | subst x)
    | fail_if_no_progress beta_reduce
    | with_reducible refine Framed.ite ?_ ?_
    | split
    | ((with_reducible refine Framed.upd ?_ ?_); rotate_left; intro p hp; cases p <;> first | exact absurd (h (by decide)) hp | rfl | exact ⟨rfl, rfl⟩)
    | dsimp only)

theorem State.startSel_framed {ps : List Part} (h : [Part.free, .regs, .mem, .slices, .plan, .dies, .host, .tally, .out] ⊆ ps) {z s : State} {d : Die} {e : Nat} {x_ : SelDesc} {sw : Bool}
    (hs : Framed ps z s) : Framed ps z (State.startSel s d e x_ sw) := by
  unfold State.startSel
  repeat' (first
    | with_reducible assumption
    | with_reducible refine State.setDie_framed (Framed.sub h) ?_ ?_
    | ((with_reducible refine fun (hn : Part.slices ∉ ps) => ?_); first | exact absurd (h (by decide)) hn | exact Framed.die hs hn _ | exact Framed.die (by assumption) hn _ | exact (hs _ hn).1 | exact (hs _ hn).2 | simpa using Framed.die hs hn _)
    | with_reducible refine State.setField_framed (Framed.sub h) ?_
    | with_reducible refine State.stopSel_framed (Framed.sub h) ?_
    | (fail_if_no_progress extract_lets +onlyGivenNames x
       refine cutL (p := Framed ps z x) ?_ ?_; subst x; rotate_left; intro hs; try clear_value x; rotate_right)
    | (fail_if_no_progress extract_lets +onlyGivenNames x
       first
       | (have hd : List _ := x; clear hd; clear_value x)
       | (have hd : Bool := x; clear hd; clear_value x)
       | (have hd : Nat := x; clear hd; clear_value x)
       | subst x)
    | fail_if_no_progress beta_reduce
    | with_reducible refine Framed.ite ?_ ?_
    | split
    | ((with_reducible refine Framed.upd ?_ ?_); rotate_left; intro p hp; cases p <;> first | exact absurd (h (by decide)) hp | rfl | exact ⟨rfl, rfl⟩))

theorem State.trace_framed {ps : List Part} (h : [Part.chans] ⊆ ps) {z s : State} {d : Die} {kind : Nat} {es : List Element}
    (hs : Framed ps z s) : Framed ps z (State.trace s d kind es) := by
  unfold State.trace
  repeat' (first
    | with_reducible assumption
    | with_reducible refine State.when_framed ?_ (fun _ hs => ?_)
    | with_reducible refine State.when_framed ?_ (fun _ hs => ?_)
    | with_reducible refine State.mapChan_framed (Framed.sub h) ?_
    | (fail_if_no_progress extract_lets +onlyGivenNames x
       refine cutL (p := Framed ps z x) ?_ ?_; subst x; rotate_left; intro hs; try clear_value x; rotate_right)
    | (fail_if_no_progress extract_lets +onlyGivenNames x
       first
       | (have hd : List _ := x; clear hd; clear_value x)
       | (have hd : Bool := x; clear hd; clear_value x)
       | (have hd : Nat := x; clear hd; clear_value x)
       | subst x)
    | fail_if_no_progress beta_reduce
    | ((with_reducible refine Framed.upd ?_ ?_); rotate_left; intro p hp; cases p <;> first | exact absurd (h (by decide)) hp | rfl | exact ⟨rfl, rfl⟩))

theorem State.flagInvalid_framed {ps : List Part} (h : [Part.regs] ⊆ ps) {z s : State} {d : Die} {es : List Element}
    (hs : Framed ps z s) : Framed ps z (State.flagInvalid s d es) := by
  unfold State.flagInvalid
  repeat' (first
    | with_reducible assumption
    | with_reducible refine State.event_framed (Framed.sub h) ?_
    | with_reducible refine State.when_framed ?_ (fun _ hs => ?_))

theorem State.doMerit_framed {ps : List Part} (h : [Part.regs, .mem, .slices, .dies, .chans] ⊆ ps) {z s : State} {d : Die} {w : SelWork}
    (hs : Framed ps z s) : Framed ps z (State.doMerit s d w) := by
  unfold State.doMerit
  repeat' (first
    | with_reducible assumption
    | with_reducible refine State.count_framed (Framed.sub h) ?_
    | with_reducible refine State.store_framed (Framed.sub h) ?_
    | with_reducible refine State.endSel_framed (Framed.sub h) ?_
    | with_reducible refine State.trace_framed (Framed.sub h) ?_
    | (fail_if_no_progress extract_lets +onlyGivenNames x
       refine cutL (p := Framed ps z x) ?_ ?_; subst x; rotate_left; intro hs; try clear_value x; rotate_right)
    | (fail_if_no_progress extract_lets +onlyGivenNames x
       first
       | (have hd : List _ := x; clear hd; clear_value x)
       | (have hd : Bool := x; clear hd; clear_value x)
       | (have hd : Nat := x; clear hd; clear_value x)
       | subst x)
    | fail_if_no_progress beta_reduce)

theorem State.doCompact_framed {ps : List Part} (h : [Part.regs, .mem, .slices, .dies] ⊆ ps) {z s : State} {d : Die} {w : SelWork} {lists : List Span}
    (hs : Framed ps z s) : Framed ps z (State.doCompact s d w lists) := by
  unfold State.doCompact
  repeat' (first
    | with_reducible assumption
    | with_reducible refine State.store_framed (Framed.sub h) ?_
    | with_reducible refine State.endSel_framed (Framed.sub h) ?_
    | with_reducible refine State.flagInvalid_framed (Framed.sub h) ?_)

theorem State.holdMismatches_framed {ps : List Part} (h : [Part.plan] ⊆ ps) {z s : State} {t_ : TopK}
    (hs : Framed ps z s) : Framed ps z (State.holdMismatches s t_) := by
  unfold State.holdMismatches
  repeat' (first
    | with_reducible assumption
    | (fail_if_no_progress extract_lets +onlyGivenNames x
       refine cutL (p := Framed ps z x) ?_ ?_; subst x; rotate_left; intro hs; try clear_value x; rotate_right)
    | (fail_if_no_progress extract_lets +onlyGivenNames x
       first
       | (have hd : List _ := x; clear hd; clear_value x)
       | (have hd : Bool := x; clear hd; clear_value x)
       | (have hd : Nat := x; clear hd; clear_value x)
       | subst x)
    | fail_if_no_progress beta_reduce
    | ((with_reducible refine Framed.upd ?_ ?_); rotate_left; intro p hp; cases p <;> first | exact absurd (h (by decide)) hp | rfl | exact ⟨rfl, rfl⟩)
    | dsimp only)

theorem State.endRound_framed {ps : List Part} (h : [Part.dies] ⊆ ps) {z s : State} {d : Die} {e : Nat} {before : List Byte}
    (hs : Framed ps z s) : Framed ps z (State.endRound s d e before) := by
  unfold State.endRound
  repeat' (first
    | with_reducible assumption
    | with_reducible refine State.when_framed ?_ (fun _ hs => ?_)
    | with_reducible refine State.setDie_framed (Framed.sub h) ?_ ?_
    | ((with_reducible refine fun (hn : Part.slices ∉ ps) => ?_); first | exact absurd (h (by decide)) hn | exact Framed.die hs hn _ | exact Framed.die (by assumption) hn _ | exact (hs _ hn).1 | exact (hs _ hn).2 | simpa using Framed.die hs hn _)
    | with_reducible refine State.when_framed ?_ (fun _ hs => ?_)
    | (fail_if_no_progress extract_lets +onlyGivenNames x
       refine cutL (p := Framed ps z x) ?_ ?_; subst x; rotate_left; intro hs; try clear_value x; rotate_right)
    | (fail_if_no_progress extract_lets +onlyGivenNames x
       first
       | (have hd : List _ := x; clear hd; clear_value x)
       | (have hd : Bool := x; clear hd; clear_value x)
       | (have hd : Nat := x; clear hd; clear_value x)
       | subst x)
    | fail_if_no_progress beta_reduce
    | ((with_reducible refine Framed.upd ?_ ?_); rotate_left; intro p hp; cases p <;> first | exact absurd (h (by decide)) hp | rfl | exact ⟨rfl, rfl⟩))

theorem State.doTopk_framed {ps : List Part} (h : [Part.regs, .mem, .slices, .sys, .plan, .dies] ⊆ ps) {z s : State} {d : Die} {w : SelWork} {lists : List Span}
    (hs : Framed ps z s) : Framed ps z (State.doTopk s d w lists) := by
  unfold State.doTopk
  repeat' (first
    | with_reducible assumption
    | with_reducible refine State.when_framed ?_ (fun _ hs => ?_)
    | with_reducible refine State.flagInvalid_framed (Framed.sub h) ?_
    | with_reducible refine State.store_framed (Framed.sub h) ?_
    | with_reducible refine State.when_framed ?_ (fun _ hs => ?_)
    | with_reducible refine State.event_framed (Framed.sub h) ?_
    | with_reducible refine State.invalid_framed (Framed.sub h) ?_
    | with_reducible refine State.holdMismatches_framed (Framed.sub h) ?_
    | with_reducible refine State.endSel_framed (Framed.sub h) ?_
    | with_reducible refine State.result_framed (Framed.sub h) ?_
    | with_reducible refine State.endRound_framed (Framed.sub h) ?_
    | (fail_if_no_progress extract_lets +onlyGivenNames x
       refine cutL (p := Framed ps z x) ?_ ?_; subst x; rotate_left; intro hs; try clear_value x; rotate_right)
    | (fail_if_no_progress extract_lets +onlyGivenNames x
       first
       | (have hd : List _ := x; clear hd; clear_value x)
       | (have hd : Bool := x; clear hd; clear_value x)
       | (have hd : Nat := x; clear hd; clear_value x)
       | subst x)
    | fail_if_no_progress beta_reduce
    | with_reducible refine Framed.ite ?_ ?_
    | split
    | dsimp only)

theorem State.chainStatus_framed {ps : List Part} (h : [Part.free] ⊆ ps) {z s : State} {st : Nat}
    (hs : Framed ps z s) : Framed ps z (State.chainStatus s st).2 := by
  unfold State.chainStatus
  repeat' (first
    | with_reducible assumption
    | with_reducible refine State.freeWord_framed (Framed.sub h) ?_
    | split)

theorem State.chainStatus_framed_eq {ps : List Part} (h : [Part.free] ⊆ ps) {z s tt : State} {pr : Nat} {st : Nat}
    (he : (State.chainStatus s st) = (pr, tt)) (hs : Framed ps z s) : Framed ps z tt := by
  have := State.chainStatus_framed (st := st) h hs
  rw [he] at this; exact this

theorem State.chainHere_framed {ps : List Part} (h : [Part.regs, .mem, .slices] ⊆ ps) {z s : State} {tab : Nat} {k : Nat} {q0 : Nat} {q1 : Nat} {q2 : Nat}
    (hs : Framed ps z s) : Framed ps z (State.chainHere s tab k q0 q1 q2).1 := by
  induction q0 generalizing s q1 q2 tab k with
  | zero =>
    unfold State.chainHere
    repeat' (first
      | with_reducible refine ih ?_
      | with_reducible assumption
      | with_reducible refine State.noteStall_framed (Framed.sub h) ?_
      | with_reducible refine State.atomicHere_framed (Framed.sub h) ?_
      | with_reducible exact State.atomicHere_framed_eq (Framed.sub h) (by assumption) (by assumption)
      | (fail_if_no_progress extract_lets +onlyGivenNames x
         refine cutL (p := Framed ps z x) ?_ ?_; subst x; rotate_left; intro hs; try clear_value x; rotate_right)
      | (fail_if_no_progress extract_lets +onlyGivenNames x
         first
         | (have hd : List _ := x; clear hd; clear_value x)
         | (have hd : Bool := x; clear hd; clear_value x)
         | (have hd : Nat := x; clear hd; clear_value x)
         | subst x)
      | fail_if_no_progress beta_reduce
      | with_reducible refine Framed.ite ?_ ?_
      | split
      | dsimp only)
  | succ _ ih =>
    unfold State.chainHere
    repeat' (first
      | with_reducible refine ih ?_
      | with_reducible assumption
      | with_reducible refine State.noteStall_framed (Framed.sub h) ?_
      | with_reducible refine State.atomicHere_framed (Framed.sub h) ?_
      | with_reducible exact State.atomicHere_framed_eq (Framed.sub h) (by assumption) (by assumption)
      | (fail_if_no_progress extract_lets +onlyGivenNames x
         refine cutL (p := Framed ps z x) ?_ ?_; subst x; rotate_left; intro hs; try clear_value x; rotate_right)
      | (fail_if_no_progress extract_lets +onlyGivenNames x
         first
         | (have hd : List _ := x; clear hd; clear_value x)
         | (have hd : Bool := x; clear hd; clear_value x)
         | (have hd : Nat := x; clear hd; clear_value x)
         | subst x)
      | fail_if_no_progress beta_reduce
      | with_reducible refine Framed.ite ?_ ?_
      | split
      | dsimp only)
theorem State.chainHere_framed_eq {ps : List Part} (h : [Part.regs, .mem, .slices] ⊆ ps) {z s tt : State} {pr : Nat × Option (Nat × Nat)} {tab : Nat} {k : Nat} {q0 : Nat} {q1 : Nat} {q2 : Nat}
    (he : (State.chainHere s tab k q0 q1 q2) = (tt, pr)) (hs : Framed ps z s) : Framed ps z tt := by
  have := State.chainHere_framed (tab := tab) (k := k) (q0 := q0) (q1 := q1) (q2 := q2) h hs
  rw [he] at this; exact this

theorem State.mapSel_framed {ps : List Part} (h : [Part.dies] ⊆ ps) {z s : State} {d : Die} {e : Nat} {f : SelWork → SelWork}
    (hs : Framed ps z s) : Framed ps z (State.mapSel s d e f) := by
  unfold State.mapSel
  repeat' (first
    | with_reducible assumption
    | with_reducible refine State.setDie_framed (Framed.sub h) ?_ ?_
    | ((with_reducible refine fun (hn : Part.slices ∉ ps) => ?_); first | exact absurd (h (by decide)) hn | exact Framed.die hs hn _ | exact Framed.die (by assumption) hn _ | exact (hs _ hn).1 | exact (hs _ hn).2 | simpa using Framed.die hs hn _))

theorem State.failSel_framed {ps : List Part} (h : [Part.dies] ⊆ ps) {z s : State} {d : Die} {e : Nat} {st : Nat}
    (hs : Framed ps z s) : Framed ps z (State.failSel s d e st) := by
  unfold State.failSel
  repeat' (first
    | with_reducible assumption
    | with_reducible refine State.mapSel_framed (Framed.sub h) ?_)

theorem State.finishKeyins_framed {ps : List Part} (h : [Part.free, .regs, .mem, .slices, .plan, .dies, .host, .tally, .out] ⊆ ps) {z s : State} {d : Die} {e : Nat}
    (hs : Framed ps z s) : Framed ps z (State.finishKeyins s d e) := by
  unfold State.finishKeyins
  repeat' (first
    | with_reducible assumption
    | with_reducible refine State.freeWord_framed (Framed.sub h) ?_
    | with_reducible exact State.freeWord_framed_eq (Framed.sub h) (by assumption) (by assumption)
    | with_reducible refine State.endSel_framed (Framed.sub h) ?_
    | with_reducible refine State.chainStatus_framed (Framed.sub h) ?_
    | with_reducible exact State.chainStatus_framed_eq (Framed.sub h) (by assumption) (by assumption)
    | with_reducible refine State.stopSel_framed (Framed.sub h) ?_
    | (fail_if_no_progress extract_lets +onlyGivenNames x
       refine cutL (p := Framed ps z x) ?_ ?_; subst x; rotate_left; intro hs; try clear_value x; rotate_right)
    | (fail_if_no_progress extract_lets +onlyGivenNames x
       first
       | (have hd : List _ := x; clear hd; clear_value x)
       | (have hd : Bool := x; clear hd; clear_value x)
       | (have hd : Nat := x; clear hd; clear_value x)
       | subst x)
    | fail_if_no_progress beta_reduce
    | with_reducible refine Framed.ite ?_ ?_
    | split
    | dsimp only)

theorem State.issueChain_framed {ps : List Part} (h : [Part.dies, .kl, .out] ⊆ ps) {z s : State} {d : Die} {e : Nat} {x_ : Nat} {r : Nat} {tab : Nat} {k : Nat}
    (hs : Framed ps z s) : Framed ps z (State.issueChain s d e x_ r tab k) := by
  unfold State.issueChain
  repeat' (first
    | with_reducible exact State.issueRemote_framed_eq (Framed.sub h) (by assumption) (by assumption)
    | with_reducible refine State.failSel_framed (Framed.sub h) ?_
    | split)

theorem State.issueChains_framed {ps : List Part} (h : [Part.regs, .mem, .slices, .dies, .kl, .out] ⊆ ps) {z s : State} {d : Die} {e tab k : Nat}
    {q0 : List (Nat × Nat)} (hs : Framed ps z s) : Framed ps z (s.issueChains d e tab k q0) := by
  induction q0 generalizing s with
  | nil => exact State.mapSel_framed (Framed.sub h) hs
  | cons c l ih =>
    obtain ⟨r, x⟩ := c
    rw [State.issueChains]
    split
    · have hp : Framed ps z (if s.crossDown (some d) (localOf tab) 8 then (s, 6, none)
          else s.chainHere (localOf tab) k (k - r) r x).1 := by
        split
        · exact hs
        · exact State.chainHere_framed (Framed.sub h) hs
      generalize (if s.crossDown (some d) (localOf tab) 8 then (s, 6, none)
        else s.chainHere (localOf tab) k (k - r) r x) = p at hp ⊢
      obtain ⟨t, st, rest⟩ := p
      dsimp only at hp ⊢
      split
      · exact State.mapSel_framed (Framed.sub h) hp
      · exact ih (State.when_framed hp (fun _ hs => State.failSel_framed (Framed.sub h) hs))
    · split
      · exact State.mapSel_framed (Framed.sub h) hs
      · exact ih (State.issueChain_framed (Framed.sub h) hs)

theorem State.doKeyins_framed {ps : List Part} (h : [Part.free, .regs, .mem, .slices, .plan, .dies, .host, .kl, .tally, .out] ⊆ ps) {z s : State} {d : Die} {w : SelWork} {lists : List Span}
    (hs : Framed ps z s) : Framed ps z (State.doKeyins s d w lists) := by
  unfold State.doKeyins
  repeat' (first
    | with_reducible assumption
    | with_reducible refine State.flagInvalid_framed (Framed.sub h) ?_
    | with_reducible refine State.mapSel_framed (Framed.sub h) ?_
    | with_reducible refine State.finishKeyins_framed (Framed.sub h) ?_
    | with_reducible refine State.issueChains_framed (Framed.sub h) ?_)

theorem State.pumpKeyins_framed {ps : List Part} (h : [Part.free, .regs, .mem, .slices, .plan, .dies, .host, .kl, .tally, .out] ⊆ ps) {z s : State} {d : Die} {e : Nat}
    (hs : Framed ps z s) : Framed ps z (State.pumpKeyins s d e) := by
  unfold State.pumpKeyins
  repeat' (first
    | with_reducible assumption
    | with_reducible refine State.issueChains_framed (Framed.sub h) ?_
    | with_reducible refine State.finishKeyins_framed (Framed.sub h) ?_
    | with_reducible refine Framed.ite ?_ ?_
    | split
    | dsimp only)

theorem State.chainReturn_framed {ps : List Part} (h : [Part.free, .regs, .mem, .slices, .plan, .dies, .host, .kl, .tally, .out] ⊆ ps) {z s : State} {d : Die} {e : Nat} {x_ : Nat} {r : Nat} {k : Nat} {status : Nat} {data : List Byte}
    (hs : Framed ps z s) : Framed ps z (State.chainReturn s d e x_ r k status data) := by
  unfold State.chainReturn
  repeat' (first
    | with_reducible assumption
    | with_reducible refine State.when_framed ?_ (fun _ hs => ?_)
    | with_reducible refine State.failSel_framed (Framed.sub h) ?_
    | with_reducible refine State.when_framed ?_ (fun _ hs => ?_)
    | with_reducible refine State.mapSel_framed (Framed.sub h) ?_
    | with_reducible refine State.pumpKeyins_framed (Framed.sub h) ?_
    | (fail_if_no_progress extract_lets +onlyGivenNames x
       refine cutL (p := Framed ps z x) ?_ ?_; subst x; rotate_left; intro hs; try clear_value x; rotate_right)
    | (fail_if_no_progress extract_lets +onlyGivenNames x
       first
       | (have hd : List _ := x; clear hd; clear_value x)
       | (have hd : Bool := x; clear hd; clear_value x)
       | (have hd : Nat := x; clear hd; clear_value x)
       | subst x)
    | fail_if_no_progress beta_reduce
    | with_reducible refine Framed.ite ?_ ?_
    | split
    | ((with_reducible refine Framed.upd ?_ ?_); rotate_left; intro p hp; cases p <;> first | exact absurd (h (by decide)) hp | rfl | exact ⟨rfl, rfl⟩))

theorem State.runSel_framed {ps : List Part} (h : [Part.free, .regs, .mem, .slices, .plan, .dies, .host, .tally, .out] ⊆ ps) {z s : State} {d : Die} {e : Nat} {op stall : Nat} {met : SelMet} {f : State → SelWork → List Span → State}
    (hs : Framed ps z s) (hf : ∀ t a1 a2, Framed ps z t → Framed ps z (f t a1 a2)) : Framed ps z (State.runSel s d e op stall met f) := by
  unfold State.runSel
  repeat' (first
    | with_reducible assumption
    | with_reducible refine State.when_framed ?_ (fun _ hs => ?_)
    | with_reducible refine State.contendOn_framed (Framed.sub h) ?_
    | with_reducible refine State.stopSel_framed (Framed.sub h) ?_
    | with_reducible refine State.when_framed ?_ (fun _ hs => ?_)
    | with_reducible refine State.countCe_framed (Framed.sub h) ?_
    | (fail_if_no_progress extract_lets +onlyGivenNames x
       refine cutL (p := Framed ps z x) ?_ ?_; subst x; rotate_left; intro hs; try clear_value x; rotate_right)
    | (fail_if_no_progress extract_lets +onlyGivenNames x
       first
       | (have hd : List _ := x; clear hd; clear_value x)
       | (have hd : Bool := x; clear hd; clear_value x)
       | (have hd : Nat := x; clear hd; clear_value x)
       | subst x)
    | fail_if_no_progress beta_reduce
    | with_reducible refine Framed.ite ?_ ?_
    | with_reducible refine hf _ _ _  ?_
    | split
    | dsimp only)

theorem execMerit_framed {ps : List Part} (h : [Part.free, .regs, .mem, .slices, .plan, .dies, .chans, .host, .tally, .out] ⊆ ps) {z s : State} {d : Die} {e stall : Nat} {met : SelMet}
    (hs : Framed ps z s) : OutFramed ps z (execMerit d e stall met s) := by
  unfold execMerit
  repeat' (first
    | with_reducible assumption
    | with_reducible refine OutFramed.next ?_
    | with_reducible refine State.runSel_framed (Framed.sub h) ?_ (fun _ _ _ hs => ?_)
    | with_reducible refine State.doMerit_framed (Framed.sub h) ?_)

theorem execCompact_framed {ps : List Part} (h : [Part.free, .regs, .mem, .slices, .plan, .dies, .host, .tally, .out] ⊆ ps) {z s : State} {d : Die} {e stall : Nat} {met : SelMet}
    (hs : Framed ps z s) : OutFramed ps z (execCompact d e stall met s) := by
  unfold execCompact
  repeat' (first
    | with_reducible assumption
    | with_reducible refine OutFramed.next ?_
    | with_reducible refine State.runSel_framed (Framed.sub h) ?_ (fun _ _ _ hs => ?_)
    | with_reducible refine State.doCompact_framed (Framed.sub h) ?_)

theorem execTopk_framed {ps : List Part} (h : [Part.free, .regs, .mem, .slices, .sys, .plan, .dies, .host, .tally, .out] ⊆ ps) {z s : State} {d : Die} {e stall : Nat} {met : SelMet}
    (hs : Framed ps z s) : OutFramed ps z (execTopk d e stall met s) := by
  unfold execTopk
  repeat' (first
    | with_reducible assumption
    | with_reducible refine OutFramed.next ?_
    | with_reducible refine State.runSel_framed (Framed.sub h) ?_ (fun _ _ _ hs => ?_)
    | with_reducible refine State.doTopk_framed (Framed.sub h) ?_)

theorem execKeyins_framed {ps : List Part} (h : [Part.free, .regs, .mem, .slices, .plan, .dies, .host, .kl, .tally, .out] ⊆ ps) {z s : State} {d : Die} {e stall : Nat} {met : SelMet}
    (hs : Framed ps z s) : OutFramed ps z (execKeyins d e stall met s) := by
  unfold execKeyins
  repeat' (first
    | with_reducible assumption
    | with_reducible refine OutFramed.next ?_
    | with_reducible refine State.runSel_framed (Framed.sub h) ?_ (fun _ _ _ hs => ?_)
    | with_reducible refine State.doKeyins_framed (Framed.sub h) ?_)

theorem State.fetchSel_framed {ps : List Part} (h : [Part.free, .regs, .mem, .slices, .plan, .dies, .host, .tally, .out] ⊆ ps) {z s : State} {d : Die} {e : Nat} {a : Nat}
    (hs : Framed ps z s) : Framed ps z (State.fetchSel s d e a) := by
  unfold State.fetchSel
  repeat' (first
    | with_reducible assumption
    | with_reducible refine State.startSel_framed (Framed.sub h) ?_
    | with_reducible refine State.stopSel_framed (Framed.sub h) ?_
    | with_reducible refine Framed.ite ?_ ?_
    | split)

theorem State.pumpFetch_framed {ps : List Part} (h : [Part.free, .regs, .mem, .slices, .plan, .dies, .host, .tally, .out] ⊆ ps) {z s : State} {d : Die} {e : Nat}
    (hs : Framed ps z s) : Framed ps z (State.pumpFetch s d e) := by
  unfold State.pumpFetch
  repeat' (first
    | with_reducible assumption
    | with_reducible refine State.when_framed ?_ (fun _ hs => ?_)
    | with_reducible refine State.setDie_framed (Framed.sub h) ?_ ?_
    | ((with_reducible refine fun (hn : Part.slices ∉ ps) => ?_); first | exact absurd (h (by decide)) hn | exact Framed.die hs hn _ | exact Framed.die (by assumption) hn _ | exact (hs _ hn).1 | exact (hs _ hn).2 | simpa using Framed.die hs hn _)
    | with_reducible refine State.when_framed ?_ (fun _ hs => ?_)
    | with_reducible refine State.fetchSel_framed (Framed.sub h) ?_
    | split
    | ((with_reducible refine Framed.upd ?_ ?_); rotate_left; intro p hp; cases p <;> first | exact absurd (h (by decide)) hp | rfl | exact ⟨rfl, rfl⟩)
    | dsimp only)

theorem State.softSelect_framed {ps : List Part} (h : [Part.free, .dev, .regs, .badRegs, .mem, .slices, .queue, .sys, .tick, .plan, .dies, .chans, .host, .kl, .safe, .dep, .tally, .out] ⊆ ps) {z s : State} {d : Die} {e : Nat}
    (hs : Framed ps z s) : Framed ps z (State.softSelect s d e) := by
  unfold State.softSelect
  repeat' (first
    | with_reducible assumption
    | with_reducible refine State.setDie_framed (Framed.sub h) ?_ ?_
    | ((with_reducible refine fun (hn : Part.slices ∉ ps) => ?_); first | exact absurd (h (by decide)) hn | exact Framed.die hs hn _ | exact Framed.die (by assumption) hn _ | exact (hs _ hn).1 | exact (hs _ hn).2 | simpa using Framed.die hs hn _)
    | with_reducible refine State.checkUses_framed (Framed.sub h) ?_
    | with_reducible refine State.noteStall_framed (Framed.sub h) ?_
    | with_reducible refine State.fetchSel_framed (Framed.sub h) ?_
    | with_reducible refine State.setField_framed (Framed.sub h) ?_
    | (fail_if_no_progress extract_lets +onlyGivenNames x
       refine cutL (p := Framed ps z x) ?_ ?_; subst x; rotate_left; intro hs; try clear_value x; rotate_right)
    | (fail_if_no_progress extract_lets +onlyGivenNames x
       first
       | (have hd : List _ := x; clear hd; clear_value x)
       | (have hd : Bool := x; clear hd; clear_value x)
       | (have hd : Nat := x; clear hd; clear_value x)
       | subst x)
    | fail_if_no_progress beta_reduce
    | with_reducible refine Framed.ite ?_ ?_
    | split
    | ((with_reducible refine Framed.upd ?_ ?_); rotate_left; intro p hp; cases p <;> first | exact absurd (h (by decide)) hp | rfl | exact ⟨rfl, rfl⟩))

theorem execSwGo_framed {ps : List Part} (h : [Part.free, .dev, .regs, .badRegs, .mem, .slices, .queue, .sys, .tick, .plan, .dies, .chans, .host, .kl, .safe, .dep, .tally, .out] ⊆ ps) {z s : State} {d : Die} {e : Nat}
    (hs : Framed ps z s) : OutFramed ps z (execSwGo d e s) := by
  unfold execSwGo
  repeat' (first
    | with_reducible assumption
    | with_reducible refine OutFramed.named ?_
    | with_reducible refine State.write32_framed (Framed.sub h) ?_ (fun _ hs => ?_)
    | with_reducible refine State.softSelect_framed (Framed.sub h) ?_)

theorem State.softIhaul_framed {ps : List Part} (h : [Part.dev, .regs, .badRegs, .queue, .sys, .tick, .plan, .dies, .chans, .host, .kl, .safe, .dep, .tally, .out] ⊆ ps) {z s : State} {d : Die} {c : Nat}
    (hs : Framed ps z s) : Framed ps z (State.softIhaul s d c) := by
  unfold State.softIhaul
  repeat' (first
    | with_reducible assumption
    | with_reducible refine State.setDie_framed (Framed.sub h) ?_ ?_
    | ((with_reducible refine fun (hn : Part.slices ∉ ps) => ?_); first | exact absurd (h (by decide)) hn | exact Framed.die hs hn _ | exact Framed.die (by assumption) hn _ | exact (hs _ hn).1 | exact (hs _ hn).2 | simpa using Framed.die hs hn _)
    | with_reducible refine State.checkUses_framed (Framed.sub h) ?_
    | with_reducible refine State.setReg_framed (Framed.sub h) ?_
    | with_reducible refine State.setField_framed (Framed.sub h) ?_
    | (fail_if_no_progress extract_lets +onlyGivenNames x
       refine cutL (p := Framed ps z x) ?_ ?_; subst x; rotate_left; intro hs; try clear_value x; rotate_right)
    | (fail_if_no_progress extract_lets +onlyGivenNames x
       first
       | (have hd : List _ := x; clear hd; clear_value x)
       | (have hd : Bool := x; clear hd; clear_value x)
       | (have hd : Nat := x; clear hd; clear_value x)
       | subst x)
    | fail_if_no_progress beta_reduce
    | with_reducible refine Framed.ite ?_ ?_
    | split
    | ((with_reducible refine Framed.upd ?_ ?_); rotate_left; intro p hp; cases p <;> first | exact absurd (h (by decide)) hp | rfl | exact ⟨rfl, rfl⟩))

theorem execIhaulGo_framed {ps : List Part} (h : [Part.dev, .regs, .badRegs, .queue, .sys, .tick, .plan, .dies, .chans, .host, .kl, .safe, .dep, .tally, .out] ⊆ ps) {z s : State} {d : Die} {c : Nat}
    (hs : Framed ps z s) : OutFramed ps z (execIhaulGo d c s) := by
  unfold execIhaulGo
  repeat' (first
    | with_reducible assumption
    | with_reducible refine OutFramed.named ?_
    | with_reducible refine State.write32_framed (Framed.sub h) ?_ (fun _ hs => ?_)
    | with_reducible refine State.softIhaul_framed (Framed.sub h) ?_)

end Sys2Proof.Machine
end

