-- ==== Sys2Proof/Laws/FrameSweep.lean ====
section
/-! SUPPORT. The parts of the state that the operations of Machine/Sweep.lean can change. -/

set_option Elab.async false
set_option linter.unusedTactic false
set_option linter.unreachableTactic false
set_option linter.unusedVariables false
set_option linter.tactic.unusedName false

namespace Sys2Proof.Machine
open Sys2Proof

theorem State.countSamples_framed {ps : List Part} (h : [Part.regs, .plan] ⊆ ps) {z s : State} {d : Die} {n : Nat} {k : Nat}
    (hs : Framed ps z s) : Framed ps z (State.countSamples s d n k) := by
  unfold State.countSamples
  repeat' (first
    | with_reducible assumption
    | with_reducible refine State.event_framed (Framed.sub h) ?_
    | with_reducible refine State.count_framed (Framed.sub h) ?_
    | with_reducible refine State.when_framed ?_ (fun _ hs => ?_)
    | (fail_if_no_progress extract_lets +onlyGivenNames x
       refine cutL (p := Framed ps z x) ?_ ?_; subst x; rotate_left; intro hs; try clear_value x; rotate_right)
    | (fail_if_no_progress extract_lets +onlyGivenNames x
       first
       | (have hd : List _ := x; clear hd; clear_value x)
       | (have hd : Bool := x; clear hd; clear_value x)
       | (have hd : Nat := x; clear hd; clear_value x)
       | subst x)
    | ((with_reducible refine Framed.upd ?_ ?_); rotate_left; intro p hp; cases p <;> first | exact absurd (h (by decide)) hp | rfl | exact ⟨rfl, rfl⟩))

theorem State.countEngine_framed {ps : List Part} (h : [Part.regs] ⊆ ps) {z s : State} {d : Die} {p_ : Nat} {n : Nat}
    (hs : Framed ps z s) : Framed ps z (State.countEngine s d p_ n) := by
  unfold State.countEngine
  repeat' (first
    | with_reducible assumption
    | with_reducible refine State.setPair_framed (Framed.sub h) ?_)

theorem State.broadcastAgents_framed {ps : List Part} (h : [Part.mem, .slices] ⊆ ps) {z s : State} {d : Die} {t_ : Nat}
    (hs : Framed ps z s) : Framed ps z (State.broadcastAgents s d t_) := by
  unfold State.broadcastAgents
  repeat' (first
    | with_reducible assumption
    | with_reducible refine State.when_framed ?_ (fun _ hs => ?_)
    | with_reducible refine State.when_framed ?_ (fun _ hs => ?_)
    | with_reducible refine State.storeWin_framed (Framed.sub h) ?_
    | (fail_if_no_progress extract_lets +onlyGivenNames x
       refine cutL (p := Framed ps z x) ?_ ?_; subst x; rotate_left; intro hs; try clear_value x; rotate_right)
    | (fail_if_no_progress extract_lets +onlyGivenNames x
       first
       | (have hd : List _ := x; clear hd; clear_value x)
       | (have hd : Bool := x; clear hd; clear_value x)
       | (have hd : Nat := x; clear hd; clear_value x)
       | subst x)
    | fail_if_no_progress beta_reduce
    | with_reducible refine Framed.foldl ?_ (fun _ hs _ => ?_)
    | split
    | dsimp only)

theorem State.countStep_framed {ps : List Part} (h : [Part.regs, .dies] ⊆ ps) {z s : State} {d : Die} {t_ : Nat} {cycles : Nat}
    (hs : Framed ps z s) : Framed ps z (State.countStep s d t_ cycles) := by
  unfold State.countStep
  repeat' (first
    | with_reducible assumption
    | with_reducible refine State.setDie_framed (Framed.sub h) ?_ ?_
    | ((with_reducible refine fun (hn : Part.slices ∉ ps) => ?_); first | exact absurd (h (by decide)) hn | exact Framed.die hs hn _ | exact Framed.die (by assumption) hn _ | exact (hs _ hn).1 | exact (hs _ hn).2 | simpa using Framed.die hs hn _)
    | with_reducible refine State.setReg_framed (Framed.sub h) ?_
    | with_reducible refine State.count_framed (Framed.sub h) ?_
    | (fail_if_no_progress extract_lets +onlyGivenNames x
       refine cutL (p := Framed ps z x) ?_ ?_; subst x; rotate_left; intro hs; try clear_value x; rotate_right)
    | (fail_if_no_progress extract_lets +onlyGivenNames x
       first
       | (have hd : List _ := x; clear hd; clear_value x)
       | (have hd : Bool := x; clear hd; clear_value x)
       | (have hd : Nat := x; clear hd; clear_value x)
       | subst x)
    | fail_if_no_progress beta_reduce
    | with_reducible refine Framed.ite ?_ ?_
    | split
    | ((with_reducible refine Framed.upd ?_ ?_); rotate_left; intro p hp; cases p <;> first | exact absurd (h (by decide)) hp | rfl | exact ⟨rfl, rfl⟩))

theorem State.accBytes_framed {ps : List Part} (h : [Part.free] ⊆ ps) {z s : State} {bad : Bool} {r : SlotRec}
    (hs : Framed ps z s) : Framed ps z (State.accBytes s bad r).2 := by
  unfold State.accBytes
  repeat' (first
    | with_reducible assumption
    | with_reducible refine State.freeBytes_framed (Framed.sub h) ?_
    | with_reducible exact State.freeBytes_framed_eq (Framed.sub h) (by assumption) (by assumption)
    | with_reducible refine Framed.ite ?_ ?_
    | split)

theorem State.accBytes_framed_eq {ps : List Part} (h : [Part.free] ⊆ ps) {z s tt : State} {pr : List Byte} {bad : Bool} {r : SlotRec}
    (he : (State.accBytes s bad r) = (pr, tt)) (hs : Framed ps z s) : Framed ps z tt := by
  have := State.accBytes_framed (bad := bad) (r := r) h hs
  rw [he] at this; exact this

theorem State.storeAccs_framed {ps : List Part} (h : [Part.free, .mem, .slices] ⊆ ps) {z s : State} {d : Die} {set : Nat}
    {bad : List Nat} {q0 : List (Nat × SlotRec)} (hs : Framed ps z s) : Framed ps z (s.storeAccs d set bad q0) := by
  induction q0 generalizing s with
  | nil => exact hs
  | cons e l ih => exact ih (State.storeWin_framed (Framed.sub h) (State.accBytes_framed (Framed.sub h) hs))

theorem State.performStep_framed {ps : List Part} (h : [Part.free, .regs, .mem, .slices, .plan, .dies] ⊆ ps) {z s : State} {d : Die} {p_ : Nat} {l : Nat} {t_ : Nat} {w : ReWork} {bad : List Nat}
    (hs : Framed ps z s) : Framed ps z (State.performStep s d p_ l t_ w bad) := by
  unfold State.performStep
  repeat' (first
    | with_reducible assumption
    | with_reducible refine State.when_framed ?_ (fun _ hs => ?_)
    | with_reducible refine State.storeWin_framed (Framed.sub h) ?_
    | with_reducible refine State.when_framed ?_ (fun _ hs => ?_)
    | with_reducible refine State.storeAccs_framed (Framed.sub h) ?_
    | with_reducible refine State.engineStore_framed (Framed.sub h) ?_
    | with_reducible refine State.countEngine_framed (Framed.sub h) ?_
    | with_reducible refine State.countSamples_framed (Framed.sub h) ?_
    | with_reducible refine State.countStep_framed (Framed.sub h) ?_
    | (fail_if_no_progress extract_lets +onlyGivenNames x
       refine cutL (p := Framed ps z x) ?_ ?_; subst x; rotate_left; intro hs; try clear_value x; rotate_right)
    | (fail_if_no_progress extract_lets +onlyGivenNames x
       first
       | (have hd : List _ := x; clear hd; clear_value x)
       | (have hd : Bool := x; clear hd; clear_value x)
       | (have hd : Nat := x; clear hd; clear_value x)
       | subst x)
    | fail_if_no_progress beta_reduce
    | with_reducible refine Framed.ite ?_ ?_
    | with_reducible refine Framed.foldl ?_ (fun _ hs _ => ?_)
    | split)

theorem State.countEngineCe_framed {ps : List Part} (h : [Part.regs] ⊆ ps) {z s : State} {d : Die} {p_ : Nat} {n : Nat}
    (hs : Framed ps z s) : Framed ps z (State.countEngineCe s d p_ n) := by
  unfold State.countEngineCe
  repeat' (first
    | with_reducible assumption
    | with_reducible refine State.count_framed (Framed.sub h) ?_)

theorem execSweepStep_framed {ps : List Part} (h : [Part.free, .regs, .mem, .slices, .plan, .dies, .host, .tally, .out] ⊆ ps) {z s : State} {d : Die} {p_ : Nat} {t_ : Nat} {met : StepMet}
    (hs : Framed ps z s) : OutFramed ps z (execSweepStep d p_ t_ met s) := by
  unfold execSweepStep
  repeat' (first
    | with_reducible assumption
    | with_reducible refine OutFramed.named ?_
    | with_reducible refine State.when_framed ?_ (fun _ hs => ?_)
    | with_reducible refine State.setDie_framed (Framed.sub h) ?_ ?_
    | ((with_reducible refine fun (hn : Part.slices ∉ ps) => ?_); first | exact absurd (h (by decide)) hn | exact Framed.die hs hn _ | exact Framed.die (by assumption) hn _ | exact (hs _ hn).1 | exact (hs _ hn).2 | simpa using Framed.die hs hn _)
    | with_reducible refine State.when_framed ?_ (fun _ hs => ?_)
    | with_reducible refine State.broadcastAgents_framed (Framed.sub h) ?_
    | with_reducible refine State.countEngineCe_framed (Framed.sub h) ?_
    | with_reducible refine State.performStep_framed (Framed.sub h) ?_
    | with_reducible refine State.engineFault_framed (Framed.sub h) ?_
    | (fail_if_no_progress extract_lets +onlyGivenNames x
       refine cutL (p := Framed ps z x) ?_ ?_; subst x; rotate_left; intro hs; try clear_value x; rotate_right)
    | (fail_if_no_progress extract_lets +onlyGivenNames x
       first
       | (have hd : List _ := x; clear hd; clear_value x)
       | (have hd : Bool := x; clear hd; clear_value x)
       | (have hd : Nat := x; clear hd; clear_value x)
       | subst x)
    | fail_if_no_progress beta_reduce
    | with_reducible refine Framed.ite ?_ ?_
    | split
    | ((with_reducible refine Framed.upd ?_ ?_); rotate_left; intro p hp; cases p <;> first | exact absurd (h (by decide)) hp | rfl | exact ⟨rfl, rfl⟩)
    | dsimp only)

theorem State.canaryFails_framed {ps : List Part} (h : [Part.regs, .plan, .dies, .host, .tally, .out] ⊆ ps) {z s : State} {d : Die} {p_ : Nat} {logical : Nat} {first : Nat}
    (hs : Framed ps z s) : Framed ps z (State.canaryFails s d p_ logical first) := by
  unfold State.canaryFails
  repeat' (first
    | with_reducible assumption
    | with_reducible refine State.setReg_framed (Framed.sub h) ?_
    | with_reducible refine State.event_framed (Framed.sub h) ?_
    | with_reducible refine State.log_framed (Framed.sub h) ?_
    | with_reducible refine State.invalid_framed (Framed.sub h) ?_
    | with_reducible refine State.setDie_framed (Framed.sub h) ?_ ?_
    | ((with_reducible refine fun (hn : Part.slices ∉ ps) => ?_); first | exact absurd (h (by decide)) hn | exact Framed.die hs hn _ | exact Framed.die (by assumption) hn _ | exact (hs _ hn).1 | exact (hs _ hn).2 | simpa using Framed.die hs hn _))

theorem State.canaryOut_framed {ps : List Part} (h : [Part.free] ⊆ ps) {z s : State} {corrupt : List Nat} {p_ : Nat} {rs : List Byte}
    (hs : Framed ps z s) : Framed ps z (State.canaryOut s corrupt p_ rs).2 := by
  unfold State.canaryOut
  repeat' (first
    | with_reducible assumption
    | with_reducible refine State.freeBytes_framed (Framed.sub h) ?_
    | split)

theorem State.canaryOut_framed_eq {ps : List Part} (h : [Part.free] ⊆ ps) {z s tt : State} {pr : List Byte} {corrupt : List Nat} {p_ : Nat} {rs : List Byte}
    (he : (State.canaryOut s corrupt p_ rs) = (pr, tt)) (hs : Framed ps z s) : Framed ps z tt := by
  have := State.canaryOut_framed (corrupt := corrupt) (p_ := p_) (rs := rs) h hs
  rw [he] at this; exact this

theorem State.endCanary_framed {ps : List Part} (h : [Part.free, .regs, .mem, .slices, .plan, .dies, .host, .tally, .out] ⊆ ps) {z s : State} {d : Die} {corrupt : List Nat} {p_ : Nat}
    (hs : Framed ps z s) : Framed ps z (State.endCanary s d corrupt p_) := by
  unfold State.endCanary
  repeat' (first
    | with_reducible assumption
    | with_reducible refine State.storeWin_framed (Framed.sub h) ?_
    | with_reducible refine State.countEngine_framed (Framed.sub h) ?_
    | with_reducible refine State.canaryFails_framed (Framed.sub h) ?_
    | with_reducible exact State.canaryOut_framed_eq (Framed.sub h) (by assumption) (by assumption)
    | with_reducible refine State.setDie_framed (Framed.sub h) ?_ ?_
    | ((with_reducible refine fun (hn : Part.slices ∉ ps) => ?_); first | exact absurd (h (by decide)) hn | exact Framed.die hs hn _ | exact Framed.die (by assumption) hn _ | exact (hs _ hn).1 | exact (hs _ hn).2 | simpa using Framed.die hs hn _)
    | (fail_if_no_progress extract_lets +onlyGivenNames x
       refine cutL (p := Framed ps z x) ?_ ?_; subst x; rotate_left; intro hs; try clear_value x; rotate_right)
    | (fail_if_no_progress extract_lets +onlyGivenNames x
       first
       | (have hd : List _ := x; clear hd; clear_value x)
       | (have hd : Bool := x; clear hd; clear_value x)
       | (have hd : Nat := x; clear hd; clear_value x)
       | subst x)
    | split)

theorem State.slotErrors_framed {ps : List Part} (h : [Part.regs, .plan, .dies, .host, .tally, .out] ⊆ ps) {z s : State} {d : Die} {ue : List (Nat × Nat)} {ce : List (Nat × Nat)}
    (hs : Framed ps z s) : Framed ps z (State.slotErrors s d ue ce) := by
  unfold State.slotErrors
  repeat' (first
    | with_reducible assumption
    | with_reducible refine State.countEngineCe_framed (Framed.sub h) ?_
    | with_reducible refine State.engineFault_framed (Framed.sub h) ?_
    | (fail_if_no_progress extract_lets +onlyGivenNames x
       refine cutL (p := Framed ps z x) ?_ ?_; subst x; rotate_left; intro hs; try clear_value x; rotate_right)
    | (fail_if_no_progress extract_lets +onlyGivenNames x
       first
       | (have hd : List _ := x; clear hd; clear_value x)
       | (have hd : Bool := x; clear hd; clear_value x)
       | (have hd : Nat := x; clear hd; clear_value x)
       | subst x)
    | fail_if_no_progress beta_reduce
    | with_reducible refine Framed.foldl ?_ (fun _ hs _ => ?_)
    | split
    | dsimp only)

theorem execCanarySlotEnd_framed {ps : List Part} (h : [Part.free, .regs, .mem, .slices, .plan, .dies, .host, .dep, .tally, .out] ⊆ ps) {z s : State} {d : Die} {corrupt : List Nat} {met : CanaryMet}
    (hs : Framed ps z s) : OutFramed ps z (execCanarySlotEnd d corrupt met s) := by
  unfold execCanarySlotEnd
  repeat' (first
    | with_reducible assumption
    | with_reducible refine OutFramed.next ?_
    | with_reducible refine State.when_framed ?_ (fun _ hs => ?_)
    | with_reducible refine State.when_framed ?_ (fun _ hs => ?_)
    | with_reducible refine State.slotErrors_framed (Framed.sub h) ?_
    | with_reducible refine State.endCanary_framed (Framed.sub h) ?_
    | with_reducible refine State.setReg_framed (Framed.sub h) ?_
    | (fail_if_no_progress extract_lets +onlyGivenNames x
       refine cutL (p := Framed ps z x) ?_ ?_; subst x; rotate_left; intro hs; try clear_value x; rotate_right)
    | (fail_if_no_progress extract_lets +onlyGivenNames x
       first
       | (have hd : List _ := x; clear hd; clear_value x)
       | (have hd : Bool := x; clear hd; clear_value x)
       | (have hd : Nat := x; clear hd; clear_value x)
       | subst x)
    | fail_if_no_progress beta_reduce
    | with_reducible refine Framed.foldl ?_ (fun _ hs _ => ?_)
    | split
    | ((with_reducible refine Framed.upd ?_ ?_); rotate_left; intro p hp; cases p <;> first | exact absurd (h (by decide)) hp | rfl | exact ⟨rfl, rfl⟩)
    | dsimp only)

end Sys2Proof.Machine
end

