-- ==== Sys2Proof/Laws/FramePolicyArray.lean ====
section
/-! SUPPORT. The parts of the state that the operations of Machine/PolicyArray.lean can change. -/

set_option Elab.async false
set_option linter.unusedTactic false
set_option linter.unreachableTactic false
set_option linter.unusedVariables false
set_option linter.tactic.unusedName false

namespace Sys2Proof.Machine
open Sys2Proof

theorem State.putRow_framed {ps : List Part} (h : [Part.mem, .slices] ⊆ ps) {z s : State} {d : Die} {t : TensorRef} {m : Nat} {n : Nat} {vs : List PVal}
    (hs : Framed ps z s) : Framed ps z (State.putRow s d t m n vs) := by
  unfold State.putRow
  repeat' (first
    | with_reducible assumption
    | with_reducible refine State.storeWin_framed (Framed.sub h) ?_)

theorem State.putAll_framed {ps : List Part} (h : [Part.mem, .slices] ⊆ ps) {z s : State} {t : TensorRef} {m : Nat} {n : Nat} {vs : List PVal}
    (hs : Framed ps z s) : Framed ps z (State.putAll s t m n vs) := by
  unfold State.putAll
  repeat' (first
    | with_reducible assumption
    | with_reducible refine State.putRow_framed (Framed.sub h) ?_
    | with_reducible refine Framed.foldl ?_ (fun _ hs _ => ?_))

theorem State.doLinear_framed {ps : List Part} (h : [Part.mem, .slices] ⊆ ps) {z s : State} {d : Die} {x_ : TensorRef} {y : TensorRef} {w : Weights} {split : Option Nat} {kSplit : Bool} {post : List PostOp}
    (hs : Framed ps z s) : Framed ps z (State.doLinear s d x_ y w split kSplit post) := by
  unfold State.doLinear
  repeat' (first
    | with_reducible assumption
    | with_reducible refine State.putAll_framed (Framed.sub h) ?_
    | (fail_if_no_progress extract_lets +onlyGivenNames x
       refine cutL (p := Framed ps z x) ?_ ?_; subst x; rotate_left; intro hs; try clear_value x; rotate_right)
    | (fail_if_no_progress extract_lets +onlyGivenNames x
       first
       | (have hd : List _ := x; clear hd; clear_value x)
       | (have hd : Bool := x; clear hd; clear_value x)
       | (have hd : Nat := x; clear hd; clear_value x)
       | subst x)
    | fail_if_no_progress beta_reduce
    | with_reducible refine Framed.ite ?_ ?_
    | with_reducible refine Framed.foldl ?_ (fun _ hs _ => ?_)
    | split)

theorem State.doConv_framed {ps : List Part} (h : [Part.mem, .slices] ⊆ ps) {z s : State} {d : Die} {x_ : TensorRef} {y : TensorRef} {w : Weights} {taps : Nat} {split : Option Nat} {kSplit : Bool} {post : List PostOp}
    (hs : Framed ps z s) : Framed ps z (State.doConv s d x_ y w taps split kSplit post) := by
  unfold State.doConv
  repeat' (first
    | with_reducible assumption
    | with_reducible refine State.putAll_framed (Framed.sub h) ?_
    | (fail_if_no_progress extract_lets +onlyGivenNames x
       refine cutL (p := Framed ps z x) ?_ ?_; subst x; rotate_left; intro hs; try clear_value x; rotate_right)
    | (fail_if_no_progress extract_lets +onlyGivenNames x
       first
       | (have hd : List _ := x; clear hd; clear_value x)
       | (have hd : Bool := x; clear hd; clear_value x)
       | (have hd : Nat := x; clear hd; clear_value x)
       | subst x)
    | fail_if_no_progress beta_reduce
    | with_reducible refine Framed.ite ?_ ?_
    | with_reducible refine Framed.foldl ?_ (fun _ hs _ => ?_)
    | split)

theorem State.doAttention_framed {ps : List Part} (h : [Part.mem, .slices] ⊆ ps) {z s : State} {d : Die} {q : TensorRef} {k : TensorRef} {v : TensorRef} {y : TensorRef} {heads : Nat} {hd : Nat} {split : Option Nat} {mask : Option TensorRef} {scale : Word} {pInv : Word} {post : List PostOp}
    (hs : Framed ps z s) : Framed ps z (State.doAttention s d q k v y heads hd split mask scale pInv post) := by
  unfold State.doAttention
  repeat' (first
    | with_reducible assumption
    | with_reducible refine State.putAll_framed (Framed.sub h) ?_
    | (fail_if_no_progress extract_lets +onlyGivenNames x
       refine cutL (p := Framed ps z x) ?_ ?_; subst x; rotate_left; intro hs; try clear_value x; rotate_right)
    | (fail_if_no_progress extract_lets +onlyGivenNames x
       first
       | (have hd : List _ := x; clear hd; clear_value x)
       | (have hd : Bool := x; clear hd; clear_value x)
       | (have hd : Nat := x; clear hd; clear_value x)
       | subst x)
    | fail_if_no_progress beta_reduce
    | with_reducible refine Framed.ite ?_ ?_
    | with_reducible refine Framed.foldl ?_ (fun _ hs _ => ?_)
    | split)

theorem State.mapRows_framed {ps : List Part} (h : [Part.mem, .slices] ⊆ ps) {z s : State} {d : Die} {y : TensorRef} {post : List PostOp} {f : Nat → List F32}
    (hs : Framed ps z s) : Framed ps z (State.mapRows s d y post f) := by
  unfold State.mapRows
  repeat' (first
    | with_reducible assumption
    | with_reducible refine State.putRow_framed (Framed.sub h) ?_
    | with_reducible refine Framed.foldl ?_ (fun _ hs _ => ?_))

theorem State.putAnchors_framed {ps : List Part} (h : [Part.regs, .mem, .slices] ⊆ ps) {z s : State} {d : Die} {as_ : List Anchor}
    (hs : Framed ps z s) : Framed ps z (State.putAnchors s d as_) := by
  unfold State.putAnchors
  repeat' (first
    | with_reducible assumption
    | with_reducible refine State.event_framed (Framed.sub h) ?_
    | with_reducible refine State.storeWin_framed (Framed.sub h) ?_
    | with_reducible refine State.when_framed ?_ (fun _ hs => ?_))

theorem State.performOp_framed {ps : List Part} (h : [Part.regs, .mem, .slices] ⊆ ps) {z s : State} {d : Die} {net : Nat} {q0 : PaOp}
    (hs : Framed ps z s) : Framed ps z (State.performOp s d net q0) := by
  unfold State.performOp
  repeat' (first
    | with_reducible assumption
    | with_reducible refine State.when_framed ?_ (fun _ hs => ?_)
    | with_reducible refine State.putRow_framed (Framed.sub h) ?_
    | with_reducible refine State.doLinear_framed (Framed.sub h) ?_
    | with_reducible refine State.doConv_framed (Framed.sub h) ?_
    | with_reducible refine State.doAttention_framed (Framed.sub h) ?_
    | with_reducible refine State.mapRows_framed (Framed.sub h) ?_
    | with_reducible refine State.storeWin_framed (Framed.sub h) ?_
    | with_reducible refine State.when_framed ?_ (fun _ hs => ?_)
    | with_reducible refine State.putAnchors_framed (Framed.sub h) ?_
    | (fail_if_no_progress extract_lets +onlyGivenNames x
       refine cutL (p := Framed ps z x) ?_ ?_; subst x; rotate_left; intro hs; try clear_value x; rotate_right)
    | (fail_if_no_progress extract_lets +onlyGivenNames x
       first
       | (have hd : List _ := x; clear hd; clear_value x)
       | (have hd : Bool := x; clear hd; clear_value x)
       | (have hd : Nat := x; clear hd; clear_value x)
       | subst x)
    | fail_if_no_progress beta_reduce
    | with_reducible refine Framed.foldl ?_ (fun _ hs _ => ?_)
    | split
    | dsimp only)

theorem State.spoil_framed {ps : List Part} (h : [Part.free, .mem, .slices] ⊆ ps) {z s : State} {h_ : Die} {o : PaOp} {rows : List Nat}
    (hs : Framed ps z s) : Framed ps z (State.spoil s h_ o rows) := by
  unfold State.spoil
  repeat' (first
    | with_reducible assumption
    | with_reducible refine State.freeBytes_framed (Framed.sub h) ?_
    | with_reducible exact State.freeBytes_framed_eq (Framed.sub h) (by assumption) (by assumption)
    | with_reducible refine State.storeWin_framed (Framed.sub h) ?_
    | (fail_if_no_progress extract_lets +onlyGivenNames x
       refine cutL (p := Framed ps z x) ?_ ?_; subst x; rotate_left; intro hs; try clear_value x; rotate_right)
    | (fail_if_no_progress extract_lets +onlyGivenNames x
       first
       | (have hd : List _ := x; clear hd; clear_value x)
       | (have hd : Bool := x; clear hd; clear_value x)
       | (have hd : Nat := x; clear hd; clear_value x)
       | subst x)
    | fail_if_no_progress beta_reduce
    | with_reducible refine Framed.foldl ?_ (fun _ hs _ => ?_)
    | split
    | dsimp only)

theorem State.fetchWeights_framed {ps : List Part} (h : [Part.regs, .mem, .slices, .dies] ⊆ ps) {z s : State} {d : Die} {h_ : Die} {net : Nat} {op : Nat} {o : PaOp}
    (hs : Framed ps z s) : Framed ps z (State.fetchWeights s d h_ net op o) := by
  unfold State.fetchWeights
  repeat' (first
    | with_reducible assumption
    | with_reducible refine State.setDie_framed (Framed.sub h) ?_ ?_
    | ((with_reducible refine fun (hn : Part.slices ∉ ps) => ?_); first | exact absurd (h (by decide)) hn | exact Framed.die hs hn _ | exact Framed.die (by assumption) hn _ | exact (hs _ hn).1 | exact (hs _ hn).2 | simpa using Framed.die hs hn _)
    | with_reducible refine State.afterFront_framed (Framed.sub h) ?_ (fun _ hs => ?_)
    | with_reducible refine State.storeWin_framed (Framed.sub h) ?_
    | with_reducible refine State.count_framed (Framed.sub h) ?_
    | (fail_if_no_progress extract_lets +onlyGivenNames x
       refine cutL (p := Framed ps z x) ?_ ?_; subst x; rotate_left; intro hs; try clear_value x; rotate_right)
    | (fail_if_no_progress extract_lets +onlyGivenNames x
       first
       | (have hd : List _ := x; clear hd; clear_value x)
       | (have hd : Bool := x; clear hd; clear_value x)
       | (have hd : Nat := x; clear hd; clear_value x)
       | subst x)
    | fail_if_no_progress beta_reduce
    | with_reducible refine Framed.ite ?_ ?_
    | with_reducible refine Framed.foldl ?_ (fun _ hs _ => ?_)
    | split
    | ((with_reducible refine Framed.upd ?_ ?_); rotate_left; intro p hp; cases p <;> first | exact absurd (h (by decide)) hp | rfl | exact ⟨rfl, rfl⟩)
    | dsimp only)

theorem State.runOp_framed {ps : List Part} (h : [Part.regs, .mem, .slices] ⊆ ps) {z s : State} {d : Die} {h_ : Die} {net : Nat} {op : Nat} {o : PaOp}
    (hs : Framed ps z s) : Framed ps z (State.runOp s d h_ net op o) := by
  unfold State.runOp
  repeat' (first
    | with_reducible assumption
    | with_reducible refine State.performOp_framed (Framed.sub h) ?_
    | (fail_if_no_progress extract_lets +onlyGivenNames x
       refine cutL (p := Framed ps z x) ?_ ?_; subst x; rotate_left; intro hs; try clear_value x; rotate_right)
    | (fail_if_no_progress extract_lets +onlyGivenNames x
       first
       | (have hd : List _ := x; clear hd; clear_value x)
       | (have hd : Bool := x; clear hd; clear_value x)
       | (have hd : Nat := x; clear hd; clear_value x)
       | subst x)
    | fail_if_no_progress beta_reduce
    | with_reducible refine Framed.ite ?_ ?_
    | split
    | ((with_reducible refine Framed.upd ?_ ?_); rotate_left; intro p hp; cases p <;> first | exact absurd (h (by decide)) hp | rfl | exact ⟨rfl, rfl⟩))

end Sys2Proof.Machine
end

