-- ==== Sys2Proof/Laws/FrameTasks.lean ====
section
/-! SUPPORT. The parts of the state that the operations of Machine/Tasks.lean can change. -/

set_option Elab.async false
set_option linter.unusedTactic false
set_option linter.unreachableTactic false
set_option linter.unusedVariables false
set_option linter.tactic.unusedName false

namespace Sys2Proof.Machine
open Sys2Proof

theorem State.countBlock_framed {ps : List Part} (h : [Part.regs] ⊆ ps) {z s : State} {d : Die} {n0 : Nat}
    (hs : Framed ps z s) : Framed ps z (State.countBlock s d n0) := by
  unfold State.countBlock
  repeat' (first
    | with_reducible assumption
    | with_reducible refine State.setReg_framed (Framed.sub h) ?_
    | with_reducible refine State.event_framed (Framed.sub h) ?_
    | with_reducible refine State.count_framed (Framed.sub h) ?_
    | with_reducible refine State.when_framed ?_ (fun _ hs => ?_))

theorem State.writeParents_framed {ps : List Part} (h : [Part.mem, .slices] ⊆ ps) {z s : State} {d : Die} {w : ReWork}
    (hs : Framed ps z s) : Framed ps z (State.writeParents s d w) := by
  unfold State.writeParents
  repeat' (first
    | with_reducible assumption
    | with_reducible refine State.storeWin_framed (Framed.sub h) ?_
    | (fail_if_no_progress extract_lets +onlyGivenNames x
       refine cutL (p := Framed ps z x) ?_ ?_; subst x; rotate_left; intro hs; try clear_value x; rotate_right)
    | (fail_if_no_progress extract_lets +onlyGivenNames x
       first
       | (have hd : List _ := x; clear hd; clear_value x)
       | (have hd : Bool := x; clear hd; clear_value x)
       | (have hd : Nat := x; clear hd; clear_value x)
       | subst x)
    | fail_if_no_progress beta_reduce
    | with_reducible refine Framed.ite ?_ ?_
    | with_reducible refine Framed.foldl ?_ (fun _ hs _ => ?_)
    | split)

theorem State.startBlock_framed {ps : List Part} (h : [Part.regs, .mem, .slices, .dies] ⊆ ps) {z s : State} {d : Die} {t_ : Nat} {r : Nat} {desc : ReDesc}
    (hs : Framed ps z s) : Framed ps z (State.startBlock s d t_ r desc) := by
  unfold State.startBlock
  repeat' (first
    | with_reducible assumption
    | with_reducible refine State.when_framed ?_ (fun _ hs => ?_)
    | with_reducible refine State.setDie_framed (Framed.sub h) ?_ ?_
    | ((with_reducible refine fun (hn : Part.slices ∉ ps) => ?_); first | exact absurd (h (by decide)) hn | exact Framed.die hs hn _ | exact Framed.die (by assumption) hn _ | exact (hs _ hn).1 | exact (hs _ hn).2 | simpa using Framed.die hs hn _)
    | with_reducible refine State.when_framed ?_ (fun _ hs => ?_)
    | with_reducible refine State.countBlock_framed (Framed.sub h) ?_
    | with_reducible refine State.writeParents_framed (Framed.sub h) ?_
    | with_reducible refine State.event_framed (Framed.sub h) ?_
    | (fail_if_no_progress extract_lets +onlyGivenNames x
       refine cutL (p := Framed ps z x) ?_ ?_; subst x; rotate_left; intro hs; try clear_value x; rotate_right)
    | (fail_if_no_progress extract_lets +onlyGivenNames x
       first
       | (have hd : List _ := x; clear hd; clear_value x)
       | (have hd : Bool := x; clear hd; clear_value x)
       | (have hd : Nat := x; clear hd; clear_value x)
       | subst x)
    | fail_if_no_progress beta_reduce
    | with_reducible refine Framed.foldl ?_ (fun _ hs _ => ?_)
    | split
    | ((with_reducible refine Framed.upd ?_ ?_); rotate_left; intro p hp; cases p <;> first | exact absurd (h (by decide)) hp | rfl | exact ⟨rfl, rfl⟩)
    | dsimp only)

theorem State.endDirect_framed {ps : List Part} (h : [Part.mem, .slices, .plan] ⊆ ps) {z s : State} {d : Die} {w : ReWork} {jobs : List SlotJob}
    (hs : Framed ps z s) : Framed ps z (State.endDirect s d w jobs) := by
  unfold State.endDirect
  repeat' (first
    | with_reducible assumption
    | with_reducible refine State.engineStore_framed (Framed.sub h) ?_
    | (fail_if_no_progress extract_lets +onlyGivenNames x
       refine cutL (p := Framed ps z x) ?_ ?_; subst x; rotate_left; intro hs; try clear_value x; rotate_right)
    | (fail_if_no_progress extract_lets +onlyGivenNames x
       first
       | (have hd : List _ := x; clear hd; clear_value x)
       | (have hd : Bool := x; clear hd; clear_value x)
       | (have hd : Nat := x; clear hd; clear_value x)
       | subst x)
    | fail_if_no_progress beta_reduce
    | with_reducible refine Framed.foldl ?_ (fun _ hs _ => ?_)
    | ((with_reducible refine Framed.upd ?_ ?_); rotate_left; intro p hp; cases p <;> first | exact absurd (h (by decide)) hp | rfl | exact ⟨rfl, rfl⟩))

theorem State.endBlock_framed {ps : List Part} (h : [Part.free, .regs, .mem, .slices, .plan, .dies] ⊆ ps) {z s : State} {d : Die} {r : Nat} {bad : List Nat}
    (hs : Framed ps z s) : Framed ps z (State.endBlock s d r bad) := by
  unfold State.endBlock
  repeat' (first
    | with_reducible assumption
    | with_reducible refine State.when_framed ?_ (fun _ hs => ?_)
    | with_reducible refine State.setDie_framed (Framed.sub h) ?_ ?_
    | ((with_reducible refine fun (hn : Part.slices ∉ ps) => ?_); first | exact absurd (h (by decide)) hn | exact Framed.die hs hn _ | exact Framed.die (by assumption) hn _ | exact (hs _ hn).1 | exact (hs _ hn).2 | simpa using Framed.die hs hn _)
    | with_reducible refine State.freeBytes_framed (Framed.sub h) ?_
    | with_reducible exact State.freeBytes_framed_eq (Framed.sub h) (by assumption) (by assumption)
    | with_reducible refine State.engineStore_framed (Framed.sub h) ?_
    | with_reducible refine State.when_framed ?_ (fun _ hs => ?_)
    | with_reducible refine State.event_framed (Framed.sub h) ?_
    | with_reducible refine State.endDirect_framed (Framed.sub h) ?_
    | (fail_if_no_progress extract_lets +onlyGivenNames x
       refine cutL (p := Framed ps z x) ?_ ?_; subst x; rotate_left; intro hs; try clear_value x; rotate_right)
    | (fail_if_no_progress extract_lets +onlyGivenNames x
       first
       | (have hd : List _ := x; clear hd; clear_value x)
       | (have hd : Bool := x; clear hd; clear_value x)
       | (have hd : Nat := x; clear hd; clear_value x)
       | subst x)
    | fail_if_no_progress beta_reduce
    | with_reducible refine Framed.ite ?_ ?_
    | with_reducible refine Framed.foldl ?_ (fun _ hs _ => ?_)
    | split
    | ((with_reducible refine Framed.upd ?_ ?_); rotate_left; intro p hp; cases p <;> first | exact absurd (h (by decide)) hp | rfl | exact ⟨rfl, rfl⟩)
    | dsimp only)

theorem State.touchHeap_framed {ps : List Part} (h : [Part.free, .mem, .slices] ⊆ ps) {z s : State} {d : Die} {n : Nat}
    (hs : Framed ps z s) : Framed ps z (State.touchHeap s d n) := by
  unfold State.touchHeap
  repeat' (first
    | with_reducible assumption
    | with_reducible refine State.freeBytes_framed (Framed.sub h) ?_
    | with_reducible exact State.freeBytes_framed_eq (Framed.sub h) (by assumption) (by assumption)
    | with_reducible refine State.storeWin_framed (Framed.sub h) ?_
    | (fail_if_no_progress extract_lets +onlyGivenNames x
       refine cutL (p := Framed ps z x) ?_ ?_; subst x; rotate_left; intro hs; try clear_value x; rotate_right)
    | (fail_if_no_progress extract_lets +onlyGivenNames x
       first
       | (have hd : List _ := x; clear hd; clear_value x)
       | (have hd : Bool := x; clear hd; clear_value x)
       | (have hd : Nat := x; clear hd; clear_value x)
       | subst x)
    | fail_if_no_progress beta_reduce
    | split
    | dsimp only)

theorem State.heapInsertAll_framed {ps : List Part} (h : [Part.free, .regs, .mem, .slices, .dies] ⊆ ps) {z s : State} {d : Die} {es : List Element}
    (hs : Framed ps z s) : Framed ps z (State.heapInsertAll s d es) := by
  unfold State.heapInsertAll
  repeat' (first
    | with_reducible assumption
    | with_reducible refine State.when_framed ?_ (fun _ hs => ?_)
    | with_reducible refine State.setDie_framed (Framed.sub h) ?_ ?_
    | ((with_reducible refine fun (hn : Part.slices ∉ ps) => ?_); first | exact absurd (h (by decide)) hn | exact Framed.die hs hn _ | exact Framed.die (by assumption) hn _ | exact (hs _ hn).1 | exact (hs _ hn).2 | simpa using Framed.die hs hn _)
    | with_reducible refine State.touchHeap_framed (Framed.sub h) ?_
    | with_reducible refine State.when_framed ?_ (fun _ hs => ?_)
    | with_reducible refine State.count_framed (Framed.sub h) ?_
    | with_reducible refine State.event_framed (Framed.sub h) ?_
    | (fail_if_no_progress extract_lets +onlyGivenNames x
       refine cutL (p := Framed ps z x) ?_ ?_; subst x; rotate_left; intro hs; try clear_value x; rotate_right)
    | (fail_if_no_progress extract_lets +onlyGivenNames x
       first
       | (have hd : List _ := x; clear hd; clear_value x)
       | (have hd : Bool := x; clear hd; clear_value x)
       | (have hd : Nat := x; clear hd; clear_value x)
       | subst x)
    | fail_if_no_progress beta_reduce
    | with_reducible refine Framed.foldl ?_ (fun _ hs _ => ?_)
    | split
    | ((with_reducible refine Framed.upd ?_ ?_); rotate_left; intro p hp; cases p <;> first | exact absurd (h (by decide)) hp | rfl | exact ⟨rfl, rfl⟩)
    | dsimp only)

theorem State.expandRound_framed {ps : List Part} (h : [Part.free, .regs, .mem, .slices, .dies] ⊆ ps) {z s : State} {d : Die} {round : Nat}
    (hs : Framed ps z s) : Framed ps z (State.expandRound s d round) := by
  unfold State.expandRound
  repeat' (first
    | with_reducible assumption
    | with_reducible refine State.when_framed ?_ (fun _ hs => ?_)
    | with_reducible refine State.setDie_framed (Framed.sub h) ?_ ?_
    | ((with_reducible refine fun (hn : Part.slices ∉ ps) => ?_); first | exact absurd (h (by decide)) hn | exact Framed.die hs hn _ | exact Framed.die (by assumption) hn _ | exact (hs _ hn).1 | exact (hs _ hn).2 | simpa using Framed.die hs hn _)
    | with_reducible refine State.touchHeap_framed (Framed.sub h) ?_
    | with_reducible refine State.storeWin_framed (Framed.sub h) ?_
    | with_reducible refine State.count_framed (Framed.sub h) ?_
    | with_reducible refine State.when_framed ?_ (fun _ hs => ?_)
    | with_reducible refine State.event_framed (Framed.sub h) ?_
    | (fail_if_no_progress extract_lets +onlyGivenNames x
       refine cutL (p := Framed ps z x) ?_ ?_; subst x; rotate_left; intro hs; try clear_value x; rotate_right)
    | (fail_if_no_progress extract_lets +onlyGivenNames x
       first
       | (have hd : List _ := x; clear hd; clear_value x)
       | (have hd : Bool := x; clear hd; clear_value x)
       | (have hd : Nat := x; clear hd; clear_value x)
       | subst x)
    | fail_if_no_progress beta_reduce
    | with_reducible refine Framed.foldl ?_ (fun _ hs _ => ?_)
    | split
    | ((with_reducible refine Framed.upd ?_ ?_); rotate_left; intro p hp; cases p <;> first | exact absurd (h (by decide)) hp | rfl | exact ⟨rfl, rfl⟩)
    | dsimp only)

theorem State.doHeap_framed {ps : List Part} (h : [Part.free, .regs, .mem, .slices, .dies] ⊆ ps) {z s : State} {d : Die} {x_ : HeapDesc}
    (hs : Framed ps z s) : Framed ps z (State.doHeap s d x_) := by
  unfold State.doHeap
  repeat' (first
    | with_reducible assumption
    | with_reducible refine State.heapInsertAll_framed (Framed.sub h) ?_
    | with_reducible refine State.expandRound_framed (Framed.sub h) ?_
    | split)

theorem State.heapError_framed {ps : List Part} (h : [Part.free, .regs, .plan, .host, .tally, .out] ⊆ ps) {z s : State} {d : Die}
    (hs : Framed ps z s) : Framed ps z (State.heapError s d) := by
  unfold State.heapError
  repeat' (first
    | with_reducible assumption
    | with_reducible refine State.freeWord_framed (Framed.sub h) ?_
    | with_reducible exact State.freeWord_framed_eq (Framed.sub h) (by assumption) (by assumption)
    | with_reducible refine State.heapFault_framed (Framed.sub h) ?_
    | (fail_if_no_progress extract_lets +onlyGivenNames x
       refine cutL (p := Framed ps z x) ?_ ?_; subst x; rotate_left; intro hs; try clear_value x; rotate_right)
    | (fail_if_no_progress extract_lets +onlyGivenNames x
       first
       | (have hd : List _ := x; clear hd; clear_value x)
       | (have hd : Bool := x; clear hd; clear_value x)
       | (have hd : Nat := x; clear hd; clear_value x)
       | subst x)
    | fail_if_no_progress beta_reduce
    | split
    | dsimp only)

theorem State.mapRunning_framed {ps : List Part} (h : [Part.dies] ⊆ ps) {z s : State} {d : Die} {cls : Nat} {e : Nat} {f : Running → Running}
    (hs : Framed ps z s) : Framed ps z (State.mapRunning s d cls e f) := by
  unfold State.mapRunning
  repeat' (first
    | with_reducible assumption
    | with_reducible refine State.setDie_framed (Framed.sub h) ?_ ?_
    | ((with_reducible refine fun (hn : Part.slices ∉ ps) => ?_); first | exact absurd (h (by decide)) hn | exact Framed.die hs hn _ | exact Framed.die (by assumption) hn _ | exact (hs _ hn).1 | exact (hs _ hn).2 | simpa using Framed.die hs hn _)
    | (fail_if_no_progress extract_lets +onlyGivenNames x
       refine cutL (p := Framed ps z x) ?_ ?_; subst x; rotate_left; intro hs; try clear_value x; rotate_right)
    | (fail_if_no_progress extract_lets +onlyGivenNames x
       first
       | (have hd : List _ := x; clear hd; clear_value x)
       | (have hd : Bool := x; clear hd; clear_value x)
       | (have hd : Nat := x; clear hd; clear_value x)
       | subst x)
    | fail_if_no_progress beta_reduce
    | with_reducible refine Framed.ite ?_ ?_
    | split
    | ((with_reducible refine Framed.upd ?_ ?_); rotate_left; intro p hp; cases p <;> first | exact absurd (h (by decide)) hp | rfl | exact ⟨rfl, rfl⟩))

theorem State.mapMover_framed {ps : List Part} (h : [Part.dies] ⊆ ps) {z s : State} {d : Die} {f : Running → Running}
    (hs : Framed ps z s) : Framed ps z (State.mapMover s d f) := by
  unfold State.mapMover
  repeat' (first
    | with_reducible assumption
    | with_reducible refine State.mapRunning_framed (Framed.sub h) ?_)

theorem State.failMover_framed {ps : List Part} (h : [Part.dies] ⊆ ps) {z s : State} {d : Die} {st : Nat}
    (hs : Framed ps z s) : Framed ps z (State.failMover s d st) := by
  unfold State.failMover
  repeat' (first
    | with_reducible assumption
    | with_reducible refine State.mapMover_framed (Framed.sub h) ?_)

theorem State.movePieces_framed {ps : List Part} (h : [Part.regs, .mem, .slices, .dies, .kl, .out] ⊆ ps) {z s : State} {d : Die} {dst : Nat} {bs : List Byte} {q0 : List (Nat × Nat)}
    (hs : Framed ps z s) : Framed ps z (State.movePieces s d dst bs q0) := by
  induction q0 generalizing s d dst bs with
  | nil =>
    unfold State.movePieces
    repeat' (first
      | with_reducible assumption
      | with_reducible refine State.putHere_framed (Framed.sub h) ?_
      | with_reducible exact State.putHere_framed_eq (Framed.sub h) (by assumption) (by assumption)
      | with_reducible refine State.issueRemote_framed (Framed.sub h) ?_
      | with_reducible exact State.issueRemote_framed_eq (Framed.sub h) (by assumption) (by assumption)
      | with_reducible refine State.failMover_framed (Framed.sub h) ?_
      | with_reducible refine State.when_framed ?_ (fun _ hs => ?_)
      | (fail_if_no_progress extract_lets +onlyGivenNames x
         refine cutL (p := Framed ps z x) ?_ ?_; subst x; rotate_left; intro hs; try clear_value x; rotate_right)
      | (fail_if_no_progress extract_lets +onlyGivenNames x
         first
         | (have hd : List _ := x; clear hd; clear_value x)
         | (have hd : Bool := x; clear hd; clear_value x)
         | (have hd : Nat := x; clear hd; clear_value x)
         | subst x)
      | fail_if_no_progress beta_reduce
      | with_reducible refine Framed.ite ?_ ?_
      | split
      | ((with_reducible refine Framed.upd ?_ ?_); rotate_left; intro p hp; cases p <;> first | exact absurd (h (by decide)) hp | rfl | exact ⟨rfl, rfl⟩)
      | dsimp only)
  | cons e l ih =>
    unfold State.movePieces
    repeat' (first
      | with_reducible assumption
      | with_reducible refine ih ?_
      | with_reducible refine State.putHere_framed (Framed.sub h) ?_
      | with_reducible exact State.putHere_framed_eq (Framed.sub h) (by assumption) (by assumption)
      | with_reducible refine State.issueRemote_framed (Framed.sub h) ?_
      | with_reducible exact State.issueRemote_framed_eq (Framed.sub h) (by assumption) (by assumption)
      | with_reducible refine State.failMover_framed (Framed.sub h) ?_
      | with_reducible refine State.when_framed ?_ (fun _ hs => ?_)
      | (fail_if_no_progress extract_lets +onlyGivenNames x
         refine cutL (p := Framed ps z x) ?_ ?_; subst x; rotate_left; intro hs; try clear_value x; rotate_right)
      | (fail_if_no_progress extract_lets +onlyGivenNames x
         first
         | (have hd : List _ := x; clear hd; clear_value x)
         | (have hd : Bool := x; clear hd; clear_value x)
         | (have hd : Nat := x; clear hd; clear_value x)
         | subst x)
      | fail_if_no_progress beta_reduce
      | with_reducible refine Framed.ite ?_ ?_
      | split
      | ((with_reducible refine Framed.upd ?_ ?_); rotate_left; intro p hp; cases p <;> first | exact absurd (h (by decide)) hp | rfl | exact ⟨rfl, rfl⟩)
      | dsimp only)

theorem State.advanceMover_framed {ps : List Part} (h : [Part.regs, .mem, .slices, .dies, .host, .kl, .tally, .out] ⊆ ps) {z s : State} {d : Die} {dst : Nat} {sig : Nat}
    (hs : Framed ps z s) : Framed ps z (State.advanceMover s d dst sig) := by
  unfold State.advanceMover
  repeat' (first
    | with_reducible assumption
    | with_reducible refine State.signalHere_framed (Framed.sub h) ?_
    | with_reducible exact State.issueRemote_framed_eq (Framed.sub h) (by assumption) (by assumption)
    | with_reducible refine State.mapMover_framed (Framed.sub h) ?_
    | with_reducible refine State.failMover_framed (Framed.sub h) ?_
    | with_reducible refine State.when_framed ?_ (fun _ hs => ?_)
    | (fail_if_no_progress extract_lets +onlyGivenNames x
       refine cutL (p := Framed ps z x) ?_ ?_; subst x; rotate_left; intro hs; try clear_value x; rotate_right)
    | with_reducible refine Framed.ite ?_ ?_
    | split)

theorem State.moverReturn_framed {ps : List Part} (h : [Part.regs, .mem, .slices, .dies, .host, .kl, .tally, .out] ⊆ ps) {z s : State} {d : Die} {status : Nat}
    (hs : Framed ps z s) : Framed ps z (State.moverReturn s d status) := by
  unfold State.moverReturn
  repeat' (first
    | with_reducible assumption
    | with_reducible refine State.failMover_framed (Framed.sub h) ?_
    | with_reducible refine State.advanceMover_framed (Framed.sub h) ?_
    | with_reducible refine State.when_framed ?_ (fun _ hs => ?_))

theorem State.readMove_framed {ps : List Part} (h : [Part.regs, .plan, .dies, .host, .tally, .out] ⊆ ps) {z s : State} {fault : Nat} {q0 : List (Nat × Nat)}
    {q1 : List Byte} (hs : Framed ps z s) : Framed ps z (s.readMove fault q0 q1).1 := by
  induction q0 generalizing s fault q1 with
  | nil => exact hs
  | cons e l ih =>
    obtain ⟨a, n⟩ := e
    rw [State.readMove]
    have hp := State.getFaulty_framed (Framed.sub h) (a := a) (n := n) (fault := fault) hs
    generalize s.getFaulty a n fault = p at hp ⊢
    obtain ⟨t, st, b⟩ := p
    dsimp only at hp ⊢
    split
    · exact ih hp
    · exact hp

theorem State.readMove_framed_eq {ps : List Part} (h : [Part.regs, .plan, .dies, .host, .tally, .out] ⊆ ps) {z s tt : State}
    {pr : Nat × List Byte} {fault : Nat} {q0 : List (Nat × Nat)} {q1 : List Byte}
    (he : s.readMove fault q0 q1 = (tt, pr)) (hs : Framed ps z s) : Framed ps z tt := by
  have := State.readMove_framed (fault := fault) (q0 := q0) (q1 := q1) h hs
  rw [he] at this; exact this

theorem State.startMove_framed {ps : List Part} (h : [Part.regs, .mem, .slices, .plan, .dies, .host, .kl, .tally, .out] ⊆ ps) {z s : State} {d : Die} {r : Running} {fault : Nat}
    (hs : Framed ps z s) : Framed ps z (State.startMove s d r fault).1 := by
  unfold State.startMove
  repeat' (first
    | with_reducible assumption
    | with_reducible refine State.readMove_framed (Framed.sub h) ?_
    | with_reducible exact State.readMove_framed_eq (Framed.sub h) (by assumption) (by assumption)
    | with_reducible refine State.failMover_framed (Framed.sub h) ?_
    | with_reducible refine State.movePieces_framed (Framed.sub h) ?_
    | with_reducible refine State.advanceMover_framed (Framed.sub h) ?_
    | (fail_if_no_progress extract_lets +onlyGivenNames x
       refine cutL (p := Framed ps z x) ?_ ?_; subst x; rotate_left; intro hs; try clear_value x; rotate_right)
    | (fail_if_no_progress extract_lets +onlyGivenNames x
       first
       | (have hd : List _ := x; clear hd; clear_value x)
       | (have hd : Bool := x; clear hd; clear_value x)
       | (have hd : Nat := x; clear hd; clear_value x)
       | subst x)
    | fail_if_no_progress beta_reduce
    | with_reducible refine Framed.ite ?_ ?_
    | split
    | dsimp only)
theorem State.startMove_framed_eq {ps : List Part} (h : [Part.regs, .mem, .slices, .plan, .dies, .host, .kl, .tally, .out] ⊆ ps) {z s tt : State} {pr : Bool} {d : Die} {r : Running} {fault : Nat}
    (he : (State.startMove s d r fault) = (tt, pr)) (hs : Framed ps z s) : Framed ps z tt := by
  have := State.startMove_framed (d := d) (r := r) (fault := fault) h hs
  rw [he] at this; exact this

theorem State.badRef_framed {ps : List Part} (h : [Part.regs, .dies, .host, .tally, .out] ⊆ ps) {z s : State} {d : Die} {r : Running}
    (hs : Framed ps z s) : Framed ps z (State.badRef s d r) := by
  unfold State.badRef
  repeat' (first
    | with_reducible assumption
    | with_reducible refine State.event_framed (Framed.sub h) ?_
    | with_reducible refine State.failTask_framed (Framed.sub h) ?_)

theorem State.startTask_framed {ps : List Part} (h : [Part.free, .regs, .mem, .slices, .plan, .dies, .host, .kl, .tally, .out] ⊆ ps) {z s : State} {d : Die} {r : Running} {fault : Nat}
    (hs : Framed ps z s) : Framed ps z (State.startTask s d r fault) := by
  unfold State.startTask
  repeat' (first
    | with_reducible assumption
    | with_reducible refine State.setDie_framed (Framed.sub h) ?_ ?_
    | ((with_reducible refine fun (hn : Part.slices ∉ ps) => ?_); first | exact absurd (h (by decide)) hn | exact Framed.die hs hn _ | exact Framed.die (by assumption) hn _ | exact (hs _ hn).1 | exact (hs _ hn).2 | simpa using Framed.die hs hn _)
    | with_reducible refine State.failTask_framed (Framed.sub h) ?_
    | with_reducible refine State.startOp_framed (Framed.sub h) ?_
    | with_reducible refine State.badRef_framed (Framed.sub h) ?_
    | with_reducible refine State.startBlock_framed (Framed.sub h) ?_
    | with_reducible refine State.startSel_framed (Framed.sub h) ?_
    | with_reducible refine State.startMove_framed (Framed.sub h) ?_
    | with_reducible exact State.startMove_framed_eq (Framed.sub h) (by assumption) (by assumption)
    | with_reducible refine State.setReg_framed (Framed.sub h) ?_
    | (fail_if_no_progress extract_lets +onlyGivenNames x
       refine cutL (p := Framed ps z x) ?_ ?_; subst x; rotate_left; intro hs; try clear_value x; rotate_right)
    | (fail_if_no_progress extract_lets +onlyGivenNames x
       first
       | (have hd : List _ := x; clear hd; clear_value x)
       | (have hd : Bool := x; clear hd; clear_value x)
       | (have hd : Nat := x; clear hd; clear_value x)
       | subst x)
    | fail_if_no_progress beta_reduce
    | with_reducible refine Framed.ite ?_ ?_
    | split
    | ((with_reducible refine Framed.upd ?_ ?_); rotate_left; intro p hp; cases p <;> first | exact absurd (h (by decide)) hp | rfl | exact ⟨rfl, rfl⟩)
    | dsimp only)

theorem State.allocWait_framed {ps : List Part} (h : [Part.regs, .dies] ⊆ ps) {z s : State} {d : Die} {ts : List Nat}
    (hs : Framed ps z s) : Framed ps z (State.allocWait s d ts) := by
  unfold State.allocWait
  repeat' (first
    | with_reducible assumption
    | with_reducible refine State.setDie_framed (Framed.sub h) ?_ ?_
    | ((with_reducible refine fun (hn : Part.slices ∉ ps) => ?_); first | exact absurd (h (by decide)) hn | exact Framed.die hs hn _ | exact Framed.die (by assumption) hn _ | exact (hs _ hn).1 | exact (hs _ hn).2 | simpa using Framed.die hs hn _)
    | with_reducible refine State.event_framed (Framed.sub h) ?_
    | (fail_if_no_progress extract_lets +onlyGivenNames x
       refine cutL (p := Framed ps z x) ?_ ?_; subst x; rotate_left; intro hs; try clear_value x; rotate_right)
    | (fail_if_no_progress extract_lets +onlyGivenNames x
       first
       | (have hd : List _ := x; clear hd; clear_value x)
       | (have hd : Bool := x; clear hd; clear_value x)
       | (have hd : Nat := x; clear hd; clear_value x)
       | subst x)
    | fail_if_no_progress beta_reduce
    | ((with_reducible refine Framed.upd ?_ ?_); rotate_left; intro p hp; cases p <;> first | exact absurd (h (by decide)) hp | rfl | exact ⟨rfl, rfl⟩))

theorem State.giveTask_framed {ps : List Part} (h : [Part.free, .regs, .mem, .slices, .plan, .dies, .host, .kl, .tally, .out] ⊆ ps) {z s : State} {d : Die} {cls : Nat} {engine : Nat} {t_ : Nat} {fault : Nat}
    (hs : Framed ps z s) : Framed ps z (State.giveTask s d cls engine t_ fault) := by
  unfold State.giveTask
  repeat' (first
    | with_reducible assumption
    | with_reducible refine State.setDie_framed (Framed.sub h) ?_ ?_
    | ((with_reducible refine fun (hn : Part.slices ∉ ps) => ?_); first | exact absurd (h (by decide)) hn | exact Framed.die hs hn _ | exact Framed.die (by assumption) hn _ | exact (hs _ hn).1 | exact (hs _ hn).2 | simpa using Framed.die hs hn _)
    | with_reducible refine State.chargeWaits_framed (Framed.sub h) ?_
    | with_reducible refine State.startTask_framed (Framed.sub h) ?_
    | (fail_if_no_progress extract_lets +onlyGivenNames x
       refine cutL (p := Framed ps z x) ?_ ?_; subst x; rotate_left; intro hs; try clear_value x; rotate_right)
    | (fail_if_no_progress extract_lets +onlyGivenNames x
       first
       | (have hd : List _ := x; clear hd; clear_value x)
       | (have hd : Bool := x; clear hd; clear_value x)
       | (have hd : Nat := x; clear hd; clear_value x)
       | subst x)
    | fail_if_no_progress beta_reduce
    | ((with_reducible refine Framed.upd ?_ ?_); rotate_left; intro p hp; cases p <;> first | exact absurd (h (by decide)) hp | rfl | exact ⟨rfl, rfl⟩))

theorem execTaskDispatch_framed {ps : List Part} (h : [Part.free, .regs, .mem, .slices, .plan, .dies, .host, .kl, .tally, .out] ⊆ ps) {z s : State} {d : Die} {cls : Nat} {by_ : Starter}
    (hs : Framed ps z s) : OutFramed ps z (execTaskDispatch d cls by_ s) := by
  unfold execTaskDispatch
  repeat' (first
    | with_reducible assumption
    | with_reducible refine OutFramed.named ?_
    | with_reducible exact OutFramed.fault
    | with_reducible refine State.when_framed ?_ (fun _ hs => ?_)
    | with_reducible refine State.when_framed ?_ (fun _ hs => ?_)
    | with_reducible refine State.allocWait_framed (Framed.sub h) ?_
    | with_reducible refine State.afterFront_framed (Framed.sub h) ?_ (fun _ hs => ?_)
    | with_reducible refine State.countDramCe_framed (Framed.sub h) ?_
    | with_reducible refine State.giveTask_framed (Framed.sub h) ?_
    | (fail_if_no_progress extract_lets +onlyGivenNames x
       refine cutL (p := Framed ps z x) ?_ ?_; subst x; rotate_left; intro hs; try clear_value x; rotate_right)
    | (fail_if_no_progress extract_lets +onlyGivenNames x
       first
       | (have hd : List _ := x; clear hd; clear_value x)
       | (have hd : Bool := x; clear hd; clear_value x)
       | (have hd : Nat := x; clear hd; clear_value x)
       | subst x)
    | fail_if_no_progress beta_reduce
    | with_reducible refine Framed.ite ?_ ?_
    | split
    | dsimp only)

theorem execReadyListEntry_framed {ps : List Part} (h : [Part.regs, .dies] ⊆ ps) {z s : State} {d : Die} {cls : Nat}
    (hs : Framed ps z s) : OutFramed ps z (execReadyListEntry d cls s) := by
  unfold execReadyListEntry
  repeat' (first
    | with_reducible assumption
    | with_reducible refine OutFramed.named ?_
    | with_reducible refine State.when_framed ?_ (fun _ hs => ?_)
    | with_reducible refine State.setDie_framed (Framed.sub h) ?_ ?_
    | ((with_reducible refine fun (hn : Part.slices ∉ ps) => ?_); first | exact absurd (h (by decide)) hn | exact Framed.die hs hn _ | exact Framed.die (by assumption) hn _ | exact (hs _ hn).1 | exact (hs _ hn).2 | simpa using Framed.die hs hn _)
    | with_reducible refine State.chargeWaits_framed (Framed.sub h) ?_
    | with_reducible refine State.when_framed ?_ (fun _ hs => ?_)
    | (fail_if_no_progress extract_lets +onlyGivenNames x
       refine cutL (p := Framed ps z x) ?_ ?_; subst x; rotate_left; intro hs; try clear_value x; rotate_right)
    | (fail_if_no_progress extract_lets +onlyGivenNames x
       first
       | (have hd : List _ := x; clear hd; clear_value x)
       | (have hd : Bool := x; clear hd; clear_value x)
       | (have hd : Nat := x; clear hd; clear_value x)
       | subst x)
    | fail_if_no_progress beta_reduce
    | split
    | ((with_reducible refine Framed.upd ?_ ?_); rotate_left; intro p hp; cases p <;> first | exact absurd (h (by decide)) hp | rfl | exact ⟨rfl, rfl⟩)
    | dsimp only)

theorem State.formEntries_framed {ps : List Part} (h : [Part.mem, .slices] ⊆ ps) {z s : State} {es : List Element}
    (hs : Framed ps z s) : Framed ps z (State.formEntries s es) := by
  unfold State.formEntries
  repeat' (first
    | with_reducible assumption
    | with_reducible refine State.storeWin_framed (Framed.sub h) ?_)

theorem State.buildFinal_framed {ps : List Part} (h : [Part.mem, .slices] ⊆ ps) {z s : State} {keys : List Nat}
    (hs : Framed ps z s) : Framed ps z (State.buildFinal s keys) := by
  unfold State.buildFinal
  repeat' (first
    | with_reducible assumption
    | with_reducible refine State.storeWin_framed (Framed.sub h) ?_
    | split
    | dsimp only)

theorem State.issueList_framed {ps : List Part} (h : [Part.dies, .kl, .out] ⊆ ps) {z s : State} {e : Nat} {op : Nat} {addr : Nat} {data : List Byte}
    (hs : Framed ps z s) : Framed ps z (State.issueList s e op addr data) := by
  unfold State.issueList
  repeat' (first
    | with_reducible assumption
    | with_reducible refine State.issueRemote_framed (Framed.sub h) ?_
    | with_reducible exact State.issueRemote_framed_eq (Framed.sub h) (by assumption) (by assumption)
    | with_reducible refine State.mapRunning_framed (Framed.sub h) ?_
    | with_reducible refine Framed.ite ?_ ?_
    | split
    | dsimp only)

theorem State.sendFinal_framed {ps : List Part} (h : [Part.dies, .kl, .out] ⊆ ps) {z s : State} {r : Running} {k : Nat}
    (hs : Framed ps z s) : Framed ps z (State.sendFinal s r k) := by
  unfold State.sendFinal
  repeat' (first
    | with_reducible assumption
    | with_reducible refine State.mapRunning_framed (Framed.sub h) ?_
    | with_reducible refine State.issueList_framed (Framed.sub h) ?_
    | (fail_if_no_progress extract_lets +onlyGivenNames x
       refine cutL (p := Framed ps z x) ?_ ?_; subst x; rotate_left; intro hs; try clear_value x; rotate_right)
    | (fail_if_no_progress extract_lets +onlyGivenNames x
       first
       | (have hd : List _ := x; clear hd; clear_value x)
       | (have hd : Bool := x; clear hd; clear_value x)
       | (have hd : Nat := x; clear hd; clear_value x)
       | subst x)
    | fail_if_no_progress beta_reduce
    | with_reducible refine Framed.foldl ?_ (fun _ hs _ => ?_)
    | ((with_reducible refine Framed.upd ?_ ?_); rotate_left; intro p hp; cases p <;> first | exact absurd (h (by decide)) hp | rfl | exact ⟨rfl, rfl⟩))

theorem State.mergeFinal_framed {ps : List Part} (h : [Part.mem, .slices, .dies, .kl, .out] ⊆ ps) {z s : State} {r : Running} {x_ : SelDesc}
    (hs : Framed ps z s) : Framed ps z (State.mergeFinal s r x_) := by
  unfold State.mergeFinal
  repeat' (first
    | with_reducible assumption
    | with_reducible refine State.buildFinal_framed (Framed.sub h) ?_
    | with_reducible refine State.sendFinal_framed (Framed.sub h) ?_
    | (fail_if_no_progress extract_lets +onlyGivenNames x
       refine cutL (p := Framed ps z x) ?_ ?_; subst x; rotate_left; intro hs; try clear_value x; rotate_right)
    | (fail_if_no_progress extract_lets +onlyGivenNames x
       first
       | (have hd : List _ := x; clear hd; clear_value x)
       | (have hd : Bool := x; clear hd; clear_value x)
       | (have hd : Nat := x; clear hd; clear_value x)
       | subst x)
    | fail_if_no_progress beta_reduce
    | with_reducible refine Framed.ite ?_ ?_
    | split)

theorem State.groupMerge_framed {ps : List Part} (h : [Part.regs, .mem, .slices] ⊆ ps) {z s : State} {d : Die} {r : Running}
    (hs : Framed ps z s) : Framed ps z (State.groupMerge s d r) := by
  unfold State.groupMerge
  repeat' (first
    | with_reducible assumption
    | with_reducible refine State.when_framed ?_ (fun _ hs => ?_)
    | with_reducible refine State.when_framed ?_ (fun _ hs => ?_)
    | with_reducible refine State.formEntries_framed (Framed.sub h) ?_
    | with_reducible refine State.count_framed (Framed.sub h) ?_
    | split
    | dsimp only)

theorem State.endWork_framed {ps : List Part} (h : [Part.free, .regs, .mem, .slices, .plan, .dies] ⊆ ps) {z s : State} {d : Die} {r : Running} {bad : List Nat}
    (hs : Framed ps z s) : Framed ps z (State.endWork s d r bad) := by
  unfold State.endWork
  repeat' (first
    | with_reducible assumption
    | with_reducible refine State.endOp_framed (Framed.sub h) ?_
    | with_reducible refine State.endBlock_framed (Framed.sub h) ?_
    | with_reducible refine State.groupMerge_framed (Framed.sub h) ?_
    | with_reducible refine State.doHeap_framed (Framed.sub h) ?_
    | split
    | dsimp only)

theorem State.failWork_framed {ps : List Part} (h : [Part.free, .regs, .plan, .dies, .host, .tally, .out] ⊆ ps) {z s : State} {d : Die} {r : Running} {status : Nat}
    (hs : Framed ps z s) : Framed ps z (State.failWork s d r status) := by
  unfold State.failWork
  repeat' (first
    | with_reducible assumption
    | with_reducible refine State.when_framed ?_ (fun _ hs => ?_)
    | with_reducible refine State.setDie_framed (Framed.sub h) ?_ ?_
    | ((with_reducible refine fun (hn : Part.slices ∉ ps) => ?_); first | exact absurd (h (by decide)) hn | exact Framed.die hs hn _ | exact Framed.die (by assumption) hn _ | exact (hs _ hn).1 | exact (hs _ hn).2 | simpa using Framed.die hs hn _)
    | with_reducible refine State.failOp_framed (Framed.sub h) ?_
    | with_reducible refine State.when_framed ?_ (fun _ hs => ?_)
    | with_reducible refine State.heapError_framed (Framed.sub h) ?_
    | split
    | ((with_reducible refine Framed.upd ?_ ?_); rotate_left; intro p hp; cases p <;> first | exact absurd (h (by decide)) hp | rfl | exact ⟨rfl, rfl⟩)
    | dsimp only)

theorem State.phaseNs_framed {ps : List Part} (h : [Part.regs] ⊆ ps) {z s : State} {d : Die} {t : Nat}
    (hs : Framed ps z s) : Framed ps z (State.phaseNs s d t) := by
  unfold State.phaseNs
  repeat' (first
    | with_reducible assumption
    | with_reducible refine State.setReg_framed (Framed.sub h) ?_
    | (fail_if_no_progress extract_lets +onlyGivenNames x
       first
       | (have hd : List _ := x; clear hd; clear_value x)
       | (have hd : Bool := x; clear hd; clear_value x)
       | (have hd : Nat := x; clear hd; clear_value x)
       | subst x)
    | with_reducible refine Framed.ite ?_ ?_)

theorem State.taskMet_framed {ps : List Part} (h : [Part.regs, .dies] ⊆ ps) {z s : State} {d : Die} {cls : Nat} {ce : Nat} {ports : List (Nat × List Nat)}
    (hs : Framed ps z s) : Framed ps z (State.taskMet s d cls ce ports) := by
  unfold State.taskMet
  repeat' (first
    | with_reducible assumption
    | with_reducible refine State.countCe_framed (Framed.sub h) ?_
    | with_reducible refine State.contendOn_framed (Framed.sub h) ?_
    | (fail_if_no_progress extract_lets +onlyGivenNames x
       refine cutL (p := Framed ps z x) ?_ ?_; subst x; rotate_left; intro hs; try clear_value x; rotate_right)
    | (fail_if_no_progress extract_lets +onlyGivenNames x
       first
       | (have hd : List _ := x; clear hd; clear_value x)
       | (have hd : Bool := x; clear hd; clear_value x)
       | (have hd : Nat := x; clear hd; clear_value x)
       | subst x)
    | fail_if_no_progress beta_reduce
    | with_reducible refine Framed.foldl ?_ (fun _ hs _ => ?_)
    | split
    | dsimp only)

theorem State.endRerun_framed {ps : List Part} (h : [Part.free, .regs, .mem, .slices, .dies, .host, .tally, .out] ⊆ ps) {z s : State} {n : Nat} {d : Die} {status : Nat} {ce : Nat} {dram : Nat} {bad : List Nat}
    (hs : Framed ps z s) : Framed ps z (State.endRerun s n d status ce dram bad) := by
  unfold State.endRerun
  repeat' (first
    | with_reducible assumption
    | with_reducible refine State.when_framed ?_ (fun _ hs => ?_)
    | with_reducible refine State.when_framed ?_ (fun _ hs => ?_)
    | with_reducible refine State.afterFront_framed (Framed.sub h) ?_ (fun _ hs => ?_)
    | with_reducible refine State.taskMet_framed (Framed.sub h) ?_
    | with_reducible refine State.countDramCe_framed (Framed.sub h) ?_
    | with_reducible refine State.rerunOp_framed (Framed.sub h) ?_
    | with_reducible refine State.failOp_framed (Framed.sub h) ?_
    | (fail_if_no_progress extract_lets +onlyGivenNames x
       refine cutL (p := Framed ps z x) ?_ ?_; subst x; rotate_left; intro hs; try clear_value x; rotate_right)
    | (fail_if_no_progress extract_lets +onlyGivenNames x
       first
       | (have hd : List _ := x; clear hd; clear_value x)
       | (have hd : Bool := x; clear hd; clear_value x)
       | (have hd : Nat := x; clear hd; clear_value x)
       | subst x)
    | fail_if_no_progress beta_reduce
    | with_reducible refine Framed.ite ?_ ?_
    | split)

theorem State.closeTask_framed {ps : List Part} (h : [Part.free, .regs, .mem, .slices, .plan, .dies, .host, .tally, .out] ⊆ ps) {z s : State} {d : Die} {r : Running} {status : Nat} {bad : List Nat}
    (hs : Framed ps z s) : Framed ps z (State.closeTask s d r status bad) := by
  unfold State.closeTask
  repeat' (first
    | with_reducible assumption
    | with_reducible refine State.endWork_framed (Framed.sub h) ?_
    | with_reducible refine State.completeTask_framed (Framed.sub h) ?_
    | with_reducible refine State.phaseNs_framed (Framed.sub h) ?_
    | with_reducible refine State.beginReruns_framed (Framed.sub h) ?_
    | with_reducible refine State.tryPropose_framed (Framed.sub h) ?_
    | with_reducible refine State.failWork_framed (Framed.sub h) ?_
    | with_reducible refine State.failTask_framed (Framed.sub h) ?_
    | (fail_if_no_progress extract_lets +onlyGivenNames x
       refine cutL (p := Framed ps z x) ?_ ?_; subst x; rotate_left; intro hs; try clear_value x; rotate_right)
    | (fail_if_no_progress extract_lets +onlyGivenNames x
       first
       | (have hd : List _ := x; clear hd; clear_value x)
       | (have hd : Bool := x; clear hd; clear_value x)
       | (have hd : Nat := x; clear hd; clear_value x)
       | subst x)
    | fail_if_no_progress beta_reduce
    | with_reducible refine Framed.ite ?_ ?_
    | split)

theorem State.endMerge_framed {ps : List Part} (h : [Part.free, .regs, .mem, .slices, .plan, .dies, .host, .kl, .tally, .out] ⊆ ps) {z s : State} {d : Die} {r : Running} {x_ : SelDesc} {status : Nat} {bad : List Nat}
    (hs : Framed ps z s) : Framed ps z (State.endMerge s d r x_ status bad) := by
  unfold State.endMerge
  repeat' (first
    | with_reducible assumption
    | with_reducible refine State.mergeFinal_framed (Framed.sub h) ?_
    | with_reducible refine State.closeTask_framed (Framed.sub h) ?_
    | (fail_if_no_progress extract_lets +onlyGivenNames x
       refine cutL (p := Framed ps z x) ?_ ?_; subst x; rotate_left; intro hs; try clear_value x; rotate_right)
    | (fail_if_no_progress extract_lets +onlyGivenNames x
       first
       | (have hd : List _ := x; clear hd; clear_value x)
       | (have hd : Bool := x; clear hd; clear_value x)
       | (have hd : Nat := x; clear hd; clear_value x)
       | subst x)
    | fail_if_no_progress beta_reduce
    | with_reducible refine Framed.ite ?_ ?_
    | split
    | dsimp only)

theorem State.endTask_framed {ps : List Part} (h : [Part.free, .regs, .mem, .slices, .plan, .dies, .host, .kl, .tally, .out] ⊆ ps) {z s : State} {d : Die} {cls : Nat} {engine : Nat} {status : Nat} {ce : Nat} {ports : List (Nat × List Nat)} {bad : List Nat}
    (hs : Framed ps z s) : Framed ps z (State.endTask s d cls engine status ce ports bad) := by
  unfold State.endTask
  repeat' (first
    | with_reducible assumption
    | with_reducible refine State.taskMet_framed (Framed.sub h) ?_
    | with_reducible refine State.stage_framed (Framed.sub h) ?_
    | with_reducible refine State.endMerge_framed (Framed.sub h) ?_
    | with_reducible refine State.closeTask_framed (Framed.sub h) ?_
    | (fail_if_no_progress extract_lets +onlyGivenNames x
       refine cutL (p := Framed ps z x) ?_ ?_; subst x; rotate_left; intro hs; try clear_value x; rotate_right)
    | (fail_if_no_progress extract_lets +onlyGivenNames x
       first
       | (have hd : List _ := x; clear hd; clear_value x)
       | (have hd : Bool := x; clear hd; clear_value x)
       | (have hd : Nat := x; clear hd; clear_value x)
       | subst x)
    | fail_if_no_progress beta_reduce
    | with_reducible refine Framed.ite ?_ ?_
    | split
    | dsimp only)

end Sys2Proof.Machine
end

