-- ==== Sys2Proof/Laws/FrameFinal.lean ====
section
/-! SUPPORT. The parts of the state that the operations of Machine/Final.lean can change. -/

set_option Elab.async false
set_option linter.unusedTactic false
set_option linter.unreachableTactic false
set_option linter.unusedVariables false
set_option linter.tactic.unusedName false

namespace Sys2Proof.Machine
open Sys2Proof

theorem State.countRun_framed {ps : List Part} (h : [Part.regs, .plan] ⊆ ps) {z s : State} {d : Die} {r : PairRun}
    (hs : Framed ps z s) : Framed ps z (State.countRun s d r) := by
  unfold State.countRun
  repeat' (first
    | with_reducible assumption
    | with_reducible refine State.countSamples_framed (Framed.sub h) ?_)

theorem State.countRuns_framed {ps : List Part} (h : [Part.regs, .plan] ⊆ ps) {z s : State} {copy : Bool} {is : List Nat}
    (hs : Framed ps z s) : Framed ps z (State.countRuns s copy is) := by
  unfold State.countRuns
  repeat' (first
    | with_reducible assumption
    | with_reducible refine State.when_framed ?_ (fun _ hs => ?_)
    | with_reducible refine State.when_framed ?_ (fun _ hs => ?_)
    | with_reducible refine State.countRun_framed (Framed.sub h) ?_
    | (fail_if_no_progress extract_lets +onlyGivenNames x
       refine cutL (p := Framed ps z x) ?_ ?_; subst x; rotate_left; intro hs; try clear_value x; rotate_right)
    | (fail_if_no_progress extract_lets +onlyGivenNames x
       first
       | (have hd : List _ := x; clear hd; clear_value x)
       | (have hd : Bool := x; clear hd; clear_value x)
       | (have hd : Nat := x; clear hd; clear_value x)
       | subst x)
    | fail_if_no_progress beta_reduce
    | with_reducible refine Framed.foldl ?_ (fun _ hs _ => ?_)
    | split
    | dsimp only)

theorem State.countPass_framed {ps : List Part} (h : [Part.regs, .plan] ⊆ ps) {z s : State}
    (hs : Framed ps z s) : Framed ps z (State.countPass s) := by
  unfold State.countPass
  repeat' (first
    | with_reducible assumption
    | with_reducible refine State.countRuns_framed (Framed.sub h) ?_
    | (fail_if_no_progress extract_lets +onlyGivenNames x
       refine cutL (p := Framed ps z x) ?_ ?_; subst x; rotate_left; intro hs; try clear_value x; rotate_right)
    | (fail_if_no_progress extract_lets +onlyGivenNames x
       first
       | (have hd : List _ := x; clear hd; clear_value x)
       | (have hd : Bool := x; clear hd; clear_value x)
       | (have hd : Nat := x; clear hd; clear_value x)
       | subst x)
    | fail_if_no_progress beta_reduce)

theorem State.compareSwept_framed {ps : List Part} (h : [Part.regs, .plan] ⊆ ps) {z s : State}
    (hs : Framed ps z s) : Framed ps z (State.compareSwept s) := by
  unfold State.compareSwept
  repeat' (first
    | with_reducible assumption
    | with_reducible refine State.when_framed ?_ (fun _ hs => ?_)
    | with_reducible refine State.when_framed ?_ (fun _ hs => ?_)
    | with_reducible refine State.event_framed (Framed.sub h) ?_
    | (fail_if_no_progress extract_lets +onlyGivenNames x
       refine cutL (p := Framed ps z x) ?_ ?_; subst x; rotate_left; intro hs; try clear_value x; rotate_right)
    | (fail_if_no_progress extract_lets +onlyGivenNames x
       first
       | (have hd : List _ := x; clear hd; clear_value x)
       | (have hd : Bool := x; clear hd; clear_value x)
       | (have hd : Nat := x; clear hd; clear_value x)
       | subst x)
    | fail_if_no_progress beta_reduce
    | ((with_reducible refine Framed.upd ?_ ?_); rotate_left; intro p hp; cases p <;> first | exact absurd (h (by decide)) hp | rfl | exact ⟨rfl, rfl⟩)
    | dsimp only)

theorem State.endSweepCompare_framed {ps : List Part} (h : [Part.regs, .plan] ⊆ ps) {z s : State}
    (hs : Framed ps z s) : Framed ps z (State.endSweepCompare s) := by
  unfold State.endSweepCompare
  repeat' (first
    | with_reducible assumption
    | with_reducible refine State.when_framed ?_ (fun _ hs => ?_)
    | with_reducible refine State.when_framed ?_ (fun _ hs => ?_)
    | with_reducible refine State.compareSwept_framed (Framed.sub h) ?_)

theorem State.writeOutputs_framed {ps : List Part} (h : [Part.mem, .slices] ⊆ ps) {z s : State}
    (hs : Framed ps z s) : Framed ps z (State.writeOutputs s) := by
  unfold State.writeOutputs
  repeat' (first
    | with_reducible assumption
    | with_reducible refine State.when_framed ?_ (fun _ hs => ?_)
    | with_reducible refine State.when_framed ?_ (fun _ hs => ?_)
    | with_reducible refine State.storeWin_framed (Framed.sub h) ?_
    | (fail_if_no_progress extract_lets +onlyGivenNames x
       refine cutL (p := Framed ps z x) ?_ ?_; subst x; rotate_left; intro hs; try clear_value x; rotate_right)
    | (fail_if_no_progress extract_lets +onlyGivenNames x
       first
       | (have hd : List _ := x; clear hd; clear_value x)
       | (have hd : Bool := x; clear hd; clear_value x)
       | (have hd : Nat := x; clear hd; clear_value x)
       | subst x)
    | fail_if_no_progress beta_reduce
    | with_reducible refine Framed.foldl ?_ (fun _ hs _ => ?_)
    | split
    | dsimp only)

theorem State.endPass_framed {ps : List Part} (h : [Part.regs, .mem, .slices, .plan] ⊆ ps) {z s : State}
    (hs : Framed ps z s) : Framed ps z (State.endPass s) := by
  unfold State.endPass
  repeat' (first
    | with_reducible assumption
    | with_reducible refine State.when_framed ?_ (fun _ hs => ?_)
    | with_reducible refine State.when_framed ?_ (fun _ hs => ?_)
    | with_reducible refine State.compareSwept_framed (Framed.sub h) ?_
    | with_reducible refine State.event_framed (Framed.sub h) ?_
    | with_reducible refine State.invalid_framed (Framed.sub h) ?_
    | with_reducible refine State.writeOutputs_framed (Framed.sub h) ?_
    | with_reducible refine State.countPass_framed (Framed.sub h) ?_
    | (fail_if_no_progress extract_lets +onlyGivenNames x
       refine cutL (p := Framed ps z x) ?_ ?_; subst x; rotate_left; intro hs; try clear_value x; rotate_right)
    | (fail_if_no_progress extract_lets +onlyGivenNames x
       first
       | (have hd : List _ := x; clear hd; clear_value x)
       | (have hd : Bool := x; clear hd; clear_value x)
       | (have hd : Nat := x; clear hd; clear_value x)
       | subst x)
    | fail_if_no_progress beta_reduce
    | with_reducible refine Framed.ite ?_ ?_
    | split
    | ((with_reducible refine Framed.upd ?_ ?_); rotate_left; intro p hp; cases p <;> first | exact absurd (h (by decide)) hp | rfl | exact ⟨rfl, rfl⟩)
    | dsimp only)

theorem State.thirdSide_framed {ps : List Part} (h : [Part.free] ⊆ ps) {z s : State} {v : VoteItem} {bad : Bool}
    (hs : Framed ps z s) : Framed ps z (State.thirdSide s v bad).2 := by
  unfold State.thirdSide
  repeat' (first
    | with_reducible assumption
    | with_reducible refine State.freeBytes_framed (Framed.sub h) ?_
    | with_reducible exact State.freeBytes_framed_eq (Framed.sub h) (by assumption) (by assumption)
    | (fail_if_no_progress extract_lets +onlyGivenNames x
       refine cutL (p := Framed ps z x) ?_ ?_; subst x; rotate_left; intro hs; try clear_value x; rotate_right)
    | (fail_if_no_progress extract_lets +onlyGivenNames x
       first
       | (have hd : List _ := x; clear hd; clear_value x)
       | (have hd : Bool := x; clear hd; clear_value x)
       | (have hd : Nat := x; clear hd; clear_value x)
       | subst x)
    | fail_if_no_progress beta_reduce
    | with_reducible refine Framed.ite ?_ ?_
    | split
    | dsimp only)
theorem State.thirdSide_framed_eq {ps : List Part} (h : [Part.free] ⊆ ps) {z s tt : State} {pr : Nat} {v : VoteItem} {bad : Bool}
    (he : (State.thirdSide s v bad) = (pr, tt)) (hs : Framed ps z s) : Framed ps z tt := by
  have := State.thirdSide_framed (v := v) (bad := bad) h hs
  rw [he] at this; exact this

theorem State.applyVote_framed {ps : List Part} (h : [Part.plan] ⊆ ps) {z s : State} {v : VoteItem} {side : Nat}
    (hs : Framed ps z s) : Framed ps z (State.applyVote s v side) := by
  unfold State.applyVote
  repeat' (first
    | with_reducible assumption
    | with_reducible refine State.when_framed ?_ (fun _ hs => ?_)
    | with_reducible refine State.when_framed ?_ (fun _ hs => ?_)
    | with_reducible refine State.invalid_framed (Framed.sub h) ?_
    | (fail_if_no_progress extract_lets +onlyGivenNames x
       refine cutL (p := Framed ps z x) ?_ ?_; subst x; rotate_left; intro hs; try clear_value x; rotate_right)
    | (fail_if_no_progress extract_lets +onlyGivenNames x
       first
       | (have hd : List _ := x; clear hd; clear_value x)
       | (have hd : Bool := x; clear hd; clear_value x)
       | (have hd : Nat := x; clear hd; clear_value x)
       | subst x)
    | fail_if_no_progress beta_reduce
    | with_reducible refine Framed.ite ?_ ?_
    | split
    | ((with_reducible refine Framed.upd ?_ ?_); rotate_left; intro p hp; cases p <;> first | exact absurd (h (by decide)) hp | rfl | exact ⟨rfl, rfl⟩))

theorem State.countVote_framed {ps : List Part} (h : [Part.regs, .plan] ⊆ ps) {z s : State} {v : VoteItem}
    (hs : Framed ps z s) : Framed ps z (State.countVote s v) := by
  unfold State.countVote
  repeat' (first
    | with_reducible assumption
    | with_reducible refine State.count_framed (Framed.sub h) ?_
    | (fail_if_no_progress extract_lets +onlyGivenNames x
       refine cutL (p := Framed ps z x) ?_ ?_; subst x; rotate_left; intro hs; try clear_value x; rotate_right)
    | (fail_if_no_progress extract_lets +onlyGivenNames x
       first
       | (have hd : List _ := x; clear hd; clear_value x)
       | (have hd : Bool := x; clear hd; clear_value x)
       | (have hd : Nat := x; clear hd; clear_value x)
       | subst x)
    | fail_if_no_progress beta_reduce
    | ((with_reducible refine Framed.upd ?_ ?_); rotate_left; intro p hp; cases p <;> first | exact absurd (h (by decide)) hp | rfl | exact ⟨rfl, rfl⟩))

theorem State.settleVote_framed {ps : List Part} (h : [Part.regs, .plan, .host, .tally, .out] ⊆ ps) {z s : State} {v : VoteItem} {side : Nat}
    (hs : Framed ps z s) : Framed ps z (State.settleVote s v side) := by
  unfold State.settleVote
  repeat' (first
    | with_reducible assumption
    | with_reducible refine State.event_framed (Framed.sub h) ?_
    | with_reducible refine State.log_framed (Framed.sub h) ?_
    | with_reducible refine State.applyVote_framed (Framed.sub h) ?_
    | with_reducible refine State.invalid_framed (Framed.sub h) ?_
    | (fail_if_no_progress extract_lets +onlyGivenNames x
       refine cutL (p := Framed ps z x) ?_ ?_; subst x; rotate_left; intro hs; try clear_value x; rotate_right)
    | (fail_if_no_progress extract_lets +onlyGivenNames x
       first
       | (have hd : List _ := x; clear hd; clear_value x)
       | (have hd : Bool := x; clear hd; clear_value x)
       | (have hd : Nat := x; clear hd; clear_value x)
       | subst x)
    | fail_if_no_progress beta_reduce
    | with_reducible refine Framed.ite ?_ ?_
    | split
    | ((with_reducible refine Framed.upd ?_ ?_); rotate_left; intro p hp; cases p <;> first | exact absurd (h (by decide)) hp | rfl | exact ⟨rfl, rfl⟩))

theorem State.vote_framed {ps : List Part} (h : [Part.free, .regs, .plan, .host, .tally, .out] ⊆ ps) {z s : State} {id : Nat} {bad : Bool}
    (hs : Framed ps z s) : Framed ps z (State.vote s id bad) := by
  unfold State.vote
  repeat' (first
    | with_reducible assumption
    | with_reducible refine State.when_framed ?_ (fun _ hs => ?_)
    | with_reducible refine State.when_framed ?_ (fun _ hs => ?_)
    | with_reducible refine State.countRun_framed (Framed.sub h) ?_
    | with_reducible refine State.thirdSide_framed (Framed.sub h) ?_
    | with_reducible exact State.thirdSide_framed_eq (Framed.sub h) (by assumption) (by assumption)
    | with_reducible refine State.countVote_framed (Framed.sub h) ?_
    | with_reducible refine State.settleVote_framed (Framed.sub h) ?_
    | (fail_if_no_progress extract_lets +onlyGivenNames x
       refine cutL (p := Framed ps z x) ?_ ?_; subst x; rotate_left; intro hs; try clear_value x; rotate_right)
    | (fail_if_no_progress extract_lets +onlyGivenNames x
       first
       | (have hd : List _ := x; clear hd; clear_value x)
       | (have hd : Bool := x; clear hd; clear_value x)
       | (have hd : Nat := x; clear hd; clear_value x)
       | subst x)
    | fail_if_no_progress beta_reduce
    | split
    | dsimp only)

theorem State.walkDown_framed {ps : List Part} (h : [Part.regs, .plan, .chans] ⊆ ps) {z s : State}
    (hs : Framed ps z s) : Framed ps z (State.walkDown s) := by
  unfold State.walkDown
  repeat' (first
    | with_reducible assumption
    | with_reducible refine State.when_framed ?_ (fun _ hs => ?_)
    | with_reducible refine State.when_framed ?_ (fun _ hs => ?_)
    | with_reducible refine State.setReg_framed (Framed.sub h) ?_
    | with_reducible refine State.event_framed (Framed.sub h) ?_
    | with_reducible refine State.trace_framed (Framed.sub h) ?_
    | (fail_if_no_progress extract_lets +onlyGivenNames x
       refine cutL (p := Framed ps z x) ?_ ?_; subst x; rotate_left; intro hs; try clear_value x; rotate_right)
    | (fail_if_no_progress extract_lets +onlyGivenNames x
       first
       | (have hd : List _ := x; clear hd; clear_value x)
       | (have hd : Bool := x; clear hd; clear_value x)
       | (have hd : Nat := x; clear hd; clear_value x)
       | subst x)
    | fail_if_no_progress beta_reduce
    | with_reducible refine Framed.ite ?_ ?_
    | split
    | ((with_reducible refine Framed.upd ?_ ?_); rotate_left; intro p hp; cases p <;> first | exact absurd (h (by decide)) hp | rfl | exact ⟨rfl, rfl⟩)
    | dsimp only)

theorem State.emitRecord_framed {ps : List Part} (h : [Part.regs, .plan, .chans, .dep] ⊆ ps) {z s : State}
    (hs : Framed ps z s) : Framed ps z (State.emitRecord s) := by
  unfold State.emitRecord
  repeat' (first
    | with_reducible assumption
    | with_reducible refine State.formRecord_framed (Framed.sub h) ?_
    | with_reducible refine State.writeInvalid_framed (Framed.sub h) ?_
    | with_reducible refine State.when_framed ?_ (fun _ hs => ?_)
    | split)

theorem execTaskComplete_framed {ps : List Part} (h : [Part.free, .now, .regs, .mem, .slices, .tick, .plan, .dies, .chans, .host, .kl, .dep, .tally, .out] ⊆ ps) {z s : State} {d : Die} {t_ : Nat} {what : Ending}
    (hs : Framed ps z s) : OutFramed ps z (execTaskComplete d t_ what s) := by
  unfold execTaskComplete
  repeat' (first
    | with_reducible assumption
    | with_reducible refine OutFramed.next ?_
    | with_reducible refine OutFramed.named ?_
    | with_reducible refine State.when_framed ?_ (fun _ hs => ?_)
    | with_reducible refine State.when_framed ?_ (fun _ hs => ?_)
    | with_reducible refine State.advance_framed (Framed.sub h) ?_
    | with_reducible refine State.endTask_framed (Framed.sub h) ?_
    | with_reducible refine State.endRerun_framed (Framed.sub h) ?_
    | with_reducible refine State.compareNet_framed (Framed.sub h) ?_
    | with_reducible refine State.thirdRun_framed (Framed.sub h) ?_
    | with_reducible refine State.endPass_framed (Framed.sub h) ?_
    | with_reducible refine State.endSweepCompare_framed (Framed.sub h) ?_
    | with_reducible refine State.vote_framed (Framed.sub h) ?_
    | with_reducible refine State.walkDown_framed (Framed.sub h) ?_
    | with_reducible refine State.emit_framed (Framed.sub h) ?_
    | with_reducible refine State.emitRecord_framed (Framed.sub h) ?_
    | (fail_if_no_progress extract_lets +onlyGivenNames x
       refine cutL (p := Framed ps z x) ?_ ?_; subst x; rotate_left; intro hs; try clear_value x; rotate_right)
    | (fail_if_no_progress extract_lets +onlyGivenNames x
       first
       | (have hd : List _ := x; clear hd; clear_value x)
       | (have hd : Bool := x; clear hd; clear_value x)
       | (have hd : Nat := x; clear hd; clear_value x)
       | subst x)
    | fail_if_no_progress beta_reduce
    | split
    | dsimp only)

end Sys2Proof.Machine
end

