-- ==== Sys2Proof/Laws/FrameWindow.lean ====
section
/-! SUPPORT. The parts of the state that the operations of Machine/Window.lean can change. -/

set_option Elab.async false
set_option linter.unusedTactic false
set_option linter.unreachableTactic false
set_option linter.unusedVariables false
set_option linter.tactic.unusedName false

namespace Sys2Proof.Machine
open Sys2Proof

theorem State.endRx_framed {ps : List Part} (h : [Part.regs, .host, .out] ⊆ ps) {z s : State} {left : Nat}
    (hs : Framed ps z s) : Framed ps z (State.endRx s left) := by
  unfold State.endRx
  repeat' (first
    | with_reducible assumption
    | with_reducible refine State.when_framed ?_ (fun _ hs => ?_)
    | with_reducible refine State.when_framed ?_ (fun _ hs => ?_)
    | with_reducible refine State.event_framed (Framed.sub h) ?_
    | with_reducible refine State.irq_framed (Framed.sub h) ?_)

theorem State.performNow_framed {ps : List Part} (h : [Part.free, .regs, .mem, .slices, .plan, .dies, .host, .kl, .tally, .out] ⊆ ps) {z s : State} {op : Nat} {src : Nat} {tag : Nat} {addr : Nat} {len : Nat} {fault : Nat} {data : List Byte}
    (hs : Framed ps z s) : Framed ps z (State.performNow s op src tag addr len fault data) := by
  unfold State.performNow
  repeat' (first
    | with_reducible assumption
    | with_reducible refine State.when_framed ?_ (fun _ hs => ?_)
    | with_reducible refine State.respond_framed (Framed.sub h) ?_
    | with_reducible refine State.atomicFaulty_framed (Framed.sub h) ?_
    | with_reducible exact State.atomicFaulty_framed_eq (Framed.sub h) (by assumption) (by assumption)
    | with_reducible refine State.putHere_framed (Framed.sub h) ?_
    | with_reducible exact State.putHere_framed_eq (Framed.sub h) (by assumption) (by assumption)
    | with_reducible refine State.getFaulty_framed (Framed.sub h) ?_
    | with_reducible exact State.getFaulty_framed_eq (Framed.sub h) (by assumption) (by assumption)
    | with_reducible refine State.when_framed ?_ (fun _ hs => ?_)
    | with_reducible refine State.endRx_framed (Framed.sub h) ?_
    | with_reducible refine State.signalHere_framed (Framed.sub h) ?_
    | with_reducible exact State.signalHere_framed_eq (Framed.sub h) (by assumption) (by assumption)
    | (fail_if_no_progress extract_lets +onlyGivenNames x
       refine cutL (p := Framed ps z x) ?_ ?_; subst x; rotate_left; intro hs; try clear_value x; rotate_right)
    | (fail_if_no_progress extract_lets +onlyGivenNames x
       first
       | (have hd : List _ := x; clear hd; clear_value x)
       | (have hd : Bool := x; clear hd; clear_value x)
       | (have hd : Nat := x; clear hd; clear_value x)
       | subst x)
    | fail_if_no_progress beta_reduce
    | with_reducible refine Framed.ite ?_ ?_
    | split
    | dsimp only)

theorem State.takeRemote_framed {ps : List Part} (h : [Part.free, .regs, .mem, .slices, .plan, .dies, .host, .kl, .tally, .out] ⊆ ps) {z s : State} {o : StalledOp}
    (hs : Framed ps z s) : Framed ps z (State.takeRemote s o) := by
  unfold State.takeRemote
  repeat' (first
    | with_reducible assumption
    | with_reducible refine State.performNow_framed (Framed.sub h) ?_
    | with_reducible refine Framed.ite ?_ ?_
    | split
    | ((with_reducible refine Framed.upd ?_ ?_); rotate_left; intro p hp; cases p <;> first | exact absurd (h (by decide)) hp | rfl | exact ⟨rfl, rfl⟩))

theorem State.performRemote_framed {ps : List Part} (h : [Part.free, .regs, .mem, .slices, .plan, .dies, .host, .kl, .tally, .out] ⊆ ps) {z s : State} {op : Nat} {src : Nat} {tag : Nat} {addr : Nat} {len : Nat} {fault : Nat} {data : List Byte}
    (hs : Framed ps z s) : Framed ps z (State.performRemote s op src tag addr len fault data) := by
  unfold State.performRemote
  repeat' (first
    | with_reducible assumption
    | with_reducible refine State.noteStalls_framed (Framed.sub h) ?_
    | with_reducible refine State.takeRemote_framed (Framed.sub h) ?_
    | (fail_if_no_progress extract_lets +onlyGivenNames x
       refine cutL (p := Framed ps z x) ?_ ?_; subst x; rotate_left; intro hs; try clear_value x; rotate_right)
    | (fail_if_no_progress extract_lets +onlyGivenNames x
       first
       | (have hd : List _ := x; clear hd; clear_value x)
       | (have hd : Bool := x; clear hd; clear_value x)
       | (have hd : Nat := x; clear hd; clear_value x)
       | subst x)
    | fail_if_no_progress beta_reduce)

theorem State.pumpStalled_framed {ps : List Part} (h : [Part.free, .regs, .mem, .slices, .plan, .dies, .host, .kl, .tally, .out] ⊆ ps) {z s : State}
    (hs : Framed ps z s) : Framed ps z (State.pumpStalled s) := by
  unfold State.pumpStalled
  repeat' (first
    | with_reducible assumption
    | with_reducible refine State.takeRemote_framed (Framed.sub h) ?_
    | with_reducible refine Framed.foldl ?_ (fun _ hs _ => ?_)
    | ((with_reducible refine Framed.upd ?_ ?_); rotate_left; intro p hp; cases p <;> first | exact absurd (h (by decide)) hp | rfl | exact ⟨rfl, rfl⟩))

theorem State.failStalled_framed {ps : List Part} (h : [Part.free, .regs, .mem, .slices, .plan, .dies, .host, .kl, .tally, .out] ⊆ ps) {z s : State} {meets : StalledOp → Bool} {status : Nat}
    (hs : Framed ps z s) : Framed ps z (State.failStalled s meets status) := by
  unfold State.failStalled
  repeat' (first
    | with_reducible assumption
    | with_reducible refine State.endRx_framed (Framed.sub h) ?_
    | with_reducible refine State.respond_framed (Framed.sub h) ?_
    | with_reducible refine State.pumpStalled_framed (Framed.sub h) ?_
    | (fail_if_no_progress extract_lets +onlyGivenNames x
       refine cutL (p := Framed ps z x) ?_ ?_; subst x; rotate_left; intro hs; try clear_value x; rotate_right)
    | (fail_if_no_progress extract_lets +onlyGivenNames x
       first
       | (have hd : List _ := x; clear hd; clear_value x)
       | (have hd : Bool := x; clear hd; clear_value x)
       | (have hd : Nat := x; clear hd; clear_value x)
       | subst x)
    | fail_if_no_progress beta_reduce
    | with_reducible refine Framed.ite ?_ ?_
    | with_reducible refine Framed.foldl ?_ (fun _ hs _ => ?_)
    | split
    | ((with_reducible refine Framed.upd ?_ ?_); rotate_left; intro p hp; cases p <;> first | exact absurd (h (by decide)) hp | rfl | exact ⟨rfl, rfl⟩))

theorem State.windowError_framed {ps : List Part} (h : [Part.regs] ⊆ ps) {z s : State} {status : Nat} {write : Bool} {ofs : Nat}
    (hs : Framed ps z s) : Framed ps z (State.windowError s status write ofs) := by
  unfold State.windowError
  repeat' (first
    | with_reducible assumption
    | with_reducible refine State.setReg_framed (Framed.sub h) ?_
    | with_reducible refine State.event_framed (Framed.sub h) ?_)

theorem State.windowReturn_framed {ps : List Part} (h : [Part.regs, .out] ⊆ ps) {z s : State} {ofs : Nat} {len : Nat} {status : Nat} {data : List Byte}
    (hs : Framed ps z s) : Framed ps z (State.windowReturn s ofs len status data) := by
  unfold State.windowReturn
  repeat' (first
    | with_reducible assumption
    | with_reducible refine State.emit_framed (Framed.sub h) ?_
    | with_reducible refine State.windowError_framed (Framed.sub h) ?_
    | with_reducible refine State.when_framed ?_ (fun _ hs => ?_))

theorem State.winStatus_framed {ps : List Part} (h : [Part.regs] ⊆ ps) {z s : State} {a : Nat} {n : Nat} {bit_ : Nat}
    (hs : Framed ps z s) : Framed ps z (State.winStatus s a n bit_) := by
  unfold State.winStatus
  repeat' (first
    | with_reducible assumption
    | with_reducible refine State.event_framed (Framed.sub h) ?_
    | split)

theorem State.windowReadHere_framed {ps : List Part} (h : [Part.free, .regs, .plan, .dies, .host, .tally, .out] ⊆ ps) {z s : State} {a : Nat} {ofs : Nat} {len : Nat} {fault : Nat}
    (hs : Framed ps z s) : Framed ps z (State.windowReadHere s a ofs len fault) := by
  unfold State.windowReadHere
  repeat' (first
    | with_reducible assumption
    | with_reducible refine State.windowReturn_framed (Framed.sub h) ?_
    | with_reducible refine State.getFaulty_framed (Framed.sub h) ?_
    | with_reducible exact State.getFaulty_framed_eq (Framed.sub h) (by assumption) (by assumption)
    | with_reducible refine State.winStatus_framed (Framed.sub h) ?_
    | with_reducible refine State.countBusy_framed (Framed.sub h) ?_
    | with_reducible refine State.event_framed (Framed.sub h) ?_
    | with_reducible refine State.freeBytes_framed (Framed.sub h) ?_
    | with_reducible exact State.freeBytes_framed_eq (Framed.sub h) (by assumption) (by assumption)
    | (fail_if_no_progress extract_lets +onlyGivenNames x
       refine cutL (p := Framed ps z x) ?_ ?_; subst x; rotate_left; intro hs; try clear_value x; rotate_right)
    | (fail_if_no_progress extract_lets +onlyGivenNames x
       first
       | (have hd : List _ := x; clear hd; clear_value x)
       | (have hd : Bool := x; clear hd; clear_value x)
       | (have hd : Nat := x; clear hd; clear_value x)
       | subst x)
    | fail_if_no_progress beta_reduce
    | with_reducible refine Framed.ite ?_ ?_
    | split
    | dsimp only)

theorem State.windowRead_framed {ps : List Part} (h : [Part.free, .regs, .plan, .dies, .host, .kl, .tally, .out] ⊆ ps) {z s : State} {x_ : WinAcc}
    (hs : Framed ps z s) : Framed ps z (State.windowRead s x_) := by
  unfold State.windowRead
  repeat' (first
    | with_reducible assumption
    | with_reducible refine State.windowReturn_framed (Framed.sub h) ?_
    | with_reducible refine State.windowReadHere_framed (Framed.sub h) ?_
    | with_reducible refine State.issueSized_framed (Framed.sub h) ?_
    | with_reducible exact State.issueSized_framed_eq (Framed.sub h) (by assumption) (by assumption)
    | with_reducible refine Framed.ite ?_ ?_
    | split
    | dsimp only)

theorem State.raceWords_framed {ps : List Part} (h : [Part.free, .mem, .slices] ⊆ ps) {z s : State} {q0 : List Nat}
    (hs : Framed ps z s) : Framed ps z (State.raceWords s q0) := by
  induction q0 generalizing s with
  | nil =>
    unfold State.raceWords
    repeat' (first
      | with_reducible refine ih ?_
      | with_reducible assumption
      | with_reducible refine State.freeBytes_framed (Framed.sub h) ?_
      | with_reducible exact State.freeBytes_framed_eq (Framed.sub h) (by assumption) (by assumption)
      | with_reducible refine State.store_framed (Framed.sub h) ?_
      | (fail_if_no_progress extract_lets +onlyGivenNames x
         refine cutL (p := Framed ps z x) ?_ ?_; subst x; rotate_left; intro hs; try clear_value x; rotate_right)
      | (fail_if_no_progress extract_lets +onlyGivenNames x
         first
         | (have hd : List _ := x; clear hd; clear_value x)
         | (have hd : Bool := x; clear hd; clear_value x)
         | (have hd : Nat := x; clear hd; clear_value x)
         | subst x)
      | fail_if_no_progress beta_reduce
      | split
      | dsimp only)
  | cons _ _ ih =>
    unfold State.raceWords
    repeat' (first
      | with_reducible refine ih ?_
      | with_reducible assumption
      | with_reducible refine State.freeBytes_framed (Framed.sub h) ?_
      | with_reducible exact State.freeBytes_framed_eq (Framed.sub h) (by assumption) (by assumption)
      | with_reducible refine State.store_framed (Framed.sub h) ?_
      | (fail_if_no_progress extract_lets +onlyGivenNames x
         refine cutL (p := Framed ps z x) ?_ ?_; subst x; rotate_left; intro hs; try clear_value x; rotate_right)
      | (fail_if_no_progress extract_lets +onlyGivenNames x
         first
         | (have hd : List _ := x; clear hd; clear_value x)
         | (have hd : Bool := x; clear hd; clear_value x)
         | (have hd : Nat := x; clear hd; clear_value x)
         | subst x)
      | fail_if_no_progress beta_reduce
      | split
      | dsimp only)

theorem State.windowWriteHere_framed {ps : List Part} (h : [Part.free, .regs, .mem, .slices] ⊆ ps) {z s : State} {x_ : WinAcc} {base : Nat} {q0 : List (Nat × Nat)}
    (hs : Framed ps z s) : Framed ps z (State.windowWriteHere s x_ base q0) := by
  induction q0 generalizing s x_ base with
  | nil =>
    unfold State.windowWriteHere
    repeat' (first
      | with_reducible refine ih ?_
      | with_reducible assumption
      | with_reducible refine State.writeEvents_framed (Framed.sub h) ?_
      | with_reducible refine State.store_framed (Framed.sub h) ?_
      | with_reducible refine State.raceWords_framed (Framed.sub h) ?_
      | with_reducible refine State.windowError_framed (Framed.sub h) ?_
      | (fail_if_no_progress extract_lets +onlyGivenNames x
         refine cutL (p := Framed ps z x) ?_ ?_; subst x; rotate_left; intro hs; try clear_value x; rotate_right)
      | (fail_if_no_progress extract_lets +onlyGivenNames x
         first
         | (have hd : List _ := x; clear hd; clear_value x)
         | (have hd : Bool := x; clear hd; clear_value x)
         | (have hd : Nat := x; clear hd; clear_value x)
         | subst x)
      | fail_if_no_progress beta_reduce
      | with_reducible refine Framed.ite ?_ ?_
      | split)
  | cons _ _ ih =>
    unfold State.windowWriteHere
    repeat' (first
      | with_reducible refine ih ?_
      | with_reducible assumption
      | with_reducible refine State.writeEvents_framed (Framed.sub h) ?_
      | with_reducible refine State.store_framed (Framed.sub h) ?_
      | with_reducible refine State.raceWords_framed (Framed.sub h) ?_
      | with_reducible refine State.windowError_framed (Framed.sub h) ?_
      | (fail_if_no_progress extract_lets +onlyGivenNames x
         refine cutL (p := Framed ps z x) ?_ ?_; subst x; rotate_left; intro hs; try clear_value x; rotate_right)
      | (fail_if_no_progress extract_lets +onlyGivenNames x
         first
         | (have hd : List _ := x; clear hd; clear_value x)
         | (have hd : Bool := x; clear hd; clear_value x)
         | (have hd : Nat := x; clear hd; clear_value x)
         | subst x)
      | fail_if_no_progress beta_reduce
      | with_reducible refine Framed.ite ?_ ?_
      | split)

theorem State.mergeAsk_framed {ps : List Part} (h : [Part.kl, .out] ⊆ ps) {z s : State} {ofs : Nat} {addr : Nat} {data : List Byte} {old : Option (List Byte)}
    (hs : Framed ps z s) : Framed ps z (State.mergeAsk s ofs addr data old).1 := by
  unfold State.mergeAsk
  repeat' (first
    | with_reducible assumption
    | with_reducible refine State.issueSized_framed (Framed.sub h) ?_
    | with_reducible exact State.issueSized_framed_eq (Framed.sub h) (by assumption) (by assumption)
    | with_reducible refine State.issueRemote_framed (Framed.sub h) ?_
    | with_reducible exact State.issueRemote_framed_eq (Framed.sub h) (by assumption) (by assumption)
    | (fail_if_no_progress extract_lets +onlyGivenNames x
       refine cutL (p := Framed ps z x) ?_ ?_; subst x; rotate_left; intro hs; try clear_value x; rotate_right)
    | (fail_if_no_progress extract_lets +onlyGivenNames x
       first
       | (have hd : List _ := x; clear hd; clear_value x)
       | (have hd : Bool := x; clear hd; clear_value x)
       | (have hd : Nat := x; clear hd; clear_value x)
       | subst x)
    | fail_if_no_progress beta_reduce
    | split
    | dsimp only)

theorem State.mergeAsk_framed_eq {ps : List Part} (h : [Part.kl, .out] ⊆ ps) {z s tt : State} {pr : Option Nat} {ofs : Nat} {addr : Nat} {data : List Byte} {old : Option (List Byte)}
    (he : (State.mergeAsk s ofs addr data old) = (tt, pr)) (hs : Framed ps z s) : Framed ps z tt := by
  have := State.mergeAsk_framed (ofs := ofs) (addr := addr) (data := data) (old := old) h hs
  rw [he] at this; exact this

theorem State.mergeStep_framed {ps : List Part} (h : [Part.regs, .kl, .out] ⊆ ps) {z s : State} {ofs : Nat} {addr : Nat} {data : List Byte} {old : Option (List Byte)}
    (hs : Framed ps z s) : Framed ps z (State.mergeStep s ofs addr data old) := by
  unfold State.mergeStep
  repeat' (first
    | with_reducible assumption
    | with_reducible refine State.mergeAsk_framed (Framed.sub h) ?_
    | with_reducible exact State.mergeAsk_framed_eq (Framed.sub h) (by assumption) (by assumption)
    | with_reducible refine State.windowError_framed (Framed.sub h) ?_
    | split
    | dsimp only)

theorem State.windowPut_framed {ps : List Part} (h : [Part.regs, .kl, .out] ⊆ ps) {z s : State} {ofs : Nat} {a : Nat} {data : List Byte}
    (hs : Framed ps z s) : Framed ps z (State.windowPut s ofs a data) := by
  unfold State.windowPut
  repeat' (first
    | with_reducible assumption
    | with_reducible refine State.issueRemote_framed (Framed.sub h) ?_
    | with_reducible exact State.issueRemote_framed_eq (Framed.sub h) (by assumption) (by assumption)
    | with_reducible refine State.windowError_framed (Framed.sub h) ?_
    | with_reducible refine State.mergeStep_framed (Framed.sub h) ?_
    | with_reducible refine Framed.ite ?_ ?_
    | split
    | dsimp only)

theorem State.windowWrite_framed {ps : List Part} (h : [Part.free, .regs, .mem, .slices, .kl, .out] ⊆ ps) {z s : State} {x_ : WinAcc}
    (hs : Framed ps z s) : Framed ps z (State.windowWrite s x_) := by
  unfold State.windowWrite
  repeat' (first
    | with_reducible assumption
    | with_reducible refine State.windowError_framed (Framed.sub h) ?_
    | with_reducible refine State.windowWriteHere_framed (Framed.sub h) ?_
    | with_reducible refine State.windowPut_framed (Framed.sub h) ?_
    | (fail_if_no_progress extract_lets +onlyGivenNames x
       refine cutL (p := Framed ps z x) ?_ ?_; subst x; rotate_left; intro hs; try clear_value x; rotate_right)
    | (fail_if_no_progress extract_lets +onlyGivenNames x
       first
       | (have hd : List _ := x; clear hd; clear_value x)
       | (have hd : Bool := x; clear hd; clear_value x)
       | (have hd : Nat := x; clear hd; clear_value x)
       | subst x)
    | fail_if_no_progress beta_reduce
    | with_reducible refine Framed.ite ?_ ?_
    | with_reducible refine Framed.foldl ?_ (fun _ hs _ => ?_)
    | split
    | dsimp only)

theorem State.pumpWindow_framed {ps : List Part} (h : [Part.free, .regs, .mem, .slices, .plan, .dies, .host, .kl, .tally, .out] ⊆ ps) {z s : State} {q0 : List WinAcc}
    (hs : Framed ps z s) : Framed ps z (State.pumpWindow s q0) := by
  induction q0 generalizing s with
  | nil =>
    unfold State.pumpWindow
    repeat' (first
      | with_reducible refine ih ?_
      | with_reducible assumption
      | with_reducible refine State.emit_framed (Framed.sub h) ?_
      | with_reducible refine State.windowWrite_framed (Framed.sub h) ?_
      | with_reducible refine State.windowRead_framed (Framed.sub h) ?_
      | with_reducible refine Framed.ite ?_ ?_
      | split
      | ((with_reducible refine Framed.upd ?_ ?_); rotate_left; intro p hp; cases p <;> first | exact absurd (h (by decide)) hp | rfl | exact ⟨rfl, rfl⟩))
  | cons _ _ ih =>
    unfold State.pumpWindow
    repeat' (first
      | with_reducible refine ih ?_
      | with_reducible assumption
      | with_reducible refine State.emit_framed (Framed.sub h) ?_
      | with_reducible refine State.windowWrite_framed (Framed.sub h) ?_
      | with_reducible refine State.windowRead_framed (Framed.sub h) ?_
      | with_reducible refine Framed.ite ?_ ?_
      | split
      | ((with_reducible refine Framed.upd ?_ ?_); rotate_left; intro p hp; cases p <;> first | exact absurd (h (by decide)) hp | rfl | exact ⟨rfl, rfl⟩))

theorem State.failReads_framed {ps : List Part} (h : [Part.free, .regs, .mem, .slices, .plan, .dies, .host, .kl, .tally, .out] ⊆ ps) {z s : State} {d : Die} {status : Nat}
    (hs : Framed ps z s) : Framed ps z (State.failReads s d status) := by
  unfold State.failReads
  repeat' (first
    | with_reducible assumption
    | with_reducible refine State.windowError_framed (Framed.sub h) ?_
    | with_reducible refine State.windowReturn_framed (Framed.sub h) ?_
    | with_reducible refine State.pumpWindow_framed (Framed.sub h) ?_
    | (fail_if_no_progress extract_lets +onlyGivenNames x
       refine cutL (p := Framed ps z x) ?_ ?_; subst x; rotate_left; intro hs; try clear_value x; rotate_right)
    | (fail_if_no_progress extract_lets +onlyGivenNames x
       first
       | (have hd : List _ := x; clear hd; clear_value x)
       | (have hd : Bool := x; clear hd; clear_value x)
       | (have hd : Nat := x; clear hd; clear_value x)
       | subst x)
    | fail_if_no_progress beta_reduce
    | with_reducible refine Framed.ite ?_ ?_
    | with_reducible refine Framed.foldl ?_ (fun _ hs _ => ?_)
    | split
    | ((with_reducible refine Framed.upd ?_ ?_); rotate_left; intro p hp; cases p <;> first | exact absurd (h (by decide)) hp | rfl | exact ⟨rfl, rfl⟩))

theorem State.drainReads_framed {ps : List Part} (h : [Part.free, .regs, .mem, .slices, .plan, .dies, .host, .kl, .tally, .out] ⊆ ps) {z s : State}
    (hs : Framed ps z s) : Framed ps z (State.drainReads s) := by
  unfold State.drainReads
  repeat' (first
    | with_reducible assumption
    | with_reducible refine State.pumpWindow_framed (Framed.sub h) ?_)

theorem State.takeAccess_framed {ps : List Part} (h : [Part.free, .regs, .mem, .slices, .plan, .dies, .host, .kl, .tally, .out] ⊆ ps) {z s : State} {x_ : WinAcc}
    (hs : Framed ps z s) : Framed ps z (State.takeAccess s x_) := by
  unfold State.takeAccess
  repeat' (first
    | with_reducible assumption
    | with_reducible refine State.noteStalls_framed (Framed.sub h) ?_
    | with_reducible refine State.pumpWindow_framed (Framed.sub h) ?_
    | (fail_if_no_progress extract_lets +onlyGivenNames x
       refine cutL (p := Framed ps z x) ?_ ?_; subst x; rotate_left; intro hs; try clear_value x; rotate_right)
    | (fail_if_no_progress extract_lets +onlyGivenNames x
       first
       | (have hd : List _ := x; clear hd; clear_value x)
       | (have hd : Bool := x; clear hd; clear_value x)
       | (have hd : Nat := x; clear hd; clear_value x)
       | subst x)
    | fail_if_no_progress beta_reduce)

theorem execBar2Read_framed {ps : List Part} (h : [Part.free, .regs, .mem, .slices, .plan, .dies, .host, .kl, .tally, .out] ⊆ ps) {z s : State} {ofs : Nat} {len : Nat} {met : ReadMet}
    (hs : Framed ps z s) : OutFramed ps z (execBar2Read ofs len met s) := by
  unfold execBar2Read
  repeat' (first
    | with_reducible assumption
    | with_reducible refine OutFramed.next ?_
    | with_reducible exact OutFramed.fault
    | with_reducible refine State.when_framed ?_ (fun _ hs => ?_)
    | with_reducible refine State.when_framed ?_ (fun _ hs => ?_)
    | with_reducible refine State.contendAll_framed (Framed.sub h) ?_
    | with_reducible refine State.takeAccess_framed (Framed.sub h) ?_)

theorem execBar2Write_framed {ps : List Part} (h : [Part.free, .regs, .mem, .slices, .plan, .dies, .host, .kl, .tally, .out] ⊆ ps) {z s : State} {ofs : Nat} {w : WinWrite}
    (hs : Framed ps z s) : OutFramed ps z (execBar2Write ofs w s) := by
  unfold execBar2Write
  repeat' (first
    | with_reducible assumption
    | with_reducible refine OutFramed.next ?_
    | with_reducible refine State.when_framed ?_ (fun _ hs => ?_)
    | with_reducible refine State.when_framed ?_ (fun _ hs => ?_)
    | with_reducible refine State.contendAll_framed (Framed.sub h) ?_
    | with_reducible refine State.takeAccess_framed (Framed.sub h) ?_)

theorem State.setWinBase_framed {ps : List Part} (h : [Part.regs, .badRegs, .dep] ⊆ ps) {z s : State} {hi : Bool} {v : Word}
    (hs : Framed ps z s) : Framed ps z (State.setWinBase s hi v) := by
  unfold State.setWinBase
  repeat' (first
    | with_reducible assumption
    | with_reducible refine State.rewrite_framed (Framed.sub h) ?_
    | with_reducible refine Framed.ite ?_ ?_
    | split)

theorem execWinBase_framed {ps : List Part} (h : [Part.regs, .badRegs, .host, .dep, .out] ⊆ ps) {z s : State} {hi : Bool} {v : Word}
    (hs : Framed ps z s) : OutFramed ps z (execWinBase hi v s) := by
  unfold execWinBase
  repeat' (first
    | with_reducible assumption
    | with_reducible refine OutFramed.next ?_
    | with_reducible refine State.write32_framed (Framed.sub h) ?_ (fun _ hs => ?_)
    | with_reducible refine State.setWinBase_framed (Framed.sub h) ?_)

theorem State.scrubSram_framed {ps : List Part} (h : [Part.regs, .host, .tally, .out] ⊆ ps) {z s : State} {d : Die} {ofs : Nat} {err : Nat} {ms : Nat}
    (hs : Framed ps z s) : Framed ps z (State.scrubSram s d ofs err ms) := by
  unfold State.scrubSram
  repeat' (first
    | with_reducible assumption
    | with_reducible refine State.setReg_framed (Framed.sub h) ?_
    | with_reducible refine State.event_framed (Framed.sub h) ?_
    | with_reducible refine State.log_framed (Framed.sub h) ?_
    | with_reducible refine State.countCe_framed (Framed.sub h) ?_
    | with_reducible refine State.when_framed ?_ (fun _ hs => ?_)
    | (fail_if_no_progress extract_lets +onlyGivenNames x
       refine cutL (p := Framed ps z x) ?_ ?_; subst x; rotate_left; intro hs; try clear_value x; rotate_right)
    | (fail_if_no_progress extract_lets +onlyGivenNames x
       first
       | (have hd : List _ := x; clear hd; clear_value x)
       | (have hd : Bool := x; clear hd; clear_value x)
       | (have hd : Nat := x; clear hd; clear_value x)
       | subst x)
    | split)

theorem execSramScrub_framed {ps : List Part} (h : [Part.regs, .host, .tally, .out] ⊆ ps) {z s : State} {d : Die} {ofs : Nat} {err : Nat} {ms : Nat}
    (hs : Framed ps z s) : OutFramed ps z (execSramScrub d ofs err ms s) := by
  unfold execSramScrub
  repeat' (first
    | with_reducible assumption
    | with_reducible refine OutFramed.next ?_
    | with_reducible refine State.scrubSram_framed (Framed.sub h) ?_
    | with_reducible refine State.when_framed ?_ (fun _ hs => ?_))

theorem execDramScrub_framed {ps : List Part} (h : [Part.regs, .host, .tally, .out] ⊆ ps) {z s : State} {d : Die} {addr : Nat} {err : Nat} {passEnd : Bool}
    (hs : Framed ps z s) : OutFramed ps z (execDramScrub d addr err passEnd s) := by
  unfold execDramScrub
  repeat' (first
    | with_reducible assumption
    | with_reducible refine OutFramed.next ?_
    | with_reducible refine State.event_framed (Framed.sub h) ?_
    | with_reducible refine State.count_framed (Framed.sub h) ?_
    | with_reducible refine State.setField_framed (Framed.sub h) ?_
    | with_reducible refine State.setPair_framed (Framed.sub h) ?_
    | with_reducible refine State.log_framed (Framed.sub h) ?_
    | with_reducible refine State.countCe_framed (Framed.sub h) ?_
    | with_reducible refine State.when_framed ?_ (fun _ hs => ?_)
    | (fail_if_no_progress extract_lets +onlyGivenNames x
       refine cutL (p := Framed ps z x) ?_ ?_; subst x; rotate_left; intro hs; try clear_value x; rotate_right)
    | split)

theorem execRefresh_framed {ps : List Part} (h : [Part.regs] ⊆ ps) {z s : State} {d : Die} {derate : Bool} {ns : Nat}
    (hs : Framed ps z s) : OutFramed ps z (execRefresh d derate ns s) := by
  unfold execRefresh
  repeat' (first
    | with_reducible assumption
    | with_reducible refine OutFramed.next ?_
    | with_reducible refine State.event_framed (Framed.sub h) ?_
    | with_reducible refine State.count_framed (Framed.sub h) ?_
    | with_reducible refine State.setField_framed (Framed.sub h) ?_
    | with_reducible refine State.when_framed ?_ (fun _ hs => ?_))

end Sys2Proof.Machine
end

