-- ==== Sys2Proof/Laws/FrameDeputy.lean ====
section
/-! SUPPORT. The parts of the state that the operations of Machine/Deputy.lean can change. -/

set_option Elab.async false
set_option linter.unusedTactic false
set_option linter.unreachableTactic false
set_option linter.unusedVariables false
set_option linter.tactic.unusedName false

namespace Sys2Proof.Machine
open Sys2Proof

theorem execIssueVerdict_framed {ps : List Part} (h : [Part.dev, .now, .regs, .queue, .sys, .tick, .plan, .dies, .chans, .host, .kl, .safe, .dep, .tally, .out] ⊆ ps) {z s : State} {met : CheckMet}
    (hs : Framed ps z s) : OutFramed ps z (execIssueVerdict met s) := by
  unfold execIssueVerdict
  repeat' (first
    | with_reducible assumption
    | with_reducible refine OutFramed.next ?_
    | with_reducible refine State.when_framed ?_ (fun _ hs => ?_)
    | with_reducible refine State.advance_framed (Framed.sub h) ?_
    | with_reducible refine State.count_framed (Framed.sub h) ?_
    | with_reducible refine State.enterSafe_framed (Framed.sub h) ?_
    | with_reducible refine State.setReg_framed (Framed.sub h) ?_
    | with_reducible refine State.when_framed ?_ (fun _ hs => ?_)
    | with_reducible refine State.event_framed (Framed.sub h) ?_
    | with_reducible refine State.judge_framed (Framed.sub h) ?_
    | (fail_if_no_progress extract_lets +onlyGivenNames x
       refine cutL (p := Framed ps z x) ?_ ?_; subst x; rotate_left; intro hs; try clear_value x; rotate_right)
    | (fail_if_no_progress extract_lets +onlyGivenNames x
       first
       | (have hd : List _ := x; clear hd; clear_value x)
       | (have hd : Bool := x; clear hd; clear_value x)
       | (have hd : Nat := x; clear hd; clear_value x)
       | subst x)
    | fail_if_no_progress beta_reduce
    | with_reducible refine Framed.ite ?_ ?_
    | split
    | ((with_reducible refine Framed.upd ?_ ?_); rotate_left; intro p hp; cases p <;> first | exact absurd (h (by decide)) hp | rfl | exact ⟨rfl, rfl⟩)
    | dsimp only)

theorem execVerdictLate_framed {ps : List Part} (h : [Part.dev, .now, .regs, .queue, .sys, .tick, .plan, .dies, .chans, .host, .kl, .safe, .dep, .tally, .out] ⊆ ps) {z s : State} {t : Nat}
    (hs : Framed ps z s) : OutFramed ps z (execVerdictLate t s) := by
  unfold execVerdictLate
  repeat' (first
    | with_reducible assumption
    | with_reducible refine OutFramed.next ?_
    | with_reducible refine State.advance_framed (Framed.sub h) ?_
    | with_reducible refine State.enterSafe_framed (Framed.sub h) ?_
    | with_reducible refine State.when_framed ?_ (fun _ hs => ?_)
    | split)

theorem State.hostSafe_framed {ps : List Part} (h : [Part.dev, .regs, .queue, .sys, .tick, .plan, .dies, .chans, .host, .kl, .safe, .dep, .tally, .out] ⊆ ps) {z s : State}
    (hs : Framed ps z s) : Framed ps z (State.hostSafe s) := by
  unfold State.hostSafe
  repeat' (first
    | with_reducible assumption
    | with_reducible refine State.enterSafe_framed (Framed.sub h) ?_)

theorem execSafeReq_framed {ps : List Part} (h : [Part.dev, .now, .regs, .queue, .sys, .tick, .plan, .dies, .chans, .host, .kl, .safe, .dep, .tally, .out] ⊆ ps) {z s : State} {t : Nat}
    (hs : Framed ps z s) : OutFramed ps z (execSafeReq t s) := by
  unfold execSafeReq
  repeat' (first
    | with_reducible assumption
    | with_reducible refine OutFramed.next ?_
    | with_reducible refine State.advance_framed (Framed.sub h) ?_
    | with_reducible refine State.write32_framed (Framed.sub h) ?_ (fun _ hs => ?_)
    | with_reducible refine State.hostSafe_framed (Framed.sub h) ?_)

theorem execLockstep_framed {ps : List Part} (h : [Part.dev, .now, .regs, .queue, .sys, .tick, .plan, .dies, .chans, .host, .kl, .safe, .dep, .tally, .out] ⊆ ps) {z s : State} {t : Nat}
    (hs : Framed ps z s) : OutFramed ps z (execLockstep t s) := by
  unfold execLockstep
  repeat' (first
    | with_reducible assumption
    | with_reducible refine OutFramed.next ?_
    | with_reducible refine State.advance_framed (Framed.sub h) ?_
    | with_reducible refine State.enterSafe_framed (Framed.sub h) ?_)

theorem State.setClock_framed {ps : List Part} (h : [Part.power] ⊆ ps) {z s : State} {n : Nat} {on : Bool}
    (hs : Framed ps z s) : Framed ps z (State.setClock s n on) := by
  unfold State.setClock
  repeat' (first
    | with_reducible assumption
    | (fail_if_no_progress extract_lets +onlyGivenNames x
       first
       | (have hd : List _ := x; clear hd; clear_value x)
       | (have hd : Bool := x; clear hd; clear_value x)
       | (have hd : Nat := x; clear hd; clear_value x)
       | subst x)
    | split
    | ((with_reducible refine Framed.upd ?_ ?_); rotate_left; intro p hp; cases p <;> first | exact absurd (h (by decide)) hp | rfl | exact ⟨rfl, rfl⟩))

theorem State.releasePor_framed {ps : List Part} (h : [Part.sys] ⊆ ps) {z s : State}
    (hs : Framed ps z s) : Framed ps z (State.releasePor s) := by
  unfold State.releasePor
  repeat' (first
    | with_reducible assumption
    | with_reducible refine State.when_framed ?_ (fun _ hs => ?_)
    | with_reducible refine State.when_framed ?_ (fun _ hs => ?_)
    | ((with_reducible refine Framed.upd ?_ ?_); rotate_left; intro p hp; cases p <;> first | exact absurd (h (by decide)) hp | rfl | exact ⟨rfl, rfl⟩))

theorem State.clockLost_framed {ps : List Part} (h : [Part.regs, .host, .power, .out] ⊆ ps) {z s : State} {n : Nat}
    (hs : Framed ps z s) : Framed ps z (State.clockLost s n) := by
  unfold State.clockLost
  repeat' (first
    | with_reducible assumption
    | with_reducible refine State.event_framed (Framed.sub h) ?_
    | with_reducible refine State.irq_framed (Framed.sub h) ?_
    | with_reducible refine State.setClock_framed (Framed.sub h) ?_)

theorem execDepClock_framed {ps : List Part} (h : [Part.dev, .now, .regs, .queue, .sys, .tick, .plan, .dies, .chans, .host, .kl, .safe, .dep, .tally, .power, .out] ⊆ ps) {z s : State} {t_ : Nat} {ppm : Int}
    (hs : Framed ps z s) : OutFramed ps z (execDepClock t_ ppm s) := by
  unfold execDepClock
  repeat' (first
    | with_reducible assumption
    | with_reducible refine OutFramed.next ?_
    | with_reducible refine State.setClock_framed (Framed.sub h) ?_
    | with_reducible refine State.releasePor_framed (Framed.sub h) ?_
    | with_reducible refine State.advance_framed (Framed.sub h) ?_
    | with_reducible refine State.setField_framed (Framed.sub h) ?_
    | with_reducible refine State.clockLost_framed (Framed.sub h) ?_
    | with_reducible refine State.monitor_framed (Framed.sub h) ?_
    | with_reducible refine State.causeOff_framed (Framed.sub h) ?_
    | (fail_if_no_progress extract_lets +onlyGivenNames x
       refine cutL (p := Framed ps z x) ?_ ?_; subst x; rotate_left; intro hs; try clear_value x; rotate_right)
    | (fail_if_no_progress extract_lets +onlyGivenNames x
       first
       | (have hd : List _ := x; clear hd; clear_value x)
       | (have hd : Bool := x; clear hd; clear_value x)
       | (have hd : Nat := x; clear hd; clear_value x)
       | subst x)
    | fail_if_no_progress beta_reduce
    | with_reducible refine Framed.ite ?_ ?_
    | split)

theorem execDepclkLost_framed {ps : List Part} (h : [Part.dev, .now, .regs, .queue, .sys, .tick, .plan, .dies, .chans, .host, .kl, .safe, .dep, .tally, .power, .out] ⊆ ps) {z s : State} {t_ : Nat}
    (hs : Framed ps z s) : OutFramed ps z (execDepclkLost t_ s) := by
  unfold execDepclkLost
  repeat' (first
    | with_reducible assumption
    | with_reducible refine OutFramed.next ?_
    | with_reducible refine State.setClock_framed (Framed.sub h) ?_
    | with_reducible refine State.advance_framed (Framed.sub h) ?_
    | with_reducible refine State.clockLost_framed (Framed.sub h) ?_
    | with_reducible refine State.monitor_framed (Framed.sub h) ?_
    | with_reducible refine Framed.ite ?_ ?_
    | split)

theorem execDepVolt_framed {ps : List Part} (h : [Part.dev, .now, .regs, .queue, .sys, .tick, .plan, .dies, .chans, .host, .kl, .safe, .dep, .tally, .out] ⊆ ps) {z s : State} {t_ : Nat} {mV : Nat}
    (hs : Framed ps z s) : OutFramed ps z (execDepVolt t_ mV s) := by
  unfold execDepVolt
  repeat' (first
    | with_reducible assumption
    | with_reducible refine OutFramed.next ?_
    | with_reducible refine State.advance_framed (Framed.sub h) ?_
    | with_reducible refine State.monitor_framed (Framed.sub h) ?_
    | with_reducible refine State.causeOff_framed (Framed.sub h) ?_
    | (fail_if_no_progress extract_lets +onlyGivenNames x
       refine cutL (p := Framed ps z x) ?_ ?_; subst x; rotate_left; intro hs; try clear_value x; rotate_right)
    | (fail_if_no_progress extract_lets +onlyGivenNames x
       first
       | (have hd : List _ := x; clear hd; clear_value x)
       | (have hd : Bool := x; clear hd; clear_value x)
       | (have hd : Nat := x; clear hd; clear_value x)
       | subst x)
    | fail_if_no_progress beta_reduce
    | with_reducible refine Framed.ite ?_ ?_
    | split)

theorem State.setTemps_framed {ps : List Part} (h : [Part.regs] ⊆ ps) {z s : State} {s0 : Nat} {s1 : Nat} {h_ : Nat}
    (hs : Framed ps z s) : Framed ps z (State.setTemps s s0 s1 h_) := by
  unfold State.setTemps
  repeat' (first
    | with_reducible assumption
    | with_reducible refine State.setReg_framed (Framed.sub h) ?_)

theorem State.thermPin_framed {ps : List Part} (h : [Part.dep] ⊆ ps) {z s : State} {s0 : Nat} {s1 : Nat} {h_ : Nat}
    (hs : Framed ps z s) : Framed ps z (State.thermPin s s0 s1 h_) := by
  unfold State.thermPin
  repeat' (first
    | with_reducible assumption
    | (fail_if_no_progress extract_lets +onlyGivenNames x
       first
       | (have hd : List _ := x; clear hd; clear_value x)
       | (have hd : Bool := x; clear hd; clear_value x)
       | (have hd : Nat := x; clear hd; clear_value x)
       | subst x)
    | ((with_reducible refine Framed.upd ?_ ?_); rotate_left; intro p hp; cases p <;> first | exact absurd (h (by decide)) hp | rfl | exact ⟨rfl, rfl⟩))

theorem State.dieReturned_framed {ps : List Part} (h : [Part.free, .regs, .mem, .slices, .plan, .world, .dies, .chans, .host, .kl, .tally, .out] ⊆ ps) {z s : State} {who : Issuer} {status : Nat} {data : List Byte}
    (hs : Framed ps z s) : Framed ps z (State.dieReturned s who status data) := by
  unfold State.dieReturned
  repeat' (first
    | with_reducible assumption
    | with_reducible refine State.when_framed ?_ (fun _ hs => ?_)
    | with_reducible refine State.chainReturn_framed (Framed.sub h) ?_
    | with_reducible refine State.moverReturn_framed (Framed.sub h) ?_
    | with_reducible refine State.when_framed ?_ (fun _ hs => ?_)
    | with_reducible refine State.mapRunning_framed (Framed.sub h) ?_
    | with_reducible refine State.chanResponse_framed (Framed.sub h) ?_
    | with_reducible refine Framed.ite ?_ ?_
    | split
    | dsimp only)

theorem State.failDieOps_framed {ps : List Part} (h : [Part.free, .regs, .mem, .slices, .plan, .world, .dies, .chans, .host, .kl, .tally, .out] ⊆ ps) {z s : State} {d : Die} {status : Nat}
    (hs : Framed ps z s) : Framed ps z (State.failDieOps s d status) := by
  unfold State.failDieOps
  repeat' (first
    | with_reducible assumption
    | with_reducible refine State.dropOps_framed (Framed.sub h) ?_
    | with_reducible refine State.dieReturned_framed (Framed.sub h) ?_
    | with_reducible refine Framed.foldl ?_ (fun _ hs _ => ?_)
    | split
    | dsimp only)

theorem State.endChainOf_framed {ps : List Part} (h : [Part.regs, .world, .dies, .chans, .host, .kl, .out] ⊆ ps) {z s : State} {ch : Nat} {status : Nat}
    (hs : Framed ps z s) : Framed ps z (State.endChainOf s ch status) := by
  unfold State.endChainOf
  repeat' (first
    | with_reducible assumption
    | with_reducible refine State.endChain_framed (Framed.sub h) ?_
    | split
    | dsimp only)

theorem State.failWaits_framed {ps : List Part} (h : [Part.free, .regs, .mem, .slices, .plan, .dies, .host, .kl, .tally, .out] ⊆ ps) {z s : State} {d : Die} {status : Nat}
    (hs : Framed ps z s) : Framed ps z (State.failWaits s d status) := by
  unfold State.failWaits
  repeat' (first
    | with_reducible assumption
    | with_reducible refine State.failStalled_framed (Framed.sub h) ?_
    | with_reducible refine State.failReads_framed (Framed.sub h) ?_)

theorem State.endTraffic_framed {ps : List Part} (h : [Part.free, .regs, .mem, .slices, .plan, .world, .dies, .chans, .host, .kl, .tally, .out] ⊆ ps) {z s : State} {d : Die}
    (hs : Framed ps z s) : Framed ps z (State.endTraffic s d) := by
  unfold State.endTraffic
  repeat' (first
    | with_reducible assumption
    | with_reducible refine State.when_framed ?_ (fun _ hs => ?_)
    | with_reducible refine State.setDie_framed (Framed.sub h) ?_ ?_
    | ((with_reducible refine fun (hn : Part.slices ∉ ps) => ?_); first | exact absurd (h (by decide)) hn | exact Framed.die hs hn _ | exact Framed.die (by assumption) hn _ | exact (hs _ hn).1 | exact (hs _ hn).2 | simpa using Framed.die hs hn _)
    | with_reducible refine State.endChainOf_framed (Framed.sub h) ?_
    | with_reducible refine State.failDieOps_framed (Framed.sub h) ?_
    | with_reducible refine State.failWaits_framed (Framed.sub h) ?_
    | with_reducible refine State.cutSync_framed (Framed.sub h) ?_
    | with_reducible refine State.when_framed ?_ (fun _ hs => ?_)
    | with_reducible refine State.event_framed (Framed.sub h) ?_
    | (fail_if_no_progress extract_lets +onlyGivenNames x
       refine cutL (p := Framed ps z x) ?_ ?_; subst x; rotate_left; intro hs; try clear_value x; rotate_right)
    | (fail_if_no_progress extract_lets +onlyGivenNames x
       first
       | (have hd : List _ := x; clear hd; clear_value x)
       | (have hd : Bool := x; clear hd; clear_value x)
       | (have hd : Nat := x; clear hd; clear_value x)
       | subst x)
    | fail_if_no_progress beta_reduce
    | with_reducible refine Framed.foldl ?_ (fun _ hs _ => ?_)
    | ((with_reducible refine Framed.upd ?_ ?_); rotate_left; intro p hp; cases p <;> first | exact absurd (h (by decide)) hp | rfl | exact ⟨rfl, rfl⟩))

theorem State.failXcut_framed {ps : List Part} (h : [Part.free, .regs, .mem, .slices, .plan, .world, .dies, .chans, .host, .kl, .tally, .out] ⊆ ps) {z s : State} {hub : Bool} {d : Die}
    (hs : Framed ps z s) : Framed ps z (State.failXcut s hub d) := by
  unfold State.failXcut
  repeat' (first
    | with_reducible assumption
    | with_reducible refine State.setDie_framed (Framed.sub h) ?_ ?_
    | ((with_reducible refine fun (hn : Part.slices ∉ ps) => ?_); first | exact absurd (h (by decide)) hn | exact Framed.die hs hn _ | exact Framed.die (by assumption) hn _ | exact (hs _ hn).1 | exact (hs _ hn).2 | simpa using Framed.die hs hn _)
    | with_reducible refine State.failDieOps_framed (Framed.sub h) ?_
    | with_reducible refine State.endChainOf_framed (Framed.sub h) ?_
    | with_reducible refine State.failWaits_framed (Framed.sub h) ?_
    | with_reducible refine State.cutSync_framed (Framed.sub h) ?_
    | (fail_if_no_progress extract_lets +onlyGivenNames x
       refine cutL (p := Framed ps z x) ?_ ?_; subst x; rotate_left; intro hs; try clear_value x; rotate_right)
    | (fail_if_no_progress extract_lets +onlyGivenNames x
       first
       | (have hd : List _ := x; clear hd; clear_value x)
       | (have hd : Bool := x; clear hd; clear_value x)
       | (have hd : Nat := x; clear hd; clear_value x)
       | subst x)
    | fail_if_no_progress beta_reduce
    | with_reducible refine Framed.ite ?_ ?_
    | with_reducible refine Framed.foldl ?_ (fun _ hs _ => ?_)
    | split
    | ((with_reducible refine Framed.upd ?_ ?_); rotate_left; intro p hp; cases p <;> first | exact absurd (h (by decide)) hp | rfl | exact ⟨rfl, rfl⟩))

theorem State.cutPower_framed {ps : List Part} (h : [Part.free, .regs, .mem, .slices, .plan, .world, .dies, .chans, .host, .kl, .tally, .power, .out] ⊆ ps) {z s : State} {d : Die}
    {forced : Bool} (hs : Framed ps z s) : Framed ps z (s.cutPower d forced) := by
  have ha := State.endTraffic_framed (d := d) (Framed.sub h) hs
  have hb := State.unlockDie_framed (d := d) (Framed.sub h)
    (State.setDie_framed (d := d) (x := ((s.endTraffic d).die d).unpower forced) (Framed.sub h) ha
      fun hn => by simpa using Framed.die ha hn d)
  exact State.setDie_framed (Framed.sub h) hb fun hn => Framed.die hb hn d.other

theorem execOvertemp_framed {ps : List Part} (h : [Part.free, .dev, .now, .regs, .mem, .slices, .queue, .sys, .tick, .plan, .world, .dies, .chans, .host, .kl, .safe, .dep, .tally, .power, .out] ⊆ ps) {z s : State} {t_ : Nat} {s0 : Nat} {s1 : Nat} {h_ : Nat}
    (hs : Framed ps z s) : OutFramed ps z (execOvertemp t_ s0 s1 h_ s) := by
  unfold execOvertemp
  repeat' (first
    | with_reducible assumption
    | with_reducible refine OutFramed.next ?_
    | with_reducible refine State.when_framed ?_ (fun _ hs => ?_)
    | with_reducible refine State.when_framed ?_ (fun _ hs => ?_)
    | with_reducible refine State.advance_framed (Framed.sub h) ?_
    | with_reducible refine State.setTemps_framed (Framed.sub h) ?_
    | with_reducible refine State.thermPin_framed (Framed.sub h) ?_
    | with_reducible refine State.endTraffic_framed (Framed.sub h) ?_
    | with_reducible refine State.monitor_framed (Framed.sub h) ?_
    | with_reducible refine State.cutPower_framed (Framed.sub h) ?_
    | with_reducible refine State.gatedDie_framed (Framed.sub h) ?_
    | with_reducible refine State.event_framed (Framed.sub h) ?_
    | with_reducible refine State.causeOff_framed (Framed.sub h) ?_
    | (fail_if_no_progress extract_lets +onlyGivenNames x
       refine cutL (p := Framed ps z x) ?_ ?_; subst x; rotate_left; intro hs; try clear_value x; rotate_right)
    | (fail_if_no_progress extract_lets +onlyGivenNames x
       first
       | (have hd : List _ := x; clear hd; clear_value x)
       | (have hd : Bool := x; clear hd; clear_value x)
       | (have hd : Nat := x; clear hd; clear_value x)
       | subst x)
    | fail_if_no_progress beta_reduce
    | with_reducible refine Framed.foldl ?_ (fun _ hs _ => ?_))

theorem execThermN_framed {ps : List Part} (h : [Part.regs, .dep] ⊆ ps) {z s : State} {s0 : Nat} {s1 : Nat} {h_ : Nat}
    (hs : Framed ps z s) : OutFramed ps z (execThermN s0 s1 h_ s) := by
  unfold execThermN
  repeat' (first
    | with_reducible assumption
    | with_reducible refine OutFramed.next ?_
    | with_reducible refine State.causeOff_framed (Framed.sub h) ?_
    | with_reducible refine State.setTemps_framed (Framed.sub h) ?_
    | with_reducible refine State.thermPin_framed (Framed.sub h) ?_
    | with_reducible refine State.when_framed ?_ (fun _ hs => ?_))

theorem State.spiAnswer_framed {ps : List Part} (h : [Part.regs, .out] ⊆ ps) {z s : State} {cmd : Byte} {seq : Byte} {arg : BitVec 16} {crc : BitVec 16} {result : Nat} {payload : List Byte}
    (hs : Framed ps z s) : Framed ps z (State.spiAnswer s cmd seq arg crc result payload) := by
  unfold State.spiAnswer
  repeat' (first
    | with_reducible assumption
    | with_reducible refine State.setReg_framed (Framed.sub h) ?_
    | with_reducible refine State.emit_framed (Framed.sub h) ?_)

theorem State.spiRefuse_framed {ps : List Part} (h : [Part.regs, .out] ⊆ ps) {z s : State} {cmd : Byte} {seq : Byte} {arg : BitVec 16} {crc : BitVec 16} {result : Nat} {len : Nat}
    (hs : Framed ps z s) : Framed ps z (State.spiRefuse s cmd seq arg crc result len) := by
  unfold State.spiRefuse
  repeat' (first
    | with_reducible assumption
    | with_reducible refine State.setReg_framed (Framed.sub h) ?_
    | with_reducible refine State.event_framed (Framed.sub h) ?_
    | with_reducible refine State.spiAnswer_framed (Framed.sub h) ?_)

theorem State.irqHigh_framed {ps : List Part} (h : [Part.dep] ⊆ ps) {z s : State}
    (hs : Framed ps z s) : Framed ps z (State.irqHigh s) := by
  unfold State.irqHigh
  repeat' (first
    | with_reducible assumption
    | (fail_if_no_progress extract_lets +onlyGivenNames x
       first
       | (have hd : List _ := x; clear hd; clear_value x)
       | (have hd : Bool := x; clear hd; clear_value x)
       | (have hd : Nat := x; clear hd; clear_value x)
       | subst x)
    | ((with_reducible refine Framed.upd ?_ ?_); rotate_left; intro p hp; cases p <;> first | exact absurd (h (by decide)) hp | rfl | exact ⟨rfl, rfl⟩))

theorem execStatus_framed {ps : List Part} (h : [Part.regs, .dep, .out] ⊆ ps) {z s : State} {seq : Byte} {arg : BitVec 16} {crc : BitVec 16}
    (hs : Framed ps z s) : OutFramed ps z (execStatus seq arg crc s) := by
  unfold execStatus
  repeat' (first
    | with_reducible assumption
    | with_reducible refine OutFramed.next ?_
    | with_reducible refine State.spiAnswer_framed (Framed.sub h) ?_
    | with_reducible refine State.spiRefuse_framed (Framed.sub h) ?_
    | with_reducible refine State.irqHigh_framed (Framed.sub h) ?_
    | (fail_if_no_progress extract_lets +onlyGivenNames x
       first
       | (have hd : List _ := x; clear hd; clear_value x)
       | (have hd : Bool := x; clear hd; clear_value x)
       | (have hd : Nat := x; clear hd; clear_value x)
       | subst x)
    | with_reducible refine Framed.ite ?_ ?_)

theorem execVerdict_framed {ps : List Part} (h : [Part.regs, .dep, .out] ⊆ ps) {z s : State} {seq : Byte} {arg : BitVec 16} {crc : BitVec 16}
    (hs : Framed ps z s) : OutFramed ps z (execVerdict seq arg crc s) := by
  unfold execVerdict
  repeat' (first
    | with_reducible assumption
    | with_reducible refine OutFramed.next ?_
    | with_reducible refine State.spiAnswer_framed (Framed.sub h) ?_
    | with_reducible refine State.spiRefuse_framed (Framed.sub h) ?_
    | with_reducible refine State.irqHigh_framed (Framed.sub h) ?_
    | with_reducible refine Framed.ite ?_ ?_)

theorem execVerdictAt_framed {ps : List Part} (h : [Part.regs, .out] ⊆ ps) {z s : State} {seq : Byte} {arg : BitVec 16} {crc : BitVec 16}
    (hs : Framed ps z s) : OutFramed ps z (execVerdictAt seq arg crc s) := by
  unfold execVerdictAt
  repeat' (first
    | with_reducible assumption
    | with_reducible refine OutFramed.next ?_
    | with_reducible refine State.spiAnswer_framed (Framed.sub h) ?_
    | with_reducible refine State.spiRefuse_framed (Framed.sub h) ?_
    | with_reducible refine Framed.ite ?_ ?_
    | split)

theorem execRelease_framed {ps : List Part} (h : [Part.regs, .sys, .host, .safe, .dep, .tally, .out] ⊆ ps) {z s : State} {seq : Byte} {arg : BitVec 16} {f : ReleaseEnd}
    (hs : Framed ps z s) : OutFramed ps z (execRelease seq arg f s) := by
  unfold execRelease
  repeat' (first
    | with_reducible assumption
    | with_reducible refine OutFramed.next ?_
    | with_reducible refine State.spiRefuse_framed (Framed.sub h) ?_
    | with_reducible refine State.event_framed (Framed.sub h) ?_
    | with_reducible refine State.log_framed (Framed.sub h) ?_
    | with_reducible refine State.spiAnswer_framed (Framed.sub h) ?_
    | (fail_if_no_progress extract_lets +onlyGivenNames x
       refine cutL (p := Framed ps z x) ?_ ?_; subst x; rotate_left; intro hs; try clear_value x; rotate_right)
    | (fail_if_no_progress extract_lets +onlyGivenNames x
       first
       | (have hd : List _ := x; clear hd; clear_value x)
       | (have hd : Bool := x; clear hd; clear_value x)
       | (have hd : Nat := x; clear hd; clear_value x)
       | subst x)
    | fail_if_no_progress beta_reduce
    | with_reducible refine Framed.ite ?_ ?_
    | split
    | ((with_reducible refine Framed.upd ?_ ?_); rotate_left; intro p hp; cases p <;> first | exact absurd (h (by decide)) hp | rfl | exact ⟨rfl, rfl⟩))

theorem execSafe_framed {ps : List Part} (h : [Part.dev, .now, .regs, .queue, .sys, .tick, .plan, .dies, .chans, .host, .kl, .safe, .dep, .tally, .out] ⊆ ps) {z s : State} {t : Nat} {seq : Byte} {arg : BitVec 16} {crc : BitVec 16}
    (hs : Framed ps z s) : OutFramed ps z (execSafe t seq arg crc s) := by
  unfold execSafe
  repeat' (first
    | with_reducible assumption
    | with_reducible refine OutFramed.next ?_
    | with_reducible refine State.advance_framed (Framed.sub h) ?_
    | with_reducible refine State.enterSafe_framed (Framed.sub h) ?_
    | with_reducible refine State.spiAnswer_framed (Framed.sub h) ?_
    | with_reducible refine State.spiRefuse_framed (Framed.sub h) ?_
    | with_reducible refine Framed.ite ?_ ?_)

theorem execEcho_framed {ps : List Part} (h : [Part.regs, .out] ⊆ ps) {z s : State} {seq : Byte} {arg : BitVec 16} {crc : BitVec 16}
    (hs : Framed ps z s) : OutFramed ps z (execEcho seq arg crc s) := by
  unfold execEcho
  repeat' (first
    | with_reducible assumption
    | with_reducible refine OutFramed.next ?_
    | with_reducible refine State.spiAnswer_framed (Framed.sub h) ?_
    | with_reducible refine State.spiRefuse_framed (Framed.sub h) ?_
    | with_reducible refine Framed.ite ?_ ?_)

theorem execBadCmd_framed {ps : List Part} (h : [Part.regs, .out] ⊆ ps) {z s : State} {cmd : Byte} {seq : Byte} {arg : BitVec 16} {crc : BitVec 16}
    (hs : Framed ps z s) : OutFramed ps z (execBadCmd cmd seq arg crc s) := by
  unfold execBadCmd
  repeat' (first
    | with_reducible assumption
    | with_reducible refine OutFramed.named ?_
    | with_reducible refine State.spiRefuse_framed (Framed.sub h) ?_)

theorem execSpiAbandon_framed {ps : List Part} (h : ([] : List Part) ⊆ ps) {z s : State}
    (hs : Framed ps z s) : OutFramed ps z (execSpiAbandon s) := by
  unfold execSpiAbandon
  repeat' (first
    | with_reducible assumption
    | with_reducible refine OutFramed.next ?_)

end Sys2Proof.Machine
end

