-- ==== Sys2Proof/Laws/FrameKornov.lean ====
section
/-! SUPPORT. The parts of the state that the operations of Machine/Kornov.lean can change. -/

set_option Elab.async false
set_option linter.unusedTactic false
set_option linter.unreachableTactic false
set_option linter.unusedVariables false
set_option linter.tactic.unusedName false

namespace Sys2Proof.Machine
open Sys2Proof

theorem State.klEvent_framed {ps : List Part} (h : [Part.regs, .host, .out] ⊆ ps) {z s : State} {n : Nat}
    (hs : Framed ps z s) : Framed ps z (State.klEvent s n) := by
  unfold State.klEvent
  repeat' (first
    | with_reducible assumption
    | with_reducible refine State.event_framed (Framed.sub h) ?_
    | with_reducible refine State.irq_framed (Framed.sub h) ?_)

theorem State.opReturned_framed {ps : List Part} (h : [Part.free, .regs, .mem, .slices, .plan, .world, .dies, .chans, .host, .kl, .tally, .out] ⊆ ps) {z s : State} {who : Issuer} {status : Nat} {data : List Byte}
    (hs : Framed ps z s) : Framed ps z (State.opReturned s who status data) := by
  unfold State.opReturned
  repeat' (first
    | with_reducible assumption
    | with_reducible refine State.when_framed ?_ (fun _ hs => ?_)
    | with_reducible refine State.when_framed ?_ (fun _ hs => ?_)
    | with_reducible refine State.windowError_framed (Framed.sub h) ?_
    | with_reducible refine State.windowReturn_framed (Framed.sub h) ?_
    | with_reducible refine State.drainReads_framed (Framed.sub h) ?_
    | with_reducible refine State.mergeStep_framed (Framed.sub h) ?_
    | with_reducible refine State.dieReturned_framed (Framed.sub h) ?_
    | with_reducible refine Framed.ite ?_ ?_
    | split
    | dsimp only)

theorem State.completeOp_framed {ps : List Part} (h : [Part.free, .regs, .mem, .slices, .plan, .world, .dies, .chans, .host, .kl, .tally, .out] ⊆ ps) {z s : State} {tag : Nat} {status : Nat} {data : List Byte}
    (hs : Framed ps z s) : Framed ps z (State.completeOp s tag status data) := by
  unfold State.completeOp
  repeat' (first
    | with_reducible assumption
    | with_reducible refine State.dropOps_framed (Framed.sub h) ?_
    | with_reducible refine State.opReturned_framed (Framed.sub h) ?_
    | split
    | dsimp only)

theorem State.failOps_framed {ps : List Part} (h : [Part.free, .regs, .mem, .slices, .plan, .world, .dies, .chans, .host, .kl, .tally, .out] ⊆ ps) {z s : State} {p_ : Nat} {status : Nat}
    (hs : Framed ps z s) : Framed ps z (State.failOps s p_ status) := by
  unfold State.failOps
  repeat' (first
    | with_reducible assumption
    | with_reducible refine State.completeOp_framed (Framed.sub h) ?_
    | with_reducible refine Framed.foldl ?_ (fun _ hs _ => ?_))

theorem execResponse_framed {ps : List Part} (h : [Part.free, .regs, .mem, .slices, .plan, .world, .dies, .chans, .host, .kl, .tally, .out] ⊆ ps) {z s : State} {tag : Nat} {status : Nat} {data : List Byte}
    (hs : Framed ps z s) : OutFramed ps z (execResponse tag status data s) := by
  unfold execResponse
  repeat' (first
    | with_reducible assumption
    | with_reducible refine OutFramed.next ?_
    | with_reducible refine State.completeOp_framed (Framed.sub h) ?_)

theorem State.endBcast_framed {ps : List Part} (h : [Part.regs, .host, .kl, .out] ⊆ ps) {z s : State}
    (hs : Framed ps z s) : Framed ps z (State.endBcast s) := by
  unfold State.endBcast
  repeat' (first
    | with_reducible assumption
    | with_reducible refine State.when_framed ?_ (fun _ hs => ?_)
    | with_reducible refine State.when_framed ?_ (fun _ hs => ?_)
    | with_reducible refine State.klEvent_framed (Framed.sub h) ?_
    | ((with_reducible refine Framed.upd ?_ ?_); rotate_left; intro p hp; cases p <;> first | exact absurd (h (by decide)) hp | rfl | exact ⟨rfl, rfl⟩))

theorem State.passFlit_framed {ps : List Part} (h : [Part.kl, .out] ⊆ ps) {z s : State} {p_ : Nat} {num : Nat} {c : Cut} {flit : List Byte}
    (hs : Framed ps z s) : Framed ps z (State.passFlit s p_ num c flit) := by
  unfold State.passFlit
  repeat' (first
    | with_reducible assumption
    | with_reducible refine State.passOn_framed (Framed.sub h) ?_)

theorem State.endCut_framed {ps : List Part} (h : [Part.free, .kl, .out] ⊆ ps) {z s : State} {p_ : Nat} {c : Cut} {q0 : Nat}
    (hs : Framed ps z s) : Framed ps z (State.endCut s p_ c q0) := by
  induction q0 generalizing s p_ c with
  | zero =>
    unfold State.endCut
    repeat' (first
      | with_reducible refine ih ?_
      | with_reducible assumption
      | with_reducible refine State.freeBytes_framed (Framed.sub h) ?_
      | with_reducible exact State.freeBytes_framed_eq (Framed.sub h) (by assumption) (by assumption)
      | with_reducible refine State.passFlit_framed (Framed.sub h) ?_
      | (fail_if_no_progress extract_lets +onlyGivenNames x
         refine cutL (p := Framed ps z x) ?_ ?_; subst x; rotate_left; intro hs; try clear_value x; rotate_right)
      | (fail_if_no_progress extract_lets +onlyGivenNames x
         first
         | (have hd : List _ := x; clear hd; clear_value x)
         | (have hd : Bool := x; clear hd; clear_value x)
         | (have hd : Nat := x; clear hd; clear_value x)
         | subst x)
      | fail_if_no_progress beta_reduce
      | split
      | ((with_reducible refine Framed.upd ?_ ?_); rotate_left; intro p hp; cases p <;> first | exact absurd (h (by decide)) hp | rfl | exact ⟨rfl, rfl⟩)
      | dsimp only)
  | succ _ ih =>
    unfold State.endCut
    repeat' (first
      | with_reducible refine ih ?_
      | with_reducible assumption
      | with_reducible refine State.freeBytes_framed (Framed.sub h) ?_
      | with_reducible exact State.freeBytes_framed_eq (Framed.sub h) (by assumption) (by assumption)
      | with_reducible refine State.passFlit_framed (Framed.sub h) ?_
      | (fail_if_no_progress extract_lets +onlyGivenNames x
         refine cutL (p := Framed ps z x) ?_ ?_; subst x; rotate_left; intro hs; try clear_value x; rotate_right)
      | (fail_if_no_progress extract_lets +onlyGivenNames x
         first
         | (have hd : List _ := x; clear hd; clear_value x)
         | (have hd : Bool := x; clear hd; clear_value x)
         | (have hd : Nat := x; clear hd; clear_value x)
         | subst x)
      | fail_if_no_progress beta_reduce
      | split
      | ((with_reducible refine Framed.upd ?_ ?_); rotate_left; intro p hp; cases p <;> first | exact absurd (h (by decide)) hp | rfl | exact ⟨rfl, rfl⟩)
      | dsimp only)

theorem State.answerLost_framed {ps : List Part} (h : [Part.kl, .out] ⊆ ps) {z s : State} {status : Nat} {f : WaitFlit}
    (hs : Framed ps z s) : Framed ps z (State.answerLost s status f) := by
  unfold State.answerLost
  repeat' (first
    | with_reducible assumption
    | with_reducible refine State.when_framed ?_ (fun _ hs => ?_)
    | with_reducible refine State.when_framed ?_ (fun _ hs => ?_)
    | with_reducible refine State.respond_framed (Framed.sub h) ?_
    | (fail_if_no_progress extract_lets +onlyGivenNames x
       refine cutL (p := Framed ps z x) ?_ ?_; subst x; rotate_left; intro hs; try clear_value x; rotate_right)
    | (fail_if_no_progress extract_lets +onlyGivenNames x
       first
       | (have hd : List _ := x; clear hd; clear_value x)
       | (have hd : Bool := x; clear hd; clear_value x)
       | (have hd : Nat := x; clear hd; clear_value x)
       | subst x)
    | fail_if_no_progress beta_reduce)

theorem State.losePort_framed {ps : List Part} (h : [Part.free, .regs, .mem, .slices, .plan, .world, .dies, .chans, .host, .kl, .tally, .out] ⊆ ps) {z s : State} {p_ : Nat}
    (hs : Framed ps z s) : Framed ps z (State.losePort s p_) := by
  unfold State.losePort
  repeat' (first
    | with_reducible assumption
    | with_reducible refine State.mapPort_framed (Framed.sub h) ?_
    | with_reducible refine State.endCut_framed (Framed.sub h) ?_
    | with_reducible refine State.freeFlit_framed (Framed.sub h) ?_
    | with_reducible refine State.answerLost_framed (Framed.sub h) ?_
    | with_reducible refine State.failOps_framed (Framed.sub h) ?_
    | with_reducible refine State.endBcast_framed (Framed.sub h) ?_
    | (fail_if_no_progress extract_lets +onlyGivenNames x
       refine cutL (p := Framed ps z x) ?_ ?_; subst x; rotate_left; intro hs; try clear_value x; rotate_right)
    | (fail_if_no_progress extract_lets +onlyGivenNames x
       first
       | (have hd : List _ := x; clear hd; clear_value x)
       | (have hd : Bool := x; clear hd; clear_value x)
       | (have hd : Nat := x; clear hd; clear_value x)
       | subst x)
    | fail_if_no_progress beta_reduce
    | with_reducible refine Framed.ite ?_ ?_
    | with_reducible refine Framed.foldl ?_ (fun _ hs _ => ?_)
    | split
    | ((with_reducible refine Framed.upd ?_ ?_); rotate_left; intro p hp; cases p <;> first | exact absurd (h (by decide)) hp | rfl | exact ⟨rfl, rfl⟩)
    | dsimp only)

theorem State.portDown_framed {ps : List Part} (h : [Part.free, .regs, .mem, .slices, .plan, .world, .dies, .chans, .host, .kl, .tally, .out] ⊆ ps) {z s : State} {p_ : Nat} {cause : Nat}
    (hs : Framed ps z s) : Framed ps z (State.portDown s p_ cause) := by
  unfold State.portDown
  repeat' (first
    | with_reducible assumption
    | with_reducible refine State.when_framed ?_ (fun _ hs => ?_)
    | with_reducible refine State.losePort_framed (Framed.sub h) ?_
    | with_reducible refine State.event_framed (Framed.sub h) ?_
    | with_reducible refine State.log_framed (Framed.sub h) ?_
    | with_reducible refine State.irq_framed (Framed.sub h) ?_
    | with_reducible refine State.when_framed ?_ (fun _ hs => ?_)
    | with_reducible refine State.sendTrain_framed (Framed.sub h) ?_
    | (fail_if_no_progress extract_lets +onlyGivenNames x
       refine cutL (p := Framed ps z x) ?_ ?_; subst x; rotate_left; intro hs; try clear_value x; rotate_right)
    | (fail_if_no_progress extract_lets +onlyGivenNames x
       first
       | (have hd : List _ := x; clear hd; clear_value x)
       | (have hd : Bool := x; clear hd; clear_value x)
       | (have hd : Nat := x; clear hd; clear_value x)
       | subst x)
    | fail_if_no_progress beta_reduce
    | with_reducible refine Framed.ite ?_ ?_
    | split)

theorem execLaneFail_framed {ps : List Part} (h : [Part.free, .regs, .mem, .slices, .plan, .world, .dies, .chans, .host, .kl, .tally, .out] ⊆ ps) {z s : State} {port : Nat} {lane : Nat}
    (hs : Framed ps z s) : OutFramed ps z (execLaneFail port lane s) := by
  unfold execLaneFail
  repeat' (first
    | with_reducible assumption
    | with_reducible refine OutFramed.named ?_
    | with_reducible refine State.event_framed (Framed.sub h) ?_
    | with_reducible refine State.irq_framed (Framed.sub h) ?_
    | with_reducible refine State.log_framed (Framed.sub h) ?_
    | with_reducible refine State.mapPort_framed (Framed.sub h) ?_
    | with_reducible refine State.sendTrain_framed (Framed.sub h) ?_
    | with_reducible refine State.portDown_framed (Framed.sub h) ?_
    | with_reducible refine State.when_framed ?_ (fun _ hs => ?_)
    | (fail_if_no_progress extract_lets +onlyGivenNames x
       refine cutL (p := Framed ps z x) ?_ ?_; subst x; rotate_left; intro hs; try clear_value x; rotate_right)
    | with_reducible refine Framed.ite ?_ ?_)

theorem State.resend_framed {ps : List Part} (h : [Part.out] ⊆ ps) {z s : State} {p_ : Nat}
    (hs : Framed ps z s) : Framed ps z (State.resend s p_) := by
  unfold State.resend
  repeat' (first
    | with_reducible assumption
    | with_reducible refine State.emit_framed (Framed.sub h) ?_
    | with_reducible refine Framed.foldl ?_ (fun _ hs _ => ?_))

theorem execTrain_framed {ps : List Part} (h : [Part.free, .regs, .mem, .slices, .plan, .world, .dies, .chans, .host, .kl, .tally, .power, .out] ⊆ ps) {z s : State} {port : Nat} {node : Nat} {digest : Nat} {wire : Nat}
    (hs : Framed ps z s) : OutFramed ps z (execTrain port node digest wire s) := by
  unfold execTrain
  repeat' (first
    | with_reducible assumption
    | with_reducible refine OutFramed.named ?_
    | with_reducible refine State.when_framed ?_ (fun _ hs => ?_)
    | with_reducible refine State.setClock_framed (Framed.sub h) ?_
    | with_reducible refine State.when_framed ?_ (fun _ hs => ?_)
    | with_reducible refine State.sendTrain_framed (Framed.sub h) ?_
    | with_reducible refine State.losePort_framed (Framed.sub h) ?_
    | with_reducible refine State.mapPort_framed (Framed.sub h) ?_
    | with_reducible refine State.klEvent_framed (Framed.sub h) ?_
    | with_reducible refine State.resend_framed (Framed.sub h) ?_
    | (fail_if_no_progress extract_lets +onlyGivenNames x
       refine cutL (p := Framed ps z x) ?_ ?_; subst x; rotate_left; intro hs; try clear_value x; rotate_right)
    | (fail_if_no_progress extract_lets +onlyGivenNames x
       first
       | (have hd : List _ := x; clear hd; clear_value x)
       | (have hd : Bool := x; clear hd; clear_value x)
       | (have hd : Nat := x; clear hd; clear_value x)
       | subst x)
    | fail_if_no_progress beta_reduce
    | with_reducible refine Framed.ite ?_ ?_
    | split
    | ((with_reducible refine Framed.upd ?_ ?_); rotate_left; intro p hp; cases p <;> first | exact absurd (h (by decide)) hp | rfl | exact ⟨rfl, rfl⟩))

theorem State.forward_framed {ps : List Part} (h : [Part.kl, .out] ⊆ ps) {z s : State} {from_ : Nat} {dest : Nat} {packet : List Byte}
    (hs : Framed ps z s) : Framed ps z (State.forward s from_ dest packet) := by
  unfold State.forward
  repeat' (first
    | with_reducible assumption
    | with_reducible refine State.when_framed ?_ (fun _ hs => ?_)
    | with_reducible refine State.sendOn_framed (Framed.sub h) ?_
    | with_reducible refine State.when_framed ?_ (fun _ hs => ?_)
    | with_reducible refine State.respond_framed (Framed.sub h) ?_
    | (fail_if_no_progress extract_lets +onlyGivenNames x
       refine cutL (p := Framed ps z x) ?_ ?_; subst x; rotate_left; intro hs; try clear_value x; rotate_right)
    | (fail_if_no_progress extract_lets +onlyGivenNames x
       first
       | (have hd : List _ := x; clear hd; clear_value x)
       | (have hd : Bool := x; clear hd; clear_value x)
       | (have hd : Nat := x; clear hd; clear_value x)
       | subst x)
    | fail_if_no_progress beta_reduce
    | split
    | dsimp only)

theorem State.sendTree_framed {ps : List Part} (h : [Part.kl, .out] ⊆ ps) {z s : State} {from_ : Nat} {src : Nat} {tag : Nat} {addr : Nat} {data : List Byte}
    (hs : Framed ps z s) : Framed ps z (State.sendTree s from_ src tag addr data) := by
  unfold State.sendTree
  repeat' (first
    | with_reducible assumption
    | with_reducible refine State.when_framed ?_ (fun _ hs => ?_)
    | with_reducible refine State.when_framed ?_ (fun _ hs => ?_)
    | with_reducible refine State.sendFrom_framed (Framed.sub h) ?_
    | with_reducible refine Framed.foldl ?_ (fun _ hs _ => ?_))

theorem State.takeBroadcast_framed {ps : List Part} (h : [Part.free, .regs, .mem, .slices, .plan, .dies, .host, .kl, .tally, .out] ⊆ ps) {z s : State} {src : Nat} {left : Nat} {addr : Nat} {data : List Byte}
    (hs : Framed ps z s) : Framed ps z (State.takeBroadcast s src left addr data) := by
  unfold State.takeBroadcast
  repeat' (first
    | with_reducible assumption
    | with_reducible refine State.performRemote_framed (Framed.sub h) ?_
    | with_reducible refine State.sendTree_framed (Framed.sub h) ?_)

theorem execBroadcast_framed {ps : List Part} (h : [Part.free, .regs, .mem, .slices, .plan, .dies, .host, .kl, .tally, .out] ⊆ ps) {z s : State} {src : Nat} {addr : Nat} {b : BcastData}
    (hs : Framed ps z s) : OutFramed ps z (execBroadcast src addr b s) := by
  unfold execBroadcast
  repeat' (first
    | with_reducible assumption
    | with_reducible refine OutFramed.next ?_
    | with_reducible refine State.takeBroadcast_framed (Framed.sub h) ?_)

theorem State.takePacket_framed {ps : List Part} (h : [Part.free, .regs, .mem, .slices, .plan, .world, .dies, .chans, .host, .kl, .tally, .out] ⊆ ps) {z s : State} {p_ : Nat} {packet : List Byte}
    (hs : Framed ps z s) : Framed ps z (State.takePacket s p_ packet) := by
  unfold State.takePacket
  repeat' (first
    | with_reducible assumption
    | with_reducible refine State.performRemote_framed (Framed.sub h) ?_
    | with_reducible refine State.forward_framed (Framed.sub h) ?_
    | with_reducible refine State.completeOp_framed (Framed.sub h) ?_
    | (fail_if_no_progress extract_lets +onlyGivenNames x
       refine cutL (p := Framed ps z x) ?_ ?_; subst x; rotate_left; intro hs; try clear_value x; rotate_right)
    | (fail_if_no_progress extract_lets +onlyGivenNames x
       first
       | (have hd : List _ := x; clear hd; clear_value x)
       | (have hd : Bool := x; clear hd; clear_value x)
       | (have hd : Nat := x; clear hd; clear_value x)
       | subst x)
    | fail_if_no_progress beta_reduce
    | with_reducible refine Framed.ite ?_ ?_
    | split)

theorem State.takeBytes_framed {ps : List Part} (h : [Part.free, .regs, .mem, .slices, .plan, .world, .dies, .chans, .host, .kl, .tally, .out] ⊆ ps) {z s : State} {p_ : Nat} {payload : List Byte}
    (hs : Framed ps z s) : Framed ps z (State.takeBytes s p_ payload) := by
  unfold State.takeBytes
  repeat' (first
    | with_reducible assumption
    | with_reducible refine State.mapPort_framed (Framed.sub h) ?_
    | with_reducible refine State.takePacket_framed (Framed.sub h) ?_
    | (fail_if_no_progress extract_lets +onlyGivenNames x
       first
       | (have hd : List _ := x; clear hd; clear_value x)
       | (have hd : Bool := x; clear hd; clear_value x)
       | (have hd : Nat := x; clear hd; clear_value x)
       | subst x)
    | with_reducible refine Framed.ite ?_ ?_)

theorem State.takeFlit_framed {ps : List Part} (h : [Part.free, .regs, .mem, .slices, .plan, .world, .dies, .chans, .host, .kl, .tally, .out] ⊆ ps) {z s : State} {p_ : Nat} {num : Nat} {payload : List Byte}
    (hs : Framed ps z s) : Framed ps z (State.takeFlit s p_ num payload) := by
  unfold State.takeFlit
  repeat' (first
    | with_reducible assumption
    | with_reducible refine State.when_framed ?_ (fun _ hs => ?_)
    | with_reducible refine State.mapPort_framed (Framed.sub h) ?_
    | with_reducible refine State.passFlit_framed (Framed.sub h) ?_
    | with_reducible refine State.when_framed ?_ (fun _ hs => ?_)
    | with_reducible refine State.takeBytes_framed (Framed.sub h) ?_
    | with_reducible refine State.passOn_framed (Framed.sub h) ?_
    | with_reducible refine State.emit_framed (Framed.sub h) ?_
    | (fail_if_no_progress extract_lets +onlyGivenNames x
       refine cutL (p := Framed ps z x) ?_ ?_; subst x; rotate_left; intro hs; try clear_value x; rotate_right)
    | (fail_if_no_progress extract_lets +onlyGivenNames x
       first
       | (have hd : List _ := x; clear hd; clear_value x)
       | (have hd : Bool := x; clear hd; clear_value x)
       | (have hd : Nat := x; clear hd; clear_value x)
       | subst x)
    | fail_if_no_progress beta_reduce
    | with_reducible refine Framed.ite ?_ ?_
    | split
    | dsimp only)

theorem execFlit_framed {ps : List Part} (h : [Part.free, .regs, .mem, .slices, .plan, .world, .dies, .chans, .host, .kl, .tally, .out] ⊆ ps) {z s : State} {port : Nat} {f : FlitIn}
    (hs : Framed ps z s) : OutFramed ps z (execFlit port f s) := by
  unfold execFlit
  repeat' (first
    | with_reducible assumption
    | with_reducible refine OutFramed.named ?_
    | with_reducible refine State.when_framed ?_ (fun _ hs => ?_)
    | with_reducible refine State.when_framed ?_ (fun _ hs => ?_)
    | with_reducible refine State.count_framed (Framed.sub h) ?_
    | with_reducible refine State.mapPort_framed (Framed.sub h) ?_
    | with_reducible refine State.emit_framed (Framed.sub h) ?_
    | with_reducible refine State.takeFlit_framed (Framed.sub h) ?_
    | with_reducible refine State.endBcast_framed (Framed.sub h) ?_
    | with_reducible refine State.portDown_framed (Framed.sub h) ?_
    | (fail_if_no_progress extract_lets +onlyGivenNames x
       refine cutL (p := Framed ps z x) ?_ ?_; subst x; rotate_left; intro hs; try clear_value x; rotate_right)
    | (fail_if_no_progress extract_lets +onlyGivenNames x
       first
       | (have hd : List _ := x; clear hd; clear_value x)
       | (have hd : Bool := x; clear hd; clear_value x)
       | (have hd : Nat := x; clear hd; clear_value x)
       | subst x)
    | fail_if_no_progress beta_reduce
    | with_reducible refine Framed.ite ?_ ?_
    | split
    | ((with_reducible refine Framed.upd ?_ ?_); rotate_left; intro p hp; cases p <;> first | exact absurd (h (by decide)) hp | rfl | exact ⟨rfl, rfl⟩))

theorem execAck_framed {ps : List Part} (h : [Part.regs, .host, .kl, .out] ⊆ ps) {z s : State} {port : Nat} {n : Nat}
    (hs : Framed ps z s) : OutFramed ps z (execAck port n s) := by
  unfold execAck
  repeat' (first
    | with_reducible assumption
    | with_reducible refine OutFramed.named ?_
    | with_reducible refine State.when_framed ?_ (fun _ hs => ?_)
    | with_reducible refine State.when_framed ?_ (fun _ hs => ?_)
    | with_reducible refine State.mapPort_framed (Framed.sub h) ?_
    | with_reducible refine State.pumpPort_framed (Framed.sub h) ?_
    | with_reducible refine State.endBcast_framed (Framed.sub h) ?_
    | (fail_if_no_progress extract_lets +onlyGivenNames x
       refine cutL (p := Framed ps z x) ?_ ?_; subst x; rotate_left; intro hs; try clear_value x; rotate_right)
    | (fail_if_no_progress extract_lets +onlyGivenNames x
       first
       | (have hd : List _ := x; clear hd; clear_value x)
       | (have hd : Bool := x; clear hd; clear_value x)
       | (have hd : Nat := x; clear hd; clear_value x)
       | subst x)
    | fail_if_no_progress beta_reduce)

theorem execNak_framed {ps : List Part} (h : [Part.free, .regs, .mem, .slices, .plan, .world, .dies, .chans, .host, .kl, .tally, .out] ⊆ ps) {z s : State} {port : Nat} {n : Nat}
    (hs : Framed ps z s) : OutFramed ps z (execNak port n s) := by
  unfold execNak
  repeat' (first
    | with_reducible assumption
    | with_reducible refine OutFramed.named ?_
    | with_reducible refine State.when_framed ?_ (fun _ hs => ?_)
    | with_reducible refine State.when_framed ?_ (fun _ hs => ?_)
    | with_reducible refine State.mapPort_framed (Framed.sub h) ?_
    | with_reducible refine State.portDown_framed (Framed.sub h) ?_
    | with_reducible refine State.count_framed (Framed.sub h) ?_
    | with_reducible refine State.klEvent_framed (Framed.sub h) ?_
    | with_reducible refine State.resend_framed (Framed.sub h) ?_
    | (fail_if_no_progress extract_lets +onlyGivenNames x
       refine cutL (p := Framed ps z x) ?_ ?_; subst x; rotate_left; intro hs; try clear_value x; rotate_right)
    | (fail_if_no_progress extract_lets +onlyGivenNames x
       first
       | (have hd : List _ := x; clear hd; clear_value x)
       | (have hd : Bool := x; clear hd; clear_value x)
       | (have hd : Nat := x; clear hd; clear_value x)
       | subst x)
    | fail_if_no_progress beta_reduce
    | with_reducible refine Framed.ite ?_ ?_
    | split
    | dsimp only)

theorem execCredit_framed {ps : List Part} (h : [Part.regs, .host, .kl, .out] ⊆ ps) {z s : State} {port : Nat} {vc : Nat} {n : Nat}
    (hs : Framed ps z s) : OutFramed ps z (execCredit port vc n s) := by
  unfold execCredit
  repeat' (first
    | with_reducible assumption
    | with_reducible refine OutFramed.named ?_
    | with_reducible refine State.when_framed ?_ (fun _ hs => ?_)
    | with_reducible refine State.when_framed ?_ (fun _ hs => ?_)
    | with_reducible refine State.mapPort_framed (Framed.sub h) ?_
    | with_reducible refine State.pumpPort_framed (Framed.sub h) ?_
    | with_reducible refine State.endBcast_framed (Framed.sub h) ?_
    | (fail_if_no_progress extract_lets +onlyGivenNames x
       refine cutL (p := Framed ps z x) ?_ ?_; subst x; rotate_left; intro hs; try clear_value x; rotate_right)
    | (fail_if_no_progress extract_lets +onlyGivenNames x
       first
       | (have hd : List _ := x; clear hd; clear_value x)
       | (have hd : Bool := x; clear hd; clear_value x)
       | (have hd : Nat := x; clear hd; clear_value x)
       | subst x)
    | fail_if_no_progress beta_reduce
    | with_reducible refine Framed.ite ?_ ?_
    | split
    | ((with_reducible refine Framed.upd ?_ ?_); rotate_left; intro p hp; cases p <;> first | exact absurd (h (by decide)) hp | rfl | exact ⟨rfl, rfl⟩))

theorem State.remoteArrives_framed {ps : List Part} (h : [Part.free, .regs, .mem, .slices, .plan, .dies, .host, .kl, .tally, .out] ⊆ ps) {z s : State} {op : Nat} {src : Nat} {tag : Nat} {addr : Nat} {len : Nat} {fault : Nat} {data : List Byte}
    (hs : Framed ps z s) : Framed ps z (State.remoteArrives s op src tag addr len fault data) := by
  unfold State.remoteArrives
  repeat' (first
    | with_reducible assumption
    | with_reducible refine State.performRemote_framed (Framed.sub h) ?_
    | with_reducible refine State.forward_framed (Framed.sub h) ?_
    | with_reducible refine Framed.ite ?_ ?_)

theorem execPut_framed {ps : List Part} (h : [Part.free, .regs, .mem, .slices, .plan, .dies, .host, .kl, .tally, .out] ⊆ ps) {z s : State} {src : Nat} {tag : Nat} {addr : Nat} {w : PutArg}
    (hs : Framed ps z s) : OutFramed ps z (execPut src tag addr w s) := by
  unfold execPut
  repeat' (first
    | with_reducible assumption
    | with_reducible refine OutFramed.next ?_
    | with_reducible refine State.contendAll_framed (Framed.sub h) ?_
    | with_reducible refine State.remoteArrives_framed (Framed.sub h) ?_)

theorem execGet_framed {ps : List Part} (h : [Part.free, .regs, .mem, .slices, .plan, .dies, .host, .kl, .tally, .out] ⊆ ps) {z s : State} {src : Nat} {tag : Nat} {addr : Nat} {len : Nat} {met : ReadMet}
    (hs : Framed ps z s) : OutFramed ps z (execGet src tag addr len met s) := by
  unfold execGet
  repeat' (first
    | with_reducible assumption
    | with_reducible refine OutFramed.next ?_
    | with_reducible exact OutFramed.fault
    | with_reducible refine State.contendAll_framed (Framed.sub h) ?_
    | with_reducible refine State.remoteArrives_framed (Framed.sub h) ?_)

theorem execAtomicAdd_framed {ps : List Part} (h : [Part.free, .regs, .mem, .slices, .plan, .dies, .host, .kl, .tally, .out] ⊆ ps) {z s : State} {src : Nat} {tag : Nat} {addr : Nat} {v : AtomicArg}
    (hs : Framed ps z s) : OutFramed ps z (execAtomicAdd src tag addr v s) := by
  unfold execAtomicAdd
  repeat' (first
    | with_reducible assumption
    | with_reducible refine OutFramed.next ?_
    | with_reducible exact OutFramed.fault
    | with_reducible refine State.contendAll_framed (Framed.sub h) ?_
    | with_reducible refine State.remoteArrives_framed (Framed.sub h) ?_)

theorem execAtomicMax_framed {ps : List Part} (h : [Part.free, .regs, .mem, .slices, .plan, .dies, .host, .kl, .tally, .out] ⊆ ps) {z s : State} {src : Nat} {tag : Nat} {addr : Nat} {v : AtomicArg}
    (hs : Framed ps z s) : OutFramed ps z (execAtomicMax src tag addr v s) := by
  unfold execAtomicMax
  repeat' (first
    | with_reducible assumption
    | with_reducible refine OutFramed.next ?_
    | with_reducible exact OutFramed.fault
    | with_reducible refine State.contendAll_framed (Framed.sub h) ?_
    | with_reducible refine State.remoteArrives_framed (Framed.sub h) ?_)

theorem execAtomicSwap_framed {ps : List Part} (h : [Part.free, .regs, .mem, .slices, .plan, .dies, .host, .kl, .tally, .out] ⊆ ps) {z s : State} {src : Nat} {tag : Nat} {addr : Nat} {v : AtomicArg}
    (hs : Framed ps z s) : OutFramed ps z (execAtomicSwap src tag addr v s) := by
  unfold execAtomicSwap
  repeat' (first
    | with_reducible assumption
    | with_reducible refine OutFramed.next ?_
    | with_reducible exact OutFramed.fault
    | with_reducible refine State.contendAll_framed (Framed.sub h) ?_
    | with_reducible refine State.remoteArrives_framed (Framed.sub h) ?_)

theorem execAtomicCas_framed {ps : List Part} (h : [Part.free, .regs, .mem, .slices, .plan, .dies, .host, .kl, .tally, .out] ⊆ ps) {z s : State} {src : Nat} {tag : Nat} {addr : Nat} {c : DWord} {v : AtomicArg}
    (hs : Framed ps z s) : OutFramed ps z (execAtomicCas src tag addr c v s) := by
  unfold execAtomicCas
  repeat' (first
    | with_reducible assumption
    | with_reducible refine OutFramed.next ?_
    | with_reducible exact OutFramed.fault
    | with_reducible refine State.contendAll_framed (Framed.sub h) ?_
    | with_reducible refine State.remoteArrives_framed (Framed.sub h) ?_)

theorem execSignal_framed {ps : List Part} (h : [Part.free, .regs, .mem, .slices, .plan, .dies, .host, .kl, .tally, .out] ⊆ ps) {z s : State} {src : Nat} {tag : Nat} {addr : Nat} {counter : Nat} {w : PutArg}
    (hs : Framed ps z s) : OutFramed ps z (execSignal src tag addr counter w s) := by
  unfold execSignal
  repeat' (first
    | with_reducible assumption
    | with_reducible refine OutFramed.next ?_
    | with_reducible refine State.contendAll_framed (Framed.sub h) ?_
    | with_reducible refine State.remoteArrives_framed (Framed.sub h) ?_)

theorem execFence_framed {ps : List Part} (h : [Part.free, .regs, .mem, .slices, .plan, .dies, .host, .kl, .tally, .out] ⊆ ps) {z s : State} {issuer : Nat}
    (hs : Framed ps z s) : OutFramed ps z (execFence issuer s) := by
  unfold execFence
  repeat' (first
    | with_reducible assumption
    | with_reducible refine OutFramed.next ?_
    | with_reducible refine State.pumpWindow_framed (Framed.sub h) ?_
    | with_reducible refine State.settleFences_framed (Framed.sub h) ?_
    | with_reducible refine Framed.ite ?_ ?_
    | split
    | ((with_reducible refine Framed.upd ?_ ?_); rotate_left; intro p hp; cases p <;> first | exact absurd (h (by decide)) hp | rfl | exact ⟨rfl, rfl⟩))

theorem State.sendBarrier_framed {ps : List Part} (h : [Part.out] ⊆ ps) {z s : State} {p_ : Nat} {phase : Nat}
    (hs : Framed ps z s) : Framed ps z (State.sendBarrier s p_ phase) := by
  unfold State.sendBarrier
  repeat' (first
    | with_reducible assumption
    | with_reducible refine State.emit_framed (Framed.sub h) ?_)

theorem State.releaseBarrier_framed {ps : List Part} (h : [Part.regs, .host, .kl, .out] ⊆ ps) {z s : State}
    (hs : Framed ps z s) : Framed ps z (State.releaseBarrier s) := by
  unfold State.releaseBarrier
  repeat' (first
    | with_reducible assumption
    | with_reducible refine State.klEvent_framed (Framed.sub h) ?_
    | with_reducible refine State.sendBarrier_framed (Framed.sub h) ?_
    | with_reducible refine Framed.foldl ?_ (fun _ hs _ => ?_)
    | (fail_if_no_progress extract_lets +onlyGivenNames x
       first
       | (have hd : List _ := x; clear hd; clear_value x)
       | (have hd : Bool := x; clear hd; clear_value x)
       | (have hd : Nat := x; clear hd; clear_value x)
       | subst x)
    | ((with_reducible refine Framed.upd ?_ ?_); rotate_left; intro p hp; cases p <;> first | exact absurd (h (by decide)) hp | rfl | exact ⟨rfl, rfl⟩))

theorem State.gatherBarrier_framed {ps : List Part} (h : [Part.regs, .host, .kl, .out] ⊆ ps) {z s : State}
    (hs : Framed ps z s) : Framed ps z (State.gatherBarrier s) := by
  unfold State.gatherBarrier
  repeat' (first
    | with_reducible assumption
    | with_reducible refine State.sendBarrier_framed (Framed.sub h) ?_
    | with_reducible refine State.releaseBarrier_framed (Framed.sub h) ?_
    | with_reducible refine State.when_framed ?_ (fun _ hs => ?_)
    | with_reducible refine Framed.ite ?_ ?_
    | split)

theorem State.enterBarrier_framed {ps : List Part} (h : [Part.regs, .host, .kl, .out] ⊆ ps) {z s : State}
    (hs : Framed ps z s) : Framed ps z (State.enterBarrier s) := by
  unfold State.enterBarrier
  repeat' (first
    | with_reducible assumption
    | with_reducible refine State.klEvent_framed (Framed.sub h) ?_
    | with_reducible refine State.gatherBarrier_framed (Framed.sub h) ?_
    | (fail_if_no_progress extract_lets +onlyGivenNames x
       first
       | (have hd : List _ := x; clear hd; clear_value x)
       | (have hd : Bool := x; clear hd; clear_value x)
       | (have hd : Nat := x; clear hd; clear_value x)
       | subst x)
    | with_reducible refine Framed.ite ?_ ?_
    | ((with_reducible refine Framed.upd ?_ ?_); rotate_left; intro p hp; cases p <;> first | exact absurd (h (by decide)) hp | rfl | exact ⟨rfl, rfl⟩))

theorem execBarrier_framed {ps : List Part} (h : [Part.regs, .host, .kl, .out] ⊆ ps) {z s : State}
    (hs : Framed ps z s) : OutFramed ps z (execBarrier s) := by
  unfold execBarrier
  repeat' (first
    | with_reducible assumption
    | with_reducible refine OutFramed.next ?_
    | with_reducible refine State.write32_framed (Framed.sub h) ?_ (fun _ hs => ?_)
    | with_reducible refine State.enterBarrier_framed (Framed.sub h) ?_)

theorem execBarrierBlock_framed {ps : List Part} (h : [Part.regs, .host, .kl, .out] ⊆ ps) {z s : State} {port : Nat} {gather : Bool} {epoch : Bool}
    (hs : Framed ps z s) : OutFramed ps z (execBarrierBlock port gather epoch s) := by
  unfold execBarrierBlock
  repeat' (first
    | with_reducible assumption
    | with_reducible refine OutFramed.named ?_
    | with_reducible refine State.releaseBarrier_framed (Framed.sub h) ?_
    | with_reducible refine State.gatherBarrier_framed (Framed.sub h) ?_
    | with_reducible refine State.when_framed ?_ (fun _ hs => ?_)
    | (fail_if_no_progress extract_lets +onlyGivenNames x
       first
       | (have hd : List _ := x; clear hd; clear_value x)
       | (have hd : Bool := x; clear hd; clear_value x)
       | (have hd : Nat := x; clear hd; clear_value x)
       | subst x)
    | with_reducible refine Framed.ite ?_ ?_
    | ((with_reducible refine Framed.upd ?_ ?_); rotate_left; intro p hp; cases p <;> first | exact absurd (h (by decide)) hp | rfl | exact ⟨rfl, rfl⟩))

theorem State.readPieces_framed {ps : List Part} (h : [Part.regs] ⊆ ps) {z s : State} {q0 : List (Nat × Nat)}
    {q1 : List Byte} (hs : Framed ps z s) : Framed ps z (s.readPieces q0 q1).1 := by
  induction q0 generalizing s q1 with
  | nil => exact hs
  | cons e l ih => exact ih (State.getHere_framed h hs)

theorem State.readPieces_framed_eq {ps : List Part} (h : [Part.regs] ⊆ ps) {z s tt : State} {pr : List Byte}
    {q0 : List (Nat × Nat)} {q1 : List Byte} (he : s.readPieces q0 q1 = (tt, pr)) (hs : Framed ps z s) :
    Framed ps z tt := by
  have := State.readPieces_framed (q0 := q0) (q1 := q1) h hs
  rw [he] at this; exact this

theorem State.bcastPiece_framed {ps : List Part} (h : [Part.regs, .kl, .out] ⊆ ps) {z s : State} {src : Nat} {dst : Nat} {n : Nat} {left : Nat}
    (hs : Framed ps z s) : Framed ps z (State.bcastPiece s src dst n left) := by
  unfold State.bcastPiece
  repeat' (first
    | with_reducible assumption
    | with_reducible refine State.readPieces_framed (Framed.sub h) ?_
    | with_reducible exact State.readPieces_framed_eq (Framed.sub h) (by assumption) (by assumption)
    | with_reducible refine State.sendTree_framed (Framed.sub h) ?_
    | (fail_if_no_progress extract_lets +onlyGivenNames x
       refine cutL (p := Framed ps z x) ?_ ?_; subst x; rotate_left; intro hs; try clear_value x; rotate_right)
    | (fail_if_no_progress extract_lets +onlyGivenNames x
       first
       | (have hd : List _ := x; clear hd; clear_value x)
       | (have hd : Bool := x; clear hd; clear_value x)
       | (have hd : Nat := x; clear hd; clear_value x)
       | subst x)
    | fail_if_no_progress beta_reduce
    | split
    | dsimp only)

theorem State.pumpBcast_framed {ps : List Part} (h : [Part.regs, .host, .kl, .out] ⊆ ps) {z s : State} {q0 : List (Nat × Nat × Nat × Nat)}
    (hs : Framed ps z s) : Framed ps z (State.pumpBcast s q0) := by
  induction q0 generalizing s with
  | nil =>
    unfold State.pumpBcast
    repeat' (first
      | with_reducible refine ih ?_
      | with_reducible assumption
      | with_reducible refine State.endBcast_framed (Framed.sub h) ?_
      | with_reducible refine State.bcastPiece_framed (Framed.sub h) ?_
      | with_reducible refine Framed.ite ?_ ?_
      | split
      | ((with_reducible refine Framed.upd ?_ ?_); rotate_left; intro p hp; cases p <;> first | exact absurd (h (by decide)) hp | rfl | exact ⟨rfl, rfl⟩))
  | cons _ _ ih =>
    unfold State.pumpBcast
    repeat' (first
      | with_reducible refine ih ?_
      | with_reducible assumption
      | with_reducible refine State.endBcast_framed (Framed.sub h) ?_
      | with_reducible refine State.bcastPiece_framed (Framed.sub h) ?_
      | with_reducible refine Framed.ite ?_ ?_
      | split
      | ((with_reducible refine Framed.upd ?_ ?_); rotate_left; intro p hp; cases p <;> first | exact absurd (h (by decide)) hp | rfl | exact ⟨rfl, rfl⟩))

theorem State.startBcast_framed {ps : List Part} (h : [Part.dev, .regs, .badRegs, .queue, .sys, .tick, .plan, .dies, .chans, .host, .kl, .safe, .dep, .tally, .out] ⊆ ps) {z s : State}
    (hs : Framed ps z s) : Framed ps z (State.startBcast s) := by
  unfold State.startBcast
  repeat' (first
    | with_reducible assumption
    | with_reducible refine State.klEvent_framed (Framed.sub h) ?_
    | with_reducible refine State.checkUses_framed (Framed.sub h) ?_
    | with_reducible refine State.noteStalls_framed (Framed.sub h) ?_
    | with_reducible refine State.pumpBcast_framed (Framed.sub h) ?_
    | (fail_if_no_progress extract_lets +onlyGivenNames x
       refine cutL (p := Framed ps z x) ?_ ?_; subst x; rotate_left; intro hs; try clear_value x; rotate_right)
    | (fail_if_no_progress extract_lets +onlyGivenNames x
       first
       | (have hd : List _ := x; clear hd; clear_value x)
       | (have hd : Bool := x; clear hd; clear_value x)
       | (have hd : Nat := x; clear hd; clear_value x)
       | subst x)
    | fail_if_no_progress beta_reduce
    | with_reducible refine Framed.ite ?_ ?_
    | split
    | ((with_reducible refine Framed.upd ?_ ?_); rotate_left; intro p hp; cases p <;> first | exact absurd (h (by decide)) hp | rfl | exact ⟨rfl, rfl⟩))

theorem execBcast_framed {ps : List Part} (h : [Part.dev, .regs, .badRegs, .queue, .sys, .tick, .plan, .dies, .chans, .host, .kl, .safe, .dep, .tally, .out] ⊆ ps) {z s : State}
    (hs : Framed ps z s) : OutFramed ps z (execBcast s) := by
  unfold execBcast
  repeat' (first
    | with_reducible assumption
    | with_reducible refine OutFramed.next ?_
    | with_reducible refine State.write32_framed (Framed.sub h) ?_ (fun _ hs => ?_)
    | with_reducible refine State.startBcast_framed (Framed.sub h) ?_)

theorem State.takeSnapReq_framed {ps : List Part} (h : [Part.regs, .host, .kl, .out] ⊆ ps) {z s : State} {j : Nat}
    (hs : Framed ps z s) : Framed ps z (State.takeSnapReq s j) := by
  unfold State.takeSnapReq
  repeat' (first
    | with_reducible assumption
    | with_reducible refine State.emit_framed (Framed.sub h) ?_
    | with_reducible refine State.klEvent_framed (Framed.sub h) ?_
    | with_reducible refine State.when_framed ?_ (fun _ hs => ?_)
    | with_reducible refine Framed.foldl ?_ (fun _ hs _ => ?_)
    | (fail_if_no_progress extract_lets +onlyGivenNames x
       refine cutL (p := Framed ps z x) ?_ ?_; subst x; rotate_left; intro hs; try clear_value x; rotate_right)
    | (fail_if_no_progress extract_lets +onlyGivenNames x
       first
       | (have hd : List _ := x; clear hd; clear_value x)
       | (have hd : Bool := x; clear hd; clear_value x)
       | (have hd : Nat := x; clear hd; clear_value x)
       | subst x)
    | with_reducible refine Framed.ite ?_ ?_
    | ((with_reducible refine Framed.upd ?_ ?_); rotate_left; intro p hp; cases p <;> first | exact absurd (h (by decide)) hp | rfl | exact ⟨rfl, rfl⟩))

theorem State.startSnap_framed {ps : List Part} (h : [Part.dev, .regs, .badRegs, .queue, .sys, .tick, .plan, .dies, .chans, .host, .kl, .safe, .dep, .tally, .out] ⊆ ps) {z s : State}
    (hs : Framed ps z s) : Framed ps z (State.startSnap s) := by
  unfold State.startSnap
  repeat' (first
    | with_reducible assumption
    | with_reducible refine State.klEvent_framed (Framed.sub h) ?_
    | with_reducible refine State.checkUses_framed (Framed.sub h) ?_
    | with_reducible refine State.takeSnapReq_framed (Framed.sub h) ?_
    | (fail_if_no_progress extract_lets +onlyGivenNames x
       refine cutL (p := Framed ps z x) ?_ ?_; subst x; rotate_left; intro hs; try clear_value x; rotate_right)
    | (fail_if_no_progress extract_lets +onlyGivenNames x
       first
       | (have hd : List _ := x; clear hd; clear_value x)
       | (have hd : Bool := x; clear hd; clear_value x)
       | (have hd : Nat := x; clear hd; clear_value x)
       | subst x)
    | fail_if_no_progress beta_reduce
    | with_reducible refine Framed.ite ?_ ?_
    | split
    | ((with_reducible refine Framed.upd ?_ ?_); rotate_left; intro p hp; cases p <;> first | exact absurd (h (by decide)) hp | rfl | exact ⟨rfl, rfl⟩))

theorem execSnap_framed {ps : List Part} (h : [Part.dev, .regs, .badRegs, .queue, .sys, .tick, .plan, .dies, .chans, .host, .kl, .safe, .dep, .tally, .out] ⊆ ps) {z s : State}
    (hs : Framed ps z s) : OutFramed ps z (execSnap s) := by
  unfold execSnap
  repeat' (first
    | with_reducible assumption
    | with_reducible refine OutFramed.next ?_
    | with_reducible refine State.write32_framed (Framed.sub h) ?_ (fun _ hs => ?_)
    | with_reducible refine State.startSnap_framed (Framed.sub h) ?_)

theorem execSnapReq_framed {ps : List Part} (h : [Part.now, .regs, .host, .kl, .out] ⊆ ps) {z s : State} {t_ : Nat} {tick : Nat}
    (hs : Framed ps z s) : OutFramed ps z (execSnapReq t_ tick s) := by
  unfold execSnapReq
  repeat' (first
    | with_reducible assumption
    | with_reducible refine OutFramed.next ?_
    | with_reducible refine State.advance_framed (Framed.sub h) ?_
    | with_reducible refine State.klEvent_framed (Framed.sub h) ?_
    | with_reducible refine State.takeSnapReq_framed (Framed.sub h) ?_
    | (fail_if_no_progress extract_lets +onlyGivenNames x
       refine cutL (p := Framed ps z x) ?_ ?_; subst x; rotate_left; intro hs; try clear_value x; rotate_right)
    | (fail_if_no_progress extract_lets +onlyGivenNames x
       first
       | (have hd : List _ := x; clear hd; clear_value x)
       | (have hd : Bool := x; clear hd; clear_value x)
       | (have hd : Nat := x; clear hd; clear_value x)
       | subst x)
    | fail_if_no_progress beta_reduce
    | with_reducible refine Framed.ite ?_ ?_
    | split)

theorem State.passFlood_framed {ps : List Part} (h : [Part.out] ⊆ ps) {z s : State} {except : Nat} {seq : Nat} {reset : Bool}
    (hs : Framed ps z s) : Framed ps z (State.passFlood s except seq reset) := by
  unfold State.passFlood
  repeat' (first
    | with_reducible assumption
    | with_reducible refine State.emit_framed (Framed.sub h) ?_
    | with_reducible refine Framed.foldl ?_ (fun _ hs _ => ?_))

theorem State.floodActs_framed {ps : List Part} (h : [Part.free, .dev, .regs, .mem, .slices, .queue, .sys, .tick, .plan, .world, .dies, .chans, .host, .kl, .dep, .tally, .out] ⊆ ps) {z s : State} {reset : Bool}
    (hs : Framed ps z s) : Framed ps z (State.floodActs s reset) := by
  unfold State.floodActs
  repeat' (first
    | with_reducible assumption
    | with_reducible refine State.haltNow_framed (Framed.sub h) ?_
    | with_reducible refine State.losePort_framed (Framed.sub h) ?_
    | with_reducible refine State.sendTrains_framed (Framed.sub h) ?_
    | (fail_if_no_progress extract_lets +onlyGivenNames x
       refine cutL (p := Framed ps z x) ?_ ?_; subst x; rotate_left; intro hs; try clear_value x; rotate_right)
    | (fail_if_no_progress extract_lets +onlyGivenNames x
       first
       | (have hd : List _ := x; clear hd; clear_value x)
       | (have hd : Bool := x; clear hd; clear_value x)
       | (have hd : Nat := x; clear hd; clear_value x)
       | subst x)
    | fail_if_no_progress beta_reduce
    | with_reducible refine Framed.ite ?_ ?_
    | with_reducible refine Framed.foldl ?_ (fun _ hs _ => ?_)
    | split
    | ((with_reducible refine Framed.upd ?_ ?_); rotate_left; intro p hp; cases p <;> first | exact absurd (h (by decide)) hp | rfl | exact ⟨rfl, rfl⟩))

theorem State.takeFlood_framed {ps : List Part} (h : [Part.free, .dev, .regs, .mem, .slices, .queue, .sys, .tick, .plan, .world, .dies, .chans, .host, .kl, .dep, .tally, .out] ⊆ ps) {z s : State} {port : Nat} {seq : Nat} {reset : Bool}
    (hs : Framed ps z s) : Framed ps z (State.takeFlood s port seq reset) := by
  unfold State.takeFlood
  repeat' (first
    | with_reducible assumption
    | with_reducible refine State.klEvent_framed (Framed.sub h) ?_
    | with_reducible refine State.passFlood_framed (Framed.sub h) ?_
    | with_reducible refine State.floodActs_framed (Framed.sub h) ?_
    | (fail_if_no_progress extract_lets +onlyGivenNames x
       refine cutL (p := Framed ps z x) ?_ ?_; subst x; rotate_left; intro hs; try clear_value x; rotate_right)
    | with_reducible refine Framed.ite ?_ ?_
    | ((with_reducible refine Framed.upd ?_ ?_); rotate_left; intro p hp; cases p <;> first | exact absurd (h (by decide)) hp | rfl | exact ⟨rfl, rfl⟩))

theorem execStopSymbol_framed {ps : List Part} (h : [Part.free, .dev, .now, .regs, .mem, .slices, .queue, .sys, .tick, .plan, .world, .dies, .chans, .host, .kl, .dep, .tally, .out] ⊆ ps) {z s : State} {t : Nat} {port : Nat} {seq : Nat}
    (hs : Framed ps z s) : OutFramed ps z (execStopSymbol t port seq s) := by
  unfold execStopSymbol
  repeat' (first
    | with_reducible assumption
    | with_reducible refine OutFramed.named ?_
    | with_reducible refine State.advance_framed (Framed.sub h) ?_
    | with_reducible refine State.takeFlood_framed (Framed.sub h) ?_
    | with_reducible refine State.when_framed ?_ (fun _ hs => ?_))

theorem execResetSymbol_framed {ps : List Part} (h : [Part.free, .dev, .now, .regs, .mem, .slices, .queue, .sys, .tick, .plan, .world, .dies, .chans, .host, .kl, .dep, .tally, .out] ⊆ ps) {z s : State} {t : Nat} {port : Nat} {seq : Nat}
    (hs : Framed ps z s) : OutFramed ps z (execResetSymbol t port seq s) := by
  unfold execResetSymbol
  repeat' (first
    | with_reducible assumption
    | with_reducible refine OutFramed.named ?_
    | with_reducible refine State.advance_framed (Framed.sub h) ?_
    | with_reducible refine State.takeFlood_framed (Framed.sub h) ?_
    | with_reducible refine State.when_framed ?_ (fun _ hs => ?_))

theorem State.startFlood_framed {ps : List Part} (h : [Part.free, .dev, .regs, .mem, .slices, .queue, .sys, .tick, .plan, .world, .dies, .chans, .host, .kl, .dep, .tally, .out] ⊆ ps) {z s : State} {reset : Bool}
    (hs : Framed ps z s) : Framed ps z (State.startFlood s reset) := by
  unfold State.startFlood
  repeat' (first
    | with_reducible assumption
    | with_reducible refine State.passFlood_framed (Framed.sub h) ?_
    | with_reducible refine State.floodActs_framed (Framed.sub h) ?_
    | ((with_reducible refine Framed.upd ?_ ?_); rotate_left; intro p hp; cases p <;> first | exact absurd (h (by decide)) hp | rfl | exact ⟨rfl, rfl⟩))

theorem execStopFlood_framed {ps : List Part} (h : [Part.free, .dev, .now, .regs, .mem, .slices, .queue, .sys, .tick, .plan, .world, .dies, .chans, .host, .kl, .dep, .tally, .out] ⊆ ps) {z s : State} {t : Nat}
    (hs : Framed ps z s) : OutFramed ps z (execStopFlood t s) := by
  unfold execStopFlood
  repeat' (first
    | with_reducible assumption
    | with_reducible refine OutFramed.next ?_
    | with_reducible refine State.advance_framed (Framed.sub h) ?_
    | with_reducible refine State.write32_framed (Framed.sub h) ?_ (fun _ hs => ?_)
    | with_reducible refine State.startFlood_framed (Framed.sub h) ?_)

theorem execResetFlood_framed {ps : List Part} (h : [Part.free, .dev, .now, .regs, .mem, .slices, .queue, .sys, .tick, .plan, .world, .dies, .chans, .host, .kl, .dep, .tally, .out] ⊆ ps) {z s : State} {t : Nat}
    (hs : Framed ps z s) : OutFramed ps z (execResetFlood t s) := by
  unfold execResetFlood
  repeat' (first
    | with_reducible assumption
    | with_reducible refine OutFramed.next ?_
    | with_reducible refine State.advance_framed (Framed.sub h) ?_
    | with_reducible refine State.write32_framed (Framed.sub h) ?_ (fun _ hs => ?_)
    | with_reducible refine State.startFlood_framed (Framed.sub h) ?_)

theorem execXcutFlitFail_framed {ps : List Part} (h : [Part.free, .regs, .mem, .slices, .plan, .world, .dies, .chans, .host, .kl, .tally, .out] ⊆ ps) {z s : State} {hub : Bool} {d : Die} {retries : Nat}
    (hs : Framed ps z s) : OutFramed ps z (execXcutFlitFail hub d retries s) := by
  unfold execXcutFlitFail
  repeat' (first
    | with_reducible assumption
    | with_reducible refine OutFramed.next ?_
    | with_reducible refine State.when_framed ?_ (fun _ hs => ?_)
    | with_reducible refine State.when_framed ?_ (fun _ hs => ?_)
    | with_reducible refine State.count_framed (Framed.sub h) ?_
    | with_reducible refine State.event_framed (Framed.sub h) ?_
    | with_reducible refine State.failXcut_framed (Framed.sub h) ?_
    | with_reducible refine State.log_framed (Framed.sub h) ?_
    | (fail_if_no_progress extract_lets +onlyGivenNames x
       refine cutL (p := Framed ps z x) ?_ ?_; subst x; rotate_left; intro hs; try clear_value x; rotate_right)
    | (fail_if_no_progress extract_lets +onlyGivenNames x
       first
       | (have hd : List _ := x; clear hd; clear_value x)
       | (have hd : Bool := x; clear hd; clear_value x)
       | (have hd : Nat := x; clear hd; clear_value x)
       | subst x)
    | fail_if_no_progress beta_reduce
    | with_reducible refine Framed.ite ?_ ?_
    | split)

theorem execKlrefLost_framed {ps : List Part} (h : [Part.free, .regs, .mem, .slices, .plan, .world, .dies, .chans, .host, .kl, .tally, .power, .out] ⊆ ps) {z s : State}
    (hs : Framed ps z s) : OutFramed ps z (execKlrefLost s) := by
  unfold execKlrefLost
  repeat' (first
    | with_reducible assumption
    | with_reducible refine OutFramed.next ?_
    | with_reducible refine State.clockLost_framed (Framed.sub h) ?_
    | with_reducible refine State.portDown_framed (Framed.sub h) ?_
    | with_reducible refine Framed.foldl ?_ (fun _ hs _ => ?_))

theorem State.pllLost_framed {ps : List Part} (h : [Part.regs, .host, .power, .out] ⊆ ps) {z s : State} {n : Nat}
    (hs : Framed ps z s) : Framed ps z (State.pllLost s n) := by
  unfold State.pllLost
  repeat' (first
    | with_reducible assumption
    | with_reducible refine State.event_framed (Framed.sub h) ?_
    | with_reducible refine State.irq_framed (Framed.sub h) ?_
    | with_reducible refine State.setClock_framed (Framed.sub h) ?_)

theorem execFabricPllUnlock_framed {ps : List Part} (h : [Part.free, .regs, .mem, .slices, .plan, .world, .dies, .chans, .host, .kl, .tally, .power, .out] ⊆ ps) {z s : State}
    (hs : Framed ps z s) : OutFramed ps z (execFabricPllUnlock s) := by
  unfold execFabricPllUnlock
  repeat' (first
    | with_reducible assumption
    | with_reducible refine OutFramed.next ?_
    | with_reducible refine State.pllLost_framed (Framed.sub h) ?_
    | with_reducible refine State.failXcut_framed (Framed.sub h) ?_
    | (fail_if_no_progress extract_lets +onlyGivenNames x
       refine cutL (p := Framed ps z x) ?_ ?_; subst x; rotate_left; intro hs; try clear_value x; rotate_right)
    | (fail_if_no_progress extract_lets +onlyGivenNames x
       first
       | (have hd : List _ := x; clear hd; clear_value x)
       | (have hd : Bool := x; clear hd; clear_value x)
       | (have hd : Nat := x; clear hd; clear_value x)
       | subst x)
    | fail_if_no_progress beta_reduce
    | ((with_reducible refine Framed.upd ?_ ?_); rotate_left; intro p hp; cases p <;> first | exact absurd (h (by decide)) hp | rfl | exact ⟨rfl, rfl⟩))

theorem execArithPllUnlock_framed {ps : List Part} (h : [Part.regs, .dies, .host, .power, .out] ⊆ ps) {z s : State} {d : Die}
    (hs : Framed ps z s) : OutFramed ps z (execArithPllUnlock d s) := by
  unfold execArithPllUnlock
  repeat' (first
    | with_reducible assumption
    | (fail_if_no_progress extract_lets +onlyGivenNames x
       refine cutL (p := Framed ps z x) ?_ ?_; subst x; rotate_left; intro hs; try clear_value x; rotate_right)
    | (fail_if_no_progress extract_lets +onlyGivenNames x
       first
       | (have hd : List _ := x; clear hd; clear_value x)
       | (have hd : Bool := x; clear hd; clear_value x)
       | (have hd : Nat := x; clear hd; clear_value x)
       | subst x)
    | fail_if_no_progress beta_reduce
    | with_reducible refine OutFramed.next ?_
    | with_reducible refine State.setDie_framed (Framed.sub h) ?_ ?_
    | ((with_reducible refine fun (hn : Part.slices ∉ ps) => ?_); first | exact absurd (h (by decide)) hn | exact Framed.die hs hn _ | exact Framed.die (by assumption) hn _ | exact (hs _ hn).1 | exact (hs _ hn).2 | simpa using Framed.die hs hn _)
    | with_reducible refine State.pllLost_framed (Framed.sub h) ?_)

theorem execPllRelock_framed {ps : List Part} (h : [Part.power] ⊆ ps) {z s : State} {n : Nat}
    (hs : Framed ps z s) : OutFramed ps z (execPllRelock n s) := by
  unfold execPllRelock
  repeat' (first
    | with_reducible assumption
    | with_reducible refine OutFramed.named ?_
    | with_reducible refine State.setClock_framed (Framed.sub h) ?_
    | with_reducible refine State.when_framed ?_ (fun _ hs => ?_))

theorem execRail_framed {ps : List Part} (h : [Part.regs, .power] ⊆ ps) {z s : State} {n : Nat}
    (hs : Framed ps z s) : OutFramed ps z (execRail n s) := by
  unfold execRail
  repeat' (first
    | with_reducible assumption
    | with_reducible refine OutFramed.named ?_
    | with_reducible refine State.when_framed ?_ (fun _ hs => ?_)
    | with_reducible refine State.when_framed ?_ (fun _ hs => ?_)
    | with_reducible refine State.event_framed (Framed.sub h) ?_
    | (fail_if_no_progress extract_lets +onlyGivenNames x
       refine cutL (p := Framed ps z x) ?_ ?_; subst x; rotate_left; intro hs; try clear_value x; rotate_right)
    | (fail_if_no_progress extract_lets +onlyGivenNames x
       first
       | (have hd : List _ := x; clear hd; clear_value x)
       | (have hd : Bool := x; clear hd; clear_value x)
       | (have hd : Nat := x; clear hd; clear_value x)
       | subst x)
    | fail_if_no_progress beta_reduce
    | with_reducible refine Framed.ite ?_ ?_
    | split
    | ((with_reducible refine Framed.upd ?_ ?_); rotate_left; intro p hp; cases p <;> first | exact absurd (h (by decide)) hp | rfl | exact ⟨rfl, rfl⟩))

theorem execRailWithinTolerance_framed {ps : List Part} (h : [Part.sys, .power] ⊆ ps) {z s : State} {n : Nat}
    (hs : Framed ps z s) : OutFramed ps z (execRailWithinTolerance n s) := by
  unfold execRailWithinTolerance
  repeat' (first
    | with_reducible assumption
    | with_reducible refine OutFramed.named ?_
    | with_reducible refine State.when_framed ?_ (fun _ hs => ?_)
    | with_reducible refine State.when_framed ?_ (fun _ hs => ?_)
    | with_reducible refine State.releasePor_framed (Framed.sub h) ?_
    | (fail_if_no_progress extract_lets +onlyGivenNames x
       refine cutL (p := Framed ps z x) ?_ ?_; subst x; rotate_left; intro hs; try clear_value x; rotate_right)
    | (fail_if_no_progress extract_lets +onlyGivenNames x
       first
       | (have hd : List _ := x; clear hd; clear_value x)
       | (have hd : Bool := x; clear hd; clear_value x)
       | (have hd : Nat := x; clear hd; clear_value x)
       | subst x)
    | fail_if_no_progress beta_reduce
    | with_reducible refine Framed.ite ?_ ?_
    | split
    | ((with_reducible refine Framed.upd ?_ ?_); rotate_left; intro p hp; cases p <;> first | exact absurd (h (by decide)) hp | rfl | exact ⟨rfl, rfl⟩))

theorem State.pumpFront_framed {ps : List Part} (h : [Part.free, .regs, .mem, .slices, .plan, .world, .dies, .host, .kl, .depSlice, .dep, .tally, .out] ⊆ ps) {z s : State}
    (hs : Framed ps z s) : Framed ps z (State.pumpFront s) := by
  unfold State.pumpFront
  repeat' (first
    | with_reducible assumption
    | with_reducible refine State.when_framed ?_ (fun _ hs => ?_)
    | with_reducible refine State.pumpCommit_framed (Framed.sub h) ?_
    | with_reducible refine State.pumpStalled_framed (Framed.sub h) ?_
    | with_reducible refine State.drainReads_framed (Framed.sub h) ?_
    | with_reducible refine State.pumpKeyins_framed (Framed.sub h) ?_
    | with_reducible refine State.pumpFetch_framed (Framed.sub h) ?_
    | with_reducible refine State.when_framed ?_ (fun _ hs => ?_)
    | with_reducible refine State.pumpBcast_framed (Framed.sub h) ?_
    | with_reducible refine State.pumpSnapshot_framed (Framed.sub h) ?_
    | (fail_if_no_progress extract_lets +onlyGivenNames x
       refine cutL (p := Framed ps z x) ?_ ?_; subst x; rotate_left; intro hs; try clear_value x; rotate_right)
    | (fail_if_no_progress extract_lets +onlyGivenNames x
       first
       | (have hd : List _ := x; clear hd; clear_value x)
       | (have hd : Bool := x; clear hd; clear_value x)
       | (have hd : Nat := x; clear hd; clear_value x)
       | subst x)
    | fail_if_no_progress beta_reduce
    | with_reducible refine Framed.foldl ?_ (fun _ hs _ => ?_))

theorem execInitDone_framed {ps : List Part} (h : [Part.free, .regs, .mem, .slices, .plan, .world, .dies, .host, .kl, .depSlice, .dep, .tally, .out] ⊆ ps) {z s : State} {to_ : InitFront}
    (hs : Framed ps z s) : OutFramed ps z (execInitDone to_ s) := by
  unfold execInitDone
  repeat' (first
    | with_reducible assumption
    | with_reducible refine OutFramed.next ?_
    | with_reducible refine State.when_framed ?_ (fun _ hs => ?_)
    | with_reducible refine State.when_framed ?_ (fun _ hs => ?_)
    | with_reducible refine State.setReg_framed (Framed.sub h) ?_
    | with_reducible refine State.setField_framed (Framed.sub h) ?_
    | with_reducible refine State.pumpFront_framed (Framed.sub h) ?_
    | (fail_if_no_progress extract_lets +onlyGivenNames x
       refine cutL (p := Framed ps z x) ?_ ?_; subst x; rotate_left; intro hs; try clear_value x; rotate_right)
    | (fail_if_no_progress extract_lets +onlyGivenNames x
       first
       | (have hd : List _ := x; clear hd; clear_value x)
       | (have hd : Bool := x; clear hd; clear_value x)
       | (have hd : Nat := x; clear hd; clear_value x)
       | subst x)
    | fail_if_no_progress beta_reduce)

end Sys2Proof.Machine
end

