-- ==== Sys2Proof/Laws/FrameLoad.lean ====
section
/-! SUPPORT. The parts of the state that the operations of Machine/Load.lean can change. -/

set_option Elab.async false
set_option linter.unusedTactic false
set_option linter.unreachableTactic false
set_option linter.unusedVariables false
set_option linter.tactic.unusedName false

namespace Sys2Proof.Machine
open Sys2Proof

theorem State.placeImage_framed {ps : List Part} (h : [Part.mem, .slices] ⊆ ps) {z s : State} {i : Image} {d : Die}
    (hs : Framed ps z s) : Framed ps z (State.placeImage s i d) := by
  unfold State.placeImage
  repeat' (first
    | with_reducible assumption
    | with_reducible refine State.storeWin_framed (Framed.sub h) ?_
    | with_reducible refine Framed.foldl ?_ (fun _ hs _ => ?_))

theorem State.damage_framed {ps : List Part} (h : [Part.free, .mem, .slices, .damaged] ⊆ ps) {z s : State} {i : Image}
    (hs : Framed ps z s) : Framed ps z (State.damage s i) := by
  unfold State.damage
  repeat' (first
    | with_reducible assumption
    | with_reducible refine State.storeWin_framed (Framed.sub h) ?_
    | with_reducible refine State.freeBytes_framed (Framed.sub h) ?_
    | with_reducible refine Framed.foldl ?_ (fun _ hs _ => ?_)
    | (fail_if_no_progress extract_lets +onlyGivenNames x
       refine cutL (p := Framed ps z x) ?_ ?_; subst x; rotate_left; intro hs; try clear_value x; rotate_right)
    | ((with_reducible refine Framed.upd ?_ ?_); rotate_left; intro p hp; cases p <;> first | exact absurd (h (by decide)) hp | rfl | exact ⟨rfl, rfl⟩))

theorem State.startLoad_framed {ps : List Part} (h : [Part.dev, .regs, .badRegs, .queue, .sys, .tick, .plan, .dies, .loading, .chans, .host, .kl, .safe, .dep, .tally, .out] ⊆ ps) {z s : State}
    (hs : Framed ps z s) : Framed ps z (State.startLoad s) := by
  unfold State.startLoad
  repeat' (first
    | with_reducible assumption
    | with_reducible refine State.checkUses_framed (Framed.sub h) ?_
    | with_reducible refine State.setReg_framed (Framed.sub h) ?_
    | (fail_if_no_progress extract_lets +onlyGivenNames x
       refine cutL (p := Framed ps z x) ?_ ?_; subst x; rotate_left; intro hs; try clear_value x; rotate_right)
    | (fail_if_no_progress extract_lets +onlyGivenNames x
       first
       | (have hd : List _ := x; clear hd; clear_value x)
       | (have hd : Bool := x; clear hd; clear_value x)
       | (have hd : Nat := x; clear hd; clear_value x)
       | subst x)
    | fail_if_no_progress beta_reduce
    | with_reducible refine Framed.ite ?_ ?_
    | split
    | ((with_reducible refine Framed.upd ?_ ?_); rotate_left; intro p hp; cases p <;> first | exact absurd (h (by decide)) hp | rfl | exact ⟨rfl, rfl⟩))

theorem execLoad_framed {ps : List Part} (h : [Part.dev, .regs, .badRegs, .queue, .sys, .tick, .plan, .dies, .loading, .chans, .host, .kl, .safe, .dep, .tally, .out] ⊆ ps) {z s : State}
    (hs : Framed ps z s) : OutFramed ps z (execLoad s) := by
  unfold execLoad
  repeat' (first
    | with_reducible assumption
    | with_reducible refine OutFramed.next ?_
    | with_reducible refine State.write32_framed (Framed.sub h) ?_ (fun _ hs => ?_)
    | with_reducible refine State.startLoad_framed (Framed.sub h) ?_)

theorem State.loadEnds_framed {ps : List Part} (h : [Part.regs, .loading] ⊆ ps) {z s : State} {code : Nat} {section_ : Nat} {item : Nat}
    (hs : Framed ps z s) : Framed ps z (State.loadEnds s code section_ item) := by
  unfold State.loadEnds
  repeat' (first
    | with_reducible assumption
    | with_reducible refine State.setReg_framed (Framed.sub h) ?_
    | ((with_reducible refine Framed.upd ?_ ?_); rotate_left; intro p hp; cases p <;> first | exact absurd (h (by decide)) hp | rfl | exact ⟨rfl, rfl⟩))

theorem State.commitImage_framed {ps : List Part} (h : [Part.dev, .regs, .badRegs, .image, .damaged, .loading, .host, .kl, .dep, .out] ⊆ ps) {z s : State} {i : Image}
    (hs : Framed ps z s) : Framed ps z (State.commitImage s i) := by
  unfold State.commitImage
  repeat' (first
    | with_reducible assumption
    | with_reducible refine State.loadEnds_framed (Framed.sub h) ?_
    | with_reducible refine State.count_framed (Framed.sub h) ?_
    | with_reducible refine State.checkCoord_framed (Framed.sub h) ?_
    | with_reducible refine State.rewrite_framed (Framed.sub h) ?_
    | with_reducible refine State.retrainDown_framed (Framed.sub h) ?_
    | (fail_if_no_progress extract_lets +onlyGivenNames x
       refine cutL (p := Framed ps z x) ?_ ?_; subst x; rotate_left; intro hs; try clear_value x; rotate_right)
    | (fail_if_no_progress extract_lets +onlyGivenNames x
       first
       | (have hd : List _ := x; clear hd; clear_value x)
       | (have hd : Bool := x; clear hd; clear_value x)
       | (have hd : Nat := x; clear hd; clear_value x)
       | subst x)
    | fail_if_no_progress beta_reduce
    | with_reducible refine Framed.ite ?_ ?_
    | split
    | ((with_reducible refine Framed.upd ?_ ?_); rotate_left; intro p hp; cases p <;> first | exact absurd (h (by decide)) hp | rfl | exact ⟨rfl, rfl⟩))

theorem State.passTwo_framed {ps : List Part} (h : [Part.free, .regs, .mem, .slices, .plan, .dies, .damaged, .host, .tally, .out] ⊆ ps) {z s : State} {l : Loading} {i : Image} {ue : Nat}
    (hs : Framed ps z s) : Framed ps z (State.passTwo s l i ue).1 := by
  unfold State.passTwo
  repeat' (first
    | with_reducible assumption
    | with_reducible refine State.when_framed ?_ (fun _ hs => ?_)
    | with_reducible refine State.damage_framed (Framed.sub h) ?_
    | with_reducible refine State.when_framed ?_ (fun _ hs => ?_)
    | with_reducible refine State.sourceUe_framed (Framed.sub h) ?_
    | with_reducible refine State.placeImage_framed (Framed.sub h) ?_
    | with_reducible refine Framed.ite ?_ ?_
    | with_reducible refine Framed.foldl ?_ (fun _ hs _ => ?_)
    | split)

theorem State.passTwo_framed_eq {ps : List Part} (h : [Part.free, .regs, .mem, .slices, .plan, .dies, .damaged, .host, .tally, .out] ⊆ ps) {z s tt : State} {pr : Nat} {l : Loading} {i : Image} {ue : Nat}
    (he : (State.passTwo s l i ue) = (tt, pr)) (hs : Framed ps z s) : Framed ps z tt := by
  have := State.passTwo_framed (l := l) (i := i) (ue := ue) h hs
  rw [he] at this; exact this

theorem State.finishLoad_framed {ps : List Part} (h : [Part.free, .dev, .regs, .badRegs, .mem, .slices, .plan, .dies, .image, .damaged, .loading, .host, .kl, .dep, .tally, .out] ⊆ ps) {z s : State} {l : Loading} {i : Image} {ue : Nat} {us : Nat} {reach : Nat}
    (hs : Framed ps z s) : Framed ps z (State.finishLoad s l i ue us reach) := by
  unfold State.finishLoad
  repeat' (first
    | with_reducible assumption
    | with_reducible refine State.passTwo_framed (Framed.sub h) ?_
    | with_reducible exact State.passTwo_framed_eq (Framed.sub h) (by assumption) (by assumption)
    | with_reducible refine State.setReg_framed (Framed.sub h) ?_
    | with_reducible refine State.loadEnds_framed (Framed.sub h) ?_
    | with_reducible refine State.commitImage_framed (Framed.sub h) ?_
    | (fail_if_no_progress extract_lets +onlyGivenNames x
       refine cutL (p := Framed ps z x) ?_ ?_; subst x; rotate_left; intro hs; try clear_value x; rotate_right)
    | (fail_if_no_progress extract_lets +onlyGivenNames x
       first
       | (have hd : List _ := x; clear hd; clear_value x)
       | (have hd : Bool := x; clear hd; clear_value x)
       | (have hd : Nat := x; clear hd; clear_value x)
       | subst x)
    | fail_if_no_progress beta_reduce
    | with_reducible refine Framed.ite ?_ ?_
    | split
    | ((with_reducible refine Framed.upd ?_ ?_); rotate_left; intro p hp; cases p <;> first | exact absurd (h (by decide)) hp | rfl | exact ⟨rfl, rfl⟩)
    | dsimp only)

theorem execImageCommit_framed {ps : List Part} (h : [Part.free, .dev, .regs, .badRegs, .mem, .slices, .plan, .dies, .image, .damaged, .loading, .host, .kl, .dep, .tally, .out] ⊆ ps) {z s : State} {us : Nat} {met : LoadStep}
    (hs : Framed ps z s) : OutFramed ps z (execImageCommit us met s) := by
  unfold execImageCommit
  repeat' (first
    | with_reducible assumption
    | with_reducible refine OutFramed.next ?_
    | with_reducible refine State.when_framed ?_ (fun _ hs => ?_)
    | with_reducible refine State.afterFront_framed (Framed.sub h) ?_ (fun _ hs => ?_)
    | with_reducible refine State.when_framed ?_ (fun _ hs => ?_)
    | with_reducible refine State.countDramCe_framed (Framed.sub h) ?_
    | with_reducible refine State.finishLoad_framed (Framed.sub h) ?_
    | with_reducible refine State.setReg_framed (Framed.sub h) ?_
    | with_reducible refine State.sourceUe_framed (Framed.sub h) ?_
    | with_reducible refine State.loadEnds_framed (Framed.sub h) ?_
    | (fail_if_no_progress extract_lets +onlyGivenNames x
       refine cutL (p := Framed ps z x) ?_ ?_; subst x; rotate_left; intro hs; try clear_value x; rotate_right)
    | (fail_if_no_progress extract_lets +onlyGivenNames x
       first
       | (have hd : List _ := x; clear hd; clear_value x)
       | (have hd : Bool := x; clear hd; clear_value x)
       | (have hd : Nat := x; clear hd; clear_value x)
       | subst x)
    | fail_if_no_progress beta_reduce
    | with_reducible refine Framed.ite ?_ ?_
    | split
    | ((with_reducible refine Framed.upd ?_ ?_); rotate_left; intro p hp; cases p <;> first | exact absurd (h (by decide)) hp | rfl | exact ⟨rfl, rfl⟩)
    | dsimp only)

end Sys2Proof.Machine
end

