-- ==== Sys2Proof/Laws/FrameBoot.lean ====
section
/-! SUPPORT. The parts of the state that the operations of Machine/Boot.lean can change. -/

set_option Elab.async false
set_option linter.unusedTactic false
set_option linter.unreachableTactic false
set_option linter.unusedVariables false
set_option linter.tactic.unusedName false

namespace Sys2Proof.Machine
open Sys2Proof

theorem State.cutSec_framed {ps : List Part} (h : [Part.free, .sec] ⊆ ps) {z s : State}
    (hs : Framed ps z s) : Framed ps z (State.cutSec s) := by
  unfold State.cutSec
  repeat' (first
    | with_reducible assumption
    | with_reducible exact State.freeWord_framed_eq (Framed.sub h) (by assumption) (by assumption)
    | split
    | ((with_reducible refine Framed.upd ?_ ?_); rotate_left; intro p hp; cases p <;> first | exact absurd (h (by decide)) hp | rfl | exact ⟨rfl, rfl⟩))

theorem State.resetProfile_framed {ps : List Part} (h : [Part.regs] ⊆ ps) {z s : State}
    (hs : Framed ps z s) : Framed ps z (State.resetProfile s) := by
  unfold State.resetProfile
  repeat' (first
    | with_reducible assumption
    | with_reducible refine State.setReg_framed (Framed.sub h) ?_
    | with_reducible refine State.when_framed ?_ (fun _ hs => ?_))

theorem State.resetDevice_framed {ps : List Part} (h : [Part.dev, .now, .timeOn, .seed, .regs, .latches, .sh, .badRegs, .queue, .sys, .tick, .plan, .world, .dies, .image, .damaged, .loading, .chans, .host, .kl, .safe, .depSlice, .dep, .tally, .bist, .power] ⊆ ps)
    {z s : State} (hs : Framed ps z s) : Framed ps z s.resetDevice := by
  intro p hp
  cases p <;> first | exact absurd (h (by decide)) hp | exact hs _ hp

theorem State.deviceReset_framed {ps : List Part} (h : [Part.free, .dev, .now, .timeOn, .seed, .regs, .latches, .sh, .badRegs, .queue, .sys, .tick, .plan, .world, .dies, .image, .damaged, .loading, .chans, .host, .kl, .safe, .depSlice, .dep, .tally, .sec, .bist, .power] ⊆ ps) {z s : State}
    (hs : Framed ps z s) : Framed ps z (State.deviceReset s) := by
  unfold State.deviceReset
  repeat' (first
    | with_reducible assumption
    | with_reducible refine State.setField_framed (Framed.sub h) ?_
    | with_reducible refine State.cutSec_framed (Framed.sub h) ?_
    | with_reducible refine State.resetProfile_framed (Framed.sub h) ?_
    | with_reducible refine State.resetDevice_framed (Framed.sub h) ?_)

theorem execDeviceReset_framed {ps : List Part} (h : [Part.free, .dev, .now, .timeOn, .seed, .regs, .latches, .sh, .badRegs, .queue, .sys, .tick, .plan, .world, .dies, .image, .damaged, .loading, .chans, .host, .kl, .safe, .depSlice, .dep, .tally, .sec, .bist, .power] ⊆ ps) {z s : State}
    (hs : Framed ps z s) : OutFramed ps z (execDeviceReset s) := by
  unfold execDeviceReset
  repeat' (first
    | with_reducible assumption
    | with_reducible refine OutFramed.next ?_
    | with_reducible refine State.deviceReset_framed (Framed.sub h) ?_)

theorem State.resetPower_framed {ps : List Part} (h : [Part.dev, .now, .timeOn, .ticked, .seed, .regs, .latches, .sh, .badRegs, .mem, .slices, .queue, .sys, .tick, .plan, .world, .dies, .image, .damaged, .loading, .chans, .host, .kl, .safe, .depSlice, .dep, .tally, .bist, .power] ⊆ ps)
    {z s : State} (hs : Framed ps z s) : Framed ps z s.resetPower := by
  intro p hp
  cases p <;> first | exact absurd (h (by decide)) hp | exact hs _ hp

theorem State.powerOn_framed {ps : List Part} (h : [Part.free, .dev, .now, .timeOn, .ticked, .seed, .regs, .latches, .sh, .badRegs, .mem, .slices, .queue, .sys, .tick, .plan, .world, .dies, .image, .damaged, .loading, .chans, .host, .kl, .safe, .depSlice, .dep, .tally, .sec, .bist, .power] ⊆ ps) {z s : State}
    (hs : Framed ps z s) : Framed ps z (State.powerOn s) := by
  unfold State.powerOn
  repeat' (first
    | with_reducible assumption
    | with_reducible refine State.cutSec_framed (Framed.sub h) ?_
    | with_reducible refine State.resetProfile_framed (Framed.sub h) ?_
    | with_reducible refine State.resetPower_framed (Framed.sub h) ?_)

theorem execPowerOnReset_framed {ps : List Part} (h : [Part.free, .dev, .now, .timeOn, .ticked, .seed, .regs, .latches, .sh, .badRegs, .mem, .slices, .queue, .sys, .tick, .plan, .world, .dies, .image, .damaged, .loading, .chans, .host, .kl, .safe, .depSlice, .dep, .tally, .sec, .bist, .power] ⊆ ps) {z s : State}
    (hs : Framed ps z s) : OutFramed ps z (execPowerOnReset s) := by
  unfold execPowerOnReset
  repeat' (first
    | with_reducible assumption
    | with_reducible refine OutFramed.next ?_
    | with_reducible refine State.powerOn_framed (Framed.sub h) ?_)

theorem execPerstNFall_framed {ps : List Part} (h : [Part.sys, .safe, .dep] ⊆ ps) {z s : State}
    (hs : Framed ps z s) : OutFramed ps z (execPerstNFall s) := by
  unfold execPerstNFall
  repeat' (first
    | with_reducible assumption
    | with_reducible refine OutFramed.next ?_
    | (fail_if_no_progress extract_lets +onlyGivenNames x
       first
       | (have hd : List _ := x; clear hd; clear_value x)
       | (have hd : Bool := x; clear hd; clear_value x)
       | (have hd : Nat := x; clear hd; clear_value x)
       | subst x)
    | ((with_reducible refine Framed.upd ?_ ?_); rotate_left; intro p hp; cases p <;> first | exact absurd (h (by decide)) hp | rfl | exact ⟨rfl, rfl⟩))

theorem State.setBootError_framed {ps : List Part} (h : [Part.regs] ⊆ ps) {z s : State} {code : Nat}
    (hs : Framed ps z s) : Framed ps z (State.setBootError s code) := by
  unfold State.setBootError
  repeat' (first
    | with_reducible assumption
    | with_reducible refine State.setField_framed (Framed.sub h) ?_)

theorem State.setWaitPush_framed {ps : List Part} (h : [Part.regs] ⊆ ps) {z s : State} {on : Bool}
    (hs : Framed ps z s) : Framed ps z (State.setWaitPush s on) := by
  unfold State.setWaitPush
  repeat' (first
    | with_reducible assumption
    | with_reducible refine State.setField_framed (Framed.sub h) ?_)

theorem State.runFirmware_framed {ps : List Part} (h : [Part.regs, .bist] ⊆ ps) {z s : State} {bs : List Byte} {push : Bool}
    (hs : Framed ps z s) : Framed ps z (State.runFirmware s bs push) := by
  unfold State.runFirmware
  repeat' (first
    | with_reducible assumption
    | with_reducible refine State.setReg_framed (Framed.sub h) ?_
    | with_reducible refine State.setField_framed (Framed.sub h) ?_
    | with_reducible refine State.setBootError_framed (Framed.sub h) ?_
    | with_reducible refine State.setWaitPush_framed (Framed.sub h) ?_
    | with_reducible refine Framed.foldl ?_ (fun _ hs _ => ?_)
    | (fail_if_no_progress extract_lets +onlyGivenNames x
       refine cutL (p := Framed ps z x) ?_ ?_; subst x; rotate_left; intro hs; try clear_value x; rotate_right)
    | (fail_if_no_progress extract_lets +onlyGivenNames x
       first
       | (have hd : List _ := x; clear hd; clear_value x)
       | (have hd : Bool := x; clear hd; clear_value x)
       | (have hd : Nat := x; clear hd; clear_value x)
       | subst x)
    | split
    | ((with_reducible refine Framed.upd ?_ ?_); rotate_left; intro p hp; cases p <;> first | exact absurd (h (by decide)) hp | rfl | exact ⟨rfl, rfl⟩))

theorem State.trainDram_framed {ps : List Part} (h : [Part.regs] ⊆ ps) {z s : State} {d : Die}
    (hs : Framed ps z s) : Framed ps z (State.trainDram s d) := by
  unfold State.trainDram
  repeat' (first
    | with_reducible assumption
    | with_reducible refine State.setReg_framed (Framed.sub h) ?_
    | (fail_if_no_progress extract_lets +onlyGivenNames x
       refine cutL (p := Framed ps z x) ?_ ?_; subst x; rotate_left; intro hs; try clear_value x; rotate_right)
    | (fail_if_no_progress extract_lets +onlyGivenNames x
       first
       | (have hd : List _ := x; clear hd; clear_value x)
       | (have hd : Bool := x; clear hd; clear_value x)
       | (have hd : Nat := x; clear hd; clear_value x)
       | subst x)
    | fail_if_no_progress beta_reduce)

theorem State.release__framed {ps : List Part} (h : [Part.regs, .sys, .dies, .tally] ⊆ ps) {z s : State} {haltLow : Bool}
    (hs : Framed ps z s) : Framed ps z (State.release_ s haltLow) := by
  unfold State.release_
  repeat' (first
    | with_reducible assumption
    | with_reducible refine State.when_framed ?_ (fun _ hs => ?_)
    | with_reducible refine State.setDie_framed (Framed.sub h) ?_ ?_
    | ((with_reducible refine fun (hn : Part.slices ∉ ps) => ?_); first | exact absurd (h (by decide)) hn | exact Framed.die hs hn _ | exact Framed.die (by assumption) hn _ | exact (hs _ hn).1 | exact (hs _ hn).2 | simpa using Framed.die hs hn _)
    | with_reducible refine State.trainDram_framed (Framed.sub h) ?_
    | with_reducible refine State.when_framed ?_ (fun _ hs => ?_)
    | (fail_if_no_progress extract_lets +onlyGivenNames x
       refine cutL (p := Framed ps z x) ?_ ?_; subst x; rotate_left; intro hs; try clear_value x; rotate_right)
    | (fail_if_no_progress extract_lets +onlyGivenNames x
       first
       | (have hd : List _ := x; clear hd; clear_value x)
       | (have hd : Bool := x; clear hd; clear_value x)
       | (have hd : Nat := x; clear hd; clear_value x)
       | subst x)
    | fail_if_no_progress beta_reduce
    | ((with_reducible refine Framed.upd ?_ ?_); rotate_left; intro p hp; cases p <;> first | exact absurd (h (by decide)) hp | rfl | exact ⟨rfl, rfl⟩))

theorem State.flashBoot_framed {ps : List Part} (h : [Part.regs, .bist] ⊆ ps) {z s : State} {flashError : Nat} {container : List Byte}
    (hs : Framed ps z s) : Framed ps z (State.flashBoot s flashError container) := by
  unfold State.flashBoot
  repeat' (first
    | with_reducible assumption
    | with_reducible refine State.setBootError_framed (Framed.sub h) ?_
    | with_reducible refine State.setWaitPush_framed (Framed.sub h) ?_
    | with_reducible refine State.runFirmware_framed (Framed.sub h) ?_
    | (fail_if_no_progress extract_lets +onlyGivenNames x
       first
       | (have hd : List _ := x; clear hd; clear_value x)
       | (have hd : Bool := x; clear hd; clear_value x)
       | (have hd : Nat := x; clear hd; clear_value x)
       | subst x)
    | with_reducible refine Framed.ite ?_ ?_)

theorem State.bootFrom_framed {ps : List Part} (h : [Part.regs, .bist] ⊆ ps) {z s : State} {bootsel : Nat} {testMode : Bool} {flashError : Nat} {container : List Byte}
    (hs : Framed ps z s) : Framed ps z (State.bootFrom s bootsel testMode flashError container) := by
  unfold State.bootFrom
  repeat' (first
    | with_reducible assumption
    | with_reducible refine State.setReg_framed (Framed.sub h) ?_
    | with_reducible refine State.setBootError_framed (Framed.sub h) ?_
    | with_reducible refine State.setWaitPush_framed (Framed.sub h) ?_
    | with_reducible refine State.flashBoot_framed (Framed.sub h) ?_
    | (fail_if_no_progress extract_lets +onlyGivenNames x
       refine cutL (p := Framed ps z x) ?_ ?_; subst x; rotate_left; intro hs; try clear_value x; rotate_right)
    | with_reducible refine Framed.ite ?_ ?_)

theorem execResetRelease_framed {ps : List Part} (h : [Part.regs, .sys, .dies, .host, .tally, .bist, .out] ⊆ ps) {z s : State} {bootsel : Nat} {testMode : Bool} {haltLow : Bool} {flashError : Nat} {container : List Byte}
    (hs : Framed ps z s) : OutFramed ps z (execResetRelease bootsel testMode haltLow flashError container s) := by
  unfold execResetRelease
  repeat' (first
    | with_reducible assumption
    | with_reducible refine OutFramed.next ?_
    | with_reducible refine State.when_framed ?_ (fun _ hs => ?_)
    | with_reducible refine State.when_framed ?_ (fun _ hs => ?_)
    | with_reducible refine State.release__framed (Framed.sub h) ?_
    | with_reducible refine State.stage_framed (Framed.sub h) ?_
    | with_reducible refine State.bootFrom_framed (Framed.sub h) ?_
    | (fail_if_no_progress extract_lets +onlyGivenNames x
       refine cutL (p := Framed ps z x) ?_ ?_; subst x; rotate_left; intro hs; try clear_value x; rotate_right)
    | (fail_if_no_progress extract_lets +onlyGivenNames x
       first
       | (have hd : List _ := x; clear hd; clear_value x)
       | (have hd : Bool := x; clear hd; clear_value x)
       | (have hd : Nat := x; clear hd; clear_value x)
       | subst x)
    | fail_if_no_progress beta_reduce)

theorem State.initSram_framed {ps : List Part} (h : [Part.mem, .slices, .dies] ⊆ ps) {z s : State} {d : Die}
    (hs : Framed ps z s) : Framed ps z (State.initSram s d) := by
  unfold State.initSram
  repeat' (first
    | with_reducible assumption
    | with_reducible refine State.setDie_framed (Framed.sub h) ?_ ?_
    | ((with_reducible refine fun (hn : Part.slices ∉ ps) => ?_); first | exact absurd (h (by decide)) hn | exact Framed.die hs hn _ | exact Framed.die (by assumption) hn _ | exact (hs _ hn).1 | exact (hs _ hn).2 | simpa using Framed.die hs hn _)
    | (fail_if_no_progress extract_lets +onlyGivenNames x
       refine cutL (p := Framed ps z x) ?_ ?_; subst x; rotate_left; intro hs; try clear_value x; rotate_right)
    | (fail_if_no_progress extract_lets +onlyGivenNames x
       first
       | (have hd : List _ := x; clear hd; clear_value x)
       | (have hd : Bool := x; clear hd; clear_value x)
       | (have hd : Nat := x; clear hd; clear_value x)
       | subst x)
    | fail_if_no_progress beta_reduce
    | ((with_reducible refine Framed.upd ?_ ?_); rotate_left; intro p hp; cases p <;> first | exact absurd (h (by decide)) hp | rfl | exact ⟨rfl, rfl⟩))

theorem execBootComplete_framed {ps : List Part} (h : [Part.free, .dev, .now, .timeOn, .regs, .mem, .slices, .dies, .power, .out] ⊆ ps) {z s : State}
    (hs : Framed ps z s) : OutFramed ps z (execBootComplete s) := by
  unfold execBootComplete
  repeat' (first
    | with_reducible assumption
    | (fail_if_no_progress extract_lets +onlyGivenNames x
       refine cutL (p := Framed ps z x) ?_ ?_; subst x; rotate_left; intro hs; try clear_value x; rotate_right)
    | (fail_if_no_progress extract_lets +onlyGivenNames x
       first
       | (have hd : List _ := x; clear hd; clear_value x)
       | (have hd : Bool := x; clear hd; clear_value x)
       | (have hd : Nat := x; clear hd; clear_value x)
       | subst x)
    | fail_if_no_progress beta_reduce
    | with_reducible refine OutFramed.next ?_
    | with_reducible refine State.when_framed ?_ (fun _ hs => ?_)
    | with_reducible refine State.setDie_framed (Framed.sub h) ?_ ?_
    | ((with_reducible refine fun (hn : Part.slices ∉ ps) => ?_); first | exact absurd (h (by decide)) hn | exact Framed.die hs hn _ | exact Framed.die (by assumption) hn _ | exact (hs _ hn).1 | exact (hs _ hn).2 | simpa using Framed.die hs hn _)
    | with_reducible refine State.when_framed ?_ (fun _ hs => ?_)
    | with_reducible refine State.initSram_framed (Framed.sub h) ?_
    | with_reducible refine State.takeService_framed (Framed.sub h) ?_
    | with_reducible refine State.lockDie_framed (Framed.sub h) ?_
    | with_reducible refine State.setClock_framed (Framed.sub h) ?_
    | with_reducible refine State.retrainXcut_framed (Framed.sub h) ?_
    | ((with_reducible refine Framed.upd ?_ ?_); rotate_left; intro p hp; cases p <;> first | exact absurd (h (by decide)) hp | rfl | exact ⟨rfl, rfl⟩))

theorem State.flushIrqs_framed {ps : List Part} (h : [Part.host, .out] ⊆ ps) {z s : State}
    (hs : Framed ps z s) : Framed ps z (State.flushIrqs s) := by
  unfold State.flushIrqs
  repeat' (first
    | with_reducible assumption
    | with_reducible refine State.when_framed ?_ (fun _ hs => ?_)
    | with_reducible refine State.when_framed ?_ (fun _ hs => ?_)
    | with_reducible refine State.emit_framed (Framed.sub h) ?_
    | with_reducible refine Framed.foldl ?_ (fun _ hs _ => ?_)
    | ((with_reducible refine Framed.upd ?_ ?_); rotate_left; intro p hp; cases p <;> first | exact absurd (h (by decide)) hp | rfl | exact ⟨rfl, rfl⟩))

theorem execLinkUp_framed {ps : List Part} (h : [Part.regs, .host, .power, .out] ⊆ ps) {z s : State} {speed : Nat} {width : Nat}
    (hs : Framed ps z s) : OutFramed ps z (execLinkUp speed width s) := by
  unfold execLinkUp
  repeat' (first
    | with_reducible assumption
    | with_reducible refine OutFramed.named ?_
    | with_reducible refine State.setClock_framed (Framed.sub h) ?_
    | with_reducible refine State.setReg_framed (Framed.sub h) ?_
    | with_reducible refine State.flushIrqs_framed (Framed.sub h) ?_
    | (fail_if_no_progress extract_lets +onlyGivenNames x
       refine cutL (p := Framed ps z x) ?_ ?_; subst x; rotate_left; intro hs; try clear_value x; rotate_right)
    | (fail_if_no_progress extract_lets +onlyGivenNames x
       first
       | (have hd : List _ := x; clear hd; clear_value x)
       | (have hd : Bool := x; clear hd; clear_value x)
       | (have hd : Nat := x; clear hd; clear_value x)
       | subst x)
    | fail_if_no_progress beta_reduce
    | with_reducible refine Framed.ite ?_ ?_
    | split
    | ((with_reducible refine Framed.upd ?_ ?_); rotate_left; intro p hp; cases p <;> first | exact absurd (h (by decide)) hp | rfl | exact ⟨rfl, rfl⟩))

theorem State.linkLost_framed {ps : List Part} (h : [Part.regs, .world, .dies, .chans, .host, .kl, .tally, .out] ⊆ ps) {z s : State}
    (hs : Framed ps z s) : Framed ps z (State.linkLost s) := by
  unfold State.linkLost
  repeat' (first
    | with_reducible assumption
    | with_reducible refine State.event_framed (Framed.sub h) ?_
    | with_reducible refine State.log_framed (Framed.sub h) ?_
    | with_reducible refine State.mapChan_framed (Framed.sub h) ?_
    | with_reducible refine State.dropChain_framed (Framed.sub h) ?_
    | with_reducible refine State.dropRecord_framed (Framed.sub h) ?_
    | with_reducible refine Framed.foldl ?_ (fun _ hs _ => ?_)
    | (fail_if_no_progress extract_lets +onlyGivenNames x
       refine cutL (p := Framed ps z x) ?_ ?_; subst x; rotate_left; intro hs; try clear_value x; rotate_right)
    | (fail_if_no_progress extract_lets +onlyGivenNames x
       first
       | (have hd : List _ := x; clear hd; clear_value x)
       | (have hd : Bool := x; clear hd; clear_value x)
       | (have hd : Nat := x; clear hd; clear_value x)
       | subst x)
    | split
    | ((with_reducible refine Framed.upd ?_ ?_); rotate_left; intro p hp; cases p <;> first | exact absurd (h (by decide)) hp | rfl | exact ⟨rfl, rfl⟩))

theorem execLinkDown_framed {ps : List Part} (h : [Part.now, .regs, .world, .dies, .chans, .host, .kl, .tally, .out] ⊆ ps) {z s : State} {t : Nat}
    (hs : Framed ps z s) : OutFramed ps z (execLinkDown t s) := by
  unfold execLinkDown
  repeat' (first
    | with_reducible assumption
    | with_reducible refine OutFramed.next ?_
    | with_reducible refine State.advance_framed (Framed.sub h) ?_
    | with_reducible refine State.linkLost_framed (Framed.sub h) ?_
    | with_reducible refine State.when_framed ?_ (fun _ hs => ?_))

theorem execRefclkLost_framed {ps : List Part} (h : [Part.regs, .world, .dies, .chans, .host, .kl, .tally, .power, .out] ⊆ ps) {z s : State}
    (hs : Framed ps z s) : OutFramed ps z (execRefclkLost s) := by
  unfold execRefclkLost
  repeat' (first
    | with_reducible assumption
    | with_reducible refine OutFramed.next ?_
    | with_reducible refine State.clockLost_framed (Framed.sub h) ?_
    | with_reducible refine State.linkLost_framed (Framed.sub h) ?_
    | with_reducible refine State.when_framed ?_ (fun _ hs => ?_))

theorem execMsixUnmask_framed {ps : List Part} (h : [Part.host, .out] ⊆ ps) {z s : State} {w : VectorWrite}
    (hs : Framed ps z s) : OutFramed ps z (execMsixUnmask w s) := by
  unfold execMsixUnmask
  repeat' (first
    | with_reducible assumption
    | with_reducible refine OutFramed.named ?_
    | with_reducible refine State.when_framed ?_ (fun _ hs => ?_)
    | with_reducible refine State.when_framed ?_ (fun _ hs => ?_)
    | with_reducible refine State.flushIrqs_framed (Framed.sub h) ?_
    | (fail_if_no_progress extract_lets +onlyGivenNames x
       refine cutL (p := Framed ps z x) ?_ ?_; subst x; rotate_left; intro hs; try clear_value x; rotate_right)
    | (fail_if_no_progress extract_lets +onlyGivenNames x
       first
       | (have hd : List _ := x; clear hd; clear_value x)
       | (have hd : Bool := x; clear hd; clear_value x)
       | (have hd : Nat := x; clear hd; clear_value x)
       | subst x)
    | fail_if_no_progress beta_reduce
    | with_reducible refine Framed.ite ?_ ?_
    | split
    | ((with_reducible refine Framed.upd ?_ ?_); rotate_left; intro p hp; cases p <;> first | exact absurd (h (by decide)) hp | rfl | exact ⟨rfl, rfl⟩))

theorem execD3hot_framed {ps : List Part} (h : [Part.regs, .host] ⊆ ps) {z s : State}
    (hs : Framed ps z s) : OutFramed ps z (execD3hot s) := by
  unfold execD3hot
  repeat' (first
    | with_reducible assumption
    | with_reducible refine OutFramed.next ?_
    | with_reducible refine State.event_framed (Framed.sub h) ?_
    | with_reducible refine State.selfRefresh_framed (Framed.sub h) ?_
    | with_reducible refine Framed.foldl ?_ (fun _ hs _ => ?_)
    | (fail_if_no_progress extract_lets +onlyGivenNames x
       first
       | (have hd : List _ := x; clear hd; clear_value x)
       | (have hd : Bool := x; clear hd; clear_value x)
       | (have hd : Nat := x; clear hd; clear_value x)
       | subst x)
    | with_reducible refine Framed.ite ?_ ?_
    | ((with_reducible refine Framed.upd ?_ ?_); rotate_left; intro p hp; cases p <;> first | exact absurd (h (by decide)) hp | rfl | exact ⟨rfl, rfl⟩))

theorem execD0Return_framed {ps : List Part} (h : [Part.regs, .host] ⊆ ps) {z s : State}
    (hs : Framed ps z s) : OutFramed ps z (execD0Return s) := by
  unfold execD0Return
  repeat' (first
    | with_reducible assumption
    | with_reducible refine OutFramed.next ?_
    | with_reducible refine State.selfRefresh_framed (Framed.sub h) ?_
    | with_reducible refine State.when_framed ?_ (fun _ hs => ?_)
    | with_reducible refine Framed.foldl ?_ (fun _ hs _ => ?_)
    | (fail_if_no_progress extract_lets +onlyGivenNames x
       first
       | (have hd : List _ := x; clear hd; clear_value x)
       | (have hd : Bool := x; clear hd; clear_value x)
       | (have hd : Nat := x; clear hd; clear_value x)
       | subst x)
    | ((with_reducible refine Framed.upd ?_ ?_); rotate_left; intro p hp; cases p <;> first | exact absurd (h (by decide)) hp | rfl | exact ⟨rfl, rfl⟩))

theorem State.abortLoad_framed {ps : List Part} (h : [Part.free, .regs, .mem, .slices, .damaged, .loading] ⊆ ps) {z s : State} {step : Nat}
    (hs : Framed ps z s) : Framed ps z (State.abortLoad s step) := by
  unfold State.abortLoad
  repeat' (first
    | with_reducible assumption
    | with_reducible refine State.damage_framed (Framed.sub h) ?_
    | with_reducible refine State.loadEnds_framed (Framed.sub h) ?_
    | (fail_if_no_progress extract_lets +onlyGivenNames x
       refine cutL (p := Framed ps z x) ?_ ?_; subst x; rotate_left; intro hs; try clear_value x; rotate_right)
    | (fail_if_no_progress extract_lets +onlyGivenNames x
       first
       | (have hd : List _ := x; clear hd; clear_value x)
       | (have hd : Bool := x; clear hd; clear_value x)
       | (have hd : Nat := x; clear hd; clear_value x)
       | subst x)
    | fail_if_no_progress beta_reduce
    | with_reducible refine Framed.ite ?_ ?_
    | split
    | dsimp only)

theorem State.resetFunction_framed {ps : List Part} (h : [Part.regs, .latches, .sh, .badRegs, .queue, .sys, .world, .chans, .host, .kl, .dep, .out] ⊆ ps) {z s : State}
    (hs : Framed ps z s) : Framed ps z (State.resetFunction s) := by
  unfold State.resetFunction
  repeat' (first
    | with_reducible assumption
    | with_reducible refine State.when_framed ?_ (fun _ hs => ?_)
    | with_reducible refine State.mend_framed (Framed.sub h) ?_
    | with_reducible refine State.when_framed ?_ (fun _ hs => ?_)
    | with_reducible refine State.selfRefresh_framed (Framed.sub h) ?_
    | with_reducible refine State.dropOps_framed (Framed.sub h) ?_
    | (fail_if_no_progress extract_lets +onlyGivenNames x
       refine cutL (p := Framed ps z x) ?_ ?_; subst x; rotate_left; intro hs; try clear_value x; rotate_right)
    | (fail_if_no_progress extract_lets +onlyGivenNames x
       first
       | (have hd : List _ := x; clear hd; clear_value x)
       | (have hd : Bool := x; clear hd; clear_value x)
       | (have hd : Nat := x; clear hd; clear_value x)
       | subst x)
    | fail_if_no_progress beta_reduce
    | with_reducible refine Framed.foldl ?_ (fun _ hs _ => ?_)
    | split
    | ((with_reducible refine Framed.upd ?_ ?_); rotate_left; intro p hp; cases p <;> first | exact absurd (h (by decide)) hp | rfl | exact ⟨rfl, rfl⟩)
    | dsimp only)

theorem execFlr_framed {ps : List Part} (h : [Part.free, .dev, .now, .regs, .latches, .sh, .badRegs, .mem, .slices, .queue, .sys, .tick, .plan, .world, .dies, .damaged, .loading, .chans, .host, .kl, .safe, .dep, .tally, .out] ⊆ ps) {z s : State} {t : Nat} {step : Nat}
    (hs : Framed ps z s) : OutFramed ps z (execFlr t step s) := by
  unfold execFlr
  repeat' (first
    | with_reducible assumption
    | with_reducible refine OutFramed.next ?_
    | with_reducible refine State.event_framed (Framed.sub h) ?_
    | with_reducible refine State.setField_framed (Framed.sub h) ?_
    | with_reducible refine State.advance_framed (Framed.sub h) ?_
    | with_reducible refine State.log_framed (Framed.sub h) ?_
    | with_reducible refine State.leaveRunning_framed (Framed.sub h) ?_
    | with_reducible refine State.enterSafe_framed (Framed.sub h) ?_
    | with_reducible refine State.abortLoad_framed (Framed.sub h) ?_
    | with_reducible refine State.resetFunction_framed (Framed.sub h) ?_
    | split)

theorem execS1Isolate_framed {ps : List Part} (h : [Part.free, .now, .regs, .mem, .slices, .sys, .plan, .world, .dies, .chans, .host, .kl, .tally, .power, .out] ⊆ ps) {z s : State} {t_ : Nat} {drainNs : Nat}
    (hs : Framed ps z s) : OutFramed ps z (execS1Isolate t_ drainNs s) := by
  unfold execS1Isolate
  repeat' (first
    | with_reducible assumption
    | with_reducible refine OutFramed.next ?_
    | with_reducible refine State.when_framed ?_ (fun _ hs => ?_)
    | with_reducible refine State.when_framed ?_ (fun _ hs => ?_)
    | with_reducible refine State.advance_framed (Framed.sub h) ?_
    | with_reducible refine State.setReg_framed (Framed.sub h) ?_
    | with_reducible refine State.event_framed (Framed.sub h) ?_
    | with_reducible refine State.cutPower_framed (Framed.sub h) ?_
    | with_reducible refine State.selfRefresh_framed (Framed.sub h) ?_
    | with_reducible refine State.setField_framed (Framed.sub h) ?_
    | with_reducible refine State.changeEnds_framed (Framed.sub h) ?_
    | (fail_if_no_progress extract_lets +onlyGivenNames x
       refine cutL (p := Framed ps z x) ?_ ?_; subst x; rotate_left; intro hs; try clear_value x; rotate_right)
    | (fail_if_no_progress extract_lets +onlyGivenNames x
       first
       | (have hd : List _ := x; clear hd; clear_value x)
       | (have hd : Bool := x; clear hd; clear_value x)
       | (have hd : Nat := x; clear hd; clear_value x)
       | subst x)
    | fail_if_no_progress beta_reduce
    | ((with_reducible refine Framed.upd ?_ ?_); rotate_left; intro p hp; cases p <;> first | exact absurd (h (by decide)) hp | rfl | exact ⟨rfl, rfl⟩))

theorem execS1PowerUp_framed {ps : List Part} (h : [Part.free, .now, .regs, .mem, .slices, .sys, .dies, .power, .out] ⊆ ps) {z s : State} {t_ : Nat}
    (hs : Framed ps z s) : OutFramed ps z (execS1PowerUp t_ s) := by
  unfold execS1PowerUp
  repeat' (first
    | with_reducible assumption
    | (fail_if_no_progress extract_lets +onlyGivenNames x
       refine cutL (p := Framed ps z x) ?_ ?_; subst x; rotate_left; intro hs; try clear_value x; rotate_right)
    | (fail_if_no_progress extract_lets +onlyGivenNames x
       first
       | (have hd : List _ := x; clear hd; clear_value x)
       | (have hd : Bool := x; clear hd; clear_value x)
       | (have hd : Nat := x; clear hd; clear_value x)
       | subst x)
    | fail_if_no_progress beta_reduce
    | with_reducible refine OutFramed.next ?_
    | with_reducible refine State.when_framed ?_ (fun _ hs => ?_)
    | with_reducible refine State.when_framed ?_ (fun _ hs => ?_)
    | with_reducible refine State.advance_framed (Framed.sub h) ?_
    | with_reducible refine State.initSram_framed (Framed.sub h) ?_
    | with_reducible refine State.takeService_framed (Framed.sub h) ?_
    | with_reducible refine State.lockDie_framed (Framed.sub h) ?_
    | with_reducible refine State.selfRefresh_framed (Framed.sub h) ?_
    | with_reducible refine State.placeImage_framed (Framed.sub h) ?_
    | with_reducible refine State.retrainXcut_framed (Framed.sub h) ?_
    | with_reducible refine State.event_framed (Framed.sub h) ?_
    | with_reducible refine State.changeEnds_framed (Framed.sub h) ?_
    | with_reducible refine Framed.ite ?_ ?_
    | split
    | ((with_reducible refine Framed.upd ?_ ?_); rotate_left; intro p hp; cases p <;> first | exact absurd (h (by decide)) hp | rfl | exact ⟨rfl, rfl⟩)
    | dsimp only)

theorem execClockSwitch_framed {ps : List Part} (h : [Part.free, .now, .regs, .sys, .power, .out] ⊆ ps) {z s : State} {d : Die} {t : Nat}
    (hs : Framed ps z s) : OutFramed ps z (execClockSwitch d t s) := by
  unfold execClockSwitch
  repeat' (first
    | with_reducible assumption
    | with_reducible refine OutFramed.next ?_
    | with_reducible refine State.event_framed (Framed.sub h) ?_
    | with_reducible refine State.advance_framed (Framed.sub h) ?_
    | with_reducible refine State.lockDie_framed (Framed.sub h) ?_
    | with_reducible refine State.changeEnds_framed (Framed.sub h) ?_
    | with_reducible refine State.when_framed ?_ (fun _ hs => ?_)
    | (fail_if_no_progress extract_lets +onlyGivenNames x
       first
       | (have hd : List _ := x; clear hd; clear_value x)
       | (have hd : Bool := x; clear hd; clear_value x)
       | (have hd : Nat := x; clear hd; clear_value x)
       | subst x)
    | split
    | ((with_reducible refine Framed.upd ?_ ?_); rotate_left; intro p hp; cases p <;> first | exact absurd (h (by decide)) hp | rfl | exact ⟨rfl, rfl⟩))

end Sys2Proof.Machine
end

