-- ==== Sys2Proof/Laws/FrameTrust.lean ====
section
/-! SUPPORT. The parts of the state that the operations of Machine/Trust.lean can change. -/

set_option Elab.async false
set_option linter.unusedTactic false
set_option linter.unreachableTactic false
set_option linter.unusedVariables false
set_option linter.tactic.unusedName false

namespace Sys2Proof.Machine
open Sys2Proof

theorem State.pushFirmware_framed {ps : List Part} (h : [Part.regs, .bist] ⊆ ps) {z s : State}
    (hs : Framed ps z s) : Framed ps z (State.pushFirmware s) := by
  unfold State.pushFirmware
  repeat' (first
    | with_reducible assumption
    | with_reducible refine State.setBootError_framed (Framed.sub h) ?_
    | with_reducible refine State.runFirmware_framed (Framed.sub h) ?_
    | with_reducible refine Framed.ite ?_ ?_)

theorem execPush_framed {ps : List Part} (h : [Part.regs, .host, .bist, .out] ⊆ ps) {z s : State}
    (hs : Framed ps z s) : OutFramed ps z (execPush s) := by
  unfold execPush
  repeat' (first
    | with_reducible assumption
    | with_reducible refine OutFramed.next ?_
    | with_reducible refine State.write32_framed (Framed.sub h) ?_ (fun _ hs => ?_)
    | with_reducible refine State.pushFirmware_framed (Framed.sub h) ?_)

theorem State.pushFlash_framed {ps : List Part} (h : [Part.regs, .sec] ⊆ ps) {z s : State}
    (hs : Framed ps z s) : Framed ps z (State.pushFlash s) := by
  unfold State.pushFlash
  repeat' (first
    | with_reducible assumption
    | with_reducible refine State.setBootError_framed (Framed.sub h) ?_
    | (fail_if_no_progress extract_lets +onlyGivenNames x
       first
       | (have hd : List _ := x; clear hd; clear_value x)
       | (have hd : Bool := x; clear hd; clear_value x)
       | (have hd : Nat := x; clear hd; clear_value x)
       | subst x)
    | with_reducible refine Framed.ite ?_ ?_
    | ((with_reducible refine Framed.upd ?_ ?_); rotate_left; intro p hp; cases p <;> first | exact absurd (h (by decide)) hp | rfl | exact ⟨rfl, rfl⟩))

theorem execPushFlash_framed {ps : List Part} (h : [Part.regs, .host, .sec, .out] ⊆ ps) {z s : State}
    (hs : Framed ps z s) : OutFramed ps z (execPushFlash s) := by
  unfold execPushFlash
  repeat' (first
    | with_reducible assumption
    | with_reducible refine OutFramed.next ?_
    | with_reducible refine State.write32_framed (Framed.sub h) ?_ (fun _ hs => ?_)
    | with_reducible refine State.pushFlash_framed (Framed.sub h) ?_)

theorem execFlashProgrammed_framed {ps : List Part} (h : [Part.free, .regs, .sec] ⊆ ps) {z s : State} {ok : Bool}
    (hs : Framed ps z s) : OutFramed ps z (execFlashProgrammed ok s) := by
  unfold execFlashProgrammed
  repeat' (first
    | with_reducible assumption
    | with_reducible refine OutFramed.next ?_
    | with_reducible refine State.freeWord_framed (Framed.sub h) ?_
    | with_reducible refine State.setBootError_framed (Framed.sub h) ?_
    | (fail_if_no_progress extract_lets +onlyGivenNames x
       first
       | (have hd : List _ := x; clear hd; clear_value x)
       | (have hd : Bool := x; clear hd; clear_value x)
       | (have hd : Nat := x; clear hd; clear_value x)
       | subst x)
    | with_reducible refine Framed.ite ?_ ?_
    | split
    | ((with_reducible refine Framed.upd ?_ ?_); rotate_left; intro p hp; cases p <;> first | exact absurd (h (by decide)) hp | rfl | exact ⟨rfl, rfl⟩))

theorem State.attest_framed {ps : List Part} (h : [Part.regs, .sec] ⊆ ps) {z s : State}
    (hs : Framed ps z s) : Framed ps z (State.attest s) := by
  unfold State.attest
  repeat' (first
    | with_reducible assumption
    | with_reducible refine State.setField_framed (Framed.sub h) ?_
    | (fail_if_no_progress extract_lets +onlyGivenNames x
       refine cutL (p := Framed ps z x) ?_ ?_; subst x; rotate_left; intro hs; try clear_value x; rotate_right)
    | (fail_if_no_progress extract_lets +onlyGivenNames x
       first
       | (have hd : List _ := x; clear hd; clear_value x)
       | (have hd : Bool := x; clear hd; clear_value x)
       | (have hd : Nat := x; clear hd; clear_value x)
       | subst x)
    | fail_if_no_progress beta_reduce
    | with_reducible refine Framed.ite ?_ ?_
    | split
    | ((with_reducible refine Framed.upd ?_ ?_); rotate_left; intro p hp; cases p <;> first | exact absurd (h (by decide)) hp | rfl | exact ⟨rfl, rfl⟩))

theorem execAttest_framed {ps : List Part} (h : [Part.regs, .host, .sec, .out] ⊆ ps) {z s : State}
    (hs : Framed ps z s) : OutFramed ps z (execAttest s) := by
  unfold execAttest
  repeat' (first
    | with_reducible assumption
    | with_reducible refine OutFramed.next ?_
    | with_reducible refine State.write32_framed (Framed.sub h) ?_ (fun _ hs => ?_)
    | with_reducible refine State.attest_framed (Framed.sub h) ?_)

theorem execAttestDone_framed {ps : List Part} (h : [Part.regs, .mem, .slices, .sec] ⊆ ps) {z s : State}
    (hs : Framed ps z s) : OutFramed ps z (execAttestDone s) := by
  unfold execAttestDone
  repeat' (first
    | with_reducible assumption
    | with_reducible refine OutFramed.next ?_
    | with_reducible refine State.setReg_framed (Framed.sub h) ?_
    | with_reducible refine State.store_framed (Framed.sub h) ?_
    | (fail_if_no_progress extract_lets +onlyGivenNames x
       first
       | (have hd : List _ := x; clear hd; clear_value x)
       | (have hd : Bool := x; clear hd; clear_value x)
       | (have hd : Nat := x; clear hd; clear_value x)
       | subst x)
    | split
    | ((with_reducible refine Framed.upd ?_ ?_); rotate_left; intro p hp; cases p <;> first | exact absurd (h (by decide)) hp | rfl | exact ⟨rfl, rfl⟩))

theorem State.otpResult_framed {ps : List Part} (h : [Part.regs] ⊆ ps) {z s : State} {code : Nat}
    (hs : Framed ps z s) : Framed ps z (State.otpResult s code) := by
  unfold State.otpResult
  repeat' (first
    | with_reducible assumption
    | with_reducible refine State.setField_framed (Framed.sub h) ?_)

theorem State.otpCommand_framed {ps : List Part} (h : [Part.free, .regs, .sec] ⊆ ps) {z s : State} {v : Word}
    (hs : Framed ps z s) : Framed ps z (State.otpCommand s v) := by
  unfold State.otpCommand
  repeat' (first
    | with_reducible assumption
    | with_reducible refine State.freeWord_framed (Framed.sub h) ?_
    | with_reducible refine State.otpResult_framed (Framed.sub h) ?_
    | (fail_if_no_progress extract_lets +onlyGivenNames x
       first
       | (have hd : List _ := x; clear hd; clear_value x)
       | (have hd : Bool := x; clear hd; clear_value x)
       | (have hd : Nat := x; clear hd; clear_value x)
       | subst x)
    | with_reducible refine Framed.ite ?_ ?_
    | split
    | ((with_reducible refine Framed.upd ?_ ?_); rotate_left; intro p hp; cases p <;> first | exact absurd (h (by decide)) hp | rfl | exact ⟨rfl, rfl⟩))

theorem execProvision_framed {ps : List Part} (h : [Part.free, .regs, .host, .sec, .out] ⊆ ps) {z s : State} {cmd : Word}
    (hs : Framed ps z s) : OutFramed ps z (execProvision cmd s) := by
  unfold execProvision otpRow
  repeat' (first
    | with_reducible assumption
    | with_reducible refine OutFramed.named ?_
    | with_reducible refine State.write32_framed (Framed.sub h) ?_ (fun _ hs => ?_)
    | with_reducible refine State.otpCommand_framed (Framed.sub h) ?_)

theorem execRevoke_framed {ps : List Part} (h : [Part.free, .regs, .host, .sec, .out] ⊆ ps) {z s : State} {cmd : Word}
    (hs : Framed ps z s) : OutFramed ps z (execRevoke cmd s) := by
  unfold execRevoke otpRow
  repeat' (first
    | with_reducible assumption
    | with_reducible refine OutFramed.named ?_
    | with_reducible refine State.write32_framed (Framed.sub h) ?_ (fun _ hs => ?_)
    | with_reducible refine State.otpCommand_framed (Framed.sub h) ?_)

theorem execRaiseSvn_framed {ps : List Part} (h : [Part.free, .regs, .host, .sec, .out] ⊆ ps) {z s : State} {cmd : Word}
    (hs : Framed ps z s) : OutFramed ps z (execRaiseSvn cmd s) := by
  unfold execRaiseSvn otpRow
  repeat' (first
    | with_reducible assumption
    | with_reducible refine OutFramed.named ?_
    | with_reducible refine State.write32_framed (Framed.sub h) ?_ (fun _ hs => ?_)
    | with_reducible refine State.otpCommand_framed (Framed.sub h) ?_)

theorem execRaiseFwSvn_framed {ps : List Part} (h : [Part.free, .regs, .host, .sec, .out] ⊆ ps) {z s : State} {cmd : Word}
    (hs : Framed ps z s) : OutFramed ps z (execRaiseFwSvn cmd s) := by
  unfold execRaiseFwSvn otpRow
  repeat' (first
    | with_reducible assumption
    | with_reducible refine OutFramed.named ?_
    | with_reducible refine State.write32_framed (Framed.sub h) ?_ (fun _ hs => ?_)
    | with_reducible refine State.otpCommand_framed (Framed.sub h) ?_)

theorem execOtpDone_framed {ps : List Part} (h : [Part.free, .regs, .sec] ⊆ ps) {z s : State} {ok : Bool}
    (hs : Framed ps z s) : OutFramed ps z (execOtpDone ok s) := by
  unfold execOtpDone
  repeat' (first
    | with_reducible assumption
    | with_reducible refine OutFramed.next ?_
    | with_reducible refine State.freeWord_framed (Framed.sub h) ?_
    | with_reducible refine State.otpResult_framed (Framed.sub h) ?_
    | (fail_if_no_progress extract_lets +onlyGivenNames x
       first
       | (have hd : List _ := x; clear hd; clear_value x)
       | (have hd : Bool := x; clear hd; clear_value x)
       | (have hd : Nat := x; clear hd; clear_value x)
       | subst x)
    | with_reducible refine Framed.ite ?_ ?_
    | split
    | ((with_reducible refine Framed.upd ?_ ?_); rotate_left; intro p hp; cases p <;> first | exact absurd (h (by decide)) hp | rfl | exact ⟨rfl, rfl⟩))

theorem State.bistGo_framed {ps : List Part} (h : [Part.regs, .bist] ⊆ ps) {z s : State} {dies : Nat} {kind : Nat}
    (hs : Framed ps z s) : Framed ps z (State.bistGo s dies kind) := by
  unfold State.bistGo
  repeat' (first
    | with_reducible assumption
    | with_reducible refine State.setField_framed (Framed.sub h) ?_
    | (fail_if_no_progress extract_lets +onlyGivenNames x
       first
       | (have hd : List _ := x; clear hd; clear_value x)
       | (have hd : Bool := x; clear hd; clear_value x)
       | (have hd : Nat := x; clear hd; clear_value x)
       | subst x)
    | with_reducible refine Framed.ite ?_ ?_
    | ((with_reducible refine Framed.upd ?_ ?_); rotate_left; intro p hp; cases p <;> first | exact absurd (h (by decide)) hp | rfl | exact ⟨rfl, rfl⟩))

theorem State.bistCommand_framed {ps : List Part} (h : [Part.regs, .badRegs, .dep, .bist] ⊆ ps) {z s : State} {v : Word}
    (hs : Framed ps z s) : Framed ps z (State.bistCommand s v) := by
  unfold State.bistCommand
  repeat' (first
    | with_reducible assumption
    | with_reducible refine State.when_framed ?_ (fun _ hs => ?_)
    | with_reducible refine State.rewrite_framed (Framed.sub h) ?_
    | with_reducible refine State.when_framed ?_ (fun _ hs => ?_)
    | with_reducible refine State.bistGo_framed (Framed.sub h) ?_
    | (fail_if_no_progress extract_lets +onlyGivenNames x
       refine cutL (p := Framed ps z x) ?_ ?_; subst x; rotate_left; intro hs; try clear_value x; rotate_right)
    | (fail_if_no_progress extract_lets +onlyGivenNames x
       first
       | (have hd : List _ := x; clear hd; clear_value x)
       | (have hd : Bool := x; clear hd; clear_value x)
       | (have hd : Nat := x; clear hd; clear_value x)
       | subst x)
    | fail_if_no_progress beta_reduce)

theorem execBistGo_framed {ps : List Part} (h : [Part.regs, .badRegs, .host, .dep, .bist, .out] ⊆ ps) {z s : State} {cmd : Word}
    (hs : Framed ps z s) : OutFramed ps z (execBistGo cmd s) := by
  unfold execBistGo
  repeat' (first
    | with_reducible assumption
    | with_reducible refine OutFramed.named ?_
    | with_reducible refine State.write32_framed (Framed.sub h) ?_ (fun _ hs => ?_)
    | with_reducible refine State.bistCommand_framed (Framed.sub h) ?_)

theorem State.wakeDies_framed {ps : List Part} (h : [Part.free, .regs, .mem, .slices, .dies, .power, .out] ⊆ ps) {z s : State}
    (hs : Framed ps z s) : Framed ps z (State.wakeDies s) := by
  unfold State.wakeDies
  repeat' (first
    | with_reducible assumption
    | with_reducible refine State.setDie_framed (Framed.sub h) ?_ ?_
    | ((with_reducible refine fun (hn : Part.slices ∉ ps) => ?_); first | exact absurd (h (by decide)) hn | exact Framed.die hs hn _ | exact Framed.die (by assumption) hn _ | exact (hs _ hn).1 | exact (hs _ hn).2 | simpa using Framed.die hs hn _)
    | with_reducible refine State.initSram_framed (Framed.sub h) ?_
    | with_reducible refine State.lockDie_framed (Framed.sub h) ?_
    | with_reducible refine State.selfRefresh_framed (Framed.sub h) ?_
    | with_reducible refine State.placeImage_framed (Framed.sub h) ?_
    | (fail_if_no_progress extract_lets +onlyGivenNames x
       refine cutL (p := Framed ps z x) ?_ ?_; subst x; rotate_left; intro hs; try clear_value x; rotate_right)
    | (fail_if_no_progress extract_lets +onlyGivenNames x
       first
       | (have hd : List _ := x; clear hd; clear_value x)
       | (have hd : Bool := x; clear hd; clear_value x)
       | (have hd : Nat := x; clear hd; clear_value x)
       | subst x)
    | fail_if_no_progress beta_reduce
    | with_reducible refine Framed.ite ?_ ?_
    | with_reducible refine Framed.foldl ?_ (fun _ hs _ => ?_)
    | split
    | ((with_reducible refine Framed.upd ?_ ?_); rotate_left; intro p hp; cases p <;> first | exact absurd (h (by decide)) hp | rfl | exact ⟨rfl, rfl⟩)
    | dsimp only)

theorem State.retireFound_framed {ps : List Part} (h : [Part.regs, .mem, .slices, .dies, .host, .tally, .out] ⊆ ps) {z s : State} {fails : List BistFail} {now_ : Bool} {pool : Bool} {d : Die}
    (hs : Framed ps z s) : Framed ps z (State.retireFound s fails now_ pool d) := by
  unfold State.retireFound
  repeat' (first
    | with_reducible assumption
    | with_reducible refine State.setDie_framed (Framed.sub h) ?_ ?_
    | ((with_reducible refine fun (hn : Part.slices ∉ ps) => ?_); first | exact absurd (h (by decide)) hn | exact Framed.die hs hn _ | exact Framed.die (by assumption) hn _ | exact (hs _ hn).1 | exact (hs _ hn).2 | simpa using Framed.die hs hn _)
    | with_reducible refine State.retireRows_framed (Framed.sub h) ?_
    | with_reducible refine State.changeCes_framed (Framed.sub h) ?_
    | (fail_if_no_progress extract_lets +onlyGivenNames x
       refine cutL (p := Framed ps z x) ?_ ?_; subst x; rotate_left; intro hs; try clear_value x; rotate_right)
    | (fail_if_no_progress extract_lets +onlyGivenNames x
       first
       | (have hd : List _ := x; clear hd; clear_value x)
       | (have hd : Bool := x; clear hd; clear_value x)
       | (have hd : Nat := x; clear hd; clear_value x)
       | subst x)
    | fail_if_no_progress beta_reduce
    | with_reducible refine Framed.ite ?_ ?_
    | split)

theorem execRecover_framed {ps : List Part} (h : [Part.now, .regs, .queue, .sys, .dies, .bist] ⊆ ps) {z s : State} {t_ : Nat}
    (hs : Framed ps z s) : OutFramed ps z (execRecover t_ s) := by
  unfold execRecover
  repeat' (first
    | with_reducible assumption
    | with_reducible refine OutFramed.next ?_
    | with_reducible exact OutFramed.fault
    | with_reducible refine State.when_framed ?_ (fun _ hs => ?_)
    | with_reducible refine State.when_framed ?_ (fun _ hs => ?_)
    | with_reducible refine State.advance_framed (Framed.sub h) ?_
    | with_reducible refine State.popCmd_framed (Framed.sub h) ?_
    | with_reducible refine State.setReg_framed (Framed.sub h) ?_
    | (fail_if_no_progress extract_lets +onlyGivenNames x
       refine cutL (p := Framed ps z x) ?_ ?_; subst x; rotate_left; intro hs; try clear_value x; rotate_right)
    | (fail_if_no_progress extract_lets +onlyGivenNames x
       first
       | (have hd : List _ := x; clear hd; clear_value x)
       | (have hd : Bool := x; clear hd; clear_value x)
       | (have hd : Nat := x; clear hd; clear_value x)
       | subst x)
    | fail_if_no_progress beta_reduce
    | with_reducible refine Framed.ite ?_ ?_
    | split
    | ((with_reducible refine Framed.upd ?_ ?_); rotate_left; intro p hp; cases p <;> first | exact absurd (h (by decide)) hp | rfl | exact ⟨rfl, rfl⟩))

theorem State.endRecovery_framed {ps : List Part} (h : [Part.regs, .queue, .sys, .host, .tally, .bist, .out] ⊆ ps) {z s : State} {step : Nat} {result : Nat}
    (hs : Framed ps z s) : Framed ps z (State.endRecovery s step result) := by
  unfold State.endRecovery
  repeat' (first
    | with_reducible assumption
    | with_reducible refine State.setReg_framed (Framed.sub h) ?_
    | with_reducible refine State.log_framed (Framed.sub h) ?_
    | with_reducible refine State.popCmd_framed (Framed.sub h) ?_
    | (fail_if_no_progress extract_lets +onlyGivenNames x
       refine cutL (p := Framed ps z x) ?_ ?_; subst x; rotate_left; intro hs; try clear_value x; rotate_right)
    | (fail_if_no_progress extract_lets +onlyGivenNames x
       first
       | (have hd : List _ := x; clear hd; clear_value x)
       | (have hd : Bool := x; clear hd; clear_value x)
       | (have hd : Nat := x; clear hd; clear_value x)
       | subst x)
    | with_reducible refine Framed.ite ?_ ?_
    | ((with_reducible refine Framed.upd ?_ ?_); rotate_left; intro p hp; cases p <;> first | exact absurd (h (by decide)) hp | rfl | exact ⟨rfl, rfl⟩))

theorem State.bistResult_framed {ps : List Part} (h : [Part.regs, .bist] ⊆ ps) {z s : State} {run : BistRun} {ms : Nat} {macros : Nat} {fails : List BistFail}
    (hs : Framed ps z s) : Framed ps z (State.bistResult s run ms macros fails) := by
  unfold State.bistResult
  repeat' (first
    | with_reducible assumption
    | with_reducible refine State.setReg_framed (Framed.sub h) ?_
    | (fail_if_no_progress extract_lets +onlyGivenNames x
       refine cutL (p := Framed ps z x) ?_ ?_; subst x; rotate_left; intro hs; try clear_value x; rotate_right)
    | (fail_if_no_progress extract_lets +onlyGivenNames x
       first
       | (have hd : List _ := x; clear hd; clear_value x)
       | (have hd : Bool := x; clear hd; clear_value x)
       | (have hd : Nat := x; clear hd; clear_value x)
       | subst x)
    | fail_if_no_progress beta_reduce
    | with_reducible refine Framed.ite ?_ ?_
    | split
    | ((with_reducible refine Framed.upd ?_ ?_); rotate_left; intro p hp; cases p <;> first | exact absurd (h (by decide)) hp | rfl | exact ⟨rfl, rfl⟩))

theorem State.forceOff_framed {ps : List Part} (h : [Part.regs, .sys, .dies] ⊆ ps) {z s : State} {d : Die}
    (hs : Framed ps z s) : Framed ps z (State.forceOff s d) := by
  unfold State.forceOff
  repeat' (first
    | with_reducible assumption
    | with_reducible refine State.setDie_framed (Framed.sub h) ?_ ?_
    | ((with_reducible refine fun (hn : Part.slices ∉ ps) => ?_); first | exact absurd (h (by decide)) hn | exact Framed.die hs hn _ | exact Framed.die (by assumption) hn _ | exact (hs _ hn).1 | exact (hs _ hn).2 | simpa using Framed.die hs hn _)
    | with_reducible refine State.gatedDie_framed (Framed.sub h) ?_
    | ((with_reducible refine Framed.upd ?_ ?_); rotate_left; intro p hp; cases p <;> first | exact absurd (h (by decide)) hp | rfl | exact ⟨rfl, rfl⟩))

theorem State.serveDie_framed {ps : List Part} (h : [Part.regs, .dies] ⊆ ps) {z s : State} {d : Die}
    (hs : Framed ps z s) : Framed ps z (State.serveDie s d) := by
  unfold State.serveDie
  repeat' (first
    | with_reducible assumption
    | with_reducible refine State.takeService_framed (Framed.sub h) ?_
    | with_reducible refine Framed.ite ?_ ?_
    | split)

theorem execRecoverDone_framed {ps : List Part} (h : [Part.free, .dev, .now, .regs, .mem, .slices, .queue, .sys, .dies, .host, .tally, .bist, .power, .out] ⊆ ps) {z s : State} {t_ : Nat} {met : RecoverMet}
    (hs : Framed ps z s) : OutFramed ps z (execRecoverDone t_ met s) := by
  unfold execRecoverDone
  repeat' (first
    | with_reducible assumption
    | with_reducible refine OutFramed.next ?_
    | with_reducible exact OutFramed.fault
    | with_reducible refine State.when_framed ?_ (fun _ hs => ?_)
    | with_reducible refine State.when_framed ?_ (fun _ hs => ?_)
    | with_reducible refine State.advance_framed (Framed.sub h) ?_
    | with_reducible refine State.forceOff_framed (Framed.sub h) ?_
    | with_reducible refine State.wakeDies_framed (Framed.sub h) ?_
    | with_reducible refine State.endRecovery_framed (Framed.sub h) ?_
    | with_reducible refine State.bistResult_framed (Framed.sub h) ?_
    | with_reducible refine State.retireFound_framed (Framed.sub h) ?_
    | with_reducible refine State.serveDie_framed (Framed.sub h) ?_
    | with_reducible refine State.retrainXcut_framed (Framed.sub h) ?_
    | (fail_if_no_progress extract_lets +onlyGivenNames x
       refine cutL (p := Framed ps z x) ?_ ?_; subst x; rotate_left; intro hs; try clear_value x; rotate_right)
    | (fail_if_no_progress extract_lets +onlyGivenNames x
       first
       | (have hd : List _ := x; clear hd; clear_value x)
       | (have hd : Bool := x; clear hd; clear_value x)
       | (have hd : Nat := x; clear hd; clear_value x)
       | subst x)
    | fail_if_no_progress beta_reduce
    | with_reducible refine Framed.ite ?_ ?_
    | with_reducible refine Framed.foldl ?_ (fun _ hs _ => ?_)
    | split
    | ((with_reducible refine Framed.upd ?_ ?_); rotate_left; intro p hp; cases p <;> first | exact absurd (h (by decide)) hp | rfl | exact ⟨rfl, rfl⟩)
    | dsimp only)

theorem execBistDone_framed {ps : List Part} (h : [Part.dev, .now, .regs, .mem, .slices, .queue, .sys, .tick, .plan, .dies, .chans, .host, .kl, .safe, .dep, .tally, .bist, .out] ⊆ ps) {z s : State} {t_ : Nat} {ms : Nat} {macros : Nat} {fails : List BistFail}
    (hs : Framed ps z s) : OutFramed ps z (execBistDone t_ ms macros fails s) := by
  unfold execBistDone
  repeat' (first
    | with_reducible assumption
    | with_reducible refine OutFramed.next ?_
    | with_reducible refine State.when_framed ?_ (fun _ hs => ?_)
    | with_reducible refine State.advance_framed (Framed.sub h) ?_
    | with_reducible refine State.bistResult_framed (Framed.sub h) ?_
    | with_reducible refine State.retireFound_framed (Framed.sub h) ?_
    | with_reducible refine State.when_framed ?_ (fun _ hs => ?_)
    | with_reducible refine State.setBootError_framed (Framed.sub h) ?_
    | with_reducible refine State.irq_framed (Framed.sub h) ?_
    | with_reducible refine State.enterSafe_framed (Framed.sub h) ?_
    | (fail_if_no_progress extract_lets +onlyGivenNames x
       refine cutL (p := Framed ps z x) ?_ ?_; subst x; rotate_left; intro hs; try clear_value x; rotate_right)
    | (fail_if_no_progress extract_lets +onlyGivenNames x
       first
       | (have hd : List _ := x; clear hd; clear_value x)
       | (have hd : Bool := x; clear hd; clear_value x)
       | (have hd : Nat := x; clear hd; clear_value x)
       | subst x)
    | fail_if_no_progress beta_reduce
    | with_reducible refine Framed.ite ?_ ?_
    | with_reducible refine Framed.foldl ?_ (fun _ hs _ => ?_)
    | split
    | dsimp only)

theorem execIdcode_framed {ps : List Part} (h : [Part.out] ⊆ ps) {z s : State}
    (hs : Framed ps z s) : OutFramed ps z (execIdcode s) := by
  unfold execIdcode
  repeat' (first
    | with_reducible assumption
    | with_reducible refine OutFramed.next ?_
    | with_reducible refine State.emit_framed (Framed.sub h) ?_)

theorem execBypass_framed {ps : List Part} (h : [Part.out] ⊆ ps) {z s : State} {b : Bool}
    (hs : Framed ps z s) : OutFramed ps z (execBypass b s) := by
  unfold execBypass
  repeat' (first
    | with_reducible assumption
    | with_reducible refine OutFramed.next ?_
    | with_reducible refine State.emit_framed (Framed.sub h) ?_)

end Sys2Proof.Machine
end

