-- ==== Sys2Proof/Laws/FrameLog.lean ====
section
/-! SUPPORT. The parts of the state that the operations of Machine/Log.lean can change. -/

set_option Elab.async false
set_option linter.unusedTactic false
set_option linter.unreachableTactic false
set_option linter.unusedVariables false
set_option linter.tactic.unusedName false

namespace Sys2Proof.Machine
open Sys2Proof

theorem State.reportLost_framed {ps : List Part} (h : [Part.regs, .host, .tally, .out] ⊆ ps) {z s : State}
    (hs : Framed ps z s) : Framed ps z (State.reportLost s) := by
  unfold State.reportLost
  repeat' (first
    | with_reducible assumption
    | with_reducible refine State.when_framed ?_ (fun _ hs => ?_)
    | with_reducible refine State.when_framed ?_ (fun _ hs => ?_)
    | with_reducible refine State.tallyReport_framed (Framed.sub h) ?_
    | with_reducible refine State.tallyPush_framed (Framed.sub h) ?_
    | (fail_if_no_progress extract_lets +onlyGivenNames x
       refine cutL (p := Framed ps z x) ?_ ?_; subst x; rotate_left; intro hs; try clear_value x; rotate_right)
    | (fail_if_no_progress extract_lets +onlyGivenNames x
       first
       | (have hd : List _ := x; clear hd; clear_value x)
       | (have hd : Bool := x; clear hd; clear_value x)
       | (have hd : Nat := x; clear hd; clear_value x)
       | subst x)
    | fail_if_no_progress beta_reduce
    | ((with_reducible refine Framed.upd ?_ ?_); rotate_left; intro p hp; cases p <;> first | exact absurd (h (by decide)) hp | rfl | exact ⟨rfl, rfl⟩))

theorem execTallyProgram_framed {ps : List Part} (h : [Part.regs, .host, .written, .tally, .out] ⊆ ps) {z s : State}
    (hs : Framed ps z s) : OutFramed ps z (execTallyProgram s) := by
  unfold execTallyProgram
  repeat' (first
    | with_reducible assumption
    | with_reducible refine OutFramed.next ?_
    | with_reducible refine State.reportLost_framed (Framed.sub h) ?_
    | with_reducible refine State.when_framed ?_ (fun _ hs => ?_)
    | (fail_if_no_progress extract_lets +onlyGivenNames x
       first
       | (have hd : List _ := x; clear hd; clear_value x)
       | (have hd : Bool := x; clear hd; clear_value x)
       | (have hd : Nat := x; clear hd; clear_value x)
       | subst x)
    | split
    | ((with_reducible refine Framed.upd ?_ ?_); rotate_left; intro p hp; cases p <;> first | exact absurd (h (by decide)) hp | rfl | exact ⟨rfl, rfl⟩))

theorem execSectorErase_framed {ps : List Part} (h : [Part.tally] ⊆ ps) {z s : State}
    (hs : Framed ps z s) : OutFramed ps z (execSectorErase s) := by
  unfold execSectorErase
  repeat' (first
    | with_reducible assumption
    | with_reducible refine OutFramed.next ?_
    | (fail_if_no_progress extract_lets +onlyGivenNames x
       first
       | (have hd : List _ := x; clear hd; clear_value x)
       | (have hd : Bool := x; clear hd; clear_value x)
       | (have hd : Nat := x; clear hd; clear_value x)
       | subst x)
    | split
    | ((with_reducible refine Framed.upd ?_ ?_); rotate_left; intro p hp; cases p <;> first | exact absurd (h (by decide)) hp | rfl | exact ⟨rfl, rfl⟩))

theorem execToken_framed {ps : List Part} (h : [Part.tally] ⊆ ps) {z s : State}
    (hs : Framed ps z s) : OutFramed ps z (execToken s) := by
  unfold execToken
  repeat' (first
    | with_reducible assumption
    | with_reducible refine OutFramed.next ?_
    | (fail_if_no_progress extract_lets +onlyGivenNames x
       first
       | (have hd : List _ := x; clear hd; clear_value x)
       | (have hd : Bool := x; clear hd; clear_value x)
       | (have hd : Nat := x; clear hd; clear_value x)
       | subst x)
    | ((with_reducible refine Framed.upd ?_ ?_); rotate_left; intro p hp; cases p <;> first | exact absurd (h (by decide)) hp | rfl | exact ⟨rfl, rfl⟩))

theorem execPowerLoss_framed {ps : List Part} (h : [Part.now, .regs, .host, .written, .tally, .out] ⊆ ps) {z s : State} {t_ : Nat}
    (hs : Framed ps z s) : OutFramed ps z (execPowerLoss t_ s) := by
  unfold execPowerLoss
  repeat' (first
    | with_reducible assumption
    | with_reducible refine OutFramed.next ?_
    | with_reducible refine State.when_framed ?_ (fun _ hs => ?_)
    | with_reducible refine State.when_framed ?_ (fun _ hs => ?_)
    | with_reducible refine State.advance_framed (Framed.sub h) ?_
    | with_reducible refine State.spendToken_framed (Framed.sub h) ?_
    | with_reducible refine State.tallyPush_framed (Framed.sub h) ?_
    | (fail_if_no_progress extract_lets +onlyGivenNames x
       refine cutL (p := Framed ps z x) ?_ ?_; subst x; rotate_left; intro hs; try clear_value x; rotate_right)
    | (fail_if_no_progress extract_lets +onlyGivenNames x
       first
       | (have hd : List _ := x; clear hd; clear_value x)
       | (have hd : Bool := x; clear hd; clear_value x)
       | (have hd : Nat := x; clear hd; clear_value x)
       | subst x)
    | fail_if_no_progress beta_reduce
    | with_reducible refine Framed.foldl ?_ (fun _ hs _ => ?_)
    | split
    | ((with_reducible refine Framed.upd ?_ ?_); rotate_left; intro p hp; cases p <;> first | exact absurd (h (by decide)) hp | rfl | exact ⟨rfl, rfl⟩)
    | dsimp only)

theorem State.showEntry_framed {ps : List Part} (h : [Part.regs] ⊆ ps) {z s : State} {result : Nat} {bs : List Byte}
    (hs : Framed ps z s) : Framed ps z (State.showEntry s result bs) := by
  unfold State.showEntry
  repeat' (first
    | with_reducible assumption
    | with_reducible refine State.setReg_framed (Framed.sub h) ?_
    | with_reducible refine Framed.foldl ?_ (fun _ hs _ => ?_))

theorem State.readEntry_framed {ps : List Part} (h : [Part.regs, .badRegs, .dep] ⊆ ps) {z s : State} {lo : Word} {ue : Bool}
    (hs : Framed ps z s) : Framed ps z (State.readEntry s lo ue) := by
  unfold State.readEntry
  repeat' (first
    | with_reducible assumption
    | with_reducible refine State.rewrite_framed (Framed.sub h) ?_
    | with_reducible refine State.showEntry_framed (Framed.sub h) ?_
    | with_reducible refine State.event_framed (Framed.sub h) ?_
    | (fail_if_no_progress extract_lets +onlyGivenNames x
       refine cutL (p := Framed ps z x) ?_ ?_; subst x; rotate_left; intro hs; try clear_value x; rotate_right)
    | (fail_if_no_progress extract_lets +onlyGivenNames x
       first
       | (have hd : List _ := x; clear hd; clear_value x)
       | (have hd : Bool := x; clear hd; clear_value x)
       | (have hd : Nat := x; clear hd; clear_value x)
       | subst x)
    | fail_if_no_progress beta_reduce
    | with_reducible refine Framed.ite ?_ ?_
    | split
    | dsimp only)

theorem execRdSeq_framed {ps : List Part} (h : [Part.regs, .badRegs, .host, .dep, .out] ⊆ ps) {z s : State} {lo : Word} {ue : Bool}
    (hs : Framed ps z s) : OutFramed ps z (execRdSeq lo ue s) := by
  unfold execRdSeq
  repeat' (first
    | with_reducible assumption
    | with_reducible refine OutFramed.next ?_
    | with_reducible refine State.write32_framed (Framed.sub h) ?_ (fun _ hs => ?_)
    | with_reducible refine State.readEntry_framed (Framed.sub h) ?_)

theorem State.startDump_framed {ps : List Part} (h : [Part.regs, .tally] ⊆ ps) {z s : State}
    (hs : Framed ps z s) : Framed ps z (State.startDump s) := by
  unfold State.startDump
  repeat' (first
    | with_reducible assumption
    | with_reducible refine State.event_framed (Framed.sub h) ?_
    | (fail_if_no_progress extract_lets +onlyGivenNames x
       first
       | (have hd : List _ := x; clear hd; clear_value x)
       | (have hd : Bool := x; clear hd; clear_value x)
       | (have hd : Nat := x; clear hd; clear_value x)
       | subst x)
    | with_reducible refine Framed.ite ?_ ?_
    | ((with_reducible refine Framed.upd ?_ ?_); rotate_left; intro p hp; cases p <;> first | exact absurd (h (by decide)) hp | rfl | exact ⟨rfl, rfl⟩))

theorem execDump_framed {ps : List Part} (h : [Part.regs, .host, .tally, .out] ⊆ ps) {z s : State}
    (hs : Framed ps z s) : OutFramed ps z (execDump s) := by
  unfold execDump
  repeat' (first
    | with_reducible assumption
    | with_reducible refine OutFramed.next ?_
    | with_reducible refine State.write32_framed (Framed.sub h) ?_ (fun _ hs => ?_)
    | with_reducible refine State.startDump_framed (Framed.sub h) ?_)

theorem execDumpDone_framed {ps : List Part} (h : [Part.regs, .mem, .slices, .tally] ⊆ ps) {z s : State}
    (hs : Framed ps z s) : OutFramed ps z (execDumpDone s) := by
  unfold execDumpDone
  repeat' (first
    | with_reducible assumption
    | with_reducible refine OutFramed.next ?_
    | with_reducible refine State.setReg_framed (Framed.sub h) ?_
    | with_reducible refine State.event_framed (Framed.sub h) ?_
    | with_reducible refine State.store_framed (Framed.sub h) ?_
    | (fail_if_no_progress extract_lets +onlyGivenNames x
       first
       | (have hd : List _ := x; clear hd; clear_value x)
       | (have hd : Bool := x; clear hd; clear_value x)
       | (have hd : Nat := x; clear hd; clear_value x)
       | subst x)
    | split
    | ((with_reducible refine Framed.upd ?_ ?_); rotate_left; intro p hp; cases p <;> first | exact absurd (h (by decide)) hp | rfl | exact ⟨rfl, rfl⟩))

theorem execSmbId_framed {ps : List Part} (h : [Part.out] ⊆ ps) {z s : State}
    (hs : Framed ps z s) : OutFramed ps z (execSmbId s) := by
  unfold execSmbId smbRead
  repeat' (first
    | with_reducible assumption
    | with_reducible refine OutFramed.next ?_
    | with_reducible refine State.emit_framed (Framed.sub h) ?_
    | with_reducible refine State.when_framed ?_ (fun _ hs => ?_))

theorem execSmbState_framed {ps : List Part} (h : [Part.out] ⊆ ps) {z s : State}
    (hs : Framed ps z s) : OutFramed ps z (execSmbState s) := by
  unfold execSmbState smbRead
  repeat' (first
    | with_reducible assumption
    | with_reducible refine OutFramed.next ?_
    | with_reducible refine State.emit_framed (Framed.sub h) ?_
    | with_reducible refine State.when_framed ?_ (fun _ hs => ?_))

theorem execSmbTemp_framed {ps : List Part} (h : [Part.out] ⊆ ps) {z s : State}
    (hs : Framed ps z s) : OutFramed ps z (execSmbTemp s) := by
  unfold execSmbTemp smbRead
  repeat' (first
    | with_reducible assumption
    | with_reducible refine OutFramed.next ?_
    | with_reducible refine State.emit_framed (Framed.sub h) ?_
    | with_reducible refine State.when_framed ?_ (fun _ hs => ?_))

theorem execSmbRails_framed {ps : List Part} (h : [Part.out] ⊆ ps) {z s : State}
    (hs : Framed ps z s) : OutFramed ps z (execSmbRails s) := by
  unfold execSmbRails smbRead
  repeat' (first
    | with_reducible assumption
    | with_reducible refine OutFramed.next ?_
    | with_reducible refine State.emit_framed (Framed.sub h) ?_
    | with_reducible refine State.when_framed ?_ (fun _ hs => ?_))

theorem execSmbTallyHead_framed {ps : List Part} (h : [Part.out] ⊆ ps) {z s : State}
    (hs : Framed ps z s) : OutFramed ps z (execSmbTallyHead s) := by
  unfold execSmbTallyHead smbRead
  repeat' (first
    | with_reducible assumption
    | with_reducible refine OutFramed.next ?_
    | with_reducible refine State.emit_framed (Framed.sub h) ?_
    | with_reducible refine State.when_framed ?_ (fun _ hs => ?_))

theorem execSmbAra_framed {ps : List Part} (h : [Part.out] ⊆ ps) {z s : State}
    (hs : Framed ps z s) : OutFramed ps z (execSmbAra s) := by
  unfold execSmbAra
  repeat' (first
    | with_reducible assumption
    | with_reducible refine OutFramed.next ?_
    | with_reducible exact OutFramed.fault
    | with_reducible refine State.when_framed ?_ (fun _ hs => ?_)
    | with_reducible refine State.when_framed ?_ (fun _ hs => ?_)
    | with_reducible refine State.emit_framed (Framed.sub h) ?_)

end Sys2Proof.Machine
end

