-- ==== Sys2Proof/Laws/FrameRegisters.lean ====
section
/-! SUPPORT. The parts of the state that the operations of Machine/Registers.lean can change. -/

set_option Elab.async false
set_option linter.unusedTactic false
set_option linter.unreachableTactic false
set_option linter.unusedVariables false
set_option linter.tactic.unusedName false

namespace Sys2Proof.Machine
open Sys2Proof

theorem State.putWord_framed {ps : List Part} (h : [Part.regs, .badRegs, .dep] ⊆ ps) {z s : State} {o : Nat} {v : Word}
    (hs : Framed ps z s) : Framed ps z (State.putWord s o v) := by
  unfold State.putWord
  repeat' (first
    | with_reducible assumption
    | with_reducible refine State.rewrite_framed (Framed.sub h) ?_)

theorem State.putChannel_framed {ps : List Part} (h : [Part.regs, .badRegs, .world, .dies, .chans, .host, .kl, .dep, .out] ⊆ ps) {z s : State} {o : Nat} {v : Word}
    (hs : Framed ps z s) : Framed ps z (State.putChannel s o v) := by
  unfold State.putChannel
  repeat' (first
    | with_reducible assumption
    | with_reducible refine State.setCring_framed (Framed.sub h) ?_
    | with_reducible refine State.event_framed (Framed.sub h) ?_
    | with_reducible refine State.putWord_framed (Framed.sub h) ?_
    | with_reducible refine State.retryRecords_framed (Framed.sub h) ?_
    | (fail_if_no_progress extract_lets +onlyGivenNames x
       refine cutL (p := Framed ps z x) ?_ ?_; subst x; rotate_left; intro hs; try clear_value x; rotate_right)
    | (fail_if_no_progress extract_lets +onlyGivenNames x
       first
       | (have hd : List _ := x; clear hd; clear_value x)
       | (have hd : Bool := x; clear hd; clear_value x)
       | (have hd : Nat := x; clear hd; clear_value x)
       | subst x)
    | fail_if_no_progress beta_reduce
    | with_reducible refine Framed.ite ?_ ?_
    | split)

theorem State.putEg_framed {ps : List Part} (h : [Part.regs, .badRegs, .dep] ⊆ ps) {z s : State} {o : Nat} {v : Word}
    (hs : Framed ps z s) : Framed ps z (State.putEg s o v) := by
  unfold State.putEg
  repeat' (first
    | with_reducible assumption
    | with_reducible refine State.event_framed (Framed.sub h) ?_
    | with_reducible refine State.putWord_framed (Framed.sub h) ?_
    | (fail_if_no_progress extract_lets +onlyGivenNames x
       first
       | (have hd : List _ := x; clear hd; clear_value x)
       | (have hd : Bool := x; clear hd; clear_value x)
       | (have hd : Nat := x; clear hd; clear_value x)
       | subst x)
    | with_reducible refine Framed.ite ?_ ?_)

theorem State.putRw_framed {ps : List Part} (h : [Part.regs, .badRegs, .world, .dies, .chans, .host, .kl, .dep, .out] ⊆ ps) {z s : State} {o : Nat} {v : Word}
    (hs : Framed ps z s) : Framed ps z (State.putRw s o v) := by
  unfold State.putRw
  repeat' (first
    | with_reducible assumption
    | with_reducible refine State.readEntry_framed (Framed.sub h) ?_
    | with_reducible refine State.putEg_framed (Framed.sub h) ?_
    | with_reducible refine State.putChannel_framed (Framed.sub h) ?_
    | with_reducible refine State.putWord_framed (Framed.sub h) ?_
    | with_reducible refine Framed.ite ?_ ?_
    | split)

theorem State.shadow_framed {ps : List Part} (h : [Part.sh, .badRegs, .dep] ⊆ ps) {z s : State} {o : Nat} {mask : Word} {v : Word}
    (hs : Framed ps z s) : Framed ps z (State.shadow s o mask v) := by
  unfold State.shadow
  repeat' (first
    | with_reducible assumption
    | with_reducible refine State.mend_framed (Framed.sub h) ?_
    | split
    | ((with_reducible refine Framed.upd ?_ ?_); rotate_left; intro p hp; cases p <;> first | exact absurd (h (by decide)) hp | rfl | exact ⟨rfl, rfl⟩))

theorem State.pulse_framed {ps : List Part} (h : [Part.free, .dev, .regs, .sh, .badRegs, .mem, .slices, .queue, .sys, .tick, .plan, .world, .dies, .loading, .chans, .host, .kl, .safe, .dep, .tally, .sec, .bist, .out] ⊆ ps) {z s : State} {o : Nat} {p_ : Word}
    (hs : Framed ps z s) : Framed ps z (State.pulse s o p_) := by
  unfold State.pulse
  repeat' (first
    | with_reducible assumption
    | with_reducible refine State.pushCmd_framed (Framed.sub h) ?_
    | with_reducible refine State.startSync_framed (Framed.sub h) ?_
    | with_reducible refine State.dropPending_framed (Framed.sub h) ?_
    | with_reducible refine State.chanCtrl_framed (Framed.sub h) ?_
    | with_reducible refine State.softSelect_framed (Framed.sub h) ?_
    | with_reducible refine State.softIhaul_framed (Framed.sub h) ?_
    | with_reducible refine State.hostSafe_framed (Framed.sub h) ?_
    | with_reducible refine State.enterBarrier_framed (Framed.sub h) ?_
    | with_reducible refine State.startBcast_framed (Framed.sub h) ?_
    | with_reducible refine State.startSnap_framed (Framed.sub h) ?_
    | with_reducible refine State.startFlood_framed (Framed.sub h) ?_
    | with_reducible refine State.startLoad_framed (Framed.sub h) ?_
    | with_reducible refine State.pushFirmware_framed (Framed.sub h) ?_
    | with_reducible refine State.pushFlash_framed (Framed.sub h) ?_
    | with_reducible refine State.attest_framed (Framed.sub h) ?_
    | with_reducible refine State.bistGo_framed (Framed.sub h) ?_
    | with_reducible refine State.startDump_framed (Framed.sub h) ?_
    | with_reducible refine State.when_framed ?_ (fun _ hs => ?_)
    | (fail_if_no_progress extract_lets +onlyGivenNames x
       refine cutL (p := Framed ps z x) ?_ ?_; subst x; rotate_left; intro hs; try clear_value x; rotate_right)
    | with_reducible refine Framed.ite ?_ ?_
    | split)

theorem State.putWo_framed {ps : List Part} (h : [Part.free, .regs, .queue, .sys, .chans, .sec] ⊆ ps) {z s : State} {o : Nat} {v : Word}
    (hs : Framed ps z s) : Framed ps z (State.putWo s o v) := by
  unfold State.putWo
  repeat' (first
    | with_reducible assumption
    | with_reducible refine State.pushCmd_framed (Framed.sub h) ?_
    | with_reducible refine State.ringDoorbell_framed (Framed.sub h) ?_
    | with_reducible refine State.otpCommand_framed (Framed.sub h) ?_
    | with_reducible refine Framed.ite ?_ ?_)

theorem State.putReg_framed {ps : List Part} (h : [Part.free, .dev, .regs, .sh, .badRegs, .mem, .slices, .queue, .sys, .tick, .plan, .world, .dies, .loading, .chans, .host, .kl, .safe, .dep, .tally, .sec, .bist, .out] ⊆ ps) {z s : State} {r : RegDef} {o : Nat} {at_ : Nat} {v : Word} {act : Word} {fire : Word} {pulses : Word}
    (hs : Framed ps z s) : Framed ps z (State.putReg s r o at_ v act fire pulses) := by
  unfold State.putReg
  repeat' (first
    | with_reducible assumption
    | with_reducible refine State.recordAccess_framed (Framed.sub h) ?_
    | with_reducible refine State.putWord_framed (Framed.sub h) ?_
    | with_reducible refine State.putRw_framed (Framed.sub h) ?_
    | with_reducible refine State.shadow_framed (Framed.sub h) ?_
    | with_reducible refine State.pulse_framed (Framed.sub h) ?_
    | with_reducible refine State.putWo_framed (Framed.sub h) ?_
    | with_reducible refine State.when_framed ?_ (fun _ hs => ?_))

theorem State.reach_framed {ps : List Part} (h : [Part.regs, .host, .out] ⊆ ps) {z s : State} {o at_ : Nat} {write : Bool}
    {f : RegDef → State} (hs : Framed ps z s) (hf : ∀ r, Framed ps z (f r)) :
    Framed ps z (s.reach o at_ write f) := by
  unfold State.reach
  dsimp only
  split
  · split
    · exact hf _
    · exact hs
  · exact State.recordAccess_framed h hs

theorem State.aliasWrite_framed {ps : List Part} (h : [Part.free, .dev, .regs, .sh, .badRegs, .mem, .slices, .queue, .sys, .tick, .plan, .world, .dies, .loading, .chans, .host, .kl, .safe, .dep, .tally, .sec, .bist, .out] ⊆ ps) {z s : State} {a : Nat} {w : Word}
    (hs : Framed ps z s) : Framed ps z (State.aliasWrite s a w) := by
  unfold State.aliasWrite
  repeat' (first
    | with_reducible assumption
    | with_reducible refine State.recordAccess_framed (Framed.sub h) ?_
    | with_reducible refine State.putReg_framed (Framed.sub h) ?_
    | with_reducible refine State.reach_framed (Framed.sub h) ?_ (fun _ => ?_)
    | (fail_if_no_progress extract_lets +onlyGivenNames x
       first
       | (have hd : List _ := x; clear hd; clear_value x)
       | (have hd : Bool := x; clear hd; clear_value x)
       | (have hd : Nat := x; clear hd; clear_value x)
       | subst x)
    | with_reducible refine Framed.ite ?_ ?_
    | split)

theorem State.windowBitWrite_framed {ps : List Part} (h : [Part.free, .dev, .regs, .sh, .badRegs, .mem, .slices, .queue, .sys, .tick, .plan, .world, .dies, .loading, .chans, .host, .kl, .safe, .dep, .tally, .sec, .bist, .out] ⊆ ps) {z s : State} {a : Nat} {w : Word}
    (hs : Framed ps z s) : Framed ps z (State.windowBitWrite s a w) := by
  unfold State.windowBitWrite
  repeat' (first
    | with_reducible assumption
    | with_reducible refine State.recordAccess_framed (Framed.sub h) ?_
    | with_reducible refine State.putReg_framed (Framed.sub h) ?_
    | with_reducible refine State.reach_framed (Framed.sub h) ?_ (fun _ => ?_)
    | with_reducible refine Framed.ite ?_ ?_)

theorem State.write4_framed {ps : List Part} (h : [Part.free, .dev, .regs, .sh, .badRegs, .mem, .slices, .queue, .sys, .tick, .plan, .world, .dies, .loading, .chans, .host, .kl, .safe, .dep, .tally, .sec, .bist, .out] ⊆ ps) {z s : State} {a : Nat} {w : Word}
    (hs : Framed ps z s) : Framed ps z (State.write4 s a w) := by
  unfold State.write4
  repeat' (first
    | with_reducible assumption
    | with_reducible refine State.putReg_framed (Framed.sub h) ?_
    | with_reducible refine State.reach_framed (Framed.sub h) ?_ (fun _ => ?_)
    | with_reducible refine State.aliasWrite_framed (Framed.sub h) ?_
    | with_reducible refine State.windowBitWrite_framed (Framed.sub h) ?_
    | with_reducible refine Framed.ite ?_ ?_)

theorem State.readWord_framed {ps : List Part} (h : [Part.free, .dev, .regs, .latches, .badRegs, .queue, .sys, .tick, .plan, .dies, .chans, .host, .kl, .safe, .dep, .tally, .out] ⊆ ps) {z s : State} {o : Nat} {clear : Word}
    (hs : Framed ps z s) : Framed ps z (State.readWord s o clear).2 := by
  unfold State.readWord
  repeat' (first
    | with_reducible assumption
    | with_reducible refine State.when_framed ?_ (fun _ hs => ?_)
    | with_reducible refine State.checkParity_framed (Framed.sub h) ?_
    | with_reducible refine State.when_framed ?_ (fun _ hs => ?_)
    | with_reducible refine State.setReg_framed (Framed.sub h) ?_
    | (fail_if_no_progress extract_lets +onlyGivenNames x
       refine cutL (p := Framed ps z x) ?_ ?_; subst x; rotate_left; intro hs; try clear_value x; rotate_right)
    | (fail_if_no_progress extract_lets +onlyGivenNames x
       first
       | (have hd : List _ := x; clear hd; clear_value x)
       | (have hd : Bool := x; clear hd; clear_value x)
       | (have hd : Nat := x; clear hd; clear_value x)
       | subst x)
    | fail_if_no_progress beta_reduce
    | with_reducible refine Framed.ite ?_ ?_
    | split
    | ((with_reducible refine Framed.upd ?_ ?_); rotate_left; intro p hp; cases p <;> first | exact absurd (h (by decide)) hp | rfl | exact ⟨rfl, rfl⟩)
    | dsimp only)

theorem State.readWord_framed_eq {ps : List Part} (h : [Part.free, .dev, .regs, .latches, .badRegs, .queue, .sys, .tick, .plan, .dies, .chans, .host, .kl, .safe, .dep, .tally, .out] ⊆ ps) {z s tt : State} {pr : Word} {o : Nat} {clear : Word}
    (he : (State.readWord s o clear) = (pr, tt)) (hs : Framed ps z s) : Framed ps z tt := by
  have := State.readWord_framed (o := o) (clear := clear) h hs
  rw [he] at this; exact this

theorem State.readAt_framed {ps : List Part} (h : [Part.free, .dev, .regs, .latches, .badRegs, .queue, .sys, .tick, .plan, .dies, .chans, .host, .kl, .safe, .dep, .tally, .out] ⊆ ps) {z s : State} {o : Nat} {at_ : Nat} {clear : Word}
    (hs : Framed ps z s) : Framed ps z (State.readAt s o at_ clear).2 := by
  unfold State.readAt
  repeat' (first
    | with_reducible assumption
    | with_reducible refine State.recordAccess_framed (Framed.sub h) ?_
    | with_reducible refine State.readWord_framed (Framed.sub h) ?_
    | split)

theorem State.readAt_framed_eq {ps : List Part} (h : [Part.free, .dev, .regs, .latches, .badRegs, .queue, .sys, .tick, .plan, .dies, .chans, .host, .kl, .safe, .dep, .tally, .out] ⊆ ps) {z s tt : State} {pr : Word} {o : Nat} {at_ : Nat} {clear : Word}
    (he : (State.readAt s o at_ clear) = (pr, tt)) (hs : Framed ps z s) : Framed ps z tt := by
  have := State.readAt_framed (o := o) (at_ := at_) (clear := clear) h hs
  rw [he] at this; exact this

theorem State.read4_framed {ps : List Part} (h : [Part.free, .dev, .regs, .latches, .badRegs, .queue, .sys, .tick, .plan, .dies, .chans, .host, .kl, .safe, .dep, .tally, .out] ⊆ ps) {z s : State} {a : Nat}
    (hs : Framed ps z s) : Framed ps z (State.read4 s a).2 := by
  unfold State.read4
  repeat' (first
    | with_reducible assumption
    | with_reducible refine State.recordAccess_framed (Framed.sub h) ?_
    | with_reducible refine State.readAt_framed (Framed.sub h) ?_
    | split)

theorem State.read4_framed_eq {ps : List Part} (h : [Part.free, .dev, .regs, .latches, .badRegs, .queue, .sys, .tick, .plan, .dies, .chans, .host, .kl, .safe, .dep, .tally, .out] ⊆ ps) {z s tt : State} {pr : Word} {a : Nat}
    (he : (State.read4 s a) = (pr, tt)) (hs : Framed ps z s) : Framed ps z tt := by
  have := State.read4_framed (a := a) h hs
  rw [he] at this; exact this

theorem State.writeWord_framed {ps : List Part} (h : [Part.free, .dev, .regs, .sh, .badRegs, .mem, .slices, .queue, .sys, .tick, .plan, .world, .dies, .loading, .chans, .host, .kl, .safe, .dep, .tally, .sec, .bist, .out] ⊆ ps) {z s : State} {a : Nat} {size : Nat} {be : Nat} {w : Word}
    (hs : Framed ps z s) : Framed ps z (State.writeWord s a size be w) := by
  unfold State.writeWord
  repeat' (first
    | with_reducible assumption
    | with_reducible refine State.recordAccess_framed (Framed.sub h) ?_
    | with_reducible refine State.write4_framed (Framed.sub h) ?_
    | (fail_if_no_progress extract_lets +onlyGivenNames x
       first
       | (have hd : List _ := x; clear hd; clear_value x)
       | (have hd : Bool := x; clear hd; clear_value x)
       | (have hd : Nat := x; clear hd; clear_value x)
       | subst x)
    | with_reducible refine Framed.ite ?_ ?_)

theorem State.busWrite_framed {ps : List Part} (h : [Part.free, .dev, .regs, .sh, .badRegs, .mem, .slices, .queue, .sys, .tick, .plan, .world, .dies, .loading, .chans, .host, .kl, .safe, .dep, .tally, .sec, .bist, .out] ⊆ ps) {z s : State} {a : Nat} {size : Nat} {be : Nat} {lo : Word} {hi : Word}
    (hs : Framed ps z s) : Framed ps z (State.busWrite s a size be lo hi) := by
  unfold State.busWrite
  repeat' (first
    | with_reducible assumption
    | with_reducible refine State.writeWord_framed (Framed.sub h) ?_
    | with_reducible refine Framed.ite ?_ ?_)

theorem State.readOut_framed {ps : List Part} (h : [Part.free, .dev, .regs, .latches, .badRegs, .queue, .sys, .tick, .plan, .dies, .chans, .host, .kl, .safe, .dep, .tally, .out] ⊆ ps) {z s : State} {a : Nat} {size : Nat} {be : Nat}
    (hs : Framed ps z s) : Framed ps z (State.readOut s a size be) := by
  unfold State.readOut
  repeat' (first
    | with_reducible assumption
    | with_reducible refine State.emit_framed (Framed.sub h) ?_
    | with_reducible refine State.recordAccess_framed (Framed.sub h) ?_
    | with_reducible refine State.read4_framed (Framed.sub h) ?_
    | (fail_if_no_progress extract_lets +onlyGivenNames x
       first
       | (have hd : List _ := x; clear hd; clear_value x)
       | (have hd : Bool := x; clear hd; clear_value x)
       | (have hd : Nat := x; clear hd; clear_value x)
       | subst x)
    | with_reducible refine Framed.ite ?_ ?_)

theorem State.busRead_framed {ps : List Part} (h : [Part.free, .dev, .regs, .latches, .badRegs, .queue, .sys, .tick, .plan, .dies, .chans, .host, .kl, .safe, .dep, .tally, .out] ⊆ ps) {z s : State} {a : Nat} {size : Nat} {be : Nat}
    (hs : Framed ps z s) : Framed ps z (State.busRead s a size be) := by
  unfold State.busRead
  repeat' (first
    | with_reducible assumption
    | with_reducible refine State.readOut_framed (Framed.sub h) ?_
    | with_reducible refine Framed.ite ?_ ?_)

theorem execRegisterWrite_framed {ps : List Part} (h : [Part.free, .dev, .regs, .sh, .badRegs, .mem, .slices, .queue, .sys, .tick, .plan, .world, .dies, .loading, .chans, .host, .kl, .safe, .dep, .tally, .sec, .bist, .out] ⊆ ps) {z s : State} {ofs : Nat} {size : Nat} {be : Nat} {lo : Word} {hi : Word}
    (hs : Framed ps z s) : OutFramed ps z (execRegisterWrite ofs size be lo hi s) := by
  unfold execRegisterWrite
  repeat' (first
    | with_reducible assumption
    | with_reducible refine OutFramed.named ?_
    | with_reducible refine State.busWrite_framed (Framed.sub h) ?_)

theorem execClearOnRead_framed {ps : List Part} (h : [Part.free, .dev, .regs, .latches, .badRegs, .queue, .sys, .tick, .plan, .dies, .chans, .host, .kl, .safe, .dep, .tally, .out] ⊆ ps) {z s : State} {ofs : Nat}
    (hs : Framed ps z s) : OutFramed ps z (execClearOnRead ofs s) := by
  unfold execClearOnRead
  repeat' (first
    | with_reducible assumption
    | with_reducible refine OutFramed.named ?_
    | with_reducible refine State.busRead_framed (Framed.sub h) ?_)

theorem execCaptureRead_framed {ps : List Part} (h : [Part.free, .dev, .regs, .latches, .badRegs, .queue, .sys, .tick, .plan, .dies, .chans, .host, .kl, .safe, .dep, .tally, .out] ⊆ ps) {z s : State} {ofs : Nat} {size : Nat} {be : Nat}
    (hs : Framed ps z s) : OutFramed ps z (execCaptureRead ofs size be s) := by
  unfold execCaptureRead
  repeat' (first
    | with_reducible assumption
    | with_reducible refine OutFramed.named ?_
    | with_reducible refine State.busRead_framed (Framed.sub h) ?_)

theorem execShWrite_framed {ps : List Part} (h : [Part.free, .dev, .regs, .sh, .badRegs, .mem, .slices, .queue, .sys, .tick, .plan, .world, .dies, .loading, .chans, .host, .kl, .safe, .dep, .tally, .sec, .bist, .out] ⊆ ps) {z s : State} {ofs : Nat} {v : Word}
    (hs : Framed ps z s) : OutFramed ps z (execShWrite ofs v s) := by
  unfold execShWrite
  repeat' (first
    | with_reducible assumption
    | with_reducible refine OutFramed.named ?_
    | with_reducible refine State.busWrite_framed (Framed.sub h) ?_)

theorem execSetAlias_framed {ps : List Part} (h : [Part.free, .dev, .regs, .sh, .badRegs, .mem, .slices, .queue, .sys, .tick, .plan, .world, .dies, .loading, .chans, .host, .kl, .safe, .dep, .tally, .sec, .bist, .out] ⊆ ps) {z s : State} {ofs : Nat} {v : Word}
    (hs : Framed ps z s) : OutFramed ps z (execSetAlias ofs v s) := by
  unfold execSetAlias
  repeat' (first
    | with_reducible assumption
    | with_reducible refine OutFramed.named ?_
    | with_reducible refine State.busWrite_framed (Framed.sub h) ?_)

theorem execClearAlias_framed {ps : List Part} (h : [Part.free, .dev, .regs, .sh, .badRegs, .mem, .slices, .queue, .sys, .tick, .plan, .world, .dies, .loading, .chans, .host, .kl, .safe, .dep, .tally, .sec, .bist, .out] ⊆ ps) {z s : State} {ofs : Nat} {v : Word}
    (hs : Framed ps z s) : OutFramed ps z (execClearAlias ofs v s) := by
  unfold execClearAlias
  repeat' (first
    | with_reducible assumption
    | with_reducible refine OutFramed.named ?_
    | with_reducible refine State.busWrite_framed (Framed.sub h) ?_)

theorem execToggleAlias_framed {ps : List Part} (h : [Part.free, .dev, .regs, .sh, .badRegs, .mem, .slices, .queue, .sys, .tick, .plan, .world, .dies, .loading, .chans, .host, .kl, .safe, .dep, .tally, .sec, .bist, .out] ⊆ ps) {z s : State} {ofs : Nat} {v : Word}
    (hs : Framed ps z s) : OutFramed ps z (execToggleAlias ofs v s) := by
  unfold execToggleAlias
  repeat' (first
    | with_reducible assumption
    | with_reducible refine OutFramed.named ?_
    | with_reducible refine State.busWrite_framed (Framed.sub h) ?_)

theorem execBitWindowWrite_framed {ps : List Part} (h : [Part.free, .dev, .regs, .sh, .badRegs, .mem, .slices, .queue, .sys, .tick, .plan, .world, .dies, .loading, .chans, .host, .kl, .safe, .dep, .tally, .sec, .bist, .out] ⊆ ps) {z s : State} {addr : Nat} {v : Word}
    (hs : Framed ps z s) : OutFramed ps z (execBitWindowWrite addr v s) := by
  unfold execBitWindowWrite
  repeat' (first
    | with_reducible assumption
    | with_reducible refine OutFramed.named ?_
    | with_reducible refine State.busWrite_framed (Framed.sub h) ?_)

theorem execBitWindowRead_framed {ps : List Part} (h : [Part.free, .dev, .regs, .latches, .badRegs, .queue, .sys, .tick, .plan, .dies, .chans, .host, .kl, .safe, .dep, .tally, .out] ⊆ ps) {z s : State} {addr : Nat}
    (hs : Framed ps z s) : OutFramed ps z (execBitWindowRead addr s) := by
  unfold execBitWindowRead
  repeat' (first
    | with_reducible assumption
    | with_reducible refine OutFramed.named ?_
    | with_reducible refine State.busRead_framed (Framed.sub h) ?_)

theorem execAliasMode_framed {ps : List Part} (h : [Part.free, .dev, .regs, .sh, .badRegs, .mem, .slices, .queue, .sys, .tick, .plan, .world, .dies, .loading, .chans, .host, .kl, .safe, .dep, .tally, .sec, .bist, .out] ⊆ ps) {z s : State} {v : Word}
    (hs : Framed ps z s) : OutFramed ps z (execAliasMode v s) := by
  unfold execAliasMode
  repeat' (first
    | with_reducible assumption
    | with_reducible refine OutFramed.next ?_
    | with_reducible refine State.busWrite_framed (Framed.sub h) ?_)

theorem execBitwinBase_framed {ps : List Part} (h : [Part.free, .dev, .regs, .sh, .badRegs, .mem, .slices, .queue, .sys, .tick, .plan, .world, .dies, .loading, .chans, .host, .kl, .safe, .dep, .tally, .sec, .bist, .out] ⊆ ps) {z s : State} {v : Word}
    (hs : Framed ps z s) : OutFramed ps z (execBitwinBase v s) := by
  unfold execBitwinBase
  repeat' (first
    | with_reducible assumption
    | with_reducible refine OutFramed.next ?_
    | with_reducible refine State.busWrite_framed (Framed.sub h) ?_)

theorem execLock_framed {ps : List Part} (h : [Part.free, .dev, .regs, .sh, .badRegs, .mem, .slices, .queue, .sys, .tick, .plan, .world, .dies, .loading, .chans, .host, .kl, .safe, .dep, .tally, .sec, .bist, .out] ⊆ ps) {z s : State} {ofs : Nat} {v : Word}
    (hs : Framed ps z s) : OutFramed ps z (execLock ofs v s) := by
  unfold execLock
  repeat' (first
    | with_reducible assumption
    | with_reducible refine OutFramed.named ?_
    | with_reducible refine State.busWrite_framed (Framed.sub h) ?_)

theorem execParityScan_framed {ps : List Part} (h : [Part.dev, .regs, .badRegs, .queue, .sys, .tick, .plan, .dies, .chans, .host, .kl, .safe, .dep, .tally, .out] ⊆ ps) {z s : State} {pass : ScanPass}
    (hs : Framed ps z s) : OutFramed ps z (execParityScan pass s) := by
  unfold execParityScan
  repeat' (first
    | with_reducible assumption
    | with_reducible refine OutFramed.next ?_
    | with_reducible refine State.count_framed (Framed.sub h) ?_
    | with_reducible refine State.checkParity_framed (Framed.sub h) ?_
    | with_reducible refine State.spoilParity_framed (Framed.sub h) ?_
    | (fail_if_no_progress extract_lets +onlyGivenNames x
       refine cutL (p := Framed ps z x) ?_ ?_; subst x; rotate_left; intro hs; try clear_value x; rotate_right)
    | (fail_if_no_progress extract_lets +onlyGivenNames x
       first
       | (have hd : List _ := x; clear hd; clear_value x)
       | (have hd : Bool := x; clear hd; clear_value x)
       | (have hd : Nat := x; clear hd; clear_value x)
       | subst x)
    | fail_if_no_progress beta_reduce
    | with_reducible refine Framed.foldl ?_ (fun _ hs _ => ?_))

end Sys2Proof.Machine
end

