-- ==== Sys2Proof/Laws/Memory.lean ====
section
/-! SUPPORT. The sparse memories: every operation keeps the canonical form, and a read after a write. -/

set_option Elab.async false

namespace Sys2Proof.Machine
open Sys2Proof

theorem mem_cellsAt {c : Host.Cell} {bs : List Byte} {base : Nat} (h : c ∈ cellsAt base bs) :
    base ≤ c.1 ∧ c.1 < base + bs.length ∧ c.2 ≠ 0 := by
  induction bs generalizing base with
  | nil => simp [cellsAt] at h
  | cons b bs ih =>
    unfold cellsAt at h
    split at h
    · obtain ⟨h1, h2, h3⟩ := ih h
      refine ⟨by omega, ?_, h3⟩
      simp only [List.length_cons]
      omega
    · rename_i hb
      rcases List.mem_cons.mp h with rfl | h
      · exact ⟨Nat.le_refl _, by simp, hb⟩
      · obtain ⟨h1, h2, h3⟩ := ih h
        refine ⟨by omega, ?_, h3⟩
        simp only [List.length_cons]
        omega

theorem cellsAt_rising (base : Nat) (bs : List Byte) : rising (cellsAt base bs) := by
  induction bs generalizing base with
  | nil => exact List.Pairwise.nil
  | cons b bs ih =>
    unfold cellsAt
    split
    · exact ih _
    · exact List.Pairwise.cons (fun c h => by have := (mem_cellsAt h).1; simp only; omega) (ih _)

/-- A list cut below and above, with rising keys between, is rising. -/
theorem rising_splice {a b c : List Host.Cell} {lo hi : Nat} (ha : rising a) (hb : rising b) (hc : rising c)
    (hla : ∀ x ∈ a, x.1 < lo) (hlb : ∀ x ∈ b, lo ≤ x.1 ∧ x.1 < hi) (hlc : ∀ x ∈ c, hi ≤ x.1) (hlo : lo ≤ hi) :
    rising (a ++ b ++ c) := by
  refine List.pairwise_append.mpr ⟨List.pairwise_append.mpr ⟨ha, hb, ?_⟩, hc, ?_⟩
  · intro x hx y hy
    have := hla x hx
    have := hlb y hy
    omega
  · intro x hx y hy
    have := hlc y hy
    rcases List.mem_append.mp hx with hx | hx
    · have := hla x hx
      omega
    · have := hlb x hx
      omega

theorem rising_filter {m : List Host.Cell} {p : Host.Cell → Bool} (h : rising m) : rising (m.filter p) :=
  List.Pairwise.filter p h

/-- A store keeps the canonical form. -/
theorem memWf_write {m : List Host.Cell} {base : Nat} {data : List Byte} (h : memWf m) :
    memWf (memWrite m base data) := by
  constructor
  · exact rising_splice (lo := base) (hi := base + data.length) (rising_filter h.1) (cellsAt_rising _ _)
      (rising_filter h.1)
      (fun x hx => by simpa using (List.mem_filter.mp hx).2)
      (fun x hx => ⟨(mem_cellsAt hx).1, (mem_cellsAt hx).2.1⟩)
      (fun x hx => by simpa using (List.mem_filter.mp hx).2) (by omega)
  · intro c hc
    unfold memWrite at hc
    rcases List.mem_append.mp hc with hc | hc
    · rcases List.mem_append.mp hc with hc | hc
      · exact h.2 c (List.mem_filter.mp hc).1
      · exact (mem_cellsAt hc).2.2
    · exact h.2 c (List.mem_filter.mp hc).1

/-- Cells removed by their address leave the canonical form. -/
theorem memWf_filter {m : List Host.Cell} {p : Host.Cell → Bool} (h : memWf m) : memWf (m.filter p) :=
  ⟨rising_filter h.1, fun c hc => h.2 c (List.mem_filter.mp hc).1⟩

theorem memByte_nil (a : Nat) : memByte [] a = 0 := rfl

theorem memByte_cons (c : Host.Cell) (m : List Host.Cell) (a : Nat) :
    memByte (c :: m) a = if c.1 = a then c.2 else memByte m a := by
  unfold memByte
  rw [List.find?_cons]
  by_cases h : c.1 = a
  · simp [h]
  · have : (c.1 == a) = false := by simpa using h
    simp [this, h]

theorem memByte_absent {m : List Host.Cell} {a : Nat} (h : ∀ c ∈ m, c.1 ≠ a) : memByte m a = 0 := by
  induction m with
  | nil => rfl
  | cons c m ih =>
    rw [memByte_cons, if_neg (h c List.mem_cons_self)]
    exact ih fun d hd => h d (List.mem_cons_of_mem c hd)

theorem memByte_append_right {m : List Host.Cell} (n : List Host.Cell) {a : Nat} (h : ∀ c ∈ m, c.1 ≠ a) :
    memByte (m ++ n) a = memByte n a := by
  induction m with
  | nil => rfl
  | cons c m ih =>
    rw [List.cons_append, memByte_cons, if_neg (h c List.mem_cons_self)]
    exact ih fun d hd => h d (List.mem_cons_of_mem c hd)

theorem memByte_append_left (m : List Host.Cell) {n : List Host.Cell} {a : Nat} (h : ∀ c ∈ n, c.1 ≠ a) :
    memByte (m ++ n) a = memByte m a := by
  induction m with
  | nil => exact memByte_absent h
  | cons c m ih => rw [List.cons_append, memByte_cons, memByte_cons, ih]

theorem memByte_filter (m : List Host.Cell) (p : Nat → Bool) (a : Nat) :
    memByte (m.filter fun c => p c.1) a = if p a then memByte m a else 0 := by
  induction m with
  | nil => simp [memByte_nil]
  | cons c m ih =>
    rw [memByte_cons, List.filter_cons]
    by_cases hc : c.1 = a
    · subst hc
      by_cases hp : p c.1
      · simp [hp, memByte_cons]
      · simp only [hp, Bool.false_eq_true, if_false] at ih ⊢
        rw [ih]
    · by_cases hp : p c.1
      · simp only [hp, if_true]
        rw [memByte_cons, if_neg hc, ih, if_neg hc]
      · simp only [hp, Bool.false_eq_true, if_false]
        rw [ih, if_neg hc]

theorem memByte_cellsAt (base : Nat) (bs : List Byte) (a : Nat) :
    memByte (cellsAt base bs) a = if base ≤ a ∧ a < base + bs.length then bs.getD (a - base) 0 else 0 := by
  induction bs generalizing base with
  | nil => simp [cellsAt, memByte_nil]
  | cons b bs ih =>
    have step : ∀ v : Byte, (if base = a then v else memByte (cellsAt (base + 1) bs) a) =
        if base ≤ a ∧ a < base + (b :: bs).length then (v :: bs).getD (a - base) 0 else 0 := by
      intro v
      by_cases h : base = a
      · subst h
        simp
      · rw [if_neg h, ih]
        by_cases h2 : base + 1 ≤ a ∧ a < base + 1 + bs.length
        · have h3 : base ≤ a ∧ a < base + (b :: bs).length := by simp only [List.length_cons]; omega
          rw [if_pos h2, if_pos h3]
          obtain ⟨k, hk⟩ : ∃ k, a = base + 1 + k := ⟨a - (base + 1), by omega⟩
          subst hk
          have e1 : base + 1 + k - (base + 1) = k := by omega
          have e2 : base + 1 + k - base = k + 1 := by omega
          rw [e1, e2, List.getD_cons_succ]
        · have h3 : ¬(base ≤ a ∧ a < base + (b :: bs).length) := by simp only [List.length_cons]; omega
          rw [if_neg h2, if_neg h3]
    unfold cellsAt
    split
    · rename_i hb
      subst hb
      rw [← step 0]
      by_cases h : base = a
      · rw [if_pos h, ih, if_neg (by omega)]
      · rw [if_neg h]
    · rw [memByte_cons]
      exact step b

/-- A byte after a store: the byte stored where the store reaches, the byte before elsewhere. -/
theorem memByte_write (m : List Host.Cell) (base : Nat) (data : List Byte) (a : Nat) :
    memByte (memWrite m base data) a =
      if base ≤ a ∧ a < base + data.length then data.getD (a - base) 0 else memByte m a := by
  have low : base ≤ a → ∀ c ∈ m.filter (fun c => decide (c.1 < base)), c.1 ≠ a := fun h c hc => by
    have := (List.mem_filter.mp hc).2
    simp only [decide_eq_true_eq] at this
    omega
  have high : a < base + data.length → ∀ c ∈ m.filter (fun c => decide (base + data.length ≤ c.1)), c.1 ≠ a :=
    fun h c hc => by
      have := (List.mem_filter.mp hc).2
      simp only [decide_eq_true_eq] at this
      omega
  have mid : ¬(base ≤ a ∧ a < base + data.length) → ∀ c ∈ cellsAt base data, c.1 ≠ a := fun h c hc => by
    have := mem_cellsAt hc
    omega
  unfold memWrite
  by_cases h1 : a < base
  · rw [if_neg (by omega), memByte_append_left _ (high (by omega)), memByte_append_left _ (mid (by omega)),
      memByte_filter m (fun k => decide (k < base)), if_pos (by simpa using h1)]
  · by_cases h2 : a < base + data.length
    · rw [memByte_append_left _ (high h2), memByte_append_right _ (low (by omega)), memByte_cellsAt]
      rw [if_pos ⟨by omega, h2⟩, if_pos ⟨by omega, h2⟩]
    · rw [if_neg (by omega), List.append_assoc, memByte_append_right _ (low (by omega)),
        memByte_append_right _ (mid (by omega)), memByte_filter m (fun k => decide (base + data.length ≤ k)),
        if_pos (by simpa using h2)]

end Sys2Proof.Machine
end

