-- ==== Sys2Proof/Laws/Kept.lean ====
section
/-! SUPPORT. What every operation keeps: the invariant, the one-way changes of the OTP, the asserted safe state, and the
device states it may lead to. -/

set_option Elab.async false

namespace Sys2Proof.Machine
open Sys2Proof

/-- The device states an operation inside a running device leads to. -/
def devMoves (a b : Dev) : Bool :=
  a == b || b == .faulted || (a == .running && (b == .hold || b == .stopped)) || (a == .hold && b == .stopped)

/-- What an operation keeps from `z` to `s`. -/
structure Kept (z s : State) : Prop where
  inv : Inv z → Inv s
  otp : Inv z → otpGrows z.sec s.sec
  safe : z.dep.safe = true → s.dep.safe = true
  dev : devMoves z.dev s.dev = true

theorem slotGrows.refl (k : KeySlot) : slotGrows k k := ⟨fun h => ⟨h, rfl⟩, id, Nat.le_refl _, fun h => ⟨rfl, .inl h⟩⟩

theorem otpGrows.refl (c : Sec) : otpGrows c c := ⟨fun _ => slotGrows.refl _, Nat.le_refl _, rfl, rfl, rfl, rfl⟩

theorem slotGrows.trans {a b c : KeySlot} (h : slotGrows a b) (k : slotGrows b c) : slotGrows a c :=
  ⟨fun p => ⟨(k.1 (h.1 p).1).1, (k.1 (h.1 p).1).2.trans (h.1 p).2⟩, fun r => k.2.1 (h.2.1 r), Nat.le_trans h.2.2.1 k.2.2.1,
    fun p => by
      obtain ⟨e, q | q⟩ := h.2.2.2 p
      · exact ⟨(k.2.2.2 q).1.trans e, (k.2.2.2 q).2⟩
      · exact ⟨(k.1 q).2.trans e, .inr (k.1 q).1⟩⟩

theorem otpGrows.trans {a b c : Sec} (h : otpGrows a b) (k : otpGrows b c) : otpGrows a c :=
  ⟨fun n => slotGrows.trans (h.1 n) (k.1 n), Nat.le_trans h.2.1 k.2.1, k.2.2.1.trans h.2.2.1, k.2.2.2.1.trans h.2.2.2.1,
    k.2.2.2.2.1.trans h.2.2.2.2.1, k.2.2.2.2.2.trans h.2.2.2.2.2⟩

theorem devMoves_trans {a b c : Dev} (h : devMoves a b = true) (k : devMoves b c = true) : devMoves a c = true := by
  cases a <;> cases b <;> cases c <;> first | rfl | exact absurd h (by decide) | exact absurd k (by decide)

theorem Kept.refl (s : State) : Kept s s := ⟨id, fun _ => otpGrows.refl _, id, by simp [devMoves]⟩

theorem Kept.trans {r s t : State} (h : Kept r s) (k : Kept s t) : Kept r t :=
  ⟨fun i => k.inv (h.inv i), fun i => otpGrows.trans (h.otp i) (k.otp (h.inv i)), fun p => k.safe (h.safe p),
    devMoves_trans h.dev k.dev⟩

/-- What every command but RELEASE keeps from `z` to `t`, where `m` says how it may move the device state beside what every
operation may do. -/
structure Stepped (m : Dev → Dev → Bool) (z t : State) : Prop where
  inv : Inv z → Inv t
  otp : Inv z → otpGrows z.sec t.sec
  safe : z.dep.safe = true → t.dep.safe = true
  dev : (devMoves z.dev t.dev || m z.dev t.dev) = true

theorem Kept.stepped {m : Dev → Dev → Bool} {z t : State} (h : Kept z t) : Stepped m z t :=
  ⟨h.inv, h.otp, h.safe, by rw [h.dev]; rfl⟩

/-- A move of R45 that no operation makes by itself. -/
theorem Kept.moved {m : Dev → Dev → Bool} {z s : State} (hs : Kept z s) {d : Dev} (hd : m z.dev d = true)
    (hh : Dev.held d = true → Dev.held s.dev = true) : Stepped m z { s with dev := d } :=
  ⟨fun i => ⟨(hs.inv i).mem, (hs.inv i).depSlice, (hs.inv i).slices, (hs.inv i).queue, fun h => (hs.inv i).safe (hh h),
    (hs.inv i).otp⟩, hs.otp, hs.safe, by rw [Bool.or_eq_true]; exact .inr hd⟩

/-- An operation after it that leaves the device state alone or ends in FAULTED. -/
theorem Stepped.kept {m : Dev → Dev → Bool} {z s t : State} (h : Stepped m z s) (k : Kept s t)
    (hd : t.dev = s.dev ∨ t.dev = .faulted) : Stepped m z t :=
  ⟨fun i => k.inv (h.inv i), fun i => otpGrows.trans (h.otp i) (k.otp (h.inv i)), fun p => k.safe (h.safe p), by
    obtain e | e := hd
    · rw [e]; exact h.dev
    · rw [e]; cases z.dev <;> rfl⟩

/-- An outcome whose next state keeps what `Stepped` says. -/
def OutStepped (m : Dev → Dev → Bool) (z : State) (o : Out) : Prop := ∀ t, o = .next t → Stepped m z t

theorem OutStepped.next {m : Dev → Dev → Bool} {z t : State} (h : Stepped m z t) : OutStepped m z (.next t) := by
  intro u e
  cases e
  exact h

/-- An outcome whose next state keeps what `Kept` says. -/
def OutKept (z : State) (o : Out) : Prop := ∀ t, o = .next t → Kept z t

theorem OutKept.next {z s : State} (hs : Kept z s) : OutKept z (.next s) := by
  intro t h
  cases h
  exact hs

theorem OutKept.named {z s : State} {b : Bool} (hs : Kept z s) : OutKept z (whenNamed b s) := by
  unfold whenNamed
  split
  · exact OutKept.next hs
  · intro t h
    cases h

theorem OutKept.fault {z : State} {r : Fault} : OutKept z (.fault r) := by
  intro t h
  cases h

/-- The parts the four properties look at. -/
def crit : List Part := [.dev, .mem, .slices, .queue, .safe, .depSlice, .sec]

/-- Two states that agree in those parts. -/
structure Alike (s t : State) : Prop where
  dev : t.dev = s.dev
  mem : t.mem = s.mem
  slices : t.d0.sliceOv = s.d0.sliceOv ∧ t.d1.sliceOv = s.d1.sliceOv
  queue : t.sys.queue = s.sys.queue
  safe : t.dep.safe = s.dep.safe
  depSlice : t.dep.slice = s.dep.slice
  sec : t.sec = s.sec

theorem Alike.kept {s t : State} (h : Alike s t) : Kept s t := by
  refine ⟨fun i => ⟨?_, ?_, ?_, ?_, ?_, ?_⟩, fun _ => ?_, fun p => ?_, ?_⟩
  · rw [h.mem]; exact i.mem
  · rw [h.depSlice]; exact i.depSlice
  · intro d
    cases d
    · have := i.slices .s0
      show rising t.d0.sliceOv
      rw [h.slices.1]; exact this
    · have := i.slices .s1
      show rising t.d1.sliceOv
      rw [h.slices.2]; exact this
  · rw [h.queue]; exact i.queue
  · rw [h.dev, h.safe]; exact i.safe
  · rw [h.sec]; exact i.otp
  · rw [h.sec]; exact otpGrows.refl _
  · rw [h.safe]; exact p
  · rw [h.dev]; simp [devMoves]

theorem Kept.alike {z s t : State} (hs : Kept z s) (h : Alike s t) : Kept z t := hs.trans h.kept

/-- An operation whose frame leaves those parts alone. -/
theorem Kept.framed {ps : List Part} {z s t : State} (hs : Kept z s) (h : Framed ps s t)
    (hd : crit.all (fun p => !ps.contains p) = true := by decide) : Kept z t := by
  have out : ∀ p, p ∈ crit → p ∉ ps := fun p hp hm => by
    have := List.all_eq_true.mp hd p hp
    simp [hm] at this
  exact hs.alike ⟨h _ (out .dev (by decide)), h _ (out .mem (by decide)), h _ (out .slices (by decide)),
    h _ (out .queue (by decide)), h _ (out .safe (by decide)), h _ (out .depSlice (by decide)), h _ (out .sec (by decide))⟩

theorem OutKept.framed {ps : List Part} {z s : State} {o : Out} (hs : Kept z s) (h : OutFramed ps s o)
    (hd : crit.all (fun p => !ps.contains p) = true := by decide) : OutKept z o :=
  fun t e => hs.framed (h t e) hd

/-- An update of fields that none of those parts is in. -/
theorem Kept.upd {z y : State}
    {a1 : Nat} {a2 : Dev} {a3 : Nat} {a4 : Bool} {a5 : Option Nat} {a6 : DWord} {a7 : List (Nat × Word)} {a8 : List (Nat ×
    Word)} {a9 : List ShPend} {a10 : List BadReg} {a11 : List Host.Cell} {a12 : Sys} {a13 : Tick} {a14 : Plan} {a15
    : World} {a16 : DieState} {a17 : DieState} {a18 : Option Image} {a19 : Bool} {a20 : Option Loading} {a21 : List
    Chan} {a22 : HostPort} {a23 : Klink} {a24 : Deputy} {a25 : Tally} {a26 : Sec} {a27 : Bist} {a28 : Power} {a29 :
    List Output}
    (hy : Kept z y) (hp : Alike y (State.mk y.pending a1 a2 a3 a4 a5 a6 a7 a8 a9 a10 a11 a12 a13 a14 a15 a16 a17 a18 a19 a20 a21 a22 a23 a24 a25 a26 a27 a28 a29)) :
    Kept z (State.mk y.pending a1 a2 a3 a4 a5 a6 a7 a8 a9 a10 a11 a12 a13 a14 a15 a16 a17 a18 a19 a20 a21 a22 a23 a24 a25 a26 a27 a28 a29) := hy.alike hp

theorem Kept.ite {z s t : State} {c : Prop} [Decidable c] (hs : Kept z s) (ht : Kept z t) : Kept z (if c then s else t) := by
  split
  · exact hs
  · exact ht

theorem Kept.foldl {α : Type} {z s : State} {f : State → α → State} {l : List α} (hs : Kept z s)
    (hf : ∀ (t : State), Kept z t → ∀ a, Kept z (f t a)) : Kept z (l.foldl f s) := by
  induction l generalizing s with
  | nil => exact hs
  | cons a l ih => exact ih (hf s hs a)

theorem State.when_kept {z s : State} {c : Bool} {f : State → State} (hs : Kept z s)
    (hf : ∀ t, Kept z t → Kept z (f t)) : Kept z (s.when c f) := by
  unfold State.when
  split
  · exact hf s hs
  · exact hs

theorem State.setDie_kept {z s : State} {d : Die} {x : DieState} (hs : Kept z s) (hx : Inv z → rising x.sliceOv) :
    Kept z (s.setDie d x) := by
  refine ⟨fun i => ⟨?_, ?_, ?_, ?_, ?_, ?_⟩, fun i => ?_, fun p => ?_, ?_⟩
  · cases d <;> exact (hs.inv i).mem
  · cases d <;> exact (hs.inv i).depSlice
  · intro e
    have h0 := (hs.inv i).slices .s0
    have h1 := (hs.inv i).slices .s1
    cases d <;> cases e
    · exact hx i
    · exact h1
    · exact h0
    · exact hx i
  · cases d <;> exact (hs.inv i).queue
  · cases d <;> exact (hs.inv i).safe
  · cases d <;> exact (hs.inv i).otp
  · cases d <;> exact hs.otp i
  · cases d <;> exact hs.safe p
  · cases d <;> exact hs.dev

theorem Kept.die {z s : State} (hs : Kept z s) (i : Inv z) (d : Die) : rising (s.die d).sliceOv := (hs.inv i).slices d

theorem memWf_copy {m : List Host.Cell} {src dst n : Nat} (h : memWf m) : memWf (memCopy m src dst n) := by
  constructor
  · refine rising_splice (lo := dst) (hi := dst + n) (rising_filter h.1) ?_ (rising_filter h.1)
      (fun x hx => by simpa using (List.mem_filter.mp hx).2) ?_
      (fun x hx => by simpa using (List.mem_filter.mp hx).2) (by omega)
    · refine List.pairwise_map.mpr ((rising_filter h.1).imp_of_mem fun {a b} ha hb hab => ?_)
      have := (List.mem_filter.mp ha).2
      have := (List.mem_filter.mp hb).2
      simp only [decide_eq_true_eq] at *
      omega
    · intro x hx
      obtain ⟨c, hc, rfl⟩ := List.mem_map.mp hx
      have := (List.mem_filter.mp hc).2
      simp only [decide_eq_true_eq] at *
      omega
  · intro c hc
    unfold memCopy at hc
    rcases List.mem_append.mp hc with hc | hc
    · rcases List.mem_append.mp hc with hc | hc
      · exact h.2 c (List.mem_filter.mp hc).1
      · obtain ⟨c', hc', rfl⟩ := List.mem_map.mp hc
        exact h.2 c' (List.mem_filter.mp hc').1
    · exact h.2 c (List.mem_filter.mp hc).1

/-- Some memory written in canonical form. -/
theorem Kept.mem {z s : State} (hs : Kept z s) {m : List Host.Cell} (hm : Inv z → memWf m) :
    Kept z { s with mem := m } :=
  ⟨fun i => ⟨hm i, (hs.inv i).depSlice, (hs.inv i).slices, (hs.inv i).queue, (hs.inv i).safe, (hs.inv i).otp⟩, hs.otp,
    hs.safe, hs.dev⟩

theorem State.writeSlice_kept {z s : State} {d : Die} {w : Nat} {data : List Byte} (hs : Kept z s) :
    Kept z (s.writeSlice d w data) := by
  refine State.setDie_kept hs fun i => ?_
  have h := hs.die i d
  refine rising_splice (lo := w) (hi := w + data.length) (rising_filter h) (rising_filter ?_) (rising_filter h)
    (fun x hx => by simpa using (List.mem_filter.mp hx).2) ?_
    (fun x hx => by simpa using (List.mem_filter.mp hx).2) (by omega)
  · refine List.Pairwise.map _ (fun a b (hab : a < b) => ?_) List.pairwise_lt_range
    simp only
    omega
  · intro x hx
    obtain ⟨k, hk, rfl⟩ := List.mem_map.mp (List.mem_filter.mp hx).1
    have := List.mem_range.mp hk
    simp only
    omega

theorem State.store_kept {z s : State} {a : Nat} {data : List Byte} (hs : Kept z s) : Kept z (s.store a data) := by
  unfold State.store
  split
  · exact State.writeSlice_kept hs
  · exact hs.mem fun i => memWf_write (hs.inv i).mem

theorem State.broadcastSlice_kept {z s : State} {d : Die} {o : Nat} {cells : List Byte} (hs : Kept z s) :
    Kept z (s.broadcastSlice d o cells) :=
  State.setDie_kept (hs.mem fun i => memWf_write (hs.inv i).mem) fun i => rising_filter (hs.die i d)

/-- The command queue replaced by one no longer than eight. -/
theorem Kept.queue {z s : State} (hs : Kept z s) {y : Sys} (hy : Inv z → y.queue.length ≤ 8) :
    Kept z { s with sys := y } :=
  ⟨fun i => ⟨(hs.inv i).mem, (hs.inv i).depSlice, (hs.inv i).slices, hy i, (hs.inv i).safe, (hs.inv i).otp⟩, hs.otp,
    hs.safe, hs.dev⟩

theorem State.popCmd_kept {z s : State} {code reason : Nat} (hs : Kept z s) : Kept z (s.popCmd code reason) := by
  refine (hs.queue (y := { s.sys with queue := s.sys.queue.tail, waitEdge := false, waitSave := false, waitRec := false })
    fun i => ?_).framed (State.result_framed (List.Subset.refl _) (Framed.refl _))
  have := (hs.inv i).queue
  simp only [List.length_tail]
  omega

theorem State.pushCmd_kept {z s : State} {e : CmdEntry} (hs : Kept z s) : Kept z (s.pushCmd e) := by
  unfold State.pushCmd
  split
  · exact hs.framed (State.result_framed (List.Subset.refl _) (Framed.refl _))
  · refine hs.queue fun i => ?_
    simp only [List.length_append, List.length_cons, List.length_nil]
    omega

/-- A device state that moves as `devMoves` says, into one in which the outputs may be released, or with them asserted. -/
theorem Kept.toDev {z s : State} (hs : Kept z s) {d : Dev} (hd : devMoves z.dev d = true)
    (hh : Dev.held d = true → s.dep.safe = true) : Kept z { s with dev := d } :=
  ⟨fun i => ⟨(hs.inv i).mem, (hs.inv i).depSlice, (hs.inv i).slices, (hs.inv i).queue, hh, (hs.inv i).otp⟩, hs.otp,
    hs.safe, hd⟩

theorem State.settleHead_kept {z s : State} (hs : Kept z s) : Kept z s.settleHead := by
  unfold State.settleHead
  split
  · split
    · split
      · next h =>
        refine State.popCmd_kept (hs.trans (Kept.toDev (Kept.refl s) ?_ ?_))
        · rw [h]; rfl
        · intro p; cases p
      · split <;> exact State.popCmd_kept hs
    · exact State.popCmd_kept hs
    · exact hs.alike ⟨rfl, rfl, ⟨rfl, rfl⟩, rfl, rfl, rfl, rfl⟩
  · exact hs

theorem State.leaveRunning_kept {z s : State} {d : Dev} (hs : Kept z s) (hd : devMoves s.dev d = true)
    (hh : Dev.held d = true → s.dep.safe = true) : Kept z (s.leaveRunning d) := by
  have f := State.dropTickOut_framed (List.Subset.refl _) (Framed.refl s)
  have e : s.dropTickOut.dev = s.dev := f .dev (by decide)
  have e2 : s.dropTickOut.dep.safe = s.dep.safe := f .safe (by decide)
  refine (State.settleHead_kept ((hs.framed f).trans ?_)).framed (State.retrainDown_framed (List.Subset.refl _) (Framed.refl _))
  exact (Kept.toDev (Kept.refl _) (e.symm ▸ hd) fun p => e2.trans (hh p)).alike ⟨rfl, rfl, ⟨rfl, rfl⟩, rfl, rfl, rfl, rfl⟩

theorem State.dev_popCmd {s : State} {c r : Nat} : (s.popCmd c r).dev = s.dev :=
  State.popCmd_framed (ps := [.regs, .queue, .sys, .host, .out]) (by decide) (Framed.refl s) .dev (by decide)

/-- What waits for a boundary changes the device state only from HOLD to STOPPED. -/
theorem State.settleHead_dev {s : State} : s.settleHead.dev = s.dev ∨ (s.dev = .hold ∧ s.settleHead.dev = .stopped) := by
  unfold State.settleHead
  split
  · split
    · split
      · next h => exact .inr ⟨h, State.dev_popCmd⟩
      · split
        · exact .inl State.dev_popCmd
        · exact .inl State.dev_popCmd
    · exact .inl State.dev_popCmd
    · exact .inl rfl
  · exact .inl rfl

/-- The state that leaving a run leads to: the one asked for, or STOPPED. -/
theorem State.leaveRunning_dev {s : State} {d : Dev} :
    (s.leaveRunning d).dev = d ∨ (d = .hold ∧ (s.leaveRunning d).dev = .stopped) := by
  have h : ∀ t : State, t.retrainDown.dev = t.dev := fun t =>
    State.retrainDown_framed (List.Subset.refl _) (Framed.refl t) .dev (by decide)
  unfold State.leaveRunning
  rw [h]
  exact State.settleHead_dev

theorem State.leaveRunning_safe {s : State} {d : Dev} : (s.leaveRunning d).dep.safe = s.dep.safe := by
  have h := State.settleHead_framed (ps := [.dev, .regs, .queue, .sys, .host, .out]) (by decide)
    (Framed.refl { s.dropTickOut with
      dev := d, tick := { s.dropTickOut.tick with live := false, awaitT0 := false, phase := 7, locked := false, good := 0 } })
  refine (State.retrainDown_framed (List.Subset.refl _) (Framed.refl _) .safe (by decide)).trans ?_
  exact (h .safe (by decide)).trans (State.dropTickOut_framed (List.Subset.refl _) (Framed.refl s) .safe (by decide))

/-- The safe-state latch set. -/
theorem Kept.assert {z s : State} (hs : Kept z s) {x : Deputy} (hx : x.safe = true) (hl : x.slice = s.dep.slice) :
    Kept z { s with dep := x } :=
  ⟨fun i => ⟨(hs.inv i).mem, by rw [show ({ s with dep := x } : State).dep.slice = s.dep.slice from hl]; exact (hs.inv i).depSlice,
    (hs.inv i).slices, (hs.inv i).queue, fun _ => hx, (hs.inv i).otp⟩, hs.otp, fun _ => hx, hs.dev⟩

theorem State.lowerCause_kept {z s : State} {cause : Nat} (hs : Kept z s) : Kept z (s.lowerCause cause) :=
  hs.framed (State.lowerCause_framed (List.Subset.refl _) (Framed.refl _))

theorem State.enterSafe_kept {z s : State} {cause : Nat} (hs : Kept z s) : Kept z (s.enterSafe cause) := by
  unfold State.enterSafe
  refine Kept.ite hs (Kept.ite (State.lowerCause_kept hs) ?_)
  · extract_lets x s1 s2 s3 s4
    have h1 : Kept z s1 := hs.assert rfl rfl
    clear_value x
    have f : Framed [.regs, .tick, .plan, .dies, .chans, .dep, .host, .out, .tally, .sys, .world, .kl] s1 s4 := by
      refine State.abandonTick_framed (by decide) ?_
      refine State.log_framed (by decide) ?_
      exact State.event_framed (by decide) (State.setPair_framed (by decide) (Framed.refl _))
    have h4 : Kept z s4 := h1.framed f
    have p4 : s4.dep.safe = true := (f .safe (by decide)).trans rfl
    refine Kept.framed ?_ (State.irq_framed (List.Subset.refl _) (State.irq_framed (List.Subset.refl _) (Framed.refl _)))
    exact State.leaveRunning_kept h4 (by cases s4.dev <;> rfl) fun _ => p4

/-- No reset asserted, every cause leads to FAULTED. -/
theorem State.enterSafe_dev {s : State} {cause : Nat} (hr : s.sys.inReset = false) : (s.enterSafe cause).dev = .faulted := by
  unfold State.enterSafe
  rw [if_neg (by simp [hr])]
  split
  · next h => exact (State.lowerCause_framed (List.Subset.refl _) (Framed.refl s) .dev (by decide)).trans h
  · dsimp only
    refine (State.irq_framed (ps := [.regs, .host, .out]) (by decide)
      (State.irq_framed (by decide) (Framed.refl _)) .dev (by decide)).trans ?_
    refine State.leaveRunning_dev.elim id fun h => ?_
    cases h.1

theorem State.enterSafe_devs {s : State} {cause : Nat} :
    (s.enterSafe cause).dev = s.dev ∨ (s.enterSafe cause).dev = .faulted := by
  cases h : s.sys.inReset
  · exact .inr (State.enterSafe_dev h)
  · left; unfold State.enterSafe; rw [if_pos h]

theorem State.edgeCommands_kept {z s : State} {n : Nat} (hs : Kept z s)
    (hd : s.dev = .running ∨ s.dev = .hold ∨ s.dev = .stopped) : Kept z (s.edgeCommands n) := by
  induction n generalizing s with
  | zero => exact hs
  | succ n ih =>
    rw [State.edgeCommands]
    split
    · have h1 : Kept z { s with dev := Dev.stopped } := hs.trans (Kept.toDev (Kept.refl s)
        (by obtain h | h | h := hd <;> rw [h] <;> rfl) (by intro p; cases p))
      have f := State.dropStaged_framed (List.Subset.refl _) (Framed.refl { s with dev := Dev.stopped })
      have g : ∀ (t : State) c r, (t.popCmd c r).dev = t.dev := fun t c r =>
        State.popCmd_framed (ps := [.regs, .queue, .sys, .host, .out]) (by decide) (Framed.refl t) .dev (by decide)
      refine ih (State.popCmd_kept (h1.framed f)) (.inr (.inr ?_))
      rw [g]
      exact f .dev (by decide)
    · have g : ∀ (t : State) c r, (t.popCmd c r).dev = t.dev := fun t c r =>
        State.popCmd_framed (ps := [.regs, .queue, .sys, .host, .out]) (by decide) (Framed.refl t) .dev (by decide)
      exact ih (State.popCmd_kept hs) (by rw [g]; exact hd)
    · exact hs

theorem State.mirrorTile_kept {z s : State} {bad : Bool} {tx ty : Int} (hs : Kept z s) : Kept z (s.mirrorTile bad tx ty) := by
  have wf : ∀ (l : List Nat) (f : Nat → Nat) (g : Nat → List Byte) (m : List Host.Cell), memWf m →
      memWf (l.foldl (fun m r => memWrite m (f r) (g r)) m) := by
    intro l f g
    induction l with
    | nil => exact fun m h => h
    | cons a l ih => exact fun m h => ih _ (memWf_write h)
  have ev : ∀ (t : State), Alike s t → Kept z (t.event rDeputyEvents 5) := fun t ht =>
    (hs.alike ht).framed (State.event_framed (List.Subset.refl _) (Framed.refl _))
  have cp : ∀ (x : Deputy), x.safe = s.dep.safe → (memWf s.dep.slice → memWf x.slice) →
      Kept z { s with dep := x } := fun x hx hw =>
    ⟨fun i => ⟨(hs.inv i).mem, hw (hs.inv i).depSlice, (hs.inv i).slices, (hs.inv i).queue,
      fun h => hx.trans ((hs.inv i).safe h), (hs.inv i).otp⟩, hs.otp, fun h => hx.trans (hs.safe h), hs.dev⟩
  unfold State.mirrorTile
  generalize s.fetchTile .s0 tx ty = p0
  generalize s.fetchTile .s1 tx ty = p1
  obtain ⟨c0, m0⟩ := p0
  obtain ⟨c1, m1⟩ := p1
  dsimp only
  refine Kept.ite (cp _ rfl id) (Kept.ite (ev _ ⟨rfl, rfl, ⟨rfl, rfl⟩, rfl, rfl, rfl, rfl⟩) (cp _ rfl fun h => wf _ _ _ _ h))

theorem State.haltNow_kept {z s : State} (hs : Kept z s) : Kept z s.haltNow := by
  unfold State.haltNow
  split
  · next hd =>
    have g : ∀ (t : State), Kept z t → t.dev = s.dev → Kept z (t.leaveRunning .stopped) := fun t ht e =>
      State.leaveRunning_kept ht (by obtain h | h := hd <;> rw [e, h] <;> rfl) (by intro p; cases p)
    have f := State.stopWork_framed (List.Subset.refl _) (Framed.refl s)
    have f2 := State.writeInvalid_framed (reason := reasonHaltedRec) (List.Subset.refl _) (Framed.refl s.stopWork)
    have k1 : Kept z (if s.tick.live then
        let s := s.stopWork
        if s.plan.record.isNone || s.rewritable then s.writeInvalid reasonHaltedRec else s
      else s) := Kept.ite (Kept.ite ((hs.framed f).framed f2) (hs.framed f)) hs
    refine g _ k1 ?_
    split
    · dsimp only
      split
      · exact (f2 .dev (by decide)).trans (f .dev (by decide))
      · exact f .dev (by decide)
    · rfl
  · exact hs

theorem State.initSram_kept {z s : State} {d : Die} (hs : Kept z s) : Kept z (s.initSram d) := by
  unfold State.initSram
  refine State.setDie_kept (hs.mem fun i => memWf_filter (hs.inv i).mem) fun _ => List.Pairwise.nil

/-- The OTP programmed further. -/
theorem Kept.sec {z s : State} (hs : Kept z s) {c : Sec} (hp : otpPending s.sec → otpPending c)
    (hg : otpPending s.sec → otpGrows s.sec c) : Kept z { s with sec := c } :=
  ⟨fun i => ⟨(hs.inv i).mem, (hs.inv i).depSlice, (hs.inv i).slices, (hs.inv i).queue, (hs.inv i).safe, hp (hs.inv i).otp⟩,
    fun i => otpGrows.trans (hs.otp i) (hg (hs.inv i).otp), hs.safe, hs.dev⟩

theorem State.pushFlash_kept {z s : State} (hs : Kept z s) : Kept z s.pushFlash := by
  have e : ∀ c, Kept z (s.setBootError c) := fun c =>
    hs.framed (State.setBootError_framed (List.Subset.refl _) (Framed.refl _))
  have g : ∀ x : Sec, x.slots = s.sec.slots ∧ x.vendorMin = s.sec.vendorMin ∧ x.otp = s.sec.otp ∧
      x.variant = s.sec.variant ∧ x.vendorHash = s.sec.vendorHash ∧ x.serial = s.sec.serial ∧
      x.jtagLocked = s.sec.jtagLocked → Kept z { s with sec := x } := fun x hx => by
    obtain ⟨h1, h2, h3, h4, h5, h6, h7⟩ := hx
    exact hs.sec (fun h => by simpa only [otpPending, h1, h2, h3] using h) fun _ =>
      ⟨fun n => h1 ▸ slotGrows.refl _, h2 ▸ Nat.le_refl _, h4, h5, h6, h7⟩
  unfold State.pushFlash
  refine Kept.ite (e 9) (Kept.ite (e 0xA) ?_)
  generalize s.staged = p
  exact Kept.ite (g _ ⟨rfl, rfl, rfl, rfl, rfl, rfl, rfl⟩) (e _)

theorem State.attest_kept {z s : State} (hs : Kept z s) : Kept z s.attest := by
  have e : ∀ c, Kept z (s.setField rSecAttStatus 3 1 c) := fun c =>
    hs.framed (State.setField_framed (List.Subset.refl _) (Framed.refl _))
  unfold State.attest
  refine Kept.ite hs (Kept.ite (e 1) (Kept.ite (e 2) ?_))
  generalize s.reportBody = body
  exact hs.sec id fun _ => otpGrows.refl _

/-- A command that the OTP accepts is pending as the invariant says (R548, R549). -/
theorem State.otpWork_pending {s : State} {v : Word} {w : OtpWork} (h : s.otpWork v = some (.ok w)) :
    otpPending { s.sec with otp := some w } := by
  unfold State.otpWork at h
  dsimp only at h
  split at h
  · split at h
    · cases h
    · next hn =>
      cases h
      simp only [not_or, not_and, Bool.not_eq_true, ne_eq, not_not] at hn
      exact hn
  · split at h
    · cases h
    · split at h
      · cases h
      · cases h
        trivial
  · split at h
    · cases h
    · next hn =>
      cases h
      exact not_le.mp hn
  · split at h
    · cases h
    · next hn =>
      cases h
      exact not_le.mp fun e => hn (.inl e)
  · cases h

theorem State.otpCommand_kept {z s : State} {v : Word} (hs : Kept z s) : Kept z (s.otpCommand v) := by
  unfold State.otpCommand
  repeat' (first
    | with_reducible assumption
    | with_reducible refine Kept.framed ?_ (State.otpResult_framed (List.Subset.refl _) (Framed.refl _))
    | with_reducible refine Kept.framed ?_ (State.freeWord_framed (List.Subset.refl _) (Framed.refl _))
    | exact hs.sec (fun _ => State.otpWork_pending (by assumption)) fun _ => otpGrows.refl _
    | split)

theorem State.write32_kept {z s : State} {o : Nat} {f : State → State} (hs : Kept z s)
    (hf : ∀ t, Kept z t → Kept z (f t)) : Kept z (s.write32 o f) := by
  unfold State.write32
  split
  · exact hs
  · dsimp only
    split
    · exact hf s hs
    · exact hs.framed (State.recordAccess_framed (List.Subset.refl _) (Framed.refl _))

theorem State.reach_kept {z s : State} {o at_ : Nat} {write : Bool} {f : RegDef → State} (hs : Kept z s)
    (hf : ∀ r, Kept z (f r)) : Kept z (s.reach o at_ write f) := by
  unfold State.reach
  dsimp only
  split
  · split
    · exact hf _
    · exact hs
  · exact hs.framed (State.recordAccess_framed (List.Subset.refl _) (Framed.refl _))

end Sys2Proof.Machine
end

