-- ==== Sys2Proof/Laws/KeptOps.lean ====
section
/-! SUPPORT. What each shared operation keeps. -/

set_option Elab.async false
set_option linter.unusedTactic false
set_option linter.unreachableTactic false
set_option linter.unusedVariables false
set_option linter.tactic.unusedName false

namespace Sys2Proof.Machine
open Sys2Proof

theorem State.setReg_kept {z s : State} {o : Nat} {v : Word}
    (hs : Kept z s) : Kept z (State.setReg s o v) :=
  hs.framed (State.setReg_framed (List.Subset.refl _) (Framed.refl _))

theorem State.event_kept {z s : State} {o : Nat} {n : Nat}
    (hs : Kept z s) : Kept z (State.event s o n) :=
  hs.framed (State.event_framed (List.Subset.refl _) (Framed.refl _))

theorem State.count_kept {z s : State} {o : Nat} {n : Nat}
    (hs : Kept z s) : Kept z (State.count s o n) :=
  hs.framed (State.count_framed (List.Subset.refl _) (Framed.refl _))

theorem State.setField_kept {z s : State} {o : Nat} {hi : Nat} {lo : Nat} {v : Nat}
    (hs : Kept z s) : Kept z (State.setField s o hi lo v) :=
  hs.framed (State.setField_framed (List.Subset.refl _) (Framed.refl _))

theorem State.setPair_kept {z s : State} {lo : Nat} {hi : Nat} {v : Nat}
    (hs : Kept z s) : Kept z (State.setPair s lo hi v) :=
  hs.framed (State.setPair_framed (List.Subset.refl _) (Framed.refl _))

theorem State.setBoth_kept {z s : State} {o : Die → Nat} {v : Word}
    (hs : Kept z s) : Kept z (State.setBoth s o v) :=
  hs.framed (State.setBoth_framed (List.Subset.refl _) (Framed.refl _))

theorem State.advance_kept {z s : State} {t : Nat}
    (hs : Kept z s) : Kept z (State.advance s t) :=
  hs.framed (State.advance_framed (List.Subset.refl _) (Framed.refl _))

theorem State.freeWord_kept {z s : State} 
    (hs : Kept z s) : Kept z (State.freeWord s).2 :=
  hs.framed (State.freeWord_framed (List.Subset.refl _) (Framed.refl _))

theorem State.freeWord_kept_eq {z s tt : State} {pr : Word} 
    (he : (State.freeWord s) = (pr, tt)) (hs : Kept z s) : Kept z tt := by
  have := State.freeWord_kept hs
  rw [he] at this; exact this

theorem State.freeBytes_kept {z s : State} {q0 : Nat}
    (hs : Kept z s) : Kept z (State.freeBytes s q0).2 :=
  hs.framed (State.freeBytes_framed (List.Subset.refl _) (Framed.refl _))

theorem State.freeBytes_kept_eq {z s tt : State} {pr : List Byte} {q0 : Nat}
    (he : (State.freeBytes s q0) = (pr, tt)) (hs : Kept z s) : Kept z tt := by
  have := State.freeBytes_kept (q0 := q0) hs
  rw [he] at this; exact this

theorem State.emit_kept {z s : State} {o : Output}
    (hs : Kept z s) : Kept z (State.emit s o) :=
  hs.framed (State.emit_framed (List.Subset.refl _) (Framed.refl _))

theorem State.irq_kept {z s : State} {v : Nat}
    (hs : Kept z s) : Kept z (State.irq s v) :=
  hs.framed (State.irq_framed (List.Subset.refl _) (Framed.refl _))

theorem State.storeWin_kept {z s : State} {d : Die} {o : Nat} {data : List Byte}
    (hs : Kept z s) : Kept z (State.storeWin s d o data) := by
  unfold State.storeWin
  repeat' (first
    | with_reducible assumption
    | with_reducible refine State.store_kept ?_)

theorem State.tallyPush_kept {z s : State} {sev : Nat} {code : Nat} {source : Nat} {data : List Byte}
    (hs : Kept z s) : Kept z (State.tallyPush s sev code source data) :=
  hs.framed (State.tallyPush_framed (List.Subset.refl _) (Framed.refl _))

theorem State.sortTally_kept {z s : State}
    (hs : Kept z s) : Kept z (State.sortTally s) :=
  hs.framed (State.sortTally_framed (List.Subset.refl _) (Framed.refl _))

theorem State.tallyLost_kept {z s : State}
    (hs : Kept z s) : Kept z (State.tallyLost s) :=
  hs.framed (State.tallyLost_framed (List.Subset.refl _) (Framed.refl _))

theorem State.spendToken_kept {z s : State} {sev : Nat}
    (hs : Kept z s) : Kept z (State.spendToken s sev) :=
  hs.framed (State.spendToken_framed (List.Subset.refl _) (Framed.refl _))

theorem State.stage_kept {z s : State} {sev : Nat} {code : Nat} {source : Nat} {data : List Byte}
    (hs : Kept z s) : Kept z (State.stage s sev code source data) :=
  hs.framed (State.stage_framed (List.Subset.refl _) (Framed.refl _))

theorem State.log_kept {z s : State} {sev : Nat} {code : Nat} {source : Nat} {data : List Byte}
    (hs : Kept z s) : Kept z (State.log s sev code source data) :=
  hs.framed (State.log_framed (List.Subset.refl _) (Framed.refl _))

theorem State.result_kept {z s : State} {code : Nat} {reason : Nat}
    (hs : Kept z s) : Kept z (State.result s code reason) :=
  hs.framed (State.result_framed (List.Subset.refl _) (Framed.refl _))

theorem State.dropTickOut_kept {z s : State}
    (hs : Kept z s) : Kept z (State.dropTickOut s) :=
  hs.framed (State.dropTickOut_framed (List.Subset.refl _) (Framed.refl _))

theorem State.sendTrain_kept {z s : State} {p_ : Nat}
    (hs : Kept z s) : Kept z (State.sendTrain s p_) :=
  hs.framed (State.sendTrain_framed (List.Subset.refl _) (Framed.refl _))

theorem State.sendTrains_kept {z s : State} 
    (hs : Kept z s) : Kept z (State.sendTrains s) :=
  hs.framed (State.sendTrains_framed (List.Subset.refl _) (Framed.refl _))

theorem State.retrainDown_kept {z s : State} 
    (hs : Kept z s) : Kept z (State.retrainDown s) :=
  hs.framed (State.retrainDown_framed (List.Subset.refl _) (Framed.refl _))

theorem State.invalid_kept {z s : State} {code : Nat}
    (hs : Kept z s) : Kept z (State.invalid s code) :=
  hs.framed (State.invalid_framed (List.Subset.refl _) (Framed.refl _))

theorem State.mapChan_kept {z s : State} {i_ : Nat} {f : Chan → Chan}
    (hs : Kept z s) : Kept z (State.mapChan s i_ f) :=
  hs.framed (State.mapChan_framed (List.Subset.refl _) (Framed.refl _))

theorem State.formRecord_kept {z s : State} {b : RecordBody}
    (hs : Kept z s) : Kept z (State.formRecord s b) :=
  hs.framed (State.formRecord_framed (List.Subset.refl _) (Framed.refl _))

theorem State.writeInvalid_kept {z s : State} {reason : Nat}
    (hs : Kept z s) : Kept z (State.writeInvalid s reason) :=
  hs.framed (State.writeInvalid_framed (List.Subset.refl _) (Framed.refl _))

theorem State.settleFences_kept {z s : State}
    (hs : Kept z s) : Kept z (State.settleFences s) :=
  hs.framed (State.settleFences_framed (List.Subset.refl _) (Framed.refl _))

theorem State.dropOps_kept {z s : State} {gone : RemoteOp → Bool}
    (hs : Kept z s) : Kept z (State.dropOps s gone) :=
  hs.framed (State.dropOps_framed (List.Subset.refl _) (Framed.refl _))

theorem State.dropTickOps_kept {z s : State}
    (hs : Kept z s) : Kept z (State.dropTickOps s) :=
  hs.framed (State.dropTickOps_framed (List.Subset.refl _) (Framed.refl _))

theorem State.chargeWaits_kept {z s : State} {d : Die}
    (hs : Kept z s) : Kept z (State.chargeWaits s d) :=
  hs.framed (State.chargeWaits_framed (List.Subset.refl _) (Framed.refl _))

theorem State.dropPendingBanks_kept {z s : State}
    (hs : Kept z s) : Kept z (State.dropPendingBanks s) :=
  hs.framed (State.dropPendingBanks_framed (List.Subset.refl _) (Framed.refl _))

theorem State.stopWork_kept {z s : State}
    (hs : Kept z s) : Kept z (State.stopWork s) :=
  hs.framed (State.stopWork_framed (List.Subset.refl _) (Framed.refl _))

theorem State.publish_kept {z s : State} {verdict : Nat} {reason : Nat} {sample : Nat} {record : Option (List Byte)}
    (hs : Kept z s) : Kept z (State.publish s verdict reason sample record) :=
  hs.framed (State.publish_framed (List.Subset.refl _) (Framed.refl _))

theorem State.abandonTick_kept {z s : State}
    (hs : Kept z s) : Kept z (State.abandonTick s) :=
  hs.framed (State.abandonTick_framed (List.Subset.refl _) (Framed.refl _))

theorem State.causeOn_kept {z s : State} {cause : Nat}
    (hs : Kept z s) : Kept z (State.causeOn s cause) :=
  hs.framed (State.causeOn_framed (List.Subset.refl _) (Framed.refl _))

theorem State.monitor_kept {z s : State} {cause : Nat}
    (hs : Kept z s) : Kept z (State.monitor s cause) := by
  unfold State.monitor
  repeat' (first
    | with_reducible assumption
    | with_reducible refine State.when_kept ?_ (fun _ hs => ?_)
    | with_reducible refine State.when_kept ?_ (fun _ hs => ?_)
    | with_reducible refine State.causeOn_kept ?_
    | with_reducible refine State.enterSafe_kept ?_)

theorem State.causeOff_kept {z s : State} {cause : Nat}
    (hs : Kept z s) : Kept z (State.causeOff s cause) :=
  hs.framed (State.causeOff_framed (List.Subset.refl _) (Framed.refl _))

theorem State.mend_kept {z s : State} {gone : BadReg → Bool}
    (hs : Kept z s) : Kept z (State.mend s gone) :=
  hs.framed (State.mend_framed (List.Subset.refl _) (Framed.refl _))

theorem State.rewrite_kept {z s : State} {o : Nat} {v : Word}
    (hs : Kept z s) : Kept z (State.rewrite s o v) :=
  hs.framed (State.rewrite_framed (List.Subset.refl _) (Framed.refl _))

theorem State.spoilParity_kept {z s : State} {found : Bool} {fs : List (Nat × Nat × Bool)}
    (hs : Kept z s) : Kept z (State.spoilParity s found fs) :=
  hs.framed (State.spoilParity_framed (List.Subset.refl _) (Framed.refl _))

theorem State.checkParity_kept {z s : State} {o : Nat} {fs : List (Nat × Nat × Bool)}
    (hs : Kept z s) : Kept z (State.checkParity s o fs) := by
  unfold State.checkParity
  repeat' (first
    | with_reducible assumption
    | with_reducible refine State.spoilParity_kept ?_
    | with_reducible refine State.setReg_kept ?_
    | with_reducible refine State.event_kept ?_
    | with_reducible refine State.irq_kept ?_
    | with_reducible refine State.causeOn_kept ?_
    | with_reducible refine State.enterSafe_kept ?_
    | (fail_if_no_progress extract_lets +onlyGivenNames x
       refine cutL (p := Kept z x) ?_ ?_; subst x; rotate_left; intro hs; try clear_value x; rotate_right)
    | (fail_if_no_progress extract_lets +onlyGivenNames x
       first
       | (have hd : List _ := x; clear hd; clear_value x)
       | (have hd : Bool := x; clear hd; clear_value x)
       | (have hd : Nat := x; clear hd; clear_value x)
       | subst x)
    | fail_if_no_progress beta_reduce
    | split
    | with_reducible refine Kept.ite ?_ ?_
    | with_reducible refine Kept.foldl ?_ (fun _ hs _ => ?_)
    | ((with_reducible refine Kept.upd ?_ ?_); rotate_left; exact ⟨rfl, rfl, ⟨rfl, rfl⟩, rfl, rfl, rfl, rfl⟩))

theorem State.checkUses_kept {z s : State} {os : List Nat}
    (hs : Kept z s) : Kept z (State.checkUses s os) := by
  unfold State.checkUses
  repeat' (first
    | with_reducible assumption
    | with_reducible refine State.checkParity_kept ?_
    | with_reducible refine Kept.foldl ?_ (fun _ hs _ => ?_))

theorem State.judge_kept {z s : State} {verdict : Nat} {reason : Nat} {sample : Nat} {record : Option (List Byte)}
    (hs : Kept z s) : Kept z (State.judge s verdict reason sample record) := by
  unfold State.judge
  repeat' (first
    | with_reducible assumption
    | with_reducible refine State.publish_kept ?_
    | with_reducible refine State.enterSafe_kept ?_
    | (fail_if_no_progress extract_lets +onlyGivenNames x
       refine cutL (p := Kept z x) ?_ ?_; subst x; rotate_left; intro hs; try clear_value x; rotate_right)
    | with_reducible refine Kept.ite ?_ ?_)

theorem State.takeService_kept {z s : State} {d : Die}
    (hs : Kept z s) : Kept z (State.takeService s d) :=
  hs.framed (State.takeService_framed (List.Subset.refl _) (Framed.refl _))

theorem State.enterTask_kept {z s : State} {d : Die} {t_ : Nat}
    (hs : Kept z s) : Kept z (State.enterTask s d t_) :=
  hs.framed (State.enterTask_framed (List.Subset.refl _) (Framed.refl _))

theorem State.addArrival_kept {z s : State} {d : Die} {t_ : Nat}
    (hs : Kept z s) : Kept z (State.addArrival s d t_) :=
  hs.framed (State.addArrival_framed (List.Subset.refl _) (Framed.refl _))

theorem State.arrive_kept {z s : State} {d : Die} {t_ : Nat}
    (hs : Kept z s) : Kept z (State.arrive s d t_) :=
  hs.framed (State.arrive_framed (List.Subset.refl _) (Framed.refl _))

theorem State.enterPhase_kept {z s : State} {d : Die}
    (hs : Kept z s) : Kept z (State.enterPhase s d) :=
  hs.framed (State.enterPhase_framed (List.Subset.refl _) (Framed.refl _))

theorem State.completeTask_kept {z s : State} {d : Die} {r : Running}
    (hs : Kept z s) : Kept z (State.completeTask s d r) :=
  hs.framed (State.completeTask_framed (List.Subset.refl _) (Framed.refl _))

theorem State.failTask_kept {z s : State} {d : Die} {r : Running} {status : Nat}
    (hs : Kept z s) : Kept z (State.failTask s d r status) :=
  hs.framed (State.failTask_framed (List.Subset.refl _) (Framed.refl _))

theorem State.accessEvents_kept {z s : State} {a : Nat} {n : Nat} {status : Nat}
    (hs : Kept z s) : Kept z (State.accessEvents s a n status) :=
  hs.framed (State.accessEvents_framed (List.Subset.refl _) (Framed.refl _))

theorem State.countCe_kept {z s : State} {ar : Area}
    (hs : Kept z s) : Kept z (State.countCe s ar) :=
  hs.framed (State.countCe_framed (List.Subset.refl _) (Framed.refl _))

theorem State.countDramCe_kept {z s : State} {d : Die} {n : Nat}
    (hs : Kept z s) : Kept z (State.countDramCe s d n) :=
  hs.framed (State.countDramCe_framed (List.Subset.refl _) (Framed.refl _))

theorem State.engineFault_kept {z s : State} {d : Die} {p_ : Nat} {mem : Nat} {ofs : Nat}
    (hs : Kept z s) : Kept z (State.engineFault s d p_ mem ofs) :=
  hs.framed (State.engineFault_framed (List.Subset.refl _) (Framed.refl _))

theorem State.stopNets_kept {z s : State} {keep : Option Die}
    (hs : Kept z s) : Kept z (State.stopNets s keep) :=
  hs.framed (State.stopNets_framed (List.Subset.refl _) (Framed.refl _))

theorem State.bufFault_kept {z s : State} {d : Die}
    (hs : Kept z s) : Kept z (State.bufFault s d) :=
  hs.framed (State.bufFault_framed (List.Subset.refl _) (Framed.refl _))

theorem State.heapFault_kept {z s : State} {d : Die} {ofs : Nat}
    (hs : Kept z s) : Kept z (State.heapFault s d ofs) :=
  hs.framed (State.heapFault_framed (List.Subset.refl _) (Framed.refl _))

theorem State.countUe_kept {z s : State} {ar : Area} {a : Nat}
    (hs : Kept z s) : Kept z (State.countUe s ar a) :=
  hs.framed (State.countUe_framed (List.Subset.refl _) (Framed.refl _))

theorem State.sourceUe_kept {z s : State} {a : Nat} {len : Nat}
    (hs : Kept z s) : Kept z (State.sourceUe s a len) :=
  hs.framed (State.sourceUe_framed (List.Subset.refl _) (Framed.refl _))

theorem State.getFaulty_kept {z s : State} {a : Nat} {n : Nat} {fault : Nat}
    (hs : Kept z s) : Kept z (State.getFaulty s a n fault).1 :=
  hs.framed (State.getFaulty_framed (List.Subset.refl _) (Framed.refl _))

theorem State.getFaulty_kept_eq {z s tt : State} {pr : Nat × List Byte} {a : Nat} {n : Nat} {fault : Nat}
    (he : (State.getFaulty s a n fault) = (tt, pr)) (hs : Kept z s) : Kept z tt := by
  have := State.getFaulty_kept (a := a) (n := n) (fault := fault) hs
  rw [he] at this; exact this

theorem State.writeEvents_kept {z s : State} {a : Nat} {n : Nat} {st : Nat}
    (hs : Kept z s) : Kept z (State.writeEvents s a n st) :=
  hs.framed (State.writeEvents_framed (List.Subset.refl _) (Framed.refl _))

theorem State.putHere_kept {z s : State} {a : Nat} {data : List Byte}
    (hs : Kept z s) : Kept z (State.putHere s a data).1 := by
  unfold State.putHere
  repeat' (first
    | with_reducible assumption
    | with_reducible refine State.store_kept ?_
    | with_reducible refine State.writeEvents_kept ?_
    | with_reducible refine State.when_kept ?_ (fun _ hs => ?_))

theorem State.putHere_kept_eq {z s tt : State} {pr : Nat} {a : Nat} {data : List Byte}
    (he : (State.putHere s a data) = (tt, pr)) (hs : Kept z s) : Kept z tt := by
  have := State.putHere_kept (a := a) (data := data) hs
  rw [he] at this; exact this

theorem State.atomicHere_kept {z s : State} {a : Nat} {f : Nat → Option Nat}
    (hs : Kept z s) : Kept z (State.atomicHere s a f).1 := by
  unfold State.atomicHere
  repeat' (first
    | with_reducible assumption
    | with_reducible refine State.store_kept ?_
    | with_reducible refine State.writeEvents_kept ?_
    | (fail_if_no_progress extract_lets +onlyGivenNames x
       refine cutL (p := Kept z x) ?_ ?_; subst x; rotate_left; intro hs; try clear_value x; rotate_right)
    | (fail_if_no_progress extract_lets +onlyGivenNames x
       first
       | (have hd : List _ := x; clear hd; clear_value x)
       | (have hd : Bool := x; clear hd; clear_value x)
       | (have hd : Nat := x; clear hd; clear_value x)
       | subst x)
    | split)

theorem State.atomicHere_kept_eq {z s tt : State} {pr : Nat × List Byte} {a : Nat} {f : Nat → Option Nat}
    (he : (State.atomicHere s a f) = (tt, pr)) (hs : Kept z s) : Kept z tt := by
  have := State.atomicHere_kept (a := a) (f := f) hs
  rw [he] at this; exact this

theorem State.atomicFaulty_kept {z s : State} {a : Nat} {fault : Nat} {f : Nat → Option Nat}
    (hs : Kept z s) : Kept z (State.atomicFaulty s a fault f).1 := by
  unfold State.atomicFaulty
  repeat' (first
    | with_reducible assumption
    | with_reducible refine State.atomicHere_kept ?_
    | with_reducible exact State.atomicHere_kept_eq (by assumption) (by assumption)
    | with_reducible refine State.countCe_kept ?_
    | with_reducible refine State.countUe_kept ?_
    | with_reducible refine State.freeBytes_kept ?_
    | with_reducible exact State.freeBytes_kept_eq (by assumption) (by assumption)
    | with_reducible refine State.store_kept ?_
    | (fail_if_no_progress extract_lets +onlyGivenNames x
       refine cutL (p := Kept z x) ?_ ?_; subst x; rotate_left; intro hs; try clear_value x; rotate_right)
    | (fail_if_no_progress extract_lets +onlyGivenNames x
       first
       | (have hd : List _ := x; clear hd; clear_value x)
       | (have hd : Bool := x; clear hd; clear_value x)
       | (have hd : Nat := x; clear hd; clear_value x)
       | subst x)
    | fail_if_no_progress beta_reduce
    | split
    | with_reducible refine Kept.ite ?_ ?_
    | dsimp only)

theorem State.atomicFaulty_kept_eq {z s tt : State} {pr : Nat × List Byte} {a : Nat} {fault : Nat} {f : Nat → Option Nat}
    (he : (State.atomicFaulty s a fault f) = (tt, pr)) (hs : Kept z s) : Kept z tt := by
  have := State.atomicFaulty_kept (a := a) (fault := fault) (f := f) hs
  rw [he] at this; exact this

theorem State.bumpCounter_kept {z s : State} {ctr : Nat}
    (hs : Kept z s) : Kept z (State.bumpCounter s ctr) := by
  unfold State.bumpCounter
  repeat' (first
    | with_reducible assumption
    | with_reducible refine State.store_kept ?_
    | with_reducible refine State.arrive_kept ?_
    | split)

theorem State.signalHere_kept {z s : State} {a : Nat} {data : List Byte} {ctr : Nat}
    (hs : Kept z s) : Kept z (State.signalHere s a data ctr).1 := by
  unfold State.signalHere
  repeat' (first
    | with_reducible assumption
    | with_reducible refine State.store_kept ?_
    | with_reducible refine State.writeEvents_kept ?_
    | with_reducible refine State.bumpCounter_kept ?_
    | with_reducible refine State.when_kept ?_ (fun _ hs => ?_)
    | with_reducible refine Kept.ite ?_ ?_)

theorem State.signalHere_kept_eq {z s tt : State} {pr : Nat} {a : Nat} {data : List Byte} {ctr : Nat}
    (he : (State.signalHere s a data ctr) = (tt, pr)) (hs : Kept z s) : Kept z tt := by
  have := State.signalHere_kept (a := a) (data := data) (ctr := ctr) hs
  rw [he] at this; exact this

theorem State.engineStore_kept {z s : State} {a : Nat} {data : List Byte}
    (hs : Kept z s) : Kept z (State.engineStore s a data) := by
  unfold State.engineStore
  repeat' (first
    | with_reducible assumption
    | with_reducible refine State.when_kept ?_ (fun _ hs => ?_)
    | with_reducible refine State.when_kept ?_ (fun _ hs => ?_)
    | with_reducible refine State.store_kept ?_)

theorem State.contend_kept {z s : State} {d : Die} {port : Nat} {reqs : List Nat}
    (hs : Kept z s) : Kept z (State.contend s d port reqs) :=
  hs.framed (State.contend_framed (List.Subset.refl _) (Framed.refl _))

theorem State.contendAll_kept {z s : State} {ports : List (Die × Nat × List Nat)}
    (hs : Kept z s) : Kept z (State.contendAll s ports) :=
  hs.framed (State.contendAll_framed (List.Subset.refl _) (Framed.refl _))

theorem State.contendOn_kept {z s : State} {d : Die} {ports : List (Nat × List Nat)}
    (hs : Kept z s) : Kept z (State.contendOn s d ports) :=
  hs.framed (State.contendOn_framed (List.Subset.refl _) (Framed.refl _))

theorem State.noteStall_kept {z s : State} {a : Nat} {n : Nat}
    (hs : Kept z s) : Kept z (State.noteStall s a n) :=
  hs.framed (State.noteStall_framed (List.Subset.refl _) (Framed.refl _))

theorem State.noteStalls_kept {z s : State} {spans : List (Nat × Nat)}
    (hs : Kept z s) : Kept z (State.noteStalls s spans) :=
  hs.framed (State.noteStalls_framed (List.Subset.refl _) (Framed.refl _))

theorem State.afterFront_kept {z s : State} {spans : List (Nat × Nat)} {next : State → State}
    (hs : Kept z s) (hnext : ∀ t, Kept z t → Kept z (next t)) : Kept z (State.afterFront s spans next) := by
  unfold State.afterFront
  repeat' (first
    | with_reducible assumption
    | with_reducible refine State.noteStalls_kept ?_
    | split
    | with_reducible refine Kept.ite ?_ ?_
    | with_reducible refine hnext _  ?_)

theorem State.mapPort_kept {z s : State} {p_ : Nat} {f : Port → Port}
    (hs : Kept z s) : Kept z (State.mapPort s p_ f) :=
  hs.framed (State.mapPort_framed (List.Subset.refl _) (Framed.refl _))

theorem State.freeFlit_kept {z s : State} {f : WaitFlit}
    (hs : Kept z s) : Kept z (State.freeFlit s f) :=
  hs.framed (State.freeFlit_framed (List.Subset.refl _) (Framed.refl _))

theorem State.pumpPort_kept {z s : State} {p_ : Nat}
    (hs : Kept z s) : Kept z (State.pumpPort s p_) :=
  hs.framed (State.pumpPort_framed (List.Subset.refl _) (Framed.refl _))

theorem State.passOn_kept {z s : State} {outs : List (Nat × Nat)} {f : Nat → WaitFlit}
    (hs : Kept z s) : Kept z (State.passOn s outs f) :=
  hs.framed (State.passOn_framed (List.Subset.refl _) (Framed.refl _))

theorem State.sendFrom_kept {z s : State} {src : Nat} {p_ : Nat} {vc : Nat} {packet : List Byte}
    (hs : Kept z s) : Kept z (State.sendFrom s src p_ vc packet) :=
  hs.framed (State.sendFrom_framed (List.Subset.refl _) (Framed.refl _))

theorem State.sendOn_kept {z s : State} {p_ : Nat} {vc : Nat} {packet : List Byte}
    (hs : Kept z s) : Kept z (State.sendOn s p_ vc packet) :=
  hs.framed (State.sendOn_framed (List.Subset.refl _) (Framed.refl _))

theorem State.issueSized_kept {z s : State} {op : Nat} {node : Nat} {addr : Nat} {len : Nat} {data : List Byte} {who : Issuer}
    (hs : Kept z s) : Kept z (State.issueSized s op node addr len data who).1 :=
  hs.framed (State.issueSized_framed (List.Subset.refl _) (Framed.refl _))

theorem State.issueSized_kept_eq {z s tt : State} {pr : Option Nat} {op : Nat} {node : Nat} {addr : Nat} {len : Nat} {data : List Byte} {who : Issuer}
    (he : (State.issueSized s op node addr len data who) = (tt, pr)) (hs : Kept z s) : Kept z tt := by
  have := State.issueSized_kept (op := op) (node := node) (addr := addr) (len := len) (data := data) (who := who) hs
  rw [he] at this; exact this

theorem State.issueRemote_kept {z s : State} {op : Nat} {node : Nat} {addr : Nat} {data : List Byte} {who : Issuer}
    (hs : Kept z s) : Kept z (State.issueRemote s op node addr data who).1 :=
  hs.framed (State.issueRemote_framed (List.Subset.refl _) (Framed.refl _))

theorem State.issueRemote_kept_eq {z s tt : State} {pr : Option Nat} {op : Nat} {node : Nat} {addr : Nat} {data : List Byte} {who : Issuer}
    (he : (State.issueRemote s op node addr data who) = (tt, pr)) (hs : Kept z s) : Kept z tt := by
  have := State.issueRemote_kept (op := op) (node := node) (addr := addr) (data := data) (who := who) hs
  rw [he] at this; exact this

theorem State.respond_kept {z s : State} {node : Nat} {tag : Nat} {status : Nat} {data : List Byte}
    (hs : Kept z s) : Kept z (State.respond s node tag status data) :=
  hs.framed (State.respond_framed (List.Subset.refl _) (Framed.refl _))

theorem State.writeCanary_kept {z s : State} {d : Die} {p_ : Nat}
    (hs : Kept z s) : Kept z (State.writeCanary s d p_) := by
  unfold State.writeCanary
  repeat' (first
    | with_reducible assumption
    | with_reducible refine State.storeWin_kept ?_
    | split)

theorem State.reportRetired_kept {z s : State} {d : Die} {p_ : Nat} {c : CeUnit}
    (hs : Kept z s) : Kept z (State.reportRetired s d p_ c) :=
  hs.framed (State.reportRetired_framed (List.Subset.refl _) (Framed.refl _))

theorem State.changeCes_kept {z s : State} {d : Die} {before : Nat} {gone : List Nat} {due : Bool} {pool : Bool}
    (hs : Kept z s) : Kept z (State.changeCes s d before gone due pool) := by
  unfold State.changeCes
  repeat' (first
    | with_reducible assumption
    | with_reducible refine State.when_kept ?_ (fun _ hs => ?_)
    | with_reducible refine State.setDie_kept ?_ (fun i => ?_)
    | with_reducible exact Kept.die (by assumption) (by assumption) _
    | with_reducible refine Kept.die ?_ (by assumption) _
    | (with_reducible refine show rising _ from ?_; simp; with_reducible refine Kept.die ?_ (by assumption) _)
    | with_reducible refine State.reportRetired_kept ?_
    | with_reducible refine State.when_kept ?_ (fun _ hs => ?_)
    | with_reducible refine State.writeCanary_kept ?_
    | with_reducible refine State.event_kept ?_
    | (fail_if_no_progress extract_lets +onlyGivenNames x
       refine cutL (p := Kept z x) ?_ ?_; subst x; rotate_left; intro hs; try clear_value x; rotate_right)
    | (fail_if_no_progress extract_lets +onlyGivenNames x
       first
       | (have hd : List _ := x; clear hd; clear_value x)
       | (have hd : Bool := x; clear hd; clear_value x)
       | (have hd : Nat := x; clear hd; clear_value x)
       | subst x)
    | fail_if_no_progress beta_reduce
    | split
    | with_reducible refine Kept.ite ?_ ?_
    | with_reducible refine Kept.foldl ?_ (fun _ hs _ => ?_)
    | ((with_reducible refine Kept.upd ?_ ?_); rotate_left; exact ⟨rfl, rfl, ⟨rfl, rfl⟩, rfl, rfl, rfl, rfl⟩)
    | dsimp only)

theorem State.rotationPoint_kept {z s : State} {d : Die} {before : Nat}
    (hs : Kept z s) : Kept z (State.rotationPoint s d before) := by
  unfold State.rotationPoint
  repeat' (first
    | with_reducible assumption
    | with_reducible refine State.changeCes_kept ?_)

theorem State.retireRows_kept {z s : State} {d : Die}
    (hs : Kept z s) : Kept z (State.retireRows s d) :=
  hs.framed (State.retireRows_framed (List.Subset.refl _) (Framed.refl _))

theorem State.boundaryUnits_kept {z s : State} {d : Die}
    (hs : Kept z s) : Kept z (State.boundaryUnits s d) := by
  unfold State.boundaryUnits
  repeat' (first
    | with_reducible assumption
    | with_reducible refine State.setDie_kept ?_ (fun i => ?_)
    | with_reducible exact Kept.die (by assumption) (by assumption) _
    | with_reducible refine Kept.die ?_ (by assumption) _
    | (with_reducible refine show rising _ from ?_; simp; with_reducible refine Kept.die ?_ (by assumption) _)
    | with_reducible refine State.retireRows_kept ?_
    | with_reducible refine State.rotationPoint_kept ?_
    | (fail_if_no_progress extract_lets +onlyGivenNames x
       refine cutL (p := Kept z x) ?_ ?_; subst x; rotate_left; intro hs; try clear_value x; rotate_right)
    | (fail_if_no_progress extract_lets +onlyGivenNames x
       first
       | (have hd : List _ := x; clear hd; clear_value x)
       | (have hd : Bool := x; clear hd; clear_value x)
       | (have hd : Nat := x; clear hd; clear_value x)
       | subst x)
    | fail_if_no_progress beta_reduce
    | split
    | with_reducible refine Kept.ite ?_ ?_
    | ((with_reducible refine Kept.upd ?_ ?_); rotate_left; exact ⟨rfl, rfl, ⟨rfl, rfl⟩, rfl, rfl, rfl, rfl⟩))

theorem State.saveTo_kept {z s : State} {base : Nat} {snapshot : Bool}
    (hs : Kept z s) : Kept z (State.saveTo s base snapshot).1 := by
  unfold State.saveTo
  repeat' (first
    | with_reducible assumption
    | with_reducible refine State.store_kept ?_
    | split)

theorem State.saveTo_kept_eq {z s tt : State} {pr : Nat} {base : Nat} {snapshot : Bool}
    (he : (State.saveTo s base snapshot) = (tt, pr)) (hs : Kept z s) : Kept z tt := by
  have := State.saveTo_kept (base := base) (snapshot := snapshot) hs
  rw [he] at this; exact this

theorem State.writeBank_kept {z s : State} {b : Nat} {data : List Byte}
    (hs : Kept z s) : Kept z (State.writeBank s b data) := by
  unfold State.writeBank
  repeat' (first
    | with_reducible assumption
    | with_reducible refine State.storeWin_kept ?_
    | with_reducible refine Kept.foldl ?_ (fun _ hs _ => ?_))

theorem State.writeCurrent_kept {z s : State} {data : List Byte}
    (hs : Kept z s) : Kept z (State.writeCurrent s data) := by
  unfold State.writeCurrent
  repeat' (first
    | with_reducible assumption
    | with_reducible refine State.storeWin_kept ?_
    | with_reducible refine Kept.foldl ?_ (fun _ hs _ => ?_))

theorem State.restoreLoad_kept {z s : State} {base : Nat}
    (hs : Kept z s) : Kept z (State.restoreLoad s base) := by
  unfold State.restoreLoad
  repeat' (first
    | with_reducible assumption
    | with_reducible refine State.writeCurrent_kept ?_
    | with_reducible refine State.rewrite_kept ?_
    | (fail_if_no_progress extract_lets +onlyGivenNames x
       refine cutL (p := Kept z x) ?_ ?_; subst x; rotate_left; intro hs; try clear_value x; rotate_right)
    | (fail_if_no_progress extract_lets +onlyGivenNames x
       first
       | (have hd : List _ := x; clear hd; clear_value x)
       | (have hd : Bool := x; clear hd; clear_value x)
       | (have hd : Nat := x; clear hd; clear_value x)
       | subst x)
    | fail_if_no_progress beta_reduce
    | split
    | with_reducible refine Kept.ite ?_ ?_
    | ((with_reducible refine Kept.upd ?_ ?_); rotate_left; exact ⟨rfl, rfl, ⟨rfl, rfl⟩, rfl, rfl, rfl, rfl⟩))

theorem State.mapStream_kept {z s : State} {n : Nat} {f : Stream → Stream}
    (hs : Kept z s) : Kept z (State.mapStream s n f) :=
  hs.framed (State.mapStream_framed (List.Subset.refl _) (Framed.refl _))

theorem State.rejectItem_kept {z s : State} {stream : Nat} {code : Nat} {type : Nat}
    (hs : Kept z s) : Kept z (State.rejectItem s stream code type) :=
  hs.framed (State.rejectItem_framed (List.Subset.refl _) (Framed.refl _))

theorem State.judgeItem_kept {z s : State} {stream : Nat} {arrival : Nat} {chain : Nat} {bs : List Byte}
    (hs : Kept z s) : Kept z (State.judgeItem s stream arrival chain bs).1 :=
  hs.framed (State.judgeItem_framed (List.Subset.refl _) (Framed.refl _))

theorem State.judgeItem_kept_eq {z s tt : State} {pr : HeldFor} {stream : Nat} {arrival : Nat} {chain : Nat} {bs : List Byte}
    (he : (State.judgeItem s stream arrival chain bs) = (tt, pr)) (hs : Kept z s) : Kept z tt := by
  have := State.judgeItem_kept (stream := stream) (arrival := arrival) (chain := chain) (bs := bs) hs
  rw [he] at this; exact this

theorem State.takeUp_kept {z s : State} {stream : Nat} {it : Nat × Nat × List Byte}
    (hs : Kept z s) : Kept z (State.takeUp s stream it).1 :=
  hs.framed (State.takeUp_framed (List.Subset.refl _) (Framed.refl _))

theorem State.takeUp_kept_eq {z s tt : State} {pr : HeldFor} {stream : Nat} {it : Nat × Nat × List Byte}
    (he : (State.takeUp s stream it) = (tt, pr)) (hs : Kept z s) : Kept z tt := by
  have := State.takeUp_kept (stream := stream) (it := it) hs
  rw [he] at this; exact this

theorem State.drainItems_kept {z s : State} {arrivalOf : Nat → Nat} {q0 : Nat} {q1 : List Nat}
    (hs : Kept z s) : Kept z (State.drainItems s arrivalOf q0 q1) :=
  hs.framed (State.drainItems_framed (List.Subset.refl _) (Framed.refl _))

theorem State.drainAll_kept {z s : State} {arrivalOf : Nat → Nat}
    (hs : Kept z s) : Kept z (State.drainAll s arrivalOf) :=
  hs.framed (State.drainAll_framed (List.Subset.refl _) (Framed.refl _))

theorem State.drainHeld_kept {z s : State}
    (hs : Kept z s) : Kept z (State.drainHeld s) :=
  hs.framed (State.drainHeld_framed (List.Subset.refl _) (Framed.refl _))

theorem State.drainFreed_kept {z s : State}
    (hs : Kept z s) : Kept z (State.drainFreed s) :=
  hs.framed (State.drainFreed_framed (List.Subset.refl _) (Framed.refl _))

theorem State.ingest_kept {z s : State} {stream : Nat} {arrival : Nat} {bs : List Byte} {types : List Nat}
    (hs : Kept z s) : Kept z (State.ingest s stream arrival bs types) :=
  hs.framed (State.ingest_framed (List.Subset.refl _) (Framed.refl _))

theorem State.storeDies_kept {z s : State} {off : Nat} {data : List Byte}
    (hs : Kept z s) : Kept z (State.storeDies s off data) := by
  unfold State.storeDies
  repeat' (first
    | with_reducible assumption
    | with_reducible refine State.store_kept ?_
    | with_reducible refine State.when_kept ?_ (fun _ hs => ?_)
    | with_reducible refine Kept.foldl ?_ (fun _ hs _ => ?_))

theorem State.writeDir_kept {z s : State} {tx : Int} {ty : Int} {slot : Nat} {valid : Bool}
    (hs : Kept z s) : Kept z (State.writeDir s tx ty slot valid) := by
  unfold State.writeDir
  repeat' (first
    | with_reducible assumption
    | with_reducible refine State.storeDies_kept ?_
    | split)

theorem State.applyItem_kept {z s : State} {it : Staged}
    (hs : Kept z s) : Kept z (State.applyItem s it) := by
  unfold State.applyItem
  repeat' (first
    | with_reducible assumption
    | with_reducible refine State.storeDies_kept ?_
    | with_reducible refine State.writeDir_kept ?_
    | (fail_if_no_progress extract_lets +onlyGivenNames x
       first
       | (have hd : List _ := x; clear hd; clear_value x)
       | (have hd : Bool := x; clear hd; clear_value x)
       | (have hd : Nat := x; clear hd; clear_value x)
       | subst x)
    | split
    | ((with_reducible refine Kept.upd ?_ ?_); rotate_left; exact ⟨rfl, rfl, ⟨rfl, rfl⟩, rfl, rfl, rfl, rfl⟩))

theorem State.loadTile_kept {z s : State} {d : Die} {ue : List (Int × Int × Bool)} {tx : Int} {ty : Int}
    (hs : Kept z s) : Kept z (State.loadTile s d ue tx ty) := by
  unfold State.loadTile
  repeat' (first
    | with_reducible assumption
    | with_reducible refine State.event_kept ?_
    | with_reducible refine State.count_kept ?_
    | with_reducible refine State.broadcastSlice_kept ?_
    | with_reducible refine State.log_kept ?_
    | with_reducible refine State.when_kept ?_ (fun _ hs => ?_)
    | with_reducible refine Kept.foldl ?_ (fun _ hs _ => ?_)
    | with_reducible refine State.setDie_kept ?_ (fun i => ?_)
    | with_reducible exact Kept.die (by assumption) (by assumption) _
    | (fail_if_no_progress extract_lets +onlyGivenNames x
       refine cutL (p := Kept z x) ?_ ?_; subst x; rotate_left; intro hs; try clear_value x; rotate_right)
    | (fail_if_no_progress extract_lets +onlyGivenNames x
       first
       | (have hd : List _ := x; clear hd; clear_value x)
       | (have hd : Bool := x; clear hd; clear_value x)
       | (have hd : Nat := x; clear hd; clear_value x)
       | subst x)
    | with_reducible refine Kept.ite ?_ ?_
    | split)

theorem State.page_kept {z s : State} {d : Die} {items : List Staged} {ue : List (Int × Int × Bool)}
    (hs : Kept z s) : Kept z (State.page s d items ue).1 := by
  unfold State.page
  repeat' (first
    | with_reducible assumption
    | with_reducible refine State.setDie_kept ?_ (fun i => ?_)
    | with_reducible exact Kept.die (by assumption) (by assumption) _
    | with_reducible refine Kept.die ?_ (by assumption) _
    | (with_reducible refine show rising _ from ?_; simp; with_reducible refine Kept.die ?_ (by assumption) _)
    | with_reducible refine State.setReg_kept ?_
    | with_reducible refine State.loadTile_kept ?_
    | (fail_if_no_progress extract_lets +onlyGivenNames x
       refine cutL (p := Kept z x) ?_ ?_; subst x; rotate_left; intro hs; try clear_value x; rotate_right)
    | (fail_if_no_progress extract_lets +onlyGivenNames x
       first
       | (have hd : List _ := x; clear hd; clear_value x)
       | (have hd : Bool := x; clear hd; clear_value x)
       | (have hd : Nat := x; clear hd; clear_value x)
       | subst x)
    | fail_if_no_progress beta_reduce
    | split
    | with_reducible refine Kept.ite ?_ ?_
    | with_reducible refine Kept.foldl ?_ (fun _ hs _ => ?_)
    | ((with_reducible refine Kept.upd ?_ ?_); rotate_left; exact ⟨rfl, rfl, ⟨rfl, rfl⟩, rfl, rfl, rfl, rfl⟩)
    | dsimp only)
theorem State.page_kept_eq {z s tt : State} {pr : List (Int × Int)} {d : Die} {items : List Staged} {ue : List (Int × Int × Bool)}
    (he : (State.page s d items ue) = (tt, pr)) (hs : Kept z s) : Kept z tt := by
  have := State.page_kept (d := d) (items := items) (ue := ue) hs
  rw [he] at this; exact this

theorem State.writeSlices_kept {z s : State} {d : Die}
    (hs : Kept z s) : Kept z (State.writeSlices s d) := by
  unfold State.writeSlices
  repeat' (first
    | with_reducible assumption
    | with_reducible refine State.storeWin_kept ?_
    | with_reducible refine Kept.foldl ?_ (fun _ hs _ => ?_)
    | (fail_if_no_progress extract_lets +onlyGivenNames x
       first
       | (have hd : List _ := x; clear hd; clear_value x)
       | (have hd : Bool := x; clear hd; clear_value x)
       | (have hd : Nat := x; clear hd; clear_value x)
       | subst x)
    | split)

theorem State.beginCommit_kept {z s : State} {met : CommitMet}
    (hs : Kept z s) : Kept z (State.beginCommit s met) := by
  unfold State.beginCommit
  repeat' (first
    | with_reducible assumption
    | with_reducible refine State.when_kept ?_ (fun _ hs => ?_)
    | with_reducible refine State.when_kept ?_ (fun _ hs => ?_)
    | with_reducible refine State.event_kept ?_
    | with_reducible refine State.applyItem_kept ?_
    | (fail_if_no_progress extract_lets +onlyGivenNames x
       refine cutL (p := Kept z x) ?_ ?_; subst x; rotate_left; intro hs; try clear_value x; rotate_right)
    | (fail_if_no_progress extract_lets +onlyGivenNames x
       first
       | (have hd : List _ := x; clear hd; clear_value x)
       | (have hd : Bool := x; clear hd; clear_value x)
       | (have hd : Nat := x; clear hd; clear_value x)
       | subst x)
    | fail_if_no_progress beta_reduce
    | split
    | with_reducible refine Kept.foldl ?_ (fun _ hs _ => ?_)
    | ((with_reducible refine Kept.upd ?_ ?_); rotate_left; exact ⟨rfl, rfl, ⟨rfl, rfl⟩, rfl, rfl, rfl, rfl⟩)
    | dsimp only)

theorem State.commitWork_kept {z s : State} {c : HeldCommit}
    (hs : Kept z s) : Kept z (State.commitWork s c) := by
  unfold State.commitWork
  dsimp only
  have h1 : Kept z (c.items.foldl (fun s it => s.applyItem it) s) :=
    Kept.foldl hs (fun _ hs _ => State.applyItem_kept hs)
  generalize c.items.foldl (fun s it => s.applyItem it) s = s1 at h1 ⊢
  have h2 := State.page_kept (d := .s0) (items := c.items) (ue := c.met.d0.ue)
    (State.countDramCe_kept (d := .s0) (n := c.met.d0.ce) h1)
  generalize (s1.countDramCe .s0 c.met.d0.ce).page .s0 c.items c.met.d0.ue = p at h2 ⊢
  obtain ⟨s2, loads⟩ := p
  dsimp only at h2 ⊢
  have h3 : Kept z (if s2.dies.contains .s1 then ((s2.countDramCe .s1 c.met.d1.ce).page .s1 c.items c.met.d1.ue).1 else s2) :=
    Kept.ite (State.page_kept (State.countDramCe_kept h2)) h2
  generalize (if s2.dies.contains .s1 then ((s2.countDramCe .s1 c.met.d1.ce).page .s1 c.items c.met.d1.ue).1 else s2) = s3 at h3 ⊢
  have h4 : Kept z (loads.foldl (fun s t => s.mirrorTile (c.met.crcBad.contains t) t.1 t.2) s3) :=
    Kept.foldl h3 (fun _ hs _ => State.mirrorTile_kept hs)
  generalize loads.foldl (fun s t => s.mirrorTile (c.met.crcBad.contains t) t.1 t.2) s3 = s4 at h4 ⊢
  have h5 : Kept z (s4.dies.foldl (fun s d => s.writeSlices d) s4) :=
    Kept.foldl h4 (fun _ hs _ => State.writeSlices_kept hs)
  exact h5.alike ⟨rfl, rfl, ⟨rfl, rfl⟩, rfl, rfl, rfl, rfl⟩

theorem State.pumpCommit_kept {z s : State}
    (hs : Kept z s) : Kept z (State.pumpCommit s) := by
  unfold State.pumpCommit
  repeat' (first
    | with_reducible assumption
    | with_reducible refine State.afterFront_kept ?_ (fun _ hs => ?_)
    | with_reducible refine State.commitWork_kept ?_
    | split
    | with_reducible refine Kept.ite ?_ ?_
    | dsimp only)

theorem State.trigger_kept {z s : State} {code : Nat}
    (hs : Kept z s) : Kept z (State.trigger s code) :=
  hs.framed (State.trigger_framed (List.Subset.refl _) (Framed.refl _))

theorem State.takeUrgent_kept {z s : State}
    (hs : Kept z s) : Kept z (State.takeUrgent s) :=
  hs.framed (State.takeUrgent_framed (List.Subset.refl _) (Framed.refl _))

theorem State.startSync_kept {z s : State} 
    (hs : Kept z s) : Kept z (State.startSync s) :=
  hs.framed (State.startSync_framed (List.Subset.refl _) (Framed.refl _))

theorem State.copyStore_kept {z s : State} {below : Nat} (hs : Kept z s) : Kept z (State.copyStore s below) := by
  unfold State.copyStore
  refine hs.mem fun i => ?_
  generalize s.syncSpans below = l
  have : ∀ m, memWf m → memWf (l.foldl (fun m p => memCopy m p.1 (dramBase .s1 + p.1) p.2) m) := by
    induction l with
    | nil => exact fun m h => h
    | cons a l ih => exact fun m h => ih _ (memWf_copy h)
  exact this _ (hs.inv i).mem

theorem State.cutSync_kept {z s : State}
    (hs : Kept z s) : Kept z (State.cutSync s) := by
  unfold State.cutSync
  repeat' (first
    | with_reducible assumption
    | with_reducible refine State.when_kept ?_ (fun _ hs => ?_)
    | with_reducible refine State.when_kept ?_ (fun _ hs => ?_)
    | with_reducible refine State.freeWord_kept ?_
    | with_reducible exact State.freeWord_kept_eq (by assumption) (by assumption)
    | with_reducible refine State.copyStore_kept ?_
    | (fail_if_no_progress extract_lets +onlyGivenNames x
       refine cutL (p := Kept z x) ?_ ?_; subst x; rotate_left; intro hs; try clear_value x; rotate_right)
    | (fail_if_no_progress extract_lets +onlyGivenNames x
       first
       | (have hd : List _ := x; clear hd; clear_value x)
       | (have hd : Bool := x; clear hd; clear_value x)
       | (have hd : Nat := x; clear hd; clear_value x)
       | subst x)
    | fail_if_no_progress beta_reduce
    | split
    | ((with_reducible refine Kept.upd ?_ ?_); rotate_left; exact ⟨rfl, rfl, ⟨rfl, rfl⟩, rfl, rfl, rfl, rfl⟩)
    | dsimp only)

theorem State.savedTo_kept {z s : State} {base : Nat} {len : Nat} {result : Nat}
    (hs : Kept z s) : Kept z (State.savedTo s base len result) :=
  hs.framed (State.savedTo_framed (List.Subset.refl _) (Framed.refl _))

theorem State.endSnapshot_kept {z s : State} {base : Nat} {len : Nat} {result : Nat}
    (hs : Kept z s) : Kept z (State.endSnapshot s base len result) :=
  hs.framed (State.endSnapshot_framed (List.Subset.refl _) (Framed.refl _))

theorem State.storeSnapshot_kept {z s : State} {base : Nat} {bs : List Byte}
    (hs : Kept z s) : Kept z (State.storeSnapshot s base bs) := by
  unfold State.storeSnapshot
  repeat' (first
    | with_reducible assumption
    | with_reducible refine State.store_kept ?_
    | with_reducible refine State.endSnapshot_kept ?_)

theorem State.snapshot_kept {z s : State} {t_ : Nat}
    (hs : Kept z s) : Kept z (State.snapshot s t_) := by
  unfold State.snapshot
  repeat' (first
    | with_reducible assumption
    | with_reducible refine State.endSnapshot_kept ?_
    | with_reducible refine State.noteStall_kept ?_
    | with_reducible refine State.storeSnapshot_kept ?_
    | (fail_if_no_progress extract_lets +onlyGivenNames x
       refine cutL (p := Kept z x) ?_ ?_; subst x; rotate_left; intro hs; try clear_value x; rotate_right)
    | (fail_if_no_progress extract_lets +onlyGivenNames x
       first
       | (have hd : List _ := x; clear hd; clear_value x)
       | (have hd : Bool := x; clear hd; clear_value x)
       | (have hd : Nat := x; clear hd; clear_value x)
       | subst x)
    | fail_if_no_progress beta_reduce
    | split
    | with_reducible refine Kept.ite ?_ ?_
    | ((with_reducible refine Kept.upd ?_ ?_); rotate_left; exact ⟨rfl, rfl, ⟨rfl, rfl⟩, rfl, rfl, rfl, rfl⟩))

theorem State.pumpSnapshot_kept {z s : State}
    (hs : Kept z s) : Kept z (State.pumpSnapshot s) := by
  unfold State.pumpSnapshot
  repeat' (first
    | with_reducible assumption
    | with_reducible refine State.when_kept ?_ (fun _ hs => ?_)
    | with_reducible refine State.when_kept ?_ (fun _ hs => ?_)
    | with_reducible refine State.storeSnapshot_kept ?_
    | split
    | ((with_reducible refine Kept.upd ?_ ?_); rotate_left; exact ⟨rfl, rfl, ⟨rfl, rfl⟩, rfl, rfl, rfl, rfl⟩)
    | dsimp only)

theorem State.takeHistory_kept {z s : State}
    (hs : Kept z s) : Kept z (State.takeHistory s) :=
  hs.framed (State.takeHistory_framed (List.Subset.refl _) (Framed.refl _))

theorem State.dropUrgents_kept {z s : State}
    (hs : Kept z s) : Kept z (State.dropUrgents s) :=
  hs.framed (State.dropUrgents_framed (List.Subset.refl _) (Framed.refl _))

theorem State.endTick_kept {z s : State}
    (hs : Kept z s) : Kept z (State.endTick s) :=
  hs.framed (State.endTick_framed (List.Subset.refl _) (Framed.refl _))

theorem State.clearKeyTable_kept {z s : State} 
    (hs : Kept z s) : Kept z (State.clearKeyTable s) := by
  unfold State.clearKeyTable
  repeat' (first
    | with_reducible assumption
    | with_reducible refine State.store_kept ?_
    | with_reducible refine State.when_kept ?_ (fun _ hs => ?_)
    | split)

theorem State.setCanaries_kept {z s : State} {d : Die}
    (hs : Kept z s) : Kept z (State.setCanaries s d) := by
  unfold State.setCanaries
  repeat' (first
    | with_reducible assumption
    | with_reducible refine State.storeWin_kept ?_
    | with_reducible refine Kept.foldl ?_ (fun _ hs _ => ?_)
    | (fail_if_no_progress extract_lets +onlyGivenNames x
       refine cutL (p := Kept z x) ?_ ?_; subst x; rotate_left; intro hs; try clear_value x; rotate_right)
    | (fail_if_no_progress extract_lets +onlyGivenNames x
       first
       | (have hd : List _ := x; clear hd; clear_value x)
       | (have hd : Bool := x; clear hd; clear_value x)
       | (have hd : Nat := x; clear hd; clear_value x)
       | subst x)
    | with_reducible refine Kept.ite ?_ ?_
    | split)

theorem State.finishPropose_kept {z s : State} 
    (hs : Kept z s) : Kept z (State.finishPropose s) :=
  hs.framed (State.finishPropose_framed (List.Subset.refl _) (Framed.refl _))

theorem State.copyBanks_kept {z s : State} 
    (hs : Kept z s) : Kept z (State.copyBanks s) := by
  unfold State.copyBanks
  repeat' (first
    | with_reducible assumption
    | with_reducible refine State.storeWin_kept ?_
    | with_reducible refine Kept.foldl ?_ (fun _ hs _ => ?_))

theorem State.dropTasks_kept {z s : State} {d : Die} {gone : List Nat}
    (hs : Kept z s) : Kept z (State.dropTasks s d gone) :=
  hs.framed (State.dropTasks_framed (List.Subset.refl _) (Framed.refl _))

theorem State.limitRounds_kept {z s : State} {d : Die}
    (hs : Kept z s) : Kept z (State.limitRounds s d) :=
  hs.framed (State.limitRounds_framed (List.Subset.refl _) (Framed.refl _))

theorem State.padSurvivors_kept {z s : State} {d : Die}
    (hs : Kept z s) : Kept z (State.padSurvivors s d) := by
  unfold State.padSurvivors
  repeat' (first
    | with_reducible assumption
    | with_reducible refine State.when_kept ?_ (fun _ hs => ?_)
    | with_reducible refine State.when_kept ?_ (fun _ hs => ?_)
    | with_reducible refine State.storeWin_kept ?_
    | (fail_if_no_progress extract_lets +onlyGivenNames x
       refine cutL (p := Kept z x) ?_ ?_; subst x; rotate_left; intro hs; try clear_value x; rotate_right)
    | (fail_if_no_progress extract_lets +onlyGivenNames x
       first
       | (have hd : List _ := x; clear hd; clear_value x)
       | (have hd : Bool := x; clear hd; clear_value x)
       | (have hd : Nat := x; clear hd; clear_value x)
       | subst x)
    | fail_if_no_progress beta_reduce)

theorem State.releasePhase_kept {z s : State} {n : Nat}
    (hs : Kept z s) : Kept z (State.releasePhase s n) := by
  unfold State.releasePhase
  repeat' (first
    | with_reducible assumption
    | with_reducible refine State.setDie_kept ?_ (fun i => ?_)
    | with_reducible exact Kept.die (by assumption) (by assumption) _
    | with_reducible refine Kept.die ?_ (by assumption) _
    | (with_reducible refine show rising _ from ?_; simp; with_reducible refine Kept.die ?_ (by assumption) _)
    | with_reducible refine State.setCanaries_kept ?_
    | with_reducible refine State.clearKeyTable_kept ?_
    | with_reducible refine State.copyBanks_kept ?_
    | with_reducible refine State.setReg_kept ?_
    | with_reducible refine State.finishPropose_kept ?_
    | with_reducible refine State.limitRounds_kept ?_
    | with_reducible refine State.padSurvivors_kept ?_
    | with_reducible refine State.takeUrgent_kept ?_
    | with_reducible refine State.trigger_kept ?_
    | with_reducible refine State.enterPhase_kept ?_
    | (fail_if_no_progress extract_lets +onlyGivenNames x
       refine cutL (p := Kept z x) ?_ ?_; subst x; rotate_left; intro hs; try clear_value x; rotate_right)
    | (fail_if_no_progress extract_lets +onlyGivenNames x
       first
       | (have hd : List _ := x; clear hd; clear_value x)
       | (have hd : Bool := x; clear hd; clear_value x)
       | (have hd : Nat := x; clear hd; clear_value x)
       | subst x)
    | fail_if_no_progress beta_reduce
    | split
    | with_reducible refine Kept.ite ?_ ?_
    | with_reducible refine Kept.foldl ?_ (fun _ hs _ => ?_)
    | ((with_reducible refine Kept.upd ?_ ?_); rotate_left; exact ⟨rfl, rfl, ⟨rfl, rfl⟩, rfl, rfl, rfl, rfl⟩))

theorem State.setTickSeed_kept {z s : State} {k : Nat}
    (hs : Kept z s) : Kept z (State.setTickSeed s k) :=
  hs.framed (State.setTickSeed_framed (List.Subset.refl _) (Framed.refl _))

theorem State.retrainXcut_kept {z s : State} 
    (hs : Kept z s) : Kept z (State.retrainXcut s) :=
  hs.framed (State.retrainXcut_framed (List.Subset.refl _) (Framed.refl _))

theorem State.driveTickOut_kept {z s : State} {t_ : Nat}
    (hs : Kept z s) : Kept z (State.driveTickOut s t_) :=
  hs.framed (State.driveTickOut_framed (List.Subset.refl _) (Framed.refl _))

theorem State.releaseTick_kept {z s : State} {t_ : Nat}
    (hs : Kept z s) : Kept z (State.releaseTick s t_) := by
  unfold State.releaseTick
  repeat' (first
    | with_reducible assumption
    | with_reducible refine State.when_kept ?_ (fun _ hs => ?_)
    | with_reducible refine State.snapshot_kept ?_
    | with_reducible refine State.setReg_kept ?_
    | with_reducible refine State.setField_kept ?_
    | with_reducible refine State.setTickSeed_kept ?_
    | with_reducible refine State.retrainXcut_kept ?_
    | with_reducible refine State.retrainDown_kept ?_
    | with_reducible refine State.trigger_kept ?_
    | with_reducible refine State.drainHeld_kept ?_
    | with_reducible refine State.driveTickOut_kept ?_
    | with_reducible refine State.when_kept ?_ (fun _ hs => ?_)
    | with_reducible refine State.releasePhase_kept ?_
    | (fail_if_no_progress extract_lets +onlyGivenNames x
       refine cutL (p := Kept z x) ?_ ?_; subst x; rotate_left; intro hs; try clear_value x; rotate_right)
    | (fail_if_no_progress extract_lets +onlyGivenNames x
       first
       | (have hd : List _ := x; clear hd; clear_value x)
       | (have hd : Bool := x; clear hd; clear_value x)
       | (have hd : Nat := x; clear hd; clear_value x)
       | subst x)
    | fail_if_no_progress beta_reduce
    | split
    | with_reducible refine Kept.ite ?_ ?_
    | with_reducible refine Kept.foldl ?_ (fun _ hs _ => ?_)
    | ((with_reducible refine Kept.upd ?_ ?_); rotate_left; exact ⟨rfl, rfl, ⟨rfl, rfl⟩, rfl, rfl, rfl, rfl⟩)
    | dsimp only)

theorem State.dropStaged_kept {z s : State}
    (hs : Kept z s) : Kept z (State.dropStaged s) :=
  hs.framed (State.dropStaged_framed (List.Subset.refl _) (Framed.refl _))

theorem State.newTickDies_kept {z s : State}
    (hs : Kept z s) : Kept z (State.newTickDies s) :=
  hs.framed (State.newTickDies_framed (List.Subset.refl _) (Framed.refl _))

theorem State.boundary_kept {z s : State} {t : Nat} (hs : Kept z s) (hr : s.dev = .running) : Kept z (s.boundary t) := by
  unfold State.boundary
  extract_lets s1 s2 s3
  have f1 : Framed [.now, .regs, .tick, .plan, .dies, .chans, .host, .dep, .tally, .out, .world, .mem, .slices, .sys, .kl] s s3 :=
    State.setBoth_framed (by decide) (State.boundaryUnits_framed (by decide) (State.boundaryUnits_framed (by decide)
      (State.newTickDies_framed (by decide) (State.endTick_framed (by decide) (State.advance_framed (by decide) (Framed.refl s))))))
  have h2 : Kept z s3 := State.setBoth_kept (State.boundaryUnits_kept (State.boundaryUnits_kept (State.newTickDies_kept
    (State.endTick_kept (State.advance_kept hs)))))
  have d2 : s3.dev = .running := (f1 .dev (by decide)).trans hr
  clear_value s3
  have dl : ∀ d, (s3.leaveRunning d).dev = d ∨ (s3.leaveRunning d).dev = .stopped := fun d => State.leaveRunning_dev.imp id And.right
  split
  · split
    · have hk := State.leaveRunning_kept (d := .stopped) h2 (by rw [d2]; rfl) (by intro p; cases p)
      refine State.retrainXcut_kept (State.edgeCommands_kept (State.dropStaged_kept hk) (.inr (.inr ?_)))
      refine (State.dropStaged_framed (List.Subset.refl _) (Framed.refl (s3.leaveRunning .stopped)) .dev (by decide)).trans ?_
      exact (dl _).elim id id
    · have hk := State.leaveRunning_kept (d := .hold) h2 (by rw [d2]; rfl) (by intro p; cases p)
      exact State.retrainXcut_kept (State.edgeCommands_kept hk (.inr (dl _)))
  · exact State.releaseTick_kept h2

theorem State.countGood_kept {z s : State} 
    (hs : Kept z s) : Kept z (State.countGood s) :=
  hs.framed (State.countGood_framed (List.Subset.refl _) (Framed.refl _))

theorem State.judgeEdge_kept {z s : State} {e : Nat}
    (hs : Kept z s) : Kept z (State.judgeEdge s e) :=
  hs.framed (State.judgeEdge_framed (List.Subset.refl _) (Framed.refl _))

theorem State.loseSource_kept {z s : State} 
    (hs : Kept z s) : Kept z (State.loseSource s) :=
  hs.framed (State.loseSource_framed (List.Subset.refl _) (Framed.refl _))

theorem State.overrun_kept {z s : State} {ph : Nat} {write : Bool}
    (hs : Kept z s) : Kept z (State.overrun s ph write) :=
  hs.framed (State.overrun_framed (List.Subset.refl _) (Framed.refl _))

theorem State.emitEnds_kept {z s : State} 
    (hs : Kept z s) : Kept z (State.emitEnds s) := by
  unfold State.emitEnds
  repeat' (first
    | with_reducible assumption
    | with_reducible refine State.irq_kept ?_
    | with_reducible refine State.judge_kept ?_
    | with_reducible refine State.trigger_kept ?_
    | (fail_if_no_progress extract_lets +onlyGivenNames x
       first
       | (have hd : List _ := x; clear hd; clear_value x)
       | (have hd : Bool := x; clear hd; clear_value x)
       | (have hd : Nat := x; clear hd; clear_value x)
       | subst x)
    | split
    | ((with_reducible refine Kept.upd ?_ ?_); rotate_left; exact ⟨rfl, rfl, ⟨rfl, rfl⟩, rfl, rfl, rfl, rfl⟩))

theorem State.restoreList_kept {z s : State} {n : Nat} {d : Die}
    (hs : Kept z s) : Kept z (State.restoreList s n d) := by
  unfold State.restoreList
  repeat' (first
    | with_reducible assumption
    | with_reducible refine State.when_kept ?_ (fun _ hs => ?_)
    | with_reducible refine State.when_kept ?_ (fun _ hs => ?_)
    | with_reducible refine State.storeWin_kept ?_)

theorem State.abandonRounds_kept {z s : State} {n : Nat} {gone : List Nat} {d : Die}
    (hs : Kept z s) : Kept z (State.abandonRounds s n gone d) := by
  unfold State.abandonRounds
  repeat' (first
    | with_reducible assumption
    | with_reducible refine State.setDie_kept ?_ (fun i => ?_)
    | with_reducible exact Kept.die (by assumption) (by assumption) _
    | with_reducible refine Kept.die ?_ (by assumption) _
    | (with_reducible refine show rising _ from ?_; simp; with_reducible refine Kept.die ?_ (by assumption) _)
    | with_reducible refine State.restoreList_kept ?_
    | with_reducible refine State.dropTasks_kept ?_
    | (fail_if_no_progress extract_lets +onlyGivenNames x
       refine cutL (p := Kept z x) ?_ ?_; subst x; rotate_left; intro hs; try clear_value x; rotate_right)
    | (fail_if_no_progress extract_lets +onlyGivenNames x
       first
       | (have hd : List _ := x; clear hd; clear_value x)
       | (have hd : Bool := x; clear hd; clear_value x)
       | (have hd : Nat := x; clear hd; clear_value x)
       | subst x)
    | fail_if_no_progress beta_reduce
    | ((with_reducible refine Kept.upd ?_ ?_); rotate_left; exact ⟨rfl, rfl, ⟨rfl, rfl⟩, rfl, rfl, rfl, rfl⟩))

theorem State.writeCanaries_kept {z s : State} 
    (hs : Kept z s) : Kept z (State.writeCanaries s) := by
  unfold State.writeCanaries
  repeat' (first
    | with_reducible assumption
    | with_reducible refine State.writeCanary_kept ?_
    | with_reducible refine Kept.foldl ?_ (fun _ hs _ => ?_)
    | with_reducible refine Kept.ite ?_ ?_)

theorem State.inject_kept {z s : State} {missed : Nat}
    (hs : Kept z s) : Kept z (State.inject s missed) := by
  unfold State.inject
  repeat' (first
    | with_reducible assumption
    | with_reducible refine State.setReg_kept ?_
    | with_reducible refine State.event_kept ?_
    | with_reducible refine State.log_kept ?_
    | with_reducible refine State.enterSafe_kept ?_
    | (fail_if_no_progress extract_lets +onlyGivenNames x
       refine cutL (p := Kept z x) ?_ ?_; subst x; rotate_left; intro hs; try clear_value x; rotate_right)
    | (fail_if_no_progress extract_lets +onlyGivenNames x
       first
       | (have hd : List _ := x; clear hd; clear_value x)
       | (have hd : Bool := x; clear hd; clear_value x)
       | (have hd : Nat := x; clear hd; clear_value x)
       | subst x)
    | with_reducible refine Kept.ite ?_ ?_
    | ((with_reducible refine Kept.upd ?_ ?_); rotate_left; exact ⟨rfl, rfl, ⟨rfl, rfl⟩, rfl, rfl, rfl, rfl⟩))

theorem State.clearCounters_kept {z s : State}
    (hs : Kept z s) : Kept z (State.clearCounters s) :=
  hs.framed (State.clearCounters_framed (List.Subset.refl _) (Framed.refl _))

theorem State.loadTime_kept {z s : State}
    (hs : Kept z s) : Kept z (State.loadTime s) :=
  hs.framed (State.loadTime_framed (List.Subset.refl _) (Framed.refl _))

theorem State.emptySession_kept {z s : State} {next : Nat} {epoch : Nat}
    (hs : Kept z s) : Kept z (State.emptySession s next epoch) :=
  hs.framed (State.emptySession_framed (List.Subset.refl _) (Framed.refl _))

theorem State.waitBoundary_kept {z s : State} 
    (hs : Kept z s) : Kept z (State.waitBoundary s) :=
  hs.framed (State.waitBoundary_framed (List.Subset.refl _) (Framed.refl _))

theorem State.sampleBase_kept {z s : State} {restore : Bool} {result : Nat}
    (hs : Kept z s) : Kept z (State.sampleBase s restore result) :=
  hs.framed (State.sampleBase_framed (List.Subset.refl _) (Framed.refl _))

theorem State.takeSh_kept {z s : State} {p_ : ShPend}
    (hs : Kept z s) : Kept z (State.takeSh s p_) :=
  hs.framed (State.takeSh_framed (List.Subset.refl _) (Framed.refl _))

theorem State.checkCoord_kept {z s : State}
    (hs : Kept z s) : Kept z (State.checkCoord s) :=
  hs.framed (State.checkCoord_framed (List.Subset.refl _) (Framed.refl _))

theorem State.changeProfile_kept {z s : State} {old : Nat}
    (hs : Kept z s) : Kept z (State.changeProfile s old) :=
  hs.framed (State.changeProfile_framed (List.Subset.refl _) (Framed.refl _))

theorem State.dropPending_kept {z s : State} 
    (hs : Kept z s) : Kept z (State.dropPending s) :=
  hs.framed (State.dropPending_framed (List.Subset.refl _) (Framed.refl _))

theorem State.moveRail_kept {z s : State} {d : Die}
    (hs : Kept z s) : Kept z (State.moveRail s d) :=
  hs.framed (State.moveRail_framed (List.Subset.refl _) (Framed.refl _))

theorem State.lockDie_kept {z s : State} {d : Die}
    (hs : Kept z s) : Kept z (State.lockDie s d) :=
  hs.framed (State.lockDie_framed (List.Subset.refl _) (Framed.refl _))

theorem State.unlockDie_kept {z s : State} {d : Die}
    (hs : Kept z s) : Kept z (State.unlockDie s d) :=
  hs.framed (State.unlockDie_framed (List.Subset.refl _) (Framed.refl _))

theorem State.selfRefresh_kept {z s : State} {d : Die} {on : Bool}
    (hs : Kept z s) : Kept z (State.selfRefresh s d on) :=
  hs.framed (State.selfRefresh_framed (List.Subset.refl _) (Framed.refl _))

theorem State.changeEnds_kept {z s : State} 
    (hs : Kept z s) : Kept z (State.changeEnds s) :=
  hs.framed (State.changeEnds_framed (List.Subset.refl _) (Framed.refl _))

theorem State.gatedDie_kept {z s : State} {d : Die}
    (hs : Kept z s) : Kept z (State.gatedDie s d) :=
  hs.framed (State.gatedDie_framed (List.Subset.refl _) (Framed.refl _))

theorem State.sendMarks_kept {z s : State} {k : Nat} {b : Nat} {t : Nat}
    (hs : Kept z s) : Kept z (State.sendMarks s k b t) :=
  hs.framed (State.sendMarks_framed (List.Subset.refl _) (Framed.refl _))

theorem State.takeMark_kept {z s : State} {b : Nat} {arrival : Nat}
    (hs : Kept z s) : Kept z (State.takeMark s b arrival) :=
  hs.framed (State.takeMark_framed (List.Subset.refl _) (Framed.refl _))

theorem State.recordAccess_kept {z s : State} {code : Nat} {write : Bool} {size : Nat} {be : Nat} {ofs : Nat}
    (hs : Kept z s) : Kept z (State.recordAccess s code write size be ofs) :=
  hs.framed (State.recordAccess_framed (List.Subset.refl _) (Framed.refl _))

theorem State.setChain_kept {z s : State} {ch : Nat} {h_ : Chain}
    (hs : Kept z s) : Kept z (State.setChain s ch h_) :=
  hs.framed (State.setChain_framed (List.Subset.refl _) (Framed.refl _))

theorem State.putRecord_kept {z s : State} {ch : Nat} {status : Nat} {tag : Nat} {bytes : Nat} {index : Nat} {flags : Nat}
    (hs : Kept z s) : Kept z (State.putRecord s ch status tag bytes index flags) :=
  hs.framed (State.putRecord_framed (List.Subset.refl _) (Framed.refl _))

theorem State.reachPause_kept {z s : State} {ch : Nat} {tag : Nat} {index : Nat}
    (hs : Kept z s) : Kept z (State.reachPause s ch tag index) :=
  hs.framed (State.reachPause_framed (List.Subset.refl _) (Framed.refl _))

theorem State.dropChain_kept {z s : State} {ch : Nat} {h_ : Chain} {status : Nat}
    (hs : Kept z s) : Kept z (State.dropChain s ch h_ status) :=
  hs.framed (State.dropChain_framed (List.Subset.refl _) (Framed.refl _))

theorem State.afterRecords_kept {z s : State} {ch : Nat} {h_ : Chain} {last : Nat × Nat}
    (hs : Kept z s) : Kept z (State.afterRecords s ch h_ last) :=
  hs.framed (State.afterRecords_framed (List.Subset.refl _) (Framed.refl _))

theorem State.endChain_kept {z s : State} {ch : Nat} {h_ : Chain} {status : Nat}
    (hs : Kept z s) : Kept z (State.endChain s ch h_ status) :=
  hs.framed (State.endChain_framed (List.Subset.refl _) (Framed.refl _))

theorem State.finishDesc_kept {z s : State} {ch : Nat} {h_ : Chain}
    (hs : Kept z s) : Kept z (State.finishDesc s ch h_) :=
  hs.framed (State.finishDesc_framed (List.Subset.refl _) (Framed.refl _))

theorem State.sendHost_kept {z s : State} {a : Nat} {bs : List Byte}
    (hs : Kept z s) : Kept z (State.sendHost s a bs) :=
  hs.framed (State.sendHost_framed (List.Subset.refl _) (Framed.refl _))

theorem State.askHost_kept {z s : State} {a : Nat} {n : Nat}
    (hs : Kept z s) : Kept z (State.askHost s a n) :=
  hs.framed (State.askHost_framed (List.Subset.refl _) (Framed.refl _))

theorem State.writeHost_kept {z s : State} {bs : List Byte}
    {q0 : List (Nat × Nat)} (hs : Kept z s) : Kept z (s.writeHost bs q0) := by
  induction q0 generalizing s bs with
  | nil => exact hs
  | cons e l ih => exact ih (State.sendHost_kept hs)

theorem State.writeDevice_kept {z s : State} {ch : Nat}
    {bs : List Byte} {q0 : List (Nat × Nat × Nat)} {q1 : Nat} (hs : Kept z s) :
    Kept z (s.writeDevice ch bs q0 q1).1 := by
  induction q0 generalizing s q1 with
  | nil => exact hs
  | cons e l ih =>
    obtain ⟨a, n, o⟩ := e
    rw [State.writeDevice]
    dsimp only
    split
    · have hp : Kept z (if s.crossDown (ixFrom ch) (localOf a) n then (s, 6)
          else s.putHere (localOf a) ((bs.drop o).take n)).1 := by
        split
        · exact hs
        · exact State.putHere_kept hs
      generalize (if s.crossDown (ixFrom ch) (localOf a) n then (s, 6)
          else s.putHere (localOf a) ((bs.drop o).take n)) = p at hp ⊢
      obtain ⟨t, st⟩ := p
      dsimp only at hp ⊢
      split
      · exact ih hp
      · exact hp
    · have hp := hs.framed (State.issueRemote_framed (List.Subset.refl _) (op := 1) (node := nodeOf a) (addr := a)
        (data := (bs.drop o).take n) (who := .channel ch o) (Framed.refl s))
      generalize s.issueRemote 1 (nodeOf a) a ((bs.drop o).take n) (.channel ch o) = p at hp ⊢
      obtain ⟨t, st⟩ := p
      cases st
      · exact ih hp
      · exact hp

theorem State.writeDevice_kept_eq {z s tt : State}
    {pr : Nat × Nat} {ch : Nat} {bs : List Byte} {q0 : List (Nat × Nat × Nat)} {q1 : Nat}
    (he : s.writeDevice ch bs q0 q1 = (tt, pr)) (hs : Kept z s) : Kept z tt := by
  have := State.writeDevice_kept (ch := ch) (bs := bs) (q0 := q0) (q1 := q1) hs
  rw [he] at this; exact this

theorem State.readDevice_kept {z s : State} {ch fault : Nat}
    {q0 : List (Nat × Nat × Nat)} {q1 : List (Nat × List Byte)} {q2 : Nat} (hs : Kept z s) :
    Kept z (s.readDevice ch fault q0 q1 q2).1 := by
  induction q0 generalizing s fault q1 q2 with
  | nil => exact hs
  | cons e l ih =>
    obtain ⟨a, n, o⟩ := e
    rw [State.readDevice]
    split
    · have hp : Kept z (if s.crossDown (ixFrom ch) (localOf a) n then (s, 6, [])
          else s.getFaulty (localOf a) n fault).1 := by
        split
        · exact hs
        · exact State.getFaulty_kept hs
      generalize (if s.crossDown (ixFrom ch) (localOf a) n then (s, 6, []) else s.getFaulty (localOf a) n fault) = p at hp ⊢
      obtain ⟨t, st, b⟩ := p
      dsimp only at hp ⊢
      have hw : Kept z (t.when (decide (140 ≤ ch ∧ 4 ≤ fault)) fun s => s.event (rIhaulEvents (ixDie ch)) 1) :=
        State.when_kept hp (fun _ hs => State.event_kept hs)
      split
      · exact ih hw
      · exact hw
    · have hp := State.issueSized_kept (op := 2) (node := nodeOf a) (addr := a)
        (len := n) (data := []) (who := .channel ch o) hs
      generalize s.issueSized 2 (nodeOf a) a n [] (.channel ch o) = p at hp ⊢
      obtain ⟨t, st⟩ := p
      cases st
      · exact ih hp
      · exact hp

theorem State.readDevice_kept_eq {z s tt : State}
    {pr : Nat × List (Nat × List Byte) × Nat} {ch fault : Nat} {q0 : List (Nat × Nat × Nat)} {q1 : List (Nat × List Byte)}
    {q2 : Nat} (he : s.readDevice ch fault q0 q1 q2 = (tt, pr)) (hs : Kept z s) : Kept z tt := by
  have := State.readDevice_kept (ch := ch) (fault := fault) (q0 := q0) (q1 := q1) (q2 := q2) hs
  rw [he] at this; exact this

theorem State.moveOut_kept {z s : State} {ch : Nat} {h_ : Chain} {stream : List Byte}
    (hs : Kept z s) : Kept z (State.moveOut s ch h_ stream) := by
  unfold State.moveOut
  repeat' (first
    | with_reducible assumption
    | with_reducible refine State.writeHost_kept ?_
    | with_reducible refine State.emit_kept ?_
    | with_reducible refine State.setChain_kept ?_
    | with_reducible refine State.writeDevice_kept ?_
    | with_reducible exact State.writeDevice_kept_eq (by assumption) (by assumption)
    | with_reducible refine State.endChain_kept ?_
    | with_reducible refine State.finishDesc_kept ?_
    | (fail_if_no_progress extract_lets +onlyGivenNames x
       refine cutL (p := Kept z x) ?_ ?_; subst x; rotate_left; intro hs; try clear_value x; rotate_right)
    | (fail_if_no_progress extract_lets +onlyGivenNames x
       first
       | (have hd : List _ := x; clear hd; clear_value x)
       | (have hd : Bool := x; clear hd; clear_value x)
       | (have hd : Nat := x; clear hd; clear_value x)
       | subst x)
    | fail_if_no_progress beta_reduce
    | split
    | with_reducible refine Kept.ite ?_ ?_
    | dsimp only)

theorem State.chanResponse_kept {z s : State} {ch : Nat} {ofs : Nat} {status : Nat} {data : List Byte}
    (hs : Kept z s) : Kept z (State.chanResponse s ch ofs status data) := by
  unfold State.chanResponse
  repeat' (first
    | with_reducible assumption
    | with_reducible refine State.setChain_kept ?_
    | with_reducible refine State.endChain_kept ?_
    | with_reducible refine State.moveOut_kept ?_
    | with_reducible refine State.finishDesc_kept ?_
    | (fail_if_no_progress extract_lets +onlyGivenNames x
       refine cutL (p := Kept z x) ?_ ?_; subst x; rotate_left; intro hs; try clear_value x; rotate_right)
    | (fail_if_no_progress extract_lets +onlyGivenNames x
       first
       | (have hd : List _ := x; clear hd; clear_value x)
       | (have hd : Bool := x; clear hd; clear_value x)
       | (have hd : Nat := x; clear hd; clear_value x)
       | subst x)
    | fail_if_no_progress beta_reduce
    | split
    | with_reducible refine Kept.ite ?_ ?_
    | dsimp only)

theorem State.ringDoorbell_kept {z s : State} {ch : Nat} {lo : Word}
    (hs : Kept z s) : Kept z (State.ringDoorbell s ch lo) :=
  hs.framed (State.ringDoorbell_framed (List.Subset.refl _) (Framed.refl _))

theorem State.loseLink_kept {z s : State} {ch : Nat}
    (hs : Kept z s) : Kept z (State.loseLink s ch) :=
  hs.framed (State.loseLink_framed (List.Subset.refl _) (Framed.refl _))

theorem State.winLink_kept {z s : State} {ch : Nat}
    (hs : Kept z s) : Kept z (State.winLink s ch) :=
  hs.framed (State.winLink_framed (List.Subset.refl _) (Framed.refl _))

theorem State.startDesc_kept {z s : State} {ch : Nat} {h_ : Chain}
    (hs : Kept z s) : Kept z (State.startDesc s ch h_) :=
  hs.framed (State.startDesc_framed (List.Subset.refl _) (Framed.refl _))

theorem State.askList_kept {z s : State} {ch : Nat} {h_ : Chain}
    (hs : Kept z s) : Kept z (State.askList s ch h_) :=
  hs.framed (State.askList_framed (List.Subset.refl _) (Framed.refl _))

theorem State.judgeDesc_kept {z s : State} {ch : Nat} {h_ : Chain} {list : Nat}
    (hs : Kept z s) : Kept z (State.judgeDesc s ch h_ list) :=
  hs.framed (State.judgeDesc_framed (List.Subset.refl _) (Framed.refl _))

theorem State.judgeInternal_kept {z s : State} {ch : Nat} {h_ : Chain}
    (hs : Kept z s) : Kept z (State.judgeInternal s ch h_) :=
  hs.framed (State.judgeInternal_framed (List.Subset.refl _) (Framed.refl _))

theorem State.fetchInternal_kept {z s : State} {ch : Nat} {h_ : Chain}
    (hs : Kept z s) : Kept z (State.fetchInternal s ch h_) :=
  hs.framed (State.fetchInternal_framed (List.Subset.refl _) (Framed.refl _))

theorem State.takeData_kept {z s : State} {ch : Nat} {h_ : Chain} {data : List Byte}
    (hs : Kept z s) : Kept z (State.takeData s ch h_ data) :=
  hs.framed (State.takeData_framed (List.Subset.refl _) (Framed.refl _))

theorem State.handRecord_kept {z s : State} {ch : Nat} {f : Feed}
    (hs : Kept z s) : Kept z (State.handRecord s ch f) :=
  hs.framed (State.handRecord_framed (List.Subset.refl _) (Framed.refl _))

theorem State.delivered_kept {z s : State} {ch : Nat} {f : Feed} {slot : Nat} {status : Nat}
    (hs : Kept z s) : Kept z (State.delivered s ch f slot status) :=
  hs.framed (State.delivered_framed (List.Subset.refl _) (Framed.refl _))

theorem State.retryRecords_kept {z s : State} {ch : Nat}
    (hs : Kept z s) : Kept z (State.retryRecords s ch) :=
  hs.framed (State.retryRecords_framed (List.Subset.refl _) (Framed.refl _))

theorem State.reportAer_kept {z s : State} {n : Nat}
    (hs : Kept z s) : Kept z (State.reportAer s n) :=
  hs.framed (State.reportAer_framed (List.Subset.refl _) (Framed.refl _))

theorem State.hostFailed_kept {z s : State} {ch : Nat}
    (hs : Kept z s) : Kept z (State.hostFailed s ch) :=
  hs.framed (State.hostFailed_framed (List.Subset.refl _) (Framed.refl _))

theorem State.pauseChan_kept {z s : State} {ch : Nat}
    (hs : Kept z s) : Kept z (State.pauseChan s ch) :=
  hs.framed (State.pauseChan_framed (List.Subset.refl _) (Framed.refl _))

theorem State.stopChan_kept {z s : State} {ch : Nat}
    (hs : Kept z s) : Kept z (State.stopChan s ch) :=
  hs.framed (State.stopChan_framed (List.Subset.refl _) (Framed.refl _))

theorem State.chanCtrl_kept {z s : State} {ch : Nat} {v : Word}
    (hs : Kept z s) : Kept z (State.chanCtrl s ch v) :=
  hs.framed (State.chanCtrl_framed (List.Subset.refl _) (Framed.refl _))

theorem State.setCring_kept {z s : State} {ch : Nat} {v : Word}
    (hs : Kept z s) : Kept z (State.setCring s ch v) :=
  hs.framed (State.setCring_framed (List.Subset.refl _) (Framed.refl _))

theorem State.endSel_kept {z s : State} {d : Die} {w : SelWork} {r : SelResult}
    (hs : Kept z s) : Kept z (State.endSel s d w r) := by
  unfold State.endSel
  repeat' (first
    | with_reducible assumption
    | with_reducible refine State.setReg_kept ?_
    | with_reducible refine State.count_kept ?_
    | with_reducible refine State.store_kept ?_
    | with_reducible refine State.when_kept ?_ (fun _ hs => ?_)
    | with_reducible refine State.setDie_kept ?_ (fun i => ?_)
    | with_reducible refine Kept.die ?_ (by assumption) _)

theorem State.stopSel_kept {z s : State} {d : Die} {w : SelWork} {status : Nat}
    (hs : Kept z s) : Kept z (State.stopSel s d w status) := by
  unfold State.stopSel
  repeat' (first
    | with_reducible assumption
    | with_reducible refine State.when_kept ?_ (fun _ hs => ?_)
    | with_reducible refine State.freeWord_kept ?_
    | with_reducible exact State.freeWord_kept_eq (by assumption) (by assumption)
    | with_reducible refine State.endSel_kept ?_
    | with_reducible refine State.event_kept ?_
    | with_reducible refine State.setReg_kept ?_
    | with_reducible refine State.log_kept ?_
    | with_reducible refine State.when_kept ?_ (fun _ hs => ?_)
    | with_reducible refine State.invalid_kept ?_
    | (fail_if_no_progress extract_lets +onlyGivenNames x
       refine cutL (p := Kept z x) ?_ ?_; subst x; rotate_left; intro hs; try clear_value x; rotate_right)
    | (fail_if_no_progress extract_lets +onlyGivenNames x
       first
       | (have hd : List _ := x; clear hd; clear_value x)
       | (have hd : Bool := x; clear hd; clear_value x)
       | (have hd : Nat := x; clear hd; clear_value x)
       | subst x)
    | fail_if_no_progress beta_reduce
    | split
    | with_reducible refine Kept.ite ?_ ?_
    | dsimp only)

theorem State.startSel_kept {z s : State} {d : Die} {e : Nat} {x_ : SelDesc} {sw : Bool}
    (hs : Kept z s) : Kept z (State.startSel s d e x_ sw) := by
  unfold State.startSel
  repeat' (first
    | with_reducible assumption
    | with_reducible refine State.setDie_kept ?_ (fun i => ?_)
    | with_reducible exact Kept.die (by assumption) (by assumption) _
    | with_reducible refine Kept.die ?_ (by assumption) _
    | (with_reducible refine show rising _ from ?_; simp; with_reducible refine Kept.die ?_ (by assumption) _)
    | with_reducible refine State.setField_kept ?_
    | with_reducible refine State.stopSel_kept ?_
    | (fail_if_no_progress extract_lets +onlyGivenNames x
       refine cutL (p := Kept z x) ?_ ?_; subst x; rotate_left; intro hs; try clear_value x; rotate_right)
    | (fail_if_no_progress extract_lets +onlyGivenNames x
       first
       | (have hd : List _ := x; clear hd; clear_value x)
       | (have hd : Bool := x; clear hd; clear_value x)
       | (have hd : Nat := x; clear hd; clear_value x)
       | subst x)
    | fail_if_no_progress beta_reduce
    | split
    | with_reducible refine Kept.ite ?_ ?_
    | ((with_reducible refine Kept.upd ?_ ?_); rotate_left; exact ⟨rfl, rfl, ⟨rfl, rfl⟩, rfl, rfl, rfl, rfl⟩))

theorem State.trace_kept {z s : State} {d : Die} {kind : Nat} {es : List Element}
    (hs : Kept z s) : Kept z (State.trace s d kind es) :=
  hs.framed (State.trace_framed (List.Subset.refl _) (Framed.refl _))

theorem State.flagInvalid_kept {z s : State} {d : Die} {es : List Element}
    (hs : Kept z s) : Kept z (State.flagInvalid s d es) :=
  hs.framed (State.flagInvalid_framed (List.Subset.refl _) (Framed.refl _))

theorem State.doMerit_kept {z s : State} {d : Die} {w : SelWork}
    (hs : Kept z s) : Kept z (State.doMerit s d w) := by
  unfold State.doMerit
  repeat' (first
    | with_reducible assumption
    | with_reducible refine State.count_kept ?_
    | with_reducible refine State.store_kept ?_
    | with_reducible refine State.endSel_kept ?_
    | with_reducible refine State.trace_kept ?_
    | (fail_if_no_progress extract_lets +onlyGivenNames x
       refine cutL (p := Kept z x) ?_ ?_; subst x; rotate_left; intro hs; try clear_value x; rotate_right)
    | (fail_if_no_progress extract_lets +onlyGivenNames x
       first
       | (have hd : List _ := x; clear hd; clear_value x)
       | (have hd : Bool := x; clear hd; clear_value x)
       | (have hd : Nat := x; clear hd; clear_value x)
       | subst x)
    | fail_if_no_progress beta_reduce)

theorem State.doCompact_kept {z s : State} {d : Die} {w : SelWork} {lists : List Span}
    (hs : Kept z s) : Kept z (State.doCompact s d w lists) := by
  unfold State.doCompact
  repeat' (first
    | with_reducible assumption
    | with_reducible refine State.store_kept ?_
    | with_reducible refine State.endSel_kept ?_
    | with_reducible refine State.flagInvalid_kept ?_)

theorem State.holdMismatches_kept {z s : State} {t_ : TopK}
    (hs : Kept z s) : Kept z (State.holdMismatches s t_) :=
  hs.framed (State.holdMismatches_framed (List.Subset.refl _) (Framed.refl _))

theorem State.endRound_kept {z s : State} {d : Die} {e : Nat} {before : List Byte}
    (hs : Kept z s) : Kept z (State.endRound s d e before) :=
  hs.framed (State.endRound_framed (List.Subset.refl _) (Framed.refl _))

theorem State.doTopk_kept {z s : State} {d : Die} {w : SelWork} {lists : List Span}
    (hs : Kept z s) : Kept z (State.doTopk s d w lists) := by
  unfold State.doTopk
  repeat' (first
    | with_reducible assumption
    | with_reducible refine State.when_kept ?_ (fun _ hs => ?_)
    | with_reducible refine State.flagInvalid_kept ?_
    | with_reducible refine State.store_kept ?_
    | with_reducible refine State.when_kept ?_ (fun _ hs => ?_)
    | with_reducible refine State.event_kept ?_
    | with_reducible refine State.invalid_kept ?_
    | with_reducible refine State.holdMismatches_kept ?_
    | with_reducible refine State.endSel_kept ?_
    | with_reducible refine State.result_kept ?_
    | with_reducible refine State.endRound_kept ?_
    | (fail_if_no_progress extract_lets +onlyGivenNames x
       refine cutL (p := Kept z x) ?_ ?_; subst x; rotate_left; intro hs; try clear_value x; rotate_right)
    | (fail_if_no_progress extract_lets +onlyGivenNames x
       first
       | (have hd : List _ := x; clear hd; clear_value x)
       | (have hd : Bool := x; clear hd; clear_value x)
       | (have hd : Nat := x; clear hd; clear_value x)
       | subst x)
    | fail_if_no_progress beta_reduce
    | split
    | with_reducible refine Kept.ite ?_ ?_
    | dsimp only)

theorem State.chainStatus_kept {z s : State} {st : Nat}
    (hs : Kept z s) : Kept z (State.chainStatus s st).2 :=
  hs.framed (State.chainStatus_framed (List.Subset.refl _) (Framed.refl _))

theorem State.chainStatus_kept_eq {z s tt : State} {pr : Nat} {st : Nat}
    (he : (State.chainStatus s st) = (pr, tt)) (hs : Kept z s) : Kept z tt := by
  have := State.chainStatus_kept (st := st) hs
  rw [he] at this; exact this

theorem State.chainHere_kept {z s : State} {tab : Nat} {k : Nat} {q0 : Nat} {q1 : Nat} {q2 : Nat}
    (hs : Kept z s) : Kept z (State.chainHere s tab k q0 q1 q2).1 := by
  induction q0 generalizing s q1 q2 with
  | zero =>
    unfold State.chainHere
    repeat' (first
      | with_reducible refine ih ?_
      | with_reducible assumption
      | with_reducible refine State.noteStall_kept ?_
      | with_reducible refine State.atomicHere_kept ?_
      | with_reducible exact State.atomicHere_kept_eq (by assumption) (by assumption)
      | (fail_if_no_progress extract_lets +onlyGivenNames x
         refine cutL (p := Kept z x) ?_ ?_; subst x; rotate_left; intro hs; try clear_value x; rotate_right)
      | (fail_if_no_progress extract_lets +onlyGivenNames x
         first
         | (have hd : List _ := x; clear hd; clear_value x)
         | (have hd : Bool := x; clear hd; clear_value x)
         | (have hd : Nat := x; clear hd; clear_value x)
         | subst x)
      | fail_if_no_progress beta_reduce
      | split
      | with_reducible refine Kept.ite ?_ ?_
      | dsimp only)
  | succ _ ih =>
    unfold State.chainHere
    repeat' (first
      | with_reducible refine ih ?_
      | with_reducible assumption
      | with_reducible refine State.noteStall_kept ?_
      | with_reducible refine State.atomicHere_kept ?_
      | with_reducible exact State.atomicHere_kept_eq (by assumption) (by assumption)
      | (fail_if_no_progress extract_lets +onlyGivenNames x
         refine cutL (p := Kept z x) ?_ ?_; subst x; rotate_left; intro hs; try clear_value x; rotate_right)
      | (fail_if_no_progress extract_lets +onlyGivenNames x
         first
         | (have hd : List _ := x; clear hd; clear_value x)
         | (have hd : Bool := x; clear hd; clear_value x)
         | (have hd : Nat := x; clear hd; clear_value x)
         | subst x)
      | fail_if_no_progress beta_reduce
      | split
      | with_reducible refine Kept.ite ?_ ?_
      | dsimp only)
theorem State.chainHere_kept_eq {z s tt : State} {pr : Nat × Option (Nat × Nat)} {tab : Nat} {k : Nat} {q0 : Nat} {q1 : Nat} {q2 : Nat}
    (he : (State.chainHere s tab k q0 q1 q2) = (tt, pr)) (hs : Kept z s) : Kept z tt := by
  have := State.chainHere_kept (tab := tab) (k := k) (q0 := q0) (q1 := q1) (q2 := q2) hs
  rw [he] at this; exact this

theorem State.mapSel_kept {z s : State} {d : Die} {e : Nat} {f : SelWork → SelWork}
    (hs : Kept z s) : Kept z (State.mapSel s d e f) :=
  hs.framed (State.mapSel_framed (List.Subset.refl _) (Framed.refl _))

theorem State.failSel_kept {z s : State} {d : Die} {e : Nat} {st : Nat}
    (hs : Kept z s) : Kept z (State.failSel s d e st) :=
  hs.framed (State.failSel_framed (List.Subset.refl _) (Framed.refl _))

theorem State.finishKeyins_kept {z s : State} {d : Die} {e : Nat}
    (hs : Kept z s) : Kept z (State.finishKeyins s d e) := by
  unfold State.finishKeyins
  repeat' (first
    | with_reducible assumption
    | with_reducible refine State.freeWord_kept ?_
    | with_reducible exact State.freeWord_kept_eq (by assumption) (by assumption)
    | with_reducible refine State.endSel_kept ?_
    | with_reducible refine State.chainStatus_kept ?_
    | with_reducible exact State.chainStatus_kept_eq (by assumption) (by assumption)
    | with_reducible refine State.stopSel_kept ?_
    | (fail_if_no_progress extract_lets +onlyGivenNames x
       refine cutL (p := Kept z x) ?_ ?_; subst x; rotate_left; intro hs; try clear_value x; rotate_right)
    | (fail_if_no_progress extract_lets +onlyGivenNames x
       first
       | (have hd : List _ := x; clear hd; clear_value x)
       | (have hd : Bool := x; clear hd; clear_value x)
       | (have hd : Nat := x; clear hd; clear_value x)
       | subst x)
    | fail_if_no_progress beta_reduce
    | split
    | with_reducible refine Kept.ite ?_ ?_
    | dsimp only)

theorem State.issueChain_kept {z s : State} {d : Die} {e : Nat} {x_ : Nat} {r : Nat} {tab : Nat} {k : Nat}
    (hs : Kept z s) : Kept z (State.issueChain s d e x_ r tab k) :=
  hs.framed (State.issueChain_framed (List.Subset.refl _) (Framed.refl _))

theorem State.issueChains_kept {z s : State} {d : Die} {e tab k : Nat}
    {q0 : List (Nat × Nat)} (hs : Kept z s) : Kept z (s.issueChains d e tab k q0) := by
  induction q0 generalizing s with
  | nil => exact State.mapSel_kept hs
  | cons c l ih =>
    obtain ⟨r, x⟩ := c
    rw [State.issueChains]
    split
    · have hp : Kept z (if s.crossDown (some d) (localOf tab) 8 then (s, 6, none)
          else s.chainHere (localOf tab) k (k - r) r x).1 := by
        split
        · exact hs
        · exact State.chainHere_kept hs
      generalize (if s.crossDown (some d) (localOf tab) 8 then (s, 6, none)
        else s.chainHere (localOf tab) k (k - r) r x) = p at hp ⊢
      obtain ⟨t, st, rest⟩ := p
      dsimp only at hp ⊢
      split
      · exact State.mapSel_kept hp
      · exact ih (State.when_kept hp (fun _ hs => State.failSel_kept hs))
    · split
      · exact State.mapSel_kept hs
      · exact ih (State.issueChain_kept hs)

theorem State.doKeyins_kept {z s : State} {d : Die} {w : SelWork} {lists : List Span}
    (hs : Kept z s) : Kept z (State.doKeyins s d w lists) := by
  unfold State.doKeyins
  repeat' (first
    | with_reducible assumption
    | with_reducible refine State.flagInvalid_kept ?_
    | with_reducible refine State.mapSel_kept ?_
    | with_reducible refine State.finishKeyins_kept ?_
    | with_reducible refine State.issueChains_kept ?_)

theorem State.pumpKeyins_kept {z s : State} {d : Die} {e : Nat}
    (hs : Kept z s) : Kept z (State.pumpKeyins s d e) := by
  unfold State.pumpKeyins
  repeat' (first
    | with_reducible assumption
    | with_reducible refine State.issueChains_kept ?_
    | with_reducible refine State.finishKeyins_kept ?_
    | split
    | with_reducible refine Kept.ite ?_ ?_
    | dsimp only)

theorem State.chainReturn_kept {z s : State} {d : Die} {e : Nat} {x_ : Nat} {r : Nat} {k : Nat} {status : Nat} {data : List Byte}
    (hs : Kept z s) : Kept z (State.chainReturn s d e x_ r k status data) := by
  unfold State.chainReturn
  repeat' (first
    | with_reducible assumption
    | with_reducible refine State.when_kept ?_ (fun _ hs => ?_)
    | with_reducible refine State.failSel_kept ?_
    | with_reducible refine State.when_kept ?_ (fun _ hs => ?_)
    | with_reducible refine State.mapSel_kept ?_
    | with_reducible refine State.pumpKeyins_kept ?_
    | (fail_if_no_progress extract_lets +onlyGivenNames x
       refine cutL (p := Kept z x) ?_ ?_; subst x; rotate_left; intro hs; try clear_value x; rotate_right)
    | (fail_if_no_progress extract_lets +onlyGivenNames x
       first
       | (have hd : List _ := x; clear hd; clear_value x)
       | (have hd : Bool := x; clear hd; clear_value x)
       | (have hd : Nat := x; clear hd; clear_value x)
       | subst x)
    | fail_if_no_progress beta_reduce
    | split
    | with_reducible refine Kept.ite ?_ ?_)

theorem State.runSel_kept {z s : State} {d : Die} {e : Nat} {op stall : Nat} {met : SelMet} {f : State → SelWork → List Span → State}
    (hs : Kept z s) (hf : ∀ t a1 a2, Kept z t → Kept z (f t a1 a2)) : Kept z (State.runSel s d e op stall met f) := by
  unfold State.runSel
  repeat' (first
    | with_reducible assumption
    | with_reducible refine State.when_kept ?_ (fun _ hs => ?_)
    | with_reducible refine State.contendOn_kept ?_
    | with_reducible refine State.stopSel_kept ?_
    | with_reducible refine State.when_kept ?_ (fun _ hs => ?_)
    | with_reducible refine State.countCe_kept ?_
    | (fail_if_no_progress extract_lets +onlyGivenNames x
       refine cutL (p := Kept z x) ?_ ?_; subst x; rotate_left; intro hs; try clear_value x; rotate_right)
    | (fail_if_no_progress extract_lets +onlyGivenNames x
       first
       | (have hd : List _ := x; clear hd; clear_value x)
       | (have hd : Bool := x; clear hd; clear_value x)
       | (have hd : Nat := x; clear hd; clear_value x)
       | subst x)
    | fail_if_no_progress beta_reduce
    | split
    | with_reducible refine Kept.ite ?_ ?_
    | with_reducible refine hf _ _ _  ?_
    | dsimp only)

theorem State.fetchSel_kept {z s : State} {d : Die} {e : Nat} {a : Nat}
    (hs : Kept z s) : Kept z (State.fetchSel s d e a) := by
  unfold State.fetchSel
  repeat' (first
    | with_reducible assumption
    | with_reducible refine State.startSel_kept ?_
    | with_reducible refine State.stopSel_kept ?_
    | split
    | with_reducible refine Kept.ite ?_ ?_)

theorem State.pumpFetch_kept {z s : State} {d : Die} {e : Nat}
    (hs : Kept z s) : Kept z (State.pumpFetch s d e) := by
  unfold State.pumpFetch
  repeat' (first
    | with_reducible assumption
    | with_reducible refine State.when_kept ?_ (fun _ hs => ?_)
    | with_reducible refine State.setDie_kept ?_ (fun i => ?_)
    | with_reducible exact Kept.die (by assumption) (by assumption) _
    | with_reducible refine Kept.die ?_ (by assumption) _
    | (with_reducible refine show rising _ from ?_; simp; with_reducible refine Kept.die ?_ (by assumption) _)
    | with_reducible refine State.when_kept ?_ (fun _ hs => ?_)
    | with_reducible refine State.fetchSel_kept ?_
    | split
    | ((with_reducible refine Kept.upd ?_ ?_); rotate_left; exact ⟨rfl, rfl, ⟨rfl, rfl⟩, rfl, rfl, rfl, rfl⟩)
    | dsimp only)

theorem State.softSelect_kept {z s : State} {d : Die} {e : Nat}
    (hs : Kept z s) : Kept z (State.softSelect s d e) := by
  unfold State.softSelect
  repeat' (first
    | with_reducible assumption
    | with_reducible refine State.setDie_kept ?_ (fun i => ?_)
    | with_reducible exact Kept.die (by assumption) (by assumption) _
    | with_reducible refine Kept.die ?_ (by assumption) _
    | (with_reducible refine show rising _ from ?_; simp; with_reducible refine Kept.die ?_ (by assumption) _)
    | with_reducible refine State.checkUses_kept ?_
    | with_reducible refine State.noteStall_kept ?_
    | with_reducible refine State.fetchSel_kept ?_
    | with_reducible refine State.setField_kept ?_
    | (fail_if_no_progress extract_lets +onlyGivenNames x
       refine cutL (p := Kept z x) ?_ ?_; subst x; rotate_left; intro hs; try clear_value x; rotate_right)
    | (fail_if_no_progress extract_lets +onlyGivenNames x
       first
       | (have hd : List _ := x; clear hd; clear_value x)
       | (have hd : Bool := x; clear hd; clear_value x)
       | (have hd : Nat := x; clear hd; clear_value x)
       | subst x)
    | fail_if_no_progress beta_reduce
    | split
    | with_reducible refine Kept.ite ?_ ?_
    | ((with_reducible refine Kept.upd ?_ ?_); rotate_left; exact ⟨rfl, rfl, ⟨rfl, rfl⟩, rfl, rfl, rfl, rfl⟩))

theorem State.softIhaul_kept {z s : State} {d : Die} {c : Nat}
    (hs : Kept z s) : Kept z (State.softIhaul s d c) := by
  unfold State.softIhaul
  repeat' (first
    | with_reducible assumption
    | with_reducible refine State.setDie_kept ?_ (fun i => ?_)
    | with_reducible exact Kept.die (by assumption) (by assumption) _
    | with_reducible refine Kept.die ?_ (by assumption) _
    | (with_reducible refine show rising _ from ?_; simp; with_reducible refine Kept.die ?_ (by assumption) _)
    | with_reducible refine State.checkUses_kept ?_
    | with_reducible refine State.setReg_kept ?_
    | with_reducible refine State.setField_kept ?_
    | (fail_if_no_progress extract_lets +onlyGivenNames x
       refine cutL (p := Kept z x) ?_ ?_; subst x; rotate_left; intro hs; try clear_value x; rotate_right)
    | (fail_if_no_progress extract_lets +onlyGivenNames x
       first
       | (have hd : List _ := x; clear hd; clear_value x)
       | (have hd : Bool := x; clear hd; clear_value x)
       | (have hd : Nat := x; clear hd; clear_value x)
       | subst x)
    | fail_if_no_progress beta_reduce
    | split
    | with_reducible refine Kept.ite ?_ ?_
    | ((with_reducible refine Kept.upd ?_ ?_); rotate_left; exact ⟨rfl, rfl, ⟨rfl, rfl⟩, rfl, rfl, rfl, rfl⟩))

theorem State.countSamples_kept {z s : State} {d : Die} {n : Nat} {k : Nat}
    (hs : Kept z s) : Kept z (State.countSamples s d n k) :=
  hs.framed (State.countSamples_framed (List.Subset.refl _) (Framed.refl _))

theorem State.countEngine_kept {z s : State} {d : Die} {p_ : Nat} {n : Nat}
    (hs : Kept z s) : Kept z (State.countEngine s d p_ n) :=
  hs.framed (State.countEngine_framed (List.Subset.refl _) (Framed.refl _))

theorem State.broadcastAgents_kept {z s : State} {d : Die} {t_ : Nat}
    (hs : Kept z s) : Kept z (State.broadcastAgents s d t_) := by
  unfold State.broadcastAgents
  repeat' (first
    | with_reducible assumption
    | with_reducible refine State.when_kept ?_ (fun _ hs => ?_)
    | with_reducible refine State.when_kept ?_ (fun _ hs => ?_)
    | with_reducible refine State.storeWin_kept ?_
    | (fail_if_no_progress extract_lets +onlyGivenNames x
       refine cutL (p := Kept z x) ?_ ?_; subst x; rotate_left; intro hs; try clear_value x; rotate_right)
    | (fail_if_no_progress extract_lets +onlyGivenNames x
       first
       | (have hd : List _ := x; clear hd; clear_value x)
       | (have hd : Bool := x; clear hd; clear_value x)
       | (have hd : Nat := x; clear hd; clear_value x)
       | subst x)
    | fail_if_no_progress beta_reduce
    | split
    | with_reducible refine Kept.foldl ?_ (fun _ hs _ => ?_)
    | dsimp only)

theorem State.countStep_kept {z s : State} {d : Die} {t_ : Nat} {cycles : Nat}
    (hs : Kept z s) : Kept z (State.countStep s d t_ cycles) :=
  hs.framed (State.countStep_framed (List.Subset.refl _) (Framed.refl _))

theorem State.accBytes_kept {z s : State} {bad : Bool} {r : SlotRec}
    (hs : Kept z s) : Kept z (State.accBytes s bad r).2 :=
  hs.framed (State.accBytes_framed (List.Subset.refl _) (Framed.refl _))

theorem State.accBytes_kept_eq {z s tt : State} {pr : List Byte} {bad : Bool} {r : SlotRec}
    (he : (State.accBytes s bad r) = (pr, tt)) (hs : Kept z s) : Kept z tt := by
  have := State.accBytes_kept (bad := bad) (r := r) hs
  rw [he] at this; exact this

theorem State.storeAccs_kept {z s : State} {d : Die} {set : Nat}
    {bad : List Nat} {q0 : List (Nat × SlotRec)} (hs : Kept z s) : Kept z (s.storeAccs d set bad q0) := by
  induction q0 generalizing s with
  | nil => exact hs
  | cons e l ih => exact ih (State.storeWin_kept (State.accBytes_kept hs))

theorem State.performStep_kept {z s : State} {d : Die} {p_ : Nat} {l : Nat} {t_ : Nat} {w : ReWork} {bad : List Nat}
    (hs : Kept z s) : Kept z (State.performStep s d p_ l t_ w bad) := by
  unfold State.performStep
  repeat' (first
    | with_reducible assumption
    | with_reducible refine State.when_kept ?_ (fun _ hs => ?_)
    | with_reducible refine State.storeWin_kept ?_
    | with_reducible refine State.when_kept ?_ (fun _ hs => ?_)
    | with_reducible refine State.storeAccs_kept ?_
    | with_reducible refine State.engineStore_kept ?_
    | with_reducible refine State.countEngine_kept ?_
    | with_reducible refine State.countSamples_kept ?_
    | with_reducible refine State.countStep_kept ?_
    | (fail_if_no_progress extract_lets +onlyGivenNames x
       refine cutL (p := Kept z x) ?_ ?_; subst x; rotate_left; intro hs; try clear_value x; rotate_right)
    | (fail_if_no_progress extract_lets +onlyGivenNames x
       first
       | (have hd : List _ := x; clear hd; clear_value x)
       | (have hd : Bool := x; clear hd; clear_value x)
       | (have hd : Nat := x; clear hd; clear_value x)
       | subst x)
    | fail_if_no_progress beta_reduce
    | split
    | with_reducible refine Kept.ite ?_ ?_
    | with_reducible refine Kept.foldl ?_ (fun _ hs _ => ?_))

theorem State.countEngineCe_kept {z s : State} {d : Die} {p_ : Nat} {n : Nat}
    (hs : Kept z s) : Kept z (State.countEngineCe s d p_ n) :=
  hs.framed (State.countEngineCe_framed (List.Subset.refl _) (Framed.refl _))

theorem State.canaryFails_kept {z s : State} {d : Die} {p_ : Nat} {logical : Nat} {first : Nat}
    (hs : Kept z s) : Kept z (State.canaryFails s d p_ logical first) :=
  hs.framed (State.canaryFails_framed (List.Subset.refl _) (Framed.refl _))

theorem State.canaryOut_kept {z s : State} {corrupt : List Nat} {p_ : Nat} {rs : List Byte}
    (hs : Kept z s) : Kept z (State.canaryOut s corrupt p_ rs).2 :=
  hs.framed (State.canaryOut_framed (List.Subset.refl _) (Framed.refl _))

theorem State.canaryOut_kept_eq {z s tt : State} {pr : List Byte} {corrupt : List Nat} {p_ : Nat} {rs : List Byte}
    (he : (State.canaryOut s corrupt p_ rs) = (pr, tt)) (hs : Kept z s) : Kept z tt := by
  have := State.canaryOut_kept (corrupt := corrupt) (p_ := p_) (rs := rs) hs
  rw [he] at this; exact this

theorem State.endCanary_kept {z s : State} {d : Die} {corrupt : List Nat} {p_ : Nat}
    (hs : Kept z s) : Kept z (State.endCanary s d corrupt p_) := by
  unfold State.endCanary
  repeat' (first
    | with_reducible assumption
    | with_reducible refine State.storeWin_kept ?_
    | with_reducible refine State.countEngine_kept ?_
    | with_reducible refine State.canaryFails_kept ?_
    | with_reducible exact State.canaryOut_kept_eq (by assumption) (by assumption)
    | with_reducible refine State.setDie_kept ?_ (fun i => ?_)
    | (with_reducible refine show rising _ from ?_; simp; with_reducible refine Kept.die ?_ (by assumption) _)
    | (fail_if_no_progress extract_lets +onlyGivenNames x
       refine cutL (p := Kept z x) ?_ ?_; subst x; rotate_left; intro hs; try clear_value x; rotate_right)
    | (fail_if_no_progress extract_lets +onlyGivenNames x
       first
       | (have hd : List _ := x; clear hd; clear_value x)
       | (have hd : Bool := x; clear hd; clear_value x)
       | (have hd : Nat := x; clear hd; clear_value x)
       | subst x)
    | split)

theorem State.slotErrors_kept {z s : State} {d : Die} {ue : List (Nat × Nat)} {ce : List (Nat × Nat)}
    (hs : Kept z s) : Kept z (State.slotErrors s d ue ce) :=
  hs.framed (State.slotErrors_framed (List.Subset.refl _) (Framed.refl _))

theorem State.putRow_kept {z s : State} {d : Die} {t : TensorRef} {m : Nat} {n : Nat} {vs : List PVal}
    (hs : Kept z s) : Kept z (State.putRow s d t m n vs) := by
  unfold State.putRow
  repeat' (first
    | with_reducible assumption
    | with_reducible refine State.storeWin_kept ?_)

theorem State.putAll_kept {z s : State} {t : TensorRef} {m : Nat} {n : Nat} {vs : List PVal}
    (hs : Kept z s) : Kept z (State.putAll s t m n vs) := by
  unfold State.putAll
  repeat' (first
    | with_reducible assumption
    | with_reducible refine State.putRow_kept ?_
    | with_reducible refine Kept.foldl ?_ (fun _ hs _ => ?_))

theorem State.doLinear_kept {z s : State} {d : Die} {x_ : TensorRef} {y : TensorRef} {w : Weights} {split : Option Nat} {kSplit : Bool} {post : List PostOp}
    (hs : Kept z s) : Kept z (State.doLinear s d x_ y w split kSplit post) := by
  unfold State.doLinear
  repeat' (first
    | with_reducible assumption
    | with_reducible refine State.putAll_kept ?_
    | (fail_if_no_progress extract_lets +onlyGivenNames x
       refine cutL (p := Kept z x) ?_ ?_; subst x; rotate_left; intro hs; try clear_value x; rotate_right)
    | (fail_if_no_progress extract_lets +onlyGivenNames x
       first
       | (have hd : List _ := x; clear hd; clear_value x)
       | (have hd : Bool := x; clear hd; clear_value x)
       | (have hd : Nat := x; clear hd; clear_value x)
       | subst x)
    | fail_if_no_progress beta_reduce
    | split
    | with_reducible refine Kept.ite ?_ ?_
    | with_reducible refine Kept.foldl ?_ (fun _ hs _ => ?_))

theorem State.doConv_kept {z s : State} {d : Die} {x_ : TensorRef} {y : TensorRef} {w : Weights} {taps : Nat} {split : Option Nat} {kSplit : Bool} {post : List PostOp}
    (hs : Kept z s) : Kept z (State.doConv s d x_ y w taps split kSplit post) := by
  unfold State.doConv
  repeat' (first
    | with_reducible assumption
    | with_reducible refine State.putAll_kept ?_
    | (fail_if_no_progress extract_lets +onlyGivenNames x
       refine cutL (p := Kept z x) ?_ ?_; subst x; rotate_left; intro hs; try clear_value x; rotate_right)
    | (fail_if_no_progress extract_lets +onlyGivenNames x
       first
       | (have hd : List _ := x; clear hd; clear_value x)
       | (have hd : Bool := x; clear hd; clear_value x)
       | (have hd : Nat := x; clear hd; clear_value x)
       | subst x)
    | fail_if_no_progress beta_reduce
    | split
    | with_reducible refine Kept.ite ?_ ?_
    | with_reducible refine Kept.foldl ?_ (fun _ hs _ => ?_))

theorem State.doAttention_kept {z s : State} {d : Die} {q : TensorRef} {k : TensorRef} {v : TensorRef} {y : TensorRef} {heads : Nat} {hd : Nat} {split : Option Nat} {mask : Option TensorRef} {scale : Word} {pInv : Word} {post : List PostOp}
    (hs : Kept z s) : Kept z (State.doAttention s d q k v y heads hd split mask scale pInv post) := by
  unfold State.doAttention
  repeat' (first
    | with_reducible assumption
    | with_reducible refine State.putAll_kept ?_
    | (fail_if_no_progress extract_lets +onlyGivenNames x
       refine cutL (p := Kept z x) ?_ ?_; subst x; rotate_left; intro hs; try clear_value x; rotate_right)
    | (fail_if_no_progress extract_lets +onlyGivenNames x
       first
       | (have hd : List _ := x; clear hd; clear_value x)
       | (have hd : Bool := x; clear hd; clear_value x)
       | (have hd : Nat := x; clear hd; clear_value x)
       | subst x)
    | fail_if_no_progress beta_reduce
    | split
    | with_reducible refine Kept.ite ?_ ?_
    | with_reducible refine Kept.foldl ?_ (fun _ hs _ => ?_))

theorem State.mapRows_kept {z s : State} {d : Die} {y : TensorRef} {post : List PostOp} {f : Nat → List F32}
    (hs : Kept z s) : Kept z (State.mapRows s d y post f) := by
  unfold State.mapRows
  repeat' (first
    | with_reducible assumption
    | with_reducible refine State.putRow_kept ?_
    | with_reducible refine Kept.foldl ?_ (fun _ hs _ => ?_))

theorem State.putAnchors_kept {z s : State} {d : Die} {as_ : List Anchor}
    (hs : Kept z s) : Kept z (State.putAnchors s d as_) := by
  unfold State.putAnchors
  repeat' (first
    | with_reducible assumption
    | with_reducible refine State.event_kept ?_
    | with_reducible refine State.storeWin_kept ?_
    | with_reducible refine State.when_kept ?_ (fun _ hs => ?_))

theorem State.performOp_kept {z s : State} {d : Die} {net : Nat} {q0 : PaOp}
    (hs : Kept z s) : Kept z (State.performOp s d net q0) := by
  unfold State.performOp
  repeat' (first
    | with_reducible assumption
    | with_reducible refine State.when_kept ?_ (fun _ hs => ?_)
    | with_reducible refine State.putRow_kept ?_
    | with_reducible refine State.doLinear_kept ?_
    | with_reducible refine State.doConv_kept ?_
    | with_reducible refine State.doAttention_kept ?_
    | with_reducible refine State.mapRows_kept ?_
    | with_reducible refine State.storeWin_kept ?_
    | with_reducible refine State.when_kept ?_ (fun _ hs => ?_)
    | with_reducible refine State.putAnchors_kept ?_
    | (fail_if_no_progress extract_lets +onlyGivenNames x
       refine cutL (p := Kept z x) ?_ ?_; subst x; rotate_left; intro hs; try clear_value x; rotate_right)
    | (fail_if_no_progress extract_lets +onlyGivenNames x
       first
       | (have hd : List _ := x; clear hd; clear_value x)
       | (have hd : Bool := x; clear hd; clear_value x)
       | (have hd : Nat := x; clear hd; clear_value x)
       | subst x)
    | fail_if_no_progress beta_reduce
    | split
    | with_reducible refine Kept.foldl ?_ (fun _ hs _ => ?_)
    | dsimp only)

theorem State.spoil_kept {z s : State} {h_ : Die} {o : PaOp} {rows : List Nat}
    (hs : Kept z s) : Kept z (State.spoil s h_ o rows) := by
  unfold State.spoil
  repeat' (first
    | with_reducible assumption
    | with_reducible refine State.freeBytes_kept ?_
    | with_reducible exact State.freeBytes_kept_eq (by assumption) (by assumption)
    | with_reducible refine State.storeWin_kept ?_
    | (fail_if_no_progress extract_lets +onlyGivenNames x
       refine cutL (p := Kept z x) ?_ ?_; subst x; rotate_left; intro hs; try clear_value x; rotate_right)
    | (fail_if_no_progress extract_lets +onlyGivenNames x
       first
       | (have hd : List _ := x; clear hd; clear_value x)
       | (have hd : Bool := x; clear hd; clear_value x)
       | (have hd : Nat := x; clear hd; clear_value x)
       | subst x)
    | fail_if_no_progress beta_reduce
    | split
    | with_reducible refine Kept.foldl ?_ (fun _ hs _ => ?_)
    | dsimp only)

theorem State.fetchWeights_kept {z s : State} {d : Die} {h_ : Die} {net : Nat} {op : Nat} {o : PaOp}
    (hs : Kept z s) : Kept z (State.fetchWeights s d h_ net op o) := by
  unfold State.fetchWeights
  repeat' (first
    | with_reducible assumption
    | with_reducible refine State.setDie_kept ?_ (fun i => ?_)
    | with_reducible exact Kept.die (by assumption) (by assumption) _
    | with_reducible refine Kept.die ?_ (by assumption) _
    | (with_reducible refine show rising _ from ?_; simp; with_reducible refine Kept.die ?_ (by assumption) _)
    | with_reducible refine State.afterFront_kept ?_ (fun _ hs => ?_)
    | with_reducible refine State.storeWin_kept ?_
    | with_reducible refine State.count_kept ?_
    | (fail_if_no_progress extract_lets +onlyGivenNames x
       refine cutL (p := Kept z x) ?_ ?_; subst x; rotate_left; intro hs; try clear_value x; rotate_right)
    | (fail_if_no_progress extract_lets +onlyGivenNames x
       first
       | (have hd : List _ := x; clear hd; clear_value x)
       | (have hd : Bool := x; clear hd; clear_value x)
       | (have hd : Nat := x; clear hd; clear_value x)
       | subst x)
    | fail_if_no_progress beta_reduce
    | split
    | with_reducible refine Kept.ite ?_ ?_
    | with_reducible refine Kept.foldl ?_ (fun _ hs _ => ?_)
    | ((with_reducible refine Kept.upd ?_ ?_); rotate_left; exact ⟨rfl, rfl, ⟨rfl, rfl⟩, rfl, rfl, rfl, rfl⟩)
    | dsimp only)

theorem State.runOp_kept {z s : State} {d : Die} {h_ : Die} {net : Nat} {op : Nat} {o : PaOp}
    (hs : Kept z s) : Kept z (State.runOp s d h_ net op o) := by
  unfold State.runOp
  repeat' (first
    | with_reducible assumption
    | with_reducible refine State.performOp_kept ?_
    | (fail_if_no_progress extract_lets +onlyGivenNames x
       refine cutL (p := Kept z x) ?_ ?_; subst x; rotate_left; intro hs; try clear_value x; rotate_right)
    | (fail_if_no_progress extract_lets +onlyGivenNames x
       first
       | (have hd : List _ := x; clear hd; clear_value x)
       | (have hd : Bool := x; clear hd; clear_value x)
       | (have hd : Nat := x; clear hd; clear_value x)
       | subst x)
    | fail_if_no_progress beta_reduce
    | split
    | with_reducible refine Kept.ite ?_ ?_)

theorem State.pageOp_kept {z s : State} {d : Die} {h_ : Die} {n : Nat} {o : Nat}
    (hs : Kept z s) : Kept z (State.pageOp s d h_ n o) := by
  unfold State.pageOp
  repeat' (first
    | with_reducible assumption
    | with_reducible refine State.fetchWeights_kept ?_
    | with_reducible refine State.freeWord_kept ?_
    | with_reducible exact State.freeWord_kept_eq (by assumption) (by assumption)
    | with_reducible refine State.count_kept ?_
    | (fail_if_no_progress extract_lets +onlyGivenNames x
       refine cutL (p := Kept z x) ?_ ?_; subst x; rotate_left; intro hs; try clear_value x; rotate_right)
    | (fail_if_no_progress extract_lets +onlyGivenNames x
       first
       | (have hd : List _ := x; clear hd; clear_value x)
       | (have hd : Bool := x; clear hd; clear_value x)
       | (have hd : Nat := x; clear hd; clear_value x)
       | subst x)
    | fail_if_no_progress beta_reduce
    | split
    | with_reducible refine Kept.ite ?_ ?_
    | dsimp only)

theorem State.startOp_kept {z s : State} {d : Die} {t_ : Nat}
    (hs : Kept z s) : Kept z (State.startOp s d t_) := by
  unfold State.startOp
  repeat' (first
    | with_reducible assumption
    | with_reducible refine State.setDie_kept ?_ (fun i => ?_)
    | with_reducible exact Kept.die (by assumption) (by assumption) _
    | with_reducible refine Kept.die ?_ (by assumption) _
    | (with_reducible refine show rising _ from ?_; simp; with_reducible refine Kept.die ?_ (by assumption) _)
    | with_reducible refine State.pageOp_kept ?_
    | split
    | ((with_reducible refine Kept.upd ?_ ?_); rotate_left; exact ⟨rfl, rfl, ⟨rfl, rfl⟩, rfl, rfl, rfl, rfl⟩)
    | dsimp only)

theorem State.tryPropose_kept {z s : State} 
    (hs : Kept z s) : Kept z (State.tryPropose s) :=
  hs.framed (State.tryPropose_framed (List.Subset.refl _) (Framed.refl _))

theorem State.endOp_kept {z s : State} {d : Die} {op : Option (Nat × Nat)} {bad : List Nat}
    (hs : Kept z s) : Kept z (State.endOp s d op bad) := by
  unfold State.endOp
  repeat' (first
    | with_reducible assumption
    | with_reducible refine State.setDie_kept ?_ (fun i => ?_)
    | with_reducible exact Kept.die (by assumption) (by assumption) _
    | with_reducible refine Kept.die ?_ (by assumption) _
    | (with_reducible refine show rising _ from ?_; simp; with_reducible refine Kept.die ?_ (by assumption) _)
    | with_reducible refine State.runOp_kept ?_
    | with_reducible refine State.spoil_kept ?_
    | with_reducible refine State.count_kept ?_
    | (fail_if_no_progress extract_lets +onlyGivenNames x
       refine cutL (p := Kept z x) ?_ ?_; subst x; rotate_left; intro hs; try clear_value x; rotate_right)
    | (fail_if_no_progress extract_lets +onlyGivenNames x
       first
       | (have hd : List _ := x; clear hd; clear_value x)
       | (have hd : Bool := x; clear hd; clear_value x)
       | (have hd : Nat := x; clear hd; clear_value x)
       | subst x)
    | fail_if_no_progress beta_reduce
    | split
    | ((with_reducible refine Kept.upd ?_ ?_); rotate_left; exact ⟨rfl, rfl, ⟨rfl, rfl⟩, rfl, rfl, rfl, rfl⟩)
    | dsimp only)

theorem State.failOp_kept {z s : State} {d : Die} {op : Option (Nat × Nat)} {status : Nat}
    (hs : Kept z s) : Kept z (State.failOp s d op status) :=
  hs.framed (State.failOp_framed (List.Subset.refl _) (Framed.refl _))

theorem State.beginRun_kept {z s : State} {n : Nat} {run : Nat} {d : Die}
    (hs : Kept z s) : Kept z (State.beginRun s n run d) :=
  hs.framed (State.beginRun_framed (List.Subset.refl _) (Framed.refl _))

theorem State.beginReruns_kept {z s : State}
    (hs : Kept z s) : Kept z (State.beginReruns s) :=
  hs.framed (State.beginReruns_framed (List.Subset.refl _) (Framed.refl _))

theorem State.rerunHalf_kept {z s : State} {n : Nat} {d : Die} {o : PaOp} {bad : List Nat}
    (hs : Kept z s) : Kept z (State.rerunHalf s n d o bad) := by
  unfold State.rerunHalf
  repeat' (first
    | with_reducible assumption
    | with_reducible refine State.when_kept ?_ (fun _ hs => ?_)
    | with_reducible refine State.runOp_kept ?_
    | with_reducible refine State.when_kept ?_ (fun _ hs => ?_)
    | with_reducible refine State.spoil_kept ?_
    | (fail_if_no_progress extract_lets +onlyGivenNames x
       refine cutL (p := Kept z x) ?_ ?_; subst x; rotate_left; intro hs; try clear_value x; rotate_right)
    | (fail_if_no_progress extract_lets +onlyGivenNames x
       first
       | (have hd : List _ := x; clear hd; clear_value x)
       | (have hd : Bool := x; clear hd; clear_value x)
       | (have hd : Nat := x; clear hd; clear_value x)
       | subst x)
    | fail_if_no_progress beta_reduce)

theorem State.rerunOp_kept {z s : State} {n : Nat} {d : Die} {bad : List Nat}
    (hs : Kept z s) : Kept z (State.rerunOp s n d bad) := by
  unfold State.rerunOp
  repeat' (first
    | with_reducible assumption
    | with_reducible refine State.setDie_kept ?_ (fun i => ?_)
    | with_reducible exact Kept.die (by assumption) (by assumption) _
    | with_reducible refine Kept.die ?_ (by assumption) _
    | (with_reducible refine show rising _ from ?_; simp; with_reducible refine Kept.die ?_ (by assumption) _)
    | with_reducible refine State.pageOp_kept ?_
    | with_reducible refine State.rerunHalf_kept ?_
    | with_reducible refine State.count_kept ?_
    | (fail_if_no_progress extract_lets +onlyGivenNames x
       refine cutL (p := Kept z x) ?_ ?_; subst x; rotate_left; intro hs; try clear_value x; rotate_right)
    | (fail_if_no_progress extract_lets +onlyGivenNames x
       first
       | (have hd : List _ := x; clear hd; clear_value x)
       | (have hd : Bool := x; clear hd; clear_value x)
       | (have hd : Nat := x; clear hd; clear_value x)
       | subst x)
    | fail_if_no_progress beta_reduce
    | split
    | ((with_reducible refine Kept.upd ?_ ?_); rotate_left; exact ⟨rfl, rfl, ⟨rfl, rfl⟩, rfl, rfl, rfl, rfl⟩)
    | dsimp only)

theorem State.compareNet_kept {z s : State} {n : Nat} {d : Die}
    (hs : Kept z s) : Kept z (State.compareNet s n d) :=
  hs.framed (State.compareNet_framed (List.Subset.refl _) (Framed.refl _))

theorem State.thirdRun_kept {z s : State} {n : Nat} {d : Die}
    (hs : Kept z s) : Kept z (State.thirdRun s n d) :=
  hs.framed (State.thirdRun_framed (List.Subset.refl _) (Framed.refl _))

theorem State.countBlock_kept {z s : State} {d : Die} {n0 : Nat}
    (hs : Kept z s) : Kept z (State.countBlock s d n0) :=
  hs.framed (State.countBlock_framed (List.Subset.refl _) (Framed.refl _))

theorem State.writeParents_kept {z s : State} {d : Die} {w : ReWork}
    (hs : Kept z s) : Kept z (State.writeParents s d w) := by
  unfold State.writeParents
  repeat' (first
    | with_reducible assumption
    | with_reducible refine State.storeWin_kept ?_
    | (fail_if_no_progress extract_lets +onlyGivenNames x
       refine cutL (p := Kept z x) ?_ ?_; subst x; rotate_left; intro hs; try clear_value x; rotate_right)
    | (fail_if_no_progress extract_lets +onlyGivenNames x
       first
       | (have hd : List _ := x; clear hd; clear_value x)
       | (have hd : Bool := x; clear hd; clear_value x)
       | (have hd : Nat := x; clear hd; clear_value x)
       | subst x)
    | fail_if_no_progress beta_reduce
    | split
    | with_reducible refine Kept.ite ?_ ?_
    | with_reducible refine Kept.foldl ?_ (fun _ hs _ => ?_))

theorem State.startBlock_kept {z s : State} {d : Die} {t_ : Nat} {r : Nat} {desc : ReDesc}
    (hs : Kept z s) : Kept z (State.startBlock s d t_ r desc) := by
  unfold State.startBlock
  repeat' (first
    | with_reducible assumption
    | with_reducible refine State.when_kept ?_ (fun _ hs => ?_)
    | with_reducible refine State.setDie_kept ?_ (fun i => ?_)
    | with_reducible exact Kept.die (by assumption) (by assumption) _
    | with_reducible refine Kept.die ?_ (by assumption) _
    | (with_reducible refine show rising _ from ?_; simp; with_reducible refine Kept.die ?_ (by assumption) _)
    | with_reducible refine State.when_kept ?_ (fun _ hs => ?_)
    | with_reducible refine State.countBlock_kept ?_
    | with_reducible refine State.writeParents_kept ?_
    | with_reducible refine State.event_kept ?_
    | (fail_if_no_progress extract_lets +onlyGivenNames x
       refine cutL (p := Kept z x) ?_ ?_; subst x; rotate_left; intro hs; try clear_value x; rotate_right)
    | (fail_if_no_progress extract_lets +onlyGivenNames x
       first
       | (have hd : List _ := x; clear hd; clear_value x)
       | (have hd : Bool := x; clear hd; clear_value x)
       | (have hd : Nat := x; clear hd; clear_value x)
       | subst x)
    | fail_if_no_progress beta_reduce
    | split
    | with_reducible refine Kept.foldl ?_ (fun _ hs _ => ?_)
    | ((with_reducible refine Kept.upd ?_ ?_); rotate_left; exact ⟨rfl, rfl, ⟨rfl, rfl⟩, rfl, rfl, rfl, rfl⟩)
    | dsimp only)

theorem State.endDirect_kept {z s : State} {d : Die} {w : ReWork} {jobs : List SlotJob}
    (hs : Kept z s) : Kept z (State.endDirect s d w jobs) := by
  unfold State.endDirect
  repeat' (first
    | with_reducible assumption
    | with_reducible refine State.engineStore_kept ?_
    | (fail_if_no_progress extract_lets +onlyGivenNames x
       refine cutL (p := Kept z x) ?_ ?_; subst x; rotate_left; intro hs; try clear_value x; rotate_right)
    | (fail_if_no_progress extract_lets +onlyGivenNames x
       first
       | (have hd : List _ := x; clear hd; clear_value x)
       | (have hd : Bool := x; clear hd; clear_value x)
       | (have hd : Nat := x; clear hd; clear_value x)
       | subst x)
    | fail_if_no_progress beta_reduce
    | with_reducible refine Kept.foldl ?_ (fun _ hs _ => ?_)
    | ((with_reducible refine Kept.upd ?_ ?_); rotate_left; exact ⟨rfl, rfl, ⟨rfl, rfl⟩, rfl, rfl, rfl, rfl⟩))

theorem State.endBlock_kept {z s : State} {d : Die} {r : Nat} {bad : List Nat}
    (hs : Kept z s) : Kept z (State.endBlock s d r bad) := by
  unfold State.endBlock
  repeat' (first
    | with_reducible assumption
    | with_reducible refine State.when_kept ?_ (fun _ hs => ?_)
    | with_reducible refine State.setDie_kept ?_ (fun i => ?_)
    | with_reducible exact Kept.die (by assumption) (by assumption) _
    | with_reducible refine Kept.die ?_ (by assumption) _
    | (with_reducible refine show rising _ from ?_; simp; with_reducible refine Kept.die ?_ (by assumption) _)
    | with_reducible refine State.freeBytes_kept ?_
    | with_reducible exact State.freeBytes_kept_eq (by assumption) (by assumption)
    | with_reducible refine State.engineStore_kept ?_
    | with_reducible refine State.when_kept ?_ (fun _ hs => ?_)
    | with_reducible refine State.event_kept ?_
    | with_reducible refine State.endDirect_kept ?_
    | (fail_if_no_progress extract_lets +onlyGivenNames x
       refine cutL (p := Kept z x) ?_ ?_; subst x; rotate_left; intro hs; try clear_value x; rotate_right)
    | (fail_if_no_progress extract_lets +onlyGivenNames x
       first
       | (have hd : List _ := x; clear hd; clear_value x)
       | (have hd : Bool := x; clear hd; clear_value x)
       | (have hd : Nat := x; clear hd; clear_value x)
       | subst x)
    | fail_if_no_progress beta_reduce
    | split
    | with_reducible refine Kept.ite ?_ ?_
    | with_reducible refine Kept.foldl ?_ (fun _ hs _ => ?_)
    | ((with_reducible refine Kept.upd ?_ ?_); rotate_left; exact ⟨rfl, rfl, ⟨rfl, rfl⟩, rfl, rfl, rfl, rfl⟩)
    | dsimp only)

theorem State.touchHeap_kept {z s : State} {d : Die} {n : Nat}
    (hs : Kept z s) : Kept z (State.touchHeap s d n) := by
  unfold State.touchHeap
  repeat' (first
    | with_reducible assumption
    | with_reducible refine State.freeBytes_kept ?_
    | with_reducible exact State.freeBytes_kept_eq (by assumption) (by assumption)
    | with_reducible refine State.storeWin_kept ?_
    | (fail_if_no_progress extract_lets +onlyGivenNames x
       refine cutL (p := Kept z x) ?_ ?_; subst x; rotate_left; intro hs; try clear_value x; rotate_right)
    | (fail_if_no_progress extract_lets +onlyGivenNames x
       first
       | (have hd : List _ := x; clear hd; clear_value x)
       | (have hd : Bool := x; clear hd; clear_value x)
       | (have hd : Nat := x; clear hd; clear_value x)
       | subst x)
    | fail_if_no_progress beta_reduce
    | split
    | dsimp only)

theorem State.heapInsertAll_kept {z s : State} {d : Die} {es : List Element}
    (hs : Kept z s) : Kept z (State.heapInsertAll s d es) := by
  unfold State.heapInsertAll
  repeat' (first
    | with_reducible assumption
    | with_reducible refine State.when_kept ?_ (fun _ hs => ?_)
    | with_reducible refine State.setDie_kept ?_ (fun i => ?_)
    | with_reducible exact Kept.die (by assumption) (by assumption) _
    | with_reducible refine Kept.die ?_ (by assumption) _
    | (with_reducible refine show rising _ from ?_; simp; with_reducible refine Kept.die ?_ (by assumption) _)
    | with_reducible refine State.touchHeap_kept ?_
    | with_reducible refine State.when_kept ?_ (fun _ hs => ?_)
    | with_reducible refine State.count_kept ?_
    | with_reducible refine State.event_kept ?_
    | (fail_if_no_progress extract_lets +onlyGivenNames x
       refine cutL (p := Kept z x) ?_ ?_; subst x; rotate_left; intro hs; try clear_value x; rotate_right)
    | (fail_if_no_progress extract_lets +onlyGivenNames x
       first
       | (have hd : List _ := x; clear hd; clear_value x)
       | (have hd : Bool := x; clear hd; clear_value x)
       | (have hd : Nat := x; clear hd; clear_value x)
       | subst x)
    | fail_if_no_progress beta_reduce
    | split
    | with_reducible refine Kept.foldl ?_ (fun _ hs _ => ?_)
    | ((with_reducible refine Kept.upd ?_ ?_); rotate_left; exact ⟨rfl, rfl, ⟨rfl, rfl⟩, rfl, rfl, rfl, rfl⟩)
    | dsimp only)

theorem State.expandRound_kept {z s : State} {d : Die} {round : Nat}
    (hs : Kept z s) : Kept z (State.expandRound s d round) := by
  unfold State.expandRound
  repeat' (first
    | with_reducible assumption
    | with_reducible refine State.when_kept ?_ (fun _ hs => ?_)
    | with_reducible refine State.setDie_kept ?_ (fun i => ?_)
    | with_reducible exact Kept.die (by assumption) (by assumption) _
    | with_reducible refine Kept.die ?_ (by assumption) _
    | (with_reducible refine show rising _ from ?_; simp; with_reducible refine Kept.die ?_ (by assumption) _)
    | with_reducible refine State.touchHeap_kept ?_
    | with_reducible refine State.storeWin_kept ?_
    | with_reducible refine State.count_kept ?_
    | with_reducible refine State.when_kept ?_ (fun _ hs => ?_)
    | with_reducible refine State.event_kept ?_
    | (fail_if_no_progress extract_lets +onlyGivenNames x
       refine cutL (p := Kept z x) ?_ ?_; subst x; rotate_left; intro hs; try clear_value x; rotate_right)
    | (fail_if_no_progress extract_lets +onlyGivenNames x
       first
       | (have hd : List _ := x; clear hd; clear_value x)
       | (have hd : Bool := x; clear hd; clear_value x)
       | (have hd : Nat := x; clear hd; clear_value x)
       | subst x)
    | fail_if_no_progress beta_reduce
    | split
    | with_reducible refine Kept.foldl ?_ (fun _ hs _ => ?_)
    | ((with_reducible refine Kept.upd ?_ ?_); rotate_left; exact ⟨rfl, rfl, ⟨rfl, rfl⟩, rfl, rfl, rfl, rfl⟩)
    | dsimp only)

theorem State.doHeap_kept {z s : State} {d : Die} {x_ : HeapDesc}
    (hs : Kept z s) : Kept z (State.doHeap s d x_) := by
  unfold State.doHeap
  repeat' (first
    | with_reducible assumption
    | with_reducible refine State.heapInsertAll_kept ?_
    | with_reducible refine State.expandRound_kept ?_
    | split)

theorem State.heapError_kept {z s : State} {d : Die}
    (hs : Kept z s) : Kept z (State.heapError s d) :=
  hs.framed (State.heapError_framed (List.Subset.refl _) (Framed.refl _))

theorem State.mapRunning_kept {z s : State} {d : Die} {cls : Nat} {e : Nat} {f : Running → Running}
    (hs : Kept z s) : Kept z (State.mapRunning s d cls e f) :=
  hs.framed (State.mapRunning_framed (List.Subset.refl _) (Framed.refl _))

theorem State.mapMover_kept {z s : State} {d : Die} {f : Running → Running}
    (hs : Kept z s) : Kept z (State.mapMover s d f) :=
  hs.framed (State.mapMover_framed (List.Subset.refl _) (Framed.refl _))

theorem State.failMover_kept {z s : State} {d : Die} {st : Nat}
    (hs : Kept z s) : Kept z (State.failMover s d st) :=
  hs.framed (State.failMover_framed (List.Subset.refl _) (Framed.refl _))

theorem State.movePieces_kept {z s : State} {d : Die} {dst : Nat} {bs : List Byte} {q0 : List (Nat × Nat)}
    (hs : Kept z s) : Kept z (State.movePieces s d dst bs q0) := by
  induction q0 generalizing s d dst bs with
  | nil =>
    unfold State.movePieces
    repeat' (first
      | with_reducible assumption
      | with_reducible refine State.putHere_kept ?_
      | with_reducible exact State.putHere_kept_eq (by assumption) (by assumption)
      | with_reducible refine State.issueRemote_kept ?_
      | with_reducible exact State.issueRemote_kept_eq (by assumption) (by assumption)
      | with_reducible refine State.failMover_kept ?_
      | with_reducible refine State.when_kept ?_ (fun _ hs => ?_)
      | with_reducible refine Kept.foldl ?_ (fun _ hs _ => ?_)
      | with_reducible refine State.setDie_kept ?_ (fun i => ?_)
      | with_reducible exact Kept.die (by assumption) (by assumption) _
      | with_reducible refine Kept.die ?_ (by assumption) _
      | (with_reducible refine show rising _ from ?_; simp; with_reducible refine Kept.die ?_ (by assumption) _)
      | (with_reducible refine show rising _ from ?_; simpa using Kept.die (by assumption) (by assumption) _)
      | (fail_if_no_progress extract_lets +onlyGivenNames x
         refine cutL (p := Kept z x) ?_ ?_; subst x; rotate_left; intro hs; try clear_value x; rotate_right)
      | (fail_if_no_progress extract_lets +onlyGivenNames x
         first
         | (have hd : List _ := x; clear hd; clear_value x)
         | (have hd : Bool := x; clear hd; clear_value x)
         | (have hd : Nat := x; clear hd; clear_value x)
         | subst x)
      | fail_if_no_progress beta_reduce
      | with_reducible refine Kept.ite ?_ ?_
      | split
      | dsimp only
      | ((with_reducible refine Kept.upd ?_ ?_); rotate_left; exact ⟨rfl, rfl, ⟨rfl, rfl⟩, rfl, rfl, rfl, rfl⟩))
  | cons e l ih =>
    unfold State.movePieces
    repeat' (first
      | with_reducible assumption
      | with_reducible refine ih ?_
      | with_reducible refine State.putHere_kept ?_
      | with_reducible exact State.putHere_kept_eq (by assumption) (by assumption)
      | with_reducible refine State.issueRemote_kept ?_
      | with_reducible exact State.issueRemote_kept_eq (by assumption) (by assumption)
      | with_reducible refine State.failMover_kept ?_
      | with_reducible refine State.when_kept ?_ (fun _ hs => ?_)
      | with_reducible refine Kept.foldl ?_ (fun _ hs _ => ?_)
      | with_reducible refine State.setDie_kept ?_ (fun i => ?_)
      | with_reducible exact Kept.die (by assumption) (by assumption) _
      | with_reducible refine Kept.die ?_ (by assumption) _
      | (with_reducible refine show rising _ from ?_; simp; with_reducible refine Kept.die ?_ (by assumption) _)
      | (with_reducible refine show rising _ from ?_; simpa using Kept.die (by assumption) (by assumption) _)
      | (fail_if_no_progress extract_lets +onlyGivenNames x
         refine cutL (p := Kept z x) ?_ ?_; subst x; rotate_left; intro hs; try clear_value x; rotate_right)
      | (fail_if_no_progress extract_lets +onlyGivenNames x
         first
         | (have hd : List _ := x; clear hd; clear_value x)
         | (have hd : Bool := x; clear hd; clear_value x)
         | (have hd : Nat := x; clear hd; clear_value x)
         | subst x)
      | fail_if_no_progress beta_reduce
      | with_reducible refine Kept.ite ?_ ?_
      | split
      | dsimp only
      | ((with_reducible refine Kept.upd ?_ ?_); rotate_left; exact ⟨rfl, rfl, ⟨rfl, rfl⟩, rfl, rfl, rfl, rfl⟩))

theorem State.advanceMover_kept {z s : State} {d : Die} {dst : Nat} {sig : Nat}
    (hs : Kept z s) : Kept z (State.advanceMover s d dst sig) := by
  unfold State.advanceMover
  repeat' (first
    | with_reducible assumption
    | with_reducible refine State.signalHere_kept ?_
    | with_reducible exact State.issueRemote_kept_eq (by assumption) (by assumption)
    | with_reducible refine State.mapMover_kept ?_
    | with_reducible refine State.failMover_kept ?_
    | with_reducible refine State.when_kept ?_ (fun _ hs => ?_)
    | (fail_if_no_progress extract_lets +onlyGivenNames x
       refine cutL (p := Kept z x) ?_ ?_; subst x; rotate_left; intro hs; try clear_value x; rotate_right)
    | with_reducible refine Kept.ite ?_ ?_
    | split)

theorem State.moverReturn_kept {z s : State} {d : Die} {status : Nat}
    (hs : Kept z s) : Kept z (State.moverReturn s d status) := by
  unfold State.moverReturn
  repeat' (first
    | with_reducible assumption
    | with_reducible refine State.failMover_kept ?_
    | with_reducible refine State.advanceMover_kept ?_
    | with_reducible refine State.when_kept ?_ (fun _ hs => ?_))

theorem State.readMove_kept {z s : State} {fault : Nat} {q0 : List (Nat × Nat)}
    {q1 : List Byte} (hs : Kept z s) : Kept z (s.readMove fault q0 q1).1 := by
  induction q0 generalizing s fault q1 with
  | nil => exact hs
  | cons e l ih =>
    obtain ⟨a, n⟩ := e
    rw [State.readMove]
    have hp := State.getFaulty_kept (a := a) (n := n) (fault := fault) hs
    generalize s.getFaulty a n fault = p at hp ⊢
    obtain ⟨t, st, b⟩ := p
    dsimp only at hp ⊢
    split
    · exact ih hp
    · exact hp

theorem State.readMove_kept_eq {z s tt : State}
    {pr : Nat × List Byte} {fault : Nat} {q0 : List (Nat × Nat)} {q1 : List Byte}
    (he : s.readMove fault q0 q1 = (tt, pr)) (hs : Kept z s) : Kept z tt := by
  have := State.readMove_kept (fault := fault) (q0 := q0) (q1 := q1) hs
  rw [he] at this; exact this

theorem State.startMove_kept {z s : State} {d : Die} {r : Running} {fault : Nat}
    (hs : Kept z s) : Kept z (State.startMove s d r fault).1 := by
  unfold State.startMove
  repeat' (first
    | with_reducible assumption
    | with_reducible refine State.readMove_kept ?_
    | with_reducible exact State.readMove_kept_eq (by assumption) (by assumption)
    | with_reducible refine State.failMover_kept ?_
    | with_reducible refine State.movePieces_kept ?_
    | with_reducible refine State.advanceMover_kept ?_
    | (fail_if_no_progress extract_lets +onlyGivenNames x
       refine cutL (p := Kept z x) ?_ ?_; subst x; rotate_left; intro hs; try clear_value x; rotate_right)
    | (fail_if_no_progress extract_lets +onlyGivenNames x
       first
       | (have hd : List _ := x; clear hd; clear_value x)
       | (have hd : Bool := x; clear hd; clear_value x)
       | (have hd : Nat := x; clear hd; clear_value x)
       | subst x)
    | fail_if_no_progress beta_reduce
    | split
    | with_reducible refine Kept.ite ?_ ?_
    | dsimp only)
theorem State.startMove_kept_eq {z s tt : State} {pr : Bool} {d : Die} {r : Running} {fault : Nat}
    (he : (State.startMove s d r fault) = (tt, pr)) (hs : Kept z s) : Kept z tt := by
  have := State.startMove_kept (d := d) (r := r) (fault := fault) hs
  rw [he] at this; exact this

theorem State.badRef_kept {z s : State} {d : Die} {r : Running}
    (hs : Kept z s) : Kept z (State.badRef s d r) :=
  hs.framed (State.badRef_framed (List.Subset.refl _) (Framed.refl _))

theorem State.startTask_kept {z s : State} {d : Die} {r : Running} {fault : Nat}
    (hs : Kept z s) : Kept z (State.startTask s d r fault) := by
  unfold State.startTask
  repeat' (first
    | with_reducible assumption
    | with_reducible refine State.setDie_kept ?_ (fun i => ?_)
    | with_reducible exact Kept.die (by assumption) (by assumption) _
    | with_reducible refine Kept.die ?_ (by assumption) _
    | (with_reducible refine show rising _ from ?_; simp; with_reducible refine Kept.die ?_ (by assumption) _)
    | with_reducible refine State.failTask_kept ?_
    | with_reducible refine State.startOp_kept ?_
    | with_reducible refine State.badRef_kept ?_
    | with_reducible refine State.startBlock_kept ?_
    | with_reducible refine State.startSel_kept ?_
    | with_reducible refine State.startMove_kept ?_
    | with_reducible exact State.startMove_kept_eq (by assumption) (by assumption)
    | with_reducible refine State.setReg_kept ?_
    | (fail_if_no_progress extract_lets +onlyGivenNames x
       refine cutL (p := Kept z x) ?_ ?_; subst x; rotate_left; intro hs; try clear_value x; rotate_right)
    | (fail_if_no_progress extract_lets +onlyGivenNames x
       first
       | (have hd : List _ := x; clear hd; clear_value x)
       | (have hd : Bool := x; clear hd; clear_value x)
       | (have hd : Nat := x; clear hd; clear_value x)
       | subst x)
    | fail_if_no_progress beta_reduce
    | split
    | with_reducible refine Kept.ite ?_ ?_
    | ((with_reducible refine Kept.upd ?_ ?_); rotate_left; exact ⟨rfl, rfl, ⟨rfl, rfl⟩, rfl, rfl, rfl, rfl⟩)
    | dsimp only)

theorem State.allocWait_kept {z s : State} {d : Die} {ts : List Nat}
    (hs : Kept z s) : Kept z (State.allocWait s d ts) :=
  hs.framed (State.allocWait_framed (List.Subset.refl _) (Framed.refl _))

theorem State.giveTask_kept {z s : State} {d : Die} {cls : Nat} {engine : Nat} {t_ : Nat} {fault : Nat}
    (hs : Kept z s) : Kept z (State.giveTask s d cls engine t_ fault) := by
  unfold State.giveTask
  repeat' (first
    | with_reducible assumption
    | with_reducible refine State.setDie_kept ?_ (fun i => ?_)
    | with_reducible exact Kept.die (by assumption) (by assumption) _
    | with_reducible refine Kept.die ?_ (by assumption) _
    | (with_reducible refine show rising _ from ?_; simp; with_reducible refine Kept.die ?_ (by assumption) _)
    | with_reducible refine State.chargeWaits_kept ?_
    | with_reducible refine State.startTask_kept ?_
    | (fail_if_no_progress extract_lets +onlyGivenNames x
       refine cutL (p := Kept z x) ?_ ?_; subst x; rotate_left; intro hs; try clear_value x; rotate_right)
    | (fail_if_no_progress extract_lets +onlyGivenNames x
       first
       | (have hd : List _ := x; clear hd; clear_value x)
       | (have hd : Bool := x; clear hd; clear_value x)
       | (have hd : Nat := x; clear hd; clear_value x)
       | subst x)
    | fail_if_no_progress beta_reduce
    | ((with_reducible refine Kept.upd ?_ ?_); rotate_left; exact ⟨rfl, rfl, ⟨rfl, rfl⟩, rfl, rfl, rfl, rfl⟩))

theorem State.formEntries_kept {z s : State} {es : List Element}
    (hs : Kept z s) : Kept z (State.formEntries s es) := by
  unfold State.formEntries
  repeat' (first
    | with_reducible assumption
    | with_reducible refine State.storeWin_kept ?_)

theorem State.buildFinal_kept {z s : State} {keys : List Nat}
    (hs : Kept z s) : Kept z (State.buildFinal s keys) := by
  unfold State.buildFinal
  repeat' (first
    | with_reducible assumption
    | with_reducible refine State.storeWin_kept ?_
    | split
    | dsimp only)

theorem State.issueList_kept {z s : State} {e : Nat} {op : Nat} {addr : Nat} {data : List Byte}
    (hs : Kept z s) : Kept z (State.issueList s e op addr data) :=
  hs.framed (State.issueList_framed (List.Subset.refl _) (Framed.refl _))

theorem State.sendFinal_kept {z s : State} {r : Running} {k : Nat}
    (hs : Kept z s) : Kept z (State.sendFinal s r k) :=
  hs.framed (State.sendFinal_framed (List.Subset.refl _) (Framed.refl _))

theorem State.mergeFinal_kept {z s : State} {r : Running} {x_ : SelDesc}
    (hs : Kept z s) : Kept z (State.mergeFinal s r x_) := by
  unfold State.mergeFinal
  repeat' (first
    | with_reducible assumption
    | with_reducible refine State.buildFinal_kept ?_
    | with_reducible refine State.sendFinal_kept ?_
    | (fail_if_no_progress extract_lets +onlyGivenNames x
       refine cutL (p := Kept z x) ?_ ?_; subst x; rotate_left; intro hs; try clear_value x; rotate_right)
    | (fail_if_no_progress extract_lets +onlyGivenNames x
       first
       | (have hd : List _ := x; clear hd; clear_value x)
       | (have hd : Bool := x; clear hd; clear_value x)
       | (have hd : Nat := x; clear hd; clear_value x)
       | subst x)
    | fail_if_no_progress beta_reduce
    | split
    | with_reducible refine Kept.ite ?_ ?_)

theorem State.groupMerge_kept {z s : State} {d : Die} {r : Running}
    (hs : Kept z s) : Kept z (State.groupMerge s d r) := by
  unfold State.groupMerge
  repeat' (first
    | with_reducible assumption
    | with_reducible refine State.when_kept ?_ (fun _ hs => ?_)
    | with_reducible refine State.when_kept ?_ (fun _ hs => ?_)
    | with_reducible refine State.formEntries_kept ?_
    | with_reducible refine State.count_kept ?_
    | split
    | dsimp only)

theorem State.endWork_kept {z s : State} {d : Die} {r : Running} {bad : List Nat}
    (hs : Kept z s) : Kept z (State.endWork s d r bad) := by
  unfold State.endWork
  repeat' (first
    | with_reducible assumption
    | with_reducible refine State.endOp_kept ?_
    | with_reducible refine State.endBlock_kept ?_
    | with_reducible refine State.groupMerge_kept ?_
    | with_reducible refine State.doHeap_kept ?_
    | split
    | dsimp only)

theorem State.failWork_kept {z s : State} {d : Die} {r : Running} {status : Nat}
    (hs : Kept z s) : Kept z (State.failWork s d r status) :=
  hs.framed (State.failWork_framed (List.Subset.refl _) (Framed.refl _))

theorem State.phaseNs_kept {z s : State} {d : Die} {t : Nat}
    (hs : Kept z s) : Kept z (State.phaseNs s d t) :=
  hs.framed (State.phaseNs_framed (List.Subset.refl _) (Framed.refl _))

theorem State.taskMet_kept {z s : State} {d : Die} {cls : Nat} {ce : Nat} {ports : List (Nat × List Nat)}
    (hs : Kept z s) : Kept z (State.taskMet s d cls ce ports) :=
  hs.framed (State.taskMet_framed (List.Subset.refl _) (Framed.refl _))

theorem State.endRerun_kept {z s : State} {n : Nat} {d : Die} {status : Nat} {ce : Nat} {dram : Nat} {bad : List Nat}
    (hs : Kept z s) : Kept z (State.endRerun s n d status ce dram bad) := by
  unfold State.endRerun
  repeat' (first
    | with_reducible assumption
    | with_reducible refine State.when_kept ?_ (fun _ hs => ?_)
    | with_reducible refine State.when_kept ?_ (fun _ hs => ?_)
    | with_reducible refine State.afterFront_kept ?_ (fun _ hs => ?_)
    | with_reducible refine State.taskMet_kept ?_
    | with_reducible refine State.countDramCe_kept ?_
    | with_reducible refine State.rerunOp_kept ?_
    | with_reducible refine State.failOp_kept ?_
    | (fail_if_no_progress extract_lets +onlyGivenNames x
       refine cutL (p := Kept z x) ?_ ?_; subst x; rotate_left; intro hs; try clear_value x; rotate_right)
    | (fail_if_no_progress extract_lets +onlyGivenNames x
       first
       | (have hd : List _ := x; clear hd; clear_value x)
       | (have hd : Bool := x; clear hd; clear_value x)
       | (have hd : Nat := x; clear hd; clear_value x)
       | subst x)
    | fail_if_no_progress beta_reduce
    | split
    | with_reducible refine Kept.ite ?_ ?_)

theorem State.closeTask_kept {z s : State} {d : Die} {r : Running} {status : Nat} {bad : List Nat}
    (hs : Kept z s) : Kept z (State.closeTask s d r status bad) := by
  unfold State.closeTask
  repeat' (first
    | with_reducible assumption
    | with_reducible refine State.endWork_kept ?_
    | with_reducible refine State.completeTask_kept ?_
    | with_reducible refine State.phaseNs_kept ?_
    | with_reducible refine State.beginReruns_kept ?_
    | with_reducible refine State.tryPropose_kept ?_
    | with_reducible refine State.failWork_kept ?_
    | with_reducible refine State.failTask_kept ?_
    | (fail_if_no_progress extract_lets +onlyGivenNames x
       refine cutL (p := Kept z x) ?_ ?_; subst x; rotate_left; intro hs; try clear_value x; rotate_right)
    | (fail_if_no_progress extract_lets +onlyGivenNames x
       first
       | (have hd : List _ := x; clear hd; clear_value x)
       | (have hd : Bool := x; clear hd; clear_value x)
       | (have hd : Nat := x; clear hd; clear_value x)
       | subst x)
    | fail_if_no_progress beta_reduce
    | split
    | with_reducible refine Kept.ite ?_ ?_)

theorem State.endMerge_kept {z s : State} {d : Die} {r : Running} {x_ : SelDesc} {status : Nat} {bad : List Nat}
    (hs : Kept z s) : Kept z (State.endMerge s d r x_ status bad) := by
  unfold State.endMerge
  repeat' (first
    | with_reducible assumption
    | with_reducible refine State.mergeFinal_kept ?_
    | with_reducible refine State.closeTask_kept ?_
    | (fail_if_no_progress extract_lets +onlyGivenNames x
       refine cutL (p := Kept z x) ?_ ?_; subst x; rotate_left; intro hs; try clear_value x; rotate_right)
    | (fail_if_no_progress extract_lets +onlyGivenNames x
       first
       | (have hd : List _ := x; clear hd; clear_value x)
       | (have hd : Bool := x; clear hd; clear_value x)
       | (have hd : Nat := x; clear hd; clear_value x)
       | subst x)
    | fail_if_no_progress beta_reduce
    | split
    | with_reducible refine Kept.ite ?_ ?_
    | dsimp only)

theorem State.endTask_kept {z s : State} {d : Die} {cls : Nat} {engine : Nat} {status : Nat} {ce : Nat} {ports : List (Nat × List Nat)} {bad : List Nat}
    (hs : Kept z s) : Kept z (State.endTask s d cls engine status ce ports bad) := by
  unfold State.endTask
  repeat' (first
    | with_reducible assumption
    | with_reducible refine State.taskMet_kept ?_
    | with_reducible refine State.stage_kept ?_
    | with_reducible refine State.endMerge_kept ?_
    | with_reducible refine State.closeTask_kept ?_
    | (fail_if_no_progress extract_lets +onlyGivenNames x
       refine cutL (p := Kept z x) ?_ ?_; subst x; rotate_left; intro hs; try clear_value x; rotate_right)
    | (fail_if_no_progress extract_lets +onlyGivenNames x
       first
       | (have hd : List _ := x; clear hd; clear_value x)
       | (have hd : Bool := x; clear hd; clear_value x)
       | (have hd : Nat := x; clear hd; clear_value x)
       | subst x)
    | fail_if_no_progress beta_reduce
    | split
    | with_reducible refine Kept.ite ?_ ?_
    | dsimp only)

theorem State.countRun_kept {z s : State} {d : Die} {r : PairRun}
    (hs : Kept z s) : Kept z (State.countRun s d r) :=
  hs.framed (State.countRun_framed (List.Subset.refl _) (Framed.refl _))

theorem State.countRuns_kept {z s : State} {copy : Bool} {is : List Nat}
    (hs : Kept z s) : Kept z (State.countRuns s copy is) :=
  hs.framed (State.countRuns_framed (List.Subset.refl _) (Framed.refl _))

theorem State.countPass_kept {z s : State}
    (hs : Kept z s) : Kept z (State.countPass s) :=
  hs.framed (State.countPass_framed (List.Subset.refl _) (Framed.refl _))

theorem State.compareSwept_kept {z s : State}
    (hs : Kept z s) : Kept z (State.compareSwept s) :=
  hs.framed (State.compareSwept_framed (List.Subset.refl _) (Framed.refl _))

theorem State.endSweepCompare_kept {z s : State}
    (hs : Kept z s) : Kept z (State.endSweepCompare s) :=
  hs.framed (State.endSweepCompare_framed (List.Subset.refl _) (Framed.refl _))

theorem State.writeOutputs_kept {z s : State}
    (hs : Kept z s) : Kept z (State.writeOutputs s) := by
  unfold State.writeOutputs
  repeat' (first
    | with_reducible assumption
    | with_reducible refine State.when_kept ?_ (fun _ hs => ?_)
    | with_reducible refine State.when_kept ?_ (fun _ hs => ?_)
    | with_reducible refine State.storeWin_kept ?_
    | (fail_if_no_progress extract_lets +onlyGivenNames x
       refine cutL (p := Kept z x) ?_ ?_; subst x; rotate_left; intro hs; try clear_value x; rotate_right)
    | (fail_if_no_progress extract_lets +onlyGivenNames x
       first
       | (have hd : List _ := x; clear hd; clear_value x)
       | (have hd : Bool := x; clear hd; clear_value x)
       | (have hd : Nat := x; clear hd; clear_value x)
       | subst x)
    | fail_if_no_progress beta_reduce
    | split
    | with_reducible refine Kept.foldl ?_ (fun _ hs _ => ?_)
    | dsimp only)

theorem State.endPass_kept {z s : State}
    (hs : Kept z s) : Kept z (State.endPass s) := by
  unfold State.endPass
  repeat' (first
    | with_reducible assumption
    | with_reducible refine State.when_kept ?_ (fun _ hs => ?_)
    | with_reducible refine State.when_kept ?_ (fun _ hs => ?_)
    | with_reducible refine State.compareSwept_kept ?_
    | with_reducible refine State.event_kept ?_
    | with_reducible refine State.invalid_kept ?_
    | with_reducible refine State.writeOutputs_kept ?_
    | with_reducible refine State.countPass_kept ?_
    | (fail_if_no_progress extract_lets +onlyGivenNames x
       refine cutL (p := Kept z x) ?_ ?_; subst x; rotate_left; intro hs; try clear_value x; rotate_right)
    | (fail_if_no_progress extract_lets +onlyGivenNames x
       first
       | (have hd : List _ := x; clear hd; clear_value x)
       | (have hd : Bool := x; clear hd; clear_value x)
       | (have hd : Nat := x; clear hd; clear_value x)
       | subst x)
    | fail_if_no_progress beta_reduce
    | split
    | with_reducible refine Kept.ite ?_ ?_
    | ((with_reducible refine Kept.upd ?_ ?_); rotate_left; exact ⟨rfl, rfl, ⟨rfl, rfl⟩, rfl, rfl, rfl, rfl⟩)
    | dsimp only)

theorem State.thirdSide_kept {z s : State} {v : VoteItem} {bad : Bool}
    (hs : Kept z s) : Kept z (State.thirdSide s v bad).2 :=
  hs.framed (State.thirdSide_framed (List.Subset.refl _) (Framed.refl _))
theorem State.thirdSide_kept_eq {z s tt : State} {pr : Nat} {v : VoteItem} {bad : Bool}
    (he : (State.thirdSide s v bad) = (pr, tt)) (hs : Kept z s) : Kept z tt := by
  have := State.thirdSide_kept (v := v) (bad := bad) hs
  rw [he] at this; exact this

theorem State.applyVote_kept {z s : State} {v : VoteItem} {side : Nat}
    (hs : Kept z s) : Kept z (State.applyVote s v side) :=
  hs.framed (State.applyVote_framed (List.Subset.refl _) (Framed.refl _))

theorem State.countVote_kept {z s : State} {v : VoteItem}
    (hs : Kept z s) : Kept z (State.countVote s v) :=
  hs.framed (State.countVote_framed (List.Subset.refl _) (Framed.refl _))

theorem State.settleVote_kept {z s : State} {v : VoteItem} {side : Nat}
    (hs : Kept z s) : Kept z (State.settleVote s v side) :=
  hs.framed (State.settleVote_framed (List.Subset.refl _) (Framed.refl _))

theorem State.vote_kept {z s : State} {id : Nat} {bad : Bool}
    (hs : Kept z s) : Kept z (State.vote s id bad) :=
  hs.framed (State.vote_framed (List.Subset.refl _) (Framed.refl _))

theorem State.walkDown_kept {z s : State}
    (hs : Kept z s) : Kept z (State.walkDown s) :=
  hs.framed (State.walkDown_framed (List.Subset.refl _) (Framed.refl _))

theorem State.emitRecord_kept {z s : State} 
    (hs : Kept z s) : Kept z (State.emitRecord s) :=
  hs.framed (State.emitRecord_framed (List.Subset.refl _) (Framed.refl _))

theorem State.endRx_kept {z s : State} {left : Nat}
    (hs : Kept z s) : Kept z (State.endRx s left) :=
  hs.framed (State.endRx_framed (List.Subset.refl _) (Framed.refl _))

theorem State.performNow_kept {z s : State} {op : Nat} {src : Nat} {tag : Nat} {addr : Nat} {len : Nat} {fault : Nat} {data : List Byte}
    (hs : Kept z s) : Kept z (State.performNow s op src tag addr len fault data) := by
  unfold State.performNow
  repeat' (first
    | with_reducible assumption
    | with_reducible refine State.when_kept ?_ (fun _ hs => ?_)
    | with_reducible refine State.respond_kept ?_
    | with_reducible refine State.atomicFaulty_kept ?_
    | with_reducible exact State.atomicFaulty_kept_eq (by assumption) (by assumption)
    | with_reducible refine State.putHere_kept ?_
    | with_reducible exact State.putHere_kept_eq (by assumption) (by assumption)
    | with_reducible refine State.getFaulty_kept ?_
    | with_reducible exact State.getFaulty_kept_eq (by assumption) (by assumption)
    | with_reducible refine State.when_kept ?_ (fun _ hs => ?_)
    | with_reducible refine State.endRx_kept ?_
    | with_reducible refine State.signalHere_kept ?_
    | with_reducible exact State.signalHere_kept_eq (by assumption) (by assumption)
    | (fail_if_no_progress extract_lets +onlyGivenNames x
       refine cutL (p := Kept z x) ?_ ?_; subst x; rotate_left; intro hs; try clear_value x; rotate_right)
    | (fail_if_no_progress extract_lets +onlyGivenNames x
       first
       | (have hd : List _ := x; clear hd; clear_value x)
       | (have hd : Bool := x; clear hd; clear_value x)
       | (have hd : Nat := x; clear hd; clear_value x)
       | subst x)
    | fail_if_no_progress beta_reduce
    | split
    | with_reducible refine Kept.ite ?_ ?_
    | dsimp only)

theorem State.takeRemote_kept {z s : State} {o : StalledOp}
    (hs : Kept z s) : Kept z (State.takeRemote s o) := by
  unfold State.takeRemote
  repeat' (first
    | with_reducible assumption
    | with_reducible refine State.performNow_kept ?_
    | split
    | with_reducible refine Kept.ite ?_ ?_
    | ((with_reducible refine Kept.upd ?_ ?_); rotate_left; exact ⟨rfl, rfl, ⟨rfl, rfl⟩, rfl, rfl, rfl, rfl⟩))

theorem State.performRemote_kept {z s : State} {op : Nat} {src : Nat} {tag : Nat} {addr : Nat} {len : Nat} {fault : Nat} {data : List Byte}
    (hs : Kept z s) : Kept z (State.performRemote s op src tag addr len fault data) := by
  unfold State.performRemote
  repeat' (first
    | with_reducible assumption
    | with_reducible refine State.noteStalls_kept ?_
    | with_reducible refine State.takeRemote_kept ?_
    | (fail_if_no_progress extract_lets +onlyGivenNames x
       refine cutL (p := Kept z x) ?_ ?_; subst x; rotate_left; intro hs; try clear_value x; rotate_right)
    | (fail_if_no_progress extract_lets +onlyGivenNames x
       first
       | (have hd : List _ := x; clear hd; clear_value x)
       | (have hd : Bool := x; clear hd; clear_value x)
       | (have hd : Nat := x; clear hd; clear_value x)
       | subst x)
    | fail_if_no_progress beta_reduce)

theorem State.pumpStalled_kept {z s : State}
    (hs : Kept z s) : Kept z (State.pumpStalled s) := by
  unfold State.pumpStalled
  repeat' (first
    | with_reducible assumption
    | with_reducible refine State.takeRemote_kept ?_
    | with_reducible refine Kept.foldl ?_ (fun _ hs _ => ?_)
    | ((with_reducible refine Kept.upd ?_ ?_); rotate_left; exact ⟨rfl, rfl, ⟨rfl, rfl⟩, rfl, rfl, rfl, rfl⟩))

theorem State.failStalled_kept {z s : State} {meets : StalledOp → Bool} {status : Nat}
    (hs : Kept z s) : Kept z (State.failStalled s meets status) := by
  unfold State.failStalled
  repeat' (first
    | with_reducible assumption
    | with_reducible refine State.endRx_kept ?_
    | with_reducible refine State.respond_kept ?_
    | with_reducible refine State.pumpStalled_kept ?_
    | (fail_if_no_progress extract_lets +onlyGivenNames x
       refine cutL (p := Kept z x) ?_ ?_; subst x; rotate_left; intro hs; try clear_value x; rotate_right)
    | (fail_if_no_progress extract_lets +onlyGivenNames x
       first
       | (have hd : List _ := x; clear hd; clear_value x)
       | (have hd : Bool := x; clear hd; clear_value x)
       | (have hd : Nat := x; clear hd; clear_value x)
       | subst x)
    | fail_if_no_progress beta_reduce
    | split
    | with_reducible refine Kept.ite ?_ ?_
    | with_reducible refine Kept.foldl ?_ (fun _ hs _ => ?_)
    | ((with_reducible refine Kept.upd ?_ ?_); rotate_left; exact ⟨rfl, rfl, ⟨rfl, rfl⟩, rfl, rfl, rfl, rfl⟩))

theorem State.windowError_kept {z s : State} {status : Nat} {write : Bool} {ofs : Nat}
    (hs : Kept z s) : Kept z (State.windowError s status write ofs) :=
  hs.framed (State.windowError_framed (List.Subset.refl _) (Framed.refl _))

theorem State.windowReturn_kept {z s : State} {ofs : Nat} {len : Nat} {status : Nat} {data : List Byte}
    (hs : Kept z s) : Kept z (State.windowReturn s ofs len status data) :=
  hs.framed (State.windowReturn_framed (List.Subset.refl _) (Framed.refl _))

theorem State.windowReadHere_kept {z s : State} {a : Nat} {ofs : Nat} {len : Nat} {fault : Nat}
    (hs : Kept z s) : Kept z (State.windowReadHere s a ofs len fault) :=
  hs.framed (State.windowReadHere_framed (List.Subset.refl _) (Framed.refl _))

theorem State.windowRead_kept {z s : State} {x_ : WinAcc}
    (hs : Kept z s) : Kept z (State.windowRead s x_) :=
  hs.framed (State.windowRead_framed (List.Subset.refl _) (Framed.refl _))

theorem State.raceWords_kept {z s : State} {q0 : List Nat}
    (hs : Kept z s) : Kept z (State.raceWords s q0) := by
  induction q0 generalizing s with
  | nil =>
    unfold State.raceWords
    repeat' (first
      | with_reducible refine ih ?_
      | with_reducible assumption
      | with_reducible refine State.freeBytes_kept ?_
      | with_reducible exact State.freeBytes_kept_eq (by assumption) (by assumption)
      | with_reducible refine State.store_kept ?_
      | (fail_if_no_progress extract_lets +onlyGivenNames x
         refine cutL (p := Kept z x) ?_ ?_; subst x; rotate_left; intro hs; try clear_value x; rotate_right)
      | (fail_if_no_progress extract_lets +onlyGivenNames x
         first
         | (have hd : List _ := x; clear hd; clear_value x)
         | (have hd : Bool := x; clear hd; clear_value x)
         | (have hd : Nat := x; clear hd; clear_value x)
         | subst x)
      | fail_if_no_progress beta_reduce
      | split
      | dsimp only)
  | cons _ _ ih =>
    unfold State.raceWords
    repeat' (first
      | with_reducible refine ih ?_
      | with_reducible assumption
      | with_reducible refine State.freeBytes_kept ?_
      | with_reducible exact State.freeBytes_kept_eq (by assumption) (by assumption)
      | with_reducible refine State.store_kept ?_
      | (fail_if_no_progress extract_lets +onlyGivenNames x
         refine cutL (p := Kept z x) ?_ ?_; subst x; rotate_left; intro hs; try clear_value x; rotate_right)
      | (fail_if_no_progress extract_lets +onlyGivenNames x
         first
         | (have hd : List _ := x; clear hd; clear_value x)
         | (have hd : Bool := x; clear hd; clear_value x)
         | (have hd : Nat := x; clear hd; clear_value x)
         | subst x)
      | fail_if_no_progress beta_reduce
      | split
      | dsimp only)

theorem State.windowWriteHere_kept {z s : State} {x_ : WinAcc} {base : Nat} {q0 : List (Nat × Nat)}
    (hs : Kept z s) : Kept z (State.windowWriteHere s x_ base q0) := by
  induction q0 generalizing s with
  | nil =>
    unfold State.windowWriteHere
    repeat' (first
      | with_reducible refine ih ?_
      | with_reducible assumption
      | with_reducible refine State.writeEvents_kept ?_
      | with_reducible refine State.store_kept ?_
      | with_reducible refine State.raceWords_kept ?_
      | with_reducible refine State.windowError_kept ?_
      | (fail_if_no_progress extract_lets +onlyGivenNames x
         refine cutL (p := Kept z x) ?_ ?_; subst x; rotate_left; intro hs; try clear_value x; rotate_right)
      | (fail_if_no_progress extract_lets +onlyGivenNames x
         first
         | (have hd : List _ := x; clear hd; clear_value x)
         | (have hd : Bool := x; clear hd; clear_value x)
         | (have hd : Nat := x; clear hd; clear_value x)
         | subst x)
      | fail_if_no_progress beta_reduce
      | split
      | with_reducible refine Kept.ite ?_ ?_)
  | cons _ _ ih =>
    unfold State.windowWriteHere
    repeat' (first
      | with_reducible refine ih ?_
      | with_reducible assumption
      | with_reducible refine State.writeEvents_kept ?_
      | with_reducible refine State.store_kept ?_
      | with_reducible refine State.raceWords_kept ?_
      | with_reducible refine State.windowError_kept ?_
      | (fail_if_no_progress extract_lets +onlyGivenNames x
         refine cutL (p := Kept z x) ?_ ?_; subst x; rotate_left; intro hs; try clear_value x; rotate_right)
      | (fail_if_no_progress extract_lets +onlyGivenNames x
         first
         | (have hd : List _ := x; clear hd; clear_value x)
         | (have hd : Bool := x; clear hd; clear_value x)
         | (have hd : Nat := x; clear hd; clear_value x)
         | subst x)
      | fail_if_no_progress beta_reduce
      | split
      | with_reducible refine Kept.ite ?_ ?_)

theorem State.mergeAsk_kept {z s : State} {ofs : Nat} {addr : Nat} {data : List Byte} {old : Option (List Byte)}
    (hs : Kept z s) : Kept z (State.mergeAsk s ofs addr data old).1 :=
  hs.framed (State.mergeAsk_framed (List.Subset.refl _) (Framed.refl _))

theorem State.mergeAsk_kept_eq {z s tt : State} {pr : Option Nat} {ofs : Nat} {addr : Nat} {data : List Byte} {old : Option (List Byte)}
    (he : (State.mergeAsk s ofs addr data old) = (tt, pr)) (hs : Kept z s) : Kept z tt := by
  have := State.mergeAsk_kept (ofs := ofs) (addr := addr) (data := data) (old := old) hs
  rw [he] at this; exact this

theorem State.mergeStep_kept {z s : State} {ofs : Nat} {addr : Nat} {data : List Byte} {old : Option (List Byte)}
    (hs : Kept z s) : Kept z (State.mergeStep s ofs addr data old) :=
  hs.framed (State.mergeStep_framed (List.Subset.refl _) (Framed.refl _))

theorem State.windowPut_kept {z s : State} {ofs : Nat} {a : Nat} {data : List Byte}
    (hs : Kept z s) : Kept z (State.windowPut s ofs a data) :=
  hs.framed (State.windowPut_framed (List.Subset.refl _) (Framed.refl _))

theorem State.windowWrite_kept {z s : State} {x_ : WinAcc}
    (hs : Kept z s) : Kept z (State.windowWrite s x_) := by
  unfold State.windowWrite
  repeat' (first
    | with_reducible assumption
    | with_reducible refine State.windowError_kept ?_
    | with_reducible refine State.windowWriteHere_kept ?_
    | with_reducible refine State.windowPut_kept ?_
    | (fail_if_no_progress extract_lets +onlyGivenNames x
       refine cutL (p := Kept z x) ?_ ?_; subst x; rotate_left; intro hs; try clear_value x; rotate_right)
    | (fail_if_no_progress extract_lets +onlyGivenNames x
       first
       | (have hd : List _ := x; clear hd; clear_value x)
       | (have hd : Bool := x; clear hd; clear_value x)
       | (have hd : Nat := x; clear hd; clear_value x)
       | subst x)
    | fail_if_no_progress beta_reduce
    | split
    | with_reducible refine Kept.ite ?_ ?_
    | with_reducible refine Kept.foldl ?_ (fun _ hs _ => ?_)
    | dsimp only)

theorem State.pumpWindow_kept {z s : State} {q0 : List WinAcc}
    (hs : Kept z s) : Kept z (State.pumpWindow s q0) := by
  induction q0 generalizing s with
  | nil =>
    unfold State.pumpWindow
    repeat' (first
      | with_reducible refine ih ?_
      | with_reducible assumption
      | with_reducible refine State.emit_kept ?_
      | with_reducible refine State.windowWrite_kept ?_
      | with_reducible refine State.windowRead_kept ?_
      | split
      | with_reducible refine Kept.ite ?_ ?_
      | ((with_reducible refine Kept.upd ?_ ?_); rotate_left; exact ⟨rfl, rfl, ⟨rfl, rfl⟩, rfl, rfl, rfl, rfl⟩))
  | cons _ _ ih =>
    unfold State.pumpWindow
    repeat' (first
      | with_reducible refine ih ?_
      | with_reducible assumption
      | with_reducible refine State.emit_kept ?_
      | with_reducible refine State.windowWrite_kept ?_
      | with_reducible refine State.windowRead_kept ?_
      | split
      | with_reducible refine Kept.ite ?_ ?_
      | ((with_reducible refine Kept.upd ?_ ?_); rotate_left; exact ⟨rfl, rfl, ⟨rfl, rfl⟩, rfl, rfl, rfl, rfl⟩))

theorem State.failReads_kept {z s : State} {d : Die} {status : Nat}
    (hs : Kept z s) : Kept z (State.failReads s d status) := by
  unfold State.failReads
  repeat' (first
    | with_reducible assumption
    | with_reducible refine State.windowError_kept ?_
    | with_reducible refine State.windowReturn_kept ?_
    | with_reducible refine State.pumpWindow_kept ?_
    | (fail_if_no_progress extract_lets +onlyGivenNames x
       refine cutL (p := Kept z x) ?_ ?_; subst x; rotate_left; intro hs; try clear_value x; rotate_right)
    | (fail_if_no_progress extract_lets +onlyGivenNames x
       first
       | (have hd : List _ := x; clear hd; clear_value x)
       | (have hd : Bool := x; clear hd; clear_value x)
       | (have hd : Nat := x; clear hd; clear_value x)
       | subst x)
    | fail_if_no_progress beta_reduce
    | split
    | with_reducible refine Kept.ite ?_ ?_
    | with_reducible refine Kept.foldl ?_ (fun _ hs _ => ?_)
    | ((with_reducible refine Kept.upd ?_ ?_); rotate_left; exact ⟨rfl, rfl, ⟨rfl, rfl⟩, rfl, rfl, rfl, rfl⟩))

theorem State.drainReads_kept {z s : State}
    (hs : Kept z s) : Kept z (State.drainReads s) := by
  unfold State.drainReads
  repeat' (first
    | with_reducible assumption
    | with_reducible refine State.pumpWindow_kept ?_)

theorem State.takeAccess_kept {z s : State} {x_ : WinAcc}
    (hs : Kept z s) : Kept z (State.takeAccess s x_) := by
  unfold State.takeAccess
  repeat' (first
    | with_reducible assumption
    | with_reducible refine State.noteStalls_kept ?_
    | with_reducible refine State.pumpWindow_kept ?_
    | (fail_if_no_progress extract_lets +onlyGivenNames x
       refine cutL (p := Kept z x) ?_ ?_; subst x; rotate_left; intro hs; try clear_value x; rotate_right)
    | (fail_if_no_progress extract_lets +onlyGivenNames x
       first
       | (have hd : List _ := x; clear hd; clear_value x)
       | (have hd : Bool := x; clear hd; clear_value x)
       | (have hd : Nat := x; clear hd; clear_value x)
       | subst x)
    | fail_if_no_progress beta_reduce)

theorem State.setWinBase_kept {z s : State} {hi : Bool} {v : Word}
    (hs : Kept z s) : Kept z (State.setWinBase s hi v) :=
  hs.framed (State.setWinBase_framed (List.Subset.refl _) (Framed.refl _))

theorem State.scrubSram_kept {z s : State} {d : Die} {ofs : Nat} {err : Nat} {ms : Nat}
    (hs : Kept z s) : Kept z (State.scrubSram s d ofs err ms) :=
  hs.framed (State.scrubSram_framed (List.Subset.refl _) (Framed.refl _))

theorem State.hostSafe_kept {z s : State} 
    (hs : Kept z s) : Kept z (State.hostSafe s) := by
  unfold State.hostSafe
  repeat' (first
    | with_reducible assumption
    | with_reducible refine State.enterSafe_kept ?_)

theorem State.setClock_kept {z s : State} {n : Nat} {on : Bool}
    (hs : Kept z s) : Kept z (State.setClock s n on) :=
  hs.framed (State.setClock_framed (List.Subset.refl _) (Framed.refl _))

theorem State.releasePor_kept {z s : State}
    (hs : Kept z s) : Kept z (State.releasePor s) :=
  hs.framed (State.releasePor_framed (List.Subset.refl _) (Framed.refl _))

theorem State.clockLost_kept {z s : State} {n : Nat}
    (hs : Kept z s) : Kept z (State.clockLost s n) :=
  hs.framed (State.clockLost_framed (List.Subset.refl _) (Framed.refl _))

theorem State.setTemps_kept {z s : State} {s0 : Nat} {s1 : Nat} {h_ : Nat}
    (hs : Kept z s) : Kept z (State.setTemps s s0 s1 h_) :=
  hs.framed (State.setTemps_framed (List.Subset.refl _) (Framed.refl _))

theorem State.thermPin_kept {z s : State} {s0 : Nat} {s1 : Nat} {h_ : Nat}
    (hs : Kept z s) : Kept z (State.thermPin s s0 s1 h_) :=
  hs.framed (State.thermPin_framed (List.Subset.refl _) (Framed.refl _))

theorem State.dieReturned_kept {z s : State} {who : Issuer} {status : Nat} {data : List Byte}
    (hs : Kept z s) : Kept z (State.dieReturned s who status data) := by
  unfold State.dieReturned
  repeat' (first
    | with_reducible assumption
    | with_reducible refine State.when_kept ?_ (fun _ hs => ?_)
    | with_reducible refine State.chainReturn_kept ?_
    | with_reducible refine State.moverReturn_kept ?_
    | with_reducible refine State.when_kept ?_ (fun _ hs => ?_)
    | with_reducible refine State.mapRunning_kept ?_
    | with_reducible refine State.chanResponse_kept ?_
    | split
    | with_reducible refine Kept.ite ?_ ?_
    | dsimp only)

theorem State.failDieOps_kept {z s : State} {d : Die} {status : Nat}
    (hs : Kept z s) : Kept z (State.failDieOps s d status) := by
  unfold State.failDieOps
  repeat' (first
    | with_reducible assumption
    | with_reducible refine State.dropOps_kept ?_
    | with_reducible refine State.dieReturned_kept ?_
    | split
    | with_reducible refine Kept.foldl ?_ (fun _ hs _ => ?_)
    | dsimp only)

theorem State.endChainOf_kept {z s : State} {ch : Nat} {status : Nat}
    (hs : Kept z s) : Kept z (State.endChainOf s ch status) :=
  hs.framed (State.endChainOf_framed (List.Subset.refl _) (Framed.refl _))

theorem State.failWaits_kept {z s : State} {d : Die} {status : Nat}
    (hs : Kept z s) : Kept z (State.failWaits s d status) := by
  unfold State.failWaits
  repeat' (first
    | with_reducible assumption
    | with_reducible refine State.failStalled_kept ?_
    | with_reducible refine State.failReads_kept ?_)

theorem State.endTraffic_kept {z s : State} {d : Die}
    (hs : Kept z s) : Kept z (State.endTraffic s d) := by
  unfold State.endTraffic
  repeat' (first
    | with_reducible assumption
    | with_reducible refine State.when_kept ?_ (fun _ hs => ?_)
    | with_reducible refine State.setDie_kept ?_ (fun i => ?_)
    | with_reducible exact Kept.die (by assumption) (by assumption) _
    | with_reducible refine Kept.die ?_ (by assumption) _
    | (with_reducible refine show rising _ from ?_; simp; with_reducible refine Kept.die ?_ (by assumption) _)
    | with_reducible refine State.endChainOf_kept ?_
    | with_reducible refine State.failDieOps_kept ?_
    | with_reducible refine State.failWaits_kept ?_
    | with_reducible refine State.cutSync_kept ?_
    | with_reducible refine State.when_kept ?_ (fun _ hs => ?_)
    | with_reducible refine State.event_kept ?_
    | (fail_if_no_progress extract_lets +onlyGivenNames x
       refine cutL (p := Kept z x) ?_ ?_; subst x; rotate_left; intro hs; try clear_value x; rotate_right)
    | (fail_if_no_progress extract_lets +onlyGivenNames x
       first
       | (have hd : List _ := x; clear hd; clear_value x)
       | (have hd : Bool := x; clear hd; clear_value x)
       | (have hd : Nat := x; clear hd; clear_value x)
       | subst x)
    | fail_if_no_progress beta_reduce
    | with_reducible refine Kept.foldl ?_ (fun _ hs _ => ?_)
    | ((with_reducible refine Kept.upd ?_ ?_); rotate_left; exact ⟨rfl, rfl, ⟨rfl, rfl⟩, rfl, rfl, rfl, rfl⟩))

theorem State.failXcut_kept {z s : State} {hub : Bool} {d : Die}
    (hs : Kept z s) : Kept z (State.failXcut s hub d) := by
  unfold State.failXcut
  repeat' (first
    | with_reducible assumption
    | with_reducible refine State.setDie_kept ?_ (fun i => ?_)
    | with_reducible exact Kept.die (by assumption) (by assumption) _
    | with_reducible refine Kept.die ?_ (by assumption) _
    | (with_reducible refine show rising _ from ?_; simp; with_reducible refine Kept.die ?_ (by assumption) _)
    | with_reducible refine State.failDieOps_kept ?_
    | with_reducible refine State.endChainOf_kept ?_
    | with_reducible refine State.failWaits_kept ?_
    | with_reducible refine State.cutSync_kept ?_
    | (fail_if_no_progress extract_lets +onlyGivenNames x
       refine cutL (p := Kept z x) ?_ ?_; subst x; rotate_left; intro hs; try clear_value x; rotate_right)
    | (fail_if_no_progress extract_lets +onlyGivenNames x
       first
       | (have hd : List _ := x; clear hd; clear_value x)
       | (have hd : Bool := x; clear hd; clear_value x)
       | (have hd : Nat := x; clear hd; clear_value x)
       | subst x)
    | fail_if_no_progress beta_reduce
    | split
    | with_reducible refine Kept.ite ?_ ?_
    | with_reducible refine Kept.foldl ?_ (fun _ hs _ => ?_)
    | ((with_reducible refine Kept.upd ?_ ?_); rotate_left; exact ⟨rfl, rfl, ⟨rfl, rfl⟩, rfl, rfl, rfl, rfl⟩))

theorem State.cutPower_kept {z s : State} {d : Die} {forced : Bool}
    (hs : Kept z s) : Kept z (State.cutPower s d forced) := by
  unfold State.cutPower
  repeat' (first
    | with_reducible assumption
    | with_reducible refine State.setDie_kept ?_ (fun i => ?_)
    | with_reducible exact Kept.die (by assumption) (by assumption) _
    | with_reducible refine Kept.die ?_ (by assumption) _
    | (with_reducible refine show rising _ from ?_; simp; with_reducible refine Kept.die ?_ (by assumption) _)
    | with_reducible refine State.endTraffic_kept ?_
    | with_reducible refine State.unlockDie_kept ?_
    | (fail_if_no_progress extract_lets +onlyGivenNames x
       refine cutL (p := Kept z x) ?_ ?_; subst x; rotate_left; intro hs; try clear_value x; rotate_right)
    | (fail_if_no_progress extract_lets +onlyGivenNames x
       first
       | (have hd : List _ := x; clear hd; clear_value x)
       | (have hd : Bool := x; clear hd; clear_value x)
       | (have hd : Nat := x; clear hd; clear_value x)
       | subst x)
    | fail_if_no_progress beta_reduce
    | ((with_reducible refine Kept.upd ?_ ?_); rotate_left; exact ⟨rfl, rfl, ⟨rfl, rfl⟩, rfl, rfl, rfl, rfl⟩))

theorem State.spiAnswer_kept {z s : State} {cmd : Byte} {seq : Byte} {arg : BitVec 16} {crc : BitVec 16} {result : Nat} {payload : List Byte}
    (hs : Kept z s) : Kept z (State.spiAnswer s cmd seq arg crc result payload) :=
  hs.framed (State.spiAnswer_framed (List.Subset.refl _) (Framed.refl _))

theorem State.spiRefuse_kept {z s : State} {cmd : Byte} {seq : Byte} {arg : BitVec 16} {crc : BitVec 16} {result : Nat} {len : Nat}
    (hs : Kept z s) : Kept z (State.spiRefuse s cmd seq arg crc result len) :=
  hs.framed (State.spiRefuse_framed (List.Subset.refl _) (Framed.refl _))

theorem State.irqHigh_kept {z s : State} 
    (hs : Kept z s) : Kept z (State.irqHigh s) :=
  hs.framed (State.irqHigh_framed (List.Subset.refl _) (Framed.refl _))

theorem State.klEvent_kept {z s : State} {n : Nat}
    (hs : Kept z s) : Kept z (State.klEvent s n) :=
  hs.framed (State.klEvent_framed (List.Subset.refl _) (Framed.refl _))

theorem State.opReturned_kept {z s : State} {who : Issuer} {status : Nat} {data : List Byte}
    (hs : Kept z s) : Kept z (State.opReturned s who status data) := by
  unfold State.opReturned
  repeat' (first
    | with_reducible assumption
    | with_reducible refine State.when_kept ?_ (fun _ hs => ?_)
    | with_reducible refine State.when_kept ?_ (fun _ hs => ?_)
    | with_reducible refine State.windowError_kept ?_
    | with_reducible refine State.windowReturn_kept ?_
    | with_reducible refine State.drainReads_kept ?_
    | with_reducible refine State.mergeStep_kept ?_
    | with_reducible refine State.dieReturned_kept ?_
    | split
    | with_reducible refine Kept.ite ?_ ?_
    | dsimp only)

theorem State.completeOp_kept {z s : State} {tag : Nat} {status : Nat} {data : List Byte}
    (hs : Kept z s) : Kept z (State.completeOp s tag status data) := by
  unfold State.completeOp
  repeat' (first
    | with_reducible assumption
    | with_reducible refine State.dropOps_kept ?_
    | with_reducible refine State.opReturned_kept ?_
    | split
    | dsimp only)

theorem State.failOps_kept {z s : State} {p_ : Nat} {status : Nat}
    (hs : Kept z s) : Kept z (State.failOps s p_ status) := by
  unfold State.failOps
  repeat' (first
    | with_reducible assumption
    | with_reducible refine State.completeOp_kept ?_
    | with_reducible refine Kept.foldl ?_ (fun _ hs _ => ?_))

theorem State.endBcast_kept {z s : State}
    (hs : Kept z s) : Kept z (State.endBcast s) :=
  hs.framed (State.endBcast_framed (List.Subset.refl _) (Framed.refl _))

theorem State.passFlit_kept {z s : State} {p_ : Nat} {num : Nat} {c : Cut} {flit : List Byte}
    (hs : Kept z s) : Kept z (State.passFlit s p_ num c flit) :=
  hs.framed (State.passFlit_framed (List.Subset.refl _) (Framed.refl _))

theorem State.endCut_kept {z s : State} {p_ : Nat} {c : Cut} {q0 : Nat}
    (hs : Kept z s) : Kept z (State.endCut s p_ c q0) :=
  hs.framed (State.endCut_framed (List.Subset.refl _) (Framed.refl _))

theorem State.answerLost_kept {z s : State} {status : Nat} {f : WaitFlit}
    (hs : Kept z s) : Kept z (State.answerLost s status f) :=
  hs.framed (State.answerLost_framed (List.Subset.refl _) (Framed.refl _))

theorem State.losePort_kept {z s : State} {p_ : Nat}
    (hs : Kept z s) : Kept z (State.losePort s p_) := by
  unfold State.losePort
  repeat' (first
    | with_reducible assumption
    | with_reducible refine State.mapPort_kept ?_
    | with_reducible refine State.endCut_kept ?_
    | with_reducible refine State.freeFlit_kept ?_
    | with_reducible refine State.answerLost_kept ?_
    | with_reducible refine State.failOps_kept ?_
    | with_reducible refine State.endBcast_kept ?_
    | (fail_if_no_progress extract_lets +onlyGivenNames x
       refine cutL (p := Kept z x) ?_ ?_; subst x; rotate_left; intro hs; try clear_value x; rotate_right)
    | (fail_if_no_progress extract_lets +onlyGivenNames x
       first
       | (have hd : List _ := x; clear hd; clear_value x)
       | (have hd : Bool := x; clear hd; clear_value x)
       | (have hd : Nat := x; clear hd; clear_value x)
       | subst x)
    | fail_if_no_progress beta_reduce
    | split
    | with_reducible refine Kept.ite ?_ ?_
    | with_reducible refine Kept.foldl ?_ (fun _ hs _ => ?_)
    | ((with_reducible refine Kept.upd ?_ ?_); rotate_left; exact ⟨rfl, rfl, ⟨rfl, rfl⟩, rfl, rfl, rfl, rfl⟩)
    | dsimp only)

theorem State.portDown_kept {z s : State} {p_ : Nat} {cause : Nat}
    (hs : Kept z s) : Kept z (State.portDown s p_ cause) := by
  unfold State.portDown
  repeat' (first
    | with_reducible assumption
    | with_reducible refine State.when_kept ?_ (fun _ hs => ?_)
    | with_reducible refine State.losePort_kept ?_
    | with_reducible refine State.event_kept ?_
    | with_reducible refine State.log_kept ?_
    | with_reducible refine State.irq_kept ?_
    | with_reducible refine State.when_kept ?_ (fun _ hs => ?_)
    | with_reducible refine State.sendTrain_kept ?_
    | (fail_if_no_progress extract_lets +onlyGivenNames x
       refine cutL (p := Kept z x) ?_ ?_; subst x; rotate_left; intro hs; try clear_value x; rotate_right)
    | (fail_if_no_progress extract_lets +onlyGivenNames x
       first
       | (have hd : List _ := x; clear hd; clear_value x)
       | (have hd : Bool := x; clear hd; clear_value x)
       | (have hd : Nat := x; clear hd; clear_value x)
       | subst x)
    | fail_if_no_progress beta_reduce
    | split
    | with_reducible refine Kept.ite ?_ ?_)

theorem State.resend_kept {z s : State} {p_ : Nat}
    (hs : Kept z s) : Kept z (State.resend s p_) :=
  hs.framed (State.resend_framed (List.Subset.refl _) (Framed.refl _))

theorem State.forward_kept {z s : State} {from_ : Nat} {dest : Nat} {packet : List Byte}
    (hs : Kept z s) : Kept z (State.forward s from_ dest packet) :=
  hs.framed (State.forward_framed (List.Subset.refl _) (Framed.refl _))

theorem State.sendTree_kept {z s : State} {from_ : Nat} {src : Nat} {tag : Nat} {addr : Nat} {data : List Byte}
    (hs : Kept z s) : Kept z (State.sendTree s from_ src tag addr data) :=
  hs.framed (State.sendTree_framed (List.Subset.refl _) (Framed.refl _))

theorem State.takeBroadcast_kept {z s : State} {src : Nat} {left : Nat} {addr : Nat} {data : List Byte}
    (hs : Kept z s) : Kept z (State.takeBroadcast s src left addr data) := by
  unfold State.takeBroadcast
  repeat' (first
    | with_reducible assumption
    | with_reducible refine State.performRemote_kept ?_
    | with_reducible refine State.sendTree_kept ?_)

theorem State.takePacket_kept {z s : State} {p_ : Nat} {packet : List Byte}
    (hs : Kept z s) : Kept z (State.takePacket s p_ packet) := by
  unfold State.takePacket
  repeat' (first
    | with_reducible assumption
    | with_reducible refine State.performRemote_kept ?_
    | with_reducible refine State.forward_kept ?_
    | with_reducible refine State.completeOp_kept ?_
    | (fail_if_no_progress extract_lets +onlyGivenNames x
       refine cutL (p := Kept z x) ?_ ?_; subst x; rotate_left; intro hs; try clear_value x; rotate_right)
    | (fail_if_no_progress extract_lets +onlyGivenNames x
       first
       | (have hd : List _ := x; clear hd; clear_value x)
       | (have hd : Bool := x; clear hd; clear_value x)
       | (have hd : Nat := x; clear hd; clear_value x)
       | subst x)
    | fail_if_no_progress beta_reduce
    | split
    | with_reducible refine Kept.ite ?_ ?_)

theorem State.takeBytes_kept {z s : State} {p_ : Nat} {payload : List Byte}
    (hs : Kept z s) : Kept z (State.takeBytes s p_ payload) := by
  unfold State.takeBytes
  repeat' (first
    | with_reducible assumption
    | with_reducible refine State.mapPort_kept ?_
    | with_reducible refine State.takePacket_kept ?_
    | (fail_if_no_progress extract_lets +onlyGivenNames x
       first
       | (have hd : List _ := x; clear hd; clear_value x)
       | (have hd : Bool := x; clear hd; clear_value x)
       | (have hd : Nat := x; clear hd; clear_value x)
       | subst x)
    | with_reducible refine Kept.ite ?_ ?_)

theorem State.takeFlit_kept {z s : State} {p_ : Nat} {num : Nat} {payload : List Byte}
    (hs : Kept z s) : Kept z (State.takeFlit s p_ num payload) := by
  unfold State.takeFlit
  repeat' (first
    | with_reducible assumption
    | with_reducible refine State.when_kept ?_ (fun _ hs => ?_)
    | with_reducible refine State.mapPort_kept ?_
    | with_reducible refine State.passFlit_kept ?_
    | with_reducible refine State.when_kept ?_ (fun _ hs => ?_)
    | with_reducible refine State.takeBytes_kept ?_
    | with_reducible refine State.passOn_kept ?_
    | with_reducible refine State.emit_kept ?_
    | (fail_if_no_progress extract_lets +onlyGivenNames x
       refine cutL (p := Kept z x) ?_ ?_; subst x; rotate_left; intro hs; try clear_value x; rotate_right)
    | (fail_if_no_progress extract_lets +onlyGivenNames x
       first
       | (have hd : List _ := x; clear hd; clear_value x)
       | (have hd : Bool := x; clear hd; clear_value x)
       | (have hd : Nat := x; clear hd; clear_value x)
       | subst x)
    | fail_if_no_progress beta_reduce
    | split
    | with_reducible refine Kept.ite ?_ ?_
    | dsimp only)

theorem State.remoteArrives_kept {z s : State} {op : Nat} {src : Nat} {tag : Nat} {addr : Nat} {len : Nat} {fault : Nat} {data : List Byte}
    (hs : Kept z s) : Kept z (State.remoteArrives s op src tag addr len fault data) := by
  unfold State.remoteArrives
  repeat' (first
    | with_reducible assumption
    | with_reducible refine State.performRemote_kept ?_
    | with_reducible refine State.forward_kept ?_
    | with_reducible refine Kept.ite ?_ ?_)

theorem State.releaseBarrier_kept {z s : State} 
    (hs : Kept z s) : Kept z (State.releaseBarrier s) :=
  hs.framed (State.releaseBarrier_framed (List.Subset.refl _) (Framed.refl _))

theorem State.gatherBarrier_kept {z s : State} 
    (hs : Kept z s) : Kept z (State.gatherBarrier s) :=
  hs.framed (State.gatherBarrier_framed (List.Subset.refl _) (Framed.refl _))

theorem State.enterBarrier_kept {z s : State} 
    (hs : Kept z s) : Kept z (State.enterBarrier s) :=
  hs.framed (State.enterBarrier_framed (List.Subset.refl _) (Framed.refl _))

theorem State.bcastPiece_kept {z s : State} {src : Nat} {dst : Nat} {n : Nat} {left : Nat}
    (hs : Kept z s) : Kept z (State.bcastPiece s src dst n left) :=
  hs.framed (State.bcastPiece_framed (List.Subset.refl _) (Framed.refl _))

theorem State.pumpBcast_kept {z s : State} {q0 : List (Nat × Nat × Nat × Nat)}
    (hs : Kept z s) : Kept z (State.pumpBcast s q0) :=
  hs.framed (State.pumpBcast_framed (List.Subset.refl _) (Framed.refl _))

theorem State.startBcast_kept {z s : State}
    (hs : Kept z s) : Kept z (State.startBcast s) := by
  unfold State.startBcast
  repeat' (first
    | with_reducible assumption
    | with_reducible refine State.klEvent_kept ?_
    | with_reducible refine State.checkUses_kept ?_
    | with_reducible refine State.noteStalls_kept ?_
    | with_reducible refine State.pumpBcast_kept ?_
    | (fail_if_no_progress extract_lets +onlyGivenNames x
       refine cutL (p := Kept z x) ?_ ?_; subst x; rotate_left; intro hs; try clear_value x; rotate_right)
    | (fail_if_no_progress extract_lets +onlyGivenNames x
       first
       | (have hd : List _ := x; clear hd; clear_value x)
       | (have hd : Bool := x; clear hd; clear_value x)
       | (have hd : Nat := x; clear hd; clear_value x)
       | subst x)
    | fail_if_no_progress beta_reduce
    | split
    | with_reducible refine Kept.ite ?_ ?_
    | ((with_reducible refine Kept.upd ?_ ?_); rotate_left; exact ⟨rfl, rfl, ⟨rfl, rfl⟩, rfl, rfl, rfl, rfl⟩))

theorem State.takeSnapReq_kept {z s : State} {j : Nat}
    (hs : Kept z s) : Kept z (State.takeSnapReq s j) :=
  hs.framed (State.takeSnapReq_framed (List.Subset.refl _) (Framed.refl _))

theorem State.startSnap_kept {z s : State}
    (hs : Kept z s) : Kept z (State.startSnap s) := by
  unfold State.startSnap
  repeat' (first
    | with_reducible assumption
    | with_reducible refine State.klEvent_kept ?_
    | with_reducible refine State.checkUses_kept ?_
    | with_reducible refine State.takeSnapReq_kept ?_
    | (fail_if_no_progress extract_lets +onlyGivenNames x
       refine cutL (p := Kept z x) ?_ ?_; subst x; rotate_left; intro hs; try clear_value x; rotate_right)
    | (fail_if_no_progress extract_lets +onlyGivenNames x
       first
       | (have hd : List _ := x; clear hd; clear_value x)
       | (have hd : Bool := x; clear hd; clear_value x)
       | (have hd : Nat := x; clear hd; clear_value x)
       | subst x)
    | fail_if_no_progress beta_reduce
    | split
    | with_reducible refine Kept.ite ?_ ?_
    | ((with_reducible refine Kept.upd ?_ ?_); rotate_left; exact ⟨rfl, rfl, ⟨rfl, rfl⟩, rfl, rfl, rfl, rfl⟩))

theorem State.passFlood_kept {z s : State} {except : Nat} {seq : Nat} {reset : Bool}
    (hs : Kept z s) : Kept z (State.passFlood s except seq reset) :=
  hs.framed (State.passFlood_framed (List.Subset.refl _) (Framed.refl _))

theorem State.floodActs_kept {z s : State} {reset : Bool}
    (hs : Kept z s) : Kept z (State.floodActs s reset) := by
  unfold State.floodActs
  repeat' (first
    | with_reducible assumption
    | with_reducible refine State.haltNow_kept ?_
    | with_reducible refine State.losePort_kept ?_
    | with_reducible refine State.sendTrains_kept ?_
    | (fail_if_no_progress extract_lets +onlyGivenNames x
       refine cutL (p := Kept z x) ?_ ?_; subst x; rotate_left; intro hs; try clear_value x; rotate_right)
    | (fail_if_no_progress extract_lets +onlyGivenNames x
       first
       | (have hd : List _ := x; clear hd; clear_value x)
       | (have hd : Bool := x; clear hd; clear_value x)
       | (have hd : Nat := x; clear hd; clear_value x)
       | subst x)
    | fail_if_no_progress beta_reduce
    | split
    | with_reducible refine Kept.ite ?_ ?_
    | with_reducible refine Kept.foldl ?_ (fun _ hs _ => ?_)
    | ((with_reducible refine Kept.upd ?_ ?_); rotate_left; exact ⟨rfl, rfl, ⟨rfl, rfl⟩, rfl, rfl, rfl, rfl⟩))

theorem State.takeFlood_kept {z s : State} {port : Nat} {seq : Nat} {reset : Bool}
    (hs : Kept z s) : Kept z (State.takeFlood s port seq reset) := by
  unfold State.takeFlood
  repeat' (first
    | with_reducible assumption
    | with_reducible refine State.klEvent_kept ?_
    | with_reducible refine State.passFlood_kept ?_
    | with_reducible refine State.floodActs_kept ?_
    | (fail_if_no_progress extract_lets +onlyGivenNames x
       refine cutL (p := Kept z x) ?_ ?_; subst x; rotate_left; intro hs; try clear_value x; rotate_right)
    | with_reducible refine Kept.ite ?_ ?_
    | ((with_reducible refine Kept.upd ?_ ?_); rotate_left; exact ⟨rfl, rfl, ⟨rfl, rfl⟩, rfl, rfl, rfl, rfl⟩))

theorem State.startFlood_kept {z s : State} {reset : Bool}
    (hs : Kept z s) : Kept z (State.startFlood s reset) := by
  unfold State.startFlood
  repeat' (first
    | with_reducible assumption
    | with_reducible refine State.passFlood_kept ?_
    | with_reducible refine State.floodActs_kept ?_
    | ((with_reducible refine Kept.upd ?_ ?_); rotate_left; exact ⟨rfl, rfl, ⟨rfl, rfl⟩, rfl, rfl, rfl, rfl⟩))

theorem State.pllLost_kept {z s : State} {n : Nat}
    (hs : Kept z s) : Kept z (State.pllLost s n) :=
  hs.framed (State.pllLost_framed (List.Subset.refl _) (Framed.refl _))

theorem State.pumpFront_kept {z s : State}
    (hs : Kept z s) : Kept z (State.pumpFront s) := by
  unfold State.pumpFront
  repeat' (first
    | with_reducible assumption
    | with_reducible refine State.when_kept ?_ (fun _ hs => ?_)
    | with_reducible refine State.pumpCommit_kept ?_
    | with_reducible refine State.pumpStalled_kept ?_
    | with_reducible refine State.drainReads_kept ?_
    | with_reducible refine State.pumpKeyins_kept ?_
    | with_reducible refine State.pumpFetch_kept ?_
    | with_reducible refine State.when_kept ?_ (fun _ hs => ?_)
    | with_reducible refine State.pumpBcast_kept ?_
    | with_reducible refine State.pumpSnapshot_kept ?_
    | (fail_if_no_progress extract_lets +onlyGivenNames x
       refine cutL (p := Kept z x) ?_ ?_; subst x; rotate_left; intro hs; try clear_value x; rotate_right)
    | (fail_if_no_progress extract_lets +onlyGivenNames x
       first
       | (have hd : List _ := x; clear hd; clear_value x)
       | (have hd : Bool := x; clear hd; clear_value x)
       | (have hd : Nat := x; clear hd; clear_value x)
       | subst x)
    | fail_if_no_progress beta_reduce
    | with_reducible refine Kept.foldl ?_ (fun _ hs _ => ?_))

theorem State.placeImage_kept {z s : State} {i_ : Image} {d : Die}
    (hs : Kept z s) : Kept z (State.placeImage s i_ d) := by
  unfold State.placeImage
  repeat' (first
    | with_reducible assumption
    | with_reducible refine State.storeWin_kept ?_
    | with_reducible refine Kept.foldl ?_ (fun _ hs _ => ?_))

theorem State.damage_kept {z s : State} {i_ : Image}
    (hs : Kept z s) : Kept z (State.damage s i_) := by
  unfold State.damage
  repeat' (first
    | with_reducible assumption
    | with_reducible refine State.storeWin_kept ?_
    | with_reducible refine State.freeBytes_kept ?_
    | with_reducible refine Kept.foldl ?_ (fun _ hs _ => ?_)
    | (fail_if_no_progress extract_lets +onlyGivenNames x
       refine cutL (p := Kept z x) ?_ ?_; subst x; rotate_left; intro hs; try clear_value x; rotate_right)
    | ((with_reducible refine Kept.upd ?_ ?_); rotate_left; exact ⟨rfl, rfl, ⟨rfl, rfl⟩, rfl, rfl, rfl, rfl⟩))

theorem State.startLoad_kept {z s : State}
    (hs : Kept z s) : Kept z (State.startLoad s) := by
  unfold State.startLoad
  repeat' (first
    | with_reducible assumption
    | with_reducible refine State.checkUses_kept ?_
    | with_reducible refine State.setReg_kept ?_
    | (fail_if_no_progress extract_lets +onlyGivenNames x
       refine cutL (p := Kept z x) ?_ ?_; subst x; rotate_left; intro hs; try clear_value x; rotate_right)
    | (fail_if_no_progress extract_lets +onlyGivenNames x
       first
       | (have hd : List _ := x; clear hd; clear_value x)
       | (have hd : Bool := x; clear hd; clear_value x)
       | (have hd : Nat := x; clear hd; clear_value x)
       | subst x)
    | fail_if_no_progress beta_reduce
    | split
    | with_reducible refine Kept.ite ?_ ?_
    | ((with_reducible refine Kept.upd ?_ ?_); rotate_left; exact ⟨rfl, rfl, ⟨rfl, rfl⟩, rfl, rfl, rfl, rfl⟩))

theorem State.loadEnds_kept {z s : State} {code : Nat} {section_ : Nat} {item : Nat}
    (hs : Kept z s) : Kept z (State.loadEnds s code section_ item) :=
  hs.framed (State.loadEnds_framed (List.Subset.refl _) (Framed.refl _))

theorem State.passTwo_kept {z s : State} {l : Loading} {i : Image} {ue : Nat}
    (hs : Kept z s) : Kept z (State.passTwo s l i ue).1 := by
  unfold State.passTwo
  repeat' (first
    | with_reducible assumption
    | with_reducible refine State.when_kept ?_ (fun _ hs => ?_)
    | with_reducible refine State.damage_kept ?_
    | with_reducible refine State.when_kept ?_ (fun _ hs => ?_)
    | with_reducible refine State.sourceUe_kept ?_
    | with_reducible refine State.placeImage_kept ?_
    | split
    | with_reducible refine Kept.ite ?_ ?_
    | with_reducible refine Kept.foldl ?_ (fun _ hs _ => ?_))

theorem State.passTwo_kept_eq {z s tt : State} {pr : Nat} {l : Loading} {i : Image} {ue : Nat}
    (he : (State.passTwo s l i ue) = (tt, pr)) (hs : Kept z s) : Kept z tt := by
  have := State.passTwo_kept (l := l) (i := i) (ue := ue) hs
  rw [he] at this; exact this

theorem State.resetProfile_kept {z s : State} 
    (hs : Kept z s) : Kept z (State.resetProfile s) :=
  hs.framed (State.resetProfile_framed (List.Subset.refl _) (Framed.refl _))

theorem State.setBootError_kept {z s : State} {code : Nat}
    (hs : Kept z s) : Kept z (State.setBootError s code) :=
  hs.framed (State.setBootError_framed (List.Subset.refl _) (Framed.refl _))

theorem State.trainDram_kept {z s : State} {d : Die}
    (hs : Kept z s) : Kept z (State.trainDram s d) :=
  hs.framed (State.trainDram_framed (List.Subset.refl _) (Framed.refl _))

theorem State.release__kept {z s : State} {haltLow : Bool}
    (hs : Kept z s) : Kept z (State.release_ s haltLow) :=
  hs.framed (State.release__framed (List.Subset.refl _) (Framed.refl _))

theorem State.bootFrom_kept {z s : State} {bootsel : Nat} {testMode : Bool} {flashError : Nat} {container : List Byte}
    (hs : Kept z s) : Kept z (State.bootFrom s bootsel testMode flashError container) :=
  hs.framed (State.bootFrom_framed (List.Subset.refl _) (Framed.refl _))

theorem State.flushIrqs_kept {z s : State}
    (hs : Kept z s) : Kept z (State.flushIrqs s) :=
  hs.framed (State.flushIrqs_framed (List.Subset.refl _) (Framed.refl _))

theorem State.linkLost_kept {z s : State} 
    (hs : Kept z s) : Kept z (State.linkLost s) :=
  hs.framed (State.linkLost_framed (List.Subset.refl _) (Framed.refl _))

theorem State.abortLoad_kept {z s : State} {step : Nat}
    (hs : Kept z s) : Kept z (State.abortLoad s step) := by
  unfold State.abortLoad
  repeat' (first
    | with_reducible assumption
    | with_reducible refine State.damage_kept ?_
    | with_reducible refine State.loadEnds_kept ?_
    | (fail_if_no_progress extract_lets +onlyGivenNames x
       refine cutL (p := Kept z x) ?_ ?_; subst x; rotate_left; intro hs; try clear_value x; rotate_right)
    | (fail_if_no_progress extract_lets +onlyGivenNames x
       first
       | (have hd : List _ := x; clear hd; clear_value x)
       | (have hd : Bool := x; clear hd; clear_value x)
       | (have hd : Nat := x; clear hd; clear_value x)
       | subst x)
    | fail_if_no_progress beta_reduce
    | split
    | with_reducible refine Kept.ite ?_ ?_
    | dsimp only)

theorem State.resetFunction_kept {z s : State} (hs : Kept z s) : Kept z s.resetFunction := by
  unfold State.resetFunction
  extract_lets issued t u
  have ht : Kept z t := hs.framed (State.mend_framed (List.Subset.refl _) (Framed.refl _))
  have hu : Kept z u := State.when_kept ht fun _ h => Kept.foldl h fun _ h _ =>
    h.framed (State.selfRefresh_framed (List.Subset.refl _) (Framed.refl _))
  clear_value u
  refine State.dropOps_kept (hu.trans ?_)
  exact ⟨fun i => ⟨i.mem, i.depSlice, i.slices, Nat.zero_le _, i.safe, i.otp⟩, fun _ => otpGrows.refl _, id, by
    simp [devMoves]⟩

theorem State.pushFirmware_kept {z s : State} 
    (hs : Kept z s) : Kept z (State.pushFirmware s) :=
  hs.framed (State.pushFirmware_framed (List.Subset.refl _) (Framed.refl _))

theorem State.otpResult_kept {z s : State} {code : Nat}
    (hs : Kept z s) : Kept z (State.otpResult s code) :=
  hs.framed (State.otpResult_framed (List.Subset.refl _) (Framed.refl _))

theorem State.bistGo_kept {z s : State} {dies : Nat} {kind : Nat}
    (hs : Kept z s) : Kept z (State.bistGo s dies kind) :=
  hs.framed (State.bistGo_framed (List.Subset.refl _) (Framed.refl _))

theorem State.bistCommand_kept {z s : State} {v : Word}
    (hs : Kept z s) : Kept z (State.bistCommand s v) :=
  hs.framed (State.bistCommand_framed (List.Subset.refl _) (Framed.refl _))

theorem State.wakeDies_kept {z s : State}
    (hs : Kept z s) : Kept z (State.wakeDies s) := by
  unfold State.wakeDies
  repeat' (first
    | with_reducible assumption
    | with_reducible refine State.setDie_kept ?_ (fun i => ?_)
    | with_reducible exact Kept.die (by assumption) (by assumption) _
    | with_reducible refine Kept.die ?_ (by assumption) _
    | (with_reducible refine show rising _ from ?_; simp; with_reducible refine Kept.die ?_ (by assumption) _)
    | with_reducible refine State.initSram_kept ?_
    | with_reducible refine State.lockDie_kept ?_
    | with_reducible refine State.selfRefresh_kept ?_
    | with_reducible refine State.placeImage_kept ?_
    | (fail_if_no_progress extract_lets +onlyGivenNames x
       refine cutL (p := Kept z x) ?_ ?_; subst x; rotate_left; intro hs; try clear_value x; rotate_right)
    | (fail_if_no_progress extract_lets +onlyGivenNames x
       first
       | (have hd : List _ := x; clear hd; clear_value x)
       | (have hd : Bool := x; clear hd; clear_value x)
       | (have hd : Nat := x; clear hd; clear_value x)
       | subst x)
    | fail_if_no_progress beta_reduce
    | split
    | with_reducible refine Kept.ite ?_ ?_
    | with_reducible refine Kept.foldl ?_ (fun _ hs _ => ?_)
    | ((with_reducible refine Kept.upd ?_ ?_); rotate_left; exact ⟨rfl, rfl, ⟨rfl, rfl⟩, rfl, rfl, rfl, rfl⟩)
    | dsimp only)

theorem State.retireFound_kept {z s : State} {fails : List BistFail} {now_ : Bool} {pool : Bool} {d : Die}
    (hs : Kept z s) : Kept z (State.retireFound s fails now_ pool d) := by
  unfold State.retireFound
  repeat' (first
    | with_reducible assumption
    | with_reducible refine State.setDie_kept ?_ (fun i => ?_)
    | with_reducible exact Kept.die (by assumption) (by assumption) _
    | with_reducible refine Kept.die ?_ (by assumption) _
    | (with_reducible refine show rising _ from ?_; simp; with_reducible refine Kept.die ?_ (by assumption) _)
    | with_reducible refine State.retireRows_kept ?_
    | with_reducible refine State.changeCes_kept ?_
    | (fail_if_no_progress extract_lets +onlyGivenNames x
       refine cutL (p := Kept z x) ?_ ?_; subst x; rotate_left; intro hs; try clear_value x; rotate_right)
    | (fail_if_no_progress extract_lets +onlyGivenNames x
       first
       | (have hd : List _ := x; clear hd; clear_value x)
       | (have hd : Bool := x; clear hd; clear_value x)
       | (have hd : Nat := x; clear hd; clear_value x)
       | subst x)
    | fail_if_no_progress beta_reduce
    | split
    | with_reducible refine Kept.ite ?_ ?_
    | ((with_reducible refine Kept.upd ?_ ?_); rotate_left; exact ⟨rfl, rfl, ⟨rfl, rfl⟩, rfl, rfl, rfl, rfl⟩))

theorem State.endRecovery_kept {z s : State} {step : Nat} {result : Nat}
    (hs : Kept z s) : Kept z (State.endRecovery s step result) := by
  unfold State.endRecovery
  repeat' (first
    | with_reducible assumption
    | with_reducible refine State.setReg_kept ?_
    | with_reducible refine State.log_kept ?_
    | with_reducible refine State.popCmd_kept ?_
    | (fail_if_no_progress extract_lets +onlyGivenNames x
       refine cutL (p := Kept z x) ?_ ?_; subst x; rotate_left; intro hs; try clear_value x; rotate_right)
    | (fail_if_no_progress extract_lets +onlyGivenNames x
       first
       | (have hd : List _ := x; clear hd; clear_value x)
       | (have hd : Bool := x; clear hd; clear_value x)
       | (have hd : Nat := x; clear hd; clear_value x)
       | subst x)
    | with_reducible refine Kept.ite ?_ ?_
    | ((with_reducible refine Kept.upd ?_ ?_); rotate_left; exact ⟨rfl, rfl, ⟨rfl, rfl⟩, rfl, rfl, rfl, rfl⟩))

theorem State.bistResult_kept {z s : State} {run : BistRun} {ms : Nat} {macros : Nat} {fails : List BistFail}
    (hs : Kept z s) : Kept z (State.bistResult s run ms macros fails) :=
  hs.framed (State.bistResult_framed (List.Subset.refl _) (Framed.refl _))

theorem State.forceOff_kept {z s : State} {d : Die}
    (hs : Kept z s) : Kept z (State.forceOff s d) :=
  hs.framed (State.forceOff_framed (List.Subset.refl _) (Framed.refl _))

theorem State.serveDie_kept {z s : State} {d : Die}
    (hs : Kept z s) : Kept z (State.serveDie s d) :=
  hs.framed (State.serveDie_framed (List.Subset.refl _) (Framed.refl _))

theorem State.reportLost_kept {z s : State}
    (hs : Kept z s) : Kept z (State.reportLost s) :=
  hs.framed (State.reportLost_framed (List.Subset.refl _) (Framed.refl _))

theorem State.readEntry_kept {z s : State} {lo : Word} {ue : Bool}
    (hs : Kept z s) : Kept z (State.readEntry s lo ue) :=
  hs.framed (State.readEntry_framed (List.Subset.refl _) (Framed.refl _))

theorem State.startDump_kept {z s : State} 
    (hs : Kept z s) : Kept z (State.startDump s) :=
  hs.framed (State.startDump_framed (List.Subset.refl _) (Framed.refl _))

theorem State.putWord_kept {z s : State} {o : Nat} {v : Word}
    (hs : Kept z s) : Kept z (State.putWord s o v) :=
  hs.framed (State.putWord_framed (List.Subset.refl _) (Framed.refl _))

theorem State.putChannel_kept {z s : State} {o : Nat} {v : Word}
    (hs : Kept z s) : Kept z (State.putChannel s o v) :=
  hs.framed (State.putChannel_framed (List.Subset.refl _) (Framed.refl _))

theorem State.putRw_kept {z s : State} {o : Nat} {v : Word}
    (hs : Kept z s) : Kept z (State.putRw s o v) :=
  hs.framed (State.putRw_framed (List.Subset.refl _) (Framed.refl _))

theorem State.shadow_kept {z s : State} {o : Nat} {mask : Word} {v : Word}
    (hs : Kept z s) : Kept z (State.shadow s o mask v) :=
  hs.framed (State.shadow_framed (List.Subset.refl _) (Framed.refl _))

theorem State.pulse_kept {z s : State} {o : Nat} {p_ : Word}
    (hs : Kept z s) : Kept z (State.pulse s o p_) := by
  unfold State.pulse
  repeat' (first
    | with_reducible assumption
    | with_reducible refine State.pushCmd_kept ?_
    | with_reducible refine State.startSync_kept ?_
    | with_reducible refine State.dropPending_kept ?_
    | with_reducible refine State.chanCtrl_kept ?_
    | with_reducible refine State.softSelect_kept ?_
    | with_reducible refine State.softIhaul_kept ?_
    | with_reducible refine State.hostSafe_kept ?_
    | with_reducible refine State.enterBarrier_kept ?_
    | with_reducible refine State.startBcast_kept ?_
    | with_reducible refine State.startSnap_kept ?_
    | with_reducible refine State.startFlood_kept ?_
    | with_reducible refine State.startLoad_kept ?_
    | with_reducible refine State.pushFirmware_kept ?_
    | with_reducible refine State.pushFlash_kept ?_
    | with_reducible refine State.attest_kept ?_
    | with_reducible refine State.bistGo_kept ?_
    | with_reducible refine State.startDump_kept ?_
    | with_reducible refine State.when_kept ?_ (fun _ hs => ?_)
    | (fail_if_no_progress extract_lets +onlyGivenNames x
       refine cutL (p := Kept z x) ?_ ?_; subst x; rotate_left; intro hs; try clear_value x; rotate_right)
    | with_reducible refine Kept.ite ?_ ?_
    | split)

theorem State.putWo_kept {z s : State} {o : Nat} {v : Word}
    (hs : Kept z s) : Kept z (State.putWo s o v) := by
  unfold State.putWo
  repeat' (first
    | with_reducible assumption
    | with_reducible refine State.pushCmd_kept ?_
    | with_reducible refine State.ringDoorbell_kept ?_
    | with_reducible refine State.otpCommand_kept ?_
    | with_reducible refine Kept.ite ?_ ?_)

theorem State.putReg_kept {z s : State} {r : RegDef} {o : Nat} {at_ : Nat} {v : Word} {act : Word} {fire : Word} {pulses : Word}
    (hs : Kept z s) : Kept z (State.putReg s r o at_ v act fire pulses) := by
  unfold State.putReg
  repeat' (first
    | with_reducible assumption
    | with_reducible refine State.recordAccess_kept ?_
    | with_reducible refine State.putWord_kept ?_
    | with_reducible refine State.putRw_kept ?_
    | with_reducible refine State.shadow_kept ?_
    | with_reducible refine State.pulse_kept ?_
    | with_reducible refine State.putWo_kept ?_
    | with_reducible refine State.when_kept ?_ (fun _ hs => ?_))

theorem State.aliasWrite_kept {z s : State} {a : Nat} {w : Word}
    (hs : Kept z s) : Kept z (State.aliasWrite s a w) := by
  unfold State.aliasWrite
  repeat' (first
    | with_reducible assumption
    | with_reducible refine State.recordAccess_kept ?_
    | with_reducible refine State.putReg_kept ?_
    | with_reducible refine State.reach_kept ?_ (fun _ => ?_)
    | (fail_if_no_progress extract_lets +onlyGivenNames x
       first
       | (have hd : List _ := x; clear hd; clear_value x)
       | (have hd : Bool := x; clear hd; clear_value x)
       | (have hd : Nat := x; clear hd; clear_value x)
       | subst x)
    | with_reducible refine Kept.ite ?_ ?_
    | split)

theorem State.windowBitWrite_kept {z s : State} {a : Nat} {w : Word}
    (hs : Kept z s) : Kept z (State.windowBitWrite s a w) := by
  unfold State.windowBitWrite
  repeat' (first
    | with_reducible assumption
    | with_reducible refine State.recordAccess_kept ?_
    | with_reducible refine State.putReg_kept ?_
    | with_reducible refine State.reach_kept ?_ (fun _ => ?_)
    | with_reducible refine Kept.ite ?_ ?_)

theorem State.write4_kept {z s : State} {a : Nat} {w : Word}
    (hs : Kept z s) : Kept z (State.write4 s a w) := by
  unfold State.write4
  repeat' (first
    | with_reducible assumption
    | with_reducible refine State.putReg_kept ?_
    | with_reducible refine State.reach_kept ?_ (fun _ => ?_)
    | with_reducible refine State.aliasWrite_kept ?_
    | with_reducible refine State.windowBitWrite_kept ?_
    | with_reducible refine Kept.ite ?_ ?_)

theorem State.readWord_kept {z s : State} {o : Nat} {clear : Word}
    (hs : Kept z s) : Kept z (State.readWord s o clear).2 := by
  unfold State.readWord
  repeat' (first
    | with_reducible assumption
    | with_reducible refine State.when_kept ?_ (fun _ hs => ?_)
    | with_reducible refine State.checkParity_kept ?_
    | with_reducible refine State.when_kept ?_ (fun _ hs => ?_)
    | with_reducible refine State.setReg_kept ?_
    | (fail_if_no_progress extract_lets +onlyGivenNames x
       refine cutL (p := Kept z x) ?_ ?_; subst x; rotate_left; intro hs; try clear_value x; rotate_right)
    | (fail_if_no_progress extract_lets +onlyGivenNames x
       first
       | (have hd : List _ := x; clear hd; clear_value x)
       | (have hd : Bool := x; clear hd; clear_value x)
       | (have hd : Nat := x; clear hd; clear_value x)
       | subst x)
    | fail_if_no_progress beta_reduce
    | split
    | with_reducible refine Kept.ite ?_ ?_
    | ((with_reducible refine Kept.upd ?_ ?_); rotate_left; exact ⟨rfl, rfl, ⟨rfl, rfl⟩, rfl, rfl, rfl, rfl⟩)
    | dsimp only)

theorem State.readWord_kept_eq {z s tt : State} {pr : Word} {o : Nat} {clear : Word}
    (he : (State.readWord s o clear) = (pr, tt)) (hs : Kept z s) : Kept z tt := by
  have := State.readWord_kept (o := o) (clear := clear) hs
  rw [he] at this; exact this

theorem State.readAt_kept {z s : State} {o : Nat} {at_ : Nat} {clear : Word}
    (hs : Kept z s) : Kept z (State.readAt s o at_ clear).2 := by
  unfold State.readAt
  repeat' (first
    | with_reducible assumption
    | with_reducible refine State.readWord_kept ?_
    | with_reducible exact State.readWord_kept_eq (by assumption) (by assumption)
    | with_reducible refine State.recordAccess_kept ?_
    | split
    | with_reducible refine Kept.ite ?_ ?_)

theorem State.readAt_kept_eq {z s tt : State} {pr : Word} {o : Nat} {at_ : Nat} {clear : Word}
    (he : (State.readAt s o at_ clear) = (pr, tt)) (hs : Kept z s) : Kept z tt := by
  have := State.readAt_kept (o := o) (at_ := at_) (clear := clear) hs
  rw [he] at this; exact this

theorem State.read4_kept {z s : State} {a : Nat}
    (hs : Kept z s) : Kept z (State.read4 s a).2 := by
  unfold State.read4
  repeat' (first
    | with_reducible assumption
    | with_reducible refine State.readAt_kept ?_
    | with_reducible exact State.readAt_kept_eq (by assumption) (by assumption)
    | with_reducible refine State.recordAccess_kept ?_
    | (fail_if_no_progress extract_lets +onlyGivenNames x
       refine cutL (p := Kept z x) ?_ ?_; subst x; rotate_left; intro hs; try clear_value x; rotate_right)
    | (fail_if_no_progress extract_lets +onlyGivenNames x
       first
       | (have hd : List _ := x; clear hd; clear_value x)
       | (have hd : Bool := x; clear hd; clear_value x)
       | (have hd : Nat := x; clear hd; clear_value x)
       | subst x)
    | fail_if_no_progress beta_reduce
    | split
    | with_reducible refine Kept.ite ?_ ?_
    | dsimp only)

theorem State.read4_kept_eq {z s tt : State} {pr : Word} {a : Nat}
    (he : (State.read4 s a) = (pr, tt)) (hs : Kept z s) : Kept z tt := by
  have := State.read4_kept (a := a) hs
  rw [he] at this; exact this

theorem State.writeWord_kept {z s : State} {a : Nat} {size : Nat} {be : Nat} {w : Word}
    (hs : Kept z s) : Kept z (State.writeWord s a size be w) := by
  unfold State.writeWord
  repeat' (first
    | with_reducible assumption
    | with_reducible refine State.recordAccess_kept ?_
    | with_reducible refine State.write4_kept ?_
    | (fail_if_no_progress extract_lets +onlyGivenNames x
       first
       | (have hd : List _ := x; clear hd; clear_value x)
       | (have hd : Bool := x; clear hd; clear_value x)
       | (have hd : Nat := x; clear hd; clear_value x)
       | subst x)
    | with_reducible refine Kept.ite ?_ ?_)

theorem State.busWrite_kept {z s : State} {a : Nat} {size : Nat} {be : Nat} {lo : Word} {hi : Word}
    (hs : Kept z s) : Kept z (State.busWrite s a size be lo hi) := by
  unfold State.busWrite
  repeat' (first
    | with_reducible assumption
    | with_reducible refine State.writeWord_kept ?_
    | with_reducible refine Kept.ite ?_ ?_)

theorem State.readOut_kept {z s : State} {a : Nat} {size : Nat} {be : Nat}
    (hs : Kept z s) : Kept z (State.readOut s a size be) := by
  unfold State.readOut
  repeat' (first
    | with_reducible assumption
    | with_reducible refine State.read4_kept ?_
    | with_reducible exact State.read4_kept_eq (by assumption) (by assumption)
    | with_reducible refine State.emit_kept ?_
    | with_reducible refine State.recordAccess_kept ?_
    | (fail_if_no_progress extract_lets +onlyGivenNames x
       refine cutL (p := Kept z x) ?_ ?_; subst x; rotate_left; intro hs; try clear_value x; rotate_right)
    | (fail_if_no_progress extract_lets +onlyGivenNames x
       first
       | (have hd : List _ := x; clear hd; clear_value x)
       | (have hd : Bool := x; clear hd; clear_value x)
       | (have hd : Nat := x; clear hd; clear_value x)
       | subst x)
    | fail_if_no_progress beta_reduce
    | split
    | with_reducible refine Kept.ite ?_ ?_
    | dsimp only)

theorem State.busRead_kept {z s : State} {a : Nat} {size : Nat} {be : Nat}
    (hs : Kept z s) : Kept z (State.busRead s a size be) := by
  unfold State.busRead
  repeat' (first
    | with_reducible assumption
    | with_reducible refine State.readOut_kept ?_
    | split
    | with_reducible refine Kept.ite ?_ ?_)

end Sys2Proof.Machine
end

