-- ==== Sys2Proof/Laws/State.lean ====
section
/-! SUPPORT. The fields of the state under each update, and what a register reads as after a write. -/

set_option Elab.async false

namespace Sys2Proof.Machine
open Sys2Proof

/-- What a list with one changed entry holds. -/
theorem getD_modifyD {α : Type} (d : α) (f : α → α) (n : Nat) (l : List α) (k : Nat) :
    (modifyD d f n l).getD k d = if k = n then f (l.getD n d) else l.getD k d := by
  simp only [List.getD_eq_getElem?_getD]
  induction n generalizing l k with
  | zero => cases l <;> cases k <;> simp [modifyD]
  | succ n ih => cases l <;> cases k <;> simp [modifyD, ih]

theorem getD_setD {α : Type} (d v : α) (n : Nat) (l : List α) (k : Nat) :
    (setD d n v l).getD k d = if k = n then v else l.getD k d := getD_modifyD d _ n l k

@[simp] theorem State.mapChan_chan (s : State) (i : Nat) (f : Chan → Chan) (k : Nat) :
    (s.mapChan i f).chan k = if k = i then f (s.chan i) else s.chan k := getD_modifyD _ f i s.chans k

@[simp] theorem State.setReg_pending (s : State) (o : Nat) (v : Word) : (s.setReg o v).pending = s.pending := rfl
@[simp] theorem State.setReg_free (s : State) (o : Nat) (v : Word) : (s.setReg o v).free = s.free := rfl
@[simp] theorem State.setReg_dev (s : State) (o : Nat) (v : Word) : (s.setReg o v).dev = s.dev := rfl
@[simp] theorem State.setReg_now (s : State) (o : Nat) (v : Word) : (s.setReg o v).now = s.now := rfl
@[simp] theorem State.setReg_timeOn (s : State) (o : Nat) (v : Word) : (s.setReg o v).timeOn = s.timeOn := rfl
@[simp] theorem State.setReg_ticked (s : State) (o : Nat) (v : Word) : (s.setReg o v).ticked = s.ticked := rfl
@[simp] theorem State.setReg_seed (s : State) (o : Nat) (v : Word) : (s.setReg o v).seed = s.seed := rfl
@[simp] theorem State.setReg_latches (s : State) (o : Nat) (v : Word) : (s.setReg o v).latches = s.latches := rfl
@[simp] theorem State.setReg_sh (s : State) (o : Nat) (v : Word) : (s.setReg o v).sh = s.sh := rfl
@[simp] theorem State.setReg_badRegs (s : State) (o : Nat) (v : Word) : (s.setReg o v).badRegs = s.badRegs := rfl
@[simp] theorem State.setReg_mem (s : State) (o : Nat) (v : Word) : (s.setReg o v).mem = s.mem := rfl
@[simp] theorem State.setReg_sys (s : State) (o : Nat) (v : Word) : (s.setReg o v).sys = s.sys := rfl
@[simp] theorem State.setReg_tick (s : State) (o : Nat) (v : Word) : (s.setReg o v).tick = s.tick := rfl
@[simp] theorem State.setReg_plan (s : State) (o : Nat) (v : Word) : (s.setReg o v).plan = s.plan := rfl
@[simp] theorem State.setReg_world (s : State) (o : Nat) (v : Word) : (s.setReg o v).world = s.world := rfl
@[simp] theorem State.setReg_d0 (s : State) (o : Nat) (v : Word) : (s.setReg o v).d0 = s.d0 := rfl
@[simp] theorem State.setReg_d1 (s : State) (o : Nat) (v : Word) : (s.setReg o v).d1 = s.d1 := rfl
@[simp] theorem State.setReg_image (s : State) (o : Nat) (v : Word) : (s.setReg o v).image = s.image := rfl
@[simp] theorem State.setReg_damaged (s : State) (o : Nat) (v : Word) : (s.setReg o v).damaged = s.damaged := rfl
@[simp] theorem State.setReg_loading (s : State) (o : Nat) (v : Word) : (s.setReg o v).loading = s.loading := rfl
@[simp] theorem State.setReg_chans (s : State) (o : Nat) (v : Word) : (s.setReg o v).chans = s.chans := rfl
@[simp] theorem State.setReg_host (s : State) (o : Nat) (v : Word) : (s.setReg o v).host = s.host := rfl
@[simp] theorem State.setReg_kl (s : State) (o : Nat) (v : Word) : (s.setReg o v).kl = s.kl := rfl
@[simp] theorem State.setReg_dep (s : State) (o : Nat) (v : Word) : (s.setReg o v).dep = s.dep := rfl
@[simp] theorem State.setReg_tally (s : State) (o : Nat) (v : Word) : (s.setReg o v).tally = s.tally := rfl
@[simp] theorem State.setReg_sec (s : State) (o : Nat) (v : Word) : (s.setReg o v).sec = s.sec := rfl
@[simp] theorem State.setReg_bist (s : State) (o : Nat) (v : Word) : (s.setReg o v).bist = s.bist := rfl
@[simp] theorem State.setReg_power (s : State) (o : Nat) (v : Word) : (s.setReg o v).power = s.power := rfl
@[simp] theorem State.setReg_out (s : State) (o : Nat) (v : Word) : (s.setReg o v).out = s.out := rfl

@[simp] theorem State.event_pending (s : State) (o n : Nat) : (s.event o n).pending = s.pending := rfl
@[simp] theorem State.event_free (s : State) (o n : Nat) : (s.event o n).free = s.free := rfl
@[simp] theorem State.event_dev (s : State) (o n : Nat) : (s.event o n).dev = s.dev := rfl
@[simp] theorem State.event_now (s : State) (o n : Nat) : (s.event o n).now = s.now := rfl
@[simp] theorem State.event_timeOn (s : State) (o n : Nat) : (s.event o n).timeOn = s.timeOn := rfl
@[simp] theorem State.event_ticked (s : State) (o n : Nat) : (s.event o n).ticked = s.ticked := rfl
@[simp] theorem State.event_seed (s : State) (o n : Nat) : (s.event o n).seed = s.seed := rfl
@[simp] theorem State.event_latches (s : State) (o n : Nat) : (s.event o n).latches = s.latches := rfl
@[simp] theorem State.event_sh (s : State) (o n : Nat) : (s.event o n).sh = s.sh := rfl
@[simp] theorem State.event_badRegs (s : State) (o n : Nat) : (s.event o n).badRegs = s.badRegs := rfl
@[simp] theorem State.event_mem (s : State) (o n : Nat) : (s.event o n).mem = s.mem := rfl
@[simp] theorem State.event_sys (s : State) (o n : Nat) : (s.event o n).sys = s.sys := rfl
@[simp] theorem State.event_tick (s : State) (o n : Nat) : (s.event o n).tick = s.tick := rfl
@[simp] theorem State.event_plan (s : State) (o n : Nat) : (s.event o n).plan = s.plan := rfl
@[simp] theorem State.event_world (s : State) (o n : Nat) : (s.event o n).world = s.world := rfl
@[simp] theorem State.event_d0 (s : State) (o n : Nat) : (s.event o n).d0 = s.d0 := rfl
@[simp] theorem State.event_d1 (s : State) (o n : Nat) : (s.event o n).d1 = s.d1 := rfl
@[simp] theorem State.event_image (s : State) (o n : Nat) : (s.event o n).image = s.image := rfl
@[simp] theorem State.event_damaged (s : State) (o n : Nat) : (s.event o n).damaged = s.damaged := rfl
@[simp] theorem State.event_loading (s : State) (o n : Nat) : (s.event o n).loading = s.loading := rfl
@[simp] theorem State.event_chans (s : State) (o n : Nat) : (s.event o n).chans = s.chans := rfl
@[simp] theorem State.event_host (s : State) (o n : Nat) : (s.event o n).host = s.host := rfl
@[simp] theorem State.event_kl (s : State) (o n : Nat) : (s.event o n).kl = s.kl := rfl
@[simp] theorem State.event_dep (s : State) (o n : Nat) : (s.event o n).dep = s.dep := rfl
@[simp] theorem State.event_tally (s : State) (o n : Nat) : (s.event o n).tally = s.tally := rfl
@[simp] theorem State.event_sec (s : State) (o n : Nat) : (s.event o n).sec = s.sec := rfl
@[simp] theorem State.event_bist (s : State) (o n : Nat) : (s.event o n).bist = s.bist := rfl
@[simp] theorem State.event_power (s : State) (o n : Nat) : (s.event o n).power = s.power := rfl
@[simp] theorem State.event_out (s : State) (o n : Nat) : (s.event o n).out = s.out := rfl

@[simp] theorem State.count_pending (s : State) (o n : Nat) : (s.count o n).pending = s.pending := rfl
@[simp] theorem State.count_free (s : State) (o n : Nat) : (s.count o n).free = s.free := rfl
@[simp] theorem State.count_dev (s : State) (o n : Nat) : (s.count o n).dev = s.dev := rfl
@[simp] theorem State.count_now (s : State) (o n : Nat) : (s.count o n).now = s.now := rfl
@[simp] theorem State.count_timeOn (s : State) (o n : Nat) : (s.count o n).timeOn = s.timeOn := rfl
@[simp] theorem State.count_ticked (s : State) (o n : Nat) : (s.count o n).ticked = s.ticked := rfl
@[simp] theorem State.count_seed (s : State) (o n : Nat) : (s.count o n).seed = s.seed := rfl
@[simp] theorem State.count_latches (s : State) (o n : Nat) : (s.count o n).latches = s.latches := rfl
@[simp] theorem State.count_sh (s : State) (o n : Nat) : (s.count o n).sh = s.sh := rfl
@[simp] theorem State.count_badRegs (s : State) (o n : Nat) : (s.count o n).badRegs = s.badRegs := rfl
@[simp] theorem State.count_mem (s : State) (o n : Nat) : (s.count o n).mem = s.mem := rfl
@[simp] theorem State.count_sys (s : State) (o n : Nat) : (s.count o n).sys = s.sys := rfl
@[simp] theorem State.count_tick (s : State) (o n : Nat) : (s.count o n).tick = s.tick := rfl
@[simp] theorem State.count_plan (s : State) (o n : Nat) : (s.count o n).plan = s.plan := rfl
@[simp] theorem State.count_world (s : State) (o n : Nat) : (s.count o n).world = s.world := rfl
@[simp] theorem State.count_d0 (s : State) (o n : Nat) : (s.count o n).d0 = s.d0 := rfl
@[simp] theorem State.count_d1 (s : State) (o n : Nat) : (s.count o n).d1 = s.d1 := rfl
@[simp] theorem State.count_image (s : State) (o n : Nat) : (s.count o n).image = s.image := rfl
@[simp] theorem State.count_damaged (s : State) (o n : Nat) : (s.count o n).damaged = s.damaged := rfl
@[simp] theorem State.count_loading (s : State) (o n : Nat) : (s.count o n).loading = s.loading := rfl
@[simp] theorem State.count_chans (s : State) (o n : Nat) : (s.count o n).chans = s.chans := rfl
@[simp] theorem State.count_host (s : State) (o n : Nat) : (s.count o n).host = s.host := rfl
@[simp] theorem State.count_kl (s : State) (o n : Nat) : (s.count o n).kl = s.kl := rfl
@[simp] theorem State.count_dep (s : State) (o n : Nat) : (s.count o n).dep = s.dep := rfl
@[simp] theorem State.count_tally (s : State) (o n : Nat) : (s.count o n).tally = s.tally := rfl
@[simp] theorem State.count_sec (s : State) (o n : Nat) : (s.count o n).sec = s.sec := rfl
@[simp] theorem State.count_bist (s : State) (o n : Nat) : (s.count o n).bist = s.bist := rfl
@[simp] theorem State.count_power (s : State) (o n : Nat) : (s.count o n).power = s.power := rfl
@[simp] theorem State.count_out (s : State) (o n : Nat) : (s.count o n).out = s.out := rfl

@[simp] theorem State.setField_pending (s : State) (o hi lo v : Nat) : (s.setField o hi lo v).pending = s.pending := rfl
@[simp] theorem State.setField_free (s : State) (o hi lo v : Nat) : (s.setField o hi lo v).free = s.free := rfl
@[simp] theorem State.setField_dev (s : State) (o hi lo v : Nat) : (s.setField o hi lo v).dev = s.dev := rfl
@[simp] theorem State.setField_now (s : State) (o hi lo v : Nat) : (s.setField o hi lo v).now = s.now := rfl
@[simp] theorem State.setField_timeOn (s : State) (o hi lo v : Nat) : (s.setField o hi lo v).timeOn = s.timeOn := rfl
@[simp] theorem State.setField_ticked (s : State) (o hi lo v : Nat) : (s.setField o hi lo v).ticked = s.ticked := rfl
@[simp] theorem State.setField_seed (s : State) (o hi lo v : Nat) : (s.setField o hi lo v).seed = s.seed := rfl
@[simp] theorem State.setField_latches (s : State) (o hi lo v : Nat) : (s.setField o hi lo v).latches = s.latches := rfl
@[simp] theorem State.setField_sh (s : State) (o hi lo v : Nat) : (s.setField o hi lo v).sh = s.sh := rfl
@[simp] theorem State.setField_badRegs (s : State) (o hi lo v : Nat) : (s.setField o hi lo v).badRegs = s.badRegs := rfl
@[simp] theorem State.setField_mem (s : State) (o hi lo v : Nat) : (s.setField o hi lo v).mem = s.mem := rfl
@[simp] theorem State.setField_sys (s : State) (o hi lo v : Nat) : (s.setField o hi lo v).sys = s.sys := rfl
@[simp] theorem State.setField_tick (s : State) (o hi lo v : Nat) : (s.setField o hi lo v).tick = s.tick := rfl
@[simp] theorem State.setField_plan (s : State) (o hi lo v : Nat) : (s.setField o hi lo v).plan = s.plan := rfl
@[simp] theorem State.setField_world (s : State) (o hi lo v : Nat) : (s.setField o hi lo v).world = s.world := rfl
@[simp] theorem State.setField_d0 (s : State) (o hi lo v : Nat) : (s.setField o hi lo v).d0 = s.d0 := rfl
@[simp] theorem State.setField_d1 (s : State) (o hi lo v : Nat) : (s.setField o hi lo v).d1 = s.d1 := rfl
@[simp] theorem State.setField_image (s : State) (o hi lo v : Nat) : (s.setField o hi lo v).image = s.image := rfl
@[simp] theorem State.setField_damaged (s : State) (o hi lo v : Nat) : (s.setField o hi lo v).damaged = s.damaged := rfl
@[simp] theorem State.setField_loading (s : State) (o hi lo v : Nat) : (s.setField o hi lo v).loading = s.loading := rfl
@[simp] theorem State.setField_chans (s : State) (o hi lo v : Nat) : (s.setField o hi lo v).chans = s.chans := rfl
@[simp] theorem State.setField_host (s : State) (o hi lo v : Nat) : (s.setField o hi lo v).host = s.host := rfl
@[simp] theorem State.setField_kl (s : State) (o hi lo v : Nat) : (s.setField o hi lo v).kl = s.kl := rfl
@[simp] theorem State.setField_dep (s : State) (o hi lo v : Nat) : (s.setField o hi lo v).dep = s.dep := rfl
@[simp] theorem State.setField_tally (s : State) (o hi lo v : Nat) : (s.setField o hi lo v).tally = s.tally := rfl
@[simp] theorem State.setField_sec (s : State) (o hi lo v : Nat) : (s.setField o hi lo v).sec = s.sec := rfl
@[simp] theorem State.setField_bist (s : State) (o hi lo v : Nat) : (s.setField o hi lo v).bist = s.bist := rfl
@[simp] theorem State.setField_power (s : State) (o hi lo v : Nat) : (s.setField o hi lo v).power = s.power := rfl
@[simp] theorem State.setField_out (s : State) (o hi lo v : Nat) : (s.setField o hi lo v).out = s.out := rfl

@[simp] theorem State.setPair_pending (s : State) (lo hi v : Nat) : (s.setPair lo hi v).pending = s.pending := rfl
@[simp] theorem State.setPair_free (s : State) (lo hi v : Nat) : (s.setPair lo hi v).free = s.free := rfl
@[simp] theorem State.setPair_dev (s : State) (lo hi v : Nat) : (s.setPair lo hi v).dev = s.dev := rfl
@[simp] theorem State.setPair_now (s : State) (lo hi v : Nat) : (s.setPair lo hi v).now = s.now := rfl
@[simp] theorem State.setPair_timeOn (s : State) (lo hi v : Nat) : (s.setPair lo hi v).timeOn = s.timeOn := rfl
@[simp] theorem State.setPair_ticked (s : State) (lo hi v : Nat) : (s.setPair lo hi v).ticked = s.ticked := rfl
@[simp] theorem State.setPair_seed (s : State) (lo hi v : Nat) : (s.setPair lo hi v).seed = s.seed := rfl
@[simp] theorem State.setPair_latches (s : State) (lo hi v : Nat) : (s.setPair lo hi v).latches = s.latches := rfl
@[simp] theorem State.setPair_sh (s : State) (lo hi v : Nat) : (s.setPair lo hi v).sh = s.sh := rfl
@[simp] theorem State.setPair_badRegs (s : State) (lo hi v : Nat) : (s.setPair lo hi v).badRegs = s.badRegs := rfl
@[simp] theorem State.setPair_mem (s : State) (lo hi v : Nat) : (s.setPair lo hi v).mem = s.mem := rfl
@[simp] theorem State.setPair_sys (s : State) (lo hi v : Nat) : (s.setPair lo hi v).sys = s.sys := rfl
@[simp] theorem State.setPair_tick (s : State) (lo hi v : Nat) : (s.setPair lo hi v).tick = s.tick := rfl
@[simp] theorem State.setPair_plan (s : State) (lo hi v : Nat) : (s.setPair lo hi v).plan = s.plan := rfl
@[simp] theorem State.setPair_world (s : State) (lo hi v : Nat) : (s.setPair lo hi v).world = s.world := rfl
@[simp] theorem State.setPair_d0 (s : State) (lo hi v : Nat) : (s.setPair lo hi v).d0 = s.d0 := rfl
@[simp] theorem State.setPair_d1 (s : State) (lo hi v : Nat) : (s.setPair lo hi v).d1 = s.d1 := rfl
@[simp] theorem State.setPair_image (s : State) (lo hi v : Nat) : (s.setPair lo hi v).image = s.image := rfl
@[simp] theorem State.setPair_damaged (s : State) (lo hi v : Nat) : (s.setPair lo hi v).damaged = s.damaged := rfl
@[simp] theorem State.setPair_loading (s : State) (lo hi v : Nat) : (s.setPair lo hi v).loading = s.loading := rfl
@[simp] theorem State.setPair_chans (s : State) (lo hi v : Nat) : (s.setPair lo hi v).chans = s.chans := rfl
@[simp] theorem State.setPair_host (s : State) (lo hi v : Nat) : (s.setPair lo hi v).host = s.host := rfl
@[simp] theorem State.setPair_kl (s : State) (lo hi v : Nat) : (s.setPair lo hi v).kl = s.kl := rfl
@[simp] theorem State.setPair_dep (s : State) (lo hi v : Nat) : (s.setPair lo hi v).dep = s.dep := rfl
@[simp] theorem State.setPair_tally (s : State) (lo hi v : Nat) : (s.setPair lo hi v).tally = s.tally := rfl
@[simp] theorem State.setPair_sec (s : State) (lo hi v : Nat) : (s.setPair lo hi v).sec = s.sec := rfl
@[simp] theorem State.setPair_bist (s : State) (lo hi v : Nat) : (s.setPair lo hi v).bist = s.bist := rfl
@[simp] theorem State.setPair_power (s : State) (lo hi v : Nat) : (s.setPair lo hi v).power = s.power := rfl
@[simp] theorem State.setPair_out (s : State) (lo hi v : Nat) : (s.setPair lo hi v).out = s.out := rfl

@[simp] theorem State.emit_pending (s : State) (o : Output) : (s.emit o).pending = s.pending := rfl
@[simp] theorem State.emit_free (s : State) (o : Output) : (s.emit o).free = s.free := rfl
@[simp] theorem State.emit_dev (s : State) (o : Output) : (s.emit o).dev = s.dev := rfl
@[simp] theorem State.emit_now (s : State) (o : Output) : (s.emit o).now = s.now := rfl
@[simp] theorem State.emit_timeOn (s : State) (o : Output) : (s.emit o).timeOn = s.timeOn := rfl
@[simp] theorem State.emit_ticked (s : State) (o : Output) : (s.emit o).ticked = s.ticked := rfl
@[simp] theorem State.emit_seed (s : State) (o : Output) : (s.emit o).seed = s.seed := rfl
@[simp] theorem State.emit_regs (s : State) (o : Output) : (s.emit o).regs = s.regs := rfl
@[simp] theorem State.emit_latches (s : State) (o : Output) : (s.emit o).latches = s.latches := rfl
@[simp] theorem State.emit_sh (s : State) (o : Output) : (s.emit o).sh = s.sh := rfl
@[simp] theorem State.emit_badRegs (s : State) (o : Output) : (s.emit o).badRegs = s.badRegs := rfl
@[simp] theorem State.emit_mem (s : State) (o : Output) : (s.emit o).mem = s.mem := rfl
@[simp] theorem State.emit_sys (s : State) (o : Output) : (s.emit o).sys = s.sys := rfl
@[simp] theorem State.emit_tick (s : State) (o : Output) : (s.emit o).tick = s.tick := rfl
@[simp] theorem State.emit_plan (s : State) (o : Output) : (s.emit o).plan = s.plan := rfl
@[simp] theorem State.emit_world (s : State) (o : Output) : (s.emit o).world = s.world := rfl
@[simp] theorem State.emit_d0 (s : State) (o : Output) : (s.emit o).d0 = s.d0 := rfl
@[simp] theorem State.emit_d1 (s : State) (o : Output) : (s.emit o).d1 = s.d1 := rfl
@[simp] theorem State.emit_image (s : State) (o : Output) : (s.emit o).image = s.image := rfl
@[simp] theorem State.emit_damaged (s : State) (o : Output) : (s.emit o).damaged = s.damaged := rfl
@[simp] theorem State.emit_loading (s : State) (o : Output) : (s.emit o).loading = s.loading := rfl
@[simp] theorem State.emit_chans (s : State) (o : Output) : (s.emit o).chans = s.chans := rfl
@[simp] theorem State.emit_host (s : State) (o : Output) : (s.emit o).host = s.host := rfl
@[simp] theorem State.emit_kl (s : State) (o : Output) : (s.emit o).kl = s.kl := rfl
@[simp] theorem State.emit_dep (s : State) (o : Output) : (s.emit o).dep = s.dep := rfl
@[simp] theorem State.emit_tally (s : State) (o : Output) : (s.emit o).tally = s.tally := rfl
@[simp] theorem State.emit_sec (s : State) (o : Output) : (s.emit o).sec = s.sec := rfl
@[simp] theorem State.emit_bist (s : State) (o : Output) : (s.emit o).bist = s.bist := rfl
@[simp] theorem State.emit_power (s : State) (o : Output) : (s.emit o).power = s.power := rfl

@[simp] theorem State.mapChan_pending (s : State) (i : Nat) (f : Chan → Chan) : (s.mapChan i f).pending = s.pending := rfl
@[simp] theorem State.mapChan_free (s : State) (i : Nat) (f : Chan → Chan) : (s.mapChan i f).free = s.free := rfl
@[simp] theorem State.mapChan_dev (s : State) (i : Nat) (f : Chan → Chan) : (s.mapChan i f).dev = s.dev := rfl
@[simp] theorem State.mapChan_now (s : State) (i : Nat) (f : Chan → Chan) : (s.mapChan i f).now = s.now := rfl
@[simp] theorem State.mapChan_timeOn (s : State) (i : Nat) (f : Chan → Chan) : (s.mapChan i f).timeOn = s.timeOn := rfl
@[simp] theorem State.mapChan_ticked (s : State) (i : Nat) (f : Chan → Chan) : (s.mapChan i f).ticked = s.ticked := rfl
@[simp] theorem State.mapChan_seed (s : State) (i : Nat) (f : Chan → Chan) : (s.mapChan i f).seed = s.seed := rfl
@[simp] theorem State.mapChan_regs (s : State) (i : Nat) (f : Chan → Chan) : (s.mapChan i f).regs = s.regs := rfl
@[simp] theorem State.mapChan_latches (s : State) (i : Nat) (f : Chan → Chan) : (s.mapChan i f).latches = s.latches := rfl
@[simp] theorem State.mapChan_sh (s : State) (i : Nat) (f : Chan → Chan) : (s.mapChan i f).sh = s.sh := rfl
@[simp] theorem State.mapChan_badRegs (s : State) (i : Nat) (f : Chan → Chan) : (s.mapChan i f).badRegs = s.badRegs := rfl
@[simp] theorem State.mapChan_mem (s : State) (i : Nat) (f : Chan → Chan) : (s.mapChan i f).mem = s.mem := rfl
@[simp] theorem State.mapChan_sys (s : State) (i : Nat) (f : Chan → Chan) : (s.mapChan i f).sys = s.sys := rfl
@[simp] theorem State.mapChan_tick (s : State) (i : Nat) (f : Chan → Chan) : (s.mapChan i f).tick = s.tick := rfl
@[simp] theorem State.mapChan_plan (s : State) (i : Nat) (f : Chan → Chan) : (s.mapChan i f).plan = s.plan := rfl
@[simp] theorem State.mapChan_world (s : State) (i : Nat) (f : Chan → Chan) : (s.mapChan i f).world = s.world := rfl
@[simp] theorem State.mapChan_d0 (s : State) (i : Nat) (f : Chan → Chan) : (s.mapChan i f).d0 = s.d0 := rfl
@[simp] theorem State.mapChan_d1 (s : State) (i : Nat) (f : Chan → Chan) : (s.mapChan i f).d1 = s.d1 := rfl
@[simp] theorem State.mapChan_image (s : State) (i : Nat) (f : Chan → Chan) : (s.mapChan i f).image = s.image := rfl
@[simp] theorem State.mapChan_damaged (s : State) (i : Nat) (f : Chan → Chan) : (s.mapChan i f).damaged = s.damaged := rfl
@[simp] theorem State.mapChan_loading (s : State) (i : Nat) (f : Chan → Chan) : (s.mapChan i f).loading = s.loading := rfl
@[simp] theorem State.mapChan_host (s : State) (i : Nat) (f : Chan → Chan) : (s.mapChan i f).host = s.host := rfl
@[simp] theorem State.mapChan_kl (s : State) (i : Nat) (f : Chan → Chan) : (s.mapChan i f).kl = s.kl := rfl
@[simp] theorem State.mapChan_dep (s : State) (i : Nat) (f : Chan → Chan) : (s.mapChan i f).dep = s.dep := rfl
@[simp] theorem State.mapChan_tally (s : State) (i : Nat) (f : Chan → Chan) : (s.mapChan i f).tally = s.tally := rfl
@[simp] theorem State.mapChan_sec (s : State) (i : Nat) (f : Chan → Chan) : (s.mapChan i f).sec = s.sec := rfl
@[simp] theorem State.mapChan_bist (s : State) (i : Nat) (f : Chan → Chan) : (s.mapChan i f).bist = s.bist := rfl
@[simp] theorem State.mapChan_power (s : State) (i : Nat) (f : Chan → Chan) : (s.mapChan i f).power = s.power := rfl
@[simp] theorem State.mapChan_out (s : State) (i : Nat) (f : Chan → Chan) : (s.mapChan i f).out = s.out := rfl

@[simp] theorem State.result_pending (s : State) (code reason : Nat) : (s.result code reason).pending = s.pending := rfl
@[simp] theorem State.result_free (s : State) (code reason : Nat) : (s.result code reason).free = s.free := rfl
@[simp] theorem State.result_dev (s : State) (code reason : Nat) : (s.result code reason).dev = s.dev := rfl
@[simp] theorem State.result_now (s : State) (code reason : Nat) : (s.result code reason).now = s.now := rfl
@[simp] theorem State.result_timeOn (s : State) (code reason : Nat) : (s.result code reason).timeOn = s.timeOn := rfl
@[simp] theorem State.result_ticked (s : State) (code reason : Nat) : (s.result code reason).ticked = s.ticked := rfl
@[simp] theorem State.result_seed (s : State) (code reason : Nat) : (s.result code reason).seed = s.seed := rfl
@[simp] theorem State.result_regs (s : State) (code reason : Nat) : (s.result code reason).regs = s.regs := rfl
@[simp] theorem State.result_latches (s : State) (code reason : Nat) : (s.result code reason).latches = s.latches := rfl
@[simp] theorem State.result_sh (s : State) (code reason : Nat) : (s.result code reason).sh = s.sh := rfl
@[simp] theorem State.result_badRegs (s : State) (code reason : Nat) : (s.result code reason).badRegs = s.badRegs := rfl
@[simp] theorem State.result_mem (s : State) (code reason : Nat) : (s.result code reason).mem = s.mem := rfl
@[simp] theorem State.result_tick (s : State) (code reason : Nat) : (s.result code reason).tick = s.tick := rfl
@[simp] theorem State.result_plan (s : State) (code reason : Nat) : (s.result code reason).plan = s.plan := rfl
@[simp] theorem State.result_world (s : State) (code reason : Nat) : (s.result code reason).world = s.world := rfl
@[simp] theorem State.result_d0 (s : State) (code reason : Nat) : (s.result code reason).d0 = s.d0 := rfl
@[simp] theorem State.result_d1 (s : State) (code reason : Nat) : (s.result code reason).d1 = s.d1 := rfl
@[simp] theorem State.result_image (s : State) (code reason : Nat) : (s.result code reason).image = s.image := rfl
@[simp] theorem State.result_damaged (s : State) (code reason : Nat) : (s.result code reason).damaged = s.damaged := rfl
@[simp] theorem State.result_loading (s : State) (code reason : Nat) : (s.result code reason).loading = s.loading := rfl
@[simp] theorem State.result_chans (s : State) (code reason : Nat) : (s.result code reason).chans = s.chans := rfl
@[simp] theorem State.result_host (s : State) (code reason : Nat) : (s.result code reason).host = s.host := rfl
@[simp] theorem State.result_kl (s : State) (code reason : Nat) : (s.result code reason).kl = s.kl := rfl
@[simp] theorem State.result_dep (s : State) (code reason : Nat) : (s.result code reason).dep = s.dep := rfl
@[simp] theorem State.result_tally (s : State) (code reason : Nat) : (s.result code reason).tally = s.tally := rfl
@[simp] theorem State.result_sec (s : State) (code reason : Nat) : (s.result code reason).sec = s.sec := rfl
@[simp] theorem State.result_bist (s : State) (code reason : Nat) : (s.result code reason).bist = s.bist := rfl
@[simp] theorem State.result_power (s : State) (code reason : Nat) : (s.result code reason).power = s.power := rfl
@[simp] theorem State.result_out (s : State) (code reason : Nat) : (s.result code reason).out = s.out := rfl

@[simp] theorem State.popCmd_pending (s : State) (code reason : Nat) : (s.popCmd code reason).pending = s.pending := rfl
@[simp] theorem State.popCmd_free (s : State) (code reason : Nat) : (s.popCmd code reason).free = s.free := rfl
@[simp] theorem State.popCmd_dev (s : State) (code reason : Nat) : (s.popCmd code reason).dev = s.dev := rfl
@[simp] theorem State.popCmd_now (s : State) (code reason : Nat) : (s.popCmd code reason).now = s.now := rfl
@[simp] theorem State.popCmd_timeOn (s : State) (code reason : Nat) : (s.popCmd code reason).timeOn = s.timeOn := rfl
@[simp] theorem State.popCmd_ticked (s : State) (code reason : Nat) : (s.popCmd code reason).ticked = s.ticked := rfl
@[simp] theorem State.popCmd_seed (s : State) (code reason : Nat) : (s.popCmd code reason).seed = s.seed := rfl
@[simp] theorem State.popCmd_regs (s : State) (code reason : Nat) : (s.popCmd code reason).regs = s.regs := rfl
@[simp] theorem State.popCmd_latches (s : State) (code reason : Nat) : (s.popCmd code reason).latches = s.latches := rfl
@[simp] theorem State.popCmd_sh (s : State) (code reason : Nat) : (s.popCmd code reason).sh = s.sh := rfl
@[simp] theorem State.popCmd_badRegs (s : State) (code reason : Nat) : (s.popCmd code reason).badRegs = s.badRegs := rfl
@[simp] theorem State.popCmd_mem (s : State) (code reason : Nat) : (s.popCmd code reason).mem = s.mem := rfl
@[simp] theorem State.popCmd_tick (s : State) (code reason : Nat) : (s.popCmd code reason).tick = s.tick := rfl
@[simp] theorem State.popCmd_plan (s : State) (code reason : Nat) : (s.popCmd code reason).plan = s.plan := rfl
@[simp] theorem State.popCmd_world (s : State) (code reason : Nat) : (s.popCmd code reason).world = s.world := rfl
@[simp] theorem State.popCmd_d0 (s : State) (code reason : Nat) : (s.popCmd code reason).d0 = s.d0 := rfl
@[simp] theorem State.popCmd_d1 (s : State) (code reason : Nat) : (s.popCmd code reason).d1 = s.d1 := rfl
@[simp] theorem State.popCmd_image (s : State) (code reason : Nat) : (s.popCmd code reason).image = s.image := rfl
@[simp] theorem State.popCmd_damaged (s : State) (code reason : Nat) : (s.popCmd code reason).damaged = s.damaged := rfl
@[simp] theorem State.popCmd_loading (s : State) (code reason : Nat) : (s.popCmd code reason).loading = s.loading := rfl
@[simp] theorem State.popCmd_chans (s : State) (code reason : Nat) : (s.popCmd code reason).chans = s.chans := rfl
@[simp] theorem State.popCmd_host (s : State) (code reason : Nat) : (s.popCmd code reason).host = s.host := rfl
@[simp] theorem State.popCmd_kl (s : State) (code reason : Nat) : (s.popCmd code reason).kl = s.kl := rfl
@[simp] theorem State.popCmd_dep (s : State) (code reason : Nat) : (s.popCmd code reason).dep = s.dep := rfl
@[simp] theorem State.popCmd_tally (s : State) (code reason : Nat) : (s.popCmd code reason).tally = s.tally := rfl
@[simp] theorem State.popCmd_sec (s : State) (code reason : Nat) : (s.popCmd code reason).sec = s.sec := rfl
@[simp] theorem State.popCmd_bist (s : State) (code reason : Nat) : (s.popCmd code reason).bist = s.bist := rfl
@[simp] theorem State.popCmd_power (s : State) (code reason : Nat) : (s.popCmd code reason).power = s.power := rfl
@[simp] theorem State.popCmd_out (s : State) (code reason : Nat) : (s.popCmd code reason).out = s.out := rfl

@[simp] theorem State.causeOn_pending (s : State) (cause : Nat) : (s.causeOn cause).pending = s.pending := rfl
@[simp] theorem State.causeOn_free (s : State) (cause : Nat) : (s.causeOn cause).free = s.free := rfl
@[simp] theorem State.causeOn_dev (s : State) (cause : Nat) : (s.causeOn cause).dev = s.dev := rfl
@[simp] theorem State.causeOn_now (s : State) (cause : Nat) : (s.causeOn cause).now = s.now := rfl
@[simp] theorem State.causeOn_timeOn (s : State) (cause : Nat) : (s.causeOn cause).timeOn = s.timeOn := rfl
@[simp] theorem State.causeOn_ticked (s : State) (cause : Nat) : (s.causeOn cause).ticked = s.ticked := rfl
@[simp] theorem State.causeOn_seed (s : State) (cause : Nat) : (s.causeOn cause).seed = s.seed := rfl
@[simp] theorem State.causeOn_regs (s : State) (cause : Nat) : (s.causeOn cause).regs = s.regs := rfl
@[simp] theorem State.causeOn_latches (s : State) (cause : Nat) : (s.causeOn cause).latches = s.latches := rfl
@[simp] theorem State.causeOn_sh (s : State) (cause : Nat) : (s.causeOn cause).sh = s.sh := rfl
@[simp] theorem State.causeOn_badRegs (s : State) (cause : Nat) : (s.causeOn cause).badRegs = s.badRegs := rfl
@[simp] theorem State.causeOn_mem (s : State) (cause : Nat) : (s.causeOn cause).mem = s.mem := rfl
@[simp] theorem State.causeOn_sys (s : State) (cause : Nat) : (s.causeOn cause).sys = s.sys := rfl
@[simp] theorem State.causeOn_tick (s : State) (cause : Nat) : (s.causeOn cause).tick = s.tick := rfl
@[simp] theorem State.causeOn_plan (s : State) (cause : Nat) : (s.causeOn cause).plan = s.plan := rfl
@[simp] theorem State.causeOn_world (s : State) (cause : Nat) : (s.causeOn cause).world = s.world := rfl
@[simp] theorem State.causeOn_d0 (s : State) (cause : Nat) : (s.causeOn cause).d0 = s.d0 := rfl
@[simp] theorem State.causeOn_d1 (s : State) (cause : Nat) : (s.causeOn cause).d1 = s.d1 := rfl
@[simp] theorem State.causeOn_image (s : State) (cause : Nat) : (s.causeOn cause).image = s.image := rfl
@[simp] theorem State.causeOn_damaged (s : State) (cause : Nat) : (s.causeOn cause).damaged = s.damaged := rfl
@[simp] theorem State.causeOn_loading (s : State) (cause : Nat) : (s.causeOn cause).loading = s.loading := rfl
@[simp] theorem State.causeOn_chans (s : State) (cause : Nat) : (s.causeOn cause).chans = s.chans := rfl
@[simp] theorem State.causeOn_host (s : State) (cause : Nat) : (s.causeOn cause).host = s.host := rfl
@[simp] theorem State.causeOn_kl (s : State) (cause : Nat) : (s.causeOn cause).kl = s.kl := rfl
@[simp] theorem State.causeOn_tally (s : State) (cause : Nat) : (s.causeOn cause).tally = s.tally := rfl
@[simp] theorem State.causeOn_sec (s : State) (cause : Nat) : (s.causeOn cause).sec = s.sec := rfl
@[simp] theorem State.causeOn_bist (s : State) (cause : Nat) : (s.causeOn cause).bist = s.bist := rfl
@[simp] theorem State.causeOn_power (s : State) (cause : Nat) : (s.causeOn cause).power = s.power := rfl
@[simp] theorem State.causeOn_out (s : State) (cause : Nat) : (s.causeOn cause).out = s.out := rfl

@[simp] theorem State.causeOff_pending (s : State) (cause : Nat) : (s.causeOff cause).pending = s.pending := rfl
@[simp] theorem State.causeOff_free (s : State) (cause : Nat) : (s.causeOff cause).free = s.free := rfl
@[simp] theorem State.causeOff_dev (s : State) (cause : Nat) : (s.causeOff cause).dev = s.dev := rfl
@[simp] theorem State.causeOff_now (s : State) (cause : Nat) : (s.causeOff cause).now = s.now := rfl
@[simp] theorem State.causeOff_timeOn (s : State) (cause : Nat) : (s.causeOff cause).timeOn = s.timeOn := rfl
@[simp] theorem State.causeOff_ticked (s : State) (cause : Nat) : (s.causeOff cause).ticked = s.ticked := rfl
@[simp] theorem State.causeOff_seed (s : State) (cause : Nat) : (s.causeOff cause).seed = s.seed := rfl
@[simp] theorem State.causeOff_regs (s : State) (cause : Nat) : (s.causeOff cause).regs = s.regs := rfl
@[simp] theorem State.causeOff_latches (s : State) (cause : Nat) : (s.causeOff cause).latches = s.latches := rfl
@[simp] theorem State.causeOff_sh (s : State) (cause : Nat) : (s.causeOff cause).sh = s.sh := rfl
@[simp] theorem State.causeOff_badRegs (s : State) (cause : Nat) : (s.causeOff cause).badRegs = s.badRegs := rfl
@[simp] theorem State.causeOff_mem (s : State) (cause : Nat) : (s.causeOff cause).mem = s.mem := rfl
@[simp] theorem State.causeOff_sys (s : State) (cause : Nat) : (s.causeOff cause).sys = s.sys := rfl
@[simp] theorem State.causeOff_tick (s : State) (cause : Nat) : (s.causeOff cause).tick = s.tick := rfl
@[simp] theorem State.causeOff_plan (s : State) (cause : Nat) : (s.causeOff cause).plan = s.plan := rfl
@[simp] theorem State.causeOff_world (s : State) (cause : Nat) : (s.causeOff cause).world = s.world := rfl
@[simp] theorem State.causeOff_d0 (s : State) (cause : Nat) : (s.causeOff cause).d0 = s.d0 := rfl
@[simp] theorem State.causeOff_d1 (s : State) (cause : Nat) : (s.causeOff cause).d1 = s.d1 := rfl
@[simp] theorem State.causeOff_image (s : State) (cause : Nat) : (s.causeOff cause).image = s.image := rfl
@[simp] theorem State.causeOff_damaged (s : State) (cause : Nat) : (s.causeOff cause).damaged = s.damaged := rfl
@[simp] theorem State.causeOff_loading (s : State) (cause : Nat) : (s.causeOff cause).loading = s.loading := rfl
@[simp] theorem State.causeOff_chans (s : State) (cause : Nat) : (s.causeOff cause).chans = s.chans := rfl
@[simp] theorem State.causeOff_host (s : State) (cause : Nat) : (s.causeOff cause).host = s.host := rfl
@[simp] theorem State.causeOff_kl (s : State) (cause : Nat) : (s.causeOff cause).kl = s.kl := rfl
@[simp] theorem State.causeOff_tally (s : State) (cause : Nat) : (s.causeOff cause).tally = s.tally := rfl
@[simp] theorem State.causeOff_sec (s : State) (cause : Nat) : (s.causeOff cause).sec = s.sec := rfl
@[simp] theorem State.causeOff_bist (s : State) (cause : Nat) : (s.causeOff cause).bist = s.bist := rfl
@[simp] theorem State.causeOff_power (s : State) (cause : Nat) : (s.causeOff cause).power = s.power := rfl
@[simp] theorem State.causeOff_out (s : State) (cause : Nat) : (s.causeOff cause).out = s.out := rfl

@[simp] theorem State.setDie_pending (s : State) (d : Die) (x : DieState) : (s.setDie d x).pending = s.pending := by
  cases d <;> rfl
@[simp] theorem State.setDie_free (s : State) (d : Die) (x : DieState) : (s.setDie d x).free = s.free := by
  cases d <;> rfl
@[simp] theorem State.setDie_dev (s : State) (d : Die) (x : DieState) : (s.setDie d x).dev = s.dev := by
  cases d <;> rfl
@[simp] theorem State.setDie_now (s : State) (d : Die) (x : DieState) : (s.setDie d x).now = s.now := by
  cases d <;> rfl
@[simp] theorem State.setDie_timeOn (s : State) (d : Die) (x : DieState) : (s.setDie d x).timeOn = s.timeOn := by
  cases d <;> rfl
@[simp] theorem State.setDie_ticked (s : State) (d : Die) (x : DieState) : (s.setDie d x).ticked = s.ticked := by
  cases d <;> rfl
@[simp] theorem State.setDie_seed (s : State) (d : Die) (x : DieState) : (s.setDie d x).seed = s.seed := by
  cases d <;> rfl
@[simp] theorem State.setDie_regs (s : State) (d : Die) (x : DieState) : (s.setDie d x).regs = s.regs := by
  cases d <;> rfl
@[simp] theorem State.setDie_latches (s : State) (d : Die) (x : DieState) : (s.setDie d x).latches = s.latches := by
  cases d <;> rfl
@[simp] theorem State.setDie_sh (s : State) (d : Die) (x : DieState) : (s.setDie d x).sh = s.sh := by
  cases d <;> rfl
@[simp] theorem State.setDie_badRegs (s : State) (d : Die) (x : DieState) : (s.setDie d x).badRegs = s.badRegs := by
  cases d <;> rfl
@[simp] theorem State.setDie_mem (s : State) (d : Die) (x : DieState) : (s.setDie d x).mem = s.mem := by
  cases d <;> rfl
@[simp] theorem State.setDie_sys (s : State) (d : Die) (x : DieState) : (s.setDie d x).sys = s.sys := by
  cases d <;> rfl
@[simp] theorem State.setDie_tick (s : State) (d : Die) (x : DieState) : (s.setDie d x).tick = s.tick := by
  cases d <;> rfl
@[simp] theorem State.setDie_plan (s : State) (d : Die) (x : DieState) : (s.setDie d x).plan = s.plan := by
  cases d <;> rfl
@[simp] theorem State.setDie_world (s : State) (d : Die) (x : DieState) : (s.setDie d x).world = s.world := by
  cases d <;> rfl
@[simp] theorem State.setDie_image (s : State) (d : Die) (x : DieState) : (s.setDie d x).image = s.image := by
  cases d <;> rfl
@[simp] theorem State.setDie_damaged (s : State) (d : Die) (x : DieState) : (s.setDie d x).damaged = s.damaged := by
  cases d <;> rfl
@[simp] theorem State.setDie_loading (s : State) (d : Die) (x : DieState) : (s.setDie d x).loading = s.loading := by
  cases d <;> rfl
@[simp] theorem State.setDie_chans (s : State) (d : Die) (x : DieState) : (s.setDie d x).chans = s.chans := by
  cases d <;> rfl
@[simp] theorem State.setDie_host (s : State) (d : Die) (x : DieState) : (s.setDie d x).host = s.host := by
  cases d <;> rfl
@[simp] theorem State.setDie_kl (s : State) (d : Die) (x : DieState) : (s.setDie d x).kl = s.kl := by
  cases d <;> rfl
@[simp] theorem State.setDie_dep (s : State) (d : Die) (x : DieState) : (s.setDie d x).dep = s.dep := by
  cases d <;> rfl
@[simp] theorem State.setDie_tally (s : State) (d : Die) (x : DieState) : (s.setDie d x).tally = s.tally := by
  cases d <;> rfl
@[simp] theorem State.setDie_sec (s : State) (d : Die) (x : DieState) : (s.setDie d x).sec = s.sec := by
  cases d <;> rfl
@[simp] theorem State.setDie_bist (s : State) (d : Die) (x : DieState) : (s.setDie d x).bist = s.bist := by
  cases d <;> rfl
@[simp] theorem State.setDie_power (s : State) (d : Die) (x : DieState) : (s.setDie d x).power = s.power := by
  cases d <;> rfl
@[simp] theorem State.setDie_out (s : State) (d : Die) (x : DieState) : (s.setDie d x).out = s.out := by
  cases d <;> rfl

@[simp] theorem State.advance_pending (s : State) (t : Nat) : (s.advance t).pending = s.pending := by
  unfold State.advance; split <;> rfl
@[simp] theorem State.advance_free (s : State) (t : Nat) : (s.advance t).free = s.free := by
  unfold State.advance; split <;> rfl
@[simp] theorem State.advance_dev (s : State) (t : Nat) : (s.advance t).dev = s.dev := by
  unfold State.advance; split <;> rfl
@[simp] theorem State.advance_timeOn (s : State) (t : Nat) : (s.advance t).timeOn = s.timeOn := by
  unfold State.advance; split <;> rfl
@[simp] theorem State.advance_ticked (s : State) (t : Nat) : (s.advance t).ticked = s.ticked := by
  unfold State.advance; split <;> rfl
@[simp] theorem State.advance_seed (s : State) (t : Nat) : (s.advance t).seed = s.seed := by
  unfold State.advance; split <;> rfl
@[simp] theorem State.advance_regs (s : State) (t : Nat) : (s.advance t).regs = s.regs := by
  unfold State.advance; split <;> rfl
@[simp] theorem State.advance_latches (s : State) (t : Nat) : (s.advance t).latches = s.latches := by
  unfold State.advance; split <;> rfl
@[simp] theorem State.advance_sh (s : State) (t : Nat) : (s.advance t).sh = s.sh := by
  unfold State.advance; split <;> rfl
@[simp] theorem State.advance_badRegs (s : State) (t : Nat) : (s.advance t).badRegs = s.badRegs := by
  unfold State.advance; split <;> rfl
@[simp] theorem State.advance_mem (s : State) (t : Nat) : (s.advance t).mem = s.mem := by
  unfold State.advance; split <;> rfl
@[simp] theorem State.advance_sys (s : State) (t : Nat) : (s.advance t).sys = s.sys := by
  unfold State.advance; split <;> rfl
@[simp] theorem State.advance_tick (s : State) (t : Nat) : (s.advance t).tick = s.tick := by
  unfold State.advance; split <;> rfl
@[simp] theorem State.advance_plan (s : State) (t : Nat) : (s.advance t).plan = s.plan := by
  unfold State.advance; split <;> rfl
@[simp] theorem State.advance_world (s : State) (t : Nat) : (s.advance t).world = s.world := by
  unfold State.advance; split <;> rfl
@[simp] theorem State.advance_d0 (s : State) (t : Nat) : (s.advance t).d0 = s.d0 := by
  unfold State.advance; split <;> rfl
@[simp] theorem State.advance_d1 (s : State) (t : Nat) : (s.advance t).d1 = s.d1 := by
  unfold State.advance; split <;> rfl
@[simp] theorem State.advance_image (s : State) (t : Nat) : (s.advance t).image = s.image := by
  unfold State.advance; split <;> rfl
@[simp] theorem State.advance_damaged (s : State) (t : Nat) : (s.advance t).damaged = s.damaged := by
  unfold State.advance; split <;> rfl
@[simp] theorem State.advance_loading (s : State) (t : Nat) : (s.advance t).loading = s.loading := by
  unfold State.advance; split <;> rfl
@[simp] theorem State.advance_chans (s : State) (t : Nat) : (s.advance t).chans = s.chans := by
  unfold State.advance; split <;> rfl
@[simp] theorem State.advance_host (s : State) (t : Nat) : (s.advance t).host = s.host := by
  unfold State.advance; split <;> rfl
@[simp] theorem State.advance_kl (s : State) (t : Nat) : (s.advance t).kl = s.kl := by
  unfold State.advance; split <;> rfl
@[simp] theorem State.advance_dep (s : State) (t : Nat) : (s.advance t).dep = s.dep := by
  unfold State.advance; split <;> rfl
@[simp] theorem State.advance_tally (s : State) (t : Nat) : (s.advance t).tally = s.tally := by
  unfold State.advance; split <;> rfl
@[simp] theorem State.advance_sec (s : State) (t : Nat) : (s.advance t).sec = s.sec := by
  unfold State.advance; split <;> rfl
@[simp] theorem State.advance_bist (s : State) (t : Nat) : (s.advance t).bist = s.bist := by
  unfold State.advance; split <;> rfl
@[simp] theorem State.advance_power (s : State) (t : Nat) : (s.advance t).power = s.power := by
  unfold State.advance; split <;> rfl
@[simp] theorem State.advance_out (s : State) (t : Nat) : (s.advance t).out = s.out := by
  unfold State.advance; split <;> rfl

@[simp] theorem State.irq_pending (s : State) (v : Nat) : (s.irq v).pending = s.pending := by
  unfold State.irq; (repeat' split) <;> rfl
@[simp] theorem State.irq_free (s : State) (v : Nat) : (s.irq v).free = s.free := by
  unfold State.irq; (repeat' split) <;> rfl
@[simp] theorem State.irq_dev (s : State) (v : Nat) : (s.irq v).dev = s.dev := by
  unfold State.irq; (repeat' split) <;> rfl
@[simp] theorem State.irq_now (s : State) (v : Nat) : (s.irq v).now = s.now := by
  unfold State.irq; (repeat' split) <;> rfl
@[simp] theorem State.irq_timeOn (s : State) (v : Nat) : (s.irq v).timeOn = s.timeOn := by
  unfold State.irq; (repeat' split) <;> rfl
@[simp] theorem State.irq_ticked (s : State) (v : Nat) : (s.irq v).ticked = s.ticked := by
  unfold State.irq; (repeat' split) <;> rfl
@[simp] theorem State.irq_seed (s : State) (v : Nat) : (s.irq v).seed = s.seed := by
  unfold State.irq; (repeat' split) <;> rfl
@[simp] theorem State.irq_regs (s : State) (v : Nat) : (s.irq v).regs = s.regs := by
  unfold State.irq; (repeat' split) <;> rfl
@[simp] theorem State.irq_latches (s : State) (v : Nat) : (s.irq v).latches = s.latches := by
  unfold State.irq; (repeat' split) <;> rfl
@[simp] theorem State.irq_sh (s : State) (v : Nat) : (s.irq v).sh = s.sh := by
  unfold State.irq; (repeat' split) <;> rfl
@[simp] theorem State.irq_badRegs (s : State) (v : Nat) : (s.irq v).badRegs = s.badRegs := by
  unfold State.irq; (repeat' split) <;> rfl
@[simp] theorem State.irq_mem (s : State) (v : Nat) : (s.irq v).mem = s.mem := by
  unfold State.irq; (repeat' split) <;> rfl
@[simp] theorem State.irq_sys (s : State) (v : Nat) : (s.irq v).sys = s.sys := by
  unfold State.irq; (repeat' split) <;> rfl
@[simp] theorem State.irq_tick (s : State) (v : Nat) : (s.irq v).tick = s.tick := by
  unfold State.irq; (repeat' split) <;> rfl
@[simp] theorem State.irq_plan (s : State) (v : Nat) : (s.irq v).plan = s.plan := by
  unfold State.irq; (repeat' split) <;> rfl
@[simp] theorem State.irq_world (s : State) (v : Nat) : (s.irq v).world = s.world := by
  unfold State.irq; (repeat' split) <;> rfl
@[simp] theorem State.irq_d0 (s : State) (v : Nat) : (s.irq v).d0 = s.d0 := by
  unfold State.irq; (repeat' split) <;> rfl
@[simp] theorem State.irq_d1 (s : State) (v : Nat) : (s.irq v).d1 = s.d1 := by
  unfold State.irq; (repeat' split) <;> rfl
@[simp] theorem State.irq_image (s : State) (v : Nat) : (s.irq v).image = s.image := by
  unfold State.irq; (repeat' split) <;> rfl
@[simp] theorem State.irq_damaged (s : State) (v : Nat) : (s.irq v).damaged = s.damaged := by
  unfold State.irq; (repeat' split) <;> rfl
@[simp] theorem State.irq_loading (s : State) (v : Nat) : (s.irq v).loading = s.loading := by
  unfold State.irq; (repeat' split) <;> rfl
@[simp] theorem State.irq_chans (s : State) (v : Nat) : (s.irq v).chans = s.chans := by
  unfold State.irq; (repeat' split) <;> rfl
@[simp] theorem State.irq_kl (s : State) (v : Nat) : (s.irq v).kl = s.kl := by
  unfold State.irq; (repeat' split) <;> rfl
@[simp] theorem State.irq_dep (s : State) (v : Nat) : (s.irq v).dep = s.dep := by
  unfold State.irq; (repeat' split) <;> rfl
@[simp] theorem State.irq_tally (s : State) (v : Nat) : (s.irq v).tally = s.tally := by
  unfold State.irq; (repeat' split) <;> rfl
@[simp] theorem State.irq_sec (s : State) (v : Nat) : (s.irq v).sec = s.sec := by
  unfold State.irq; (repeat' split) <;> rfl
@[simp] theorem State.irq_bist (s : State) (v : Nat) : (s.irq v).bist = s.bist := by
  unfold State.irq; (repeat' split) <;> rfl
@[simp] theorem State.irq_power (s : State) (v : Nat) : (s.irq v).power = s.power := by
  unfold State.irq; (repeat' split) <;> rfl

theorem find_lt (l : List (Nat × Word)) (o a : Nat) (h : a < o) :
    (l.filter fun r => decide (r.1 < o)).find? (fun r => r.1 == a) = l.find? fun r => r.1 == a := by
  induction l with
  | nil => rfl
  | cons r l ih =>
    by_cases hr : r.1 < o
    · rw [List.filter_cons_of_pos (by simpa using hr)]
      by_cases he : r.1 = a
      · simp [he]
      · simp [he, ih]
    · rw [List.filter_cons_of_neg (by simpa using hr), ih]
      have : r.1 ≠ a := by omega
      simp [this]

theorem find_gt (l : List (Nat × Word)) (o a : Nat) (h : o < a) :
    (l.filter fun r => decide (o < r.1)).find? (fun r => r.1 == a) = l.find? fun r => r.1 == a := by
  induction l with
  | nil => rfl
  | cons r l ih =>
    by_cases hr : o < r.1
    · rw [List.filter_cons_of_pos (by simpa using hr)]
      by_cases he : r.1 = a
      · simp [he]
      · simp [he, ih]
    · rw [List.filter_cons_of_neg (by simpa using hr), ih]
      have : r.1 ≠ a := by omega
      simp [this]

theorem find_none_lt (l : List (Nat × Word)) (o a : Nat) (h : o ≤ a) :
    (l.filter fun r => decide (r.1 < o)).find? (fun r => r.1 == a) = none := by
  rw [List.find?_eq_none]
  intro r hr
  have := (List.mem_filter.mp hr).2
  simp only [decide_eq_true_eq, beq_iff_eq] at *
  omega

theorem find_none_gt (l : List (Nat × Word)) (o a : Nat) (h : a ≤ o) :
    (l.filter fun r => decide (o < r.1)).find? (fun r => r.1 == a) = none := by
  rw [List.find?_eq_none]
  intro r hr
  have := (List.mem_filter.mp hr).2
  simp only [decide_eq_true_eq, beq_iff_eq] at *
  omega

/-- A register reads as it was written. -/
@[simp] theorem State.reg_setReg (s : State) (o : Nat) (v : Word) : (s.setReg o v).reg o = v := by
  unfold State.setReg State.reg
  rw [List.find?_append, List.find?_append, find_none_lt _ _ _ (Nat.le_refl o), find_none_gt _ _ _ (Nat.le_refl o)]
  by_cases h : v = regReset o
  · simp [h]
  · simp [h]

/-- A write of another register leaves it. -/
theorem State.reg_setReg_ne (s : State) {o a : Nat} (v : Word) (h : a ≠ o) : (s.setReg o v).reg a = s.reg a := by
  unfold State.setReg State.reg
  rw [List.find?_append, List.find?_append]
  have hm : (if v = regReset o then [] else [(o, v)]).find? (fun r => r.1 == a) = none := by
    split <;> simp [Ne.symm h]
  rcases Nat.lt_or_gt_of_ne h with hl | hg
  · rw [find_lt _ _ _ hl, hm, find_none_gt _ _ _ (Nat.le_of_lt hl)]
    simp
  · rw [find_none_lt _ _ _ (Nat.le_of_lt hg), hm, find_gt _ _ _ hg]
    simp

@[simp] theorem State.reg_event (s : State) (o n : Nat) :
    (s.event o n).reg o = s.reg o ||| BitVec.ofNat 32 (2 ^ n) := State.reg_setReg _ _ _

theorem State.reg_event_ne (s : State) {o a : Nat} (n : Nat) (h : a ≠ o) : (s.event o n).reg a = s.reg a :=
  State.reg_setReg_ne _ _ h

@[simp] theorem State.reg_count (s : State) (o n : Nat) : (s.count o n).reg o = satAddWord (s.reg o) n :=
  State.reg_setReg _ _ _

theorem State.reg_count_ne (s : State) {o a : Nat} (n : Nat) (h : a ≠ o) : (s.count o n).reg a = s.reg a :=
  State.reg_setReg_ne _ _ h

@[simp] theorem State.reg_setField (s : State) (o hi lo v : Nat) :
    (s.setField o hi lo v).reg o = setBits (s.reg o) hi lo v := State.reg_setReg _ _ _

theorem State.reg_setField_ne (s : State) {o a : Nat} (hi lo v : Nat) (h : a ≠ o) :
    (s.setField o hi lo v).reg a = s.reg a := State.reg_setReg_ne _ _ h

/-- A read depends on the register list alone. -/
theorem State.reg_of_regs {s t : State} (h : t.regs = s.regs) (a : Nat) : t.reg a = s.reg a := by
  unfold State.reg
  rw [h]

@[simp] theorem State.reg_irq (s : State) (v a : Nat) : (s.irq v).reg a = s.reg a := State.reg_of_regs (by simp) a

@[simp] theorem State.reg_emit (s : State) (x : Output) (a : Nat) : (s.emit x).reg a = s.reg a := rfl

@[simp] theorem State.reg_advance (s : State) (t a : Nat) : (s.advance t).reg a = s.reg a :=
  State.reg_of_regs (by simp) a

@[simp] theorem State.reg_popCmd (s : State) (c r a : Nat) : (s.popCmd c r).reg a = s.reg a := rfl

@[simp] theorem State.popCmd_queue (s : State) (c r : Nat) : (s.popCmd c r).sys.queue = s.sys.queue.tail := rfl

@[simp] theorem State.popCmd_lastCode (s : State) (c r : Nat) : (s.popCmd c r).sys.lastCode = c := rfl

@[simp] theorem State.popCmd_reason (s : State) (c r : Nat) : (s.popCmd c r).sys.reason = r := rfl

@[simp] theorem State.popCmd_seq (s : State) (c r : Nat) : (s.popCmd c r).sys.seq = (s.sys.seq + 1) % 256 := rfl

@[simp] theorem State.die_setDie (s : State) (d : Die) (x : DieState) : (s.setDie d x).die d = x := by cases d <;> rfl

@[simp] theorem State.die_setDie_other (s : State) (d : Die) (x : DieState) :
    (s.setDie d x).die d.other = s.die d.other := by cases d <;> rfl

/-- The registers that an event offered to the log can change (R522, R523, R528). -/
def logRegs : List Nat := [rTallyEvents, rTallyLost, rTallySuppressed]

theorem State.reg_tallyPush (s : State) {a : Nat} (sev code source : Nat) (data : List Byte) (h : a ∉ logRegs) :
    (s.tallyPush sev code source data).reg a = s.reg a := by
  have h1 : a ≠ rTallyEvents := fun e => h (by simp [logRegs, e])
  unfold State.tallyPush
  extract_lets t e s1 s2 high s3
  have e2 : s2.reg a = s.reg a := by
    show (if sev = 1 then _ else if sev = 2 then _ else _ : State).reg a = _
    split
    · rw [State.reg_event_ne _ _ h1]; rfl
    · split
      · rw [State.reg_event_ne _ _ h1]; rfl
      · rfl
  have e3 : s3.reg a = s.reg a := by
    show (if high then _ else _ : State).reg a = _
    split
    · rw [State.reg_event_ne _ _ h1, e2]
    · exact e2
  split
  · rw [State.reg_irq, e3]
  · exact e3

theorem State.reg_tallyReport (s : State) {a : Nat} (h : a ∉ logRegs) : s.tallyReport.reg a = s.reg a := by
  unfold State.tallyReport
  generalize s.tally.supp = p
  obtain ⟨n, x, y⟩ := p
  dsimp only
  split
  · rfl
  · rw [State.reg_tallyPush _ _ _ _ _ h]; rfl

@[simp] theorem State.sortTally_reg (s : State) (a : Nat) : s.sortTally.reg a = s.reg a := by
  unfold State.sortTally
  split <;> rfl

@[simp] theorem State.spendToken_reg (s : State) (sev a : Nat) : (s.spendToken sev).reg a = s.reg a := by
  unfold State.spendToken
  split <;> rfl

theorem State.reg_stage (s : State) {a : Nat} (sev code source : Nat) (data : List Byte) (h : a ∉ logRegs) :
    (s.stage sev code source data).reg a = s.reg a := by
  have h1 : a ≠ rTallyEvents := fun e => h (by simp [logRegs, e])
  have h2 : a ≠ rTallyLost := fun e => h (by simp [logRegs, e])
  have lost : ∀ t : State, t.tallyLost.reg a = t.reg a := fun t => by
    unfold State.tallyLost
    rw [State.reg_count_ne _ _ h2, State.reg_event_ne _ _ h1]; rfl
  unfold State.stage
  dsimp only
  split
  · exact lost s
  · split
    · rw [lost, State.reg_tallyReport _ h]
    · rw [State.sortTally_reg, State.reg_tallyPush _ _ _ _ _ h, State.spendToken_reg, State.reg_tallyReport _ h]

theorem State.reg_log (s : State) {a : Nat} (sev code source : Nat) (data : List Byte) (h : a ∉ logRegs) :
    (s.log sev code source data).reg a = s.reg a := by
  have h1 : a ≠ rTallyEvents := fun e => h (by simp [logRegs, e])
  have h3 : a ≠ rTallySuppressed := fun e => h (by simp [logRegs, e])
  unfold State.log
  dsimp only
  split
  · rw [State.reg_count_ne _ _ h3, State.reg_event_ne _ _ h1]; rfl
  · exact State.reg_stage _ _ _ _ _ h

/-! ### The checks of registers as they are used -/

/-- Registers without a byte of wrong parity: their check as they are used changes nothing. -/
theorem State.checkUses_sound (s : State) (os : List Nat) (h : s.soundAt os = true) : s.checkUses os = s := by
  have one : ∀ o ∈ os, s.checkParity o [] = s := by
    intro o ho
    have hb : s.badRegs.filter (fun b => b.off == o) = [] := by
      have := List.all_eq_true.mp h o ho
      simp only [Bool.not_eq_true', List.any_eq_false] at this
      exact List.filter_eq_nil_iff.mpr this
    have hs : s.spoilParity false [] = s := by simp [State.spoilParity]
    unfold State.checkParity
    simp [hs, hb]
  unfold State.checkUses
  induction os with
  | nil => rfl
  | cons o os ih =>
    rw [List.foldl_cons, one o (by simp)]
    exact ih (by simp only [State.soundAt, List.all_cons, Bool.and_eq_true] at h; exact h.2) fun a ha => one a (by simp [ha])

/-- While a reset is asserted no monitor enters the safe state. -/
theorem State.monitor_inReset (s : State) (cause : Nat) (h : s.sys.inReset = true) : s.monitor cause = s := by
  simp [State.monitor, State.when, h]

/-- While a reset is asserted no cause enters the safe state. -/
theorem State.enterSafe_inReset (s : State) (cause : Nat) (h : s.sys.inReset = true) : s.enterSafe cause = s := by
  unfold State.enterSafe
  rw [if_pos h]

end Sys2Proof.Machine
end

