-- ==== Sys2Proof/Laws/KeptCommands.lean ====
section
/-! SUPPORT. What each command keeps: the invariant, the one-way changes of the OTP, the asserted safe state, and the
transitions of R45. -/

set_option Elab.async false
set_option linter.unusedTactic false
set_option linter.unreachableTactic false
set_option linter.unusedVariables false
set_option linter.tactic.unusedName false

namespace Sys2Proof.Machine
open Sys2Proof

theorem execTile_kept {z s : State} {stream : Nat} {arrival : Nat} {item : List Byte} (hs : Kept z s) : OutKept z (execTile stream arrival item s) :=
  OutKept.framed hs (execTile_framed (List.Subset.refl _) (Framed.refl s))

theorem execDir_kept {z s : State} {stream : Nat} {arrival : Nat} {item : List Byte} (hs : Kept z s) : OutKept z (execDir stream arrival item s) :=
  OutKept.framed hs (execDir_framed (List.Subset.refl _) (Framed.refl s))

theorem execAgent_kept {z s : State} {stream : Nat} {arrival : Nat} {item : List Byte} (hs : Kept z s) : OutKept z (execAgent stream arrival item s) :=
  OutKept.framed hs (execAgent_framed (List.Subset.refl _) (Framed.refl s))

theorem execEgo_kept {z s : State} {stream : Nat} {arrival : Nat} {item : List Byte} (hs : Kept z s) : OutKept z (execEgo stream arrival item s) :=
  OutKept.framed hs (execEgo_framed (List.Subset.refl _) (Framed.refl s))

theorem execRoute_kept {z s : State} {stream : Nat} {arrival : Nat} {item : List Byte} (hs : Kept z s) : OutKept z (execRoute stream arrival item s) :=
  OutKept.framed hs (execRoute_framed (List.Subset.refl _) (Framed.refl s))

theorem execUrgent_kept {z s : State} {stream : Nat} {arrival : Nat} {item : List Byte} (hs : Kept z s) : OutKept z (execUrgent stream arrival item s) :=
  OutKept.framed hs (execUrgent_framed (List.Subset.refl _) (Framed.refl s))

theorem execMalformed_kept {z s : State} {stream : Nat} {arrival : Nat} {item : List Byte} (hs : Kept z s) : OutKept z (execMalformed stream arrival item s) :=
  OutKept.framed hs (execMalformed_framed (List.Subset.refl _) (Framed.refl s))

theorem execEpochCommit_kept {z s : State} {t_ : Nat} {m0 m1 : TilesMet} {crcBad : List (Int × Int)}
    (hs : Kept z s) : OutKept z (execEpochCommit t_ m0 m1 crcBad s) := by
  unfold execEpochCommit
  repeat' (first
    | with_reducible assumption
    | with_reducible refine OutKept.next ?_
    | with_reducible refine State.when_kept ?_ (fun _ hs => ?_)
    | with_reducible refine State.when_kept ?_ (fun _ hs => ?_)
    | with_reducible refine State.advance_kept ?_
    | with_reducible refine State.beginCommit_kept ?_
    | with_reducible refine State.pumpCommit_kept ?_)

theorem execCommitEnd_kept {z s : State} {t_ : Nat}
    (hs : Kept z s) : OutKept z (execCommitEnd t_ s) :=
  OutKept.framed hs (execCommitEnd_framed (List.Subset.refl _) (Framed.refl _))

theorem execS1Sync_kept {z s : State}  (hs : Kept z s) : OutKept z (execS1Sync s) :=
  OutKept.framed hs (execS1Sync_framed (List.Subset.refl _) (Framed.refl s))

theorem execPhaseRelease_kept {z s : State} {t_ : Nat} {ph : Nat}
    (hs : Kept z s) : OutKept z (execPhaseRelease t_ ph s) := by
  unfold execPhaseRelease
  repeat' (first
    | with_reducible assumption
    | with_reducible refine OutKept.next ?_
    | with_reducible refine State.when_kept ?_ (fun _ hs => ?_)
    | with_reducible refine State.when_kept ?_ (fun _ hs => ?_)
    | with_reducible refine State.advance_kept ?_
    | with_reducible refine State.releasePhase_kept ?_)

theorem execPhaseWatchdog_kept {z s : State} {t_ : Nat} {b : BudgetEnd}
    (hs : Kept z s) : OutKept z (execPhaseWatchdog t_ b s) := by
  unfold execPhaseWatchdog
  repeat' (first
    | with_reducible assumption
    | with_reducible refine OutKept.next ?_
    | with_reducible refine State.when_kept ?_ (fun _ hs => ?_)
    | with_reducible refine State.when_kept ?_ (fun _ hs => ?_)
    | with_reducible refine State.advance_kept ?_
    | with_reducible refine State.contendAll_kept ?_
    | with_reducible refine State.overrun_kept ?_
    | with_reducible refine State.emitEnds_kept ?_
    | (fail_if_no_progress extract_lets +onlyGivenNames x
       refine cutL (p := Kept z x) ?_ ?_; subst x; rotate_left; intro hs; try clear_value x; rotate_right)
    | (fail_if_no_progress extract_lets +onlyGivenNames x
       first
       | (have hd : List _ := x; clear hd; clear_value x)
       | (have hd : Bool := x; clear hd; clear_value x)
       | (have hd : Nat := x; clear hd; clear_value x)
       | subst x)
    | fail_if_no_progress beta_reduce)

theorem execRecordDeadline_kept {z s : State} {b : DeadlineMet}
    (hs : Kept z s) : OutKept z (execRecordDeadline b s) :=
  OutKept.framed hs (execRecordDeadline_framed (List.Subset.refl _) (Framed.refl _))

theorem execTimeup_kept {z s : State} {t_ : Nat}
    (hs : Kept z s) : OutKept z (execTimeup t_ s) := by
  unfold execTimeup
  repeat' (first
    | with_reducible assumption
    | with_reducible refine OutKept.next ?_
    | with_reducible refine State.when_kept ?_ (fun _ hs => ?_)
    | with_reducible refine State.when_kept ?_ (fun _ hs => ?_)
    | with_reducible refine State.abandonRounds_kept ?_
    | with_reducible refine State.event_kept ?_
    | with_reducible refine State.advance_kept ?_
    | (fail_if_no_progress extract_lets +onlyGivenNames x
       refine cutL (p := Kept z x) ?_ ?_; subst x; rotate_left; intro hs; try clear_value x; rotate_right)
    | (fail_if_no_progress extract_lets +onlyGivenNames x
       first
       | (have hd : List _ := x; clear hd; clear_value x)
       | (have hd : Bool := x; clear hd; clear_value x)
       | (have hd : Nat := x; clear hd; clear_value x)
       | subst x)
    | fail_if_no_progress beta_reduce
    | with_reducible refine Kept.foldl ?_ (fun _ hs _ => ?_)
    | ((with_reducible refine Kept.upd ?_ ?_); rotate_left; exact ⟨rfl, rfl, ⟨rfl, rfl⟩, rfl, rfl, rfl, rfl⟩))

theorem execHold_kept {z s : State} {t : Nat}
    (hs : Kept z s) : OutKept z (execHold t s) := by
  unfold execHold
  repeat' (first
    | with_reducible assumption
    | with_reducible refine OutKept.next ?_
    | with_reducible refine State.advance_kept ?_
    | with_reducible refine State.popCmd_kept ?_
    | with_reducible refine State.waitBoundary_kept ?_
    | with_reducible refine State.when_kept ?_ (fun _ hs => ?_)
    | (fail_if_no_progress extract_lets +onlyGivenNames x
       refine cutL (p := Kept z x) ?_ ?_; subst x; rotate_left; intro hs; try clear_value x; rotate_right)
    | split)

theorem execSave_kept {z s : State} {t_ : Nat}
    (hs : Kept z s) : OutKept z (execSave t_ s) := by
  unfold execSave
  repeat' (first
    | with_reducible assumption
    | with_reducible refine OutKept.next ?_
    | with_reducible refine State.when_kept ?_ (fun _ hs => ?_)
    | with_reducible refine State.when_kept ?_ (fun _ hs => ?_)
    | with_reducible refine State.advance_kept ?_
    | with_reducible refine State.checkUses_kept ?_
    | with_reducible refine State.popCmd_kept ?_
    | with_reducible refine State.afterFront_kept ?_ (fun _ hs => ?_)
    | with_reducible refine State.saveTo_kept ?_
    | with_reducible exact State.saveTo_kept_eq (by assumption) (by assumption)
    | with_reducible refine State.sampleBase_kept ?_
    | (fail_if_no_progress extract_lets +onlyGivenNames x
       refine cutL (p := Kept z x) ?_ ?_; subst x; rotate_left; intro hs; try clear_value x; rotate_right)
    | (fail_if_no_progress extract_lets +onlyGivenNames x
       first
       | (have hd : List _ := x; clear hd; clear_value x)
       | (have hd : Bool := x; clear hd; clear_value x)
       | (have hd : Nat := x; clear hd; clear_value x)
       | subst x)
    | fail_if_no_progress beta_reduce
    | split
    | with_reducible refine Kept.ite ?_ ?_
    | dsimp only)

theorem execSaveDone_kept {z s : State}
    (hs : Kept z s) : OutKept z (execSaveDone s) := by
  unfold execSaveDone
  repeat' (first
    | with_reducible assumption
    | with_reducible refine OutKept.next ?_
    | with_reducible refine State.when_kept ?_ (fun _ hs => ?_)
    | with_reducible refine State.when_kept ?_ (fun _ hs => ?_)
    | with_reducible refine State.savedTo_kept ?_
    | with_reducible refine State.popCmd_kept ?_)

theorem execRestore_kept {z s : State} {t_ : Nat}
    (hs : Kept z s) : OutKept z (execRestore t_ s) := by
  unfold execRestore
  repeat' (first
    | with_reducible assumption
    | with_reducible refine OutKept.next ?_
    | with_reducible refine State.when_kept ?_ (fun _ hs => ?_)
    | with_reducible refine State.when_kept ?_ (fun _ hs => ?_)
    | with_reducible refine State.advance_kept ?_
    | with_reducible refine State.checkUses_kept ?_
    | with_reducible refine State.sampleBase_kept ?_
    | with_reducible refine State.popCmd_kept ?_
    | (fail_if_no_progress extract_lets +onlyGivenNames x
       refine cutL (p := Kept z x) ?_ ?_; subst x; rotate_left; intro hs; try clear_value x; rotate_right)
    | (fail_if_no_progress extract_lets +onlyGivenNames x
       first
       | (have hd : List _ := x; clear hd; clear_value x)
       | (have hd : Bool := x; clear hd; clear_value x)
       | (have hd : Nat := x; clear hd; clear_value x)
       | subst x)
    | fail_if_no_progress beta_reduce
    | split
    | with_reducible refine Kept.ite ?_ ?_)

theorem execRestoreDone_kept {z s : State} {ue : Bool}
    (hs : Kept z s) : OutKept z (execRestoreDone ue s) := by
  unfold execRestoreDone
  repeat' (first
    | with_reducible assumption
    | with_reducible refine OutKept.next ?_
    | with_reducible refine State.when_kept ?_ (fun _ hs => ?_)
    | with_reducible refine State.when_kept ?_ (fun _ hs => ?_)
    | with_reducible refine State.afterFront_kept ?_ (fun _ hs => ?_)
    | with_reducible refine State.sourceUe_kept ?_
    | with_reducible refine State.restoreLoad_kept ?_
    | with_reducible refine State.setReg_kept ?_
    | with_reducible refine State.log_kept ?_
    | with_reducible refine State.popCmd_kept ?_
    | (fail_if_no_progress extract_lets +onlyGivenNames x
       refine cutL (p := Kept z x) ?_ ?_; subst x; rotate_left; intro hs; try clear_value x; rotate_right)
    | (fail_if_no_progress extract_lets +onlyGivenNames x
       first
       | (have hd : List _ := x; clear hd; clear_value x)
       | (have hd : Bool := x; clear hd; clear_value x)
       | (have hd : Nat := x; clear hd; clear_value x)
       | subst x)
    | fail_if_no_progress beta_reduce
    | split
    | with_reducible refine Kept.ite ?_ ?_)

theorem execUnlistedCode_kept {z s : State} {t : Nat}
    (hs : Kept z s) : OutKept z (execUnlistedCode t s) := by
  unfold execUnlistedCode
  repeat' (first
    | with_reducible assumption
    | with_reducible refine OutKept.next ?_
    | with_reducible refine State.advance_kept ?_
    | with_reducible refine State.popCmd_kept ?_
    | with_reducible refine Kept.ite ?_ ?_
    | split)

theorem execCommit_kept {z s : State} {t_ : Nat}
    (hs : Kept z s) : OutKept z (execCommit t_ s) := by
  unfold execCommit
  repeat' (first
    | with_reducible assumption
    | with_reducible refine OutKept.next ?_
    | with_reducible refine State.when_kept ?_ (fun _ hs => ?_)
    | with_reducible refine State.when_kept ?_ (fun _ hs => ?_)
    | with_reducible refine State.advance_kept ?_
    | with_reducible refine State.checkUses_kept ?_
    | with_reducible refine State.popCmd_kept ?_
    | with_reducible refine State.takeSh_kept ?_
    | with_reducible refine State.mend_kept ?_
    | with_reducible refine State.changeProfile_kept ?_
    | with_reducible refine State.checkCoord_kept ?_
    | (fail_if_no_progress extract_lets +onlyGivenNames x
       refine cutL (p := Kept z x) ?_ ?_; subst x; rotate_left; intro hs; try clear_value x; rotate_right)
    | (fail_if_no_progress extract_lets +onlyGivenNames x
       first
       | (have hd : List _ := x; clear hd; clear_value x)
       | (have hd : Bool := x; clear hd; clear_value x)
       | (have hd : Nat := x; clear hd; clear_value x)
       | subst x)
    | fail_if_no_progress beta_reduce
    | split
    | with_reducible refine Kept.ite ?_ ?_
    | with_reducible refine Kept.foldl ?_ (fun _ hs _ => ?_)
    | ((with_reducible refine Kept.upd ?_ ?_); rotate_left; exact ⟨rfl, rfl, ⟨rfl, rfl⟩, rfl, rfl, rfl, rfl⟩))

theorem execDiscard_kept {z s : State}  (hs : Kept z s) : OutKept z (execDiscard s) :=
  OutKept.framed hs (execDiscard_framed (List.Subset.refl _) (Framed.refl s))

theorem execHalt_kept {z s : State} {p : HaltPulse}
    (hs : Kept z s) : OutKept z (execHalt p s) := by
  unfold execHalt
  repeat' (first
    | with_reducible assumption
    | with_reducible refine OutKept.next ?_
    | with_reducible refine State.when_kept ?_ (fun _ hs => ?_)
    | with_reducible refine State.advance_kept ?_
    | with_reducible refine State.when_kept ?_ (fun _ hs => ?_)
    | with_reducible refine State.haltNow_kept ?_
    | (fail_if_no_progress extract_lets +onlyGivenNames x
       refine cutL (p := Kept z x) ?_ ?_; subst x; rotate_left; intro hs; try clear_value x; rotate_right)
    | (fail_if_no_progress extract_lets +onlyGivenNames x
       first
       | (have hd : List _ := x; clear hd; clear_value x)
       | (have hd : Bool := x; clear hd; clear_value x)
       | (have hd : Nat := x; clear hd; clear_value x)
       | subst x)
    | fail_if_no_progress beta_reduce
    | ((with_reducible refine Kept.upd ?_ ?_); rotate_left; exact ⟨rfl, rfl, ⟨rfl, rfl⟩, rfl, rfl, rfl, rfl⟩))

theorem execHaltNRise_kept {z s : State}  (hs : Kept z s) : OutKept z (execHaltNRise s) :=
  OutKept.framed hs (execHaltNRise_framed (List.Subset.refl _) (Framed.refl s))

theorem execRecover_kept {z s : State} {t_ : Nat}
    (hs : Kept z s) : OutKept z (execRecover t_ s) := by
  unfold execRecover
  repeat' (first
    | with_reducible assumption
    | with_reducible refine OutKept.next ?_
    | with_reducible exact OutKept.fault
    | with_reducible refine State.when_kept ?_ (fun _ hs => ?_)
    | with_reducible refine State.when_kept ?_ (fun _ hs => ?_)
    | with_reducible refine State.advance_kept ?_
    | with_reducible refine State.popCmd_kept ?_
    | with_reducible refine State.setReg_kept ?_
    | (fail_if_no_progress extract_lets +onlyGivenNames x
       refine cutL (p := Kept z x) ?_ ?_; subst x; rotate_left; intro hs; try clear_value x; rotate_right)
    | (fail_if_no_progress extract_lets +onlyGivenNames x
       first
       | (have hd : List _ := x; clear hd; clear_value x)
       | (have hd : Bool := x; clear hd; clear_value x)
       | (have hd : Nat := x; clear hd; clear_value x)
       | subst x)
    | fail_if_no_progress beta_reduce
    | split
    | with_reducible refine Kept.ite ?_ ?_
    | ((with_reducible refine Kept.upd ?_ ?_); rotate_left; exact ⟨rfl, rfl, ⟨rfl, rfl⟩, rfl, rfl, rfl, rfl⟩))

theorem execMark_kept {z s : State} {port : Nat} {tickLo : Nat} {remain : Nat} {arrival : Nat}
    (hs : Kept z s) : OutKept z (execMark port tickLo remain arrival s) :=
  OutKept.framed hs (execMark_framed (List.Subset.refl _) (Framed.refl _))

theorem execMarkerSend_kept {z s : State} {t : Nat} (hs : Kept z s) : OutKept z (execMarkerSend t s) :=
  OutKept.framed hs (execMarkerSend_framed (List.Subset.refl _) (Framed.refl s))

theorem execTickTiming_kept {z s : State} {t : Nat} {spacing : Nat}
    (hs : Kept z s) : OutKept z (execTickTiming t spacing s) := by
  unfold execTickTiming
  repeat' (first
    | with_reducible assumption
    | with_reducible refine OutKept.next ?_
    | with_reducible refine State.advance_kept ?_
    | with_reducible refine State.enterSafe_kept ?_
    | with_reducible refine State.when_kept ?_ (fun _ hs => ?_))

theorem execDoorbell_kept {z s : State} {ch : Nat} {lo : Word} (hs : Kept z s) : OutKept z (execDoorbell ch lo s) :=
  OutKept.framed hs (execDoorbell_framed (List.Subset.refl _) (Framed.refl s))

theorem execChainStart_kept {z s : State} {ch : Nat}
    (hs : Kept z s) : OutKept z (execChainStart ch s) :=
  OutKept.framed hs (execChainStart_framed (List.Subset.refl _) (Framed.refl _))

theorem execDescriptorStart_kept {z s : State} {ch : Nat} {desc : List Byte} {sg : List Byte}
    (hs : Kept z s) : OutKept z (execDescriptorStart ch desc sg s) :=
  OutKept.framed hs (execDescriptorStart_framed (List.Subset.refl _) (Framed.refl _))

theorem execDescriptorComplete_kept {z s : State} {ch : Nat} {x_ : Moved}
    (hs : Kept z s) : OutKept z (execDescriptorComplete ch x_ s) := by
  unfold execDescriptorComplete
  repeat' (first
    | with_reducible assumption
    | with_reducible refine OutKept.named ?_
    | with_reducible exact OutKept.fault
    | with_reducible refine State.when_kept ?_ (fun _ hs => ?_)
    | with_reducible refine State.when_kept ?_ (fun _ hs => ?_)
    | with_reducible refine State.advance_kept ?_
    | with_reducible refine State.contendAll_kept ?_
    | with_reducible refine State.afterFront_kept ?_ (fun _ hs => ?_)
    | with_reducible refine State.takeData_kept ?_
    | with_reducible refine State.readDevice_kept ?_
    | with_reducible exact State.readDevice_kept_eq (by assumption) (by assumption)
    | with_reducible refine State.endChain_kept ?_
    | with_reducible refine State.moveOut_kept ?_
    | with_reducible refine State.setChain_kept ?_
    | (fail_if_no_progress extract_lets +onlyGivenNames x
       refine cutL (p := Kept z x) ?_ ?_; subst x; rotate_left; intro hs; try clear_value x; rotate_right)
    | (fail_if_no_progress extract_lets +onlyGivenNames x
       first
       | (have hd : List _ := x; clear hd; clear_value x)
       | (have hd : Bool := x; clear hd; clear_value x)
       | (have hd : Nat := x; clear hd; clear_value x)
       | subst x)
    | fail_if_no_progress beta_reduce
    | split
    | with_reducible refine Kept.ite ?_ ?_
    | dsimp only)

theorem execRingRecord_kept {z s : State} {ch : Nat}
    (hs : Kept z s) : OutKept z (execRingRecord ch s) :=
  OutKept.framed hs (execRingRecord_framed (List.Subset.refl _) (Framed.refl _))

theorem execFlushReadReturn_kept {z s : State} {ch : Nat} {t : Nat} (hs : Kept z s) : OutKept z (execFlushReadReturn ch t s) :=
  OutKept.framed hs (execFlushReadReturn_framed (List.Subset.refl _) (Framed.refl s))

theorem execCplTimeout_kept {z s : State} {ch : Nat}
    (hs : Kept z s) : OutKept z (execCplTimeout ch s) :=
  OutKept.framed hs (execCplTimeout_framed (List.Subset.refl _) (Framed.refl _))

theorem execHostReadCompletion_kept {z s : State} {ch : Nat} {kind : Nat}
    (hs : Kept z s) : OutKept z (execHostReadCompletion ch kind s) :=
  OutKept.framed hs (execHostReadCompletion_framed (List.Subset.refl _) (Framed.refl _))

theorem execPoisonRx_kept {z s : State}
    (hs : Kept z s) : OutKept z (execPoisonRx s) :=
  OutKept.framed hs (execPoisonRx_framed (List.Subset.refl _) (Framed.refl _))

theorem execChPause_kept {z s : State} {ch : Nat} (hs : Kept z s) : OutKept z (execChPause ch s) :=
  OutKept.framed hs (execChPause_framed (List.Subset.refl _) (Framed.refl s))

theorem execChResume_kept {z s : State} {ch : Nat} (hs : Kept z s) : OutKept z (execChResume ch s) :=
  OutKept.framed hs (execChResume_framed (List.Subset.refl _) (Framed.refl s))

theorem execChStop_kept {z s : State} {ch : Nat} (hs : Kept z s) : OutKept z (execChStop ch s) :=
  OutKept.framed hs (execChStop_framed (List.Subset.refl _) (Framed.refl s))

theorem execChCringSize_kept {z s : State} {ch : Nat} {v : Word} (hs : Kept z s) : OutKept z (execChCringSize ch v s) :=
  OutKept.framed hs (execChCringSize_framed (List.Subset.refl _) (Framed.refl s))

theorem execMerit_kept {z s : State} {d : Die} {e stall : Nat} {met : SelMet}
    (hs : Kept z s) : OutKept z (execMerit d e stall met s) := by
  unfold execMerit
  repeat' (first
    | with_reducible assumption
    | with_reducible refine OutKept.next ?_
    | with_reducible refine State.runSel_kept ?_ (fun _ _ _ hs => ?_)
    | with_reducible refine State.doMerit_kept ?_)

theorem execCompact_kept {z s : State} {d : Die} {e stall : Nat} {met : SelMet}
    (hs : Kept z s) : OutKept z (execCompact d e stall met s) := by
  unfold execCompact
  repeat' (first
    | with_reducible assumption
    | with_reducible refine OutKept.next ?_
    | with_reducible refine State.runSel_kept ?_ (fun _ _ _ hs => ?_)
    | with_reducible refine State.doCompact_kept ?_)

theorem execTopk_kept {z s : State} {d : Die} {e stall : Nat} {met : SelMet}
    (hs : Kept z s) : OutKept z (execTopk d e stall met s) := by
  unfold execTopk
  repeat' (first
    | with_reducible assumption
    | with_reducible refine OutKept.next ?_
    | with_reducible refine State.runSel_kept ?_ (fun _ _ _ hs => ?_)
    | with_reducible refine State.doTopk_kept ?_)

theorem execKeyins_kept {z s : State} {d : Die} {e stall : Nat} {met : SelMet}
    (hs : Kept z s) : OutKept z (execKeyins d e stall met s) := by
  unfold execKeyins
  repeat' (first
    | with_reducible assumption
    | with_reducible refine OutKept.next ?_
    | with_reducible refine State.runSel_kept ?_ (fun _ _ _ hs => ?_)
    | with_reducible refine State.doKeyins_kept ?_)

theorem execSwGo_kept {z s : State} {d : Die} {e : Nat}
    (hs : Kept z s) : OutKept z (execSwGo d e s) := by
  unfold execSwGo
  repeat' (first
    | with_reducible assumption
    | with_reducible refine OutKept.named ?_
    | with_reducible refine State.write32_kept ?_ (fun _ hs => ?_)
    | with_reducible refine State.softSelect_kept ?_)

theorem execIhaulGo_kept {z s : State} {d : Die} {c : Nat}
    (hs : Kept z s) : OutKept z (execIhaulGo d c s) := by
  unfold execIhaulGo
  repeat' (first
    | with_reducible assumption
    | with_reducible refine OutKept.named ?_
    | with_reducible refine State.write32_kept ?_ (fun _ hs => ?_)
    | with_reducible refine State.softIhaul_kept ?_)

theorem execSweepStep_kept {z s : State} {d : Die} {p_ : Nat} {t_ : Nat} {met : StepMet}
    (hs : Kept z s) : OutKept z (execSweepStep d p_ t_ met s) := by
  unfold execSweepStep
  repeat' (first
    | with_reducible assumption
    | with_reducible refine OutKept.named ?_
    | with_reducible refine State.when_kept ?_ (fun _ hs => ?_)
    | with_reducible refine State.setDie_kept ?_ (fun i => ?_)
    | with_reducible exact Kept.die (by assumption) (by assumption) _
    | with_reducible refine Kept.die ?_ (by assumption) _
    | (with_reducible refine show rising _ from ?_; simp; with_reducible refine Kept.die ?_ (by assumption) _)
    | with_reducible refine State.when_kept ?_ (fun _ hs => ?_)
    | with_reducible refine State.broadcastAgents_kept ?_
    | with_reducible refine State.countEngineCe_kept ?_
    | with_reducible refine State.performStep_kept ?_
    | with_reducible refine State.engineFault_kept ?_
    | (fail_if_no_progress extract_lets +onlyGivenNames x
       refine cutL (p := Kept z x) ?_ ?_; subst x; rotate_left; intro hs; try clear_value x; rotate_right)
    | (fail_if_no_progress extract_lets +onlyGivenNames x
       first
       | (have hd : List _ := x; clear hd; clear_value x)
       | (have hd : Bool := x; clear hd; clear_value x)
       | (have hd : Nat := x; clear hd; clear_value x)
       | subst x)
    | fail_if_no_progress beta_reduce
    | split
    | with_reducible refine Kept.ite ?_ ?_
    | ((with_reducible refine Kept.upd ?_ ?_); rotate_left; exact ⟨rfl, rfl, ⟨rfl, rfl⟩, rfl, rfl, rfl, rfl⟩)
    | dsimp only)

theorem execCanarySlotEnd_kept {z s : State} {d : Die} {corrupt : List Nat} {met : CanaryMet}
    (hs : Kept z s) : OutKept z (execCanarySlotEnd d corrupt met s) := by
  unfold execCanarySlotEnd
  repeat' (first
    | with_reducible assumption
    | with_reducible refine OutKept.next ?_
    | with_reducible refine State.when_kept ?_ (fun _ hs => ?_)
    | with_reducible refine State.when_kept ?_ (fun _ hs => ?_)
    | with_reducible refine State.slotErrors_kept ?_
    | with_reducible refine State.endCanary_kept ?_
    | with_reducible refine State.setReg_kept ?_
    | (fail_if_no_progress extract_lets +onlyGivenNames x
       refine cutL (p := Kept z x) ?_ ?_; subst x; rotate_left; intro hs; try clear_value x; rotate_right)
    | (fail_if_no_progress extract_lets +onlyGivenNames x
       first
       | (have hd : List _ := x; clear hd; clear_value x)
       | (have hd : Bool := x; clear hd; clear_value x)
       | (have hd : Nat := x; clear hd; clear_value x)
       | subst x)
    | fail_if_no_progress beta_reduce
    | split
    | with_reducible refine Kept.foldl ?_ (fun _ hs _ => ?_)
    | ((with_reducible refine Kept.upd ?_ ?_); rotate_left; exact ⟨rfl, rfl, ⟨rfl, rfl⟩, rfl, rfl, rfl, rfl⟩)
    | dsimp only)

theorem execTaskDispatch_kept {z s : State} {d : Die} {cls : Nat} {by_ : Starter}
    (hs : Kept z s) : OutKept z (execTaskDispatch d cls by_ s) := by
  unfold execTaskDispatch
  repeat' (first
    | with_reducible assumption
    | with_reducible refine OutKept.named ?_
    | with_reducible exact OutKept.fault
    | with_reducible refine State.when_kept ?_ (fun _ hs => ?_)
    | with_reducible refine State.when_kept ?_ (fun _ hs => ?_)
    | with_reducible refine State.allocWait_kept ?_
    | with_reducible refine State.afterFront_kept ?_ (fun _ hs => ?_)
    | with_reducible refine State.countDramCe_kept ?_
    | with_reducible refine State.giveTask_kept ?_
    | (fail_if_no_progress extract_lets +onlyGivenNames x
       refine cutL (p := Kept z x) ?_ ?_; subst x; rotate_left; intro hs; try clear_value x; rotate_right)
    | (fail_if_no_progress extract_lets +onlyGivenNames x
       first
       | (have hd : List _ := x; clear hd; clear_value x)
       | (have hd : Bool := x; clear hd; clear_value x)
       | (have hd : Nat := x; clear hd; clear_value x)
       | subst x)
    | fail_if_no_progress beta_reduce
    | split
    | with_reducible refine Kept.ite ?_ ?_
    | dsimp only)

theorem execReadyListEntry_kept {z s : State} {d : Die} {cls : Nat}
    (hs : Kept z s) : OutKept z (execReadyListEntry d cls s) :=
  OutKept.framed hs (execReadyListEntry_framed (List.Subset.refl _) (Framed.refl _))

theorem execTaskComplete_kept {z s : State} {d : Die} {t_ : Nat} {what : Ending}
    (hs : Kept z s) : OutKept z (execTaskComplete d t_ what s) := by
  unfold execTaskComplete
  repeat' (first
    | with_reducible assumption
    | with_reducible refine OutKept.next ?_
    | with_reducible refine OutKept.named ?_
    | with_reducible refine State.when_kept ?_ (fun _ hs => ?_)
    | with_reducible refine State.when_kept ?_ (fun _ hs => ?_)
    | with_reducible refine State.advance_kept ?_
    | with_reducible refine State.endTask_kept ?_
    | with_reducible refine State.endRerun_kept ?_
    | with_reducible refine State.compareNet_kept ?_
    | with_reducible refine State.thirdRun_kept ?_
    | with_reducible refine State.endPass_kept ?_
    | with_reducible refine State.endSweepCompare_kept ?_
    | with_reducible refine State.vote_kept ?_
    | with_reducible refine State.walkDown_kept ?_
    | with_reducible refine State.emit_kept ?_
    | with_reducible refine State.emitRecord_kept ?_
    | (fail_if_no_progress extract_lets +onlyGivenNames x
       refine cutL (p := Kept z x) ?_ ?_; subst x; rotate_left; intro hs; try clear_value x; rotate_right)
    | (fail_if_no_progress extract_lets +onlyGivenNames x
       first
       | (have hd : List _ := x; clear hd; clear_value x)
       | (have hd : Bool := x; clear hd; clear_value x)
       | (have hd : Nat := x; clear hd; clear_value x)
       | subst x)
    | fail_if_no_progress beta_reduce
    | split
    | dsimp only)

theorem execTestSliceStart_kept {z s : State} {d : Die} {cls : Nat} {unit : Nat} {t_ : Nat}
    (hs : Kept z s) : OutKept z (execTestSliceStart d cls unit t_ s) :=
  OutKept.framed hs (execTestSliceStart_framed (List.Subset.refl _) (Framed.refl _))

theorem execTestSliceEnd_kept {z s : State} {d : Die} {cls : Nat} {unit : Nat} {t_ : Nat} {passed : Bool}
    (hs : Kept z s) : OutKept z (execTestSliceEnd d cls unit t_ passed s) := by
  unfold execTestSliceEnd
  repeat' (first
    | with_reducible assumption
    | with_reducible refine OutKept.named ?_
    | with_reducible refine State.when_kept ?_ (fun _ hs => ?_)
    | with_reducible refine State.setDie_kept ?_ (fun i => ?_)
    | with_reducible exact Kept.die (by assumption) (by assumption) _
    | with_reducible refine Kept.die ?_ (by assumption) _
    | (with_reducible refine show rising _ from ?_; simp; with_reducible refine Kept.die ?_ (by assumption) _)
    | with_reducible refine State.when_kept ?_ (fun _ hs => ?_)
    | with_reducible refine State.advance_kept ?_
    | with_reducible refine State.count_kept ?_
    | with_reducible refine State.event_kept ?_
    | with_reducible refine State.log_kept ?_
    | with_reducible refine State.rotationPoint_kept ?_
    | (fail_if_no_progress extract_lets +onlyGivenNames x
       refine cutL (p := Kept z x) ?_ ?_; subst x; rotate_left; intro hs; try clear_value x; rotate_right)
    | (fail_if_no_progress extract_lets +onlyGivenNames x
       first
       | (have hd : List _ := x; clear hd; clear_value x)
       | (have hd : Bool := x; clear hd; clear_value x)
       | (have hd : Nat := x; clear hd; clear_value x)
       | subst x)
    | fail_if_no_progress beta_reduce
    | ((with_reducible refine Kept.upd ?_ ?_); rotate_left; exact ⟨rfl, rfl, ⟨rfl, rfl⟩, rfl, rfl, rfl, rfl⟩))

theorem execLatent_kept {z s : State} {d : Die} {cls : Nat} {unit : Nat} {ageMs : Nat}
    (hs : Kept z s) : OutKept z (execLatent d cls unit ageMs s) :=
  OutKept.framed hs (execLatent_framed (List.Subset.refl _) (Framed.refl _))

theorem execTestOverdue_kept {z s : State} {t_ : Nat} {d : Die} {cls : Nat} {unit : Nat}
    (hs : Kept z s) : OutKept z (execTestOverdue t_ d cls unit s) := by
  unfold execTestOverdue
  repeat' (first
    | with_reducible assumption
    | with_reducible refine OutKept.named ?_
    | with_reducible refine State.when_kept ?_ (fun _ hs => ?_)
    | with_reducible refine State.when_kept ?_ (fun _ hs => ?_)
    | with_reducible refine State.advance_kept ?_
    | with_reducible refine State.enterSafe_kept ?_)

theorem execIssueVerdict_kept {z s : State} {met : CheckMet}
    (hs : Kept z s) : OutKept z (execIssueVerdict met s) := by
  unfold execIssueVerdict
  repeat' (first
    | with_reducible assumption
    | with_reducible refine OutKept.next ?_
    | with_reducible refine State.when_kept ?_ (fun _ hs => ?_)
    | with_reducible refine State.advance_kept ?_
    | with_reducible refine State.count_kept ?_
    | with_reducible refine State.enterSafe_kept ?_
    | with_reducible refine State.setReg_kept ?_
    | with_reducible refine State.when_kept ?_ (fun _ hs => ?_)
    | with_reducible refine State.event_kept ?_
    | with_reducible refine State.judge_kept ?_
    | (fail_if_no_progress extract_lets +onlyGivenNames x
       refine cutL (p := Kept z x) ?_ ?_; subst x; rotate_left; intro hs; try clear_value x; rotate_right)
    | (fail_if_no_progress extract_lets +onlyGivenNames x
       first
       | (have hd : List _ := x; clear hd; clear_value x)
       | (have hd : Bool := x; clear hd; clear_value x)
       | (have hd : Nat := x; clear hd; clear_value x)
       | subst x)
    | fail_if_no_progress beta_reduce
    | split
    | with_reducible refine Kept.ite ?_ ?_
    | ((with_reducible refine Kept.upd ?_ ?_); rotate_left; exact ⟨rfl, rfl, ⟨rfl, rfl⟩, rfl, rfl, rfl, rfl⟩)
    | dsimp only)

theorem execVerdictLate_kept {z s : State} {t : Nat}
    (hs : Kept z s) : OutKept z (execVerdictLate t s) := by
  unfold execVerdictLate
  repeat' (first
    | with_reducible assumption
    | with_reducible refine OutKept.next ?_
    | with_reducible refine State.advance_kept ?_
    | with_reducible refine State.enterSafe_kept ?_
    | with_reducible refine State.when_kept ?_ (fun _ hs => ?_)
    | split)

theorem execSafeReq_kept {z s : State} {t : Nat}
    (hs : Kept z s) : OutKept z (execSafeReq t s) := by
  unfold execSafeReq
  repeat' (first
    | with_reducible assumption
    | with_reducible refine OutKept.next ?_
    | with_reducible refine State.advance_kept ?_
    | with_reducible refine State.write32_kept ?_ (fun _ hs => ?_)
    | with_reducible refine State.hostSafe_kept ?_)

theorem execLockstep_kept {z s : State} {t : Nat}
    (hs : Kept z s) : OutKept z (execLockstep t s) := by
  unfold execLockstep
  repeat' (first
    | with_reducible assumption
    | with_reducible refine OutKept.next ?_
    | with_reducible refine State.advance_kept ?_
    | with_reducible refine State.enterSafe_kept ?_)

theorem execDepClock_kept {z s : State} {t_ : Nat} {ppm : Int}
    (hs : Kept z s) : OutKept z (execDepClock t_ ppm s) := by
  unfold execDepClock
  repeat' (first
    | with_reducible assumption
    | with_reducible refine OutKept.next ?_
    | with_reducible refine State.setClock_kept ?_
    | with_reducible refine State.releasePor_kept ?_
    | with_reducible refine State.advance_kept ?_
    | with_reducible refine State.setField_kept ?_
    | with_reducible refine State.clockLost_kept ?_
    | with_reducible refine State.monitor_kept ?_
    | with_reducible refine State.causeOff_kept ?_
    | (fail_if_no_progress extract_lets +onlyGivenNames x
       refine cutL (p := Kept z x) ?_ ?_; subst x; rotate_left; intro hs; try clear_value x; rotate_right)
    | (fail_if_no_progress extract_lets +onlyGivenNames x
       first
       | (have hd : List _ := x; clear hd; clear_value x)
       | (have hd : Bool := x; clear hd; clear_value x)
       | (have hd : Nat := x; clear hd; clear_value x)
       | subst x)
    | fail_if_no_progress beta_reduce
    | split
    | with_reducible refine Kept.ite ?_ ?_)

theorem execDepclkLost_kept {z s : State} {t_ : Nat}
    (hs : Kept z s) : OutKept z (execDepclkLost t_ s) := by
  unfold execDepclkLost
  repeat' (first
    | with_reducible assumption
    | with_reducible refine OutKept.next ?_
    | with_reducible refine State.setClock_kept ?_
    | with_reducible refine State.advance_kept ?_
    | with_reducible refine State.clockLost_kept ?_
    | with_reducible refine State.monitor_kept ?_
    | split
    | with_reducible refine Kept.ite ?_ ?_)

theorem execDepVolt_kept {z s : State} {t_ : Nat} {mV : Nat}
    (hs : Kept z s) : OutKept z (execDepVolt t_ mV s) := by
  unfold execDepVolt
  repeat' (first
    | with_reducible assumption
    | with_reducible refine OutKept.next ?_
    | with_reducible refine State.advance_kept ?_
    | with_reducible refine State.monitor_kept ?_
    | with_reducible refine State.causeOff_kept ?_
    | (fail_if_no_progress extract_lets +onlyGivenNames x
       refine cutL (p := Kept z x) ?_ ?_; subst x; rotate_left; intro hs; try clear_value x; rotate_right)
    | (fail_if_no_progress extract_lets +onlyGivenNames x
       first
       | (have hd : List _ := x; clear hd; clear_value x)
       | (have hd : Bool := x; clear hd; clear_value x)
       | (have hd : Nat := x; clear hd; clear_value x)
       | subst x)
    | fail_if_no_progress beta_reduce
    | split
    | with_reducible refine Kept.ite ?_ ?_)

theorem execOvertemp_kept {z s : State} {t_ : Nat} {s0 : Nat} {s1 : Nat} {h_ : Nat}
    (hs : Kept z s) : OutKept z (execOvertemp t_ s0 s1 h_ s) := by
  unfold execOvertemp
  repeat' (first
    | with_reducible assumption
    | with_reducible refine OutKept.next ?_
    | with_reducible refine State.when_kept ?_ (fun _ hs => ?_)
    | with_reducible refine State.when_kept ?_ (fun _ hs => ?_)
    | with_reducible refine State.advance_kept ?_
    | with_reducible refine State.setTemps_kept ?_
    | with_reducible refine State.thermPin_kept ?_
    | with_reducible refine State.endTraffic_kept ?_
    | with_reducible refine State.monitor_kept ?_
    | with_reducible refine State.cutPower_kept ?_
    | with_reducible refine State.gatedDie_kept ?_
    | with_reducible refine State.event_kept ?_
    | with_reducible refine State.causeOff_kept ?_
    | (fail_if_no_progress extract_lets +onlyGivenNames x
       refine cutL (p := Kept z x) ?_ ?_; subst x; rotate_left; intro hs; try clear_value x; rotate_right)
    | (fail_if_no_progress extract_lets +onlyGivenNames x
       first
       | (have hd : List _ := x; clear hd; clear_value x)
       | (have hd : Bool := x; clear hd; clear_value x)
       | (have hd : Nat := x; clear hd; clear_value x)
       | subst x)
    | fail_if_no_progress beta_reduce
    | with_reducible refine Kept.foldl ?_ (fun _ hs _ => ?_))

theorem execThermN_kept {z s : State} {s0 : Nat} {s1 : Nat} {h_ : Nat} (hs : Kept z s) : OutKept z (execThermN s0 s1 h_ s) :=
  OutKept.framed hs (execThermN_framed (List.Subset.refl _) (Framed.refl s))

theorem execStatus_kept {z s : State} {seq : Byte} {arg : BitVec 16} {crc : BitVec 16} (hs : Kept z s) : OutKept z (execStatus seq arg crc s) :=
  OutKept.framed hs (execStatus_framed (List.Subset.refl _) (Framed.refl s))

theorem execVerdict_kept {z s : State} {seq : Byte} {arg : BitVec 16} {crc : BitVec 16} (hs : Kept z s) : OutKept z (execVerdict seq arg crc s) :=
  OutKept.framed hs (execVerdict_framed (List.Subset.refl _) (Framed.refl s))

theorem execVerdictAt_kept {z s : State} {seq : Byte} {arg : BitVec 16} {crc : BitVec 16} (hs : Kept z s) : OutKept z (execVerdictAt seq arg crc s) :=
  OutKept.framed hs (execVerdictAt_framed (List.Subset.refl _) (Framed.refl s))

theorem execSafe_kept {z s : State} {t : Nat} {seq : Byte} {arg : BitVec 16} {crc : BitVec 16}
    (hs : Kept z s) : OutKept z (execSafe t seq arg crc s) := by
  unfold execSafe
  repeat' (first
    | with_reducible assumption
    | with_reducible refine OutKept.next ?_
    | with_reducible refine State.advance_kept ?_
    | with_reducible refine State.enterSafe_kept ?_
    | with_reducible refine State.spiAnswer_kept ?_
    | with_reducible refine State.spiRefuse_kept ?_
    | with_reducible refine Kept.ite ?_ ?_)

theorem execEcho_kept {z s : State} {seq : Byte} {arg : BitVec 16} {crc : BitVec 16} (hs : Kept z s) : OutKept z (execEcho seq arg crc s) :=
  OutKept.framed hs (execEcho_framed (List.Subset.refl _) (Framed.refl s))

theorem execBadCmd_kept {z s : State} {cmd : Byte} {seq : Byte} {arg : BitVec 16} {crc : BitVec 16} (hs : Kept z s) : OutKept z (execBadCmd cmd seq arg crc s) :=
  OutKept.framed hs (execBadCmd_framed (List.Subset.refl _) (Framed.refl s))

theorem execSpiAbandon_kept {z s : State}  (hs : Kept z s) : OutKept z (execSpiAbandon s) :=
  OutKept.framed hs (execSpiAbandon_framed (List.Subset.refl _) (Framed.refl s))

theorem execBar2Read_kept {z s : State} {ofs : Nat} {len : Nat} {met : ReadMet}
    (hs : Kept z s) : OutKept z (execBar2Read ofs len met s) := by
  unfold execBar2Read
  repeat' (first
    | with_reducible assumption
    | with_reducible refine OutKept.next ?_
    | with_reducible exact OutKept.fault
    | with_reducible refine State.when_kept ?_ (fun _ hs => ?_)
    | with_reducible refine State.when_kept ?_ (fun _ hs => ?_)
    | with_reducible refine State.contendAll_kept ?_
    | with_reducible refine State.takeAccess_kept ?_)

theorem execBar2Write_kept {z s : State} {ofs : Nat} {w : WinWrite}
    (hs : Kept z s) : OutKept z (execBar2Write ofs w s) := by
  unfold execBar2Write
  repeat' (first
    | with_reducible assumption
    | with_reducible refine OutKept.next ?_
    | with_reducible refine State.when_kept ?_ (fun _ hs => ?_)
    | with_reducible refine State.when_kept ?_ (fun _ hs => ?_)
    | with_reducible refine State.contendAll_kept ?_
    | with_reducible refine State.takeAccess_kept ?_)

theorem execWinBase_kept {z s : State} {hi : Bool} {v : Word} (hs : Kept z s) : OutKept z (execWinBase hi v s) :=
  OutKept.framed hs (execWinBase_framed (List.Subset.refl _) (Framed.refl s))

theorem execSramScrub_kept {z s : State} {d : Die} {ofs : Nat} {err : Nat} {ms : Nat} (hs : Kept z s) : OutKept z (execSramScrub d ofs err ms s) :=
  OutKept.framed hs (execSramScrub_framed (List.Subset.refl _) (Framed.refl s))

theorem execDramScrub_kept {z s : State} {d : Die} {addr : Nat} {err : Nat} {passEnd : Bool} (hs : Kept z s) : OutKept z (execDramScrub d addr err passEnd s) :=
  OutKept.framed hs (execDramScrub_framed (List.Subset.refl _) (Framed.refl s))

theorem execRefresh_kept {z s : State} {d : Die} {derate : Bool} {ns : Nat} (hs : Kept z s) : OutKept z (execRefresh d derate ns s) :=
  OutKept.framed hs (execRefresh_framed (List.Subset.refl _) (Framed.refl s))

theorem execInitDone_kept {z s : State} {to_ : InitFront}
    (hs : Kept z s) : OutKept z (execInitDone to_ s) := by
  unfold execInitDone
  repeat' (first
    | with_reducible assumption
    | with_reducible refine OutKept.next ?_
    | with_reducible refine State.when_kept ?_ (fun _ hs => ?_)
    | with_reducible refine State.when_kept ?_ (fun _ hs => ?_)
    | with_reducible refine State.setReg_kept ?_
    | with_reducible refine State.setField_kept ?_
    | with_reducible refine State.pumpFront_kept ?_
    | (fail_if_no_progress extract_lets +onlyGivenNames x
       refine cutL (p := Kept z x) ?_ ?_; subst x; rotate_left; intro hs; try clear_value x; rotate_right)
    | (fail_if_no_progress extract_lets +onlyGivenNames x
       first
       | (have hd : List _ := x; clear hd; clear_value x)
       | (have hd : Bool := x; clear hd; clear_value x)
       | (have hd : Nat := x; clear hd; clear_value x)
       | subst x)
    | fail_if_no_progress beta_reduce)

theorem execResponse_kept {z s : State} {tag : Nat} {status : Nat} {data : List Byte}
    (hs : Kept z s) : OutKept z (execResponse tag status data s) := by
  unfold execResponse
  repeat' (first
    | with_reducible assumption
    | with_reducible refine OutKept.next ?_
    | with_reducible refine State.completeOp_kept ?_)

theorem execLaneFail_kept {z s : State} {port : Nat} {lane : Nat}
    (hs : Kept z s) : OutKept z (execLaneFail port lane s) := by
  unfold execLaneFail
  repeat' (first
    | with_reducible assumption
    | with_reducible refine OutKept.named ?_
    | with_reducible refine State.event_kept ?_
    | with_reducible refine State.irq_kept ?_
    | with_reducible refine State.log_kept ?_
    | with_reducible refine State.mapPort_kept ?_
    | with_reducible refine State.sendTrain_kept ?_
    | with_reducible refine State.portDown_kept ?_
    | with_reducible refine State.when_kept ?_ (fun _ hs => ?_)
    | (fail_if_no_progress extract_lets +onlyGivenNames x
       refine cutL (p := Kept z x) ?_ ?_; subst x; rotate_left; intro hs; try clear_value x; rotate_right)
    | with_reducible refine Kept.ite ?_ ?_)

theorem execTrain_kept {z s : State} {port : Nat} {node : Nat} {digest : Nat} {wire : Nat}
    (hs : Kept z s) : OutKept z (execTrain port node digest wire s) := by
  unfold execTrain
  repeat' (first
    | with_reducible assumption
    | with_reducible refine OutKept.named ?_
    | with_reducible refine State.when_kept ?_ (fun _ hs => ?_)
    | with_reducible refine State.setClock_kept ?_
    | with_reducible refine State.when_kept ?_ (fun _ hs => ?_)
    | with_reducible refine State.sendTrain_kept ?_
    | with_reducible refine State.losePort_kept ?_
    | with_reducible refine State.mapPort_kept ?_
    | with_reducible refine State.klEvent_kept ?_
    | with_reducible refine State.resend_kept ?_
    | (fail_if_no_progress extract_lets +onlyGivenNames x
       refine cutL (p := Kept z x) ?_ ?_; subst x; rotate_left; intro hs; try clear_value x; rotate_right)
    | (fail_if_no_progress extract_lets +onlyGivenNames x
       first
       | (have hd : List _ := x; clear hd; clear_value x)
       | (have hd : Bool := x; clear hd; clear_value x)
       | (have hd : Nat := x; clear hd; clear_value x)
       | subst x)
    | fail_if_no_progress beta_reduce
    | split
    | with_reducible refine Kept.ite ?_ ?_)

theorem execBroadcast_kept {z s : State} {src : Nat} {addr : Nat} {b : BcastData}
    (hs : Kept z s) : OutKept z (execBroadcast src addr b s) := by
  unfold execBroadcast
  repeat' (first
    | with_reducible assumption
    | with_reducible refine OutKept.next ?_
    | with_reducible refine State.takeBroadcast_kept ?_)

theorem execFlit_kept {z s : State} {port : Nat} {f : FlitIn}
    (hs : Kept z s) : OutKept z (execFlit port f s) := by
  unfold execFlit
  repeat' (first
    | with_reducible assumption
    | with_reducible refine OutKept.named ?_
    | with_reducible refine State.when_kept ?_ (fun _ hs => ?_)
    | with_reducible refine State.when_kept ?_ (fun _ hs => ?_)
    | with_reducible refine State.count_kept ?_
    | with_reducible refine State.mapPort_kept ?_
    | with_reducible refine State.emit_kept ?_
    | with_reducible refine State.takeFlit_kept ?_
    | with_reducible refine State.endBcast_kept ?_
    | with_reducible refine State.portDown_kept ?_
    | (fail_if_no_progress extract_lets +onlyGivenNames x
       refine cutL (p := Kept z x) ?_ ?_; subst x; rotate_left; intro hs; try clear_value x; rotate_right)
    | (fail_if_no_progress extract_lets +onlyGivenNames x
       first
       | (have hd : List _ := x; clear hd; clear_value x)
       | (have hd : Bool := x; clear hd; clear_value x)
       | (have hd : Nat := x; clear hd; clear_value x)
       | subst x)
    | fail_if_no_progress beta_reduce
    | split
    | with_reducible refine Kept.ite ?_ ?_)

theorem execAck_kept {z s : State} {port : Nat} {n : Nat}
    (hs : Kept z s) : OutKept z (execAck port n s) :=
  OutKept.framed hs (execAck_framed (List.Subset.refl _) (Framed.refl _))

theorem execNak_kept {z s : State} {port : Nat} {n : Nat}
    (hs : Kept z s) : OutKept z (execNak port n s) := by
  unfold execNak
  repeat' (first
    | with_reducible assumption
    | with_reducible refine OutKept.named ?_
    | with_reducible refine State.when_kept ?_ (fun _ hs => ?_)
    | with_reducible refine State.when_kept ?_ (fun _ hs => ?_)
    | with_reducible refine State.mapPort_kept ?_
    | with_reducible refine State.portDown_kept ?_
    | with_reducible refine State.count_kept ?_
    | with_reducible refine State.klEvent_kept ?_
    | with_reducible refine State.resend_kept ?_
    | (fail_if_no_progress extract_lets +onlyGivenNames x
       refine cutL (p := Kept z x) ?_ ?_; subst x; rotate_left; intro hs; try clear_value x; rotate_right)
    | (fail_if_no_progress extract_lets +onlyGivenNames x
       first
       | (have hd : List _ := x; clear hd; clear_value x)
       | (have hd : Bool := x; clear hd; clear_value x)
       | (have hd : Nat := x; clear hd; clear_value x)
       | subst x)
    | fail_if_no_progress beta_reduce
    | split
    | with_reducible refine Kept.ite ?_ ?_
    | dsimp only)

theorem execCredit_kept {z s : State} {port : Nat} {vc : Nat} {n : Nat}
    (hs : Kept z s) : OutKept z (execCredit port vc n s) :=
  OutKept.framed hs (execCredit_framed (List.Subset.refl _) (Framed.refl _))

theorem execPut_kept {z s : State} {src : Nat} {tag : Nat} {addr : Nat} {w : PutArg}
    (hs : Kept z s) : OutKept z (execPut src tag addr w s) := by
  unfold execPut
  repeat' (first
    | with_reducible assumption
    | with_reducible refine OutKept.next ?_
    | with_reducible refine State.contendAll_kept ?_
    | with_reducible refine State.remoteArrives_kept ?_)

theorem execGet_kept {z s : State} {src : Nat} {tag : Nat} {addr : Nat} {len : Nat} {met : ReadMet}
    (hs : Kept z s) : OutKept z (execGet src tag addr len met s) := by
  unfold execGet
  repeat' (first
    | with_reducible assumption
    | with_reducible refine OutKept.next ?_
    | with_reducible exact OutKept.fault
    | with_reducible refine State.contendAll_kept ?_
    | with_reducible refine State.remoteArrives_kept ?_)

theorem execAtomicAdd_kept {z s : State} {src : Nat} {tag : Nat} {addr : Nat} {v : AtomicArg}
    (hs : Kept z s) : OutKept z (execAtomicAdd src tag addr v s) := by
  unfold execAtomicAdd
  repeat' (first
    | with_reducible assumption
    | with_reducible refine OutKept.next ?_
    | with_reducible exact OutKept.fault
    | with_reducible refine State.contendAll_kept ?_
    | with_reducible refine State.remoteArrives_kept ?_)

theorem execAtomicMax_kept {z s : State} {src : Nat} {tag : Nat} {addr : Nat} {v : AtomicArg}
    (hs : Kept z s) : OutKept z (execAtomicMax src tag addr v s) := by
  unfold execAtomicMax
  repeat' (first
    | with_reducible assumption
    | with_reducible refine OutKept.next ?_
    | with_reducible exact OutKept.fault
    | with_reducible refine State.contendAll_kept ?_
    | with_reducible refine State.remoteArrives_kept ?_)

theorem execAtomicSwap_kept {z s : State} {src : Nat} {tag : Nat} {addr : Nat} {v : AtomicArg}
    (hs : Kept z s) : OutKept z (execAtomicSwap src tag addr v s) := by
  unfold execAtomicSwap
  repeat' (first
    | with_reducible assumption
    | with_reducible refine OutKept.next ?_
    | with_reducible exact OutKept.fault
    | with_reducible refine State.contendAll_kept ?_
    | with_reducible refine State.remoteArrives_kept ?_)

theorem execAtomicCas_kept {z s : State} {src : Nat} {tag : Nat} {addr : Nat} {c : DWord} {v : AtomicArg}
    (hs : Kept z s) : OutKept z (execAtomicCas src tag addr c v s) := by
  unfold execAtomicCas
  repeat' (first
    | with_reducible assumption
    | with_reducible refine OutKept.next ?_
    | with_reducible exact OutKept.fault
    | with_reducible refine State.contendAll_kept ?_
    | with_reducible refine State.remoteArrives_kept ?_)

theorem execSignal_kept {z s : State} {src : Nat} {tag : Nat} {addr : Nat} {counter : Nat} {w : PutArg}
    (hs : Kept z s) : OutKept z (execSignal src tag addr counter w s) := by
  unfold execSignal
  repeat' (first
    | with_reducible assumption
    | with_reducible refine OutKept.next ?_
    | with_reducible refine State.contendAll_kept ?_
    | with_reducible refine State.remoteArrives_kept ?_)

theorem execFence_kept {z s : State} {issuer : Nat}
    (hs : Kept z s) : OutKept z (execFence issuer s) := by
  unfold execFence
  repeat' (first
    | with_reducible assumption
    | with_reducible refine OutKept.next ?_
    | with_reducible refine State.pumpWindow_kept ?_
    | with_reducible refine State.settleFences_kept ?_
    | split
    | with_reducible refine Kept.ite ?_ ?_
    | ((with_reducible refine Kept.upd ?_ ?_); rotate_left; exact ⟨rfl, rfl, ⟨rfl, rfl⟩, rfl, rfl, rfl, rfl⟩))

theorem execBarrier_kept {z s : State}  (hs : Kept z s) : OutKept z (execBarrier s) :=
  OutKept.framed hs (execBarrier_framed (List.Subset.refl _) (Framed.refl s))

theorem execBarrierBlock_kept {z s : State} {port : Nat} {gather : Bool} {epoch : Bool} (hs : Kept z s) : OutKept z (execBarrierBlock port gather epoch s) :=
  OutKept.framed hs (execBarrierBlock_framed (List.Subset.refl _) (Framed.refl s))

theorem execBcast_kept {z s : State}
    (hs : Kept z s) : OutKept z (execBcast s) := by
  unfold execBcast
  repeat' (first
    | with_reducible assumption
    | with_reducible refine OutKept.next ?_
    | with_reducible refine State.write32_kept ?_ (fun _ hs => ?_)
    | with_reducible refine State.startBcast_kept ?_)

theorem execSnap_kept {z s : State}
    (hs : Kept z s) : OutKept z (execSnap s) := by
  unfold execSnap
  repeat' (first
    | with_reducible assumption
    | with_reducible refine OutKept.next ?_
    | with_reducible refine State.write32_kept ?_ (fun _ hs => ?_)
    | with_reducible refine State.startSnap_kept ?_)

theorem execSnapReq_kept {z s : State} {t_ : Nat} {tick : Nat}
    (hs : Kept z s) : OutKept z (execSnapReq t_ tick s) :=
  OutKept.framed hs (execSnapReq_framed (List.Subset.refl _) (Framed.refl _))

theorem execStopSymbol_kept {z s : State} {t : Nat} {port : Nat} {seq : Nat}
    (hs : Kept z s) : OutKept z (execStopSymbol t port seq s) := by
  unfold execStopSymbol
  repeat' (first
    | with_reducible assumption
    | with_reducible refine OutKept.named ?_
    | with_reducible refine State.advance_kept ?_
    | with_reducible refine State.takeFlood_kept ?_
    | with_reducible refine State.when_kept ?_ (fun _ hs => ?_))

theorem execResetSymbol_kept {z s : State} {t : Nat} {port : Nat} {seq : Nat}
    (hs : Kept z s) : OutKept z (execResetSymbol t port seq s) := by
  unfold execResetSymbol
  repeat' (first
    | with_reducible assumption
    | with_reducible refine OutKept.named ?_
    | with_reducible refine State.advance_kept ?_
    | with_reducible refine State.takeFlood_kept ?_
    | with_reducible refine State.when_kept ?_ (fun _ hs => ?_))

theorem execStopFlood_kept {z s : State} {t : Nat}
    (hs : Kept z s) : OutKept z (execStopFlood t s) := by
  unfold execStopFlood
  repeat' (first
    | with_reducible assumption
    | with_reducible refine OutKept.next ?_
    | with_reducible refine State.advance_kept ?_
    | with_reducible refine State.write32_kept ?_ (fun _ hs => ?_)
    | with_reducible refine State.startFlood_kept ?_)

theorem execResetFlood_kept {z s : State} {t : Nat}
    (hs : Kept z s) : OutKept z (execResetFlood t s) := by
  unfold execResetFlood
  repeat' (first
    | with_reducible assumption
    | with_reducible refine OutKept.next ?_
    | with_reducible refine State.advance_kept ?_
    | with_reducible refine State.write32_kept ?_ (fun _ hs => ?_)
    | with_reducible refine State.startFlood_kept ?_)

theorem execXcutFlitFail_kept {z s : State} {hub : Bool} {d : Die} {retries : Nat}
    (hs : Kept z s) : OutKept z (execXcutFlitFail hub d retries s) := by
  unfold execXcutFlitFail
  repeat' (first
    | with_reducible assumption
    | with_reducible refine OutKept.next ?_
    | with_reducible refine State.when_kept ?_ (fun _ hs => ?_)
    | with_reducible refine State.when_kept ?_ (fun _ hs => ?_)
    | with_reducible refine State.count_kept ?_
    | with_reducible refine State.event_kept ?_
    | with_reducible refine State.failXcut_kept ?_
    | with_reducible refine State.log_kept ?_
    | (fail_if_no_progress extract_lets +onlyGivenNames x
       refine cutL (p := Kept z x) ?_ ?_; subst x; rotate_left; intro hs; try clear_value x; rotate_right)
    | (fail_if_no_progress extract_lets +onlyGivenNames x
       first
       | (have hd : List _ := x; clear hd; clear_value x)
       | (have hd : Bool := x; clear hd; clear_value x)
       | (have hd : Nat := x; clear hd; clear_value x)
       | subst x)
    | fail_if_no_progress beta_reduce
    | split
    | with_reducible refine Kept.ite ?_ ?_)

theorem execKlrefLost_kept {z s : State} 
    (hs : Kept z s) : OutKept z (execKlrefLost s) := by
  unfold execKlrefLost
  repeat' (first
    | with_reducible assumption
    | with_reducible refine OutKept.next ?_
    | with_reducible refine State.clockLost_kept ?_
    | with_reducible refine State.portDown_kept ?_
    | with_reducible refine Kept.foldl ?_ (fun _ hs _ => ?_))

theorem execFabricPllUnlock_kept {z s : State}
    (hs : Kept z s) : OutKept z (execFabricPllUnlock s) := by
  unfold execFabricPllUnlock
  repeat' (first
    | with_reducible assumption
    | with_reducible refine OutKept.next ?_
    | with_reducible refine State.pllLost_kept ?_
    | with_reducible refine State.failXcut_kept ?_
    | (fail_if_no_progress extract_lets +onlyGivenNames x
       refine cutL (p := Kept z x) ?_ ?_; subst x; rotate_left; intro hs; try clear_value x; rotate_right)
    | (fail_if_no_progress extract_lets +onlyGivenNames x
       first
       | (have hd : List _ := x; clear hd; clear_value x)
       | (have hd : Bool := x; clear hd; clear_value x)
       | (have hd : Nat := x; clear hd; clear_value x)
       | subst x)
    | fail_if_no_progress beta_reduce
    | ((with_reducible refine Kept.upd ?_ ?_); rotate_left; exact ⟨rfl, rfl, ⟨rfl, rfl⟩, rfl, rfl, rfl, rfl⟩))

theorem execArithPllUnlock_kept {z s : State} {d : Die}
    (hs : Kept z s) : OutKept z (execArithPllUnlock d s) :=
  OutKept.framed hs (execArithPllUnlock_framed (List.Subset.refl _) (Framed.refl _))

theorem execPllRelock_kept {z s : State} {n : Nat} (hs : Kept z s) : OutKept z (execPllRelock n s) :=
  OutKept.framed hs (execPllRelock_framed (List.Subset.refl _) (Framed.refl s))

theorem execRail_kept {z s : State} {n : Nat}
    (hs : Kept z s) : OutKept z (execRail n s) :=
  OutKept.framed hs (execRail_framed (List.Subset.refl _) (Framed.refl _))

theorem execRailWithinTolerance_kept {z s : State} {n : Nat}
    (hs : Kept z s) : OutKept z (execRailWithinTolerance n s) :=
  OutKept.framed hs (execRailWithinTolerance_framed (List.Subset.refl _) (Framed.refl _))

theorem execLoad_kept {z s : State}
    (hs : Kept z s) : OutKept z (execLoad s) := by
  unfold execLoad
  repeat' (first
    | with_reducible assumption
    | with_reducible refine OutKept.next ?_
    | with_reducible refine State.write32_kept ?_ (fun _ hs => ?_)
    | with_reducible refine State.startLoad_kept ?_)

theorem execResetRelease_kept {z s : State} {bootsel : Nat} {testMode : Bool} {haltLow : Bool} {flashError : Nat} {container : List Byte}
    (hs : Kept z s) : OutKept z (execResetRelease bootsel testMode haltLow flashError container s) :=
  OutKept.framed hs (execResetRelease_framed (List.Subset.refl _) (Framed.refl _))

theorem execLinkUp_kept {z s : State} {speed : Nat} {width : Nat}
    (hs : Kept z s) : OutKept z (execLinkUp speed width s) :=
  OutKept.framed hs (execLinkUp_framed (List.Subset.refl _) (Framed.refl _))

theorem execLinkDown_kept {z s : State} {t : Nat} (hs : Kept z s) : OutKept z (execLinkDown t s) :=
  OutKept.framed hs (execLinkDown_framed (List.Subset.refl _) (Framed.refl s))

theorem execRefclkLost_kept {z s : State}  (hs : Kept z s) : OutKept z (execRefclkLost s) :=
  OutKept.framed hs (execRefclkLost_framed (List.Subset.refl _) (Framed.refl s))

theorem execMsixUnmask_kept {z s : State} {w : VectorWrite}
    (hs : Kept z s) : OutKept z (execMsixUnmask w s) :=
  OutKept.framed hs (execMsixUnmask_framed (List.Subset.refl _) (Framed.refl _))

theorem execD3hot_kept {z s : State}  (hs : Kept z s) : OutKept z (execD3hot s) :=
  OutKept.framed hs (execD3hot_framed (List.Subset.refl _) (Framed.refl s))

theorem execD0Return_kept {z s : State}  (hs : Kept z s) : OutKept z (execD0Return s) :=
  OutKept.framed hs (execD0Return_framed (List.Subset.refl _) (Framed.refl s))

theorem execS1Isolate_kept {z s : State} {t_ : Nat} {drainNs : Nat}
    (hs : Kept z s) : OutKept z (execS1Isolate t_ drainNs s) := by
  unfold execS1Isolate
  repeat' (first
    | with_reducible assumption
    | with_reducible refine OutKept.next ?_
    | with_reducible refine State.when_kept ?_ (fun _ hs => ?_)
    | with_reducible refine State.when_kept ?_ (fun _ hs => ?_)
    | with_reducible refine State.advance_kept ?_
    | with_reducible refine State.setReg_kept ?_
    | with_reducible refine State.event_kept ?_
    | with_reducible refine State.cutPower_kept ?_
    | with_reducible refine State.selfRefresh_kept ?_
    | with_reducible refine State.setField_kept ?_
    | with_reducible refine State.changeEnds_kept ?_
    | (fail_if_no_progress extract_lets +onlyGivenNames x
       refine cutL (p := Kept z x) ?_ ?_; subst x; rotate_left; intro hs; try clear_value x; rotate_right)
    | (fail_if_no_progress extract_lets +onlyGivenNames x
       first
       | (have hd : List _ := x; clear hd; clear_value x)
       | (have hd : Bool := x; clear hd; clear_value x)
       | (have hd : Nat := x; clear hd; clear_value x)
       | subst x)
    | fail_if_no_progress beta_reduce
    | ((with_reducible refine Kept.upd ?_ ?_); rotate_left; exact ⟨rfl, rfl, ⟨rfl, rfl⟩, rfl, rfl, rfl, rfl⟩))

theorem execClockSwitch_kept {z s : State} {d : Die} {t : Nat} (hs : Kept z s) : OutKept z (execClockSwitch d t s) :=
  OutKept.framed hs (execClockSwitch_framed (List.Subset.refl _) (Framed.refl s))

theorem execPush_kept {z s : State}  (hs : Kept z s) : OutKept z (execPush s) :=
  OutKept.framed hs (execPush_framed (List.Subset.refl _) (Framed.refl s))

theorem execPushFlash_kept {z s : State} 
    (hs : Kept z s) : OutKept z (execPushFlash s) := by
  unfold execPushFlash
  repeat' (first
    | with_reducible assumption
    | with_reducible refine OutKept.next ?_
    | with_reducible refine State.write32_kept ?_ (fun _ hs => ?_)
    | with_reducible refine State.pushFlash_kept ?_)

theorem execAttest_kept {z s : State} 
    (hs : Kept z s) : OutKept z (execAttest s) := by
  unfold execAttest
  repeat' (first
    | with_reducible assumption
    | with_reducible refine OutKept.next ?_
    | with_reducible refine State.write32_kept ?_ (fun _ hs => ?_)
    | with_reducible refine State.attest_kept ?_)

theorem execProvision_kept {z s : State} {cmd : Word}
    (hs : Kept z s) : OutKept z (execProvision cmd s) := by
  unfold execProvision otpRow
  repeat' (first
    | with_reducible assumption
    | with_reducible refine OutKept.named ?_
    | with_reducible refine State.write32_kept ?_ (fun _ hs => ?_)
    | with_reducible refine State.otpCommand_kept ?_)

theorem execRevoke_kept {z s : State} {cmd : Word}
    (hs : Kept z s) : OutKept z (execRevoke cmd s) := by
  unfold execRevoke otpRow
  repeat' (first
    | with_reducible assumption
    | with_reducible refine OutKept.named ?_
    | with_reducible refine State.write32_kept ?_ (fun _ hs => ?_)
    | with_reducible refine State.otpCommand_kept ?_)

theorem execRaiseSvn_kept {z s : State} {cmd : Word}
    (hs : Kept z s) : OutKept z (execRaiseSvn cmd s) := by
  unfold execRaiseSvn otpRow
  repeat' (first
    | with_reducible assumption
    | with_reducible refine OutKept.named ?_
    | with_reducible refine State.write32_kept ?_ (fun _ hs => ?_)
    | with_reducible refine State.otpCommand_kept ?_)

theorem execRaiseFwSvn_kept {z s : State} {cmd : Word}
    (hs : Kept z s) : OutKept z (execRaiseFwSvn cmd s) := by
  unfold execRaiseFwSvn otpRow
  repeat' (first
    | with_reducible assumption
    | with_reducible refine OutKept.named ?_
    | with_reducible refine State.write32_kept ?_ (fun _ hs => ?_)
    | with_reducible refine State.otpCommand_kept ?_)

theorem execBistGo_kept {z s : State} {cmd : Word} (hs : Kept z s) : OutKept z (execBistGo cmd s) :=
  OutKept.framed hs (execBistGo_framed (List.Subset.refl _) (Framed.refl s))

theorem execBistDone_kept {z s : State} {t_ : Nat} {ms : Nat} {macros : Nat} {fails : List BistFail}
    (hs : Kept z s) : OutKept z (execBistDone t_ ms macros fails s) := by
  unfold execBistDone
  repeat' (first
    | with_reducible assumption
    | with_reducible refine OutKept.next ?_
    | with_reducible refine State.when_kept ?_ (fun _ hs => ?_)
    | with_reducible refine State.advance_kept ?_
    | with_reducible refine State.bistResult_kept ?_
    | with_reducible refine State.retireFound_kept ?_
    | with_reducible refine State.when_kept ?_ (fun _ hs => ?_)
    | with_reducible refine State.setBootError_kept ?_
    | with_reducible refine State.irq_kept ?_
    | with_reducible refine State.enterSafe_kept ?_
    | (fail_if_no_progress extract_lets +onlyGivenNames x
       refine cutL (p := Kept z x) ?_ ?_; subst x; rotate_left; intro hs; try clear_value x; rotate_right)
    | (fail_if_no_progress extract_lets +onlyGivenNames x
       first
       | (have hd : List _ := x; clear hd; clear_value x)
       | (have hd : Bool := x; clear hd; clear_value x)
       | (have hd : Nat := x; clear hd; clear_value x)
       | subst x)
    | fail_if_no_progress beta_reduce
    | split
    | with_reducible refine Kept.ite ?_ ?_
    | with_reducible refine Kept.foldl ?_ (fun _ hs _ => ?_)
    | dsimp only)

theorem execIdcode_kept {z s : State}  (hs : Kept z s) : OutKept z (execIdcode s) :=
  OutKept.framed hs (execIdcode_framed (List.Subset.refl _) (Framed.refl s))

theorem execBypass_kept {z s : State} {b : Bool} (hs : Kept z s) : OutKept z (execBypass b s) :=
  OutKept.framed hs (execBypass_framed (List.Subset.refl _) (Framed.refl s))

theorem execTallyProgram_kept {z s : State}  (hs : Kept z s) : OutKept z (execTallyProgram s) :=
  OutKept.framed hs (execTallyProgram_framed (List.Subset.refl _) (Framed.refl s))

theorem execSectorErase_kept {z s : State}  (hs : Kept z s) : OutKept z (execSectorErase s) :=
  OutKept.framed hs (execSectorErase_framed (List.Subset.refl _) (Framed.refl s))

theorem execToken_kept {z s : State}  (hs : Kept z s) : OutKept z (execToken s) :=
  OutKept.framed hs (execToken_framed (List.Subset.refl _) (Framed.refl s))

theorem execPowerLoss_kept {z s : State} {t_ : Nat}
    (hs : Kept z s) : OutKept z (execPowerLoss t_ s) :=
  OutKept.framed hs (execPowerLoss_framed (List.Subset.refl _) (Framed.refl _))

theorem execRdSeq_kept {z s : State} {lo : Word} {ue : Bool} (hs : Kept z s) : OutKept z (execRdSeq lo ue s) :=
  OutKept.framed hs (execRdSeq_framed (List.Subset.refl _) (Framed.refl s))

theorem execDump_kept {z s : State}  (hs : Kept z s) : OutKept z (execDump s) :=
  OutKept.framed hs (execDump_framed (List.Subset.refl _) (Framed.refl s))

theorem execDumpDone_kept {z s : State} 
    (hs : Kept z s) : OutKept z (execDumpDone s) := by
  unfold execDumpDone
  repeat' (first
    | with_reducible assumption
    | with_reducible refine OutKept.next ?_
    | with_reducible refine State.setReg_kept ?_
    | with_reducible refine State.event_kept ?_
    | with_reducible refine State.store_kept ?_
    | (fail_if_no_progress extract_lets +onlyGivenNames x
       first
       | (have hd : List _ := x; clear hd; clear_value x)
       | (have hd : Bool := x; clear hd; clear_value x)
       | (have hd : Nat := x; clear hd; clear_value x)
       | subst x)
    | split
    | ((with_reducible refine Kept.upd ?_ ?_); rotate_left; exact ⟨rfl, rfl, ⟨rfl, rfl⟩, rfl, rfl, rfl, rfl⟩))

theorem execSmbId_kept {z s : State}  (hs : Kept z s) : OutKept z (execSmbId s) :=
  OutKept.framed hs (execSmbId_framed (List.Subset.refl _) (Framed.refl s))

theorem execSmbState_kept {z s : State}  (hs : Kept z s) : OutKept z (execSmbState s) :=
  OutKept.framed hs (execSmbState_framed (List.Subset.refl _) (Framed.refl s))

theorem execSmbTemp_kept {z s : State}  (hs : Kept z s) : OutKept z (execSmbTemp s) :=
  OutKept.framed hs (execSmbTemp_framed (List.Subset.refl _) (Framed.refl s))

theorem execSmbRails_kept {z s : State}  (hs : Kept z s) : OutKept z (execSmbRails s) :=
  OutKept.framed hs (execSmbRails_framed (List.Subset.refl _) (Framed.refl s))

theorem execSmbTallyHead_kept {z s : State}  (hs : Kept z s) : OutKept z (execSmbTallyHead s) :=
  OutKept.framed hs (execSmbTallyHead_framed (List.Subset.refl _) (Framed.refl s))

theorem execSmbAra_kept {z s : State}
    (hs : Kept z s) : OutKept z (execSmbAra s) :=
  OutKept.framed hs (execSmbAra_framed (List.Subset.refl _) (Framed.refl _))

theorem execRegisterWrite_kept {z s : State} {ofs : Nat} {size : Nat} {be : Nat} {lo : Word} {hi : Word}
    (hs : Kept z s) : OutKept z (execRegisterWrite ofs size be lo hi s) := by
  unfold execRegisterWrite
  repeat' (first
    | with_reducible assumption
    | with_reducible refine OutKept.named ?_
    | with_reducible refine State.busWrite_kept ?_)

theorem execClearOnRead_kept {z s : State} {ofs : Nat}
    (hs : Kept z s) : OutKept z (execClearOnRead ofs s) := by
  unfold execClearOnRead
  repeat' (first
    | with_reducible assumption
    | with_reducible refine OutKept.named ?_
    | with_reducible refine State.busRead_kept ?_)

theorem execCaptureRead_kept {z s : State} {ofs : Nat} {size : Nat} {be : Nat}
    (hs : Kept z s) : OutKept z (execCaptureRead ofs size be s) := by
  unfold execCaptureRead
  repeat' (first
    | with_reducible assumption
    | with_reducible refine OutKept.named ?_
    | with_reducible refine State.busRead_kept ?_)

theorem execShWrite_kept {z s : State} {ofs : Nat} {v : Word}
    (hs : Kept z s) : OutKept z (execShWrite ofs v s) := by
  unfold execShWrite
  repeat' (first
    | with_reducible assumption
    | with_reducible refine OutKept.named ?_
    | with_reducible refine State.busWrite_kept ?_)

theorem execSetAlias_kept {z s : State} {ofs : Nat} {v : Word}
    (hs : Kept z s) : OutKept z (execSetAlias ofs v s) := by
  unfold execSetAlias
  repeat' (first
    | with_reducible assumption
    | with_reducible refine OutKept.named ?_
    | with_reducible refine State.busWrite_kept ?_)

theorem execClearAlias_kept {z s : State} {ofs : Nat} {v : Word}
    (hs : Kept z s) : OutKept z (execClearAlias ofs v s) := by
  unfold execClearAlias
  repeat' (first
    | with_reducible assumption
    | with_reducible refine OutKept.named ?_
    | with_reducible refine State.busWrite_kept ?_)

theorem execToggleAlias_kept {z s : State} {ofs : Nat} {v : Word}
    (hs : Kept z s) : OutKept z (execToggleAlias ofs v s) := by
  unfold execToggleAlias
  repeat' (first
    | with_reducible assumption
    | with_reducible refine OutKept.named ?_
    | with_reducible refine State.busWrite_kept ?_)

theorem execBitWindowWrite_kept {z s : State} {addr : Nat} {v : Word}
    (hs : Kept z s) : OutKept z (execBitWindowWrite addr v s) := by
  unfold execBitWindowWrite
  repeat' (first
    | with_reducible assumption
    | with_reducible refine OutKept.named ?_
    | with_reducible refine State.busWrite_kept ?_)

theorem execBitWindowRead_kept {z s : State} {addr : Nat}
    (hs : Kept z s) : OutKept z (execBitWindowRead addr s) := by
  unfold execBitWindowRead
  repeat' (first
    | with_reducible assumption
    | with_reducible refine OutKept.named ?_
    | with_reducible refine State.busRead_kept ?_)

theorem execAliasMode_kept {z s : State} {v : Word}
    (hs : Kept z s) : OutKept z (execAliasMode v s) := by
  unfold execAliasMode
  repeat' (first
    | with_reducible assumption
    | with_reducible refine OutKept.next ?_
    | with_reducible refine State.busWrite_kept ?_)

theorem execBitwinBase_kept {z s : State} {v : Word}
    (hs : Kept z s) : OutKept z (execBitwinBase v s) := by
  unfold execBitwinBase
  repeat' (first
    | with_reducible assumption
    | with_reducible refine OutKept.next ?_
    | with_reducible refine State.busWrite_kept ?_)

theorem execLock_kept {z s : State} {ofs : Nat} {v : Word}
    (hs : Kept z s) : OutKept z (execLock ofs v s) := by
  unfold execLock
  repeat' (first
    | with_reducible assumption
    | with_reducible refine OutKept.named ?_
    | with_reducible refine State.busWrite_kept ?_)

theorem execParityScan_kept {z s : State} {pass : ScanPass}
    (hs : Kept z s) : OutKept z (execParityScan pass s) := by
  unfold execParityScan
  repeat' (first
    | with_reducible assumption
    | with_reducible refine OutKept.next ?_
    | with_reducible refine State.count_kept ?_
    | with_reducible refine State.checkParity_kept ?_
    | with_reducible refine State.spoilParity_kept ?_
    | (fail_if_no_progress extract_lets +onlyGivenNames x
       refine cutL (p := Kept z x) ?_ ?_; subst x; rotate_left; intro hs; try clear_value x; rotate_right)
    | (fail_if_no_progress extract_lets +onlyGivenNames x
       first
       | (have hd : List _ := x; clear hd; clear_value x)
       | (have hd : Bool := x; clear hd; clear_value x)
       | (have hd : Nat := x; clear hd; clear_value x)
       | subst x)
    | fail_if_no_progress beta_reduce
    | with_reducible refine Kept.foldl ?_ (fun _ hs _ => ?_))

theorem execTickBoundary_kept {z s : State} {t : Nat} (hs : Kept z s) : OutKept z (execTickBoundary t s) := by
  unfold execTickBoundary
  refine OutKept.next ?_
  unfold State.when
  split
  · next h =>
    simp only [Bool.and_eq_true, beq_iff_eq] at h
    exact State.boundary_kept hs h.1.1
  · exact hs

theorem execTickInPulse_kept {z s : State} {e width : Nat} (hs : Kept z s) : OutKept z (execTickInPulse e width s) := by
  unfold execTickInPulse
  refine OutKept.next (Kept.ite (State.event_kept hs) ?_)
  unfold State.when
  split
  · next h =>
    simp only [Bool.and_eq_true, beq_iff_eq] at h
    have d1 : (s.advance (e + 100)).dev = .running :=
      (State.advance_framed (ps := [.now]) (by decide) (Framed.refl s) .dev (by decide)).trans h.1
    have k1 : Kept z (s.advance (e + 100)) := State.advance_kept hs
    dsimp only
    generalize s.advance (e + 100) = s1 at d1 k1 ⊢
    refine Kept.ite (Kept.ite ?_ k1) (State.judgeEdge_kept k1)
    have k2 := State.boundary_kept (t := e) (k1.alike (t := { s1 with tick := { s1.tick with
      awaitT0 := false, expect := e, seenLast := true, seen := false, missed := 0, good := 0, corr := 0 } })
      ⟨rfl, rfl, ⟨rfl, rfl⟩, rfl, rfl, rfl, rfl⟩) d1
    have k3 := k2.alike (t := { (State.boundary { s1 with tick := { s1.tick with
      awaitT0 := false, expect := e, seenLast := true, seen := false, missed := 0, good := 0, corr := 0 } } e) with
      now := max (State.boundary { s1 with tick := { s1.tick with
      awaitT0 := false, expect := e, seenLast := true, seen := false, missed := 0, good := 0, corr := 0 } } e).now (e + 100) })
      ⟨rfl, rfl, ⟨rfl, rfl⟩, rfl, rfl, rfl, rfl⟩
    exact Kept.ite (State.countGood_kept k3) k3
  · exact hs

theorem execSrcLost_kept {z s : State} {t : Nat} (hs : Kept z s) : OutKept z (execSrcLost t s) := by
  unfold execSrcLost
  refine OutKept.next ?_
  unfold State.when
  split
  · next h =>
    simp only [Bool.and_eq_true, beq_iff_eq] at h
    refine Kept.ite ?_ ?_
    · refine Kept.ite ?_ hs
      refine State.boundary_kept (State.loseSource_kept (State.advance_kept (hs.alike ⟨rfl, rfl, ⟨rfl, rfl⟩, rfl, rfl, rfl, rfl⟩))) ?_
      refine (State.loseSource_framed (List.Subset.refl _) (Framed.refl _) .dev (by decide)).trans ?_
      exact (State.advance_framed (List.Subset.refl _) (Framed.refl _) .dev (by decide)).trans h.1
    · exact Kept.ite (State.loseSource_kept (State.advance_kept hs)) hs
  · exact hs

theorem execStop_kept {z s : State} {t : Nat} (hs : Kept z s) : OutKept z (execStop t s) := by
  unfold execStop
  refine OutKept.next (State.when_kept hs fun s hs => ?_)
  have k1 : Kept z (s.advance t) := State.advance_kept hs
  generalize s.advance t = s1 at k1 ⊢
  dsimp only
  split
  · exact k1.alike ⟨rfl, rfl, ⟨rfl, rfl⟩, rfl, rfl, rfl, rfl⟩
  · next h =>
    refine State.popCmd_kept (State.dropStaged_kept (k1.trans (Kept.toDev (Kept.refl s1) ?_ ?_)))
    · rw [h]; rfl
    · intro p; cases p
  · exact State.popCmd_kept k1
  · exact State.popCmd_kept k1

theorem State.when_stepped {m : Dev → Dev → Bool} {z s : State} {c : Bool} {f : State → State} (hs : Stepped m z s)
    (hf : c = true → Stepped m z (f s)) : Stepped m z (s.when c f) := by
  unfold State.when
  split
  · next h => exact hf h
  · exact hs

theorem Stepped.ite {m : Dev → Dev → Bool} {z s t : State} {c : Prop} [Decidable c] (hs : c → Stepped m z s) (ht : ¬c → Stepped m z t) :
    Stepped m z (if c then s else t) := by
  split
  · next h => exact hs h
  · next h => exact ht h

theorem State.inject_dev {s : State} {m : Nat} : (s.inject m).dev = s.dev ∨ (s.inject m).dev = .faulted := by
  unfold State.inject
  dsimp only
  split
  · exact .inl (State.setReg_framed (ps := [.regs]) (o := rDeputyInj) (v := BitVec.ofNat 32 (m % 32768 + 2 ^ 31)) (by decide)
      (Framed.refl s) .dev (by decide))
  · refine State.enterSafe_devs.imp_left fun h => h.trans ?_
    have h1 := State.setReg_framed (ps := [.regs]) (o := rDeputyInj) (v := BitVec.ofNat 32 (m % 32768 + 2 ^ 31)) (by decide)
      (Framed.refl s) .dev (by decide)
    refine (State.log_framed (ps := [.regs, .host, .tally, .out]) (by decide) (State.event_framed (by decide) (Framed.refl _)) .dev
      (by decide)).trans ?_
    exact h1

theorem State.inject_stepped {m : Dev → Dev → Bool} {z s : State} {n : Nat} (hs : Stepped m z s) : Stepped m z (s.inject n) :=
  hs.kept (State.inject_kept (Kept.refl s)) State.inject_dev

theorem Stepped.framed {m : Dev → Dev → Bool} {ps : List Part} {z s t : State} (hs : Stepped m z s) (h : Framed ps s t)
    (hd : crit.all (fun p => !ps.contains p) = true := by decide) : Stepped m z t := by
  have hk := (Kept.refl s).framed h hd
  refine hs.kept hk (.inl (h .dev fun hm => ?_))
  have := List.all_eq_true.mp hd .dev (by decide)
  simp [hm] at this

theorem State.popCmd_stepped {m : Dev → Dev → Bool} {z s : State} {c r : Nat} (hs : Stepped m z s) : Stepped m z (s.popCmd c r) :=
  hs.kept (State.popCmd_kept (Kept.refl s)) (.inl State.dev_popCmd)

theorem State.awaitFirst_stepped {m : Dev → Dev → Bool} {z s : State} {n : Nat} {t : Option Nat} (hs : Kept z s)
    (hd : m z.dev .running = true) : Stepped m z (s.awaitFirst n t) := by
  have h1 : Stepped m z { s with dev := .running } := hs.moved hd (by intro p; cases p)
  exact h1.framed (ps := [.tick]) (fun p hp => by cases p <;> first | exact absurd (by decide) hp | rfl | exact ⟨rfl, rfl⟩)

theorem execStart_stepped {s : State} {t missed : Nat} : OutStepped (fun a b => a == .stopped && b == .running) s (execStart t missed s) := by
  unfold execStart
  refine OutStepped.next (State.when_stepped (Kept.refl s).stepped fun _ => ?_)
  have k1 : Kept s ((s.advance t).when (s.dev == .stopped) fun s => s.checkUses (runRegs ++ sessionRegs)) :=
    State.when_kept (State.advance_kept (Kept.refl s)) fun _ h => State.checkUses_kept h
  have e1 : ((s.advance t).when (s.dev == .stopped) fun s => s.checkUses (runRegs ++ sessionRegs)).dev = .stopped → s.dev = .stopped := by
    cases h : s.dev == .stopped
    · exact fun hd => (State.advance_framed (List.Subset.refl _) (Framed.refl s) .dev (by decide)).symm.trans hd
    · exact fun _ => by simpa using h
  generalize ((s.advance t).when (s.dev == .stopped) fun s => s.checkUses (runRegs ++ sessionRegs)) = s1 at k1 e1 ⊢
  dsimp only
  refine Stepped.ite (fun _ => (State.popCmd_kept k1).stepped) fun hd => Stepped.ite (fun _ => (State.popCmd_kept k1).stepped) fun _ => ?_
  have hd := not_not.mp hd
  refine State.inject_stepped (Stepped.framed (State.popCmd_stepped ?_) (State.sendTrains_framed (List.Subset.refl _) (Framed.refl _)))
  unfold State.startSession
  extract_lets epoch next zero s2
  have k2 : Kept s s2 := State.emptySession_kept (State.clearCounters_kept (State.loadTime_kept k1))
  clear_value s2
  exact State.awaitFirst_stepped (State.writeCanaries_kept (State.writeBank_kept (State.writeBank_kept k2)))
    (by rw [e1 hd]; rfl)

theorem execResume_stepped {s : State} {t missed : Nat} : OutStepped (fun a b => a == .hold && b == .running) s (execResume t missed s) := by
  unfold execResume
  refine OutStepped.next (State.when_stepped (Kept.refl s).stepped fun _ => ?_)
  have k1 : Kept s ((s.advance t).when (s.dev == .hold) fun s => s.checkUses runRegs) :=
    State.when_kept (State.advance_kept (Kept.refl s)) fun _ h => State.checkUses_kept h
  have e1 : ((s.advance t).when (s.dev == .hold) fun s => s.checkUses runRegs).dev = .hold → s.dev = .hold := by
    cases h : s.dev == .hold
    · exact fun hd => (State.advance_framed (List.Subset.refl _) (Framed.refl s) .dev (by decide)).symm.trans hd
    · exact fun _ => by simpa using h
  generalize ((s.advance t).when (s.dev == .hold) fun s => s.checkUses runRegs) = s1 at k1 e1 ⊢
  dsimp only
  refine Stepped.ite (fun _ => (State.popCmd_kept k1).stepped) fun hd => Stepped.ite (fun _ => (State.popCmd_kept k1).stepped) fun _ => ?_
  have hd := not_not.mp hd
  refine State.inject_stepped (State.popCmd_stepped ?_)
  have k2 : Stepped (fun a b => a == .hold && b == .running) s (s1.awaitFirst s1.tick.next (some s1.nextBoundary)) :=
    State.awaitFirst_stepped k1 (by rw [e1 hd]; rfl)
  generalize s1.awaitFirst s1.tick.next (some s1.nextBoundary) = s2 at k2 ⊢
  refine k2.framed (ps := [.dep]) ?_
  intro p hp
  cases p <;> first | exact absurd (by decide) hp | rfl | exact ⟨rfl, rfl⟩

theorem State.endRecovery_stepped {m : Dev → Dev → Bool} {z s : State} {a b : Nat} (hs : Stepped m z s) : Stepped m z (s.endRecovery a b) := by
  refine hs.kept (State.endRecovery_kept (Kept.refl s)) (.inl ?_)
  exact State.endRecovery_framed (List.Subset.refl _) (Framed.refl s) .dev (by decide)

/-- The move of a recovery that succeeds (R518). -/
theorem Kept.recovered {s t : State} (hd : s.dev = .faulted) (k : Kept s t) :
    Stepped (fun a b => a == .faulted && b == .stopped) s { t with dev := .stopped } :=
  k.moved (by rw [hd]; rfl) (by intro p; cases p)

theorem execRecoverDone_stepped {s : State} {t : Nat} {met : RecoverMet} :
    OutStepped (fun a b => a == .faulted && b == .stopped) s (execRecoverDone t met s) := by
  unfold execRecoverDone
  refine OutStepped.next (State.when_stepped (Kept.refl s).stepped fun h => ?_)
  have k1 : Kept s (s.advance t) := State.advance_kept (Kept.refl s)
  simp only [Bool.and_eq_true, beq_iff_eq] at h
  have hd := h.1
  generalize s.advance t = s1 at k1 ⊢
  dsimp only
  split
  · refine Stepped.ite (fun _ => k1.stepped) fun _ => Stepped.ite (fun _ => ?_) fun _ => ?_
    · refine State.endRecovery_stepped (Kept.stepped ?_)
      exact State.wakeDies_kept (Kept.foldl k1 fun t ht a => State.forceOff_kept ht)
    · have k2 : ∀ (run : BistRun) (f : List BistFail), Kept s (((((s1.wakeDies.bistResult run 47 met.macros f).retireFound f true false .s0).retireFound
          f true false .s1).serveDie .s0).serveDie .s1) := fun run f =>
        State.serveDie_kept (State.serveDie_kept (State.retireFound_kept (State.retireFound_kept
          (State.bistResult_kept (State.wakeDies_kept k1)))))
      refine Stepped.ite (fun _ => State.endRecovery_stepped (k2 _ _).stepped) fun _ => ?_
      exact Kept.recovered hd (State.endRecovery_kept (State.retrainXcut_kept (k2 _ _)))
  · exact State.endRecovery_stepped k1.stepped

theorem execRelease_keeps {s t : State} {seq : Byte} {arg : BitVec 16} {g : ReleaseEnd}
    (h : execRelease seq arg g s = .next t) :
    (Inv s → Inv t) ∧ t.dev = s.dev ∧ t.sec = s.sec ∧ (t.dep.safe = s.dep.safe ∨
      (t.dep.safe = false ∧ s.releaseOk = true ∧ arg = 0x6C3D ∧ spiCrcOk 0x10 seq arg g.crc = true)) := by
  have quiet : ∀ u, Framed [.regs, .host, .tally, .dep, .out] s u → (Inv s → Inv u) ∧ u.dev = s.dev ∧ u.sec = s.sec ∧
      (u.dep.safe = s.dep.safe ∨ (u.dep.safe = false ∧ s.releaseOk = true ∧ arg = 0x6C3D ∧
        spiCrcOk 0x10 seq arg g.crc = true)) := fun u f =>
    ⟨((Kept.refl s).framed f).inv, f .dev (by decide), f .sec (by decide), .inl (f .safe (by decide))⟩
  unfold execRelease at h
  split at h
  · cases h
    exact quiet _ (State.spiRefuse_framed (by decide) (Framed.refl s))
  · next hc =>
    split at h
    · cases h
      exact quiet _ (State.spiRefuse_framed (by decide) (Framed.refl s))
    · next ha =>
      split at h
      · next hr =>
        rw [Bool.and_eq_true] at hr
        obtain ⟨hr, -⟩ := hr
        cases h
        have hd : Dev.held s.dev = false := by
          simp only [State.releaseOk, Bool.and_eq_true, Bool.or_eq_true, beq_iff_eq] at hr
          obtain (h | h) | h := hr.1.1 <;> rw [h] <;> rfl
        have f : Framed [.regs, .host, .tally, .dep, .out] { s with dep := { s.dep with safe := false, irq := true }, sys := { s.sys with perstLow := false } }
            (((({ s with dep := { s.dep with safe := false, irq := true }, sys := { s.sys with perstLow := false } } : State).event rDeputyEvents 3).log note 0x0504
              (tallySource 0 9 0) []).spiAnswer 0x10 seq arg g.crc 0 []) :=
          State.spiAnswer_framed (by decide) (State.log_framed (by decide) (State.event_framed (by decide) (Framed.refl _)))
        have k := (Kept.refl { s with dep := { s.dep with safe := false, irq := true }, sys := { s.sys with perstLow := false } }).framed f
        refine ⟨fun i => k.inv ⟨i.mem, i.depSlice, i.slices, i.queue, fun p => ?_, i.otp⟩, f .dev (by decide),
          f .sec (by decide), .inr ⟨f .safe (by decide), hr, not_not.mp ha, by simpa using hc⟩⟩
        rw [show Dev.held ({ s with dep := { s.dep with safe := false, irq := true }, sys := { s.sys with perstLow := false } } : State).dev = Dev.held s.dev from rfl, hd] at p
        cases p
      · cases h
        exact quiet _ (State.spiAnswer_framed (by decide) (Framed.refl s))

theorem State.commitImage_stepped {z s : State} {i : Image} (hs : Kept z s) :
    Stepped (fun a b => a == .ready && b == .stopped) z (s.commitImage i) := by
  unfold State.commitImage
  have k3 : Kept z ((s.loadEnds 0 0 0).count rStructLoads 1) := State.count_kept (State.loadEnds_kept hs)
  generalize (s.loadEnds 0 0 0).count rStructLoads 1 = s2 at k3
  have k4 : Stepped (fun a b => a == .ready && b == .stopped) z { s2 with dev := if s2.dev = .ready then .stopped else s2.dev } := by
    by_cases hr : s2.dev = .ready
    · rw [if_pos hr]
      refine k3.moved ?_ (by intro p; cases p)
      have := k3.dev
      rw [hr] at this
      revert this
      cases z.dev <;> decide
    · rw [if_neg hr]
      exact k3.stepped
  have k5 : Stepped (fun a b => a == .ready && b == .stopped) z
      { s2 with image := some i, damaged := false, dev := if s2.dev = .ready then .stopped else s2.dev } := by
    refine k4.framed (ps := [.image, .damaged]) ?_
    intro p hp
    cases p <;> first | exact absurd (by decide) hp | rfl | exact ⟨rfl, rfl⟩
  exact ((k5.framed (State.checkCoord_framed (List.Subset.refl _) (Framed.refl _))).framed
    (State.rewrite_framed (List.Subset.refl _) (Framed.refl _))).framed
    (State.retrainDown_framed (List.Subset.refl _) (Framed.refl _))

theorem State.afterFront_stepped {m : Dev → Dev → Bool} {z s : State} {spans : List (Nat × Nat)} {next : State → State}
    (hs : Kept z s) (hn : Stepped m z (next s)) : Stepped m z (s.afterFront spans next) := by
  unfold State.afterFront
  exact Stepped.ite (fun _ => hn) fun _ => (State.noteStalls_kept hs).stepped

theorem State.finishLoad_stepped {z s : State} {l : Loading} {i : Image} {ue us reach : Nat} (hs : Kept z s) :
    Stepped (fun a b => a == .ready && b == .stopped) z (s.finishLoad l i ue us reach) := by
  have kl : ∀ {t : State} {l : Option Loading}, Kept z t → Kept z { t with loading := l } :=
    fun h => h.alike ⟨rfl, rfl, ⟨rfl, rfl⟩, rfl, rfl, rfl, rfl⟩
  unfold State.finishLoad
  refine Stepped.ite (fun _ => (kl hs).stepped) fun _ => ?_
  have hp : Kept z (if l.step = 6 then (s, 0) else s.passTwo l i ue).1 := by
    split
    · exact hs
    · exact State.passTwo_kept hs
  generalize (if l.step = 6 then (s, 0) else s.passTwo l i ue) = p at hp ⊢
  exact Stepped.ite (fun _ => (State.loadEnds_kept (State.setReg_kept hp)).stepped) fun _ =>
    Stepped.ite (fun _ => (kl hp).stepped) fun _ => State.commitImage_stepped (State.setReg_kept hp)

theorem execImageCommit_stepped {s : State} {us : Nat} {met : LoadStep} :
    OutStepped (fun a b => a == .ready && b == .stopped) s (execImageCommit us met s) := by
  unfold execImageCommit
  refine OutStepped.next ?_
  have kl : ∀ {t : State} {l : Option Loading}, Kept s t → Kept s { t with loading := l } :=
    fun h => h.alike ⟨rfl, rfl, ⟨rfl, rfl⟩, rfl, rfl, rfl, rfl⟩
  split
  · exact (Kept.refl s).stepped
  · refine State.afterFront_stepped (Kept.refl s) ?_
    extract_lets t ue
    have kt : Kept s t := State.when_kept (Kept.refl s) fun _ h => State.countDramCe_kept h
    clear_value t
    split
    · exact State.finishLoad_stepped kt
    · split
      · exact Stepped.ite (fun _ => (State.loadEnds_kept (State.when_kept (State.setReg_kept kt)
          fun _ h => State.sourceUe_kept h)).stepped) fun _ => (kl kt).stepped
      · exact Stepped.ite (fun _ => (kl kt).stepped) fun _ => State.finishLoad_stepped kt

theorem slot_modify {l : List KeySlot} {n : Nat} {f : KeySlot → KeySlot} (h : slotGrows (l.getD n KeySlot.blank) (f (l.getD n KeySlot.blank))) :
    ∀ k, slotGrows (l.getD k KeySlot.blank) ((modifyD KeySlot.blank f n l).getD k KeySlot.blank) := by
  intro k
  rw [getD_modifyD]
  split
  · next e => subst e; exact h
  · exact slotGrows.refl _

theorem otpGrows_apply {c : Sec} {w : OtpWork} (h : otpPending { c with otp := some w }) : otpGrows c (c.applyOtp w) := by
  cases w with
  | provision n x =>
    refine ⟨slot_modify ⟨fun p => ?_, id, Nat.le_refl _, fun p => ⟨(h.2 p).symm, .inr rfl⟩⟩, Nat.le_refl _, rfl, rfl, rfl, rfl⟩
    have := h.1
    simp only at this
    rw [p] at this
    cases this
  | revoke n =>
    exact ⟨slot_modify ⟨fun p => ⟨p, rfl⟩, fun _ => rfl, Nat.le_refl _, fun p => ⟨rfl, .inl p⟩⟩, Nat.le_refl _, rfl, rfl, rfl, rfl⟩
  | raise n v =>
    exact ⟨slot_modify ⟨fun p => ⟨p, rfl⟩, id, Nat.le_of_lt h, fun p => ⟨rfl, .inl p⟩⟩, Nat.le_refl _, rfl, rfl, rfl, rfl⟩
  | raiseFw v => exact ⟨fun n => slotGrows.refl _, Nat.le_of_lt h, rfl, rfl, rfl, rfl⟩

theorem otpGrows_cut {c : Sec} {w : OtpWork} {far : Bool} (h : otpPending { c with otp := some w }) :
    otpGrows c (c.cutOtp far w) := by
  unfold Sec.cutOtp
  split
  · split
    · refine ⟨slot_modify ⟨fun p => ?_, id, Nat.le_refl _, fun p => ⟨(h.2 p).symm, .inl rfl⟩⟩, Nat.le_refl _, rfl, rfl, rfl, rfl⟩
      have := h.1
      simp only at this
      rw [p] at this
      cases this
    · exact otpGrows_apply h
  · exact otpGrows.refl _

theorem otpGrows_forget {c d : Sec} (h : otpGrows c d) : otpGrows c d.forget := h

theorem State.cutSec_kept {z s : State} (hs : Kept z s) : Kept z s.cutSec := by
  unfold State.cutSec
  split
  · exact hs.sec (fun _ => trivial) fun _ => otpGrows_forget (otpGrows.refl _)
  · next w hw =>
    have k := State.freeWord_kept hs
    generalize hf : s.freeWord = p at k
    obtain ⟨f, t⟩ := p
    have e : t.sec = s.sec := by
      have := State.freeWord_framed (ps := [.free]) (by decide) (Framed.refl s) .sec (by decide)
      rw [hf] at this
      exact this
    dsimp only at k ⊢
    refine k.sec (fun _ => trivial) fun hp => otpGrows_forget ?_
    rw [e] at hp ⊢
    refine otpGrows_cut (w := w) ?_
    unfold otpPending at hp ⊢
    rw [hw] at hp
    exact hp

/-- A reset of the device: BOOT, with the outputs asserted and no command waiting. -/
theorem resetStepped {z s t : State} (hs : Kept z s) (hd : t.dev = .boot) (hm : t.mem = s.mem ∨ t.mem = []) (hq : t.sys.queue = [])
    (hx : t.dep.safe = true ∧ t.dep.slice = []) (h0 : t.d0.sliceOv = s.d0.sliceOv ∨ t.d0.sliceOv = [])
    (h1 : t.d1.sliceOv = s.d1.sliceOv ∨ t.d1.sliceOv = []) (he : t.sec = s.sec) : Stepped (fun _ b => b == .boot) z t := by
  refine ⟨fun i => ⟨?_, ?_, ?_, ?_, fun _ => hx.1, ?_⟩, fun i => ?_, fun _ => hx.1, ?_⟩
  · obtain h | h := hm <;> rw [h]
    · exact (hs.inv i).mem
    · exact ⟨List.Pairwise.nil, fun c hc => by cases hc⟩
  · rw [hx.2]
    exact ⟨List.Pairwise.nil, fun c hc => by cases hc⟩
  · intro d
    cases d
    · show rising t.d0.sliceOv
      obtain h | h := h0 <;> rw [h]
      · exact (hs.inv i).slices .s0
      · exact List.Pairwise.nil
    · show rising t.d1.sliceOv
      obtain h | h := h1 <;> rw [h]
      · exact (hs.inv i).slices .s1
      · exact List.Pairwise.nil
  · rw [hq]; exact Nat.zero_le _
  · rw [he]; exact (hs.inv i).otp
  · rw [he]; exact hs.otp i
  · rw [hd]; cases z.dev <;> rfl

theorem execDeviceReset_stepped {s : State} : OutStepped (fun _ b => b == .boot) s (execDeviceReset s) := by
  unfold execDeviceReset
  refine OutStepped.next ?_
  unfold State.deviceReset
  have k := State.cutSec_kept (Kept.refl s)
  generalize s.cutSec = s1 at k
  have k2 : Stepped (fun _ b => b == .boot) s s1.resetDevice := resetStepped k rfl (.inl rfl) rfl ⟨rfl, rfl⟩ (.inl rfl) (.inl rfl) rfl
  refine k2.framed (ps := [.regs]) ?_
  dsimp only
  exact State.resetProfile_framed (by decide) (State.setField_framed (by decide) (State.setField_framed (by decide)
    (State.setField_framed (by decide) (State.setField_framed (by decide) (Framed.refl _)))))

theorem execPowerOnReset_stepped {s : State} : OutStepped (fun _ b => b == .boot) s (execPowerOnReset s) := by
  unfold execPowerOnReset
  refine OutStepped.next ?_
  unfold State.powerOn
  have k := State.cutSec_kept (Kept.refl s)
  generalize s.cutSec = s1 at k
  have k2 : Stepped (fun _ b => b == .boot) s s1.resetPower := resetStepped k rfl (.inr rfl) rfl ⟨rfl, rfl⟩ (.inr rfl) (.inr rfl) rfl
  exact k2.framed (State.resetProfile_framed (List.Subset.refl _) (Framed.refl _))

theorem execPerstNFall_kept {z s : State} (hs : Kept z s) : OutKept z (execPerstNFall s) := by
  unfold execPerstNFall
  refine OutKept.next ?_
  exact (hs.assert (x := { s.dep with safe := true }) rfl rfl).alike ⟨rfl, rfl, ⟨rfl, rfl⟩, rfl, rfl, rfl, rfl⟩

theorem State.lockDie_dev {s : State} {d : Die} : (s.lockDie d).dev = s.dev :=
  State.lockDie_framed (List.Subset.refl _) (Framed.refl s) .dev (by decide)

theorem execBootComplete_stepped {s : State} : OutStepped (fun a b => a == .boot && b == .ready) s (execBootComplete s) := by
  unfold execBootComplete
  refine OutStepped.next (State.when_stepped (Kept.refl s).stepped fun h => ?_)
  have hb : s.dev = .boot := by
    simp only [State.bootReady, Bool.and_eq_true, beq_iff_eq] at h
    exact h.1.1.1.1.1
  extract_lets up s1
  have ku : ∀ (t : State) (d : Die), Kept s t → Kept s (up t d) := fun t d ht => by
    refine State.when_kept ht fun t ht => ?_
    have h1 : Kept s ((t.when (t.die d).isolated fun s => s.initSram d).takeService d) :=
      State.takeService_kept (State.when_kept ht fun _ h => State.initSram_kept h)
    dsimp only
    generalize (t.when (t.die d).isolated fun s => s.initSram d).takeService d = t1 at h1 ⊢
    exact State.lockDie_kept (State.setDie_kept h1 fun i => by simpa using Kept.die h1 i d)
  have hw : ∀ (t : State) (c : Bool) (f : State → State), (f t).dev = t.dev → (t.when c f).dev = t.dev := fun t c f h => by
    unfold State.when
    split
    · exact h
    · rfl
  have du : ∀ (t : State) (d : Die), (up t d).dev = t.dev := fun t d => by
    refine hw _ _ _ ?_
    have h0 : ((t.when (t.die d).isolated fun s => s.initSram d).takeService d).dev = t.dev :=
      (State.takeService_framed (List.Subset.refl _) (Framed.refl _) .dev (by decide)).trans
        (hw _ _ _ (State.initSram_framed (List.Subset.refl _) (Framed.refl t) .dev (by decide)))
    dsimp only
    generalize (t.when (t.die d).isolated fun s => s.initSram d).takeService d = t1 at h0 ⊢
    rw [State.lockDie_dev]
    exact (show _ = t1.dev by cases d <;> rfl).trans h0
  have k1 : Kept s s1 := State.retrainXcut_kept (State.setClock_kept (ku _ _ (ku _ _ (Kept.refl s))))
  have d1 : s1.dev = .boot := by
    refine (State.retrainXcut_framed (List.Subset.refl _) (Framed.refl _) .dev (by decide)).trans ?_
    refine (State.setClock_framed (List.Subset.refl _) (Framed.refl _) .dev (by decide)).trans ?_
    rw [du, du, hb]
  clear_value s1
  have k2 : Stepped (fun a b => a == .boot && b == .ready) s { s1 with dev := .ready } :=
    ⟨fun i => ⟨(k1.inv i).mem, (k1.inv i).depSlice, (k1.inv i).slices, (k1.inv i).queue,
      fun _ => (k1.inv i).safe (by rw [d1]; rfl), (k1.inv i).otp⟩, k1.otp, k1.safe, by rw [hb]; rfl⟩
  refine k2.framed (ps := [.now, .timeOn]) ?_
  intro p hp
  cases p <;> first | exact absurd (by decide) hp | rfl | exact ⟨rfl, rfl⟩

theorem execFlr_kept {z s : State} {t step : Nat} (hs : Kept z s) : OutKept z (execFlr t step s) := by
  unfold execFlr
  extract_lets s1 was s2 s3
  have k1 : Kept z s1 := State.advance_kept hs
  clear_value s1
  have k3 : Kept z s3 := State.log_kept (State.setField_kept (State.event_kept (State.resetFunction_kept (State.abortLoad_kept k1))))
  have f3 : s3.dev = s1.dev := by
    refine (State.log_framed (List.Subset.refl _) (Framed.refl _) .dev (by decide)).trans ?_
    refine (State.setField_framed (List.Subset.refl _) (Framed.refl _) .dev (by decide)).trans ?_
    refine (State.event_framed (List.Subset.refl _) (Framed.refl _) .dev (by decide)).trans ?_
    refine (State.resetFunction_framed (List.Subset.refl _) (Framed.refl _) .dev (by decide)).trans ?_
    exact State.abortLoad_framed (List.Subset.refl _) (Framed.refl _) .dev (by decide)
  have hw : was = s1.dev := rfl
  clear_value s3 was
  refine OutKept.next ?_
  cases was
  case hold => exact State.leaveRunning_kept k3 (by rw [f3, ← hw]; rfl) (by intro p; cases p)
  case running => exact State.enterSafe_kept k3
  all_goals exact k3

theorem execAttestDone_kept {z s : State} (hs : Kept z s) : OutKept z (execAttestDone s) := by
  unfold execAttestDone
  refine OutKept.next ?_
  split
  · exact hs
  · exact State.setReg_kept (State.store_kept (hs.sec id fun _ => otpGrows.refl _))

theorem execFlashProgrammed_kept {z s : State} {ok : Bool} (hs : Kept z s) : OutKept z (execFlashProgrammed ok s) := by
  unfold execFlashProgrammed
  refine OutKept.next ?_
  split
  · exact hs
  · refine Kept.ite (State.setBootError_kept (hs.sec id fun _ => otpGrows.refl _)) ?_
    exact State.setBootError_kept (State.freeWord_kept (hs.sec id fun _ => otpGrows.refl _))

theorem execOtpDone_kept {z s : State} {ok : Bool} (hs : Kept z s) : OutKept z (execOtpDone ok s) := by
  have hp : ∀ w, s.sec.otp = some w → otpPending s.sec → otpPending { s.sec with otp := some w } := fun w hw h => by
    unfold otpPending at h ⊢
    rw [hw] at h
    exact h
  unfold execOtpDone
  refine OutKept.next ?_
  split
  · exact hs
  · next w hw =>
    refine Kept.ite (State.otpResult_kept (hs.sec (fun _ => trivial) fun h => otpGrows_apply (hp w hw h))) ?_
    have k := State.freeWord_kept hs
    generalize hf : s.freeWord = q at k
    obtain ⟨f, t⟩ := q
    have e : t.sec = s.sec := by
      have := State.freeWord_framed (ps := [.free]) (by decide) (Framed.refl s) .sec (by decide)
      rw [hf] at this
      exact this
    dsimp only at k ⊢
    refine State.otpResult_kept (k.sec (fun _ => trivial) fun h => ?_)
    rw [e] at h ⊢
    exact otpGrows_cut (hp w hw h)

theorem execSyncDone_kept {z s : State}
    (hs : Kept z s) : OutKept z (execSyncDone s) := by
  unfold execSyncDone
  repeat' (first
    | with_reducible assumption
    | with_reducible refine OutKept.next ?_
    | with_reducible refine State.when_kept ?_ (fun _ hs => ?_)
    | with_reducible refine State.when_kept ?_ (fun _ hs => ?_)
    | with_reducible refine State.afterFront_kept ?_ (fun _ hs => ?_)
    | with_reducible refine State.copyStore_kept ?_
    | with_reducible refine State.event_kept ?_
    | (fail_if_no_progress extract_lets +onlyGivenNames x
       refine cutL (p := Kept z x) ?_ ?_; subst x; rotate_left; intro hs; try clear_value x; rotate_right)
    | (fail_if_no_progress extract_lets +onlyGivenNames x
       first
       | (have hd : List _ := x; clear hd; clear_value x)
       | (have hd : Bool := x; clear hd; clear_value x)
       | (have hd : Nat := x; clear hd; clear_value x)
       | subst x)
    | fail_if_no_progress beta_reduce
    | ((with_reducible refine Kept.upd ?_ ?_); rotate_left; exact ⟨rfl, rfl, ⟨rfl, rfl⟩, rfl, rfl, rfl, rfl⟩))

theorem execS1PowerUp_kept {z s : State} {t : Nat} (hs : Kept z s) : OutKept z (execS1PowerUp t s) := by
  unfold execS1PowerUp
  refine OutKept.next (State.when_kept hs fun s hs => ?_)
  extract_lets s1 s2 x s3 s4 s5 s6
  have k2 : Kept z s2 := State.takeService_kept (State.initSram_kept (State.advance_kept hs))
  clear_value s2
  have k4 : Kept z s4 := State.selfRefresh_kept (State.lockDie_kept (k2.alike ⟨rfl, rfl, ⟨rfl, rfl⟩, rfl, rfl, rfl, rfl⟩))
  clear_value s4
  have k5 : Kept z s5 := by
    show Kept z (match (s4.loading.bind fun l => if l.step = 6 then l.kept else none).or s4.image with | some i => s4.placeImage i .s1 | none => s4)
    split
    · exact State.placeImage_kept k4
    · exact k4
  clear_value s5
  have k6 : Kept z s6 := State.event_kept (State.retrainXcut_kept k5)
  clear_value s6
  exact State.changeEnds_kept (k6.alike ⟨rfl, rfl, ⟨rfl, rfl⟩, rfl, rfl, rfl, rfl⟩)

end Sys2Proof.Machine
end

