-- ==== Sys2Proof/Machine/Pcie.lean ====
section
/-! DEFINITION. The PCIe function as configuration reads show it (R367, R370, R371): the header, the BARs, the capabilities
and the limits. No row of the opcode table reads configuration space; the offsets of these fields are PCI's own
(notes/assumptions/112.md). -/

namespace Sys2Proof.Machine
open Sys2Proof

/-- The configuration header (R367). -/
structure PciHeader where
  vendor          : Nat
  device          : Nat
  revision        : Nat
  classCode       : Nat
  subsystemVendor : Nat
  subsystem       : Nat
  interruptPin    : Nat
  deriving DecidableEq, Repr

/-- The header's values: the Subsystem ID is that of the variant, GLB.ID bits [7:4] (R367). -/
def State.pciHeader (s : State) : PciHeader :=
  { vendor := 0x1E5B, device := 0x8400, revision := 0xB0, classCode := 0x120000, subsystemVendor := 0x1E5B
    subsystem := bits (s.peek rGlbId) 7 4, interruptPin := 0 }

/-- A BAR: 64-bit memory, prefetchable or not, its size (R370). -/
structure PciBar where
  index        : Nat
  prefetchable : Bool
  size         : Nat
  deriving DecidableEq, Repr

/-- The BARs of the function (R370): registers and aliases, the window, the MSI-X table and PBA. -/
def pciBars : List PciBar := [⟨0, false, 0x4000000⟩, ⟨2, true, 0x40000000⟩, ⟨4, false, 0x4000⟩]

/-- The 32-bit word at an offset of BAR4 (R370, R384): of the MSI-X table at 0x0000 an entry is its message address in two
words, the message data, and its control, whose bit 0 masks it; the PBA at 0x2000 has a bit a vector; the rest reads 0. The
fields of an entry are PCI's own (notes/assumptions/112.md). -/
def State.bar4Word (s : State) (o : Nat) : Word :=
  if o < 0x400 then
    let e := s.host.vectors.getD (o / 16) (0, 0)
    match o % 16 / 4 with
    | 0 => BitVec.ofNat 32 e.1
    | 1 => BitVec.ofNat 32 (e.1 / 2 ^ 32)
    | 2 => BitVec.ofNat 32 e.2
    | _ => BitVec.ofNat 32 (bnat (s.host.mask.getLsbD (o / 16)))
  else if 0x2000 ≤ o ∧ o < 0x2008 then BitVec.ofNat 32 (s.host.pba.toNat / 2 ^ (8 * (o % 8 / 4 * 4)))
  else 0

/-- A capability that the endpoint has (R371). -/
inductive PciCap where
  | serial (lo hi : Word)
  | aer (ecrcGen ecrcCheck : Bool) (status : Word)
  | power (d3hot noSoftReset : Bool)
  | msix (entries : Nat) (mask pending : BitVec 64)
  deriving DecidableEq, Repr

/-- The capabilities with what they show (R371, R373, R384): Device Serial Number, AER, Power Management, MSI-X. -/
def State.pciCaps (s : State) : List PciCap :=
  [.serial (BitVec.ofNat 32 s.sec.serial) (BitVec.ofNat 32 (s.sec.serial / 4294967296)),
   .aer s.host.cfg.ecrcGen s.host.cfg.ecrcCheck s.host.cfg.aerStatus, .power s.host.d3 true,
   .msix 64 s.host.mask s.host.pba]

/-- Non-posted requests that its 8-bit tags tell apart (R371). -/
def tagLimit : Nat := 256

end Sys2Proof.Machine
end

