-- ==== Sys2Proof/Tests/Slice0.lean ====
section
/-! SUPPORT. Tests: for every statement with hypotheses a state and operands that meet them together, clause by clause, at
values where a range ends; for every check of WellFormed a term that it refuses; a few single steps whose results the spec
gives. -/

namespace Sys2Proof.Tests
open Sys2Proof Sys2Proof.Machine

set_option maxRecDepth 100000
set_option Elab.async false

/-! ### States -/

/-- A profile entry with phases of 100 µs. -/
def entry0 : PhaseEntry :=
  { (default : PhaseEntry) with
    profile := 0, fitted := true, minPeriod := 602, ingestCut := 40, cap := 1000
    phases := [(0, 100), (100, 100), (200, 100), (300, 100), (400, 100), (500, 100)] }

/-- An image with the four profiles fitted.  -/
def image0 : Image :=
  { (default : Image) with
    entries := [entry0, { entry0 with profile := 1 }, { entry0 with profile := 2 }, { entry0 with profile := 3 }]
    refine := { (default : RefineCfg) with rounds := 2, timeupUs := 300 }
    world := { (default : WorldCfg) with
      m := 1, tileCap := 4, agentCapBytes := 4096, egoAgeLimit := 8, stageBytes := 262144, urgentCap := 4 }
    rollout := { (default : RolloutCfg) with nSamp := 32, dtUs := 100000 }
    select := ⟨4, 4⟩
    cost := { (default : CostCfg) with
      base := 1000, weights := List.replicate 10 1, shifts := List.replicate 10 0, pLimit := 100 }
    policy := { (default : PolicyCfg) with nets := [⟨[], true⟩] }
    streams := { (default : StreamsCfg) with
      streams := [⟨[1, 2, 3, 5, 6, 7], false, 100000⟩], slots := 16, slot64 := 20 }
    safety := { (default : SafetyCfg) with nInv := 2, tolPos := 100, tolHdg := 100, sets := [default] } }

/-- A powered die with its engines in service and its links up.  -/
def dieOn : DieState := { DieState.reset.takeService with power := 2, peerUp := true, hubUp := true }

/-- Stopped, with an image, both dies on, no safe-state output asserted.  -/
def stopped0 : State :=
  { State.reset with
    dev := .stopped, now := 500, timeOn := true, image := some image0, d0 := dieOn, d1 := dieOn
    sys := { Sys.reset with inReset := false, porHeld := false }, tally := { Tally.reset with ready := true, tokens := 10 }
    power := ⟨0x1FFF, 0x7F, 800, 800, 800, 800⟩
    regs := [(rDmcSize .s0, packFields [(0, 64), (16, 56)]), (rDmcSize .s1, packFields [(0, 64), (16, 56)]),
      (rDmcInitFront .s0, 56), (rDmcInitFront .s1, 56)]
    dep := { Deputy.reset with safe := false }, host := { HostPort.reset with up := true } }

/-- Running, with a tick in progress.  -/
def running0 : State :=
  { stopped0 with
    dev := .running
    tick := { Tick.reset with num := 5, next := 6, live := true, tk := 1000, expect := 1001000, phase := 0 } }

/-- On hold.  -/
def hold0 : State := { stopped0 with dev := .hold }

/-- In the safe state.  -/
def faulted0 : State := { stopped0 with dev := .faulted, dep := { Deputy.reset with cause := 1 } }

/-- A state with entries in the command queue.  -/
def queued (s : State) (q : List CmdEntry) : State := { s with sys := { s.sys with queue := q } }

/-- Running, with an emergency plan of the tick under check.  -/
def checking0 : State :=
  let s := { running0 with
    dep := { running0.dep with tick := 5, tk := 1000, canary := [(0, dieOn.serving, 0), (1, dieOn.serving, 0)] } }
  { s with dep := { s.dep with
      check := some (s.encodeRecord ⟨emergencyId, 0, 9, 0, 0xFFFF, 0, [s.depStart]⟩, 900) } }

/-- Running, with an INVALID record under check.  -/
def checkingBad : State :=
  { running0 with dep := { running0.dep with check := some (running0.encodeRecord (invalidBody running0 3), 900) } }

/-- The CRC of a frame of the SPI port.  -/
def frameCrc (cmd seq : Byte) (arg : BitVec 16) : BitVec 16 := crc16 0xFFFF#16 (spiRequest cmd seq arg)

/-- An ingest item from its header fields (R81).  -/
def item (type flags length stamp seq target aux0 aux1 : Nat) (payload : List Byte) : List Byte :=
  leBytes 1 type ++ leBytes 1 flags ++ [0, 0] ++ leBytes 4 length ++ leBytes 8 stamp ++ leBytes 4 seq ++ leBytes 4
        target ++
    leBytes 4 aux0 ++ leBytes 4 aux1 ++ List.replicate 32 0 ++ payload

/-- An EGO item of tick 5's window.  -/
def egoItem : List Byte := item 5 0 128 1500 1 0 0 0 (List.replicate 64 1)

/-- An URGENT item that removes agent 3, of the same window. -/
def urgentItem : List Byte := item 7 1 64 1500 1 3 0 0 []

/-- A state with items that have arrived on a stream, and items held there: arrival, chain and bytes. -/
def arrived (s : State) (stream : Nat) (inbox held : List (Nat × Nat × List Byte)) : State :=
  s.mapStream stream fun c => { c with inbox := inbox, held := held }

/-- A staged item.  -/
def staged (arrival size : Nat) (m : Matter) : Staged := ⟨0, 900, arrival, false, false, size, m⟩

/-- Running, with a directory of 2 by 2 tiles at DRAM offset 4096 and a tile store at 65536.  -/
def world0 (l : List Staged) : State :=
  let s := (((running0.setReg rWorldDirBaseLo 4096).setReg rWorldDirExt 0x20002).setReg rWorldStoreBaseLo
        65536).setReg
    rWorldStoreSlots 4
  { s with world := { s.world with staged := l } }

/-- Base of S0's Gallery.  -/
def gal : Nat := 0x400000000000

/-- A Select descriptor in S0's Gallery: operation, K and COUNT.  -/
def selDesc (op k count : Nat) : SelDesc :=
  { (default : SelDesc) with
    op := op, k := k, count := count, src := gal, src2 := gal + 0x1000, src3 := gal + 0x2000, dst := gal + 0x3000
    result := gal + 0x4000 }

/-- A state whose Select engine 0 of S0 holds a descriptor, with two elements at its source.  -/
def selecting (x : SelDesc) : State :=
  let s := running0.store gal (encodeElement false ⟨7, 900, 0⟩ ++ encodeElement false ⟨9, 1200, 0⟩)
  { s with d0 := { s.d0 with sel := [⟨0, x, false, false, 0, 0, 0, []⟩] } }

/-- Running, with a STOP or HOLD waiting for the boundary. -/
def runWait : State := { running0 with sys := { running0.sys with waitEdge := true, waitAt := 700 } }

/-- Running from the TICK_IN source. -/
def tickIn : State := running0.setReg rTickCtrl 1

/-- Stopped, with T_0 set. -/
def t0set : State := stopped0.setPair rTickT0Lo rTickT0Hi 100000

/-- The same on hold. -/
def t0hold : State := { t0set with dev := .hold }

/-- Stopped, with two pending values. -/
def pend0 : State := { stopped0 with sh := [⟨rGlbProfile, 0xF, 1⟩, ⟨rTickPeriod, 0xFFFF, 2000⟩] }

/-- On hold, with a SAVE or RESTORE in progress. -/
def saving0 : State := { hold0 with sys := { hold0.sys with waitSave := true } }

/-- A state whose DRAM holds its own saved form at 0. -/
def savedIn (s : State) : State := s.store 0 (s.saveBytes false)

/-- Running from the master as source, its ports up. -/
def markIn : State :=
      { running0.setReg rTickCtrl 2 with kl := { Klink.reset with ports := List.replicate 6 { Port.idle with up := true } } }

/-- The links of the corner of a 2 by 1 by 1 mesh. -/
def treeNode : LinksCfg := ⟨[2,1,1],[false,false,false],[1,1,1],0,10,4⟩

/-- A state with that image section and its ports up. -/
def treeLinked (s : State) : State :=
      { s with image := some { image0 with links := some treeNode }, kl := { Klink.reset with ports := List.replicate 6 { Port.idle with up := true } } }

/-- The master, running and sending markers. -/
def marker0 : State := (treeLinked running0).setReg rTickCtrl 0x20

/-- Stopped, with a world and bytes in its directory. -/
def sync0 : State := ({ world0 [] with dev := .stopped }).store 4096 [1,2,3]

/-- A task record of a class, released in a phase. -/
def task0 (cls phase : Nat) : TaskRec := ⟨cls, phase, 0xFFFF, 0, 0xFFFF, gal, 0, 0, 0, 0⟩

/-- An ENGINES section with the task records `l`. -/
def eng0 (l : List TaskRec) : EnginesCfg := { (default : EnginesCfg) with tasks := l }

/-- A list of task 0 in a class on S0.  -/
def listed (cls : Nat) (q : List Nat) : State :=
  { running0 with
    image := some { image0 with engines0 := eng0 [task0 cls 0] }
    tick := { running0.tick with rel := 1 }
    d0 := { dieOn with ovm := { Ovm.idle with lists := setD [] cls q Ovm.idle.lists } } }

/-- An engine of a class that holds task 0. -/
def holding (cls st stage : Nat) : State :=
      { listed cls [] with d0 := { dieOn with ovm := { Ovm.idle with running := [⟨cls, 0, 0, false, st, stage, none, none, (0, 0), none, []⟩] } } }

/-- Running in PROPOSE, a run of the flagged network 0 ended on both dies, with the bytes of its first and second run. -/
def voting (paRun : Nat) (first second : List Byte) : State :=
  let d := { dieOn with paRun := paRun, paFirst := first, paSecond := second }
  { running0 with tick := { running0.tick with rel := 2 }, d0 := d, d1 := d }

/-- Running in PROPOSE, both dies in an operation of a later run of network 0. -/
def rerunning (paRun : Nat) : State :=
  let d := { dieOn with paRun := paRun, paBusy := true }
  { running0 with tick := { running0.tick with rel := 2 }, d0 := d, d1 := d }

/-- Running in CROSSWIND, after the release of the phases below `rel`. -/
def finalS (rel : Nat) (passed walked : Bool) : State :=
      { running0 with regs := (running0.setReg rGlbProfile 3).regs,  tick := { running0.tick with rel := rel }, plan := { running0.plan with passed := passed, walked := walked } }

/-- In SELECT before the pass has ended, the record pairs of the fallback and of its copy, and the held mismatches. -/
def passing (mine other : List Byte) (held : List VoteItem) : State :=
  { finalS 5 false false with
    plan := { (finalS 5 false false).plan with passRecs := [(2, 4, mine), (3, 4, other)], votesDue := held } }

/-- After the pass, one vote due. -/
def due (v : VoteItem) : State := { finalS 5 true false with plan := { (finalS 5 true false).plan with votesDue := [v] } }

/-- A block that both dies have swept in CROSSWIND, with another byte in the first record of S0's. -/
def swept : State :=
  let s := finalS 4 false false
  { s with plan := { s.plan with ended := [⟨.s0, 0, 0, 0, [[1]]⟩, ⟨.s1, 0, 0, 0, [[2]]⟩] } }

/-- Software's Select descriptor (MERIT) at the Gallery's base.  -/
def swState : State := (stopped0.store gal ([1, 0, 0, 0, 2] ++ List.replicate 59 0)).setReg (rSelSwDescHi .s0) 0x4000

/-- Running in REFINE, with a block on engine 0. -/
def stepping : State := { running0 with
   tick := { running0.tick with rel := 4 }
   d0 := { dieOn with reWork := [⟨0, 0, ⟨1, 0, 0, gal, gal, 0, 0⟩, 0⟩] } }

/-- A descriptor: END, source, destination, length, control.  -/
def descBytes (last src dst len ctrl : Nat) : List Byte :=
  leBytes 8 last ++ leBytes 8 src ++ leBytes 8 dst ++ leBytes 4 len ++ leBytes 4 ctrl

/-- A state with a channel that holds `c`.  -/
def withChan (s : State) (ch : Nat) (c : Chan) : State := s.mapChan ch fun _ => c

/-- A chain at the step `st` of a descriptor.  -/
def chainAt (st : ChainStep) (body : List Byte) : Chain := { Chain.begin_ 0x20000 with step := st, body := body }

/-- A channel with a chain in progress.  -/
def busy (h : Chain) : Chan := { Chan.idle with chain := some h, cur := h.desc }

/-- An ingress descriptor of 64 bytes. -/
def dIn : List Byte := descBytes 1 0x1000 0 64 0

/-- An ingress descriptor of 128 bytes. -/
def dEgo : List Byte := descBytes 1 0x1000 0 128 0

/-- An egress descriptor of 64 bytes. -/
def dOut : List Byte := descBytes 1 (gal+64) 0x4000 64 0

/-- The same with another one at 0x20040 after it. -/
def dNext : List Byte := descBytes 0x20040 (gal+64) 0x4000 64 0

/-- A device-bound descriptor of a bidirectional channel. -/
def dPvIn : List Byte := descBytes 1 0x1000 (gal+64) 64 0

/-- A host-bound one. -/
def dPvOut : List Byte := descBytes 1 (gal+64) 0x4000 64 2

/-- A descriptor within the local map. -/
def dInt : List Byte := descBytes 1 (gal+64) (gal+128) 64 0

/-- Channel 0 of the internal set of S0 at a step of a descriptor in the Gallery, run by a task or by software. -/
def intS (st : ChainStep) (b desc : List Byte) (task : Bool) : State :=
  let s := running0.store 0x400000020000 desc
  { s with d0 := { s.d0 with ihaul := [(0, task, { chainAt st b with desc := 0x400000020000 })] } }

/-- Running, with records waiting for ring 129. -/
def ringS (f : List Feed) : State := withChan running0 129 { Chan.idle with feeds := f }

/-- The same with a ring of two slots of 64 bytes. -/
def ringR : State := (ringS [⟨1, List.replicate 100 1⟩]).setReg (rHaulEgGeom 1) 0x10002

/-- A row of four nodes of which this is number 1; the ports to its neighbours are up.  -/
def linked (s : State) : State :=
  let s :=
        { s with image := some { image0 with links := some { dims := [4, 1, 1], mesh := [true, true, true], box := [4, 1, 1], master := 0, leadUs := 100, kTable := 0 } } }
  let s := s.setReg rKlinkCoord 1
  { s with kl := { s.kl with ports := (List.range 6).map fun p => if p < 2 then { Port.idle with up := true, node := 2 - 2 * p } else Port.idle } }

/-- The same with a port in the state `q`.  -/
def withPort (s : State) (p : Nat) (q : Port) : State :=
      { s with kl := { s.kl with ports := setD Port.idle p q s.kl.ports } }

/-- A port that is up. -/
def upPort : Port := { Port.idle with up := true, node := 2 }

/-- A flit that begins a packet of 100 bytes of data.  -/
def flitBody : List Byte := packetBytes 1 0 1 5 64 (List.replicate 100 1) |>.take 60

/-- That flit with its CRC. -/
def goodFlit : List Byte := flitBody ++ leBytes 4 (crc32 flitBody).toNat

/-- That flit as one of a packet of this node that waits on a virtual channel. -/
def sentFlit (vc : Nat) : WaitFlit := ⟨vc, true, false, goodFlit, false, 0, 6, vc⟩

/-- A port with three flits not acknowledged. -/
def replayP : Port := { upPort with replay := [(4, sentFlit 0), (5, sentFlit 0), (7, sentFlit 1)], naks := 2 }

/-- Running, number 1 of a row of four. -/
def lk : State := linked running0

/-- The same with one outstanding operation. -/
def withOp (o : RemoteOp) : State := { lk with kl := { lk.kl with ops := [o] } }

/-- An OTP command word with the key. -/
def key (op n svn : Nat) : Word := BitVec.ofNat 32 (op + 16 * n + 256 * svn + 65536 * 0x9E27)

/-- A blank key slot. -/
def blank0 : KeySlot := KeySlot.blank

/-- Stopped, with the key slots `l`. -/
def slotted (l : List KeySlot) : State := { stopped0 with sec := { stopped0.sec with slots := l } }

/-- Stopped, with an OTP command in progress. -/
def otpW (w : OtpWork) : State := { stopped0 with sec := { stopped0.sec with otp := some w } }

/-- A self-test in progress. -/
def bst (k d b : Nat) (s : State := stopped0) : State := { s with bist := { s.bist with run := some ⟨k, d, b⟩ } }

/-- A dump in progress. -/
def dmp (s : State) : State :=
      { s with tally := { s.tally with dumping := some (64, [(3, List.replicate 64 1), (4, List.replicate 64 2)]) } }

/-- A staged log entry. -/
def te (n : Nat) : TallyEntry := ⟨n, 1, 0x300, List.replicate 56 1⟩

/-- Stopped, with a log. -/
def lg (st : List TallyEntry) (er : Option Nat) (wr : List (Nat × List Byte)) (lost : Nat) : State :=
      { stopped0 with tally := { stopped0.tally with staged := st, erasing := er, written := wr, lost := lost } }

/-- A written log entry. -/
def w1 : Nat × List Byte := (4, List.replicate 64 1)

/-- In the safe state, with the recovery sequence in progress. -/
def recovering0 : State :=
      { faulted0 with regs := (rTallyRecovery, 1) :: faulted0.regs, bist := { faulted0.bist with run := some ⟨7,3,2⟩ }, sys := { faulted0.sys with queue := [.cmd 7], waitRec := true } }

/-- Stopped, the bit window at 0x20000. -/
def winS : State := ((stopped0.setReg rGlbAliasMode 1).setReg rGlbBitwinBase 0x20000)

/-- Stopped, the bit window at 0xFF0000. -/
def winT : State := ((stopped0.setReg rGlbAliasMode 1).setReg rGlbBitwinBase 0xFF0000)

/-- HAUL.BUSY of the register map: every bit plain read-write. -/
def regFull : RegDef :=
  { off := 0x20024, stride := 4, count := 1, rw := 0xFFFFFFFF, sh := 0, rc := 0, wo := 0, w1p := 0, rwl := 0, rst := 0 }

/-- GLB.CMD of the register map: write-only. -/
def regCmd : RegDef := ⟨8, 4, 1, 0, 0, 0, 0xFF, 0, 0, 0⟩

/-- TICK.PERIOD of the register map: shadowed. -/
def regPeriod : RegDef := (findReg rTickPeriod).getD regCmd

/-- The error a load's check ends with. -/
def loadError (r : Except (Nat × Nat × Nat) Image) : Option (Nat × Nat × Nat) :=
  match r with
  | .error e => some e
  | .ok _ => none

/-- Whether an outcome is a next state with a property. -/
def after (o : Host.Outcome State Fault Refusal) (p : State → Bool) : Bool :=
  match o with
  | .next u => p u
  | .fault _ => false
  | .refused _ => false

theorem after_next { o : Host.Outcome State Fault Refusal } { p : State → Bool } (h : after o p = true) :
    ∃ u, o = .next u ∧ p u = true := by
  cases o with
  | next u => exact ⟨u, rfl, h⟩
  | fault f => exact absurd h (by simp [after])
  | refused r => exact absurd h (by simp [after])

/-- The modulus of the test keys, a prime of 607 bits: the check of a signature does not look at how a modulus was made. -/
def modulus0 : List Byte := beBytes 384 (2 ^ 607 - 1)

/-- A firmware container of 960 bytes, SVN 3, version 7, with its signature. -/
def container0 : List Byte :=
  [0x4C, 0x4D, 0x46, 0x57, 1, 0, 3, 0, 0xC0, 3, 0, 0, 64, 0, 0, 0, 7, 0, 0, 0, 0xB0, 7] ++ List.replicate 42 0 ++ [0xFF] ++
    List.replicate 63 0 ++ modulus0 ++
    beBytes 384 (0x677a4059b6df5610e089f4895313c5d97a918d6d44e21312c26b9c032640ee7cbf688a00 * 2 ^ 320 +
      0x52780f6161931a7f0a6f16cf81fd687dee50d955612e83a4d16f68cb1ebf8c30bc78aa2815b62f92) ++ List.replicate 64 0

/-- In BOOT, waiting for a push, with that container in hub staging. -/
def pushed : State :=
  let s := ((State.reset.setReg rSecBoot 8).setReg rSecPushLen 960).store stagingBase container0
  { s with sec := { s.sec with vendorHash := sha256 modulus0 } }


/-! ### States and operands that meet the hypotheses: `test_witness_X` for the statement X, clause by clause -/

theorem test_witness_StepRunsTheFrontCommand :
    (let s : State := { stopped0 with pending := [.token, .fence 1] }
     s.pending = Instr.token :: [.fence 1]) := by
  decide +kernel

theorem test_witness_StepIdlesOnEmptyQueue :
    (let s := stopped0
     s.pending = []) := by
  decide +kernel

theorem test_witness_NamedCommandsComplete :
    (Instr.token.wellFormed = true ∧ (Instr.ack 6 0).wellFormed = false) := by
  decide +kernel

theorem test_witness_BoundaryReleasesNextTick :
    (let s := running0
     s.dev = .running ∧ s.tick.awaitT0 = false ∧ 1001000 = s.tick.expect ∧ ¬(s.sys.waitEdge = true ∧
       s.sys.waitAt < 1001000)) := by
  decide +kernel

theorem test_witness_WaitingHoldAndStopTakeEffectAtBoundary :
    (let s := queued runWait [.cmd 3]
     s.dev = .running ∧ s.tick.awaitT0 = false ∧ 1001000 = s.tick.expect ∧ s.sys.waitEdge = true ∧
       s.sys.waitAt < 1001000 ∧ s.sys.queue = [.cmd 3]) ∧
    (let s := queued runWait [.cmd 2]
     s.dev = .running ∧ s.tick.awaitT0 = false ∧ 1001000 = s.tick.expect ∧ s.sys.waitEdge = true ∧
       s.sys.waitAt < 1001000 ∧ s.sys.queue = [.cmd 2]) ∧
    (let s := queued runWait [.cmd 3, .cmd 2]
     s.dev = .running ∧ s.tick.awaitT0 = false ∧ 1001000 = s.tick.expect ∧ s.sys.waitEdge = true ∧
       s.sys.waitAt < 1001000 ∧ s.sys.queue = [.cmd 3, .cmd 2]) := by
  decide +kernel

theorem test_witness_TickInEdgeCorrectsNextBoundary :
    (99 < 100) ∧
    (let s := tickIn
     let e := 1000 + s.tol - 1
     100 ≤ 100 ∧ s.dev = .running ∧ s.src = 1 ∧ s.tick.awaitT0 = false ∧ s.inLastWindow e ∧ s.tick.seenLast = false) ∧
    (let s : State := { tickIn with tick := { tickIn.tick with seenLast := true } }
     let e := 1000 - s.tol
     s.dev = .running ∧ s.src = 1 ∧ s.tick.awaitT0 = false ∧ s.inLastWindow e ∧ s.tick.seenLast = true) ∧
    (let s := tickIn
     let e := s.tick.expect - s.tol
     s.dev = .running ∧ s.src = 1 ∧ s.tick.awaitT0 = false ∧ ¬ s.inLastWindow e ∧ s.inNextWindow e ∧ s.tick.seen = false) := by
  decide +kernel

theorem test_witness_TickInEdgeCorrectsNextBoundary_2 :
    (let s : State := { tickIn with tick := { tickIn.tick with seen := true } }
     let e := s.tick.expect + s.tol - 1
     s.dev = .running ∧ s.src = 1 ∧ s.tick.awaitT0 = false ∧ ¬ s.inLastWindow e ∧ s.inNextWindow e ∧ s.tick.seen = true) ∧
    (let s := tickIn
     let e := s.tick.expect - s.tol - 1
     s.dev = .running ∧ s.src = 1 ∧ s.tick.awaitT0 = false ∧ ¬ s.inLastWindow e ∧ ¬ s.inNextWindow e) ∧
    (let s := tickIn
     let e := s.tick.expect + s.tol
     s.dev = .running ∧ s.src = 1 ∧ s.tick.awaitT0 = false ∧ ¬ s.inLastWindow e ∧ ¬ s.inNextWindow e) ∧
    (let s : State := { tickIn with tick := { tickIn.tick with atT0 := true } }
     s.dev = .running ∧ s.src = 1 ∧ s.tick.awaitT0 = false ∧ ¬ s.inLastWindow 1000 ∧ ¬ s.inNextWindow 1000) := by
  decide +kernel

/-- Running from TICK_IN, T_0 at 100000 awaited. -/
def awaiting (src : Word) : State :=
  let s := ((running0.setReg rTickCtrl src).setReg rTickPeriod 1000)
  { s with tick := { s.tick with live := false, awaitT0 := true, t0 := 100000 } }

theorem test_witness_TickInEdgeGivesT0 :
    (let s := awaiting 1
     100 ≤ 100 ∧ s.dev = .running ∧ s.src = 1 ∧ s.tick.awaitT0 = true ∧ s.tick.live = false ∧ s.tick.t0 ≤ 100000 ∧
       100000 < s.tick.t0 + 4 * s.period ∧ ¬(s.sys.waitEdge = true ∧ s.sys.waitAt < 100000)) ∧
    (let s : State := { awaiting 1 with sys := runWait.sys }
     let e := 100000 + 4 * s.period - 1
     s.dev = .running ∧ s.src = 1 ∧ s.tick.awaitT0 = true ∧ s.tick.live = false ∧ s.tick.t0 ≤ e ∧
       e < s.tick.t0 + 4 * s.period ∧ s.sys.waitEdge = true ∧ s.sys.waitAt < e) ∧
    (let s := awaiting 1
     s.tick.t0 + 4 * s.period ≤ 100000 + 4 * s.period) := by
  decide +kernel

theorem test_witness_SourceLossIsEntered :
    (let s : State := { tickIn with tick := { tickIn.tick with missed := 4 } }
     s.dev = .running ∧ s.src ≠ 0 ∧ s.tick.awaitT0 = false ∧ s.tick.lost = false ∧ 4 ≤ s.tick.missed) ∧
    (let s := awaiting 2
     let t := s.tick.t0 + 4 * s.period
     s.dev = .running ∧ s.src ≠ 0 ∧ s.tick.awaitT0 = true ∧ s.tick.live = false ∧ s.tick.corr = 0 ∧
       s.tick.t0 + 4 * s.period ≤ t ∧ ¬(s.sys.waitEdge = true ∧ s.sys.waitAt < t)) := by
  decide +kernel

/-- Running, after the release of the phases below `rel`, each complete. -/
def phasesDone (rel : Nat) : State :=
  { running0 with
    tick := { running0.tick with rel := rel }, world := { running0.world with begun := true }
    plan := { running0.plan with proposeOk := true, walked := true } }

theorem test_witness_PhaseIsReleased :
    (let s := running0
     s.dev = .running ∧ s.tick.live = true ∧ s.tick.stopped = false ∧ 0 < 6 ∧ s.tick.rel = 0 ∧
       s.tick.tk + s.phaseAt 0 ≤ 1000 ∧ s.overrunBy 0 (max 1000 s.now) = false) ∧
    (let s := { listed 2 [] with tick := { running0.tick with rel := 0 } }
     s.dev = .running ∧ s.tick.live = true ∧ s.tick.stopped = false ∧ s.tick.rel = 0 ∧ s.tick.tk + s.phaseAt 0 ≤ 1000 ∧ s.overrunBy 0 (max 1000 s.now) = false ∧
       Die.s0 ∈ s.dies ∧ 0 < (s.engCfg .s0).tasks.length ∧ ((s.engCfg .s0).task 0).phase = 0 ∧
       ((s.engCfg .s0).task 0).cls < 6 ∧ ((s.engCfg .s0).task 0).wait ≤ (s.die .s0).ovm.arrived 0) ∧
    (let s := phasesDone 3
     s.dev = .running ∧ s.tick.live = true ∧ s.tick.stopped = false ∧ 3 < 6 ∧ s.tick.rel = 3 ∧
       s.tick.tk + s.phaseAt 3 ≤ 301000 ∧ s.overrunBy 3 (max 301000 s.now) = false ∧ Die.s0 ∈ s.dies) ∧
    (let s := phasesDone 5
     s.dev = .running ∧ s.tick.live = true ∧ s.tick.stopped = false ∧ 5 < 6 ∧ s.tick.rel = 5 ∧
       s.tick.tk + s.phaseAt 5 ≤ 501000 ∧ s.overrunBy 5 (max 501000 s.now) = false) := by
  decide +kernel

theorem test_witness_WatchdogOverrunsIncompletePhase :
    (let s : State := { running0 with tick := { running0.tick with rel := 6 } }
     s.dev = .running ∧ s.tick.live = true ∧ s.tick.tk + s.phaseEnd 4 ≤ 501000 ∧ 4 < 5 ∧ s.tick.stopped = false ∧
       4 < s.tick.rel ∧ (s.advance 501000).phaseDone 4 = false) ∧
    (let s := running0
     s.dev = .running ∧ s.tick.live = true ∧ s.tick.tk + s.phaseEnd 0 ≤ 101000 ∧ 0 < 5 ∧ s.tick.rel ≤ 0) ∧
    (let s : State := { running0 with
       tick := { running0.tick with rel := 6 }, plan := { running0.plan with record := some [] }
       host := { running0.host with mask := 0, allOff := false } }
     s.dev = .running ∧ s.tick.live = true ∧ s.tick.tk + s.phaseEnd 5 ≤ 601000 ∧ s.plan.record.isSome = true ∧
       s.host.up = true ∧ s.host.allOff = false ∧ s.host.mask.getLsbD 1 = false ∧ s.host.pba.getLsbD 1 = false ∧
       s.tick.stopped = false ∧ 5 < s.tick.rel ∧ (s.advance 601000).phaseDone 5 = false) := by
  decide +kernel

theorem test_witness_RecordDeadlineOverruns :
    (let s := running0
     s.dev = .running ∧ s.tick.live = true ∧ s.tick.stopped = false ∧ s.plan.handed = false ∧
       s.deadline ≤ 1000000) := by
  decide +kernel

theorem test_witness_TimeupAbandonsTheRound :
    (let s : State := { running0 with tick := { running0.tick with rel := 4 } }
     s.dev = .running ∧ s.tick.live = true ∧ s.tick.stopped = false ∧ s.tick.rel = 4 ∧
       s.commonRounds < (s.img fun x => x.refine.rounds) ∧
       s.tick.tk + (s.img fun x => x.refine.timeupUs) * 1000 ≤ 301000 ∧ Die.s0 ∈ s.dies ∧
       ∀ d ∈ s.dies, (s.die d).rounds ≤ s.commonRounds) := by
  decide +kernel

/-- Running in REFINE, an expansion of round 0 on the Heap engine of S0. -/
def expanding : State :=
  { holding 3 0 0 with
    image := some { image0 with engines0 := eng0 [task0 3 3] }, tick := { running0.tick with rel := 4 } }

/-- The same where the Heap descriptors are read as expansions (log entry 2). -/
theorem test_witness_TimeupAbandonsTheRound_task (h : Config.parseHeapDesc (expanding.load gal 64) = some ⟨1, 0, []⟩) :
    let s := expanding
    s.dev = .running ∧ s.tick.live = true ∧ s.tick.stopped = false ∧ s.tick.rel = 4 ∧ Die.s0 ∈ s.dies ∧
      0 ∈ (s.tasksOfRounds .s0 fun r => decide (s.commonRounds ≤ if r.2 then r.1 + 1 else r.1)) ∧ 0 ∉ (s.die .s0).ovm.done := by
  refine ⟨by decide +kernel, by decide +kernel, by decide +kernel, by decide +kernel, by decide +kernel, ?_,
    by decide +kernel⟩
  have hr : expanding.roundOf .s0 0 = some (0, false) := by
    unfold State.roundOf
    rw [if_neg (by decide +kernel), if_pos (by decide +kernel), show ((expanding.engCfg .s0).task 0).desc = gal from rfl, h]
    rfl
  have hs : (expanding.tasksOfRounds .s0 fun r => decide (expanding.commonRounds ≤ if r.2 then r.1 + 1 else r.1)) =
      (expanding.engCfg .s0).roundTasks 1 (if ((expanding.roundOf .s0 0).any fun r =>
        decide (expanding.commonRounds ≤ if r.2 then r.1 + 1 else r.1)) then [0] else []) := by
    show (expanding.engCfg .s0).roundTasks 1 (List.filter _ [0]) = _
    cases h0 : expanding.roundOf .s0 0 <;> simp [h0, List.filter]
    split <;> simp_all
  show 0 ∈ (expanding.tasksOfRounds .s0 fun r => decide (expanding.commonRounds ≤ if r.2 then r.1 + 1 else r.1))
  have hc : expanding.commonRounds = 0 := by
    unfold State.commonRounds State.roundDies
    rw [show expanding.dies = [.s0, .s1] by decide +kernel]
    generalize (fun d => (expanding.tasksOfRounds d fun _ => true).any _) = p
    cases h0 : p .s0 <;> cases h1 : p .s1 <;> simp only [List.filter, h0, h1] <;> decide +kernel
  rw [hs, hr, hc]
  decide +kernel

theorem test_witness_CommandWritesEnterTheQueue :
    (let s := running0
     s.host.d3 = false ∧ 15 % 16 = 15 ∧ s.sys.queue.length < 8) ∧
    (let s := (queued running0 (List.replicate 8 (.cmd 2)))
     s.host.d3 = false ∧ 15 % 16 = 15 ∧ 8 ≤ s.sys.queue.length) := by
  decide +kernel

theorem test_witness_WrongStateIsRefusedWithoutEffect :
    (let s := queued running0 [.cmd 1]
     s.headIs (.cmd 1) ∧ s.headWait = false ∧ s.dev ≠ .stopped) ∧
    (let s := queued faulted0 [.cmd 2]
     s.headIs (.cmd 2) ∧ s.sys.waitEdge = false ∧ s.dev ≠ .running ∧ s.dev ≠ .hold ∧ s.dev ≠ .stopped) ∧
    (let s := queued faulted0 [.cmd 3]
     s.headIs (.cmd 3) ∧ s.sys.waitEdge = false ∧ s.dev ≠ .running ∧ s.dev ≠ .hold) ∧
    (let s := queued faulted0 [.cmd 4]
     s.headIs (.cmd 4) ∧ s.dev ≠ .hold) ∧
    (let s := queued faulted0 [.cmd 5]
     s.headIs (.cmd 5) ∧ s.sys.waitSave = false ∧ s.dev ≠ .hold) ∧
    (let s := queued faulted0 [.cmd 6]
     s.headIs (.cmd 6) ∧ s.sys.waitSave = false ∧ s.dev ≠ .hold ∧ s.dev ≠ .stopped) ∧
    (let s := queued running0 [.cmd 7]
     s.headIs (.cmd 7) ∧ s.sys.waitRec = false ∧ s.dev ≠ .faulted) ∧
    (let s := queued running0 [.cmd 8]
     s.headIs (.cmd 8) ∧ ¬(1 ≤ 8 ∧ 8 ≤ 7)) := by
  decide +kernel

theorem test_witness_StopAndHoldExecute :
    (let s := queued running0 [.cmd 2]
     s.sys.waitEdge = false ∧ s.headIs (.cmd 2) ∧ s.dev = .running) ∧
    (let s := queued hold0 [.cmd 2]
     s.sys.waitEdge = false ∧ s.headIs (.cmd 2) ∧ s.dev = .hold) ∧
    (let s := queued stopped0 [.cmd 2]
     s.sys.waitEdge = false ∧ s.headIs (.cmd 2) ∧ s.dev = .stopped) ∧
    (let s := queued running0 [.cmd 3]
     s.sys.waitEdge = false ∧ s.headIs (.cmd 3) ∧ s.dev = .running) ∧
    (let s := queued hold0 [.cmd 3]
     s.sys.waitEdge = false ∧ s.headIs (.cmd 3) ∧ s.dev = .hold) := by
  decide +kernel

theorem test_witness_StartBeginsRunning :
    (let s := queued t0set [.cmd 1]
     s.headIs (.cmd 1) ∧ s.headWait = false ∧ s.dev = .stopped ∧ s.soundAt (runRegs ++ sessionRegs) = true ∧
       s.runCheck (s.pair rTickTimeSetLo rTickTimeSetHi) = 0) := by
  decide +kernel

theorem test_witness_ResumeContinuesTheCount :
    (let s := queued t0hold [.cmd 4]
     s.headIs (.cmd 4) ∧ s.dev = .hold ∧ s.soundAt runRegs = true ∧ (s.advance 5).runCheck (s.advance 5).now = 0) := by
  decide +kernel

theorem test_witness_InjectionMissedIsCaught :
    (let s := queued t0set [.cmd 1]
     1 ≠ 0 ∧ s.sys.inReset = false ∧ s.headIs (.cmd 1) ∧ s.headWait = false ∧ s.dev = .stopped ∧
       s.soundAt (runRegs ++ sessionRegs) = true ∧
       s.runCheck (s.pair rTickTimeSetLo rTickTimeSetHi) = 0) ∧
    (let s := queued t0hold [.cmd 4]
     1 ≠ 0 ∧ s.sys.inReset = false ∧ s.headIs (.cmd 4) ∧ s.dev = .hold ∧ s.soundAt runRegs = true ∧
       (s.advance 5).runCheck (s.advance 5).now = 0) := by
  decide +kernel

theorem test_witness_StartAndResumeAreRefusedByReason :
    (let s := queued stopped0 [.cmd 1]
     5 ≠ 0 ∧ s.headIs (.cmd 1) ∧ s.headWait = false ∧ s.dev = .stopped ∧
       s.soundAt (runRegs ++ sessionRegs) = true ∧
       s.runCheck (s.pair rTickTimeSetLo rTickTimeSetHi) = 5) ∧
    (let s := queued hold0 [.cmd 4]
     5 ≠ 0 ∧ s.headIs (.cmd 4) ∧ s.dev = .hold ∧ s.soundAt runRegs = true ∧
       (s.advance 5).runCheck (s.advance 5).now = 5) := by
  decide +kernel

theorem test_witness_HaltStopsTheDevice :
    (let s := hold0
     1000 ≤ 1000 ∧ s.dev = .running ∨ s.dev = .hold) ∧
    (let s := running0
     (s.dev = .running ∨ s.dev = .hold) ∧ s.tick.live = true ∧ s.plan.record = none) ∧
    (let s := stopped0
     999 < 1000 ∧ s.dev ≠ .running ∧ s.dev ≠ .hold) := by
  decide +kernel

theorem test_witness_CommitTakesAllOrNothing :
    (let s := queued pend0 [.commit]
     s.headIs .commit ∧ s.soundAt (s.sh.map (·.off)) = true ∧
       (s.dev = .stopped ∨ (s.sh.any fun p => s.shChanges p) = false) ∧
       s.offered s.pendingProfile = true ∧ (List.map (fun x => x.off) s.sh).Nodup ∧
       rKlinkEvents ∉ List.map (fun x => x.off) s.sh ∧ { off := rGlbProfile, mask := 15, val := 1 } ∈ s.sh) ∧
    (let s := queued pend0 [.commit]
     s.headIs .commit ∧ s.soundAt (s.sh.map (·.off)) = true ∧
       (s.dev = .stopped ∨ (s.sh.any fun p => s.shChanges p) = false) ∧
       s.offered s.pendingProfile = true ∧ (List.map (fun x => x.off) s.sh).Nodup ∧
       rKlinkEvents ∉ List.map (fun x => x.off) s.sh ∧ 0 ∉ List.map (fun x => x.off) s.sh ∧ 0 ≠ rKlinkEvents) ∧
    (let s := queued { pend0 with dev := .running } [.commit]
     s.headIs .commit ∧ s.soundAt (s.sh.map (·.off)) = true ∧
       s.dev ≠ .stopped ∧ (s.sh.any fun p => s.shChanges p) = true) ∧
    (let s := queued { pend0 with sh := [⟨rGlbProfile, 0xF, 7⟩] } [.commit]
     s.headIs .commit ∧ s.soundAt (s.sh.map (·.off)) = true ∧
       s.dev = .stopped ∧ s.offered s.pendingProfile = false) := by
  decide +kernel

theorem test_witness_DiscardDropsPendingValues :
    (let s := pend0
     s.host.d3 = false) := by
  decide +kernel

theorem test_witness_SaveWritesTheCarryOverState :
    (let s := queued hold0 [.cmd 5]
     s.headIs (.cmd 5) ∧ s.soundAt saveRegs = true ∧ s.sys.waitSave = false ∧ s.dev = .hold ∧
       s.stalled [(s.pair rTallySaveBaseLo rTallySaveBaseHi, s.saveLen)] = [] ∧
       s.saveRegionOk (s.pair rTallySaveBaseLo rTallySaveBaseHi) s.saveLen = true) ∧
    (let s := (queued hold0 [.cmd 5]).setReg rTallySaveBaseHi 0xFFFF
     s.headIs (.cmd 5) ∧ s.soundAt saveRegs = true ∧ s.sys.waitSave = false ∧ s.dev = .hold ∧
       s.stalled [(s.pair rTallySaveBaseLo rTallySaveBaseHi, s.saveLen)] = [] ∧
       s.saveRegionOk (s.pair rTallySaveBaseLo rTallySaveBaseHi) s.saveLen = false) ∧
    (let s := (queued hold0 [.cmd 5]).setReg (rDmcInitFront .s0) 0
     s.headIs (.cmd 5) ∧ s.soundAt saveRegs = true ∧ s.sys.waitSave = false ∧ s.dev = .hold ∧
       s.stalled [(s.pair rTallySaveBaseLo rTallySaveBaseHi, s.saveLen)] ≠ []) ∧
    (let s := queued saving0 [.cmd 5]
     s.headIs (.cmd 5) ∧ s.soundAt saveRegs = true ∧ s.sys.waitSave = true) := by
  decide +kernel

theorem test_witness_RestoreLoadsOnlyACheckedState :
    (let s := queued hold0 [.cmd 6]
     s.headIs (.cmd 6) ∧ s.soundAt saveRegs = true ∧ s.sys.waitSave = false ∧ (s.dev = .hold ∨ s.dev = .stopped)) ∧
    (let s := (queued saving0 [.cmd 6]).setReg (rDmcInitFront .s0) 0
     s.headIs (.cmd 6) ∧ s.soundAt saveRegs = true ∧ s.sys.waitSave = true ∧ s.stalled s.restoreSpans ≠ []) ∧
    (let s := queued (savedIn saving0) [.cmd 6]
     s.headIs (.cmd 6) ∧ s.soundAt saveRegs = true ∧ s.sys.waitSave = true ∧ s.stalled s.restoreSpans = [] ∧ s.dev = .hold ∧
       s.restoreCheck s.sys.saveBase = 0 ∧ (∀ b, b < 2 → s.bankBase b + s.rstateLen ≤ 0x2000000) ∧ .s0 ∈ s.dies) ∧
    (let s := queued (savedIn { saving0 with dev := .stopped }) [.cmd 6]
     s.headIs (.cmd 6) ∧ s.soundAt saveRegs = true ∧ s.sys.waitSave = true ∧ s.stalled s.restoreSpans = [] ∧ s.dev = .stopped ∧
       s.restoreCheck s.sys.saveBase = 0) ∧
    (let s := queued saving0 [.cmd 6]
     s.headIs (.cmd 6) ∧ s.soundAt saveRegs = true ∧ s.sys.waitSave = true ∧ s.stalled s.restoreSpans = [] ∧ s.restoreCheck s.sys.saveBase ≠ 0) ∧
    (let s := queued (savedIn saving0) [.cmd 6]
     s.headIs (.cmd 6) ∧ s.soundAt saveRegs = true ∧ s.sys.waitSave = true ∧ s.stalled s.restoreSpans = [] ∧
       5 = (if s.restoreCheck s.sys.saveBase ≠ 6 ∧ true = true then 5 else s.restoreCheck s.sys.saveBase)) := by
  decide +kernel

/-- In the safe state, S0 powering up after it was forced off. -/
def waking0 : State :=
  { recovering0 with d0 := { recovering0.d0 with power := 1, forced := true } }

theorem test_witness_RecoverRunsTheSequence :
    (let s : State := { queued faulted0 [.cmd 7] with d0 := { dieOn with power := 0, forced := true } }
     s.dev = .faulted ∧ s.headIs (.cmd 7) ∧ s.sys.waitRec = false ∧ s.dep.present = [] ∧ (s.die .s0).forced = true) ∧
    (let s := queued { faulted0 with dep := { faulted0.dep with present := [2] } } [.cmd 7]
     s.dev = .faulted ∧ s.headIs (.cmd 7) ∧ s.sys.waitRec = false ∧ s.dep.present ≠ []) ∧
    (let s : State := { recovering0 with bist := { recovering0.bist with run := none } }
     s.dev = .faulted ∧ s.headIs (.cmd 7) ∧ s.sys.waitRec = true ∧ BitVec.getLsbD (s.reg rTallyRecovery) 0 = true ∧
       s.bist.run = none) ∧
    (let s := waking0.setReg rDeputyTemp 720
     s.dev = .faulted ∧ s.headIs (.cmd 7) ∧ s.sys.waitRec = true ∧ BitVec.getLsbD (s.reg rTallyRecovery) 0 = true ∧
       s.bist.run = some (s.bist.run.getD default) ∧ (s.bist.run.getD default).by_ = 2 ∧ (s.die .s0).power = 1 ∧
       720 ≤ s.temp .s0) ∧
    (let s := waking0.setReg rDeputyTemp 719
     s.dev = .faulted ∧ s.headIs (.cmd 7) ∧ s.sys.waitRec = true ∧ BitVec.getLsbD (s.reg rTallyRecovery) 0 = true ∧
       s.bist.run = some (s.bist.run.getD default) ∧ (s.bist.run.getD default).by_ = 2 ∧ (s.die .s0).power = 1 ∧
       s.temp .s0 < 720 ∧ (s.die .s1).power ≠ 1) ∧
    (let s := recovering0
     ((s.advance 5).afterSelfTest ⟨7, 3, 2⟩ 0 []).recoverable = true) ∧
    (let s := recovering0
     ((s.advance 5).afterSelfTest ⟨7, 3, 2⟩ 1 [⟨1, 5, 0, false⟩]).recoverable = false) := by
  decide +kernel

theorem test_witness_DeviceResetReturnsToBoot :
    (keptByReset 0 = false ∧ 0 ≠ rGlbProfile) := by
  decide +kernel

theorem test_witness_PowerOnResetReturnsToBoot :
    (0 ≠ rGlbProfile) := by
  decide +kernel

/-- At power-on, the power-on reset released. -/
def released : State := { State.reset with sys := { Sys.reset with porHeld := false } }

theorem test_witness_ResetReleaseBeginsStartUp :
    (let s := State.reset
     s.sys.inReset = false ∨ s.sys.porHeld = true) ∧
    (let s := released
     s.sys.inReset = true ∧ s.sys.porHeld = false ∧ 1 % 4 ≠ 0) ∧
    (let s := released
     s.sys.inReset = true ∧ s.sys.porHeld = false ∧ 0 % 4 = 0 ∧ (2 = 1 ∨ 2 = 2)) := by
  decide +kernel

theorem test_witness_PowerOnResetIsHeld :
    (let s : State := { State.reset with power := { State.reset.power with rails := 0xFFF, clocks := 9 } }
     s.sys.porHeld = true ∧ 12 < 13 ∧ s.monitored 12 = true ∧
       (∀ k, k < 13 → k ≠ 12 → s.monitored k = true → s.power.rails.testBit k = true) ∧
       s.power.clocks.testBit 0 = true ∧ s.power.clocks.testBit 3 = true) ∧
    (let s : State := { State.reset with power := { State.reset.power with rails := 0x1FFE, clocks := 1 } }
     s.sys.porHeld = true ∧ 0 < 13 ∧ s.monitored 0 = true ∧ s.power.clocks.testBit 3 = false) ∧
    (let s : State := { State.reset with power := { State.reset.power with rails := 0x1FFF } }
     s.sys.porHeld = true ∧ s.sys.inReset = true ∧ (10000 : Int).natAbs ≤ 10000 ∧
       ∀ k, k < 13 → s.monitored k = true → s.power.rails.testBit k = true) ∧
    (let s : State := { State.reset with power := { State.reset.power with rails := 0xFFF } }
     s.sys.porHeld = true ∧ s.sys.inReset = true ∧ 12 < 13 ∧ s.monitored 12 = true ∧ s.power.rails.testBit 12 = false ∧
       10000 < (10001 : Int).natAbs ∧ 10000 < (-10001 : Int).natAbs) := by
  decide +kernel

theorem test_witness_BootEndsInReady :
    (let s : State :=
         { State.reset with d0 := { DieState.reset with power := 1, isolated := true }, sys := { Sys.reset with inReset := false }, regs := [(rBistStatus, 2)] }
     s.bootReady = true ∧ (s.die .s0).power = 1 ∧ (s.die .s0).isolated = true ∧ winBaseOf .s0 ≤ winBaseOf .s0 + 0x3FFFFFF) ∧
    (let s : State :=
         { State.reset with d0 := { DieState.reset with power := 1 }, sys := { Sys.reset with inReset := false }, regs := [(rBistStatus, 2)] }
     s.bootReady = true ∧ (s.die .s1).power ≠ 1 ∧ (s.die .s0).isolated = false) := by
  decide +kernel

theorem test_witness_PendingVectorsAreSent :
    (let s : State := { stopped0 with host := { HostPort.reset with pba := 0x8000000000000001, mask := 1, allOff := false } }
     linkLegal 1 1 = true ∧ linkLegal 4 4 = true ∧ s.sys.inReset = false ∧ s.host.allOff = false ∧ 63 < 64 ∧ s.host.pba.getLsbD 63 = true ∧
       s.host.mask.getLsbD 63 = false) ∧
    (let s : State := { stopped0 with host := { HostPort.reset with allOff := true } }
     linkLegal 3 2 = true ∧ s.sys.inReset = false ∧ s.host.allOff = true) ∧
    (linkLegal 4 4 = true ∧ State.reset.sys.inReset = true) ∧
    (let s : State := { stopped0 with host := { stopped0.host with d3 := true } }
     (⟨63, 0, 0, false, false⟩ : VectorWrite).v < 64 ∧ s.host.d3 = true) ∧
    (let s : State := { running0 with host := { running0.host with pba := 1 } }
     let w : VectorWrite := ⟨0, 64, 7, false, false⟩
     w.v < 64 ∧ s.host.d3 = false ∧ s.host.up = true ∧ w.allOff = false ∧ 63 < 64 ∧ 63 ≠ w.v ∧
       s.host.pba.getLsbD 0 = true ∧ w.masked = false) ∧
    (let s : State := { running0 with host := HostPort.reset }
     (⟨63, 0, 0, true, false⟩ : VectorWrite).v < 64 ∧ s.host.d3 = false ∧ s.host.up = false) := by
  decide +kernel

theorem test_witness_LinkLossEndsHostChains :
    (let s := withChan running0 139 { busy (chainAt .reading dPvIn) with sending := some (⟨1, []⟩, 0) }
     s.host.up = true ∧ 139 < 140 ∧ (s.chan 139).sending.isSome = true ∧ (s.chan 139).chain.isSome = true) ∧
    (let s := arrived (withChan running0 127 (busy (chainAt .reading dIn))) 127 [(2000, 7, egoItem)] []
     s.host.up = true ∧ 127 < 128 ∧ (s.chan 127).chain.isSome = true) ∧
    (let s : State := { running0 with host := HostPort.reset }
     s.host.up = false) := by
  decide +kernel

theorem test_witness_D3hotIsEnteredInStopped :
    (let s := stopped0
     s.dev = .stopped ∧ (s.die .s0).power = 2 ∧ s.host.d3 = false) ∧
    (let s := running0
     s.dev ≠ .stopped) ∧
    (let s : State := { stopped0 with host := { stopped0.host with d3 := true } }
     s.host.d3 = true ∧ (s.die .s0).power = 2) := by
  decide +kernel

theorem test_witness_FunctionLevelResetByState :
    (let s := running0
     s.dev = .running ∧ s.sys.inReset = false ∧ s.loading = none ∧ 139 < 140 ∧ inHostBlocks rHostLink = true ∧ rHostLink ≠ rHostEvents) ∧
    (let s := hold0
     s.dev = .hold ∧ s.sys.inReset = false ∧ s.loading = none) ∧
    (let s : State := { stopped0 with loading := some ⟨0, 64, 6, [], 0, none⟩, host := { stopped0.host with d3 := true } }
     s.dev ≠ .running ∧ s.dev ≠ .hold ∧ s.sys.inReset = false ∧ s.host.d3 = true ∧ (s.die .s0).power = 2) := by
  decide +kernel

theorem test_witness_S1IsIsolated :
    (let s : State := { stopped0 with d1 := { dieOn with power := 3 } }
     s.d1.power = 3 ∧ s.dieBusy .s1 = false ∧ s.nothingWaits) ∧
    (let s : State := { stopped0 with d1 := { dieOn with power := 3 }
                                      kl := { stopped0.kl with ops := [⟨0, .mover .s1, 0⟩] } }
     s.d1.power = 3 ∧ s.dieBusy .s1 = true ∧ 99999 < 100000 ∧ 100000 ≤ 100000) ∧
    (let s : State := { stopped0 with d1 := { dieOn with power := 3 }, world := { stopped0.world with syncing := true } }
     s.d1.power = 3 ∧ s.dieBusy .s1 = true ∧ 100000 ≤ 100000 ∧ s.world.syncing = true) := by
  decide +kernel

theorem test_witness_S1PowersUpAndClocksSwitch :
    (let s : State :=
         { stopped0 with image := none, sys := { stopped0.sys with s1Rising := true, s1Change := true }, d1 := { DieState.reset with power := 1 } }
     s.d1.power = 1 ∧ s.sys.s1Rising = true ∧ s.image = none ∧ (∀ l ∈ s.loading, l.step = 6 → l.kept = none) ∧
       0x400100000000 ≤ 0x400103FFFFFF ∧ 0x800000000 ≤ 0xFFFFFFFFF) ∧
    (let s : State :=
         { stopped0 with sys := { stopped0.sys with s1Rising := true, s1Change := true }, d1 := { DieState.reset with power := 1 } }
     s.d1.power = 1 ∧ s.sys.s1Rising = true ∧ s.image ≠ none) ∧
    (let s : State := { stopped0 with sys := { stopped0.sys with switch0 := true, switch1 := true } }
     s.sys.switch0 = true ∧ s.sys.switch1 = true) := by
  decide +kernel

theorem test_witness_VerdictIsIssued :
    (let s := checkingBad
     let v := (s.advance 450000).count rDeputySramCe 3
     s.dep.check = some ((s.dep.check.getD default).1, 900) ∧
       (v.checkRecord (s.dep.check.getD default).1).reason ≠ 0 ∧ ¬(s.dev = .running ∧
       s.nInv ≤ min 15 (s.dep.invRun + 1)) ∧ s.dev ≠ .faulted ∧ s.sys.inReset = false) ∧
    (let s : State := { checkingBad with dep := { checkingBad.dep with invRun := 1 } }
     let v := (s.advance 2000).count rDeputySramCe 0
     s.dep.check = some (running0.encodeRecord (invalidBody running0 3), 900) ∧
       (v.checkRecord (running0.encodeRecord (invalidBody running0 3))).reason ≠ 0 ∧ s.sys.inReset = false ∧ s.dev = .running ∧
       s.nInv ≤ min 15 (s.dep.invRun + 1)) ∧
    (let s := checking0
     let v := (s.advance 450000).count rDeputySramCe 0
     s.dep.check = some ((s.dep.check.getD default).1, 900) ∧
       (v.checkRecord (s.dep.check.getD default).1).reason = 0) ∧
    (let s : State := { faulted0 with dep := { faulted0.dep with check := some ([], 900) } }
     s.dep.check = some ([], 900) ∧ s.dev = .faulted) ∧
    (let s := running0
     s.dep.check = none) := by
  decide +kernel

theorem test_witness_CausesEnterTheSafeState :
    (let s := running0
     s.dev ≠ .faulted ∧ s.sys.inReset = false ∧ 10000 < (-10001 : Int).natAbs ∧ (759 < 760 ∨ 840 < 759) ∧
       (841 < 760 ∨ 840 < 841) ∧ s.anyHot 125 756 0 0 = true ∧ s.anyHot 125 0 756 0 = true ∧ s.dieBusy .s0 = false ∧
       s.dieBusy .s1 = false ∧ s.kl.stalled = [] ∧ s.host.reads = [] ∧ s.d0.power ≠ 0 ∧ s.d1.power ≠ 0 ∧
       s.dev = .running ∧ s.period + 1000000 < 500 * ((0 : Int) - s.period).natAbs ∧ s.tick.live = true ∧
       s.tick.tk + 2 * s.period ≤ s.tick.tk + 2 * s.period ∧ 0 < sliceUnits 0 ∧ (s.die .s0).inService 0 0 = true ∧
       s.host.d3 = false ∧ s.accessCode rDeputyCtrl = 0 ∧ s.paritySite rTickPeriod 1 false = true ∧
       (∀ b ∈ s.badRegs, b.off ≠ rTickPeriod) ∧ spiCrcOk 0x11 7 0x6C3D (frameCrc 0x11 7 0x6C3D) = true) ∧
    (let s := running0
     s.dev ≠ .faulted ∧ s.sys.inReset = false ∧ 0 < 5 ∧ 0 < sliceUnits 0 ∧ (s.die .s0).inService 0 0 = true ∧
       1000000000 ≤ (s.advance 1000000500).testAge .s0 0 0) := by
  decide +kernel

theorem test_witness_CausesEnterTheSafeState_2 :
    (let s : State := { running0 with kl := { running0.kl with ops := [⟨0, .mover .s0, 0⟩, ⟨1, .mover .s1, 0⟩] } }
     s.dev ≠ .faulted ∧ s.sys.inReset = false ∧ s.anyHot 125 756 0 0 = true ∧ s.dieBusy .s0 = true ∧ s.anyHot 125 755 756 0 = true ∧
       s.dieBusy .s1 = true ∧ 755 < 756) ∧
    (let s : State := { running0 with badRegs := [⟨rTickPeriod, 1, false, false⟩] }
     s.dev ≠ .faulted ∧ s.sys.inReset = false ∧ s.host.d3 = false ∧ rTickPeriod < 0x1000000 ∧ rTickPeriod % 4 = 0 ∧ s.accessCode rTickPeriod = 0 ∧
       isHiWord (canonical rTickPeriod) = false ∧ canonical rTickPeriod ≠ rDeputyEvents ∧
       canonical rTickPeriod ≠ rRegifEvents ∧ (∃ b ∈ s.badRegs, b.off = canonical rTickPeriod) ∧
       ∀ b ∈ s.badRegs, b.off = canonical rTickPeriod → b.found = false) ∧
    (let s := checking0
     s.dev ≠ .faulted ∧ s.sys.inReset = false ∧ s.dep.check = some ((s.dep.check.getD default).1, 900) ∧ 900 + 60000 ≤ 60900) := by
  decide +kernel

theorem test_witness_FurtherCauseIsNotRecorded :
    (let s : State := { faulted0 with dep := { faulted0.dep with check := some ([], 900) } }
     s.dev = .faulted ∧ s.dep.check = some ([], 900) ∧ 900 + 60000 ≤ 60900 ∧ s.dep.cause ≤ 8) ∧
    (let s := faulted0
     s.dev = .faulted ∧ s.pair rDeputySafeTimeLo rDeputySafeTimeHi ≠ (s.advance 5).now) ∧
    (let s : State := { faulted0.setReg rDeputySafeTimeLo 500 with dep := { faulted0.dep with cause := 4 } }
     s.dev = .faulted ∧ s.pair rDeputySafeTimeLo rDeputySafeTimeHi = (s.advance 5).now ∧ s.sys.inReset = false ∧
       s.timeOn = true ∧ 1 < s.dep.cause) ∧
    (let s : State := { faulted0 with timeOn := false }
     s.dev = .faulted ∧ s.timeOn = false) := by
  decide +kernel

theorem test_witness_NoCauseIsTakenInReset :
    (let s := State.reset
     s.sys.inReset = true ∧ (759 < 760 ∨ 840 < 759) ∧ (841 < 760 ∨ 840 < 841)) := by
  decide +kernel

/-- A state in which the parity of one register is wrong and no check has found it. -/
def unsound (s : State) (o : Nat) : State := { s with badRegs := [⟨o, 1, false, false⟩] }

theorem test_witness_UsedRegistersAreChecked :
    (let s := unsound (queued t0set [.cmd 1]) (rReSeedSetHi .s0)
     s.sys.inReset = false ∧ s.sys.waitEdge = false ∧ s.headIs (.cmd 1) ∧ (∃ b ∈ s.badRegs, b.off = rReSeedSetHi .s0) ∧
       (∀ b ∈ s.badRegs, b.off = rReSeedSetHi .s0 → b.found = false) ∧ s.dev = .stopped ∧ s.headWait = false ∧
       rReSeedSetHi .s0 ∈ runRegs ++ sessionRegs) ∧
    (let s := unsound (queued t0hold [.cmd 4]) rTickPeriod
     s.sys.inReset = false ∧ s.sys.waitEdge = false ∧ s.headIs (.cmd 4) ∧ (∃ b ∈ s.badRegs, b.off = rTickPeriod) ∧
       (∀ b ∈ s.badRegs, b.off = rTickPeriod → b.found = false) ∧ s.dev = .hold ∧ rTickPeriod ∈ runRegs) ∧
    (let s := unsound (queued hold0 [.cmd 5]) rTallySaveBaseLo
     s.sys.inReset = false ∧ s.sys.waitEdge = false ∧ s.headIs (.cmd 5) ∧ (∃ b ∈ s.badRegs, b.off = rTallySaveBaseLo) ∧
       (∀ b ∈ s.badRegs, b.off = rTallySaveBaseLo → b.found = false) ∧ s.dev = .hold ∧ s.sys.waitSave = false ∧
       rTallySaveBaseLo ∈ saveRegs) ∧
    (let s := unsound (queued stopped0 [.cmd 6]) rTallySaveBaseHi
     s.sys.inReset = false ∧ s.sys.waitEdge = false ∧ s.headIs (.cmd 6) ∧ (∃ b ∈ s.badRegs, b.off = rTallySaveBaseHi) ∧
       (∀ b ∈ s.badRegs, b.off = rTallySaveBaseHi → b.found = false) ∧ (s.dev = .hold ∨ s.dev = .stopped) ∧
       s.sys.waitSave = false ∧ rTallySaveBaseHi ∈ saveRegs) := by
  decide +kernel

theorem test_witness_ThermPinHasHysteresis :
    (let s := stopped0
     s.anyHot 125 728 100 100 = false) := by
  decide +kernel

theorem test_witness_ReleaseNeedsKeyAndConditions :
    (let s : State := { stopped0 with dep := { stopped0.dep with safe := true } }
     let crc := frameCrc 0x10 7 0x6C3D
     spiCrcOk 16 7 0x6C3D crc = true ∧ s.releaseOk = true ∧ (s.sys.perstLow = false ∨ true = false)) ∧
    (let s : State := { stopped0 with dep := { stopped0.dep with safe := true }, sys := { stopped0.sys with perstLow := true } }
     let crc := frameCrc 0x10 7 0x6C3D
     spiCrcOk 16 7 0x6C3D crc = true ∧ s.releaseOk = true ∧ s.sys.perstLow = true) ∧
    (let s := faulted0
     let crc := frameCrc 0x10 7 0x6C3D
     spiCrcOk 16 7 0x6C3D crc = true ∧ s.releaseOk = false) ∧
    (let crc := frameCrc 0x10 7 1
     spiCrcOk 16 7 1 crc = true ∧ 1 ≠ 0x6C3D) ∧
    (let crc := frameCrc 0x10 7 1 ^^^ 1
     spiCrcOk 16 7 1 crc = false) := by
  decide +kernel

theorem test_witness_SpiFramesAnswer :
    (let crc := frameCrc 1 7 0
     spiCrcOk 1 7 0 crc = true) ∧
    (let crc := frameCrc 2 7 0
     spiCrcOk 2 7 0 crc = true) ∧
    (let s := stopped0
     let crc := frameCrc 3 7 0
     spiCrcOk 3 7 0 crc = true ∧ List.find? (fun v => fieldU v 0 2 == (0 : BitVec 16).toNat) s.dep.verdicts = none) ∧
    (let s : State := { stopped0 with dep := { stopped0.dep with verdicts := [List.replicate 32 0] } }
     let crc := frameCrc 3 7 0
     spiCrcOk 3 7 0 crc = true ∧ List.find? (fun v => fieldU v 0 2 == (0 : BitVec 16).toNat) s.dep.verdicts = some
       (List.replicate 32 0)) ∧
    (let crc := frameCrc 0x20 7 0x1234
     spiCrcOk 32 7 4660 crc = true) := by
  decide +kernel

theorem test_witness_UnknownSpiFrameIsRefused :
    (let crc := frameCrc 4 7 0
     4 ∉ spiCommands ∧ spiCrcOk 4 7 0 crc = true) := by
  decide +kernel

theorem test_witness_MarkMovesTheBoundary :
    (let s : State := { markIn with tick := { markIn.tick with awaitT0 := true, t0 := 2000 } }
     0 < 6 ∧ s.dev = .running ∧ s.src = 2 ∧ s.portOpen 0 = true ∧ s.tick.awaitT0 = true ∧ 1000 + 999 < s.tick.t0) ∧
    (let s : State := { markIn with tick := { markIn.tick with awaitT0 := true, t0 := 2000 } }
     5 < 6 ∧ s.dev = .running ∧ s.src = 2 ∧ s.portOpen 5 = true ∧ 6 % 65536 = s.tick.next % 65536 ∧
       s.tick.awaitT0 = true ∧ s.tick.t0 + 4 * s.period ≤ 2000 + 4 * s.period) ∧
    (let s := markIn
     0 < 6 ∧ s.dev = .running ∧ s.src = 2 ∧ s.portOpen 0 = true ∧ 7 % 65536 ≠ s.tick.next % 65536 ∧
       s.tick.awaitT0 = false) ∧
    (let s : State := { markIn with tick := { markIn.tick with awaitT0 := true, t0 := 2000 } }
     s.dev = .running ∧ s.src = 2 ∧ s.portOpen 0 = true ∧ 7 % 65536 ≠ s.tick.next % 65536 ∧ s.tick.awaitT0 = true ∧
       s.tick.t0 ≤ 1000 + 1000) ∧
    (let s : State := { markIn with tick := { markIn.tick with awaitT0 := true, t0 := 2000 } }
     5 < 6 ∧ s.dev = .running ∧ s.src = 2 ∧ s.portOpen 5 = true ∧ 6 % 65536 = s.tick.next % 65536 ∧
       s.tick.awaitT0 = true ∧ s.tick.t0 ≤ 1000 + 1000 ∧ 1000 + 1000 < s.tick.t0 + 4 * s.period) ∧
    (let s := markIn
     5 < 6 ∧ s.dev = .running ∧ s.src = 2 ∧ s.portOpen 5 = true ∧ 6 % 65536 = s.tick.next % 65536 ∧
       s.tick.awaitT0 = false ∧ s.tick.expect ≤ 998000 + 1000 + s.tol ∧ 998000 + 1000 < s.tick.expect + s.tol) ∧
    (let s := markIn
     5 < 6 ∧ s.dev = .running ∧ s.src = 2 ∧ s.portOpen 5 = true ∧ 6 % 65536 = s.tick.next % 65536 ∧
       s.tick.awaitT0 = false ∧ (5000 + 0 + s.tol < s.tick.expect ∨ s.tick.expect + s.tol ≤ 5000 + 0)) := by
  decide +kernel

theorem test_witness_MasterSendsMarkers :
    (let s := marker0
     s.dev = .running ∧ (s.image.bind fun x => x.links) = some treeNode ∧ s.isMaster = true ∧
       bit (s.reg rTickCtrl) 5 = true ∧ s.src < 2 ∧ s.tick.awaitT0 = false ∧
       991000 + treeNode.leadUs * 1000 = s.tick.expect) := by
  decide +kernel

theorem test_witness_ItemsAreJudged_1 :
    (let s := arrived running0 0 [(2000, 7, egoItem)] []
     let rest : List (Nat × Nat × List Byte) := []
     0 < 128 ∧ (s.dev = .running ∨ s.dev = .hold) ∧
       (s.world.streams.getD 0 Stream.idle).inbox = (2000, 7, egoItem) :: rest ∧
       s.world.isNext 0 2000 egoItem = true ∧
       (s.world.streams.getD 0 Stream.idle).held = [] ∧
       s.checkItem 0 2000 (decodeHead egoItem) = ItemVerdict.take true ∧
       s.itemNeeds (decodeHead egoItem) ≤ s.stageFree ∧ (decodeHead egoItem).type ≠ 7) ∧
    (let s := arrived running0 0 [(2000, 7, urgentItem), (2000, 7, egoItem)] []
     s.dev = .running ∧
       (s.world.streams.getD 0 Stream.idle).inbox = (2000, 7, urgentItem) :: [(2000, 7, egoItem)] ∧
       s.world.isNext 0 2000 urgentItem = true ∧
       (s.world.streams.getD 0 Stream.idle).held = [] ∧
       s.checkItem 0 2000 (decodeHead urgentItem) = ItemVerdict.take true ∧
       s.itemNeeds (decodeHead urgentItem) ≤ s.stageFree ∧ (decodeHead urgentItem).type = 7) := by
  decide +kernel

theorem test_witness_ItemsAreJudged_2 :
    (let s := arrived { running0 with image := some { image0 with world := { image0.world with stageBytes := 64 } } }
         0 [(2000, 7, egoItem)] []
     s.dev = .running ∧ (s.world.streams.getD 0 Stream.idle).inbox = [(2000, 7, egoItem)] ∧
       s.world.isNext 0 2000 egoItem = true ∧
       (s.world.streams.getD 0 Stream.idle).held = [] ∧
       s.checkItem 0 2000 (decodeHead egoItem) = ItemVerdict.take true ∧
       s.stageFree < s.itemNeeds (decodeHead egoItem)) ∧
    (let s := arrived hold0 0 [(2000, 7, egoItem)] []
     (s.dev = .running ∨ s.dev = .hold) ∧ (s.world.streams.getD 0 Stream.idle).inbox = [(2000, 7, egoItem)] ∧
       s.world.isNext 0 2000 egoItem = true ∧
       (s.world.streams.getD 0 Stream.idle).held = [] ∧ s.checkItem 0 2000 (decodeHead egoItem) = ItemVerdict.wait) := by
  decide +kernel

theorem test_witness_ItemsAreJudged_3 :
    (let s := arrived running0 127 [(2000, 7, egoItem)] []
     127 < 128 ∧ s.dev = .running ∧ (s.world.streams.getD 127 Stream.idle).inbox = [(2000, 7, egoItem)] ∧
       s.world.isNext 127 2000 egoItem = true ∧
       (s.world.streams.getD 127 Stream.idle).held = [] ∧
       s.checkItem 127 2000 (decodeHead egoItem) = ItemVerdict.reject 7) ∧
    (let i9 := item 9 0 128 1500 1 0 0 0 []
     let s := arrived running0 0 [(2000, 7, i9)] []
     s.dev = .running ∧ (s.world.streams.getD 0 Stream.idle).inbox = [(2000, 7, i9)] ∧
       s.world.isNext 0 2000 i9 = true ∧
       (s.world.streams.getD 0 Stream.idle).held = [] ∧ s.checkItem 0 2000 (decodeHead i9) = ItemVerdict.reject 6 ∧
       s.streamCfg 0 ≠ none ∧ fieldU i9 0 1 ∉ [1, 2, 3, 5, 6, 7]) := by
  decide +kernel

theorem test_witness_ItemsKeepTheirOrder :
    (let s := arrived hold0 127 [(2000, 7, egoItem)] [(1000, 7, egoItem)]
     127 < 128 ∧ (s.dev = .running ∨ s.dev = .hold) ∧
       (s.world.streams.getD 127 Stream.idle).inbox = (2000, 7, egoItem) :: [] ∧
       s.world.isNext 127 2000 egoItem = true ∧
       (s.world.streams.getD 127 Stream.idle).held ≠ []) ∧
    (let s := arrived stopped0 0 [(2000, 7, egoItem)] []
     s.dev ≠ .running ∧ s.dev ≠ .hold) ∧
    (let s := arrived running0 0 [(2000, 7, egoItem)] []
     s.world.isNext 0 2001 egoItem = false) ∧
    (let s := arrived (arrived running0 0 [(2000, 7, egoItem)] []) 1 [(2000, 7, egoItem)] []
     s.world.isNext 0 2000 egoItem = true ∧ s.world.isNext 1 2000 egoItem = false) := by
  decide +kernel

theorem test_witness_CommitAppliesTheItem_1 :
    (let s := world0 [staged 2000 128 (.ego default), staged 900000 128 (.ego default)]
     let later := [staged 900000 128 (.ego default)]
     let it := staged 2000 128 (.ego default)
     s.dev = .running ∧ s.tick.live = true ∧ s.world.begun = false ∧ s.world.busy = false ∧ (∀ d ∈ s.dies, (s.die d).power = 2) ∧
       s.tick.tk + s.cutC ≤ 41000 ∧ s.world.staged = it :: later ∧ it.arrival < s.tick.tk + s.cutC ∧
       (∀ q ∈ later, s.tick.tk + s.cutC ≤ q.arrival) ∧ (it.isTile = true → 1 ≤ s.img fun x => x.world.tileCap) ∧
       (it.isAgent = true → it.size - 64 ≤ s.img fun x => x.world.agentCapBytes) ∧
       s.stalled (s.spansOfCommit 41000 default (if it.isTile then [it] else [])) = [] ∧ it.matter = Matter.ego default ∧
       0 < 0x1000000000) ∧
    (let s := world0 [staged 2000 128 (.route [])]
     let later := ([] : List Staged)
     let it := staged 2000 128 (.route [])
     s.dev = .running ∧ s.tick.live = true ∧ s.world.begun = false ∧ s.world.busy = false ∧ (∀ d ∈ s.dies, (s.die d).power = 2) ∧
       s.tick.tk + s.cutC ≤ 41000 ∧ s.world.staged = it :: later ∧ it.arrival < s.tick.tk + s.cutC ∧
       (∀ q ∈ later, s.tick.tk + s.cutC ≤ q.arrival) ∧ (it.isTile = true → 1 ≤ s.img fun x => x.world.tileCap) ∧
       (it.isAgent = true → it.size - 64 ≤ s.img fun x => x.world.agentCapBytes) ∧
       s.stalled (s.spansOfCommit 41000 default (if it.isTile then [it] else [])) = [] ∧ it.matter = Matter.route [] ∧
       0 < 0x1000000000) ∧
    (let s := world0 [staged 2000 128 (.agent 3 [])]
     let later := ([] : List Staged)
     let it := staged 2000 128 (.agent 3 [])
     s.dev = .running ∧ s.tick.live = true ∧ s.world.begun = false ∧ s.world.busy = false ∧ (∀ d ∈ s.dies, (s.die d).power = 2) ∧
       s.tick.tk + s.cutC ≤ 41000 ∧ s.world.staged = it :: later ∧ it.arrival < s.tick.tk + s.cutC ∧
       (∀ q ∈ later, s.tick.tk + s.cutC ≤ q.arrival) ∧ (it.isTile = true → 1 ≤ s.img fun x => x.world.tileCap) ∧
       (it.isAgent = true → it.size - 64 ≤ s.img fun x => x.world.agentCapBytes) ∧
       s.stalled (s.spansOfCommit 41000 default (if it.isTile then [it] else [])) = [] ∧ it.matter = Matter.agent 3 [] ∧
       0 < 0x1000000000) := by
  decide +kernel

theorem test_witness_CommitAppliesTheItem_2 :
    (let s := world0 [staged 2000 64 (.dir 3 1 1 true)]
     let later := ([] : List Staged)
     let it := staged 2000 64 (.dir 3 1 1 true)
     s.dev = .running ∧ s.tick.live = true ∧ s.world.begun = false ∧ s.world.busy = false ∧ (∀ d ∈ s.dies, (s.die d).power = 2) ∧
       s.tick.tk + s.cutC ≤ 41000 ∧ s.world.staged = it :: later ∧ it.arrival < s.tick.tk + s.cutC ∧
       (∀ q ∈ later, s.tick.tk + s.cutC ≤ q.arrival) ∧ (it.isTile = true → 1 ≤ s.img fun x => x.world.tileCap) ∧
       (it.isAgent = true → it.size - 64 ≤ s.img fun x => x.world.agentCapBytes) ∧
       s.stalled (s.spansOfCommit 41000 default (if it.isTile then [it] else [])) = [] ∧ it.matter = Matter.dir 3 1 1 true ∧
       s.dirIndex 1 1 = some ((s.dirIndex 1 1).getD default) ∧
       s.dirBase + 8 * (s.dirIndex 1 1).getD default + 8 ≤ s.usable .s0 ∧ 0 < 8) ∧
    (let s := world0 [staged 2000 4160 (.tile 3 1 1 [1,2,3,4])]
     let later := ([] : List Staged)
     let it := staged 2000 4160 (.tile 3 1 1 [1,2,3,4])
     s.dev = .running ∧ s.tick.live = true ∧ s.world.begun = false ∧ s.world.busy = false ∧ (∀ d ∈ s.dies, (s.die d).power = 2) ∧
       s.tick.tk + s.cutC ≤ 41000 ∧ s.world.staged = it :: later ∧ it.arrival < s.tick.tk + s.cutC ∧
       (∀ q ∈ later, s.tick.tk + s.cutC ≤ q.arrival) ∧ (it.isTile = true → 1 ≤ s.img fun x => x.world.tileCap) ∧
       (it.isAgent = true → it.size - 64 ≤ s.img fun x => x.world.agentCapBytes) ∧
       s.stalled (s.spansOfCommit 41000 default (if it.isTile then [it] else [])) = [] ∧
       it.matter = Matter.tile 3 1 1 [1, 2, 3, 4] ∧ s.dirIndex 1 1 = some ((s.dirIndex 1 1).getD default) ∧
       s.dirBase + 8 * (s.dirIndex 1 1).getD default + 8 ≤ s.usable .s0 ∧ 0 < 8) := by
  decide +kernel

theorem test_witness_CommitAppliesTheItem_3 :
    (let s := (world0 [staged 2000 4160 (.tile 3 1 1 [1,2,3,4])]).setReg (rDmcInitFront .s0) 0
     let it := staged 2000 4160 (.tile 3 1 1 [1,2,3,4])
     s.world.staged = [it] ∧ (∀ d ∈ s.dies, (s.die d).power = 2) ∧ s.dev = .running ∧ s.tick.live = true ∧ s.world.begun = false ∧ s.world.busy = false ∧ s.tick.tk + s.cutC ≤ 41000 ∧
       2000 < s.tick.tk + s.cutC ∧ s.stalled (s.spansOfCommit 41000 default (if it.isTile then [it] else [])) ≠ []) ∧
    (let s := (world0 [staged 2000 4160 (.tile 3 1 1 [1,2,3,4])])
     .s0 ∈ s.dies ∧ s.storeBase + 4096 * 3 + 4 ≤ s.usable .s0 ∧
       ∀ e ∈ [Die.s0, Die.s1], dramBase .s0 + (s.storeBase + 4096 * 3) + 3 <
           dramBase e + (s.dirBase + 8 * (s.dirIndex 1 1).getD default) ∨
         dramBase e + (s.dirBase + 8 * (s.dirIndex 1 1).getD default) + 8 ≤
           dramBase .s0 + (s.storeBase + 4096 * 3) + 3) := by
  decide +kernel

theorem test_witness_CommitTakesTheDueItems :
    (let s := { world0 [staged 2000 128 (.ego default), staged 1500 4160 (.tile 3 1 1 [1,2,3,4]),
         staged 1600 4160 (.tile 2 1 0 [1]), staged 900000 128 (.ego default)] with
       image := some { image0 with world := { image0.world with tileCap := 1 } } }
     s.dev = .running ∧ s.tick.live = true ∧ s.world.begun = false ∧ s.world.busy = false ∧ s.tick.tk + s.cutC ≤ 41000 ∧
       (∀ d ∈ s.dies, (s.die d).power = 2) ∧ .s1 ∈ s.dies ∧
       s.stalled (s.spansOfCommit 41000 default [staged 1500 4160 (.tile 3 1 1 [1,2,3,4])]) = [] ∧
       selectStaged (s.img (·.world.tileCap)) (s.img (·.world.agentCapBytes)) s.dueItems 0 0 false false =
         ([staged 1500 4160 (.tile 3 1 1 [1,2,3,4]), staged 2000 128 (.ego default)],
          [staged 1600 4160 (.tile 2 1 0 [1])]) ∧
       [staged 1500 4160 (.tile 3 1 1 [1,2,3,4]), staged 2000 128 (.ego default)].filter Staged.isTile =
         [staged 1500 4160 (.tile 3 1 1 [1,2,3,4])]) := by
  decide +kernel

theorem test_witness_CommitEndAdvancesTheEpoch :
    (let s : State := { running0 with world := { running0.world with busy := true } }
     s.world.busy = true ∧ s.world.held = none ∧ 255 = if s.world.egoNew = true then 0 else if s.world.egoAge = 255 then 255 else min 254
       (s.world.egoAge + 1)) ∧
    (let s : State := { running0 with world := { running0.world with busy := true } }
     s.world.busy = true ∧ s.world.held = none ∧ (255 = if s.world.egoNew = true then 0 else if s.world.egoAge = 255 then 255 else min 254
       (s.world.egoAge + 1)) ∧ s.tick.live = true ∧ (s.img fun x => x.world.egoAgeLimit) ≤ 255) ∧
    (let s : State := { running0 with world := { running0.world with busy := true, egoAge := 3 } }
     s.world.busy = true ∧ s.world.held = none ∧ (4 = if s.world.egoNew = true then 0 else if s.world.egoAge = 255 then 255 else min 254
       (s.world.egoAge + 1)) ∧ (s.tick.live = false ∨ 4 < s.img fun x => x.world.egoAgeLimit)) ∧
    (let s : State := { running0 with world := { running0.world with busy := true, held := some ⟨[], default⟩ } }
     s.world.busy = true ∧ s.world.held ≠ none) := by
  decide +kernel

theorem test_witness_WorldIsCopiedToS1 :
    (let s := sync0
     s.host.d3 = false ∧ s.syncAllowed = true) ∧
    (let s := running0
     s.syncAllowed = false) ∧
    (let s : State := { sync0.setReg (rDmcInitFront .s1) 0 with world := { sync0.world with syncing := true } }
     s.world.syncing = true ∧
       s.stalled ((s.syncSpans (s.usable .s0)).flatMap fun p => [p, (dramBase .s1 + p.1, p.2)]) ≠ []) ∧
    (let s : State := { sync0 with world := { sync0.world with syncing := true } }
     s.world.syncing = true ∧
       s.stalled ((s.syncSpans (s.usable .s0)).flatMap fun p => [p, (dramBase .s1 + p.1, p.2)]) = [] ∧ (s.pair rWorldDirBaseLo rWorldDirBaseHi, 8 * (bits (s.reg rWorldDirExt) 15 0 * bits
       (s.reg rWorldDirExt) 31 16)) ∈ s.storeSpans ∧ (s.pair rWorldDirBaseLo rWorldDirBaseHi, 8 * (bits (s.reg
       rWorldDirExt) 15 0 * bits (s.reg rWorldDirExt) 31 16)).1 ≤ 4096 ∧ 4096 < (s.pair rWorldDirBaseLo
       rWorldDirBaseHi, 8 * (bits (s.reg rWorldDirExt) 15 0 * bits (s.reg rWorldDirExt) 31 16)).1 + (s.pair
       rWorldDirBaseLo rWorldDirBaseHi, 8 * (bits (s.reg rWorldDirExt) 15 0 * bits (s.reg rWorldDirExt) 31 16)).2 ∧
       4096 < min (s.usable .s0) (s.usable .s1) ∧ 4096 < 0x800000000) ∧
    (let s : State := { sync0 with world := { sync0.world with syncing := true } }
     s.world.syncing = true ∧ ∀ p ∈ s.storeSpans, 0 < 0x800000000 + p.1 ∨ 0x800000000 + p.1 + p.2 ≤ 0) := by
  decide +kernel

theorem test_witness_IdleEngineTakesATask :
    (let s := listed 2 [0]
     2 < 6 ∧ 0 < engineCount 2 ∧ s.tick.live = true ∧ s.tick.stopped = false ∧ (s.die .s0).power = 2 ∧
       s.dies.contains .s0 = true ∧ s.engineIdle .s0 2 0 = true ∧ (s.pickTask .s0 2 0).1 = some 0 ∧
       s.outranked .s0 2 0 0 = false ∧ s.heldBack .s0 2 0 = false ∧ s.allocYields .s0 0 = false ∧
       s.stalled (s.startSpans .s0 2 0) = [] ∧ 2 ≠ 4 ∧
       s.spanStatus ((s.engCfg .s0).task 0).desc 64 = 0 ∧ (s.withBuffer .s0 0).refsResolve .s0 2 0 = true) ∧
    (let s := (listed 2 [0]).store (gal + 0x10) (leBytes 8 (2 ^ 47))
     s.engineIdle .s0 2 0 = true ∧ (s.pickTask .s0 2 0).1 = some 0 ∧ s.outranked .s0 2 0 0 = false ∧
       s.heldBack .s0 2 0 = false ∧ s.allocYields .s0 0 = false ∧ s.stalled (s.startSpans .s0 2 0) = [] ∧
       s.spanStatus ((s.engCfg .s0).task 0).desc 64 = 0 ∧ (s.withBuffer .s0 0).refsResolve .s0 2 0 = false) ∧
    (let s : State := { listed 2 [0] with
       image := some { image0 with engines0 := eng0 [{ task0 2 0 with desc := 0x700000000000 }] } }
     s.engineIdle .s0 2 0 = true ∧ (s.pickTask .s0 2 0).1 = some 0 ∧ s.outranked .s0 2 0 0 = false ∧
       s.heldBack .s0 2 0 = false ∧ s.allocYields .s0 0 = false ∧ s.stalled (s.startSpans .s0 2 0) = [] ∧
       s.spanStatus ((s.engCfg .s0).task 0).desc 64 ≠ 0) ∧
    (let s := listed 5 [0]
     5 < 6 ∧ engineCount 5 - 1 < engineCount 5 ∧ s.tick.live = true ∧ s.tick.stopped = false ∧ (s.die .s0).power = 2 ∧
       s.dies.contains .s0 = true ∧
       s.engineIdle .s0 5 0 = true ∧ (s.pickTask .s0 5 0).1 = some 0 ∧ s.outranked .s0 5 0 0 = false ∧
       s.heldBack .s0 5 0 = false ∧ s.allocYields .s0 0 = false ∧ s.stalled (s.startSpans .s0 5 0) = []) := by
  decide +kernel

theorem test_witness_WaitingEntryEntersItsList :
    (let s : State :=
         { running0 with d0 := { dieOn with ovm := { Ovm.idle with waiting := setD [] 5 [0, 1] Ovm.idle.waiting } } }
     5 < 6 ∧ (s.die .s0).ovm.waiting.getD 5 [] = 0 :: [1] ∧ (s.die .s0).ovm.room 5 = true) := by
  decide +kernel

theorem test_witness_TaskEnds :
    (let s := holding 3 0 0
     let r : Running := ⟨3, 0, 0, false, 0, 0, none, none, (0, 0), none, []⟩
     3 < 6 ∧ 0 < engineCount 3 ∧ s.tick.live = true ∧ s.dev = .running ∧ s.tick.stopped = false ∧
       (s.die .s0).ovm.on 3 0 = some r ∧ r.ended = false ∧ s.workEnded .s0 r 0 = true ∧
       (r.stage = 0 → s.mergeDesc .s0 r = none) ∧ s.endStatus .s0 r 0 = 0) ∧
    (let s := holding 3 0 0
     let r : Running := ⟨3, 0, 0, false, 0, 0, none, none, (0, 0), none, []⟩
     3 < 6 ∧ 0 < engineCount 3 ∧ s.tick.live = true ∧ s.dev = .running ∧ s.tick.stopped = false ∧
       (s.die .s0).ovm.on 3 0 = some r ∧ r.ended = false ∧ s.workEnded .s0 r 2 = true ∧
       (r.stage = 0 → s.mergeDesc .s0 r = none) ∧ s.endStatus .s0 r 2 ≠ 0) := by
  decide +kernel

/-- The first node of a planning group of two with its ports up, its collector's merge of one key on a Select engine. -/
def merging : State :=
  let x := { selDesc 3 1 1 with flags := 3 }
  let s := treeLinked (running0.store gal ([3, 3, 1, 0, 1] ++ List.replicate 59 0))
  { s with image := some { image0 with engines0 := eng0 [task0 2 4], links := some { treeNode with box := [2, 1, 1] } }
           tick := { running0.tick with rel := 5 }
           d0 := { dieOn with ovm := { Ovm.idle with running := [⟨2, 0, 0, false, 0, 0, none, none, (0, 0), some x, []⟩] } } }

theorem test_witness_MergeSendsTheFinalList :
    (let s := merging
     let x := { selDesc 3 1 1 with flags := 3 }
     let r : Running := ⟨2, 0, 0, false, 0, 0, none, none, (0, 0), some x, []⟩
     2 < 6 ∧ 0 < engineCount 2 ∧ s.tick.live = true ∧ s.dev = .running ∧ s.tick.stopped = false ∧
       (s.die .s0).ovm.on 2 0 = some r ∧ r.ended = false ∧ r.stage = 0 ∧ s.workEnded .s0 r 0 = true ∧
       s.endStatus .s0 r 0 = 0 ∧ s.mergeDesc .s0 r = some x ∧
       (((s.advance 501000).taskMet .s0 2 0 []).mergeFinal r x).listOut .s0 0 = true) := by
  decide +kernel

theorem test_witness_RerunOperationEnds :
    (let s := rerunning 1
     s.tick.live = true ∧ s.dev = .running ∧ s.tick.rel = 2 ∧ s.tick.stopped = false ∧
       s.dies.contains (Die.ofIdx 0) = true ∧ (s.die (Die.ofIdx 0)).paBusy = true ∧ (s.die (Die.ofIdx 0)).paNet = 0 ∧
       1 ≤ (s.die (Die.ofIdx 0)).paRun ∧ (∀ g ∈ s.dies, s.clocked g = true ∧ (s.die g).paOk = true ∧ (s.die g).paStopped = false ∧
         ((s.die g).paBusy = true → (s.die g).paRun ≠ 0 → (s.die (Die.ofIdx 0)).paOp ≤ (s.die g).paOp)) ∧
       s.netOp 0 (s.die (Die.ofIdx 0)).paOp = none ∧ 19 ≠ 0) := by
  decide +kernel

theorem test_witness_FlaggedNetworkIsSettled :
    (let s := voting 1 [] []
     s.tick.live = true ∧ s.dev = .running ∧ s.runEnded 0 1 (Die.ofIdx 0) = true ∧
       s.netBytes 0 (Die.ofIdx 0) = (s.die (Die.ofIdx 0)).paFirst) ∧
    (let s := voting 1 [1] []
     s.tick.live = true ∧ s.dev = .running ∧ s.runEnded 0 1 (Die.ofIdx 0) = true ∧
       s.netBytes 0 (Die.ofIdx 0) ≠ (s.die (Die.ofIdx 0)).paFirst) ∧
    (let s := voting 2 [1] []
     s.tick.live = true ∧ s.dev = .running ∧ s.runEnded 0 2 (Die.ofIdx 0) = true ∧
       (s.netBytes 0 (Die.ofIdx 0) = (s.die (Die.ofIdx 0)).paFirst ∨
         s.netBytes 0 (Die.ofIdx 0) = (s.die (Die.ofIdx 0)).paSecond)) ∧
    (let s := voting 2 [1] [2]
     s.tick.live = true ∧ s.dev = .running ∧ s.runEnded 0 2 (Die.ofIdx 0) = true ∧
       s.netBytes 0 (Die.ofIdx 0) ≠ (s.die (Die.ofIdx 0)).paFirst ∧
       s.netBytes 0 (Die.ofIdx 0) ≠ (s.die (Die.ofIdx 0)).paSecond ∧ s.plan.record = none) ∧
    (let s : State := { voting 2 [1] [2] with plan := { running0.plan with record := some [] } }
     s.runEnded 0 2 (Die.ofIdx 0) = true ∧ s.netBytes 0 (Die.ofIdx 0) ≠ (s.die (Die.ofIdx 0)).paFirst ∧
       s.netBytes 0 (Die.ofIdx 0) ≠ (s.die (Die.ofIdx 0)).paSecond ∧ s.plan.record ≠ none) := by
  decide +kernel

theorem test_witness_SelectAndEmitEnd_1 :
    (let s := passing [1] [1] []
     s.tick.live = true ∧ s.dev = .running ∧ s.tick.stopped = false ∧ 5 ≤ s.tick.rel ∧ s.plan.passed = false ∧
       (s.dies.all fun g => s.clocked g && s.phaseTasksDone g 4) = true ∧
       (dropVoted (s.heldWith ((s.advance 501000).passMismatches))).length ≤ 16) ∧
    (let s := passing [1] [2] []
     s.tick.live = true ∧ s.dev = .running ∧ s.tick.stopped = false ∧ 5 ≤ s.tick.rel ∧ s.plan.passed = false ∧
       (s.dies.all fun g => s.clocked g && s.phaseTasksDone g 4) = true ∧ (s.advance 501000).passMismatches ≠ []) ∧
    (let s := passing [1] [2] (List.replicate 16 ⟨1, 4, 0, [], [], 0, 0, 0, 0, true⟩)
     s.tick.live = true ∧ s.dev = .running ∧ s.tick.stopped = false ∧ 5 ≤ s.tick.rel ∧ s.plan.passed = false ∧
       (s.dies.all fun g => s.clocked g && s.phaseTasksDone g 4) = true ∧
       16 < (dropVoted (s.heldWith ((s.advance 501000).passMismatches))).length) ∧
    (let s : State := { passing [1] [1] [] with power := { (passing [1] [1] []).power with clocks := 0x5F } }
     s.tick.live = true ∧ s.dev = .running ∧ s.tick.stopped = false ∧ s.clocked .s0 = false) := by
  decide +kernel

theorem test_witness_SelectAndEmitEnd_3 :
    (let v : VoteItem := ⟨2, invalidId, 0, [], [], 0, 7, 0, 1, true⟩
     let s := due v
     s.tick.live = true ∧ s.dev = .running ∧ s.tick.stopped = false ∧
       List.find? (fun v => v.id == invalidId) s.plan.votesDue = some v ∧ s.plan.passed = true ∧
       s.plan.walked = false ∧ s.clocked .s0 = true ∧
       (((s.advance 501000).countRun .s0 ((s.advance 501000).thirdPair v)).thirdSide v false).1 < 2) ∧
    (let v : VoteItem := ⟨2, invalidId, 0, [], [], 8, 7, 0, 1, true⟩
     let s := due v
     s.tick.live = true ∧ s.dev = .running ∧ s.tick.stopped = false ∧
       List.find? (fun v => v.id == invalidId) s.plan.votesDue = some v ∧ s.plan.passed = true ∧
       s.plan.walked = false ∧ s.clocked .s0 = true ∧
       2 ≤ (((s.advance 501000).countRun .s0 ((s.advance 501000).thirdPair v)).thirdSide v false).1) ∧
    (let v : VoteItem := ⟨2, invalidId, 0, [], [], 8, 7, 0, 1, true⟩
     let s : State := { due v with power := { (due v).power with clocks := 0x5F } }
     s.tick.live = true ∧ s.dev = .running ∧ s.tick.stopped = false ∧
       List.find? (fun v => v.id == invalidId) s.plan.votesDue = some v ∧ s.plan.passed = true ∧
       s.plan.walked = false ∧ s.clocked .s0 = false) ∧
    (let s := finalS 5 true false
     s.tick.live = true ∧ s.dev = .running ∧ s.tick.stopped = false ∧ s.plan.passed = true ∧ s.plan.walked = false ∧
       s.plan.votesDue = [] ∧ s.clocked .s0 = true) ∧
    (let s := finalS 6 true true
     s.tick.live = true ∧ s.dev = .running ∧ s.tick.stopped = false ∧ 6 ≤ s.tick.rel ∧ s.plan.record = none ∧
       s.plan.walked = true ∧ s.plan.cause = none) ∧
    (let s : State := { finalS 6 true true with plan := { (finalS 6 true true).plan with cause := some 5 } }
     s.tick.live = true ∧ s.dev = .running ∧ s.tick.stopped = false ∧ 6 ≤ s.tick.rel ∧ s.plan.record = none ∧
       s.plan.cause = some (s.plan.cause.getD default)) := by
  decide +kernel

theorem test_witness_SelectAndEmitEnd_2 :
    (let s := swept
     s.tick.live = true ∧ s.dev = .running ∧ s.tick.stopped = false ∧ s.profile = 3 ∧ 3 ≤ s.tick.rel ∧
       s.tick.rel ≤ 5 ∧ s.plan.passed = false ∧ s.dies.all s.clocked = true ∧ (s.twins.flatMap fun p => s.blockMismatches p.1 p.2) ≠ []) ∧
    (let s := finalS 3 false false
     s.tick.live = true ∧ s.dev = .running ∧ s.profile = 3 ∧ 3 ≤ s.tick.rel ∧ s.plan.passed = false ∧ s.dies.all s.clocked = true) := by
  decide +kernel

theorem test_witness_SelectOperationsComplete :
    (let s := selecting (selDesc 1 0 2)
     let q : SelWork := ⟨0, selDesc 1 0 2, false, false, 0, 0, 0, []⟩
     0 < 2 ∧ selHeld s .s0 0 1 = some q ∧ selSound s .s0 q.desc ∧
       (0 < q.desc.dst ∨ q.desc.dst + q.desc.dstBytes ≤ 0) ∧ (0 < q.desc.result ∨ q.desc.result + 32 ≤ 0)) ∧
    (let s := selecting (selDesc 1 0 2)
     let q : SelWork := ⟨0, selDesc 1 0 2, false, false, 0, 0, 0, []⟩
     0 < 2 ∧ selHeld s .s0 0 1 = some q ∧ selSound s .s0 q.desc ∧ 0 < (List.flatMap (encodeElement q.desc.outKey)
       (List.map (s.meritElement q.desc) (List.range q.desc.count))).length) ∧
    (let s := selecting (selDesc 3 2 2)
     let q : SelWork := ⟨0, selDesc 3 2 2, false, false, 0, 0, 0, []⟩
     0 < 2 ∧ selHeld s .s0 0 3 = some q ∧ selSound s .s0 q.desc ∧ (0 < q.desc.result ∨ q.desc.result + 32 ≤ 0)) ∧
    (let s := selecting (selDesc 2 0 2)
     let q : SelWork := ⟨0, selDesc 2 0 2, false, false, 0, 0, 0, []⟩
     0 < 2 ∧ selHeld s .s0 0 2 = some q ∧ selSound s .s0 q.desc ∧
       (0 < q.desc.dst ∨ q.desc.dst + q.desc.dstBytes ≤ 0) ∧ (0 < q.desc.result ∨ q.desc.result + 32 ≤ 0)) ∧
    (let s := selecting (selDesc 2 0 2)
     let q : SelWork := ⟨0, selDesc 2 0 2, false, false, 0, 0, 0, []⟩
     0 < 2 ∧ selHeld s .s0 0 2 = some q ∧ selSound s .s0 q.desc ∧ 0 < (List.flatMap (encodeElement q.desc.outKey)
       (List.filter (fun x => x.id != invalidId && decide (q.desc.thresh < x.merit)) (s.selInputs q.desc (s.selLists
       .s0 q.desc)))).length) ∧
    (let s := selecting (selDesc 3 2 2)
     let q : SelWork := ⟨0, selDesc 3 2 2, false, false, 0, 0, 0, []⟩
     0 < 2 ∧ selHeld s .s0 0 3 = some q ∧ selSound s .s0 q.desc ∧
       (0 < q.desc.dst ∨ q.desc.dst + q.desc.dstBytes ≤ 0) ∧ (0 < q.desc.result ∨ q.desc.result + 32 ≤ 0)) ∧
    (let s := selecting (selDesc 3 2 2)
     let q : SelWork := ⟨0, selDesc 3 2 2, false, false, 0, 0, 0, []⟩
     0 < 2 ∧ selHeld s .s0 0 3 = some q ∧ selSound s .s0 q.desc ∧ 0 < (List.flatMap (encodeElement q.desc.outKey)
       (topK q.desc.k q.desc.dedup (s.selInputs q.desc (s.selLists .s0 q.desc))).entries).length) := by
  unfold selSound; decide +kernel

theorem test_witness_SelectOperationsComplete_error :
    (let s := selecting (selDesc 4 4 2)
     let q : SelWork := ⟨0, selDesc 4 4 2, false, false, 0, 0, 0, []⟩
     0 < 2 ∧ selHeld s .s0 0 4 = some q ∧ selSound s .s0 q.desc ∧ (0 < q.desc.result ∨ q.desc.result + 32 ≤ 0)) := by
  unfold selSound; decide +kernel

theorem test_witness_UnsoundDescriptorIsRefused :
    (let s := selecting (selDesc 4 1 2)
     let q : SelWork := ⟨0, selDesc 4 1 2, false, false, 0, 0, 0, []⟩
     0 < 2 ∧ selHeld s .s0 0 4 = some q ∧ selCheck (inGallery .s0) s.node q.desc (s.selLists .s0 q.desc) ≠ 0 ∧
       (0 < q.desc.result ∨ q.desc.result + 32 ≤ 0)) := by
  decide +kernel

theorem test_witness_KeyinsChainsComplete :
    (let s := selecting (selDesc 4 4 2)
     let q : SelWork := ⟨0, selDesc 4 4 2, false, false, 0, 0, 0, []⟩
     0 < 2 ∧ 1 ≠ 2 ∧ (s.die .s0).sel = [q] ∧ q.engine = 0 ∧ q.started = false ∧ q.err = 0 ∧ q.desc.op = 4 ∧
       selCheck (inGallery .s0) s.node q.desc (s.selLists .s0 q.desc) = 0 ∧ nodeOf q.desc.dst = s.node ∧
       s.crossDown (some .s0) (localOf q.desc.dst) 8 = false ∧
       (∀ r, r < q.desc.k → s.writeStatus (localOf q.desc.dst + 8 * r) 8 = 0 ∧
         s.stalls (localOf q.desc.dst + 8 * r) 8 = false) ∧ s.kl.ops = []) := by
  decide +kernel

theorem test_witness_SoftwareIssueInStopped :
    (let s := swState
     s.host.d3 = false ∧ 0 < 2 ∧ s.accessCode (rSelSwGo .s0) = 0 ∧
       s.soundAt [rSelSwDescLo .s0, rSelSwDescHi .s0] = true ∧ s.dev = .stopped ∧ s.selIdle .s0 0 = true ∧
       s.clocked .s0 = true ∧ s.stalls (s.pair (rSelSwDescLo .s0) (rSelSwDescHi .s0)) 64 = false ∧
       s.mapped (s.pair (rSelSwDescLo .s0) (rSelSwDescHi .s0)) 64 = true ∧
       1 ≤ (decodeSelDesc (s.readSpan (s.pair (rSelSwDescLo .s0) (rSelSwDescHi .s0)) 64)).op ∧
       (decodeSelDesc (s.readSpan (s.pair (rSelSwDescLo .s0) (rSelSwDescHi .s0)) 64)).op ≤ 4) ∧
    (let s := swState
     s.host.d3 = false ∧ 0 < 32 ∧ s.accessCode (rIhaulChCtrl .s0 0) = 0 ∧
       s.soundAt [rIhaulChDescLo .s0 0, rIhaulChDescHi .s0 0] = true ∧ s.dev = .stopped ∧ (s.die .s0).power = 2 ∧
       ((s.die .s0).ihaul.any fun h => h.1 == 0) = false) ∧
    (let s := running0
     s.host.d3 = false ∧ 0 < 2 ∧ s.accessCode (rSelSwGo .s0) = 0 ∧
       s.soundAt [rSelSwDescLo .s0, rSelSwDescHi .s0] = true ∧ (s.dev ≠ .stopped ∨ s.selIdle .s0 0 = false)) ∧
    (let s := running0
     s.host.d3 = false ∧ 0 < 32 ∧ s.accessCode (rIhaulChCtrl .s0 0) = 0 ∧
       s.soundAt [rIhaulChDescLo .s0 0, rIhaulChDescHi .s0 0] = true ∧ (s.dev ≠ .stopped ∨ (s.die .s0).power ≠ 2 ∨
       ((s.die .s0).ihaul.any fun h => h.1 == 0) = true)) ∧
    (let s := ((stopped0.setReg (rSelSwDescLo .s0) 0x1000).setReg (rSelSwDescHi .s0) 0).setReg (rDmcInitFront .s0) 0
     s.host.d3 = false ∧ 1 < 2 ∧ s.accessCode (rSelSwGo .s0) = 0 ∧
       s.soundAt [rSelSwDescLo .s0, rSelSwDescHi .s0] = true ∧ s.dev = .stopped ∧ s.selIdle .s0 1 = true ∧
       s.clocked .s0 = true ∧ s.stalls (s.pair (rSelSwDescLo .s0) (rSelSwDescHi .s0)) 64 = true) := by
  decide +kernel

theorem test_witness_EngineRunsItsStep :
    (let s := stepping
     let w : ReWork := ⟨0, 0, ⟨1, 0, 0, gal, gal, 0, 0⟩, 0⟩
     0 < 68 ∧ (s.die .s0).workOf ((s.die .s0).ces.getD 0 CeUnit.idle).logical = some w ∧
       ((s.die .s0).ces.getD 0 CeUnit.idle).role = CeRole.serving ∧
       (s.tick.rel ≠ 3 ∨ (s.dep.canary.any fun q => q.1 == Die.s0.idx) = true) ∧ s.stepReady .s0 0 0 = true ∧ 1 ≠ 0) ∧
    (let s := stepping
     let w : ReWork := ⟨0, 0, ⟨1, 0, 0, gal, gal, 0, 0⟩, 0⟩
     3 < 68 ∧ (s.die .s0).workOf ((s.die .s0).ces.getD 3 CeUnit.idle).logical = some w ∧
       ((s.die .s0).ces.getD 3 CeUnit.idle).role = CeRole.serving ∧
       (s.tick.rel ≠ 3 ∨ (s.dep.canary.any fun q => q.1 == Die.s0.idx) = true) ∧ s.stepReady .s0 3 0 = true ∧
       2 ≠ 0) := by
  decide +kernel

theorem test_witness_CanarySlotReports :
    (let s : State := { running0 with tick := { running0.tick with rel := 3 } }
     s.tick.live = true ∧ s.tick.stopped = false ∧ 3 ≤ s.tick.rel ∧ (s.die .s0).power = 2 ∧
       s.dies.contains .s0 = true ∧ (s.dep.canary.any fun q => q.1 == Die.s0.idx) = false ∧
       (s.img fun x => x.safety.sets.length) ≠ 0) ∧
    (let s : State := { running0 with tick := { running0.tick with rel := 3 } }
     let missing := [4,5]
     let corrupt := [0, 13]
     let ue : List (Nat × Nat) := []
     s.tick.live = true ∧ s.tick.stopped = false ∧ 3 ≤ s.tick.rel ∧ (s.die .s1).power = 2 ∧
       s.dies.contains .s1 = true ∧ (s.dep.canary.any fun q => q.1 == Die.s1.idx) = false ∧
       (s.img fun x => x.safety.sets.length) ≠ 0 ∧ 13 ∈ corrupt ∧ 13 / 4 < 68 ∧ 13 / 4 ∉ missing ∧
       (∀ q ∈ ue, q.1 ≠ 13 / 4) ∧ ((s.die .s1).ces.getD (13 / 4) CeUnit.idle).role = CeRole.serving) ∧
    (let s : State := { running0 with tick := { running0.tick with rel := 3 } }
     let missing := [4,5]
     let corrupt := [0, 13]
     let ue := [(6, 3)]
     s.tick.live = true ∧ s.tick.stopped = false ∧ 3 ≤ s.tick.rel ∧ (s.die .s1).power = 2 ∧
       s.dies.contains .s1 = true ∧ (s.dep.canary.any fun q => q.1 == Die.s1.idx) = false ∧
       (s.img fun x => x.safety.sets.length) ≠ 0 ∧ 0 ∈ corrupt ∧ 0 / 4 < 68 ∧ 0 / 4 ∉ missing ∧
       (∀ q ∈ ue, q.1 ≠ 0 / 4) ∧ ((s.die .s1).ces.getD (0 / 4) CeUnit.idle).role = CeRole.serving ∧ (6, 3) ∈ ue ∧
       6 < 68 ∧ ((s.die .s1).ces.getD 6 CeUnit.idle).role = CeRole.serving) := by
  decide +kernel

theorem test_witness_TestSlicesRun :
    (let s : State := { hold0 with d0 := { dieOn with seTest := 1 } }
     2 < 5 ∧ 1 < sliceUnits 2 ∧ (s.die .s0).power = 2 ∧ (s.die .s0).slicing 2 = false ∧ s.unitFree .s0 2 1 = true ∧
       (s.dev = .hold ∨ s.dev = .stopped ∨ s.dev = .running ∧ s.gapFits 2 1000000 = true)) ∧
    (let s := running0
     (s.die .s0).power = 2 ∧ (s.die .s0).slicing 0 = false ∧
       64 < sliceUnits 0 ∧ s.unitFree .s0 0 64 = true) ∧
    (let s : State := { running0 with d0 := { dieOn with seTest := 1 } }
     (s.die .s0).power = 2 ∧ (s.die .s0).slicing 2 = false ∧ s.unitFree .s0 2 1 = true ∧ s.dev = .running ∧
       s.gapFits 2 156000 = true) ∧
    (let s := hold0
     2 < 5 ∧ 1 < sliceUnits 2 ∧ (s.die .s0).inService 2 1 = true ∧ s.timeOn = true ∧ 100 ≤ 100) ∧
    (let s : State := { hold0 with d0 := { dieOn with slices := [(0,64,0),(4,8,10)] } }
     4 < 5 ∧ 8 < sliceUnits 4 ∧ ((s.die .s0).slices.any fun q => q.1 == 4 && q.2.1 == 8 && decide (q.2.2 + sliceNs 4 ≤
       200000)) = true ∧ after (exec (.testSliceEnd .s0 4 8 200000 true) s) (fun u => (u.die .s0).slices.contains (0,
       64, 0)) = true) ∧
    (let s : State := { hold0 with d0 := { dieOn with slices := [(0,64,0),(4,8,10)] } }
     4 < 5 ∧ 8 < sliceUnits 4 ∧ ((s.die .s0).slices.any fun q => q.1 == 4 && q.2.1 == 8 && decide (q.2.2 + sliceNs 4 ≤
       200000)) = true ∧ (0, 64, 0) ∈ (s.die .s0).slices ∧ (0, 64, 0).1 ≠ 4) ∧
    (let s : State := { hold0 with d0 := { dieOn with slices := [(0,64,0),(4,8,10)] } }
     0 < 5 ∧ 64 < sliceUnits 0 ∧ ((s.die .s0).slices.any fun q => q.1 == 0 && q.2.1 == 64 && decide (q.2.2 + sliceNs 0
       ≤ 200000)) = true) ∧
    (let s : State := { running0 with d0 := { dieOn with slices := [(0,64,0),(1,8,10)] } }
     1 < 5 ∧ 8 < sliceUnits 1 ∧ ((s.die .s0).slices.any fun q => q.1 == 1 && q.2.1 == 8 && decide (q.2.2 + sliceNs 1 ≤
       700000)) = true) ∧
    (let s : State := { running0 with d0 := { dieOn with slices := [(0,64,0),(2,1,10)] } }
     2 < 5 ∧ 1 < sliceUnits 2 ∧ ((s.die .s0).slices.any fun q => q.1 == 2 && q.2.1 == 1 && decide (q.2.2 + sliceNs 2 ≤
       700000)) = true) ∧
    (let s : State := { running0 with d0 := { dieOn with slices := [(0,64,0),(3,0,10)] } }
     3 < 5 ∧ 0 < sliceUnits 3 ∧ ((s.die .s0).slices.any fun q => q.1 == 3 && q.2.1 == 0 && decide (q.2.2 + sliceNs 3 ≤
       700000)) = true) := by
  decide +kernel

theorem test_witness_DoorbellsQueueChains :
    (let s := withChan stopped0 3 { Chan.idle with queue := [64, 96] }
     3 < 140 ∧ s.host.d3 = false ∧ s.accessCode (rHaulChDoorbell 3) = 0 ∧ (1#32).toNat % 32 ≠ 0) ∧
    (let s := withChan stopped0 3 { Chan.idle with queue := [64, 96] }
     3 < 140 ∧ s.host.d3 = false ∧ s.accessCode (rHaulChDoorbell 3) = 0 ∧ (0#32).toNat % 32 = 0 ∧
       (s.chan 3).queue.length < 16 ∧ 0 ≠ 3) ∧
    (let s := withChan stopped0 3 { Chan.idle with queue := [64, 96] }
     3 < 140 ∧ (s.chan 3).chain = none ∧ (s.chan 3).queue = (s.chan 3).queue.headD default :: (s.chan 3).queue.tail ∧
       (s.chan 3).paused = false ∧ (s.chan 3).pausing = false ∧ s.ringMode 3 = false ∧ s.host.up = true ∧ 0 ≠ 3) ∧
    (let s := withChan running0 139 { Chan.idle with queue := List.replicate 16 64 }
     139 < 140 ∧ s.host.d3 = false ∧ s.accessCode (rHaulChDoorbell 139) = 0 ∧ (0#32).toNat % 32 = 0 ∧
       16 ≤ (s.chan 139).queue.length) := by
  decide +kernel

theorem test_witness_DescriptorIsCheckedAndStarts_1 :
    (let s := (withChan running0 3 (busy (chainAt .fetch [])))
     let h := chainAt .fetch []
     let sg : List Byte := []
     3 < 140 ∧ (s.chan 3).chain = some h ∧ h.step = .fetch ∧ (s.chan 3).paused = false ∧ (s.chan 3).pausing = false ∧
       s.checkDesc 3 { h with body := padTo 32 dIn, sg := sg } 0 = 0 ∧
       s.mayStart 3 { h with body := padTo 32 dIn, sg := sg } = true ∧ s.linkTaken 3 = false) ∧
    (let s := withChan (withChan running0 3 (busy (chainAt .fetch []))) 2 (busy (chainAt .held dIn))
     let h := chainAt .fetch []
     let sg : List Byte := []
     3 < 140 ∧ (s.chan 3).chain = some h ∧ h.step = .fetch ∧ (s.chan 3).paused = false ∧ (s.chan 3).pausing = false ∧
       s.checkDesc 3 { h with body := padTo 32 dIn, sg := sg } 0 = 0 ∧
       s.mayStart 3 { h with body := padTo 32 dIn, sg := sg } = true ∧ s.linkTaken 3 = true) ∧
    (let s := (withChan stopped0 3 (busy (chainAt .fetch [])))
     let h := chainAt .fetch []
     let sg : List Byte := []
     3 < 140 ∧ (s.chan 3).chain = some h ∧ h.step = .fetch ∧ (s.chan 3).paused = false ∧ (s.chan 3).pausing = false ∧
       s.checkDesc 3 { h with body := padTo 32 dIn, sg := sg } 0 = 0 ∧
       s.mayStart 3 { h with body := padTo 32 dIn, sg := sg } = false) ∧
    (let s := (withChan running0 3 (busy (chainAt .fetch [])))
     let h := chainAt .fetch []
     let sg : List Byte := []
     3 < 140 ∧ (s.chan 3).chain = some h ∧ h.step = .fetch ∧ (s.chan 3).paused = false ∧ (s.chan 3).pausing = false ∧ s.cringRoom 3 = true ∧
       s.checkDesc 3 { h with body := padTo 32 dOut, sg := sg } 0 ≠ 0) := by
  decide +kernel

theorem test_witness_DescriptorIsCheckedAndStarts_2 :
    (let s := withChan (withChan running0 3 (busy (chainAt .held dIn))) 2 (busy (chainAt .held dIn))
     let h := chainAt .held dIn
     3 < 140 ∧ (s.chan 3).chain = some h ∧ h.step = .held ∧ s.mayStart 3 h = true ∧ s.linkTaken 3 = true) ∧
    (let s := (withChan stopped0 3 (busy (chainAt .held dIn)))
     let h := chainAt .held dIn
     3 < 140 ∧ (s.chan 3).chain = some h ∧ h.step = .held ∧ s.mayStart 3 h = false) ∧
    (let s := (withChan running0 3 (busy (chainAt .held dIn)))
     let h := chainAt .held dIn
     3 < 140 ∧ (s.chan 3).chain = some h ∧ h.step = .held ∧ s.mayStart 3 h = true ∧ s.linkTaken 3 = false) := by
  decide +kernel

theorem test_witness_DescriptorIsCheckedAndStarts_3 :
    (let s := intS .held dInt dInt false
     let h := { chainAt .held dInt with desc := 0x400000020000 }
     140 ≤ 140 ∧ 140 < 204 ∧ s.chainOf 140 = some h ∧ h.step = .held ∧ s.mayStart 140 h = true) ∧
    (let b := descBytes 1 (gal+64) (gal+128) 64 0x800
     let s := intS .held b dInt false
     let h := { chainAt .held b with desc := 0x400000020000 }
     s.chainOf 140 = some h ∧ h.step = .held ∧ s.mayStart 140 h = false) ∧
    (let s := intS .fetch dInt dInt true
     let h := { chainAt .fetch dInt with desc := 0x400000020000 }
     s.chainOf 140 = some h ∧ h.step = .fetch ∧ s.handedDesc 140 h = true ∧ s.stalled (s.fetchWait h) = [] ∧
       s.checkDesc 140 { h with sg := (s.fetchList h).2 } (s.fetchList h).1 = 0 ∧
       s.mayStart 140 { h with sg := (s.fetchList h).2 } = true) ∧
    (let s := (intS .fetch [] dInt false).setReg (rDmcInitFront .s0) 0
     let s : State := { s with d0 := { s.d0 with ihaul := [(0, false, chainAt .fetch [])] } }
     let h := chainAt .fetch []
     s.chainOf 140 = some h ∧ h.step = .fetch ∧ s.handedDesc 140 h = false ∧ s.stalled [(h.desc, 32)] ≠ []) ∧
    (let s := intS .fetch [] dInt false
     let h := { chainAt .fetch [] with desc := 0x400000020000 }
     s.chainOf 140 = some h ∧ h.step = .fetch ∧ s.handedDesc 140 h = false ∧ s.stalled [(h.desc, 32)] = [] ∧
       (s.getHere h.desc 32).2 = (0, padTo 32 dInt) ∧
       (s.getHere h.desc 32).1.fetchList { h with body := padTo 32 dInt } = (0, []) ∧
       (s.getHere h.desc 32).1.stalled ((s.getHere h.desc 32).1.fetchWait { h with body := padTo 32 dInt }) = [] ∧
       (s.getHere h.desc 32).1.checkDesc 140 { h with body := padTo 32 dInt, sg := [] } 0 = 0) ∧
    (let s := intS .fetch [] (padTo 32 []) false
     let h := { chainAt .fetch [] with desc := 0x400000020000 }
     s.chainOf 140 = some h ∧ h.step = .fetch ∧ s.handedDesc 140 h = false ∧ s.stalled [(h.desc, 32)] = [] ∧
       (s.getHere h.desc 32).2 = (0, padTo 32 []) ∧
       (s.getHere h.desc 32).1.fetchList { h with body := padTo 32 [] } = (0, []) ∧
       (s.getHere h.desc 32).1.checkDesc 140 { h with body := padTo 32 [], sg := [] } 0 ≠ 0) := by
  decide +kernel

theorem test_witness_DescriptorIsCheckedAndStarts_4 :
    (let s := (intS .fetch (descBytes 1 0x1000 (gal+128) 64 1) dInt true).setReg (rDmcInitFront .s0) 0
     let h := { chainAt .fetch (descBytes 1 0x1000 (gal+128) 64 1) with desc := 0x400000020000 }
     s.chainOf 140 = some h ∧ h.step = .fetch ∧ s.handedDesc 140 h = true ∧ s.stalled (s.fetchWait h) ≠ []) ∧
    (let l := descBytes 1 0x1000 (gal+128) 64 1
     let s := (intS .fetch [] l false).setReg (rDmcInitFront .s0) 0
     let h := { chainAt .fetch [] with desc := 0x400000020000 }
     s.chainOf 140 = some h ∧ h.step = .fetch ∧ s.handedDesc 140 h = false ∧ s.stalled [(h.desc, 32)] = [] ∧
       (s.getHere h.desc 32).2 = (0, padTo 32 l) ∧
       (s.getHere h.desc 32).1.stalled ((s.getHere h.desc 32).1.fetchWait { h with body := padTo 32 l }) ≠ []) ∧
    (let h := { chainAt .fetch [] with desc := 0x700000000000 }
     let s : State := { running0 with d0 := { running0.d0 with ihaul := [(31, false, h)] } }
     171 < 204 ∧ s.chainOf 171 = some h ∧ h.step = .fetch ∧ s.handedDesc 171 h = false ∧ s.stalled [(h.desc, 32)] = [] ∧
       (s.getHere h.desc 32).2.1 ≠ 0) := by
  decide +kernel

theorem test_witness_DescriptorMovesItsData_1 :
    (let s : State := withChan { running0 with kl := { running0.kl with fences := [3] } } 3 (busy (chainAt .moving dIn))
     s.chainOf 3 = some (chainAt .moving dIn) ∧ 3 < 204 ∧ s.fenced 3 = true) ∧
    (let s := (withChan running0 3 (busy (chainAt .moving dIn))).mapStream 3 fun c => { c with full := true }
     s.chainOf 3 = some (chainAt .moving dIn) ∧ 3 < 128 ∧ (s.world.streams.getD 3 Stream.idle).full = true) ∧
    (let b := descBytes 1 0x1000 4096 64 0
     let s := (withChan running0 137 (busy (chainAt .moving b))).setReg (rDmcInitFront .s0) 0
     s.chainOf 137 = some (chainAt .moving b) ∧ 137 < 204 ∧ s.fenced 137 = false ∧
       s.stalled (s.deviceHere 137 (chainAt .moving b)) ≠ []) := by
  decide +kernel

theorem test_witness_DescriptorMovesItsData_3 :
    (let s := withChan running0 0 (busy (chainAt .moving dEgo))
     let h := chainAt .moving dEgo
     s.chainOf 0 = some h ∧ h.step = .moving ∧ 0 < 204 ∧ s.fenced 0 = false ∧
       (s.world.streams.getD 0 Stream.idle).full = false ∧ s.stalled (s.deviceHere 0 h) = [] ∧
       (s.advance 2000).newItems 0 (s.advance 2000).now (padTo h.len egoItem) = ([(2000, 0, egoItem)], []) ∧
       (s.advance 2000).roomFor 0 [(2000, 0, egoItem)] = true ∧ h.isEnd = true ∧ s.cringRoom 0 = true ∧
       (s.chan 0).stopping = false ∧ (s.chan 0).pausing = false) ∧
    (let s := withChan { running0 with image := some { image0 with world := { image0.world with stageBytes := 64 } } } 0
       (busy (chainAt .moving dEgo))
     let h := chainAt .moving dEgo
     s.chainOf 0 = some h ∧ h.step = .moving ∧ 0 < 128 ∧ s.fenced 0 = false ∧
       (s.world.streams.getD 0 Stream.idle).full = false ∧ s.stalled (s.deviceHere 0 h) = [] ∧
       (s.advance 2000).newItems 0 (s.advance 2000).now (padTo h.len egoItem) = ([(2000, 0, egoItem)], []) ∧
       (s.advance 2000).roomFor 0 [(2000, 0, egoItem)] = false) := by
  decide +kernel

theorem test_witness_DescriptorMovesItsData_2 :
    (let s := withChan running0 130 (busy (chainAt .moving dOut))
     let h := chainAt .moving dOut
     let w := (s.advance 2000).contendAll []
     s.chainOf 130 = some h ∧ h.step = .moving ∧ 130 < 204 ∧ s.fenced 130 = false ∧
       s.stalled (s.deviceHere 130 h) = [] ∧ toHost 130 h = true ∧ h.ctrl 0 0 = 0 ∧ 0 < h.len ∧
       (w.readDevice 130 0 (regionSpans (h.sources 130) 0) [] 0).2.1 = 0 ∧
       (w.readDevice 130 0 (regionSpans (h.sources 130) 0) [] 0).2.2.2 = 0) ∧
    (let s := intS .moving dInt dInt false
     let h := { chainAt .moving dInt with desc := 0x400000020000 }
     let w := (s.advance 2000).contendAll []
     let r := w.readDevice 140 0 (regionSpans (h.sources 140) 0) [] 0
     let stream := joinPieces r.2.2.1
     s.chainOf 140 = some h ∧ h.step = .moving ∧ s.fenced 140 = false ∧ s.stalled (s.deviceHere 140 h) = [] ∧
       toHost 140 h = false ∧ r.2.1 = 0 ∧ r.2.2.2 = 0 ∧ (reshuffle h stream).length = h.outLen ∧ h.isEnd = true ∧
       ∀ p ∈ pageSpans h.dst h.outLen, nodeOf p.1 = s.node ∧ r.1.crossDown (ixFrom 140) (localOf p.1) p.2 = false ∧
         r.1.writeStatus (localOf p.1) p.2 = 0) ∧
    (let b := descBytes 1 0x1000 8128 128 4
     let s := withChan running0 137 (busy (chainAt .moving b))
     let h := chainAt .moving b
     let w := (s.advance 2000).contendAll []
     let stream := padTo h.len (List.replicate 128 7)
     s.chainOf 137 = some h ∧ h.step = .moving ∧ s.fenced 137 = false ∧ s.stalled (s.deviceHere 137 h) = [] ∧
       toHost 137 h = false ∧ (reshuffle h stream).length = h.outLen ∧ localOf h.dst + h.outLen ≤ 0x1000000000 ∧
       (∀ p ∈ pageSpans h.dst h.outLen, nodeOf p.1 = s.node ∧ w.crossDown (ixFrom 137) (localOf p.1) p.2 = false ∧
         w.writeStatus (localOf p.1) p.2 = 0) ∧ h.isEnd = true ∧ s.cringRoom 137 = true ∧
       (s.chan 137).stopping = false ∧ (s.chan 137).pausing = false) ∧
    (let s := (withChan running0 137 (busy (chainAt .moving dPvIn)))
     let h := chainAt .moving dPvIn
     let data : List Byte := List.replicate 64 7
     s.chainOf 137 = some h ∧ h.step = .moving ∧ 137 < 204 ∧ s.fenced 137 = false ∧ s.stalled (s.deviceHere 137 h) = [] ∧
       136 ≤ 137 ∧ 137 < 140 ∧
       toHost 137 h = false ∧ h.isEnd = true ∧ s.cringRoom 137 = true ∧ (s.chan 137).stopping = false ∧
       (s.chan 137).pausing = false ∧ h.ctrl 3 2 = 0 ∧ 0 < h.len ∧
       h.len ≤ data.length ∧ h.dst / 4096 = (h.dst + h.len - 1) / 4096 ∧ nodeOf h.dst = s.node ∧
       s.crossDown none (localOf h.dst) h.len = false ∧ s.writeStatus (localOf h.dst) h.len = 0) := by
  decide +kernel

theorem test_witness_HostReadsReturn :
    (let s := withChan running0 130 { Chan.idle with sending := some (⟨0,[1]⟩, 0) }
     130 < 140 ∧ (s.chan 130).sending = some (((s.chan 130).sending.getD default).1, ((s.chan 130).sending.getD
       default).2) ∧ 1 ≤ 3 ∧ 3 < 4) ∧
    (let s := (withChan running0 130 (busy (chainAt .flush dOut)))
     130 < 140 ∧ (s.chan 130).sending = none ∧ (s.chan 130).chain = some ((s.chan 130).chain.getD default) ∧
       ((s.chan 130).chain.getD default).step = .flush ∧ ((s.chan 130).chain.getD default).isEnd = true ∧
       s.cringRoom 130 = true ∧ (s.chan 130).stopping = false ∧ (s.chan 130).pausing = false) ∧
    (let s := (withChan running0 130 (busy (chainAt .flush dNext)))
     let h := (s.chan 130).chain.getD default
     130 < 140 ∧ (s.chan 130).sending = none ∧ (s.chan 130).chain = some h ∧ h.step = .flush ∧ h.isEnd = false ∧
       (s.chan 130).stopping = false ∧ (s.chan 130).pausing = false ∧ h.ctrl 14 14 = 0) ∧
    (let s := (withChan running0 3 (busy (chainAt .moving dIn)))
     3 < 140 ∧ (s.chan 3).sending = none ∧ (s.chan 3).chain = some ((s.chan 3).chain.getD default) ∧
       s.hostReading 3 = true ∧ s.cringRoom 3 = true ∧ (s.chan 3).pausing = false ∧ 1 ≤ 1) := by
  decide +kernel

theorem test_witness_RingRecordIsDeliveredOrDropped_1 :
    (let s := ringR
     let rest : List Feed := []
     let f : Feed := ⟨1, List.replicate 100 1⟩
     128 ≤ 129 ∧ 129 < 136 ∧ (s.chan 129).feeds = f :: rest ∧ (s.chan 129).sending = none ∧
       2 = bits (s.egGeom (129 - 128)) 15 0 ∧ 64 = 64 * bits (s.egGeom (129 - 128)) 23 16 ∧
       0 = BitVec.toNat (s.reg (rHaulChRingHead 129) - s.reg (rHaulChRingTail 129)) ∧ s.linkTaken 129 = false ∧
       s.host.up = true ∧ 2 ≠ 0 ∧ 64 ≠ 0 ∧ ceilDiv f.bytes.length 64 + 0 ≤ 2 ∧ s.cringRoom 129 = true) ∧
    (let s := withChan running0 128 { Chan.idle with feeds := [⟨0, List.replicate 100 1⟩, ⟨1, [2]⟩] }
     let rest : List Feed := [⟨1, [2]⟩]
     let f : Feed := ⟨0, List.replicate 100 1⟩
     128 ≤ 128 ∧ 128 < 136 ∧ (s.chan 128).feeds = f :: rest ∧ (s.chan 128).sending = none ∧
       16 = bits (s.egGeom (128 - 128)) 15 0 ∧ 1280 = 64 * bits (s.egGeom (128 - 128)) 23 16 ∧
       0 = BitVec.toNat (s.reg (rHaulChRingHead 128) - s.reg (rHaulChRingTail 128)) ∧ s.linkTaken 128 = false ∧
       s.host.up = true ∧ 16 ≠ 0 ∧
       1280 ≠ 0 ∧ ceilDiv f.bytes.length 1280 + 0 ≤ 16 ∧ s.cringRoom 128 = true ∧ f.kind = 0) := by
  decide +kernel

theorem test_witness_RingRecordIsDeliveredOrDropped_2 :
    (let s := ringS [⟨1, List.replicate 100 1⟩]
     let rest : List Feed := []
     let f : Feed := ⟨1, List.replicate 100 1⟩
     128 ≤ 129 ∧ 129 < 136 ∧ (s.chan 129).feeds = f :: rest ∧ (s.chan 129).sending = none ∧
       0 = bits (s.egGeom (129 - 128)) 15 0 ∧ 0 = 64 * bits (s.egGeom (129 - 128)) 23 16 ∧
       0 = BitVec.toNat (s.reg (rHaulChRingHead 129) - s.reg (rHaulChRingTail 129)) ∧ s.linkTaken 129 = false ∧
       (s.host.up = false ∨ 0 = 0 ∨ s.cringRoom 129 = false ∨ 0 = 0 ∨ 0 < ceilDiv f.bytes.length 0 + 0)) ∧
    (let s := withChan ringR 128 { Chan.idle with feeds := [⟨0, List.replicate 100 1⟩] }
     let f : Feed := ⟨1, List.replicate 100 1⟩
     128 ≤ 129 ∧ 129 < 136 ∧ (s.chan 129).feeds = [f] ∧ (s.chan 129).sending = none ∧ s.linkTaken 129 = true) ∧
    (let g := withChan running0 135 { Chan.idle with sending := some (⟨1, []⟩, 0) }
     (g.chan 135).sending ≠ none) := by
  decide +kernel

theorem test_witness_ChannelsPauseResumeAndStop_1 :
    (let s := withChan running0 3 Chan.idle
     3 < 140 ∧ s.host.d3 = false ∧ s.accessCode (rHaulChCtrl 3) = 0 ∧ (s.chan 3).paused = false ∧
       (s.chan 3).stopping = false ∧ (s.chan 3).pausing = false ∧ (s.chan 3).chain = none ∧ s.cringRoom 3 = true ∧
       s.accessCode (rHaulChCringSize 3) = 0) ∧
    (let s := withChan running0 3 { Chan.idle with pausing := true }
     3 < 140 ∧ s.host.d3 = false ∧ s.accessCode (rHaulChCringSize 3) = 0 ∧ (s.chan 3).chain = none ∧
       (s.chan 3).pausing = true ∧ s.host.up = true) ∧
    (let s := (withChan running0 3 (busy (chainAt .moving dIn)))
     3 < 140 ∧ s.host.d3 = false ∧ s.accessCode (rHaulChCtrl 3) = 0 ∧ (s.chan 3).paused = false ∧
       (s.chan 3).stopping = false ∧ (s.chan 3).pausing = false ∧ (s.chan 3).chain = some ((s.chan 3).chain.getD default) ∧
       ((s.chan 3).chain.getD default).step = .moving ∧ (s.world.streams.getD 3 Stream.idle).full = false) ∧
    (let s := (withChan running0 3 (busy (chainAt .moving dIn))).mapStream 3 fun c => { c with full := true }
     3 < 140 ∧ s.accessCode (rHaulChCtrl 3) = 0 ∧ (s.chan 3).chain = some ((s.chan 3).chain.getD default) ∧
       ((s.chan 3).chain.getD default).step = .moving ∧ 3 < 128 ∧ (s.world.streams.getD 3 Stream.idle).full = true ∧
       s.cringRoom 3 = true) ∧
    (let s := (withChan running0 3 (busy (chainAt .fetch dIn)))
     3 < 140 ∧ s.host.d3 = false ∧ s.accessCode (rHaulChCringSize 3) = 0 ∧ (s.chan 3).chain ≠ none) ∧
    (let s := (withChan running0 139 (busy (chainAt .fetch dIn)))
     139 < 140 ∧ s.host.d3 = false ∧ s.accessCode (rHaulChCtrl 139) = 0 ∧ (s.chan 139).paused = false ∧
       (s.chan 139).stopping = false ∧ (s.chan 139).pausing = false ∧ (s.chan 139).chain = some ((s.chan 139).chain.getD default) ∧
       ((s.chan 139).chain.getD default).step = .fetch ∧ s.cringRoom 139 = true) := by
  decide +kernel

theorem test_witness_ChannelsPauseResumeAndStop_2 :
    (let s := withChan running0 137 { busy (chainAt .fetch dPvOut) with paused := true }
     137 < 140 ∧ s.host.d3 = false ∧ s.accessCode (rHaulChCtrl 137) = 0 ∧
       (s.chan 137).chain = some ((s.chan 137).chain.getD default) ∧ (s.chan 137).paused = true ∧
       ((s.chan 137).chain.getD default).step = .fetch) ∧
    (let s := withChan running0 130 { busy (chainAt .flush dNext) with stopping := true }
     let h := (s.chan 130).chain.getD default
     130 < 140 ∧ s.host.d3 = false ∧ (s.chan 130).sending = none ∧ (s.chan 130).chain = some h ∧ h.step = .flush ∧
       h.isEnd = false ∧ h.ctrl 14 14 = 0 ∧ s.cringRoom 130 = true ∧ (s.chan 130).stopping = true) ∧
    (let s := withChan running0 130 { busy (chainAt .flush dNext) with pausing := true }
     let h := (s.chan 130).chain.getD default
     130 < 140 ∧ s.host.d3 = false ∧ (s.chan 130).sending = none ∧ (s.chan 130).chain = some h ∧ h.step = .flush ∧
       h.isEnd = false ∧ h.ctrl 14 14 = 0 ∧ s.cringRoom 130 = true ∧ (s.chan 130).stopping = false ∧
       (s.chan 130).pausing = true) := by
  decide +kernel

theorem test_witness_ChannelsPauseResumeAndStop_3 :
    (let s := (withChan running0 3 Chan.idle).setReg (rHaulChCringHead 3) 16
     3 < 140 ∧ s.accessCode (rHaulChCtrl 3) = 0 ∧ (s.chan 3).paused = false ∧ (s.chan 3).stopping = false ∧
       (s.chan 3).pausing = false ∧ (s.chan 3).chain = none ∧ s.cringRoom 3 = false) ∧
    (let s := withChan running0 130 { busy (chainAt .flush dOut) with stopping := true, pausing := true }
     let h := (s.chan 130).chain.getD default
     (s.chan 130).sending = none ∧ (s.chan 130).chain = some h ∧ h.step = .flush ∧ h.isEnd = true ∧
       h.ctrl 14 14 = 0 ∧ s.cringRoom 130 = true ∧ (s.chan 130).stopping = true) ∧
    (let s := withChan running0 130 { busy (chainAt .flush dOut) with pausing := true }
     let h := (s.chan 130).chain.getD default
     (s.chan 130).sending = none ∧ (s.chan 130).chain = some h ∧ h.step = .flush ∧ h.isEnd = true ∧
       h.ctrl 14 14 = 0 ∧ s.cringRoom 130 = true ∧ (s.chan 130).stopping = false ∧ (s.chan 130).pausing = true ∧
       s.host.up = true ∧
       (s.reg (rHaulChCringHead 130) + 1 - s.reg (rHaulChCringTail 130)).toNat ≠ s.cringSize 130) := by
  decide +kernel

theorem test_witness_WindowBaseIsWritten :
    (let s := running0
     s.host.d3 = false ∧ s.accessCode rHostWinBaseHi = 0) ∧
    (let s := running0
     s.host.d3 = false ∧ s.accessCode rHostWinBaseLo = 0) := by
  decide +kernel

/-- A window on the Gallery, its accesses free. -/
def winG : State := running0.setReg rHostWinBaseHi 0x4000

theorem test_witness_WindowReads :
    (let s := winG
     let g := (s.windowAddr 64).getD default
     s.host.d3 = false ∧ s.windowWrites = false ∧ s.host.reads = [] ∧
       s.accStalls (s.readAcc 64 8 ⟨0, []⟩) = false ∧ s.windowAddr 64 = some g ∧ nodeOf g = s.node ∧
       s.crossDown none (localOf g / 8 * 8) (ceilDiv (localOf g % 8 + 8) 8 * 8) = false ∧
       s.opStatus (localOf g / 8 * 8) (ceilDiv (localOf g % 8 + 8) 8 * 8) = 0) ∧
    (let s := running0.setReg rHostWinBaseHi 0x7000
     let g := (s.windowAddr 67).getD default
     s.host.d3 = false ∧ s.windowWrites = false ∧ s.host.reads = [] ∧
       s.accStalls (s.readAcc 67 4 ⟨0, []⟩) = false ∧ s.windowAddr 67 = some g ∧ nodeOf g = s.node ∧
       s.crossDown none (localOf g / 8 * 8) (ceilDiv (localOf g % 8 + 4) 8 * 8) = false ∧
       s.opStatus (localOf g / 8 * 8) (ceilDiv (localOf g % 8 + 4) 8 * 8) ≠ 0) ∧
    (let s : State := { winG with d0 := { winG.d0 with hubUp := false } }
     let g := (s.windowAddr 64).getD default
     s.windowWrites = false ∧ s.host.reads = [] ∧ s.accStalls (s.readAcc 64 8 ⟨0, []⟩) = false ∧
       s.windowAddr 64 = some g ∧ nodeOf g = s.node ∧
       s.crossDown none (localOf g / 8 * 8) (ceilDiv (localOf g % 8 + 8) 8 * 8) = true) ∧
    (let s := lk.setReg rHostWinBaseHi 0x20000
     s.windowWrites = false ∧ s.host.reads = [] ∧ s.accStalls (s.readAcc 64 8 ⟨0, []⟩) = false ∧
       s.windowAddr 64 = some ((s.windowAddr 64).getD default) ∧ nodeOf ((s.windowAddr 64).getD default) ≠ s.node) ∧
    (let s := ({ stopped0 with dev := .boot })
     s.host.d3 = false ∧ s.windowWrites = false ∧ s.host.reads = [] ∧
       s.accStalls (s.readAcc 4194304 8 ⟨0, []⟩) = false ∧ s.windowAddr 4194304 = none) ∧
    (let s : State := { lk with kl := { lk.kl with ops := [⟨5, .window true 0 8, 0⟩] } }
     s.host.d3 = false ∧ s.windowWrites = true) ∧
    (let s : State := { lk with host := { lk.host with reads := [windowFence] }, kl := { lk.kl with ops := [⟨5, .window false 0 8, 0⟩] } }
     s.host.d3 = false ∧ s.fenceWaits = true) ∧
    (let s := running0.setReg (rDmcInitFront .s0) 0
     s.host.d3 = false ∧ s.host.reads = [] ∧ s.accStalls (s.readAcc 64 8 ⟨0, []⟩) = true) := by
  decide +kernel

theorem test_witness_WindowWrites :
    (let s := winG
     let w : WinWrite := ⟨[1, 2], [], []⟩
     let g := (s.windowAddr 65).getD default
     s.host.d3 = false ∧ s.windowWrites = false ∧ s.host.reads = [] ∧
       s.accStalls (s.writeAcc 65 w) = false ∧ s.windowAddr 65 = some g ∧ nodeOf g = s.node ∧
       localOf g + w.data.length ≤ 2 ^ 48 ∧ w.raced = [] ∧ w.data ≠ [] ∧
       localOf g / 4096 = (localOf g + w.data.length - 1) / 4096 ∧
       s.crossDown none (localOf g / 8 * 8) (ceilDiv (localOf g % 8 + w.data.length) 8 * 8) = false ∧
       s.writeStatus (localOf g / 8 * 8) (ceilDiv (localOf g % 8 + w.data.length) 8 * 8) = 0) ∧
    (let s := running0.setReg rHostWinBaseHi 0x7000
     let w : WinWrite := ⟨[1, 2], [64], []⟩
     let g := (s.windowAddr 65).getD default
     s.windowWrites = false ∧ s.host.reads = [] ∧
       s.accStalls (s.writeAcc 65 w) = false ∧ s.windowAddr 65 = some g ∧ nodeOf g = s.node ∧
       localOf g + w.data.length ≤ 2 ^ 48 ∧ w.data ≠ [] ∧ localOf g / 4096 = (localOf g + w.data.length - 1) / 4096 ∧
       s.crossDown none (localOf g / 8 * 8) (ceilDiv (localOf g % 8 + w.data.length) 8 * 8) = false ∧
       s.writeStatus (localOf g / 8 * 8) (ceilDiv (localOf g % 8 + w.data.length) 8 * 8) ≠ 0) ∧
    (let s := lk.setReg rHostWinBaseHi 0x20000
     s.windowWrites = false ∧ s.host.reads = [] ∧ s.accStalls (s.writeAcc 64 ⟨[1], [], []⟩) = false ∧
       s.windowAddr 64 = some ((s.windowAddr 64).getD default) ∧ nodeOf ((s.windowAddr 64).getD default) ≠ s.node) ∧
    (let s : State := { stopped0 with dev := .boot }
     s.host.d3 = false ∧ s.windowWrites = false ∧ s.host.reads = [] ∧
       s.accStalls (s.writeAcc 4194304 ⟨[1], [], []⟩) = false ∧ s.windowAddr 4194304 = none) ∧
    (let s : State := { lk with host := { lk.host with reads := [windowFence] }, kl := { lk.kl with ops := [⟨5, .window false 0 8, 0⟩] } }
     s.host.d3 = false ∧ s.fenceWaits = true) := by
  decide +kernel

theorem test_witness_AccessesNeedWholeAlignedWords :
    (let s := running0
     0x20024 < 0x4000000 ∧ s.host.d3 = false ∧ ¬(8 = 8 ∧ 0x20024 % 8 = 0) ∧ ¬(8 = 4 ∧ 0x20024 % 4 = 0 ∧
       255 % 16 = 15) ∧ 2 = (if (8 = 2 ∨ 8 = 4 ∨ 8 = 8) ∧ 0x20024 % 8 ≠ 0 then 2 else 1)) ∧
    (let s := running0
     0x3FFFFFC < 0x4000000 ∧ s.host.d3 = false ∧ ¬(4 = 8 ∧ 0x3FFFFFC % 8 = 0) ∧ ¬(4 = 4 ∧ 0x3FFFFFC % 4 = 0 ∧
       7 % 16 = 15) ∧ 1 = (if (4 = 2 ∨ 4 = 4 ∨ 4 = 8) ∧ 0x3FFFFFC % 4 ≠ 0 then 2 else 1)) ∧
    (let s := running0
     s.host.d3 = false ∧ 0x20020 % 8 = 0 ∧
       after (exec (.registerWrite 0x20020 4 15 1 2) s) (fun m => !m.host.d3) = true ∧
       after (exec (.captureRead 0x20020 4 15) s) (fun m => !m.host.d3) = true) := by
  decide +kernel

theorem test_witness_RegisterWrites :
    (let s := running0
     0x20024 < 0x4000000 ∧ s.host.d3 = false ∧ 0x20024 < 0x1000000 ∧ 0x20024 % 4 = 0 ∧ 15 % 16 = 15 ∧
       s.accessCode 0x20024 = 0 ∧ findReg 0x20024 = some regFull ∧ regFull.sh = 0 ∧ regFull.wo = 0 ∧ regFull.w1p = 0 ∧
       regFull.rwl = 0 ∧ canonical 0x20024 = 0x20024 ∧ 0 ≠ canonical 0x20024) ∧
    (let s := running0
     0xFFFFFC < 0x1000000 ∧ 0xFFFFFC % 4 = 0 ∧ s.accessCode 0xFFFFFC ≠ 0 ∧ s.host.d3 = false) ∧
    (let s : State := { stopped0 with host := { stopped0.host with d3 := true } }
     s.host.d3 = true) := by
  decide +kernel

theorem test_witness_ShadowedWritesArePending :
    (let s := pend0
     s.host.d3 = false ∧ findReg rTickPeriod = some regPeriod ∧ regPeriod.sh ≠ 0 ∧ s.accessCode rTickPeriod = 0 ∧
       rTickPeriod % 4 = 0 ∧ rTickPeriod < 0x1000000 ∧ ∃ p ∈ s.sh, p.off ≠ canonical rTickPeriod) := by
  decide +kernel

theorem test_witness_AliasesActOnNamedBits :
    (let s := stopped0
     s.host.d3 = false ∧ 0x20024 < 0x1000000 ∧ 0x20024 % 4 = 0 ∧ s.windowMode = false ∧
       findReg 0x20024 = some regFull ∧ s.accessCode 0x20024 = 0 ∧ regFull.sh = 0 ∧ regFull.wo = 0 ∧ regFull.w1p = 0 ∧
       regFull.rwl = 0 ∧ canonical 0x20024 = 0x20024 ∧ ∀ p ∈ s.sh, p.off ≠ canonical 0x20024) ∧
    (let s := stopped0
     s.host.d3 = false ∧ rGlbCmd < 0x1000000 ∧ rGlbCmd % 4 = 0 ∧ s.windowMode = false ∧
       findReg rGlbCmd = some regCmd ∧ s.accessCode rGlbCmd = 0 ∧ regCmd.wo ≠ 0) := by
  decide +kernel

theorem test_witness_BitWindowReachesOneBit :
    (let s := winS
     let addr := 0x1000000 + 0x24 * 32 + 31 * 4
     s.host.d3 = false ∧ 0x1000000 ≤ addr ∧ addr < 0x4000000 ∧ addr % 4 = 0 ∧ s.windowMode = true ∧
       s.windowBit addr = (0x20024, 31) ∧ 0x20024 < 0x1000000 ∧ findReg 0x20024 = some regFull ∧
       s.accessCode 0x20024 = 0 ∧ regFull.sh = 0 ∧ regFull.wo = 0 ∧ regFull.w1p = 0 ∧ regFull.rwl = 0 ∧
       canonical 0x20024 = 0x20024 ∧ 0 ≠ canonical 0x20024) ∧
    (let s := winT
     let addr := 0x1000000 + 0x10000 * 32
     s.host.d3 = false ∧ 0x1000000 ≤ addr ∧ addr < 0x4000000 ∧ addr % 4 = 0 ∧ s.windowMode = true ∧
       s.windowBit addr = (0x1000000, 0) ∧ 0x1000000 ≤ 0x1000000) ∧
    (let s := winS
     let addr := 0x1000000 + 0x20 * 32
     0x1000000 ≤ addr ∧ addr % 4 = 0 ∧ s.windowMode = true ∧ s.windowBit addr = (0x20020, 0) ∧
       s.accessCode 0x20020 = 0 ∧ isHiWord (canonical 0x20020) = false ∧ s.parityKnown (canonical 0x20020)) := by
  decide +kernel

theorem test_witness_ReadsClearAndCapture :
    (let s := stopped0
     s.host.d3 = false ∧ rTickTimeLo < 0x1000000 ∧ rTickTimeLo % 4 = 0 ∧ s.accessCode rTickTimeLo = 0 ∧
       isHiWord (canonical rTickTimeLo) = false ∧ s.parityKnown (canonical rTickTimeLo) ∧ 0 ≠ canonical rTickTimeLo) ∧
    (let s := stopped0
     s.host.d3 = false ∧ rTickTimeLo < 0x1000000 ∧ rTickTimeLo % 4 = 0 ∧ s.accessCode rTickTimeLo = 0 ∧
       isHiWord (canonical rTickTimeLo) = false ∧ s.parityKnown (canonical rTickTimeLo) ∧
       isLoWord (canonical rTickTimeLo) = true) ∧
    (let s : State := { stopped0 with latches := [(rTickTimeLo, 7)] }
     s.host.d3 = false ∧ rTickTimeHi < 0x1000000 ∧ rTickTimeHi % 4 = 0 ∧ s.accessCode rTickTimeHi = 0 ∧
       isHiWord (canonical rTickTimeHi) = true ∧ List.find? (fun l => l.1 == canonical rTickTimeHi - 4) s.latches =
       some (canonical rTickTimeHi - 4, ((List.find? (fun l => l.1 == canonical rTickTimeHi - 4) s.latches).getD
       default).2)) := by
  decide +kernel

theorem test_witness_LockFreezesRegisters :
    (let s := stopped0
     s.host.d3 = false ∧ s.accessCode rGlbAliasMode = 0) ∧
    (let s := stopped0
     s.host.d3 = false ∧ s.accessCode rGlbBitwinBase = 0) ∧
    (let s := stopped0
     s.host.d3 = false ∧ s.accessCode rGlbLock = 0) ∧
    (let s := stopped0
     s.host.d3 = false ∧ s.accessCode rSecLock = 0 ∧ 0 < 2) := by
  decide +kernel

theorem test_witness_PortsTrainAndFail :
    (let s := linked running0
     0 < 6 ∧ s.portRequired 0 = true ∧ s.kl.coordBad = false ∧ (s.port 0).up = true ∧ (s.port 0).cut = none ∧
       after (exec (.train 0 0 0 0) s) (fun u => (u.port 0).miswired) = true ∧
       after (exec (.train 0 2 0 0) s) (fun u => !(u.port 0).miswired) = true) ∧
    (let s := withPort (linked running0) 1 Port.idle
     1 < 6 ∧ s.portRequired 1 = true ∧ s.kl.coordBad = false ∧ (s.port 1).up = false ∧ 0 ≠ 1) ∧
    (let s := linked running0
     0 < 6 ∧ 0 < 5 ∧ (s.port 0).up = true ∧ (s.port 0).lanes / 2 ^ 0 % 2 = 0 ∧ 0 < 4 ∧ (s.port 0).spare = false ∧
       (s.port 0).lanes / 16 % 2 = 0) ∧
    (let s := withPort (linked running0) 0 { upPort with lanes := 16 }
     0 < 6 ∧ 0 < 5 ∧ (s.port 0).up = true ∧ (s.port 0).lanes / 2 ^ 0 % 2 = 0 ∧ ((s.port 0).spare = true ∨ 0 < 4 ∧
       (s.port 0).lanes / 16 % 2 = 1)) ∧
    (let s := withPort (linked running0) 0 { upPort with spare := true, lanes := 1 }
     3 < 5 ∧ (s.port 0).up = true ∧ (s.port 0).lanes / 2 ^ 3 % 2 = 0 ∧ (s.port 0).spare = true) ∧
    (let s := linked running0
     4 < 5 ∧ (s.port 1).up = true ∧ (s.port 1).lanes / 2 ^ 4 % 2 = 0 ∧ (s.port 1).spare = false) := by
  decide +kernel

theorem test_witness_FlitsAreAcknowledgedOrRefused :
    (let s := linked running0
     let bytes := flitOf ((packetBytes 1 0 2 5 (64 + 2 ^ 48) (List.replicate 100 1)).take 60)
     let load := bytes.take 60
     0 < 6 ∧ bytes.length = 64 ∧ s.portOpen 0 = true ∧ (s.port 0).fails = 0 ∧
       BitVec.toNat (crc32 load) = fieldU bytes 60 4 ∧ (s.port 0).cut = none ∧ s.wayThrough 0 load = none ∧
       s.kl.bcasting = false ∧ ((s.port 0).part ++ load).length < 16 + packetData ((s.port 0).part ++ load)) ∧
    (let s := withPort (linked running0) 0 { upPort with fails := 2 }
     let bytes := flitOf (packetBytes 3 0 2 5 (64 + 2 ^ 48) (List.replicate 44 1))
     let load := bytes.take 60
     0 < 6 ∧ bytes.length = 64 ∧ s.portOpen 0 = true ∧ BitVec.toNat (crc32 load) = fieldU bytes 60 4 ∧
       (s.port 0).cut = none ∧ s.wayThrough 0 load = none ∧
       16 + packetData ((s.port 0).part ++ load) ≤ ((s.port 0).part ++ load).length) ∧
    (let s := linked running0
     let load := goodFlit.take 60
     0 < 6 ∧ goodFlit.length = 64 ∧ s.portOpen 0 = true ∧ (s.port 0).fails = 0 ∧
       BitVec.toNat (crc32 load) = fieldU goodFlit 60 4 ∧ (s.port 0).cut = none ∧ (s.port 0).part = [] ∧
       s.wayThrough 0 load = some ([(1, 0)], false) ∧ (16 + packetData load + 59) / 60 = 2) ∧
    (let s := withPort (linked running0) 0 { upPort with cut := some ⟨[(1, 0)], false, 0, false, 1⟩ }
     let load := goodFlit.take 60
     s.portOpen 0 = true ∧ (s.port 0).fails = 0 ∧ BitVec.toNat (crc32 load) = fieldU goodFlit 60 4 ∧
       (s.port 0).cut = some ⟨[(1, 0)], false, 0, false, 1⟩) := by
  decide +kernel

theorem test_witness_FlitsAreAcknowledgedOrRefused_2 :
    (let s := linked running0
     let bytes := flitOf ((packetBytes 9 0 2 0 gal (List.replicate 100 1)).take 60)
     let load := bytes.take 60
     s.portOpen 0 = true ∧ (s.port 0).fails = 0 ∧ BitVec.toNat (crc32 load) = fieldU bytes 60 4 ∧ (s.port 0).cut = none ∧
       (s.port 0).part = [] ∧ (s.wayThrough 0 load).map (·.2) = some true ∧ 1 < (16 + packetData load + 59) / 60) ∧
    (let s := linked running0
     let bytes : List Byte := List.replicate 64 3
     0 < 6 ∧ bytes.length = 64 ∧ s.portOpen 0 = true ∧ BitVec.toNat (crc32 (List.take 60 bytes)) ≠ fieldU bytes 60 4 ∧
       (s.port 0).fails = 0) ∧
    (let s := withPort (linked running0) 0 { upPort with fails := 2 }
     let bytes : List Byte := List.replicate 64 3
     s.portOpen 0 = true ∧ BitVec.toNat (crc32 (List.take 60 bytes)) ≠ fieldU bytes 60 4 ∧ (s.port 0).fails < 3 ∧
       (s.port 0).fails ≠ 0) ∧
    (let s := withPort (linked running0) 0 { upPort with fails := 3 }
     let bytes : List Byte := List.replicate 64 3
     0 < 6 ∧ bytes.length = 64 ∧ s.portOpen 0 = true ∧ BitVec.toNat (crc32 (List.take 60 bytes)) ≠ fieldU bytes 60 4 ∧
       3 ≤ (s.port 0).fails) ∧
    (let s := withPort (linked running0) 0 { upPort with miswired := true }
     0 < 6 ∧ goodFlit.length = 64 ∧ s.portOpen 0 = false) := by
  decide +kernel

theorem test_witness_AcknowledgementsAndCredits :
    (let s := withPort (linked running0) 0 replayP
     0 < 6 ∧ s.portOpen 0 = true ∧ ((s.port 0).replay.any fun f => f.1 == 4) = true ∧ (s.port 0).waiting = [] ∧
       (s.port 0).naks < 3 ∧ 0 < 2) ∧
    (let s := withPort (linked running0) 0 { replayP with naks := 3 }
     s.portOpen 0 = true ∧ ((s.port 0).replay.any fun f => f.1 == 7) = true ∧
       Option.map (fun x => x.1) (s.port 0).replay.head? ≠ some 7 ∧
       after (exec (.nak 0 7) s) (fun u => (u.port 0).replay.contains (7, sentFlit 1)) = true) ∧
    (let s := withPort (linked running0) 0 replayP
     0 < 6 ∧ s.portOpen 0 = true ∧ ((s.port 0).replay.any fun f => f.1 == 9) = false ∧ (s.port 0).waiting = [] ∧
       1 < 2) ∧
    (let s := withPort (linked running0) 0 { upPort with credit1 := 0, waiting := [sentFlit 1] }
     s.portOpen 0 = true ∧ (s.port 0).waiting = sentFlit 1 :: [] ∧ (sentFlit 1).vc = 1 ∧ 1 ≤ 1 ∧
       (s.port 0).replay.length < 64 ∧ (s.port 0).blocks (sentFlit 1) = false ∧ 1 < 2) ∧
    (let f : WaitFlit := ⟨0, true, false, goodFlit, false, 3, 1, 0⟩
     let s := withPort (linked running0) 0 { upPort with credit0 := 0, waiting := [f] }
     s.portOpen 0 = true ∧ (s.port 0).waiting = f :: [] ∧ f.vc = 0 ∧ (s.port 0).blocks f = false ∧ f.src < 6 ∧
       (s.port f.src).up = true ∧
       ∀ p ∈ [1, 2, 3, 4, 5], (s.port p).waiting = []) ∧
    (let s := withPort (linked running0) 0 { replayP with naks := 3 }
     0 < 6 ∧ s.portOpen 0 = true ∧ ((s.port 0).replay.any fun f => f.1 == 4) = true ∧
       Option.map (fun x => x.1) (s.port 0).replay.head? = some 4 ∧ 3 ≤ (s.port 0).naks) ∧
    (let s := withPort (linked running0) 0 { replayP with miswired := true }
     0 < 6 ∧ s.portOpen 0 = false) := by
  decide +kernel

theorem test_witness_BarrierGathersAndReleases :
    (let s := running0
     0 < 6 ∧ s.host.d3 = false ∧ s.accessCode rKlinkGopCtrl = 0 ∧ s.kl.entered = false ∧
       (s.image.bind fun x => x.links) = none) ∧
    (let s := lk
     0 < 6 ∧ true ≠ s.kl.epoch) ∧
    (let s := lk
     0 < 6 ∧ s.host.d3 = false ∧ s.accessCode rKlinkGopCtrl = 0 ∧ s.kl.entered = false ∧
       (s.treePorts.any fun p => !s.kl.gathered.contains p) = true) ∧
    (let s := lk
     0 < 6 ∧ s.portOpen 0 = true ∧ s.treePorts.contains 0 = true ∧ s.kl.gathered.contains 0 = false ∧
       s.kl.entered = false) ∧
    (let s : State := { lk with kl := { lk.kl with entered := true } }
     1 < 6 ∧ s.host.d3 = false ∧ s.accessCode rKlinkGopCtrl = 0 ∧ s.kl.entered = true) ∧
    (let s : State := { lk with kl := { lk.kl with entered := true } }
     1 < 6 ∧ s.portOpen 1 = true ∧ s.kl.entered = true ∧ s.parentPort = some 1) := by
  decide +kernel

theorem test_witness_BroadcastsReachThisNode :
    (let s := running0
     s.host.d3 = false ∧ s.accessCode rKlinkGopCtrl = 0 ∧ s.kl.bcasting = false ∧ s.soundAt bcastRegs = true ∧
       (s.image.bind fun x => x.links) = none ∧
       after (exec .bcast s) (fun u => !u.kl.bcasting) = true) ∧
    (let s : State := { running0 with kl := { running0.kl with bcasting := true } }
     s.host.d3 = false ∧ s.accessCode rKlinkGopCtrl = 0 ∧ s.kl.bcasting = true) ∧
    (let s := running0
     let data : List Byte := [1, 2, 3, 4, 5, 6, 7, 8]
     s.servesNow 2 [(localOf (gal + 64), data.length)] = true ∧ s.crossDown none (localOf (gal + 64)) data.length = false ∧
       s.writeStatus (localOf (gal + 64)) data.length = 0 ∧
       (gal + 63 < localOf (gal + 64) ∨ localOf (gal + 64) + data.length ≤ gal + 63) ∧
       (gal + 72 < localOf (gal + 64) ∨ localOf (gal + 64) + data.length ≤ gal + 72)) ∧
    (let s := running0
     let data : List Byte := [1, 2, 3, 4, 5, 6, 7, 8]
     s.servesNow 2 [(localOf (gal + 68), data.length)] = true ∧ s.writeStatus (localOf (gal + 68)) data.length ≠ 0) ∧
    (let s := running0.setReg (rDmcInitFront .s0) 0
     s.servesNow 2 [(localOf 8192, 8)] = false) ∧
    (let s := treeLinked running0
     s.node = 0 ∧ ((s.portsFrom 0).any fun p => s.portOpen p) = true) := by
  decide +kernel

theorem test_witness_SnapshotIsTakenInTime :
    (let s := lk
     s.kl.snapAt = none ∧ s.kl.snapDue = none ∧ 3 = s.tick.next - s.tick.next % 2 ^ 48 + 3 % 2 ^ 48 ∧ s.kl.snapSeen ≠ some 3 ∧
       (s.dev ≠ .running ∨ 3 < s.tick.next)) ∧
    (let s := lk
     s.kl.snapAt = none ∧ s.kl.snapDue = none ∧ 9 = s.tick.next - s.tick.next % 2 ^ 48 + 9 % 2 ^ 48 ∧ s.kl.snapSeen ≠ some 9 ∧
       s.dev = .running ∧ s.tick.next ≤ 9) ∧
    (let s := ((stopped0.setReg rKlinkSnapTickLo 9))
     s.kl.snapAt = none ∧ s.kl.snapDue = none ∧ s.host.d3 = false ∧ s.accessCode rKlinkGopCtrl = 0 ∧
       s.soundAt [rKlinkSnapTickLo, rKlinkSnapTickHi] = true ∧
       9 = s.pair rKlinkSnapTickLo rKlinkSnapTickHi ∧ (s.dev ≠ .running ∨ 9 < s.tick.next)) ∧
    (let s := ((running0.setReg rKlinkSnapTickLo 9))
     s.kl.snapAt = none ∧ s.kl.snapDue = none ∧ s.host.d3 = false ∧ s.accessCode rKlinkGopCtrl = 0 ∧
       s.soundAt [rKlinkSnapTickLo, rKlinkSnapTickHi] = true ∧
       9 = s.pair rKlinkSnapTickLo rKlinkSnapTickHi ∧ s.dev = .running ∧ s.tick.next ≤ 9) ∧
    (let s : State := { running0 with kl := { running0.kl with snapDue := some default } }
     s.kl.snapAt = none ∧ s.kl.snapDue ≠ none ∧ s.host.d3 = false ∧ s.accessCode rKlinkGopCtrl = 0) := by
  decide +kernel

theorem test_witness_FloodsStopTheNode :
    (let s := lk
     s.portOpen 0 = true ∧ s.kl.floods.contains (false, 3 % 256) = false ∧
       s.kl.floods.contains (true, 3 % 256) = false ∧ s.dev = .running ∧ s.portOpen 1 = true ∧ s.host.d3 = false ∧
       s.accessCode rKlinkGopCtrl = 0) ∧
    (let s : State := { lk with dev := .hold }
     s.portOpen 1 = true ∧ s.kl.floods.contains (false, 300 % 256) = false ∧ s.dev = .hold ∧ s.portOpen 0 = true) ∧
    (let s : State := { lk with dev := .stopped }
     s.portOpen 1 = true ∧ s.kl.floods.contains (false, 300 % 256) = false ∧ s.dev ≠ .running ∧ s.dev ≠ .hold ∧
       s.host.d3 = false ∧ s.accessCode rKlinkGopCtrl = 0) ∧
    (let s : State := { lk with kl := { lk.kl with floods := [(false, 44), (true, 44)] } }
     s.portOpen 1 = true ∧ s.kl.floods.contains (false, 300 % 256) = true ∧
       s.kl.floods.contains (true, 300 % 256) = true) := by
  decide +kernel

theorem test_witness_OperationsAreServedHere :
    (let s := lk
     let addr := gal + 64 + 2 ^ 48
     let data : List Byte := [1, 2, 3, 4, 5, 6, 7, 8]
     nodeOf addr = s.node ∧ s.servesNow 2 [(localOf addr, data.length)] = true ∧
       s.crossDown none (localOf addr) data.length = false ∧
       s.writeStatus (localOf addr) data.length = 0 ∧ s.servesNow 2 [(localOf addr, 16)] = true ∧
       s.crossDown none (localOf addr) 16 = false ∧
       s.opStatus (localOf addr) 16 = 0 ∧ areaOf (localOf addr) 16 = some (.gallery .s0 64)) ∧
    (let s := running0
     let addr := gal + 68
     nodeOf addr = s.node ∧ s.servesNow 2 [(localOf addr, 8)] = true ∧ s.crossDown none (localOf addr) 8 = false ∧
       s.writeStatus (localOf addr) 8 ≠ 0 ∧ s.opStatus (localOf addr) 8 ≠ 0) ∧
    (let s := world0 []
     let addr := 4096
     nodeOf addr = s.node ∧ s.servesNow 2 [(localOf addr, 8)] = true ∧ s.crossDown none (localOf addr) 8 = false ∧
       s.opStatus (localOf addr) 8 = 0 ∧ (s.guardHit (localOf addr) 8).isSome = true ∧
       s.writeStatus (localOf addr) 8 ≠ 0) ∧
    (let s := running0.setReg (rDmcInitFront .s0) 0
     nodeOf 8192 = s.node ∧ s.servesNow 2 [(localOf 8192, 8)] = false) := by
  decide +kernel

theorem test_witness_SignalCountsAnArrival :
    (let s := lk
     let data : List Byte := []
     let addr := gal + 64 + 2^48
     let ctr := gal + 128 + 2^48
     nodeOf addr = s.node ∧ s.servesNow 2 [(localOf ctr, 8)] = true ∧
       (data ≠ [] → s.crossDown none (localOf addr) data.length = false) ∧
       s.crossDown none (localOf ctr) 8 = false ∧ s.signalStatus (localOf addr) data (localOf ctr) = 0 ∧
       areaOf (localOf ctr) 8 = some (.gallery .s0 128)) ∧
    (let s := lk
     let data : List Byte := [1,2,3,4,5,6,7,8]
     let addr := gal + 64 + 2^48
     let ctr := gal + 4 + 2^48
     nodeOf addr = s.node ∧ s.servesNow 2 [(localOf addr, data.length), (localOf ctr, 8)] = true ∧
       (data ≠ [] → s.crossDown none (localOf addr) data.length = false) ∧
       s.crossDown none (localOf ctr) 8 = false ∧ s.signalStatus (localOf addr) data (localOf ctr) ≠ 0) ∧
    (let s := lk
     let data : List Byte := [1,2,3,4,5,6,7,8]
     let addr := gal + 64 + 2 ^ 48
     let ctr := gal + 0x3B00018 + 2 ^ 48
     nodeOf addr = s.node ∧ s.servesNow 2 [(localOf addr, data.length), (localOf ctr, 8)] = true ∧
       (data ≠ [] → s.crossDown none (localOf addr) data.length = false) ∧
       s.crossDown none (localOf ctr) 8 = false ∧ s.signalStatus (localOf addr) data (localOf ctr) = 0 ∧
       areaOf (localOf ctr) 8 = some (.counters .s0 24)) := by
  decide +kernel

theorem test_witness_OperationsForOthersPassOn :
    (let s := lk
     nodeOf gal ≠ s.node ∧ (s.usablePort (nodeOf gal)).isSome = true ∧ 65535 < 65536 ∧ 64 < 65536) ∧
    (let s : State := { lk with kl := { lk.kl with ports := [] } }
     let addr := 2 * 2 ^ 48
     nodeOf addr ≠ s.node ∧ s.usablePort (nodeOf addr) = none ∧ 0 < 65536) := by
  decide +kernel

theorem test_witness_FencesAndResponses :
    (let s := withOp ⟨0, .mover .s0, 0⟩
     s.outstanding 0 = false ∧ s.outstanding 204 = true ∧ s.host.reads = [] ∧ s.outstanding 210 = false ∧ List.find? (fun o => o.tag == 1) s.kl.ops = none) ∧
    (let s : State := { withOp ⟨5, .mover .s0, 0⟩ with kl := { lk.kl with ops := [⟨5, .mover .s0, 0⟩], fences := [204] } }
     List.find? (fun o => o.tag == 5) s.kl.ops = some ⟨5, .mover .s0, 0⟩ ∧ s.fenced 204 = true ∧
       ∀ q ∈ s.kl.ops, q.tag ≠ 5 → q.issuer.number ≠ 204) ∧
    (let s : State := withChan { running0 with kl := { running0.kl with fences := [137] } } 137
       (busy (chainAt .moving dPvIn))
     s.fenced 137 = true ∧ s.chainOf 137 = some (chainAt .moving dPvIn) ∧ (chainAt .moving dPvIn).step = .moving ∧
       137 < 204) ∧
    (let s := withOp ⟨5, .window false 3 8, 0⟩
     s.host.reads = [] ∧ List.find? (fun o => o.tag == 5) s.kl.ops = some ⟨5, .window false 3 8, 0⟩) ∧
    (let s := withOp ⟨5, .window true 3 8, 0⟩
     s.host.reads = [] ∧ List.find? (fun o => o.tag == 5) s.kl.ops = some ⟨5, .window true 3 8, 0⟩) ∧
    (let s := withOp ⟨5, .merge 3 (gal + 3 + 2 * 2 ^ 48) [1, 2] none, 0⟩
     List.find? (fun o => o.tag == 5) s.kl.ops = some ⟨5, .merge 3 (gal + 3 + 2 * 2 ^ 48) [1, 2] none, 0⟩ ∧
       s.usablePort (nodeOf (gal + 3 + 2 * 2 ^ 48)) ≠ none) ∧
    (let w : SelWork := ⟨0, { selDesc 7 4 1 with dst := gal + 2 * 2 ^ 48 }, true, true, 0, 1, 0, []⟩
     let s : State := { lk with d0 := { lk.d0 with sel := [w] }
                                kl := { lk.kl with ops := [⟨5, .chain .s0 0 0xFFFF 0 (gal + 2*2^48) 4, 0⟩] } }
     List.find? (fun o => o.tag == 5) s.kl.ops = some
       { tag := 5, issuer := Issuer.chain .s0 0 65535 0 (gal + 2 * 2 ^ 48) 4, port := 0 } ∧ 0 + 1 < 4 ∧
       min (ofLe [1#8]) 65535 ≠ 0 ∧ ((s.die .s0).sel.find? fun q => q.engine == 0 && q.started) = some w ∧
       nodeOf w.desc.dst ≠ s.node ∧ s.usablePort (nodeOf w.desc.dst) ≠ none ∧
       (s.die .s0).hubUp = true ∧ s.inFlight .s0 0 ≤ 16 ∧ s.fenced (206 + 2 * Die.s0.idx + 0) = false) ∧
    (let s := withOp ⟨5, .window false 3 8, 0⟩
     s.host.reads = [] ∧ s.outstanding 210 = true) ∧
    (let s : State := { withOp ⟨5, .window true 3 8, 0⟩ with host := { lk.host with reads := [windowFence] } }
     s.fenceWaits = true ∧ s.host.reads = [windowFence] ∧
       List.find? (fun o => o.tag == 5) s.kl.ops = some ⟨5, .window true 3 8, 0⟩ ∧
       ∀ q ∈ s.kl.ops, q.tag ≠ 5 → q.issuer.number ≠ 210) ∧
    (let s : State := { withOp ⟨5, .window true 3 8, 0⟩ with host := { lk.host with reads := [lk.readAcc 64 8 ⟨0, []⟩] } }
     s.host.reads = lk.readAcc 64 8 ⟨0, []⟩ :: [] ∧ (lk.readAcc 64 8 ⟨0, []⟩).fence = false ∧ s.windowWrites = true) := by
  decide +kernel

theorem test_witness_CrosscutsClocksAndRails :
    (let s := running0
     0 < 3 ∧ 3 ≤ 3 ∧ (if true = true then (s.die .s0).hubUp else (s.die .s0).peerUp) = true ∧
       (if false = true then (s.die .s0).hubUp else (s.die .s0).peerUp) = true) ∧
    (let s := lk
     3 < 4 ∧ (s.die .s1).hubUp = true ∧ (s.die .s1).peerUp = true ∧ (∀ w ∈ (s.die .s1).sel, w.todo = []) ∧
       (∀ w ∈ s.d0.sel ++ s.d1.sel, w.todo = []) ∧ s.nothingWaits ∧ s.world.syncing = false) ∧
    (let s : State := { running0 with world := { running0.world with syncing := true } }
     3 < 4 ∧ (s.die .s1).peerUp = true ∧ s.world.syncing = true) ∧
    (let s := running0
     (4 = 4 ∨ 4 = 5 ∧ s.d0.power = 2 ∨ 4 = 6 ∧ s.d1.power = 2) ∧
       (6 = 4 ∨ 6 = 5 ∧ s.d0.power = 2 ∨ 6 = 6 ∧ s.d1.power = 2)) ∧
    (12 < 13 ∧ stopped0.monitored 12 = true ∧ stopped0.inputsValid = true) ∧
    (let s : State := { State.reset with power := { State.reset.power with rails := 0 } }
     s.monitored 0 = true ∧ after (exec (.railWithinTolerance 0) s) (fun u => !u.inputsValid) = true) ∧
    (let s : State := { stopped0 with sec := { stopped0.sec with variant := .as } }
     8 < 13 ∧ s.monitored 8 = false) := by
  decide +kernel

theorem test_witness_ScrubRefreshAndInitialise :
    (let s := running0
     (s.die .s0).power = 2 ∧ windowArea .s0 900 4 = some (Area.gallery .s0 900) ∧ windowArea .s0 900 4 ≠ none ∧
       s.usable .s0 - 1 < s.usable .s0 ∧ bit (s.reg (rDmcStatus .s0)) 2 = false ∧ s.hasS1 = true ∧
       s.usable .s1 ≤ 1048576 * 56 ∧ s.nothingWaits ∧ s.world.held = none ∧ s.kl.snapDue = none ∧
       ∀ g ∈ [Die.s0, .s1], (s.die g).selFetch = [] ∧ ∀ w ∈ (s.die g).sel, w.started = false) := by
  decide +kernel

theorem test_witness_FirmwareIsPushed :
    (let s := stopped0
     s.host.d3 = false ∧ s.accessCode rSecCtrl = 0 ∧ s.waitPush = false) ∧
    (let s := stopped0
     s.host.d3 = false ∧ s.accessCode rSecCtrl = 0 ∧ (s.dev = .ready ∨ s.dev = .stopped) ∧ s.loading = none ∧
       s.sec.flashing = none ∧ bit (s.reg rSecLock) 1 = false ∧ s.checkFirmware s.staged.1 s.staged.2 ≠ 0) ∧
    (let s := stopped0.setReg rSecLock 2
     s.host.d3 = false ∧ s.accessCode rSecCtrl = 0 ∧ (s.dev = .ready ∨ s.dev = .stopped) ∧ s.loading = none ∧
       s.sec.flashing = none ∧ bit (s.reg rSecLock) 1 = true) ∧
    (let s : State := { running0 with sec := { running0.sec with flashing := some [1] } }
     s.host.d3 = false ∧ s.accessCode rSecCtrl = 0 ∧ (s.dev ≠ .ready ∧
       s.dev ≠ .stopped ∨ s.loading.isSome = true ∨ s.sec.flashing.isSome = true)) ∧
    (let s : State := { running0 with sec := { running0.sec with flashing := some [1] } }
     s.sec.flashing = some (s.sec.flashing.getD default)) ∧
    (let s : State := { pushed with dev := .ready }
     s.host.d3 = false ∧ s.accessCode rSecCtrl = 0 ∧ s.waitPush = true ∧ s.dev = .ready ∧ s.loading = none ∧
       s.sec.flashing = none ∧ bit (s.reg rSecLock) 1 = false ∧ s.checkFirmware s.staged.1 s.staged.2 = 0) ∧
    (let s := State.reset.setReg rSecBoot 8
     s.waitPush = true ∧ s.checkFirmware s.staged.1 s.staged.2 ≠ 0) := by
  decide +kernel

theorem test_witness_AttestationReports :
    (let s := stopped0
     s.host.d3 = false ∧ s.accessCode rSecCtrl = 0 ∧ s.sec.report = none ∧ s.dev ≠ .boot ∧
       bits (s.reg rSecAttDst) 21 0 + 1536 ≤ 4194304) ∧
    (let s : State := { stopped0 with dev := .boot }
     s.host.d3 = false ∧ s.accessCode rSecCtrl = 0 ∧ s.sec.report = none ∧ s.dev = .boot) ∧
    (let s := stopped0.setReg rSecAttDst 0x3FFA40
     s.host.d3 = false ∧ s.accessCode rSecCtrl = 0 ∧ s.sec.report = none ∧ s.dev ≠ .boot ∧
       4194304 < bits (s.reg rSecAttDst) 21 0 + 1536) ∧
    (let s : State := { running0 with sec := { running0.sec with report := some (List.replicate 1536 1, 64) } }
     s.sec.report = some ((s.sec.report.getD default).1, (s.sec.report.getD default).2)) := by
  decide +kernel

theorem test_witness_OtpCommandsAreChecked_1 :
    (let s := stopped0
     let cmd := key 1 3 0
     s.host.d3 = false ∧ s.accessCode rSecOtpCmd = 0 ∧ (s.dev = .ready ∨ s.dev = .stopped) ∧
       bit (s.reg rSecLock) 0 = false ∧ s.loading = none ∧ s.sec.flashing = none ∧ s.sec.otp = none ∧
       bits cmd 31 16 = 0x9E27 ∧ bits cmd 3 0 = 1 ∧ bits cmd 5 4 = 3 ∧
       (s.sec.slots.getD (bits cmd 5 4) KeySlot.blank).provisioned = false ∧
       (s.sec.slots.getD (bits cmd 5 4) KeySlot.blank).partlySet = false) ∧
    (let s := slotted [{ blank0 with provisioned := true }]
     let cmd := key 1 0 0
     s.host.d3 = false ∧ s.accessCode rSecOtpCmd = 0 ∧ (s.dev = .ready ∨ s.dev = .stopped) ∧
       bit (s.reg rSecLock) 0 = false ∧ s.loading = none ∧ s.sec.flashing = none ∧ s.sec.otp = none ∧
       bits cmd 31 16 = 0x9E27 ∧ bits cmd 3 0 = 1 ∧
       (s.sec.slots.getD (bits cmd 5 4) KeySlot.blank).provisioned = true) ∧
    (let s := slotted [{ blank0 with partlySet := true, hash := [1] }]
     let cmd := key 1 0 0
     s.host.d3 = false ∧ s.accessCode rSecOtpCmd = 0 ∧ (s.dev = .ready ∨ s.dev = .stopped) ∧
       bit (s.reg rSecLock) 0 = false ∧ s.loading = none ∧ s.sec.flashing = none ∧ s.sec.otp = none ∧
       bits cmd 31 16 = 0x9E27 ∧ bits cmd 3 0 = 1 ∧ (s.sec.slots.getD (bits cmd 5 4) KeySlot.blank).partlySet = true ∧
       (s.sec.slots.getD (bits cmd 5 4) KeySlot.blank).hash ≠ s.otpData) ∧
    (let s := stopped0
     let cmd := key 2 0 0
     s.host.d3 = false ∧ s.accessCode rSecOtpCmd = 0 ∧ (s.dev = .ready ∨ s.dev = .stopped) ∧
       bit (s.reg rSecLock) 0 = false ∧ s.loading = none ∧ s.sec.flashing = none ∧ s.sec.otp = none ∧
       bits cmd 31 16 = 0x9E27 ∧ bits cmd 3 0 = 2 ∧
       (s.sec.slots.getD (bits cmd 5 4) KeySlot.blank).provisioned = false) := by
  decide +kernel

theorem test_witness_OtpCommandsAreChecked_2 :
    (let s := slotted [{ blank0 with provisioned := true }, { blank0 with provisioned := true }]
     let cmd := key 2 0 0
     s.host.d3 = false ∧ s.accessCode rSecOtpCmd = 0 ∧ (s.dev = .ready ∨ s.dev = .stopped) ∧
       bit (s.reg rSecLock) 0 = false ∧ s.loading = none ∧ s.sec.flashing = none ∧ s.sec.otp = none ∧
       bits cmd 31 16 = 0x9E27 ∧ bits cmd 3 0 = 2 ∧
       (s.sec.slots.getD (bits cmd 5 4) KeySlot.blank).provisioned = true ∧ 1 ≠ bits cmd 5 4 ∧
       (s.sec.slots.getD 1 KeySlot.blank).provisioned = true ∧ (s.sec.slots.getD 1 KeySlot.blank).revoked = false) ∧
    (let s := stopped0
     let cmd := key 3 1 63
     s.host.d3 = false ∧ s.accessCode rSecOtpCmd = 0 ∧ (s.dev = .ready ∨ s.dev = .stopped) ∧
       bit (s.reg rSecLock) 0 = false ∧ s.loading = none ∧ s.sec.flashing = none ∧ s.sec.otp = none ∧
       bits cmd 31 16 = 0x9E27 ∧ bits cmd 3 0 = 3 ∧
       (s.sec.slots.getD (bits cmd 5 4) KeySlot.blank).minSvn < bits cmd 13 8) ∧
    (let s := stopped0
     let cmd := key 3 1 0
     s.host.d3 = false ∧ s.accessCode rSecOtpCmd = 0 ∧ (s.dev = .ready ∨ s.dev = .stopped) ∧
       bit (s.reg rSecLock) 0 = false ∧ s.loading = none ∧ s.sec.flashing = none ∧ s.sec.otp = none ∧
       bits cmd 31 16 = 0x9E27 ∧ bits cmd 3 0 = 3 ∧
       bits cmd 13 8 ≤ (s.sec.slots.getD (bits cmd 5 4) KeySlot.blank).minSvn) ∧
    (let s := stopped0
     let cmd := key 4 0 5
     s.host.d3 = false ∧ s.accessCode rSecOtpCmd = 0 ∧ (s.dev = .ready ∨ s.dev = .stopped) ∧
       bit (s.reg rSecLock) 0 = false ∧ s.loading = none ∧ s.sec.flashing = none ∧ s.sec.otp = none ∧
       bits cmd 31 16 = 0x9E27 ∧ bits cmd 3 0 = 4 ∧ bits (s.reg rSecFwSvn) 5 0 < bits cmd 13 8) := by
  decide +kernel

theorem test_witness_OtpCommandsAreChecked_3 :
    (let s := stopped0.setReg rSecFwSvn 5
     let cmd := key 4 0 5
     s.host.d3 = false ∧ s.accessCode rSecOtpCmd = 0 ∧ (s.dev = .ready ∨ s.dev = .stopped) ∧
       bit (s.reg rSecLock) 0 = false ∧ s.loading = none ∧ s.sec.flashing = none ∧ s.sec.otp = none ∧
       bits cmd 31 16 = 0x9E27 ∧ bits cmd 3 0 = 4 ∧ s.sec.vendorMin < bits cmd 13 8 ∧
       bits cmd 13 8 ≤ bits (s.reg rSecFwSvn) 5 0) ∧
    (let s := stopped0
     bits (4 : Word) 3 0 = 4 ∧ bits (4 : Word) 31 16 ≠ 0x9E27 ∧ s.dev = .stopped ∧ bit (s.reg rSecLock) 0 = false ∧
       s.loading = none ∧ s.sec.flashing = none ∧ s.sec.otp = none) ∧
    (let s := stopped0.setReg rSecLock 1
     s.host.d3 = false ∧ s.accessCode rSecOtpCmd = 0 ∧ s.dev = .stopped ∧ bit (s.reg rSecLock) 0 = true) ∧
    (let s := running0
     s.host.d3 = false ∧ s.accessCode rSecOtpCmd = 0 ∧ s.dev ≠ .ready ∧ s.dev ≠ .stopped) ∧
    (let s : State := { stopped0 with sec := { stopped0.sec with flashing := some [] } }
     s.host.d3 = false ∧ s.accessCode rSecOtpCmd = 0 ∧ s.dev = .stopped ∧ bit (s.reg rSecLock) 0 = false ∧
       s.sec.flashing.isSome = true) := by
  decide +kernel

theorem test_witness_OtpCommandsEnd :
    ((otpW (.provision 2 [1, 2])).sec.otp = some (.provision 2 [1, 2]) ∧ 3 ≠ 2) ∧
    ((otpW (.revoke 0)).sec.otp = some (.revoke 0)) ∧
    ((otpW (.raise 1 63)).sec.otp = some (.raise 1 63)) ∧
    ((otpW (.raiseFw 63)).sec.otp = some (.raiseFw 63)) := by
  decide +kernel

theorem test_witness_SelfTestRuns :
    (let s := stopped0
     s.host.d3 = false ∧ s.accessCode rBistCmd = 0 ∧ bit (65535#32) 8 = true ∧ s.loading = none ∧ s.bist.run = none ∧
       (s.dev = .ready ∨ s.dev = .stopped) ∧ s.bistScopeOk (bits (65535#32) 2 0) (bits (65535#32) 5 4) = true) ∧
    (let s := running0
     s.host.d3 = false ∧ s.accessCode rBistCmd = 0 ∧ bit (65535#32) 8 = true ∧ s.loading = none ∧ s.bist.run = none ∧
       s.dev ≠ .ready ∧ s.dev ≠ .stopped) ∧
    (let s := bst 0 3 0
     s.host.d3 = false ∧ s.accessCode rBistCmd = 0 ∧ bit (65535#32) 8 = true ∧
       (s.loading.isSome = true ∨ s.bist.run.isSome = true)) ∧
    (let s := bst 0 3 0
     s.bist.run = some (s.bist.run.getD default) ∧ (s.bist.run.getD default).by_ = 0) ∧
    (let s := stopped0
     s.loading = none ∧ s.bist.run = none ∧ s.dev = .stopped ∧ bit (0x100#32) 8 = true ∧
       s.bistScopeOk (bits (0x100#32) 2 0) (bits (0x100#32) 5 4) = false) ∧
    (let s := bst 3 3 0
     s.bist.run = some ⟨3, 3, 0⟩ ∧ 67 < 68 ∧ 3 / 2 % 2 = 1 ∧ 3 % 2 = 1 ∧ 2 ≤ 3 ∧ s.dev = .stopped) ∧
    (let s := bst 3 3 0 running0
     s.bist.run = some ⟨3, 3, 0⟩ ∧ s.dev = .running ∧ s.d0.ces.length = 68 ∧
       (s.d0.ces.getD 67 CeUnit.idle).role ≠ .retired ∧ s.dev ≠ .faulted ∧ s.sys.inReset = false ∧ 3 % 2 = 1) ∧
    (let s := bst 7 3 1
     s.bist.run = some ⟨7, 3, 1⟩ ∧ bistFinds ⟨7, 3, 1⟩ ⟨1, 5, 0, false⟩ = true ∧ 5 ≤ 5) := by
  decide +kernel

theorem test_witness_ImageIsLoadedWhole :
    (let s := stopped0
     s.host.d3 = false ∧ s.accessCode rStructCtrl = 0 ∧ s.loading = none ∧ (s.dev = .ready ∨ s.dev = .stopped) ∧
       s.soundAt [rStructSrcLo, rStructSrcHi, rStructLen] = true ∧
       s.sourceOk (s.pair rStructSrcLo rStructSrcHi) (s.reg rStructLen).toNat = true) ∧
    (let s := running0
     s.host.d3 = false ∧ s.accessCode rStructCtrl = 0 ∧ s.loading = none ∧ s.dev ≠ .ready ∧ s.dev ≠ .stopped) ∧
    (let s : State := { stopped0 with loading := some ⟨0, 64, 1, [], 0, none⟩ }
     s.host.d3 = false ∧ s.accessCode rStructCtrl = 0 ∧ s.loading.isSome = true) ∧
    (let s : State := { stopped0 with loading := some ⟨0, 64, 1, [], 0, none⟩ }
     s.loading = some (s.loading.getD default) ∧ (s.loading.getD default).kept = none ∧
       loadError (s.checkLoad (s.loading.getD default) 0) = some (2, 0, 0) ∧ 1 ≤ failStep 2 0 ∧ failStep 2 0 < 2) ∧
    (let s : State := { stopped0 with loading := some ⟨0, 64, 5, [], 0, some image0⟩ }
     s.loading = some (s.loading.getD default) ∧ (s.loading.getD default).kept = some image0 ∧
       (s.sourceOk 0 64 = false ∨ s.stalled [(0, 64)] = []) ∧ 5 ≤ 5 ∧ (s.loading.getD default).step ≠ 6) ∧
    (let s : State := { stopped0 with loading := some ⟨0, 64, 6, [], 0, some image0⟩ }
     s.loading = some (s.loading.getD default) ∧ (s.loading.getD default).kept = some image0 ∧
       (s.sourceOk 0 64 = false ∨ s.stalled [(0, 64)] = []) ∧ (s.loading.getD default).step = 6) := by
  decide +kernel

theorem test_witness_LogIsWritten :
    (let s := lg [te 5] none [w1] 0
     s.tally.ready = true ∧ s.tally.staged.length ≤ 7 ∧ (∀ e ∈ s.tally.staged, e.sev ≤ 2) ∧ 1 ≤ (te 5).seq ∧
       ({ s with tally := { s.tally with nextSeq := 6 } } : State).tally.nextSeq = (te 5).seq + 1 ∧
       (∀ x ∈ s.tally.written, x.1 < 6) ∧ ∀ e ∈ s.tally.staged, e.seq < 6) ∧
    (let s := lg [te 5, te 6] none [] 0
     s.tally.staged = te 5 :: [te 6] ∧ s.tally.ready = true ∧ s.tally.erasing ≠ some (tallySector (te 5).seq) ∧
       s.tally.entered (te 5).seq = false ∧ s.tally.lost = 0) ∧
    (let s := lg [te 64, te 65] none [w1] 7
     s.tally.staged = te 64 :: [te 65] ∧ s.tally.ready = true ∧ s.tally.erasing ≠ some (tallySector (te 64).seq) ∧
       s.tally.entered (te 64).seq = true ∧ (∀ x ∈ s.tally.written, x.1 < (te 64).seq) ∧ s.tally.lost ≠ 0 ∧
       s.tally.supp.1 = 0 ∧ [te 65].length < 4096) ∧
    (let s := lg [te 64, te 65] none [w1] 7
     let s : State := { s with tally := { s.tally with supp := (1, s.tally.supp.2) } }
     s.tally.staged = te 64 :: [te 65] ∧ s.tally.ready = true ∧ s.tally.erasing ≠ some (tallySector (te 64).seq) ∧
       s.tally.lost ≠ 0 ∧ s.tally.supp.1 ≠ 0 ∧ [te 65].length < 4095) ∧
    (let s := lg [te 5, te 6] (some 3) [w1] 7
     s.tally.erasing = some 3 ∧ 0 ≠ 3) ∧
    (let s := lg [te 5, te 6] (some 0) [w1] 7
     s.tally.staged = te 5 :: [te 6] ∧ s.tally.erasing = some (tallySector (te 5).seq)) := by
  decide +kernel

theorem test_witness_LogIsRead :
    (let s := dmp stopped0
     let q := (65535#32).toNat + 4294967296 * (s.reg rTallyRdSeqHi).toNat
     s.host.d3 = false ∧ s.accessCode rTallyRdSeqLo = 0 ∧ (s.tally.written.find? fun e => e.1 == q) = none ∧
       15 < 16) ∧
    (let s := lg [] none [w1] 0
     let q := (4#32).toNat + 4294967296 * (s.reg rTallyRdSeqHi).toNat
     s.host.d3 = false ∧ s.accessCode rTallyRdSeqLo = 0 ∧ (s.tally.written.find? fun e => e.1 == q) = some w1) ∧
    (let s : State :=
         { stopped0 with tally := { stopped0.tally with written := [(5, List.replicate 64 3), (4, List.replicate 64 1)] } }
     s.host.d3 = false ∧ s.accessCode rTallyDumpCtrl = 0 ∧ s.tally.dumping = none ∧
       s.pair rTallyDumpDstLo rTallyDumpDstHi + 64 * s.tally.written.length ≤ s.usable .s0) ∧
    (let s := stopped0.setReg rTallyDumpDstLo 0xFFFFFFC0
     s.host.d3 = false ∧ s.accessCode rTallyDumpCtrl = 0 ∧ s.tally.dumping = none ∧
       s.usable .s0 < s.pair rTallyDumpDstLo rTallyDumpDstHi + 64 * s.tally.written.length) ∧
    (let s := dmp stopped0
     s.host.d3 = false ∧ s.accessCode rTallyDumpCtrl = 0 ∧ s.tally.dumping.isSome = true) ∧
    (let s := dmp stopped0
     s.tally.dumping = some ((s.tally.dumping.getD default).1, (s.tally.dumping.getD default).2)) := by
  decide +kernel

theorem test_witness_SmbusAnswers :
    (let s := stopped0
     s.sys.porHeld = false ∧ s.dep.thermLow = false ∧ s.dev ≠ .faulted) ∧
    (let s := faulted0
     s.sys.porHeld = false ∧ s.dev = .faulted) ∧
    State.reset.sys.porHeld = true := by
  decide +kernel

/-- The last key slot in use is not revoked. -/
theorem test_witness_OtpCommandsAreChecked_revoke :
    let s := slotted [{ blank0 with provisioned := true }]
    let cmd := key 2 0 0
    (s.host.d3 = false ∧ s.accessCode rSecOtpCmd = 0 ∧ (s.dev = .ready ∨ s.dev = .stopped) ∧
      bit (s.reg rSecLock) 0 = false ∧ s.loading = none ∧ s.sec.flashing = none ∧ s.sec.otp = none ∧
      bits cmd 31 16 = 0x9E27 ∧ bits cmd 3 0 = 2 ∧ bits cmd 5 4 = 0 ∧ (s.sec.slots.getD 0 KeySlot.blank).provisioned = true) ∧
    ∀ m, m ≠ 0 → (s.sec.slots.getD m KeySlot.blank).provisioned = false ∨
      (s.sec.slots.getD m KeySlot.blank).revoked = true := by
  refine ⟨by decide +kernel, fun m hm => Or.inl ?_⟩
  cases m with
  | zero => exact absurd rfl hm
  | succ n => simp [slotted, KeySlot.blank]

/-- A Structure Image of 2,048 bytes, signed with slot 0: PHASES with LULL fitted, no LINKS, one byte in each other section. -/
def bytes0 : List Byte :=
  [0x4C, 0x4D, 0x53, 0x49, 1, 0, 0, 0] ++ leBytes 4 2048 ++ leBytes 4 1152 ++ [11, 0, 0, 0, 0, 0, 0, 0, 0xB0, 7] ++
    List.replicate 38 0 ++ leBytes 4 1 ++ leBytes 4 320 ++ leBytes 4 256 ++ leBytes 4 0x7bed9999 ++
    (([2, 3, 4, 5, 6, 7, 8, 9, 11].zipIdx).flatMap fun i =>
      leBytes 4 i.1 ++ leBytes 4 (576 + 64 * i.2) ++ leBytes 4 1 ++ leBytes 4 0xA505DF1B) ++
    leBytes 4 10 ++ leBytes 4 1152 ++ List.replicate 88 0 ++
    ([0, 1] ++ leBytes 2 602 ++ ((List.range 6).flatMap fun i => leBytes 2 (100 * i) ++ leBytes 2 100) ++ leBytes 4 40 ++
      leBytes 4 1000 ++ List.replicate 28 0) ++
    (([1, 2, 3] : List Byte).flatMap fun p => p :: List.replicate 63 0) ++
    ((List.range 9).flatMap fun _ => (1 : Byte) :: List.replicate 63 0) ++ List.replicate 64 0 ++ modulus0 ++
    beBytes 384 (0x6ecf3f982ecc034844c59a9be24a7f87e631c791c258394c181c87c43346c55f50adeb5a * 2 ^ 320 +
      0xc27ffb2ee02741ba74bd3119f3e4160c729c2dbf057881a0e8f53b39c94fce36c38288044533979f) ++ List.replicate 64 0

/-- Stopped, with a load of that image at DRAM offset 0 in progress and its key in slot 0. -/
def loading0 : State :=
  let s := slotted [{ blank0 with provisioned := true, hash := sha256 modulus0 }]
  let s := s.store 0 bytes0
  { s with loading := some ⟨0, 2048, 1, bytes0, 0, none⟩ }

/-- Sections that hold the ranges of check 11 of R316. -/
def rollout1 : RolloutCfg :=
  { (default : RolloutCfg) with
    nSamp := 32, dtUs := 100000, anchorCount := 1, latL := 1, latS := 1, latJ := 1
    source := .table [⟨[], [], 80000, false, false, 0⟩] }
def cost1 : CostCfg :=
  { (default : CostCfg) with weights := List.replicate 10 1, shifts := List.replicate 10 0, pLimit := 1 }
def refine1 : RefineCfg :=
  { (default : RefineCfg) with rounds := 1, parents := 1, decay := 1, visitMax := 1, timeupUs := 300 }
def world1 : WorldCfg :=
  { (default : WorldCfg) with
    m := 1, reach := 65535, discs := [⟨0, 0, 0, false⟩], boxes := [⟨0, 0, 1, 1⟩], stageBytes := 262144, tileCap := 1
    agentCapBytes := 262144, egoAgeLimit := 1, urgentCap := 1 }
def safety1 : SafetyCfg :=
  { (default : SafetyCfg) with
    tile := List.replicate 4096 0, agents := List.replicate 8 AgentRec.absent
    sets := [⟨List.replicate 4 default, List.replicate 4 default⟩], nInv := 1 }
def streams1 : StreamsCfg := ⟨[⟨[1], false, 1⟩], 0, 16, 20⟩

/-- The image of those bytes and sections. -/
def image1 : Image :=
  { (default : Image) with
    digest := sha256 (signedMessage bytes0 (fieldU bytes0 0xC 4)), minor := fieldU bytes0 6 2
    imageId := fieldU bytes0 0x1C 4, compiler := fieldU bytes0 0x20 4, slot := fieldU bytes0 (fieldU bytes0 0xC 4) 1
    svn := fieldU bytes0 0x1A 2, entries := (chunksOf 64 4 (imageSection bytes0 1)).map decodePhaseEntry
    engines0 := (default : EnginesRaw).cfg, engines1 := (default : EnginesRaw).cfg, world := world1, rollout := rollout1, cost := cost1, select := ⟨1, 1⟩, refine := refine1, safety := safety1
    streams := streams1 }

/-- What the section layouts, which the spec does not give (log entry 2), would have to make of the bytes. -/
def LayoutsGive : Prop :=
  Config.parseRollout (imageSection bytes0 4) = some rollout1 ∧ Config.parseCost (imageSection bytes0 5) = some cost1 ∧
    Config.parseRefine (imageSection bytes0 8) = some refine1 ∧
    Config.parseEngines 0 (imageSection bytes0 2) = some default ∧
    Config.parseEngines 1 (imageSection bytes0 2) = some default ∧
    Config.parseWorld (imageSection bytes0 3) = some world1 ∧ Config.parsePolicy (imageSection bytes0 6) = some default ∧
    Config.parseSelect (imageSection bytes0 7) = some ⟨1, 1⟩ ∧ Config.parseSafety (imageSection bytes0 9) = some safety1 ∧
    Config.parseStreams (imageSection bytes0 11) = some streams1

theorem image1_parses (h : LayoutsGive) : parseImage bytes0 = .ok image1 := by
  obtain ⟨h4, h5, h8, h20, h21, h3, h6, h7, h9, h11⟩ := h
  have hl : parseLinksSection (imageSection bytes0 10) = some none := by
    have : (imageSection bytes0 10).isEmpty = true := by decide +kernel
    simp only [parseLinksSection, this, if_true]
  unfold parseImage
  simp only [h4, h5, h8, h20, h21, h3, h6, h7, h9, h11, hl]
  rw [show (List.find? (fun x : Nat × Bool => !x.2) _) = none from (by decide +kernel)]
  rfl

/-- The bytes take a load through every check, where the section layouts give sections within their ranges. -/
theorem test_witness_ImageIsLoadedWhole_ok (h : LayoutsGive) :
    loading0.loading = some ⟨0, 2048, 1, bytes0, 0, none⟩ ∧ loading0.checkLoad ⟨0, 2048, 1, bytes0, 0, none⟩ 0 = .ok image1 ∧
      loading0.checkLoad ⟨0, 2048, 1, bytes0, 0, none⟩ 13 = .ok image1 ∧
      sha256 (signedMessage (loading0.load 0 2048) (fieldU bytes0 0xC 4)) = image1.digest := by
  have hp := image1_parses h
  have hc : imageBadCrc bytes0 = none := by decide +kernel
  have hm : loading0.memoryBad image1 = none := by decide +kernel
  have go : ∀ ue, ¬ (ue = 5 ∨ ue = 6) → loading0.checkLoad ⟨0, 2048, 1, bytes0, 0, none⟩ ue = .ok image1 := by
    intro ue hu
    unfold State.checkLoad
    rw [if_neg (by decide +kernel), if_neg (by decide +kernel), if_neg (by decide +kernel), if_neg (by decide +kernel),
      if_neg hu, if_neg (by decide +kernel), if_neg (by decide +kernel), if_neg (by decide +kernel)]
    simp only [hc, hp, hm]
  have hb : loading0.load 0 2048 = bytes0 := by decide +kernel
  exact ⟨rfl, go 0 (by decide), go 13 (by decide), by rw [hb]; rfl⟩

/-! ### Steps of the whole machine -/

/-- Stopped, an OTP command in progress, and its end at the front of the queue. -/
def otpEnding : State := { otpW (.raise 1 5) with pending := [.otpDone true, .token] }

theorem test_witness_EveryStepKeepsInvariant :
    Inv otpEnding ∧ ∃ u, Sys2Proof.Machine.step otpEnding = .next u ∧
      ((u.sec.slots.getD 1 KeySlot.blank).minSvn == 5) = true :=
  ⟨{ mem := by decide +kernel
     depSlice := by decide +kernel
     slices := fun d => by cases d <;> exact List.Pairwise.nil
     queue := by decide +kernel
     safe := by decide +kernel
     otp := by show 0 < 5; decide },
   after_next (p := fun u => (u.sec.slots.getD 1 KeySlot.blank).minSvn == 5) (by decide +kernel)⟩

theorem test_witness_OtpOnlyGrows : Inv otpEnding ∧ ∃ u, Sys2Proof.Machine.step otpEnding = .next u :=
  ⟨test_witness_EveryStepKeepsInvariant.1, test_witness_EveryStepKeepsInvariant.2.imp fun _ h => h.1⟩

theorem test_witness_DeviceStateMovesAlongTransitions :
    ∃ u, Sys2Proof.Machine.step { hold0 with pending := [.halt ⟨700, 1000⟩] } = .next u ∧ (u.dev == .stopped) = true :=
  after_next (p := fun u => u.dev == .stopped) (by decide +kernel)

theorem test_witness_OnlyReleaseClearsSafeOutputs :
    (let s : State := { stopped0 with dep := { stopped0.dep with safe := true } }
     s.dep.safe = true ∧
       ∃ u, exec (.release 7 0x6C3D ⟨frameCrc 0x10 7 0x6C3D, false⟩) s = .next u ∧ (!u.dep.safe) = true) :=
  ⟨rfl, after_next (p := fun u => !u.dep.safe) (by decide +kernel)⟩

theorem test_witness_FaultedIsLeftByRecoveryOrReset :
    (faulted0.dev = .faulted ∧ ∃ u, exec .deviceReset faulted0 = .next u ∧ (u.dev == .boot) = true) ∧
    (recovering0.dev = .faulted ∧ ∃ u, exec (.recoverDone 900 ⟨0, []⟩) recovering0 = .next u ∧ (u.dev == .stopped) = true) :=
  ⟨⟨rfl, after_next (p := fun u => u.dev == .boot) (by decide +kernel)⟩,
   ⟨rfl, after_next (p := fun u => u.dev == .stopped) (by decide +kernel)⟩⟩

theorem test_witness_CommandsChangeOnlyTheirParts :
    ∃ u, exec (.rail 3) stopped0 = .next u ∧ (!u.power.rails.testBit 3) = true :=
  after_next (p := fun u => !u.power.rails.testBit 3) (by decide +kernel)

/-! ### Commands whose operands name nothing -/

/-- For each check of WellFormed a term that it refuses. -/
theorem test_ill_formed_commands_are_refused :
    ([.mark 6 0 0 0, .msixUnmask ⟨64, 0, 0, false, false⟩, .linkUp 5 4, .linkUp 4 3, .tile 128 0 [], .urgent 128 0 [], .malformed 128 0 [], .taskDispatch .s0 6 ⟨0, 0, 0⟩,
      .taskDispatch .s0 0 ⟨engineCount 0, 0, 0⟩, .taskComplete .s0 0 (.task 6 0 0 0 [] []),
      .taskComplete .s0 0 (.task 5 (engineCount 5) 0 0 [] []),
      .readyListEntry .s0 6, .swGo .s0 2, .ihaulGo .s0 32, .sweepStep .s0 68 0 ⟨0, 0, []⟩, .testSliceStart .s0 5 0 0,
      .testSliceEnd .s0 0 (sliceUnits 0) 0 true, .latent .s1 4 (sliceUnits 4) 100, .testOverdue 0 .s1 5 0, .doorbell 140 0,
      .chainStart 140, .flushReadReturn 140 0, .cplTimeout 140, .hostReadCompletion 140 1, .chPause 140, .chResume 140,
      .chStop 140, .chCringSize 140 4, .descriptorStart 204 [] [], .descriptorComplete 204 ⟨0, [], 0, []⟩, .ringRecord 127,
      .ringRecord 136] : List Instr).all (fun c => !c.wellFormed) = true ∧
    ([.registerWrite 0x4000000 4 15 0 0, .clearOnRead 0x4000000, .captureRead 0x4000000 4 15, .shWrite rTickNumSetLo 0,
      .setAlias 0x1000000 0, .clearAlias 0x1000000 0, .toggleAlias 0x1000000 0, .bitWindowWrite 0xFFFFFC 0,
      .bitWindowRead 0xFFFFFC, .bitWindowRead 0x4000000, .lock rTickPeriod 1, .laneFail 6 0, .laneFail 0 5,
      .flit 0 ⟨false, List.replicate 63 0⟩, .flit 6 ⟨true, List.replicate 64 0⟩, .credit 0 2 1, .train 6 0 0 0, .ack 6 0, .nak 6 0,
      .barrierBlock 6 true true, .stopSymbol 0 6 0, .resetSymbol 0 6 0, .pllRelock 3, .pllRelock 7, .rail 13,
      .railWithinTolerance 13, .provision 2, .revoke 1, .raiseSvn 4, .raiseFwSvn 3, .bistGo 0xFF, .badCmd 0x10 0 0 0]
      : List Instr).all (fun c => !c.wellFormed) = true := by
  decide +kernel

/-- Such a command faults, and one whose operands name something does not. -/
theorem test_ill_formed_command_faults :
    exec (.ack 6 0) stopped0 = .fault .illFormed ∧ after (exec (.ack 5 0) stopped0) (fun u => u.dev == .stopped) = true :=
  ⟨rfl, by decide +kernel⟩

/-- The table gives no command bits, so no word spells one. -/
theorem test_no_word_spells_a_command : decodeTableWord 32 0 = none ∧ decodeTableWord 0 0 = none := ⟨rfl, rfl⟩

/-! ### Worked examples of the spec -/

/-- 00_scope, reading the identity: the full automotive part, the validation part and the single-Stope part. -/
theorem test_identity :
    let v := fun x => ({ stopped0 with sec := { stopped0.sec with variant := x } } : State).peek rGlbId
    v .aq = 0x8400B011 ∧ v .av = 0x8400B021 ∧ v .as = 0x8400B031 := by
  decide +kernel

/-- 03_proposals, expanding one lattice candidate: the tick seed, the ID and the first knot. -/
theorem test_lattice_candidate :
    let c : RolloutCfg := { (default : RolloutCfg) with
      anchorCount := 256, latL := 16, latS := 8, latJ := 8, latHalf := 40, spdHalf := 205, aMin := -32768, aMax := 32767
      kdMax := 32767, wLat := [127], wSpd := [127] }
    let k := latticeControl c 0xC012D04CEC9DB6AC ⟨[0], [0], 0, true, false, 0⟩ 0x012002E8
    mix64 0 1 0 = 0xC012D04CEC9DB6AC ∧ latticeId c 74472 = 0x012002E8 ∧ k.acc.head? = some 610 ∧ k.kd.head? = some 277 := by
  decide +kernel

/-- 06_merit_select, merit of one candidate, and of the same with COLLIDE. -/
theorem test_merit :
    let c : CostCfg := { (default : CostCfg) with
      base := 1000000, weights := [128, 512, 256, 64, 1024, 256, 64, 1000, 4096, 1024]
      shifts := [8, 8, 8, 8, 8, 8, 8, 16, 8, 8] }
    let t : Terms := ⟨40000, 6000, 25000, 90000, 0, 12800, 61440, false, false, false⟩
    let r : SlotRec := ⟨30000, 131072, 0, 0, 0, 0⟩
    meritOf c t r 7 = 1143960 ∧ meritOf c t { r with flags := 2 ^ flagCollide + 2 ^ flagInfeasible } 7 = 0 := by
  decide +kernel

/-- 06_merit_select, merging two die lists: the entries, the ties and the duplicates. -/
theorem test_merge :
    let r := topK 4 true
      [⟨0x012002EB, 900000, 0⟩, ⟨0x00400011, 850000, 0⟩, ⟨0x00800100, 850000, 0⟩, ⟨0x00C00007, 850000, 0⟩,
       ⟨0x012002EB, 900000, 1⟩, ⟨0x00400011, 850000, 1⟩, ⟨0x00800100, 850000, 1⟩, ⟨0x01000042, 850000, 1⟩]
    r.entries.map (·.id) = [0x012002EB, 0x00400011, 0x00800100, 0x00C00007] ∧ r.valid = 4 ∧ r.kth = 850000 ∧
      r.tieTotal = 4 ∧ r.tieKept = 3 ∧ r.tieAtK = true ∧ r.dups = 3 ∧ r.mismatches = [] ∧
      (⟨0x012002EB, 900000, 0⟩ : Element).key = 0x000DBBA0FEDFFD14 := by
  decide +kernel

/-- 02_world, slice origin: the ego at (1,234.5 m, -87.25 m) gives tile (92, -11), and at 1,247.0 m tile column 93. -/
theorem test_slice_origin :
    let w : WorldCfg := { (default : WorldCfg) with m := 2, ox := 256, oy := 256 }
    sliceOrigin w { (default : EgoState) with x := 5056512, y := -357376 } = (92, -11) ∧
      (sliceOrigin w { (default : EgoState) with x := 5107712, y := -357376 }).1 = 93 := by
  decide +kernel

/-- 15_register_behaviour and 16_register_map, the worked examples of the bit window and of a channel's doorbell. -/
theorem test_bit_window_and_doorbell :
    let s := fun b => (stopped0.setReg rGlbAliasMode 1).setReg rGlbBitwinBase b
    (s 0x400000).windowBit 0x1A01204 = (0x450090, 1) ∧ (s 0x840000).windowBit 0x104A080 = (rCeEngEvents .s1 37, 0) ∧
      rHaulChDoorbell 131 = 0x430C4 ∧ rHaulChDescHi 131 = 0x430C0 := by
  decide +kernel

/-- 01_tick, stamps at the edges: items A to F, with T_k the start of the tick in progress. -/
theorem test_stamps :
    let s : State := { running0 with
      image := some { image0 with
        entries := [{ entry0 with profile := 2, ingestCut := 20 }]
        streams := { image0.streams with streams := [⟨[1, 2, 3, 5, 6, 7], false, 2000⟩] } }
      tick := { running0.tick with tk := 3000000000, prev := 2999000000, expect := 3001000000 } }
    let v := fun stamp arrival => s.checkItem 0 arrival (decodeHead (item 5 0 128 stamp 1 0 0 0 (List.replicate 64 1)))
    v 3000000000 3000003000 = .take false ∧ v 2998000000 3000010000 = .take true ∧ v 2997999999 3000010000 = .reject 2 ∧
      v 3000012000 3000020000 = .take true ∧ v 3000020000 3000020000 = .take false ∧ v 3002000000 3000500000 = .reject 1 := by
  decide +kernel

/-- R551: the IDCODE; R46: the ninth entry of the command queue is refused with QUEUE_FULL. -/
theorem test_idcode_and_queue_full :
    after (exec .idcode stopped0) (fun u => u.out == [.jtag 32 0xB840054B]) = true ∧
    after (exec (.registerWrite rGlbCmd 4 15 1 0) (queued stopped0 (List.replicate 8 (.cmd 2))))
      (fun u => u.sys.queue.length == 8 && u.sys.reason == 8) = true := by
  decide +kernel

/-- R27: a phase released twice, and one ahead of its turn. -/
theorem test_phase_order :
    after (exec (.phaseRelease 1000 0) running0) (fun u => u.tick.rel == 1) = true ∧
    after (exec (.phaseRelease 900000 3) running0) (fun u => u.tick.rel == 0) = true := by
  decide +kernel

end Sys2Proof.Tests
end

/-! Writes of registers through BAR0: what a whole word written does to a register of RW, of SH or of lockable fields
(R12, R556 to R563, R574, R575). -/

namespace Sys2Proof
open Sys2Proof.Machine

/-- The queue and the rest of the command interface make up its state. -/
theorem Framed.sys_eq {ps : List Part} {s t : State} (h : Framed ps s t) (hq : .queue ∉ ps) (hs : .sys ∉ ps) :
    t.sys = s.sys := by
  have hqueue : t.sys.queue = s.sys.queue := h .queue hq
  have hrest : { t.sys with queue := [] } = { s.sys with queue := [] } := h .sys hs
  calc t.sys = { { t.sys with queue := [] } with queue := t.sys.queue } := rfl
    _ = { { s.sys with queue := [] } with queue := s.sys.queue } := by rw [hrest, hqueue]
    _ = s.sys := rfl

end Sys2Proof

namespace Sys2Proof.Machine
open Sys2Proof

/-! ### Rules of the state operations that a register write uses -/

@[simp] theorem State.when_true (s : State) (f : State → State) : s.when true f = f s := rfl

@[simp] theorem State.when_false (s : State) (f : State → State) : s.when false f = s := rfl

theorem State.when_eq_zero (s : State) {w : Word} (h : w = 0#32) (f : State → State) : s.when (w != 0#32) f = s :=
  if_neg (by simp [h])

theorem State.when_ne_zero (s : State) {w : Word} (h : w ≠ 0#32) (f : State → State) : s.when (w != 0#32) f = f s :=
  if_pos (bne_iff_ne.mpr h)

@[simp] theorem State.mend_regs (s : State) (gone : BadReg → Bool) : (s.mend gone).regs = s.regs :=
  State.mend_framed (List.Subset.refl _) (Framed.refl s) .regs (by decide)

@[simp] theorem State.mend_sh (s : State) (gone : BadReg → Bool) : (s.mend gone).sh = s.sh :=
  State.mend_framed (List.Subset.refl _) (Framed.refl s) .sh (by decide)

@[simp] theorem State.reg_mend (s : State) (gone : BadReg → Bool) (a : Nat) : (s.mend gone).reg a = s.reg a :=
  State.reg_of_regs (s.mend_regs gone) a

@[simp] theorem State.reg_rewrite (s : State) (o : Nat) (v : Word) : (s.rewrite o v).reg o = v :=
  (State.reg_mend _ _ o).trans (s.reg_setReg o v)

theorem State.reg_rewrite_ne (s : State) {o a : Nat} (v : Word) (h : a ≠ o) : (s.rewrite o v).reg a = s.reg a :=
  (State.reg_mend _ _ a).trans (s.reg_setReg_ne v h)

/-- The parts of the state that hold a configuration register and its parity. -/
theorem State.rewrite_frame (s : State) (o : Nat) (v : Word) : Framed [.regs, .badRegs, .dep] s (s.rewrite o v) :=
  State.rewrite_framed (List.Subset.refl _) (Framed.refl s)

/-- The registers that the record of an access changes (R557). -/
def recordRegs : List Nat := [rRegifErrStatus, rRegifErrAddr, rRegifErrCount, rRegifEvents]

theorem State.reg_recordAccess (s : State) {a : Nat} (code : Nat) (write : Bool) (size be ofs : Nat)
    (h : a ∉ recordRegs) : (s.recordAccess code write size be ofs).reg a = s.reg a := by
  simp only [recordRegs, List.mem_cons, List.not_mem_nil, or_false, not_or] at h
  obtain ⟨hstatus, haddr, hcount, hevents⟩ := h
  unfold State.recordAccess
  rw [State.reg_irq, State.reg_event_ne _ _ hevents, State.reg_count_ne _ _ hcount, State.reg_setReg_ne _ _ haddr,
    State.reg_setReg_ne _ _ hstatus]

theorem State.recordAccess_frame (s : State) (code : Nat) (write : Bool) (size be ofs : Nat) :
    Framed [.regs, .host, .out] s (s.recordAccess code write size be ofs) :=
  State.recordAccess_framed (List.Subset.refl _) (Framed.refl s)

/-! ### What a write through BAR0 comes to -/

theorem State.busWrite_d3 {s : State} (h : s.host.d3 = true) (a size be : Nat) (lo hi : Word) :
    s.busWrite a size be lo hi = s := if_pos h

theorem State.reach_performed {s : State} {o : Nat} {r : RegDef} (hc : s.accessCode o = 0) (hr : findReg o = some r)
    (at_ : Nat) (write : Bool) (f : RegDef → State) : s.reach o at_ write f = f r := by
  simp [State.reach, hc, hr]

theorem State.reach_refused {s : State} {o : Nat} (hc : s.accessCode o ≠ 0) (at_ : Nat) (write : Bool)
    (f : RegDef → State) : s.reach o at_ write f = s.recordAccess (s.accessCode o) write 3 15 at_ := if_neg hc

/-- A whole aligned word written to the primary space outside D3hot reaches the register map (R556). -/
theorem State.busWrite_word {s : State} {a be : Nat} (hd : s.host.d3 = false) (ha : a < 0x1000000) (h4 : a % 4 = 0)
    (hbe : be % 16 = 15) (lo hi : Word) :
    s.busWrite a 4 be lo hi = s.reach a a true fun r =>
      s.putReg r (canonical a) a lo (BitVec.allOnes 32) (BitVec.allOnes 32) lo := by
  simp [State.busWrite, State.writeWord, State.write4, sizeRefused, hd, ha, h4, hbe]

/-- Such a word is performed on the register that answers at its offset. -/
theorem State.busWrite_performed {s : State} {a be : Nat} {r : RegDef} (hd : s.host.d3 = false) (ha : a < 0x1000000)
    (h4 : a % 4 = 0) (hbe : be % 16 = 15) (hc : s.accessCode a = 0) (hr : findReg a = some r) (lo hi : Word) :
    s.busWrite a 4 be lo hi = s.putReg r (canonical a) a lo (BitVec.allOnes 32) (BitVec.allOnes 32) lo := by
  rw [State.busWrite_word hd ha h4 hbe, State.reach_performed hc hr]

theorem exec_registerWrite {ofs : Nat} (h : ofs < 0x4000000) (size be : Nat) (lo hi : Word) (s : State) :
    exec (.registerWrite ofs size be lo hi) s = .next (s.busWrite ofs size be lo hi) := by
  show whenNamed (inBar0 ofs) _ = _
  simp [whenNamed, inBar0, h]

theorem exec_shWrite {ofs : Nat} {r : RegDef} (hr : findReg ofs = some r) (hsh : r.sh ≠ 0) (v : Word) (s : State) :
    exec (.shWrite ofs v) s = .next (s.busWrite ofs 4 15 v 0) := by
  show execShWrite ofs v s = _
  simp [execShWrite, whenNamed, hr, hsh]

theorem exec_lock {ofs : Nat} (h : ofs = rGlbLock ∨ ofs = rSecLock) (v : Word) (s : State) :
    exec (.lock ofs v) s = .next (s.busWrite ofs 4 15 v 0) := by
  show whenNamed (decide (ofs = rGlbLock ∨ ofs = rSecLock)) _ = _
  simp [whenNamed, h]

/-! ### What the register map says of shadowed fields (R591) -/

/-- The registers whose SH fields stand apart from their mask. -/
def splitShRegs : List Nat :=
  [rTickCtrl, rWorldDirExt, rKlinkCoord, rHeapTraceCtrl .s0, rHeapTraceCtrl .s1, rWorldDirBaseLo, rWorldStoreBaseLo]

theorem shFields_of_not_mem {o : Nat} (h : o ∉ splitShRegs) (mask : Word) :
    shFields o mask = if mask = 0 then [] else [mask] := by
  simp only [splitShRegs, List.mem_cons, List.not_mem_nil, or_false, not_or] at h
  obtain ⟨h1, h2, h3, h4, h5, h6, h7⟩ := h
  simp [shFields, *]

theorem sh_ne_zero_of_mem_splitShRegs : ∀ o ∈ splitShRegs, ∀ r ∈ findReg o, r.sh ≠ 0 := by
  decide +kernel

theorem canonical_eq_of_mem_splitShRegs {o : Nat} (h : canonical o ∈ splitShRegs) : canonical o = o := by
  unfold canonical at h ⊢
  split at h
  · exact absurd h (by decide)
  · split at h
    · exact absurd h (by decide)
    · simp [*]

/-- A register without shadowed fields has none at its canonical offset either. -/
theorem shFields_eq_nil {o : Nat} {r : RegDef} (hr : findReg o = some r) (hsh : r.sh = 0) :
    shFields (canonical o) 0 = [] := by
  have hmem : canonical o ∉ splitShRegs := fun h => by
    have ho := canonical_eq_of_mem_splitShRegs h
    exact sh_ne_zero_of_mem_splitShRegs o (ho ▸ h) r hr hsh
  rw [shFields_of_not_mem hmem, if_pos rfl]

theorem shFields_union_ne_zero (o : Nat) {mask : Word} (h : mask ≠ 0#32) :
    (shFields o mask).foldl (· ||| ·) 0 ≠ 0#32 := by
  unfold shFields
  split
  · decide
  split
  · decide
  split
  · decide
  split
  · decide
  split
  · decide
  · simp [h]

/-- A register with shadowed fields holds no others that software writes. -/
abbrev ShOnly (r : RegDef) : Prop := r.rw = 0 ∧ r.wo = 0 ∧ r.w1p = 0 ∧ r.rwl = 0 ∧ r.sh < 2 ^ 32

theorem ShOnly.mask_ne_zero {r : RegDef} (h : ShOnly r) (hsh : r.sh ≠ 0) : BitVec.ofNat 32 r.sh ≠ 0#32 := by
  obtain ⟨-, -, -, -, hlt⟩ := h
  intro h0
  have hnat : r.sh % 2 ^ 32 = 0 := congrArg BitVec.toNat h0
  exact hsh ((Nat.mod_eq_of_lt hlt).symm.trans hnat)

theorem hubRegs_shOnly : ∀ r ∈ hubRegs, r.sh ≠ 0 → ShOnly r := by decide +kernel

theorem dieRegs_shOnly : ∀ r ∈ dieRegs, r.sh ≠ 0 → ShOnly r := by decide +kernel

theorem mem_of_findReg {o : Nat} {r : RegDef} (h : findReg o = some r) : r ∈ hubRegs ∨ r ∈ dieRegs := by
  unfold findReg at h
  split at h
  · exact .inl (List.mem_of_find?_eq_some h)
  · exact .inr (List.mem_of_find?_eq_some h)
  · cases h

theorem findReg_shOnly {o : Nat} {r : RegDef} (hr : findReg o = some r) (hsh : r.sh ≠ 0) : ShOnly r :=
  (mem_of_findReg hr).elim (hubRegs_shOnly r · hsh) (dieRegs_shOnly r · hsh)

/-! ### Bits and fields of a merged word -/

theorem merge_none (w v : Word) : (w &&& ~~~0#32) ||| (v &&& 0#32) = w := by
  rw [BitVec.not_zero, BitVec.and_allOnes, BitVec.and_zero, BitVec.or_zero]

/-- Within its mask a merged word is the new value. -/
theorem merge_and_mask (w v m : Word) : ((w &&& ~~~m) ||| (v &&& m)) &&& m = v &&& m := by
  ext i
  simp only [BitVec.getElem_and, BitVec.getElem_or, BitVec.getElem_not]
  cases m[i] <;> simp

theorem or_and_self_right (w m : Word) : (w ||| m) &&& m = m := by
  ext i
  simp only [BitVec.getElem_and, BitVec.getElem_or]
  cases m[i] <;> simp

theorem bit_merge (w v m : Word) {n : Nat} (hn : n < 32) :
    bit ((w &&& ~~~m) ||| (v &&& m)) n = if m.getLsbD n then bit v n else bit w n := by
  simp only [bit, BitVec.getLsbD_or, BitVec.getLsbD_and, BitVec.getLsbD_not, hn, decide_true, Bool.true_and]
  cases m.getLsbD n <;> simp

/-- A field depends on its own bits alone. -/
theorem bits_congr {w v : Word} {hi lo : Nat} (h : ∀ i, lo ≤ i → i ≤ hi → w.getLsbD i = v.getLsbD i) :
    bits w hi lo = bits v hi lo := by
  refine Nat.eq_of_testBit_eq fun i => ?_
  simp only [bits, Nat.testBit_mod_two_pow, Nat.testBit_div_two_pow]
  by_cases hi' : i < hi + 1 - lo
  · simpa [hi', BitVec.getLsbD] using h (i + lo) (by omega) (by omega)
  · simp [hi']

/-- A mask that covers a field merges the whole of it. -/
theorem bits_merge (w v m : Word) {hi lo : Nat} (hm : ∀ i, lo ≤ i → i ≤ hi → m.getLsbD i = true) :
    bits ((w &&& ~~~m) ||| (v &&& m)) hi lo = bits v hi lo :=
  bits_congr fun i hlo hhi => by simp [hm i hlo hhi]

/-! ### What the fields of a register come to under a write (R12, R563, R575) -/

@[simp] theorem State.frozen_zero (s : State) (o : Nat) : s.frozen o 0#32 = 0#32 := by simp [State.frozen]

@[simp] theorem State.pulse_zero (s : State) (o : Nat) : s.pulse o 0#32 = s := if_pos rfl

/-- The SH bits that a write acting on `act` touches (R571). -/
def touchedSh (o : Nat) (sh act : Word) : Word :=
  (shFields o sh).foldl (fun m f => if f &&& act = 0 then m else m ||| f) 0

theorem touchedSh_allOnes (o : Nat) (sh : Word) :
    touchedSh o sh (BitVec.allOnes 32) = (shFields o sh).foldl (· ||| ·) 0 := by
  have hf : (fun m f : Word => if f &&& BitVec.allOnes 32 = 0 then m else m ||| f) = (· ||| ·) := by
    funext m f
    rw [BitVec.and_allOnes]
    split
    · simp [*]
    · rfl
  rw [touchedSh, hf]

/-- A register with RW fields alone: they are written and nothing else is done. -/
theorem State.putReg_rw (s : State) {r : RegDef} {o : Nat} (hsf : shFields o 0#32 = []) (hsh : r.sh = 0)
    (hwo : r.wo = 0) (hw1p : r.w1p = 0) (hrwl : r.rwl = 0) (at_ : Nat) (v act fire pulses : Word) :
    s.putReg r o at_ v act fire pulses = s.when (BitVec.ofNat 32 r.rw &&& fire != 0#32) fun t =>
      t.putRw o ((s.reg o &&& ~~~(act &&& BitVec.ofNat 32 r.rw)) ||| (v &&& act &&& BitVec.ofNat 32 r.rw)) := by
  simp [State.putReg, hsf, hsh, hwo, hw1p, hrwl]

/-- A register with SH fields alone: those touched become pending. -/
theorem State.putReg_sh (s : State) {r : RegDef} (o : Nat) (h : ShOnly r) (at_ : Nat) (v act fire pulses : Word) :
    s.putReg r o at_ v act fire pulses = s.when (touchedSh o (BitVec.ofNat 32 r.sh) act != 0#32) fun t =>
      t.shadow o (touchedSh o (BitVec.ofNat 32 r.sh) act &&& BitVec.ofNat 32 r.sh)
        ((s.shadowed o &&& ~~~act) ||| (v &&& act)) := by
  obtain ⟨hrw, hwo, hw1p, hrwl, -⟩ := h
  simp [State.putReg, touchedSh, hrw, hwo, hw1p, hrwl]

/-- RW fields without effects of their own are stored. -/
theorem State.putRw_plain (s : State) {o : Nat} (hseq : o ≠ rTallyRdSeqLo) (heg : ¬ (0x40100 ≤ o ∧ o < 0x40180))
    (hch : ¬ (0x41000 ≤ o ∧ o < 0x43300)) (v : Word) : s.putRw o v = s.putWord o v := by
  unfold State.putRw
  rw [if_neg hseq, if_neg heg, if_neg hch]

theorem RegOnly.refl (s : State) (o : Nat) : RegOnly s s o (s.reg o) :=
  ⟨rfl, fun _ _ => rfl, rfl, rfl, rfl, rfl, rfl, rfl, rfl⟩

theorem State.putWord_regOnly (s : State) (o : Nat) (v : Word) : RegOnly s (s.putWord o v) o v where
  value := State.reg_rewrite s o v
  others _ hq := State.reg_rewrite_ne s v hq
  dev := s.rewrite_frame o v .dev (by decide)
  mem := s.rewrite_frame o v .mem (by decide)
  tick := s.rewrite_frame o v .tick (by decide)
  world := s.rewrite_frame o v .world (by decide)
  plan := s.rewrite_frame o v .plan (by decide)
  sh := s.rewrite_frame o v .sh (by decide)
  out := s.rewrite_frame o v .out (by decide)

/-- A write performed on a plain register takes the RW bits it acts on, and no others, where it touches every bit that it
acts on. -/
theorem State.putReg_plain (s : State) {a : Nat} {r : RegDef} (hr : findReg a = some r) (hp : plainReg a r)
    {act fire : Word} (hfire : act &&& fire = act) (at_ : Nat) (v pulses : Word) :
    RegOnly s (s.putReg r (canonical a) at_ v act fire pulses) (canonical a)
      ((s.reg (canonical a) &&& ~~~(act &&& BitVec.ofNat 32 r.rw)) ||| (v &&& act &&& BitVec.ofNat 32 r.rw)) := by
  obtain ⟨hsh, hwo, hw1p, hrwl, hseq, heg, hch⟩ := hp
  rw [State.putReg_rw s (shFields_eq_nil hr hsh) hsh hwo hw1p hrwl]
  by_cases hrw : BitVec.ofNat 32 r.rw &&& fire = 0#32
  · have hact : act &&& BitVec.ofNat 32 r.rw = 0#32 := by
      rw [← hfire, BitVec.and_assoc, BitVec.and_comm fire, hrw, BitVec.and_zero]
    rw [State.when_eq_zero s hrw, BitVec.and_assoc, hact, merge_none]
    exact RegOnly.refl s (canonical a)
  · rw [State.when_ne_zero s hrw, State.putRw_plain s hseq heg hch]
    exact State.putWord_regOnly s (canonical a) _

/-- The lockable bits of a register that are not frozen (R574). -/
def State.unlocked (s : State) (o : Nat) (rwl : Word) : Word := rwl &&& ~~~(s.frozen o rwl)

/-- A register with lockable fields alone: the unlocked ones are written, a change of a frozen one is recorded. -/
theorem State.putReg_rwl (s : State) {r : RegDef} {o : Nat} (hsf : shFields o 0#32 = []) (hsh : r.sh = 0)
    (hwo : r.wo = 0) (hw1p : r.w1p = 0) (hrw : r.rw = 0) (at_ : Nat) (v act fire pulses : Word) :
    s.putReg r o at_ v act fire pulses =
      (s.when (s.unlocked o (BitVec.ofNat 32 r.rwl) &&& fire != 0#32) fun t =>
        t.putWord o ((s.reg o &&& ~~~(act &&& s.unlocked o (BitVec.ofNat 32 r.rwl))) |||
          (v &&& (act &&& s.unlocked o (BitVec.ofNat 32 r.rwl))))).when
        ((s.reg o ^^^ v) &&& act &&& s.frozen o (BitVec.ofNat 32 r.rwl) != 0#32) fun t =>
          t.recordAccess errLocked true 3 15 at_ := by
  simp [State.putReg, State.unlocked, hsf, hsh, hwo, hw1p, hrw, BitVec.and_assoc, BitVec.and_comm]

/-- GLB.LOCK freezes every lockable bit outside SEC.LOCK. -/
theorem State.unlocked_glb (s : State) {o : Nat} (h : o ≠ rSecLock) (rwl : Word) :
    s.unlocked o rwl = if bit (s.reg rGlbLock) 0 then 0#32 else rwl := by
  unfold State.unlocked State.frozen
  rw [if_neg h]
  split
  · exact BitVec.and_not_self rwl
  · exact BitVec.and_allOnes

/-- A lock bit of SEC.LOCK freezes itself. -/
theorem State.unlocked_sec (s : State) (rwl : Word) : s.unlocked rSecLock rwl = rwl &&& ~~~(s.reg rSecLock) := by
  simp [State.unlocked, State.frozen, BitVec.not_and, BitVec.and_or_distrib_left]

/-- A register with the lockable bits `rwl` and no other field that software writes. -/
abbrev RwlOnly (o rwl : Nat) : Prop :=
  o < 0x1000000 ∧ o % 4 = 0 ∧ canonical o = o ∧ o ∉ recordRegs ∧
    ∃ r ∈ findReg o, r.sh = 0 ∧ r.wo = 0 ∧ r.w1p = 0 ∧ r.rw = 0 ∧ r.rwl = rwl

/-- The bits `m` of a register have the values they have in `v`; of the other registers only the record of refused
accesses may change. -/
structure BitsTaken (s u : State) (o : Nat) (v m : Word) : Prop where
  value : u.reg o = (s.reg o &&& ~~~m) ||| (v &&& m)
  others : ∀ q, q ≠ o → q ∉ recordRegs → u.reg q = s.reg q
  dev : u.dev = s.dev
  mem : u.mem = s.mem

theorem State.putWord_bitsTaken (s : State) (o : Nat) (v m : Word) :
    BitsTaken s (s.putWord o ((s.reg o &&& ~~~m) ||| (v &&& m))) o v m :=
  have h := State.putWord_regOnly s o ((s.reg o &&& ~~~m) ||| (v &&& m))
  ⟨h.value, fun q hq _ => h.others q hq, h.dev, h.mem⟩

theorem BitsTaken.none (s : State) (o : Nat) (v : Word) : BitsTaken s s o v 0#32 :=
  ⟨(merge_none _ v).symm, fun _ _ _ => rfl, rfl, rfl⟩

theorem BitsTaken.recordAccess {s u : State} {o : Nat} {v m : Word} (h : BitsTaken s u o v m) (ho : o ∉ recordRegs)
    (code : Nat) (write : Bool) (size be ofs : Nat) : BitsTaken s (u.recordAccess code write size be ofs) o v m where
  value := (u.reg_recordAccess code write size be ofs ho).trans h.value
  others q hq hrec := (u.reg_recordAccess code write size be ofs hrec).trans (h.others q hq hrec)
  dev := (u.recordAccess_frame code write size be ofs .dev (by decide)).trans h.dev
  mem := (u.recordAccess_frame code write size be ofs .mem (by decide)).trans h.mem

/-- A whole word written to a register of lockable bits gives the unlocked ones their new values (R574, R575). -/
theorem State.busWrite_rwl {s : State} {o rwl : Nat} (ho : RwlOnly o rwl) (hd : s.host.d3 = false)
    (hc : s.accessCode o = 0) (v : Word) :
    BitsTaken s (s.busWrite o 4 15 v 0) o v (s.unlocked o (BitVec.ofNat 32 rwl)) := by
  obtain ⟨hlt, h4, hcan, hrec, r, hr, hsh, hwo, hw1p, hrw, rfl⟩ := ho
  have hsf : shFields o 0#32 = [] := hcan ▸ shFields_eq_nil hr hsh
  rw [State.busWrite_performed hd hlt h4 rfl hc hr, hcan, State.putReg_rwl s hsf hsh hwo hw1p hrw]
  simp only [BitVec.and_allOnes, BitVec.allOnes_and]
  set m := s.unlocked o (BitVec.ofNat 32 r.rwl)
  have hput : BitsTaken s (s.when (m != 0#32) fun t => t.putWord o ((s.reg o &&& ~~~m) ||| (v &&& m))) o v m := by
    by_cases hm : m = 0#32
    · rw [State.when_eq_zero s hm, hm]
      exact BitsTaken.none s o v
    · rw [State.when_ne_zero s hm]
      exact State.putWord_bitsTaken s o v m
  cases (s.reg o ^^^ v) &&& s.frozen o (BitVec.ofNat 32 r.rwl) != 0#32 with
  | false => exact hput
  | true => exact hput.recordAccess hrec _ _ _ _ _

/-! ### A value made pending (R563) -/

theorem State.shadow_frame (s : State) (o : Nat) (mask v : Word) : Framed [.sh, .badRegs, .dep] s (s.shadow o mask v) :=
  State.shadow_framed (List.Subset.refl _) (Framed.refl s)

/-- The pending values of a register are what they were but for the bits `mask`, which have those of `v`. -/
theorem State.shadow_pending (s : State) (o : Nat) (mask v : Word) :
    ∃ p ∈ (s.shadow o mask v).sh, p.off = o ∧ p.mask &&& mask = mask ∧ p.val &&& mask = v &&& mask := by
  have hsh : (s.shadow o mask v).sh = _ := State.mend_sh _ _
  rw [hsh]
  exact ⟨_, List.mem_append_right _ (List.mem_singleton_self _), rfl, or_and_self_right _ _, merge_and_mask _ _ _⟩

theorem State.shadow_others (s : State) {o : Nat} (mask v : Word) {p : ShPend} (hp : p ∈ s.sh) (ho : p.off ≠ o) :
    p ∈ (s.shadow o mask v).sh := by
  have hsh : (s.shadow o mask v).sh = _ := State.mend_sh _ _
  rw [hsh]
  exact List.mem_append_left _ (List.mem_filter.mpr ⟨hp, by simpa using ho⟩)

/-! ### The parts of O51 -/

/-- A write through BAR0 in D3hot, where no register answers, and of a plain register. -/
theorem registerWrites : Statements.RegisterWrites := by
  intro s ofs be lo hi hofs
  refine ⟨fun hd size => ?_, fun hd => ⟨fun hlt h4 hbe hc => ?_, fun r hlt h4 hbe hc hr hp => ?_⟩⟩
  · rw [exec_registerWrite hofs, State.busWrite_d3 hd]
  · rw [exec_registerWrite hofs, State.busWrite_word hd hlt h4 hbe, State.reach_refused hc]
  · refine ⟨_, exec_registerWrite hofs 4 be lo hi s, ?_⟩
    rw [State.busWrite_performed hd hlt h4 hbe hc hr]
    simpa only [BitVec.and_allOnes, BitVec.allOnes_and] using
      s.putReg_plain hr hp (BitVec.and_self (x := BitVec.allOnes 32)) ofs lo lo

/-- A whole word touches every SH field of its register, and the register holds no other field that it could change. -/
theorem shadowedWritesArePending : Statements.ShadowedWritesArePending := by
  intro s ofs v m r hd hlt h4 hr hsh hc hm
  have hs := findReg_shOnly hr hsh
  have hput : s.busWrite ofs 4 15 v 0 = s.shadow (canonical ofs) m v := by
    rw [State.busWrite_performed hd hlt h4 rfl hc hr, State.putReg_sh s _ hs, touchedSh_allOnes,
      State.when_ne_zero s (shFields_union_ne_zero _ (hs.mask_ne_zero hsh)), ← hm, BitVec.not_allOnes,
      BitVec.and_zero, BitVec.and_allOnes, BitVec.zero_or]
  have hframe := s.shadow_frame (canonical ofs) m v
  exact ⟨_, hput ▸ exec_shWrite hr hsh v s, hframe .regs (by decide), hframe .dev (by decide), hframe .mem (by decide),
    hframe.sys_eq (by decide) (by decide), s.shadow_pending (canonical ofs) m v,
    fun _ hp ho => s.shadow_others m v hp ho⟩

/-- Each of the four registers takes the bits that its lock leaves open: none or all of them under GLB.LOCK, those still
clear in SEC.LOCK. -/
theorem lockFreezesRegisters : Statements.LockFreezesRegisters := by
  intro s v hd
  refine ⟨fun hc => ?_, fun hc => ?_, fun hc => ?_, fun hc => ?_⟩
  · have h := s.busWrite_rwl (o := rGlbAliasMode) (rwl := 1) (by decide +kernel) hd hc v
    rw [s.unlocked_glb (by decide)] at h
    refine ⟨_, rfl, ?_, h.others _ (by decide) (by decide), h.dev, h.mem⟩
    rw [h.value, bit_merge _ _ _ (by decide)]
    cases bit (s.reg rGlbLock) 0 <;> rfl
  · have h := s.busWrite_rwl (o := rGlbBitwinBase) (rwl := 0xFF0000) (by decide +kernel) hd hc v
    rw [s.unlocked_glb (by decide)] at h
    refine ⟨_, rfl, ?_, h.others _ (by decide) (by decide), h.dev, h.mem⟩
    rw [h.value]
    cases bit (s.reg rGlbLock) 0 with
    | true => rw [if_pos rfl, if_pos rfl, merge_none]
    | false => exact bits_merge _ _ _ (by decide)
  · have h := s.busWrite_rwl (o := rGlbLock) (rwl := 1) (by decide +kernel) hd hc v
    rw [s.unlocked_glb (by decide)] at h
    refine ⟨_, exec_lock (.inl rfl) v s, ?_, h.dev, h.mem⟩
    rw [h.value, bit_merge _ _ _ (by decide)]
    cases bit (s.reg rGlbLock) 0 <;> rfl
  · have h := s.busWrite_rwl (o := rSecLock) (rwl := 3) (by decide +kernel) hd hc v
    rw [s.unlocked_sec] at h
    refine ⟨_, exec_lock (.inr rfl) v s, fun n hn => ?_, h.dev, h.mem⟩
    rw [h.value, bit_merge _ _ _ (by omega)]
    have h3 : (BitVec.ofNat 32 3).getLsbD n = true := by interval_cases n <;> rfl
    simp only [bit, BitVec.getLsbD_and, BitVec.getLsbD_not, h3, Bool.true_and, decide_eq_true (show n < 32 by omega)]
    cases (s.reg rSecLock).getLsbD n <;> simp

/-- Settles O51, from the rules of a write through BAR0 for registers with RW, SH and lockable fields. -/
theorem registersAreWritten : Obligations.RegistersAreWritten :=
  ⟨registerWrites, shadowedWritesArePending, lockFreezesRegisters⟩

end Sys2Proof.Machine

/-! The steps of the block: the invariant that every command keeps, and the device states it leads to (R45). -/

namespace Sys2Proof.Machine
open Sys2Proof

/-- The moves of R45 that a command makes beside those that an operation of a running device may make. -/
def commandMoves : Instr → Dev → Dev → Bool
  | .start _ _, a, b => a == .stopped && b == .running
  | .resume _ _, a, b => a == .hold && b == .running
  | .recoverDone _ _, a, b => a == .faulted && b == .stopped
  | .imageCommit _ _, a, b => a == .ready && b == .stopped
  | .bootComplete, a, b => a == .boot && b == .ready
  | .deviceReset, _, b => b == .boot
  | .powerOnReset, _, b => b == .boot
  | _, _, _ => false

theorem OutKept.stepped {m : Dev → Dev → Bool} {z : State} {o : Out} (h : OutKept z o) : OutStepped m z o :=
  fun t e => (h t e).stepped


/-- Every command but RELEASE keeps the invariant and moves the device state as `commandMoves` says. -/
theorem exec_stepped {s : State} (c : Instr) (hc : ∀ seq arg f, c ≠ .release seq arg f) : OutStepped (commandMoves c) s (exec c s) := by
  cases c with
  | release seq arg f => exact absurd rfl (hc seq arg f)
  | tickBoundary => exact (execTickBoundary_kept (Kept.refl s)).stepped
  | tickInPulse => exact (execTickInPulse_kept (Kept.refl s)).stepped
  | mark => exact (execMark_kept (Kept.refl s)).stepped
  | srcLost => exact (execSrcLost_kept (Kept.refl s)).stepped
  | tickTiming => exact (execTickTiming_kept (Kept.refl s)).stepped
  | phaseRelease => exact (execPhaseRelease_kept (Kept.refl s)).stepped
  | phaseWatchdog => exact (execPhaseWatchdog_kept (Kept.refl s)).stepped
  | recordDeadline => exact (execRecordDeadline_kept (Kept.refl s)).stepped
  | epochCommit => exact (execEpochCommit_kept (Kept.refl s)).stepped
  | commitEnd => exact (execCommitEnd_kept (Kept.refl s)).stepped
  | timeup => exact (execTimeup_kept (Kept.refl s)).stepped
  | start => exact execStart_stepped
  | stop => exact (execStop_kept (Kept.refl s)).stepped
  | hold => exact (execHold_kept (Kept.refl s)).stepped
  | resume => exact execResume_stepped
  | save => exact (execSave_kept (Kept.refl s)).stepped
  | restore => exact (execRestore_kept (Kept.refl s)).stepped
  | recover => exact (execRecover_kept (Kept.refl s)).stepped
  | recoverDone => exact execRecoverDone_stepped
  | commit => exact (execCommit_kept (Kept.refl s)).stepped
  | discard => exact (execDiscard_kept (Kept.refl s)).stepped
  | halt => exact (execHalt_kept (Kept.refl s)).stepped
  | deviceReset => exact execDeviceReset_stepped
  | resetRelease => exact (execResetRelease_kept (Kept.refl s)).stepped
  | powerOnReset => exact execPowerOnReset_stepped
  | bootComplete => exact execBootComplete_stepped
  | flr => exact (execFlr_kept (Kept.refl s)).stepped
  | linkDown => exact (execLinkDown_kept (Kept.refl s)).stepped
  | linkUp => exact (execLinkUp_kept (Kept.refl s)).stepped
  | d3hot => exact (execD3hot_kept (Kept.refl s)).stepped
  | d0Return => exact (execD0Return_kept (Kept.refl s)).stepped
  | msixUnmask => exact (execMsixUnmask_kept (Kept.refl s)).stepped
  | s1Isolate => exact (execS1Isolate_kept (Kept.refl s)).stepped
  | s1PowerUp t => exact (execS1PowerUp_kept (t := t) (Kept.refl s)).stepped
  | clockSwitch => exact (execClockSwitch_kept (Kept.refl s)).stepped
  | tile => exact (execTile_kept (Kept.refl s)).stepped
  | dir => exact (execDir_kept (Kept.refl s)).stepped
  | agent => exact (execAgent_kept (Kept.refl s)).stepped
  | ego => exact (execEgo_kept (Kept.refl s)).stepped
  | route => exact (execRoute_kept (Kept.refl s)).stepped
  | urgent => exact (execUrgent_kept (Kept.refl s)).stepped
  | s1Sync => exact (execS1Sync_kept (Kept.refl s)).stepped
  | syncDone => exact (execSyncDone_kept (Kept.refl s)).stepped
  | taskDispatch => exact (execTaskDispatch_kept (Kept.refl s)).stepped
  | taskComplete => exact (execTaskComplete_kept (Kept.refl s)).stepped
  | readyListEntry => exact (execReadyListEntry_kept (Kept.refl s)).stepped
  | merit => exact (execMerit_kept (Kept.refl s)).stepped
  | compact => exact (execCompact_kept (Kept.refl s)).stepped
  | topk => exact (execTopk_kept (Kept.refl s)).stepped
  | keyins => exact (execKeyins_kept (Kept.refl s)).stepped
  | swGo => exact (execSwGo_kept (Kept.refl s)).stepped
  | ihaulGo => exact (execIhaulGo_kept (Kept.refl s)).stepped
  | sweepStep => exact (execSweepStep_kept (Kept.refl s)).stepped
  | canarySlotEnd => exact (execCanarySlotEnd_kept (Kept.refl s)).stepped
  | testSliceStart => exact (execTestSliceStart_kept (Kept.refl s)).stepped
  | testSliceEnd => exact (execTestSliceEnd_kept (Kept.refl s)).stepped
  | latent => exact (execLatent_kept (Kept.refl s)).stepped
  | testOverdue => exact (execTestOverdue_kept (Kept.refl s)).stepped
  | issueVerdict => exact (execIssueVerdict_kept (Kept.refl s)).stepped
  | verdictLate => exact (execVerdictLate_kept (Kept.refl s)).stepped
  | safeReq => exact (execSafeReq_kept (Kept.refl s)).stepped
  | lockstep => exact (execLockstep_kept (Kept.refl s)).stepped
  | depClock => exact (execDepClock_kept (Kept.refl s)).stepped
  | depVolt => exact (execDepVolt_kept (Kept.refl s)).stepped
  | overtemp => exact (execOvertemp_kept (Kept.refl s)).stepped
  | depclkLost => exact (execDepclkLost_kept (Kept.refl s)).stepped
  | thermN => exact (execThermN_kept (Kept.refl s)).stepped
  | status => exact (execStatus_kept (Kept.refl s)).stepped
  | verdict => exact (execVerdict_kept (Kept.refl s)).stepped
  | verdictAt => exact (execVerdictAt_kept (Kept.refl s)).stepped
  | safe => exact (execSafe_kept (Kept.refl s)).stepped
  | echo => exact (execEcho_kept (Kept.refl s)).stepped
  | spiAbandon => exact (execSpiAbandon_kept (Kept.refl s)).stepped
  | doorbell => exact (execDoorbell_kept (Kept.refl s)).stepped
  | chainStart => exact (execChainStart_kept (Kept.refl s)).stepped
  | descriptorStart => exact (execDescriptorStart_kept (Kept.refl s)).stepped
  | descriptorComplete => exact (execDescriptorComplete_kept (Kept.refl s)).stepped
  | flushReadReturn => exact (execFlushReadReturn_kept (Kept.refl s)).stepped
  | cplTimeout => exact (execCplTimeout_kept (Kept.refl s)).stepped
  | hostReadCompletion => exact (execHostReadCompletion_kept (Kept.refl s)).stepped
  | poisonRx => exact (execPoisonRx_kept (Kept.refl s)).stepped
  | ringRecord => exact (execRingRecord_kept (Kept.refl s)).stepped
  | chPause => exact (execChPause_kept (Kept.refl s)).stepped
  | chResume => exact (execChResume_kept (Kept.refl s)).stepped
  | chStop => exact (execChStop_kept (Kept.refl s)).stepped
  | chCringSize => exact (execChCringSize_kept (Kept.refl s)).stepped
  | winBase => exact (execWinBase_kept (Kept.refl s)).stepped
  | bar2Read => exact (execBar2Read_kept (Kept.refl s)).stepped
  | bar2Write => exact (execBar2Write_kept (Kept.refl s)).stepped
  | registerWrite => exact (execRegisterWrite_kept (Kept.refl s)).stepped
  | clearOnRead => exact (execClearOnRead_kept (Kept.refl s)).stepped
  | captureRead => exact (execCaptureRead_kept (Kept.refl s)).stepped
  | shWrite => exact (execShWrite_kept (Kept.refl s)).stepped
  | setAlias => exact (execSetAlias_kept (Kept.refl s)).stepped
  | clearAlias => exact (execClearAlias_kept (Kept.refl s)).stepped
  | toggleAlias => exact (execToggleAlias_kept (Kept.refl s)).stepped
  | bitWindowWrite => exact (execBitWindowWrite_kept (Kept.refl s)).stepped
  | bitWindowRead => exact (execBitWindowRead_kept (Kept.refl s)).stepped
  | aliasMode => exact (execAliasMode_kept (Kept.refl s)).stepped
  | bitwinBase => exact (execBitwinBase_kept (Kept.refl s)).stepped
  | lock => exact (execLock_kept (Kept.refl s)).stepped
  | parityScan => exact (execParityScan_kept (Kept.refl s)).stepped
  | laneFail => exact (execLaneFail_kept (Kept.refl s)).stepped
  | train => exact (execTrain_kept (Kept.refl s)).stepped
  | flit => exact (execFlit_kept (Kept.refl s)).stepped
  | ack => exact (execAck_kept (Kept.refl s)).stepped
  | nak => exact (execNak_kept (Kept.refl s)).stepped
  | credit => exact (execCredit_kept (Kept.refl s)).stepped
  | snapReq => exact (execSnapReq_kept (Kept.refl s)).stepped
  | barrierBlock => exact (execBarrierBlock_kept (Kept.refl s)).stepped
  | stopSymbol => exact (execStopSymbol_kept (Kept.refl s)).stepped
  | resetSymbol => exact (execResetSymbol_kept (Kept.refl s)).stepped
  | barrier => exact (execBarrier_kept (Kept.refl s)).stepped
  | bcast => exact (execBcast_kept (Kept.refl s)).stepped
  | snap => exact (execSnap_kept (Kept.refl s)).stepped
  | stopFlood => exact (execStopFlood_kept (Kept.refl s)).stepped
  | resetFlood => exact (execResetFlood_kept (Kept.refl s)).stepped
  | put => exact (execPut_kept (Kept.refl s)).stepped
  | get => exact (execGet_kept (Kept.refl s)).stepped
  | atomicAdd => exact (execAtomicAdd_kept (Kept.refl s)).stepped
  | atomicMax => exact (execAtomicMax_kept (Kept.refl s)).stepped
  | atomicSwap => exact (execAtomicSwap_kept (Kept.refl s)).stepped
  | atomicCas => exact (execAtomicCas_kept (Kept.refl s)).stepped
  | signal => exact (execSignal_kept (Kept.refl s)).stepped
  | fence => exact (execFence_kept (Kept.refl s)).stepped
  | response => exact (execResponse_kept (Kept.refl s)).stepped
  | broadcast => exact (execBroadcast_kept (Kept.refl s)).stepped
  | xcutFlitFail => exact (execXcutFlitFail_kept (Kept.refl s)).stepped
  | refclkLost => exact (execRefclkLost_kept (Kept.refl s)).stepped
  | klrefLost => exact (execKlrefLost_kept (Kept.refl s)).stepped
  | arithPllUnlock => exact (execArithPllUnlock_kept (Kept.refl s)).stepped
  | fabricPllUnlock => exact (execFabricPllUnlock_kept (Kept.refl s)).stepped
  | pllRelock => exact (execPllRelock_kept (Kept.refl s)).stepped
  | rail => exact (execRail_kept (Kept.refl s)).stepped
  | sramScrub => exact (execSramScrub_kept (Kept.refl s)).stepped
  | dramScrub => exact (execDramScrub_kept (Kept.refl s)).stepped
  | refresh => exact (execRefresh_kept (Kept.refl s)).stepped
  | initDone => exact (execInitDone_kept (Kept.refl s)).stepped
  | push => exact (execPush_kept (Kept.refl s)).stepped
  | pushFlash => exact (execPushFlash_kept (Kept.refl s)).stepped
  | flashProgrammed => exact (execFlashProgrammed_kept (Kept.refl s)).stepped
  | attest => exact (execAttest_kept (Kept.refl s)).stepped
  | attestDone => exact (execAttestDone_kept (Kept.refl s)).stepped
  | provision => exact (execProvision_kept (Kept.refl s)).stepped
  | revoke => exact (execRevoke_kept (Kept.refl s)).stepped
  | raiseSvn => exact (execRaiseSvn_kept (Kept.refl s)).stepped
  | raiseFwSvn => exact (execRaiseFwSvn_kept (Kept.refl s)).stepped
  | otpDone => exact (execOtpDone_kept (Kept.refl s)).stepped
  | bistGo => exact (execBistGo_kept (Kept.refl s)).stepped
  | bistDone => exact (execBistDone_kept (Kept.refl s)).stepped
  | load => exact (execLoad_kept (Kept.refl s)).stepped
  | imageCommit => exact execImageCommit_stepped
  | tallyProgram => exact (execTallyProgram_kept (Kept.refl s)).stepped
  | sectorErase => exact (execSectorErase_kept (Kept.refl s)).stepped
  | token => exact (execToken_kept (Kept.refl s)).stepped
  | powerLoss => exact (execPowerLoss_kept (Kept.refl s)).stepped
  | rdSeq => exact (execRdSeq_kept (Kept.refl s)).stepped
  | dump => exact (execDump_kept (Kept.refl s)).stepped
  | dumpDone => exact (execDumpDone_kept (Kept.refl s)).stepped
  | smbId => exact (execSmbId_kept (Kept.refl s)).stepped
  | smbState => exact (execSmbState_kept (Kept.refl s)).stepped
  | smbTemp => exact (execSmbTemp_kept (Kept.refl s)).stepped
  | smbRails => exact (execSmbRails_kept (Kept.refl s)).stepped
  | smbTallyHead => exact (execSmbTallyHead_kept (Kept.refl s)).stepped
  | smbAra => exact (execSmbAra_kept (Kept.refl s)).stepped
  | idcode => exact (execIdcode_kept (Kept.refl s)).stepped
  | bypass => exact (execBypass_kept (Kept.refl s)).stepped
  | haltNRise => exact (execHaltNRise_kept (Kept.refl s)).stepped
  | perstNFall => exact (execPerstNFall_kept (Kept.refl s)).stepped
  | saveDone => exact (execSaveDone_kept (Kept.refl s)).stepped
  | restoreDone => exact (execRestoreDone_kept (Kept.refl s)).stepped
  | unlistedCode => exact (execUnlistedCode_kept (Kept.refl s)).stepped
  | badCmd => exact (execBadCmd_kept (Kept.refl s)).stepped
  | malformed => exact (execMalformed_kept (Kept.refl s)).stepped
  | markerSend => exact (execMarkerSend_kept (Kept.refl s)).stepped
  | railWithinTolerance => exact (execRailWithinTolerance_kept (Kept.refl s)).stepped

/-- What every command keeps of the invariant, RELEASE too. -/
theorem exec_keeps_inv {s u : State} {c : Instr} (i : Inv s) (h : exec c s = .next u) : Inv u := by
  by_cases hc : ∃ seq arg f, c = .release seq arg f
  · obtain ⟨seq, arg, f, rfl⟩ := hc
    exact (execRelease_keeps h).1 i
  · exact (exec_stepped c (fun seq arg f e => hc ⟨seq, arg, f, e⟩) u h).inv i

/-- How a command moves the device state; RELEASE leaves it. -/
theorem exec_moves {s u : State} {c : Instr} (h : exec c s = .next u) :
    devMoves s.dev u.dev = true ∨ commandMoves c s.dev u.dev = true := by
  by_cases hc : ∃ seq arg f, c = .release seq arg f
  · obtain ⟨seq, arg, f, rfl⟩ := hc
    exact .inl (by rw [(execRelease_keeps h).2.1]; simp [devMoves])
  · simpa using (exec_stepped c (fun seq arg f e => hc ⟨seq, arg, f, e⟩) u h).dev

/-- The invariant does not look at the commands that wait. -/
theorem inv_withPending {s : State} (i : Inv s) (l : List Instr) : Inv { s with pending := l } :=
  ⟨i.mem, i.depSlice, fun d => by cases d; exacts [i.slices .s0, i.slices .s1], i.queue, i.safe, i.otp⟩

/-- A step with an empty queue idles; else it runs the front command on the state without it. -/
theorem step_cases {s u : State} (h : Sys2Proof.Machine.step s = .next u) :
    u = s ∨ ∃ c rest, s.pending = c :: rest ∧ exec c { s with pending := rest } = .next u := by
  unfold Sys2Proof.Machine.step at h
  split at h
  · cases h
    exact .inl rfl
  · next c rest e => exact .inr ⟨c, rest, e, h⟩

theorem devAllowed_refl (a : Dev) : devAllowed a a = true := by cases a <;> rfl

/-- What a running device does by itself is among the transitions of R45. -/
theorem devAllowed_of_devMoves {a b : Dev} (h : devMoves a b = true) : devAllowed a b = true := by
  cases a <;> cases b <;> first | rfl | exact absurd h (by decide)

/-- So is what a command does beside it. -/
theorem devAllowed_of_commandMoves {c : Instr} {a b : Dev} (h : commandMoves c a b = true) : devAllowed a b = true := by
  unfold commandMoves at h
  split at h
  case h_6 | h_7 => rw [beq_iff_eq.mp h]; cases a <;> rfl
  case h_8 => cases h
  all_goals
    obtain ⟨ha, hb⟩ := Bool.and_eq_true_iff.mp h
    rw [beq_iff_eq.mp ha, beq_iff_eq.mp hb]
    rfl

/-- A move from FAULTED to another state that a command makes is that of a recovery or of a reset. -/
theorem commandMoves_faulted {c : Instr} {b : Dev} (h : commandMoves c .faulted b = true) :
    (b = .stopped ∧ ∃ t met, c = .recoverDone t met) ∨ (b = .boot ∧ (c = .deviceReset ∨ c = .powerOnReset)) := by
  unfold commandMoves at h
  split at h
  case h_3 t met => exact .inl ⟨by simpa using h, t, met, rfl⟩
  case h_6 => exact .inr ⟨beq_iff_eq.mp h, .inl rfl⟩
  case h_7 => exact .inr ⟨beq_iff_eq.mp h, .inr rfl⟩
  all_goals cases h

/-- Settles O6: an idle step changes nothing, and every command keeps the invariant. -/
theorem everyStepKeepsInvariant : Obligations.EveryStepKeepsInvariant := by
  intro s u i h
  obtain rfl | ⟨c, rest, -, e⟩ := step_cases h
  · exact i
  · exact exec_keeps_inv (inv_withPending i rest) e

/-- Settles O8: the moves of a command are those of the operations in it and its own, all of R45. -/
theorem deviceStateMovesAlongTransitions : Obligations.DeviceStateMovesAlongTransitions := by
  intro s u h
  obtain rfl | ⟨c, rest, -, e⟩ := step_cases h
  · exact devAllowed_refl _
  · exact (exec_moves e).elim devAllowed_of_devMoves devAllowed_of_commandMoves

/-- Settles O10: no operation leaves FAULTED by itself, so a command's own move does. -/
theorem faultedIsLeftByRecoveryOrReset : Obligations.FaultedIsLeftByRecoveryOrReset := by
  intro c s u h hs hu
  have m := exec_moves h
  rw [hs] at m
  obtain m | m := m
  · exact absurd (by revert m; cases u.dev <;> decide) hu
  · exact commandMoves_faulted m

end Sys2Proof.Machine

namespace Sys2Proof.Machine
open Sys2Proof

/-! ### The command interface: what enters the queue (R46) -/

/-- GLB.CMD holds write-only fields alone. -/
theorem glbCmd_fields : ∃ r, findReg rGlbCmd = some r ∧ r.rw = 0 ∧ r.sh = 0 ∧ r.rwl = 0 ∧ r.w1p = 0 ∧
    BitVec.ofNat 32 r.wo = 0xFF#32 := by
  decide +kernel

/-- GLB answers in every device state (R538). -/
theorem State.accessCode_glbCmd (s : State) : s.accessCode rGlbCmd = 0 := by
  have hr : regionOf rGlbCmd = .hub := by decide
  have hf : (findReg rGlbCmd).isNone = false := by decide +kernel
  have ha : answersInBoot rGlbCmd = true := by decide
  simp [State.accessCode, hr, hf, ha]

/-- A whole word written to GLB.CMD enters the queue, or is discarded. -/
theorem State.busWrite_glbCmd {s : State} (hd : s.host.d3 = false) {be : Nat} (hbe : be % 16 = 15) (v hi : Word) :
    s.busWrite rGlbCmd 4 be v hi = s.pushCmd (.cmd (bits v 7 0)) := by
  obtain ⟨r, hr, hrw, hsh, hrwl, hw1p, hwo⟩ := glbCmd_fields
  have hcan : canonical rGlbCmd = rGlbCmd := by decide
  have hsf : shFields rGlbCmd 0#32 = [] := hcan ▸ shFields_eq_nil hr hsh
  have hcode : bits (v &&& 0xFF#32) 7 0 = bits v 7 0 := bits_congr fun i _ hi => by
    have : (0xFF#32).getLsbD i = true := by interval_cases i <;> rfl
    simp only [BitVec.getLsbD_and, this, Bool.and_true]
  rw [State.busWrite_performed hd (by decide) (by decide) hbe s.accessCode_glbCmd hr, hcan]
  simp [State.putReg, hrw, hsh, hrwl, hw1p, hwo, hsf, State.putWo, State.when, -BitVec.reduceAllOnes, hcode]

/-- The result that a full queue records leaves everything but the command interface. -/
theorem State.pushCmd_cases (s : State) (e : CmdEntry) :
    (s.sys.queue.length < 8 ∧ s.pushCmd e = { s with sys := { s.sys with queue := s.sys.queue ++ [e] } }) ∨
      (8 ≤ s.sys.queue.length ∧ ∃ c, s.pushCmd e = s.result c reasonFull) := by
  unfold State.pushCmd
  split
  · next h => exact .inr ⟨h, _, rfl⟩
  · next h => exact .inl ⟨Nat.lt_of_not_le h, rfl⟩

/-- Settles O15: the write reaches GLB.CMD in every device state, and enters its code or records QUEUE_FULL. -/
theorem commandWritesEnterTheQueue : Obligations.CommandWritesEnterTheQueue := by
  intro s v hi be hd hbe
  refine ⟨s.pushCmd (.cmd (bits v 7 0)), ?_, ?_⟩
  · rw [exec_registerWrite (by decide), State.busWrite_glbCmd hd hbe]
  · obtain ⟨hq, e⟩ | ⟨hq, c, e⟩ := s.pushCmd_cases (.cmd (bits v 7 0))
    · exact e ▸ ⟨rfl, rfl, rfl, rfl, rfl, rfl, fun _ => rfl, fun h => absurd hq (by omega)⟩
    · exact e ▸ ⟨rfl, rfl, rfl, rfl, rfl, rfl, fun h => absurd hq (by omega), fun _ => ⟨rfl, rfl⟩⟩

/-! ### STOP, HOLD and the entries that are refused (R48 to R51, R584, R585) -/

/-- Two states that differ in device time alone. -/
theorem State.advance_eq (s : State) (t : Nat) : ∃ n, s.advance t = { s with now := n } := by
  unfold State.advance
  split
  · exact ⟨_, rfl⟩
  · exact ⟨s.now, rfl⟩

/-- The head of the queue ended with a result, on a state with the same command interface. -/
theorem EntryEnds.pop {s v : State} (h : v.sys = s.sys) (code reason : Nat) :
    EntryEnds code reason s (v.popCmd code reason) := by
  refine ⟨?_, rfl, rfl, ?_, rfl, rfl, rfl⟩
  · rw [State.popCmd_queue, h]
  · rw [State.popCmd_seq, h]

/-- What STOP at the head of the queue does in a device state (R48, R49, R585). -/
def State.stopIn (s : State) : Dev → State
  | .running => s.waitBoundary
  | .hold => (({ s with dev := .stopped }).dropStaged).popCmd 2 reasonDone
  | .stopped => s.popCmd 2 reasonDone
  | _ => s.popCmd 2 reasonState

/-- What HOLD at the head of the queue does in a device state (R48, R49, R585). -/
def State.holdIn (s : State) : Dev → State
  | .running => s.waitBoundary
  | .hold => s.popCmd 3 reasonDone
  | _ => s.popCmd 3 reasonState

theorem exec_stop {s : State} (hq : s.headIs (.cmd 2)) (hw : s.sys.waitEdge = false) (t : Nat) :
    exec (.stop t) s = .next ((s.advance t).stopIn s.dev) := by
  show execStop t s = _
  cases hd : s.dev <;> simp [execStop, State.stopIn, State.when, hq, hw, hd]

theorem exec_hold {s : State} (hq : s.headIs (.cmd 3)) (hw : s.sys.waitEdge = false) (t : Nat) :
    exec (.hold t) s = .next ((s.advance t).holdIn s.dev) := by
  show execHold t s = _
  cases hd : s.dev <;> simp [execHold, State.holdIn, State.when, hq, hw, hd]

/-- Settles O16: in RUNNING the entry waits, in HOLD a STOP empties the staging, elsewhere the entry ends. -/
theorem stopAndHoldExecute : Obligations.StopAndHoldExecute := by
  intro s t hw
  refine ⟨fun hq hd => ?_, fun hq hd => ?_, fun hq hd => ?_, fun hq hd => ?_, fun hq hd => ?_⟩
  · refine ⟨(s.advance t).waitBoundary, by rw [exec_stop hq hw, hd, State.stopIn], ?_⟩
    simp [hd, State.waitBoundary]
  · refine ⟨(({ s.advance t with dev := .stopped } : State).dropStaged).popCmd 2 reasonDone, by rw [exec_stop hq hw, hd, State.stopIn], rfl,
      EntryEnds.pop (v := ({ s.advance t with dev := .stopped } : State).dropStaged) (s.advance_sys t) _ _, rfl, rfl⟩
  · refine ⟨(s.advance t).popCmd 2 reasonDone, by rw [exec_stop hq hw, hd, State.stopIn], ?_, EntryEnds.pop (s.advance_sys t) _ _,
      s.advance_world t⟩
    exact (s.advance_dev t).trans hd
  · refine ⟨(s.advance t).waitBoundary, by rw [exec_hold hq hw, hd, State.holdIn], ?_⟩
    simp [hd, State.waitBoundary]
  · refine ⟨(s.advance t).popCmd 3 reasonDone, by rw [exec_hold hq hw, hd, State.holdIn], ?_, EntryEnds.pop (s.advance_sys t) _ _,
      s.advance_world t⟩
    exact (s.advance_dev t).trans hd

/-- The entries of the queue that find the device in a state that R49 does not take them in. -/
theorem wrongStateIsRefusedWithoutEffect : Statements.WrongStateIsRefusedWithoutEffect := by
  intro s t missed
  refine ⟨fun hq hw hd => ?_, fun hq hw h1 h2 h3 => ?_, fun hq hw h1 h2 => ?_, fun hq hd => ?_, fun hq hw hd => ?_,
    fun hq hw h1 h2 => ?_, fun hq hw hd => ?_, fun code hq hc => ?_⟩
  · show execStart t missed s = _
    simp [execStart, State.when, hq, hw, hd, reasonState]
  · rw [exec_stop hq hw]
    cases h : s.dev
    case running => exact absurd h h1
    case hold => exact absurd h h2
    case stopped => exact absurd h h3
    all_goals rfl
  · rw [exec_hold hq hw]
    cases h : s.dev
    case running => exact absurd h h1
    case hold => exact absurd h h2
    all_goals rfl
  · show execResume t missed s = _
    simp [execResume, State.when, hq, hd, reasonState]
  · show execSave t s = _
    simp [execSave, State.when, hq, hw, hd, reasonState]
  · show execRestore t s = _
    simp [execRestore, State.when, hq, hw, h1, h2, reasonState]
  · show execRecover t s = _
    simp [execRecover, State.when, hq, hw, hd, reasonState]
  · obtain ⟨rest, hl⟩ : ∃ rest, s.sys.queue = .cmd code :: rest := by
      cases h : s.sys.queue with
      | nil => rw [State.headIs, h] at hq; cases hq
      | cons a l => rw [State.headIs, h] at hq; cases hq; exact ⟨l, rfl⟩
    refine ⟨(s.advance t).popCmd code reasonState, ?_, ?_⟩
    · show execUnlistedCode t s = _
      simp [execUnlistedCode, hl, hc]
    · exact ⟨EntryEnds.pop (s.advance_sys t) _ _, s.advance_dev t, s.advance_regs t, s.advance_mem t, s.advance_tick t,
        s.advance_world t⟩

/-- START and RESUME with sound registers and a condition of R50 that fails. -/
theorem startAndResumeAreRefusedByReason : Statements.StartAndResumeAreRefusedByReason := by
  intro s t missed r hr
  refine ⟨fun hq hw hd hs hc => ?_, fun hq hd hs hc => ?_⟩
  · have hs' : (s.advance t).soundAt (runRegs ++ sessionRegs) = true := by simpa [State.soundAt] using hs
    have hc' : (s.advance t).runCheck ((s.advance t).pair rTickTimeSetLo rTickTimeSetHi) = r := by
      obtain ⟨n, e⟩ := s.advance_eq t
      rw [e]
      exact hc
    show execStart t missed s = _
    simp [execStart, State.when, hq, hw, hd, State.checkUses_sound _ _ hs', hc', hr, reasonDone]
  · have hs' : (s.advance t).soundAt runRegs = true := by simpa [State.soundAt] using hs
    show execResume t missed s = _
    simp [execResume, State.when, hq, hd, State.checkUses_sound _ _ hs', hc, hr, reasonDone]

/-- Settles O18: by the command and the state; of START and RESUME by the condition that fails. -/
theorem commandsAreRefusedByReason : Obligations.CommandsAreRefusedByReason :=
  ⟨wrongStateIsRefusedWithoutEffect, startAndResumeAreRefusedByReason⟩

end Sys2Proof.Machine

namespace Sys2Proof.Machine
open Sys2Proof

/-! ### The end of a run and the record written INVALID (R33, R37, R45, R52) -/

/-- A cause of INVALID met changes the plan alone. -/
theorem State.invalid_eq (s : State) (code : Nat) : ∃ at_, s.invalid code = { s with
    plan := { s.plan with cause := some (s.causeWith code), causeAt := at_
                          lost := s.plan.lost || containedReasons.contains code } } := by
  unfold State.invalid State.causeWith
  cases h : s.plan.cause with
  | none => exact ⟨s.now, by simp⟩
  | some c => exact ⟨s.plan.causeAt, by simp⟩

/-- What a record written INVALID leaves of the plan. -/
structure InvalidWritten (code : Nat) (s u : State) : Prop where
  cause : u.plan.cause = some (s.causeWith code)
  record : u.plan.record.isSome = true
  lost : u.plan.lost = (s.plan.lost || containedReasons.contains code)

theorem State.writeInvalid_written (s : State) (code : Nat) : InvalidWritten code s (s.writeInvalid code) := by
  obtain ⟨at_, e⟩ := s.invalid_eq code
  unfold State.writeInvalid
  rw [e]
  exact ⟨rfl, rfl, rfl⟩

/-- The cause that stands depends on the plan and on device time. -/
theorem State.causeWith_congr {s t : State} (hp : t.plan = s.plan) (hn : t.now = s.now) (code : Nat) :
    t.causeWith code = s.causeWith code := by
  unfold State.causeWith
  rw [hp, hn]

theorem State.stopWork_frame (s : State) : Framed [.regs, .tick, .dies, .kl, .out] s s.stopWork :=
  State.stopWork_framed (List.Subset.refl _) (Framed.refl s)

theorem State.writeInvalid_frame (s : State) (code : Nat) : Framed [.regs, .plan, .chans, .dep] s (s.writeInvalid code) :=
  State.writeInvalid_framed (List.Subset.refl _) (Framed.refl s)

theorem State.leaveRunning_frame (s : State) (d : Dev) : Framed [.dev, .queue, .sys, .tick, .out] s (s.leaveRunning d) :=
  State.leaveRunning_framed (List.Subset.refl _) (Framed.refl s)

/-- A run that ends leaves the Tick block without a tick. -/
theorem State.leaveRunning_tick (s : State) (d : Dev) :
    (s.leaveRunning d).tick.live = false ∧ (s.leaveRunning d).tick.phase = 7 := by
  have f : ∀ v : State, Framed [.dev, .queue, .sys, .out] v (v.settleHead).retrainDown := fun v =>
    State.retrainDown_framed (by decide) (State.settleHead_framed (by decide) (Framed.refl v))
  have e : (s.leaveRunning d).tick = _ := f _ .tick (by decide)
  rw [e]
  exact ⟨rfl, rfl⟩

theorem State.leaveRunning_stopped (s : State) : (s.leaveRunning .stopped).dev = .stopped :=
  State.leaveRunning_dev.elim id And.right

/-- What HALT_N does with the tick in progress: its work stops, and its record is written INVALID where none is. -/
def State.haltTick (s : State) : State :=
  if s.tick.live then
    if s.stopWork.plan.record.isNone || s.stopWork.rewritable then s.stopWork.writeInvalid reasonHaltedRec else s.stopWork
  else s

theorem State.haltNow_eq {s : State} (h : s.dev = .running ∨ s.dev = .hold) : s.haltNow = s.haltTick.leaveRunning .stopped := by
  unfold State.haltNow
  rw [if_pos h]
  rfl

theorem State.haltTick_frame (s : State) : Framed [.regs, .tick, .dies, .kl, .out, .plan, .chans, .dep] s s.haltTick := by
  have f : Framed [.regs, .tick, .dies, .kl, .out, .plan, .chans, .dep] s s.stopWork :=
    State.stopWork_framed (by decide) (Framed.refl s)
  exact Framed.ite (Framed.ite (State.writeInvalid_framed (by decide) f) f) (Framed.refl s)

/-- A tick without a record has it written INVALID. -/
theorem State.haltTick_written {s : State} (hl : s.tick.live = true) (hr : s.plan.record = none) :
    InvalidWritten reasonHaltedRec s.stopWork s.haltTick := by
  have hp : s.stopWork.plan = s.plan := s.stopWork_frame .plan (by decide)
  have e : s.haltTick = s.stopWork.writeInvalid reasonHaltedRec := by
    simp [State.haltTick, hl, hp, hr]
  exact e ▸ s.stopWork.writeInvalid_written _

/-- What the abandoned tick and the end of the run leave. -/
structure Halted (s u : State) : Prop where
  dev : u.dev = .stopped
  live : u.tick.live = false
  phase : u.tick.phase = 7
  mem : u.mem = s.mem
  safe : u.dep.safe = s.dep.safe
  written : s.tick.live = true → s.plan.record = none →
    u.plan.record.isSome = true ∧ u.plan.cause = some (s.causeWith reasonHaltedRec)

theorem State.haltNow_halted {s : State} (h : s.dev = .running ∨ s.dev = .hold) : Halted s s.haltNow := by
  rw [State.haltNow_eq h]
  have f := s.haltTick_frame
  have hw := @State.haltTick_written s
  generalize s.haltTick = v at f hw
  have g := v.leaveRunning_frame .stopped
  have hdev := v.leaveRunning_stopped
  obtain ⟨hlive, hphase⟩ := v.leaveRunning_tick .stopped
  generalize v.leaveRunning .stopped = u at g hdev hlive hphase
  have hplan : u.plan = v.plan := g .plan (by decide)
  refine ⟨hdev, hlive, hphase, (g .mem (by decide)).trans (f .mem (by decide)),
    (g .safe (by decide)).trans (f .safe (by decide)), fun hl hr => ?_⟩
  obtain ⟨hc, hrec, -⟩ := hw hl hr
  rw [hplan, hc, State.causeWith_congr (s.stopWork_frame .plan (by decide)) (s.stopWork_frame .now (by decide))]
  exact ⟨hrec, rfl⟩

/-- Settles O19: the abandoned tick, and what the pin alone changes. -/
theorem haltStopsTheDevice : Obligations.HaltStopsTheDevice := by
  intro s t low
  refine ⟨fun hlow hd => ?_, fun h => ?_, rfl⟩
  · have e : exec (.halt ⟨t, low⟩) s = .next { (s.advance t).haltNow with sys := { (s.advance t).haltNow.sys with haltLow := true } } := by
      show execHalt ⟨t, low⟩ s = _
      simp only [execHalt, decide_eq_true hlow, State.when_true]
    obtain ⟨hdev, hlive, hphase, hmem, hsafe, hwritten⟩ := State.haltNow_halted (s := s.advance t) (by simpa using hd)
    generalize (s.advance t).haltNow = u at *
    exact ⟨_, e, hdev, rfl, hlive, hphase, hmem.trans (s.advance_mem t), hsafe.trans (congrArg Deputy.safe (s.advance_dep t)),
      fun hl hr => hwritten (by simpa using hl) (by simpa using hr)⟩
  · have e : (s.advance t).when (decide (1000 ≤ low)) (fun s => s.haltNow) = s.advance t := by
      rcases h with h | ⟨h1, h2⟩
      · simp [State.when, Nat.not_le.mpr h]
      · have : (s.advance t).haltNow = s.advance t := if_neg (by simp [h1, h2])
        unfold State.when
        split
        · exact this
        · rfl
    show execHalt ⟨t, low⟩ s = _
    simp only [execHalt, e, s.advance_sys t]

end Sys2Proof.Machine

namespace Sys2Proof
open Sys2Proof.Machine

/-! ### Frames composed -/

theorem Framed.trans {ps : List Part} {r s t : State} (h : Framed ps r s) (k : Framed ps s t) : Framed ps r t :=
  fun p hp => Part.same_trans (h p hp) (k p hp)

theorem Framed.mono {ps qs : List Part} {s t : State} (h : Framed ps s t) (k : ps ⊆ qs) : Framed qs s t :=
  fun p hp => h p fun hq => hp (k hq)

/-- A write of the Kornov block's state. -/
theorem Framed.withKl {ps : List Part} {z s : State} (h : Part.kl ∈ ps) (k : Klink) (hs : Framed ps z s) :
    Framed ps z { s with kl := k } := by
  intro p hp
  cases p with
  | kl => exact absurd h hp
  | _ => exact hs _ hp

/-- A write of the Tick block's state. -/
theorem Framed.withTick {ps : List Part} {z s : State} (h : Part.tick ∈ ps) (k : Tick) (hs : Framed ps z s) :
    Framed ps z { s with tick := k } := by
  intro p hp
  cases p with
  | tick => exact absurd h hp
  | _ => exact hs _ hp

end Sys2Proof

namespace Sys2Proof.Machine
open Sys2Proof

/-! ### Registers that an operation leaves as they were -/

/-- The registers at the offsets `P` read in `s` as in `z`. -/
def RegsKept (P : Nat → Prop) (z s : State) : Prop := ∀ a, P a → s.reg a = z.reg a

namespace RegsKept
variable {P : Nat → Prop} {z s t : State}

theorem refl (s : State) : RegsKept P s s := fun _ _ => rfl

theorem trans (h : RegsKept P z s) (k : RegsKept P s t) : RegsKept P z t := fun a ha => (k a ha).trans (h a ha)

theorem of_regs (hs : RegsKept P z s) (h : t.regs = s.regs) : RegsKept P z t :=
  fun a ha => (State.reg_of_regs h a).trans (hs a ha)

/-- An operation whose frame leaves the registers alone. -/
theorem framed {ps : List Part} (hs : RegsKept P z s) (h : Framed ps s t) (hp : Part.regs ∉ ps := by decide) :
    RegsKept P z t := hs.of_regs (h .regs hp)

theorem setReg {o : Nat} (ho : ¬ P o) (v : Word) (hs : RegsKept P z s) : RegsKept P z (s.setReg o v) :=
  fun a ha => (State.reg_setReg_ne s v (by rintro rfl; exact ho ha)).trans (hs a ha)

theorem event {o : Nat} (ho : ¬ P o) (n : Nat) (hs : RegsKept P z s) : RegsKept P z (s.event o n) := hs.setReg ho _

theorem count {o : Nat} (ho : ¬ P o) (n : Nat) (hs : RegsKept P z s) : RegsKept P z (s.count o n) := hs.setReg ho _

theorem setField {o : Nat} (ho : ¬ P o) (hi lo v : Nat) (hs : RegsKept P z s) : RegsKept P z (s.setField o hi lo v) :=
  hs.setReg ho _

theorem setPair {lo hi : Nat} (hlo : ¬ P lo) (hhi : ¬ P hi) (v : Nat) (hs : RegsKept P z s) :
    RegsKept P z (s.setPair lo hi v) := (hs.setReg hlo _).setReg hhi _

theorem setBoth {o : Die → Nat} (ho : ∀ d, ¬ P (o d)) (v : Word) (hs : RegsKept P z s) : RegsKept P z (s.setBoth o v) :=
  (hs.setReg (ho .s0) _).setReg (ho .s1) _

theorem ite {c : Prop} [Decidable c] (hs : RegsKept P z s) (ht : RegsKept P z t) : RegsKept P z (if c then s else t) := by
  split
  · exact hs
  · exact ht

theorem when {c : Bool} {f : State → State} (hs : RegsKept P z s) (hf : RegsKept P z (f s)) : RegsKept P z (s.when c f) :=
  RegsKept.ite hf hs

theorem foldl {α : Type} {f : State → α → State} (hf : ∀ t a, RegsKept P z t → RegsKept P z (f t a)) (l : List α)
    (hs : RegsKept P z s) : RegsKept P z (l.foldl f s) := by
  induction l generalizing s with
  | nil => exact hs
  | cons a l ih => exact ih (hf s a hs)

theorem setDie (d : Die) (x : DieState) (hs : RegsKept P z s) : RegsKept P z (s.setDie d x) :=
  hs.of_regs (by cases d <;> rfl)

theorem irq (v : Nat) (hs : RegsKept P z s) : RegsKept P z (s.irq v) := hs.of_regs (s.irq_regs v)

theorem advance (t : Nat) (hs : RegsKept P z s) : RegsKept P z (s.advance t) := hs.of_regs (s.advance_regs t)

theorem log (hl : ∀ a ∈ logRegs, ¬ P a) (sev code source : Nat) (data : List Byte) (hs : RegsKept P z s) :
    RegsKept P z (s.log sev code source data) :=
  fun a ha => (State.reg_log s sev code source data fun e => hl a e ha).trans (hs a ha)

theorem store (a : Nat) (data : List Byte) (hs : RegsKept P z s) : RegsKept P z (s.store a data) :=
  hs.framed (State.store_framed (List.Subset.refl _) (Framed.refl s))

end RegsKept

/-! ### The Tick block's registers at a boundary (01_tick) -/

/-- The registers of the Tick block. -/
def tickBlock (a : Nat) : Prop := 0x20000 ≤ a ∧ a < 0x30000


theorem Die.base_ge (d : Die) : 0x400000 ≤ d.base := by cases d <;> decide

/-- A set of hub registers holds none of a die's region. -/
theorem not_of_hub {P : Nat → Prop} (hub : ∀ a, P a → a < 0x400000) {o : Nat} (h : 0x400000 ≤ o) : ¬ P o :=
  fun hp => Nat.not_lt.mpr h (hub o hp)

namespace RegsKept
variable {P : Nat → Prop} {z s t : State} (hub : ∀ a, P a → a < 0x400000)
include hub

/-- A register at an offset of a die's region is none of the hub's. -/
theorem notDie (d : Die) (k : Nat) : ¬ P (d.base + k) := not_of_hub hub (Nat.le_add_right_of_le d.base_ge)

theorem chargeWaits (d : Die) (hs : RegsKept P z s) : RegsKept P z (s.chargeWaits d) := by
  have hev : ¬ P (rOvmEvents d) := notDie hub d _
  have hbp : ¬ P (rOvmBpCycles d) := notDie hub d _
  have hal : ¬ P (rOvmAllocCycles d) := notDie hub d _
  unfold State.chargeWaits
  extract_lets x pages o s1 s2
  have h1 : RegsKept P z s1 := hs.setDie d _
  have h2 : RegsKept P z s2 := h1.when ((h1.event hev _).count hbp _)
  exact h2.when ((h2.event hev _).count hal _)

theorem enterTask (d : Die) (t : Nat) (hs : RegsKept P z s) : RegsKept P z (s.enterTask d t) := by
  unfold State.enterTask
  refine RegsKept.ite ?_ hs
  dsimp only
  exact (hs.setDie d _).when ((hs.setDie d _).event (notDie hub d _) _)

theorem enterPhase (d : Die) (hs : RegsKept P z s) : RegsKept P z (s.enterPhase d) :=
  hs.foldl (fun _ t h => h.enterTask hub d t) _

theorem setTickSeed (k : Nat) (hs : RegsKept P z s) : RegsKept P z (s.setTickSeed k) :=
  (hs.setBoth (fun d => notDie hub d _) _).setBoth (fun d => notDie hub d _) _

theorem clearTickCounters (hs : RegsKept P z s) :
    RegsKept P z ((tickCounters .s0 ++ tickCounters .s1).foldl (fun s o => s.setReg o 0) s) := by
  have hc : ∀ d, ∀ o ∈ tickCounters d, 0x400000 ≤ o := by
    intro d
    cases d <;> decide
  have hall : ∀ o ∈ tickCounters .s0 ++ tickCounters .s1, ¬ P o := fun o ho =>
    not_of_hub hub ((List.mem_append.mp ho).elim (hc _ o) (hc _ o))
  revert hall hs
  generalize tickCounters .s0 ++ tickCounters .s1 = l
  induction l generalizing s with
  | nil => exact fun hs _ => hs
  | cons o l ih =>
    intro hs hall
    exact ih (hs.setReg (hall o List.mem_cons_self) 0) fun a ha => hall a (List.mem_cons_of_mem o ha)

variable (hl : ∀ a ∈ logRegs, ¬ P a)
include hl

theorem retireRows (d : Die) (hs : RegsKept P z s) : RegsKept P z (s.retireRows d) := by
  unfold State.retireRows
  extract_lets x was y s1
  have h1 : RegsKept P z s1 := (hs.setDie d _).event (notDie hub d _) _
  exact RegsKept.ite hs (RegsKept.ite ((h1.event (notDie hub d _) _).log hl _ _ _ _) h1)

theorem reportRetired (d : Die) (p : Nat) (c : CeUnit) (hs : RegsKept P z s) : RegsKept P z (s.reportRetired d p c) := by
  unfold State.reportRetired
  extract_lets taker s1 s2
  have h1 : RegsKept P z s1 := hs.event (not_of_hub hub (Nat.le_add_right_of_le (Nat.le_add_right_of_le d.base_ge))) _
  exact (h1.when (h1.event (notDie hub d _) _)).log hl _ _ _ _

theorem changeCes (d : Die) (before : Nat) (gone : List Nat) (due pool : Bool) (hs : RegsKept P z s) :
    RegsKept P z (s.changeCes d before gone due pool) := by
  unfold State.changeCes
  extract_lets x y s1 s2 s3
  have h1 : RegsKept P z s1 := hs.setDie d _
  have h2 : RegsKept P z s2 := h1.foldl (fun t p h => h.reportRetired hub hl d p _) _
  have h3 : RegsKept P z s3 := by
    show RegsKept P z (match x.testEngine with | some p => _ | none => _)
    split
    · exact h2.when (h2.framed (State.writeCanary_framed (List.Subset.refl _) (Framed.refl _)))
    · exact h2
  exact h3.when (h3.event (notDie hub d _) _)

theorem boundaryUnits (d : Die) (hs : RegsKept P z s) : RegsKept P z (s.boundaryUnits d) := by
  unfold State.boundaryUnits
  exact RegsKept.ite (((hs.setDie d _).retireRows hub hl d).changeCes hub hl d _ _ _ _) hs

end RegsKept

end Sys2Proof.Machine

namespace Sys2Proof.Machine
open Sys2Proof

/-! ### A boundary up to its release or its stop (R15, R22, R48, R192, R294, R330) -/

/-- The state at a boundary once the tick in progress has ended and the changes timed to boundaries have taken effect. -/
def State.atBoundary (s : State) (t : Nat) : State :=
  let w := ((((s.advance t).endTick).newTickDies).boundaryUnits .s0).boundaryUnits .s1
  w.setBoth (fun d => rPaOrder d) (BitVec.ofNat 32 w.paOrder)

/-- The boundary releases the next tick where no STOP or HOLD is due. -/
theorem State.boundary_release {s : State} {t : Nat}
    (h : ¬ ((s.atBoundary t).sys.waitEdge = true ∧ (s.atBoundary t).sys.waitAt < t)) :
    s.boundary t = (s.atBoundary t).releaseTick t := if_neg h

/-- What a boundary with an entry due does with it: a STOP ends the run, any other entry puts it on hold. -/
def State.endRun (w : State) : State :=
  match w.sys.queue with
  | .cmd 2 :: _ => (((w.leaveRunning .stopped).dropStaged).edgeCommands 8).retrainXcut
  | _ => ((w.leaveRunning .hold).edgeCommands 8).retrainXcut

theorem State.boundary_ends {s : State} {t : Nat}
    (h : (s.atBoundary t).sys.waitEdge = true ∧ (s.atBoundary t).sys.waitAt < t) : s.boundary t = (s.atBoundary t).endRun := if_pos h

/-- A STOP at the head that is due ends the run. -/
theorem State.endRun_stop {w : State} {rest : List CmdEntry} (hq : w.sys.queue = .cmd 2 :: rest) :
    w.endRun = (((w.leaveRunning .stopped).dropStaged).edgeCommands 8).retrainXcut := by
  unfold State.endRun
  rw [hq]
  rfl

/-- Any other entry that waits and is due ends it on hold. -/
theorem State.endRun_hold {w : State} (hq : ∀ rest, w.sys.queue ≠ .cmd 2 :: rest) :
    w.endRun = ((w.leaveRunning .hold).edgeCommands 8).retrainXcut := by
  unfold State.endRun
  split
  · next rest e => exact absurd e (hq rest)
  · rfl

theorem State.atBoundary_frame (s : State) (t : Nat) :
    Framed [.now, .regs, .tick, .plan, .world, .dies, .kl, .out, .mem, .slices, .host, .tally] s (s.atBoundary t) :=
  State.setBoth_framed (by decide) (State.boundaryUnits_framed (by decide) (State.boundaryUnits_framed (by decide)
    (State.newTickDies_framed (by decide) (State.endTick_framed (by decide) (State.advance_framed (by decide) (Framed.refl s))))))

/-- With no tick in progress none ends. -/
theorem State.endTick_idle {s : State} (h : s.tick.live = false) : s.endTick = s := if_neg (by simp [h])

theorem Tick.eq_idle {k : Tick} (h : k.live = false) : k = { k with live := false } := by
  cases k
  subst h
  rfl

/-- The state whose Tick block the end of a tick counts and idles. -/
theorem State.endTick_live {s : State} (h : s.tick.live = true) : ∃ v : State, v.tick = s.tick ∧
    s.endTick = { v with tick := { (if v.src = 0 then v.tick else v.tick.countEvents) with live := false } } :=
  ⟨s.switchBank.takeHistory.dropUrgents,
    State.dropUrgents_framed (ps := [.regs, .plan, .world]) (by decide) (State.takeHistory_framed (by decide)
      (State.switchBank_framed (by decide) (Framed.refl s))) .tick (by decide), if_pos h⟩

/-- The end of a tick changes of the Tick block the counts of the source's events (R22, R23) and that a tick is in progress. -/
theorem State.endTick_tick (s : State) : ∃ missed good seenLast seen, s.endTick.tick =
    { s.tick with live := false, missed := missed, good := good, seenLast := seenLast, seen := seen } := by
  cases h : s.tick.live with
  | true =>
    obtain ⟨v, hv, e⟩ := State.endTick_live h
    rw [e, ← hv]
    by_cases h0 : v.src = 0
    · exact ⟨v.tick.missed, v.tick.good, v.tick.seenLast, v.tick.seen, by simp only [if_pos h0]⟩
    · exact ⟨_, _, _, _, by simp only [if_neg h0]; rfl⟩
  | false =>
    rw [State.endTick_idle h]
    exact ⟨_, _, _, _, Tick.eq_idle h⟩

/-- What follows the end of the tick at a boundary leaves the Tick block. -/
theorem State.atBoundary_tick (s : State) (t : Nat) : (s.atBoundary t).tick = (s.advance t).endTick.tick :=
  State.setBoth_framed (ps := [.regs, .dies, .kl, .out, .mem, .slices, .host, .tally]) (by decide)
    (State.boundaryUnits_framed (by decide) (State.boundaryUnits_framed (by decide)
      (State.newTickDies_framed (by decide) (Framed.refl _)))) .tick (by decide)

/-- A snapshot changes of the Tick block the expected boundary alone. -/
theorem State.snapshot_tick (s : State) (t : Nat) : ∃ e, (s.snapshot t).tick = { s.tick with expect := e } := by
  unfold State.snapshot
  split
  · extract_lets base k l v bs
    have hv : v.tick = { s.tick with expect := t } := rfl
    clear_value v
    refine ⟨t, Eq.trans ?_ hv⟩
    have h : Framed [.regs, .mem, .slices, .host, .kl, .tally, .out] v
        (if !v.saveRegionOk base v.saveLen then v.endSnapshot base v.saveLen 6
          else if v.stalls base v.saveLen then ({ v with kl := { v.kl with snapDue := some (base, bs) } }).noteStall base v.saveLen
          else v.storeSnapshot base bs) := by
      refine Framed.ite (State.endSnapshot_framed (by decide) (Framed.refl v)) (Framed.ite ?_
        (State.storeSnapshot_framed (by decide) (Framed.refl v)))
      exact State.noteStall_framed (by decide) (Framed.withKl (by decide) _ (Framed.refl v))
    exact h .tick (by decide)
  · exact ⟨s.tick.expect, rfl⟩

theorem State.snapshot_frame (s : State) (t : Nat) : Framed [.regs, .mem, .slices, .tick, .host, .kl, .tally, .out] s (s.snapshot t) :=
  State.snapshot_framed (List.Subset.refl _) (Framed.refl s)

/-- Phase 0 released leaves the plan and the Tick block but for the phase. -/
theorem State.releasePhase_zero (s : State) : ∃ v : State, Framed [.regs, .mem, .slices, .dies] v (s.releasePhase 0) ∧
    v = { s with tick := { s.tick with rel := 1, phase := 0 } } := by
  refine ⟨_, ?_, rfl⟩
  unfold State.releasePhase
  exact Framed.foldl (Framed.foldl (State.clearKeyTable_framed (by decide) (Framed.refl _))
    fun _ h _ => State.setCanaries_framed (by decide) h) fun _ h _ => State.enterPhase_framed (by decide) h

/-- The history of a RESTORE reckoned from the first boundary after it (R498), and a snapshot due. -/
def State.tickPrepared (s : State) (t : Nat) : State :=
  (match s.tick.nextT with
    | some e => { s with plan := { s.plan with history := s.plan.history.map (shiftHistory ((t : Int) - e)) }
                         tick := { s.tick with nextT := none } }
    | none => s).snapshot t

/-- The tick numbered `k` opened at `t`, `p` after the boundary before it where it is the first. -/
def State.tickOpened (s : State) (first : Bool) (k p t : Nat) : State :=
  let prev : Int := if first then (t : Int) - p else s.tick.tk
  let slew := clampInt s.tick.slew (-1000) 1000
  let expect := ((t + p : Nat) + s.tick.corr + slew : Int).toNat
  { s with ticked := some k
           tick := { s.tick with num := k, next := (k + 1) % 2 ^ 64, live := true, awaitT0 := false, tk := t
                                 prev := prev, first := false, nextT := none, expect := expect, corr := 0, phase := 6, rel := 0
                                 stopped := false, atT0 := first, rise := none
                                 runIn := bits (s.reg rTickInvalidRun) 3 0
                                 slew := s.tick.slew - slew }
           plan := Plan.fresh s.plan.history
           world := { s.world with begun := false, urgTaken := 0 }
           dep := s.dep.newTick first t
           host := { s.host with pace := bits (s.reg rHostPace) 15 0, pvDone := false, spent := 0 } }

/-- What else the release of a tick numbered `k` starts anew: the counts of the last tick, the seed, the links, the streams. -/
def State.tickStarted (s : State) (k : Nat) : State :=
  let s := (s.setDie .s0 { s.d0 with clockCut := false }).setDie .s1 { s.d1 with clockCut := false }
  let s := s.setReg rHostPaceUsed 0
  let s := ((tickCounters .s0 ++ tickCounters .s1).foldl (fun s o => s.setReg o 0) s)
  let s := s.setField (rHeapFcStatus .s0) 23 16 0
  ((s.setTickSeed k).retrainXcut.retrainDown.trigger 1).drainHeld

/-- The tick released at `t`: its number and times, nothing of it done yet, no record formed. -/
structure TickReleased (s u : State) (t : Nat) : Prop where
  tick : ∃ prev phase rel rise runIn, u.tick = { s.tick with
    num := s.tick.next, next := (s.tick.next + 1) % 2 ^ 64, live := true, awaitT0 := false, tk := t, prev := prev
    first := false, nextT := none, corr := 0, phase := phase, rel := rel, stopped := false, atT0 := s.tick.first, rise := rise
    expect := ((t + s.period : Nat) + s.tick.corr + clampInt s.tick.slew (-1000) 1000 : Int).toNat
    runIn := runIn, slew := s.tick.slew - clampInt s.tick.slew (-1000) 1000 }
  plan : ∃ history, u.plan = Plan.fresh history
  ticked : u.ticked = some s.tick.next
  dev : u.dev = s.dev
  sys : u.sys = s.sys

theorem State.releaseTick_frame (s : State) (t : Nat) :
    Framed [.ticked, .regs, .mem, .slices, .tick, .plan, .world, .dies, .chans, .host, .kl, .dep, .tally, .out] s (s.releaseTick t) :=
  State.releaseTick_framed (List.Subset.refl _) (Framed.refl s)

theorem State.tickStarted_frame (s : State) (k : Nat) : Framed [.regs, .world, .dies, .chans, .host, .out] s (s.tickStarted k) := by
  unfold State.tickStarted
  refine State.drainHeld_framed (by decide) (State.trigger_framed (by decide) (State.retrainDown_framed (by decide)
    (State.retrainXcut_framed (by decide) (State.setTickSeed_framed (by decide) (State.setField_framed (by decide)
      (Framed.foldl ?_ fun _ h _ => State.setReg_framed (by decide) h))))))
  exact State.setReg_framed (by decide) (State.setDie_framed (by decide)
    (State.setDie_framed (by decide) (Framed.refl s) fun _ => rfl) fun _ => rfl)

theorem State.tickPrepared_tick (s : State) (t : Nat) :
    ∃ x e, (s.tickPrepared t).tick = { s.tick with nextT := x, expect := e } := by
  unfold State.tickPrepared
  split
  · next e _ =>
    obtain ⟨b, hb⟩ := State.snapshot_tick { s with plan := { s.plan with history := s.plan.history.map (shiftHistory ((t : Int) - e)) }, tick := { s.tick with nextT := none } } t
    exact ⟨none, b, hb⟩
  · obtain ⟨b, hb⟩ := s.snapshot_tick t
    exact ⟨s.tick.nextT, b, hb⟩

theorem State.driveTickOut_frame (s : State) (t : Nat) : Framed [.tick, .out] s (s.driveTickOut t) :=
  State.driveTickOut_framed (List.Subset.refl _) (Framed.refl s)

/-- TICK_OUT's rise is all that driving it changes of the Tick block. -/
theorem State.driveTickOut_tick (s : State) (t : Nat) : ∃ r, (s.driveTickOut t).tick = { s.tick with rise := r } := by
  unfold State.driveTickOut State.when
  split
  · exact ⟨some t, rfl⟩
  · exact ⟨s.tick.rise, rfl⟩

/-- A release of phase 0 where it is due at the boundary itself. -/
theorem State.when_releasePhase_zero (s : State) (c : Bool) : ∃ rel phase,
    (s.when c fun s => s.releasePhase 0).tick = { s.tick with rel := rel, phase := phase } ∧
    Framed [.regs, .mem, .slices, .dies, .tick] s (s.when c fun s => s.releasePhase 0) := by
  cases c with
  | true =>
    obtain ⟨v, hf, rfl⟩ := s.releasePhase_zero
    exact ⟨1, 0, hf .tick (by decide), Framed.trans (Framed.withTick (by decide) _ (Framed.refl s)) (hf.mono (by decide))⟩
  | false => exact ⟨s.tick.rel, s.tick.phase, rfl, Framed.refl s⟩

/-- What a release does once the tick is opened: of the Tick block TICK_OUT's rise, and the phase where one is released. -/
def State.tickBegun (s : State) (k at_ : Nat) (c : Bool) : State :=
  ((s.tickStarted k).driveTickOut at_).when c fun s => s.releasePhase 0

theorem State.tickBegun_frame (s : State) (k at_ : Nat) (c : Bool) :
    Framed [.regs, .mem, .slices, .tick, .world, .dies, .chans, .host, .out] s (s.tickBegun k at_ c) := by
  obtain ⟨-, -, -, h⟩ := State.when_releasePhase_zero ((s.tickStarted k).driveTickOut at_) c
  exact Framed.trans (Framed.trans ((s.tickStarted_frame k).mono (by decide)) (((s.tickStarted k).driveTickOut_frame at_).mono (by decide)))
    (h.mono (by decide))

theorem State.tickBegun_tick (s : State) (k at_ : Nat) (c : Bool) : ∃ rise rel phase,
    (s.tickBegun k at_ c).tick = { s.tick with rise := rise, rel := rel, phase := phase } := by
  obtain ⟨rise, hr⟩ := (s.tickStarted k).driveTickOut_tick at_
  obtain ⟨rel, phase, h, -⟩ := State.when_releasePhase_zero ((s.tickStarted k).driveTickOut at_) c
  exact ⟨rise, rel, phase, by rw [State.tickBegun, h, hr, s.tickStarted_frame k .tick (by decide)]⟩

theorem State.releaseTick_eq (s : State) (t : Nat) : ∃ at_ c, s.releaseTick t =
    ((s.tickPrepared t).tickOpened s.tick.first s.tick.next s.period t).tickBegun s.tick.next at_ c := ⟨_, _, rfl⟩

theorem State.tickOpened_tick {s : State} {k0 : Tick} {nt : Option Nat} {ex : Nat}
    (h : s.tick = { k0 with nextT := nt, expect := ex }) (first : Bool) (k p t : Nat) : ∃ prev runIn,
    (s.tickOpened first k p t).tick = { k0 with
      num := k, next := (k + 1) % 2 ^ 64, live := true, awaitT0 := false, tk := t, prev := prev, first := false
      nextT := none, expect := ((t + p : Nat) + k0.corr + clampInt k0.slew (-1000) 1000 : Int).toNat, corr := 0, phase := 6
      rel := 0, stopped := false, atT0 := first, rise := none, runIn := runIn
      slew := k0.slew - clampInt k0.slew (-1000) 1000 } := by
  refine ⟨if first then (t : Int) - p else s.tick.tk, bits (s.reg rTickInvalidRun) 3 0, ?_⟩
  have e : ∀ k1 : Tick, k1 = { k0 with nextT := nt, expect := ex } →
      k1.corr = k0.corr ∧ k1.slew = k0.slew := by
    rintro _ rfl
    exact ⟨rfl, rfl⟩
  unfold State.tickOpened
  dsimp only
  rw [h]

theorem State.releaseTick_released (s : State) (t : Nat) : TickReleased s (s.releaseTick t) t := by
  have hdev := s.releaseTick_frame t .dev (by decide)
  have hsys := (s.releaseTick_frame t).sys_eq (by decide) (by decide)
  obtain ⟨nt, ex, h1⟩ := s.tickPrepared_tick t
  obtain ⟨at_, c, hu⟩ := State.releaseTick_eq s t
  rw [hu] at hdev hsys ⊢
  clear hu
  generalize s.tickPrepared t = p at h1 hdev hsys ⊢
  obtain ⟨history, hplan⟩ : ∃ history, (p.tickOpened s.tick.first s.tick.next s.period t).plan = Plan.fresh history := ⟨_, rfl⟩
  have hticked : (p.tickOpened s.tick.first s.tick.next s.period t).ticked = some s.tick.next := rfl
  obtain ⟨prev, runIn, htick⟩ := p.tickOpened_tick h1 s.tick.first s.tick.next s.period t
  generalize p.tickOpened s.tick.first s.tick.next s.period t = v at hdev hsys hplan hticked htick ⊢
  have fr := v.tickBegun_frame s.tick.next at_ c
  obtain ⟨rise, rel, phase, hk⟩ := v.tickBegun_tick s.tick.next at_ c
  exact { tick := ⟨prev, phase, rel, rise, runIn, by rw [hk, htick]⟩
          plan := ⟨history, (fr .plan (by decide)).trans hplan⟩
          ticked := (fr .ticked (by decide)).trans hticked
          dev := hdev
          sys := hsys }

/-! ### TICK_BOUNDARY (R15, R26, R48, R49, R53) -/

/-- At the expected boundary, in RUNNING and with T_0 settled, the command is the boundary. -/
theorem exec_tickBoundary {s : State} {t : Nat} (hd : s.dev = .running) (hw : s.tick.awaitT0 = false) (he : t = s.tick.expect) :
    exec (.tickBoundary t) s = .next (s.boundary t) := by
  show (.next (s.when (s.dev == .running && !s.tick.awaitT0 && t == s.tick.expect) fun s => s.boundary t) : Out) = _
  rw [show (s.dev == .running && !s.tick.awaitT0 && t == s.tick.expect) = true by simp [hd, hw, he]]
  rfl

/-- Settles O11: with nothing due at the boundary the tick is released there, and the entries of the queue stay. -/
theorem boundaryReleasesNextTick : Obligations.BoundaryReleasesNextTick := by
  unfold Obligations.BoundaryReleasesNextTick
  intro s t hd hw he hq
  have fr := s.atBoundary_frame t
  have hsys := fr.sys_eq (by decide) (by decide)
  have hdev := (fr .dev (by decide)).trans hd
  obtain ⟨missed, good, seenLast, seen, htick⟩ := (s.advance t).endTick_tick
  rw [← s.atBoundary_tick t, State.advance_tick] at htick
  have hrel := (s.atBoundary t).releaseTick_released t
  refine ⟨(s.atBoundary t).releaseTick t, ?_⟩
  rw [exec_tickBoundary hd hw he, State.boundary_release (by rwa [hsys])]
  generalize (s.atBoundary t).releaseTick t = u at hrel ⊢
  obtain ⟨⟨prev, phase, rel, rise, runIn, hk⟩, ⟨history, hp⟩, hticked, hd', hs'⟩ := hrel
  rw [hk, hp, hticked, hd', hs', hsys, hdev, htick]
  exact ⟨rfl, rfl, rfl, rfl, rfl, rfl, rfl, rfl, rfl, rfl⟩

end Sys2Proof.Machine

namespace Sys2Proof.Machine
open Sys2Proof

/-! ### The boundary at which a STOP or a HOLD takes effect (R48, R49, R53, R585) -/

/-- A STOP that waits ends with success once the device is STOPPED. -/
theorem State.settleHead_stopped {v : State} {rest : List CmdEntry} (hd : v.dev = .stopped) (hw : v.sys.waitEdge = true)
    (hq : v.sys.queue = .cmd 2 :: rest) : v.settleHead = v.popCmd 2 reasonDone := by
  unfold State.settleHead
  rw [if_pos hw, hq]
  exact (if_neg (by rw [hd]; decide)).trans (if_pos hd)

/-- A HOLD that waits ends with success once the device is in HOLD. -/
theorem State.settleHead_hold {v : State} {rest : List CmdEntry} (hd : v.dev = .hold) (hw : v.sys.waitEdge = true)
    (hq : v.sys.queue = .cmd 3 :: rest) : v.settleHead = v.popCmd 3 reasonDone := by
  unfold State.settleHead
  rw [if_pos hw, hq]
  exact congrArg (v.popCmd 3) (if_pos hd)

/-- The head entry of `w` has ended in `u` with success and code `code`, in device state `d` and with no tick in progress. -/
structure HeadEnded (w u : State) (d : Dev) (code : Nat) : Prop where
  dev : u.dev = d
  live : u.tick.live = false
  queue : u.sys.queue = w.sys.queue.tail
  code : u.sys.lastCode = code
  reason : u.sys.reason = 0
  waitEdge : u.sys.waitEdge = false

theorem HeadEnded.framed {w u v : State} {d : Dev} {code : Nat} {ps : List Part} (h : HeadEnded w u d code) (f : Framed ps u v)
    (hp : .dev ∉ ps ∧ .tick ∉ ps ∧ .queue ∉ ps ∧ .sys ∉ ps := by decide) : HeadEnded w v d code := by
  obtain ⟨hd, ht, hq, hs⟩ := hp
  have e := f.sys_eq hq hs
  exact ⟨(f .dev hd).trans h.dev, by rw [f .tick ht]; exact h.live, by rw [e]; exact h.queue, by rw [e]; exact h.code,
    by rw [e]; exact h.reason, by rw [e]; exact h.waitEdge⟩

/-- A run that ends with the entry at the head settled ends that entry. -/
theorem State.leaveRunning_headEnded {w : State} {d : Dev} {code : Nat}
    (h : ∀ v : State, v.dev = d → v.sys = w.sys → v.settleHead = v.popCmd code reasonDone) : HeadEnded w (w.leaveRunning d) d code := by
  have fd : Framed [.tick, .out] w w.dropTickOut := State.dropTickOut_framed (List.Subset.refl _) (Framed.refl w)
  have hsys := fd.sys_eq (by decide) (by decide)
  unfold State.leaveRunning
  extract_lets v
  rw [h { v with dev := d, tick := { v.tick with live := false, awaitT0 := false, phase := 7, locked := false, good := 0 } } rfl hsys]
  refine HeadEnded.framed ⟨rfl, rfl, ?_, rfl, rfl, rfl⟩ (State.retrainDown_framed (List.Subset.refl _) (Framed.refl _))
  exact congrArg (fun q : Sys => q.queue.tail) hsys

theorem State.edgeCommands_nil {v : State} (h : v.sys.queue = []) (n : Nat) : v.edgeCommands n = v := by
  cases n with
  | zero => rfl
  | succ n =>
    unfold State.edgeCommands
    rw [h]

theorem State.edgeCommands_stop {v : State} {rest : List CmdEntry} (h : v.sys.queue = .cmd 2 :: rest) (n : Nat) :
    v.edgeCommands (n + 1) = ((({ v with dev := .stopped }).dropStaged).popCmd 2 reasonDone).edgeCommands n := by
  rw [State.edgeCommands, h]
  rfl

/-- Entries that follow at a boundary lead from HOLD and STOPPED to neither RUNNING. -/
theorem State.edgeCommands_dev {v : State} (n : Nat) (h : v.dev ≠ .running) : (v.edgeCommands n).dev ≠ .running := by
  induction n generalizing v with
  | zero => exact h
  | succ n ih =>
    unfold State.edgeCommands
    split
    · exact ih (by rw [State.dev_popCmd]; exact Dev.noConfusion)
    · exact ih (by rw [State.dev_popCmd]; exact h)
    · exact h

/-- A run that a boundary ends is over: no tick is in progress, and the device is not RUNNING. -/
theorem State.endRun_over (w : State) : w.endRun.tick.live = false ∧ w.endRun.dev ≠ .running := by
  have ended : ∀ {v : State} {ps : List Part}, v.tick.live = false → v.dev ≠ .running → ∀ u, Framed [.world] v u →
      ((u.edgeCommands 8).retrainXcut).tick.live = false ∧ ((u.edgeCommands 8).retrainXcut).dev ≠ .running := by
    intro v ps hl hd u f
    have g : Framed [.dies] (u.edgeCommands 8) (u.edgeCommands 8).retrainXcut :=
      State.retrainXcut_framed (List.Subset.refl _) (Framed.refl _)
    have k : Framed [.dev, .queue, .sys, .world] u (u.edgeCommands 8) := State.edgeCommands_framed (List.Subset.refl _) (Framed.refl u)
    rw [g .tick (by decide), k .tick (by decide), f .tick (by decide), g .dev (by decide)]
    exact ⟨hl, State.edgeCommands_dev 8 (by rw [f .dev (by decide)]; exact hd)⟩
  have ne : ∀ d, d ≠ Dev.running → (w.leaveRunning d).dev ≠ .running := by
    intro d hd
    rcases State.leaveRunning_dev (s := w) (d := d) with h | h
    · rw [h]; exact hd
    · rw [h.2]; decide
  unfold State.endRun
  split
  · exact ended (ps := []) (w.leaveRunning_tick _).1 (ne _ (by decide)) _ (State.dropStaged_framed (List.Subset.refl _) (Framed.refl _))
  · exact ended (ps := []) (w.leaveRunning_tick _).1 (ne _ (by decide)) _ (Framed.refl _)

/-- Settles O12: the boundary ends the run as the entry at the head asks, and what follows at the same boundary is a STOP. -/
theorem waitingHoldAndStopTakeEffectAtBoundary : Obligations.WaitingHoldAndStopTakeEffectAtBoundary := by
  unfold Obligations.WaitingHoldAndStopTakeEffectAtBoundary
  intro s t hd hw he hedge hat
  have hsys : (s.atBoundary t).sys = s.sys := (s.atBoundary_frame t).sys_eq (by decide) (by decide)
  have hb : exec (.tickBoundary t) s = .next (s.atBoundary t).endRun := by
    rw [exec_tickBoundary hd hw he, State.boundary_ends (by rw [hsys]; exact ⟨hedge, hat⟩)]
  rw [← hsys] at hedge ⊢
  rw [hb]
  clear hb hsys
  generalize s.atBoundary t = w at hedge ⊢
  have xcut : ∀ v : State, Framed [.dies] v v.retrainXcut := fun v => State.retrainXcut_framed (List.Subset.refl _) (Framed.refl v)
  refine ⟨fun hq => ⟨_, rfl, ?_⟩, fun hq => ⟨_, rfl, ?_⟩, fun hq => ⟨_, rfl, ?_⟩⟩
  · have h := State.leaveRunning_headEnded (w := w) (d := .hold) fun v hv hs =>
      State.settleHead_hold hv (by rw [hs]; exact hedge) (by rw [hs]; exact hq)
    rw [State.endRun_hold (by simp [hq]), State.edgeCommands_nil (by rw [h.queue, hq]; rfl)]
    obtain ⟨hd, hl, hq', hc, hr, hwe⟩ := h.framed (xcut _)
    exact ⟨hd, hl, by rw [hq', hq]; rfl, hc, hr, hwe⟩
  · have h := State.leaveRunning_headEnded (w := w) (d := .stopped) fun v hv hs =>
      State.settleHead_stopped hv (by rw [hs]; exact hedge) (by rw [hs]; exact hq)
    have hd := h.framed (State.dropStaged_framed (List.Subset.refl _) (Framed.refl _))
    rw [State.endRun_stop hq, State.edgeCommands_nil (by rw [hd.queue, hq]; rfl)]
    have hst : ((w.leaveRunning .stopped).dropStaged.retrainXcut).world.staged = [] := rfl
    obtain ⟨hd, hl, hq', hc, hr, hwe⟩ := hd.framed (xcut _)
    exact ⟨hd, hl, hst, by rw [hq', hq]; rfl, hc, hr, hwe⟩
  · have h := State.leaveRunning_headEnded (w := w) (d := .hold) fun v hv hs =>
      State.settleHead_hold hv (by rw [hs]; exact hedge) (by rw [hs]; exact hq)
    have hq1 : (w.leaveRunning .hold).sys.queue = [.cmd 2] := by rw [h.queue, hq]; rfl
    have hl := h.live
    rw [State.endRun_hold (by simp [hq]), State.edgeCommands_stop hq1]
    generalize w.leaveRunning .hold = v at hq1 hl ⊢
    rw [State.edgeCommands_nil (by rw [State.popCmd_queue]; exact congrArg List.tail hq1)]
    exact ⟨rfl, hl, rfl, congrArg List.tail hq1, rfl, rfl⟩

end Sys2Proof.Machine

namespace Sys2Proof.Machine
open Sys2Proof

/-! ### Edges of TICK_IN against the windows of the boundaries (R20 to R23) -/

/-- A counted in-window event is `Tick.inWindow` (R23). -/
theorem State.countGood_eq (s : State) : s.countGood = { s with tick := s.tick.inWindow } := by
  have h2 : decide (2 ≤ s.tick.good + 1) = decide (1 ≤ s.tick.good) := by simp
  have h0 : (!decide (1 ≤ s.tick.good)) = decide (s.tick.good = 0) := by simp [Nat.one_le_iff_ne_zero]
  unfold State.countGood Tick.inWindow
  dsimp only
  rw [h2, h0]

theorem State.judgeEdge_last {s : State} {e : Nat} (h : s.inLastWindow e) (hs : s.tick.seenLast = false) :
    s.judgeEdge e = { s with tick := Tick.inWindow { s.tick with
      seenLast := true, missed := 0, expect := ((s.tick.tk + s.period : Nat) + edgeCorrection e s.tick.tk : Int).toNat } } := by
  obtain ⟨hl, h0, hw⟩ := h
  unfold State.judgeEdge
  dsimp only
  rw [if_pos ⟨hl, by simp [h0], hw⟩, if_neg (by simp [hs]), State.countGood_eq]

theorem State.judgeEdge_last_again {s : State} {e : Nat} (h : s.inLastWindow e) (hs : s.tick.seenLast = true) :
    s.judgeEdge e = s.event rTickEvents 11 := by
  obtain ⟨hl, h0, hw⟩ := h
  unfold State.judgeEdge
  dsimp only
  rw [if_pos ⟨hl, by simp [h0], hw⟩, if_pos hs]

/-- An edge outside the window of the boundary last taken. -/
theorem State.judgeEdge_not_last {s : State} {e : Nat} (h : ¬ s.inLastWindow e) : s.judgeEdge e =
    if s.inNextWindow e then
      if s.tick.seen then s.event rTickEvents 11
      else { s with tick := Tick.inWindow { s.tick with
        seen := true, corr := edgeCorrection e s.tick.expect
        good := if s.tick.seenLast = true ∨ s.tick.live = false then s.tick.good else 0 } }
    else s.event rTickEvents 9 := by
  unfold State.judgeEdge
  dsimp only
  rw [if_neg fun ⟨hl, h0, hw⟩ => h ⟨hl, by simpa using h0, hw⟩]
  simp only [State.countGood_eq, Bool.not_eq_true', State.inNextWindow]

/-- The first boundary at the edge `e` that gives T_0 (R19). -/
def State.firstBoundary (v : State) (e : Nat) : State :=
  ({ v with tick := { v.tick with awaitT0 := false, expect := e, seenLast := true, seen := false
                                  missed := 0, good := 0, corr := 0 } }).boundary e

/-- The edge that gives T_0 acts when its pulse qualifies (R20), and is an in-window event of the tick that it starts. -/
def State.settleT0 (v : State) (e : Nat) : State :=
  let w : State := { v.firstBoundary e with now := max (v.firstBoundary e).now (e + 100) }
  w.when w.tick.live fun s => s.countGood

/-- What a counted edge does in RUNNING with TICK_IN as source (R19, R20). -/
theorem exec_tickInPulse {s : State} {e width : Nat} (hw : 100 ≤ width) (hd : s.dev = .running) (hs : s.src = 1) :
    exec (.tickInPulse e width) s = .next (if (s.advance (e + 100)).tick.awaitT0 then
      if (s.advance (e + 100)).tick.t0 ≤ e ∧ e < (s.advance (e + 100)).tick.t0 + 4 * (s.advance (e + 100)).period then
        (s.advance (e + 100)).settleT0 e
      else s.advance (e + 100)
    else (s.advance (e + 100)).judgeEdge e) := by
  show (.next (if width < 100 then _ else _) : Out) = _
  rw [if_neg (Nat.not_lt.mpr hw), show (s.dev == .running && s.src == 1) = true by simp [hd, hs]]
  rfl

theorem exec_tickInPulse_settled {s : State} {e width : Nat} (hw : 100 ≤ width) (hd : s.dev = .running) (hs : s.src = 1)
    (ha : s.tick.awaitT0 = false) : exec (.tickInPulse e width) s = .next ((s.advance (e + 100)).judgeEdge e) := by
  rw [exec_tickInPulse hw hd hs, if_neg (by rw [State.advance_tick, ha]; decide)]

theorem tickInEdgeCorrectsNextBoundary : Statements.TickInEdgeCorrectsNextBoundary := by
  intro s e width
  refine ⟨fun h => congrArg Host.Outcome.next (if_pos h), fun hw hd hs ha => ?_⟩
  rw [exec_tickInPulse_settled hw hd hs ha]
  obtain ⟨n, hn⟩ := s.advance_eq (e + 100)
  rw [hn]
  refine ⟨fun h => ⟨fun hl => ?_, fun hl => ?_⟩, fun h hx => ⟨fun hl => ?_, fun hl => ?_⟩, fun h hx => ?_⟩
  · exact congrArg _ (State.judgeEdge_last (s := { s with now := n }) h hl)
  · exact congrArg _ (State.judgeEdge_last_again (s := { s with now := n }) h hl)
  · rw [State.judgeEdge_not_last (s := { s with now := n }) h]
    exact congrArg _ ((if_pos hx).trans (if_neg (by simp [hl])))
  · rw [State.judgeEdge_not_last (s := { s with now := n }) h]
    exact congrArg _ ((if_pos hx).trans (if_pos hl))
  · rw [State.judgeEdge_not_last (s := { s with now := n }) h]
    exact congrArg _ (if_neg hx)

end Sys2Proof.Machine
namespace Sys2Proof.Machine
open Sys2Proof

/-! ### The Tick block's registers at a boundary -/

/-- The registers that judging an item writes. -/
def itemRegs : List Nat := [rWorldRejLast, rWorldEvents]

/-- The hub's registers that the release of a tick may write. -/
def releaseRegs : List Nat := [rTallySaveStatus, rTallySaveLen, rKlinkEvents, rHostPaceUsed] ++ itemRegs ++ logRegs

namespace RegsKept
variable {P : Nat → Prop} {z s t : State}

theorem withKl (k : Klink) (hs : RegsKept P z s) : RegsKept P z { s with kl := k } := hs.of_regs rfl

theorem clearKeyTable (hs : RegsKept P z s) : RegsKept P z s.clearKeyTable :=
  hs.framed (State.clearKeyTable_framed (List.Subset.refl _) (Framed.refl s))

theorem mapStream (n : Nat) (f : Stream → Stream) (hs : RegsKept P z s) : RegsKept P z (s.mapStream n f) := hs.of_regs rfl

section items
variable (hi : ∀ a ∈ itemRegs, ¬ P a)
include hi

theorem rejectItem (stream code type : Nat) (hs : RegsKept P z s) : RegsKept P z (s.rejectItem stream code type) := by
  have h := ((hs.mapStream stream fun c => { c with rej := c.rej + 1, late := if code = 3 then c.late + 1 else c.late }).setReg
    (hi rWorldRejLast (by decide)) (packFields [(0, stream % 128), (8, code), (16, type % 256)])).event (hi rWorldEvents (by decide)) 2
  exact h.when (h.irq _)

theorem acceptItem (stream arrival : Nat) (h : ItemHead) (payload : List Byte) (late : Bool) (hs : RegsKept P z s) :
    RegsKept P z (s.acceptItem stream arrival h payload late) := by
  unfold State.acceptItem
  extract_lets gap s1 s2 copy s3 stage modes u w s4
  have h1 : RegsKept P z s1 := hs.when (hs.event (hi rWorldEvents (by decide)) 3)
  have h3 : RegsKept P z s3 := h1.of_regs rfl
  have h4 : RegsKept P z s4 := h3.of_regs rfl
  exact RegsKept.ite (h4.when (h4.of_regs rfl)) (h3.of_regs rfl)

theorem judgeItem (stream arrival chain : Nat) (bs : List Byte) (hs : RegsKept P z s) :
    RegsKept P z (s.judgeItem stream arrival chain bs).1 := by
  unfold State.judgeItem
  extract_lets h
  split
  · next code _ =>
    have hr := hs.rejectItem hi stream code h.type
    exact hr.when (hr.mapStream _ _)
  · exact hs
  · split
    · exact (hs.event (hi rWorldEvents (by decide)) 5).mapStream _ _
    · exact hs.acceptItem hi _ _ _ _ _

theorem drainItems (arrivalOf : Nat → Nat) (fuel : Nat) (blocked : List Nat) (hs : RegsKept P z s) :
    RegsKept P z (s.drainItems arrivalOf fuel blocked) := by
  induction fuel generalizing s blocked with
  | zero => exact hs
  | succ fuel ih =>
    unfold State.drainItems
    split
    · exact hs
    · next n a _ =>
      split
      · exact hs
      · next it rest _ =>
        extract_lets r
        have hr : RegsKept P z r.1 := (hs.mapStream n _).judgeItem hi n a it.2.1 it.2.2
        split
        · exact ih _ hr
        · exact ih _ (hr.mapStream n _)

theorem drainHeld (hs : RegsKept P z s) : RegsKept P z s.drainHeld := hs.drainItems hi _ _ _

end items

theorem dropTickOps (hs : RegsKept P z s) : RegsKept P z s.dropTickOps :=
  hs.framed (State.dropTickOps_framed (List.Subset.refl _) (Framed.refl s))

section release
variable (hub : ∀ a, P a → a < 0x400000)
include hub

theorem noteStall (a n : Nat) (hs : RegsKept P z s) : RegsKept P z (s.noteStall a n) := by
  unfold State.noteStall
  split
  · exact hs.event (notDie hub _ _) _
  · exact hs

theorem newTickDies (hs : RegsKept P z s) : RegsKept P z s.newTickDies :=
  ((hs.chargeWaits hub .s0).chargeWaits hub .s1).dropTickOps.of_regs rfl

variable (hr : ∀ a ∈ releaseRegs, ¬ P a)
include hr

omit hub in
theorem savedTo (base len result : Nat) (hs : RegsKept P z s) : RegsKept P z (s.savedTo base len result) := by
  have h1 := hs.setReg (hr rTallySaveStatus (by decide)) (packFields [(4, result)])
  exact (RegsKept.ite (h1.setReg (hr rTallySaveLen (by decide)) _) h1).log
    (fun a ha => hr a (List.mem_append_right _ ha)) _ _ _ _

omit hub in
theorem endSnapshot (base len result : Nat) (hs : RegsKept P z s) : RegsKept P z (s.endSnapshot base len result) :=
  ((hs.savedTo hr base len result).event (hr rKlinkEvents (by decide)) 9).irq 5

theorem snapshot (t : Nat) (hs : RegsKept P z s) : RegsKept P z (s.snapshot t) := by
  unfold State.snapshot
  refine RegsKept.ite ?_ hs
  extract_lets base k l v bs
  have hv : RegsKept P z v := hs.of_regs rfl
  exact RegsKept.ite (hv.endSnapshot hr _ _ _) (RegsKept.ite ((hv.withKl _).noteStall hub _ _)
    ((hv.store _ _).endSnapshot hr _ _ _))

theorem tickPrepared (t : Nat) (hs : RegsKept P z s) : RegsKept P z (s.tickPrepared t) := by
  unfold State.tickPrepared
  split
  · exact snapshot hub hr t (hs.of_regs rfl)
  · exact hs.snapshot hub hr t

theorem tickStarted (k : Nat) (hs : RegsKept P z s) : RegsKept P z (s.tickStarted k) := by
  unfold State.tickStarted
  extract_lets x s1 y s2 s3 s4
  have h2 : RegsKept P z s2 := ((hs.setDie .s0 _).setDie .s1 _).setReg (hr rHostPaceUsed (by decide)) 0
  have h4 : RegsKept P z s4 := (h2.clearTickCounters hub).setField (notDie hub _ _) _ _ _
  have h5 : Framed [.dies, .out, .chans] (s4.setTickSeed k) ((s4.setTickSeed k).retrainXcut.retrainDown.trigger 1) :=
    State.trigger_framed (by decide) (State.retrainDown_framed (by decide) (State.retrainXcut_framed (by decide) (Framed.refl _)))
  exact ((h4.setTickSeed hub k).framed h5).drainHeld fun a ha => hr a (List.mem_append_left _ (List.mem_append_right _ ha))

omit hr in
theorem releasePhase_zero (hs : RegsKept P z s) : RegsKept P z (s.releasePhase 0) := by
  unfold State.releasePhase
  refine RegsKept.foldl (fun t d h => h.enterPhase hub d) _ ?_
  refine RegsKept.foldl (fun t d h => h.framed (State.setCanaries_framed (List.Subset.refl _) (Framed.refl t))) _ ?_
  exact RegsKept.clearKeyTable (hs.of_regs rfl)

theorem releaseTick (t : Nat) (hs : RegsKept P z s) : RegsKept P z (s.releaseTick t) := by
  obtain ⟨at_, c, e⟩ := State.releaseTick_eq s t
  rw [e]
  have h1 : RegsKept P z ((s.tickPrepared t).tickOpened s.tick.first s.tick.next s.period t) := (hs.tickPrepared hub hr t).of_regs rfl
  have h2 := (h1.tickStarted hub hr s.tick.next).framed (State.driveTickOut_frame _ at_)
  exact h2.when (h2.releasePhase_zero hub)

/-- The boundary at which no tick ends. -/
theorem atBoundary_idle (hl : s.tick.live = false) (t : Nat) (hs : RegsKept P z s) : RegsKept P z (s.atBoundary t) := by
  unfold State.atBoundary
  rw [State.endTick_idle (by rw [State.advance_tick]; exact hl)]
  have h := ((hs.advance t).newTickDies hub)
  have hlog : ∀ a ∈ logRegs, ¬ P a := fun a ha => hr a (List.mem_append_right _ ha)
  exact ((h.boundaryUnits hub hlog .s0).boundaryUnits hub hlog .s1).setBoth (fun d => notDie hub d _) _

end release

end RegsKept

theorem tickBlock_hub (a : Nat) (h : tickBlock a) : a < 0x400000 := Nat.lt_trans h.2 (by decide)

theorem releaseRegs_not_tickBlock : ∀ a ∈ releaseRegs, ¬ tickBlock a := by
  unfold tickBlock
  decide

end Sys2Proof.Machine
namespace Sys2Proof.Machine
open Sys2Proof

/-! ### T_0 (R19) and the loss of the source (R23) -/

theorem State.period_of_regsKept {s u : State} (h : RegsKept tickBlock s u) : u.period = s.period :=
  congrArg (fun r => bits r 15 0 * 1000) (h rTickPeriod (by unfold tickBlock; decide))

/-- The first boundary of a run, with nothing due at it, releases its tick. -/
structure FirstReleased (w u : State) (t : Nat) : Prop where
  first : FirstTick w u t
  source : u.tick.good = w.tick.good ∧ u.tick.locked = w.tick.locked ∧ u.tick.lost = w.tick.lost
  regs : RegsKept tickBlock w u

theorem State.boundary_first {w : State} {t : Nat} (hd : w.dev = .running) (hl : w.tick.live = false) (hc : w.tick.corr = 0)
    (hq : ¬ (w.sys.waitEdge = true ∧ w.sys.waitAt < t)) : FirstReleased w (w.boundary t) t := by
  have fr := w.atBoundary_frame t
  have hsys := fr.sys_eq (by decide) (by decide)
  have hdev := (fr .dev (by decide)).trans hd
  have htick : (w.atBoundary t).tick = w.tick := by
    rw [w.atBoundary_tick t, State.endTick_idle (by rw [State.advance_tick]; exact hl), State.advance_tick]
  have hk := RegsKept.atBoundary_idle tickBlock_hub releaseRegs_not_tickBlock hl t (RegsKept.refl w)
  have hp := State.period_of_regsKept hk
  rw [State.boundary_release (by rwa [hsys])]
  generalize w.atBoundary t = b at hdev htick hk hp ⊢
  have hr := b.releaseTick_released t
  have hkept := hk.releaseTick tickBlock_hub releaseRegs_not_tickBlock t
  generalize b.releaseTick t = u at hr hkept ⊢
  obtain ⟨⟨prev, phase, rel, rise, runIn, e⟩, -, -, hdu, -⟩ := hr
  rw [htick, hp, hc, Int.add_zero] at e
  have hdu := hdu.trans hdev
  refine ⟨⟨by rw [e], hdu, by rw [e], by rw [e], by rw [e], by rw [e]⟩, by rw [e]; exact ⟨rfl, rfl, rfl⟩, hkept⟩

/-- A boundary with an entry due at it ends the run. -/
theorem State.boundary_over {w : State} {t : Nat} (he : w.sys.waitEdge = true) (ha : w.sys.waitAt < t) :
    (w.boundary t).tick.live = false ∧ (w.boundary t).dev ≠ .running := by
  have hsys := (w.atBoundary_frame t).sys_eq (by decide) (by decide)
  rw [State.boundary_ends (by rw [hsys]; exact ⟨he, ha⟩)]
  exact State.endRun_over _

/-- The edge at T_0 is the first in-window event of the tick that it starts. -/
theorem State.settleT0_released {v : State} {e : Nat} (h : (v.firstBoundary e).tick.live = true) :
    v.settleT0 e = { v.firstBoundary e with now := max (v.firstBoundary e).now (e + 100), tick := (v.firstBoundary e).tick.inWindow } := by
  unfold State.settleT0
  generalize v.firstBoundary e = u at h ⊢
  dsimp only
  rw [h, State.when_true, State.countGood_eq]

/-- Where T_0 ends the run no tick counts the edge. -/
theorem State.settleT0_over {v : State} {e : Nat} (h : (v.firstBoundary e).tick.live = false) :
    v.settleT0 e = { v.firstBoundary e with now := max (v.firstBoundary e).now (e + 100) } := by
  unfold State.settleT0
  generalize v.firstBoundary e = u at h ⊢
  dsimp only
  rw [h, State.when_false]

theorem tickInEdgeGivesT0 : Statements.TickInEdgeGivesT0 := by
  intro s e width hw hd hs ha hl
  have hexec := exec_tickInPulse (s := s) (e := e) hw hd hs
  obtain ⟨n, hn⟩ := s.advance_eq (e + 100)
  rw [hn, if_pos ha] at hexec
  refine ⟨fun h0 h4 => ?_, fun h => ?_⟩
  · have hx : exec (.tickInPulse e width) s = .next (({ s with now := n } : State).settleT0 e) :=
      hexec.trans (congrArg _ (if_pos ⟨h0, h4⟩))
    rw [hx]
    clear hexec hx
    refine ⟨fun hq => ⟨_, rfl, ?_⟩, fun hedge hat => ⟨_, rfl, ?_⟩⟩
    · have hb : FirstReleased _ (({ s with now := n } : State).firstBoundary e) e := State.boundary_first hd hl rfl hq
      rw [State.settleT0_released hb.first.released.2.1]
      generalize ({ s with now := n } : State).firstBoundary e = u at hb ⊢
      obtain ⟨⟨hset, hdev, hlive, htk, hnum, hexp⟩, ⟨hgood, -, -⟩, -⟩ := hb
      exact ⟨⟨hset, hdev, hlive, htk, hnum, hexp⟩, congrArg (· + 1) hgood, Nat.le_max_right _ _⟩
    · have hb : (({ s with now := n } : State).firstBoundary e).tick.live = false ∧ (({ s with now := n } : State).firstBoundary e).dev ≠ .running :=
        State.boundary_over hedge hat
      rw [State.settleT0_over hb.1]
      exact hb
  · rw [hexec, hn]
    exact congrArg _ (if_neg fun ⟨h0, h4⟩ => h.elim (Nat.not_lt.mpr h0) (Nat.not_le.mpr h4))

/-- An event sets its bit. -/
theorem State.event_bit (s : State) (o : Nat) {n : Nat} (h : n < 32) : ((s.event o n).reg o).getLsbD n = true := by
  rw [State.reg_event, BitVec.getLsbD_or, BitVec.getLsbD_ofNat, Nat.testBit_two_pow_self]
  simp [h]

/-- What the loss of the source changes of the Tick block, with its event bit. -/
theorem State.loseSource_tick (v : State) : v.loseSource.tick = { v.tick with lost := true, locked := false, good := 0 } ∧
    (v.loseSource.reg rTickEvents).getLsbD 8 = true := by
  unfold State.loseSource
  extract_lets k v1 v2
  have f : Framed [.regs, .host, .tally, .out] v2 ((v2.log warn 0x0100 (tallySource 0 10 0) (leBytes 1 v2.src)).irq 0) :=
    State.irq_framed (by decide) (State.log_framed (by decide) (Framed.refl v2))
  refine ⟨f .tick (by decide), ?_⟩
  rw [State.reg_irq, State.reg_log v2 _ _ _ _ (by decide)]
  exact v1.event_bit rTickEvents (by decide)
theorem State.loseSource_frame (v : State) : Framed [.regs, .tick, .host, .tally, .out] v v.loseSource :=
  State.loseSource_framed (List.Subset.refl _) (Framed.refl v)

theorem RegsKept.loseSource {P : Nat → Prop} {z v : State} (he : ¬ P rTickEvents) (hl : ∀ a ∈ logRegs, ¬ P a)
    (hs : RegsKept P z v) : RegsKept P z v.loseSource :=
  (((hs.of_regs (t := { v with tick := { v.tick with lost := true, locked := false, good := 0 } }) rfl).event he 8).log hl _ _ _ _).irq 0

/-- SRC_LOST in RUNNING with a source of ticks, once T_0 is settled (R23). -/
theorem exec_srcLost_settled {s : State} {t : Nat} (hd : s.dev = .running) (hs : s.src ≠ 0) (ha : s.tick.awaitT0 = false)
    (hl : s.tick.lost = false) (hm : 4 ≤ s.tick.missed) : exec (.srcLost t) s = .next (s.advance t).loseSource := by
  show (.next (s.when (s.dev == .running && s.src != 0) fun s => if s.tick.awaitT0 then _ else
    s.when (!s.tick.lost && decide (4 ≤ s.tick.missed)) fun s => (s.advance t).loseSource) : Out) = _
  rw [show (s.dev == .running && s.src != 0) = true by simp [hd, hs], State.when_true, if_neg (by simp [ha]),
    show (!s.tick.lost && decide (4 ≤ s.tick.missed)) = true by simp [hl, hm], State.when_true]

/-- T_0 given by the internal timer, in source loss (R19). -/
def State.timedT0 (s : State) (t : Nat) : State :=
  ((({ s with tick := { s.tick with awaitT0 := false, expect := s.tick.t0 + 4 * s.period } } : State).advance t).loseSource).boundary
    (s.tick.t0 + 4 * s.period)

/-- SRC_LOST while T_0 is awaited, at or after T0 + 4 P (R19). -/
theorem exec_srcLost_awaited {s : State} {t : Nat} (hd : s.dev = .running) (hs : s.src ≠ 0) (ha : s.tick.awaitT0 = true)
    (ht : s.tick.t0 + 4 * s.period ≤ t) : exec (.srcLost t) s = .next (s.timedT0 t) := by
  show (.next (s.when (s.dev == .running && s.src != 0) fun s => if s.tick.awaitT0 then
    s.when (decide (s.tick.t0 + 4 * s.period ≤ t)) fun s => s.timedT0 t else _) : Out) = _
  rw [show (s.dev == .running && s.src != 0) = true by simp [hd, hs], State.when_true, if_pos ha,
    show decide (s.tick.t0 + 4 * s.period ≤ t) = true by simp [ht], State.when_true]

theorem sourceLossIsEntered : Statements.SourceLossIsEntered := by
  intro s t hd hs
  refine ⟨fun ha hl hm => ⟨_, exec_srcLost_settled hd hs ha hl hm, ?_⟩, fun ha hl hc ht hq => ⟨_, exec_srcLost_awaited hd hs ha ht, ?_⟩⟩
  · obtain ⟨n, hn⟩ := s.advance_eq t
    rw [hn]
    obtain ⟨htick, hev⟩ := State.loseSource_tick { s with now := n }
    have f := State.loseSource_frame { s with now := n }
    exact ⟨htick, hev, (f .dev (by decide)).trans hd, f .plan (by decide), f .mem (by decide)⟩
  · unfold State.timedT0
    obtain ⟨n, hn⟩ := State.advance_eq { s with tick := { s.tick with awaitT0 := false, expect := s.tick.t0 + 4 * s.period } } t
    rw [hn]
    clear hn
    let v : State := { s with now := n, tick := { s.tick with awaitT0 := false, expect := s.tick.t0 + 4 * s.period } }
    show FirstTick s (v.loseSource.boundary _) _ ∧ (v.loseSource.boundary _).tick.lost = true ∧
      (v.loseSource.boundary _).tick.locked = false ∧ ((v.loseSource.boundary _).reg rTickEvents).getLsbD 8 = true
    obtain ⟨htick, hev⟩ := v.loseSource_tick
    have f := v.loseSource_frame
    have hperiod : v.loseSource.period = s.period := by
      have hk : RegsKept (· = rTickPeriod) s v.loseSource :=
        RegsKept.loseSource (by decide) (by unfold logRegs; decide) (RegsKept.of_regs (RegsKept.refl s) rfl)
      exact congrArg (fun r => bits r 15 0 * 1000) (hk rTickPeriod rfl)
    have hsys : v.loseSource.sys = s.sys := f.sys_eq (by decide) (by decide)
    have hdev : v.loseSource.dev = .running := (f .dev (by decide)).trans hd
    have hv : v.tick = { s.tick with awaitT0 := false, expect := s.tick.t0 + 4 * s.period } := rfl
    rw [hv] at htick
    generalize v.loseSource = w at htick hev hperiod hsys hdev ⊢
    obtain ⟨⟨hset, hdu, hlive, htk, hnum, hexp⟩, ⟨-, hlock, hlost⟩, hregs⟩ :=
      State.boundary_first (w := w) (t := s.tick.t0 + 4 * s.period) hdev (by rw [htick]; exact hl) (by rw [htick]; exact hc)
        (by rw [hsys]; exact hq)
    rw [hperiod, htick] at hexp
    refine ⟨⟨hset, hdu, hlive, htk, by rw [hnum, htick], hexp⟩, by rw [hlost, htick], by rw [hlock, htick], ?_⟩
    rw [hregs rTickEvents (by unfold tickBlock; decide)]
    exact hev

/-- Settles O13: edges in the windows, the edge or the timer that gives T_0, and the loss of the source. -/
theorem tickInputIsTracked : Obligations.TickInputIsTracked :=
  ⟨tickInEdgeCorrectsNextBoundary, tickInEdgeGivesT0, sourceLossIsEntered⟩

end Sys2Proof.Machine

namespace Sys2Proof.Machine
open Sys2Proof

/-! ### Markers (R428 to R430) -/

/-- The lowest field of a packed word. -/
theorem bits_packFields_low {a b : Nat} (h : a < 65536) : bits (packFields [(0, a), (16, b)]) 15 0 = a := by
  simp only [bits, packFields, List.foldl_cons, List.foldl_nil, BitVec.toNat_ofNat]
  omega

theorem unsignedOf_lt (n : Nat) (v : Int) : unsignedOf n v < 2 ^ n := by
  have hp : (0 : Int) < 2 ^ n := by positivity
  have h1 := Int.emod_nonneg v hp.ne'
  have h2 := Int.emod_lt_of_pos v hp
  exact (Int.toNat_lt h1).mpr (by exact_mod_cast h2)

/-- Control symbols sent to ports in turn are outputs and nothing else. -/
theorem State.emitAll_eq (f : Nat → Output) (l : List Nat) (s : State) :
    l.foldl (fun s p => s.emit (f p)) s = { s with out := s.out ++ l.map f } := by
  induction l generalizing s with
  | nil => simp
  | cons p l ih =>
    rw [List.foldl_cons, ih]
    simp [State.emit]

/-- The markers sent are outputs and nothing else. -/
theorem State.sendMarks_eq (s : State) (k b t : Nat) : s.sendMarks k b t = { s with
    out := s.out ++ (s.treePorts.filter fun p => s.portOpen p).map fun p =>
      Output.control p 5 [k % 65536, unsignedOf 24 ((b : Int) - t - (s.port p).wire)] } := by
  have h : ∀ (l : List Nat) (v : State), v.kl = s.kl →
      l.foldl (fun v p => v.emit (.control p 5 [k % 65536, unsignedOf 24 ((b : Int) - t - (v.kl.ports.getD p Port.idle).wire)])) v =
      l.foldl (fun v p => v.emit (.control p 5 [k % 65536, unsignedOf 24 ((b : Int) - t - (s.port p).wire)])) v := by
    intro l
    induction l with
    | nil => exact fun _ _ => rfl
    | cons p l ih =>
      intro v hv
      rw [List.foldl_cons, List.foldl_cons, hv]
      exact ih _ hv
  exact (h _ s rfl).trans (State.emitAll_eq _ _ s)

/-- A marker of the next tick's number that settles T_0. -/
def State.markT0 (v : State) (b arrival : Nat) : State :=
  (({ v with tick := { v.tick with awaitT0 := false, expect := b, seenLast := true, seen := false, missed := 0, good := 0 } } :
    State).countGood).sendMarks v.tick.next b arrival

/-- What a marker does on a port that carries traffic, in RUNNING with the master as source (R18, R19, R429, R430). -/
def State.mark (v : State) (tickLo b arrival : Nat) : State :=
  if v.tick.awaitT0 ∧ b < v.tick.t0 then v
  else if tickLo % 65536 ≠ v.tick.next % 65536 then (v.event rKlinkEvents 5).irq 5
  else if v.tick.awaitT0 then v.when (decide (b < v.tick.t0 + 4 * v.period)) fun v => v.markT0 b arrival
  else if v.tick.expect ≤ b + v.tol ∧ b < v.tick.expect + v.tol then v.takeMark b arrival
  else (v.event rKlinkEvents 4).irq 5

theorem exec_mark {s : State} {port tickLo remain arrival : Nat} (hp : port < 6) (hd : s.dev = .running) (hs : s.src = 2)
    (ho : s.portOpen port = true) :
    exec (.mark port tickLo remain arrival) s = .next ((s.advance arrival).mark tickLo (arrival + remain) arrival) := by
  show (if 6 ≤ port then (.fault .illFormed : Out) else .next (s.when (s.dev == .running && s.src == 2 && s.portOpen port)
    fun s => (s.advance arrival).mark tickLo (arrival + remain) arrival)) = _
  rw [if_neg (Nat.not_le.mpr hp), show (s.dev == .running && s.src == 2 && s.portOpen port) = true by simp [hd, hs, ho], State.when_true]

/-- A counted marker puts the expected boundary where it names it and shows its error (R430, R431). -/
structure MarkTaken (v u : State) (b : Nat) : Prop where
  expect : u.tick.expect = b
  seen : u.tick.seen = true
  slew : u.tick.slew = v.tick.slew + (v.tick.expect : Int) - b
  num : u.tick.num = v.tick.num ∧ u.tick.next = v.tick.next
  mark : bits (u.reg rKlinkMark) 15 0 = unsignedOf 16 ((b : Int) - v.tick.expect)
  dev : u.dev = v.dev

theorem State.takeMark_taken (v : State) (b arrival : Nat) : MarkTaken v (v.takeMark b arrival) b := by
  have sent : ∀ w : State, MarkTaken v w b → ∀ k, MarkTaken v (w.sendMarks k b arrival) b := by
    intro w hw k
    rw [State.sendMarks_eq]
    exact ⟨hw.expect, hw.seen, hw.slew, hw.num, hw.mark, hw.dev⟩
  have field : bits ((v.setReg rKlinkMark (packFields [(0, unsignedOf 16 ((b : Int) - v.tick.expect)), (16, v.treeHops % 256)])).reg
      rKlinkMark) 15 0 = unsignedOf 16 ((b : Int) - v.tick.expect) := by
    rw [State.reg_setReg]
    exact bits_packFields_low (unsignedOf_lt 16 _)
  unfold State.takeMark
  extract_lets k e s1 s2
  have h2 : MarkTaken v s2 b := ⟨rfl, rfl, rfl, ⟨rfl, rfl⟩, field, rfl⟩
  refine sent _ ?_ _
  split
  · exact h2
  · rw [State.countGood_eq]
    exact ⟨h2.expect, h2.seen, h2.slew, h2.num, h2.mark, h2.dev⟩

theorem markMovesTheBoundary : Statements.MarkMovesTheBoundary := by
  intro s port tickLo remain arrival hp hd hs ho
  rw [exec_mark hp hd hs ho]
  obtain ⟨n, hn⟩ := s.advance_eq arrival
  rw [hn]
  refine ⟨fun ha hb => ?_, fun hk ha hb => ?_, fun hk hb => ?_, fun hk ha h0 h4 => ⟨_, rfl, ?_⟩, fun hk ha h1 h2 => ⟨_, rfl, ?_⟩,
    fun hk ha h => ?_⟩
  · exact congrArg _ (if_pos ⟨ha, hb⟩)
  · refine congrArg _ ?_
    by_cases h0 : arrival + remain < s.tick.t0
    · exact if_pos ⟨ha, h0⟩
    · refine (if_neg fun h => h0 h.2).trans ((if_neg fun h => h hk).trans ((if_pos ha).trans ?_))
      exact if_neg fun h => Nat.not_lt.mpr hb (of_decide_eq_true h)
  · exact congrArg _ ((if_neg fun h => Nat.not_lt.mpr (hb h.1) h.2).trans (if_pos hk))
  · have e : ({ s with now := n } : State).mark tickLo (arrival + remain) arrival = ({ s with now := n } : State).markT0 (arrival + remain) arrival :=
      (if_neg fun h => Nat.not_lt.mpr h0 h.2).trans ((if_neg fun h => h hk).trans ((if_pos ha).trans (if_pos (decide_eq_true h4))))
    rw [e, State.markT0, State.sendMarks_eq, State.countGood_eq]
    exact ⟨rfl, rfl, rfl, rfl, rfl, rfl⟩
  · have e : ({ s with now := n } : State).mark tickLo (arrival + remain) arrival = ({ s with now := n } : State).takeMark (arrival + remain) arrival :=
      (if_neg fun h => by simp [ha] at h).trans ((if_neg fun h => h hk).trans ((if_neg (by simp [ha])).trans (if_pos ⟨h1, h2⟩)))
    rw [e]
    obtain ⟨hexp, hseen, hslew, ⟨hnum, hnext⟩, hmark, hdev⟩ := ({ s with now := n } : State).takeMark_taken (arrival + remain) arrival
    exact ⟨hexp, hseen, hslew, hnum, hnext, hmark, hdev⟩
  · refine congrArg _ ((if_neg fun h => by simp [ha] at h).trans ((if_neg fun h => h hk).trans ((if_neg (by simp [ha])).trans (if_neg ?_))))
    exact fun ⟨h1, h2⟩ => h.elim (Nat.not_lt.mpr h1) (Nat.not_le.mpr h2)

theorem masterSendsMarkers : Statements.MasterSendsMarkers := by
  intro s t l hd hl hm hc hs ha ht
  have hcond : (s.dev == .running && s.isMaster && bit (s.reg rTickCtrl) 5 && decide (s.src < 2) && !s.tick.awaitT0 &&
      decide (t + l.leadUs * 1000 = s.tick.expect)) = true := by simp [hd, hm, hc, hs, ha, ht]
  show (.next (s.when (s.dev == .running && s.isMaster && bit (s.reg rTickCtrl) 5 && decide (s.src < 2) && !s.tick.awaitT0 &&
      decide (t + (match s.image.bind (·.links) with | some l => l.leadUs * 1000 | none => 0) = s.tick.expect))
      fun s => (s.advance t).sendMarks s.tick.next s.tick.expect t) : Out) = _
  rw [hl, hcond, State.when_true, State.sendMarks_eq]
  obtain ⟨n, hn⟩ := s.advance_eq t
  rw [hn]
  rfl

/-- Settles O34: MARK by the marker's boundary and tick number, and the markers that the master sends. -/
theorem markersSetTheBoundary : Obligations.MarkersSetTheBoundary := ⟨markMovesTheBoundary, masterSendsMarkers⟩

end Sys2Proof.Machine

namespace Sys2Proof
open Sys2Proof.Machine

/-- The part of the Deputy that a frame leaves holds the cause. -/
theorem Framed.cause_eq {ps : List Part} {s t : State} (h : Framed ps s t) (hp : .dep ∉ ps := by decide) :
    t.dep.cause = s.dep.cause := by
  have e := congrArg Deputy.cause (show ({ t.dep with safe := true, slice := [] } : Deputy) = { s.dep with safe := true, slice := [] }
    from h .dep hp)
  exact e

end Sys2Proof

namespace Sys2Proof.Machine
open Sys2Proof

/-! ### The registers that the end of a tick's work leaves (R32, R33, R478) -/

/-- The event bits of a register that are set stay set. -/
def EventsKept (o : Nat) (s u : State) : Prop := ∀ n, (s.reg o).getLsbD n = true → (u.reg o).getLsbD n = true

namespace EventsKept
variable {o : Nat} {s t u : State}

theorem refl (s : State) : EventsKept o s s := fun _ h => h

theorem trans (h : EventsKept o s t) (k : EventsKept o t u) : EventsKept o s u := fun n hn => k n (h n hn)

theorem of_regsKept (h : RegsKept (· = o) s u) : EventsKept o s u := fun n hn => by rw [h o rfl]; exact hn

theorem event (h : EventsKept o s t) (a n : Nat) : EventsKept o s (t.event a n) := by
  intro m hm
  by_cases ha : o = a
  · subst ha
    rw [State.reg_event, BitVec.getLsbD_or, h m hm]
    rfl
  · rw [State.reg_event_ne t n ha]
    exact h m hm

end EventsKept

namespace RegsKept
variable {P : Nat → Prop} {z s : State}

theorem mapChan (i : Nat) (f : Chan → Chan) (hs : RegsKept P z s) : RegsKept P z (s.mapChan i f) := hs.of_regs rfl

theorem leaveRunning (d : Dev) (hs : RegsKept P z s) : RegsKept P z (s.leaveRunning d) := hs.framed (s.leaveRunning_frame d)

section hub
variable (hub : ∀ a, P a → a < 0x400000)
include hub

theorem dropPendingBanks (hs : RegsKept P z s) : RegsKept P z s.dropPendingBanks :=
  (hs.setReg (notDie hub .s0 _) _).setReg (notDie hub .s1 _) _

theorem stopWork (hs : RegsKept P z s) : RegsKept P z s.stopWork := by
  unfold State.stopWork
  extract_lets v
  have h : RegsKept P z v := ((hs.chargeWaits hub .s0).chargeWaits hub .s1).dropTickOps.dropPendingBanks hub
  clear_value v
  exact h.of_regs rfl

omit hub in
theorem formRecord (hr : ¬ P rTickInvalidRun) (b : RecordBody) (hs : RegsKept P z s) : RegsKept P z (s.formRecord b) := by
  unfold State.formRecord
  extract_lets bytes s1 p s2 s3 d
  have h1 : RegsKept P z s1 := hs.setField hr _ _ _
  have h2 : RegsKept P z s2 := h1.of_regs rfl
  have h3 : RegsKept P z s3 := h2.mapChan _ _
  clear_value s3
  exact h3.of_regs rfl

omit hub in
theorem invalid (code : Nat) (hs : RegsKept P z s) : RegsKept P z (s.invalid code) := by
  obtain ⟨at_, e⟩ := s.invalid_eq code
  exact hs.of_regs (by rw [e])

theorem writeInvalid (hr : ¬ P rTickInvalidRun) (code : Nat) (hs : RegsKept P z s) : RegsKept P z (s.writeInvalid code) :=
  (((hs.invalid code).formRecord hr _).setField (notDie hub .s0 _) _ _ _).setField (notDie hub .s0 _) _ _ _

end hub

end RegsKept

/-! ### The safe state entered from a device that is not FAULTED (R476 to R478) -/

theorem State.publish_frame (s : State) (verdict reason sample : Nat) (record : Option (List Byte)) :
    Framed [.regs, .plan, .host, .dep, .tally, .out] s (s.publish verdict reason sample record) :=
  State.publish_framed (List.Subset.refl _) (Framed.refl s)

/-- A verdict published names no cause and clears no event. -/
theorem State.publish_keeps (s : State) (verdict reason sample : Nat) (record : Option (List Byte)) :
    (s.publish verdict reason sample record).dep.cause = s.dep.cause ∧
    EventsKept rDeputyEvents s (s.publish verdict reason sample record) := by
  unfold State.publish
  extract_lets id crc k v d run p s1 s2 validFail s3
  have c1 : s1.dep.cause = s.dep.cause := rfl
  have e1 : EventsKept rDeputyEvents s s1 := EventsKept.of_regsKept (RegsKept.of_regs (RegsKept.refl s) rfl)
  clear_value s1
  have f2 : Framed [.regs, .out] s1 s2 :=
    Framed.ite (State.emit_framed (by decide) (State.count_framed (by decide) (Framed.refl _)))
      (Framed.ite (State.event_framed (by decide) (State.count_framed (by decide) (Framed.refl _)))
        (State.event_framed (by decide) (Framed.refl _)))
  have count : ∀ o, o ≠ rDeputyEvents → EventsKept rDeputyEvents s (s1.count o 1) := fun o ho =>
    e1.trans (EventsKept.of_regsKept (RegsKept.count (P := (· = rDeputyEvents)) ho 1 (RegsKept.refl s1)))
  have e2 : EventsKept rDeputyEvents s s2 := by
    show EventsKept _ _ (if verdict = 1 then _ else if verdict = 2 then _ else _)
    split
    · exact count rDeputyPassCount (by decide)
    · split
      · exact (count rDeputyFailCount (by decide)).event _ _
      · exact e1.event _ _
  have f3 : Framed [.regs, .host, .tally, .out] s2 (s3.irq 3) :=
    State.irq_framed (by decide) (Framed.ite (State.log_framed (by decide) (Framed.refl _)) (Framed.refl _))
  have e3 : EventsKept rDeputyEvents s2 (s3.irq 3) := EventsKept.of_regsKept
    (RegsKept.irq 3 (RegsKept.ite (RegsKept.log (by rintro a ha rfl; revert ha; decide) _ _ _ _ (RegsKept.refl s2)) (RegsKept.refl s2)))
  exact ⟨f3.cause_eq.trans (f2.cause_eq.trans c1), e2.trans e3⟩

theorem State.writeInvalid_cause (s : State) (code : Nat) : (s.writeInvalid code).dep.cause = s.dep.cause := by
  obtain ⟨at_, e⟩ := s.invalid_eq code
  unfold State.writeInvalid
  rw [e]
  rfl

/-- A tick abandoned for the safe state names no cause and clears no event. -/
theorem State.abandonTick_keeps (s : State) : s.abandonTick.dep.cause = s.dep.cause ∧ s.abandonTick.dep.safe = s.dep.safe ∧
    EventsKept rDeputyEvents s s.abandonTick := by
  have hub : ∀ a, a = rDeputyEvents → a < 0x400000 := by rintro a rfl; decide
  have hw : EventsKept rDeputyEvents s s.stopWork := EventsKept.of_regsKept (RegsKept.stopWork hub (RegsKept.refl s))
  have fw := s.stopWork_frame
  have fa := (State.abandonTick_framed (List.Subset.refl _) (Framed.refl s)) .safe (by decide)
  refine ⟨?_, fa, ?_⟩
  · unfold State.abandonTick
    split
    · rw [(State.publish_keeps _ _ _ _ _).1]
      exact (State.writeInvalid_cause _ _).trans fw.cause_eq
    · split
      · rw [(State.publish_keeps _ _ _ _ _).1]
        exact fw.cause_eq
      · rfl
  · unfold State.abandonTick
    split
    · have hi : EventsKept rDeputyEvents s.stopWork (s.stopWork.writeInvalid reasonDeputyFault) :=
        EventsKept.of_regsKept (RegsKept.writeInvalid hub (by decide) _ (RegsKept.refl _))
      exact (hw.trans hi).trans (State.publish_keeps _ _ _ _ _).2
    · split
      · exact hw.trans (State.publish_keeps _ _ _ _ _).2
      · exact EventsKept.refl s

/-- A run ended with no entry waiting for it leaves the command interface. -/
theorem State.leaveRunning_unwaited {s : State} {d : Dev} (h : s.sys.waitEdge = false) :
    (s.leaveRunning d).sys = s.sys ∧ (s.leaveRunning d).dev = d := by
  have fd : Framed [.tick, .out] s s.dropTickOut := State.dropTickOut_framed (List.Subset.refl _) (Framed.refl s)
  have hsys : s.dropTickOut.sys = s.sys := fd.sys_eq (by decide) (by decide)
  unfold State.leaveRunning
  extract_lets v
  have hw : ∀ w : State, w.sys = s.sys → w.settleHead = w := fun w e => if_neg (by rw [e, h]; decide)
  rw [hw { v with dev := d, tick := { v.tick with live := false, awaitT0 := false, phase := 7, locked := false, good := 0 } } hsys]
  have f := State.retrainDown_framed (ps := [.out]) (by decide) (Framed.refl { v with
    dev := d, tick := { v.tick with live := false, awaitT0 := false, phase := 7, locked := false, good := 0 } })
  exact ⟨(f.sys_eq (by decide) (by decide)).trans hsys, f .dev (by decide)⟩

/-- The safe state entered with a cause, with no entry of the command queue waiting for a boundary. -/
structure SafeEntered (s u : State) (cause : Nat) : Prop where
  dev : u.dev = .faulted
  cause : u.dep.cause = cause
  safe : u.dep.safe = true
  sys : u.sys = s.sys
  events : EventsKept rDeputyEvents s u

theorem State.enterSafe_entered {s : State} {cause : Nat} (hr : s.sys.inReset = false) (hd : s.dev ≠ .faulted)
    (hw : s.sys.waitEdge = false) : SafeEntered s (s.enterSafe cause) cause := by
  unfold State.enterSafe
  rw [if_neg (by simp [hr]), if_neg hd]
  extract_lets x s1 s2 s3 s4
  have c1 : s1.dep.cause = cause ∧ s1.dep.safe = true ∧ s1.sys = s.sys := ⟨rfl, rfl, rfl⟩
  have e1 : EventsKept rDeputyEvents s s1 := EventsKept.of_regsKept (RegsKept.of_regs (RegsKept.refl s) rfl)
  clear_value s1
  have f3 : Framed [.regs, .host, .tally, .out] s1 s3 := State.log_framed (by decide)
    (State.event_framed (by decide) (State.setPair_framed (by decide) (Framed.refl s1)))
  have e3 : EventsKept rDeputyEvents s s3 := by
    have ep : EventsKept rDeputyEvents s1 (s1.setPair rDeputySafeTimeLo rDeputySafeTimeHi s1.now) :=
      EventsKept.of_regsKept (RegsKept.setPair (by decide) (by decide) _ (RegsKept.refl s1))
    exact ((e1.trans ep).event _ _).trans (EventsKept.of_regsKept
      (RegsKept.log (by rintro a ha rfl; revert ha; decide) _ _ _ _ (RegsKept.refl s2)))
  clear_value s3
  obtain ⟨c4, h4, e4⟩ := s3.abandonTick_keeps
  have y4 : s4.sys = s.sys :=
    ((State.abandonTick_framed (List.Subset.refl _) (Framed.refl s3)).sys_eq (by decide) (by decide)).trans
      ((f3.sys_eq (by decide) (by decide)).trans c1.2.2)
  obtain ⟨y5, d5⟩ := State.leaveRunning_unwaited (s := s4) (d := .faulted) (by rw [y4]; exact hw)
  have f5 := s4.leaveRunning_frame .faulted
  have e5 : EventsKept rDeputyEvents s4 (s4.leaveRunning .faulted) := EventsKept.of_regsKept (RegsKept.leaveRunning _ (RegsKept.refl s4))
  have f6 : Framed [.host, .out] (s4.leaveRunning .faulted) (((s4.leaveRunning .faulted).irq 0).irq 3) :=
    State.irq_framed (by decide) (State.irq_framed (by decide) (Framed.refl _))
  have e6 : EventsKept rDeputyEvents (s4.leaveRunning .faulted) (((s4.leaveRunning .faulted).irq 0).irq 3) :=
    EventsKept.of_regsKept (RegsKept.irq 3 (RegsKept.irq 0 (RegsKept.refl _)))
  exact { dev := (f6 .dev (by decide)).trans d5
          cause := f6.cause_eq.trans (f5.cause_eq.trans (c4.trans (f3.cause_eq.trans c1.1)))
          safe := (f6 .safe (by decide)).trans ((f5 .safe (by decide)).trans (h4.trans ((f3 .safe (by decide)).trans c1.2.1)))
          sys := (f6.sys_eq (by decide) (by decide)).trans (y5.trans y4)
          events := ((e3.trans e4).trans e5).trans e6 }

end Sys2Proof.Machine
namespace Sys2Proof
open Sys2Proof.Machine

/-- The part of the Deputy that a frame leaves holds the count of INVALID records in a row. -/
theorem Framed.invRun_eq {ps : List Part} {s t : State} (h : Framed ps s t) (hp : .dep ∉ ps := by decide) :
    t.dep.invRun = s.dep.invRun := by
  have e := congrArg Deputy.invRun (show ({ t.dep with safe := true, slice := [] } : Deputy) = { s.dep with safe := true, slice := [] }
    from h .dep hp)
  exact e

/-- A write of the Deputy's state other than its latch and its world slice. -/
theorem Framed.withDep {ps : List Part} {z s : State} (h : Part.dep ∈ ps) (x : Deputy) (hs : x.safe = s.dep.safe)
    (hx : x.slice = s.dep.slice) (hz : Framed ps z s) : Framed ps z { s with dep := x } := by
  intro p hp
  cases p with
  | dep => exact absurd h hp
  | safe => exact hs.trans (hz .safe hp)
  | depSlice => exact hx.trans (hz .depSlice hp)
  | _ => exact hz _ hp

end Sys2Proof

namespace Sys2Proof.Machine
open Sys2Proof

/-! ### START and RESUME with their conditions holding (R26, R49, R50, R488 to R490) -/

/-- What START has loaded and emptied once the device runs. -/
structure SessionStarted (s u : State) : Prop where
  dev : u.dev = .running
  now : u.now = s.pair rTickTimeSetLo rTickTimeSetHi
  tick : u.tick.next = s.pair rTickNumSetLo rTickNumSetHi ∧ u.tick.first = true
  seed : u.seed = BitVec.ofNat 64 (s.pair (rReSeedSetLo .s0) (rReSeedSetHi .s0))
  world : u.world.epoch = (s.reg rWorldEpochSet).toNat ∧ u.world.staged = [] ∧ u.world.modes = [] ∧ u.world.ego = none
  plan : u.plan.history = none
  dep : u.dep.invRun = 0 ∧ u.dep.safe = s.dep.safe

theorem SessionStarted.framed {s u v : State} {ps : List Part} (h : SessionStarted s u) (f : Framed ps u v)
    (hp : .dev ∉ ps ∧ .now ∉ ps ∧ .tick ∉ ps ∧ .seed ∉ ps ∧ .world ∉ ps ∧ .plan ∉ ps ∧ .dep ∉ ps ∧ .safe ∉ ps := by decide) :
    SessionStarted s v := by
  obtain ⟨hd, hn, ht, hs, hw, hpl, hdp, hsf⟩ := hp
  exact { dev := (f .dev hd).trans h.dev
          now := (f .now hn).trans h.now
          tick := by rw [f .tick ht]; exact h.tick
          seed := (f .seed hs).trans h.seed
          world := by rw [f .world hw]; exact h.world
          plan := by rw [f .plan hpl]; exact h.plan
          dep := ⟨(f.invRun_eq hdp).trans h.dep.1, (f .safe hsf).trans h.dep.2⟩ }

theorem State.awaitFirst_next (w : State) (next : Nat) (nextT : Option Nat) : (w.awaitFirst next nextT).tick.next = next ∧
    (w.awaitFirst next nextT).tick.first = true ∧ (w.awaitFirst next nextT).tick.num = w.tick.num ∧
    (w.awaitFirst next nextT).tick.nextT = nextT := ⟨rfl, rfl, rfl, rfl⟩

theorem State.awaitFirst_frame (w : State) (next : Nat) (nextT : Option Nat) : Framed [.dev, .tick] w (w.awaitFirst next nextT) :=
  State.awaitFirst_framed (List.Subset.refl _) (Framed.refl w)

theorem State.emptySession_emptied (c : State) (next epoch : Nat) :
    (c.emptySession next epoch).world.epoch = epoch ∧ (c.emptySession next epoch).world.staged = [] ∧
    (c.emptySession next epoch).world.modes = [] ∧ (c.emptySession next epoch).world.ego = none ∧
    (c.emptySession next epoch).plan.history = none ∧ (c.emptySession next epoch).dep.invRun = 0 :=
  ⟨rfl, rfl, rfl, rfl, rfl, rfl⟩

theorem State.startSession_started (s : State) : SessionStarted s s.startSession := by
  unfold State.startSession
  have fc : Framed [.regs, .dies] s.loadTime s.loadTime.clearCounters := State.clearCounters_framed (List.Subset.refl _) (Framed.refl _)
  have ln : s.loadTime.now = s.pair rTickTimeSetLo rTickTimeSetHi := rfl
  have ls : s.loadTime.seed = BitVec.ofNat 64 (s.pair (rReSeedSetLo .s0) (rReSeedSetHi .s0)) := rfl
  have lf : s.loadTime.dep = s.dep := rfl
  generalize s.loadTime.clearCounters = c at fc ⊢
  generalize s.loadTime = l at fc ln ls lf
  extract_lets epoch next zero v
  have fv : Framed [.plan, .world, .dies, .dep] c v := State.emptySession_framed (List.Subset.refl _) (Framed.refl c)
  obtain ⟨hepoch, hstaged, hmodes, hego, hplan, hinv⟩ := c.emptySession_emptied next epoch
  have fb : Framed [.mem, .slices] v (((v.writeBank 0 zero).writeBank 1 zero).writeCanaries) :=
    State.writeCanaries_framed (by decide) (State.writeBank_framed (by decide) (State.writeBank_framed (by decide) (Framed.refl v)))
  generalize ((v.writeBank 0 zero).writeBank 1 zero).writeCanaries = w at fb ⊢
  obtain ⟨hn, hf, -, -⟩ := w.awaitFirst_next next none
  have fw := w.awaitFirst_frame next none
  have hdev : (w.awaitFirst next none).dev = .running := rfl
  generalize w.awaitFirst next none = u at hn hf hdev fw ⊢
  have hworld : u.world = v.world := (fw .world (by decide)).trans (fb .world (by decide))
  have hplan' : u.plan = v.plan := (fw .plan (by decide)).trans (fb .plan (by decide))
  exact { dev := hdev
          now := (fw .now (by decide)).trans ((fb .now (by decide)).trans ((fv .now (by decide)).trans ((fc .now (by decide)).trans ln)))
          tick := ⟨hn, hf⟩
          seed := (fw .seed (by decide)).trans ((fb .seed (by decide)).trans ((fv .seed (by decide)).trans ((fc .seed (by decide)).trans ls)))
          world := by rw [hworld]; exact ⟨hepoch, hstaged, hmodes, hego⟩
          plan := by rw [hplan']; exact hplan
          dep := ⟨fw.invRun_eq.trans (fb.invRun_eq.trans hinv), (fw .safe (by decide)).trans ((fb .safe (by decide)).trans
            ((fv .safe (by decide)).trans ((fc .safe (by decide)).trans (congrArg Deputy.safe lf))))⟩ }

/-- START reads none of the registers by device time. -/
theorem SessionStarted.of_now {s u : State} {n : Nat} (h : SessionStarted { s with now := n } u) : SessionStarted s u :=
  ⟨h.dev, h.now, h.tick, h.seed, h.world, h.plan, h.dep⟩

/-- An injection caught whole shows itself in the Deputy alone (R488 to R490). -/
theorem State.inject_caught (s : State) : Framed [.regs, .dep] s (s.inject 0) ∧ (s.inject 0).dep.invRun = s.dep.invRun := by
  unfold State.inject
  extract_lets inj s1 x s2
  rw [if_pos rfl]
  have h1 : Framed [.regs, .dep] s s1 := State.setReg_framed (by decide) (Framed.refl s)
  have hd : s1.dep.invRun = s.dep.invRun := rfl
  clear_value s1
  exact ⟨h1.trans (Framed.withDep (by decide) _ rfl rfl (Framed.refl s1)), hd⟩

theorem SessionStarted.inject {s u : State} (h : SessionStarted s u) : SessionStarted s (u.inject 0) := by
  obtain ⟨f, hi⟩ := u.inject_caught
  exact { dev := (f .dev (by decide)).trans h.dev
          now := (f .now (by decide)).trans h.now
          tick := by rw [f .tick (by decide)]; exact h.tick
          seed := (f .seed (by decide)).trans h.seed
          world := by rw [f .world (by decide)]; exact h.world
          plan := by rw [f .plan (by decide)]; exact h.plan
          dep := ⟨hi.trans h.dep.1, (f .safe (by decide)).trans h.dep.2⟩ }

theorem EntryEnds.of_sys {code reason : Nat} {s u v : State} (h : EntryEnds code reason s u) (e : v.sys = u.sys) :
    EntryEnds code reason s v := by
  obtain ⟨h1, h2, h3, h4, h5⟩ := h
  rw [← e] at h1 h2 h3 h4 h5
  exact ⟨h1, h2, h3, h4, h5⟩

/-- START in STOPPED with its registers sound and the conditions of R50 holding. -/
theorem exec_start_runs {s : State} {t missed : Nat} (hq : s.headIs (.cmd 1)) (hw : s.headWait = false) (hd : s.dev = .stopped)
    (hs : s.soundAt (runRegs ++ sessionRegs) = true) (hr : s.runCheck (s.pair rTickTimeSetLo rTickTimeSetHi) = 0) :
    ∃ n, exec (.start t missed) s =
      .next ((((({ s with now := n } : State).startSession).popCmd 1 reasonDone).sendTrains).inject missed) := by
  obtain ⟨n, hn⟩ := s.advance_eq t
  refine ⟨n, ?_⟩
  show (.next (s.when (s.sys.queue.head? == some (.cmd 1) && !s.headWait) fun s => _) : Out) = _
  rw [show (s.sys.queue.head? == some (.cmd 1) && !s.headWait) = true by simp [hq, hw], State.when_true, hn]
  have hu : ({ s with now := n } : State).when (({ s with now := n } : State).dev == .stopped)
      (fun s => s.checkUses (runRegs ++ sessionRegs)) = { s with now := n } := by
    rw [show (({ s with now := n } : State).dev == .stopped) = true by simp [hd], State.when_true]
    exact State.checkUses_sound _ _ hs
  rw [hu]
  exact congrArg _ ((if_neg (not_not.mpr hd)).trans (if_neg (not_not.mpr hr)))

/-- RESUME's own effect: the count of ticks goes on with the boundary that T_0 gives. -/
def State.resumed (s : State) : State :=
  let v := s.awaitFirst s.tick.next (some s.nextBoundary)
  { v with dep := { v.dep with invRun := 0, passRun := 0, tick := v.tick.next } }

/-- RESUME in HOLD with its registers sound and the conditions of R50 holding. -/
theorem exec_resume_runs {s : State} {t missed : Nat} (hq : s.headIs (.cmd 4)) (hd : s.dev = .hold)
    (hs : s.soundAt runRegs = true) (hr : (s.advance t).runCheck (s.advance t).now = 0) :
    ∃ n, exec (.resume t missed) s = .next (((({ s with now := n } : State).resumed).popCmd 4 reasonDone).inject missed) := by
  obtain ⟨n, hn⟩ := s.advance_eq t
  rw [hn] at hr
  refine ⟨n, ?_⟩
  show (.next (s.when (s.sys.queue.head? == some (.cmd 4)) fun s => _) : Out) = _
  rw [show (s.sys.queue.head? == some (.cmd 4)) = true by simp [hq], State.when_true, hn]
  have hu : ({ s with now := n } : State).when (({ s with now := n } : State).dev == .hold)
      (fun s => s.checkUses runRegs) = { s with now := n } := by
    rw [show (({ s with now := n } : State).dev == .hold) = true by simp [hd], State.when_true]
    exact State.checkUses_sound _ _ hs
  rw [hu]
  exact congrArg _ ((if_neg (not_not.mpr hd)).trans (if_neg (not_not.mpr hr)))

/-- START's entry ends as the session has started. -/
theorem State.startSession_ends (s : State) {v : State} (hst : SessionStarted s v) (hsys : v.sys = s.sys) :
    SessionStarted s (v.popCmd 1 reasonDone).sendTrains ∧ EntryEnds 1 0 s (v.popCmd 1 reasonDone).sendTrains ∧
      (v.popCmd 1 reasonDone).sendTrains.sys.inReset = s.sys.inReset := by
  have ft : Framed [.queue, .sys, .out] v (v.popCmd 1 reasonDone).sendTrains :=
    State.sendTrains_framed (by decide) (State.popCmd_framed (by decide) (Framed.refl v))
  have hsys2 : (v.popCmd 1 reasonDone).sendTrains.sys = (v.popCmd 1 reasonDone).sys :=
    (State.sendTrains_framed (List.Subset.refl _) (Framed.refl (v.popCmd 1 reasonDone))).sys_eq (by decide) (by decide)
  refine ⟨hst.framed ft, (EntryEnds.pop (s := s) hsys 1 reasonDone).of_sys hsys2, ?_⟩
  have hpop : (v.popCmd 1 reasonDone).sys.inReset = v.sys.inReset := rfl
  rw [hsys2, hpop, hsys]

theorem State.startSession_sys (s : State) : s.startSession.sys = s.sys :=
  (State.startSession_framed (List.Subset.refl _) (Framed.refl s)).sys_eq (by decide) (by decide)

/-- START's part of O17 holds. -/
theorem startBeginsRunning : Statements.StartBeginsRunning := by
  intro s t hq hw hd hs hr
  obtain ⟨n, e⟩ := exec_start_runs (t := t) (missed := 0) hq hw hd hs hr
  refine ⟨_, e, ?_⟩
  obtain ⟨h, hent, -⟩ := s.startSession_ends (State.startSession_started { s with now := n }).of_now
    (State.startSession_sys { s with now := n })
  generalize ((({ s with now := n } : State).startSession).popCmd 1 reasonDone).sendTrains = w at h hent ⊢
  have hent' := hent.of_sys (w.inject_caught.1.sys_eq (by decide) (by decide))
  obtain ⟨hdev, hnow, ⟨hnext, hfirst⟩, hseed, ⟨hepoch, hstaged, hmodes, hego⟩, hplan, ⟨hinv, hsafe⟩⟩ := h.inject
  exact ⟨hdev, hent', hnow, hnext, hfirst, hseed, hepoch, hstaged, hmodes, hego, hplan, hinv, hsafe⟩

/-- RESUME with the injection caught: the boundary that the history is reckoned from is NEXT_T (R498, R515), which a HOLD
reached before the T_0 of an earlier RESUME leaves as that RESUME took it up. -/
theorem exec_resume_nextT {s : State} {t : Nat} (hq : s.headIs (.cmd 4)) (hd : s.dev = .hold) (hs : s.soundAt runRegs = true)
    (hr : (s.advance t).runCheck (s.advance t).now = 0) :
    ∃ u, exec (.resume t 0) s = .next u ∧ u.tick.nextT = some s.nextBoundary := by
  obtain ⟨n, e⟩ := exec_resume_runs (t := t) (missed := 0) hq hd hs hr
  exact ⟨_, e, rfl⟩

/-- An image with the four profiles fitted, each with a period of 602 µs or more. -/
def fittedImage : Image :=
  { (default : Image) with entries := (List.range 4).map fun p => { (default : PhaseEntry) with profile := p, fitted := true, minPeriod := 602 } }

/-- On hold with a RESUME at the head and the conditions of R50 holding, reached before the T_0 of an earlier RESUME: that one
took up 7 as the boundary of its history, and T_0 was expected at 9. -/
def heldBeforeT0 : State :=
  { State.reset.setReg rTickT0Lo 50000 with
    dev := .hold, now := 0, image := some fittedImage
    d0 := DieState.reset.takeService, d1 := DieState.reset.takeService
    sys := { Sys.reset with inReset := false, porHeld := false, queue := [.cmd 4] }
    tick := { Tick.reset with nextT := some 7, expect := 9 } }

set_option maxRecDepth 4000 in
theorem heldBeforeT0_runCheck : (heldBeforeT0.advance 0).runCheck (heldBeforeT0.advance 0).now = 0 := by decide

/-- An injection that is not caught whole sets its event and enters the safe state (R490). -/
theorem State.inject_missed {s : State} {missed : Nat} (hm : missed ≠ 0) (hr : s.sys.inReset = false) (hd : s.dev = .running)
    (hw : s.sys.waitEdge = false) : (s.inject missed).dev = .faulted ∧ (s.inject missed).dep.cause = 12 ∧
      (s.inject missed).dep.safe = true ∧ (s.inject missed).sys = s.sys ∧ ((s.inject missed).reg rDeputyEvents).getLsbD 8 = true := by
  unfold State.inject
  extract_lets inj s1 x s2 s3
  rw [if_neg hm]
  have h2 : s2.sys = s.sys ∧ s2.dev = s.dev := ⟨rfl, rfl⟩
  have f : Framed [.regs, .host, .tally, .out] s2 s3 := State.log_framed (by decide) (State.event_framed (by decide) (Framed.refl s2))
  have hev : (s3.reg rDeputyEvents).getLsbD 8 = true := by
    rw [State.reg_log _ _ _ _ _ (by decide)]
    exact s2.event_bit rDeputyEvents (by decide)
  have hsys : s3.sys = s.sys := (f.sys_eq (by decide) (by decide)).trans h2.1
  have hdev : s3.dev = .running := (f .dev (by decide)).trans (h2.2.trans hd)
  clear_value s3
  obtain ⟨hd', hc, hs', hy, he⟩ := State.enterSafe_entered (s := s3) (cause := causeInjection) (by rw [hsys]; exact hr)
    (by rw [hdev]; decide) (by rw [hsys]; exact hw)
  exact ⟨hd', hc, hs', hy.trans hsys, he 8 hev⟩

/-- The part of O17 about an injection that is not caught whole holds. -/
theorem injectionMissedIsCaught : Statements.InjectionMissedIsCaught := by
  intro s t missed hm hr
  have caught : ∀ {w : State} {code : Nat}, w.dev = .running → w.sys.inReset = false → EntryEnds code 0 s w →
      (w.inject missed).dev = .faulted ∧ (w.inject missed).dep.cause = 12 ∧ (w.inject missed).dep.safe = true ∧
        EntryEnds code 0 s (w.inject missed) ∧ ((w.inject missed).reg rDeputyEvents).getLsbD 8 = true := by
    intro w code hd hw he
    obtain ⟨hd', hcause, hsafe, hy, hev⟩ := State.inject_missed hm hw hd he.still.1
    exact ⟨hd', hcause, hsafe, he.of_sys hy, hev⟩
  refine ⟨fun hq hw hd hs hc => ?_, fun hq hd hs hc => ?_⟩
  · obtain ⟨n, e⟩ := exec_start_runs (t := t) (missed := missed) hq hw hd hs hc
    obtain ⟨h, hent, hreset⟩ := s.startSession_ends (State.startSession_started { s with now := n }).of_now
      (State.startSession_sys { s with now := n })
    generalize ((({ s with now := n } : State).startSession).popCmd 1 reasonDone).sendTrains = w at h hent hreset e
    exact ⟨_, e, caught h.dev (hreset.trans hr) hent⟩
  · obtain ⟨n, e⟩ := exec_resume_runs (t := t) (missed := missed) hq hd hs hc
    exact ⟨_, e, caught rfl hr (EntryEnds.pop (s := s) (v := ({ s with now := n } : State).resumed) rfl 4 reasonDone)⟩

/-- Refutes O17: a RESUME from a HOLD that was reached before the T_0 of an earlier RESUME takes up the boundary of that one,
not the boundary expected. -/
theorem not_startAndResumeRun : ¬ Obligations.StartAndResumeRun := by
  rintro ⟨-, h, -⟩
  obtain ⟨u, e, -, -, -, -, -, hT, -⟩ := h heldBeforeT0 0 rfl rfl (by decide) heldBeforeT0_runCheck
  obtain ⟨v, e', hT'⟩ := exec_resume_nextT (s := heldBeforeT0) (t := 0) rfl rfl (by decide) heldBeforeT0_runCheck
  obtain rfl : u = v := Host.Outcome.next.inj (e.symm.trans e')
  exact absurd (hT.symm.trans hT') (by decide)

end Sys2Proof.Machine

namespace Sys2Proof.Machine
open Sys2Proof

/-! ### Fields of a register word -/

theorem testBit_bits (w : Word) (hi lo n : Nat) : (bits w hi lo).testBit n = (decide (n < hi + 1 - lo) && w.getLsbD (n + lo)) := by
  rw [bits, Nat.testBit_mod_two_pow, Nat.testBit_div_two_pow]
  rfl

theorem getLsbD_setBits (w : Word) {hi lo v m : Nat} (hm : m < 32) : (setBits w hi lo v).getLsbD m =
    if lo ≤ m ∧ m < hi + 1 then v.testBit (m - lo) else w.getLsbD m := by
  have hmask : (BitVec.ofNat 32 ((2 ^ (hi + 1 - lo) - 1) * 2 ^ lo)).getLsbD m = decide (lo ≤ m ∧ m < hi + 1) := by
    rw [BitVec.getLsbD_ofNat, Nat.testBit_mul_two_pow, Nat.testBit_two_pow_sub_one, decide_eq_true hm]
    by_cases h : lo ≤ m
    · simp [h]
      omega
    · simp [h]
  have hval : (BitVec.ofNat 32 (v * 2 ^ lo)).getLsbD m = (decide (lo ≤ m) && v.testBit (m - lo)) := by
    rw [BitVec.getLsbD_ofNat, Nat.testBit_mul_two_pow, decide_eq_true hm, Bool.true_and]
  rw [setBits, BitVec.getLsbD_or, BitVec.getLsbD_and, BitVec.getLsbD_and, BitVec.getLsbD_not, hmask, hval]
  by_cases h : lo ≤ m ∧ m < hi + 1
  · simp [h.1, h.2]
  · rw [if_neg h, decide_eq_false h]
    simp [hm]

theorem getLsbD_setBit (w : Word) {n m : Nat} (b : Bool) (hm : m < 32) :
    (setBit w n b).getLsbD m = if m = n then b else w.getLsbD m := by
  rw [setBit, getLsbD_setBits w hm]
  by_cases h : m = n
  · subst h
    cases b <;> simp
  · rw [if_neg h, if_neg (by omega)]

/-- A field read back after it is written. -/
theorem bits_setBits_same (w : Word) {hi lo v : Nat} (hh : hi < 32) (hv : v < 2 ^ (hi + 1 - lo)) :
    bits (setBits w hi lo v) hi lo = v := by
  refine Nat.eq_of_testBit_eq fun n => ?_
  rw [testBit_bits]
  by_cases hn : n < hi + 1 - lo
  · rw [getLsbD_setBits w (by omega), if_pos (by omega), decide_eq_true hn, Nat.add_sub_cancel, Bool.true_and]
  · rw [decide_eq_false hn, Bool.false_and]
    exact (Nat.testBit_lt_two_pow (Nat.lt_of_lt_of_le hv (Nat.pow_le_pow_right (by omega) (Nat.not_lt.mp hn)))).symm

/-- A field apart from the one that is written. -/
theorem bits_setBits_apart (w : Word) {hi lo v h l : Nat} (hh : h < 32) (ha : h < lo ∨ hi < l) :
    bits (setBits w hi lo v) h l = bits w h l := by
  refine Nat.eq_of_testBit_eq fun n => ?_
  rw [testBit_bits, testBit_bits]
  by_cases hn : n < h + 1 - l
  · rw [getLsbD_setBits w (by omega), if_neg (by omega)]
  · rw [decide_eq_false hn, Bool.false_and, Bool.false_and]

/-! ### Memory read back (R340) -/

theorem memRead_length (n a : Nat) (m : List Host.Cell) : (memRead n a m).length = n := by
  induction n generalizing a m with
  | zero => rfl
  | succ n ih =>
    unfold memRead
    split
    · exact List.length_replicate
    · split
      · exact congrArg (· + 1) (ih _ _)
      · exact congrArg (· + 1) (ih _ _)

theorem memRead_nil (n a : Nat) : memRead n a [] = List.replicate n 0 := by
  cases n with
  | zero => rfl
  | succ n => rfl

/-- Cells below the first address do not count. -/
theorem memRead_append_low {l : List Host.Cell} {a : Nat} (h : ∀ c ∈ l, c.1 < a) (n : Nat) (m : List Host.Cell) :
    memRead n a (l ++ m) = memRead n a m := by
  have hd : (l ++ m).dropWhile (fun c => decide (c.1 < a)) = m.dropWhile fun c => decide (c.1 < a) := by
    induction l with
    | nil => rfl
    | cons c l ih =>
      rw [List.cons_append, List.dropWhile_cons, if_pos (decide_eq_true (h c List.mem_cons_self))]
      exact ih fun x hx => h x (List.mem_cons_of_mem c hx)
  cases n with
  | zero => rfl
  | succ n => rw [memRead, memRead, hd]

theorem memRead_cons (n a : Nat) (b : Byte) (m : List Host.Cell) : memRead (n + 1) a ((a, b) :: m) = b :: memRead n (a + 1) m := by
  rw [memRead, List.dropWhile_cons, if_neg (by simp)]
  exact if_pos rfl

/-- An address below every cell reads 0. -/
theorem memRead_skip {m : List Host.Cell} {a : Nat} (h : ∀ c ∈ m, a < c.1) (n : Nat) :
    memRead (n + 1) a m = 0 :: memRead n (a + 1) m := by
  cases m with
  | nil => rw [memRead_nil, memRead_nil, List.replicate_succ]
  | cons c m =>
    have hc := h c List.mem_cons_self
    rw [memRead, List.dropWhile_cons, if_neg (by simpa using hc.le)]
    exact if_neg hc.ne'

/-- Bytes in canonical form followed by higher cells read back. -/
theorem memRead_cellsAt (data : List Byte) (a : Nat) {m : List Host.Cell} (h : ∀ c ∈ m, a + data.length ≤ c.1) :
    memRead data.length a (cellsAt a data ++ m) = data := by
  induction data generalizing a with
  | nil => rfl
  | cons b bs ih =>
    have hm : ∀ c ∈ m, a + 1 + bs.length ≤ c.1 := fun c hc => by have := h c hc; simp only [List.length_cons] at this; omega
    have hbs := ih (a + 1) hm
    have hge : ∀ c ∈ cellsAt (a + 1) bs ++ m, a + 1 ≤ c.1 := fun c hc => by
      rcases List.mem_append.mp hc with hc | hc
      · exact (mem_cellsAt hc).1
      · have := hm c hc; omega
    rw [List.length_cons]
    by_cases hb : b = 0
    · subst hb
      rw [cellsAt, if_pos rfl, memRead_skip hge, hbs]
    · rw [cellsAt, if_neg hb, List.cons_append, memRead_cons, hbs]

/-- What a store wrote reads back. -/
theorem memRead_write_same (m : List Host.Cell) (a : Nat) (data : List Byte) :
    memRead data.length a (memWrite m a data) = data := by
  rw [memWrite, List.append_assoc, memRead_append_low fun c hc => by simpa using (List.mem_filter.mp hc).2]
  exact memRead_cellsAt data a fun c hc => by simpa using (List.mem_filter.mp hc).2

/-- It reads back too after a later store above it. -/
theorem memRead_write_below (m : List Host.Cell) {a b : Nat} (data later : List Byte) (h : a + data.length ≤ b) :
    memRead data.length a (memWrite (memWrite m a data) b later) = data := by
  have low : (memWrite m a data).filter (fun c => decide (c.1 < b)) =
      m.filter (fun c => decide (c.1 < a)) ++ (cellsAt a data ++
        (m.filter fun c => decide (a + data.length ≤ c.1)).filter fun c => decide (c.1 < b)) := by
    rw [memWrite, List.filter_append, List.filter_append, List.append_assoc]
    have h1 : (m.filter fun c => decide (c.1 < a)).filter (fun c => decide (c.1 < b)) = m.filter fun c => decide (c.1 < a) :=
      List.filter_eq_self.mpr fun c hc => by
        have := (List.mem_filter.mp hc).2
        simp only [decide_eq_true_eq] at this ⊢
        omega
    have h2 : (cellsAt a data).filter (fun c => decide (c.1 < b)) = cellsAt a data :=
      List.filter_eq_self.mpr fun c hc => by
        have := mem_cellsAt hc
        simp only [decide_eq_true_eq]
        omega
    rw [h1, h2]
  rw [memWrite, low, List.append_assoc, List.append_assoc, List.append_assoc,
    memRead_append_low fun c hc => by simpa using (List.mem_filter.mp hc).2]
  refine memRead_cellsAt data a fun c hc => ?_
  rcases List.mem_append.mp hc with hc | hc
  · simpa using (List.mem_filter.mp (List.mem_filter.mp hc).1).2
  · rcases List.mem_append.mp hc with hc | hc
    · have := mem_cellsAt hc
      omega
    · have := (List.mem_filter.mp hc).2
      simp only [decide_eq_true_eq] at this
      omega

end Sys2Proof.Machine

namespace Sys2Proof.Machine
open Sys2Proof

/-! ### SAVE into a DRAM whose initialisation has not come so far (R359, R512) -/

/-- On hold in a device with both dies on, its SAVE_BASE at the start of S1's DRAM, whose initialisation has not begun. -/
def savingToS1 : State :=
  { ((State.reset.setReg rTallySaveBaseHi 8).setReg (rDmcSize .s1) (BitVec.ofNat 32 (56 * 2 ^ 16))) with
    dev := .hold
    d0 := { DieState.reset with power := 2 }, d1 := { DieState.reset with power := 2 }
    sys := { Sys.reset with inReset := false, porHeld := false, queue := [.cmd 5] } }

/-- SAVE in HOLD with its base sound waits while the front of the initialisation has not passed its region. -/
theorem exec_save_stalled {s : State} {t : Nat} (hq : s.headIs (.cmd 5)) (hw : s.sys.waitSave = false) (hd : s.dev = .hold)
    (hs : s.soundAt saveRegs = true) (hf : s.stalled [(s.pair rTallySaveBaseLo rTallySaveBaseHi, s.saveLen)] ≠ []) :
    ∃ n, exec (.save t) s =
      .next (({ s with now := n } : State).noteStalls (s.stalled [(s.pair rTallySaveBaseLo rTallySaveBaseHi, s.saveLen)])) := by
  obtain ⟨n, hn⟩ := s.advance_eq t
  refine ⟨n, ?_⟩
  show (.next (s.when (s.sys.queue.head? == some (.cmd 5) && !s.sys.waitSave) fun s => _) : Out) = _
  rw [show (s.sys.queue.head? == some (.cmd 5) && !s.sys.waitSave) = true by simp [hq, hw], State.when_true, hn]
  have hu : ({ s with now := n } : State).when (({ s with now := n } : State).dev == .hold) (fun s => s.checkUses saveRegs) =
      { s with now := n } := by
    rw [show (({ s with now := n } : State).dev == .hold) = true by simp [hd], State.when_true]
    exact State.checkUses_sound _ _ hs
  rw [hu]
  exact congrArg _ ((if_neg (not_not.mpr hd)).trans (if_neg hf))

/-- Refutes O21: INIT_STALL is set on the die whose DRAM holds the base, which may be S1. -/
theorem not_saveWritesTheCarryOverState : ¬ Obligations.SaveWritesTheCarryOverState := by
  intro h
  obtain ⟨-, -, h3, -⟩ := h savingToS1 0 rfl (by decide)
  obtain ⟨u, e, -, hb, -⟩ := h3 rfl rfl (by decide)
  obtain ⟨n, e'⟩ := exec_save_stalled (s := savingToS1) (t := 0) rfl rfl rfl (by decide) (by decide)
  obtain rfl := Host.Outcome.next.inj (e.symm.trans e')
  rw [show savingToS1.stalled [(savingToS1.pair rTallySaveBaseLo rTallySaveBaseHi, savingToS1.saveLen)] = [(0x800000000, 192)] by decide] at hb
  have hev : ∀ v : State, v.noteStalls [(0x800000000, 192)] = v.event (rDmcEvents .s1) 3 := fun _ => rfl
  rw [hev, State.reg_event_ne _ _ (by decide)] at hb
  have hb0 : ¬ (savingToS1.reg (rDmcEvents .s0)).getLsbD 3 = true := by decide
  exact hb0 hb

end Sys2Proof.Machine

namespace Sys2Proof
open Sys2Proof.Machine

/-- The part of the Deputy that a frame leaves holds its own counts of the tick and the epoch. -/
theorem Framed.depTimes_eq {ps : List Part} {s t : State} (h : Framed ps s t) (hp : .dep ∉ ps := by decide) :
    t.dep.tick = s.dep.tick ∧ t.dep.epoch = s.dep.epoch := by
  have e := show ({ t.dep with safe := true, slice := [] } : Deputy) = { s.dep with safe := true, slice := [] } from h .dep hp
  have e1 := congrArg Deputy.tick e
  have e2 := congrArg Deputy.epoch e
  exact ⟨e1, e2⟩

/-- The Deputy is as it was where none of its parts is in the frame. -/
theorem Framed.dep_eq {ps : List Part} {s t : State} (h : Framed ps s t) (hp : .dep ∉ ps ∧ .safe ∉ ps ∧ .depSlice ∉ ps := by decide) :
    t.dep = s.dep := by
  obtain ⟨hd, hs, hl⟩ := hp
  have e := show ({ t.dep with safe := true, slice := [] } : Deputy) = { s.dep with safe := true, slice := [] } from h .dep hd
  have e2 : t.dep.safe = s.dep.safe := h .safe hs
  have e3 : t.dep.slice = s.dep.slice := h .depSlice hl
  revert e e2 e3
  generalize t.dep = x
  generalize s.dep = y
  cases x
  cases y
  intro e e2 e3
  cases e
  cases e2
  cases e3
  rfl

end Sys2Proof

namespace Sys2Proof.Machine
open Sys2Proof

/-! ### RESTORE (R513, R514) -/

/-- RESTORE's entry reported and ended: TALLY.SAVE_STATUS, the Tally entry and the result of the queue. -/
def State.restoreReported (s : State) (base next r : Nat) (diff : Bool) : State :=
  ((s.setReg rTallySaveStatus (packFields [(4, r), (8, bnat diff), (9, 1)])).log note 0x0011 0
    (leBytes 8 base ++ leBytes 8 next ++ leBytes 1 r)).popCmd 6 reasonDone

theorem State.restoreReported_frame (s : State) (base next r : Nat) (diff : Bool) :
    Framed [.regs, .host, .tally, .out, .queue, .sys] s (s.restoreReported base next r diff) :=
  State.popCmd_framed (by decide) (State.log_framed (by decide) (State.setReg_framed (by decide) (Framed.refl s)))

theorem State.restoreReported_ends {s v : State} (h : v.sys = s.sys) (base next r : Nat) (diff : Bool) :
    EntryEnds 6 0 s (v.restoreReported base next r diff) := by
  have f : Framed [.regs, .host, .tally, .out] v ((v.setReg rTallySaveStatus (packFields [(4, r), (8, bnat diff), (9, 1)])).log
      note 0x0011 0 (leBytes 8 base ++ leBytes 8 next ++ leBytes 1 r)) :=
    State.log_framed (by decide) (State.setReg_framed (by decide) (Framed.refl v))
  exact EntryEnds.pop ((f.sys_eq (by decide) (by decide)).trans h) 6 reasonDone

theorem State.restoreReported_regs {P : Nat → Prop} {z v : State} (hs : ¬ P rTallySaveStatus) (hl : ∀ a ∈ logRegs, ¬ P a)
    (h : RegsKept P z v) (base next r : Nat) (diff : Bool) : RegsKept P z (v.restoreReported base next r diff) :=
  ((h.setReg hs _).log hl _ _ _ _).of_regs rfl

theorem bits_saveStatus {r : Nat} (diff : Bool) (h : r < 16) : bits (packFields [(4, r), (8, bnat diff), (9, 1)]) 7 4 = r := by
  have hb : bnat diff < 2 := by cases diff <;> decide
  simp only [bits, packFields, List.foldl_cons, List.foldl_nil, BitVec.toNat_ofNat]
  omega

theorem State.restoreReported_status (v : State) (base next : Nat) {r : Nat} (diff : Bool) (h : r < 16) :
    bits ((v.restoreReported base next r diff).reg rTallySaveStatus) 7 4 = r := by
  unfold State.restoreReported
  rw [State.reg_popCmd, State.reg_log _ _ _ _ _ (by decide), State.reg_setReg]
  exact bits_saveStatus diff h

/-- The RESULT of RESTORE: an uncorrectable error that its reads meet counts where the checks reach the header (R513). -/
def State.restoreResult (s : State) (ue : Bool) : Nat :=
  if s.restoreCheck s.sys.saveBase ≠ 6 ∧ ue = true then 5 else s.restoreCheck s.sys.saveBase

/-- RESTORE with its result `r`: the state loaded where its checks pass, and the entry ended. -/
def State.restoreEnds (v : State) (base r : Nat) : State :=
  (if r = 0 then (v.restoreLoad base).setReg rTallySaveLen (BitVec.ofNat 32 (if r = 6 then 0 else fieldU (v.load base 0x80) 8 4))
    else v).restoreReported base (if r = 6 then 0 else fieldU (v.load base 0x80) 0x10 8) r (decide (r = 0) && v.fwDiffers base)

/-- What RESTORE_DONE does once the front of the initialisation has passed what it reads. -/
theorem exec_restoreDone {s : State} {ue : Bool} (hq : s.headIs (.cmd 6)) (hw : s.sys.waitSave = true)
    (hf : s.stalled s.restoreSpans = []) : exec (.restoreDone ue) s =
      .next ((s.when (s.restoreResult ue == 5) fun s => s.sourceUe s.sys.saveBase 0x80).restoreEnds s.sys.saveBase
        (s.restoreResult ue)) := by
  show (.next (s.when (s.sys.queue.head? == some (.cmd 6) && s.sys.waitSave) fun s => s.afterFront s.restoreSpans fun s =>
    (s.when (s.restoreResult ue == 5) fun v => v.sourceUe s.sys.saveBase 0x80).restoreEnds s.sys.saveBase (s.restoreResult ue)) : Out) = _
  rw [show (s.sys.queue.head? == some (.cmd 6) && s.sys.waitSave) = true by simp [hq, hw], State.when_true]
  exact congrArg _ (if_pos hf)

/-- A state whose checks pass is loaded before its entry is reported. -/
theorem State.restoreEnds_pass (v : State) (base : Nat) : ∃ len next diff, v.restoreEnds base 0 =
    ((v.restoreLoad base).setReg rTallySaveLen len).restoreReported base next 0 diff := ⟨_, _, _, rfl⟩

/-- One that fails is only reported. -/
theorem State.restoreEnds_fail (v : State) (base : Nat) {r : Nat} (h : r ≠ 0) : ∃ next diff,
    v.restoreEnds base r = v.restoreReported base next r diff := by
  unfold State.restoreEnds
  rw [if_neg h]
  exact ⟨_, _, rfl⟩

/-- An uncorrectable error in S0's DRAM is counted by its controller. -/
theorem State.sourceUe_frame (s : State) (a len : Nat) : Framed [.free, .regs] s (s.sourceUe a len) := by
  have f : Framed [.free, .regs] s s.freeWord.2 := State.freeWord_framed (by decide) (Framed.refl s)
  exact State.event_framed (by decide) (State.count_framed (by decide) (State.setPair_framed (by decide) f))

/-- The registers that counting an uncorrectable error in S0's DRAM writes. -/
def dramUeRegs : List Nat := [rDmcUeAddrLo .s0, rDmcUeAddrHi .s0, rDmcEccUe .s0, rDmcEvents .s0]

theorem RegsKept.sourceUe {P : Nat → Prop} {z s : State} (h : ∀ a ∈ dramUeRegs, ¬ P a) (hs : RegsKept P z s) (a len : Nat) :
    RegsKept P z (s.sourceUe a len) := by
  have hf : RegsKept P z s.freeWord.2 := hs.of_regs rfl
  exact ((hf.setPair (h _ (by decide)) (h _ (by decide)) _).count (h _ (by decide)) 1).event (h _ (by decide)) 1

theorem State.load_length (s : State) (a n : Nat) : (s.load a n).length = n := by
  unfold State.load
  split
  · rw [List.length_map, List.length_range]
  · exact memRead_length n a s.mem

/-- Below the slices a die's window holds no world slice (R341). -/
theorem sliceWindow_below (d : Die) {o : Nat} (h : o < 0x2000000) : sliceWindow (winBaseOf d + o) = none := by
  unfold sliceWindow
  cases d
  · rw [if_neg (by simp only [winBaseOf]; omega), if_neg (by simp only [winBaseOf]; omega)]
  · rw [if_neg (by simp only [winBaseOf]; omega), if_neg (by simp only [winBaseOf]; omega)]

theorem State.storeWin_below (v : State) (d : Die) {o : Nat} (data : List Byte) (h : o < 0x2000000) :
    v.storeWin d o data = { v with mem := memWrite v.mem (winBaseOf d + o) data } := by
  unfold State.storeWin State.store
  rw [sliceWindow_below d h]

theorem State.load_below (v : State) (d : Die) {o : Nat} (n : Nat) (h : o < 0x2000000) :
    v.load (winBaseOf d + o) n = memRead n (winBaseOf d + o) v.mem := by
  unfold State.load
  rw [sliceWindow_below d h]

/-- The local memory reads the same where neither DRAM nor the world slices changed. -/
theorem State.load_of_framed {ps : List Part} {s u : State} (f : Framed ps s u) (a n : Nat)
    (hp : .mem ∉ ps ∧ .slices ∉ ps := by decide) : u.load a n = s.load a n := by
  have hm : u.mem = s.mem := f .mem hp.1
  have hb : ∀ d p o, u.sliceByte d p o = s.sliceByte d p o := fun d p o => by
    unfold State.sliceByte
    rw [Framed.die f hp.2 d, hm]
  unfold State.load
  simp only [hb, hm]

/-- Where a die's recurrent state lies depends on the registers and the image alone. -/
theorem State.rstate_congr {v w : State} {d : Die} (hr : w.reg (rPaRstate d) = v.reg (rPaRstate d)) (hi : w.image = v.image) :
    w.rstate d = w.load (winBaseOf d + v.bankBase (v.bank d)) v.rstateLen := by
  have hb : w.bank d = v.bank d := by
    unfold State.bank
    rw [hr]
  unfold State.rstate State.loadWin State.bankBase State.rstateLen State.img
  rw [hb, hi]

/-- The current recurrent state of each active die is what was written there (R514), where the banks lie below the slices. -/
theorem State.writeCurrent_rstate {v : State} {rs : List Byte} (hl : rs.length = v.rstateLen)
    (hb : ∀ b, b < 2 → v.bankBase b + v.rstateLen ≤ 0x2000000) (d : Die) (hd : d ∈ v.dies) : (v.writeCurrent rs).rstate d = rs := by
  have f : Framed [.mem, .slices] v (v.writeCurrent rs) := State.writeCurrent_framed (List.Subset.refl _) (Framed.refl v)
  rw [State.rstate_congr (State.reg_of_regs (f .regs (by decide)) _) (f .image (by decide))]
  by_cases h0 : v.rstateLen = 0
  · rw [h0] at hl ⊢
    rw [List.eq_nil_of_length_eq_zero hl, List.eq_nil_of_length_eq_zero (State.load_length _ _ 0)]
  have hin : ∀ g, v.bankBase (v.bank g) + rs.length ≤ 0x2000000 := fun g => by
    rw [hl]
    exact hb _ (Nat.mod_lt _ (by decide))
  have hlt : ∀ g, v.bankBase (v.bank g) < 0x2000000 := fun g => by
    have := hin g
    omega
  rw [State.load_below _ d _ (hlt d), ← hl]
  revert hd
  unfold State.writeCurrent State.dies
  split
  · intro hd
    have e : [Die.s0, Die.s1].foldl (fun s d => s.storeWin d (s.bankBase (s.bank d)) rs) v =
        { v with mem := memWrite (memWrite v.mem (winBaseOf .s0 + v.bankBase (v.bank .s0)) rs) (winBaseOf .s1 + v.bankBase (v.bank .s1)) rs } := by
      rw [List.foldl_cons, List.foldl_cons, List.foldl_nil, State.storeWin_below v .s0 rs (hlt .s0)]
      exact State.storeWin_below _ .s1 rs (hlt .s1)
    rw [e]
    cases d with
    | s0 => exact memRead_write_below _ rs rs (by have := hin .s0; simp only [winBaseOf]; omega)
    | s1 => exact memRead_write_same _ _ rs
  · intro hd
    obtain rfl : d = .s0 := by simpa using hd
    rw [List.foldl_cons, List.foldl_nil, State.storeWin_below v .s0 rs (hlt .s0)]
    exact memRead_write_same _ _ rs

/-- RESTORE in HOLD loads every item of R498 (R514). -/
structure RestoredInHold (s v : State) (base : Nat) : Prop where
  tick : v.tick.next = fieldU (s.load base 0x80) 0x10 8 ∧ v.tick.expect = fieldU (s.load base 0x80) 0x18 8 ∧ v.tick.nextT = none
  world : v.world.epoch = fieldU (s.load base 0x80) 0x28 4
  seed : v.seed = BitVec.ofNat 64 (fieldU (s.load base 0x80) 0x20 8)
  plan : v.plan.history = (if fieldU (s.load base 0x80) 6 2 % 2 = 1 then
    some (s.load (base + 0x80) (64 + 16 * s.nSamp)) else none)
  dep : v.dep.tick = fieldU (s.load base 0x80) 0x10 8 ∧ v.dep.epoch = fieldU (s.load base 0x80) 0x28 4
  regs : v.regs = s.regs
  sys : v.sys = s.sys
  dev : v.dev = s.dev
  image : v.image = s.image
  banks : (∀ b, b < 2 → s.bankBase b + s.rstateLen ≤ 0x2000000) → ∀ d ∈ s.dies,
    v.rstate d = s.load (base + 0x80 + 64 + 16 * s.nSamp) s.rstateLen

/-- The items of R498 that are no memory, loaded from a saved state. -/
def State.restoredState (s : State) (base : Nat) : State :=
  { s with seed := BitVec.ofNat 64 (fieldU (s.load base 0x80) 0x20 8)
           tick := { s.tick with next := fieldU (s.load base 0x80) 0x10 8, expect := fieldU (s.load base 0x80) 0x18 8, nextT := none }
           world := { s.world with epoch := fieldU (s.load base 0x80) 0x28 4 }
           plan := { s.plan with history := (if fieldU (s.load base 0x80) 6 2 % 2 = 1 then
             some (s.load (base + 0x80) (64 + 16 * s.nSamp)) else none) }
           dep := { s.dep with tick := fieldU (s.load base 0x80) 0x10 8, epoch := fieldU (s.load base 0x80) 0x28 4 } }

theorem State.restoreLoad_hold {s : State} (hd : s.dev = .hold) (base : Nat) : RestoredInHold s (s.restoreLoad base) base := by
  have e : s.restoreLoad base = (s.restoredState base).writeCurrent (s.load (base + 0x80 + 64 + 16 * s.nSamp) s.rstateLen) := if_pos hd
  have f : Framed [.mem, .slices] (s.restoredState base) (s.restoreLoad base) := by
    rw [e]
    exact State.writeCurrent_framed (List.Subset.refl _) (Framed.refl _)
  have ht : (s.restoreLoad base).tick = (s.restoredState base).tick := f .tick (by decide)
  have hw : (s.restoreLoad base).world = (s.restoredState base).world := f .world (by decide)
  have hp : (s.restoreLoad base).plan = (s.restoredState base).plan := f .plan (by decide)
  have hdep := f.depTimes_eq
  exact { tick := by rw [ht]; exact ⟨rfl, rfl, rfl⟩
          world := by rw [hw]; rfl
          seed := f .seed (by decide)
          plan := by rw [hp]; rfl
          dep := hdep
          regs := f .regs (by decide)
          sys := f.sys_eq (by decide) (by decide)
          dev := f .dev (by decide)
          image := f .image (by decide)
          banks := fun hb d hm => by
            rw [e]
            exact State.writeCurrent_rstate (v := s.restoredState base) (State.load_length _ _ _) hb d hm }

/-- RESTORE in STOPPED loads the START values (R514). -/
structure RestoredInStopped (s v : State) (base : Nat) : Prop where
  next : v.pair rTickNumSetLo rTickNumSetHi = fieldU (s.load base 0x80) 0x10 8 % 2 ^ 64
  epoch : v.reg rWorldEpochSet = BitVec.ofNat 32 (fieldU (s.load base 0x80) 0x28 4)
  seed : v.pair (rReSeedSetLo .s0) (rReSeedSetHi .s0) = fieldU (s.load base 0x80) 0x20 8 % 2 ^ 64
  frame : Framed [.regs, .badRegs, .dep] s v

/-- A pair whose words are those of a value holds the value (R5). -/
theorem State.pair_words {v : State} {lo hi x : Nat} (hl : v.reg lo = loWord x) (hh : v.reg hi = hiWord x) : v.pair lo hi = x % 2 ^ 64 := by
  unfold State.pair
  rw [hl, hh]
  simp only [loWord, hiWord, BitVec.toNat_ofNat]
  omega

theorem State.restoreLoad_stopped {s : State} (hd : s.dev = .stopped) (base : Nat) : RestoredInStopped s (s.restoreLoad base) base := by
  have e : s.restoreLoad base = (((((s.rewrite rTickNumSetLo (loWord (fieldU (s.load base 0x80) 0x10 8))).rewrite rTickNumSetHi
      (hiWord (fieldU (s.load base 0x80) 0x10 8))).rewrite rWorldEpochSet (BitVec.ofNat 32 (fieldU (s.load base 0x80) 0x28 4))).rewrite
      (rReSeedSetLo .s0) (loWord (fieldU (s.load base 0x80) 0x20 8))).rewrite (rReSeedSetHi .s0)
      (hiWord (fieldU (s.load base 0x80) 0x20 8))) := if_neg (by rw [hd]; decide)
  rw [e]
  exact { next := State.pair_words
            (by rw [State.reg_rewrite_ne _ _ (by decide), State.reg_rewrite_ne _ _ (by decide), State.reg_rewrite_ne _ _ (by decide),
              State.reg_rewrite_ne _ _ (by decide), State.reg_rewrite])
            (by rw [State.reg_rewrite_ne _ _ (by decide), State.reg_rewrite_ne _ _ (by decide), State.reg_rewrite_ne _ _ (by decide),
              State.reg_rewrite])
          epoch := by rw [State.reg_rewrite_ne _ _ (by decide), State.reg_rewrite_ne _ _ (by decide), State.reg_rewrite]
          seed := State.pair_words (by rw [State.reg_rewrite_ne _ _ (by decide), State.reg_rewrite]) (by rw [State.reg_rewrite])
          frame := State.rewrite_framed (by decide) (State.rewrite_framed (by decide) (State.rewrite_framed (by decide)
            (State.rewrite_framed (by decide) (State.rewrite_framed (by decide) (Framed.refl s))))) }

/-- RESTORE's result is one of the codes of R513. -/
theorem State.restoreResult_lt (s : State) (ue : Bool) : s.restoreResult ue < 16 := by
  have h : s.restoreCheck s.sys.saveBase < 16 := by
    unfold State.restoreCheck
    dsimp only
    split_ifs <;> decide
  unfold State.restoreResult
  split
  · decide
  · exact h

/-- The registers of START that RESTORE reads back. -/
theorem startValues_apart : rTallySaveStatus ∉ startValues ∧ (∀ a ∈ logRegs, a ∉ startValues) ∧ rTallySaveLen ∉ startValues := by decide

/-- SAVE and RESTORE: RESTORE samples its base. -/
theorem exec_restore {s : State} {t : Nat} (hq : s.headIs (.cmd 6)) (hw : s.sys.waitSave = false) (hd : s.dev = .hold ∨ s.dev = .stopped)
    (hs : s.soundAt saveRegs = true) : ∃ n, exec (.restore t) s = .next (({ s with now := n } : State).sampleBase true 0) := by
  obtain ⟨n, hn⟩ := s.advance_eq t
  refine ⟨n, ?_⟩
  show (.next (s.when (s.sys.queue.head? == some (.cmd 6) && !s.sys.waitSave) fun s => _) : Out) = _
  rw [show (s.sys.queue.head? == some (.cmd 6) && !s.sys.waitSave) = true by simp [hq, hw], State.when_true, hn]
  have hu : ({ s with now := n } : State).when (({ s with now := n } : State).dev == .hold || ({ s with now := n } : State).dev == .stopped)
      (fun s => s.checkUses saveRegs) = { s with now := n } := by
    rw [show (({ s with now := n } : State).dev == .hold || ({ s with now := n } : State).dev == .stopped) = true by simpa using hd,
      State.when_true]
    exact State.checkUses_sound _ _ hs
  rw [hu]
  exact congrArg _ (if_pos hd)

/-- Settles O22: RESTORE and RESTORE_DONE by device state and by the result of the checks. -/
theorem restoreLoadsOnlyACheckedState : Obligations.RestoreLoadsOnlyACheckedState := by
  unfold Obligations.RestoreLoadsOnlyACheckedState
  intro s t hq hs
  obtain ⟨hst, hlog, hlen⟩ := startValues_apart
  refine ⟨fun hw hd => ?_, fun ue hw hf => ?_, fun hw hf => ⟨fun hd hc => ?_, fun hd hc => ?_, fun ue r hr h0 => ?_⟩⟩
  · obtain ⟨n, e⟩ := exec_restore (t := t) hq hw hd hs
    refine ⟨_, e, rfl, ?_, ?_, rfl, rfl, rfl⟩
    · unfold State.sampleBase
      rw [State.reg_setReg, getLsbD_setBit _ _ (by decide), if_neg (by decide), getLsbD_setBit _ _ (by decide), if_pos rfl]
    · unfold State.sampleBase
      rw [State.reg_setReg, getLsbD_setBit _ _ (by decide), if_pos rfl]
  · show (.next (s.when (s.sys.queue.head? == some (.cmd 6) && s.sys.waitSave) fun s => s.afterFront s.restoreSpans fun s => _) : Out) = _
    rw [show (s.sys.queue.head? == some (.cmd 6) && s.sys.waitSave) = true by simp [hq, hw], State.when_true]
    exact congrArg _ (if_neg hf)
  · have hr : s.restoreResult false = 0 := by simp [State.restoreResult, hc]
    rw [exec_restoreDone hq hw hf, hr]
    obtain ⟨len, next, diff, e⟩ := s.restoreEnds_pass s.sys.saveBase
    refine ⟨_, rfl, ?_⟩
    rw [show s.when ((0 : Nat) == 5) (fun s => s.sourceUe s.sys.saveBase 0x80) = s from rfl, e]
    have hl := State.restoreLoad_hold hd s.sys.saveBase
    generalize s.restoreLoad s.sys.saveBase = v at hl ⊢
    have fr := (v.setReg rTallySaveLen len).restoreReported_frame s.sys.saveBase next 0 diff
    have hent := State.restoreReported_ends (s := s) (v := v.setReg rTallySaveLen len) hl.sys s.sys.saveBase next 0 diff
    have hregs : RegsKept (· ∈ startValues) s ((v.setReg rTallySaveLen len).restoreReported s.sys.saveBase next 0 diff) :=
      State.restoreReported_regs hst hlog ((RegsKept.of_regs (RegsKept.refl s) hl.regs).setReg hlen len) _ _ _ _
    have hstat := (v.setReg rTallySaveLen len).restoreReported_status s.sys.saveBase next diff (r := 0) (by decide)
    have hbank : RegsKept (fun a => ∃ d, a = rPaRstate d) s ((v.setReg rTallySaveLen len).restoreReported s.sys.saveBase next 0 diff) :=
      State.restoreReported_regs (by rintro ⟨_ | _, h⟩ <;> revert h <;> decide) (by rintro a ha ⟨_ | _, rfl⟩ <;> revert ha <;> decide)
        ((RegsKept.of_regs (RegsKept.refl s) hl.regs).setReg (by rintro ⟨_ | _, h⟩ <;> revert h <;> decide) len) _ _ _ _
    generalize (v.setReg rTallySaveLen len).restoreReported s.sys.saveBase next 0 diff = u at fr hent hregs hstat hbank ⊢
    have ht : u.tick = v.tick := fr .tick (by decide)
    have hwd : u.world = v.world := fr .world (by decide)
    have hp : u.plan = v.plan := fr .plan (by decide)
    have hdep : u.dep = v.dep := fr.dep_eq
    have hmem : u.mem = v.mem := fr .mem (by decide)
    refine ⟨hent, by rw [ht]; exact hl.tick.1, by rw [ht]; exact hl.tick.2.1, by rw [ht]; exact hl.tick.2.2,
      by rw [hwd]; exact hl.world, (fr .seed (by decide)).trans hl.seed, by rw [hp]; exact hl.plan,
      by rw [hdep, ht]; exact hl.dep.1.trans hl.tick.1.symm, by rw [hdep, hwd]; exact hl.dep.2.trans hl.world.symm, hstat,
      (fr .dev (by decide)).trans (hl.dev.trans hd), hregs, fun hb d hm => ?_⟩
    rw [State.rstate_congr ((hbank _ ⟨d, rfl⟩).trans (State.reg_of_regs hl.regs _).symm) (fr .image (by decide)), State.load_of_framed fr,
      ← hl.banks hb d hm]
    rfl
  · have hr : s.restoreResult false = 0 := by simp [State.restoreResult, hc]
    rw [exec_restoreDone hq hw hf, hr]
    obtain ⟨len, next, diff, e⟩ := s.restoreEnds_pass s.sys.saveBase
    refine ⟨_, rfl, ?_⟩
    rw [show s.when ((0 : Nat) == 5) (fun s => s.sourceUe s.sys.saveBase 0x80) = s from rfl, e]
    obtain ⟨hnext, hepoch, hseed, hfr⟩ := State.restoreLoad_stopped hd s.sys.saveBase
    generalize s.restoreLoad s.sys.saveBase = v at hnext hepoch hseed hfr ⊢
    have hsys : v.sys = s.sys := hfr.sys_eq (by decide) (by decide)
    have fr := (v.setReg rTallySaveLen len).restoreReported_frame s.sys.saveBase next 0 diff
    have hent := State.restoreReported_ends (s := s) (v := v.setReg rTallySaveLen len) hsys s.sys.saveBase next 0 diff
    have hregs : RegsKept (· ∈ startValues) v ((v.setReg rTallySaveLen len).restoreReported s.sys.saveBase next 0 diff) :=
      State.restoreReported_regs hst hlog ((RegsKept.refl v).setReg hlen len) _ _ _ _
    have hstat := (v.setReg rTallySaveLen len).restoreReported_status s.sys.saveBase next diff (r := 0) (by decide)
    generalize (v.setReg rTallySaveLen len).restoreReported s.sys.saveBase next 0 diff = u at fr hent hregs hstat ⊢
    have pair : ∀ lo ∈ startValues, ∀ hi ∈ startValues, u.pair lo hi = v.pair lo hi := fun lo hlo hi hhi => by
      unfold State.pair
      rw [hregs lo hlo, hregs hi hhi]
    exact ⟨hent, (fr .tick (by decide)).trans (hfr .tick (by decide)), (fr .world (by decide)).trans (hfr .world (by decide)),
      (fr .seed (by decide)).trans (hfr .seed (by decide)), (fr .mem (by decide)).trans (hfr .mem (by decide)),
      (fr .plan (by decide)).trans (hfr .plan (by decide)), (fr .dev (by decide)).trans ((hfr .dev (by decide)).trans hd),
      (pair _ (by decide) _ (by decide)).trans hnext, (hregs _ (by decide)).trans hepoch,
      (pair _ (by decide) _ (by decide)).trans hseed, hstat⟩
  · have hrr : s.restoreResult ue = r := hr.symm
    have hlt := s.restoreResult_lt ue
    rw [exec_restoreDone hq hw hf]
    rw [hrr] at hlt ⊢
    have fv : Framed [.free, .regs] s (s.when (r == 5) fun s => s.sourceUe s.sys.saveBase 0x80) :=
      State.when_framed (Framed.refl s) fun t ht => Framed.trans ht (t.sourceUe_frame _ _)
    have kv : RegsKept (· ∈ startValues) s (s.when (r == 5) fun s => s.sourceUe s.sys.saveBase 0x80) :=
      (RegsKept.refl s).when (RegsKept.sourceUe (by decide) (RegsKept.refl s) _ _)
    generalize s.when (r == 5) (fun s => s.sourceUe s.sys.saveBase 0x80) = v at fv kv ⊢
    obtain ⟨next, diff, e⟩ := v.restoreEnds_fail s.sys.saveBase h0
    refine ⟨_, rfl, ?_⟩
    rw [e]
    have fr := v.restoreReported_frame s.sys.saveBase next r diff
    have hent := State.restoreReported_ends (s := s) (v := v) (fv.sys_eq (by decide) (by decide)) s.sys.saveBase next r diff
    have hregs := State.restoreReported_regs hst hlog kv s.sys.saveBase next r diff
    have hstat := v.restoreReported_status s.sys.saveBase next diff hlt
    generalize v.restoreReported s.sys.saveBase next r diff = u at fr hent hregs hstat ⊢
    exact ⟨hent, (fr .tick (by decide)).trans (fv .tick (by decide)), (fr .world (by decide)).trans (fv .world (by decide)),
      (fr .seed (by decide)).trans (fv .seed (by decide)), (fr .mem (by decide)).trans (fv .mem (by decide)),
      (fr .plan (by decide)).trans (fv .plan (by decide)), fr.dep_eq.trans fv.dep_eq, (fr .dev (by decide)).trans (fv .dev (by decide)),
      hregs, hstat⟩

end Sys2Proof.Machine

namespace Sys2Proof
open Sys2Proof.Machine

/-- A die is as it was where neither its units nor its world slices are in the frame. -/
theorem Framed.die_eq {ps : List Part} {s t : State} (h : Framed ps s t) (d : Die) (hp : .dies ∉ ps ∧ .slices ∉ ps := by decide) :
    t.die d = s.die d := by
  have whole : ∀ {x y : DieState}, ({ x with sliceOv := [] } : DieState) = { y with sliceOv := [] } → x.sliceOv = y.sliceOv → x = y := by
    intro x y e es
    calc x = { ({ x with sliceOv := [] } : DieState) with sliceOv := x.sliceOv } := rfl
      _ = { ({ y with sliceOv := [] } : DieState) with sliceOv := y.sliceOv } := by rw [e, es]
      _ = y := rfl
  have e := show ({ t.d0 with sliceOv := [] } : DieState) = { s.d0 with sliceOv := [] } ∧
    ({ t.d1 with sliceOv := [] } : DieState) = { s.d1 with sliceOv := [] } from h .dies hp.1
  have es := show t.d0.sliceOv = s.d0.sliceOv ∧ t.d1.sliceOv = s.d1.sliceOv from h .slices hp.2
  cases d with
  | s0 => exact whole e.1 es.1
  | s1 => exact whole e.2 es.2

/-- The log is as it was where neither its staged nor its written entries are in the frame. -/
theorem Framed.tally_eq {ps : List Part} {s t : State} (h : Framed ps s t) (hp : .tally ∉ ps ∧ .written ∉ ps := by decide) :
    t.tally = s.tally := by
  have e := show ({ t.tally with written := [] } : Tally) = { s.tally with written := [] } from h .tally hp.1
  have ew := show t.tally.written = s.tally.written from h .written hp.2
  calc t.tally = { ({ t.tally with written := [] } : Tally) with written := t.tally.written } := rfl
    _ = { ({ s.tally with written := [] } : Tally) with written := s.tally.written } := by rw [e, ew]
    _ = s.tally := rfl

end Sys2Proof

namespace Sys2Proof.Machine
open Sys2Proof

/-! ### The resets (R530 to R532) -/

/-- Registers of which some are kept as they were, the others at their reset values. -/
theorem State.reg_of_filter {s u : State} {p : Nat → Bool} (h : u.regs = s.regs.filter fun r => p r.1) (o : Nat) :
    u.reg o = if p o then s.reg o else regReset o := by
  unfold State.reg
  rw [h, List.find?_filter]
  cases hp : p o with
  | true =>
    have e : (fun r : Nat × Word => decide (p r.1 = true ∧ (r.1 == o) = true)) = fun r => r.1 == o := by
      funext r
      by_cases hr : r.1 = o
      · simp [hr, hp]
      · simp [hr]
    rw [e]
    rfl
  | false =>
    have e : s.regs.find? (fun r : Nat × Word => decide (p r.1 = true ∧ (r.1 == o) = true)) = none := by
      refine List.find?_eq_none.mpr fun r _ => ?_
      by_cases hr : r.1 = o
      · simp [hr, hp]
      · simp [hr]
    rw [e]
    rfl

/-- OTP and flash work cut short changes the trust unit and what of it is open. -/
theorem State.cutSec_frame (s : State) : Framed [.free, .sec] s s.cutSec := State.cutSec_framed (List.Subset.refl _) (Framed.refl s)

/-- What a device reset leaves, before the flags of what it cut short are cleared. -/
structure DeviceReset (s u : State) : Prop where
  dev : u.dev = .boot
  safe : u.dep.safe = true
  mem : u.mem = s.mem
  tally : u.tally.written = s.tally.written ∧ u.tally.staged = s.tally.staged
  image : u.image = none ∧ u.loading = none
  work : u.tick = Tick.reset ∧ u.world = World.reset ∧ u.sh = [] ∧ u.latches = []
  sys : u.sys.queue = [] ∧ u.sys.inReset = true
  units : u.chans = State.reset.chans ∧ u.kl = Klink.reset ∧ u.bist.run = none ∧ u.ticked = s.ticked
  dies : u.d0.power = 0 ∧ u.d1.power = 0 ∧ u.d0.ces = List.replicate 68 CeUnit.idle ∧ u.d1.ces = List.replicate 68 CeUnit.idle ∧
    u.d0.sliceOv = s.d0.sliceOv

theorem State.resetDevice_reset (v : State) : DeviceReset v v.resetDevice :=
  ⟨rfl, rfl, rfl, ⟨rfl, rfl⟩, ⟨rfl, rfl⟩, ⟨rfl, rfl, rfl, rfl⟩, ⟨rfl, rfl⟩, ⟨rfl, rfl, rfl, rfl⟩, ⟨rfl, rfl, rfl, rfl, rfl⟩⟩

/-- A device reset is one of the state with its OTP and flash work cut short, its registers apart. -/
theorem DeviceReset.reframed {s v u w : State} (h : DeviceReset v u) (fv : Framed [.free, .sec] s v) (fw : Framed [.regs] u w) :
    DeviceReset s w := by
  have hd : w.dep = u.dep := fw.dep_eq
  have ht : w.tally = u.tally := fw.tally_eq
  have hvt : v.tally = s.tally := fv.tally_eq
  have hy : w.sys = u.sys := fw.sys_eq (by decide) (by decide)
  have h0 : w.d0 = u.d0 := fw.die_eq .s0
  have h1 : w.d1 = u.d1 := fw.die_eq .s1
  have hb : w.bist = u.bist := fw .bist (by decide)
  exact { dev := (fw .dev (by decide)).trans h.dev
          safe := by rw [hd]; exact h.safe
          mem := (fw .mem (by decide)).trans (h.mem.trans (fv .mem (by decide)))
          tally := by rw [ht, ← hvt]; exact h.tally
          image := ⟨(fw .image (by decide)).trans h.image.1, (fw .loading (by decide)).trans h.image.2⟩
          work := ⟨(fw .tick (by decide)).trans h.work.1, (fw .world (by decide)).trans h.work.2.1,
            (fw .sh (by decide)).trans h.work.2.2.1, (fw .latches (by decide)).trans h.work.2.2.2⟩
          sys := by rw [hy]; exact h.sys
          units := ⟨(fw .chans (by decide)).trans h.units.1, (fw .kl (by decide)).trans h.units.2.1, by rw [hb]; exact h.units.2.2.1,
            (fw .ticked (by decide)).trans (h.units.2.2.2.trans (fv .ticked (by decide)))⟩
          dies := by
            have hs : v.d0.sliceOv = s.d0.sliceOv := (fv .slices (by decide)).1
            rw [h0, h1, ← hs]
            exact h.dies }

/-- The registers that a device reset keeps, but for the flags of what it cut short. -/
theorem State.deviceReset_regs (s : State) (o : Nat) :
    (keptByReset o = false → o ≠ rGlbProfile → s.deviceReset.reg o = regReset o) ∧
    (keptByReset o = true → o ≠ rTallySaveStatus → o ≠ rTallyRecovery → o ≠ rDmcStatus .s0 → o ≠ rDmcStatus .s1 →
      s.deviceReset.reg o = s.reg o) := by
  have hs : s.cutSec.reg o = s.reg o := State.reg_of_regs (s.cutSec_frame .regs (by decide)) o
  have hf := State.reg_of_filter (s := s.cutSec) (u := s.cutSec.resetDevice) (p := keptByReset) rfl o
  have apart : o ≠ rGlbProfile → o ≠ rTallySaveStatus → o ≠ rTallyRecovery → o ≠ rDmcStatus .s0 → o ≠ rDmcStatus .s1 →
      s.deviceReset.reg o = s.cutSec.resetDevice.reg o := by
    intro hp h1 h2 h3 h4
    unfold State.deviceReset State.resetProfile
    extract_lets v w
    have hw : ((w.setField (rDmcStatus .s0) 1 1 0).setField (rDmcStatus .s1) 1 1 0).reg o = v.reg o := by
      rw [State.reg_setField_ne _ _ _ _ h4, State.reg_setField_ne _ _ _ _ h3, State.reg_setField_ne _ _ _ _ h2,
        State.reg_setField_ne _ _ _ _ h1]
    generalize (w.setField (rDmcStatus .s0) 1 1 0).setField (rDmcStatus .s1) 1 1 0 = x at hw ⊢
    rw [← hw]
    unfold State.when
    split
    · exact State.reg_setReg_ne _ _ hp
    · rfl
  have flags : ∀ f ∈ [rTallySaveStatus, rTallyRecovery, rDmcStatus .s0, rDmcStatus .s1], keptByReset f = true := by decide
  constructor
  · intro hk hp
    have ne : ∀ f ∈ [rTallySaveStatus, rTallyRecovery, rDmcStatus .s0, rDmcStatus .s1], o ≠ f := fun f hf e => by
      rw [e, flags f hf] at hk
      cases hk
    rw [apart hp (ne _ (by decide)) (ne _ (by decide)) (ne _ (by decide)) (ne _ (by decide)), hf, hk]
    rfl
  · intro hk h1 h2 h3 h4
    have hp : o ≠ rGlbProfile := by
      rintro rfl
      revert hk
      decide
    rw [apart hp h1 h2 h3 h4, hf, hk, if_pos rfl, hs]

theorem deviceResetReturnsToBoot : Statements.DeviceResetReturnsToBoot := by
  intro s
  have fw : Framed [.regs] s.cutSec.resetDevice s.deviceReset := State.resetProfile_framed (by decide)
    (State.setField_framed (by decide) (State.setField_framed (by decide) (State.setField_framed (by decide)
      (State.setField_framed (by decide) (Framed.refl _)))))
  obtain ⟨hdev, hsafe, hmem, ⟨hw, hst⟩, ⟨hi, hl⟩, ⟨htick, hworld, hsh, hlat⟩, ⟨hq, hr⟩, ⟨hch, hkl, hb, hti⟩, ⟨h0, h1, hc0, hc1, hov⟩⟩ :=
    (s.cutSec.resetDevice_reset).reframed s.cutSec_frame fw
  exact ⟨_, rfl, hdev, hsafe, hmem, hw, hst, hi, hl, htick, hworld, hsh, hlat, hq, hr, hch, hkl, hb, hti, h0, h1, hc0, hc1, hov,
    fun o => (s.deviceReset_regs o).1, fun o => (s.deviceReset_regs o).2⟩

/-- The state that a power-on reset leaves, GLB.PROFILE apart. -/
theorem powerOnResetReturnsToBoot : Statements.PowerOnResetReturnsToBoot := by
  intro s
  refine ⟨⟨_, rfl, ?_⟩, rfl⟩
  have fw : Framed [.regs] s.cutSec.resetPower s.powerOn := State.resetProfile_framed (List.Subset.refl _) (Framed.refl _)
  have ht : s.powerOn.tally = s.cutSec.tally.restart := fw.tally_eq
  have hw : s.cutSec.tally = s.tally := s.cutSec_frame.tally_eq
  refine ⟨fw .dev (by decide), fw.dep_eq, fw .tick (by decide), fw .image (by decide), by rw [ht, hw]; rfl, by rw [ht]; rfl,
    fw.sys_eq (by decide) (by decide), fw .sh (by decide), fw .ticked (by decide), fw.die_eq .s0, fw.die_eq .s1, fun o ho => ?_⟩
  unfold State.powerOn State.resetProfile State.when
  split
  · exact State.reg_setReg_ne _ _ ho
  · rfl

/-- Settles O24: the device reset, the power-on reset and the fall of PERST_N. -/
theorem resetsReturnToBoot : Obligations.ResetsReturnToBoot := ⟨deviceResetReturnsToBoot, powerOnResetReturnsToBoot⟩

end Sys2Proof.Machine

namespace Sys2Proof.Machine
open Sys2Proof

/-! ### The release of reset (R533 to R542) -/

theorem State.tallyPush_ready (s : State) (sev code source : Nat) (data : List Byte) :
    (s.tallyPush sev code source data).tally.ready = s.tally.ready := by
  unfold State.tallyPush
  extract_lets t e s1 s2 high s3
  have h2 : s2.tally = s1.tally := by
    show State.tally (if sev = 1 then _ else if sev = 2 then _ else _) = _
    split_ifs <;> rfl
  have h3 : s3.tally = s2.tally := by
    show State.tally (if high = true then _ else _) = _
    split_ifs <;> rfl
  have h1 : s1.tally.ready = s.tally.ready := rfl
  split_ifs
  · rw [State.irq_tally, h3, h2, h1]
  · rw [h3, h2, h1]

/-- Staging an entry leaves the log ready. -/
theorem State.stage_ready (s : State) (sev code source : Nat) (data : List Byte) :
    (s.stage sev code source data).tally.ready = s.tally.ready := by
  have hr : s.tallyReport.tally.ready = s.tally.ready := by
    unfold State.tallyReport
    split
    split_ifs
    · rfl
    · exact State.tallyPush_ready _ _ _ _ _
  have hl : ∀ v : State, v.tallyLost.tally.ready = v.tally.ready := fun _ => rfl
  have hs : ∀ v : State, (v.spendToken sev).tally.ready = v.tally.ready := fun v => by
    unfold State.spendToken
    split_ifs <;> rfl
  have ho : ∀ v : State, v.sortTally.tally.ready = v.tally.ready := fun v => by
    unfold State.sortTally
    split_ifs <;> rfl
  unfold State.stage
  extract_lets v
  split_ifs
  · exact hl s
  · exact (hl _).trans hr
  · rw [ho, State.tallyPush_ready, hs, hr]

/-- What the release of reset makes of a state: the pins sampled, the log ready, the dies powering up. -/
structure ResetReleased (s u : State) (haltLow : Bool) : Prop where
  sys : u.sys = { s.sys with inReset := false, perstLow := false, haltLow := haltLow }
  ready : u.tally.ready = true
  power : u.d0.power = 1 ∧ u.d1.power = if s.hasS1 then 1 else 0
  dev : u.dev = s.dev
  dep : u.dep = s.dep
  mem : u.mem = s.mem

theorem State.release_released (s : State) (haltLow : Bool) : ResetReleased s (s.release_ haltLow) haltLow := by
  unfold State.release_
  extract_lets t y v1 x0 v2 x1 v3
  have h : ResetReleased s v3 haltLow := ⟨rfl, rfl, ⟨rfl, rfl⟩, rfl, rfl, rfl⟩
  clear_value v3
  have f : Framed [.regs] v3 ((v3.trainDram .s0).when v3.hasS1 fun s => s.trainDram .s1) :=
    State.when_framed (State.trainDram_framed (List.Subset.refl _) (Framed.refl v3)) fun t ht =>
      State.trainDram_framed (List.Subset.refl _) ht
  exact { sys := (f.sys_eq (by decide) (by decide)).trans h.sys
          ready := by rw [f.tally_eq]; exact h.ready
          power := by
            have h0 := f.die_eq .s0
            have h1 := f.die_eq .s1
            exact ⟨(congrArg DieState.power h0).trans h.power.1, (congrArg DieState.power h1).trans h.power.2⟩
          dev := (f .dev (by decide)).trans h.dev
          dep := f.dep_eq.trans h.dep
          mem := (f .mem (by decide)).trans h.mem }

/-- A field of a register apart from the one that is set. -/
theorem State.bits_setField_apart (s : State) (o : Nat) {hi lo v h l : Nat} (hh : h < 32) (ha : h < lo ∨ hi < l) :
    bits ((s.setField o hi lo v).reg o) h l = bits (s.reg o) h l := by
  rw [State.reg_setField]
  exact bits_setBits_apart _ hh ha

theorem State.bits_setField_same (s : State) (o : Nat) {hi lo v : Nat} (hh : hi < 32) (hv : v < 2 ^ (hi + 1 - lo)) :
    bits ((s.setField o hi lo v).reg o) hi lo = v := by
  rw [State.reg_setField]
  exact bits_setBits_same _ hh hv

theorem State.getLsbD_setField (s : State) (o : Nat) {hi lo v m : Nat} (hm : m < 32) :
    ((s.setField o hi lo v).reg o).getLsbD m = if lo ≤ m ∧ m < hi + 1 then v.testBit (m - lo) else (s.reg o).getLsbD m := by
  rw [State.reg_setField]
  exact getLsbD_setBits _ hm

/-- Registers written in turn keep every other one. -/
theorem RegsKept.setAll {P : Nat → Prop} {z s : State} {o : Nat → Nat} (f : Nat → Word) {l : List Nat} (ho : ∀ n ∈ l, ¬ P (o n))
    (hs : RegsKept P z s) : RegsKept P z (l.foldl (fun s n => s.setReg (o n) (f n)) s) := by
  induction l generalizing s with
  | nil => exact hs
  | cons n l ih => exact ih (fun m hm => ho m (List.mem_cons_of_mem n hm)) (hs.setReg (ho n List.mem_cons_self) (f n))

/-- The firmware's version, number and digest shown (R536). -/
def State.showFirmware (s : State) (bs : List Byte) (f : Nat → Word) : State :=
  (List.range 8).foldl (fun s n => s.setReg (rSecFwDigest n) (f n))
    ((s.setReg rSecFwVersion (BitVec.ofNat 32 (fieldU bs 0x10 4))).setReg rSecFwSvn (BitVec.ofNat 32 (fieldU bs 6 2)))

theorem RegsKept.showFirmware (s : State) (bs : List Byte) (f : Nat → Word) : RegsKept (· = rSecBoot) s (s.showFirmware bs f) :=
  RegsKept.setAll _ (by decide) (((RegsKept.refl s).setReg (by decide) _).setReg (by decide) _)

/-- ERROR, WAIT_PUSH and PUSHED of SEC.BOOT leave BOOTSEL. -/
theorem State.bootFields_bootsel (s : State) (push : Bool) :
    bits ((((s.setBootError 0).setWaitPush false).setField rSecBoot 4 4 (bnat push)).reg rSecBoot) 1 0 = bits (s.reg rSecBoot) 1 0 :=
  (State.bits_setField_apart _ _ (by decide) (by decide)).trans ((State.bits_setField_apart _ _ (by decide) (by decide)).trans
    (State.bits_setField_apart _ _ (by decide) (by decide)))

/-- BOOTSEL of SEC.BOOT is as it was. -/
def BootselKept (z s : State) : Prop := bits (s.reg rSecBoot) 1 0 = bits (z.reg rSecBoot) 1 0

theorem BootselKept.withBist {z s : State} (h : BootselKept z s) (b : Bist) : BootselKept z { s with bist := b } := h

/-- Verified firmware leaves BOOTSEL as sampled. -/
theorem State.runFirmware_bootsel (s : State) (bs : List Byte) (push : Bool) : BootselKept s (s.runFirmware bs push) := by
  unfold State.runFirmware
  extract_lets digest s1 s2 s3 b
  clear_value digest
  have h1 : RegsKept (· = rSecBoot) s s1 := ((RegsKept.refl s).setReg (by decide) _).setReg (by decide) _
  clear_value s1
  have h2 : RegsKept (· = rSecBoot) s s2 := h1.setAll _ (by decide)
  clear_value s2
  have h3 : bits (s3.reg rSecBoot) 1 0 = bits (s2.reg rSecBoot) 1 0 := s2.bootFields_bootsel push
  have hk : BootselKept s s3 := h3.trans (by rw [h2 rSecBoot rfl])
  clear_value s3
  exact hk.withBist b

/-- SEC.BOOT as the firmware source is selected (R533, R541, R542). -/
structure BootSelected (u : State) (bootsel flashError : Nat) (testMode : Bool) : Prop where
  sel : bits (u.reg rSecBoot) 1 0 = bootsel % 4
  test : testMode = true → bits (u.reg rSecBoot) 15 8 = 0xC ∧ (u.reg rSecBoot).getLsbD 3 = false
  push : testMode = false → bootsel % 4 ≠ 0 → bits (u.reg rSecBoot) 15 8 = 0 ∧ (u.reg rSecBoot).getLsbD 3 = true
  flash : testMode = false → bootsel % 4 = 0 → flashError = 1 ∨ flashError = 2 →
    bits (u.reg rSecBoot) 15 8 = flashError ∧ (u.reg rSecBoot).getLsbD 3 = true

/-- The fields of SEC.BOOT as the pins are sampled. -/
theorem bits_secBoot (b : Nat) {c : Nat} (hc : c < 2) : bits (packFields [(0, b % 4), (2, c)]) 1 0 = b % 4 ∧
    bits (packFields [(0, b % 4), (2, c)]) 15 8 = 0 ∧ (packFields [(0, b % 4), (2, c)]).getLsbD 3 = false := by
  have h3 : ∀ n, n < 8 → n.testBit 3 = false := by decide
  refine ⟨?_, ?_, ?_⟩
  · simp only [bits, packFields, List.foldl_cons, List.foldl_nil, BitVec.toNat_ofNat]
    omega
  · simp only [bits, packFields, List.foldl_cons, List.foldl_nil, BitVec.toNat_ofNat]
    omega
  · rw [packFields, BitVec.getLsbD_ofNat]
    simp only [List.foldl_cons, List.foldl_nil]
    rw [h3 _ (by omega)]
    rfl

theorem State.bootFrom_selected (s : State) (bootsel flashError : Nat) (testMode : Bool) (container : List Byte) :
    BootSelected (s.bootFrom bootsel testMode flashError container) bootsel flashError testMode := by
  unfold State.bootFrom
  extract_lets v
  obtain ⟨hsel, herr, hpush⟩ := bits_secBoot bootsel (c := bnat (decide (2 ≤ bootsel % 4))) (by cases decide (2 ≤ bootsel % 4) <;> decide)
  have hv : v.reg rSecBoot = packFields [(0, bootsel % 4), (2, bnat (decide (2 ≤ bootsel % 4)))] := State.reg_setReg _ _ _
  rw [← hv] at hsel herr hpush
  clear_value v
  have errSel : ∀ (w : State) (c : Nat), bits ((w.setBootError c).reg rSecBoot) 1 0 = bits (w.reg rSecBoot) 1 0 := fun w c =>
    State.bits_setField_apart _ _ (by decide) (by decide)
  have pushSel : ∀ (w : State) (p : Bool), bits ((w.setWaitPush p).reg rSecBoot) 1 0 = bits (w.reg rSecBoot) 1 0 := fun w c =>
    State.bits_setField_apart _ _ (by decide) (by decide)
  have pushErr : ∀ (w : State) (p : Bool), bits ((w.setWaitPush p).reg rSecBoot) 15 8 = bits (w.reg rSecBoot) 15 8 := fun w c =>
    State.bits_setField_apart _ _ (by decide) (by decide)
  have pushSet : ∀ w : State, ((w.setWaitPush true).reg rSecBoot).getLsbD 3 = true := fun w => by
    unfold State.setWaitPush
    rw [State.getLsbD_setField _ _ (by decide)]
    rfl
  have errOf : ∀ (w : State) {c : Nat}, c < 256 → bits ((w.setBootError c).reg rSecBoot) 15 8 = c := fun w c hc =>
    State.bits_setField_same _ _ (by decide) hc
  split_ifs with htest hboot
  · exact { sel := (errSel _ _).trans hsel
            test := fun _ => ⟨errOf _ (by decide), by
              unfold State.setBootError
              rw [State.getLsbD_setField _ _ (by decide), if_neg (by decide)]
              exact hpush⟩
            push := fun h => by rw [htest] at h; cases h
            flash := fun h => by rw [htest] at h; cases h }
  · exact { sel := (pushSel _ _).trans hsel
            test := fun h => absurd h htest
            push := fun _ _ => ⟨(pushErr _ _).trans herr, pushSet _⟩
            flash := fun _ h => absurd h hboot }
  · unfold State.flashBoot
    extract_lets slot len code
    split_ifs with hfe hcode
    · exact { sel := (pushSel _ _).trans ((errSel _ _).trans hsel)
              test := fun h => absurd h htest
              push := fun _ h => absurd h hboot
              flash := fun _ _ _ => ⟨(pushErr _ _).trans (errOf _ (by rcases hfe with h | h <;> rw [h] <;> decide)), pushSet _⟩ }
    · exact { sel := (State.runFirmware_bootsel _ _ _).trans hsel
              test := fun h => absurd h htest
              push := fun _ h => absurd h hboot
              flash := fun _ _ h => absurd h hfe }
    · exact { sel := (pushSel _ _).trans ((errSel _ _).trans hsel)
              test := fun h => absurd h htest
              push := fun _ h => absurd h hboot
              flash := fun _ _ h => absurd h hfe }

theorem resetReleaseBeginsStartUp : Statements.ResetReleaseBeginsStartUp := by
  intro s bootsel flashError testMode haltLow container
  refine ⟨fun h => congrArg Host.Outcome.next (if_neg (by rcases h with h | h <;> simp [h])), fun hr hp => ?_⟩
  have hc : (s.sys.inReset && !s.sys.porHeld) = true := by simp [hr, hp]
  have e : exec (.resetRelease bootsel testMode haltLow flashError container) s = .next
      (((s.release_ haltLow).stage note 1 0 (leBytes 8 (s.release_ haltLow).tally.head)).bootFrom bootsel testMode flashError container) :=
    congrArg Host.Outcome.next (if_pos hc)
  refine ⟨_, e, ?_⟩
  have h := s.release_released haltLow
  generalize s.release_ haltLow = v at h ⊢
  have fs : Framed [.regs, .host, .tally, .out] v (v.stage note 1 0 (leBytes 8 v.tally.head)) :=
    State.stage_framed (List.Subset.refl _) (Framed.refl v)
  have hready : (v.stage note 1 0 (leBytes 8 v.tally.head)).tally.ready = true := (State.stage_ready _ _ _ _ _).trans h.ready
  generalize v.stage note 1 0 (leBytes 8 v.tally.head) = w at fs hready ⊢
  have fb : Framed [.regs, .bist] w (w.bootFrom bootsel testMode flashError container) :=
    State.bootFrom_framed (List.Subset.refl _) (Framed.refl w)
  obtain ⟨hsel, htest, hpush, hflash⟩ := w.bootFrom_selected bootsel flashError testMode container
  generalize w.bootFrom bootsel testMode flashError container = u at fb hsel htest hpush hflash ⊢
  have h0 : u.d0 = v.d0 := (fb.die_eq .s0).trans (fs.die_eq .s0)
  have h1 : u.d1 = v.d1 := (fb.die_eq .s1).trans (fs.die_eq .s1)
  exact ⟨(fb.sys_eq (by decide) (by decide)).trans ((fs.sys_eq (by decide) (by decide)).trans h.sys),
    by rw [fb.tally_eq]; exact hready, by rw [h0]; exact h.power.1, by rw [h1]; exact h.power.2,
    (fb .dev (by decide)).trans ((fs .dev (by decide)).trans h.dev), fb.dep_eq.trans (fs.dep_eq.trans h.dep),
    (fb .mem (by decide)).trans ((fs .mem (by decide)).trans h.mem), hsel, htest, hpush, hflash⟩

end Sys2Proof.Machine
namespace Sys2Proof.Machine
open Sys2Proof

/-! ### The inputs of the power-on reset (R595, R597) -/

/-- The number `c` with bit `n` put to `on`, as the rails and the clocks are kept. -/
def putBit (c n : Nat) (on : Bool) : Nat :=
  if c / 2 ^ n % 2 = 1 then (if on then c else c - 2 ^ n) else if on then c + 2 ^ n else c

/-- A digit of a number in base 2 concerns its own bit alone. -/
theorem testBit_digit (q r n j : Nat) {b : Nat} (hb : b < 2) (hr : r < 2 ^ n) :
    (2 ^ n * (2 * q + b) + r).testBit j = if j = n then decide (b = 1) else (2 ^ n * (2 * q) + r).testBit j := by
  rw [Nat.testBit_two_pow_mul_add _ hr, Nat.testBit_two_pow_mul_add _ hr]
  rcases Nat.lt_trichotomy j n with h | h | h
  · rw [if_pos h, if_pos h, if_neg h.ne]
  · subst h
    rw [if_neg (lt_irrefl j), Nat.sub_self, if_pos rfl, Nat.testBit_zero]
    exact decide_eq_decide.mpr (by omega)
  · rw [if_neg (by omega), if_neg (by omega), if_neg (by omega), show j - n = (j - n - 1) + 1 by omega, Nat.testBit_succ,
      Nat.testBit_succ]
    exact congrArg (Nat.testBit · _) (by omega)

theorem testBit_putBit (c n : Nat) (on : Bool) (j : Nat) : (putBit c n on).testBit j = if j = n then on else c.testBit j := by
  have hc : 2 ^ n * (2 * (c / 2 ^ n / 2) + c / 2 ^ n % 2) + c % 2 ^ n = c := by
    rw [Nat.div_add_mod, Nat.div_add_mod]
  have hlt : c % 2 ^ n < 2 ^ n := Nat.mod_lt _ (Nat.two_pow_pos n)
  have hp : putBit c n on = 2 ^ n * (2 * (c / 2 ^ n / 2) + bnat on) + c % 2 ^ n := by
    have hb : c / 2 ^ n % 2 < 2 := Nat.mod_lt _ (by decide)
    unfold putBit
    generalize c / 2 ^ n % 2 = b at hc hb ⊢
    generalize c / 2 ^ n / 2 = q at hc ⊢
    generalize c % 2 ^ n = r at hc ⊢
    rw [← hc]
    cases on
    · interval_cases b
      · rfl
      · simp [bnat, Nat.mul_add]
        omega
    · interval_cases b
      · simp [bnat, Nat.mul_add]
        omega
      · rfl
  rw [hp, testBit_digit _ _ _ _ (by cases on <;> decide) hlt]
  conv_rhs => rw [← hc]
  rw [testBit_digit _ _ _ _ (Nat.mod_lt _ (by decide)) hlt]
  split_ifs
  · cases on <;> rfl
  · rfl

/-- R597: every monitored rail within its range, SYSCLK and DEPCLK running. -/
theorem State.inputsValid_iff (s : State) : s.inputsValid = true ↔
    (∀ k, k < 13 → s.monitored k = true → s.power.rails.testBit k = true) ∧ s.power.clocks.testBit 0 = true ∧
      s.power.clocks.testBit 3 = true := by
  simp only [State.inputsValid, Bool.and_eq_true, List.all_eq_true, List.mem_range, Bool.or_eq_true, Bool.not_eq_true',
    decide_eq_true_eq, Nat.testBit_eq_decide_div_mod_eq, pow_zero, Nat.div_one, and_assoc]
  refine and_congr (forall_congr' fun k => imp_congr_right fun _ => ?_) Iff.rfl
  cases s.monitored k <;> simp

/-- The power-on reset goes on exactly while an input is missing. -/
theorem State.releasePor_sys (s : State) (hp : s.sys.porHeld = true) :
    (s.inputsValid = true → s.releasePor.sys = { s.sys with porHeld := false }) ∧
      (s.inputsValid = false → s.releasePor.sys = s.sys) := by
  refine ⟨fun h => ?_, fun h => ?_⟩ <;> simp [State.releasePor, State.when, hp, h]

theorem State.releasePor_power (s : State) : s.releasePor.power = s.power := by
  unfold State.releasePor State.when
  split_ifs <;> rfl

theorem State.setClock_testBit (s : State) (n : Nat) (on : Bool) (k : Nat) :
    (s.setClock n on).power.clocks.testBit k = if k = n then on else s.power.clocks.testBit k := testBit_putBit _ _ _ _

/-- What an input that turns valid does: the power-on reset ends with the last one missing. -/
theorem State.releasePor_inputs (s : State) (hp : s.sys.porHeld = true) :
    ((∀ k, k < 13 → s.monitored k = true → s.power.rails.testBit k = true) → s.power.clocks.testBit 0 = true →
      s.power.clocks.testBit 3 = true → s.releasePor.sys = { s.sys with porHeld := false }) ∧
    ((∃ k, k < 13 ∧ s.monitored k = true ∧ s.power.rails.testBit k = false) ∨ s.power.clocks.testBit 0 = false ∨
      s.power.clocks.testBit 3 = false → s.releasePor.sys = s.sys) := by
  obtain ⟨hv, hn⟩ := s.releasePor_sys hp
  refine ⟨fun hr h0 h3 => hv (s.inputsValid_iff.mpr ⟨hr, h0, h3⟩), fun h => hn (Bool.eq_false_iff.mpr fun hi => ?_)⟩
  obtain ⟨hr, h0, h3⟩ := s.inputsValid_iff.mp hi
  rcases h with ⟨k, hk, hm, hf⟩ | hf | hf
  · exact Bool.noConfusion (hf.symm.trans (hr k hk hm))
  · exact Bool.noConfusion (hf.symm.trans h0)
  · exact Bool.noConfusion (hf.symm.trans h3)

theorem powerOnResetIsHeld : Statements.PowerOnResetIsHeld := by
  intro s n t ppm hp
  refine ⟨fun hn hm => ?_, fun hr hlow => ?_, fun hr hhigh => ?_, fun hr => ?_⟩
  · have e : exec (.railWithinTolerance n) s =
        .next (State.releasePor { s with power := { s.power with rails := putBit s.power.rails n true } }) := by
      show whenNamed (decide (n < 13)) (s.when (s.monitored n) _) = _
      rw [State.when, if_pos hm, whenNamed, if_pos (decide_eq_true hn)]
      rfl
    have hbit : ∀ k, (putBit s.power.rails n true).testBit k = if k = n then true else s.power.rails.testBit k :=
      testBit_putBit _ _ _
    generalize putBit s.power.rails n true = r at e hbit
    obtain ⟨hv, hh⟩ := State.releasePor_inputs { s with power := { s.power with rails := r } } hp
    refine ⟨_, e, ?_, fun hk => hv fun k hk13 hmk => ?_, fun h => hh ?_⟩
    · rw [State.releasePor_power]
      exact (hbit n).trans (if_pos rfl)
    · rw [hbit]
      split_ifs with hkn
      · rfl
      · exact hk k hk13 hkn hmk
    · exact h.imp_left fun ⟨k, hk13, hkn, hmk, hf⟩ => ⟨k, hk13, hmk, (hbit k).trans ((if_neg hkn).trans hf)⟩
  · have e : exec (.depClock t ppm) s = .next ((s.setClock 0 true).setClock 3 true).releasePor :=
      (if_pos hr).trans (congrArg Host.Outcome.next (if_neg (by omega)))
    have h0 : ((s.setClock 0 true).setClock 3 true).power.clocks.testBit 0 = true := by
      rw [State.setClock_testBit, if_neg (by decide), State.setClock_testBit, if_pos rfl]
    have h3 : ((s.setClock 0 true).setClock 3 true).power.clocks.testBit 3 = true := by
      rw [State.setClock_testBit, if_pos rfl]
    obtain ⟨hv, hh⟩ := State.releasePor_inputs ((s.setClock 0 true).setClock 3 true) hp
    exact ⟨_, e, by rwa [State.releasePor_power], by rwa [State.releasePor_power], fun hk => hv hk h0 h3, fun h => hh (.inl h)⟩
  · have e : exec (.depClock t ppm) s = .next (s.setClock 0 false) :=
      (if_pos hr).trans (congrArg Host.Outcome.next (if_pos hhigh))
    exact ⟨_, e, by rw [State.setClock_testBit, if_pos rfl], rfl, rfl⟩
  · have e : exec (.depclkLost t) s = .next (s.setClock 3 false) := congrArg Host.Outcome.next (if_pos hr)
    exact ⟨_, e, by rw [State.setClock_testBit, if_pos rfl], rfl, rfl⟩

end Sys2Proof.Machine

namespace Sys2Proof.Machine
open Sys2Proof

/-! ### Firmware initialisation (R537, R618) -/

/-- Filling an index looks at the engines alone (R198). -/
theorem fillIndex_ces_congr {x y : DieState} (h : x.ces = y.ces) (l : Nat) :
    (fillIndex x l).1.ces = (fillIndex y l).1.ces ∧ (fillIndex x l).1.reOut = x.reOut := by
  have he : x.engineOf l = y.engineOf l := by
    unfold DieState.engineOf
    rw [h]
  unfold fillIndex
  rw [he, h]
  cases y.engineOf l with
  | some p => exact ⟨h, rfl⟩
  | none =>
    dsimp only
    split
    · exact ⟨congrArg (modifyD CeUnit.idle _ _) h, rfl⟩
    · exact ⟨h, rfl⟩

/-- The roles that R198 assigns depend on the engines alone. -/
theorem DieState.applyPool_ces_congr {x y : DieState} (h : x.ces = y.ces) (hr : x.reOut = y.reOut) :
    x.applyPool.ces = y.applyPool.ces := by
  have hact : x.rAct = y.rAct := by
    unfold DieState.rAct DieState.pool DieState.retired DieState.reIn
    rw [h, hr]
  have fill : ∀ (ls : List Nat) (a b : DieState), a.ces = b.ces →
      (ls.foldl (fun a l => (fillIndex a l).1) a).ces = (ls.foldl (fun b l => (fillIndex b l).1) b).ces := by
    intro ls
    induction ls with
    | nil => exact fun _ _ h => h
    | cons l ls ih => exact fun a b h => ih _ _ (fillIndex_ces_congr h l).1
  unfold DieState.applyPool
  rw [hact, h]
  exact fill _ _ _ rfl

theorem DieState.takeService_ces_congr {x y : DieState} (h : x.ces = y.ces) (hr : x.reOut = y.reOut) :
    x.takeService.ces = y.takeService.ces := by
  refine DieState.applyPool_ces_congr ?_ hr
  show assignRoles x.pool x.ces 0 = assignRoles y.pool y.ces 0
  unfold DieState.pool DieState.retired
  rw [h]

/-- A die that was powering up begins service as start-up ends. -/
def State.bringUp (s : State) (d : Die) : State :=
  s.when ((s.die d).power == 1) fun s =>
    let s := (s.when (s.die d).isolated fun s => s.initSram d).takeService d
    (s.setDie d { s.die d with power := 2, isolated := false }).lockDie d

/-- The SRAM of a die: its window and its engines' slices. -/
def inSram (d : Die) (a : Nat) : Prop := (winBaseOf d ≤ a ∧ a < winBaseOf d + 0x4000000) ∨ (sliceKey d 0 ≤ a ∧ a < sliceKey d 0x40000)

/-- What start-up's end does to one die: in service with its roles, its SRAM zero where it had no power. -/
structure DieBroughtUp (d : Die) (s u : State) : Prop where
  up : (s.die d).power = 1 → (u.die d).power = 2 ∧ (u.die d).ces = (s.die d).takeService.ces
  same : (s.die d).power ≠ 1 → u.die d = s.die d
  other : u.die d.other = s.die d.other
  regs : RegsKept (fun o => ∀ d, o ≠ rCeEvents d) s u
  frame : Framed [.free, .regs, .mem, .slices, .dies, .power, .out] s u
  zero : ∀ a, memByte s.mem a = 0 → memByte u.mem a = 0
  init : (s.die d).power = 1 → (s.die d).isolated = true → ∀ a, inSram d a → memByte u.mem a = 0
  mem : ∀ a, ((s.die d).power = 1 → (s.die d).isolated = true → ¬ inSram d a) → memByte u.mem a = memByte s.mem a

/-- Memory after a die's SRAM has been initialised. -/
theorem State.initSram_mem (s : State) (d : Die) (a : Nat) :
    (inSram d a → memByte (s.initSram d).mem a = 0) ∧ (¬ inSram d a → memByte (s.initSram d).mem a = memByte s.mem a) := by
  have h : memByte (s.initSram d).mem a = if (!(decide (winBaseOf d ≤ a ∧ a < winBaseOf d + 0x4000000) ||
      decide (sliceKey d 0 ≤ a ∧ a < sliceKey d 0x40000))) = true then memByte s.mem a else 0 :=
    Eq.trans (by cases d <;> rfl) (memByte_filter s.mem (fun a => !(decide (winBaseOf d ≤ a ∧ a < winBaseOf d + 0x4000000) ||
      decide (sliceKey d 0 ≤ a ∧ a < sliceKey d 0x40000))) a)
  have hi : (!(decide (winBaseOf d ≤ a ∧ a < winBaseOf d + 0x4000000) || decide (sliceKey d 0 ≤ a ∧ a < sliceKey d 0x40000))) = true ↔
      ¬ inSram d a := by
    simp only [Bool.not_eq_true', Bool.or_eq_false_iff, decide_eq_false_iff_not, inSram, not_or]
  exact ⟨fun hin => h.trans (if_neg fun ho => hi.mp ho hin), fun hout => h.trans (if_pos (hi.mpr hout))⟩

/-- The engines of a die in service, the other die and every register but the CE events. -/
theorem State.takeService_done (s : State) (d : Die) : ((s.takeService d).die d).ces = (s.die d).takeService.ces ∧
    (s.takeService d).die d.other = s.die d.other ∧ RegsKept (fun o => ∀ d, o ≠ rCeEvents d) s (s.takeService d) := by
  unfold State.takeService
  extract_lets +onlyGivenNames x v
  have hr : RegsKept (fun o => ∀ d, o ≠ rCeEvents d) s v := RegsKept.setDie d _ (RegsKept.refl s)
  unfold State.when
  split_ifs
  · exact ⟨by cases d <;> rfl, by cases d <;> rfl, hr.event (fun h => h d rfl) 3⟩
  · exact ⟨by cases d <;> rfl, by cases d <;> rfl, hr⟩

theorem State.bringUp_done (s : State) (d : Die) : DieBroughtUp d s (s.bringUp d) := by
  unfold State.bringUp
  by_cases hp : (s.die d).power = 1
  · rw [State.when, if_pos (beq_iff_eq.mpr hp)]
    extract_lets v x
    -- the SRAM, if it had no power
    have hv : (v.die d).ces = (s.die d).takeService.ces ∧ v.die d.other = s.die d.other ∧
        RegsKept (fun o => ∀ d, o ≠ rCeEvents d) s v ∧ Framed [.regs, .mem, .slices, .dies] s v ∧
        (∀ a, memByte s.mem a = 0 → memByte v.mem a = 0) ∧ ((s.die d).isolated = true → ∀ a, inSram d a → memByte v.mem a = 0) ∧
        (∀ a, ((s.die d).isolated = true → ¬ inSram d a) → memByte v.mem a = memByte s.mem a) := by
      obtain ⟨w, hw, hces, hre, hoth, hregs, hmem⟩ : ∃ w, v = w.takeService d ∧ (w.die d).ces = (s.die d).ces ∧
          (w.die d).reOut = (s.die d).reOut ∧ w.die d.other = s.die d.other ∧ Framed [.mem, .slices, .dies] s w ∧
          w = s.when (s.die d).isolated fun s => s.initSram d := by
        refine ⟨_, rfl, ?_, ?_, ?_, State.when_framed (Framed.refl s) fun t ht => State.initSram_framed (List.Subset.refl _) ht, rfl⟩ <;>
          (unfold State.when; split_ifs <;> cases d <;> rfl)
      have hts : Framed [.regs, .dies] w v := hw ▸ State.takeService_framed (List.Subset.refl _) (Framed.refl w)
      obtain ⟨hdces, hdoth, hdregs⟩ := w.takeService_done d
      rw [← hw] at hdces hdoth hdregs
      have hvm : v.mem = w.mem := hts .mem (by decide)
      have hwm : ∀ a, ((s.die d).isolated = true → inSram d a → memByte w.mem a = 0) ∧
          (((s.die d).isolated = true → ¬ inSram d a) → memByte w.mem a = memByte s.mem a) := fun a => by
        rw [hmem, State.when]
        split_ifs with hi
        · exact ⟨fun _ => (s.initSram_mem d a).1, fun h => (s.initSram_mem d a).2 (h hi)⟩
        · exact ⟨fun h => absurd h hi, fun _ => rfl⟩
      refine ⟨hdces.trans (DieState.takeService_ces_congr hces hre), hdoth.trans hoth,
        ((RegsKept.refl s).framed hregs).trans hdregs, (hregs.mono (by decide)).trans (hts.mono (by decide)), fun a ha => ?_,
        fun hi a => ?_, fun a => ?_⟩
      · rw [hvm]
        by_cases hin : (s.die d).isolated = true ∧ inSram d a
        · exact (hwm a).1 hin.1 hin.2
        · exact ((hwm a).2 fun hi h => hin ⟨hi, h⟩).trans ha
      · rw [hvm]
        exact (hwm a).1 hi
      · rw [hvm]
        exact (hwm a).2
    obtain ⟨hces, hoth, hregs, hf, hz, hi, hm⟩ := hv
    clear_value v
    have fl : Framed [.free, .power, .out] (v.setDie d { v.die d with power := 2, isolated := false })
        ((v.setDie d { v.die d with power := 2, isolated := false }).lockDie d) :=
      State.lockDie_framed (List.Subset.refl _) (Framed.refl _)
    show DieBroughtUp d s ((v.setDie d { v.die d with power := 2, isolated := false }).lockDie d)
    generalize (v.setDie d { v.die d with power := 2, isolated := false }).lockDie d = u at fl ⊢
    have hd : u.die d = { v.die d with power := 2, isolated := false } := (fl.die_eq d).trans (State.die_setDie _ _ _)
    have ho : u.die d.other = v.die d.other := (fl.die_eq d.other).trans (State.die_setDie_other _ _ _)
    have hum : u.mem = v.mem := (fl .mem (by decide)).trans (by cases d <;> rfl)
    have fs : Framed [.dies] v (v.setDie d { v.die d with power := 2, isolated := false }) :=
      State.setDie_framed (List.Subset.refl _) (Framed.refl v) fun _ => rfl
    exact { up := fun _ => ⟨by rw [hd], by rw [hd]; exact hces⟩
            same := fun h => absurd hp h
            other := ho.trans hoth
            regs := (hregs.setDie d _).framed fl
            frame := (hf.mono (by decide)).trans ((fs.mono (by decide)).trans (fl.mono (by decide)))
            zero := fun a h => by rw [hum]; exact hz a h
            init := fun _ h a ha => by rw [hum]; exact hi h a ha
            mem := fun a h => by rw [hum]; exact hm a (h hp) }
  · rw [State.when, if_neg (fun h => hp (beq_iff_eq.mp h))]
    exact ⟨fun h => absurd h hp, fun _ => rfl, rfl, RegsKept.refl s, Framed.refl s, fun _ h => h, fun h => absurd h hp, fun _ _ => rfl⟩

/-- The Crosscut's training leaves a die's power and engines. -/
theorem State.retrainXcut_die (s : State) (d : Die) : (s.retrainXcut.die d).power = (s.die d).power ∧ (s.retrainXcut.die d).ces = (s.die d).ces := by
  cases d <;> exact ⟨rfl, rfl⟩

theorem bootEndsInReady : Statements.BootEndsInReady := by
  intro s hb
  have e : exec .bootComplete s =
      .next { ((((s.bringUp .s0).bringUp .s1).setClock 4 true).retrainXcut) with dev := .ready, now := 0, timeOn := true } :=
    congrArg Host.Outcome.next (if_pos hb)
  refine ⟨_, e, rfl, rfl, rfl, ?_⟩
  have a0 := s.bringUp_done .s0
  have a1 := (s.bringUp .s0).bringUp_done .s1
  generalize s.bringUp .s0 = v at a0 a1
  generalize hw : v.bringUp .s1 = w at a1
  have hd1 : v.die .s1 = s.die .s1 := a0.other
  have hd0 : w.die .s0 = v.die .s0 := a1.other
  have hu : Framed [.power, .dies] w (w.setClock 4 true).retrainXcut :=
    State.retrainXcut_framed (by decide) (State.setClock_framed (by decide) (Framed.refl w))
  have hdie : ∀ d, ((w.setClock 4 true).retrainXcut.die d).power = (w.die d).power ∧
      ((w.setClock 4 true).retrainXcut.die d).ces = (w.die d).ces := fun d => (w.setClock 4 true).retrainXcut_die d
  generalize (w.setClock 4 true).retrainXcut = u at hu hdie
  have fw : Framed [.free, .regs, .mem, .slices, .dies, .power, .out] s u := (a0.frame.trans a1.frame).trans (hu.mono (by decide))
  have hum : u.mem = w.mem := hu .mem (by decide)
  have hregs : RegsKept (fun o => ∀ d, o ≠ rCeEvents d) s u := (a0.regs.trans a1.regs).framed hu
  refine ⟨fun d hp => ?_, fun d hp => ?_, fw.dep_eq, fw .sec (by decide),
    hregs, fun d a hp hi h1 h2 => ?_, fun a ha => ?_⟩
  · refine ⟨(hdie d).1.trans ?_, (hdie d).2.trans ?_⟩
    · cases d
      · rw [hd0]; exact (a0.up hp).1
      · exact (a1.up (by rw [hd1]; exact hp)).1
    · cases d
      · rw [hd0]; exact (a0.up hp).2
      · exact (a1.up (by rw [hd1]; exact hp)).2.trans (by rw [hd1])
  · have hs : w.die d = s.die d := by
      cases d
      · exact hd0.trans (a0.same hp)
      · exact (a1.same (by rw [hd1]; exact hp)).trans hd1
    exact ⟨(hdie d).1.trans (by rw [hs]), (hdie d).2.trans (by rw [hs])⟩
  · show memByte u.mem a = 0
    rw [hum]
    cases d
    · exact a1.zero a (a0.init hp hi a (.inl ⟨h1, h2⟩))
    · exact a1.init (by rw [hd1]; exact hp) (by rw [hd1]; exact hi) a (.inl ⟨h1, h2⟩)
  · show memByte u.mem a = memByte s.mem a
    have out : ∀ d, (s.die d).power = 1 → (s.die d).isolated = true → ¬ inSram d a := fun d hp hi h =>
      h.elim (ha d hp hi).1 (ha d hp hi).2
    rw [hum, a1.mem a (by rw [hd1]; exact out .s1), a0.mem a (out .s0)]

/-- Settles O25: each command of start-up by its stages. -/
theorem startUpEndsInReady : Obligations.StartUpEndsInReady :=
  ⟨resetReleaseBeginsStartUp, powerOnResetIsHeld, bootEndsInReady⟩

end Sys2Proof.Machine

namespace Sys2Proof.Machine
open Sys2Proof

/-! ### Power of the dies through the changes of their units -/

/-- The dies' power, and whether it was forced off, as in `z`. -/
def PowerKept (z s : State) : Prop := ∀ d, (s.die d).power = (z.die d).power ∧ (s.die d).forced = (z.die d).forced

namespace PowerKept
variable {z s t : State}

theorem refl (s : State) : PowerKept s s := fun _ => ⟨rfl, rfl⟩

theorem trans (h : PowerKept z s) (k : PowerKept s t) : PowerKept z t :=
  fun d => ⟨(k d).1.trans (h d).1, (k d).2.trans (h d).2⟩

/-- An operation that touches the dies at most in their slices. -/
theorem framed {ps : List Part} (hs : PowerKept z s) (h : Framed ps s t) (hp : Part.dies ∉ ps := by decide) : PowerKept z t := by
  have k : ∀ d, ({ t.die d with sliceOv := [] } : DieState) = { s.die d with sliceOv := [] } := fun d => by
    obtain ⟨h0, h1⟩ := h .dies hp
    cases d
    · exact h0
    · exact h1
  exact hs.trans fun d => ⟨(congrArg DieState.power (k d) :), (congrArg DieState.forced (k d) :)⟩

theorem setDie (d : Die) {x : DieState} (hs : PowerKept z s) (hp : x.power = (s.die d).power) (hf : x.forced = (s.die d).forced) :
    PowerKept z (s.setDie d x) := by
  refine hs.trans fun e => ?_
  cases d <;> cases e <;> first | exact ⟨hp, hf⟩ | exact ⟨rfl, rfl⟩

end PowerKept

/-- Changes of a die's units leave its power. -/
def DiePower (x y : DieState) : Prop := y.power = x.power ∧ y.forced = x.forced

namespace DiePower

theorem refl (x : DieState) : DiePower x x := ⟨rfl, rfl⟩

theorem trans {x y w : DieState} (h : DiePower x y) (k : DiePower y w) : DiePower x w := ⟨k.1.trans h.1, k.2.trans h.2⟩

theorem foldl {α : Type} {f : DieState → α → DieState} (hf : ∀ x a, DiePower x (f x a)) (l : List α) (x : DieState) :
    DiePower x (l.foldl f x) := by
  induction l generalizing x with
  | nil => exact refl x
  | cons a l ih => exact (hf x a).trans (ih _)

theorem applyPool (x : DieState) : DiePower x x.applyPool :=
  foldl (fun y l => by
    unfold fillIndex
    split
    · exact refl y
    · split <;> exact refl _) _ _

theorem retireCes (x : DieState) (gone : List Nat) : DiePower x (x.retireCes gone) := foldl (fun y p => show DiePower y (y.mapCe p _) from refl y) _ _

theorem giveAll (x : DieState) (free : List Nat) : DiePower x (x.giveAll free) :=
  foldl (fun y l => by
    unfold DieState.giveIndex
    split <;> exact refl y) _ _

theorem changeCes (x : DieState) (gone : List Nat) (due : Bool) : DiePower x (x.changeCes gone due) := by
  unfold DieState.changeCes
  extract_lets y free
  have hy : DiePower x y := retireCes x gone
  clear_value y
  split
  · exact hy.trans (giveAll _ _)
  · split
    · exact hy.trans (giveAll _ _)
    · extract_lets w
      have hw : DiePower x w := hy.trans (by
        show DiePower y (if _ then _ else _)
        split <;> exact refl y)
      clear_value w
      split
      · exact hw.trans (giveAll _ _)
      · exact (hw.trans (y := w) (refl w)).trans (giveAll _ _)

theorem dropUnits (x : DieState) (fails : List BistFail) : DiePower x (x.dropUnits fails) :=
  foldl (fun y f => by
    split
    · exact refl y
    · unfold DieState.retireUnit
      split <;> exact refl y) _ _

end DiePower

namespace PowerKept
variable {z s : State}

theorem setUnits (d : Die) {x : DieState} (hs : PowerKept z s) (h : DiePower (s.die d) x) : PowerKept z (s.setDie d x) :=
  hs.setDie d h.1 h.2

theorem event (o n : Nat) (hs : PowerKept z s) : PowerKept z (s.event o n) :=
  hs.framed (State.event_framed (List.Subset.refl _) (Framed.refl s))

theorem log (sev code source : Nat) (data : List Byte) (hs : PowerKept z s) : PowerKept z (s.log sev code source data) :=
  hs.framed (State.log_framed (List.Subset.refl _) (Framed.refl s))

theorem when {c : Bool} {f : State → State} (hs : PowerKept z s) (hf : PowerKept z (f s)) : PowerKept z (s.when c f) := by
  unfold State.when
  split
  · exact hf
  · exact hs

theorem retireRows (d : Die) (hs : PowerKept z s) : PowerKept z (s.retireRows d) := by
  unfold State.retireRows
  extract_lets x was y s1
  have h1 : PowerKept z s1 := (hs.setUnits d (x := y) (DiePower.refl _)).event _ _
  clear_value s1
  split
  · exact hs
  · split
    · exact (h1.event _ _).log _ _ _ _
    · exact h1

theorem changeCes (d : Die) (before : Nat) (gone : List Nat) (due pool : Bool) (hs : PowerKept z s) :
    PowerKept z (s.changeCes d before gone due pool) := by
  unfold State.changeCes
  extract_lets x y s1 s2 s3
  have h1 : PowerKept z s1 := hs.setUnits d (by
    have hy : DiePower (s.die d) y := DiePower.changeCes _ _ _
    clear_value y
    split
    · exact hy.trans (DiePower.applyPool y)
    · exact hy)
  clear_value s1
  have h2 : PowerKept z s2 := by
    refine h1.framed (ps := [.regs, .host, .tally, .out]) ?_
    exact Framed.foldl (Framed.refl s1) fun t ht p => State.reportRetired_framed (List.Subset.refl _) ht
  clear_value s2
  have h3 : PowerKept z s3 := by
    show PowerKept z (match x.testEngine with | some p => _ | none => _)
    split
    · exact h2.when (h2.framed (State.writeCanary_framed (List.Subset.refl _) (Framed.refl _)))
    · exact h2
  clear_value s3
  exact h3.when (h3.event _ _)

theorem retireFound (d : Die) (fails : List BistFail) (hs : PowerKept z s) : PowerKept z (s.retireFound fails true false d) := by
  unfold State.retireFound
  extract_lets mine x gone
  rw [if_pos rfl]
  exact ((hs.setUnits d (DiePower.dropUnits _ _)).retireRows d).changeCes d _ _ _ _

theorem takeService (d : Die) (hs : PowerKept z s) : PowerKept z (s.takeService d) := by
  have hx : DiePower (s.die d) (s.die d).takeService := DiePower.applyPool _
  unfold State.takeService
  generalize (s.die d).takeService = x at hx
  extract_lets +onlyGivenNames y v
  have hv : PowerKept z v := hs.setUnits d hx
  clear_value v
  exact hv.when (hv.event _ _)

theorem serveDie (d : Die) (hs : PowerKept z s) : PowerKept z (s.serveDie d) := by
  unfold State.serveDie
  split
  · exact hs.takeService d
  · exact hs

end PowerKept

end Sys2Proof.Machine

namespace Sys2Proof.Machine
open Sys2Proof

/-! ### The end of a RECOVER (R518) -/

/-- RECOVERY as its fields are packed. -/
theorem bits_recovery {a b c : Nat} (ha : a < 8) (hb : b < 4) (hc : c < 65536) :
    bits (packFields [(1, a), (4, b), (16, c)]) 3 1 = a ∧ bits (packFields [(1, a), (4, b), (16, c)]) 5 4 = b ∧
      (packFields [(1, a), (4, b), (16, c)]).getLsbD 0 = false ∧ bits (packFields [(1, a), (4, b), (16, c)]) 31 16 = c := by
  have h0 : ∀ n, n % 2 = 0 → n.testBit 0 = false := fun n h => by rw [Nat.testBit_zero, decide_eq_false_iff_not]; omega
  refine ⟨?_, ?_, ?_, ?_⟩
  · simp only [bits, packFields, List.foldl_cons, List.foldl_nil, BitVec.toNat_ofNat]
    omega
  · simp only [bits, packFields, List.foldl_cons, List.foldl_nil, BitVec.toNat_ofNat]
    omega
  · rw [packFields, BitVec.getLsbD_ofNat]
    simp only [List.foldl_cons, List.foldl_nil]
    rw [h0 _ (by omega)]
    rfl
  · simp only [bits, packFields, List.foldl_cons, List.foldl_nil, BitVec.toNat_ofNat]
    omega

/-- What of the queue the end of a RECOVER looks at stands. -/
structure RecoverWaits (s v : State) : Prop where
  queue : v.sys.queue = s.sys.queue
  seq : v.sys.seq = s.sys.seq
  wait : v.sys.waitRec = true

theorem RecoverWaits.of_sys {s v w : State} (h : RecoverWaits s v) (e : w.sys = v.sys) : RecoverWaits s w := by
  obtain ⟨h1, h2, h3⟩ := h
  rw [← e] at h1 h2 h3
  exact ⟨h1, h2, h3⟩

/-- The count of recoveries after one with `result`. -/
def recoveries (v : State) (result : Nat) : Nat :=
  if result = 0 then min 65535 (bits (v.reg rTallyRecovery) 31 16 + 1) else bits (v.reg rTallyRecovery) 31 16

theorem State.endRecovery_ends {s v : State} {step result : Nat} (h : RecoverWaits s v) (hd : v.dep = s.dep) (hs : step < 8)
    (hr : result < 4) : RecoveryEnds step result s (v.endRecovery step result) ∧
      Framed [.regs, .queue, .sys, .host, .tally, .bist, .out] v (v.endRecovery step result) ∧
      bits ((v.endRecovery step result).reg rTallyRecovery) 31 16 = recoveries v result := by
  have hf : Framed [.regs, .queue, .sys, .host, .tally, .bist, .out] v (v.endRecovery step result) :=
    State.endRecovery_framed (List.Subset.refl _) (Framed.refl v)
  have hc : recoveries v result < 65536 := by
    have : bits (v.reg rTallyRecovery) 31 16 < 2 ^ 16 := Nat.mod_lt _ (Nat.two_pow_pos 16)
    unfold recoveries
    split <;> omega
  obtain ⟨h1, h2, h3, h4⟩ := bits_recovery hs hr hc
  obtain ⟨w, e, hsys, hrun, hreg⟩ : ∃ w : State, v.endRecovery step result = w.popCmd 7 reasonDone ∧ w.sys = v.sys ∧ w.bist.run = none ∧
      w.reg rTallyRecovery = packFields [(1, step), (4, result), (16, recoveries v result)] := by
    unfold State.endRecovery
    extract_lets n v1 b v2 v3
    have hv2 : v2.sys = v.sys ∧ v2.bist.run = none ∧ v2.reg rTallyRecovery = v1.reg rTallyRecovery := ⟨rfl, rfl, rfl⟩
    have hv1 : v1.reg rTallyRecovery = packFields [(1, step), (4, result), (16, recoveries v result)] := State.reg_setReg _ _ _
    clear_value v2
    have f3 : Framed [.regs, .host, .tally, .out] v2 v3 := State.log_framed (List.Subset.refl _) (Framed.refl v2)
    have r3 : v3.reg rTallyRecovery = v2.reg rTallyRecovery := State.reg_log _ _ _ _ _ (by decide)
    have s3 : v3.sys = v.sys := (f3.sys_eq (by decide) (by decide)).trans hv2.1
    refine ⟨v3, if_pos (by rw [s3]; exact h.wait), s3, ?_, r3.trans (hv2.2.2.trans hv1)⟩
    rw [show v3.bist = v2.bist from f3 .bist (by decide)]
    exact hv2.2.1
  have er : (v.endRecovery step result).reg rTallyRecovery = packFields [(1, step), (4, result), (16, recoveries v result)] := by
    rw [e]
    exact hreg
  refine ⟨⟨?_, ⟨?_, ?_, ?_⟩, ?_, ?_⟩, hf, ?_⟩
  · rw [e]
    have p := EntryEnds.pop (s := w) rfl 7 reasonDone
    exact ⟨p.queue.trans (by rw [hsys, h.queue]), p.code, p.reason, p.seq.trans (by rw [hsys, h.seq]), p.still⟩
  · rw [er]; exact h1
  · rw [er]; exact h2
  · rw [er]; exact h3
  · rw [e]; exact hrun
  · rw [hf.dep_eq, hd]
  · rw [er]; exact h4

/-! ### Step 2: the dies that were forced off (R364, R518) -/

/-- A die powers up again. -/
def State.wakeDie (s : State) (d : Die) : State :=
  if (s.die d).power = 1 then
    let s := s.initSram d
    let s := ((s.setDie d { s.die d with power := 2, forced := false, isolated := false }).lockDie d).selfRefresh d false
    match s.image with
    | some i => s.placeImage i d
    | none => s
  else s

theorem State.wakeDies_eq (s : State) : s.wakeDies = (s.wakeDie .s0).wakeDie .s1 := rfl

/-- What the waking does to one die. -/
structure DieWoken (d : Die) (s u : State) : Prop where
  woken : (s.die d).power = 1 → (u.die d).power = 2
  same : (s.die d).power ≠ 1 → u = s
  other : (u.die d.other).power = (s.die d.other).power ∧ (u.die d.other).forced = (s.die d.other).forced
  frame : Framed [.free, .regs, .mem, .slices, .dies, .power, .out] s u
  recovery : RegsKept (· = rTallyRecovery) s u

/-- RECOVERY is a hub register that no event of the log is in. -/
theorem rTallyRecovery_hub : ∀ a, a = rTallyRecovery → a < 0x400000 := by
  rintro _ rfl
  decide

theorem rTallyRecovery_noLog : ∀ a ∈ logRegs, ¬ a = rTallyRecovery := by decide

theorem State.wakeDie_woken (s : State) (d : Die) : DieWoken d s (s.wakeDie d) := by
  unfold State.wakeDie
  by_cases hp : (s.die d).power = 1
  · rw [if_pos hp]
    extract_lets v x w
    have fv : Framed [.mem, .slices, .dies] s v := State.initSram_framed (List.Subset.refl _) (Framed.refl s)
    have pv : PowerKept s v := by
      intro e
      cases d <;> cases e <;> exact ⟨rfl, rfl⟩
    clear_value v
    have hx : Framed [.dies] v (v.setDie d { v.die d with power := 2, forced := false, isolated := false }) :=
      State.setDie_framed (List.Subset.refl _) (Framed.refl v) fun _ => rfl
    have dx : ((v.setDie d { v.die d with power := 2, forced := false, isolated := false }).die d).power = 2 := by
      rw [State.die_setDie]
    have ox := State.die_setDie_other v d { v.die d with power := 2, forced := false, isolated := false }
    have rx : RegsKept (· = rTallyRecovery) v (v.setDie d { v.die d with power := 2, forced := false, isolated := false }) :=
      (RegsKept.refl v).setDie d _
    obtain ⟨y, hy⟩ : ∃ y, y = v.setDie d { v.die d with power := 2, forced := false, isolated := false } := ⟨_, rfl⟩
    have hw : w = (y.lockDie d).selfRefresh d false := by rw [hy]
    rw [← hy] at hx dx ox rx
    have fl : Framed [.free, .power, .out] y (y.lockDie d) := State.lockDie_framed (List.Subset.refl _) (Framed.refl y)
    have fw : Framed [.free, .power, .out, .regs] y w := by
      rw [hw]
      exact (fl.mono (by decide)).trans ((State.selfRefresh_framed (ps := [.regs]) (List.Subset.refl _) (Framed.refl _)).mono (by decide))
    have rw_ : RegsKept (· = rTallyRecovery) s w := by
      rw [hw]
      have hn : ¬ rDmcStatus d = rTallyRecovery := RegsKept.notDie (P := (· = rTallyRecovery)) rTallyRecovery_hub d 0x80004
      exact RegsKept.setField (P := (· = rTallyRecovery)) hn _ _ _ ((((RegsKept.refl s).framed fv).trans rx).framed fl)
    have dw : (w.die d).power = 2 := by rw [fw.die_eq]; exact dx
    have ow : w.die d.other = v.die d.other := (fw.die_eq _).trans ox
    have gw : Framed [.free, .regs, .mem, .slices, .dies, .power, .out] s w :=
      (fv.mono (by decide)).trans ((hx.mono (by decide)).trans (fw.mono (by decide)))
    clear_value w
    have done : ∀ u, Framed [.mem, .slices] w u → DieWoken d s u := fun u fu =>
      { woken := fun _ => (((PowerKept.refl w).framed fu) d).1.trans dw
        same := fun h => absurd hp h
        other := by
          obtain ⟨h1, h2⟩ := ((PowerKept.refl w).framed fu) d.other
          rw [h1, h2, ow]
          exact pv d.other
        frame := gw.trans (fu.mono (by decide))
        recovery := rw_.framed fu }
    split
    · exact done _ (State.placeImage_framed (List.Subset.refl _) (Framed.refl w))
    · exact done _ (Framed.refl w)
  · rw [if_neg hp]
    exact ⟨fun h => absurd h hp, fun _ => rfl, ⟨rfl, rfl⟩, Framed.refl s, RegsKept.refl s⟩

/-- What the waking of both dies does. -/
structure DiesWoken (s u : State) : Prop where
  woken : ∀ d, (s.die d).power = 1 → (u.die d).power = 2
  asleep : ∀ d, (s.die d).power ≠ 1 → (u.die d).power = (s.die d).power ∧ (u.die d).forced = (s.die d).forced
  frame : Framed [.free, .regs, .mem, .slices, .dies, .power, .out] s u
  recovery : RegsKept (· = rTallyRecovery) s u

theorem State.wakeDies_woken (s : State) : DiesWoken s s.wakeDies := by
  rw [State.wakeDies_eq]
  have h0 := s.wakeDie_woken .s0
  generalize s.wakeDie .s0 = v at h0 ⊢
  have h1 := v.wakeDie_woken .s1
  generalize v.wakeDie .s1 = u at h1 ⊢
  obtain ⟨p0, f0⟩ := h0.other
  obtain ⟨p1, f1⟩ := h1.other
  refine ⟨fun d hp => ?_, fun d hp => ?_, h0.frame.trans h1.frame, h0.recovery.trans h1.recovery⟩
  · cases d
    · exact p1.trans (h0.woken hp)
    · exact h1.woken (p0.trans hp)
  · cases d
    · rw [h0.same hp] at p1 f1
      exact ⟨p1, f1⟩
    · rw [h1.same (fun h => hp (p0.symm.trans h))]
      exact ⟨p0, f0⟩

/-- A die that still reads too hot stays off; the entry of the queue stands. -/
structure DieGated (d : Die) (s u : State) : Prop where
  off : (u.die d).power = 0 ∧ (u.die d).forced = true
  other : u.die d.other = s.die d.other
  frame : Framed [.regs, .sys, .dies] s u
  entry : u.sys.queue = s.sys.queue ∧ u.sys.seq = s.sys.seq ∧ u.sys.waitRec = s.sys.waitRec

theorem State.changeEnds_entry (s : State) : s.changeEnds.sys.seq = s.sys.seq ∧ s.changeEnds.sys.waitRec = s.sys.waitRec := by
  unfold State.changeEnds State.when
  split <;> exact ⟨rfl, rfl⟩

theorem State.gatedDie_entry (s : State) (d : Die) : (s.gatedDie d).sys.seq = s.sys.seq ∧ (s.gatedDie d).sys.waitRec = s.sys.waitRec := by
  have hw : ∀ (c : Bool) (v : State), (v.when c fun s => s.changeEnds).sys.seq = v.sys.seq ∧
      (v.when c fun s => s.changeEnds).sys.waitRec = v.sys.waitRec := fun c v => by
    unfold State.when
    split
    · exact v.changeEnds_entry
    · exact ⟨rfl, rfl⟩
  cases d
  · exact hw _ _
  · exact hw _ _

theorem State.forceOff_gated (s : State) (d : Die) : DieGated d s (s.forceOff d) := by
  unfold State.forceOff
  have fv : Framed [.dies] s (s.setDie d { s.die d with power := 0, forced := true, isolated := true }) :=
    State.setDie_framed (List.Subset.refl _) (Framed.refl s) fun _ => rfl
  have hd := State.die_setDie s d { s.die d with power := 0, forced := true, isolated := true }
  have ho := State.die_setDie_other s d { s.die d with power := 0, forced := true, isolated := true }
  generalize s.setDie d { s.die d with power := 0, forced := true, isolated := true } = v at fv hd ho ⊢
  have fu : Framed [.regs, .sys] v (v.gatedDie d) := State.gatedDie_framed (List.Subset.refl _) (Framed.refl v)
  obtain ⟨h1, h2⟩ := v.gatedDie_entry d
  generalize v.gatedDie d = u at fu h1 h2 ⊢
  have hv : v.sys = s.sys := fv.sys_eq (by decide) (by decide)
  refine ⟨?_, (fu.die_eq _).trans ho, (fv.mono (by decide)).trans (fu.mono (by decide)), ?_, by rw [h1, hv], by rw [h2, hv]⟩
  · rw [fu.die_eq, hd]
    exact ⟨rfl, rfl⟩
  · exact (show u.sys.queue = v.sys.queue from fu .queue (by decide)).trans (by rw [hv])

end Sys2Proof.Machine

namespace Sys2Proof.Machine
open Sys2Proof

/-! ### RECOVER and RECOVER_DONE -/

/-- Whether RECOVER_DONE finds the die powering up and still too hot. -/
def State.tooHot (s : State) (d : Die) : Bool := (s.die d).power == 1 && decide (tempCode 116 ≤ s.temp d)

theorem State.tooHot_iff (s : State) (d : Die) : s.tooHot d = true ↔ (s.die d).power = 1 ∧ 720 ≤ s.temp d := by
  unfold State.tooHot
  rw [Bool.and_eq_true, beq_iff_eq, decide_eq_true_eq]
  exact Iff.rfl

/-- The dies that are too hot, powered down in turn. -/
theorem foldl_filter_dies (c : Die → Bool) (f : State → Die → State) (s : State) :
    ([Die.s0, Die.s1].filter c).foldl f s = (s.when (c .s0) fun s => f s .s0).when (c .s1) fun s => f s .s1 := by
  unfold State.when
  cases h0 : c .s0 <;> cases h1 : c .s1 <;> simp [List.filter, h0, h1]

/-- The state after every die that is too hot has been powered down again. -/
structure HotGated (s u : State) : Prop where
  off : ∀ d, s.tooHot d = true → (u.die d).power = 0 ∧ (u.die d).forced = true
  cool : ∀ d, s.tooHot d = false → (u.die d).power = (s.die d).power
  frame : Framed [.regs, .sys, .dies] s u
  entry : u.sys.queue = s.sys.queue ∧ u.sys.seq = s.sys.seq ∧ u.sys.waitRec = s.sys.waitRec

theorem State.gateHot (s : State) : HotGated s (([Die.s0, Die.s1].filter s.tooHot).foldl (fun s d => s.forceOff d) s) := by
  have step : ∀ (d : Die) (c : Bool) (v : State), Framed [.regs, .sys, .dies] v (v.when c fun s => s.forceOff d) ∧
      (c = true → ((v.when c fun s => s.forceOff d).die d).power = 0 ∧ ((v.when c fun s => s.forceOff d).die d).forced = true) ∧
      (c = false → (v.when c fun s => s.forceOff d).die d = v.die d) ∧
      (v.when c fun s => s.forceOff d).die d.other = v.die d.other ∧
      (v.when c fun s => s.forceOff d).sys.queue = v.sys.queue ∧ (v.when c fun s => s.forceOff d).sys.seq = v.sys.seq ∧
      (v.when c fun s => s.forceOff d).sys.waitRec = v.sys.waitRec := fun d c v => by
    unfold State.when
    cases c
    · exact ⟨Framed.refl v, nofun, fun _ => rfl, rfl, rfl, rfl, rfl⟩
    · have g := v.forceOff_gated d
      exact ⟨g.frame, fun _ => g.off, nofun, g.other, g.entry⟩
  rw [foldl_filter_dies]
  obtain ⟨f0, on0, off0, oth0, e0⟩ := step .s0 (s.tooHot .s0) s
  generalize s.when (s.tooHot .s0) (fun s => s.forceOff .s0) = v at f0 on0 off0 oth0 e0 ⊢
  obtain ⟨f1, on1, off1, oth1, e1⟩ := step .s1 (s.tooHot .s1) v
  generalize v.when (s.tooHot .s1) (fun s => s.forceOff .s1) = u at f1 on1 off1 oth1 e1 ⊢
  have k0 : u.die .s0 = v.die .s0 := oth1
  have k1 : v.die .s1 = s.die .s1 := oth0
  refine ⟨fun d h => ?_, fun d h => ?_, f0.trans f1, e1.1.trans e0.1, e1.2.1.trans e0.2.1, e1.2.2.trans e0.2.2⟩
  · cases d
    · rw [k0]; exact on0 h
    · exact on1 h
  · cases d
    · rw [k0, off0 h]
    · rw [off1 h, k1]

theorem State.bistResult_regs (s : State) (run : BistRun) (ms macros : Nat) (fails : List BistFail) :
    RegsKept (· = rTallyRecovery) s (s.bistResult run ms macros fails) := by
  unfold State.bistResult
  extract_lets common units m s1 s2 logic
  exact (((RegsKept.refl s).setReg (by decide) _).setReg (by decide) _).of_regs rfl

theorem RegsKept.retireFound {z s : State} (d : Die) (fails : List BistFail) (hs : RegsKept (· = rTallyRecovery) z s) :
    RegsKept (· = rTallyRecovery) z (s.retireFound fails true false d) := by
  unfold State.retireFound
  extract_lets mine x gone
  rw [if_pos rfl]
  exact ((hs.setDie d _).retireRows rTallyRecovery_hub rTallyRecovery_noLog d).changeCes rTallyRecovery_hub rTallyRecovery_noLog d _ _ _ _

theorem RegsKept.serveDie {z s : State} (d : Die) (hs : RegsKept (· = rTallyRecovery) z s) :
    RegsKept (· = rTallyRecovery) z (s.serveDie d) := by
  unfold State.serveDie
  refine RegsKept.ite ?_ hs
  exact hs.trans fun a ha => (s.takeService_done d).2.2 a fun e h =>
    absurd (ha.symm.trans h) fun h => RegsKept.notDie (P := (· = rTallyRecovery)) rTallyRecovery_hub e _ h.symm

/-- The self-test's end leaves the entry of the queue, RECOVERY and the power of the dies that it has not woken. -/
structure SelfTested (s u : State) : Prop where
  frame : Framed [.free, .regs, .mem, .slices, .dies, .host, .tally, .bist, .power, .out] s u
  recovery : RegsKept (· = rTallyRecovery) s u
  woken : ∀ d, (s.die d).power = 1 → (u.die d).power = 2

theorem State.afterSelfTest_tested (s : State) (run : BistRun) (macros : Nat) (fails : List BistFail) :
    SelfTested s (s.afterSelfTest run macros fails) := by
  unfold State.afterSelfTest
  generalize fails.filter (bistFinds run) = found
  have h := s.wakeDies_woken
  generalize s.wakeDies = v at h ⊢
  have fb : Framed [.regs, .bist] v (v.bistResult run 47 macros found) := State.bistResult_framed (List.Subset.refl _) (Framed.refl v)
  have rb := v.bistResult_regs run 47 macros found
  generalize v.bistResult run 47 macros found = w at fb rb ⊢
  have hp : PowerKept v ((((w.retireFound found true false .s0).retireFound found true false .s1).serveDie .s0).serveDie .s1) :=
    (((((PowerKept.refl v).framed fb).retireFound .s0 found).retireFound .s1 found).serveDie .s0).serveDie .s1
  refine ⟨?_, h.recovery.trans ((((rb.retireFound .s0 found).retireFound .s1 found).serveDie .s0).serveDie .s1), fun d hd =>
    (hp d).1.trans (h.woken d hd)⟩
  refine (h.frame.mono (by decide)).trans ((fb.mono (by decide)).trans ?_)
  exact State.serveDie_framed (by decide) (State.serveDie_framed (by decide) (State.retireFound_framed (by decide)
    (State.retireFound_framed (by decide) (Framed.refl w))))

/-- RECOVER_DONE where a RECOVER is in progress. -/
theorem execRecoverDone_busy {s : State} {t macros : Nat} {fails : List BistFail} (hd : s.dev = .faulted)
    (hb : (s.reg rTallyRecovery).getLsbD 0 = true) {run : BistRun} (hr : s.bist.run = some run) (hby : run.by_ = 2) :
    exec (.recoverDone t ⟨macros, fails⟩) s = .next
      (if !([Die.s0, Die.s1].filter (s.advance t).tooHot).isEmpty then
        ((([Die.s0, Die.s1].filter (s.advance t).tooHot).foldl (fun s d => s.forceOff d) (s.advance t)).wakeDies).endRecovery 2 1
      else if !((s.advance t).afterSelfTest run macros fails).recoverable then
        ((s.advance t).afterSelfTest run macros fails).endRecovery 3 2
      else { ((s.advance t).afterSelfTest run macros fails).retrainXcut.endRecovery 5 0 with dev := .stopped }) := by
  have hc : (s.dev == .faulted && bit (s.reg rTallyRecovery) 0) = true := by
    rw [hd]
    exact hb
  have ha : (s.advance t).bist.run = some run := by
    obtain ⟨n, hn⟩ := s.advance_eq t
    rw [hn]
    exact hr
  refine congrArg Host.Outcome.next ((if_pos hc).trans ?_)
  beta_reduce
  generalize s.advance t = v at ha ⊢
  show (match v.bist.run with
    | some run => _
    | none => _) = _
  rw [ha]
  exact (if_neg (not_not.mpr hby)).trans rfl

end Sys2Proof.Machine

namespace Sys2Proof.Machine
open Sys2Proof

/-- RECOVERY with the sequence at a step, busy. -/
theorem bits_recoveryBusy (w : Word) {k : Nat} (hk : k < 8) :
    bits (setBits (setBits (setBits w 5 4 0) 0 0 1) 3 1 k) 3 1 = k ∧ (setBits (setBits (setBits w 5 4 0) 0 0 1) 3 1 k).getLsbD 0 = true := by
  refine ⟨bits_setBits_same _ (by decide) hk, ?_⟩
  rw [getLsbD_setBits _ (by decide), if_neg (by decide), getLsbD_setBits _ (by decide)]
  rfl

/-- RECOVERY as a RECOVER shows the step it has reached. -/
def State.showStep (v s : State) (step : Nat) : State :=
  v.setReg rTallyRecovery (setBits (setBits (setBits (s.reg rTallyRecovery) 5 4 0) 0 0 1) 3 1 step)

/-- The entry of the queue as a RECOVER in progress. -/
def State.recovering (s : State) (n : Nat) : State := { s with now := n, sys := { s.sys with waitRec := true } }

/-- The engines reset and the self-test begun (R518). -/
def State.selfTesting (s : State) (n : Nat) (run : BistRun) : State :=
  { s.recovering n with d0 := s.d0.resetEngines, d1 := s.d1.resetEngines, bist := { s.bist with run := some run } }

/-- The start of a RECOVER, by whether a cause is present. -/
theorem recoverStarts (s : State) (t : Nat) (hd : s.dev = .faulted) (hh : s.headIs (.cmd 7)) (hw : s.sys.waitRec = false) :
    (s.dep.present = [] → ∃ n run, run.kind = 3 ∧ run.by_ = 2 ∧ exec (.recover t) s = .next ((s.selfTesting n run).showStep s 3)) ∧
    (s.dep.present ≠ [] → ∃ n, exec (.recover t) s = .next ((s.recovering n).showStep s 1)) := by
  have hc : (s.sys.queue.head? == some (.cmd 7) && !s.sys.waitRec) = true := by
    rw [show s.sys.queue.head? = some (.cmd 7) from hh, hw]
    rfl
  obtain ⟨n, hn⟩ := s.advance_eq t
  obtain ⟨run, hk, hb, e⟩ : ∃ run : BistRun, run.kind = 3 ∧ run.by_ = 2 ∧ exec (.recover t) s = .next (if !s.dep.present.isEmpty then
      (s.recovering n).showStep s 1 else (s.selfTesting n run).showStep s 3) := by
    refine ⟨⟨2 * bnat (decide (s.d0.resetEngines.power = 1 ∨ s.d0.resetEngines.power = 2)) +
      4 * bnat (decide (s.d1.resetEngines.power = 1 ∨ s.d1.resetEngines.power = 2)), 3, 2⟩, rfl, rfl,
      congrArg Host.Outcome.next ((if_pos hc).trans ?_)⟩
    beta_reduce
    rw [hn]
    exact (if_neg (not_not.mpr hd)).trans rfl
  exact ⟨fun hp => ⟨n, run, hk, hb, e.trans (congrArg Host.Outcome.next (if_neg (by simp [hp])))⟩,
    fun hp => ⟨n, e.trans (congrArg Host.Outcome.next (if_pos (by simp [hp])))⟩⟩

/-- RECOVER_DONE of a RECOVER whose sequence had stayed at step 1. -/
theorem execRecoverDone_held {s : State} {t macros : Nat} {fails : List BistFail} (hd : s.dev = .faulted)
    (hb : (s.reg rTallyRecovery).getLsbD 0 = true) (hr : s.bist.run = none) :
    exec (.recoverDone t ⟨macros, fails⟩) s = .next ((s.advance t).endRecovery 1 1) := by
  have hc : (s.dev == .faulted && bit (s.reg rTallyRecovery) 0) = true := by
    rw [hd]
    exact hb
  have ha : (s.advance t).bist.run = none := by
    obtain ⟨n, hn⟩ := s.advance_eq t
    rw [hn]
    exact hr
  refine congrArg Host.Outcome.next ((if_pos hc).trans ?_)
  beta_reduce
  generalize s.advance t = v at ha ⊢
  show (match v.bist.run with
    | some run => _
    | none => _) = _
  rw [ha]

/-- A die on and not isolated has its end of the Crosscut up once it is trained (R481). -/
theorem State.retrainXcut_up (s : State) (d : Die) (hp : (s.retrainXcut.die d).power = 2)
    (hi : (s.retrainXcut.die d).isolated = false) : (s.retrainXcut.die d).hubUp = true := by
  have up : ∀ x : DieState, x.power = 2 → x.isolated = false → (x.power == 2 && !x.isolated) = true := fun x h k => by
    rw [h, k]
    rfl
  cases d
  · exact up s.d0 hp hi
  · exact up s.d1 hp hi

/-- RECOVER_DONE that finds a die too hot gates it again and ends at step 2. -/
theorem execRecoverDone_hot {s : State} {t macros : Nat} {fails : List BistFail} {run : BistRun} (hd : s.dev = .faulted)
    (hw : s.sys.waitRec = true) (hb : (s.reg rTallyRecovery).getLsbD 0 = true) (hr : s.bist.run = some run) (hby : run.by_ = 2)
    (hhot : ∃ d, (s.die d).power = 1 ∧ 720 ≤ s.temp d) :
    ∃ u, exec (.recoverDone t ⟨macros, fails⟩) s = .next u ∧ RecoveryEnds 2 1 s u ∧ u.dev = .faulted ∧
      (∀ d, (s.die d).power = 1 → 720 ≤ s.temp d → (u.die d).power = 0 ∧ (u.die d).forced = true) ∧
      ∀ d, (s.die d).power = 1 → s.temp d < 720 → (u.die d).power = 2 := by
  have e := execRecoverDone_busy (t := t) (macros := macros) (fails := fails) hd hb hr hby
  obtain ⟨n, hn⟩ := s.advance_eq t
  rw [hn] at e
  have hany : ([Die.s0, Die.s1].filter ({ s with now := n } : State).tooHot).isEmpty = false := by
    obtain ⟨d, hp, ht⟩ := hhot
    have hmem : d ∈ [Die.s0, Die.s1].filter ({ s with now := n } : State).tooHot :=
      List.mem_filter.mpr ⟨by cases d <;> decide, (State.tooHot_iff _ d).mpr ⟨hp, ht⟩⟩
    exact List.isEmpty_eq_false_iff.mpr (List.ne_nil_of_mem hmem)
  rw [if_pos (by rw [hany]; rfl)] at e
  have hg := ({ s with now := n } : State).gateHot
  generalize ([Die.s0, Die.s1].filter ({ s with now := n } : State).tooHot).foldl (fun s d => s.forceOff d) { s with now := n } = g at hg e
  have hk := g.wakeDies_woken
  generalize g.wakeDies = v at hk e
  have hgv : RecoverWaits s v := (show RecoverWaits s g from
    ⟨hg.entry.1, hg.entry.2.1, hg.entry.2.2.trans hw⟩).of_sys (hk.frame.sys_eq (by decide) (by decide))
  obtain ⟨h1, h2, -⟩ := State.endRecovery_ends (step := 2) (result := 1) hgv (hk.frame.dep_eq.trans hg.frame.dep_eq) (by decide) (by decide)
  refine ⟨_, e, h1, (h2 .dev (by decide)).trans ((hk.frame .dev (by decide)).trans ((hg.frame .dev (by decide)).trans hd)),
    fun d hp ht => ?_, fun d hp ht => ?_⟩
  · obtain ⟨hoff, hforced⟩ := hg.off d ((State.tooHot_iff _ d).mpr ⟨hp, ht⟩)
    obtain ⟨h3, h4⟩ := hk.asleep d (by rw [hoff]; decide)
    rw [h2.die_eq d, h3, h4]
    exact ⟨hoff, hforced⟩
  · have hcool : ({ s with now := n } : State).tooHot d = false := Bool.eq_false_iff.mpr fun h =>
      absurd ((State.tooHot_iff _ d).mp h).2 (Nat.not_le.mpr ht)
    rw [h2.die_eq d]
    exact hk.woken d ((hg.cool d hcool).trans hp)

/-- RECOVER_DONE with no die too hot goes by what the self-test has left. -/
theorem execRecoverDone_cool {s : State} {t macros : Nat} {fails : List BistFail} {run : BistRun} (hd : s.dev = .faulted)
    (hb : (s.reg rTallyRecovery).getLsbD 0 = true) (hr : s.bist.run = some run) (hby : run.by_ = 2)
    (hcool : ∀ d, (s.die d).power = 1 → s.temp d < 720) :
    exec (.recoverDone t ⟨macros, fails⟩) s = .next
      (if !((s.advance t).afterSelfTest run macros fails).recoverable then
        ((s.advance t).afterSelfTest run macros fails).endRecovery 3 2
      else { ((s.advance t).afterSelfTest run macros fails).retrainXcut.endRecovery 5 0 with dev := .stopped }) := by
  have e := execRecoverDone_busy (t := t) (macros := macros) (fails := fails) hd hb hr hby
  obtain ⟨n, hn⟩ := s.advance_eq t
  have hnone : ([Die.s0, Die.s1].filter (s.advance t).tooHot).isEmpty = true := by
    rw [hn]
    exact List.isEmpty_iff.mpr (List.filter_eq_nil_iff.mpr fun d _ h =>
      absurd ((State.tooHot_iff _ d).mp h).2 (Nat.not_le.mpr (hcool d ((State.tooHot_iff _ d).mp h).1)))
  exact e.trans (congrArg Host.Outcome.next (if_neg (by rw [hnone]; decide)))

/-- The last step: STOPPED, with the Crosscut trained (R481). -/
theorem State.recovered_ends {s v : State} (hv : RecoverWaits s v) (hdep : v.dep = s.dep)
    (hreg : v.reg rTallyRecovery = s.reg rTallyRecovery) {u : State} (hu : u = { v.retrainXcut.endRecovery 5 0 with dev := .stopped }) :
    RecoveryEnds 5 0 s u ∧ u.dev = .stopped ∧ bits (u.reg rTallyRecovery) 31 16 = min 65535 (bits (s.reg rTallyRecovery) 31 16 + 1) ∧
      (∀ d, (u.die d).power = (v.die d).power) ∧ ∀ d, (u.die d).power = 2 → (u.die d).isolated = false → (u.die d).hubUp = true := by
  have px : ∀ d, (v.retrainXcut.die d).power = (v.die d).power := fun d => (v.retrainXcut_die d).1
  have ux := v.retrainXcut_up
  have rx : v.retrainXcut.reg rTallyRecovery = s.reg rTallyRecovery := hreg
  have hx : RecoverWaits s v.retrainXcut := hv.of_sys rfl
  have dx : v.retrainXcut.dep = s.dep := hdep
  generalize v.retrainXcut = x at px ux rx hx dx hu
  obtain ⟨h1, h2, h3⟩ := State.endRecovery_ends (step := 5) (result := 0) hx dx (by decide) (by decide)
  generalize x.endRecovery 5 0 = y at h1 h2 h3 hu
  obtain ⟨he, hs, htst, ho⟩ := h1
  subst hu
  refine ⟨⟨⟨he.queue, he.code, he.reason, he.seq, he.still⟩, hs, htst, ho⟩, rfl, ?_, fun d => ?_, fun d hp hi => ?_⟩
  · exact h3.trans (by rw [recoveries, if_pos rfl, rx])
  · exact (congrArg DieState.power (h2.die_eq d)).trans (px d)
  · have hy : y.die d = x.die d := h2.die_eq d
    exact (congrArg DieState.hubUp hy).trans
      (ux d ((congrArg DieState.power hy).symm.trans hp) ((congrArg DieState.isolated hy).symm.trans hi))

/-- Settles O23: the start of the sequence by its causes, its end by the step it reaches. -/
theorem recoverRunsTheSequence : Obligations.RecoverRunsTheSequence := by
  intro s t hd
  refine ⟨fun hh hw hp => ?_, fun hh hw hp => ?_, fun macros fails hh hw hb hr => ?_, fun macros fails run hh hw hb hr hby =>
    ⟨execRecoverDone_hot hd hw hb hr hby, fun hcool => ?_⟩⟩
  · obtain ⟨n, run, hk, hby, e⟩ := (recoverStarts s t hd hh hw).1 hp
    obtain ⟨h1, h2⟩ := bits_recoveryBusy (s.reg rTallyRecovery) (k := 3) (by decide)
    have hr : ((s.selfTesting n run).showStep s 3).reg rTallyRecovery = _ := State.reg_setReg _ _ _
    refine ⟨_, e, rfl, hd, ⟨run, rfl, hk, hby⟩, by rwa [hr], by rwa [hr], fun d hf => ?_, rfl, rfl, rfl, rfl, rfl⟩
    cases d <;> exact if_pos hf
  · obtain ⟨n, e⟩ := (recoverStarts s t hd hh hw).2 hp
    obtain ⟨h1, h2⟩ := bits_recoveryBusy (s.reg rTallyRecovery) (k := 1) (by decide)
    have hr : ((s.recovering n).showStep s 1).reg rTallyRecovery = _ := State.reg_setReg _ _ _
    exact ⟨_, e, rfl, hd, rfl, rfl, rfl, by rwa [hr], by rwa [hr]⟩
  · have e := execRecoverDone_held (t := t) (macros := macros) (fails := fails) hd hb hr
    obtain ⟨n, hn⟩ := s.advance_eq t
    rw [hn] at e
    have hv : RecoverWaits s { s with now := n } := ⟨rfl, rfl, hw⟩
    obtain ⟨h1, h2, -⟩ := State.endRecovery_ends (step := 1) (result := 1) hv rfl (by decide) (by decide)
    exact ⟨_, e, h1, (h2 .dev (by decide)).trans hd, h2.die_eq .s0, h2.die_eq .s1, h2 .mem (by decide)⟩
  · have e := execRecoverDone_cool (t := t) (macros := macros) (fails := fails) hd hb hr hby hcool
    have ht := (s.advance t).afterSelfTest_tested run macros fails
    generalize (s.advance t).afterSelfTest run macros fails = v at ht e ⊢
    obtain ⟨n, hn⟩ := s.advance_eq t
    rw [hn] at ht
    have hv : RecoverWaits s v := (show RecoverWaits s { s with now := n } from ⟨rfl, rfl, hw⟩).of_sys (ht.frame.sys_eq (by decide) (by decide))
    refine ⟨fun hrec => ?_, fun hrec => ?_⟩
    · rw [if_pos (by rw [hrec]; rfl)] at e
      obtain ⟨h1, h2, -⟩ := State.endRecovery_ends (step := 3) (result := 2) hv ht.frame.dep_eq (by decide) (by decide)
      exact ⟨_, e, h1, (h2 .dev (by decide)).trans ((ht.frame .dev (by decide)).trans hd)⟩
    · rw [if_neg (by rw [hrec]; decide)] at e
      obtain ⟨h1, h2, h3, h4, h5⟩ := State.recovered_ends hv ht.frame.dep_eq (ht.recovery _ rfl) rfl
      exact ⟨_, e, h1, h2, h3, fun d hp => (h4 d).trans (ht.woken d hp), h5⟩

end Sys2Proof.Machine

namespace Sys2Proof.Machine
open Sys2Proof

/-! ### What a function-level reset has set, kept through the end of a run (R375) -/

/-- The registers that a function-level reset gives a value to: those of the HOST and HAUL blocks and the dies' DRAM status. -/
abbrev flrRegs (o : Nat) : Prop := inHostBlocks o = true ∨ o = rDmcStatus .s0 ∨ o = rDmcStatus .s1

/-- The function's state, the chains and queues of its channels and the registers that its reset gives a value to, as in `z`. -/
structure FunctionKept (z s : State) : Prop where
  host : s.host.up = z.host.up ∧ s.host.d3 = z.host.d3 ∧ s.host.mask = z.host.mask
  chans : ∀ ch, (s.chan ch).chain = (z.chan ch).chain ∧ (s.chan ch).queue = (z.chan ch).queue
  regs : RegsKept flrRegs z s

namespace FunctionKept
variable {z s t : State}

theorem refl (s : State) : FunctionKept s s := ⟨⟨rfl, rfl, rfl⟩, fun _ => ⟨rfl, rfl⟩, RegsKept.refl s⟩

theorem trans (h : FunctionKept z s) (k : FunctionKept s t) : FunctionKept z t :=
  ⟨⟨k.host.1.trans h.host.1, k.host.2.1.trans h.host.2.1, k.host.2.2.trans h.host.2.2⟩,
    fun ch => ⟨(k.chans ch).1.trans (h.chans ch).1, (k.chans ch).2.trans (h.chans ch).2⟩, h.regs.trans k.regs⟩

/-- A change of other registers alone, and of no function and no channel. -/
theorem of_regs (hs : FunctionKept z s) (hh : t.host = s.host) (hc : t.chans = s.chans) (hr : RegsKept flrRegs s t) : FunctionKept z t :=
  hs.trans ⟨by rw [hh]; exact ⟨rfl, rfl, rfl⟩, fun ch => by unfold State.chan; rw [hc]; exact ⟨rfl, rfl⟩, hr⟩

theorem framed {ps : List Part} (hs : FunctionKept z s) (h : Framed ps s t)
    (hp : Part.regs ∉ ps ∧ Part.host ∉ ps ∧ Part.chans ∉ ps := by decide) : FunctionKept z t :=
  hs.of_regs (h .host hp.2.1) (h .chans hp.2.2) ((RegsKept.refl s).framed h hp.1)

theorem setReg {o : Nat} (ho : ¬ flrRegs o) (v : Word) (hs : FunctionKept z s) : FunctionKept z (s.setReg o v) :=
  hs.of_regs rfl rfl ((RegsKept.refl s).setReg ho v)

theorem event {o : Nat} (ho : ¬ flrRegs o) (n : Nat) (hs : FunctionKept z s) : FunctionKept z (s.event o n) := hs.setReg ho _

theorem count {o : Nat} (ho : ¬ flrRegs o) (n : Nat) (hs : FunctionKept z s) : FunctionKept z (s.count o n) := hs.setReg ho _

theorem setField {o : Nat} (ho : ¬ flrRegs o) (hi lo v : Nat) (hs : FunctionKept z s) : FunctionKept z (s.setField o hi lo v) :=
  hs.setReg ho _

theorem setDie (d : Die) (x : DieState) (hs : FunctionKept z s) : FunctionKept z (s.setDie d x) :=
  hs.of_regs (by cases d <;> rfl) (by cases d <;> rfl) ((RegsKept.refl s).setDie d x)

theorem when {c : Bool} {f : State → State} (hs : FunctionKept z s) (hf : FunctionKept z (f s)) : FunctionKept z (s.when c f) := by
  unfold State.when
  split
  · exact hf
  · exact hs

theorem irq (v : Nat) (hs : FunctionKept z s) : FunctionKept z (s.irq v) := by
  have hr : RegsKept flrRegs s (s.irq v) := (RegsKept.refl s).irq v
  refine hs.trans ⟨?_, fun ch => ?_, hr⟩
  · unfold State.irq
    split_ifs <;> exact ⟨rfl, rfl, rfl⟩
  · unfold State.irq
    split_ifs <;> exact ⟨rfl, rfl⟩

theorem tallyPush (sev code source : Nat) (data : List Byte) (hs : FunctionKept z s) : FunctionKept z (s.tallyPush sev code source data) := by
  unfold State.tallyPush
  extract_lets t e s1 s2 high s3
  have h1 : FunctionKept z s1 := hs.of_regs rfl rfl ((RegsKept.refl s).of_regs rfl)
  have h2 : FunctionKept z s2 := by
    show FunctionKept z (if sev = 1 then _ else if sev = 2 then _ else _)
    split_ifs
    · exact h1.event (by decide) _
    · exact h1.event (by decide) _
    · exact h1
  have h3 : FunctionKept z s3 := by
    show FunctionKept z (if high = true then _ else _)
    split_ifs
    · exact h2.event (by decide) _
    · exact h2
  split_ifs
  · exact h3.irq 4
  · exact h3

theorem tallyReport (hs : FunctionKept z s) : FunctionKept z s.tallyReport := by
  unfold State.tallyReport
  split
  split_ifs
  · exact hs
  · exact (hs.of_regs (t := { s with tally := { s.tally with supp := (0, 0, 0) } }) rfl rfl ((RegsKept.refl s).of_regs rfl)).tallyPush _ _ _ _

theorem stage (sev code source : Nat) (data : List Byte) (hs : FunctionKept z s) : FunctionKept z (s.stage sev code source data) := by
  have lost : ∀ v, FunctionKept z v → FunctionKept z v.tallyLost := fun v hv =>
    (FunctionKept.event (s := { v with tally := { v.tally with lost := v.tally.lost + 1 } }) (by decide) 3
      (hv.of_regs rfl rfl ((RegsKept.refl v).of_regs rfl))).count (by decide) 1
  have spend : ∀ v, FunctionKept z v → FunctionKept z (v.spendToken sev) := fun v hv => by
    unfold State.spendToken
    split_ifs
    · exact hv.of_regs rfl rfl ((RegsKept.refl v).of_regs rfl)
    · exact hv
  have sort : ∀ v, FunctionKept z v → FunctionKept z v.sortTally := fun v hv => by
    unfold State.sortTally
    split_ifs
    · exact hv.of_regs rfl rfl ((RegsKept.refl v).of_regs rfl)
    · exact hv
  unfold State.stage
  extract_lets v
  split_ifs
  · exact lost _ hs
  · exact lost _ hs.tallyReport
  · exact sort _ ((spend _ hs.tallyReport).tallyPush _ _ _ _)

theorem log (sev code source : Nat) (data : List Byte) (hs : FunctionKept z s) : FunctionKept z (s.log sev code source data) := by
  unfold State.log
  extract_lets t
  split_ifs
  · split
    rename_i n a b _
    exact (FunctionKept.event (s := { s with tally := { t with supp := (n + 1, if n = 0 then code else a, code) } }) (by decide) 2
      (hs.of_regs rfl rfl ((RegsKept.refl s).of_regs rfl))).count (by decide) 1
  · exact hs.stage _ _ _ _

theorem chargeWaits (d : Die) (hs : FunctionKept z s) : FunctionKept z (s.chargeWaits d) := by
  unfold State.chargeWaits
  extract_lets x pages o s1 s2
  have h1 : FunctionKept z s1 := hs.setDie d _
  have h2 : FunctionKept z s2 := h1.when ((h1.event (by cases d <;> decide) _).count (by cases d <;> decide) _)
  exact h2.when ((h2.event (by cases d <;> decide) _).count (by cases d <;> decide) _)

theorem stopWork (hs : FunctionKept z s) : FunctionKept z s.stopWork := by
  unfold State.stopWork
  extract_lets v
  have h : FunctionKept z ((s.chargeWaits .s0).chargeWaits .s1).dropTickOps :=
    ((hs.chargeWaits .s0).chargeWaits .s1).framed (State.dropTickOps_framed (List.Subset.refl _) (Framed.refl _))
  have hv : FunctionKept z v := (h.setReg (by decide) _).setReg (by decide) _
  clear_value v
  exact hv.of_regs rfl rfl ((RegsKept.refl v).of_regs rfl)

/-- Another record offered to a channel leaves its chain and its queue. -/
theorem mapFeeds (i : Nat) (f : Chan → Chan) (hf : ∀ c, (f c).chain = c.chain ∧ (f c).queue = c.queue) (hs : FunctionKept z s) :
    FunctionKept z (s.mapChan i f) := by
  have key : ∀ (i : Nat) (l : List Chan) (ch : Nat), ((modifyD Chan.idle f i l).getD ch Chan.idle).chain = (l.getD ch Chan.idle).chain ∧
      ((modifyD Chan.idle f i l).getD ch Chan.idle).queue = (l.getD ch Chan.idle).queue := by
    intro i
    induction i with
    | zero =>
      intro l ch
      cases l <;> cases ch <;> first | exact hf _ | exact ⟨rfl, rfl⟩
    | succ i ih =>
      intro l ch
      cases l with
      | nil =>
        cases ch with
        | zero => exact ⟨rfl, rfl⟩
        | succ ch => exact ih [] ch
      | cons c l =>
        cases ch with
        | zero => exact ⟨rfl, rfl⟩
        | succ ch => exact ih l ch
  exact hs.trans ⟨⟨rfl, rfl, rfl⟩, fun ch => key i s.chans ch, (RegsKept.refl s).of_regs rfl⟩

theorem formRecord (b : RecordBody) (hs : FunctionKept z s) : FunctionKept z (s.formRecord b) := by
  unfold State.formRecord
  extract_lets bytes s1 p s2 s3 d
  have h1 : FunctionKept z s1 := hs.setField (by decide) _ _ _
  have h2 : FunctionKept z s2 := h1.of_regs rfl rfl ((RegsKept.refl s1).of_regs rfl)
  clear_value s2
  have h3 : FunctionKept z s3 := h2.mapFeeds _ _ fun _ => ⟨rfl, rfl⟩
  clear_value s3
  exact h3.of_regs rfl rfl ((RegsKept.refl s3).of_regs rfl)

theorem writeInvalid (code : Nat) (hs : FunctionKept z s) : FunctionKept z (s.writeInvalid code) := by
  have hi : FunctionKept z (s.invalid code) := by
    obtain ⟨at_, e⟩ := s.invalid_eq code
    rw [e]
    exact hs.of_regs rfl rfl ((RegsKept.refl s).of_regs rfl)
  exact ((hi.formRecord _).setField (by decide) _ _ _).setField (by decide) _ _ _

theorem publish (verdict reason sample : Nat) (record : Option (List Byte)) (hs : FunctionKept z s) :
    FunctionKept z (s.publish verdict reason sample record) := by
  unfold State.publish
  extract_lets id crc k v d run x s1 s2 validFail s3
  have h1 : FunctionKept z s1 := hs.of_regs rfl rfl ((RegsKept.refl s).of_regs rfl)
  clear_value s1
  have h2 : FunctionKept z s2 := by
    show FunctionKept z (if verdict = 1 then _ else if verdict = 2 then _ else _)
    split_ifs
    · exact (h1.count (by decide) _).framed (State.emit_framed (List.Subset.refl _) (Framed.refl _))
    · exact (h1.count (by decide) _).event (by decide) _
    · exact h1.event (by decide) _
  clear_value s2
  have h3 : FunctionKept z s3 := by
    show FunctionKept z (if validFail = true then _ else _)
    split_ifs
    · exact h2.log _ _ _ _
    · exact h2
  exact h3.irq 3

theorem abandonTick (hs : FunctionKept z s) : FunctionKept z s.abandonTick := by
  unfold State.abandonTick
  split_ifs
  · exact (hs.stopWork.writeInvalid _).publish _ _ _ _
  · exact hs.stopWork.publish _ _ _ _
  · exact hs

theorem leaveRunning (d : Dev) (hs : FunctionKept z s) : FunctionKept z (s.leaveRunning d) := hs.framed (s.leaveRunning_frame d)

theorem enterSafe (cause : Nat) (hs : FunctionKept z s) : FunctionKept z (s.enterSafe cause) := by
  unfold State.enterSafe
  split_ifs
  · exact hs
  · unfold State.lowerCause
    split_ifs
    · exact hs.of_regs rfl rfl ((RegsKept.refl s).of_regs rfl)
    · exact hs
  · extract_lets x s1 s2 s3 s4
    have h1 : FunctionKept z s1 := hs.of_regs rfl rfl ((RegsKept.refl s).of_regs rfl)
    clear_value s1
    have h2 : FunctionKept z s2 := ((h1.setReg (by decide) _).setReg (by decide) _).event (by decide) _
    clear_value s2
    exact (((h2.log _ _ _ _).abandonTick.leaveRunning _).irq 0).irq 3

end FunctionKept

end Sys2Proof.Machine

namespace Sys2Proof.Machine
open Sys2Proof

/-! ### Self-refresh with D3hot (R373) -/

/-- The controllers of the powered dies put into or out of self-refresh. -/
def State.refreshPowered (s : State) (on : Bool) : State := s.poweredDies.foldl (fun s d => s.selfRefresh d on) s

theorem State.selfRefresh_bit (s : State) (d : Die) (on : Bool) : ((s.selfRefresh d on).reg (rDmcStatus d)).getLsbD 1 = on := by
  unfold State.selfRefresh
  rw [State.getLsbD_setField _ _ (by decide), if_pos (by decide)]
  cases on <;> rfl

theorem State.selfRefresh_other (s : State) (d : Die) (on : Bool) {o : Nat} (h : o ≠ rDmcStatus d) :
    (s.selfRefresh d on).reg o = s.reg o := State.reg_setReg_ne _ _ h

theorem State.refreshPowered_frame (s : State) (on : Bool) : Framed [.regs] s (s.refreshPowered on) :=
  Framed.foldl (Framed.refl s) fun _ ht _ => State.selfRefresh_framed (List.Subset.refl _) ht

/-- Each powered die's controller shows what was asked of it. -/
theorem State.refreshPowered_bit (s : State) (on : Bool) (d : Die) (hp : (s.die d).power = 2) :
    ((s.refreshPowered on).reg (rDmcStatus d)).getLsbD 1 = on := by
  unfold State.refreshPowered State.poweredDies
  rw [foldl_filter_dies]
  unfold State.when
  have hc : ((s.die d).power == 2) = true := beq_iff_eq.mpr hp
  cases d
  · rw [if_pos hc]
    split
    · rw [State.selfRefresh_other _ _ _ (by decide)]
      exact State.selfRefresh_bit _ _ _
    · exact State.selfRefresh_bit _ _ _
  · rw [if_pos hc]
    exact State.selfRefresh_bit _ _ _

theorem d3hotIsEnteredInStopped : Statements.D3hotIsEnteredInStopped := by
  intro s
  refine ⟨fun hd => ?_, fun hd => congrArg Host.Outcome.next (if_neg hd), fun h3 => ?_, fun h3 => congrArg Host.Outcome.next (if_neg (by simp [h3]))⟩
  · have e : exec .d3hot s = .next (({ s with host := { s.host with d3 := true } } : State).refreshPowered true) :=
      congrArg Host.Outcome.next (if_pos hd)
    have f := ({ s with host := { s.host with d3 := true } } : State).refreshPowered_frame true
    exact ⟨_, e, f .host (by decide), (f .dev (by decide)).trans hd, f .mem (by decide), f .world (by decide),
      fun d hp => State.refreshPowered_bit { s with host := { s.host with d3 := true } } true d hp⟩
  · have e : exec .d0Return s = .next (({ s with host := { s.host with d3 := false } } : State).refreshPowered false) :=
      congrArg Host.Outcome.next (if_pos h3)
    have f := ({ s with host := { s.host with d3 := false } } : State).refreshPowered_frame false
    exact ⟨_, e, f .host (by decide), f .dev (by decide), f .mem (by decide),
      fun d hp => State.refreshPowered_bit { s with host := { s.host with d3 := false } } false d hp⟩

/-! ### The function-level reset (R375) -/

/-- A load that a reset meets ends (R320); with none in progress nothing changes. -/
theorem State.abortLoad_done (s : State) (step : Nat) : (s.abortLoad step).loading = none ∧ (s.loading = none → s.abortLoad step = s) := by
  unfold State.abortLoad
  cases h : s.loading with
  | none => exact ⟨h, fun _ => rfl⟩
  | some l =>
    refine ⟨?_, nofun⟩
    dsimp only
    split
    · split <;> rfl
    · rfl

/-- What a function-level reset leaves the function, its channels and the command interface. -/
structure FunctionReset (s w : State) : Prop where
  sys : w.sys = { s.sys with queue := [], waitEdge := false, waitSave := false, waitRec := false }
  pending : w.sh = []
  host : w.host = { HostPort.reset with up := s.host.up }
  chans : ∀ ch, (w.chan ch).chain = none ∧ (w.chan ch).queue = []
  regs : ∀ o, inHostBlocks o = true → w.reg o = regReset o
  refresh : s.host.d3 = true → ∀ d, (s.die d).power = 2 → (w.reg (rDmcStatus d)).getLsbD 1 = false
  frame : Framed [.regs, .latches, .sh, .badRegs, .queue, .sys, .world, .chans, .host, .kl, .dep, .out] s w

theorem State.resetFunction_reset (s : State) : FunctionReset s s.resetFunction := by
  have hf : Framed [.regs, .latches, .sh, .badRegs, .queue, .sys, .world, .chans, .host, .kl, .dep, .out] s s.resetFunction :=
    State.resetFunction_framed (List.Subset.refl _) (Framed.refl s)
  have hm : Framed [.badRegs, .dep] s (s.mend fun b => inHostBlocks b.off || b.pending) := State.mend_framed (List.Subset.refl _) (Framed.refl s)
  obtain ⟨m, v, w, gone, em, hv, e, hregs, hsys, hsh, hhost, hchans⟩ : ∃ (m v w : State) (gone : RemoteOp → Bool),
      m = s.mend (fun b => inHostBlocks b.off || b.pending) ∧ v = m.when m.host.d3 (fun s => s.refreshPowered false) ∧
      s.resetFunction = w.dropOps gone ∧ (w.regs = v.regs.filter fun r => !inHostBlocks r.1) ∧
      w.sys = { v.sys with queue := [], waitEdge := false, waitSave := false, waitRec := false } ∧ w.sh = [] ∧
      w.host = { HostPort.reset with up := v.host.up } ∧ w.chans = v.chans.map fun c => { Chan.idle with feeds := c.feeds } := by
    exact ⟨_, _, _, _, rfl, rfl, rfl, rfl, rfl, rfl, rfl, rfl⟩
  rw [← em] at hm
  have fv : Framed [.regs, .badRegs, .dep] s v := by
    rw [hv]
    exact State.when_framed (hm.mono (by decide)) fun t ht => ht.trans ((t.refreshPowered_frame false).mono (by decide))
  have fw : Framed [.kl, .out] w (w.dropOps gone) := State.dropOps_framed (List.Subset.refl _) (Framed.refl w)
  rw [e] at hf ⊢
  have hreg : ∀ o, (w.dropOps gone).reg o = if (!inHostBlocks o) = true then v.reg o else regReset o := fun o =>
    (State.reg_of_regs (fw .regs (by decide)) o).trans (State.reg_of_filter (p := fun o => !inHostBlocks o) hregs o)
  refine ⟨?_, (fw .sh (by decide)).trans hsh, ?_, fun ch => ?_, fun o ho => ?_, fun h3 d hp => ?_, hf⟩
  · rw [fw.sys_eq (by decide) (by decide), hsys, fv.sys_eq (by decide) (by decide)]
  · rw [show (w.dropOps gone).host = w.host from fw .host (by decide), hhost, show v.host = s.host from fv .host (by decide)]
  · unfold State.chan
    rw [show (w.dropOps gone).chans = w.chans from fw .chans (by decide), hchans, List.getD_eq_getElem?_getD, List.getElem?_map]
    cases v.chans[ch]? <;> exact ⟨rfl, rfl⟩
  · rw [hreg, ho]
    rfl
  · have hb : (!inHostBlocks (rDmcStatus d)) = true := by cases d <;> decide
    rw [hreg, if_pos hb, hv, State.when, if_pos (by rw [show m.host = s.host from hm .host (by decide)]; exact h3)]
    exact State.refreshPowered_bit _ false d (by rw [hm.die_eq]; exact hp)

/-- The state that a function-level reset leaves, with the run of the device state still to end. -/
def State.afterFlr (s : State) (step : Nat) : State :=
  (((s.abortLoad step).resetFunction.event rHostEvents 1).setField rTallySaveStatus 0 0 0).log note 0x0600 (tallySource 0 0xB 0)
    (leBytes 1 s.dev.code)

/-- The end of the run in the device state that the reset has met. -/
def State.endFlr (w : State) : Dev → State
  | .hold => w.leaveRunning .stopped
  | .running => w.enterSafe causeFlr
  | _ => w

theorem execFlr_eq (s : State) (t step : Nat) {d : Dev} (hd : (s.advance t).dev = d) :
    exec (.flr t step) s = .next (((s.advance t).afterFlr step).endFlr d) := by
  subst hd
  show execFlr t step s = _
  unfold execFlr
  extract_lets v was w1 w
  have hw : w = v.afterFlr step := rfl
  refine congrArg Host.Outcome.next ?_
  rw [show (s.advance t).afterFlr step = w from hw.symm, show (s.advance t).dev = was from rfl]
  clear_value w was
  cases was <;> rfl

/-- What stands once the function is reset and through the end of a run. -/
structure FlrDone (s u : State) : Prop where
  queue : u.sys.queue = []
  pending : u.sh = []
  host : u.host.d3 = false ∧ u.host.up = s.host.up ∧ u.host.mask = BitVec.allOnes 64
  loading : u.loading = none
  chans : ∀ ch, ch < 140 → (u.chan ch).chain = none ∧ (u.chan ch).queue = []
  regs : ∀ o, inHostBlocks o = true → o ≠ rHostEvents → u.reg o = regReset o
  event : (u.reg rHostEvents).getLsbD 1 = true
  refresh : s.host.d3 = true → ∀ d, (s.die d).power = 2 → (u.reg (rDmcStatus d)).getLsbD 1 = false
  image : u.image = s.image
  sec : u.sec = s.sec
  mem : s.loading = none → u.mem = s.mem ∧ u.damaged = s.damaged

/-- The end of a run keeps what the function's reset has done. -/
theorem FlrDone.kept {s w u : State} {ps : List Part} (h : FlrDone s w) (k : FunctionKept w u) (hq : u.sys = w.sys) (f : Framed ps w u)
    (hp : Part.sh ∉ ps ∧ Part.loading ∉ ps ∧ Part.image ∉ ps ∧ Part.sec ∉ ps ∧ Part.mem ∉ ps ∧ Part.damaged ∉ ps := by decide) :
    FlrDone s u := by
  obtain ⟨p1, p2, p3, p4, p5, p6⟩ := hp
  obtain ⟨k1, k2, k3⟩ := k.host
  obtain ⟨h1, h2, h3⟩ := h.host
  refine ⟨by rw [hq]; exact h.queue, (f .sh p1).trans h.pending, ⟨k2.trans h1, k1.trans h2, k3.trans h3⟩, (f .loading p2).trans h.loading,
    fun ch hc => ⟨(k.chans ch).1.trans (h.chans ch hc).1, (k.chans ch).2.trans (h.chans ch hc).2⟩,
    fun o ho hne => (k.regs o (.inl ho)).trans (h.regs o ho hne), ?_, fun h3 d hp => ?_, (f .image p3).trans h.image, (f .sec p4).trans h.sec,
    fun hl => ⟨(f .mem p5).trans (h.mem hl).1, (f .damaged p6).trans (h.mem hl).2⟩⟩
  · rw [k.regs _ (.inl (by decide))]
    exact h.event
  · rw [k.regs _ (.inr (by cases d <;> simp))]
    exact h.refresh h3 d hp

/-- The function reset, its load ended, its event shown and told to the log. -/
theorem State.afterFlr_done (s : State) (step : Nat) : FlrDone s (s.afterFlr step) ∧
    Framed [.free, .regs, .mem, .slices, .damaged, .loading, .latches, .sh, .badRegs, .queue, .sys, .world, .chans, .host, .kl, .dep, .tally, .out]
      s (s.afterFlr step) ∧ (s.afterFlr step).sys.waitEdge = false ∧ (s.afterFlr step).sys.inReset = s.sys.inReset := by
  unfold State.afterFlr
  obtain ⟨hl, hnone⟩ := s.abortLoad_done step
  have fa : Framed [.free, .regs, .mem, .slices, .damaged, .loading] s (s.abortLoad step) :=
    State.abortLoad_framed (List.Subset.refl _) (Framed.refl s)
  generalize s.abortLoad step = a at hl hnone fa ⊢
  have hr := a.resetFunction_reset
  generalize a.resetFunction = r at hr ⊢
  have asys : a.sys = s.sys := fa.sys_eq (by decide) (by decide)
  have apow : ∀ d, (a.die d).power = (s.die d).power := fun d => (((PowerKept.refl s).framed fa) d).1
  have ahost : a.host = s.host := fa .host (by decide)
  -- the event and the flag of a save
  have fe : Framed [.regs] r ((r.event rHostEvents 1).setField rTallySaveStatus 0 0 0) :=
    State.setField_framed (List.Subset.refl _) (State.event_framed (List.Subset.refl _) (Framed.refl r))
  have ev : (((r.event rHostEvents 1).setField rTallySaveStatus 0 0 0).reg rHostEvents).getLsbD 1 = true := by
    rw [show ((r.event rHostEvents 1).setField rTallySaveStatus 0 0 0).reg rHostEvents = (r.event rHostEvents 1).reg rHostEvents from
      State.reg_setReg_ne _ _ (by decide)]
    exact State.event_bit _ _ (by decide)
  have er : ∀ o, o ≠ rHostEvents → o ≠ rTallySaveStatus → ((r.event rHostEvents 1).setField rTallySaveStatus 0 0 0).reg o = r.reg o :=
    fun o h1 h2 => (State.reg_setReg_ne _ _ h2).trans (State.reg_setReg_ne _ _ h1)
  generalize (r.event rHostEvents 1).setField rTallySaveStatus 0 0 0 = v at fe ev er ⊢
  have vsys : v.sys = r.sys := fe.sys_eq (by decide) (by decide)
  have vhost : v.host = r.host := fe .host (by decide)
  have fr : Framed [.free, .regs, .mem, .slices, .damaged, .loading, .latches, .sh, .badRegs, .queue, .sys, .world, .chans, .host, .kl, .dep,
      .tally, .out] s v := (fa.mono (by decide)).trans ((hr.frame.mono (by decide)).trans (fe.mono (by decide)))
  have hv : FlrDone s v := by
    refine ⟨by rw [vsys, hr.sys], (fe .sh (by decide)).trans hr.pending, ?_, ?_, fun ch _ => ?_, fun o ho hne => ?_, ev, fun h3 d hp => ?_,
      fr .image (by decide), fr .sec (by decide), fun h => ?_⟩
    · rw [vhost, hr.host, ahost]
      exact ⟨rfl, rfl, rfl⟩
    · exact (fe .loading (by decide)).trans ((hr.frame .loading (by decide)).trans hl)
    · unfold State.chan
      rw [show v.chans = r.chans from fe .chans (by decide)]
      exact hr.chans ch
    · rw [er o hne (by rintro rfl; revert ho; decide)]
      exact hr.regs o ho
    · rw [er _ (by cases d <;> decide) (by cases d <;> decide)]
      exact hr.refresh (by rw [ahost]; exact h3) d ((apow d).trans hp)
    · have hav : Framed [.regs, .latches, .sh, .badRegs, .queue, .sys, .world, .chans, .host, .kl, .dep, .out] a v :=
        hr.frame.trans (fe.mono (by decide))
      rw [hnone h] at hav
      exact ⟨hav .mem (by decide), hav .damaged (by decide)⟩
  have fl : Framed [.regs, .host, .tally, .out] v (v.log note 0x0600 (tallySource 0 0xB 0) (leBytes 1 s.dev.code)) :=
    State.log_framed (List.Subset.refl _) (Framed.refl v)
  have lsys := fl.sys_eq (by decide) (by decide)
  refine ⟨hv.kept ((FunctionKept.refl v).log _ _ _ _) lsys fl, fr.trans (fl.mono (by decide)), ?_, ?_⟩
  · rw [lsys, vsys, hr.sys]
  · rw [lsys, vsys, hr.sys, asys]

/-- A function-level reset by the device state that it meets. -/
theorem execFlr_done (s : State) (t step : Nat) (hreset : s.sys.inReset = false) :
    ∃ u, exec (.flr t step) s = .next u ∧ FlrDone s u ∧ (s.dev = .running → u.dev = .faulted ∧ u.dep.cause = 9 ∧ u.dep.safe = true) ∧
      (s.dev = .hold → u.dev = .stopped) ∧
      (s.dev ≠ .running → s.dev ≠ .hold → u.dev = s.dev ∧ u.tick = s.tick ∧ u.dep.safe = s.dep.safe) := by
  obtain ⟨n, hn⟩ := s.advance_eq t
  have e := execFlr_eq s t step (d := s.dev) (by rw [hn])
  rw [hn] at e
  obtain ⟨hd, hf, hw, hin⟩ := ({ s with now := n } : State).afterFlr_done step
  have hdone : FlrDone s (({ s with now := n } : State).afterFlr step) :=
    ⟨hd.queue, hd.pending, hd.host, hd.loading, hd.chans, hd.regs, hd.event, hd.refresh, hd.image, hd.sec, hd.mem⟩
  generalize ({ s with now := n } : State).afterFlr step = w at hf hw hin hdone e
  have hdev : w.dev = s.dev := hf .dev (by decide)
  by_cases hrun : s.dev = .running
  · rw [hrun] at e
    have hs := State.enterSafe_entered (s := w) (cause := causeFlr) (hin.trans hreset) (by rw [hdev, hrun]; decide) hw
    have fs : Framed [.dev, .regs, .queue, .sys, .tick, .plan, .dies, .chans, .host, .kl, .safe, .dep, .tally, .out] w (w.enterSafe causeFlr) :=
      State.enterSafe_framed (List.Subset.refl _) (Framed.refl w)
    exact ⟨w.enterSafe causeFlr, e, hdone.kept ((FunctionKept.refl w).enterSafe _) hs.sys fs, fun _ => ⟨hs.dev, hs.cause, hs.safe⟩,
      fun h => absurd (hrun.symm.trans h) (by decide), fun h => absurd hrun h⟩
  · by_cases hhold : s.dev = .hold
    · rw [hhold] at e
      obtain ⟨hy, hst⟩ := State.leaveRunning_unwaited (s := w) (d := .stopped) hw
      exact ⟨w.leaveRunning .stopped, e, hdone.kept ((FunctionKept.refl w).leaveRunning _) hy (w.leaveRunning_frame .stopped),
        fun h => absurd h hrun, fun _ => hst, fun _ h => absurd hhold h⟩
    · have he : w.endFlr s.dev = w := by
        unfold State.endFlr
        split
        · exact absurd ‹s.dev = .hold› hhold
        · exact absurd ‹s.dev = .running› hrun
        · rfl
      exact ⟨w, by rw [e, he], hdone, fun h => absurd h hrun, fun h => absurd h hhold,
        fun _ _ => ⟨hdev, hf .tick (by decide), hf .safe (by decide)⟩⟩

theorem functionLevelResetByState : Statements.FunctionLevelResetByState := by
  intro s t step hreset
  obtain ⟨u, e, hu, hrun, hhold, hrest⟩ := execFlr_done s t step hreset
  obtain ⟨h3, hup, hmask⟩ := hu.host
  exact ⟨u, e, hu.queue, hu.pending, h3, hup, hmask, hu.loading, hu.chans, hu.regs, hu.event, hu.refresh, hrun, hhold, hrest,
    hu.image, hu.sec, hu.mem⟩

/-- Settles O27: D3hot by its states, the function-level reset by what it resets and what the end of a run keeps of it. -/
theorem functionStatesAndReset : Obligations.FunctionStatesAndReset := ⟨d3hotIsEnteredInStopped, functionLevelResetByState⟩

end Sys2Proof.Machine

namespace Sys2Proof.Machine
open Sys2Proof

/-! ### Tasks that enter their lists (R325) -/

/-- What tasks that enter leave of a die: the heap and the rounds, what has ended and what runs; entries and arrivals only grow. -/
structure TasksEnter (x y : DieState) : Prop where
  heap : y.heap = x.heap
  rounds : y.rounds = x.rounds
  roundOn : y.roundOn = x.roundOn
  survs : y.survs = x.survs
  done : y.ovm.done = x.ovm.done
  running : y.ovm.running = x.ovm.running
  entered : ∀ k, k ∈ x.ovm.entered → k ∈ y.ovm.entered
  arrived : ∀ k, x.ovm.arrived k ≤ y.ovm.arrived k

/-- Tasks enter on the dies, and nothing else happens there. -/
def Entering (z s : State) : Prop := ∀ d, TasksEnter (z.die d) (s.die d)

theorem TasksEnter.refl (x : DieState) : TasksEnter x x := ⟨rfl, rfl, rfl, rfl, rfl, rfl, fun _ h => h, fun _ => le_rfl⟩

theorem TasksEnter.trans {x y w : DieState} (h : TasksEnter x y) (k : TasksEnter y w) : TasksEnter x w :=
  ⟨k.heap.trans h.heap, k.rounds.trans h.rounds, k.roundOn.trans h.roundOn, k.survs.trans h.survs, k.done.trans h.done, k.running.trans h.running,
    fun t ht => k.entered t (h.entered t ht), fun t => (h.arrived t).trans (k.arrived t)⟩

namespace Entering
variable {z s t : State}

theorem refl (s : State) : Entering s s := fun _ => TasksEnter.refl _

theorem trans (h : Entering z s) (k : Entering s t) : Entering z t := fun d => (h d).trans (k d)

/-- An operation that touches the dies at most in their slices. -/
theorem framed {ps : List Part} (hs : Entering z s) (h : Framed ps s t) (hp : Part.dies ∉ ps := by decide) : Entering z t := by
  refine hs.trans fun d => ?_
  have k : ({ t.die d with sliceOv := [] } : DieState) = { s.die d with sliceOv := [] } := by
    obtain ⟨h0, h1⟩ := h .dies hp
    cases d
    · exact h0
    · exact h1
  have ho : (t.die d).ovm = (s.die d).ovm := (congrArg DieState.ovm k :)
  exact ⟨(congrArg DieState.heap k :), (congrArg DieState.rounds k :), (congrArg DieState.roundOn k :), (congrArg DieState.survs k :), by rw [ho], by rw [ho],
    fun _ h => by rw [ho]; exact h, fun _ => by rw [ho]⟩

theorem setDie (d : Die) {x : DieState} (hs : Entering z s) (hx : TasksEnter (s.die d) x) : Entering z (s.setDie d x) := by
  refine hs.trans fun e => ?_
  cases d <;> cases e <;> first | exact hx | exact TasksEnter.refl _

theorem foldl {α : Type} {f : State → α → State} (hf : ∀ s a, Entering s (f s a)) (l : List α) (hs : Entering z s) :
    Entering z (l.foldl f s) := by
  induction l generalizing s with
  | nil => exact hs
  | cons a l ih => exact ih (hs.trans (hf s a))

end Entering

theorem Ovm.enter_keeps (o : Ovm) (c : EnginesCfg) (t : Nat) : (o.enter c t).entered = o.entered ++ [t] ∧ (o.enter c t).done = o.done ∧
    (o.enter c t).running = o.running ∧ (o.enter c t).arrivals = o.arrivals := by
  unfold Ovm.enter
  extract_lets cls p
  split
  · exact ⟨rfl, rfl, rfl, rfl⟩
  · exact ⟨rfl, rfl, rfl, rfl⟩

/-- A task that is ready enters. -/
theorem State.enterTask_enters (s : State) (d : Die) (t : Nat) :
    Entering s (s.enterTask d t) ∧ (s.ready d t = true → t ∈ ((s.enterTask d t).die d).ovm.entered) := by
  unfold State.enterTask
  split
  · extract_lets x o full p
    obtain ⟨h1, h2, h3, h4⟩ := x.ovm.enter_keeps (s.engCfg d) t
    have hx : TasksEnter (s.die d) { x with ovm := p } :=
      ⟨rfl, rfl, rfl, rfl, h2, h3, fun k hk => by rw [show p.entered = x.ovm.entered ++ [t] from h1]; exact List.mem_append_left _ hk,
        fun k => le_of_eq (by unfold Ovm.arrived; rw [show p.arrivals = x.ovm.arrivals from h4])⟩
    have hin : t ∈ ((s.setDie d { x with ovm := p }).die d).ovm.entered := by
      rw [State.die_setDie, show p.entered = x.ovm.entered ++ [t] from h1]
      exact List.mem_append_right _ (List.mem_singleton_self t)
    have he : Entering s (s.setDie d { x with ovm := p }) := (Entering.refl s).setDie d hx
    have hf : Framed [.regs] (s.setDie d { x with ovm := p }) ((s.setDie d { x with ovm := p }).when full fun s => s.event (rOvmEvents d) 0) :=
      State.when_framed (Framed.refl _) fun _ h => State.event_framed (List.Subset.refl _) h
    exact ⟨he.framed hf, fun _ => by rw [hf.die_eq d]; exact hin⟩
  · exact ⟨Entering.refl s, fun h => absurd h ‹_›⟩

theorem State.addArrival_enters (s : State) (d : Die) (t : Nat) : Entering s (s.addArrival d t) := by
  refine (Entering.refl s).setDie d ⟨rfl, rfl, rfl, rfl, rfl, rfl, fun _ h => h, fun k => ?_⟩
  unfold Ovm.arrived
  dsimp only
  rw [List.find?_append, List.find?_filter]
  by_cases hk : k = t
  · subst hk
    have hn : (s.die d).ovm.arrivals.find? (fun a => decide ((a.1 != k) = true ∧ (a.1 == k) = true)) = none :=
      List.find?_eq_none.mpr fun a _ => by
        by_cases ha : a.1 = k <;> simp [ha]
    rw [hn]
    simp
  · have he : (fun a : Nat × Nat => decide ((a.1 != t) = true ∧ (a.1 == k) = true)) = fun a => a.1 == k := by
      funext a
      by_cases ha : a.1 = k
      · simp [ha, hk]
      · simp [ha]
    rw [he]
    cases (s.die d).ovm.arrivals.find? fun a => a.1 == k with
    | none => simp
    | some a => simp

theorem State.arrive_enters (s : State) (d : Die) (t : Nat) : Entering s (s.arrive d t) :=
  (s.addArrival_enters d t).trans ((s.addArrival d t).enterTask_enters d t).1

theorem State.enterPhase_entering (s : State) (d : Die) : Entering s (s.enterPhase d) :=
  Entering.foldl (fun v t => (v.enterTask_enters d t).1) _ (Entering.refl s)

/-- A task of a released phase whose arrivals suffice (R325). -/
structure CanEnter (s : State) (d : Die) (k : Nat) : Prop where
  tick : s.tick.live = true ∧ s.tick.stopped = false
  listed : k < (s.engCfg d).tasks.length
  released : ((s.engCfg d).task k).phase < s.tick.rel
  arrived : ((s.engCfg d).task k).wait ≤ (s.die d).ovm.arrived k
  cls : ((s.engCfg d).task k).cls < 6

theorem CanEnter.mono {s u : State} {d : Die} {k : Nat} (h : CanEnter s d k) (he : Entering s u) (ht : u.tick = s.tick)
    (hi : u.image = s.image) : CanEnter u d k := by
  have hc : u.engCfg d = s.engCfg d := by
    unfold State.engCfg
    rw [hi]
  obtain ⟨h1, h2, h3, h4, h5⟩ := h
  rw [← hc] at h2 h3 h4 h5
  rw [← ht] at h1 h3
  exact ⟨h1, h2, h3, h4.trans ((he d).arrived k), h5⟩

/-- Each task that can enter is entered by its turn. -/
theorem foldl_enterTask_enters {d : Die} {k : Nat} (l : List Nat) (s : State) (hk : k ∈ l) (h : CanEnter s d k) :
    k ∈ ((l.foldl (fun s t => s.enterTask d t) s).die d).ovm.entered := by
  induction l generalizing s with
  | nil => cases hk
  | cons t l ih =>
    obtain ⟨he, hr⟩ := s.enterTask_enters d t
    have hf : Framed [.regs, .dies] s (s.enterTask d t) := State.enterTask_framed (List.Subset.refl _) (Framed.refl s)
    rcases List.mem_cons.mp hk with rfl | hk
    · have hin : k ∈ ((s.enterTask d k).die d).ovm.entered := by
        by_cases hin : k ∈ (s.die d).ovm.entered
        · exact (he d).entered k hin
        · refine hr ?_
          obtain ⟨⟨h1, h2⟩, h3, h4, h5, h6⟩ := h
          simp [State.ready, h1, h2, h3, h4, h5, h6, hin]
      exact (Entering.foldl (fun v t => (v.enterTask_enters d t).1) l (Entering.refl (s.enterTask d k)) d).entered k hin
    · exact ih _ hk (h.mono he (hf .tick (by decide)) (hf .image (by decide)))

theorem State.enterPhase_enters {s : State} {d : Die} {k : Nat} (h : CanEnter s d k) : k ∈ ((s.enterPhase d).die d).ovm.entered :=
  foldl_enterTask_enters _ s (List.mem_range.mpr h.listed) h

/-- The tasks of every die enter in turn. -/
theorem foldl_enterPhase_enters {d : Die} {k : Nat} (l : List Die) (s : State) (hd : d ∈ l) (h : CanEnter s d k) :
    k ∈ ((l.foldl (fun s d => s.enterPhase d) s).die d).ovm.entered := by
  induction l generalizing s with
  | nil => cases hd
  | cons e l ih =>
    have hf : Framed [.regs, .dies] s (s.enterPhase e) := State.enterPhase_framed (List.Subset.refl _) (Framed.refl s)
    rcases List.mem_cons.mp hd with rfl | hd
    · exact (Entering.foldl State.enterPhase_entering l (Entering.refl (s.enterPhase d)) d).entered k (State.enterPhase_enters h)
    · exact ih _ hd (h.mono (s.enterPhase_entering e) (hf .tick (by decide)) (hf .image (by decide)))

end Sys2Proof.Machine

namespace Sys2Proof.Machine
open Sys2Proof

/-! ### A phase released (R27, R260, R270, R325) -/

/-- Tasks of a die given up: they have ended, none of them runs, and what follows them may enter. -/
structure TasksDropped (gone : List Nat) (x y : DieState) : Prop where
  heap : y.heap = x.heap
  rounds : y.rounds = x.rounds
  roundOn : y.roundOn = x.roundOn
  done : y.ovm.done = x.ovm.done ++ gone
  running : y.ovm.running = x.ovm.running.filter fun r => !gone.contains r.task
  entered : ∀ k, k ∈ x.ovm.entered → k ∈ y.ovm.entered
  arrived : ∀ k, x.ovm.arrived k ≤ y.ovm.arrived k

theorem TasksDropped.enter {gone : List Nat} {x y w : DieState} (h : TasksDropped gone x y) (k : TasksEnter y w) : TasksDropped gone x w :=
  ⟨k.heap.trans h.heap, k.rounds.trans h.rounds, k.roundOn.trans h.roundOn, k.done.trans h.done, k.running.trans h.running,
    fun t ht => k.entered t (h.entered t ht), fun t => (h.arrived t).trans (k.arrived t)⟩

theorem State.dropTasks_drops (s : State) (d : Die) (gone : List Nat) :
    TasksDropped gone (s.die d) ((s.dropTasks d gone).die d) ∧ TasksEnter (s.die d.other) ((s.dropTasks d gone).die d.other) := by
  unfold State.dropTasks
  extract_lets c x out p o y after
  have hy : TasksDropped gone x y := ⟨rfl, rfl, rfl, rfl, rfl, fun k hk => List.mem_append_left _ hk, fun _ => le_rfl⟩
  have he : Entering (s.setDie d y) (after.foldl (fun s u => s.arrive d u) (s.setDie d y)) :=
    Entering.foldl (fun v u => v.arrive_enters d u) _ (Entering.refl _)
  constructor
  · have h := he d
    rw [State.die_setDie] at h
    exact hy.enter h
  · have h := he d.other
    rw [State.die_setDie_other] at h
    exact h

/-- The dies in service depend on the profile and on the fuses. -/
theorem State.dies_congr {s u : State} (hr : u.reg rGlbProfile = s.reg rGlbProfile) (hs : u.sec = s.sec) : u.dies = s.dies := by
  unfold State.dies State.hasS1 State.profile
  rw [hr, hs]

theorem State.mem_dies (s : State) (d : Die) : d ∈ s.dies ↔ d = .s0 ∨ s.dies = [.s0, .s1] := by
  unfold State.dies
  split
  · cases d <;> simp
  · cases d <;> simp

/-- The release of a phase up to the entry of its tasks. -/
def State.phaseOpened (s : State) (n : Nat) : State :=
  if n = 0 then s.dies.foldl (fun s d => s.setCanaries d) s.clearKeyTable
  else if n = 1 then
    let s := s.copyBanks
    if s.img (·.policy.nets.length) = 0 then (s.dies.foldl (fun s d => s.setReg (rPaProposeNs d) 0) s).finishPropose
    else s
  else if n = 3 then s.dies.foldl (fun s d =>
    (s.setDie d { s.die d with heap := [], rounds := 0, round := 0, roundOn := false, survs := [] }).limitRounds d) s
  else if n = 4 then (s.dies.foldl (fun s d => s.padSurvivors d) s).takeUrgent
  else if n = 5 then s.trigger 3
  else s

theorem State.releasePhase_eq (s : State) (n : Nat) : s.releasePhase n =
    (({ s with tick := { s.tick with rel := n + 1, phase := n } } : State).phaseOpened n).dies.foldl (fun s d => s.enterPhase d)
      (({ s with tick := { s.tick with rel := n + 1, phase := n } } : State).phaseOpened n) := by
  unfold State.releasePhase State.phaseOpened
  rfl

/-- What opening a phase keeps: the tick, the dies in service, entries and arrivals; REFINE's has emptied the heaps. -/
structure PhaseOpened (n : Nat) (s u : State) : Prop where
  frame : Framed [.regs, .mem, .slices, .plan, .world, .dies, .chans, .dep] s u
  profile : RegsKept (· = rGlbProfile) s u
  tasks : ∀ d k, (k ∈ (s.die d).ovm.entered → k ∈ (u.die d).ovm.entered) ∧ (s.die d).ovm.arrived k ≤ (u.die d).ovm.arrived k
  heap : n = 3 → ∀ d ∈ s.dies, (u.die d).heap = [] ∧ (u.die d).rounds = 0

/-- A die's heap emptied and its rounds limited as REFINE is released. -/
def State.openRefine (s : State) (d : Die) : State :=
  (s.setDie d { s.die d with heap := [], rounds := 0, round := 0, roundOn := false, survs := [] }).limitRounds d

/-- What opening REFINE does on one die. -/
structure RefineOpened (d : Die) (s u : State) : Prop where
  frame : Framed [.regs, .dies] s u
  profile : RegsKept (· = rGlbProfile) s u
  tasks : ∀ e k, (k ∈ (s.die e).ovm.entered → k ∈ (u.die e).ovm.entered) ∧ (s.die e).ovm.arrived k ≤ (u.die e).ovm.arrived k
  heap : (u.die d).heap = [] ∧ (u.die d).rounds = 0
  other : TasksEnter (s.die d.other) (u.die d.other)

theorem RegsKept.arrive {z s : State} {P : Nat → Prop} {d : Die} (hp : ¬ P (rOvmEvents d)) (t : Nat) (hs : RegsKept P z s) :
    RegsKept P z (s.arrive d t) := by
  have ha : RegsKept P z (s.addArrival d t) := hs.setDie d _
  unfold State.arrive State.enterTask
  refine RegsKept.ite ?_ ha
  exact (ha.setDie d _).when ((ha.setDie d _).event hp _)

theorem RegsKept.dropTasks {z s : State} {P : Nat → Prop} {d : Die} (hp : ¬ P (rOvmEvents d)) (gone : List Nat)
    (hs : RegsKept P z s) : RegsKept P z (s.dropTasks d gone) := by
  unfold State.dropTasks
  extract_lets c x out p o y after
  exact (hs.setDie d y).foldl (fun v u h => RegsKept.arrive hp u h) after

theorem State.openRefine_opened (s : State) (d : Die) : RefineOpened d s (s.openRefine d) := by
  unfold State.openRefine State.limitRounds
  extract_lets x n
  obtain ⟨y, hy⟩ : ∃ y : DieState, y = { s.die d with heap := [], rounds := 0, round := 0, roundOn := false, survs := [] } := ⟨_, rfl⟩
  have h1 : y.heap = [] ∧ y.rounds = 0 ∧ y.ovm = (s.die d).ovm := by rw [hy]; exact ⟨rfl, rfl, rfl⟩
  have hs1 : ∀ v : State, Framed [.regs, .dies] (s.setDie d y) v → Framed [.regs, .dies] s v := fun v h =>
    (State.setDie_framed (by decide) (Framed.refl s) fun _ => by rw [hy]).trans h
  rw [← hy]
  generalize (s.setDie d y).tasksOfRounds d _ = gone
  obtain ⟨hd, ho⟩ := (s.setDie d y).dropTasks_drops d gone
  rw [State.die_setDie] at hd
  rw [State.die_setDie_other] at ho
  refine ⟨hs1 _ (State.dropTasks_framed (List.Subset.refl _) (Framed.refl _)),
    RegsKept.dropTasks (P := (· = rGlbProfile)) (by cases d <;> decide) gone ((RegsKept.refl s).setDie d y), fun e k => ?_, ⟨hd.heap.trans h1.1, hd.rounds.trans h1.2.1⟩, ho⟩
  have here : (k ∈ (s.die d).ovm.entered → k ∈ (((s.setDie d y).dropTasks d gone).die d).ovm.entered) ∧
      (s.die d).ovm.arrived k ≤ (((s.setDie d y).dropTasks d gone).die d).ovm.arrived k := by
    rw [← h1.2.2]
    exact ⟨hd.entered k, hd.arrived k⟩
  have there := And.intro (ho.entered k) (ho.arrived k)
  cases d <;> cases e <;> first | exact here | exact there

/-- Phases that leave the dies' tasks alone. -/
theorem PhaseOpened.of_framed {n : Nat} {s u : State} (hn : n ≠ 3) (he : Entering s u) (hr : RegsKept (· = rGlbProfile) s u)
    (hf : Framed [.regs, .mem, .slices, .plan, .world, .dies, .chans, .dep] s u) : PhaseOpened n s u :=
  ⟨hf, hr, fun d k => ⟨(he d).entered k, (he d).arrived k⟩, fun h => absurd h hn⟩

theorem State.phaseOpened_opened (s : State) (n : Nat) : PhaseOpened n s (s.phaseOpened n) := by
  have plain : ∀ {u : State}, n ≠ 3 → Framed [.mem, .slices] s u → PhaseOpened n s u := fun hn hf =>
    PhaseOpened.of_framed hn ((Entering.refl s).framed hf) ((RegsKept.refl s).framed hf) (hf.mono (by decide))
  unfold State.phaseOpened
  split_ifs with h0 h1 h3 h4 h5
  · exact plain (by omega) (Framed.foldl (State.clearKeyTable_framed (List.Subset.refl _) (Framed.refl s))
      fun _ h _ => State.setCanaries_framed (List.Subset.refl _) h)
  · have hc : Framed [.mem, .slices] s s.copyBanks := State.copyBanks_framed (List.Subset.refl _) (Framed.refl s)
    generalize s.copyBanks = v at hc
    extract_lets
    split
    · have hr : ∀ l : List Die, RegsKept (· = rGlbProfile) v (l.foldl (fun s d => s.setReg (rPaProposeNs d) 0) v) := fun l =>
        (RegsKept.refl v).foldl (fun t d h => RegsKept.setReg (P := (· = rGlbProfile)) (by cases d <;> decide) _ h) l
      have hf : Framed [.regs] v (v.dies.foldl (fun s d => s.setReg (rPaProposeNs d) 0) v) :=
        Framed.foldl (Framed.refl v) fun _ h _ => State.setReg_framed (List.Subset.refl _) h
      have hr' := hr v.dies
      generalize v.dies.foldl (fun s d => s.setReg (rPaProposeNs d) 0) v = w at hf hr'
      have hw : Framed [.regs, .plan] w w.finishPropose := State.finishPropose_framed (List.Subset.refl _) (Framed.refl w)
      have rw_ : RegsKept (· = rGlbProfile) w w.finishPropose := by
        unfold State.finishPropose
        refine RegsKept.when ((RegsKept.refl w).of_regs rfl) (RegsKept.foldl (fun t d h => ?_) _ ((RegsKept.refl w).of_regs rfl))
        exact RegsKept.setReg (P := (· = rGlbProfile)) (by cases d <;> decide) _ h
      have hall : Framed [.regs, .mem, .slices, .plan] s w.finishPropose :=
        (hc.mono (by decide)).trans ((hf.mono (by decide)).trans (hw.mono (by decide)))
      exact PhaseOpened.of_framed (by omega) ((Entering.refl s).framed hall) ((((RegsKept.refl s).framed hc).trans hr').trans rw_)
        (hall.mono (by decide))
    · exact plain (by omega) hc
  · have hone : ∀ v : State, RefineOpened .s0 v (v.openRefine .s0) := fun v => v.openRefine_opened .s0
    show PhaseOpened n s (s.dies.foldl (fun s d => s.openRefine d) s)
    have a := hone s
    by_cases hb : s.dies = [.s0, .s1]
    · rw [hb]
      show PhaseOpened n s ((s.openRefine .s0).openRefine .s1)
      generalize s.openRefine .s0 = v at a ⊢
      have b := v.openRefine_opened .s1
      generalize v.openRefine .s1 = u at b ⊢
      have keep : (u.die .s0).heap = (v.die .s0).heap ∧ (u.die .s0).rounds = (v.die .s0).rounds := ⟨b.other.heap, b.other.rounds⟩
      refine ⟨(a.frame.trans b.frame).mono (by decide), a.profile.trans b.profile, fun d k =>
        ⟨fun h => (b.tasks d k).1 ((a.tasks d k).1 h), (a.tasks d k).2.trans (b.tasks d k).2⟩, fun _ d _ => ?_⟩
      cases d
      · exact ⟨keep.1.trans a.heap.1, keep.2.trans a.heap.2⟩
      · exact b.heap
    · have hs : s.dies = [.s0] := by
        unfold State.dies at hb ⊢
        split
        · exact absurd (if_pos ‹_›) hb
        · rfl
      rw [hs]
      show PhaseOpened n s (s.openRefine .s0)
      refine ⟨a.frame.mono (by decide), a.profile, a.tasks, fun _ d hd => ?_⟩
      rw [hs] at hd
      rw [List.mem_singleton.mp hd]
      exact a.heap
  · have hp : Framed [.mem, .slices] s (s.dies.foldl (fun s d => s.padSurvivors d) s) :=
      Framed.foldl (Framed.refl s) fun _ h _ => State.padSurvivors_framed (List.Subset.refl _) h
    generalize s.dies.foldl (fun s d => s.padSurvivors d) s = v at hp
    have hu : Framed [.regs, .plan, .world, .dep] v v.takeUrgent := State.takeUrgent_framed (List.Subset.refl _) (Framed.refl v)
    have hr : RegsKept (· = rGlbProfile) v v.takeUrgent := by
      unfold State.takeUrgent
      extract_lets f cut le due last kept n over_ w p d s1
      have h1 : RegsKept (· = rGlbProfile) v s1 := (RegsKept.refl v).of_regs rfl
      exact h1.when (RegsKept.invalid _ (RegsKept.event (o := rWorldEvents) (by decide) 4 h1))
    have hall : Framed [.regs, .mem, .slices, .plan, .world, .dep] s v.takeUrgent := (hp.mono (by decide)).trans (hu.mono (by decide))
    exact PhaseOpened.of_framed (by omega) ((Entering.refl s).framed hall) (((RegsKept.refl s).framed hp).trans hr) (hall.mono (by decide))
  · have ht : Framed [.dies, .chans] s (s.trigger 3) := State.trigger_framed (List.Subset.refl _) (Framed.refl s)
    refine PhaseOpened.of_framed (by omega) (fun d => ?_) ((RegsKept.refl s).framed ht) (ht.mono (by decide))
    cases d <;> exact ⟨rfl, rfl, rfl, rfl, rfl, rfl, fun _ h => h, fun _ => le_rfl⟩
  · exact plain h3 (Framed.refl s)

/-- The opening of the phase `ph` on a state whose clock has advanced. -/
theorem phaseIsReleased : Statements.PhaseIsReleased := by
  intro s t ph hrun hlive hstop hph hrel ht hover
  have hc : (s.dev == .running && s.tick.live && !s.tick.stopped && decide (ph < 6) && s.tick.rel == ph &&
      decide (s.tick.tk + s.phaseAt ph ≤ t) && !s.overrunBy ph (max t s.now)) = true := by
    simp [hrun, hlive, hstop, hrel, hph, ht, hover]
  obtain ⟨n, hn⟩ := s.advance_eq t
  have e : exec (.phaseRelease t ph) s = .next ((s.advance t).releasePhase ph) := congrArg Host.Outcome.next (if_pos hc)
  rw [hn, State.releasePhase_eq] at e
  obtain ⟨v, hv⟩ : ∃ v : State, v = { ({ s with now := n } : State) with tick := { s.tick with rel := ph + 1, phase := ph } } := ⟨_, rfl⟩
  have fv : Framed [.now, .tick] s v := by
    rw [hv]
    exact Framed.withTick (by decide) _ fun p hp => by cases p <;> first | exact absurd (by decide) hp | rfl | exact ⟨rfl, rfl⟩
  have vt : v.tick = { s.tick with rel := ph + 1, phase := ph } := by rw [hv]
  have vr : v.reg rGlbProfile = s.reg rGlbProfile := by rw [hv]; rfl
  rw [← hv] at e
  clear hv
  have ho := v.phaseOpened_opened ph
  generalize v.phaseOpened ph = w at ho e
  have fw : Framed [.now, .tick, .regs, .mem, .slices, .plan, .world, .dies, .chans, .dep] s w :=
    (fv.mono (by decide)).trans (ho.frame.mono (by decide))
  have wdies : w.dies = s.dies := State.dies_congr ((ho.profile _ rfl).trans vr) (fw .sec (by decide))
  have wtick : w.tick = { s.tick with rel := ph + 1, phase := ph } := (ho.frame .tick (by decide)).trans vt
  have fe : Framed [.regs, .dies] w (w.dies.foldl (fun s d => s.enterPhase d) w) :=
    Framed.foldl (Framed.refl w) fun _ h _ => State.enterPhase_framed (List.Subset.refl _) h
  have ee : Entering w (w.dies.foldl (fun s d => s.enterPhase d) w) := Entering.foldl State.enterPhase_entering _ (Entering.refl w)
  have vd : ∀ d, v.die d = s.die d := fun d => fv.die_eq d
  refine ⟨_, e, (fe .tick (by decide)).trans wtick, (fe .dev (by decide)).trans ((fw .dev (by decide)).trans hrun),
    (fe.sys_eq (by decide) (by decide)).trans (fw.sys_eq (by decide) (by decide)), fun d hd k hk hkp hkc hkw => ?_, fun h3 d hd => ?_⟩
  · have hcfg : w.engCfg d = s.engCfg d := by
      unfold State.engCfg
      rw [show w.image = s.image from fw .image (by decide)]
    refine foldl_enterPhase_enters _ w (by rw [wdies]; exact hd) ⟨by rw [wtick]; exact ⟨hlive, hstop⟩, by rw [hcfg]; exact hk, ?_, ?_, by rw [hcfg]; exact hkc⟩
    · rw [hcfg, wtick, hkp]
      exact Nat.lt_succ_self ph
    · rw [hcfg]
      exact hkw.trans ((vd d ▸ le_rfl : (s.die d).ovm.arrived k ≤ (v.die d).ovm.arrived k).trans (ho.tasks d k).2)
  · have vdies : v.dies = s.dies := State.dies_congr vr (fv .sec (by decide))
    obtain ⟨h1, h2⟩ := ho.heap h3 d (by rw [vdies]; exact hd)
    exact ⟨(ee d).heap.trans h1, (ee d).rounds.trans h2⟩

end Sys2Proof.Machine

namespace Sys2Proof.Machine
open Sys2Proof

/-! ### The log's vector (R384, R522) -/

/-- Of the function, the pending bit of the log's vector alone has changed. -/
def LogVectorOnly (z s : State) : Prop := ∃ p, s.host = { z.host with pba := p } ∧ ∀ n, n ≠ 4 → p.getLsbD n = z.host.pba.getLsbD n

namespace LogVectorOnly
variable {z s t : State}

theorem of_host (h : s.host = z.host) : LogVectorOnly z s := ⟨z.host.pba, h, fun _ _ => rfl⟩

theorem trans (h : LogVectorOnly z s) (k : LogVectorOnly s t) : LogVectorOnly z t := by
  obtain ⟨p, hp, hb⟩ := h
  obtain ⟨q, hq, hc⟩ := k
  exact ⟨q, by rw [hq, hp], fun n hn => (hc n hn).trans (by rw [hp]; exact hb n hn)⟩

theorem irq (s : State) : LogVectorOnly s (s.irq 4) := by
  unfold State.irq
  split_ifs
  · exact of_host rfl
  · refine ⟨_, rfl, fun n hn => ?_⟩
    rw [BitVec.getLsbD_or, BitVec.getLsbD_ofNat, Nat.testBit_two_pow]
    simp [Ne.symm hn]
  · exact of_host rfl

theorem tallyPush (s : State) (sev code source : Nat) (data : List Byte) : LogVectorOnly s (s.tallyPush sev code source data) := by
  unfold State.tallyPush
  extract_lets t e s1 s2 high s3
  have h1 : s1.host = s.host := rfl
  have h2 : s2.host = s1.host := by
    show State.host (if sev = 1 then _ else if sev = 2 then _ else _) = _
    split_ifs <;> rfl
  have h3 : LogVectorOnly s s3 := of_host ((show State.host (if high = true then _ else _) = s2.host by split_ifs <;> rfl).trans (h2.trans h1))
  split_ifs
  · exact h3.trans (irq s3)
  · exact h3

theorem stage (s : State) (sev code source : Nat) (data : List Byte) : LogVectorOnly s (s.stage sev code source data) := by
  have report : LogVectorOnly s s.tallyReport := by
    unfold State.tallyReport
    split
    split_ifs
    · exact of_host rfl
    · exact (of_host (s := { s with tally := { s.tally with supp := (0, 0, 0) } }) rfl).trans (tallyPush _ _ _ _ _)
  have spend : ∀ v : State, LogVectorOnly v (v.spendToken sev) := fun v => by
    unfold State.spendToken
    split_ifs <;> exact of_host rfl
  have sort : ∀ v : State, LogVectorOnly v v.sortTally := fun v => by
    unfold State.sortTally
    split_ifs <;> exact of_host rfl
  unfold State.stage
  extract_lets v
  split_ifs
  · exact of_host rfl
  · exact report.trans (of_host rfl)
  · exact ((report.trans (spend _)).trans (tallyPush _ _ _ _ _)).trans (sort _)

theorem log (s : State) (sev code source : Nat) (data : List Byte) : LogVectorOnly s (s.log sev code source data) := by
  unfold State.log
  extract_lets t
  split_ifs
  · split
    exact of_host rfl
  · exact stage s _ _ _ _

/-- A vector other than the log's that may send its message sends the one of its entry. -/
theorem irq_sends (h : LogVectorOnly z s) {v : Nat} (hv : v ≠ 4) (hup : z.host.up = true) (hoff : z.host.allOff = false)
    (hmask : z.host.mask.getLsbD v = false) (hpba : z.host.pba.getLsbD v = false) : z.message v ∈ (s.irq v).out := by
  obtain ⟨p, hp, hb⟩ := h
  have hm : s.message v = z.message v := by
    unfold State.message
    rw [hp]
  have h1 : s.host.pba.getLsbD v = false := by rw [hp]; exact (hb v hv).trans hpba
  have h2 : (s.host.mask.getLsbD v || s.host.allOff || !s.host.up) = false := by
    rw [hp]
    simp [hmask, hoff, hup]
  unfold State.irq
  rw [if_neg (by rw [h1]; decide), if_neg (by rw [h2]; decide), hm]
  exact List.mem_append_right _ (List.mem_singleton_self _)

end LogVectorOnly

/-! ### Overruns (R31 to R33, R37) -/

/-- The tick's work stopped in a phase: the event and its count, the entry of the log. -/
def State.overrunLogged (s : State) (ph : Nat) : State :=
  ((s.stopWork.event rTickEvents ph).count rTickOvrCount 1).log note 0x0101 (tallySource 0 10 0) (leBytes 1 ph)

/-- The tick's work stopped in a phase, before its record is written or given up. -/
def State.overrunMet (s : State) (ph : Nat) : State :=
  { s.overrunLogged ph with tick := { (s.overrunLogged ph).tick with phase := 6 } }

theorem State.overrun_eq (s : State) (ph : Nat) (write : Bool) : s.overrun ph write =
    if write then (s.overrunMet ph).writeInvalid reasonOverrun
    else { s.overrunMet ph with plan := { (s.overrunMet ph).plan with lost := true } } := rfl

/-- The tick's work stopped, its event shown, the log told. -/
structure OverrunLogged (ph : Nat) (s u : State) : Prop where
  tick : u.tick = { s.tick with stopped := true }
  event : (u.reg rTickEvents).getLsbD ph = true
  work : ∀ d, (u.die d).ovm.running = [] ∧ (u.die d).reWork = []
  frame : Framed [.regs, .tick, .dies, .host, .kl, .tally, .out] s u
  vectors : LogVectorOnly s u

/-- What an overrun leaves of the tick and of the work on the dies. -/
structure OverrunMet (ph : Nat) (s u : State) : Prop where
  tick : u.tick = { s.tick with stopped := true, phase := 6 }
  event : (u.reg rTickEvents).getLsbD ph = true
  work : ∀ d, (u.die d).ovm.running = [] ∧ (u.die d).reWork = []
  frame : Framed [.regs, .tick, .dies, .host, .kl, .tally, .out] s u
  vectors : LogVectorOnly s u

theorem State.stopWork_tick (s : State) : s.stopWork.tick = { s.tick with stopped := true } := by
  have hf : Framed [.regs, .dies, .kl, .out] s ((s.chargeWaits .s0).chargeWaits .s1).dropTickOps.dropPendingBanks :=
    State.dropPendingBanks_framed (by decide) (State.dropTickOps_framed (by decide) (State.chargeWaits_framed (by decide)
      (State.chargeWaits_framed (by decide) (Framed.refl s))))
  exact congrArg (fun k : Tick => { k with stopped := true }) (hf .tick (by decide))

theorem State.stopWork_work (s : State) (d : Die) : (s.stopWork.die d).ovm.running = [] ∧ (s.stopWork.die d).reWork = [] := by
  cases d <;> exact ⟨rfl, rfl⟩

/-- The event, its count and the entry of the log. -/
theorem State.overrunShown (v : State) {ph : Nat} (hph : ph < 32) :
    (((((v.event rTickEvents ph).count rTickOvrCount 1).log note 0x0101 (tallySource 0 10 0) (leBytes 1 ph))).reg rTickEvents).getLsbD ph = true ∧
    Framed [.regs, .host, .tally, .out] v
      (((v.event rTickEvents ph).count rTickOvrCount 1).log note 0x0101 (tallySource 0 10 0) (leBytes 1 ph)) ∧
    LogVectorOnly v (((v.event rTickEvents ph).count rTickOvrCount 1).log note 0x0101 (tallySource 0 10 0) (leBytes 1 ph)) := by
  have b1 : ((v.event rTickEvents ph).reg rTickEvents).getLsbD ph = true := v.event_bit _ hph
  have hk : RegsKept (· = rTickEvents) (v.event rTickEvents ph)
      (((v.event rTickEvents ph).count rTickOvrCount 1).log note 0x0101 (tallySource 0 10 0) (leBytes 1 ph)) :=
    RegsKept.log (by rintro a ha rfl; revert ha; decide) _ _ _ _ (RegsKept.count (P := (· = rTickEvents)) (by decide) 1 (RegsKept.refl _))
  refine ⟨by rw [hk _ rfl]; exact b1, ?_, ?_⟩
  · exact State.log_framed (List.Subset.refl _) (State.count_framed (by decide) (State.event_framed (by decide) (Framed.refl v)))
  · exact (LogVectorOnly.of_host (z := v) (s := (v.event rTickEvents ph).count rTickOvrCount 1) rfl).trans (LogVectorOnly.log _ _ _ _ _)

theorem State.overrunLogged_met (s : State) {ph : Nat} (hph : ph < 32) : OverrunLogged ph s (s.overrunLogged ph) := by
  obtain ⟨hb, hf, hl⟩ := s.stopWork.overrunShown hph
  have f0 := s.stopWork_frame
  exact { tick := (hf .tick (by decide)).trans s.stopWork_tick
          event := hb
          work := fun d => by
            have hd : (s.overrunLogged ph).die d = s.stopWork.die d := hf.die_eq d
            rw [hd]
            exact s.stopWork_work d
          frame := (f0.mono (by decide)).trans (hf.mono (by decide))
          vectors := (LogVectorOnly.of_host (f0 .host (by decide))).trans hl }

theorem State.overrunMet_met (s : State) {ph : Nat} (hph : ph < 32) : OverrunMet ph s (s.overrunMet ph) := by
  obtain ⟨h1, h2, h3, h4, h5⟩ := s.overrunLogged_met hph
  unfold State.overrunMet
  generalize s.overrunLogged ph = v at h1 h2 h3 h4 h5 ⊢
  exact ⟨congrArg (fun k : Tick => { k with phase := 6 }) h1, h2, fun d => by cases d; exacts [h3 .s0, h3 .s1], Framed.withTick (by decide) _ h4, h5⟩

/-- An overrun whose record is written INVALID. -/
structure OverrunWritten (ph : Nat) (s u : State) : Prop where
  tick : u.tick = { s.tick with stopped := true, phase := 6 }
  event : (u.reg rTickEvents).getLsbD ph = true
  cause : u.plan.cause = some (s.causeWith 3)
  record : u.plan.record.isSome = true
  lost : u.plan.lost = true
  dev : u.dev = s.dev
  mem : u.mem = s.mem
  work : ∀ d, (u.die d).ovm.running = [] ∧ (u.die d).reWork = []

theorem State.overrun_written (s : State) {ph : Nat} (hph : ph < 32) : OverrunWritten ph s (s.overrun ph true) := by
  rw [State.overrun_eq, if_pos rfl]
  have h := s.overrunMet_met hph
  generalize s.overrunMet ph = v at h ⊢
  have fw := v.writeInvalid_frame reasonOverrun
  obtain ⟨hc, hr, hl⟩ := v.writeInvalid_written reasonOverrun
  have rw_ : RegsKept (· = rTickEvents) v (v.writeInvalid reasonOverrun) :=
    RegsKept.writeInvalid (by rintro a rfl; decide) (by decide) _ (RegsKept.refl v)
  generalize v.writeInvalid reasonOverrun = u at fw hc hr hl rw_ ⊢
  refine ⟨(fw .tick (by decide)).trans h.tick, ?_, ?_, hr, ?_, (fw .dev (by decide)).trans (h.frame .dev (by decide)),
    (fw .mem (by decide)).trans (h.frame .mem (by decide)), fun d => ?_⟩
  · rw [rw_ _ rfl]
    exact h.event
  · rw [hc, State.causeWith_congr (h.frame .plan (by decide)) (h.frame .now (by decide))]
    rfl
  · rw [hl, show containedReasons.contains reasonOverrun = true by decide, Bool.or_true]
  · rw [fw.die_eq d]
    exact h.work d

/-- Contested cycles of the Gallery's ports leave what an overrun looks at. -/
theorem State.contendAll_frame (s : State) (ports : List (Die × Nat × List Nat)) : Framed [.regs, .dies] s (s.contendAll ports) :=
  State.contendAll_framed (List.Subset.refl _) (Framed.refl s)

theorem OverrunWritten.of_contended {ph : Nat} {s v u : State} (h : OverrunWritten ph v u) (f : Framed [.regs, .dies] s v) :
    OverrunWritten ph s u := by
  obtain ⟨h1, h2, h3, h4, h5, h6, h7, h8⟩ := h
  refine ⟨by rw [h1, show v.tick = s.tick from f .tick (by decide)], h2, ?_, h4, h5, h6.trans (f .dev (by decide)),
    h7.trans (f .mem (by decide)), h8⟩
  rw [h3, State.causeWith_congr (f .plan (by decide)) (f .now (by decide))]

theorem recordDeadlineOverruns : Statements.RecordDeadlineOverruns := by
  intro s t ports hrun hlive hstop hhand hdl
  have hc : (s.dev == .running && s.tick.live && !s.tick.stopped && !s.plan.handed && decide (s.deadline ≤ t)) = true := by
    simp [hrun, hlive, hstop, hhand, hdl]
  have e : exec (.recordDeadline ⟨t, ports⟩) s = .next (((s.advance t).contendAll ports).overrun 5 true) :=
    congrArg Host.Outcome.next (if_pos hc)
  have h := (((s.advance t).contendAll ports).overrun_written (ph := 5) (by decide)).of_contended ((s.advance t).contendAll_frame ports)
  have fa : Framed [.now] s (s.advance t) := State.advance_framed (List.Subset.refl _) (Framed.refl s)
  have htick : (s.advance t).tick = s.tick := fa .tick (by decide)
  exact ⟨_, e, by rw [h.tick, htick], h.event, h.cause, h.record, h.lost, h.dev.trans ((fa .dev (by decide)).trans hrun),
    h.mem.trans (fa .mem (by decide)), h.work⟩

/-- The end of the phase 5 budget of a tick whose record has been formed. -/
structure BudgetEnded (s u : State) : Prop where
  tick : u.tick = { s.tick with phase := 6 }
  frame : Framed [.tick, .dies, .chans, .host, .out] s u
  sends : ∀ z : State, LogVectorOnly z s → z.host.up = true → z.host.allOff = false → z.host.mask.getLsbD 1 = false →
    z.host.pba.getLsbD 1 = false → z.message 1 ∈ u.out

theorem State.emitEnds_ends {s : State} (hl : s.tick.live = true) (hr : s.plan.record.isSome = true) : BudgetEnded s s.emitEnds := by
  have hn : (s.plan.record.isNone && s.plan.judged.isNone) = false := by
    rw [← Option.not_isSome, hr]
    rfl
  obtain ⟨v, e, f1, t1⟩ : ∃ v : State, s.emitEnds = (v.trigger 4).irq 1 ∧ Framed [.tick] s v ∧ v.tick = { s.tick with phase := 6 } := by
    unfold State.emitEnds
    rw [if_neg (by rw [hn]; decide)]
    exact ⟨_, rfl, Framed.withTick (by decide) _ (Framed.refl s), congrArg (fun n => { s.tick with phase := n }) (if_pos hl)⟩
  rw [e]
  have f2 : Framed [.dies, .chans] v (v.trigger 4) := State.trigger_framed (List.Subset.refl _) (Framed.refl v)
  generalize v.trigger 4 = w at f2 ⊢
  have f3 : Framed [.host, .out] w (w.irq 1) := State.irq_framed (List.Subset.refl _) (Framed.refl w)
  refine ⟨(f3 .tick (by decide)).trans ((f2 .tick (by decide)).trans t1),
    (f1.mono (by decide)).trans ((f2.mono (by decide)).trans (f3.mono (by decide))), fun z hz => LogVectorOnly.irq_sends ?_ (by decide)⟩
  exact hz.trans (LogVectorOnly.of_host ((f2 .host (by decide)).trans (f1 .host (by decide))))

/-- What an overrun of phase 5 by its budget leaves: the record stands, lost to the host. -/
theorem State.overrun_lost (s : State) {ph : Nat} (hph : ph < 32) : (s.overrun ph false).plan = { s.plan with lost := true } ∧
    OverrunMet ph s (s.overrunMet ph) ∧ (s.overrun ph false).tick = (s.overrunMet ph).tick ∧
    (s.overrun ph false).host = (s.overrunMet ph).host ∧ (s.overrun ph false).regs = (s.overrunMet ph).regs ∧
    (s.overrun ph false).dev = s.dev ∧ (s.overrun ph false).mem = s.mem := by
  have h := s.overrunMet_met hph
  rw [State.overrun_eq, if_neg (by decide)]
  generalize s.overrunMet ph = v at h ⊢
  have hp : v.plan = s.plan := h.frame .plan (by decide)
  exact ⟨congrArg (fun p : Plan => { p with lost := true }) hp, h, rfl, rfl, rfl, h.frame .dev (by decide), h.frame .mem (by decide)⟩

end Sys2Proof.Machine

namespace Sys2Proof.Machine
open Sys2Proof

/-! ### The watchdog of a phase (R31 to R34) -/

/-- Whether the watchdog of a phase finds its work incomplete. -/
def State.runsLate (s : State) (ph : Nat) : Bool := !s.tick.stopped && decide (ph < s.tick.rel) && !s.phaseDone ph

theorem execPhaseWatchdog_eq {s : State} {t ph : Nat} {ports : List (Die × Nat × List Nat)} (hrun : s.dev = .running)
    (hlive : s.tick.live = true) (hph : ph < 6) (ht : s.tick.tk + s.phaseEnd ph ≤ t) :
    exec (.phaseWatchdog t ⟨ph, ports⟩) s = .next (((s.advance t).when ((s.advance t).runsLate ph) fun s =>
      (s.contendAll ports).overrun ph (decide (ph < 5))).when (decide (ph = 5)) fun s => s.emitEnds) := by
  have hc : (s.dev == .running && s.tick.live && decide (ph < 6) && decide (s.tick.tk + s.phaseEnd ph ≤ t)) = true := by
    simp [hrun, hlive, hph, ht]
  exact congrArg Host.Outcome.next (if_pos hc)

/-- A tick up to the end of the phase 5 budget: its record and its verdict stand, and an overrun shows. -/
structure BudgetMet (late : Bool) (s v : State) : Prop where
  record : v.plan.record = s.plan.record ∧ v.plan.judged = s.plan.judged
  tick : v.tick.live = s.tick.live ∧ v.tick.num = s.tick.num ∧ v.tick.expect = s.tick.expect
  dev : v.dev = s.dev
  mem : v.mem = s.mem
  vectors : LogVectorOnly s v
  overran : late = true → v.tick.stopped = true ∧ v.plan.lost = true ∧ (v.reg rTickEvents).getLsbD 5 = true

theorem State.budgetMet (s : State) (ports : List (Die × Nat × List Nat)) (late : Bool) :
    BudgetMet late s (s.when late fun s => (s.contendAll ports).overrun 5 false) := by
  unfold State.when
  cases late
  · exact ⟨⟨rfl, rfl⟩, ⟨rfl, rfl, rfl⟩, rfl, rfl, LogVectorOnly.of_host rfl, nofun⟩
  · rw [if_pos rfl]
    beta_reduce
    have fc := s.contendAll_frame ports
    generalize s.contendAll ports = c at fc ⊢
    obtain ⟨hp, hm, ht, hh, hr, hd, hmem⟩ := c.overrun_lost (ph := 5) (by decide)
    generalize c.overrun 5 false = v at hp ht hh hr hd hmem ⊢
    have cp : c.plan = s.plan := fc .plan (by decide)
    have ct : c.tick = s.tick := fc .tick (by decide)
    have vt : v.tick = { s.tick with stopped := true, phase := 6 } := by rw [ht, hm.tick, ct]
    refine ⟨by rw [hp, cp]; exact ⟨rfl, rfl⟩, by rw [vt]; exact ⟨rfl, rfl, rfl⟩, hd.trans (fc .dev (by decide)),
      hmem.trans (fc .mem (by decide)), ?_, fun _ => ⟨by rw [vt], by rw [hp], ?_⟩⟩
    · exact ((LogVectorOnly.of_host (fc .host (by decide))).trans hm.vectors).trans (LogVectorOnly.of_host hh)
    · rw [State.reg_of_regs hr]
      exact hm.event

theorem watchdogOverrunsIncompletePhase : Statements.WatchdogOverrunsIncompletePhase := by
  intro s t ph ports hrun hlive ht
  have fa : Framed [.now] s (s.advance t) := State.advance_framed (List.Subset.refl _) (Framed.refl s)
  have atick : (s.advance t).tick = s.tick := fa .tick (by decide)
  have aplan : (s.advance t).plan = s.plan := fa .plan (by decide)
  have alate : (s.advance t).runsLate ph = (!s.tick.stopped && decide (ph < s.tick.rel) && !(s.advance t).phaseDone ph) := by
    unfold State.runsLate
    rw [atick]
  refine ⟨fun hph hstop hrel hdone => ?_, fun hph h => ?_, fun h5 hrec => ?_⟩
  · have e := execPhaseWatchdog_eq (ports := ports) hrun hlive (by omega) ht
    have hl : (s.advance t).runsLate ph = true := by
      rw [alate]
      simp [hstop, hrel, hdone]
    rw [State.when, if_neg (by simp; omega), State.when, if_pos hl, decide_eq_true hph] at e
    have h := (((s.advance t).contendAll ports).overrun_written (ph := ph) (by omega)).of_contended ((s.advance t).contendAll_frame ports)
    exact ⟨_, e, by rw [h.tick, atick], h.event, h.cause, h.record, h.lost, h.dev.trans ((fa .dev (by decide)).trans hrun),
      h.mem.trans (fa .mem (by decide)), h.work⟩
  · have e := execPhaseWatchdog_eq (ports := ports) hrun hlive (by omega) ht
    have hl : ¬ (s.advance t).runsLate ph = true := by
      rw [alate]
      rcases h with h | h | h
      · simp [h]
      · simp [Nat.not_lt.mpr h]
      · simp [h]
    rw [State.when, if_neg (by simp; omega), State.when, if_neg hl] at e
    exact e
  · subst h5
    have e := execPhaseWatchdog_eq (ports := ports) hrun hlive (by decide) ht
    rw [State.when, if_pos (by decide), show decide (5 < 5) = false from rfl] at e
    have hm := (s.advance t).budgetMet ports ((s.advance t).runsLate 5)
    rw [alate] at hm e
    generalize (s.advance t).when _ _ = v at hm e
    obtain ⟨⟨hr, hj⟩, ⟨hlv, hnum, hexp⟩, hdev, hmem, hvec, hov⟩ := hm
    have hb := State.emitEnds_ends (s := v) (by rw [hlv, atick]; exact hlive) (by rw [hr, aplan]; exact hrec)
    generalize v.emitEnds = u at hb e
    have up : u.plan = v.plan := hb.frame .plan (by decide)
    have ur : u.reg rTickEvents = v.reg rTickEvents := State.reg_of_regs (hb.frame .regs (by decide)) _
    refine ⟨u, e, by rw [hb.tick], ?_, ?_, by rw [up, hr, aplan], by rw [up, hj, aplan], ?_, ?_, fun hup hoff hmask hpba => ?_,
      fun hstop hrel hdone => ?_⟩
    · rw [hb.tick]
      exact hnum.trans (by rw [atick])
    · rw [hb.tick]
      exact hexp.trans (by rw [atick])
    · exact (hb.frame .dev (by decide)).trans (hdev.trans ((fa .dev (by decide)).trans hrun))
    · exact (hb.frame .mem (by decide)).trans (hmem.trans (fa .mem (by decide)))
    · exact hb.sends s ((LogVectorOnly.of_host (fa .host (by decide))).trans hvec) hup hoff hmask hpba
    · obtain ⟨h1, h2, h3⟩ := hov (by simp [hstop, hrel, hdone])
      exact ⟨by rw [hb.tick]; exact h1, by rw [up]; exact h2, by rw [ur]; exact h3⟩

/-! ### Time-up (R271) -/

/-- Memory after a store at a window offset: a world slice is kept apart from it. -/
def storedWin (m : List Host.Cell) (d : Die) (o : Nat) (data : List Byte) : List Host.Cell :=
  match sliceWindow (winBaseOf d + o) with
  | some _ => m
  | none => memWrite m (winBaseOf d + o) data

theorem State.storeWin_mem (s : State) (d : Die) (o : Nat) (data : List Byte) : (s.storeWin d o data).mem = storedWin s.mem d o data := by
  unfold State.storeWin State.store storedWin
  cases sliceWindow (winBaseOf d + o) with
  | none => rfl
  | some p =>
    obtain ⟨e, w⟩ := p
    cases e <;> rfl

/-- What abandoning the rounds from `n` on does on a die, the event of time-up shown. -/
def State.endRounds (s : State) (n : Nat) (gone : List Nat) (d : Die) : State := (s.abandonRounds n gone d).event (rHeapEvents d) 0

/-- The rounds abandoned on one die. -/
structure RoundsEnded (n : Nat) (gone : List Nat) (d : Die) (s u : State) : Prop where
  frame : Framed [.regs, .mem, .slices, .dies] s u
  event : (u.reg (rHeapEvents d)).getLsbD 0 = true
  kept : RegsKept (· = rHeapEvents d.other) s u
  rounds : (u.die d).roundOn = false ∧ (u.die d).rounds = min n (s.die d).rounds
  done : (u.die d).ovm.done = (s.die d).ovm.done ++ gone
  running : (u.die d).ovm.running = (s.die d).ovm.running.filter fun r => !gone.contains r.task
  other : (u.die d.other).roundOn = (s.die d.other).roundOn ∧ (u.die d.other).rounds = (s.die d.other).rounds ∧
    (u.die d.other).ovm.done = (s.die d.other).ovm.done ∧ (u.die d.other).ovm.running = (s.die d.other).ovm.running ∧
    (u.die d.other).survs = (s.die d.other).survs
  mem : u.mem = if n < (s.die d).rounds then storedWin s.mem d (s.engCfg d).survBase ((s.die d).survs.getD n []) else s.mem

theorem State.endRounds_ended (s : State) (n : Nat) (gone : List Nat) (d : Die) : RoundsEnded n gone d s (s.endRounds n gone d) := by
  have hne : ¬ rHeapEvents d = rHeapEvents d.other := by cases d <;> decide
  unfold State.endRounds State.abandonRounds
  extract_lets x v y
  -- the survivor list of the last common round
  have hv : Framed [.mem, .slices] s v := State.when_framed (Framed.refl s) fun _ h => State.storeWin_framed (List.Subset.refl _) h
  have hmem : v.mem = if n < (s.die d).rounds then storedWin s.mem d (s.engCfg d).survBase ((s.die d).survs.getD n []) else s.mem := by
    show State.mem (if decide (n < (s.die d).rounds) = true then _ else _) = _
    by_cases h : n < (s.die d).rounds
    · rw [if_pos (decide_eq_true h), if_pos h]
      exact State.storeWin_mem _ _ _ _
    · rw [if_neg (by simpa using h), if_neg h]
  have he : Entering s v := (Entering.refl s).framed hv
  clear_value v
  obtain ⟨z, hz⟩ : ∃ z : DieState, z = { v.die d with roundOn := false, rounds := min n x.rounds, survs := x.survs.take n } := ⟨_, rfl⟩
  show RoundsEnded n gone d s (((v.setDie d { v.die d with roundOn := false, rounds := min n x.rounds, survs := x.survs.take n }).dropTasks d gone).event
    (rHeapEvents d) 0)
  rw [← hz]
  have hzr : z.roundOn = false ∧ z.rounds = min n (s.die d).rounds ∧ z.ovm.done = (s.die d).ovm.done ∧ z.ovm.running = (s.die d).ovm.running := by
    rw [hz]
    exact ⟨rfl, rfl, (he d).done, (he d).running⟩
  have hs1 : Framed [.dies] v (v.setDie d z) := State.setDie_framed (List.Subset.refl _) (Framed.refl v) fun _ => by rw [hz]
  have hk : RegsKept (· = rHeapEvents d.other) v ((v.setDie d z).dropTasks d gone) :=
    RegsKept.dropTasks (P := (· = rHeapEvents d.other)) (by cases d <;> decide) gone ((RegsKept.refl v).setDie d z)
  obtain ⟨hd, ho⟩ := (v.setDie d z).dropTasks_drops d gone
  have hs2 : Framed [.regs, .dies] (v.setDie d z) ((v.setDie d z).dropTasks d gone) :=
    State.dropTasks_framed (List.Subset.refl _) (Framed.refl _)
  rw [State.die_setDie] at hd
  rw [State.die_setDie_other] at ho
  generalize v.setDie d z = w at hs1 hs2 hk hd ho ⊢
  generalize w.dropTasks d gone = u at hs2 hk hd ho ⊢
  have hu : Framed [.regs] u (u.event (rHeapEvents d) 0) := State.event_framed (List.Subset.refl _) (Framed.refl u)
  have ud : ∀ e, (u.event (rHeapEvents d) 0).die e = u.die e := fun e => hu.die_eq e
  refine ⟨(hv.mono (by decide)).trans ((hs1.mono (by decide)).trans ((hs2.mono (by decide)).trans (hu.mono (by decide)))),
    u.event_bit _ (by decide), ?_, ?_, ?_, ?_, ?_, ?_⟩
  · exact ((RegsKept.refl s).framed hv).trans (RegsKept.event (P := (· = rHeapEvents d.other)) hne 0 hk)
  · rw [ud]
    exact ⟨hd.roundOn.trans hzr.1, hd.rounds.trans hzr.2.1⟩
  · rw [ud, hd.done, hzr.2.2.1]
  · rw [ud, hd.running, hzr.2.2.2]
  · rw [ud]
    have h := (he d.other).trans ho
    exact ⟨h.roundOn, h.rounds, h.done, h.running, h.survs⟩
  · rw [← hmem]
    exact (hu .mem (by decide)).trans ((hs2 .mem (by decide)).trans (hs1 .mem (by decide)))

/-- What time-up asks of one die in service. -/
structure DieTimedUp (n : Nat) (gone : List Nat) (d : Die) (s u : State) : Prop where
  event : (u.reg (rHeapEvents d)).getLsbD 0 = true
  rounds : (u.die d).roundOn = false ∧ (u.die d).rounds = min n (s.die d).rounds
  done : (u.die d).ovm.done = (s.die d).ovm.done ++ gone
  running : (u.die d).ovm.running = (s.die d).ovm.running.filter fun r => !gone.contains r.task

theorem RoundsEnded.timedUp {n : Nat} {gone : List Nat} {d : Die} {s u : State} (h : RoundsEnded n gone d s u) : DieTimedUp n gone d s u :=
  ⟨h.event, h.rounds, h.done, h.running⟩

/-- The second die's rounds abandoned leave what the first die's were. -/
theorem DieTimedUp.then_other {n m : Nat} {gone left : List Nat} {d : Die} {s v u : State} (h : DieTimedUp n gone d s v)
    (k : RoundsEnded m left d.other v u) : DieTimedUp n gone d s u := by
  obtain ⟨h1, h2, h3, h4, -⟩ := k.other
  have hk := k.kept
  rw [show d.other.other = d by cases d <;> rfl] at h1 h2 h3 h4 hk
  exact ⟨by rw [hk _ rfl]; exact h.event, ⟨h1.trans h.rounds.1, h2.trans h.rounds.2⟩, h3.trans h.done, h4.trans h.running⟩

/-- The tasks given up have ended, and none of them runs. -/
theorem DieTimedUp.task {n : Nat} {d : Die} {s u : State} (h : DieTimedUp n (s.roundsLeft n d) d s u) {k : Nat}
    (hk : k ∈ s.tasksOfRounds d fun r => decide (n ≤ if r.2 then r.1 + 1 else r.1)) :
    k ∈ (u.die d).ovm.done ∧ (k ∉ (s.die d).ovm.done → ∀ r ∈ (u.die d).ovm.running, r.task ≠ k) := by
  have hleft : k ∉ (s.die d).ovm.done → k ∈ s.roundsLeft n d := fun hn => List.mem_filter.mpr ⟨hk, by simpa using hn⟩
  refine ⟨?_, fun hn r hr e => ?_⟩
  · rw [h.done]
    by_cases hd : k ∈ (s.die d).ovm.done
    · exact List.mem_append_left _ hd
    · exact List.mem_append_right _ (hleft hd)
  · rw [h.running] at hr
    have hg := (List.mem_filter.mp hr).2
    rw [e] at hg
    simp [hleft hn] at hg

/-- Memory after a die's survivor list stands again, where it had completed a later round. -/
def restored (m : List Host.Cell) (s : State) (d : Die) : List Host.Cell :=
  if s.commonRounds < (s.die d).rounds then storedWin m d (s.engCfg d).survBase ((s.die d).survs.getD s.commonRounds []) else m

theorem restored_step (s v : State) (d : Die) : (v.when (decide (s.commonRounds < (s.die d).rounds)) fun v =>
    v.storeWin d (s.engCfg d).survBase ((s.die d).survs.getD s.commonRounds [])).mem = restored v.mem s d := by
  unfold State.when restored
  by_cases h : s.commonRounds < (s.die d).rounds
  · rw [if_pos (decide_eq_true h), if_pos h]
    exact State.storeWin_mem _ _ _ _
  · rw [if_neg (by simpa using h), if_neg h]

theorem restored_same {s : State} {d : Die} (h : (s.die d).rounds ≤ s.commonRounds) (m : List Host.Cell) : restored m s d = m :=
  if_neg (Nat.not_lt.mpr h)

theorem State.dies_cases (s : State) : s.dies = [.s0] ∨ s.dies = [.s0, .s1] := by
  unfold State.dies
  split
  · exact .inr rfl
  · exact .inl rfl

/-- Time-up on the dies in service. -/
structure TimedUp (s u : State) : Prop where
  frame : Framed [.now, .regs, .mem, .slices, .dies] s u
  mem : u.mem = s.dies.foldl (fun m d => restored m s d) s.mem
  dies : ∀ d ∈ s.dies, DieTimedUp s.commonRounds (s.roundsLeft s.commonRounds d) d s u

/-- The rounds ended on both dies, or on the only one. -/
theorem timesUp {s a : State} (ha : ∃ n, a = { s with now := n }) :
    TimedUp s (s.dies.foldl (fun v d => v.endRounds s.commonRounds (s.roundsLeft s.commonRounds d) d) a) := by
  have fa : Framed [.now] s a := by
    obtain ⟨n, rfl⟩ := ha
    intro p hp
    cases p <;> first | exact absurd (by decide) hp | rfl | exact ⟨rfl, rfl⟩
  have adie : ∀ d, a.die d = s.die d := fun d => fa.die_eq d
  have amem : a.mem = s.mem := fa .mem (by decide)
  have cfg : ∀ {v : State} {ps : List Part}, Framed ps s v → Part.image ∉ ps → ∀ d, v.engCfg d = s.engCfg d := fun h hp d => by
    unfold State.engCfg
    rw [show _ = s.image from h .image hp]
  have h0 := a.endRounds_ended s.commonRounds (s.roundsLeft s.commonRounds .s0) .s0
  have f0 : Framed [.now, .regs, .mem, .slices, .dies] s (a.endRounds s.commonRounds (s.roundsLeft s.commonRounds .s0) .s0) :=
    (fa.mono (by decide)).trans (h0.frame.mono (by decide))
  have d0 : DieTimedUp s.commonRounds (s.roundsLeft s.commonRounds .s0) .s0 s
      (a.endRounds s.commonRounds (s.roundsLeft s.commonRounds .s0) .s0) := by
    obtain ⟨h1, h2, h3, h4⟩ := h0.timedUp
    rw [adie] at h2 h3 h4
    exact ⟨h1, h2, h3, h4⟩
  have m0 : (a.endRounds s.commonRounds (s.roundsLeft s.commonRounds .s0) .s0).mem = restored s.mem s .s0 := by
    rw [h0.mem, adie, cfg fa (by decide), amem]
    rfl
  rcases s.dies_cases with hd | hd
  · rw [hd]
    refine ⟨f0, by rw [hd]; exact m0, fun d hm => ?_⟩
    rw [hd] at hm
    rw [List.mem_singleton.mp hm]
    exact d0
  · obtain ⟨-, hr1, hd1, hn1, hs1⟩ := h0.other
    rw [hd]
    show TimedUp s ((a.endRounds s.commonRounds (s.roundsLeft s.commonRounds .s0) .s0).endRounds s.commonRounds
      (s.roundsLeft s.commonRounds .s1) .s1)
    generalize a.endRounds s.commonRounds (s.roundsLeft s.commonRounds .s0) .s0 = v at f0 d0 m0 hr1 hd1 hn1 hs1 ⊢
    have h1 := v.endRounds_ended s.commonRounds (s.roundsLeft s.commonRounds .s1) .s1
    generalize v.endRounds s.commonRounds (s.roundsLeft s.commonRounds .s1) .s1 = u at h1 ⊢
    have r1 : (v.die .s1).rounds = (s.die .s1).rounds := hr1.trans (by rw [adie]; rfl)
    have e1 : (v.die .s1).ovm.done = (s.die .s1).ovm.done := hd1.trans (by rw [adie]; rfl)
    have n1 : (v.die .s1).ovm.running = (s.die .s1).ovm.running := hn1.trans (by rw [adie]; rfl)
    have s1 : (v.die .s1).survs = (s.die .s1).survs := hs1.trans (by rw [adie]; rfl)
    refine ⟨f0.trans (h1.frame.mono (by decide)), ?_, fun d _ => ?_⟩
    · rw [hd, h1.mem, r1, s1, cfg f0 (by decide), m0]
      rfl
    · cases d
      · exact d0.then_other h1
      · obtain ⟨k1, k2, k3, k4⟩ := h1.timedUp
        rw [r1] at k2
        rw [e1] at k3
        rw [n1] at k4
        exact ⟨k1, k2, k3, k4⟩

theorem timeupAbandonsTheRound : Statements.TimeupAbandonsTheRound := by
  intro s t hrun hlive hstop hrel hround ht
  have hc : (s.dev == .running && s.tick.live && !s.tick.stopped && s.tick.rel == 4 &&
      decide (s.commonRounds < s.img (·.refine.rounds)) &&
      decide (s.tick.tk + s.img (·.refine.timeupUs) * 1000 ≤ t)) = true := by
    simp [hrun, hlive, hstop, hrel, hround, ht]
  have e : exec (.timeup t) s = .next { (s.dies.foldl (fun v d => v.endRounds s.commonRounds (s.roundsLeft s.commonRounds d) d) (s.advance t)) with
      plan := { (s.dies.foldl (fun v d => v.endRounds s.commonRounds (s.roundsLeft s.commonRounds d) d) (s.advance t)).plan with
        timeoutDeg := true } } := congrArg Host.Outcome.next (if_pos hc)
  have hu := timesUp (s.advance_eq t)
  generalize s.dies.foldl (fun v d => v.endRounds s.commonRounds (s.roundsLeft s.commonRounds d) d) (s.advance t) = u at e hu
  have hmem : u.mem = (s.dies.foldl (fun v d => v.when (decide (s.commonRounds < (s.die d).rounds)) fun v =>
      v.storeWin d (s.engCfg d).survBase ((s.die d).survs.getD s.commonRounds [])) s).mem := by
    rw [hu.mem]
    rcases s.dies_cases with hd | hd
    · rw [hd]
      exact (restored_step s s .s0).symm
    · rw [hd]
      refine (Eq.trans (restored_step s _ .s1) ?_).symm
      rw [restored_step s s .s0]
      rfl
  have hplan : u.plan = s.plan := hu.frame .plan (by decide)
  refine ⟨_, e, congrArg (fun p : Plan => { p with timeoutDeg := true }) hplan, hu.frame .tick (by decide),
    (hu.frame .dev (by decide)).trans hrun, hmem, fun hall => ?_, fun d hd => ?_⟩
  · show u.mem = s.mem
    rw [hu.mem]
    rcases s.dies_cases with hd | hd
    · rw [hd] at hall ⊢
      exact restored_same (hall .s0 (by decide)) _
    · rw [hd] at hall ⊢
      exact (restored_same (hall .s1 (by decide)) _).trans (restored_same (hall .s0 (by decide)) _)
  · have h := hu.dies d hd
    have ud : ({ u with plan := { u.plan with timeoutDeg := true } } : State).die d = u.die d := by cases d <;> rfl
    rw [ud]
    exact ⟨h.event, h.rounds.1, h.rounds.2, fun k hk => h.task hk⟩

/-- Settles O14: the release of a phase by the tasks that may enter, an overrun by what stops, time-up die by die. -/
theorem phaseAndDeadlineEvents : Obligations.PhaseAndDeadlineEvents :=
  ⟨phaseIsReleased, watchdogOverrunsIncompletePhase, recordDeadlineOverruns, timeupAbandonsTheRound⟩

end Sys2Proof.Machine

namespace Sys2Proof.Machine
open Sys2Proof

/-! ### Completion records and the end of a chain (R399 to R401) -/

theorem State.chan_mapChan (s : State) (ch : Nat) (f : Chan → Chan) : (s.mapChan ch f).chan ch = f (s.chan ch) := by
  unfold State.chan State.mapChan
  rw [getD_modifyD, if_pos rfl]

theorem State.chan_of_chans {s u : State} (h : u.chans = s.chans) (ch : Nat) : u.chan ch = s.chan ch := by
  unfold State.chan
  rw [h]

/-- The function's configuration space and its link, as in `z`. -/
def ConfigKept (z s : State) : Prop := s.host.cfg = z.host.cfg ∧ s.host.up = z.host.up

theorem ConfigKept.of_host {z s : State} (h : s.host = z.host) : ConfigKept z s := by
  unfold ConfigKept
  rw [h]
  exact ⟨rfl, rfl⟩

theorem ConfigKept.irq {z s : State} (h : ConfigKept z s) (v : Nat) : ConfigKept z (s.irq v) := by
  unfold State.irq
  split_ifs <;> exact h

/-- A completion record written: HEAD moves on by one, and no other register. -/
structure RecordPut (ch : Nat) (s u : State) : Prop where
  head : u.reg (rHaulChCringHead ch) = s.reg (rHaulChCringHead ch) + 1
  regs : RegsKept (· ≠ rHaulChCringHead ch) s u
  config : ConfigKept s u
  frame : Framed [.regs, .host, .out] s u

theorem State.putRecord_put (s : State) (ch status tag bytes index flags : Nat) :
    RecordPut ch s (s.putRecord ch status tag bytes index flags) := by
  have hf : Framed [.regs, .host, .out] s (s.putRecord ch status tag bytes index flags) :=
    State.putRecord_framed (List.Subset.refl _) (Framed.refl s)
  obtain ⟨v, e, hr, hh⟩ : ∃ v : State, s.putRecord ch status tag bytes index flags = v.irq (chanVector ch) ∧
      v.regs = (s.setReg (rHaulChCringHead ch) (BitVec.ofNat 32 (s.reg (rHaulChCringHead ch) + 1).toNat)).regs ∧ v.host = s.host := ⟨_, rfl, rfl, rfl⟩
  have hreg : ∀ o, (v.irq (chanVector ch)).reg o = (s.setReg (rHaulChCringHead ch) (BitVec.ofNat 32 (s.reg (rHaulChCringHead ch) + 1).toNat)).reg o :=
    fun o => State.reg_of_regs ((v.irq_regs _).trans hr) o
  rw [e] at hf ⊢
  refine ⟨?_, fun o ho => (hreg o).trans (State.reg_setReg_ne _ _ ho), (ConfigKept.of_host hh).irq _, hf⟩
  rw [hreg, State.reg_setReg, BitVec.ofNat_toNat, BitVec.setWidth_eq]

/-- A host-side chain taken off its channel, with no pause to reach. -/
structure ChainDropped (ch st : Nat) (s u : State) : Prop where
  idle : (u.chan ch).chain = none
  status : (u.chan ch).status = st
  free : (u.chan ch).stopping = false ∧ (u.chan ch).pausing = false ∧ (u.chan ch).paused = false
  regs : RegsKept (fun o => o ≠ rHaulChBytes ch ∧ o ≠ rHaulEvents ∧ o ≠ rHaulErrChan ∧ o ≠ rHaulChEvents ch) s u
  event : st ≠ 0 → st ≠ 0xC → (u.reg rHaulEvents).getLsbD 0 = true
  host : u.host = s.host
  mem : u.mem = s.mem

theorem State.dropChain_dropped {s : State} {ch : Nat} (h : Chain) (st : Nat) (hch : ch < 140) (hp : (s.chan ch).pausing = false) :
    ChainDropped ch st s (s.dropChain ch h st) := by
  have hE : rHaulChEvents ch ≠ rHaulEvents := by unfold rHaulChEvents rHaulEvents; omega
  have hB : rHaulErrChan ≠ rHaulEvents := by decide
  unfold State.dropChain
  extract_lets pend bad s0 s1 s2 s3 s4 d1 c1' x1 t1 t2 t3
  have hpend : pend = false := by
    show ((s.chan ch).pausing && _ && _) = false
    rw [hp]
    rfl
  have f0 : Framed [.kl, .out] s s0 := State.dropOps_framed (List.Subset.refl _) (Framed.refl s)
  have c1 : s1.chan ch = { s0.chan ch with chain := none, stopping := false, pausing := false, paused := false, status := st, cur := h.desc } := by
    exact State.chan_mapChan s0 ch _
  have f1 : Framed [.chans] s0 s1 := State.mapChan_framed (List.Subset.refl _) (Framed.refl s0)
  have f2 : Framed [.regs] s1 s2 := State.setReg_framed (List.Subset.refl _) (Framed.refl s1)
  have r2 : RegsKept (· ≠ rHaulChBytes ch) s1 s2 := (RegsKept.refl s1).setReg (by simp) _
  have f3 : Framed [.world] s2 s3 := State.when_framed (Framed.refl s2) fun _ h => State.mapStream_framed (List.Subset.refl _) h
  have f4 : Framed [.regs] s3 s4 := State.when_framed (Framed.refl s3) fun _ h => State.event_framed (List.Subset.refl _)
    (State.setReg_framed (List.Subset.refl _) (State.event_framed (List.Subset.refl _) h))
  have r4 : RegsKept (fun o => o ≠ rHaulEvents ∧ o ≠ rHaulErrChan ∧ o ≠ rHaulChEvents ch) s3 s4 :=
    (RegsKept.refl s3).when ((((RegsKept.refl s3).event (by simp) 0).setReg (by simp) _).event (by simp) 5)
  have e4 : st ≠ 0 → st ≠ 0xC → (s4.reg rHaulEvents).getLsbD 0 = true := fun h0 hC => by
    have hb : bad = true := decide_eq_true ⟨h0, hC⟩
    show (State.reg (if bad = true then _ else _) rHaulEvents).getLsbD 0 = true
    rw [if_pos hb, State.reg_event_ne _ _ hE.symm, State.reg_setReg_ne _ _ hB.symm]
    exact State.event_bit _ _ (by decide)
  rw [if_pos hch, hpend]
  show ChainDropped ch st s s4
  clear_value s4 s3 t3 t2 t1 x1 s2 s1 s0
  have fall : Framed [.regs, .world, .chans, .kl, .out] s s4 := (f0.mono (by decide)).trans ((f1.mono (by decide)).trans
    ((f2.mono (by decide)).trans ((f3.mono (by decide)).trans (f4.mono (by decide)))))
  have c4 : s4.chan ch = s1.chan ch := State.chan_of_chans
    ((f4 .chans (by decide)).trans ((f3 .chans (by decide)).trans (f2 .chans (by decide)))) ch
  refine ⟨?_, ?_, ?_, fun o ho => ?_, e4, fall .host (by decide), fall .mem (by decide)⟩
  · exact (congrArg Chan.chain (c4.trans c1) :)
  · exact (congrArg Chan.status (c4.trans c1) :)
  · exact ⟨(congrArg Chan.stopping (c4.trans c1) :), (congrArg Chan.pausing (c4.trans c1) :), (congrArg Chan.paused (c4.trans c1) :)⟩
  · obtain ⟨h1, h2, h3, h4⟩ := ho
    exact (r4 o ⟨h2, h3, h4⟩).trans ((State.reg_of_regs (f3 .regs (by decide)) o).trans ((r2 o h1).trans
      ((State.reg_of_regs (f1 .regs (by decide)) o).trans (State.reg_of_regs (f0 .regs (by decide)) o))))

/-- A chain ended on a channel with room in its ring: one record, and the channel is free. -/
structure ChainDone (ch st : Nat) (s u : State) : Prop where
  ended : ChainEnded s u ch st
  event : st ≠ 0 → st ≠ 0xC → (u.reg rHaulEvents).getLsbD 0 = true
  host : RegsKept (· = rHostEvents) s u
  config : ConfigKept s u
  mem : u.mem = s.mem

theorem State.writeRecords_ends {s : State} {ch : Nat} (h : Chain) (st : Nat) (last : Nat × Nat) (hch : ch < 140)
    (hp : (s.chan ch).pausing = false) (hroom : s.cringRoom ch = true) : ChainDone ch st s (s.writeRecords ch h last [(st, 1)]) := by
  have e : s.writeRecords ch h last [(st, 1)] = (s.putRecord ch st h.tag h.bytes (h.index % 65536) 1).dropChain ch h st := by
    rw [State.writeRecords, if_pos hroom, State.writeRecords, State.afterRecords]
    exact if_pos rfl
  have r := s.putRecord_put ch st h.tag h.bytes (h.index % 65536) 1
  rw [e]
  generalize s.putRecord ch st h.tag h.bytes (h.index % 65536) 1 = v at r ⊢
  have d := State.dropChain_dropped (s := v) h st hch (by rw [State.chan_of_chans (r.frame .chans (by decide))]; exact hp)
  generalize v.dropChain ch h st = u at d ⊢
  refine ⟨⟨d.idle, d.status, ?_, d.free⟩, d.event, fun o ho => ?_, ?_, d.mem.trans (r.frame .mem (by decide))⟩
  · rw [d.regs _ (by unfold rHaulChCringHead rHaulChBytes rHaulEvents rHaulErrChan rHaulChEvents; omega)]
    exact r.head
  · rw [ho, d.regs _ (by unfold rHaulChBytes rHaulEvents rHaulErrChan rHaulChEvents rHostEvents; omega)]
    exact r.regs _ (by unfold rHaulChCringHead rHostEvents; omega)
  · unfold ConfigKept
    rw [d.host]
    exact r.config

/-- A ring-mode record delivered: the channel is free to send again and one record has been written. -/
structure RecordDelivered (ch st : Nat) (s u : State) : Prop where
  sent : (u.chan ch).sending = none
  shows : (u.chan ch).status = st
  head : u.reg (rHaulChCringHead ch) = s.reg (rHaulChCringHead ch) + 1
  host : RegsKept (· = rHostEvents) s u
  config : ConfigKept s u
  mem : u.mem = s.mem

theorem State.delivered_delivered (s : State) (ch : Nat) (f : Feed) (slot st : Nat) : RecordDelivered ch st s (s.delivered ch f slot st) := by
  unfold State.delivered
  extract_lets s1 s2 s3
  have c1 : s1.chan ch = { s.chan ch with sending := none, status := st } := State.chan_mapChan _ _ _
  have f1 : Framed [.chans] s s1 := State.mapChan_framed (List.Subset.refl _) (Framed.refl s)
  clear_value s1
  have f2 : Framed [.regs] s1 s2 := State.when_framed (Framed.refl s1) fun _ h => State.event_framed (List.Subset.refl _) h
  have r2 : RegsKept (· ≠ rTickEvents) s1 s2 := (RegsKept.refl s1).when ((RegsKept.refl s1).event (by simp) 12)
  clear_value s2
  have r3 : RecordPut ch s2 s3 := State.putRecord_put _ _ _ _ _ _ _
  clear_value s3
  have f4 : Framed [.host, .out] s3 (s3.when (f.kind = 0) fun s => s.irq 2) :=
    State.when_framed (Framed.refl s3) fun _ h => State.irq_framed (List.Subset.refl _) h
  have c4 : ConfigKept s3 (s3.when (f.kind = 0) fun s => s.irq 2) := by
    unfold State.when
    split
    · exact (ConfigKept.of_host rfl).irq 2
    · exact ConfigKept.of_host rfl
  generalize (s3.when (f.kind = 0) fun s => s.irq 2) = u at f4 c4 ⊢
  have hc : u.chan ch = s1.chan ch := State.chan_of_chans
    ((f4 .chans (by decide)).trans ((r3.frame .chans (by decide)).trans (f2 .chans (by decide)))) ch
  have hr : ∀ o, u.reg o = s3.reg o := State.reg_of_regs (f4 .regs (by decide))
  have h1 : ∀ o, s1.reg o = s.reg o := State.reg_of_regs (f1 .regs (by decide))
  refine ⟨(congrArg Chan.sending (hc.trans c1) :), (congrArg Chan.status (hc.trans c1) :), ?_, fun o ho => ?_, ?_, ?_⟩
  · rw [hr, r3.head, r2 _ (by unfold rHaulChCringHead rTickEvents; omega), h1]
  · rw [hr, ho, r3.regs _ (by unfold rHaulChCringHead rHostEvents; omega), r2 _ (by decide), h1]
  · obtain ⟨k1, k2⟩ := r3.config
    have h2 : s2.host = s.host := (f2 .host (by decide)).trans (f1 .host (by decide))
    exact ⟨c4.1.trans (k1.trans (by rw [h2])), c4.2.trans (k2.trans (by rw [h2]))⟩
  · exact (f4 .mem (by decide)).trans ((r3.frame .mem (by decide)).trans ((f2 .mem (by decide)).trans (f1 .mem (by decide))))

end Sys2Proof.Machine

namespace Sys2Proof.Machine
open Sys2Proof

/-! ### Host reads that return or fail (R295, R374, R399) -/

section HostReads

variable {s v : State} {ch t n slot kind : Nat} {f : Feed} {h : Chain}

theorem exec_flushReadReturn_record (hch : ch < 140) (hs : (s.chan ch).sending = some (f, slot)) :
    exec (.flushReadReturn ch t) s = .next ((s.advance t).delivered ch f slot 0) := by
  obtain ⟨n, e⟩ := s.advance_eq t
  have hc : (s.advance t).chan ch = s.chan ch := by rw [e]; rfl
  show execFlushReadReturn ch t s = _
  simp only [execFlushReadReturn, whenNamed, hc, hs, hch, decide_true, if_true]

theorem exec_flushReadReturn_chain (hch : ch < 140) (hn : (s.chan ch).sending = none) (hc : (s.chan ch).chain = some h)
    (hf : h.step = .flush) : exec (.flushReadReturn ch t) s = .next ((s.advance t).finishDesc ch h) := by
  obtain ⟨n, e⟩ := s.advance_eq t
  have hv : (s.advance t).chan ch = s.chan ch := by rw [e]; rfl
  show execFlushReadReturn ch t s = _
  simp only [execFlushReadReturn, whenNamed, hv, hn, hc, hf, hch, decide_true, if_true, State.when]

/-- A chain with the descriptor's bytes counted. -/
def Chain.totalled (h : Chain) : Chain := { h with total := h.total + h.bytes }

theorem State.finishDesc_last (hch : ch < 140) (hstop : (s.chan ch).stopping = false) (he : h.isEnd = true) :
    s.finishDesc ch h = s.writeRecords ch h.totalled (0, 1) [(0, 1)] := by
  have he' : h.totalled.isEnd = true := he
  show (if 140 ≤ ch then _ else if (s.chan ch).stopping = true then _ else if h.totalled.isEnd = true then _ else _) = _
  rw [if_neg (by omega), hstop, if_neg (by decide), if_pos he']
  rfl

theorem State.finishDesc_next (hch : ch < 140) (hstop : (s.chan ch).stopping = false) (hpause : (s.chan ch).pausing = false)
    (he : h.isEnd = false) (hi : h.ctrl 14 14 = 0) : s.finishDesc ch h = s.afterRecords ch h.totalled (0, 0) := by
  have he' : h.totalled.isEnd = false := he
  have hi' : h.totalled.ctrl 14 14 = 0 := hi
  show (if 140 ≤ ch then _ else if (s.chan ch).stopping = true then _ else if h.totalled.isEnd = true then _
    else if (s.chan ch).pausing = true then _ else s.writeRecords ch h.totalled (0, 0) (if (h.totalled.ctrl 14 14 == 1) = true then _ else _)) = _
  rw [if_neg (by omega), hstop, if_neg (by decide), he', if_neg (by decide), hpause, if_neg (by decide), hi', if_neg (by decide),
    State.writeRecords]

theorem State.hostFailed_record (hs : (s.chan ch).sending = some (f, slot)) : s.hostFailed ch = s.delivered ch f slot 0xB := by
  unfold State.hostFailed
  rw [hs]

theorem State.hostFailed_chain (hch : ch < 140) (hs : (s.chan ch).sending = none) (hc : (s.chan ch).chain = some h) :
    s.hostFailed ch = s.writeRecords ch h (0xB, 1) [(0xB, 1)] := by
  unfold State.hostFailed State.endChain
  simp only [hs, hc, hch, if_true]

/-- An error met by a host read and reported in the AER capability, at bit `n` of its status. -/
structure HostFault (n : Nat) (s v : State) : Prop where
  chans : v.chans = s.chans
  mem : v.mem = s.mem
  aer : v.host.cfg.aerStatus.getLsbD n = true
  regs : RegsKept (· ≠ rHostEvents) s v

theorem State.reportAer_bit (s : State) (hn : n < 32) : (s.reportAer n).host.cfg.aerStatus.getLsbD n = true := by
  show (s.host.cfg.aerStatus ||| BitVec.ofNat 32 (2 ^ n)).getLsbD n = true
  rw [BitVec.getLsbD_or, BitVec.getLsbD_ofNat, Nat.testBit_two_pow_self]
  simp [hn]

theorem State.reportAer_fault (s : State) (hn : n < 32) : HostFault n s (s.reportAer n) :=
  ⟨rfl, rfl, s.reportAer_bit hn, fun _ _ => rfl⟩

theorem State.timeout_fault (s : State) : HostFault 14 s ((s.event rHostEvents 4).reportAer 14) :=
  ⟨rfl, rfl, State.reportAer_bit _ (by decide), fun _ ho => State.reg_event_ne _ _ ho⟩

theorem completionAer_lt (kind : Nat) : completionAer kind < 32 := by
  unfold completionAer
  split_ifs <;> decide

/-- A host read that fails, by a timeout or by a completion with EP = 1, UR or CA: what each of the two shows on the way to
what the failure ends. -/
theorem exec_hostFault {c : Instr} (hch : ch < 140) (hr : s.hostReading ch = true)
    (hc : c = .cplTimeout ch ∨ (1 ≤ kind ∧ kind < 4 ∧ c = .hostReadCompletion ch kind)) :
    ∃ v n, exec c s = .next (v.hostFailed ch) ∧ HostFault n s v ∧
      (c = .cplTimeout ch → n = 14 ∧ (v.reg rHostEvents).getLsbD 4 = true) ∧
      (c = .hostReadCompletion ch kind → n = completionAer kind) := by
  rcases hc with rfl | ⟨h1, h4, rfl⟩
  · refine ⟨_, 14, ?_, s.timeout_fault, fun _ => ⟨rfl, State.event_bit s _ (by decide)⟩, fun h => nomatch h⟩
    show execCplTimeout ch s = _
    simp only [execCplTimeout, whenNamed, hch, hr, State.when, decide_true, if_true]
  · refine ⟨_, completionAer kind, ?_, s.reportAer_fault (completionAer_lt kind), (fun h => nomatch h), fun _ => rfl⟩
    have hk : (kind != 0) = true := bne_iff_ne.mpr (by omega)
    show execHostReadCompletion ch kind s = _
    simp only [execHostReadCompletion, whenNamed, hch, h4, hk, hr, State.when, decide_true, Bool.and_self, if_true]

theorem State.hostReading_of_sending (hs : (s.chan ch).sending = some (f, slot)) : s.hostReading ch = true := by
  unfold State.hostReading
  rw [hs]
  rfl

theorem HostFault.chan (h : HostFault n s v) (ch : Nat) : v.chan ch = s.chan ch := State.chan_of_chans h.chans ch

theorem HostFault.cring (h : HostFault n s v) (ch : Nat) :
    v.reg (rHaulChCringHead ch) = s.reg (rHaulChCringHead ch) ∧ v.cringRoom ch = s.cringRoom ch := by
  have hH : v.reg (rHaulChCringHead ch) = s.reg (rHaulChCringHead ch) := h.regs _ (by unfold rHaulChCringHead rHostEvents; omega)
  have hT : v.reg (rHaulChCringTail ch) = s.reg (rHaulChCringTail ch) := h.regs _ (by unfold rHaulChCringTail rHostEvents; omega)
  have hS : v.reg (rHaulChCringSize ch) = s.reg (rHaulChCringSize ch) := h.regs _ (by unfold rHaulChCringSize rHostEvents; omega)
  exact ⟨hH, by unfold State.cringRoom State.cringSize; rw [hH, hT, hS]⟩

end HostReads

/-- FLUSH_READ_RETURN and the failures of host reads, by what waits on the channel (R295, R374, R387, R399). -/
theorem hostReadsReturn : Statements.HostReadsReturn := by
  intro s ch t hch
  refine ⟨fun f slot hs => ?_, fun h hn hc hf he hroom hstop hpause => ?_, fun h hn hc hf he hstop hpause hi => ?_,
    fun f slot c kind hs hck => ?_, fun h c kind hn hc hr hroom hpause hck => ?_, ?_, rfl⟩
  · obtain ⟨n, e⟩ := s.advance_eq t
    have d := (s.advance t).delivered_delivered ch f slot 0
    rw [e] at d
    refine ⟨_, exec_flushReadReturn_record hch hs, ?_⟩
    rw [e]
    exact ⟨d.sent, d.shows, d.head, d.mem⟩
  · obtain ⟨n, e⟩ := s.advance_eq t
    have d := State.writeRecords_ends (s := { s with now := n }) h.totalled 0 (0, 1) hch hpause hroom
    refine ⟨_, exec_flushReadReturn_chain hch hn hc hf, ?_⟩
    rw [e, State.finishDesc_last (s := { s with now := n }) hch hstop he]
    exact ⟨⟨d.ended.idle, d.ended.status, d.ended.record, d.ended.free⟩, d.mem⟩
  · obtain ⟨n, e⟩ := s.advance_eq t
    refine ⟨_, exec_flushReadReturn_chain hch hn hc hf, ?_⟩
    rw [e, State.finishDesc_next (s := { s with now := n }) hch hstop hpause he hi]
    unfold State.afterRecords
    rw [if_neg (by decide)]
    extract_lets on u
    rw [if_neg (by decide), State.when, if_pos (decide_eq_true hch)]
    have hu : u = State.mapChan { s with now := n } ch fun c => { c with chain := some on, cur := on.desc } := if_pos hch
    have hcu : (u.chan ch).chain = some on := by rw [hu, State.chan_mapChan]
    have hf : Framed [.chans] { s with now := n } u := hu ▸ State.mapChan_framed (List.Subset.refl _) (Framed.refl _)
    clear_value u
    have ho : u.out = s.out := hf .out (by decide)
    refine ⟨?_, ⟨on, hcu, rfl, rfl, rfl⟩, hf .regs (by decide), hf .mem (by decide)⟩
    show u.out ++ [.hostRead h.next 32] = _
    rw [ho]
  · obtain ⟨v, n, e, hv, ht, hk⟩ := exec_hostFault (kind := kind) hch (State.hostReading_of_sending hs) hck
    rw [State.hostFailed_record (by rw [hv.chan]; exact hs)] at e
    have d := v.delivered_delivered ch f slot 0xB
    refine ⟨_, e, d.sent, d.shows, d.mem.trans hv.mem, fun hc => ?_, fun hc => ?_⟩
    · obtain ⟨rfl, hb⟩ := ht hc
      exact ⟨by rw [d.host _ rfl]; exact hb, by rw [d.config.1]; exact hv.aer⟩
    · rw [← hk hc, d.config.1]
      exact hv.aer
  · obtain ⟨v, n, e, hv, ht, hk⟩ := exec_hostFault (kind := kind) hch hr hck
    obtain ⟨hH, hR⟩ := hv.cring ch
    rw [State.hostFailed_chain hch (by rw [hv.chan]; exact hn) (by rw [hv.chan]; exact hc)] at e
    have d := State.writeRecords_ends (s := v) h 0xB (0xB, 1) hch (by rw [hv.chan]; exact hpause) (hR.trans hroom)
    refine ⟨_, e, ⟨d.ended.idle, d.ended.status, d.ended.record.trans (by rw [hH]), d.ended.free⟩,
      d.event (by decide) (by decide), d.mem.trans hv.mem, fun hc => ?_, fun hc => ?_⟩
    · obtain ⟨rfl, hb⟩ := ht hc
      exact ⟨by rw [d.host _ rfl]; exact hb, by rw [d.config.1]; exact hv.aer⟩
    · rw [← hk hc, d.config.1]
      exact hv.aer
  · show execHostReadCompletion ch 0 s = _
    simp only [execHostReadCompletion, whenNamed, hch, State.when, decide_true]
    rfl

/-! ### Egress rings (R295, R402, R403) -/

/-- A device-fed record taken from the head of its channel's queue by the link. -/
def State.takeFeed (s : State) (ch : Nat) (rest : List Feed) : State :=
  (s.winLink ch).mapChan ch fun (c : Chan) => { c with feeds := rest }

section EgressRings

variable {s v : State} {ch : Nat} {f : Feed} {rest : List Feed}

theorem State.takeFeed_framed (s : State) (ch : Nat) (rest : List Feed) : Framed [.chans, .host] s (s.takeFeed ch rest) :=
  State.mapChan_framed (by decide) (State.winLink_framed (by decide) (Framed.refl s))

theorem State.takeFeed_chan (s : State) (ch : Nat) (rest : List Feed) :
    (s.takeFeed ch rest).chan ch = { s.chan ch with feeds := rest } := State.chan_mapChan _ _ _

/-- The plan record of the tick in progress handed over to its ring (R31). -/
def State.handPlan (s : State) (f : Feed) : State :=
  { s with plan := { s.plan with handed := s.plan.handed || (f.kind == 0 && s.plan.record == some f.bytes) } }

theorem State.handPlan_eq (s : State) (f : Feed) :
    (s.when (f.kind = 0 && s.plan.record == some f.bytes) fun s => { s with plan := { s.plan with handed := true } }) = s.handPlan f := by
  have hk : (f.kind == 0) = decide (f.kind = 0) := rfl
  unfold State.handPlan State.when
  rw [hk]
  cases (decide (f.kind = 0) && s.plan.record == some f.bytes) with
  | true =>
    rw [Bool.or_true]
    rfl
  | false =>
    rw [Bool.or_false]
    rfl

theorem State.handRecord_sends (hup : v.host.up = true) (hslots : bits (v.egGeom (ch - 128)) 15 0 ≠ 0)
    (hsize : 64 * bits (v.egGeom (ch - 128)) 23 16 ≠ 0)
    (hneed : ceilDiv f.bytes.length (64 * bits (v.egGeom (ch - 128)) 23 16) +
      (v.reg (rHaulChRingHead ch) - v.reg (rHaulChRingTail ch)).toNat ≤ bits (v.egGeom (ch - 128)) 15 0)
    (hroom : v.cringRoom ch = true) :
    ∃ w, Framed [.out] (v.handPlan f) w ∧ v.handRecord ch f = (w.setReg (rHaulChRingHead ch) (v.reg (rHaulChRingHead ch) +
      BitVec.ofNat 32 (ceilDiv f.bytes.length (64 * bits (v.egGeom (ch - 128)) 23 16)))).mapChan ch
        fun c => { c with sending := some (f, (v.reg (rHaulChRingHead ch)).toNat % 65536) } := by
  unfold State.handRecord
  rw [State.handPlan_eq]
  extract_lets geom slots size head used need v0 slot base first w1 rest w2 last
  have hn : need = ceilDiv f.bytes.length size := if_neg hsize
  have hc : (v.handPlan f).host.up = true ∧ slots ≠ 0 ∧ need + used ≤ slots ∧ (v.handPlan f).cringRoom ch = true :=
    ⟨hup, hslots, by rw [hn]; exact hneed, hroom⟩
  rw [if_pos hc]
  have hw : Framed [.out] (v.handPlan f) (w2.emit (.hostRead last 4)) := State.emit_framed (List.Subset.refl _)
    (State.sendHost_framed (List.Subset.refl _) (State.sendHost_framed (List.Subset.refl _) (Framed.refl _)))
  refine ⟨_, hw, ?_⟩
  show (State.setReg _ _ (head + BitVec.ofNat 32 need)).mapChan ch _ = _
  rw [hn]

theorem State.handRecord_drops (hno : v.host.up = false ∨ bits (v.egGeom (ch - 128)) 15 0 = 0 ∨ v.cringRoom ch = false ∨
      64 * bits (v.egGeom (ch - 128)) 23 16 = 0 ∨
      bits (v.egGeom (ch - 128)) 15 0 < ceilDiv f.bytes.length (64 * bits (v.egGeom (ch - 128)) 23 16) +
        (v.reg (rHaulChRingHead ch) - v.reg (rHaulChRingTail ch)).toNat) :
    v.handRecord ch f = (v.handPlan f).dropRecord ch f := by
  unfold State.handRecord
  rw [State.handPlan_eq]
  extract_lets geom slots size head used need
  refine if_neg fun ⟨hup, hslots, hneed, hroom⟩ => ?_
  rcases hno with h | h | h | h | h
  · exact absurd (hup.symm.trans h) (by decide)
  · exact hslots h
  · exact absurd (Eq.symm (a := false) (b := true) (h.symm.trans hroom)) (by decide)
  · have hn : need = slots + 1 := if_pos h
    omega
  · by_cases h0 : size = 0
    · have hn : need = slots + 1 := if_pos h0
      omega
    · have hn : need = ceilDiv f.bytes.length size := if_neg h0
      have hlt : slots < ceilDiv f.bytes.length size + used := h
      omega

/-- A record dropped: counted, with the event of a drop, and no other register. -/
structure RecordDropped (ch : Nat) (s u : State) : Prop where
  counted : u.reg (rHaulChDrop ch) = satAddWord (s.reg (rHaulChDrop ch)) 1
  event : (u.reg rHaulEvents).getLsbD 1 = true
  frame : Framed [.regs] s u

theorem State.dropRecord_dropped (s : State) (f : Feed) (hch : ch < 136) : RecordDropped ch s (s.dropRecord ch f) := by
  have hf : Framed [.regs] s (s.dropRecord ch f) := State.dropRecord_framed (List.Subset.refl _) (Framed.refl s)
  suffices h : _ ∧ _ from ⟨h.1, h.2, hf⟩
  unfold State.dropRecord
  extract_lets w
  have hbase : ∀ d : Die, 0x400000 ≤ d.base := fun d => by cases d <;> decide
  have hw : ∀ o, o = rHaulChDrop ch ∨ o = rHaulEvents →
      (w.when (f.kind = 1) fun s => s.count (rHeapTraceDrop (Die.ofIdx (fieldU f.bytes 8 1))) 1).reg o = w.reg o := fun o ho => by
    have hne : o ≠ rHeapTraceDrop (Die.ofIdx (fieldU f.bytes 8 1)) := by
      have hb := hbase (Die.ofIdx (fieldU f.bytes 8 1))
      unfold rHaulChDrop rHaulEvents at ho
      unfold rHeapTraceDrop
      omega
    unfold State.when
    split_ifs
    · exact State.reg_count_ne _ _ hne
    · rfl
  have hE : rHaulEvents ≠ rHaulChEvents ch := by unfold rHaulChEvents rHaulEvents; omega
  have hD : rHaulChDrop ch ≠ rHaulChEvents ch := by unfold rHaulChEvents rHaulChDrop; omega
  have hDE : rHaulChDrop ch ≠ rHaulEvents := by unfold rHaulEvents rHaulChDrop; omega
  refine ⟨?_, ?_⟩
  · rw [hw _ (Or.inl rfl), State.reg_event_ne _ _ hD, State.reg_event_ne _ _ hDE, State.reg_count]
  · rw [hw _ (Or.inr rfl), State.reg_event_ne _ _ hE]
    exact State.event_bit _ _ (by decide)

theorem exec_ringRecord (hlo : 128 ≤ ch) (hhi : ch < 136) (hf : (s.chan ch).feeds = f :: rest) (hs : (s.chan ch).sending = none) :
    exec (.ringRecord ch) s = .next (if s.linkTaken ch then s.loseLink ch else (s.takeFeed ch rest).handRecord ch f) := by
  show execRingRecord ch s = _
  simp only [execRingRecord, whenNamed, hf, hs, hlo, hhi, and_self, decide_true, if_true]
  rfl

theorem exec_ringRecord_sending (hlo : 128 ≤ ch) (hhi : ch < 136) (hs : (s.chan ch).sending ≠ none) :
    exec (.ringRecord ch) s = .next s := by
  obtain ⟨p, hp⟩ := Option.ne_none_iff_exists'.mp hs
  show execRingRecord ch s = _
  cases hf : (s.chan ch).feeds with
  | nil => simp only [execRingRecord, whenNamed, hf, hlo, hhi, and_self, decide_true, if_true]
  | cons g gs => simp only [execRingRecord, whenNamed, hf, hp, hlo, hhi, and_self, decide_true, if_true]

theorem State.takeFeed_reads (s : State) (ch : Nat) (rest : List Feed) :
    (∀ o, (s.takeFeed ch rest).reg o = s.reg o) ∧ (∀ e, (s.takeFeed ch rest).egGeom e = s.egGeom e) ∧
      (s.takeFeed ch rest).cringRoom ch = s.cringRoom ch ∧ (s.takeFeed ch rest).host.up = s.host.up :=
  ⟨fun _ => rfl, fun _ => rfl, rfl, rfl⟩

end EgressRings

/-- RING_RECORD, by the link and by the room in the two rings (R295, R398, R402, R403). -/
theorem ringRecordIsDeliveredOrDropped : Statements.RingRecordIsDeliveredOrDropped := by
  rintro s ch slots size used f rest hlo hhi hf hs rfl rfl rfl
  have hexec := exec_ringRecord hlo hhi hf hs
  have hv := s.takeFeed_framed ch rest
  have hc := s.takeFeed_chan ch rest
  have hmem : ((s.takeFeed ch rest).handPlan f).mem = s.mem := hv .mem (by decide)
  refine ⟨fun g hg => exec_ringRecord_sending hlo hhi hg, fun ht => ?_, fun ht hup hslots hsize hneed hroom => ?_, fun ht hno => ?_⟩
  · rw [hexec, if_pos ht]
  · obtain ⟨w, fw, e⟩ := State.handRecord_sends (v := s.takeFeed ch rest) (f := f) hup hslots hsize hneed hroom
    rw [hexec, if_neg (by rw [ht]; decide), e]
    have hw : w.chan ch = (s.takeFeed ch rest).chan ch := State.chan_of_chans (fw .chans (by decide)) ch
    have hD : rHaulChDrop ch ≠ rHaulChRingHead ch := by unfold rHaulChDrop rHaulChRingHead; omega
    refine ⟨_, rfl, ?_, ?_, State.reg_setReg _ _ _, ?_, ?_, (fw .mem (by decide)).trans hmem⟩
    · rw [State.chan_mapChan]
      exact (congrArg Chan.feeds (hw.trans hc) :)
    · rw [State.chan_mapChan]
      rfl
    · exact congrArg Plan.handed (fw .plan (by decide))
    · exact (State.reg_setReg_ne _ _ hD).trans (State.reg_of_regs (fw .regs (by decide)) _)
  · rw [hexec, if_neg (by rw [ht]; decide), State.handRecord_drops (v := s.takeFeed ch rest) hno]
    have d := ((s.takeFeed ch rest).handPlan f).dropRecord_dropped f hhi
    have hd := State.chan_of_chans (d.frame .chans (by decide)) ch
    refine ⟨_, rfl, (congrArg Chan.feeds (hd.trans hc) :), ?_, d.counted, d.event, (congrArg Plan.handed (d.frame .plan (by decide)) :),
      (d.frame .out (by decide)).trans (hv .out (by decide)), (d.frame .mem (by decide)).trans hmem⟩
    exact (congrArg Chan.sending (hd.trans hc) :).trans hs

/-- Settles O46: flush reads and failed reads by what waits on the channel, a ring record by the link and the rings' room. -/
theorem hostReadsAndRings : Obligations.HostReadsAndRings :=
  ⟨hostReadsReturn, ringRecordIsDeliveredOrDropped⟩

end Sys2Proof.Machine

namespace Sys2Proof.Machine
open Sys2Proof

/-! ### A Select engine whose number reaches past its block (R59, R240, R363) -/

/-- A KEYINS of a Select engine of S1 whose number is 0x27FE, ended with an error: its SEL.E_TIE_KEPT would stand where
XCUT.DRAIN_NS of S1 stands. -/
def strayWork : SelWork := { (default : SelWork) with engine := 0x27FE, started := true, err := 1 }

/-- S1 draining, with one operation of that engine's chains outstanding at another node. -/
def strayEngine : State :=
  { State.reset with
    d1 := { DieState.reset with power := 3, sel := [strayWork] }
    kl := { State.reset.kl with ops := [⟨0, .chain .s1 0x27FE 0 0 0 0, 0⟩] } }

theorem rSelETieKept_stray : rSelETieKept .s1 0x27FE = rXcutDrainNs .s1 := by decide

/-- The registers of a result after TIE_KEPT leave it alone. -/
theorem RegsKept.afterTieKept (s : State) (d : Die) (e : Nat) (dups mismatches cycles ops : Word) (stall : Nat) :
    RegsKept (· = rSelETieKept d e) s (((((s.setReg (rSelEDups d e) dups).setReg (rSelEMismatches d e) mismatches).setReg
      (rSelECycles d e) cycles).setReg (rSelOps d) ops).count (rSelStall d) stall) := by
  have hd : rSelEDups d e ≠ rSelETieKept d e := by unfold rSelEDups rSelETieKept; omega
  have hm : rSelEMismatches d e ≠ rSelETieKept d e := by unfold rSelEMismatches rSelETieKept; omega
  have hc : rSelECycles d e ≠ rSelETieKept d e := by unfold rSelECycles rSelETieKept; omega
  have ho : rSelOps d ≠ rSelETieKept d e := by unfold rSelOps rSelETieKept; omega
  have hs : rSelStall d ≠ rSelETieKept d e := by unfold rSelStall rSelETieKept; omega
  exact (((((RegsKept.refl s).setReg (by exact hd) _).setReg (by exact hm) _).setReg (by exact hc) _).setReg (by exact ho) _).count
    (by exact hs) _

theorem State.reg_endSel_tieKept (s : State) (d : Die) (w : SelWork) (r : SelResult) :
    (s.endSel d w r).reg (rSelETieKept d w.engine) = BitVec.ofNat 32 r.tieKept := by
  unfold State.endSel
  extract_lets e s0 seq s1 s2 s3 s4 s5 s6 s7 s8 s9 s10 x
  have h5 : s5.reg (rSelETieKept d e) = BitVec.ofNat 32 r.tieKept := State.reg_setReg s4 _ _
  have k : s10.reg (rSelETieKept d e) = s5.reg (rSelETieKept d e) := RegsKept.afterTieKept s5 d e _ _ _ _ _ _ rfl
  clear_value s10
  exact (State.reg_of_regs (State.setDie_regs ..) _).trans (k.trans h5)

/-- A die with its links to the hub and to the other die down. -/
def State.unlinkDie (s : State) (d : Die) : State := s.setDie d { s.die d with hubUp := false, peerUp := false }

theorem State.endTraffic_eq (s : State) (d : Die) : s.endTraffic d =
    (((((s.unlinkDie d).dieChains d).foldl (fun s ch => s.endChainOf ch 4) ((s.unlinkDie d).failDieOps d 4)).failWaits d 4).cutSync).when
      (s.dieBusy d) fun s => s.event (rXcutEvents d) 2 := rfl

/-- Where nothing waits for a memory of this device, no access fails with a die. -/
theorem State.failWaits_regs {s : State} (h : s.nothingWaits) (d : Die) (st : Nat) : (s.failWaits d st).regs = s.regs := by
  obtain ⟨hstalled, hreads⟩ := h
  unfold State.failWaits State.failStalled State.pumpStalled State.failReads
  simp only [hstalled, hreads, List.filter_nil, List.foldl_nil, State.pumpWindow]

/-- Where no chain meets the die and nothing waits for it, of its traffic only its issuers' operations end. -/
theorem State.reg_endTraffic {s : State} {d : Die} {o : Nat} (hc : (s.unlinkDie d).dieChains d = [])
    (hw : ((s.unlinkDie d).failDieOps d 4).nothingWaits) (ho : o ≠ rXcutEvents d) :
    (s.endTraffic d).reg o = ((s.unlinkDie d).failDieOps d 4).reg o := by
  rw [State.endTraffic_eq, hc, List.foldl_nil]
  generalize (s.unlinkDie d).failDieOps d 4 = v at hw ⊢
  have hv : (v.failWaits d 4).cutSync.reg o = v.reg o :=
    (State.reg_of_regs (State.cutSync_framed (List.Subset.refl _) (Framed.refl _) .regs (by decide)) o).trans
      (State.reg_of_regs (State.failWaits_regs hw d 4) o)
  generalize (v.failWaits d 4).cutSync = u at hv ⊢
  exact (RegsKept.when (P := (· = o)) (RegsKept.refl u) (RegsKept.event (by exact fun h => ho h.symm) 2 (RegsKept.refl u)) o rfl).trans hv

/-- S1 with the drain's time shown and the event of the timeout, its traffic not ended yet. -/
def strayDrained : State := (strayEngine.setReg (rXcutDrainNs .s1) (BitVec.ofNat 32 100000)).event (rXcutEvents .s1) 3

theorem strayDrained_failDieOps : ((strayDrained.unlinkDie .s1).failDieOps .s1 4).reg (rXcutDrainNs .s1) = 0 := by
  show (State.event (State.endSel _ .s1 strayWork _) _ _).reg _ = 0
  rw [State.reg_event_ne _ _ (by decide), ← rSelETieKept_stray]
  exact State.reg_endSel_tieKept _ _ _ _

theorem strayDrained_endTraffic : (strayDrained.endTraffic .s1).reg (rXcutDrainNs .s1) = 0 :=
  (State.reg_endTraffic (by decide) ⟨rfl, rfl⟩ (by decide)).trans strayDrained_failDieOps

/-- S1_ISOLATE once S1's traffic has ended. -/
def State.isolated (s : State) : State :=
  let v := ((s.setDie .s1 ((s.die .s1).unpower false)).unlockDie .s1)
  let u := (((v.setDie .s0 { v.die .s0 with peerUp := false }).selfRefresh .s1 true).event rClkpwrEvents 3).setField rDeputyTemp 19 10 0
  ({ u with sys := { u.sys with s1Change := false } }).changeEnds

theorem State.reg_isolated (s : State) : s.isolated.reg (rXcutDrainNs .s1) = s.reg (rXcutDrainNs .s1) := by
  unfold State.isolated
  extract_lets v x u y
  have hv : RegsKept (· = rXcutDrainNs .s1) s (v.setDie .s0 x) := (RegsKept.refl s).of_regs rfl
  have hu : RegsKept (· = rXcutDrainNs .s1) s u :=
    ((hv.setField (by decide) 1 1 (bnat true)).event (by decide) 3).setField (by decide) 19 10 0
  clear_value u
  have hy : RegsKept (· = rXcutDrainNs .s1) s { u with sys := { y with s1Change := false } } := hu.of_regs rfl
  have he : RegsKept (· = rXcutDrainNs .s1) s ({ u with sys := { y with s1Change := false } } : State).changeEnds :=
    hy.when (RegsKept.setField (by decide) 15 0 _ (hy.of_regs rfl))
  exact he _ rfl

theorem exec_s1Isolate_stray : exec (.s1Isolate 0 100000) strayEngine = .next (strayDrained.endTraffic .s1).isolated := rfl

/-- Refutes O28: nothing bounds a Select engine's number, and the result registers of engine 0x27FE of S1 lie over those of its
Crosscut: its operation, ended by the isolation of S1, writes 0 over the drain's time. -/
theorem not_powerDomainOfS1 : ¬ Obligations.PowerDomainOfS1 := by
  rintro ⟨h, -⟩
  obtain ⟨u, e, -, -, -, -, -, -, -, hdrain, -⟩ := (h strayEngine 0 100000 rfl).2 (Or.inl le_rfl)
  obtain rfl := Host.Outcome.next.inj (e.symm.trans exec_s1Isolate_stray)
  rw [State.reg_isolated, strayDrained_endTraffic] at hdrain
  exact absurd hdrain (by decide)

end Sys2Proof.Machine

namespace Sys2Proof.Machine
open Sys2Proof

/-! ### The copy of the world to S1 (R71, R359) -/

/-- A byte of a memory whose span from `lo` to `hi` is replaced by the cells `mid`. -/
theorem memByte_splice (m mid : List Host.Cell) {lo hi : Nat} (hm : ∀ c ∈ mid, lo ≤ c.1 ∧ c.1 < hi) (h : lo ≤ hi) (a : Nat) :
    memByte ((m.filter fun c => decide (c.1 < lo)) ++ mid ++ (m.filter fun c => decide (hi ≤ c.1))) a =
      if lo ≤ a ∧ a < hi then memByte mid a else memByte m a := by
  have low : lo ≤ a → ∀ c ∈ m.filter (fun c => decide (c.1 < lo)), c.1 ≠ a := fun h c hc => by
    have := of_decide_eq_true (List.mem_filter.mp hc).2
    omega
  have high : a < hi → ∀ c ∈ m.filter (fun c => decide (hi ≤ c.1)), c.1 ≠ a := fun h c hc => by
    have := of_decide_eq_true (List.mem_filter.mp hc).2
    omega
  have outside : ¬(lo ≤ a ∧ a < hi) → ∀ c ∈ mid, c.1 ≠ a := fun h c hc => by
    have := hm c hc
    omega
  by_cases h1 : a < lo
  · rw [if_neg (by omega), memByte_append_left _ (high (by omega)), memByte_append_left _ (outside (by omega)),
      memByte_filter m (fun k => decide (k < lo)), if_pos (decide_eq_true h1)]
  · by_cases h2 : a < hi
    · rw [if_pos ⟨by omega, h2⟩, memByte_append_left _ (high h2), memByte_append_right _ (low (by omega))]
    · rw [if_neg (by omega), List.append_assoc, memByte_append_right _ (low (by omega)),
        memByte_append_right _ (outside (by omega)), memByte_filter m (fun k => decide (hi ≤ k)), if_pos (decide_eq_true (by omega))]

/-- The byte at `a` of a span's cells moved from `src` to `dst`. -/
theorem memByte_moved (m : List Host.Cell) (src dst n : Nat) {a : Nat} (h : dst ≤ a ∧ a < dst + n) :
    memByte ((m.filter fun c => decide (src ≤ c.1 ∧ c.1 < src + n)).map fun c => (c.1 - src + dst, c.2)) a =
      memByte m (a - dst + src) := by
  induction m with
  | nil => rfl
  | cons c m ih =>
    rw [memByte_cons]
    by_cases hc : src ≤ c.1 ∧ c.1 < src + n
    · rw [List.filter_cons_of_pos (by simpa using hc), List.map_cons, memByte_cons, ih]
      exact if_congr (by show c.1 - src + dst = a ↔ _; omega) rfl rfl
    · rw [List.filter_cons_of_neg (by simpa using hc), ih, if_neg (by omega)]

/-- A byte after a copy: that of the source where the copy reaches, the byte before elsewhere. -/
theorem memByte_memCopy (m : List Host.Cell) (src dst n a : Nat) :
    memByte (memCopy m src dst n) a = if dst ≤ a ∧ a < dst + n then memByte m (a - dst + src) else memByte m a := by
  refine (memByte_splice m _ (fun c hc => ?_) (Nat.le_add_right dst n) a).trans ?_
  · obtain ⟨b, hb, rfl⟩ := List.mem_map.mp hc
    have := of_decide_eq_true (List.mem_filter.mp hb).2
    show dst ≤ b.1 - src + dst ∧ b.1 - src + dst < dst + n
    omega
  · split_ifs with h
    · exact memByte_moved m src dst n h
    · rfl

/-- Spans of S0's DRAM copied one after the other to the same offsets of S1's. -/
def copySpans (m : List Host.Cell) (spans : List (Nat × Nat)) : List Host.Cell :=
  spans.foldl (fun m p => memCopy m p.1 (dramBase .s1 + p.1) p.2) m

theorem copySpans_outside {spans : List (Nat × Nat)} {a : Nat} (m : List Host.Cell)
    (h : ∀ p ∈ spans, a < dramBase .s1 + p.1 ∨ dramBase .s1 + p.1 + p.2 ≤ a) : memByte (copySpans m spans) a = memByte m a := by
  induction spans generalizing m with
  | nil => rfl
  | cons p spans ih =>
    have hp := h p List.mem_cons_self
    exact (ih _ fun q hq => h q (List.mem_cons_of_mem p hq)).trans ((memByte_memCopy ..).trans (if_neg (by omega)))

/-- A byte below S1's DRAM is no copy's destination. -/
theorem copySpans_below (m : List Host.Cell) (spans : List (Nat × Nat)) {a : Nat} (h : a < dramBase .s1) :
    memByte (copySpans m spans) a = memByte m a := copySpans_outside m fun _ _ => Or.inl (by omega)

/-- A byte of S0 that one of the spans holds stands at S1 after the copies, whichever of them comes last. -/
theorem copySpans_copies {spans : List (Nat × Nat)} {a : Nat} (m : List Host.Cell) (ha : a < dramBase .s1)
    (h : ∃ p ∈ spans, p.1 ≤ a ∧ a < p.1 + p.2) : memByte (copySpans m spans) (dramBase .s1 + a) = memByte m a := by
  induction spans generalizing m with
  | nil => exact absurd h (by simp)
  | cons p spans ih =>
    show memByte (copySpans (memCopy m p.1 (dramBase .s1 + p.1) p.2) spans) _ = _
    by_cases hl : ∃ q ∈ spans, q.1 ≤ a ∧ a < q.1 + q.2
    · rw [ih _ hl]
      exact copySpans_below m [p] ha
    · obtain ⟨q, hq, hqa⟩ := h
      obtain rfl : q = p := (List.mem_cons.mp hq).elim id fun hq => absurd ⟨q, hq, hqa⟩ hl
      have hout : ∀ r ∈ spans, dramBase .s1 + a < dramBase .s1 + r.1 ∨ dramBase .s1 + r.1 + r.2 ≤ dramBase .s1 + a :=
        fun r hr => by
          have : ¬(r.1 ≤ a ∧ a < r.1 + r.2) := fun k => hl ⟨r, hr, k⟩
          omega
      rw [copySpans_outside _ hout, memByte_memCopy, if_pos (by omega)]
      congr 1
      omega

/-- Every span that the copy moves is the front part of one of the directory's and the store's. -/
theorem State.mem_syncSpans {s : State} {p : Nat × Nat} (h : p ∈ s.syncSpans (s.usable .s0)) :
    ∃ q ∈ s.storeSpans, p.1 = q.1 ∧ p.2 ≤ q.2 := by
  obtain ⟨q, hq, rfl⟩ := List.mem_map.mp h
  exact ⟨q, (List.mem_filter.mp hq).1, rfl, Nat.min_le_left ..⟩

theorem State.syncSpans_holds {s : State} {q : Nat × Nat} {a : Nat} (hq : q ∈ s.storeSpans) (h : q.1 ≤ a ∧ a < q.1 + q.2)
    (hu : a < min (s.usable .s0) (s.usable .s1)) : ∃ p ∈ s.syncSpans (s.usable .s0), p.1 ≤ a ∧ a < p.1 + p.2 := by
  have hlim : a < min (s.usable .s0) (min (s.usable .s0) (s.usable .s1)) := by omega
  unfold State.syncSpans
  generalize min (s.usable .s0) (min (s.usable .s0) (s.usable .s1)) = lim at hlim
  refine ⟨_, List.mem_map.mpr ⟨q, List.mem_filter.mpr ⟨hq, decide_eq_true (by omega)⟩, rfl⟩, h.1, ?_⟩
  show a < q.1 + min q.2 (lim - q.1)
  omega

/-- The local spans that a copy to S1 reads and writes. -/
def State.syncAccesses (s : State) : List (Nat × Nat) :=
  (s.syncSpans (s.usable .s0)).flatMap fun p => [p, (dramBase .s1 + p.1, p.2)]

/-- The state that SYNC_DONE leaves (R71). -/
def State.synced (s : State) : State :=
  let v := s.copyStore (s.usable .s0)
  ({ v with world := { v.world with syncing := false, stale := false } } : State).event rWorldEvents 6

theorem State.copyStore_world (s : State) (below : Nat) : (s.copyStore below).world = s.world := rfl

theorem State.synced_world (s : State) : s.synced.world = { s.world with syncing := false, stale := false } :=
  congrArg (fun w : World => { w with syncing := false, stale := false }) (s.copyStore_world _)

theorem State.copyStore_dev (s : State) (below : Nat) : (s.copyStore below).dev = s.dev := rfl

theorem State.synced_dev (s : State) : s.synced.dev = s.dev := (State.event_dev ..).trans (s.copyStore_dev (s.usable .s0))

theorem State.synced_event (s : State) : (s.synced.reg rWorldEvents).getLsbD 6 = true := State.event_bit _ _ (by decide)

/-- Every byte of the directory and the store in the usable DRAM of both dies stands on S1 as on S0. -/
theorem State.synced_copied (s : State) {q : Nat × Nat} {a : Nat} (hq : q ∈ s.storeSpans) (h : q.1 ≤ a ∧ a < q.1 + q.2)
    (hu : a < min (s.usable .s0) (s.usable .s1)) (ha : a < dramBase .s1) : memByte s.synced.mem (dramBase .s1 + a) = memByte s.mem a :=
  copySpans_copies s.mem ha (State.syncSpans_holds hq h hu)

theorem State.synced_outside (s : State) {a : Nat} (h : ∀ p ∈ s.storeSpans, a < dramBase .s1 + p.1 ∨ dramBase .s1 + p.1 + p.2 ≤ a) :
    memByte s.synced.mem a = memByte s.mem a := by
  refine copySpans_outside s.mem fun p hp => ?_
  obtain ⟨q, hq, h1, h2⟩ := State.mem_syncSpans hp
  have := h q hq
  omega

theorem exec_syncDone {s : State} (h : s.world.syncing = true) :
    exec .syncDone s = .next (if s.stalled s.syncAccesses = [] then s.synced else s.noteStalls (s.stalled s.syncAccesses)) := by
  show execSyncDone s = _
  unfold execSyncDone State.afterFront State.synced State.syncAccesses
  rw [h, State.when_true]

theorem dramBase_s1 : dramBase .s1 = 0x800000000 := rfl

/-- Settles O37: S1_SYNC by its condition, SYNC_DONE by the front of the initialisation; the copies one after the other leave the
bytes of S0 as they were, so that each byte of S1 that one of them reaches holds that of S0 in the end. -/
theorem worldIsCopiedToS1 : Obligations.WorldIsCopiedToS1 := by
  intro s
  rw [← dramBase_s1]
  refine ⟨fun hd ha => ?_, fun ha => ?_, fun hs hst => ?_, fun hs hst => ?_⟩
  · show (.next (if s.host.d3 = true then s else s.when s.syncAllowed _) : Out) = _
    rw [hd, ha]
    rfl
  · show (.next (if s.host.d3 = true then s else s.when s.syncAllowed _) : Out) = _
    rw [ha]
    exact congrArg _ (ite_self s)
  · rw [exec_syncDone hs]
    exact congrArg _ (if_neg hst)
  · refine ⟨s.synced, by rw [exec_syncDone hs]; exact congrArg _ (if_pos hst), s.synced_world, s.synced_event, s.synced_dev, ?_, ?_⟩
    · exact fun q hq a hlo hhi hu ha => s.synced_copied hq ⟨hlo, hhi⟩ hu ha
    · exact fun a h => s.synced_outside h

end Sys2Proof.Machine

namespace Sys2Proof.Machine
open Sys2Proof

/-! ### Doorbells and chains (R84, R393) -/

theorem State.write32_performed {s : State} {o : Nat} (hd : s.host.d3 = false) (hc : s.accessCode o = 0) (f : State → State) :
    s.write32 o f = f s := by
  unfold State.write32
  rw [hd, hc]
  rfl

theorem exec_doorbell {s : State} {ch : Nat} {lo : Word} (hch : ch < 140) (hd : s.host.d3 = false)
    (hc : s.accessCode (rHaulChDoorbell ch) = 0) : exec (.doorbell ch lo) s = .next (s.ringDoorbell ch lo) := by
  show whenNamed (decide (ch < 140)) _ = _
  rw [decide_eq_true hch, State.write32_performed hd hc]
  rfl

/-- A doorbell by its address and by the room in the channel's queue. -/
theorem State.ringDoorbell_eq (s : State) (ch : Nat) (lo : Word) :
    s.ringDoorbell ch lo = if lo.toNat % 32 ≠ 0 then s.event (rHaulChEvents ch) 0
      else if 16 ≤ (s.chan ch).queue.length then (s.event (rHaulChEvents ch) 1).event rHaulEvents 3
      else s.mapChan ch fun c =>
        { c with queue := c.queue ++ [lo.toNat + 4294967296 * (s.reg (rHaulChDescHi ch)).toNat] } := rfl

/-- The oldest chain of a channel's queue begun. -/
def State.beginChain (s : State) (ch a : Nat) (rest : List Nat) : State :=
  (s.mapChan ch fun (c : Chan) => { c with queue := rest, chain := some (Chain.begin_ a), cur := a }).setReg (rHaulChBytes ch) 0

/-- The bytes of a stream's new chain parsed from their first. -/
def State.beginStream (s : State) (ch : Nat) : State :=
  s.when (decide (ch < 128)) fun s => s.mapStream ch fun (w : Stream) => { w with chain := w.chain + 1, skip := none, part := [] }

theorem State.beginStream_framed (s : State) (ch : Nat) : Framed [.world] s (s.beginStream ch) :=
  State.when_framed (Framed.refl s) fun _ h => State.mapStream_framed (List.Subset.refl _) h

theorem State.beginStream_stream (s : State) {ch : Nat} (h : ch < 128) :
    (s.beginStream ch).world.streams.getD ch Stream.idle = { s.world.streams.getD ch Stream.idle with
      chain := (s.world.streams.getD ch Stream.idle).chain + 1, skip := none, part := [] } := by
  unfold State.beginStream
  rw [decide_eq_true h, State.when_true]
  exact (getD_modifyD _ _ ch _ ch).trans (if_pos rfl)

theorem exec_chainStart {s : State} {ch a : Nat} {rest : List Nat} (hch : ch < 140) (hn : (s.chan ch).chain = none)
    (hq : (s.chan ch).queue = a :: rest) (hp : (s.chan ch).paused = false) (hpg : (s.chan ch).pausing = false)
    (hr : s.ringMode ch = false) (hu : s.host.up = true) :
    exec (.chainStart ch) s = .next (((s.beginChain ch a rest).beginStream ch).emit (.hostRead a 32)) := by
  show execChainStart ch s = _
  simp only [execChainStart, whenNamed, hn, hq, hp, hpg, hr, hu, hch, decide_true, if_true, State.when]
  rfl

/-- Settles O44: a doorbell by its address and by the room in the queue, CHAIN_START on a channel that is free. -/
theorem doorbellsQueueChains : Obligations.DoorbellsQueueChains := by
  refine fun s ch hch => ⟨fun lo hd hc => ⟨fun ha => ?_, fun ha hf => ?_, fun ha hf => ?_⟩, fun a rest hn hq hp hpg hr hu => ?_⟩
  · rw [exec_doorbell hch hd hc, State.ringDoorbell_eq, if_pos ha]
  · rw [exec_doorbell hch hd hc, State.ringDoorbell_eq, if_neg (not_not.mpr ha), if_pos hf]
  · refine ⟨_, exec_doorbell hch hd hc, ?_⟩
    rw [State.ringDoorbell_eq, if_neg (not_not.mpr ha), if_neg (Nat.not_le.mpr hf)]
    exact ⟨rfl, rfl, State.chan_mapChan .., fun c hne => (State.mapChan_chan ..).trans (if_neg hne)⟩
  · have f := State.beginStream_framed (s.beginChain ch a rest) ch
    have hchan (c : Nat) : ((s.beginChain ch a rest).beginStream ch).chan c = (s.beginChain ch a rest).chan c :=
      State.chan_of_chans (f .chans (by decide)) c
    refine ⟨_, exec_chainStart hch hn hq hp hpg hr hu, ?_, ?_, ?_, fun c hne => ?_, fun hlt => ?_, ?_⟩
    · exact (hchan ch).trans (State.chan_mapChan s ch _)
    · exact (State.reg_of_regs (f .regs (by decide)) _).trans (State.reg_setReg _ _ _)
    · exact congrArg (· ++ [Output.hostRead a 32]) (f .out (by decide))
    · exact (hchan c).trans ((State.mapChan_chan ..).trans (if_neg hne))
    · exact (s.beginChain ch a rest).beginStream_stream hlt
    · exact f .mem (by decide)

end Sys2Proof.Machine

namespace Sys2Proof.Machine
open Sys2Proof

/-! ### What judging an item leaves of the world (R83 to R89) -/

/-- The world but for the streams, the staged items, the stamps and the urgent deltas: what no item of a stream changes by itself. -/
def World.besideItems (w : World) : World := { w with streams := [], staged := [], stamps := [], urgents := [] }

/-- An operation on items of streams: it changes no other part of the world. -/
def ItemsOnly (z s : State) : Prop := s.world.besideItems = z.world.besideItems

namespace ItemsOnly
variable {z s t : State}

theorem refl (s : State) : ItemsOnly s s := rfl

theorem of_world (h : t.world = s.world) (hs : ItemsOnly z s) : ItemsOnly z t := (congrArg World.besideItems h).trans hs

theorem event (o n : Nat) (hs : ItemsOnly z s) : ItemsOnly z (s.event o n) := hs

theorem mapStream (n : Nat) (f : Stream → Stream) (hs : ItemsOnly z s) : ItemsOnly z (s.mapStream n f) := hs

theorem setStamp (g : Target) (v : Nat) (hs : ItemsOnly z s) : ItemsOnly z (s.setStamp g v) := hs

theorem withStaged (l : List Staged) (hs : ItemsOnly z s) : ItemsOnly z { s with world := { s.world with staged := l } } := hs

theorem withUrgents (l : List UrgentDelta) (hs : ItemsOnly z s) : ItemsOnly z { s with world := { s.world with urgents := l } } := hs

theorem ite {c : Prop} [Decidable c] (hs : ItemsOnly z s) (ht : ItemsOnly z t) : ItemsOnly z (if c then s else t) := by
  split
  · exact hs
  · exact ht

theorem when {c : Bool} {f : State → State} (hs : ItemsOnly z s) (hf : ItemsOnly z (f s)) : ItemsOnly z (s.when c f) := ite hf hs

theorem rejectItem (stream code type : Nat) (hs : ItemsOnly z s) : ItemsOnly z (s.rejectItem stream code type) := by
  unfold State.rejectItem
  extract_lets s1 s2 s3
  have h3 : ItemsOnly z s3 := ((hs.mapStream stream _).of_world (State.setReg_world ..)).event _ _
  exact h3.when (h3.of_world (State.irq_world ..))

theorem acceptItem (stream arrival : Nat) (h : ItemHead) (payload : List Byte) (late : Bool) (hs : ItemsOnly z s) :
    ItemsOnly z (s.acceptItem stream arrival h payload late) := by
  unfold State.acceptItem
  extract_lets gap s1 s2 copy s3 stage modes u w s4
  have h1 : ItemsOnly z s1 := hs.when (hs.event _ _)
  have h3 : ItemsOnly z s3 := (h1.mapStream stream _).setStamp _ _
  have h4 : ItemsOnly z s4 := h3.withUrgents _
  exact ite (h4.when ((h4.setStamp _ _).withStaged _)) (h3.withStaged _)

theorem judgeItem (stream arrival chain : Nat) (bs : List Byte) (hs : ItemsOnly z s) :
    ItemsOnly z (s.judgeItem stream arrival chain bs).1 := by
  unfold State.judgeItem
  extract_lets h
  split
  · next code _ => exact (hs.rejectItem stream code h.type).when (hs.rejectItem stream code h.type)
  · exact hs
  · split
    · exact hs
    · exact hs.acceptItem ..

theorem takeUp (stream : Nat) (it : Nat × Nat × List Byte) (hs : ItemsOnly z s) : ItemsOnly z (s.takeUp stream it).1 := by
  unfold State.takeUp
  split
  · extract_lets r
    have hr : ItemsOnly z r.1 := hs.judgeItem ..
    exact hr.when hr
  · exact hs

theorem drainItems (arrivalOf : Nat → Nat) (fuel : Nat) (blocked : List Nat) (hs : ItemsOnly z s) :
    ItemsOnly z (s.drainItems arrivalOf fuel blocked) := by
  induction fuel generalizing s blocked with
  | zero => exact hs
  | succ fuel ih =>
    unfold State.drainItems
    split
    · exact hs
    · next n a _ =>
      split
      · exact hs
      · next it rest _ =>
        extract_lets r
        have hr : ItemsOnly z r.1 := (hs.mapStream n _).judgeItem ..
        split
        · exact ih _ hr
        · exact ih _ hr

end ItemsOnly

/-! ### The verdict on an item (R83) -/

/-- The registers that the checks of an item read. -/
def judgeRegs : List Nat := [rWorldDirExt, rWorldDirTx0, rWorldDirTy0, rWorldStoreSlots, rTickPeriod, rGlbProfile]

/-- Two states in which items are judged alike, given equal streams and stamps. -/
structure JudgesAlike (z s : State) : Prop where
  dev : s.dev = z.dev
  tick : s.tick = z.tick
  image : s.image = z.image
  loading : s.loading = z.loading
  regs : RegsKept (· ∈ judgeRegs) z s

namespace JudgesAlike
variable {z s : State}

theorem img (h : JudgesAlike z s) (f : Image → Nat) : s.img f = z.img f := by
  unfold State.img
  rw [h.image]

theorem dirIndex (h : JudgesAlike z s) (tx ty : Int) : s.dirIndex tx ty = z.dirIndex tx ty := by
  unfold State.dirIndex
  rw [h.regs rWorldDirExt (by decide), h.regs rWorldDirTx0 (by decide), h.regs rWorldDirTy0 (by decide)]

theorem itemFormat (h : JudgesAlike z s) (i : ItemHead) : s.itemFormat i = z.itemFormat i := by
  unfold State.itemFormat State.nSamp
  rw [h.regs rWorldStoreSlots (by decide), h.dirIndex, h.img]

theorem period (h : JudgesAlike z s) : s.period = z.period := by
  unfold State.period
  rw [h.regs rTickPeriod (by decide)]

theorem entry (h : JudgesAlike z s) : s.entry = z.entry := by
  unfold State.entry State.entryProfile State.profile
  rw [h.image, h.loading, h.regs rGlbProfile (by decide)]

theorem window (h : JudgesAlike z s) (arrival cut : Nat) : s.window arrival cut = z.window arrival cut := by
  unfold State.window
  rw [h.dev, h.tick, h.period]

theorem streamCfg (h : JudgesAlike z s) (stream : Nat) : s.streamCfg stream = z.streamCfg stream := by
  unfold State.streamCfg
  rw [h.image]

theorem checkItem (h : JudgesAlike z s) (stream arrival : Nat) (i : ItemHead)
    (hq : (s.world.streams.getD stream Stream.idle).lastSeq = (z.world.streams.getD stream Stream.idle).lastSeq)
    (hs : s.world.stamps = z.world.stamps) : s.checkItem stream arrival i = z.checkItem stream arrival i := by
  unfold State.checkItem State.phaseAt State.cutC World.stampOf
  simp only [h.streamCfg, h.itemFormat, h.window, h.period, h.entry, hq, hs]

end JudgesAlike

/-- A TYPE that R82 does not list fails the format check. -/
theorem State.checkItem_unlisted {s : State} {stream arrival : Nat} {h : ItemHead} (hc : s.streamCfg stream ≠ none)
    (ht : h.type ∉ [1, 2, 3, 5, 6, 7]) : s.checkItem stream arrival h = .reject 6 := by
  obtain ⟨c, hc⟩ := Option.ne_none_iff_exists'.mp hc
  have hk : [1, 2, 3, 5, 6, 7].contains h.type = false := by simpa using ht
  have hf : s.itemFormat h = false := by
    simp only [List.mem_cons, List.not_mem_nil, or_false, not_or] at ht
    obtain ⟨h1, h2, h3, h5, h6, h7⟩ := ht
    unfold State.itemFormat
    extract_lets slots inside agent
    split
    · next e => exact absurd e h1
    · next e => exact absurd e h2
    · next e => exact absurd e h3
    · next e => exact absurd e h5
    · next e => exact absurd e h6
    · next e => exact absurd e h7
    · exact Bool.and_false _
  unfold State.checkItem
  simp only [hc, hk, hf, Bool.false_and, Bool.false_eq_true, if_false, Bool.not_false, if_true]

/-! ### An item judged, by its verdict (R83 to R89) -/

section Judged

variable {s : State} {stream arrival chain code : Nat} {bs : List Byte} {late : Bool}

theorem State.judgeItem_reject (h : s.checkItem stream arrival (decodeHead bs) = .reject code) :
    s.judgeItem stream arrival chain bs = ((s.rejectItem stream code (decodeHead bs).type).when (code = 6) fun s =>
      s.mapStream stream fun c => c.skipChain chain, .nothing) := by
  unfold State.judgeItem
  dsimp only
  rw [h]

theorem State.judgeItem_wait (h : s.checkItem stream arrival (decodeHead bs) = .wait) :
    s.judgeItem stream arrival chain bs = (s, .boundary) := by
  unfold State.judgeItem
  dsimp only
  rw [h]

theorem State.judgeItem_room (h : s.checkItem stream arrival (decodeHead bs) = .take late)
    (hr : s.stageFree < s.itemNeeds (decodeHead bs)) : s.judgeItem stream arrival chain bs =
      ((s.event rWorldEvents 5).mapStream stream fun c => { c with full := true }, .room) := by
  unfold State.judgeItem
  dsimp only
  rw [h]
  exact if_pos hr

theorem State.judgeItem_take (h : s.checkItem stream arrival (decodeHead bs) = .take late)
    (hr : s.itemNeeds (decodeHead bs) ≤ s.stageFree) : s.judgeItem stream arrival chain bs =
      (s.acceptItem stream arrival (decodeHead bs) (bs.drop 64) late, .nothing) := by
  unfold State.judgeItem
  dsimp only
  rw [h]
  exact if_neg (Nat.not_lt.mpr hr)

end Judged

theorem ofLe_lt (bs : List Byte) : ofLe bs < 256 ^ bs.length := by
  induction bs with
  | nil => decide
  | cons b bs ih =>
    have hb := b.isLt
    show b.toNat + 256 * ofLe bs < 256 ^ (bs.length + 1)
    rw [Nat.pow_succ]
    omega

theorem fieldU_byte_lt (bs : List Byte) (o : Nat) : fieldU bs o 1 < 256 :=
  Nat.lt_of_lt_of_le (ofLe_lt _) (Nat.pow_le_pow_right (by decide) (List.length_take_le ..))

theorem World.stampOf_append (w : World) (g : Target) (v : Nat) (g' : Target) :
    ({ w with stamps := (w.stamps.filter fun p => p.1 != g) ++ [(g, v)] } : World).stampOf g' =
      if g' = g then some v else w.stampOf g' := by
  show (List.find? _ (List.filter _ w.stamps ++ [(g, v)])).map _ = _
  unfold World.stampOf
  generalize w.stamps = l
  induction l with
  | nil =>
    by_cases h : g' = g
    · simp [h]
    · simp [h, Ne.symm h]
  | cons p l ih =>
    by_cases hp : p.1 = g
    · rw [List.filter_cons_of_neg (by simp [hp]), ih]
      split_ifs with h
      · rfl
      · rw [List.find?_cons_of_neg (by simpa [hp] using Ne.symm h)]
    · rw [List.filter_cons_of_pos (by simpa using hp), List.cons_append]
      by_cases hg : p.1 = g'
      · rw [List.find?_cons_of_pos (by simpa using hg), List.find?_cons_of_pos (by simpa using hg), if_neg (hg ▸ hp)]
      · rw [List.find?_cons_of_neg (by simpa using hg), List.find?_cons_of_neg (by simpa using hg), ih]

theorem State.setStamp_stampOf (s : State) (g : Target) (v : Nat) (g' : Target) :
    (s.setStamp g v).world.stampOf g' = if g' = g then some v else s.world.stampOf g' := World.stampOf_append s.world g v g'

/-- The stream that takes an item up. -/
def State.unboxed (s : State) (stream : Nat) (rest : List (Nat × Nat × List Byte)) : State :=
  s.mapStream stream fun c => { c with inbox := rest }

theorem State.unboxed_alike (s : State) (stream : Nat) (rest : List (Nat × Nat × List Byte)) :
    JudgesAlike s (s.unboxed stream rest) := ⟨rfl, rfl, rfl, rfl, fun _ _ => rfl⟩

@[simp] theorem State.mapStream_stream (s : State) (n : Nat) (f : Stream → Stream) :
    (s.mapStream n f).world.streams.getD n Stream.idle = f (s.world.streams.getD n Stream.idle) :=
  (getD_modifyD _ f n _ n).trans (if_pos rfl)

theorem State.mapStream_stream_of {s : State} {n : Nat} {c : Stream} (f : Stream → Stream)
    (h : s.world.streams.getD n Stream.idle = c) : (s.mapStream n f).world.streams.getD n Stream.idle = f c :=
  (s.mapStream_stream n f).trans (congrArg f h)

theorem State.unboxed_stream (s : State) (stream : Nat) (rest : List (Nat × Nat × List Byte)) :
    (s.unboxed stream rest).world.streams.getD stream Stream.idle = { s.world.streams.getD stream Stream.idle with inbox := rest } :=
  s.mapStream_stream stream _

theorem State.unboxed_checkItem (s : State) (stream arrival : Nat) (rest : List (Nat × Nat × List Byte)) (h : ItemHead) :
    (s.unboxed stream rest).checkItem stream arrival h = s.checkItem stream arrival h :=
  (s.unboxed_alike stream rest).checkItem stream arrival h ((congrArg Stream.lastSeq (s.unboxed_stream stream rest)).trans rfl) rfl

theorem ItemHead.targetOf_urgent {h : ItemHead} (h7 : h.type = 7) : h.targetOf = .urgent h.target := by
  unfold ItemHead.targetOf
  rw [h7]
  rfl

/-- An item's sequence, counts and stamp taken note of, before it is staged. -/
def State.noteItem (s : State) (stream : Nat) (h : ItemHead) (late : Bool) : State :=
  (s.mapStream stream fun c =>
    { c with lastSeq := some h.seq, acc := c.acc + 1, late := if late then c.late + 1 else c.late }).setStamp h.targetOf h.stamp

/-- An item put behind those that are staged. -/
def State.stageItem (s : State) (it : Staged) : State := { s with world := { s.world with staged := s.world.staged ++ [it] } }

/-- The delta of an urgent item held for the final clearance. -/
def State.holdUrgent (s : State) (d : UrgentDelta) : State := { s with world := { s.world with urgents := s.world.urgents ++ [d] } }

/-- What accepting an item comes to, where `s` is the state in which a gap before it has been reported. -/
def State.acceptNoted (s : State) (stream arrival : Nat) (h : ItemHead) (payload : List Byte) (late : Bool) : State :=
  let v := s.noteItem stream h late
  if h.type = 7 then
    (v.holdUrgent ⟨h.target, h.flags == 1, itemModes h v.nSamp payload, h.stamp, arrival, stream, late⟩).when (s.copyStaged h) fun w =>
      (w.setStamp (.agent h.target) h.stamp).stageItem
        ⟨stream, h.stamp, arrival, false, true, h.length, .agent h.target (itemModes h v.nSamp payload)⟩
  else v.stageItem ⟨stream, h.stamp, arrival, late, false, h.length, itemMatter h v.nSamp payload⟩

theorem State.acceptItem_eq (s : State) (stream arrival : Nat) (h : ItemHead) (payload : List Byte) (late : Bool) :
    ∃ v : State, v.world = s.world ∧ v.image = s.image ∧
      s.acceptItem stream arrival h payload late = v.acceptNoted stream arrival h payload late := by
  refine ⟨_, ?_, ?_, rfl⟩
  · exact State.when_framed (ps := [.regs]) (Framed.refl s) (fun _ k => State.event_framed (List.Subset.refl _) k) .world (by decide)
  · exact State.when_framed (ps := [.regs]) (Framed.refl s) (fun _ k => State.event_framed (List.Subset.refl _) k) .image (by decide)

theorem State.copyStaged_of_stamps {s v : State} (e : v.world.stamps = s.world.stamps) (h : ItemHead) :
    v.copyStaged h = s.copyStaged h := by
  unfold State.copyStaged World.stampOf
  rw [e]

/-- The stream and the stamp once an item has been noted. -/
theorem State.noteItem_noted {s v : State} {stream : Nat} {rest : List (Nat × Nat × List Byte)} (e : v.world = (s.unboxed stream rest).world)
    (h : ItemHead) (late : Bool) :
    (v.noteItem stream h late).world.streams.getD stream Stream.idle =
      { s.world.streams.getD stream Stream.idle with
        inbox := rest
        lastSeq := some h.seq
        acc := (s.world.streams.getD stream Stream.idle).acc + 1
        late := (s.world.streams.getD stream Stream.idle).late + bnat late } ∧
      (v.noteItem stream h late).world.stampOf h.targetOf = some h.stamp := by
  refine ⟨(v.mapStream_stream stream _).trans ?_, (State.setStamp_stampOf ..).trans (if_pos rfl)⟩
  rw [e, State.unboxed_stream]
  cases late <;> rfl

/-- An item accepted: its stream, its stamp, and what is staged or held of it. -/
theorem State.acceptItem_taken (s : State) (stream arrival : Nat) (item : List Byte) (rest : List (Nat × Nat × List Byte)) (late : Bool) :
    ItemTaken s ((s.unboxed stream rest).acceptItem stream arrival (decodeHead item) (itemPayload item) late) stream arrival item rest late := by
  obtain ⟨v, hw, hi, e⟩ := State.acceptItem_eq (s.unboxed stream rest) stream arrival (decodeHead item) (itemPayload item) late
  obtain ⟨hentry, hstamp⟩ := State.noteItem_noted hw (decodeHead item) late
  have hn : (v.noteItem stream (decodeHead item) late).nSamp = s.nSamp := by
    show (match v.image with | some i => _ | none => 0) = _
    rw [hi]
    rfl
  have hstaged : (v.noteItem stream (decodeHead item) late).world.staged = s.world.staged := (congrArg World.staged hw :)
  have hurgents : (v.noteItem stream (decodeHead item) late).world.urgents = s.world.urgents := (congrArg World.urgents hw :)
  rw [e]
  unfold State.acceptNoted
  dsimp only
  rw [State.copyStaged_of_stamps ((congrArg World.stamps hw).trans rfl : v.world.stamps = s.world.stamps), hn]
  generalize v.noteItem stream (decodeHead item) late = w at hentry hstamp hstaged hurgents
  by_cases h7 : (decodeHead item).type = 7
  · have hagent : (decodeHead item).targetOf ≠ .agent (decodeHead item).target := by
      rw [ItemHead.targetOf_urgent h7]
      exact fun h => nomatch h
    rw [if_pos h7]
    cases hc : s.copyStaged (decodeHead item) with
    | true =>
      refine ⟨hentry, ((State.setStamp_stampOf ..).trans (if_neg hagent)).trans hstamp, fun h => absurd h7 h,
        fun _ => ⟨congrArg (· ++ _) hurgents, ?_⟩⟩
      rw [hc, if_pos rfl]
      exact congrArg (· ++ _) hstaged
    | false =>
      refine ⟨hentry, hstamp, fun h => absurd h7 h, fun _ => ⟨congrArg (· ++ _) hurgents, ?_⟩⟩
      rw [hc, if_neg Bool.false_ne_true, List.append_nil]
      exact hstaged
  · rw [if_neg h7]
    exact ⟨hentry, hstamp, fun _ => ⟨hurgents, congrArg (· ++ _) hstaged⟩, fun h => absurd h h7⟩

/-! ### The item commands (R80, R82, R86, R395) -/

/-- An item command takes the items of its TYPE. -/
theorem exec_itemCommand {s : State} {stream arrival : Nat} {item : List Byte} (h : stream < 128) :
    ∃ types, types.contains (fieldU item 0 1) = true ∧
      exec (itemCommand stream arrival item) s = .next (s.ingest stream arrival item types) := by
  have hn (v : State) : whenNamed (decide (stream < 128)) v = .next v := if_pos (decide_eq_true h)
  unfold itemCommand
  split
  · next e => exact ⟨_, by rw [e]; rfl, hn _⟩
  · next e => exact ⟨_, by rw [e]; rfl, hn _⟩
  · next e => exact ⟨_, by rw [e]; rfl, hn _⟩
  · next e => exact ⟨_, by rw [e]; rfl, hn _⟩
  · next e => exact ⟨_, by rw [e]; rfl, hn _⟩
  · next e => exact ⟨_, by rw [e]; rfl, hn _⟩
  · next h1 h2 h3 h5 h6 h7 =>
    refine ⟨_, ?_, hn _⟩
    have hlt := fieldU_byte_lt item 0
    simpa [hlt] using And.intro h1 ⟨h2, h3, h5, h6, h7⟩

theorem State.ingest_next {s : State} {stream arrival chain : Nat} {item : List Byte} {types : List Nat}
    {rest : List (Nat × Nat × List Byte)} (hd : s.dev = .running ∨ s.dev = .hold) (ht : types.contains (fieldU item 0 1) = true)
    (hb : (s.world.streams.getD stream Stream.idle).inbox = (arrival, chain, item) :: rest) (hn : s.world.isNext stream arrival item = true) :
    s.ingest stream arrival item types = ((s.unboxed stream rest).takeUp stream (arrival, chain, item)).1 := by
  have hdev : (s.dev == .running || s.dev == .hold) = true := by
    rcases hd with e | e <;> rw [e] <;> rfl
  unfold State.ingest
  rw [hb]
  dsimp only
  rw [hdev, ht, hn]
  rfl

theorem State.ingest_refused {s : State} {stream arrival : Nat} {item : List Byte} (types : List Nat)
    (h : (s.dev ≠ .running ∧ s.dev ≠ .hold) ∨ s.world.isNext stream arrival item = false) : s.ingest stream arrival item types = s := by
  unfold State.ingest
  split
  · have hc : ((s.dev == .running || s.dev == .hold) && types.contains (fieldU item 0 1) && s.world.isNext stream arrival item) = false := by
      rcases h with ⟨h1, h2⟩ | h
      · rw [beq_false_of_ne h1, beq_false_of_ne h2]
        rfl
      · rw [h, Bool.and_false]
    rw [hc, State.when_false]
  · rfl

theorem State.takeUp_free {s : State} {stream : Nat} (it : Nat × Nat × List Byte)
    (h : (s.world.streams.getD stream Stream.idle).held = []) : (s.takeUp stream it).1 =
      (s.judgeItem stream it.1 it.2.1 it.2.2).1.when ((s.judgeItem stream it.1 it.2.1 it.2.2).2 != .nothing) fun s =>
        s.mapStream stream fun c => { c with held := [it] } := by
  unfold State.takeUp
  rw [h]
  rfl

theorem State.takeUp_behind {s : State} {stream : Nat} (it : Nat × Nat × List Byte)
    (h : (s.world.streams.getD stream Stream.idle).held ≠ []) :
    (s.takeUp stream it).1 = s.mapStream stream fun c => { c with held := c.held ++ [it] } := by
  unfold State.takeUp
  rw [if_neg (by simpa using h)]

/-- A rejection: the stream's counts, what is recorded, and the staging area as it was. -/
structure Rejected (s u : State) (stream code type : Nat) : Prop where
  entry : u.world.streams.getD stream Stream.idle = { s.world.streams.getD stream Stream.idle with
    rej := (s.world.streams.getD stream Stream.idle).rej + 1
    late := (s.world.streams.getD stream Stream.idle).late + bnat (code == 3) }
  rest : u.world.staged = s.world.staged ∧ u.world.urgents = s.world.urgents ∧ u.world.stamps = s.world.stamps
  last : u.reg rWorldRejLast = packFields [(0, stream % 128), (8, code), (16, type % 256)]
  event : (u.reg rWorldEvents).getLsbD 2 = true

theorem State.rejectItem_rejected (s : State) (stream code type : Nat) : Rejected s (s.rejectItem stream code type) stream code type := by
  unfold State.rejectItem
  extract_lets s1 s2 s3
  have hirq : Framed [.host, .out] s3 (s3.when (bit (s3.reg rWorldCtrl) 0) fun s => s.irq (16 + stream / 8)) :=
    State.when_framed (Framed.refl _) fun _ h => State.irq_framed (List.Subset.refl _) h
  generalize s3.when _ _ = u at hirq
  have hw : u.world = s1.world := hirq .world (by decide)
  have hr (o : Nat) : u.reg o = s3.reg o := State.reg_of_regs (hirq .regs (by decide)) o
  refine ⟨?_, hw ▸ ⟨rfl, rfl, rfl⟩, ?_, ?_⟩
  · rw [hw, State.mapStream_stream]
    by_cases h3 : code = 3
    · subst h3
      rfl
    · rw [if_neg h3, beq_false_of_ne h3]
      rfl
  · rw [hr, State.reg_event_ne _ _ (by decide), State.reg_setReg]
  · rw [hr]
    exact State.event_bit _ _ (by decide)

/-- A rejection with what the format check discards of the item's chain (R83, R84). -/
theorem State.rejectItem_skips {s : State} {stream chain code type : Nat} (hs : stream < 128) (ht : type < 256) :
    let u := (s.rejectItem stream code type).when (code = 6) fun s => s.mapStream stream fun c => c.skipChain chain
    u.world.staged = s.world.staged ∧ u.world.urgents = s.world.urgents ∧ u.world.stamps = s.world.stamps ∧
      u.world.streams.getD stream Stream.idle = (fun c => if code = 6 then Stream.skipChain c chain else c)
        { s.world.streams.getD stream Stream.idle with
          rej := (s.world.streams.getD stream Stream.idle).rej + 1
          late := (s.world.streams.getD stream Stream.idle).late + bnat (code == 3) } ∧
      u.reg rWorldRejLast = packFields [(0, stream), (8, code), (16, type)] ∧ (u.reg rWorldEvents).getLsbD 2 = true := by
  obtain ⟨hentry, ⟨hstaged, hurgents, hstamps⟩, hlast, hevent⟩ := State.rejectItem_rejected s stream code type
  rw [Nat.mod_eq_of_lt hs, Nat.mod_eq_of_lt ht] at hlast
  by_cases h6 : code = 6
  · rw [decide_eq_true h6, State.when_true]
    exact ⟨hstaged, hurgents, hstamps, (State.mapStream_stream_of _ hentry).trans (if_pos h6).symm, hlast, hevent⟩
  · rw [decide_eq_false h6, State.when_false]
    exact ⟨hstaged, hurgents, hstamps, hentry.trans (if_neg h6).symm, hlast, hevent⟩

/-- The next of the arrived items on a stream with nothing held: the state in which it is judged, and what holds it. -/
theorem exec_itemCommand_next {s : State} {stream arrival chain : Nat} {item : List Byte} {rest : List (Nat × Nat × List Byte)}
    (h : stream < 128) (hd : s.dev = .running ∨ s.dev = .hold)
    (hb : (s.world.streams.getD stream Stream.idle).inbox = (arrival, chain, item) :: rest) (hn : s.world.isNext stream arrival item = true)
    (hf : (s.world.streams.getD stream Stream.idle).held = []) :
    exec (itemCommand stream arrival item) s = .next
      (((s.unboxed stream rest).judgeItem stream arrival chain item).1.when
        (((s.unboxed stream rest).judgeItem stream arrival chain item).2 != .nothing) fun s =>
        s.mapStream stream fun c => { c with held := [(arrival, chain, item)] }) := by
  obtain ⟨types, ht, e⟩ := exec_itemCommand (s := s) (arrival := arrival) (item := item) h
  rw [e, State.ingest_next hd ht hb hn, State.takeUp_free _ (by rw [State.unboxed_stream]; exact hf)]

/-- Taking an item up changes registers, the streams and what they hold, and what reports it. -/
theorem exec_itemCommand_frame {s u : State} {stream arrival : Nat} {item : List Byte} (h : stream < 128)
    (e : exec (itemCommand stream arrival item) s = .next u) : Framed [.regs, .world, .host, .out] s u := by
  obtain ⟨types, -, e'⟩ := exec_itemCommand (s := s) (arrival := arrival) (item := item) h
  obtain rfl := Host.Outcome.next.inj (e'.symm.trans e)
  exact State.ingest_framed (List.Subset.refl _) (Framed.refl s)

/-- The next item of a stream by the verdict of its checks. -/
theorem itemsAreJudged : Statements.ItemsAreJudged := by
  intro s stream arrival chain item rest hs hd hb hn hf
  have hexec := exec_itemCommand_next hs hd hb hn hf
  have hframe := exec_itemCommand_frame hs hexec
  have hcheck := State.unboxed_checkItem s stream arrival rest (decodeHead item)
  have honly : ItemsOnly s (((s.unboxed stream rest).judgeItem stream arrival chain item).1.when
      (((s.unboxed stream rest).judgeItem stream arrival chain item).2 != .nothing) fun s =>
        s.mapStream stream fun c => { c with held := [(arrival, chain, item)] }) :=
    have hj : ItemsOnly s ((s.unboxed stream rest).judgeItem stream arrival chain item).1 :=
      ((ItemsOnly.refl s).mapStream stream _).judgeItem stream arrival chain item
    hj.when (hj.mapStream stream _)
  refine ⟨_, hexec, hframe .mem (by decide), hframe .tick (by decide), hframe .dev (by decide), (congrArg World.epoch honly :), ?_⟩
  clear honly hframe hexec
  have hreject (code : Nat) (hc : s.checkItem stream arrival (decodeHead item) = .reject code) :=
    State.judgeItem_reject (chain := chain) (hcheck.trans hc)
  have hentry := s.unboxed_stream stream rest
  refine ⟨fun late hc hr => ?_, fun late hc hr => ?_, fun hc => ?_, fun code hc => ?_, fun hcfg ht => ?_⟩
  · rw [State.judgeItem_take (hcheck.trans hc) hr]
    exact State.acceptItem_taken s stream arrival item rest late
  · rw [State.judgeItem_room (hcheck.trans hc) hr]
    refine ⟨?_, rfl, rfl, State.event_bit (s.unboxed stream rest) _ (by decide)⟩
    exact State.mapStream_stream_of _ (State.mapStream_stream_of (s := (s.unboxed stream rest).event rWorldEvents 5) _ hentry)
  · rw [State.judgeItem_wait (hcheck.trans hc)]
    exact ⟨State.mapStream_stream_of _ hentry, rfl, rfl⟩
  · rw [hreject code hc]
    have h := State.rejectItem_skips (s := s.unboxed stream rest) (chain := chain) (code := code) hs (fieldU_byte_lt item 0)
    rw [hentry] at h
    exact h
  · rw [hreject 6 (State.checkItem_unlisted hcfg ht)]
    obtain ⟨-, -, -, he, -, -⟩ :=
      State.rejectItem_skips (s := s.unboxed stream rest) (chain := chain) (code := 6) hs (fieldU_byte_lt item 0)
    refine ⟨(congrArg Stream.skip he).trans rfl, fun i hi => ?_⟩
    have hi' := (congrArg Stream.inbox he) ▸ hi
    simpa using (List.mem_filter.mp hi').2

/-- An item behind a held one waits, and a command out of turn is passed over. -/
theorem itemsKeepTheirOrder : Statements.ItemsKeepTheirOrder := by
  intro s stream arrival item hs
  obtain ⟨types, ht, e⟩ := exec_itemCommand (s := s) (arrival := arrival) (item := item) hs
  refine ⟨fun chain rest hd hb hn hheld => ⟨_, e, ?_⟩, fun h => e.trans (congrArg _ (State.ingest_refused types h))⟩
  have hentry := s.unboxed_stream stream rest
  rw [State.ingest_next hd ht hb hn, State.takeUp_behind _ (by rw [hentry]; exact hheld)]
  exact ⟨State.mapStream_stream_of _ hentry, rfl, rfl, rfl, rfl, rfl⟩

/-- Settles O35: the verdict of the checks decides what an item leaves, and the order of arrival which item is taken up. -/
theorem itemsAreCheckedAndStaged : Obligations.ItemsAreCheckedAndStaged := ⟨itemsAreJudged, itemsKeepTheirOrder⟩

end Sys2Proof.Machine

namespace Sys2Proof.Machine
open Sys2Proof

/-! ### A Crosscut that goes down with an operation of that engine outstanding (R240, R362) -/

theorem rSelEDups_stray : rSelEDups .s1 0x27FE = rXcutEvents .s1 := by decide

/-- The registers of a result after DUPS leave it alone, but those of engine 2, whose DUPS stands where SEL.STALL does. -/
theorem RegsKept.afterDups (s : State) (d : Die) {e : Nat} (he : e ≠ 2) (mismatches cycles ops : Word) (stall : Nat) :
    RegsKept (· = rSelEDups d e) s ((((s.setReg (rSelEMismatches d e) mismatches).setReg (rSelECycles d e) cycles).setReg
      (rSelOps d) ops).count (rSelStall d) stall) := by
  have hm : rSelEMismatches d e ≠ rSelEDups d e := by unfold rSelEMismatches rSelEDups; omega
  have hc : rSelECycles d e ≠ rSelEDups d e := by unfold rSelECycles rSelEDups; omega
  have ho : rSelOps d ≠ rSelEDups d e := by unfold rSelOps rSelEDups; omega
  have hs : rSelStall d ≠ rSelEDups d e := by unfold rSelStall rSelEDups; omega
  exact ((((RegsKept.refl s).setReg (by exact hm) _).setReg (by exact hc) _).setReg (by exact ho) _).count (by exact hs) _

theorem State.reg_endSel_dups (s : State) (d : Die) {w : SelWork} (r : SelResult) (he : w.engine ≠ 2) :
    (s.endSel d w r).reg (rSelEDups d w.engine) = BitVec.ofNat 32 r.dups := by
  unfold State.endSel
  extract_lets e s0 seq s1 s2 s3 s4 s5 s6 s7 s8 s9 s10 x
  have h6 : s6.reg (rSelEDups d e) = BitVec.ofNat 32 r.dups := State.reg_setReg s5 _ _
  have k : s10.reg (rSelEDups d e) = s6.reg (rSelEDups d e) := RegsKept.afterDups s6 d he _ _ _ _ _ rfl
  clear_value s10
  exact (State.reg_of_regs (State.setDie_regs ..) _).trans (k.trans h6)

/-- A die with its Crosscut to the hub down. -/
def State.unhubDie (s : State) (d : Die) : State := s.setDie d { s.die d with hubUp := false }

/-- The stray engine's S1 with its Crosscut to the hub still up. -/
def strayLinked : State := { strayEngine with d1 := { strayEngine.d1 with hubUp := true } }

/-- That state once the failed flit has been counted and its event is set. -/
def strayFailing : State := ((strayLinked.count (rXcutRetries .s1) 3).event (rXcutEvents .s1) 0).event (rXcutEvents .s1) 1

theorem strayFailing_failDieOps : ((strayFailing.unhubDie .s1).failDieOps .s1 6).reg (rXcutEvents .s1) = 0 := by
  show (State.event (State.endSel _ .s1 strayWork _) _ _).reg _ = 0
  rw [State.reg_event_ne _ _ (by decide), ← rSelEDups_stray]
  exact State.reg_endSel_dups _ _ _ (by decide)

/-- Where no chain crosses and nothing waits for the die, only its issuers' operations end with its Crosscut to the hub. -/
theorem State.reg_failXcut {s : State} {d : Die} (o : Nat)
    (hc : ((List.range 204).filter fun ch => ((s.unhubDie d).failDieOps d 6).chainCrosses true d ch) = [])
    (hw : ((s.unhubDie d).failDieOps d 6).nothingWaits) :
    (s.failXcut true d).reg o = ((s.unhubDie d).failDieOps d 6).reg o := by
  unfold State.failXcut
  extract_lets _ _ _ v w
  have hv : v = (s.unhubDie d).failDieOps d 6 := if_pos rfl
  rw [← hv] at hc hw ⊢
  have hvw : w = v := congrArg (List.foldl _ v) hc
  rw [if_pos rfl, hvw]
  exact State.reg_of_regs (State.failWaits_regs hw d 6) o

theorem strayFailing_failXcut : (strayFailing.failXcut true .s1).reg (rXcutEvents .s1) = 0 :=
  (State.reg_failXcut _ (by decide) ⟨rfl, rfl⟩).trans strayFailing_failDieOps

theorem exec_xcutFlitFail_stray : exec (.xcutFlitFail true .s1 4) strayLinked =
    .next ((strayFailing.failXcut true .s1).log warn 0x0400 (tallySource 2 7 0) (leBytes 1 1)) := rfl

/-- Refutes O56: nothing bounds a Select engine's number, and the result registers of engine 0x27FE of S1 lie over those of its
Crosscut: its operation, ended by the failure of the Crosscut, writes 0 over the event that reports it. -/
theorem not_clocksRailsAndMemoryCare : ¬ Obligations.ClocksRailsAndMemoryCare := by
  rintro ⟨h, -⟩
  obtain ⟨-, hfails, -⟩ := h strayLinked .s1 4 0
  obtain ⟨u, e, -, -, hevent, -⟩ := (hfails (by decide)).1 rfl
  obtain rfl := Host.Outcome.next.inj (e.symm.trans exec_xcutFlitFail_stray)
  rw [State.reg_log _ _ _ _ _ (by decide), strayFailing_failXcut] at hevent
  exact absurd hevent (by decide)

end Sys2Proof.Machine

namespace Sys2Proof.Machine
open Sys2Proof

/-! ### Two states that an access meets alike (R342, R359, R362, R365) -/

/-- The registers that decide on an access to the local map. -/
def accessRegs : List Nat := [rDmcSize .s0, rDmcSize .s1, rDmcInitFront .s0, rDmcInitFront .s1, rWorldDirBaseLo, rWorldDirBaseHi,
  rWorldDirExt, rWorldStoreBaseLo, rWorldStoreBaseHi, rWorldStoreSlots, rKlinkCoord]

/-- What an access meets of a die. -/
def DieState.gates (x : DieState) : Nat × Bool × Bool × Bool := (x.power, x.isolated, x.hubUp, x.peerUp)

/-- Two states that differ in nothing that decides on an access. -/
structure AccessAlike (z s : State) : Prop where
  dev : s.dev = z.dev
  sec : s.sec = z.sec
  image : s.image = z.image
  sys : s.sys.s1Rising = z.sys.s1Rising ∧ s.sys.profileBusy = z.sys.profileBusy
  dies : ∀ d, (s.die d).gates = (z.die d).gates
  regs : RegsKept (· ∈ accessRegs) z s

namespace AccessAlike
variable {z s t : State}

theorem refl (s : State) : AccessAlike s s := ⟨rfl, rfl, rfl, ⟨rfl, rfl⟩, fun _ => rfl, RegsKept.refl s⟩

theorem trans (h : AccessAlike z s) (k : AccessAlike s t) : AccessAlike z t :=
  ⟨k.dev.trans h.dev, k.sec.trans h.sec, k.image.trans h.image, ⟨k.sys.1.trans h.sys.1, k.sys.2.trans h.sys.2⟩,
    fun d => (k.dies d).trans (h.dies d), h.regs.trans k.regs⟩

/-- An operation with a frame beside what decides on an access. -/
theorem of_frame {ps : List Part} (hf : Framed ps z s) (hr : RegsKept (· ∈ accessRegs) z s)
    (hp : Part.dev ∉ ps ∧ Part.sec ∉ ps ∧ Part.image ∉ ps ∧ Part.sys ∉ ps ∧ Part.dies ∉ ps := by decide) : AccessAlike z s := by
  obtain ⟨hdev, hsec, himage, hsys, hdies⟩ := hp
  have hs := hf .sys hsys
  obtain ⟨h0, h1⟩ := hf .dies hdies
  refine ⟨hf .dev hdev, hf .sec hsec, hf .image himage, ⟨(congrArg Sys.s1Rising hs :), (congrArg Sys.profileBusy hs :)⟩, fun d => ?_, hr⟩
  cases d
  · exact (congrArg DieState.gates h0 :)
  · exact (congrArg DieState.gates h1 :)

theorem advance (s : State) (t : Nat) : AccessAlike s (s.advance t) :=
  of_frame (ps := [.now]) (State.advance_framed (List.Subset.refl _) (Framed.refl s)) ((RegsKept.refl s).advance t)

theorem setDie {d : Die} {x : DieState} (h : x.gates = (s.die d).gates) : AccessAlike s (s.setDie d x) := by
  refine ⟨State.setDie_dev .., State.setDie_sec .., State.setDie_image .., by cases d <;> exact ⟨rfl, rfl⟩, fun e => ?_,
    (RegsKept.refl s).setDie d x⟩
  cases d
  · cases e
    · exact h
    · rfl
  · cases e
    · rfl
    · exact h

theorem setReg {o : Nat} (ho : o ∉ accessRegs) (v : Word) : AccessAlike s (s.setReg o v) :=
  ⟨rfl, rfl, rfl, ⟨rfl, rfl⟩, fun d => by cases d <;> rfl, (RegsKept.refl s).setReg ho v⟩

theorem contend (s : State) (d : Die) (port : Nat) (reqs : List Nat) : AccessAlike s (s.contend d port reqs) := by
  unfold State.contend
  extract_lets x rs
  split
  · exact refl s
  · extract_lets lost s1
    have h1 : AccessAlike s s1 := setDie rfl
    have ho : (if port = 0 then rGalConfTotalA d else rGalConfTotalB d) ∉ accessRegs := by
      split <;> cases d <;> decide
    exact h1.trans (setReg ho _)

theorem contendAll (s : State) (ports : List (Die × Nat × List Nat)) : AccessAlike s (s.contendAll ports) :=
  List.foldlRecOn ports _ (refl s) fun _ h _ _ => h.trans (contend ..)

theorem gated (h : AccessAlike z s) (d : Die) : s.gated d = z.gated d := by
  have hp : (s.die d).power = (z.die d).power := congrArg (·.1) (h.dies d)
  have hi : (s.die d).isolated = (z.die d).isolated := congrArg (·.2.1) (h.dies d)
  unfold State.gated
  dsimp only
  rw [hp, hi, h.sys.1, h.sys.2]

theorem hasS1 (h : AccessAlike z s) : s.hasS1 = z.hasS1 := by
  unfold State.hasS1
  rw [h.sec]

theorem usable (h : AccessAlike z s) (d : Die) : s.usable d = z.usable d := by
  unfold State.usable
  rw [h.regs _ (by cases d <;> decide)]

theorem front (h : AccessAlike z s) (d : Die) : s.front d = z.front d := by
  unfold State.front
  rw [h.regs _ (by cases d <;> decide)]

theorem spanStatus (h : AccessAlike z s) (a n : Nat) : s.spanStatus a n = z.spanStatus a n := by
  unfold State.spanStatus
  simp only [h.gated, h.hasS1, h.usable]

theorem opStatus (h : AccessAlike z s) (a n : Nat) : s.opStatus a n = z.opStatus a n := by
  unfold State.opStatus
  rw [h.spanStatus]

theorem stalled (h : AccessAlike z s) (spans : List (Nat × Nat)) : s.stalled spans = z.stalled spans := by
  unfold State.stalled State.stalls
  simp only [h.spanStatus, h.front]

theorem crossDown (h : AccessAlike z s) (g : Option Die) (a n : Nat) : s.crossDown g a n = z.crossDown g a n := by
  have hh (d : Die) : (s.die d).hubUp = (z.die d).hubUp := congrArg (·.2.2.1) (h.dies d)
  have hp (d : Die) : (s.die d).peerUp = (z.die d).peerUp := congrArg (·.2.2.2) (h.dies d)
  unfold State.crossDown
  simp only [h.gated, hh, hp]

theorem storeSpans (h : AccessAlike z s) : s.storeSpans = z.storeSpans := by
  unfold State.storeSpans State.pair
  rw [h.regs rWorldDirBaseLo (by decide), h.regs rWorldDirBaseHi (by decide), h.regs rWorldDirExt (by decide),
    h.regs rWorldStoreBaseLo (by decide), h.regs rWorldStoreBaseHi (by decide), h.regs rWorldStoreSlots (by decide)]

theorem guardHit (h : AccessAlike z s) (a n : Nat) : s.guardHit a n = z.guardHit a n := by
  unfold State.guardHit
  rw [h.dev, h.storeSpans]

theorem writeStatus (h : AccessAlike z s) (a n : Nat) : s.writeStatus a n = z.writeStatus a n := by
  unfold State.writeStatus
  rw [h.opStatus, h.guardHit]

theorem node (h : AccessAlike z s) : s.node = z.node := by
  unfold State.node
  rw [h.image, h.regs rKlinkCoord (by decide)]

theorem deviceHere (h : AccessAlike z s) (ch : Nat) (c : Chain) : s.deviceHere ch c = z.deviceHere ch c := by
  unfold State.deviceHere
  rw [h.node]

end AccessAlike

end Sys2Proof.Machine

namespace Sys2Proof.Machine
open Sys2Proof

/-! ### Bytes stored in the DRAM of the dies in service (R67, R68) -/

theorem leBytes_length (n v : Nat) : (leBytes n v).length = n := by
  induction n generalizing v with
  | zero => rfl
  | succ n ih => exact congrArg (· + 1) (ih _)

theorem State.usable_lt (s : State) (d : Die) : s.usable d < 0x1000000000 := by
  have h : bits (s.reg (rDmcSize d)) 31 16 < 2 ^ (31 + 1 - 16) := Nat.mod_lt _ (Nat.two_pow_pos _)
  unfold State.usable
  omega

theorem dramBase_le (d : Die) : dramBase d ≤ 0x800000000 := by cases d <;> decide

/-- Below the on-chip windows no address holds a world slice. -/
theorem sliceWindow_dram {a : Nat} (h : a < 0x400000000000) : sliceWindow a = none := by
  unfold sliceWindow
  rw [if_neg (by simp only [winBaseOf]; omega), if_neg (by simp only [winBaseOf]; omega)]

theorem State.store_dram (s : State) {a : Nat} (data : List Byte) (h : a < 0x400000000000) :
    s.store a data = { s with mem := memWrite s.mem a data } := by
  unfold State.store
  rw [sliceWindow_dram h]

/-- A byte outside the span of a store, whichever memory holds the span. -/
theorem State.memByte_store_outside (s : State) {a x : Nat} (data : List Byte) (h : x < a ∨ a + data.length ≤ x) :
    memByte (s.store a data).mem x = memByte s.mem x := by
  unfold State.store
  split
  · exact congrArg (memByte · x) (State.setDie_mem ..)
  · exact (memByte_write ..).trans (if_neg (by omega))

/-- A store leaves the registers, the fuses and the dies in service. -/
theorem State.store_usable (s : State) (a : Nat) (data : List Byte) (d : Die) : (s.store a data).usable d = s.usable d :=
  congrArg (fun w : Word => bits w 31 16 * 1048576)
    (State.reg_of_regs (State.store_framed (List.Subset.refl _) (Framed.refl s) .regs (by decide)) _)

/-- Bytes stored on a die where its usable DRAM holds them. -/
def State.storeDie (s : State) (off : Nat) (data : List Byte) (d : Die) : State :=
  s.when (decide (off + data.length ≤ s.usable d)) fun s => s.store (dramBase d + off) data

theorem State.storeDies_eq (s : State) (off : Nat) (data : List Byte) :
    s.storeDies off data = s.dies.foldl (fun s d => s.storeDie off data d) s := rfl

theorem State.storeDie_usable (s : State) (off : Nat) (data : List Byte) (d e : Die) : (s.storeDie off data d).usable e = s.usable e := by
  unfold State.storeDie State.when
  split
  · exact s.store_usable ..
  · rfl

theorem State.memByte_storeDie_outside (s : State) (off : Nat) (data : List Byte) {d : Die} {x : Nat}
    (h : x < dramBase d + off ∨ dramBase d + off + data.length ≤ x) : memByte (s.storeDie off data d).mem x = memByte s.mem x := by
  unfold State.storeDie State.when
  split
  · exact s.memByte_store_outside data h
  · rfl

theorem State.memByte_storeDie (s : State) {off : Nat} {data : List Byte} {d : Die} (hu : off + data.length ≤ s.usable d) {i : Nat}
    (hi : i < data.length) : memByte (s.storeDie off data d).mem (dramBase d + off + i) = data.getD i 0 := by
  have hlt := s.usable_lt d
  have hb := dramBase_le d
  unfold State.storeDie
  rw [decide_eq_true hu, State.when_true, State.store_dram s data (by omega)]
  refine (memByte_write ..).trans ((if_pos (by omega)).trans ?_)
  rw [Nat.add_sub_cancel_left]

theorem State.memByte_storeDies_outside (s : State) (off : Nat) (data : List Byte) {x : Nat}
    (h : ∀ d : Die, x < dramBase d + off ∨ dramBase d + off + data.length ≤ x) : memByte (s.storeDies off data).mem x = memByte s.mem x := by
  rw [State.storeDies_eq]
  generalize s.dies = l
  induction l generalizing s with
  | nil => rfl
  | cons d l ih => exact (ih _).trans (s.memByte_storeDie_outside off data (h d))

/-- What is stored on each die in service stands there, the spans of the dies being apart. -/
theorem State.memByte_storeDies (s : State) {off : Nat} {data : List Byte} {d : Die} (hd : d ∈ s.dies)
    (hu : off + data.length ≤ s.usable d) (hl : data.length ≤ 0x800000000) {i : Nat} (hi : i < data.length) :
    memByte (s.storeDies off data).mem (dramBase d + off + i) = data.getD i 0 := by
  rw [State.storeDies_eq]
  rcases s.dies_cases with e | e
  · rw [e] at hd ⊢
    obtain rfl := List.mem_singleton.mp hd
    exact s.memByte_storeDie hu hi
  · rw [e]
    show memByte ((s.storeDie off data .s0).storeDie off data .s1).mem _ = _
    cases d with
    | s0 =>
      rw [State.memByte_storeDie_outside _ _ _ (Or.inl (by show 0 + off + i < 0x800000000 + off; omega))]
      exact s.memByte_storeDie hu hi
    | s1 => exact State.memByte_storeDie _ (by rwa [State.storeDie_usable]) hi

/-! ### The work of a commit besides its items (R72, R74, R95, R358, R456) -/

/-- The registers that the work of a commit reads on its way and leaves. -/
def workRegs : List Nat := [rGlbProfile, rWorldEvents, rDmcEccCe .s0, rDmcEccCe .s1]

/-- The work on the slices and the mirror: DRAM, the profile, WORLD.EVENTS and the counts of corrected errors stay. -/
structure Paged (z s : State) : Prop where
  dram : ∀ a, a < 0x400000000000 → memByte s.mem a = memByte z.mem a
  regs : RegsKept (· ∈ workRegs) z s

namespace Paged
variable {z s t : State}

theorem refl (s : State) : Paged s s := ⟨fun _ _ => rfl, RegsKept.refl s⟩

theorem of_mem (hs : Paged z s) (h : t.mem = s.mem) (k : RegsKept (· ∈ workRegs) z s → RegsKept (· ∈ workRegs) z t) : Paged z t :=
  ⟨fun a ha => (congrArg (memByte · a) h).trans (hs.dram a ha), k hs.regs⟩

theorem setReg {o : Nat} (ho : o ∉ workRegs) (v : Word) (hs : Paged z s) : Paged z (s.setReg o v) :=
  hs.of_mem rfl (RegsKept.setReg ho v)

theorem event {o : Nat} (ho : o ∉ workRegs) (n : Nat) (hs : Paged z s) : Paged z (s.event o n) := hs.setReg ho _

theorem count {o : Nat} (ho : o ∉ workRegs) (n : Nat) (hs : Paged z s) : Paged z (s.count o n) := hs.setReg ho _

theorem log (sev code source : Nat) (data : List Byte) (hs : Paged z s) : Paged z (s.log sev code source data) :=
  hs.of_mem (State.log_framed (List.Subset.refl _) (Framed.refl s) .mem (by decide)) (RegsKept.log (by decide) sev code source data)

theorem setDie (d : Die) (x : DieState) (hs : Paged z s) : Paged z (s.setDie d x) := hs.of_mem (State.setDie_mem ..) (RegsKept.setDie d x)

theorem ite {c : Prop} [Decidable c] (hs : Paged z s) (ht : Paged z t) : Paged z (if c then s else t) := by
  split
  · exact hs
  · exact ht

theorem when {c : Bool} {f : State → State} (hs : Paged z s) (hf : Paged z (f s)) : Paged z (s.when c f) := ite hf hs

theorem foldl {α : Type} {f : State → α → State} (hf : ∀ t a, Paged z t → Paged z (f t a)) (l : List α) (hs : Paged z s) :
    Paged z (l.foldl f s) := by
  induction l generalizing s with
  | nil => exact hs
  | cons a l ih => exact ih (hf s a hs)

theorem storeWin (d : Die) (o : Nat) (data : List Byte) (hs : Paged z s) : Paged z (s.storeWin d o data) := by
  have hw : 0x400000000000 ≤ winBaseOf d := by cases d <;> decide
  exact ⟨fun a ha => (s.memByte_store_outside data (Or.inl (by omega))).trans (hs.dram a ha), hs.regs.store _ _⟩

theorem broadcastSlice (d : Die) (o : Nat) (cells : List Byte) (hs : Paged z s) : Paged z (s.broadcastSlice d o cells) := by
  have hk : 0x400000000000 ≤ sliceKey d o := by unfold sliceKey; omega
  have hw : Paged z { s with mem := memWrite s.mem (sliceKey d o) cells } :=
    ⟨fun a ha => ((memByte_write ..).trans (if_neg (by omega))).trans (hs.dram a ha), hs.regs.of_regs rfl⟩
  exact hw.setDie d _

theorem pagerRegs {o : Nat} (d : Die) (h : o ∈ [rPagerEvents d, rPagerLoads d, rPagerLoadTotal d]) : o ∉ workRegs := by
  revert o
  cases d <;> decide

theorem loadTile (d : Die) (ue : List (Int × Int × Bool)) (tx ty : Int) (hs : Paged z s) : Paged z (s.loadTile d ue tx ty) := by
  have hev : rPagerEvents d ∉ workRegs := pagerRegs d (by simp)
  unfold State.loadTile
  generalize s.fetchTile d tx ty = r
  obtain ⟨cells, range⟩ := r
  dsimp -zeta only
  extract_lets s1 _ _ _ _ s2 s3 mark
  have h1 : Paged z s1 := hs.when (hs.event hev 2)
  have h2 : Paged z s2 := ite ((h1.event hev 1).log ..) (ite ((h1.event hev 0).log ..) h1)
  have h3 : Paged z s3 := (h2.count (pagerRegs d (by simp)) 1).count (pagerRegs d (by simp)) 1
  have hm : ∀ v m, Paged z v → Paged z (mark v m) := fun v m h => h.setDie d _
  clear_value mark s3
  split
  · next bs =>
    extract_lets s4
    exact ite (hm _ _ h3) (hm s4 _ (foldl (fun _ _ h => h.broadcastSlice ..) _ h3))
  · exact hm _ _ h3

theorem page (d : Die) (items : List Staged) (ue : List (Int × Int × Bool)) (hs : Paged z s) : Paged z (s.page d items ue).1 := by
  unfold State.page
  split
  · exact hs
  · extract_lets
    split
    extract_lets _ _
    exact foldl (fun _ _ h => h.loadTile ..) _ ((hs.setDie d _).setReg (pagerRegs d (by simp)) 0)

theorem mirrorTile (bad : Bool) (tx ty : Int) (hs : Paged z s) : Paged z (s.mirrorTile bad tx ty) := by
  unfold State.mirrorTile
  extract_lets
  exact ite (hs.of_mem rfl fun h => h.of_regs rfl)
    (ite (event (by decide) 5 (hs.of_mem rfl fun h => h.of_regs rfl)) (hs.of_mem rfl fun h => h.of_regs rfl))

theorem writeSlices (d : Die) (hs : Paged z s) : Paged z (s.writeSlices d) := by
  unfold State.writeSlices
  split
  · exact hs
  · exact foldl (fun _ _ h => h.storeWin ..) _ hs

end Paged

/-! ### Items applied to two states that differ beside what they read (R104) -/

/-- The registers that say where a commit stores its items. -/
def storeRegs : List Nat := [rGlbProfile, rDmcSize .s0, rDmcSize .s1, rWorldDirExt, rWorldDirTx0, rWorldDirTy0, rWorldDirBaseLo,
  rWorldDirBaseHi, rWorldStoreBaseLo, rWorldStoreBaseHi]

/-- Two states whose memory is equal and in which items are stored at the same places. -/
structure StoresAlike (z s : State) : Prop where
  mem : s.mem = z.mem
  sec : s.sec = z.sec
  regs : RegsKept (· ∈ storeRegs) z s

namespace StoresAlike
variable {z s : State}

theorem usable (h : StoresAlike z s) (d : Die) : s.usable d = z.usable d := by
  have hd : rDmcSize d ∈ storeRegs := by cases d <;> decide
  unfold State.usable
  rw [h.regs _ hd]

theorem pair (h : StoresAlike z s) {lo hi : Nat} (hlo : lo ∈ storeRegs) (hhi : hi ∈ storeRegs) : s.pair lo hi = z.pair lo hi := by
  unfold State.pair
  rw [h.regs _ hlo, h.regs _ hhi]

theorem dirIndex (h : StoresAlike z s) (tx ty : Int) : s.dirIndex tx ty = z.dirIndex tx ty := by
  unfold State.dirIndex
  rw [h.regs rWorldDirExt (by decide), h.regs rWorldDirTx0 (by decide), h.regs rWorldDirTy0 (by decide)]

theorem store (h : StoresAlike z s) (a : Nat) (data : List Byte) : StoresAlike (z.store a data) (s.store a data) := by
  have hf (v : State) : Framed [.mem, .slices] v (v.store a data) := State.store_framed (List.Subset.refl _) (Framed.refl v)
  refine ⟨?_, ((hf s .sec (by decide)).trans h.sec).trans (hf z .sec (by decide)).symm, fun o ho => ?_⟩
  · unfold State.store
    split
    · rw [State.writeSlice, State.writeSlice, State.setDie_mem, State.setDie_mem, h.mem]
    · exact congrArg (memWrite · a data) h.mem
  · rw [State.reg_of_regs (hf s .regs (by decide)), State.reg_of_regs (hf z .regs (by decide)), h.regs o ho]

theorem storeDies (h : StoresAlike z s) (off : Nat) (data : List Byte) : StoresAlike (z.storeDies off data) (s.storeDies off data) := by
  rw [State.storeDies_eq, State.storeDies_eq, State.dies_congr (h.regs rGlbProfile (by decide)) h.sec]
  refine List.foldl_rel (r := StoresAlike) h fun d _ u v k => ?_
  unfold State.storeDie State.when
  rw [k.usable]
  split
  · exact k.store ..
  · exact k

theorem writeDir (h : StoresAlike z s) (tx ty : Int) (slot : Nat) (valid : Bool) :
    StoresAlike (z.writeDir tx ty slot valid) (s.writeDir tx ty slot valid) := by
  unfold State.writeDir State.dirBase
  rw [h.dirIndex, h.pair (by decide) (by decide)]
  split
  · exact h.storeDies ..
  · exact h

end StoresAlike

section Items
variable {it : Staged} {slot n : Nat} {tx ty : Int} {cells : List Byte} {valid : Bool} {m : List AgentMode} {e : EgoState}
  {p : List RoutePoint}

theorem State.applyItem_tile (s : State) (h : it.matter = .tile slot tx ty cells) :
    s.applyItem it = (s.storeDies (s.storeBase + 4096 * slot) cells).writeDir tx ty slot true := by
  unfold State.applyItem
  rw [h]

theorem State.applyItem_dir (s : State) (h : it.matter = .dir slot tx ty valid) : s.applyItem it = s.writeDir tx ty slot valid := by
  unfold State.applyItem
  rw [h]

theorem State.applyItem_agent (s : State) (h : it.matter = .agent n m) :
    s.applyItem it = { s with world := { s.world with modes := replaceAgent s.world.modes n m } } := by
  unfold State.applyItem
  rw [h]

theorem State.applyItem_ego (s : State) (h : it.matter = .ego e) :
    s.applyItem it = { s with world := { s.world with ego := some e, egoNew := true } } := by
  unfold State.applyItem
  rw [h]

theorem State.applyItem_route (s : State) (h : it.matter = .route p) :
    s.applyItem it = { s with world := { s.world with route := p } } := by
  unfold State.applyItem
  rw [h]

end Items

/-- Whether what is staged changes a tile. -/
def Matter.onTile : Matter → Bool
  | .tile .. => true
  | .dir .. => true
  | _ => false

theorem Staged.isTile_of {it : Staged} {x : Matter} (h : it.matter = x) : it.isTile = x.onTile := h ▸ rfl

/-- The parts of the world that the AGENT, EGO and ROUTE items of a commit write. -/
def World.besideApplied (w : World) : World := { w with modes := [], ego := none, egoNew := false, route := [] }

/-- An item without a tile changes the world alone, and of it only the agents, the ego state and the route. -/
theorem State.applyItem_world (s : State) {it : Staged} (ht : it.isTile = false) :
    ∃ w : World, s.applyItem it = { s with world := w } ∧ w.besideApplied = s.world.besideApplied := by
  cases hm : it.matter with
  | tile => exact absurd (ht.symm.trans (Staged.isTile_of hm)) Bool.false_ne_true
  | dir => exact absurd (ht.symm.trans (Staged.isTile_of hm)) Bool.false_ne_true
  | agent => exact ⟨_, s.applyItem_agent hm, rfl⟩
  | ego => exact ⟨_, s.applyItem_ego hm, rfl⟩
  | route => exact ⟨_, s.applyItem_route hm, rfl⟩

theorem State.applyItem_stores (s : State) {it : Staged} (ht : it.isTile = true) : Framed [.mem, .slices] s (s.applyItem it) := by
  cases hm : it.matter with
  | tile =>
    rw [s.applyItem_tile hm]
    exact State.writeDir_framed (List.Subset.refl _) (State.storeDies_framed (List.Subset.refl _) (Framed.refl s))
  | dir =>
    rw [s.applyItem_dir hm]
    exact State.writeDir_framed (List.Subset.refl _) (Framed.refl s)
  | agent => exact absurd ((Staged.isTile_of hm).symm.trans ht) Bool.false_ne_true
  | ego => exact absurd ((Staged.isTile_of hm).symm.trans ht) Bool.false_ne_true
  | route => exact absurd ((Staged.isTile_of hm).symm.trans ht) Bool.false_ne_true

namespace StoresAlike
variable {z s : State}

/-- An item without a tile stores nothing. -/
theorem skip {it : Staged} (ht : it.isTile = false) (h : StoresAlike z s) : StoresAlike (z.applyItem it) s := by
  obtain ⟨w, e, -⟩ := z.applyItem_world ht
  exact e ▸ ⟨h.mem, h.sec, h.regs⟩

theorem applyItem (it : Staged) (h : StoresAlike z s) : StoresAlike (z.applyItem it) (s.applyItem it) := by
  cases hm : it.matter with
  | tile slot tx ty cells =>
    rw [State.applyItem_tile z hm, State.applyItem_tile s hm, show s.storeBase = z.storeBase from h.pair (by decide) (by decide)]
    exact (h.storeDies ..).writeDir ..
  | dir =>
    rw [State.applyItem_dir z hm, State.applyItem_dir s hm]
    exact h.writeDir ..
  | agent =>
    rw [z.applyItem_agent hm, s.applyItem_agent hm]
    exact ⟨h.mem, h.sec, h.regs⟩
  | ego =>
    rw [z.applyItem_ego hm, s.applyItem_ego hm]
    exact ⟨h.mem, h.sec, h.regs⟩
  | route =>
    rw [z.applyItem_route hm, s.applyItem_route hm]
    exact ⟨h.mem, h.sec, h.regs⟩

end StoresAlike

/-- Two states with the agents, the ego state and the route of one. -/
structure ScenesAlike (z s : State) : Prop where
  modes : s.world.modes = z.world.modes
  ego : s.world.ego = z.world.ego
  route : s.world.route = z.world.route

namespace ScenesAlike
variable {z s : State}

theorem of_world (hz : z.world = s.world) : ScenesAlike z s :=
  ⟨congrArg World.modes hz.symm, congrArg World.ego hz.symm, congrArg World.route hz.symm⟩

theorem skip {it : Staged} (ht : it.isTile = true) (h : ScenesAlike z s) : ScenesAlike (z.applyItem it) s := by
  have hw : (z.applyItem it).world = z.world := z.applyItem_stores ht .world (by decide)
  exact ⟨hw ▸ h.modes, hw ▸ h.ego, hw ▸ h.route⟩

theorem applyItem (it : Staged) (h : ScenesAlike z s) : ScenesAlike (z.applyItem it) (s.applyItem it) := by
  cases hm : it.matter with
  | tile =>
    have hw : (s.applyItem it).world = s.world := s.applyItem_stores (Staged.isTile_of hm) .world (by decide)
    exact skip (Staged.isTile_of hm) ⟨hw ▸ h.modes, hw ▸ h.ego, hw ▸ h.route⟩
  | dir =>
    have hw : (s.applyItem it).world = s.world := s.applyItem_stores (Staged.isTile_of hm) .world (by decide)
    exact skip (Staged.isTile_of hm) ⟨hw ▸ h.modes, hw ▸ h.ego, hw ▸ h.route⟩
  | agent n m =>
    rw [z.applyItem_agent hm, s.applyItem_agent hm]
    exact ⟨congrArg (replaceAgent · n m) h.modes, h.ego, h.route⟩
  | ego =>
    rw [z.applyItem_ego hm, s.applyItem_ego hm]
    exact ⟨h.modes, rfl, h.route⟩
  | route =>
    rw [z.applyItem_route hm, s.applyItem_route hm]
    exact ⟨h.modes, h.ego, rfl⟩

end ScenesAlike

/-- Items applied one after the other. -/
def State.applyItems (s : State) (items : List Staged) : State := items.foldl (fun s it => s.applyItem it) s

/-- Of the items applied, those that `p` leaves out do not count for a relation that they keep. -/
theorem State.applyItems_filter {R : State → State → Prop} {p : Staged → Bool}
    (same : ∀ {z s} it, R z s → R (z.applyItem it) (s.applyItem it)) (skip : ∀ {z s it}, p it = false → R z s → R (z.applyItem it) s)
    (items : List Staged) {z s : State} (h : R z s) : R (z.applyItems items) (s.applyItems (items.filter p)) := by
  induction items generalizing z s with
  | nil => exact h
  | cons it items ih =>
    cases hp : p it with
    | true =>
      rw [List.filter_cons_of_pos hp]
      exact ih (same it h)
    | false =>
      rw [List.filter_cons_of_neg (by simp [hp])]
      exact ih (skip hp h)

/-- Items without tiles change the world alone, and of it only the agents, the ego state and the route. -/
theorem State.applyItems_world (s : State) {items : List Staged} (h : ∀ it ∈ items, it.isTile = false) :
    ∃ w : World, s.applyItems items = { s with world := w } ∧ w.besideApplied = s.world.besideApplied := by
  induction items generalizing s with
  | nil => exact ⟨s.world, rfl, rfl⟩
  | cons it items ih =>
    obtain ⟨w, e, hw⟩ := s.applyItem_world (h it List.mem_cons_self)
    obtain ⟨w', e', hw'⟩ := ih (s.applyItem it) fun q hq => h q (List.mem_cons_of_mem it hq)
    refine ⟨w', e'.trans (by rw [e]), hw'.trans ?_⟩
    rw [e]
    exact hw

theorem State.applyItems_stores (s : State) {items : List Staged} (h : ∀ it ∈ items, it.isTile = true) :
    Framed [.mem, .slices] s (s.applyItems items) := by
  induction items generalizing s with
  | nil => exact Framed.refl s
  | cons it items ih =>
    exact (s.applyItem_stores (h it List.mem_cons_self)).trans (ih _ fun q hq => h q (List.mem_cons_of_mem it hq))

/-! ### The commit begun (R104, R107, R110, R619) -/

/-- The commit begun with nothing applied yet: `taken` leave the staging area, `kept` stay beyond a cap. -/
def State.commitOpened (s : State) (met : CommitMet) (taken kept : List Staged) : State :=
  let v := s.when (!kept.isEmpty) fun s => s.event rWorldEvents 1
  { v with
    world := { v.world with
      staged := kept.map (fun (it : Staged) => { it with late := !it.copy }) ++
        s.world.staged.filter fun it => !decide (it.arrival < s.tick.tk + s.cutC)
      leaving := (taken.map (·.size)).foldl (· + ·) 0
      egoNew := false
      stale := v.world.stale || (v.hasS1 && v.d1.power != 2)
      busy := true
      begun := true
      began := s.tick.tk + s.cutC
      held := some ⟨taken.filter Staged.isTile, met⟩ }
    plan := { v.plan with late := v.plan.late || taken.any (·.late) } }

theorem State.beginCommit_eq {s : State} {taken kept : List Staged} (met : CommitMet)
    (h : selectStaged (s.img (·.world.tileCap)) (s.img (·.world.agentCapBytes)) s.dueItems 0 0 false false = (taken, kept)) :
    s.beginCommit met = (s.commitOpened met taken kept).applyItems (taken.filter fun it => !it.isTile) := by
  unfold State.dueItems at h
  unfold State.beginCommit
  dsimp only
  rw [h]
  rfl

/-- What the commit's beginning leaves. -/
structure CommitOpened (s u : State) (met : CommitMet) (taken kept : List Staged) : Prop where
  frame : Framed [.now, .regs, .plan, .world] s u
  regs : RegsKept (· ≠ rWorldEvents) s u
  late : u.plan.late = (s.plan.late || taken.any (·.late))
  event : kept ≠ [] → (u.reg rWorldEvents).getLsbD 1 = true
  begins : CommitBegins s u (kept.map (fun (it : Staged) => { it with late := !it.copy }) ++
    s.world.staged.filter fun it => !decide (it.arrival < s.tick.tk + s.cutC)) ((taken.map (·.size)).foldl (· + ·) 0)
  stale : u.world.stale = (s.world.stale || (s.hasS1 && s.d1.power != 2))
  held : u.world.held = some ⟨taken.filter Staged.isTile, met⟩

theorem State.commitOpened_opened (s : State) (met : CommitMet) (taken kept : List Staged) :
    CommitOpened s (s.commitOpened met taken kept) met taken kept ∧ ScenesAlike s (s.commitOpened met taken kept) := by
  have hf : Framed [.regs] s (s.when (!kept.isEmpty) fun s => s.event rWorldEvents 1) :=
    State.when_framed (Framed.refl s) fun _ h => State.event_framed (List.Subset.refl _) h
  have hr : RegsKept (· ≠ rWorldEvents) s (s.when (!kept.isEmpty) fun s => s.event rWorldEvents 1) :=
    RegsKept.when (RegsKept.refl s) ((RegsKept.refl s).event (fun h => h rfl) 1)
  have he : kept ≠ [] → ((s.when (!kept.isEmpty) fun s => s.event rWorldEvents 1).reg rWorldEvents).getLsbD 1 = true := fun h => by
    rw [show (!kept.isEmpty) = true by simpa using h, State.when_true]
    exact State.event_bit s _ (by decide)
  unfold State.commitOpened
  generalize s.when (!kept.isEmpty) (fun s => s.event rWorldEvents 1) = v at hf hr he
  have hw : v.world = s.world := hf .world (by decide)
  have hp : v.plan = s.plan := hf .plan (by decide)
  refine ⟨⟨fun p hp => ?_, fun o ho => hr o ho, ?_, he, ⟨⟨rfl, rfl, rfl⟩, (congrArg World.epoch hw :), rfl, rfl, hf .tick (by decide),
    hf .dev (by decide)⟩, ?_, rfl⟩, ⟨(congrArg World.modes hw :), (congrArg World.ego hw :), (congrArg World.route hw :)⟩⟩
  · have h := hf p fun h => hp (by simp at h; simp [h])
    cases p with
    | plan => exact absurd hp (by decide)
    | world => exact absurd hp (by decide)
    | _ => exact h
  · exact congrArg (fun p : Plan => p.late || taken.any (·.late)) hp
  · show (v.world.stale || (v.sec.variant != .as && v.d1.power != 2)) = _
    rw [hw, hf .sec (by decide), show v.d1.power = s.d1.power from (congrArg DieState.power (hf .dies (by decide)).2 :)]
    rfl

/-! ### The commit's work done (R104, R358) -/

theorem satAddWord_zero (w : Word) : satAddWord w 0 = w := by
  have h := w.isLt
  unfold satAddWord satNat
  rw [Nat.add_zero, Nat.min_eq_left (by omega), BitVec.ofNat_toNat, BitVec.setWidth_eq]

theorem State.reg_countDramCe (s : State) (d : Die) (n : Nat) :
    (s.countDramCe d n).reg (rDmcEccCe d) = satAddWord (s.reg (rDmcEccCe d)) n := by
  have he : rDmcEccCe d ≠ rDmcEvents d := by cases d <;> decide
  unfold State.countDramCe State.when
  by_cases hn : n = 0
  · subst hn
    exact (satAddWord_zero _).symm
  · rw [if_pos (by simpa using hn), State.reg_event_ne _ _ he, State.reg_count]

theorem RegsKept.countDramCe {P : Nat → Prop} {z s : State} {d : Die} (hc : ¬ P (rDmcEccCe d)) (he : ¬ P (rDmcEvents d)) (n : Nat)
    (hs : RegsKept P z s) : RegsKept P z (s.countDramCe d n) := hs.when ((hs.count hc n).event he 0)

theorem State.countDramCe_mem (s : State) (d : Die) (n : Nat) : (s.countDramCe d n).mem = s.mem :=
  State.countDramCe_framed (List.Subset.refl _) (Framed.refl s) .mem (by decide)

/-- The work of a commit on DRAM and the slices: the world's record of it, the bytes of DRAM, and the corrected errors counted. -/
structure CommitWorked (b u : State) (c : HeldCommit) : Prop where
  frame : Framed [.regs, .mem, .slices, .world, .dies, .host, .depSlice, .dep, .tally, .out] b u
  world : u.world = { b.world with fresh := false, held := none }
  dram : ∀ a, a < 0x400000000000 → memByte u.mem a = memByte (b.applyItems c.items).mem a
  events : u.reg rWorldEvents = b.reg rWorldEvents
  count0 : u.reg (rDmcEccCe .s0) = satAddWord (b.reg (rDmcEccCe .s0)) c.met.d0.ce
  count1 : .s1 ∈ b.dies → u.reg (rDmcEccCe .s1) = satAddWord (b.reg (rDmcEccCe .s1)) c.met.d1.ce

/-- The part of the work that is a die's own: its corrected errors counted, and its pager's loads. -/
def State.pageDie (s : State) (d : Die) (items : List Staged) (met : TilesMet) : State :=
  ((s.countDramCe d met.ce).page d items met.ue).1

/-- The work of a commit once the pagers have run: the mirror, and the agent slices. -/
def State.mirrorAndSlices (s : State) (c : HeldCommit) (loads : List (Int × Int)) : State :=
  let u := loads.foldl (fun s t => s.mirrorTile (c.met.crcBad.contains t) t.1 t.2) s
  u.dies.foldl (fun s d => s.writeSlices d) u

/-- The part of the work that is S1's own, where it is in service. -/
def State.pageS1 (s : State) (c : HeldCommit) : State := if s.dies.contains .s1 then s.pageDie .s1 c.items c.met.d1 else s

/-- The commit's work entered as done. -/
def State.commitDone (s : State) : State := { s with world := { s.world with fresh := false, held := none } }

theorem State.commitWork_eq (b : State) (c : HeldCommit) : ∃ loads, b.commitWork c =
    ((((b.applyItems c.items).pageDie .s0 c.items c.met.d0).pageS1 c).mirrorAndSlices c loads).commitDone := ⟨_, rfl⟩

theorem State.mirrorAndSlices_paged (s : State) (c : HeldCommit) (loads : List (Int × Int)) : Paged s (s.mirrorAndSlices c loads) :=
  Paged.foldl (fun _ _ h => h.writeSlices _) _ (Paged.foldl (fun _ _ h => h.mirrorTile ..) _ (Paged.refl s))

theorem State.pageDie_paged (s : State) (d : Die) (items : List Staged) (met : TilesMet) :
    Paged (s.countDramCe d met.ce) (s.pageDie d items met) := (Paged.refl _).page d items met.ue

theorem State.pageDie_dram (s : State) (d : Die) (items : List Staged) (met : TilesMet) {a : Nat} (h : a < 0x400000000000) :
    memByte (s.pageDie d items met).mem a = memByte s.mem a :=
  ((s.pageDie_paged d items met).dram a h).trans (congrArg (memByte · a) (s.countDramCe_mem d met.ce))

/-- A die's part of the work leaves the registers of the commit but its own count. -/
theorem State.pageDie_regs (s : State) {d : Die} (items : List Staged) (met : TilesMet) {o : Nat} (ho : o ∈ workRegs)
    (hd : o ≠ rDmcEccCe d) : (s.pageDie d items met).reg o = s.reg o := by
  have he : o ≠ rDmcEvents d := by
    revert o
    cases d <;> decide
  exact ((s.pageDie_paged d items met).regs o ho).trans
    (RegsKept.countDramCe (P := (· = o)) (fun h => hd h.symm) (fun h => he h.symm) met.ce (RegsKept.refl s) o rfl)

theorem State.pageDie_count (s : State) (d : Die) (items : List Staged) (met : TilesMet) :
    (s.pageDie d items met).reg (rDmcEccCe d) = satAddWord (s.reg (rDmcEccCe d)) met.ce := by
  have hd : rDmcEccCe d ∈ workRegs := by cases d <;> decide
  exact ((s.pageDie_paged d items met).regs _ hd).trans (s.reg_countDramCe d met.ce)

theorem State.pageDie_framed (s : State) (d : Die) (items : List Staged) (met : TilesMet) :
    Framed [.regs, .mem, .slices, .dies, .host, .tally, .out] s (s.pageDie d items met) :=
  State.page_framed (List.Subset.refl _) (State.countDramCe_framed (by decide) (Framed.refl s))

theorem State.mirrorAndSlices_framed (s : State) (c : HeldCommit) (loads : List (Int × Int)) :
    Framed [.regs, .mem, .slices, .depSlice, .dep] s (s.mirrorAndSlices c loads) := by
  unfold State.mirrorAndSlices
  extract_lets u
  have hu : Framed [.regs, .mem, .slices, .depSlice, .dep] s u :=
    List.foldlRecOn loads _ (Framed.refl s) fun _ h _ _ => State.mirrorTile_framed (by decide) h
  exact List.foldlRecOn u.dies _ hu fun _ h _ _ => State.writeSlices_framed (by decide) h

theorem State.commitWork_worked (b : State) {c : HeldCommit} (h : ∀ it ∈ c.items, it.isTile = true) : CommitWorked b (b.commitWork c) c := by
  have hframe : Framed _ b (b.commitWork c) := State.commitWork_framed (List.Subset.refl _) (Framed.refl b)
  obtain ⟨loads, e⟩ := b.commitWork_eq c
  have hi := b.applyItems_stores h
  generalize hv : (b.applyItems c.items).pageDie .s0 c.items c.met.d0 = v at e
  generalize hw : v.pageS1 c = w at e
  have hvi : Framed _ (b.applyItems c.items) v := hv ▸ (b.applyItems c.items).pageDie_framed .s0 c.items c.met.d0
  have hp : Paged w (w.mirrorAndSlices c loads) := w.mirrorAndSlices_paged c loads
  have hvr : ∀ o ∈ workRegs, o ≠ rDmcEccCe .s0 → v.reg o = b.reg o := fun o ho h0 =>
    (hv ▸ State.pageDie_regs _ c.items c.met.d0 ho h0).trans (State.reg_of_regs (hi .regs (by decide)) o)
  have hdies : v.dies = b.dies := State.dies_congr (hvr _ (by decide) (by decide)) ((hvi .sec (by decide)).trans (hi .sec (by decide)))
  have hwr : ∀ o ∈ workRegs, o ≠ rDmcEccCe .s1 → w.reg o = v.reg o := fun o ho h1 => by
    rw [← hw, State.pageS1]
    split
    · exact v.pageDie_regs c.items c.met.d1 ho h1
    · rfl
  have hwd : ∀ a, a < 0x400000000000 → memByte w.mem a = memByte v.mem a := fun a ha => by
    rw [← hw, State.pageS1]
    split
    · exact v.pageDie_dram .s1 c.items c.met.d1 ha
    · rfl
  have hww : w.world = v.world := by
    rw [← hw, State.pageS1]
    split
    · exact v.pageDie_framed .s1 c.items c.met.d1 .world (by decide)
    · rfl
  have hregs (o : Nat) (ho : o ∈ workRegs) : (b.commitWork c).reg o = w.reg o := by
    rw [e]
    exact hp.regs o ho
  refine ⟨hframe, ?_, fun a ha => ?_, ?_, ?_, fun h1 => ?_⟩
  · rw [e]
    have hu : (w.mirrorAndSlices c loads).world = b.world := (((w.mirrorAndSlices_framed c loads .world (by decide)).trans hww).trans
      (hvi .world (by decide))).trans (hi .world (by decide))
    exact congrArg (fun x : World => { x with fresh := false, held := none }) hu
  · rw [e]
    exact ((hp.dram a ha).trans (hwd a ha)).trans (hv ▸ State.pageDie_dram _ .s0 c.items c.met.d0 ha)
  · rw [hregs _ (by decide), hwr _ (by decide) (by decide), hvr _ (by decide) (by decide)]
  · rw [hregs _ (by decide), hwr _ (by decide) (by decide), ← hv, State.pageDie_count,
      State.reg_of_regs (hi .regs (by decide))]
  · have hc : v.dies.contains .s1 = true := by rw [hdies]; simpa using h1
    rw [hregs _ (by decide), ← hw, State.pageS1, if_pos hc, State.pageDie_count, hvr _ (by decide) (by decide)]

/-! ### EPOCH_COMMIT, by the front of the initialisation (R104, R359) -/

section Fronts

theorem State.noteStall_dram (s : State) {p : Nat × Nat} (h : s.stalls p.1 p.2 = true) :
    ∃ d, s.noteStall p.1 p.2 = s.event (rDmcEvents d) 3 := by
  unfold State.stalls at h
  unfold State.noteStall
  split at h
  · next d _ _ => exact ⟨d, rfl⟩
  · exact absurd h Bool.false_ne_true

theorem State.event_keeps_bit (s : State) (o n : Nat) {a m : Nat} (h : (s.reg a).getLsbD m = true) :
    ((s.event o n).reg a).getLsbD m = true := by
  by_cases ha : a = o
  · subst ha
    rw [State.reg_event, BitVec.getLsbD_or, h, Bool.true_or]
  · rw [State.reg_event_ne s n ha, h]

theorem State.noteStalls_keeps_bit (s : State) (spans : List (Nat × Nat)) {a m : Nat} (h : (s.reg a).getLsbD m = true) :
    ((s.noteStalls spans).reg a).getLsbD m = true := by
  refine List.foldlRecOn (motive := fun v => (State.reg v a).getLsbD m = true) spans _ h fun v hv p _ => ?_
  unfold State.noteStall
  split
  · exact v.event_keeps_bit _ 3 hv
  · exact hv

/-- Where spans wait, INIT_STALL is set. -/
theorem State.noteStalls_event (s : State) {spans : List (Nat × Nat)} (h : s.stalled spans ≠ []) :
    ∃ d, ((s.noteStalls (s.stalled spans)).reg (rDmcEvents d)).getLsbD 3 = true := by
  obtain ⟨p, l, e⟩ := List.exists_cons_of_ne_nil h
  have hp : p ∈ s.stalled spans := e ▸ List.mem_cons_self
  obtain ⟨d, hd⟩ := s.noteStall_dram (List.mem_filter.mp hp).2
  refine ⟨d, ?_⟩
  rw [e]
  show (((s.noteStall p.1 p.2).noteStalls l).reg _).getLsbD 3 = true
  rw [hd]
  exact State.noteStalls_keeps_bit _ l (State.event_bit s _ (by decide))

end Fronts

/-- The commit begun at a time, with its AGENT, EGO and ROUTE items applied. -/
def State.commitAt (s : State) (t : Nat) (met : CommitMet) (taken kept : List Staged) : State :=
  ((s.advance t).commitOpened met taken kept).applyItems (taken.filter fun it => !it.isTile)

section EpochCommit

variable {s : State} {t : Nat} {met : CommitMet} {taken kept : List Staged}

theorem CommitOpened.alike {u : State} (h : CommitOpened s u met taken kept) : AccessAlike s u :=
  AccessAlike.of_frame h.frame fun o ho => h.regs o (by rintro rfl; exact absurd ho (by decide))

theorem CommitOpened.of_world {u : State} {w : World} (h : CommitOpened s u met taken kept) (hw : w.besideApplied = u.world.besideApplied) :
    CommitOpened s { u with world := w } met taken kept := by
  obtain ⟨hframe, hregs, hlate, hevent, ⟨hbusy, hepoch, hstaged, hleaving, hrest⟩, hstale, hheld⟩ := h
  have hb : w.busy = u.world.busy := (congrArg World.busy hw :)
  have hb' : w.begun = u.world.begun := (congrArg World.begun hw :)
  have hb'' : w.began = u.world.began := (congrArg World.began hw :)
  refine ⟨fun p hp => ?_, hregs, hlate, hevent, ⟨⟨hb.trans hbusy.1, hb'.trans hbusy.2.1, hb''.trans hbusy.2.2⟩,
    (congrArg World.epoch hw :).trans hepoch, (congrArg World.staged hw :).trans hstaged,
    (congrArg World.leaving hw :).trans hleaving, hrest⟩, (congrArg World.stale hw :).trans hstale, (congrArg World.held hw :).trans hheld⟩
  cases p with
  | world => exact absurd hp (by decide)
  | _ => exact hframe _ hp

theorem State.advance_opened : CommitOpened s ((s.advance t).commitOpened met taken kept) met taken kept ∧
    ScenesAlike s ((s.advance t).commitOpened met taken kept) := by
  have hn : Framed [.now, .regs, .plan, .world] s (s.advance t) := State.advance_framed (by decide) (Framed.refl s)
  obtain ⟨n, e⟩ := s.advance_eq t
  rw [e] at hn ⊢
  obtain ⟨⟨hframe, hregs, hlate, hevent, ⟨hbusy, hepoch, hstaged, hleaving, hrest⟩, hstale, hheld⟩, hscene⟩ :=
    State.commitOpened_opened { s with now := n } met taken kept
  exact ⟨⟨hn.trans hframe, hregs, hlate, hevent, ⟨hbusy, hepoch, hstaged, hleaving, hrest⟩, hstale, hheld⟩,
    ⟨hscene.modes, hscene.ego, hscene.route⟩⟩

theorem State.commitAt_opened : CommitOpened s (s.commitAt t met taken kept) met taken kept := by
  obtain ⟨w, e, hw⟩ := ((s.advance t).commitOpened met taken kept).applyItems_world (items := taken.filter fun it => !it.isTile)
    fun it h => by simpa using (List.mem_filter.mp h).2
  unfold State.commitAt
  rw [e]
  exact State.advance_opened.1.of_world hw

/-- The commit begins with what the caps admit of the due items. -/
theorem State.advance_beginCommit
    (h : selectStaged (s.img (·.world.tileCap)) (s.img (·.world.agentCapBytes)) s.dueItems 0 0 false false = (taken, kept)) :
    (s.advance t).beginCommit met = s.commitAt t met taken kept := by
  unfold State.commitAt
  obtain ⟨n, e⟩ := s.advance_eq t
  rw [e]
  exact State.beginCommit_eq (s := { s with now := n }) met h

/-- What a commit applies to DRAM is what all its items, applied in order, store there. -/
theorem State.commitAt_stores : StoresAlike (s.applyItems taken) ((s.commitAt t met taken kept).applyItems (taken.filter Staged.isTile)) := by
  have h : CommitOpened s (s.commitAt t met taken kept) met taken kept := State.commitAt_opened
  have hs : StoresAlike s (s.commitAt t met taken kept) :=
    ⟨h.frame .mem (by decide), h.frame .sec (by decide), fun o ho => h.regs o (by rintro rfl; exact absurd ho (by decide))⟩
  exact State.applyItems_filter (fun it h => h.applyItem it) (fun hp h => h.skip hp) taken hs

/-- The agents, the ego state and the route of a commit are those of all its items, applied in order. -/
theorem State.commitAt_scenes : ScenesAlike (s.applyItems taken) (s.commitAt t met taken kept) :=
  State.applyItems_filter (p := fun it => !it.isTile) (fun it h => h.applyItem it) (fun hp h => h.skip (by simpa using hp)) taken
    State.advance_opened.2

theorem exec_epochCommit (hd : s.dev = .running) (hl : s.tick.live = true) (hb : s.world.begun = false) (hu : s.world.busy = false)
    (ht : s.tick.tk + s.cutC ≤ t) :
    exec (.epochCommit t met.d0 met.d1 met.crcBad) s = .next ((s.advance t).beginCommit met).pumpCommit := by
  show execEpochCommit t met.d0 met.d1 met.crcBad s = _
  unfold execEpochCommit
  rw [hd, hl, hb, hu, decide_eq_true ht]
  rfl

/-- The work of the commit begun, where the dies in service have their power. -/
theorem State.commitAt_pump (hp : ∀ d ∈ s.dies, (s.die d).power = 2)
    (hsel : selectStaged (s.img (·.world.tileCap)) (s.img (·.world.agentCapBytes)) s.dueItems 0 0 false false = (taken, kept)) :
    (s.commitAt t met taken kept).pumpCommit =
      if s.stalled (s.spansOfCommit t met (taken.filter Staged.isTile)) = [] then
        (s.commitAt t met taken kept).commitWork ⟨taken.filter Staged.isTile, met⟩
      else (s.commitAt t met taken kept).noteStalls
        ((s.commitAt t met taken kept).stalled (s.spansOfCommit t met (taken.filter Staged.isTile))) := by
  unfold State.spansOfCommit
  rw [State.advance_beginCommit hsel]
  have h : CommitOpened s (s.commitAt t met taken kept) met taken kept := State.commitAt_opened
  generalize s.commitAt t met taken kept = b at h
  have hdies : b.dies = s.dies := State.dies_congr (h.regs _ (by decide)) (h.frame .sec (by decide))
  have hpower : (b.dies.all fun d => (b.die d).power == 2) = true := by
    rw [hdies, List.all_eq_true]
    intro d hd
    have hpd : (b.die d).power = (s.die d).power := by
      obtain ⟨h0, h1⟩ := h.frame .dies (by decide)
      cases d
      · exact (congrArg DieState.power h0 :)
      · exact (congrArg DieState.power h1 :)
    rw [hpd, hp d hd]
    rfl
  have hst := h.alike.stalled
  unfold State.pumpCommit
  rw [h.held]
  dsimp only
  rw [if_pos hpower, State.afterFront, hdies, hst]

end EpochCommit

/-! ### What a commit leaves, done or held (R91, R100, R102, R359) -/

/-- The world but for the work that a commit holds. -/
def World.besideWork (w : World) : World := { w with fresh := false, held := none }

theorem CommitBegins.of_world {s b u : State} {staged : List Staged} {leaving : Nat} (h : CommitBegins s b staged leaving)
    (hw : u.world.besideWork = b.world.besideWork) (hr : u.tick = b.tick ∧ u.dev = b.dev) : CommitBegins s u staged leaving := by
  obtain ⟨⟨hb1, hb2, hb3⟩, hepoch, hstaged, hleaving, htick, hdev⟩ := h
  exact ⟨⟨(congrArg World.busy hw :).trans hb1, (congrArg World.begun hw :).trans hb2, (congrArg World.began hw :).trans hb3⟩,
    (congrArg World.epoch hw :).trans hepoch, (congrArg World.staged hw :).trans hstaged, (congrArg World.leaving hw :).trans hleaving,
    hr.1.trans htick, hr.2.trans hdev⟩

/-- What the work of a commit leaves, done or held for a front. -/
structure CommitPumped (b u : State) (items : List Staged) : Prop where
  world : u.world.besideWork = b.world.besideWork
  rest : u.tick = b.tick ∧ u.dev = b.dev
  plan : u.plan = b.plan
  idle : items = [] → ∀ a, a < 0x400000000000 → memByte u.mem a = memByte b.mem a

theorem CommitWorked.pumped {b u : State} {c : HeldCommit} (h : CommitWorked b u c) : CommitPumped b u c.items :=
  ⟨(congrArg World.besideWork h.world).trans rfl, ⟨h.frame .tick (by decide), h.frame .dev (by decide)⟩, h.frame .plan (by decide),
    fun e a ha => (h.dram a ha).trans (by rw [e]; rfl)⟩

theorem State.noteStalls_frame (b : State) (spans : List (Nat × Nat)) : Framed [.regs] b (b.noteStalls spans) :=
  State.noteStalls_framed (List.Subset.refl _) (Framed.refl b)

theorem State.noteStalls_pumped (b : State) (spans : List (Nat × Nat)) (items : List Staged) : CommitPumped b (b.noteStalls spans) items :=
  have h := b.noteStalls_frame spans
  ⟨congrArg World.besideWork (h .world (by decide)), ⟨h .tick (by decide), h .dev (by decide)⟩, h .plan (by decide),
    fun _ a _ => congrArg (memByte · a) (h .mem (by decide))⟩

theorem State.writeDir_some {s : State} {tx ty : Int} {k : Nat} (h : s.dirIndex tx ty = some k) (slot : Nat) (valid : Bool) :
    s.writeDir tx ty slot valid = s.storeDies (s.dirBase + 8 * k) (leBytes 8 (encodeDirEntry slot valid)) := by
  unfold State.writeDir
  rw [h]

/-- A directory entry written: it stands on each die in service that holds it, and no other byte changes. -/
theorem State.memByte_writeDir {s : State} {tx ty : Int} {k : Nat} (h : s.dirIndex tx ty = some k) (slot : Nat) (valid : Bool) :
    (∀ d ∈ s.dies, s.dirBase + 8 * k + 8 ≤ s.usable d → ∀ i, i < 8 →
      memByte (s.writeDir tx ty slot valid).mem (dramBase d + s.dirBase + 8 * k + i) =
        (leBytes 8 (encodeDirEntry slot valid)).getD i 0) ∧
    ∀ a, (∀ d : Die, a < dramBase d + (s.dirBase + 8 * k) ∨ dramBase d + (s.dirBase + 8 * k) + 8 ≤ a) →
      memByte (s.writeDir tx ty slot valid).mem a = memByte s.mem a := by
  have hlen : (leBytes 8 (encodeDirEntry slot valid)).length = 8 := leBytes_length ..
  rw [State.writeDir_some h]
  refine ⟨fun d hd hu i hi => ?_, fun a ha => s.memByte_storeDies_outside _ _ (by rwa [hlen])⟩
  rw [Nat.add_assoc (dramBase d)]
  exact s.memByte_storeDies hd (by rwa [hlen]) (by rw [hlen]; decide) (by rwa [hlen])

theorem State.dirIndex_of_regs {s v : State} (h : v.regs = s.regs) (tx ty : Int) : v.dirIndex tx ty = s.dirIndex tx ty := by
  unfold State.dirIndex
  simp only [State.reg_of_regs h]

theorem State.dirBase_of_regs {s v : State} (h : v.regs = s.regs) : v.dirBase = s.dirBase := by
  unfold State.dirBase State.pair
  rw [State.reg_of_regs h, State.reg_of_regs h]

theorem State.usable_of_regs {s v : State} (h : v.regs = s.regs) (d : Die) : v.usable d = s.usable d := by
  unfold State.usable
  rw [State.reg_of_regs h]

/-- The one item of a staging area that is due and within the caps is the one taken. -/
theorem State.select_one {s : State} {it : Staged} {later : List Staged} (hs : s.world.staged = it :: later)
    (ha : it.arrival < s.tick.tk + s.cutC) (hlater : ∀ q ∈ later, s.tick.tk + s.cutC ≤ q.arrival)
    (htile : it.isTile = true → 1 ≤ s.img (·.world.tileCap)) (hagent : it.isAgent = true → it.size - 64 ≤ s.img (·.world.agentCapBytes)) :
    selectStaged (s.img (·.world.tileCap)) (s.img (·.world.agentCapBytes)) s.dueItems 0 0 false false = ([it], []) := by
  have hdue : s.dueItems = [it] := by
    have hl : later.filter (fun q => decide (q.arrival < s.tick.tk + s.cutC)) = [] :=
      List.filter_eq_nil_iff.mpr fun q hq => by simpa using hlater q hq
    unfold State.dueItems
    rw [hs, List.filter_cons_of_pos (by simpa using ha), hl]
    rfl
  have hheld : (if it.isTile then false || decide (s.img (·.world.tileCap) < 0 + 1)
      else it.isAgent && (false || decide (s.img (·.world.agentCapBytes) < 0 + (it.size - 64)))) = false := by
    cases ht : it.isTile with
    | true => simpa using Nat.ne_of_gt (htile ht)
    | false =>
      cases hag : it.isAgent with
      | true => simpa using hagent hag
      | false => rfl
  rw [hdue]
  unfold selectStaged
  rw [hheld]
  rfl

theorem State.later_staged {s : State} {it : Staged} {later : List Staged} (hs : s.world.staged = it :: later)
    (ha : it.arrival < s.tick.tk + s.cutC) (hlater : ∀ q ∈ later, s.tick.tk + s.cutC ≤ q.arrival) :
    s.world.staged.filter (fun q => !decide (q.arrival < s.tick.tk + s.cutC)) = later := by
  rw [hs, List.filter_cons_of_neg (by simpa using ha)]
  exact List.filter_eq_self.mpr fun q hq => by simpa using hlater q hq

/-- EPOCH_COMMIT: the commit begun, with its work held for a front or done. -/
theorem exec_epochCommit_cases {s : State} {t : Nat} {met : CommitMet} {taken kept : List Staged} (hd : s.dev = .running)
    (hl : s.tick.live = true) (hb : s.world.begun = false) (hu : s.world.busy = false) (ht : s.tick.tk + s.cutC ≤ t)
    (hp : ∀ d ∈ s.dies, (s.die d).power = 2)
    (hsel : selectStaged (s.img (·.world.tileCap)) (s.img (·.world.agentCapBytes)) s.dueItems 0 0 false false = (taken, kept)) :
    ∃ u, exec (.epochCommit t met.d0 met.d1 met.crcBad) s = .next u ∧
      CommitPumped (s.commitAt t met taken kept) u (taken.filter Staged.isTile) ∧
      (s.stalled (s.spansOfCommit t met (taken.filter Staged.isTile)) ≠ [] →
        Framed [.regs] (s.commitAt t met taken kept) u ∧ ∃ d, (u.reg (rDmcEvents d)).getLsbD 3 = true) ∧
      (s.stalled (s.spansOfCommit t met (taken.filter Staged.isTile)) = [] →
        CommitWorked (s.commitAt t met taken kept) u ⟨taken.filter Staged.isTile, met⟩) := by
  have hst (spans : List (Nat × Nat)) : (s.commitAt t met taken kept).stalled spans = s.stalled spans := by
    have h : CommitOpened s (s.commitAt t met taken kept) met taken kept := State.commitAt_opened
    exact h.alike.stalled spans
  refine ⟨_, exec_epochCommit hd hl hb hu ht, ?_⟩
  rw [State.advance_beginCommit hsel, State.commitAt_pump hp hsel]
  generalize s.commitAt t met taken kept = b at hst ⊢
  have hwork := b.commitWork_worked (c := ⟨taken.filter Staged.isTile, met⟩) fun it h => (List.mem_filter.mp h).2
  by_cases h : s.stalled (s.spansOfCommit t met (taken.filter Staged.isTile)) = []
  · rw [if_pos h]
    exact ⟨hwork.pumped, fun hn => absurd h hn, fun _ => hwork⟩
  · rw [if_neg h]
    exact ⟨b.noteStalls_pumped _ _, fun _ => ⟨b.noteStalls_frame _, b.noteStalls_event (by rwa [hst])⟩, fun hn => absurd hn h⟩

/-- Of the due items the commit takes those that the caps admit, and applies them in their order. -/
theorem commitTakesTheDueItems : Statements.CommitTakesTheDueItems := by
  intro s t met taken kept hd hl hb hu ht hp hsel hst
  have hopen : CommitOpened s (s.commitAt t met taken kept) met taken kept := State.commitAt_opened
  have hstores : StoresAlike (s.applyItems taken) _ := State.commitAt_stores (t := t) (met := met) (kept := kept)
  have hscenes : ScenesAlike (s.applyItems taken) _ := State.commitAt_scenes (t := t) (met := met) (kept := kept)
  obtain ⟨u, hexec, hpump, -, hdone⟩ := exec_epochCommit_cases (met := met) hd hl hb hu ht hp hsel
  have hwork := hdone hst
  generalize s.commitAt t met taken kept = b at *
  have hw := hpump.world
  have hcount (d : Die) : b.reg (rDmcEccCe d) = s.reg (rDmcEccCe d) := hopen.regs _ (by cases d <;> decide)
  have hdies : b.dies = s.dies := State.dies_congr (hopen.regs _ (by decide)) (hopen.frame .sec (by decide))
  refine ⟨u, hexec, hopen.begins.of_world hw hpump.rest, (congrArg World.held hwork.world :), (congrArg World.fresh hwork.world :),
    fun h => hwork.events ▸ hopen.event h, (congrArg Plan.late hpump.plan).trans hopen.late,
    (congrArg World.stale hw :).trans hopen.stale, hcount .s0 ▸ hwork.count0, fun h => hcount .s1 ▸ hwork.count1 (hdies ▸ h),
    (congrArg World.modes hw :).trans hscenes.modes, (congrArg World.ego hw :).trans hscenes.ego,
    (congrArg World.route hw :).trans hscenes.route, fun a ha => ?_⟩
  exact (hwork.dram a (by omega)).trans (congrArg (memByte · a) hstores.mem)

/-- An item without a tile, applied as the commit begins. -/
theorem State.commitAt_item (s : State) (t : Nat) (met : CommitMet) {it : Staged} (h : it.isTile = false) :
    s.commitAt t met [it] [] = ((s.advance t).commitOpened met [it] []).applyItem it := by
  unfold State.commitAt
  rw [List.filter_cons_of_pos (by rw [h]; rfl)]
  rfl

/-- A TILE item applied: its directory entry, and its cells where the entry does not lie over them (R67, R68). -/
theorem State.memByte_applyTile {s : State} {it : Staged} {slot k : Nat} {tx ty : Int} {cells : List Byte}
    (hm : it.matter = .tile slot tx ty cells) (hk : s.dirIndex tx ty = some k) :
    (∀ d ∈ s.dies, s.dirBase + 8 * k + 8 ≤ s.usable d → ∀ i, i < 8 →
      memByte (s.applyItem it).mem (dramBase d + s.dirBase + 8 * k + i) = (leBytes 8 (encodeDirEntry slot true)).getD i 0) ∧
    (cells.length ≤ 4096 → ∀ d ∈ s.dies, s.storeBase + 4096 * slot + cells.length ≤ s.usable d → ∀ i, i < cells.length →
      (∀ e : Die, dramBase d + (s.storeBase + 4096 * slot) + i < dramBase e + (s.dirBase + 8 * k) ∨
        dramBase e + (s.dirBase + 8 * k) + 8 ≤ dramBase d + (s.storeBase + 4096 * slot) + i) →
      memByte (s.applyItem it).mem (dramBase d + (s.storeBase + 4096 * slot) + i) = cells.getD i 0) ∧
    ∀ a, (∀ d : Die, a < dramBase d + (s.dirBase + 8 * k) ∨ dramBase d + (s.dirBase + 8 * k) + 8 ≤ a) →
      (∀ d : Die, a < dramBase d + (s.storeBase + 4096 * slot) ∨ dramBase d + (s.storeBase + 4096 * slot) + cells.length ≤ a) →
      memByte (s.applyItem it).mem a = memByte s.mem a := by
  rw [State.applyItem_tile s hm]
  have hv : Framed _ s (s.storeDies (s.storeBase + 4096 * slot) cells) := State.storeDies_framed (List.Subset.refl _) (Framed.refl s)
  have hcells := fun (d : Die) hd hu hl i hi =>
    s.memByte_storeDies (d := d) (off := s.storeBase + 4096 * slot) (data := cells) hd hu hl (i := i) hi
  have hout := fun x => s.memByte_storeDies_outside (s.storeBase + 4096 * slot) cells (x := x)
  generalize s.storeDies (s.storeBase + 4096 * slot) cells = v at *
  have hregs : v.regs = s.regs := hv .regs (by decide)
  have hdies : v.dies = s.dies := State.dies_congr (State.reg_of_regs hregs _) (hv .sec (by decide))
  obtain ⟨hentry, hrest⟩ := State.memByte_writeDir ((State.dirIndex_of_regs hregs tx ty).trans hk) slot true
  rw [State.dirBase_of_regs hregs] at hentry hrest
  refine ⟨fun d hd hu => hentry d (by rwa [hdies]) (by rwa [State.usable_of_regs hregs]), fun hl d hd hu i hi hapart => ?_, fun a hdir hstore => ?_⟩
  · exact (hrest _ hapart).trans (hcells d hd hu (by omega) i hi)
  · exact (hrest a hdir).trans (hout a hstore)

/-- The item of a commit that takes one: what it is decides what of the world or of DRAM changes. -/
theorem commitAppliesTheItem : Statements.CommitAppliesTheItem := by
  intro s t met it later hd hl hb hu hp ht hstaged ha hlater htile hagent
  have hsel := State.select_one hstaged ha hlater htile hagent
  have hitems : [it].filter Staged.isTile = if it.isTile then [it] else [] := List.filter_cons
  have hopen : CommitOpened s (s.commitAt t met [it] []) met [it] [] := State.commitAt_opened
  have hscenes : ScenesAlike (s.applyItem it) _ := State.commitAt_scenes (t := t) (met := met) (taken := [it]) (kept := [])
  have hstores : StoresAlike (s.applyItem it) _ := State.commitAt_stores (t := t) (met := met) (taken := [it]) (kept := [])
  have hitem := fun h => s.commitAt_item t met (it := it) h
  obtain ⟨u, hexec, hpump, hwait, hdone⟩ := exec_epochCommit_cases (met := met) hd hl hb hu ht hp hsel
  generalize s.commitAt t met [it] [] = b at *
  have hheld := hopen.held
  have hmem : b.mem = s.mem := hopen.frame .mem (by decide)
  have hbegins : CommitBegins s b later it.size := by
    have h := hopen.begins
    rw [State.later_staged hstaged ha hlater] at h
    simpa using h
  rw [hitems] at *
  have hw := hpump.world
  have hego : u.world.ego = b.world.ego := (congrArg World.ego hw :)
  have hroute : u.world.route = b.world.route := (congrArg World.route hw :)
  have hmodes : u.world.modes = b.world.modes := (congrArg World.modes hw :)
  have hidle (h : it.isTile = false) (a : Nat) (h' : a < 0x1000000000) : memByte u.mem a = memByte s.mem a :=
    (hpump.idle (by rw [h]; rfl) a (by omega)).trans (congrArg (memByte · a) hmem)
  refine ⟨u, hexec, hbegins.of_world hw hpump.rest, fun h => ?_, fun e hm => ?_, fun p hm => ?_, fun n m hm => ?_, fun h => ?_, fun h => ?_⟩
  · rw [hpump.plan, hopen.late]
    simp [h]
  · have hs := s.applyItem_ego hm ▸ hscenes
    have hnew : b.world.egoNew = true := by rw [hitem (Staged.isTile_of hm), State.applyItem_ego _ hm]
    exact ⟨hego.trans hs.ego, (congrArg World.egoNew hw :).trans hnew, hroute.trans hs.route, hmodes.trans hs.modes, hidle (Staged.isTile_of hm)⟩
  · have hs := s.applyItem_route hm ▸ hscenes
    exact ⟨hroute.trans hs.route, hego.trans hs.ego, hmodes.trans hs.modes, hidle (Staged.isTile_of hm)⟩
  · have hs := s.applyItem_agent hm ▸ hscenes
    exact ⟨hmodes.trans hs.modes, hego.trans hs.ego, hroute.trans hs.route, hidle (Staged.isTile_of hm)⟩
  · obtain ⟨hf, hev⟩ := hwait h
    exact ⟨(congrArg World.held (hf .world (by decide))).trans hheld, (hf .mem (by decide)).trans hmem, hev⟩
  · have hwork := hdone h
    have hbytes (a : Nat) (ha : a < 0x400000000000) : memByte u.mem a = memByte (s.applyItem it).mem a :=
      (hwork.dram a ha).trans (congrArg (memByte · a) hstores.mem)
    refine ⟨(congrArg World.held hwork.world :), (congrArg World.fresh hwork.world :), fun slot tx ty valid k hm hk => ?_,
      fun slot tx ty cells k hm hk => ?_⟩
    · obtain ⟨hentry, hrest⟩ := State.memByte_writeDir hk slot valid
      rw [← s.applyItem_dir hm] at hentry hrest
      refine ⟨fun d hd hu i hi => ?_, fun a ha hout => (hbytes a (by omega)).trans (hrest a hout)⟩
      have := s.usable_lt d
      have := dramBase_le d
      exact (hbytes _ (by omega)).trans (hentry d hd hu i hi)
    · obtain ⟨hentry, hcells, hrest⟩ := State.memByte_applyTile hm hk
      refine ⟨fun d hd hu i hi => ?_, fun hl d hd hu i hi hapart => ?_, fun a ha hdir hstore => (hbytes a (by omega)).trans (hrest a hdir hstore)⟩
      · have := s.usable_lt d
        have := dramBase_le d
        exact (hbytes _ (by omega)).trans (hentry d hd hu i hi)
      · have := s.usable_lt d
        have := dramBase_le d
        exact (hbytes _ (by omega)).trans (hcells hl d hd hu i hi hapart)

/-! ### COMMIT_END (R89, R101, R103, R454, R455) -/

theorem ItemsOnly.drainFreed {z s : State} (hs : ItemsOnly z s) : ItemsOnly z s.drainFreed :=
  ItemsOnly.drainItems _ _ _ (s := { s with world := { s.world with streams := s.world.streams.map fun (c : Stream) => { c with full := false } } })
    hs

/-- EGO_AGE as a commit ends (R101). -/
def World.nextEgoAge (w : World) : Nat := if w.egoNew then 0 else if w.egoAge = 255 then 255 else min 254 (w.egoAge + 1)

/-- The commit entered as ended in the world and in the Deputy. -/
def State.commitClosed (s : State) : State :=
  let v := s.setReg rWorldCommitNs (BitVec.ofNat 32 (s.now - s.world.began))
  { v with
    world := { s.world with
      busy := false, epoch := (s.world.epoch + 1) % 4294967296, egoAge := s.world.nextEgoAge, leaving := 0, egoNew := false }
    dep := { v.dep with
      epoch := (v.dep.epoch + 1) % 4294967296, ego := s.world.ego, modes := v.depRecords s.world.modes } }

/-- That state with what a stale ego makes of the tick. -/
def State.commitJudged (s : State) : State :=
  s.commitClosed.when (s.tick.live && decide (s.img (·.world.egoAgeLimit) ≤ s.world.nextEgoAge)) fun v => v.invalid reasonEgoStale

theorem exec_commitEnd {s : State} {t : Nat} (hb : s.world.busy = true) (hh : s.world.held = none) :
    exec (.commitEnd t) s = .next ((s.advance t).commitJudged.trigger 2).drainFreed := by
  show execCommitEnd t s = _
  unfold execCommitEnd
  rw [hb, hh]
  rfl

/-- A stale ego is the cause that stands, and only in a live tick. -/
theorem State.commitJudged_judged (s : State) : Framed [.plan] s.commitClosed s.commitJudged ∧
    (s.tick.live = true → s.img (·.world.egoAgeLimit) ≤ s.world.nextEgoAge → s.commitJudged.plan.cause = some (s.causeWith 6)) ∧
    (s.tick.live = false ∨ s.world.nextEgoAge < s.img (·.world.egoAgeLimit) → s.commitJudged.plan.cause = s.plan.cause) := by
  refine ⟨State.when_framed (Framed.refl _) fun _ h => State.invalid_framed (List.Subset.refl _) h, fun hl ha => ?_, fun h => ?_⟩
  · obtain ⟨at_, e⟩ := s.commitClosed.invalid_eq reasonEgoStale
    unfold State.commitJudged
    rw [hl, decide_eq_true ha, Bool.and_self, State.when_true, e]
    exact congrArg some (State.causeWith_congr rfl rfl 6)
  · have hc : (s.tick.live && decide (s.img (·.world.egoAgeLimit) ≤ s.world.nextEgoAge)) = false := by
      rcases h with h | h
      · rw [h, Bool.false_and]
      · rw [decide_eq_false (Nat.not_le.mpr h), Bool.and_false]
    unfold State.commitJudged
    rw [hc, State.when_false]
    rfl

/-- The end of a commit advances the epoch, and what it releases only moves items. -/
theorem commitEndAdvancesTheEpoch : Statements.CommitEndAdvancesTheEpoch := by
  intro s t age hb
  refine ⟨fun hh => ?_, fun hh hage => ⟨_, exec_commitEnd hb hh, ?_⟩⟩
  · show execCommitEnd t s = _
    unfold execCommitEnd
    rw [Option.isNone_eq_false_iff.mpr (Option.isSome_iff_ne_none.mpr hh), Bool.and_false, State.when_false]
  · obtain rfl : age = s.world.nextEgoAge := hage
    obtain ⟨hj, hstale, hfresh⟩ := (s.advance t).commitJudged_judged
    obtain ⟨n, e⟩ := s.advance_eq t
    rw [e] at hj hstale hfresh ⊢
    have hf : Framed [.regs, .world, .dies, .host, .chans, .out] (State.commitJudged { s with now := n })
        ((State.commitJudged { s with now := n }).trigger 2).drainFreed :=
      State.drainFreed_framed (by decide) (State.trigger_framed (by decide) (Framed.refl _))
    have hi : ItemsOnly (State.commitJudged { s with now := n }) ((State.commitJudged { s with now := n }).trigger 2).drainFreed :=
      ItemsOnly.drainFreed (s := (State.commitJudged { s with now := n }).trigger 2) rfl
    generalize ((State.commitJudged { s with now := n }).trigger 2).drainFreed = u at hf hi
    generalize State.commitJudged { s with now := n } = v at hj hstale hfresh hf hi
    have hw : u.world.besideItems = (State.commitClosed { s with now := n }).world.besideItems :=
      hi.trans (congrArg World.besideItems (hj .world (by decide)))
    have hdep : { u.dep with safe := true, slice := [] } = { (State.commitClosed { s with now := n }).dep with safe := true, slice := [] } :=
      (hf .dep (by decide)).trans (hj .dep (by decide))
    have hplan : u.plan = v.plan := hf .plan (by decide)
    exact ⟨(congrArg World.busy hw :), (congrArg World.epoch hw :), (congrArg World.egoAge hw :), (congrArg World.leaving hw :),
      (congrArg World.ego hw :), (congrArg World.modes hw :), (congrArg Deputy.epoch hdep :), (congrArg Deputy.ego hdep :),
      (congrArg Deputy.modes hdep :), (hf .mem (by decide)).trans (hj .mem (by decide)), (hf .tick (by decide)).trans (hj .tick (by decide)),
      (hf .dev (by decide)).trans (hj .dev (by decide)), fun hl ha => hplan ▸ hstale hl ha, fun h => hplan ▸ hfresh h⟩

/-- Settles O36: the items of a commit by their kind, the selection under the caps, and what the end of a commit advances. -/
theorem epochCommitTakesStagedItems : Obligations.EpochCommitTakesStagedItems :=
  ⟨commitAppliesTheItem, commitTakesTheDueItems, commitEndAdvancesTheEpoch⟩

end Sys2Proof.Machine

namespace Sys2Proof.Machine
open Sys2Proof

/-! ### The chain on a channel (R391, R393) -/

section Chains

variable {s v : State} {ch : Nat} {h : Chain}

theorem State.chainOf_host (s : State) (hch : ch < 140) : s.chainOf ch = (s.chan ch).chain := if_pos hch

theorem State.chainOf_internal (s : State) (hch : 140 ≤ ch) :
    s.chainOf ch = ((s.die (ixDie ch)).ihaul.find? fun q => q.1 == ixNum ch).map fun q => q.2.2 := if_neg (Nat.not_lt.mpr hch)

theorem State.setChain_host (s : State) (h : Chain) (hch : ch < 140) :
    s.setChain ch h = s.mapChan ch fun c => { c with chain := some h, cur := h.desc } := if_pos hch

theorem State.setChain_chan (s : State) (h : Chain) (hch : ch < 140) :
    (s.setChain ch h).chan ch = { s.chan ch with chain := some h, cur := h.desc } := by
  rw [s.setChain_host h hch, State.chan_mapChan]

/-- The chain that an internal channel holds, replaced. -/
theorem find_replaced {α : Type} (l : List (Nat × α × Chain)) (n : Nat) (h : Chain) :
    (((l.map fun q => if q.1 = n then (q.1, q.2.1, h) else q).find? fun q => q.1 == n).map fun q => q.2.2) =
      ((l.find? fun q => q.1 == n).map fun q => q.2.2).map fun _ => h := by
  induction l with
  | nil => rfl
  | cons q l ih =>
    by_cases hq : q.1 = n
    · rw [List.map_cons, if_pos hq, List.find?_cons_of_pos (by simpa using hq), List.find?_cons_of_pos (by simpa using hq)]
      rfl
    · rw [List.map_cons, if_neg hq, List.find?_cons_of_neg (by simpa using hq), List.find?_cons_of_neg (by simpa using hq), ih]

theorem State.setChain_chainOf {h' : Chain} (hch : 140 ≤ ch) (hc : s.chainOf ch = some h) : (s.setChain ch h').chainOf ch = some h' := by
  have hlt := Nat.not_lt.mpr hch
  unfold State.setChain
  rw [if_neg hlt, State.chainOf_internal _ hch, State.die_setDie]
  rw [State.chainOf_internal _ hch] at hc
  exact (find_replaced ..).trans (by rw [hc]; rfl)

theorem State.setChain_mem (s : State) (ch : Nat) (h : Chain) : (s.setChain ch h).mem = s.mem :=
  State.setChain_framed (List.Subset.refl _) (Framed.refl s) .mem (by decide)

theorem ixNum_lt (ch : Nat) : ixNum ch < 32 := Nat.mod_lt _ (by decide)

theorem bits_chStatus {st : Nat} (n : Nat) (h : st < 16) : bits (packFields [(4, st), (16, n)]) 7 4 = st := by
  show ((BitVec.ofNat 32 (0 + st * 16 + n * 65536)).toNat / 16) % 16 = st
  rw [BitVec.toNat_ofNat]
  omega

/-- The chain of an internal channel taken off with a status. -/
theorem State.dropChain_internal (s : State) (h : Chain) {st : Nat} (hch : 140 ≤ ch) (hst : st < 12) :
    InternalEnded (s.dropChain ch h st) ch st ∧ (s.dropChain ch h st).mem = s.mem := by
  have hmem : (s.dropChain ch h st).mem = s.mem := State.dropChain_framed (List.Subset.refl _) (Framed.refl s) .mem (by decide)
  refine ⟨?_, hmem⟩
  clear hmem
  have hn := ixNum_lt ch
  unfold State.dropChain
  extract_lets _ bad s0 s1 s2 s3 s4 d c x t1 t2 t3
  rw [if_neg (Nat.not_lt.mpr hch)]
  have hE : rIhaulChStatus d c ≠ rIhaulEvents d := by unfold rIhaulChStatus rIhaulEvents; omega
  have hB : rIhaulChStatus d c ≠ rIhaulChBytes d c := by unfold rIhaulChStatus rIhaulChBytes; omega
  have hC : rIhaulChStatus d c ≠ rIhaulErrChan d := by unfold rIhaulChStatus rIhaulErrChan; omega
  have hEC : rIhaulEvents d ≠ rIhaulErrChan d := by unfold rIhaulEvents rIhaulErrChan; omega
  have f1 : Framed [.regs] t1 (t3.when bad fun s => (s.event (rIhaulEvents d) 0).setReg (rIhaulErrChan d) (BitVec.ofNat 32 c)) :=
    State.when_framed (State.setReg_framed (List.Subset.refl _) (State.setReg_framed (List.Subset.refl _) (Framed.refl t1)))
      fun _ k => State.setReg_framed (List.Subset.refl _) (State.event_framed (List.Subset.refl _) k)
  have h1 : (t1.die d).ihaul = x.ihaul.filter fun q => q.1 != c := by
    show ((s0.setDie d _).die d).ihaul = _
    rw [State.die_setDie]
  have hreg : RegsKept (· = rIhaulChStatus d c) t2 (t3.when bad fun s => (s.event (rIhaulEvents d) 0).setReg (rIhaulErrChan d) (BitVec.ofNat 32 c)) := by
    have h3 : RegsKept (· = rIhaulChStatus d c) t2 t3 := (RegsKept.refl t2).setReg (by exact hB.symm) _
    exact h3.when ((h3.event (by exact hE.symm) 0).setReg (by exact hC.symm) _)
  refine ⟨?_, ?_, fun h0 => ?_⟩
  · rw [State.chainOf_internal _ hch, f1.die_eq]
    show (((t1.die d).ihaul.find? fun q => q.1 == c).map _) = none
    rw [h1, Option.map_eq_none_iff, List.find?_eq_none]
    intro q hq
    simpa using (List.mem_filter.mp hq).2
  · rw [hreg _ rfl]
    exact (congrArg (bits · 7 4) (State.reg_setReg t1 _ _)).trans (bits_chStatus _ (by omega))
  · have hbad : bad = true := decide_eq_true ⟨h0, by omega⟩
    rw [hbad, State.when_true, State.reg_setReg_ne _ _ hEC]
    exact State.event_bit _ _ (by decide)

end Chains

/-! ### DESCRIPTOR_START (R386 to R390, R395 to R398) -/

section DescriptorStart

variable {s v : State} {ch : Nat} {h : Chain} {desc sg : List Byte}

theorem State.emits_eq {α : Type} (f : α → Output) (l : List α) (s : State) :
    ∃ o, l.foldl (fun s p => s.emit (f p)) s = { s with out := o } := by
  induction l generalizing s with
  | nil => exact ⟨s.out, rfl⟩
  | cons p l ih =>
    obtain ⟨o, e⟩ := ih (s.emit (f p))
    exact ⟨o, e⟩

theorem State.askHost_eq (s : State) (a n : Nat) : ∃ o, s.askHost a n = { s with out := o } :=
  State.emits_eq (fun p : Nat × Nat => .hostRead p.1 p.2) _ s

theorem State.askList_eq (s : State) (ch : Nat) (h : Chain) : ∃ o, s.askList ch h = { s with out := o } := by
  unfold State.askList State.when
  split
  · exact s.askHost_eq ..
  · exact ⟨s.out, rfl⟩

/-- A descriptor checked as it is judged (R390). -/
theorem State.judgeDesc_fails {list : Nat} (hc : s.checkDesc ch h list ≠ 0) :
    s.judgeDesc ch h list = s.endChain ch h (s.checkDesc ch h list) := if_pos hc

theorem State.judgeDesc_held {list : Nat} (hc : s.checkDesc ch h list = 0) (hm : s.mayStart ch h = false) :
    s.judgeDesc ch h list = s.setChain ch { h with step := .held } := by
  unfold State.judgeDesc
  rw [hc, hm]
  rfl

theorem State.judgeDesc_internal {list : Nat} (hc : s.checkDesc ch h list = 0) (hm : s.mayStart ch h = true) (hch : 140 ≤ ch) :
    s.judgeDesc ch h list = s.startDesc ch h := by
  unfold State.judgeDesc
  dsimp only
  rw [if_neg (not_not_intro hc), hm, if_neg (by decide), if_pos hch]

theorem State.judgeDesc_host {list : Nat} (hc : s.checkDesc ch h list = 0) (hm : s.mayStart ch h = true) (hch : ch < 140) :
    s.judgeDesc ch h list = if s.linkTaken ch then (s.setChain ch { h with step := .held }).loseLink ch else (s.winLink ch).startDesc ch h := by
  unfold State.judgeDesc
  dsimp only
  rw [if_neg (not_not_intro hc), hm, if_neg (by decide), if_neg (Nat.not_le.mpr hch)]

/-- The status of a failed check (R390). -/
theorem State.checkDesc_lt {list : Nat} (s : State) (ch : Nat) (h : Chain) (hl : list < 12) : s.checkDesc ch h list < 12 := by
  unfold State.checkDesc
  extract_lets
  split_ifs
  · decide
  · decide
  · exact hl
  · decide
  · decide

/-- A descriptor started: the chain moves data. -/
theorem State.startDesc_internal (s : State) (h : Chain) (hch : 140 ≤ ch) : s.startDesc ch h = s.setChain ch { h with step := .moving } :=
  if_pos hch

theorem State.startDesc_host (s : State) (h : Chain) (hch : ch < 140) :
    Framed [.regs, .host, .out] (s.setChain ch { h with step := .moving }) (s.startDesc ch h) := by
  unfold State.startDesc
  extract_lets v w
  rw [if_neg (Nat.not_le.mpr hch)]
  have hw : Framed [.regs, .host, .out] v w := State.when_framed (Framed.refl v) fun z k => by
    refine State.setField_framed (by decide) (fun p hp => ?_)
    cases p with
    | host => exact absurd hp (by decide)
    | _ => exact k _ hp
  split
  · exact hw
  · exact List.foldlRecOn _ _ hw fun _ k _ _ => State.askHost_framed (by decide) k

theorem State.startDesc_chain (s : State) (h : Chain) (hch : ch < 140) :
    ((s.startDesc ch h).chan ch).chain = some { h with step := .moving } ∧ (s.startDesc ch h).mem = s.mem ∧ (s.startDesc ch h).dev = s.dev := by
  have hf := s.startDesc_host h hch
  refine ⟨?_, (hf .mem (by decide)).trans (s.setChain_mem ..), ?_⟩
  · rw [State.chan_of_chans (hf .chans (by decide)), s.setChain_chan _ hch]
  · exact State.startDesc_framed (List.Subset.refl _) (Framed.refl s) .dev (by decide)

theorem exec_descriptorStart_fetch (hch : ch < 140) (hc : (s.chan ch).chain = some h) (hf : h.step = .fetch)
    (hp : (s.chan ch).paused = false) (hg : (s.chan ch).pausing = false) :
    exec (.descriptorStart ch desc sg) s = .next ((s.askList ch { h with body := padTo 32 desc, sg := sg }).judgeDesc ch
      { h with body := padTo 32 desc, sg := sg } 0) := by
  have hn : isChannel ch = true := decide_eq_true (by omega)
  show execDescriptorStart ch desc sg s = _
  unfold execDescriptorStart
  rw [hn, s.chainOf_host hch, hc]
  dsimp only
  rw [hf]
  dsimp only
  rw [if_pos hch, hp, hg]
  rfl

theorem exec_descriptorStart_held (hch : ch < 204) (hc : s.chainOf ch = some h) (hf : h.step = .held) :
    exec (.descriptorStart ch desc sg) s = .next (s.when (s.mayStart ch h) fun s =>
      if ch < 140 ∧ s.linkTaken ch then s.loseLink ch else (s.when (decide (ch < 140)) fun s => s.winLink ch).startDesc ch h) := by
  have hn : isChannel ch = true := decide_eq_true hch
  show execDescriptorStart ch desc sg s = _
  unfold execDescriptorStart
  rw [hn, hc]
  dsimp only
  rw [hf]
  rfl

theorem exec_descriptorStart_internal (hlo : 140 ≤ ch) (hch : ch < 204) (hc : s.chainOf ch = some h) (hf : h.step = .fetch) :
    exec (.descriptorStart ch desc sg) s = .next (s.fetchInternal ch h) := by
  have hn : isChannel ch = true := decide_eq_true hch
  show execDescriptorStart ch desc sg s = _
  unfold execDescriptorStart
  rw [hn, hc]
  dsimp only
  rw [hf]
  dsimp only
  rw [if_neg (Nat.not_lt.mpr hlo)]
  rfl

/-- A descriptor of an internal channel judged, in a state in which the channel holds a chain. -/
theorem State.judgeDesc_judged {list : Nat} {h' : Chain} (hlo : 140 ≤ ch) (hc : v.chainOf ch = some h') (hl : list < 12) :
    InternalJudged v (v.judgeDesc ch h list) ch h list := by
  have hend : v.checkDesc ch h list ≠ 0 → v.judgeDesc ch h list = v.dropChain ch h (v.checkDesc ch h list) := fun k =>
    (State.judgeDesc_fails k).trans (if_neg (Nat.not_lt.mpr hlo))
  refine ⟨State.judgeDesc_framed (List.Subset.refl _) (Framed.refl v) .mem (by decide), fun k m => ?_, fun k m => ?_, fun k => ?_⟩
  · rw [State.judgeDesc_internal k m hlo, State.startDesc_internal _ _ hlo]
    exact State.setChain_chainOf hlo hc
  · rw [State.judgeDesc_held k m]
    exact State.setChain_chainOf hlo hc
  · rw [hend k]
    exact (v.dropChain_internal h hlo (v.checkDesc_lt ch h hl)).1

theorem State.spanStatus_lt (s : State) (a n : Nat) : s.spanStatus a n < 12 := by
  unfold State.spanStatus
  split
  · decide
  · split
    · decide
    · extract_lets
      split_ifs <;> decide

theorem State.opStatus_lt (s : State) (a n : Nat) : s.opStatus a n < 12 := by
  unfold State.opStatus
  split
  · decide
  · exact s.spanStatus_lt a n

theorem State.readList_lt (s : State) (a k : Nat) (bs : List Byte) : (s.readList a k bs).1 < 12 := by
  induction k generalizing a bs with
  | zero => exact Nat.zero_lt_succ _
  | succ k ih =>
    unfold State.readList
    extract_lets st e
    split_ifs
    · exact s.spanStatus_lt a 16
    · exact Nat.zero_lt_succ _
    · exact ih ..

theorem State.fetchList_lt (s : State) (h : Chain) : (s.fetchList h).1 < 12 := by
  unfold State.fetchList
  split
  · exact s.readList_lt ..
  · exact Nat.zero_lt_succ _

theorem State.judgeInternal_eq (s : State) (ch : Nat) (h : Chain) : s.judgeInternal ch h = if s.stalled (s.fetchWait h) = [] then
    s.judgeDesc ch { h with sg := (s.fetchList h).2 } (s.fetchList h).1 else s.noteStalls (s.stalled (s.fetchWait h)) := rfl

/-- The checks of a descriptor, the order of the link, and the reads of an internal channel decide how a descriptor starts. -/
theorem descriptorIsCheckedAndStarts : Statements.DescriptorIsCheckedAndStarts := by
  intro s ch desc sg h
  refine ⟨fun hch hc => ⟨fun hf hp hg hok => ?_, fun hf hp hg hroom hbad => ?_, fun hf hm ht => ?_, fun hf hm => ?_, fun hf hm ht => ?_⟩,
    fun hlo hch hc => ⟨fun hf hm => ?_, fun hf hm => ?_, fun hf hh hw => ?_, fun hf hh hw => ?_, fun hf hh hw => ?_, fun hf hh hw v st raw e => ?_⟩⟩
  · have hexec := exec_descriptorStart_fetch (desc := desc) (sg := sg) hch hc hf hp hg
    obtain ⟨o, e⟩ := s.askList_eq ch { h with body := padTo 32 desc, sg := sg }
    rw [e] at hexec ⊢
    refine ⟨fun hm ht => ⟨_, hexec, ?_⟩, fun hm ht => ⟨_, hexec, ?_⟩, fun hm => ⟨_, hexec, ?_⟩⟩
    · rw [State.judgeDesc_host (s := { s with out := o }) hok hm hch, if_neg (by rw [show State.linkTaken { s with out := o } ch = false from ht]; decide)]
      obtain ⟨h1, h2, h3⟩ := (State.winLink { s with out := o } ch).startDesc_chain { h with body := padTo 32 desc, sg := sg } hch
      exact ⟨h1, h2, h3⟩
    · rw [State.judgeDesc_host (s := { s with out := o }) hok hm hch, if_pos (show State.linkTaken { s with out := o } ch = true from ht), State.setChain_host _ _ hch]
      refine ⟨(congrArg Chan.chain (State.chan_mapChan { s with out := o } ch _) :), List.mem_append_right _ (List.mem_singleton.mpr rfl), rfl, rfl, rfl⟩
    · rw [State.judgeDesc_held (s := { s with out := o }) hok hm, State.setChain_host _ _ hch]
      exact ⟨(congrArg Chan.chain (State.chan_mapChan { s with out := o } ch _) :), rfl, rfl, rfl⟩
  · have hexec := exec_descriptorStart_fetch (desc := desc) (sg := sg) hch hc hf hp hg
    obtain ⟨o, e⟩ := s.askList_eq ch { h with body := padTo 32 desc, sg := sg }
    rw [e, State.judgeDesc_fails (s := { s with out := o }) hbad, State.endChain, if_pos hch] at hexec
    have hlt := s.checkDesc_lt ch { h with body := padTo 32 desc, sg := sg } (list := 0) (by decide)
    have d := State.writeRecords_ends (s := { s with out := o }) { h with body := padTo 32 desc, sg := sg }
      (s.checkDesc ch { h with body := padTo 32 desc, sg := sg } 0) (s.checkDesc ch { h with body := padTo 32 desc, sg := sg } 0, 1)
      hch hg hroom
    exact ⟨_, hexec, ⟨d.ended.idle, d.ended.status, d.ended.record, d.ended.free⟩, d.event hbad (by omega), d.mem⟩
  · rw [exec_descriptorStart_held (by omega) ((s.chainOf_host hch).trans hc) hf, hm, State.when_true, if_pos ⟨hch, ht⟩]
  · rw [exec_descriptorStart_held (by omega) ((s.chainOf_host hch).trans hc) hf, hm, State.when_false]
  · refine ⟨_, exec_descriptorStart_held (by omega) ((s.chainOf_host hch).trans hc) hf, ?_⟩
    rw [hm, State.when_true, if_neg (by rw [ht]; simp), decide_eq_true hch, State.when_true]
    obtain ⟨h1, h2, -⟩ := (s.winLink ch).startDesc_chain h hch
    exact ⟨h1, h2⟩
  · refine ⟨_, exec_descriptorStart_held hch hc hf, ?_⟩
    rw [hm, State.when_true, if_neg (by omega), decide_eq_false (by omega), State.when_false, State.startDesc_internal _ _ hlo]
    exact ⟨State.setChain_chainOf hlo hc, s.setChain_mem ..⟩
  · rw [exec_descriptorStart_held hch hc hf, hm, State.when_false]
  · rw [exec_descriptorStart_internal hlo hch hc hf, State.fetchInternal, if_pos hh, State.judgeInternal_eq, if_neg hw]
  · refine ⟨_, exec_descriptorStart_internal hlo hch hc hf, ?_⟩
    rw [State.fetchInternal, if_pos hh, State.judgeInternal_eq, if_pos hw]
    exact State.judgeDesc_judged hlo hc (s.fetchList_lt h)
  · have hall : s.stalled [(h.desc, 32)] = [(h.desc, 32)] := by
      unfold State.stalled at hw ⊢
      rw [List.filter_singleton] at hw ⊢
      cases hs : s.stalls (h.desc, 32).1 (h.desc, 32).2 with
      | true => rfl
      | false => exact absurd (by rw [hs]; rfl) hw
    rw [exec_descriptorStart_internal hlo hch hc hf, State.fetchInternal, if_neg (by rw [hh]; decide), State.afterFront, if_neg hw, hall]
  · have hexec : exec (.descriptorStart ch desc sg) s = .next (if st ≠ 0 then v.endChain ch h st else v.judgeInternal ch { h with body := raw }) := by
      rw [exec_descriptorStart_internal hlo hch hc hf, State.fetchInternal, if_neg (by rw [hh]; decide), State.afterFront, if_pos hw, e]
    have hv : Framed [.regs] s v := by
      have k := State.getHere_framed (a := h.desc) (n := 32) (List.Subset.refl _) (Framed.refl s)
      rw [e] at k
      exact k
    have hst : st < 12 := by
      obtain rfl : s.opStatus h.desc 32 = st := congrArg (·.2.1) e
      exact s.opStatus_lt ..
    have hvc : v.chainOf ch = some h := by
      rw [State.chainOf_internal _ hlo, hv.die_eq, ← State.chainOf_internal _ hlo, hc]
    refine ⟨fun h0 => ⟨_, hexec, ?_⟩, fun h0 hwait => ?_, fun h0 hwait => ⟨_, hexec, ?_⟩⟩
    · rw [if_pos h0, State.endChain, if_neg (Nat.not_lt.mpr hlo)]
      obtain ⟨k1, k2⟩ := v.dropChain_internal h hlo hst
      exact ⟨k1, k2.trans (hv .mem (by decide))⟩
    · rw [hexec, if_neg (not_not_intro h0), State.judgeInternal_eq, if_neg hwait]
    · rw [if_neg (not_not_intro h0), State.judgeInternal_eq, if_pos hwait]
      exact State.judgeDesc_judged hlo hvc (v.fetchList_lt _)

end DescriptorStart

end Sys2Proof.Machine

namespace Sys2Proof.Machine
open Sys2Proof

/-! ### Items taken up alike (R80, R86, R89) -/

namespace JudgesAlike
variable {z s t : State}

theorem symm (h : JudgesAlike z s) : JudgesAlike s z :=
  ⟨h.dev.symm, h.tick.symm, h.image.symm, h.loading.symm, fun o ho => (h.regs o ho).symm⟩

theorem trans (h : JudgesAlike z s) (k : JudgesAlike s t) : JudgesAlike z t :=
  ⟨k.dev.trans h.dev, k.tick.trans h.tick, k.image.trans h.image, k.loading.trans h.loading, h.regs.trans k.regs⟩

/-- An operation with a frame beside what judges an item. -/
theorem of_frame {ps : List Part} (hf : Framed ps z s) (hr : RegsKept (· ∈ judgeRegs) z s)
    (hp : Part.dev ∉ ps ∧ Part.tick ∉ ps ∧ Part.image ∉ ps ∧ Part.loading ∉ ps := by decide) : JudgesAlike z s :=
  ⟨hf .dev hp.1, hf .tick hp.2.1, hf .image hp.2.2.1, hf .loading hp.2.2.2, hr⟩

/-- Judging an item leaves what judges the next. -/
theorem judgeItem (s : State) (stream arrival chain : Nat) (bs : List Byte) : JudgesAlike s (s.judgeItem stream arrival chain bs).1 :=
  of_frame (ps := [.regs, .world, .host, .out]) (State.judgeItem_framed (List.Subset.refl _) (Framed.refl s))
    ((RegsKept.refl s).judgeItem (by decide) stream arrival chain bs)

theorem takeUp (s : State) (stream : Nat) (it : Nat × Nat × List Byte) : JudgesAlike s (s.takeUp stream it).1 := by
  unfold State.takeUp
  split
  · have h := judgeItem s stream it.1 it.2.1 it.2.2
    unfold State.when
    dsimp only
    split
    · exact h.trans ⟨rfl, rfl, rfl, rfl, fun _ _ => rfl⟩
    · exact h
  · exact ⟨rfl, rfl, rfl, rfl, fun _ _ => rfl⟩

end JudgesAlike

section Alike

variable {z s : State}

theorem State.mapStream_world_congr (hw : s.world = z.world) (n : Nat) (f : Stream → Stream) :
    (s.mapStream n f).world = (z.mapStream n f).world :=
  congrArg (fun w : World => { w with streams := modifyD Stream.idle f n w.streams }) hw

theorem State.when_world_congr {f : State → State} (hw : s.world = z.world) (hf : (f s).world = (f z).world) (c : Bool) :
    (s.when c f).world = (z.when c f).world := by
  cases c
  · exact hw
  · exact hf

theorem State.setStamp_world_congr (hw : s.world = z.world) (g : Target) (v : Nat) : (s.setStamp g v).world = (z.setStamp g v).world :=
  congrArg (fun w : World => { w with stamps := (w.stamps.filter fun p : Target × Nat => p.1 != g) ++ [(g, v)] }) hw

theorem State.stageItem_world_congr (hw : s.world = z.world) (it : Staged) : (s.stageItem it).world = (z.stageItem it).world :=
  congrArg (fun w : World => { w with staged := w.staged ++ [it] }) hw

theorem State.holdUrgent_world_congr (hw : s.world = z.world) (d : UrgentDelta) : (s.holdUrgent d).world = (z.holdUrgent d).world :=
  congrArg (fun w : World => { w with urgents := w.urgents ++ [d] }) hw

theorem State.noteItem_world_congr (hw : s.world = z.world) (stream : Nat) (h : ItemHead) (late : Bool) :
    (s.noteItem stream h late).world = (z.noteItem stream h late).world :=
  State.setStamp_world_congr (State.mapStream_world_congr hw stream _) ..

theorem State.nSamp_of_image (h : s.image = z.image) : s.nSamp = z.nSamp := by
  unfold State.nSamp State.img
  rw [h]

theorem State.acceptItem_world_congr (hw : s.world = z.world) (hi : s.image = z.image) (stream arrival : Nat) (h : ItemHead)
    (payload : List Byte) (late : Bool) :
    (s.acceptItem stream arrival h payload late).world = (z.acceptItem stream arrival h payload late).world := by
  obtain ⟨v, hvw, hvi, e⟩ := s.acceptItem_eq stream arrival h payload late
  obtain ⟨w, hww, hwi, e'⟩ := z.acceptItem_eq stream arrival h payload late
  have hw' : v.world = w.world := hvw.trans (hw.trans hww.symm)
  have hn : v.nSamp = w.nSamp := State.nSamp_of_image (hvi.trans (hi.trans hwi.symm))
  have hnote := State.noteItem_world_congr hw' stream h late
  have hn' : (v.noteItem stream h late).nSamp = (w.noteItem stream h late).nSamp := hn
  rw [e, e']
  unfold State.acceptNoted
  dsimp only
  rw [State.copyStaged_of_stamps (congrArg World.stamps hw') h, hn']
  generalize v.noteItem stream h late = v' at hnote
  generalize w.noteItem stream h late = w' at hnote
  split
  · have hu := State.holdUrgent_world_congr hnote
      ⟨h.target, h.flags == 1, itemModes h w'.nSamp payload, h.stamp, arrival, stream, late⟩
    exact State.when_world_congr hu (State.stageItem_world_congr (State.setStamp_world_congr hu ..) _) _
  · exact State.stageItem_world_congr hnote _

theorem State.rejectItem_world (s : State) (stream code type : Nat) : (s.rejectItem stream code type).world =
    (s.mapStream stream fun c => { c with rej := c.rej + 1, late := if code = 3 then c.late + 1 else c.late }).world := by
  unfold State.rejectItem
  extract_lets s1 s2 s3
  exact State.when_framed (ps := [.host, .out]) (Framed.refl s3) (fun _ h => State.irq_framed (List.Subset.refl _) h) .world (by decide)

/-- Two states that judge items alike and whose worlds are equal take up an item alike. -/
theorem State.judgeItem_congr (h : JudgesAlike z s) (hw : s.world = z.world) (stream arrival chain : Nat) (bs : List Byte) :
    (s.judgeItem stream arrival chain bs).1.world = (z.judgeItem stream arrival chain bs).1.world ∧
      (s.judgeItem stream arrival chain bs).2 = (z.judgeItem stream arrival chain bs).2 := by
  have hc : s.checkItem stream arrival (decodeHead bs) = z.checkItem stream arrival (decodeHead bs) :=
    h.checkItem stream arrival _ (by rw [hw]) (by rw [hw])
  cases k : z.checkItem stream arrival (decodeHead bs) with
  | reject code =>
    rw [State.judgeItem_reject (hc.trans k), State.judgeItem_reject k]
    have hr : (s.rejectItem stream code (decodeHead bs).type).world = (z.rejectItem stream code (decodeHead bs).type).world := by
      rw [State.rejectItem_world, State.rejectItem_world]
      exact State.mapStream_world_congr hw stream _
    exact ⟨State.when_world_congr hr (State.mapStream_world_congr hr stream _) _, rfl⟩
  | wait =>
    rw [State.judgeItem_wait (hc.trans k), State.judgeItem_wait k]
    exact ⟨hw, rfl⟩
  | take late =>
    have hfree : s.stageFree = z.stageFree := by
      unfold State.stageFree
      rw [h.img, hw]
    have hneeds : s.itemNeeds (decodeHead bs) = z.itemNeeds (decodeHead bs) := by
      unfold State.itemNeeds
      rw [State.copyStaged_of_stamps (congrArg World.stamps hw)]
    by_cases hroom : z.stageFree < z.itemNeeds (decodeHead bs)
    · rw [State.judgeItem_room (hc.trans k) (by rwa [hfree, hneeds]), State.judgeItem_room k hroom]
      exact ⟨State.mapStream_world_congr (s := s.event rWorldEvents 5) (z := z.event rWorldEvents 5) hw stream _, rfl⟩
    · rw [State.judgeItem_take (hc.trans k) (by rw [hfree, hneeds]; omega), State.judgeItem_take k (by omega)]
      exact ⟨State.acceptItem_world_congr hw h.image .., rfl⟩

theorem State.takeUp_congr (h : JudgesAlike z s) (hw : s.world = z.world) (stream : Nat) (it : Nat × Nat × List Byte) :
    (s.takeUp stream it).1.world = (z.takeUp stream it).1.world ∧ (s.takeUp stream it).2 = (z.takeUp stream it).2 := by
  obtain ⟨hj, hv⟩ := State.judgeItem_congr h hw stream it.1 it.2.1 it.2.2
  unfold State.takeUp
  rw [hw]
  dsimp only
  split
  · rw [hv]
    exact ⟨State.when_world_congr hj (State.mapStream_world_congr hj stream _) _, rfl⟩
  · exact ⟨State.mapStream_world_congr hw stream _, rfl⟩

/-- The room for items is that of a state which judges them alike. -/
theorem State.roomFor_congr (h : JudgesAlike z s) (hw : s.world = z.world) (stream : Nat) (its : List (Nat × Nat × List Byte)) :
    s.roomFor stream its = z.roomFor stream its := by
  unfold State.roomFor
  rw [hw]
  refine (List.foldl_rel (r := fun (a b : State × Bool) => JudgesAlike b.1 a.1 ∧ a.1.world = b.1.world ∧ a.2 = b.2)
    (a := (s, true)) (b := (z, true)) ⟨h, hw, rfl⟩ fun p _ a b hab => ?_).2.2
  obtain ⟨ha, haw, hab⟩ := hab
  rw [haw]
  split
  · exact ⟨ha, haw, hab⟩
  · obtain ⟨k1, k2⟩ := State.takeUp_congr ha haw p.1 p.2
    refine ⟨((JudgesAlike.takeUp b.1 p.1 p.2).symm.trans ha).trans (JudgesAlike.takeUp a.1 p.1 p.2), k1, ?_⟩
    dsimp only
    rw [hab, k2]

theorem State.cutItems_congr (h : JudgesAlike z s) (stream fuel : Nat) (bs : List Byte) :
    s.cutItems stream fuel bs = z.cutItems stream fuel bs := by
  have hspan : ∀ i, s.itemSpan stream i = z.itemSpan stream i := fun i => by
    unfold State.itemSpan
    rw [h.itemFormat, h.streamCfg]
  induction fuel generalizing bs with
  | zero => rfl
  | succ fuel ih =>
    unfold State.cutItems
    simp only [hspan, ih]

theorem State.newItems_congr (h : JudgesAlike z s) (hw : s.world = z.world) (stream t : Nat) (data : List Byte) :
    s.newItems stream t data = z.newItems stream t data := by
  unfold State.newItems
  simp only [hw, State.cutItems_congr h]

end Alike

/-! ### Contested cycles (R344) -/

theorem RegsKept.contendAll {P : Nat → Prop} {z s : State} (ha : ∀ d, ¬ P (rGalConfTotalA d)) (hb : ∀ d, ¬ P (rGalConfTotalB d))
    (ports : List (Die × Nat × List Nat)) (hs : RegsKept P z s) : RegsKept P z (s.contendAll ports) := by
  refine RegsKept.foldl (fun t p ht => ?_) ports hs
  unfold State.contend
  extract_lets x rs
  split
  · exact ht
  · extract_lets lost s1
    have h1 : RegsKept P z s1 := ht.setDie _ _
    refine h1.count ?_ _
    split
    · exact ha _
    · exact hb _

theorem JudgesAlike.contendAll (s : State) (ports : List (Die × Nat × List Nat)) : JudgesAlike s (s.contendAll ports) :=
  of_frame (s.contendAll_frame ports) ((RegsKept.refl s).contendAll (fun d => by cases d <;> decide) (fun d => by cases d <;> decide) ports)

end Sys2Proof.Machine

namespace Sys2Proof.Machine
open Sys2Proof

/-! ### The pages of a span (R348) -/

/-- A piece of a span lies in it and crosses no page. -/
theorem mem_pageSpans {a n : Nat} {p : Nat × Nat} (h : p ∈ pageSpans a n) :
    a ≤ p.1 ∧ p.1 + p.2 ≤ a + n ∧ p.1 % 4096 + p.2 ≤ 4096 := by
  unfold pageSpans spansOf at h
  split at h
  · exact absurd h List.not_mem_nil
  · obtain ⟨k, hk, rfl⟩ := List.mem_map.mp h
    have hk := List.mem_range.mp hk
    dsimp only
    omega

theorem pageSpans_cover {a n i : Nat} (h : i < n) : ∃ p ∈ pageSpans a n, p.1 ≤ a + i ∧ a + i < p.1 + p.2 := by
  unfold pageSpans spansOf
  rw [if_neg (by omega)]
  refine ⟨_, List.mem_map.mpr ⟨(a + i) / 4096 - a / 4096, List.mem_range.mpr (by omega), rfl⟩, ?_⟩
  dsimp only
  omega

/-- A span within a page is its own one piece. -/
theorem pageSpans_one {a n : Nat} (h0 : 0 < n) (h : a / 4096 = (a + n - 1) / 4096) : pageSpans a n = [(a, n)] := by
  have e : (a + n - 1) / 4096 + 1 - a / 4096 = 1 := by omega
  unfold pageSpans spansOf
  rw [if_neg (by omega), e]
  simp only [List.range_one, List.map_cons, List.map_nil, List.cons.injEq, Prod.mk.injEq, and_true]
  omega

/-- Within a page the local addresses follow the global ones. -/
theorem localOf_add {a n i : Nat} (h : a % 4096 + n ≤ 4096) (hi : i < n) : localOf (a + i) = localOf a + i := by
  unfold localOf
  omega

theorem mem_outPieces {h : Chain} {p : Nat × Nat × Nat} (hp : p ∈ h.outPieces) :
    (p.1, p.2.1) ∈ pageSpans h.dst h.outLen ∧ p.2.2 = p.1 - h.dst := by
  obtain hp | hp := List.mem_append.mp hp
  · obtain ⟨q, hq, rfl⟩ := List.mem_map.mp hp
    exact ⟨hq, Nat.zero_add _⟩
  · exact absurd hp List.not_mem_nil

theorem outPieces_of_mem {h : Chain} {q : Nat × Nat} (hq : q ∈ pageSpans h.dst h.outLen) : (q.1, q.2, q.1 - h.dst) ∈ h.outPieces :=
  List.mem_append_left _ (List.mem_map.mpr ⟨q, hq, by rw [Nat.zero_add]⟩)

/-! ### Writes to the device side (R359, R392) -/

section Writes

variable {s : State} {ch : Nat} {bs : List Byte}

/-- What a write at this device answers and leaves, or a Crosscut that is down. -/
def State.putAcross (s : State) (ch a : Nat) (data : List Byte) (n : Nat) : State × Nat :=
  if s.crossDown (ixFrom ch) (localOf a) n then (s, 6) else s.putHere (localOf a) data

theorem State.writeDevice_here {a n o : Nat} {ps : List (Nat × Nat × Nat)} (k : Nat) (h : nodeOf a = s.node) :
    s.writeDevice ch bs ((a, n, o) :: ps) k = if (s.putAcross ch a ((bs.drop o).take n) n).2 = 0 then
      (s.putAcross ch a ((bs.drop o).take n) n).1.writeDevice ch bs ps k
    else ((s.putAcross ch a ((bs.drop o).take n) n).1, (s.putAcross ch a ((bs.drop o).take n) n).2, o) := by
  rw [State.writeDevice]
  exact if_pos h

theorem State.writeEvents_frame (s : State) (a n st : Nat) : Framed [.regs] s (s.writeEvents a n st) :=
  State.writeEvents_framed (List.Subset.refl _) (Framed.refl s)

theorem State.memByte_putHere_outside (s : State) (a : Nat) (data : List Byte) {x : Nat} (h : x < a ∨ a + data.length ≤ x) :
    memByte (s.putHere a data).1.mem x = memByte s.mem x := by
  have hmem : (s.writeEvents a data.length (s.writeStatus a data.length)).mem = s.mem := s.writeEvents_frame _ _ _ .mem (by decide)
  unfold State.putHere State.when
  dsimp only
  split
  · rw [State.memByte_store_outside _ data h, hmem]
  · rw [hmem]

theorem State.writeDevice_outside (s : State) (ch : Nat) (bs : List Byte) {ps : List (Nat × Nat × Nat)} (k : Nat) {x : Nat}
    (h : ∀ p ∈ ps, ∀ i, i < p.2.1 → localOf p.1 + i ≠ x) : memByte (s.writeDevice ch bs ps k).1.mem x = memByte s.mem x := by
  induction ps generalizing s k with
  | nil => rfl
  | cons p ps ih =>
    obtain ⟨a, n, o⟩ := p
    have hps := fun q hq => h q (List.mem_cons_of_mem (a, n, o) hq)
    have hp := h (a, n, o) List.mem_cons_self
    by_cases hn : nodeOf a = s.node
    · have hput : memByte (s.putAcross ch a ((bs.drop o).take n) n).1.mem x = memByte s.mem x := by
        unfold State.putAcross
        split
        · rfl
        · refine s.memByte_putHere_outside _ _ ?_
          have hl : ((bs.drop o).take n).length ≤ n := List.length_take_le ..
          have hx : ¬(localOf a ≤ x ∧ x < localOf a + n) := fun hx => hp (x - localOf a) (show _ < n by omega) (show localOf a + _ = x by omega)
          omega
      rw [State.writeDevice_here k hn]
      split
      · exact (ih _ k hps).trans hput
      · exact hput
    · rw [State.writeDevice, if_neg hn]
      have hf : Framed [.kl, .out] s (s.issueRemote 1 (nodeOf a) a ((bs.drop o).take n) (.channel ch o)).1 :=
        State.issueSized_framed (List.Subset.refl _) (Framed.refl s)
      generalize s.issueRemote 1 (nodeOf a) a ((bs.drop o).take n) (.channel ch o) = r at hf
      obtain ⟨v, st⟩ := r
      have hm : memByte v.mem x = memByte s.mem x := congrArg (memByte · x) (hf .mem (by decide))
      cases st with
      | none => exact (ih v (k + 1) hps).trans hm
      | some st => exact hm

/-- An access that is performed shows at most that it waited for an initialisation. -/
theorem State.writeEvents_regs (s : State) (a n : Nat) : RegsKept (fun o => ∀ d, o ≠ rDmcEvents d) s (s.writeEvents a n 0) := by
  have hacc : RegsKept (fun o => ∀ d, o ≠ rDmcEvents d) s (s.accessEvents a n 0) := by
    unfold State.accessEvents
    split
    · next d _ _ =>
      rw [if_neg (by decide), if_neg (by decide)]
      exact (RegsKept.refl s).when ((RegsKept.refl s).event (fun h => h d rfl) 3)
    · split
      · exact RegsKept.refl s
      · exact RegsKept.refl s
    · exact RegsKept.refl s
  unfold State.writeEvents
  dsimp only
  split
  · exact hacc
  · exact hacc

theorem State.putAcross_done {a n : Nat} {data : List Byte} (hl : data.length = n) (hc : s.crossDown (ixFrom ch) (localOf a) n = false)
    (hw : s.writeStatus (localOf a) n = 0) :
    s.putAcross ch a data n = ((s.writeEvents (localOf a) n 0).store (localOf a) data, 0) := by
  unfold State.putAcross State.putHere
  rw [hc, hl, hw]
  rfl

/-- The pieces of a device side in the DRAM of this device that no guard, gate or Crosscut stops. -/
structure PieceHere (s : State) (ch base : Nat) (bs : List Byte) (p : Nat × Nat × Nat) : Prop where
  node : nodeOf p.1 = s.node
  cross : s.crossDown (ixFrom ch) (localOf p.1) p.2.1 = false
  status : s.writeStatus (localOf p.1) p.2.1 = 0
  data : p.2.2 + p.2.1 ≤ bs.length
  dram : localOf p.1 + p.2.1 < 0x400000000000
  offset : localOf p.1 = base + p.2.2

theorem PieceHere.of_alike {z : State} {base : Nat} {p : Nat × Nat × Nat} (h : AccessAlike z s) (k : PieceHere z ch base bs p) :
    PieceHere s ch base bs p :=
  ⟨k.node.trans h.node.symm, (h.crossDown ..).trans k.cross, (h.writeStatus ..).trans k.status, k.data, k.dram, k.offset⟩

/-- What writing such pieces leaves. -/
structure PiecesWritten (s u : State) (base : Nat) (bs : List Byte) (ps : List (Nat × Nat × Nat)) : Prop where
  frame : Framed [.regs, .mem] s u
  regs : RegsKept (fun o => ∀ d, o ≠ rDmcEvents d) s u
  bytes : ∀ x, (∃ p ∈ ps, localOf p.1 ≤ x ∧ x < localOf p.1 + p.2.1) → memByte u.mem x = bs.getD (x - base) 0

theorem State.writeDevice_written {base : Nat} {ps : List (Nat × Nat × Nat)} (k : Nat) (h : ∀ p ∈ ps, PieceHere s ch base bs p) :
    ∃ u, s.writeDevice ch bs ps k = (u, 0, k) ∧ PiecesWritten s u base bs ps := by
  induction ps generalizing s with
  | nil => exact ⟨s, rfl, Framed.refl s, RegsKept.refl s, fun _ ⟨_, hp, _⟩ => absurd hp List.not_mem_nil⟩
  | cons p ps ih =>
    obtain ⟨a, n, o⟩ := p
    obtain ⟨hnode, hcross, hstatus, hdata, hdram, hoffset⟩ := h (a, n, o) List.mem_cons_self
    dsimp only at hnode hcross hstatus hdata hdram hoffset
    have hlen : ((bs.drop o).take n).length = n := by rw [List.length_take, List.length_drop]; omega
    have hput := State.putAcross_done hlen hcross hstatus
    have hf := s.writeEvents_frame (localOf a) n 0
    have hr := s.writeEvents_regs (localOf a) n
    rw [State.writeDevice_here k hnode, hput, if_pos rfl]
    generalize s.writeEvents (localOf a) n 0 = v at hf hr
    rw [State.store_dram v _ (by omega)]
    have hfw : Framed [.regs, .mem] s { v with mem := memWrite v.mem (localOf a) ((bs.drop o).take n) } := by
      intro p hp
      have k := hf p fun q => hp (by simp at q; simp [q])
      cases p with
      | mem => exact absurd hp (by decide)
      | _ => exact k
    have hrw : RegsKept (fun o => ∀ d, o ≠ rDmcEvents d) s { v with mem := memWrite v.mem (localOf a) ((bs.drop o).take n) } :=
      hr.of_regs rfl
    have hbytes := fun x => memByte_write v.mem (localOf a) ((bs.drop o).take n) x
    change ∀ x, memByte ({ v with mem := memWrite v.mem (localOf a) ((bs.drop o).take n) } : State).mem x = _ at hbytes
    generalize ({ v with mem := memWrite v.mem (localOf a) ((bs.drop o).take n) } : State) = w at hfw hrw hbytes
    have halike : AccessAlike s w :=
      AccessAlike.of_frame hfw fun o ho => hrw o (by rintro d rfl; revert ho; cases d <;> decide)
    obtain ⟨u, e, hu⟩ := ih (s := w) fun q hq => PieceHere.of_alike halike (h q (List.mem_cons_of_mem (a, n, o) hq))
    refine ⟨u, e, (hfw.trans (hu.frame)), hrw.trans hu.regs, fun x hx => ?_⟩
    by_cases hps : ∃ q ∈ ps, localOf q.1 ≤ x ∧ x < localOf q.1 + q.2.1
    · exact hu.bytes x hps
    · obtain ⟨q, hq, hqx⟩ := hx
      obtain rfl : q = (a, n, o) := (List.mem_cons.mp hq).elim id fun hq => absurd ⟨q, hq, hqx⟩ hps
      dsimp only at hqx
      have hout := w.writeDevice_outside ch bs (ps := ps) k (x := x) fun q hq i hi hx => hps ⟨q, hq, by omega⟩
      rw [e] at hout
      refine hout.trans ((hbytes x).trans ((if_pos (by omega)).trans ?_))
      rw [List.getD_eq_getElem?_getD, List.getElem?_take_of_lt (by omega), List.getElem?_drop, ← List.getD_eq_getElem?_getD]
      congr 1
      omega

end Writes

/-! ### Reads from the device side, none of which leaves this device (R346, R353, R354) -/

namespace RegsKept
variable {P : Nat → Prop} {z s : State} (hub : ∀ a, P a → a < 0x400000)
include hub

theorem accessEvents (a n st : Nat) (hs : RegsKept P z s) : RegsKept P z (s.accessEvents a n st) := by
  unfold State.accessEvents
  split
  · next d _ _ =>
    have hd : ¬ P (rDmcEvents d) := notDie hub d _
    exact (hs.event (notDie hub d _) 2).ite ((hs.when (hs.event hd 4)).ite (hs.when (hs.event hd 3)))
  · split
    · next d _ => exact hs.when (hs.event (notDie hub d _) 2)
    · exact hs
  · exact hs

/-- A register of a die that stands behind a first one of a row. -/
theorem notRow (d : Die) (c i : Nat) : ¬ P (d.base + c + i) := not_of_hub hub (by have := d.base_ge; omega)

theorem countCe (ar : Area) (hs : RegsKept P z s) : RegsKept P z (s.countCe ar) := by
  have hgal (d : Die) : RegsKept P z ((s.count (rGalEccCe d) 1).event (rGalEvents d) 0) :=
    (hs.count (notDie hub d _) 1).event (notDie hub d _) 0
  cases ar with
  | dram d _ => exact (hs.count (notDie hub d _) 1).event (notDie hub d _) 0
  | policy d _ => exact hs.count (notDie hub d _) 1
  | slices d off => exact hs.count (notRow hub d _ _) 1
  | ceLocal d off => exact hs.count (notRow hub d _ _) 1
  | gallery d _ => exact hgal d
  | reLocal d _ => exact hgal d
  | heapMem d _ => exact hgal d
  | selBuf d _ => exact hgal d
  | counters d _ => exact hgal d
  | staging _ => exact hs

theorem countBusy (d : Die) (n : Nat) (hs : RegsKept P z s) : RegsKept P z (s.countBusy d n) :=
  (hs.count (o := rGalHazards d) (notDie hub d _) n).event (o := rGalEvents d) (notDie hub d _) 3

theorem setUeAddr (ar : Area) (a : Nat) (hs : RegsKept P z s) : RegsKept P z (s.setUeAddr ar a) := by
  unfold State.setUeAddr
  split
  · next d _ => exact hs.setPair (notDie hub d _) (notDie hub d _) a
  · exact hs
  · split
    · next d _ => exact hs.setReg (notDie hub d _) _
    · exact hs

variable (hl : ∀ a ∈ logRegs, ¬ P a)
include hl

theorem engineFault (d : Die) (p mem ofs : Nat) (hs : RegsKept P z s) : RegsKept P z (s.engineFault d p mem ofs) := by
  unfold State.engineFault
  extract_lets s1 s2
  have h1 : RegsKept P z s1 := (hs.event (notRow hub d _ _) _).event (notDie hub d _) 1
  have h2 : RegsKept P z s2 := h1.setDie d _
  have h3 := h2.log hl warn 0x0312 (tallySource (d.idx + 1) 1 p) (leBytes 1 mem ++ leBytes 4 ofs)
  exact h3.when (h3.invalid _)

theorem bufFault (d : Die) (hs : RegsKept P z s) : RegsKept P z (s.bufFault d) := by
  have h := (hs.event (o := rPaEvents d) (notDie hub d _) 4).log hl warn 0x0301 (tallySource (d.idx + 1) 3 0)
    (leBytes 1 (s.die d).paNet ++ leBytes 2 (s.die d).paOp)
  exact h.when (h.framed (State.stopNets_framed (List.Subset.refl _) (Framed.refl _)))

theorem heapFault (d : Die) (ofs : Nat) (hs : RegsKept P z s) : RegsKept P z (s.heapFault d ofs) := by
  have h := (hs.event (o := rHeapEvents d) (notDie hub d _) 2).log hl warn 0x0330 (tallySource (d.idx + 1) 5 0) (leBytes 4 ofs)
  exact h.when (h.invalid _)

theorem countUe (ar : Area) (a : Nat) (hs : RegsKept P z s) : RegsKept P z (s.countUe ar a) := by
  have h := hs.setUeAddr hub ar a
  unfold State.countUe
  generalize s.setUeAddr ar a = v at h
  have hgal (d : Die) : RegsKept P z (v.event (rGalEvents d) 1) := h.event (notDie hub d _) 1
  cases ar with
  | dram d _ => exact (h.count (notDie hub d _) 1).event (notDie hub d _) 1
  | staging _ => exact h
  | slices d o => exact engineFault hub hl d _ _ _ (hgal d)
  | ceLocal d o => exact engineFault hub hl d _ _ _ (hgal d)
  | policy d _ => exact (hgal d).bufFault hub hl d
  | gallery d _ => exact hgal d
  | reLocal d _ => exact hgal d
  | selBuf d _ => exact hgal d
  | counters d _ => exact hgal d
  | heapMem d o => exact (hgal d).heapFault hub hl d o

theorem getFaulty (a n fault : Nat) (hs : RegsKept P z s) : RegsKept P z (s.getFaulty a n fault).1 := by
  have h : RegsKept P z (s.getHere a n).1 := hs.accessEvents hub a n _
  unfold State.getFaulty
  generalize s.getHere a n = r at h
  obtain ⟨v, st, bs⟩ := r
  dsimp only at h ⊢
  split
  · exact h
  · split
    · exact h
    · next ar _ =>
      split
      · exact h
      · exact h.countCe hub ar
      · exact h.countUe hub hl ar a
      · split
        · split
          · exact h.countBusy hub _ _
          · exact h.countBusy hub _ _
        · exact h

end RegsKept

theorem State.issueSized_some {s v : State} {op node addr len : Nat} {data : List Byte} {who : Issuer} {st : Nat}
    (h : s.issueSized op node addr len data who = (v, some st)) : st ≠ 0 := by
  unfold State.issueSized at h
  split at h
  · obtain rfl := Option.some.inj (congrArg Prod.snd h)
    decide
  · split at h
    · obtain rfl := Option.some.inj (congrArg Prod.snd h)
      decide
    · exact nomatch (congrArg Prod.snd h)

/-- A read that ends DONE with nothing outstanding has met no other node: the hub's registers stay, but those of the log. -/
theorem State.readDevice_here {P : Nat → Prop} (hub : ∀ a, P a → a < 0x400000) (hl : ∀ a ∈ logRegs, ¬ P a) {ch : Nat}
    {ps : List (Nat × Nat × Nat)} {s v : State} {fault k : Nat} {got got' : List (Nat × List Byte)} {k' : Nat}
    (h : s.readDevice ch fault ps got k = (v, 0, got', k')) : k ≤ k' ∧ (k' = k → RegsKept P s v) := by
  induction ps generalizing s fault k got with
  | nil =>
    obtain ⟨rfl, -, -, rfl⟩ : s = v ∧ 0 = 0 ∧ got = got' ∧ k = k' := by simpa [State.readDevice] using h
    exact ⟨le_rfl, fun _ => RegsKept.refl s⟩
  | cons p ps ih =>
    obtain ⟨a, n, o⟩ := p
    rw [State.readDevice] at h
    split at h
    · have hr : RegsKept P s (if s.crossDown (ixFrom ch) (localOf a) n then (s, 6, []) else s.getFaulty (localOf a) n fault).1 := by
        split
        · exact RegsKept.refl s
        · exact (RegsKept.refl s).getFaulty hub hl _ _ _
      generalize (if s.crossDown (ixFrom ch) (localOf a) n then (s, 6, []) else s.getFaulty (localOf a) n fault) = r at h hr
      obtain ⟨w, st, bs⟩ := r
      dsimp only at h hr
      have hr' : RegsKept P s (w.when (decide (140 ≤ ch ∧ 4 ≤ fault)) fun s => s.event (rIhaulEvents (ixDie ch)) 1) :=
        RegsKept.when hr (RegsKept.event (RegsKept.notDie hub _ _) 1 hr)
      split at h
      · obtain ⟨h1, h2⟩ := ih h
        exact ⟨h1, fun e => hr'.trans (h2 e)⟩
      · next hst => exact absurd (congrArg (·.2.1) h) hst
    · split at h
      · obtain ⟨h1, -⟩ := ih h
        exact ⟨by omega, fun e => by omega⟩
      · next e => exact absurd (congrArg (·.2.1) h) (State.issueSized_some e)

end Sys2Proof.Machine

namespace Sys2Proof.Machine
open Sys2Proof

/-! ### DESCRIPTOR_COMPLETE (R80, R89, R359, R392, R395, R399) -/

/-- The data of a descriptor moved, once none of what it reads and writes here waits. -/
def State.moveData (s : State) (ch : Nat) (h : Chain) (x : Moved) : State :=
  if ch < 128 then s.takeData ch h x.data
  else if toHost ch h ∨ 140 ≤ ch then
    let r := s.readDevice ch x.fault (regionSpans (h.sources ch) 0) [] 0
    if r.2.1 ≠ 0 then r.1.endChain ch h r.2.1
    else if r.2.2.2 = 0 then r.1.moveOut ch h (joinPieces r.2.2.1)
    else r.1.setChain ch { h with step := .reading, got := r.2.2.1 }
  else s.moveOut ch h (padTo h.len x.data)

/-- The state in which a descriptor's data move: device time advanced, contested cycles counted. -/
def State.contended (s : State) (t : Nat) (ports : List (Die × Nat × List Nat)) : State := (s.advance t).contendAll ports

section Complete

variable {s v w : State} {ch : Nat} {h : Chain}

theorem exec_descriptorComplete {x : Moved} (hch : ch < 204) (hc : s.chainOf ch = some h) (hs : h.step = .moving) :
    exec (.descriptorComplete ch x) s = .next
      (s.when (!s.fenced ch && !(decide (ch < 128) && (s.world.streams.getD ch Stream.idle).full)) fun s =>
        (s.contended x.t x.ports).afterFront ((s.contended x.t x.ports).deviceHere ch h) fun s => s.moveData ch h x) := by
  have hn : isChannel ch = true := decide_eq_true hch
  show execDescriptorComplete ch x s = _
  unfold execDescriptorComplete
  rw [hn, hc]
  dsimp only
  rw [hs]
  rfl

theorem toHost_lt (h : toHost ch h = true) : 128 ≤ ch ∧ ch < 140 := by
  unfold toHost at h
  simp only [Bool.or_eq_true, Bool.and_eq_true, decide_eq_true_eq] at h
  omega

theorem State.moveData_in (s : State) (h : Chain) (x : Moved) (hch : ch < 128) : s.moveData ch h x = s.takeData ch h x.data := if_pos hch

theorem State.moveData_pv (s : State) (x : Moved) (hlo : 128 ≤ ch) (hch : ch < 140) (ht : toHost ch h = false) :
    s.moveData ch h x = s.moveOut ch h (padTo h.len x.data) := by
  unfold State.moveData
  rw [if_neg (by omega), if_neg (by rw [ht]; simp; omega)]

theorem State.moveData_read {x : Moved} {got : List (Nat × List Byte)} (hr : toHost ch h = true ∨ 140 ≤ ch)
    (he : s.readDevice ch x.fault (regionSpans (h.sources ch) 0) [] 0 = (v, 0, got, 0)) :
    s.moveData ch h x = v.moveOut ch h (joinPieces got) := by
  have hlo : ¬ch < 128 := by
    rcases hr with hr | hr
    · have := toHost_lt hr
      omega
    · omega
  unfold State.moveData
  rw [if_neg hlo, if_pos hr, he]
  rfl

/-! ### The descriptor's data for host memory (R371, R399) -/

/-- The state that a descriptor's data for host memory leaves. -/
theorem State.moveOut_host (s : State) (stream : List Byte) (ht : toHost ch h = true) : ∃ last, s.moveOut ch h stream =
    ((s.writeHost (reshuffle h stream) (h.regions h.dst)).emit (.hostRead last 4)).setChain ch
      { h with bytes := h.len, step := .flush, last := last } ∧
    (h.ctrl 0 0 = 0 → 0 < h.len → last = h.dst + h.len - 4) := by
  refine ⟨_, if_pos ht, fun hc hl => ?_⟩
  have hreg : h.regions h.dst = [(h.dst, h.len)] := if_neg (by rw [hc]; decide)
  rw [hreg, List.filter_cons_of_pos (by simpa using Nat.ne_of_gt hl)]
  rfl

theorem State.sendHost_out (s : State) (a : Nat) (bs : List Byte) : (s.sendHost a bs).out = s.out ++
    (spansOf s.payloadLimit a bs.length).map fun p => .hostWrite p.1 ((bs.drop (p.1 - a)).take p.2) s.relaxed := by
  unfold State.sendHost
  generalize spansOf s.payloadLimit a bs.length = l
  induction l generalizing s with
  | nil => exact (List.append_nil _).symm
  | cons p l ih =>
    refine (ih (s.emit (.hostWrite p.1 ((bs.drop (p.1 - a)).take p.2) s.relaxed))).trans ?_
    show (s.out ++ [_]) ++ _ = _
    rw [List.append_assoc]
    rfl

theorem State.writeHost_frame (s : State) (bs : List Byte) (rs : List (Nat × Nat)) : Framed [.out] s (s.writeHost bs rs) :=
  State.writeHost_framed (List.Subset.refl _) (Framed.refl s)

/-! ### The descriptor's data for the device (R392) -/

theorem State.moveOut_done {stream : List Byte} (ht : toHost ch h = false)
    (he : s.writeDevice ch (reshuffle h stream) h.outPieces 0 = (v, 0, 0)) :
    s.moveOut ch h stream = v.finishDesc ch { h with bytes := h.len } := by
  unfold State.moveOut
  dsimp only
  rw [ht, if_neg (by decide), he]
  rfl

theorem State.moveOut_outside (s : State) {stream : List Byte} (ht : toHost ch h = false) {x : Nat}
    (hx : ∀ i, i < h.outLen → localOf (h.dst + i) ≠ x) : memByte (s.moveOut ch h stream).mem x = memByte s.mem x := by
  have hout := s.writeDevice_outside ch (reshuffle h stream) (ps := h.outPieces) 0 (x := x) fun p hp i hi e => by
    obtain ⟨hq, -⟩ := mem_outPieces hp
    obtain ⟨h1, h2, h3⟩ := mem_pageSpans hq
    dsimp only at h1 h2 h3
    refine hx (p.1 - h.dst + i) (by omega) ?_
    rw [← e, ← localOf_add h3 hi]
    congr 1
    omega
  unfold State.moveOut
  dsimp only
  rw [ht, if_neg (by decide)]
  generalize s.writeDevice ch (reshuffle h stream) h.outPieces 0 = r at hout
  obtain ⟨v, st, k⟩ := r
  refine Eq.trans ?_ hout
  dsimp only
  split
  · exact congrArg (memByte · x) (State.endChain_framed (List.Subset.refl _) (Framed.refl v) .mem (by decide))
  · split
    · exact congrArg (memByte · x) (State.finishDesc_framed (List.Subset.refl _) (Framed.refl v) .mem (by decide))
    · exact congrArg (memByte · x) (v.setChain_mem ..)

theorem State.readDevice_frame (s : State) (ch fault : Nat) (ps : List (Nat × Nat × Nat)) (got : List (Nat × List Byte)) (k : Nat) :
    Framed [.regs, .plan, .dies, .host, .kl, .tally, .out] s (s.readDevice ch fault ps got k).1 :=
  State.readDevice_framed (List.Subset.refl _) (Framed.refl s)

theorem State.readDevice_mem (s : State) (ch fault : Nat) (ps : List (Nat × Nat × Nat)) (got : List (Nat × List Byte)) (k : Nat) :
    (s.readDevice ch fault ps got k).1.mem = s.mem := s.readDevice_frame ch fault ps got k .mem (by decide)

/-- Data for host memory and for the World block change no memory here. -/
theorem State.moveData_mem (s : State) (x : Moved) (hk : ch < 128 ∨ toHost ch h = true) : (s.moveData ch h x).mem = s.mem := by
  rcases hk with hk | hk
  · rw [s.moveData_in h x hk]
    exact State.takeData_framed (List.Subset.refl _) (Framed.refl s) .mem (by decide)
  · have hr := s.readDevice_mem ch x.fault (regionSpans (h.sources ch) 0) [] 0
    unfold State.moveData
    rw [if_neg (by have := toHost_lt hk; omega), if_pos (Or.inl hk)]
    generalize s.readDevice ch x.fault (regionSpans (h.sources ch) 0) [] 0 = r at hr
    dsimp only
    refine Eq.trans ?_ hr
    split
    · exact State.endChain_framed (List.Subset.refl _) (Framed.refl r.1) .mem (by decide)
    · split
      · obtain ⟨last, e, -⟩ := r.1.moveOut_host (joinPieces r.2.2.1) hk
        rw [e, State.setChain_mem]
        exact r.1.writeHost_frame _ _ .mem (by decide)
      · exact r.1.setChain_mem ..

/-- Data for the device changes no byte outside DST. -/
theorem State.moveData_outside (s : State) (x : Moved) (hlo : 128 ≤ ch) (ht : toHost ch h = false) {a : Nat}
    (ha : ∀ i, i < h.outLen → localOf (h.dst + i) ≠ a) : memByte (s.moveData ch h x).mem a = memByte s.mem a := by
  by_cases hch : ch < 140
  · rw [s.moveData_pv x hlo hch ht]
    exact s.moveOut_outside ht ha
  · have hr := s.readDevice_mem ch x.fault (regionSpans (h.sources ch) 0) [] 0
    unfold State.moveData
    rw [if_neg (by omega), if_pos (Or.inr (by omega))]
    generalize s.readDevice ch x.fault (regionSpans (h.sources ch) 0) [] 0 = r at hr
    dsimp only
    refine Eq.trans ?_ (congrArg (memByte · a) hr)
    split
    · exact congrArg (memByte · a) (State.endChain_framed (List.Subset.refl _) (Framed.refl r.1) .mem (by decide))
    · split
      · exact r.1.moveOut_outside ht ha
      · exact congrArg (memByte · a) (r.1.setChain_mem ..)

/-- The pieces of DST written in the DRAM of this device, and the descriptor finished. -/
theorem State.moveOut_written (s : State) {stream : List Byte} (ht : toHost ch h = false) (hlen : (reshuffle h stream).length = h.outLen)
    (hdst : localOf h.dst + h.outLen ≤ 0x1000000000)
    (hp : ∀ p ∈ pageSpans h.dst h.outLen, nodeOf p.1 = s.node ∧ s.crossDown (ixFrom ch) (localOf p.1) p.2 = false ∧
      s.writeStatus (localOf p.1) p.2 = 0) :
    ∃ u, s.moveOut ch h stream = u.finishDesc ch { h with bytes := h.len } ∧
      PiecesWritten s u (localOf h.dst) (reshuffle h stream) h.outPieces ∧
      ∀ i, i < h.outLen → memByte u.mem (localOf h.dst + i) = (reshuffle h stream).getD i 0 := by
  have hoff : ∀ q ∈ pageSpans h.dst h.outLen, localOf q.1 = localOf h.dst + (q.1 - h.dst) := fun q hq => by
    obtain ⟨h1, h2, -⟩ := mem_pageSpans hq
    unfold localOf at hdst ⊢
    omega
  obtain ⟨u, e, hu⟩ := s.writeDevice_written (ch := ch) (base := localOf h.dst) (bs := reshuffle h stream) (ps := h.outPieces) 0 fun p hp' => by
    obtain ⟨hq, ho⟩ := mem_outPieces hp'
    obtain ⟨h1, h2, -⟩ := mem_pageSpans hq
    obtain ⟨k1, k2, k3⟩ := hp _ hq
    have k4 := hoff _ hq
    dsimp only at h1 h2 k4
    exact ⟨k1, k2, k3, by omega, by omega, by rw [ho]; exact k4⟩
  refine ⟨u, State.moveOut_done ht e, hu, fun i hi => ?_⟩
  obtain ⟨q, hq, hqi⟩ := pageSpans_cover (a := h.dst) hi
  have k4 := hoff q hq
  obtain ⟨h1, -, -⟩ := mem_pageSpans hq
  refine (hu.bytes (localOf h.dst + i) ⟨_, outPieces_of_mem hq, ?_⟩).trans ?_
  · dsimp only
    omega
  · rw [Nat.add_sub_cancel_left]

end Complete

end Sys2Proof.Machine

namespace Sys2Proof.Machine
open Sys2Proof

/-! ### The descriptor finished (R399, R405) -/

section Finish

variable {s v w : State} {ch : Nat} {h : Chain}

theorem State.finishDesc_frame (s : State) (ch : Nat) (h : Chain) :
    Framed [.regs, .world, .dies, .chans, .host, .kl, .out] s (s.finishDesc ch h) :=
  State.finishDesc_framed (List.Subset.refl _) (Framed.refl s)

/-- The last descriptor of a host-side chain, finished in a state with the channel and the rings of `s`. -/
theorem State.finishDesc_ends (hch : ch < 140) (he : h.isEnd = true) (hc : v.chans = s.chans)
    (hr : RegsKept (fun o => o = rHaulChCringHead ch ∨ o = rHaulChCringTail ch ∨ o = rHaulChCringSize ch) s v)
    (hroom : s.cringRoom ch = true) (hstop : (s.chan ch).stopping = false) (hpause : (s.chan ch).pausing = false) :
    ChainEnded s (v.finishDesc ch h) ch 0 := by
  have hv := State.chan_of_chans hc ch
  have hroom' : v.cringRoom ch = true := by
    unfold State.cringRoom State.cringSize at hroom ⊢
    rw [hr _ (Or.inl rfl), hr _ (Or.inr (Or.inl rfl)), hr _ (Or.inr (Or.inr rfl))]
    exact hroom
  rw [State.finishDesc_last hch (by rw [hv]; exact hstop) he]
  have d := State.writeRecords_ends (s := v) h.totalled 0 (0, 1) hch (by rw [hv]; exact hpause) hroom'
  exact ⟨d.ended.idle, d.ended.status, d.ended.record.trans (by rw [hr _ (Or.inl rfl)]), d.ended.free⟩

theorem State.finishDesc_internal (s : State) (hch : 140 ≤ ch) (he : h.isEnd = true) : InternalEnded (s.finishDesc ch h) ch 0 := by
  have e : s.finishDesc ch h = s.dropChain ch h.totalled 0 := (if_pos hch).trans (if_pos (show h.totalled.isEnd = true from he))
  rw [e]
  exact (s.dropChain_internal h.totalled hch (by decide)).1

/-- The items that have arrived at a stream, the same in two states. -/
def InboxKept (ch : Nat) (z s : State) : Prop :=
  (s.world.streams.getD ch Stream.idle).inbox = (z.world.streams.getD ch Stream.idle).inbox

theorem InboxKept.of_world (h : v.world = s.world) : InboxKept ch s v := by
  unfold InboxKept
  rw [h]

theorem State.dropChain_inbox (s : State) (h : Chain) (st : Nat) (hch : ch < 140) : InboxKept ch s (s.dropChain ch h st) := by
  unfold State.dropChain
  extract_lets pend bad s0 s1 s2 s3 s4 _ _ _ t1 t2 t3
  rw [if_pos hch]
  have h0 : s0.world = s.world := State.dropOps_framed (ps := [.kl, .out]) (List.Subset.refl _) (Framed.refl s) .world (by decide)
  have h3 : InboxKept ch s0 s3 := by
    show InboxKept ch s2 (s2.when _ _)
    unfold State.when
    split
    · exact (congrArg Stream.inbox (State.mapStream_stream ..)).trans rfl
    · rfl
  have h4 : (s4.when pend fun s => s.reachPause ch 0 0).world = s3.world :=
    State.when_framed (ps := [.regs, .chans, .host, .out])
      (State.when_framed (Framed.refl s3) fun _ k => State.event_framed (by decide) (State.setReg_framed (by decide) (State.event_framed (by decide) k)))
      (fun _ k => State.reachPause_framed (List.Subset.refl _) k) .world (by decide)
  exact (InboxKept.of_world h4).trans (h3.trans (InboxKept.of_world h0))

theorem State.afterRecords_inbox (s : State) (h : Chain) (last : Nat × Nat) (hch : ch < 140) : InboxKept ch s (s.afterRecords ch h last) := by
  unfold State.afterRecords
  split
  · exact s.dropChain_inbox h _ hch
  · extract_lets on u
    have hu : u.world = s.world := State.setChain_framed (List.Subset.refl _) (Framed.refl s) .world (by decide)
    split
    · exact InboxKept.of_world hu
    · refine InboxKept.of_world (Eq.trans ?_ hu)
      exact State.when_framed (ps := [.out]) (Framed.refl u) (fun _ k => State.emit_framed (List.Subset.refl _) k) .world (by decide)

theorem State.writeRecords_inbox (s : State) (h : Chain) (last : Nat × Nat) (rs : List (Nat × Nat)) (hch : ch < 140) :
    InboxKept ch s (s.writeRecords ch h last rs) := by
  induction rs generalizing s last with
  | nil => exact s.afterRecords_inbox h last hch
  | cons r rs ih =>
    unfold State.writeRecords
    split
    · refine (ih _ r).trans (InboxKept.of_world ?_)
      exact State.putRecord_framed (List.Subset.refl _) (Framed.refl s) .world (by decide)
    · refine InboxKept.of_world ?_
      exact State.setChain_framed (ps := [.dies, .chans]) (List.Subset.refl _) (Framed.refl s) .world (by decide)

theorem State.finishDesc_inbox (s : State) (h : Chain) (hch : ch < 140) : InboxKept ch s (s.finishDesc ch h) := by
  unfold State.finishDesc
  extract_lets h' c irq own
  rw [if_neg (Nat.not_le.mpr hch)]
  split_ifs
  · exact s.writeRecords_inbox h' _ _ hch
  · exact s.writeRecords_inbox h' _ _ hch
  · exact s.writeRecords_inbox h' _ _ hch
  · exact s.writeRecords_inbox h' _ _ hch

theorem State.takeData_room {data : List Byte} {its : List (Nat × Nat × List Byte)} {part : List Byte}
    (hn : s.newItems ch s.now (padTo h.len data) = (its, part)) (hr : s.roomFor ch its = true) :
    s.takeData ch h data = (s.mapStream ch fun w => { w with inbox := w.inbox ++ its, part := part }).finishDesc ch { h with bytes := h.len } := by
  unfold State.takeData
  rw [hn]
  exact if_pos hr

theorem State.takeData_full {data : List Byte} {its : List (Nat × Nat × List Byte)} {part : List Byte}
    (hn : s.newItems ch s.now (padTo h.len data) = (its, part)) (hr : s.roomFor ch its = false) :
    s.takeData ch h data = (s.event rWorldEvents 5).mapStream ch fun w => { w with full := true } := by
  unfold State.takeData
  rw [hn]
  exact if_neg (by rw [hr]; decide)

/-! ### One page written wherever it lies (R392) -/

theorem State.store_sliceOv_congr (hm : v.mem = s.mem) (h0 : v.d0.sliceOv = s.d0.sliceOv ∧ v.d1.sliceOv = s.d1.sliceOv) (a : Nat)
    (data : List Byte) :
    (v.store a data).d0.sliceOv = (s.store a data).d0.sliceOv ∧ (v.store a data).d1.sliceOv = (s.store a data).d1.sliceOv := by
  unfold State.store
  split
  · next d _ _ =>
    unfold State.writeSlice
    cases d
    · refine ⟨?_, h0.2⟩
      show _ ++ _ ++ _ = _ ++ _ ++ _
      rw [hm, show (v.die .s0).sliceOv = (s.die .s0).sliceOv from h0.1]
    · refine ⟨h0.1, ?_⟩
      show _ ++ _ ++ _ = _ ++ _ ++ _
      rw [hm, show (v.die .s1).sliceOv = (s.die .s1).sliceOv from h0.2]
  · exact h0

theorem padTo_of_le {n : Nat} {bs : List Byte} (h : n ≤ bs.length) : padTo n bs = bs.take n := by
  unfold padTo
  rw [List.take_append_of_le_length h]

end Finish

/-! ### DESCRIPTOR_COMPLETE by what the descriptor moves -/

section Moves

variable {s : State} {ch t fault : Nat} {data : List Byte} {ports : List (Die × Nat × List Nat)} {h : Chain}

theorem State.contended_alike (s : State) (t : Nat) (ports : List (Die × Nat × List Nat)) : AccessAlike s (s.contended t ports) :=
  (AccessAlike.advance s t).trans (AccessAlike.contendAll _ ports)

theorem State.contended_frame (s : State) (t : Nat) (ports : List (Die × Nat × List Nat)) : Framed [.now, .regs, .dies] s (s.contended t ports) :=
  (State.advance_framed (ps := [.now, .regs, .dies]) (by decide) (Framed.refl s)).trans (((s.advance t).contendAll_frame ports).mono (by decide))

/-- Contested cycles leave the hub's registers. -/
theorem State.contended_regs (s : State) (t : Nat) (ports : List (Die × Nat × List Nat)) :
    RegsKept (· < 0x400000) s (s.contended t ports) :=
  ((RegsKept.refl s).advance t).contendAll (fun d => by cases d <;> decide) (fun d => by cases d <;> decide) ports

theorem cring_hub (hch : ch < 140) {o : Nat} (h : o = rHaulChCringHead ch ∨ o = rHaulChCringTail ch ∨ o = rHaulChCringSize ch) :
    o < 0x400000 := by
  unfold rHaulChCringHead rHaulChCringTail rHaulChCringSize at h
  omega

/-- Nothing holds a descriptor that moves data: no FENCE, no full stream. -/
def State.unheld (s : State) (ch : Nat) : Prop :=
  s.fenced ch = false ∧ (ch < 128 → (s.world.streams.getD ch Stream.idle).full = false)

theorem exec_descriptorComplete_held {x : Moved} (hch : ch < 204) (hc : s.chainOf ch = some h) (hs : h.step = .moving)
    (hno : s.fenced ch = true ∨ (ch < 128 ∧ (s.world.streams.getD ch Stream.idle).full = true)) :
    exec (.descriptorComplete ch x) s = .next s := by
  have hcond : (!s.fenced ch && !(decide (ch < 128) && (s.world.streams.getD ch Stream.idle).full)) = false := by
    rcases hno with hno | ⟨hlt, hfull⟩
    · rw [hno]
      rfl
    · rw [decide_eq_true hlt, hfull]
      exact Bool.and_false _
  rw [exec_descriptorComplete hch hc hs, hcond, State.when_false]

theorem exec_descriptorComplete_unheld {x : Moved} (hch : ch < 204) (hc : s.chainOf ch = some h) (hs : h.step = .moving)
    (hu : s.unheld ch) : exec (.descriptorComplete ch x) s = .next (if s.stalled (s.deviceHere ch h) = [] then
      (s.contended x.t x.ports).moveData ch h x else (s.contended x.t x.ports).noteStalls (s.stalled (s.deviceHere ch h))) := by
  have hcond : (!s.fenced ch && !(decide (ch < 128) && (s.world.streams.getD ch Stream.idle).full)) = true := by
    rw [hu.1]
    by_cases hlt : ch < 128
    · rw [hu.2 hlt, Bool.and_false]
      rfl
    · rw [decide_eq_false hlt]
      rfl
  have halike := s.contended_alike x.t x.ports
  rw [exec_descriptorComplete hch hc hs, hcond, State.when_true, State.afterFront, halike.deviceHere, halike.stalled]

/-- Ingest data: the items arrive where staging has room for them, else the stream is full (R80, R89). -/
theorem State.moveData_items {u : State} {its : List (Nat × Nat × List Byte)} {part : List Byte} (hch : ch < 128)
    (hu : (s.contended t ports).moveData ch h ⟨t, data, fault, ports⟩ = u)
    (hn : (s.advance t).newItems ch (s.advance t).now (padTo h.len data) = (its, part)) :
    ((s.advance t).roomFor ch its = true →
      (u.world.streams.getD ch Stream.idle).inbox = (s.world.streams.getD ch Stream.idle).inbox ++ its ∧
        (h.isEnd = true → s.cringRoom ch = true → (s.chan ch).stopping = false → (s.chan ch).pausing = false → ChainEnded s u ch 0)) ∧
    ((s.advance t).roomFor ch its = false →
      (u.world.streams.getD ch Stream.idle).inbox = (s.world.streams.getD ch Stream.idle).inbox ∧
        (u.world.streams.getD ch Stream.idle).full = true ∧ u.chan ch = s.chan ch ∧ (u.reg rWorldEvents).getLsbD 5 = true) := by
  rw [← hu, State.moveData_in _ h _ hch]
  clear hu
  have halike : JudgesAlike (s.advance t) (s.contended t ports) := JudgesAlike.contendAll _ _
  have hframe := s.contended_frame t ports
  have hregs := s.contended_regs t ports
  have hnow : (s.contended t ports).now = (s.advance t).now := (s.advance t).contendAll_frame ports .now (by decide)
  have hworld : (s.contended t ports).world = (s.advance t).world := (s.advance t).contendAll_frame ports .world (by decide)
  have hroom := State.roomFor_congr halike hworld ch its
  generalize s.contended t ports = w at *
  have hn' : w.newItems ch w.now (padTo h.len data) = (its, part) := by rw [State.newItems_congr halike hworld, hnow, hn]
  have hw : w.world = s.world := hframe .world (by decide)
  have hstream : w.world.streams.getD ch Stream.idle = s.world.streams.getD ch Stream.idle := by rw [hw]
  refine ⟨fun hr => ?_, fun hr => ?_⟩
  · rw [State.takeData_room hn' (hroom.trans hr)]
    refine ⟨(State.finishDesc_inbox _ _ (by omega)).trans ?_, fun he hring hstop hpause =>
      State.finishDesc_ends (by omega) he (hframe .chans (by decide)) (fun o ho => hregs o (cring_hub (by omega) ho)) hring hstop hpause⟩
    rw [State.mapStream_stream, hstream]
  · rw [State.takeData_full hn' (hroom.trans hr)]
    have hm := State.mapStream_stream_of (s := w.event rWorldEvents 5) (fun c => { c with full := true }) hstream
    exact ⟨(congrArg Stream.inbox hm :), (congrArg Stream.full hm :), State.chan_of_chans (hframe .chans (by decide)) ch,
      State.event_bit w _ (by decide)⟩

/-- Data for host memory: the writes, and the flush read behind them (R371, R399). -/
theorem State.moveData_host {u v w : State} {x : Moved} {got : List (Nat × List Byte)} (ht : toHost ch h = true)
    (hu : w.moveData ch h x = u) (he : w.readDevice ch x.fault (regionSpans (h.sources ch) 0) [] 0 = (v, 0, got, 0)) :
    (∃ last, (u.chan ch).chain = some { h with bytes := h.len, step := .flush, last := last } ∧
      u.out = (v.writeHost (reshuffle h (joinPieces got)) (h.regions h.dst)).out ++ [.hostRead last 4]) ∧
    (h.ctrl 0 0 = 0 → 0 < h.len → u.out = v.out ++
      ((spansOf v.payloadLimit h.dst ((reshuffle h (joinPieces got)).take h.len).length).map fun p =>
        .hostWrite p.1 ((((reshuffle h (joinPieces got)).take h.len).drop (p.1 - h.dst)).take p.2) v.relaxed) ++
      [.hostRead (h.dst + h.len - 4) 4]) := by
  have hch := toHost_lt ht
  obtain ⟨last, e, hlast⟩ := v.moveOut_host (joinPieces got) ht
  rw [State.moveData_read (Or.inl ht) he, e] at hu
  have hout : u.out = (v.writeHost (reshuffle h (joinPieces got)) (h.regions h.dst)).out ++ [.hostRead last 4] := by
    rw [← hu, State.setChain_host _ _ hch.2]
    rfl
  refine ⟨⟨last, ?_, hout⟩, fun hc hl => ?_⟩
  · rw [← hu, State.setChain_chan _ _ hch.2]
  · have hreg : h.regions h.dst = [(h.dst, h.len)] := if_neg (by rw [hc]; decide)
    rw [hout, hlast hc hl, hreg]
    exact congrArg (· ++ _) (v.sendHost_out h.dst ((reshuffle h (joinPieces got)).take h.len))

/-- Data for the DRAM of this device: every byte of DST, and the chain's end with its last descriptor (R392, R399). -/
theorem State.moveData_device {u v : State} {stream : List Byte} (hlo : 128 ≤ ch) (ht : toHost ch h = false)
    (hu : (s.contended t ports).moveData ch h ⟨t, data, fault, ports⟩ = u)
    (hhost : ch < 140 → v = s.contended t ports ∧ stream = padTo h.len data)
    (hint : 140 ≤ ch → ∃ got, (s.contended t ports).readDevice ch fault (regionSpans (h.sources ch) 0) [] 0 = (v, 0, got, 0) ∧
      stream = joinPieces got)
    (hlen : (reshuffle h stream).length = h.outLen) (hdst : localOf h.dst + h.outLen ≤ 0x1000000000)
    (hp : ∀ p ∈ pageSpans h.dst h.outLen, nodeOf p.1 = s.node ∧ v.crossDown (ixFrom ch) (localOf p.1) p.2 = false ∧
      v.writeStatus (localOf p.1) p.2 = 0) :
    (∀ i, i < h.outLen → memByte u.mem (localOf h.dst + i) = (reshuffle h stream).getD i 0) ∧
    (h.isEnd = true → 140 ≤ ch → InternalEnded u ch 0) ∧
    (h.isEnd = true → ch < 140 → s.cringRoom ch = true → (s.chan ch).stopping = false → (s.chan ch).pausing = false →
      ChainEnded s u ch 0) := by
  have hwnode : (s.contended t ports).node = s.node := (s.contended_alike t ports).node
  have hmove : (s.contended t ports).moveData ch h ⟨t, data, fault, ports⟩ = v.moveOut ch h stream ∧ v.node = s.node := by
    by_cases hch : ch < 140
    · obtain ⟨rfl, rfl⟩ := hhost hch
      exact ⟨State.moveData_pv _ _ hlo hch ht, hwnode⟩
    · obtain ⟨got, e, rfl⟩ := hint (by omega)
      have hr := (State.readDevice_here (P := (· = rKlinkCoord)) (by rintro _ rfl; decide) (by rintro _ ho rfl; revert ho; decide) e).2 rfl
      have hf : Framed [.regs, .plan, .dies, .host, .kl, .tally, .out] (s.contended t ports) v := by
        have k := (s.contended t ports).readDevice_frame ch fault (regionSpans (h.sources ch) 0) [] 0
        rw [e] at k
        exact k
      refine ⟨State.moveData_read (Or.inr (by omega)) e, Eq.trans ?_ hwnode⟩
      unfold State.node
      rw [hf .image (by decide), hr _ rfl]
  obtain ⟨hmove, hnode⟩ := hmove
  obtain ⟨z, e, hz, hbytes⟩ := v.moveOut_written ht hlen hdst fun p hq => by
    obtain ⟨h1, h2⟩ := hp p hq
    exact ⟨h1.trans hnode.symm, h2⟩
  rw [← hu, hmove, e]
  refine ⟨fun i hi => ?_, fun he hch => State.finishDesc_internal z hch he, fun he hch hring hstop hpause => ?_⟩
  · rw [z.finishDesc_frame ch _ .mem (by decide)]
    exact hbytes i hi
  · obtain ⟨rfl, -⟩ := hhost hch
    refine State.finishDesc_ends hch he ((hz.frame .chans (by decide)).trans (s.contended_frame t ports .chans (by decide))) (fun o ho => ?_)
      hring hstop hpause
    have hlt := cring_hub hch ho
    refine (hz.regs o fun d k => ?_).trans (s.contended_regs t ports o hlt)
    have := d.base_ge
    unfold rDmcEvents at k
    omega

/-- Data of one page, wherever in the local map it lies (R392). -/
theorem State.moveData_page {u : State} (hlo : 136 ≤ ch) (hch : ch < 140) (ht : toHost ch h = false)
    (hu : (s.contended t ports).moveData ch h ⟨t, data, fault, ports⟩ = u) (hc : h.ctrl 3 2 = 0) (h0 : 0 < h.len)
    (hl : h.len ≤ data.length) (hpage : h.dst / 4096 = (h.dst + h.len - 1) / 4096) (hn : nodeOf h.dst = s.node)
    (hcross : s.crossDown none (localOf h.dst) h.len = false) (hw : s.writeStatus (localOf h.dst) h.len = 0)
    (he : h.isEnd = true) (hring : s.cringRoom ch = true) (hstop : (s.chan ch).stopping = false) (hpause : (s.chan ch).pausing = false) :
    ChainEnded s u ch 0 ∧ u.mem = (s.store (localOf h.dst) (data.take h.len)).mem ∧
      u.d0.sliceOv = (s.store (localOf h.dst) (data.take h.len)).d0.sliceOv ∧
      u.d1.sliceOv = (s.store (localOf h.dst) (data.take h.len)).d1.sliceOv := by
  have halike := s.contended_alike t ports
  have hframe := s.contended_frame t ports
  have hregs := s.contended_regs t ports
  have hstores : RegsKept (· ∈ storeRegs) s (s.contended t ports) :=
    ((RegsKept.refl s).advance t).contendAll (fun d => by cases d <;> decide) (fun d => by cases d <;> decide) ports
  rw [← hu, State.moveData_pv _ _ (by omega) hch ht]
  clear hu
  generalize s.contended t ports = w at *
  have hout : h.outLen = h.len := if_neg (by rw [hc]; decide)
  have hpieces : h.outPieces = [(h.dst, h.len, 0)] := by
    unfold Chain.outPieces regionSpans regionSpans
    rw [hout, pageSpans_one h0 hpage]
    simp
  have hdata : reshuffle h (padTo h.len data) = data.take h.len := by
    unfold reshuffle
    rw [hc, padTo_of_le hl]
    rfl
  have hlen : (data.take h.len).length = h.len := by rw [List.length_take]; omega
  have hfrom : ixFrom ch = none := if_pos hch
  have hput := State.putAcross_done (s := w) (ch := ch) (a := h.dst) hlen (by rw [hfrom, halike.crossDown]; exact hcross)
    ((halike.writeStatus ..).trans hw)
  have hf := w.writeEvents_frame (localOf h.dst) h.len 0
  have hr := w.writeEvents_regs (localOf h.dst) h.len
  have hwrite : w.writeDevice ch (reshuffle h (padTo h.len data)) h.outPieces 0 =
      ((w.writeEvents (localOf h.dst) h.len 0).store (localOf h.dst) (data.take h.len), 0, 0) := by
    rw [hpieces, hdata, State.writeDevice_here 0 (hn.trans halike.node.symm), List.drop_zero, List.take_of_length_le hlen.le, hput]
    rfl
  rw [State.moveOut_done ht hwrite]
  generalize w.writeEvents (localOf h.dst) h.len 0 = v at hf hr ⊢
  have hvf : Framed [.now, .regs, .dies] s v := hframe.trans (hf.mono (by decide))
  have hvr : RegsKept (· ∈ storeRegs) s v := fun o ho => (hr o fun d k => by subst k; revert ho; cases d <;> decide).trans (hstores o ho)
  have hsame : StoresAlike s v := ⟨hvf .mem (by decide), hvf .sec (by decide), hvr⟩
  have hslices := State.store_sliceOv_congr (hvf .mem (by decide)) (hvf .slices (by decide)) (localOf h.dst) (data.take h.len)
  have hmem := (hsame.store (localOf h.dst) (data.take h.len)).mem
  have hst : Framed [.mem, .slices] v (v.store (localOf h.dst) (data.take h.len)) := State.store_framed (List.Subset.refl _) (Framed.refl v)
  generalize v.store (localOf h.dst) (data.take h.len) = u at hst hslices hmem
  have hfin := u.finishDesc_frame ch { h with bytes := h.len }
  obtain ⟨k0, k1⟩ := hfin .slices (by decide)
  refine ⟨State.finishDesc_ends hch he ((hst .chans (by decide)).trans (hvf .chans (by decide))) (fun o ho => ?_) hring hstop hpause,
    (hfin .mem (by decide)).trans hmem, k0.trans hslices.1, k1.trans hslices.2⟩
  have hlt := cring_hub hch ho
  refine (State.reg_of_regs (hst .regs (by decide)) o).trans ((hr o fun d k => ?_).trans (hregs o hlt))
  have := d.base_ge
  unfold rDmcEvents at k
  omega

end Moves

/-- DESCRIPTOR_COMPLETE by what holds the descriptor, and by where its data go. -/
theorem descriptorMovesItsData : Statements.DescriptorMovesItsData := by
  intro s w ch t fault data ports h hc hs hch hw
  obtain rfl : w = s.contended t ports := hw
  refine ⟨exec_descriptorComplete_held hch hc hs, fun h1 h2 h3 => ?_, fun h1 h2 h3 => ?_⟩
  · rw [exec_descriptorComplete_unheld hch hc hs ⟨h1, h2⟩, if_neg h3]
  · have hexec := exec_descriptorComplete_unheld (x := ⟨t, data, fault, ports⟩) hch hc hs ⟨h1, h2⟩
    rw [if_pos h3] at hexec
    have hframe : OutFramed [.now, .regs, .mem, .slices, .plan, .world, .dies, .chans, .host, .kl, .tally, .out] s
        (exec (.descriptorComplete ch ⟨t, data, fault, ports⟩) s) :=
      execDescriptorComplete_framed (List.Subset.refl _) (Framed.refl s)
    rw [hexec] at hframe
    have hwmem : (s.contended t ports).mem = s.mem := s.contended_frame t ports .mem (by decide)
    refine ⟨_, hexec, ?_, ?_, fun hk => ?_, fun hlo ht x hx => ?_, fun its part hlt hn => State.moveData_items hlt rfl hn,
      fun v got ht he => State.moveData_host ht rfl he,
      fun v stream hlo ht hhost hint hlen hdst hp => State.moveData_device hlo ht rfl hhost hint hlen hdst hp,
      fun hlo hlt ht he hring hstop hpause hctrl h0 hl hpage hn hcross hw =>
        State.moveData_page hlo hlt ht rfl hctrl h0 hl hpage hn hcross hw he hring hstop hpause⟩
    · exact hframe _ rfl .dev (by decide)
    · exact hframe _ rfl .tick (by decide)
    · exact (State.moveData_mem _ _ hk).trans hwmem
    · exact (State.moveData_outside _ _ hlo ht hx).trans (congrArg (memByte · x) hwmem)

/-- Settles O45: a descriptor starts by its checks and by the link; it completes by what holds it, and leaves its data by pieces. -/
theorem descriptorsRun : Obligations.DescriptorsRun := ⟨descriptorIsCheckedAndStarts, descriptorMovesItsData⟩

end Sys2Proof.Machine

namespace Sys2Proof.Machine
open Sys2Proof

/-! ### Roles of a die's collision engines changed (R196 to R198) -/

/-- A die but for the roles of its collision engines and its world-slice bytes. -/
def DieState.besideRoles (x : DieState) : DieState := { x with ces := [], sliceOv := [] }

/-- The die `y` differs from `x` in the roles of its collision engines and its world-slice bytes at most. -/
def RolesOnly (x y : DieState) : Prop := y.besideRoles = x.besideRoles

namespace RolesOnly
variable {x y w : DieState}

theorem refl (x : DieState) : RolesOnly x x := rfl

theorem trans (h : RolesOnly x y) (k : RolesOnly y w) : RolesOnly x w := Eq.trans k h

theorem mapCe (h : RolesOnly x y) (p : Nat) (f : CeUnit → CeUnit) : RolesOnly x (y.mapCe p f) := h

theorem foldl {α : Type} {f : DieState → α → DieState} (hf : ∀ x a, RolesOnly x (f x a)) (l : List α) (x : DieState) :
    RolesOnly x (l.foldl f x) :=
  List.foldlRecOn l f (refl x) fun y h a _ => h.trans (hf y a)

theorem applyPool (x : DieState) : RolesOnly x x.applyPool :=
  foldl (fun y l => by
    unfold fillIndex
    split
    · exact refl y
    · split
      · exact (refl y).mapCe _ _
      · exact refl y) _ _

theorem retireCes (x : DieState) (gone : List Nat) : RolesOnly x (x.retireCes gone) :=
  foldl (fun y p => (refl y).mapCe p _) _ _

theorem giveAll (x : DieState) (free : List Nat) : RolesOnly x (x.giveAll free) :=
  foldl (fun y l => by
    unfold DieState.giveIndex
    split
    · exact (refl y).mapCe _ _
    · exact refl y) _ _

theorem changeCes (x : DieState) (gone : List Nat) (due : Bool) : RolesOnly x (x.changeCes gone due) := by
  unfold DieState.changeCes
  extract_lets y free
  have hy : RolesOnly x y := retireCes x gone
  clear_value y
  split
  · exact hy.trans (giveAll _ _)
  · split
    · exact hy.trans (giveAll _ _)
    · extract_lets v
      have hv : RolesOnly x v := by
        show RolesOnly x (if _ then _ else _)
        split
        · exact hy
        · exact hy.mapCe _ _
      clear_value v
      split
      · exact hv.trans (giveAll _ _)
      · exact (hv.mapCe _ _).trans (giveAll _ _)

end RolesOnly

/-- An operation that leaves the dies but for their world-slice bytes. -/
theorem RolesOnly.of_frame {ps : List Part} {s t : State} (h : Framed ps s t) (d : Die) (hp : Part.dies ∉ ps := by decide) :
    RolesOnly (s.die d) (t.die d) := by
  obtain ⟨h0, h1⟩ := h .dies hp
  cases d
  · exact (congrArg DieState.besideRoles h0 :)
  · exact (congrArg DieState.besideRoles h1 :)

namespace EventsKept
variable {o : Nat} {s t u : State}

theorem framed {ps : List Part} (h : EventsKept o s t) (f : Framed ps t u) (hp : Part.regs ∉ ps := by decide) :
    EventsKept o s u := h.trans (of_regsKept ((RegsKept.refl t).framed f hp))

theorem log (h : EventsKept o s t) (ho : o ∉ logRegs) (sev code source : Nat) (data : List Byte) :
    EventsKept o s (t.log sev code source data) :=
  h.trans (of_regsKept ((RegsKept.refl t).log (by rintro a ha rfl; exact ho ha) sev code source data))

theorem when (h : EventsKept o s t) {c : Bool} {f : State → State} (hf : EventsKept o s (f t)) : EventsKept o s (t.when c f) := by
  cases c
  · exact h
  · exact hf

theorem reportRetired (h : EventsKept o s t) (ho : o ∉ logRegs) (d : Die) (p : Nat) (c : CeUnit) :
    EventsKept o s (t.reportRetired d p c) := by
  unfold State.reportRetired
  extract_lets taker s1 s2
  have h1 : EventsKept o s s1 := h.event _ _
  clear_value s1
  have h2 : EventsKept o s s2 := h1.when (h1.event _ _)
  clear_value s2
  exact h2.log ho _ _ _ _

end EventsKept

/-- A change of roles on a die leaves the rest of the die, and clears no event. -/
theorem State.changeCes_roles (s : State) (d : Die) (before : Nat) (gone : List Nat) (due pool : Bool) :
    RolesOnly (s.die d) ((s.changeCes d before gone due pool).die d) ∧
      ∀ o ∉ logRegs, EventsKept o s (s.changeCes d before gone due pool) := by
  unfold State.changeCes
  extract_lets x y s1 s2 s3
  have hx : RolesOnly x (s1.die d) := by
    have hy : RolesOnly x y := RolesOnly.changeCes x gone due
    show RolesOnly x ((s.setDie d (if pool then y.applyPool else y)).die d)
    rw [State.die_setDie]
    split
    · exact hy.trans (RolesOnly.applyPool y)
    · exact hy
  have h1 : ∀ o, EventsKept o s s1 := fun o => EventsKept.of_regsKept ((RegsKept.refl s).setDie d _)
  clear_value s1
  have f2 : Framed [.regs, .host, .tally, .out] s1 s2 :=
    Framed.foldl (Framed.refl s1) fun t ht p => State.reportRetired_framed (List.Subset.refl _) ht
  have h2 : ∀ o ∉ logRegs, EventsKept o s s2 := fun o ho =>
    List.foldlRecOn gone _ (h1 o) fun t ht p _ => ht.reportRetired ho d p _
  clear_value s2
  have f3 : Framed [.mem, .slices] s2 s3 := by
    show Framed _ s2 (match x.testEngine with | some p => _ | none => _)
    split
    · exact State.when_framed (Framed.refl s2) fun t ht => State.writeCanary_framed (List.Subset.refl _) ht
    · exact Framed.refl s2
  clear_value s3
  refine ⟨?_, fun o ho => ((h2 o ho).framed f3).when (((h2 o ho).framed f3).event _ _)⟩
  refine (hx.trans ((RolesOnly.of_frame f2 d).trans (RolesOnly.of_frame f3 d))).trans ?_
  exact RolesOnly.of_frame (ps := [.regs]) (State.when_framed (Framed.refl s3) fun t ht => State.event_framed (List.Subset.refl _) ht) d

/-! ### The test slices (R160, R196, R484 to R487) -/

section Slices
variable {s : State} {d : Die} {cls unit t : Nat}

/-- A die after a slice of a unit that ended at device time `now`. -/
def DieState.afterSlice (x : DieState) (cls unit : Nat) (now : Int) (passed : Bool) : DieState :=
  ({ x with slices := x.slices.filter fun q => q.1 != cls
            tested := (x.tested.filter fun (q : Nat × Nat × Int) => !(q.1 == cls && q.2.1 == unit)) ++
              [(cls, unit, now)] } : DieState).sliceResult cls unit passed

/-- What the end of a slice counts and reports. -/
def State.reportSlice (s : State) (d : Die) (cls unit : Nat) (passed : Bool) : State :=
  let s := s.when (cls = 4) fun s => s.count (rPaTestCount d) 1
  let s := s.when (cls = 0 && !passed) fun s => s.event (rCeEngEvents d unit) 3
  s.when (!passed) fun s => s.log warn 0x0350 (tallySource (d.idx + 1) (sliceSource cls) unit) (leBytes 1 cls)

/-- The state once the slice's result stands on its die and is reported, before a rotation point. -/
def State.sliceEnded (s : State) (d : Die) (cls unit t : Nat) (passed : Bool) : State :=
  ((s.advance t).setDie d (((s.advance t).die d).afterSlice cls unit (s.advance t).now passed)).reportSlice d cls unit passed

/-- The rotation point that the end of a collision engine's slice may be. -/
def State.rotateAfter (s : State) (d : Die) (cls t : Nat) : State :=
  s.when (cls = 0 && s.atRotation t) fun s => s.rotationPoint d (s.die d).rAct

theorem exec_testSliceStart (hc : cls < 5) (hu : unit < sliceUnits cls) (hp : (s.die d).power = 2)
    (hs : (s.die d).slicing cls = false) (hf : s.unitFree d cls unit = true)
    (hw : cls = 0 ∨ s.dev = .hold ∨ s.dev = .stopped ∨ (s.dev = .running ∧ s.gapFits cls t = true)) :
    exec (.testSliceStart d cls unit t) s =
      .next ((s.advance t).setDie d { (s.advance t).die d with slices := ((s.advance t).die d).slices ++ [(cls, unit, t)] }) := by
  show execTestSliceStart d cls unit t s = _
  have hgo : (cls == 0 || (s.dev == .hold || s.dev == .stopped) || (s.dev == .running && s.gapFits cls t)) = true := by
    rcases hw with h | h | h | ⟨h, hg⟩
    · simp [h]
    · simp [h]
    · simp [h]
    · simp [h, hg]
  simp only [execTestSliceStart, decide_eq_true hc, decide_eq_true hu, hp, hs, hf, hgo, whenNamed, Bool.and_self, beq_self_eq_true,
    Bool.not_false, State.when_true, if_true]

theorem exec_testSliceEnd (hc : cls < 5) (hu : unit < sliceUnits cls) (passed : Bool)
    (h : ((s.die d).slices.any fun q => q.1 == cls && q.2.1 == unit && decide (q.2.2 + sliceNs cls ≤ t)) = true) :
    exec (.testSliceEnd d cls unit t passed) s = .next ((s.sliceEnded d cls unit t passed).rotateAfter d cls t) := by
  show execTestSliceEnd d cls unit t passed s = _
  simp only [execTestSliceEnd, decide_eq_true hc, decide_eq_true hu, h, whenNamed, Bool.and_self, State.when_true, if_true]
  rfl

theorem exec_latent {ageMs : Nat} (hc : cls < 5) (hu : unit < sliceUnits cls) (hi : (s.die d).inService cls unit = true)
    (ha : 100 ≤ ageMs) : ∃ source data, exec (.latent d cls unit ageMs) s = .next
      (((s.advance ((s.die d).testedAt cls unit + 1000000 * (ageMs : Int)).toNat).event rDeputyEvents 4).log warn 0x0502 source data) := by
  refine ⟨tallySource (d.idx + 1) (sliceSource cls) unit, leBytes 1 cls ++ leBytes 4
    ((s.advance ((s.die d).testedAt cls unit + 1000000 * (ageMs : Int)).toNat).testAge d cls unit / 1000000), ?_⟩
  show execLatent d cls unit ageMs s = _
  simp only [execLatent, decide_eq_true hc, decide_eq_true hu, hi, decide_eq_true ha, whenNamed, Bool.and_self, State.when_true, if_true]

theorem DieState.sliceResult_rest (x : DieState) (cls unit : Nat) (passed : Bool) :
    (x.sliceResult cls unit passed).slices = x.slices ∧ (x.sliceResult cls unit passed).tested = x.tested ∧
      (x.sliceResult cls unit passed).since = x.since := by
  unfold DieState.sliceResult
  extract_lets add
  split <;> exact ⟨rfl, rfl, rfl⟩

/-- The age of the unit begins anew with its slice. -/
theorem DieState.afterSlice_testedAt (x : DieState) (cls unit : Nat) (now : Int) (passed : Bool) :
    (x.afterSlice cls unit now passed).testedAt cls unit = now := by
  obtain ⟨-, ht, -⟩ := DieState.sliceResult_rest ({ x with
    slices := x.slices.filter fun q => q.1 != cls
    tested := (x.tested.filter fun (q : Nat × Nat × Int) => !(q.1 == cls && q.2.1 == unit)) ++ [(cls, unit, now)] } : DieState) cls unit passed
  unfold DieState.testedAt DieState.afterSlice
  rw [ht, List.find?_append, List.find?_eq_none.mpr fun q hq => by simpa only [Bool.not_eq_true, Bool.not_eq_true'] using (List.mem_filter.mp hq).2]
  simp

theorem State.reportSlice_frame (s : State) (d : Die) (cls unit : Nat) (passed : Bool) :
    Framed [.regs, .host, .tally, .out] s (s.reportSlice d cls unit passed) :=
  State.when_framed (State.when_framed (State.when_framed (Framed.refl s) fun _ h => State.count_framed (by decide) h)
    fun _ h => State.event_framed (by decide) h) fun _ h => State.log_framed (by decide) h

/-- The registers of the log lie below those of the dies. -/
theorem not_logReg_of_die {a : Nat} (h : 0x400000 ≤ a) : a ∉ logRegs := fun hl =>
  absurd h (Nat.not_le.mpr ((by decide : ∀ b ∈ logRegs, b < 0x400000) a hl))

theorem rCeEngEvents_not_logReg (d : Die) (unit : Nat) : rCeEngEvents d unit ∉ logRegs :=
  not_logReg_of_die (Nat.le_add_right_of_le (Nat.le_add_right_of_le d.base_ge))

theorem rPaTestCount_not_logReg (d : Die) : rPaTestCount d ∉ logRegs := not_logReg_of_die (Nat.le_add_right_of_le d.base_ge)

theorem State.reportSlice_failed (s : State) (d : Die) (unit : Nat) :
    ((s.reportSlice d 0 unit false).reg (rCeEngEvents d unit)).getLsbD 3 = true :=
  ((EventsKept.refl _).log (rCeEngEvents_not_logReg d unit) _ _ _ _) 3 (s.event_bit (rCeEngEvents d unit) (by decide))

theorem State.reportSlice_tested (s : State) (d : Die) (unit : Nat) (passed : Bool) :
    (s.reportSlice d 4 unit passed).reg (rPaTestCount d) = satAddWord (s.reg (rPaTestCount d)) 1 := by
  have k : RegsKept (· = rPaTestCount d) (s.count (rPaTestCount d) 1) (s.reportSlice d 4 unit passed) :=
    (RegsKept.refl _).when ((RegsKept.refl _).log (by rintro a ha rfl; exact rPaTestCount_not_logReg d ha) _ _ _ _)
  rw [k _ rfl, State.reg_count]

theorem State.advance_die (s : State) (t : Nat) (d : Die) : (s.advance t).die d = s.die d := by
  cases d
  · exact s.advance_d0 t
  · exact s.advance_d1 t

theorem State.rotateAfter_frame (s : State) (d : Die) (cls t : Nat) :
    Framed [.regs, .mem, .slices, .dies, .host, .tally, .out] s (s.rotateAfter d cls t) :=
  State.when_framed (Framed.refl s) fun _ h => State.rotationPoint_framed (by decide) h

theorem State.rotateAfter_roles (s : State) (d : Die) (cls t : Nat) : RolesOnly (s.die d) ((s.rotateAfter d cls t).die d) ∧
    ∀ o ∉ logRegs, EventsKept o s (s.rotateAfter d cls t) := by
  unfold State.rotateAfter State.when
  split
  · exact s.changeCes_roles d _ _ _ _
  · exact ⟨RolesOnly.refl _, fun o _ => EventsKept.refl s⟩

/-- What the end of a slice leaves of its die, but for the roles. -/
theorem State.sliceEnded_die (s : State) (d : Die) (cls unit t : Nat) (passed : Bool) :
    RolesOnly ((s.die d).afterSlice cls unit (s.advance t).now passed) ((s.sliceEnded d cls unit t passed).die d) := by
  have h := RolesOnly.of_frame (State.reportSlice_frame
    ((s.advance t).setDie d (((s.advance t).die d).afterSlice cls unit (s.advance t).now passed)) d cls unit passed) d
  rw [State.die_setDie, State.advance_die] at h
  unfold State.sliceEnded
  rwa [State.advance_die]

theorem State.sliceEnded_frame (s : State) (d : Die) (cls unit t : Nat) (passed : Bool) :
    Framed [.regs, .dies, .slices, .host, .tally, .out] (s.advance t) (s.sliceEnded d cls unit t passed) :=
  Framed.trans (State.setDie_framed (by decide) (Framed.refl _) fun h => absurd (by decide) h)
    (Framed.mono (State.reportSlice_frame _ d cls unit passed) (by decide))

/-- A unit in service that has completed no slice for 100 ms is reported at that age (R486). -/
theorem latentUnitIsReported (hc : cls < 5) (hu : unit < sliceUnits cls) {ageMs : Nat} (hi : (s.die d).inService cls unit = true)
    (ha : 100 ≤ ageMs) : ∃ u, exec (.latent d cls unit ageMs) s = .next u ∧ (u.reg rDeputyEvents).getLsbD 4 = true ∧
      (s.timeOn = true → 1000000 * ageMs ≤ u.testAge d cls unit) ∧ u.dev = s.dev ∧ u.dep = s.dep ∧ u.mem = s.mem := by
  obtain ⟨source, data, e⟩ := exec_latent hc hu hi ha
  have f : Framed [.regs, .host, .tally, .out] (s.advance ((s.die d).testedAt cls unit + 1000000 * (ageMs : Int)).toNat)
      (((s.advance ((s.die d).testedAt cls unit + 1000000 * (ageMs : Int)).toNat).event rDeputyEvents 4).log warn 0x0502 source data) :=
    State.log_framed (by decide) (State.event_framed (by decide) (Framed.refl _))
  refine ⟨_, e, ((EventsKept.refl _).log (by decide) _ _ _ _) 4 (State.event_bit _ _ (by decide)), fun ht => ?_,
    (f .dev (by decide)).trans (s.advance_dev _), f.dep_eq.trans (s.advance_dep _), (f .mem (by decide)).trans (s.advance_mem _)⟩
  unfold State.testAge
  rw [f.die_eq d, State.advance_die, show _ = _ from f .now (by decide), State.advance, if_pos ht]
  show 1000000 * ageMs ≤ (((max s.now _ : Nat) : Int) - _).toNat
  omega

end Slices

/-- Settles O43: the start of a slice by what holds it, its end by the class, an overdue unit by its age. -/
theorem testSlicesRun : Obligations.TestSlicesRun := by
  intro s d cls unit t hc hu
  refine ⟨fun hp hs hf hw => ?_, fun passed h => ?_, fun ageMs hi ha => latentUnitIsReported hc hu hi ha⟩
  · refine ⟨_, exec_testSliceStart hc hu hp hs hf hw, ?_, by simp, by simp, by simp, by simp⟩
    rw [State.die_setDie, State.advance_die]
  · obtain ⟨hroles, hevents⟩ := (s.sliceEnded d cls unit t passed).rotateAfter_roles d cls t
    have hdie := (s.sliceEnded_die d cls unit t passed).trans hroles
    have hframe := Framed.trans (Framed.mono (s.sliceEnded_frame d cls unit t passed) (by decide))
      ((s.sliceEnded d cls unit t passed).rotateAfter_frame d cls t)
    have hslices : (((s.sliceEnded d cls unit t passed).rotateAfter d cls t).die d).slices =
        (s.die d).slices.filter fun q => q.1 != cls :=
      (congrArg DieState.slices hdie :).trans (DieState.sliceResult_rest _ _ _ _).1
    have hage := (congrArg (fun x => x.testedAt cls unit) hdie :).trans (DieState.afterSlice_testedAt _ _ _ _ _)
    have hnow := show _ = _ from hframe .now (by decide)
    refine ⟨_, exec_testSliceEnd hc hu passed h, fun q hq => ?_, fun q hq hne => ?_, (hframe .dev (by decide)).trans (s.advance_dev t),
      (hframe .tick (by decide)).trans (s.advance_tick t), ?_, ?_, ?_, hage.trans (congrArg _ hnow.symm), hnow, ?_, ?_⟩
    · rw [show _ = _ from hslices] at hq
      simpa using (List.mem_filter.mp hq).2
    · exact hslices ▸ List.mem_filter.mpr ⟨hq, by simpa using hne⟩
    · rintro rfl
      refine ⟨(congrArg DieState.ceFail hdie :), ?_⟩
      rintro rfl
      exact hevents _ (rCeEngEvents_not_logReg d unit) 3 (State.reportSlice_failed _ d unit)
    · rintro rfl
      exact ⟨(congrArg DieState.rePend hdie :), (congrArg DieState.reTest hdie :)⟩
    · rintro rfl
      exact ⟨(congrArg DieState.sePend hdie :), (congrArg DieState.seTest hdie :)⟩
    · rintro rfl
      exact (congrArg DieState.heapPend hdie :)
    · rintro rfl
      refine ⟨(congrArg DieState.rowPend hdie :), (congrArg DieState.rowTest hdie :), ?_⟩
      refine (State.reportSlice_tested _ d unit passed).trans ?_
      rw [State.reg_of_regs ((State.setDie_regs ..).trans (s.advance_regs t))]

end Sys2Proof.Machine

namespace Sys2Proof.Machine
open Sys2Proof

/-! ### What a run of a candidate reads (R275 to R282) -/

/-- The registers that the final list and the runs of its entries are read from. -/
def runRegsRead : List Nat := [rGlbProfile, rKlinkCoord, rReTseedLo .s0, rReTseedHi .s0]

/-- Two states that differ in device time, in other registers, and in what of the plan no run of a candidate reads. -/
structure RunsAlike (z s : State) : Prop where
  rest : s = { z with now := s.now, regs := s.regs, plan := s.plan }
  regs : RegsKept (· ∈ runRegsRead) z s
  taken : s.plan.taken = z.plan.taken
  history : s.plan.history = z.plan.history
  passRecs : s.plan.passRecs = z.plan.passRecs

namespace RunsAlike
variable {z s t : State}

theorem refl (s : State) : RunsAlike s s := ⟨rfl, RegsKept.refl s, rfl, rfl, rfl⟩

theorem event (h : RunsAlike z s) {o : Nat} (ho : o ∉ runRegsRead) (n : Nat) : RunsAlike z (s.event o n) :=
  ⟨congrArg (fun v : State => v.event o n) h.rest, h.regs.event ho n, h.taken, h.history, h.passRecs⟩

theorem withPlan (h : RunsAlike z s) {p : Plan} (ht : p.taken = s.plan.taken) (hh : p.history = s.plan.history)
    (hr : p.passRecs = s.plan.passRecs) : RunsAlike z { s with plan := p } :=
  ⟨congrArg (fun v : State => { v with plan := p }) h.rest, h.regs.of_regs rfl, ht.trans h.taken, hh.trans h.history, hr.trans h.passRecs⟩

theorem when (h : RunsAlike z s) {c : Bool} {f : State → State} (hf : RunsAlike z (f s)) : RunsAlike z (s.when c f) := by
  cases c
  · exact h
  · exact hf

section Reads
variable (h : RunsAlike z s)
include h

theorem mem : s.mem = z.mem := by rw [h.rest]

theorem die (d : Die) : s.die d = z.die d := by
  rw [h.rest]
  cases d <;> rfl

theorem theImage : s.theImage = z.theImage := by rw [h.rest]; rfl

theorem engCfg (d : Die) : s.engCfg d = z.engCfg d := by rw [h.rest]; rfl

theorem groupSize : s.groupSize = z.groupSize := by rw [h.rest]; rfl

theorem loadWin (d : Die) (o n : Nat) : s.loadWin d o n = z.loadWin d o n := by
  rw [h.rest]
  cases d <;> rfl

theorem anchor (d : Die) (a : Nat) : s.anchor d a = z.anchor d a := by
  unfold State.anchor
  rw [h.loadWin, h.engCfg]

theorem anchorBad (d : Die) (id : Nat) : s.anchorBad d id = z.anchorBad d id := by
  unfold State.anchorBad
  rw [h.anchor]

theorem parentControl (d : Die) (round j : Nat) : s.parentControl d round j = z.parentControl d round j := by
  unfold State.parentControl State.parentOfs
  rw [h.loadWin, h.engCfg]

theorem fieldView (d : Die) (p : Nat) : s.fieldView d p = z.fieldView d p := by
  unfold State.fieldView State.slice
  rw [h.die, h.mem]

theorem agentBytes (d : Die) (t : Nat) : s.agentBytes d t = z.agentBytes d t := by
  unfold State.agentBytes
  rw [h.loadWin, h.engCfg]

theorem samplesOf (c : Control) : s.samplesOf c = z.samplesOf c := by rw [h.rest]; rfl

theorem termsOf (d : Die) (id : Nat) (ss : List Sample) : s.termsOf d id ss = z.termsOf d id ss := by
  unfold State.termsOf
  rw [h.anchorBad, show s.world = z.world by rw [h.rest]]

theorem profile : s.profile = z.profile := by
  unfold State.profile
  rw [h.regs _ (by decide)]

theorem dies : s.dies = z.dies := State.dies_congr (h.regs _ (by decide)) (by rw [h.rest])

theorem tseed : s.tseed = z.tseed := by
  unfold State.tseed State.pair
  rw [h.regs (rReTseedLo .s0) (by decide), h.regs (rReTseedHi .s0) (by decide)]

theorem controlOf (d : Die) (id : Nat) : s.controlOf d id = z.controlOf d id := by
  unfold State.controlOf
  simp only [h.tseed, h.anchor, h.parentControl, h.history, h.theImage, show s.rolloutCfg = z.rolloutCfg by rw [h.rest]; rfl,
    show s.world = z.world by rw [h.rest], show s.tau0 = z.tau0 by rw [h.rest]; rfl]

theorem entryControl (d : Die) (i id : Nat) : s.entryControl d i id = z.entryControl d i id := by
  unfold State.entryControl
  rw [h.groupSize, h.loadWin, h.engCfg, h.controlOf]

theorem finalList : s.finalList = z.finalList := by
  unfold State.finalList
  simp only [h.theImage, h.engCfg, h.groupSize, h.dies, h.loadWin]

theorem recheckSet (l : List (Nat × Nat)) : s.recheckSet l = z.recheckSet l := by
  unfold State.recheckSet
  rw [h.profile]

theorem urgentRecs (t : Nat) : s.urgentRecs t = z.urgentRecs t := by
  unfold State.urgentRecs
  rw [h.taken]

theorem checkFrom (d : Die) (view : FieldView) (direct : Bool) (l : List (Nat × Pose)) (acc : SlotRec) (n k : Nat) :
    s.checkFrom d view direct l acc n k = z.checkFrom d view direct l acc n k := by
  induction l generalizing acc n k with
  | nil => rfl
  | cons p l ih =>
    unfold State.checkFrom
    simp only [h.urgentRecs, h.theImage, h.agentBytes, ih]

theorem runPair (d : Die) (l slot id : Nat) (direct : Bool) (ss : List Sample) :
    s.runPair d l slot id direct ss = z.runPair d l slot id direct ss := by
  unfold State.runPair
  simp only [h.die, h.anchorBad, h.fieldView, h.checkFrom, h.termsOf, show s.rolloutCfg = z.rolloutCfg by rw [h.rest]; rfl]

theorem passDie (copy : Bool) : s.passDie copy = z.passDie copy := by
  unfold State.passDie State.copyDie State.dual
  rw [h.dies]

theorem passRun (copy : Bool) (i id : Nat) : s.passRun copy i id = z.passRun copy i id := by
  unfold State.passRun
  simp only [h.passDie, h.die, h.entryControl, h.samplesOf, h.runPair]

theorem blockPair (copy : Bool) (i : Nat) : s.blockPair copy i = z.blockPair copy i := by
  unfold State.blockPair
  rw [h.passRecs]

theorem passPair (copy : Bool) (i id : Nat) : s.passPair copy i id = z.passPair copy i id := by
  unfold State.passPair
  rw [h.blockPair, h.passRun]

theorem finalEntry (i id listed : Nat) (checked : Bool) : s.finalEntry i id listed checked = z.finalEntry i id listed checked := by
  unfold State.finalEntry State.withPair
  simp only [h.theImage, h.passPair, h.entryControl, h.samplesOf]

theorem passList : s.passList = z.passList := by
  unfold State.passList
  simp only [h.finalList, h.recheckSet, h.finalEntry]

theorem passMismatches : s.passMismatches = z.passMismatches := by
  unfold State.passMismatches
  simp only [h.finalList, h.recheckSet, h.passPair]

theorem storeWin (d : Die) (o : Nat) (data : List Byte) : RunsAlike (z.storeWin d o data) (s.storeWin d o data) := by
  have hrest : ∀ (n : Nat) (r : List (Nat × Word)) (p : Plan), ({ z with now := n, regs := r, plan := p } : State).storeWin d o data =
      { z.storeWin d o data with now := n, regs := r, plan := p } := by
    intro n r p
    unfold State.storeWin State.store
    split
    · next g w _ => cases g <;> rfl
    · rfl
  have fz : Framed [.mem, .slices] z (z.storeWin d o data) := State.storeWin_framed (List.Subset.refl _) (Framed.refl z)
  have fs : Framed [.mem, .slices] s (s.storeWin d o data) := State.storeWin_framed (List.Subset.refl _) (Framed.refl s)
  have hz : (z.storeWin d o data).plan = z.plan := fz .plan (by decide)
  have hs : (s.storeWin d o data).plan = s.plan := fs .plan (by decide)
  refine ⟨?_, fun a ha => ?_, ?_, ?_, ?_⟩
  · have e := (congrArg (fun v : State => v.storeWin d o data) h.rest).trans (hrest s.now s.regs s.plan)
    rw [hs, show (s.storeWin d o data).now = s.now from fs .now (by decide),
      show (s.storeWin d o data).regs = s.regs from fs .regs (by decide)]
    exact e
  · rw [State.reg_of_regs (fs .regs (by decide)), State.reg_of_regs (fz .regs (by decide)), h.regs a ha]
  · rw [hs, hz, h.taken]
  · rw [hs, hz, h.history]
  · rw [hs, hz, h.passRecs]

end Reads

end RunsAlike

/-- The sample outputs of the entry at a list position, where no block has run it (R278). -/
def State.writeOutput (s : State) (l : List (Nat × Nat)) (i : Nat) : State :=
  match placedId l i with
  | none => s
  | some id => s.when (s.blockPair false i).isNone fun s =>
      s.storeWin .s0 ((s.engCfg .s0).outputBase + s.outputBytes * i) ((s.samplesOf (s.entryControl .s0 i id)).flatMap encodeOutput)

theorem State.writeOutputs_eq (s : State) :
    s.writeOutputs = (List.range (s.finalList.length + 1)).foldl (fun v i => v.writeOutput s.finalList i) s := rfl

namespace RunsAlike
variable {z s : State}

theorem writeOutput (h : RunsAlike z s) (l : List (Nat × Nat)) (i : Nat) : RunsAlike (z.writeOutput l i) (s.writeOutput l i) := by
  unfold State.writeOutput
  split
  · exact h
  · rw [h.blockPair]
    cases (z.blockPair false i).isNone
    · exact h
    · simp only [State.when_true, h.engCfg, h.samplesOf, h.entryControl, show s.outputBytes = z.outputBytes by rw [h.rest]; rfl]
      exact h.storeWin _ _ _

/-- What two alike states write of the pass is alike. -/
theorem writeOutputs (h : RunsAlike z s) : RunsAlike z.writeOutputs s.writeOutputs := by
  rw [State.writeOutputs_eq, State.writeOutputs_eq, h.finalList]
  generalize z.finalList = l
  generalize List.range (l.length + 1) = is
  induction is generalizing z s with
  | nil => exact h
  | cons i is ih => exact ih (h.writeOutput l i)

end RunsAlike

/-- Where blocks have run every entry of the list, nothing is left to write. -/
theorem State.writeOutputs_run {s : State}
    (h : ∀ i id, placedId s.finalList i = some id → ∃ q ∈ s.plan.passRecs, q.1 = 2 ∧ q.2.1 = i) : s.writeOutputs = s := by
  rw [State.writeOutputs_eq]
  refine List.foldlRecOn (motive := fun v => v = s) _ _ rfl ?_
  rintro v rfl i _
  unfold State.writeOutput
  split
  · rfl
  · next id hid =>
    obtain ⟨q, hq, h2, hi⟩ := h i id hid
    have hsome : (v.blockPair false i).isNone = false := by
      unfold State.blockPair
      rw [Option.isNone_map, Option.isNone_eq_false_iff, List.find?_isSome]
      exact ⟨q, hq, by simp [h2, hi, bnat]⟩
    rw [hsome, State.when_false]

/-! ### Samples counted outside a sweep (R290) -/

theorem RegsKept.countEvent {P : Nat → Prop} {z s : State} {a b : Nat} (ha : ¬ P a) (hb : ¬ P b) (n k : Nat) (hs : RegsKept P z s) :
    RegsKept P z ((s.count a n).event b k) := (hs.count ha n).event hb k

/-- Samples of runs counted at a die: beside their counts and CE.EVENTS only the plan's DENSE mark. -/
structure SamplesCounted (z s : State) : Prop where
  frame : Framed [.regs, .plan] z s
  plan : s.plan = { z.plan with dense := s.plan.dense }
  events : s.reg (rHeapEvents .s0) = z.reg (rHeapEvents .s0)

namespace SamplesCounted
variable {z s t : State}

theorem refl (s : State) : SamplesCounted s s := ⟨Framed.refl s, rfl, rfl⟩

theorem trans (h : SamplesCounted z s) (k : SamplesCounted s t) : SamplesCounted z t :=
  ⟨h.frame.trans k.frame, k.plan.trans (congrArg (fun p : Plan => { p with dense := t.plan.dense }) h.plan), k.events.trans h.events⟩

theorem countSamples (s : State) (d : Die) (n k : Nat) : SamplesCounted s (s.countSamples d n k) := by
  have apart : ∀ o ∈ [rCeDenseSamples d, rCeUnknownSamples d, rCeEvents d], ¬ o = rHeapEvents .s0 := by cases d <;> decide
  have hd := apart (rCeDenseSamples d) (by simp)
  have hu := apart (rCeUnknownSamples d) (by simp)
  have he := apart (rCeEvents d) (by simp)
  refine ⟨State.countSamples_framed (List.Subset.refl _) (Framed.refl s), ?_, ?_⟩
  · unfold State.countSamples State.when
    split <;> split <;> rfl
  · have h1 : RegsKept (· = rHeapEvents .s0) s (s.countSamples d n k) := by
      unfold State.countSamples
      extract_lets v
      have hv : RegsKept (· = rHeapEvents .s0) s v :=
        (RegsKept.refl s).when ((RegsKept.countEvent (P := (· = rHeapEvents .s0)) hd he n 4 (RegsKept.refl s)).of_regs rfl)
      exact hv.when (RegsKept.countEvent (P := (· = rHeapEvents .s0)) hu he k 5 hv)
    exact h1 _ rfl

theorem countRun (s : State) (d : Die) (r : PairRun) : SamplesCounted s (s.countRun d r) := countSamples s d _ _

theorem countRuns (s : State) (copy : Bool) (is : List Nat) : SamplesCounted s (s.countRuns copy is) := by
  unfold State.countRuns
  refine List.foldlRecOn is _ (refl s) fun v h i _ => h.trans ?_
  split
  · unfold State.when
    split
    · exact countRun ..
    · exact refl v
  · exact refl v

theorem countPass (s : State) : SamplesCounted s s.countPass := (countRuns s _ _).trans (countRuns _ _ _)

end SamplesCounted

end Sys2Proof.Machine

namespace Sys2Proof.Machine
open Sys2Proof

/-! ### The end of the pass and of a comparison (R274, R278 to R283, R590) -/

/-- The pairs of blocks that both dies have swept and whose records differ (R281). -/
def State.sweptMismatches (s : State) : List VoteItem := s.twins.flatMap fun p => s.blockMismatches p.1 p.2

/-- The event of mismatches that a comparison found. -/
def State.noteMismatches (s : State) (l : List VoteItem) : State := s.when (!l.isEmpty) fun s => s.event (rHeapEvents .s0) 6

section Note
variable (s : State) (l : List VoteItem)

theorem State.noteMismatches_frame : Framed [.regs] s (s.noteMismatches l) :=
  State.when_framed (Framed.refl s) fun _ h => State.event_framed (List.Subset.refl _) h

theorem State.noteMismatches_alike {z : State} (h : RunsAlike z s) : RunsAlike z (s.noteMismatches l) :=
  h.when (h.event (by decide) 6)

theorem State.noteMismatches_bit (h : l ≠ [] ∨ (s.reg (rHeapEvents .s0)).getLsbD 6 = true) :
    ((s.noteMismatches l).reg (rHeapEvents .s0)).getLsbD 6 = true := by
  unfold State.noteMismatches State.when
  split
  · exact s.event_bit _ (by decide)
  · next hl => exact h.resolve_left fun hne => hl (by simpa using hne)

end Note

/-- What the comparison of both dies' sweeps leaves. -/
structure SweptCompared (s u : State) : Prop where
  frame : Framed [.regs, .plan] s u
  alike : RunsAlike s u
  plan : u.plan = { s.plan with votesDue := s.plan.votesDue ++ s.sweptMismatches, ended := u.plan.ended }
  ended : ∀ e ∈ u.plan.ended, e ∈ s.plan.ended ∧ ∀ p ∈ s.twins, e ≠ p.1 ∧ e ≠ p.2
  event : s.sweptMismatches ≠ [] → (u.reg (rHeapEvents .s0)).getLsbD 6 = true

theorem State.compareSwept_compared (s : State) : SweptCompared s s.compareSwept := by
  have hplan : (s.noteMismatches s.sweptMismatches).plan = s.plan := s.noteMismatches_frame _ .plan (by decide)
  refine ⟨State.compareSwept_framed (List.Subset.refl _) (Framed.refl s), ?_, ?_, fun e he => ?_, fun hne => ?_⟩
  · exact (s.noteMismatches_alike s.sweptMismatches (RunsAlike.refl s)).withPlan rfl rfl rfl
  · exact congrArg (fun p : Plan => { p with votesDue := p.votesDue ++ s.sweptMismatches, ended := s.compareSwept.plan.ended }) hplan
  · obtain ⟨hm, hf⟩ := List.mem_filter.mp he
    refine ⟨hm, fun p hp => ?_⟩
    have hno := List.any_eq_false.mp (Bool.not_eq_true' _ ▸ hf) p hp
    simp only [Bool.or_eq_true, beq_iff_eq, not_or] at hno
    exact ⟨Ne.symm hno.1, Ne.symm hno.2⟩
  · exact s.noteMismatches_bit _ (.inl hne)

/-- The mismatches that the end of the pass holds for the votes. -/
def State.passDue (s : State) : List VoteItem := dropVoted (s.heldWith s.passMismatches)

/-- The list placed, and the mismatches held for the votes where they are not too many (R278, R282, R283). -/
def State.placeList (s : State) (due : List VoteItem) : State :=
  let s := { s with plan := { s.plan with final := s.passList, passed := true, votesDue := if 16 < due.length then [] else due } }
  s.when (decide (16 < due.length)) fun s => s.invalid reasonCheck

/-- The pass once its conditions hold, by its steps. -/
theorem State.endPass_eq {s : State} (h5 : 5 ≤ s.tick.rel) (hst : s.tick.stopped = false) (hp : s.plan.passed = false)
    (hd : (s.dies.all fun g => s.clocked g && s.phaseTasksDone g 4) = true) :
    s.endPass = ((s.compareSwept.noteMismatches s.compareSwept.passMismatches).placeList
      (dropVoted (s.compareSwept.plan.votesDue ++ s.compareSwept.passMismatches))).writeOutputs.countPass := by
  unfold State.endPass
  rw [decide_eq_true h5, hst, hp, hd]
  simp only [Bool.not_false, Bool.and_self, State.when_true, decide_eq_true_eq]
  rfl

/-- What the list placed leaves of the plan. -/
structure ListPlaced (s u : State) (due : List VoteItem) : Prop where
  regs : u.regs = s.regs
  alike : ∀ z, RunsAlike z s → RunsAlike z u
  few : due.length ≤ 16 → u.plan = { s.plan with final := s.passList, passed := true, votesDue := due }
  many : 16 < due.length → ∃ at_, u.plan = { s.plan with
    final := s.passList, passed := true, votesDue := [], cause := some (s.causeWith 12), causeAt := at_, lost := true }

theorem State.placeList_placed (s : State) (due : List VoteItem) : ListPlaced s (s.placeList due) due := by
  unfold State.placeList
  by_cases h : 16 < due.length
  · simp only [h, if_true, decide_true, State.when_true]
    obtain ⟨at_, e⟩ := ({ s with plan := { s.plan with final := s.passList, passed := true, votesDue := [] } } : State).invalid_eq reasonCheck
    rw [e]
    refine ⟨rfl, fun z hz => hz.withPlan rfl rfl rfl, fun hf => absurd h (Nat.not_lt.mpr hf), fun _ => ⟨at_, ?_⟩⟩
    simp only [show containedReasons.contains reasonCheck = true from rfl, Bool.or_true]
    rfl
  · simp only [h, if_false, decide_false, State.when_false]
    exact ⟨rfl, fun z hz => hz.withPlan rfl rfl rfl, fun _ => rfl, fun hm => absurd hm h⟩

/-- The plan as the pass leaves it, but for what it holds for the votes, the cause and DENSE (R278 to R283). -/
def Plan.placed (p : Plan) (list : List FinalEntry) (ended : List EndedBlock) (due : List VoteItem) (cause : Option Nat) (at_ : Nat)
    (lost dense : Bool) : Plan :=
  { p with final := list, passed := true, ended := ended, votesDue := due, cause := cause, causeAt := at_, lost := lost, dense := dense }

/-- What the end of the pass leaves (R278 to R283). -/
structure PassEnded (s u : State) : Prop where
  plan : ∃ ended due cause at_ lost dense, u.plan = s.plan.placed s.passList ended due cause at_ lost dense ∧
    (∀ e ∈ ended, e ∈ s.plan.ended ∧ ∀ p ∈ s.twins, e ≠ p.1 ∧ e ≠ p.2) ∧
    (s.passDue.length ≤ 16 → due = s.passDue ∧ cause = s.plan.cause) ∧
    (16 < s.passDue.length → due = [] ∧ cause = some (s.causeWith 12))
  event : s.passMismatches ≠ [] ∨ s.sweptMismatches ≠ [] → (u.reg (rHeapEvents .s0)).getLsbD 6 = true
  mem : u.mem = s.writeOutputs.mem

theorem State.endPass_ended {s : State} (h5 : 5 ≤ s.tick.rel) (hst : s.tick.stopped = false) (hp : s.plan.passed = false)
    (hd : (s.dies.all fun g => s.clocked g && s.phaseTasksDone g 4) = true) : PassEnded s s.endPass := by
  obtain ⟨cframe, calike, cplan, cended, cevent⟩ := s.compareSwept_compared
  have hdue : dropVoted (s.compareSwept.plan.votesDue ++ s.compareSwept.passMismatches) = s.passDue := by
    rw [cplan, calike.passMismatches]
    rfl
  rw [State.endPass_eq h5 hst hp hd, hdue, calike.passMismatches]
  have hcnow : s.compareSwept.now = s.now := cframe .now (by decide)
  generalize s.compareSwept = v at *
  have wframe := v.noteMismatches_frame s.passMismatches
  have walike := v.noteMismatches_alike s.passMismatches calike
  have wevent : s.passMismatches ≠ [] ∨ s.sweptMismatches ≠ [] →
      ((v.noteMismatches s.passMismatches).reg (rHeapEvents .s0)).getLsbD 6 = true :=
    fun h => v.noteMismatches_bit _ (h.imp_right cevent)
  generalize v.noteMismatches s.passMismatches = w at *
  have hwplan : w.plan = v.plan := wframe .plan (by decide)
  have hwcause : w.causeWith 12 = s.causeWith 12 := by
    unfold State.causeWith
    rw [hwplan, show w.now = v.now from wframe .now (by decide), hcnow, cplan]
  obtain ⟨pregs, palike, pfew, pmany⟩ := w.placeList_placed s.passDue
  have ymem := (palike s walike).writeOutputs.mem
  generalize w.placeList s.passDue = y at *
  have yframe : Framed [.mem, .slices] y y.writeOutputs := State.writeOutputs_framed (List.Subset.refl _) (Framed.refl y)
  generalize y.writeOutputs = x at *
  obtain ⟨kframe, kplan, kevents⟩ := SamplesCounted.countPass x
  generalize x.countPass = u at *
  refine ⟨?_, fun h => ?_, (show u.mem = x.mem from kframe .mem (by decide)).trans ymem⟩
  · rw [kplan, show x.plan = y.plan from yframe .plan (by decide)]
    rcases Nat.lt_or_ge 16 s.passDue.length with hlen | hlen
    · obtain ⟨at_, e⟩ := pmany hlen
      refine ⟨v.plan.ended, [], some (s.causeWith 12), at_, true, u.plan.dense, ?_, cended, fun hf => absurd hlen (Nat.not_lt.mpr hf),
        fun _ => ⟨rfl, rfl⟩⟩
      rw [e, hwplan, hwcause, walike.passList, cplan]
      rfl
    · refine ⟨v.plan.ended, s.passDue, s.plan.cause, s.plan.causeAt, s.plan.lost, u.plan.dense, ?_, cended, fun _ => ⟨rfl, rfl⟩,
        fun hm => absurd hm (Nat.not_lt.mpr hlen)⟩
      rw [pfew hlen, hwplan, walike.passList, cplan]
      rfl
  · rw [kevents, State.reg_of_regs (yframe .regs (by decide)), State.reg_of_regs pregs]
    exact wevent h

/-! ### Votes (R282 to R284) -/

/-- What a majority does to the tick leaves the votes and the marks of the plan. -/
theorem State.applyVote_eq (s : State) (v : VoteItem) (side : Nat) : ∃ list cause at_ lost, s.applyVote v side =
    { s with plan := { s.plan with final := list, cause := cause, causeAt := at_, lost := lost } } := by
  have hinvalid : ∀ c : Bool, ∃ list cause at_ lost, (s.when c fun s => s.invalid reasonCheck) =
      { s with plan := { s.plan with final := list, cause := cause, causeAt := at_, lost := lost } } := by
    intro c
    cases c
    · exact ⟨s.plan.final, s.plan.cause, s.plan.causeAt, s.plan.lost, rfl⟩
    · obtain ⟨at_, e⟩ := s.invalid_eq reasonCheck
      exact ⟨s.plan.final, _, at_, _, e⟩
  unfold State.applyVote
  split
  · exact hinvalid _
  · split
    · extract_lets m
      split
      · exact ⟨_, s.plan.cause, s.plan.causeAt, s.plan.lost, rfl⟩
      · exact hinvalid _
    · unfold State.when
      split
      · exact ⟨_, s.plan.cause, s.plan.causeAt, s.plan.lost, rfl⟩
      · exact ⟨s.plan.final, s.plan.cause, s.plan.causeAt, s.plan.lost, rfl⟩

section Vote
variable {s : State} {id : Nat} {v : VoteItem}

/-- The state in which a third run of an item is counted and judged. -/
def State.thirdRunOf (s : State) (v : VoteItem) (bad : Bool) : Nat × State := (s.countRun .s0 (s.thirdPair v)).thirdSide v bad

theorem State.vote_eq (hv : (s.plan.votesDue.find? fun v => v.id == id) = some v) (hp : s.plan.passed = true)
    (hw : s.plan.walked = false) (hst : s.tick.stopped = false) (hc : s.clocked .s0 = true) (bad : Bool) :
    s.vote id bad = ((s.thirdRunOf v bad).2.countVote v).settleVote v (s.thirdRunOf v bad).1 := by
  unfold State.vote
  rw [hv]
  show s.when (s.plan.passed && !s.plan.walked && !s.tick.stopped && s.clocked .s0) _ = _
  rw [hp, hw, hst, hc]
  rfl

theorem State.vote_unclocked (hc : s.clocked .s0 = false) (id : Nat) (bad : Bool) : s.vote id bad = s := by
  unfold State.vote
  split
  · rfl
  · rw [hc, Bool.and_false, State.when_false]

theorem State.thirdRunOf_frame (s : State) (v : VoteItem) (bad : Bool) : Framed [.free, .regs, .plan] s (s.thirdRunOf v bad).2 :=
  State.thirdSide_framed (by decide) (State.countRun_framed (by decide) (Framed.refl s))

theorem State.thirdRunOf_plan (s : State) (v : VoteItem) (bad : Bool) : ∃ dense, (s.thirdRunOf v bad).2.plan = { s.plan with dense := dense } :=
  ⟨_, Eq.trans (State.thirdSide_framed (ps := [.free]) (List.Subset.refl _) (Framed.refl _) .plan (by decide))
    (SamplesCounted.countRun s .s0 (s.thirdPair v)).plan⟩

theorem State.countVote_plan (s : State) (v : VoteItem) : (s.countVote v).plan =
    { s.plan with votesDue := s.plan.votesDue.filter (fun w => w != v), votes := s.plan.votes + 1 } := rfl

/-- What a third run counted leaves of the plan and of memory. -/
structure VoteCounted (s w : State) (v : VoteItem) : Prop where
  votes : w.plan.votes = s.plan.votes + 1
  settled : v ∉ w.plan.votesDue
  cause : ∀ c, w.causeWith c = s.causeWith c
  mem : w.mem = s.mem

theorem State.thirdRun_counted (s : State) (v : VoteItem) (bad : Bool) : VoteCounted s ((s.thirdRunOf v bad).2.countVote v) v := by
  obtain ⟨dense, hplan⟩ := s.thirdRunOf_plan v bad
  have f := s.thirdRunOf_frame v bad
  generalize (s.thirdRunOf v bad).2 = w at *
  have hcounted : (w.countVote v).plan =
      { s.plan with dense := dense, votesDue := s.plan.votesDue.filter (fun x => x != v), votes := s.plan.votes + 1 } := by
    rw [State.countVote_plan, hplan]
  refine ⟨by rw [hcounted], ?_, fun c => ?_, (show _ = s.mem from f .mem (by decide))⟩
  · rw [hcounted]
    intro hv
    simpa using (List.mem_filter.mp hv).2
  · unfold State.causeWith
    rw [hcounted, show (w.countVote v).now = s.now from f .now (by decide)]

theorem State.settleVote_agreed (s : State) (v : VoteItem) {side : Nat} (h : side < 2) : ∃ list cause at_ lost,
    (s.settleVote v side).plan =
      { s.plan with final := list, cause := cause, causeAt := at_, lost := lost, degraded := true } ∧
    ((s.settleVote v side).reg (rHeapEvents .s0)).getLsbD 7 = true := by
  unfold State.settleVote
  rw [if_pos h]
  extract_lets g s1
  have hplan : s1.plan = s.plan := State.log_framed (ps := [.regs, .host, .tally, .out]) (by decide)
    (State.event_framed (by decide) (Framed.refl s)) .plan (by decide)
  have hbit : (s1.reg (rHeapEvents .s0)).getLsbD 7 = true := by
    rw [State.reg_log _ _ _ _ _ (by decide)]
    exact s.event_bit _ (by decide)
  clear_value s1
  obtain ⟨list, cause, at_, lost, e⟩ := ({ s1 with plan := { s1.plan with degraded := true } } : State).applyVote_eq v side
  rw [e]
  exact ⟨list, cause, at_, lost, congrArg (fun p : Plan => { p with
    final := list, cause := cause, causeAt := at_, lost := lost, degraded := true }) hplan, hbit⟩

theorem State.settleVote_failed (s : State) (v : VoteItem) {side : Nat} (h : 2 ≤ side) : ∃ at_ lost,
    (s.settleVote v side).plan = { s.plan with cause := some (s.causeWith 13), causeAt := at_, lost := lost } ∧
    ((s.settleVote v side).reg (rHeapEvents .s0)).getLsbD 8 = true := by
  unfold State.settleVote
  rw [if_neg (Nat.not_lt.mpr h)]
  obtain ⟨at_, e⟩ := (s.event (rHeapEvents .s0) 8).invalid_eq reasonVoteFail
  rw [e]
  exact ⟨at_, _, rfl, s.event_bit _ (by decide)⟩

theorem State.settleVote_mem (s : State) (v : VoteItem) (side : Nat) : (s.settleVote v side).mem = s.mem :=
  State.settleVote_framed (List.Subset.refl _) (Framed.refl s) .mem (by decide)

/-- A vote that its third run settles (R283). -/
theorem State.vote_agreed (hv : (s.plan.votesDue.find? fun v => v.id == id) = some v) (hp : s.plan.passed = true)
    (hw : s.plan.walked = false) (hst : s.tick.stopped = false) (hc : s.clocked .s0 = true) {bad : Bool}
    (hs : (s.thirdRunOf v bad).1 < 2) :
    (s.vote id bad).plan.votes = s.plan.votes + 1 ∧ (s.vote id bad).plan.degraded = true ∧ v ∉ (s.vote id bad).plan.votesDue ∧
      ((s.vote id bad).reg (rHeapEvents .s0)).getLsbD 7 = true ∧ (s.vote id bad).mem = s.mem := by
  obtain ⟨votes, settled, -, mem⟩ := s.thirdRun_counted v bad
  obtain ⟨list, cause, at_, lost, hplan, hbit⟩ := ((s.thirdRunOf v bad).2.countVote v).settleVote_agreed v hs
  rw [State.vote_eq hv hp hw hst hc, State.settleVote_mem, hplan]
  exact ⟨votes, rfl, settled, hbit, mem⟩

/-- A vote that its third run fails to settle (R284). -/
theorem State.vote_failed (hv : (s.plan.votesDue.find? fun v => v.id == id) = some v) (hp : s.plan.passed = true)
    (hw : s.plan.walked = false) (hst : s.tick.stopped = false) (hc : s.clocked .s0 = true) {bad : Bool}
    (hs : 2 ≤ (s.thirdRunOf v bad).1) :
    (s.vote id bad).plan.votes = s.plan.votes + 1 ∧ (s.vote id bad).plan.cause = some (s.causeWith 13) ∧
      v ∉ (s.vote id bad).plan.votesDue ∧ ((s.vote id bad).reg (rHeapEvents .s0)).getLsbD 8 = true ∧ (s.vote id bad).mem = s.mem := by
  obtain ⟨votes, settled, cause, mem⟩ := s.thirdRun_counted v bad
  obtain ⟨at_, lost, hplan, hbit⟩ := ((s.thirdRunOf v bad).2.countVote v).settleVote_failed v hs
  rw [State.vote_eq hv hp hw hst hc, State.settleVote_mem, hplan, ← cause]
  exact ⟨votes, rfl, settled, hbit, mem⟩

end Vote

/-! ### Walk-down and record (R286 to R291, R295, R458) -/

theorem State.outcome_lt (s : State) : s.outcome < 4 := by
  unfold State.outcome
  split
  · decide
  · split
    · decide
    · split
      · split <;> decide
      · decide

/-- The last field of a packed word leaves the bits below it. -/
theorem packFields_low (fs : List (Nat × Nat)) {k : Nat} (hk : k ≤ 32) (v : Nat) :
    (packFields (fs ++ [(k, v)])).toNat % 2 ^ k = (packFields fs).toNat % 2 ^ k := by
  unfold packFields
  rw [BitVec.toNat_ofNat, BitVec.toNat_ofNat, List.foldl_append, List.foldl_cons, List.foldl_nil,
    Nat.mod_mod_of_dvd _ (Nat.pow_dvd_pow 2 hk), Nat.mod_mod_of_dvd _ (Nat.pow_dvd_pow 2 hk), Nat.add_mul_mod_self_right]

theorem bits_fcStatus {pos out : Nat} (votes cleared : Nat) (hp : pos < 2048) (ho : out < 4) :
    bits (packFields [(0, pos), (11, out), (16, votes), (24, cleared)]) 12 11 = out := by
  have h24 := packFields_low [(0, pos), (11, out), (16, votes)] (k := 24) (by decide) cleared
  have h16 := packFields_low [(0, pos), (11, out)] (k := 16) (by decide) votes
  have hw : (packFields [(0, pos), (11, out)]).toNat = pos + out * 2048 := by
    show (0 + pos * 1 + out * 2048) % 4294967296 = _
    omega
  simp only [List.cons_append, List.nil_append] at h24 h16
  unfold bits
  omega

/-- What the walk-down leaves. -/
structure WalkedDown (s u : State) : Prop where
  walked : u.plan.walked = true
  status : bits (u.reg (rHeapFcStatus .s0)) 12 11 = s.outcome
  record : u.plan.record = s.plan.record
  final : u.plan.final = s.plan.final

theorem State.walkDown_walked {s : State} (hp : s.plan.passed = true) (hw : s.plan.walked = false) (hv : s.plan.votesDue = [])
    (hst : s.tick.stopped = false) (hc : s.clocked .s0 = true) : WalkedDown s s.walkDown := by
  unfold State.walkDown
  rw [show (s.plan.passed && !s.plan.walked && s.plan.votesDue.isEmpty && !s.tick.stopped && s.clocked .s0) = true by
    rw [hp, hw, hv, hst, hc]; rfl, State.when_true]
  extract_lets out pos cleared s1 s2 unchecked s3 s4 s5 _ s6
  have h1 : bits (s1.reg (rHeapFcStatus .s0)) 12 11 = s.outcome := by
    rw [State.reg_setReg]
    exact bits_fcStatus _ _ (Nat.mod_lt _ (by decide)) s.outcome_lt
  have hkept : RegsKept (· = rHeapFcStatus .s0) s1 s5 := by
    have k2 : RegsKept (· = rHeapFcStatus .s0) s1 s2 := (RegsKept.refl s1).setReg (by decide) _
    have k3 : RegsKept (· = rHeapFcStatus .s0) s1 s3 := k2.when (k2.event (by decide) _)
    have k4 : RegsKept (· = rHeapFcStatus .s0) s1 s4 := k3.when (k3.event (by decide) _)
    exact k4.when (k4.event (by decide) _)
  have hplan : s5.plan = s.plan := by
    have f : Framed [.regs] s s5 :=
      State.when_framed (State.when_framed (State.when_framed (State.setReg_framed (by decide) (State.setReg_framed (by decide) (Framed.refl s)))
        fun _ h => State.event_framed (by decide) h) fun _ h => State.event_framed (by decide) h) fun _ h => State.event_framed (by decide) h
    exact f .plan (by decide)
  have ft : Framed [.chans] s6 (s6.trace .s0 2 s6.listElements) := State.trace_framed (by decide) (Framed.refl s6)
  have htplan : (s6.trace .s0 2 s6.listElements).plan = s6.plan := ft .plan (by decide)
  refine ⟨congrArg Plan.walked htplan, ?_, (congrArg Plan.record htplan).trans (congrArg Plan.record hplan :),
    (congrArg Plan.final htplan).trans (congrArg Plan.final hplan :)⟩
  rw [State.reg_of_regs (ft .regs (by decide))]
  exact (congrArg (fun w => bits w 12 11) (hkept _ rfl)).trans h1

section Emit
variable {s : State}

theorem State.emitRecord_eq (h6 : 6 ≤ s.tick.rel) (hst : s.tick.stopped = false) (hr : s.plan.record = none)
    (hw : s.plan.walked = true ∨ s.plan.cause.isSome = true) :
    s.emitRecord = match s.plan.cause with | some c => s.writeInvalid c | none => s.formRecord s.validBody := by
  unfold State.emitRecord
  rw [decide_eq_true h6, hst, hr, (Bool.or_eq_true _ _).mpr hw]
  rfl

/-- The record of a tick that nothing made INVALID (R286 to R291). -/
theorem State.emitRecord_valid (h6 : 6 ≤ s.tick.rel) (hst : s.tick.stopped = false) (hr : s.plan.record = none)
    (hw : s.plan.walked = true) (hcause : s.plan.cause = none) :
    s.emitRecord.plan = { s.plan with record := some (s.encodeRecord s.validBody) } ∧
      s.emitRecord.dep.check = some (s.encodeRecord s.validBody, s.now) := by
  rw [State.emitRecord_eq h6 hst hr (.inl hw), hcause]
  exact ⟨rfl, rfl⟩

/-- The record of a tick that a cause has made INVALID keeps that cause (R291, R295). -/
theorem State.emitRecord_invalid (h6 : 6 ≤ s.tick.rel) (hst : s.tick.stopped = false) (hr : s.plan.record = none) {c : Nat}
    (hcause : s.plan.cause = some c) :
    s.emitRecord.plan.cause = some c ∧ s.emitRecord.plan.record.isSome = true ∧ s.emitRecord.dep.check.isSome = true := by
  have hself : s.causeWith c = c := by
    unfold State.causeWith
    rw [hcause]
    simp
  obtain ⟨cause, record, -⟩ := s.writeInvalid_written c
  rw [State.emitRecord_eq h6 hst hr (.inr (by rw [hcause]; rfl)), hcause]
  exact ⟨cause.trans (congrArg some hself), record, rfl⟩

end Emit

end Sys2Proof.Machine

namespace Sys2Proof.Machine
open Sys2Proof

/-! ### Operations of the second and third run (R173, R181, R182, R186) -/

/-- The registers of a die that count its operations and the corrected errors in its DRAM. -/
def runCounts (g : Die) (a : Nat) : Prop := a = rPaOps g ∨ a = rDmcEccCe g

/-- What an operation of a run leaves until the die counts it: the run that the die is in, and those counts. -/
structure RerunKept (g : Die) (z s : State) : Prop where
  run : (s.die g).paRun = (z.die g).paRun
  regs : RegsKept (runCounts g) z s

/-- The other registers that an operation of a run writes. -/
theorem not_runCounts (g h : Die) : ∀ a ∈ [rDmcEvents h, rPaPagerBytes h, rPaPagerStall h, rReEvents h], ¬ runCounts g a := by
  unfold runCounts
  cases g <;> cases h <;> decide

namespace RerunKept
variable {g : Die} {z s t : State}

theorem refl (s : State) : RerunKept g s s := ⟨rfl, RegsKept.refl s⟩

theorem trans (h : RerunKept g z s) (k : RerunKept g s t) : RerunKept g z t := ⟨k.run.trans h.run, h.regs.trans k.regs⟩

/-- An operation that leaves the registers, and the dies but for their world-slice bytes. -/
theorem framed {ps : List Part} (h : RerunKept g z s) (f : Framed ps s t) (hp : Part.regs ∉ ps ∧ Part.dies ∉ ps := by decide) :
    RerunKept g z t := by
  obtain ⟨h0, h1⟩ := f .dies hp.2
  refine h.trans ⟨?_, (RegsKept.refl s).framed f hp.1⟩
  cases g
  · exact (congrArg DieState.paRun h0 :)
  · exact (congrArg DieState.paRun h1 :)

theorem setReg (h : RerunKept g z s) {o : Nat} (ho : ¬ runCounts g o) (v : Word) : RerunKept g z (s.setReg o v) := by
  refine ⟨Eq.trans ?_ h.run, h.regs.setReg ho v⟩
  cases g <;> rfl

theorem event (h : RerunKept g z s) {o : Nat} (ho : ¬ runCounts g o) (n : Nat) : RerunKept g z (s.event o n) := h.setReg ho _

theorem count (h : RerunKept g z s) {o : Nat} (ho : ¬ runCounts g o) (n : Nat) : RerunKept g z (s.count o n) := h.setReg ho _

theorem when (h : RerunKept g z s) {c : Bool} {f : State → State} (hf : RerunKept g z (f s)) : RerunKept g z (s.when c f) := by
  cases c
  · exact h
  · exact hf

theorem storeWin (h : RerunKept g z s) (d : Die) (o : Nat) (data : List Byte) : RerunKept g z (s.storeWin d o data) :=
  h.framed (State.storeWin_framed (List.Subset.refl _) (Framed.refl s))

theorem noteStalls (h : RerunKept g z s) (spans : List (Nat × Nat)) : RerunKept g z (s.noteStalls spans) :=
  List.foldlRecOn spans _ h fun v hv p _ => by
    unfold State.noteStall
    split
    · next h _ _ => exact hv.event (not_runCounts g h _ (by simp)) 3
    · exact hv

theorem fetchWeights (h : RerunKept g z s) (d : Die) (n op : Nat) (o : PaOp) : RerunKept g z (s.fetchWeights g d n op o) := by
  unfold State.fetchWeights
  extract_lets x inUse k
  split
  · exact h
  · unfold State.afterFront
    split
    · split
      · exact h
      · beta_reduce
        extract_lets s1 y
        have h1 : RerunKept g z s1 := List.foldlRecOn _ _ h fun v hv p _ => hv.storeWin ..
        have h2 : RerunKept g z (s1.setDie g { y with paHalves := setD none k (some (n, op, d.idx)) y.paHalves }) :=
          ⟨(congrArg DieState.paRun (State.die_setDie ..)).trans h1.run, h1.regs.setDie g _⟩
        exact h2.count (not_runCounts g g _ (by simp)) _
    · exact h.noteStalls _

theorem pageOp (h : RerunKept g z s) (d : Die) (n o : Nat) : RerunKept g z (s.pageOp g d n o) := by
  unfold State.pageOp
  split
  · exact h
  · extract_lets s1 s2
    have h1 : RerunKept g z s1 := h.fetchWeights d n o _
    have h2 : RerunKept g z s2 := by
      show RerunKept g z (if _ then s1 else _)
      split
      · exact h1
      · exact (h1.framed (State.freeWord_framed (List.Subset.refl _) (Framed.refl s1))).count (not_runCounts g g _ (by simp)) _
    clear_value s2
    split
    · exact h2.fetchWeights d n (o + 1) _
    · exact h2

theorem putRows {α : Type} (h : RerunKept g z s) {d : Die} {y : TensorRef} {l : List α} {m : α → Nat} {vs : State → α → List PVal} :
    RerunKept g z (l.foldl (fun s a => s.putRow d y (m a) 0 (vs s a)) s) :=
  List.foldlRecOn l _ h fun v hv _ _ => hv.framed (State.putRow_framed (List.Subset.refl _) (Framed.refl v))

theorem mapRows (h : RerunKept g z s) (d : Die) (y : TensorRef) (post : List PostOp) (f : Nat → List F32) :
    RerunKept g z (s.mapRows d y post f) := h.framed (State.mapRows_framed (List.Subset.refl _) (Framed.refl s))

theorem performOp (h : RerunKept g z s) (d : Die) (n : Nat) (o : PaOp) : RerunKept g z (s.performOp d n o) := by
  cases o with
  | input => exact h.putRows
  | linear => exact h.framed (State.doLinear_framed (List.Subset.refl _) (Framed.refl s))
  | conv1d => exact h.framed (State.doConv_framed (List.Subset.refl _) (Framed.refl s))
  | attention => exact h.framed (State.doAttention_framed (List.Subset.refl _) (Framed.refl s))
  | layernorm => exact h.mapRows ..
  | rmsnorm => exact h.mapRows ..
  | act => exact h.mapRows ..
  | add => exact h.mapRows ..
  | mul => exact h.mapRows ..
  | stateRead => exact h.storeWin ..
  | stateWrite => exact List.foldlRecOn _ _ h fun v hv _ _ => hv.storeWin ..
  | toAnchors =>
    unfold State.performOp
    dsimp only
    split
    · refine h.when ?_
      unfold State.putAnchors
      exact (h.storeWin ..).when ((h.storeWin ..).event (not_runCounts g d _ (by simp)) 2)
    · exact h
  | toTensor => exact h.putRows

theorem rerunHalf (h : RerunKept g z s) (n : Nat) (o : PaOp) (bad : List Nat) : RerunKept g z (s.rerunHalf n g o bad) := by
  unfold State.rerunHalf
  extract_lets op half alone s1
  have h1 : RerunKept g z s1 := h.performOp ..
  exact (h1.when (h1.performOp ..)).framed (State.spoil_framed (List.Subset.refl _) (Framed.refl _))

end RerunKept

section Rerun
variable {s : State} {n : Nat} {g : Die}

/-- What the operation met counted: corrected errors in the policy buffer and in the paged weights. -/
def State.rerunMet (s : State) (g : Die) (ce dram : Nat) : State := (s.taskMet g 0 ce []).countDramCe g dram

theorem State.endRerun_eq (hr : s.rerunning n g = true)
    (hs : ∀ o, s.netOp n (s.die g).paOp = some o →
      s.stalled (s.weightSpans g (s.runHalf g) n (s.die g).paOp o) = []) (status ce dram : Nat) (bad : List Nat) :
    s.endRerun n g status ce dram bad =
      if status = 0 then (s.rerunMet g ce dram).rerunOp n g bad
      else (s.rerunMet g ce dram).failOp g (some (n, (s.die g).paOp)) status := by
  have hspans : s.stalled (((s.netOp n (s.die g).paOp).map fun o =>
      s.weightSpans g (s.runHalf g) n (s.die g).paOp o).getD []) = [] := by
    cases ho : s.netOp n (s.die g).paOp with
    | none => rfl
    | some o => exact hs o ho
  unfold State.endRerun
  dsimp only
  rw [hr, State.when_true, State.afterFront, if_pos hspans]
  rfl

/-- The counts of what the operation met change registers alone, and leave the die's count of operations. -/
structure RerunMet (s w : State) (g : Die) (dram : Nat) : Prop where
  frame : Framed [.regs] s w
  ops : w.reg (rPaOps g) = s.reg (rPaOps g)
  dramCe : w.reg (rDmcEccCe g) = satAddWord (s.reg (rDmcEccCe g)) dram
  dies : w.dies = s.dies

theorem State.rerunMet_met (s : State) (g : Die) (ce dram : Nat) : RerunMet s (s.rerunMet g ce dram) g dram := by
  have apart : rDmcEccCe g ≠ rPaOps g ∧ rDmcEvents g ≠ rPaOps g ∧ ¬ runCounts g (rPaBufCe g) ∧
      ∀ a ∈ [rPaBufCe g, rDmcEccCe g, rDmcEvents g], a ≠ rGlbProfile := by
    unfold runCounts
    cases g <;> decide
  obtain ⟨hce, hev, hbuf, hprofile⟩ := apart
  have hframe : Framed [.regs] s (s.taskMet g 0 ce []) := by
    show Framed [.regs] s ((List.range ce).foldl (fun s _ => s.countCe (.policy g 0)) s)
    exact Framed.foldl (Framed.refl s) fun _ h _ => State.countCe_framed (List.Subset.refl _) h
  have hkept : ∀ {P : Nat → Prop}, ¬ P (rPaBufCe g) → RegsKept P s (s.taskMet g 0 ce []) := by
    intro P hP
    show RegsKept P s ((List.range ce).foldl (fun s _ => s.countCe (.policy g 0)) s)
    exact (RegsKept.refl s).foldl (fun _ _ h => h.count hP 1) _
  have hframe' : Framed [.regs] s (s.rerunMet g ce dram) := State.countDramCe_framed (List.Subset.refl _) hframe
  refine ⟨hframe', ?_, ?_, ?_⟩
  · exact ((RegsKept.refl _).countDramCe (P := (· = rPaOps g)) hce hev dram _ rfl).trans (hkept hbuf _ (.inl rfl))
  · exact (State.reg_countDramCe ..).trans (congrArg (satAddWord · dram) (hkept hbuf _ (.inr rfl)))
  · have hmet : RegsKept (· = rGlbProfile) s (s.taskMet g 0 ce []) := hkept (hprofile _ (by simp))
    exact State.dies_congr (hmet.countDramCe (P := (· = rGlbProfile)) (hprofile _ (by simp)) (hprofile _ (by simp)) dram _ rfl)
      (hframe' .sec (by decide))

/-- What an operation of a run leaves on its die once it is counted. -/
structure OpCounted (s u : State) (n : Nat) (g : Die) : Prop where
  op : (u.die g).paOp = (s.die g).paOp + 1
  busy : (u.die g).paBusy = true ↔ (s.die g).paOp + 1 < (s.net n).ops.length
  run : (u.die g).paRun = (s.die g).paRun
  ops : u.reg (rPaOps g) = satAddWord (s.reg (rPaOps g)) 1
  dramCe : u.reg (rDmcEccCe g) = s.reg (rDmcEccCe g)

theorem State.rerunOp_counted (s : State) (n : Nat) (g : Die) (bad : List Nat) : OpCounted s (s.rerunOp n g bad) n g := by
  unfold State.rerunOp
  extract_lets op s1 s2 last
  have h1 : RerunKept g s s1 := (RerunKept.refl s).pageOp _ n op
  have f1 : Framed [.free, .regs, .mem, .slices, .dies] s s1 := State.pageOp_framed (List.Subset.refl _) (Framed.refl s)
  clear_value s1
  have h2 : RerunKept g s s2 := by
    show RerunKept g s (match s1.netOp n op with | some o => _ | none => _)
    split
    · exact h1.rerunHalf n _ bad
    · exact h1
  have f2 : Framed [.free, .regs, .mem, .slices, .dies] s s2 := by
    show Framed _ s (match s1.netOp n op with | some o => _ | none => _)
    split
    · exact State.rerunHalf_framed (by decide) f1
    · exact f1
  have hnet : s2.net n = s.net n := by
    unfold State.net State.theImage
    rw [show s2.image = s.image from f2 .image (by decide)]
  have hdie : ∀ x : DieState, ((s2.setDie g x).count (rPaOps g) 1).die g = x := fun x => by cases g <;> rfl
  have hne : rDmcEccCe g ≠ rPaOps g := by cases g <;> decide
  refine ⟨?_, ?_, ?_, ?_, ?_⟩
  · rw [hdie]
  · rw [hdie]
    show (!decide ((s2.net n).ops.length ≤ op + 1)) = true ↔ op + 1 < (s.net n).ops.length
    rw [hnet, Bool.not_eq_true', decide_eq_false_iff_not, Nat.not_le]
  · rw [hdie]
    exact h2.run
  · rw [State.reg_count, State.reg_of_regs (State.setDie_regs ..), h2.regs _ (.inl rfl)]
  · rw [State.reg_count_ne _ _ hne, State.reg_of_regs (State.setDie_regs ..), h2.regs _ (.inr rfl)]

/-- A network stopped stands still on every die that plans, and its registers stay. -/
theorem State.stopNets_stopped (s : State) (keep : Option Die) :
    (∀ h ∈ s.dies, ((s.stopNets keep).die h).paBusy = false ∧ ((s.stopNets keep).die h).paStopped = true) ∧
      (s.stopNets keep).regs = s.regs := by
  refine ⟨?_, State.stopNets_framed (List.Subset.refl _) (Framed.refl s) .regs (by decide)⟩
  unfold State.stopNets
  rcases s.dies_cases with e | e <;> rw [e]
  · intro h hh
    obtain rfl := List.mem_singleton.mp hh
    exact ⟨rfl, rfl⟩
  · intro h _
    cases h <;> exact ⟨rfl, rfl⟩

/-- An uncorrectable error of an operation: its event, and the network stopped (R182). -/
theorem State.failOp_stopped (s : State) (g : Die) (op : Option (Nat × Nat)) (status : Nat) :
    (∀ h ∈ s.dies, ((s.failOp g op status).die h).paBusy = false ∧ ((s.failOp g op status).die h).paStopped = true) ∧
      (status = 3 → ((s.failOp g op status).reg (rPaEvents g)).getLsbD 4 = true) ∧
      (status = 19 → ((s.failOp g op status).reg (rPaEvents g)).getLsbD 3 = true) := by
  have hl : rPaEvents g ∉ logRegs := by cases g <;> decide
  unfold State.failOp
  extract_lets p s1 s2
  have f : Framed [.regs, .host, .tally, .out] s s2 := by
    refine State.when_framed ?_ fun _ h => State.log_framed (by decide) h
    exact Framed.ite (State.event_framed (by decide) (Framed.refl s)) (Framed.ite (State.event_framed (by decide) (Framed.refl s)) (Framed.refl s))
  have hregs : EventsKept (rPaEvents g) s1 s2 := EventsKept.of_regsKept
    ((RegsKept.refl s1).when ((RegsKept.refl s1).log (by rintro a ha rfl; exact hl ha) _ _ _ _))
  have hdies : s2.dies = s.dies := by
    have hprofile : rGlbProfile ∉ logRegs ∧ rGlbProfile ≠ rPaEvents g := by cases g <;> decide
    have hev : ∀ k, RegsKept (· = rGlbProfile) s (s.event (rPaEvents g) k) :=
      fun k => RegsKept.event (P := (· = rGlbProfile)) (Ne.symm hprofile.2) k (RegsKept.refl s)
    have k1 : RegsKept (· = rGlbProfile) s s1 := RegsKept.ite (hev 4) (RegsKept.ite (hev 3) (RegsKept.refl s))
    have k2 : RegsKept (· = rGlbProfile) s s2 := k1.when (k1.log (by rintro a ha rfl; exact hprofile.1 ha) _ _ _ _)
    exact State.dies_congr (k2 _ rfl) (f .sec (by decide))
  obtain ⟨hstop, hkeep⟩ := s2.stopNets_stopped (some g)
  refine ⟨fun h hh => hstop h (hdies.symm ▸ hh), ?_, ?_⟩
  · rintro rfl
    rw [State.reg_of_regs hkeep]
    exact hregs 4 (s.event_bit _ (by decide))
  · rintro rfl
    rw [State.reg_of_regs hkeep]
    exact hregs 3 (s.event_bit _ (by decide))

end Rerun

/-! ### A flagged network settled (R187 to R189) -/

/-- PROPOSE ended, where it does, leaves of the plan all but that it has ended. -/
structure ProposeTried (s u : State) : Prop where
  frame : Framed [.regs, .plan] s u
  plan : ∃ ok, u.plan = { s.plan with proposeOk := ok }
  regs : ∀ P : Nat → Prop, (∀ g, ¬ P (rPaProposeNs g) ∧ ¬ P (rPaRstate g)) → RegsKept P s u

theorem State.finishPropose_tried (s : State) : ProposeTried s s.finishPropose := by
  unfold State.finishPropose
  extract_lets _ s1
  have f1 : Framed [.regs] s1 (s1.when (s1.rstateLen != 0) fun s =>
      s.dies.foldl (fun s d => s.setReg (rPaRstate d) (setBit (s.reg (rPaRstate d)) 17 true)) s) :=
    State.when_framed (Framed.refl s1) fun _ h => Framed.foldl h fun _ h _ => State.setReg_framed (by decide) h
  refine ⟨State.finishPropose_framed (List.Subset.refl _) (Framed.refl s), ⟨true, f1 .plan (by decide)⟩, fun P hP => ?_⟩
  have h1 : RegsKept P s s1 := (RegsKept.refl s).of_regs rfl
  exact h1.when (h1.foldl (fun _ d h => h.setReg (hP d).2 _) _)

theorem State.tryPropose_tried (s : State) : ProposeTried s s.tryPropose := by
  unfold State.tryPropose
  extract_lets done
  unfold State.when
  split
  · beta_reduce
    extract_lets ns
    have fns : Framed [.regs] s (s.dies.foldl (fun s d => s.setReg (rPaProposeNs d) (BitVec.ofNat 32 (satNat 32 ns))) s) :=
      Framed.foldl (Framed.refl s) fun _ h _ => State.setReg_framed (by decide) h
    have hns : ∀ P : Nat → Prop, (∀ g, ¬ P (rPaProposeNs g) ∧ ¬ P (rPaRstate g)) →
        RegsKept P s (s.dies.foldl (fun s d => s.setReg (rPaProposeNs d) (BitVec.ofNat 32 (satNat 32 ns))) s) :=
      fun P hP => (RegsKept.refl s).foldl (fun _ d h => h.setReg (hP d).1 _) _
    generalize s.dies.foldl (fun s d => s.setReg (rPaProposeNs d) (BitVec.ofNat 32 (satNat 32 ns))) s = v at *
    obtain ⟨vframe, ⟨ok, vplan⟩, vregs⟩ := v.finishPropose_tried
    exact ⟨(fns.mono (by decide)).trans vframe, ⟨ok, by rw [vplan, show v.plan = s.plan from fns .plan (by decide)]⟩,
      fun P hP => (hns P hP).trans (vregs P hP)⟩
  · exact ⟨Framed.refl s, ⟨s.plan.proposeOk, rfl⟩, fun P _ => RegsKept.refl s⟩

theorem bit_of_or_two_pow (a b : Nat) : (a ||| 2 ^ b) / 2 ^ b % 2 = 1 := by
  have h : (a ||| 2 ^ b).testBit b = true := by rw [Nat.testBit_or, Nat.testBit_two_pow_self, Bool.or_true]
  rwa [Nat.testBit_eq_decide_div_mod_eq, decide_eq_true_eq] at h

/-- A network settled on a die (R188). -/
structure NetSettled (s u : State) (n : Nat) (g : Die) : Prop where
  voted : u.plan.votedNets / 2 ^ settledBit n g % 2 = 1
  run : (u.die g).paRun = 0
  degraded : u.plan.degraded = s.plan.degraded
  mem : u.mem = s.mem
  events : u.reg (rPaEvents g) = s.reg (rPaEvents g)

theorem State.settleNet_settled (s : State) (n : Nat) (g : Die) : NetSettled s (s.settleNet n g) n g := by
  unfold State.settleNet
  extract_lets _ s1
  have hv : ∀ x, (s1.setDie g x).plan = { s.plan with votedNets := s.plan.votedNets ||| 2 ^ settledBit n g } ∧
      (s1.setDie g x).mem = s.mem ∧ (s1.setDie g x).regs = s.regs := fun x => by cases g <;> exact ⟨rfl, rfl, rfl⟩
  obtain ⟨vplan, vmem, vregs⟩ := hv { s1.die g with paRun := 0 }
  have vdie : (s1.setDie g { s1.die g with paRun := 0 }).die g = { s1.die g with paRun := 0 } := State.die_setDie ..
  generalize s1.setDie g { s1.die g with paRun := 0 } = v at *
  obtain ⟨frame, ⟨ok, hplan⟩, hregs⟩ := v.tryPropose_tried
  have hne : ∀ h : Die, ¬ rPaProposeNs h = rPaEvents g ∧ ¬ rPaRstate h = rPaEvents g := by
    cases g <;> (intro h; cases h <;> decide)
  refine ⟨?_, ?_, ?_, (show _ = v.mem from frame .mem (by decide)).trans vmem, ?_⟩
  · rw [hplan, vplan]
    exact bit_of_or_two_pow _ _
  · rw [frame.die_eq g, vdie]
  · rw [hplan, vplan]
  · rw [hregs (· = rPaEvents g) hne _ rfl, State.reg_of_regs vregs]

section Flagged
variable {s : State} {n : Nat} {g : Die}

theorem State.compareNet_agrees (h : s.runEnded n 1 g = true) (he : s.netBytes n g = (s.die g).paFirst) :
    s.compareNet n g = s.settleNet n g := by
  unfold State.compareNet
  rw [h, State.when_true]
  exact if_pos he

/-- The second run differs from the first: a difference counted, and the third run begun (R188). -/
structure ThirdRunBegun (s u : State) (n : Nat) (g : Die) : Prop where
  run : (u.die g).paRun = 2
  second : (u.die g).paSecond = s.netBytes n g
  op : (u.die g).paOp = 0
  busy : (u.die g).paBusy = true
  event : (u.reg (rPaEvents g)).getLsbD 0 = true
  count : u.reg (rPaMismatch g) = satAddWord (s.reg (rPaMismatch g)) 1
  plan : u.plan = s.plan
  mem : u.mem = s.mem

theorem State.compareNet_differs (h : s.runEnded n 1 g = true) (he : s.netBytes n g ≠ (s.die g).paFirst) :
    ThirdRunBegun s (s.compareNet n g) n g := by
  have e : s.compareNet n g = (((s.count (rPaMismatch g) 1).event (rPaEvents g) 0).setDie g
      { ((s.count (rPaMismatch g) 1).event (rPaEvents g) 0).die g with paSecond := s.netBytes n g }).beginRun n 2 g := by
    unfold State.compareNet
    rw [h, State.when_true]
    exact if_neg he
  have hne : rPaMismatch g ≠ rPaEvents g := by cases g <;> decide
  have hregs : (s.compareNet n g).regs = ((s.count (rPaMismatch g) 1).event (rPaEvents g) 0).regs := by
    rw [e]
    exact (State.setDie_regs ..).trans (State.setDie_regs ..)
  have hdie : (s.compareNet n g).die g =
      { s.die g with paSecond := s.netBytes n g, paRun := 2, paNet := n, paOp := 0, paBusy := true } := by
    rw [e]
    cases g <;> rfl
  refine ⟨by rw [hdie], by rw [hdie], by rw [hdie], by rw [hdie], ?_, ?_, ?_, ?_⟩
  · rw [State.reg_of_regs hregs]
    exact State.event_bit _ _ (by decide)
  · rw [State.reg_of_regs hregs, State.reg_event_ne _ _ hne, State.reg_count]
  · rw [e]
    exact (State.setDie_plan ..).trans (State.setDie_plan ..)
  · rw [e]
    exact (State.setDie_mem ..).trans (State.setDie_mem ..)

/-- The third run agrees with one before it: the plan is DEGRADED, and the network is settled (R188). -/
theorem State.thirdRun_agrees (h : s.runEnded n 2 g = true)
    (he : s.netBytes n g = (s.die g).paFirst ∨ s.netBytes n g = (s.die g).paSecond) :
    ∃ w : State, NetSettled w (s.thirdRun n g) n g ∧ w.plan.degraded = true ∧ (w.reg (rPaEvents g)).getLsbD 1 = true ∧ w.mem = s.mem := by
  have hl : rPaEvents g ∉ logRegs := by cases g <;> decide
  unfold State.thirdRun
  rw [h, State.when_true]
  dsimp only
  rw [if_pos he]
  refine ⟨_, State.settleNet_settled _ n g, rfl, ?_, ?_⟩
  · exact ((EventsKept.of_regsKept ((RegsKept.refl _).log (by rintro a ha rfl; exact hl ha) _ _ _ _)) 1 (s.event_bit (rPaEvents g) (by decide)) :)
  · exact State.log_framed (ps := [.regs, .host, .tally, .out]) (by decide) (State.event_framed (by decide) (Framed.refl s)) .mem (by decide)

/-- The registers that the end of a tick's work and a record written INVALID change. -/
def stopRegs : List Nat := [rTickInvalidRun, rHeapFcStatus .s0, rOvmEvents .s0, rOvmEvents .s1, rOvmBpCycles .s0, rOvmBpCycles .s1,
  rOvmAllocCycles .s0, rOvmAllocCycles .s1, rPaRstate .s0, rPaRstate .s1]

section Stops
variable {P : Nat → Prop} {z v : State} (hP : ∀ a ∈ stopRegs, ¬ P a)
include hP

theorem RegsKept.chargeWaits_of_stopRegs (d : Die) (hs : RegsKept P z v) : RegsKept P z (v.chargeWaits d) := by
  have hev : ¬ P (rOvmEvents d) := hP _ (by cases d <;> simp [stopRegs])
  have hbp : ¬ P (rOvmBpCycles d) := hP _ (by cases d <;> simp [stopRegs])
  have hal : ¬ P (rOvmAllocCycles d) := hP _ (by cases d <;> simp [stopRegs])
  unfold State.chargeWaits
  extract_lets x pages o s1 s2
  have h1 : RegsKept P z s1 := hs.setDie d _
  have h2 : RegsKept P z s2 := h1.when ((h1.event hev _).count hbp _)
  exact h2.when ((h2.event hev _).count hal _)

theorem RegsKept.stopWork_of_stopRegs (hs : RegsKept P z v) : RegsKept P z v.stopWork := by
  unfold State.stopWork
  extract_lets w
  have h : RegsKept P z w := by
    have h1 := ((hs.chargeWaits_of_stopRegs hP .s0).chargeWaits_of_stopRegs hP .s1).dropTickOps
    exact (h1.setReg (hP _ (by simp [stopRegs])) _).setReg (hP _ (by simp [stopRegs])) _
  clear_value w
  exact h.of_regs rfl

theorem RegsKept.writeInvalid_of_stopRegs (code : Nat) (hs : RegsKept P z v) : RegsKept P z (v.writeInvalid code) := by
  have h1 : RegsKept P z (v.invalid code) := by
    obtain ⟨at_, e⟩ := v.invalid_eq code
    exact hs.of_regs (by rw [e])
  have hr := hP _ (show rTickInvalidRun ∈ stopRegs by simp [stopRegs])
  have hf := hP _ (show rHeapFcStatus .s0 ∈ stopRegs by simp [stopRegs])
  exact ((h1.formRecord hr _).setField hf _ _ _).setField hf _ _ _

end Stops

/-- The third run agrees with neither: the tick's work stops, and its record is INVALID where none was formed (R189). -/
structure NetFailed (s u : State) (g : Die) : Prop where
  stopped : u.tick.stopped = true
  event : (u.reg (rPaEvents g)).getLsbD 2 = true
  record : u.plan.record.isSome = true
  cause : s.plan.record = none → u.plan.cause = some (s.causeWith 7)
  formed : s.plan.record ≠ none → u.plan = s.plan
  mem : u.mem = s.mem

theorem State.thirdRun_fails (h : s.runEnded n 2 g = true) (h1 : s.netBytes n g ≠ (s.die g).paFirst)
    (h2 : s.netBytes n g ≠ (s.die g).paSecond) : NetFailed s (s.thirdRun n g) g := by
  have e : s.thirdRun n g = if (s.event (rPaEvents g) 2).stopWork.plan.record.isNone
      then (s.event (rPaEvents g) 2).stopWork.writeInvalid reasonPropose else (s.event (rPaEvents g) 2).stopWork := by
    unfold State.thirdRun
    rw [h, State.when_true]
    exact if_neg (not_or.mpr ⟨h1, h2⟩)
  have hP : ∀ a ∈ stopRegs, ¬ a = rPaEvents g := by cases g <;> decide
  have f : Framed [.regs, .tick, .dies, .kl, .out] s (s.event (rPaEvents g) 2).stopWork :=
    State.stopWork_framed (by decide) (State.event_framed (by decide) (Framed.refl s))
  have hstop : (s.event (rPaEvents g) 2).stopWork.tick.stopped = true := rfl
  have hbit : ((s.event (rPaEvents g) 2).stopWork.reg (rPaEvents g)).getLsbD 2 = true := by
    rw [(RegsKept.refl _).stopWork_of_stopRegs (P := (· = rPaEvents g)) hP _ rfl]
    exact s.event_bit _ (by decide)
  rw [e]
  generalize (s.event (rPaEvents g) 2).stopWork = v at *
  have hplan : v.plan = s.plan := f .plan (by decide)
  have hmem : v.mem = s.mem := f .mem (by decide)
  cases hr : s.plan.record with
  | none =>
    rw [if_pos (by rw [hplan, hr]; rfl)]
    have fw := v.writeInvalid_frame reasonPropose
    obtain ⟨hcause, hrecord, -⟩ := v.writeInvalid_written reasonPropose
    refine ⟨(congrArg Tick.stopped (show _ = v.tick from fw .tick (by decide))).trans hstop, ?_, hrecord, fun _ => ?_,
      fun hne => absurd hr hne, (show _ = v.mem from fw .mem (by decide)).trans hmem⟩
    · rw [(RegsKept.refl v).writeInvalid_of_stopRegs (P := (· = rPaEvents g)) hP _ _ rfl]
      exact hbit
    · rw [hcause, State.causeWith_congr hplan (f .now (by decide))]
      rfl
  | some r =>
    rw [if_neg (by rw [hplan, hr]; simp)]
    exact ⟨hstop, hbit, by rw [hplan, hr]; rfl, fun hn => absurd (hr.symm.trans hn) (by simp), fun _ => hplan, hmem⟩

end Flagged

end Sys2Proof.Machine

namespace Sys2Proof.Machine
open Sys2Proof

/-! ### TASK_COMPLETE of the plan's work (R186 to R189, R275 to R295) -/

section PlanWork
variable {s : State} {d : Die} {t : Nat}

/-- TASK_COMPLETE in a tick of a running device. -/
theorem State.when_running (hl : s.tick.live = true) (hd : s.dev = .running) (f : State → State) :
    s.when (s.tick.live && s.dev == .running) f = f s := by
  rw [hl, hd]
  rfl

theorem State.s0_mem_dies (s : State) : .s0 ∈ s.dies := (s.mem_dies .s0).mpr (.inl rfl)

theorem State.rerunning_of {n : Nat} {g : Die} (h2 : s.tick.rel = 2) (hst : s.tick.stopped = false) (hc : s.dies.contains g = true)
    (hb : (s.die g).paBusy = true) (hn : (s.die g).paNet = n) (hr : 1 ≤ (s.die g).paRun)
    (hg : ∀ h ∈ s.dies, s.clocked h = true ∧ (s.die h).paOk = true ∧ (s.die h).paStopped = false ∧
      ((s.die h).paBusy = true → (s.die h).paRun ≠ 0 → (s.die g).paOp ≤ (s.die h).paOp)) : s.rerunning n g = true := by
  have hstep : (s.dies.all fun h => !(s.die h).paBusy || (s.die h).paRun == 0 || decide ((s.die g).paOp ≤ (s.die h).paOp)) = true := by
    refine List.all_eq_true.mpr fun h hh => ?_
    obtain ⟨-, -, -, hop⟩ := hg h hh
    cases hbusy : (s.die h).paBusy
    · rfl
    · by_cases hrun : (s.die h).paRun = 0
      · simp [hrun]
      · simp [hop hbusy hrun]
  have harrays : s.arraysRun = true := by
    refine List.all_eq_true.mpr fun h hh => ?_
    obtain ⟨hclk, hok, hstop, -⟩ := hg h hh
    rw [hclk, hok, hstop]
    rfl
  unfold State.rerunning
  simp only [h2, hst, hc, hb, hn, hr, hstep, harrays, decide_true, beq_self_eq_true, Bool.not_false, Bool.and_self]

theorem rerunOperationEnds : Statements.RerunOperationEnds := by
  intro s d t n die status ce dram bad hl hd h2 hst hc hb hn hr hg hs
  have hexec : exec (.taskComplete d t (.rerun n die status ce dram bad)) s =
      .next ((s.advance t).endRerun n (Die.ofIdx die) status ce dram bad) := congrArg Host.Outcome.next (State.when_running hl hd _)
  generalize Die.ofIdx die = g at *
  have hrun := State.rerunning_of h2 hst hc hb hn hr hg
  obtain ⟨m, e⟩ := s.advance_eq t
  have hend := State.endRerun_eq (s := s.advance t) (n := n) (g := g) (by rw [e]; exact hrun)
    (fun o ho => by
      rw [(AccessAlike.advance s t).stalled]
      rw [e] at ho ⊢
      exact hs o ho) status ce dram bad
  have hf : Framed [.free, .regs, .mem, .slices, .dies, .host, .tally, .out] (s.advance t) ((s.advance t).endRerun n g status ce dram bad) :=
    State.endRerun_framed (List.Subset.refl _) (Framed.refl _)
  have hplan := (show _ = (s.advance t).plan from hf .plan (by decide)).trans (s.advance_plan t)
  have htick := (show _ = (s.advance t).tick from hf .tick (by decide)).trans (s.advance_tick t)
  have hdev := (show _ = (s.advance t).dev from hf .dev (by decide)).trans (s.advance_dev t)
  obtain ⟨mframe, mops, mdram, mdies⟩ := (s.advance t).rerunMet_met g ce dram
  refine ⟨fun h0 => ⟨_, hexec, ?_⟩, fun h0 => ⟨_, hexec, ?_⟩⟩
  · rw [hend, if_pos h0] at hplan htick hdev ⊢
    obtain ⟨cop, cbusy, crun, cops, cdram⟩ := ((s.advance t).rerunMet g ce dram).rerunOp_counted n g bad
    have hdie : ((s.advance t).rerunMet g ce dram).die g = s.die g := (mframe.die_eq g).trans (s.advance_die t g)
    have hnet : ((s.advance t).rerunMet g ce dram).net n = s.net n := by
      unfold State.net State.theImage
      rw [show ((s.advance t).rerunMet g ce dram).image = (s.advance t).image from mframe .image (by decide), s.advance_image]
    rw [hdie] at cop cbusy crun
    rw [hnet] at cbusy
    rw [mops, State.reg_advance] at cops
    rw [mdram, State.reg_advance] at cdram
    exact ⟨cop, cbusy, crun, cops, cdram, hplan, htick, hdev⟩
  · rw [hend, if_neg h0] at hplan htick hdev ⊢
    obtain ⟨hstop, h3, h19⟩ := ((s.advance t).rerunMet g ce dram).failOp_stopped g (some (n, ((s.advance t).die g).paOp)) status
    exact ⟨fun h hh => hstop h ((mdies.trans (State.dies_congr (s.reg_advance t _) (s.advance_sec t))).symm ▸ hh), h3, h19, hplan, htick, hdev⟩

theorem State.netOutputs_now (s : State) (m : Nat) (g : Die) (splits : List (Nat × Option Nat)) (ops : List PaOp) :
    State.netOutputs { s with now := m } g splits ops = s.netOutputs g splits ops := by
  induction ops generalizing splits with
  | nil => rfl
  | cons o ops ih =>
    unfold State.netOutputs
    exact congrArg _ (ih _)

/-- The bytes of a network's outputs are the same at any device time. -/
theorem State.netBytes_now (s : State) (m n : Nat) (g : Die) : State.netBytes { s with now := m } n g = s.netBytes n g := by
  unfold State.netBytes
  rw [show State.netOutputs { s with now := m } g [] (State.net { s with now := m } n).ops = s.netOutputs g [] (s.net n).ops from
    s.netOutputs_now m g [] _]
  rfl

theorem flaggedNetworkIsSettled : Statements.FlaggedNetworkIsSettled := by
  intro s d t n die hl hd
  have hcompare : exec (.taskComplete d t (.compare n die)) s = .next ((s.advance t).compareNet n (Die.ofIdx die)) :=
    congrArg Host.Outcome.next (State.when_running hl hd _)
  have hthird : exec (.taskComplete d t (.third n die)) s = .next ((s.advance t).thirdRun n (Die.ofIdx die)) :=
    congrArg Host.Outcome.next (State.when_running hl hd _)
  generalize Die.ofIdx die = g at *
  obtain ⟨m, e⟩ := s.advance_eq t
  rw [e] at hcompare hthird ⊢
  have hbytes := s.netBytes_now m n g
  refine ⟨fun hr => ⟨fun he => ?_, fun he => ?_⟩, fun hr => ⟨fun he => ?_, fun h1 h2 => ?_⟩⟩
  · rw [State.compareNet_agrees (s := { s with now := m }) hr (hbytes.trans he)] at hcompare
    obtain ⟨hvoted, hrun, hdegraded, hmem, -⟩ := State.settleNet_settled { s with now := m } n g
    exact ⟨_, hcompare, hvoted, hrun, hdegraded, hmem⟩
  · obtain ⟨hrun, hsecond, hop, hbusy, hevent, hcount, hplan, hmem⟩ := 
      State.compareNet_differs (s := { s with now := m }) hr (hbytes.trans_ne he)
    exact ⟨_, hcompare, hrun, hsecond.trans hbytes, hop, hbusy, hevent, hcount, hplan, hmem⟩
  · obtain ⟨w, ⟨hvoted, hrun, hdegraded, hmem, hevents⟩, wdegraded, wevent, wmem⟩ := 
      State.thirdRun_agrees (s := { s with now := m }) hr (hbytes.symm ▸ he)
    exact ⟨_, hthird, hdegraded.trans wdegraded, hvoted, hrun, hevents ▸ wevent, hmem.trans wmem⟩
  · obtain ⟨hstopped, hevent, hrecord, hcause, hformed, hmem⟩ := 
      State.thirdRun_fails (s := { s with now := m }) hr (hbytes.trans_ne h1) (hbytes.trans_ne h2)
    exact ⟨_, hthird, hstopped, hevent, hrecord, hcause, hformed, hmem⟩

/-- On dies whose clocks do not run neither the pass nor a comparison nor the walk-down ends (R590). -/
theorem State.unclocked_stays (hc : s.clocked .s0 = false) : s.endPass = s ∧ s.endSweepCompare = s ∧ s.walkDown = s := by
  have hpass : (s.dies.all fun g => s.clocked g && s.phaseTasksDone g 4) = false :=
    List.all_eq_false.mpr ⟨.s0, s.s0_mem_dies, by simp [hc]⟩
  have hsweep : s.dies.all s.clocked = false := List.all_eq_false.mpr ⟨.s0, s.s0_mem_dies, by simp [hc]⟩
  refine ⟨?_, ?_, ?_⟩
  · unfold State.endPass
    rw [hpass, Bool.and_false, State.when_false]
  · unfold State.endSweepCompare
    rw [hsweep, Bool.and_false, State.when_false]
  · unfold State.walkDown
    rw [hc, Bool.and_false, State.when_false]

theorem State.endSweepCompare_eq (hp : s.profile = 3) (h3 : 3 ≤ s.tick.rel) (h5 : s.tick.rel ≤ 5) (hst : s.tick.stopped = false)
    (hpa : s.plan.passed = false) (hc : s.dies.all s.clocked = true) : s.endSweepCompare = s.compareSwept := by
  unfold State.endSweepCompare
  rw [hp, decide_eq_true (⟨h3, h5⟩ : 3 ≤ s.tick.rel ∧ s.tick.rel ≤ 5), hst, hpa, hc]
  rfl

end PlanWork

theorem selectAndEmitEnd : Statements.SelectAndEmitEnd := by
  intro s d t hl hd hst
  have hexec : ∀ {what : Ending} {f : State → State}, (execTaskComplete d t what s = .next (s.when (s.tick.live && s.dev == .running)
      fun s => f (s.advance t))) → exec (.taskComplete d t what) s = .next (f (s.advance t)) :=
    fun h => h.trans (congrArg Host.Outcome.next (State.when_running hl hd _))
  have hpass : exec (.taskComplete d t .pass) s = .next (s.advance t).endPass := hexec rfl
  have hsweep : exec (.taskComplete d t .sweepCompare) s = .next (s.advance t).endSweepCompare := hexec rfl
  have hwalk : exec (.taskComplete d t .walkDown) s = .next (s.advance t).walkDown := hexec rfl
  have hemit : exec (.taskComplete d t .emit) s = .next (s.advance t).emitRecord := hexec rfl
  have hvote : ∀ id bad, exec (.taskComplete d t (.vote id bad)) s = .next ((s.advance t).vote id bad) := fun id bad => hexec (f := fun s => s.vote id bad) rfl
  clear hexec
  obtain ⟨m, e⟩ := s.advance_eq t
  rw [e] at hpass hsweep hwalk hemit ⊢
  simp only [e] at hvote
  have hemitted : Framed [.regs, .plan, .chans, .dep] { s with now := m } (State.emitRecord { s with now := m }) :=
    State.emitRecord_framed (List.Subset.refl _) (Framed.refl _)
  refine ⟨fun hc what hw => ?_, fun h5 hp hdone => ?_, fun hprof h3 h5 hp hc => ?_, fun id bad v hv hp hw => ⟨fun hc => ?_, fun hc hs => ?_, fun hc hs => ?_⟩,
    fun hp hw hv hc => ?_, fun h6 hr => ⟨fun hw hcause => ?_, fun c hcause => ?_⟩⟩
  · obtain ⟨epass, esweep, ewalk⟩ := State.unclocked_stays (s := { s with now := m }) hc
    simp only [List.mem_cons, List.not_mem_nil, or_false] at hw
    rcases hw with rfl | rfl | rfl
    · rw [hpass, epass]
    · rw [hsweep, esweep]
    · rw [hwalk, ewalk]
  · obtain ⟨⟨ended, due, cause, at_, lost, dense, hplan, hended, hfew, hmany⟩, hevent, hmem⟩ :=
      State.endPass_ended (s := { s with now := m }) h5 hst hp hdone
    have hframe : Framed [.regs, .mem, .slices, .plan] { s with now := m } (State.endPass { s with now := m }) :=
      State.endPass_framed (List.Subset.refl _) (Framed.refl _)
    refine ⟨_, hpass, ?_, ?_, ?_, ?_, hevent, ?_, ?_, ?_, hframe .tick (by decide), hmem, fun hrun => ?_⟩
    · rw [hplan]; rfl
    · rw [hplan]; rfl
    · rw [hplan]; exact hfew
    · rw [hplan]; exact hmany
    · rw [hplan]; exact hended
    · rw [hplan]; rfl
    · rw [hplan]; rfl
    · rw [hmem]
      rw [State.writeOutputs_run (s := { s with now := m }) hrun]
  · have he := State.endSweepCompare_eq (s := { s with now := m }) hprof h3 h5 hst hp hc
    rw [he] at hsweep
    obtain ⟨hframe, -, hplan, hended, hevent⟩ := State.compareSwept_compared { s with now := m }
    refine ⟨_, hsweep, ?_, hended, hevent, ?_, hframe .tick (by decide), hframe .mem (by decide)⟩
    · rw [hplan]; rfl
    · rw [hplan]
  · rw [hvote, State.vote_unclocked (s := { s with now := m }) hc]
  · exact ⟨_, hvote id bad, State.vote_agreed (s := { s with now := m }) hv hp hw hst hc hs⟩
  · exact ⟨_, hvote id bad, State.vote_failed (s := { s with now := m }) hv hp hw hst hc hs⟩
  · obtain ⟨hwalked, hstatus, hrecord, hfinal⟩ := State.walkDown_walked (s := { s with now := m }) hp hw hv hst hc
    have hframe : Framed [.regs, .plan, .chans] { s with now := m } (State.walkDown { s with now := m }) :=
      State.walkDown_framed (List.Subset.refl _) (Framed.refl _)
    exact ⟨_, hwalk, hwalked, hstatus, hrecord, hfinal, hframe .tick (by decide), hframe .mem (by decide)⟩
  · obtain ⟨hplan, hcheck⟩ := State.emitRecord_valid (s := { s with now := m }) h6 hst hr hw hcause
    exact ⟨_, hemit, by rw [hplan], hcheck, by rw [hplan]; exact hcause, hemitted .tick (by decide), hemitted .mem (by decide)⟩
  · obtain ⟨hkept, hrecord, hcheck⟩ := State.emitRecord_invalid (s := { s with now := m }) h6 hst hr hcause
    exact ⟨_, hemit, hkept, hrecord, hcheck, hemitted .tick (by decide), hemitted .mem (by decide)⟩

/-- Settles O39: the runs of a flagged network, its comparisons, and what ends a tick's SELECT and EMIT. -/
theorem planWorkEnds : Obligations.PlanWorkEnds := ⟨rerunOperationEnds, flaggedNetworkIsSettled, selectAndEmitEnd⟩

end Sys2Proof.Machine
